-- ==== Sys2Proof/Word.lean ====
section
/-! DEFINITION. The word types of the Ebrok-8 and their plainest arithmetic. -/

namespace Sys2Proof

/-- A register: every register is 32 bits wide (chapter 00, "Registers"). -/
abbrev Word := BitVec 32

/-- A row of a bed: bit `i` belongs to cell `i` or inbound lane `i` (chapter 04, R89). -/
abbrev Row := BitVec 16

/-- One byte, the smallest addressable unit of HBM and of the non-volatile memories. -/
abbrev Byte := BitVec 8

/-- The number in bits `[lo + w - 1 : lo]` of `v`. -/
abbrev slice (v lo w : Nat) : Nat := v / 2 ^ lo % 2 ^ w

/-- `v` with bits `[lo + w - 1 : lo]` replaced by the low `w` bits of `x`. -/
abbrev patch (v lo w x : Nat) : Nat :=
  v % 2 ^ lo + 2 ^ lo * (x % 2 ^ w) + 2 ^ (lo + w) * (v / 2 ^ (lo + w))

/-- `1` for true, `0` for false. -/
abbrev bit (b : Bool) : Nat := if b then 1 else 0

end Sys2Proof
end

