-- ==== Sys2Proof/Syntax.lean ====
section
/-! DEFINITION. The commands of the Ebrok-8 (DE8-HX48): one constructor of `Instr` per row of
spec/opcode_table.json, with the operands that the row's rules name. A command of a unit that reads its own
instruction or table memory (a cell, a word unit, a port unit, a lane) carries only the unit's place: the word
is the one that memory holds at the partition's current step (R12). The units' commands stand last, since the compiler
builds no constructor beyond the 244th. -/

namespace Sys2Proof

/-- Who sends a register access (R392): the boot controller, the physical function, virtual function
`n + 1`, a transactor core, or an initiator of another device, whose request a link bridge takes from a port with the
stamp that its own NI gave it (R393): IDKIND 0 PF, 1 PARTITION, 2 BOOT, and PID. -/
inductive Who where
  | boot
  | pf
  | vf (n : Fin 32)
  | core (die : Fin 8) (core : Fin 32)
  | net (port : Fin 16) (kind : Fin 3) (pid : BitVec 8)
  deriving DecidableEq, Repr

/-- A wall of the device (R7). -/
structure WallLoc where
  die  : Fin 8
  wall : Fin 16
  deriving DecidableEq, Repr

/-- A course, the place of a port unit (R8). -/
structure CourseLoc extends WallLoc where
  course : Fin 16
  deriving DecidableEq, Repr

/-- A bed, the place of a word unit (R8). -/
structure BedLoc extends CourseLoc where
  bed : Fin 16
  deriving DecidableEq, Repr

/-- A cell (R7). -/
structure CellLoc extends BedLoc where
  cell : Fin 16
  deriving DecidableEq, Repr

/-- A course, wall or die switch (R110). -/
inductive SwitchLoc where
  | course (c : CourseLoc)
  | wall (w : WallLoc)
  | die (d : Fin 8)
  deriving DecidableEq, Repr

/-- Sizes of a control-network access (R386). -/
inductive AccSize where
  | b4
  | b8
  | b32
  | b64
  deriving DecidableEq, Repr

/-- A section of a container as the loader receives it: its table entry (R339) and its bytes. -/
structure Section where
  kind      : Nat          -- KIND
  target    : Nat          -- TARGET
  flags     : Nat          -- FLAGS: [0] KEKSRC, [1] AUTOSTART, [15:8] PID
  enc       : Bool         -- ENC of the container header
  iv        : Nat
  tag       : Nat
  wrapped   : Nat
  hash      : Nat
  aad       : Nat          -- bytes 0x00 to 0x27 of the entry, as a number
  body      : List Byte    -- ciphertext, or plaintext when `enc` is false
  deriving DecidableEq, Repr

/-- What a response packet carries beside its status (R386, R190): the data, and MASK, the words that a collision
discarded. -/
structure RespBody where
  mask : BitVec 4
  data : BitVec 512
  deriving DecidableEq, Repr

/-- A sense failure that March C- reports inside the region under test (R193): row of the sub-array, column
select, bit 0 to 71. -/
structure MarchFail where
  row : Fin 512
  col : Fin 16
  bit : Fin 72
  deriving DecidableEq, Repr

/-- The commands. -/
inductive Instr where
  -- registers (R9, R11)
  | registerWrite (who : Who) (off : Nat) (val : Word)
  | rcRead (who : Who) (off : Nat)
  | lohiLoRead (who : Who) (off : Nat)
  | lohiLoWrite (who : Who) (off : Nat) (val : Word)
  | lohiHiWrite (who : Who) (off : Nat) (val : Word)
  -- bays
  | bayDutStep (w : WallLoc)
  | bayrdDelivery (u : CourseLoc)
  | bayServiceRead (who : Who) (w : WallLoc) (off : Fin 0x100000) (size : AccSize)
  | bayServiceWrite (who : Who) (w : WallLoc) (off : Fin 0x100000) (size : AccSize) (data : BitVec 256)
  -- the partition's cycle
  | endOfCycleCommit (slot : Fin 32)
  | cycleBegin (slot : Fin 32) (others : BitVec 4)
  | gateRound (slot : Fin 32) (others : BitVec 4)
  | start (who : Who) (slot : Fin 32)
  | stop (who : Who) (slot : Fin 32)
  | stopNow (who : Who) (slot : Fin 32)
  | partReset (who : Who) (slot : Fin 32)
  | swholdWrite (who : Who) (slot : Fin 32) (val : Word)
  | holdObserved (slot : Fin 32) (others : BitVec 4)
  | holdRelease (slot : Fin 32) (others : BitVec 4)
  | holdTimeout (slot : Fin 32)
  | gateTimeout (slot : Fin 32)
  | plumbUp (port : Fin 16) (pid : BitVec 8) (st : BitVec 4)
  | plumbDown (port : Fin 16) (pid : BitVec 8) (st : BitVec 4)
  | rollCallLoss (slot : Fin 32) (pos : Fin 16)
  | sever (port : Fin 16) (pid : BitVec 8) (lost : BitVec 12) (reason : BitVec 2) (detector : BitVec 12)
  | stopNotice (port : Fin 16) (pid : BitVec 8) (code : BitVec 8) (imm : Bool) (dev : BitVec 12) (cyc : BitVec 27)
  | debugCtrlWrite (who : Who) (val : Word)
  | partitionSection (sec : Section)
  -- access ports
  | bedAccRead (who : Who) (die : Fin 8)
  | bedAccWrite (who : Who) (die : Fin 8) (setPres clrPres : Bool)
  | bedAccDone (die : Fin 8)
  | wuAccRead (who : Who) (die : Fin 8)
  | wuAccWrite (who : Who) (die : Fin 8)
  | wuAccDone (die : Fin 8)
  | mortarAccRead (who : Who) (die : Fin 8)
  | mortarAccWrite (who : Who) (die : Fin 8)
  | laneCfgWrite (who : Who) (die : Fin 8)
  | mortarAccDone (die : Fin 8)
  -- the mortar
  | laneSend (b : BedLoc) (lane : Fin 16)
  | laneRelay (b : BedLoc) (lane : Fin 16)
  | switchEntry (sw : SwitchLoc) (out : Fin 5120) (step : Fin 512)
  | moduleEntry (die : Fin 8) (module : Fin 4) (pos : Fin 512) (step : Fin 512)
  | moduleTransferReceive (die : Fin 8) (module : Fin 4) (step : Fin 512) (crcOk : Bool)
  | linkSendEntry (port : Fin 16) (slot : Fin 32) (step : Fin 512)
  | mortarFrame (port : Fin 16) (hdr : BitVec 24) (payload : List Bool)
  | landingWrite (b : BedLoc) (lane : Fin 16) (step : Fin 512)
  -- memory-model engines
  | mmeWalk (die : Fin 8) (engine : Fin 4) (req : Nat)
  | mmePageEntryFree (die : Fin 8) (engine : Fin 4)
  | pageServiceMessageWritten (die : Fin 8) (engine : Fin 4)
  | memPsDone (who : Who) (slot : Fin 32) (page : BitVec 31)
  | memPsFail (who : Who) (slot : Fin 32) (page : BitVec 31)
  | mmeDelivery (die : Fin 8) (engine : Fin 4) (req : Nat)
  | memTcInv (who : Who) (die : Fin 8) (val : Word)
  | memTcInvDone (die : Fin 8)
  | mmeFence (who : Who) (die : Fin 8) (engine : Fin 4) (val : Word)
  | mmeFenceDone (die : Fin 8) (engine : Fin 4)
  -- Newt
  | newtRegionStart (die : Fin 8)
  | newtSaveEnd (die : Fin 8)
  | newtMarchEnd (die : Fin 8) (fails : List MarchFail)
  | newtFillEnd (die : Fin 8)
  | newtRestoreEnd (die : Fin 8)
  | newtReq (who : Who) (die : Fin 8) (val : Word)
  | unpin (who : Who) (die : Fin 8)
  -- transactor cores, portals, dispatcher
  | jnext (die : Fin 8) (core : Fin 32)
  | jdone (die : Fin 8) (core : Fin 32) (val : BitVec 64)
  | jqdataPop (die : Fin 8) (core : Fin 32)
  | jqdataPush (die : Fin 8) (core : Fin 32) (val : BitVec 64)
  | jqend (die : Fin 8) (core : Fin 32) (val : BitVec 64)
  | jrsp (die : Fin 8) (core : Fin 32) (val : BitVec 64)
  | portalMessageWritten (u : CourseLoc)
  | portalResponse (die : Fin 8) (core : Fin 32)
  | taskTimeout (die : Fin 8) (task : Fin 512)
  | dispatch (die : Fin 8)
  | dispFlagSet (who : Who) (die : Fin 8) (task : Fin 512) (flag : Fin 32)
  | dispFlagClear (who : Who) (die : Fin 8) (task : Fin 512) (flag : Fin 32)
  | taskCfgWrite (who : Who) (die : Fin 8) (val : Word)
  | taskHistClear (who : Who) (die : Fin 8)
  | coreBindWrite (who : Who) (die : Fin 8) (core : Fin 32) (val : Word)
  | coreReset (who : Who) (die : Fin 8) (core : Fin 32)
  -- queues
  | queueCfgWrite (who : Who) (die : Fin 8) (q : Fin 128) (val : Word)
  | queueEnable (who : Who) (die : Fin 8) (q : Fin 128)
  | queueDisable (who : Who) (die : Fin 8) (q : Fin 128)
  | flush (who : Who) (die : Fin 8) (q : Fin 128)
  | queueReset (who : Who) (die : Fin 8) (q : Fin 128)
  | queuePop (who : Who) (die : Fin 8) (q : Fin 128)
  | queuePush (who : Who) (die : Fin 8) (q : Fin 128) (hi : Word)
  | packetReadable (die : Fin 8) (q : Fin 128)
  -- recorder
  | recArm (who : Who) (slot : Fin 32)
  | recStart (who : Who) (slot : Fin 32)
  | recStop (who : Who) (slot : Fin 32)
  | recOff (who : Who) (slot : Fin 32)
  | recSnap (who : Who) (slot : Fin 32)
  | restore (who : Who) (slot : Fin 32)
  | recRegionWrite (who : Who) (slot : Fin 32) (val : Word)
  | recTailWrite (who : Who) (slot : Fin 32) (hi : Word)
  | snapEnd (slot : Fin 32)
  | recorderBufferDrained (die : Fin 8) (packets : Nat)
  | feedPacket (slot : Fin 32)
  | dumpRowCopy (slot : Fin 32) (w : WallLoc) (step : Fin 512)
  -- trigger units
  | trigArm (who : Who) (die : Fin 8) (unit : Fin 4)
  | trigDisarm (who : Who) (die : Fin 8) (unit : Fin 4)
  | trigForce (who : Who) (die : Fin 8) (unit : Fin 4)
  | triggerInputEdge (input : Fin 8)
  | probeMapWrite (who : Who) (die : Fin 8) (val : Word)
  | probeMapRead (who : Who) (die : Fin 8)
  -- chain links
  | skinkBlock (port : Fin 16) (lane : Fin 4) (bits : BitVec 280) (replay : Bool)
  | symbolSilenceTimeout (port : Fin 16)
  | nak (port : Fin 16) (block : BitVec 24)
  | heartbeatInterval (port : Fin 16)
  | heartbeat (port : Fin 16)
  | laneTrain (who : Who) (port : Fin 16) (lane : Fin 4) (val : Word)
  | trainingTimeout (port : Fin 16) (lane : Fin 4)
  | linkBitslip (who : Who) (port : Fin 16) (lane : Fin 4)
  | headerLock (port : Fin 16) (lane : Fin 4)
  | blockLock (port : Fin 16) (lane : Fin 4)
  | caps (port : Fin 16) (lane : Fin 4) (content : BitVec 56)
  | presencePoll (port : Fin 16) (lane : Fin 4) (signal : Bool)
  | rateReqSend (who : Who) (port : Fin 16) (val : Word)
  | rateReq (port : Fin 16) (rate : BitVec 3)
  | rateAck (port : Fin 16) (rate : BitVec 3) (refused : Bool)
  | rateSwitch (port : Fin 16)
  | pstateRequest (who : Who) (port : Fin 16) (val : Word)
  | pstate (port : Fin 16) (st : BitVec 2)
  | portWake (port : Fin 16)
  | dormantRelockTimeout (port : Fin 16)
  | enumStart (who : Who)
  | search (epoch : BitVec 8) (next : BitVec 13)
  | count (epoch : BitVec 8) (n : BitVec 13) (overflow : Bool)
  | commit (epoch : BitVec 8) (n : BitVec 13)
  | commitAck (epoch : BitVec 8)
  | abort (epoch : BitVec 8) (reason : BitVec 4)
  | enumCountTimeout
  | neighbor (port : Fin 16) (addr : BitVec 12) (peer : BitVec 4)
  | tree (port : Fin 16) (epoch : BitVec 8) (hop : BitVec 8) (sender : BitVec 12)
  | treeWindowClose
  | treeAck (port : Fin 16) (epoch : BitVec 8) (child : BitVec 12)
  | treePhaseEnd
  | busToken (port : Fin 16) (epoch : BitVec 8) (passed : BitVec 13)
  | busListenEnd (sync : Bool) (present : BitVec 16)
  -- resets, boot, update, security
  | powerOnReset
  | resetN
  | warmReset (who : Who)
  | imageStream (hdr : List Byte)
  | endMark
  | doneRise
  | doneFall
  | loadGo (who : Who)
  | recoveryGo (who : Who)
  | updateWrite (who : Who) (target slot : Bool)
  | updateVerify (who : Who) (target slot : Bool)
  | activate (who : Who) (target slot : Bool)
  | confirm (who : Who) (target : Bool)
  | lcTransition (who : Who) (target : BitVec 3)
  | tamperDetect (source : Fin 4)
  | keyramLoad (who : Who)
  | keyramWipe (who : Who)
  | vbatLoss
  -- time
  | timeSet (who : Who) (hi : Word)
  | timeIncWrite (who : Who) (hi : Word)
  | ppsEdge
  | ppsHoldoverTimeout
  | timeMsgTimeout
  | synced (who : Who)
  | timeSecond
  | time (port : Fin 16) (hops : BitVec 4) (sec : BitVec 48)
  | check (port : Fin 16) (t : BitVec 48)
  | launchArm (who : Who) (val : Word)
  | launchDisarm (who : Who)
  | launchFire (slot : Fin 16)
  | fired (port : Fin 16) (pid : BitVec 8) (tag : BitVec 4) (membersM1 : BitVec 12) (cyc : BitVec 28)
  | go (port : Fin 16) (pid : BitVec 8) (tag : BitVec 4) (cyc : BitVec 28)
  | epochClose
  | meterExport (who : Who)
  -- control network
  | requestSend (die : Fin 8) (ni : Fin 64) (tag : Fin 32) (write : Bool) (size : AccSize) (addr : BitVec 52)
      (data : BitVec 512)
  | cnRequest (who : Who) (write : Bool) (space : Bool) (off : BitVec 39) (size : AccSize) (data : BitVec 512)
  | cnResponse (die : Fin 8) (ni : Fin 64) (tag : Fin 32) (gen : BitVec 2) (status : BitVec 4) (body : RespBody)
  | requestTimeout (die : Fin 8) (ni : Fin 64) (tag : Fin 32)
  | wakeNotice (die : Fin 8) (ni : Fin 64) (tag : Fin 32)
  | wakePauseExpiry (die : Fin 8) (ni : Fin 64) (tag : Fin 32)
  | snoopInvalidation (die : Fin 8) (line : BitVec 33)
  | routeEntryRead (who : Who) (die : Fin 8)
  | routeEntryWrite (who : Who) (die : Fin 8)
  -- HBM
  | hbmRequest (who : Who) (write : Bool) (addr : BitVec 39) (size : AccSize) (data : BitVec 512) (hint : BitVec 2)
  | patrolScrub (die : Fin 8)
  | bankRefresh (die : Fin 8) (pc : Fin 32) (bank : Fin 64) (tempC : BitVec 8)
  | pseudoChannelRetrain (die : Fin 8) (pc : Fin 32)
  | hbmTraining (die : Fin 8)
  | hbmTrainingDone (die : Fin 8) (repairs : BitVec 6) (unrepairable : Bool)
  | ownershipEntryWrite (who : Who) (die : Fin 8) (val : Word)
  | ownershipEntryRead (who : Who) (die : Fin 8)
  -- power
  | plChangeRequest (who : Who) (target : BitVec 2)
  | plChangeFrozen
  | voltDone (who : Who)
  | voltageTimeout
  | pllRelock
  | refclkLost
  | domainCtrlWrite (who : Who) (val : Word)
  | domainPowerUp (die : Fin 8) (dom : Fin 3)
  | park (who : Who) (val : Word)
  | slumber (who : Who) (val : Word)
  | cancel (who : Who)
  | drainEnd
  | drainTimeout
  | entryPhaseEnd
  | wakePin (pin : Fin 256)
  | wakeLink (port : Fin 16)
  | wakeTimer
  | wakePcie
  | wakeNet
  | designRestoreDone
  | off
  -- general pins
  | routeDataWrite (who : Who) (val : Word)
  | periphEnWrite (who : Who) (val : Word)
  | uartTransmit (u : Fin 2)
  | uartReceive (u : Fin 2) (byte : Byte) (framing brk : Bool)
  | i2cCommand (k : Fin 4) (byteIn : Byte) (nack arbLost : Bool)
  | smbusTimeout (k : Fin 4)
  | spiTransfer (k : Fin 4) (miso : Word)
  | gpTgtWrite (who : Who) (pin : Fin 256) (second : Bool) (val : Word)
  | gpOutSet (who : Who) (bank : Fin 8) (val : Word)
  | gpOutClr (who : Who) (bank : Fin 8) (val : Word)
  | gpOutTgl (who : Who) (bank : Fin 8) (val : Word)
  | gpInterrupt (pin : Fin 256) (level : Bool)
  | release (who : Who) (bank : Fin 8)
  -- host interface
  | bar0Access (func : Fin 33) (write : Bool) (off : BitVec 27) (dwords : Nat) (data : BitVec 512) (partialBE : Bool)
  | bar2Access (func : Fin 33) (write : Bool) (off : BitVec 39) (bytes : Nat) (data : BitVec 512)
  | perst
  | functionLevelReset (func : Fin 33)
  | cfgtxBegin (who : Who) (device : Bool) (slot : Fin 32)
  | cfgtxCommit (who : Who) (device : Bool) (slot : Fin 32)
  | cfgtxAbort (who : Who) (device : Bool) (slot : Fin 32)
  | rwtWrite (who : Who) (off : Nat) (val : Word)
  | eseqStagingWrite (who : Who) (slot : Fin 32) (hi : Word)
  | evtSw (who : Who) (val : Word)
  | evtRouteWrite (who : Who) (off : Nat) (val : Word)
  | vectorMessage (func : Fin 34) (vector : Fin 1024)
  | vectorUnmask (func : Fin 34) (vector : Fin 1024)
  | blockLockLoss (port : Fin 16) (lane : Fin 4)
  | tclkTick
  | rcOscillatorTick
  | refclkReturn
  | cowBufferDrained (slot : Fin 32) (rows : Nat)
  | zeroFillDone (die : Fin 8)
  | vddioChange (bank : Fin 8) (present v33 : Bool)
  -- cells (R57)
  | nop (c : CellLoc)
  | eval (c : CellLoc)
  | assert (c : CellLoc)
  | yield (c : CellLoc)
  | cellOpReserved (c : CellLoc)
  -- word units (R95)
  | pass (b : BedLoc)
  | neg (b : BedLoc)
  | popc (b : BedLoc)
  | clz (b : BedLoc)
  | add (b : BedLoc)
  | addc (b : BedLoc)
  | sub (b : BedLoc)
  | subc (b : BedLoc)
  | and (b : BedLoc)
  | or (b : BedLoc)
  | xor (b : BedLoc)
  | andn (b : BedLoc)
  | shl (b : BedLoc)
  | shr (b : BedLoc)
  | sar (b : BedLoc)
  | rol (b : BedLoc)
  | mull (b : BedLoc)
  | mulhu (b : BedLoc)
  | mulhs (b : BedLoc)
  | cmpeq (b : BedLoc)
  | cmpltu (b : BedLoc)
  | cmplts (b : BedLoc)
  | minu (b : BedLoc)
  | mins (b : BedLoc)
  | maxu (b : BedLoc)
  | maxs (b : BedLoc)
  | sel (b : BedLoc)
  | wordOpReserved (b : BedLoc)
  -- port units (R67 to R87)
  | pnop (u : CourseLoc)
  | gather (u : CourseLoc)
  | gatheri (u : CourseLoc)
  | bayrd (u : CourseLoc)
  | baywr (u : CourseLoc)
  | mrd (u : CourseLoc)
  | mwr (u : CourseLoc)
  | mgath (u : CourseLoc)
  | call (u : CourseLoc)
  | callr (u : CourseLoc)
  | portOpReserved (u : CourseLoc)
  deriving DecidableEq, Repr

end Sys2Proof
end

