-- ==== Sys2Proof/Decode.lean ====
section
/-! DEFINITION. Words of the opcode table. The table gives no row any bits: a command of this block is no word of an
instruction stream, so no word spells one. -/

namespace Sys2Proof

/-- The command that an `nbits`-bit word spells by the table's bits. (log 4 DESIGN CHOICE) -/
def decodeTableWord (_nbits _w : Nat) : Option Instr := none

end Sys2Proof
end

