-- ==== Sys2Proof/Config.lean ====
section
/-! DEFINITION. What the manual leaves to the device: free values, which nothing constrains, and the cryptographic
functions, which it names and does not compute. None has a body. -/

namespace Sys2Proof.Config

/-- The n-th value that the manual leaves open. (log 9 DESIGN CHOICE) -/
opaque free : Nat → Nat

/-- SHA-384 of a byte string (R337). (log 11 DESIGN CHOICE) -/
opaque sha384 : List Byte → Nat

/-- Whether a signature of a digest verifies under a public key (R338). (log 11 DESIGN CHOICE) -/
opaque verify : (key digest signature : Nat) → Bool

/-- AES-256 key unwrap (R340): the section key, or none when the check fails. (log 11 DESIGN CHOICE) -/
opaque unwrap : (kek wrapped : Nat) → Option Nat

/-- AES-256-GCM decryption (R340): the plaintext, or none when the tag does not match. (log 11 DESIGN CHOICE) -/
opaque gcmOpen : (key iv aad tag : Nat) → List Byte → Option (List Byte)

/-- Key check value of the key RAM (R359). (log 11 DESIGN CHOICE) -/
opaque kcv : Nat → Nat

/-- HMAC-SHA-384 with the device key, for sealing meter records (R383). (log 11 DESIGN CHOICE) -/
opaque sealRecord : (key : Nat) → List Nat → Nat

/-- What the firmware writes into an entry of the route tables, from its index: CN_ROUTE_MATCH, CN_ROUTE_MASK and CN_ROUTE_PATH
in 32 bits each (R389). (log 147 DESIGN CHOICE) -/
opaque route : Nat → Nat

/-- What the recorder takes for a word of HBM whose contents are open, or that it may not read: of the address and of the free
values taken so far. (log 188 DESIGN CHOICE) -/
opaque lostWord : (addr taken : Nat) → Nat

end Sys2Proof.Config
end

