-- ==== Sys2Proof/Machine/Regs.lean ====
section
/-! DEFINITION. The register map (R464): every field of every register with its place and access type, taken from the
register tables of spec/. A field is named REGISTER_FIELD; `oREGISTER` is the register's offset in its block. -/

namespace Sys2Proof.Machine

/-- Access types (R9). -/
inductive Acc where
  | rw
  | ro
  | w1c
  | w1s
  | wo
  | rc
  | rwt
  | wl
  deriving DecidableEq, Repr

/-- A field: the offset of its register within its block, its lowest bit, its width, its access type. -/
structure Fld where
  off : Nat
  lo  : Nat
  w   : Nat
  acc : Acc
  deriving DecidableEq, Repr

/-- The blocks that registers lie in. -/
inductive Win where
  | dev
  | part
  | die
  | queue
  | trig
  | port
  | lane
  deriving DecidableEq, Repr

namespace Reg

/-- BED_ACC_LOC, die-window offset 0x40000 (chapter 02). -/
def oBED_ACC_LOC : Nat := 0x40000
def BED_ACC_LOC_BED : Fld := ⟨0x40000, 0, 4, .rw⟩
def BED_ACC_LOC_COURSE : Fld := ⟨0x40000, 4, 4, .rw⟩
def BED_ACC_LOC_WALL : Fld := ⟨0x40000, 8, 4, .rw⟩
def BED_ACC_LOC_CELL : Fld := ⟨0x40000, 12, 4, .rw⟩
def BED_ACC_LOC_STORE : Fld := ⟨0x40000, 16, 4, .rw⟩
/-- BED_ACC_INDEX, die-window offset 0x40004 (chapter 02). -/
def oBED_ACC_INDEX : Nat := 0x40004
def BED_ACC_INDEX_INDEX : Fld := ⟨0x40004, 0, 9, .rw⟩
def BED_ACC_INDEX_BANK : Fld := ⟨0x40004, 12, 2, .rw⟩
/-- BED_ACC_CMD, die-window offset 0x40008 (chapter 02). -/
def oBED_ACC_CMD : Nat := 0x40008
def BED_ACC_CMD_GO : Fld := ⟨0x40008, 0, 1, .wo⟩
def BED_ACC_CMD_WRITE : Fld := ⟨0x40008, 1, 1, .wo⟩
def BED_ACC_CMD_SETPRES : Fld := ⟨0x40008, 2, 1, .wo⟩
def BED_ACC_CMD_CLRPRES : Fld := ⟨0x40008, 3, 1, .wo⟩
/-- BED_ACC_STATUS, die-window offset 0x4000C (chapter 02). -/
def oBED_ACC_STATUS : Nat := 0x4000C
def BED_ACC_STATUS_BUSYACC : Fld := ⟨0x4000C, 0, 1, .ro⟩
def BED_ACC_STATUS_RESULT : Fld := ⟨0x4000C, 1, 3, .ro⟩
/-- BED_ACC_DATA, die-window offset 0x40010 + 4 × i, i = 0 to 3 (chapter 02). -/
def oBED_ACC_DATA : Nat := 0x40010
def BED_ACC_DATA_DATA : Fld := ⟨0x40010, 0, 32, .rw⟩
/-- BED_ACC_PRES, die-window offset 0x40020 (chapter 02). -/
def oBED_ACC_PRES : Nat := 0x40020
def BED_ACC_PRES_PRES : Fld := ⟨0x40020, 0, 16, .rw⟩
/-- STORE_CE_COUNT, die-window offset 0x40024 (chapter 02). -/
def oSTORE_CE_COUNT : Nat := 0x40024
def STORE_CE_COUNT_IMEM_CE : Fld := ⟨0x40024, 0, 16, .rc⟩
def STORE_CE_COUNT_DATA_CE : Fld := ⟨0x40024, 16, 16, .rc⟩
/-- WU_ACC_LOC, die-window offset 0x40040 (chapter 04). -/
def oWU_ACC_LOC : Nat := 0x40040
def WU_ACC_LOC_BED : Fld := ⟨0x40040, 0, 4, .rw⟩
def WU_ACC_LOC_COURSE : Fld := ⟨0x40040, 4, 4, .rw⟩
def WU_ACC_LOC_WALL : Fld := ⟨0x40040, 8, 4, .rw⟩
def WU_ACC_LOC_INDEX : Fld := ⟨0x40040, 16, 9, .rw⟩
/-- WU_ACC_CMD, die-window offset 0x40044 (chapter 04). -/
def oWU_ACC_CMD : Nat := 0x40044
def WU_ACC_CMD_GO : Fld := ⟨0x40044, 0, 1, .wo⟩
def WU_ACC_CMD_WRITE : Fld := ⟨0x40044, 1, 1, .wo⟩
/-- WU_ACC_STATUS, die-window offset 0x40048 (chapter 04). -/
def oWU_ACC_STATUS : Nat := 0x40048
def WU_ACC_STATUS_BUSYACC : Fld := ⟨0x40048, 0, 1, .ro⟩
def WU_ACC_STATUS_RESULT : Fld := ⟨0x40048, 1, 3, .ro⟩
/-- WU_ACC_DATA0, die-window offset 0x4004C (chapter 04). -/
def oWU_ACC_DATA0 : Nat := 0x4004C
def WU_ACC_DATA0_DATA : Fld := ⟨0x4004C, 0, 32, .rw⟩
/-- WU_ACC_DATA1, die-window offset 0x40050 (chapter 04). -/
def oWU_ACC_DATA1 : Nat := 0x40050
def WU_ACC_DATA1_DATA : Fld := ⟨0x40050, 0, 16, .rw⟩
/-- MORTAR_ACC_LOC, die-window offset 0x40080 (chapter 05). -/
def oMORTAR_ACC_LOC : Nat := 0x40080
def MORTAR_ACC_LOC_LANE : Fld := ⟨0x40080, 0, 13, .rw⟩
def MORTAR_ACC_LOC_BED : Fld := ⟨0x40080, 13, 4, .rw⟩
def MORTAR_ACC_LOC_COURSE : Fld := ⟨0x40080, 17, 4, .rw⟩
def MORTAR_ACC_LOC_WALL : Fld := ⟨0x40080, 21, 4, .rw⟩
def MORTAR_ACC_LOC_TABLE : Fld := ⟨0x40080, 25, 4, .rw⟩
def MORTAR_ACC_LOC_TABLE_CFG : Fld := ⟨0x40080, 29, 3, .rw⟩
/-- MORTAR_ACC_INDEX, die-window offset 0x40084 (chapter 05). -/
def oMORTAR_ACC_INDEX : Nat := 0x40084
def MORTAR_ACC_INDEX_STEP : Fld := ⟨0x40084, 0, 9, .rw⟩
/-- MORTAR_ACC_CMD, die-window offset 0x40088 (chapter 05). -/
def oMORTAR_ACC_CMD : Nat := 0x40088
def MORTAR_ACC_CMD_GO : Fld := ⟨0x40088, 0, 1, .wo⟩
def MORTAR_ACC_CMD_WRITE : Fld := ⟨0x40088, 1, 1, .wo⟩
/-- MORTAR_ACC_STATUS, die-window offset 0x4008C (chapter 05). -/
def oMORTAR_ACC_STATUS : Nat := 0x4008C
def MORTAR_ACC_STATUS_BUSYACC : Fld := ⟨0x4008C, 0, 1, .ro⟩
def MORTAR_ACC_STATUS_RESULT : Fld := ⟨0x4008C, 1, 3, .ro⟩
/-- MORTAR_ACC_DATA, die-window offset 0x40090 (chapter 05). -/
def oMORTAR_ACC_DATA : Nat := 0x40090
def MORTAR_ACC_DATA_DATA : Fld := ⟨0x40090, 0, 32, .rw⟩
/-- MORTAR_DISCARD_COUNT, die-window offset 0x40094 (chapter 05). -/
def oMORTAR_DISCARD_COUNT : Nat := 0x40094
def MORTAR_DISCARD_COUNT_FRAME_DROP : Fld := ⟨0x40094, 0, 16, .rc⟩
def MORTAR_DISCARD_COUNT_LAND_CONFLICT : Fld := ⟨0x40094, 16, 16, .rc⟩
/-- HOLD_STATUS, partition offset 0x0040 (chapter 06). -/
def oHOLD_STATUS : Nat := 0x40
def HOLD_STATUS_HELD : Fld := ⟨0x40, 0, 1, .ro⟩
def HOLD_STATUS_LOCAL : Fld := ⟨0x40, 1, 1, .ro⟩
def HOLD_STATUS_REMOTE : Fld := ⟨0x40, 2, 1, .ro⟩
def HOLD_STATUS_GATE_WAITING : Fld := ⟨0x40, 3, 1, .ro⟩
def HOLD_STATUS_CAUSE : Fld := ⟨0x40, 4, 4, .ro⟩
def HOLD_STATUS_SEVERED : Fld := ⟨0x40, 8, 1, .ro⟩
def HOLD_STATUS_CAUSE_MASK : Fld := ⟨0x40, 16, 8, .ro⟩
def HOLD_STATUS_PID : Fld := ⟨0x40, 24, 8, .ro⟩
/-- HOLD_ITEM_LOC, partition offset 0x0044 (chapter 06). -/
def oHOLD_ITEM_LOC : Nat := 0x44
def HOLD_ITEM_LOC_DIE : Fld := ⟨0x44, 0, 3, .ro⟩
def HOLD_ITEM_LOC_WALL : Fld := ⟨0x44, 3, 4, .ro⟩
def HOLD_ITEM_LOC_COURSE : Fld := ⟨0x44, 7, 4, .ro⟩
def HOLD_ITEM_LOC_BED : Fld := ⟨0x44, 11, 4, .ro⟩
def HOLD_ITEM_LOC_CELL : Fld := ⟨0x44, 15, 4, .ro⟩
def HOLD_ITEM_LOC_KIND : Fld := ⟨0x44, 19, 3, .ro⟩
def HOLD_ITEM_LOC_STEP : Fld := ⟨0x44, 22, 9, .ro⟩
def HOLD_ITEM_LOC_VALID : Fld := ⟨0x44, 31, 1, .ro⟩
/-- HOLD_ITEM_IDX, partition offset 0x0048 (chapter 06). -/
def oHOLD_ITEM_IDX : Nat := 0x48
def HOLD_ITEM_IDX_LANDSTEP : Fld := ⟨0x48, 0, 9, .ro⟩
def HOLD_ITEM_IDX_LANE_LINE : Fld := ⟨0x48, 9, 4, .ro⟩
def HOLD_ITEM_IDX_BANK : Fld := ⟨0x48, 13, 2, .ro⟩
/-- HOLD_CTRL, partition offset 0x004C (chapter 06). -/
def oHOLD_CTRL : Nat := 0x4C
def HOLD_CTRL_SWHOLD : Fld := ⟨0x4C, 0, 1, .rw⟩
/-- HOLD_LIMIT, partition offset 0x0050 (chapter 06). -/
def oHOLD_LIMIT : Nat := 0x50
def HOLD_LIMIT_LIMIT_US : Fld := ⟨0x50, 0, 32, .rw⟩
/-- HOLD_TIME_LO, partition offset 0x0058 (chapter 06). -/
def oHOLD_TIME_LO : Nat := 0x58
def HOLD_TIME_LO_TICKS : Fld := ⟨0x58, 0, 32, .ro⟩
/-- HOLD_TIME_HI, partition offset 0x005C (chapter 06). -/
def oHOLD_TIME_HI : Nat := 0x5C
def HOLD_TIME_HI_TICKS : Fld := ⟨0x5C, 0, 32, .ro⟩
/-- GATE_WAIT_LO, partition offset 0x0060 (chapter 06). -/
def oGATE_WAIT_LO : Nat := 0x60
def GATE_WAIT_LO_TICKS : Fld := ⟨0x60, 0, 32, .ro⟩
/-- GATE_WAIT_HI, partition offset 0x0064 (chapter 06). -/
def oGATE_WAIT_HI : Nat := 0x64
def GATE_WAIT_HI_TICKS : Fld := ⟨0x64, 0, 32, .ro⟩
/-- HOLD_COUNT, partition offset 0x0068 (chapter 06). -/
def oHOLD_COUNT : Nat := 0x68
def HOLD_COUNT_COUNT : Fld := ⟨0x68, 0, 32, .ro⟩
/-- GATE_SPAN, partition offset 0x006C (chapter 06). -/
def oGATE_SPAN : Nat := 0x6C
def GATE_SPAN_SPAN_NS : Fld := ⟨0x6C, 0, 16, .ro⟩
/-- PLUMB_CFG, partition offset 0x0070 (chapter 06). -/
def oPLUMB_CFG : Nat := 0x70
def PLUMB_CFG_MODE : Fld := ⟨0x70, 0, 2, .rw⟩
def PLUMB_CFG_CHANNEL : Fld := ⟨0x70, 4, 4, .rw⟩
/-- SEVER_INFO, partition offset 0x0074 (chapter 06). -/
def oSEVER_INFO : Nat := 0x74
def SEVER_INFO_LOST_ADDR : Fld := ⟨0x74, 0, 12, .ro⟩
def SEVER_INFO_REASON : Fld := ⟨0x74, 12, 2, .ro⟩
def SEVER_INFO_PORT : Fld := ⟨0x74, 14, 4, .ro⟩
def SEVER_INFO_RELAYED : Fld := ⟨0x74, 18, 1, .ro⟩
def SEVER_INFO_DETECTOR : Fld := ⟨0x74, 19, 12, .ro⟩
/-- PLUMB_BUS_STATUS, device offset 0x0800 (chapter 06). -/
def oPLUMB_BUS_STATUS : Nat := 0x800
def PLUMB_BUS_STATUS_BUS_POS : Fld := ⟨0x800, 0, 4, .ro⟩
def PLUMB_BUS_STATUS_LEAD : Fld := ⟨0x800, 4, 1, .ro⟩
def PLUMB_BUS_STATUS_SYNC_LOCK : Fld := ⟨0x800, 5, 1, .ro⟩
def PLUMB_BUS_STATUS_PRESENT : Fld := ⟨0x800, 16, 16, .ro⟩
/-- FAULT_CFG, partition offset 0x0080 (chapter 07). -/
def oFAULT_CFG : Nat := 0x80
def FAULT_CFG_STOP_IMMEDIATE : Fld := ⟨0x80, 0, 1, .rwt⟩
def FAULT_CFG_ASSERT_STOP : Fld := ⟨0x80, 1, 1, .rwt⟩
def FAULT_CFG_HAZ_STOP : Fld := ⟨0x80, 2, 1, .rwt⟩
def FAULT_CFG_LOG_DIE : Fld := ⟨0x80, 4, 3, .rwt⟩
def FAULT_CFG_LOG_QUEUE : Fld := ⟨0x80, 8, 7, .rwt⟩
/-- FAULT_STATUS, partition offset 0x0084 (chapter 07). -/
def oFAULT_STATUS : Nat := 0x84
def FAULT_STATUS_FIRST_CODE : Fld := ⟨0x84, 0, 8, .ro⟩
def FAULT_STATUS_VALID : Fld := ⟨0x84, 8, 1, .ro⟩
def FAULT_STATUS_IMMEDIATE : Fld := ⟨0x84, 9, 1, .ro⟩
def FAULT_STATUS_STOP_STEP : Fld := ⟨0x84, 10, 10, .ro⟩
def FAULT_STATUS_FIRST_FROM : Fld := ⟨0x84, 20, 12, .ro⟩
/-- FAULT_COUNT, partition offset 0x0088 (chapter 07). -/
def oFAULT_COUNT : Nat := 0x88
def FAULT_COUNT_RECORDS : Fld := ⟨0x88, 0, 16, .rc⟩
def FAULT_COUNT_SUPPRESSED : Fld := ⟨0x88, 16, 16, .rc⟩
/-- DEBUG_CTRL, device offset 0x0810 (chapter 07). -/
def oDEBUG_CTRL : Nat := 0x810
def DEBUG_CTRL_DEBUG : Fld := ⟨0x810, 0, 1, .rw⟩
def DEBUG_CTRL_REFUSED : Fld := ⟨0x810, 1, 1, .ro⟩
def DEBUG_CTRL_ACTIVE : Fld := ⟨0x810, 2, 1, .ro⟩
/-- DEV_FAULT_CFG, device offset 0x0814 (chapter 07). -/
def oDEV_FAULT_CFG : Nat := 0x814
def DEV_FAULT_CFG_LOG_DIE : Fld := ⟨0x814, 0, 3, .rw⟩
def DEV_FAULT_CFG_LOG_QUEUE : Fld := ⟨0x814, 8, 7, .rw⟩
/-- IMAGE_LOAD_STATUS, device offset 0x0818 (chapter 07). -/
def oIMAGE_LOAD_STATUS : Nat := 0x818
def IMAGE_LOAD_STATUS_RESULT : Fld := ⟨0x818, 0, 4, .ro⟩
def IMAGE_LOAD_STATUS_SLOT : Fld := ⟨0x818, 8, 5, .ro⟩
/-- BAY_ECC_COUNT, die-window offset 0x40100 (chapter 08). -/
def oBAY_ECC_COUNT : Nat := 0x40100
def BAY_ECC_COUNT_CE : Fld := ⟨0x40100, 0, 16, .rc⟩
def BAY_ECC_COUNT_UE : Fld := ⟨0x40100, 16, 16, .rc⟩
/-- NEWT_CTRL, die-window offset 0x40104 (chapter 08). -/
def oNEWT_CTRL : Nat := 0x40104
def NEWT_CTRL_EN : Fld := ⟨0x40104, 0, 1, .rw⟩
def NEWT_CTRL_IDLE_SCRUB : Fld := ⟨0x40104, 1, 1, .rw⟩
def NEWT_CTRL_CELL_REPAIR : Fld := ⟨0x40104, 2, 1, .rw⟩
def NEWT_CTRL_UNPIN : Fld := ⟨0x40104, 3, 1, .wo⟩
def NEWT_CTRL_INTERVAL_MS : Fld := ⟨0x40104, 8, 8, .rw⟩
def NEWT_CTRL_LOG_QUEUE : Fld := ⟨0x40104, 16, 7, .rw⟩
/-- NEWT_STATUS, die-window offset 0x40108 (chapter 08). -/
def oNEWT_STATUS : Nat := 0x40108
def NEWT_STATUS_PHASE : Fld := ⟨0x40108, 0, 3, .ro⟩
def NEWT_STATUS_KIND : Fld := ⟨0x40108, 3, 1, .ro⟩
def NEWT_STATUS_WALL : Fld := ⟨0x40108, 4, 4, .ro⟩
def NEWT_STATUS_UNIT : Fld := ⟨0x40108, 8, 8, .ro⟩
def NEWT_STATUS_PINNED : Fld := ⟨0x40108, 16, 1, .ro⟩
def NEWT_STATUS_REPAIRS : Fld := ⟨0x40108, 20, 12, .ro⟩
/-- NEWT_REQ, die-window offset 0x4010C (chapter 08). -/
def oNEWT_REQ : Nat := 0x4010C
def NEWT_REQ_GO : Fld := ⟨0x4010C, 0, 1, .wo⟩
def NEWT_REQ_KIND : Fld := ⟨0x4010C, 1, 1, .rw⟩
def NEWT_REQ_WALL : Fld := ⟨0x4010C, 2, 4, .rw⟩
def NEWT_REQ_REGION : Fld := ⟨0x4010C, 6, 8, .rw⟩
def NEWT_REQ_RESULT : Fld := ⟨0x4010C, 14, 2, .ro⟩
/-- MEM_TC_INV_PAGE, die-window offset 0x40200 (chapter 08). -/
def oMEM_TC_INV_PAGE : Nat := 0x40200
def MEM_TC_INV_PAGE_PAGE : Fld := ⟨0x40200, 0, 31, .rw⟩
def MEM_TC_INV_PAGE_ALL : Fld := ⟨0x40200, 31, 1, .rw⟩
/-- MEM_TC_INV_CMD, die-window offset 0x40204 (chapter 08). -/
def oMEM_TC_INV_CMD : Nat := 0x40204
def MEM_TC_INV_CMD_PID : Fld := ⟨0x40204, 0, 8, .rw⟩
def MEM_TC_INV_CMD_GO : Fld := ⟨0x40204, 8, 1, .wo⟩
def MEM_TC_INV_CMD_DONE : Fld := ⟨0x40204, 9, 1, .ro⟩
/-- MME_FENCE, die-window offset 0x40210 + 4 × i, i = 0 to 3 (chapter 08). -/
def oMME_FENCE : Nat := 0x40210
def MME_FENCE_PID : Fld := ⟨0x40210, 0, 8, .rw⟩
def MME_FENCE_GO : Fld := ⟨0x40210, 8, 1, .wo⟩
def MME_FENCE_DONE : Fld := ⟨0x40210, 9, 1, .ro⟩
/-- MEM_MAP_BASE, partition offset 0x00C0 (chapter 08). -/
def oMEM_MAP_BASE : Nat := 0xC0
def MEM_MAP_BASE_BASE : Fld := ⟨0xC0, 0, 20, .rw⟩
def MEM_MAP_BASE_VALID : Fld := ⟨0xC0, 31, 1, .rw⟩
/-- MEM_PS_CFG, partition offset 0x00C4 (chapter 08). -/
def oMEM_PS_CFG : Nat := 0xC4
def MEM_PS_CFG_DIE : Fld := ⟨0xC4, 0, 3, .rw⟩
def MEM_PS_CFG_QUEUE : Fld := ⟨0xC4, 3, 7, .rw⟩
def MEM_PS_CFG_PARK_MIB : Fld := ⟨0xC4, 16, 8, .rw⟩
/-- MEM_PARK_BASE, partition offset 0x00C8 (chapter 08). -/
def oMEM_PARK_BASE : Nat := 0xC8
def MEM_PARK_BASE_BASE : Fld := ⟨0xC8, 0, 19, .rw⟩
/-- MEM_PS_DONE, partition offset 0x00CC (chapter 08). -/
def oMEM_PS_DONE : Nat := 0xCC
def MEM_PS_DONE_PAGE : Fld := ⟨0xCC, 0, 31, .wo⟩
def MEM_PS_DONE_FAIL : Fld := ⟨0xCC, 31, 1, .wo⟩
/-- PORTAL_STATUS, die-window offset 0x40300 + 16 × i, i = 0 to 15 (chapter 09). -/
def oPORTAL_STATUS : Nat := 0x40300
def PORTAL_STATUS_PENDING : Fld := ⟨0x40300, 0, 16, .ro⟩
def PORTAL_STATUS_BADQ : Fld := ⟨0x40300, 16, 1, .ro⟩
def PORTAL_STATUS_QUEUE : Fld := ⟨0x40300, 17, 7, .ro⟩
/-- PORTAL_OUT, die-window offset 0x40304 + 16 × i, i = 0 to 15 (chapter 09). -/
def oPORTAL_OUT : Nat := 0x40304
def PORTAL_OUT_RECORDS : Fld := ⟨0x40304, 0, 12, .ro⟩
def PORTAL_OUT_EPOCH : Fld := ⟨0x40304, 12, 6, .ro⟩
/-- PORTAL_STALE, die-window offset 0x40308 + 16 × i, i = 0 to 15 (chapter 09). -/
def oPORTAL_STALE : Nat := 0x40308
def PORTAL_STALE_STALE_RSP : Fld := ⟨0x40308, 0, 16, .rc⟩
def PORTAL_STALE_LAST_REASON : Fld := ⟨0x40308, 16, 2, .ro⟩
/-- PORTAL_CALLS, die-window offset 0x4030C + 16 × i, i = 0 to 15 (chapter 09). -/
def oPORTAL_CALLS : Nat := 0x4030C
def PORTAL_CALLS_MESSAGES : Fld := ⟨0x4030C, 0, 32, .ro⟩
/-- CORE_BIND, die-window offset 0x40400 + 4 × i, i = 0 to 31 (chapter 09). -/
def oCORE_BIND : Nat := 0x40400
def CORE_BIND_PID : Fld := ⟨0x40400, 0, 8, .rw⟩
def CORE_BIND_BOUND : Fld := ⟨0x40400, 8, 1, .rw⟩
def CORE_BIND_POOL : Fld := ⟨0x40400, 9, 3, .rw⟩
def CORE_BIND_PENDING : Fld := ⟨0x40400, 12, 1, .ro⟩
def CORE_BIND_RUN : Fld := ⟨0x40400, 13, 1, .ro⟩
def CORE_BIND_IDLE : Fld := ⟨0x40400, 14, 1, .ro⟩
def CORE_BIND_CORE_RESET : Fld := ⟨0x40400, 15, 1, .wo⟩
def CORE_BIND_TASK : Fld := ⟨0x40400, 16, 9, .ro⟩
/-- CORE_BUSY_LO, die-window offset 0x40480 + 16 × i, i = 0 to 31 (chapter 09). -/
def oCORE_BUSY_LO : Nat := 0x40480
def CORE_BUSY_LO_TICKS : Fld := ⟨0x40480, 0, 32, .ro⟩
/-- CORE_BUSY_HI, die-window offset 0x40484 + 16 × i, i = 0 to 31 (chapter 09). -/
def oCORE_BUSY_HI : Nat := 0x40484
def CORE_BUSY_HI_TICKS : Fld := ⟨0x40484, 0, 32, .ro⟩
/-- CORE_IDLE_LO, die-window offset 0x40488 + 16 × i, i = 0 to 31 (chapter 09). -/
def oCORE_IDLE_LO : Nat := 0x40488
def CORE_IDLE_LO_TICKS : Fld := ⟨0x40488, 0, 32, .ro⟩
/-- CORE_IDLE_HI, die-window offset 0x4048C + 16 × i, i = 0 to 31 (chapter 09). -/
def oCORE_IDLE_HI : Nat := 0x4048C
def CORE_IDLE_HI_TICKS : Fld := ⟨0x4048C, 0, 32, .ro⟩
/-- DISP_STATUS, die-window offset 0x40700 (chapter 09). -/
def oDISP_STATUS : Nat := 0x40700
def DISP_STATUS_READY : Fld := ⟨0x40700, 0, 10, .ro⟩
def DISP_STATUS_RUNNING : Fld := ⟨0x40700, 10, 6, .ro⟩
def DISP_STATUS_WAITING : Fld := ⟨0x40700, 16, 10, .ro⟩
/-- DISP_FLAG_SET, die-window offset 0x40704 (chapter 09). -/
def oDISP_FLAG_SET : Nat := 0x40704
def DISP_FLAG_SET_TASK : Fld := ⟨0x40704, 0, 9, .wo⟩
def DISP_FLAG_SET_FLAG : Fld := ⟨0x40704, 9, 5, .wo⟩
def DISP_FLAG_SET_CLEAR : Fld := ⟨0x40704, 14, 1, .wo⟩
/-- DISP_TASK_SEL, die-window offset 0x40708 (chapter 09). -/
def oDISP_TASK_SEL : Nat := 0x40708
def DISP_TASK_SEL_TASK : Fld := ⟨0x40708, 0, 9, .rw⟩
def DISP_TASK_SEL_HCLR : Fld := ⟨0x40708, 9, 1, .wo⟩
/-- DISP_XPART_DROP, die-window offset 0x4070C (chapter 09). -/
def oDISP_XPART_DROP : Nat := 0x4070C
def DISP_XPART_DROP_DROPS : Fld := ⟨0x4070C, 0, 16, .rc⟩
/-- TASK_CFG, die-window offset 0x40710 (chapter 09). -/
def oTASK_CFG : Nat := 0x40710
def TASK_CFG_EN : Fld := ⟨0x40710, 0, 1, .rw⟩
def TASK_CFG_PRIO : Fld := ⟨0x40710, 1, 4, .rw⟩
def TASK_CFG_POOL : Fld := ⟨0x40710, 5, 3, .rw⟩
def TASK_CFG_PID : Fld := ⟨0x40710, 8, 8, .rw⟩
def TASK_CFG_NOPID : Fld := ⟨0x40710, 16, 1, .rw⟩
/-- TASK_WAIT, die-window offset 0x40714 (chapter 09). -/
def oTASK_WAIT : Nat := 0x40714
def TASK_WAIT_MASK : Fld := ⟨0x40714, 0, 32, .rw⟩
/-- TASK_TIMEOUT, die-window offset 0x40718 (chapter 09). -/
def oTASK_TIMEOUT : Nat := 0x40718
def TASK_TIMEOUT_TIMEOUT_US : Fld := ⟨0x40718, 0, 24, .rw⟩
def TASK_TIMEOUT_MODE : Fld := ⟨0x40718, 24, 1, .rw⟩
/-- TASK_ARG_LO, die-window offset 0x4071C (chapter 09). -/
def oTASK_ARG_LO : Nat := 0x4071C
def TASK_ARG_LO_ARG : Fld := ⟨0x4071C, 0, 32, .rw⟩
/-- TASK_ARG_HI, die-window offset 0x40720 (chapter 09). -/
def oTASK_ARG_HI : Nat := 0x40720
def TASK_ARG_HI_ARG : Fld := ⟨0x40720, 0, 32, .rw⟩
/-- TASK_STATE, die-window offset 0x40724 (chapter 09). -/
def oTASK_STATE : Nat := 0x40724
def TASK_STATE_STATE : Fld := ⟨0x40724, 0, 2, .ro⟩
def TASK_STATE_CORE : Fld := ⟨0x40724, 2, 5, .ro⟩
def TASK_STATE_LAST_TIMEOUT : Fld := ⟨0x40724, 7, 1, .ro⟩
def TASK_STATE_DISPATCHES : Fld := ⟨0x40724, 8, 24, .ro⟩
/-- TASK_HIST, die-window offset 0x40728 + 4 × i, i = 0 to 3 (chapter 09). -/
def oTASK_HIST : Nat := 0x40728
def TASK_HIST_BIN_LO : Fld := ⟨0x40728, 0, 16, .ro⟩
def TASK_HIST_BIN_HI : Fld := ⟨0x40728, 16, 16, .ro⟩
/-- TASK_WAITMAX, die-window offset 0x40738 (chapter 09). -/
def oTASK_WAITMAX : Nat := 0x40738
def TASK_WAITMAX_TICKS : Fld := ⟨0x40738, 0, 32, .ro⟩
/-- TASK_FLAGS, die-window offset 0x4073C (chapter 09). -/
def oTASK_FLAGS : Nat := 0x4073C
def TASK_FLAGS_FLAGS : Fld := ⟨0x4073C, 0, 32, .ro⟩
/-- QUEUE_CFG, queue-block offset 0x0000 (chapter 10). -/
def oQUEUE_CFG : Nat := 0x0
def QUEUE_CFG_CLASS : Fld := ⟨0x0, 0, 2, .rw⟩
def QUEUE_CFG_NOPID : Fld := ⟨0x0, 2, 1, .rw⟩
def QUEUE_CFG_OWNER : Fld := ⟨0x0, 4, 8, .rw⟩
def QUEUE_CFG_BASE : Fld := ⟨0x0, 12, 10, .rw⟩
def QUEUE_CFG_SIZE : Fld := ⟨0x0, 22, 10, .rw⟩
/-- QUEUE_CTRL, queue-block offset 0x0004 (chapter 10). -/
def oQUEUE_CTRL : Nat := 0x4
def QUEUE_CTRL_EN : Fld := ⟨0x4, 0, 1, .rw⟩
def QUEUE_CTRL_FLUSH : Fld := ⟨0x4, 1, 1, .wo⟩
def QUEUE_CTRL_FLUSH_PENDING : Fld := ⟨0x4, 2, 1, .ro⟩
def QUEUE_CTRL_RESET : Fld := ⟨0x4, 3, 1, .wo⟩
def QUEUE_CTRL_ERR : Fld := ⟨0x4, 4, 1, .ro⟩
def QUEUE_CTRL_EV_EN : Fld := ⟨0x4, 5, 1, .rw⟩
def QUEUE_CTRL_CFG_ERR : Fld := ⟨0x4, 6, 1, .ro⟩
/-- QUEUE_LEVEL, queue-block offset 0x0008 (chapter 10). -/
def oQUEUE_LEVEL : Nat := 0x8
def QUEUE_LEVEL_LEVEL : Fld := ⟨0x8, 0, 20, .rw⟩
/-- QUEUE_DEPTH, queue-block offset 0x000C (chapter 10). -/
def oQUEUE_DEPTH : Nat := 0xC
def QUEUE_DEPTH_DEPTH : Fld := ⟨0xC, 0, 20, .ro⟩
def QUEUE_DEPTH_OPEN : Fld := ⟨0xC, 20, 10, .ro⟩
/-- QUEUE_HWM, queue-block offset 0x0010 (chapter 10). -/
def oQUEUE_HWM : Nat := 0x10
def QUEUE_HWM_HWM : Fld := ⟨0x10, 0, 20, .rc⟩
def QUEUE_HWM_PTR_FAULTS : Fld := ⟨0x10, 24, 8, .rc⟩
/-- QUEUE_LOST, queue-block offset 0x0014 (chapter 10). -/
def oQUEUE_LOST : Nat := 0x14
def QUEUE_LOST_LOST : Fld := ⟨0x14, 0, 32, .rc⟩
/-- QUEUE_ACC, queue-block offset 0x0018 (chapter 10). -/
def oQUEUE_ACC : Nat := 0x18
def QUEUE_ACC_CLOSE : Fld := ⟨0x18, 0, 1, .rw⟩
def QUEUE_ACC_EMPTY : Fld := ⟨0x18, 1, 1, .ro⟩
def QUEUE_ACC_FULL : Fld := ⟨0x18, 2, 1, .ro⟩
def QUEUE_ACC_EOP : Fld := ⟨0x18, 3, 1, .ro⟩
def QUEUE_ACC_DENIED : Fld := ⟨0x18, 4, 1, .ro⟩
/-- QUEUE_DATA_LO, queue-block offset 0x001C (chapter 10). -/
def oQUEUE_DATA_LO : Nat := 0x1C
def QUEUE_DATA_LO_DATA : Fld := ⟨0x1C, 0, 32, .rw⟩
/-- QUEUE_DATA_HI, queue-block offset 0x0020 (chapter 10). -/
def oQUEUE_DATA_HI : Nat := 0x20
def QUEUE_DATA_HI_DATA : Fld := ⟨0x20, 0, 32, .rw⟩
/-- QUEUE_DIE_STATUS, die-window offset 0x42800 (chapter 10). -/
def oQUEUE_DIE_STATUS : Nat := 0x42800
def QUEUE_DIE_STATUS_REC_DROP : Fld := ⟨0x42800, 0, 16, .rc⟩
def QUEUE_DIE_STATUS_CE : Fld := ⟨0x42800, 16, 8, .rc⟩
def QUEUE_DIE_STATUS_UE : Fld := ⟨0x42800, 24, 8, .rc⟩
/-- REC_CFG, partition offset 0x0100 (chapter 11). -/
def oREC_CFG : Nat := 0x100
def REC_CFG_MODE : Fld := ⟨0x100, 0, 1, .rw⟩
def REC_CFG_PERIOD_LOG2 : Fld := ⟨0x100, 1, 5, .rw⟩
def REC_CFG_START_SRC : Fld := ⟨0x100, 8, 8, .rw⟩
def REC_CFG_STOP_SRC : Fld := ⟨0x100, 16, 8, .rw⟩
/-- REC_POST, partition offset 0x0104 (chapter 11). -/
def oREC_POST : Nat := 0x104
def REC_POST_POST_CYCLES : Fld := ⟨0x104, 0, 32, .rw⟩
/-- REC_CTRL, partition offset 0x0108 (chapter 11). -/
def oREC_CTRL : Nat := 0x108
def REC_CTRL_CMD : Fld := ⟨0x108, 0, 3, .wo⟩
def REC_CTRL_STATE : Fld := ⟨0x108, 4, 2, .ro⟩
def REC_CTRL_REFUSED : Fld := ⟨0x108, 6, 1, .ro⟩
def REC_CTRL_RESULT : Fld := ⟨0x108, 8, 3, .ro⟩
/-- REC_REGION, partition offset 0x010C (chapter 11). -/
def oREC_REGION : Nat := 0x10C
def REC_REGION_BASE : Fld := ⟨0x10C, 0, 9, .rw⟩
def REC_REGION_SIZE : Fld := ⟨0x10C, 16, 6, .rw⟩
def REC_REGION_VALID : Fld := ⟨0x10C, 31, 1, .rw⟩
/-- REC_HEAD_LO, partition offset 0x0110 (chapter 11). -/
def oREC_HEAD_LO : Nat := 0x110
def REC_HEAD_LO_OFFSET : Fld := ⟨0x110, 0, 32, .ro⟩
/-- REC_HEAD_HI, partition offset 0x0114 (chapter 11). -/
def oREC_HEAD_HI : Nat := 0x114
def REC_HEAD_HI_OFFSET : Fld := ⟨0x114, 0, 32, .ro⟩
/-- REC_TAIL_LO, partition offset 0x0118 (chapter 11). -/
def oREC_TAIL_LO : Nat := 0x118
def REC_TAIL_LO_OFFSET : Fld := ⟨0x118, 0, 32, .rw⟩
/-- REC_TAIL_HI, partition offset 0x011C (chapter 11). -/
def oREC_TAIL_HI : Nat := 0x11C
def REC_TAIL_HI_OFFSET : Fld := ⟨0x11C, 0, 32, .rw⟩
/-- REC_SNAP_LO, partition offset 0x0120 (chapter 11). -/
def oREC_SNAP_LO : Nat := 0x120
def REC_SNAP_LO_OFFSET : Fld := ⟨0x120, 0, 32, .ro⟩
/-- REC_SNAP_HI, partition offset 0x0124 (chapter 11). -/
def oREC_SNAP_HI : Nat := 0x124
def REC_SNAP_HI_OFFSET : Fld := ⟨0x124, 0, 32, .ro⟩
/-- REC_SNAP_CYC_LO, partition offset 0x0128 (chapter 11). -/
def oREC_SNAP_CYC_LO : Nat := 0x128
def REC_SNAP_CYC_LO_CYCLE : Fld := ⟨0x128, 0, 32, .ro⟩
/-- REC_SNAP_CYC_HI, partition offset 0x012C (chapter 11). -/
def oREC_SNAP_CYC_HI : Nat := 0x12C
def REC_SNAP_CYC_HI_CYCLE : Fld := ⟨0x12C, 0, 32, .ro⟩
/-- REC_STATUS, partition offset 0x0130 (chapter 11). -/
def oREC_STATUS : Nat := 0x130
def REC_STATUS_SNAPPING : Fld := ⟨0x130, 0, 1, .ro⟩
def REC_STATUS_CARRY_OPEN : Fld := ⟨0x130, 1, 1, .ro⟩
def REC_STATUS_FULL : Fld := ⟨0x130, 2, 1, .ro⟩
def REC_STATUS_BACKLOG : Fld := ⟨0x130, 3, 1, .ro⟩
def REC_STATUS_REPLAYING : Fld := ⟨0x130, 4, 1, .ro⟩
def REC_STATUS_REPLAY_END : Fld := ⟨0x130, 5, 1, .ro⟩
def REC_STATUS_DUMPING : Fld := ⟨0x130, 6, 1, .ro⟩
/-- REC_LOSS, partition offset 0x0134 (chapter 11). -/
def oREC_LOSS : Nat := 0x134
def REC_LOSS_SEG_LOST : Fld := ⟨0x134, 0, 16, .rc⟩
def REC_LOSS_SNAP_SKIP : Fld := ⟨0x134, 16, 16, .rc⟩
/-- REC_REPLAY, partition offset 0x0138 (chapter 11). -/
def oREC_REPLAY : Nat := 0x138
def REC_REPLAY_REPLAY : Fld := ⟨0x138, 0, 1, .rw⟩
def REC_REPLAY_LIVE_LINKS : Fld := ⟨0x138, 1, 1, .rw⟩
def REC_REPLAY_DUMP : Fld := ⟨0x138, 2, 1, .rw⟩
def REC_REPLAY_SRC_SLOT : Fld := ⟨0x138, 8, 5, .rw⟩
/-- REC_POS_LO, partition offset 0x0140 (chapter 11). -/
def oREC_POS_LO : Nat := 0x140
def REC_POS_LO_OFFSET : Fld := ⟨0x140, 0, 32, .rw⟩
/-- REC_POS_HI, partition offset 0x0144 (chapter 11). -/
def oREC_POS_HI : Nat := 0x144
def REC_POS_HI_OFFSET : Fld := ⟨0x144, 0, 32, .rw⟩
/-- REC_DUMP_FROM_LO, partition offset 0x0148 (chapter 11). -/
def oREC_DUMP_FROM_LO : Nat := 0x148
def REC_DUMP_FROM_LO_CYCLE : Fld := ⟨0x148, 0, 32, .rw⟩
/-- REC_DUMP_FROM_HI, partition offset 0x014C (chapter 11). -/
def oREC_DUMP_FROM_HI : Nat := 0x14C
def REC_DUMP_FROM_HI_CYCLE : Fld := ⟨0x14C, 0, 32, .rw⟩
/-- REC_DUMP_TO_LO, partition offset 0x0150 (chapter 11). -/
def oREC_DUMP_TO_LO : Nat := 0x150
def REC_DUMP_TO_LO_CYCLE : Fld := ⟨0x150, 0, 32, .rw⟩
/-- REC_DUMP_TO_HI, partition offset 0x0154 (chapter 11). -/
def oREC_DUMP_TO_HI : Nat := 0x154
def REC_DUMP_TO_HI_CYCLE : Fld := ⟨0x154, 0, 32, .rw⟩
/-- PROBE_WORD_CFG, die-window offset 0x42C00 + 4 × i, i = 0 to 31 (chapter 12). -/
def oPROBE_WORD_CFG : Nat := 0x42C00
def PROBE_WORD_CFG_WIDTH_M1 : Fld := ⟨0x42C00, 0, 6, .rw⟩
def PROBE_WORD_CFG_OWNER : Fld := ⟨0x42C00, 8, 8, .rw⟩
def PROBE_WORD_CFG_OWNED : Fld := ⟨0x42C00, 16, 1, .rw⟩
/-- PROBE_MAP_SEL, die-window offset 0x42C80 (chapter 12). -/
def oPROBE_MAP_SEL : Nat := 0x42C80
def PROBE_MAP_SEL_WORD : Fld := ⟨0x42C80, 0, 5, .rw⟩
def PROBE_MAP_SEL_SLOT : Fld := ⟨0x42C80, 5, 6, .rw⟩
def PROBE_MAP_SEL_AUTOINC : Fld := ⟨0x42C80, 11, 1, .rw⟩
def PROBE_MAP_SEL_RESULT : Fld := ⟨0x42C80, 12, 2, .ro⟩
/-- PROBE_MAP_DATA, die-window offset 0x42C84 (chapter 12). -/
def oPROBE_MAP_DATA : Nat := 0x42C84
def PROBE_MAP_DATA_CELL : Fld := ⟨0x42C84, 0, 4, .rw⟩
def PROBE_MAP_DATA_BED : Fld := ⟨0x42C84, 4, 4, .rw⟩
def PROBE_MAP_DATA_COURSE : Fld := ⟨0x42C84, 8, 4, .rw⟩
def PROBE_MAP_DATA_WALL : Fld := ⟨0x42C84, 12, 4, .rw⟩
def PROBE_MAP_DATA_EN : Fld := ⟨0x42C84, 16, 1, .rw⟩
/-- TRIG_CFG, trigger-unit offset 0x0000 (chapter 12). -/
def oTRIG_CFG : Nat := 0x0
def TRIG_CFG_OWNER : Fld := ⟨0x0, 0, 8, .rw⟩
def TRIG_CFG_OWNED : Fld := ⟨0x0, 8, 1, .rw⟩
def TRIG_CFG_STOP : Fld := ⟨0x0, 9, 1, .rw⟩
def TRIG_CFG_OUT_EN : Fld := ⟨0x0, 10, 1, .rw⟩
def TRIG_CFG_OUT_PIN : Fld := ⟨0x0, 11, 3, .rw⟩
def TRIG_CFG_EXT_EN : Fld := ⟨0x0, 14, 1, .rw⟩
def TRIG_CFG_EXT_IN : Fld := ⟨0x0, 15, 3, .rw⟩
def TRIG_CFG_LOG_EN : Fld := ⟨0x0, 18, 1, .rw⟩
def TRIG_CFG_LOG_QUEUE : Fld := ⟨0x0, 19, 7, .rw⟩
/-- TRIG_CMP_CFG, trigger-unit offset 0x0004 + 4 × i, i = 0 to 1 (chapter 12). -/
def oTRIG_CMP_CFG : Nat := 0x4
def TRIG_CMP_CFG_WORD : Fld := ⟨0x4, 0, 5, .rw⟩
def TRIG_CMP_CFG_KIND : Fld := ⟨0x4, 5, 3, .rw⟩
def TRIG_CMP_CFG_SIGNED : Fld := ⟨0x4, 8, 1, .rw⟩
def TRIG_CMP_CFG_DIR : Fld := ⟨0x4, 9, 2, .rw⟩
/-- TRIG_OPERAND, trigger-unit offset 0x0010 + 4 × i, i = 0 to 11 (chapter 12). -/
def oTRIG_OPERAND : Nat := 0x10
def TRIG_OPERAND_VALUE : Fld := ⟨0x10, 0, 32, .rw⟩
/-- TRIG_SEQ, trigger-unit offset 0x0040 + 4 × i, i = 0 to 7 (chapter 12). -/
def oTRIG_SEQ : Nat := 0x40
def TRIG_SEQ_COND : Fld := ⟨0x40, 0, 4, .rw⟩
def TRIG_SEQ_COUNT : Fld := ⟨0x40, 4, 16, .rw⟩
def TRIG_SEQ_NEXT : Fld := ⟨0x40, 20, 3, .rw⟩
def TRIG_SEQ_FIRE : Fld := ⟨0x40, 23, 1, .rw⟩
/-- TRIG_CAP_CFG, trigger-unit offset 0x0060 (chapter 12). -/
def oTRIG_CAP_CFG : Nat := 0x60
def TRIG_CAP_CFG_BASE : Fld := ⟨0x60, 0, 10, .rw⟩
def TRIG_CAP_CFG_SIZE_M1 : Fld := ⟨0x60, 10, 10, .rw⟩
/-- TRIG_CAP_MASK, trigger-unit offset 0x0064 (chapter 12). -/
def oTRIG_CAP_MASK : Nat := 0x64
def TRIG_CAP_MASK_VALUE : Fld := ⟨0x64, 0, 32, .rw⟩
/-- TRIG_PRE, trigger-unit offset 0x0068 (chapter 12). -/
def oTRIG_PRE : Nat := 0x68
def TRIG_PRE_VALUE : Fld := ⟨0x68, 0, 32, .rw⟩
/-- TRIG_POST, trigger-unit offset 0x006C (chapter 12). -/
def oTRIG_POST : Nat := 0x6C
def TRIG_POST_VALUE : Fld := ⟨0x6C, 0, 32, .rw⟩
/-- TRIG_CTRL, trigger-unit offset 0x0070 (chapter 12). -/
def oTRIG_CTRL : Nat := 0x70
def TRIG_CTRL_CMD : Fld := ⟨0x70, 0, 2, .wo⟩
def TRIG_CTRL_STATE : Fld := ⟨0x70, 2, 3, .ro⟩
def TRIG_CTRL_SEQ : Fld := ⟨0x70, 5, 3, .ro⟩
def TRIG_CTRL_REFUSED : Fld := ⟨0x70, 8, 1, .ro⟩
def TRIG_CTRL_RESULT : Fld := ⟨0x70, 9, 3, .ro⟩
/-- TRIG_ARM_CYC_LO, trigger-unit offset 0x0074 (chapter 12). -/
def oTRIG_ARM_CYC_LO : Nat := 0x74
def TRIG_ARM_CYC_LO_CYCLE : Fld := ⟨0x74, 0, 32, .rw⟩
/-- TRIG_ARM_CYC_HI, trigger-unit offset 0x0078 (chapter 12). -/
def oTRIG_ARM_CYC_HI : Nat := 0x78
def TRIG_ARM_CYC_HI_CYCLE : Fld := ⟨0x78, 0, 32, .rw⟩
/-- TRIG_LATCHED, trigger-unit offset 0x0080 + 4 × i, i = 0 to 7 (chapter 12). -/
def oTRIG_LATCHED : Nat := 0x80
def TRIG_LATCHED_VALUE : Fld := ⟨0x80, 0, 32, .ro⟩
/-- PORT_CFG, port offset 0x0000 (chapter 13). -/
def oPORT_CFG : Nat := 0x0
def PORT_CFG_MAX_RATE : Fld := ⟨0x0, 0, 3, .rw⟩
def PORT_CFG_LANE_EN : Fld := ⟨0x0, 3, 4, .rw⟩
/-- PORT_STATUS, port offset 0x0004 (chapter 13). -/
def oPORT_STATUS : Nat := 0x4
def PORT_STATUS_UP : Fld := ⟨0x4, 0, 1, .ro⟩
def PORT_STATUS_ACTIVE : Fld := ⟨0x4, 1, 4, .ro⟩
def PORT_STATUS_RATE : Fld := ⟨0x4, 5, 3, .ro⟩
def PORT_STATUS_PEER_ADDR : Fld := ⟨0x4, 8, 12, .ro⟩
def PORT_STATUS_PEER_VALID : Fld := ⟨0x4, 20, 1, .ro⟩
def PORT_STATUS_PEER_PORT : Fld := ⟨0x4, 21, 4, .ro⟩
def PORT_STATUS_TREE : Fld := ⟨0x4, 25, 1, .ro⟩
def PORT_STATUS_MORTAR : Fld := ⟨0x4, 26, 1, .ro⟩
def PORT_STATUS_LAST_REQ : Fld := ⟨0x4, 27, 3, .ro⟩
def PORT_STATUS_PSTATE : Fld := ⟨0x4, 30, 2, .ro⟩
/-- PORT_CMD, port offset 0x0008 (chapter 13). -/
def oPORT_CMD : Nat := 0x8
def PORT_CMD_RATE : Fld := ⟨0x8, 0, 3, .wo⟩
def PORT_CMD_REQ : Fld := ⟨0x8, 3, 1, .wo⟩
def PORT_CMD_PSTATE : Fld := ⟨0x8, 4, 2, .wo⟩
def PORT_CMD_PS : Fld := ⟨0x8, 6, 1, .wo⟩
/-- PORT_ERR, port offset 0x000C (chapter 13). -/
def oPORT_ERR : Nat := 0xC
def PORT_ERR_REPLAYS : Fld := ⟨0xC, 0, 16, .rc⟩
def PORT_ERR_DOWN : Fld := ⟨0xC, 16, 8, .rc⟩
def PORT_ERR_STREAM : Fld := ⟨0xC, 24, 8, .rc⟩
/-- LANE_CTRL, lane offset 0x0000 (chapter 13). -/
def oLANE_CTRL : Nat := 0x0
def LANE_CTRL_RATE : Fld := ⟨0x0, 0, 3, .rw⟩
def LANE_CTRL_TRAIN : Fld := ⟨0x0, 3, 1, .wo⟩
/-- LANE_FIR, lane offset 0x0004 (chapter 13). -/
def oLANE_FIR : Nat := 0x4
def LANE_FIR_PRE : Fld := ⟨0x4, 0, 6, .rw⟩
def LANE_FIR_MAIN : Fld := ⟨0x4, 6, 7, .rw⟩
def LANE_FIR_POST : Fld := ⟨0x4, 13, 6, .rw⟩
/-- LANE_RX, lane offset 0x0008 (chapter 13). -/
def oLANE_RX : Nat := 0x8
def LANE_RX_CTLE : Fld := ⟨0x8, 0, 5, .rw⟩
def LANE_RX_CTLE_AUTO : Fld := ⟨0x8, 5, 1, .rw⟩
def LANE_RX_DFE_AUTO : Fld := ⟨0x8, 6, 1, .rw⟩
def LANE_RX_DFE_FREEZE : Fld := ⟨0x8, 7, 1, .rw⟩
/-- LANE_DFE, lane offset 0x000C (chapter 13). -/
def oLANE_DFE : Nat := 0xC
def LANE_DFE_TAP : Fld := ⟨0xC, 0, 4, .rw⟩
def LANE_DFE_VALUE : Fld := ⟨0xC, 8, 8, .ro⟩
/-- LINK_BITSLIP, lane offset 0x0010 (chapter 13). -/
def oLINK_BITSLIP : Nat := 0x10
def LINK_BITSLIP_SLIP : Fld := ⟨0x10, 0, 1, .wo⟩
/-- LANE_STATUS, lane offset 0x0014 (chapter 13). -/
def oLANE_STATUS : Nat := 0x14
def LANE_STATUS_SIG_DET : Fld := ⟨0x14, 0, 1, .ro⟩
def LANE_STATUS_CDR_LOCK : Fld := ⟨0x14, 1, 1, .ro⟩
def LANE_STATUS_HDR_LOCK : Fld := ⟨0x14, 2, 1, .ro⟩
def LANE_STATUS_BLK_LOCK : Fld := ⟨0x14, 3, 1, .ro⟩
def LANE_STATUS_CAPS_VALID : Fld := ⟨0x14, 4, 1, .ro⟩
def LANE_STATUS_TIMEOUT : Fld := ⟨0x14, 5, 1, .ro⟩
def LANE_STATUS_FIR_ERR : Fld := ⟨0x14, 6, 1, .ro⟩
def LANE_STATUS_STATE : Fld := ⟨0x14, 7, 3, .ro⟩
def LANE_STATUS_RATE : Fld := ⟨0x14, 10, 3, .ro⟩
def LANE_STATUS_SLIPS : Fld := ⟨0x14, 13, 6, .ro⟩
/-- LANE_ERR, lane offset 0x0018 (chapter 13). -/
def oLANE_ERR : Nat := 0x18
def LANE_ERR_CORRECTED : Fld := ⟨0x18, 0, 16, .rc⟩
def LANE_ERR_UNCORR : Fld := ⟨0x18, 16, 8, .rc⟩
def LANE_ERR_LOCK_LOSS : Fld := ⟨0x18, 24, 8, .rc⟩
/-- LANE_CAPS, lane offset 0x001C (chapter 13). -/
def oLANE_CAPS : Nat := 0x1C
def LANE_CAPS_MAX_RATE : Fld := ⟨0x1C, 0, 3, .ro⟩
def LANE_CAPS_PORT : Fld := ⟨0x1C, 3, 4, .ro⟩
def LANE_CAPS_LANE : Fld := ⟨0x1C, 7, 2, .ro⟩
def LANE_CAPS_KEYSTONE : Fld := ⟨0x1C, 9, 1, .ro⟩
def LANE_CAPS_ADDR : Fld := ⟨0x1C, 10, 12, .ro⟩
def LANE_CAPS_ADDR_VALID : Fld := ⟨0x1C, 22, 1, .ro⟩
/-- CHAIN_STATUS, device offset 0x0900 (chapter 13). -/
def oCHAIN_STATUS : Nat := 0x900
def CHAIN_STATUS_ADDR : Fld := ⟨0x900, 0, 12, .ro⟩
def CHAIN_STATUS_ADDR_VALID : Fld := ⟨0x900, 12, 1, .ro⟩
def CHAIN_STATUS_KEYSTONE : Fld := ⟨0x900, 13, 1, .ro⟩
def CHAIN_STATUS_EPOCH : Fld := ⟨0x900, 14, 8, .ro⟩
def CHAIN_STATUS_ESTATE : Fld := ⟨0x900, 22, 2, .ro⟩
def CHAIN_STATUS_NOBUS : Fld := ⟨0x900, 24, 1, .ro⟩
/-- ENUM_CTRL, device offset 0x0904 (chapter 13). -/
def oENUM_CTRL : Nat := 0x904
def ENUM_CTRL_START : Fld := ⟨0x904, 0, 1, .wo⟩
def ENUM_CTRL_TIMEOUT_MS : Fld := ⟨0x904, 8, 8, .rw⟩
/-- ENUM_STATUS, device offset 0x0908 (chapter 13). -/
def oENUM_STATUS : Nat := 0x908
def ENUM_STATUS_KSTATE : Fld := ⟨0x908, 0, 3, .ro⟩
def ENUM_STATUS_RESULT : Fld := ⟨0x908, 4, 4, .ro⟩
def ENUM_STATUS_RESTARTS : Fld := ⟨0x908, 8, 2, .ro⟩
def ENUM_STATUS_COUNT : Fld := ⟨0x908, 10, 13, .ro⟩
/-- CHAIN_TREE, device offset 0x090C (chapter 13). -/
def oCHAIN_TREE : Nat := 0x90C
def CHAIN_TREE_PARENT : Fld := ⟨0x90C, 0, 4, .ro⟩
def CHAIN_TREE_ROOT : Fld := ⟨0x90C, 4, 1, .ro⟩
def CHAIN_TREE_VALID : Fld := ⟨0x90C, 5, 1, .ro⟩
def CHAIN_TREE_DEPTH : Fld := ⟨0x90C, 6, 8, .ro⟩
def CHAIN_TREE_CHILDREN : Fld := ⟨0x90C, 14, 16, .ro⟩
/-- TOPO_EVENT, device offset 0x0910 (chapter 13). -/
def oTOPO_EVENT : Nat := 0x910
def TOPO_EVENT_CHANGED : Fld := ⟨0x910, 0, 16, .w1c⟩
/-- LINK_POLL, device offset 0x0914 (chapter 13). -/
def oLINK_POLL : Nat := 0x914
def LINK_POLL_PRESENCE_POLL_MS : Fld := ⟨0x914, 0, 16, .rw⟩
/-- BOOT_STATUS, device offset 0x0A00 (chapter 14). -/
def oBOOT_STATUS : Nat := 0xA00
def BOOT_STATUS_STAGE : Fld := ⟨0xA00, 0, 4, .ro⟩
def BOOT_STATUS_RESULT : Fld := ⟨0xA00, 4, 4, .ro⟩
def BOOT_STATUS_BOOT_SLOT : Fld := ⟨0xA00, 8, 1, .ro⟩
def BOOT_STATUS_IMG_SLOT : Fld := ⟨0xA00, 9, 1, .ro⟩
def BOOT_STATUS_BOOT_TRIAL : Fld := ⟨0xA00, 10, 1, .ro⟩
def BOOT_STATUS_IMG_TRIAL : Fld := ⟨0xA00, 11, 1, .ro⟩
def BOOT_STATUS_REVERTED : Fld := ⟨0xA00, 12, 1, .ro⟩
def BOOT_STATUS_FALLBACK : Fld := ⟨0xA00, 13, 1, .ro⟩
def BOOT_STATUS_RECOVERED : Fld := ⟨0xA00, 14, 1, .ro⟩
def BOOT_STATUS_DONE_IN : Fld := ⟨0xA00, 15, 1, .ro⟩
def BOOT_STATUS_CONFIGURED : Fld := ⟨0xA00, 16, 1, .ro⟩
/-- SEC_STATUS, device offset 0x0A04 (chapter 14). -/
def oSEC_STATUS : Nat := 0xA04
def SEC_STATUS_LC : Fld := ⟨0xA04, 0, 3, .ro⟩
def SEC_STATUS_LC_COMPLETED : Fld := ⟨0xA04, 3, 1, .ro⟩
def SEC_STATUS_FUSE_KEK_OK : Fld := ⟨0xA04, 4, 1, .ro⟩
def SEC_STATUS_KEYRAM_VALID : Fld := ⟨0xA04, 5, 1, .ro⟩
def SEC_STATUS_VBAT_PRESENT : Fld := ⟨0xA04, 6, 1, .ro⟩
def SEC_STATUS_JTAG_OPEN : Fld := ⟨0xA04, 7, 1, .ro⟩
def SEC_STATUS_REVOKED : Fld := ⟨0xA04, 8, 4, .ro⟩
/-- SVN_STATUS, device offset 0x0A08 (chapter 14). -/
def oSVN_STATUS : Nat := 0xA08
def SVN_STATUS_BOOT_SVN : Fld := ⟨0xA08, 0, 8, .ro⟩
def SVN_STATUS_IMAGE_SVN : Fld := ⟨0xA08, 8, 8, .ro⟩
def SVN_STATUS_RUN_BOOT_SVN : Fld := ⟨0xA08, 16, 8, .ro⟩
def SVN_STATUS_RUN_IMAGE_SVN : Fld := ⟨0xA08, 24, 8, .ro⟩
/-- UPDATE_CTRL, device offset 0x0A0C (chapter 14). -/
def oUPDATE_CTRL : Nat := 0xA0C
def UPDATE_CTRL_CMD : Fld := ⟨0xA0C, 0, 3, .wo⟩
def UPDATE_CTRL_TARGET : Fld := ⟨0xA0C, 3, 1, .wo⟩
def UPDATE_CTRL_SLOT : Fld := ⟨0xA0C, 4, 1, .wo⟩
def UPDATE_CTRL_BUSY : Fld := ⟨0xA0C, 5, 1, .ro⟩
def UPDATE_CTRL_RESULT : Fld := ⟨0xA0C, 6, 4, .ro⟩
def UPDATE_CTRL_CHECK : Fld := ⟨0xA0C, 10, 4, .ro⟩
/-- LOAD_BASE_LO, device offset 0x0A10 (chapter 14). -/
def oLOAD_BASE_LO : Nat := 0xA10
def LOAD_BASE_LO_ADDR : Fld := ⟨0xA10, 0, 32, .rw⟩
/-- LOAD_BASE_HI, device offset 0x0A14 (chapter 14). -/
def oLOAD_BASE_HI : Nat := 0xA14
def LOAD_BASE_HI_ADDR : Fld := ⟨0xA14, 0, 32, .rw⟩
/-- LOAD_CTRL, device offset 0x0A18 (chapter 14). -/
def oLOAD_CTRL : Nat := 0xA18
def LOAD_CTRL_GO : Fld := ⟨0xA18, 0, 1, .wo⟩
def LOAD_CTRL_BUSY : Fld := ⟨0xA18, 1, 1, .ro⟩
def LOAD_CTRL_RESULT : Fld := ⟨0xA18, 2, 4, .ro⟩
/-- RECOVERY_CTRL, device offset 0x0A1C (chapter 14). -/
def oRECOVERY_CTRL : Nat := 0xA1C
def RECOVERY_CTRL_GO : Fld := ⟨0xA1C, 0, 1, .wo⟩
def RECOVERY_CTRL_BUSY : Fld := ⟨0xA1C, 1, 1, .ro⟩
def RECOVERY_CTRL_RESULT : Fld := ⟨0xA1C, 2, 4, .ro⟩
/-- TAMPER_CFG, device offset 0x0A20 (chapter 14). -/
def oTAMPER_CFG : Nat := 0xA20
def TAMPER_CFG_EN : Fld := ⟨0xA20, 0, 4, .wl⟩
def TAMPER_CFG_PIN_POL : Fld := ⟨0xA20, 4, 1, .wl⟩
/-- TAMPER_STATUS, device offset 0x0A24 (chapter 14). -/
def oTAMPER_STATUS : Nat := 0xA24
def TAMPER_STATUS_SEEN : Fld := ⟨0xA24, 0, 4, .w1c⟩
def TAMPER_STATUS_LIVE : Fld := ⟨0xA24, 4, 4, .ro⟩
def TAMPER_STATUS_OFF_EVENT : Fld := ⟨0xA24, 8, 1, .w1c⟩
/-- LOCK_VIOLATION, device offset 0x0A28 (chapter 14). -/
def oLOCK_VIOLATION : Nat := 0xA28
def LOCK_VIOLATION_COUNT : Fld := ⟨0xA28, 0, 16, .rc⟩
/-- LOCK_VIOLATION_ADDR, device offset 0x0A2C (chapter 14). -/
def oLOCK_VIOLATION_ADDR : Nat := 0xA2C
def LOCK_VIOLATION_ADDR_OFFSET : Fld := ⟨0xA2C, 0, 32, .ro⟩
/-- SEC_LOCK, device offset 0x0A30 (chapter 14). -/
def oSEC_LOCK : Nat := 0xA30
def SEC_LOCK_JTAG_LOCK : Fld := ⟨0xA30, 0, 1, .wl⟩
def SEC_LOCK_UPDATE_LOCK : Fld := ⟨0xA30, 1, 1, .wl⟩
def SEC_LOCK_LC_LOCK : Fld := ⟨0xA30, 2, 1, .wl⟩
/-- LC_CTRL, device offset 0x0A34 (chapter 14). -/
def oLC_CTRL : Nat := 0xA34
def LC_CTRL_TARGET : Fld := ⟨0xA34, 0, 3, .wo⟩
def LC_CTRL_GO : Fld := ⟨0xA34, 3, 1, .wo⟩
def LC_CTRL_RESULT : Fld := ⟨0xA34, 4, 3, .ro⟩
def LC_CTRL_BUSY : Fld := ⟨0xA34, 7, 1, .ro⟩
/-- KEYRAM_DATA, device offset 0x0A40 + 4 × i, i = 0 to 7 (chapter 14). -/
def oKEYRAM_DATA : Nat := 0xA40
def KEYRAM_DATA_KEY : Fld := ⟨0xA40, 0, 32, .wo⟩
/-- KEYRAM_CTRL, device offset 0x0A60 (chapter 14). -/
def oKEYRAM_CTRL : Nat := 0xA60
def KEYRAM_CTRL_LOAD : Fld := ⟨0xA60, 0, 1, .wo⟩
def KEYRAM_CTRL_WIPE : Fld := ⟨0xA60, 1, 1, .wo⟩
/-- KEYRAM_KCV, device offset 0x0A64 (chapter 14). -/
def oKEYRAM_KCV : Nat := 0xA64
def KEYRAM_KCV_KCV : Fld := ⟨0xA64, 0, 32, .ro⟩
/-- TIME_NS_LO, device offset 0x0B00 (chapter 15). -/
def oTIME_NS_LO : Nat := 0xB00
def TIME_NS_LO_VALUE : Fld := ⟨0xB00, 0, 32, .ro⟩
/-- TIME_NS_HI, device offset 0x0B04 (chapter 15). -/
def oTIME_NS_HI : Nat := 0xB04
def TIME_NS_HI_VALUE : Fld := ⟨0xB04, 0, 32, .ro⟩
/-- TIME_FRAC, device offset 0x0B08 (chapter 15). -/
def oTIME_FRAC : Nat := 0xB08
def TIME_FRAC_VALUE : Fld := ⟨0xB08, 0, 32, .ro⟩
/-- TIME_INC_LO, device offset 0x0B0C (chapter 15). -/
def oTIME_INC_LO : Nat := 0xB0C
def TIME_INC_LO_VALUE : Fld := ⟨0xB0C, 0, 32, .rw⟩
/-- TIME_INC_HI, device offset 0x0B10 (chapter 15). -/
def oTIME_INC_HI : Nat := 0xB10
def TIME_INC_HI_VALUE : Fld := ⟨0xB10, 0, 32, .rw⟩
/-- TIME_SET_LO, device offset 0x0B14 (chapter 15). -/
def oTIME_SET_LO : Nat := 0xB14
def TIME_SET_LO_VALUE : Fld := ⟨0xB14, 0, 32, .wo⟩
/-- TIME_SET_HI, device offset 0x0B18 (chapter 15). -/
def oTIME_SET_HI : Nat := 0xB18
def TIME_SET_HI_VALUE : Fld := ⟨0xB18, 0, 32, .wo⟩
/-- PPS_SEC_LO, device offset 0x0B1C (chapter 15). -/
def oPPS_SEC_LO : Nat := 0xB1C
def PPS_SEC_LO_VALUE : Fld := ⟨0xB1C, 0, 32, .rw⟩
/-- PPS_SEC_HI, device offset 0x0B20 (chapter 15). -/
def oPPS_SEC_HI : Nat := 0xB20
def PPS_SEC_HI_VALUE : Fld := ⟨0xB20, 0, 32, .rw⟩
/-- TIME_CTRL, device offset 0x0B24 (chapter 15). -/
def oTIME_CTRL : Nat := 0xB24
def TIME_CTRL_PPS_EN : Fld := ⟨0xB24, 0, 1, .rw⟩
def TIME_CTRL_PPS_SRC : Fld := ⟨0xB24, 1, 1, .rw⟩
def TIME_CTRL_MASTER : Fld := ⟨0xB24, 2, 1, .rw⟩
def TIME_CTRL_MSG_EXPECT : Fld := ⟨0xB24, 3, 1, .rw⟩
def TIME_CTRL_SYNCED : Fld := ⟨0xB24, 4, 1, .wo⟩
def TIME_CTRL_TIME_GUARD_US : Fld := ⟨0xB24, 8, 24, .rw⟩
/-- TIME_STATUS, device offset 0x0B28 (chapter 15). -/
def oTIME_STATUS : Nat := 0xB28
def TIME_STATUS_HOLDOVER : Fld := ⟨0xB28, 0, 1, .ro⟩
def TIME_STATUS_UNSYNCED : Fld := ⟨0xB28, 1, 1, .ro⟩
def TIME_STATUS_SLEPT : Fld := ⟨0xB28, 2, 1, .ro⟩
def TIME_STATUS_RC : Fld := ⟨0xB28, 3, 1, .ro⟩
def TIME_STATUS_CONFLICT : Fld := ⟨0xB28, 4, 1, .w1c⟩
def TIME_STATUS_RESYNC : Fld := ⟨0xB28, 5, 1, .w1c⟩
def TIME_STATUS_PPS_BAD : Fld := ⟨0xB28, 8, 8, .rc⟩
def TIME_STATUS_PPS_MISSED : Fld := ⟨0xB28, 16, 8, .rc⟩
/-- PPS_PERIOD, device offset 0x0B2C (chapter 15). -/
def oPPS_PERIOD : Nat := 0xB2C
def PPS_PERIOD_NS : Fld := ⟨0xB2C, 0, 32, .ro⟩
/-- TIME_MSG_LO, device offset 0x0B30 (chapter 15). -/
def oTIME_MSG_LO : Nat := 0xB30
def TIME_MSG_LO_VALUE : Fld := ⟨0xB30, 0, 32, .ro⟩
/-- TIME_MSG_HI, device offset 0x0B34 (chapter 15). -/
def oTIME_MSG_HI : Nat := 0xB34
def TIME_MSG_HI_VALUE : Fld := ⟨0xB34, 0, 32, .ro⟩
/-- MONO_NS_LO, device offset 0x0B38 (chapter 15). -/
def oMONO_NS_LO : Nat := 0xB38
def MONO_NS_LO_VALUE : Fld := ⟨0xB38, 0, 32, .ro⟩
/-- MONO_NS_HI, device offset 0x0B3C (chapter 15). -/
def oMONO_NS_HI : Nat := 0xB3C
def MONO_NS_HI_VALUE : Fld := ⟨0xB3C, 0, 32, .ro⟩
/-- TL_SEL, device offset 0x0B40 (chapter 15). -/
def oTL_SEL : Nat := 0xB40
def TL_SEL_VALUE : Fld := ⟨0xB40, 0, 32, .rw⟩
/-- TL_TIME_LO, device offset 0x0B44 (chapter 15). -/
def oTL_TIME_LO : Nat := 0xB44
def TL_TIME_LO_VALUE : Fld := ⟨0xB44, 0, 32, .rw⟩
/-- TL_TIME_HI, device offset 0x0B48 (chapter 15). -/
def oTL_TIME_HI : Nat := 0xB48
def TL_TIME_HI_VALUE : Fld := ⟨0xB48, 0, 32, .rw⟩
/-- TL_CFG, device offset 0x0B4C (chapter 15). -/
def oTL_CFG : Nat := 0xB4C
def TL_CFG_ACTION : Fld := ⟨0xB4C, 0, 3, .rw⟩
def TL_CFG_NOPID : Fld := ⟨0xB4C, 3, 1, .rw⟩
def TL_CFG_PID : Fld := ⟨0xB4C, 4, 8, .rw⟩
def TL_CFG_TAG : Fld := ⟨0xB4C, 12, 4, .rw⟩
def TL_CFG_MEMBERS_M1 : Fld := ⟨0xB4C, 16, 12, .rw⟩
def TL_CFG_CMD : Fld := ⟨0xB4C, 28, 2, .wo⟩
/-- TL_STATUS, device offset 0x0B50 (chapter 15). -/
def oTL_STATUS : Nat := 0xB50
def TL_STATUS_STATE : Fld := ⟨0xB50, 0, 2, .ro⟩
def TL_STATUS_RESULT : Fld := ⟨0xB50, 2, 4, .ro⟩
/-- METER_CFG, device offset 0x0B60 (chapter 15). -/
def oMETER_CFG : Nat := 0xB60
def METER_CFG_EPOCH_S : Fld := ⟨0xB60, 0, 17, .rw⟩
def METER_CFG_LOG_QUEUE : Fld := ⟨0xB60, 17, 7, .rw⟩
def METER_CFG_EXPORT : Fld := ⟨0xB60, 24, 1, .wo⟩
/-- METER_CYCLES_LO, partition offset 0x0180 (chapter 15). -/
def oMETER_CYCLES_LO : Nat := 0x180
def METER_CYCLES_LO_VALUE : Fld := ⟨0x180, 0, 32, .ro⟩
/-- METER_CYCLES_HI, partition offset 0x0184 (chapter 15). -/
def oMETER_CYCLES_HI : Nat := 0x184
def METER_CYCLES_HI_VALUE : Fld := ⟨0x184, 0, 32, .ro⟩
/-- METER_CELL_STEPS_LO, partition offset 0x0188 (chapter 15). -/
def oMETER_CELL_STEPS_LO : Nat := 0x188
def METER_CELL_STEPS_LO_VALUE : Fld := ⟨0x188, 0, 32, .ro⟩
/-- METER_CELL_STEPS_HI, partition offset 0x018C (chapter 15). -/
def oMETER_CELL_STEPS_HI : Nat := 0x18C
def METER_CELL_STEPS_HI_VALUE : Fld := ⟨0x18C, 0, 32, .ro⟩
/-- METER_HOLD_NS_LO, partition offset 0x0190 (chapter 15). -/
def oMETER_HOLD_NS_LO : Nat := 0x190
def METER_HOLD_NS_LO_VALUE : Fld := ⟨0x190, 0, 32, .ro⟩
/-- METER_HOLD_NS_HI, partition offset 0x0194 (chapter 15). -/
def oMETER_HOLD_NS_HI : Nat := 0x194
def METER_HOLD_NS_HI_VALUE : Fld := ⟨0x194, 0, 32, .ro⟩
/-- METER_REC_BYTES_LO, partition offset 0x0198 (chapter 15). -/
def oMETER_REC_BYTES_LO : Nat := 0x198
def METER_REC_BYTES_LO_VALUE : Fld := ⟨0x198, 0, 32, .ro⟩
/-- METER_REC_BYTES_HI, partition offset 0x019C (chapter 15). -/
def oMETER_REC_BYTES_HI : Nat := 0x19C
def METER_REC_BYTES_HI_VALUE : Fld := ⟨0x19C, 0, 32, .ro⟩
/-- CN_ROUTE_LOC, die-window offset 0x45000 (chapter 16). -/
def oCN_ROUTE_LOC : Nat := 0x45000
def CN_ROUTE_LOC_NI : Fld := ⟨0x45000, 0, 6, .rw⟩
def CN_ROUTE_LOC_ENTRY : Fld := ⟨0x45000, 6, 6, .rw⟩
/-- CN_ROUTE_MATCH, die-window offset 0x45004 (chapter 16). -/
def oCN_ROUTE_MATCH : Nat := 0x45004
def CN_ROUTE_MATCH_BASE : Fld := ⟨0x45004, 0, 19, .rw⟩
def CN_ROUTE_MATCH_SPACE : Fld := ⟨0x45004, 19, 1, .rw⟩
def CN_ROUTE_MATCH_REMOTE : Fld := ⟨0x45004, 20, 1, .rw⟩
def CN_ROUTE_MATCH_VALID : Fld := ⟨0x45004, 31, 1, .rw⟩
/-- CN_ROUTE_MASK, die-window offset 0x45008 (chapter 16). -/
def oCN_ROUTE_MASK : Nat := 0x45008
def CN_ROUTE_MASK_MASK : Fld := ⟨0x45008, 0, 19, .rw⟩
/-- CN_ROUTE_PATH, die-window offset 0x4500C (chapter 16). -/
def oCN_ROUTE_PATH : Nat := 0x4500C
def CN_ROUTE_PATH_PORTS : Fld := ⟨0x4500C, 0, 27, .rw⟩
def CN_ROUTE_PATH_HOPS : Fld := ⟨0x4500C, 27, 4, .rw⟩
/-- CN_ROUTE_CMD, die-window offset 0x45010 (chapter 16). -/
def oCN_ROUTE_CMD : Nat := 0x45010
def CN_ROUTE_CMD_GO : Fld := ⟨0x45010, 0, 1, .wo⟩
def CN_ROUTE_CMD_WRITE : Fld := ⟨0x45010, 1, 1, .wo⟩
def CN_ROUTE_CMD_RESULT : Fld := ⟨0x45010, 2, 2, .ro⟩
/-- CN_TIMEOUT, die-window offset 0x45014 (chapter 16). -/
def oCN_TIMEOUT : Nat := 0x45014
def CN_TIMEOUT_LOCAL_10NS : Fld := ⟨0x45014, 0, 16, .rw⟩
def CN_TIMEOUT_BRIDGED_US : Fld := ⟨0x45014, 16, 16, .rw⟩
/-- CN_ERR, die-window offset 0x45018 (chapter 16). -/
def oCN_ERR : Nat := 0x45018
def CN_ERR_TIMEOUTS : Fld := ⟨0x45018, 0, 8, .rc⟩
def CN_ERR_LATE_RSP : Fld := ⟨0x45018, 8, 8, .rc⟩
def CN_ERR_NO_ROUTE : Fld := ⟨0x45018, 16, 8, .rc⟩
def CN_ERR_BRIDGE_DROP : Fld := ⟨0x45018, 24, 8, .rc⟩
/-- CN_ERR_ADDR_LO, die-window offset 0x4501C (chapter 16). -/
def oCN_ERR_ADDR_LO : Nat := 0x4501C
def CN_ERR_ADDR_LO_VALUE : Fld := ⟨0x4501C, 0, 32, .ro⟩
/-- CN_ERR_ADDR_HI, die-window offset 0x45020 (chapter 16). -/
def oCN_ERR_ADDR_HI : Nat := 0x45020
def CN_ERR_ADDR_HI_VALUE : Fld := ⟨0x45020, 0, 32, .ro⟩
/-- HBM_CFG, die-window offset 0x46000 (chapter 17). -/
def oHBM_CFG : Nat := 0x46000
def HBM_CFG_MAP : Fld := ⟨0x46000, 0, 1, .wl⟩
def HBM_CFG_RATE : Fld := ⟨0x46000, 1, 2, .wl⟩
def HBM_CFG_ZERO_FILL : Fld := ⟨0x46000, 3, 1, .rw⟩
def HBM_CFG_RETRAIN_MS : Fld := ⟨0x46000, 8, 16, .rw⟩
def HBM_CFG_SCRUB_H : Fld := ⟨0x46000, 24, 8, .rw⟩
/-- HBM_RETAIN, die-window offset 0x46004 (chapter 17). -/
def oHBM_RETAIN : Nat := 0x46004
def HBM_RETAIN_PC : Fld := ⟨0x46004, 0, 32, .rw⟩
/-- HBM_STATUS, die-window offset 0x46008 (chapter 17). -/
def oHBM_STATUS : Nat := 0x46008
def HBM_STATUS_TRAINED : Fld := ⟨0x46008, 0, 1, .ro⟩
def HBM_STATUS_DEGRADED : Fld := ⟨0x46008, 1, 1, .ro⟩
def HBM_STATUS_FILLING : Fld := ⟨0x46008, 2, 1, .ro⟩
def HBM_STATUS_HOT : Fld := ⟨0x46008, 3, 1, .ro⟩
def HBM_STATUS_RETRAINING : Fld := ⟨0x46008, 4, 1, .ro⟩
def HBM_STATUS_TEMP_C : Fld := ⟨0x46008, 8, 8, .ro⟩
def HBM_STATUS_LAST_PC : Fld := ⟨0x46008, 16, 5, .ro⟩
def HBM_STATUS_REPAIRS : Fld := ⟨0x46008, 21, 6, .ro⟩
/-- HBM_ECC_COUNT, die-window offset 0x4600C (chapter 17). -/
def oHBM_ECC_COUNT : Nat := 0x4600C
def HBM_ECC_COUNT_CE : Fld := ⟨0x4600C, 0, 16, .rc⟩
def HBM_ECC_COUNT_UE : Fld := ⟨0x4600C, 16, 16, .rc⟩
/-- HBM_ERR_ADDR_LO, die-window offset 0x46010 (chapter 17). -/
def oHBM_ERR_ADDR_LO : Nat := 0x46010
def HBM_ERR_ADDR_LO_VALUE : Fld := ⟨0x46010, 0, 32, .ro⟩
/-- HBM_ERR_ADDR_HI, die-window offset 0x46014 (chapter 17). -/
def oHBM_ERR_ADDR_HI : Nat := 0x46014
def HBM_ERR_ADDR_HI_VALUE : Fld := ⟨0x46014, 0, 32, .ro⟩
/-- HBM_OWN_SEL, die-window offset 0x46018 (chapter 17). -/
def oHBM_OWN_SEL : Nat := 0x46018
def HBM_OWN_SEL_GRANULE : Fld := ⟨0x46018, 0, 15, .rw⟩
def HBM_OWN_SEL_AUTOINC : Fld := ⟨0x46018, 15, 1, .rw⟩
def HBM_OWN_SEL_RESULT : Fld := ⟨0x46018, 16, 2, .ro⟩
/-- HBM_OWN_DATA, die-window offset 0x4601C (chapter 17). -/
def oHBM_OWN_DATA : Nat := 0x4601C
def HBM_OWN_DATA_PID : Fld := ⟨0x4601C, 0, 8, .rw⟩
def HBM_OWN_DATA_OWNED : Fld := ⟨0x4601C, 8, 1, .rw⟩
/-- PL_CTRL, device offset 0x0C00 (chapter 18). -/
def oPL_CTRL : Nat := 0xC00
def PL_CTRL_TARGET : Fld := ⟨0xC00, 0, 2, .wo⟩
def PL_CTRL_GO : Fld := ⟨0xC00, 2, 1, .wo⟩
def PL_CTRL_BUSY : Fld := ⟨0xC00, 3, 1, .ro⟩
def PL_CTRL_RESULT : Fld := ⟨0xC00, 4, 3, .ro⟩
def PL_CTRL_VOLT_DONE : Fld := ⟨0xC00, 7, 1, .wo⟩
/-- PL_STATUS, device offset 0x0C04 (chapter 18). -/
def oPL_STATUS : Nat := 0xC04
def PL_STATUS_LEVEL : Fld := ⟨0xC04, 0, 2, .ro⟩
def PL_STATUS_PENDING : Fld := ⟨0xC04, 2, 2, .ro⟩
def PL_STATUS_VOLT_REQ : Fld := ⟨0xC04, 4, 1, .ro⟩
def PL_STATUS_VOLT_MV : Fld := ⟨0xC04, 16, 12, .ro⟩
/-- PWR_CTRL, device offset 0x0C08 (chapter 18). -/
def oPWR_CTRL : Nat := 0xC08
def PWR_CTRL_CMD : Fld := ⟨0xC08, 0, 2, .wo⟩
def PWR_CTRL_SAVE_EN : Fld := ⟨0xC08, 2, 1, .rw⟩
def PWR_CTRL_BUSY : Fld := ⟨0xC08, 3, 1, .ro⟩
def PWR_CTRL_RESULT : Fld := ⟨0xC08, 4, 4, .ro⟩
def PWR_CTRL_DRAIN_US : Fld := ⟨0xC08, 16, 16, .rw⟩
/-- PWR_STATUS, device offset 0x0C0C (chapter 18). -/
def oPWR_STATUS : Nat := 0xC0C
def PWR_STATUS_STATE : Fld := ⟨0xC0C, 0, 2, .ro⟩
def PWR_STATUS_PHASE : Fld := ⟨0xC0C, 2, 3, .ro⟩
def PWR_STATUS_REFCLK_LOST : Fld := ⟨0xC0C, 5, 1, .w1c⟩
def PWR_STATUS_RESTORING : Fld := ⟨0xC0C, 6, 1, .ro⟩
def PWR_STATUS_DOMAIN_REFUSED : Fld := ⟨0xC0C, 7, 1, .w1c⟩
/-- DOMAIN_CTRL, device offset 0x0C10 (chapter 18). -/
def oDOMAIN_CTRL : Nat := 0xC10
def DOMAIN_CTRL_DIE0 : Fld := ⟨0xC10, 0, 3, .rw⟩
def DOMAIN_CTRL_DIE1 : Fld := ⟨0xC10, 4, 3, .rw⟩
def DOMAIN_CTRL_DIE2 : Fld := ⟨0xC10, 8, 3, .rw⟩
def DOMAIN_CTRL_DIE3 : Fld := ⟨0xC10, 12, 3, .rw⟩
def DOMAIN_CTRL_DIE4 : Fld := ⟨0xC10, 16, 3, .rw⟩
def DOMAIN_CTRL_DIE5 : Fld := ⟨0xC10, 20, 3, .rw⟩
def DOMAIN_CTRL_DIE6 : Fld := ⟨0xC10, 24, 3, .rw⟩
def DOMAIN_CTRL_DIE7 : Fld := ⟨0xC10, 28, 3, .rw⟩
/-- DOMAIN_STATUS, device offset 0x0C14 (chapter 18). -/
def oDOMAIN_STATUS : Nat := 0xC14
def DOMAIN_STATUS_DIE0 : Fld := ⟨0xC14, 0, 3, .ro⟩
def DOMAIN_STATUS_DIE1 : Fld := ⟨0xC14, 4, 3, .ro⟩
def DOMAIN_STATUS_DIE2 : Fld := ⟨0xC14, 8, 3, .ro⟩
def DOMAIN_STATUS_DIE3 : Fld := ⟨0xC14, 12, 3, .ro⟩
def DOMAIN_STATUS_DIE4 : Fld := ⟨0xC14, 16, 3, .ro⟩
def DOMAIN_STATUS_DIE5 : Fld := ⟨0xC14, 20, 3, .ro⟩
def DOMAIN_STATUS_DIE6 : Fld := ⟨0xC14, 24, 3, .ro⟩
def DOMAIN_STATUS_DIE7 : Fld := ⟨0xC14, 28, 3, .ro⟩
/-- WAKE_CFG, device offset 0x0C18 (chapter 18). -/
def oWAKE_CFG : Nat := 0xC18
def WAKE_CFG_PORTS : Fld := ⟨0xC18, 0, 16, .rw⟩
def WAKE_CFG_TIMER_EN : Fld := ⟨0xC18, 16, 1, .rw⟩
def WAKE_CFG_PCIE_EN : Fld := ⟨0xC18, 17, 1, .rw⟩
def WAKE_CFG_PIN_EN : Fld := ⟨0xC18, 18, 1, .rw⟩
def WAKE_CFG_NET_EN : Fld := ⟨0xC18, 19, 1, .rw⟩
/-- WAKE_TIME_LO, device offset 0x0C1C (chapter 18). -/
def oWAKE_TIME_LO : Nat := 0xC1C
def WAKE_TIME_LO_TIME : Fld := ⟨0xC1C, 0, 32, .rw⟩
/-- WAKE_TIME_HI, device offset 0x0C20 (chapter 18). -/
def oWAKE_TIME_HI : Nat := 0xC20
def WAKE_TIME_HI_TIME : Fld := ⟨0xC20, 0, 32, .rw⟩
/-- LAST_WAKE, device offset 0x0C24 (chapter 18). -/
def oLAST_WAKE : Nat := 0xC24
def LAST_WAKE_SOURCE : Fld := ⟨0xC24, 0, 4, .ro⟩
def LAST_WAKE_FROM : Fld := ⟨0xC24, 4, 2, .ro⟩
def LAST_WAKE_ABORT_POINT : Fld := ⟨0xC24, 6, 3, .ro⟩
def LAST_WAKE_INDEX : Fld := ⟨0xC24, 9, 8, .ro⟩
/-- SLUMBER_SAVE, device offset 0x0C28 (chapter 18). -/
def oSLUMBER_SAVE : Nat := 0xC28
def SLUMBER_SAVE_OFFSET_GIB : Fld := ⟨0xC28, 0, 6, .rw⟩
def SLUMBER_SAVE_VALID : Fld := ⟨0xC28, 31, 1, .rw⟩
/-- RESET_CTRL, device offset 0x0C2C (chapter 18). -/
def oRESET_CTRL : Nat := 0xC2C
def RESET_CTRL_WARM : Fld := ⟨0xC2C, 0, 1, .wo⟩
/-- RESET_CAUSE, device offset 0x0C30 (chapter 18). -/
def oRESET_CAUSE : Nat := 0xC30
def RESET_CAUSE_LAST : Fld := ⟨0xC30, 0, 2, .ro⟩
/-- PART_RESET, partition offset 0x01C0 (chapter 18). -/
def oPART_RESET : Nat := 0x1C0
def PART_RESET_GO : Fld := ⟨0x1C0, 0, 1, .wo⟩
/-- GP_CFG, die-window offset 0x47000 + 4 × i, i = 0 to 31 (chapter 19). -/
def oGP_CFG : Nat := 0x47000
def GP_CFG_PULL : Fld := ⟨0x47000, 0, 2, .rw⟩
def GP_CFG_SLEW : Fld := ⟨0x47000, 2, 1, .rw⟩
def GP_CFG_INT_MODE : Fld := ⟨0x47000, 3, 3, .rw⟩
def GP_CFG_WAKE : Fld := ⟨0x47000, 6, 1, .rw⟩
/-- GP_TGT0, die-window offset 0x47100 + 4 × i, i = 0 to 31 (chapter 19). -/
def oGP_TGT0 : Nat := 0x47100
def GP_TGT0_EN : Fld := ⟨0x47100, 0, 1, .rw⟩
def GP_TGT0_DIR : Fld := ⟨0x47100, 1, 1, .rw⟩
def GP_TGT0_WALL : Fld := ⟨0x47100, 2, 4, .rw⟩
def GP_TGT0_COURSE : Fld := ⟨0x47100, 6, 4, .rw⟩
def GP_TGT0_BED : Fld := ⟨0x47100, 10, 4, .rw⟩
def GP_TGT0_LINE : Fld := ⟨0x47100, 14, 4, .rw⟩
def GP_TGT0_BIT : Fld := ⟨0x47100, 18, 6, .rw⟩
def GP_TGT0_INDEX_HI : Fld := ⟨0x47100, 24, 4, .rw⟩
def GP_TGT0_DIE : Fld := ⟨0x47100, 28, 3, .rw⟩
/-- GP_TGT1, die-window offset 0x47180 + 4 × i, i = 0 to 31 (chapter 19). -/
def oGP_TGT1 : Nat := 0x47180
def GP_TGT1_EN : Fld := ⟨0x47180, 0, 1, .rw⟩
def GP_TGT1_DIR : Fld := ⟨0x47180, 1, 1, .rw⟩
def GP_TGT1_WALL : Fld := ⟨0x47180, 2, 4, .rw⟩
def GP_TGT1_COURSE : Fld := ⟨0x47180, 6, 4, .rw⟩
def GP_TGT1_BED : Fld := ⟨0x47180, 10, 4, .rw⟩
def GP_TGT1_LINE : Fld := ⟨0x47180, 14, 4, .rw⟩
def GP_TGT1_BIT : Fld := ⟨0x47180, 18, 6, .rw⟩
def GP_TGT1_INDEX_HI : Fld := ⟨0x47180, 24, 4, .rw⟩
def GP_TGT1_DIE : Fld := ⟨0x47180, 28, 3, .rw⟩
/-- GP_IN, die-window offset 0x47080 (chapter 19). -/
def oGP_IN : Nat := 0x47080
def GP_IN_LEVEL : Fld := ⟨0x47080, 0, 32, .ro⟩
/-- GP_OUT, die-window offset 0x47084 (chapter 19). -/
def oGP_OUT : Nat := 0x47084
def GP_OUT_VALUE : Fld := ⟨0x47084, 0, 32, .rw⟩
/-- GP_OUT_SET, die-window offset 0x47088 (chapter 19). -/
def oGP_OUT_SET : Nat := 0x47088
def GP_OUT_SET_VALUE : Fld := ⟨0x47088, 0, 32, .wo⟩
/-- GP_OUT_CLR, die-window offset 0x4708C (chapter 19). -/
def oGP_OUT_CLR : Nat := 0x4708C
def GP_OUT_CLR_VALUE : Fld := ⟨0x4708C, 0, 32, .wo⟩
/-- GP_OUT_TGL, die-window offset 0x47090 (chapter 19). -/
def oGP_OUT_TGL : Nat := 0x47090
def GP_OUT_TGL_VALUE : Fld := ⟨0x47090, 0, 32, .wo⟩
/-- GP_OE, die-window offset 0x47094 (chapter 19). -/
def oGP_OE : Nat := 0x47094
def GP_OE_OE : Fld := ⟨0x47094, 0, 32, .rw⟩
/-- GP_INT_STATUS, die-window offset 0x47098 (chapter 19). -/
def oGP_INT_STATUS : Nat := 0x47098
def GP_INT_STATUS_PENDING : Fld := ⟨0x47098, 0, 32, .w1c⟩
/-- GP_BANK, die-window offset 0x4709C (chapter 19). -/
def oGP_BANK : Nat := 0x4709C
def GP_BANK_RELEASE : Fld := ⟨0x4709C, 0, 1, .wo⟩
def GP_BANK_HELD : Fld := ⟨0x4709C, 1, 1, .ro⟩
def GP_BANK_VDDIO_OK : Fld := ⟨0x4709C, 2, 1, .ro⟩
def GP_BANK_VDDIO_33 : Fld := ⟨0x4709C, 3, 1, .ro⟩
def GP_BANK_RESULT : Fld := ⟨0x4709C, 4, 2, .ro⟩
def GP_BANK_TGT_LOST : Fld := ⟨0x4709C, 6, 1, .w1c⟩
/-- PERIPH_EN, device offset 0x0D00 (chapter 19). -/
def oPERIPH_EN : Nat := 0xD00
def PERIPH_EN_UART : Fld := ⟨0xD00, 0, 2, .rw⟩
def PERIPH_EN_I2C : Fld := ⟨0xD00, 2, 4, .rw⟩
def PERIPH_EN_SPI : Fld := ⟨0xD00, 6, 4, .rw⟩
def PERIPH_EN_TRIGIN : Fld := ⟨0xD00, 10, 1, .rw⟩
def PERIPH_EN_TRIGOUT : Fld := ⟨0xD00, 11, 1, .rw⟩
def PERIPH_EN_PPS_ALT : Fld := ⟨0xD00, 12, 1, .rw⟩
/-- PIN_STATUS, device offset 0x0D04 (chapter 19). -/
def oPIN_STATUS : Nat := 0xD04
def PIN_STATUS_PIN_CONFLICT : Fld := ⟨0xD04, 0, 1, .w1c⟩
def PIN_STATUS_CONFLICT_SIG : Fld := ⟨0xD04, 1, 7, .ro⟩
/-- ROUTE_SEL, device offset 0x0D08 (chapter 19). -/
def oROUTE_SEL : Nat := 0xD08
def ROUTE_SEL_ENTRY : Fld := ⟨0xD08, 0, 7, .rw⟩
/-- ROUTE_DATA, device offset 0x0D0C (chapter 19). -/
def oROUTE_DATA : Nat := 0xD0C
def ROUTE_DATA_SIGNAL : Fld := ⟨0xD0C, 0, 7, .rw⟩
def ROUTE_DATA_PIN : Fld := ⟨0xD0C, 7, 8, .rw⟩
def ROUTE_DATA_EN : Fld := ⟨0xD0C, 15, 1, .rw⟩
def ROUTE_DATA_WON : Fld := ⟨0xD0C, 16, 1, .ro⟩
def ROUTE_DATA_CONFLICT : Fld := ⟨0xD0C, 17, 1, .ro⟩
/-- PERIPH_ERR, device offset 0x0D10 (chapter 19). -/
def oPERIPH_ERR : Nat := 0xD10
def PERIPH_ERR_UART0_DROP : Fld := ⟨0xD10, 0, 8, .rc⟩
def PERIPH_ERR_UART1_DROP : Fld := ⟨0xD10, 8, 8, .rc⟩
/-- PERIPH_CFG, device offset 0x0D40 + 4 × i, i = 0 to 9 (chapter 19). -/
def oPERIPH_CFG : Nat := 0xD40
def PERIPH_CFG_TXQ : Fld := ⟨0xD40, 0, 7, .rw⟩
def PERIPH_CFG_RXQ : Fld := ⟨0xD40, 7, 7, .rw⟩
def PERIPH_CFG_DIV : Fld := ⟨0xD40, 14, 16, .rw⟩
def PERIPH_CFG_MODE : Fld := ⟨0xD40, 30, 2, .rw⟩
/-- PART_STATUS, partition offset 0x0000 (chapter 20). -/
def oPART_STATUS : Nat := 0x0
def PART_STATUS_STATE : Fld := ⟨0x0, 0, 3, .ro⟩
def PART_STATUS_PID : Fld := ⟨0x0, 8, 8, .ro⟩
def PART_STATUS_DEPTH : Fld := ⟨0x0, 16, 10, .ro⟩
/-- PART_CMD, partition offset 0x0004 (chapter 20). -/
def oPART_CMD : Nat := 0x4
def PART_CMD_CMD : Fld := ⟨0x4, 0, 2, .wo⟩
def PART_CMD_RESULT : Fld := ⟨0x4, 2, 4, .ro⟩
/-- PART_CYCLE_LO, partition offset 0x0008 (chapter 20). -/
def oPART_CYCLE_LO : Nat := 0x8
def PART_CYCLE_LO_CYCLE : Fld := ⟨0x8, 0, 32, .ro⟩
/-- PART_CYCLE_HI, partition offset 0x000C (chapter 20). -/
def oPART_CYCLE_HI : Nat := 0xC
def PART_CYCLE_HI_CYCLE : Fld := ⟨0xC, 0, 32, .ro⟩
/-- PART_IMAGE_ID_LO, partition offset 0x0010 (chapter 20). -/
def oPART_IMAGE_ID_LO : Nat := 0x10
def PART_IMAGE_ID_LO_ID : Fld := ⟨0x10, 0, 32, .ro⟩
/-- PART_IMAGE_ID_HI, partition offset 0x0014 (chapter 20). -/
def oPART_IMAGE_ID_HI : Nat := 0x14
def PART_IMAGE_ID_HI_ID : Fld := ⟨0x14, 0, 32, .ro⟩
/-- CFGTX, partition offset 0x0020 (chapter 20). -/
def oCFGTX : Nat := 0x20
def CFGTX_BEGIN : Fld := ⟨0x20, 0, 1, .wo⟩
def CFGTX_COMMIT : Fld := ⟨0x20, 1, 1, .wo⟩
def CFGTX_ABORT : Fld := ⟨0x20, 2, 1, .wo⟩
def CFGTX_STATE : Fld := ⟨0x20, 3, 2, .ro⟩
def CFGTX_COUNT : Fld := ⟨0x20, 5, 9, .ro⟩
def CFGTX_OVERFLOW : Fld := ⟨0x20, 14, 1, .ro⟩
def CFGTX_RESULT : Fld := ⟨0x20, 15, 4, .ro⟩
/-- DEV_CFGTX, device offset 0x0E40 (chapter 20). -/
def oDEV_CFGTX : Nat := 0xE40
def DEV_CFGTX_BEGIN : Fld := ⟨0xE40, 0, 1, .wo⟩
def DEV_CFGTX_COMMIT : Fld := ⟨0xE40, 1, 1, .wo⟩
def DEV_CFGTX_ABORT : Fld := ⟨0xE40, 2, 1, .wo⟩
def DEV_CFGTX_STATE : Fld := ⟨0xE40, 3, 2, .ro⟩
def DEV_CFGTX_COUNT : Fld := ⟨0xE40, 5, 9, .ro⟩
def DEV_CFGTX_OVERFLOW : Fld := ⟨0xE40, 14, 1, .ro⟩
def DEV_CFGTX_RESULT : Fld := ⟨0xE40, 15, 4, .ro⟩
/-- ESEQ_RELOAD, partition offset 0x0024 (chapter 20). -/
def oESEQ_RELOAD : Nat := 0x24
def ESEQ_RELOAD_LEN : Fld := ⟨0x24, 0, 13, .rwt⟩
def ESEQ_RELOAD_START : Fld := ⟨0x24, 13, 12, .rwt⟩
def ESEQ_RELOAD_GO : Fld := ⟨0x24, 31, 1, .rwt⟩
/-- ESEQ_SEL, partition offset 0x0028 (chapter 20). -/
def oESEQ_SEL : Nat := 0x28
def ESEQ_SEL_ENTRY : Fld := ⟨0x28, 0, 12, .rw⟩
def ESEQ_SEL_AUTOINC : Fld := ⟨0x28, 12, 1, .rw⟩
/-- ESEQ_DATA_LO, partition offset 0x002C (chapter 20). -/
def oESEQ_DATA_LO : Nat := 0x2C
def ESEQ_DATA_LO_ES : Fld := ⟨0x2C, 0, 32, .rw⟩
/-- ESEQ_DATA_HI, partition offset 0x0030 (chapter 20). -/
def oESEQ_DATA_HI : Nat := 0x30
def ESEQ_DATA_HI_ES : Fld := ⟨0x30, 0, 32, .rw⟩
/-- EVT_SEL, device offset 0x1000 (chapter 20). -/
def oEVT_SEL : Nat := 0x1000
def EVT_SEL_SOURCE : Fld := ⟨0x1000, 0, 11, .rw⟩
def EVT_SEL_RESULT : Fld := ⟨0x1000, 11, 2, .ro⟩
/-- EVT_INFO, device offset 0x1004 (chapter 20). -/
def oEVT_INFO : Nat := 0x1004
def EVT_INFO_OWNER : Fld := ⟨0x1004, 0, 8, .rw⟩
def EVT_INFO_OWNED : Fld := ⟨0x1004, 8, 1, .rw⟩
/-- EVT_ROUTE_FLAG, device offset 0x1008 (chapter 20). -/
def oEVT_ROUTE_FLAG : Nat := 0x1008
def EVT_ROUTE_FLAG_EN : Fld := ⟨0x1008, 0, 1, .rwt⟩
def EVT_ROUTE_FLAG_DIE : Fld := ⟨0x1008, 1, 3, .rwt⟩
def EVT_ROUTE_FLAG_TASK : Fld := ⟨0x1008, 4, 9, .rwt⟩
def EVT_ROUTE_FLAG_FLAG : Fld := ⟨0x1008, 13, 5, .rwt⟩
/-- EVT_ROUTE_VEC, device offset 0x100C (chapter 20). -/
def oEVT_ROUTE_VEC : Nat := 0x100C
def EVT_ROUTE_VEC_EN : Fld := ⟨0x100C, 0, 1, .rwt⟩
def EVT_ROUTE_VEC_FUNC : Fld := ⟨0x100C, 1, 6, .rwt⟩
def EVT_ROUTE_VEC_VECTOR : Fld := ⟨0x100C, 7, 10, .rwt⟩
/-- EVT_SW, device offset 0x1010 (chapter 20). -/
def oEVT_SW : Nat := 0x1010
def EVT_SW_INDEX : Fld := ⟨0x1010, 0, 6, .wo⟩
/-- EVT_DROP, device offset 0x1014 (chapter 20). -/
def oEVT_DROP : Nat := 0x1014
def EVT_DROP_DROPS : Fld := ⟨0x1014, 0, 16, .rc⟩
/-- EVT_STATUS, device offset 0x1100 + 4 × i, i = 0 to 47 (chapter 20). -/
def oEVT_STATUS : Nat := 0x1100
def EVT_STATUS_RAISED : Fld := ⟨0x1100, 0, 32, .w1c⟩
/-- HOST_ID, device offset 0x0E00 (chapter 20). -/
def oHOST_ID : Nat := 0xE00
def HOST_ID_FUNC : Fld := ⟨0xE00, 0, 6, .ro⟩
def HOST_ID_PID : Fld := ⟨0xE00, 6, 8, .ro⟩
def HOST_ID_LOADED : Fld := ⟨0xE00, 14, 1, .ro⟩
def HOST_ID_SLOT : Fld := ⟨0xE00, 15, 5, .ro⟩
/-- HOST_BAR2_CFG, device offset 0x0E04 (chapter 20). -/
def oHOST_BAR2_CFG : Nat := 0xE04
def HOST_BAR2_CFG_MODE : Fld := ⟨0xE04, 0, 2, .rw⟩
def HOST_BAR2_CFG_DEVICE : Fld := ⟨0xE04, 2, 12, .rw⟩
def HOST_BAR2_CFG_PID : Fld := ⟨0xE04, 14, 8, .rw⟩
/-- HOST_BAR2_DMBASE, device offset 0x0E08 (chapter 20). -/
def oHOST_BAR2_DMBASE : Nat := 0xE08
def HOST_BAR2_DMBASE_BASE : Fld := ⟨0xE08, 0, 13, .rw⟩
/-- HOST_ERR, device offset 0x0E0C (chapter 20). -/
def oHOST_ERR : Nat := 0xE0C
def HOST_ERR_DENIED : Fld := ⟨0xE0C, 0, 8, .rc⟩
def HOST_ERR_UE : Fld := ⟨0xE0C, 8, 8, .rc⟩
def HOST_ERR_ABORT : Fld := ⟨0xE0C, 16, 8, .rc⟩
def HOST_ERR_OTHER : Fld := ⟨0xE0C, 24, 8, .rc⟩
/-- HOST_ERR_ADDR_LO, device offset 0x0E10 (chapter 20). -/
def oHOST_ERR_ADDR_LO : Nat := 0xE10
def HOST_ERR_ADDR_LO_VALUE : Fld := ⟨0xE10, 0, 32, .ro⟩
/-- HOST_ERR_ADDR_HI, device offset 0x0E14 (chapter 20). -/
def oHOST_ERR_ADDR_HI : Nat := 0xE14
def HOST_ERR_ADDR_HI_VALUE : Fld := ⟨0xE14, 0, 32, .ro⟩

def dieFlds0 : List Fld := [
  BED_ACC_LOC_BED, BED_ACC_LOC_COURSE, BED_ACC_LOC_WALL, BED_ACC_LOC_CELL, BED_ACC_LOC_STORE, 
  BED_ACC_INDEX_INDEX, BED_ACC_INDEX_BANK, BED_ACC_CMD_GO, BED_ACC_CMD_WRITE, BED_ACC_CMD_SETPRES, 
  BED_ACC_CMD_CLRPRES, BED_ACC_STATUS_BUSYACC, BED_ACC_STATUS_RESULT, BED_ACC_DATA_DATA, BED_ACC_PRES_PRES, 
  STORE_CE_COUNT_IMEM_CE, STORE_CE_COUNT_DATA_CE, WU_ACC_LOC_BED, WU_ACC_LOC_COURSE, WU_ACC_LOC_WALL, 
  WU_ACC_LOC_INDEX, WU_ACC_CMD_GO, WU_ACC_CMD_WRITE, WU_ACC_STATUS_BUSYACC, WU_ACC_STATUS_RESULT, 
  WU_ACC_DATA0_DATA, WU_ACC_DATA1_DATA, MORTAR_ACC_LOC_LANE, MORTAR_ACC_LOC_BED, MORTAR_ACC_LOC_COURSE, 
  MORTAR_ACC_LOC_WALL, MORTAR_ACC_LOC_TABLE, MORTAR_ACC_LOC_TABLE_CFG, MORTAR_ACC_INDEX_STEP, 
  MORTAR_ACC_CMD_GO, MORTAR_ACC_CMD_WRITE, MORTAR_ACC_STATUS_BUSYACC, MORTAR_ACC_STATUS_RESULT, 
  MORTAR_ACC_DATA_DATA, MORTAR_DISCARD_COUNT_FRAME_DROP]

def dieFlds1 : List Fld := [
  MORTAR_DISCARD_COUNT_LAND_CONFLICT, BAY_ECC_COUNT_CE, BAY_ECC_COUNT_UE, NEWT_CTRL_EN, NEWT_CTRL_IDLE_SCRUB, 
  NEWT_CTRL_CELL_REPAIR, NEWT_CTRL_UNPIN, NEWT_CTRL_INTERVAL_MS, NEWT_CTRL_LOG_QUEUE, NEWT_STATUS_PHASE, 
  NEWT_STATUS_KIND, NEWT_STATUS_WALL, NEWT_STATUS_UNIT, NEWT_STATUS_PINNED, NEWT_STATUS_REPAIRS, NEWT_REQ_GO, 
  NEWT_REQ_KIND, NEWT_REQ_WALL, NEWT_REQ_REGION, NEWT_REQ_RESULT, MEM_TC_INV_PAGE_PAGE, MEM_TC_INV_PAGE_ALL, 
  MEM_TC_INV_CMD_PID, MEM_TC_INV_CMD_GO, MEM_TC_INV_CMD_DONE, MME_FENCE_PID, MME_FENCE_GO, MME_FENCE_DONE, 
  PORTAL_STATUS_PENDING, PORTAL_STATUS_BADQ, PORTAL_STATUS_QUEUE, PORTAL_OUT_RECORDS, PORTAL_OUT_EPOCH, 
  PORTAL_STALE_STALE_RSP, PORTAL_STALE_LAST_REASON, PORTAL_CALLS_MESSAGES, CORE_BIND_PID, CORE_BIND_BOUND, 
  CORE_BIND_POOL, CORE_BIND_PENDING]

def dieFlds2 : List Fld := [
  CORE_BIND_RUN, CORE_BIND_IDLE, CORE_BIND_CORE_RESET, CORE_BIND_TASK, CORE_BUSY_LO_TICKS, CORE_BUSY_HI_TICKS, 
  CORE_IDLE_LO_TICKS, CORE_IDLE_HI_TICKS, DISP_STATUS_READY, DISP_STATUS_RUNNING, DISP_STATUS_WAITING, 
  DISP_FLAG_SET_TASK, DISP_FLAG_SET_FLAG, DISP_FLAG_SET_CLEAR, DISP_TASK_SEL_TASK, DISP_TASK_SEL_HCLR, 
  DISP_XPART_DROP_DROPS, TASK_CFG_EN, TASK_CFG_PRIO, TASK_CFG_POOL, TASK_CFG_PID, TASK_CFG_NOPID, 
  TASK_WAIT_MASK, TASK_TIMEOUT_TIMEOUT_US, TASK_TIMEOUT_MODE, TASK_ARG_LO_ARG, TASK_ARG_HI_ARG, 
  TASK_STATE_STATE, TASK_STATE_CORE, TASK_STATE_LAST_TIMEOUT, TASK_STATE_DISPATCHES, TASK_HIST_BIN_LO, 
  TASK_HIST_BIN_HI, TASK_WAITMAX_TICKS, TASK_FLAGS_FLAGS, QUEUE_DIE_STATUS_REC_DROP, QUEUE_DIE_STATUS_CE, 
  QUEUE_DIE_STATUS_UE, PROBE_WORD_CFG_WIDTH_M1, PROBE_WORD_CFG_OWNER]

def dieFlds3 : List Fld := [
  PROBE_WORD_CFG_OWNED, PROBE_MAP_SEL_WORD, PROBE_MAP_SEL_SLOT, PROBE_MAP_SEL_AUTOINC, PROBE_MAP_SEL_RESULT, 
  PROBE_MAP_DATA_CELL, PROBE_MAP_DATA_BED, PROBE_MAP_DATA_COURSE, PROBE_MAP_DATA_WALL, PROBE_MAP_DATA_EN, 
  CN_ROUTE_LOC_NI, CN_ROUTE_LOC_ENTRY, CN_ROUTE_MATCH_BASE, CN_ROUTE_MATCH_SPACE, CN_ROUTE_MATCH_REMOTE, 
  CN_ROUTE_MATCH_VALID, CN_ROUTE_MASK_MASK, CN_ROUTE_PATH_PORTS, CN_ROUTE_PATH_HOPS, CN_ROUTE_CMD_GO, 
  CN_ROUTE_CMD_WRITE, CN_ROUTE_CMD_RESULT, CN_TIMEOUT_LOCAL_10NS, CN_TIMEOUT_BRIDGED_US, CN_ERR_TIMEOUTS, 
  CN_ERR_LATE_RSP, CN_ERR_NO_ROUTE, CN_ERR_BRIDGE_DROP, CN_ERR_ADDR_LO_VALUE, CN_ERR_ADDR_HI_VALUE, 
  HBM_CFG_MAP, HBM_CFG_RATE, HBM_CFG_ZERO_FILL, HBM_CFG_RETRAIN_MS, HBM_CFG_SCRUB_H, HBM_RETAIN_PC, 
  HBM_STATUS_TRAINED, HBM_STATUS_DEGRADED, HBM_STATUS_FILLING, HBM_STATUS_HOT]

def dieFlds4 : List Fld := [
  HBM_STATUS_RETRAINING, HBM_STATUS_TEMP_C, HBM_STATUS_LAST_PC, HBM_STATUS_REPAIRS, HBM_ECC_COUNT_CE, 
  HBM_ECC_COUNT_UE, HBM_ERR_ADDR_LO_VALUE, HBM_ERR_ADDR_HI_VALUE, HBM_OWN_SEL_GRANULE, HBM_OWN_SEL_AUTOINC, 
  HBM_OWN_SEL_RESULT, HBM_OWN_DATA_PID, HBM_OWN_DATA_OWNED, GP_CFG_PULL, GP_CFG_SLEW, GP_CFG_INT_MODE, 
  GP_CFG_WAKE, GP_TGT0_EN, GP_TGT0_DIR, GP_TGT0_WALL, GP_TGT0_COURSE, GP_TGT0_BED, GP_TGT0_LINE, GP_TGT0_BIT, 
  GP_TGT0_INDEX_HI, GP_TGT0_DIE, GP_TGT1_EN, GP_TGT1_DIR, GP_TGT1_WALL, GP_TGT1_COURSE, GP_TGT1_BED, 
  GP_TGT1_LINE, GP_TGT1_BIT, GP_TGT1_INDEX_HI, GP_TGT1_DIE, GP_IN_LEVEL, GP_OUT_VALUE, GP_OUT_SET_VALUE, 
  GP_OUT_CLR_VALUE, GP_OUT_TGL_VALUE]

def dieFlds5 : List Fld := [
  GP_OE_OE, GP_INT_STATUS_PENDING, GP_BANK_RELEASE, GP_BANK_HELD, GP_BANK_VDDIO_OK, GP_BANK_VDDIO_33, 
  GP_BANK_RESULT, GP_BANK_TGT_LOST]

/-- Every field of a register of the die block. -/
def dieFlds : List Fld := dieFlds0 ++ dieFlds1 ++ dieFlds2 ++ dieFlds3 ++ dieFlds4 ++ dieFlds5

def partFlds0 : List Fld := [
  HOLD_STATUS_HELD, HOLD_STATUS_LOCAL, HOLD_STATUS_REMOTE, HOLD_STATUS_GATE_WAITING, HOLD_STATUS_CAUSE, 
  HOLD_STATUS_SEVERED, HOLD_STATUS_CAUSE_MASK, HOLD_STATUS_PID, HOLD_ITEM_LOC_DIE, HOLD_ITEM_LOC_WALL, 
  HOLD_ITEM_LOC_COURSE, HOLD_ITEM_LOC_BED, HOLD_ITEM_LOC_CELL, HOLD_ITEM_LOC_KIND, HOLD_ITEM_LOC_STEP, 
  HOLD_ITEM_LOC_VALID, HOLD_ITEM_IDX_LANDSTEP, HOLD_ITEM_IDX_LANE_LINE, HOLD_ITEM_IDX_BANK, HOLD_CTRL_SWHOLD, 
  HOLD_LIMIT_LIMIT_US, HOLD_TIME_LO_TICKS, HOLD_TIME_HI_TICKS, GATE_WAIT_LO_TICKS, GATE_WAIT_HI_TICKS, 
  HOLD_COUNT_COUNT, GATE_SPAN_SPAN_NS, PLUMB_CFG_MODE, PLUMB_CFG_CHANNEL, SEVER_INFO_LOST_ADDR, 
  SEVER_INFO_REASON, SEVER_INFO_PORT, SEVER_INFO_RELAYED, SEVER_INFO_DETECTOR, FAULT_CFG_STOP_IMMEDIATE, 
  FAULT_CFG_ASSERT_STOP, FAULT_CFG_HAZ_STOP, FAULT_CFG_LOG_DIE, FAULT_CFG_LOG_QUEUE, FAULT_STATUS_FIRST_CODE]

def partFlds1 : List Fld := [
  FAULT_STATUS_VALID, FAULT_STATUS_IMMEDIATE, FAULT_STATUS_STOP_STEP, FAULT_STATUS_FIRST_FROM, 
  FAULT_COUNT_RECORDS, FAULT_COUNT_SUPPRESSED, MEM_MAP_BASE_BASE, MEM_MAP_BASE_VALID, MEM_PS_CFG_DIE, 
  MEM_PS_CFG_QUEUE, MEM_PS_CFG_PARK_MIB, MEM_PARK_BASE_BASE, MEM_PS_DONE_PAGE, MEM_PS_DONE_FAIL, REC_CFG_MODE, 
  REC_CFG_PERIOD_LOG2, REC_CFG_START_SRC, REC_CFG_STOP_SRC, REC_POST_POST_CYCLES, REC_CTRL_CMD, REC_CTRL_STATE, 
  REC_CTRL_REFUSED, REC_CTRL_RESULT, REC_REGION_BASE, REC_REGION_SIZE, REC_REGION_VALID, REC_HEAD_LO_OFFSET, 
  REC_HEAD_HI_OFFSET, REC_TAIL_LO_OFFSET, REC_TAIL_HI_OFFSET, REC_SNAP_LO_OFFSET, REC_SNAP_HI_OFFSET, 
  REC_SNAP_CYC_LO_CYCLE, REC_SNAP_CYC_HI_CYCLE, REC_STATUS_SNAPPING, REC_STATUS_CARRY_OPEN, REC_STATUS_FULL, 
  REC_STATUS_BACKLOG, REC_STATUS_REPLAYING, REC_STATUS_REPLAY_END]

def partFlds2 : List Fld := [
  REC_STATUS_DUMPING, REC_LOSS_SEG_LOST, REC_LOSS_SNAP_SKIP, REC_REPLAY_REPLAY, REC_REPLAY_LIVE_LINKS, 
  REC_REPLAY_DUMP, REC_REPLAY_SRC_SLOT, REC_POS_LO_OFFSET, REC_POS_HI_OFFSET, REC_DUMP_FROM_LO_CYCLE, 
  REC_DUMP_FROM_HI_CYCLE, REC_DUMP_TO_LO_CYCLE, REC_DUMP_TO_HI_CYCLE, METER_CYCLES_LO_VALUE, 
  METER_CYCLES_HI_VALUE, METER_CELL_STEPS_LO_VALUE, METER_CELL_STEPS_HI_VALUE, METER_HOLD_NS_LO_VALUE, 
  METER_HOLD_NS_HI_VALUE, METER_REC_BYTES_LO_VALUE, METER_REC_BYTES_HI_VALUE, PART_RESET_GO, PART_STATUS_STATE, 
  PART_STATUS_PID, PART_STATUS_DEPTH, PART_CMD_CMD, PART_CMD_RESULT, PART_CYCLE_LO_CYCLE, PART_CYCLE_HI_CYCLE, 
  PART_IMAGE_ID_LO_ID, PART_IMAGE_ID_HI_ID, CFGTX_BEGIN, CFGTX_COMMIT, CFGTX_ABORT, CFGTX_STATE, CFGTX_COUNT, 
  CFGTX_OVERFLOW, CFGTX_RESULT, ESEQ_RELOAD_LEN, ESEQ_RELOAD_START]

def partFlds3 : List Fld := [
  ESEQ_RELOAD_GO, ESEQ_SEL_ENTRY, ESEQ_SEL_AUTOINC, ESEQ_DATA_LO_ES, ESEQ_DATA_HI_ES]

/-- Every field of a register of the part block. -/
def partFlds : List Fld := partFlds0 ++ partFlds1 ++ partFlds2 ++ partFlds3

def devFlds0 : List Fld := [
  PLUMB_BUS_STATUS_BUS_POS, PLUMB_BUS_STATUS_LEAD, PLUMB_BUS_STATUS_SYNC_LOCK, PLUMB_BUS_STATUS_PRESENT, 
  DEBUG_CTRL_DEBUG, DEBUG_CTRL_REFUSED, DEBUG_CTRL_ACTIVE, DEV_FAULT_CFG_LOG_DIE, DEV_FAULT_CFG_LOG_QUEUE, 
  IMAGE_LOAD_STATUS_RESULT, IMAGE_LOAD_STATUS_SLOT, CHAIN_STATUS_ADDR, CHAIN_STATUS_ADDR_VALID, 
  CHAIN_STATUS_KEYSTONE, CHAIN_STATUS_EPOCH, CHAIN_STATUS_ESTATE, CHAIN_STATUS_NOBUS, ENUM_CTRL_START, 
  ENUM_CTRL_TIMEOUT_MS, ENUM_STATUS_KSTATE, ENUM_STATUS_RESULT, ENUM_STATUS_RESTARTS, ENUM_STATUS_COUNT, 
  CHAIN_TREE_PARENT, CHAIN_TREE_ROOT, CHAIN_TREE_VALID, CHAIN_TREE_DEPTH, CHAIN_TREE_CHILDREN, 
  TOPO_EVENT_CHANGED, LINK_POLL_PRESENCE_POLL_MS, BOOT_STATUS_STAGE, BOOT_STATUS_RESULT, BOOT_STATUS_BOOT_SLOT, 
  BOOT_STATUS_IMG_SLOT, BOOT_STATUS_BOOT_TRIAL, BOOT_STATUS_IMG_TRIAL, BOOT_STATUS_REVERTED, 
  BOOT_STATUS_FALLBACK, BOOT_STATUS_RECOVERED, BOOT_STATUS_DONE_IN]

def devFlds1 : List Fld := [
  BOOT_STATUS_CONFIGURED, SEC_STATUS_LC, SEC_STATUS_LC_COMPLETED, SEC_STATUS_FUSE_KEK_OK, 
  SEC_STATUS_KEYRAM_VALID, SEC_STATUS_VBAT_PRESENT, SEC_STATUS_JTAG_OPEN, SEC_STATUS_REVOKED, 
  SVN_STATUS_BOOT_SVN, SVN_STATUS_IMAGE_SVN, SVN_STATUS_RUN_BOOT_SVN, SVN_STATUS_RUN_IMAGE_SVN, 
  UPDATE_CTRL_CMD, UPDATE_CTRL_TARGET, UPDATE_CTRL_SLOT, UPDATE_CTRL_BUSY, UPDATE_CTRL_RESULT, 
  UPDATE_CTRL_CHECK, LOAD_BASE_LO_ADDR, LOAD_BASE_HI_ADDR, LOAD_CTRL_GO, LOAD_CTRL_BUSY, LOAD_CTRL_RESULT, 
  RECOVERY_CTRL_GO, RECOVERY_CTRL_BUSY, RECOVERY_CTRL_RESULT, TAMPER_CFG_EN, TAMPER_CFG_PIN_POL, 
  TAMPER_STATUS_SEEN, TAMPER_STATUS_LIVE, TAMPER_STATUS_OFF_EVENT, LOCK_VIOLATION_COUNT, 
  LOCK_VIOLATION_ADDR_OFFSET, SEC_LOCK_JTAG_LOCK, SEC_LOCK_UPDATE_LOCK, SEC_LOCK_LC_LOCK, LC_CTRL_TARGET, 
  LC_CTRL_GO, LC_CTRL_RESULT, LC_CTRL_BUSY]

def devFlds2 : List Fld := [
  KEYRAM_DATA_KEY, KEYRAM_CTRL_LOAD, KEYRAM_CTRL_WIPE, KEYRAM_KCV_KCV, TIME_NS_LO_VALUE, TIME_NS_HI_VALUE, 
  TIME_FRAC_VALUE, TIME_INC_LO_VALUE, TIME_INC_HI_VALUE, TIME_SET_LO_VALUE, TIME_SET_HI_VALUE, 
  PPS_SEC_LO_VALUE, PPS_SEC_HI_VALUE, TIME_CTRL_PPS_EN, TIME_CTRL_PPS_SRC, TIME_CTRL_MASTER, 
  TIME_CTRL_MSG_EXPECT, TIME_CTRL_SYNCED, TIME_CTRL_TIME_GUARD_US, TIME_STATUS_HOLDOVER, TIME_STATUS_UNSYNCED, 
  TIME_STATUS_SLEPT, TIME_STATUS_RC, TIME_STATUS_CONFLICT, TIME_STATUS_RESYNC, TIME_STATUS_PPS_BAD, 
  TIME_STATUS_PPS_MISSED, PPS_PERIOD_NS, TIME_MSG_LO_VALUE, TIME_MSG_HI_VALUE, MONO_NS_LO_VALUE, 
  MONO_NS_HI_VALUE, TL_SEL_VALUE, TL_TIME_LO_VALUE, TL_TIME_HI_VALUE, TL_CFG_ACTION, TL_CFG_NOPID, TL_CFG_PID, 
  TL_CFG_TAG, TL_CFG_MEMBERS_M1]

def devFlds3 : List Fld := [
  TL_CFG_CMD, TL_STATUS_STATE, TL_STATUS_RESULT, METER_CFG_EPOCH_S, METER_CFG_LOG_QUEUE, METER_CFG_EXPORT, 
  PL_CTRL_TARGET, PL_CTRL_GO, PL_CTRL_BUSY, PL_CTRL_RESULT, PL_CTRL_VOLT_DONE, PL_STATUS_LEVEL, 
  PL_STATUS_PENDING, PL_STATUS_VOLT_REQ, PL_STATUS_VOLT_MV, PWR_CTRL_CMD, PWR_CTRL_SAVE_EN, PWR_CTRL_BUSY, 
  PWR_CTRL_RESULT, PWR_CTRL_DRAIN_US, PWR_STATUS_STATE, PWR_STATUS_PHASE, PWR_STATUS_REFCLK_LOST, 
  PWR_STATUS_RESTORING, PWR_STATUS_DOMAIN_REFUSED, DOMAIN_CTRL_DIE0, DOMAIN_CTRL_DIE1, DOMAIN_CTRL_DIE2, 
  DOMAIN_CTRL_DIE3, DOMAIN_CTRL_DIE4, DOMAIN_CTRL_DIE5, DOMAIN_CTRL_DIE6, DOMAIN_CTRL_DIE7, DOMAIN_STATUS_DIE0, 
  DOMAIN_STATUS_DIE1, DOMAIN_STATUS_DIE2, DOMAIN_STATUS_DIE3, DOMAIN_STATUS_DIE4, DOMAIN_STATUS_DIE5, 
  DOMAIN_STATUS_DIE6]

def devFlds4 : List Fld := [
  DOMAIN_STATUS_DIE7, WAKE_CFG_PORTS, WAKE_CFG_TIMER_EN, WAKE_CFG_PCIE_EN, WAKE_CFG_PIN_EN, WAKE_CFG_NET_EN, 
  WAKE_TIME_LO_TIME, WAKE_TIME_HI_TIME, LAST_WAKE_SOURCE, LAST_WAKE_FROM, LAST_WAKE_ABORT_POINT, 
  LAST_WAKE_INDEX, SLUMBER_SAVE_OFFSET_GIB, SLUMBER_SAVE_VALID, RESET_CTRL_WARM, RESET_CAUSE_LAST, 
  PERIPH_EN_UART, PERIPH_EN_I2C, PERIPH_EN_SPI, PERIPH_EN_TRIGIN, PERIPH_EN_TRIGOUT, PERIPH_EN_PPS_ALT, 
  PIN_STATUS_PIN_CONFLICT, PIN_STATUS_CONFLICT_SIG, ROUTE_SEL_ENTRY, ROUTE_DATA_SIGNAL, ROUTE_DATA_PIN, 
  ROUTE_DATA_EN, ROUTE_DATA_WON, ROUTE_DATA_CONFLICT, PERIPH_ERR_UART0_DROP, PERIPH_ERR_UART1_DROP, 
  PERIPH_CFG_TXQ, PERIPH_CFG_RXQ, PERIPH_CFG_DIV, PERIPH_CFG_MODE, DEV_CFGTX_BEGIN, DEV_CFGTX_COMMIT, 
  DEV_CFGTX_ABORT, DEV_CFGTX_STATE]

def devFlds5 : List Fld := [
  DEV_CFGTX_COUNT, DEV_CFGTX_OVERFLOW, DEV_CFGTX_RESULT, EVT_SEL_SOURCE, EVT_SEL_RESULT, EVT_INFO_OWNER, 
  EVT_INFO_OWNED, EVT_ROUTE_FLAG_EN, EVT_ROUTE_FLAG_DIE, EVT_ROUTE_FLAG_TASK, EVT_ROUTE_FLAG_FLAG, 
  EVT_ROUTE_VEC_EN, EVT_ROUTE_VEC_FUNC, EVT_ROUTE_VEC_VECTOR, EVT_SW_INDEX, EVT_DROP_DROPS, EVT_STATUS_RAISED, 
  HOST_ID_FUNC, HOST_ID_PID, HOST_ID_LOADED, HOST_ID_SLOT, HOST_BAR2_CFG_MODE, HOST_BAR2_CFG_DEVICE, 
  HOST_BAR2_CFG_PID, HOST_BAR2_DMBASE_BASE, HOST_ERR_DENIED, HOST_ERR_UE, HOST_ERR_ABORT, HOST_ERR_OTHER, 
  HOST_ERR_ADDR_LO_VALUE, HOST_ERR_ADDR_HI_VALUE]

/-- Every field of a register of the dev block. -/
def devFlds : List Fld := devFlds0 ++ devFlds1 ++ devFlds2 ++ devFlds3 ++ devFlds4 ++ devFlds5

def queueFlds0 : List Fld := [
  QUEUE_CFG_CLASS, QUEUE_CFG_NOPID, QUEUE_CFG_OWNER, QUEUE_CFG_BASE, QUEUE_CFG_SIZE, QUEUE_CTRL_EN, 
  QUEUE_CTRL_FLUSH, QUEUE_CTRL_FLUSH_PENDING, QUEUE_CTRL_RESET, QUEUE_CTRL_ERR, QUEUE_CTRL_EV_EN, 
  QUEUE_CTRL_CFG_ERR, QUEUE_LEVEL_LEVEL, QUEUE_DEPTH_DEPTH, QUEUE_DEPTH_OPEN, QUEUE_HWM_HWM, 
  QUEUE_HWM_PTR_FAULTS, QUEUE_LOST_LOST, QUEUE_ACC_CLOSE, QUEUE_ACC_EMPTY, QUEUE_ACC_FULL, QUEUE_ACC_EOP, 
  QUEUE_ACC_DENIED, QUEUE_DATA_LO_DATA, QUEUE_DATA_HI_DATA]

/-- Every field of a register of the queue block. -/
def queueFlds : List Fld := queueFlds0

def trigFlds0 : List Fld := [
  TRIG_CFG_OWNER, TRIG_CFG_OWNED, TRIG_CFG_STOP, TRIG_CFG_OUT_EN, TRIG_CFG_OUT_PIN, TRIG_CFG_EXT_EN, 
  TRIG_CFG_EXT_IN, TRIG_CFG_LOG_EN, TRIG_CFG_LOG_QUEUE, TRIG_CMP_CFG_WORD, TRIG_CMP_CFG_KIND, 
  TRIG_CMP_CFG_SIGNED, TRIG_CMP_CFG_DIR, TRIG_OPERAND_VALUE, TRIG_SEQ_COND, TRIG_SEQ_COUNT, TRIG_SEQ_NEXT, 
  TRIG_SEQ_FIRE, TRIG_CAP_CFG_BASE, TRIG_CAP_CFG_SIZE_M1, TRIG_CAP_MASK_VALUE, TRIG_PRE_VALUE, TRIG_POST_VALUE, 
  TRIG_CTRL_CMD, TRIG_CTRL_STATE, TRIG_CTRL_SEQ, TRIG_CTRL_REFUSED, TRIG_CTRL_RESULT, TRIG_ARM_CYC_LO_CYCLE, 
  TRIG_ARM_CYC_HI_CYCLE, TRIG_LATCHED_VALUE]

/-- Every field of a register of the trig block. -/
def trigFlds : List Fld := trigFlds0

def portFlds0 : List Fld := [
  PORT_CFG_MAX_RATE, PORT_CFG_LANE_EN, PORT_STATUS_UP, PORT_STATUS_ACTIVE, PORT_STATUS_RATE, 
  PORT_STATUS_PEER_ADDR, PORT_STATUS_PEER_VALID, PORT_STATUS_PEER_PORT, PORT_STATUS_TREE, PORT_STATUS_MORTAR, 
  PORT_STATUS_LAST_REQ, PORT_STATUS_PSTATE, PORT_CMD_RATE, PORT_CMD_REQ, PORT_CMD_PSTATE, PORT_CMD_PS, 
  PORT_ERR_REPLAYS, PORT_ERR_DOWN, PORT_ERR_STREAM]

/-- Every field of a register of the port block. -/
def portFlds : List Fld := portFlds0

def laneFlds0 : List Fld := [
  LANE_CTRL_RATE, LANE_CTRL_TRAIN, LANE_FIR_PRE, LANE_FIR_MAIN, LANE_FIR_POST, LANE_RX_CTLE, LANE_RX_CTLE_AUTO, 
  LANE_RX_DFE_AUTO, LANE_RX_DFE_FREEZE, LANE_DFE_TAP, LANE_DFE_VALUE, LINK_BITSLIP_SLIP, LANE_STATUS_SIG_DET, 
  LANE_STATUS_CDR_LOCK, LANE_STATUS_HDR_LOCK, LANE_STATUS_BLK_LOCK, LANE_STATUS_CAPS_VALID, 
  LANE_STATUS_TIMEOUT, LANE_STATUS_FIR_ERR, LANE_STATUS_STATE, LANE_STATUS_RATE, LANE_STATUS_SLIPS, 
  LANE_ERR_CORRECTED, LANE_ERR_UNCORR, LANE_ERR_LOCK_LOSS, LANE_CAPS_MAX_RATE, LANE_CAPS_PORT, LANE_CAPS_LANE, 
  LANE_CAPS_KEYSTONE, LANE_CAPS_ADDR, LANE_CAPS_ADDR_VALID]

/-- Every field of a register of the lane block. -/
def laneFlds : List Fld := laneFlds0

end Reg

/-- The fields of the registers of a block. -/
def Win.flds : Win → List Fld
  | .die => Reg.dieFlds
  | .part => Reg.partFlds
  | .dev => Reg.devFlds
  | .queue => Reg.queueFlds
  | .trig => Reg.trigFlds
  | .port => Reg.portFlds
  | .lane => Reg.laneFlds

/-- Registers that repeat in a block: first offset, stride, count. -/
def Win.arrays : Win → List (Nat × Nat × Nat)
  | .die => [(0x40010, 4, 4), (0x40210, 4, 4), (0x40300, 16, 16), (0x40304, 16, 16), (0x40308, 16, 16), (0x4030C, 16, 16), (0x40400, 4, 32), (0x40480, 16, 32), (0x40484, 16, 32), (0x40488, 16, 32), (0x4048C, 16, 32), (0x40728, 4, 4), (0x42C00, 4, 32), (0x47000, 4, 32), (0x47100, 4, 32), (0x47180, 4, 32)]
  | .part => []
  | .dev => [(0xA40, 4, 8), (0xD40, 4, 10), (0x1100, 4, 48)]
  | .queue => []
  | .trig => [(0x4, 4, 2), (0x10, 4, 12), (0x40, 4, 8), (0x80, 4, 8)]
  | .port => []
  | .lane => []

/-- Reset values other than 0: first offset, stride, count, value. -/
def Win.resets : Win → List (Nat × Nat × Nat × Nat)
  | .die => [(0x40104, 4, 1, 0x7E0103), (0x40204, 4, 1, 0x200), (0x40210, 4, 4, 0x200), (0x45014, 4, 1, 0xC800C8), (0x46000, 4, 1, 0x1803E808), (0x47000, 4, 32, 0x2)]
  | .part => [(0x50, 4, 1, 0xF4240), (0x80, 4, 1, 0x4), (0x100, 4, 1, 0x28)]
  | .dev => [(0x814, 4, 1, 0x7F00), (0x904, 4, 1, 0x6400), (0x914, 4, 1, 0x3E8), (0xB10, 4, 1, 0xA), (0xB24, 4, 1, 0x3200), (0xB60, 4, 1, 0xFE0E10), (0xC04, 4, 1, 0x3), (0xC08, 4, 1, 0x3E80000), (0xC14, 4, 1, 0x77777777), (0xC18, 4, 1, 0xE0000), (0xC30, 4, 1, 0x1)]
  | .queue => []
  | .trig => []
  | .port => [(0x0, 4, 1, 0x7C)]
  | .lane => [(0x4, 4, 1, 0x1000), (0x8, 4, 1, 0x60)]

/-- The LO halves of 64-bit pairs (R11): the HI half follows at offset + 4. The pair QUEUE_DATA is kept per function
(R249) and stands apart. -/
def Win.loHalves : Win → List Nat
  | .die => [Reg.oTASK_ARG_LO, Reg.oCN_ERR_ADDR_LO, Reg.oHBM_ERR_ADDR_LO, Reg.oCORE_BUSY_LO, Reg.oCORE_IDLE_LO]
  | .part => [Reg.oHOLD_TIME_LO, Reg.oGATE_WAIT_LO, Reg.oREC_HEAD_LO, Reg.oREC_TAIL_LO, Reg.oREC_SNAP_LO, Reg.oREC_SNAP_CYC_LO, Reg.oREC_POS_LO, Reg.oREC_DUMP_FROM_LO, Reg.oREC_DUMP_TO_LO, Reg.oMETER_CYCLES_LO, Reg.oMETER_CELL_STEPS_LO, Reg.oMETER_HOLD_NS_LO, Reg.oMETER_REC_BYTES_LO, Reg.oPART_CYCLE_LO, Reg.oPART_IMAGE_ID_LO, Reg.oESEQ_DATA_LO]
  | .dev => [Reg.oLOAD_BASE_LO, Reg.oTIME_NS_LO, Reg.oTIME_INC_LO, Reg.oTIME_SET_LO, Reg.oPPS_SEC_LO, Reg.oTIME_MSG_LO, Reg.oMONO_NS_LO, Reg.oTL_TIME_LO, Reg.oWAKE_TIME_LO, Reg.oHOST_ERR_ADDR_LO]
  | .queue => []
  | .trig => [Reg.oTRIG_ARM_CYC_LO, 0x10, 0x18, 0x20, 0x28, 0x30, 0x38, 0x80, 0x88, 0x90]
  | .port => []
  | .lane => []

/-- Offsets of the device window, and of the window of die `d` (R460). -/
def Off.die (d o : Nat) : Nat := 0x800000 * (d + 1) + o

/-- Partition control block of slot `k` (R464). -/
def Off.part (k o : Nat) : Nat := 0x100000 + 0x1000 * k + o

/-- Queue block of queue `q` of die `d`. -/
def Off.queue (d q o : Nat) : Nat := Off.die d (0x40800 + 0x40 * q + o)

/-- Block of trigger unit `u` of die `d`. -/
def Off.trig (d u o : Nat) : Nat := Off.die d (0x43000 + 0x100 * u + o)

/-- Block of link port `p` = 2d + j of die d. -/
def Off.port (p o : Nat) : Nat := Off.die (p / 2) (0x44000 + 0x400 * (p % 2) + o)

/-- Block of lane `l` of port `p`. -/
def Off.lane (p l o : Nat) : Nat := Off.port p (0x100 + 0x40 * l + o)

/-- Where a BAR0 offset lies: its block, which instance of the block, and the offset in it. -/
structure Place where
  win  : Win
  inst : Nat          -- slot, die, die * 128 + queue, die * 4 + unit, port, or port * 4 + lane
  off  : Nat
  deriving DecidableEq, Repr

/-- The block an offset lies in (R464); `none` where no block lies. -/
def placeOf (off : Nat) : Option Place :=
  if off < 0x100000 then some ⟨.dev, 0, off⟩
  else if off < 0x120000 then some ⟨.part, (off - 0x100000) / 0x1000, off % 0x1000⟩
  else if off < 0x800000 then none
  else if off < 0x4800000 then
    let d := off / 0x800000 - 1
    let r := off % 0x800000
    if r < 0x40800 then some ⟨.die, d, r⟩
    else if r < 0x42800 then some ⟨.queue, d * 128 + (r - 0x40800) / 0x40, (r - 0x40800) % 0x40⟩
    else if r < 0x43000 then some ⟨.die, d, r⟩
    else if r < 0x43400 then some ⟨.trig, d * 4 + (r - 0x43000) / 0x100, r % 0x100⟩
    else if r < 0x44000 then some ⟨.die, d, r⟩
    else if r < 0x44800 then
      let j := (r - 0x44000) / 0x400
      let x := (r - 0x44000) % 0x400
      if x < 0x100 then some ⟨.port, 2 * d + j, x⟩
      else if x < 0x200 then some ⟨.lane, (2 * d + j) * 4 + (x - 0x100) / 0x40, (x - 0x100) % 0x40⟩
      else none
    else some ⟨.die, d, r⟩
  else none

/-- The first instance of a repeated register, for the offset of any of its instances; and which instance. -/
def Win.first (w : Win) (off : Nat) : Nat × Nat :=
  go w.arrays off
where
  go : List (Nat × Nat × Nat) → Nat → Nat × Nat
    | [], off => (off, 0)
    | (b, st, n) :: r, off =>
      if b ≤ off ∧ off < b + st * n ∧ (off - b) % st = 0 then (b, (off - b) / st) else go r off

/-- The fields of the register at a place: none where no register lies (R10). -/
def Place.flds (p : Place) : List Fld :=
  p.win.flds.filter fun f => f.off = (p.win.first p.off).1

/-- The value that the register at `off` has after reset. -/
def regReset (off : Nat) : Nat :=
  match placeOf off with
  | none => 0
  | some p => go p.win.resets p
where
  go : List (Nat × Nat × Nat × Nat) → Place → Nat
    | [], p =>
      -- QUEUE_CFG and QUEUE_CTRL of the two log queues that firmware finds enabled (R248)
      if p.win = .queue then
        if p.off = 0 then (if p.inst % 128 = 126 then 0x7FC006 else if p.inst % 128 = 127 then 0x7FE006 else 0)
        else if p.off = 4 then (if 126 ≤ p.inst % 128 then 1 else 0)
        else 0
      else 0
    | (b, st, n, v) :: r, p =>
      if b ≤ p.off ∧ p.off < b + st * n ∧ (p.off - b) % st = 0 then v else go r p

end Sys2Proof.Machine
end

