-- ==== Sys2Proof/Machine/Sparse.lean ====
section
/-! DEFINITION. Sparse stores: lists of a key and a value in one canonical form (keys strictly rising, no pair equal
to what an unlisted key reads as). -/

namespace Sys2Proof.Machine

variable {α : Type} [DecidableEq α]

/-- The value at `k`; `d` where `k` is not listed. -/
def Sparse.get (d : α) : List (Nat × α) → Nat → α
  | [], _ => d
  | (j, v) :: r, k => if j = k then v else Sparse.get d r k

/-- List `v` at `k`, keeping the keys rising. -/
def Sparse.put : List (Nat × α) → Nat → α → List (Nat × α)
  | [], k, v => [(k, v)]
  | (j, w) :: r, k, v =>
    if k < j then (k, v) :: (j, w) :: r
    else if k = j then (k, v) :: r
    else (j, w) :: Sparse.put r k v

/-- Take every entry of `k` out of the list. -/
def Sparse.del : List (Nat × α) → Nat → List (Nat × α)
  | [], _ => []
  | (j, w) :: r, k => if j = k then Sparse.del r k else (j, w) :: Sparse.del r k

/-- Write `v` at `k`: the value an unlisted key reads as takes the entry out. -/
def Sparse.set (d : α) (m : List (Nat × α)) (k : Nat) (v : α) : List (Nat × α) :=
  if v = d then Sparse.del m k else Sparse.put m k v

/-- Keys rise strictly, all of them above `lo`. -/
def Sparse.rising : List (Nat × α) → Bool
  | [] => true
  | [_] => true
  | (j, _) :: (k, w) :: r => decide (j < k) && Sparse.rising ((k, w) :: r)

/-- The canonical form, for a store whose unlisted keys read as `d`. -/
def Sparse.wf (d : Nat → α) (m : List (Nat × α)) : Bool :=
  Sparse.rising m && m.all fun p => decide (p.2 ≠ d p.1)

end Sys2Proof.Machine
end

