-- ==== Sys2Proof/Machine/State.lean ====
section
/-! DEFINITION. The state of one Ebrok-8 (DE8-HX48), as plain data.

Everything with an address or an index (registers, stores, tables, memories, counters of a unit) stands in ONE
sparse store, `State.arr`; `Sys2Proof/Machine/Arr.lean` names each array of it with its width, its index and its rule.
Everything of varying length (bits in flight, packets, requests, symbols waiting to be sent) is a list of its own. -/

namespace Sys2Proof.Machine

/-- Faults that stop the machine. The manual gives every command an effect, a refusal code or a status, so nothing
raises a fault: a fault of the manual (R169) is a record and a stop of a partition, which are state. Safe. (log 5 DESIGN CHOICE) -/
inductive Fault where
  deriving DecidableEq, Repr

/-- Refusals by the model itself. (log 5 DESIGN CHOICE) -/
inductive Refusal where
  /-- The command has no meaning in the model yet; raised by an arm of `exec` alone. Safe. -/
  | notModelled (mnemonic : String)
  deriving DecidableEq, Repr

/-- The sparse store: pairs of a key and a value, keys strictly rising, no pair equal to what an unlisted key
reads as. -/
abbrev Store := List (Nat × Nat)

/-- A location (R7, R8); fields below `level` are 0 (R177). Levels: 0 cell, 1 bed, 2 course, 3 wall, 4 die, 5 device. -/
structure Loc where
  level : Nat
  die : Nat
  wall : Nat
  course : Nat
  bed : Nat
  cell : Nat
  deriving DecidableEq, Repr

/-- A record raised in the evaluation step that its partition performs; it is pushed when the step ends (R178). -/
structure StepRec where
  slot : Nat
  code : Nat
  loc : Loc
  cyc : Nat
  step : Nat
  action : Nat
  detail : Nat
  deriving DecidableEq, Repr

/-- A write of history row `step` of a bed that some reader cannot see yet (R50, R72, R108). -/
structure HistPend where
  bed  : Nat
  step : Nat
  mask : Nat          -- cells written
  row  : Nat
  flags : Option Nat  -- flag-history entry written with it: C, V, N, Z in bits 0 to 3
  lag  : Nat          -- 0 cell instruction, 1 word instruction, 2 multiply
  deriving DecidableEq, Repr

/-- Where a bit on the mortar stands (R110, R122, R124). -/
inductive Node where
  | courseIn (course input : Nat)
  | wallIn (wall input : Nat)
  | dieIn (die input : Nat)
  | source (die src : Nat)            -- a source of module and link send entries
  | wire (die module pos : Nat)       -- on its way into `module` of the receiving die
  | bedIn (bed lane landStep : Nat)
  | linkIn (bed lane landStep port frame : Nat)   -- a link landing on its way to another die (R129)
  deriving DecidableEq, Repr

/-- A bit in flight: at `node`, whose entry (or landing write) is performed for step `due`. `taken` lists the outputs
that have taken it. Of a link landing on its way to another die, `due` counts the SCLK periods left (R129). -/
structure FlightBit where
  slot : Nat
  par  : Nat
  node : Node
  due  : Nat
  val  : Bool
  taken : List Nat
  deriving DecidableEq, Repr

/-- A late item (R48, R490). -/
structure LateItem where
  slot : Nat
  bed  : Nat
  kind : Nat          -- 0 cell LAND, 1 cell PORT, 2 word LAND row, 3 GATHER LAND, 4 lane relay
  cell : Nat
  operand : Nat       -- 0 A, 1 B, 2 C, 3 D
  need : Nat          -- mask of the lanes (or lines) whose flags the item needs
  landStep : Nat
  bank : Nat
  step : Nat
  deriving DecidableEq, Repr

/-- A DUT request of a port unit to its wall's bay (R183). -/
structure BayReq where
  slot : Nat
  course : Nat        -- flat index of the port unit
  cyc : Nat
  step : Nat          -- issue step t
  write : Bool
  addr : Nat
  len : Nat           -- L, in bits
  data : Nat
  bed : Nat
  line : Nat
  bank : Nat
  due : Nat           -- DUEOFS * 512 + DUESTEP
  deriving DecidableEq, Repr

/-- A bay read on its way to the port store (R50: written during step t + 5). -/
structure BayRet where
  slot : Nat
  course : Nat
  cyc : Nat
  step : Nat          -- issue step t
  bed : Nat
  line : Nat
  bank : Nat
  data : Nat
  due : Nat
  deriving DecidableEq, Repr

/-- A DUT access that a bay performed in the present step, for the collision rule (R189). -/
structure BayDone where
  wall : Nat
  word : Nat
  write : Bool
  old : Nat           -- the word before the access, and its stored error
  oldErr : Nat
  deriving DecidableEq, Repr

/-- What a memory-model engine does with a request (R199 to R207). -/
inductive MmePhase where
  | fresh                       -- accepted, not yet translated
  | waitEntry                   -- waits for a free waiting-page entry (R203)
  | waitPage (page : Nat)       -- waits for the page to become resident
  | parked (page : Nat)         -- a write parked in the park area (R205)
  | ready                       -- every access translated; completes at its delivery
  | failed (sub addr : Nat)     -- completes with this sub-status (R206)
  deriving DecidableEq, Repr

/-- Kinds of memory-model request. -/
inductive MmeKind where
  | read
  | write
  | gather
  deriving DecidableEq, Repr

/-- A request accepted by a memory-model engine and not yet complete. -/
structure MmeReq where
  serial : Nat
  slot : Nat
  pid : Nat
  course : Nat
  kind : MmeKind
  tag : Nat
  hint : Nat
  addr : Nat
  len : Nat           -- in bits
  data : Nat
  bed : Nat
  line : Nat
  bank : Nat
  due : Nat
  cyc : Nat
  step : Nat
  tagged : Bool       -- its tag is outstanding for it (R80)
  done : Nat          -- gather elements completed; of a parked write, its number in park order
  acc : Nat           -- gather data assembled
  phase : MmePhase
  deriving DecidableEq, Repr

/-- A waiting page of an engine (R203). -/
structure WaitPage where
  engine : Nat        -- 4 * die + engine
  pid : Nat
  page : Nat
  write : Bool
  addr : Nat
  sent : Bool         -- its page-service message has been written
  deriving DecidableEq, Repr

/-- An entry of a translation cache (R201). -/
structure TcEntry where
  engine : Nat
  pid : Nat
  page : Nat
  entry : Nat
  deriving DecidableEq, Repr

/-- A record of an outstanding CALLR (R221). -/
structure PortalRec where
  course : Nat
  tag : Nat
  callId : Nat
  gen : Nat
  epoch : Nat
  bed : Nat
  line : Nat
  lines : Nat
  bank : Nat
  due : Nat
  cyc : Nat           -- emulated cycle m of the issue, for the recorder
  deriving DecidableEq, Repr

/-- A call message that waits for room in its queue (R218). -/
structure PortalMsg where
  slot : Nat
  course : Nat
  queue : Nat
  words : List Nat
  deriving DecidableEq, Repr

/-- A packet of a queue (R237). `words` are the words not yet popped: a word's bits 64 and 65 hold the error state of its
check bits (R247): 1 correctable, 2 not. -/
structure QPacket where
  queue : Nat         -- 128 * die + queue
  producer : Nat
  words : List Nat
  closed : Bool
  readable : Bool
  popped : Bool       -- a word of it has been popped
  deriving DecidableEq, Repr

/-- A write held in a configuration shadow (R467); slot 32 is the device's shadow. -/
structure ShadowWrite where
  slot : Nat
  off : Nat
  sel : Nat
  val : Nat
  deriving DecidableEq, Repr

/-- A member of a partition's member table (R164). -/
structure Member where
  slot : Nat
  addr : Nat
  ports : Nat
  mask : Nat
  deriving DecidableEq, Repr

/-- A stop at the end of emulated cycle `cyc` (R171); step D+2 of that cycle resolves it (R14). -/
structure PendStop where
  slot : Nat
  cyc : Nat
  code : Nat          -- the fault's code; 0 for a STOP command
  notice : Bool       -- this device decided it, and still owes the other members its stop notice (R173)
  deriving DecidableEq, Repr

/-- A packet of a recorder region (R257). -/
structure RecPkt where
  slot : Nat
  off : Nat           -- byte offset in the region
  typ : Nat
  die : Nat
  seq : Nat
  cyc : Nat
  step : Nat
  phase : Nat
  body : List Nat     -- words from word 2 onward
  bytes : Nat         -- length; of a PAD, the space it fills
  buffered : Bool     -- still in the write buffer (R261)
  waiting : Bool      -- not allocated yet, for want of region space (R262)
  deriving DecidableEq, Repr

/-- A state row or bay word saved by copy-on-write (R255): its key in `State.arr`, its value at the start of the
snapshot, and the position of the write. -/
structure CowRow where
  key : Nat
  val : Nat
  die : Nat
  cyc : Nat
  step : Nat
  drained : Bool      -- it has left the copy-on-write buffer
  deriving DecidableEq, Repr

/-- A snapshot whose SNAP_END has not been written (R253 to R256). -/
structure SnapRun where
  slot : Nat
  cyc : Nat           -- c
  copied : Bool       -- the copy is complete; deliveries may still be owed
  saved : List CowRow -- rows and words saved by copy-on-write
  owed : List (Nat × Nat)   -- (port unit, tag) outstanding at the start, not yet delivered
  off : Nat           -- region offset of its SNAP_BEGIN, once that has a place
  ended : Bool        -- its SNAP_END has been formed, and waits for its place
  deriving DecidableEq, Repr

/-- Control symbols (R309 to R320). -/
inductive Sym where
  | nak (block : Nat)
  | heartbeat
  | caps (content : Nat)
  | rateReq (rate : Nat)
  | rateAck (rate : Nat) (refused : Bool)
  | pstate (st : Nat)
  | plumbUp (pid st : Nat)
  | plumbDown (pid st : Nat)
  | sever (pid lost reason detector : Nat)
  | stopNotice (pid code : Nat) (imm : Bool) (dev cyc : Nat)
  | time (hops sec : Nat)
  | check (t : Nat)
  | fired (pid tag membersM1 cyc : Nat)
  | go (pid tag cyc : Nat)
  | search (epoch next : Nat)
  | count (epoch n : Nat) (overflow : Bool)
  | commit (epoch n : Nat)
  | commitAck (epoch : Nat)
  | abort (epoch reason : Nat)
  | neighbor (addr port : Nat)
  | tree (epoch hop sender : Nat)
  | treeAck (epoch child : Nat)
  | busToken (epoch passed : Nat)
  deriving DecidableEq, Repr

/-- A control symbol waiting to be sent on a port (R308). CAPS and NAK go out on the lane that they speak of. -/
structure SymOut where
  port : Nat
  lane : Option Nat
  sym : Sym
  deriving DecidableEq, Repr

/-- A block that a lane is to send, or has sent (R295, R300). -/
structure TxBlock where
  port : Nat
  lane : Nat
  num : Nat           -- SEQ * 25 + slot at NRZ rates
  bits : Nat          -- the 257-bit block
  deriving DecidableEq, Repr

/-- What a lane puts on the line in a period (R295, R314): a training word, the bits of a block in the order in which they
are sent, or the levels of a codeword's PAM4 symbols. -/
inductive LineWord where
  | train (word : Nat)
  | nrz (bits : List Bool)
  | pam4 (levels : List Nat)
  deriving DecidableEq, Repr

structure LineOut where
  port : Nat
  lane : Nat
  word : LineWord
  deriving DecidableEq, Repr

/-- A mortar frame in a port's transmit queue (R303, R304). -/
structure FrameOut where
  port : Nat
  hdr : Nat
  payload : List Bool
  fresh : Bool        -- queued in the present SCLK period
  deriving DecidableEq, Repr

/-- A mortar block of a lane that waits for its turn in the receive stream (R303). -/
structure RxBlock where
  port : Nat
  lane : Nat
  seq : Nat           -- its superframe and slot
  slot : Nat
  bits : List Bool
  deriving DecidableEq, Repr

/-- A frame of a receive stream that has not arrived whole (R303). -/
structure RxFrame where
  port : Nat
  len : Nat
  got : List Bool
  deriving DecidableEq, Repr

/-- FIRED symbols counted at the root (R375). -/
structure FiredCount where
  pid : Nat
  tag : Nat
  count : Nat
  members : Nat
  latest : Nat
  deriving DecidableEq, Repr

/-- The identity that the network stamps on a request. `nobody` is the partition ID that owns nothing of a virtual
function whose slot is empty (R461). -/
inductive Stamp where
  | pf
  | part (pid : Nat)
  | boot
  | nobody
  deriving DecidableEq, Repr

/-- A request that waits at its target NI or in a sleeping device (R390, R391, R396, R427), with the stamp that its
initiator's NI gave it (R392) and the timer that this NI runs (R395). -/
structure HeldReq where
  who : Who
  stamp : Stamp
  ni : Nat            -- target NI: 64 die + number
  cmd : Instr
  wakes : Bool        -- a domain wakes for it: its timer pauses
  elapsed : Nat       -- counted TCLK ticks
  pause : Nat
  dead : Bool         -- timed out: performed still, its answer discarded
  deriving DecidableEq, Repr

/-- A BAR2 request of a PCIe function to another device, whose parts have no response yet (R462, R463). -/
structure FarReq where
  id : Nat
  func : Nat
  write : Bool
  off : Nat                -- its offset in BAR2
  sts : List (Nat × Nat)   -- first bit and status of each part that was answered
  data : Nat
  left : Nat
  deriving DecidableEq, Repr

/-- A control-network packet for a link bridge: its two header words (R386) and its data. -/
structure NetPkt where
  hdr : Nat
  data : Nat
  deriving DecidableEq, Repr

/-- A request of an initiator NI that has no response yet (R391, R395). One of several parts, each with its own response
(R387), sends them one after the other: `done` bytes have been answered, with status `st` and data `got`. -/
structure Outst where
  die : Nat
  ni : Nat
  tag : Nat
  gen : Nat
  addr : Nat
  write : Bool
  size : Nat
  step : Nat          -- bytes of a part
  data : Nat
  done : Nat
  st : Nat
  got : Nat
  far : Nat           -- 1 + id of the BAR2 request that it is a part of; 0 none
  lo : Nat            -- its first bit in that request's data
  idkind : Nat        -- stamped identity (R392): 0 PF, 1 PARTITION, 2 BOOT
  pid : Nat
  sent : Bool
  dead : Bool         -- timed out: its request buffer stays taken until the late response
  elapsed : Nat       -- counted TCLK ticks
  paused : Bool
  pauseTicks : Nat
  deriving DecidableEq, Repr

/-- A line of an L2 (R397). -/
structure L2Line where
  die : Nat
  line : Nat
  modified : Bool
  data : Nat
  deriving DecidableEq, Repr

/-- A soft repair of a sub-array or a bed (R193 to R195). -/
structure Repair where
  die : Nat
  kind : Nat          -- 0 bay, 1 bed memories
  wall : Nat
  unit : Nat          -- sub-array, or 16 * course + bed
  column : Bool       -- spare column, otherwise spare row
  place : Nat         -- row, or column select * 128 + bit
  spare : Nat
  active : Bool       -- in force: its phase has ended
  fused : Bool        -- written into the die's repair fuses (R195)
  deriving DecidableEq, Repr

/-- An entry of a sub-array's correction log (R186). -/
structure CorrLog where
  wall : Nat          -- flat wall
  sub : Nat
  row : Nat
  col : Nat
  bit : Nat
  tested : Nat        -- mask of the regions of the sub-array tested since
  deriving DecidableEq, Repr

/-- A message or level that leaves the device other than over a link. -/
inductive Out where
  | msix (func vector : Nat)
  | uart (u byte : Nat)
  | i2c (k word : Nat)
  | spi (k word : Nat)
  | completion (func status data : Nat)
  | imageHeader (bytes : List Byte)     -- the image stream on port 1 (R346)
  | imageSection (sec : Section)
  | imageEnd
  deriving DecidableEq, Repr

/-- The answer to the last access: control-network status (R394), data, and the mask of COLLIDED words (R190). -/
structure Rsp where
  status : Nat
  data : Nat
  mask : Nat
  deriving DecidableEq, Repr

/-- The device. -/
structure State where
  /-- Every register, store, table, memory and counter with an index: see `Arr`. -/
  arr : Store
  /-- The device's HBM (R401): bytes by address, in the canonical form of `Memory.wf`. -/
  mem : List Host.Cell
  /-- Units that have issued at the present step of their partition (R12, R85): (kind, flat place). -/
  issued : List (Nat × Nat)
  histPend : List HistPend
  flight : List FlightBit
  late : List LateItem
  /-- Hold causes present, oldest first: (slot, code) (R136). -/
  causes : List (Nat × Nat)
  stops : List PendStop
  /-- Accesses of an access port that wait while Newt tests their bed (R198): 3 die + port, initiator, and write, SETPRES
  and CLRPRES in bits 0 to 2. -/
  accWait : List (Nat × Who × Nat)
  /-- Records raised in the present step of a partition (R178). -/
  stepRecs : List StepRec
  bayReq : List BayReq
  bayRet : List BayRet
  bayDone : List BayDone
  mme : List MmeReq
  waitPages : List WaitPage
  tcache : List TcEntry
  portalRec : List PortalRec
  portalMsg : List PortalMsg
  /-- Words of a call response being assembled, by core (R222). -/
  jrspBuf : List (Nat × Nat)
  packets : List QPacket
  shadow : List ShadowWrite
  members : List Member
  recLog : List RecPkt
  snaps : List SnapRun
  /-- Lines and landing entries that a restore leaves for the start command (R266): slot, key in `arr`, value, flags. -/
  startLines : List (Nat × Nat × Nat × Nat)
  symOut : List SymOut
  frameOut : List FrameOut
  /-- Bits of the frame that a port's stream is sending, not yet in a block (R303): port, bits. -/
  txRest : List (Nat × List Bool)
  /-- Blocks formed and not yet sent; and the last 64 that each lane has sent at an NRZ rate (R300). -/
  txQueue : List TxBlock
  txKept : List TxBlock
  /-- What the lanes sent in the last period. -/
  lineOut : List LineOut
  rxBlocks : List RxBlock
  rxFrames : List RxFrame
  fired : List FiredCount
  /-- Sealed meter records kept in the vault, oldest first (R383). -/
  vault : List (List Nat)
  /-- Records of epochs that closed during SLUMBER, to be sealed at the wake (R429). -/
  closed : List (List Nat)
  /-- Header and section table of the image stream at hand (R346). -/
  strmHdr : List Byte
  outst : List Outst
  l2 : List L2Line
  repairs : List Repair
  corrLog : List CorrLog
  /-- The AON save memory (R428, R429). -/
  aonSave : Store
  /-- The save areas of the eight dies (R428). -/
  saveArea : Store
  /-- Messages that left the device, oldest first. -/
  out : List Out
  /-- The answer to the last access. -/
  rsp : Rsp
  /-- The model's own counter of free values: how many have been taken. -/
  freeCtr : Nat
  /-- BAR2 requests to other devices that are not yet complete. -/
  farReqs : List FarReq
  /-- Packets that wait at the link bridges, oldest first (R308). -/
  netOut : List NetPkt
  /-- Requests that wait, oldest first (R390, R396, R427, R432); those that have ceased to wait and stand in `pending`
  again; and the one that is being performed. -/
  held : List HeldReq
  resumed : List HeldReq
  actAs : Option HeldReq
  /-- Commands waiting, first in, first out. -/
  pending : List Instr
  deriving DecidableEq, Repr

/-- The device right after power-on reset (R436): every array at its reset value, nothing in flight. (log 4 DESIGN CHOICE, 7 DESIGN CHOICE, 8 DESIGN CHOICE) -/
def State.reset : State where
  arr := []
  mem := []
  issued := []
  histPend := []
  flight := []
  late := []
  causes := []
  stops := []
  accWait := []
  stepRecs := []
  bayReq := []
  bayRet := []
  bayDone := []
  mme := []
  waitPages := []
  tcache := []
  portalRec := []
  portalMsg := []
  jrspBuf := []
  packets := []
  shadow := []
  members := []
  recLog := []
  snaps := []
  startLines := []
  symOut := []
  frameOut := []
  txRest := []
  txQueue := []
  txKept := []
  lineOut := []
  rxBlocks := []
  rxFrames := []
  fired := []
  vault := []
  closed := []
  strmHdr := []
  outst := []
  l2 := []
  repairs := []
  corrLog := []
  aonSave := []
  saveArea := []
  out := []
  rsp := ⟨0, 0, 0⟩
  freeCtr := 1    -- free value 0 is POWER_ID
  farReqs := []
  netOut := []
  held := []
  resumed := []
  actAs := none
  pending := []

end Sys2Proof.Machine
end

