-- ==== Sys2Proof/Machine/Arr.lean ====
section
/-! DEFINITION. The arrays of the device that stand in `State.arr`, and their reads and writes.

An array is a code and an entry width. Entry `i` of the array with code `c` has the key 512 i + c. Places are flat
numbers: a wall is 16 die + wall, a course 16 wall + course, a bed 16 course + bed, a cell 16 bed + cell; a port is
2 die + j; a slot is the partition slot 0 to 31. -/

namespace Sys2Proof.Machine

/-- An array: its code (below 512) and the width of an entry in bits. -/
structure Arr where
  code  : Nat
  width : Nat
  deriving DecidableEq, Repr

namespace A

/-! ### Registers (R9 to R11) -/
/-- Registers, by BAR0 offset. -/
def reg : Arr := ⟨0, 32⟩
/-- HI half latched by a read of LO (R11), by the offset of LO: bit 32 set while a latch stands. -/
def hiLatch : Arr := ⟨1, 33⟩
/-- LO half held until HI is written (R11), by the offset of LO: bit 32 set while it is held. -/
def heldLo : Arr := ⟨2, 33⟩
/-- Last LO written of a write-only pair (R11), by the offset of LO. -/
def lastLo : Arr := ⟨3, 32⟩
/-- Stored bit errors of an entry of a protected store (R51, R105, R86, R133, R185, R247, R406), by the entry's own
key: 1 correctable, 2 not correctable. A write of the entry clears it. (log 12 DESIGN CHOICE) -/
def err : Arr := ⟨4, 2⟩

/-! ### Stores of beds and courses (chapters 02 to 04) -/
/-- Cell instruction memory (R57): 512 cell + step. -/
def imem : Arr := ⟨5, 96⟩
/-- History rows (R33): 512 bed + step; bit i is cell i. -/
def hist : Arr := ⟨6, 16⟩
/-- Flag history (R36): 512 bed + step; bits C, V, N, Z. -/
def wflag : Arr := ⟨7, 4⟩
/-- State rows (R17): 256 bed + address. -/
def state : Arr := ⟨8, 16⟩
/-- Shadow rows (R18). -/
def shadow : Arr := ⟨9, 16⟩
/-- The initial-state copy kept from the load (R38). -/
def init : Arr := ⟨10, 16⟩
/-- Landing-store rows (R39): 512 (2 bed + bank) + landing step; bit i is lane i. -/
def land : Arr := ⟨11, 16⟩
/-- Entries of a landing row whose parity is wrong (R51): bit i is lane i. A write of the entry clears its bit. (log 12 DESIGN CHOICE) -/
def landErr : Arr := ⟨56, 16⟩
/-- Presence flags of landing rows (R47). -/
def landP : Arr := ⟨12, 16⟩
/-- Port-store lines (R43): 16 (4 bed + bank) + line. -/
def port : Arr := ⟨13, 64⟩
/-- Presence flags of the 16 lines of a port-store bank (R47): 4 bed + bank. -/
def portP : Arr := ⟨14, 16⟩
/-- Lines of a port-store bank whose two presence flags differ (R51): bit i is line i. A write of the flag clears its bit. (log 12 DESIGN CHOICE) -/
def portPErr : Arr := ⟨25, 16⟩
/-- Compiled earliest position of a delivered line (R79): DUESTEP, and DUEOFS in bits 9 and 10; 0 for pin samples. -/
def portDue : Arr := ⟨15, 11⟩
/-- Word-unit instruction memory (R88): 512 bed + step. -/
def wimem : Arr := ⟨16, 48⟩
/-- Port-unit instruction memory (R67): 512 course + step. -/
def pimem : Arr := ⟨17, 64⟩
/-- Assembly slots of a port unit (R67): 32 course + slot. -/
def slotR : Arr := ⟨18, 16⟩
/-- Generation count of a tag (R81): 128 course + tag. -/
def gen : Arr := ⟨19, 4⟩
/-- Outstanding tags (R80): 128 course + tag. -/
def tagOut : Arr := ⟨20, 1⟩
/-- Probe bit of a cell (R66). -/
def probe : Arr := ⟨21, 1⟩
/-- Hazard detector, history rows (R168): mask of the cells written this emulated cycle, and the kind of the writer of
cell c (0 cell, 1 word, 2 multiply) in bits 16 + 2 c and 17 + 2 c. -/
def hzHist : Arr := ⟨22, 48⟩
/-- Hazard detector, flag-history entries (R168): written, and kind of the writer in bits 1 and 2. -/
def hzFlag : Arr := ⟨23, 3⟩
/-- Hazard detector, shadow bits (R168; 256 cell + address): written, and issue step in bits 1 to 9. -/
def hzShadow : Arr := ⟨24, 10⟩

/-! ### Partition slots (chapters 01, 06, 07, 20) -/
/-- STATE of a slot (R14 ff.): 0 FREE, 1 IDLE, 2 RUN, 3 HELD, 4 STOPPED, 5 SEVERED. -/
def pState : Arr := ⟨30, 3⟩
/-- Partition ID of a slot. -/
def pPid : Arr := ⟨31, 8⟩
/-- Schedule depth D. -/
def pDepth : Arr := ⟨32, 10⟩
/-- Emulated cycle counter (R28). -/
def pCycle : Arr := ⟨33, 48⟩
/-- The step the partition performs, or has frozen before. (log 13 DEDUCED) -/
def pStep : Arr := ⟨34, 10⟩
/-- IMAGE_ID (R164). -/
def pImage : Arr := ⟨35, 64⟩
/-- 1: the step in `pStep` froze on a late item or waits on a cause of this device, and is performed after release. -/
def pFrozen : Arr := ⟨36, 1⟩
/-- 1: the partition waits at the gate in step D+15 (R14). -/
def pGate : Arr := ⟨37, 1⟩
/-- Gate round of a start from IDLE (R149): 0 none, else the round, 1 to 64, that is waited for. -/
def pRound : Arr := ⟨38, 7⟩
/-- 1: the partition has begun an emulated cycle since its start (0: it waits before step 0 of its first). -/
def pBegun : Arr := ⟨39, 1⟩
/-- Edge-sequencer table (R20): 4096 slot + entry. -/
def esTab : Arr := ⟨40, 64⟩
/-- Edge-sequencer length L. -/
def esLen : Arr := ⟨41, 13⟩
/-- Current index of the edge sequencer (R21). -/
def esIdx : Arr := ⟨42, 12⟩
/-- ESEQ_START of the loaded image (R22). -/
def esStart : Arr := ⟨43, 12⟩
/-- Staging table (R470): 4096 slot + entry. -/
def esStage : Arr := ⟨44, 64⟩
/-- 1: a reload has applied at step D+6 of the present emulated cycle (R21). -/
def esReloaded : Arr := ⟨45, 1⟩
/-- MIN_PL of the loaded image (R164). -/
def pMinPl : Arr := ⟨46, 2⟩
/-- SEQ of the slot's next record (R177). -/
def recSeq : Arr := ⟨47, 8⟩
/-- Records pushed in this emulated cycle (R174): 32 die + slot. (log 25 DEDUCED) -/
def recCnt : Arr := ⟨48, 7⟩
/-- Hold timer (R153), in TCLK ticks. -/
def holdTimer : Arr := ⟨49, 64⟩
/-- Gate or launch wait timer (R153, R377), in TCLK ticks. -/
def gateTimer : Arr := ⟨50, 64⟩
/-- HOLD_LIMIT in force for the present hold or wait. -/
def limitNow : Arr := ⟨51, 32⟩
/-- Of a partition slot in the gate rounds of a start (R152): 1 + MONO_NS at its last release of a phase, 0 for none; the
longest of rounds 33 on, in ns. -/
def gateRel : Arr := ⟨74, 65⟩
def gateMax : Arr := ⟨84, 64⟩
/-- Own gate-phase pulls (R149): bit i is Gi. -/
def gatePull : Arr := ⟨52, 3⟩
/-- 1: stopped by CYCLE_LIMIT (R29). -/
def pLimit : Arr := ⟨53, 1⟩
/-- 1: an immediate stop takes effect when the step in progress completes (R171). -/
def pImm : Arr := ⟨54, 1⟩
/-- 1: HOLD is observed from another member. -/
def remoteHold : Arr := ⟨55, 1⟩
/-- 1: the step before the partition's position completed at the last SCLK period's end, so its DUT requests are performed
in the present period (R257). -/
def stepFresh : Arr := ⟨57, 1⟩
/-- During a hold, the step whose mortar stages run in the present SCLK period (R116). -/
def heldStep : Arr := ⟨69, 10⟩
/-- Slot that owns a wall (R24): 0 none, else 1 + slot. -/
def wallOwner : Arr := ⟨58, 6⟩
/-- SEQ of the device queue's next record (R177); index 0. -/
def devSeq : Arr := ⟨59, 8⟩
/-- Number of the members named in the image's member table. -/
def pMembers : Arr := ⟨60, 13⟩
/-- 1: the partition waits at step 0 or at the gate for its launch (R377). -/
def pLaunchWait : Arr := ⟨61, 1⟩
/-- Combined plumb state of a partition ID (R150): HOLD, G0, G1, G2 in bits 0 to 3. -/
def plumbDown : Arr := ⟨62, 4⟩
/-- Upward plumb state received from a child: 256 port + partition ID. -/
def plumbUp : Arr := ⟨63, 4⟩
/-- Upward plumb state last sent: partition ID. -/
def plumbSent : Arr := ⟨64, 4⟩
/-- Pulls of a device that is no member of the partition, after the loss of a link (R157): by partition ID. -/
def plumbForce : Arr := ⟨86, 4⟩
/-- Walls this device gives the slot: number. -/
def pWalls : Arr := ⟨65, 8⟩
/-- Edge-sequencer table and length as the image loaded them (R22): 4096 slot + entry; slot. -/
def esLoad : Arr := ⟨66, 64⟩
def esLoadLen : Arr := ⟨67, 13⟩
/-- 1: a start waits until Newt leaves the beds of the partition's walls (R198). -/
def pStartWait : Arr := ⟨68, 1⟩

/-! ### Configuration shadows (R466 to R469); index slot, 32 for the device -/
def shState : Arr := ⟨70, 2⟩
def shOver : Arr := ⟨71, 1⟩
def shResult : Arr := ⟨72, 4⟩

/-! ### Events (R471 to R475) -/
/-- EVT_ROUTE_FLAG and EVT_ROUTE_VEC of a source. -/
def evtFlag : Arr := ⟨75, 18⟩
def evtVec : Arr := ⟨76, 17⟩
/-- OWNER and OWNED of a software source (EVT_INFO), by index. -/
def evtSwOwn : Arr := ⟨77, 9⟩
/-- Vectors raised in the present TCLK tick, pending bits, mask bits: 1024 function + vector; functions 0 to 32, and
33 the boot controller. The mask bit is 1 when the vector is NOT masked, so that it resets masked. -/
def vecRaised : Arr := ⟨78, 1⟩
def vecPend : Arr := ⟨79, 1⟩
/-- Log 80 DEDUCED. -/
def vecOpen : Arr := ⟨80, 1⟩
/-- Message address and data of a vector. -/
def vecMsg : Arr := ⟨81, 96⟩
/-- 1: the function is disabled, or has MSI-X masked as a whole. (log 80 DEDUCED) -/
def funcOff : Arr := ⟨82, 1⟩
def funcMask : Arr := ⟨83, 1⟩

/-! ### Transactor cores (chapter 09): index 32 die + core -/
def jctl : Arr := ⟨90, 1⟩
def jwait : Arr := ⟨91, 64⟩
def jqsel : Arr := ⟨92, 7⟩
def jnext : Arr := ⟨93, 64⟩
def jarg : Arr := ⟨94, 64⟩
def jqstat : Arr := ⟨95, 4⟩
def jrstat : Arr := ⟨96, 3⟩
/-- 1: the core stalls on a read of JNEXT (R216). -/
def coreIdle : Arr := ⟨97, 1⟩
/-- 1 + task of the work item in progress, 0 none. -/
def coreTask : Arr := ⟨98, 13⟩
/-- Binding in force, and a pending one: PID, BOUND, POOL (R213, R214). -/
def coreBind : Arr := ⟨99, 12⟩
def coreBindNew : Arr := ⟨100, 13⟩
/-- Busy and idle TCLK ticks (R233). -/
def coreBusyT : Arr := ⟨101, 64⟩
def coreIdleT : Arr := ⟨102, 64⟩
/-- 1: firmware has released the core from reset (R212). -/
def coreUp : Arr := ⟨103, 1⟩
/-- 3 minus the privilege level of a core: 0 machine, 2 supervisor, 3 user; and that before its last exception (R212, R215). -/
def coreLow : Arr := ⟨108, 2⟩
def corePrev : Arr := ⟨109, 2⟩
/-- Cause of the core's last exception (mcause). -/
def coreCause : Arr := ⟨135, 64⟩
/-- Words of the response in assembly still to come; 0 none (R222). -/
def jrspLeft : Arr := ⟨104, 4⟩
/-- 1: the response is complete and on its way to the portal (R222). -/
def jrspSent : Arr := ⟨105, 1⟩

/-! ### Dispatcher (chapter 09): index 512 die + task -/
def tCfg : Arr := ⟨110, 17⟩
def tMask : Arr := ⟨111, 32⟩
def tTimeout : Arr := ⟨112, 25⟩
def tArg : Arr := ⟨113, 64⟩
/-- 0 FREE, 1 WAIT, 2 READY, 3 RUNNING. -/
def tState : Arr := ⟨114, 2⟩
def tCore : Arr := ⟨115, 5⟩
def tLastTmo : Arr := ⟨116, 1⟩
def tCount : Arr := ⟨117, 24⟩
/-- Histogram bins (R233): 8 task + bin. -/
def tHist : Arr := ⟨118, 16⟩
def tWaitMax : Arr := ⟨119, 32⟩
def tFlags : Arr := ⟨120, 32⟩
/-- READY by its timeout. -/
def tTmo : Arr := ⟨121, 1⟩
/-- MONO_NS at the entry into WAIT, and at the entry into READY. -/
def tSince : Arr := ⟨122, 64⟩
def tReadyAt : Arr := ⟨123, 64⟩
/-- Settings in force for the present wait: mask, mode, timeout (R225). -/
def tMaskNow : Arr := ⟨124, 32⟩
def tTimeoutNow : Arr := ⟨125, 25⟩
/-- Settings in force of a task that is READY or RUNNING: TASK_CFG and TASK_ARG (R225). -/
def tCfgNow : Arr := ⟨136, 17⟩
def tArgNow : Arr := ⟨137, 64⟩
/-- Order in which tasks of a die became READY: entry number, and the die's counter (index die). -/
def tOrder : Arr := ⟨126, 64⟩
def tOrderCtr : Arr := ⟨127, 64⟩
/-- 1: EN = 0 was written while RUNNING (R231). -/
def tFreeAtEnd : Arr := ⟨128, 1⟩

/-! ### Call portals (chapter 09): index wall -/
def epoch : Arr := ⟨130, 6⟩
def staleCnt : Arr := ⟨131, 16⟩
def staleWhy : Arr := ⟨132, 2⟩
def calls : Arr := ⟨133, 32⟩

/-! ### Queues (chapter 10): index 128 die + queue; per function: 64 queue + function -/
/-- CLOSE, EMPTY, FULL, EOP, DENIED of a function (R249). -/
def qAcc : Arr := ⟨143, 5⟩
def qHiLatch : Arr := ⟨144, 33⟩
def qHeld : Arr := ⟨145, 33⟩
def qLastLo : Arr := ⟨146, 32⟩
/-- 1: the two copies of a pointer of the queue differ (R246): 128 die + queue. (log 12 DESIGN CHOICE) -/
def qPtrBad : Arr := ⟨147, 1⟩

/-! ### Mortar (chapter 05). Table kinds: 0 bed lane, 1 course switch, 2 wall switch, 3 die switch, 4 module, 5 link
send, 6 link receive. A lane of kind 0 is 16 bed + lane; 1: 320 course + output; 2: 1280 wall + output; 3: 5120 die +
output; 4: 2048 die + 512 module + position; 5 and 6: 256 port + position. -/
/-- Tables of a kind: 512 lane + step. -/
def mTab (kind : Nat) : Arr := ⟨150 + kind, if kind = 6 then 32 else 16⟩
/-- MREG of a lane. -/
def mReg (kind : Nat) : Arr := ⟨160 + kind, 1⟩
/-- OWNER, and OWNED in bit 8, of a lane of kind 3 to 6 (R117). -/
def mOwn (kind : Nat) : Arr := ⟨170 + kind, 9⟩
/-- 1: the link port has sent the frame of a step in this emulated cycle (R116, R127): 512 (32 port + slot) + step. -/
def linkDone : Arr := ⟨73, 1⟩
/-- TCLASS fuses of a lane (R119). -/
def mClass (kind : Nat) : Arr := ⟨180 + kind, 2⟩

/-! ### Recorder (chapter 11), index slot -/
/-- SEQ of the next packet. -/
def recPktSeq : Arr := ⟨190, 32⟩
/-- 1: nothing more is written until the next boundary (R263). -/
def recMute : Arr := ⟨191, 1⟩
/-- A SNAP command or launch snapshot frame has arrived since the previous boundary: 1 + REASON (R253). (log 21 DEDUCED) -/
def recSnapReq : Arr := ⟨192, 3⟩
/-- What waits for step D+8 (R260): the last command in bits 0 and 1 (1 ARM, 2 START, 3 STOP), a start event in bit 2,
a stop event in bit 3. -/
def recWant : Arr := ⟨193, 4⟩
/-- Boundaries still to be marked in POST. -/
def recPostLeft : Arr := ⟨194, 33⟩
/-- 1 + SEQ of the packet that the feed reads next (R268), 0 while no feed is set up; its region offset. -/
def feedSeq : Arr := ⟨195, 33⟩
def feedAt : Arr := ⟨88, 36⟩
/-- 1: REC_TAIL of the source has passed the feed's read position (R269). -/
def feedLost : Arr := ⟨26, 1⟩
/-- Mask of the dies for whose write buffer the slot holds (R261). -/
def recBack : Arr := ⟨87, 8⟩
/-- Replay mapping of a restore (R265): 128 slot + wall of the source gives 1 + own wall; 32 slot + unit of the source
gives 1 + own unit; 8 slot + die gives the source's mask of probe words. -/
def mapWall : Arr := ⟨196, 8⟩
def mapUnit : Arr := ⟨197, 6⟩
def mapWords : Arr := ⟨232, 32⟩
/-- Emulated cycle of the last MARK fed. -/
def feedMark : Arr := ⟨198, 48⟩
/-- 1: the history row written at this step awaits its DUMP packet (R273): 512 wall + step. -/
def dumpDue : Arr := ⟨199, 1⟩

/-! ### HBM (chapter 17) -/
/-- Error state of a 64-byte line: 1 correctable, 2 not (R408). (log 12 DESIGN CHOICE) -/
def hbmErr : Arr := ⟨200, 2⟩
/-- Ownership table (R403): granule; PID, and OWNED in bit 8. -/
def own : Arr := ⟨201, 9⟩
/-- Pseudo-channels whose contents a SLUMBER without ZERO_FILL lost (R414), by die. -/
def hbmLost : Arr := ⟨202, 32⟩
/-- Lines written since such a loss. -/
def hbmKnown : Arr := ⟨203, 1⟩

/-! ### Memory-model engines (chapter 08), index 4 die + engine -/
/-- Number of the next request that the engine accepts. -/
def mmeSerial : Arr := ⟨204, 64⟩
/-- Number below which every write of the fence's partition must be performed before DONE of MME_FENCE sets. -/
def fenceAt : Arr := ⟨205, 64⟩
/-- Partition of the fence. -/
def fencePid : Arr := ⟨206, 8⟩

/-! ### Bays (chapter 08) -/
/-- Bay words (R182): 131072 wall + word address. -/
def bay : Arr := ⟨210, 64⟩
/-- The bit, 0 to 71, that a bay word with a correctable error has wrong (R182, R186). -/
def bayBit : Arr := ⟨107, 7⟩
/-- Newt's save buffer (R191): 512 die + word of the region under test. -/
def newtBuf : Arr := ⟨89, 64⟩
/-- Step of the wall's partition whose DUT requests the bay has performed last: 1 + 1024 (cycle mod 2) + step (R183). -/
def bayAt : Arr := ⟨211, 12⟩

/-! ### General pins (chapter 19) -/
/-- Level that an output binding drives on a pin (R447): level, and 1 in bit 1 once it drives. -/
def tgtOut : Arr := ⟨235, 2⟩
/-- A held pad (R452): level, output enable, PULL, SLEW. -/
def pinNow : Arr := ⟨142, 2⟩
def padLatch : Arr := ⟨236, 5⟩
/-- Routing entries (R440): SIGNAL, PIN, EN. -/
def route : Arr := ⟨237, 16⟩
/-- 1: an I2C controller discards TXQ words up to the next STOP (R444). -/
def i2cSkip : Arr := ⟨238, 1⟩

/-! ### Access ports: 3 die + port (0 bed, 1 word unit, 2 mortar) -/
/-- RESULT that the access in progress shows when it completes (R54). -/
def accRes : Arr := ⟨230, 3⟩

/-! ### Trigger units (chapter 12), index 4 die + unit -/
/-- Counter of the sequencer state (R280). -/
def tgCount : Arr := ⟨220, 16⟩
/-- EXT latch (R281). -/
def tgExt : Arr := ⟨221, 1⟩
/-- 1: v(n−1) is valid; and v(n−1) of C0 and C1: 2 unit + comparator (R278). -/
def tgValid : Arr := ⟨222, 1⟩
def tgPrev : Arr := ⟨223, 64⟩
/-- Entries counted in FILLING or POST (R279). -/
def tgFill : Arr := ⟨224, 32⟩
/-- Index of the next capture entry (R286). -/
def tgNext : Arr := ⟨225, 32⟩
/-- 1: FORCE waits for the next sample (R282). -/
def tgForce : Arr := ⟨226, 1⟩
/-- 1 + trigger output that the unit drives high, 0 none (R284). -/
def tgOut : Arr := ⟨227, 4⟩
/-- Capture buffer (R286): 524288 die + word. -/
def capt : Arr := ⟨228, 64⟩
/-- Probe map (R276): 2048 die + 64 word + slot; cell of the die, and EN in bit 16. -/
def pmap : Arr := ⟨229, 17⟩

/-! ### Newt (chapter 08), index die -/
/-- MONO_NS when the last test ended; 1 + that value. -/
def newtEnd : Arr := ⟨270, 65⟩
/-- Next unit of the sweep: 256 wall + region, then 4096 + 256 wall + bed. -/
def newtNext : Arr := ⟨271, 13⟩
/-- A request: 1 + sweep number of the next unit it names, and the units it still names in bits 16 to 24. -/
def newtReq : Arr := ⟨272, 25⟩

/-! ### Timed launch (chapter 15), index launch slot -/
/-- Launch time; TL_CFG without CMD; STATE and RESULT of TL_STATUS. -/
def lnTime : Arr := ⟨240, 64⟩
def lnCfg : Arr := ⟨241, 28⟩
def lnState : Arr := ⟨242, 2⟩
def lnResult : Arr := ⟨243, 4⟩
/-- Launch cycle of this member, then the agreed cycle k (R375). -/
def lnCycle : Arr := ⟨244, 48⟩
/-- 1: GO has arrived. -/
def lnGo : Arr := ⟨245, 1⟩
/-- 1: a HOLD launch pulls HOLD (R377); index partition slot. (log 59 DEDUCED) -/
def lnHold : Arr := ⟨246, 1⟩

/-! ### Time and meters (chapter 15); index 0, or the partition slot -/
/-- MONO_NS at the last accepted PPS edge, or when PPS_EN was set (R368, R369). -/
def ppsRef : Arr := ⟨247, 64⟩
/-- 1: an edge has been accepted since PPS_EN was set. -/
def ppsSeen : Arr := ⟨248, 1⟩
/-- TIME_NS that the last accepted edge loaded. -/
def ppsTime : Arr := ⟨249, 64⟩
/-- MONO_NS at the last TIME message, or when MSG_EXPECT was set. -/
def msgRef : Arr := ⟨250, 64⟩
/-- Whole seconds of TIME_NS at the last TIME_SECOND. -/
def tmSec : Arr := ⟨251, 64⟩
/-- 1: a TIME with this seconds value has been received (R370). -/
def tmGot : Arr := ⟨252, 1⟩
/-- Fraction below MONO_NS while the RC oscillator counts (R365). -/
def monoFrac : Arr := ⟨253, 32⟩
/-- The open billing epoch of the device (R380): S, MONO_NS at its opening, EPOCH_S in force (0: the reset value). (log 65 DEDUCED) -/
def devS : Arr := ⟨254, 64⟩
def devMono : Arr := ⟨255, 64⟩
def devLen : Arr := ⟨256, 17⟩
/-- The open epoch of a partition (R381, R382): open, S, MONO_NS at its opening, a regression and its two values. -/
def epOpen : Arr := ⟨257, 1⟩
def epS : Arr := ⟨258, 64⟩
def epMono : Arr := ⟨259, 64⟩
def epReg : Arr := ⟨260, 1⟩
def epBefore : Arr := ⟨261, 64⟩
def epAfter : Arr := ⟨262, 64⟩
/-- Sequence number of the next sealed record (R383). -/
def meterSeq : Arr := ⟨263, 64⟩
/-- The sealing key that the vault holds (R383); bit 256: there is one. -/
def sealKey : Arr := ⟨264, 257⟩
/-- Number of the free value that is POWER_ID. (log 61 DESIGN CHOICE) -/
def powerIx : Arr := ⟨265, 64⟩

/-! ### Boot, non-volatile memories and security (chapter 14) -/
/-- LC fuse groups 1 to 4 (R332). (log 7 DESIGN CHOICE) -/
def fuseLc : Arr := ⟨280, 8⟩
/-- ROOT_HASH0 to ROOT_HASH3, ROOT_REVOKE, FUSE_KEK, TAMPER_POLICY. -/
def fuseRoot : Arr := ⟨281, 384⟩
def fuseRevoke : Arr := ⟨282, 4⟩
def fuseKek : Arr := ⟨283, 256⟩
def fuseTamper : Arr := ⟨284, 5⟩
/-- KEK_VALID, KEK_DISABLE, KEYRAM_ALLOWED in bits 0 to 2. -/
def fuseFlags : Arr := ⟨285, 3⟩
/-- Blown bits of the thermometer counters: 0 BOOT_SVN, 1 IMAGE_SVN. -/
def fuseSvn : Arr := ⟨286, 7⟩
/-- Key RAM, and whether it holds a key (R361). -/
def keyRam : Arr := ⟨287, 256⟩
def keyRamOk : Arr := ⟨288, 1⟩
/-- Copies 0 and 1 of the boot record, 64 bytes little-endian (R335). -/
def bootRec : Arr := ⟨289, 512⟩
/-- Bytes of the boot slots (R334) and of the design-image slots: 2^40 slot + offset, slots 0 and 1 boot, 2 and 3 image. (log 7 DESIGN CHOICE) -/
def slotByte : Arr := ⟨290, 8⟩
/-- 1: the NOR flash responds; 1: an NVMe drive is present (R333, R345). (log 7 DESIGN CHOICE) -/
def norThere : Arr := ⟨291, 1⟩
def nvmeThere : Arr := ⟨292, 1⟩
/-- Bytes in a logical block of the drive. -/
def nvmeBlock : Arr := ⟨293, 13⟩
/-- CHAIN_PARAMS and KEY_POLICY of the running boot container. -/
def chainParams : Arr := ⟨294, 512⟩
def keyPolicy : Arr := ⟨295, 128⟩
/-- VERIFY of the slot has passed since its last WRITE and the last power-on reset (R353). -/
def slotVerified : Arr := ⟨296, 1⟩
/-- The 4 MiB staging area that BAR2 maps in RECOVERY (R352). -/
def stageByte : Arr := ⟨297, 8⟩
/-- Slot was loaded with AUTOSTART; by the image stream (R347, R349). -/
def autoStart : Arr := ⟨298, 1⟩
def fromStream : Arr := ⟨299, 1⟩
/-- The image stream: a header that passed has arrived; sections for this device that it names; loaded so far; one
failed; ENC of the header; the end mark has arrived. Index 0. -/
def strmOn : Arr := ⟨300, 1⟩
def strmWant : Arr := ⟨301, 14⟩
def strmGot : Arr := ⟨302, 14⟩
def strmBad : Arr := ⟨303, 1⟩
def strmEnd : Arr := ⟨304, 1⟩
/-- First entry of the section table that may still arrive (R346). -/
def strmNext : Arr := ⟨129, 14⟩
/-- 1 + design-image slot that this boot chose (R337), 0 while it has chosen none. -/
def imgPick : Arr := ⟨134, 2⟩
/-- The boot controller's private SRAM (R332), by byte: the firmware that it runs. -/
def bootRam : Arr := ⟨106, 8⟩
/-- Retries of enumeration and stream made (R347). -/
def strmTries : Arr := ⟨305, 3⟩
/-- DONE as the device last took it: 1 after it rose (R349). -/
def doneHigh : Arr := ⟨306, 1⟩
/-- The KEYSTONE pin (R323). (log 7 DESIGN CHOICE) -/
def keystonePin : Arr := ⟨307, 1⟩
/-- TAMPER_CFG has been set since power-on reset (R360): its fields are locked. (log 70 DEDUCED) -/
def wlSet : Arr := ⟨308, 32⟩
/-- CONTAINER_ID: 0 of the running boot container, 1 of the design-image container (R338). -/
def containerId : Arr := ⟨309, 64⟩
/-- 1: VBAT is present (R361). -/
def vbat : Arr := ⟨310, 1⟩

/-! ### Power (chapter 18), index 0 -/
/-- Power state: 0 RUN, 1 PARK, 2 SLUMBER, 3 OFF. -/
def pwMode : Arr := ⟨311, 2⟩
/-- 1: REFCLK has stopped, and no die steps until a power-on reset or RESET_N (R417). -/
def refDead : Arr := ⟨312, 1⟩
/-- A wake that is pending: SOURCE of LAST_WAKE in bits 0 to 3, INDEX in bits 4 to 11 (R431). -/
def pwWake : Arr := ⟨313, 12⟩
/-- 1: a tamper in SLUMBER keeps the device asleep until a power-on reset or RESET_N (R359). -/
def pwDead : Arr := ⟨314, 1⟩
/-- 1: a warm reset waits for the end of a level change (R438). -/
def warmWait : Arr := ⟨315, 1⟩
/-- MONO_NS at the start of an entry (R426), and at VOLT_REQ of step 2 (R421). (log 131 DEDUCED) -/
def drainAt : Arr := ⟨316, 64⟩
def voltAt : Arr := ⟨317, 64⟩
/-- Step of a level change in progress: 0 none, 1 waits for the freeze, 2 waits for VOLT_DONE, 3 relocks (R420). -/
def plPhase : Arr := ⟨318, 2⟩

/-! ### Chain links (chapter 13): a port; a lane is 4 port + lane -/
/-- MONO_NS at the last symbol that arrived on a port (R319). -/
def ptSeen : Arr := ⟨319, 64⟩
/-- 1 + rate of this end's RATE_REQ without answer; of an accepted change that waits for the second MARKER (R316). -/
def ptReq : Arr := ⟨320, 4⟩
def ptSwitch : Arr := ⟨321, 4⟩
/-- 1 + power state that is entered after the next MARKER, plus 8 when this end asked for it (R321). -/
def ptPs : Arr := ⟨322, 4⟩
/-- Rate before the last training step (R317). -/
def lnPrev : Arr := ⟨323, 3⟩
/-- MONO_NS at the start of the lane's training step, relock or wait for a presence poll. -/
def lnSince : Arr := ⟨324, 64⟩
/-- 1: the lane relocks after DORMANT (R321). -/
def lnRelock : Arr := ⟨325, 1⟩
/-- Slot of the next block in its superframe, and the superframe's number (R298). -/
def lnSlot : Arr := ⟨326, 6⟩
def lnSeq : Arr := ⟨327, 16⟩
/-- 1 + number of the block whose replay the lane waits for, and failed replays of it (R300). (log 86 DESIGN CHOICE) -/
def lnNak : Arr := ⟨328, 25⟩
def lnFails : Arr := ⟨329, 4⟩
/-- DFE tap weights: 16 (4 port + lane) + tap (R312). -/
def lnTap : Arr := ⟨330, 8⟩
/-- 1 + number of the block that the peer's last NAK named, and NAKs of it in a row (R300). -/
def ptNakBlk : Arr := ⟨331, 25⟩
def ptNakCnt : Arr := ⟨332, 4⟩
/-- What a lane sends while it trains or is ACTIVE: 0 training words, 1 to 4 TSE, 5 blocks (R314). -/
def lnTx : Arr := ⟨138, 3⟩
/-- Slot of the next block that the lane sends in its superframe, and the superframe's number (R298). -/
def lnTxSlot : Arr := ⟨139, 6⟩
def lnTxSeq : Arr := ⟨140, 16⟩

/-! ### Enumeration (chapter 13), index 0 -/
/-- Provisional address; its epoch in bits 12 to 19; bit 20: there is one (R325). -/
def enProv : Arr := ⟨334, 21⟩
/-- 1 plus the epoch of a keystone's own last search, once a foreign SEARCH has changed CHAIN_STATUS.EPOCH (R327). -/
def kEpoch : Arr := ⟨27, 9⟩
/-- 1: the keystone's image stream has failed for the last time (R347). -/
def strmOver : Arr := ⟨28, 1⟩
/-- 1: the device was the tail of the last search it joined. -/
def enTail : Arr := ⟨335, 1⟩
/-- MONO_NS at the keystone's SEARCH, and at its TREE or the device's first TREE. -/
def enAt : Arr := ⟨336, 64⟩
def trAt : Arr := ⟨340, 64⟩
/-- n of COMMIT (R327). -/
def enCount : Arr := ⟨337, 13⟩
/-- 1: the parent window is open; hop, sender and port of the best TREE in it (R329). -/
def trOpen : Arr := ⟨338, 1⟩
def trBest : Arr := ⟨339, 24⟩
/-- 1 + epoch of the last window that closed. -/
def trClosed : Arr := ⟨341, 9⟩
/-- 1 + count of devices that the bus token has passed, while this device holds it (R330). -/
def busTok : Arr := ⟨342, 14⟩
/-- Slots of the plumb bus frame that the device drives (R147): index 0, bit i slot i. -/
def busSlots : Arr := ⟨85, 84⟩

/-! ### Domains, sleep, the endpoint, the control network -/
/-- 1: a domain that is off has been asked to power up (R424): 4 die + domain (0 FAB, 1 MEM, 2 LINK). -/
def domWake : Arr := ⟨343, 1⟩
/-- 1: REFCLK is absent (R365). -/
def refGone : Arr := ⟨357, 1⟩
/-- 1 + OFFSET_GIB of the save area that SAVE_DESIGN has written, by die (R428). -/
def saveMade : Arr := ⟨344, 7⟩
/-- 1: an entry to PARK or SLUMBER has put the port into its power state (R427, R430). -/
def sleepPs : Arr := ⟨151, 1⟩
/-- 1: PARK has latched the pads of the bank (R452, R453). -/
def padPark : Arr := ⟨152, 1⟩
/-- Route table entries: MATCH, MASK and PATH (R388): 4096 die + 64 NI + entry. -/
def cnMatch : Arr := ⟨345, 32⟩
def cnMask : Arr := ⟨351, 19⟩
/-- MONO_NS at the last retraining of a die's stack; stack temperature at that of a pseudo-channel, 32 die + number (R412). -/
def pcAt : Arr := ⟨149, 64⟩
def pcTemp : Arr := ⟨150, 8⟩
/-- 1: software has written the entry; from the FIRMWARE stage on the others are the firmware's (R389). -/
def cnSet : Arr := ⟨29, 1⟩
def cnFw : Arr := ⟨148, 1⟩
/-- Log 107 DEDUCED. -/
def cnPath : Arr := ⟨352, 31⟩
/-- Line that the patrol scrubber reads next, by die (R409); 1: training is in progress (R411). -/
def scrubAt : Arr := ⟨358, 30⟩
def hbmTrn : Arr := ⟨359, 1⟩
/-- 1: the PCIe link is down (R430, R459). -/
def pcieDown : Arr := ⟨346, 1⟩
/-- Host function registers of a function (R464): HOST_BAR2_CFG, HOST_BAR2_DMBASE, HOST_ERR, HOST_ERR_ADDR, the latch of
its upper half. -/
def hostBar2 : Arr := ⟨347, 22⟩
def hostDm : Arr := ⟨348, 13⟩
def hostErr : Arr := ⟨349, 32⟩
def hostErrAddr : Arr := ⟨350, 64⟩
def hostErrLatch : Arr := ⟨353, 33⟩
/-- Generation of a tag of an initiator NI, and whether a timeout advances it when the tag is next used (R395):
32 (64 die + NI) + tag. -/
def cnGen : Arr := ⟨354, 2⟩
def cnStale : Arr := ⟨355, 1⟩

end A

/-- Outcome of a command. -/
abbrev Res := Host.Outcome State Fault Refusal

/-- The key of entry `i` of an array. -/
def Arr.key (a : Arr) (i : Nat) : Nat := i * 512 + a.code

/-- What an unlisted key reads as: the reset value. (log 6 DEDUCED) -/
def dflt (k : Nat) : Nat :=
  if k % 512 = A.reg.code then regReset (k / 512)
  else if k % 512 = A.evtVec.code then
    -- topology, enumeration and power events go to the boot controller, FUNC 33 (R475)
    (if k / 512 = 0x5BA ∨ k / 512 = 0x5BB ∨ k / 512 = 0x5BD then 67 else 0)
  else 0

/-- Entry `i` of array `a`: it has the bits of the array's width. -/
def State.rd (s : State) (a : Arr) (i : Nat) : Nat :=
  Sparse.get (dflt (a.key i)) s.arr (a.key i) % 2 ^ a.width

/-- Write the low bits of `v` to entry `i` of array `a`. -/
def State.wr (s : State) (a : Arr) (i v : Nat) : State :=
  { s with arr := Sparse.set (dflt (a.key i)) s.arr (a.key i) (v % 2 ^ a.width) }

/-- Entry `i` of a one-bit array. -/
def State.on (s : State) (a : Arr) (i : Nat) : Bool := s.rd a i = 1

/-- Error state of an entry of a protected store: 0 none, 1 correctable, 2 not (see `A.err`). -/
def State.errOf (s : State) (a : Arr) (i : Nat) : Nat := s.rd A.err (a.key i)

/-- Write an entry of a protected store: its check bits are written with it. (log 12 DESIGN CHOICE) -/
def State.wrE (s : State) (a : Arr) (i v : Nat) : State := (s.wr a i v).wr A.err (a.key i) 0

/-- Write lanes `mask` of a landing row: their parity is written with them. (log 12 DESIGN CHOICE) -/
def State.wrLand (s : State) (i mask v : Nat) : State :=
  (s.wr A.land i ((s.rd A.land i &&& (0xFFFF ^^^ mask)) ||| (v &&& mask))).wr A.landErr i
    (s.rd A.landErr i &&& (0xFFFF ^^^ mask))

/-- Write presence flags `mask` of a port-store bank: both copies of each are written. (log 12 DESIGN CHOICE) -/
def State.wrPres (s : State) (i mask v : Nat) : State :=
  (s.wr A.portP i ((s.rd A.portP i &&& (0xFFFF ^^^ mask)) ||| (v &&& mask))).wr A.portPErr i
    (s.rd A.portPErr i &&& (0xFFFF ^^^ mask))

/-- Bring every entry `i` of array `a` with `p i` back to its reset value. -/
def State.drop (s : State) (a : Arr) (p : Nat → Bool) : State :=
  { s with arr := s.arr.filter fun e => ¬ (e.1 % 512 = a.code ∧ p (e.1 / 512)) }

/-- Add `n` to an entry; it stays at its largest value when the sum is above that (saturation). -/
def State.sat (s : State) (a : Arr) (i n : Nat) : State :=
  s.wr a i (min (2 ^ a.width - 1) (s.rd a i + n))

/-- Fold a family of updates over 0 to n - 1, in rising order. -/
def State.each (s : State) (n : Nat) (f : State → Nat → State) : State :=
  (List.range n).foldl f s

/-- The register at offset `off`, as stored. -/
def State.reg (s : State) (off : Nat) : Nat := s.rd A.reg off

/-- Field `f` of the register block at `base`. -/
def State.rf (s : State) (base : Nat) (f : Fld) : Nat := slice (s.reg (base + f.off)) f.lo f.w

/-- Set a field. -/
def State.wf (s : State) (base : Nat) (f : Fld) (v : Nat) : State :=
  s.wr A.reg (base + f.off) (patch (s.reg (base + f.off)) f.lo f.w v)

/-- Add to a counter field, which saturates. -/
def State.cnt (s : State) (base : Nat) (f : Fld) (n : Nat) : State :=
  s.wf base f (min (2 ^ f.w - 1) (s.rf base f + n))

/-- Set the bits of `m` in a field. -/
def State.orf (s : State) (base : Nat) (f : Fld) (m : Nat) : State := s.wf base f (s.rf base f ||| m)

/-- A 64-bit value in two registers, LO at `off`, HI at `off + 4`. -/
def State.pair (s : State) (off : Nat) : Nat := s.reg off + 2 ^ 32 * s.reg (off + 4)

/-- Set a 64-bit value in two registers. -/
def State.setPair (s : State) (off v : Nat) : State := (s.wr A.reg off v).wr A.reg (off + 4) (v / 2 ^ 32)

end Sys2Proof.Machine
end

