-- ==== Sys2Proof/Machine/Place.lean ====
section
/-! DEFINITION. The address that the command of an initiator names (R386): SPACE in bit 39, OFFSET below it. -/

namespace Sys2Proof.Machine

open Reg

/-- Place of the bay of a wall in SPACE 0 (R187). -/
def bayPlace (w : WallLoc) : Nat := 0x1000000000 + 0x1000000 * w.die + 0x100000 * w.wall

end Sys2Proof.Machine

namespace Sys2Proof

open Machine Machine.Reg

/-- The register, bay word or HBM byte that a command of an initiator accesses; none for any other command. -/
def Instr.place : Instr → Option Nat
  | .registerWrite _ o _ | .rcRead _ o | .lohiLoRead _ o | .lohiLoWrite _ o _ | .lohiHiWrite _ o _
  | .rwtWrite _ o _ | .evtRouteWrite _ o _ => some o
  | .cnRequest _ _ space o _ _ => some (2 ^ 39 * bit space + o.toNat)
  | .hbmRequest _ _ addr _ _ _ => some (2 ^ 39 + addr.toNat)
  | .bayServiceRead _ w o _ | .bayServiceWrite _ w o _ _ => some (bayPlace w + o)
  -- partition control blocks
  | .start _ k | .stop _ k | .stopNow _ k => some (Off.part k oPART_CMD)
  | .partReset _ k => some (Off.part k oPART_RESET)
  | .swholdWrite _ k _ => some (Off.part k oHOLD_CTRL)
  | .memPsDone _ k _ | .memPsFail _ k _ => some (Off.part k oMEM_PS_DONE)
  | .recArm _ k | .recStart _ k | .recStop _ k | .recOff _ k | .recSnap _ k | .restore _ k => some (Off.part k oREC_CTRL)
  | .recRegionWrite _ k _ => some (Off.part k oREC_REGION)
  | .recTailWrite _ k _ => some (Off.part k oREC_TAIL_HI)
  | .cfgtxBegin _ dev k | .cfgtxCommit _ dev k | .cfgtxAbort _ dev k => some (if dev then oDEV_CFGTX else Off.part k oCFGTX)
  | .eseqStagingWrite _ k _ => some (Off.part k oESEQ_DATA_HI)
  -- die windows
  | .bedAccRead _ d | .bedAccWrite _ d _ _ => some (Off.die d oBED_ACC_CMD)
  | .wuAccRead _ d | .wuAccWrite _ d => some (Off.die d oWU_ACC_CMD)
  | .mortarAccRead _ d | .mortarAccWrite _ d | .laneCfgWrite _ d => some (Off.die d oMORTAR_ACC_CMD)
  | .memTcInv _ d _ => some (Off.die d oMEM_TC_INV_CMD)
  | .mmeFence _ d e _ => some (Off.die d (oMME_FENCE + 4 * e))
  | .newtReq _ d _ => some (Off.die d oNEWT_REQ)
  | .unpin _ d => some (Off.die d oNEWT_CTRL)
  | .dispFlagSet _ d _ _ | .dispFlagClear _ d _ _ => some (Off.die d oDISP_FLAG_SET)
  | .taskCfgWrite _ d _ => some (Off.die d oTASK_CFG)
  | .taskHistClear _ d => some (Off.die d oDISP_TASK_SEL)
  | .coreBindWrite _ d c _ | .coreReset _ d c => some (Off.die d (oCORE_BIND + 4 * c))
  | .queueCfgWrite _ d q _ => some (Off.queue d q oQUEUE_CFG)
  | .queueEnable _ d q | .queueDisable _ d q | .flush _ d q | .queueReset _ d q => some (Off.queue d q oQUEUE_CTRL)
  | .queuePop _ d q => some (Off.queue d q oQUEUE_DATA_LO)
  | .queuePush _ d q _ => some (Off.queue d q oQUEUE_DATA_HI)
  | .trigArm _ d u | .trigDisarm _ d u | .trigForce _ d u => some (Off.trig d u oTRIG_CTRL)
  | .probeMapWrite _ d _ | .probeMapRead _ d => some (Off.die d oPROBE_MAP_DATA)
  | .laneTrain _ p l _ => some (Off.lane p l oLANE_CTRL)
  | .linkBitslip _ p l => some (Off.lane p l oLINK_BITSLIP)
  | .rateReqSend _ p _ | .pstateRequest _ p _ => some (Off.port p oPORT_CMD)
  | .routeEntryRead _ d | .routeEntryWrite _ d => some (Off.die d oCN_ROUTE_CMD)
  | .ownershipEntryWrite _ d _ | .ownershipEntryRead _ d => some (Off.die d oHBM_OWN_DATA)
  | .gpTgtWrite _ pin second _ => some (Off.die (pin / 32) ((if second then oGP_TGT1 else oGP_TGT0) + 4 * (pin % 32)))
  | .gpOutSet _ b _ => some (Off.die b oGP_OUT_SET)
  | .gpOutClr _ b _ => some (Off.die b oGP_OUT_CLR)
  | .gpOutTgl _ b _ => some (Off.die b oGP_OUT_TGL)
  | .release _ b => some (Off.die b oGP_BANK)
  -- the device window
  | .debugCtrlWrite _ _ => some oDEBUG_CTRL
  | .enumStart _ => some oENUM_CTRL
  | .warmReset _ => some oRESET_CTRL
  | .loadGo _ => some oLOAD_CTRL
  | .recoveryGo _ => some oRECOVERY_CTRL
  | .updateWrite _ _ _ | .updateVerify _ _ _ | .activate _ _ _ | .confirm _ _ => some oUPDATE_CTRL
  | .lcTransition _ _ => some oLC_CTRL
  | .keyramLoad _ | .keyramWipe _ => some oKEYRAM_CTRL
  | .timeSet _ _ => some oTIME_SET_HI
  | .timeIncWrite _ _ => some oTIME_INC_HI
  | .synced _ => some oTIME_CTRL
  | .launchArm _ _ | .launchDisarm _ => some oTL_CFG
  | .meterExport _ => some oMETER_CFG
  | .plChangeRequest _ _ | .voltDone _ => some oPL_CTRL
  | .domainCtrlWrite _ _ => some oDOMAIN_CTRL
  | .park _ _ | .slumber _ _ | .cancel _ => some oPWR_CTRL
  | .routeDataWrite _ _ => some oROUTE_DATA
  | .periphEnWrite _ _ => some oPERIPH_EN
  | .evtSw _ _ => some oEVT_SW
  | _ => none

end Sys2Proof
end

