-- ==== Sys2Proof/Machine/Ops.lean ====
section
/-! DEFINITION. The operations that the commands share: identities and rights, answers, events, dispatcher flags,
queues, fault records, stops, holds and the plumb. -/

namespace Sys2Proof.Machine

open Reg

/-! ### Places -/

def wallIx (w : WallLoc) : Nat := 16 * w.die + w.wall
def courseIx (u : CourseLoc) : Nat := 16 * wallIx u.toWallLoc + u.course
def bedIx (b : BedLoc) : Nat := 16 * courseIx b.toCourseLoc + b.bed
def cellIx (c : CellLoc) : Nat := 16 * bedIx c.toBedLoc + c.cell

/-- Base of the register block of a slot, a die, a queue (128 die + queue), a port. -/
def P (k : Nat) : Nat := Off.part k 0
def D (d : Nat) : Nat := Off.die d 0
def Q (q : Nat) : Nat := Off.queue (q / 128) (q % 128) 0
def PT (p : Nat) : Nat := Off.port p 0

/-- Key of a bay word: flat wall, word address (R182). -/
def bayKey (wall a : Nat) : Nat := 131072 * wall + a % 131072

/-- The first number below `n` that meets `p`. -/
def firstIx (n : Nat) (p : Nat → Bool) : Option Nat := (List.range n).find? p

/-- Bytes of one stack of HBM, and of all (R401). -/
def stackBytes : Nat := 0xC00000000
def hbmBytes : Nat := 0x6000000000

def hbmDie (a : Nat) : Nat := a / stackBytes

/-- The entries of an array that are listed: index and value. -/
def State.listed (s : State) (a : Arr) : List (Nat × Nat) :=
  (s.arr.filter fun e => e.1 % 512 = a.code).map fun e => (e.1 / 512, e.2)

/-! ### The answer to an access (R394) -/

def State.ans (s : State) (status data : Nat) : State := { s with rsp := ⟨status, data, 0⟩ }

/-- OK, without data. -/
def State.okay (s : State) : State := s.ans 0 0

/-- DENIED. -/
def State.deny (s : State) : State := s.ans 1 0

/-! ### Routes (R385, R388, R389) -/

def routeIx (die ni e : Nat) : Nat := 4096 * die + 64 * ni + e

/-- This device's chain address (R327). -/
def State.chainAddr (s : State) : Nat := s.rf 0 CHAIN_STATUS_ADDR

/-- Entry `x` of the route tables holds what software wrote, or, from the FIRMWARE stage on, what the firmware did. The
manual says that the firmware writes the tables and not what (R389): its entries are free. (log 147 DESIGN CHOICE) -/
def State.routeByFw (s : State) (x : Nat) : Bool := s.on A.cnFw 0 ∧ ¬ s.on A.cnSet x

/-- CN_ROUTE_MATCH, CN_ROUTE_MASK and CN_ROUTE_PATH of an entry. -/
def State.routeMatchReg (s : State) (x : Nat) : Nat :=
  if s.routeByFw x then slice (Config.route x) 0 32 else s.rd A.cnMatch x
def State.routeMaskReg (s : State) (x : Nat) : Nat :=
  if s.routeByFw x then slice (Config.route x) 32 32 else s.rd A.cnMask x
/-- Log 107 DEDUCED. -/
def State.routePathReg (s : State) (x : Nat) : Nat :=
  if s.routeByFw x then slice (Config.route x) 64 32 else s.rd A.cnPath x

/-- Route table entry `x` matches a request: another device, or an own-device address. -/
def State.routeMatch (s : State) (x addr : Nat) : Bool :=
  let m := s.routeMatchReg x
  let own := slice addr 40 12 = s.chainAddr
  if slice m 31 1 = 0 then false
  else if slice m 20 1 = 1 then ¬ own
  else own ∧ slice m 19 1 = slice addr 39 1 ∧
    slice addr 20 19 &&& s.routeMaskReg x = slice m 0 19 &&& s.routeMaskReg x

/-- The route of a request: the lowest-numbered valid entry that matches. -/
def State.routeOf (s : State) (die ni addr : Nat) : Option Nat :=
  firstIx 64 fun e => s.routeMatch (routeIx die ni e) addr

/-- The target NI of an own-device address (R385): 64 die + number. -/
def targetNi (addr : Nat) : Nat :=
  let off := slice addr 0 39
  if slice addr 39 1 = 1 then 64 * hbmDie off + 36
  else if 0x1000000000 ≤ off then 64 * ((off - 0x1000000000) / 0x1000000) + 38
  else if off < 0x800000 then 39
  else 64 * (off / 0x800000 - 1) + (if 0x40800 ≤ off % 0x800000 ∧ off % 0x800000 < 0x42800 then 37 else 39)

/-- The die that holds the target of an own-device address. -/
def targetDie (addr : Nat) : Nat := targetNi addr / 64

/-- The die and NI that find no route for a request: the initiator's NI, or, for a target on another die, that die's
die-to-die bridge (R389). Until firmware has written the route tables, and while software has not either, requests are
delivered as they are. (log 147 DESIGN CHOICE) -/
def State.noRoute (s : State) (die ni addr : Nat) : Option (Nat × Nat) :=
  if ¬ s.on A.cnFw 0 ∧ (s.listed A.cnMatch).isEmpty then none
  else if (s.routeOf die ni addr).isNone then some (die, ni)
  else if slice addr 40 12 = s.chainAddr ∧ targetDie addr ≠ die ∧ (s.routeOf (targetDie addr) 42 addr).isNone then
    some (targetDie addr, 42)
  else none

/-- A request that its NI answers itself, or that a bridge could not forward: the last one is recorded. -/
def State.cnRecord (s : State) (die ni addr status : Nat) : State :=
  s.setPair (Off.die die oCN_ERR_ADDR_LO) (addr + 2 ^ 52 * ni + 2 ^ 58 * status)
def State.cnErr (s : State) (die ni addr status : Nat) : State := (s.cnRecord die ni addr status).ans status 0

/-- NO_ROUTE, counted (R388); the answer to the access. -/
def State.noteNoRoute (s : State) (x : Nat × Nat) (addr status : Nat) : State :=
  (s.cnt (Off.die x.1 0) CN_ERR_NO_ROUTE 1).cnRecord x.1 x.2 addr status
def State.answerNoRoute (s : State) (x : Nat × Nat) (addr : Nat) : State := (s.noteNoRoute x addr 5).ans 5 0

/-- The NI of an initiator: die and number (R385). -/
def whoNi : Who → Nat × Nat
  | .boot => (0, 44)
  | .core d c => (d, c)
  | .net p _ _ => (p / 2, 43)
  | _ => (0, 45)

/-- The route that the request of command `c` lacks, and its address. (log 106 DEDUCED) -/
def State.routeless (s : State) (who : Who) (c : Instr) : Option ((Nat × Nat) × Nat) :=
  c.place.bind fun o =>
    let addr := 2 ^ 40 * s.chainAddr + o
    (s.noRoute (whoNi who).1 (whoNi who).2 addr).map fun x => (x, addr)

/-! ### Power and clocks (R396, R417, R427, R432, R435) -/

/-- VDD is present (R435). -/
def State.powered (s : State) : Bool := s.rd A.pwMode 0 ≠ 3

/-- REFCLK is there, and has been since the last reset that brings the root PLLs back (R417). -/
def State.refOk (s : State) : Bool := s.rd A.refDead 0 = 0 ∧ s.rd A.refGone 0 = 0

/-- The clocks of the dies run: the device is in RUN, and REFCLK has not stopped. -/
def State.clocked (s : State) : Bool := s.rd A.pwMode 0 = 0 ∧ s.refOk

/-- What a unit of the dies does; without its clock it does nothing. -/
def State.live (s : State) (f : State → Host.Outcome State Fault Refusal) : Host.Outcome State Fault Refusal :=
  if s.clocked then f s else .next s

/-- What a unit of the always-on island, or an input pin, does; in OFF nothing. -/
def State.aon (s : State) (f : State → Host.Outcome State Fault Refusal) : Host.Outcome State Fault Refusal :=
  if s.powered then f s else .next s

/-- A wake becomes pending; one that is pending stays. Sources of LAST_WAKE: 1 PIN, 2 LINK, 3 TIMER, 4 PCIE, 5 NET,
6 SOFTWARE. -/
def State.wakePend (s : State) (source index : Nat) : State :=
  if s.rd A.pwWake 0 = 0 then s.wr A.pwWake 0 (source + 2 ^ 4 * index) else s

/-- An entry to PARK or SLUMBER is past DRAIN (R432). -/
def State.entering (s : State) : Bool := s.rf 0 PWR_CTRL_BUSY = 1 ∧ 2 ≤ s.rf 0 PWR_STATUS_PHASE

/-- The source that a request which reaches a parked device, or one in an entry, is a wake of (R427, R432, R433): an
access of the endpoint PCIE, any other NET. -/
def State.wakeSource (s : State) (pcie : Bool) : Nat :=
  if s.entering then 5
  else if pcie ∧ s.rf 0 WAKE_CFG_PCIE_EN = 1 then 4
  else if s.rf 0 WAKE_CFG_NET_EN = 1 then 5
  else 0

/-- An initiator behind the PCIe endpoint. -/
def isPcie : Who → Bool
  | .pf => true
  | .vf _ => true
  | _ => false

def State.loaded (s : State) (k : Nat) : Bool := s.rd A.pState k ≠ 0

/-- What the NI of an initiator writes into its request (R392). (log 40 DEDUCED) -/
def State.stampOf (s : State) : Who → Stamp
  | .boot => .boot
  | .pf => .pf
  | .vf n => if s.loaded n then .part (s.rd A.pPid n) else .nobody
  | .core d c =>
    let b := s.rd A.coreBind (32 * d + c)
    if slice b 8 1 = 1 then .part (slice b 0 8) else .pf
  | .net _ kind pid => if kind = 0 then .pf else if kind = 1 then .part pid.toNat else .boot

/-- The identity on an initiator's request: what its NI writes, or, on one that has waited, what it wrote then (R392). -/
def State.stamp (s : State) (w : Who) : Stamp :=
  match s.actAs with
  | none => s.stampOf w
  | some h => if h.who = w then h.stamp else s.stampOf w

/-- The target NI of a command's request; 512 stands for one that its command alone does not tell. (log 191 DESIGN CHOICE) -/
def requestNi (c : Instr) : Nat :=
  match c.place with
  | some o => targetNi o
  | none => match c with
    | .bar0Access _ _ off _ _ _ => targetNi off.toNat
    | _ => 512

/-- A request waits. `wakes`: for a domain or the device to wake, which pauses its timer. One that has waited before goes
on with its stamp and its timer. (log 191 DESIGN CHOICE) -/
def State.hold (s : State) (who : Who) (c : Instr) (wakes : Bool) : State :=
  let h : HeldReq := match s.actAs with
    | some h => { h with cmd := c, ni := requestNi c, wakes := wakes }
    | none => ⟨who, s.stamp who, requestNi c, c, wakes, 0, 0, false⟩
  { s with held := s.held ++ [h] }

/-- A request is held (R396); it is a wake where its source is enabled. -/
def State.holdReq (s : State) (who : Who) (c : Instr) (source : Nat) : State :=
  let s := s.hold who c true
  if source = 0 then s else s.wakePend source 0

/-- A request of the same initiator NI waits at the same target NI, which performs them in order (R390); the HBM controller
keeps an order of its own. (log 191 DESIGN CHOICE) -/
def State.waitsBehind (s : State) (who : Who) (c : Instr) : Bool :=
  requestNi c % 64 ≠ 36 ∧ s.held.any fun h => whoNi h.who = whoNi who ∧ h.ni = requestNi c

/-- The link bridge takes the request: it came from a port whose peer has a committed address (R393). -/
def State.accepts (s : State) : Who → Bool
  | .net p _ _ => s.rf (Off.port p 0) PORT_STATUS_PEER_VALID = 1
  | _ => true

/-- A request that has ceased to wait is performed: its NI's answer to one that timed out has been given, and the late
response is discarded and counted (R395). `r`, `out`: what stood before. -/
def State.performed (s : State) (h : HeldReq) (r : Rsp) (out : List Out) : State :=
  let s := { s with actAs := none }
  if ¬ h.dead ∨ s.held.any (·.cmd = h.cmd) then s
  else
    let more := (s.out.drop out.length).filter fun o => match o with
      | .completion _ _ _ => false
      | _ => true
    State.cnt { s with rsp := r, out := out ++ more } (Off.die (whoNi h.who).1 0) CN_ERR_LATE_RSP 1

/-- Perform command `c` by `f`; one that has waited keeps its stamp. -/
def State.perform (s : State) (c : Instr) (f : State → Host.Outcome State Fault Refusal) : Host.Outcome State Fault Refusal :=
  match s.resumed.find? (·.cmd = c) with
  | none => f s
  | some h => match f { s with resumed := s.resumed.erase h, actAs := some h } with
    | .next t => .next (t.performed h s.rsp s.out)
    | o => o

/-- A core that makes an access executes instructions: if it stalled on JNEXT, an interrupt has ended its idle state (R216). (log 159 DEDUCED) -/
def State.coreRuns (s : State) (who : Who) : State :=
  match who with
  | .core d k => if s.on A.coreIdle (32 * d + k) then s.wr A.coreIdle (32 * d + k) 0 else s
  | _ => s

/-- What a request of an initiator does. It waits behind the earlier ones of its NI; its NI looks its route up. One that reaches a parked device, or one past DRAIN
of an entry, is held as a wake; without clocks it gets no answer. `source`: the wake source in an entry. (log 193 DEDUCED) -/
def State.accessAs (s : State) (who : Who) (c : Instr) (source : Nat)
    (f : State → Host.Outcome State Fault Refusal) : Host.Outcome State Fault Refusal :=
  s.perform c fun s =>
    if s.clocked ∧ ¬ s.entering then
      if ¬ s.accepts who then .next (s.cnt (Off.die (whoNi who).1 0) CN_ERR_BRIDGE_DROP 1)
      else if s.waitsBehind who c then .next ((s.coreRuns who).hold who c false)
      else match s.routeless who c with
        | some x => .next ((s.coreRuns who).answerNoRoute x.1 x.2)
        | none => f (s.coreRuns who)
    else if s.rd A.pwMode 0 ≤ 1 ∧ s.refOk then
      .next ((s.coreRuns who).holdReq who c (if s.entering ∧ source ≠ 0 then source else s.wakeSource (isPcie who)))
    else .next s

def State.access (s : State) (who : Who) (c : Instr) (f : State → Host.Outcome State Fault Refusal) :
    Host.Outcome State Fault Refusal := s.accessAs who c 0 f

/-! ### Power domains (R396, R424) -/

def domFab : Nat := 0
def domMem : Nat := 1
def domLink : Nat := 2

def State.domOn (s : State) (die dom : Nat) : Bool := (s.reg oDOMAIN_STATUS).testBit (4 * die + dom)

/-- Requests that a sleeping unit or device held are performed next, in the order in which they came (R390, R396, R432). -/
def State.releaseHeld (s : State) : State :=
  if s.entering then s
  else { s with held := [], resumed := s.held ++ s.resumed, pending := s.held.map (·.cmd) ++ s.pending }

/-- A domain has powered up. -/
def State.domUp (s : State) (die dom : Nat) : State :=
  ((s.wr A.reg oDOMAIN_STATUS (patch (s.reg oDOMAIN_STATUS) (4 * die + dom) 1 1)).wr A.domWake (4 * die + dom) 0).releaseHeld

/-- Take a free value of `w` bits: the manual states no value here. (log 9 DESIGN CHOICE) -/
def State.free (s : State) (w : Nat) : Nat × State :=
  (Config.free s.freeCtr % 2 ^ w, { s with freeCtr := s.freeCtr + 1 })

/-- The target's WAKE notice (R396): to an initiator of this device it is the pause of its timer, to one of another device it
is a packet, of whose header only OP is known here. -/
def State.wakeNotice (s : State) (who : Who) : State :=
  match who with
  | .net _ _ _ =>
    let (v, s) := s.free 62
    { s with netOut := s.netOut ++ [⟨3 + 4 * v, 0⟩] }
  | _ => s

/-- What a request does that needs a domain: one that is off wakes, and the target holds the request until it is up. -/
def State.accessDom (s : State) (who : Who) (die dom : Nat) (c : Instr) (f : State → Host.Outcome State Fault Refusal) :
    Host.Outcome State Fault Refusal :=
  s.access who c fun s =>
    if s.domOn die dom then f s
    else .next (((s.wakeNotice who).hold who c true).wr A.domWake (4 * die + dom) 1)

/-! ### Bay words (R182, R191) -/

/-- The word of Newt's save buffer that serves a bay word: from MARCH to RESTORE, and while the region is pinned. -/
def State.newtServes (s : State) (wall a : Nat) : Option Nat :=
  let b := D (wall / 16)
  if 2 ≤ s.rf b NEWT_STATUS_PHASE ∧ s.rf b NEWT_STATUS_PHASE ≤ 6 ∧ s.rf b NEWT_STATUS_KIND = 0 ∧
      s.rf b NEWT_STATUS_WALL = wall % 16 ∧ s.rf b NEWT_STATUS_UNIT = a % 131072 / 512 then
    some (512 * (wall / 16) + a % 512)
  else none

/-- A bay word as a DUT or service access finds it, and its stored error. -/
def State.bayRd (s : State) (wall a : Nat) : Nat :=
  match s.newtServes wall a with
  | some j => s.rd A.newtBuf j
  | none => s.rd A.bay (bayKey wall a)
def State.bayErr (s : State) (wall a : Nat) : Nat :=
  match s.newtServes wall a with
  | some j => s.errOf A.newtBuf j
  | none => s.errOf A.bay (bayKey wall a)

/-- Write a bay word: to the save buffer where that serves it, in RESTORE to the array as well. -/
def State.bayWr (s : State) (wall a v : Nat) : State :=
  match s.newtServes wall a with
  | some j =>
    let s := s.wrE A.newtBuf j v
    if s.rf (D (wall / 16)) NEWT_STATUS_PHASE = 5 then s.wrE A.bay (bayKey wall a) v else s
  | none => s.wrE A.bay (bayKey wall a) v

/-! ### Identity and rights (R392, R393, R461) -/

/-- The rights of the physical function: its own, the boot controller's (R393), an unbound core's (R213). (log 40 DEDUCED) -/
def State.pfRights (s : State) (w : Who) : Bool := s.stamp w = .pf ∨ s.stamp w = .boot

/-- The initiator may act for partition `pid`. -/
def State.mayPid (s : State) (w : Who) (pid : Nat) : Bool := s.pfRights w ∨ s.stamp w = .part pid

/-- The initiator carries the partition that owns something. -/
def State.isOwner (s : State) (w : Who) (owner : Option Nat) : Bool := owner.any fun pid => decide (s.stamp w = .part pid)

/-- The initiator may act on partition slot `k` (R464). -/
def State.maySlot (s : State) (w : Who) (k : Nat) : Bool :=
  s.pfRights w ∨ (s.loaded k ∧ s.stamp w = .part (s.rd A.pPid k))

/-- The slot that holds partition `pid`. -/
def State.slotOfPid (s : State) (pid : Nat) : Option Nat := firstIx 32 fun k => s.loaded k ∧ s.rd A.pPid k = pid

/-- The slot that owns a wall. -/
def State.slotOfWall (s : State) (w : Nat) : Option Nat :=
  if s.rd A.wallOwner w = 0 then none else some (s.rd A.wallOwner w - 1)

/-- The initiator may act on a wall: its partition's, or, on a wall without owner, the physical function (R54). -/
def State.mayWall (s : State) (w : Who) (wall : Nat) : Bool :=
  match s.slotOfWall wall with
  | none => s.pfRights w
  | some k => s.maySlot w k

/-- Number of the function that keeps its own copy of a register (R249, R464): 0 to 32 the PCIe functions, 33 the boot
controller, 34 the cores. -/
def whoFunc : Who → Nat
  | .pf => 0
  | .vf n => n + 1
  | .boot => 33
  | .core _ _ => 34
  | .net _ _ _ => 35

/-! ### Time and addresses -/

def State.timeNs (s : State) : Nat := s.pair oTIME_NS_LO
def State.mono (s : State) : Nat := s.pair oMONO_NS_LO

/-! ### Control symbols on the tree -/

def State.portUp (s : State) (p : Nat) : Bool := s.rf (PT p) PORT_STATUS_UP = 1

/-- A symbol has arrived on port `p` (R319). -/
def State.heard (s : State) (p : Nat) : State := s.wr A.ptSeen p s.mono

/-- Queue a control symbol on a port; a port that is down sends nothing. (log 85 DESIGN CHOICE) -/
def State.sendSym (s : State) (p : Nat) (y : Sym) : State :=
  if s.portUp p then { s with symOut := s.symOut ++ [⟨p, none, y⟩] } else s

def State.treeChildren (s : State) : List Nat :=
  (List.range 16).filter fun p => (s.rf 0 CHAIN_TREE_CHILDREN).testBit p ∧ s.rf 0 CHAIN_TREE_VALID = 1

def State.treeParent (s : State) : Option Nat :=
  if s.rf 0 CHAIN_TREE_VALID = 1 ∧ s.rf 0 CHAIN_TREE_ROOT = 0 then some (s.rf 0 CHAIN_TREE_PARENT) else none

def State.treePorts (s : State) : List Nat := s.treeParent.toList ++ s.treeChildren

/-- Send a symbol on every port of the spanning tree but `except`. -/
def State.sendTree (s : State) (except : Option Nat) (y : Sym) : State :=
  (s.treePorts.filter fun p => some p ≠ except).foldl (fun s p => s.sendSym p y) s

/-! ### Dispatcher flags and events (R226 to R228, R471 to R473) -/

/-- The wait condition of a task (R228), by its mask and mode in force. -/
def taskMet (mask mode flags : Nat) : Bool :=
  if mode = 0 then mask ≠ 0 ∧ flags &&& mask = mask else flags &&& mask ≠ 0

/-- Put task `t` in READY, with status `tmo`. -/
def State.taskReady (s : State) (t tmo : Nat) : State :=
  let o := s.rd A.tOrderCtr (t / 512)
  ((((s.wr A.tState t 2).wr A.tTmo t tmo).wr A.tReadyAt t s.mono).wr A.tOrder t o).wr A.tOrderCtr (t / 512) (o + 1)

/-- A task in WAIT whose flags meet its mask becomes READY. -/
def State.taskCheck (s : State) (t : Nat) : State :=
  if s.rd A.tState t = 1 ∧ taskMet (s.rd A.tMaskNow t) (slice (s.rd A.tTimeoutNow t) 24 1) (s.rd A.tFlags t) then
    s.taskReady t 0
  else s

/-- A task enters WAIT with the settings of its registers (R225). -/
def State.taskWait (s : State) (t : Nat) : State :=
  let s := ((s.wr A.tState t 1).wr A.tSince t s.mono).wr A.tMaskNow t (s.rd A.tMask t)
  let s := (s.wr A.tCfgNow t (s.rd A.tCfg t)).wr A.tArgNow t (s.rd A.tArg t)
  (s.wr A.tTimeoutNow t (s.rd A.tTimeout t)).taskCheck t

def State.setFlag (s : State) (t f : Nat) : State :=
  (s.wr A.tFlags t (s.rd A.tFlags t ||| 2 ^ f)).taskCheck t

/-- The partition that owns queue `q`, none for NOPID = 1. -/
def State.qOwner (s : State) (q : Nat) : Option Nat :=
  if s.rf (Q q) QUEUE_CFG_NOPID = 1 then none else some (s.rf (Q q) QUEUE_CFG_OWNER)

/-- Place of the target-port binding register `n` (0 or 1) of a pin, and its value (R447). -/
def State.gpTgt (s : State) (pin n : Nat) : Nat :=
  s.reg (Off.die (pin / 32) ((if n = 0 then oGP_TGT0 else oGP_TGT1) + 4 * (pin % 32)))

/-- Flat wall of a target-port binding. -/
def tgtWall (v : Nat) : Nat := 16 * slice v 28 3 + slice v 2 4

/-- Owner of a pin (R448, R471): the partition of the wall of an enabled binding, GP_TGT0's first. -/
def State.pinOwner (s : State) (pin : Nat) : Option Nat :=
  [s.gpTgt pin 0, s.gpTgt pin 1].findSome? fun v =>
    if slice v 0 1 = 1 then (s.slotOfWall (tgtWall v)).map (s.rd A.pPid ·) else none

/-- Owner of an event source (R471). -/
def State.evtOwner (s : State) (src : Nat) : Option Nat :=
  if src < 0x100 then s.pinOwner src
  else if src < 0x500 then s.qOwner (src - 0x100)
  else if src < 0x580 then
    (if s.loaded ((src - 0x500) % 32) then some (s.rd A.pPid ((src - 0x500) % 32)) else none)
  else if src < 0x5A0 then
    (let b := Off.trig ((src - 0x580) / 4) ((src - 0x580) % 4) 0
     if s.rf b TRIG_CFG_OWNED = 1 then some (s.rf b TRIG_CFG_OWNER) else none)
  else if src < 0x5C0 then none
  else
    (let v := s.rd A.evtSwOwn (src - 0x5C0)
     if slice v 8 1 = 1 then some (slice v 0 8) else none)

/-- A routed event sets its flag, or is dropped and counted (R227). -/
def State.routeFlag (s : State) (owner : Option Nat) (v : Nat) : State :=
  if slice v 0 1 = 0 then s
  else
    let d := slice v 1 3
    let t := 512 * d + slice v 4 9
    let nopid := slice (s.rd A.tCfgNow t) 16 1 = 1
    if owner = none ∨ nopid ∨ owner = some (slice (s.rd A.tCfgNow t) 8 8) then s.setFlag t (slice v 13 5)
    else s.cnt (D d) DISP_XPART_DROP_DROPS 1

/-- A routed event signals its vector, or is dropped and counted (R473). -/
def State.routeVec (s : State) (owner : Option Nat) (v : Nat) : State :=
  if slice v 0 1 = 0 then s
  else
    let f := slice v 1 6
    let n := if f = 33 then 0 else slice v 7 10
    let vfOk := f = 0 ∨ f = 33 ∨
      (s.loaded (f - 1) ∧ owner = some (s.rd A.pPid (f - 1)))
    if s.rd A.funcOff f = 0 ∧ vfOk then s.wr A.vecRaised (1024 * f + n) 1
    else s.cnt 0 EVT_DROP_DROPS 1

/-- Raise event source `src` (R472). -/
def State.raise (s : State) (src : Nat) : State :=
  let o := oEVT_STATUS + 4 * (src / 32)
  let s := s.wr A.reg o (s.reg o ||| 2 ^ (src % 32))
  let owner := s.evtOwner src
  (s.routeFlag owner (s.rd A.evtFlag src)).routeVec owner (s.rd A.evtVec src)

/-! ### Queues (chapter 10) -/

def State.qEn (s : State) (q : Nat) : Bool := s.rf (Q q) QUEUE_CTRL_EN = 1
def State.qClass (s : State) (q : Nat) : Nat := s.rf (Q q) QUEUE_CFG_CLASS
/-- SIZE in words (R235). -/
def State.qWords (s : State) (q : Nat) : Nat := (s.rf (Q q) QUEUE_CFG_SIZE + 1) * 512
def State.qPackets (s : State) (q : Nat) : List QPacket := s.packets.filter fun p => p.queue = q
/-- Words of open and closed packets (R238). -/
def State.qUsed (s : State) (q : Nat) : Nat := ((s.qPackets q).map fun p => p.words.length).sum
/-- A push of `n` words fits (R238). -/
def State.qFits (s : State) (q n : Nat) : Bool := s.qUsed q + n ≤ s.qWords q
/-- DEPTH: words in readable packets. -/
def State.qDepth (s : State) (q : Nat) : Nat :=
  (((s.qPackets q).filter (·.readable)).map fun p => p.words.length).sum

/-- Remove the first packet that meets `p`. -/
def dropFirst (p : QPacket → Bool) : List QPacket → List QPacket
  | [] => []
  | x :: r => if p x then r else x :: dropFirst p r

/-- Keep DEPTH, before it changes, in HWM. -/
def State.qMark (s : State) (q : Nat) : State :=
  s.wf (Q q) QUEUE_HWM_HWM (max (s.rf (Q q) QUEUE_HWM_HWM) (s.qDepth q))

/-- The consumer stands within a packet. -/
def State.qWithin (s : State) (q : Nat) : Bool := (s.qPackets q).any (·.popped)

/-- A pending flush takes effect at a packet boundary: every closed packet goes (R242). -/
def State.qFlushed (s : State) (q : Nat) : State :=
  if s.rf (Q q) QUEUE_CTRL_FLUSH_PENDING = 1 ∧ ¬ s.qWithin q then
    { s.qMark q with packets := s.packets.filter fun p => ¬ (p.queue = q ∧ p.closed) }.wf (Q q) QUEUE_CTRL_FLUSH_PENDING 0
  else s

/-- Discard the oldest readable packet of a log queue (R240). One partly popped leaves the consumer at a packet boundary,
where a pending flush takes effect (R242). -/
def State.qDiscard (s : State) (q : Nat) : State :=
  { s.cnt (Q q) QUEUE_LOST_LOST 1 with packets := dropFirst (fun p => p.queue = q ∧ p.readable) s.packets }.qFlushed q

/-- Discard readable packets, oldest first, until `n` words fit; at most `fuel` of them. -/
def State.qMakeRoom (s : State) (q n : Nat) : Nat → State
  | 0 => s
  | fuel + 1 =>
    if s.qFits q n ∨ ((s.qPackets q).filter (·.readable)).isEmpty then s
    else (s.qDiscard q).qMakeRoom q n fuel

/-- A push of `n` words updates the queue's pointers: it fits, or a log queue discards for it. -/
def State.qTakes (s : State) (q n : Nat) : Bool :=
  let t := if s.qClass q = 2 then s.qMakeRoom q n s.packets.length else s
  t.qFits q n ∨ t.packets.length ≠ s.packets.length

/-- Append a closed packet; it becomes readable 2 CCLK later (R237). -/
def State.qAppend (s : State) (q producer : Nat) (words : List Nat) : State :=
  { s with packets := s.packets ++ [⟨q, producer, words.map (slice · 0 64), true, false, false⟩] }

/-- Empty a queue (R243). -/
def State.qEmpty (s : State) (q : Nat) : State :=
  { s.qMark q with packets := s.packets.filter fun p => p.queue ≠ q }.wf (Q q) QUEUE_CTRL_FLUSH_PENDING 0

/-- Producers that are units of the device. -/
def deviceProducer : Nat := 100

/-! ### Locations and fault records (R7, R8, R177) -/

def Loc.ofCell (c : Nat) : Loc := ⟨0, c / 65536, c / 4096 % 16, c / 256 % 16, c / 16 % 16, c % 16⟩
def Loc.ofBed (b : Nat) : Loc := ⟨1, b / 4096, b / 256 % 16, b / 16 % 16, b % 16, 0⟩
def Loc.ofCourse (u : Nat) : Loc := ⟨2, u / 256, u / 16 % 16, u % 16, 0, 0⟩
def Loc.ofWall (w : Nat) : Loc := ⟨3, w / 16, w % 16, 0, 0, 0⟩
def Loc.ofDie (d : Nat) : Loc := ⟨4, d, 0, 0, 0, 0⟩
def Loc.device : Loc := ⟨5, 0, 0, 0, 0, 0⟩

/-- Word 0 of a fault record. `pid` none is NOPID = 1. -/
def recWord0 (code : Nat) (pid : Option Nat) (dev : Nat) (l : Loc) (timed : Nat) (action seq : Nat) : Nat :=
  code + 2 ^ 8 * pid.getD 0 + 2 ^ 16 * dev + 2 ^ 28 * l.die + 2 ^ 31 * bit pid.isNone + 2 ^ 32 * l.wall +
  2 ^ 36 * l.course + 2 ^ 40 * l.bed + 2 ^ 44 * l.cell + 2 ^ 48 * l.level + 2 ^ 51 * timed + 2 ^ 52 * action +
  2 ^ 56 * seq

/-- Push a record (R239, R240): only an enabled log queue that no other partition owns takes it; any other drop is
counted. `pid` is the record's partition, none for a device record. `check` is what the update of the queue's pointers
does before it (R246). -/
def State.putRecord (s : State) (check : State → State) (q : Nat) (pid : Option Nat) (words : List Nat) : State :=
  let mine := s.qOwner q = none ∨ s.qOwner q = pid
  if ¬ (s.qEn q ∧ s.qClass q = 2 ∧ mine) then s.cnt (D (q / 128)) QUEUE_DIE_STATUS_REC_DROP 1
  else
    let s := if s.qTakes q words.length then check s else s
    let s := s.qMakeRoom q words.length s.packets.length
    if s.qFits q words.length then s.qAppend q deviceProducer words else s.cnt (Q q) QUEUE_LOST_LOST 1

/-- How a record is pushed: the queue, the record's partition, its words. -/
abbrev Push := State → Nat → Option Nat → List Nat → State

/-- A record of partition slot `k` at position `cyc`:`step` goes to its log queue, counted and numbered, or, beyond 64
records of a die in one emulated cycle, is suppressed (R174, R177). -/
def State.partRecordBy (push : Push) (s : State) (k code : Nat) (l : Loc) (cyc step action detail : Nat) : State :=
  let c := 32 * l.die + k
  if s.rd A.recCnt c < 64 then
    let pid := s.rd A.pPid k
    let q := 128 * s.rf (P k) FAULT_CFG_LOG_DIE + s.rf (P k) FAULT_CFG_LOG_QUEUE
    let w := [recWord0 code (some pid) s.chainAddr l 1 action (s.rd A.recSeq k), cyc + 2 ^ 48 * step, s.timeNs, detail]
    let s := push s q (some pid) w
    let s := (s.wr A.recCnt c (s.rd A.recCnt c + 1)).wr A.recSeq k (s.rd A.recSeq k + 1)
    s.cnt (P k) FAULT_COUNT_RECORDS 1
  else s.cnt (P k) FAULT_COUNT_SUPPRESSED 1

/-- A record without a partition (R169, R177): to the queue that DEV_FAULT_CFG names; source 0x5BE is raised. -/
def State.devRecordBy (push : Push) (s : State) (code : Nat) (l : Loc) (action detail : Nat) : State :=
  let q := 128 * s.rf 0 DEV_FAULT_CFG_LOG_DIE + s.rf 0 DEV_FAULT_CFG_LOG_QUEUE
  let w := [recWord0 code none s.chainAddr l 0 action (s.rd A.devSeq 0), 0, s.timeNs, detail]
  ((push s q none w).wr A.devSeq 0 (s.rd A.devSeq 0 + 1)).raise 0x5BE

/-- A start or stop event of REC_CFG (R260): 1 assertion, 2 other fault record, 3 timed-launch start frame,
0x20 + 4 die + unit a trigger unit. -/
def State.recEvent (s : State) (k src : Nat) : State :=
  let s := if s.rf (P k) REC_CFG_START_SRC = src then s.wr A.recWant k (s.rd A.recWant k ||| 4) else s
  if s.rf (P k) REC_CFG_STOP_SRC = src then s.wr A.recWant k (s.rd A.recWant k ||| 8) else s

/-- Push a record of slot `k`. An assertion is a recorder event, suppressed or not, any other record where it is pushed
(R174, R260). -/
def State.recordBy (push : Push) (s : State) (k code : Nat) (l : Loc) (cyc step action detail : Nat) : State :=
  let told := s.rd A.recCnt (32 * l.die + k) < 64
  let s := s.partRecordBy push k code l cyc step action detail
  if code = 1 then s.recEvent k 1 else if told then s.recEvent k 2 else s

/-- FAULT_STATUS keeps the first fault (R172). -/
def State.firstFault (s : State) (k code from_ : Nat) : State :=
  if s.rf (P k) FAULT_STATUS_VALID = 1 then s
  else
    ((s.wf (P k) FAULT_STATUS_FIRST_CODE code).wf (P k) FAULT_STATUS_VALID 1).wf (P k) FAULT_STATUS_FIRST_FROM from_

/-! ### Positions (R8, R28) -/

/-- The partition is between emulated cycles of a start that has not begun one: gate rounds, or the wait before its
first emulated cycle. -/
def State.preFirst (s : State) (k : Nat) : Bool := s.rd A.pBegun k = 0

/-- Slot `k` is in RUN and performs an evaluation step. (log 13 DEDUCED) -/
def State.evaluating (s : State) (k : Nat) : Bool :=
  s.rd A.pState k = 2 ∧ ¬ s.preFirst k ∧ ¬ s.on A.pGate k ∧ ¬ s.on A.pFrozen k ∧ s.rd A.pStep k < s.rd A.pDepth k

/-- Step that names the partition's position (R8): 0 before the first emulated cycle, D+15 at the gate, else the step it
performs. During a hold that is the frozen step: a member without a frozen step of its own has completed the step in
`pStep` and begins no further one (R139). (log 168 DEDUCED, 172 DESIGN CHOICE) -/
def State.posStep (s : State) (k : Nat) : Nat :=
  if s.preFirst k then 0
  else if s.on A.pGate k then s.rd A.pDepth k + 15
  else if s.rd A.pState k = 3 ∧ ¬ s.on A.pFrozen k then s.rd A.pStep k + 1
  else s.rd A.pStep k

/-- The counter names the emulated cycle after the present one: step D+12 has been performed, and not at the counter's
limit (R28). -/
def State.counted (s : State) (k : Nat) : Bool :=
  let d := s.rd A.pDepth k
  ¬ s.preFirst k ∧ ¬ s.on A.pLimit k ∧
    (s.on A.pGate k ∨ d + 12 < s.rd A.pStep k ∨
      (s.rd A.pStep k = d + 12 ∧ s.rd A.pState k ≠ 2 ∧ ¬ s.on A.pFrozen k))

/-- Emulated cycle that names the partition's position. -/
def State.posCycle (s : State) (k : Nat) : Nat := if s.counted k then s.rd A.pCycle k - 1 else s.rd A.pCycle k

/-- Steps of slot `k` from `cyc`:`step` to its position. -/
def State.stepsSince (s : State) (k cyc step : Nat) : Nat :=
  (s.posCycle k * (s.rd A.pDepth k + 16) + s.posStep k) - (cyc * (s.rd A.pDepth k + 16) + step)

/-- An update of a queue whose pointer copies differ (R246): the queue resets itself, PTR_FAULTS counts, and the record
of class N (R169, R179) goes to the owner's log queue, or to the device's. (log 50 DEDUCED) -/
def State.ptrFault (push : Push) (s : State) (q : Nat) : State :=
  let s := ((s.qEmpty q).wr A.qPtrBad q 0).cnt (Q q) QUEUE_HWM_PTR_FAULTS 1
  match (s.qOwner q).bind s.slotOfPid with
  | some k =>
    let s := s.recordBy push k 0x41 (Loc.ofDie (q / 128)) (s.posCycle k) (s.posStep k) 0 (q % 128)
    (s.firstFault k 0x41 s.chainAddr).raise (0x500 + k)
  | none => s.devRecordBy push 0x41 (Loc.ofDie (q / 128)) 0 (q % 128)

/-- Push a record; `n` bounds how many log queues in a row are found with differing pointers. (log 50 DEDUCED) -/
def State.pushRecordN : Nat → Push
  | 0, s, q, pid, words => s.putRecord (fun s => s) q pid words
  | n + 1, s, q, pid, words =>
    s.putRecord (fun s => if s.on A.qPtrBad q then s.ptrFault (State.pushRecordN n) q else s) q pid words

def State.pushRecord (s : State) (q : Nat) (pid : Option Nat) (words : List Nat) : State :=
  State.pushRecordN 4 s q pid words

def State.devRecord (s : State) (code : Nat) (l : Loc) (action detail : Nat) : State :=
  s.devRecordBy State.pushRecord code l action detail

/-- The comparison of the pointer copies at an update of queue `q` (R246). (log 50 DEDUCED) -/
def State.qCheck (s : State) (q : Nat) : State :=
  if s.on A.qPtrBad q then s.ptrFault State.pushRecord q else s

/-- A unit of the device writes a packet (R239). -/
def State.qDeliver (s : State) (q : Nat) (words : List Nat) : State := (s.qCheck q).qAppend q deviceProducer words

/-! ### Holds (R136 to R144) -/

/-- The plumb pulls of slot `k` (R147, R149): HOLD in bit 0, G0 to G2 in bits 1 to 3. A severed partition pulls all
four (R157). -/
def State.pulls (s : State) (k : Nat) : Nat :=
  if s.rd A.pState k = 5 then 15
  else bit (s.causes.any fun c => c.1 = k) + 2 * s.rd A.gatePull k

/-- The plumb mode of a slot (R146). -/
def State.plumbMode (s : State) (k : Nat) : Nat := s.rf (P k) PLUMB_CFG_MODE

/-- The device's own pulls of a partition ID on the tree: those of a member in MODE 2; where it is no member, the pulls
of a link loss (R157). -/
def State.plumbOwn (s : State) (pid : Nat) : Nat :=
  match s.slotOfPid pid with
  | some k => if s.plumbMode k = 2 then s.pulls k else 0
  | none => s.rd A.plumbForce pid

/-- The upward plumb state of a partition ID (R150): own pulls and those of the children. -/
def State.plumbMine (s : State) (pid : Nat) : Nat :=
  s.treeChildren.foldl (fun v p => v ||| s.rd A.plumbUp (256 * p + pid)) (s.plumbOwn pid)

/-- Send the upward state when it has changed; the root forms the combined state and sends it down (R150). Without a
tree nothing is sent. -/
def State.plumbSync (s : State) (pid : Nat) : State :=
  let v := s.plumbMine pid
  if s.rf 0 CHAIN_TREE_VALID = 0 ∨ v = s.rd A.plumbSent pid then s
  else
    let s := s.wr A.plumbSent pid v
    match s.treeParent with
    | some p => s.sendSym p (.plumbUp pid v)
    | none => s.treeChildren.foldl (fun s p => s.sendSym p (.plumbDown pid v)) (s.wr A.plumbDown pid v)

/-- The plumb states begin anew with the tree of an epoch: nothing has been sent on it. -/
def State.plumbClear (s : State) : State :=
  [A.plumbUp, A.plumbDown, A.plumbSent, A.plumbForce].foldl (fun s a => s.drop a fun _ => true) s

/-- The device is part of the tree of the epoch, and sends the states of every partition ID that are not 0. -/
def State.plumbBegin (s : State) : State := s.each 256 State.plumbSync

/-- The plumb mode of a slot is the tree (R146). -/
def State.treeMode (s : State) (k : Nat) : Bool := s.plumbMode k = 2

/-- After a change of the pulls of slot `k`. -/
def State.pullsChanged (s : State) (k : Nat) : State :=
  if s.treeMode k then s.plumbSync (s.rd A.pPid k) else s

def State.hasCause (s : State) (k c : Nat) : Bool := s.causes.contains (k, c)

/-- Hold cause `c` becomes present (R136). -/
def State.addCause (s : State) (k c : Nat) : State :=
  if s.hasCause k c then s else { s with causes := s.causes ++ [(k, c)] }.pullsChanged k

/-- Hold cause `c` goes. -/
def State.dropCause (s : State) (k c : Nat) : State :=
  if s.hasCause k c then { s with causes := s.causes.filter (· ≠ (k, c)) }.pullsChanged k else s

/-- The combined plumb state that member `k` observes, given the pulls `others` of the bus partners (R146). (log 84 DESIGN CHOICE) -/
def State.combined (s : State) (k : Nat) (others : Nat) : Nat :=
  match s.plumbMode k with
  | 1 => s.pulls k ||| others
  | 2 => if s.rf 0 CHAIN_TREE_VALID = 1 then s.rd A.plumbDown (s.rd A.pPid k) else s.pulls k
  | _ => s.pulls k

/-- RUN to HELD (R144): counted, the hold timer starts. (log 176 DESIGN CHOICE) -/
def State.enterHeld (s : State) (k : Nat) : State :=
  let s := (s.wr A.pState k 3).cnt (P k) HOLD_COUNT_COUNT 1
  let s := (s.wr A.holdTimer k 0).wr A.limitNow k (s.rf (P k) HOLD_LIMIT_LIMIT_US)
  s.wr A.heldStep k (s.posStep k)

/-! ### The plumb bus (R147) -/

/-- The device has a position on the plumb bus. -/
def State.onBus (s : State) : Bool := s.rf 0 PLUMB_BUS_STATUS_SYNC_LOCK = 1 ∧ s.rf 0 CHAIN_STATUS_NOBUS = 0

/-- Slots of the bus frame that the device drives, bit i slot i: as lead the sync pattern, its roll call, and the pulls of
its MODE 1 partitions on their channels. (log 140 DESIGN CHOICE, 175 DESIGN CHOICE) -/
def State.busDriven (s : State) : Nat :=
  if ¬ s.onBus then 0
  else
    (List.range 32).foldl (fun v k =>
        if s.loaded k ∧ s.plumbMode k = 1 then v ||| s.pulls k * 2 ^ (20 + 4 * s.rf (P k) PLUMB_CFG_CHANNEL) else v)
      (0xB * s.rf 0 PLUMB_BUS_STATUS_LEAD + 2 ^ (4 + s.rf 0 PLUMB_BUS_STATUS_BUS_POS))

/-- Remove what only a stepping partition has: late items and their causes. -/
def State.dropLate (s : State) (k : Nat) : State :=
  ({ s with late := s.late.filter fun i => i.slot ≠ k }.dropCause k 1).dropCause k 2

/-- The lower half that a write of HI completes (R11): the LO held, else `cur`; the held LO is taken. -/
def State.takeLo (s : State) (lo cur : Nat) : Nat × State :=
  let h := s.rd A.heldLo lo
  (if slice h 32 1 = 1 then slice h 0 32 else cur, s.wr A.heldLo lo 0)

end Sys2Proof.Machine
end

