-- ==== Sys2Proof/Machine/RecOps.lean ====
section
/-! DEFINITION. The recorder's packets and region (R250 to R264), as the other units use them. -/

namespace Sys2Proof.Machine

open Reg

/-- A 36-bit region offset in a LO/HI pair. -/
def State.recHead (s : State) (k : Nat) : Nat := s.reg (P k + oREC_HEAD_LO) + 2 ^ 32 * slice (s.reg (P k + oREC_HEAD_HI)) 0 4
def State.recTail (s : State) (k : Nat) : Nat := s.reg (P k + oREC_TAIL_LO) + 2 ^ 32 * slice (s.reg (P k + oREC_TAIL_HI)) 0 4
def State.setRecHead (s : State) (k v : Nat) : State := s.setPair (P k + oREC_HEAD_LO) (v % 2 ^ 36)
def State.setRecTail (s : State) (k v : Nat) : State := s.setPair (P k + oREC_TAIL_LO) (v % 2 ^ 36)

/-- Size and HBM address of a region (R250). -/
def State.regionBytes (s : State) (k : Nat) : Nat := (s.rf (P k) REC_REGION_SIZE + 1) * 2 ^ 30
def State.regionBase (s : State) (k : Nat) : Nat := s.rf (P k) REC_REGION_BASE * 2 ^ 30

/-- Walls of a slot, ascending. -/
def State.wallsOf (s : State) (k : Nat) : List Nat := (List.range 128).filter fun w => s.slotOfWall w = some k

/-- Block of a trigger unit (4 die + unit), and its owner. -/
def TU (u : Nat) : Nat := Off.trig (u / 4) (u % 4) 0
def State.unitOwner (s : State) (u : Nat) : Option Nat :=
  if s.rf (TU u) TRIG_CFG_OWNED = 1 then some (s.rf (TU u) TRIG_CFG_OWNER) else none

/-- Trigger units that a partition owns, ascending. -/
def State.unitsOf (s : State) (k : Nat) : List Nat :=
  (List.range 32).filter fun u => s.unitOwner u = some (s.rd A.pPid k)

/-- The die whose recorder writes the packets that belong to no die: the first with a wall or a trigger unit of the
partition. (log 143 DESIGN CHOICE) -/
def State.homeDie (s : State) (k : Nat) : Nat :=
  ((firstIx 8 fun d => (s.wallsOf k).any (· / 16 = d) || (s.unitsOf k).any (· / 4 = d))).getD 0

/-- Packets of a slot that the region retains, oldest first. -/
def State.kept (s : State) (k : Nat) : List RecPkt := s.recLog.filter fun p => p.slot = k ∧ ¬ p.waiting
def State.regionUsed (s : State) (k : Nat) : Nat := ((s.kept k).map (·.bytes)).sum

/-- A packet of the background copy, which reads its rows or words only when it can write them (R255). -/
def RecPkt.bulk (p : RecPkt) : Bool := p.typ = 3 ∧ slice (p.body.headD 0) 0 4 ≤ 1 ∧ slice (p.body.headD 0) 16 1 = 0

/-- The packet stands in its die's write buffer: on its way to HBM, or for want of region space (R261, R262). -/
def RecPkt.inBuf (p : RecPkt) : Bool := p.buffered ∨ (p.waiting ∧ ¬ p.bulk)

/-- Bytes in a die's write buffer (R261). -/
def State.bufBytes (s : State) (die : Nat) : Nat :=
  ((s.recLog.filter fun p => p.die = die ∧ p.inBuf).map (·.bytes)).sum

def State.recState (s : State) (k : Nat) : Nat := s.rf (P k) REC_CTRL_STATE
def State.replaying (s : State) (k : Nat) : Bool := s.rf (P k) REC_REPLAY_REPLAY = 1

/-- The recorder of slot `k` writes inputs (R251, R267). -/
def State.recording (s : State) (k : Nat) : Bool :=
  (s.recState k = 2 ∨ s.recState k = 3) ∧ ¬ s.replaying k ∧ s.rd A.recMute k = 0

/-- A recorder condition of R136 is present for slot `k`. -/
def State.recHolds (s : State) (k : Nat) : Bool :=
  s.rf (P k) REC_STATUS_FULL = 1 ∨ s.rf (P k) REC_STATUS_BACKLOG = 1


/-- SNAPPING and CARRY_OPEN follow the snapshots in progress (R256). -/
def State.snapFlags (s : State) (k : Nat) : State :=
  (s.wf (P k) REC_STATUS_SNAPPING (bit (s.snaps.any fun x => x.slot = k ∧ ¬ x.copied))).wf (P k) REC_STATUS_CARRY_OPEN
    (bit (s.snaps.any fun x => x.slot = k ∧ x.copied ∧ ¬ x.ended))

/-- Snapshots in progress are abandoned without SNAP_END (R260). -/
def State.snapAbandon (s : State) (k : Nat) : State :=
  State.snapFlags { s with snaps := s.snaps.filter fun x => x.slot ≠ k } k

/-- The oldest segment of a slot: a SNAP_BEGIN and what follows it up to the next (R263); before the first SNAP_BEGIN,
the packets that precede it. -/
def oldestSegment : List RecPkt → Nat
  | [] => 0
  | p :: r => p.bytes + go r
where
  go : List RecPkt → Nat
    | [] => 0
    | p :: r => if p.typ = 2 then 0 else p.bytes + go r

/-- Drop packets from the front of a region until `n` bytes have gone. -/
def dropBytes (k : Nat) : Nat → List RecPkt → List RecPkt
  | _, [] => []
  | n, p :: r =>
    if p.slot = k ∧ ¬ p.waiting ∧ 0 < n then dropBytes k (n - p.bytes) r else p :: dropBytes k n r

/-- The slot whose region a restore or replay reads. -/
def State.srcSlot (s : State) (k : Nat) : Nat := if s.replaying k then s.rf (P k) REC_REPLAY_SRC_SLOT else k

/-- The feed of slot `k` reads. -/
def State.feeding (s : State) (k : Nat) : Bool := s.replaying k ∧ s.rd A.feedSeq k ≠ 0

/-- REC_TAIL of slot `k` is to pass `n` bytes: it passes the read position of every feed that stands in them (R269). -/
def State.feedPassed (s : State) (k n : Nat) : State :=
  s.each 32 fun s j =>
    if s.feeding j ∧ s.srcSlot j = k ∧
        (s.rd A.feedAt j + s.regionBytes k - s.recTail k) % s.regionBytes k < n then s.wr A.feedLost j 1
    else s

/-- REC_TAIL passes `n` bytes; REC_SNAP loses VALID when its snapshot goes (R263). -/
def State.freeRegion (s : State) (k n : Nat) : State :=
  let s := s.feedPassed k n
  let gone := (s.recTail k + n) % s.regionBytes k
  let s := { s with recLog := dropBytes k n s.recLog }.setRecTail k gone
  let snap := s.reg (P k + oREC_SNAP_LO) + 2 ^ 32 * slice (s.reg (P k + oREC_SNAP_HI)) 0 4
  if (s.kept k).any fun p => p.typ = 2 ∧ p.off = snap then s
  else s.wr A.reg (P k + oREC_SNAP_HI) (slice (s.reg (P k + oREC_SNAP_HI)) 0 31)

/-- A snapshot whose SNAP_BEGIN has been discarded goes with it (R263). -/
def State.snapLost (s : State) (k : Nat) : State :=
  let has (x : SnapRun) : Bool := s.recLog.any fun p => p.slot = k ∧ p.typ = 2 ∧ p.cyc + 1 = x.cyc
  State.snapFlags { s with snaps := s.snaps.filter fun x => x.slot ≠ k ∨ has x } k

/-- Flight mode makes room for `n` bytes, segment by segment (R263). -/
def State.recRoom (s : State) (k n : Nat) : Nat → State
  | 0 => s
  | fuel + 1 =>
    if s.regionUsed k + n ≤ s.regionBytes k then s
    else
      let last := ¬ ((s.kept k).drop 1).any fun p => p.typ = 2
      let s := (s.freeRegion k (if last then s.regionUsed k else oldestSegment (s.kept k))).cnt (P k) REC_LOSS_SEG_LOST 1
      let s := (s.raise (0x560 + k)).snapLost k
      if last then s.wr A.recMute k 1 else s.recRoom k n fuel

/-- Bytes that a packet of `n` bytes takes, with the PAD before it (R259). -/
def State.recNeed (s : State) (k n : Nat) : Nat :=
  if s.regionBytes k < s.recHead k + n then s.regionBytes k - s.recHead k + n else n

/-- A SNAP_END has its place: the snapshot is the latest complete one while its SNAP_BEGIN is retained (R256). -/
def State.snapClosed (s : State) (k c : Nat) : State :=
  let x := s.snaps.find? fun x => x.slot = k ∧ x.cyc = c
  let s := { s with snaps := s.snaps.filter fun x => ¬ (x.slot = k ∧ x.cyc = c) }
  match x with
  | none => s
  | some x =>
    if (s.kept k).any fun p => p.typ = 2 ∧ p.off = x.off then
      ((s.wr A.reg (P k + oREC_SNAP_LO) x.off).wr A.reg (P k + oREC_SNAP_HI) (x.off / 2 ^ 32 + 2 ^ 31)).setPair
        (P k + oREC_SNAP_CYC_LO) c
    else s

/-- What a packet that gets its place does at offset `off`: a snapshot learns where it begins, or is complete. Until it has
a place, word 3 of a SNAP_END holds the snapshot's emulated cycle; one that is moved has done so before. -/
def State.snapPlaced (s : State) (p : RecPkt) (off : Nat) : State :=
  if p.typ = 2 then
    { s with snaps := s.snaps.map fun x => if x.slot = p.slot ∧ x.cyc = p.cyc + 1 then { x with off := off } else x }
  else if p.typ = 4 ∧ p.waiting then s.snapClosed p.slot (p.body.getD 1 0)
  else s

/-- Words from 2 on of a packet that is placed: a SNAP_END names the offset of its SNAP_BEGIN. -/
def State.placedBody (s : State) (p : RecPkt) : List Nat :=
  if p.typ = 4 ∧ p.waiting then
    [p.body.headD 0, ((s.snaps.find? fun x => x.slot = p.slot ∧ x.cyc = p.body.getD 1 0).map (·.off)).getD 0]
  else p.body

/-- Give a packet its place: a PAD first when it would cross the end of the region (R259). -/
def State.recPlace (s : State) (p : RecPkt) : State :=
  let k := p.slot
  let sz := s.regionBytes k
  let seq := s.rd A.recPktSeq k
  let pad := sz < s.recHead k + p.bytes
  let padPkt : RecPkt := { p with off := s.recHead k, typ := 0, seq := seq, cyc := 0, step := 0, phase := 0, body := [],
                                  bytes := sz - s.recHead k, buffered := true, waiting := false }
  let off := if pad then 0 else s.recHead k
  let seq' := seq + bit pad
  let t := s.snapPlaced p off
  let p := { p with off := off, seq := seq', body := s.placedBody p, buffered := true, waiting := false }
  let s := t
  let m := P k + oMETER_REC_BYTES_LO
  let s := s.setPair m ((s.pair m + s.recNeed k p.bytes) % 2 ^ 64)
  let s := { s with recLog := s.recLog ++ (if pad then [padPkt, p] else [p]) }
  (s.wr A.recPktSeq k (seq' + 1)).setRecHead k ((off + p.bytes) % sz)

/-- Types of the packets that hold inputs (R251). -/
def isInput (t : Nat) : Bool := t = 5 ∨ (8 ≤ t ∧ t ≤ 0xD)

/-- Two packets of one position are put in ascending order of die (R252): inputs, and DUMPs. -/
def sameKind (x p : RecPkt) : Bool := (isInput x.typ ∧ isInput p.typ) ∨ (x.typ = 0xE ∧ p.typ = 0xE)

/-- Packets at the end of the region that come after packet `p` (R252): from the first one of its position from a higher
die on; no packet moves past a SNAP_BEGIN. (log 143 DESIGN CHOICE) -/
def State.recAfter (s : State) (p : RecPkt) : List RecPkt :=
  let later (x : RecPkt) : Bool := sameKind x p ∧ x.cyc = p.cyc ∧ x.step = p.step ∧ p.die < x.die
  ((s.kept p.slot).reverse.takeWhile fun x => x.typ ≠ 2).reverse.dropWhile fun x => ¬ later x

/-- Take the packets `l`, the last of slot `k`, out of the region again. -/
def State.recUnplace (s : State) (k : Nat) (l : List RecPkt) : State :=
  match l with
  | [] => s
  | x :: _ =>
    let m := P k + oMETER_REC_BYTES_LO
    let s := s.setPair m ((s.pair m + 2 ^ 64 - (l.map (·.bytes)).sum) % 2 ^ 64)
    (State.wr { s with recLog := s.recLog.filter fun y => ¬ l.contains y } A.recPktSeq k x.seq).setRecHead k x.off

/-- Give a packet its place, in the order of R252. -/
def State.recPut (s : State) (p : RecPkt) : State :=
  let l := s.recAfter p
  let t := (l.filter (·.typ ≠ 0)).foldl State.recPlace ((s.recUnplace p.slot l).recPlace p)
  if t.regionBytes p.slot < t.regionUsed p.slot then s.recPlace p else t

/-- Slot `k` holds for the write buffer of a die (R261). -/
def State.backlogHold (s : State) (k die : Nat) : State :=
  if (s.rd A.recBack k).testBit die then s
  else
    let s := s.wr A.recBack k (s.rd A.recBack k ||| 2 ^ die)
    (if s.rf (P k) REC_STATUS_BACKLOG = 1 then s else (s.wf (P k) REC_STATUS_BACKLOG 1).raise (0x560 + k)).addCause k 3

/-- More than 192 KiB in a die's buffer pulls HOLD for every partition with a packet in it, until it holds less than
128 KiB (R261). -/
def State.recBacklog (s : State) (die : Nat) : State :=
  if 192 * 1024 < s.bufBytes die ∨ (List.range 32).any fun k => (s.rd A.recBack k).testBit die then
    s.each 32 fun s k => if s.recLog.any fun p => p.slot = k ∧ p.die = die ∧ p.inBuf then s.backlogHold k die else s
  else s

/-- A SNAP_END whose snapshot has been discarded: SNAP_BEGIN went with its segment (R263). -/
def State.endless (s : State) (p : RecPkt) : Bool :=
  p.typ = 4 ∧ ¬ s.snaps.any fun x => x.slot = p.slot ∧ x.cyc = p.body.getD 1 0

/-- A packet of slot `k` (R252, R257): allocate it, or hold for space. -/
def State.recAlloc (s : State) (k die typ cyc step phase : Nat) (body : List Nat) : State :=
  let n := 8 * (2 + body.length)
  let p : RecPkt := ⟨k, 0, typ, die, 0, cyc, step, phase, body, n, false, true⟩
  let s := if s.rf (P k) REC_CFG_MODE = 1 then s.recRoom k (s.recNeed k n) (s.recLog.length + 1) else s
  if s.rd A.recMute k = 1 ∨ s.endless p then s
  else if (s.recLog.any fun p => p.slot = k ∧ p.waiting) ∨ s.regionBytes k < s.regionUsed k + s.recNeed k n then
    let s := if s.rf (P k) REC_STATUS_FULL = 1 then s else (s.wf (P k) REC_STATUS_FULL 1).raise (0x560 + k)
    { s with recLog := s.recLog ++ [p] }.addCause k 3
  else s.recPut p

/-- Write a packet of slot `k` into its die's write buffer. -/
def State.recPacket (s : State) (k die typ cyc step phase : Nat) (body : List Nat) : State :=
  (s.recAlloc k die typ cyc step phase body).recBacklog die

/-- Allocate waiting packets, oldest first, while they fit; FULL clears when none waits (R262). -/
def State.recPump (s : State) (k : Nat) : Nat → State
  | 0 => s
  | fuel + 1 =>
    match s.recLog.find? fun p => p.slot = k ∧ p.waiting with
    | none => s.wf (P k) REC_STATUS_FULL 0
    | some p =>
      if s.regionBytes k < s.regionUsed k + s.recNeed k p.bytes then s
      else
        let s := { s with recLog := s.recLog.erase p }
        ((s.recPut p).recBacklog p.die).recPump k fuel

/-- Position that an input written now takes (R252): while the partition does not step, that of the step it performs
next. -/
def State.recPos (s : State) (k : Nat) : Nat × Nat :=
  let st := s.rd A.pState k
  if st = 2 ∨ s.rd A.pFrozen k = 1 ∨ (st = 3 ∧ ¬ s.preFirst k ∧ s.rd A.pStep k < s.rd A.pDepth k + 15) then
    (s.posCycle k, s.posStep k)
  else (s.rd A.pCycle k, 0)

def State.logInput (s : State) (k die typ : Nat) (body : List Nat) : State :=
  if s.recording k then
    let (c, t) := s.recPos k
    s.recPacket k die typ c t 0 body
  else s

/-- Rows and words of a die that fit its 64 KiB copy-on-write buffer, each taken as 8 bytes (R255). -/
def cowRows : Nat := 8192

/-- The snapshot of slot `k` whose copy is in progress. -/
def State.snapOf (s : State) (k : Nat) : Option SnapRun := s.snaps.find? fun x => x.slot = k ∧ ¬ x.copied

/-- A write of the row or word at `key` would save it first (R255). -/
def State.cowNeeds (s : State) (k key : Nat) : Bool :=
  match s.snapOf k with
  | none => false
  | some x => ¬ x.saved.any fun r => r.key = key

/-- The die's copy-on-write buffer has no room for `n` more rows. -/
def State.cowFull (s : State) (die n : Nat) : Bool :=
  cowRows < ((s.snaps.map fun x => (x.saved.filter fun r => r.die = die ∧ ¬ r.drained).length).sum + n)

/-- Save value `v` of the row or word at `key` before a write changes it (R255). -/
def State.cowAs (s : State) (k die key v : Nat) : State :=
  if s.cowNeeds k key then
    let (c, t) := s.recPos k
    let row : CowRow := ⟨key, v, die, c, t, false⟩
    { s with snaps := s.snaps.map fun x => if x.slot = k ∧ ¬ x.copied then { x with saved := x.saved ++ [row] } else x }
  else s

/-- Save entry `i` of array `a`. -/
def State.cow (s : State) (k die : Nat) (a : Arr) (i : Nat) : State := s.cowAs k die (a.key i) (s.rd a i)

/-- Save a bay word before a write changes it. (log 22 DEDUCED) -/
def State.cowBay (s : State) (k wall a : Nat) : State := s.cowAs k (wall / 16) (A.bay.key (bayKey wall a)) (s.bayRd wall a)

/-- A delivery for slot `k` on `die` must wait for the write buffer (R261): `n` words of payload, and of DETAIL. -/
def State.bufFull (s : State) (k die n : Nat) : Bool :=
  s.recording k ∧ 256 * 1024 < s.bufBytes die + 8 * (4 + n)

/-- Words 2 onward of a PORT packet (R258): SRC, course, bed, line, lines, DUEOFS, tag, target cycle, data, and the
DETAIL of a fault. -/
def portPacket (src course bed line lines dueOfs tag cyc data : Nat) (fault : Option Nat) : List Nat :=
  (src + 2 ^ 4 * (course / 16 % 16) + 2 ^ 8 * (course % 16) + 2 ^ 12 * (bed % 16) + 2 ^ 16 * line + 2 ^ 20 * lines +
    2 ^ 24 * dueOfs + 2 ^ 26 * tag + 2 ^ 33 * bit fault.isSome) :: cyc ::
  ((List.range lines).map fun i => slice data (64 * i) 64) ++ fault.toList

end Sys2Proof.Machine
end

