-- ==== Sys2Proof/Machine/Shadow.lean ====
section
/-! DEFINITION. Configuration transactions (R466 to R470) and the writes that a shadow holds. -/

namespace Sys2Proof.Machine

open Reg

/-- The device's shadow. -/
def devShadow : Nat := 32

/-- Set RESULT of a shadow. -/
def State.shResult (s : State) (k r : Nat) : State := s.wr A.shResult k r

def State.shWrites (s : State) (k : Nat) : List ShadowWrite := s.shadow.filter fun w => w.slot = k

/-- Discard a shadow. -/
def State.shDrop (s : State) (k : Nat) : State :=
  (State.wr { s with shadow := s.shadow.filter fun w => w.slot ≠ k } A.shState k 0).wr A.shOver k 0

/-- Partition reset and image load discard the partition's shadow, with RESULT CANCELLED (R469). -/
def State.shCancel (s : State) (k : Nat) : State := if s.rd A.shState k = 0 then s else (s.shDrop k).shResult k 5

/-- An edge-sequencer reload from the staging table (R23, R470), logged as an input. (log 181 DEDUCED) -/
def State.esReload (s : State) (k len start : Nat) : State :=
  let s := s.each len fun s i => s.wrE A.esTab (4096 * k + i) (s.rd A.esStage (4096 * k + i))
  let s := ((s.wr A.esLen k len).wr A.esIdx k start).wr A.esReloaded k 1
  s.logInput k (s.homeDie k) 0xB
    ((len + 2 ^ 13 * start) :: (List.range len).map fun i => s.rd A.esStage (4096 * k + i))

/-- Perform one committed write; true when it was a reload with a bad field. -/
def State.shApply (s : State) (k : Nat) (w : ShadowWrite) : State × Bool :=
  if w.off = oEVT_ROUTE_FLAG ∧ k = devShadow then (s.wr A.evtFlag w.sel w.val, false)
  else if w.off = oEVT_ROUTE_VEC ∧ k = devShadow then (s.wr A.evtVec w.sel w.val, false)
  else if w.off = P k + oESEQ_RELOAD then
    let len := slice w.val 0 13
    let start := slice w.val 13 12
    let s := ((s.wf (P k) ESEQ_RELOAD_LEN len).wf (P k) ESEQ_RELOAD_START start).wf (P k) ESEQ_RELOAD_GO (slice w.val 31 1)
    if slice w.val 31 1 = 0 then (s, false)
    else if len = 0 ∨ 4096 < len ∨ len ≤ start then (s, true)
    else (s.esReload k len start, false)
  else if w.off = P k + oFAULT_CFG then (s.wr A.reg w.off (slice w.val 0 3 + 2 ^ 4 * slice w.val 4 3 + 2 ^ 8 * slice w.val 8 7), false)
  else (s, false)

/-- Apply a shadow: every write in one step; the shadow returns to NONE (R468). -/
def State.shCommit (s : State) (k : Nat) : State :=
  let r := (s.shWrites k).foldl (fun (a : State × Bool) w => let x := a.1.shApply k w; (x.1, a.2 || x.2)) (s, false)
  (r.1.shDrop k).shResult k (if r.2 then 7 else 0)

/-- A PENDING shadow of a partition that is IDLE or STOPPED is applied at once (R468). The first emulated cycle after
it uses the start index, so the mark that keeps step D+7 from advancing is not left standing. -/
def State.shadowSettle (s : State) (k : Nat) : State :=
  if s.rd A.shState k = 2 then (s.shCommit k).wr A.esReloaded k 0 else s

/-- The shadow is applied at once: the device's, and that of an idle partition. -/
def State.shAtOnce (s : State) (k : Nat) : Bool := k = devShadow ∨ s.rd A.pState k = 1 ∨ s.rd A.pState k = 4

/-- BEGIN (R467): its RESULT code, 0 OK. -/
def State.shBegin (s : State) (k : Nat) : Nat × State :=
  match s.rd A.shState k with
  | 0 => (0, (s.shDrop k).wr A.shState k 1)
  | r => (r, s)

/-- COMMIT (R467 to R469). (log 55 DEDUCED) -/
def State.shDoCommit (s : State) (k : Nat) : Nat × State :=
  match s.rd A.shState k with
  | 0 => (3, s)
  | 1 =>
    if s.on A.shOver k then (4, s.shDrop k)
    else
      let s := s.wr A.shState k 2
      if s.shAtOnce k then
        let s := (s.shCommit k).wr A.esReloaded k 0
        (s.rd A.shResult k, s)
      else (0, s)
  | _ => (2, s)

/-- ABORT (R467). -/
def State.shAbort (s : State) (k : Nat) : State := s.shDrop k

/-- Hold a write in an OPEN shadow (R467, R469): a write to the same register and selection replaces the earlier one. -/
def State.shHold (s : State) (k off sel val : Nat) : State :=
  let old := s.shadow.filter fun w => ¬ (w.slot = k ∧ w.off = off ∧ w.sel = sel)
  if old.length = s.shadow.length ∧ 256 ≤ (s.shWrites k).length then s.wr A.shOver k 1
  else { s with shadow := old ++ [⟨k, off, sel, val⟩] }

end Sys2Proof.Machine
end

