-- ==== Sys2Proof/Machine/LaunchOps.lean ====
section
/-! DEFINITION. Launch slots (chapter 15, R373 to R378), as the other units use them. -/

namespace Sys2Proof.Machine

open Reg

def lnAction (c : Nat) : Nat := slice c 0 3
def lnNoPid (c : Nat) : Bool := slice c 3 1 = 1
def lnPid (c : Nat) : Nat := slice c 4 8
def lnTag (c : Nat) : Nat := slice c 12 4
def lnMembers (c : Nat) : Nat := slice c 16 12 + 1

/-- Return launch slot `i` to FREE with a RESULT. -/
def State.lnEnd (s : State) (i r : Nat) : State := ((s.wr A.lnState i 0).wr A.lnGo i 0).wr A.lnResult i r

/-- Slots that have not completed, of a partition. -/
def State.lnOf (s : State) (pid : Nat) : List Nat :=
  (List.range 16).filter fun i => s.rd A.lnState i ≠ 0 ∧ ¬ lnNoPid (s.rd A.lnCfg i) ∧ lnPid (s.rd A.lnCfg i) = pid

/-- A partition of partition slot `k` fired and waits for GO (R375). -/
def State.lnWaiting (s : State) (k : Nat) : Bool :=
  (s.lnOf (s.rd A.pPid k)).any fun i => s.rd A.lnState i = 2 ∧ s.rd A.lnGo i = 0

/-- R378: cancel the slots of a partition. -/
def State.lnCancel (s : State) (k : Nat) : State := (s.lnOf (s.rd A.pPid k)).foldl (fun s i => s.lnEnd i 6) s

/-- R378: an action that GO agreed on stays pending over a stop. -/
def State.launchPend (s : State) (k : Nat) : State :=
  (s.lnOf (s.rd A.pPid k)).foldl (fun s i => if s.on A.lnGo i then s.wr A.lnState i 3 else s) s

/-- The SOFTWARE cause follows SWHOLD and the HOLD launches (R136). -/
def State.softSettle (s : State) (k : Nat) : State :=
  if s.rf (P k) HOLD_CTRL_SWHOLD = 1 ∨ s.on A.lnHold k then s.addCause k 5 else s.dropCause k 5

/-- A launch COMMIT applies the shadow that is open, and with none does nothing (R468); one that has overflowed is discarded,
with RESULT OVERFLOW (R469). -/
def State.lnCommit (s : State) (k : Nat) : State :=
  if s.rd A.shState k = 1 then
    let (r, s) := s.shDoCommit k
    if r = 4 then s.shResult k r else s
  else s

/-- The deferred action of launch slot `i` at step D+6 of emulated cycle `n` (R377): HOLD, SNAPSHOT, COMMIT. -/
def State.lnPerform (s : State) (k i : Nat) : State :=
  let s := match lnAction (s.rd A.lnCfg i) with
    | 1 => (s.wr A.lnHold k 1).softSettle k
    | 3 => if 2 ≤ s.recState k then s.wr A.recSnapReq k 3 else s
    | 4 => if s.rd A.shState k = 1 then (if s.on A.shOver k then (s.shDrop k).shResult k 4 else s.shCommit k) else s
    | _ => s
  s.lnEnd i 1

/-- Actions of partition slot `k` that are due at step D+6 of `n`. -/
def State.launchStep (s : State) (k n : Nat) : State :=
  ((s.lnOf (s.rd A.pPid k)).filter fun i => s.on A.lnGo i ∧ s.rd A.lnCycle i ≤ n).foldl (fun s i => s.lnPerform k i) s

/-- The value nearest `cur` whose low `w` bits are those of `v` (R309). -/
def nearest (w cur v : Nat) : Nat :=
  let d := (v + 2 ^ w - cur % 2 ^ w) % 2 ^ w
  if d ≤ 2 ^ (w - 1) then cur + d
  else if 2 ^ w - d ≤ cur then cur - (2 ^ w - d) else cur + d

end Sys2Proof.Machine
end

