-- ==== Sys2Proof/Machine/Stops.lean ====
section
/-! DEFINITION. Faults and stops (R169 to R173, R181). -/

namespace Sys2Proof.Machine

open Reg

/-- Push a record of slot `k` (R177). (log 25 DEDUCED) -/
def State.recordNow (s : State) (k code : Nat) (l : Loc) (cyc step action detail : Nat) : State :=
  s.recordBy State.pushRecord k code l cyc step action detail

/-- Place of a location in ascending order. -/
def Loc.rank (l : Loc) : Nat := (((l.die * 16 + l.wall) * 16 + l.course) * 16 + l.bed) * 16 + l.cell

/-- Put a record behind those of a lower or the same location. -/
def insertRec (r : StepRec) : List StepRec → List StepRec
  | [] => [r]
  | x :: l => if x.loc.rank ≤ r.loc.rank then x :: insertRec r l else r :: x :: l

/-- Push the records of the step that slot `k` performs, in ascending location order (R178). (log 137 DEDUCED) -/
def State.flushRecs (s : State) (k : Nat) : State :=
  let mine := (s.stepRecs.filter fun r => r.slot = k).foldl (fun l r => insertRec r l) []
  mine.foldl (fun s r => s.recordNow k r.code r.loc r.cyc r.step r.action r.detail)
    { s with stepRecs := s.stepRecs.filter fun r => r.slot ≠ k }

/-- A record of slot `k`: one of the evaluation step in progress is pushed when the step ends (R178). (log 137 DEDUCED) -/
def State.record (s : State) (k code : Nat) (l : Loc) (cyc step action detail : Nat) : State :=
  if s.evaluating k ∧ cyc = s.posCycle k ∧ step = s.posStep k then
    { s with stepRecs := s.stepRecs ++ [⟨k, code, l, cyc, step, action, detail⟩] }
  else s.recordNow k code l cyc step action detail

/-- Enter STOPPED; `immediate` and `step` go into FAULT_STATUS; a PENDING shadow is applied at once (R468). (log 16 DEDUCED) -/
def State.enterStopped (s : State) (k : Nat) (immediate : Bool) (step : Nat) : State :=
  let s := (((s.flushRecs k).dropLate k).wr A.pState k 4).wr A.pImm k 0
  let s := { s with stops := s.stops.filter fun x => x.slot ≠ k }
  let s := (s.wf (P k) FAULT_STATUS_IMMEDIATE (bit immediate)).wf (P k) FAULT_STATUS_STOP_STEP step
  (((s.wr A.remoteHold k 0).raise (0x540 + k)).shadowSettle k).launchPend k

/-- STOP_STEP of a stop that takes effect now (R181). -/
def State.stopStepNow (s : State) (k : Nat) : Nat :=
  let d := s.rd A.pDepth k
  if s.preFirst k then d + 15
  else if s.on A.pGate k then d + 14
  else if s.on A.pLaunchWait k then d + 5
  else if s.on A.pFrozen k then (if s.rd A.pStep k = 0 then d + 15 else s.rd A.pStep k - 1)
  else s.rd A.pStep k

/-- Stop immediately (R171): at once when HELD, at the gate, in a launch wait or before the first
emulated cycle, otherwise when the
step in progress has completed. -/
def State.stopImmediate (s : State) (k : Nat) : State :=
  if s.rd A.pState k = 3 ∨ (s.rd A.pState k = 2 ∧ (s.preFirst k ∨ s.on A.pGate k ∨ s.on A.pLaunchWait k)) then
    s.enterStopped k true (s.stopStepNow k)
  else if s.rd A.pState k = 2 then s.wr A.pImm k 1
  else s

/-- The emulated cycle at whose end a stop raised now takes effect (R171). -/
def State.stopCycle (s : State) (k : Nat) : Nat :=
  if s.posStep k ≤ s.rd A.pDepth k + 2 then s.posCycle k else s.posCycle k + 1

def State.addStop (s : State) (x : PendStop) : State := { s with stops := s.stops ++ [x] }

/-- Send a stop notice on the tree (R173). -/
def State.sendNotice (s : State) (k code : Nat) (imm : Bool) (cyc : Nat) : State :=
  if 1 < s.rd A.pMembers k then
    s.sendTree none (.stopNotice (s.rd A.pPid k) code imm s.chainAddr (cyc % 2 ^ 27))
  else s

/-- The action classes of the fault table (R169). -/
inductive FClass where
  | e
  | i
  | a
  | h
  | n
  | stop      -- always at the end of the emulated cycle
  deriving DecidableEq, Repr

/-- ACTION of a record: 0 record only, 1 stop at the end of the emulated cycle, 2 stop immediately. -/
def State.actionOf (s : State) (k : Nat) : FClass → Nat
  | .e => if s.rf (P k) FAULT_CFG_STOP_IMMEDIATE = 1 then 2 else 1
  | .i => 2
  | .a => s.rf (P k) FAULT_CFG_ASSERT_STOP
  | .h => s.rf (P k) FAULT_CFG_HAZ_STOP
  | .n => 0
  | .stop => 1

/-- The partition is in a state that a stop can end. -/
def State.stoppable (s : State) (k : Nat) : Bool := s.rd A.pState k = 2 ∨ s.rd A.pState k = 3

/-- Perform ACTION `act` of a fault or command with code `code` that this device decides. -/
def State.act (s : State) (k code act : Nat) : State :=
  if ¬ s.stoppable k then s
  else if act = 1 then s.addStop ⟨k, s.stopCycle k, code, true⟩
  else if act = 2 then (s.sendNotice k code true (s.posCycle k)).stopImmediate k
  else s

/-- Raise a fault of partition slot `k` at `cyc`:`step` (R169). ACTION names the action taken: none where the partition is
neither RUN nor HELD. (log 139 DEDUCED) -/
def State.faultAt (s : State) (k code : Nat) (l : Loc) (cls : FClass) (cyc step detail : Nat) : State :=
  let act := if s.stoppable k then s.actionOf k cls else 0
  let s := s.record k code l cyc step act detail
  let s := s.firstFault k code s.chainAddr
  let s := s.raise (if code = 1 then 0x520 + k else 0x500 + k)
  s.act k code act

/-- Raise a fault of slot `k` at its present position. -/
def State.fault (s : State) (k code : Nat) (l : Loc) (cls : FClass) (detail : Nat) : State :=
  s.faultAt k code l cls (s.posCycle k) (s.posStep k) detail

/-- Raise a fault at a unit: of the partition that owns its wall, or, on a wall without owner, a device record with
ACTION 0 (R169). -/
def State.unitFault (s : State) (wall code : Nat) (l : Loc) (cls : FClass) (detail : Nat) : State :=
  match s.slotOfWall wall with
  | some k => s.fault k code l cls detail
  | none => s.devRecord code l 0 detail

end Sys2Proof.Machine
end

