-- ==== Sys2Proof/Machine/Queues.lean ====
section
/-! DEFINITION. Queues (chapter 10, R235 to R249, R492). -/

namespace Sys2Proof.Machine

open Reg

/-! ### Packets (R237 to R243) -/

/-- Producer number of a PCIe function or the boot controller, and of a core. -/
def coreProducer (core : Nat) : Nat := 1000 + core
def whoProducer : Who → Nat
  | .core d c => coreProducer (32 * d + c)
  | w => whoFunc w

/-- A pending flush takes effect at a packet boundary (R242); where it finds pointers that differ, the queue resets itself
in its place, and the record follows (R246). -/
def State.qFlushNow (s : State) (q : Nat) : State :=
  if s.rf (Q q) QUEUE_CTRL_FLUSH_PENDING = 1 ∧ ¬ s.qWithin q then (s.qCheck q).qFlushed q else s

/-- The open packet of a producer in a queue. -/
def State.qOpen (s : State) (q producer : Nat) : Option QPacket :=
  s.packets.find? fun p => p.queue = q ∧ p.producer = producer ∧ ¬ p.closed

/-- Open packets of software producers. -/
def State.qOpens (s : State) (q : Nat) : Nat :=
  ((s.qPackets q).filter fun p => ¬ p.closed ∧ p.producer ≠ deviceProducer).length

/-- Room for one word of a software push: a log queue discards for it (R240). -/
def State.qRoom (s : State) (q : Nat) : State := if s.qClass q = 2 then s.qMakeRoom q 1 s.packets.length else s

/-- Push a word of a software producer; `last` closes its packet. False: refused as full. -/
def State.qPush (s : State) (q producer word : Nat) (last : Bool) : Bool × State :=
  if ¬ s.qEn q then (false, s)
  else if (s.qOpen q producer).isNone ∧ 8 ≤ s.qOpens q then (false, s)
  else if ¬ s.qTakes q 1 then (false, s)
  else
      let s := (s.qCheck q).qRoom q
      let mine := s.qOpen q producer
      if ¬ s.qFits q 1 then (false, s)
      else
        let ws := (mine.map (·.words)).getD [] ++ [word]
        let closed := last ∨ ws.length = 64 ∨ s.qClass q = 0
        let p : QPacket := ⟨q, producer, ws, closed, false, false⟩
        let rest := match mine with
          | some m => s.packets.erase m
          | none => s.packets
        (true, { s with packets := rest ++ [p] })

/-- The check bits of a word that is popped (R247): bits 64 and 65 of `w` hold its stored error state. (log 12 DESIGN CHOICE) -/
def State.qWord (s : State) (q w : Nat) : State :=
  if slice w 64 2 = 1 then s.cnt (D (q / 128)) QUEUE_DIE_STATUS_CE 1
  else if slice w 64 2 = 2 then s.cnt (D (q / 128)) QUEUE_DIE_STATUS_UE 1
  else s

/-- Mark the first element that meets `p`. -/
def mapFirst (p : QPacket → Bool) (f : QPacket → QPacket) : List QPacket → List QPacket
  | [] => []
  | x :: r => if p x then f x :: r else x :: mapFirst p f r

/-- A pop of the oldest readable packet of a queue. -/
def State.qTake (s : State) (q : Nat) : Option (Nat × Bool) × State :=
  match s.packets.find? fun p => p.queue = q ∧ p.readable with
  | none => (none, s)
  | some p =>
    let s := s.qMark q
    match p.words with
    | [] => (none, { s with packets := s.packets.erase p })
    | [w] => (some (slice w 0 64, true), ({ s.qWord q w with packets := s.packets.erase p } : State).qFlushNow q)
    | w :: r =>
      let s := s.qWord q w
      (some (slice w 0 64, false),
        { s with packets := mapFirst (fun x => x = p) (fun x => { x with words := r, popped := true }) s.packets })

/-- Pop a word: the word and EOP, none from an empty queue, whose pointers no pop updates. -/
def State.qPop (s : State) (q : Nat) : Option (Nat × Bool) × State :=
  if (s.packets.find? fun p => p.queue = q ∧ p.readable).isNone then (none, s) else (s.qCheck q).qTake q

/-- A closed packet becomes readable, 2 CCLK after it closed; the event of R241. -/
def State.qReadable (s : State) (q : Nat) : State :=
  let ready (p : QPacket) : Bool := p.queue = q ∧ p.closed ∧ ¬ p.readable
  if ¬ s.packets.any ready then s
  else
    let before := s.qDepth q
    let s := { s with packets := mapFirst ready (fun p => { p with readable := true }) s.packets }
    let level := s.rf (Q q) QUEUE_LEVEL_LEVEL
    let fire := if s.qClass q = 0 then level ≠ 0 ∧ before < level ∧ level ≤ s.qDepth q else True
    if s.rf (Q q) QUEUE_CTRL_EV_EN = 1 ∧ fire then s.raise (0x100 + q) else s

def execPacketReadable (die : Fin 8) (q : Fin 128) (s : State) : Res := s.live fun s => .next (s.qReadable (128 * die + q))

/-! ### Rights (R245) -/

/-- The initiator may pop from the queue and push to it. -/
def State.mayQueue (s : State) (who : Who) (q : Nat) : Bool := s.pfRights who ∨ s.isOwner who (s.qOwner q)

/-- The initiator may write LEVEL, EV_EN, FLUSH and RESET: the physical function, or the owner's virtual function. -/
def State.mayCtrl (s : State) (who : Who) (q : Nat) : Bool :=
  match who with
  | .vf _ => s.isOwner who (s.qOwner q)
  | _ => s.pfRights who

/-! ### Configuration (R235, R242, R243, R492) -/

/-- A write of QUEUE_CFG: refused with CFG_ERR while the queue is enabled. -/
def State.qCfgWrite (s : State) (who : Who) (q v : Nat) : State :=
  if ¬ s.pfRights who then s.deny
  else if s.qEn q then (s.wf (Q q) QUEUE_CTRL_CFG_ERR 1).okay
  else ((s.wr A.reg (Q q) (patch v 3 1 0)).wf (Q q) QUEUE_CTRL_CFG_ERR 0).okay

def execQueueCfgWrite (who : Who) (die : Fin 8) (q : Fin 128) (val : Word) (s : State) : Res := s.access who (.queueCfgWrite who die q val) fun s =>
  .next (s.qCfgWrite who (128 * die + q) val.toNat)

/-- First block of a queue, and the block after its last. -/
def State.qSpan (s : State) (q : Nat) : Nat × Nat :=
  let b := s.rf (Q q) QUEUE_CFG_BASE
  (b, b + s.rf (Q q) QUEUE_CFG_SIZE + 1)

/-- Why an enable fails (R235, R236). -/
def State.qEnableBad (s : State) (q : Nat) : Bool :=
  let (b, e) := s.qSpan q
  1024 < e ∨ s.qClass q = 3 ∨ (List.range 128).any fun i =>
    let o := 128 * (q / 128) + i
    o ≠ q ∧ s.qEn o ∧ b < (s.qSpan o).2 ∧ (s.qSpan o).1 < e

/-- A write of EN = 1. -/
def State.qEnable (s : State) (q : Nat) : State :=
  if s.qEn q then s
  else if s.qEnableBad q then s.wf (Q q) QUEUE_CTRL_ERR 1
  else (s.wf (Q q) QUEUE_CTRL_EN 1).wf (Q q) QUEUE_CTRL_ERR 0

/-- A write of EN = 0. -/
def State.qDisable (s : State) (q : Nat) : State := if s.qEn q then ((s.qCheck q).qEmpty q).wf (Q q) QUEUE_CTRL_EN 0 else s

def execQueueEnable (who : Who) (die : Fin 8) (q : Fin 128) (s : State) : Res := s.access who (.queueEnable who die q) fun s =>
  .next (if s.pfRights who then (s.qEnable (128 * die + q)).okay else s.deny)

def execQueueDisable (who : Who) (die : Fin 8) (q : Fin 128) (s : State) : Res := s.access who (.queueDisable who die q) fun s =>
  .next (if s.pfRights who then (s.qDisable (128 * die + q)).okay else s.deny)

/-- FLUSH. -/
def State.qFlush (s : State) (q : Nat) : State := (s.wf (Q q) QUEUE_CTRL_FLUSH_PENDING 1).qFlushNow q

def execFlush (who : Who) (die : Fin 8) (q : Fin 128) (s : State) : Res := s.access who (.flush who die q) fun s =>
  .next (if s.mayCtrl who (128 * die + q) then (s.qFlush (128 * die + q)).okay else s.deny)

/-- RESET (R243); pointers that differ reset the queue as well, and the record follows (R246). -/
def State.qReset (s : State) (q : Nat) : State := if s.on A.qPtrBad q then s.qCheck q else s.qEmpty q

def execQueueReset (who : Who) (die : Fin 8) (q : Fin 128) (s : State) : Res := s.access who (.queueReset who die q) fun s =>
  .next (if s.mayCtrl who (128 * die + q) then (s.qReset (128 * die + q)).okay else s.deny)

/-- A write of QUEUE_CTRL: a virtual function does not change EN. -/
def State.qCtrlWrite (s : State) (who : Who) (q v : Nat) : State :=
  if ¬ s.mayCtrl who q then s.deny
  else
    let s := if s.pfRights who then (if slice v 0 1 = 1 then s.qEnable q else s.qDisable q) else s
    let s := s.wf (Q q) QUEUE_CTRL_EV_EN (slice v 5 1)
    let s := if slice v 3 1 = 1 then s.qReset q else s
    (if slice v 1 1 = 1 then s.qFlush q else s).okay

/-! ### Data accesses (R249) -/

/-- Index of a function's copy of QUEUE_ACC and its latches. -/
def accIx (who : Who) (q : Nat) : Nat := 64 * q + whoFunc who

/-- Set a bit of QUEUE_ACC: 0 CLOSE, 1 EMPTY, 2 FULL, 3 EOP, 4 DENIED. -/
def State.accBit (s : State) (who : Who) (q b v : Nat) : State :=
  s.wr A.qAcc (accIx who q) (patch (s.rd A.qAcc (accIx who q)) b 1 v)

/-- A read of QUEUE_DATA_LO. -/
def State.hostPop (s : State) (who : Who) (q : Nat) : State :=
  if ¬ s.mayQueue who q then (s.accBit who q 4 1).deny
  else
    let (r, s) := s.qPop q
    let w := (r.map (·.1)).getD 0
    let eop := (r.map (·.2)).getD false
    let s := ((s.accBit who q 1 (bit r.isNone)).accBit who q 3 (bit eop)).accBit who q 4 0
    (s.wr A.qHiLatch (accIx who q) (2 ^ 32 + slice w 32 32)).ans 0 (slice w 0 32)

def execQueuePop (who : Who) (die : Fin 8) (q : Fin 128) (s : State) : Res := s.access who (.queuePop who die q) fun s => .next (s.hostPop who (128 * die + q))

/-- A write of QUEUE_DATA_HI: the held LO is consumed, whatever the push gives. -/
def State.hostPush (s : State) (who : Who) (q hi : Nat) : State :=
  let i := accIx who q
  let held := s.rd A.qHeld i
  let lo := if slice held 32 1 = 1 then slice held 0 32 else s.rd A.qLastLo i
  let s := s.wr A.qHeld i 0
  if ¬ s.mayQueue who q then (s.accBit who q 4 1).deny
  else
    let (ok, s) := s.qPush q (whoProducer who) (lo + 2 ^ 32 * hi) (slice (s.rd A.qAcc i) 0 1 = 1)
    let s := (s.accBit who q 2 (bit (¬ ok))).accBit who q 4 0
    (if ok then s.accBit who q 0 0 else s).okay

def execQueuePush (who : Who) (die : Fin 8) (q : Fin 128) (hi : Word) (s : State) : Res := s.access who (.queuePush who die q hi) fun s =>
  .next (s.hostPush who (128 * die + q) hi.toNat)

/-- A write of QUEUE_DATA_LO is held. -/
def State.qHoldLo (s : State) (who : Who) (q lo : Nat) : State :=
  ((s.wr A.qHeld (accIx who q) (2 ^ 32 + lo)).wr A.qLastLo (accIx who q) lo).okay

/-- A read of QUEUE_DATA_HI consumes the latch; without one, the upper half of the word that a pop would return. -/
def State.qReadHi (s : State) (who : Who) (q : Nat) : State :=
  let h := s.rd A.qHiLatch (accIx who q)
  if slice h 32 1 = 1 then (s.wr A.qHiLatch (accIx who q) 0).ans 0 (slice h 0 32)
  else s.ans 0 (slice (((s.qPop q).1.map (·.1)).getD 0) 32 32)

/-- Open packets of a producer are discarded (R244). -/
def State.dropOpen (s : State) (producer : Nat) : State :=
  let s := (s.packets.filter fun p => p.producer = producer ∧ ¬ p.closed).foldl (fun s p => s.qCheck p.queue) s
  { s with packets := s.packets.filter fun p => ¬ (p.producer = producer ∧ ¬ p.closed) }

end Sys2Proof.Machine
end

