-- ==== Sys2Proof/Machine/HostOps.lean ====
section
/-! DEFINITION. The host state of the PCIe functions, and its resets (R244, R459). -/

namespace Sys2Proof.Machine

open Reg

/-! ### Completions and the error registers (R461, R462) -/

/-- Completion status of an Unsupported Request, beside the statuses of R394. (log 118 DEDUCED) -/
def urStatus : Nat := 16

/-- Counter of HOST_ERR that counts a status: DENIED, UE, ABORT or OTHER. -/
def errField (status : Nat) : Fld :=
  if status = 1 then HOST_ERR_DENIED
  else if status = 3 then HOST_ERR_UE
  else if 4 ≤ status ∧ status ≤ 6 then HOST_ERR_ABORT
  else HOST_ERR_OTHER

/-- Count an access in HOST_ERR and record it in HOST_ERR_ADDR. `bar2`: 1 for BAR2. A partial request has no status, and
0 stands for it. -/
def State.hostError (s : State) (f : Nat) (write : Bool) (bar2 off status : Nat) : State :=
  let fld := errField status
  let e := s.rd A.hostErr f
  let s := s.wr A.hostErr f (patch e fld.lo fld.w (min (2 ^ fld.w - 1) (slice e fld.lo fld.w + 1)))
  let hi := slice off 32 7 + 2 ^ 7 * bar2 + 2 ^ 8 * (if status = urStatus then 0 else status) + 2 ^ 12 * bit write
  s.wr A.hostErrAddr f (slice off 0 32 + 2 ^ 32 * hi)

/-- Count a status that is not OK. (log 117 DEDUCED) -/
def State.noteStatus (s : State) (f : Nat) (write : Bool) (bar2 off status : Nat) : State :=
  if status = 0 then s else s.hostError f write bar2 off status

/-- A read completes; a write is posted and has no completion. -/
def State.complete (s : State) (f : Nat) (write : Bool) (status data : Nat) : State :=
  let d := if status = 0 ∨ status = 3 then data else 0
  let s := s.ans status d
  if write then s else { s with out := s.out ++ [.completion f status d] }

/-- A function's HOST_BAR2_CFG. -/
def State.bar2Mode (s : State) (f : Nat) : Nat := slice (s.rd A.hostBar2 f) 0 2
def State.bar2Device (s : State) (f : Nat) : Nat := slice (s.rd A.hostBar2 f) 2 12

/-! ### Resets (R459) -/

/-- Reset the host state of PCIe function `f`: BAR2 configuration, MSI-X table, queue access, error registers. -/
def State.funcReset (s : State) (f : Nat) : State :=
  let s := [A.vecRaised, A.vecPend, A.vecOpen, A.vecMsg].foldl (fun s a => s.drop a fun i => i / 1024 = f) s
  let s := [A.qAcc, A.qHiLatch, A.qHeld, A.qLastLo].foldl (fun s a => s.drop a fun i => i % 64 = f) s
  let s := [A.funcMask, A.hostBar2, A.hostDm, A.hostErr, A.hostErrAddr, A.hostErrLatch].foldl (fun s a => s.wr a f 0) s
  State.dropOpen { s with farReqs := s.farReqs.filter (·.func ≠ f) } f

/-- PERST#, a hot reset, or a link-down event. -/
def State.endpointReset (s : State) : State := s.each 33 fun s f => s.funcReset f

end Sys2Proof.Machine
end

