-- ==== Sys2Proof/Machine/Operands.lean ====
section
/-! DEFINITION. What the units of a partition read: history rows with the visibility of R35 and R50, state, landing and
port stores, constants; late items (R48); the checks of stored errors (R51) and of the hazard detector (R167). -/

namespace Sys2Proof.Machine

open Reg

/-! ### History with visibility -/

/-- Lags of the readers (R50, R72, R108): a write of class `cls` at step `x` is seen by a reader of lag `g` at step `t`
when x + g + cls is at most t. -/
def lagCell : Nat := 2
def lagGather : Nat := 3
def lagLane : Nat := 0
/-- Software, which reads what has been written by the end of step `t`. -/
def lagSoft : Nat := 1

/-- The pending writes of a history row that a reader sees, oldest first. -/
def State.histSeen (s : State) (bed step g t : Nat) : List HistPend :=
  s.histPend.filter fun p => p.bed = bed ∧ p.step = step ∧ p.step + g + p.lag ≤ t

/-- Apply a write to a row: only the cells of its mask change. -/
def applyRow (row : Nat) (p : HistPend) : Nat := (row &&& (0xFFFF ^^^ p.mask)) ||| (p.row &&& p.mask)

/-- History row `step` of a bed as a reader of lag `g` sees it at step `t` (R35). -/
def State.histRow (s : State) (bed step g t : Nat) : Nat :=
  (s.histSeen bed step g t).foldl applyRow (s.rd A.hist (512 * bed + step))

/-- The same for the partition, which reads 0 at steps D to 511 (R34). -/
def State.partRow (s : State) (d bed step g t : Nat) : Nat :=
  if d ≤ step then 0 else s.histRow bed step g t

/-- Flag-history entry `step` of a bed (R36). -/
def State.flagEntry (s : State) (bed step g t : Nat) : Nat :=
  (s.histSeen bed step g t).foldl (fun v p => p.flags.getD v) (s.rd A.wflag (512 * bed + step))

def State.partFlags (s : State) (d bed step g t : Nat) : Nat :=
  if d ≤ step then 0 else s.flagEntry bed step g t

/-- Record a write of history row `step` (R33, R96). -/
def State.putHist (s : State) (bed step mask row : Nat) (flags : Option Nat) (lag : Nat) : State :=
  { s with histPend := s.histPend ++ [⟨bed, step, mask, row, flags, lag⟩] }

/-- Move one pending write into the stores. -/
def State.flushOne (s : State) (p : HistPend) : State :=
  let s := s.wrE A.hist (512 * p.bed + p.step) (applyRow (s.rd A.hist (512 * p.bed + p.step)) p)
  match p.flags with
  | some f => s.wrE A.wflag (512 * p.bed + p.step) f
  | none => s

/-- Slot that owns a bed, a course. -/
def State.slotOfBed (s : State) (b : Nat) : Option Nat := s.slotOfWall (b / 256)
def State.slotOfCourse (s : State) (u : Nat) : Option Nat := s.slotOfWall (u / 16)

/-- Complete the pending writes of slot `k` (R102). -/
def State.flushHist (s : State) (k : Nat) : State :=
  let mine := s.histPend.filter fun p => s.slotOfBed p.bed = some k
  let rest := s.histPend.filter fun p => s.slotOfBed p.bed ≠ some k
  mine.foldl State.flushOne { s with histPend := rest }

/-- Last step completed, for a partition that does not step. -/
def State.doneStep (s : State) (k : Nat) : Nat := s.rd A.pStep k - s.rd A.pFrozen k

/-! ### Selectors of cell operands (R60) -/

def selSpace (sel : Nat) : Nat := slice sel 13 3
def selIx (sel : Nat) : Nat := slice sel 0 13

def selReserved (sel : Nat) : Bool :=
  let ix := selIx sel
  match selSpace sel with
  | 0 => false
  | 1 => 0x1000 ≤ ix
  | 2 => false
  | 3 => 0x400 ≤ ix
  | 4 => ¬ (ix ≤ 3 ∨ (0x40 ≤ ix ∧ ix ≤ 0x7F))
  | 5 => slice ix 9 2 ≠ 0
  | _ => true

/-- Keys of the landing row and the port line that a partition in emulated cycle `n` reads (R40, R43). -/
def landKey (bed bank step : Nat) : Nat := 512 * (2 * bed + bank) + step
def portKey (bed bank line : Nat) : Nat := 16 * (4 * bed + bank) + line

/-- CONST operands (chapter 01). -/
def State.constant (s : State) (k ix : Nat) : Nat :=
  if ix = 0 then 0
  else if ix = 1 then 1
  else if ix = 2 then bit (s.rd A.pCycle k = 0)
  else if ix = 3 then s.rd A.pCycle k % 2
  else slice (s.rd A.esTab (4096 * k + s.rd A.esIdx k)) (ix - 0x40) 1

/-- The value of a cell operand at step `t` (chapter 03, function operand). -/
def State.operand (s : State) (k bed t sel : Nat) : Nat :=
  let ix := selIx sel
  let n := s.rd A.pCycle k
  let d := s.rd A.pDepth k
  match selSpace sel with
  | 0 => slice (s.partRow d bed (slice ix 0 9) lagCell t) (slice ix 9 4) 1
  | 1 => slice (s.rd A.state (256 * bed + slice ix 0 8)) (slice ix 8 4) 1
  | 2 => slice (s.rd A.land (landKey bed (n % 2) (slice ix 0 9))) (slice ix 9 4) 1
  | 3 => slice (s.rd A.port (portKey bed (n % 4) (slice ix 6 4))) (slice ix 0 6) 1
  | 4 => s.constant k ix
  | 5 => slice (s.partFlags d bed (slice ix 0 9) lagCell t) (slice ix 11 2) 1
  | _ => 0

/-! ### Late items (R48, R490) -/

/-- Flags that an item still needs. -/
def State.lateNeed (s : State) (i : LateItem) : Nat :=
  if i.kind = 1 then i.need &&& (0xFFFF ^^^ s.rd A.portP (4 * i.bed + i.bank))
  else i.need &&& (0xFFFF ^^^ s.rd A.landP (landKey i.bed i.bank i.landStep))

def State.isLate (s : State) (i : LateItem) : Bool := s.lateNeed i ≠ 0

/-- The presence check of a cell operand: nothing for other spaces. -/
def State.selLate (s : State) (k bed cell operand t sel : Nat) : List LateItem :=
  let ix := selIx sel
  let n := s.rd A.pCycle k
  let i : Option LateItem := match selSpace sel with
    | 2 => some ⟨k, bed, 0, cell, operand, 2 ^ slice ix 9 4, slice ix 0 9, n % 2, t⟩
    | 3 => some ⟨k, bed, 1, cell, operand, 2 ^ slice ix 6 4, 0, n % 4, t⟩
    | _ => none
  i.toList.filter s.isLate

/-- The four selectors of a cell instruction, A to D. -/
def cellSels (w : Nat) : List Nat := [slice w 0 16, slice w 16 16, slice w 32 16, slice w 48 16]

/-- Late items of an EVAL or ASSERT (R62). -/
def State.cellLate (s : State) (k cell t w : Nat) : List LateItem :=
  ((cellSels w).zipIdx.map fun (sel, o) => s.selLate k (cell / 16) (cell % 16) o t sel).flatten

/-- Word operand fields (R89). -/
def wopReserved (f : Nat) : Bool :=
  match slice f 12 2 with
  | 0 => slice f 9 3 ≠ 0
  | 1 => slice f 9 3 ≠ 0
  | 2 => slice f 8 4 ≠ 0
  | _ => false

/-- How many operands a word operation uses; none for a code that R95 does not list. -/
def wopUses (op : Nat) : Option Nat :=
  if 0x01 ≤ op ∧ op ≤ 0x04 then some 1
  else if (0x08 ≤ op ∧ op ≤ 0x0B) ∨ (0x10 ≤ op ∧ op ≤ 0x13) ∨ (0x18 ≤ op ∧ op ≤ 0x1B) ∨ (0x20 ≤ op ∧ op ≤ 0x22) ∨
      (0x28 ≤ op ∧ op ≤ 0x2A) ∨ (0x30 ≤ op ∧ op ≤ 0x33) ∨ op = 0x38 then some 2
  else none

def wop (w : Nat) : Nat := slice w 42 6
/-- The operand fields that the operation of word instruction `w` uses, A first. -/
def wopFields (w : Nat) : List Nat := [slice w 26 14, slice w 12 14].take ((wopUses (wop w)).getD 0)

/-- The first reserved element (R92): 0 bit 40, 1 A, 2 B. -/
def wopBad (w : Nat) : Option Nat :=
  if slice w 40 1 = 1 then some 0
  else ((wopFields w).zipIdx.find? fun x => wopReserved x.1).map fun x => x.2 + 1

/-- Late items of a word instruction (R90): each LAND operand is one item that needs all 16 lanes. -/
def State.wordLate (s : State) (k bed t w : Nat) : List LateItem :=
  let n := s.rd A.pCycle k
  ((wopFields w).zipIdx.filterMap fun (f, o) =>
    if slice f 12 2 = 1 then some ⟨k, bed, 2, 0, o, 0xFFFF, slice f 0 9, n % 2, t⟩ else none).filter s.isLate

/-- The value of a word operand (R89, R90). -/
def State.wopnd (s : State) (k bed t f : Nat) : Nat :=
  match slice f 12 2 with
  | 0 => s.partRow (s.rd A.pDepth k) bed (slice f 0 9) lagCell t
  | 1 => s.rd A.land (landKey bed (s.rd A.pCycle k % 2) (slice f 0 9))
  | 2 => s.rd A.state (256 * bed + slice f 0 8)
  | _ => slice f 0 12 + 0xF000 * slice f 11 1

/-- GATHER fields (R70): source bed (flat), space, mode. -/
def gatherBed (u w : Nat) : Nat := 16 * u + slice w 54 4
def gatherBad (w : Nat) : Option Nat :=
  if slice w 38 2 = 3 then some 1 else if 2 ≤ slice w 36 2 then some 2 else none

/-- Late item of a GATHER (R72). -/
def State.gatherLate (s : State) (k u t w : Nat) : List LateItem :=
  if gatherBad w = none ∧ slice w 38 2 = 1 then
    ([⟨k, gatherBed u w, 3, 0, 0, if slice w 36 2 = 0 then 0xFFFF else 2 ^ slice w 32 4, slice w 45 9,
      s.rd A.pCycle k % 2, t⟩] : List LateItem).filter s.isLate
  else []

/-- Late item of a lane relay (R109). -/
def State.relayLate (s : State) (k bed t e : Nat) : List LateItem :=
  if slice e 15 1 = 1 ∧ slice e 14 1 = 1 then
    ([⟨k, bed, 4, 0, 0, 2 ^ slice e 9 4, slice e 0 9, s.rd A.pCycle k % 2, t⟩] : List LateItem).filter s.isLate
  else []

/-- Mask of the cells of a bed that YIELD at step `t` (chapter 04). -/
def State.yields (s : State) (bed t : Nat) : Nat :=
  (List.range 16).foldl (fun m c =>
    let key := 512 * (16 * bed + c) + t
    if slice (s.rd A.imem key) 92 4 = 3 ∧ s.errOf A.imem key ≠ 2 then m + 2 ^ c else m) 0

/-- Every late item that slot `k` meets at step `t` on this device: the hold votes of the dies (R137). -/
def State.votes (s : State) (k t : Nat) : List LateItem :=
  (s.arr.map fun (key, v) =>
    let i := key / 512
    if i % 512 ≠ t ∨ s.errOf ⟨key % 512, 96⟩ i = 2 then []
    else if key % 512 = A.imem.code then
      let c := i / 512
      if s.slotOfBed (c / 16) = some k ∧ (slice v 92 4 = 1 ∨ slice v 92 4 = 2) ∧ ¬ (cellSels v).any selReserved then
        s.cellLate k c t v
      else []
    else if key % 512 = A.wimem.code then
      let b := i / 512
      if s.slotOfBed b = some k ∧ s.yields b t = 0xFFFF ∧ wopBad v = none then s.wordLate k b t v else []
    else if key % 512 = A.pimem.code then
      let u := i / 512
      if s.slotOfCourse u = some k ∧ slice v 58 6 = 1 then s.gatherLate k u t v else []
    else if key % 512 = (A.mTab 0).code then
      let b := i / 512 / 16
      if s.slotOfBed b = some k then s.relayLate k b t v else []
    else []).flatten

/-- The lowest bit set in a mask of 16. -/
def lowBit (m : Nat) : Nat := (firstIx 16 fun i => m.testBit i).getD 0

/-- The order in which outstanding items are shown (R490), as one number: bed, kind, cell, operand, and the lane or line
of the flag that the item needs. -/
def LateItem.rank (i : LateItem) : Nat := (((i.bed * 8 + i.kind) * 16 + i.cell) * 4 + i.operand) * 16 + lowBit i.need

/-- The item that HOLD_ITEM_LOC shows: the first outstanding one of slot `k`. (log 24 DEDUCED) -/
def State.lateFirst (s : State) (k : Nat) : Option LateItem :=
  (s.late.filter fun i => i.slot = k ∧ s.isLate i).foldl (fun a i =>
    match a with
    | none => some i
    | some b => some (if i.rank < b.rank then i else b)) none

/-- A corrected error of a data store's entry is counted. -/
def State.countCe (s : State) (die : Nat) (a : Arr) (i : Nat) : State :=
  if s.errOf a i = 1 then s.cnt (D die) STORE_CE_COUNT_DATA_CE 1 else s

/-- The corrected errors of a cell operand's read, of a word operand's. -/
def State.selCe (s : State) (k bed sel : Nat) : State :=
  let ix := selIx sel
  match selSpace sel with
  | 1 => s.countCe (bed / 4096) A.state (256 * bed + slice ix 0 8)
  | 3 => s.countCe (bed / 4096) A.port (portKey bed (s.rd A.pCycle k % 4) (slice ix 6 4))
  | _ => s
def State.wopCe (s : State) (bed f : Nat) : State :=
  if slice f 12 2 = 2 then s.countCe (bed / 4096) A.state (256 * bed + slice f 0 8) else s

/-- The corrected errors that the reads of step `t` of slot `k` meet before a hold freezes it (R170): of the instruction
fetches, then of the operands. (log 138 DEDUCED) -/
def State.frozenCe (s : State) (k t : Nat) : State :=
  let fetched := s.arr.filterMap fun (key, v) =>
    let i := key / 512 / 512
    if key % 512 ≠ A.err.code ∨ v % 4 ≠ 1 ∨ i % 512 ≠ t then none
    else if key / 512 % 512 = A.imem.code then some (i / 512 / 65536, s.slotOfBed (i / 512 / 16))
    else if key / 512 % 512 = A.wimem.code then
      (if wop (s.rd A.wimem i) = 0 then none else some (i / 512 / 4096, s.slotOfBed (i / 512)))
    else if key / 512 % 512 = A.pimem.code then some (i / 512 / 256, s.slotOfCourse (i / 512))
    else none
  let s := fetched.foldl (fun s x => if x.2 = some k then s.cnt (D x.1) STORE_CE_COUNT_IMEM_CE 1 else s) s
  s.arr.foldl (fun s (key, v) =>
    let i := key / 512
    if i % 512 ≠ t ∨ s.errOf ⟨key % 512, 96⟩ i = 2 then s
    else if key % 512 = A.imem.code then
      let bed := i / 512 / 16
      if s.slotOfBed bed = some k ∧ (slice v 92 4 = 1 ∨ slice v 92 4 = 2) ∧ ¬ (cellSels v).any selReserved then
        (cellSels v).foldl (fun s sel => s.selCe k bed sel) s
      else s
    else if key % 512 = A.wimem.code then
      let bed := i / 512
      if s.slotOfBed bed = some k ∧ s.yields bed t = 0xFFFF ∧ wopBad v = none then
        (wopFields v).foldl (fun s f => s.wopCe bed f) s
      else s
    else if key % 512 = A.pimem.code then
      let u := i / 512
      if s.slotOfCourse u = some k ∧ slice v 58 6 = 1 ∧ gatherBad v = none ∧ slice v 38 2 = 2 then
        s.countCe (u / 256) A.state (256 * gatherBed u v + slice v 45 9 % 256)
      else s
    else s) s

/-- The partition exchanges frames (R267). -/
def State.liveLinks (s : State) (k : Nat) : Bool := ¬ s.replaying k ∨ s.rf (P k) REC_REPLAY_LIVE_LINKS = 1

/-- Items of a replay that wait for the feed: every late read but those of a landing store that live links write (R267,
R268). (log 24 DEDUCED) -/
def State.fedItem (s : State) (k : Nat) (i : LateItem) : Bool := s.replaying k ∧ (i.kind = 1 ∨ ¬ s.liveLinks k)

/-- Freeze step `t` of slot `k` on its late items (R48, R137): nothing of the step is performed. -/
def State.freeze (s : State) (k t : Nat) (items : List LateItem) : State :=
  let s := { s.frozenCe k t with late := s.late ++ items }
  let s := if items.any (s.fedItem k) then s.addCause k 3 else s
  let s := if items.any fun i => i.kind ≠ 1 ∧ ¬ s.fedItem k i then s.addCause k 1 else s
  let s := if items.any fun i => i.kind = 1 ∧ ¬ s.fedItem k i then s.addCause k 2 else s
  (s.wr A.pFrozen k 1).enterHeld k

/-- A 48-bit value in a LO/HI pair. -/
def State.pair48 (s : State) (off : Nat) : Nat := s.pair off % 2 ^ 48

/-- Emulated cycle `n` lies in the dump window (R272). -/
def State.dumping (s : State) (k n : Nat) : Bool :=
  s.rf (P k) REC_REPLAY_DUMP = 1 ∧ s.rf (P k) REC_REGION_VALID = 1 ∧
  s.pair48 (P k + oREC_DUMP_FROM_LO) ≤ n ∧ n ≤ s.pair48 (P k + oREC_DUMP_TO_LO)

/-- Step `t` may not be performed yet: it would rewrite a row that the dump has not copied (R273). -/
def State.dumpBlocks (s : State) (k t : Nat) : Bool :=
  t < s.rd A.pDepth k ∧ s.rf (P k) REC_REPLAY_DUMP = 1 ∧ (s.wallsOf k).any fun w => s.on A.dumpDue (512 * w + t)

/-- A condition of cause RECORDER is present (R136): the write buffer, the region, the copy-on-write buffer, a row to be
dumped, or, in a replay, a read that waits for the feed (R268). -/
def State.recCond (s : State) (k : Nat) : Bool :=
  s.recHolds k ∨
  ((s.snapOf k).isSome ∧ (List.range 8).any fun d => s.cowFull d 1) ∨
  (s.late.any fun i => i.slot = k ∧ s.isLate i ∧ s.fedItem k i) ∨
  (s.on A.pFrozen k ∧ s.dumpBlocks k (s.rd A.pStep k))

/-- A service write that waits for the copy-on-write buffer (R255). -/
def isSvcWrite : Instr → Bool
  | .bayServiceWrite _ _ _ _ _ => true
  | _ => false

/-- The service writes that waited are performed next, and what waits behind them. (log 192 DEDUCED) -/
def State.releaseSvc (s : State) : State := if s.held.any fun h => isSvcWrite h.cmd then s.releaseHeld else s

/-- Drop cause RECORDER when none of its conditions is left. (log 19 DEDUCED) -/
def State.recSettle (s : State) (k : Nat) : State := if s.recCond k then s else (s.dropCause k 3).releaseSvc

/-- Drop the items whose flags are set; the LATE causes go with the last item of their kind (R136). (log 24 DEDUCED) -/
def State.refreshLate (s : State) (k : Nat) : State :=
  let s := { s with late := s.late.filter fun i => i.slot ≠ k ∨ s.isLate i }
  let s := if s.late.any fun i => i.slot = k ∧ i.kind ≠ 1 ∧ ¬ s.fedItem k i then s else s.dropCause k 1
  let s := if s.late.any fun i => i.slot = k ∧ i.kind = 1 ∧ ¬ s.fedItem k i then s else s.dropCause k 2
  if s.replaying k then s.recSettle k else s

/-! ### Writes of the presence-checked stores (R45 to R47) -/

/-- Write one bit of a landing row and set its flag (R39). -/
def State.landBit (s : State) (bed bank lane step : Nat) (v : Bool) : State :=
  let key := landKey bed bank step
  let s := s.wrLand key (2 ^ lane) (2 ^ lane * bit v)
  let s := s.wr A.landP key (s.rd A.landP key ||| 2 ^ lane)
  match s.slotOfBed bed with
  | some k => s.refreshLate k
  | none => s

/-- Write a whole port-store line and set its flag (R45, R46); `due` is its compiled earliest position (R79). -/
def State.putLine (s : State) (bed bank line data due : Nat) : State :=
  let key := portKey bed bank line
  let s := (s.wrE A.port key data).wr A.portDue key due
  let s := s.wrPres (4 * bed + bank) (2 ^ line) (2 ^ line)
  match s.slotOfBed bed with
  | some k => s.refreshLate k
  | none => s

/-- Deliver `n` lines from `line` on, filled from bit 0 of `data` upward; lines above 15 do not exist (R78, R87). -/
def State.deliver (s : State) (bed bank line n data due : Nat) : State :=
  s.each n fun s i => if line + i < 16 then s.putLine bed bank (line + i) (slice data (64 * i) 64) due else s

/-! ### Stored errors (R51, R52) -/

/-- DETAIL of STORE_ERROR (R180); its index field has 9 bits. (log 25 DEDUCED) -/
def storeDetail (store index bank lane shadow : Nat) : Nat :=
  store + 2 ^ 4 * (index % 512) + 2 ^ 13 * bank + 2 ^ 15 * lane + 2 ^ 19 * shadow

/-- After a read of entry `i` of a data store by a unit of slot `k` at step `t`: a corrected error is counted, an
uncorrectable one is the fault STORE_ERROR. -/
def State.noteRead (s : State) (k t : Nat) (a : Arr) (i : Nat) (l : Loc) (detail : Nat) : State :=
  match s.errOf a i with
  | 0 => s
  | 1 => s.cnt (D l.die) STORE_CE_COUNT_DATA_CE 1
  | _ => s.faultAt k 0x20 l .e (s.posCycle k) t detail

/-- The uncorrectable error of an entry is the fault. -/
def State.noteBad (s : State) (k t : Nat) (bad : Bool) (l : Loc) (detail : Nat) : State :=
  if bad then s.faultAt k 0x20 l .e (s.posCycle k) t detail else s

/-- After the read of a history row at step `t` by a reader of lag `g`: a write that the reader sees has written the
row's parity. The same of a flag entry. -/
def State.noteHist (s : State) (k t bed step g : Nat) : State :=
  s.noteBad k t (s.histSeen bed step g t = [] ∧ s.errOf A.hist (512 * bed + step) ≠ 0) (Loc.ofBed bed)
    (storeDetail 1 step 0 0 0)
def State.noteFlags (s : State) (k t bed step : Nat) : State :=
  s.noteBad k t (¬ (s.histSeen bed step lagCell t).any (·.flags.isSome) ∧ s.errOf A.wflag (512 * bed + step) ≠ 0)
    (Loc.ofBed bed) (storeDetail 5 step 0 0 0)
def State.noteState (s : State) (k t bed a : Nat) : State :=
  s.noteRead k t A.state (256 * bed + a) (Loc.ofBed bed) (storeDetail 2 a 0 0 0)
/-- After the read of the entries `lanes` of a landing row: DETAIL names the lowest one whose parity is wrong. (log 25 DEDUCED) -/
def State.noteLand (s : State) (k t bed bank step lanes : Nat) : State :=
  let bad := s.rd A.landErr (landKey bed bank step) &&& lanes
  s.noteBad k t (bad ≠ 0) (Loc.ofBed bed) (storeDetail 3 step bank (lowBit bad) 0)
def State.notePort (s : State) (k t bed bank line : Nat) : State :=
  let s := s.noteRead k t A.port (portKey bed bank line) (Loc.ofBed bed) (storeDetail 4 line bank line 0)
  s.noteBad k t ((s.rd A.portPErr (4 * bed + bank)).testBit line) (Loc.ofBed bed) (storeDetail 6 line bank line 0)

/-- The checks of a cell operand's read. -/
def State.noteSel (s : State) (k bed t sel : Nat) : State :=
  let ix := selIx sel
  let n := s.rd A.pCycle k
  match selSpace sel with
  | 0 => s.noteHist k t bed (slice ix 0 9) lagCell
  | 1 => s.noteState k t bed (slice ix 0 8)
  | 2 => s.noteLand k t bed (n % 2) (slice ix 0 9) (2 ^ slice ix 9 4)
  | 3 => s.notePort k t bed (n % 4) (slice ix 6 4)
  | 4 =>
    if 0x40 ≤ ix ∧ s.errOf A.esTab (4096 * k + s.rd A.esIdx k) = 2 then
      s.faultAt k 0x20 (Loc.ofBed bed) .e n t (storeDetail 9 (s.rd A.esIdx k) 0 0 0)
    else s
  | 5 => s.noteFlags k t bed (slice ix 0 9)
  | _ => s

/-- The checks of a word operand's read. -/
def State.noteWop (s : State) (k bed t f : Nat) : State :=
  match slice f 12 2 with
  | 0 => s.noteHist k t bed (slice f 0 9) lagCell
  | 1 => s.noteLand k t bed (s.rd A.pCycle k % 2) (slice f 0 9) 0xFFFF
  | 2 => s.noteState k t bed (slice f 0 8)
  | _ => s

/-! ### The hazard detector (R167, R168) -/

def State.debug (s : State) : Bool := s.rf 0 DEBUG_CTRL_ACTIVE = 1

/-- HAZ_HIST_EARLY detail for reader `r`, or none when the read of cell `c` of history row `step` (lag `g`) is not
early. -/
def State.hzHistBit (s : State) (d bed step g t c : Nat) : Option (Nat × Nat × Bool) :=
  let h := s.rd A.hzHist (512 * bed + step)
  let first := step + g + slice h (16 + 2 * c) 2
  if d ≤ step ∨ slice h c 1 = 0 then some (0, 0, true)
  else if t < first then some (step, first, false)
  else none

/-- Report reads of history entries `cells` (a mask) of one row: one record, naming the lowest early cell, with the mask
of all early ones for a row read. The record's step fields have 9 bits. (log 25 DEDUCED) -/
def State.hzHistRead (s : State) (k bed step g t r cells : Nat) (row : Bool) (l : Loc) : State :=
  if ¬ s.debug then s
  else
    let d := s.rd A.pDepth k
    let early := (List.range 16).filter fun c => cells.testBit c ∧ (s.hzHistBit d bed step g t c).isSome
    match early with
    | [] => s
    | c :: _ =>
      let x := (s.hzHistBit d bed step g t c).getD (0, 0, true)
      let m := early.foldl (fun m c => m + 2 ^ c) 0
      s.faultAt k 0x50 l .h (s.rd A.pCycle k) t
        (r + 2 ^ 4 * c + 2 ^ 11 * step + 2 ^ 20 * x.1 + 2 ^ 29 * bit x.2.2 + 2 ^ 30 * (x.2.1 % 512) + 2 ^ 39 * (if row then m else 0))

/-- Report the read of a flag-history entry: reader `r`, flag `f`. (log 25 DEDUCED) -/
def State.hzFlagRead (s : State) (k bed step f t r : Nat) (l : Loc) : State :=
  if ¬ s.debug then s
  else
    let h := s.rd A.hzFlag (512 * bed + step)
    let first := step + lagCell + slice h 1 2
    let never := s.rd A.pDepth k ≤ step ∨ slice h 0 1 = 0
    if never ∨ t < first then
      s.faultAt k 0x50 l .h (s.rd A.pCycle k) t
        (r + 2 ^ 8 + 2 ^ 9 * f + 2 ^ 11 * step + 2 ^ 20 * (if never then 0 else step) + 2 ^ 29 * bit never +
          2 ^ 30 * (if never then 0 else first % 512))
    else s

/-- Report a LAND read before its landing step: `lanes` is the mask read. -/
def State.hzLandRead (s : State) (k bank lstep t r lanes : Nat) (row : Bool) (l : Loc) : State :=
  if s.debug ∧ t < lstep then
    s.faultAt k 0x51 l .h (s.rd A.pCycle k) t
      (2 * lowBit lanes + 2 ^ 5 * bank + 2 ^ 7 * lstep + 2 ^ 18 * r + 2 ^ 22 * (if row then lanes else 0))
  else s

/-- Report a PORT read of a delivered line before its due step. -/
def State.hzPortRead (s : State) (k bed bank line t r : Nat) (l : Loc) : State :=
  let due := s.rd A.portDue (portKey bed bank line)
  if s.debug ∧ t < slice due 0 9 then
    s.faultAt k 0x51 l .h (s.rd A.pCycle k) t
      (1 + 2 * line + 2 ^ 5 * bank + 2 ^ 7 * slice due 0 9 + 2 ^ 16 * slice due 9 2 + 2 ^ 18 * r)
  else s

/-- The checks of a cell operand. -/
def State.hzSel (s : State) (k cell t sel : Nat) : State :=
  let ix := selIx sel
  let n := s.rd A.pCycle k
  let bed := cell / 16
  let l := Loc.ofCell cell
  match selSpace sel with
  | 0 => s.hzHistRead k bed (slice ix 0 9) lagCell t 0 (2 ^ slice ix 9 4) false l
  | 2 => s.hzLandRead k (n % 2) (slice ix 0 9) t 0 (2 ^ slice ix 9 4) false l
  | 3 => s.hzPortRead k bed (n % 4) (slice ix 6 4) t 0 l
  | 5 => s.hzFlagRead k bed (slice ix 0 9) (slice ix 11 2) t 0 l
  | _ => s

/-- The checks of a word operand. -/
def State.hzWop (s : State) (k bed t f : Nat) : State :=
  match slice f 12 2 with
  | 0 => s.hzHistRead k bed (slice f 0 9) lagCell t 1 0xFFFF true (Loc.ofBed bed)
  | 1 => s.hzLandRead k (s.rd A.pCycle k % 2) (slice f 0 9) t 1 0xFFFF true (Loc.ofBed bed)
  | _ => s

/-- Mark cells of a history row as written in this emulated cycle by a writer of kind `lag`. -/
def State.hzMark (s : State) (bed step mask lag : Nat) : State :=
  if ¬ s.debug then s
  else
    let h := s.rd A.hzHist (512 * bed + step)
    s.wr A.hzHist (512 * bed + step)
      ((List.range 16).foldl (fun h c => if mask.testBit c then patch h (16 + 2 * c) 2 lag else h) (h ||| mask))

end Sys2Proof.Machine
end

