-- ==== Sys2Proof/Machine/Trigger.lean ====
section
/-! DEFINITION. Trigger units, probe words and capture (chapter 12, R275 to R291). A unit is 4 die + unit. -/

namespace Sys2Proof.Machine

open Reg

/-- Base of a probe word's registers; its owner (flat: 32 die + word). -/
def wordBase (w : Nat) : Nat := D (w / 32) + 4 * (w % 32)

def State.wordOwner (s : State) (w : Nat) : Option Nat :=
  if s.rf (wordBase w) PROBE_WORD_CFG_OWNED = 1 then some (s.rf (wordBase w) PROBE_WORD_CFG_OWNER) else none

/-- W of a probe word. -/
def State.wordWidth (s : State) (w : Nat) : Nat := s.rf (wordBase w) PROBE_WORD_CFG_WIDTH_M1 + 1

/-- The wall belongs to partition `pid`. -/
def State.wallOf (s : State) (wall pid : Nat) : Bool := (s.slotOfWall wall).any fun k => decide (s.rd A.pPid k = pid)

/-- The value of a probe word at a sample (R276, R277). -/
def State.probeWord (s : State) (w : Nat) : Nat :=
  match s.wordOwner w with
  | none => 0
  | some pid =>
    (List.range (s.wordWidth w)).foldl (fun v i =>
      let e := s.rd A.pmap (64 * w + i)
      let cell := 65536 * (w / 32) + 4096 * slice e 12 4 + 256 * slice e 8 4 + 16 * slice e 4 4 + slice e 0 4
      if slice e 16 1 = 1 ∧ s.wallOf (cell / 4096) pid then v + 2 ^ i * s.rd A.probe cell else v) 0

/-- A value of width `w` as a signed or unsigned number. -/
def asInt (signed : Bool) (w v : Nat) : Int :=
  if signed ∧ 2 ^ (w - 1) ≤ v then (v : Int) - 2 ^ w else v

/-- Register of comparator `c` of a unit. -/
def cmpBase (u c : Nat) : Nat := TU u + 4 * c

/-- MASK, A and B of comparator `c`: j = 0, 1, 2. -/
def State.cmpOperand (s : State) (u c j : Nat) : Nat := s.pair (TU u + 0x10 + 0x18 * c + 8 * j)

/-- Flat probe word of comparator `c`. -/
def State.cmpWord (s : State) (u c : Nat) : Nat := 32 * (u / 4) + s.rf (cmpBase u c) TRIG_CMP_CFG_WORD

/-- Comparator `c` is true for `v`, given v(n−1) (R278). -/
def State.cmpTrue (s : State) (u c v : Nat) : Bool :=
  let b := cmpBase u c
  let sg := s.rf b TRIG_CMP_CFG_SIGNED = 1
  let w := s.wordWidth (s.cmpWord u c)
  let dir := s.rf b TRIG_CMP_CFG_DIR
  let mask := s.cmpOperand u c 0
  let lvl := s.cmpOperand u c 1
  let x := asInt sg w v
  let a := asInt sg 64 lvl
  let bb := asInt sg 64 (s.cmpOperand u c 2)
  -- the extension of v to 64 bits, for MATCH and TRANSITION
  let v64 := (x % 2 ^ 64).toNat
  let p := s.rd A.tgPrev (2 * u + c)
  let p64 := (asInt sg w p % 2 ^ 64).toNat
  let px := asInt sg w p
  let d := (p64 ^^^ v64) &&& mask
  match s.rf b TRIG_CMP_CFG_KIND with
  | 1 => v64 &&& mask = lvl &&& mask
  | 2 => a ≤ x ∧ x ≤ bb
  | 3 => x < a ∨ bb < x
  | 4 => s.on A.tgValid u ∧ (match dir with | 0 => d | 1 => d &&& v64 | _ => d &&& (2 ^ 64 - 1 - v64)) ≠ 0
  | 5 => s.on A.tgValid u ∧ ((dir ≠ 1 ∧ px < a ∧ a ≤ x) ∨ (dir ≠ 0 ∧ a < px ∧ x ≤ a))
  | _ => false

/-- A condition of the sequencer (R280). -/
def condTrue (cond : Nat) (c0 c1 ext : Bool) : Bool :=
  match cond with
  | 1 => c0
  | 2 => c1
  | 3 => c0 && c1
  | 4 => c0 || c1
  | 5 => c0 && !c1
  | 6 => ext
  | 7 => c0 && ext
  | 8 => true
  | _ => false

/-- The condition names C0, C1, EXT. -/
def condHas0 (cond : Nat) : Bool := cond = 1 ∨ (3 ≤ cond ∧ cond ≤ 5) ∨ cond = 7
def condHas1 (cond : Nat) : Bool := 2 ≤ cond ∧ cond ≤ 5
def condHasExt (cond : Nat) : Bool := cond = 6 ∨ cond = 7

/-- The place of a crossing (R285), in 1/256 of an emulated cycle. -/
def crossingFraction (v0 v1 lvl : Int) : Int := if v1 = v0 then 0 else Int.tdiv ((lvl - v0) * 256) (v1 - v0)

/-! ### Capture (R286) -/

/-- Words captured by a unit, ascending. -/
def State.capWords (s : State) (u : Nat) : List Nat := (List.range 32).filter (s.rf (TU u) TRIG_CAP_MASK_VALUE).testBit
/-- E and N. -/
def State.capE (s : State) (u : Nat) : Nat := 1 + (s.capWords u).length
def State.capN (s : State) (u : Nat) : Nat := 512 * (s.rf (TU u) TRIG_CAP_CFG_SIZE_M1 + 1) / s.capE u
/-- Word offset of entry `j` in the unit's area. -/
def State.capOffset (s : State) (u j : Nat) : Nat := s.capE u * (j % s.capN u)

/-- Entry `j` is the next to be written: TRIG_CAP_HEAD shows its offset (R287). -/
def State.capNext (s : State) (u j : Nat) : State := (s.wr A.tgNext u j).wr A.reg (TU u + 0x9C) (s.capOffset u j)

/-- Write the capture entry of emulated cycle `n`. -/
def State.capWrite (s : State) (u n : Nat) (fired : Bool) : State :=
  let ws := s.capWords u
  if ws = [] ∨ s.capN u = 0 then s
  else
    let j := s.rd A.tgNext u
    let at_ := 524288 * (u / 4) + 512 * s.rf (TU u) TRIG_CAP_CFG_BASE + s.capOffset u j
    let vals := (n + 2 ^ 48 * bit fired) :: ws.map fun w => s.probeWord (32 * (u / 4) + w)
    let s := vals.zipIdx.foldl (fun s (x : Nat × Nat) => s.wr A.capt (at_ + x.2) x.1) s
    s.capNext u (j + 1)

/-! ### Firing (R284, R285, R288) -/

/-- The crossing of a fire, by the first comparator of the condition that is a true CROSS: F. (log 52 DEDUCED) -/
def State.crossing (s : State) (u cond v0 v1 : Nat) (c0 c1 : Bool) : Option Nat :=
  let f (c v : Nat) : Nat :=
    let sg := s.rf (cmpBase u c) TRIG_CMP_CFG_SIGNED = 1
    let w := s.wordWidth (s.cmpWord u c)
    (crossingFraction (asInt sg w (s.rd A.tgPrev (2 * u + c))) (asInt sg w v) (asInt sg 64 (s.cmpOperand u c 1))).toNat
  let is (c : Nat) : Bool := s.rf (cmpBase u c) TRIG_CMP_CFG_KIND = 5
  if condHas0 cond ∧ c0 ∧ is 0 then some (f 0 v0)
  else if condHas1 cond ∧ c1 ∧ is 1 then some (f 1 v1)
  else none

/-- A fire of unit `u` in emulated cycle `n`; `cr` is the crossing, `ext` whether the firing condition has EXT. (log 52 DEDUCED) -/
def State.trigFire (s : State) (k u n : Nat) (cr : Option Nat) (ext forced : Bool) : State :=
  let b := TU u
  let pid := s.rf b TRIG_CFG_OWNER
  let off := s.capOffset u (s.rd A.tgNext u)
  let cap := s.capWords u ≠ []
  let f := cr.getD 0
  let place := if cr.isSome then (n * 256 + f) - 256 else n * 256
  let w0 := pid + 2 ^ 8 * (u % 4) + 2 ^ 10 * (u / 4) + 2 ^ 13 * s.chainAddr + 2 ^ 25 * bit cr.isSome + 2 ^ 26 * bit ext +
    2 ^ 27 * s.rf b TRIG_CTRL_SEQ + 2 ^ 30 * bit forced + 2 ^ 31 * f + (if cap then 2 ^ 40 * off + 2 ^ 59 else 0)
  let s := if s.rf b TRIG_CFG_LOG_EN = 1 then
      s.pushRecord (128 * (u / 4) + s.rf b TRIG_CFG_LOG_QUEUE) (some pid) [w0, n, place, s.timeNs]
    else s
  let s := ((s.setPair (b + 0x80) n).setPair (b + 0x88) place).setPair (b + 0x90) s.timeNs
  let s := s.wr A.reg (b + 0x98) (if cap then off + 2 ^ 31 else 0)
  let s := if s.rf b TRIG_CFG_OUT_EN = 1 then s.wr A.tgOut u (1 + s.rf b TRIG_CFG_OUT_PIN) else s
  let s := (s.raise (0x580 + u)).recEvent k (0x20 + u)
  if s.rf b TRIG_CFG_STOP = 1 then s.act k 0 1 else s

/-- Put a unit in a state. -/
def State.trigTo (s : State) (u st : Nat) : State := s.wf (TU u) TRIG_CTRL_STATE st

/-- ARMED, with the sequencer in state 0. -/
def State.trigArmed (s : State) (u : Nat) : State := ((s.trigTo u 2).wf (TU u) TRIG_CTRL_SEQ 0).wr A.tgCount u 0

/-- What the sequencer does in ARMED: its next state, and whether it fires. -/
def State.seqStep (s : State) (u : Nat) (c0 c1 ext : Bool) : State × Bool × Nat :=
  let st := s.rf (TU u) TRIG_CTRL_SEQ
  let b := TU u + 4 * st
  let cond := s.rf b TRIG_SEQ_COND
  if ¬ condTrue cond c0 c1 ext then (s, false, cond)
  else
    let c := s.rd A.tgCount u + 1
    if c < max 1 (s.rf b TRIG_SEQ_COUNT) then (s.wr A.tgCount u c, false, cond)
    else if s.rf b TRIG_SEQ_FIRE = 1 then (s, true, cond)
    else ((s.wf (TU u) TRIG_CTRL_SEQ (s.rf b TRIG_SEQ_NEXT)).wr A.tgCount u 0, false, cond)

/-- ARM_AT: the emulated cycle from which an armed unit samples. -/
def State.trigFrom (s : State) (u : Nat) : Nat :=
  let hi := s.reg (TU u + oTRIG_ARM_CYC_HI)
  if slice hi 31 1 = 1 then s.reg (TU u + oTRIG_ARM_CYC_LO) + 2 ^ 32 * slice hi 0 16 else 0

/-- Step D+1 of emulated cycle `n` for unit `u` of slot `k` (R279). -/
def State.trigUnit (s : State) (k n u : Nat) : State :=
  let st := s.rf (TU u) TRIG_CTRL_STATE
  if st = 0 ∨ st = 4 ∨ n < s.trigFrom u then s
  else
    let v0 := s.probeWord (s.cmpWord u 0)
    let v1 := s.probeWord (s.cmpWord u 1)
    let c0 := s.cmpTrue u 0 v0
    let c1 := s.cmpTrue u 1 v1
    let ext := s.on A.tgExt u ∧ s.rf (TU u) TRIG_CFG_EXT_EN = 1
    let forced := s.on A.tgForce u
    let (s, seqFires, cond) := if st = 2 then s.seqStep u c0 c1 ext else (s, false, 0)
    let fires := st = 2 ∧ (seqFires ∨ forced)
    let s := if fires then
        s.trigFire k u n (if seqFires then s.crossing u cond v0 v1 c0 c1 else none) (seqFires && condHasExt cond) forced
      else s
    let s := s.capWrite u n fires
    let s := s.wr A.tgForce u 0
    let fill := s.rd A.tgFill u + 1
    let post := slice (s.rf (TU u) TRIG_POST_VALUE) 0 20
    let s :=
      if st = 1 then
        (let s := s.wr A.tgFill u fill
         if slice (s.rf (TU u) TRIG_PRE_VALUE) 0 20 ≤ fill then s.trigArmed u else s)
      else if fires then (if post = 0 then s.trigTo u 4 else (s.trigTo u 3).wr A.tgFill u 0)
      else if st = 3 then
        (let s := s.wr A.tgFill u fill
         if post ≤ fill then s.trigTo u 4 else s)
      else s
    let s := (s.wr A.tgPrev (2 * u) v0).wr A.tgPrev (2 * u + 1) v1
    (s.wr A.tgValid u 1).wr A.tgExt u 0

/-- Step D+1 of emulated cycle `n` (R14): every unit samples; then the probe bits begin the next emulated cycle at 0
(R275). -/
def State.trigSample (s : State) (k n : Nat) : State :=
  let s := (s.unitsOf k).foldl (fun s u => s.trigUnit k n u) s
  s.drop A.probe fun c => s.slotOfWall (c / 4096) = some k

/-- Image load and partition reset put the units of a partition in IDLE (R284). -/
def State.trigReset (s : State) (k : Nat) : State :=
  (s.unitsOf k).foldl (fun s u =>
    let s := (((s.trigTo u 0).wr A.tgValid u 0).wr A.tgExt u 0).wr A.tgForce u 0
    (s.wr A.tgPrev (2 * u) 0).wr A.tgPrev (2 * u + 1) 0) s

/-! ### Commands (R282, R283, R291) -/

/-- The initiator may write the unit's registers. -/
def State.mayUnit (s : State) (who : Who) (u : Nat) : Bool := s.pfRights who ∨ s.isOwner who (s.unitOwner u)

/-- Refuse a command with a RESULT; or accept it with 0. -/
def State.trigResult (s : State) (u r : Nat) : State :=
  (s.wf (TU u) TRIG_CTRL_RESULT r).wf (TU u) TRIG_CTRL_REFUSED (bit (r ≠ 0))

/-- The unit compares or captures word `w` (of its die). -/
def State.unitUses (s : State) (u w : Nat) : Bool :=
  (s.capWords u).contains w ∨
  (s.rf (cmpBase u 0) TRIG_CMP_CFG_KIND ≠ 0 ∧ s.rf (cmpBase u 0) TRIG_CMP_CFG_WORD = w) ∨
  (s.rf (cmpBase u 1) TRIG_CMP_CFG_KIND ≠ 0 ∧ s.rf (cmpBase u 1) TRIG_CMP_CFG_WORD = w)

def State.unitIdle (s : State) (u : Nat) : Bool := s.rf (TU u) TRIG_CTRL_STATE = 0 ∨ s.rf (TU u) TRIG_CTRL_STATE = 4

/-- A reserved KIND, DIR or COND, or an area beyond 1,024 blocks. -/
def State.trigFieldBad (s : State) (u : Nat) : Bool :=
  (List.range 2).any (fun c => 6 ≤ s.rf (cmpBase u c) TRIG_CMP_CFG_KIND ∨ s.rf (cmpBase u c) TRIG_CMP_CFG_DIR = 3) ∨
  (List.range 8).any (fun i => 9 ≤ s.rf (TU u + 4 * i) TRIG_SEQ_COND) ∨
  1024 < s.rf (TU u) TRIG_CAP_CFG_BASE + s.rf (TU u) TRIG_CAP_CFG_SIZE_M1 + 1

/-- Log 35 DEDUCED. -/
def State.areasMeet (s : State) (u v : Nat) : Bool :=
  let b x := s.rf (TU x) TRIG_CAP_CFG_BASE
  let e x := s.rf (TU x) TRIG_CAP_CFG_BASE + s.rf (TU x) TRIG_CAP_CFG_SIZE_M1 + 1
  b u < e v ∧ b v < e u

/-- RESULT of ARM (R283), in the order in which the rule lists the causes. (log 35 DEDUCED, 51 DEDUCED) -/
def State.armCheck (s : State) (u : Nat) : Nat :=
  let own := s.unitOwner u
  if ¬ s.unitIdle u then 5
  else if own = none ∨ (List.range 32).any (fun w => s.unitUses u w ∧ s.wordOwner (32 * (u / 4) + w) ≠ own) then 4
  else if s.trigFieldBad u then 6
  else if (List.range 4).any (fun j =>
      let v := 4 * (u / 4) + j
      v ≠ u ∧ s.rf (TU v) TRIG_CTRL_STATE ≠ 0 ∧ s.areasMeet u v) then 3
  else if s.capWords u ≠ [] ∧
      s.capN u < slice (s.rf (TU u) TRIG_PRE_VALUE) 0 20 + slice (s.rf (TU u) TRIG_POST_VALUE) 0 20 + 1 then 2
  else 0

/-- The unit's registers at 0x00 to 0x6C, two per word, the lower offset in the low half. -/
def State.trigRegs (s : State) (u : Nat) : List Nat := (List.range 14).map fun i => s.pair (TU u + 8 * i)

/-- Mask of the probe words that a partition owns on a die. -/
def State.wordMask (s : State) (die pid : Nat) : Nat :=
  (List.range 32).foldl (fun m w => if s.wordOwner (32 * die + w) = some pid then m + 2 ^ w else m) 0

/-- TRIG_ARM_CYC as one word. -/
def State.armCyc (s : State) (u : Nat) : Nat := s.pair (TU u + oTRIG_ARM_CYC_LO)

def State.logTrig (s : State) (u cmd : Nat) : State :=
  match (s.unitOwner u).bind s.slotOfPid with
  | none => s
  | some k =>
    let w2 := cmd + 2 ^ 2 * (u % 4) + 2 ^ 4 * (u / 4)
    s.logInput k (u / 4) 5
      (if cmd = 1 then w2 :: s.trigRegs u ++ [s.armCyc u, s.wordMask (u / 4) (s.rd A.pPid k)] else [w2])

/-- ARM: FILLING, or ARMED with PRE = 0. -/
def State.doArm (s : State) (u : Nat) : State :=
  let s := ((((s.wr A.tgValid u 0).wr A.tgFill u 0).capNext u 0).wr A.tgOut u 0).wr A.tgForce u 0
  if slice (s.rf (TU u) TRIG_PRE_VALUE) 0 20 = 0 then s.trigArmed u else s.trigTo u 1

def State.doDisarm (s : State) (u : Nat) : State := ((s.trigTo u 0).wr A.tgOut u 0).wr A.tgForce u 0

/-- A command to a unit: 1 ARM, 2 DISARM, 3 FORCE. -/
def State.trigCmd (s : State) (who : Who) (u cmd : Nat) : State :=
  if ¬ s.mayUnit who u then s.deny
  else
    let r := match cmd with
      | 1 => s.armCheck u
      | 3 => if s.rf (TU u) TRIG_CTRL_STATE = 2 then 0 else 5
      | _ => 0
    let s := s.trigResult u r
    (if r ≠ 0 then s
     else match cmd with
      | 1 => (s.logTrig u 1).doArm u
      | 2 => (s.logTrig u 2).doDisarm u
      | 3 => (s.logTrig u 3).wr A.tgForce u 1
      | _ => s).okay

def execTrigArm (who : Who) (die : Fin 8) (unit : Fin 4) (s : State) : Res := s.accessDom who die domFab (.trigArm who die unit) fun s => .next (s.trigCmd who (4 * die + unit) 1)
def execTrigDisarm (who : Who) (die : Fin 8) (unit : Fin 4) (s : State) : Res := s.accessDom who die domFab (.trigDisarm who die unit) fun s => .next (s.trigCmd who (4 * die + unit) 2)
def execTrigForce (who : Who) (die : Fin 8) (unit : Fin 4) (s : State) : Res := s.accessDom who die domFab (.trigForce who die unit) fun s => .next (s.trigCmd who (4 * die + unit) 3)

/-- A rising edge on trigger input `i` (R281, R290): every unit that selects the input latches it. -/
def State.extEdge (s : State) (i : Nat) : State :=
  s.each 32 fun s u =>
    if s.rf (TU u) TRIG_CFG_EXT_EN = 1 ∧ s.rf (TU u) TRIG_CFG_EXT_IN = i then s.wr A.tgExt u 1 else s

/-! ### The probe map (R276, R277, R291) -/

/-- Advance SLOT with AUTOINC. -/
def State.mapAdvance (s : State) (die : Nat) : State :=
  if s.rf (D die) PROBE_MAP_SEL_AUTOINC = 1 then s.wf (D die) PROBE_MAP_SEL_SLOT (s.rf (D die) PROBE_MAP_SEL_SLOT + 1)
  else s

/-- Every unit that uses the word is IDLE or DONE. -/
def State.wordFree (s : State) (die w : Nat) : Bool :=
  (List.range 4).all fun j => s.unitIdle (4 * die + j) ∨ ¬ s.unitUses (4 * die + j) w

/-- The flat map entry that PROBE_MAP_SEL names. -/
def State.mapIx (s : State) (die : Nat) : Nat :=
  2048 * die + 64 * s.rf (D die) PROBE_MAP_SEL_WORD + s.rf (D die) PROBE_MAP_SEL_SLOT

/-- Log 182 DESIGN CHOICE. -/
def State.probeMapWrite (s : State) (who : Who) (die v : Nat) : State :=
  if ¬ s.pfRights who then s.deny
  else
    let w := s.rf (D die) PROBE_MAP_SEL_WORD
    let mine := (s.wordOwner (32 * die + w)).any (s.wallOf (16 * die + slice v 12 4))
    let r := if ¬ s.wordFree die w then 3 else if slice v 16 1 = 1 ∧ ¬ mine then 2 else 0
    let s := s.wf (D die) PROBE_MAP_SEL_RESULT r
    ((if r = 0 then s.wr A.pmap (s.mapIx die) (slice v 0 17) else s).mapAdvance die).okay

def execProbeMapWrite (who : Who) (die : Fin 8) (val : Word) (s : State) : Res := s.accessDom who die domFab (.probeMapWrite who die val) fun s => .next (s.probeMapWrite who die val.toNat)

def State.probeMapRead (s : State) (who : Who) (die : Nat) : State :=
  let w := s.rf (D die) PROBE_MAP_SEL_WORD
  if s.pfRights who ∨ s.isOwner who (s.wordOwner (32 * die + w)) then
    let v := s.rd A.pmap (s.mapIx die)
    ((s.wf (D die) PROBE_MAP_SEL_RESULT 0).mapAdvance die).ans 0 v
  else s.deny

def execProbeMapRead (who : Who) (die : Fin 8) (s : State) : Res := s.accessDom who die domFab (.probeMapRead who die) fun s => .next (s.probeMapRead who die)

end Sys2Proof.Machine
end

