-- ==== Sys2Proof/Machine/Pins.lean ====
section
/-! DEFINITION. The general pins (chapter 19, R440 to R455): routing, target-port pins, GPIO and pads. -/

namespace Sys2Proof.Machine

open Reg

/-! ### Claims (R440 to R443) -/

/-- A routing entry. -/
structure RouteEntry where
  entry : Nat
  sig : Nat
  pin : Nat
  deriving DecidableEq, Repr

/-- Rank of a signal's class: PPS, trigger, SPI, I2C, UART (R441). -/
def sigRank (g : Nat) : Nat := if g = 0x3C then 0 else if 0x2C ≤ g then 1 else if 0x10 ≤ g then 2 else if 8 ≤ g then 3 else 4

/-- Bit of PERIPH_EN that enables the peripheral of a signal. -/
def sigEnable (g : Nat) : Nat :=
  if g = 0x3C then 12 else if 0x34 ≤ g then 11 else if 0x2C ≤ g then 10
  else if 0x10 ≤ g then 6 + (g - 0x10) / 7 else if 8 ≤ g then 2 + (g - 8) / 2 else g / 4

/-- An input, or an open-drain signal, whose level the peripheral takes from a pin. -/
def sigInput (g : Nat) : Bool :=
  (g < 8 ∧ g % 2 = 1) ∨ (8 ≤ g ∧ g < 0x10) ∨ (0x10 ≤ g ∧ g < 0x2C ∧ (g - 0x10) % 7 = 2) ∨ (0x2C ≤ g ∧ g < 0x34) ∨ g = 0x3C

/-- Active entries (R440). -/
def State.activeRoutes (s : State) : List RouteEntry :=
  (List.range 96).filterMap fun i =>
    let v := s.rd A.route i
    let g := slice v 0 7
    if slice v 15 1 = 1 ∧ g < 0x3D ∧ (s.reg oPERIPH_EN).testBit (sigEnable g) then some ⟨i, g, slice v 7 8⟩ else none

/-- An input or bidirectional signal whose active entries give it two or more pins (R442). -/
def sigConflict (l : List RouteEntry) (g : Nat) : Bool :=
  sigInput g ∧ l.any fun a => a.sig = g ∧ l.any fun b => b.sig = g ∧ b.pin ≠ a.pin

/-- The entry whose signal a pin serves (R441). -/
def pinEntry (l : List RouteEntry) (pin : Nat) : Option RouteEntry :=
  (l.filter fun e => e.pin = pin ∧ ¬ sigConflict l e.sig).foldl (fun a e => match a with
    | none => some e
    | some b => if 96 * sigRank e.sig + e.entry < 96 * sigRank b.sig + b.entry then some e else some b) none

def State.pinSignal (s : State) (pin : Nat) : Option Nat := (pinEntry s.activeRoutes pin).map (·.sig)

/-- WON and CONFLICT of an entry. -/
def State.routeWon (s : State) (i : Nat) : Bool :=
  let l := s.activeRoutes
  l.any fun e => e.entry = i ∧ (pinEntry l e.pin).any fun w => decide (w.entry = e.entry)
def State.routeConflict (s : State) (i : Nat) : Bool :=
  let l := s.activeRoutes
  l.any fun e => e.entry = i ∧ sigConflict l e.sig

/-- Level that GP_IN shows for a pin. (log 81 DESIGN CHOICE) -/
def State.pinLevel (s : State) (pin : Nat) : Bool := (s.rf (D (pin / 32)) GP_IN_LEVEL).testBit (pin % 32)

/-- The pin whose level an input signal takes: it wins exactly one (R442). -/
def State.sigPin (s : State) (g : Nat) : Option Nat :=
  let l := s.activeRoutes
  if sigConflict l g then none
  else (l.find? fun e => e.sig = g ∧ (pinEntry l e.pin).any fun w => decide (w.sig = g)).map (·.pin)

/-- Level of an input signal: its pin's, else its input default `idle` (R442). -/
def State.sigLevel (s : State) (g : Nat) (idle : Bool) : Bool := ((s.sigPin g).map s.pinLevel).getD idle

/-- An input signal has its pin; without one it rests at its input default (R442). -/
def State.sigWired (s : State) (g : Nat) : Bool := (s.sigPin g).isSome

/-- An edge of an input signal reaches its peripheral: the signal has its pin, and the pin's bank its supply (R442, R479). -/
def State.sigHeard (s : State) (g : Nat) : Bool :=
  (s.sigPin g).any fun pin => s.rf (D (pin / 32)) GP_BANK_VDDIO_OK = 1

/-- TRIGGER_INPUT_EDGE: a trigger input without a pin rests at 0 (R442). -/
def execTriggerInputEdge (input : Fin 8) (s : State) : Res := s.live fun s =>
  .next (if s.sigHeard (0x2C + input) then s.extEdge input else s)

/-- Re-evaluate the claims (R442, R443): a conflict is noted. (log 82 DEDUCED) -/
def State.claims (s : State) : State :=
  let l := s.activeRoutes
  match (l.filter fun e => sigConflict l e.sig).getLast? with
  | some e => (s.wf 0 PIN_STATUS_PIN_CONFLICT 1).wf 0 PIN_STATUS_CONFLICT_SIG e.sig
  | none => s

/-- Who writes the registers of this chapter (R455). -/
def State.pinGuard (s : State) (who : Who) (f : State → State) : State := if s.pfRights who then (f s).okay else s.deny

/-- A write of ROUTE_DATA. -/
def State.routeData (s : State) (v : Nat) : State :=
  let e := s.rf 0 ROUTE_SEL_ENTRY
  (if e < 96 then s.wr A.route e (slice v 0 16) else s).claims

def execRouteDataWrite (who : Who) (val : Word) (s : State) : Res := s.access who (.routeDataWrite who val) fun s =>
  .next (s.pinGuard who fun s => s.routeData val.toNat)

/-- A write of PERIPH_EN. -/
def State.periphEn (s : State) (v : Nat) : State := (s.wr A.reg oPERIPH_EN (slice v 0 13)).claims

def execPeriphEnWrite (who : Who) (val : Word) (s : State) : Res := s.access who (.periphEnWrite who val) fun s =>
  .next (s.pinGuard who fun s => s.periphEn val.toNat)

/-! ### Target-port pins (R446 to R448) -/

/-- Log 82 DEDUCED. -/
def tgtEn (v : Nat) : Bool := slice v 0 1 = 1
def tgtOutDir (v : Nat) : Bool := slice v 1 1 = 1
/-- Flat bed of a binding. -/
def tgtBed (v : Nat) : Nat := 256 * tgtWall v + 16 * slice v 6 4 + slice v 10 4

def State.lostPin (s : State) (pin : Nat) : State := s.wf (D (pin / 32)) GP_BANK_TGT_LOST 1

/-- Value of an output binding (R447). -/
def State.tgtValue (s : State) (k v : Nat) : Bool :=
  let ix := slice v 19 5 + 32 * slice v 24 4
  let c := slice v 14 4
  if slice v 18 1 = 0 then (s.rd A.state (256 * tgtBed v + ix)).testBit c
  else if s.rd A.pDepth k ≤ ix then false
  else (s.rd A.hist (512 * tgtBed v + ix)).testBit c

/-- Step D+4: drive the partition's outputs (R447); not in replay (R267). -/
def State.tgtDrive (s : State) (k : Nat) : State :=
  let l := s.activeRoutes
  s.each 256 fun s pin =>
    let v := s.gpTgt pin 0
    if tgtEn v ∧ tgtOutDir v ∧ s.slotOfWall (tgtWall v) = some k then
      if s.replaying k then s.wr A.tgtOut pin 0
      else if (pinEntry l pin).isSome then (s.wr A.tgtOut pin 0).lostPin pin
      else s.wr A.tgtOut pin (2 + bit (s.tgtValue k v))
    else s

/-- An input binding of slot `k`: its bed, line and bit, the level it takes, and whether its pin is lost. -/
structure TgtIn where
  pin : Nat
  bed : Nat
  line : Nat
  bitNo : Nat
  level : Bool
  lost : Bool
  deriving DecidableEq, Repr

/-- The binding `n` of a pin, when it is an enabled input of slot `k` (R446, R448). -/
def State.tgtIn (s : State) (l : List RouteEntry) (k pin n : Nat) : Option TgtIn :=
  let v := s.gpTgt pin n
  if tgtEn v ∧ ¬ tgtOutDir v ∧ s.slotOfWall (tgtWall v) = some k then
    let v0 := s.gpTgt pin 0
    let other := n = 1 ∧ tgtEn v0 ∧ (s.slotOfWall (tgtWall v0)).any fun j => decide (j ≠ k)
    let lost := (pinEntry l pin).isSome ∨ other
    some ⟨pin, tgtBed v, slice v 14 4, slice v 18 6, s.pinLevel pin ∧ ¬ lost, lost⟩
  else none

/-- Bits of a line that some binding takes as `b`. -/
def tgtBits (l : List TgtIn) (bed line : Nat) (b : Bool) : Nat :=
  l.foldl (fun m t => if t.bed = bed ∧ t.line = line ∧ t.level = b then m ||| 2 ^ t.bitNo else m) 0

/-- Write one sampled line (R44, R45). Where two bindings of one bit differ, the bit is a free value. -/
def State.tgtLine (s : State) (k n : Nat) (l : List TgtIn) (bed line : Nat) : State :=
  let hi := tgtBits l bed line true
  let both := hi &&& tgtBits l bed line false
  let (f, s) := if both = 0 then (0, s) else s.free 64
  let v := (hi &&& (0xFFFFFFFFFFFFFFFF ^^^ both)) ||| (f &&& both)
  let s := s.putLine bed ((n + 1) % 4) line v 0
  s.logInput k (bed / 4096) 0xA
    [2 ^ 4 * (bed / 256 % 16) + 2 ^ 8 * (bed / 16 % 16) + 2 ^ 12 * (bed % 16) + 2 ^ 16 * line, v]

/-- Step D+5 of `n`: sample the partition's inputs (R446). -/
def State.tgtSample (s : State) (k n : Nat) : State :=
  if s.replaying k then s
  else
    let l := s.activeRoutes
    let ins := (List.range 512).filterMap fun i => s.tgtIn l k (i / 2) (i % 2)
    let s := (ins.filter (·.lost)).foldl (fun s t => s.lostPin t.pin) s
    ((ins.map fun t => (t.bed, t.line)).eraseDups).foldl (fun s x => s.tgtLine k n ins x.1 x.2) s

/-- A wall that belongs to a partition that is not IDLE. -/
def State.wallBusy (s : State) (w : Nat) : Bool := (s.slotOfWall w).any fun k => decide (s.rd A.pState k ≠ 1)

/-- RESULT of a GP_TGT write (R448): 0 OK, 1 BUSY, 2 CONFINE, 3 RANGE. -/
def State.tgtCheck (s : State) (pin n v : Nat) : Nat :=
  let old := s.gpTgt pin n
  let other := s.gpTgt pin (1 - n)
  let index := slice v 19 5 + 32 * slice v 24 4
  if (tgtEn old ∧ s.wallBusy (tgtWall old)) ∨ (tgtEn v ∧ s.wallBusy (tgtWall v)) then 1
  else if tgtEn v ∧ tgtEn other ∧ s.slotOfWall (tgtWall v) ≠ s.slotOfWall (tgtWall other) then 2
  else if (n = 1 ∧ tgtOutDir v) ∨ (n = 0 ∧ tgtOutDir v ∧ tgtEn other) ∨
      (n = 1 ∧ tgtEn v ∧ tgtOutDir other) ∨ (tgtOutDir v ∧ slice v 18 1 = 0 ∧ 255 < index) then 3
  else 0

/-- A write of GP_TGT0 (`n` = 0) or GP_TGT1: by the physical function alone. (log 40 DEDUCED) -/
def State.gpTgtWrite (s : State) (who : Who) (pin n v : Nat) : State :=
  if who ≠ .pf then s.deny
  else
    let r := s.tgtCheck pin n v
    let s := s.wf (D (pin / 32)) GP_BANK_RESULT r
    (if r = 0 then
       (s.wr A.reg (D (pin / 32) + (if n = 0 then oGP_TGT0 else oGP_TGT1) + 4 * (pin % 32)) (slice v 0 31)).wr A.tgtOut pin
         (if n = 0 then 0 else s.rd A.tgtOut pin)
     else s).okay

def execGpTgtWrite (who : Who) (pin : Fin 256) (second : Bool) (val : Word) (s : State) : Res := s.access who (.gpTgtWrite who pin second val) fun s =>
  .next (s.gpTgtWrite who pin (bit second) val.toNat)

/-! ### GPIO (R449 to R451) -/

/-- A change of GP_OUT. -/
def State.gpOut (s : State) (who : Who) (bank : Nat) (f : Nat → Nat) : State :=
  s.pinGuard who fun s => s.wf (D bank) GP_OUT_VALUE (f (s.rf (D bank) GP_OUT_VALUE))

def execGpOutSet (who : Who) (bank : Fin 8) (val : Word) (s : State) : Res := s.access who (.gpOutSet who bank val) fun s =>
  .next (s.gpOut who bank fun o => o ||| val.toNat)
def execGpOutClr (who : Who) (bank : Fin 8) (val : Word) (s : State) : Res := s.access who (.gpOutClr who bank val) fun s =>
  .next (s.gpOut who bank fun o => o &&& (0xFFFFFFFF ^^^ val.toNat))
def execGpOutTgl (who : Who) (bank : Fin 8) (val : Word) (s : State) : Res := s.access who (.gpOutTgl who bank val) fun s =>
  .next (s.gpOut who bank fun o => o ^^^ val.toNat)

/-- GP_CFG of a pin. -/
def State.gpCfg (s : State) (pin : Nat) : Nat := s.reg (D (pin / 32) + oGP_CFG + 4 * (pin % 32))

/-- The condition of INT_MODE on a sample. -/
def intMet (mode : Nat) (old new : Bool) : Bool :=
  match mode with
  | 1 => ¬ old ∧ new
  | 2 => old ∧ ¬ new
  | 3 => old ≠ new
  | 4 => new
  | 5 => ¬ new
  | _ => false

/-- A sample of a pin (R451, R479): GP_IN follows it, its bit is set, its event is raised. -/
def State.gpSample (s : State) (pin : Nat) (level : Bool) : State :=
  let b := D (pin / 32)
  let new := level ∧ s.rf b GP_BANK_VDDIO_OK = 1
  let old := s.pinLevel pin
  let s := s.wf b GP_IN_LEVEL (patch (s.rf b GP_IN_LEVEL) (pin % 32) 1 (bit new))
  if intMet (slice (s.gpCfg pin) 3 3) old new ∧ ¬ (s.rf b GP_INT_STATUS_PENDING).testBit (pin % 32) then
    (s.orf b GP_INT_STATUS_PENDING (2 ^ (pin % 32))).raise pin
  else s

/-- A level that a pin takes. Without clocks nothing samples it; the first tick of a clock does. (log 79 DEDUCED) -/
def State.gpLevel (s : State) (pin : Nat) (level : Bool) : State :=
  if s.clocked then (s.gpSample pin level).wr A.pinNow pin 0 else s.wr A.pinNow pin (2 + bit level)

/-- The first samples after the clocks start again. -/
def State.gpResume (s : State) : State :=
  let s := (s.listed A.pinNow).foldl (fun s x => s.gpSample x.1 (x.2 = 3)) s
  s.drop A.pinNow fun _ => true

def execGpInterrupt (pin : Fin 256) (level : Bool) (s : State) : Res := .next (s.gpLevel pin level)

/-- Pins in a level mode are sampled again at each TCLK tick, and those whose level changed while the clocks stood. -/
def State.gpTick (s : State) : State :=
  s.gpResume.each 256 fun s pin => if 4 ≤ slice (s.gpCfg pin) 3 3 then s.gpSample pin (s.pinLevel pin) else s

/-! ### Pads (R447, R449, R452 to R454, R479) -/

/-- The slot of a wall, but for one in replay, whose target-port pins are not driven (R267). -/
def State.drivingSlot (s : State) (w : Nat) : Option Nat := (s.slotOfWall w).filter fun k => ¬ s.replaying k

/-- Level that the device drives on a pin, none when it does not drive. The level that a serial peripheral drives is a
free value; an I2C pin drives low or releases (R450). (log 81 DESIGN CHOICE) -/
def State.pinDrive (s : State) (pin : Nat) : Option Nat × State :=
  let b := D (pin / 32)
  if s.rf b GP_BANK_VDDIO_OK = 0 then (none, s)
  else match s.pinSignal pin with
    | some g =>
      if 0x34 ≤ g ∧ g < 0x3C then
        (some (bit ((List.range 32).any fun u => s.rd A.tgOut u = 1 + (g - 0x34))), s)
      else if 8 ≤ g ∧ g < 0x10 then
        let x := s.free 1
        (if x.1 = 0 then some 0 else none, x.2)
      else if sigInput g then (none, s)
      else let x := s.free 1; (some x.1, x.2)
    | none =>
      if (s.rd A.tgtOut pin) / 2 = 1 ∧ (s.drivingSlot (tgtWall (s.gpTgt pin 0))).isSome then (some (s.rd A.tgtOut pin % 2), s)
      else if tgtEn (s.gpTgt pin 0) ∨ tgtEn (s.gpTgt pin 1) then (none, s)
      else if (s.rf b GP_OE_OE).testBit (pin % 32) then (some (bit ((s.rf b GP_OUT_VALUE).testBit (pin % 32))), s)
      else (none, s)

/-- What a pad shows, as A.padLatch gives it: in OFF, without VDD_AUX, it is high-impedance and has no pull (R479); a held one shows what
it holds, while its bank has its supply; any other shows what its pin drives, and its PULL and SLEW (R450, R452). (log 81 DESIGN CHOICE) -/
def State.pad (s : State) (pin : Nat) : Nat × State :=
  let b := D (pin / 32)
  let held := s.rd A.padLatch pin
  if ¬ s.powered then (0, s)
  else if s.rf b GP_BANK_HELD = 1 then (if s.rf b GP_BANK_VDDIO_OK = 1 then held else patch held 0 2 0, s)
  else
    let (d, s) := s.pinDrive pin
    (d.getD 0 + 2 * bit d.isSome + 2 ^ 2 * slice (s.gpCfg pin) 0 3, s)

/-- Every pad latches its level, output enable, pull and slew, and holds them; one that is held holds what it has (R452). (log 81 DESIGN CHOICE) -/
def State.latchPads (s : State) : State :=
  let s := s.each 256 fun s pin =>
    if s.rf (D (pin / 32)) GP_BANK_HELD = 1 then s else let x := s.pad pin; x.2.wr A.padLatch pin x.1
  s.each 8 fun s b => if s.rf (D b) GP_BANK_HELD = 1 then s else (s.wf (D b) GP_BANK_HELD 1).wr A.padPark b 1

/-- The pads of a bank release. -/
def State.releaseBank (s : State) (b : Nat) : State :=
  ((s.drop A.padLatch fun i => i / 32 = b).wf (D b) GP_BANK_HELD 0).wr A.padPark b 0

/-- The exit from PARK releases the pads that its entry latched (R453). -/
def State.padsOut (s : State) : State := s.each 8 fun s b => if s.on A.padPark b then s.releaseBank b else s

def execRelease (who : Who) (bank : Fin 8) (s : State) : Res := s.access who (.release who bank) fun s => .next (s.pinGuard who fun s => s.releaseBank bank)

/-- A VDDIO rail rises or falls, at any time (R479). -/
def State.vddio (s : State) (b : Nat) (present v33 : Bool) : State :=
  let s := (s.wf (D b) GP_BANK_VDDIO_OK (bit present)).wf (D b) GP_BANK_VDDIO_33 (bit (present ∧ v33))
  if present then s else s.each 32 fun s p => s.gpLevel (32 * b + p) false

/-- Log 79 DEDUCED. -/
def execVddioChange (bank : Fin 8) (present v33 : Bool) (s : State) : Res := .next (s.vddio bank present v33)

end Sys2Proof.Machine
end

