-- ==== Sys2Proof/Machine/Periph.lean ====
section
/-! DEFINITION. The serial peripherals of die 0 (chapter 19, R444, R445). They act with the identity of the physical
function, so R245 refuses them nothing. -/

namespace Sys2Proof.Machine

open Reg

/-- PERIPH_CFG of peripheral `x`: 0 and 1 the UARTs, 2 to 5 the I2C, 6 to 9 the SPI controllers. -/
def periphBase (x : Nat) : Nat := 4 * x

def State.periphOn (s : State) (x : Nat) : Bool := (s.reg oPERIPH_EN).testBit x
def State.txq (s : State) (x : Nat) : Nat := s.rf (periphBase x) PERIPH_CFG_TXQ
def State.rxq (s : State) (x : Nat) : Nat := s.rf (periphBase x) PERIPH_CFG_RXQ
/-- FLOW of a UART, SMBus of an I2C controller. -/
def State.periphMode (s : State) (x : Nat) : Bool := slice (s.rf (periphBase x) PERIPH_CFG_MODE) 0 1 = 1

def State.streamQ (s : State) (q : Nat) : Bool := s.qEn q ∧ s.qClass q = 0

/-- The next TXQ word; none where the queue is empty or no enabled stream queue (R445). -/
def State.txPop (s : State) (x : Nat) : Option Nat × State :=
  if s.streamQ (s.txq x) then let r := s.qPop (s.txq x); (r.1.map (·.1), r.2) else (none, s)

/-- The RXQ has room for a word. -/
def State.rxRoom (s : State) (x : Nat) : Bool := s.streamQ (s.rxq x) ∧ s.qFits (s.rxq x) 1

/-- Log 49 DESIGN CHOICE. -/
def State.rxPush (s : State) (x w : Nat) : Bool × State :=
  if s.streamQ (s.rxq x) then s.qPush (s.rxq x) (110 + x) w true else (false, s)

/-- With FLOW, a UART sends while CTS is low. -/
def State.uartMaySend (s : State) (u : Nat) : Bool := s.periphOn u ∧ ¬ (s.periphMode u ∧ s.sigLevel (4 * u + 3) false)

def State.uartSend (s : State) (u : Nat) : State :=
  if s.uartMaySend u then
    match s.txPop u with
    | (some w, s) => { s with out := s.out ++ [.uart u (w % 256)] }
    | (none, s) => s
  else s

def execUartTransmit (u : Fin 2) (s : State) : Res := s.live fun s => .next (s.uartSend u)

def State.uartTake (s : State) (u byte : Nat) (framing brk : Bool) : State :=
  if ¬ s.periphOn u then s
  else
    let (ok, s) := s.rxPush u (byte + 2 ^ 8 * bit framing + 2 ^ 9 * bit brk)
    if ok then s else s.cnt 0 (if u = 0 then PERIPH_ERR_UART0_DROP else PERIPH_ERR_UART1_DROP) 1

/-- UART_RECEIVE: an RX without a pin rests at 1, and no byte comes (R442). (log 169 DEDUCED) -/
def execUartReceive (u : Fin 2) (byte : Byte) (framing brk : Bool) (s : State) : Res := s.live fun s =>
  .next (if s.sigWired (4 * u + 1) then s.uartTake u byte.toNat framing brk else s)

/-- After an arbitration loss or a timeout, words are discarded up to and including the next with STOP = 1 (R444). -/
def State.i2cDiscard (s : State) (k : Nat) : Nat → State
  | 0 => s
  | fuel + 1 =>
    if s.on A.i2cSkip k then
      match s.txPop (2 + k) with
      | (some w, s) => if slice w 9 1 = 1 then s.wr A.i2cSkip k 0 else s.i2cDiscard k fuel
      | (none, s) => s
    else s

/-- An I2C command: `f` gives its RXQ word from its TXQ word, and whether the transfer is lost. (log 83 DESIGN CHOICE) -/
def State.i2cRun (s : State) (k : Nat) (lost : Bool) (f : Nat → State → Nat × State) : State :=
  let s := if s.periphOn (2 + k) then s.i2cDiscard k (s.packets.length + 1) else s
  if ¬ (s.periphOn (2 + k) ∧ s.rxRoom (2 + k)) ∨ s.on A.i2cSkip k then s
  else
    match s.txPop (2 + k) with
    | (none, s) => s
    | (some w, s) =>
      let (r, s) := f w s
      let s := (s.rxPush (2 + k) r).2
      let s := { s with out := s.out ++ [.i2c k w] }
      if lost then (s.wr A.i2cSkip k 1).i2cDiscard k (s.packets.length + 1) else s

/-- I2C_COMMAND: an SDA without a pin reads 1: the byte is 0xFF, nobody acknowledges, and no arbitration is lost (R442). (log 169 DEDUCED) -/
def execI2cCommand (k : Fin 4) (byteIn : Byte) (nack arbLost : Bool) (s : State) : Res := s.live fun s =>
  let sda := s.sigWired (9 + 2 * k)
  let lost := arbLost && sda
  .next (s.i2cRun k lost fun w s =>
    ((if slice w 10 1 = 1 then (if sda then byteIn.toNat else 0xFF) else slice w 0 8) + 2 ^ 8 * bit (nack || !sda) +
      2 ^ 9 * bit lost, s))

/-- The clock stays low beyond 35 ms in SMBus mode; an SCL without a pin reads 1 (R442). The byte of a READ that times out
is a free value. (log 169 DEDUCED) -/
def execSmbusTimeout (k : Fin 4) (s : State) : Res := s.live fun s =>
  .next (if s.periphMode (2 + k) ∧ s.sigWired (8 + 2 * k) then
    s.i2cRun k true fun w s =>
      let (b, s) := if slice w 10 1 = 1 then s.free 8 else (slice w 0 8, s)
      (b + 2 ^ 10, s)
  else s)

/-- SPI_TRANSFER: a MISO without a pin reads 0 (R442). (log 169 DEDUCED) -/
def execSpiTransfer (k : Fin 4) (miso : Word) (s : State) : Res := s.live fun s =>
  .next (if s.periphOn (6 + k) ∧ s.rxRoom (6 + k) then
    match s.txPop (6 + k) with
    | (none, s) => s
    | (some w, s) =>
      let v := if s.sigWired (0x12 + 7 * k) then miso.toNat % 2 ^ (slice w 32 5 + 1) else 0
      let s := (s.rxPush (6 + k) v).2
      { s with out := s.out ++ [.spi k w] }
  else s)

end Sys2Proof.Machine
end

