-- ==== Sys2Proof/Machine/Events.lean ====
section
/-! DEFINITION. Configuration transactions, events, routes and vectors (chapter 20, R466 to R475), as the commands
reach them. -/

namespace Sys2Proof.Machine

open Reg

/-! ### CFGTX (R467) -/

/-- Who may write a CFGTX register. -/
def State.mayTx (s : State) (who : Who) (k : Nat) : Bool := if k = devShadow then s.pfRights who else s.maySlot who k

/-- A write without the right: RESULT DENIED. A write of another partition's block is answered DENIED as well. -/
def State.txDeny (s : State) (k : Nat) : State :=
  let s := s.shResult k 8
  if k = devShadow then s.okay else s.deny

/-- A write of CFGTX with one command: RESULT shows its refusal, or OK. A COMMIT that applies a shadow shows what the
shadow gives. -/
def State.txWrite (s : State) (who : Who) (k : Nat) (f : State → Nat × State) : State :=
  if ¬ s.mayTx who k then s.txDeny k
  else
    let r := f s
    (r.2.shResult k r.1).okay

/-- The shadow a command names. -/
def shadowIx (device : Bool) (slot : Fin 32) : Nat := if device then devShadow else slot

def execCfgtxBegin (who : Who) (device : Bool) (slot : Fin 32) (s : State) : Res := s.access who (.cfgtxBegin who device slot) fun s =>
  .next (s.txWrite who (shadowIx device slot) fun s => s.shBegin (shadowIx device slot))

def execCfgtxCommit (who : Who) (device : Bool) (slot : Fin 32) (s : State) : Res := s.access who (.cfgtxCommit who device slot) fun s =>
  .next (s.txWrite who (shadowIx device slot) fun s => s.shDoCommit (shadowIx device slot))

def execCfgtxAbort (who : Who) (device : Bool) (slot : Fin 32) (s : State) : Res := s.access who (.cfgtxAbort who device slot) fun s =>
  .next (s.txWrite who (shadowIx device slot) fun s => (0, s.shAbort (shadowIx device slot)))

/-- A write of CFGTX with its bits BEGIN, COMMIT and ABORT acts as separate writes in that order; RESULT shows the first
refusal among them, or OK (R467). -/
def State.cfgtxWrite (s : State) (who : Who) (k v : Nat) : State :=
  if ¬ s.mayTx who k then s.txDeny k
  else
    let one (on : Nat) (a : Nat × State) (f : State → Nat × State) : Nat × State :=
      if on = 0 then a else (let x := f a.2; (if a.1 = 0 then x.1 else a.1, x.2))
    let r := one (slice v 0 1) (0, s) fun s => s.shBegin k
    let r := one (slice v 1 1) r fun s => s.shDoCommit k
    let r := one (slice v 2 1) r fun s => (0, s.shAbort k)
    (if slice v 0 3 = 0 then s else r.2.shResult k r.1).okay

/-- The RWT field a route register write, once its checks pass. -/
def State.rwtPut (s : State) (k off sel v : Nat) : State :=
  match s.rd A.shState k with
  | 1 => s.shHold k off sel v
  | 2 => s.shResult k 2
  | _ => (s.shApply k ⟨k, off, sel, v⟩).1

/-- Sources of the device (R471). -/
def eventSources : Nat := 1536

/-- RESULT of a route write (R474). (log 54 DEDUCED) -/
def State.routeCheck (s : State) (who : Who) (vec : Bool) (src v : Nat) : Nat :=
  let f := slice v 1 6
  if ¬ s.pfRights who then 1
  else if eventSources ≤ src then 2
  else if vec ∧ (34 ≤ f ∨ (1 ≤ f ∧ f ≤ 32 ∧ 32 ≤ slice v 7 10)) then 2
  else if vec ∧ slice v 0 1 = 1 ∧ 1 ≤ f ∧ f ≤ 32 then
    (match s.evtOwner src with
     | none => 3
     | some pid => if s.loaded (f - 1) ∧ s.rd A.pPid (f - 1) = pid then 0 else 3)
  else 0

/-- A write of EVT_ROUTE_FLAG or EVT_ROUTE_VEC (R474). -/
def State.routeWrite (s : State) (who : Who) (off v : Nat) : State :=
  let src := s.rf 0 EVT_SEL_SOURCE
  let r := s.routeCheck who (off = oEVT_ROUTE_VEC) src v
  let s := s.wf 0 EVT_SEL_RESULT r
  (if r = 0 then s.rwtPut devShadow off src v else s).okay

/-- A write of EVT_INFO (R471, R474): only a software source has writable fields. -/
def State.infoWrite (s : State) (who : Who) (v : Nat) : State :=
  let src := s.rf 0 EVT_SEL_SOURCE
  let r := if ¬ s.pfRights who then 1 else if eventSources ≤ src then 2 else 0
  let s := s.wf 0 EVT_SEL_RESULT r
  (if r = 0 ∧ 0x5C0 ≤ src then s.wr A.evtSwOwn (src - 0x5C0) (slice v 0 9) else s).okay

/-- A write of ESEQ_RELOAD: outside a transaction, GO = 1 is ignored with RESULT NOTX (R470). -/
def State.esReloadWrite (s : State) (k v : Nat) : State :=
  if s.rd A.shState k = 0 ∧ slice v 31 1 = 1 then s.shResult k 6 else s.rwtPut k (P k + oESEQ_RELOAD) 0 v

/-- A write of an RWT register of a partition block. -/
def State.rwtPart (s : State) (who : Who) (k off v : Nat) : State :=
  if ¬ s.maySlot who k then s.deny
  else if off = oESEQ_RELOAD then (s.esReloadWrite k v).okay
  else if off = oFAULT_CFG then (s.rwtPut k (P k + oFAULT_CFG) 0 v).okay
  else s.okay

/-- A write of an RWT register (R467), by its BAR0 offset. -/
def State.rwtWrite (s : State) (who : Who) (off v : Nat) : State :=
  if off = oEVT_ROUTE_FLAG ∨ off = oEVT_ROUTE_VEC then s.routeWrite who off v
  else if 0x100000 ≤ off ∧ off < 0x120000 then s.rwtPart who ((off - 0x100000) / 0x1000) (off % 0x1000) v
  else s.okay

def execRwtWrite (who : Who) (off : Nat) (val : Word) (s : State) : Res := s.access who (.rwtWrite who off val) fun s => .next (s.rwtWrite who off val.toNat)

def execEvtRouteWrite (who : Who) (off : Nat) (val : Word) (s : State) : Res := s.access who (.evtRouteWrite who off val) fun s =>
  .next (if off = oEVT_INFO then s.infoWrite who val.toNat
    else if off = oEVT_ROUTE_FLAG ∨ off = oEVT_ROUTE_VEC then s.routeWrite who off val.toNat
    else s.okay)

/-- A write of ESEQ_DATA_HI (R470): the whole entry takes effect; AUTOINC advances ENTRY. -/
def State.stageWrite (s : State) (who : Who) (k hi : Nat) : State :=
  if ¬ s.maySlot who k then s.deny
  else if s.rd A.shState k = 2 then (s.shResult k 2).okay
  else
    let e := s.rf (P k) ESEQ_SEL_ENTRY
    let i := 4096 * k + e
    let (lo, s) := s.takeLo (P k + oESEQ_DATA_LO) (s.rd A.esStage i % 2 ^ 32)
    let s := s.wr A.esStage i (lo + 2 ^ 32 * hi)
    (if s.rf (P k) ESEQ_SEL_AUTOINC = 1 then s.wf (P k) ESEQ_SEL_ENTRY (e + 1) else s).okay

def execEseqStagingWrite (who : Who) (slot : Fin 32) (hi : Word) (s : State) : Res := s.access who (.eseqStagingWrite who slot hi) fun s => .next (s.stageWrite who slot hi.toNat)

/-! ### Events and vectors -/

/-- EVT_SW (R474). -/
def State.evtSw (s : State) (who : Who) (v : Nat) : State :=
  let src := 0x5C0 + slice v 0 6
  if s.pfRights who ∨ s.isOwner who (s.evtOwner src) then (s.raise src).okay else s.deny

def execEvtSw (who : Who) (val : Word) (s : State) : Res := s.access who (.evtSw who val) fun s => .next (s.evtSw who val.toNat)

/-- The vectors that an initiator's EVT_STATUS bits belong to (R474): it may see and clear source `src`. -/
def State.seesEvent (s : State) (who : Who) (src : Nat) : Bool :=
  s.pfRights who ∨ s.isOwner who (s.evtOwner src)

def vecIx (f v : Nat) : Nat := 1024 * f + v

/-- Send a vector's message. -/
def State.sendVec (s : State) (f v : Nat) : State := { s with out := s.out ++ [.msix f v] }

/-- The vector is masked, or its function has MSI-X masked; the boot controller's interrupt has no mask. -/
def State.vecMasked (s : State) (f v : Nat) : Bool := f ≠ 33 ∧ (s.rd A.vecOpen (vecIx f v) = 0 ∨ s.on A.funcMask f)

/-- The end of a TCLK tick for one vector (R473). -/
def State.vecMessage (s : State) (f v : Nat) : State :=
  if s.on A.vecRaised (vecIx f v) then
    let s := s.wr A.vecRaised (vecIx f v) 0
    if s.vecMasked f v then s.wr A.vecPend (vecIx f v) 1 else s.sendVec f v
  else s

def execVectorMessage (func : Fin 34) (vector : Fin 1024) (s : State) : Res := s.live fun s => .next (s.vecMessage func vector)

/-- Unmask a vector: a pending message is sent. -/
def State.vecUnmask (s : State) (f v : Nat) : State :=
  let s := s.wr A.vecOpen (vecIx f v) 1
  if s.on A.vecPend (vecIx f v) ∧ ¬ s.vecMasked f v then (s.wr A.vecPend (vecIx f v) 0).sendVec f v else s

def execVectorUnmask (func : Fin 34) (vector : Fin 1024) (s : State) : Res := s.live fun s => .next (s.vecUnmask func vector)

/-- The end of a TCLK tick for every vector. -/
def State.flushVectors (s : State) : State :=
  (s.arr.filter fun e => e.1 % 512 = A.vecRaised.code).foldl (fun s e =>
    s.vecMessage (e.1 / 512 / 1024) (e.1 / 512 % 1024)) s

end Sys2Proof.Machine
end

