-- ==== Sys2Proof/Machine/Cells.lean ====
section
/-! DEFINITION. Cell instructions (chapter 03). -/

namespace Sys2Proof.Machine

open Reg

/-- Slot and step of a wall whose partition performs an evaluation step (R12, R13). -/
def State.active (s : State) (wall : Nat) : Option (Nat × Nat) :=
  match s.slotOfWall wall with
  | none => none
  | some k =>
    if s.rd A.pState k = 2 ∧ s.rd A.pFrozen k = 0 ∧ s.rd A.pBegun k = 1 ∧ s.rd A.pStep k < s.rd A.pDepth k then
      some (k, s.rd A.pStep k)
    else none

/-- Log 13 DEDUCED. -/
def State.mark (s : State) (kind place : Nat) : State := { s with issued := s.issued ++ [(kind, place)] }
def State.marked (s : State) (kind place : Nat) : Bool := s.issued.contains (kind, place)

/-- Run `f slot step` for a unit of kind `kind` at `place` once per step (R12, R85); nothing while its partition does
not perform an evaluation step. The units are 0 cells, 1 word units, 2 port units, 3 outbound lanes. (log 13 DEDUCED) -/
def State.unit (s : State) (kind place wall : Nat) (f : Nat → Nat → State) : State :=
  match s.active wall with
  | none => s
  | some (k, t) => if s.marked kind place then s else f k t

/-- Nothing of a step is performed on any die while a unit of the device meets a late item in it (R137): freeze, or go
on with `go`. -/
def State.voted (s : State) (k t : Nat) (go : State) : State :=
  match s.votes k t with
  | [] => go
  | items => s.freeze k t items

/-- The instruction that a cell issues at step `t`: NOP when the word cannot be corrected (R51). -/
def State.cellWord (s : State) (c t : Nat) : Nat :=
  if s.errOf A.imem (512 * c + t) = 2 then 0 else s.rd A.imem (512 * c + t)

/-- The check of the instruction memory at issue. -/
def State.noteImem (s : State) (k c t : Nat) : State :=
  match s.errOf A.imem (512 * c + t) with
  | 0 => s
  | 1 => s.cnt (D (c / 65536)) STORE_CE_COUNT_IMEM_CE 1
  | _ => s.faultAt k 0x20 (Loc.ofCell c) .e (s.rd A.pCycle k) t (storeDetail 0 t 0 0 0)

/-- Write `r` into history entry `t` of cell `c`, during step t + 1. -/
def State.cellHist (s : State) (c t r : Nat) : State :=
  let m := 2 ^ (c % 16)
  (s.putHist (c / 16) t m (if r = 1 then m else 0) none 0).hzMark (c / 16) t m 0

/-- Issue the instruction of cell `c` when its opcode is `op`. (log 2 DESIGN CHOICE) -/
def State.cellIssue (s : State) (c : CellLoc) (p : Nat → Bool) (f : Nat → Nat → Nat → State → State) : State :=
  let i := cellIx c
  s.unit 0 i (wallIx c.toWallLoc) fun k t =>
    let w := s.cellWord i t
    if p (slice w 92 4) then s.voted k t (f k t w ((s.mark 0 i).noteImem k i t)) else s

/-- What a NOP does (R57): 0 into history entry s. -/
def State.cellNop (s : State) (c t : Nat) : State := s.cellHist c t 0

def execNop (c : CellLoc) (s : State) : Res := s.live fun s =>
  .next (s.cellIssue c (· = 0) fun _ t _ s => s.cellNop (cellIx c) t)

/-- The first reserved selector and its operand (R60, R87). -/
def firstReserved (w : Nat) : Option (Nat × Nat) := (cellSels w).zipIdx.find? fun x => selReserved x.1

/-- Write shadow bit `a` of cell `c` (R18). -/
def State.putShadow (s : State) (k c a t r : Nat) : State :=
  let bed := c / 16
  let h := s.rd A.hzShadow (256 * c + a)
  let s := if s.debug ∧ slice h 0 1 = 1 then
      s.faultAt k 0x53 (Loc.ofCell c) .n (s.rd A.pCycle k) t (a + 2 ^ 8 * slice h 1 9 + 2 ^ 17 * t)
    else s
  let s := if s.debug then s.wr A.hzShadow (256 * c + a) (1 + 2 * t) else s
  s.wrE A.shadow (256 * bed + a) (patch (s.rd A.shadow (256 * bed + a)) (c % 16) 1 r)

/-- The truth-table result r of an EVAL or ASSERT (R58, R63). -/
def ttResult (w a b c d : Nat) : Nat :=
  let idx := a + 2 * b + 4 * c + 8 * (if slice w 90 1 = 1 then 0 else d)
  (slice w (64 + idx) 1 + slice w 89 1) % 2

/-- EVAL and ASSERT, from the selectors on (chapter 03, procedure cell_issue). -/
def State.cellEval (s : State) (k c t w : Nat) (isAssert : Bool) : State :=
  match firstReserved w with
  | some (sel, o) =>
    (s.faultAt k 0x11 (Loc.ofCell c) .e (s.rd A.pCycle k) t (sel + 2 ^ 16 * o)).cellHist c t 0
  | none =>
    let v := (cellSels w).map (s.operand k (c / 16) t ·)
    let a := v.getD 0 0
    let b := v.getD 1 0
    let cc := v.getD 2 0
    let d := v.getD 3 0
    let r := ttResult w a b cc d
    let s := (cellSels w).foldl (fun s sel => (s.noteSel k (c / 16) t sel).hzSel k c t sel) s
    let s := s.cellHist c t r
    let s := if slice w 91 1 = 1 ∧ (slice w 90 1 = 0 ∨ d = 1) then s.putShadow k c (slice w 80 8) t r else s
    let s := if slice w 88 1 = 1 then s.wr A.probe c r else s
    if isAssert ∧ r = 1 then s.faultAt k 0x01 (Loc.ofCell c) .a (s.rd A.pCycle k) t 0 else s

/-- EVAL (R58 to R63). -/
def execEval (c : CellLoc) (s : State) : Res := s.live fun s =>
  .next (s.cellIssue c (· = 1) fun k t w s => s.cellEval k (cellIx c) t w false)

/-- ASSERT (R64): as EVAL, and a result of 1 raises the assertion event. -/
def execAssert (c : CellLoc) (s : State) : Res := s.live fun s =>
  .next (s.cellIssue c (· = 2) fun k t w s => s.cellEval k (cellIx c) t w true)

/-- A reserved opcode (R87): 0 into the history entry, and the fault. -/
def State.cellReserved (s : State) (k c t w : Nat) : State :=
  (s.faultAt k 0x10 (Loc.ofCell c) .e (s.rd A.pCycle k) t (slice w 92 4)).cellHist c t 0

def execCellOpReserved (c : CellLoc) (s : State) : Res := s.live fun s =>
  .next (s.cellIssue c (4 ≤ ·) fun k t w s => s.cellReserved k (cellIx c) t w)

/-! ### The word unit's side of a YIELD (R103, R105), shared with the word instructions -/

/-- Write 0 into history entry `t` of the cells of `mask`, as a writer of lag `lag`. -/
def State.zeroCells (s : State) (bed t mask lag : Nat) : State :=
  (s.putHist bed t mask 0 none lag).hzMark bed t mask lag

/-- WORD_YIELD_MISMATCH (R103). -/
def State.yieldMismatch (s : State) (k bed t op : Nat) : State :=
  let y := s.yields bed t
  (s.faultAt k 0x12 (Loc.ofBed bed) .e (s.rd A.pCycle k) t (y + 2 ^ 16 * op)).zeroCells bed t y 0

/-- An uncorrectable word instruction (R105): the word unit writes zeros for the cells that yield, at the step of a word
result (R50), and raises STORE_ERROR at bed level. (log 138 DEDUCED) -/
def State.wordStoreError (s : State) (k bed t : Nat) : State :=
  (s.faultAt k 0x20 (Loc.ofBed bed) .e (s.rd A.pCycle k) t (storeDetail 7 t 0 0 0)).zeroCells bed t (s.yields bed t) 1

/-- What a YIELD in a bed does (R59, R103): the cell writes nothing; the word unit must issue. With a WNOP or an
unreadable word there, the word unit's fault is raised here, once for the bed. -/
def State.cellYield (s : State) (k bed t : Nat) : State :=
  if s.marked 1 bed then s
  else if s.errOf A.wimem (512 * bed + t) = 2 then (s.mark 1 bed).wordStoreError k bed t
  else if wop (s.rd A.wimem (512 * bed + t)) = 0 then (s.mark 1 bed).yieldMismatch k bed t 0
  else s

def execYield (c : CellLoc) (s : State) : Res := s.live fun s =>
  .next (s.cellIssue c (· = 3) fun k t _ s => s.cellYield k (bedIx c.toBedLoc) t)

/-- What cell `c` does with instruction `w` at step `t` (chapter 03). -/
def State.cellRun (s : State) (k c t w : Nat) : State :=
  match slice w 92 4 with
  | 0 => s.cellNop c t
  | 1 => s.cellEval k c t w false
  | 2 => s.cellEval k c t w true
  | 3 => s.cellYield k (c / 16) t
  | _ => s.cellReserved k c t w

end Sys2Proof.Machine
end

