-- ==== Sys2Proof/Machine/Access.lean ====
section
/-! DEFINITION. The bed and word-unit access ports (chapters 02 and 04, R53 to R56, R106, R491). The data move when GO
is written, or, of a bed that Newt tests, once it has restored the bed; RESULT shows, and BUSYACC clears, when the access
completes. -/

namespace Sys2Proof.Machine

open Reg

/-- Results of an access port. -/
def accOk : Nat := 0
def accBusy : Nat := 1
def accDenied : Nat := 2
def accRange : Nat := 3
def accCorrected : Nat := 4
def accUncorrectable : Nat := 5

/-- What BED_ACC_LOC and BED_ACC_INDEX name on a die. -/
structure BedAcc where
  store : Nat
  course : Nat        -- flat
  bed : Nat           -- flat
  cell : Nat          -- flat
  index : Nat
  bank : Nat
  deriving DecidableEq, Repr

def bedAccOf (die loc ix : Nat) : BedAcc :=
  let u := 256 * die + 16 * slice loc 8 4 + slice loc 4 4
  ⟨slice loc 16 4, u, 16 * u + slice loc 0 4, 256 * u + 16 * slice loc 0 4 + slice loc 12 4, slice ix 0 9, slice ix 12 2⟩

/-- The array and entry of a store. -/
def BedAcc.place (a : BedAcc) : Arr × Nat :=
  match a.store with
  | 0 => (A.imem, 512 * a.cell + a.index)
  | 1 => (A.hist, 512 * a.bed + a.index)
  | 2 => (A.state, 256 * a.bed + a.index)
  | 3 => (A.land, landKey a.bed a.bank a.index)
  | 4 => (A.port, portKey a.bed a.bank a.index)
  | 5 => (A.wflag, 512 * a.bed + a.index)
  | _ => (A.pimem, 512 * a.course + a.index)

/-- A reserved STORE, or an index or bank outside its range. -/
def BedAcc.badAddress (a : BedAcc) : Bool :=
  7 ≤ a.store ∨ (a.store = 2 ∧ 256 ≤ a.index) ∨ (a.store = 4 ∧ 16 ≤ a.index) ∨ (a.store = 3 ∧ 2 ≤ a.bank)

/-- The state of a wall's partition permits an access (R53, R106): reads and data writes while it is unassigned or its
partition IDLE or STOPPED; `idleOnly` excludes STOPPED. -/
def State.wallServes (s : State) (wall : Nat) (idleOnly : Bool) : Bool :=
  match s.slotOfWall wall with
  | none => true
  | some k => s.rd A.pState k = 1 ∨ (s.rd A.pState k = 4 ∧ ¬ idleOnly)

/-- Newt tests a bed of a wall, or holds it pinned; this bed (R197, R198). (log 146 DESIGN CHOICE) -/
def State.newtOnBeds (s : State) (wall : Nat) : Bool :=
  let b := D (wall / 16)
  s.rf b NEWT_STATUS_PHASE ≠ 0 ∧ s.rf b NEWT_STATUS_KIND = 1 ∧ s.rf b NEWT_STATUS_WALL = wall % 16
def State.newtOnBed (s : State) (bed : Nat) : Bool :=
  s.newtOnBeds (bed / 256) ∧ s.rf (D (bed / 4096)) NEWT_STATUS_UNIT = bed % 256

/-- The step up to which software sees the writes of a bed's partition (R50). -/
def State.softStep (s : State) (bed : Nat) : Nat :=
  match s.slotOfBed bed with
  | some k => s.doneStep k
  | none => 0

/-- A completed step has written the history entry that software reads, and its parity with it. -/
def State.bedWritten (s : State) (a : BedAcc) : Bool :=
  let seen := s.histSeen a.bed a.index lagSoft (s.softStep a.bed)
  if a.store = 5 then seen.any (·.flags.isSome) else seen ≠ []

/-- The value that software reads: with the writes of the completed steps of the partition (R50). -/
def State.bedValue (s : State) (a : BedAcc) : Nat :=
  let t := s.softStep a.bed
  match a.store with
  | 1 => s.histRow a.bed a.index lagSoft t
  | 5 => s.flagEntry a.bed a.index lagSoft t
  | _ => s.rd a.place.1 a.place.2

/-- Presence flags of the row or line. -/
def State.bedFlags (s : State) (a : BedAcc) : Nat :=
  if a.store = 3 then s.rd A.landP (landKey a.bed a.bank a.index) else slice (s.rd A.portP (4 * a.bed + a.bank)) a.index 1

/-- A software write of a store (R55). -/
def State.bedStore (s : State) (a : BedAcc) (data pres : Nat) (setP clrP : Bool) : State :=
  let (arr, i) := a.place
  let s := if a.store = 1 ∨ a.store = 5 then
      { s with histPend := s.histPend.filter fun p => ¬ (p.bed = a.bed ∧ p.step = a.index) }
    else s
  let s := match s.slotOfBed a.bed with
    | some k => if a.store = 2 then s.cow k (a.bed / 4096) A.state i else s
    | none => s
  let s := if a.store = 3 then s.wrLand i 0xFFFF data else s.wrE arr i data
  let s := if a.store = 2 then s.wrE A.shadow i data else s
  let s := if a.store = 4 then s.wr A.portDue i 0 else s
  let flags := s.bedFlags a
  let flags' := if setP then flags ||| pres else if clrP then flags &&& (0xFFFF ^^^ pres) else flags
  if a.store = 3 then s.wr A.landP (landKey a.bed a.bank a.index) flags'
  else if a.store = 4 ∧ (setP ∨ clrP) ∧ pres % 2 = 1 then
    s.wrPres (4 * a.bed + a.bank) (2 ^ a.index) (2 ^ a.index * (flags' % 2))
  else s

def State.logStore (s : State) (a : BedAcc) (loc ix data pres : Nat) (setP clrP : Bool) : State :=
  match s.slotOfBed a.bed with
  | none => s
  | some k =>
    if 1 ≤ a.store ∧ a.store ≤ 5 then
      s.logInput k (a.bed / 4096) 0xD
        [loc + 2 ^ 32 * ix, pres + 2 ^ 16 * bit setP + 2 ^ 17 * bit clrP, slice data 0 64, slice data 64 64]
    else s

/-- The 128-bit data buffer. -/
def State.bedData (s : State) (die : Nat) : Nat :=
  let b := D die + oBED_ACC_DATA
  s.pair b + 2 ^ 64 * s.pair (b + 8)
def State.setBedData (s : State) (die v : Nat) : State :=
  let b := D die + oBED_ACC_DATA
  (s.setPair b v).setPair (b + 8) (v / 2 ^ 64)

/-- Begin an access whose result is `r`. -/
def State.accBegin (s : State) (die port r : Nat) : State := s.wr A.accRes (3 * die + port) r

/-- Count a corrected entry of SECDED; RESULT of a read. -/
def State.accRead (s : State) (die : Nat) (arr : Arr) (i : Nat) : Nat × State :=
  match s.errOf arr i with
  | 0 => (accOk, s)
  | 1 =>
    (accCorrected, s.cnt (D die)
      (if arr.code = A.imem.code ∨ arr.code = A.pimem.code ∨ arr.code = A.wimem.code then STORE_CE_COUNT_IMEM_CE
       else STORE_CE_COUNT_DATA_CE) 1)
  | _ => (accUncorrectable, s)

/-- RESULT of the read of a bed store (R51): an error of parity cannot be corrected, and of a port-store line the flags are
compared as well. -/
def State.bedRead (s : State) (die : Nat) (a : BedAcc) : Nat × State :=
  let (arr, i) := a.place
  match a.store with
  | 1 => (if s.errOf arr i = 0 ∨ s.bedWritten a then accOk else accUncorrectable, s)
  | 5 => (if s.errOf arr i = 0 ∨ s.bedWritten a then accOk else accUncorrectable, s)
  | 3 => (if s.rd A.landErr i = 0 then accOk else accUncorrectable, s)
  | 4 => if ¬ (s.rd A.portPErr (4 * a.bed + a.bank)).testBit a.index then s.accRead die arr i else (accUncorrectable, (s.accRead die arr i).2)
  | _ => s.accRead die arr i

/-- The refusals that come before those of the data (R491). -/
def State.accCheck (s : State) (who : Who) (bad : Bool) (wall : Nat) (idleOnly : Bool) : Nat :=
  if bad then accRange else if ¬ s.mayWall who wall then accDenied
  else if ¬ s.wallServes wall idleOnly then accBusy else accOk

/-- The access that the bed access port's registers name. -/
def State.bedAccNow (s : State) (die : Nat) : BedAcc :=
  bedAccOf die (s.reg (D die + oBED_ACC_LOC)) (s.reg (D die + oBED_ACC_INDEX))

/-- The bed access port performs an access (R53 to R55). -/
def State.bedPerform (s : State) (who : Who) (die : Nat) (write setP clrP : Bool) : State :=
  let a := s.bedAccNow die
  let instr := a.store = 0 ∨ a.store = 6
  let r := s.accCheck who a.badAddress (a.bed / 256) (write && instr)
  let r := if r = accOk ∧ write ∧ setP ∧ clrP then accRange else r
  if r ≠ accOk then s.accBegin die 0 r
  else if write then
    let pres := s.rf (D die) BED_ACC_PRES_PRES
    let data := s.bedData die
    ((s.logStore a (s.reg (D die + oBED_ACC_LOC)) (s.reg (D die + oBED_ACC_INDEX)) data pres setP clrP).bedStore a data
      pres setP clrP).accBegin die 0 accOk
  else
    let v := s.bedValue a
    let s := if a.store = 3 ∨ a.store = 4 then s.wf (D die) BED_ACC_PRES_PRES (s.bedFlags a) else s
    let (r, s) := s.bedRead die a
    (s.setBedData die v).accBegin die 0 r

/-- An access of port `port` waits until Newt has restored its bed (R198). -/
def State.accHold (s : State) (who : Who) (die port : Nat) (write setP clrP : Bool) : State :=
  { s with accWait := s.accWait ++ [(3 * die + port, who, bit write + 2 * bit setP + 4 * bit clrP)] }

/-- GO of the bed access port. -/
def State.bedAccess (s : State) (who : Who) (die : Nat) (write setP clrP : Bool) : State :=
  if s.rf (D die) BED_ACC_STATUS_BUSYACC = 1 then s
  else
    let s := s.wf (D die) BED_ACC_STATUS_BUSYACC 1
    if s.newtOnBed (s.bedAccNow die).bed then s.accHold who die 0 write setP clrP
    else s.bedPerform who die write setP clrP

/-- An access completes: RESULT shows, BUSYACC clears. -/
def State.accDone (s : State) (die port : Nat) (busy result : Fld) : State :=
  if s.rf (D die) busy = 0 then s
  else ((s.wf (D die) result (s.rd A.accRes (3 * die + port))).wf (D die) busy 0).wr A.accRes (3 * die + port) 0

/-- The access of port `port` that waits for Newt, if any. -/
def State.accHeld (s : State) (die port : Nat) : Option (Nat × Who × Nat) := s.accWait.find? fun x => x.1 = 3 * die + port

def State.accDrop (s : State) (die port : Nat) : State :=
  { s with accWait := s.accWait.filter fun x => x.1 ≠ 3 * die + port }

/-- The bed access port completes: an access that waited is performed first, and stays busy while Newt tests its bed. The
port's registers are read when it is performed. (log 141 DESIGN CHOICE) -/
def State.bedComplete (s : State) (die : Nat) : State :=
  match s.accHeld die 0 with
  | none => s.accDone die 0 BED_ACC_STATUS_BUSYACC BED_ACC_STATUS_RESULT
  | some (_, who, f) =>
    if s.newtOnBed (s.bedAccNow die).bed then s
    else ((s.accDrop die 0).bedPerform who die (f.testBit 0) (f.testBit 1) (f.testBit 2)).accDone die 0
      BED_ACC_STATUS_BUSYACC BED_ACC_STATUS_RESULT

def execBedAccRead (who : Who) (die : Fin 8) (s : State) : Res := s.accessDom who die domFab (.bedAccRead who die) fun s => .next (s.bedAccess who die false false false).okay
def execBedAccWrite (who : Who) (die : Fin 8) (setPres clrPres : Bool) (s : State) : Res := s.accessDom who die domFab (.bedAccWrite who die setPres clrPres) fun s =>
  .next (s.bedAccess who die true setPres clrPres).okay
def execBedAccDone (die : Fin 8) (s : State) : Res := s.live fun s =>
  .next (s.bedComplete die)

/-! ### The word-unit access port (R106) -/

/-- The bed that the word-unit access port's registers name. -/
def State.wuBed (s : State) (die : Nat) : Nat :=
  4096 * die + 256 * s.rf (D die) WU_ACC_LOC_WALL + 16 * s.rf (D die) WU_ACC_LOC_COURSE + s.rf (D die) WU_ACC_LOC_BED

/-- The word-unit access port performs an access. -/
def State.wuPerform (s : State) (who : Who) (die : Nat) (write : Bool) : State :=
  let bed := s.wuBed die
  let i := 512 * bed + s.rf (D die) WU_ACC_LOC_INDEX
  let r := s.accCheck who false (bed / 256) write
  if r ≠ accOk then s.accBegin die 1 r
  else if write then
    (s.wrE A.wimem i (s.rf (D die) WU_ACC_DATA0_DATA + 2 ^ 32 * s.rf (D die) WU_ACC_DATA1_DATA)).accBegin die 1 accOk
  else
    let v := s.rd A.wimem i
    let (r, s) := s.accRead die A.wimem i
    ((s.wf (D die) WU_ACC_DATA0_DATA v).wf (D die) WU_ACC_DATA1_DATA (v / 2 ^ 32)).accBegin die 1 r

/-- GO of the word-unit access port. -/
def State.wuAccess (s : State) (who : Who) (die : Nat) (write : Bool) : State :=
  if s.rf (D die) WU_ACC_STATUS_BUSYACC = 1 then s
  else
    let s := s.wf (D die) WU_ACC_STATUS_BUSYACC 1
    if s.newtOnBed (s.wuBed die) then s.accHold who die 1 write false false else s.wuPerform who die write

/-- The word-unit access port completes, as the bed access port does. (log 141 DESIGN CHOICE) -/
def State.wuComplete (s : State) (die : Nat) : State :=
  match s.accHeld die 1 with
  | none => s.accDone die 1 WU_ACC_STATUS_BUSYACC WU_ACC_STATUS_RESULT
  | some (_, who, f) =>
    if s.newtOnBed (s.wuBed die) then s
    else ((s.accDrop die 1).wuPerform who die (f.testBit 0)).accDone die 1 WU_ACC_STATUS_BUSYACC WU_ACC_STATUS_RESULT

def execWuAccRead (who : Who) (die : Fin 8) (s : State) : Res := s.accessDom who die domFab (.wuAccRead who die) fun s => .next (s.wuAccess who die false).okay
def execWuAccWrite (who : Who) (die : Fin 8) (s : State) : Res := s.accessDom who die domFab (.wuAccWrite who die) fun s => .next (s.wuAccess who die true).okay
def execWuAccDone (die : Fin 8) (s : State) : Res := s.live fun s => .next (s.wuComplete die)

end Sys2Proof.Machine
end

