-- ==== Sys2Proof/Machine/MortarOps.lean ====
section
/-! DEFINITION. The tables of the mortar, their ownership and capacity (chapter 05, R107 to R126). Lanes are numbered as
`A.mTab` gives. -/

namespace Sys2Proof.Machine

open Reg

/-! ### Dies and modules (R121) -/

/-- The die that module `m` of die `d` connects to. -/
def neighborDie (d m : Nat) : Nat :=
  let r := d / 4
  let c := d % 4
  match m with
  | 0 => 4 * r + (c + 1) % 4
  | 1 => 4 * r + (c + 3) % 4
  | 2 => 4 * (1 - r) + c
  | _ => 4 * (1 - r) + (c + 2) % 4

/-- The module of that die which connects back. -/
def backModule (m : Nat) : Nat := if m < 2 then 1 - m else m

/-! ### Lanes (R110, R117, R122, R124) -/

/-- Wall of a lane of kind 0, 1 or 2. -/
def laneWall (kind lane : Nat) : Nat :=
  match kind with
  | 0 => lane / 4096
  | 1 => lane / 5120
  | _ => lane / 1280

/-- Die of a lane. -/
def laneDie (kind lane : Nat) : Nat :=
  match kind with
  | 0 | 1 | 2 => laneWall kind lane / 16
  | 3 => lane / 5120
  | 4 => lane / 2048
  | _ => lane / 512

/-- Location that names a lane. -/
def laneLoc (kind lane : Nat) : Loc :=
  match kind with
  | 0 => Loc.ofBed (lane / 16)
  | 1 => Loc.ofCourse (lane / 320)
  | 2 => Loc.ofWall (lane / 1280)
  | _ => Loc.ofDie (laneDie kind lane)

/-- Number of a lane within its bed, course, wall or die, as LANE of MORTAR_ACC_LOC gives it. -/
def laneNo (kind lane : Nat) : Nat :=
  match kind with
  | 0 => lane % 16
  | 1 => lane % 320
  | 2 => lane % 1280
  | 3 => lane % 5120
  | 4 => lane % 2048
  | _ => lane % 512

/-- Partition that a lane belongs to (R117). -/
def State.laneOwner (s : State) (kind lane : Nat) : Option Nat :=
  if kind < 3 then (s.slotOfWall (laneWall kind lane)).map (s.rd A.pPid ·)
  else
    let v := s.rd (A.mOwn kind) lane
    if slice v 8 1 = 1 then some (slice v 0 8) else none

/-- Slot of the partition that a lane belongs to. -/
def State.laneSlot (s : State) (kind lane : Nat) : Option Nat := (s.laneOwner kind lane).bind s.slotOfPid

/-! ### Entries (R107, R110, R122, R124, R128) -/

/-- EN of an entry. -/
def mEn (kind e : Nat) : Bool := e.testBit (if kind = 6 then 31 else 15)

/-- A reserved bit set, or an input or source outside its table's range (R135). -/
def entryBad (kind lane e : Nat) : Bool :=
  match kind with
  | 0 => e.testBit 13
  | 1 => slice e 13 2 ≠ 0 ∨ 320 ≤ slice e 0 13
  | 2 => slice e 13 2 ≠ 0 ∨ 1280 ≤ slice e 0 13
  | 3 => slice e 13 2 ≠ 0 ∨ 5120 ≤ slice e 0 13
  | 4 => slice e 11 4 ≠ 0 ∨ (256 ≤ lane % 512 ∧ 1024 ≤ slice e 0 11)
  | 5 => slice e 11 4 ≠ 0
  | _ => slice e 9 3 ≠ 0

/-- The lane whose bit is source `src` of a die (R122). -/
def sourceLane (die src : Nat) : Nat × Nat :=
  if src < 1024 then (3, 5120 * die + 4096 + src)
  else
    let m := (src - 1024) / 256
    (4, 2048 * neighborDie die m + 512 * backModule m + 256 + (src - 1024) % 256)

/-- The lane that an entry selects, where it may belong to another partition (R118). -/
def selectedLane (kind lane e : Nat) : Option (Nat × Nat) :=
  let i := slice e 0 13
  match kind with
  | 2 =>
    let wall := lane / 1280
    if i < 1024 then none else some (3, 5120 * (wall / 16) + 256 * (wall % 16) + (i - 1024))
  | 3 =>
    let die := lane / 5120
    if i < 4096 then some (2, 1280 * (16 * die + i / 256) + 1024 + i % 256)
    else
      let m := (i - 4096) / 256
      some (4, 2048 * neighborDie die m + 512 * backModule m + (i - 4096) % 256)
  | 4 => some (sourceLane (lane / 2048) (slice e 0 11))
  | 5 => some (sourceLane (lane / 512) (slice e 0 11))
  | _ => none

/-- Flat wall, bed, lane and landing step of a receive entry (R128). -/
def recvWall (e : Nat) : Nat := 16 * slice e 28 3 + slice e 24 4
def recvBed (e : Nat) : Nat := 256 * recvWall e + 16 * slice e 20 4 + slice e 16 4

/-- An entry keeps R118, given the owners as they stand. -/
def State.entryConfined (s : State) (kind lane e : Nat) : Bool :=
  match s.laneOwner kind lane with
  | none => true
  | some pid =>
    if ¬ mEn kind e then true
    else if kind = 6 then (s.slotOfWall (recvWall e)).any fun k => decide (s.rd A.pPid k = pid)
    else match selectedLane kind lane e with
      | none => true
      | some x => s.laneOwner x.1 x.2 = some pid

/-- Enabled entries of the tables of a kind: lane, step and entry. -/
def State.tableEntries (s : State) (kind : Nat) : List (Nat × Nat × Nat) :=
  (s.arr.filter fun x => x.1 % 512 = (A.mTab kind).code ∧ mEn kind x.2).map fun x =>
    (x.1 / 512 / 512, x.1 / 512 % 512, x.2)

/-- A LANE_CFG that would give a lane its owner breaks R118: `s` has the new owner. -/
def State.laneConfined (s : State) (kind lane : Nat) : Bool :=
  ((s.tableEntries kind).all fun x => x.1 ≠ lane ∨ s.entryConfined kind lane x.2.2) ∧
  [2, 3, 4, 5].all fun j => (s.tableEntries j).all fun x =>
    selectedLane j x.1 x.2.2 ≠ some (kind, lane) ∨ s.entryConfined j x.1 x.2.2

/-- The hidden parity bit of an entry is wrong (R133). -/
def State.mortarBad (s : State) (kind lane step : Nat) : Bool := s.errOf (A.mTab kind) (512 * lane + step) ≠ 0

/-- Perform an entry of slot `k`: on a parity error it carries nothing, and the partition stops (R133). -/
def State.mortarPerform (s : State) (k kind lane step : Nat) (f : Nat → State) : State :=
  if s.mortarBad kind lane step then
    s.fault k 0x22 (laneLoc kind lane) .i (kind + 2 ^ 3 * laneNo kind lane + 2 ^ 16 * step)
  else f (s.rd (A.mTab kind) (512 * lane + step))

/-! ### Capacity (R124 to R126) -/

/-- SCLK in MHz at a performance level (R416), halved in debug mode. -/
def State.sclk (s : State) : Nat :=
  let f := match s.rf 0 PL_STATUS_LEVEL with
    | 0 => 1000
    | 1 => 800
    | 2 => 600
    | _ => 400
  if s.debug then f / 2 else f

/-- Usable mortar rate U of a lane in Mb/s, by RATE. -/
def usableRate : Nat → Nat
  | 1 => 7200
  | 2 => 18600
  | 3 => 34000
  | 4 => 68000
  | _ => 0

/-- Positions per step of a link lane. -/
def lanePositions (u sclk : Nat) : Nat := min 64 (4 * (u / (4 * sclk)))

/-- Bits set in a mask of 16. -/
def bitCount (m : Nat) : Nat := ((List.range 16).filter m.testBit).length

/-- Positions that a port carries. -/
def State.portPositions (s : State) (p : Nat) : Nat :=
  if s.portUp p then
    bitCount (s.rf (PT p) PORT_STATUS_ACTIVE) * lanePositions (usableRate (s.rf (PT p) PORT_STATUS_RATE)) s.sclk
  else 0

/-- A port does not carry every enabled send position of slot `k` (R126). -/
def State.portShort (s : State) (k p : Nat) : Bool :=
  (s.tableEntries 5).any fun x =>
    x.1 / 256 = p ∧ s.portPositions p ≤ x.1 % 256 ∧ s.laneSlot 5 x.1 = some k
def State.capacityShort (s : State) (k : Nat) : Bool := (List.range 16).any fun p => s.portShort k p

/-! ### MREG and timing classes (R114, R119) -/

/-- A used segment lacks the register that its class requires at level `pl`. -/
def State.mregMissing (s : State) (kind lane pl : Nat) : Bool :=
  kind < 4 ∧ s.rd (A.mReg kind) lane = 0 ∧ pl < s.rd (A.mClass kind) lane ∧ (s.tableEntries kind).any fun x => x.1 = lane

end Sys2Proof.Machine
end

