-- ==== Sys2Proof/Machine/Mem.lean ====
section
/-! DEFINITION. HBM (chapter 17): the bytes of the eight stacks, and one access to a 64-byte line. -/

namespace Sys2Proof.Machine

open Reg

/-- What a byte of HBM that nothing has written reads as: training writes every line with zeros (R411). (log 10 DESIGN CHOICE) -/
def memDflt : Byte := 0

/-- The canonical form of memory. -/
def Memory.wf (m : List Host.Cell) : Bool := Sparse.wf (fun _ => memDflt) m

/-- Log 10 DESIGN CHOICE. -/
def State.byte (s : State) (a : Nat) : Byte := Sparse.get memDflt s.mem a
def State.putByte (s : State) (a : Nat) (b : Byte) : State := { s with mem := Sparse.set memDflt s.mem a b }

/-- `n` bytes from address `a`, little-endian. -/
def State.bytes (s : State) (a : Nat) : Nat → Nat
  | 0 => 0
  | n + 1 => (s.byte a).toNat + 256 * s.bytes (a + 1) n

/-- Write the low `n` bytes of `v` from address `a` on, little-endian. -/
def State.putBytes (s : State) (a v : Nat) : Nat → State
  | 0 => s
  | n + 1 => (s.putByte a (BitVec.ofNat 8 v)).putBytes (a + 1) (v / 256) n

/-- Pseudo-channel of an address (R402). -/
def State.pseudoChannel (s : State) (a : Nat) : Nat :=
  let o := a % stackBytes
  if s.rf (D (hbmDie a)) HBM_CFG_MAP = 0 then slice o 8 5 else 4 * (o / 0x180000000) + slice (o % 0x180000000) 8 2

/-- The partition that owns the 2 MiB granule of an address (R403). -/
def State.granuleOwner (s : State) (a : Nat) : Option Nat :=
  let v := s.rd A.own (a / 0x200000)
  if slice v 8 1 = 1 then some (slice v 0 8) else none

/-- An identity reaches an address (R404). -/
def State.reachesHbm (s : State) (w : Stamp) (a : Nat) : Bool :=
  match w with
  | .pf => true
  | .boot => true
  | .part pid => s.granuleOwner a = some pid
  | .nobody => false

/-- The contents of the line are lost and nothing has written it since (R414). (log 112 DESIGN CHOICE) -/
def State.lineLost (s : State) (a : Nat) : Bool :=
  (s.rd A.hbmLost (hbmDie a)).testBit (s.pseudoChannel a) ∧ s.rd A.hbmKnown (a / 64) = 0

/-- Count an uncorrectable line, record its address and raise the event (R408, R471). (log 111 DEDUCED) -/
def State.noteUe (s : State) (a : Nat) : State :=
  let b := D (hbmDie a)
  let line := a / 64 * 64
  ((s.cnt b HBM_ECC_COUNT_UE 1).setPair (b + oHBM_ERR_ADDR_LO) (line + 2 ^ 63)).raise 0x5BF

/-- The line lies in a save area that SAVE_DESIGN has written: its contents are not stated (R428). -/
def State.lineSaved (s : State) (a : Nat) : Bool :=
  s.rd A.saveMade (hbmDie a) = 1 + a % stackBytes / 2 ^ 30 ∧ s.rd A.hbmKnown (a / 64) = 0

/-- The line holds contents that the manual leaves open. -/
def State.lineOpen (s : State) (a : Nat) : Bool := s.lineLost a ∨ s.lineSaved a

/-- A line that an L2 held modified is written whole, with valid check bits (R398, R408); a DEGRADED stack takes no write
(R411). -/
def State.writeBack (s : State) (line data : Nat) : State :=
  let a := 64 * line
  if s.rf (D (hbmDie a)) HBM_STATUS_DEGRADED = 1 then s
  else
    let s := s.wr A.hbmErr line 0
    let s := if s.lineOpen a then s.wr A.hbmKnown line 1 else s
    s.putBytes a data 64

/-- The L2 of a die gives up a line, with its data if it was modified (R398). -/
def State.l2Drop (s : State) (die line : Nat) : State :=
  match s.l2.find? fun e => e.die = die ∧ e.line = line with
  | none => s
  | some e =>
    let s := { s with l2 := s.l2.filter fun x => ¬ (x.die = die ∧ x.line = line) }
    if e.modified then s.writeBack line e.data else s

/-- Invalidate a line in every L2 that holds it: its snoop filter's presence bits (R397, R398). -/
def State.snoop (s : State) (line : Nat) : State :=
  (s.l2.filter (·.line = line)).foldl (fun s e => s.l2Drop e.die line) s

/-- A read needs the line from the L2 that holds it modified alone; clean copies stay (R398). -/
def State.snoopRead (s : State) (line : Nat) : State :=
  (s.l2.filter fun e => e.line = line ∧ e.modified).foldl (fun s e => s.l2Drop e.die line) s

/-- An access wakes the stack's domain (R396); the agent waits for it, which only time shows. (log 186 DESIGN CHOICE) -/
def State.wakeMem (s : State) (a : Nat) : State :=
  if s.domOn (hbmDie a) domMem then s else s.domUp (hbmDie a) domMem

/-- A corrected line is counted and written back (R408). -/
def State.noteCe (s : State) (a : Nat) : State :=
  (s.cnt (D (hbmDie a)) HBM_ECC_COUNT_CE 1).wr A.hbmErr (a / 64) 0

/-- Answer of an HBM access: status of R394, data, state. -/
structure HbmAns where
  status : Nat
  data   : Nat
  st     : State
  deriving DecidableEq, Repr

/-- Read `n` bytes within one line, already checked for ownership. (log 112 DESIGN CHOICE) -/
def State.hbmRead (s : State) (a n : Nat) : HbmAns :=
  let s := (s.wakeMem a).snoopRead (a / 64)
  let d := s.bytes a n
  if s.rf (D (hbmDie a)) HBM_STATUS_DEGRADED = 1 then ⟨3, d, s⟩
  else if s.lineLost a then
    -- undefined data, with status OK or UE
    (let (v, s) := s.free (8 * n)
     let (u, s) := s.free 1
     ⟨3 * u, v, if u = 1 then s.noteUe a else s⟩)
  else if s.lineSaved a then
    (let (v, s) := s.free (8 * n)
     ⟨0, v, s⟩)
  else
    match s.rd A.hbmErr (a / 64) with
    | 0 => ⟨0, d, s⟩
    | 1 => ⟨0, d, s.noteCe a⟩
    | _ => ⟨3, d, s.noteUe a⟩

/-- Write `n` bytes within one line, already checked for ownership. -/
def State.hbmWrite (s : State) (a n v : Nat) : HbmAns :=
  let s := (s.wakeMem a).snoop (a / 64)
  if s.rf (D (hbmDie a)) HBM_STATUS_DEGRADED = 1 then ⟨3, 0, s⟩
  else if n < 64 ∧ s.rd A.hbmErr (a / 64) = 2 then ⟨3, 0, s.noteUe a⟩
  else
    let s := if n < 64 ∧ s.rd A.hbmErr (a / 64) = 1 then s.noteCe a else s.wr A.hbmErr (a / 64) 0
    -- the first write to a line of open contents leaves its other bytes open
    let s := if s.lineOpen a then
        (let (x, s) := s.free 512
         (s.putBytes (a / 64 * 64) x 64).wr A.hbmKnown (a / 64) 1)
      else s
    ⟨0, 0, s.putBytes a v n⟩

/-- One request (R401, R404, R408): bounds, ownership, then the access. -/
def State.hbmAccess (s : State) (w : Stamp) (write : Bool) (a n v : Nat) : HbmAns :=
  if hbmBytes ≤ a then ⟨1, 0, s⟩
  else if ¬ s.reachesHbm w a then ⟨1, 0, s⟩
  else if write then s.hbmWrite a n v
  else s.hbmRead a n

/-- The target of another device cannot be reached (R394): its address is not committed, or the outgoing port is down. The
port that a path leads to is not stated: while some ports are up and some down a free bit says which it is. (log 108 DESIGN CHOICE) -/
def State.linkDown (s : State) (addr : Nat) : Bool × State :=
  if slice addr 40 12 = s.chainAddr then (false, s)
  else if s.rd A.enCount 0 ≤ slice addr 40 12 ∨ ¬ (List.range 16).any fun p => s.portUp p then (true, s)
  else if (List.range 16).all fun p => s.portUp p then (false, s)
  else
    let (v, s) := s.free 1
    (v = 1, s)

/-- One request of an initiator NI of this device to its HBM: the NI looks the route up (R388). `st` 5: it has none, which
the NI counts and records. (log 106 DEDUCED) -/
def State.niAccess (s : State) (die ni : Nat) (w : Stamp) (write : Bool) (a n v : Nat) : HbmAns :=
  let addr := 2 ^ 40 * s.chainAddr + 2 ^ 39 + a
  match s.noRoute die ni addr with
  | none => s.hbmAccess w write a n v
  | some x => ⟨5, 0, s.noteNoRoute x addr 5⟩

end Sys2Proof.Machine
end

