-- ==== Sys2Proof/Machine/Ports.lean ====
section
/-! DEFINITION. Port-unit instructions (chapter 03, R67 to R87), with the call portal's side of an issue (R218). -/

namespace Sys2Proof.Machine

open Reg

/-- Slot register `i` (modulo 32) of a port unit (R69). -/
def State.slotReg (s : State) (u i : Nat) : Nat := s.rd A.slotR (32 * u + i % 32)

/-- `n` slots from `first` on, as one field (R69). -/
def State.slotField (s : State) (u first : Nat) : Nat → Nat
  | 0 => 0
  | n + 1 => s.slotReg u first + 2 ^ 16 * s.slotField u (first + 1) n

/-- Bits that a length code names; none for a reserved code (R76). -/
def lenBits (len : Nat) : Option Nat :=
  if len ≤ 4 then some (16 * len) else if len ≤ 0xB then some (64 * (len - 3)) else none

/-- Length codes that an operation permits (R77). -/
def lenOk (pop len : Nat) : Bool :=
  match pop with
  | 0x08 => 1 ≤ len ∧ len ≤ 4
  | 0x09 => 1 ≤ len ∧ len ≤ 4
  | 0x10 => 1 ≤ len ∧ len ≤ 0xB
  | 0x11 => 1 ≤ len ∧ len ≤ 0xB
  | 0x12 => len = 7
  | _ => len ≤ 0xB

/-- Lines that an operation delivers (R78); for an MRD whose LEN is not permitted, 8 (R87). -/
def popLines (pop w : Nat) : Nat :=
  match pop with
  | 0x08 => 1
  | 0x10 => if lenOk 0x10 (slice w 44 4) then (((lenBits (slice w 44 4)).getD 0) + 63) / 64 else 8
  | 0x12 => 8
  | 0x19 => 2 ^ slice w 16 2
  | _ => 0

/-- Due position of an issue operation (R79): DUESTEP and, above it, DUEOFS. -/
def dueOf (w : Nat) : Nat := slice w 25 9 + 2 ^ 9 * slice w 34 2

/-- The lowest reason code of PORT_FIELD_RESERVED that applies to an issue operation (R77, R78, R82). -/
def issueBad (pop w : Nat) : Option Nat :=
  if ¬ lenOk pop (slice w 44 4) then some 3
  else if 16 < slice w 36 4 + popLines pop w then some 4
  else if (pop = 0x10 ∨ pop = 0x11 ∨ pop = 0x12) ∧ slice w 16 2 = 3 then some 5
  else none

/-- Port-store bank of a delivery (R44). -/
def State.dueBank (s : State) (k w : Nat) : Nat := (s.rd A.pCycle k + slice w 34 2) % 4

/-- Destination bed of an issue operation. -/
def dueBed (u w : Nat) : Nat := 16 * u + slice w 40 4

/-- The zero lines of a request that is not issued (R76, R87). -/
def State.zeroLines (s : State) (k u w : Nat) : State :=
  s.deliver (dueBed u w) (s.dueBank k w) (slice w 36 4) (popLines (slice w 58 6) w) 0 (dueOf w)

/-- The instruction that a port unit issues at step `t`: PNOP when the word cannot be corrected (R86). -/
def State.portWord (s : State) (u t : Nat) : Nat :=
  if s.errOf A.pimem (512 * u + t) = 2 then 0 else s.rd A.pimem (512 * u + t)

/-- The check of the port memory at issue (R86): an uncorrectable word stops the partition immediately. -/
def State.notePimem (s : State) (k u t : Nat) : State :=
  match s.errOf A.pimem (512 * u + t) with
  | 0 => s
  | 1 => s.cnt (D (u / 256)) STORE_CE_COUNT_IMEM_CE 1
  | _ => s.faultAt k 0x20 (Loc.ofCourse u) .i (s.rd A.pCycle k) t (storeDetail 8 t 0 0 0)

/-- The port unit issues when its opcode meets `p`. (log 2 DESIGN CHOICE) -/
def State.portIssue (s : State) (c : CourseLoc) (p : Nat → Bool) (f : Nat → Nat → Nat → State → State) : State :=
  let u := courseIx c
  s.unit 2 u (wallIx c.toWallLoc) fun k t =>
    let w := s.portWord u t
    if p (slice w 58 6) then s.voted k t (f k t w ((s.mark 2 u).notePimem k u t)) else s

def execPnop (c : CourseLoc) (s : State) : Res := s.live fun s => .next (s.portIssue c (· = 0) fun _ _ _ s => s)

/-- PORT_FIELD_RESERVED (R87). -/
def State.portFieldFault (s : State) (k u t w reason : Nat) : State :=
  s.faultAt k 0x16 (Loc.ofCourse u) .e (s.rd A.pCycle k) t (slice w 58 6 + 2 ^ 8 * reason)

/-- GATHER (R70 to R72): the row, its checks, and the slot write. -/
def State.gatherRow (s : State) (k u t w : Nat) : State :=
  let bed := gatherBed u w
  let ix := slice w 45 9
  let n := s.rd A.pCycle k
  let whole := slice w 36 2 = 0
  let lanes := if whole then 0xFFFF else 2 ^ slice w 32 4
  let row := match slice w 38 2 with
    | 0 => s.partRow (s.rd A.pDepth k) bed ix lagGather t
    | 1 => s.rd A.land (landKey bed (n % 2) ix)
    | _ => s.rd A.state (256 * bed + ix % 256)
  let s := match slice w 38 2 with
    | 0 => (s.noteHist k t bed ix lagGather).hzHistRead k bed ix lagGather t 4 lanes whole (Loc.ofCourse u)
    | 1 => (s.noteLand k t bed (n % 2) ix lanes).hzLandRead k (n % 2) ix t 2 lanes whole (Loc.ofCourse u)
    | _ => s.noteState k t bed (ix % 256)
  let i := 32 * u + slice w 40 5
  if whole then s.wr A.slotR i row
  else s.wr A.slotR i (patch (s.rd A.slotR i) (slice w 28 4) 1 (slice row (slice w 32 4) 1))

/-- What a GATHER does. -/
def State.runGather (s : State) (k u t w : Nat) : State :=
  match gatherBad w with
  | some r => s.portFieldFault k u t w r
  | none => s.gatherRow k u t w

def execGather (c : CourseLoc) (s : State) : Res := s.live fun s =>
  .next (s.portIssue c (· = 1) fun k t w s => s.runGather k (courseIx c) t w)

/-- What a GATHERI does (R71). -/
def State.runGatheri (s : State) (u w : Nat) : State := s.wr A.slotR (32 * u + slice w 40 5) (slice w 0 16)

def execGatheri (c : CourseLoc) (s : State) : Res := s.live fun s =>
  .next (s.portIssue c (· = 2) fun _ _ w s => s.runGatheri (courseIx c) w)

/-- The frame of an issue operation: the checks of R87, the guard bit of R76 (the top bit of the address field) and, for
operations that take a tag, the check of R80; then `f` with the address field. -/
def State.issueRun (s : State) (k u t w addrSlots : Nat) (tagged : Bool) (f : Nat → State → State) : State :=
  let pop := slice w 58 6
  match issueBad pop w with
  | some r => (s.portFieldFault k u t w r).zeroLines k u w
  | none =>
    let addr := s.slotField u (slice w 53 5) addrSlots
    if slice addr (16 * addrSlots - 1) 1 = 0 then s.zeroLines k u w
    else if tagged ∧ s.on A.tagOut (128 * u + slice w 18 7) then
      (s.faultAt k 0x17 (Loc.ofCourse u) .e (s.rd A.pCycle k) t (slice w 18 7 + 2 ^ 8 * pop)).zeroLines k u w
    else f addr s

/-- Data of L bits from DSLOT on (R77). -/
def State.issueData (s : State) (u w : Nat) : Nat :=
  s.slotField u (slice w 48 5) ((((lenBits (slice w 44 4)).getD 0) + 15) / 16)

/-- Hand a DUT request to the wall's bay (R183). -/
def State.bayRequest (s : State) (k u t w addr : Nat) (write : Bool) : State :=
  let r : BayReq := ⟨k, u, s.rd A.pCycle k, t, write, slice addr 0 17, (lenBits (slice w 44 4)).getD 0, s.issueData u w,
    dueBed u w, slice w 36 4, s.dueBank k w, dueOf w⟩
  { s with bayReq := s.bayReq ++ [r] }

def State.runBayrd (s : State) (k u t w : Nat) : State := s.issueRun k u t w 2 false fun a s => s.bayRequest k u t w a false
def State.runBaywr (s : State) (k u t w : Nat) : State := s.issueRun k u t w 2 false fun a s => s.bayRequest k u t w a true

def execBayrd (c : CourseLoc) (s : State) : Res := s.live fun s =>
  .next (s.portIssue c (· = 0x08) fun k t w s => s.runBayrd k (courseIx c) t w)
def execBaywr (c : CourseLoc) (s : State) : Res := s.live fun s =>
  .next (s.portIssue c (· = 0x09) fun k t w s => s.runBaywr k (courseIx c) t w)

/-- The smallest power of 2 not below `n`, up to 64. -/
def pow2ceil (n : Nat) : Nat := if n ≤ 2 then 2 else if n ≤ 4 then 4 else if n ≤ 8 then 8 else if n ≤ 16 then 16
  else if n ≤ 32 then 32 else 64

/-- Engine of a port unit: 4 die + engine. -/
def engineOf (u : Nat) : Nat := 4 * (u / 256) + u / 16 % 16 / 4

/-- Send a request to the engine (chapter 03); in replay it is not sent (R267). Reads and gathers make their tag
outstanding (R80). -/
def State.sendMme (s : State) (k u t w addr : Nat) (kind : MmeKind) : State :=
  let e := engineOf u
  let l := (lenBits (slice w 44 4)).getD 0
  let a := match kind with
    | .gather => slice addr 0 52 / 4 * 4
    | _ => slice addr 0 52 / pow2ceil (l / 8) * pow2ceil (l / 8)
  let r : MmeReq := ⟨s.rd A.mmeSerial e, k, s.rd A.pPid k, u, kind, slice w 18 7, slice w 16 2, a, l, s.issueData u w,
    dueBed u w, slice w 36 4, s.dueBank k w, dueOf w, s.rd A.pCycle k, t, decide (kind ≠ .write), 0, 0, .fresh⟩
  let s := if kind = .write then s else s.wr A.tagOut (128 * u + slice w 18 7) 1
  if s.replaying k then s
  else ({ s with mme := s.mme ++ [r] }).wr A.mmeSerial e (s.rd A.mmeSerial e + 1)

def State.runMrd (s : State) (k u t w : Nat) : State := s.issueRun k u t w 4 true fun a s => s.sendMme k u t w a .read
def State.runMwr (s : State) (k u t w : Nat) : State := s.issueRun k u t w 4 false fun a s => s.sendMme k u t w a .write
def State.runMgath (s : State) (k u t w : Nat) : State := s.issueRun k u t w 4 true fun a s => s.sendMme k u t w a .gather

def execMrd (c : CourseLoc) (s : State) : Res := s.live fun s =>
  .next (s.portIssue c (· = 0x10) fun k t w s => s.runMrd k (courseIx c) t w)
def execMwr (c : CourseLoc) (s : State) : Res := s.live fun s =>
  .next (s.portIssue c (· = 0x11) fun k t w s => s.runMwr k (courseIx c) t w)
def execMgath (c : CourseLoc) (s : State) : Res := s.live fun s =>
  .next (s.portIssue c (· = 0x12) fun k t w s => s.runMgath k (courseIx c) t w)

/-! ### Calls (R218 to R221) -/

/-- The queue takes call messages of the partition (R219). -/
def State.portalQueueOk (s : State) (q pid : Nat) : Bool :=
  s.qEn q ∧ s.qClass q = 1 ∧ s.qOwner q = some pid

/-- The portal writes a message, or leaves it waiting and pulls HOLD with cause QUEUE_FULL (R218). -/
def State.portalSend (s : State) (k u q : Nat) (words : List Nat) : State :=
  if s.portalQueueOk q (s.rd A.pPid k) ∧ s.qFits q words.length then
    (s.qDeliver q words).wr A.calls (u / 16) (s.rd A.calls (u / 16) + 1)
  else State.addCause { s with portalMsg := s.portalMsg ++ [⟨k, u, q, words⟩] } k 4

/-- Words of a call message (R220). -/
def State.callMessage (s : State) (k u t w cw gen : Nat) (rsp : Bool) : List Nat :=
  let l := (lenBits (slice w 44 4)).getD 0
  let d := s.issueData u w
  let w0 := slice cw 0 12 + 2 ^ 12 * gen + 2 ^ 16 * (if rsp then slice w 18 7 else 0) + 2 ^ 23 * (u % 16) +
    2 ^ 27 * (u / 16 % 16) + 2 ^ 31 * (u / 256) + 2 ^ 34 * s.rd A.pPid k + 2 ^ 42 * bit rsp + 2 ^ 43 * slice w 16 2 +
    2 ^ 45 * (if rsp then slice w 25 9 else 0) + 2 ^ 54 * (if rsp then slice w 34 2 else 0) + 2 ^ 56 * slice w 44 4
  w0 :: (s.rd A.pCycle k + 2 ^ 48 * t + 2 ^ 58 * s.rd A.epoch (u / 16)) ::
    (List.range ((l + 63) / 64)).map fun j => slice d (64 * j) 64

/-- What a CALL does: no response, generation 0 (R81). -/
def State.runCall (s : State) (k u t w : Nat) : State :=
  s.issueRun k u t w 2 false fun a s =>
    if s.replaying k then s
    else s.portalSend k u (128 * (u / 256) + slice a 16 7) (s.callMessage k u t w a 0 false)

/-- What a CALLR does: the generation of its tag advances, the tag becomes outstanding, the portal keeps a record (R81,
R221). -/
def State.runCallr (s : State) (k u t w : Nat) : State :=
  s.issueRun k u t w 2 true fun a s =>
    let tag := slice w 18 7
    let g := (s.rd A.gen (128 * u + tag) + 1) % 16
    let s := (s.wr A.gen (128 * u + tag) g).wr A.tagOut (128 * u + tag) 1
    if s.replaying k then s
    else
      let r : PortalRec := ⟨u, tag, slice a 0 12, g, s.rd A.epoch (u / 16), dueBed u w, slice w 36 4,
        popLines 0x19 w, s.dueBank k w, dueOf w, s.rd A.pCycle k⟩
      let s := { s with portalRec := s.portalRec ++ [r] }
      s.portalSend k u (128 * (u / 256) + slice a 16 7) (s.callMessage k u t w a g true)

def execCall (c : CourseLoc) (s : State) : Res := s.live fun s =>
  .next (s.portIssue c (· = 0x18) fun k t w s => s.runCall k (courseIx c) t w)
def execCallr (c : CourseLoc) (s : State) : Res := s.live fun s =>
  .next (s.portIssue c (· = 0x19) fun k t w s => s.runCallr k (courseIx c) t w)

/-- POP codes that chapter 03 lists. -/
def popListed (p : Nat) : Bool :=
  p ≤ 2 ∨ p = 0x08 ∨ p = 0x09 ∨ (0x10 ≤ p ∧ p ≤ 0x12) ∨ p = 0x18 ∨ p = 0x19

/-- A reserved opcode (R87). -/
def State.portReserved (s : State) (k u t w : Nat) : State :=
  s.faultAt k 0x15 (Loc.ofCourse u) .e (s.rd A.pCycle k) t (slice w 58 6)

def execPortOpReserved (c : CourseLoc) (s : State) : Res := s.live fun s =>
  .next (s.portIssue c (fun p => ¬ popListed p) fun k t w s => s.portReserved k (courseIx c) t w)

/-- What a port unit does with instruction `w` at step `t` (chapter 03). -/
def State.portRun (s : State) (k u t w : Nat) : State :=
  match slice w 58 6 with
  | 0 => s
  | 1 => s.runGather k u t w
  | 2 => s.runGatheri u w
  | 0x08 => s.runBayrd k u t w
  | 0x09 => s.runBaywr k u t w
  | 0x10 => s.runMrd k u t w
  | 0x11 => s.runMwr k u t w
  | 0x12 => s.runMgath k u t w
  | 0x18 => s.runCall k u t w
  | 0x19 => s.runCallr k u t w
  | _ => s.portReserved k u t w

end Sys2Proof.Machine
end

