-- ==== Sys2Proof/Machine/Bays.lean ====
section
/-! DEFINITION. Memory bays (chapter 08, R182 to R190): the DUT port and the service port. -/

namespace Sys2Proof.Machine

open Reg

/-- Enter a corrected read in the correction log of its sub-array, 16 entries (R186). (log 37 DESIGN CHOICE) -/
def State.noteCorr (s : State) (wall a : Nat) : State :=
  let e : CorrLog := ⟨wall, slice a 13 4, slice a 4 9, slice a 0 4, s.rd A.bayBit (bayKey wall a), 0⟩
  let mine := s.corrLog.filter fun x => x.wall = wall ∧ x.sub = e.sub
  let log := if 16 ≤ mine.length then s.corrLog.erase (mine.headD e) else s.corrLog
  { s with corrLog := log ++ [e] }

/-- Count a read of a bay word whose stored error is `e` (R186). (log 34 DEDUCED) -/
def State.noteBayErr (s : State) (wall a e : Nat) : State :=
  match e with
  | 0 => s
  | 1 => (s.cnt (D (wall / 16)) BAY_ECC_COUNT_CE 1).noteCorr wall a
  | _ => s.cnt (D (wall / 16)) BAY_ECC_COUNT_UE 1

/-- Count a read of a bay word as it stands. -/
def State.noteBay (s : State) (wall a : Nat) : State := s.noteBayErr wall a (s.bayErr wall a)

/-- BAY_UE of a DUT access (R185, R186). -/
def State.bayUe (s : State) (r : BayReq) : State :=
  s.unitFault (r.course / 16) 0x21 (Loc.ofWall (r.course / 16)) .e r.addr

/-- A DUT read: the low L bits of the word, on their way to the port store. -/
def State.bayDutRead (s : State) (r : BayReq) : State :=
  let wall := r.course / 16
  let w := s.bayRd wall r.addr
  let e := s.bayErr wall r.addr
  let s := s.noteBay wall r.addr
  let s := if e = 2 then s.bayUe r else s
  { s with
    bayRet := s.bayRet ++ [⟨r.slot, r.course, r.cyc, r.step, r.bed, r.line, r.bank, w % 2 ^ r.len, r.due⟩]
    bayDone := s.bayDone ++ [⟨wall, r.addr, false, w, e⟩] }

/-- The DUT writes of one word in one step, `ws` in rising order of course (R183 to R185). The merge of a partial write
reads the word: its error is counted as R186 gives. (log 34 DEDUCED) -/
def State.bayDutWrite (s : State) (wall : Nat) (ws : List BayReq) : State :=
  match ws with
  | [] => s
  | r :: rest =>
    let old := s.bayRd wall r.addr
    let oldErr := s.bayErr wall r.addr
    let s := match rest with
      | [] => s
      | r2 :: _ =>
        let m := ws.foldl (fun (m : Nat) (x : BayReq) => m ||| 2 ^ (x.course % 16)) 0
        s.unitFault wall 0x30 (Loc.ofWall wall) .e
          (r.addr + 2 ^ 20 * (r.course % 16) + 2 ^ 24 * (r2.course % 16) + 2 ^ 28 * m)
    let s := if r.len < 64 then s.noteBay wall r.addr else s
    if r.len < 64 ∧ oldErr = 2 then s.bayUe r
    else
      let s := (s.cowBay r.slot wall r.addr).bayWr wall r.addr (patch old 0 r.len r.data)
      { s with bayDone := s.bayDone ++ [⟨wall, r.addr, true, old, oldErr⟩] }

/-- A request of a wall that the bay performs now: during the step after its issue, or in SCLK time during a hold
(R143, R183). -/
def State.bayReqDue (s : State) (wall : Nat) (r : BayReq) : Bool :=
  r.course / 16 = wall ∧ (s.rd A.pState r.slot ≠ 2 ∨ 1 ≤ s.stepsSince r.slot r.cyc r.step)

/-- Requests of one course order. -/
def sortCourse (l : List BayReq) : List BayReq :=
  (List.range 16).flatMap fun c => l.filter fun r => r.course % 16 = c

/-- The bay performs the DUT requests `now` of one step: every read, then the writes, word by word (R183). With a full
copy-on-write buffer the partition holds before the writes (R255), and the step's requests wait. -/
def State.bayGroup (s : State) (wall : Nat) (now : List BayReq) : State :=
  let writes := now.filter (·.write)
  let fresh := (writes.filter fun r => s.cowNeeds r.slot (A.bay.key (bayKey wall r.addr))).length
  if fresh ≠ 0 ∧ s.cowFull (wall / 16) fresh then writes.foldl (fun s r => s.addCause r.slot 3) s
  else
    let s := { s with bayReq := s.bayReq.filter fun r => ¬ now.contains r }
    let s := (now.filter fun r => ¬ r.write).foldl State.bayDutRead s
    ((writes.map (·.addr)).eraseDups).foldl (fun s a => s.bayDutWrite wall (writes.filter (·.addr = a))) s

/-- The bay performs the DUT requests that are due, in step order (R83), until one step's must wait. -/
def State.bayGroups (s : State) (wall : Nat) : List (Nat × Nat) → State
  | [] => s
  | p :: l =>
    let now := sortCourse (s.bayReq.filter fun r => s.bayReqDue wall r ∧ (r.cyc, r.step) = p)
    let t := s.bayGroup wall now
    if t.bayReq.any fun r => now.contains r then t else t.bayGroups wall l

def State.bayStep (s : State) (wall : Nat) : State :=
  s.bayGroups wall (((s.bayReq.filter (s.bayReqDue wall)).map fun r => (r.cyc, r.step)).eraseDups)

/-- BAY_DUT_STEP (R183). -/
def execBayDutStep (w : WallLoc) (s : State) : Res := s.live fun s => .next (s.bayStep (wallIx w))

/-- A read whose line is written now: during step t + 5, or in SCLK time during a hold. -/
def State.bayRetDue (s : State) (u : Nat) (r : BayRet) : Bool :=
  r.course = u ∧ (s.rd A.pState r.slot ≠ 2 ∨ 5 ≤ s.stepsSince r.slot r.cyc r.step)

/-- Write the oldest line of port unit `u` that is due. -/
def State.bayDeliver (s : State) (u : Nat) : State :=
  match s.bayRet.find? (s.bayRetDue u) with
  | none => s
  | some r => State.putLine { s with bayRet := s.bayRet.erase r } r.bed r.bank r.line r.data r.due

/-- BAYRD_DELIVERY (R50): the oldest line of the port unit that is due. -/
def execBayrdDelivery (u : CourseLoc) (s : State) : Res := s.live fun s =>
  .next (s.bayDeliver (courseIx u))

/-! ### The service port -/

/-- Bytes of an access size. -/
def accBytes : AccSize → Nat
  | .b4 => 4
  | .b8 => 8
  | .b32 => 32
  | .b64 => 64

/-- Sizes and alignment that a bay window serves (R187). -/
def bayAccOk (off : Nat) (size : AccSize) : Bool := size ≠ .b64 ∧ off % accBytes size = 0

/-- A DUT write of this step reached the word (R189): the word before it, and its stored error. -/
def State.dutWrote (s : State) (wall a : Nat) : Option (Nat × Nat) :=
  (s.bayDone.find? fun x => x.wall = wall ∧ x.word = a ∧ x.write).map fun x => (x.old, x.oldErr)

/-- A service read of `n` words from word `a` on, the first word lowest; and whether one was uncorrectable. -/
def State.bayReadWords (s : State) (wall a : Nat) : Nat → Nat × Bool × State
  | 0 => (0, false, s)
  | n + 1 =>
    let (v, e) := (s.dutWrote wall a).getD (s.bayRd wall a, s.bayErr wall a)
    let (r, u, s) := (s.noteBayErr wall a e).bayReadWords wall (a + 1) n
    (v + 2 ^ 64 * r, e = 2 || u, s)

/-- A service read (R187 to R190). -/
def State.bayServiceRead (s : State) (who : Who) (wall off : Nat) (size : AccSize) : State :=
  let s := s.bayStep wall
  if ¬ bayAccOk off size ∨ ¬ s.mayWall who wall then s.deny
  else
    let (v, ue, s) := s.bayReadWords wall (off / 8) ((accBytes size + 7) / 8)
    s.ans (if ue then 3 else 0) (if size = .b4 then slice v (8 * (off % 8)) 32 else v)

/-- The write of a service access into word `a`: its new value, none when a stored uncorrectable error forbids the
merge (R185). (log 34 DEDUCED) -/
def State.bayMerge (s : State) (wall a off : Nat) (size : AccSize) (v : Nat) : Option Nat :=
  if size = .b4 then
    if s.bayErr wall a = 2 then none else some (patch (s.bayRd wall a) (8 * (off % 8)) 32 v)
  else some v

/-- One word of a service write: stored, discarded as COLLIDED (bit `i` of the first mask), or not merged (second). (log 34 DEDUCED) -/
def State.bayWriteWord (s : State) (wall off : Nat) (size : AccSize) (data : Nat) (acc : State × Nat × Nat) (i : Nat) :
    State × Nat × Nat :=
  let (t, col, ue) := acc
  let a := off / 8 + i
  if (s.dutWrote wall a).isSome then (t, col + 2 ^ i, ue)
  else
    let m := t.bayMerge wall a off size (slice data (64 * i) 64)
    let t := if size = .b4 then t.noteBay wall a else t
    match m with
    | none => (t, col, ue + 2 ^ i)
    | some v =>
      let t := match t.slotOfWall wall with
        | some k => t.cowBay k wall a
        | none => t
      (t.bayWr wall a v, col, ue)

/-- PHASE of a logged service write (R257): 0 in the SCLK period in which the bay performs the DUT requests of the step
before the position, the first after that step. -/
def State.svcPhase (s : State) (k : Nat) : Nat := if s.on A.stepFresh k then 0 else 1

def State.logSvc (s : State) (wall off : Nat) (size : AccSize) (data mask : Nat) : State :=
  match s.slotOfWall wall with
  | none => s
  | some k =>
    if ¬ s.recording k ∨ mask = 0 then s
    else
      let (c, t) := s.recPos k
      let part := if size ≠ .b4 then 0 else if off % 8 = 0 then 1 else 2
      let ws := ((List.range 4).filter (mask.testBit ·)).map fun i =>
        if part = 2 then 2 ^ 32 * slice data 0 32 else slice data (64 * i) 64
      s.recPacket k (wall / 16) 0xC c t (s.svcPhase k)
        ((2 ^ 4 * (wall % 16) + 2 ^ 8 * (off / 8) + 2 ^ 25 * mask + 2 ^ 29 * part) :: ws)

/-- The command of a service write. -/
def svcWrite (who : Who) (wall off : Nat) (size : AccSize) (data : Nat) : Instr :=
  .bayServiceWrite who ⟨Fin.ofNat 8 (wall / 16), Fin.ofNat 16 wall⟩ (Fin.ofNat 0x100000 off) size (BitVec.ofNat 256 data)

/-- A service write (R187 to R190). With a full copy-on-write buffer the partition holds, and the access waits and is
performed when the buffer has room (R255). (log 136 DESIGN CHOICE, 192 DEDUCED) -/
def State.bayServiceWrite (s : State) (who : Who) (wall off : Nat) (size : AccSize) (data : Nat) : State :=
  let s := s.bayStep wall
  let n := (accBytes size + 7) / 8
  if ¬ bayAccOk off size ∨ ¬ s.mayWall who wall then s.deny
  else
    let k := (s.slotOfWall wall).getD 0
    let fresh := ((List.range n).filter fun i => s.cowNeeds k (A.bay.key (bayKey wall (off / 8 + i)))).length
    if (s.slotOfWall wall).isSome ∧ fresh ≠ 0 ∧ s.cowFull (wall / 16) fresh then
      (s.hold who (svcWrite who wall off size data) false).addCause k 3
    else
      let (t, col, ue) := (List.range n).foldl (s.bayWriteWord wall off size data) (s, 0, 0)
      let t := t.logSvc wall off size data (2 ^ n - 1 - col - ue)
      { t with rsp := ⟨if col ≠ 0 then 2 else if ue ≠ 0 then 3 else 0, 0, col⟩ }

def execBayServiceRead (who : Who) (w : WallLoc) (off : Fin 0x100000) (size : AccSize) (s : State) : Res := s.accessDom who w.die domMem (.bayServiceRead who w off size) fun s =>
  .next (s.bayServiceRead who (wallIx w) off size)

def execBayServiceWrite (who : Who) (w : WallLoc) (off : Fin 0x100000) (size : AccSize) (data : BitVec 256)
    (s : State) : Res := s.accessDom who w.die domMem (.bayServiceWrite who w off size data) fun s =>
  .next (s.bayServiceWrite who (wallIx w) off size data.toNat)

end Sys2Proof.Machine
end

