-- ==== Sys2Proof/Machine/Mme.lean ====
section
/-! DEFINITION. Memory-model engines and paging (chapter 08, R199 to R211). A request is translated and performed by one
MME_WALK; a read is delivered by a later MME_DELIVERY. -/

namespace Sys2Proof.Machine

open Reg

/-- Page number of a design-memory address. -/
def pageOf (a : Nat) : Nat := slice a 21 31

/-- Outcome of a translation. -/
inductive Trans where
  | frame (entry : Nat)       -- the level-2 entry, with V = R = 1
  | absent                    -- mapped, not resident
  | bad (sub : Nat)           -- a sub-status of R206
  deriving DecidableEq, Repr

/-- An HBM access of engine `eng` with the partition's identity (R392). (log 106 DEDUCED) -/
def State.engAccess (s : State) (eng pid : Nat) (write : Bool) (a n v : Nat) : HbmAns :=
  s.niAccess (eng / 4) (32 + eng % 4) (.part pid) write a n v

/-- Read a map entry; a refusal counts as not valid. -/
def State.mapRead (s : State) (eng pid a : Nat) : HbmAns := s.engAccess eng pid false a 8 0

/-- Capacity of a translation cache (R201). -/
def tcSize : Nat := 4096

/-- Put an entry into a translation cache; the oldest goes when it is full. (log 30 DESIGN CHOICE) -/
def State.tcPut (s : State) (e : TcEntry) : State :=
  let rest := s.tcache.filter fun x => ¬ (x.engine = e.engine ∧ x.pid = e.pid ∧ x.page = e.page)
  let mine := rest.filter (·.engine = e.engine)
  { s with tcache := (if tcSize ≤ mine.length then rest.erase (mine.headD e) else rest) ++ [e] }

/-- Address of the level-2 entry of a page, in a table whose level-1 entry is `l1`. -/
def l2Addr (l1 a : Nat) : Nat := slice l1 18 21 * 2 ^ 18 + 8 * slice a 21 15

/-- Load a level-2 entry, setting A, and D for a write (R199); it goes into the cache. -/
def State.tcLoad (s : State) (eng pid a at_ entry : Nat) (write : Bool) : Nat × State :=
  let entry' := entry ||| 2 ^ 4 ||| (if write then 2 ^ 3 else 0)
  let s := if entry' = entry then s else (s.engAccess eng pid true at_ 8 entry').st
  (entry', s.tcPut ⟨eng, pid, pageOf a, entry'⟩)

/-- The map base of slot `k`, when it is valid. -/
def State.mapBase (s : State) (k : Nat) : Option Nat :=
  if s.rf (P k) MEM_MAP_BASE_VALID = 1 then some (s.rf (P k) MEM_MAP_BASE_BASE * 2 ^ 19) else none

/-- Checks on a valid level-2 entry: W for a write, then R. (log 29 DEDUCED) -/
def entryCheck (entry : Nat) (write : Bool) : Trans :=
  if slice entry 0 1 = 0 then .bad 1
  else if write ∧ slice entry 2 1 = 0 then .bad 2
  else if slice entry 1 1 = 0 then .absent
  else .frame entry

/-- Frame address of a level-2 entry on the holding device. -/
def frameBase (entry : Nat) : Nat := slice entry 21 18 * 2 ^ 21

/-- The check of R200 before a frame is used. For a frame of another device, that device's ownership table decides: a
free value. (log 33 DESIGN CHOICE) -/
def State.frameOwned (s : State) (pid entry : Nat) : Bool × State :=
  if slice entry 8 12 ≠ s.chainAddr then
    let (b, s) := s.free 1
    (b = 1, s)
  else (s.granuleOwner (frameBase entry) = some pid, s)

/-- The second read of the walk: the page entry at `at_`. A frame that the partition does not own counts as unmapped
(R200): it is neither cached nor marked. -/
def State.walkEntry (s : State) (eng pid a at_ : Nat) (write : Bool) : Trans × State :=
  let r := s.mapRead eng pid at_
  if r.status = 3 then (.bad 4, r.st)
  else if r.status ≠ 0 then (.bad 1, r.st)
  else
    match entryCheck r.data write with
    | .frame e =>
      let (own, s) := r.st.frameOwned pid e
      if ¬ own then (.bad 1, s)
      else
        let x := s.tcLoad eng pid a at_ e write
        (.frame x.1, x.2)
    | t => (t, r.st)

/-- Walk the page map of slot `k` (R199). (log 28 DEDUCED) -/
def State.walkMap (s : State) (eng k pid a : Nat) (write : Bool) : Trans × State :=
  match s.mapBase k with
  | none => (.bad 1, s)
  | some base =>
    let r := s.mapRead eng pid (base + 8 * slice a 36 16)
    if r.status = 3 then (.bad 4, r.st)
    else if r.status ≠ 0 ∨ slice r.data 0 1 = 0 then (.bad 1, r.st)
    else r.st.walkEntry eng pid a (l2Addr r.data a) write

/-- A first write through a cached entry sets D, in the cache and in the map (R199): nothing but D changes in the entry
of the map. Where the walk does not reach the entry, the cached one stays without D, so that the next write tries again. -/
def State.tcDirty (s : State) (eng k pid a entry : Nat) : State :=
  if slice entry 3 1 = 1 then s
  else
    match s.mapBase k with
    | none => s
    | some base =>
      let r1 := s.mapRead eng pid (base + 8 * slice a 36 16)
      if r1.status ≠ 0 ∨ slice r1.data 0 1 = 0 then r1.st
      else
        let at_ := l2Addr r1.data a
        let r2 := r1.st.mapRead eng pid at_
        if r2.status ≠ 0 then r2.st
        else
          (r2.st.engAccess eng pid true at_ 8 (r2.data ||| 2 ^ 3)).st.tcPut ⟨eng, pid, pageOf a, entry ||| 2 ^ 3⟩

/-- Translate through the cache, else through the map (R201). A cached entry whose frame the partition does not own any
more counts as unmapped, and is read from the map again. (log 157 DEDUCED) -/
def State.translate (s : State) (eng k pid a : Nat) (write : Bool) : Trans × State :=
  if s.mapBase k = none then (.bad 1, s)
  else
    match s.tcache.find? fun x => x.engine = eng ∧ x.pid = pid ∧ x.page = pageOf a with
    | none => s.walkMap eng k pid a write
    | some e =>
      match entryCheck e.entry write with
      | .frame x =>
        let (own, s) := s.frameOwned pid x
        if own then (.frame x, if write then s.tcDirty eng k pid a x else s)
        else State.walkMap { s with tcache := s.tcache.filter (· ≠ e) } eng k pid a write
      | t => (t, s)

/-- A frame on another device, at address `addr`: without a route, or over a link that is down, the engine's NI or the bridge
answers; else the other device does, or the NI's timer expires (R388, R394, R395): outcome and data are free values. (log 33 DESIGN CHOICE) -/
def State.remoteFrame (s : State) (eng addr n : Nat) : Nat × Nat × State :=
  let die := eng / 4
  let ni := 32 + eng % 4
  match s.noRoute die ni addr with
  | some x => (5, 0, s.noteNoRoute x addr 5)
  | none =>
    let (down, s) := s.linkDown addr
    if down then (5, 0, s.cnRecord die ni addr 6)
    else
      let (o, s) := s.free 2
      let (d, s) := s.free (8 * n)
      match o with
      | 0 => (0, d, s)
      | 1 => (5, d, (s.cnt (D die) CN_ERR_TIMEOUTS 1).cnRecord die ni addr 4)
      | _ => (5, d, s)

/-- A frame of this device. -/
def State.ownFrame (s : State) (eng pid h n v : Nat) (write : Bool) : Nat × Nat × State :=
  let r := s.engAccess eng pid write h n v
  (match r.status with | 0 => 0 | 3 => 5 | _ => 1, r.data, r.st)

/-- The access to the frame (R200): sub-status, data, state. A frame of another device answers in a way that this device
does not decide: its outcome and data are free values. -/
def State.frameAccess (s : State) (eng pid entry a n v : Nat) (write : Bool) : Nat × Nat × State :=
  let h := frameBase entry + a % 2 ^ 21
  if slice entry 8 12 ≠ s.chainAddr then s.remoteFrame eng (2 ^ 40 * slice entry 8 12 + 2 ^ 39 + h) n
  else s.ownFrame eng pid h n v write

/-- Replace a request. -/
def State.setReq (s : State) (r : MmeReq) : State :=
  { s with mme := s.mme.map fun x => if engineOf x.course = engineOf r.course ∧ x.serial = r.serial then r else x }

def State.dropReq (s : State) (r : MmeReq) : State :=
  { s with mme := s.mme.filter fun x => ¬ (engineOf x.course = engineOf r.course ∧ x.serial = r.serial) }

/-- DETAIL of MEM_MODEL_FAULT (R180). -/
def mmeDetail (a count sub : Nat) : Nat := a % 2 ^ 52 + 2 ^ 52 * count + 2 ^ 57 * sub

/-- Raise MEM_MODEL_FAULT at the partition's current position, which the record carries (R177, R206). -/
def State.mmeFault (s : State) (r : MmeReq) (sub a : Nat) : State :=
  s.unitFault (r.course / 16) 0x40 (Loc.ofCourse r.course) .e
    (mmeDetail a (if r.kind = .gather then r.done else 0) sub)

/-- A request fails (R206): a write is discarded, a read or gather completes at its delivery. -/
def State.reqFail (s : State) (r : MmeReq) (sub a : Nat) : State :=
  if r.kind = .write then (s.dropReq r).mmeFault r sub a
  else s.setReq { r with phase := .failed sub a }

/-! ### Waiting pages (R203 to R205) -/

/-- The page-service message of a waiting page. -/
def State.psMessage (s : State) (w : WaitPage) : List Nat :=
  [w.page + 2 ^ 31 * bit w.write + 2 ^ 32 * w.pid + 2 ^ 40 * s.chainAddr + 2 ^ 52 * (w.engine / 4) + 2 ^ 55 * (w.engine % 4),
   w.addr % 2 ^ 52]

/-- Queue of page-service messages of slot `k`. -/
def State.psQueue (s : State) (k : Nat) : Nat := 128 * s.rf (P k) MEM_PS_CFG_DIE + s.rf (P k) MEM_PS_CFG_QUEUE

/-- Write the message of a waiting page when its queue takes it (R219, R239). -/
def State.psSend (s : State) (w : WaitPage) : State :=
  match s.slotOfPid w.pid with
  | none => s
  | some k =>
    if ¬ w.sent ∧ s.portalQueueOk (s.psQueue k) w.pid ∧ s.qFits (s.psQueue k) 2 then
      State.qDeliver { s with waitPages := s.waitPages.map fun x => if x = w then { x with sent := true } else x }
        (s.psQueue k) (s.psMessage w)
    else s

/-- Records that the park area of slot `k` holds, and those in it (R205). -/
def State.parkRoom (s : State) (k : Nat) : Nat := s.rf (P k) MEM_PS_CFG_PARK_MIB * 8192
def State.parked (s : State) (pid : Nat) : List MmeReq := s.mme.filter fun x => x.pid = pid ∧ x.kind = .write ∧ x.done ≠ 0

/-- Park a write: 128 bytes of HBM, whose layout the manual does not give. Nothing says what
becomes of a record that HBM refuses, in a park area that the partition does not own or whose line is uncorrectable: the
write counts as parked, and is performed when its page is resident. (log 32 DESIGN CHOICE, 158 DESIGN CHOICE) -/
def State.park (s : State) (r : MmeReq) : State :=
  let a := s.rf (P r.slot) MEM_PARK_BASE_BASE * 2 ^ 20 + 128 * (s.parked r.pid).length
  let no := (s.parked r.pid).foldl (fun (m : Nat) (x : MmeReq) => max m x.done) 0 + 1
  let (v, s) := s.free 512
  let (w, s) := s.free 512
  let s := (s.engAccess (engineOf r.course) r.pid true a 64 v).st
  let s := (s.engAccess (engineOf r.course) r.pid true (a + 64) 64 w).st
  s.setReq { r with phase := .parked (pageOf r.addr), done := no }

/-- A request meets a non-resident page at address `a` (R203, R205). -/
def State.reqWait (s : State) (r : MmeReq) (a : Nat) : State :=
  let eng := engineOf r.course
  let pg := pageOf a
  let known := s.waitPages.any fun w => w.engine = eng ∧ w.pid = r.pid ∧ w.page = pg
  if r.kind = .write ∧ r.done = 0 ∧ s.parkRoom r.slot ≤ (s.parked r.pid).length then s.reqFail r 3 a
  else if ¬ known ∧ 64 ≤ (s.waitPages.filter (·.engine = eng)).length then s.setReq { r with phase := .waitEntry }
  else
    let s := if r.kind = .write then
        (if r.done = 0 then s.park r else s.setReq { r with phase := .parked pg })
      else s.setReq { r with phase := .waitPage pg }
    if known then s
    else
      let w : WaitPage := ⟨eng, r.pid, pg, decide (r.kind = .write), a, false⟩
      State.psSend { s with waitPages := s.waitPages ++ [w] } w

/-! ### Performing a request -/

/-- Address of element `j` of a gather (R207). -/
def elemAddr (r : MmeReq) (j : Nat) : Nat := (r.addr + 4 * slice r.data (16 * j) 16) % 2 ^ 52

/-- Perform elements in index order from `r.done` on, at most `fuel` of them. -/
def State.gatherFrom (s : State) (r : MmeReq) : Nat → State
  | 0 => s.setReq { r with phase := .ready }
  | fuel + 1 =>
    let a := elemAddr r r.done
    let (t, s) := s.translate (engineOf r.course) r.slot r.pid a false
    match t with
    | .bad sub => s.reqFail r sub a
    | .absent => s.reqWait r a
    | .frame e =>
      let (sub, d, s) := s.frameAccess (engineOf r.course) r.pid e a 4 0 false
      if sub ≠ 0 then s.reqFail r sub a
      else s.gatherFrom { r with acc := r.acc + 2 ^ (32 * r.done) * d, done := r.done + 1 } fuel

/-- Translate and perform a read or write. -/
def State.plainReq (s : State) (r : MmeReq) : State :=
  let wr := decide (r.kind = .write)
  let (t, s) := s.translate (engineOf r.course) r.slot r.pid r.addr wr
  match t with
  | .bad sub => s.reqFail r sub r.addr
  | .absent => s.reqWait r r.addr
  | .frame e =>
    let (sub, d, s) := s.frameAccess (engineOf r.course) r.pid e r.addr (r.len / 8) r.data wr
    if r.kind = .write then
      (if sub = 0 then s.dropReq r else s.reqFail r sub r.addr)
    else
      let r := { r with acc := d }
      if sub = 0 then s.setReq { r with phase := .ready } else s.reqFail r sub r.addr

/-- Walk a request. -/
def State.walkReq (s : State) (r : MmeReq) : State :=
  if r.kind = .gather then s.gatherFrom r (16 - r.done) else s.plainReq r

/-- A request that is still to be performed. -/
def unperformed : MmePhase → Bool
  | .ready => false
  | .failed _ _ => false
  | _ => true

/-- An earlier request of the same port unit and tag group is not performed yet (R208). -/
def State.behind (s : State) (r : MmeReq) : Bool :=
  s.mme.any fun x => x.course = r.course ∧ x.tag / 16 = r.tag / 16 ∧ x.serial < r.serial ∧
    unperformed x.phase

/-- Request `req` of an engine. -/
def State.findReq (s : State) (eng req : Nat) : Option MmeReq :=
  s.mme.find? fun x => engineOf x.course = eng ∧ x.serial = req

/-- MME_WALK (R199 to R208). -/
def execMmeWalk (die : Fin 8) (engine : Fin 4) (req : Nat) (s : State) : Res := s.live fun s =>
  .next (match s.findReq (4 * die + engine) req with
    | none => s
    | some r => if r.phase = .fresh ∧ ¬ s.behind r then s.walkReq r else s)

/-- MME_PAGE_ENTRY_FREE (R203): the oldest request that waits for an entry walks again once one is free. -/
def execMmePageEntryFree (die : Fin 8) (engine : Fin 4) (s : State) : Res := s.live fun s =>
  let eng := 4 * die.val + engine
  .next (match s.mme.find? fun x => engineOf x.course = eng ∧ x.phase = .waitEntry with
    | none => s
    | some r => if (s.waitPages.filter (·.engine = eng)).length < 64 then s.walkReq r else s)

/-- PAGE_SERVICE_MESSAGE_WRITTEN (R239). -/
def execPageServiceMessageWritten (die : Fin 8) (engine : Fin 4) (s : State) : Res := s.live fun s =>
  .next (match s.waitPages.find? fun w => w.engine = 4 * die.val + engine ∧ ¬ w.sent with
    | none => s
    | some w => s.psSend w)

/-- A request waits on page `pg` of partition `pid`. -/
def waitsOn (pid pg : Nat) (r : MmeReq) : Bool :=
  r.pid = pid ∧ (r.phase = .waitPage pg ∨ r.phase = .parked pg)

/-- Put a parked write in its place of the park order. -/
def parkInsert (r : MmeReq) : List MmeReq → List MmeReq
  | [] => [r]
  | x :: l => if r.done ≤ x.done then r :: x :: l else x :: parkInsert r l

/-- Parked writes in park order. -/
def parkOrder (l : List MmeReq) : List MmeReq := l.foldr parkInsert []

/-- MEM_PS_DONE of a page (R204): the engines forget that they wait on it; parked writes are performed in park order,
the other requests walk again at their next MME_WALK. -/
def State.psDone (s : State) (pid pg : Nat) : State :=
  let s := { s with waitPages := s.waitPages.filter fun w => ¬ (w.pid = pid ∧ w.page = pg) }
  let waiting := s.mme.filter (waitsOn pid pg)
  let s := waiting.foldl (fun s r => s.setReq { r with phase := .fresh }) s
  (parkOrder (waiting.filter (·.kind = .write))).foldl (fun s r =>
    let r := { r with phase := MmePhase.fresh }
    if s.behind r then s else s.walkReq r) s

/-- MEM_PS_DONE with FAIL: every request that waits on the page fails (R204). -/
def State.psFail (s : State) (pid pg : Nat) : State :=
  let s := { s with waitPages := s.waitPages.filter fun w => ¬ (w.pid = pid ∧ w.page = pg) }
  (s.mme.filter (waitsOn pid pg)).foldl (fun s r =>
    s.reqFail r 3 (if r.kind = .gather then elemAddr r r.done else r.addr)) s

/-- A write of MEM_PS_DONE by an initiator that may act on the slot. -/
def State.psWrite (s : State) (who : Who) (slot page : Nat) (fail : Bool) : State :=
  if ¬ s.maySlot who slot then s.deny
  else
    let pid := s.rd A.pPid slot
    (if ¬ s.loaded slot then s else if fail then s.psFail pid page else s.psDone pid page).okay

def execMemPsDone (who : Who) (slot : Fin 32) (page : BitVec 31) (s : State) : Res := s.access who (.memPsDone who slot page) fun s =>
  .next (s.psWrite who slot page.toNat false)

def execMemPsFail (who : Who) (slot : Fin 32) (page : BitVec 31) (s : State) : Res := s.access who (.memPsFail who slot page) fun s =>
  .next (s.psWrite who slot page.toNat true)

/-! ### Deliveries (R78, R206) -/

/-- Lines of a delivery. -/
def mmeLines (r : MmeReq) : Nat := if r.kind = .gather then 8 else (r.len + 63) / 64

/-- Data of a delivery: what has been read, zeros for a failed MRD other than HBM_UE. -/
def mmeData (r : MmeReq) : Nat :=
  match r.phase with
  | .failed 5 _ => r.acc
  | .failed _ _ => if r.kind = .gather then r.acc else 0
  | _ => r.acc

/-- A delivery of port unit `u` and tag has been written: the tag is free (R80); a snapshot no longer waits for it
(R256). -/
def State.tagFree (s : State) (u tag : Nat) : State :=
  State.wr { s with snaps := s.snaps.map fun x => { x with owed := x.owed.filter (· ≠ (u, tag)) } } A.tagOut (128 * u + tag) 0

/-- Write a delivery: log it, write the lines, free the tag that it holds (R80), raise the fault. -/
def State.mmeDeliver (s : State) (r : MmeReq) : State :=
  let n := mmeLines r
  let fault := match r.phase with
    | .failed sub a => some (sub, a)
    | _ => none
  let detail := fault.map fun x => mmeDetail x.2 (if r.kind = .gather then r.done else 0) x.1
  let die := r.course / 256
  let s := s.logInput r.slot die 9
    (portPacket 0 r.course r.bed r.line n (slice r.due 9 2) r.tag (r.cyc + slice r.due 9 2) (mmeData r) detail)
  let s := ((s.dropReq r).deliver r.bed r.bank r.line n (mmeData r) r.due)
  let s := if r.tagged then s.tagFree r.course r.tag else s
  match fault with
  | some (sub, a) => s.mmeFault r sub a
  | none => s

/-- MME_DELIVERY: waits while the die's recorder buffer is full (R261). (log 2 DESIGN CHOICE) -/
def execMmeDelivery (die : Fin 8) (engine : Fin 4) (req : Nat) (s : State) : Res := s.live fun s =>
  .next (match s.findReq (4 * die + engine) req with
    | none => s
    | some r =>
      match r.kind, r.phase with
      | .write, _ => s
      | _, .ready => if s.bufFull r.slot die (mmeLines r) then s else s.mmeDeliver r
      | _, .failed _ _ => if s.bufFull r.slot die (mmeLines r + 1) then s else s.mmeDeliver r
      | _, _ => s)

/-! ### Invalidation and fences (R202, R209, R211) -/

/-- The partition that a write acts for (R211): the PID field for the physical function, else the initiator's own. -/
def State.actsFor (s : State) (who : Who) (pid : Nat) : Option Nat :=
  if s.pfRights who then some pid
  else match s.stamp who with
    | .part p => some p
    | _ => none

/-- A write of MEM_TC_INV_CMD (R202). -/
def State.tcInvWrite (s : State) (who : Who) (die v : Nat) : State :=
  match s.actsFor who (slice v 0 8) with
  | none => s.deny
  | some pid =>
    let s := s.wf (D die) MEM_TC_INV_CMD_PID (slice v 0 8)
    (if slice v 8 1 = 0 then s
     else
       let all := s.rf (D die) MEM_TC_INV_PAGE_ALL = 1
       let pg := s.rf (D die) MEM_TC_INV_PAGE_PAGE
       State.wf { s with tcache := s.tcache.filter fun e =>
         ¬ (e.engine / 4 = die ∧ e.pid = pid ∧ (all ∨ e.page = pg)) } (D die) MEM_TC_INV_CMD_DONE 0).okay

def execMemTcInv (who : Who) (die : Fin 8) (val : Word) (s : State) : Res := s.access who (.memTcInv who die val) fun s =>
  .next (s.tcInvWrite who die val.toNat)

/-- MEM_TC_INV_DONE: a walk performs its access at once, so no request is left between translation and HBM. -/
def execMemTcInvDone (die : Fin 8) (s : State) : Res := s.live fun s => .next (s.wf (D die) MEM_TC_INV_CMD_DONE 1)

/-- Base of the register of a fence, as an offset to add to the die's. -/
def fenceBase (die engine : Nat) : Nat := D die + 4 * engine

/-- A write of MME_FENCE (R209). -/
def State.fenceWrite (s : State) (who : Who) (die engine v : Nat) : State :=
  let b := fenceBase die engine
  let e := 4 * die + engine
  match s.actsFor who (slice v 0 8) with
  | none => s.deny
  | some pid =>
    let s := s.wf b MME_FENCE_PID (slice v 0 8)
    (if slice v 8 1 = 0 then s
     else ((s.wr A.fenceAt e (s.rd A.mmeSerial e)).wr A.fencePid e pid).wf b MME_FENCE_DONE 0).okay

def execMmeFence (who : Who) (die : Fin 8) (engine : Fin 4) (val : Word) (s : State) : Res := s.access who (.mmeFence who die engine val) fun s =>
  .next (s.fenceWrite who die engine val.toNat)

/-- MME_FENCE_DONE: every write that the fence covers has been performed. -/
def execMmeFenceDone (die : Fin 8) (engine : Fin 4) (s : State) : Res := s.live fun s =>
  let e := 4 * die.val + engine
  .next (if s.mme.any fun x => engineOf x.course = e ∧ x.pid = s.rd A.fencePid e ∧ x.kind = .write ∧
      x.serial < s.rd A.fenceAt e then s
    else s.wf (fenceBase die engine) MME_FENCE_DONE 1)

end Sys2Proof.Machine
end

