-- ==== Sys2Proof/Machine/Recorder.lean ====
section
/-! DEFINITION. The recorder: snapshots, the sequencer, restore, replay and dumps (chapter 11, R250 to R274). -/

namespace Sys2Proof.Machine

open Reg

/-! ### Snapshots (R253 to R258) -/

/-- Lists of at most `n` elements, in order. -/
def chunks (n : Nat) (l : List Nat) : List (List Nat) :=
  (List.range ((l.length + n - 1) / n)).map fun i => (l.drop (n * i)).take n

/-- Consecutive numbers, grouped in runs of at most `n`; `acc` is the present run, reversed. -/
def runs (n : Nat) : List Nat → List Nat → List (List Nat)
  | [], [] => []
  | acc, [] => [acc.reverse]
  | [], x :: r => runs n [x] r
  | a :: acc, x :: r =>
    if x = a + 1 ∧ acc.length + 1 < n then runs n (x :: a :: acc) r
    else (a :: acc).reverse :: runs n [x] r

/-- Four 16-bit rows per word, the first lowest. -/
def pack4 : List Nat → List Nat
  | a :: b :: c :: d :: r => (a + 2 ^ 16 * b + 2 ^ 32 * c + 2 ^ 48 * d) :: pack4 r
  | [a, b, c] => [a + 2 ^ 16 * b + 2 ^ 32 * c]
  | [a, b] => [a + 2 ^ 16 * b]
  | [a] => [a]
  | [] => []

/-- Descriptor of a SNAP_DATA packet. -/
def snapDesc (kind wall course bed cow index count : Nat) : Nat :=
  kind + 2 ^ 4 * (wall % 16) + 2 ^ 8 * course + 2 ^ 12 * bed + 2 ^ 16 * cow + 2 ^ 18 * index + 2 ^ 36 * count

/-- Header words of a packet (R257). -/
def State.pktHeader (s : State) (p : RecPkt) : List Nat :=
  [p.typ + 2 ^ 8 * s.rd A.pPid p.slot + 2 ^ 16 * (p.bytes / 8 % 2 ^ 13) + 2 ^ 29 * p.die + 2 ^ 32 * p.seq,
   p.cyc + 2 ^ 48 * p.step + 2 ^ 58 * p.phase]

/-- Write a packet to HBM. A PAD of 8 bytes has room for its first word alone. (log 142 DESIGN CHOICE) -/
def State.pktToHbm (s : State) (p : RecPkt) : State :=
  (((s.pktHeader p ++ p.body).take (p.bytes / 8)).zipIdx).foldl (fun s x =>
    (s.niAccess p.die 40 (.part (s.rd A.pPid p.slot)) true (s.regionBase p.slot + p.off + 8 * x.2) 8 x.1).st) s

/-- A packet leaves the write buffer for HBM. -/
def State.pktOut (s : State) (p : RecPkt) : State :=
  let s := s.pktToHbm p
  { s with recLog := s.recLog.map fun x => if x = p then { x with buffered := false } else x }

/-- A packet of a copy in the background, which has gone through the write buffer to HBM by the time the copy is complete
(R255). -/
def State.recThrough (s : State) (k die cyc step : Nat) (body : List Nat) : State :=
  let s := s.recAlloc k die 3 cyc step 0 body
  match s.recLog.getLast? with
  | some p => if p.slot = k ∧ p.typ = 3 ∧ p.buffered then s.pktOut p else s
  | none => s

/-- A SNAP_DATA packet of the boundary of emulated cycle `n`. -/
def State.snapData (s : State) (k die n desc : Nat) (body : List Nat) : State :=
  s.recPacket k die 3 n (s.rd A.pDepth k + 8) 0 (desc :: body)

/-- The edge sequencer. -/
def State.snapEseq (s : State) (k n : Nat) : State :=
  (chunks 512 (List.range (s.rd A.esLen k))).foldl (fun s l =>
    s.snapData k (s.homeDie k) n (snapDesc 2 0 0 0 0 (l.headD 0) l.length) (l.map fun i => s.rd A.esTab (4096 * k + i))) s

/-- Port-store lines present in the banks of c, c+1 and c+2: bed, bank and line (R254). -/
def State.snapLines (s : State) (k c : Nat) : List (Nat × Nat × Nat) :=
  (s.listed A.portP).flatMap fun (i, f) =>
    if s.slotOfBed (i / 4) = some k ∧ (i % 4 = c % 4 ∨ i % 4 = (c + 1) % 4 ∨ i % 4 = (c + 2) % 4) then
      ((List.range 16).filter f.testBit).map fun l => (i / 4, i % 4, l)
    else []

/-- The lines of a die; each is read, with the checks of R51. -/
def State.snapPorts (s : State) (k n die : Nat) : State :=
  ((s.snapLines k (n + 1)).filter fun x => x.1 / 4096 = die).foldl (fun s (b, bank, l) =>
    (s.notePort k (s.posStep k) b bank l).snapData k die n
      (snapDesc 3 (b / 256) (b / 16 % 16) (b % 16) 0 (16 * bank + l) 1) [s.rd A.port (portKey b bank l)]) s

/-- A landing word (R258): bed, landing step, data and lanes. -/
def landWord (bed step par data mask : Nat) : Nat :=
  data + 2 ^ 16 * mask + 2 ^ 32 * step + 2 ^ 41 * (bed % 16) + 2 ^ 45 * (bed / 16 % 16) + 2 ^ 49 * (bed / 256 % 16) +
  2 ^ 53 * par

/-- Landing words of a wall in bank `par`. -/
def State.landWords (s : State) (wall par : Nat) : List Nat :=
  (s.listed A.landP).filterMap fun (i, f) =>
    let bed := i / 512 / 2
    if bed / 256 = wall ∧ i / 512 % 2 = par then some (landWord bed (i % 512) par (s.rd A.land i) f) else none

/-- The checks of R51 for the landing entries of wall `w` that the snapshot reads. -/
def State.snapLandChecks (s : State) (k w par : Nat) : State :=
  (s.listed A.landErr).foldl (fun s (i, _) =>
    let bed := i / 512 / 2
    if bed / 256 = w ∧ i / 512 % 2 = par then s.noteLand k (s.posStep k) bed par (i % 512) (s.rd A.landP i) else s) s

/-- The landing entries of a die. -/
def State.snapLands (s : State) (k n die : Nat) : State :=
  ((s.wallsOf k).filter (· / 16 = die)).foldl (fun s w =>
    (chunks 512 (s.landWords w ((n + 1) % 2))).foldl (fun s l =>
      s.snapData k die n (snapDesc 4 w 0 0 0 0 l.length) l) (s.snapLandChecks k w ((n + 1) % 2))) s

/-- The 20 words of a trigger unit. -/
def State.trigWords (s : State) (u pid : Nat) : List Nat :=
  s.trigRegs u ++ [s.armCyc u,
    s.rf (TU u) TRIG_CTRL_STATE + 2 ^ 3 * s.rf (TU u) TRIG_CTRL_SEQ + 2 ^ 6 * s.rd A.tgCount u + 2 ^ 22 * s.rd A.tgExt u +
      2 ^ 23 * s.rd A.tgValid u + 2 ^ 32 * s.rd A.tgFill u,
    s.rd A.tgPrev (2 * u), s.rd A.tgPrev (2 * u + 1), s.rd A.tgNext u, s.wordMask (u / 4) pid]

def State.snapTrigs (s : State) (k n die : Nat) : State :=
  ((s.unitsOf k).filter (· / 4 = die)).foldl (fun s u =>
    s.snapData k (u / 4) n (snapDesc 5 0 0 0 0 u 20) (s.trigWords u (s.rd A.pPid k))) s

/-- Mask of the walls of slot `k`. -/
def State.wallMask (s : State) (k : Nat) : Nat := (s.wallsOf k).foldl (fun m w => m + 2 ^ w) 0

/-- Requests of slot `k` whose tags are outstanding: port unit and tag (R256). -/
def State.owedTags (s : State) (k : Nat) : List (Nat × Nat) :=
  (s.listed A.tagOut).filterMap fun (i, v) =>
    if v = 1 ∧ s.slotOfCourse (i / 128) = some k then some (i / 128, i % 128) else none

/-- Begin a snapshot of c = n + 1 (R253, R254). State rows and bay words are copied by SNAP_END; a row or word that
changes before is saved by copy-on-write. Where no room was to be made for its SNAP_BEGIN, no snapshot begins (R263). -/
def State.snapBegin (s : State) (k n reason : Nat) : State :=
  let die := s.homeDie k
  let m := s.wallMask k
  let s := s.recPacket k die 2 n (s.rd A.pDepth k + 8) 0
    [s.timeNs, s.rd A.pDepth k + 2 ^ 10 * reason + 2 ^ 12 * s.chainAddr, m % 2 ^ 64, m / 2 ^ 64,
      s.rd A.esLen k + 2 ^ 13 * s.rd A.esIdx k]
  if s.on A.recMute k then s
  else
    let off := ((s.kept k).reverse.find? fun p => p.typ = 2 ∧ p.cyc = n).map (·.off)
    let s := { s with snaps := s.snaps ++ [(⟨k, n + 1, false, [], s.owedTags k, off.getD 0, false⟩ : SnapRun)] }
    let s := (s.snapFlags k).snapEseq k n
    s.each 8 fun s d => ((s.snapPorts k n d).snapLands k n d).snapTrigs k n d

/-- Words 2 and 3 of the packet of a saved row or word, with COW = 1 (R258). -/
def cowBody (r : CowRow) : List Nat :=
  let i := r.key / 512
  [if r.key % 512 = A.state.code then
      snapDesc 0 (i / 256 / 256) (i / 256 / 16 % 16) 0 1 (256 * (i / 256 % 16) + i % 256) 1
    else snapDesc 1 (i / 131072) 0 0 1 (i % 131072) 1, r.val]

/-- A saved row or word has left the copy-on-write buffer. -/
def State.cowGone (s : State) (k c : Nat) (r : CowRow) : State :=
  { s with snaps := s.snaps.map fun x =>
      if x.slot = k ∧ x.cyc = c then { x with saved := x.saved.map fun y => if y = r then { y with drained := true } else y }
      else x }

/-- The rows and words that stand in the copy-on-write buffer of a snapshot. -/
def SnapRun.cowLeft (x : SnapRun) : List CowRow := x.saved.filter fun r => ¬ r.drained

/-- Write `n` rows out of the copy-on-write buffer into the write buffer, those for which it has room (R255, R261). -/
def State.cowDrain (s : State) (x : SnapRun) (n : Nat) : State :=
  (x.cowLeft.take n).foldl (fun s r =>
    if 256 * 1024 < s.bufBytes r.die + 32 then s
    else (s.cowGone x.slot x.cyc r).recPacket x.slot r.die 3 r.cyc r.step 0 (cowBody r)) s

/-- COW_BUFFER_DRAINED. -/
def execCowBufferDrained (slot : Fin 32) (rows : Nat) (s : State) : Res := s.live fun s =>
  .next (match s.snapOf slot with
    | none => s
    | some x => (s.cowDrain x rows).recSettle slot)

/-- State rows of a course that the copy takes: INDEX numbers not saved by copy-on-write. -/
def rowsLeft (x : SnapRun) (u half : Nat) : List Nat :=
  ((List.range 2048).map (2048 * half + ·)).filter fun i =>
    ¬ x.saved.any fun r => r.key = A.state.key (256 * (16 * u + i / 256) + i % 256)

/-- The checks of R51 and R186 for the rows and words of a wall that the copy reads. -/
def State.snapChecks (s : State) (x : SnapRun) (w : Nat) : State :=
  (s.listed A.err).foldl (fun s (i, e) =>
    if x.saved.any fun r => r.key = i then s
    else if i % 512 = A.state.code ∧ i / 512 / 65536 = w then
      s.noteState x.slot (s.posStep x.slot) (i / 512 / 256) (i / 512 % 256)
    else if i % 512 = A.bay.code ∧ i / 512 / 131072 = w ∧ (s.newtServes w (i / 512)).isNone then
      s.noteBayErr w (i / 512 % 131072) e
    else if i % 512 = A.newtBuf.code ∧ i / 512 / 512 = w / 16 then
      (let a := 512 * s.rf (D (w / 16)) NEWT_STATUS_UNIT + i / 512 % 512
       if s.newtServes w a = some (i / 512) then s.noteBayErr w a e else s)
    else s) s

/-- A run of rows or words that the copy writes. -/
def State.snapRun (s : State) (x : SnapRun) (die desc : Nat) (body : List Nat) : State :=
  s.recThrough x.slot die (x.cyc - 1) (s.rd A.pDepth x.slot + 8) (desc :: body)

/-- The copy of the state rows and bay words of a wall. (log 22 DEDUCED) -/
def State.snapWall (s : State) (x : SnapRun) (w : Nat) : State :=
  let s := s.snapChecks x w
  let s := s.each 16 fun s c => s.each 2 fun s half =>
    (runs 2048 [] (rowsLeft x (16 * w + c) half)).foldl (fun s l =>
      s.snapRun x (w / 16) (snapDesc 0 w c 0 0 (l.headD 0) l.length)
        (pack4 (l.map fun i => s.rd A.state (256 * (16 * (16 * w + c) + i / 256) + i % 256)))) s
  s.each 256 fun s j =>
    let left := ((List.range 512).map (512 * j + ·)).filter fun a =>
      ¬ x.saved.any fun r => r.key = A.bay.key (bayKey w a)
    (runs 512 [] left).foldl (fun s l =>
      s.snapRun x (w / 16) (snapDesc 1 w 0 0 0 (l.headD 0) l.length)
        (l.map fun a => s.bayRd w a)) s

/-- Complete the copy of a snapshot. -/
def State.snapCopy (s : State) (x : SnapRun) : State :=
  let s := x.cowLeft.foldl (fun s r => s.recThrough x.slot r.die r.cyc r.step (cowBody r)) s
  let s := (s.wallsOf x.slot).foldl (fun s w => s.snapWall x w) s
  let done (z : SnapRun) : SnapRun := if z.slot = x.slot ∧ z.cyc = x.cyc then { z with copied := true, saved := [] } else z
  (State.snapFlags { s with snaps := s.snaps.map done } x.slot).recSettle x.slot

/-- Write SNAP_END of a snapshot whose copy is complete and whose deliveries are logged (R256). -/
def State.snapFinish (s : State) (x : SnapRun) : State :=
  let k := x.slot
  let s := { s with snaps := s.snaps.map fun (z : SnapRun) => if z.slot = k ∧ z.cyc = x.cyc then { z with ended := true } else z }
  let (c, t) := s.recPos k
  (s.snapFlags k).recPacket k (s.homeDie k) 4 c t 0 [s.timeNs, x.cyc]

/-- SNAP_END. -/
def execSnapEnd (slot : Fin 32) (s : State) : Res := s.live fun s =>
  let s := match s.snapOf slot with
    | some x => s.snapCopy x
    | none => s
  .next (match s.snaps.find? fun x => x.slot = slot ∧ x.copied ∧ ¬ x.ended ∧ x.owed = [] with
    | some x => s.snapFinish x
    | none => s.snapFlags slot)

/-! ### The sequencer (R260) -/

/-- Put the sequencer in a state; a change is an event. -/
def State.recTo (s : State) (k st : Nat) : State :=
  if s.recState k = st then s else (s.wf (P k) REC_CTRL_STATE st).raise (0x560 + k)

/-- The state after the transitions of a boundary. -/
def recNext (st want : Nat) : Nat :=
  let cmd := slice want 0 2
  if cmd = 1 ∧ st = 0 then 1
  else if cmd = 2 ∧ st ≠ 2 then 2
  else if cmd = 3 ∧ st = 2 then 3
  else if slice want 2 1 = 1 ∧ st = 1 then 2
  else if slice want 3 1 = 1 ∧ st = 2 then 3
  else st

/-- The MARK of emulated cycle `n`. -/
def State.recMark (s : State) (k n : Nat) : State :=
  s.recPacket k (s.homeDie k) 1 n (s.rd A.pDepth k + 8) 0 [s.timeNs]

/-- A snapshot that is due at the boundary of `n`, or its count in SNAP_SKIP (R253). (log 180 DESIGN CHOICE) -/
def State.snapDue (s : State) (k n : Nat) (entered muted : Bool) : State :=
  let req := s.rd A.recSnapReq k
  let periodic := (n + 1) % 2 ^ s.rf (P k) REC_CFG_PERIOD_LOG2 = 0
  let s := s.wr A.recSnapReq k 0
  if ¬ (entered ∨ req ≠ 0 ∨ periodic ∨ muted) then s
  else if (s.snapOf k).isSome then s.cnt (P k) REC_LOSS_SNAP_SKIP 1
  else s.snapBegin k n (if entered then 1 else if req ≠ 0 then req - 1 else 0)

/-- Step D+8 of emulated cycle `n` (R14, R253, R260). (log 20 DESIGN CHOICE, 21 DEDUCED) -/
def State.recBoundary (s : State) (k n : Nat) : State :=
  let st := s.recState k
  let st' := recNext st (s.rd A.recWant k)
  let muted := s.on A.recMute k
  let s := (s.wr A.recWant k 0).wr A.recMute k 0
  if s.replaying k then (if s.dumping k n then s.recMark k n else s)
  else
    let s := s.recTo k st'
    if st' < 2 then s
    else
      let s := s.recMark k n
      let left := if st ≠ 3 then s.rf (P k) REC_POST_POST_CYCLES else s.rd A.recPostLeft k - 1
      let s := if st' = 3 then s.wr A.recPostLeft k left else s
      if st' = 3 ∧ left = 0 then (s.snapAbandon k).recTo k 0
      else s.snapDue k n (decide (st' = 2) && decide (st ≠ 2)) muted

/-- RESULT codes of REC_CTRL. -/
def State.recResult (s : State) (k r : Nat) : State :=
  (s.wf (P k) REC_CTRL_RESULT r).wf (P k) REC_CTRL_REFUSED (bit (r ≠ 0))

/-- A command to the recorder of slot `k`: `r` its refusal or 0. -/
def State.recCmd (s : State) (who : Who) (k r : Nat) (f : State → State) : State :=
  if ¬ s.maySlot who k then s.deny
  else
    let s := s.recResult k r
    (if r = 0 then f s else s).okay

/-- ARM and START need a valid region and REPLAY = 0. -/
def State.recReady (s : State) (k : Nat) : Nat :=
  if s.rf (P k) REC_REGION_VALID = 0 then 1 else if s.replaying k then 4 else 0

/-- A command waits for step D+8; it replaces one that already waits. (log 20 DESIGN CHOICE) -/
def State.recAsk (s : State) (k c : Nat) : State := s.wr A.recWant k (patch (s.rd A.recWant k) 0 2 c)

def execRecArm (who : Who) (slot : Fin 32) (s : State) : Res := s.access who (.recArm who slot) fun s =>
  .next (s.recCmd who slot (s.recReady slot) fun s => s.recAsk slot 1)
def execRecStart (who : Who) (slot : Fin 32) (s : State) : Res := s.access who (.recStart who slot) fun s =>
  .next (s.recCmd who slot (s.recReady slot) fun s => s.recAsk slot 2)
def execRecStop (who : Who) (slot : Fin 32) (s : State) : Res := s.access who (.recStop who slot) fun s => .next (s.recCmd who slot 0 fun s => s.recAsk slot 3)

/-- OFF ends writing at once (R260); image load and partition reset do the same. -/
def State.recOff (s : State) (k : Nat) : State :=
  let s := State.snapAbandon { s with recLog := s.recLog.filter fun p => ¬ (p.slot = k ∧ p.waiting) } k
  let s := ((s.recTo k 0).wr A.recWant k 0).wr A.recSnapReq k 0
  (s.wf (P k) REC_STATUS_FULL 0).recSettle k

def execRecOff (who : Who) (slot : Fin 32) (s : State) : Res := s.access who (.recOff who slot) fun s => .next (s.recCmd who slot 0 fun s => s.recOff slot)

/-- SNAP needs ON or POST; its REASON is 3. -/
def execRecSnap (who : Who) (slot : Fin 32) (s : State) : Res := s.access who (.recSnap who slot) fun s =>
  .next (s.recCmd who slot (if 2 ≤ s.recState slot then 0 else 4) fun s => s.wr A.recSnapReq slot 4)

/-! ### The region (R250, R262, R264) -/

/-- The partition owns every GiB of a region. -/
def State.ownsRegion (s : State) (pid base size : Nat) : Bool :=
  (List.range (512 * size)).all fun i => s.granuleOwner (base * 2 ^ 30 + i * 2 ^ 21) = some pid

/-- A write of REC_REGION. -/
def State.regionWrite (s : State) (who : Who) (k v : Nat) : State :=
  if ¬ s.maySlot who k then s.deny
  else if ¬ s.pfRights who then (s.recResult k 5).okay
  else if s.recState k ≠ 0 ∨ s.rd A.pState k ≠ 1 then (s.recResult k 4).okay
  else
    let ok := slice v 31 1 = 1 ∧ s.ownsRegion (s.rd A.pPid k) (slice v 0 9) (slice v 16 6 + 1)
    let s := s.recResult k (if slice v 31 1 = 1 ∧ ¬ ok then 1 else 0)
    let s := ((s.wf (P k) REC_REGION_BASE (slice v 0 9)).wf (P k) REC_REGION_SIZE (slice v 16 6)).wf (P k) REC_REGION_VALID
      (bit ok)
    (if ok then
      let s := { s with recLog := s.recLog.filter fun p => p.slot ≠ k }
      let s := ((s.setRecHead k 0).setRecTail k 0).wr A.recPktSeq k 0
      s.wr A.reg (P k + oREC_SNAP_HI) (slice (s.reg (P k + oREC_SNAP_HI)) 0 31)
     else s).okay

def execRecRegionWrite (who : Who) (slot : Fin 32) (val : Word) (s : State) : Res := s.access who (.recRegionWrite who slot val) fun s =>
  .next (s.regionWrite who slot val.toNat)

/-- Bytes of the packets before the one at offset `off`. -/
def bytesBefore (off : Nat) : List RecPkt → Nat
  | [] => 0
  | p :: r => if p.off = off then 0 else p.bytes + bytesBefore off r

/-! ### The write buffer (R261) -/

/-- A die for which slot `k` holds does so until its buffer holds less than 128 KiB; BACKLOG goes with the last (R261). -/
def State.backlogSettle (s : State) (k : Nat) : State :=
  let m := s.rd A.recBack k
  let left := (List.range 8).foldl (fun v d => if m.testBit d ∧ 128 * 1024 ≤ s.bufBytes d then v + 2 ^ d else v) 0
  let s := s.wr A.recBack k left
  if m ≠ 0 ∧ left = 0 then (s.wf (P k) REC_STATUS_BACKLOG 0).recSettle k else s

/-- RECORDER_BUFFER_DRAINED: the die's oldest packets reach HBM. -/
def State.bufDrain (s : State) (die n : Nat) : State :=
  let out := (s.recLog.filter fun p => p.die = die ∧ p.buffered).take n
  let s := out.foldl State.pktOut s
  s.each 32 fun s k => s.backlogSettle k

def execRecorderBufferDrained (die : Fin 8) (packets : Nat) (s : State) : Res := s.live fun s => .next (s.bufDrain die packets)

/-! ### Restore (R265, R266) -/

/-- An 8-byte word of HBM as partition `pid`'s recorder reads it, with what an L2 holds of its line modified. What it finds in
a line of open contents, and what it does with a word that it is not let read, is not stated: a free value. (log 23 DEDUCED, 188 DESIGN CHOICE) -/
def State.hbmWord (s : State) (pid a : Nat) : Nat :=
  if ¬ s.reachesHbm (.part pid) a ∨ s.lineOpen a then Config.lostWord a s.freeCtr % 2 ^ 64
  else match s.l2.find? fun e => e.line = a / 64 ∧ e.modified with
    | some e => slice e.data (8 * (a % 64)) 64
    | none => s.bytes a 8

/-- The reads that fetch `n` bytes at offset `off` of the region of slot `k`: the HBM controller corrects, counts and records
what it finds (R408). -/
def State.regionRead (s : State) (k die off n : Nat) : State :=
  let a := s.regionBase k + off
  (List.range ((a + n + 63) / 64 - a / 64)).foldl (fun s i =>
    (s.niAccess die 40 (.part (s.rd A.pPid k)) false (64 * (a / 64 + i)) 64 0).st) s

/-- The packet at offset `off` of the region of slot `k` (R257): as a write buffer holds it, else as HBM does. (log 23 DEDUCED) -/
def State.pktAt (s : State) (k off : Nat) : RecPkt :=
  match s.recLog.find? fun p => p.slot = k ∧ p.off = off ∧ p.buffered with
  | some p => p
  | none =>
    let a := s.regionBase k + off
    let pid := s.rd A.pPid k
    let w0 := s.hbmWord pid a
    let w1 := s.hbmWord pid (a + 8)
    let n := slice w0 16 13
    ⟨k, off, slice w0 0 4, slice w0 29 3, slice w0 32 32, slice w1 0 48, slice w1 48 10, slice w1 58 1,
      (List.range (n - 2)).map fun i => s.hbmWord pid (a + 16 + 8 * i), 8 * max 1 n, false, false⟩

/-- A packet that is read from HBM, not from a write buffer. -/
def State.pktRead (s : State) (p : RecPkt) : State := if p.buffered then s else s.regionRead p.slot p.die p.off p.bytes

/-- The packets in the `left` bytes from offset `off` on; at most `fuel` of them. -/
def State.pktsFrom (s : State) (k off left : Nat) : Nat → List RecPkt
  | 0 => []
  | fuel + 1 =>
    if left = 0 then []
    else
      let p := s.pktAt k off
      p :: s.pktsFrom k ((off + p.bytes) % s.regionBytes k) (left - p.bytes) fuel

/-- The packets that the region of slot `k` retains, from REC_TAIL to REC_HEAD. -/
def State.regionPkts (s : State) (k : Nat) : List RecPkt :=
  s.pktsFrom k (s.recTail k) (s.regionUsed k) (s.regionUsed k)

/-- Packets of a region after the one at offset `off`, up to the next SNAP_BEGIN. -/
def State.segmentData (s : State) (src off : Nat) : List RecPkt :=
  (((s.regionPkts src).dropWhile fun p => p.off ≠ off).drop 1).takeWhile fun p => p.typ ≠ 2

/-- The snapshot that begins at offset `off`, when it is complete (R256). -/
def State.completeSnap (s : State) (src off : Nat) : Option RecPkt :=
  match (s.regionPkts src).dropWhile fun p => p.off ≠ off with
  | [] => none
  | b :: rest => if b.typ = 2 ∧ rest.any fun p => p.typ = 4 ∧ p.body.getD 1 0 = off then some b else none

/-- Walls of a mask on a die, ascending, as flat walls. -/
def maskWalls (m die : Nat) : List Nat := ((List.range 16).map (16 * die + ·)).filter m.testBit

/-- Number of bits set in a mask of 32. -/
def ones (m : Nat) : Nat := ((List.range 32).filter m.testBit).length

/-- The trigger packets of a snapshot: unit and words. -/
def State.snapUnits (s : State) (src : Nat) (b : RecPkt) : List (Nat × List Nat) :=
  (s.segmentData src b.off).filterMap fun p =>
    if p.typ = 3 ∧ slice (p.body.headD 0) 0 4 = 5 then some (slice (p.body.headD 0) 18 18, p.body.drop 1) else none

/-- The partition does not fit the snapshot (R265). -/
def State.geometryBad (s : State) (k src : Nat) (b : RecPkt) : Bool :=
  let m := b.body.getD 2 0 + 2 ^ 64 * b.body.getD 3 0
  let own := s.wallMask k
  let us := s.snapUnits src b
  slice (b.body.getD 1 0) 0 10 ≠ s.rd A.pDepth k ∨
  (List.range 8).any fun d =>
    (maskWalls m d).length ≠ (maskWalls own d).length ∨
    ((s.unitsOf k).filter (· / 4 = d)).length < (us.filter (·.1 / 4 = d)).length ∨
    (us.any fun x => x.1 / 4 = d ∧ ones (s.wordMask d (s.rd A.pPid k)) < ones (x.2.getD 19 0))

/-- The j-th bit set in `src` stands for the j-th bit set in `dst`. -/
def mapBit (src dst w : Nat) : Nat :=
  if src.testBit w then
    let j := ((List.range w).filter src.testBit).length
    ((List.range 32).filter dst.testBit).getD j w
  else w

/-- A mask of probe words, translated bit by bit. -/
def mapMask (src dst m : Nat) : Nat :=
  (List.range 32).foldl (fun v w => if m.testBit w then v ||| 2 ^ mapBit src dst w else v) 0

/-- Own wall, own unit that a source wall, a source unit stands for. -/
def State.wallFor (s : State) (k w : Nat) : Option Nat :=
  if s.rd A.mapWall (128 * k + w) = 0 then none else some (s.rd A.mapWall (128 * k + w) - 1)
def State.unitFor (s : State) (k u : Nat) : Option Nat :=
  if s.rd A.mapUnit (32 * k + u) = 0 then none else some (s.rd A.mapUnit (32 * k + u) - 1)

/-- Set up the mapping of a restore. -/
def State.setMaps (s : State) (k src : Nat) (b : RecPkt) : State :=
  let m := b.body.getD 2 0 + 2 ^ 64 * b.body.getD 3 0
  let us := s.snapUnits src b
  let s := ((s.drop A.mapWall fun i => i / 128 = k).drop A.mapUnit fun i => i / 32 = k).drop A.mapWords fun i => i / 8 = k
  s.each 8 fun s d =>
    let s := ((maskWalls m d).zip (maskWalls (s.wallMask k) d)).foldl (fun s x => s.wr A.mapWall (128 * k + x.1) (x.2 + 1)) s
    let mine := (s.unitsOf k).filter (· / 4 = d)
    let theirs := us.filter (·.1 / 4 = d)
    let s := (theirs.zip mine).foldl (fun s x => s.wr A.mapUnit (32 * k + x.1.1) (x.2 + 1)) s
    match theirs with
    | [] => s
    | x :: _ => s.wr A.mapWords (8 * k + d) (x.2.getD 19 0)

/-- Load a logged configuration into unit `u`: its owner stays, probe words are translated. -/
def State.loadTrig (s : State) (k u srcMask : Nat) (regs : List Nat) (arm : Nat) : State :=
  let b := TU u
  let own := slice (s.reg b) 0 9
  let dst := s.wordMask (u / 4) (s.rd A.pPid k)
  let s := regs.zipIdx.foldl (fun s x => s.setPair (b + 8 * x.2) x.1) s
  let s := s.wr A.reg b (patch (s.reg b) 0 9 own)
  let s := s.each 2 fun s c =>
    s.wf (cmpBase u c) TRIG_CMP_CFG_WORD (mapBit srcMask dst (s.rf (cmpBase u c) TRIG_CMP_CFG_WORD))
  let s := s.wf b TRIG_CAP_MASK_VALUE (mapMask srcMask dst (s.rf b TRIG_CAP_MASK_VALUE))
  s.setPair (b + oTRIG_ARM_CYC_LO) arm

/-- Restore unit `u` from the 20 words of a snapshot. (log 53 DEDUCED) -/
def State.restoreTrig (s : State) (k u : Nat) (ws : List Nat) : State :=
  let st := ws.getD 15 0
  let s := s.loadTrig k u (ws.getD 19 0) (ws.take 14) (ws.getD 14 0)
  let s := (s.trigTo u (slice st 0 3)).wf (TU u) TRIG_CTRL_SEQ (slice st 3 3)
  let s := (((s.wr A.tgCount u (slice st 6 16)).wr A.tgExt u (slice st 22 1)).wr A.tgValid u (slice st 23 1)).wr A.tgFill u
    (slice st 32 32)
  ((s.wr A.tgPrev (2 * u) (ws.getD 16 0)).wr A.tgPrev (2 * u + 1) (ws.getD 17 0)).capNext u (slice (ws.getD 18 0) 0 32)

/-- Apply one SNAP_DATA packet at a restore to emulated cycle `c`. (log 174 DESIGN CHOICE) -/
def State.restorePkt (s : State) (k c : Nat) (p : RecPkt) : State :=
  let d := p.body.headD 0
  let ws := p.body.drop 1
  let ix := slice d 18 18
  let n := slice d 36 12
  let wall := s.wallFor k (16 * p.die + slice d 4 4)
  match slice d 0 4, wall with
  | 0, some w =>
    s.each n fun s i =>
      let u := 16 * w + slice d 8 4
      let e := 256 * (16 * u + (ix + i) / 256) + (ix + i) % 256
      let v := slice (ws.getD (i / 4) 0) (16 * (i % 4)) 16
      (s.wrE A.state e v).wrE A.shadow e v
  | 1, some w => s.each n fun s i => s.bayWr w (ix + i) (ws.getD i 0)
  | 2, _ => s.each n fun s i => s.wrE A.esTab (4096 * k + ix + i) (ws.getD i 0)
  | 3, some w =>
    let bed := 16 * (16 * w + slice d 8 4) + slice d 12 4
    if ix / 16 = c % 4 then s.putLine bed (ix / 16) (ix % 16) (ws.headD 0) 0
    else { s with startLines := s.startLines ++ [(k, A.port.key (portKey bed (ix / 16) (ix % 16)), ws.headD 0, 1)] }
  | 4, some w =>
    { s with startLines := s.startLines ++ ws.map fun x =>
        let bed := 256 * w + 16 * slice x 45 4 + slice x 41 4
        (k, A.land.key (landKey bed (slice x 53 1) (slice x 32 9)), slice x 0 16, slice x 16 16) }
  | 5, _ =>
    match s.unitFor k ix with
    | some u => s.restoreTrig k u ws
    | none => s
  | _, _ => s

/-- Clear every presence flag of a slot (R47). -/
def State.clearPresence (s : State) (k : Nat) : State :=
  let bank (i : Nat) : Bool := s.slotOfBed (i / 4) = some k
  ((s.drop A.landP fun i => s.slotOfBed (i / 1024) = some k).drop A.portP bank).drop A.portPErr bank

/-- Clear slots, tags and generations of a slot's port units (R67). A memory-model request in flight holds its tag no
longer: its delivery frees none (R80). -/
def State.clearPorts (s : State) (k : Nat) : State :=
  let s := { s with mme := s.mme.map fun (r : MmeReq) =>
    if s.slotOfCourse r.course = some k then { r with tagged := false } else r }
  ((s.drop A.slotR fun i => s.slotOfCourse (i / 32) = some k).drop A.tagOut fun i =>
    s.slotOfCourse (i / 128) = some k).drop A.gen fun i => s.slotOfCourse (i / 128) = some k

/-- Advance the portal epochs of a slot's walls; their records go (R221). -/
def State.bumpEpochs (s : State) (k : Nat) : State :=
  let s := (s.wallsOf k).foldl (fun s w => s.wr A.epoch w (s.rd A.epoch w + 1)) s
  State.dropCause { s with portalRec := s.portalRec.filter fun r => s.slotOfCourse r.course ≠ some k
                           portalMsg := s.portalMsg.filter fun r => r.slot ≠ k } k 4

/-- The gate phase that an IDLE member with counter `c` pulls (R149): G((c − 65) mod 3), as a mask. -/
def idlePull (c : Nat) : Nat := 2 ^ ((c + 1) % 3)

/-- Restore slot `k` from the snapshot that begins with `b` in the region of `src`. (log 173 DESIGN CHOICE) -/
def State.doRestore (s : State) (k src : Nat) (b : RecPkt) : State :=
  let c := b.cyc + 1
  let data := (s.segmentData src b.off).filter (·.typ = 3)
  let s := data.foldl State.pktRead (s.pktRead b)
  let s := s.setMaps k src b
  let s := ((((s.lnCancel k).clearPresence k).clearPorts k).bumpEpochs k).trigReset k
  let s := { s with startLines := s.startLines.filter fun x => x.1 ≠ k }
  let s := (s.wr A.esLen k (slice (b.body.getD 4 0) 0 13)).wr A.esIdx k (slice (b.body.getD 4 0) 13 12)
  let s := s.wr A.pCycle k c
  let s := data.foldl (fun s p => s.restorePkt k c p) s
  let s := (s.wr A.gatePull k (idlePull c)).pullsChanged k
  let s := (s.wf (P k) REC_STATUS_REPLAY_END 0).wf (P k) REC_STATUS_REPLAYING (bit (s.replaying k))
  let s := s.wr A.feedLost k 0
  (s.wr A.feedSeq k (if s.replaying k then 1 + (b.seq + 1) % 2 ^ 32 else 0)).wr A.feedAt k
    ((b.off + b.bytes) % s.regionBytes src)

/-- RESULT of RESTORE, and the snapshot. -/
def State.restoreCheck (s : State) (k : Nat) : Nat × Option RecPkt :=
  let off := s.reg (P k + oREC_POS_LO) + 2 ^ 32 * slice (s.reg (P k + oREC_POS_HI)) 0 4
  if s.rd A.pState k ≠ 1 then (4, none)
  else
    match s.completeSnap (s.srcSlot k) off with
    | none => (3, none)
    | some b => if s.geometryBad k (s.srcSlot k) b then (2, none) else (0, some b)

def execRestore (who : Who) (slot : Fin 32) (s : State) : Res := s.access who (.restore who slot) fun s =>
  let r := s.restoreCheck slot
  .next (s.recCmd who slot r.1 fun s => match r.2 with
    | some b => s.doRestore slot (s.srcSlot slot) b
    | none => s)

/-- The lines and landing entries that wait for the start command (R266). -/
def State.writeStartLines (s : State) (k : Nat) : State :=
  let mine := s.startLines.filter fun x => x.1 = k
  let s := { s with startLines := s.startLines.filter fun x => x.1 ≠ k }
  mine.foldl (fun s (_, key, v, m) =>
    let i := key / 512
    if key % 512 = A.port.code then s.putLine (i / 64) (i / 16 % 4) (i % 16) v 0
    else (s.wrLand i m v).wr A.landP i (s.rd A.landP i ||| m)) s

/-! ### The feed (R268, R269) -/

/-- The feed has passed the last packet before the source's REC_HEAD. -/
def State.feedDone (s : State) (k : Nat) : Bool := s.rd A.feedSeq k = 1 + s.rd A.recPktSeq (s.srcSlot k)

/-- The feed's read position is retained: REC_TAIL of the source has not passed it. -/
def State.feedKept (s : State) (k : Nat) : Bool :=
  let src := s.srcSlot k
  ¬ s.on A.feedLost k ∧ (s.rd A.feedAt k + s.regionBytes src - s.recTail src) % s.regionBytes src < s.regionUsed src

/-- The packet that the feed reads next. -/
def State.feedNext (s : State) (k : Nat) : Option RecPkt :=
  if s.feeding k ∧ ¬ s.feedDone k ∧ s.feedKept k then some (s.pktAt (s.srcSlot k) (s.rd A.feedAt k)) else none

/-- REC_TAIL of the source has passed the feed (R269): the partition stops immediately, with RESULT OVERRUN. -/
def State.feedOverrun (s : State) (k : Nat) : State :=
  if s.feeding k ∧ ¬ s.feedDone k ∧ ¬ s.feedKept k then
    (((s.wf (P k) REC_CTRL_RESULT 6).wf (P k) REC_STATUS_REPLAYING 0).wr A.feedSeq k 0).act k 0 2
  else s

/-- The emulated cycle that the partition has begun; none before its first. -/
def State.begunCycle (s : State) (k : Nat) : Option Nat := if s.preFirst k then none else some (s.posCycle k)

/-- Present position is at or past `cyc`:`step`. -/
def State.reached (s : State) (k cyc step : Nat) : Bool :=
  match s.begunCycle k with
  | none => false
  | some n => cyc < n ∨ (cyc = n ∧ step ≤ s.posStep k)

/-- Emulated cycle that a landing word targets (R39, R258). -/
def landTarget (cyc par : Nat) : Nat := if cyc % 2 = par then cyc else cyc + 1

/-- A packet of `cyc`:`step` acts before the next step D+1 of slot `k`, which is the first at or after its position (R268). -/
def State.trigDue (s : State) (k cyc step : Nat) : Bool :=
  let d := s.rd A.pDepth k
  let next := if s.preFirst k then s.rd A.pCycle k else if s.posStep k ≤ d + 1 then s.posCycle k else s.posCycle k + 1
  (if step ≤ d + 1 then cyc else cyc + 1) ≤ next

/-- The packet can be fed now. An ESEQ packet of step 0 is a reload that was applied at once (R468): it is in force from
step 0 of its emulated cycle (R270). (log 181 DEDUCED) -/
def State.feedable (s : State) (k : Nat) (p : RecPkt) : Bool :=
  let begun (d target : Nat) : Bool := (s.begunCycle k).any fun n => decide (target ≤ n + d)
  match p.typ with
  | 0x8 => s.rf (P k) REC_REPLAY_LIVE_LINKS = 1 ∨
      (p.body.drop 1).all fun w => begun 1 (landTarget p.cyc (slice w 53 1))
  | 0x9 => begun 3 (p.body.getD 1 0)
  | 0xA => begun 3 (p.cyc + 1)
  | 0xB => s.reached k p.cyc (if p.step = 0 then 0 else s.rd A.pDepth k + 6)
  | 0xC => s.reached k p.cyc p.step
  | 0xD => s.reached k p.cyc p.step
  | 0x5 => s.trigDue k p.cyc p.step
  | _ => true

/-- Feed one packet. (log 174 DESIGN CHOICE) -/
def State.feedPkt (s : State) (k : Nat) (p : RecPkt) : State :=
  let w2 := p.body.headD 0
  let ws := p.body.drop 1
  let srcWall := 16 * p.die + slice w2 4 4
  match p.typ with
  | 0x1 => s.wr A.feedMark k p.cyc
  | 0x8 =>
    if s.rf (P k) REC_REPLAY_LIVE_LINKS = 1 then s
    else ws.foldl (fun s x =>
      match s.wallFor k (16 * p.die + slice x 49 4) with
      | none => s
      | some w =>
        let bed := 256 * w + 16 * slice x 45 4 + slice x 41 4
        s.each 16 fun s l => if x.testBit (16 + l) then s.landBit bed (slice x 53 1) l (slice x 32 9) (x.testBit l) else s) s
  | 0x9 =>
    match s.wallFor k srcWall with
    | none => s
    | some w =>
      let u := 16 * w + slice w2 8 4
      let n := slice w2 20 4
      let target := ws.headD 0
      let s := s.each n fun s i =>
        s.putLine (16 * u + slice w2 12 4) (target % 4) (slice w2 16 4 + i) (ws.getD (1 + i) 0) (2 ^ 9 * slice w2 24 2)
      let s := s.tagFree u (slice w2 26 7)
      if slice w2 33 1 = 1 then s.unitFault w 0x40 (Loc.ofCourse u) .e (ws.getD (1 + n) 0) else s
  | 0xA =>
    match s.wallFor k srcWall with
    | none => s
    | some w => s.putLine (16 * (16 * w + slice w2 8 4) + slice w2 12 4) ((p.cyc + 1) % 4) (slice w2 16 4) (ws.headD 0) 0
  | 0xB =>
    let len := slice w2 0 13
    let s := s.each len fun s i => s.wrE A.esTab (4096 * k + i) (ws.getD i 0)
    ((s.wr A.esLen k len).wr A.esIdx k (slice w2 13 12)).wr A.esReloaded k (bit (p.step ≠ 0))
  | 0xC =>
    match s.wallFor k srcWall with
    | none => s
    | some w =>
      let s := s.bayStep w
      let a := slice w2 8 17
      let part := slice w2 29 2
      ((((List.range 4).filter fun i => w2.testBit (25 + i)).zip ws)).foldl (fun s x =>
        let v := match part with
          | 0 => x.2
          | 1 => patch (s.bayRd w (a + x.1)) 0 32 x.2
          | _ => patch (s.bayRd w (a + x.1)) 32 32 (x.2 / 2 ^ 32)
        s.bayWr w (a + x.1) v) s
  | 0xD =>
    let loc := slice w2 0 32
    match s.wallFor k (16 * p.die + slice loc 8 4) with
    | none => s
    | some w =>
      let a := bedAccOf (w / 16) (patch loc 8 4 (w % 16)) (slice w2 32 32)
      s.bedStore a (ws.getD 1 0 + 2 ^ 64 * ws.getD 2 0) (slice (ws.headD 0) 0 16) (slice (ws.headD 0) 16 1 = 1)
        (slice (ws.headD 0) 17 1 = 1)
  | 0x5 =>
    match s.unitFor k (4 * slice w2 4 3 + slice w2 2 2) with
    | none => s
    | some u =>
      match slice w2 0 2 with
      | 1 => (s.loadTrig k u (ws.getD 15 0) (ws.take 14) (ws.getD 14 0)).doArm u
      | 2 => s.doDisarm u
      | _ => s.wr A.tgForce u 1
  | _ => s

/-- The feed has passed the last packet of its source (R269). -/
def State.feedEnd (s : State) (k : Nat) : State :=
  let s := ((s.wf (P k) REC_STATUS_REPLAY_END 1).wf (P k) REC_STATUS_REPLAYING 0).wr A.feedSeq k 0
  let s := if s.stoppable k then s.addStop ⟨k, max (s.rd A.feedMark k) (s.stopCycle k), 0, true⟩ else s
  s.raise (0x540 + k)

/-- Feed the next packet if it can be fed. -/
def State.feedOne (s : State) (k : Nat) : State :=
  if ¬ s.feeding k then s
  else
    match s.feedNext k with
    | some p =>
      if s.feedable k p then
        let s := (((s.pktRead p).feedPkt k p).wr A.feedSeq k (1 + s.rd A.feedSeq k % 2 ^ 32)).wr A.feedAt k
          ((p.off + p.bytes) % s.regionBytes p.slot)
        if s.feedDone k then s.feedEnd k else s
      else s
    | none => if s.feedDone k then s.feedEnd k else s.feedOverrun k

/-- FEED_PACKET. -/
def execFeedPacket (slot : Fin 32) (s : State) : Res := s.live fun s => .next (s.feedOne slot)

/-- Feed every packet whose position is at or before `n`:`t`. -/
def State.feedUpTo (s : State) (k n t : Nat) : Nat → State
  | 0 => s
  | fuel + 1 =>
    match s.feedNext k with
    | none => s.feedOverrun k
    | some p =>
      if (p.cyc < n ∨ (p.cyc = n ∧ p.step ≤ t)) ∧ s.feedable k p then
        (s.feedOne k).feedUpTo k n t fuel
      else s

/-- A write of REC_TAIL (R262): only to a packet offset between REC_TAIL and REC_HEAD, in continuous mode. -/
def State.tailWrite (s : State) (who : Who) (k hi : Nat) : State :=
  if ¬ s.maySlot who k then s.deny
  else
    let (lo, s) := s.takeLo (P k + oREC_TAIL_LO) (s.reg (P k + oREC_TAIL_LO))
    let off := lo + 2 ^ 32 * slice hi 0 4
    let known := (s.kept k).any (·.off = off) ∨ off = s.recHead k
    if s.rf (P k) REC_CFG_MODE = 1 ∨ ¬ known then s.okay
    else
      let n := if off = s.recTail k then 0 else bytesBefore off (s.kept k)
      let s := ((s.freeRegion k n).recPump k (s.recLog.length + 1)).recSettle k
      (s.each 32 State.feedOverrun).okay

def execRecTailWrite (who : Who) (slot : Fin 32) (hi : Word) (s : State) : Res := s.access who (.recTailWrite who slot hi) fun s => .next (s.tailWrite who slot hi.toNat)

/-! ### History dumps (R272, R273) -/

/-- Rows of a wall at step `t`, four per word. -/
def State.dumpRows (s : State) (w t : Nat) : List Nat :=
  pack4 ((List.range 256).map fun b => s.histRow (256 * w + b) t lagSoft 1024)

/-- DUMP_ROW_COPY: after the last write of the row and before its rewrite. -/
def State.dumpCopy (s : State) (k w t : Nat) : State :=
  let n := if t < s.rd A.pStep k then s.posCycle k else s.posCycle k - 1
  let done := ¬ (t < s.rd A.pStep k ∧ s.rd A.pStep k < t + 4)
  if s.slotOfWall w = some k ∧ s.on A.dumpDue (512 * w + t) ∧ done then
    let s := s.recPacket k (w / 16) 0xE n t 0 ((2 ^ 4 * (w % 16)) :: s.dumpRows w t)
    (s.wr A.dumpDue (512 * w + t) 0).recSettle k
  else s

def execDumpRowCopy (slot : Fin 32) (w : WallLoc) (step : Fin 512) (s : State) : Res := s.live fun s =>
  .next (s.dumpCopy slot (wallIx w) step)

/-- The rows that step `t` of emulated cycle `n` writes await their DUMP packets. -/
def State.dumpMark (s : State) (k n t : Nat) : State :=
  if s.dumping k n ∧ t < s.rd A.pDepth k then (s.wallsOf k).foldl (fun s w => s.wr A.dumpDue (512 * w + t) 1) s else s

end Sys2Proof.Machine
end

