-- ==== Sys2Proof/Machine/Mortar.lean ====
section
/-! DEFINITION. The mortar: lanes, switches, modules, link frames and landings (chapter 05, R107 to R135). -/

namespace Sys2Proof.Machine

open Reg

/-! ### Bits in flight -/

/-- The stage entries of step `due` of slot `k` are performed now (R116): of the step in progress, or, during a hold, of
any step that a bit already sent has reached. -/
def State.stageRuns (s : State) (k due : Nat) : Bool :=
  (s.rd A.pState k = 2 ∧ s.rd A.pBegun k = 1 ∧ due = s.rd A.pStep k ∨ s.rd A.pState k = 3) ∧ due < s.rd A.pDepth k

/-- The bit of slot `k` at a node for step `due` that output `out` has not taken. -/
def State.bitAt (s : State) (k : Nat) (n : Node) (due out : Nat) : Option FlightBit :=
  s.flight.find? fun b => b.slot = k ∧ b.node = n ∧ b.due = due ∧ ¬ b.taken.contains out

/-- Output `out` takes a bit, which goes on to node `n` for step `due`. -/
def State.passBit (s : State) (b : FlightBit) (out : Nat) (n : Node) (due : Nat) : State :=
  let fl := s.flight.map fun x => if x = b then { b with taken := b.taken ++ [out] } else x
  { s with flight := fl ++ [⟨b.slot, b.par, n, due, b.val, []⟩] }

/-- Put a sent bit on the segment of outbound lane `lane` of a bed (R113, R114). -/
def State.sendBit (s : State) (k bed lane t : Nat) (v : Bool) : State :=
  let b : FlightBit := ⟨k, s.rd A.pCycle k % 2, .courseIn (bed / 16) (16 * (bed % 16) + lane),
    t + 2 + s.rd (A.mReg 0) (16 * bed + lane), v, []⟩
  { s with flight := s.flight ++ [b] }

/-- An outbound lane performs its entry of the present step; `relay` is SRC. -/
def State.lanePerform (s : State) (bed lane : Nat) (relay : Bool) (f : Nat → Nat → Nat → State → State) : State :=
  let l := 16 * bed + lane
  s.unit 3 l (bed / 256) fun k t =>
    let e := s.rd (A.mTab 0) (512 * l + t)
    if s.mortarBad 0 l t then s.voted k t ((s.mark 3 l).mortarPerform k 0 l t fun _ => s)
    else if mEn 0 e ∧ e.testBit 14 = relay then s.voted k t (f k t e (s.mark 3 l))
    else s

/-- An entry with SRC = 0 sends a history bit (R108). -/
def State.runSend (s : State) (k bed lane t e : Nat) : State :=
  let step := slice e 0 9
  let c := slice e 9 4
  let v := (s.partRow (s.rd A.pDepth k) bed step lagLane t).testBit c
  let s := s.noteHist k t bed step lagLane
  (s.hzHistRead k bed step lagLane t 5 (2 ^ c) false (Loc.ofBed bed)).sendBit k bed lane t v

def execLaneSend (b : BedLoc) (lane : Fin 16) (s : State) : Res := s.live fun s =>
  .next (s.lanePerform (bedIx b) lane false fun k t e s => s.runSend k (bedIx b) lane t e)

/-- An entry with SRC = 1 relays a landing-store bit (R109). -/
def State.runRelay (s : State) (k bed lane t e : Nat) : State :=
  let step := slice e 0 9
  let j := slice e 9 4
  let bank := s.rd A.pCycle k % 2
  let v := (s.rd A.land (landKey bed bank step)).testBit j
  let s := s.noteLand k t bed bank step (2 ^ j)
  (s.hzLandRead k bank step t 3 (2 ^ j) false (Loc.ofBed bed)).sendBit k bed lane t v

def execLaneRelay (b : BedLoc) (lane : Fin 16) (s : State) : Res := s.live fun s =>
  .next (s.lanePerform (bedIx b) lane true fun k t e s => s.runRelay k (bedIx b) lane t e)

/-! ### Switches (R110 to R114) -/

/-- Table kind and lane of a switch output; the outputs of a switch are fewer than `swWidth`. -/
def swKind : SwitchLoc → Nat
  | .course _ => 1
  | .wall _ => 2
  | .die _ => 3
def swWidth : SwitchLoc → Nat
  | .course _ => 320
  | .wall _ => 1280
  | .die _ => 5120
def swIx : SwitchLoc → Nat
  | .course c => courseIx c
  | .wall w => wallIx w
  | .die d => d
/-- Input `i` of switch `x` of kind `kind`. -/
def swIn (kind x i : Nat) : Node :=
  match kind with
  | 1 => .courseIn x i
  | 2 => .wallIn x i
  | _ => .dieIn x i

/-- Where the bit that output `out` of switch `x` carries goes, given the step `u` at which it arrives there. -/
def swOut (kind x out u : Nat) : Node :=
  match kind with
  | 1 =>
    if out < 256 then .bedIn (16 * x + out / 16) (out % 16) (u + 1) else .wallIn (x / 16) (64 * (x % 16) + (out - 256))
  | 2 =>
    if out < 1024 then .courseIn (16 * x + out / 64) (256 + out % 64) else .dieIn (x / 16) (256 * (x % 16) + (out - 1024))
  | _ => if out < 4096 then .wallIn (16 * x + out / 256) (1024 + out % 256) else .source x (out - 4096)

/-- Steps that a switch takes. -/
def swDelay (kind : Nat) : Nat := if kind = 3 then 2 else 1

/-- Outputs of a switch. -/
def swOuts (kind : Nat) : Nat := if kind = 1 then 320 else if kind = 2 then 1280 else 5120

/-- Output lane `lane` of a switch performs its entry of step `step`. -/
def State.switchLane (s : State) (kind lane step : Nat) : State :=
  let x := lane / swOuts kind
  let out := lane % swOuts kind
  match s.laneSlot kind lane with
  | none => s
  | some k =>
    if ¬ s.stageRuns k step then s
    else s.mortarPerform k kind lane step fun e =>
      if ¬ mEn kind e then s
      else match s.bitAt k (swIn kind x (slice e 0 13)) step out with
        | none => s
        | some b =>
          let u := step + swDelay kind + s.rd (A.mReg kind) lane
          s.passBit b out (swOut kind x out u) u

/-- SWITCH_ENTRY. -/
def State.switchStep (s : State) (sw : SwitchLoc) (out step : Nat) : State :=
  if swWidth sw ≤ out then s else s.switchLane (swKind sw) (swWidth sw * swIx sw + out) step

def execSwitchEntry (sw : SwitchLoc) (out : Fin 5120) (step : Fin 512) (s : State) : Res := s.live fun s =>
  .next (s.switchStep sw out step)

/-! ### Modules (R122, R123) -/

/-- Steps of a die-to-die transfer, and of the retiming buffer (R113). -/
def transferSteps : Nat := 9
def retimeSteps : Nat := 11

/-- Output position `lane` of a module performs its entry of step `step`: the bit goes onto the wire into the neighbour's
module. -/
def State.moduleLane (s : State) (lane step : Nat) : State :=
  let die := lane / 2048
  let out := lane % 2048
  match s.laneSlot 4 lane with
  | none => s
  | some k =>
    if ¬ s.stageRuns k step then s
    else s.mortarPerform k 4 lane step fun e =>
      if ¬ mEn 4 e then s
      else match s.bitAt k (.source die (slice e 0 11)) step out with
        | none => s
        | some b =>
          s.passBit b out (.wire (neighborDie die (out / 512)) (backModule (out / 512)) (out % 512)) (step + transferSteps)

/-- MODULE_ENTRY. -/
def State.moduleStep (s : State) (die m pos step : Nat) : State := s.moduleLane (2048 * die + 512 * m + pos) step

def execModuleEntry (die : Fin 8) (module : Fin 4) (pos : Fin 512) (step : Fin 512) (s : State) : Res := s.live fun s =>
  .next (s.moduleStep die module pos step)

/-- Partitions that own a position of the module that sends to (die, m). -/
def State.moduleOwners (s : State) (die m : Nat) : List Nat :=
  let lane := 2048 * neighborDie die m + 512 * backModule m
  (List.range 32).filter fun k => (List.range 512).any fun p => s.laneSlot 4 (lane + p) = some k

/-- The bit at its place on the receiving die (R122). -/
def landWire (b : FlightBit) : FlightBit :=
  match b.node with
  | .wire die m p =>
    if p < 256 then { b with node := .dieIn die (4096 + 256 * m + p) }
    else { b with node := .source die (1024 + 256 * m + (p - 256)), due := b.due + retimeSteps }
  | _ => b

/-- A bit that arrives at (die, m) for step `step`. (log 134 DEDUCED) -/
def State.arrives (s : State) (die m step : Nat) (b : FlightBit) : Bool :=
  match b.node with
  | .wire d x _ => d = die ∧ x = m ∧ b.due = step ∧ s.stageRuns b.slot step
  | _ => false

/-- MODULE_TRANSFER_RECEIVE: the transfer whose bits arrive for step `step`. A transfer with a CRC error delivers nothing
(R123). (log 134 DEDUCED) -/
def State.moduleReceive (s : State) (die m step : Nat) (crcOk : Bool) : State :=
  if crcOk then { s with flight := s.flight.map fun b => if s.arrives die m step b then landWire b else b }
  else
    let s := { s with flight := s.flight.filter fun b => ¬ s.arrives die m step b }
    (s.moduleOwners die m).foldl (fun s k =>
      if s.stoppable k then s.fault k 0x23 (Loc.ofDie die) .i (m + 2 ^ 2 * step) else s) s

def execModuleTransferReceive (die : Fin 8) (module : Fin 4) (step : Fin 512) (crcOk : Bool) (s : State) : Res := s.live fun s =>
  .next (s.moduleReceive die module step crcOk)

/-! ### Links (R124, R127 to R131) -/

/-- Positions of a port whose send (`kind` 5) or receive (6) table partition `pid` owns, ascending. -/
def State.portLanes (s : State) (kind port pid : Nat) : List Nat :=
  ((List.range 256).map (256 * port + ·)).filter fun l => s.laneOwner kind l = some pid

/-- Header of a mortar frame. -/
def frameHdr (pid par step : Nat) : Nat := 2 ^ 20 * 0xA + 2 ^ 12 * pid + 2 ^ 11 * par + 2 ^ 2 * step

/-- Code of a link position among the takers of a source. -/
def linkTaker (lane : Nat) : Nat := 4096 + lane

/-- The bit of slot `k` at a node for step `due`. -/
def State.bitFor (s : State) (k : Nat) (n : Node) (due : Nat) : Option FlightBit :=
  s.flight.find? fun b => b.slot = k ∧ b.node = n ∧ b.due = due

/-- Take the bits that the send entries of step `step` select: the payload, and whether a bit was there that the position
had not taken before. (log 85 DESIGN CHOICE, 171 DESIGN CHOICE) -/
def State.takeLane (k die step : Nat) (acc : List Bool × Bool × State) (lane : Nat) : List Bool × Bool × State :=
  let (l, some_, s) := acc
  let e := s.rd (A.mTab 5) (512 * lane + step)
  if ¬ mEn 5 e ∨ s.mortarBad 5 lane step then (l ++ [false], some_, s)
  else match s.bitFor k (.source die (slice e 0 11)) step with
    | none => (l ++ [false], some_, s)
    | some b =>
      if b.taken.contains (linkTaker lane) then (l ++ [b.val], some_, s)
      else (l ++ [b.val], true,
        { s with flight := s.flight.map fun x => if x = b then { b with taken := b.taken ++ [linkTaker lane] } else x })

/-- Queue a frame on its port: the frames of one SCLK period go in ascending order of partition ID (R304). -/
def frameInsert (f : FrameOut) : List FrameOut → List FrameOut
  | [] => [f]
  | x :: l =>
    if x.port = f.port ∧ x.fresh ∧ slice f.hdr 12 8 < slice x.hdr 12 8 then f :: x :: l else x :: frameInsert f l

/-- LINK_SEND_ENTRY: the frame of a partition's step (R127). During a hold, only bits already sent make one, and bits that
come to the step after such a frame make another one of all of the step's bits (R116). (log 171 DESIGN CHOICE) -/
def State.linkSend (s : State) (port k step : Nat) : State :=
  let lanes := s.portLanes 5 port (s.rd A.pPid k)
  let key := 512 * (32 * port + k) + step
  let bad := lanes.filter fun l => s.mortarBad 5 l step
  let any := lanes.any fun l => mEn 5 (s.rd (A.mTab 5) (512 * l + step)) ∧ ¬ s.mortarBad 5 l step
  if ¬ s.loaded k ∨ ¬ s.stageRuns k step ∨ ¬ s.liveLinks k then s
  else
    let idle : Bool := s.rd A.pState k = 3 ∨ s.on A.linkDone key
    let (pay, took, t) := lanes.foldl (State.takeLane k (port / 2) step) ([], false, s)
    if idle ∧ ¬ took then s
    else
      let t := t.wr A.linkDone key 1
      let t := if any ∧ s.portUp port then
          { t with frameOut := frameInsert ⟨port, frameHdr (s.rd A.pPid k) (s.rd A.pCycle k % 2) step, pay, true⟩ t.frameOut }
        else t
      if s.on A.linkDone key then t else bad.foldl (fun s l => s.mortarPerform k 5 l step fun _ => s) t

def execLinkSendEntry (port : Fin 16) (slot : Fin 32) (step : Fin 512) (s : State) : Res := s.live fun s =>
  .next (s.linkSend port slot step)

/-- Place of a landing entry. -/
def landPlace (bed bank lane step : Nat) : Nat := 16 * landKey bed bank step + lane

/-- A link landing (R129, R131): discarded where an internal landing wrote the entry in this SCLK period. (log 132 DESIGN CHOICE) -/
def State.linkLand (s : State) (bed bank lane step : Nat) (v : Bool) : Bool × State :=
  let p := landPlace bed bank lane step
  if s.marked 10 p then (false, s.cnt (D (bed / 4096)) MORTAR_DISCARD_COUNT_LAND_CONFLICT 1)
  else (true, (s.landBit bed bank lane step v).mark 11 p)

/-- Landing words of the bits of one frame, grouped by bed and landing step (R258). -/
def frameWords (par : Nat) (ls : List (Nat × Nat × Nat × Bool)) : List Nat :=
  ((ls.map fun x => (x.1, x.2.2.1)).eraseDups).map fun (bed, step) =>
    let mine := ls.filter fun x => x.1 = bed ∧ x.2.2.1 = step
    landWord bed step par (mine.foldl (fun v x => patch v x.2.1 1 (bit x.2.2.2)) 0) (mine.foldl (fun m x => m ||| 2 ^ x.2.1) 0)

/-- One payload bit of a frame (R128, R129): landed at once on the port's own die, sent on to another by a transfer of 9
SCLK periods. A landing at step D or later is dropped (R161). `acc` collects what landed: bed, lane, landing step, bit. In
debug mode a bit that a disabled entry drops is reported if it was sent (R134); of a 0 a frame does not tell. (log 133 DEDUCED) -/
def State.frameBit (port k par step : Nat) (acc : List (Nat × Nat × Nat × Bool) × State) (x : Nat × Bool) :
    List (Nat × Nat × Nat × Bool) × State :=
  let (done, s) := acc
  let (lane, v) := x
  let e := s.rd (A.mTab 6) (512 * lane + step)
  if s.mortarBad 6 lane step then (done, s.mortarPerform k 6 lane step fun _ => s)
  else if ¬ mEn 6 e then
    if ¬ s.debug then (done, s)
    else
      let (sent, t) := if v then (1, s) else s.free 1
      (done, if sent = 1 then t.fault k 0x52 (Loc.ofDie (port / 2)) .h (5 + 2 ^ 3 * laneNo 6 lane + 2 ^ 16 * step) else t)
  else
    let bed := recvBed e
    let j := slice e 12 4
    let l := slice e 0 9
    if s.rd A.pDepth k ≤ l then (done, s)
    else if slice e 28 3 = port / 2 then
      let (ok, s) := s.linkLand bed par j l v
      (if ok then done ++ [(bed, j, l, v)] else done, s)
    else (done, { s with flight := s.flight ++ [⟨k, par, .linkIn bed j l port step, transferSteps, v, []⟩] })

/-- MORTAR_FRAME (R128 to R130); a step from D on has no receive entry (R162). -/
def State.frameIn (s : State) (port hdr : Nat) (payload : List Bool) : State :=
  let pid := slice hdr 12 8
  let par := slice hdr 11 1
  let step := slice hdr 2 9
  let lanes := s.portLanes 6 port pid
  if slice hdr 20 4 ≠ 0xA then s
  else match s.slotOfPid pid with
    | none => s.cnt (D (port / 2)) MORTAR_DISCARD_COUNT_FRAME_DROP 1
    | some k =>
      if ¬ s.stoppable k ∨ lanes = [] ∨ lanes.length ≠ payload.length then
        s.cnt (D (port / 2)) MORTAR_DISCARD_COUNT_FRAME_DROP 1
      else if ¬ s.liveLinks k ∨ s.rd A.pDepth k ≤ step then s
      else
        let (done, s) := (lanes.zip payload).foldl (State.frameBit port k par step) ([], s)
        if done = [] then s else s.logInput k (port / 2) 0x8 ((port + 2 ^ 4 * step) :: frameWords par done)

/-! ### Landings (R113, R129, R131) -/

/-- An internal landing of landing step `l`; its write is one step before. One at step D or later is dropped (R161). -/
def State.landInternal (s : State) (bed lane l : Nat) (b : FlightBit) : State :=
  let p := landPlace bed b.par lane l
  let s := { s with flight := s.flight.erase b }
  if s.rd A.pDepth b.slot ≤ l then s
  else
  let s := if s.marked 11 p then s.cnt (D (bed / 4096)) MORTAR_DISCARD_COUNT_LAND_CONFLICT 1 else s
  (s.landBit bed b.par lane l b.val).mark 10 p

/-- The landing on a bed, lane and step that may be written now. -/
def State.landingDue (s : State) (bed lane l : Nat) : Option FlightBit :=
  s.flight.find? fun b => match b.node with
    | .bedIn d j x => d = bed ∧ j = lane ∧ x = l ∧ s.stageRuns b.slot b.due
    | .linkIn d j x _ _ => d = bed ∧ j = lane ∧ x = l ∧ b.due = 0
    | _ => false

/-- A bit lands. -/
def State.landFlight (s : State) (b : FlightBit) : State :=
  match b.node with
  | .linkIn bed lane l port step =>
    let s := { s with flight := s.flight.erase b }
    let (ok, s) := s.linkLand bed b.par lane l b.val
    if ok then s.logInput b.slot (bed / 4096) 0x8 ((port + 2 ^ 4 * step) :: frameWords b.par [(bed, lane, l, b.val)]) else s
  | .bedIn bed lane l => s.landInternal bed lane l b
  | _ => s

/-- LANDING_WRITE. -/
def State.landingWrite (s : State) (bed lane l : Nat) : State :=
  match s.landingDue bed lane l with
  | none => s
  | some b => s.landFlight b

def execLandingWrite (b : BedLoc) (lane : Fin 16) (step : Fin 512) (s : State) : Res := s.live fun s =>
  .next (s.landingWrite (bedIx b) lane step)

/-! ### The end of a step, and of the evaluation steps -/

/-- MORTAR_STRAY for a bit that nothing took (R134). (log 133 DEDUCED) -/
def State.stray (s : State) (b : FlightBit) : State :=
  let f (stage input : Nat) (l : Loc) := s.fault b.slot 0x52 l .h (stage + 2 ^ 3 * input + 2 ^ 16 * b.due)
  match b.node with
  | .courseIn c i => f 1 i (Loc.ofCourse c)
  | .wallIn w i => f 2 i (Loc.ofWall w)
  | .dieIn d i => f 3 i (Loc.ofDie d)
  | .source d i => f 6 i (Loc.ofDie d)
  | _ => s

/-- The bit's place was performed at step `t` of slot `k`. -/
def FlightBit.past (b : FlightBit) (k t : Nat) : Bool :=
  match b.node with
  | .linkIn _ _ _ _ _ => false
  | _ => b.slot = k ∧ b.due ≤ t

/-- Slot `k` has performed step `t`: the bits whose stage lay at or before it go; in debug mode those that no entry took
are reported. -/
def State.flightStep (s : State) (k t : Nat) : State :=
  let gone := s.flight.filter (·.past k t)
  let s := { s with flight := s.flight.filter fun b => ¬ b.past k t }
  if s.debug then (gone.filter (·.taken = [])).foldl (fun s b => s.stray b) s else s

/-- From step D on, the mortar of a partition is empty but for link landings (R115). -/
def State.flightClear (s : State) (k : Nat) : State := { s with flight := s.flight.filter fun b => ¬ b.past k (2 ^ 20) }

/-! ### The mortar access port (R135, R491) -/

/-- Table kind, lane and whether TABLE is LANE_CFG; none for an address outside its range. -/
def mortarPlace (die loc : Nat) : Option (Nat × Nat × Bool) :=
  let t := slice loc 25 4
  let kind := if t = 7 then slice loc 29 3 else t
  let n := slice loc 0 13
  let wall := 16 * die + slice loc 21 4
  let course := 16 * wall + slice loc 17 4
  let place := match kind with
    | 0 => if n < 16 then some (16 * (16 * course + slice loc 13 4) + n) else none
    | 1 => if n < 320 then some (320 * course + n) else none
    | 2 => if n < 1280 then some (1280 * wall + n) else none
    | 3 => if n < 5120 then some (5120 * die + n) else none
    | 4 => if n < 2048 then some (2048 * die + n) else none
    | _ => if n < 512 then some (512 * die + n) else none
  if 7 < t ∨ kind = 7 then none else place.map fun l => (kind, l, decide (t = 7))

/-- The initiator may access a lane. -/
def State.mayLane (s : State) (who : Who) (kind lane : Nat) : Bool :=
  match s.laneOwner kind lane with
  | none => s.pfRights who
  | some pid => s.mayPid who pid

/-- The state of the lane's partition permits the access. -/
def State.laneServes (s : State) (kind lane : Nat) (write : Bool) : Bool :=
  match s.laneSlot kind lane with
  | none => true
  | some k => s.rd A.pState k = 1 ∨ (s.rd A.pState k = 4 ∧ ¬ write)

/-- LANE_CFG of a lane. -/
def State.laneCfg (s : State) (kind lane : Nat) : Nat :=
  let o := s.laneOwner kind lane
  s.rd (A.mReg kind) lane + 2 ^ 8 * (if kind < 3 then o.getD 0 else slice (s.rd (A.mOwn kind) lane) 0 8) +
    2 ^ 16 * bit o.isSome + 2 ^ 17 * s.rd (A.mClass kind) lane

/-- A LANE_CFG value in place. -/
def State.putLaneCfg (s : State) (kind lane v : Nat) : State :=
  let s := if kind < 4 then s.wr (A.mReg kind) lane (slice v 0 1) else s
  if 3 ≤ kind then s.wr (A.mOwn kind) lane (slice v 8 9) else s

/-- RESULT of a write: 0 OK, 1 BUSY, 2 DENIED, 3 RANGE, 6 CONFINE. -/
def State.mortarCheck (s : State) (who : Who) (kind lane : Nat) (cfg : Bool) (v : Nat) : Nat :=
  let owns := cfg ∧ 3 ≤ kind ∧ slice v 8 9 ≠ s.rd (A.mOwn kind) lane
  if ¬ s.mayLane who kind lane ∨ (owns ∧ ¬ s.pfRights who) then accDenied
  else if ¬ s.laneServes kind lane true then accBusy
  else if (if cfg then slice v 1 7 ≠ 0 ∨ slice v 19 13 ≠ 0 else entryBad kind lane v) then accRange
  else if (if cfg then 3 ≤ kind ∧ ¬ (s.putLaneCfg kind lane v).laneConfined kind lane
      else ¬ s.entryConfined kind lane v) then 6
  else accOk

/-- GO of the mortar access port. -/
def State.mortarAccess (s : State) (who : Who) (die : Nat) (write : Bool) : State :=
  let b := D die
  if s.rf b MORTAR_ACC_STATUS_BUSYACC = 1 then s
  else
    let step := s.rf b MORTAR_ACC_INDEX_STEP
    let s := s.wf b MORTAR_ACC_STATUS_BUSYACC 1
    match mortarPlace die (s.reg (b + oMORTAR_ACC_LOC)) with
    | none => s.accBegin die 2 accRange
    | some (kind, lane, cfg) =>
      let i := 512 * lane + step
      if write then
        let v := let d := s.rf b MORTAR_ACC_DATA_DATA; if cfg ∨ kind = 6 then d else d % 2 ^ 16
        let r := s.mortarCheck who kind lane cfg v
        let s := if r ≠ accOk then s else if cfg then s.putLaneCfg kind lane v else s.wrE (A.mTab kind) i v
        s.accBegin die 2 r
      else if ¬ s.mayLane who kind lane then s.accBegin die 2 accDenied
      else if ¬ s.laneServes kind lane false then s.accBegin die 2 accBusy
      else if cfg then (s.wf b MORTAR_ACC_DATA_DATA (s.laneCfg kind lane)).accBegin die 2 accOk
      else
        (s.wf b MORTAR_ACC_DATA_DATA (s.rd (A.mTab kind) i)).accBegin die 2
          (if s.mortarBad kind lane step then accUncorrectable else accOk)

/-- Power domain of a table: link tables lie in LINK, the others in FAB (R422). -/
def mortarDom (kind : Nat) : Nat := if kind = 5 ∨ kind = 6 then domLink else domFab

def execMortarAccRead (who : Who) (die : Fin 8) (s : State) : Res := s.accessDom who die (mortarDom (s.rf (D die) MORTAR_ACC_LOC_TABLE)) (.mortarAccRead who die) fun s => .next (s.mortarAccess who die false).okay
def execMortarAccWrite (who : Who) (die : Fin 8) (s : State) : Res := s.accessDom who die (mortarDom (s.rf (D die) MORTAR_ACC_LOC_TABLE)) (.mortarAccWrite who die) fun s => .next (s.mortarAccess who die true).okay

/-- LANE_CFG_WRITE: a write with TABLE 7. -/
def execLaneCfgWrite (who : Who) (die : Fin 8) (s : State) : Res := s.accessDom who die (mortarDom (s.rf (D die) MORTAR_ACC_LOC_TABLE_CFG)) (.laneCfgWrite who die) fun s =>
  .next (if s.rf (D die) MORTAR_ACC_LOC_TABLE = 7 then (s.mortarAccess who die true).okay else s)

def execMortarAccDone (die : Fin 8) (s : State) : Res := s.live fun s =>
  .next (s.accDone die 2 MORTAR_ACC_STATUS_BUSYACC MORTAR_ACC_STATUS_RESULT)

end Sys2Proof.Machine
end

