-- ==== Sys2Proof/Machine/Flags.lean ====
section
/-! DEFINITION. The word unit's results and flags (R95 to R98): each operation answers the row, C and V; N and Z follow
from the row (R96). -/

namespace Sys2Proof.Machine

/-- Row, C and V of a word operation. -/
structure WRes where
  row : Row
  c   : Bool
  v   : Bool
  deriving DecidableEq, Repr

/-- A result with C = V = 0. -/
def plain (r : Row) : WRes := ⟨r, false, false⟩

/-- N and Z with C and V as a flag-history entry: C, V, N, Z in bits 0 to 3. -/
def WRes.flags (r : WRes) : Nat := bit r.c + 2 * bit r.v + 4 * bit r.row.msb + 8 * bit (r.row = 0)

/-- A + B + cin: carry out of bit 15, and V when the operands agree in sign and the sum does not (R97). -/
def wAdd (a b : Row) (cin : Bool) : WRes :=
  let n := a.toNat + b.toNat + bit cin
  let r : Row := BitVec.ofNat 16 n
  ⟨r, decide (2 ^ 16 ≤ n), a.msb = b.msb ∧ r.msb ≠ a.msb⟩

/-- A + not B + cin: C = 1 means no borrow; V when the operands differ in sign and the result's differs from A's. -/
def wSub (a b : Row) (cin : Bool) : WRes :=
  let n := a.toNat + (~~~b).toNat + bit cin
  let r : Row := BitVec.ofNat 16 n
  ⟨r, decide (2 ^ 16 ≤ n), a.msb ≠ b.msb ∧ r.msb ≠ a.msb⟩

def wNeg (a : Row) : WRes := ⟨-a, a = 0, a = 0x8000⟩

/-- Number of 1 bits. -/
def popcount (a : Row) : Nat := ((List.range 16).filter fun i => a.getLsbD i).length

/-- Number of leading zeros: 16 for 0. -/
def leadingZeros (a : Row) : Nat := ((List.range 16).find? fun i => a.getLsbD (15 - i)).getD 16

def wPopc (a : Row) : WRes := plain (BitVec.ofNat 16 (popcount a))
def wClz (a : Row) : WRes := plain (BitVec.ofNat 16 (leadingZeros a))

/-- Shifts take the whole of B as their amount (R98); ROL takes B mod 16. -/
def wShl (a b : Row) : WRes := plain (a <<< b.toNat)
def wShr (a b : Row) : WRes := plain (a >>> b.toNat)
def wSar (a b : Row) : WRes := plain (a.sshiftRight b.toNat)
def wRol (a b : Row) : WRes := plain (a.rotateLeft (b.toNat % 16))

/-- The three multiplies: bits [15:0], and bits [31:16] of the unsigned and of the signed product. -/
def wMull (a b : Row) : WRes := plain (a * b)
def wMulhu (a b : Row) : WRes := plain (BitVec.ofNat 16 (a.toNat * b.toNat / 2 ^ 16))
def wMulhs (a b : Row) : WRes := plain (BitVec.ofInt 16 (a.toInt * b.toInt / 2 ^ 16))

/-- A comparison writes its answer into bit 0. -/
def wTest (p : Bool) : WRes := plain (if p then 1 else 0)

end Sys2Proof.Machine
end

