-- ==== Sys2Proof/Machine/Words.lean ====
section
/-! DEFINITION. Word instructions (chapter 04). -/

namespace Sys2Proof.Machine

open Reg

/-- What an operation computes from A, B, the carry-in and the condition. -/
abbrev WFun := Row → Row → Bool → Bool → WRes

/-- Write a word row, and its flags with WFE (R96); multiplies write one step later (R50). -/
def State.wordWrite (s : State) (bed t w : Nat) (r : WRes) (flagsToo : Bool) : State :=
  let lag := if 0x20 ≤ wop w ∧ wop w ≤ 0x22 then 2 else 1
  let f := if flagsToo ∧ slice w 41 1 = 1 then some r.flags else none
  let s := (s.putHist bed t 0xFFFF r.row.toNat f lag).hzMark bed t 0xFFFF lag
  if s.debug ∧ f.isSome then s.wr A.hzFlag (512 * bed + t) (1 + 2 * lag) else s

/-- Read the operands that the operation uses, with their checks, and write its result. -/
def State.wordOperate (s : State) (k bed t w : Nat) (f : WFun) : State :=
  let v := (wopFields w).map (s.wopnd k bed t ·)
  let a : Row := BitVec.ofNat 16 (v.getD 0 0)
  let b : Row := BitVec.ofNat 16 (v.getD 1 0)
  let d := s.rd A.pDepth k
  let carries := wop w = 0x09 ∨ wop w = 0x0B
  let cin := slice (s.partFlags d bed (slice w 0 9) lagCell t) 0 1 = 1
  let condStep := 2 * slice w 0 8
  let cond := slice (s.partRow d bed condStep lagCell t) (slice w 8 4) 1 = 1
  let s := (wopFields w).foldl (fun s x => (s.noteWop k bed t x).hzWop k bed t x) s
  let s := if carries then
      (s.noteFlags k t bed (slice w 0 9)).hzFlagRead k bed (slice w 0 9) 0 t 2 (Loc.ofBed bed)
    else s
  let s := if wop w = 0x38 then
      (s.noteHist k t bed condStep lagCell).hzHistRead k bed condStep lagCell t 3 (2 ^ slice w 8 4) false (Loc.ofBed bed)
    else s
  s.wordWrite bed t w (f a b cin cond) true

/-- The check of the word memory at issue (R105). -/
def State.noteWimem (s : State) (bed t : Nat) : State :=
  if s.errOf A.wimem (512 * bed + t) = 1 then s.cnt (D (bed / 4096)) STORE_CE_COUNT_IMEM_CE 1 else s

/-- What the word unit of a bed does with instruction `w`, whose operation is `f`. -/
def State.wordRun (s : State) (k bed t w : Nat) (f : WFun) : State :=
  let op := wop w
  let n := s.rd A.pCycle k
  if s.yields bed t ≠ 0xFFFF then s.yieldMismatch k bed t op
  else if wopUses op = none then
    (s.faultAt k 0x13 (Loc.ofBed bed) .e n t op).wordWrite bed t w (plain 0) false
  else
    match wopBad w with
    | some x => (s.faultAt k 0x14 (Loc.ofBed bed) .e n t (op + 2 ^ 6 * x)).wordWrite bed t w (plain 0) false
    | none => s.wordOperate k bed t w f

/-- The word unit issues at its bed when the opcode there meets `p` (chapter 04, procedure word_issue). (log 2 DESIGN CHOICE) -/
def State.wordIssue (s : State) (b : BedLoc) (p : Nat → Bool) (f : WFun) : State :=
  let bed := bedIx b
  s.unit 1 bed (wallIx b.toWallLoc) fun k t =>
    let w := s.rd A.wimem (512 * bed + t)
    let op := wop w
    if s.errOf A.wimem (512 * bed + t) = 2 then s.voted k t ((s.mark 1 bed).wordStoreError k bed t)
    else if ¬ p op then s
    else s.voted k t (((s.mark 1 bed).noteWimem bed t).wordRun k bed t w f)

def execPass (b : BedLoc) (s : State) : Res := s.live fun s => .next (s.wordIssue b (· = 0x01) fun a _ _ _ => plain a)
def execNeg (b : BedLoc) (s : State) : Res := s.live fun s => .next (s.wordIssue b (· = 0x02) fun a _ _ _ => wNeg a)
def execPopc (b : BedLoc) (s : State) : Res := s.live fun s => .next (s.wordIssue b (· = 0x03) fun a _ _ _ => wPopc a)
def execClz (b : BedLoc) (s : State) : Res := s.live fun s => .next (s.wordIssue b (· = 0x04) fun a _ _ _ => wClz a)
def execAdd (b : BedLoc) (s : State) : Res := s.live fun s => .next (s.wordIssue b (· = 0x08) fun a b _ _ => wAdd a b false)
def execAddc (b : BedLoc) (s : State) : Res := s.live fun s => .next (s.wordIssue b (· = 0x09) fun a b cin _ => wAdd a b cin)
def execSub (b : BedLoc) (s : State) : Res := s.live fun s => .next (s.wordIssue b (· = 0x0A) fun a b _ _ => wSub a b true)
def execSubc (b : BedLoc) (s : State) : Res := s.live fun s => .next (s.wordIssue b (· = 0x0B) fun a b cin _ => wSub a b cin)
def execAnd (b : BedLoc) (s : State) : Res := s.live fun s => .next (s.wordIssue b (· = 0x10) fun a b _ _ => plain (a &&& b))
def execOr (b : BedLoc) (s : State) : Res := s.live fun s => .next (s.wordIssue b (· = 0x11) fun a b _ _ => plain (a ||| b))
def execXor (b : BedLoc) (s : State) : Res := s.live fun s => .next (s.wordIssue b (· = 0x12) fun a b _ _ => plain (a ^^^ b))
def execAndn (b : BedLoc) (s : State) : Res := s.live fun s => .next (s.wordIssue b (· = 0x13) fun a b _ _ => plain (a &&& ~~~b))
def execShl (b : BedLoc) (s : State) : Res := s.live fun s => .next (s.wordIssue b (· = 0x18) fun a b _ _ => wShl a b)
def execShr (b : BedLoc) (s : State) : Res := s.live fun s => .next (s.wordIssue b (· = 0x19) fun a b _ _ => wShr a b)
def execSar (b : BedLoc) (s : State) : Res := s.live fun s => .next (s.wordIssue b (· = 0x1A) fun a b _ _ => wSar a b)
def execRol (b : BedLoc) (s : State) : Res := s.live fun s => .next (s.wordIssue b (· = 0x1B) fun a b _ _ => wRol a b)
def execMull (b : BedLoc) (s : State) : Res := s.live fun s => .next (s.wordIssue b (· = 0x20) fun a b _ _ => wMull a b)
def execMulhu (b : BedLoc) (s : State) : Res := s.live fun s => .next (s.wordIssue b (· = 0x21) fun a b _ _ => wMulhu a b)
def execMulhs (b : BedLoc) (s : State) : Res := s.live fun s => .next (s.wordIssue b (· = 0x22) fun a b _ _ => wMulhs a b)
def execCmpeq (b : BedLoc) (s : State) : Res := s.live fun s => .next (s.wordIssue b (· = 0x28) fun a b _ _ => wTest (a = b))
def execCmpltu (b : BedLoc) (s : State) : Res := s.live fun s => .next (s.wordIssue b (· = 0x29) fun a b _ _ => wTest (a.ult b))
def execCmplts (b : BedLoc) (s : State) : Res := s.live fun s => .next (s.wordIssue b (· = 0x2A) fun a b _ _ => wTest (a.slt b))
def execMinu (b : BedLoc) (s : State) : Res := s.live fun s =>
  .next (s.wordIssue b (· = 0x30) fun a b _ _ => plain (if a.ult b then a else b))
def execMins (b : BedLoc) (s : State) : Res := s.live fun s =>
  .next (s.wordIssue b (· = 0x31) fun a b _ _ => plain (if a.slt b then a else b))
def execMaxu (b : BedLoc) (s : State) : Res := s.live fun s =>
  .next (s.wordIssue b (· = 0x32) fun a b _ _ => plain (if a.ult b then b else a))
def execMaxs (b : BedLoc) (s : State) : Res := s.live fun s =>
  .next (s.wordIssue b (· = 0x33) fun a b _ _ => plain (if a.slt b then b else a))
/-- SEL (R94): A when the condition bit is 1, else B. -/
def execSel (b : BedLoc) (s : State) : Res := s.live fun s =>
  .next (s.wordIssue b (· = 0x38) fun a b _ cond => plain (if cond then a else b))
/-- A WOP that R95 does not list: a zero row and WORD_OP_RESERVED. -/
def execWordOpReserved (b : BedLoc) (s : State) : Res := s.live fun s =>
  .next (s.wordIssue b (fun op => op ≠ 0 ∧ wopUses op = none) fun _ _ _ _ => plain 0)

/-- The operation of a code of R95. -/
def wordFun (op : Nat) : WFun := fun a b cin cond =>
  match op with
  | 0x01 => plain a
  | 0x02 => wNeg a
  | 0x03 => wPopc a
  | 0x04 => wClz a
  | 0x08 => wAdd a b false
  | 0x09 => wAdd a b cin
  | 0x0A => wSub a b true
  | 0x0B => wSub a b cin
  | 0x10 => plain (a &&& b)
  | 0x11 => plain (a ||| b)
  | 0x12 => plain (a ^^^ b)
  | 0x13 => plain (a &&& ~~~b)
  | 0x18 => wShl a b
  | 0x19 => wShr a b
  | 0x1A => wSar a b
  | 0x1B => wRol a b
  | 0x20 => wMull a b
  | 0x21 => wMulhu a b
  | 0x22 => wMulhs a b
  | 0x28 => wTest (a = b)
  | 0x29 => wTest (a.ult b)
  | 0x2A => wTest (a.slt b)
  | 0x30 => plain (if a.ult b then a else b)
  | 0x31 => plain (if a.slt b then a else b)
  | 0x32 => plain (if a.ult b then b else a)
  | 0x33 => plain (if a.slt b then b else a)
  | 0x38 => plain (if cond then a else b)
  | _ => plain 0

end Sys2Proof.Machine
end

