-- ==== Sys2Proof/Machine/Period.lean ====
section
/-! DEFINITION. What an SCLK period performs of a partition's step (R12): every unit that no command has run yet issues,
every stage passes its bits on, every bay serves its requests. -/

namespace Sys2Proof.Machine

open Reg

/-- Units whose entry of step `t` in a table of 512 steps is listed, or holds a stored error. -/
def State.entriesAt (s : State) (a : Arr) (t : Nat) : List Nat :=
  (s.arr.filterMap fun (key, _) =>
    if key % 512 = a.code ∧ key / 512 % 512 = t then some (key / 512 / 512)
    else if key % 512 = A.err.code ∧ key / 512 % 512 = a.code ∧ key / 512 / 512 % 512 = t then some (key / 512 / 512 / 512)
    else none).eraseDups

/-! ### Issue (R12, R57, R67, R88, R107) -/

/-- Cell `c` issues, unless it has. -/
def State.cellRest (s : State) (k t c : Nat) : State :=
  if s.marked 0 c then s else ((s.mark 0 c).noteImem k c t).cellRun k c t (s.cellWord c t)

/-- The cells of a bed that have not issued hold NOPs: each writes 0 to its history entry. Nothing is written where that
changes nothing. -/
def State.nopsRest (s : State) (t bed : Nat) : State :=
  let m := (List.range 16).foldl (fun m c => if s.marked 0 (16 * bed + c) then m else m + 2 ^ c) 0
  if m = 0 ∨ (¬ s.debug ∧ s.rd A.hist (512 * bed + t) &&& m = 0 ∧ s.errOf A.hist (512 * bed + t) = 0) then s
  else s.zeroCells bed t m 0

/-- The word unit of a bed issues, unless it has; WNOP is no issue. -/
def State.wordRest (s : State) (k t bed : Nat) : State :=
  let i := 512 * bed + t
  if s.marked 1 bed then s
  else if s.errOf A.wimem i = 2 then (s.mark 1 bed).wordStoreError k bed t
  else
    let w := s.rd A.wimem i
    if wop w = 0 then s else ((s.mark 1 bed).noteWimem bed t).wordRun k bed t w (wordFun (wop w))

/-- A port unit issues, unless it has. -/
def State.portRest (s : State) (k t u : Nat) : State :=
  if s.marked 2 u then s else ((s.mark 2 u).notePimem k u t).portRun k u t (s.portWord u t)

/-- An outbound lane of a bed performs its entry, unless it has. -/
def State.laneRest (s : State) (k t l : Nat) : State :=
  if s.marked 3 l then s
  else
    (s.mark 3 l).mortarPerform k 0 l t fun e =>
      if ¬ mEn 0 e then s.mark 3 l
      else if e.testBit 14 then (s.mark 3 l).runRelay k (l / 16) (l % 16) t e
      else (s.mark 3 l).runSend k (l / 16) (l % 16) t e

/-- Every unit of slot `k` that has not issued at step `t` does so. -/
def State.issueRest (s : State) (k t : Nat) : State :=
  let mine (w : Nat) : Bool := s.slotOfWall w = some k
  let s := ((s.entriesAt A.imem t).filter fun c => mine (c / 4096)).foldl (fun s c => s.cellRest k t c) s
  let s := (s.wallsOf k).foldl (fun s w => s.each 256 fun s b => s.nopsRest t (256 * w + b)) s
  let s := ((s.entriesAt A.wimem t).filter fun b => mine (b / 256)).foldl (fun s b => s.wordRest k t b) s
  let s := ((s.entriesAt A.pimem t).filter fun u => mine (u / 16)).foldl (fun s u => s.portRest k t u) s
  ((s.entriesAt (A.mTab 0) t).filter fun l => mine (l / 4096)).foldl (fun s l => s.laneRest k t l) s

/-! ### The mortar (R110 to R129) -/

/-- A transfer of slot `k` that arrives for step `t` and that no command has received is received without error. -/
def State.wiresRest (s : State) (k t : Nat) : State :=
  { s with flight := s.flight.map fun b => if b.slot = k ∧ b.due = t then landWire b else b }

/-- A bit that lands in step `t` of slot `k`. -/
def FlightBit.lands (b : FlightBit) (k t : Nat) : Bool :=
  match b.node with
  | .bedIn _ _ _ => b.slot = k ∧ b.due = t
  | _ => false

/-- Every stage of slot `k` performs its entries of step `t`. -/
def State.stagesRest (s : State) (k t : Nat) : State :=
  let own (kind : Nat) : List Nat := (s.entriesAt (A.mTab kind) t).filter fun l => s.laneSlot kind l = some k
  let s := s.wiresRest k t
  let s := [1, 2, 3].foldl (fun s kind => (own kind).foldl (fun s l => s.switchLane kind l t) s) s
  let s := (own 4).foldl (fun s l => s.moduleLane l t) s
  let s := ((own 5).map (· / 256)).eraseDups.foldl (fun s p => s.linkSend p k t) s
  (s.flight.filter (·.lands k t)).foldl State.landFlight s

/-- The bit has crossed to another die and lands now (R129). -/
def FlightBit.crossed (b : FlightBit) : Bool :=
  match b.node with
  | .linkIn _ _ _ _ _ => b.due = 0
  | _ => false

/-- A link landing on its way to another die is one SCLK period nearer. -/
def FlightBit.nearer (b : FlightBit) : FlightBit :=
  match b.node with
  | .linkIn _ _ _ _ _ => { b with due := b.due - 1 }
  | _ => b

/-- The link landings of slot `k` on their way to another die: those that have arrived land, the others come nearer. (log 132 DESIGN CHOICE) -/
def State.crossRest (s : State) (k : Nat) : State :=
  let s := (s.flight.filter fun b => b.slot = k ∧ b.crossed).foldl State.landFlight s
  { s with flight := s.flight.map fun b => if b.slot = k then b.nearer else b }

/-! ### Bays -/

/-- The bays of slot `k` perform the requests that are due, and its port units receive the lines that are due. -/
def State.baysRest (s : State) (k : Nat) : State :=
  let s := (s.wallsOf k).foldl State.bayStep s
  (s.bayRet.filter fun r => r.slot = k).foldl (fun s r => s.bayDeliver r.course) s

/-! ### The period -/

/-- What the units of slot `k` do in an SCLK period: in a step, all of it; during a hold, the mortar stages of one step
(R116), the bays and the link landings (R143). (log 3 DESIGN CHOICE) -/
def State.periodRest (s : State) (k : Nat) : State :=
  let s := (s.baysRest k).crossRest k
  if s.evaluating k then (s.issueRest k (s.rd A.pStep k)).stagesRest k (s.rd A.pStep k)
  else if s.rd A.pState k = 3 then
    let u := s.rd A.heldStep k
    ((s.stagesRest k u).flightStep k u).wr A.heldStep k (u + 1)
  else s

/-- What goes on in a commit step of slot `k` (R13). -/
def State.commitRest (s : State) (k : Nat) : State :=
  let s := (s.baysRest k).crossRest k
  { s with bayDone := s.bayDone.filter fun x => s.slotOfWall x.wall ≠ some k }

end Sys2Proof.Machine
end

