-- ==== Sys2Proof/Machine/Time.lean ====
section
/-! DEFINITION. Time and metering (chapter 15, R364 to R372, R379 to R383). -/

namespace Sys2Proof.Machine

open Reg

def second : Nat := 1000000000

/-- A write of TIME_SET, TIME_INC, PPS_SEC, TIME_CTRL or METER_CFG is the boot controller's or the physical function's
(R384); an unbound core carries the latter's identity. -/
def State.timeGuard (s : State) (who : Who) (f : State → State) : State := if s.pfRights who then (f s).okay else s.deny

/-! ### Setting the time (R364, R367, R382) -/

/-- A step of TIME_NS below the S of an open epoch is kept with it (R382). -/
def State.noteRegression (s : State) (before after : Nat) : State :=
  s.each 32 fun s k =>
    if s.on A.epOpen k ∧ after < s.rd A.epS k ∧ after < before ∧ ¬ s.on A.epReg k then
      ((s.wr A.epReg k 1).wr A.epBefore k before).wr A.epAfter k after
    else s

/-- Load TIME_NS and clear its fraction. -/
def State.setTime (s : State) (v : Nat) : State :=
  let v := v % 2 ^ 64
  let s := s.noteRegression s.timeNs v
  let s := (s.setPair oTIME_NS_LO v).wf 0 TIME_FRAC_VALUE 0
  if v / second < s.rd A.tmSec 0 then s.wr A.tmSec 0 (v / second) else s

/-- Add `f`, in units of 2^-32 ns, to TIME_NS. Past 2^64 its seconds begin again. -/
def State.advanceTime (s : State) (f : Nat) : State :=
  let t := s.timeNs * 2 ^ 32 + s.rf 0 TIME_FRAC_VALUE + f
  let s := (s.setPair oTIME_NS_LO (t / 2 ^ 32 % 2 ^ 64)).wf 0 TIME_FRAC_VALUE t
  if 2 ^ 96 ≤ t then s.wr A.tmSec 0 (s.timeNs / second) else s

/-- Add `f`, in units of 2^-32 ns, to MONO_NS. -/
def State.advanceMono (s : State) (f : Nat) : State :=
  let t := s.mono * 2 ^ 32 + s.rd A.monoFrac 0 + f
  (s.setPair oMONO_NS_LO (t / 2 ^ 32 % 2 ^ 64)).wr A.monoFrac 0 t

/-- TIME_INC, in units of 2^-32 ns. -/
def State.timeInc (s : State) : Nat := s.reg oTIME_INC_LO + 2 ^ 32 * slice (s.reg oTIME_INC_HI) 0 4

def execTimeSet (who : Who) (hi : Word) (s : State) : Res := s.access who (.timeSet who hi) fun s =>
  .next (s.timeGuard who fun s =>
    let (lo, s) := s.takeLo oTIME_SET_LO (s.rd A.lastLo oTIME_SET_LO)
    s.setTime (lo + 2 ^ 32 * hi.toNat))

def State.writeTimeInc (s : State) (hi : Nat) : State :=
  let (lo, s) := s.takeLo oTIME_INC_LO (s.reg oTIME_INC_LO)
  if slice hi 0 4 = 9 ∨ slice hi 0 4 = 10 then (s.wr A.reg oTIME_INC_LO lo).wr A.reg oTIME_INC_HI (slice hi 0 4) else s

def execTimeIncWrite (who : Who) (hi : Word) (s : State) : Res := s.access who (.timeIncWrite who hi) fun s =>
  .next (s.timeGuard who fun s => s.writeTimeInc hi.toNat)

/-! ### Synchronisation (R368 to R372) -/

/-- An accepted PPS edge or a write of SYNCED. -/
def State.inSync (s : State) : State :=
  ((s.wf 0 TIME_STATUS_HOLDOVER 0).wf 0 TIME_STATUS_SLEPT 0).wf 0 TIME_STATUS_UNSYNCED 0

/-- Setting UNSYNCED cancels every armed slot that has not fired (R372). -/
def State.setUnsynced (s : State) : State :=
  (s.wf 0 TIME_STATUS_UNSYNCED 1).each 16 fun s i => if s.rd A.lnState i = 1 then s.lnEnd i 5 else s

/-- Accept an edge that stands for `k` seconds; `period`: the second case of R368. -/
def State.ppsAccept (s : State) (k : Nat) (period : Bool) : State :=
  let s := if period then
      s.wf 0 PPS_PERIOD_NS ((s.timeNs + 2 ^ 64 - s.rd A.ppsTime 0) % 2 ^ 64 / k)
    else s
  let sec := s.pair oPPS_SEC_LO + (k - 1)
  let s := s.cnt 0 TIME_STATUS_PPS_MISSED (k - 1)
  let s := s.setTime (sec * second)
  let s := (s.setPair oPPS_SEC_LO ((sec + 1) % 2 ^ 64)).inSync
  ((s.wr A.ppsRef 0 s.mono).wr A.ppsSeen 0 1).wr A.ppsTime 0 (sec * second)

/-- A rising edge of the selected PPS source: PPS_IN, or the alternate pin, which has an edge only where the signal has its
pin (R368, R442). It is sampled on TCLK, which stands while REFCLK is absent. (log 167 DEDUCED) -/
def State.pps (s : State) : State :=
  let e := s.mono - s.rd A.ppsRef 0
  let k := (e + second / 2) / second
  if s.rf 0 TIME_CTRL_PPS_EN = 0 ∨ s.on A.refGone 0 ∨ (s.rf 0 TIME_CTRL_PPS_SRC = 1 ∧ ¬ s.sigHeard 0x3C) then s
  else if ¬ s.on A.ppsSeen 0 then s.ppsAccept 1 false
  else if 1 ≤ k ∧ k ≤ 16 ∧ k * second ≤ e + k * 100000 ∧ e ≤ k * second + k * 100000 then s.ppsAccept k true
  else if 33 * second ≤ 2 * e then (s.wf 0 TIME_STATUS_RESYNC 1).ppsAccept k false
  else s.cnt 0 TIME_STATUS_PPS_BAD 1

def execPpsEdge (s : State) : Res := s.aon fun s => .next s.pps

/-- HOLDOVER after 1.1 s without an accepted edge. -/
def execPpsHoldoverTimeout (s : State) : Res := s.aon fun s =>
  .next (if s.rf 0 TIME_CTRL_PPS_EN = 1 ∧ 11 * second ≤ 10 * (s.mono - s.rd A.ppsRef 0) then
    s.wf 0 TIME_STATUS_HOLDOVER 1 else s)

/-- HOLDOVER after 3 s without a TIME message. -/
def execTimeMsgTimeout (s : State) : Res := s.aon fun s =>
  .next (if s.rf 0 TIME_CTRL_MSG_EXPECT = 1 ∧ 3 * second ≤ s.mono - s.rd A.msgRef 0 then
    s.wf 0 TIME_STATUS_HOLDOVER 1 else s)

def execSynced (who : Who) (s : State) : Res := s.access who (.synced who) fun s => .next (s.timeGuard who State.inSync)

/-- A write of TIME_CTRL. -/
def State.timeCtrl (s : State) (v : Nat) : State :=
  let old := s.reg oTIME_CTRL
  let s := s.wr A.reg oTIME_CTRL (patch (slice v 0 4) 8 24 (slice v 8 24))
  let s := if old.testBit 0 = false ∧ v.testBit 0 then (s.wr A.ppsSeen 0 0).wr A.ppsRef 0 s.mono else s
  let s := if old.testBit 2 = false ∧ v.testBit 2 then s.wr A.tmSec 0 (s.timeNs / second) else s
  let s := if old.testBit 3 = false ∧ v.testBit 3 then s.wr A.msgRef 0 s.mono else s
  if v.testBit 4 then s.inSync else s

/-- The whole seconds of TIME_NS have increased (R370). -/
def execTimeSecond (s : State) : Res := s.aon fun s =>
  let sec := s.timeNs / second
  .next (if s.rd A.tmSec 0 < sec then
    let s := s.wr A.tmSec 0 sec
    if s.rf 0 TIME_CTRL_MASTER = 1 then s.sendTree none (.time 0 (sec % 2 ^ 48)) else s
  else s)

/-- TIME (R370). (log 60 DESIGN CHOICE) -/
def State.timeSym (s : State) (port hops sec : Nat) : State :=
  let s := s.wr A.msgRef 0 s.mono
  if s.rf 0 TIME_CTRL_MASTER = 1 then s.wf 0 TIME_STATUS_CONFLICT 1
  else if s.on A.tmGot sec then s
  else
    let s := s.wr A.tmGot sec 1
    let (h, s) := if hops = 15 then s.free 4 else (hops + 1, s)
    let s := s.sendTree (some port) (.time h sec)
    let s := s.wr A.reg oTIME_MSG_LO sec
    (s.wr A.reg oTIME_MSG_HI (slice sec 32 16 + 2 ^ 16 * port + 2 ^ 20 * hops)).raise 0x5BC

def execTime (port : Fin 16) (hops : BitVec 4) (sec : BitVec 48) (s : State) : Res := s.live fun s =>
  let s := s.heard port
  .next (s.timeSym port hops.toNat sec.toNat)

/-- CHECK (R371). -/
def State.checkSym (s : State) (t : Nat) : State :=
  let d := (t + 2 ^ 48 - s.timeNs % 2 ^ 48) % 2 ^ 48
  let diff := min d (2 ^ 48 - d)
  if s.rf 0 TIME_CTRL_TIME_GUARD_US * 1000 < diff ∧ s.rf 0 TIME_STATUS_SLEPT = 1 then s.setUnsynced else s

def execCheck (port : Fin 16) (t : BitVec 48) (s : State) : Res := s.live fun s =>
  let s := s.heard port
  .next (s.checkSym t.toNat)

/-- The symbol that an end of a waking link sends (R371). -/
def State.checkNow (s : State) : Sym := .check (s.timeNs % 2 ^ 48)

/-! ### Meters (R379 to R383) -/

/-- Add to a 64-bit meter of slot `k`. -/
def State.meter (s : State) (k off n : Nat) : State := s.setPair (P k + off) ((s.pair (P k + off) + n) % 2 ^ 64)

/-- Open the epoch of slot `k` at its load (R381). (log 65 DEDUCED) -/
def State.epochOpen (s : State) (k : Nat) : State :=
  let s := ((s.wr A.epOpen k 1).wr A.epS k s.timeNs).wr A.epMono k s.mono
  ((s.wr A.epReg k 0).wr A.epBefore k 0).wr A.epAfter k 0

/-- Log 61 DESIGN CHOICE. -/
def State.powerId (s : State) : Nat := Config.free (s.rd A.powerIx 0) % 2 ^ 64

def sealQueue (s : State) : Nat := s.rf 0 METER_CFG_LOG_QUEUE

/-- Words of the record of slot `k`'s epoch, but for NOKEY and the sequence number. -/
def State.epochWords (s : State) (k : Nat) (short : Bool) : List Nat :=
  let m (o : Nat) := s.pair (P k + o)
  [s.rd A.pPid k + 2 ^ 8 * s.chainAddr + 2 ^ 20 * s.rd A.epReg k + 2 ^ 21 * bit short, 0, s.powerId, s.rd A.epS k,
    s.timeNs, s.rd A.epMono k, s.mono,
    m oMETER_CYCLES_LO, m oMETER_CELL_STEPS_LO, m oMETER_HOLD_NS_LO, m oMETER_REC_BYTES_LO,
    s.rd A.epBefore k, s.rd A.epAfter k]

/-- Seal a record: it takes the next sequence number, and goes to the log queue and into the vault (R383). -/
def State.sealWords (s : State) (ws : List Nat) : State :=
  let key := s.rd A.sealKey 0
  let nokey := slice key 256 1 = 0
  let ws := (ws.set 0 (ws.getD 0 0 + 2 ^ 22 * bit nokey)).set 1 (s.rd A.meterSeq 0)
  let mac := if nokey then 0 else Config.sealRecord (slice key 0 256) ws
  let rec_ := ws ++ (List.range 6).map fun i => slice mac (64 * i) 64
  let s := s.wr A.meterSeq 0 (s.rd A.meterSeq 0 + 1)
  let s := { s with vault := (s.vault ++ [rec_]).drop (s.vault.length + 1 - 1024) }
  s.pushRecord (sealQueue s) none rec_

/-- Seal the epochs that closed during SLUMBER, oldest first (R429). -/
def State.sealClosed (s : State) : State := s.closed.foldl State.sealWords { s with closed := [] }

/-- Close the epoch of slot `k`: its record is sealed, in SLUMBER at the wake (R429); its meters restart at 0. (log 62 DEDUCED) -/
def State.sealRec (s : State) (k : Nat) (short : Bool) : State :=
  let ws := s.epochWords k short
  let s := if s.rd A.pwMode 0 = 2 then { s with closed := s.closed ++ [ws] } else s.sealWords ws
  (((s.setPair (P k + oMETER_CYCLES_LO) 0).setPair (P k + oMETER_CELL_STEPS_LO) 0).setPair
    (P k + oMETER_HOLD_NS_LO) 0).setPair (P k + oMETER_REC_BYTES_LO) 0

/-- Freeing or reloading a slot closes its epoch early. -/
def State.epochShort (s : State) (k : Nat) : State :=
  if s.on A.epOpen k then (s.sealRec k true).wr A.epOpen k 0 else s

/-- Length of the open device epoch, in ns. -/
def State.epochLen (s : State) : Nat := (if s.rd A.devLen 0 = 0 then 3600 else s.rd A.devLen 0) * second

/-- The close of the open epoch is due (R380). -/
def State.epochDue (s : State) : Bool :=
  let l := s.epochLen
  l - s.rd A.devS 0 % l ≤ s.mono - s.rd A.devMono 0

def State.closeEpoch (s : State) : State :=
  let s := s.each 32 fun s k => if s.on A.epOpen k then (s.sealRec k false).epochOpen k else s
  ((s.wr A.devS 0 s.timeNs).wr A.devMono 0 s.mono).wr A.devLen 0 (s.rf 0 METER_CFG_EPOCH_S)

def execEpochClose (s : State) : Res := s.aon fun s => .next (if s.epochDue then s.closeEpoch else s)

def State.exportVault (s : State) : State :=
  s.vault.foldl (fun s r => s.pushRecord (sealQueue s) none r) s

def execMeterExport (who : Who) (s : State) : Res := s.access who (.meterExport who) fun s => .next (s.timeGuard who State.exportVault)

/-- A write of METER_CFG: EPOCH_S is 1 to 86,400; a larger value stores 86,400. (log 63 DEDUCED) -/
def State.meterCfg (s : State) (v : Nat) : State :=
  let e := slice v 0 17
  let s := s.wr A.reg oMETER_CFG ((if e = 0 then 1 else min e 86400) + 2 ^ 17 * slice v 17 7)
  if v.testBit 24 then s.exportVault else s

end Sys2Proof.Machine
end

