-- ==== Sys2Proof/Machine/Part.lean ====
section
/-! DEFINITION. Partition control: stepping, commit, holds, the gate, start, stop, reset, loss of members (chapters 01,
06, 07 and 20). -/

namespace Sys2Proof.Machine

open Reg

/-! ### Stepping (R12, R137 to R142) -/

/-- Slot `k` pulls HOLD, or observes it. -/
def State.holdSeen (s : State) (k : Nat) : Bool := (s.causes.any fun c => c.1 = k) ∨ s.on A.remoteHold k

/-- Slot `k`, in RUN, has reached an evaluation step: the feed, the dump and the hold votes come first (R137, R268,
R273). -/
def State.beginStep (s : State) (k : Nat) : State :=
  let t := s.rd A.pStep k
  let s := if s.replaying k then s.feedUpTo k (s.rd A.pCycle k) t (s.recLog.length + 1) else s
  if s.dumpBlocks k t then ((s.addCause k 3).wr A.pFrozen k 1).enterHeld k
  else match s.votes k t with
    | [] => s
    | items => s.freeze k t items

/-- The step in progress of slot `k` completes, and the next one begins. -/
def State.stepDone (s : State) (k : Nat) : State :=
  let t := s.rd A.pStep k
  let s := (((s.flightStep k t).flushRecs k).dumpMark k (s.rd A.pCycle k) t).wr A.stepFresh k 1
  if s.on A.pImm k then s.enterStopped k true t
  else if s.holdSeen k then s.enterHeld k
  else
    let s := s.wr A.pStep k (t + 1)
    if t + 1 < s.rd A.pDepth k then s.beginStep k else s

/-- A hold freezes a partition that waits at the gate, in a launch wait, before a commit step or before its first
emulated cycle (R139, R142). -/
def State.holdNow (s : State) (k : Nat) : State :=
  if s.rd A.pState k ≠ 2 ∨ ¬ s.holdSeen k then s
  else if s.preFirst k ∨ s.on A.pGate k then s.enterHeld k
  else if s.rd A.pDepth k ≤ s.rd A.pStep k then (s.wr A.pFrozen k 1).enterHeld k
  else s

/-- The slot's step ends, in an SCLK period of which every unit has done its part. A feed whose position has been lost
stops the partition (R269). -/
def State.endStep (s : State) (k : Nat) : State :=
  let s := s.feedOverrun k
  if s.evaluating k then s.stepDone k else (s.wr A.stepFresh k 0).holdNow k

/-- A frame of the plumb bus: what the device drives, and of it its own roll call (R147). The positions of other devices
change in PRESENT where the bus tells of them: at a token and at a loss. (log 140 DESIGN CHOICE) -/
def State.busFrame (s : State) : State :=
  let s := s.wr A.busSlots 0 s.busDriven
  if s.onBus then
    s.wf 0 PLUMB_BUS_STATUS_PRESENT (s.rf 0 PLUMB_BUS_STATUS_PRESENT ||| 2 ^ s.rf 0 PLUMB_BUS_STATUS_BUS_POS)
  else s

/-- One SCLK period passes: every unit of a partition does what no command has had it do yet, and the step ends; without
clocks nothing does. (log 3 DESIGN CHOICE) -/
def State.tick (s : State) : State :=
  if ¬ s.clocked then s
  else
    let s := s.each 32 fun s k => if s.loaded k then s.periodRest k else s
    let s := { s with issued := [], bayDone := [], frameOut := s.frameOut.map fun (f : FrameOut) => ({ f with fresh := false } : FrameOut) }
    (s.each 32 fun s k => if s.loaded k then (s.endStep k).feedOverrun k else s).busFrame

/-- A hold is observed (R138, R139), in every state of the partition (HOLD_STATUS). -/
def execHoldObserved (slot : Fin 32) (others : BitVec 4) (s : State) : Res := s.live fun s =>
  .next (if s.loaded slot ∧ (s.combined slot others.toNat).testBit 0 then
    (s.wr A.remoteHold slot 1).holdNow slot
  else s)

/-- Stepping resumes (R140): the holder performs its frozen step, another member the step after the one it completed. -/
def State.resume (s : State) (k : Nat) : State :=
  let s := (s.wr A.pState k 2).wr A.remoteHold k 0
  if s.preFirst k ∨ s.on A.pGate k then s
  else
    let t := if s.on A.pFrozen k then s.rd A.pStep k else s.rd A.pStep k + 1
    let s := (s.wr A.pStep k t).wr A.pFrozen k 0
    if t < s.rd A.pDepth k then s.beginStep k else s

/-- HOLD_RELEASE: the combined HOLD reads clear and no cause of this device is left. A partition that is neither RUN nor
HELD observes that HOLD is clear. -/
def execHoldRelease (slot : Fin 32) (others : BitVec 4) (s : State) : Res := s.live fun s =>
  .next (if s.rd A.pState slot = 3 ∧ ¬ (s.causes.any fun c => c.1 = slot.val) ∧
      ¬ (s.combined slot others.toNat).testBit 0 then
    s.resume slot
  else if ¬ s.stoppable slot ∧ ¬ (s.combined slot others.toNat).testBit 0 then s.wr A.remoteHold slot 0
  else s)

/-! ### Commit (R14, R15) -/

/-- D+2: resolve the stop decisions of `n`; this device's notices go out (R173). (log 16 DEDUCED) -/
def State.resolveStops (s : State) (k n : Nat) : State :=
  let mine (x : PendStop) : Bool := x.slot = k ∧ x.cyc ≤ n
  let s := (s.stops.filter fun x => mine x ∧ x.notice).foldl (fun s x => s.sendNotice k x.code false n) s
  { s with stops := s.stops.map fun x => if mine x then { x with notice := false } else x }

/-- A commit changes state row `i`: its value, or a stored error of the row, which the write ends (R51). -/
def State.rowDirty (s : State) (i : Nat) : Bool :=
  s.rd A.shadow i ≠ s.rd A.state i ∨ s.errOf A.state i ≠ 0 ∨ s.errOf A.shadow i = 1

/-- State rows of slot `k` that the commit changes. -/
def State.dirtyRows (s : State) (k : Nat) : List Nat :=
  (s.arr.filterMap fun e =>
    if e.1 % 512 = A.state.code ∨ e.1 % 512 = A.shadow.code then some (e.1 / 512)
    else if e.1 % 512 = A.err.code ∧ (e.1 / 512 % 512 = A.state.code ∨ e.1 / 512 % 512 = A.shadow.code) then
      some (e.1 / 512 / 512)
    else none).eraseDups.filter fun i => s.slotOfBed (i / 256) = some k ∧ s.rowDirty i

/-- The copy-on-write buffer of a die has no room for the rows that the commit saves (R255). -/
def State.cowBlocks (s : State) (k : Nat) : Bool :=
  let rows := (s.dirtyRows k).filter fun i => s.cowNeeds k (A.state.key i)
  (List.range 8).any fun d => s.cowFull d (rows.filter fun i => i / 256 / 4096 = d).length

/-- Shadow rows of slot `k` that hold a stored error are read with it (R51). -/
def State.noteShadows (s : State) (k : Nat) : State :=
  (s.listed A.err).foldl (fun s (key, _) =>
    let i := key / 512
    if key % 512 = A.shadow.code ∧ s.slotOfBed (i / 256) = some k then
      s.noteRead k (s.rd A.pStep k) A.shadow i (Loc.ofBed (i / 256)) (storeDetail 2 (i % 256) 0 0 1)
    else s) s

/-- D+3: every state shadow goes to its state store (R17 to R19). -/
def State.applyShadow (s : State) (k : Nat) : State :=
  let s := s.noteShadows k
  (s.dirtyRows k).foldl (fun s i =>
    let v := s.rd A.shadow i
    let s := if s.cowNeeds k (A.state.key i) then s.noteState k (s.posStep k) (i / 256) (i % 256) else s
    let s := (s.cow k (i / 256 / 4096) A.state i).wrE A.state i v
    if s.errOf A.shadow i = 1 then s.wrE A.shadow i v else s) s

/-- D+7: the edge sequencer advances, except in the cycle of a reload (R21). -/
def State.esAdvance (s : State) (k : Nat) : State :=
  if s.on A.esReloaded k then s.wr A.esReloaded k 0
  else s.wr A.esIdx k (if s.rd A.esLen k ≤ s.rd A.esIdx k + 1 then 0 else s.rd A.esIdx k + 1)

/-- D+9: the presence flags of landing bank n mod 2 and port bank n mod 4 clear (R47). -/
def State.clearBanks (s : State) (k n : Nat) : State :=
  let bank (i : Nat) : Bool := i % 4 = n % 4 ∧ s.slotOfBed (i / 4) = some k
  ((s.drop A.landP fun i => i / 512 % 2 = n % 2 ∧ s.slotOfBed (i / 1024) = some k).drop A.portP bank).drop A.portPErr bank

/-- Non-NOP entries 0 to D−1 of the partition's cell instruction memories (R379). -/
def State.cellSteps (s : State) (k : Nat) : Nat :=
  (s.arr.filter fun e => e.1 % 512 = A.imem.code ∧ slice e.2 92 4 ≠ 0 ∧ e.1 / 512 % 512 < s.rd A.pDepth k ∧
    s.slotOfBed (e.1 / 512 / 512 / 16) = some k).length

/-- D+12: the cycle counter; at its limit it stays, and the partition stops (R28). (log 15 DEDUCED) -/
def State.countCycle (s : State) (k n : Nat) : State :=
  if n + 1 < 2 ^ 48 then s.wr A.pCycle k (n + 1)
  else
    let s := (s.addStop ⟨k, n, 2, false⟩).wr A.pLimit k 1
    let s := s.record k 2 Loc.device n (s.rd A.pStep k) 1 0
    ((s.firstFault k 2 s.chainAddr).raise (0x500 + k)).sendNotice k 2 false n

/-- The action of commit step D + j of emulated cycle `n`. -/
def State.commitAct (s : State) (k n j : Nat) : State :=
  match j with
  | 0 => (s.flushHist k).flightClear k
  | 1 => s.trigSample k n
  | 2 => s.resolveStops k n
  | 3 => s.applyShadow k
  | 4 => s.tgtDrive k
  | 5 => s.tgtSample k n
  | 6 => (if s.rd A.shState k = 2 then s.shCommit k else s).launchStep k n
  | 7 => s.esAdvance k
  | 8 => s.recBoundary k n
  | 9 => s.clearBanks k n
  | 10 => (s.meter k oMETER_CYCLES_LO 1).meter k oMETER_CELL_STEPS_LO (s.cellSteps k)
  | 12 => s.countCycle k n
  | _ => s

/-- A wait at the gate begins (R153). -/
def State.gateWait (s : State) (k : Nat) : State :=
  (s.wr A.gateTimer k 0).wr A.limitNow k (s.rf (P k) HOLD_LIMIT_LIMIT_US)

/-- After step D+15 of `n`: a decided stop takes effect, otherwise the partition waits at the gate. -/
def State.cycleEnd (s : State) (k n : Nat) : State :=
  let due := s.stops.filter fun x => x.slot = k ∧ x.cyc ≤ n
  if due ≠ [] then s.enterStopped k false (s.rd A.pDepth k + 15)
  else
    let s := (s.wr A.pGate k 1).gateWait k
    if s.holdSeen k then s.enterHeld k else s

/-- A launch wait begins before step D+6 (R375). (log 59 DEDUCED) -/
def State.launchHold (s : State) (k : Nat) : State :=
  if s.on A.pLaunchWait k then s
  else (s.wr A.pLaunchWait k 1).gateWait k

/-- Perform the commit steps of `n` that are left, in order, each with what the bays do in it, until one of them holds or
stops the partition. (log 14 DESIGN CHOICE) -/
def State.commitRun (s : State) (k n : Nat) : Nat → State
  | 0 => s
  | fuel + 1 =>
    let d := s.rd A.pDepth k
    let t := s.rd A.pStep k
    let s := s.commitRest k
    let s := if s.replaying k then s.feedUpTo k n t (s.recLog.length + 1) else s
    if t = d + 3 ∧ s.cowBlocks k then ((s.addCause k 3).wr A.pFrozen k 1).enterHeld k
    else if t = d + 6 ∧ s.lnWaiting k then s.launchHold k
    else
      let s := (s.wr A.pLaunchWait k 0).commitAct k n (t - d)
      if s.rd A.pState k ≠ 2 then s
      else if s.on A.pImm k then s.enterStopped k true t
      else if d + 15 ≤ t then s.cycleEnd k n
      else if s.holdSeen k then (s.wr A.stepFresh k 1).enterHeld k
      else (s.wr A.pStep k (t + 1)).commitRun k n fuel

/-- The emulated cycle whose commit step comes next: from after step D+12 on, the counter names the one that follows. (log 14 DESIGN CHOICE) -/
def State.commitCycle (s : State) (k : Nat) : Nat :=
  if s.rd A.pDepth k + 12 < s.rd A.pStep k ∧ ¬ s.on A.pLimit k then s.rd A.pCycle k - 1 else s.rd A.pCycle k

/-- Commit steps of slot `k` are due. -/
def State.committing (s : State) (k : Nat) : Bool :=
  s.rd A.pState k = 2 ∧ ¬ s.preFirst k ∧ ¬ s.on A.pGate k ∧ ¬ s.on A.pFrozen k ∧ s.rd A.pDepth k ≤ s.rd A.pStep k ∧
  ¬ s.holdSeen k

/-- Log 14 DESIGN CHOICE. -/
def execEndOfCycleCommit (slot : Fin 32) (s : State) : Res := s.live fun s =>
  .next (if s.committing slot then s.commitRun slot (s.commitCycle slot) 16 else s)

/-! ### The gate (R149 to R152) -/

/-- Phase G(x mod 3) in a plumb state. -/
def gateBit (x : Nat) : Nat := 1 + x % 3

/-- The gate round that slot `k` ends now is one of rounds `first` to 64, of which GATE_SPAN shows the longest (R152): the
time from its release of a phase until it observes that phase clear. Round `r` ends where the member goes on from its
wait. (log 17 DEDUCED) -/
def State.gateMeasure (s : State) (k r : Nat) : State :=
  let at0 := s.rd A.gateRel k
  if at0 = 0 then s
  else
    let m := max (s.rd A.gateMax k) (if 33 ≤ r then s.mono + 1 - at0 else 0)
    let s := (s.wr A.gateRel k 0).wr A.gateMax k m
    if r < 64 then s else (s.wr A.gateMax k 0).wf (P k) GATE_SPAN_SPAN_NS (min m 0xFFFF)

/-- Step 0 of emulated cycle c: the phases move on; what is kept per emulated cycle starts again (R149, R168, R174). -/
def State.cycleBegin (s : State) (k : Nat) : State :=
  let c := s.rd A.pCycle k
  let s := (((s.wr A.pGate k 0).wr A.pBegun k 1).wr A.pStep k 0).wr A.pFrozen k 0
  let s := (s.wr A.gatePull k (2 ^ (c % 3))).pullsChanged k
  let s := s.drop A.recCnt fun i => i % 32 = k
  let s := (s.drop A.hzHist fun i => s.slotOfBed (i / 512) = some k).drop A.hzFlag fun i => s.slotOfBed (i / 512) = some k
  let s := s.drop A.hzShadow fun i => s.slotOfBed (i / 256 / 16) = some k
  let s := s.drop A.linkDone fun i => i / 512 % 32 = k
  (s.gateMeasure k 64).beginStep k

/-- CYCLE_BEGIN: G((m+2) mod 3) reads clear at the end of m, and m+1 begins (R149); c is m+1. -/
def execCycleBegin (slot : Fin 32) (others : BitVec 4) (s : State) : Res := s.live fun s =>
  let k : Nat := slot
  let waits := s.rd A.pState k = 2 ∧ (s.on A.pGate k ∨ (s.preFirst k ∧ s.rd A.pRound k = 0 ∧ ¬ s.on A.pStartWait k))
  .next (if waits ∧ ¬ s.holdSeen k ∧
      ¬ (s.combined k others.toNat).testBit (gateBit (s.rd A.pCycle k + 1)) then s.cycleBegin k else s)

/-- Round `r` of a start from IDLE at c0 (R149, R152): the wait before it, which ends round r − 1, is over; the member
releases a phase, pulls the next, and waits again. (log 17 DEDUCED) -/
def State.gateRound (s : State) (k r : Nat) : State :=
  let c0 := s.rd A.pCycle k
  let s := s.gateMeasure k (r - 1)
  let s := (s.wr A.gatePull k (2 ^ ((c0 + 1 + r) % 3))).pullsChanged k
  ((s.wr A.pRound k (if r < 64 then r + 1 else 0)).wr A.gateRel k (1 + s.mono)).gateWait k

def execGateRound (slot : Fin 32) (others : BitVec 4) (s : State) : Res := s.live fun s =>
  let k : Nat := slot
  let r := s.rd A.pRound k
  .next (if s.rd A.pState k = 2 ∧ 1 ≤ r ∧ ¬ s.holdSeen k ∧
      ¬ (s.combined k others.toNat).testBit (gateBit (s.rd A.pCycle k + 2 + r)) then s.gateRound k r else s)

/-! ### Start, stop (R465) -/

def clearFaultStatus (s : State) (k : Nat) : State := s.wr A.reg (P k + oFAULT_STATUS) 0

/-- R146. -/
def State.plumbBad (s : State) (k : Nat) : Bool :=
  let many : Bool := 1 < s.rd A.pMembers k
  match s.plumbMode k with
  | 0 => many
  | 1 => s.rf 0 CHAIN_STATUS_NOBUS = 1 ∨ (List.range 32).any fun j =>
      j ≠ k ∧ s.stoppable j ∧ s.rf (P j) PLUMB_CFG_MODE = 1 ∧ s.rf (P j) PLUMB_CFG_CHANNEL = s.rf (P k) PLUMB_CFG_CHANNEL
  | 2 => many ∧ s.rf 0 CHAIN_TREE_VALID = 0
  | _ => true

/-- RESULT of a start of slot `k`, but for the right of its writer. -/
def State.startCheck (s : State) (k : Nat) : Nat :=
  let st := s.rd A.pState k
  if ¬ (st = 1 ∨ st = 4) then 1
  else if st = 4 ∧ s.rf (P k) FAULT_STATUS_IMMEDIATE = 1 then 5
  else if st = 4 ∧ s.on A.pLimit k then 6
  else if s.plumbBad k then 3
  else if s.capacityShort k then 2
  else 0

/-- The start of slot `k` (R27, R149, R181, R266); it waits while Newt tests a bed of its walls (R198). -/
def State.doStart (s : State) (k : Nat) : State :=
  let idle := s.rd A.pState k = 1
  let s := clearFaultStatus s k
  let s := (((s.wr A.pState k 2).wr A.pBegun k 0).wr A.pGate k 0).wr A.pFrozen k 0
  let s := (s.wr A.pStep k 0).wr A.pRound k (if idle then 1 else 0)
  let s := ((s.gateWait k).wr A.gateRel k 0).wr A.gateMax k 0
  let s := s.writeStartLines k
  let s := if s.rd A.plPhase 0 = 0 then s else s.addCause k 6
  if s.holdSeen k then s.enterHeld k else s

/-- A start that is not refused. -/
def State.startNow (s : State) (k : Nat) : State :=
  if (s.wallsOf k).any fun w => s.newtOnBeds w then s.wr A.pStartWait k 1 else s.doStart k

/-- RESULT of PART_CMD; a refusal for want of the right is answered DENIED as well. -/
def State.cmdResult (s : State) (k r : Nat) : State :=
  let s := s.wf (P k) PART_CMD_RESULT r
  if r = 4 then s.deny else s.okay

def State.startCmd (s : State) (who : Who) (k : Nat) : State :=
  let r := if ¬ s.maySlot who k then 4 else s.startCheck k
  (if r = 0 then s.startNow k else s).cmdResult k r

def execStart (who : Who) (slot : Fin 32) (s : State) : Res := s.accessAs who (.start who slot) 6 fun s => .next (s.startCmd who slot)

/-- STOP (`imm` false) and STOP_NOW. -/
def State.stopCmd (s : State) (who : Who) (k : Nat) (imm : Bool) : State :=
  let r := if ¬ s.maySlot who k then 4 else if s.stoppable k then 0 else 1
  (if r = 0 then s.act k 0 (if imm then 2 else 1) else s).cmdResult k r

def execStop (who : Who) (slot : Fin 32) (s : State) : Res := s.access who (.stop who slot) fun s => .next (s.stopCmd who slot false)
def execStopNow (who : Who) (slot : Fin 32) (s : State) : Res := s.access who (.stopNow who slot) fun s => .next (s.stopCmd who slot true)

/-- STOP_NOTICE (R173): forwarded along the tree. (log 26 DEDUCED) -/
def State.stopNoticeIn (s : State) (port pid code : Nat) (imm : Bool) (dev cyc : Nat) : State :=
  let s := s.sendTree (some port) (.stopNotice pid code imm dev cyc)
  match s.slotOfPid pid with
  | none => s
  | some k =>
    let c := s.posCycle k
    let act := if ¬ s.stoppable k then 0 else if imm then 2 else 1
    let s := s.record k 3 Loc.device c (s.posStep k) act (dev + 2 ^ 12 * code + 2 ^ 20 * bit imm)
    let s := (s.firstFault k (if code = 0 then 3 else code) dev).raise (0x500 + k)
    if ¬ s.stoppable k then s
    else if imm then s.stopImmediate k
    else
      let n := max (nearest 27 c cyc) c
      if s.on A.pGate k ∧ ¬ s.preFirst k ∧ n = c then s.enterStopped k false (s.rd A.pDepth k + 15)
      else s.addStop ⟨k, n, code, false⟩

def execStopNotice (port : Fin 16) (pid code : BitVec 8) (imm : Bool) (dev : BitVec 12) (cyc : BitVec 27) (s : State) : Res := s.live fun s =>
  let s := s.heard port
  .next (s.stopNoticeIn port pid.toNat code.toNat imm dev.toNat cyc.toNat)

/-! ### Software holds and limits (R136, R153, R154, R490) -/

/-- A write of HOLD_CTRL. -/
def State.swhold (s : State) (k v : Nat) : State := ((s.wf (P k) HOLD_CTRL_SWHOLD (slice v 0 1)).softSettle k).holdNow k

def execSwholdWrite (who : Who) (slot : Fin 32) (val : Word) (s : State) : Res := s.access who (.swholdWrite who slot val) fun s =>
  .next (if s.maySlot who slot then (s.swhold slot val.toNat).okay else s.deny)

/-- HOLD_ITEM_LOC and HOLD_ITEM_IDX. (log 24 DEDUCED) -/
def State.holdItem (s : State) (k : Nat) : Nat × Nat :=
  match s.lateFirst k with
  | none => (0, 0)
  | some i =>
    (i.bed / 4096 + 2 ^ 3 * (i.bed / 256 % 16) + 2 ^ 7 * (i.bed / 16 % 16) + 2 ^ 11 * (i.bed % 16) +
      2 ^ 15 * (if i.kind ≤ 1 then i.cell else 0) + 2 ^ 19 * i.kind + 2 ^ 22 * i.step + 2 ^ 31,
     (if i.kind = 1 then 0 else i.landStep) + 2 ^ 9 * lowBit (s.lateNeed i) + 2 ^ 13 * i.bank)

/-- CAUSE: the oldest present cause. -/
def State.oldestCause (s : State) (k : Nat) : Nat := ((s.causes.find? fun c => c.1 = k).map (·.2)).getD 0

/-- Location that HOLD_TIMEOUT names. -/
def State.lateLoc (s : State) (k : Nat) : Loc :=
  match s.lateFirst k with
  | none => Loc.device
  | some i => if i.kind ≤ 1 then Loc.ofCell (16 * i.bed + i.cell) else Loc.ofBed i.bed

/-- A member that has stopped by a timeout pulls HOLD and all gate phases (R154). -/
def State.timedOut (s : State) (k : Nat) : State := ((s.addCause k 7).wr A.gatePull k 7).pullsChanged k

/-- A timer has reached HOLD_LIMIT. -/
def State.atLimit (s : State) (k : Nat) (timer : Arr) : Bool := s.rd A.limitNow k * 100 ≤ s.rd timer k

def State.holdTimeout (s : State) (k : Nat) : State :=
  let item := s.holdItem k
  let detail := item.1 + 2 ^ 32 * slice item.2 0 15 + 2 ^ 48 * s.oldestCause k
  (s.fault k 0x31 (s.lateLoc k) .i detail).timedOut k

def execHoldTimeout (slot : Fin 32) (s : State) : Res := s.live fun s =>
  .next (if s.rd A.pState slot = 3 ∧ s.atLimit slot A.holdTimer then s.holdTimeout slot else s)

/-- The partition waits at the gate, in the rounds of a start, or for a launch (R152, R376). (log 18 DEDUCED) -/
def State.gateWaiting (s : State) (k : Nat) : Bool :=
  s.rd A.pState k = 2 ∧ (s.on A.pGate k ∨ s.preFirst k ∨ s.on A.pLaunchWait k)

def execGateTimeout (slot : Fin 32) (s : State) : Res := s.live fun s =>
  .next (if s.gateWaiting slot ∧ s.atLimit slot A.gateTimer then
    (s.fault slot 0x32 Loc.device .i 0).timedOut slot
  else s)

/-! ### The plumb tree (R150) -/

def execPlumbUp (port : Fin 16) (pid : BitVec 8) (st : BitVec 4) (s : State) : Res := s.live fun s =>
  let s := s.heard port
  .next (if (s.rf 0 CHAIN_TREE_CHILDREN).testBit port then
    (s.wr A.plumbUp (256 * port + pid.toNat) st.toNat).plumbSync pid.toNat
  else s)

def execPlumbDown (port : Fin 16) (pid : BitVec 8) (st : BitVec 4) (s : State) : Res := s.live fun s =>
  let s := s.heard port
  .next (if s.treeParent = some port.val then
    s.treeChildren.foldl (fun s p => s.sendSym p (.plumbDown pid.toNat st.toNat)) (s.wr A.plumbDown pid.toNat st.toNat)
  else s)

/-! ### Loss of a member (R156 to R158) -/

/-- The partition freezes at once, at step `t`; it waits for no start any more (R158). -/
def State.freezeAt (s : State) (k t : Nat) : State :=
  let s := (s.wr A.pStartWait k 0).wr A.pImm k 0
  if s.preFirst k ∨ s.on A.pGate k then s else (s.wr A.pStep k t).wr A.pFrozen k 1

/-- The partition of slot `k` enters SEVERED. -/
def State.severSlot (s : State) (k lost reason port : Nat) (relayed : Bool) (detector : Nat) : State :=
  if s.rd A.pState k = 0 ∨ s.rd A.pState k = 5 then s
  else
    let v := lost + 2 ^ 12 * reason + 2 ^ 14 * port + 2 ^ 18 * bit relayed + 2 ^ 19 * detector
    let s := s.wr A.reg (P k + oSEVER_INFO) v
    let s := s.record k 0x33 Loc.device (s.posCycle k) (s.posStep k) 3 v
    let s := ((s.firstFault k 0x33 s.chainAddr).raise (0x500 + k)).raise (0x540 + k)
    let s := { s.flushRecs k with stops := s.stops.filter fun x => x.slot ≠ k }
    ((((s.freezeAt k (s.posStep k)).dropLate k).wr A.pState k 5).lnCancel k).pullsChanged k

/-- A loss that this device detected (R157): SEVER goes out over the other tree links. -/
def State.loseMember (s : State) (k lost reason port : Nat) (except : Option Nat) : State :=
  (s.sendTree except (.sever (s.rd A.pPid k) lost reason s.chainAddr)).severSlot k lost reason port false s.chainAddr

def execRollCallLoss (slot : Fin 32) (pos : Fin 16) (s : State) : Res := s.live fun s =>
  .next (if s.plumbMode slot = 1 ∧ 1 < s.rd A.pMembers slot ∧ s.loaded slot ∧
      pos.val ≠ s.rf 0 PLUMB_BUS_STATUS_BUS_POS then
    (s.wf 0 PLUMB_BUS_STATUS_PRESENT (patch (s.rf 0 PLUMB_BUS_STATUS_PRESENT) pos 1 0)).loseMember slot pos 2 0 none
  else s)

def execSever (port : Fin 16) (pid : BitVec 8) (lost : BitVec 12) (reason : BitVec 2) (detector : BitVec 12) (s : State) : Res := s.live fun s =>
  let s := s.heard port
  let s := s.sendTree (some port) (.sever pid.toNat lost.toNat reason.toNat detector.toNat)
  .next (match s.slotOfPid pid.toNat with
    | none => s
    | some k => s.severSlot k lost.toNat reason.toNat port true detector.toNat)

/-! ### Partition reset (R436, R437, R494) -/

/-- Flags of the partition's tasks clear, and READY tasks return to WAIT (R232). -/
def State.resetTasks (s : State) (pid : Nat) : State :=
  let mine (t : Nat) : Bool := slice (s.rd A.tCfgNow t) 16 1 = 0 ∧ slice (s.rd A.tCfgNow t) 8 8 = pid
  (s.listed A.tState).foldl (fun s (t, v) => if v = 2 ∧ mine t then s.taskWait t else s) (s.drop A.tFlags mine)

/-- What image load and partition reset clear in the stores of a slot's walls (R34, R36, R38, R47, R67). -/
def State.clearStores (s : State) (k : Nat) : State :=
  let mine (b : Nat) : Bool := s.slotOfBed b = some k
  let s := ((s.drop A.state fun i => mine (i / 256)).drop A.shadow fun i => mine (i / 256)).drop A.err fun key =>
    (key % 512 = A.state.code ∨ key % 512 = A.shadow.code) ∧ mine (key / 512 / 256)
  let s := (s.listed A.init).foldl (fun s (i, v) =>
    if mine (i / 256) then (s.wrE A.state i v).wrE A.shadow i v else s) s
  let s := (s.drop A.hist fun i => mine (i / 512)).drop A.wflag fun i => mine (i / 512)
  let s := (s.drop A.err fun key =>
    (key % 512 = A.hist.code ∨ key % 512 = A.wflag.code) ∧ mine (key / 512 / 512)).drop A.probe fun c => mine (c / 16)
  let s := { s with histPend := s.histPend.filter fun p => ¬ mine p.bed }
  ((s.clearPresence k).clearPorts k).bumpEpochs k

/-- Nothing of the slot is in flight any more. (log 135 DEDUCED) -/
def State.clearFlight (s : State) (k : Nat) : State :=
  { s with flight := s.flight.filter fun b => b.slot ≠ k
           late := s.late.filter fun i => i.slot ≠ k
           stops := s.stops.filter fun x => x.slot ≠ k
           stepRecs := s.stepRecs.filter fun x => x.slot ≠ k
           bayReq := s.bayReq.filter fun r => r.slot ≠ k
           bayRet := s.bayRet.filter fun r => r.slot ≠ k
           startLines := s.startLines.filter fun x => x.1 ≠ k
           causes := s.causes.filter fun c => c.1 ≠ k }

/-- The slot's own bookkeeping at its reset. -/
def State.clearSlot (s : State) (k : Nat) : State :=
  [A.pCycle, A.pStep, A.pFrozen, A.pGate, A.pRound, A.pBegun, A.pLimit, A.pImm, A.remoteHold, A.pLaunchWait, A.pStartWait,
    A.esReloaded, A.recSeq, A.holdTimer, A.gateTimer, A.gateRel, A.gateMax, A.lnHold, A.feedSeq, A.stepFresh,
    A.heldStep, A.recBack].foldl (fun s a => s.wr a k 0)
    ((s.drop A.recCnt fun i => i % 32 = k).drop A.linkDone fun i => i / 512 % 32 = k)

/-- The table of partition reset. (log 19 DEDUCED, 135 DEDUCED) -/
def State.resetPart (s : State) (k : Nat) : State :=
  let s := s.shCancel k
  let s := if s.stoppable k then (s.stopImmediate k) else s
  let s := if s.stoppable k then s.enterStopped k true (s.rd A.pStep k) else s
  let s := (s.lnCancel k).resetTasks (s.rd A.pPid k)
  let s := ((s.recOff k).trigReset k).clearFlight k
  let s := (s.clearStores k).clearSlot k
  let s := s.each (s.rd A.esLoadLen k) fun s i => s.wrE A.esTab (4096 * k + i) (s.rd A.esLoad (4096 * k + i))
  let s := (s.wr A.esLen k (s.rd A.esLoadLen k)).wr A.esIdx k (s.rd A.esStart k)
  let s := (s.setPair (P k + oHOLD_TIME_LO) 0).setPair (P k + oGATE_WAIT_LO) 0
  let s := ((s.wf (P k) HOLD_COUNT_COUNT 0).wr A.reg (P k + oSEVER_INFO) 0).wf (P k) REC_STATUS_BACKLOG 0
  let s := (clearFaultStatus s k).wr A.reg (P k + oFAULT_COUNT) 0
  let s := (s.wr A.pState k 1).wr A.gatePull k (idlePull 0)
  ((s.softSettle k).pullsChanged k)

def execPartReset (who : Who) (slot : Fin 32) (s : State) : Res := s.accessAs who (.partReset who slot) 6 fun s =>
  let may : Bool := match who with
    | .vf _ => s.maySlot who slot
    | _ => s.pfRights who
  .next (if may then (if s.loaded slot then s.resetPart slot else s).okay else s.deny)

/-! ### Debug mode (R166) -/

/-- Every partition of the device is IDLE or STOPPED. -/
def State.allIdle (s : State) : Bool := (List.range 32).all fun k => s.rd A.pState k = 0 ∨ s.rd A.pState k = 1 ∨ s.rd A.pState k = 4

def State.debugWrite (s : State) (v : Nat) : State :=
  if slice v 0 1 = s.rf 0 DEBUG_CTRL_DEBUG then s
  else if ¬ s.allIdle then s.wf 0 DEBUG_CTRL_REFUSED 1
  else ((s.wf 0 DEBUG_CTRL_DEBUG (slice v 0 1)).wf 0 DEBUG_CTRL_ACTIVE (slice v 0 1)).wf 0 DEBUG_CTRL_REFUSED 0

/-- A write of DEBUG_CTRL; one of another initiator than the physical function is ignored. (log 27 DEDUCED) -/
def State.debugCtrl (s : State) (who : Who) (v : Nat) : State := (if s.pfRights who then s.debugWrite v else s).okay

def execDebugCtrlWrite (who : Who) (val : Word) (s : State) : Res := s.access who (.debugCtrlWrite who val) fun s =>
  .next (s.debugCtrl who val.toNat)

end Sys2Proof.Machine
end

