-- ==== Sys2Proof/Machine/Load.lean ====
section
/-! DEFINITION. Sections and the load of a partition image (chapters 07 and 14, R118, R119, R164, R165, R341 to R344,
R494). -/

namespace Sys2Proof.Machine

open Reg

/-! ### Byte strings -/

/-- The `n` bytes from offset `o`, little-endian; a byte beyond the end reads as 0. -/
def leAt (b : List Byte) (o n : Nat) : Nat := ((b.drop o).take n).foldr (fun x v => x.toNat + 256 * v) 0

/-- The same, big-endian: a byte string in the order of its standard. -/
def beAt (b : List Byte) (o n : Nat) : Nat := ((b.drop o).take n).foldl (fun v x => 256 * v + x.toNat) 0

/-! ### Sections (R341, R342) -/

/-- Results that BOOT_STATUS names. -/
def bootOk : Nat := 0
def bootNoContainer : Nat := 1
def bootFormat : Nat := 2
def bootSignature : Nat := 3
def bootRevoked : Nat := 4
def bootRollback : Nat := 5
def bootDecrypt : Nat := 6
def bootHash : Nat := 7
def bootKey : Nat := 8
def bootLc : Nat := 9
def bootLoad : Nat := 10
def bootNvme : Nat := 11
def bootChain : Nat := 12

/-- BOOT_STATUS shows the first failure (R333). -/
def State.bootFail (s : State) (r : Nat) : State :=
  if s.rf 0 BOOT_STATUS_RESULT = 0 then s.wf 0 BOOT_STATUS_RESULT r else s

/-- FUSE_KEK, the key RAM: usable (R342). -/
def State.fuseKekUsable (s : State) : Bool := (s.rd A.fuseFlags 0).testBit 0 ∧ ¬ (s.rd A.fuseFlags 0).testBit 1
def State.keyRamUsable (s : State) : Bool := s.on A.keyRamOk 0 ∧ (s.rd A.fuseFlags 0).testBit 2

/-- The key-encryption key that a section names; `design`: KEY_POLICY must allow the source as well. -/
def State.kek (s : State) (keyRam design : Bool) : Option Nat :=
  let allowed : Bool := ¬ design ∨ (s.rd A.keyPolicy 0).testBit (bit keyRam)
  if keyRam then (if s.keyRamUsable ∧ allowed then some (s.rd A.keyRam 0) else none)
  else if s.fuseKekUsable ∧ allowed then some (s.rd A.fuseKek 0) else none

/-- Verify and decrypt a section: a result of BOOT_STATUS, and the plaintext. -/
def State.openSection (s : State) (sec : Section) (design : Bool) : Nat × List Byte :=
  if sec.enc then
    match s.kek (sec.flags.testBit 0) design with
    | none => (bootKey, [])
    | some key =>
      match Config.unwrap key sec.wrapped with
      | none => (bootDecrypt, [])
      | some content =>
        match Config.gcmOpen content sec.iv sec.aad sec.tag sec.body with
        | none => (bootDecrypt, [])
        | some plain => if Config.sha384 plain = sec.hash then (bootOk, plain) else (bootHash, [])
  else if design ∧ (s.rd A.keyPolicy 0).testBit 2 then (bootKey, [])
  else if Config.sha384 sec.body = sec.hash then (bootOk, sec.body) else (bootHash, [])

/-! ### Load records (R344) -/

/-- A load record. -/
structure LoadRec where
  typ : Nat
  die : Nat
  loc : Nat
  index : Nat
  count : Nat
  data : List Byte
  deriving DecidableEq, Repr

/-- Bytes per entry of a TYPE; none for an unknown one. -/
def recEntryBytes (t : Nat) : Option Nat := [none, some 16, some 8, some 8, some 2, some 8, some 4, some 4, some 8].getD t none

/-- The records in a byte string, at most `fuel` of them; none where one is cut short or has an unknown TYPE. -/
def loadRecs : Nat → List Byte → Option (List LoadRec)
  | 0, b => if b.isEmpty then some [] else none
  | fuel + 1, b =>
    if b.isEmpty then some []
    else match recEntryBytes (leAt b 0 1) with
      | none => none
      | some n =>
        let c := leAt b 12 4
        let len := (n * c + 7) / 8 * 8
        if b.length < 16 + len then none
        else (loadRecs fuel (b.drop (16 + len))).map fun r =>
          ⟨leAt b 0 1, leAt b 1 1, leAt b 4 4, leAt b 8 4, c, (b.drop 16).take (n * c)⟩ :: r

/-- Entry `i` of a record. -/
def LoadRec.entry (r : LoadRec) (i : Nat) : Nat :=
  let n := (recEntryBytes r.typ).getD 0
  leAt r.data (n * i) n

def LoadRec.entries (r : LoadRec) : List (Nat × Nat) := (List.range r.count).map fun i => (i, r.entry i)

/-- Table kind and first lane of a record of TYPE 6 or 7. -/
def LoadRec.lane (r : LoadRec) : Option (Nat × Nat) :=
  if r.typ = 6 then
    match mortarPlace r.die r.loc with
    | some (kind, lane, false) => some (kind, lane)
    | _ => none
  else (mortarPlace r.die (patch r.loc 25 4 7)).map fun x => (x.1, x.2.1)

/-- Course and bed that a LOC of the bed access port names (flat). -/
def LoadRec.course (r : LoadRec) : Nat := 256 * r.die + 16 * slice r.loc 8 4 + slice r.loc 4 4
def LoadRec.bed (r : LoadRec) : Nat := 16 * r.course + slice r.loc 0 4
def LoadRec.cell (r : LoadRec) : Nat := 16 * r.bed + slice r.loc 12 4

/-- Lanes that LANE of MORTAR_ACC_LOC numbers within the unit that holds a table kind. -/
def laneCount : Nat → Nat
  | 0 => 16
  | 1 => 320
  | 2 => 1280
  | 3 => 5120
  | 4 => 2048
  | _ => 512

/-- An entry with a reserved bit set, or an input or source outside its table's range. -/
def LoadRec.entryBad (r : LoadRec) (v : Nat) : Bool :=
  match r.typ with
  | 1 => 2 ^ 96 ≤ v
  | 2 => 2 ^ 48 ≤ v
  | 6 => match r.lane with
    | some (kind, lane) => (kind ≠ 6 ∧ 2 ^ 16 ≤ v) ∨ Sys2Proof.Machine.entryBad kind lane v
    | none => true
  | 7 => slice v 1 7 ≠ 0 ∨ slice v 19 13 ≠ 0
  | _ => false

/-- A malformed record (R165, R344). -/
def LoadRec.bad (r : LoadRec) : Bool :=
  let past : Bool := match r.typ with
    | 4 => 256 < r.index + r.count
    | 5 => 131072 < r.index + r.count
    | 7 => match r.lane with
      | some (kind, lane) => laneCount kind < laneNo kind lane + r.count
      | none => true
    | 8 => 4096 < r.index + r.count
    | _ => 512 < r.index + r.count
  7 < r.die ∨ past ∨ r.entries.any fun e => r.entryBad e.2

/-- The wall that a record addresses. -/
def LoadRec.wall (r : LoadRec) : Option Nat :=
  match r.typ with
  | 6 | 7 => match r.lane with
    | some (kind, lane) => if kind < 3 then some (laneWall kind lane) else none
    | none => none
  | 8 => none
  | _ => some (16 * r.die + slice r.loc 8 4)

/-- Put the entries of a record in place for slot `k` with partition `pid`, which the device writes into every OWNER. -/
def State.putRec (s : State) (k pid : Nat) (r : LoadRec) : State :=
  r.entries.foldl (fun s (i, v) =>
    match r.typ with
    | 1 => s.wrE A.imem (512 * r.cell + r.index + i) v
    | 2 => s.wrE A.wimem (512 * r.bed + r.index + i) v
    | 3 => s.wrE A.pimem (512 * r.course + r.index + i) v
    | 4 => s.wr A.init (256 * r.bed + r.index + i) v
    | 5 => s.bayWr (16 * r.die + slice r.loc 8 4) (r.index + i) v
    | 6 => match r.lane with
      | some (kind, lane) => s.wrE (A.mTab kind) (512 * lane + r.index + i) v
      | none => s
    | 7 => match r.lane with
      | some (kind, lane) => s.putLaneCfg kind (lane + i) (patch v 8 8 pid)
      | none => s
    | _ => s.wr A.esLoad (4096 * k + r.index + i) v) s

/-! ### The image (R164, R165) -/

def imgMembers (b : List Byte) : Nat := leAt b 0x10 2
def imgTable (b : List Byte) : Nat := leAt b 0x28 4

/-- Members of an image, for slot `k`. -/
def imgMemberList (b : List Byte) (k : Nat) : List Member :=
  (List.range (imgMembers b)).map fun i =>
    let o := imgTable b + 24 * i
    ⟨k, leAt b o 2 % 2 ^ 12, leAt b (o + 2) 2, leAt b (o + 8) 16⟩

/-- The load records follow the member table. -/
def imgRecs (b : List Byte) : Option (List LoadRec) :=
  loadRecs b.length (b.drop (imgTable b + 24 * imgMembers b))

def imgFormatBad (b : List Byte) : Bool :=
  leAt b 0 4 ≠ 0x49384544 ∨ leAt b 4 2 ≠ 1 ∨ leAt b 6 2 ≠ 0x40 ∨ leAt b 9 1 ≠ 0 ∨ leAt b 0x12 2 ≠ 0 ∨ leAt b 0x2C 20 ≠ 0

def imgDepth (b : List Byte) : Nat := leAt b 0x0A 2
def imgEseqLen (b : List Byte) : Nat := leAt b 0x0C 2
def imgEseqStart (b : List Byte) : Nat := leAt b 0x0E 2
def imgMinPl (b : List Byte) : Nat := leAt b 8 1

/-- Wall mask of this device. -/
def State.imgMask (s : State) (b : List Byte) : Nat :=
  (((imgMemberList b 0).filter fun m => m.addr = s.chainAddr).headD ⟨0, 0, 0, 0⟩).mask

def State.imgGeometryBad (s : State) (b : List Byte) (recs : List LoadRec) : Bool :=
  imgDepth b < 64 ∨ 512 < imgDepth b ∨ imgDepth b % 16 ≠ 0 ∨ imgEseqLen b = 0 ∨ 4096 < imgEseqLen b ∨
  imgEseqLen b ≤ imgEseqStart b ∨ ((imgMemberList b 0).filter fun m => m.addr = s.chainAddr).length ≠ 1 ∨
  recs.any fun r => r.wall.any fun w => ¬ (s.imgMask b).testBit w



/-- The walls of a mask. -/
def wallsIn (mask : Nat) : List Nat := (List.range 128).filter mask.testBit

/-- HOLD_LIMIT holds 1 to 0xD693_A400 (R153). -/
def clampLimit (v : Nat) : Nat := if v = 0 then 1 else min v 0xD693A400

/-- The load of a record of a die's switch, module or link tables powers up the domain that holds them (R424). -/
def State.recDomain (s : State) (r : LoadRec) : State :=
  match r.lane with
  | some (kind, lane) =>
    if kind < 3 then s else s.domUp (laneDie kind lane) (if kind < 5 then domFab else domLink)
  | none => s

/-- The tables and walls of slot `k` with the image in place. -/
def State.placeImage (s : State) (k pid : Nat) (b : List Byte) (recs : List LoadRec) : State :=
  let mask := s.imgMask b
  let s := State.wr { s with members := (s.members.filter fun m => m.slot ≠ k) ++ imgMemberList b k } A.pPid k pid
  let s := (wallsIn mask).foldl (fun s w => ((s.wr A.wallOwner w (k + 1)).domUp (w / 16) domFab).domUp (w / 16) domMem)
    (s.wr A.pState k 1)
  let s := s.drop A.init fun i => mask.testBit (i / 65536)
  let s := s.drop A.esLoad fun i => i / 4096 = k
  let s := recs.foldl State.recDomain s
  recs.foldl (fun s r => s.putRec k pid r) s

/-- Every entry of the partition's tables keeps R118. -/
def State.allConfined (s : State) (pid : Nat) : Bool :=
  (List.range 7).all fun kind => (s.tableEntries kind).all fun x =>
    s.laneOwner kind x.1 ≠ some pid ∨ s.entryConfined kind x.1 x.2.2

/-- A LANE_CFG record gives an owner to a lane that another hosted partition owns (R118, R165): `s` is the device before
the load. -/
def State.recForeign (s : State) (r : LoadRec) : Bool :=
  match r.lane with
  | some (kind, lane) => r.typ = 7 ∧ 3 ≤ kind ∧ r.entries.any fun x => slice x.2 16 1 = 1 ∧ (s.laneSlot kind (lane + x.1)).isSome
  | none => false

/-- An entry of the load breaks R118 (R165): `t` is the device with the image in place. -/
def State.recBreaks (t : State) (r : LoadRec) : Bool :=
  match r.lane with
  | some (kind, lane) => r.typ = 6 ∧ r.entries.any fun x => ¬ t.entryConfined kind lane x.2
  | none => false

/-- A used segment of the partition lacks the register its class requires at the lowest valid level (R119). -/
def State.imgMregMissing (s : State) (pid pl : Nat) : Bool :=
  [0, 1, 2, 3].any fun kind => (s.tableEntries kind).any fun x =>
    s.laneOwner kind x.1 = some pid ∧ s.mregMissing kind x.1 pl

/-- RESULT of a load of plaintext `b` as partition `pid`; `k` the slot it would take. (log 76 DEDUCED) -/
def State.loadCheck (s : State) (b : List Byte) (pid : Nat) (k : Option Nat) : Nat :=
  match imgRecs b with
  | none => 1
  | some recs =>
    if imgFormatBad b ∨ recs.any (·.bad) then 1
    else if s.imgGeometryBad b recs then 2
    else match k with
      | none => 3
      | some k =>
        if (s.slotOfPid pid).isSome then 8
        else if (wallsIn (s.imgMask b)).any fun w => (s.slotOfWall w).isSome then 4
        else if s.rf 0 PL_STATUS_LEVEL < imgMinPl b then 5
        else
          let t := s.placeImage k pid b recs
          if t.imgMregMissing pid (imgMinPl b) then 6
          else if ¬ t.allConfined pid ∨ recs.any t.recBreaks ∨ recs.any s.recForeign then 7
          else 0

/-- The recorder's region and its pointers, which a load does not change (R260). (log 144 DEDUCED) -/
def keptRegion (o : Nat) : Bool := oREC_REGION ≤ o ∧ o ≤ oREC_SNAP_CYC_HI

/-- The registers of a partition control block return to their reset values (R494), but for the region. (log 144 DEDUCED) -/
def State.resetBlock (s : State) (k : Nat) : State :=
  [A.reg, A.hiLatch, A.heldLo, A.lastLo].foldl (fun s a => s.drop a fun o =>
    0x100000 ≤ o ∧ (o - 0x100000) / 0x1000 = k ∧ ¬ keptRegion (o % 0x1000)) s

/-- A load that passes: what image load sets and clears. -/
def State.install (s : State) (k pid : Nat) (b : List Byte) (recs : List LoadRec) (auto stream : Bool) : State :=
  let s := (s.shCancel k).epochShort k
  let s := s.placeImage k pid b recs
  let s := (s.lnCancel k).resetTasks pid
  let s := ((s.recOff k).trigReset k).clearFlight k
  let s := (s.clearStores k).clearSlot k
  let s := (s.resetBlock k).drop A.esStage fun i => i / 4096 = k
  let s := (s.wr A.pDepth k (imgDepth b)).wr A.pImage k (leAt b 0x20 8)
  let s := (s.wr A.pMinPl k (imgMinPl b)).wr A.pMembers k (imgMembers b)
  let s := ((s.wr A.esLoadLen k (imgEseqLen b)).wr A.esLen k (imgEseqLen b)).wr A.esStart k (imgEseqStart b)
  let s := s.wr A.esIdx k (imgEseqStart b)
  let s := s.each (imgEseqLen b) fun s i => s.wrE A.esTab (4096 * k + i) (s.rd A.esLoad (4096 * k + i))
  let s := s.wf (P k) HOLD_LIMIT_LIMIT_US (clampLimit (leAt b 0x14 4))
  let s := s.wr A.reg (P k + oFAULT_CFG) (leAt b 0x18 4 &&& 0x7F77)
  let s := (s.wr A.gatePull k (idlePull 0)).wr A.pWalls k (wallsIn (s.imgMask b)).length
  let s := (s.wr A.autoStart k (bit auto)).wr A.fromStream k (bit stream)
  (s.epochOpen k).pullsChanged k

/-- Load plaintext `b` into the lowest free slot, or refuse it; IMAGE_LOAD_STATUS shows the result (R165). -/
def State.loadImage (s : State) (b : List Byte) (pid : Nat) (auto stream : Bool) : Nat × State :=
  let slot := firstIx 32 fun k => ¬ s.loaded k
  let r := s.loadCheck b pid slot
  match r, slot, imgRecs b with
  | 0, some k, some recs =>
    (0, ((s.install k pid b recs auto stream).wf 0 IMAGE_LOAD_STATUS_RESULT 0).wf 0 IMAGE_LOAD_STATUS_SLOT k)
  | _, _, _ => (r, s.wf 0 IMAGE_LOAD_STATUS_RESULT r)

/-- Verify, decrypt and load a PARTITION section: a result of BOOT_STATUS (R341, R344). (log 149 DESIGN CHOICE) -/
def State.loadSection (s : State) (sec : Section) (stream : Bool) : Nat × State :=
  let o := s.openSection sec true
  if o.1 ≠ bootOk then (o.1, s)
  else
    let x := s.loadImage o.2 (slice sec.flags 8 8) (stream && sec.flags.testBit 1) stream
    (if x.1 = 0 then bootOk else bootLoad, x.2)

/-- The slot gives up its image (R347): its walls and lanes belong to nobody. (log 77 DEDUCED) -/
def State.freeSlot (s : State) (k : Nat) : State :=
  let pid := s.rd A.pPid k
  let s := ((s.shCancel k).epochShort k).lnCancel k
  let s := ((s.recOff k).trigReset k).clearFlight k
  let s := (s.clearSlot k).wr A.gatePull k 0
  let s := (s.pullsChanged k).drop A.wallOwner fun w => s.slotOfWall w = some k
  let s := [3, 4, 5, 6].foldl (fun s kind => s.drop (A.mOwn kind) fun l => s.rd (A.mOwn kind) l = pid + 2 ^ 8) s
  let s := { s with members := s.members.filter fun m => m.slot ≠ k }
  [A.pState, A.pPid, A.pImage, A.pDepth, A.pMembers, A.pMinPl, A.pWalls, A.autoStart, A.fromStream].foldl (fun s a => s.wr a k 0) s

end Sys2Proof.Machine
end

