-- ==== Sys2Proof/Machine/Newt.lean ====
section
/-! DEFINITION. Newt, which tests and repairs bays and bed memories (chapter 08, R191 to R198). -/

namespace Sys2Proof.Machine

open Reg

/-! ### The decision table (R193, R194) -/

/-- A failure or a logged correction: row, column select, bit. -/
structure NewtCell where
  row : Nat
  col : Nat
  bitNo : Nat
  deriving DecidableEq, Repr

/-- Verdicts, with their code in the Newt record (R196); PASS is 0. -/
def vTransient : Nat := 1
def vCell : Nat := 2
def vSense : Nat := 3
def vWord : Nat := 4
def vMultiple : Nat := 5
def vUnrepaired : Nat := 6

/-- A judged group of failures: its verdict, its first failure, and the repair it takes: 0 none, 1 spare row, 2 spare
column. -/
structure Judged where
  verdict : Nat
  at_ : NewtCell
  repair : Nat
  deriving DecidableEq, Repr

/-- Rows 3 to 6 of the decision table, for a group of failures; none where it matches none of them. -/
def judgeGroup (cellRepair : Bool) (log : List NewtCell) : List NewtCell → Option Judged
  | [] => none
  | x :: r =>
    let same (p : NewtCell → Bool) : Bool := r.all p
    if same (fun y => decide (y.col = x.col ∧ y.bitNo = x.bitNo)) ∧ r.any fun y => decide (y.row ≠ x.row) then
      some ⟨vSense, x, 2⟩
    else if r.isEmpty then
      if log.any fun e => decide (e.col = x.col ∧ e.bitNo = x.bitNo ∧ e.row ≠ x.row) then some ⟨vSense, x, 2⟩
      else some ⟨vCell, x, if cellRepair then 1 else 0⟩
    else if same (fun y => decide (y.row = x.row)) ∧ r.any fun y => decide (y.col ≠ x.col) then some ⟨vWord, x, 1⟩
    else none

/-- The groups of a MULTIPLE pattern: failures that share a column select and bit over two or more rows, then the others
by row. (log 145 DESIGN CHOICE) -/
def newtGroups (f : List NewtCell) : List (List NewtCell) :=
  let inColumn (x : NewtCell) : Bool := f.any fun y => y.col = x.col ∧ y.bitNo = x.bitNo ∧ y.row ≠ x.row
  let cols := ((f.filter inColumn).map fun x => (x.col, x.bitNo)).eraseDups
  let rest := f.filter fun x => ¬ inColumn x
  let rows := (rest.map (·.row)).eraseDups
  (cols.map fun c => f.filter fun x => x.col = c.1 ∧ x.bitNo = c.2) ++
    (rows.map fun r => rest.filter fun x => x.row = r)

/-- The verdict on a region from its failures, its own log entries and those of the sub-array: the verdict's code and the
judged groups; none where a group matches no row. A TRANSIENT names the first entry of the log. (log 145 DESIGN CHOICE) -/
def newtVerdict (cellRepair : Bool) (fails own log : List NewtCell) : Nat × Option (List Judged) :=
  match fails, own with
  | [], [] => (0, some [])
  | [], x :: _ => (vTransient, some [⟨vTransient, x, 0⟩])
  | f, _ =>
    match judgeGroup cellRepair log f with
    | some j => (j.verdict, some [j])
    | none => (vMultiple, (newtGroups f).mapM (judgeGroup cellRepair log))

/-! ### The unit under test -/

def State.newtPhase (s : State) (d : Nat) : Nat := s.rf (D d) NEWT_STATUS_PHASE
def State.toPhase (s : State) (d p : Nat) : State := s.wf (D d) NEWT_STATUS_PHASE p
def State.newtKind (s : State) (d : Nat) : Nat := s.rf (D d) NEWT_STATUS_KIND
def State.newtWall (s : State) (d : Nat) : Nat := 16 * d + s.rf (D d) NEWT_STATUS_WALL
def State.newtUnit (s : State) (d : Nat) : Nat := s.rf (D d) NEWT_STATUS_UNIT

/-- Sub-array of a bay region, or bed: the unit that has spares (R182, R197). -/
def State.repairUnit (s : State) (d : Nat) : Nat := if s.newtKind d = 0 then s.newtUnit d / 16 else s.newtUnit d

/-- Repairs that take spares of the unit under test. -/
def State.unitRepairs (s : State) (d : Nat) (column : Bool) : List Repair :=
  s.repairs.filter fun r =>
    r.die = d ∧ r.kind = s.newtKind d ∧ r.wall = s.newtWall d ∧ r.unit = s.repairUnit d ∧ r.column = column

/-- Spares of a unit in each direction. -/
def spares : Nat := 4

/-- Map the spare that a judged group takes. (log 36 DESIGN CHOICE) -/
def State.mapSpare (s : State) (d : Nat) (j : Judged) : State :=
  if j.repair = 0 then s
  else
    let column : Bool := j.repair = 2
    let used := (s.unitRepairs d column).map (·.spare)
    let spare := (firstIx spares fun i => ¬ used.contains i).getD 0
    { s with repairs := s.repairs ++ [⟨d, s.newtKind d, s.newtWall d, s.repairUnit d, column,
        if column then 128 * j.at_.col + j.at_.bitNo else j.at_.row, spare, false, false⟩] }

/-- REPAIRS of NEWT_STATUS: soft repairs in force. -/
def State.countRepairs (s : State) (d : Nat) : State :=
  s.wf (D d) NEWT_STATUS_REPAIRS ((s.repairs.filter fun r => r.die = d ∧ r.active ∧ ¬ r.fused).length)

/-- Push a Newt record (R196). -/
def State.newtRecord (s : State) (d verdict repair spare : Nat) (x : NewtCell) : State :=
  let kind := s.newtKind d
  let unit := s.newtUnit d
  let w0 := verdict + 2 ^ 3 * kind + 2 ^ 4 * (s.newtWall d % 16) + 2 ^ 8 * (unit / 16) + 2 ^ 12 * x.row +
    2 ^ 21 * (if kind = 0 then x.col else unit % 16) + 2 ^ 25 * x.bitNo + 2 ^ 32 * repair + 2 ^ 34 * spare
  s.pushRecord (128 * d + s.rf (D d) NEWT_CTRL_LOG_QUEUE) none [w0, s.timeNs]

/-- The spare that a judged group has just taken. -/
def State.lastSpare (s : State) (j : Judged) : Nat := if j.repair = 0 then 0 else ((s.repairs.getLast?).map (·.spare)).getD 0

/-- Groups of a verdict that a record names: those it repairs; where it repairs none, the first. (log 145 DESIGN CHOICE) -/
def recorded (js : List Judged) : List Judged := if js.all (·.repair = 0) then js.take 1 else js.filter (·.repair ≠ 0)

/-- Map the spares of a verdict and push its records. -/
def State.newtRepair (s : State) (d verdict : Nat) (js : List Judged) : State :=
  (recorded js).foldl (fun s j =>
    let s := s.mapSpare d j
    s.newtRecord d verdict j.repair (s.lastSpare j) j.at_) s

/-- UNREPAIRED: the region is pinned (R194); the record names the first failure. (log 145 DESIGN CHOICE) -/
def State.newtPin (s : State) (d : Nat) (x : NewtCell) : State :=
  let s := s.newtRecord d vUnrepaired 3 0 x
  ((s.toPhase d 6).wf (D d) NEWT_STATUS_PINNED 1).raise (0x5B0 + d)

/-- Log 178 DESIGN CHOICE. -/
def State.newtUsed (s : State) (d verdict : Nat) (js : List Judged) : State :=
  let mine (e : CorrLog) : Bool := e.wall = s.newtWall d ∧ e.sub = s.repairUnit d ∧ s.newtKind d = 0
  let used (e : CorrLog) : Bool :=
    mine e ∧ ((verdict = vTransient ∧ e.row / 32 = s.newtUnit d % 16) ∨
      js.any fun j => j.verdict = vSense ∧ j.at_.col = e.col ∧ j.at_.bitNo = e.bit)
  { s with corrLog := s.corrLog.filter fun e => ¬ used e }

/-- The end of MARCH, with the failures it found, and the verdict that REPAIR forms. (log 39 DEDUCED) -/
def State.newtJudge (s : State) (d : Nat) (fails : List NewtCell) : State :=
  let bay := s.newtKind d = 0
  let here (x : NewtCell) : Bool := ¬ bay ∨ x.row / 32 = s.newtUnit d % 16
  let log := (s.corrLog.filter fun e => bay ∧ e.wall = s.newtWall d ∧ e.sub = s.repairUnit d).map fun e =>
    (⟨e.row, e.col, e.bit⟩ : NewtCell)
  let f := (fails.filter here).eraseDups
  let (v, js) := newtVerdict (s.rf (D d) NEWT_CTRL_CELL_REPAIR = 1) f (log.filter here) log
  let first := f.headD ⟨0, 0, 0⟩
  match js with
  | none => s.newtPin d first
  | some js =>
    let need (r : Nat) := (js.filter (·.repair = r)).length
    if spares < (s.unitRepairs d false).length + need 1 ∨ spares < (s.unitRepairs d true).length + need 2 then
      s.newtPin d first
    else
      ((s.newtUsed d v js).newtRepair d v js).toPhase d 3

def execNewtMarchEnd (die : Fin 8) (fails : List MarchFail) (s : State) : Res := s.live fun s =>
  .next (if s.newtPhase die = 2 then s.newtJudge die (fails.map fun x => ⟨x.row, x.col, x.bit⟩) else s)

/-! ### The phases (R191, R197, R198) -/

/-- The bed memories of a wall may be tested. -/
def State.wallIdle (s : State) (w : Nat) : Bool :=
  match s.slotOfWall w with
  | none => true
  | some k => (s.rd A.pState k = 1 ∨ s.rd A.pState k = 4) ∧ ¬ s.on A.pStartWait k

/-- The sweep takes unit `i` of die `d`. -/
def State.sweepTakes (s : State) (d i : Nat) : Bool :=
  if i < 4096 then s.rf (D d) NEWT_CTRL_EN = 1
  else s.rf (D d) NEWT_CTRL_IDLE_SCRUB = 1 ∧ s.wallIdle (16 * d + (i - 4096) / 256)

/-- The next unit of the sweep from `i` on. -/
def State.sweepFrom (s : State) (d i : Nat) : Option Nat :=
  ((List.range 8192).map fun j => (i + j) % 8192).find? (s.sweepTakes d)

/-- Begin the test of unit `i`. -/
def State.newtBegin (s : State) (d i : Nat) : State :=
  let kind := if i < 4096 then 0 else 1
  ((((s.toPhase d 1).wf (D d) NEWT_STATUS_KIND kind).wf (D d) NEWT_STATUS_WALL (i / 256 % 16)).wf
    (D d) NEWT_STATUS_UNIT (i % 256))

/-- The interval since the last test has passed. -/
def State.newtRested (s : State) (d : Nat) : Bool :=
  s.rd A.newtEnd d = 0 ∨ s.rd A.newtEnd d - 1 + s.rf (D d) NEWT_CTRL_INTERVAL_MS * 1000000 ≤ s.mono

/-- Repairs of die `d` that are rows or columns take effect (R194). -/
def State.repairsActive (s : State) (d : Nat) (column : Bool) : State :=
  State.countRepairs { s with
    repairs := s.repairs.map fun r => if r.die = d ∧ r.column = column then { r with active := true } else r } d

/-- A column repair of die `d` has yet to be filled. -/
def State.fillDue (s : State) (d : Nat) : Bool := s.repairs.any fun r => r.die = d ∧ r.column ∧ ¬ r.active

/-- REPAIR ends: rows switch to their spares; with a column repair FILL begins, else RESTORE. (log 39 DEDUCED) -/
def State.newtRepaired (s : State) (d : Nat) : State :=
  if s.newtPhase d ≠ 3 then s else (s.repairsActive d false).toPhase d (if s.fillDue d then 4 else 5)

/-- NEWT_REGION_START: the requested unit, otherwise the next of the sweep. A request for beds ends when its wall is no
longer idle. -/
def State.newtStart (s : State) (d : Nat) : State :=
  if s.newtPhase d ≠ 0 ∨ ¬ s.newtRested d then s
  else
    let r := s.rd A.newtReq d
    let i := r % 2 ^ 16 - 1
    let left := r / 2 ^ 16
    if r ≠ 0 ∧ (i < 4096 ∨ s.wallIdle (16 * d + (i - 4096) / 256)) then
      (s.wr A.newtReq d (if left ≤ 1 then 0 else (i + 2) + 2 ^ 16 * (left - 1))).newtBegin d i
    else
      let s := s.wr A.newtReq d 0
      match s.sweepFrom d (s.rd A.newtNext d) with
      | none => s
      | some i => (s.wr A.newtNext d (i + 1)).newtBegin d i

def execNewtRegionStart (die : Fin 8) (s : State) : Res := s.live fun s => .next (s.newtStart die)

/-- SAVE ends: the buffer holds the region's words, corrected; one that is uncorrectable stays so (R191, R192). (log 177 DESIGN CHOICE) -/
def State.newtSaved (s : State) (d : Nat) : State :=
  let wall := s.newtWall d
  let s := if s.newtKind d = 0 then
      s.each 512 fun s i =>
        let key := bayKey wall (512 * s.newtUnit d + i)
        (s.wr A.newtBuf (512 * d + i) (s.rd A.bay key)).wr A.err (A.newtBuf.key (512 * d + i))
          (if s.errOf A.bay key = 2 then 2 else 0)
    else s
  s.toPhase d 2

def execNewtSaveEnd (die : Fin 8) (s : State) : Res := s.live fun s => .next (if s.newtPhase die = 1 then s.newtSaved die else s)

/-- A word of the bay lies in a column that FILL rewrites into its spare, and its wrong bit with it. -/
def State.inFill (s : State) (d i : Nat) : Bool :=
  s.repairs.any fun r => r.die = d ∧ r.kind = 0 ∧ r.column ∧ ¬ r.active ∧ r.wall = i / 131072 ∧ r.unit = i % 131072 / 8192 ∧
    r.place = 128 * (i % 16) + s.rd A.bayBit i

/-- FILL ends: the column, rewritten with correction, switches to its spare. -/
def State.newtFilled (s : State) (d : Nat) : State :=
  let fixed (e : Nat × Nat) : Bool :=
    e.1 % 512 = A.err.code ∧ e.2 = 1 ∧ e.1 / 512 % 512 = A.bay.code ∧ s.inFill d (e.1 / 512 / 512)
  (({ s with arr := s.arr.filter fun e => ¬ fixed e } : State).repairsActive d true).toPhase d 5

def execNewtFillEnd (die : Fin 8) (s : State) : Res := s.live fun s =>
  let s := s.newtRepaired die
  .next (if s.newtPhase die = 4 then s.newtFilled die else s)

/-- The bed memories under test were written back with correction: a correctable error is gone. Histories have parity
alone, which corrects nothing. -/
def State.newtScrub (s : State) (d : Nat) : State :=
  let bed := 256 * s.newtWall d + s.newtUnit d
  let here (key : Nat) : Bool :=
    let i := key / 512
    (key % 512 = A.imem.code ∧ i / 8192 = bed) ∨ (key % 512 = A.wimem.code ∧ i / 512 = bed) ∨
      (key % 512 = A.pimem.code ∧ bed % 16 = 0 ∧ i / 512 = bed / 16)
  { s with arr := s.arr.filter fun e => ¬ (e.1 % 512 = A.err.code ∧ e.2 = 1 ∧ here (e.1 / 512)) }

/-- The buffer's words go back into the array, as it stands (R191, R192, R194). -/
def State.newtCopyBack (s : State) (d : Nat) : State :=
  if s.newtKind d = 0 then
    s.each 512 fun s i =>
      let key := bayKey (s.newtWall d) (512 * s.newtUnit d + i)
      (s.wr A.bay key (s.rd A.newtBuf (512 * d + i))).wr A.err (A.bay.key key) (s.errOf A.newtBuf (512 * d + i))
  else s.newtScrub d

/-- A region under test is back in its array, whatever phase Newt is in. -/
def State.newtSettle (s : State) (d : Nat) : State :=
  if 2 ≤ s.newtPhase d ∧ s.newtPhase d ≤ 6 ∧ s.newtKind d = 0 then s.newtCopyBack d else s

/-- Entries of the sub-array whose 16 regions have all been tested since go (chapter 08, "Fault kinds"). -/
def State.newtTested (s : State) (d : Nat) : State :=
  if s.newtKind d = 0 then
    let log := s.corrLog.map fun e =>
      if e.wall = s.newtWall d ∧ e.sub = s.repairUnit d then { e with tested := e.tested ||| 2 ^ (s.newtUnit d % 16) } else e
    { s with corrLog := log.filter fun e => e.tested ≠ 0xFFFF }
  else s

/-- Starts that waited for Newt are performed (R198). -/
def State.waitedStarts (s : State) : State :=
  s.each 32 fun s k =>
    if s.on A.pStartWait k ∧ ¬ (s.wallsOf k).any fun w => s.newtOnBeds w then (s.wr A.pStartWait k 0).doStart k else s

/-- A test ends. -/
def State.newtDone (s : State) (d : Nat) : State :=
  ((s.toPhase d 0).wr A.newtEnd d (s.mono + 1)).waitedStarts

def execNewtRestoreEnd (die : Fin 8) (s : State) : Res := s.live fun s =>
  let s := s.newtRepaired die
  .next (if s.newtPhase die = 5 then ((s.newtCopyBack die).newtTested die).newtDone die else s)

/-! ### Requests -/

/-- RESULT of NEWT_REQ: 0, 1 BUSY, 2 DENIED, 3 PINNED. (log 38 DEDUCED) -/
def State.newtCheck (s : State) (who : Who) (d v : Nat) : Nat :=
  if ¬ s.pfRights who then 2
  else if (s.slotOfWall (16 * d + slice v 2 4)).any fun k => s.stoppable k then 1
  else if s.rf (D d) NEWT_STATUS_PINNED = 1 then 3
  else 0

/-- A write of NEWT_REQ. -/
def State.newtRequest (s : State) (who : Who) (d v : Nat) : State :=
  let go : Bool := v.testBit 0
  let r := s.newtCheck who d v
  if r = 2 then (if go then s.wf (D d) NEWT_REQ_RESULT 2 else s).deny
  else
    let s := ((s.wf (D d) NEWT_REQ_KIND (slice v 1 1)).wf (D d) NEWT_REQ_WALL (slice v 2 4)).wf (D d) NEWT_REQ_REGION
      (slice v 6 8)
    if ¬ go then s.okay
    else
      let s := s.wf (D d) NEWT_REQ_RESULT r
      let i := if slice v 1 1 = 0 then 256 * slice v 2 4 + slice v 6 8 else 4096 + 256 * slice v 2 4
      (if r = 0 then s.wr A.newtReq d (i + 1 + 2 ^ 16 * (if slice v 1 1 = 0 then 1 else 256)) else s).okay

/-- Log 38 DEDUCED. -/
def execNewtReq (who : Who) (die : Fin 8) (val : Word) (s : State) : Res := s.access who (.newtReq who die val) fun s => .next (s.newtRequest who die val.toNat)

/-- UNPIN (R194). -/
def State.newtUnpin (s : State) (d : Nat) : State :=
  if s.newtPhase d = 6 then ((s.newtCopyBack d).wf (D d) NEWT_STATUS_PINNED 0).newtDone d else s

def execUnpin (who : Who) (die : Fin 8) (s : State) : Res := s.access who (.unpin who die) fun s =>
  .next (if s.pfRights who then (s.newtUnpin die).okay else s.deny)

end Sys2Proof.Machine
end

