-- ==== Sys2Proof/Machine/Boot.lean ====
section
/-! DEFINITION. Resets, boot, the image stream, update, life cycle, tamper and the key RAM (chapters 14 and 18, R332 to
R363, R435, R436, R438, R481). The boot ROM and the firmware run to the end of their stage within the command that
starts them. -/

namespace Sys2Proof.Machine

open Reg

/-! ### Boot records (R335, R336) -/

/-- One bit of a reflected CRC-32 (IEEE 802.3). -/
def crcBit (c : Nat) : Nat := if c % 2 = 1 then (c / 2) ^^^ 0xEDB88320 else c / 2

/-- One byte of it. -/
def crcByte (c b : Nat) : Nat := crcBit (crcBit (crcBit (crcBit (crcBit (crcBit (crcBit (crcBit (c ^^^ b))))))))

/-- CRC-32 with the IEEE 802.3 polynomial of the low `n` bytes of `v`, lowest first. (log 87 DEDUCED) -/
def crc32 (v n : Nat) : Nat :=
  ((List.range n).foldl (fun c i => crcByte c (slice v (8 * i) 8)) 0xFFFFFFFF) ^^^ 0xFFFFFFFF

def recMagic : Nat := 0x42384544

/-- MAGIC and CRC are correct. -/
def recordValid (r : Nat) : Bool := slice r 0 32 = recMagic ∧ slice r 0x1E0 32 = crc32 r 0x3C

/-- The fields of a record that software and the boot ROM change. -/
structure BootRec where
  copy : Nat
  seq : Nat
  active : List Nat     -- BOOT_ACTIVE, IMG_ACTIVE
  conf : List Nat
  trial : List Nat
  deriving DecidableEq, Repr

/-- Log 74 DEDUCED. -/
def BootRec.of (copy r : Nat) : BootRec :=
  ⟨copy, slice r 32 32, [slice r 0x40 8 % 2, slice r 0x58 8 % 2], [slice r 0x48 8, slice r 0x60 8],
    [slice r 0x50 8, slice r 0x68 8]⟩

/-- The record in force (R336). With no valid copy it counts as copy 0 with SEQ 0. (log 74 DEDUCED) -/
def State.recordInForce (s : State) : BootRec :=
  let a := s.rd A.bootRec 0
  let b := s.rd A.bootRec 1
  match recordValid a, recordValid b with
  | true, true => if slice a 32 32 < slice b 32 32 then BootRec.of 1 b else BootRec.of 0 a
  | true, false => BootRec.of 0 a
  | false, true => BootRec.of 1 b
  | false, false => ⟨0, 0, [0, 0], [1, 1], [0, 0]⟩

/-- A record as it is stored. -/
def BootRec.pack (r : BootRec) : Nat :=
  let v := recMagic + 2 ^ 32 * (r.seq % 2 ^ 32) + 2 ^ 0x40 * r.active.getD 0 0 + 2 ^ 0x48 * r.conf.getD 0 0 +
    2 ^ 0x50 * r.trial.getD 0 0 + 2 ^ 0x58 * r.active.getD 1 0 + 2 ^ 0x60 * r.conf.getD 1 0 + 2 ^ 0x68 * r.trial.getD 1 0
  v + 2 ^ 0x1E0 * crc32 v 0x3C

/-- Write a changed record into the other copy, with SEQ one higher. -/
def State.writeRecord (s : State) (r : BootRec) : State :=
  s.wr A.bootRec (1 - r.copy) ({ r with seq := r.seq + 1 }).pack

/-- R337 for the boot slot (`x` 0) or the image slot (`x` 1): the slot, whether it reverted, whether it is on trial. -/
def State.chooseSlot (s : State) (x : Nat) : Nat × Bool × Bool × State :=
  let r := s.recordInForce
  if r.conf.getD x 0 ≠ 0 then (r.active.getD x 0, false, false, s)
  else if r.trial.getD x 0 = 0 then
    let a := 1 - r.active.getD x 0
    (a, true, false, s.writeRecord { r with active := r.active.set x a, conf := r.conf.set x 1 })
  else
    (r.active.getD x 0, false, true, s.writeRecord { r with trial := r.trial.set x (r.trial.getD x 0 - 1) })

/-! ### Containers (R338 to R340) -/

def contSections (b : List Byte) : Nat := leAt b 0x0C 2
def contHdrBytes (b : List Byte) : Nat := leAt b 8 4
def contTotal (b : List Byte) : Nat := leAt b 0x18 8
def contSvn (b : List Byte) : Nat := leAt b 0x10 4
def contKeySlot (b : List Byte) : Nat := leAt b 0x0E 1
def contEnc (b : List Byte) : Nat := leAt b 0x0F 1

/-- Place of section table entry `i`. -/
def entryAt (i : Nat) : Nat := 0x100 + 0xA0 * i
def entryOffset (b : List Byte) (i : Nat) : Nat := leAt b (entryAt i + 8) 8
def entryLength (b : List Byte) (i : Nat) : Nat := leAt b (entryAt i + 0x10) 8
def entryTarget (b : List Byte) (i : Nat) : Nat := leAt b (entryAt i + 2) 2

/-- An entry breaks R339. -/
def contEntryBad (b : List Byte) (typ i : Nat) : Bool :=
  let k := leAt b (entryAt i) 2
  let flags := leAt b (entryAt i + 4) 4
  (if typ = 1 then ¬ (1 ≤ k ∧ k ≤ 3) ∨ entryTarget b i ≠ 0 else k ≠ 0x10) ∨ 2 ^ 12 ≤ entryTarget b i ∨
  slice flags 2 6 ≠ 0 ∨ slice flags 16 16 ≠ 0 ∨ leAt b (entryAt i + 0x24) 4 ≠ 0 ∨ leAt b (entryAt i + 0x90) 16 ≠ 0 ∨
  entryOffset b i % 64 ≠ 0 ∨ entryOffset b i < contHdrBytes b ∨ contTotal b < entryOffset b i + entryLength b i ∨
  (0 < i ∧ (entryOffset b i < entryOffset b (i - 1) + entryLength b (i - 1) ∨ entryOffset b i ≤ entryOffset b (i - 1) ∨
    (typ = 2 ∧ entryTarget b i < entryTarget b (i - 1))))

/-- The first check of R340. -/
def contFormatBad (b : List Byte) (typ : Nat) : Bool :=
  leAt b 0 4 ≠ 0x43384544 ∨ leAt b 4 2 ≠ typ ∨ leAt b 6 2 ≠ 1 ∨ contSections b = 0 ∨ 8192 < contSections b ∨
  contHdrBytes b ≠ 0x160 + 0xA0 * contSections b ∨ b.length < contHdrBytes b ∨ 3 < contKeySlot b ∨ 1 < contEnc b ∨
  64 < contSvn b ∨ leAt b 0x15 3 ≠ 0 ∨ leAt b 0x28 24 ≠ 0 ∨ leAt b 0xA0 96 ≠ 0 ∨
  (typ = 1 ∧ 0x400000 < contTotal b) ∨ (List.range (contSections b)).any (contEntryBad b typ)

/-- The life-cycle state in force (R356, R357). (log 69 DEDUCED) -/
def State.lc (s : State) : Nat := s.rf 0 SEC_STATUS_LC

/-- The life-cycle table allows a container of TYPE `typ` with ENC `enc`. -/
def lcAllows (lc typ enc : Nat) : Bool :=
  match lc with
  | 0 => typ = 1 ∧ enc = 0
  | 1 => true
  | 2 => enc = 1
  | 3 => typ = 1 ∧ enc = 0
  | _ => false

/-- Fused counter for a TYPE. -/
def State.svn (s : State) (typ : Nat) : Nat := s.rd A.fuseSvn (typ - 1)

/-- A signature over the header and table verifies. -/
def contSigned (b : List Byte) : Bool :=
  let n := contHdrBytes b - 0x60
  Config.verify (beAt b 0x40 96) (Config.sha384 (b.take n)) (beAt b n 96)

/-- R340: a result of BOOT_STATUS. (log 73 DEDUCED) -/
def State.checkContainer (s : State) (b : List Byte) (typ : Nat) : Nat :=
  if contFormatBad b typ then bootFormat
  else if s.lc ≠ 0 ∧ Config.sha384 ((b.drop 0x40).take 96) ≠ s.rd A.fuseRoot (contKeySlot b) then bootSignature
  else if (s.rd A.fuseRevoke 0).testBit (contKeySlot b) then bootRevoked
  else if ¬ contSigned b then bootSignature
  else if ¬ (leAt b 0x14 1).testBit s.lc ∨ ¬ lcAllows s.lc typ (contEnc b) then bootLc
  else if contSvn b < s.svn typ then bootRollback
  else bootOk

/-- Section `i` of a container held whole. -/
def sectionAt (b : List Byte) (i : Nat) : Section :=
  let o := entryAt i
  ⟨leAt b o 2, entryTarget b i, leAt b (o + 4) 4, contEnc b = 1, beAt b (o + 0x18) 12, beAt b (o + 0x28) 16,
    beAt b (o + 0x38) 40, beAt b (o + 0x60) 48, beAt b o 0x28, (b.drop (entryOffset b i)).take (entryLength b i)⟩

def contSectionList (b : List Byte) : List Section := (List.range (contSections b)).map (sectionAt b)

/-- A boot container passes R340 and R341: the first failure, else OK. -/
def State.checkBoot (s : State) (b : List Byte) : Nat :=
  let r := s.checkContainer b 1
  if r ≠ bootOk then r
  else ((contSectionList b).map fun x => (s.openSection x false).1).foldl (fun r x => if r = bootOk then x else r) bootOk

/-- Bytes of a boot slot (0, 1) or design-image slot (2, 3). -/
def State.slotBytes (s : State) (slot n : Nat) : List Byte :=
  (List.range n).map fun i => BitVec.ofNat 8 (s.rd A.slotByte (2 ^ 40 * slot + i))

/-- The staging area of 4 MiB in die 0's L2 (R333, R343) holds a container, and is overwritten, with zeros, once its
sections have been applied or refused. (log 151 DESIGN CHOICE) -/
def State.wipeStaging (s : State) : State := s.drop A.stageByte fun _ => true
/-- Log 151 DESIGN CHOICE. -/
def State.stageContainer (s : State) (b : List Byte) : State :=
  b.zipIdx.foldl (fun s x => s.wr A.stageByte x.2 x.1.toNat) s.wipeStaging

/-- Check the boot container that stands in the staging area. (log 151 DESIGN CHOICE) -/
def State.checkStaged (s : State) (b : List Byte) : Nat × State :=
  (s.checkBoot b, if s.checkContainer b 1 = bootOk then s.wipeStaging else s)

/-- The container in a slot. -/
def State.slotContainer (s : State) (slot : Nat) : List Byte := s.slotBytes slot (contTotal (s.slotBytes slot 0x100))

/-! ### Stages (R333) -/

def stageRecovery : Nat := 8
def stageHalted : Nat := 9
def State.stage (s : State) : Nat := s.rf 0 BOOT_STATUS_STAGE
def State.setStage (s : State) (n : Nat) : State := s.wf 0 BOOT_STATUS_STAGE n

/-- Advance a counter to the SVN of a confirmed container (R355). -/
def State.advanceSvn (s : State) (typ svn : Nat) : State :=
  s.wr A.fuseSvn (typ - 1) (max (s.svn typ) (min 64 svn))

/-- The metering sealing key (R383): derived from FUSE_KEK, or else from the key RAM. -/
def State.deriveSeal (s : State) : State :=
  s.wr A.sealKey 0
    (if s.fuseKekUsable then s.rd A.fuseKek 0 + 2 ^ 256
     else if s.keyRamUsable then s.rd A.keyRam 0 + 2 ^ 256 else 0)

/-- The firmware stage: CHAIN_PARAMS are applied, the route tables written (R389) and the cores released. (log 67 DESIGN CHOICE) -/
def State.firmware (s : State) : State :=
  let cp := s.rd A.chainParams 0
  let s := s.each 16 fun s p =>
    (s.wf (PT p) PORT_CFG_MAX_RATE (slice cp (8 * p) 8)).wf (PT p) PORT_CFG_LANE_EN (slice cp (128 + 8 * p) 4)
  let s := ((((s.drop A.cnSet fun _ => true).drop A.cnMatch fun _ => true).drop A.cnMask fun _ => true).drop A.cnPath fun _ => true).wr
    A.cnFw 0 1
  (s.each 256 fun s c => s.wr A.coreUp c 1).setStage 3

/-- Bytes of the boot controller's private SRAM (R332). -/
def bootRamBytes : Nat := 0x100000

/-- Copy the firmware into the boot controller's SRAM. -/
def State.putFirmware (s : State) (fw : List Byte) : State :=
  fw.zipIdx.foldl (fun s x => s.wr A.bootRam x.2 x.1.toNat) (s.drop A.bootRam fun _ => true)

/-- Run a boot container that has passed. Without a FIRMWARE section that the SRAM holds, the FIRMWARE stage fails
(R333). (log 150 DEDUCED) -/
def State.runBoot (s : State) (b : List Byte) : State :=
  let s := (contSectionList b).foldl (fun s x =>
    let plain := (s.openSection x false).2
    match x.kind with
    | 2 => s.wr A.chainParams 0 (leAt plain 0 64)
    | 3 => s.wr A.keyPolicy 0 (leAt plain 0 16)
    | _ => s) ((s.wr A.chainParams 0 0).wr A.keyPolicy 0 0)
  let s := (s.wf 0 SVN_STATUS_RUN_BOOT_SVN (contSvn b)).wr A.containerId 0 (leAt b 0x20 8)
  let fw := ((contSectionList b).filter (·.kind = 1)).flatMap fun x => (s.openSection x false).2
  if fw.isEmpty ∨ bootRamBytes < fw.length then s.setStage stageHalted else (s.putFirmware fw).firmware

/-- Wipe the key RAM (R361), the vault (R358). -/
def State.wipeKeyRam (s : State) : State := ((s.wr A.keyRam 0 0).wr A.keyRamOk 0 0).wr A.reg oKEYRAM_KCV 0
/-- Log 149 DESIGN CHOICE. -/
def State.wipeVault (s : State) : State := { s.wr A.sealKey 0 0 with vault := [] }

/-- The state that the fuses give: the highest whose bits are all blown. -/
def State.fusedLc (s : State) : Nat :=
  if s.rd A.fuseLc 4 = 0xFF then 4 else if s.rd A.fuseLc 3 = 0xFF then 3 else if s.rd A.fuseLc 2 = 0xFF then 2
  else if s.rd A.fuseLc 1 = 0xFF then 1 else 0

/-- A partly burned life-cycle transition is completed (R357). (log 69 DEDUCED) -/
def State.completeLc (s : State) : State :=
  [1, 2, 3, 4].foldl (fun s g =>
    if s.rd A.fuseLc g ≠ 0 ∧ s.rd A.fuseLc g ≠ 0xFF then
      (s.wipeKeyRam.wipeVault.wr A.fuseLc g 0xFF).wf 0 SEC_STATUS_LC_COMPLETED 1
    else s) s

/-- The boot slot boots: trial, fallback and counter (R337, R355). (log 67 DESIGN CHOICE) -/
def State.bootFrom (s : State) (slot : Nat) (b : List Byte) : State := (s.wf 0 BOOT_STATUS_BOOT_SLOT slot).runBoot b

def State.enterRecovery (s : State) : State := s.setStage stageRecovery

/-- Stages XSPI and VERIFY. -/
def State.bootVerify (s : State) : State :=
  if ¬ s.on A.norThere 0 then ((s.setStage 1).bootFail bootNoContainer).enterRecovery
  else
    let c := (s.setStage 2).chooseSlot 0
    let slot := c.1
    let s := (c.2.2.2.wf 0 BOOT_STATUS_REVERTED (bit c.2.1)).wf 0 BOOT_STATUS_BOOT_TRIAL (bit c.2.2.1)
    let b := s.slotContainer slot
    let (r, s) := (s.stageContainer b).checkStaged b
    if r = bootOk then
      (if s.recordInForce.conf.getD 0 0 ≠ 0 then s.advanceSvn 1 (contSvn b) else s).bootFrom slot b
    else
      let s := (s.bootFail r).wf 0 BOOT_STATUS_FALLBACK 1
      let b := s.slotContainer (1 - slot)
      let (r, s) := (s.stageContainer b).checkStaged b
      if r = bootOk then s.bootFrom (1 - slot) b else s.enterRecovery

/-- The boot ROM from stage 0 (R333, R360). (log 67 DESIGN CHOICE) -/
def State.bootRom (s : State) : State :=
  let s := (s.setStage 0).completeLc
  let lc := s.fusedLc
  let s := (s.wf 0 SEC_STATUS_LC lc).deriveSeal
  let s := if lc = 2 then (s.wr A.reg oTAMPER_CFG (s.rd A.fuseTamper 0)).wr A.wlSet oTAMPER_CFG 0x1F else s
  if lc = 4 then s.setStage stageHalted
  else if lc = 0 then s.enterRecovery
  else s.bootVerify

/-! ### Resets (R436, R438) -/

/-- Arrays that every reset keeps: fuses, the non-volatile memories, straps and what VBAT holds. -/
def keptAlways (code : Nat) : Bool :=
  [A.fuseLc, A.fuseRoot, A.fuseRevoke, A.fuseKek, A.fuseTamper, A.fuseFlags, A.fuseSvn, A.keyRam, A.keyRamOk, A.bootRec,
    A.slotByte, A.pinNow, A.norThere, A.nvmeThere, A.nvmeBlock, A.keystonePin, A.vbat, A.mClass 0, A.mClass 1, A.mClass 2,
    A.mClass 3].any fun a => a.code = code

/-- Registers that show the levels of pins and rails, which no reset changes. (log 79 DEDUCED) -/
def keptPins (off : Nat) : Bool :=
  (List.range 8).any fun d => off = Off.die d oGP_IN

/-- What RESET_N keeps beside these: the clock, the meters, the vault, what a power-on reset alone clears (R353, R360,
R363). (log 64 DEDUCED) -/
def keptResetN (code i : Nat) : Bool :=
  ([A.monoFrac, A.devS, A.devMono, A.devLen, A.meterSeq, A.sealKey, A.powerIx, A.slotVerified, A.refGone].any
      fun a => a.code = code) ∨
  (code = A.wlSet.code ∧ (i = oTAMPER_CFG ∨ i = oSEC_LOCK)) ∨
  (code = A.reg.code ∧ (i = oTIME_NS_LO ∨ i = oTIME_NS_HI ∨ i = oTIME_FRAC ∨ i = oTIME_INC_LO ∨ i = oTIME_INC_HI ∨
    i = oMONO_NS_LO ∨ i = oMONO_NS_HI ∨ i = oKEYRAM_KCV ∨ i = oTAMPER_CFG ∨ i = oSEC_LOCK))

/-- What a warm reset keeps beside these: the always-on island, MEM, the chain address and the level. -/
def keptWarm (code i : Nat) : Bool :=
  ([A.lnTime, A.lnCfg, A.lnState, A.lnResult, A.lnCycle, A.lnGo, A.ppsRef, A.ppsSeen, A.ppsTime, A.msgRef, A.tmSec,
    A.tmGot, A.chainParams, A.keyPolicy, A.bootRam, A.stageByte, A.containerId, A.doneHigh, A.strmBad, A.wlSet, A.bay, A.bayBit,
    A.hbmErr, A.pcAt, A.pcTemp, A.refDead,
    A.own, A.hbmLost, A.hbmKnown, A.enCount, A.strmOver].any fun a => a.code = code) ∨
  (code = A.err.code ∧ i % 512 = A.bay.code) ∨
  (code = A.reg.code ∧ ((0xA00 ≤ i ∧ i < 0xC40) ∨ i = oCHAIN_STATUS ∨
    (0x800000 ≤ i ∧ i < 0x4800000 ∧ 0x46000 ≤ i % 0x800000 ∧ i % 0x800000 < 0x47000) ∨
    (0x800000 ≤ i ∧ i < 0x4800000 ∧ i % 0x800000 = oBAY_ECC_COUNT)))

/-- Reset every entry of the store that `keep` does not keep, and every list; fused repairs and what stands outside the
device stay. (log 6 DEDUCED) -/
def State.clearTo (s : State) (keep : Nat → Nat → Bool) : State :=
  let t : State := { State.reset with
    arr := s.arr.filter fun e => keptAlways (e.1 % 512) ∨ keep (e.1 % 512) (e.1 / 512) ∨
      (e.1 % 512 = A.reg.code ∧ keptPins (e.1 / 512))
    repairs := s.repairs.filter (·.fused), out := s.out, rsp := s.rsp, freeCtr := s.freeCtr, pending := s.pending }
  t.each 8 fun t b =>
    (t.wf (D b) GP_BANK_VDDIO_OK (s.rf (D b) GP_BANK_VDDIO_OK)).wf (D b) GP_BANK_VDDIO_33 (s.rf (D b) GP_BANK_VDDIO_33)

/-- The KEYSTONE pin shows in CHAIN_STATUS (R323). -/
def State.strap (s : State) : State := s.wf 0 CHAIN_STATUS_KEYSTONE (s.rd A.keystonePin 0)

/-- Power-on reset: POWER_ID is drawn anew (R383), OFF_EVENT comes from the VBAT monitor. -/
def State.powerOn (s : State) : State :=
  let t := (s.clearTo fun _ _ => false).gpResume
  let t := (t.wr A.powerIx 0 t.freeCtr).wf 0 TAMPER_STATUS_OFF_EVENT (s.rf 0 TAMPER_STATUS_OFF_EVENT)
  let t := if t.on A.keyRamOk 0 then t.wr A.reg oKEYRAM_KCV (Config.kcv (t.rd A.keyRam 0)) else t
  (({ t with freeCtr := t.freeCtr + 1 }.wf 0 RESET_CAUSE_LAST 1).strap).bootRom

def execPowerOnReset (s : State) : Res := .next s.powerOn

/-- Every epoch closes early (R381); what closed during SLUMBER is sealed with it (R429). -/
def State.closeAllShort (s : State) : State := (s.each 32 fun s k => s.epochShort k).sealClosed

def State.resetDev (s : State) : State :=
  let s := s.closeAllShort
  let t := State.gpResume { s.clearTo keptResetN with vault := s.vault }
  let t := (t.wf 0 TAMPER_STATUS_SEEN (s.rf 0 TAMPER_STATUS_SEEN)).wf 0 TAMPER_STATUS_OFF_EVENT
    (s.rf 0 TAMPER_STATUS_OFF_EVENT)
  let t := t.wf 0 METER_CFG_EPOCH_S (s.rf 0 METER_CFG_EPOCH_S)
  ((t.wf 0 RESET_CAUSE_LAST 2).strap).bootRom

def execResetN (s : State) : Res := s.aon fun s => .next s.resetDev

/-- Repairs written into the repair fuses of their die, which hold 512. (log 152 DESIGN CHOICE) -/
def fuseAll (l : List Repair) : List Repair :=
  l.foldl (fun l r =>
    let n := (l.filter fun x => x.die = r.die ∧ x.fused).length
    l ++ [{ r with fused := r.fused || (r.active && decide (n < 512)) }]) []

/-- Firmware may write the soft repairs into the fuses at a maintenance boot (R195): a free bit says whether the boot is
one. (log 152 DESIGN CHOICE) -/
def State.fuseRepairs (s : State) : State :=
  let (m, s) := s.free 1
  let s := if m = 1 then { s with repairs := fuseAll s.repairs } else s
  s.each 8 State.countRepairs

/-- A warm reset (R436): ports that are up go down; DONE, the boot status and all of AON stay. A boot controller that is
HALTED, or waits in RECOVERY, has no firmware to restart (R333). -/
def State.warm (s : State) : State :=
  let s := s.closeAllShort.each 8 State.newtSettle
  let t := { s.clearTo (fun c i => keptResetN c i || keptWarm c i) with
    vault := s.vault, mem := s.mem, repairs := s.repairs, corrLog := s.corrLog }
  let t := ((t.wf 0 PL_CTRL_BUSY 0).wf 0 PWR_CTRL_BUSY 0).wf 0 PWR_STATUS_STATE 0
  let t := (t.wf 0 RESET_CAUSE_LAST 3).strap
  if s.stage = stageHalted ∨ s.stage = stageRecovery then t.each 8 State.countRepairs else t.firmware.fuseRepairs

/-- WARM: one asked for during a level change waits for its end (R438). -/
def State.warmAsk (s : State) (who : Who) : State :=
  if ¬ s.pfRights who then s.deny
  else if s.rd A.plPhase 0 ≠ 0 then (s.wr A.warmWait 0 1).okay
  else s.warm.okay

def execWarmReset (who : Who) (s : State) : Res := s.access who (.warmReset who) fun s => .next (s.warmAsk who)

/-- OFF (R435, R361): without VBAT the key is lost. -/
def State.goOff (s : State) : State :=
  let s := if s.on A.vbat 0 then s else s.wipeKeyRam
  State.wr { s.drop A.padLatch (fun _ => true) with held := [], resumed := [] } A.pwMode 0 3

def execOff (s : State) : Res := .next s.goOff

/-- VBAT below 2.0 V (R361, R481). -/
def execVbatLoss (s : State) : Res :=
  let s := s.wr A.vbat 0 0
  .next (if s.powered then s else s.wipeKeyRam)

/-! ### The image stream (R345 to R350) -/

/-- Sections of a table for this device. -/
def State.sectionsHere (s : State) (b : List Byte) : Nat :=
  ((List.range (contSections b)).filter fun i => entryTarget b i = s.chainAddr).length

/-- A header and table that pass start the stream; they are sent on. -/
def State.streamOn (s : State) (b : List Byte) (want : Nat) : State :=
  let s := ((((s.wr A.strmOn 0 1).wr A.strmWant 0 want).wr A.strmGot 0 0).wr A.strmNext 0 0).wr A.strmEnd 0 0
  { s with strmHdr := b, out := s.out ++ [.imageHeader b] }

/-- The entry of the table whose section comes next: upstream devices have kept those below this device's address. -/
def State.nextEntry (s : State) : Option Nat :=
  firstIx (contSections s.strmHdr) fun i => s.rd A.strmNext 0 ≤ i ∧ s.chainAddr ≤ entryTarget s.strmHdr i

/-- A section that arrives is the next one of the table. -/
def State.isNext (s : State) (sec : Section) (i : Nat) : Bool :=
  { sec with body := [] } = sectionAt s.strmHdr i ∧ sec.body.length = entryLength s.strmHdr i

/-- PARTITION_SECTION: a section of the image stream (R346). One for a device further down is sent on; one for this
device is loaded; one that is not the next of the table that passed is no section of the stream. (log 153 DESIGN CHOICE) -/
def State.streamSection (s : State) (sec : Section) : State :=
  if ¬ s.on A.strmOn 0 ∨ s.on A.strmEnd 0 ∨ s.stage ≠ 5 then s
  else match s.nextEntry with
    | none => s
    | some i =>
      if ¬ s.isNext sec i then s
      else
        let s := s.wr A.strmNext 0 (i + 1)
        if s.chainAddr < sec.target then { s with out := s.out ++ [.imageSection sec] }
        else
          let x := s.loadSection sec true
          if x.1 = bootOk then x.2.sat A.strmGot 0 1 else (x.2.wr A.strmBad 0 1).bootFail x.1

def execPartitionSection (sec : Section) (s : State) : Res := s.live fun s => .next (s.streamSection sec)

/-- The end mark (R348): sent on; with every section of this device loaded, the device is CONFIGURED. (log 68 DESIGN CHOICE) -/
def State.endMark (s : State) : State :=
  if ¬ s.on A.strmOn 0 ∨ s.on A.strmEnd 0 ∨ s.stage ≠ 5 then s
  else
    let s := State.wr { s with out := s.out ++ [.imageEnd] } A.strmEnd 0 1
    if s.rd A.strmGot 0 = s.rd A.strmWant 0 ∧ ¬ s.on A.strmBad 0 then (s.wf 0 BOOT_STATUS_CONFIGURED 1).setStage 6
    else s

def execEndMark (s : State) : Res := s.live fun s => .next s.endMark

/-- The keystone sends the header and table, every section in table order, and the end mark (R346). -/
def State.streamWhole (s : State) (b : List Byte) : State :=
  ((contSectionList b).foldl State.streamSection (s.streamOn (b.take (contHdrBytes b)) (s.sectionsHere b))).endMark

/-- The loaded container's SVN and identity. -/
def State.noteImage (s : State) (b : List Byte) : State :=
  (s.wf 0 SVN_STATUS_RUN_IMAGE_SVN (contSvn b)).wr A.containerId 1 (leAt b 0x20 8)

/-- No container stands in a slot: its header is as erased, or as never written. (log 183 DESIGN CHOICE) -/
def State.slotEmpty (s : State) (slot : Nat) : Bool :=
  let b := s.slotBytes slot 0x100
  b.all (· = 0) ∨ b.all (· = 255)

/-- The keystone's check of a slot (R345). (log 76 DEDUCED) -/
def State.checkImage (s : State) (b : List Byte) : Nat :=
  let r := s.checkContainer b 2
  if r ≠ bootOk then r
  else if (List.range (contSections b)).any fun i => s.rf 0 ENUM_STATUS_COUNT ≤ entryTarget b i then bootFormat
  else bootOk

/-- The design-image slot of this boot (R337): chosen, and a trial counted, at its first stream. -/
def State.imgSlot (s : State) : Nat × State :=
  let p := s.rd A.imgPick 0
  if p ≠ 0 then (p - 1, s)
  else
    let c := s.chooseSlot 1
    (c.1, ((c.2.2.2.orf 0 BOOT_STATUS_REVERTED (bit c.2.1)).wf 0 BOOT_STATUS_IMG_TRIAL (bit c.2.2.1)).wr A.imgPick 0 (1 + c.1))

/-- The container that the keystone streams: of the slot R337 gives, else of the other slot, else an empty one. (log 78 DESIGN CHOICE) -/
def State.keystoneStream (s : State) : State :=
  if ¬ s.on A.nvmeThere 0 then (s.bootFail bootNvme).streamWhole []
  else
    let (slot, s) := s.imgSlot
    let go (s : State) (slot : Nat) (b : List Byte) : State := ((s.wf 0 BOOT_STATUS_IMG_SLOT slot).noteImage b).streamWhole b
    let b := s.slotContainer (2 + slot)
    let r := if s.slotEmpty (2 + slot) then bootNoContainer else s.checkImage b
    if r = bootOk then
      go (if s.recordInForce.conf.getD 1 0 ≠ 0 then s.advanceSvn 2 (contSvn b) else s) slot b
    else
      let s := (s.bootFail r).wf 0 BOOT_STATUS_FALLBACK 1
      let b := s.slotContainer (2 + (1 - slot))
      if s.checkImage b = bootOk then go s (1 - slot) b else s.streamWhole []

def State.isKeystone (s : State) : Bool := s.rf 0 CHAIN_STATUS_KEYSTONE = 1

/-- IMAGE_STREAM, at the end of the FIRMWARE or CHAIN stage or anew in the IMAGE stage. An empty header is that of the
empty container (R345). (log 68 DESIGN CHOICE) -/
def State.imageStream (s : State) (b : List Byte) : State :=
  if s.stage < 3 ∨ 5 < s.stage ∨ s.on A.strmOver 0 then s
  else
    let s := s.setStage 5
    if s.isKeystone then s.keystoneStream
    else if b.isEmpty then s.streamOn b 0
    else
      let r := s.checkContainer b 2
      if r = bootOk then (s.noteImage b).streamOn (b.take (contHdrBytes b)) (s.sectionsHere b)
      else (s.bootFail r).wr A.strmOn 0 0

def execImageStream (hdr : List Byte) (s : State) : Res := s.live fun s => .next (s.imageStream hdr)

/-- R347: port 0 or 1 of a device goes down in the CHAIN or IMAGE stage: staged sections and the partitions of the stream
go; the keystone retries, or shows CHAIN after the last failure, after which it streams no more. -/
def State.abandonStream (s : State) : State :=
  if s.stage = 4 ∨ s.stage = 5 then
    let s := s.each 32 fun s k => if s.on A.fromStream k then s.freeSlot k else s
    let s := (s.wr A.strmOn 0 0).wr A.strmEnd 0 0
    if ¬ s.isKeystone then s.setStage 4
    else if s.rd A.strmTries 0 < slice (s.rd A.chainParams 0) 0x120 3 then (s.sat A.strmTries 0 1).setStage 4
    else (s.wf 0 BOOT_STATUS_RESULT bootChain).wr A.strmOver 0 1
  else s

/-- DONE has read high for 1 µs (R349): RUNNING, the boot event, AUTOSTART. (log 68 DESIGN CHOICE) -/
def State.doneRise (s : State) : State :=
  if s.rf 0 BOOT_STATUS_CONFIGURED = 0 then s
  else
    let s := s.wf 0 BOOT_STATUS_DONE_IN 1
    if s.stage ≠ 6 then s
    else
      let s := ((s.setStage 7).wr A.doneHigh 0 1).raise 0x5BA
      s.each 32 fun s k => if s.loaded k ∧ s.on A.autoStart k then
          (let r := s.startCheck k
           (if r = 0 then s.startNow k else s).wf (P k) PART_CMD_RESULT r)
        else s

def execDoneRise (s : State) : Res := s.live fun s => .next s.doneRise

/-- DONE falls (R350). -/
def State.doneFall (s : State) : State :=
  let s := s.wf 0 BOOT_STATUS_DONE_IN 0
  if s.stage = 7 then (s.wr A.doneHigh 0 0).raise 0x5BA else s

def execDoneFall (s : State) : Res := s.live fun s => .next s.doneFall

/-! ### LOAD_CTRL, RECOVERY_CTRL (R351, R352) -/

def State.loadBase (s : State) : Nat := s.reg oLOAD_BASE_LO + 2 ^ 32 * slice (s.reg oLOAD_BASE_HI) 0 7

/-- The boot controller reads `n` bytes of HBM, line by line: the bytes as they are returned, whether an answer was not OK, and
the state that the reads leave (R408, R411). -/
def State.hbmList (s : State) (a n : Nat) : List Byte × Bool × State :=
  let line (x : List Byte × Bool × State) (i : Nat) : List Byte × Bool × State :=
    let r := x.2.2.niAccess 0 44 .boot false (64 * (a / 64 + i)) 64 0
    (x.1 ++ (List.range 64).map fun j => BitVec.ofNat 8 (slice r.data (8 * j) 8), x.2.1 || r.status ≠ 0, r.st)
  let x := (List.range ((a + n + 63) / 64 - a / 64)).foldl line ([], false, s)
  ((x.1.drop (a % 64)).take n, x.2)

/-- The container at LOAD_BASE, with what its reads leave. -/
def State.baseContainer (s : State) : List Byte × Bool × State :=
  let (hdr, bad, s) := s.hbmList s.loadBase 0x100
  let (b, bad', s) := s.hbmList s.loadBase (contTotal hdr)
  (b, bad || bad', s)

/-- Load this device's sections of a container: the first result that is not OK stops. -/
def State.loadAll (s : State) : List Section → Nat × State
  | [] => (bootOk, s)
  | x :: r =>
    if x.target ≠ s.chainAddr then s.loadAll r
    else
      let y := s.loadSection x false
      if y.1 = bootOk then y.2.loadAll r else y

/-- A container that HBM does not return whole fails with HASH. (log 189 DESIGN CHOICE) -/
def State.loadGo (s : State) : State :=
  let (b, bad, s) := s.baseContainer
  let r := if bad then bootHash else s.checkContainer b 2
  if r ≠ bootOk then s.wf 0 LOAD_CTRL_RESULT r
  else
    let x := (s.noteImage b).loadAll (contSectionList b)
    x.2.wf 0 LOAD_CTRL_RESULT x.1

/-- The FIRMWARE stage is over: a later one has begun, or every stack is trained. -/
def State.firmwareDone (s : State) : Bool :=
  (4 ≤ s.stage ∧ s.stage ≤ 7) ∨
  (s.stage = 3 ∧ (List.range 8).all fun d => s.rf (D d) HBM_STATUS_TRAINED = 1 ∨ s.rf (D d) HBM_STATUS_DEGRADED = 1)

/-- LOAD_GO: after the FIRMWARE stage; before it, and in RECOVERY or HALTED, GO is ignored. -/
def State.loadCtrl (s : State) (who : Who) : State :=
  if ¬ s.pfRights who then s.deny
  else (if s.firmwareDone then s.loadGo else s).okay

def execLoadGo (who : Who) (s : State) : Res := s.access who (.loadGo who) fun s => .next (s.loadCtrl who)

/-- The container in the staging area of RECOVERY. -/
def State.staged (s : State) : List Byte :=
  let bytes (n : Nat) : List Byte := (List.range n).map fun i => BitVec.ofNat 8 (s.rd A.stageByte i)
  bytes (contTotal (bytes 0x100))

def State.recoveryGo (s : State) : State :=
  let b := s.staged
  let (r, s) := s.checkStaged b
  let s := s.wf 0 RECOVERY_CTRL_RESULT r
  if r = bootOk then (s.wf 0 BOOT_STATUS_RECOVERED 1).runBoot b else s.bootFail r

def State.recoveryCtrl (s : State) (who : Who) : State :=
  if ¬ s.pfRights who then s.deny
  else (if s.stage = stageRecovery then s.recoveryGo else s).okay

def execRecoveryGo (who : Who) (s : State) : Res := s.access who (.recoveryGo who) fun s => .next (s.recoveryCtrl who)

/-! ### Update (R353, R355) -/

/-- Flat slot of an update command. -/
def slotOf (target slot : Bool) : Nat := 2 * bit target + bit slot

/-- Bytes that a slot holds. -/
def State.slotSize (s : State) (target : Bool) : Nat :=
  if target then slice (s.rd A.chainParams 0) 0x1C0 64 * s.rd A.nvmeBlock 0 else 0x400000

/-- An update command: DENIED for other writers (no access) and for the physical function under UPDATE_LOCK; NO_NVME. A
HALTED boot controller does nothing (R333). -/
def State.updateCmd (s : State) (who : Who) (target confirm : Bool) (f : State → Nat × State) : State :=
  if ¬ s.pfRights who then s.deny
  else if s.stage = stageHalted then s.okay
  else
    let r : Nat × State :=
      if s.rf 0 SEC_LOCK_UPDATE_LOCK = 1 ∧ who ≠ .boot then (2, s)
      else if target ∧ ¬ confirm ∧ ¬ s.on A.nvmeThere 0 then (6, s)
      else f s
    (r.2.wf 0 UPDATE_CTRL_RESULT r.1).okay

/-- Log 189 DESIGN CHOICE. -/
def State.updateWrite (s : State) (target slot : Bool) : Nat × State :=
  let r := s.recordInForce
  if r.active.getD (bit target) 0 = bit slot then (3, s)
  else if r.conf.getD (bit target) 0 = 0 then (4, s)
  else
  let (b, _, s) := s.baseContainer
  if s.slotSize target < b.length then (7, s)
  else
    let s := b.zipIdx.foldl (fun s x => s.wr A.slotByte (2 ^ 40 * slotOf target slot + x.2) x.1.toNat) s
    (0, s.wr A.slotVerified (slotOf target slot) 0)

def execUpdateWrite (who : Who) (target slot : Bool) (s : State) : Res :=
  s.access who (.updateWrite who target slot) fun s =>
    .next (s.updateCmd who target false fun s => s.updateWrite target slot)

def State.updateVerify (s : State) (target slot : Bool) : Nat × State :=
  let b := s.slotContainer (slotOf target slot)
  let r := if target then s.checkContainer b 2 else s.checkBoot b
  let s := s.wf 0 UPDATE_CTRL_CHECK r
  if r = bootOk then (0, s.wr A.slotVerified (slotOf target slot) 1) else (8, s)

def execUpdateVerify (who : Who) (target slot : Bool) (s : State) : Res :=
  s.access who (.updateVerify who target slot) fun s =>
    .next (s.updateCmd who target false fun s => s.updateVerify target slot)

def State.activate (s : State) (target slot : Bool) : Nat × State :=
  if ¬ s.on A.slotVerified (slotOf target slot) then (5, s)
  else
    let r := s.recordInForce
    let x := bit target
    (0, s.writeRecord { r with active := r.active.set x (bit slot), conf := r.conf.set x 0, trial := r.trial.set x 3 })

def execActivate (who : Who) (target slot : Bool) (s : State) : Res :=
  s.access who (.activate who target slot) fun s =>
    .next (s.updateCmd who target false fun s => s.activate target slot)

/-- CONFIRM. On a device without an NVMe drive, TARGET 1 only advances IMAGE_SVN, to that of the loaded container. -/
def State.confirm (s : State) (target : Bool) : Nat × State :=
  if target ∧ ¬ s.on A.nvmeThere 0 then (0, s.advanceSvn 2 (s.rf 0 SVN_STATUS_RUN_IMAGE_SVN))
  else
    let r := s.recordInForce
    let x := bit target
    let b := s.slotBytes (2 * x + r.active.getD x 0) 0x100
    (0, (s.writeRecord { r with conf := r.conf.set x 1, trial := r.trial.set x 0 }).advanceSvn (x + 1) (contSvn b))

def execConfirm (who : Who) (target : Bool) (s : State) : Res :=
  s.access who (.confirm who target) fun s => .next (s.updateCmd who target true fun s => s.confirm target)

/-! ### Locks, life cycle, tamper, key RAM (R356 to R362) -/

/-- A write that R362 refuses. `off`: its offset. (log 124 DEDUCED) -/
def State.violation (s : State) (off : Nat) : State :=
  ((s.cnt 0 LOCK_VIOLATION_COUNT 1).wr A.reg oLOCK_VIOLATION_ADDR off).raise 0x5BB

/-- A write of LC_CTRL without GO: a violation while LC_LOCK is set. -/
def State.lcIdle (s : State) : State := if s.rf 0 SEC_LOCK_LC_LOCK = 1 then s.violation oLC_CTRL else s

/-- GO of LC_CTRL. (log 75 DEDUCED) -/
def State.lcGo (s : State) (target : Nat) : State :=
  if s.rf 0 SEC_LOCK_LC_LOCK = 1 then (s.wf 0 LC_CTRL_RESULT 4).violation oLC_CTRL
  else if target ≤ s.lc ∨ 4 < target then s.wf 0 LC_CTRL_RESULT 2
  else if ¬ s.allIdle then s.wf 0 LC_CTRL_RESULT 3
  else
    let s := [1, 2, 3, 4].foldl (fun s g => if g ≤ target then s.wr A.fuseLc g 0xFF else s) s.wipeKeyRam.wipeVault
    let s := if 3 ≤ target then s.wr A.fuseFlags 0 (s.rd A.fuseFlags 0 ||| 2) else s
    (s.wf 0 LC_CTRL_RESULT 1).setStage stageHalted

/-- Only the boot controller writes it (R363). -/
def State.bootOnly (s : State) (who : Who) (f : State → State) : State := if who = .boot then (f s).okay else s.deny

def execLcTransition (who : Who) (target : BitVec 3) (s : State) : Res :=
  s.access who (.lcTransition who target) fun s => .next (s.bootOnly who fun s => s.lcGo target.toNat)

/-- Zeroise the instruction memories. -/
def State.zeroise (s : State) : State :=
  ((s.drop A.imem fun _ => true).drop A.wimem fun _ => true).drop A.pimem fun _ => true

/-- The full response (R359). -/
def State.tamperFull (s : State) (source : Nat) : State :=
  let s := s.devRecord 0x60 Loc.device 4 source
  let s := s.each 32 fun s k => if s.stoppable k then s.stopImmediate k else s
  s.wipeKeyRam.wipeVault.zeroise.setStage stageHalted

/-- The life-cycle state lets the key RAM be loaded (R356). -/
def State.mayLoadKey (s : State) : Bool :=
  match s.lc with
  | 0 => true
  | 1 | 2 => (s.rd A.fuseFlags 0).testBit 2
  | _ => false

/-- The key in KEYRAM_DATA0 to KEYRAM_DATA7. -/
def State.keyData (s : State) : Nat := (List.range 8).foldl (fun v i => v + 2 ^ (32 * i) * s.reg (oKEYRAM_DATA + 4 * i)) 0

/-- LOAD (R361, R362). -/
def State.keyLoad (s : State) : State :=
  if s.on A.keyRamOk 0 then s.violation oKEYRAM_CTRL
  else if ¬ s.mayLoadKey then s
  else
    let k := s.keyData
    let s := ((s.wr A.keyRam 0 k).wr A.keyRamOk 0 1).wr A.reg oKEYRAM_KCV (Config.kcv k)
    s.each 8 fun s i => s.wr A.reg (oKEYRAM_DATA + 4 * i) 0

def execKeyramLoad (who : Who) (s : State) : Res :=
  s.access who (.keyramLoad who) fun s => .next (s.bootOnly who State.keyLoad)

def execKeyramWipe (who : Who) (s : State) : Res :=
  s.access who (.keyramWipe who) fun s => .next (s.bootOnly who State.wipeKeyRam)

/-- LIVE of TAMPER_STATUS shows which sources are active when it is read; no command says when one ceases. (log 184 DESIGN CHOICE) -/
def State.tamperLive (s : State) : State :=
  let (v, s) := s.free 4
  s.wf 0 TAMPER_STATUS_LIVE v

/-- SEC_STATUS as it reads (R363). -/
def State.secStatus (s : State) : Nat :=
  let jtag : Bool := s.lc = 0 ∨ s.lc = 3 ∨ (s.lc = 1 ∧ s.rf 0 SEC_LOCK_JTAG_LOCK = 0)
  s.lc + 2 ^ 3 * s.rf 0 SEC_STATUS_LC_COMPLETED + 2 ^ 4 * bit s.fuseKekUsable + 2 ^ 5 * s.rd A.keyRamOk 0 +
    2 ^ 6 * s.rd A.vbat 0 + 2 ^ 7 * bit jtag + 2 ^ 8 * s.rd A.fuseRevoke 0

/-- SVN_STATUS as it reads. -/
def State.svnStatus (s : State) : Nat :=
  s.svn 1 + 2 ^ 8 * s.svn 2 + 2 ^ 16 * s.rf 0 SVN_STATUS_RUN_BOOT_SVN + 2 ^ 24 * s.rf 0 SVN_STATUS_RUN_IMAGE_SVN

end Sys2Proof.Machine
end

