-- ==== Sys2Proof/Machine/Links.lean ====
section
/-! DEFINITION. Chain links (chapter 13): training, rates, power states, link loss, and the search that a port change
disturbs. -/

namespace Sys2Proof.Machine

open Reg

/-- Block of lane `l` of port `p`. -/
def LN (p l : Nat) : Nat := Off.lane p l 0

/-- Lanes in the port (LANE_EN). -/
def State.lanes (s : State) (p : Nat) : List Nat := (List.range 4).filter (s.rf (PT p) PORT_CFG_LANE_EN).testBit

def State.laneSt (s : State) (p l : Nat) : Nat := s.rf (LN p l) LANE_STATUS_STATE

/-- Lane states (LANE_STATUS.STATE). -/
def lnOff : Nat := 0
def lnTrain : Nat := 1
def lnActive : Nat := 2
def lnQuiet : Nat := 3
def lnDormant : Nat := 4
def lnAbsent : Nat := 5
def lnFailed : Nat := 6

/-! ### The keystone's search (R323 to R328) -/

/-- Ports that are up. -/
def State.upPorts (s : State) : List Nat := (List.range 16).filter fun p => s.portUp p

def State.sendAll (s : State) (ps : List Nat) (y : Nat → Sym) : State := ps.foldl (fun s p => s.sendSym p (y p)) s

/-- The current epoch: that of the last SEARCH seen, but at a keystone that of its own last search. -/
def State.epochNow (s : State) : Nat := if s.on A.kEpoch 0 then s.rd A.kEpoch 0 - 1 else s.rf 0 CHAIN_STATUS_EPOCH
def State.kState (s : State) : Nat := s.rf 0 ENUM_STATUS_KSTATE

/-- A partition of this device is RUN or HELD (R326). -/
def State.anyStepping (s : State) : Bool := (List.range 32).any fun k => s.stoppable k

/-- The keystone stops a search with `result`. -/
def State.kStop (s : State) (result : Nat) : State := (s.wf 0 ENUM_STATUS_RESULT result).wf 0 ENUM_STATUS_KSTATE 0

/-- A device commits its address (R327): the tree of the epoch is not built yet, and neighbours learn the address. (log 101 DEDUCED) -/
def State.commitAddr (s : State) (a : Nat) : State :=
  let s := ((s.wf 0 CHAIN_STATUS_ADDR a).wf 0 CHAIN_STATUS_ADDR_VALID 1).wf 0 CHAIN_STATUS_ESTATE 2
  (((s.wr A.reg oCHAIN_TREE 0).wr A.trOpen 0 0).wr A.trClosed 0 0).plumbClear

def State.sendNeighbors (s : State) : State := s.sendAll s.upPorts fun p => .neighbor s.chainAddr p

/-- COMMIT_ACK at the keystone: the tree phase begins (R329). -/
def State.kAck (s : State) : State :=
  let s := (s.wf 0 ENUM_STATUS_COUNT (s.rd A.enCount 0)).wf 0 ENUM_STATUS_KSTATE 3
  let s := (s.wf 0 CHAIN_TREE_ROOT 1).wr A.trAt 0 s.mono
  s.sendAll s.upPorts fun _ => .tree s.epochNow 0 0

/-- COUNT at the keystone: it commits (R327). A keystone without a port 1 is the tail itself. -/
def State.kCommit (s : State) (n : Nat) : State :=
  let s := ((s.wr A.enCount 0 n).wf 0 ENUM_STATUS_KSTATE 2).commitAddr 0
  let s := (s.sendSym 1 (.commit s.epochNow n)).sendNeighbors
  if s.portUp 1 then s else s.kAck

/-- The keystone sends SEARCH. (log 100 DEDUCED) -/
def State.kSearch (s : State) : State :=
  let s := (s.wf 0 ENUM_STATUS_KSTATE 1).wr A.enAt 0 s.mono
  if s.portUp 1 then s.sendSym 1 (.search s.epochNow 1) else s.kCommit 1

def State.nextEpoch (s : State) : State := (s.wf 0 CHAIN_STATUS_EPOCH (s.epochNow + 1)).wr A.kEpoch 0 0

/-- A new search with RESTARTS 0. A keystone with a partition in RUN or HELD stops with BUSY (R326). (log 99 DEDUCED) -/
def State.kStart (s : State) : State :=
  let s := ((s.wf 0 ENUM_STATUS_RESTARTS 0).wf 0 ENUM_STATUS_RESULT 0).nextEpoch
  if s.anyStepping then s.kStop 4 else s.kSearch

/-- A disturbance (R328). -/
def State.disturb (s : State) : State :=
  if s.kState ≠ 1 ∧ s.kState ≠ 2 then s
  else if s.rf 0 ENUM_STATUS_RESTARTS < 3 then
    (s.wf 0 ENUM_STATUS_RESTARTS (s.rf 0 ENUM_STATUS_RESTARTS + 1)).nextEpoch.kSearch
  else s.kStop 2

/-- An enumeration search is in progress on this device (R320). (log 103 DEDUCED) -/
def State.searching (s : State) : Bool :=
  if s.isKeystone then s.kState = 1 ∨ s.kState = 2 else s.rf 0 CHAIN_STATUS_ESTATE = 1

/-! ### Ports up and down (R293, R319, R320) -/

/-- A port goes up or down: TOPO_EVENT, ABORT upstream, a disturbance at the keystone. -/
def State.portChanged (s : State) (p : Nat) : State :=
  let s := if s.searching then s else (s.orf 0 TOPO_EVENT_CHANGED (2 ^ p)).raise 0x5B8
  let s := s.sendSym 0 (.abort (s.rf 0 CHAIN_STATUS_EPOCH) 1)
  if s.isKeystone then s.disturb else s

/-- What a port's receive stream holds goes. -/
def State.clearRx (s : State) (p : Nat) : State :=
  { s with rxBlocks := s.rxBlocks.filter (·.port ≠ p), rxFrames := s.rxFrames.filter (·.port ≠ p) }

/-- What a port that goes down still had to send goes: symbols, frames, blocks. (log 163 DESIGN CHOICE) -/
def State.clearTx (s : State) (p : Nat) : State :=
  { s with symOut := s.symOut.filter (·.port ≠ p), frameOut := s.frameOut.filter (·.port ≠ p)
           txRest := s.txRest.filter (·.1 ≠ p), txQueue := s.txQueue.filter (·.port ≠ p)
           txKept := s.txKept.filter (·.port ≠ p) }

/-- Members of partition `pid` lie beyond tree port `p`; none where this device cannot tell. A loaded member in MODE 2
always pulls a phase (R149), so a child's upward state tells of its side; of the parent's side only pulls that are not this
device's own do. -/
def State.membersBeyond (s : State) (p pid : Nat) : Option Bool :=
  if s.treeChildren.contains p then some (s.rd A.plumbUp (256 * p + pid) ≠ 0)
  else if s.treeParent ≠ some p then some false
  else if s.rd A.plumbDown pid ||| s.rd A.plumbSent pid ≠ s.rd A.plumbSent pid then some true
  else if s.rd A.plumbDown pid = 0 then some false
  else none

/-- Members of partition `pid` lie on this side of tree port `p`. -/
def State.membersHere (s : State) (p pid : Nat) : Option Bool :=
  let sides := ((s.treePorts.filter (· ≠ p)).map fun q => s.membersBeyond q pid)
  if (s.slotOfPid pid).isSome ∨ sides.contains (some true) then some true
  else if sides.contains none then none
  else some false

/-- The device at the far end of port `p` is a member of the partition of slot `k` (R164). -/
def State.peerMember (s : State) (p k : Nat) : Bool :=
  s.members.any fun m => m.slot = k ∧ m.addr = s.rf (PT p) PORT_STATUS_PEER_ADDR

/-- Tree port `p` leads to another member of slot `k`, in every plumb mode (R156); where the device cannot tell, a free bit
says so. (log 98 DEDUCED) -/
def State.treeLink (s : State) (p k : Nat) : Bool × State :=
  if ¬ (s.treePorts.contains p ∧ 1 < s.rd A.pMembers k) then (false, s)
  else match (if s.peerMember p k then some true
      else if s.treeMode k then s.membersBeyond p (s.rd A.pPid k) else none) with
    | some b => (b, s)
    | none =>
      let (v, s) := s.free 1
      (v = 1, s)

/-- Positions of the port that the partition of slot `k` owns. -/
def State.onPort (s : State) (p k : Nat) : Bool :=
  ¬ (s.portLanes 5 p (s.rd A.pPid k)).isEmpty ∨ ¬ (s.portLanes 6 p (s.rd A.pPid k)).isEmpty

/-- A partition that this device is no member of, with members on both sides of a lost tree link (R157): the device pulls
HOLD and the three phases for it, and sends SEVER on. Of a partition in MODE 1 the tree tells nothing; where the device
cannot tell, `free` says so. (log 98 DEDUCED) -/
def State.loseForeign (s : State) (p pid : Nat) (free : Bool) : State :=
  let both : Bool := match s.membersBeyond p pid, s.membersHere p pid with
    | some true, some true => true
    | some true, some false => false
    | some false, some true => false
    | _, _ => free
  if ¬ both then s
  else
    ((s.wr A.plumbForce pid 15).plumbSync pid).sendTree (some p)
      (.sever pid (s.rf (PT p) PORT_STATUS_PEER_ADDR) 1 s.chainAddr)

/-- R156 to R158 for the partitions with tree traffic or positions on a port that went down. (log 98 DEDUCED) -/
def State.loseOver (s : State) (p : Nat) : State :=
  let peer := s.rf (PT p) PORT_STATUS_PEER_ADDR
  let s := s.each 32 fun s k =>
    if ¬ s.loaded k then s
    else
      let (tree, s) := s.treeLink p k
      if tree then s.loseMember k peer 1 p (some p)
      else if s.onPort p k then s.loseMember k peer 3 p (some p)
      else s
  if s.treePorts.contains p then
    let (m, s) := s.free 256
    s.each 256 fun s pid => if (s.slotOfPid pid).isSome then s else s.loseForeign p pid (m.testBit pid)
  else s

/-- A port whose capacity has fallen below the enabled positions of a partition in RUN or HELD: the loss of that link for
it (R126). -/
def State.capacityFell (s : State) (p : Nat) : State :=
  s.each 32 fun s k =>
    if s.stoppable k ∧ s.portUp p ∧ s.portShort k p then
      s.loseMember k (s.rf (PT p) PORT_STATUS_PEER_ADDR) 3 p (some p)
    else s

/-- R347: a chain port that goes down while images load; the keystone searches anew. (log 104 DEDUCED) -/
def State.loadRetry (s : State) : State :=
  if s.stage = 4 ∨ s.stage = 5 then
    let again := s.rd A.strmTries 0 < slice (s.rd A.chainParams 0) 0x120 3
    let s := s.abandonStream
    if s.isKeystone ∧ again ∧ s.kState ≠ 1 ∧ s.kState ≠ 2 then s.kStart else s
  else s

/-- What the loss of a port does beyond it (R156 to R158, R320, R347). -/
def State.portLost (s : State) (p : Nat) : State :=
  let s := ((s.clearTx p).loseOver p).portChanged p
  if p ≤ 1 then s.loadRetry else s

/-- ACTIVE, RATE and UP follow the lanes. (log 95 DEDUCED) -/
def State.portSync (s : State) (p : Nat) : State :=
  let act := (s.lanes p).filter fun l => s.laneSt p l = lnActive
  let up := (s.lanes p).any fun l => (lnActive ≤ s.laneSt p l ∧ s.laneSt p l ≤ lnDormant) ∨ s.on A.lnRelock (4 * p + l)
  let s := s.wf (PT p) PORT_STATUS_ACTIVE (act.map (2 ^ ·)).sum
  let s := match act with
    | l :: _ => s.wf (PT p) PORT_STATUS_RATE (s.rf (LN p l) LANE_STATUS_RATE)
    | [] => s
  if up = s.portUp p then s.capacityFell p
  else
    let s := s.wf (PT p) PORT_STATUS_UP (bit up)
    if up then ((s.clearRx p).heard p).portChanged p else (s.clearRx p).portLost p

/-- A lane enters FAILED. -/
def State.failLane (s : State) (p l : Nat) : State :=
  let b := LN p l
  if s.laneSt p l = lnOff ∨ lnAbsent ≤ s.laneSt p l then s
  else
    let s := (((s.wf b LANE_STATUS_STATE lnFailed).wf b LANE_STATUS_HDR_LOCK 0).wf b LANE_STATUS_BLK_LOCK 0).wf b
      LANE_STATUS_CAPS_VALID 0
    ((s.wr A.lnRelock (4 * p + l) 0).wr A.lnNak (4 * p + l) 0).wr A.lnFails (4 * p + l) 0

/-- A port goes down as a whole (R319). (log 97 DEDUCED) -/
def State.portDown (s : State) (p : Nat) : State :=
  if ¬ s.portUp p then s
  else
    let s := s.each 4 fun s l => s.failLane p l
    let s := ((s.wf (PT p) PORT_STATUS_UP 0).wf (PT p) PORT_STATUS_ACTIVE 0).wf (PT p) PORT_STATUS_PSTATE 0
    let s := (((s.wr A.ptReq p 0).wr A.ptSwitch p 0).wr A.ptPs p 0).clearRx p
    let s := ((s.wr A.ptNakBlk p 0).wr A.ptNakCnt p 0).cnt (PT p) PORT_ERR_DOWN 1
    (s.raise (0x5A0 + p)).portLost p

/-- R306: a frame of another type, or too long. -/
def State.streamError (s : State) (p : Nat) : State := (s.cnt (PT p) PORT_ERR_STREAM 1).portDown p

/-- MORTAR_FRAME. -/
def execMortarFrame (port : Fin 16) (hdr : BitVec 24) (payload : List Bool) (s : State) : Res := s.live fun s =>
  .next (if slice hdr.toNat 20 4 ≠ 0xA ∨ 256 < payload.length then s.streamError port
    else s.frameIn port hdr.toNat payload)

def execSymbolSilenceTimeout (port : Fin 16) (s : State) : Res := s.live fun s =>
  .next (if s.rf (PT port) PORT_STATUS_PSTATE = 0 ∧ s.rd A.ptSeen port + 8000 ≤ s.mono then s.portDown port else s)

def execHeartbeatInterval (port : Fin 16) (s : State) : Res := s.live fun s =>
  .next (if s.rf (PT port) PORT_STATUS_PSTATE = 0 then s.sendSym port .heartbeat else s)

def execHeartbeat (port : Fin 16) (s : State) : Res := s.live fun s => .next (s.heard port)

/-- A lane that misses 8 MARKERs. -/
def execBlockLockLoss (port : Fin 16) (lane : Fin 4) (s : State) : Res := s.live fun s =>
  let b := LN port lane
  .next (if s.rf b LANE_STATUS_BLK_LOCK = 0 then s
    else ((s.cnt b LANE_ERR_LOCK_LOSS 1).wf b LANE_STATUS_BLK_LOCK 0).portDown port)

/-- Kept blocks of a lane from the one with number `n` on. -/
def State.keptFrom (s : State) (p l n : Nat) : List TxBlock :=
  (s.txKept.filter fun b => b.port = p ∧ b.lane = l).dropWhile (·.num ≠ n)

/-- Lane `l` replays from block `n` (R300): the kept blocks from that one on are sent again, before any other. -/
def State.replay (s : State) (p l n : Nat) : State :=
  let again := s.keptFrom p l n
  State.cnt { s with txQueue := again ++ s.txQueue, txKept := s.txKept.filter fun b => ¬ again.contains b } (PT p)
    PORT_ERR_REPLAYS again.length

/-- NAK on lane `l`: the transmitter replays from the named block, if it is one of the last 64. The ninth NAK of a block in
a row answers its eighth replay (R300). (log 88 DESIGN CHOICE, 89 DEDUCED) -/
def State.nakIn (s : State) (p l block : Nat) : State :=
  if ¬ s.portUp p ∨ 3 ≤ s.rf (PT p) PORT_STATUS_RATE then s
  else
    let n := if s.rd A.ptNakBlk p = 1 + block then s.rd A.ptNakCnt p + 1 else 1
    let s := (s.wr A.ptNakBlk p (1 + block)).wr A.ptNakCnt p n
    if 8 < n then s.portDown p
    else s.replay p l block

/-- A NAK that a command delivers names no lane: the lane that it came on is open. (log 88 DESIGN CHOICE) -/
def execNak (port : Fin 16) (block : BitVec 24) (s : State) : Res := s.live fun s =>
  let (l, s) := (s.heard port).free 2
  .next (s.nakIn port l block.toNat)

/-! ### Training (R311 to R318) -/

/-- FIR presets as LANE_FIR holds them (R311). -/
def firPreset (rate : Nat) : Nat :=
  let t (pre main post : Nat) := pre + 2 ^ 6 * main + 2 ^ 13 * post
  match rate with
  | 0 => t 0 64 0
  | 1 => t 0 56 8
  | 2 => t 4 50 10
  | 3 => t 6 46 12
  | _ => t 8 42 14

/-- The receiver adapts (R312), in a training step or, with DFE_FREEZE stopping the DFE, by tracking: the values it finds
are not stated. (log 92 DESIGN CHOICE) -/
def State.adapt (s : State) (p l : Nat) (step : Bool) : State :=
  let b := LN p l
  let s := if s.rf b LANE_RX_CTLE_AUTO = 1 then (let (v, s) := s.free 5; s.wf b LANE_RX_CTLE v) else s
  if s.rf b LANE_RX_DFE_AUTO = 1 ∧ (step ∨ s.rf b LANE_RX_DFE_FREEZE = 0) then
    s.each 12 fun s t => (let (v, s) := s.free 8; s.wr A.lnTap (16 * (4 * p + l) + t) v)
  else s

/-- Tracking of an ACTIVE lane, as an access of LANE_RX or LANE_DFE finds it (R312). -/
def State.track (s : State) (p l : Nat) : State := if s.laneSt p l = lnActive then s.adapt p l false else s

/-- A training step begins. One that a failed step leads back to leaves TIMEOUT and the previous rate as they are. (log 92 DESIGN CHOICE) -/
def State.train (s : State) (p l rate : Nat) (back : Bool) : State :=
  let b := LN p l
  let x := 4 * p + l
  let s := if back then s else (s.wr A.lnPrev x (s.rf b LANE_STATUS_RATE)).wf b LANE_STATUS_TIMEOUT 0
  let s := (((s.wf b LANE_STATUS_STATE lnTrain).wf b LANE_STATUS_RATE rate).wf b LANE_STATUS_SLIPS 0).wf b
    LANE_STATUS_HDR_LOCK 0
  let s := ((s.wf b LANE_STATUS_BLK_LOCK 0).wf b LANE_STATUS_CAPS_VALID 0).wr A.reg (b + oLANE_FIR) (firPreset rate)
  let (d, s) := s.free 2
  let s := (s.wf b LANE_STATUS_SIG_DET d).wf b LANE_STATUS_CDR_LOCK (d / 2)
  let s := (((s.wr A.lnSince x s.mono).wr A.lnRelock x 0).wr A.lnNak x 0).wr A.lnFails x 0
  let s : State := { s with txQueue := s.txQueue.filter fun b => ¬ (b.port = p ∧ b.lane = l)
                            txKept := s.txKept.filter fun b => ¬ (b.port = p ∧ b.lane = l) }
  let s := s.wr A.lnTx x 0
  (if (s.lanes p).any fun m => s.laneSt p m = lnActive then s else s.wf (PT p) PORT_STATUS_RATE rate).adapt p l true

/-- LANE_CTRL: RATE is stored, and TRAIN begins a step at it; codes 5 to 7 are reserved. (log 93 DEDUCED) -/
def State.laneCtrl (s : State) (p l v : Nat) : State :=
  let s := s.wf (LN p l) LANE_CTRL_RATE v
  if slice v 3 1 = 1 ∧ slice v 0 3 ≤ 4 then (s.train p l (slice v 0 3) false).portSync p else s

def execLaneTrain (who : Who) (port : Fin 16) (lane : Fin 4) (val : Word) (s : State) : Res :=
  s.accessDom who (port / 2) domLink (.laneTrain who port lane val) fun s =>
  .next (if s.pfRights who then (s.laneCtrl port lane val.toNat).okay else s.deny)

/-- A step that fails (R317, R318). (log 94 DEDUCED) -/
def State.trainFail (s : State) (p l : Nat) : State :=
  let b := LN p l
  let s := s.wf b LANE_STATUS_TIMEOUT 1
  if s.rf b LANE_STATUS_RATE = 0 then
    ((s.wf b LANE_STATUS_STATE lnAbsent).wr A.lnSince (4 * p + l) s.mono).portSync p
  else
    let s := (s.wf (PT p) PORT_STATUS_LAST_REQ 3).raise (0x5A0 + p)
    ((s.lanes p).foldl (fun s l => s.train p l (s.rd A.lnPrev (4 * p + l)) true) s).portSync p

/-- The lane has block lock and CAPS: its training step has succeeded (R313). -/
def State.trained1 (s : State) (p l : Nat) : Bool :=
  s.rf (LN p l) LANE_STATUS_BLK_LOCK = 1 ∧ s.rf (LN p l) LANE_STATUS_CAPS_VALID = 1

/-- Log 105 DEDUCED. -/
def execTrainingTimeout (port : Fin 16) (lane : Fin 4) (s : State) : Res := s.live fun s =>
  let x := 4 * port.val + lane
  .next (if s.laneSt port lane = lnTrain ∧ ¬ s.on A.lnRelock x ∧ ¬ s.trained1 port lane ∧ s.rd A.lnSince x + 10000000 ≤ s.mono then
    s.trainFail port lane else s)

/-- A slip moves the word boundary, which SLIPS gives modulo 64, so header lock is lost with it. (log 93 DEDUCED) -/
def State.bitslip (s : State) (p l : Nat) : State :=
  let b := LN p l
  let s := s.wf b LANE_STATUS_SLIPS (s.rf b LANE_STATUS_SLIPS + 1)
  if s.laneSt p l = lnTrain ∧ s.rf b LANE_STATUS_BLK_LOCK = 0 then s.wf b LANE_STATUS_HDR_LOCK 0 else s

def execLinkBitslip (who : Who) (port : Fin 16) (lane : Fin 4) (s : State) : Res :=
  s.accessDom who (port / 2) domLink (.linkBitslip who port lane) fun s =>
  .next (if s.pfRights who then (s.bitslip port lane).okay else s.deny)

def execHeaderLock (port : Fin 16) (lane : Fin 4) (s : State) : Res := s.live fun s =>
  let b := LN port lane
  .next (if s.laneSt port lane = lnTrain then
    ((s.wf b LANE_STATUS_HDR_LOCK 1).wf b LANE_STATUS_SIG_DET 1).wf b LANE_STATUS_CDR_LOCK 1 else s)

/-- Content of CAPS (R309). -/
def State.capsOf (s : State) (p l : Nat) : Nat :=
  2 ^ 53 * s.rf (PT p) PORT_CFG_MAX_RATE + 2 ^ 49 * p + 2 ^ 47 * l + 2 ^ 46 * s.rf 0 CHAIN_STATUS_KEYSTONE +
  2 ^ 34 * s.chainAddr + 2 ^ 33 * s.rf 0 CHAIN_STATUS_ADDR_VALID

/-- The relock of a lane after DORMANT ends; the port is ACTIVE again once every lane has relocked (R321). -/
def State.relocked (s : State) (p l : Nat) : State :=
  let s := (s.wr A.lnRelock (4 * p + l) 0).wf (LN p l) LANE_STATUS_STATE lnActive
  let s := if (s.lanes p).any fun m => s.on A.lnRelock (4 * p + m) then s
    else (s.wf (PT p) PORT_STATUS_PSTATE 0).heard p
  s.portSync p

/-- Superframe number at block lock: that of another locked lane of the port, which sends its MARKERs in the same word
(R298), else open. (log 190 DESIGN CHOICE) -/
def State.lockSeq (s : State) (p l : Nat) : Nat × State :=
  match (s.lanes p).find? fun m => m ≠ l ∧ s.rf (LN p m) LANE_STATUS_BLK_LOCK = 1 with
  | some m => (s.rd A.lnSeq (4 * p + m), s)
  | none => s.free 16

/-- Block lock, at a MARKER: from now on CAPS is sent on the lane (R315), or the relock after DORMANT ends. (log 91 DEDUCED) -/
def State.blockLocked (s : State) (p l : Nat) : State :=
  let b := LN p l
  let x := 4 * p + l
  if s.laneSt p l ≠ lnTrain ∨ s.rf b LANE_STATUS_HDR_LOCK = 0 ∨ s.rf b LANE_STATUS_BLK_LOCK = 1 then s
  else
    let (n, s) := s.lockSeq p l
    let s := ((s.wf b LANE_STATUS_BLK_LOCK 1).wr A.lnSlot x 1).wr A.lnSeq x n
    if s.on A.lnRelock x then s.relocked p l else s

def execBlockLock (port : Fin 16) (lane : Fin 4) (s : State) : Res := s.live fun s => .next (s.blockLocked port lane)

/-- The rate of a lane that ends its training step is that of the port's ACTIVE lanes (R293). -/
def State.rateFits (s : State) (p l : Nat) : Bool :=
  (s.lanes p).all fun m => s.laneSt p m ≠ lnActive ∨ s.rf (LN p m) LANE_STATUS_RATE = s.rf (LN p l) LANE_STATUS_RATE

/-- The lane sends blocks. -/
def State.sendsBlocks (s : State) (p l : Nat) : Bool :=
  (s.laneSt p l = lnTrain ∨ s.laneSt p l = lnActive) ∧ s.rd A.lnTx (4 * p + l) = 5

/-- A lane takes the place in the superframe of a lane of the port that sends blocks at its rate, so that their MARKERs go out
in one transmit word (R298). -/
def State.alignBlocks (s : State) (p l : Nat) : State :=
  let x := 4 * p + l
  match (s.lanes p).find? fun m => m ≠ l ∧ s.sendsBlocks p m ∧
      s.rf (LN p m) LANE_STATUS_RATE = s.rf (LN p l) LANE_STATUS_RATE with
  | some m => (s.wr A.lnTxSlot x (s.rd A.lnTxSlot (4 * p + m))).wr A.lnTxSeq x (s.rd A.lnTxSeq (4 * p + m))
  | none => s

/-- The first block of a lane: a MARKER, unless other lanes of the port send already. -/
def State.firstBlock (s : State) (p l : Nat) : State := (s.wr A.lnTxSlot (4 * p + l) 0).alignBlocks p l

/-- CAPS ends the training step; a changed port or lane takes the port down (R319). A lane that trained at another rate than
the port's ACTIVE lanes does not join them, though its step has succeeded. (log 164 DESIGN CHOICE) -/
def State.capsIn (s : State) (p l c : Nat) : State :=
  let b := LN p l
  let changed := s.rf b LANE_CAPS_PORT ≠ slice c 49 4 ∨ s.rf b LANE_CAPS_LANE ≠ slice c 47 2
  if s.rf b LANE_STATUS_BLK_LOCK = 0 then s
  else if s.rf b LANE_STATUS_CAPS_VALID = 1 ∧ changed then s.portDown p
  else
    let v := slice c 53 3 + 2 ^ 3 * slice c 49 4 + 2 ^ 7 * slice c 47 2 + 2 ^ 9 * slice c 46 1 + 2 ^ 10 * slice c 34 12 +
      2 ^ 22 * slice c 33 1
    let s := (s.wr A.reg (b + oLANE_CAPS) v).wf b LANE_STATUS_CAPS_VALID 1
    if s.laneSt p l ≠ lnTrain then s
    else
      let s := s.wf b LANE_STATUS_TIMEOUT 0
      if s.rateFits p l then (s.wf b LANE_STATUS_STATE lnActive).portSync p else s

def execCaps (port : Fin 16) (lane : Fin 4) (content : BitVec 56) (s : State) : Res := s.live fun s =>
  .next ((s.heard port).capsIn port lane content.toNat)

def execPresencePoll (port : Fin 16) (lane : Fin 4) (signal : Bool) (s : State) : Res := s.live fun s =>
  let b := LN port lane
  let x := 4 * port.val + lane
  .next (if s.laneSt port lane = lnAbsent ∧
      s.rd A.lnSince x + 1000000 * s.rf 0 LINK_POLL_PRESENCE_POLL_MS ≤ s.mono then
    let s := (s.wf b LANE_STATUS_SIG_DET (bit signal)).wr A.lnSince x s.mono
    if signal then (s.wf b LANE_STATUS_STATE lnOff).raise (0x5A0 + port) else s
  else s)

/-! ### Rates (R316) -/

/-- PORT_CMD with REQ. -/
def State.rateAsk (s : State) (p rate : Nat) : State :=
  ((s.wf (PT p) PORT_STATUS_LAST_REQ 0).wr A.ptReq p (1 + rate)).sendSym p (.rateReq rate)

def execRateReqSend (who : Who) (port : Fin 16) (val : Word) (s : State) : Res :=
  s.accessDom who (port / 2) domLink (.rateReqSend who port val) fun s =>
  .next (if s.pfRights who then (s.rateAsk port (slice val.toNat 0 3)).okay else s.deny)

/-- RATE_REQ: refused above MAX_RATE, or while a lane in the port is not ACTIVE. -/
def State.rateAsked (s : State) (p rate : Nat) : State :=
  let no : Bool := s.rf (PT p) PORT_CFG_MAX_RATE < rate ∨ (s.lanes p).any fun l => s.laneSt p l ≠ lnActive
  let s := s.sendSym p (.rateAck rate no)
  if no then s else s.wr A.ptSwitch p (1 + rate)

def execRateReq (port : Fin 16) (rate : BitVec 3) (s : State) : Res := s.live fun s =>
  .next ((s.heard port).rateAsked port rate.toNat)

def State.rateAnswer (s : State) (p rate : Nat) (refused : Bool) : State :=
  if s.rd A.ptReq p ≠ 1 + rate then s
  else
    let s := s.wr A.ptReq p 0
    if refused then s.wf (PT p) PORT_STATUS_LAST_REQ 2
    else (s.wf (PT p) PORT_STATUS_LAST_REQ 1).wr A.ptSwitch p (1 + rate)

def execRateAck (port : Fin 16) (rate : BitVec 3) (refused : Bool) (s : State) : Res := s.live fun s =>
  .next ((s.heard port).rateAnswer port rate.toNat refused)

/-- At the second MARKER after an accepted RATE_ACK. -/
def execRateSwitch (port : Fin 16) (s : State) : Res := s.live fun s =>
  let p := port.val
  let r := s.rd A.ptSwitch p
  .next (if r = 0 then s
    else (((s.lanes p).foldl (fun s l => s.train p l (r - 1) false) (s.wr A.ptSwitch p 0))).portSync p)

/-! ### Port power states (R321, R322) -/

/-- The port is a tree link, or carries positions, of a partition that is RUN or HELD. -/
def State.portNeeded (s : State) (p : Nat) : Bool :=
  (List.range 32).any fun k => s.stoppable k ∧
    (((s.treeMode k ∨ 1 < s.rd A.pMembers k) ∧ s.treePorts.contains p) ∨ s.onPort p k)

def State.lanesTo (s : State) (p frm dst : Nat) : State :=
  (s.lanes p).foldl (fun s l => if s.laneSt p l = frm then s.wf (LN p l) LANE_STATUS_STATE dst else s) s

/-- After the next MARKER: both ends enter the state. (log 95 DEDUCED, 96 DEDUCED) -/
def State.enterPs (s : State) (p : Nat) : State :=
  let x := s.rd A.ptPs p % 8
  if x = 0 then s
  else
    let st := x - 1
    let s := ((s.wr A.ptPs p 0).wf (PT p) PORT_STATUS_PSTATE st).lanesTo p lnActive (st + 2)
    let s := if st = 2 then (s.lanes p).foldl (fun s l =>
        ((s.wf (LN p l) LANE_STATUS_CDR_LOCK 0).wf (LN p l) LANE_STATUS_HDR_LOCK 0).wf (LN p l) LANE_STATUS_BLK_LOCK 0) s
      else s
    s.portSync p

/-- A port leaves QUIET or DORMANT; CHECK is sent (R371). After DORMANT the lanes relock, and the port shows DORMANT until
they have. -/
def State.wakePort (s : State) (p : Nat) : State :=
  let st := s.rf (PT p) PORT_STATUS_PSTATE
  if st = 0 ∨ (st = 2 ∧ (s.lanes p).any fun l => s.on A.lnRelock (4 * p + l)) then s
  else
    let s := if st = 1 then (s.wf (PT p) PORT_STATUS_PSTATE 0).lanesTo p lnQuiet lnActive
      else (s.lanes p).foldl (fun s l =>
        if s.laneSt p l = lnDormant then
          ((s.wr A.lnRelock (4 * p + l) 1).wr A.lnSince (4 * p + l) s.mono).wf (LN p l) LANE_STATUS_STATE lnTrain
        else s) s
    ((s.portSync p).heard p).sendSym p s.checkNow

/-- PORT_CMD with PS; power state 3 is reserved. (log 96 DEDUCED) -/
def State.psAsk (s : State) (p st : Nat) : State :=
  if st = 0 then s.wakePort p
  else if st = 3 ∨ ¬ s.portUp p then s
  else if s.portNeeded p then s.wf (PT p) PORT_STATUS_LAST_REQ 4
  else (s.wr A.ptPs p (9 + st)).sendSym p (.pstate st)

def execPstateRequest (who : Who) (port : Fin 16) (val : Word) (s : State) : Res :=
  s.accessDom who (port / 2) domLink (.pstateRequest who port val) fun s =>
  .next (if s.pfRights who then (s.psAsk port (slice val.toNat 4 2)).okay else s.deny)

/-- PSTATE: ACTIVE answers a request with a refusal. (log 96 DEDUCED) -/
def State.psAsked (s : State) (p st : Nat) : State :=
  if st = 0 then (if 8 ≤ s.rd A.ptPs p then (s.wr A.ptPs p 0).wf (PT p) PORT_STATUS_LAST_REQ 4 else s)
  else if st = 3 then s
  else if s.portNeeded p then s.sendSym p (.pstate 0)
  else s.wr A.ptPs p (1 + st)

def execPstate (port : Fin 16) (st : BitVec 2) (s : State) : Res := s.live fun s =>
  .next ((s.heard port).psAsked port st.toNat)

def execPortWake (port : Fin 16) (s : State) : Res := s.live fun s => .next (s.wakePort port)

/-- Log 105 DEDUCED. -/
def execDormantRelockTimeout (port : Fin 16) (s : State) : Res := s.live fun s =>
  let p := port.val
  .next (if (s.lanes p).any fun l => s.on A.lnRelock (4 * p + l) ∧ s.rd A.lnSince (4 * p + l) + 400000 ≤ s.mono then
    s.portDown p else s)

end Sys2Proof.Machine
end

