-- ==== Sys2Proof/Machine/Enum.lean ====
section
/-! DEFINITION. Enumeration of the chain, the plumb tree and the plumb bus positions (R323 to R330). -/

namespace Sys2Proof.Machine

open Reg

/-- The boot stage CHAIN begins with the search. (log 68 DESIGN CHOICE) -/
def State.chainStage (s : State) : State := if s.stage = 3 then s.setStage 4 else s

/-- ENUM_CTRL.START (R323, R331). (log 99 DEDUCED) -/
def State.enumAsk (s : State) : State :=
  if ¬ s.isKeystone then s.wf 0 ENUM_STATUS_RESULT 6
  else if s.kState = 0 ∨ s.kState = 5 then s.chainStage.kStart
  else s

def execEnumStart (who : Who) (s : State) : Res := s.access who (.enumStart who) fun s =>
  .next (if s.pfRights who then s.enumAsk.okay else s.deny)

/-- The firmware goes on from its FIRMWARE stage to the CHAIN stage, where the keystone starts the search (R323, R333). When
it does is not stated: a free bit of each period says. (log 68 DESIGN CHOICE) -/
def State.chainBegin (s : State) : State :=
  if s.stage ≠ 3 then s
  else
    let (v, s) := s.free 1
    if v = 0 then s else if s.isKeystone then s.enumAsk else s.chainStage

/-- A provisional address (R325): the search goes on, or ends at the tail. -/
def State.takeProv (s : State) (e a : Nat) : State :=
  let s := (s.wr A.enProv 0 (a + 2 ^ 12 * e + 2 ^ 20)).wf 0 CHAIN_STATUS_ESTATE 1
  let s := s.wr A.enTail 0 (bit (¬ s.portUp 1))
  if ¬ s.portUp 1 then s.sendSym 0 (.count e (a + 1) false)
  else if a + 1 = 4096 then s.sendSym 0 (.count e (a + 1) true)
  else s.sendSym 1 (.search e (a + 1))

/-- SEARCH on port 0 (R323, R325, R326). A new search while images load takes their place (R347). -/
def State.searchIn (s : State) (e a : Nat) : State :=
  let s := if s.stage = 5 then s.abandonStream else s
  let own := s.epochNow
  let s := s.chainStage.wf 0 CHAIN_STATUS_EPOCH e
  let s := if s.isKeystone then s.wr A.kEpoch 0 (1 + own) else s
  if s.isKeystone then s.sendSym 0 (.abort e 2)
  else if s.anyStepping then s.sendSym 0 (.abort e 3)
  else s.takeProv e (a % 4096)

def execSearch (epoch : BitVec 8) (next : BitVec 13) (s : State) : Res := s.live fun s =>
  .next ((s.heard 0).searchIn epoch.toNat next.toNat)

/-- COUNT on port 1. -/
def State.countIn (s : State) (e n : Nat) (overflow : Bool) : State :=
  if ¬ s.isKeystone then s.sendSym 0 (.count e n overflow)
  else if e ≠ s.epochNow ∨ s.kState ≠ 1 then s
  else if overflow then s.kStop 3
  else s.kCommit n

def execCount (epoch : BitVec 8) (n : BitVec 13) (overflow : Bool) (s : State) : Res := s.live fun s =>
  .next ((s.heard 1).countIn epoch.toNat n.toNat overflow)

/-- COMMIT on port 0: the provisional address of that epoch is committed (R327). -/
def State.commitIn (s : State) (e n : Nat) : State :=
  let p := s.rd A.enProv 0
  if s.isKeystone ∨ slice p 20 1 = 0 ∨ slice p 12 8 ≠ e then s
  else
    let s := (((s.wr A.enProv 0 0).wr A.enCount 0 n).commitAddr (slice p 0 12)).sendSym 1 (.commit e n)
    let s := s.sendNeighbors
    if s.on A.enTail 0 then s.sendSym 0 (.commitAck e) else s

def execCommit (epoch : BitVec 8) (n : BitVec 13) (s : State) : Res := s.live fun s =>
  .next ((s.heard 0).commitIn epoch.toNat n.toNat)

/-- COMMIT_ACK on port 1. -/
def State.commitAckIn (s : State) (e : Nat) : State :=
  if ¬ s.isKeystone then s.sendSym 0 (.commitAck e)
  else if e = s.epochNow ∧ s.kState = 2 then s.kAck
  else s

def execCommitAck (epoch : BitVec 8) (s : State) : Res := s.live fun s => .next ((s.heard 1).commitAckIn epoch.toNat)

/-- A link change further down while images load may be the loss of a chain port (R347); ABORT does not name the port, and
a free bit says whether it is. (log 154 DESIGN CHOICE) -/
def State.lossBelow (s : State) (f : State → State) : State :=
  if s.stage = 4 ∨ s.stage = 5 then (let (x, s) := s.free 1; if x = 1 then f s else s) else s

/-- ABORT on port 1 (R323, R326, R328). -/
def State.abortIn (s : State) (e reason : Nat) : State :=
  if ¬ s.isKeystone then
    (if reason = 1 ∧ e = s.epochNow then s.lossBelow State.abandonStream else s).sendSym 0 (.abort e reason)
  else if e ≠ s.epochNow then s
  else match reason with
    | 1 => if s.kState = 1 ∨ s.kState = 2 then s.disturb else s.lossBelow State.loadRetry
    | 2 => if s.kState = 1 then s.kStop 5 else s
    | 3 => if s.kState = 1 then s.kStop 4 else s
    | _ => s

def execAbort (epoch : BitVec 8) (reason : BitVec 4) (s : State) : Res := s.live fun s =>
  .next ((s.heard 1).abortIn epoch.toNat reason.toNat)

/-- Log 105 DEDUCED. -/
def execEnumCountTimeout (s : State) : Res := s.live fun s =>
  .next (if s.isKeystone ∧ s.kState = 1 ∧ s.rd A.enAt 0 + 1000000 * s.rf 0 ENUM_CTRL_TIMEOUT_MS ≤ s.mono then
    s.disturb else s)

def execNeighbor (port : Fin 16) (addr : BitVec 12) (peer : BitVec 4) (s : State) : Res := s.live fun s =>
  let b := PT port
  .next ((((s.heard port).wf b PORT_STATUS_PEER_ADDR addr.toNat).wf b PORT_STATUS_PEER_VALID 1).wf b PORT_STATUS_PEER_PORT
    peer.toNat)

/-! ### The tree (R329) -/

/-- TREE: the lowest hop, then the lowest sender, within the window. (log 102 DEDUCED) -/
def State.treeIn (s : State) (p e hop sender : Nat) : State :=
  let v := p + 2 ^ 4 * sender + 2 ^ 16 * hop
  if s.isKeystone ∨ e ≠ s.epochNow ∨ s.rd A.trClosed 0 = 1 + e then s
  else if ¬ s.on A.trOpen 0 then ((s.wr A.trOpen 0 1).wr A.trAt 0 s.mono).wr A.trBest 0 v
  else if v / 2 ^ 4 < s.rd A.trBest 0 / 2 ^ 4 then s.wr A.trBest 0 v
  else s

def execTree (port : Fin 16) (epoch : BitVec 8) (hop : BitVec 8) (sender : BitVec 12) (s : State) : Res := s.live fun s =>
  .next ((s.heard port).treeIn port epoch.toNat hop.toNat sender.toNat)

/-- The window closes 50 µs after the first TREE. -/
def State.treeClose (s : State) : State :=
  let v := s.rd A.trBest 0
  let parent := slice v 0 4
  let hop := slice v 16 8
  let e := s.epochNow
  let s := (s.wr A.trOpen 0 0).wr A.trClosed 0 (1 + e)
  let s := (((s.wf 0 CHAIN_TREE_PARENT parent).wf 0 CHAIN_TREE_ROOT 0).wf 0 CHAIN_TREE_DEPTH (hop + 1)).wf 0
    CHAIN_TREE_VALID 1
  let s := s.sendSym parent (.treeAck e s.chainAddr)
  (s.sendAll (s.upPorts.filter (· ≠ parent)) fun _ => .tree e ((hop + 1) % 256) s.chainAddr).plumbBegin

def execTreeWindowClose (s : State) : Res := s.live fun s =>
  .next (if s.on A.trOpen 0 ∧ s.rd A.trAt 0 + 50000 ≤ s.mono then s.treeClose else s)

/-- A new child learns the combined states (R150). -/
def State.plumbToChild (s : State) (p : Nat) : State :=
  (s.listed A.plumbDown).foldl (fun s x => s.sendSym p (.plumbDown x.1 x.2)) s

def execTreeAck (port : Fin 16) (epoch : BitVec 8) (_child : BitVec 12) (s : State) : Res := s.live fun s =>
  let s := s.heard port
  .next (if epoch.toNat = s.epochNow then (s.orf 0 CHAIN_TREE_CHILDREN (2 ^ port.val)).plumbToChild port else s)

/-- 1 ms after its TREE the keystone begins the bus phase; it is the first to hold the token (R330). -/
def execTreePhaseEnd (s : State) : Res := s.live fun s =>
  .next (if s.isKeystone ∧ s.kState = 3 ∧ s.rd A.trAt 0 + 1000000 ≤ s.mono then
    ((s.wf 0 CHAIN_TREE_VALID 1).plumbBegin.wf 0 ENUM_STATUS_KSTATE 4).wr A.busTok 0 1
  else s)

/-! ### The plumb bus (R330) -/

/-- The token is back at the keystone. (log 101 DEDUCED) -/
def State.kDone (s : State) : State := ((s.wf 0 ENUM_STATUS_KSTATE 5).wf 0 ENUM_STATUS_RESULT 1).raise 0x5B9

/-- BUS_TOKEN: down the chain on port 0; the tail's answer comes on port 1. -/
def State.tokenIn (s : State) (p e passed : Nat) : State :=
  if e ≠ s.epochNow then s
  else if p = 1 then
    (if s.isKeystone then (if s.kState = 4 then s.kDone else s) else s.sendSym 0 (.busToken e passed))
  else if p = 0 ∧ ¬ s.isKeystone then s.wr A.busTok 0 (1 + passed)
  else s

def execBusToken (port : Fin 16) (epoch : BitVec 8) (passed : BitVec 13) (s : State) : Res := s.live fun s =>
  .next ((s.heard port).tokenIn port epoch.toNat passed.toNat)

/-- Two frames have been heard: the device leads, takes the lowest free position, or has none. -/
def State.takeBus (s : State) (sync : Bool) (present : Nat) : State :=
  let pos := if sync then firstIx 16 fun i => ¬ present.testBit i else some 0
  let s := (s.wf 0 PLUMB_BUS_STATUS_LEAD (bit (¬ sync))).wf 0 PLUMB_BUS_STATUS_SYNC_LOCK 1
  match pos with
  | none => (s.wf 0 CHAIN_STATUS_NOBUS 1).wf 0 PLUMB_BUS_STATUS_PRESENT present
  | some i =>
    ((s.wf 0 CHAIN_STATUS_NOBUS 0).wf 0 PLUMB_BUS_STATUS_BUS_POS i).wf 0 PLUMB_BUS_STATUS_PRESENT
      ((if sync then present else 0) ||| 2 ^ i)

/-- The token goes on, or, at the tail, back to the keystone. -/
def State.passToken (s : State) : State :=
  let n := s.rd A.busTok 0
  let s := s.wr A.busTok 0 0
  if s.portUp 1 then s.sendSym 1 (.busToken s.epochNow n)
  else if s.isKeystone then s.kDone
  else s.sendSym 0 (.busToken s.epochNow n)

def execBusListenEnd (sync : Bool) (present : BitVec 16) (s : State) : Res := s.live fun s =>
  .next (if s.rd A.busTok 0 = 0 then s else (s.takeBus sync present.toNat).passToken)

end Sys2Proof.Machine
end

