-- ==== Sys2Proof/Machine/Launch.lean ====
section
/-! DEFINITION. Timed launch (chapter 15, R373 to R378, R384). -/

namespace Sys2Proof.Machine

open Reg

/-! ### Arming (R373, R384) -/

def State.lnSlot (s : State) : Nat := slice (s.reg oTL_SEL) 0 4

/-- RESULT of ARM with configuration `c`: 0, or BUSY, FIELD, LATE, UNSYNCED. -/
def State.armLaunch (s : State) (i c : Nat) : Nat :=
  let nopid := lnNoPid c
  let twin := (List.range 16).any fun j =>
    j ≠ i ∧ s.rd A.lnState j ≠ 0 ∧ ¬ nopid ∧ ¬ lnNoPid (s.rd A.lnCfg j) ∧
      lnPid (s.rd A.lnCfg j) = lnPid c ∧ lnTag (s.rd A.lnCfg j) = lnTag c
  if s.rd A.lnState i ≠ 0 ∨ twin then 2
  else if 5 ≤ lnAction c ∨ (nopid ∧ lnAction c ≠ 4) ∨ (¬ nopid ∧ (s.slotOfPid (lnPid c)).isNone) then 3
  else if s.rd A.lnTime i < s.timeNs then 4
  else if s.rf 0 TIME_STATUS_UNSYNCED = 1 then 5
  else 0

/-- TL_CFG as the writer may write it: a virtual function's partition replaces PID; none where it may not. -/
def State.lnFields (s : State) (who : Who) (v : Nat) : Option Nat :=
  let c := slice v 0 28
  match who with
  | .vf n => if s.loaded n ∧ ¬ lnNoPid c then some (patch c 4 8 (s.rd A.pPid n)) else none
  | _ => if s.pfRights who then some c else none

/-- A virtual function touches only slots that are free or its own. (log 57 DEDUCED) -/
def State.lnMine (s : State) (who : Who) (i : Nat) : Bool :=
  match who with
  | .vf n =>
    s.loaded n ∧ (s.rd A.lnState i = 0 ∨
      (¬ lnNoPid (s.rd A.lnCfg i) ∧ lnPid (s.rd A.lnCfg i) = s.rd A.pPid n))
  | _ => s.pfRights who

/-- A write of TL_CFG. A command on a slot that is not the writer's shows RESULT DENIED. (log 56 DEDUCED) -/
def State.tlCfg (s : State) (who : Who) (v : Nat) : State :=
  let i := s.lnSlot
  let cmd := slice v 28 2
  match s.lnFields who v with
  | none => s.deny
  | some c =>
    if ¬ s.lnMine who i then (if cmd = 1 ∨ cmd = 2 then s.wr A.lnResult i 7 else s).deny
    else if cmd = 1 then
      let r := s.armLaunch i c
      (if r = 0 then (((s.wr A.lnCfg i c).wr A.lnState i 1).wr A.lnGo i 0).wr A.lnResult i 0 else s.wr A.lnResult i r).okay
    else if cmd = 2 then
      let s := if s.rd A.lnState i ≠ 0 then s.lnEnd i 6 else s
      (s.wr A.lnCfg i c).okay
    else (s.wr A.lnCfg i c).okay

def execLaunchArm (who : Who) (val : Word) (s : State) : Res := s.access who (.launchArm who val) fun s => .next (s.tlCfg who (patch val.toNat 28 2 1))

/-- DISARM, with the fields as they stand. -/
def execLaunchDisarm (who : Who) (s : State) : Res := s.access who (.launchDisarm who) fun s =>
  .next (s.tlCfg who (patch (s.rd A.lnCfg s.lnSlot) 28 2 2))

/-! ### Firing (R374 to R377) -/

/-- GO for launch slot `i` with agreed cycle `n` (R377). -/
def State.lnGoAt (s : State) (i n : Nat) : State :=
  let c := s.rd A.lnCfg i
  match s.slotOfPid (lnPid c) with
  | none => s.lnEnd i 6
  | some k =>
    let st := s.rd A.pState k
    let imm := st = 4 ∧ s.rf (P k) FAULT_STATUS_IMMEDIATE = 1
    if st = 1 ∨ imm then
      match lnAction c with
      | 0 => if st = 1 ∧ s.startCheck k = 0 then ((s.startNow k).recEvent k 3).lnEnd i 1 else s.lnEnd i 6
      | 4 => (s.lnCommit k).lnEnd i 1
      | _ => s.lnEnd i 6
    else
      match lnAction c with
      | 0 => if st = 4 ∧ s.startCheck k = 0 then ((s.startNow k).recEvent k 3).lnEnd i 1 else s.lnEnd i 6
      | 2 => (if s.on A.lnHold k then (s.wr A.lnHold k 0).softSettle k else s).lnEnd i 1
      | _ => ((s.wr A.lnGo i 1).wr A.lnCycle i n).wr A.lnState i (if st = 4 then 3 else 2)

/-- GO of a PID and TAG reaches this member; `cyc28` are the low bits of the agreed cycle. -/
def State.goHere (s : State) (pid tag cyc28 : Nat) : State :=
  (s.lnOf pid).foldl (fun s i =>
    if lnTag (s.rd A.lnCfg i) = tag ∧ s.rd A.lnState i = 2 ∧ s.rd A.lnGo i = 0 then
      s.lnGoAt i (nearest 28 (s.rd A.lnCycle i) cyc28)
    else s) s

/-- The root issues GO down every tree link, and to itself. -/
def State.goOut (s : State) (pid tag cyc : Nat) : State :=
  (s.treeChildren.foldl (fun s p => s.sendSym p (.go pid tag (cyc % 2 ^ 28))) s).goHere pid tag (cyc % 2 ^ 28)

/-- The root counts a FIRED (R375). -/
def State.countFired (s : State) (pid tag members cyc : Nat) : State :=
  let cur := match s.slotOfPid pid with
    | some k => s.rd A.pCycle k
    | none => match s.fired.find? fun f => f.pid = pid ∧ f.tag = tag with
      | some f => f.latest
      | none => cyc
  let n := nearest 28 cur cyc
  let old := s.fired.find? fun f => f.pid = pid ∧ f.tag = tag
  let f : FiredCount := ⟨pid, tag, (old.map (·.count)).getD 0 + 1, members, max ((old.map (·.latest)).getD 0) n⟩
  let rest := s.fired.filter fun f => ¬ (f.pid = pid ∧ f.tag = tag)
  if members ≤ f.count then ({ s with fired := rest } : State).goOut pid tag f.latest
  else { s with fired := rest ++ [f] }

/-- FIRED goes toward the root; the root counts it. (log 58 DEDUCED) -/
def State.firedUp (s : State) (pid tag membersM1 cyc : Nat) : State :=
  match s.treeParent with
  | some p => s.sendSym p (.fired pid tag membersM1 (cyc % 2 ^ 28))
  | none => if s.rf 0 CHAIN_TREE_VALID = 1 then s.countFired pid tag (membersM1 + 1) (cyc % 2 ^ 28) else s

/-- The launch cycle of partition slot `k` (R375): the emulated cycle whose step D+6 it has not yet performed; of an IDLE or
STOPPED one the cycle counter. A HELD one has performed the step at which it stands, unless that step is frozen. -/
def State.launchCycle (s : State) (k : Nat) : Nat :=
  let d := s.rd A.pDepth k
  let t := s.rd A.pStep k
  let next := if s.rd A.pState k = 3 ∧ ¬ s.on A.pFrozen k then t + 1 else t
  if s.stoppable k ∧ ¬ s.preFirst k ∧ ¬ s.on A.pGate k ∧ d + 6 < next ∧ next ≤ d + 12 then s.rd A.pCycle k + 1
  else s.rd A.pCycle k

/-- Fire an armed slot whose time has come. The shadow of a sleeping device is lost (R429). (log 58 DEDUCED, 185 DESIGN CHOICE) -/
def State.lnFire (s : State) (i : Nat) : State :=
  let c := s.rd A.lnCfg i
  if lnNoPid c then
    (if s.rd A.pwMode 0 = 2 then s else s.lnCommit devShadow).lnEnd i 1
  else match s.slotOfPid (lnPid c) with
    | none => s.lnEnd i 6
    | some k =>
      let n := s.launchCycle k
      let s := ((s.wr A.lnState i 2).wr A.lnGo i 0).wr A.lnCycle i n
      if s.rf (P k) PLUMB_CFG_MODE = 0 then s.lnGoAt i n
      else s.firedUp (lnPid c) (lnTag c) (lnMembers c - 1) n

/-- The launch slots stand in AON (R422) and fire on TCLK. While the dies have no clock, the unit of the partition that a slot
names has none either: such a slot fires once they have. (log 185 DESIGN CHOICE) -/
def execLaunchFire (slot : Fin 16) (s : State) : Res := s.aon fun s =>
  .next (if s.rd A.lnState slot = 1 ∧ s.rd A.lnTime slot ≤ s.timeNs ∧ ¬ s.on A.refGone 0 ∧
      (s.clocked ∨ lnNoPid (s.rd A.lnCfg slot)) then s.lnFire slot else s)

def execFired (port : Fin 16) (pid : BitVec 8) (tag : BitVec 4) (membersM1 : BitVec 12) (cyc : BitVec 28) (s : State) : Res := s.live fun s =>
  let s := s.heard port
  .next (s.firedUp pid.toNat tag.toNat membersM1.toNat cyc.toNat)

def execGo (port : Fin 16) (pid : BitVec 8) (tag : BitVec 4) (cyc : BitVec 28) (s : State) : Res := s.live fun s =>
  let s := s.heard port
  .next (if s.treeParent = some port.val then s.goOut pid.toNat tag.toNat cyc.toNat else s)

end Sys2Proof.Machine
end

