-- ==== Sys2Proof/Machine/Skink.lean ====
section
/-! DEFINITION. Skink blocks (R295 to R309): the code and the CRC, replays, control symbols, the mortar stream. -/

namespace Sys2Proof.Machine

open Reg

/-! ### The code of PAM4 rates (R296) -/

/-- Multiply by α in GF(2^10) with the polynomial x^10 + x^3 + 1. -/
def gfStep (v : Nat) : Nat := if 512 ≤ v then (2 * v) ^^^ 0x409 else 2 * v

/-- v α^n. -/
def gfShift (v : Nat) : Nat → Nat
  | 0 => v
  | n + 1 => gfStep (gfShift v n)

/-- Symbol of a codeword that is the coefficient of x^i. -/
def rsSym (c i : Nat) : Nat := if i < 2 then slice c (260 + 10 * i) 10 else slice c (10 * (i - 2)) 10

/-- First bit of that symbol. -/
def rsLo (i : Nat) : Nat := if i < 2 then 260 + 10 * i else 10 * (i - 2)

/-- Value of the codeword polynomial at α^j, by Horner's rule. -/
def rsAt (c j : Nat) : Nat := ((List.range 28).reverse).foldl (fun v i => gfShift v j ^^^ rsSym c i) 0

/-- Decode a codeword: the corrected one, and whether a symbol was corrected; none where two or more are wrong. -/
def rsDecode (c : Nat) : Option (Nat × Bool) :=
  let s0 := rsAt c 0
  let s1 := rsAt c 1
  if s0 = 0 ∧ s1 = 0 then some (c, false)
  else if s0 = 0 then none
  else (firstIx 28 fun i => gfShift s0 i = s1).map fun i => (patch c (rsLo i) 10 (rsSym c i ^^^ s0), true)

/-! ### The CRC of NRZ rates (R297) -/

/-- CRC-32 with the IEEE 802.3 polynomial over block bits 32 to 256, in the order in which they are sent. (log 87 DEDUCED) -/
def blockCrc (b : Nat) : Nat :=
  ((List.range 225).foldl (fun c i => crcBit (c ^^^ slice b (32 + i) 1)) 0xFFFFFFFF) ^^^ 0xFFFFFFFF

/-! ### Symbols (R308, R309) -/

/-- The state after a command that answers a next state. -/
def State.after (s : State) (f : State → Res) : State :=
  match f s with
  | .next t => t
  | _ => s

/-- A control symbol that arrives in a SYMBOLS block of a lane; a reserved type is ignored. -/
def State.symIn (s : State) (p : Fin 16) (l : Fin 4) (y : Nat) : State :=
  let f (lo w : Nat) := slice y lo w
  let b (lo w : Nat) : BitVec w := BitVec.ofNat w (slice y lo w)
  match f 56 8 with
  | 0x01 => s.after (execHeartbeat p)
  | 0x02 => s.after (execPlumbUp p (b 48 8) (BitVec.ofNat 4 (f 47 1 + 2 * f 46 1 + 4 * f 45 1 + 8 * f 44 1)))
  | 0x03 => s.after (execPlumbDown p (b 48 8) (BitVec.ofNat 4 (f 47 1 + 2 * f 46 1 + 4 * f 45 1 + 8 * f 44 1)))
  | 0x04 => s.after (execSever p (b 48 8) (b 36 12) (b 34 2) (b 22 12))
  | 0x05 => s.after (execStopNotice p (b 48 8) (b 40 8) (f 39 1 = 1) (b 27 12) (b 0 27))
  | 0x08 => s.after (execCaps p l (b 0 56))
  | 0x09 => s.after (execRateReq p (b 53 3))
  | 0x0A => s.after (execRateAck p (b 53 3) (f 52 1 = 1))
  | 0x0B => (s.heard p).nakIn p l (f 32 24)
  | 0x0C => s.after (execNeighbor p (b 44 12) (b 40 4))
  | 0x0D => s.after (execPstate p (b 54 2))
  | 0x10 => if p.val = 0 then s.after (execSearch (b 48 8) (b 35 13)) else s
  | 0x11 => if p.val = 1 then s.after (execCount (b 48 8) (b 35 13) (f 34 1 = 1)) else s
  | 0x12 => if p.val = 0 then s.after (execCommit (b 48 8) (b 35 13)) else s
  | 0x13 => if p.val = 1 then s.after (execCommitAck (b 48 8)) else s
  | 0x14 => if p.val = 1 then s.after (execAbort (b 48 8) (b 32 4)) else s
  | 0x15 => s.after (execTree p (b 48 8) (b 40 8) (b 28 12))
  | 0x16 => s.after (execTreeAck p (b 48 8) (b 36 12))
  | 0x17 => s.after (execBusToken p (b 48 8) (b 35 13))
  | 0x20 => (match f 52 4 with
    | 0 => s.after (execTime p (b 48 4) (b 0 48))
    | 1 => s.after (execCheck p (b 0 48))
    | 2 => s.after (execFired p (b 44 8) (b 40 4) (b 28 12) (b 0 28))
    | 3 => s.after (execGo p (b 44 8) (b 40 4) (b 0 28))
    | _ => s)
  | _ => s

/-- A SYMBOLS block: symbols 0, 1, 2; an empty one is all zeros. -/
def State.symbols (s : State) (p : Fin 16) (l : Fin 4) (b : Nat) : State :=
  [184, 120, 56].foldl (fun s lo => s.symIn p l (slice b lo 64)) s

/-! ### The mortar stream (R303 to R306) -/

/-- The number that bits spell, most significant first. -/
def bitsNat (l : List Bool) : Nat := l.foldl (fun v b => 2 * v + bit b) 0

/-- What a receiver finds in the bits of one block: frames that end in it, and the frame still open; whether LEN is
above 256. (log 90 DEDUCED) -/
def streamBlock : Nat → List Bool → Option (Nat × List Bool) → List (List Bool) → List (List Bool) × Option (Nat × List Bool) × Bool
  | 0, _, cur, done => (done, cur, false)
  | fuel + 1, bits, none, done =>
    let len := bitsNat (bits.take 9)
    if bits.length < 9 ∨ len = 0 then (done, none, false)
    else if 256 < len then (done, none, true)
    else streamBlock fuel (bits.drop 9) (some (len, [])) done
  | fuel + 1, bits, some (len, got), done =>
    let need := 24 + len - got.length
    if bits.length < need then (done, some (len, got ++ bits), false)
    else streamBlock fuel (bits.drop need) none (done ++ [got ++ bits.take need])

/-- The open frame of a port. -/
def State.rxOpen (s : State) (p : Nat) : Option (Nat × List Bool) :=
  (s.rxFrames.find? (·.port = p)).map fun f => (f.len, f.got)

def State.setRxOpen (s : State) (p : Nat) (c : Option (Nat × List Bool)) : State :=
  let rest := s.rxFrames.filter (·.port ≠ p)
  { s with rxFrames := match c with
    | none => rest
    | some (len, got) => rest ++ [⟨p, len, got⟩] }

/-- A frame of the stream. -/
def State.streamFrame (s : State) (p : Fin 16) (bits : List Bool) : State :=
  if s.portUp p then s.after (execMortarFrame p (BitVec.ofNat 24 (bitsNat (bits.take 24))) (bits.drop 24)) else s

/-- Place of a block in the port's stream, before the lane counts. -/
def rxPos (b : RxBlock) : Nat := 64 * b.seq + b.slot

/-- Place `a` comes before place `b`: superframe numbers wrap. -/
def rxBefore (a b : Nat) : Bool := (b + 2 ^ 22 - a) % 2 ^ 22 < 2 ^ 21

/-- The earliest place among blocks. -/
def rxFirst : List RxBlock → Option Nat
  | [] => none
  | b :: l => match rxFirst l with
    | none => some (rxPos b)
    | some m => some (if rxBefore (rxPos b) m then rxPos b else m)

/-- Lanes that carry the stream (R293). -/
def State.activeLanes (s : State) (p : Nat) : List Nat := (s.lanes p).filter fun l => s.laneSt p l = lnActive

/-- Take a block into the stream. -/
def State.streamTake (s : State) (p : Fin 16) (b : RxBlock) : State :=
  let s := { s with rxBlocks := s.rxBlocks.erase b }
  let (frames, cur, bad) := streamBlock 64 b.bits (s.rxOpen p) []
  let s := frames.foldl (fun s f => s.streamFrame p f) (s.setRxOpen p cur)
  if bad then s.streamError p else s

/-- Take the blocks of a port whose turn has come (R298, R303): those of the earliest slot, in ascending lane order, once
every ACTIVE lane has one of that slot or is past it. A block of a lane that is not ACTIVE is no part of the stream. -/
def State.streamRun (s : State) (p : Fin 16) : Nat → State
  | 0 => s
  | n + 1 =>
    let act := s.activeLanes p
    let s := { s with rxBlocks := s.rxBlocks.filter fun b => b.port ≠ p.val ∨ act.contains b.lane }
    let mine := s.rxBlocks.filter fun b => b.port = p.val
    match rxFirst mine with
    | none => s
    | some m =>
      if act.all fun l => mine.any fun b => b.lane = l then
        State.streamRun (act.foldl (fun s l =>
          match mine.find? fun b => b.lane = l ∧ rxPos b = m with
          | some b => s.streamTake p b
          | none => s) s) p n
      else s

/-- A mortar block of a lane: its stream bits, the highest first; at the lowest rate it carries IDLE (R302). -/
def State.mortarBlock (s : State) (p : Fin 16) (l : Fin 4) (slot b : Nat) : State :=
  let rate := s.rf (LN p l) LANE_STATUS_RATE
  if rate = 0 then s
  else
    let n := if rate < 3 then 224 else 256
    let bits := ((List.range n).reverse).map fun i => b.testBit (256 - n + i)
    let s := { s with rxBlocks := s.rxBlocks ++ [RxBlock.mk p.val l.val (s.rd A.lnSeq (4 * p.val + l)) slot bits] }
    s.streamRun p s.rxBlocks.length

/-! ### Blocks (R298 to R301) -/

/-- The slot is a service slot (R298). -/
def serviceSlot (rate slot : Nat) : Bool :=
  if rate < 3 then [0, 7, 13, 19].contains slot else slot % 10 = 0 ∨ slot % 10 = 3 ∨ slot % 10 = 6

/-- A block that passed its check. What a NET packet that is accepted does is the command CN_REQUEST of an initiator of
another device, or CN_RESPONSE. (log 90 DEDUCED) -/
def State.blockIn (s : State) (p : Fin 16) (l : Fin 4) (b : Nat) : State :=
  let x := 4 * p.val + l
  let slot := s.rd A.lnSlot x
  let rate := s.rf (LN p l) LANE_STATUS_RATE
  let kind := slice b 248 8
  if slice b 256 1 = 1 then
    (if kind = 1 then ((s.wr A.lnSeq x (slice b 232 16)).wr A.lnSlot x 1).enterPs p else s)
  else
    let s := s.wr A.lnSlot x (slot + 1)
    if ¬ serviceSlot rate slot then s.mortarBlock p l slot b
    else if kind = 2 then s.symbols p l b
    -- the link bridge takes packets only from a peer with a committed address (R393)
    else if kind = 3 ∧ s.rf (PT p) PORT_STATUS_PEER_VALID = 0 then s.cnt (D (p / 2)) CN_ERR_BRIDGE_DROP 1
    else s

/-- Number of the lane's next block (R300). -/
def State.blockNo (s : State) (x : Nat) : Nat :=
  let slot := s.rd A.lnSlot x
  (s.rd A.lnSeq x + slot / 25) % 2 ^ 16 * 25 + slot % 25

/-- A block at an NRZ rate. After a failure the lane discards every block until the replay of the failed one. (log 86 DESIGN CHOICE) -/
def State.nrzBlock (s : State) (p : Fin 16) (l : Fin 4) (b : Nat) (replay : Bool) : State :=
  let x := 4 * p.val + l
  let w := s.rd A.lnNak x
  if w ≠ 0 ∧ ¬ replay then s
  else if blockCrc b = slice b 0 32 then ((s.wr A.lnNak x 0).wr A.lnFails x 0).blockIn p l b
  else
    let fails := if w = 0 then 0 else s.rd A.lnFails x + 1
    let n := if w = 0 then s.blockNo x else w - 1
    let s := ((s.cnt (LN p l) LANE_ERR_CORRECTED 1).wr A.lnNak x (1 + n)).wr A.lnFails x fails
    if 8 ≤ fails then (s.cnt (LN p l) LANE_ERR_UNCORR 1).portDown p else { s with symOut := s.symOut ++ [⟨p, some l, .nak n⟩] }

/-- A codeword at a PAM4 rate. -/
def State.pamBlock (s : State) (p : Fin 16) (l : Fin 4) (c : Nat) : State :=
  match rsDecode c with
  | none => (s.cnt (LN p l) LANE_ERR_UNCORR 1).portDown p
  | some (c, fixed) => (if fixed then s.cnt (LN p l) LANE_ERR_CORRECTED 1 else s).blockIn p l (c % 2 ^ 257)

/-- SKINK_BLOCK. `replay`: the block is the one that the lane's NAK named, sent again. -/
def execSkinkBlock (port : Fin 16) (lane : Fin 4) (bits : BitVec 280) (replay : Bool) (s : State) : Res :=
  s.live fun s =>
  let b := LN port lane
  .next (if s.rf b LANE_STATUS_BLK_LOCK = 0 then s
    else if s.rf b LANE_STATUS_RATE < 3 then s.nrzBlock port lane (bits.toNat % 2 ^ 257) replay
    else s.pamBlock port lane bits.toNat)

end Sys2Proof.Machine
end

