-- ==== Sys2Proof/Machine/Power.lean ====
section
/-! DEFINITION. Performance levels, power domains, PARK and SLUMBER (chapter 18). -/

namespace Sys2Proof.Machine

open Reg

/-- The power event. -/
def evtPower : Nat := 0x5BD

/-! ### Performance levels (R418 to R421) -/

/-- Core supply that a level needs, in mV. -/
def levelMv : Nat → Nat
  | 0 => 850
  | 1 => 750
  | 2 => 680
  | _ => 620

def State.level (s : State) : Nat := s.rf 0 PL_STATUS_LEVEL

/-- Slots that are RUN or HELD. -/
def State.stepping (s : State) : List Nat := (List.range 32).filter fun k => s.stoppable k

/-- RESULT of a request for level `t` (R419). (log 125 DEDUCED) -/
def State.plCheck (s : State) (who : Who) (t : Nat) : Nat :=
  if ¬ s.pfRights who then 2
  else if s.rf 0 PWR_CTRL_BUSY = 1 ∨ s.rf 0 PWR_STATUS_STATE ≠ 0 then 5
  else if s.rd A.plPhase 0 ≠ 0 then 1
  else if t = s.level then 0
  else if (List.range 32).any fun k => s.loaded k ∧ t < s.rd A.pMinPl k then 3
  else if s.stepping.any fun k => (s.wf 0 PL_STATUS_LEVEL t).capacityShort k then 4
  else 0

/-- Request a supply for level `t`. (log 126 DEDUCED) -/
def State.voltReq (s : State) (t : Nat) : State :=
  (s.wf 0 PL_STATUS_VOLT_REQ 1).wf 0 PL_STATUS_VOLT_MV (levelMv t)

/-- PL_CTRL.GO. (log 125 DEDUCED) -/
def State.plAsk (s : State) (who : Who) (t : Nat) : State :=
  let r := s.plCheck who t
  let s := s.wf 0 PL_CTRL_RESULT r
  if r = 2 then s.deny
  else if r ≠ 0 ∨ t = s.level then s.okay
  else
    let s := ((s.wf 0 PL_CTRL_BUSY 1).wf 0 PL_STATUS_PENDING t).wr A.plPhase 0 1
    (s.stepping.foldl (fun s k => s.addCause k 6) s).okay

def execPlChangeRequest (who : Who) (target : BitVec 2) (s : State) : Res :=
  s.access who (.plChangeRequest who target) fun s => .next (s.plAsk who target.toNat)

/-- Every stepping partition has frozen, and the bits inside the device have landed (step 1 of R420). (log 126 DEDUCED) -/
def State.plFrozen (s : State) : Bool :=
  (s.stepping.all fun k => s.rd A.pState k = 3) ∧
  ¬ s.flight.any fun b => s.stoppable b.slot

def execPlChangeFrozen (s : State) : Res := s.live fun s =>
  let t := s.rf 0 PL_STATUS_PENDING
  .next (if s.rd A.plPhase 0 ≠ 1 ∨ ¬ s.plFrozen then s
    else if t < s.level then (((s.voltReq t).raise evtPower).wr A.plPhase 0 2).wr A.voltAt 0 s.mono
    else s.wr A.plPhase 0 3)

/-- A change ends, whatever its result; a warm reset may have waited for it (R438). -/
def State.plEnd (s : State) (result : Nat) : State :=
  let s := ((s.wf 0 PL_CTRL_BUSY 0).wf 0 PL_CTRL_RESULT result).wr A.plPhase 0 0
  let s := s.each 32 fun s k => s.dropCause k 6
  let s := s.each 16 State.capacityFell
  if s.on A.warmWait 0 then (s.wr A.warmWait 0 0).warm else s

/-- PL_CTRL.VOLT_DONE; ignored while nothing is requested. -/
def State.voltAck (s : State) : State :=
  if s.rf 0 PL_STATUS_VOLT_REQ = 0 then s
  else
    let s := s.wf 0 PL_STATUS_VOLT_REQ 0
    if s.rd A.plPhase 0 = 2 then s.wr A.plPhase 0 3 else s

def execVoltDone (who : Who) (s : State) : Res := s.access who (.voltDone who) fun s =>
  .next (if s.pfRights who then s.voltAck.okay else s.deny)

def execVoltageTimeout (s : State) : Res := s.live fun s =>
  .next (if s.rd A.plPhase 0 = 2 ∧ s.rd A.voltAt 0 + 1000000 ≤ s.mono then
    ((s.wf 0 PL_STATUS_VOLT_REQ 0).wf 0 PL_STATUS_VOLT_MV (levelMv s.level)).plEnd 6
  else s)

/-- The PLLs have relocked (steps 3 to 5 of R420). -/
def execPllRelock (s : State) : Res := s.live fun s =>
  let t := s.rf 0 PL_STATUS_PENDING
  .next (if s.rd A.plPhase 0 ≠ 3 then s
    else ((if s.level < t then s.voltReq t else s).wf 0 PL_STATUS_LEVEL t).plEnd 0)

/-- REFCLK stops (R417). -/
def execRefclkLost (s : State) : Res := s.aon fun s =>
  .next (((s.wr A.refDead 0 1).wr A.refGone 0 1).wf 0 PWR_STATUS_REFCLK_LOST 1)

/-! ### Power domains (R422 to R424) -/

/-- What keeps a domain on (R423). -/
def State.domNeeded (s : State) (die dom : Nat) : Bool :=
  let walls := (List.range 16).any fun w => s.rd A.wallOwner (16 * die + w) ≠ 0
  let owned (kind per : Nat) := (s.listed (A.mOwn kind)).any fun x => x.1 / per = die ∧ slice x.2 8 1 = 1
  match dom with
  | 0 => walls ∨ owned 4 2048
  | 1 => walls
  | _ => s.portUp (2 * die) ∨ s.portUp (2 * die + 1) ∨ owned 5 512 ∨ owned 6 512

/-- Stores, tables and bays of a domain, with the entries of one die (R422). (log 128 DEDUCED) -/
def domArrays : Nat → List (Arr × Nat)
  | 0 => [(A.imem, 512 * 65536), (A.hist, 512 * 4096), (A.wflag, 512 * 4096), (A.state, 256 * 4096),
      (A.shadow, 256 * 4096), (A.land, 1024 * 4096), (A.landErr, 1024 * 4096), (A.landP, 1024 * 4096), (A.port, 64 * 4096), (A.portP, 4 * 4096), (A.portPErr, 4 * 4096),
      (A.portDue, 64 * 4096), (A.wimem, 512 * 4096), (A.pimem, 512 * 256), (A.slotR, 32 * 256), (A.gen, 128 * 256),
      (A.tagOut, 128 * 256), (A.probe, 65536), (A.hzHist, 512 * 4096), (A.hzFlag, 512 * 4096), (A.hzShadow, 256 * 65536),
      (A.mTab 0, 512 * 65536), (A.mTab 1, 512 * 320 * 256), (A.mTab 2, 512 * 1280 * 16), (A.mTab 3, 512 * 5120),
      (A.mTab 4, 512 * 2048), (A.mReg 0, 65536), (A.mReg 1, 320 * 256), (A.mReg 2, 1280 * 16), (A.mReg 3, 5120),
      (A.mReg 4, 2048), (A.mOwn 3, 5120), (A.mOwn 4, 2048), (A.tgCount, 4), (A.tgExt, 4), (A.tgValid, 4), (A.tgPrev, 8),
      (A.tgFill, 4), (A.tgNext, 4), (A.tgForce, 4), (A.tgOut, 4), (A.capt, 524288), (A.pmap, 2048)]
  | 1 => [(A.bay, 131072 * 16), (A.bayBit, 131072 * 16), (A.newtBuf, 512), (A.bayAt, 16)]
  | _ => [(A.mTab 5, 512 * 512), (A.mTab 6, 512 * 512), (A.mReg 5, 512), (A.mReg 6, 512), (A.mOwn 5, 512),
      (A.mOwn 6, 512), (A.ptSeen, 2), (A.ptReq, 2), (A.ptSwitch, 2), (A.ptPs, 2), (A.lnPrev, 8), (A.lnSince, 8),
      (A.lnRelock, 8), (A.lnSlot, 8), (A.lnSeq, 8), (A.lnNak, 8), (A.lnFails, 8), (A.lnTap, 128), (A.ptNakBlk, 2),
      (A.ptNakCnt, 2), (A.lnTx, 8), (A.lnTxSlot, 8), (A.lnTxSeq, 8)]

/-- Registers that lie in a domain's units: trigger units, ports and lanes. (log 128 DEDUCED) -/
def domReg (dom r : Nat) : Bool :=
  (dom = 0 ∧ 0x42C00 ≤ r ∧ r < 0x43400) ∨ (dom = 2 ∧ 0x44000 ≤ r ∧ r < 0x44800)

/-- A domain switches off: what it holds is gone, but for HBM, whose lines leave every L2 first (R423, R424). -/
def State.domOff (s : State) (die dom : Nat) : State :=
  let s := if dom = 1 then
      (s.l2.filter fun e => 64 * e.line / stackBytes = die).foldl (fun s e => s.snoop e.line) s
    else s
  let s := (domArrays dom).foldl (fun s (a, n) =>
    (s.drop a fun i => i / n = die).drop A.err fun i => i % 512 = a.code ∧ i / 512 / n = die) s
  let s := s.drop A.reg fun o => Off.die die 0 ≤ o ∧ o < Off.die die 0x800000 ∧ domReg dom (o - Off.die die 0)
  (s.wr A.reg oDOMAIN_STATUS (patch (s.reg oDOMAIN_STATUS) (4 * die + dom) 1 0)).wr A.domWake (4 * die + dom) 0

/-- What DOMAIN_CTRL asks of one domain. (log 127 DEDUCED) -/
def State.domAsk (s : State) (v die dom : Nat) : State :=
  let i := 4 * die + dom
  if v.testBit i then
    (if ¬ s.domOn die dom then s.wr A.reg oDOMAIN_CTRL (patch (s.reg oDOMAIN_CTRL) i 1 1)
     else if s.domNeeded die dom then s.wf 0 PWR_STATUS_DOMAIN_REFUSED 1
     else (s.domOff die dom).wr A.reg oDOMAIN_CTRL (patch (s.reg oDOMAIN_CTRL) i 1 1))
  else
    let s := s.wr A.reg oDOMAIN_CTRL (patch (s.reg oDOMAIN_CTRL) i 1 0)
    if s.domOn die dom then s else s.wr A.domWake i 1

/-- Log 127 DEDUCED. -/
def State.domWrite (s : State) (v : Nat) : State :=
  s.each 8 fun s d => s.each 3 fun s x => s.domAsk v d x

def execDomainCtrlWrite (who : Who) (val : Word) (s : State) : Res := s.access who (.domainCtrlWrite who val) fun s =>
  .next (if s.pfRights who then (s.domWrite val.toNat).okay else s.deny)

def execDomainPowerUp (die : Fin 8) (dom : Fin 3) (s : State) : Res := s.live fun s =>
  .next (if s.on A.domWake (4 * die + dom) then s.domUp die dom else s)

/-! ### Entries (R425 to R432) -/

/-- Pseudo-channels of a die's save area (R428). -/
def State.areaPcs (s : State) (die off : Nat) : Nat :=
  if s.rf (D die) HBM_CFG_MAP = 0 then 0xFFFFFFFF else 0xF * 2 ^ (4 * (off / 6))

/-- A granule of some die's save area is owned. -/
def State.areaOwned (s : State) (off : Nat) : Bool :=
  (s.listed A.own).any fun x => slice x.2 8 1 = 1 ∧ x.1 % 24576 / 512 = off

/-- RESULT of a SLUMBER request, beyond R425 (R428). -/
def State.saveCheck (s : State) (en : Bool) : Nat :=
  let off := s.rf 0 SLUMBER_SAVE_OFFSET_GIB
  if ¬ en then (if (List.range 128).any fun w => s.rd A.wallOwner w ≠ 0 then 5 else 0)
  else if s.rf 0 SLUMBER_SAVE_VALID = 0 ∨ 47 < off ∨ s.areaOwned off then 5
  else if (List.range 8).any fun d => s.rf (D d) HBM_RETAIN_PC &&& s.areaPcs d off ≠ s.areaPcs d off then 4
  else 0

/-- RESULT of an entry: 0 where it begins. (log 130 DEDUCED) -/
def State.sleepCheck (s : State) (slumber en : Bool) : Nat :=
  if s.anyStepping ∨ s.rd A.plPhase 0 ≠ 0 ∨ s.rf 0 PWR_CTRL_BUSY = 1 ∨ s.rf 0 PWR_STATUS_STATE ≠ 0 then 1
  else if ¬ slumber then 0
  else if (List.range 16).any fun p => s.portNeeded p then 3
  else s.saveCheck en

/-- CHECK passes, and abort point 1 finds nothing pending: DRAIN begins. -/
def State.sleepBegin (s : State) (slumber : Bool) : State :=
  let s := ((s.wf 0 PWR_CTRL_BUSY 1).wf 0 PWR_STATUS_STATE (if slumber then 2 else 1)).wf 0 PWR_STATUS_PHASE 1
  ((s.wr A.pwWake 0 0).drop A.sleepPs fun _ => true).wr A.drainAt 0 s.mono

/-- The RW fields of a write of PWR_CTRL. -/
def State.pwrFields (s : State) (v : Nat) : State :=
  (s.wf 0 PWR_CTRL_SAVE_EN (slice v 2 1)).wf 0 PWR_CTRL_DRAIN_US (max 1 (slice v 16 16))

def State.sleepAsk (s : State) (slumber : Bool) (v : Nat) : State :=
  let r := s.sleepCheck slumber (slice v 2 1 = 1)
  let s := s.wf 0 PWR_CTRL_RESULT r
  if r = 0 then (s.pwrFields v).sleepBegin slumber else s

def State.denySleep (s : State) : State := (s.wf 0 PWR_CTRL_RESULT 2).deny

def execPark (who : Who) (val : Word) (s : State) : Res := s.access who (.park who val) fun s =>
  .next (if s.pfRights who then (s.sleepAsk false val.toNat).okay else s.denySleep)

def execSlumber (who : Who) (val : Word) (s : State) : Res := s.access who (.slumber who val) fun s =>
  .next (if s.pfRights who then (s.sleepAsk true val.toNat).okay else s.denySleep)

/-- CANCEL. From the end of DRAIN to the end of COMMIT it is held, as a wake with source SOFTWARE, and performed after the
return to RUN (R432): by then, and before that window, there is nothing for it to do. (log 130 DEDUCED) -/
def execCancel (who : Who) (s : State) : Res := s.accessAs who (.cancel who) 6 fun s =>
  .next (if s.pfRights who then s.okay else s.deny)

/-- An entry to PARK or SLUMBER is no longer in progress. -/
def State.dropEntry (s : State) : State := ((s.wf 0 PWR_CTRL_BUSY 0).wf 0 PWR_STATUS_STATE 0).wf 0 PWR_STATUS_PHASE 0

/-- The ports that an entry put into a power state return to ACTIVE (R427, R431). (log 130 DEDUCED) -/
def State.portsBack (s : State) : State :=
  (s.each 16 fun s p => if s.on A.sleepPs p then s.wakePort p else s).drop A.sleepPs fun _ => true

/-- The device is in RUN as though the entry had never begun: what its phases did is undone (R431). -/
def State.undoEntry (s : State) (result : Nat) : State :=
  let s := { s.portsBack with saveArea := [], aonSave := [] }
  let s := ((s.wr A.pcieDown 0 0).wf 0 PWR_CTRL_RESULT result).wr A.pwWake 0 0
  s.dropEntry.releaseHeld

/-- LAST_WAKE of an entry that a wake ended at an abort point. -/
def State.abandon (s : State) (point result : Nat) : State :=
  let w := s.rd A.pwWake 0
  (s.undoEntry result).wr A.reg oLAST_WAKE (slice w 0 4 + 2 ^ 4 * 3 + 2 ^ 6 * point + 2 ^ 9 * slice w 4 8)

/-- Source `x` + 1 detects; an entry in progress is abandoned first (R432). (log 71 DEDUCED, 72 DEDUCED, 130 DEDUCED) -/
def State.tamper (s : State) (x : Nat) : State :=
  if ¬ (s.rf 0 TAMPER_CFG_EN).testBit x then s
  else if ¬ s.powered then
    (if x < 2 ∧ s.on A.vbat 0 then s.wipeKeyRam.wf 0 TAMPER_STATUS_OFF_EVENT 1 else s)
  else
    let s := s.orf 0 TAMPER_STATUS_SEEN (2 ^ x)
    if s.rd A.pwMode 0 = 2 then
      { s.wipeKeyRam.wipeVault.wr A.pwDead 0 1 with saveArea := [], aonSave := [], mem := [] }
    else (if s.rf 0 PWR_CTRL_BUSY = 1 then s.undoEntry 7 else s).tamperFull (x + 1)

def execTamperDetect (source : Fin 4) (s : State) : Res := .next (s.tamper source)

/-- No work item, no request, and for SLUMBER no read outstanding (R426). -/
def State.drained (s : State) : Bool :=
  (List.range 256).all (fun c => s.rd A.coreTask c = 0) ∧ (s.outst.all fun o => o.dead) ∧
  (s.rf 0 PWR_STATUS_STATE = 1 ∨ (s.listed A.tagOut).isEmpty)

/-- A port enters a power state at once; from QUIET it goes to DORMANT over ACTIVE. -/
def State.portTo (s : State) (p st : Nat) : State :=
  let s := if s.rf (PT p) PORT_STATUS_PSTATE = 1 ∧ st = 2 then s.wakePort p else s
  if s.portUp p ∧ s.rf (PT p) PORT_STATUS_PSTATE = 0 ∧ ¬ s.portNeeded p then
    (((s.sendSym p (.pstate st)).wr A.ptPs p (1 + st)).enterPs p).wr A.sleepPs p 1
  else s

def State.portsTo (s : State) (st : Nat) : State := s.each 16 fun s p => s.portTo p st

/-- After DRAIN, PARK: ports go QUIET, the pads latch, the clocks stop. (log 130 DEDUCED) -/
def State.parkNow (s : State) : State :=
  ((((s.portsTo 1).latchPads).dropEntry.wf 0 PWR_CTRL_RESULT 0).wr A.pwMode 0 1).wr A.busSlots 0 0

def execDrainEnd (s : State) : Res := s.live fun s =>
  .next (if s.rf 0 PWR_CTRL_BUSY = 0 ∨ s.rf 0 PWR_STATUS_PHASE ≠ 1 ∨ ¬ s.drained then s
    else if s.rd A.pwWake 0 ≠ 0 then s.abandon 2 7
    else if s.rf 0 PWR_STATUS_STATE = 1 then s.parkNow
    else s.wf 0 PWR_STATUS_PHASE 2)

/-- Log 131 DEDUCED. -/
def execDrainTimeout (s : State) : Res := s.live fun s =>
  .next (if s.rf 0 PWR_CTRL_BUSY = 1 ∧ s.rf 0 PWR_STATUS_PHASE = 1 ∧
      s.rd A.drainAt 0 + 1000 * s.rf 0 PWR_CTRL_DRAIN_US ≤ s.mono then s.abandon 2 6
  else s)

/-! ### What SLUMBER keeps (R428, R429) -/

/-- Stores of an assigned wall, with the entries of one wall. -/
def wallArrays : List (Arr × Nat) :=
  [(A.imem, 512 * 4096), (A.wimem, 512 * 256), (A.pimem, 512 * 16), (A.state, 256 * 256), (A.land, 1024 * 256),
    (A.landErr, 1024 * 256), (A.landP, 1024 * 256), (A.port, 64 * 256), (A.portP, 4 * 256), (A.portPErr, 4 * 256), (A.portDue, 64 * 256), (A.bay, 131072), (A.bayBit, 131072),
    (A.mTab 0, 512 * 4096), (A.mTab 1, 512 * 320 * 16), (A.mTab 2, 512 * 1280), (A.mReg 0, 4096), (A.mReg 1, 320 * 16),
    (A.mReg 2, 1280)]

/-- Arrays of a die record and of a slot record. -/
def recordArrays : List Arr :=
  [A.mTab 3, A.mTab 4, A.mTab 5, A.mTab 6, A.mReg 3, A.mReg 4, A.mReg 5, A.mReg 6, A.mOwn 3, A.mOwn 4, A.mOwn 5, A.mOwn 6,
    A.cnMatch, A.cnMask, A.cnPath, A.cnSet, A.cnFw, A.coreBind, A.tCfg, A.tMask, A.tTimeout, A.tArg, A.pmap, A.esTab, A.esLen, A.esIdx]

/-- Bits of the register at die-window offset `r` that a die record holds. -/
def dieRecBits (r : Nat) : Nat :=
  if r = oCN_TIMEOUT ∨ r = oNEWT_CTRL ∨ (0x42C00 ≤ r ∧ r < 0x42C80) then 0xFFFFFFFF
  else if 0x40800 ≤ r ∧ r < 0x42800 then
    (let o := (r - 0x40800) % 0x40
     if o = 0 ∨ o = 8 then 0xFFFFFFFF else if o = 4 then 0x21 else 0)
  else if 0x43000 ≤ r ∧ r < 0x43400 then
    (let o := r % 0x100
     if o < 0x70 ∨ o = 0x74 ∨ o = 0x78 then 0xFFFFFFFF else 0)
  else if 0x44000 ≤ r ∧ r < 0x44800 then
    (let x := (r - 0x44000) % 0x400
     if x = 0 ∨ (0x100 ≤ x ∧ (x - 0x100) % 0x40 < 0xC) then 0xFFFFFFFF else 0)
  else 0

/-- The part of entry `i` of the array with code `c` that a save area holds. -/
def State.savedDesign (s : State) (c i v : Nat) : Option Nat :=
  let inWall : Bool := wallArrays.any fun x => x.1.code = c ∧ s.rd A.wallOwner (i / x.2) ≠ 0
  let errOf : Bool := c = A.err.code ∧ wallArrays.any fun x => x.1.code = i % 512 ∧ s.rd A.wallOwner (i / 512 / x.2) ≠ 0
  if inWall ∨ errOf ∨ recordArrays.any (·.code = c) then some v
  else if c = A.reg.code ∧ 0x800000 ≤ i ∧ i < 0x4800000 then
    (let m := dieRecBits (i % 0x800000)
     if m = 0 then none else some (v &&& m))
  else none

/-- The meters of a partition control block, which stand in AON (R429). -/
def meterReg (i : Nat) : Bool :=
  0x100000 ≤ i ∧ i < 0x120000 ∧ oMETER_CYCLES_LO ≤ i % 0x1000 ∧ i % 0x1000 ≤ oMETER_REC_BYTES_HI

/-- Entries that the AON save memory holds: the slots, and the device's registers of R429. -/
def savedRegs (c i : Nat) : Bool :=
  ([A.pState, A.pPid, A.pDepth, A.pCycle, A.pStep, A.pImage, A.pFrozen, A.pGate, A.pRound, A.pBegun, A.esStart, A.pMinPl,
    A.recSeq, A.gatePull, A.pLimit, A.wallOwner, A.pMembers, A.plumbDown, A.plumbUp, A.plumbSent, A.pWalls, A.esLoad,
    A.esLoadLen, A.init, A.shState, A.shOver, A.shResult, A.autoStart, A.fromStream, A.recPktSeq, A.enProv, A.enTail].any fun a => a.code = c) ∨
  (c = A.reg.code ∧
    ((0x100000 ≤ i ∧ i < 0x120000 ∧
        ¬ [oHOLD_TIME_LO, oHOLD_TIME_HI, oGATE_WAIT_LO, oGATE_WAIT_HI, oHOLD_COUNT, oFAULT_COUNT].contains (i % 0x1000) ∧
        ¬ meterReg i) ∨
      [oPLUMB_BUS_STATUS, oDEBUG_CTRL, oDEV_FAULT_CFG, oCHAIN_STATUS, oENUM_CTRL, oCHAIN_TREE, oLINK_POLL].contains i))

/-- What stays where it is: the always-on island and its retention supply. (log 128 DEDUCED) -/
def keptSlumber (c i : Nat) : Bool :=
  (keptResetN c i || keptWarm c i || c = A.padLatch.code || (c = A.reg.code && meterReg i) ||
    [A.epOpen, A.epS, A.epMono, A.epReg, A.epBefore, A.epAfter].any fun a => a.code = c) &&
  ¬ (c = A.pcAt.code ∨ c = A.pcTemp.code ∨
    (c = A.reg.code ∧ 0x800000 ≤ i ∧ 0x46000 ≤ i % 0x800000 ∧ i % 0x800000 < 0x47000 ∧
      ¬ [oHBM_CFG, oHBM_STATUS, oHBM_ECC_COUNT].contains (i % 0x800000)) ∨ c = A.bay.code ∨ c = A.bayBit.code ∨ (c = A.err.code ∧ i % 512 = A.bay.code) ∨
    (c = A.reg.code ∧ 0x800000 ≤ i ∧ i % 0x800000 = oBAY_ECC_COUNT) ∨ (c = A.reg.code ∧ i = oCHAIN_STATUS))

/-- SAVE_DESIGN. A region under test is saved as the save buffer holds it. (log 129 DESIGN CHOICE) -/
def State.saveDesign (s : State) : State :=
  if s.rf 0 PWR_CTRL_SAVE_EN = 0 then s
  else
    let s := s.each 8 State.newtSettle
    let area := s.arr.filterMap fun e => (s.savedDesign (e.1 % 512) (e.1 / 512) e.2).map fun v => (e.1, v)
    let off := s.rf 0 SLUMBER_SAVE_OFFSET_GIB
    let s := s.drop A.hbmKnown fun line => 64 * line % stackBytes / 2 ^ 30 = off
    { s.each 8 fun s d => s.wr A.saveMade d (1 + off) with saveArea := area }

/-- SAVE_REGS. -/
def State.saveRegs (s : State) : State :=
  { s with aonSave := s.arr.filter fun e => savedRegs (e.1 % 512) (e.1 / 512) }

/-- Put saved entries back. (log 129 DESIGN CHOICE) -/
def State.putBack (s : State) (l : Store) : State :=
  l.foldl (fun s e => { s with arr := Sparse.set (dflt e.1) s.arr e.1 e.2 }) s

/-! ### Wakes (R431 to R434, R453) -/

/-- HBM after self-refresh with only the pseudo-channels of `kept` (R413, R414); of HBM_STATUS the training, the lane repairs and the
temperature outlast the sleep (R429). (log 128 DEDUCED) -/
def State.hbmWake (s : State) (die kept : Nat) : State :=
  let lost := 0xFFFFFFFF ^^^ kept
  let s := ((s.wf (D die) HBM_STATUS_FILLING 0).wf (D die) HBM_STATUS_RETRAINING 0).wf (D die) HBM_STATUS_LAST_PC 0
  let gone (a : Nat) : Bool := hbmDie a = die ∧ lost.testBit (s.pseudoChannel a)
  if lost = 0 then s
  else if s.rf (D die) HBM_CFG_ZERO_FILL = 1 then
    let t := { s with mem := s.mem.filter fun c => ¬ gone c.1 }
    let t := (t.drop A.hbmErr fun line => gone (64 * line)).drop A.hbmKnown fun line => gone (64 * line)
    (t.wr A.hbmLost die (t.rd A.hbmLost die &&& (0xFFFFFFFF ^^^ lost))).wf (D die) HBM_STATUS_FILLING 1
  else
    (s.drop A.hbmKnown fun line => gone (64 * line)).wr A.hbmLost die (s.rd A.hbmLost die ||| lost)

/-- LAST_WAKE of a wake that ended a sleep. -/
def State.noteWake (s : State) (source frm index : Nat) : State :=
  (s.wr A.reg oLAST_WAKE (source + 2 ^ 4 * frm + 2 ^ 9 * index)).wr A.pwWake 0 0

/-- PARK ends: every unit is as it was, and the pads release. -/
def State.leavePark (s : State) (source index : Nat) : State :=
  ((s.wr A.pwMode 0 0).noteWake source 1 index).portsBack.padsOut.releaseHeld

/-- The shadows, which no sleep keeps, start from the state that is put back (R19, R38). -/
def State.copyState (s : State) : State := (s.listed A.state).foldl (fun s x => s.wr A.shadow x.1 x.2) s

/-- The end of a wake from SLUMBER: shadows start from the state, slots, tags and generations clear, portal epochs advance, ports relock, epochs that
closed in SLUMBER are sealed, and the power event is raised. -/
def State.wakeDone (s : State) : State :=
  let s := s.copyState.each 32 fun s k => if s.loaded k then (s.clearPorts k).bumpEpochs k else s
  let s := (s.listed A.tCfg).foldl (fun s x => if slice x.2 0 1 = 1 then s.taskWait x.1 else s) s
  let s := (s.each 16 fun s p => s.wakePort p).sealClosed
  (((s.wf 0 PWR_STATUS_RESTORING 0).wf 0 PWR_STATUS_STATE 0).raise evtPower).releaseHeld

/-- What a port that sleeps DORMANT keeps: its state, the peer, and its coefficients (R321). (log 155 DEDUCED) -/
def State.keptDormant (s : State) (c i : Nat) : Bool :=
  (List.range 16).any fun p =>
    s.rf (PT p) PORT_STATUS_PSTATE = 2 ∧
      ((c = A.lnTap.code ∧ i / 64 = p) ∨
        (c = A.reg.code ∧ (i = PT p + oPORT_STATUS ∨
          (List.range 4).any fun l => [oLANE_FIR, oLANE_RX, oLANE_STATUS, oLANE_CAPS].any fun o => i = LN p l + o)))

/-- Steps 1 to 3 of R434. (log 130 DEDUCED, 156 DEDUCED) -/
def State.leaveSlumber (s : State) (source index : Nat) : State :=
  let t := s.clearTo fun c i => keptSlumber c i || s.keptDormant c i
  -- the pulls of SWHOLD and of a timeout outlast the sleep (R154, R429, R434)
  let t := { t with mem := s.mem, vault := s.vault, closed := s.closed, causes := s.causes.filter fun c => c.2 = 5 ∨ c.2 = 7,
                    repairs := s.repairs, members := s.members, shadow := s.shadow, held := s.held, resumed := s.resumed, recLog := s.recLog,
                    aonSave := [], saveArea := [] }
  let t := t.each 8 fun t d => t.hbmWake d (s.rf (D d) HBM_RETAIN_PC)
  let t := ((t.putBack s.aonSave).strap).wr A.reg oDOMAIN_STATUS 0x77777777
  let t := (t.putBack s.saveArea).each 8 fun t b => t.wf (D b) GP_BANK_HELD 1
  let t := t.each 8 fun t d => (t.wr A.saveMade d (s.rd A.saveMade d)).wr A.scrubAt d (s.rd A.scrubAt d)
  -- the PCIe link trains after PERST# (log 156 DEDUCED)
  let t := t.wr A.pcieDown 0 (if source = 4 then 0 else 1)
  let t := ((t.wr A.pwMode 0 0).noteWake source 2 index).wf 0 PWR_STATUS_STATE 3
  if s.rf 0 PWR_CTRL_SAVE_EN = 1 then t.wf 0 PWR_STATUS_RESTORING 1 else t.wakeDone

def execDesignRestoreDone (s : State) : Res := s.live fun s =>
  .next (if s.rf 0 PWR_STATUS_RESTORING = 1 then s.wakeDone else s)

/-- A wake: pending during an entry, served in PARK and SLUMBER, nothing in RUN. A tamper in SLUMBER keeps the device
asleep (R359). -/
def State.wake (s : State) (source index : Nat) : State :=
  match s.rd A.pwMode 0 with
  | 1 => s.leavePark source index
  | 2 => if s.on A.pwDead 0 then s else s.leaveSlumber source index
  | _ => if s.rf 0 PWR_CTRL_BUSY = 1 then s.wakePend source index else s

/-- COMMIT: modified lines leave the caches and the domains go off. A wake that became pending meanwhile is served as one from SLUMBER. The
endpoint, whose link went down in LINKS, is reset only now, since an entry that is abandoned leaves no trace (R431). (log 130 DEDUCED) -/
def State.slumberNow (s : State) : State :=
  let s := s.l2.foldl (fun s e => s.snoop e.line) s.endpointReset
  let s := (((s.latchPads.wf 0 TIME_STATUS_SLEPT 1).dropEntry.wf 0 PWR_CTRL_RESULT 0).wr A.pwMode 0 2).wr A.busSlots 0 0
  let w := s.rd A.pwWake 0
  if w = 0 then s else s.wake (slice w 0 4) (slice w 4 8)

/-- The abort point after a phase. -/
def State.abortPoint (s : State) (point next : Nat) : State :=
  if s.rd A.pwWake 0 ≠ 0 then s.abandon point 7 else s.wf 0 PWR_STATUS_PHASE next

/-- A phase of SLUMBER entry ends (R430). -/
def execEntryPhaseEnd (s : State) : Res := s.live fun s =>
  .next (if s.rf 0 PWR_CTRL_BUSY = 0 ∨ s.rf 0 PWR_STATUS_STATE ≠ 2 then s
    else match s.rf 0 PWR_STATUS_PHASE with
      | 2 => s.saveDesign.abortPoint 3 3
      | 3 => s.saveRegs.abortPoint 4 4
      | 4 => ((s.portsTo 2).wr A.pcieDown 0 1).abortPoint 5 5
      | 5 => s.slumberNow
      | _ => s)

/-- A pin with WAKE set meets its INT_MODE, of modes 1 to 5 (R452). -/
def execWakePin (pin : Fin 256) (s : State) : Res := s.aon fun s =>
  let v := s.gpCfg pin
  let m := slice v 3 3
  .next (if s.rf 0 WAKE_CFG_PIN_EN = 1 ∧ slice v 6 1 = 1 ∧ 1 ≤ m ∧ m ≤ 5 then s.wake 1 pin else s)

def execWakeLink (port : Fin 16) (s : State) : Res := s.aon fun s =>
  .next (if (s.rf 0 WAKE_CFG_PORTS).testBit port then s.wake 2 port else s)

def execWakeTimer (s : State) : Res := s.aon fun s =>
  .next (if s.rf 0 WAKE_CFG_TIMER_EN = 1 ∧ s.pair oWAKE_TIME_LO ≤ s.timeNs then s.wake 3 0 else s)

/-- In PARK an access of the endpoint, in SLUMBER PERST#. -/
def execWakePcie (s : State) : Res := s.aon fun s =>
  .next (if s.rf 0 WAKE_CFG_PCIE_EN = 1 then s.wake 4 0 else s)

/-- A control-network request; in SLUMBER it is no wake. -/
def execWakeNet (s : State) : Res := s.aon fun s =>
  .next (if s.rf 0 WAKE_CFG_NET_EN = 1 ∧ s.rd A.pwMode 0 ≠ 2 then s.wake 5 0 else s)

/-- A parked device that a request has woken (R427). (log 3 DESIGN CHOICE) -/
def State.parkWoken (s : State) : State :=
  let w := s.rd A.pwWake 0
  if s.rd A.pwMode 0 = 1 ∧ w ≠ 0 then s.leavePark (slice w 0 4) (slice w 4 8) else s

end Sys2Proof.Machine
end

