-- ==== Sys2Proof/Machine/Transmit.lean ====
section
/-! DEFINITION. The transmitters of the link ports (R295 to R308, R314, R315, R318): in each period every lane that sends
puts one training word or one block on the line. -/

namespace Sys2Proof.Machine

open Reg

/-! ### Symbols (R308, R309) -/

/-- A control symbol as it is sent. -/
def symBits : Sym → Nat
  | .nak n => 2 ^ 56 * 0x0B + 2 ^ 32 * (n % 2 ^ 24)
  | .heartbeat => 2 ^ 56 * 0x01
  | .caps c => 2 ^ 56 * 0x08 + c % 2 ^ 56
  | .rateReq r => 2 ^ 56 * 0x09 + 2 ^ 53 * (r % 8)
  | .rateAck r no => 2 ^ 56 * 0x0A + 2 ^ 53 * (r % 8) + 2 ^ 52 * bit no
  | .pstate st => 2 ^ 56 * 0x0D + 2 ^ 54 * (st % 4)
  | .plumbUp pid st => 2 ^ 56 * 0x02 + plumb pid st
  | .plumbDown pid st => 2 ^ 56 * 0x03 + plumb pid st
  | .sever pid lost reason det =>
    2 ^ 56 * 0x04 + 2 ^ 48 * (pid % 256) + 2 ^ 36 * (lost % 4096) + 2 ^ 34 * (reason % 4) + 2 ^ 22 * (det % 4096)
  | .stopNotice pid code imm dev cyc =>
    2 ^ 56 * 0x05 + 2 ^ 48 * (pid % 256) + 2 ^ 40 * (code % 256) + 2 ^ 39 * bit imm + 2 ^ 27 * (dev % 4096) + cyc % 2 ^ 27
  | .time hops sec => 2 ^ 56 * 0x20 + 2 ^ 48 * (hops % 16) + sec % 2 ^ 48
  | .check t => 2 ^ 56 * 0x20 + 2 ^ 52 * 1 + t % 2 ^ 48
  | .fired pid tag m cyc =>
    2 ^ 56 * 0x20 + 2 ^ 52 * 2 + 2 ^ 44 * (pid % 256) + 2 ^ 40 * (tag % 16) + 2 ^ 28 * (m % 4096) + cyc % 2 ^ 28
  | .go pid tag cyc => 2 ^ 56 * 0x20 + 2 ^ 52 * 3 + 2 ^ 44 * (pid % 256) + 2 ^ 40 * (tag % 16) + cyc % 2 ^ 28
  | .search e a => 2 ^ 56 * 0x10 + 2 ^ 48 * (e % 256) + 2 ^ 35 * (a % 8192)
  | .count e n overflow => 2 ^ 56 * 0x11 + 2 ^ 48 * (e % 256) + 2 ^ 35 * (n % 8192) + 2 ^ 34 * bit overflow
  | .commit e n => 2 ^ 56 * 0x12 + 2 ^ 48 * (e % 256) + 2 ^ 35 * (n % 8192)
  | .commitAck e => 2 ^ 56 * 0x13 + 2 ^ 48 * (e % 256)
  | .abort e r => 2 ^ 56 * 0x14 + 2 ^ 48 * (e % 256) + 2 ^ 32 * (r % 16)
  | .neighbor a p => 2 ^ 56 * 0x0C + 2 ^ 44 * (a % 4096) + 2 ^ 40 * (p % 16)
  | .tree e hop a => 2 ^ 56 * 0x15 + 2 ^ 48 * (e % 256) + 2 ^ 40 * (hop % 256) + 2 ^ 28 * (a % 4096)
  | .treeAck e a => 2 ^ 56 * 0x16 + 2 ^ 48 * (e % 256) + 2 ^ 36 * (a % 4096)
  | .busToken e n => 2 ^ 56 * 0x17 + 2 ^ 48 * (e % 256) + 2 ^ 35 * (n % 8192)
where
  plumb (pid st : Nat) : Nat :=
    2 ^ 48 * (pid % 256) + 2 ^ 47 * slice st 0 1 + 2 ^ 46 * slice st 1 1 + 2 ^ 45 * slice st 2 1 + 2 ^ 44 * slice st 3 1

/-- Priority of a symbol, the first is 0. -/
def symRank : Sym → Nat
  | .plumbUp _ _ => 0
  | .plumbDown _ _ => 0
  | .sever _ _ _ _ => 0
  | .stopNotice _ _ _ _ _ => 0
  | .nak _ => 1
  | .heartbeat => 2
  | _ => 3

/-- The symbol that goes first: lowest rank, then first queued. -/
def firstSym : List SymOut → Option SymOut
  | [] => none
  | y :: l => match firstSym l with
    | none => some y
    | some z => if symRank y.sym ≤ symRank z.sym then some y else some z

/-- Lane `l` of port `p` may carry the symbol: its own CAPS and NAK while it sends blocks, any other while it is ACTIVE. -/
def State.symFor (s : State) (p l : Nat) (y : SymOut) : Bool :=
  match y.lane with
  | some m => y.port = p ∧ m = l
  | none => y.port = p ∧ s.laneSt p l = lnActive

/-- A symbol as it leaves: CHECK carries the TIME_NS of its sending (R371). -/
def State.symNow (s : State) (y : Sym) : Sym :=
  match y with
  | .check _ => s.checkNow
  | y => y

/-- Take up to `n` waiting symbols for a lane, in the order in which they are sent. -/
def State.takeSyms (s : State) (p l : Nat) : Nat → List Sym × State
  | 0 => ([], s)
  | n + 1 => match firstSym (s.symOut.filter (s.symFor p l)) with
    | none => ([], s)
    | some y =>
      let (ys, s) := State.takeSyms { s with symOut := s.symOut.erase y } p l n
      (s.symNow y.sym :: ys, s)

/-! ### Blocks (R295, R297 to R299, R308) -/

/-- A service block of a kind, without its content. -/
def kindBlock (kind : Nat) : Nat := 2 ^ 248 * kind

/-- The check bits of an NRZ block (R297). -/
def withCrc (rate b : Nat) : Nat := if rate < 3 then patch b 0 32 (blockCrc b) else b

/-- MARKER (R298). -/
def markerBlock (seq p l rate : Nat) : Nat :=
  2 ^ 256 + kindBlock 1 + 2 ^ 232 * seq + 2 ^ 228 * p + 2 ^ 226 * l + 2 ^ 223 * rate

/-- Symbols 0, 1 and 2 of a SYMBOLS block; an empty one is all zeros. -/
def symbolsBlock (ys : List Sym) : Nat :=
  let y (i : Nat) : Nat := (ys[i]?.map symBits).getD 0
  kindBlock 2 + 2 ^ 184 * y 0 + 2 ^ 120 * y 1 + 2 ^ 56 * y 2

/-- Blocks of a superframe, and its filler slot (R298). -/
def superframe (rate : Nat) : Nat := if rate < 3 then 25 else 50
def fillerSlot (rate : Nat) : Nat := if rate < 3 then 19 else 46

/-- A service slot other than the MARKER and the filler: SYMBOLS, else NET, else IDLE (R308). The layout of a packet in a
NET block is not given, nor the port that a path leads to: a free bit says whether a waiting packet leaves here, and its
bits are free. (log 165 DESIGN CHOICE) -/
def State.serviceBlock (s : State) (p l : Nat) : Nat × State :=
  let (ys, s) := s.takeSyms p l 3
  if ys ≠ [] then (symbolsBlock ys, s)
  else if s.netOut = [] ∨ s.laneSt p l ≠ lnActive then (kindBlock 4, s)
  else
    let (here, s) := s.free 1
    if here = 0 then (kindBlock 4, s)
    else
      let (v, s) := s.free 248
      (kindBlock 3 + v, { s with netOut := s.netOut.drop 1 })

/-! ### The mortar stream (R303 to R305) -/

/-- `w` bits of a number, the most significant first. -/
def natBits (v w : Nat) : List Bool := ((List.range w).reverse).map v.testBit

/-- A frame in the stream: LEN, header, payload. -/
def frameBits (f : FrameOut) : List Bool := natBits f.payload.length 9 ++ natBits f.hdr 24 ++ f.payload

/-- Fill `n` stream bits of a block: the rest of the frame at hand, then the frames that wait, whole LENs only; the block
ends with zeros, which read as LEN = 0. The bits, what is left of the last frame, and the frames that still wait. -/
def fillBlock (n : Nat) (rest : List Bool) : List FrameOut → List Bool × List Bool × List FrameOut
  | [] => (rest.take n ++ List.replicate (n - rest.length) false, rest.drop n, [])
  | f :: l =>
    if n < rest.length + 9 then (rest.take n ++ List.replicate (n - rest.length) false, rest.drop n, f :: l)
    else
      let (b, r, q) := fillBlock (n - rest.length) (frameBits f) l
      (rest ++ b, r, q)

/-- The mortar block of an ACTIVE lane. At the lowest rate it carries IDLE (R302); a lane that still trains carries an empty
one. -/
def State.mortarOut (s : State) (p l rate : Nat) : Nat × State :=
  if rate = 0 then (kindBlock 4, s)
  else if s.laneSt p l ≠ lnActive then (0, s)
  else
    let n := if rate < 3 then 224 else 256
    let rest := ((s.txRest.find? fun x => x.1 = p).map (·.2)).getD []
    let (b, r, q) := fillBlock n rest (s.frameOut.filter (·.port = p))
    let others := s.txRest.filter (·.1 ≠ p)
    (2 ^ (256 - n) * bitsNat b,
      { s with frameOut := s.frameOut.filter (·.port ≠ p) ++ q, txRest := if r = [] then others else others ++ [(p, r)] })

/-! ### Lanes (R314, R315, R318) -/

/-- A CAPS of the lane waits. -/
def capsWaits (p l : Nat) (y : SymOut) : Bool :=
  match y.sym with
  | .caps _ => y.port = p ∧ y.lane = some l
  | _ => false

/-- CAPS of a lane once per superframe, until the peer's has come (R315). (log 91 DEDUCED) -/
def State.capsDue (s : State) (p l : Nat) : State :=
  let b := LN p l
  if s.rf b LANE_STATUS_BLK_LOCK = 0 ∨ s.rf b LANE_STATUS_CAPS_VALID = 1 ∨ s.symOut.any (capsWaits p l) then s
  else { s with symOut := s.symOut ++ [⟨p, some l, .caps (s.capsOf p l)⟩] }

/-- Form the next block of a lane that sends blocks, and queue it. (log 163 DESIGN CHOICE) -/
def State.formBlock (s : State) (p l : Nat) : State :=
  let x := 4 * p + l
  let rate := s.rf (LN p l) LANE_STATUS_RATE
  let slot := s.rd A.lnTxSlot x
  let seq := s.rd A.lnTxSeq x
  let s := if slot = 0 then s.capsDue p l else s
  let (b, s) :=
    if slot = 0 then (markerBlock seq p l rate, s)
    else if slot = fillerSlot rate then (kindBlock 5, s)
    else if serviceSlot rate slot then s.serviceBlock p l
    else s.mortarOut p l rate
  let s : State := { s with txQueue := s.txQueue ++ [⟨p, l, seq * 25 + slot, withCrc rate b⟩] }
  if slot + 1 < superframe rate then s.wr A.lnTxSlot x (slot + 1)
  else (s.wr A.lnTxSlot x 0).wr A.lnTxSeq x (seq + 1)

/-- Blocks that wait on a lane. -/
def State.laneQueue (s : State) (p l : Nat) : List TxBlock := s.txQueue.filter fun b => b.port = p ∧ b.lane = l

/-- The lanes of a port that send blocks form their next ones together, in ascending order; while one of them replays, none
does. So their MARKERs stay in one transmit word (R298). (log 163 DESIGN CHOICE) -/
def State.formBlocks (s : State) (p : Nat) : State :=
  let ls := (s.lanes p).filter (s.sendsBlocks p)
  if ls.any fun l => s.laneQueue p l ≠ [] then s else ls.foldl (fun s l => s.formBlock p l) s

/-! ### The line (R295, R296, R300) -/

/-- Multiply by a number in GF(2^10). -/
def gfMul (a b : Nat) : Nat := (List.range 10).foldl (fun v i => if b.testBit i then v ^^^ gfShift a i else v) 0

/-- The codeword of a block (R296): the parity symbols make α^0 and α^1 roots of the codeword polynomial; 1016 is the
inverse of 1 + α. -/
def rsEncode (b : Nat) : Nat :=
  let c := b % 2 ^ 257
  let p1 := gfMul (rsAt c 0 ^^^ rsAt c 1) 1016
  c + 2 ^ 260 * (rsAt c 0 ^^^ p1) + 2 ^ 270 * p1

/-- Level of a Gray-coded PAM4 symbol: 00, 01, 11, 10. -/
def grayLevel (v : Nat) : Nat :=
  match v with
  | 0 => 0
  | 1 => 1
  | 3 => 2
  | _ => 3

/-- A block on the line. -/
def lineOf (rate b : Nat) : LineWord :=
  if rate < 3 then .nrz ((List.range 257).map b.testBit)
  else .pam4 ((List.range 140).map fun k => grayLevel (slice (rsEncode b) (2 * k) 2))

/-- Put a word on a lane's line. -/
def State.emit (s : State) (p l : Nat) (w : LineWord) : State := { s with lineOut := s.lineOut ++ [⟨p, l, w⟩] }

/-- A lane that sends blocks sends the oldest that waits; at an NRZ rate it keeps its last 64. -/
def State.sendBlock (s : State) (p l : Nat) : State :=
  let rate := s.rf (LN p l) LANE_STATUS_RATE
  match s.laneQueue p l with
  | [] => s
  | b :: _ =>
    let s := State.emit { s with txQueue := s.txQueue.erase b } p l (lineOf rate b.bits)
    if 3 ≤ rate then s
    else
      let mine := s.txKept.filter fun x => x.port = p ∧ x.lane = l
      { s with txKept := (if 64 ≤ mine.length then s.txKept.erase (mine.headD b) else s.txKept) ++ [b] }

/-- Training words (R314). -/
def wordTsu : Nat := 0x4B1E87D22D78E1B4
def wordTsl : Nat := 0xB4E1782DD2871E4B
def wordTse : Nat := 0x00000000FFFFFFFF

/-- A lane that trains: TSU until its receiver has header lock, then TSL; once it has received TSL 16 times, which a free bit
says, TSE four times, then blocks. (log 166 DESIGN CHOICE) -/
def State.sendTraining (s : State) (p l : Nat) : State :=
  let x := 4 * p + l
  let n := s.rd A.lnTx x
  if n ≠ 0 then
    let s := (s.emit p l (.train wordTse)).wr A.lnTx x (n + 1)
    if n = 4 then s.firstBlock p l else s
  else if s.rf (LN p l) LANE_STATUS_HDR_LOCK = 0 then s.emit p l (.train wordTsu)
  else
    let (v, s) := s.free 1
    (s.emit p l (.train wordTsl)).wr A.lnTx x v

/-- One lane of a port in a period. -/
def State.laneOut (s : State) (p l : Nat) : State :=
  if s.sendsBlocks p l then s.sendBlock p l
  else if s.laneSt p l = lnTrain then s.sendTraining p l
  else if s.laneSt p l = lnAbsent then s.emit p l (.train wordTsu)
  else s

/-- Every port sends. (log 163 DESIGN CHOICE) -/
def State.transmit (s : State) : State :=
  State.each { s with lineOut := [] } 16 fun s p =>
    if s.domOn (p / 2) domLink then (s.lanes p).foldl (fun s l => s.laneOut p l) (s.formBlocks p) else s

end Sys2Proof.Machine
end

