-- ==== Sys2Proof/Machine/Block.lean ====
section
/-! DEFINITION. What goes on in a period of SCLK that no command asks for. -/

namespace Sys2Proof.Machine

/-- One SCLK period: a parked device that a request has woken leaves PARK (R427), stepping partitions perform their step
(R12), the REPAIR phase of a Newt engine ends (R191), the firmware goes on to the CHAIN stage (R333), and the lanes of the
links send (R298). (log 3 DESIGN CHOICE) -/
def State.period (s : State) : State :=
  let s := s.parkWoken.tick
  if s.clocked then (s.each 8 State.newtRepaired).chainBegin.transmit else s

end Sys2Proof.Machine
end

