-- ==== Sys2Proof/Machine/Cores.lean ====
section
/-! DEFINITION. Transactor cores as the device sees them, call portals and the dispatcher (chapter 09, R212 to R234).
A core's own instructions lie outside the model: its accesses of the device's CSRs are commands. The value that a core's
read returns is the answer `rsp`. -/

namespace Sys2Proof.Machine

open Reg

/-- Flat index of a core. -/
def coreIx (die : Fin 8) (core : Fin 32) : Nat := 32 * die + core

/-- An illegal-instruction exception: the core enters machine mode with cause 2; the level it came from is kept. Its
program counter, its handler and delegation are the core's own. (log 41 DESIGN CHOICE) -/
def State.coreIllegal (s : State) (c : Nat) : State :=
  ((s.wr A.corePrev c (s.rd A.coreLow c)).wr A.coreLow c 0).wr A.coreCause c 2

/-- A core that firmware has released executes an access of a device CSR (R212, R215): from supervisor or user mode it is
illegal unless JCTL.LOWER = 1. One that stalled on JNEXT does so no longer (R216). -/
def State.coreDoes (s : State) (c : Nat) (f : State → State) : State :=
  if ¬ s.on A.coreUp c then s
  else
    let s := s.wr A.coreIdle c 0
    if s.rd A.coreLow c ≠ 0 ∧ s.rd A.jctl c = 0 then s.coreIllegal c else f s

/-! ### Work items (R214 to R216, R231) -/

/-- A slot becomes FREE: its flags are clear. (log 179 DESIGN CHOICE) -/
def State.taskFree (s : State) (t : Nat) : State :=
  let v := patch (s.rd A.tCfg t) 0 1 0
  (((s.wr A.tState t 0).wr A.tFlags t 0).wr A.tCfg t v).wr A.tCfgNow t v

/-- A pending binding takes effect (R214). -/
def State.bindNow (s : State) (c : Nat) : State :=
  let n := s.rd A.coreBindNew c
  if slice n 12 1 = 1 then (s.wr A.coreBind c (slice n 0 12)).wr A.coreBindNew c 0 else s

/-- JWAIT replaces the task's settings (R231). -/
def State.applyJwait (s : State) (t w : Nat) : State :=
  (s.wr A.tMask t (slice w 0 32)).wr A.tTimeout t (slice w 40 24 + 2 ^ 24 * slice w 32 1)

/-- The work item of core `c` ends (R231). (log 44 DEDUCED) -/
def State.workEnd (s : State) (c : Nat) (free : Bool) : State :=
  match s.rd A.coreTask c with
  | 0 => s
  | t + 1 =>
    let s := s.wr A.coreTask c 0
    let s :=
      if free ∨ s.on A.tFreeAtEnd t then (s.taskFree t).wr A.tFreeAtEnd t 0
      else
        let w := s.rd A.jwait c
        (if slice w 33 1 = 1 then s.applyJwait t w else s).taskWait t
    s.bindNow c

/-- JNEXT: ends a work item in progress, then the core is idle until it is given one (R216). -/
def execJnext (die : Fin 8) (core : Fin 32) (s : State) : Res := s.live fun s =>
  .next (s.coreDoes (coreIx die core) fun s => (s.workEnd (coreIx die core) false).wr A.coreIdle (coreIx die core) 1)

def execJdone (die : Fin 8) (core : Fin 32) (val : BitVec 64) (s : State) : Res := s.live fun s =>
  .next (s.coreDoes (coreIx die core) fun s => s.workEnd (coreIx die core) (val.getLsbD 0))

/-! ### Queues (R217) -/

/-- Queue that JQSEL names. -/
def State.coreQueue (s : State) (die : Fin 8) (core : Fin 32) : Nat := 128 * die + s.rd A.jqsel (coreIx die core)

/-- JQSTAT: EMPTY, FULL, EOP, DENIED. -/
def jqstatOf (empty full eop denied : Bool) : Nat := bit empty + 2 * bit full + 4 * bit eop + 8 * bit denied

def State.corePop (s : State) (die : Fin 8) (core : Fin 32) : State :=
  let c := coreIx die core
  let q := s.coreQueue die core
  if ¬ s.mayQueue (.core die core) q then (s.wr A.jqstat c (jqstatOf false false false true)).okay
  else
    let (r, s) := s.qPop q
    (s.wr A.jqstat c (jqstatOf r.isNone false ((r.map (·.2)).getD false) false)).ans 0 ((r.map (·.1)).getD 0)

def execJqdataPop (die : Fin 8) (core : Fin 32) (s : State) : Res := s.live fun s =>
  .next (s.coreDoes (coreIx die core) fun s => s.corePop die core)

def State.corePush (s : State) (die : Fin 8) (core : Fin 32) (w : Nat) (last : Bool) : State :=
  let c := coreIx die core
  let q := s.coreQueue die core
  if ¬ s.mayQueue (.core die core) q then s.wr A.jqstat c (jqstatOf false false false true)
  else
    let (ok, s) := s.qPush q (coreProducer c) w last
    s.wr A.jqstat c (jqstatOf false (!ok) false false)

def execJqdataPush (die : Fin 8) (core : Fin 32) (val : BitVec 64) (s : State) : Res := s.live fun s =>
  .next (s.coreDoes (coreIx die core) fun s => s.corePush die core val.toNat false)

def execJqend (die : Fin 8) (core : Fin 32) (val : BitVec 64) (s : State) : Res := s.live fun s =>
  .next (s.coreDoes (coreIx die core) fun s => s.corePush die core val.toNat true)

/-! ### Call responses (R222 to R224) -/

/-- Results of a response, as JRSTAT shows them. -/
def rspDelivered : Nat := 0
def rspStale : Nat := 1
def rspDenied : Nat := 2
def rspFormat : Nat := 3

/-- A JRSP write. -/
def State.jrsp (s : State) (c w : Nat) : State :=
  let left := s.rd A.jrspLeft c
  if s.on A.jrspSent c then s
  else if left = 0 then
    let n := slice w 60 4
    if 8 < n then s.wr A.jrstat c (2 * rspFormat)
    else
      let s : State := { s with jrspBuf := (s.jrspBuf.filter fun x => x.1 ≠ c) ++ [(c, w)] }
      (s.wr A.jrspLeft c (n + 1)).wr A.jrstat c (patch (s.rd A.jrstat c) 0 1 1)
  else
    let s := State.wr { s with jrspBuf := s.jrspBuf ++ [(c, w)] } A.jrspLeft c (left - 1)
    if left = 1 then s.wr A.jrspSent c 1 else s

def execJrsp (die : Fin 8) (core : Fin 32) (val : BitVec 64) (s : State) : Res := s.live fun s =>
  .next (s.coreDoes (coreIx die core) fun s => s.jrsp (coreIx die core) val.toNat)

/-- The words of a core's response. -/
def State.rspWords (s : State) (c : Nat) : List Nat := (s.jrspBuf.filter fun x => x.1 = c).map (·.2)

/-- The response leaves the core with a result. -/
def State.rspEnd (s : State) (c r : Nat) : State :=
  (State.wr { s with jrspBuf := s.jrspBuf.filter fun (x : Nat × Nat) => x.1 ≠ c } A.jrspSent c 0).wr A.jrstat c (2 * r)

/-- A stale response of portal `w` (R223). -/
def State.staleRsp (s : State) (c w reason : Nat) : State :=
  ((s.sat A.staleCnt w 1).wr A.staleWhy w reason).rspEnd c rspStale

/-- The portal's checks (R223); no record stands for a CALL: 0 passes, 4 DENIED, 1 to 3 the reason of STALE. (log 46 DEDUCED) -/
def State.rspCheck (s : State) (who : Who) (w0 w1 wall : Nat) : Nat :=
  let pid := slice w0 34 8
  let owner := (s.slotOfWall wall).map (s.rd A.pPid ·)
  let rec_ := s.portalRec.find? fun r => r.course = 16 * wall + slice w0 23 4 ∧ r.tag = slice w0 16 7
  if ¬ (owner = some pid ∧ s.mayPid who pid) then 4
  else if slice w1 58 6 ≠ s.rd A.epoch wall then 3
  else match rec_ with
    | none => 2
    | some r => if slice w0 42 1 = 0 then 2 else if r.gen = slice w0 12 4 ∧ r.callId = slice w0 0 12 then 0 else 1

/-- Deliver data into the place that a record names (R224). -/
def State.rspDeliver (s : State) (c k data : Nat) (r : PortalRec) : State :=
  let s := s.logInput k (r.course / 256) 9
    (portPacket 1 r.course r.bed r.line r.lines (slice r.due 9 2) r.tag (r.cyc + slice r.due 9 2) data none)
  let s := { s with portalRec := s.portalRec.erase r }
  ((s.deliver r.bed r.bank r.line r.lines data r.due).tagFree r.course r.tag).rspEnd c rspDelivered

/-- PORTAL_RESPONSE; it waits while the die's recorder buffer is full (R261). -/
def State.portalRsp (s : State) (die : Fin 8) (core : Fin 32) : State :=
  let c := coreIx die core
  if ¬ s.on A.jrspSent c then s
  else
    let ws := s.rspWords c
    let w0 := ws.getD 0 0
    let wall := 16 * slice w0 31 3 + slice w0 27 4
    let data := ((ws.drop 2).foldr (fun x v => x + 2 ^ 64 * v) 0)
    match s.rspCheck (.core die core) w0 (ws.getD 1 0) wall with
    | 4 => s.rspEnd c rspDenied
    | 0 =>
      (match s.portalRec.find? (fun r => r.course = 16 * wall + slice w0 23 4 ∧ r.tag = slice w0 16 7), s.slotOfWall wall with
       | some r, some k => if s.bufFull k (wall / 16) r.lines then s else s.rspDeliver c k data r
       | _, _ => s)
    | n => s.staleRsp c wall n

def execPortalResponse (die : Fin 8) (core : Fin 32) (s : State) : Res := s.live fun s => .next (s.portalRsp die core)

/-- PORTAL_MESSAGE_WRITTEN: the message of a course is written once its queue is valid and has room (R218, R219). -/
def State.portalWrite (s : State) (u : Nat) : State :=
  match s.portalMsg.find? fun m => m.course = u with
  | none => s
  | some m =>
    if s.portalQueueOk m.queue (s.rd A.pPid m.slot) ∧ s.qFits m.queue m.words.length then
      let s := (s.qDeliver m.queue m.words).wr A.calls (u / 16) (s.rd A.calls (u / 16) + 1)
      let s := { s with portalMsg := s.portalMsg.erase m }
      if s.portalMsg.any fun x => x.slot = m.slot then s else s.dropCause m.slot 4
    else s

def execPortalMessageWritten (u : CourseLoc) (s : State) : Res := s.live fun s => .next (s.portalWrite (courseIx u))

/-! ### The dispatcher (R225 to R233) -/

/-- Flat index of a task. -/
def taskIx (die : Fin 8) (task : Fin 512) : Nat := 512 * die + task

/-- TASK_TIMEOUT (R228). -/
def State.taskExpire (s : State) (t : Nat) : State :=
  let us := slice (s.rd A.tTimeoutNow t) 0 24
  if s.rd A.tState t = 1 ∧ us ≠ 0 ∧ us * 1000 ≤ s.mono - s.rd A.tSince t then s.taskReady t 1 else s

def execTaskTimeout (die : Fin 8) (task : Fin 512) (s : State) : Res := s.live fun s => .next (s.taskExpire (taskIx die task))

/-- A task runs on a core's pool key (R213, R229). -/
def State.keyMatches (s : State) (c t : Nat) : Bool :=
  let b := s.rd A.coreBind c
  let v := s.rd A.tCfgNow t
  slice v 5 3 = slice b 9 3 ∧
  (if slice b 8 1 = 1 then slice v 16 1 = 0 ∧ slice v 8 8 = slice b 0 8 else slice v 16 1 = 1)

/-- A task goes before another: PRIO, then the time it became READY, then its number. -/
def State.goesFirst (s : State) (t u : Nat) : Bool :=
  let p := slice (s.rd A.tCfgNow t) 1 4
  let q := slice (s.rd A.tCfgNow u) 1 4
  let a := s.rd A.tOrder t
  let b := s.rd A.tOrder u
  q < p ∨ (p = q ∧ (a < b ∨ (a = b ∧ t ≤ u)))

/-- The READY task for a core. -/
def State.taskFor (s : State) (c : Nat) : Option Nat :=
  ((List.range 512).map fun i => 512 * (c / 32) + i).foldl (fun best t =>
    if s.rd A.tState t = 2 ∧ s.keyMatches c t then
      match best with
      | none => some t
      | some u => if s.goesFirst t u then some t else some u
    else best) none

/-- The lowest-numbered idle core of a die that has a READY task, and that task. (log 43 DEDUCED) -/
def State.pick (s : State) (die : Nat) : Option (Nat × Nat) :=
  ((List.range 32).map fun i => 32 * die + i).findSome? fun c =>
    if s.on A.coreIdle c then (s.taskFor c).map fun t => (c, t) else none

/-- Histogram bin of a wait in ns (R233). -/
def histBin (ns : Nat) : Nat := ([250, 1000, 4000, 16000, 64000, 256000, 1000000].filter fun x => x ≤ ns).length

/-- Give task `t` to core `c` (R216, R230, R233): the item shows the settings in force. Where TASK_WAIT or TASK_TIMEOUT has
been written since the task entered WAIT, the rule does not say which of the two JWAIT is loaded with: it is loaded from the
registers. (log 160 DESIGN CHOICE) -/
def State.dispatchTo (s : State) (c t : Nat) : State :=
  let v := s.rd A.tCfgNow t
  let flags := s.rd A.tFlags t
  let wait := s.mono - s.rd A.tReadyAt t
  let item := t % 512 + 2 ^ 9 * s.rd A.tTmo t + 2 ^ 10 * slice v 1 4 + 2 ^ 14 * slice v 5 3 + 2 ^ 32 * flags
  let tm := s.rd A.tTimeout t
  let s := ((s.wr A.coreIdle c 0).wr A.coreTask c (t + 1)).wr A.jnext c item
  let s := s.wr A.jwait c (s.rd A.tMask t + 2 ^ 32 * slice tm 24 1 + 2 ^ 40 * slice tm 0 24)
  let s := (s.wr A.jarg c (s.rd A.tArgNow t)).wr A.tFlags t (flags &&& (0xFFFFFFFF ^^^ s.rd A.tMaskNow t))
  let s := ((s.wr A.tState t 3).wr A.tCore t (c % 32)).wr A.tLastTmo t (s.rd A.tTmo t)
  let s := (s.wr A.tCount t (s.rd A.tCount t + 1)).sat A.tHist (8 * t + histBin wait) 1
  s.wr A.tWaitMax t (max (s.rd A.tWaitMax t) (min (wait / 10) 0xFFFFFFFF))

/-- DISPATCH; an entry to PARK or SLUMBER stops it (R426). (log 43 DEDUCED) -/
def State.dispatch (s : State) (die : Nat) : State :=
  if s.rf 0 PWR_CTRL_BUSY = 1 then s
  else match s.pick die with
    | none => s
    | some (c, t) => s.dispatchTo c t

def execDispatch (die : Fin 8) (s : State) : Res := s.live fun s => .next (s.dispatch die)

/-! ### Registers (R214, R225, R226, R232 to R234) -/

/-- The initiator reaches a task slot (R234). -/
def State.mayTask (s : State) (who : Who) (t : Nat) : Bool :=
  s.pfRights who ∨ (slice (s.rd A.tCfg t) 16 1 = 0 ∧ s.stamp who = .part (slice (s.rd A.tCfg t) 8 8))

/-- Log 45 DEDUCED. -/
def State.taskGuard (s : State) (who : Who) (t : Nat) (f : State → State) : State :=
  if s.mayTask who t then (f s).okay else s.deny

def execDispFlagSet (who : Who) (die : Fin 8) (task : Fin 512) (flag : Fin 32) (s : State) : Res :=
  s.access who (.dispFlagSet who die task flag) fun s =>
    .next (s.taskGuard who (taskIx die task) fun s => s.setFlag (taskIx die task) flag)

/-- A flag of a task clears. -/
def State.clearFlag (s : State) (t f : Nat) : State := s.wr A.tFlags t (patch (s.rd A.tFlags t) f 1 0)

def execDispFlagClear (who : Who) (die : Fin 8) (task : Fin 512) (flag : Fin 32) (s : State) : Res :=
  s.access who (.dispFlagClear who die task flag) fun s =>
    .next (s.taskGuard who (taskIx die task) fun s => s.clearFlag (taskIx die task) flag)

/-- Slot that DISP_TASK_SEL names. -/
def State.taskSel (s : State) (die : Nat) : Nat := 512 * die + s.rf (D die) DISP_TASK_SEL_TASK

/-- A write of TASK_CFG or TASK_ARG: of a READY or RUNNING task it applies from the next entry into WAIT (R225). -/
def State.taskPut (s : State) (t : Nat) (a now : Arr) (v : Nat) : State :=
  let s := s.wr a t v
  if s.rd A.tState t ≤ 1 then s.wr now t v else s

/-- A write of TASK_CFG that its writer may make (R225, R231). -/
def State.taskCfg (s : State) (t v : Nat) : State :=
  let s := s.taskPut t A.tCfg A.tCfgNow (slice v 0 17)
  match s.rd A.tState t, slice v 0 1 with
  | 0, 1 => (s.wr A.tFlags t 0).taskWait t
  | 3, n => s.wr A.tFreeAtEnd t (1 - n)
  | 1, 0 => s.taskFree t
  | 2, 0 => s.taskFree t
  | _, _ => s

/-- PID and NOPID change from the physical function only (R234). (log 45 DEDUCED) -/
def State.taskCfgWrite (s : State) (who : Who) (die v : Nat) : State :=
  let t := s.taskSel die
  if s.pfRights who ∨ (s.mayTask who t ∧ slice v 8 9 = slice (s.rd A.tCfg t) 8 9) then (s.taskCfg t v).okay
  else s.deny

def execTaskCfgWrite (who : Who) (die : Fin 8) (val : Word) (s : State) : Res :=
  s.access who (.taskCfgWrite who die val) fun s => .next (s.taskCfgWrite who die val.toNat)

/-- HCLR. -/
def State.histClear (s : State) (t : Nat) : State := (s.drop A.tHist fun i => i / 8 = t).wr A.tWaitMax t 0

def execTaskHistClear (who : Who) (die : Fin 8) (s : State) : Res :=
  s.access who (.taskHistClear who die) fun s => .next (s.taskGuard who (s.taskSel die) fun s => s.histClear (s.taskSel die))

/-- A write of TASK_WAIT, TASK_TIMEOUT: it applies to a wait in progress (R225). (log 44 DEDUCED) -/
def State.taskSet (s : State) (t : Nat) (a now : Arr) (v : Nat) : State :=
  let s := s.wr a t v
  if s.rd A.tState t = 1 then ((s.wr now t v).taskCheck t).taskExpire t else s

/-- CORE_RESET (R232, R244). Nothing says what becomes of a call response: one in assembly is discarded, a complete one
stays on its way to the portal, and its JRSTAT stays. (log 162 DESIGN CHOICE) -/
def State.coreReset (s : State) (c : Nat) : State :=
  let s := (s.workEnd c false).dropOpen (coreProducer c)
  let s := if s.on A.jrspSent c then s
    else (State.wr { s with jrspBuf := s.jrspBuf.filter fun (x : Nat × Nat) => x.1 ≠ c } A.jrspLeft c 0).wr A.jrstat c 0
  [A.jctl, A.jwait, A.jqsel, A.jnext, A.jarg, A.jqstat, A.coreIdle, A.coreLow, A.corePrev, A.coreCause].foldl (fun s a => s.wr a c 0) s

/-- A write of the binding (R214): at once, or at the end of the work item. A write of the binding in force while another
change is PENDING, of which the rule says nothing, cancels that change. (log 161 DESIGN CHOICE) -/
def State.coreBindTo (s : State) (c v : Nat) : State :=
  if s.rd A.coreTask c = 0 then (s.wr A.coreBind c v).wr A.coreBindNew c 0
  else if s.rd A.coreBind c = v then s.wr A.coreBindNew c 0
  else s.wr A.coreBindNew c (v + 2 ^ 12)

def State.coreBindWrite (s : State) (who : Who) (c v : Nat) : State :=
  if ¬ s.pfRights who then s.deny
  else
    let s := s.coreBindTo c (slice v 0 12)
    (if slice v 15 1 = 1 then s.coreReset c else s).okay

def execCoreBindWrite (who : Who) (die : Fin 8) (core : Fin 32) (val : Word) (s : State) : Res :=
  s.access who (.coreBindWrite who die core val) fun s => .next (s.coreBindWrite who (coreIx die core) val.toNat)

def execCoreReset (who : Who) (die : Fin 8) (core : Fin 32) (s : State) : Res :=
  s.access who (.coreReset who die core) fun s =>
    .next (if s.pfRights who then (s.coreReset (coreIx die core)).okay else s.deny)

/-! ### Registers as they read -/

/-- CORE_BIND. -/
def State.coreBindReg (s : State) (c : Nat) : Nat :=
  let t := s.rd A.coreTask c
  s.rd A.coreBind c + 2 ^ 12 * slice (s.rd A.coreBindNew c) 12 1 + 2 ^ 13 * bit (t ≠ 0) + 2 ^ 14 * s.rd A.coreIdle c +
    2 ^ 16 * ((t - 1) % 512)

/-- Tasks of a die in a state. -/
def State.tasksIn (s : State) (die st : Nat) : Nat := ((List.range 512).filter fun i => s.rd A.tState (512 * die + i) = st).length

def State.dispStatus (s : State) (die : Nat) : Nat :=
  s.tasksIn die 2 + 2 ^ 10 * s.tasksIn die 3 + 2 ^ 16 * s.tasksIn die 1

def State.taskStateReg (s : State) (t : Nat) : Nat :=
  s.rd A.tState t + 2 ^ 2 * (if s.rd A.tState t = 3 then s.rd A.tCore t else 0) + 2 ^ 7 * s.rd A.tLastTmo t +
    2 ^ 8 * s.rd A.tCount t

/-- PORTAL_STATUS of a wall. -/
def State.portalStatus (s : State) (w : Nat) : Nat :=
  let ms := s.portalMsg.filter fun m => m.course / 16 = w
  let pend := ms.foldl (fun v m => v ||| 2 ^ (m.course % 16)) 0
  match ms with
  | [] => 0
  | m :: _ => pend + 2 ^ 16 * bit (¬ s.portalQueueOk m.queue (s.rd A.pPid m.slot)) + 2 ^ 17 * (m.queue % 128)

def State.portalOut (s : State) (w : Nat) : Nat :=
  (s.portalRec.filter fun r => r.course / 16 = w).length + 2 ^ 12 * s.rd A.epoch w

end Sys2Proof.Machine
end

