-- ==== Sys2Proof/Machine/Hbm.lean ====
section
/-! DEFINITION. The HBM controllers and the caches in front of them (chapter 17, R397, R398). -/

namespace Sys2Proof.Machine

open Reg

/-- Bytes of an access (R386). -/
def szBytes : AccSize → Nat
  | .b4 => 4
  | .b8 => 8
  | .b32 => 32
  | .b64 => 64

/-! ### A core's access, through the L2 of its die (R397, R398) -/

/-- Lines of an L2 of 8 MiB. (log 31 DESIGN CHOICE) -/
def l2Lines : Nat := 131072

def State.l2Find (s : State) (die line : Nat) : Option L2Line := s.l2.find? fun e => e.die = die ∧ e.line = line

/-- Put a line into an L2; a full one gives up its oldest. (log 31 DESIGN CHOICE) -/
def State.l2Put (s : State) (e : L2Line) : State :=
  let mine := s.l2.filter fun x => x.die = e.die
  let s := match mine with
    | x :: _ => if l2Lines ≤ mine.length then s.l2Drop e.die x.line else s
    | [] => s
  { s with l2 := s.l2 ++ [e] }

/-- The line as the L2 of `die` holds it, fetched where it does not; status of the fetch. An identity that does not reach the
granule is answered DENIED there too (R26, R404). -/
def State.l2Fetch (s : State) (w : Stamp) (die line : Nat) : Nat × Nat × State :=
  if ¬ s.reachesHbm w (64 * line) then (1, 0, s)
  else match s.l2Find die line with
  | some e => (0, e.data, s)
  | none =>
    let r := s.hbmAccess w false (64 * line) 64 0
    (r.status, r.data, if r.status = 0 then r.st.l2Put ⟨die, line, false, r.data⟩ else r.st)

/-- A load. (log 31 DESIGN CHOICE) -/
def State.coreLoad (s : State) (w : Stamp) (die a n : Nat) : HbmAns :=
  let (r, d, s) := s.l2Fetch w die (a / 64)
  ⟨r, slice d (8 * (a % 64)) (8 * n), s⟩

/-- A store: no other L2 keeps the line, and this one holds it modified. (log 31 DESIGN CHOICE) -/
def State.coreStore (s : State) (w : Stamp) (die a n v : Nat) : HbmAns :=
  let line := a / 64
  let (r, d, s) := s.l2Fetch w die line
  if r ≠ 0 then ⟨r, 0, s⟩
  else
    let others := s.l2.filter fun e => ¬ e.line = line
    ⟨0, 0, { s with l2 := others ++ [⟨die, line, true, patch d (8 * (a % 64)) (8 * n) v⟩] }⟩

/-! ### Requests (R401 to R408) -/

def State.hbmReq (s : State) (who : Who) (write : Bool) (a n v : Nat) : HbmAns :=
  let a := a / n * n
  if hbmBytes ≤ a then ⟨1, 0, s⟩
  else match who with
    | .core d _ => if write then s.coreStore (s.stamp who) d a n v else s.coreLoad (s.stamp who) d a n
    | _ => s.hbmAccess (s.stamp who) write a n v

/-- The answer of an HBM access. -/
def HbmAns.answer (r : HbmAns) (write : Bool) : State := r.st.ans r.status (if write ∨ r.status = 1 then 0 else r.data)

/-- HBM_REQUEST. The hint moves rows open and shut, which only time shows (R405). (log 113 DESIGN CHOICE) -/
def execHbmRequest (who : Who) (write : Bool) (addr : BitVec 39) (size : AccSize) (data : BitVec 512) (hint : BitVec 2)
    (s : State) : Res :=
  let a := addr.toNat
  if hbmBytes ≤ a then s.access who (.hbmRequest who write addr size data hint) fun s => .next s.deny
  else s.accessDom who (hbmDie a) domMem (.hbmRequest who write addr size data hint) fun s =>
    .next ((s.hbmReq who write a (szBytes size) (data.toNat % 2 ^ (8 * szBytes size))).answer write)

/-- SNOOP_INVALIDATION: the L2 of a die gives up a line, with its data if it was modified (R398). -/
def execSnoopInvalidation (die : Fin 8) (line : BitVec 33) (s : State) : Res := s.live fun s =>
  .next (s.l2Drop die line.toNat)

/-! ### Scrubbing, refresh, retraining (R409, R410, R412) -/

/-- The scrubber reads the next line of a stack. What it finds in a line of lost contents is not stated. -/
def State.scrub (s : State) (die : Nat) : State :=
  let x := s.rd A.scrubAt die
  let line := stackBytes / 64 * die + x
  let s := s.wr A.scrubAt die ((x + 1) % (stackBytes / 64))
  let (e, s) := if s.lineLost (64 * line) then s.free 2 else (s.rd A.hbmErr line, s)
  match e with
  | 0 => s
  | 1 => s.noteCe (64 * line)
  | _ => s.noteUe (64 * line)

def execPatrolScrub (die : Fin 8) (s : State) : Res := s.live fun s =>
  .next (if s.rf (D die) HBM_CFG_SCRUB_H = 0 ∨ s.rf (D die) HBM_STATUS_TRAINED = 0 ∨ ¬ s.domOn die domMem then s
    else s.scrub die)

/-- BANK_REFRESH, with the temperature that the stack's sensor reports. -/
def execBankRefresh (die : Fin 8) (_pc : Fin 32) (_bank : Fin 64) (tempC : BitVec 8) (s : State) : Res := s.live fun s =>
  .next ((s.wf (D die) HBM_STATUS_TEMP_C tempC.toNat).wf (D die) HBM_STATUS_HOT (bit (85 < tempC.toInt)))

/-- Difference of two temperatures, 8-bit two's complement. -/
def tempMoved (a b : Nat) : Nat := ((BitVec.ofNat 8 a).toInt - (BitVec.ofNat 8 b).toInt).natAbs

/-- Pseudo-channel `pc` of a die is due (R412): the next in the cycle once RETRAIN_MS have passed, or any whose stack has
moved by 10 °C since its own last retraining. (log 110 DEDUCED) -/
def State.retrainDue (s : State) (die pc : Nat) : Bool :=
  let b := D die
  let ms := s.rf b HBM_CFG_RETRAIN_MS
  (ms ≠ 0 ∧ pc = (s.rf b HBM_STATUS_LAST_PC + 1) % 32 ∧ s.rd A.pcAt die + 1000000 * ms ≤ s.mono) ∨
    10 ≤ tempMoved (s.rf b HBM_STATUS_TEMP_C) (s.rd A.pcTemp (32 * die + pc))

/-- PSEUDO_CHANNEL_RETRAIN: requests wait until it has ended, one pseudo-channel at a time. (log 110 DEDUCED) -/
def State.retrain (s : State) (die pc : Nat) : State :=
  let b := D die
  if s.rf b HBM_STATUS_TRAINED = 0 ∨ s.rf b HBM_STATUS_RETRAINING = 1 ∨ ¬ s.retrainDue die pc then s
  else
    let s := (s.wf b HBM_STATUS_LAST_PC pc).wf b HBM_STATUS_RETRAINING 1
    (s.wr A.pcAt die s.mono).wr A.pcTemp (32 * die + pc) (s.rf b HBM_STATUS_TEMP_C)

def execPseudoChannelRetrain (die : Fin 8) (pc : Fin 32) (s : State) : Res := s.live fun s => .next (s.retrain die pc)

/-- A retraining ends within 1.5 µs (R412): at which tick, a free bit says. (log 187 DESIGN CHOICE) -/
def State.retrainTick (s : State) (die : Nat) : State :=
  let b := D die
  if s.rf b HBM_STATUS_RETRAINING = 0 then s
  else
    let (v, s) := s.free 1
    if v = 1 ∨ s.rd A.pcAt die + 1500 ≤ s.mono then s.wf b HBM_STATUS_RETRAINING 0 else s

/-! ### Training and fill (R411, R414) -/

/-- HBM_TRAINING: the firmware starts it. -/
def execHbmTraining (die : Fin 8) (s : State) : Res := s.live fun s =>
  let b := D die
  .next ((((s.wr A.hbmTrn die 1).wf b HBM_STATUS_TRAINED 0).wf b HBM_STATUS_DEGRADED 0).wf b HBM_STATUS_REPAIRS 0)

/-- Training ends: every line holds zeros and valid check bits. -/
def State.trained (s : State) (die repairs : Nat) (unrepairable : Bool) : State :=
  let mine (line : Nat) : Bool := hbmDie (64 * line) = die
  let s := { s with mem := s.mem.filter fun c => hbmDie c.1 ≠ die, l2 := s.l2.filter fun e => ¬ mine e.line }
  let s := ((((s.drop A.hbmErr mine).drop A.hbmKnown mine).wr A.hbmLost die 0).wr A.saveMade die 0).wr A.hbmTrn die 0
  let s := (s.wf (D die) HBM_STATUS_TRAINED 1).wf (D die) HBM_STATUS_REPAIRS repairs
  -- every pseudo-channel has been trained now, at this temperature
  let s := (s.wr A.pcAt die s.mono).each 32 fun s pc => s.wr A.pcTemp (32 * die + pc) (s.rf (D die) HBM_STATUS_TEMP_C)
  if unrepairable then (s.wf (D die) HBM_STATUS_DEGRADED 1).raise 0x5BF else s

def execHbmTrainingDone (die : Fin 8) (repairs : BitVec 6) (unrepairable : Bool) (s : State) : Res := s.live fun s =>
  .next (if s.on A.hbmTrn die then s.trained die repairs.toNat unrepairable else s)

def execZeroFillDone (die : Fin 8) (s : State) : Res := s.live fun s => .next (s.wf (D die) HBM_STATUS_FILLING 0)

/-! ### The ownership table (R403, R404, R415) -/

/-- An access of HBM_OWN_DATA: `f` on the granule that HBM_OWN_SEL names. -/
def State.ownAccess (s : State) (who : Who) (die : Nat) (f : State → Nat → State) : State :=
  let b := D die
  let g := s.rf b HBM_OWN_SEL_GRANULE
  if ¬ s.pfRights who then (s.wf b HBM_OWN_SEL_RESULT 1).deny
  else
    let s := if s.rf b HBM_OWN_SEL_AUTOINC = 1 then s.wf b HBM_OWN_SEL_GRANULE (g + 1) else s
    if 24576 ≤ g then (s.wf b HBM_OWN_SEL_RESULT 2).okay else f (s.wf b HBM_OWN_SEL_RESULT 0) (24576 * die + g)

/-- Log 109 DEDUCED. -/
def State.ownWrite (s : State) (who : Who) (die v : Nat) : State :=
  s.ownAccess who die fun s g => (s.wr A.own g (slice v 0 9)).okay

/-- Log 109 DEDUCED. -/
def State.ownRead (s : State) (who : Who) (die : Nat) : State := s.ownAccess who die fun s g => s.ans 0 (s.rd A.own g)

def execOwnershipEntryWrite (who : Who) (die : Fin 8) (val : Word) (s : State) : Res :=
  s.access who (.ownershipEntryWrite who die val) fun s => .next (s.ownWrite who die val.toNat)

def execOwnershipEntryRead (who : Who) (die : Fin 8) (s : State) : Res :=
  s.access who (.ownershipEntryRead who die) fun s => .next (s.ownRead who die)

end Sys2Proof.Machine
end

