-- ==== Sys2Proof/Machine/Net.lean ====
section
/-! DEFINITION. The initiator side of the control network: routes, requests, timers (chapter 16). -/

namespace Sys2Proof.Machine

open Reg

/-- Initiator NIs of a die (R385). -/
def initiatorNi (die ni : Nat) : Bool := ni ≤ 35 ∨ (40 ≤ ni ∧ ni ≤ 43) ∨ (die = 0 ∧ 44 ≤ ni ∧ ni ≤ 46)

/-! ### Route tables (R399) -/

/-- An access of CN_ROUTE_CMD with GO. -/
def State.routeEntry (s : State) (who : Who) (die : Nat) (write : Bool) : State :=
  let b := D die
  let ni := s.rf b CN_ROUTE_LOC_NI
  let x := routeIx die ni (s.rf b CN_ROUTE_LOC_ENTRY)
  let hops := s.rf b CN_ROUTE_PATH_HOPS
  if ¬ s.pfRights who then (s.wf b CN_ROUTE_CMD_RESULT 2).deny
  else if ¬ initiatorNi die ni ∨ (write ∧ (hops = 0 ∨ 9 < hops)) then (s.wf b CN_ROUTE_CMD_RESULT 3).okay
  else
    let s := s.wf b CN_ROUTE_CMD_RESULT 0
    if write then
      ((((s.wr A.cnMatch x (s.reg (b + oCN_ROUTE_MATCH))).wr A.cnMask x (s.reg (b + oCN_ROUTE_MASK))).wr A.cnPath x
        (s.reg (b + oCN_ROUTE_PATH))).wr A.cnSet x 1).okay
    else
      (((s.wr A.reg (b + oCN_ROUTE_MATCH) (s.routeMatchReg x)).wr A.reg (b + oCN_ROUTE_MASK) (s.routeMaskReg x)).wr A.reg
        (b + oCN_ROUTE_PATH) (s.routePathReg x)).okay

def execRouteEntryRead (who : Who) (die : Fin 8) (s : State) : Res :=
  s.access who (.routeEntryRead who die) fun s => .next (s.routeEntry who die false)

/-- Log 109 DEDUCED. -/
def execRouteEntryWrite (who : Who) (die : Fin 8) (s : State) : Res :=
  s.access who (.routeEntryWrite who die) fun s => .next (s.routeEntry who die true)

/-! ### Requests (R391, R394 to R396) -/

/-- Index of a tag of an initiator NI. -/
def tagIx (die ni tag : Nat) : Nat := 32 * (64 * die + ni) + tag

def State.outstOf (s : State) (die ni tag : Nat) : Option Outst :=
  s.outst.find? fun o => o.die = die ∧ o.ni = ni ∧ o.tag = tag ∧ ¬ o.dead

def State.outstDrop (s : State) (o : Outst) : State := { s with outst := s.outst.erase o }

/-- Where a request's first reserved buffer lies: the target on the initiator's own die, else a bridge. -/
def bufferKey (chain die addr : Nat) : Nat :=
  if slice addr 40 12 ≠ chain then 43 else if targetDie addr = die then targetNi addr % 64 else 42

/-- The address of the part in hand of a request. -/
def Outst.at_ (o : Outst) : Nat := o.addr + o.done

/-- A free request buffer: two for each initiator NI. One that a request took is free again with its response. -/
def State.bufferFree (s : State) (die ni addr : Nat) : Bool :=
  ((s.outst.filter fun o => o.die = die ∧ o.ni = ni ∧ o.sent ∧
    bufferKey s.chainAddr die o.at_ = bufferKey s.chainAddr die addr)).length < 2

/-- The generation of a tag for its next use (R395). -/
def State.nextGen (s : State) (x : Nat) : State :=
  if s.on A.cnStale x then (s.wr A.cnGen x (s.rd A.cnGen x + 1)).wr A.cnStale x 0 else s

/-- IDKIND and PID of a stamp (R386). The PID of a virtual function without a partition is not stated. (log 148 DESIGN CHOICE) -/
def State.stampCode (s : State) : Stamp → (Nat × Nat) × State
  | .pf => ((0, 0), s)
  | .part pid => ((1, pid), s)
  | .boot => ((2, 0), s)
  | .nobody => let (p, s) := s.free 8; ((1, p), s)

/-- The identity that an NI writes into a request that its agent sends (R392). A memory-model engine and the recorder work
for several partitions, a bridge keeps the stamp of what it forwards, and the endpoint has 33 functions: of these the
command does not name the one, and it is free. (log 148 DESIGN CHOICE) -/
def State.niStamp (s : State) (die ni : Nat) : (Nat × Nat) × State :=
  if ni < 32 then s.stampCode (s.stamp (.core ⟨die % 8, by omega⟩ ⟨ni % 32, by omega⟩))
  else if ni ≤ 35 ∨ ni = 40 then (let (p, s) := s.free 8; ((1, p), s))
  else if ni = 42 ∨ ni = 43 ∨ ni = 45 then
    (let (k, s) := s.free 2
     if k = 1 then (let (p, s) := s.free 8; ((1, p), s)) else ((if k = 2 ∧ ni ≠ 45 then 2 else 0, 0), s))
  else ((if ni = 44 then 2 else 0, 0), s)

/-- SIZE of a header (R386). -/
def sizeCode (n : Nat) : Nat := if n = 4 then 0 else if n = 8 then 1 else if n = 32 then 2 else 3

/-- The two header words of the request for the part in hand (R386), word 0 in bits 0 to 63. -/
def Outst.header (o : Outst) (chain : Nat) : Nat :=
  bit o.write + 2 ^ 2 * sizeCode o.step + 2 ^ 4 * o.tag + 2 ^ 9 * o.gen + 2 ^ 11 * o.ni + 2 ^ 17 * o.die + 2 ^ 20 * chain +
    2 ^ 32 * o.idkind + 2 ^ 34 * o.pid + 2 ^ 64 * o.at_

/-- A request to another device is a packet for a link bridge (R389, R308). (log 165 DESIGN CHOICE) -/
def State.netPacket (s : State) (o : Outst) : State :=
  if slice o.addr 40 12 = s.chainAddr then s
  else { s with netOut := s.netOut ++
      [⟨o.header s.chainAddr, if o.write then slice o.data (8 * o.done) (8 * o.step) else 0⟩] }

/-- Bytes of a part: an access of a register is 4 bytes wide (R387). -/
def partBytes (size addr : Nat) : Nat :=
  if slice addr 39 1 = 0 ∧ slice addr 0 39 < 0x1000000000 then min 4 size else size

/-- Send a request, or its next part; without its buffers it waits, and its timer runs. -/
def State.outstSend (s : State) (o : Outst) : State :=
  let x := tagIx o.die o.ni o.tag
  let s := s.nextGen x
  let o : Outst := { o with gen := s.rd A.cnGen x, sent := s.bufferFree o.die o.ni o.at_ }
  let s : State := { s with outst := s.outst ++ [o] }
  if o.sent then s.netPacket o else s

/-- The status of a BAR2 request: of its parts that are not OK, that of the first (R387). -/
def farStatus (l : List (Nat × Nat)) : Nat :=
  (l.foldl (fun m x => if x.2 ≠ 0 ∧ (m.2 = 0 ∨ x.1 < m.1) then x else m) (0, 0)).2

/-- A part of a BAR2 request to another device is answered; with its last part the request completes (R462). (log 117 DEDUCED) -/
def State.farPart (s : State) (id bit status data : Nat) : State :=
  match s.farReqs.find? (·.id = id) with
  | none => s
  | some r =>
    let s := s.noteStatus r.func r.write 1 (r.off + bit / 8) status
    let r' : FarReq := { r with sts := r.sts ++ [(bit, status)], left := r.left - 1,
                                data := if r.write then r.data else r.data + 2 ^ bit * data }
    if r'.left = 0 then
      State.complete { s with farReqs := s.farReqs.erase r } r.func r.write (farStatus r'.sts) r'.data
    else { s with farReqs := s.farReqs.map fun x => if x = r then r' else x }

/-- A request that is not sent is answered at once. -/
def State.notSent (s : State) (far bit : Nat) : State := if far = 0 then s else s.farPart (far - 1) bit s.rsp.status 0

/-- A request that an NI sends with the identity `id` (R388, R391). `far`, `bit`: the BAR2 request that it is a part of, and
its place in it. (log 106 DEDUCED) -/
def State.cnSendAs (s : State) (die ni tag : Nat) (id : Nat × Nat) (write : Bool) (size addr data far bit : Nat) : State :=
  if ¬ initiatorNi die ni then s
  else match s.outstOf die ni tag with
    | some o =>
      if o.sent ∨ ¬ s.bufferFree die ni o.at_ then s
      else State.netPacket { s with outst := s.outst.map fun x => if x = o then { o with sent := true } else x } o
    | none =>
      match s.noRoute die ni addr with
      | some x => (s.answerNoRoute x addr).notSent far bit
      | none =>
        let (down, s) := s.linkDown addr
        if down then (s.cnErr die ni addr 6).notSent far bit
        else s.outstSend { die := die, ni := ni, tag := tag, gen := 0, addr := addr, write := write, size := size,
                           step := partBytes size addr, data := data, done := 0, st := 0, got := 0, far := far, lo := bit,
                           idkind := id.1, pid := id.2, sent := false, dead := false, elapsed := 0, paused := false,
                           pauseTicks := 0 }

/-- REQUEST_SEND. -/
def State.cnSend (s : State) (die ni tag : Nat) (write : Bool) (size addr data : Nat) : State :=
  if initiatorNi die ni ∧ (s.outstOf die ni tag).isNone then
    (let (id, s) := s.niStamp die ni
     s.cnSendAs die ni tag id write size addr data 0 0)
  else s.cnSendAs die ni tag (0, 0) write size addr data 0 0

def execRequestSend (die : Fin 8) (ni : Fin 64) (tag : Fin 32) (write : Bool) (size : AccSize) (addr : BitVec 52)
    (data : BitVec 512) (s : State) : Res := s.live fun s =>
  .next (s.cnSend die ni tag write (szBytes size) addr.toNat data.toNat)

/-- A response that names no outstanding request is discarded and counted; the target has performed the request, and its
buffer there is free. -/
def State.lateResp (s : State) (die ni tag gen : Nat) : State :=
  let s := match s.outst.find? fun o => o.die = die ∧ o.ni = ni ∧ o.tag = tag ∧ o.gen = gen ∧ o.dead with
    | some o => s.outstDrop o
    | none => s
  (s.cnt (D die) CN_ERR_LATE_RSP 1).releaseHeld

/-- Request `o`, which is no longer outstanding, is answered: its next part follows; the answer to the initiator comes with
the last, and the first that is not OK decides it (R387). MASK names the words that a collision discarded (R190). -/
def State.answered (s : State) (o : Outst) (status mask data : Nat) : State :=
  let st := if o.st = 0 then status else o.st
  let got := o.got + 2 ^ (8 * o.done) * data
  if o.done + o.step < o.size then
    s.outstSend { o with done := o.done + o.step, st := st, got := got, dead := false, elapsed := 0, paused := false,
                         pauseTicks := 0 }
  else if o.far ≠ 0 then s.farPart (o.far - 1) o.lo st got
  else { s with rsp := ⟨st, got, mask⟩ }

/-- CN_RESPONSE. -/
def State.cnResp (s : State) (die ni tag gen status mask data : Nat) : State :=
  match s.outstOf die ni tag with
  | some o =>
    if o.sent ∧ o.gen = gen then
      let s := (s.outstDrop o).releaseHeld
      if status = 6 then (s.cnErr die ni o.at_ 6).answered o 6 0 0 else s.answered o status mask data
    else s.lateResp die ni tag gen
  | none => s.lateResp die ni tag gen

def execCnResponse (die : Fin 8) (ni : Fin 64) (tag : Fin 32) (gen : BitVec 2) (status : BitVec 4)
    (body : RespBody) (s : State) : Res := s.live fun s =>
  .next (s.cnResp die ni tag gen.toNat status.toNat body.mask.toNat body.data.toNat)

/-- Limit of a request, in TCLK ticks. -/
def State.cnLimit (s : State) (die addr : Nat) : Nat :=
  if slice addr 40 12 = s.chainAddr then s.rf (D die) CN_TIMEOUT_LOCAL_10NS else 100 * s.rf (D die) CN_TIMEOUT_BRIDGED_US

/-- A request times out: its response buffer is free, and a request that was sent keeps its buffer at the target (R395). Of
one of several parts the next one follows. -/
def State.cnTimeout (s : State) (die ni tag : Nat) : State :=
  match s.outstOf die ni tag with
  | none => s
  | some o =>
    if o.paused ∨ o.elapsed < s.cnLimit die o.addr then s
    else
      let s := if o.sent then { s with outst := s.outst.map fun x => if x = o then { o with dead := true } else x }
        else s.outstDrop o
      ((((s.wr A.cnStale (tagIx die ni tag) 1).cnt (D die) CN_ERR_TIMEOUTS 1).releaseHeld).cnErr die ni o.at_ 4).answered o 4 0 0

/-- Log 2 DESIGN CHOICE. -/
def execRequestTimeout (die : Fin 8) (ni : Fin 64) (tag : Fin 32) (s : State) : Res := s.live fun s =>
  .next (s.cnTimeout die ni tag)

/-- Ticks of the one pause that a request meets, 40 µs (R396). -/
def pauseLimit : Nat := 4000

def State.setPause (s : State) (die ni tag : Nat) (p : Outst → Bool) (v : Bool) : State :=
  { s with outst := s.outst.map fun o =>
      if o.die = die ∧ o.ni = ni ∧ o.tag = tag ∧ ¬ o.dead ∧ p o then { o with paused := v } else o }

def execWakeNotice (die : Fin 8) (ni : Fin 64) (tag : Fin 32) (s : State) : Res := s.live fun s =>
  .next (s.setPause die ni tag (fun o => o.sent ∧ o.pauseTicks < pauseLimit) true)

def execWakePauseExpiry (die : Fin 8) (ni : Fin 64) (tag : Fin 32) (s : State) : Res := s.live fun s =>
  .next (s.setPause die ni tag (fun o => o.paused ∧ pauseLimit ≤ o.pauseTicks) false)

end Sys2Proof.Machine
end

