-- ==== Sys2Proof/Machine/BusRead.lean ====
section
/-! DEFINITION. Reads of registers (R9 to R11, R393, R464): what a register shows, who may read it, and what the read
changes. -/

namespace Sys2Proof.Machine

open Reg

/-! ### Places and pairs (R10, R11) -/

/-- A register, or a word of a die's capture window, lies at the place (R10). -/
def Place.assigned (p : Place) : Bool := p.flds ≠ [] ∨ (p.win = .die ∧ 0x400000 ≤ p.off)

/-- The bits of a register that lie in a field whose access type meets `q`. -/
def Place.mask (p : Place) (q : Acc → Bool) : Nat :=
  p.flds.foldl (fun m f => if q f.acc then m ||| (2 ^ f.w - 1) * 2 ^ f.lo else m) 0

/-- `v` without the bits of `m`. -/
def clearBits (v m : Nat) : Nat := v &&& (0xFFFFFFFF ^^^ m)

/-- The LO half of a 64-bit pair. -/
def Place.isLo (p : Place) : Bool :=
  p.win.loHalves.contains p.off || (p.win = .die && p.win.loHalves.contains (p.win.first p.off).1)

/-- The half after, and before, a half. -/
def Place.hiHalf (p : Place) : Place := { p with off := p.off + 4 }
def Place.loHalf (p : Place) : Place := { p with off := p.off - 4 }

/-- The HI half of a 64-bit pair. -/
def Place.isHi (p : Place) : Bool := decide (4 ≤ p.off) && p.loHalf.isLo

/-- The die of a place in a die window. -/
def Place.die (p : Place) : Nat :=
  match p.win with
  | .die => p.inst
  | .queue => p.inst / 128
  | .trig => p.inst / 4
  | .port => p.inst / 2
  | .lane => p.inst / 8
  | _ => 0

/-! ### What a register shows -/

/-- CFGTX of a shadow. -/
def State.cfgtxReg (s : State) (k : Nat) : Nat :=
  2 ^ 3 * s.rd A.shState k + 2 ^ 5 * (s.shWrites k).length + 2 ^ 14 * s.rd A.shOver k + 2 ^ 15 * s.rd A.shResult k

/-- HOLD_STATUS of a slot. -/
def State.holdStatus (s : State) (k : Nat) : Nat :=
  let here := s.causes.filter fun c => c.1 = k
  let mask := here.foldl (fun m c => m ||| 2 ^ c.2) 0
  let pulls := (s.pulls k).testBit 0
  let observed : Bool := s.on A.remoteHold k ∨ s.rd A.pState k = 3 ∨ (s.combined k 0).testBit 0
  bit (s.rd A.pState k = 3) + 2 * bit pulls + 2 ^ 2 * bit (¬ pulls ∧ observed) +
    2 ^ 3 * bit (s.rd A.pState k = 2 ∧ s.on A.pGate k) + 2 ^ 4 * s.oldestCause k + 2 ^ 8 * bit (s.rd A.pState k = 5) +
    2 ^ 16 * mask + 2 ^ 24 * s.rd A.pPid k

/-- A register of the partition control block of slot `k`. -/
def State.partShown (s : State) (k off v : Nat) : Nat :=
  if off = oPART_STATUS then s.rd A.pState k + 2 ^ 8 * s.rd A.pPid k + 2 ^ 16 * s.rd A.pDepth k
  else if off = oPART_CYCLE_LO then slice (s.rd A.pCycle k) 0 32
  else if off = oPART_CYCLE_HI then slice (s.rd A.pCycle k) 32 32
  else if off = oPART_IMAGE_ID_LO then slice (s.rd A.pImage k) 0 32
  else if off = oPART_IMAGE_ID_HI then slice (s.rd A.pImage k) 32 32
  else if off = oCFGTX then s.cfgtxReg k
  else if off = oESEQ_DATA_LO then slice (s.rd A.esStage (4096 * k + s.rf (P k) ESEQ_SEL_ENTRY)) 0 32
  else if off = oESEQ_DATA_HI then slice (s.rd A.esStage (4096 * k + s.rf (P k) ESEQ_SEL_ENTRY)) 32 32
  else if off = oHOLD_STATUS then s.holdStatus k
  else if off = oHOLD_ITEM_LOC then (s.holdItem k).1
  else if off = oHOLD_ITEM_IDX then (s.holdItem k).2
  else if off = oREC_STATUS then v + 2 ^ 6 * bit (s.dumping k (s.rd A.pCycle k))
  else v

/-- EVT_STATUS as an initiator sees it (R474): the bits of the sources that it may see. -/
def State.evtBits (s : State) (who : Who) (j : Nat) : Nat :=
  (List.range 32).foldl (fun m i => if s.seesEvent who (32 * j + i) then m + 2 ^ i else m) 0

/-- The owner of the selected event source, as EVT_INFO shows it. -/
def State.evtInfo (s : State) : Nat :=
  let src := s.rf 0 EVT_SEL_SOURCE
  if eventSources ≤ src then 0
  else if 0x5C0 ≤ src then s.rd A.evtSwOwn (src - 0x5C0)
  else match s.evtOwner src with
    | none => 0
    | some pid => pid + 2 ^ 8

/-- Number of a PCIe function; none for other initiators. -/
def pcieFunc : Who → Option Nat
  | .pf => some 0
  | .vf n => some (n + 1)
  | _ => none

/-- HOST_ID of a function: its number, and what its slot holds. -/
def State.hostId (s : State) (f : Nat) : Nat :=
  if f = 0 then 0
  else
    let k := f - 1
    f + 2 ^ 6 * (if s.loaded k then s.rd A.pPid k else 0) + 2 ^ 14 * bit (s.loaded k) + 2 ^ 15 * k

/-- A host function register (R464): each function's own copy; 0 for any other initiator. -/
def State.hostShown (s : State) (who : Who) (off : Nat) : Nat :=
  match pcieFunc who with
  | none => 0
  | some f =>
    if off = oHOST_ID then s.hostId f
    else if off = oHOST_BAR2_CFG then
      (if f = 0 then s.rd A.hostBar2 0 else patch (s.rd A.hostBar2 f) 14 8 (slice (s.hostId f) 6 8))
    else if off = oHOST_BAR2_DMBASE then s.rd A.hostDm f
    else if off = oHOST_ERR then s.rd A.hostErr f
    else if off = oHOST_ERR_ADDR_LO then slice (s.rd A.hostErrAddr f) 0 32
    else if off = oHOST_ERR_ADDR_HI then slice (s.rd A.hostErrAddr f) 32 32
    else 0

/-- A register of the device window. -/
def State.devShown (s : State) (who : Who) (off v : Nat) : Nat :=
  if off = oSEC_STATUS then s.secStatus
  else if off = oSVN_STATUS then s.svnStatus
  else if off = oDEV_CFGTX then s.cfgtxReg devShadow
  else if off = oTL_TIME_LO then slice (s.rd A.lnTime s.lnSlot) 0 32
  else if off = oTL_TIME_HI then slice (s.rd A.lnTime s.lnSlot) 32 32
  else if off = oTL_CFG then s.rd A.lnCfg s.lnSlot
  else if off = oTL_STATUS then s.rd A.lnState s.lnSlot + 2 ^ 2 * s.rd A.lnResult s.lnSlot
  else if off = oROUTE_DATA then
    let e := s.rf 0 ROUTE_SEL_ENTRY
    if e < 96 then s.rd A.route e + 2 ^ 16 * bit (s.routeWon e) + 2 ^ 17 * bit (s.routeConflict e) else 0
  else if off = oEVT_INFO then s.evtInfo
  else if off = oEVT_ROUTE_FLAG then (if s.rf 0 EVT_SEL_SOURCE < eventSources then s.rd A.evtFlag (s.rf 0 EVT_SEL_SOURCE) else 0)
  else if off = oEVT_ROUTE_VEC then (if s.rf 0 EVT_SEL_SOURCE < eventSources then s.rd A.evtVec (s.rf 0 EVT_SEL_SOURCE) else 0)
  else if oEVT_STATUS ≤ off ∧ off < oEVT_STATUS + 4 * 48 then v &&& s.evtBits who ((off - oEVT_STATUS) / 4)
  else v

/-- A register of a die window. -/
def State.dieShown (s : State) (d : Nat) (p : Place) (v : Nat) : Nat :=
  let (f, i) := p.win.first p.off
  let w := 16 * d + i
  let c := 32 * d + i
  let t := s.taskSel d
  if f = oPORTAL_STATUS then s.portalStatus w
  else if f = oPORTAL_OUT then s.portalOut w
  else if f = oPORTAL_STALE then s.rd A.staleCnt w + 2 ^ 16 * s.rd A.staleWhy w
  else if f = oPORTAL_CALLS then s.rd A.calls w
  else if f = oCORE_BIND then s.coreBindReg c
  else if f = oCORE_BUSY_LO then slice (s.rd A.coreBusyT c) 0 32
  else if f = oCORE_BUSY_HI then slice (s.rd A.coreBusyT c) 32 32
  else if f = oCORE_IDLE_LO then slice (s.rd A.coreIdleT c) 0 32
  else if f = oCORE_IDLE_HI then slice (s.rd A.coreIdleT c) 32 32
  else if f = oDISP_STATUS then s.dispStatus d
  else if f = oTASK_CFG then s.rd A.tCfg t
  else if f = oTASK_WAIT then s.rd A.tMask t
  else if f = oTASK_TIMEOUT then s.rd A.tTimeout t
  else if f = oTASK_ARG_LO then slice (s.rd A.tArg t) 0 32
  else if f = oTASK_ARG_HI then slice (s.rd A.tArg t) 32 32
  else if f = oTASK_STATE then s.taskStateReg t
  else if f = oTASK_HIST then s.rd A.tHist (8 * t + 2 * i) + 2 ^ 16 * s.rd A.tHist (8 * t + 2 * i + 1)
  else if f = oTASK_WAITMAX then s.rd A.tWaitMax t
  else if f = oTASK_FLAGS then s.rd A.tFlags t
  else v

/-- Positions of the port that the partition of a stepping slot owns: MORTAR. -/
def State.portCarries (s : State) (p : Nat) : Bool := (List.range 32).any fun k => s.stoppable k ∧ s.onPort p k

/-- A register of the block of port `p`. -/
def State.portShown (s : State) (p off v : Nat) : Nat :=
  if off = oPORT_STATUS then
    patch (patch v 25 1 (bit (s.treePorts.contains p))) 26 1 (bit (s.portCarries p))
  else v

/-- A register of the block of lane `x` = 4 port + lane; taps 12 to 15 read 0. -/
def State.laneShown (s : State) (x off v : Nat) : Nat :=
  if off = oLANE_DFE then
    let t := slice v 0 4
    patch v 8 8 (if t < 12 then s.rd A.lnTap (16 * x + t) else 0)
  else v

/-- A register of queue `q`. (log 48 DEDUCED) -/
def State.queueShown (s : State) (who : Who) (q off v : Nat) : Nat :=
  if off = oQUEUE_DEPTH then
    s.qDepth q + 2 ^ 20 * min 1023 (((s.qPackets q).filter fun p => ¬ p.closed).map (·.words.length)).sum
  else if off = oQUEUE_HWM then patch v 0 20 (max (slice v 0 20) (s.qDepth q))
  else if off = oQUEUE_ACC then s.rd A.qAcc (accIx who q)
  else v

/-- What the register at offset `off`, place `p`, shows to an initiator. -/
def State.shown (s : State) (who : Who) (p : Place) (off : Nat) : Nat :=
  let v := s.reg off &&& p.mask (· ≠ .wo)
  match p.win with
  | .part => s.partShown p.inst p.off v
  | .dev => if 0xE00 ≤ p.off ∧ p.off < 0xE18 then s.hostShown who p.off else s.devShown who p.off v
  | .die => s.dieShown p.inst p v
  | .queue => s.queueShown who p.inst p.off v
  | .trig => v
  | .port => s.portShown p.inst p.off v
  | .lane => s.laneShown p.inst p.off v

/-! ### The read -/

/-- Fields of type RC clear with the read (R9). A high-water mark begins again at the depth at hand. (log 48 DEDUCED) -/
def State.clearRc (s : State) (who : Who) (p : Place) (off : Nat) : State :=
  let m := p.mask (· = .rc)
  if p.win = .dev ∧ p.off = oHOST_ERR then
    (match pcieFunc who with
     | some f => s.wr A.hostErr f 0
     | none => s)
  else if p.win = .die ∧ (p.win.first p.off).1 = oPORTAL_STALE then s.wr A.staleCnt (16 * p.inst + (p.win.first p.off).2) 0
  else if m = 0 then s
  else s.wr A.reg off (clearBits (s.reg off) m)

/-- The latch of the HI half (R11): one for a pair, and for HOST_ERR_ADDR one for each function. -/
def Place.latch (p : Place) (who : Who) (off : Nat) : Arr × Nat :=
  if p.win = .dev ∧ p.off = oHOST_ERR_ADDR_LO then (A.hostErrLatch, whoFunc who) else (A.hiLatch, off)

/-- A read of a register that its reader may read (R9 to R11). -/
def State.readPlain (s : State) (who : Who) (p : Place) (off : Nat) : State :=
  if p.isLo then
    let (a, i) := p.latch who off
    let v := s.shown who p off
    (s.wr a i (2 ^ 32 + s.shown who p.hiHalf (off + 4))).ans 0 v
  else if p.isHi then
    let (a, i) := p.loHalf.latch who (off - 4)
    let h := s.rd a i
    if slice h 32 1 = 1 then (s.wr a i 0).ans 0 (slice h 0 32) else s.ans 0 (s.shown who p off)
  else
    let v := s.shown who p off
    (s.clearRc who p off).ans 0 v

/-! ### Who may read (R234, R245, R393, R455, R464, R474) -/

/-- The capture word of an offset lies in the area of a unit that the initiator's partition owns (R287). -/
def State.mayCapture (s : State) (who : Who) (d word : Nat) : Bool :=
  s.pfRights who ∨ (List.range 4).any fun j =>
    let u := 4 * d + j
    let b := s.rf (TU u) TRIG_CAP_CFG_BASE
    s.isOwner who (s.unitOwner u) ∧ b ≤ word / 512 ∧ word / 512 ≤ b + s.rf (TU u) TRIG_CAP_CFG_SIZE_M1

/-- Who may read a register of a die window. -/
def State.mayReadDie (s : State) (who : Who) (p : Place) : Bool :=
  let d := p.inst
  let (f, i) := p.win.first p.off
  if f = oPORTAL_STATUS ∨ f = oPORTAL_OUT ∨ f = oPORTAL_STALE ∨ f = oPORTAL_CALLS then s.mayWall who (16 * d + i)
  else if f = oCORE_BIND then
    let b := s.rd A.coreBind (32 * d + i)
    s.pfRights who ∨ (slice b 8 1 = 1 ∧ s.stamp who = .part (slice b 0 8))
  else if oCORE_BUSY_LO ≤ p.off ∧ p.off < oCORE_BUSY_LO + 512 then s.pfRights who
  else if f = oDISP_STATUS ∨ f = oDISP_XPART_DROP then s.pfRights who
  else if oTASK_CFG ≤ p.off ∧ p.off ≤ oTASK_FLAGS then s.mayTask who (s.taskSel d)
  else if f = oPROBE_WORD_CFG then s.pfRights who ∨ s.isOwner who (s.wordOwner (32 * d + i))
  else if 0x47000 ≤ p.off ∧ p.off < 0x47200 ∧ p.off ≠ oGP_IN then s.pfRights who
  else true

/-- Log 47 DEDUCED, 114 DEDUCED. -/
def State.mayRead (s : State) (who : Who) (p : Place) : Bool :=
  match p.win with
  | .part => s.maySlot who p.inst
  | .dev =>
    if (0xA00 ≤ p.off ∧ p.off < 0xA70) ∨ (0xD00 ≤ p.off ∧ p.off < 0xD70) then s.pfRights who else true
  | .die => s.mayReadDie who p
  | .queue => p.off = oQUEUE_ACC ∨ p.off = oQUEUE_DATA_LO ∨ s.mayQueue who p.inst
  | .trig => s.mayUnit who p.inst
  | _ => true

/-- Registers that read 0 for every initiator without the physical function's rights: chain, ports and lanes. -/
def Place.chainReg (p : Place) : Bool :=
  match p.win with
  | .dev => 0x900 ≤ p.off ∧ p.off < 0x918
  | .port => true
  | .lane => true
  | _ => false

/-- A 4-byte read of the register at offset `off` of the device (R387). (log 114 DEDUCED) -/
def State.readReg (s : State) (who : Who) (off : Nat) : State :=
  match placeOf off with
  | none => s.ans 0 0
  | some p =>
    if ¬ p.assigned then s.ans 0 0
    else if ¬ s.mayRead who p then s.deny
    else if p.chainReg ∧ ¬ s.pfRights who then s.ans 0 0
    else if p.win = .queue ∧ p.off = oQUEUE_DATA_LO then s.hostPop who p.inst
    else if p.win = .queue ∧ p.off = oQUEUE_DATA_HI then s.qReadHi who p.inst
    else if p.win = .die ∧ p.off = oPROBE_MAP_DATA then s.probeMapRead who p.inst
    else if p.win = .die ∧ p.off = oHBM_OWN_DATA then s.ownRead who p.inst
    else if p.win = .die ∧ 0x400000 ≤ p.off then
      let word := (p.off - 0x400000) / 8
      if s.mayCapture who p.inst word then
        s.ans 0 (slice (s.rd A.capt (524288 * p.inst + word)) (8 * (p.off % 8)) 32)
      else s.deny
    else if p.win = .dev ∧ p.off = oTAMPER_STATUS then s.tamperLive.readPlain who p off
    else if p.win = .lane ∧ (p.off = oLANE_RX ∨ p.off = oLANE_DFE) then
      (s.track (p.inst / 4) (p.inst % 4)).readPlain who p off
    else s.readPlain who p off

end Sys2Proof.Machine
end

