-- ==== Sys2Proof/Machine/BusWrite.lean ====
section
/-! DEFINITION. Writes of registers (R9 to R11, R362, R464): each goes to the operation that its command performs, or
sets the fields of the register. -/

namespace Sys2Proof.Machine

open Reg

/-! ### Fields (R9) -/

/-- One field of a write of `v`: `cur` is the register. -/
def Fld.put (f : Fld) (v cur : Nat) : Nat :=
  match f.acc with
  | .rw => patch cur f.lo f.w (slice v f.lo f.w)
  | .w1c => patch cur f.lo f.w (slice cur f.lo f.w &&& ((2 ^ f.w - 1) ^^^ slice v f.lo f.w))
  | .w1s => patch cur f.lo f.w (slice cur f.lo f.w ||| slice v f.lo f.w)
  | _ => cur

/-- Set the fields of type RW, W1C and W1S. -/
def State.putFields (s : State) (p : Place) (off v : Nat) : State :=
  s.wr A.reg off (p.flds.foldl (fun cur f => f.put v cur) (s.reg off))

/-- Set the fields of type WL: the first write of the register sets and locks them, a later one is a violation. (log 70 DEDUCED) -/
def State.putLocked (s : State) (p : Place) (off v : Nat) : State :=
  let m := p.mask (· = .wl)
  if m = 0 then s
  else if s.rd A.wlSet off ≠ 0 then s.violation off
  else (s.wr A.reg off (clearBits (s.reg off) m ||| (v &&& m))).wr A.wlSet off m

/-- A write of a register without an operation of its own. -/
def State.putReg (s : State) (p : Place) (off v : Nat) : State := (s.putFields p off v).putLocked p off v

/-! ### Pairs (R11) -/

/-- A written LO half is held. -/
def State.holdLo (s : State) (off v : Nat) : State := s.wr A.heldLo off (2 ^ 32 + v)

/-- The bits of a pair that are not reserved: LO, HI. -/
def Place.pairBits (p : Place) : Nat × Nat :=
  let f : Nat := 0xFFFFFFFF
  match p.win with
  | .dev => if p.off = oLOAD_BASE_LO then (0xFFFFFFC0, 0x7F) else (f, f)
  | .part =>
    if p.off = oREC_POS_LO then (f, 0xF)
    else if p.off = oREC_DUMP_FROM_LO ∨ p.off = oREC_DUMP_TO_LO then (f, 0xFFFF)
    else (f, f)
  | .trig => if p.off = oTRIG_ARM_CYC_LO then (f, 0x8000FFFF) else (f, f)
  | _ => (f, f)

/-- Software may write the register. -/
def Place.writable (p : Place) : Bool := p.mask (· = .rw) ≠ 0

/-- A write of a plain RW pair, at its LO or its HI half. -/
def State.putPair (s : State) (p : Place) (off v : Nat) : State :=
  if ¬ p.writable then s
  else if p.isLo then s.holdLo off v
  else
    let (lo, s) := s.takeLo (off - 4) (s.reg (off - 4))
    let (a, b) := p.loHalf.pairBits
    (s.wr A.reg (off - 4) (lo &&& a)).wr A.reg off (v &&& b)

/-- A write of a register or of a pair's half without an operation of its own. -/
def State.putAny (s : State) (p : Place) (off v : Nat) : State :=
  if p.isLo ∨ p.isHi then s.putPair p off v else s.putReg p off v

/-- A write that the physical function, the boot controller and unbound cores make; DENIED for others. -/
def State.pfWrite (s : State) (who : Who) (f : State → State) : State := if s.pfRights who then (f s).okay else s.deny

/-! ### The partition control block -/

/-- CMD of PART_CMD: 1 START, 2 STOP, 3 STOP_NOW. -/
def State.partCmd (s : State) (who : Who) (k v : Nat) : State :=
  match slice v 0 2 with
  | 1 => s.startCmd who k
  | 2 => s.stopCmd who k false
  | 3 => s.stopCmd who k true
  | _ => s.okay

/-- PART_RESET: a virtual function for its own slot; a bound core has no such write (R439). -/
def State.partResetWrite (s : State) (who : Who) (k v : Nat) : State :=
  let may : Bool := match who with
    | .vf _ => s.maySlot who k
    | _ => s.pfRights who
  if ¬ may then s.deny
  else (if slice v 0 1 = 1 ∧ s.loaded k then s.resetPart k else s).okay

/-- PLUMB_CFG: by the physical function, while the slot is IDLE (R146). -/
def State.plumbCfg (s : State) (who : Who) (p : Place) (off v : Nat) : State :=
  if ¬ s.pfRights who ∨ s.rd A.pState p.inst ≠ 1 then s.deny
  else ((s.putReg p off v).plumbSync (s.rd A.pPid p.inst)).okay

/-- CMD of REC_CTRL. -/
def State.recCtrl (s : State) (who : Who) (k v : Nat) : State :=
  match slice v 0 3 with
  | 1 => s.recCmd who k (s.recReady k) fun s => s.recAsk k 1
  | 2 => s.recCmd who k (s.recReady k) fun s => s.recAsk k 2
  | 3 => s.recCmd who k 0 fun s => s.recAsk k 3
  | 4 => s.recCmd who k 0 fun s => s.recOff k
  | 5 => s.recCmd who k (if 2 ≤ s.recState k then 0 else 4) fun s => s.wr A.recSnapReq k 4
  | 6 =>
    let r := s.restoreCheck k
    s.recCmd who k r.1 fun s => match r.2 with
      | some b => s.doRestore k (s.srcSlot k) b
      | none => s
  | _ => s.okay

/-- REC_CFG and REC_POST change only in OFF; PERIOD_LOG2 is 10 to 30. -/
def State.recCfg (s : State) (p : Place) (off v : Nat) : State :=
  let k := p.inst
  if s.recState k ≠ 0 then (s.recResult k 4).okay
  else
    let s := (s.recResult k 0).putReg p off v
    (if p.off = oREC_CFG then s.wf (P k) REC_CFG_PERIOD_LOG2 (max 10 (min 30 (slice v 1 5))) else s).okay

/-- REC_REPLAY: by the physical function, in OFF, while the slot is IDLE. -/
def State.recReplay (s : State) (who : Who) (p : Place) (off v : Nat) : State :=
  let k := p.inst
  if ¬ s.pfRights who then (s.recResult k 5).okay
  else if s.recState k ≠ 0 ∨ s.rd A.pState k ≠ 1 then (s.recResult k 4).okay
  else ((s.recResult k 0).putReg p off v).okay

def State.writePart (s : State) (who : Who) (p : Place) (off v : Nat) : State :=
  let k := p.inst
  let o := p.off
  if o = oPART_RESET then s.partResetWrite who k v
  else if ¬ s.maySlot who k then (if o = oCFGTX then s.txDeny k else if o = oPART_CMD then s.partCmd who k v else s.deny)
  else if o = oPART_CMD then s.partCmd who k v
  else if o = oCFGTX then s.cfgtxWrite who k v
  else if o = oESEQ_RELOAD ∨ o = oFAULT_CFG then s.rwtPart who k o v
  else if o = oESEQ_DATA_LO then (if s.rd A.shState k = 2 then s.shResult k 2 else s.holdLo off v).okay
  else if o = oESEQ_DATA_HI then s.stageWrite who k v
  else if o = oHOLD_CTRL then (s.swhold k v).okay
  else if o = oHOLD_LIMIT then (s.wf (P k) HOLD_LIMIT_LIMIT_US (clampLimit v)).okay
  else if o = oPLUMB_CFG then s.plumbCfg who p off v
  else if o = oMEM_PS_DONE then s.psWrite who k (slice v 0 31) (v.testBit 31)
  else if o = oREC_CTRL then s.recCtrl who k v
  else if o = oREC_CFG ∨ o = oREC_POST then s.recCfg p off v
  else if o = oREC_REGION then s.regionWrite who k v
  else if o = oREC_REPLAY then s.recReplay who p off v
  else if o = oREC_TAIL_HI then s.tailWrite who k v
  else (s.putAny p off v).okay

/-! ### The device window -/

/-- ENUM_CTRL: a TIMEOUT_MS of 0 stores 1. (log 115 DESIGN CHOICE) -/
def State.enumCtrl (s : State) (v : Nat) : State :=
  let s := s.wf 0 ENUM_CTRL_TIMEOUT_MS (max 1 (slice v 8 8))
  if v.testBit 0 then s.enumAsk else s

def State.writeChain (s : State) (p : Place) (off v : Nat) : State :=
  if p.off = oENUM_CTRL then s.enumCtrl v
  else if p.off = oLINK_POLL then s.wf 0 LINK_POLL_PRESENCE_POLL_MS (max 1 (slice v 0 16))
  else s.putAny p off v

/-- CMD of UPDATE_CTRL: 1 WRITE, 2 VERIFY, 3 ACTIVATE, 4 CONFIRM. -/
def State.updateCtrl (s : State) (who : Who) (v : Nat) : State :=
  let target := v.testBit 3
  let slot := v.testBit 4
  match slice v 0 3 with
  | 1 => s.updateCmd who target false fun s => s.updateWrite target slot
  | 2 => s.updateCmd who target false fun s => s.updateVerify target slot
  | 3 => s.updateCmd who target false fun s => s.activate target slot
  | 4 => s.updateCmd who target true fun s => s.confirm target
  | _ => s.pfWrite who id

/-- KEYRAM_CTRL. (log 115 DESIGN CHOICE) -/
def State.keyramCtrl (s : State) (v : Nat) : State :=
  let s := if v.testBit 0 then s.keyLoad else s
  if v.testBit 1 then s.wipeKeyRam else s

/-- KEYRAM_DATA: no write while the key RAM holds a key (R362). -/
def State.keyramData (s : State) (off v : Nat) : State :=
  if s.on A.keyRamOk 0 then s.violation off else s.wr A.reg off v

def State.writeBoot (s : State) (who : Who) (p : Place) (off v : Nat) : State :=
  let o := p.off
  if o = oUPDATE_CTRL then s.updateCtrl who v
  else if o = oLOAD_CTRL then (if v.testBit 0 then s.loadCtrl who else s.pfWrite who id)
  else if o = oRECOVERY_CTRL then (if v.testBit 0 then s.recoveryCtrl who else s.pfWrite who id)
  else if o = oLC_CTRL then s.bootOnly who fun s => if v.testBit 3 then s.lcGo (slice v 0 3) else s.lcIdle
  else if o = oTAMPER_CFG then s.bootOnly who fun s => s.putReg p off v
  else if o = oKEYRAM_CTRL then s.bootOnly who fun s => s.keyramCtrl v
  else if oKEYRAM_DATA ≤ o ∧ o < oKEYRAM_DATA + 32 then s.bootOnly who fun s => s.keyramData off v
  else s.pfWrite who fun s => s.putAny p off v

/-- A write of TL_TIME or TL_SEL: by the physical function, or a virtual function whose slot holds a partition (R384). -/
def State.mayLaunch (s : State) (who : Who) : Bool :=
  match who with
  | .vf n => s.loaded n
  | _ => s.pfRights who

def State.tlTime (s : State) (hi : Nat) : State :=
  let i := s.lnSlot
  let (lo, s) := s.takeLo oTL_TIME_LO (s.rd A.lnTime i % 2 ^ 32)
  s.wr A.lnTime i (lo + 2 ^ 32 * hi)

/-- Log 66 DEDUCED. -/
def State.writeTime (s : State) (who : Who) (p : Place) (off v : Nat) : State :=
  let o := p.off
  if o = oTL_SEL then (if s.mayLaunch who then (s.wr A.reg off (slice v 0 4)).okay else s.deny)
  else if o = oTL_TIME_LO then (if s.mayLaunch who ∧ s.lnMine who s.lnSlot then (s.holdLo off v).okay else s.deny)
  else if o = oTL_TIME_HI then (if s.mayLaunch who ∧ s.lnMine who s.lnSlot then (s.tlTime v).okay else s.deny)
  else if o = oTL_CFG then s.tlCfg who v
  else if ¬ s.pfRights who then s.deny
  else if o = oTIME_SET_LO then ((s.holdLo off v).wr A.lastLo off v).okay
  else if o = oTIME_SET_HI then
    (let (lo, s) := s.takeLo oTIME_SET_LO (s.rd A.lastLo oTIME_SET_LO)
     (s.setTime (lo + 2 ^ 32 * v)).okay)
  else if o = oTIME_INC_HI then (s.writeTimeInc v).okay
  else if o = oTIME_CTRL then (s.timeCtrl v).okay
  else if o = oMETER_CFG then (s.meterCfg v).okay
  else (s.putAny p off v).okay

/-- PL_CTRL: GO, then VOLT_DONE. (log 115 DESIGN CHOICE) -/
def State.plCtrl (s : State) (who : Who) (v : Nat) : State :=
  let t := if v.testBit 2 then s.plAsk who (slice v 0 2) else s.pfWrite who id
  if v.testBit 7 ∧ s.pfRights who then (let r := t.rsp; { t.voltAck with rsp := r }) else t

/-- PWR_CTRL: 1 PARK, 2 SLUMBER; 3, CANCEL, asks for nothing here, as execCancel says. -/
def State.pwrCtrl (s : State) (who : Who) (v : Nat) : State :=
  if ¬ s.pfRights who then (if slice v 0 2 = 1 ∨ slice v 0 2 = 2 then s.denySleep else s.deny)
  else
    (match slice v 0 2 with
     | 1 => s.sleepAsk false v
     | 2 => s.sleepAsk true v
     | _ => s.pwrFields v).okay

def State.writePower (s : State) (who : Who) (p : Place) (off v : Nat) : State :=
  let o := p.off
  if o = oPL_CTRL then s.plCtrl who v
  else if o = oPWR_CTRL then s.pwrCtrl who v
  else if o = oRESET_CTRL then (if v.testBit 0 then s.warmAsk who else s.pfWrite who id)
  else if o = oDOMAIN_CTRL then s.pfWrite who fun s => s.domWrite v
  else s.pfWrite who fun s => s.putAny p off v

/-- Smallest DIV of a peripheral: UART 0 and 1, I2C 0 to 3, SPI 0 to 3. -/
def divMin (x : Nat) : Nat := if x < 2 then 9 else if x < 6 then 99 else 1

def State.periphCfg (s : State) (p : Place) (off v : Nat) : State :=
  let x := (p.win.first p.off).2
  s.putFields p off (patch (if x < 6 then slice v 0 31 else v) 14 16 (max (divMin x) (slice v 14 16)))

def State.writePins (s : State) (p : Place) (off v : Nat) : State :=
  let o := p.off
  if o = oROUTE_DATA then s.routeData v
  else if o = oPERIPH_EN then s.periphEn v
  else if (p.win.first o).1 = oPERIPH_CFG then s.periphCfg p off v
  else s.putAny p off v

/-- A host function register: a function's own copy. A write of MODE 3 stores 0 (R463). -/
def State.writeHost (s : State) (who : Who) (o v : Nat) : State :=
  match pcieFunc who with
  | none => s
  | some f =>
    if o = oHOST_BAR2_CFG then
      s.wr A.hostBar2 f (if slice v 0 2 = 3 then patch v 0 2 0 else v)
    else if o = oHOST_BAR2_DMBASE then s.wr A.hostDm f v
    else s

def State.writeDev (s : State) (who : Who) (p : Place) (off v : Nat) : State :=
  let o := p.off
  if o = oDEBUG_CTRL then s.debugCtrl who v
  else if 0x900 ≤ o ∧ o < 0x918 then s.pfWrite who fun s => s.writeChain p off v
  else if 0xA00 ≤ o ∧ o < 0xA70 then s.writeBoot who p off v
  else if 0xB00 ≤ o ∧ o < 0xB64 then s.writeTime who p off v
  else if 0xC00 ≤ o ∧ o < 0xC34 then s.writePower who p off v
  else if 0xD00 ≤ o ∧ o < 0xD70 then s.pfWrite who fun s => s.writePins p off v
  else if 0xE00 ≤ o ∧ o < 0xE18 then (s.writeHost who o v).okay
  else if o = oDEV_CFGTX then s.cfgtxWrite who devShadow v
  else if o = oEVT_INFO then s.infoWrite who v
  else if o = oEVT_ROUTE_FLAG ∨ o = oEVT_ROUTE_VEC then s.routeWrite who o v
  else if o = oEVT_SW then s.evtSw who v
  else if oEVT_STATUS ≤ o ∧ o < oEVT_STATUS + 4 * 48 then
    (s.putFields p off (v &&& s.evtBits who ((o - oEVT_STATUS) / 4))).okay
  else (s.putAny p off v).okay

/-! ### The die windows -/

/-- DISP_FLAG_SET. -/
def State.flagWrite (s : State) (who : Who) (d v : Nat) : State :=
  let t := 512 * d + slice v 0 9
  s.taskGuard who t fun s => if v.testBit 14 then s.clearFlag t (slice v 9 5) else s.setFlag t (slice v 9 5)

/-- DISP_TASK_SEL; HCLR clears the histogram of the slot that the write selects. -/
def State.taskSelWrite (s : State) (who : Who) (d v : Nat) : State :=
  let t := 512 * d + slice v 0 9
  if v.testBit 9 then s.taskGuard who t fun s => (s.wf (D d) DISP_TASK_SEL_TASK v).histClear t
  else (s.wf (D d) DISP_TASK_SEL_TASK v).okay

/-- TASK_ARG. -/
def State.taskArg (s : State) (d hi : Nat) : State :=
  let t := s.taskSel d
  let (lo, s) := s.takeLo (D d + oTASK_ARG_LO) (s.rd A.tArg t % 2 ^ 32)
  s.taskPut t A.tArg A.tArgNow (lo + 2 ^ 32 * hi)

def State.writeTask (s : State) (who : Who) (d : Nat) (off o v : Nat) : State :=
  let t := s.taskSel d
  if o = oTASK_CFG then s.taskCfgWrite who d v
  else s.taskGuard who t fun s =>
    if o = oTASK_WAIT then s.taskSet t A.tMask A.tMaskNow v
    else if o = oTASK_TIMEOUT then s.taskSet t A.tTimeout A.tTimeoutNow (slice v 0 25)
    else if o = oTASK_ARG_LO then s.holdLo off v
    else if o = oTASK_ARG_HI then s.taskArg d v
    else s

/-- PROBE_WORD_CFG: while every unit that uses the word is IDLE or DONE (R291). -/
def State.wordCfg (s : State) (who : Who) (p : Place) (off v : Nat) : State :=
  let d := p.inst
  if ¬ s.pfRights who then s.deny
  else if ¬ s.wordFree d (p.win.first p.off).2 then (s.wf (D d) PROBE_MAP_SEL_RESULT 3).okay
  else ((s.wf (D d) PROBE_MAP_SEL_RESULT 0).putReg p off v).okay

/-- Registers of the general pins of bank `b`. -/
def State.writeBank (s : State) (p : Place) (off v : Nat) : State :=
  let b := p.inst
  let o := p.off
  if (p.win.first o).1 = oGP_CFG then s.putReg p off (if 6 ≤ slice v 3 3 then patch v 3 3 0 else v)
  else if o = oGP_OUT_SET then s.wf (D b) GP_OUT_VALUE (s.rf (D b) GP_OUT_VALUE ||| v)
  else if o = oGP_OUT_CLR then s.wf (D b) GP_OUT_VALUE (clearBits (s.rf (D b) GP_OUT_VALUE) v)
  else if o = oGP_OUT_TGL then s.wf (D b) GP_OUT_VALUE (s.rf (D b) GP_OUT_VALUE ^^^ v)
  else if o = oGP_BANK then
    (let s := s.putReg p off v
     if v.testBit 0 then s.releaseBank b else s)
  else s.putAny p off v

/-- HBM_CFG: RATE 3 stores 2; the violation of a locked write is by the written register. -/
def State.hbmCfg (s : State) (p : Place) (off v : Nat) : State :=
  s.putReg p off (if slice v 1 2 = 3 then patch v 1 2 2 else v)

/-- CN_TIMEOUT: a limit of 0 stores 1. -/
def State.cnTimeoutCfg (s : State) (d v : Nat) : State :=
  (s.wf (D d) CN_TIMEOUT_LOCAL_10NS (max 1 (slice v 0 16))).wf (D d) CN_TIMEOUT_BRIDGED_US (max 1 (slice v 16 16))

def State.newtCtrl (s : State) (p : Place) (off v : Nat) : State :=
  let s := s.putReg p off v
  if v.testBit 3 then s.newtUnpin p.inst else s

def State.writeDie (s : State) (who : Who) (p : Place) (off v : Nat) : State :=
  let d := p.inst
  let o := p.off
  let (f, i) := p.win.first o
  if o = oBED_ACC_CMD then
    (if v.testBit 0 then s.bedAccess who d (v.testBit 1) (v.testBit 2) (v.testBit 3) else s).okay
  else if o = oWU_ACC_CMD then (if v.testBit 0 then s.wuAccess who d (v.testBit 1) else s).okay
  else if o = oMORTAR_ACC_CMD then (if v.testBit 0 then s.mortarAccess who d (v.testBit 1) else s).okay
  else if o = oNEWT_CTRL then s.pfWrite who fun s => s.newtCtrl p off v
  else if o = oNEWT_REQ then s.newtRequest who d v
  else if o = oMEM_TC_INV_CMD then s.tcInvWrite who d v
  else if f = oMME_FENCE then s.fenceWrite who d i v
  else if f = oPORTAL_STATUS ∨ f = oPORTAL_OUT ∨ f = oPORTAL_STALE ∨ f = oPORTAL_CALLS then
    (if s.mayWall who (16 * d + i) then s.okay else s.deny)
  else if f = oCORE_BIND then s.coreBindWrite who (32 * d + i) v
  else if f = oCORE_BUSY_LO ∨ f = oCORE_BUSY_HI ∨ f = oCORE_IDLE_LO ∨ f = oCORE_IDLE_HI ∨ f = oDISP_STATUS ∨
      f = oDISP_XPART_DROP then s.pfWrite who id
  else if o = oPROBE_MAP_SEL then s.pfWrite who fun s => s.putReg p off v
  else if o = oDISP_FLAG_SET then s.flagWrite who d v
  else if o = oDISP_TASK_SEL then s.taskSelWrite who d v
  else if oTASK_CFG ≤ o ∧ o ≤ oTASK_FLAGS then s.writeTask who d off o v
  else if f = oPROBE_WORD_CFG then s.wordCfg who p off v
  else if o = oPROBE_MAP_DATA then s.probeMapWrite who d v
  else if o = oCN_ROUTE_CMD then (if v.testBit 0 then s.routeEntry who d (v.testBit 1) else s.pfWrite who id)
  else if o = oCN_TIMEOUT then s.pfWrite who fun s => s.cnTimeoutCfg d v
  else if 0x45000 ≤ o ∧ o < 0x45014 then s.pfWrite who fun s => s.putReg p off v
  else if o = oHBM_CFG then s.pfWrite who fun s => s.hbmCfg p off v
  else if o = oHBM_RETAIN then s.pfWrite who fun s => s.putReg p off v
  else if o = oHBM_OWN_DATA then s.ownWrite who d v
  else if f = oGP_TGT0 then s.gpTgtWrite who (32 * d + i) 0 v
  else if f = oGP_TGT1 then s.gpTgtWrite who (32 * d + i) 1 v
  else if 0x47000 ≤ o ∧ o < 0x47200 then s.pfWrite who fun s => s.writeBank p off v
  else (s.putAny p off v).okay

/-! ### Queues, trigger units, ports and lanes -/

def State.writeQueue (s : State) (who : Who) (p : Place) (off v : Nat) : State :=
  let q := p.inst
  let o := p.off
  if o = oQUEUE_CFG then s.qCfgWrite who q v
  else if o = oQUEUE_CTRL then s.qCtrlWrite who q v
  else if o = oQUEUE_LEVEL then (if s.mayCtrl who q then (s.putReg p off v).okay else s.deny)
  else if o = oQUEUE_ACC then (s.accBit who q 0 (slice v 0 1)).okay
  else if o = oQUEUE_DATA_LO then s.qHoldLo who q v
  else if o = oQUEUE_DATA_HI then s.hostPush who q v
  else s.okay

/-- TRIG_PRE and TRIG_POST hold 20 bits. -/
def trigBits (o v : Nat) : Nat := if o = oTRIG_PRE ∨ o = oTRIG_POST then slice v 0 20 else v

/-- A register of a trigger unit: in IDLE or DONE; OWNER and OWNED by the physical function (R283, R291). -/
def State.writeTrig (s : State) (who : Who) (p : Place) (off v : Nat) : State :=
  let u := p.inst
  if ¬ s.mayUnit who u then s.deny
  else if p.off = oTRIG_CTRL then (if slice v 0 2 = 0 then s.okay else s.trigCmd who u (slice v 0 2))
  else if p.off = oTRIG_CFG ∧ ¬ s.pfRights who ∧ slice v 0 9 ≠ slice (s.reg off) 0 9 then s.deny
  else if ¬ p.writable then s.okay
  else if ¬ s.unitIdle u then (s.trigResult u 5).okay
  else ((s.trigResult u 0).putAny p off (trigBits p.off v)).okay

/-- A lane that LANE_EN takes into the port: an ACTIVE one at another rate than the port's ACTIVE lanes is no lane of the
stream and waits in TRAIN (R293, log 164 DESIGN CHOICE); the blocks it sends fall into the port's superframes (R298). (log 164 DESIGN CHOICE) -/
def State.laneJoins (s : State) (p l : Nat) : State :=
  let s := s.orf (PT p) PORT_CFG_LANE_EN (2 ^ l)
  let s := if s.laneSt p l = lnActive ∧ ¬ s.rateFits p l then s.wf (LN p l) LANE_STATUS_STATE lnTrain else s
  if s.sendsBlocks p l then s.alignBlocks p l else s

/-- PORT_CFG: a MAX_RATE of 5 to 7 stores 4. Lanes that LANE_EN adds join the port in ascending order. -/
def State.portCfg (s : State) (p v : Nat) : State :=
  let had := s.rf (PT p) PORT_CFG_LANE_EN
  let s := (s.wf (PT p) PORT_CFG_MAX_RATE (min 4 (slice v 0 3))).wf (PT p) PORT_CFG_LANE_EN (had &&& slice v 3 4)
  (((List.range 4).filter fun l => v.testBit (3 + l) ∧ ¬ had.testBit l).foldl (fun s l => s.laneJoins p l) s).portSync p

/-- PORT_CMD: a rate request, then a power state request. (log 115 DESIGN CHOICE) -/
def State.portCmd (s : State) (p v : Nat) : State :=
  let s := if v.testBit 3 then s.rateAsk p (slice v 0 3) else s
  if v.testBit 6 then s.psAsk p (slice v 4 2) else s

def State.writePort (s : State) (p : Place) (off v : Nat) : State :=
  if p.off = oPORT_CFG then s.portCfg p.inst v
  else if p.off = oPORT_CMD then s.portCmd p.inst v
  else s.putAny p off v

/-- LANE_FIR: a sum above 64 is ignored, with FIR_ERR (R311). -/
def State.laneFir (s : State) (p : Place) (off v : Nat) : State :=
  let b := LN (p.inst / 4) (p.inst % 4)
  if 64 < slice v 0 6 + slice v 6 7 + slice v 13 6 then s.wf b LANE_STATUS_FIR_ERR 1
  else (s.putReg p off v).wf b LANE_STATUS_FIR_ERR 0

/-- LANE_RX: an adapting CTLE keeps its value (R312). -/
def State.laneRx (s : State) (p : Place) (off v : Nat) : State :=
  let s := s.track (p.inst / 4) (p.inst % 4)
  s.putReg p off (if v.testBit 5 then patch v 0 5 (slice (s.reg off) 0 5) else v)

def State.writeLane (s : State) (p : Place) (off v : Nat) : State :=
  let pt := p.inst / 4
  let l := p.inst % 4
  if p.off = oLANE_CTRL then s.laneCtrl pt l v
  else if p.off = oLANE_FIR then s.laneFir p off v
  else if p.off = oLANE_RX then s.laneRx p off v
  else if p.off = oLINK_BITSLIP then (if v.testBit 0 then s.bitslip pt l else s)
  else s.putAny p off v

/-! ### The write -/

/-- A 4-byte write of `v` to the register at offset `off` of the device (R387). -/
def State.writeReg (s : State) (who : Who) (off v : Nat) : State :=
  match placeOf off with
  | none => s.okay
  | some p =>
    if ¬ p.assigned then s.okay
    else match p.win with
    | .part => s.writePart who p off v
    | .dev => s.writeDev who p off v
    | .die => s.writeDie who p off v
    | .queue => s.writeQueue who p off v
    | .trig => s.writeTrig who p off v
    | .port => s.pfWrite who fun s => s.writePort p off v
    | .lane => s.pfWrite who fun s => s.writeLane p off v

end Sys2Proof.Machine
end

