-- ==== Sys2Proof/Machine/Bus.lean ====
section
/-! DEFINITION. Register accesses as commands (R9 to R11, R387, R392): the power domain that a register needs, the CSRs of
the transactor cores, and accesses of more than one register. -/

namespace Sys2Proof.Machine

open Reg

/-! ### What an access needs (R396, R424, R427) -/

/-- The power domain that a register lies in: trigger units, probe words and the capture window in FAB, ports and lanes in
LINK. -/
def domOfPlace (p : Place) : Option (Nat × Nat) :=
  match p.win with
  | .trig => some (p.die, domFab)
  | .port => some (p.die, domLink)
  | .lane => some (p.die, domLink)
  | .die => if (0x42C00 ≤ p.off ∧ p.off < 0x43000) ∨ 0x400000 ≤ p.off then some (p.die, domFab) else none
  | _ => none

/-- The domain of an access port's store, for a write of GO. -/
def State.domOfGo (s : State) (p : Place) : Option (Nat × Nat) :=
  if p.win ≠ .die then none
  else if p.off = oBED_ACC_CMD ∨ p.off = oWU_ACC_CMD then some (p.inst, domFab)
  else if p.off = oMORTAR_ACC_CMD then
    let t := s.rf (D p.inst) MORTAR_ACC_LOC_TABLE
    some (p.inst, mortarDom (if t = 7 then s.rf (D p.inst) MORTAR_ACC_LOC_TABLE_CFG else t))
  else none

def State.domOf (s : State) (off : Nat) (write : Option Nat) : Option (Nat × Nat) :=
  match placeOf off with
  | none => none
  | some p =>
    match domOfPlace p, write with
    | some d, _ => some d
    | none, some v => if v.testBit 0 then s.domOfGo p else none
    | none, none => none

/-- The wake source that a write is in an entry to PARK or SLUMBER: CANCEL, a start command, a partition reset (R432). (log 116 DEDUCED) -/
def wakeOfWrite (off v : Nat) : Nat :=
  match placeOf off with
  | some p =>
    if (p.win = .dev ∧ p.off = oPWR_CTRL ∧ slice v 0 2 = 3) ∨ (p.win = .part ∧ p.off = oPART_CMD ∧ slice v 0 2 = 1) ∨
        (p.win = .part ∧ p.off = oPART_RESET ∧ v.testBit 0) then 6 else 0
  | none => 0

/-- An access that needs domain `dom`. -/
def State.accessIn (s : State) (who : Who) (dom : Option (Nat × Nat)) (source : Nat) (c : Instr) (f : State → Res) : Res :=
  match dom with
  | none => s.accessAs who c source f
  | some (die, d) => s.accessDom who die d c f

/-! ### CSRs of the cores (R215 to R217)

A CSR has no offset in the register map. A command that names one carries offset 2^27 + 8 × number for its low half and 4
more for its high half, above every offset of BAR0. -/

/-- Log 42 DESIGN CHOICE. -/
def csrBase : Nat := 0x8000000

/-- Number of the CSR that an offset names, and whether it is the high half. (log 41 DESIGN CHOICE, 42 DESIGN CHOICE) -/
def csrOf (off : Nat) : Option (Nat × Bool) :=
  if csrBase ≤ off then some ((off - csrBase) / 8, decide (4 ≤ (off - csrBase) % 8)) else none

/-- A CSR as core `c` reads it. JNEXT, JQDATA, JQEND, JDONE and JRSP have commands of their own. -/
def State.csrShown (s : State) (c n : Nat) : Nat :=
  if n = 0x7C0 then s.rd A.jctl c
  else if n = 0x7C1 then s.rd A.jwait c
  else if n = 0x7C3 then s.rd A.jqsel c
  else if n = 0xFC0 then s.rd A.jnext c
  else if n = 0xFC1 then s.rd A.jarg c
  else if n = 0xFC2 then s.rd A.coreBind c + 2 ^ 12 * (c % 32) + 2 ^ 17 * (c / 32) + 2 ^ 20 * s.chainAddr
  else if n = 0xFC3 then s.rd A.jqstat c
  else if n = 0xFC4 then s.rd A.jrstat c
  else if n = 0xC01 then s.mono / 10      -- time: TCLK ticks from power-on reset (R212)
  else if n = 0x342 then s.rd A.coreCause c
  else 0

/-- The bits of JWAIT that are not reserved. -/
def jwaitBits : Nat := 0xFFFFFF03FFFFFFFF

def State.csrWrite (s : State) (c n : Nat) (hi : Bool) (v : Nat) : State :=
  let lo := if hi then 32 else 0
  if n = 0x7C0 then (if s.rd A.coreLow c ≠ 0 then s.coreIllegal c else if hi then s else s.wr A.jctl c v)
  else if n = 0x7C1 then s.wr A.jwait c (patch (s.rd A.jwait c) lo 32 v &&& jwaitBits)
  else if n = 0x7C3 then (if hi then s else s.wr A.jqsel c v)
  else if 0xFC0 ≤ n ∧ n ≤ 0xFC4 then s.coreIllegal c
  else s

/-- A read of a CSR. Of mip, MEIP and SEIP read 0 (R212), and the other bits are open; JCTL is machine-only (R215). -/
def State.csrRead (s : State) (c n : Nat) (hi : Bool) : State :=
  if n = 0x7C0 ∧ s.rd A.coreLow c ≠ 0 then s.coreIllegal c
  else if n = 0x344 then
    let (v, s) := s.free 64
    s.ans 0 (slice (patch (patch v 11 1 0) 9 1 0) (if hi then 32 else 0) 32)
  else s.ans 0 (slice (s.csrShown c n) (if hi then 32 else 0) 32)

/-- An access of a CSR: only a core has one. (log 41 DESIGN CHOICE) -/
def State.csrAccess (s : State) (who : Who) (f : State → Nat → State) : Res :=
  match who with
  | .core d k => s.live fun s => .next (s.coreDoes (coreIx d k) fun s => f s (coreIx d k))
  | _ => .next s

/-! ### One register -/

/-- A read of the register at `off`. (log 42 DESIGN CHOICE) -/
def State.busRead (s : State) (who : Who) (off : Nat) (c : Instr) : Res :=
  match csrOf off with
  | some (n, hi) => s.csrAccess who fun s k => s.csrRead k n hi
  | none => s.accessIn who (s.domOf off none) 0 c fun s => .next (s.readReg who off)

/-- A write of the register at `off`. (log 42 DESIGN CHOICE) -/
def State.busWrite (s : State) (who : Who) (off v : Nat) (c : Instr) : Res :=
  match csrOf off with
  | some (n, hi) => s.csrAccess who fun s k => s.csrWrite k n hi v
  | none => s.accessIn who (s.domOf off (some v)) (wakeOfWrite off v) c fun s => .next (s.writeReg who off v)

/-- REGISTER_WRITE (R9, R10). -/
def execRegisterWrite (who : Who) (off : Nat) (val : Word) (s : State) : Res := s.busWrite who off val.toNat (.registerWrite who off val)

/-- RC_READ: a read of a register with fields of type RC, or of any other register (R9). -/
def execRcRead (who : Who) (off : Nat) (s : State) : Res := s.busRead who off (.rcRead who off)

/-- LOHI_LO_READ (R11). -/
def execLohiLoRead (who : Who) (off : Nat) (s : State) : Res := s.busRead who off (.lohiLoRead who off)

/-- LOHI_LO_WRITE (R11). -/
def execLohiLoWrite (who : Who) (off : Nat) (val : Word) (s : State) : Res := s.busWrite who off val.toNat (.lohiLoWrite who off val)

/-- LOHI_HI_WRITE (R11). -/
def execLohiHiWrite (who : Who) (off : Nat) (val : Word) (s : State) : Res := s.busWrite who off val.toNat (.lohiHiWrite who off val)

/-! ### Consecutive registers (R387) -/

/-- `n` 4-byte accesses from offset `off` on, in ascending order: `st` and `data` are what the earlier ones gave. Each has
its own response, the first that is not OK decides the result, and later ones are still performed. -/
def State.regParts (s : State) (who : Who) (write : Bool) (off v st data k : Nat) : Nat → State
  | 0 => s.ans st data
  | n + 1 =>
    let t := if write then s.writeReg who off (slice v (32 * k) 32) else s.readReg who off
    t.regParts who write (off + 4) v (if st = 0 then t.rsp.status else st)
      (if write then data else data + 2 ^ (32 * k) * slice t.rsp.data 0 32) (k + 1) n

/-- An access of `n` bytes, a multiple of 4, in register space. -/
def State.regAccess (s : State) (who : Who) (write : Bool) (off n v : Nat) : State := s.regParts who write off v 0 0 0 (n / 4)

/-! ### SPACE 0 and SPACE 1 (R385 to R387) -/

/-- The bay window of SPACE 0: die and offset in it. -/
def bayWindow (off : Nat) : Option (Nat × Nat) :=
  if 0x1000000000 ≤ off ∧ off < 0x1000000000 + 8 * 0x1000000 then
    some ((off - 0x1000000000) / 0x1000000, off % 0x1000000)
  else none

/-- A bay's service access: 1 MiB of the window for each wall (R187). (log 136 DESIGN CHOICE) -/
def State.bayAccess (s : State) (who : Who) (write : Bool) (die o : Nat) (size : AccSize) (v : Nat) : State :=
  let w := 16 * die + o / 0x100000
  if write then s.bayServiceWrite who w (o % 0x100000) size v else s.bayServiceRead who w (o % 0x100000) size

/-- The first domain that is off among those that the words need. -/
def State.domOfWords (s : State) (write : Bool) (off v n : Nat) : Option (Nat × Nat) :=
  (List.range n).findSome? fun i =>
    match s.domOf (off + 4 * i) (if write then some (slice v (32 * i) 32) else none) with
    | some (die, d) => if s.domOn die d then none else some (die, d)
    | none => none

/-- The wake source of the first word of a write that is one (R432). -/
def wakeOfWords (off v n : Nat) : Nat :=
  ((List.range n).map fun i => wakeOfWrite (off + 4 * i) (slice v (32 * i) 32)).foldl max 0

/-- The domain that a request of `n` bytes needs. -/
def State.domOfReq (s : State) (write space : Bool) (off v n : Nat) : Option (Nat × Nat) :=
  if space then (if off < hbmBytes then some (hbmDie off, domMem) else none)
  else match bayWindow off with
    | some (die, _) => some (die, domMem)
    | none => s.domOfWords write (off / n * n) v (n / 4)

/-- A request of an initiator, performed: SPACE 1 is HBM, SPACE 0 the bay and register windows. -/
def State.request (s : State) (who : Who) (write space : Bool) (off : Nat) (size : AccSize) (v : Nat) : State :=
  let n := szBytes size
  if space then (s.hbmReq who write off n (v % 2 ^ (8 * n))).answer write
  else match bayWindow off with
    | some (die, o) => s.bayAccess who write die o size (v % 2 ^ (8 * n))
    | none => s.regAccess who write (off / n * n) n v

/-- CN_REQUEST: a request of an initiator at a target of this device. -/
def execCnRequest (who : Who) (write : Bool) (space : Bool) (off : BitVec 39) (size : AccSize) (data : BitVec 512)
    (s : State) : Res :=
  let o := off.toNat
  let v := data.toNat
  let n := szBytes size
  s.accessIn who (s.domOfReq write space o v n) (if write ∧ ¬ space then wakeOfWords (o / n * n) v (n / 4) else 0)
    (.cnRequest who write space off size data) fun s => .next (s.request who write space o size v)

end Sys2Proof.Machine
end

