-- ==== Sys2Proof/Machine/Clock.lean ====
section
/-! DEFINITION. Ticks of TCLK and of the RC oscillator (R144, R153, R233, R364 to R366, R395, R473). -/

namespace Sys2Proof.Machine

open Reg

/-- Add 1 to a 64-bit counter in two registers. -/
def State.pairInc (s : State) (off : Nat) : State := s.setPair off ((s.pair off + 1) % 2 ^ 64)

/-- Hold and gate counters, their timers and the hold meter of slot `k` (R144, R153, R376, R379). -/
def State.holdTick (s : State) (k : Nat) : State :=
  if s.rd A.pState k = 3 then
    ((s.wr A.holdTimer k (s.rd A.holdTimer k + 1)).pairInc (P k + oHOLD_TIME_LO)).meter k oMETER_HOLD_NS_LO 10
  else if s.gateWaiting k then (s.wr A.gateTimer k (s.rd A.gateTimer k + 1)).pairInc (P k + oGATE_WAIT_LO)
  else s

/-- Busy and idle time of core `c` (R233). -/
def State.coreTick (s : State) (c : Nat) : State :=
  if s.rd A.coreTask c ≠ 0 then s.wr A.coreBusyT c (s.rd A.coreBusyT c + 1)
  else if s.on A.coreIdle c then s.wr A.coreIdleT c (s.rd A.coreIdleT c + 1)
  else s

/-- Timers of the initiator NIs (R395, R396). -/
def outstTick (o : Outst) : Outst :=
  if ¬ o.paused then { o with elapsed := o.elapsed + 1 }
  else { o with pauseTicks := o.pauseTicks + 1 }

def heldTick (h : HeldReq) : HeldReq :=
  if h.wakes ∧ h.pause < pauseLimit then { h with pause := h.pause + 1 } else { h with elapsed := h.elapsed + 1 }

/-- A BAR2 access to another device, which waits for its tags and has not been sent. -/
def State.unsent (s : State) (h : HeldReq) : Bool :=
  match h.cmd with
  | .bar2Access f _ _ _ _ => s.bar2Device f ≠ s.chainAddr
  | _ => false

/-- The timer of a request that waits has expired (R395). That of another device's initiator runs there. -/
def State.heldDue (s : State) (h : HeldReq) : Bool :=
  let die := (whoNi h.who).1
  ¬ h.dead ∧ (whoNi h.who).2 ≠ 43 ∧
    (if s.unsent h then 100 * s.rf (D die) CN_TIMEOUT_BRIDGED_US else s.rf (D die) CN_TIMEOUT_LOCAL_10NS) ≤ h.elapsed

/-- Its NI answers with TIMEOUT; the target performs the request still, when its wait ends. -/
def State.heldExpired (s : State) (h : HeldReq) : State :=
  let (die, ni) := whoNi h.who
  let s := (s.cnt (D die) CN_ERR_TIMEOUTS 1).cnErr die ni (2 ^ 40 * s.chainAddr + (h.cmd.place).getD 0) 4
  match h.cmd with
  | .bar0Access f w off _ _ _ => (s.noteStatus f w 0 off.toNat 4).complete f w 4 0
  | .bar2Access f w off _ _ => (s.noteStatus f w 1 off.toNat 4).complete f w 4 0
  | _ => s

/-- A tick of the timers of requests that wait. -/
def State.heldTicks (s : State) : State :=
  let held := s.held.map heldTick
  (held.filter s.heldDue).foldl State.heldExpired
    { s with held := (held.filter fun h => ¬ (s.heldDue h ∧ s.unsent h)).map fun h => { h with dead := h.dead || s.heldDue h } }

/-- What the dies do in a TCLK tick. -/
def State.dieTick (s : State) : State :=
  let s := (s.each 32 State.holdTick).each 256 State.coreTick
  let s := s.heldTicks.each 8 State.retrainTick
  { s.gpTick with outst := s.outst.map outstTick }

/-- TCLK_TICK: 10 ns by REFCLK. -/
def State.tclk (s : State) : State :=
  if s.on A.refGone 0 then s
  else
    let s := ((if s.clocked then s.flushVectors else s).advanceTime s.timeInc).advanceMono (10 * 2 ^ 32)
    if s.clocked then s.dieTick else s

def execTclkTick (s : State) : Res := s.aon fun s => .next s.tclk

/-- A period of the RC oscillator, 30,517.578125 ns, in units of 2^-32 ns. -/
def rcPeriod : Nat := 30517 * 2 ^ 32 + 2483027968

def execRcOscillatorTick (s : State) : Res := s.aon fun s =>
  .next (if s.on A.refGone 0 then
    (((s.advanceTime rcPeriod).advanceMono rcPeriod).wf 0 TIME_STATUS_HOLDOVER 1).wf 0 TIME_STATUS_RC 1
  else s)

/-- REFCLK is back; the dies stay without it until a reset (R417). -/
def execRefclkReturn (s : State) : Res := s.aon fun s => .next ((s.wr A.refGone 0 0).wf 0 TIME_STATUS_RC 0)

end Sys2Proof.Machine
end

