-- ==== Sys2Proof/Machine/Host.lean ====
section
/-! DEFINITION. The PCIe endpoint (chapter 20, R456 to R463): BAR0, BAR2 and the endpoint's resets. -/

namespace Sys2Proof.Machine

open Reg

/-- The initiator that a PCIe function is (R392, R457). -/
def whoOf (func : Fin 33) : Who := if h : 1 ≤ func.val then .vf ⟨func.val - 1, by omega⟩ else .pf

/-! ### BAR0 -/

/-- Vectors of a function: 1,024 of the physical function, 32 of a virtual one (R473). -/
def vectorsOf (f : Nat) : Nat := if f = 0 then 1024 else 32

/-- A word of a function's MSI-X table: message address, data, vector control. -/
def State.msixRead (s : State) (f o : Nat) : Nat :=
  let v := o / 16
  if vectorsOf f ≤ v then 0
  else match o / 4 % 4 with
    | 3 => 1 - s.rd A.vecOpen (vecIx f v)
    | j => slice (s.rd A.vecMsg (vecIx f v)) (32 * j) 32

/-- A write of it; a vector that is unmasked sends a message that is pending (R473). -/
def State.msixWrite (s : State) (f o x : Nat) : State :=
  let v := o / 16
  if vectorsOf f ≤ v then s
  else match o / 4 % 4 with
    | 3 => if x.testBit 0 then s.wr A.vecOpen (vecIx f v) 0 else s.vecUnmask f v
    | j => s.wr A.vecMsg (vecIx f v) (patch (s.rd A.vecMsg (vecIx f v)) (32 * j) 32 x)

/-- A word of the pending-bit array. -/
def State.pbaRead (s : State) (f o : Nat) : Nat :=
  (List.range 32).foldl (fun m i =>
    let v := 32 * (o / 4) + i
    if v < vectorsOf f ∧ s.on A.vecPend (vecIx f v) then m + 2 ^ i else m) 0

/-- The endpoint's NI finds a route for an own-device address, or answers NO_ROUTE (R388). -/
def State.hostRouted (s : State) (a : Nat) (f : State → State) : State :=
  let addr := 2 ^ 40 * s.chainAddr + a
  match s.noRoute 0 45 addr with
  | some x => s.answerNoRoute x addr
  | none => f s

/-- One 4-byte word of BAR0 (R460). -/
def State.bar0Word (s : State) (f : Fin 33) (write : Bool) (off v : Nat) : State :=
  if 0x4800000 ≤ off ∧ off < 0x4808000 then
    (if write then (s.msixWrite f (off - 0x4800000) v).okay else s.ans 0 (s.msixRead f (off - 0x4800000)))
  else if 0x4808000 ≤ off ∧ off < 0x4810000 then
    (if write then s.okay else s.ans 0 (s.pbaRead f (off - 0x4808000)))
  else s.hostRouted off fun s => if write then s.writeReg (whoOf f) off v else s.readReg (whoOf f) off

/-- `n` words from offset `off` on, as R387 gives. -/
def State.bar0Words (s : State) (f : Fin 33) (write : Bool) (off v st data k : Nat) : Nat → State
  | 0 => s.ans st data
  | n + 1 =>
    let t := s.bar0Word f write off (slice v (32 * k) 32)
    t.bar0Words f write (off + 4) v (if st = 0 then t.rsp.status else st)
      (if write then data else data + 2 ^ (32 * k) * slice t.rsp.data 0 32) (k + 1) n

/-- A request with partial byte enables. (log 118 DEDUCED) -/
def State.partialBE (s : State) (f : Nat) (write : Bool) (off : Nat) : State :=
  let s := s.hostError f write 0 off urStatus
  if write then s else { s.ans urStatus 0 with out := s.out ++ [.completion f urStatus 0] }

/-- What BAR0_ACCESS does at the endpoint. A request covers at most the 16 words of its operand. (log 122 DEDUCED) -/
def State.bar0 (s : State) (f : Fin 33) (write : Bool) (off n v : Nat) : State :=
  let t := s.bar0Words f write off v 0 0 0 n
  let st := t.rsp.status
  let d := t.rsp.data
  (t.noteStatus f write 0 off st).complete f write st d

/-- The endpoint does not serve a function: its link is down, or, in RECOVERY, the function is a virtual one (R352). -/
def State.endpointOff (s : State) (f : Nat) : Bool :=
  s.on A.pcieDown 0 ∨ (s.rf 0 BOOT_STATUS_STAGE = stageRecovery ∧ f ≠ 0)

/-- BAR0_ACCESS (R461, R462). (log 119 DESIGN CHOICE) -/
def execBar0Access (func : Fin 33) (write : Bool) (off : BitVec 27) (dwords : Nat) (data : BitVec 512) (partialBE : Bool)
    (s : State) : Res :=
  let o := off.toNat / 4 * 4
  let v := data.toNat
  let n := min dwords 16
  let c : Instr := .bar0Access func write off dwords data partialBE
  if s.endpointOff func then .next s
  else if partialBE ∨ off.toNat % 4 ≠ 0 then s.access (whoOf func) c fun s => .next (s.partialBE func write off.toNat)
  else s.accessIn (whoOf func) (s.domOfWords write o v n) (if write then wakeOfWords o v n else 0) c fun s =>
    .next (s.bar0 func write o n v)

/-! ### BAR2 (R352, R463) -/

/-- The largest aligned access of 4, 8, 32 or 64 bytes that `n` bytes from `off` on begin with, of at most `lim` bytes. -/
def pieceSize (lim off n : Nat) : AccSize :=
  let fits (b : Nat) : Bool := b ≤ lim ∧ b ≤ n ∧ off % b = 0
  if fits 64 then .b64 else if fits 32 then .b32 else if fits 8 then .b8 else .b4

/-- The partition whose design memory MODE 2 reaches: a virtual function's own. (log 120 DEDUCED) -/
def State.bar2Pid (s : State) (f : Nat) : Option Nat :=
  if f = 0 then some (slice (s.rd A.hostBar2 0) 14 8)
  else if s.loaded (f - 1) then some (s.rd A.pPid (f - 1)) else none

/-- A design-memory access of MODE 2: engine 0 of die 0 translates; no page-service message is sent. (log 120 DEDUCED) -/
def State.designAccess (s : State) (f : Nat) (write : Bool) (o n v : Nat) : State :=
  let a := s.rd A.hostDm f * 2 ^ 39 + o
  match s.bar2Pid f with
  | none => s.deny
  | some pid =>
    match s.slotOfPid pid with
    | none => s.deny
    | some k =>
      match s.translate 0 k pid a write with
      | (.frame e, s) =>
        let (sub, d, s) := s.frameAccess 0 pid e a n v write
        s.ans (match sub with | 0 => 0 | 5 => 3 | _ => 1) (if write ∨ sub = 1 then 0 else d)
      | (.bad 4, s) => s.ans 3 0
      | (_, s) => s.deny

/-- Tags of the endpoint's NI, 45 of die 0, that are free. -/
def State.freeTags (s : State) : Nat := ((List.range 32).filter fun t => (s.outstOf 0 45 t).isNone).length

/-- SPACE and OFFSET of a request to another device: of one for its design memory they are not stated. (log 170 DESIGN CHOICE) -/
def State.remoteAddr (s : State) (mode o : Nat) : Nat × State :=
  match mode with
  | 0 => (2 ^ 39 + o, s)
  | 1 => (o, s)
  | _ => s.free 40

/-- A part of a request to another device, sent by the endpoint's NI with the function's identity: its answer comes with
CN_RESPONSE. (log 106 DEDUCED) -/
def State.bar2Remote (s : State) (f : Fin 33) (write : Bool) (o n v id bit : Nat) : State :=
  let (a, s) := s.remoteAddr (s.bar2Mode f) o
  let addr := s.bar2Device f * 2 ^ 40 + a
  match firstIx 32 fun t => (s.outstOf 0 45 t).isNone with
  | none => s
  | some tag =>
    let (who, s) := s.stampCode (s.stamp (whoOf f))
    s.cnSendAs 0 45 tag who write n addr v (1 + id) bit

/-- The accesses that BAR2 splits `n` bytes from `o` on into (R463): offset and size of each. -/
def farPieces (lim o n : Nat) : Nat → List (Nat × Nat)
  | 0 => []
  | fuel + 1 =>
    if n < 4 then []
    else
      let b := szBytes (pieceSize lim o n)
      (o, b) :: farPieces lim (o + b) (n - b) fuel

/-- A BAR2 request to another device. It completes with the answer to its last part. -/
def State.bar2Far (s : State) (f : Fin 33) (write : Bool) (base v o n : Nat) : State :=
  let ps := farPieces (if s.bar2Mode f = 1 then 32 else 64) o n 16
  let id := (s.farReqs.map (·.id + 1)).foldl max 0
  if ps = [] then s.complete f write 0 0
  else ps.foldl (fun s p =>
      let bit := 8 * (p.1 - base)
      s.bar2Remote f write p.1 p.2 (slice v bit (8 * p.2)) id bit)
    { s with farReqs := s.farReqs ++ [⟨id, f, write, base, [], 0, ps.length⟩] }

/-- One access that BAR2 is split into. -/
def State.bar2Piece (s : State) (f : Fin 33) (write : Bool) (o : Nat) (size : AccSize) (v : Nat) : State :=
  let m := s.bar2Mode f
  let n := szBytes size
  match m with
    | 0 => s.hostRouted (2 ^ 39 + o) fun s => s.request (whoOf f) write true o size v
    | 1 => s.hostRouted o fun s => (s.ans 0 0).request (whoOf f) write false o size v
    | _ => s.designAccess f write o n v

/-- The pieces of a request, in ascending order: each counts its own status, and the first that is not OK is the
request's. (log 117 DEDUCED) -/
def State.bar2Pieces (s : State) (f : Fin 33) (write : Bool) (base v st data : Nat) (o n : Nat) : Nat → State
  | 0 => s.ans st data
  | fuel + 1 =>
    if n < 4 then s.ans st data
    else
      let size := pieceSize (if s.bar2Mode f = 1 then 32 else 64) o n
      let b := szBytes size
      let at_ := 8 * (o - base)
      let t := s.bar2Piece f write o size (slice v at_ (8 * b))
      let r := t.rsp
      (t.noteStatus f write 1 o r.status).bar2Pieces f write base v (if st = 0 then r.status else st)
        (if write then data else data + 2 ^ at_ * (r.data % 2 ^ (8 * b))) (o + b) (n - b) fuel

/-- The staging area of RECOVERY: 4 MiB at offset 0; beyond it nothing (R352). -/
def State.stagedBytes (s : State) (o : Nat) : Nat → Nat
  | 0 => 0
  | n + 1 => (if o < 0x400000 then s.rd A.stageByte o else 0) + 256 * s.stagedBytes (o + 1) n

def State.stageWriteBytes (s : State) (o v : Nat) : Nat → State
  | 0 => s
  | n + 1 => (if o < 0x400000 then s.wr A.stageByte o (v % 256) else s).stageWriteBytes (o + 1) (v / 256) n

/-- BAR2 in RECOVERY: the physical function alone is up. (log 123 DEDUCED) -/
def State.bar2Stage (s : State) (write : Bool) (o n v : Nat) : State :=
  if write then (s.stageWriteBytes o v n).okay
  else s.complete 0 false 0 (s.stagedBytes o n)

/-- What BAR2_ACCESS does at the endpoint, on the whole 4-byte words that the request contains. A request to another
device completes later. (log 122 DEDUCED) -/
def State.bar2 (s : State) (f : Fin 33) (write : Bool) (off n v : Nat) : State :=
  if s.rf 0 BOOT_STATUS_STAGE = stageRecovery then s.bar2Stage write off n v
  else
    let o := (off + 3) / 4 * 4
    let e := (off + n) / 4 * 4
    if s.bar2Device f ≠ s.chainAddr then s.bar2Far f write off v o (e - o)
    else
      let t := s.bar2Pieces f write off v 0 0 o (e - o) 16
      t.complete f write t.rsp.status t.rsp.data

/-- The domain that the request needs first. -/
def State.domOfBar2 (s : State) (f : Nat) (write : Bool) (o v n : Nat) : Option (Nat × Nat) :=
  if s.bar2Device f ≠ s.chainAddr ∨ s.rf 0 BOOT_STATUS_STAGE = stageRecovery then none
  else match s.bar2Mode f with
    | 0 => s.domOfReq write true o v n
    | 1 => if (bayWindow o).isSome then s.domOfReq write false o v n else s.domOfWords write o v (n / 4)
    | _ => none

/-- A request to another device waits while the endpoint's NI has fewer free tags than it needs (R391). -/
def State.bar2Waits (s : State) (f off n : Nat) : Bool :=
  s.bar2Device f ≠ s.chainAddr ∧ s.rf 0 BOOT_STATUS_STAGE ≠ stageRecovery ∧
    s.freeTags < (off + n) / 4 - (off + 3) / 4

/-- BAR2_ACCESS (R462, R463): at most the 64 bytes of its operand. (log 119 DESIGN CHOICE) -/
def execBar2Access (func : Fin 33) (write : Bool) (off : BitVec 39) (bytes : Nat) (data : BitVec 512) (s : State) : Res :=
  let o := off.toNat
  let v := data.toNat
  let n := min bytes 64
  if s.endpointOff func then .next s
  else s.accessIn (whoOf func) (s.domOfBar2 func write o v n)
      (if write ∧ s.bar2Mode func = 1 then wakeOfWords o v (n / 4) else 0) (.bar2Access func write off bytes data)
      fun s => .next (if s.bar2Waits func o n then s.hold (whoOf func) (.bar2Access func write off bytes data) false
        else s.bar2 func write o n v)

/-! ### Resets of the endpoint (R433, R459) -/

/-- PERST#: resets the endpoint, whose link trains when it is released; in SLUMBER a wake. (log 121 DEDUCED, 156 DEDUCED) -/
def State.perst (s : State) : State :=
  if s.rd A.pwMode 0 = 2 then (if s.rf 0 WAKE_CFG_PCIE_EN = 1 then s.wake 4 0 else s)
  else s.endpointReset.wr A.pcieDown 0 0

def execPerst (s : State) : Res := s.aon fun s => .next s.perst

/-- FUNCTION_LEVEL_RESET. -/
def execFunctionLevelReset (func : Fin 33) (s : State) : Res := s.aon fun s =>
  .next (if s.on A.pcieDown 0 then s else s.funcReset func)

end Sys2Proof.Machine
end

