-- ==== Sys2Proof/Machine/Dispatch.lean ====
section
/-! DEFINITION. The meaning of each command: one arm per constructor of `Instr`. -/

namespace Sys2Proof.Machine

def exec (i : Instr) (s : State) : Host.Outcome State Fault Refusal :=
  match i with
  | .registerWrite who off val => Sys2Proof.Machine.execRegisterWrite who off val s
  | .rcRead who off => Sys2Proof.Machine.execRcRead who off s
  | .lohiLoRead who off => Sys2Proof.Machine.execLohiLoRead who off s
  | .lohiLoWrite who off val => Sys2Proof.Machine.execLohiLoWrite who off val s
  | .lohiHiWrite who off val => Sys2Proof.Machine.execLohiHiWrite who off val s
  | .bayDutStep w => Sys2Proof.Machine.execBayDutStep w s
  | .bayrdDelivery u => Sys2Proof.Machine.execBayrdDelivery u s
  | .bayServiceRead who w off size => Sys2Proof.Machine.execBayServiceRead who w off size s
  | .bayServiceWrite who w off size data => Sys2Proof.Machine.execBayServiceWrite who w off size data s
  | .endOfCycleCommit slot => Sys2Proof.Machine.execEndOfCycleCommit slot s
  | .cycleBegin slot others => Sys2Proof.Machine.execCycleBegin slot others s
  | .gateRound slot others => Sys2Proof.Machine.execGateRound slot others s
  | .start who slot => Sys2Proof.Machine.execStart who slot s
  | .stop who slot => Sys2Proof.Machine.execStop who slot s
  | .stopNow who slot => Sys2Proof.Machine.execStopNow who slot s
  | .partReset who slot => Sys2Proof.Machine.execPartReset who slot s
  | .swholdWrite who slot val => Sys2Proof.Machine.execSwholdWrite who slot val s
  | .holdObserved slot others => Sys2Proof.Machine.execHoldObserved slot others s
  | .holdRelease slot others => Sys2Proof.Machine.execHoldRelease slot others s
  | .holdTimeout slot => Sys2Proof.Machine.execHoldTimeout slot s
  | .gateTimeout slot => Sys2Proof.Machine.execGateTimeout slot s
  | .plumbUp port pid st => Sys2Proof.Machine.execPlumbUp port pid st s
  | .plumbDown port pid st => Sys2Proof.Machine.execPlumbDown port pid st s
  | .rollCallLoss slot pos => Sys2Proof.Machine.execRollCallLoss slot pos s
  | .sever port pid lost reason detector => Sys2Proof.Machine.execSever port pid lost reason detector s
  | .stopNotice port pid code imm dev cyc => Sys2Proof.Machine.execStopNotice port pid code imm dev cyc s
  | .debugCtrlWrite who val => Sys2Proof.Machine.execDebugCtrlWrite who val s
  | .partitionSection sec => Sys2Proof.Machine.execPartitionSection sec s
  | .bedAccRead who die => Sys2Proof.Machine.execBedAccRead who die s
  | .bedAccWrite who die setPres clrPres => Sys2Proof.Machine.execBedAccWrite who die setPres clrPres s
  | .bedAccDone die => Sys2Proof.Machine.execBedAccDone die s
  | .wuAccRead who die => Sys2Proof.Machine.execWuAccRead who die s
  | .wuAccWrite who die => Sys2Proof.Machine.execWuAccWrite who die s
  | .wuAccDone die => Sys2Proof.Machine.execWuAccDone die s
  | .mortarAccRead who die => Sys2Proof.Machine.execMortarAccRead who die s
  | .mortarAccWrite who die => Sys2Proof.Machine.execMortarAccWrite who die s
  | .laneCfgWrite who die => Sys2Proof.Machine.execLaneCfgWrite who die s
  | .mortarAccDone die => Sys2Proof.Machine.execMortarAccDone die s
  | .laneSend b lane => Sys2Proof.Machine.execLaneSend b lane s
  | .laneRelay b lane => Sys2Proof.Machine.execLaneRelay b lane s
  | .switchEntry sw out step => Sys2Proof.Machine.execSwitchEntry sw out step s
  | .moduleEntry die module pos step => Sys2Proof.Machine.execModuleEntry die module pos step s
  | .moduleTransferReceive die module step crcOk => Sys2Proof.Machine.execModuleTransferReceive die module step crcOk s
  | .linkSendEntry port slot step => Sys2Proof.Machine.execLinkSendEntry port slot step s
  | .mortarFrame port hdr payload => Sys2Proof.Machine.execMortarFrame port hdr payload s
  | .landingWrite b lane step => Sys2Proof.Machine.execLandingWrite b lane step s
  | .mmeWalk die engine req => Sys2Proof.Machine.execMmeWalk die engine req s
  | .mmePageEntryFree die engine => Sys2Proof.Machine.execMmePageEntryFree die engine s
  | .pageServiceMessageWritten die engine => Sys2Proof.Machine.execPageServiceMessageWritten die engine s
  | .memPsDone who slot page => Sys2Proof.Machine.execMemPsDone who slot page s
  | .memPsFail who slot page => Sys2Proof.Machine.execMemPsFail who slot page s
  | .mmeDelivery die engine req => Sys2Proof.Machine.execMmeDelivery die engine req s
  | .memTcInv who die val => Sys2Proof.Machine.execMemTcInv who die val s
  | .memTcInvDone die => Sys2Proof.Machine.execMemTcInvDone die s
  | .mmeFence who die engine val => Sys2Proof.Machine.execMmeFence who die engine val s
  | .mmeFenceDone die engine => Sys2Proof.Machine.execMmeFenceDone die engine s
  | .newtRegionStart die => Sys2Proof.Machine.execNewtRegionStart die s
  | .newtSaveEnd die => Sys2Proof.Machine.execNewtSaveEnd die s
  | .newtMarchEnd die fails => Sys2Proof.Machine.execNewtMarchEnd die fails s
  | .newtFillEnd die => Sys2Proof.Machine.execNewtFillEnd die s
  | .newtRestoreEnd die => Sys2Proof.Machine.execNewtRestoreEnd die s
  | .newtReq who die val => Sys2Proof.Machine.execNewtReq who die val s
  | .unpin who die => Sys2Proof.Machine.execUnpin who die s
  | .jnext die core => Sys2Proof.Machine.execJnext die core s
  | .jdone die core val => Sys2Proof.Machine.execJdone die core val s
  | .jqdataPop die core => Sys2Proof.Machine.execJqdataPop die core s
  | .jqdataPush die core val => Sys2Proof.Machine.execJqdataPush die core val s
  | .jqend die core val => Sys2Proof.Machine.execJqend die core val s
  | .jrsp die core val => Sys2Proof.Machine.execJrsp die core val s
  | .portalMessageWritten u => Sys2Proof.Machine.execPortalMessageWritten u s
  | .portalResponse die core => Sys2Proof.Machine.execPortalResponse die core s
  | .taskTimeout die task => Sys2Proof.Machine.execTaskTimeout die task s
  | .dispatch die => Sys2Proof.Machine.execDispatch die s
  | .dispFlagSet who die task flag => Sys2Proof.Machine.execDispFlagSet who die task flag s
  | .dispFlagClear who die task flag => Sys2Proof.Machine.execDispFlagClear who die task flag s
  | .taskCfgWrite who die val => Sys2Proof.Machine.execTaskCfgWrite who die val s
  | .taskHistClear who die => Sys2Proof.Machine.execTaskHistClear who die s
  | .coreBindWrite who die core val => Sys2Proof.Machine.execCoreBindWrite who die core val s
  | .coreReset who die core => Sys2Proof.Machine.execCoreReset who die core s
  | .queueCfgWrite who die q val => Sys2Proof.Machine.execQueueCfgWrite who die q val s
  | .queueEnable who die q => Sys2Proof.Machine.execQueueEnable who die q s
  | .queueDisable who die q => Sys2Proof.Machine.execQueueDisable who die q s
  | .flush who die q => Sys2Proof.Machine.execFlush who die q s
  | .queueReset who die q => Sys2Proof.Machine.execQueueReset who die q s
  | .queuePop who die q => Sys2Proof.Machine.execQueuePop who die q s
  | .queuePush who die q hi => Sys2Proof.Machine.execQueuePush who die q hi s
  | .packetReadable die q => Sys2Proof.Machine.execPacketReadable die q s
  | .recArm who slot => Sys2Proof.Machine.execRecArm who slot s
  | .recStart who slot => Sys2Proof.Machine.execRecStart who slot s
  | .recStop who slot => Sys2Proof.Machine.execRecStop who slot s
  | .recOff who slot => Sys2Proof.Machine.execRecOff who slot s
  | .recSnap who slot => Sys2Proof.Machine.execRecSnap who slot s
  | .restore who slot => Sys2Proof.Machine.execRestore who slot s
  | .recRegionWrite who slot val => Sys2Proof.Machine.execRecRegionWrite who slot val s
  | .recTailWrite who slot hi => Sys2Proof.Machine.execRecTailWrite who slot hi s
  | .snapEnd slot => Sys2Proof.Machine.execSnapEnd slot s
  | .recorderBufferDrained die packets => Sys2Proof.Machine.execRecorderBufferDrained die packets s
  | .feedPacket slot => Sys2Proof.Machine.execFeedPacket slot s
  | .dumpRowCopy slot w step => Sys2Proof.Machine.execDumpRowCopy slot w step s
  | .trigArm who die unit => Sys2Proof.Machine.execTrigArm who die unit s
  | .trigDisarm who die unit => Sys2Proof.Machine.execTrigDisarm who die unit s
  | .trigForce who die unit => Sys2Proof.Machine.execTrigForce who die unit s
  | .triggerInputEdge input => Sys2Proof.Machine.execTriggerInputEdge input s
  | .probeMapWrite who die val => Sys2Proof.Machine.execProbeMapWrite who die val s
  | .probeMapRead who die => Sys2Proof.Machine.execProbeMapRead who die s
  | .skinkBlock port lane bits replay => Sys2Proof.Machine.execSkinkBlock port lane bits replay s
  | .symbolSilenceTimeout port => Sys2Proof.Machine.execSymbolSilenceTimeout port s
  | .nak port block => Sys2Proof.Machine.execNak port block s
  | .heartbeatInterval port => Sys2Proof.Machine.execHeartbeatInterval port s
  | .heartbeat port => Sys2Proof.Machine.execHeartbeat port s
  | .laneTrain who port lane val => Sys2Proof.Machine.execLaneTrain who port lane val s
  | .trainingTimeout port lane => Sys2Proof.Machine.execTrainingTimeout port lane s
  | .linkBitslip who port lane => Sys2Proof.Machine.execLinkBitslip who port lane s
  | .headerLock port lane => Sys2Proof.Machine.execHeaderLock port lane s
  | .blockLock port lane => Sys2Proof.Machine.execBlockLock port lane s
  | .caps port lane content => Sys2Proof.Machine.execCaps port lane content s
  | .presencePoll port lane signal => Sys2Proof.Machine.execPresencePoll port lane signal s
  | .rateReqSend who port val => Sys2Proof.Machine.execRateReqSend who port val s
  | .rateReq port rate => Sys2Proof.Machine.execRateReq port rate s
  | .rateAck port rate refused => Sys2Proof.Machine.execRateAck port rate refused s
  | .rateSwitch port => Sys2Proof.Machine.execRateSwitch port s
  | .pstateRequest who port val => Sys2Proof.Machine.execPstateRequest who port val s
  | .pstate port st => Sys2Proof.Machine.execPstate port st s
  | .portWake port => Sys2Proof.Machine.execPortWake port s
  | .dormantRelockTimeout port => Sys2Proof.Machine.execDormantRelockTimeout port s
  | .enumStart who => Sys2Proof.Machine.execEnumStart who s
  | .search epoch next => Sys2Proof.Machine.execSearch epoch next s
  | .count epoch n overflow => Sys2Proof.Machine.execCount epoch n overflow s
  | .commit epoch n => Sys2Proof.Machine.execCommit epoch n s
  | .commitAck epoch => Sys2Proof.Machine.execCommitAck epoch s
  | .abort epoch reason => Sys2Proof.Machine.execAbort epoch reason s
  | .enumCountTimeout => Sys2Proof.Machine.execEnumCountTimeout s
  | .neighbor port addr peer => Sys2Proof.Machine.execNeighbor port addr peer s
  | .tree port epoch hop sender => Sys2Proof.Machine.execTree port epoch hop sender s
  | .treeWindowClose => Sys2Proof.Machine.execTreeWindowClose s
  | .treeAck port epoch child => Sys2Proof.Machine.execTreeAck port epoch child s
  | .treePhaseEnd => Sys2Proof.Machine.execTreePhaseEnd s
  | .busToken port epoch passed => Sys2Proof.Machine.execBusToken port epoch passed s
  | .busListenEnd sync present => Sys2Proof.Machine.execBusListenEnd sync present s
  | .powerOnReset => Sys2Proof.Machine.execPowerOnReset s
  | .resetN => Sys2Proof.Machine.execResetN s
  | .warmReset who => Sys2Proof.Machine.execWarmReset who s
  | .imageStream hdr => Sys2Proof.Machine.execImageStream hdr s
  | .endMark => Sys2Proof.Machine.execEndMark s
  | .doneRise => Sys2Proof.Machine.execDoneRise s
  | .doneFall => Sys2Proof.Machine.execDoneFall s
  | .loadGo who => Sys2Proof.Machine.execLoadGo who s
  | .recoveryGo who => Sys2Proof.Machine.execRecoveryGo who s
  | .updateWrite who target slot => Sys2Proof.Machine.execUpdateWrite who target slot s
  | .updateVerify who target slot => Sys2Proof.Machine.execUpdateVerify who target slot s
  | .activate who target slot => Sys2Proof.Machine.execActivate who target slot s
  | .confirm who target => Sys2Proof.Machine.execConfirm who target s
  | .lcTransition who target => Sys2Proof.Machine.execLcTransition who target s
  | .tamperDetect source => Sys2Proof.Machine.execTamperDetect source s
  | .keyramLoad who => Sys2Proof.Machine.execKeyramLoad who s
  | .keyramWipe who => Sys2Proof.Machine.execKeyramWipe who s
  | .vbatLoss => Sys2Proof.Machine.execVbatLoss s
  | .timeSet who hi => Sys2Proof.Machine.execTimeSet who hi s
  | .timeIncWrite who hi => Sys2Proof.Machine.execTimeIncWrite who hi s
  | .ppsEdge => Sys2Proof.Machine.execPpsEdge s
  | .ppsHoldoverTimeout => Sys2Proof.Machine.execPpsHoldoverTimeout s
  | .timeMsgTimeout => Sys2Proof.Machine.execTimeMsgTimeout s
  | .synced who => Sys2Proof.Machine.execSynced who s
  | .timeSecond => Sys2Proof.Machine.execTimeSecond s
  | .time port hops sec => Sys2Proof.Machine.execTime port hops sec s
  | .check port t => Sys2Proof.Machine.execCheck port t s
  | .launchArm who val => Sys2Proof.Machine.execLaunchArm who val s
  | .launchDisarm who => Sys2Proof.Machine.execLaunchDisarm who s
  | .launchFire slot => Sys2Proof.Machine.execLaunchFire slot s
  | .fired port pid tag membersM1 cyc => Sys2Proof.Machine.execFired port pid tag membersM1 cyc s
  | .go port pid tag cyc => Sys2Proof.Machine.execGo port pid tag cyc s
  | .epochClose => Sys2Proof.Machine.execEpochClose s
  | .meterExport who => Sys2Proof.Machine.execMeterExport who s
  | .requestSend die ni tag write size addr data => Sys2Proof.Machine.execRequestSend die ni tag write size addr data s
  | .cnRequest who write space off size data => Sys2Proof.Machine.execCnRequest who write space off size data s
  | .cnResponse die ni tag gen status body => Sys2Proof.Machine.execCnResponse die ni tag gen status body s
  | .requestTimeout die ni tag => Sys2Proof.Machine.execRequestTimeout die ni tag s
  | .wakeNotice die ni tag => Sys2Proof.Machine.execWakeNotice die ni tag s
  | .wakePauseExpiry die ni tag => Sys2Proof.Machine.execWakePauseExpiry die ni tag s
  | .snoopInvalidation die line => Sys2Proof.Machine.execSnoopInvalidation die line s
  | .routeEntryRead who die => Sys2Proof.Machine.execRouteEntryRead who die s
  | .routeEntryWrite who die => Sys2Proof.Machine.execRouteEntryWrite who die s
  | .hbmRequest who write addr size data hint => Sys2Proof.Machine.execHbmRequest who write addr size data hint s
  | .patrolScrub die => Sys2Proof.Machine.execPatrolScrub die s
  | .bankRefresh die pc bank tempC => Sys2Proof.Machine.execBankRefresh die pc bank tempC s
  | .pseudoChannelRetrain die pc => Sys2Proof.Machine.execPseudoChannelRetrain die pc s
  | .hbmTraining die => Sys2Proof.Machine.execHbmTraining die s
  | .hbmTrainingDone die repairs unrepairable => Sys2Proof.Machine.execHbmTrainingDone die repairs unrepairable s
  | .ownershipEntryWrite who die val => Sys2Proof.Machine.execOwnershipEntryWrite who die val s
  | .ownershipEntryRead who die => Sys2Proof.Machine.execOwnershipEntryRead who die s
  | .plChangeRequest who target => Sys2Proof.Machine.execPlChangeRequest who target s
  | .plChangeFrozen => Sys2Proof.Machine.execPlChangeFrozen s
  | .voltDone who => Sys2Proof.Machine.execVoltDone who s
  | .voltageTimeout => Sys2Proof.Machine.execVoltageTimeout s
  | .pllRelock => Sys2Proof.Machine.execPllRelock s
  | .refclkLost => Sys2Proof.Machine.execRefclkLost s
  | .domainCtrlWrite who val => Sys2Proof.Machine.execDomainCtrlWrite who val s
  | .domainPowerUp die dom => Sys2Proof.Machine.execDomainPowerUp die dom s
  | .park who val => Sys2Proof.Machine.execPark who val s
  | .slumber who val => Sys2Proof.Machine.execSlumber who val s
  | .cancel who => Sys2Proof.Machine.execCancel who s
  | .drainEnd => Sys2Proof.Machine.execDrainEnd s
  | .drainTimeout => Sys2Proof.Machine.execDrainTimeout s
  | .entryPhaseEnd => Sys2Proof.Machine.execEntryPhaseEnd s
  | .wakePin pin => Sys2Proof.Machine.execWakePin pin s
  | .wakeLink port => Sys2Proof.Machine.execWakeLink port s
  | .wakeTimer => Sys2Proof.Machine.execWakeTimer s
  | .wakePcie => Sys2Proof.Machine.execWakePcie s
  | .wakeNet => Sys2Proof.Machine.execWakeNet s
  | .designRestoreDone => Sys2Proof.Machine.execDesignRestoreDone s
  | .off => Sys2Proof.Machine.execOff s
  | .routeDataWrite who val => Sys2Proof.Machine.execRouteDataWrite who val s
  | .periphEnWrite who val => Sys2Proof.Machine.execPeriphEnWrite who val s
  | .uartTransmit u => Sys2Proof.Machine.execUartTransmit u s
  | .uartReceive u byte framing brk => Sys2Proof.Machine.execUartReceive u byte framing brk s
  | .i2cCommand k byteIn nack arbLost => Sys2Proof.Machine.execI2cCommand k byteIn nack arbLost s
  | .smbusTimeout k => Sys2Proof.Machine.execSmbusTimeout k s
  | .spiTransfer k miso => Sys2Proof.Machine.execSpiTransfer k miso s
  | .gpTgtWrite who pin second val => Sys2Proof.Machine.execGpTgtWrite who pin second val s
  | .gpOutSet who bank val => Sys2Proof.Machine.execGpOutSet who bank val s
  | .gpOutClr who bank val => Sys2Proof.Machine.execGpOutClr who bank val s
  | .gpOutTgl who bank val => Sys2Proof.Machine.execGpOutTgl who bank val s
  | .gpInterrupt pin level => Sys2Proof.Machine.execGpInterrupt pin level s
  | .release who bank => Sys2Proof.Machine.execRelease who bank s
  | .bar0Access func write off dwords data partialBE => Sys2Proof.Machine.execBar0Access func write off dwords data partialBE s
  | .bar2Access func write off bytes data => Sys2Proof.Machine.execBar2Access func write off bytes data s
  | .perst => Sys2Proof.Machine.execPerst s
  | .functionLevelReset func => Sys2Proof.Machine.execFunctionLevelReset func s
  | .cfgtxBegin who device slot => Sys2Proof.Machine.execCfgtxBegin who device slot s
  | .cfgtxCommit who device slot => Sys2Proof.Machine.execCfgtxCommit who device slot s
  | .cfgtxAbort who device slot => Sys2Proof.Machine.execCfgtxAbort who device slot s
  | .rwtWrite who off val => Sys2Proof.Machine.execRwtWrite who off val s
  | .eseqStagingWrite who slot hi => Sys2Proof.Machine.execEseqStagingWrite who slot hi s
  | .evtSw who val => Sys2Proof.Machine.execEvtSw who val s
  | .evtRouteWrite who off val => Sys2Proof.Machine.execEvtRouteWrite who off val s
  | .vectorMessage func vector => Sys2Proof.Machine.execVectorMessage func vector s
  | .vectorUnmask func vector => Sys2Proof.Machine.execVectorUnmask func vector s
  | .blockLockLoss port lane => Sys2Proof.Machine.execBlockLockLoss port lane s
  | .tclkTick => Sys2Proof.Machine.execTclkTick s
  | .rcOscillatorTick => Sys2Proof.Machine.execRcOscillatorTick s
  | .refclkReturn => Sys2Proof.Machine.execRefclkReturn s
  | .cowBufferDrained slot rows => Sys2Proof.Machine.execCowBufferDrained slot rows s
  | .zeroFillDone die => Sys2Proof.Machine.execZeroFillDone die s
  | .vddioChange bank present v33 => Sys2Proof.Machine.execVddioChange bank present v33 s
  | .nop c => Sys2Proof.Machine.execNop c s
  | .eval c => Sys2Proof.Machine.execEval c s
  | .assert c => Sys2Proof.Machine.execAssert c s
  | .yield c => Sys2Proof.Machine.execYield c s
  | .cellOpReserved c => Sys2Proof.Machine.execCellOpReserved c s
  | .pass b => Sys2Proof.Machine.execPass b s
  | .neg b => Sys2Proof.Machine.execNeg b s
  | .popc b => Sys2Proof.Machine.execPopc b s
  | .clz b => Sys2Proof.Machine.execClz b s
  | .add b => Sys2Proof.Machine.execAdd b s
  | .addc b => Sys2Proof.Machine.execAddc b s
  | .sub b => Sys2Proof.Machine.execSub b s
  | .subc b => Sys2Proof.Machine.execSubc b s
  | .and b => Sys2Proof.Machine.execAnd b s
  | .or b => Sys2Proof.Machine.execOr b s
  | .xor b => Sys2Proof.Machine.execXor b s
  | .andn b => Sys2Proof.Machine.execAndn b s
  | .shl b => Sys2Proof.Machine.execShl b s
  | .shr b => Sys2Proof.Machine.execShr b s
  | .sar b => Sys2Proof.Machine.execSar b s
  | .rol b => Sys2Proof.Machine.execRol b s
  | .mull b => Sys2Proof.Machine.execMull b s
  | .mulhu b => Sys2Proof.Machine.execMulhu b s
  | .mulhs b => Sys2Proof.Machine.execMulhs b s
  | .cmpeq b => Sys2Proof.Machine.execCmpeq b s
  | .cmpltu b => Sys2Proof.Machine.execCmpltu b s
  | .cmplts b => Sys2Proof.Machine.execCmplts b s
  | .minu b => Sys2Proof.Machine.execMinu b s
  | .mins b => Sys2Proof.Machine.execMins b s
  | .maxu b => Sys2Proof.Machine.execMaxu b s
  | .maxs b => Sys2Proof.Machine.execMaxs b s
  | .sel b => Sys2Proof.Machine.execSel b s
  | .wordOpReserved b => Sys2Proof.Machine.execWordOpReserved b s
  | .pnop u => Sys2Proof.Machine.execPnop u s
  | .gather u => Sys2Proof.Machine.execGather u s
  | .gatheri u => Sys2Proof.Machine.execGatheri u s
  | .bayrd u => Sys2Proof.Machine.execBayrd u s
  | .baywr u => Sys2Proof.Machine.execBaywr u s
  | .mrd u => Sys2Proof.Machine.execMrd u s
  | .mwr u => Sys2Proof.Machine.execMwr u s
  | .mgath u => Sys2Proof.Machine.execMgath u s
  | .call u => Sys2Proof.Machine.execCall u s
  | .callr u => Sys2Proof.Machine.execCallr u s
  | .portOpReserved u => Sys2Proof.Machine.execPortOpReserved u s

end Sys2Proof.Machine
end

