-- ==== Sys2Proof/Safety.lean ====
section
/-! DEFINITION. What claims about the block are stated in: the canonical form of its stores, outcomes, and when a
command of each kind is served. -/

namespace Sys2Proof.Machine

open Reg

/-- The sparse store and the memory are in canonical form: keys strictly rising, and no entry equal to what an unlisted
key reads as. Equal contents are then equal data. -/
def State.Canon (s : State) : Prop := Sparse.wf dflt s.arr = true ∧ Memory.wf s.mem = true

/-- The outcome is a next state that meets `p`. -/
def Completes (o : Res) (p : State → Prop) : Prop := ∃ t, o = .next t ∧ p t

/-- Every key of the store but those of `keys` reads as before. -/
def State.SameBut (s t : State) (keys : Nat → Prop) : Prop :=
  ∀ k, ¬ keys k → Sparse.get (dflt k) t.arr k = Sparse.get (dflt k) s.arr k

/-- Every NI finds a route for an own-device address (R388), as before any route table has an entry. -/
def State.Routed (s : State) : Prop := ∀ die ni a, s.noRoute die ni (2 ^ 40 * s.chainAddr + a) = none

/-- An initiator that is no core stalled on JNEXT (R216). -/
def State.Awake (s : State) : Who → Prop
  | .core d k => s.on A.coreIdle (32 * d + k) = false
  | _ => True

/-- Requests of an initiator reach the device: its clocks run, no entry to a sleep is past DRAIN (R396, R432), each finds
its route, the initiator is no core that stalls on JNEXT and no device whose address is not committed (R393), none of its NI
waits (R390), and none that waited is still to be performed. -/
structure State.Serving (s : State) (who : Who) : Prop where
  clocked : s.clocked = true
  outside : s.entering = false
  routed : s.Routed
  awake : s.Awake who
  accepted : s.accepts who = true
  first : ∀ h ∈ s.held, whoNi h.who ≠ whoNi who
  done : s.resumed = []

/-- Requests reach a domain of a die: it is powered (R396). -/
def State.ServingDom (s : State) (who : Who) (die dom : Nat) : Prop := s.Serving who ∧ s.domOn die dom = true

/-- A unit may issue at step `t` of slot `k` (R12, R137): its clock runs, its wall's partition performs that evaluation
step, it has not issued in it yet, and no unit of the device meets a late item. -/
structure State.MayIssue (s : State) (kind place wall k t : Nat) : Prop where
  clocked : s.clocked = true
  active : s.active wall = some (k, t)
  turn : s.marked kind place = false
  onTime : s.votes k t = []

/-- The word at the present address of a bed's word unit, and its operands A and B as the unit reads them (R89, R90). -/
def State.wWord (s : State) (b : BedLoc) (t : Nat) : Nat := s.rd A.wimem (512 * bedIx b + t)
def State.wA (s : State) (b : BedLoc) (k t : Nat) : Row := BitVec.ofNat 16 (s.wopnd k (bedIx b) t (slice (s.wWord b t) 26 14))
def State.wB (s : State) (b : BedLoc) (k t : Nat) : Row := BitVec.ofNat 16 (s.wopnd k (bedIx b) t (slice (s.wWord b t) 12 14))

/-- The carry-in of ADDC and SUBC, and the condition of SEL (R94). -/
def State.wCarry (s : State) (b : BedLoc) (k t : Nat) : Bool :=
  slice (s.partFlags (s.rd A.pDepth k) (bedIx b) (slice (s.wWord b t) 0 9) lagCell t) 0 1 = 1
def State.wCond (s : State) (b : BedLoc) (k t : Nat) : Bool :=
  slice (s.partRow (s.rd A.pDepth k) (bedIx b) (2 * slice (s.wWord b t) 0 8) lagCell t) (slice (s.wWord b t) 8 4) 1 = 1

/-- The store that word operand field `f` names holds no error there. -/
def State.WopSound (s : State) (k bed f : Nat) : Prop :=
  match slice f 12 2 with
  | 0 => s.errOf A.hist (512 * bed + slice f 0 9) = 0
  | 1 => s.rd A.landErr (landKey bed (s.rd A.pCycle k % 2) (slice f 0 9)) &&& 0xFFFF = 0
  | 2 => s.errOf A.state (256 * bed + slice f 0 8) = 0
  | _ => True

/-- A word instruction with opcode `op` issues at step `t` of slot `k`: the bed's 16 cells yield, no used field is
reserved, no store that it reads holds an error, and the hazard detector is off. -/
structure State.WordReady (s : State) (b : BedLoc) (k t op : Nat) : Prop where
  issue : s.MayIssue 1 (bedIx b) (wallIx b.toWallLoc) k t
  code : wop (s.wWord b t) = op
  yields : s.yields (bedIx b) t = 0xFFFF
  legal : wopBad (s.wWord b t) = none
  word : s.errOf A.wimem (512 * bedIx b + t) = 0
  operands : ∀ f ∈ wopFields (s.wWord b t), s.WopSound k (bedIx b) f
  carry : op = 0x09 ∨ op = 0x0B → s.errOf A.wflag (512 * bedIx b + slice (s.wWord b t) 0 9) = 0
  cond : op = 0x38 → s.errOf A.hist (512 * bedIx b + 2 * slice (s.wWord b t) 0 8) = 0
  quiet : s.debug = false

/-- What a word instruction leaves (R96): row `r` on its way into history entry `t` of the 16 cells, with flag entry `t`
(C, V, N, Z) for WFE = 1; nothing else changes but the unit's turn. -/
def State.wordDone (s : State) (b : BedLoc) (t lag : Nat) (r : Row) (c v : Bool) : State :=
  { s with
    issued := s.issued ++ [(1, bedIx b)]
    histPend := s.histPend ++ [⟨bedIx b, t, 0xFFFF, r.toNat,
      if slice (s.wWord b t) 41 1 = 1 then some (bit c + 2 * bit v + 4 * bit r.msb + 8 * bit (r = 0)) else none, lag⟩] }

/-- The word that a cell issues at step `t`, and operand `o` (0 A to 3 D) as the cell reads it (R57, R60). -/
def State.cWord (s : State) (c : CellLoc) (t : Nat) : Nat := s.rd A.imem (512 * cellIx c + t)
def State.cOp (s : State) (c : CellLoc) (k t o : Nat) : Nat :=
  s.operand k (bedIx c.toBedLoc) t (slice (s.cWord c t) (16 * o) 16)

/-- The store that selector `sel` of a cell of a bed names holds no error there. -/
def State.SelSound (s : State) (k bed sel : Nat) : Prop :=
  match selSpace sel with
  | 0 => s.errOf A.hist (512 * bed + slice (selIx sel) 0 9) = 0
  | 1 => s.errOf A.state (256 * bed + slice (selIx sel) 0 8) = 0
  | 2 => s.rd A.landErr (landKey bed (s.rd A.pCycle k % 2) (slice (selIx sel) 0 9)) &&& 2 ^ slice (selIx sel) 9 4 = 0
  | 3 => s.errOf A.port (portKey bed (s.rd A.pCycle k % 4) (slice (selIx sel) 6 4)) = 0 ∧
    (s.rd A.portPErr (4 * bed + s.rd A.pCycle k % 4)).testBit (slice (selIx sel) 6 4) = false
  | 4 => 0x40 ≤ selIx sel → s.errOf A.esTab (4096 * k + s.rd A.esIdx k) ≠ 2
  | 5 => s.errOf A.wflag (512 * bed + slice (selIx sel) 0 9) = 0
  | _ => True

/-- A cell issues an instruction with opcode `op` at step `t` of slot `k`, its word intact and the hazard detector off. -/
structure State.CellReady (s : State) (c : CellLoc) (k t op : Nat) : Prop where
  issue : s.MayIssue 0 (cellIx c) (wallIx c.toWallLoc) k t
  code : slice (s.cWord c t) 92 4 = op
  word : s.errOf A.imem (512 * cellIx c + t) = 0
  quiet : s.debug = false

/-- No selector of the instruction is reserved, and no store that it reads holds an error. -/
def State.CellSound (s : State) (c : CellLoc) (k t : Nat) : Prop :=
  ∀ o < 4, selReserved (slice (s.cWord c t) (16 * o) 16) = false ∧
    s.SelSound k (bedIx c.toBedLoc) (slice (s.cWord c t) (16 * o) 16)

/-- The result r of an EVAL or ASSERT (R58, R63): TT[index] xor INV, the index {D, C, B, A}, or {0, C, B, A} with SEN. -/
def State.cResult (s : State) (c : CellLoc) (k t : Nat) : Bool :=
  let w := s.cWord c t
  (w.testBit (64 + (s.cOp c k t 0 + 2 * s.cOp c k t 1 + 4 * s.cOp c k t 2 +
    if w.testBit 90 then 0 else 8 * s.cOp c k t 3))) ^^ w.testBit 89

/-- History entry `t` of a cell receives `r` (R33). -/
def State.cellDone (s : State) (c : CellLoc) (t : Nat) (r : Bool) : State :=
  { s with
    issued := s.issued ++ [(0, cellIx c)]
    histPend := s.histPend ++ [⟨bedIx c.toBedLoc, t, 2 ^ (c.cell : Nat), if r then 2 ^ (c.cell : Nat) else 0, none, 0⟩] }

/-- What an EVAL leaves (R18, R63): the history entry; with SW, and with SEN only where operand D is 1, the shadow bit at
SADDR; with PRB the probe bit. -/
def State.evalDone (s : State) (c : CellLoc) (k t : Nat) : State :=
  let w := s.cWord c t
  let r := s.cResult c k t
  let i := 256 * bedIx c.toBedLoc + slice w 80 8
  let u := s.cellDone c t r
  let u := if w.testBit 91 ∧ (w.testBit 90 = false ∨ s.cOp c k t 3 = 1) then
      u.wrE A.shadow i (patch (s.rd A.shadow i) c.cell 1 (bit r)) else u
  if w.testBit 88 then u.wr A.probe (cellIx c) (bit r) else u

/-- The word that a port unit issues at step `t` (R67). -/
def State.pWord (s : State) (u : CourseLoc) (t : Nat) : Nat := s.rd A.pimem (512 * courseIx u + t)

/-- A port unit issues an instruction with opcode `pop` at step `t` of slot `k`, its word intact. -/
structure State.PortReady (s : State) (u : CourseLoc) (k t pop : Nat) : Prop where
  issue : s.MayIssue 2 (courseIx u) (wallIx u.toWallLoc) k t
  code : slice (s.pWord u t) 58 6 = pop
  word : s.errOf A.pimem (512 * courseIx u + t) = 0

/-- A port unit issues a request (R76, R77, R80): no field is reserved, the guard bit of its `n` address slots is 1, and
the tag of an operation that takes one is free. -/
structure State.PortSends (s : State) (u : CourseLoc) (k t pop n : Nat) : Prop where
  ready : s.PortReady u k t pop
  legal : issueBad pop (s.pWord u t) = none
  guard : slice (s.slotField (courseIx u) (slice (s.pWord u t) 53 5) n) (16 * n - 1) 1 = 1
  tag : pop = 0x10 ∨ pop = 0x12 ∨ pop = 0x19 → s.on A.tagOut (128 * courseIx u + slice (s.pWord u t) 18 7) = false

/-- The address field of an issue operation (R75), and the number of data bits that LEN names (R76). -/
def State.pAddr (s : State) (u : CourseLoc) (t n : Nat) : Nat := s.slotField (courseIx u) (slice (s.pWord u t) 53 5) n
def State.pBits (s : State) (u : CourseLoc) (t : Nat) : Nat := (lenBits (slice (s.pWord u t) 44 4)).getD 0

/-- What a bay request and a memory-model request carry (R79, R183, R199). -/
def State.pBayReq (s : State) (u : CourseLoc) (k t : Nat) (write : Bool) : BayReq :=
  let w := s.pWord u t
  { slot := k, course := courseIx u, cyc := s.rd A.pCycle k, step := t, write := write, addr := s.pAddr u t 2 % 2 ^ 17,
    len := s.pBits u t, data := s.issueData (courseIx u) w, bed := 16 * courseIx u + slice w 40 4, line := slice w 36 4,
    bank := (s.rd A.pCycle k + slice w 34 2) % 4, due := slice w 25 9 + 2 ^ 9 * slice w 34 2 }
def State.pMmeReq (s : State) (u : CourseLoc) (k t : Nat) (kind : MmeKind) (addr : Nat) : MmeReq :=
  let w := s.pWord u t
  { serial := s.rd A.mmeSerial (engineOf (courseIx u)), slot := k, pid := s.rd A.pPid k, course := courseIx u, kind := kind,
    tag := slice w 18 7, hint := slice w 16 2, addr := addr, len := s.pBits u t, data := s.issueData (courseIx u) w,
    bed := 16 * courseIx u + slice w 40 4, line := slice w 36 4, bank := (s.rd A.pCycle k + slice w 34 2) % 4,
    due := slice w 25 9 + 2 ^ 9 * slice w 34 2, cyc := s.rd A.pCycle k, step := t, tagged := decide (kind ≠ .write), done := 0, acc := 0, phase := .fresh }

/-- The DUT requests that the bay of wall `wall` performs now (R183). -/
def State.bayDue (s : State) (wall : Nat) : List BayReq := s.bayReq.filter (s.bayReqDue wall)

/-- The bay of a wall owes no DUT access, and none was performed in the present step. -/
def State.BayIdle (s : State) (wall : Nat) : Prop := s.bayDue wall = [] ∧ s.bayDone = []

/-- The answer to a write of PART_CMD: RESULT, and DENIED as the status of a refusal for want of the right. -/
def State.cmdAnswer (s : State) (k r : Nat) : State := (s.wf (P k) PART_CMD_RESULT r).ans (if r = 4 then 1 else 0) 0

/-- What a pop of the first word of packet `p` leaves (R237, R241, R242): DEPTH before the pop kept in HWM; the last word
takes the packet with it, and then a pending flush takes effect. -/
def State.afterPop (s : State) (q : Nat) (p : QPacket) : State :=
  let m := s.qMark q
  match p.words with
  | [] => m
  | [_] => State.qFlushNow { m with packets := s.packets.erase p } q
  | _ :: r => { m with packets := mapFirst (fun x => x = p) (fun x => { x with words := r, popped := true }) s.packets }

/-- What a push of word `w` by `producer` leaves: the word at the end of its open packet, or a new one; a packet is closed by
its last word, by its 64th, and in a queue of single words by each (R237, R238). -/
def State.afterPush (s : State) (q producer w : Nat) (last : Bool) : State :=
  let old := (s.qOpen q producer).map (·.words) |>.getD []
  let rest := match s.qOpen q producer with
    | some m => s.packets.erase m
    | none => s.packets
  let words := old ++ [w]
  { s with packets := rest ++
      [⟨q, producer, words, decide (last = true ∨ words.length = 64 ∨ s.qClass q = 0), false, false⟩] }

/-- `x` is an operation code with the instruction of a cell, of a word unit, of a port unit that it stands for. -/
def CellOp (c : CellLoc) (x : Nat × Instr) : Prop := x ∈ [(0, .nop c), (1, .eval c), (2, .assert c), (3, .yield c)]
def WordOp (b : BedLoc) (x : Nat × Instr) : Prop :=
  x ∈ [(0x01, .pass b), (0x02, .neg b), (0x03, .popc b), (0x04, .clz b), (0x08, .add b), (0x09, .addc b), (0x0A, .sub b),
    (0x0B, .subc b), (0x10, .and b), (0x11, .or b), (0x12, .xor b), (0x13, .andn b), (0x18, .shl b), (0x19, .shr b),
    (0x1A, .sar b), (0x1B, .rol b), (0x20, .mull b), (0x21, .mulhu b), (0x22, .mulhs b), (0x28, .cmpeq b),
    (0x29, .cmpltu b), (0x2A, .cmplts b), (0x30, .minu b), (0x31, .mins b), (0x32, .maxu b), (0x33, .maxs b),
    (0x38, .sel b)]
def PortOp (u : CourseLoc) (x : Nat × Instr) : Prop :=
  x ∈ [(0x00, .pnop u), (0x01, .gather u), (0x02, .gatheri u), (0x08, .bayrd u), (0x09, .baywr u), (0x10, .mrd u),
    (0x11, .mwr u), (0x12, .mgath u), (0x18, .call u), (0x19, .callr u)]

/-- A command of the dies' units or of a link: what happens of itself, at no initiator's request. -/
def unitCommand : Instr → Bool
  | .bayDutStep _ | .bayrdDelivery _ | .endOfCycleCommit _ | .cycleBegin _ _ | .gateRound _ _ | .holdObserved _ _
  | .holdRelease _ _ | .holdTimeout _ | .gateTimeout _ | .plumbUp _ _ _ | .plumbDown _ _ _ | .rollCallLoss _ _
  | .sever _ _ _ _ _ | .stopNotice _ _ _ _ _ _ | .partitionSection _ | .bedAccDone _ | .wuAccDone _
  | .mortarAccDone _ | .laneSend _ _ | .laneRelay _ _ | .switchEntry _ _ _ | .moduleEntry _ _ _ _
  | .moduleTransferReceive _ _ _ _ | .linkSendEntry _ _ _ | .mortarFrame _ _ _ | .landingWrite _ _ _ | .mmeWalk _ _ _
  | .mmePageEntryFree _ _ | .pageServiceMessageWritten _ _ | .mmeDelivery _ _ _ | .memTcInvDone _ | .mmeFenceDone _ _
  | .newtRegionStart _ | .newtSaveEnd _ | .newtMarchEnd _ _ | .newtFillEnd _ | .newtRestoreEnd _ | .jnext _ _
  | .jdone _ _ _ | .jqdataPop _ _ | .jqdataPush _ _ _ | .jqend _ _ _ | .jrsp _ _ _ | .portalMessageWritten _
  | .portalResponse _ _ | .taskTimeout _ _ | .dispatch _ | .packetReadable _ _ | .snapEnd _
  | .recorderBufferDrained _ _ | .feedPacket _ | .dumpRowCopy _ _ _ | .triggerInputEdge _ | .skinkBlock _ _ _ _
  | .symbolSilenceTimeout _ | .nak _ _ | .heartbeatInterval _ | .heartbeat _ | .trainingTimeout _ _ | .headerLock _ _
  | .blockLock _ _ | .caps _ _ _ | .presencePoll _ _ _ | .rateReq _ _ | .rateAck _ _ _ | .rateSwitch _ | .pstate _ _
  | .portWake _ | .dormantRelockTimeout _ | .search _ _ | .count _ _ _ | .commit _ _ | .commitAck _ | .abort _ _
  | .enumCountTimeout | .neighbor _ _ _ | .tree _ _ _ _ | .treeWindowClose | .treeAck _ _ _ | .treePhaseEnd
  | .busToken _ _ _ | .busListenEnd _ _ | .imageStream _ | .endMark | .doneRise | .doneFall | .time _ _ _
  | .check _ _ | .fired _ _ _ _ _ | .go _ _ _ _ | .requestSend _ _ _ _ _ _ _ | .cnResponse _ _ _ _ _ _
  | .requestTimeout _ _ _ | .wakeNotice _ _ _ | .wakePauseExpiry _ _ _ | .snoopInvalidation _ _ | .patrolScrub _
  | .bankRefresh _ _ _ _ | .pseudoChannelRetrain _ _ | .hbmTraining _ | .hbmTrainingDone _ _ _ | .plChangeFrozen
  | .voltageTimeout | .pllRelock | .domainPowerUp _ _ | .drainEnd | .drainTimeout | .entryPhaseEnd
  | .designRestoreDone | .uartTransmit _ | .uartReceive _ _ _ _ | .i2cCommand _ _ _ _ | .smbusTimeout _
  | .spiTransfer _ _ | .vectorMessage _ _ | .vectorUnmask _ _ | .blockLockLoss _ _ | .cowBufferDrained _ _
  | .zeroFillDone _ | .nop _ | .eval _ | .assert _ | .yield _ | .cellOpReserved _ | .pass _ | .neg _ | .popc _
  | .clz _ | .add _ | .addc _ | .sub _ | .subc _ | .and _ | .or _ | .xor _ | .andn _ | .shl _ | .shr _ | .sar _
  | .rol _ | .mull _ | .mulhu _ | .mulhs _ | .cmpeq _ | .cmpltu _ | .cmplts _ | .minu _ | .mins _ | .maxu _ | .maxs _
  | .sel _ | .wordOpReserved _ | .pnop _ | .gather _ | .gatheri _ | .bayrd _ | .baywr _ | .mrd _ | .mwr _ | .mgath _
  | .call _ | .callr _ | .portOpReserved _ => true
  | _ => false

/-- The initiator of a command that is a request to a register, a buffer or a command of this device; a CSR of a core is
none, since its core alone accesses it. -/
def sender : Instr → Option Who
  | .stop who _ | .stopNow who _ | .swholdWrite who _ _ | .debugCtrlWrite who _ | .memPsDone who _ _
  | .memPsFail who _ _ | .memTcInv who _ _ | .mmeFence who _ _ _ | .newtReq who _ _ | .unpin who _
  | .dispFlagSet who _ _ _ | .dispFlagClear who _ _ _ | .taskCfgWrite who _ _ | .taskHistClear who _
  | .coreBindWrite who _ _ _ | .coreReset who _ _ | .queueCfgWrite who _ _ _ | .queueEnable who _ _
  | .queueDisable who _ _ | .flush who _ _ | .queueReset who _ _ | .queuePop who _ _ | .queuePush who _ _ _
  | .recArm who _ | .recStart who _ | .recStop who _ | .recOff who _ | .recSnap who _ | .restore who _
  | .recRegionWrite who _ _ | .recTailWrite who _ _ | .enumStart who | .warmReset who | .loadGo who | .recoveryGo who
  | .updateWrite who _ _ | .updateVerify who _ _ | .activate who _ _ | .confirm who _ | .lcTransition who _
  | .keyramLoad who | .keyramWipe who | .timeSet who _ | .timeIncWrite who _ | .synced who | .launchArm who _
  | .launchDisarm who | .meterExport who | .routeEntryRead who _ | .routeEntryWrite who _
  | .ownershipEntryWrite who _ _ | .ownershipEntryRead who _ | .plChangeRequest who _ | .voltDone who
  | .domainCtrlWrite who _ | .park who _ | .slumber who _ | .routeDataWrite who _ | .periphEnWrite who _
  | .gpTgtWrite who _ _ _ | .gpOutSet who _ _ | .gpOutClr who _ _ | .gpOutTgl who _ _ | .release who _
  | .cfgtxBegin who _ _ | .cfgtxCommit who _ _ | .cfgtxAbort who _ _ | .rwtWrite who _ _ | .eseqStagingWrite who _ _
  | .evtSw who _ | .evtRouteWrite who _ _ | .start who _ | .partReset who _ | .cancel who | .bayServiceRead who _ _ _
  | .bayServiceWrite who _ _ _ _ | .bedAccRead who _ | .bedAccWrite who _ _ _ | .wuAccRead who _ | .wuAccWrite who _
  | .mortarAccRead who _ | .mortarAccWrite who _ | .laneCfgWrite who _ | .trigArm who _ _ | .trigDisarm who _ _
  | .trigForce who _ _ | .probeMapWrite who _ _ | .probeMapRead who _ | .laneTrain who _ _ _ | .linkBitslip who _ _
  | .rateReqSend who _ _ | .pstateRequest who _ _ | .cnRequest who _ _ _ _ _ => some who
  | .registerWrite who off _ | .lohiLoWrite who off _ | .lohiHiWrite who off _ | .rcRead who off
  | .lohiLoRead who off => if csrOf off = none then some who else none
  | _ => none

end Sys2Proof.Machine
end

