-- ==== Sys2Proof/Certificates/Slice0/Obligations.lean ====
section
/-! DEFINITION. The statements for the provers: what each family of commands does, what a step does, and what every step
keeps. Each docstring names the rules that its statement rests on; OBLIGATIONS.json lists them. -/

open Sys2Proof Sys2Proof.Machine Sys2Proof.Machine.Reg

/-- The device right after reset: its stores are in canonical form, nothing waits, every partition slot is empty, the
level is PL3 (R436), TIME_NS and MONO_NS are 0 and TIME_INC is 10.0 (R364, R366), every port is down, no granule of HBM
is owned (R403), and no line of HBM is listed. The values that the specification does not give, zero, and what HBM
reads as before training, are the model's choice (logs 8, 10). -/
def Obligations.ResetState : Prop :=  let s := State.reset
  s.Canon ∧ s.pending = [] ∧ s.clocked = true ∧ (∀ k, s.rd A.pState k = 0) ∧ s.rf 0 PL_STATUS_LEVEL = 3 ∧
  s.pair oTIME_NS_LO = 0 ∧ s.pair oMONO_NS_LO = 0 ∧ s.timeInc = 10 * 2 ^ 32 ∧ (∀ p < 16, s.portUp p = false) ∧
  (∀ g, s.rd A.own g = 0) ∧ s.mem = [] ∧ s.packets = [] ∧ s.causes = []

/-- One step: the command at the front of the queue is performed on the state with the queue's rest. With an empty
queue one SCLK period passes: that this is what an empty queue stands for, and what goes on in the period without a
command, is the model's choice (logs 1 and 3). Without a clock nothing does. -/
def Obligations.StepRunsTheFront : Prop := ∀ (s : State),
  (∀ c r, s.pending = c :: r → step s = exec c { s with pending := r }) ∧
  (s.pending = [] → step s = .next s.period) ∧
  (s.pending = [] → s.clocked = false → s.rd A.pwMode 0 ≠ 1 → step s = .next s)

/-- Every step keeps the stores in canonical form: equal contents stay equal data (logs 1 and 10 name the model's own
forms). -/
def Obligations.StepKeepsCanonicalForm : Prop := ∀ (s t : State), s.Canon → step s = .next t → t.Canon

/-- Without the dies' clocks no unit acts (R417, R427, R435): a command of a unit or a link changes nothing. A request
to the device is held, with its initiator, while PARK gates the clocks and REFCLK runs, and is a wake where its source
is enabled in WAKE_CFG (R427, R433); in SLUMBER, in OFF and without REFCLK it changes nothing and gets no answer, which
is the model's reading (log 193; R433 gives SLUMBER no source for it). The clause covers a device with no request of an
earlier hold to perform, in no entry past DRAIN, and an initiator that is no core stalled on JNEXT. -/
def Obligations.ClocklessDevice : Prop := ∀ (s : State) (c : Instr) (who : Who),
  s.clocked = false →
  (unitCommand c = true → exec c s = .next s) ∧
  (sender c = some who → s.resumed = [] → s.entering = false → s.Awake who →
    (s.rd A.pwMode 0 = 1 ∧ s.refOk = true → Completes (exec c s) fun t =>
      t = s.holdReq who c (s.wakeSource (isPcie who)) ∧
      (∃ h, t.held = s.held ++ [h] ∧ h.cmd = c ∧ (s.actAs = none → h.who = who)) ∧
      t.rd A.pwWake 0 = (if s.rd A.pwWake 0 = 0 then s.wakeSource (isPcie who) else s.rd A.pwWake 0) ∧
      (∀ x : Arr, x.code < 512 → x.code ≠ A.pwWake.code → ∀ j, t.rd x j = s.rd x j) ∧ t.mem = s.mem ∧ t.rsp = s.rsp) ∧
    (s.rd A.pwMode 0 ≠ 1 ∨ s.refOk = false → exec c s = .next s))

/-- OFF (R435): without VDD no command changes anything, but for power itself (power-on reset, OFF, loss of VBAT) and
the tamper monitor that VBAT feeds, and the levels outside, of pins and of their rails (R479). -/
def Obligations.OffIsInert : Prop := ∀ (s : State) (c : Instr), s.powered = false → s.resumed = [] → c ≠ .powerOnReset →
  c ≠ .off → c ≠ .vbatLoss → (∀ x, c ≠ .tamperDetect x) → (∀ p l, c ≠ .gpInterrupt p l) → (∀ b o v, c ≠ .vddioChange b o v) →
  exec c s = .next s

/-- Sums and differences (R95 to R97): NEG, ADD, ADDC, SUB and SUBC write their row and, with WFE = 1, the carry (1: no
borrow) and the overflow of R97. The carry-in is C of flag entry X[8:0] as the unit sees it. Multiplies, comparisons,
minima and maxima (R95, R50): a multiply writes one step later; a comparison answers in bit 0 alone. -/
def Obligations.SumsProductsComparisons : Prop :=
  (∀ (s : State) (b : BedLoc) (k t : Nat),
   let x := s.wA b k t
   let y := s.wB b k t
   let cin : Row := if s.wCarry b k t then 1 else 0
   (s.WordReady b k t 0x02 → exec (.neg b) s = .next (s.wordDone b t 1 (0 - x) (x = 0) (x = 0x8000))) ∧
   (s.WordReady b k t 0x08 → exec (.add b) s =
     .next (s.wordDone b t 1 (x + y) (2 ^ 16 ≤ x.toNat + y.toNat) (x.msb = y.msb ∧ (x + y).msb ≠ x.msb))) ∧
   (s.WordReady b k t 0x09 → exec (.addc b) s =
     .next (s.wordDone b t 1 (x + y + cin) (2 ^ 16 ≤ x.toNat + y.toNat + cin.toNat)
       (x.msb = y.msb ∧ (x + y + cin).msb ≠ x.msb))) ∧
   (s.WordReady b k t 0x0A → exec (.sub b) s =
     .next (s.wordDone b t 1 (x - y) (y.toNat ≤ x.toNat) (x.msb ≠ y.msb ∧ (x - y).msb ≠ x.msb))) ∧
   (s.WordReady b k t 0x0B → exec (.subc b) s =
     .next (s.wordDone b t 1 (x - y - (1 - cin)) (y.toNat < x.toNat + cin.toNat)
       (x.msb ≠ y.msb ∧ (x - y - (1 - cin)).msb ≠ x.msb)))) ∧
  (∀ (s : State) (b : BedLoc) (k t : Nat),
   let x := s.wA b k t
   let y := s.wB b k t
   (s.WordReady b k t 0x20 → exec (.mull b) s =
     .next (s.wordDone b t 2 (BitVec.ofInt 16 (x.toInt * y.toInt)) false false)) ∧
   (s.WordReady b k t 0x21 → exec (.mulhu b) s =
     .next (s.wordDone b t 2 (BitVec.ofNat 16 (x.toNat * y.toNat / 2 ^ 16)) false false)) ∧
   (s.WordReady b k t 0x22 → exec (.mulhs b) s =
     .next (s.wordDone b t 2 (BitVec.ofInt 16 (x.toInt * y.toInt / 2 ^ 16)) false false)) ∧
   (s.WordReady b k t 0x28 → exec (.cmpeq b) s = .next (s.wordDone b t 1 (if x = y then 1 else 0) false false)) ∧
   (s.WordReady b k t 0x29 → exec (.cmpltu b) s =
     .next (s.wordDone b t 1 (if x.toNat < y.toNat then 1 else 0) false false)) ∧
   (s.WordReady b k t 0x2A → exec (.cmplts b) s =
     .next (s.wordDone b t 1 (if x.toInt < y.toInt then 1 else 0) false false)) ∧
   (s.WordReady b k t 0x30 → exec (.minu b) s =
     .next (s.wordDone b t 1 (BitVec.ofNat 16 (min x.toNat y.toNat)) false false)) ∧
   (s.WordReady b k t 0x31 → exec (.mins b) s =
     .next (s.wordDone b t 1 (BitVec.ofInt 16 (min x.toInt y.toInt)) false false)) ∧
   (s.WordReady b k t 0x32 → exec (.maxu b) s =
     .next (s.wordDone b t 1 (BitVec.ofNat 16 (max x.toNat y.toNat)) false false)) ∧
   (s.WordReady b k t 0x33 → exec (.maxs b) s =
     .next (s.wordDone b t 1 (BitVec.ofInt 16 (max x.toInt y.toInt)) false false)))

/-- Rows without arithmetic (R94 to R96): PASS, AND, OR, XOR, ANDN and SEL, whose condition is bit X[11:8] of history
row 2 X[7:0]; C = V = 0. Shifts by the whole of B, rotation by B[3:0], and counts (R95, R98). CLZ answers the number n
of 0 bits above the highest 1 bit, 16 for 0. Word instructions that do not operate (R92, R95, R103 to R105): an
operation code that R95 does not list and a reserved operand field raise WORD_OP_RESERVED and WORD_FIELD_RESERVED
(0x14), write a zero row and no flag entry; in a bed whose 16 cells do not all yield WORD_YIELD_MISMATCH is raised and
the yielding cells write 0; a word that cannot be corrected raises STORE_ERROR, and the yielding cells write 0. The
store error's place and ACTION are the model's reading (log 138). -/
def Obligations.LogicShiftsCounts : Prop :=
  (∀ (s : State) (b : BedLoc) (k t : Nat),
   let x := s.wA b k t
   let y := s.wB b k t
   (s.WordReady b k t 0x01 → exec (.pass b) s = .next (s.wordDone b t 1 x false false)) ∧
   (s.WordReady b k t 0x10 → exec (.and b) s = .next (s.wordDone b t 1 (x &&& y) false false)) ∧
   (s.WordReady b k t 0x11 → exec (.or b) s = .next (s.wordDone b t 1 (x ||| y) false false)) ∧
   (s.WordReady b k t 0x12 → exec (.xor b) s = .next (s.wordDone b t 1 (x ^^^ y) false false)) ∧
   (s.WordReady b k t 0x13 → exec (.andn b) s = .next (s.wordDone b t 1 (x &&& ~~~y) false false)) ∧
   (s.WordReady b k t 0x38 → exec (.sel b) s =
     .next (s.wordDone b t 1 (if s.wCond b k t then x else y) false false))) ∧
  (∀ (s : State) (b : BedLoc) (k t : Nat),
   let x := s.wA b k t
   let y := s.wB b k t
   (s.WordReady b k t 0x18 → exec (.shl b) s =
     .next (s.wordDone b t 1 (if 16 ≤ y.toNat then 0 else x <<< y.toNat) false false)) ∧
   (s.WordReady b k t 0x19 → exec (.shr b) s =
     .next (s.wordDone b t 1 (if 16 ≤ y.toNat then 0 else x >>> y.toNat) false false)) ∧
   (s.WordReady b k t 0x1A → exec (.sar b) s =
     .next (s.wordDone b t 1 (if 16 ≤ y.toNat then (if x.msb then 0xFFFF else 0) else x.sshiftRight y.toNat)
       false false)) ∧
   (s.WordReady b k t 0x1B → exec (.rol b) s =
     .next (s.wordDone b t 1 (x <<< (y.toNat % 16) ||| x >>> (16 - y.toNat % 16)) false false)) ∧
   (s.WordReady b k t 0x03 → exec (.popc b) s =
     .next (s.wordDone b t 1 (BitVec.ofNat 16 ((List.range 16).map fun i => bit (x.getLsbD i)).sum) false false)) ∧
   (s.WordReady b k t 0x04 → ∃ n : Nat, n ≤ 16 ∧ (∀ i < n, x.getLsbD (15 - i) = false) ∧
     (n < 16 → x.getLsbD (15 - n) = true) ∧
     exec (.clz b) s = .next (s.wordDone b t 1 (BitVec.ofNat 16 n) false false))) ∧
  (∀ (s : State) (b : BedLoc) (k t : Nat),
   let bed := bedIx b
   let w := s.wWord b t
   let u : State := { s with issued := s.issued ++ [(1, bed)] }
   let listed : List (Nat × Instr) := [(0x01, .pass b), (0x02, .neg b), (0x03, .popc b), (0x04, .clz b), (0x08, .add b),
     (0x09, .addc b), (0x0A, .sub b), (0x0B, .subc b), (0x10, .and b), (0x11, .or b), (0x12, .xor b), (0x13, .andn b),
     (0x18, .shl b), (0x19, .shr b), (0x1A, .sar b), (0x1B, .rol b), (0x20, .mull b), (0x21, .mulhu b), (0x22, .mulhs b),
     (0x28, .cmpeq b), (0x29, .cmpltu b), (0x2A, .cmplts b), (0x30, .minu b), (0x31, .mins b), (0x32, .maxu b),
     (0x33, .maxs b), (0x38, .sel b)]
   let zero (v : State) : State := v.wordWrite bed t w ⟨0, false, false⟩ false
   let fault (code detail : Nat) : State := u.faultAt k code (Loc.ofBed bed) .e (s.rd A.pCycle k) t detail
   s.MayIssue 1 bed (wallIx b.toWallLoc) k t →
   (s.errOf A.wimem (512 * bed + t) = 0 → s.yields bed t = 0xFFFF → wop w ≠ 0 → wopUses (wop w) = none →
     exec (.wordOpReserved b) s = .next (zero (fault 0x13 (wop w)))) ∧
   (∀ p ∈ listed,
     (s.errOf A.wimem (512 * bed + t) = 0 → wop w = p.1 →
       (∀ x, s.yields bed t = 0xFFFF → wopBad w = some x → exec p.2 s = .next (zero (fault 0x14 (p.1 + 2 ^ 6 * x)))) ∧
       (s.yields bed t ≠ 0xFFFF → exec p.2 s =
         .next ((fault 0x12 (s.yields bed t + 2 ^ 16 * p.1)).zeroCells bed t (s.yields bed t) 0))) ∧
     (s.errOf A.wimem (512 * bed + t) = 2 → exec p.2 s =
       .next ((fault 0x20 (storeDetail 7 t 0 0 0)).zeroCells bed t (s.yields bed t) 1))))

/-- NOP writes 0 into its history entry; EVAL, and ASSERT with r = 0, write r into the history and, as SW, SEN and PRB
permit, into the shadow and to the probe fabric (R57 to R64). A cell that YIELDs with a word instruction issued or to
be issued changes nothing (R59, R103). The faults of cell instructions at their own place and step (R60, R64, R87,
R103): an unlisted opcode and a reserved selector write 0 into the history entry; an ASSERT with r = 1 does all that
EVAL does and raises the assertion; a YIELD against a WNOP raises WORD_YIELD_MISMATCH once for the bed, and the
yielding cells write 0; a word that cannot be corrected is a NOP with STORE_ERROR (R51). Late items (R48, R62, R72,
R90, R137, R138): a LAND or PORT read of a cell, a word unit or a GATHER whose presence flag is clear. While the
partition meets one in a step, no unit of the device writes, sends or issues anything for it: the step freezes, the
partition is HELD with cause 1 (a landing) or 2 (a port line), and every late item is kept. A replay, where the feed
may be the cause, is not covered. -/
def Obligations.CellInstructions : Prop :=
  (∀ (s : State) (c : CellLoc) (k t : Nat),
   (s.CellReady c k t 0 → exec (.nop c) s = .next (s.cellDone c t false)) ∧
   (s.CellReady c k t 1 → s.CellSound c k t → exec (.eval c) s = .next (s.evalDone c k t)) ∧
   (s.CellReady c k t 2 → s.CellSound c k t → s.cResult c k t = false →
     exec (.assert c) s = .next (s.evalDone c k t)) ∧
   (s.CellReady c k t 3 → s.errOf A.wimem (512 * bedIx c.toBedLoc + t) ≠ 2 → wop (s.wWord c.toBedLoc t) ≠ 0 →
     exec (.yield c) s = .next { s with issued := s.issued ++ [(0, cellIx c)] })) ∧
  (∀ (s : State) (c : CellLoc) (k t : Nat),
   let i := cellIx c
   let bed := bedIx c.toBedLoc
   let u : State := { s with issued := s.issued ++ [(0, i)] }
   (s.MayIssue 0 i (wallIx c.toWallLoc) k t → s.errOf A.imem (512 * i + t) = 2 → exec (.nop c) s =
     .next ((u.faultAt k 0x20 (Loc.ofCell i) .e (s.rd A.pCycle k) t (storeDetail 0 t 0 0 0)).cellHist i t 0)) ∧
   (∀ op, 4 ≤ op → s.CellReady c k t op → exec (.cellOpReserved c) s =
     .next ((u.faultAt k 0x10 (Loc.ofCell i) .e (s.rd A.pCycle k) t op).cellHist i t 0)) ∧
   (∀ o < 4, selReserved (slice (s.cWord c t) (16 * o) 16) = true →
     (∀ j < o, selReserved (slice (s.cWord c t) (16 * j) 16) = false) →
     (s.CellReady c k t 1 → exec (.eval c) s =
       .next ((u.faultAt k 0x11 (Loc.ofCell i) .e (s.rd A.pCycle k) t
         (slice (s.cWord c t) (16 * o) 16 + 2 ^ 16 * o)).cellHist i t 0)) ∧
     (s.CellReady c k t 2 → exec (.assert c) s =
       .next ((u.faultAt k 0x11 (Loc.ofCell i) .e (s.rd A.pCycle k) t
         (slice (s.cWord c t) (16 * o) 16 + 2 ^ 16 * o)).cellHist i t 0))) ∧
   (s.CellReady c k t 2 → s.CellSound c k t → s.cResult c k t = true → exec (.assert c) s =
     .next ((s.evalDone c k t).faultAt k 0x01 (Loc.ofCell i) .a (s.rd A.pCycle k) t 0)) ∧
   (s.CellReady c k t 3 → s.marked 1 bed = false → s.errOf A.wimem (512 * bed + t) ≠ 2 → wop (s.wWord c.toBedLoc t) = 0 →
     exec (.yield c) s = .next ((({ u with issued := u.issued ++ [(1, bed)] }).faultAt k 0x12 (Loc.ofBed bed) .e
       (s.rd A.pCycle k) t (s.yields bed t)).zeroCells bed t (s.yields bed t) 0))) ∧
  (∀ (s : State) (c : CellLoc) (b : BedLoc) (u : CourseLoc) (k t : Nat),
   let n := s.rd A.pCycle k
   let items := s.votes k t
   let held (kind place : Nat) (w : WallLoc) (i : Instr) : Prop :=
     s.active (wallIx w) = some (k, t) → s.marked kind place = false → Completes (exec i s) fun v =>
       v.rd A.pState k = 3 ∧ v.rd A.pFrozen k = 1 ∧ v.rd A.holdTimer k = 0 ∧ v.late = s.late ++ items ∧
       (∀ a ∈ [A.pStep, A.pCycle, A.hist, A.wflag, A.shadow, A.state, A.probe, A.slotR, A.tagOut, A.gen, A.port, A.portP, A.land,
         A.landP], ∀ j, v.rd a j = s.rd a j) ∧
       v.histPend = s.histPend ∧ v.issued = s.issued ∧ v.bayReq = s.bayReq ∧ v.mme = s.mme ∧ v.portalMsg = s.portalMsg ∧
       v.portalRec = s.portalRec ∧ v.flight = s.flight ∧ v.packets = s.packets ∧ v.mem = s.mem ∧
       v.hasCause k 1 = (s.hasCause k 1 || items.any fun x => x.kind ≠ 1) ∧
       v.hasCause k 2 = (s.hasCause k 2 || items.any fun x => x.kind = 1) ∧
       (∀ j d, (j, d) ≠ (k, 1) → (j, d) ≠ (k, 2) → v.hasCause j d = s.hasCause j d)
   let cw := s.cWord c t
   let ww := s.wWord b t
   let pw := s.pWord u t
   let mask := if slice pw 36 2 = 0 then 0xFFFF else 2 ^ slice pw 32 4
   let late (bed bank step mask : Nat) : Bool := s.rd A.landP (landKey bed bank step) &&& mask ≠ mask
   s.clocked = true → s.replaying k = false → t < 512 →
   (items ≠ [] →
     (∀ o, CellOp c o → slice (s.cellWord (cellIx c) t) 92 4 = o.1 → held 0 (cellIx c) c.toWallLoc o.2) ∧
     (4 ≤ slice (s.cellWord (cellIx c) t) 92 4 → held 0 (cellIx c) c.toWallLoc (.cellOpReserved c)) ∧
     (∀ o, WordOp b o → wop ww = o.1 ∨ s.errOf A.wimem (512 * bedIx b + t) = 2 → held 1 (bedIx b) b.toWallLoc o.2) ∧
     (∀ o, PortOp u o → slice (s.portWord (courseIx u) t) 58 6 = o.1 → held 2 (courseIx u) u.toWallLoc o.2) ∧
     (popListed (slice (s.portWord (courseIx u) t) 58 6) = false → held 2 (courseIx u) u.toWallLoc (.portOpReserved u))) ∧
   (∀ o < 4,
     let sel := slice cw (16 * o) 16
     s.slotOfBed (bedIx c.toBedLoc) = some k → s.errOf A.imem (512 * cellIx c + t) ≠ 2 →
     slice cw 92 4 = 1 ∨ slice cw 92 4 = 2 → (∀ j < 4, selReserved (slice cw (16 * j) 16) = false) →
     (selSpace sel = 2 → late (bedIx c.toBedLoc) (n % 2) (slice sel 0 9) (2 ^ slice sel 9 4) = true →
       ⟨k, bedIx c.toBedLoc, 0, cellIx c % 16, o, 2 ^ slice sel 9 4, slice sel 0 9, n % 2, t⟩ ∈ items) ∧
     (selSpace sel = 3 → (s.rd A.portP (4 * bedIx c.toBedLoc + n % 4)).testBit (slice sel 6 4) = false →
       ⟨k, bedIx c.toBedLoc, 1, cellIx c % 16, o, 2 ^ slice sel 6 4, 0, n % 4, t⟩ ∈ items)) ∧
   (∀ o < (wopFields ww).length,
     let f := slice ww (26 - 14 * o) 14
     s.slotOfBed (bedIx b) = some k → s.errOf A.wimem (512 * bedIx b + t) ≠ 2 → s.yields (bedIx b) t = 0xFFFF →
     wopBad ww = none → slice f 12 2 = 1 → late (bedIx b) (n % 2) (slice f 0 9) 0xFFFF = true →
     ⟨k, bedIx b, 2, 0, o, 0xFFFF, slice f 0 9, n % 2, t⟩ ∈ items) ∧
   (s.slotOfCourse (courseIx u) = some k → s.errOf A.pimem (512 * courseIx u + t) ≠ 2 → slice pw 58 6 = 1 →
     gatherBad pw = none → slice pw 38 2 = 1 → late (gatherBed (courseIx u) pw) (n % 2) (slice pw 45 9) mask = true →
     ⟨k, gatherBed (courseIx u) pw, 3, 0, 0, mask, slice pw 45 9, n % 2, t⟩ ∈ items))

/-- PNOP does nothing; GATHERI writes IMM to its slot; GATHER reads a row of its bed and writes the slot (MODE 0), or
copies row bit SRCBIT to slot bit SLOTBIT (MODE 1) (R70 to R72). What a port unit does that issues nothing (R76, R80,
R87): a guard bit of 0, a reserved field or a tag that is outstanding leave the zero lines of the operation, the last
two with their fault; an unlisted opcode has no effect but its fault. A word that cannot be corrected is a PNOP with
STORE_ERROR, and stops the partition immediately (R86). -/
def Obligations.PortSlotOperations : Prop :=
  (∀ (s : State) (u : CourseLoc) (k t : Nat),
   let w := s.pWord u t
   let slot := 32 * courseIx u + slice w 40 5
   let bed := 16 * courseIx u + slice w 54 4
   let lanes := if slice w 36 2 = 0 then 0xFFFF else 2 ^ slice w 32 4
   (s.PortReady u k t 0 → exec (.pnop u) s = .next (s.mark 2 (courseIx u))) ∧
   (s.PortReady u k t 2 → exec (.gatheri u) s = .next ((s.mark 2 (courseIx u)).wr A.slotR slot (slice w 0 16))) ∧
   ∀ row : Nat,
     (slice w 38 2 = 0 ∧ s.errOf A.hist (512 * bed + slice w 45 9) = 0 ∧
         row = s.partRow (s.rd A.pDepth k) bed (slice w 45 9) lagGather t ∨
       slice w 38 2 = 1 ∧ s.rd A.landErr (landKey bed (s.rd A.pCycle k % 2) (slice w 45 9)) &&& lanes = 0 ∧
         row = s.rd A.land (landKey bed (s.rd A.pCycle k % 2) (slice w 45 9)) ∨
       slice w 38 2 = 2 ∧ s.errOf A.state (256 * bed + slice w 45 8) = 0 ∧
         row = s.rd A.state (256 * bed + slice w 45 8)) →
     s.debug = false → s.PortReady u k t 1 →
     (slice w 36 2 = 0 → exec (.gather u) s = .next ((s.mark 2 (courseIx u)).wr A.slotR slot row)) ∧
     (slice w 36 2 = 1 → exec (.gather u) s = .next ((s.mark 2 (courseIx u)).wr A.slotR slot
       (patch (s.rd A.slotR slot) (slice w 28 4) 1 (slice row (slice w 32 4) 1))))) ∧
  (∀ (s : State) (u : CourseLoc) (k t : Nat),
   let w := s.pWord u t
   let i := courseIx u
   let v := s.mark 2 i
   let ops : List (Instr × Nat × Nat) := [(.bayrd u, 0x08, 2), (.baywr u, 0x09, 2), (.mrd u, 0x10, 4), (.mwr u, 0x11, 4),
     (.mgath u, 0x12, 4), (.call u, 0x18, 2), (.callr u, 0x19, 2)]
   (∀ o ∈ ops, s.PortReady u k t o.2.1 → issueBad o.2.1 w = none →
     slice (s.pAddr u t o.2.2) (16 * o.2.2 - 1) 1 = 0 → exec o.1 s = .next (v.zeroLines k i w)) ∧
   (∀ o ∈ ops, ∀ r, s.PortReady u k t o.2.1 → issueBad o.2.1 w = some r → exec o.1 s =
     .next ((v.faultAt k 0x16 (Loc.ofCourse i) .e (s.rd A.pCycle k) t (o.2.1 + 2 ^ 8 * r)).zeroLines k i w)) ∧
   (∀ o ∈ ops, o.2.1 = 0x10 ∨ o.2.1 = 0x12 ∨ o.2.1 = 0x19 → s.PortReady u k t o.2.1 → issueBad o.2.1 w = none →
     slice (s.pAddr u t o.2.2) (16 * o.2.2 - 1) 1 = 1 → s.on A.tagOut (128 * i + slice w 18 7) = true →
     exec o.1 s = .next ((v.faultAt k 0x17 (Loc.ofCourse i) .e (s.rd A.pCycle k) t
       (slice w 18 7 + 2 ^ 8 * o.2.1)).zeroLines k i w)) ∧
   (∀ pop, popListed pop = false → s.PortReady u k t pop → exec (.portOpReserved u) s =
     .next (v.faultAt k 0x15 (Loc.ofCourse i) .e (s.rd A.pCycle k) t pop)) ∧
   (s.MayIssue 2 i (wallIx u.toWallLoc) k t → s.errOf A.pimem (512 * i + t) = 2 → Completes (exec (.pnop u) s) fun x =>
     x = v.faultAt k 0x20 (Loc.ofCourse i) .i (s.rd A.pCycle k) t (storeDetail 8 t 0 0 0) ∧
     (x.rd A.pState k = 4 ∨ x.rd A.pImm k = 1)))

/-- An issue operation with ISSUE = 1 hands its request to the bay or to the memory-model engine (R74 to R80, R183,
R199). An MRD or MGATH makes its tag outstanding, an MWR does not; an address of an MGATH is a multiple of 4, of the
others of the least power of 2 not below the length. While a recording is replayed, engines receive no request (R267).
A CALL or CALLR whose queue is a message queue of the partition with room for the packet writes the message of R220 as
one packet; CALLR also advances its tag's generation modulo 16, makes the tag outstanding and leaves a record (R81,
R218 to R221). Without room the message waits and the portal pulls HOLD with cause 4. -/
def Obligations.PortIssues : Prop :=
  (∀ (s : State) (u : CourseLoc) (k t : Nat),
   let w := s.pWord u t
   let i := courseIx u
   let e := engineOf i
   let tag := 128 * i + slice w 18 7
   let size := pow2ceil (s.pBits u t / 8)
   let a := s.pAddr u t 4 % 2 ^ 52
   let serial := s.rd A.mmeSerial e + 1
   (s.PortSends u k t 0x08 2 → exec (.bayrd u) s =
     .next { s.mark 2 i with bayReq := s.bayReq ++ [s.pBayReq u k t false] }) ∧
   (s.PortSends u k t 0x09 2 → exec (.baywr u) s =
     .next { s.mark 2 i with bayReq := s.bayReq ++ [s.pBayReq u k t true] }) ∧
   (s.replaying k = false →
     (s.PortSends u k t 0x10 4 → exec (.mrd u) s =
       .next (State.wr { (s.mark 2 i).wr A.tagOut tag 1 with mme := s.mme ++ [s.pMmeReq u k t .read (a - a % size)] }
         A.mmeSerial e serial)) ∧
     (s.PortSends u k t 0x11 4 → exec (.mwr u) s =
       .next (State.wr { s.mark 2 i with mme := s.mme ++ [s.pMmeReq u k t .write (a - a % size)] } A.mmeSerial e serial)) ∧
     (s.PortSends u k t 0x12 4 → exec (.mgath u) s =
       .next (State.wr { (s.mark 2 i).wr A.tagOut tag 1 with mme := s.mme ++ [s.pMmeReq u k t .gather (a - a % 4)] }
         A.mmeSerial e serial))) ∧
   (s.replaying k = true →
     (s.PortSends u k t 0x10 4 → exec (.mrd u) s = .next ((s.mark 2 i).wr A.tagOut tag 1)) ∧
     (s.PortSends u k t 0x11 4 → exec (.mwr u) s = .next (s.mark 2 i)) ∧
     (s.PortSends u k t 0x12 4 → exec (.mgath u) s = .next ((s.mark 2 i).wr A.tagOut tag 1)))) ∧
  (∀ (s : State) (u : CourseLoc) (k t : Nat),
   let w := s.pWord u t
   let i := courseIx u
   let cw := s.pAddr u t 2
   let q := 128 * (i / 256) + slice cw 16 7
   let n := (s.pBits u t + 63) / 64
   let data := (List.range n).map fun j => slice (s.issueData i w) (64 * j) 64
   let word1 := s.rd A.pCycle k + 2 ^ 48 * t + 2 ^ 58 * s.rd A.epoch (i / 16)
   let word0 := slice cw 0 12 + 2 ^ 23 * (i % 16) + 2 ^ 27 * (i / 16 % 16) + 2 ^ 31 * (i / 256) + 2 ^ 34 * s.rd A.pPid k +
     2 ^ 43 * slice w 16 2 + 2 ^ 56 * slice w 44 4
   let gen := (s.rd A.gen (128 * i + slice w 18 7) + 1) % 16
   let word0r := word0 + 2 ^ 12 * gen + 2 ^ 16 * slice w 18 7 + 2 ^ 42 + 2 ^ 45 * slice w 25 9 + 2 ^ 54 * slice w 34 2
   let sent (v : State) (w0 : Nat) : State :=
     State.wr { v with packets := s.packets ++ [⟨q, deviceProducer, (w0 :: word1 :: data).map (slice · 0 64), true, false,
       false⟩] } A.calls (i / 16) (s.rd A.calls (i / 16) + 1)
   let waiting (v : State) (w0 : Nat) : State :=
     State.addCause { v with portalMsg := s.portalMsg ++ [⟨k, i, q, w0 :: word1 :: data⟩] } k 4
   let v := s.mark 2 i
   let vr : State := { (v.wr A.gen (128 * i + slice w 18 7) gen).wr A.tagOut (128 * i + slice w 18 7) 1 with
     portalRec := s.portalRec ++ [⟨i, slice w 18 7, slice cw 0 12, gen, s.rd A.epoch (i / 16), 16 * i + slice w 40 4,
       slice w 36 4, 2 ^ slice w 16 2, (s.rd A.pCycle k + slice w 34 2) % 4, slice w 25 9 + 2 ^ 9 * slice w 34 2,
       s.rd A.pCycle k⟩] }
   let takes : Prop := s.qEn q = true ∧ s.qClass q = 1 ∧ s.qOwner q = some (s.rd A.pPid k) ∧ s.qUsed q + 2 + n ≤ s.qWords q
   s.replaying k = false →
   (s.PortSends u k t 0x18 2 →
     (takes → s.on A.qPtrBad q = false → exec (.call u) s = .next (sent v word0)) ∧
     (¬ takes → exec (.call u) s = .next (waiting v word0))) ∧
   (s.PortSends u k t 0x19 2 →
     (takes → s.on A.qPtrBad q = false → exec (.callr u) s = .next (sent vr word0r)) ∧
     (¬ takes → exec (.callr u) s = .next (waiting vr word0r))))

/-- BAY_DUT_STEP performs every request of the previous step (R183): each read returns the low L bits of its word as it
stood before the writes; then each word that a request writes holds its data in its low L bits, and every other bay
word is as before. Requests of several steps, two writes of one word, stored errors (R184 to R186), a test by Newt
(R191) and a snapshot in progress (R255) are not covered. BAYRD_DELIVERY writes the oldest due line of the port unit
into its bank of the port store (R45, R50). Service accesses of intact words, with no DUT access beside them and no
test by Newt (R187 to R190): for an initiator that may act on the wall, a read of 4, 8 or 32 bytes answers OK with
them, the lowest word first, and changes nothing but the answer; a write of 8 or 32 bytes stores them, one of 4 bytes
merges them. Another initiator, and any other size or alignment, is DENIED and changes nothing. A write that a recorder
logs or that a snapshot in progress saves first (R255, R257) is not covered. -/
def Obligations.BayAccesses : Prop :=
  (∀ (s : State) (w : WallLoc),
   let due := s.bayDue (wallIx w)
   let key (r : BayReq) : Nat := bayKey (wallIx w) r.addr
   s.clocked = true → s.snaps = [] → (∀ r ∈ due, s.errOf A.bay (key r) = 0) → (∀ a, s.newtServes (wallIx w) a = none) →
   (∀ r ∈ due, ∀ x ∈ due, r.cyc = x.cyc ∧ r.step = x.step) →
   (due.filter (·.write)).Pairwise (fun a b => key a ≠ key b) →
   Completes (exec (.bayDutStep w) s) fun t =>
     t.bayReq = s.bayReq.filter (fun r => ¬ s.bayReqDue (wallIx w) r) ∧
     (∀ r ∈ due, r.write = false → ⟨r.slot, r.course, r.cyc, r.step, r.bed, r.line, r.bank, s.rd A.bay (key r) % 2 ^ r.len,
       r.due⟩ ∈ t.bayRet) ∧
     (∀ r ∈ due, r.write = true → t.rd A.bay (key r) = patch (s.rd A.bay (key r)) 0 r.len r.data % 2 ^ 64) ∧
     (∀ j, (∀ r ∈ due, r.write = true → key r ≠ j) → t.rd A.bay j = s.rd A.bay j) ∧
     t.mem = s.mem ∧ t.packets = s.packets ∧ t.histPend = s.histPend) ∧
  (∀ (s : State) (u : CourseLoc) (r : BayRet) (before after : List BayRet),
   s.clocked = true → s.bayRet = before ++ r :: after → (∀ x ∈ before, s.bayRetDue (courseIx u) x = false) →
   s.bayRetDue (courseIx u) r = true → r ∉ before →
   Completes (exec (.bayrdDelivery u) s) fun t =>
     t.bayRet = before ++ after ∧
     t.rd A.port (portKey r.bed r.bank r.line) = r.data % 2 ^ 64 ∧
     t.rd A.portDue (portKey r.bed r.bank r.line) = r.due % 2 ^ 11 ∧
     (∀ j, j ≠ portKey r.bed r.bank r.line → t.rd A.port j = s.rd A.port j) ∧
     (∀ i < 16, (t.rd A.portP (4 * r.bed + r.bank)).testBit i =
       ((s.rd A.portP (4 * r.bed + r.bank)).testBit i || decide (i = r.line))) ∧
     t.mem = s.mem ∧ t.bayReq = s.bayReq) ∧
  (∀ (s : State) (who : Who) (w : WallLoc) (off : Fin 0x100000) (data : BitVec 256),
   let o : Nat := off
   let i := bayKey (wallIx w) (o / 8)
   let old := s.rd A.bay i
   let key (j : Nat) : Nat := bayKey (wallIx w) (o / 8 + j)
   let quad := (List.range 4).foldl (fun v j => v + 2 ^ (64 * j) * s.rd A.bay (key j)) 0
   s.ServingDom who w.die domMem → s.BayIdle (wallIx w) → (∀ j < 4, s.newtServes (wallIx w) (o / 8 + j) = none) →
   (∀ size, bayAccOk o size = false ∨ s.mayWall who (wallIx w) = false →
     exec (.bayServiceRead who w off size) s = .next (s.ans 1 0) ∧
     exec (.bayServiceWrite who w off size data) s = .next (s.ans 1 0)) ∧
   (s.mayWall who (wallIx w) = true → s.errOf A.bay i = 0 →
     (o % 8 = 0 → exec (.bayServiceRead who w off .b8) s = .next (s.ans 0 old)) ∧
     (o % 4 = 0 → exec (.bayServiceRead who w off .b4) s = .next (s.ans 0 (slice old (8 * (o % 8)) 32))) ∧
     (o % 32 = 0 → (∀ j < 4, s.errOf A.bay (key j) = 0) → exec (.bayServiceRead who w off .b32) s = .next (s.ans 0 quad)) ∧
     ((∀ k, s.slotOfWall (wallIx w) = some k → s.recording k = false ∧ s.snapOf k = none) →
       (o % 32 = 0 → Completes (exec (.bayServiceWrite who w off .b32 data) s) fun t =>
         (∀ j < 4, t.rd A.bay (key j) = slice data.toNat (64 * j) 64) ∧ t.rsp = ⟨0, 0, 0⟩ ∧
         (∀ x, (∀ j < 4, x ≠ key j) → t.rd A.bay x = s.rd A.bay x) ∧ t.mem = s.mem ∧ t.packets = s.packets) ∧
       (o % 8 = 0 → exec (.bayServiceWrite who w off .b8 data) s = .next ((s.wrE A.bay i (slice data.toNat 0 64)).ans 0 0)) ∧
       (o % 4 = 0 → exec (.bayServiceWrite who w off .b4 data) s =
         .next ((s.wrE A.bay i (patch old (8 * (o % 8)) 32 data.toNat)).ans 0 0)))))

/-- A start command that is refused changes nothing but its RESULT, which shows the first case that applies: 4 DENIED,
1 STATE, 5 IMMEDIATE, 6 LIMIT, 3 PLUMB_CONFIG, 2 LINK_CAPACITY; STOP and STOP_NOW are refused with 4 and 1 (R465). A
start that is not refused clears FAULT_STATUS and enters RUN before its first emulated cycle, with the gate rounds of
R149 ahead when the partition was IDLE; a STOP adds its stop at the end of the emulated cycle, a STOP_NOW during a step
lets that step complete (R27, R149, R171, R181, R465). A start while Newt tests the partition's beds (R198), one during
a change of the performance level (R411), and one that restored lines follow (R266), are not covered. Partition reset
(R436, R437, R494) of a loaded slot by an initiator that may: the partition is IDLE at emulated cycle 0 before its
first start, its counters and fault registers are clear, it pulls G((0 - 65) mod 3), and no hold cause is left but
SOFTWARE where SWHOLD stays 1. The boot controller, the physical function, an unbound core and the partition's virtual
function may; another initiator is DENIED. -/
def Obligations.PartitionCommands : Prop :=
  (∀ (s : State) (who : Who) (slot : Fin 32),
   let k : Nat := slot
   let st := s.rd A.pState k
   let startable := st = 1 ∨ st = 4 ∧ s.rf (P k) FAULT_STATUS_IMMEDIATE ≠ 1 ∧ s.on A.pLimit k = false
   s.Serving who →
   (s.maySlot who k = false →
     exec (.start who slot) s = .next (s.cmdAnswer k 4) ∧ exec (.stop who slot) s = .next (s.cmdAnswer k 4) ∧
     exec (.stopNow who slot) s = .next (s.cmdAnswer k 4)) ∧
   (s.maySlot who k = true →
     (st ≠ 1 ∧ st ≠ 4 → exec (.start who slot) s = .next (s.cmdAnswer k 1)) ∧
     (st = 4 ∧ s.rf (P k) FAULT_STATUS_IMMEDIATE = 1 → exec (.start who slot) s = .next (s.cmdAnswer k 5)) ∧
     (st = 4 ∧ s.rf (P k) FAULT_STATUS_IMMEDIATE ≠ 1 ∧ s.on A.pLimit k = true →
       exec (.start who slot) s = .next (s.cmdAnswer k 6)) ∧
     (startable ∧ s.plumbBad k = true → exec (.start who slot) s = .next (s.cmdAnswer k 3)) ∧
     (startable ∧ s.plumbBad k = false ∧ s.capacityShort k = true → exec (.start who slot) s = .next (s.cmdAnswer k 2)) ∧
     (st ≠ 2 ∧ st ≠ 3 → exec (.stop who slot) s = .next (s.cmdAnswer k 1) ∧
       exec (.stopNow who slot) s = .next (s.cmdAnswer k 1)))) ∧
  (∀ (s : State) (who : Who) (slot : Fin 32),
   let k : Nat := slot
   s.Serving who → s.maySlot who k = true →
   (s.startCheck k = 0 → ((s.wallsOf k).any fun w => s.newtOnBeds w) = false → s.startLines = [] → s.holdSeen k = false →
     s.rd A.plPhase 0 = 0 → Completes (exec (.start who slot) s) fun t =>
       t.rd A.pState k = 2 ∧ t.reg (P k + oFAULT_STATUS) = 0 ∧ t.rf (P k) PART_CMD_RESULT = 0 ∧ t.rd A.pStep k = 0 ∧
       t.rd A.pBegun k = 0 ∧ t.rd A.pGate k = 0 ∧ t.rd A.pRound k = (if s.rd A.pState k = 1 then 1 else 0) ∧
       t.rd A.pCycle k = s.rd A.pCycle k ∧ t.rsp = ⟨0, 0, 0⟩ ∧ t.causes = s.causes ∧ t.mem = s.mem) ∧
   (s.rd A.pState k = 2 ∨ s.rd A.pState k = 3 → exec (.stop who slot) s =
     .next (State.cmdAnswer { s with stops := s.stops ++ [⟨k, s.stopCycle k, 0, true⟩] } k 0)) ∧
   (s.rd A.pState k = 2 → s.preFirst k = false → s.on A.pGate k = false → s.on A.pLaunchWait k = false →
     s.rd A.pMembers k ≤ 1 → exec (.stopNow who slot) s = .next ((s.wr A.pImm k 1).cmdAnswer k 0))) ∧
  (∀ (s : State) (who : Who) (slot : Fin 32),
   let k : Nat := slot
   let may := match who with
     | .vf _ => s.maySlot who k
     | _ => s.pfRights who
   s.Serving who →
   (may = false → exec (.partReset who slot) s = .next (s.ans 1 0)) ∧
   (may = true → s.loaded k = true →
     Completes (exec (.partReset who slot) s) fun t =>
       t.rsp = ⟨0, 0, 0⟩ ∧ t.rd A.pState k = 1 ∧ t.rd A.pCycle k = 0 ∧ t.rd A.pStep k = 0 ∧ t.rd A.pBegun k = 0 ∧
       t.reg (P k + oFAULT_STATUS) = 0 ∧ t.reg (P k + oFAULT_COUNT) = 0 ∧ t.reg (P k + oSEVER_INFO) = 0 ∧
       t.pair (P k + oHOLD_TIME_LO) = 0 ∧ t.pair (P k + oGATE_WAIT_LO) = 0 ∧ t.rf (P k) HOLD_COUNT_COUNT = 0 ∧
       t.rd A.gatePull k = 2 ∧
       (∀ c, t.hasCause k c = true ↔ c = 5 ∧ t.rf (P k) HOLD_CTRL_SWHOLD = 1)))

/-- The gate (R149): a member that waits to begin c begins it only once G((c+1) mod 3) reads clear; it then pulls G(c
mod 3) alone and performs step 0. In round r of a start, it waits until G((c+2+r) mod 3) reads clear and then pulls
G((c+1+r) mod 3), counts modulo 3 with c for c0 - 67. END_OF_CYCLE_COMMIT at step D+12 of n, below the counter's limit,
without a stop or a hold and with nothing on its way to a bay or a landing, counts the emulated cycle and waits at the
gate (R14, R28, R149). The commit's own actions (R14, R17, R21, R47). D+3: without a stored error or a snapshot, every
state row of the partition takes its shadow, and no other row changes. D+7: the edge sequencer advances and wraps at
its length. D+9: the presence flags of landing bank n mod 2 and of port bank n mod 4 of the partition clear, and no
others. -/
def Obligations.GateAndCommit : Prop :=
  (∀ (s : State) (slot : Fin 32) (others : BitVec 4),
   let k : Nat := slot
   let c := s.rd A.pCycle k
   let r := s.rd A.pRound k
   s.clocked = true → s.rd A.pState k = 2 → s.holdSeen k = false → s.replaying k = false →
   (s.on A.pGate k = true →
     ((s.combined k others.toNat).testBit (1 + (c + 1) % 3) = true → exec (.cycleBegin slot others) s = .next s) ∧
     ((s.combined k others.toNat).testBit (1 + (c + 1) % 3) = false →
       Completes (exec (.cycleBegin slot others) s) fun t =>
         t.rd A.gatePull k = 2 ^ (c % 3) ∧ t.rd A.pGate k = 0 ∧ t.rd A.pStep k = 0 ∧ t.rd A.pBegun k = 1 ∧
         t.rd A.pCycle k = c ∧ (∀ d, t.rd A.recCnt (32 * d + k) = 0) ∧ t.mem = s.mem)) ∧
   (1 ≤ r →
     ((s.combined k others.toNat).testBit (1 + (c + 2 + r) % 3) = true → exec (.gateRound slot others) s = .next s) ∧
     ((s.combined k others.toNat).testBit (1 + (c + 2 + r) % 3) = false →
       Completes (exec (.gateRound slot others) s) fun t =>
         t.rd A.gatePull k = 2 ^ ((c + 1 + r) % 3) ∧ (r < 64 → t.rd A.pRound k = r + 1) ∧
         (64 ≤ r → t.rd A.pRound k = 0) ∧ t.rd A.pCycle k = c ∧ t.mem = s.mem))) ∧
  (∀ (s : State) (slot : Fin 32),
   let k : Nat := slot
   let n := s.rd A.pCycle k
   s.clocked = true → s.committing k = true → s.rd A.pStep k = s.rd A.pDepth k + 12 → s.rd A.pDepth k ≤ 512 →
   s.replaying k = false → s.on A.pImm k = false → (s.stops.filter fun x => x.slot = k) = [] → n + 1 < 2 ^ 48 →
   s.bayReq = [] → s.bayRet = [] → (∀ b ∈ s.flight, b.slot ≠ k) →
   Completes (exec (.endOfCycleCommit slot) s) fun t =>
     t.rd A.pCycle k = n + 1 ∧ t.rd A.pGate k = 1 ∧ t.rd A.pState k = 2 ∧ t.rd A.pStep k = s.rd A.pDepth k + 15 ∧
     t.rd A.gateTimer k = 0 ∧ (∀ i, t.reg i = s.reg i) ∧ (∀ i, t.rd A.state i = s.rd A.state i) ∧ t.mem = s.mem ∧
     t.packets = s.packets) ∧
  (∀ (s : State) (k n : Nat),
   ((∀ i, s.errOf A.shadow i = 0) → s.snaps = [] → ∀ i,
     (s.slotOfBed (i / 256) = some k → (s.commitAct k n 3).rd A.state i = s.rd A.shadow i) ∧
     (s.slotOfBed (i / 256) ≠ some k → (s.commitAct k n 3).rd A.state i = s.rd A.state i) ∧
     (s.commitAct k n 3).rd A.hist i = s.rd A.hist i) ∧
   (s.on A.esReloaded k = false → s.rd A.esIdx k + 1 < 2 ^ 12 →
     (s.commitAct k n 7).rd A.esIdx k = if s.rd A.esLen k ≤ s.rd A.esIdx k + 1 then 0 else s.rd A.esIdx k + 1) ∧
   (∀ i, (s.commitAct k n 9).rd A.landP i =
     if i / 512 % 2 = n % 2 ∧ s.slotOfBed (i / 1024) = some k then 0 else s.rd A.landP i) ∧
   (∀ i, (s.commitAct k n 9).rd A.portP i =
     if i % 4 = n % 4 ∧ s.slotOfBed (i / 4) = some k then 0 else s.rd A.portP i))

/-- Holds (R136 to R140): a member that observes HOLD in an evaluation step completes that step, and at the gate enters
HELD; in every other state it notes whether HOLD reads asserted; a write of HOLD_CTRL sets SWHOLD and makes cause
SOFTWARE follow it; when no cause of this device is left and the combined HOLD reads clear, the holder goes on with its
frozen step and another member with the step after the one it completed. A hold or a wait at the gate that reaches
HOLD_LIMIT raises HOLD_TIMEOUT with the cause and the item shown, or GATE_TIMEOUT; the member then pulls HOLD, as cause
7, and all three gate phases (R153, R154). Before the limit nothing happens. -/
def Obligations.HoldsAndTimeouts : Prop :=
  (∀ (s : State) (slot : Fin 32) (others : BitVec 4) (who : Who) (val : Word),
   let k : Nat := slot
   let pulled := (s.combined k others.toNat).testBit 0
   s.clocked = true →
   (s.rd A.pState k = 2 → pulled = true → s.evaluating k = true →
     exec (.holdObserved slot others) s = .next (s.wr A.remoteHold k 1)) ∧
   (s.rd A.pState k = 2 → pulled = true → s.on A.pGate k = true →
     Completes (exec (.holdObserved slot others) s) fun t =>
       t.rd A.pState k = 3 ∧ t.rd A.remoteHold k = 1 ∧ t.rd A.holdTimer k = 0 ∧ t.rd A.pStep k = s.rd A.pStep k ∧
       t.rf (P k) HOLD_COUNT_COUNT = min 0xFFFFFFFF (s.rf (P k) HOLD_COUNT_COUNT + 1)) ∧
   (s.rd A.pState k = 3 → (s.causes.any fun c => c.1 = k) = false → pulled = false → s.replaying k = false →
     Completes (exec (.holdRelease slot others) s) fun t =>
       t.rd A.remoteHold k = 0 ∧ t.mem = s.mem ∧
       (s.preFirst k = true ∨ s.on A.pGate k = true → t.rd A.pState k = 2 ∧ t.rd A.pStep k = s.rd A.pStep k) ∧
       (s.preFirst k = false → s.on A.pGate k = false → s.rd A.pStep k + 1 < 2 ^ 10 →
         t.rd A.pStep k = if s.on A.pFrozen k then s.rd A.pStep k else s.rd A.pStep k + 1)) ∧
   (s.rd A.pState k = 2 → exec (.holdRelease slot others) s = .next s) ∧
   (s.rd A.pState k ≠ 2 → s.rd A.pState k ≠ 3 →
     exec (.holdRelease slot others) s = .next (if pulled then s else s.wr A.remoteHold k 0) ∧
     (s.loaded k = true → pulled = true → exec (.holdObserved slot others) s = .next (s.wr A.remoteHold k 1))) ∧
   (s.Serving who →
     (s.maySlot who k = false → exec (.swholdWrite who slot val) s = .next (s.ans 1 0)) ∧
     (s.maySlot who k = true →
       Completes (exec (.swholdWrite who slot val) s) fun t =>
         t.rf (P k) HOLD_CTRL_SWHOLD = val.toNat % 2 ∧ t.rsp = ⟨0, 0, 0⟩ ∧
         (t.hasCause k 5 = true ↔ val.toNat % 2 = 1 ∨ s.on A.lnHold k = true) ∧
         (∀ j c, (j, c) ≠ (k, 5) → t.hasCause j c = s.hasCause j c)))) ∧
  (∀ (s : State) (slot : Fin 32),
   let k : Nat := slot
   s.clocked = true →
   (s.rd A.pState k = 3 →
     (s.rd A.holdTimer k < s.rd A.limitNow k * 100 → exec (.holdTimeout slot) s = .next s) ∧
     (s.rd A.limitNow k * 100 ≤ s.rd A.holdTimer k →
       Completes (exec (.holdTimeout slot) s) fun t =>
         t = (s.fault k 0x31 (s.lateLoc k) .i ((s.holdItem k).1 + 2 ^ 32 * slice (s.holdItem k).2 0 15 +
           2 ^ 48 * s.oldestCause k)).timedOut k ∧ t.hasCause k 7 = true ∧ t.rd A.gatePull k = 7)) ∧
   (s.gateWaiting k = true →
     (s.rd A.gateTimer k < s.rd A.limitNow k * 100 → exec (.gateTimeout slot) s = .next s) ∧
     (s.rd A.limitNow k * 100 ≤ s.rd A.gateTimer k →
       Completes (exec (.gateTimeout slot) s) fun t =>
         t = (s.fault k 0x32 Loc.device .i 0).timedOut k ∧ t.hasCause k 7 = true ∧ t.rd A.gatePull k = 7)))

/-- The plumb tree (R150): the state that the parent sends down is the combined state, and goes on to every child; the
state of a child enters the upward state of this device, which is sent when it has changed. A symbol from any other
port changes nothing but the time at which the port was heard. Loss of a member and stops elsewhere (R157, R158, R173).
SEVER and stop notices go on over every other tree port that is up. The member that SEVER names, and a bus partner's
roll-call loss (reason 2, the lost device known by its bus position), enter SEVERED: SEVER_INFO shows the values, the
log a MEMBER_LOST record, its events 0x500 + k and 0x540 + k rise, and it pulls HOLD and every gate phase. A member
that a notice names records MEMBER_STOPPED, in FAULT_STATUS too where it is the first, with the notice's code and the
stopping device; it stops at once, or at the end of n or of its own emulated cycle. What of a partition that cannot
stop is the model's reading (log 26). `FaultRecords` says what a record is. -/
def Obligations.PlumbAndLosses : Prop :=
  (∀ (s : State) (port : Fin 16) (pid : BitVec 8) (st : BitVec 4),
   let p : Nat := pid.toNat
   let u := s.wr A.ptSeen port s.mono
   s.clocked = true →
   (s.treeParent = some port.val → exec (.plumbDown port pid st) s = .next
     { u.wr A.plumbDown p st.toNat with
       symOut := s.symOut ++ (s.treeChildren.filter s.portUp).map fun c => ⟨c, none, .plumbDown p st.toNat⟩ }) ∧
   (s.treeParent ≠ some port.val → exec (.plumbDown port pid st) s = .next u) ∧
   (s.treeChildren.contains port.val = true →
     Completes (exec (.plumbUp port pid st) s) fun t =>
       t.rd A.plumbUp (256 * port + p) = st.toNat ∧ t.rd A.plumbSent p % 16 = t.plumbMine p % 16 ∧
       (∀ q, q ≠ p → t.rd A.plumbSent q = s.rd A.plumbSent q) ∧ t.causes = s.causes ∧ t.mem = s.mem) ∧
   ((s.rf 0 CHAIN_TREE_CHILDREN).testBit port = false → exec (.plumbUp port pid st) s = .next u)) ∧
  (∀ (s : State) (port pos : Fin 16) (slot : Fin 32) (pid code : BitVec 8)
     (lost dev detector : BitVec 12) (reason : BitVec 2) (imm : Bool) (cyc : BitVec 27),
   let k : Nat := slot
   let st := s.rd A.pState k
   let fresh := s.rf (P k) FAULT_STATUS_VALID = 0
   let relay (y : Sym) : State := { s.wr A.ptSeen port s.mono with
     symOut := s.symOut ++ (s.treePorts.filter fun q => q ≠ port.val ∧ s.portUp q).map fun q => ⟨q, none, y⟩ }
   let up (t : State) (src : Nat) : Prop := (t.reg (oEVT_STATUS + 4 * (src / 32))).testBit (src % 32) = true
   let severed (t : State) (info : Nat) (out : List SymOut) : Prop :=
     t.rd A.pState k = 5 ∧ t.reg (P k + oSEVER_INFO) = info ∧ t.pulls k = 15 ∧ out <+: t.symOut ∧
     up t (0x500 + k) ∧ up t (0x540 + k) ∧ t.mem = s.mem ∧ (∀ x ∈ t.stops, x.slot ≠ k) ∧
     (fresh → t.rf (P k) FAULT_STATUS_FIRST_CODE = 0x33 ∧ t.rf (P k) FAULT_STATUS_FIRST_FROM = s.chainAddr ∧
       t.rf (P k) FAULT_STATUS_VALID = 1)
   let losing (y : Sym) : List SymOut := s.symOut ++ (s.treePorts.filter s.portUp).map fun q => ⟨q, none, y⟩
   let onBus := s.plumbMode k = 1 ∧ 1 < s.rd A.pMembers k ∧ st ≠ 0 ∧ pos.val ≠ s.rf 0 PLUMB_BUS_STATUS_BUS_POS
   s.clocked = true →
   (s.slotOfPid pid.toNat = none →
     exec (.sever port pid lost reason detector) s =
       .next (relay (.sever pid.toNat lost.toNat reason.toNat detector.toNat)) ∧
     exec (.stopNotice port pid code imm dev cyc) s =
       .next (relay (.stopNotice pid.toNat code.toNat imm dev.toNat cyc.toNat))) ∧
   (s.slotOfPid pid.toNat = some k →
     let y : Sym := .sever pid.toNat lost.toNat reason.toNat detector.toNat
     (st = 5 → exec (.sever port pid lost reason detector) s = .next (relay y)) ∧
     (st ≠ 5 → Completes (exec (.sever port pid lost reason detector) s) fun t => severed t
       (lost.toNat + 2 ^ 12 * reason.toNat + 2 ^ 14 * port + 2 ^ 18 + 2 ^ 19 * detector.toNat) (relay y).symOut)) ∧
   (¬ onBus → exec (.rollCallLoss slot pos) s = .next s) ∧
   (onBus → st ≠ 5 → Completes (exec (.rollCallLoss slot pos) s) fun t =>
     severed t (pos + 2 ^ 12 * 2 + 2 ^ 19 * s.chainAddr) (losing (.sever (s.rd A.pPid k) pos 2 s.chainAddr)) ∧
     t.rf 0 PLUMB_BUS_STATUS_PRESENT = patch (s.rf 0 PLUMB_BUS_STATUS_PRESENT) pos 1 0) ∧
   (s.slotOfPid pid.toNat = some k →
     let n := max (nearest 27 (s.posCycle k) cyc.toNat) (s.posCycle k)
     let act := if st ≠ 2 ∧ st ≠ 3 then 0 else if imm then 2 else 1
     let v := (((relay (.stopNotice pid.toNat code.toNat imm dev.toNat cyc.toNat)).record k 3 Loc.device (s.posCycle k)
       (s.posStep k) act (dev.toNat + 2 ^ 12 * code.toNat + 2 ^ 20 * bit imm)).firstFault k
         (if code = 0 then 3 else code.toNat) dev.toNat).raise (0x500 + k)
     let done := exec (.stopNotice port pid code imm dev cyc) s
     up v (0x500 + k) ∧
     (fresh → v.rf (P k) FAULT_STATUS_FIRST_CODE = (if code = 0 then 3 else code.toNat) ∧
       v.rf (P k) FAULT_STATUS_FIRST_FROM = dev.toNat ∧ v.rf (P k) FAULT_STATUS_VALID = 1) ∧
     (st ≠ 2 → st ≠ 3 → done = .next v) ∧
     (imm = false → st = 2 ∨ st = 3 →
       (s.on A.pGate k = true → s.rd A.pBegun k = 1 → n = s.posCycle k → Completes done fun t => t.rd A.pState k = 4 ∧
         t.rf (P k) FAULT_STATUS_IMMEDIATE = 0 ∧ t.rf (P k) FAULT_STATUS_STOP_STEP = (s.rd A.pDepth k + 15) % 2 ^ 10) ∧
       (s.on A.pGate k = false ∨ s.rd A.pBegun k = 0 ∨ n ≠ s.posCycle k →
         done = .next { v with stops := v.stops ++ [⟨k, n, code.toNat, false⟩] })) ∧
     (imm = true →
       (st = 3 ∨ st = 2 ∧ (s.rd A.pBegun k = 0 ∨ s.on A.pGate k = true ∨ s.on A.pLaunchWait k = true) →
         Completes done fun t => t.rd A.pState k = 4 ∧ t.rf (P k) FAULT_STATUS_IMMEDIATE = 1) ∧
       (st = 2 → s.rd A.pBegun k ≠ 0 → s.on A.pGate k = false → s.on A.pLaunchWait k = false →
         done = .next (v.wr A.pImm k 1)))))

/-- What a write of a register does to its fields of the types RW, W1C, W1S, RO and RC (R9): RW takes the value, W1C
clears and W1S sets the bits written as 1, RO and RC ignore the write; reserved bits and every other register stay
(R10). Fields of the types WL, RWT and WO take nothing here: those have operations of their own. Register accesses as
commands (R9, R10): a write of WAKE_CFG by an initiator with the physical function's rights sets its fields, one by
another initiator is DENIED; a read of BAY_ECC_COUNT shows both counters and clears them (RC); reads of unassigned
offsets, inside a block or outside every block, answer 0, writes of them are ignored, both with status OK. WL
(SEC_LOCK, TAMPER_CFG): the first write sets and locks; a later one changes no field, and is counted in LOCK_VIOLATION
with its offset and the security event (R362). RWT (FAULT_CFG, ESEQ_RELOAD): a write does what an RWT write does. The
LO/HI pair rules (R11), on the pairs REC_DUMP_FROM and REC_DUMP_TO of a slot that the initiator may act on: a write of
LO is held and changes no register; a write of HI takes effect on both halves at once with the LO held, or, with none,
with the LO at hand; a read of LO latches HI, and the next read of HI returns and consumes the latch. -/
def Obligations.RegisterWritesAndReads : Prop :=
  (∀ (s : State) (p : Place) (off v : Nat),
   let t := s.putFields p off v
   (∀ f ∈ p.flds,
     let cur := slice (s.reg off) f.lo f.w
     let new := slice v f.lo f.w
     slice (t.reg off) f.lo f.w = (match f.acc with
       | .rw => new
       | .w1c => cur &&& ((2 ^ f.w - 1) ^^^ new)
       | .w1s => cur ||| new
       | _ => cur)) ∧
   (∀ i < 32, (∀ f ∈ p.flds, ¬ (f.lo ≤ i ∧ i < f.lo + f.w)) → (t.reg off).testBit i = (s.reg off).testBit i) ∧
   (∀ o, o ≠ off → t.reg o = s.reg o)) ∧
  (∀ (s : State) (who : Who) (die : Fin 8) (off : Nat) (val : Word),
   let b := D die + oBAY_ECC_COUNT
   s.Serving who →
   (s.pfRights who = true → exec (.registerWrite who oWAKE_CFG val) s =
     .next ((s.putFields ⟨.dev, 0, oWAKE_CFG⟩ oWAKE_CFG val.toNat).ans 0 0)) ∧
   (s.pfRights who = false → exec (.registerWrite who oWAKE_CFG val) s = .next (s.ans 1 0)) ∧
   (exec (.rcRead who b) s = .next ((s.wr A.reg b 0).ans 0 (s.reg b))) ∧
   (off < csrBase →
     placeOf off = none ∨ (∃ p, placeOf off = some p ∧ p.assigned = false) ∧ s.domOf off none = none ∧
       s.domOf off (some val.toNat) = none →
     exec (.rcRead who off) s = .next (s.ans 0 0) ∧ exec (.registerWrite who off val) s = .next (s.ans 0 0)) ∧
   (∀ x ∈ [(oSEC_LOCK, 7), (oTAMPER_CFG, 31)], (x.1 = oTAMPER_CFG → who = .boot) → s.pfRights who = true →
     (s.rd A.wlSet x.1 = 0 → Completes (exec (.registerWrite who x.1 val) s) fun t =>
       t.reg x.1 &&& x.2 = val.toNat &&& x.2 ∧ (∀ i, x.2.testBit i = false → (t.reg x.1).testBit i = (s.reg x.1).testBit i) ∧
       t.rd A.wlSet x.1 = x.2 ∧ (∀ o, o ≠ x.1 → t.reg o = s.reg o) ∧ t.rsp = ⟨0, 0, 0⟩) ∧
     (s.rd A.wlSet x.1 ≠ 0 → Completes (exec (.registerWrite who x.1 val) s) fun t =>
       t.reg x.1 = s.reg x.1 ∧ t.rf 0 LOCK_VIOLATION_COUNT = min 0xFFFF (s.rf 0 LOCK_VIOLATION_COUNT + 1) ∧
       t.reg oLOCK_VIOLATION_ADDR = x.1 ∧ (t.reg (oEVT_STATUS + 4 * (0x5BB / 32))).testBit (0x5BB % 32) = true ∧
       t.rsp = ⟨0, 0, 0⟩)) ∧
   (∀ k < 32, ∀ o ∈ [P k + oFAULT_CFG, P k + oESEQ_RELOAD],
     exec (.registerWrite who o val) s = exec (.rwtWrite who o val) s)) ∧
  (∀ (s : State) (who : Who) (slot : Fin 32) (val : Word),
   s.Serving who → s.maySlot who slot = true →
   ∀ lo ∈ [P slot + oREC_DUMP_FROM_LO, P slot + oREC_DUMP_TO_LO],
     exec (.lohiLoWrite who lo val) s = .next ((s.wr A.heldLo lo (2 ^ 32 + val.toNat)).ans 0 0) ∧
     exec (.lohiHiWrite who (lo + 4) val) s =
       .next ((((s.wr A.heldLo lo 0).wr A.reg lo
         (if (s.rd A.heldLo lo).testBit 32 then s.rd A.heldLo lo % 2 ^ 32 else s.reg lo)).wr A.reg (lo + 4)
           (val.toNat % 2 ^ 16)).ans 0 0) ∧
     exec (.lohiLoRead who lo) s = .next ((s.wr A.hiLatch lo (2 ^ 32 + s.reg (lo + 4))).ans 0 (s.reg lo)) ∧
     exec (.rcRead who (lo + 4)) s = .next
       (if (s.rd A.hiLatch lo).testBit 32 then (s.wr A.hiLatch lo 0).ans 0 (s.rd A.hiLatch lo % 2 ^ 32)
        else s.ans 0 (s.reg (lo + 4))))

/-- The bed access port (R53 to R55): a read that is served shows the entry in BED_ACC_DATA, and the presence flags of
a LAND or PORT entry in BED_ACC_PRES; a write that is served stores the data with new check bits, a write of STATE also
the shadow, and a write of LAND sets or clears the addressed flags or leaves them. GO sets BUSYACC; RESULT OK shows
when the access completes. A bed under test by Newt is covered by `AccessPortRefusals`. The word-unit access port
(R106): a served read shows the 48-bit word, a served write stores it with new check bits. The mortar access port
(R107, R117, R135): a served access reads or writes one table entry, or, with TABLE 7, the LANE_CFG of a lane: MREG,
and OWNER and OWNED where the lane has them of its own. -/
def Obligations.AccessPortTransfers : Prop :=
  (∀ (s : State) (who : Who) (die : Fin 8) (setP clrP : Bool),
   let a := bedAccOf die (s.reg (D die + oBED_ACC_LOC)) (s.reg (D die + oBED_ACC_INDEX))
   let arr := a.place.1
   let i := a.place.2
   let wall := a.bed / 256
   s.ServingDom who die domFab → s.rf (D die) BED_ACC_STATUS_BUSYACC = 0 → s.newtOnBed a.bed = false → a.badAddress = false →
   s.mayWall who wall = true →
   (s.wallServes wall false = true → (if a.store = 3 then s.rd A.landErr i = 0 else s.errOf arr i = 0) →
     (a.store = 4 → (s.rd A.portPErr (4 * a.bed + a.bank)).testBit a.index = false) → Completes (exec (.bedAccRead who die) s) fun t =>
     t.rf (D die) BED_ACC_STATUS_BUSYACC = 1 ∧ t.rd A.accRes (3 * die) = 0 ∧ t.bedData die = s.bedValue a % 2 ^ 128 ∧
     (a.store = 3 ∨ a.store = 4 → t.rf (D die) BED_ACC_PRES_PRES = s.bedFlags a) ∧
     (∀ x : Arr, x.code < 512 → x.code ≠ A.reg.code → x.code ≠ A.accRes.code → ∀ j, t.rd x j = s.rd x j) ∧ t.mem = s.mem) ∧
   (s.wallServes wall (a.store = 0 ∨ a.store = 6) = true → ¬ (setP ∧ clrP) →
     Completes (exec (.bedAccWrite who die setP clrP) s) fun t =>
       t.rf (D die) BED_ACC_STATUS_BUSYACC = 1 ∧ t.rd A.accRes (3 * die) = 0 ∧
       t.rd arr i = s.bedData die % 2 ^ arr.width ∧ (if a.store = 3 then t.rd A.landErr i = 0 else t.errOf arr i = 0) ∧ (∀ j, j ≠ i → t.rd arr j = s.rd arr j) ∧
       (a.store = 2 → t.rd A.shadow i = s.bedData die % 2 ^ 16) ∧
       (a.store = 3 →
         (setP = true → t.rd A.landP i = s.rd A.landP i ||| s.rf (D die) BED_ACC_PRES_PRES) ∧
         (clrP = true → t.rd A.landP i = s.rd A.landP i &&& (0xFFFF ^^^ s.rf (D die) BED_ACC_PRES_PRES)) ∧
         (setP = false → clrP = false → t.rd A.landP i = s.rd A.landP i)))) ∧
  (∀ (s : State) (who : Who) (die : Fin 8),
   let d := D die
   let bed := 4096 * die + 256 * s.rf d WU_ACC_LOC_WALL + 16 * s.rf d WU_ACC_LOC_COURSE + s.rf d WU_ACC_LOC_BED
   let i := 512 * bed + s.rf d WU_ACC_LOC_INDEX
   s.ServingDom who die domFab → s.rf d WU_ACC_STATUS_BUSYACC = 0 → s.newtOnBed bed = false → s.mayWall who (bed / 256) = true →
   (s.wallServes (bed / 256) false = true → s.errOf A.wimem i = 0 → Completes (exec (.wuAccRead who die) s) fun t =>
     t.rf d WU_ACC_DATA0_DATA = s.rd A.wimem i % 2 ^ 32 ∧ t.rf d WU_ACC_DATA1_DATA = s.rd A.wimem i / 2 ^ 32 ∧
     t.rf d WU_ACC_STATUS_BUSYACC = 1 ∧ t.rd A.accRes (3 * die + 1) = 0 ∧
     (∀ x : Arr, x.code < 512 → x.code ≠ A.reg.code → x.code ≠ A.accRes.code → ∀ j, t.rd x j = s.rd x j) ∧ t.mem = s.mem) ∧
   (s.wallServes (bed / 256) true = true → exec (.wuAccWrite who die) s =
     .next ((((s.wf d WU_ACC_STATUS_BUSYACC 1).wrE A.wimem i
       (s.rf d WU_ACC_DATA0_DATA + 2 ^ 32 * s.rf d WU_ACC_DATA1_DATA)).wr A.accRes (3 * die + 1) 0).ans 0 0))) ∧
  (∀ (s : State) (who : Who) (die : Fin 8) (kind lane : Nat) (cfg : Bool),
   let d := D die
   let step := s.rf d MORTAR_ACC_INDEX_STEP
   let v := if cfg ∨ kind = 6 then s.rf d MORTAR_ACC_DATA_DATA else s.rf d MORTAR_ACC_DATA_DATA % 2 ^ 16
   s.Serving who → s.domOn die domFab = true → s.domOn die domLink = true → s.rf d MORTAR_ACC_STATUS_BUSYACC = 0 →
   mortarPlace die (s.reg (d + oMORTAR_ACC_LOC)) = some (kind, lane, cfg) → s.mayLane who kind lane = true →
   (s.laneServes kind lane false = true → s.mortarBad kind lane step = false →
     Completes (exec (.mortarAccRead who die) s) fun t =>
       t.rf d MORTAR_ACC_DATA_DATA = (if cfg then s.laneCfg kind lane else s.rd (A.mTab kind) (512 * lane + step)) % 2 ^ 32 ∧
       t.rf d MORTAR_ACC_STATUS_BUSYACC = 1 ∧ t.rd A.accRes (3 * die + 2) = 0 ∧
       (∀ x : Arr, x.code < 512 → x.code ≠ A.reg.code → x.code ≠ A.accRes.code → ∀ j, t.rd x j = s.rd x j) ∧ t.mem = s.mem) ∧
   (s.mortarCheck who kind lane cfg v = 0 →
     (cfg = false → exec (.mortarAccWrite who die) s =
       .next ((((s.wf d MORTAR_ACC_STATUS_BUSYACC 1).wrE (A.mTab kind) (512 * lane + step) v).wr A.accRes (3 * die + 2) 0).ans
         0 0)) ∧
     (s.rf d MORTAR_ACC_LOC_TABLE = 7 → cfg = true → ∀ w : State,
       w = (if kind < 4 then (s.wf d MORTAR_ACC_STATUS_BUSYACC 1).wr (A.mReg kind) lane (slice v 0 1)
         else s.wf d MORTAR_ACC_STATUS_BUSYACC 1) →
       exec (.laneCfgWrite who die) s = .next (((if 3 ≤ kind then w.wr (A.mOwn kind) lane (slice v 8 9) else w).wr A.accRes
         (3 * die + 2) 0).ans 0 0))))

/-- RESULT of an access of the bed or the word-unit port that is refused names the first refusal of R491 that applies
and changes nothing else: 3 for the address, 2 DENIED, 1 BUSY, 3 for the data (R53, R54, R106). A write of GO with
BUSYACC = 1 is ignored (R56). When an access completes, RESULT shows and BUSYACC clears. An access of a bed that Newt
tests waits, with BUSYACC at 1, until the test is over (R198); that the port's registers are read then is the model's
choice (log 141). The mortar port refuses in the order of R491 (R107, R118, R135): 3 for a reserved TABLE code or a
lane outside its range, 2 DENIED for a lane that the initiator may not access, or for a change of OWNER or OWNED that
is not the physical function's, 1 BUSY, 3 for a reserved bit or an input outside its range, 6 CONFINE for an enabled
entry that selects an input, a source or a lane of another partition, and for an owner under whom an entry would. A
table entry with a parity error reads with RESULT 5. -/
def Obligations.AccessPortRefusals : Prop :=
  (∀ (s : State) (who : Who) (die : Fin 8) (setP clrP : Bool),
   let d := D die
   let a := bedAccOf die (s.reg (d + oBED_ACC_LOC)) (s.reg (d + oBED_ACC_INDEX))
   let wall := a.bed / 256
   let refused (r : Nat) : State := ((s.wf d BED_ACC_STATUS_BUSYACC 1).wr A.accRes (3 * die) r).ans 0 0
   let wbed := 4096 * die + 256 * s.rf d WU_ACC_LOC_WALL + 16 * s.rf d WU_ACC_LOC_COURSE + s.rf d WU_ACC_LOC_BED
   let refusedW (r : Nat) : Res := .next (((s.wf d WU_ACC_STATUS_BUSYACC 1).wr A.accRes (3 * die + 1) r).ans 0 0)
   let waitingW (f : Nat) : Res := .next (State.ans { s.wf d WU_ACC_STATUS_BUSYACC 1 with
     accWait := s.accWait ++ [(3 * die.val + 1, who, f)] } 0 0)
   (s.ServingDom who die domFab →
     (s.rf d BED_ACC_STATUS_BUSYACC = 1 → exec (.bedAccRead who die) s = .next (s.ans 0 0) ∧
       exec (.bedAccWrite who die setP clrP) s = .next (s.ans 0 0)) ∧
     (s.rf d WU_ACC_STATUS_BUSYACC = 1 → exec (.wuAccRead who die) s = .next (s.ans 0 0) ∧
       exec (.wuAccWrite who die) s = .next (s.ans 0 0)) ∧
     (s.rf d BED_ACC_STATUS_BUSYACC = 0 → s.newtOnBed a.bed = false →
       (a.badAddress = true → exec (.bedAccRead who die) s = .next (refused 3) ∧
         exec (.bedAccWrite who die setP clrP) s = .next (refused 3)) ∧
       (a.badAddress = false → s.mayWall who wall = false → exec (.bedAccRead who die) s = .next (refused 2) ∧
         exec (.bedAccWrite who die setP clrP) s = .next (refused 2)) ∧
       (a.badAddress = false → s.mayWall who wall = true →
         (s.wallServes wall false = false → exec (.bedAccRead who die) s = .next (refused 1)) ∧
         (s.wallServes wall (a.store = 0 ∨ a.store = 6) = false → exec (.bedAccWrite who die setP clrP) s =
           .next (refused 1)) ∧
         (s.wallServes wall (a.store = 0 ∨ a.store = 6) = true → setP = true → clrP = true →
           exec (.bedAccWrite who die setP clrP) s = .next (refused 3))))) ∧
   (s.ServingDom who die domFab → s.rf d BED_ACC_STATUS_BUSYACC = 0 → s.newtOnBed a.bed = true →
     exec (.bedAccRead who die) s = .next (State.ans { s.wf d BED_ACC_STATUS_BUSYACC 1 with
       accWait := s.accWait ++ [(3 * die.val, who, 0)] } 0 0) ∧
     exec (.bedAccWrite who die setP clrP) s = .next (State.ans { s.wf d BED_ACC_STATUS_BUSYACC 1 with
       accWait := s.accWait ++ [(3 * die.val, who, 1 + 2 * bit setP + 4 * bit clrP)] } 0 0)) ∧
   (s.ServingDom who die domFab → s.rf d WU_ACC_STATUS_BUSYACC = 0 →
     (s.newtOnBed wbed = true → exec (.wuAccRead who die) s = waitingW 0 ∧ exec (.wuAccWrite who die) s = waitingW 1) ∧
     (s.newtOnBed wbed = false → s.mayWall who (wbed / 256) = false →
       exec (.wuAccRead who die) s = refusedW 2 ∧ exec (.wuAccWrite who die) s = refusedW 2) ∧
     (s.newtOnBed wbed = false → s.mayWall who (wbed / 256) = true →
       (s.wallServes (wbed / 256) false = false → exec (.wuAccRead who die) s = refusedW 1) ∧
       (s.wallServes (wbed / 256) true = false → exec (.wuAccWrite who die) s = refusedW 1))) ∧
   (s.clocked = true → (∀ x ∈ s.accWait, x.1 ≠ 3 * die ∧ x.1 ≠ 3 * die + 1) →
     (s.rf d BED_ACC_STATUS_BUSYACC = 1 → Completes (exec (.bedAccDone die) s) fun t =>
       t.rf d BED_ACC_STATUS_RESULT = s.rd A.accRes (3 * die) ∧ t.rf d BED_ACC_STATUS_BUSYACC = 0) ∧
     (s.rf d WU_ACC_STATUS_BUSYACC = 1 → Completes (exec (.wuAccDone die) s) fun t =>
       t.rf d WU_ACC_STATUS_RESULT = s.rd A.accRes (3 * die + 1) ∧ t.rf d WU_ACC_STATUS_BUSYACC = 0) ∧
     (s.rf d MORTAR_ACC_STATUS_BUSYACC = 1 → Completes (exec (.mortarAccDone die) s) fun t =>
       t.rf d MORTAR_ACC_STATUS_RESULT = s.rd A.accRes (3 * die + 2) ∧ t.rf d MORTAR_ACC_STATUS_BUSYACC = 0))) ∧
  (∀ (s : State) (who : Who) (die : Fin 8) (kind lane : Nat) (cfg : Bool),
   let d := D die
   let data := s.rf d MORTAR_ACC_DATA_DATA
   let place := mortarPlace die (s.reg (d + oMORTAR_ACC_LOC))
   let step := s.rf d MORTAR_ACC_INDEX_STEP
   let entry := if kind = 6 then data else data % 2 ^ 16
   let done (r : Nat) : Res := .next (((s.wf d MORTAR_ACC_STATUS_BUSYACC 1).wr A.accRes (3 * die + 2) r).ans 0 0)
   let reserved := match kind with
     | 0 => entry.testBit 13
     | 1 => decide (slice entry 13 2 ≠ 0 ∨ 320 ≤ slice entry 0 13)
     | 2 => decide (slice entry 13 2 ≠ 0 ∨ 1280 ≤ slice entry 0 13)
     | 3 => decide (slice entry 13 2 ≠ 0 ∨ 5120 ≤ slice entry 0 13)
     | 4 => decide (slice entry 11 4 ≠ 0 ∨ 256 ≤ lane % 512 ∧ 1024 ≤ slice entry 0 11)
     | 5 => decide (slice entry 11 4 ≠ 0)
     | _ => decide (slice entry 9 3 ≠ 0)
   let foreign (pid : Nat) : Bool :=
     if kind = 6 then (s.slotOfWall (recvWall entry)).all fun k => decide (s.rd A.pPid k ≠ pid)
     else (selectedLane kind lane entry).any fun x => decide (s.laneOwner x.1 x.2 ≠ some pid)
   let owned := s.wr (A.mOwn kind) lane (slice data 8 9)
   let moves := 3 ≤ kind ∧ slice data 8 9 ≠ s.rd (A.mOwn kind) lane
   s.Serving who → s.domOn die domFab = true → s.domOn die domLink = true →
   (s.rf d MORTAR_ACC_STATUS_BUSYACC = 1 → exec (.mortarAccRead who die) s = .next (s.ans 0 0) ∧
     exec (.mortarAccWrite who die) s = .next (s.ans 0 0)) ∧
   (s.rf d MORTAR_ACC_STATUS_BUSYACC = 0 →
     (place = none → exec (.mortarAccRead who die) s = done 3 ∧ exec (.mortarAccWrite who die) s = done 3) ∧
     (place = some (kind, lane, cfg) → s.mayLane who kind lane = false →
       exec (.mortarAccRead who die) s = done 2 ∧ exec (.mortarAccWrite who die) s = done 2) ∧
     (place = some (kind, lane, cfg) → s.mayLane who kind lane = true →
       (s.laneServes kind lane false = false → exec (.mortarAccRead who die) s = done 1) ∧
       (cfg = false → s.laneServes kind lane false = true → s.mortarBad kind lane step = true →
         Completes (exec (.mortarAccRead who die) s) fun t => t.rd A.accRes (3 * die + 2) = 5) ∧
       (cfg = false → s.laneServes kind lane true = false → exec (.mortarAccWrite who die) s = done 1) ∧
       (cfg = false → s.laneServes kind lane true = true →
         (reserved = true → exec (.mortarAccWrite who die) s = done 3) ∧
         (∀ pid, reserved = false → s.laneOwner kind lane = some pid → mEn kind entry = true → foreign pid = true →
           exec (.mortarAccWrite who die) s = done 6)) ∧
       (cfg = true → s.rf d MORTAR_ACC_LOC_TABLE = 7 →
         (moves → s.pfRights who = false → exec (.laneCfgWrite who die) s = done 2) ∧
         (moves → s.pfRights who = true →
           (s.laneServes kind lane true = false → exec (.laneCfgWrite who die) s = done 1) ∧
           (s.laneServes kind lane true = true →
             (slice data 1 7 ≠ 0 ∨ slice data 19 13 ≠ 0 → exec (.laneCfgWrite who die) s = done 3) ∧
             (slice data 1 7 = 0 → slice data 19 13 = 0 →
               (∃ x ∈ s.tableEntries kind, x.1 = lane ∧ owned.entryConfined kind lane x.2.2 = false) ∨
               (∃ j ∈ [2, 3, 4, 5], ∃ x ∈ s.tableEntries j, selectedLane j x.1 x.2.2 = some (kind, lane) ∧
                 owned.entryConfined j x.1 x.2.2 = false) →
               exec (.laneCfgWrite who die) s = done 6)))))))

/-- An outbound lane performs the enabled entry of the step (R107 to R109, R113, R114): SRC = 0 sends the history bit
as R35 makes it readable by the lane, SRC = 1 the landing bit of bank n mod 2; the bit reaches the course switch 2
steps later, one more with MREG. A switch output or module position that is enabled at the step carries the bit on its
input to the stage that R113 and R114 give: one step on from a course or wall switch, two from a die switch, one more
with MREG; nine over a die-to-die module (R110, R113, R114, R116, R122). One that is idle, or whose input has no bit,
changes nothing. A die-to-die transfer without a CRC error makes its arrival bits die switch inputs 4096 + 256 m + p
and its transit bits transit sources 11 steps later; one with a CRC error delivers nothing and raises MORTAR_D2D_CRC
for every partition that owns a position of the module, each of which stops immediately (R122, R123). -/
def Obligations.MortarCarries : Prop :=
  (∀ (s : State) (b : BedLoc) (lane : Fin 16) (k t : Nat),
   let bed := bedIx b
   let l := 16 * bed + lane
   let e := s.rd (A.mTab 0) (512 * l + t)
   let step := slice e 0 9
   let n := s.rd A.pCycle k
   let sent (v : Bool) : State := { s.mark 3 l with
     flight := s.flight ++ [⟨k, n % 2, .courseIn (bed / 16) (16 * (bed % 16) + lane), t + 2 + s.rd (A.mReg 0) l, v, []⟩] }
   s.MayIssue 3 l (bed / 256) k t → s.mortarBad 0 l t = false → s.debug = false →
   (mEn 0 e = true → e.testBit 14 = false → s.errOf A.hist (512 * bed + step) = 0 → exec (.laneSend b lane) s =
     .next (sent ((s.partRow (s.rd A.pDepth k) bed step lagLane t).testBit (slice e 9 4)))) ∧
   (mEn 0 e = true → e.testBit 14 = true → s.rd A.landErr (landKey bed (n % 2) step) &&& 2 ^ slice e 9 4 = 0 → exec (.laneRelay b lane) s =
     .next (sent ((s.rd A.land (landKey bed (n % 2) step)).testBit (slice e 9 4)))) ∧
   (mEn 0 e = false → exec (.laneSend b lane) s = .next s ∧ exec (.laneRelay b lane) s = .next s)) ∧
  (∀ (s : State) (step : Fin 512) (k : Nat) (b : FlightBit), s.clocked = true →
   (∀ (sw : SwitchLoc) (out : Fin 5120),
     let kind := swKind sw
     let lane := swWidth sw * swIx sw + out
     let e := s.rd (A.mTab kind) (512 * lane + step)
     let u := step + (if kind = 3 then 2 else 1) + s.rd (A.mReg kind) lane
     out < swWidth sw → s.laneSlot kind lane = some k → s.stageRuns k step = true → s.mortarBad kind lane step = false →
     (mEn kind e = true → s.bitAt k (swIn kind (swIx sw) (slice e 0 13)) step out = some b →
       exec (.switchEntry sw out step) s = .next (s.passBit b out (swOut kind (swIx sw) out u) u)) ∧
     (mEn kind e = false ∨ s.bitAt k (swIn kind (swIx sw) (slice e 0 13)) step out = none →
       exec (.switchEntry sw out step) s = .next s)) ∧
   (∀ (die : Fin 8) (module : Fin 4) (pos : Fin 512),
     let m : Nat := module
     let lane := 2048 * die.val + 512 * m + pos
     let e := s.rd (A.mTab 4) (512 * lane + step)
     s.laneSlot 4 lane = some k → s.stageRuns k step = true → s.mortarBad 4 lane step = false →
     (mEn 4 e = true → s.bitAt k (.source die (slice e 0 11)) step (512 * m + pos) = some b →
       exec (.moduleEntry die module pos step) s =
         .next (s.passBit b (512 * m + pos) (.wire (neighborDie die m) (backModule m) pos) (step + 9))) ∧
     (mEn 4 e = false ∨ s.bitAt k (.source die (slice e 0 11)) step (512 * m + pos) = none →
       exec (.moduleEntry die module pos step) s = .next s))) ∧
  (∀ (s : State) (die : Fin 8) (module : Fin 4) (step : Fin 512),
   let m : Nat := module
   let owners := (List.range 32).filter fun k => (List.range 512).any fun p =>
     decide (s.laneSlot 4 (2048 * neighborDie die m + 512 * backModule m + p) = some k)
   s.clocked = true →
   exec (.moduleTransferReceive die module step true) s = .next { s with
     flight := s.flight.map fun b => match b.node with
       | .wire _ _ p =>
         if s.arrives die m step b then
           if p < 256 then { b with node := .dieIn die (4096 + 256 * m + p) }
           else { b with node := .source die (1024 + 256 * m + (p - 256)), due := b.due + 11 }
         else b
       | _ => b } ∧
   exec (.moduleTransferReceive die module step false) s = .next (owners.foldl
     (fun v k => if v.stoppable k then v.fault k 0x23 (Loc.ofDie die) .i (m + 2 ^ 2 * step.val) else v)
     { s with flight := s.flight.filter fun b => ¬ s.arrives die m step b }) ∧
   (∀ k ∈ owners, s.stoppable k = true → Completes (exec (.moduleTransferReceive die module step false) s) fun t =>
     (∀ b ∈ t.flight, s.arrives die m step b = false) ∧ (t.rd A.pState k = 4 ∨ t.rd A.pImm k = 1)))

/-- A port sends one frame for a partition's step with an enabled send entry: the header of R127, then one bit for each
position whose send table the partition owns, in ascending order, 0 for an idle one, behind the frames of lower
partition IDs of the same SCLK period (R127, R304). During a hold only bits already sent make one (R116), and bits that
come to a step after its frame make another one of all its bits, which is the model's choice (log 171). While a
recording is replayed without LIVE_LINKS, no frame is sent (R267). A frame from a link (R128 to R131): discarded and
counted in FRAME_DROP in the cases of R130; else its bits are handled in ascending order of the positions of PID's
receive table: a bit of an entry with EN = 0 is dropped, one for a bed of the port's die lands in bank PAR and sets its
presence flag, and is logged where the partition records (R258), one for another die lands there 9 SCLK periods later,
by the model's count (log 132); a step or a landing step from D on drops the bit (R161, R162); a link landing on an
entry that an internal landing wrote in this step is discarded and counted. A frame of another type, or with a payload
above 256 bits, takes the port down (R306). A landing that is due writes its bit into the landing store of its bank, in
place of what stands there, and sets the entry's presence flag (R39, R46, R47, R129, R131). An internal landing
prevails over a link landing of the same step, which is counted. -/
def Obligations.MortarFramesAndLandings : Prop :=
  (∀ (s : State) (port : Fin 16) (slot : Fin 32) (step : Fin 512),
   let k : Nat := slot
   let pid := s.rd A.pPid k
   let lanes := s.portLanes 5 port pid
   let e (l : Nat) := s.rd (A.mTab 5) (512 * l + step)
   let en (l : Nat) : Bool := mEn 5 (e l)
   let sent (l : Nat) : Option FlightBit := if en l then s.bitFor k (.source (port / 2) (slice (e l) 0 11)) step else none
   let more := lanes.any fun l => (sent l).any fun b => decide (linkTaker l ∉ b.taken)
   let key := 512 * (32 * port + k) + step
   let due := s.rd A.pState k = 2 ∧ s.on A.linkDone key = false
   let same (t : State) : Prop := t.on A.linkDone key = true ∧ t.mem = s.mem ∧
     ∀ a : Arr, a.code < 512 → a.code ≠ A.linkDone.code → ∀ i, t.rd a i = s.rd a i
   s.clocked = true → s.stoppable k = true → s.stageRuns k step = true → (∀ l ∈ lanes, s.mortarBad 5 l step = false) →
   (s.liveLinks k = false ∨ ¬ due ∧ more = false → exec (.linkSendEntry port slot step) s = .next s) ∧
   (s.liveLinks k = true → due ∨ more = true → s.portUp port = true →
     (lanes.any en = true → (∀ f ∈ s.frameOut, f.port = port.val → f.fresh = true → slice f.hdr 12 8 ≤ slice pid 0 8) →
       Completes (exec (.linkSendEntry port slot step) s) fun t => same t ∧
         t.frameOut = s.frameOut ++ [⟨port, 0xA * 2 ^ 20 + pid * 2 ^ 12 + s.rd A.pCycle k % 2 * 2 ^ 11 + step * 2 ^ 2,
           lanes.map fun l => ((sent l).map (·.val)).getD false, true⟩]) ∧
     (lanes.any en = false → Completes (exec (.linkSendEntry port slot step) s) fun t => same t ∧ t.frameOut = s.frameOut))) ∧
  (∀ (s : State) (port : Fin 16) (hdr : BitVec 24) (payload : List Bool),
   let pid := slice hdr.toNat 12 8
   let par := slice hdr.toNat 11 1
   let step := slice hdr.toNat 2 9
   let lanes := s.portLanes 6 port pid
   let drop := s.cnt (D (port / 2)) MORTAR_DISCARD_COUNT_FRAME_DROP 1
   s.clocked = true →
   (slice hdr.toNat 20 4 ≠ 0xA ∨ 256 < payload.length → exec (.mortarFrame port hdr payload) s =
     .next ((s.cnt (PT port) PORT_ERR_STREAM 1).portDown port)) ∧
   (slice hdr.toNat 20 4 = 0xA → payload.length ≤ 256 →
     (s.slotOfPid pid = none ∨ lanes = [] ∨ lanes.length ≠ payload.length →
       exec (.mortarFrame port hdr payload) s = .next drop) ∧
     ∀ k, s.slotOfPid pid = some k →
       (s.stoppable k = false → exec (.mortarFrame port hdr payload) s = .next drop) ∧
       (s.stoppable k = true → lanes ≠ [] → lanes.length = payload.length → s.liveLinks k = false ∨ s.rd A.pDepth k ≤ step →
         exec (.mortarFrame port hdr payload) s = .next s) ∧
       (s.stoppable k = true → lanes ≠ [] → lanes.length = payload.length → s.liveLinks k = true → step < s.rd A.pDepth k →
         let r := (lanes.zip payload).foldl (State.frameBit port k par step) ([], s)
         (r.1 = [] ∨ r.2.recording k = false → exec (.mortarFrame port hdr payload) s = .next r.2) ∧
         (r.1 ≠ [] → exec (.mortarFrame port hdr payload) s =
           .next (r.2.logInput k (port / 2) 0x8 ((port + 2 ^ 4 * step) :: frameWords par r.1)))) ∧
       ∀ (lane : Nat) (v : Bool),
         let e := s.rd (A.mTab 6) (512 * lane + step)
         let bed := 4096 * slice e 28 3 + 256 * slice e 24 4 + 16 * slice e 20 4 + slice e 16 4
         let j := slice e 12 4
         let place := 16 * landKey bed par (slice e 0 9) + j
         s.mortarBad 6 lane step = false →
         (e.testBit 31 = false → s.debug = false → State.frameBit port k par step ([], s) (lane, v) = ([], s)) ∧
         (e.testBit 31 = true → s.rd A.pDepth k ≤ slice e 0 9 → State.frameBit port k par step ([], s) (lane, v) = ([], s)) ∧
         (e.testBit 31 = true → slice e 0 9 < s.rd A.pDepth k → slice e 28 3 = port / 2 → s.marked 10 place = false →
           State.frameBit port k par step ([], s) (lane, v) =
             ([(bed, j, slice e 0 9, v)], (s.landBit bed par j (slice e 0 9) v).mark 11 place)) ∧
         (e.testBit 31 = true → slice e 0 9 < s.rd A.pDepth k → slice e 28 3 = port / 2 → s.marked 10 place = true →
           State.frameBit port k par step ([], s) (lane, v) =
             ([], s.cnt (D (bed / 4096)) MORTAR_DISCARD_COUNT_LAND_CONFLICT 1)) ∧
         (e.testBit 31 = true → slice e 0 9 < s.rd A.pDepth k → slice e 28 3 ≠ port / 2 →
           State.frameBit port k par step ([], s) (lane, v) = ([], { s with flight := s.flight ++ [⟨k, par, .linkIn bed j (slice e 0 9) port step, 9, v, []⟩] })))) ∧
  (∀ (s : State) (b : BedLoc) (lane : Fin 16) (step : Fin 512) (x : FlightBit),
   let bed := bedIx b
   let key := landKey bed x.par step
   let place := 16 * key + lane
   s.clocked = true →
   (s.landingDue bed lane step = none → exec (.landingWrite b lane step) s = .next s) ∧
   (s.landingDue bed lane step = some x →
     (x.node = .bedIn bed lane step → step < s.rd A.pDepth x.slot → Completes (exec (.landingWrite b lane step) s) fun t =>
       t.rd A.land key = patch (s.rd A.land key) lane 1 (bit x.val) ∧
       t.rd A.landP key = s.rd A.landP key ||| 2 ^ (lane : Nat) ∧ t.flight = s.flight.erase x ∧
       (∀ i, i ≠ key → t.rd A.land i = s.rd A.land i ∧ t.rd A.landP i = s.rd A.landP i) ∧
       (s.marked 11 place = true → t.rf (D (bed / 4096)) MORTAR_DISCARD_COUNT_LAND_CONFLICT =
         min 0xFFFF (s.rf (D (bed / 4096)) MORTAR_DISCARD_COUNT_LAND_CONFLICT + 1))) ∧
     (∀ port frame, x.node = .linkIn bed lane step port frame → s.recording x.slot = false →
       (s.marked 10 place = true → exec (.landingWrite b lane step) s =
         .next (State.cnt { s with flight := s.flight.erase x } (D (bed / 4096)) MORTAR_DISCARD_COUNT_LAND_CONFLICT 1)) ∧
       (s.marked 10 place = false → Completes (exec (.landingWrite b lane step) s) fun t =>
         t.rd A.land key = patch (s.rd A.land key) lane 1 (bit x.val) ∧
         t.rd A.landP key = s.rd A.landP key ||| 2 ^ (lane : Nat) ∧ t.flight = s.flight.erase x))))

/-- A request that a port unit issued is translated through the cache of its engine and performed with the rights of
its partition (R199 to R201, R206): V = 0 fails with sub-status 1, a write with W = 0 with 2, an uncorrectable read
with 5 (that a map table in a foreign granule fails as unmapped, and a write checks W before R, is the model's reading,
logs 28, 29); a read then stands ready with its data, a write is done. An entry whose frame the partition does not own
any more leaves the cache, and the map is walked, which is the model's reading (log 157). The accesses of an engine go
out from its NI, which looks the route up first (R388; log 106). The elements of a gather are performed in index order,
element j at ADDR + 4 times index j; one that fails ends the request with its sub-status and address, the elements
before it read, and one on a page that is not resident makes the request wait there (R203, R206, R207). A read or
gather that is ready, or has failed, is delivered: its lines are written and its tag is free (R78, R80); a failed one
raises MEM_MODEL_FAULT with the address, the elements done and the sub-status (R180, R206). -/
def Obligations.MemoryModelRequests : Prop :=
  (∀ (s : State) (die : Fin 8) (engine : Fin 4) (req : Nat) (r : MmeReq)
     (e : TcEntry),
   let eng := engineOf r.course
   let h := slice e.entry 21 18 * 2 ^ 21 + r.addr % 2 ^ 21
   let go := exec (.mmeWalk die engine req) s
   let failed (sub : Nat) : State := s.setReq { r with phase := .failed sub r.addr }
   s.clocked = true → s.findReq (4 * die + engine) req = some r → r.phase = .fresh → s.behind r = false → r.kind ≠ .gather →
   (∀ (t : State) (write : Bool) (a n v : Nat), let addr := 2 ^ 40 * t.chainAddr + 2 ^ 39 + a
     (t.noRoute die (32 + engine) addr = none → t.engAccess eng r.pid write a n v = t.hbmAccess (.part r.pid) write a n v) ∧
     (∀ x, t.noRoute die (32 + engine) addr = some x →
       t.engAccess eng r.pid write a n v = ⟨5, 0, t.noteNoRoute x addr 5⟩)) ∧
   (s.mapBase r.slot = none → r.kind = .read → go = .next (failed 1)) ∧
   (s.mapBase r.slot ≠ none → (s.tcache.find? fun x => x.engine = eng ∧ x.pid = r.pid ∧ x.page = slice r.addr 21 31) = some e →
     (e.entry.testBit 0 = false → r.kind = .read → go = .next (failed 1)) ∧
     (e.entry.testBit 0 = true → e.entry.testBit 2 = false → r.kind = .write →
       go = .next ((s.dropReq r).mmeFault r 2 r.addr)) ∧
     (e.entry.testBit 0 = true → e.entry.testBit 1 = true → slice e.entry 8 12 = s.chainAddr →
       (s.granuleOwner h ≠ some r.pid → r.kind = .read → ∀ sub t,
         State.walkMap { s with tcache := s.tcache.filter (· ≠ e) } eng r.slot r.pid r.addr false = (.bad sub, t) →
         go = .next (t.setReq { r with phase := .failed sub r.addr })) ∧
       (s.granuleOwner h = some r.pid →
         ∀ x : HbmAns, x = s.engAccess eng r.pid (decide (r.kind = .write)) h (r.len / 8) r.data →
         (x.status = 0 → r.kind = .read → go = .next (x.st.setReq { r with acc := x.data, phase := .ready })) ∧
         (x.status = 3 → r.kind = .read → go = .next (x.st.setReq { r with acc := x.data, phase := .failed 5 r.addr })) ∧
         (x.status = 0 → r.kind = .write → e.entry.testBit 2 = true → e.entry.testBit 3 = true →
           go = .next (x.st.dropReq r)))))) ∧
  (∀ (s : State) (r : MmeReq) (fuel e : Nat) (s1 : State),
   let a := (r.addr + 4 * slice r.data (16 * r.done) 16) % 2 ^ 52
   let tr := s.translate (engineOf r.course) r.slot r.pid a false
   r.kind = .gather →
   s.gatherFrom r 0 = s.setReq { r with phase := .ready } ∧
   (∀ sub, tr = (.bad sub, s1) → s.gatherFrom r (fuel + 1) = s1.setReq { r with phase := .failed sub a }) ∧
   (tr = (.absent, s1) → s.gatherFrom r (fuel + 1) = s1.reqWait r a) ∧
   (tr = (.frame e, s1) → ∀ sub d s2, s1.frameAccess (engineOf r.course) r.pid e a 4 0 false = (sub, d, s2) →
     (sub = 0 → s.gatherFrom r (fuel + 1) =
       s2.gatherFrom { r with acc := r.acc + 2 ^ (32 * r.done) * d, done := r.done + 1 } fuel) ∧
     (sub ≠ 0 → s.gatherFrom r (fuel + 1) = s2.setReq { r with phase := .failed sub a })) ∧
   (∀ (die : Fin 8) (engine : Fin 4) (req : Nat), s.clocked = true → s.findReq (4 * die + engine) req = some r →
     r.phase = .fresh → s.behind r = false → exec (.mmeWalk die engine req) s = .next (s.gatherFrom r (16 - r.done)))) ∧
  (∀ (s : State) (die : Fin 8) (engine : Fin 4) (req : Nat) (r : MmeReq),
   let n := if r.kind = .gather then 8 else (r.len + 63) / 64
   let done (data : Nat) : State := ((s.dropReq r).deliver r.bed r.bank r.line n data r.due).tagFree r.course r.tag
   s.clocked = true → s.findReq (4 * die + engine) req = some r → r.kind ≠ .write → r.tagged = true → s.recording r.slot = false →
   (r.phase = .ready → exec (.mmeDelivery die engine req) s = .next (done r.acc)) ∧
   (∀ sub a, r.phase = .failed sub a → exec (.mmeDelivery die engine req) s =
     .next ((done (if sub = 5 ∨ r.kind = .gather then r.acc else 0)).unitFault (r.course / 16) 0x40 (Loc.ofCourse r.course) .e
       (a % 2 ^ 52 + 2 ^ 52 * (if r.kind = .gather then r.done else 0) + 2 ^ 57 * sub))))

/-- The walk of the page map (R199): the level-1 entry lies at the map base plus 8 times address bits 51:36, the
level-2 entry at the base that it names plus 8 times bits 35:21; A is set in a valid resident entry, D for a write, and
the entry is cached. A frame that another partition owns counts as unmapped, neither cached nor marked (R200). A level
that is not valid gives sub-status 1, an uncorrectable one 4, a write without W 2; a valid entry that is not resident
makes the request wait. That a table in a granule of another partition gives 1, and that W is checked before R, is the
model's reading (logs 28, 29). Paging (R203 to R205): a read that meets a page that is not resident waits on it; the
first request of its partition to meet the page takes one of the 64 page entries of the engine and has a page-service
message written; with all 64 taken it waits for an entry and walks again once one is free. A page-service message goes
as one packet into the queue that MEM_PS_CFG names once that takes it (R203, R239); the host's answer releases what
waits on the page (R204): with MEM_PS_DONE the reads and gathers walk again, with FAIL they fail with sub-status 3. An
initiator without rights on the slot is DENIED. -/
def Obligations.MemoryModelPaging : Prop :=
  (∀ (s : State) (eng k pid a base : Nat) (write : Bool),
   s.mapBase k = some base →
   ∀ r1 : HbmAns, r1 = s.engAccess eng pid false (base + 8 * slice a 36 16) 8 0 →
   (r1.status = 3 → s.walkMap eng k pid a write = (.bad 4, r1.st)) ∧
   (r1.status ≠ 3 → r1.status ≠ 0 ∨ r1.data.testBit 0 = false → s.walkMap eng k pid a write = (.bad 1, r1.st)) ∧
   (r1.status = 0 → r1.data.testBit 0 = true →
     let at2 := slice r1.data 18 21 * 2 ^ 18 + 8 * slice a 21 15
     ∀ r2 : HbmAns, r2 = r1.st.engAccess eng pid false at2 8 0 →
     (r2.status = 3 → s.walkMap eng k pid a write = (.bad 4, r2.st)) ∧
     (r2.status ≠ 3 → r2.status ≠ 0 ∨ r2.data.testBit 0 = false → s.walkMap eng k pid a write = (.bad 1, r2.st)) ∧
     (r2.status = 0 → r2.data.testBit 0 = true →
       (write = true → r2.data.testBit 2 = false → s.walkMap eng k pid a write = (.bad 2, r2.st)) ∧
       (write = false ∨ r2.data.testBit 2 = true → r2.data.testBit 1 = false →
         s.walkMap eng k pid a write = (.absent, r2.st)) ∧
       (write = false ∨ r2.data.testBit 2 = true → r2.data.testBit 1 = true → slice r2.data 8 12 = s.chainAddr →
         s.granuleOwner (slice r2.data 21 18 * 2 ^ 21) ≠ some pid → s.walkMap eng k pid a write = (.bad 1, r2.st)) ∧
       (write = false ∨ r2.data.testBit 2 = true → r2.data.testBit 1 = true → slice r2.data 8 12 = s.chainAddr →
         s.granuleOwner (slice r2.data 21 18 * 2 ^ 21) = some pid →
         let new := r2.data ||| 2 ^ 4 ||| (if write then 2 ^ 3 else 0)
         s.walkMap eng k pid a write = (.frame new,
           (if new = r2.data then r2.st else (r2.st.engAccess eng pid true at2 8 new).st).tcPut
             ⟨eng, pid, slice a 21 31, new⟩))))) ∧
  (∀ (s : State) (die : Fin 8) (engine : Fin 4) (r : MmeReq),
   let eng := 4 * die.val + engine
   let pg := slice r.addr 21 31
   let known := s.waitPages.any fun w => w.engine = eng ∧ w.pid = r.pid ∧ w.page = pg
   let taken := (s.waitPages.filter (·.engine = eng)).length
   let waiting := s.setReq { r with phase := .waitPage pg }
   let w : WaitPage := ⟨eng, r.pid, pg, false, r.addr, false⟩
   let all (o : Res) : Prop :=
     (known = true → o = .next waiting) ∧
     (known = false → taken < 64 → o = .next (State.psSend { waiting with waitPages := s.waitPages ++ [w] } w))
   s.clocked = true → engineOf r.course = eng → r.kind = .read →
   s.translate eng r.slot r.pid r.addr false = (.absent, s) →
   (∀ req, s.findReq eng req = some r → r.phase = .fresh → s.behind r = false →
     all (exec (.mmeWalk die engine req) s) ∧
     (known = false → 64 ≤ taken → exec (.mmeWalk die engine req) s = .next (s.setReq { r with phase := .waitEntry }))) ∧
   ((s.mme.find? fun x => engineOf x.course = eng ∧ x.phase = .waitEntry) = some r →
     (taken < 64 → all (exec (.mmePageEntryFree die engine) s)) ∧
     (64 ≤ taken → exec (.mmePageEntryFree die engine) s = .next s))) ∧
  (∀ (s : State) (die : Fin 8) (engine : Fin 4) (who : Who) (slot : Fin 32)
     (page : BitVec 31) (w : WaitPage) (k : Nat),
   let pid := s.rd A.pPid slot
   let pg := page.toNat
   let waiting := s.mme.filter (waitsOn pid pg)
   let at_ (r : MmeReq) := if r.kind = .gather then (r.addr + 4 * slice r.data (16 * r.done) 16) % 2 ^ 52 else r.addr
   let rest : State := { s with waitPages := s.waitPages.filter fun w => ¬ (w.pid = pid ∧ w.page = pg) }
   (s.clocked = true → (s.waitPages.find? fun w => w.engine = 4 * die.val + engine ∧ ¬ w.sent) = some w →
     s.slotOfPid w.pid = some k → s.portalQueueOk (s.psQueue k) w.pid = true →
     (s.qFits (s.psQueue k) 2 = true → s.on A.qPtrBad (s.psQueue k) = false →
       exec (.pageServiceMessageWritten die engine) s = .next { s with
         waitPages := s.waitPages.map fun x => if x = w then { x with sent := true } else x
         packets := s.packets ++ [⟨s.psQueue k, deviceProducer,
           [slice (w.page + 2 ^ 31 * bit w.write + 2 ^ 32 * w.pid + 2 ^ 40 * s.chainAddr + 2 ^ 52 * (w.engine / 4) +
             2 ^ 55 * (w.engine % 4)) 0 64, slice (w.addr % 2 ^ 52) 0 64], true, false, false⟩] }) ∧
     (s.qFits (s.psQueue k) 2 = false → exec (.pageServiceMessageWritten die engine) s = .next s)) ∧
   (s.Serving who →
     (s.maySlot who slot = false → exec (.memPsDone who slot page) s = .next (s.ans 1 0) ∧
       exec (.memPsFail who slot page) s = .next (s.ans 1 0)) ∧
     (s.maySlot who slot = true → s.loaded slot = true → (∀ r ∈ waiting, r.kind ≠ .write) →
       exec (.memPsDone who slot page) s =
         .next ((waiting.foldl (fun t r => t.setReq { r with phase := .fresh }) rest).ans 0 0) ∧
       exec (.memPsFail who slot page) s =
         .next ((waiting.foldl (fun t r => t.setReq { r with phase := .failed 3 (at_ r) }) rest).ans 0 0))))

/-- Invalidation of the translation caches and fences (R202, R209, R211): they act for the partition that PID names
when the physical function writes, else for the initiator's own; an invalidation drops the page, or with ALL every
page, of that partition from the engines of the die; a fence completes once every earlier write of the partition is
performed. -/
def Obligations.InvalidationsAndFences : Prop := ∀ (s : State) (who : Who) (die : Fin 8) (engine : Fin 4) (val : Word)
    (pid : Nat),
  let d := D die
  let v := val.toNat
  let e := 4 * die.val + engine
  let b := d + 4 * engine
  (s.Serving who → s.pfRights who = true ∧ pid = slice v 0 8 ∨ s.pfRights who = false ∧ s.stamp who = .part pid →
    (v.testBit 8 = true → exec (.memTcInv who die val) s =
      .next (State.ans (State.wf { s.wf d MEM_TC_INV_CMD_PID (slice v 0 8) with
        tcache := s.tcache.filter fun x => ¬ (x.engine / 4 = die ∧ x.pid = pid ∧
          (s.rf d MEM_TC_INV_PAGE_ALL = 1 ∨ x.page = s.rf d MEM_TC_INV_PAGE_PAGE)) } d MEM_TC_INV_CMD_DONE 0) 0 0)) ∧
    (v.testBit 8 = true → exec (.mmeFence who die engine val) s =
      .next (((((s.wf b MME_FENCE_PID (slice v 0 8)).wr A.fenceAt e (s.rd A.mmeSerial e)).wr A.fencePid e pid).wf b
        MME_FENCE_DONE 0).ans 0 0)) ∧
    (v.testBit 8 = false →
      exec (.memTcInv who die val) s = .next ((s.wf d MEM_TC_INV_CMD_PID (slice v 0 8)).ans 0 0) ∧
      exec (.mmeFence who die engine val) s = .next ((s.wf b MME_FENCE_PID (slice v 0 8)).ans 0 0))) ∧
  (s.Serving who → s.pfRights who = false → (∀ p, s.stamp who ≠ .part p) →
    exec (.memTcInv who die val) s = .next (s.ans 1 0) ∧ exec (.mmeFence who die engine val) s = .next (s.ans 1 0)) ∧
  (s.clocked = true →
    exec (.memTcInvDone die) s = .next (s.wf d MEM_TC_INV_CMD_DONE 1) ∧
    ((∀ x ∈ s.mme, engineOf x.course = e → x.pid = s.rd A.fencePid e → x.kind = .write → s.rd A.fenceAt e ≤ x.serial) →
      exec (.mmeFenceDone die engine) s = .next (s.wf b MME_FENCE_DONE 1)) ∧
    (∀ x ∈ s.mme, engineOf x.course = e → x.pid = s.rd A.fencePid e → x.kind = .write → x.serial < s.rd A.fenceAt e →
      exec (.mmeFenceDone die engine) s = .next s))

/-- The decision table of Newt (R193, R194): no failure and no logged correction passes; corrections alone are
TRANSIENT; one failure is a CELL, or, with a logged correction on its column and bit in another row, a SENSE; failures
on one column and bit over rows are a SENSE, mended by a spare column; failures in one row over columns are a WORD,
mended by a spare row; a lone CELL takes a spare row only where CELL_REPAIR is 1. How a pattern of several kinds is
split is the model's choice (log 145). The end of MARCH on a bay region without logged corrections (R193, R194, R196):
without a failure the words are restored; a pattern that matches no row, or that needs more spares than are left, is
UNREPAIRED and pins the region until UNPIN; a repair takes a spare row or column, which is not in force before REPAIR
or FILL ends. Which free spare a repair takes is the model's choice (log 36), and what a record names (log 145). -/
def Obligations.NewtVerdicts : Prop :=
  (∀ (cr : Bool) (own log rest : List NewtCell) (x y : NewtCell),
   newtVerdict cr [] [] log = (0, some []) ∧
   newtVerdict cr [] (x :: own) log = (1, some [⟨1, x, 0⟩]) ∧
   ((∃ e ∈ log, e.col = x.col ∧ e.bitNo = x.bitNo ∧ e.row ≠ x.row) → newtVerdict cr [x] own log = (3, some [⟨3, x, 2⟩])) ∧
   ((∀ e ∈ log, e.col = x.col → e.bitNo = x.bitNo → e.row = x.row) →
     newtVerdict cr [x] own log = (2, some [⟨2, x, if cr then 1 else 0⟩])) ∧
   ((∀ z ∈ y :: rest, z.col = x.col ∧ z.bitNo = x.bitNo) → (∃ z ∈ y :: rest, z.row ≠ x.row) →
     newtVerdict cr (x :: y :: rest) own log = (3, some [⟨3, x, 2⟩])) ∧
   ((∀ z ∈ y :: rest, z.row = x.row) → (∃ z ∈ y :: rest, z.col ≠ x.col) →
     newtVerdict cr (x :: y :: rest) own log = (4, some [⟨4, x, 1⟩]))) ∧
  (∀ (s : State) (die : Fin 8) (fails : List MarchFail),
   let d := D die
   let f : List NewtCell := fails.map fun x => ⟨x.row, x.col, x.bit⟩
   let v := newtVerdict (s.rf d NEWT_CTRL_CELL_REPAIR = 1) f [] []
   let rowsUsed := (s.unitRepairs die false).length
   let colsUsed := (s.unitRepairs die true).length
   let pinned (t : State) : Prop := t.rf d NEWT_STATUS_PHASE = 6 ∧ t.rf d NEWT_STATUS_PINNED = 1 ∧ t.repairs = s.repairs
   s.clocked = true → s.rf d NEWT_STATUS_PHASE = 2 → s.rf d NEWT_STATUS_KIND = 0 → s.corrLog = [] →
   (∀ x ∈ f, x.row / 32 = s.rf d NEWT_STATUS_UNIT % 16) → f.Nodup →
   rowsUsed ≤ 4 → colsUsed ≤ 4 →
   (f = [] → Completes (exec (.newtMarchEnd die fails) s) fun t => t.rf d NEWT_STATUS_PHASE = 3 ∧ t.repairs = s.repairs) ∧
   (v.2 = none → Completes (exec (.newtMarchEnd die fails) s) pinned) ∧
   (∀ j, v.2 = some [j] →
     (j.repair = 1 → rowsUsed = 4 → Completes (exec (.newtMarchEnd die fails) s) pinned) ∧
     (j.repair = 2 → colsUsed = 4 → Completes (exec (.newtMarchEnd die fails) s) pinned) ∧
     (j.repair = 1 → rowsUsed < 4 → Completes (exec (.newtMarchEnd die fails) s) fun t => t.rf d NEWT_STATUS_PHASE = 3 ∧
       ∃ r : Repair, t.repairs = s.repairs ++ [r] ∧ r.die = die ∧ r.column = false ∧ r.place = j.at_.row ∧ r.active = false) ∧
     (j.repair = 2 → colsUsed < 4 → Completes (exec (.newtMarchEnd die fails) s) fun t => t.rf d NEWT_STATUS_PHASE = 3 ∧
       ∃ r : Repair, t.repairs = s.repairs ++ [r] ∧ r.die = die ∧ r.column = true ∧ r.active = false)) ∧
   (∀ (u : State) (who : Who), u.Serving who → u.pfRights who = true → u.rf d NEWT_STATUS_PHASE = 6 →
     (∀ k < 32, u.on A.pStartWait k = false) → Completes (exec (.unpin who die) u) fun t =>
       t.rf d NEWT_STATUS_PHASE = 0 ∧ t.rf d NEWT_STATUS_PINNED = 0 ∧ t.rsp = ⟨0, 0, 0⟩))

/-- The phases of a test of a bay region or bed (R191, R197, R198): a requested unit is tested before the sweep goes
on; SAVE copies a bay region into the buffer, corrected, and MARCH follows; REPAIR switches rows to their spares; FILL
ends with the spare column in use, the correctable errors of that column corrected; RESTORE puts the buffer back and
ends the test. A request to Newt (R198, R211): only the physical function's is served, DENIED else; BUSY for a wall
whose partition runs, PINNED on a die that is pinned; an accepted one is tested next. RESULT shows the outcome. The
order of the refusals is the model's reading (log 38). -/
def Obligations.NewtPhases : Prop :=
  (∀ (s : State) (die : Fin 8),
   let d := D die
   let n : Nat := die
   let i := s.rd A.newtReq n % 2 ^ 16 - 1
   let wall := s.rf d NEWT_STATUS_WALL
   let unit := s.rf d NEWT_STATUS_UNIT
   let word (i : Nat) := bayKey (16 * n + wall) (512 * unit + i)
   let begun (t : State) (i : Nat) : Prop := t.rf d NEWT_STATUS_PHASE = 1 ∧ t.rf d NEWT_STATUS_KIND = i / 4096 ∧
     t.rf d NEWT_STATUS_WALL = i / 256 % 16 ∧ t.rf d NEWT_STATUS_UNIT = i % 256 ∧ t.mem = s.mem ∧ t.repairs = s.repairs
   s.clocked = true → s.Canon →
   (s.rf d NEWT_STATUS_PHASE = 0 → s.newtRested n = true →
     (1 ≤ s.rd A.newtReq n % 2 ^ 16 → i < 4096 → s.rd A.newtReq n < 2 ^ 17 →
       Completes (exec (.newtRegionStart die) s) fun t => begun t i ∧ t.rd A.newtReq n = 0) ∧
     (∀ j, s.rd A.newtReq n = 0 → j < 8192 → s.sweepFrom n (s.rd A.newtNext n) = some j →
       Completes (exec (.newtRegionStart die) s) fun t => begun t j ∧ t.rd A.newtNext n = (j + 1) % 2 ^ A.newtNext.width)) ∧
   (s.rf d NEWT_STATUS_PHASE = 1 →
     (s.rf d NEWT_STATUS_KIND = 1 → exec (.newtSaveEnd die) s = .next (s.wf d NEWT_STATUS_PHASE 2)) ∧
     (s.rf d NEWT_STATUS_KIND = 0 → Completes (exec (.newtSaveEnd die) s) fun t => t.rf d NEWT_STATUS_PHASE = 2 ∧
       (∀ i < 512, t.rd A.newtBuf (512 * n + i) = s.rd A.bay (word i) % 2 ^ A.bay.width ∧
         t.errOf A.newtBuf (512 * n + i) = if s.errOf A.bay (word i) = 2 then 2 else 0) ∧
       (∀ j, t.rd A.bay j = s.rd A.bay j ∧ t.errOf A.bay j = s.errOf A.bay j) ∧ t.mem = s.mem)) ∧
   (s.rf d NEWT_STATUS_PHASE = 3 ∨ s.rf d NEWT_STATUS_PHASE = 4 ∧ (∀ r ∈ s.repairs, r.die = n → r.column = false →
       r.active = true) → Completes (exec (.newtFillEnd die) s) fun t => t.rf d NEWT_STATUS_PHASE = 5 ∧
     t.repairs = s.repairs.map (fun r => if r.die = n then { r with active := true } else r) ∧ t.mem = s.mem ∧
     (s.rf d NEWT_STATUS_PHASE = 4 → ∀ j, t.errOf A.bay j =
       if s.errOf A.bay j = 1 ∧ s.inFill n j = true then 0 else s.errOf A.bay j) ∧
     ∀ x : Arr, x.code < 512 → x.code ≠ A.reg.code → x.code ≠ A.err.code → ∀ j, t.rd x j = s.rd x j) ∧
   (s.rf d NEWT_STATUS_PHASE = 5 → s.rf d NEWT_STATUS_KIND = 0 → (∀ k < 32, s.on A.pStartWait k = false) →
     Completes (exec (.newtRestoreEnd die) s) fun t => t.rf d NEWT_STATUS_PHASE = 0 ∧
       (∀ i < 512, t.rd A.bay (word i) = s.rd A.newtBuf (512 * n + i) % 2 ^ A.bay.width ∧
         t.errOf A.bay (word i) = s.errOf A.newtBuf (512 * n + i) % 4) ∧
       (∀ j, (∀ i < 512, j ≠ word i) → t.rd A.bay j = s.rd A.bay j ∧ t.errOf A.bay j = s.errOf A.bay j) ∧ t.mem = s.mem)) ∧
  (∀ (s : State) (who : Who) (die : Fin 8) (val : Word),
   let d := D die
   let n : Nat := die
   let v := val.toNat
   let beds := v.testBit 1
   let wall := slice v 2 4
   let runs := (s.slotOfWall (16 * n + wall)).any fun k => s.stoppable k
   s.Serving who → v.testBit 0 = true →
   (s.pfRights who = false → exec (.newtReq who die val) s = .next ((s.wf d NEWT_REQ_RESULT 2).ans 1 0)) ∧
   (s.pfRights who = true → ∀ r : Nat,
     r = (if runs then 1 else if s.rf d NEWT_STATUS_PINNED = 1 then 3 else 0) →
     Completes (exec (.newtReq who die val) s) fun t =>
       t.rf d NEWT_REQ_RESULT = r ∧ t.rf d NEWT_REQ_KIND = bit beds ∧ t.rf d NEWT_REQ_WALL = wall ∧
       t.rf d NEWT_REQ_REGION = slice v 6 8 ∧ t.rsp = ⟨0, 0, 0⟩ ∧ t.mem = s.mem ∧
       t.rd A.newtReq n = if r ≠ 0 then s.rd A.newtReq n
         else if beds then 4097 + 256 * wall + 2 ^ 16 * 256 else 1 + 256 * wall + slice v 6 8 + 2 ^ 16))

/-- A core's accesses of its own work registers (R214 to R216, R231): JNEXT ends the work item in progress and makes
the core idle; JDONE ends it, its slot FREE with FREE = 1, else in WAIT again, with JWAIT's settings in place of the
task's where JWAIT was written. A binding that was pending takes effect. What JDONE with FREE leaves of the slot is the
model's reading (logs 44, 179). A core that is not up does nothing; from supervisor or user mode the access is illegal
unless JCTL.LOWER is 1 (the exception's cause and mode are the model's choice, log 41). The binding of a core (R214):
the physical function's alone; at once on a core without a work item, else pending to its end. A reset of a core that
runs no slot's task leaves it idle, as after JDONE, and drops its open packets (R232, R244; log 44); of one that does,
`CoreWorkItems` says how the item ends. -/
def Obligations.CoreWork : Prop :=
  (∀ (s : State) (die : Fin 8) (core : Fin 32) (val : BitVec 64) (t : Nat),
   let c := coreIx die core
   let w := s.rd A.jwait c
   let v := s.wr A.coreIdle c 0
   let ended := v.wr A.coreTask c 0
   let cfg := patch (s.rd A.tCfg t) 0 1 0
   let again := (if w.testBit 33 then
     (ended.wr A.tMask t (slice w 0 32)).wr A.tTimeout t (slice w 40 24 + 2 ^ 24 * slice w 32 1) else ended).taskWait t
   let freed := State.wr ((((ended.wr A.tState t 0).wr A.tFlags t 0).wr A.tCfg t cfg).wr A.tCfgNow t cfg) A.tFreeAtEnd t 0
   let bound (u : State) : State := if (s.rd A.coreBindNew c).testBit 12 then
     (u.wr A.coreBind c (slice (s.rd A.coreBindNew c) 0 12)).wr A.coreBindNew c 0 else u
   s.clocked = true →
   (s.on A.coreUp c = false → exec (.jnext die core) s = .next s ∧ exec (.jdone die core val) s = .next s) ∧
   (s.on A.coreUp c = true → s.rd A.coreLow c ≠ 0 → s.rd A.jctl c = 0 → ∀ x, x ∈ [Instr.jnext die core, .jdone die core val] →
     exec x s = .next (((v.wr A.corePrev c (s.rd A.coreLow c)).wr A.coreLow c 0).wr A.coreCause c 2)) ∧
   (s.on A.coreUp c = true → s.rd A.coreLow c = 0 ∨ s.rd A.jctl c ≠ 0 →
     (s.rd A.coreTask c = 0 → exec (.jnext die core) s = .next (v.wr A.coreIdle c 1) ∧
       exec (.jdone die core val) s = .next v) ∧
     (s.rd A.coreTask c = t + 1 → s.on A.tFreeAtEnd t = false →
       exec (.jnext die core) s = .next ((bound again).wr A.coreIdle c 1) ∧
       (val.getLsbD 0 = false → exec (.jdone die core val) s = .next (bound again)) ∧
       (val.getLsbD 0 = true → exec (.jdone die core val) s = .next (bound freed))) ∧
     (s.rd A.coreTask c = t + 1 → s.on A.tFreeAtEnd t = true →
       exec (.jnext die core) s = .next ((bound freed).wr A.coreIdle c 1) ∧
       exec (.jdone die core val) s = .next (bound freed)))) ∧
  (∀ (s : State) (who : Who) (die : Fin 8) (core : Fin 32) (val : Word),
   let c := coreIx die core
   let b := slice val.toNat 0 12
   s.Serving who →
   (s.pfRights who = false → exec (.coreBindWrite who die core val) s = .next (s.ans 1 0) ∧
     exec (.coreReset who die core) s = .next (s.ans 1 0)) ∧
   (s.pfRights who = true → val.getLsbD 15 = false →
     (s.rd A.coreTask c = 0 → exec (.coreBindWrite who die core val) s =
       .next (((s.wr A.coreBind c b).wr A.coreBindNew c 0).ans 0 0)) ∧
     (s.rd A.coreTask c ≠ 0 → s.rd A.coreBind c ≠ b → exec (.coreBindWrite who die core val) s =
       .next ((s.wr A.coreBindNew c (b + 2 ^ 12)).ans 0 0))) ∧
   (s.pfRights who = true → s.rd A.coreTask c = 0 → (∀ q, s.on A.qPtrBad q = false) → Completes (exec (.coreReset who die core) s) fun t =>
     t.packets = s.packets.filter (fun p => ¬ (p.producer = 1000 + c ∧ ¬ p.closed)) ∧ t.rd A.jwait c = 0 ∧
     t.rd A.jqsel c = 0 ∧ t.rd A.jnext c = 0 ∧ t.rd A.jarg c = 0 ∧ t.rd A.coreIdle c = 0 ∧
     t.rd A.coreBind c = s.rd A.coreBind c ∧ (∀ o, t.reg o = s.reg o) ∧ t.mem = s.mem ∧ t.rsp = ⟨0, 0, 0⟩))

/-- Call responses (R222 to R224): a JRSP header with more than 8 data words is FORMAT; else it and the words after it
are kept until the last, with which the response leaves; the portal answers DENIED to a core without the partition's
rights, counts a STALE one, and delivers one that matches its record: its lines are written, the record goes, the tag
is free. A waiting message of a portal is written once its queue is the partition's and has room; with the last of the
slot the hold cause QUEUE_FULL goes (R218, R219). -/
def Obligations.PortalsAndResponses : Prop :=
  (∀ (s : State) (die : Fin 8) (core : Fin 32) (val : BitVec 64),
   let c := coreIx die core
   let n := slice val.toNat 60 4
   let w0 := (s.rspWords c).getD 0 0
   let wall := 16 * slice w0 31 3 + slice w0 27 4
   let v := s.wr A.coreIdle c 0
   let check := s.rspCheck (.core die core) w0 ((s.rspWords c).getD 1 0) wall
   let data := ((s.rspWords c).drop 2).foldr (fun x v => x + 2 ^ 64 * v) 0
   let gone (u : State) (r : Nat) : State :=
     (State.wr { u with jrspBuf := u.jrspBuf.filter fun x => x.1 ≠ c } A.jrspSent c 0).wr A.jrstat c (2 * r)
   s.clocked = true → s.on A.coreUp c = true → s.rd A.coreLow c = 0 ∨ s.rd A.jctl c ≠ 0 →
   (s.on A.jrspSent c = false →
     (s.rd A.jrspLeft c = 0 → 8 < n → exec (.jrsp die core val) s = .next (v.wr A.jrstat c 6)) ∧
     (s.rd A.jrspLeft c = 0 → n ≤ 8 → exec (.jrsp die core val) s =
       .next ((State.wr { v with jrspBuf := (s.jrspBuf.filter fun x => x.1 ≠ c) ++ [(c, val.toNat)] } A.jrspLeft c
         (n + 1)).wr A.jrstat c (patch (s.rd A.jrstat c) 0 1 1))) ∧
     (2 ≤ s.rd A.jrspLeft c → exec (.jrsp die core val) s =
       .next (State.wr { v with jrspBuf := s.jrspBuf ++ [(c, val.toNat)] } A.jrspLeft c (s.rd A.jrspLeft c - 1))) ∧
     (s.rd A.jrspLeft c = 1 → exec (.jrsp die core val) s =
       .next ((State.wr { v with jrspBuf := s.jrspBuf ++ [(c, val.toNat)] } A.jrspLeft c 0).wr A.jrspSent c 1)) ∧
     exec (.portalResponse die core) s = .next s) ∧
   (s.on A.jrspSent c = true →
     exec (.jrsp die core val) s = .next v ∧
     (check = 4 → exec (.portalResponse die core) s = .next (gone s 2)) ∧
     (check = 1 ∨ check = 2 ∨ check = 3 → exec (.portalResponse die core) s =
       .next (gone ((s.sat A.staleCnt wall 1).wr A.staleWhy wall check) 1)) ∧
     (∀ r k, check = 0 → (s.portalRec.find? fun r => r.course = 16 * wall + slice w0 23 4 ∧ r.tag = slice w0 16 7) = some r →
       s.slotOfWall wall = some k → s.recording k = false → exec (.portalResponse die core) s =
         .next (gone ((State.deliver { s with portalRec := s.portalRec.erase r } r.bed r.bank r.line r.lines data
           r.due).tagFree r.course r.tag) 0)))) ∧
  (∀ (s : State) (u : CourseLoc) (m : PortalMsg),
   let i := courseIx u
   let takes := s.portalQueueOk m.queue (s.rd A.pPid m.slot) = true ∧ s.qFits m.queue m.words.length = true
   let sent : State := State.wr { s with
     packets := s.packets ++ [⟨m.queue, deviceProducer, m.words.map (slice · 0 64), true, false, false⟩]
     portalMsg := s.portalMsg.erase m } A.calls (i / 16) (s.rd A.calls (i / 16) + 1)
   s.clocked = true → (s.portalMsg.find? fun m => m.course = i) = some m →
   (¬ takes → exec (.portalMessageWritten u) s = .next s) ∧
   (takes → s.on A.qPtrBad m.queue = false →
     ((∃ x ∈ s.portalMsg.erase m, x.slot = m.slot) → exec (.portalMessageWritten u) s = .next sent) ∧
     ((∀ x ∈ s.portalMsg.erase m, x.slot ≠ m.slot) → exec (.portalMessageWritten u) s = .next (sent.dropCause m.slot 4))))

/-- The dispatcher (R216, R228 to R230, R233, R426): the lowest-numbered idle core with a READY task of its pool takes
the one that goes first; its work item shows in JNEXT, JWAIT and JARG, the flags of its mask are cleared, and the wait
is entered in the histogram; PRIO, POOL and ARG are those that it entered WAIT with (R225). A task whose wait lasts to
its timeout becomes READY with TIMEOUT. Which core is served first is the model's reading (log 43), and what JWAIT is
loaded from its choice (log 160). The registers of the dispatcher (R225, R226, R231, R233, R234): an initiator without
rights on the slot is DENIED, as is a virtual function that writes another PID, by the model's reading (log 45); a flag
that is set stays set and, with the wait condition met, makes the task READY; TASK_CFG with EN = 1 puts a FREE slot in
WAIT with its flags clear, with EN = 0 frees a slot that waits, and one that runs at the end of its work item; HCLR
clears the histogram. -/
def Obligations.Dispatcher : Prop :=
  (∀ (s : State) (die : Fin 8) (task : Fin 512) (c t : Nat),
   let v := s.rd A.tCfgNow t
   let flags := s.rd A.tFlags t
   let tm := s.rd A.tTimeout t
   let u := taskIx die task
   let us := slice (s.rd A.tTimeoutNow u) 0 24
   s.clocked = true →
   (s.rf 0 PWR_CTRL_BUSY = 1 ∨ s.pick die = none → exec (.dispatch die) s = .next s) ∧
   (s.rf 0 PWR_CTRL_BUSY = 0 → s.pick die = some (c, t) →
     Completes (exec (.dispatch die) s) fun x =>
       x.rd A.coreTask c = t + 1 ∧ x.rd A.coreIdle c = 0 ∧ x.rd A.tState t = 3 ∧
       x.rd A.tCore t = c % 32 ∧
       x.rd A.jnext c = t % 512 + 2 ^ 9 * s.rd A.tTmo t + 2 ^ 10 * slice v 1 4 + 2 ^ 14 * slice v 5 3 + 2 ^ 32 * flags ∧
       x.rd A.jwait c = s.rd A.tMask t + 2 ^ 32 * slice tm 24 1 + 2 ^ 40 * slice tm 0 24 ∧
       x.rd A.jarg c = s.rd A.tArgNow t ∧ x.rd A.tFlags t = flags &&& (0xFFFFFFFF ^^^ s.rd A.tMaskNow t) ∧
       (∀ y, y ≠ t → x.rd A.tState y = s.rd A.tState y ∧ x.rd A.tFlags y = s.rd A.tFlags y) ∧ (∀ o, x.reg o = s.reg o) ∧
       x.mem = s.mem) ∧
   (s.rd A.tState u = 1 → us ≠ 0 → us * 1000 ≤ s.mono - s.rd A.tSince u → Completes (exec (.taskTimeout die task) s) fun x =>
     x.rd A.tState u = 2 ∧ x.rd A.tTmo u = 1 ∧ x.rd A.tReadyAt u = s.mono % 2 ^ 64 ∧ x.rd A.tFlags u = s.rd A.tFlags u) ∧
   (s.rd A.tState u ≠ 1 ∨ us = 0 ∨ s.mono - s.rd A.tSince u < us * 1000 → exec (.taskTimeout die task) s = .next s)) ∧
  (∀ (s : State) (who : Who) (die : Fin 8) (task : Fin 512) (flag : Fin 32)
     (val : Word),
   let t := taskIx die task
   let u := 512 * die.val + s.rf (D die) DISP_TASK_SEL_TASK
   let v := val.toNat
   let put := s.wr A.tCfg u (slice v 0 17)
   let off := patch (slice v 0 17) 0 1 0
   let mayCfg := s.pfRights who = true ∨ s.mayTask who u = true ∧ slice v 8 9 = slice (s.rd A.tCfg u) 8 9
   s.Serving who →
   (s.mayTask who t = false → exec (.dispFlagSet who die task flag) s = .next (s.ans 1 0) ∧
     exec (.dispFlagClear who die task flag) s = .next (s.ans 1 0)) ∧
   (s.mayTask who t = true →
     let set := s.wr A.tFlags t (s.rd A.tFlags t ||| 2 ^ (flag : Nat))
     (s.rd A.tState t = 1 → taskMet (s.rd A.tMaskNow t) (slice (s.rd A.tTimeoutNow t) 24 1) (set.rd A.tFlags t) = true →
       exec (.dispFlagSet who die task flag) s = .next ((set.taskReady t 0).ans 0 0)) ∧
     (s.rd A.tState t ≠ 1 ∨ taskMet (s.rd A.tMaskNow t) (slice (s.rd A.tTimeoutNow t) 24 1) (set.rd A.tFlags t) = false →
       exec (.dispFlagSet who die task flag) s = .next (set.ans 0 0)) ∧
     exec (.dispFlagClear who die task flag) s = .next ((s.wr A.tFlags t (patch (s.rd A.tFlags t) flag 1 0)).ans 0 0)) ∧
   (¬ mayCfg → exec (.taskCfgWrite who die val) s = .next (s.ans 1 0)) ∧
   (mayCfg →
     (s.rd A.tState u = 0 → v.testBit 0 = true → exec (.taskCfgWrite who die val) s =
       .next ((((put.wr A.tCfgNow u (slice v 0 17)).wr A.tFlags u 0).taskWait u).ans 0 0)) ∧
     (s.rd A.tState u = 1 ∨ s.rd A.tState u = 2 → v.testBit 0 = false → exec (.taskCfgWrite who die val) s =
       .next ((((((if s.rd A.tState u = 1 then put.wr A.tCfgNow u (slice v 0 17) else put).wr A.tState u 0).wr A.tFlags u 0).wr
         A.tCfg u off).wr A.tCfgNow u off).ans 0 0)) ∧
     (s.rd A.tState u = 3 → exec (.taskCfgWrite who die val) s =
       .next ((put.wr A.tFreeAtEnd u (1 - slice v 0 1)).ans 0 0))) ∧
   (s.mayTask who u = false → exec (.taskHistClear who die) s = .next (s.ans 1 0)) ∧
   (s.mayTask who u = true → exec (.taskHistClear who die) s =
     .next (((s.drop A.tHist fun i => i / 8 = u).wr A.tWaitMax u 0).ans 0 0)))

/-- A pop (R217, R237, R241, R249): by an initiator without rights it is DENIED and removes nothing; from a queue
without a readable packet it reads 0 with EMPTY; else it removes the oldest readable word, with EOP on the last of its
packet. A core sees the result in JQSTAT, a function in its own copy of QUEUE_ACC, with the upper half of the word
latched. A push (R217, R238 to R240, R249): DENIED without rights; refused as FULL by a queue that is disabled, that
has 8 open packets of other producers, or, not being a log queue, has no room; else the word stands at the end of the
producer's open packet. JQEND, and QUEUE_DATA_HI with CLOSE, close the packet. -/
def Obligations.QueuePopsAndPushes : Prop :=
  (∀ (s : State) (who : Who) (die : Fin 8) (core : Fin 32) (q : Fin 128) (p : QPacket)
     (w : Nat) (rest : List Nat),
   let c := coreIx die core
   let qc := 128 * die.val + s.rd A.jqsel c
   let qh := 128 * die.val + q
   let v := s.wr A.coreIdle c 0
   let first (q : Nat) := s.packets.find? fun p => p.queue = q ∧ p.readable
   let acc (u : State) (empty eop : Bool) : State :=
     ((u.accBit who qh 1 (bit empty)).accBit who qh 3 (bit eop)).accBit who qh 4 0
   (s.clocked = true → s.on A.coreUp c = true → s.rd A.coreLow c = 0 ∨ s.rd A.jctl c ≠ 0 →
     (s.mayQueue (.core die core) qc = false → exec (.jqdataPop die core) s = .next ((v.wr A.jqstat c 8).ans 0 0)) ∧
     (s.mayQueue (.core die core) qc = true →
       (first qc = none → exec (.jqdataPop die core) s = .next ((v.wr A.jqstat c 1).ans 0 0)) ∧
       (first qc = some p → s.on A.qPtrBad qc = false → p.words = w :: rest → w < 2 ^ 64 → exec (.jqdataPop die core) s =
         .next (((v.afterPop qc p).wr A.jqstat c (if rest = [] then 4 else 0)).ans 0 w)))) ∧
   (s.Serving who →
     (s.mayQueue who qh = false → exec (.queuePop who die q) s = .next ((s.accBit who qh 4 1).ans 1 0)) ∧
     (s.mayQueue who qh = true →
       (first qh = none → exec (.queuePop who die q) s =
         .next (((acc s true false).wr A.qHiLatch (accIx who qh) (2 ^ 32)).ans 0 0)) ∧
       (first qh = some p → s.on A.qPtrBad qh = false → p.words = w :: rest → w < 2 ^ 64 → exec (.queuePop who die q) s =
         .next (((acc (s.afterPop qh p) false (decide (rest = []))).wr A.qHiLatch (accIx who qh) (2 ^ 32 + w / 2 ^ 32)).ans 0
           (w % 2 ^ 32)))))) ∧
  (∀ (s : State) (who : Who) (die : Fin 8) (core : Fin 32) (q : Fin 128)
     (val : BitVec 64) (hi : Word),
   let c := coreIx die core
   let qc := 128 * die.val + s.rd A.jqsel c
   let qh := 128 * die.val + q
   let i := accIx who qh
   let lo := if (s.rd A.qHeld i).testBit 32 then s.rd A.qHeld i % 2 ^ 32 else s.rd A.qLastLo i
   let h := s.wr A.qHeld i 0
   let v := s.wr A.coreIdle c 0
   let close := (s.rd A.qAcc i).testBit 0
   let takes (q producer : Nat) : Prop := s.qEn q = true ∧ s.on A.qPtrBad q = false ∧ s.qClass q ≠ 2 ∧ s.qFits q 1 = true ∧
     (s.qOpen q producer ≠ none ∨ s.qOpens q < 8)
   let full (q producer : Nat) : Prop := s.qEn q = false ∨
     s.qOpen q producer = none ∧ 8 ≤ s.qOpens q ∨ s.qClass q ≠ 2 ∧ s.qFits q 1 = false
   (s.clocked = true → s.on A.coreUp c = true → s.rd A.coreLow c = 0 ∨ s.rd A.jctl c ≠ 0 →
     (s.mayQueue (.core die core) qc = false → exec (.jqdataPush die core val) s = .next (v.wr A.jqstat c 8) ∧
       exec (.jqend die core val) s = .next (v.wr A.jqstat c 8)) ∧
     (s.mayQueue (.core die core) qc = true →
       (full qc (1000 + c) → exec (.jqdataPush die core val) s = .next (v.wr A.jqstat c 2) ∧
         exec (.jqend die core val) s = .next (v.wr A.jqstat c 2)) ∧
       (takes qc (1000 + c) →
         exec (.jqdataPush die core val) s = .next ((v.afterPush qc (1000 + c) val.toNat false).wr A.jqstat c 0) ∧
         exec (.jqend die core val) s = .next ((v.afterPush qc (1000 + c) val.toNat true).wr A.jqstat c 0)))) ∧
   (s.Serving who →
     (s.mayQueue who qh = false → exec (.queuePush who die q hi) s = .next ((h.accBit who qh 4 1).ans 1 0)) ∧
     (s.mayQueue who qh = true →
       (full qh (whoProducer who) → exec (.queuePush who die q hi) s =
         .next (((h.accBit who qh 2 1).accBit who qh 4 0).ans 0 0)) ∧
       (takes qh (whoProducer who) → exec (.queuePush who die q hi) s =
         .next (((((h.afterPush qh (whoProducer who) (lo + 2 ^ 32 * hi.toNat) close).accBit who qh 2 0).accBit who qh 4
           0).accBit who qh 0 0).ans 0 0)))))

/-- A closed packet becomes readable, the oldest first; with EV_EN the queue's event is raised: in a queue of single
words when DEPTH reaches LEVEL, in the others with each packet (R237, R241). The configuration of a queue (R235, R236,
R242, R243, R245, R492): only the physical function writes QUEUE_CFG and EN; QUEUE_CFG of an enabled queue stays, with
CFG_ERR; an enable of a queue whose space runs past the last block, overlaps an enabled queue's or whose CLASS is
reserved fails with ERR; a disable empties the queue; a flush waits while its consumer stands within a packet, a reset
does not. -/
def Obligations.QueuePacketsAndSetup : Prop :=
  (∀ (s : State) (die : Fin 8) (q : Fin 128) (p : QPacket) (l r : List QPacket),
   let i := 128 * die.val + q
   let waits (x : QPacket) : Prop := x.queue = i ∧ x.closed = true ∧ x.readable = false
   let t : State := { s with packets := l ++ { p with readable := true } :: r }
   let level := s.rf (Q i) QUEUE_LEVEL_LEVEL
   s.clocked = true →
   ((∀ x ∈ s.packets, ¬ waits x) → exec (.packetReadable die q) s = .next s) ∧
   (s.packets = l ++ p :: r → waits p → (∀ x ∈ l, ¬ waits x) →
     (s.rf (Q i) QUEUE_CTRL_EV_EN = 0 → exec (.packetReadable die q) s = .next t) ∧
     (s.rf (Q i) QUEUE_CTRL_EV_EN = 1 → s.qClass i ≠ 0 ∨ level ≠ 0 ∧ s.qDepth i < level ∧ level ≤ t.qDepth i →
       exec (.packetReadable die q) s = .next (t.raise (0x100 + i))) ∧
     (s.qClass i = 0 → level = 0 ∨ level ≤ s.qDepth i ∨ t.qDepth i < level → exec (.packetReadable die q) s = .next t))) ∧
  (∀ (s : State) (who : Who) (die : Fin 8) (q : Fin 128) (val : Word),
   let i := 128 * die.val + q
   let first := s.rf (Q i) QUEUE_CFG_BASE
   let last := first + s.rf (Q i) QUEUE_CFG_SIZE
   let overlaps (o : Nat) : Prop := s.qEn o = true ∧ s.rf (Q o) QUEUE_CFG_BASE ≤ last ∧
     first ≤ s.rf (Q o) QUEUE_CFG_BASE + s.rf (Q o) QUEUE_CFG_SIZE
   let bad := 1023 < last ∨ s.qClass i = 3 ∨ ∃ o < 128, 128 * die.val + o ≠ i ∧ overlaps (128 * die.val + o)
   let sound : Prop := s.on A.qPtrBad i = false
   let emptied : State := State.wf { s.qMark i with packets := s.packets.filter fun p => p.queue ≠ i } (Q i)
     QUEUE_CTRL_FLUSH_PENDING 0
   s.Serving who →
   (s.pfRights who = false → exec (.queueCfgWrite who die q val) s = .next (s.ans 1 0) ∧
     exec (.queueEnable who die q) s = .next (s.ans 1 0) ∧ exec (.queueDisable who die q) s = .next (s.ans 1 0)) ∧
   (s.pfRights who = true →
     (s.qEn i = true → exec (.queueCfgWrite who die q val) s = .next ((s.wf (Q i) QUEUE_CTRL_CFG_ERR 1).ans 0 0) ∧
       exec (.queueEnable who die q) s = .next (s.ans 0 0) ∧
       (sound → exec (.queueDisable who die q) s = .next ((emptied.wf (Q i) QUEUE_CTRL_EN 0).ans 0 0))) ∧
     (s.qEn i = false →
       exec (.queueCfgWrite who die q val) s =
         .next (((s.wr A.reg (Q i) (patch val.toNat 3 1 0)).wf (Q i) QUEUE_CTRL_CFG_ERR 0).ans 0 0) ∧
       (bad → exec (.queueEnable who die q) s = .next ((s.wf (Q i) QUEUE_CTRL_ERR 1).ans 0 0)) ∧
       (¬ bad → exec (.queueEnable who die q) s =
         .next (((s.wf (Q i) QUEUE_CTRL_EN 1).wf (Q i) QUEUE_CTRL_ERR 0).ans 0 0)) ∧
       exec (.queueDisable who die q) s = .next (s.ans 0 0))) ∧
   (s.mayCtrl who i = false → exec (.flush who die q) s = .next (s.ans 1 0) ∧
     exec (.queueReset who die q) s = .next (s.ans 1 0)) ∧
   (s.mayCtrl who i = true →
     (sound → exec (.queueReset who die q) s = .next (emptied.ans 0 0)) ∧
     ((∃ p ∈ s.packets, p.queue = i ∧ p.popped = true) →
       exec (.flush who die q) s = .next ((s.wf (Q i) QUEUE_CTRL_FLUSH_PENDING 1).ans 0 0)) ∧
     ((∀ p ∈ s.packets, p.queue = i → p.popped = false) → sound → Completes (exec (.flush who die q) s) fun t =>
       t.packets = s.packets.filter (fun p => ¬ (p.queue = i ∧ p.closed)) ∧ t.rf (Q i) QUEUE_CTRL_FLUSH_PENDING = 0 ∧
       t.rsp = ⟨0, 0, 0⟩ ∧ t.mem = s.mem ∧ ∀ x : Arr, x.code < 512 → x.code ≠ A.reg.code → ∀ j, t.rd x j = s.rd x j)))

/-- The commands of REC_CTRL (R250, R260, R265, R464): an initiator without rights on the slot is DENIED; ARM and START
with an invalid region are refused with 1, while a recording is replayed with 4, SNAP unless the recorder is ON or in
POST with 4; ARM, START and STOP wait for the next boundary (log 20); OFF ends writing at once; RESTORE is refused with
4 unless the partition is IDLE, with 3 without a complete snapshot at REC_POS, with 2 where the partition does not fit
it. The region (R250, R262, R464): REC_REGION is set by the physical function alone, for an IDLE partition whose
recorder is OFF, and is valid where the partition owns all of it; an empty recording then begins at its start. REC_TAIL
is set only in continuous mode and only to a packet offset that is retained, or to REC_HEAD; the packets before it go,
and a feed that reads one of them has overrun. -/
def Obligations.RecorderCommands : Prop :=
  (∀ (s : State) (who : Who) (slot : Fin 32),
   let k : Nat := slot
   let off := s.reg (P k + oREC_POS_LO) + 2 ^ 32 * slice (s.reg (P k + oREC_POS_HI)) 0 4
   let res (r : Nat) : State := (s.wf (P k) REC_CTRL_RESULT r).wf (P k) REC_CTRL_REFUSED (if r = 0 then 0 else 1)
   let asks (c : Nat) : State := ((res 0).wr A.recWant k (patch (s.rd A.recWant k) 0 2 c)).ans 0 0
   let valid := s.rf (P k) REC_REGION_VALID = 1
   s.Serving who →
   (s.maySlot who k = false → ∀ c ∈ [Instr.recArm who slot, .recStart who slot, .recStop who slot, .recOff who slot,
     .recSnap who slot, .restore who slot], exec c s = .next (s.ans 1 0)) ∧
   (s.maySlot who k = true →
     (¬ valid → exec (.recArm who slot) s = .next ((res 1).ans 0 0) ∧
       exec (.recStart who slot) s = .next ((res 1).ans 0 0)) ∧
     (valid → s.replaying k = true → exec (.recArm who slot) s = .next ((res 4).ans 0 0) ∧
       exec (.recStart who slot) s = .next ((res 4).ans 0 0)) ∧
     (valid → s.replaying k = false → exec (.recArm who slot) s = .next (asks 1) ∧
       exec (.recStart who slot) s = .next (asks 2)) ∧
     exec (.recStop who slot) s = .next (asks 3) ∧
     (2 ≤ s.rf (P k) REC_CTRL_STATE → exec (.recSnap who slot) s = .next (((res 0).wr A.recSnapReq k 4).ans 0 0)) ∧
     (s.rf (P k) REC_CTRL_STATE < 2 → exec (.recSnap who slot) s = .next ((res 4).ans 0 0)) ∧
     (Completes (exec (.recOff who slot) s) fun t => t.rf (P k) REC_CTRL_STATE = 0 ∧ t.rd A.recWant k = 0 ∧
       t.rf (P k) REC_CTRL_RESULT = 0 ∧ t.rf (P k) REC_STATUS_FULL = 0 ∧ t.rf (P k) REC_STATUS_SNAPPING = 0 ∧
       t.snaps = s.snaps.filter (fun x => x.slot ≠ k) ∧
       t.recLog = s.recLog.filter (fun p => ¬ (p.slot = k ∧ p.waiting)) ∧ t.mem = s.mem ∧ t.rsp = ⟨0, 0, 0⟩) ∧
     (s.rd A.pState k ≠ 1 → exec (.restore who slot) s = .next ((res 4).ans 0 0)) ∧
     (s.rd A.pState k = 1 →
       (s.completeSnap (s.srcSlot k) off = none → exec (.restore who slot) s = .next ((res 3).ans 0 0)) ∧
       ∀ b, s.completeSnap (s.srcSlot k) off = some b →
         (s.geometryBad k (s.srcSlot k) b = true → exec (.restore who slot) s = .next ((res 2).ans 0 0)) ∧
         (s.geometryBad k (s.srcSlot k) b = false → Completes (exec (.restore who slot) s) fun t =>
           t.rd A.pCycle k = (b.cyc + 1) % 2 ^ 48 ∧ t.rd A.esIdx k = slice (b.body.getD 4 0) 13 12 ∧
           t.rd A.esLen k = slice (b.body.getD 4 0) 0 13 ∧ t.rd A.pState k = 1 ∧ t.rf (P k) REC_CTRL_RESULT = 0 ∧
           (∀ i, s.slotOfBed (i / 1024) = some k → t.rd A.landP i = 0) ∧
           t.rf (P k) REC_STATUS_REPLAYING = (if s.replaying k then 1 else 0) ∧ t.rsp = ⟨0, 0, 0⟩)))) ∧
  (∀ (s : State) (who : Who) (slot : Fin 32) (val : Word),
   let k : Nat := slot
   let v := val.toNat
   let res (r : Nat) : State := (s.wf (P k) REC_CTRL_RESULT r).wf (P k) REC_CTRL_REFUSED (if r = 0 then 0 else 1)
   let lo := P k + oREC_TAIL_LO
   let off := (if (s.rd A.heldLo lo).testBit 32 then s.rd A.heldLo lo % 2 ^ 32 else s.reg lo) + 2 ^ 32 * slice v 0 4
   let w := s.wr A.heldLo lo 0
   let known := (∃ p ∈ s.recLog, p.slot = k ∧ p.waiting = false ∧ p.off = off) ∨ off = s.recHead k
   s.Serving who →
   (s.maySlot who k = false → exec (.recRegionWrite who slot val) s = .next (s.ans 1 0) ∧
     exec (.recTailWrite who slot val) s = .next (s.ans 1 0)) ∧
   (s.maySlot who k = true →
     (s.pfRights who = false → exec (.recRegionWrite who slot val) s = .next ((res 5).ans 0 0)) ∧
     (s.pfRights who = true → s.rf (P k) REC_CTRL_STATE ≠ 0 ∨ s.rd A.pState k ≠ 1 →
       exec (.recRegionWrite who slot val) s = .next ((res 4).ans 0 0)) ∧
     (s.pfRights who = true → s.rf (P k) REC_CTRL_STATE = 0 → s.rd A.pState k = 1 → v.testBit 31 = true →
       (s.ownsRegion (s.rd A.pPid k) (slice v 0 9) (slice v 16 6 + 1) = true →
         Completes (exec (.recRegionWrite who slot val) s) fun t =>
           t.rf (P k) REC_REGION_BASE = slice v 0 9 ∧ t.rf (P k) REC_REGION_SIZE = slice v 16 6 ∧
           t.rf (P k) REC_REGION_VALID = 1 ∧ t.recHead k = 0 ∧ t.recTail k = 0 ∧ t.rd A.recPktSeq k = 0 ∧
           t.recLog = s.recLog.filter (fun p => p.slot ≠ k) ∧ t.mem = s.mem) ∧
       (s.ownsRegion (s.rd A.pPid k) (slice v 0 9) (slice v 16 6 + 1) = false →
         Completes (exec (.recRegionWrite who slot val) s) fun t =>
           t.rf (P k) REC_REGION_VALID = 0 ∧ t.rf (P k) REC_CTRL_RESULT = 1 ∧ t.recLog = s.recLog)) ∧
     (s.rf (P k) REC_CFG_MODE = 1 ∨ ¬ known → exec (.recTailWrite who slot val) s = .next (w.ans 0 0)) ∧
     (s.rf (P k) REC_CFG_MODE ≠ 1 → known → exec (.recTailWrite who slot val) s = .next
       (State.ans (((State.recPump (w.freeRegion k (if off = s.recTail k then 0 else bytesBefore off (s.kept k))) k
         (s.recLog.length + 1)).recSettle k).each 32 State.feedOverrun) 0 0))))

/-- Packets of a recording (R252, R257, R259, R261 to R263), in continuous mode, into a region with room: a packet
takes the place at REC_HEAD with the next sequence number, after a PAD to the end of the region where it would cross
it; without room it waits, FULL is set and the partition is held with cause 3. A SNAP_END, and a packet that goes
before one of a higher die at its position, are not covered. What the recorder's engines do (R255, R256, R261, R272,
R273): the oldest packets of a die's write buffer reach HBM; copy-on-write rows are written out; a snapshot whose copy
is complete and whose deliveries are logged ends with SNAP_END and, once that has its place, shows in REC_SNAP; a
history row that its dump awaits goes into a DUMP packet after its last write. The feed of a replay (R268, R269): the
next packet of the recording is fed once the partition has come to its position, and not before; past the last one the
replay ends, the partition stops at the end of the emulated cycle and source 0x540 + slot is raised; a packet that is
no longer retained ends the feed with RESULT 6 and stops the partition at once. The layout of a packet in HBM (R257):
two header words and the body, little-endian, written from its place in the region on, in a partition that owns it
there; nothing else changes. And a row or word that leaves the copy-on-write buffer (R255, R258): a SNAP_DATA packet
with COW = 1 at the position of the write. What a fed packet writes (R258, R267): LAND its bits, unless the links are
live; PORT and PIN their lines, with due step 0 (log 174); ESEQ its table; SVCWR its words of the bay; STORE its row;
TRIG the command; a packet of another type nothing. -/
def Obligations.RecordingAndReplay : Prop :=
  (∀ (s : State) (k die typ cyc step phase : Nat) (body : List Nat),
   let n := 8 * (2 + body.length)
   let size := (s.rf (P k) REC_REGION_SIZE + 1) * 2 ^ 30
   let head := s.recHead k
   let seq := s.rd A.recPktSeq k
   let used := ((s.kept k).map (·.bytes)).sum
   let t := s.recPacket k die typ cyc step phase body
   s.rf (P k) REC_CFG_MODE ≠ 1 → s.rd A.recMute k = 0 → (∀ p ∈ s.recLog, p.slot = k → p.waiting = false) →
   seq + 2 < 2 ^ 32 → typ ≠ 4 →
   (∀ p, (s.kept k).getLast? = some p → p.typ ≠ 0 ∧ (isInput p.typ = true → p.cyc = cyc → p.step = step → p.die ≤ die)) →
   (head + n ≤ size → used + n ≤ size →
     t.recLog = s.recLog ++ [⟨k, head, typ, die, seq, cyc, step, phase, body, n, true, false⟩] ∧
     t.recHead k = (head + n) % size ∧ t.rd A.recPktSeq k = seq + 1) ∧
   (head ≤ size → size < head + n → used + (size - head + n) ≤ size →
     t.recLog = s.recLog ++ [⟨k, head, 0, die, seq, 0, 0, 0, [], size - head, true, false⟩,
       ⟨k, 0, typ, die, seq + 1, cyc, step, phase, body, n, true, false⟩] ∧
     t.recHead k = n % size ∧ t.rd A.recPktSeq k = seq + 2) ∧
   (head + n ≤ size → size < used + n →
     t.recLog = s.recLog ++ [⟨k, 0, typ, die, 0, cyc, step, phase, body, n, false, true⟩] ∧ (k, 3) ∈ t.causes ∧
     t.rf (P k) REC_STATUS_FULL = 1 ∧ t.rd A.recPktSeq k = seq)) ∧
  (∀ (s : State) (die : Fin 8) (slot : Fin 32) (wall : WallLoc) (step : Fin 512)
     (rows : Nat),
   let k : Nat := slot
   let w := wallIx wall
   let t : Nat := step
   s.clocked = true →
   (∀ p, (s.recLog.find? fun p => p.die = (die : Nat) ∧ p.buffered) = some p →
     exec (.recorderBufferDrained die 1) s = .next (State.each { s.pktToHbm p with
       recLog := s.recLog.map fun x => if x = p then { x with buffered := false } else x } 32 State.backlogSettle)) ∧
   (s.snapOf k = none → exec (.cowBufferDrained slot rows) s = .next s) ∧
   (∀ x, s.snapOf k = some x → exec (.cowBufferDrained slot rows) s = .next ((s.cowDrain x rows).recSettle k)) ∧
   (∀ x b, s.snapOf k = none → s.rf (P k) REC_CFG_MODE ≠ 1 → s.rd A.recMute k = 0 →
     (∀ p ∈ s.recLog, p.slot = k → p.waiting = false) → s.recHead k + 32 ≤ s.regionBytes k →
     s.regionUsed k + 32 ≤ s.regionBytes k →
     (s.snaps.find? fun x => x.slot = k ∧ x.copied ∧ ¬ x.ended ∧ x.owed = []) = some x →
     (∀ z ∈ s.snaps, z.slot = k → z.cyc = x.cyc → z = x) → b ∈ s.kept k → b.typ = 2 → b.off = x.off →
     Completes (exec (.snapEnd slot) s) fun t =>
       t.snaps = s.snaps.filter (fun z => ¬ (z.slot = k ∧ z.cyc = x.cyc)) ∧
       t.reg (P k + oREC_SNAP_LO) = b.off % 2 ^ 32 ∧ t.reg (P k + oREC_SNAP_HI) = (b.off / 2 ^ 32 + 2 ^ 31) % 2 ^ 32 ∧
       t.reg (P k + oREC_SNAP_CYC_LO) = x.cyc % 2 ^ 32 ∧ (∀ p ∈ s.recLog, p ∈ t.recLog)) ∧
   (s.slotOfWall w = some k → s.on A.dumpDue (512 * w + t) = true →
     (t < s.rd A.pStep k → s.rd A.pStep k < t + 4 → exec (.dumpRowCopy slot wall step) s = .next s) ∧
     (t + 4 ≤ s.rd A.pStep k → exec (.dumpRowCopy slot wall step) s =
       .next (((s.recPacket k (w / 16) 0xE (s.posCycle k) t 0 ((2 ^ 4 * (w % 16)) :: s.dumpRows w t)).wr A.dumpDue
         (512 * w + t) 0).recSettle k)) ∧
     (s.rd A.pStep k ≤ t → exec (.dumpRowCopy slot wall step) s =
       .next (((s.recPacket k (w / 16) 0xE (s.posCycle k - 1) t 0 ((2 ^ 4 * (w % 16)) :: s.dumpRows w t)).wr A.dumpDue
         (512 * w + t) 0).recSettle k))) ∧
   (s.on A.dumpDue (512 * w + t) = false → exec (.dumpRowCopy slot wall step) s = .next s)) ∧
  (∀ (s : State) (slot : Fin 32) (p : RecPkt),
   let k : Nat := slot
   let seq := s.rd A.feedSeq k
   let next := 1 + seq % 2 ^ 32
   let last := s.rd A.recPktSeq (s.srcSlot k) + 1
   let ended := ((s.wf (P k) REC_STATUS_REPLAY_END 1).wf (P k) REC_STATUS_REPLAYING 0).wr A.feedSeq k 0
   s.clocked = true →
   (s.replaying k = false ∨ seq = 0 → exec (.feedPacket slot) s = .next s) ∧
   (s.replaying k = true → seq ≠ 0 →
     (s.feedNext k = some p → s.feedable k p = false → exec (.feedPacket slot) s = .next s) ∧
     (s.feedNext k = some p → s.feedable k p = true → next ≠ last → exec (.feedPacket slot) s =
       .next ((((s.pktRead p).feedPkt k p).wr A.feedSeq k next).wr A.feedAt k ((p.off + p.bytes) % s.regionBytes p.slot))) ∧
     (s.feedNext k = some p → s.feedable k p = true → p.typ = 1 → p.buffered = true → next ≠ last →
       exec (.feedPacket slot) s =
       .next (((s.wr A.feedMark k p.cyc).wr A.feedSeq k next).wr A.feedAt k ((p.off + p.bytes) % s.regionBytes p.slot))) ∧
     (∀ w, s.feedNext k = some p → s.feedable k p = true → p.typ = 0xA → p.buffered = true →
       s.wallFor k (16 * p.die + slice (p.body.headD 0) 4 4) = some w → next ≠ last →
       Completes (exec (.feedPacket slot) s) fun t =>
         let d := p.body.headD 0
         let bed := 16 * (16 * w + slice d 8 4) + slice d 12 4
         t.rd A.port (portKey bed ((p.cyc + 1) % 4) (slice d 16 4)) = (p.body.drop 1).headD 0 % 2 ^ 64 ∧
         (t.rd A.portP (4 * bed + (p.cyc + 1) % 4)).testBit (slice d 16 4) = true ∧ t.rd A.feedSeq k = next) ∧
     (seq = last →
       (s.stoppable k = false → exec (.feedPacket slot) s = .next (ended.raise (0x540 + k))) ∧
       (s.stoppable k = true → exec (.feedPacket slot) s = .next ((ended.addStop
         ⟨k, max (s.rd A.feedMark k) (s.stopCycle k), 0, true⟩).raise (0x540 + k)))) ∧
     (s.feedNext k = none → seq ≠ last → exec (.feedPacket slot) s =
       .next ((((s.wf (P k) REC_CTRL_RESULT 6).wf (P k) REC_STATUS_REPLAYING 0).wr A.feedSeq k 0).act k 0 2)))) ∧
  (∀ (s : State) (slot : Fin 32) (p : RecPkt) (x : SnapRun) (r : CowRow)
     (rest : List CowRow),
   let k : Nat := slot
   let pid := s.rd A.pPid p.slot
   let base := s.rf (P p.slot) REC_REGION_BASE * 2 ^ 30 + p.off
   let words := [p.typ + 2 ^ 8 * pid + 2 ^ 16 * (p.bytes / 8 % 2 ^ 13) + 2 ^ 29 * p.die + 2 ^ 32 * p.seq,
     p.cyc + 2 ^ 48 * p.step + 2 ^ 58 * p.phase] ++ p.body
   let i := r.key / 512
   let desc := if r.key % 512 = A.state.code then
       2 ^ 4 * (i / 65536 % 16) + 2 ^ 8 * (i / 4096 % 16) + 2 ^ 16 + 2 ^ 18 * (256 * (i / 256 % 16) + i % 256) + 2 ^ 36
     else 1 + 2 ^ 4 * (i / 131072 % 16) + 2 ^ 16 + 2 ^ 18 * (i % 131072) + 2 ^ 36
   let gone : State := { s with snaps := s.snaps.map fun z => if z.slot = x.slot ∧ z.cyc = x.cyc then
     { z with saved := z.saved.map fun y => if y = r then { y with drained := true } else y } else z }
   (p.bytes = 8 * words.length → s.l2 = [] → base % 8 = 0 →
     (∀ j < words.length, let a := base + 8 * j
       a < hbmBytes ∧ s.noRoute p.die 40 (2 ^ 40 * s.chainAddr + 2 ^ 39 + a) = none ∧ s.granuleOwner a = some pid ∧ s.rf (D (hbmDie a)) HBM_STATUS_DEGRADED = 0 ∧
         s.lineOpen a = false ∧ s.rd A.hbmErr (a / 64) = 0 ∧ s.domOn (hbmDie a) domMem = true) →
     let t := s.pktToHbm p
     (∀ j < words.length, t.bytes (base + 8 * j) 8 = words.getD j 0 % 2 ^ 64) ∧
     (∀ a, a < base ∨ base + p.bytes ≤ a → t.byte a = s.byte a)) ∧
   (s.clocked = true → s.snapOf k = some x → (x.saved.filter fun y => y.drained = false) = r :: rest →
     (s.bufBytes r.die + 32 ≤ 256 * 1024 → exec (.cowBufferDrained slot 1) s =
       .next ((gone.recPacket x.slot r.die 3 r.cyc r.step 0 [desc, r.val]).recSettle k)) ∧
     (256 * 1024 < s.bufBytes r.die + 32 → exec (.cowBufferDrained slot 1) s = .next (s.recSettle k)))) ∧
  (∀ (s : State) (slot : Fin 32) (p : RecPkt) (w : Nat),
   let k : Nat := slot
   let d := p.body.headD 0
   let ws := p.body.drop 1
   let t := s.feedPkt k p
   let u := 16 * w + slice d 8 4
   let first := slice d 16 4
   let target := ws.headD 0
   let row := slice (ws.headD 0) 32 9
   let bed := 256 * w + 16 * slice (ws.headD 0) 45 4 + slice (ws.headD 0) 41 4
   (p.typ ∉ [1, 5, 8, 9, 0xA, 0xB, 0xC, 0xD] → t = s) ∧
   (p.typ = 8 → s.rf (P k) REC_REPLAY_LIVE_LINKS = 1 → t = s) ∧
   (p.typ = 8 → s.rf (P k) REC_REPLAY_LIVE_LINKS = 0 → ws.length = 1 → w < 128 →
     s.wallFor k (16 * p.die + slice (ws.headD 0) 49 4) = some w →
     let key := landKey bed (slice (ws.headD 0) 53 1) row
     (∀ l < 16, (t.rd A.land key).testBit l = if (ws.headD 0).testBit (16 + l) then (ws.headD 0).testBit l
       else (s.rd A.land key).testBit l) ∧
     t.rd A.landP key = (s.rd A.landP key ||| slice (ws.headD 0) 16 16)) ∧
   (p.typ = 9 → s.wallFor k (16 * p.die + slice d 4 4) = some w → first + slice d 20 4 ≤ 16 →
     (∀ i < slice d 20 4, let line := portKey (16 * u + slice d 12 4) (target % 4) (first + i)
       t.rd A.port line = ws.getD (1 + i) 0 % 2 ^ 64 ∧
       t.rd A.portDue line = 2 ^ 9 * slice d 24 2 ∧
       (t.rd A.portP (4 * (16 * u + slice d 12 4) + target % 4)).testBit (first + i) = true) ∧
     t.rd A.tagOut (128 * u + slice d 26 7) = 0) ∧
   (p.typ = 0xA → s.wallFor k (16 * p.die + slice d 4 4) = some w →
     let line := portKey (16 * u + slice d 12 4) ((p.cyc + 1) % 4) first
     t.rd A.port line = ws.headD 0 % 2 ^ 64 ∧ t.rd A.portDue line = 0) ∧
   (p.typ = 0xB → slice d 0 13 ≤ 4096 →
     t.rd A.esLen k = slice d 0 13 ∧ t.rd A.esIdx k = slice d 13 12 ∧
     ∀ i < slice d 0 13, t.rd A.esTab (4096 * k + i) = ws.getD i 0 % 2 ^ 64) ∧
   (p.typ = 0xC → s.wallFor k (16 * p.die + slice d 4 4) = some w → slice d 25 4 = 1 →
     t.bayRd w (slice d 8 17) % 2 ^ 64 = match slice d 29 2 with
       | 0 => ws.headD 0 % 2 ^ 64
       | 1 => patch ((s.bayStep w).bayRd w (slice d 8 17)) 0 32 (ws.headD 0) % 2 ^ 64
       | _ => patch ((s.bayStep w).bayRd w (slice d 8 17)) 32 32 (ws.headD 0 / 2 ^ 32) % 2 ^ 64) ∧
   (p.typ = 0xD → s.wallFor k (16 * p.die + slice d 8 4) = some w → t =
     s.bedStore (bedAccOf (w / 16) (patch (slice d 0 32) 8 4 (w % 16)) (slice d 32 32)) (ws.getD 1 0 + 2 ^ 64 * ws.getD 2 0)
       (slice (ws.headD 0) 0 16) ((ws.headD 0).testBit 16) ((ws.headD 0).testBit 17)) ∧
   (∀ x, p.typ = 5 → s.unitFor k (4 * slice d 4 3 + slice d 2 2) = some x →
     (slice d 0 2 = 1 → t = (s.loadTrig k x (ws.getD 15 0) (ws.take 14) (ws.getD 14 0)).doArm x) ∧
     (slice d 0 2 = 2 → t = s.doDisarm x) ∧
     (slice d 0 2 = 3 → t = s.wr A.tgForce x 1)))

/-- Commands to a trigger unit (R282, R283, R291): DENIED without rights on the unit; ARM is refused with 5 unless the
unit is IDLE or DONE, with 4 on a unit without owner or with a word that is not its owner's, with 6 for a reserved
field or an area beyond 1,024 blocks, with 3 for an area that meets one of another unit that is not IDLE, with 2 where
PRE, the sample and POST exceed its area; that the first of these shows is the model's reading (log 51). An accepted
ARM starts FILLING, or, with PRE = 0, is ARMED at once; DISARM leaves the unit IDLE; FORCE is taken only in ARMED. -/
def Obligations.TriggerCommands : Prop := ∀ (s : State) (who : Who) (die : Fin 8) (unit : Fin 4),
  let u := 4 * die.val + unit
  let st := s.rf (TU u) TRIG_CTRL_STATE
  let pre := slice (s.rf (TU u) TRIG_PRE_VALUE) 0 20
  let post := slice (s.rf (TU u) TRIG_POST_VALUE) 0 20
  let refused (r : Nat) : State := ((s.wf (TU u) TRIG_CTRL_RESULT r).wf (TU u) TRIG_CTRL_REFUSED 1).ans 0 0
  let uses (w : Nat) : Prop := (s.rf (TU u) TRIG_CAP_MASK_VALUE).testBit w = true ∨
    ∃ c < 2, s.rf (cmpBase u c) TRIG_CMP_CFG_KIND ≠ 0 ∧ s.rf (cmpBase u c) TRIG_CMP_CFG_WORD = w
  let top (v : Nat) := s.rf (TU v) TRIG_CAP_CFG_BASE + s.rf (TU v) TRIG_CAP_CFG_SIZE_M1 + 1
  let confine := s.unitOwner u = none ∨ ∃ w < 32, uses w ∧ s.wordOwner (32 * die + w) ≠ s.unitOwner u
  let field := (∃ c < 2, 6 ≤ s.rf (cmpBase u c) TRIG_CMP_CFG_KIND ∨ s.rf (cmpBase u c) TRIG_CMP_CFG_DIR = 3) ∨
    (∃ i < 8, 9 ≤ s.rf (TU u + 4 * i) TRIG_SEQ_COND) ∨ 1024 < top u
  let overlap := ∃ j < 4, 4 * die + j ≠ u ∧ s.rf (TU (4 * die + j)) TRIG_CTRL_STATE ≠ 0 ∧
    s.rf (TU u) TRIG_CAP_CFG_BASE < top (4 * die + j) ∧ s.rf (TU (4 * die + j)) TRIG_CAP_CFG_BASE < top u
  let short := s.capWords u ≠ [] ∧ s.capN u < pre + post + 1
  let quiet := ∀ k, (s.unitOwner u).bind s.slotOfPid = some k → s.recording k = false
  s.ServingDom who die domFab →
  (s.mayUnit who u = false → exec (.trigArm who die unit) s = .next (s.ans 1 0) ∧
    exec (.trigDisarm who die unit) s = .next (s.ans 1 0) ∧ exec (.trigForce who die unit) s = .next (s.ans 1 0)) ∧
  (s.mayUnit who u = true →
    (st ≠ 0 → st ≠ 4 → exec (.trigArm who die unit) s = .next (refused 5)) ∧
    (st = 0 ∨ st = 4 →
      (confine → exec (.trigArm who die unit) s = .next (refused 4)) ∧
      (¬ confine → field → exec (.trigArm who die unit) s = .next (refused 6)) ∧
      (¬ confine → ¬ field → overlap → exec (.trigArm who die unit) s = .next (refused 3)) ∧
      (¬ confine → ¬ field → ¬ overlap → short → exec (.trigArm who die unit) s = .next (refused 2)) ∧
      (¬ confine → ¬ field → ¬ overlap → ¬ short → quiet → Completes (exec (.trigArm who die unit) s) fun t =>
        t.rf (TU u) TRIG_CTRL_STATE = (if pre = 0 then 2 else 1) ∧ t.rf (TU u) TRIG_CTRL_RESULT = 0 ∧
        (pre = 0 → t.rf (TU u) TRIG_CTRL_SEQ = 0 ∧ t.rd A.tgCount u = 0) ∧ t.rd A.tgFill u = 0 ∧ t.rd A.tgNext u = 0 ∧
        t.rd A.tgValid u = 0 ∧ t.rd A.tgOut u = 0 ∧ t.rd A.tgForce u = 0 ∧ t.rsp = ⟨0, 0, 0⟩ ∧ t.mem = s.mem)) ∧
    (quiet → Completes (exec (.trigDisarm who die unit) s) fun t => t.rf (TU u) TRIG_CTRL_STATE = 0 ∧ t.rd A.tgOut u = 0 ∧
      t.rd A.tgForce u = 0 ∧ t.rsp = ⟨0, 0, 0⟩ ∧ t.mem = s.mem) ∧
    (st ≠ 2 → exec (.trigForce who die unit) s = .next (refused 5)) ∧
    (st = 2 → quiet → exec (.trigForce who die unit) s =
      .next ((((s.wf (TU u) TRIG_CTRL_RESULT 0).wf (TU u) TRIG_CTRL_REFUSED 0).wr A.tgForce u 1).ans 0 0)))

/-- An edge on trigger input i sets the EXT latch of exactly the units that enable EXT on that input (R281, R290),
where the input has its pin; without one it rests at 0 and has no edge (R440, R442). The probe map (R276, R277, R291):
the physical function writes it; an entry with EN = 1 whose cell is not on a wall of the word's owner is refused with
2, any entry of a word that an armed unit uses with 3; its owner may read it. AUTOINC advances SLOT after each access.
The sample of an ARMED unit at step D+1 of n (R279, R280, R284): where the condition of its sequencer state holds for
the COUNT-th time and the state has FIRE = 1, the unit fires: its FIRE registers name n, it drives its output, and it
is in POST, or DONE with POST = 0; with FIRE = 0 the sequencer goes to NEXT; where it does not hold, the state stays. -/
def Obligations.TriggerSampling : Prop :=
  (∀ (s : State) (input : Fin 8), s.clocked = true →
   (s.sigHeard (0x2C + input) = false → exec (.triggerInputEdge input) s = .next s) ∧
   (s.sigHeard (0x2C + input) = true →
   Completes (exec (.triggerInputEdge input) s) fun t =>
     (∀ u < 32, t.rd A.tgExt u =
       if s.rf (TU u) TRIG_CFG_EXT_EN = 1 ∧ s.rf (TU u) TRIG_CFG_EXT_IN = (input : Nat) then 1 else s.rd A.tgExt u) ∧
     (∀ x : Arr, x.code < 512 → x.code ≠ A.tgExt.code → ∀ j, t.rd x j = s.rd x j) ∧ t.mem = s.mem)) ∧
  (∀ (s : State) (who : Who) (die : Fin 8) (val : Word),
   let d := D die
   let n : Nat := die
   let v := val.toNat
   let word := s.rf d PROBE_MAP_SEL_WORD
   let i := 2048 * n + 64 * word + s.rf d PROBE_MAP_SEL_SLOT
   let next (u : State) : State := if s.rf d PROBE_MAP_SEL_AUTOINC = 1 then
     u.wf d PROBE_MAP_SEL_SLOT (s.rf d PROBE_MAP_SEL_SLOT + 1) else u
   let mine := (s.wordOwner (32 * n + word)).any (s.wallOf (16 * n + slice v 12 4))
   let done (r : Nat) : Res := .next ((next (s.wf d PROBE_MAP_SEL_RESULT r)).ans 0 0)
   s.ServingDom who die domFab →
   (s.pfRights who = false → exec (.probeMapWrite who die val) s = .next (s.ans 1 0)) ∧
   (s.pfRights who = true →
     (s.wordFree n word = false → exec (.probeMapWrite who die val) s = done 3) ∧
     (s.wordFree n word = true → v.testBit 16 = true → mine = false → exec (.probeMapWrite who die val) s = done 2) ∧
     (s.wordFree n word = true → v.testBit 16 = false ∨ mine = true → exec (.probeMapWrite who die val) s =
       .next ((next ((s.wf d PROBE_MAP_SEL_RESULT 0).wr A.pmap i (slice v 0 17))).ans 0 0))) ∧
   (s.pfRights who = true ∨ s.isOwner who (s.wordOwner (32 * n + word)) = true → exec (.probeMapRead who die) s =
     .next ((next (s.wf d PROBE_MAP_SEL_RESULT 0)).ans 0 (s.rd A.pmap i))) ∧
   (s.pfRights who = false → s.isOwner who (s.wordOwner (32 * n + word)) = false → exec (.probeMapRead who die) s =
     .next (s.ans 1 0))) ∧
  (∀ (s : State) (k n unit : Nat),
   let u := unit
   let b := TU u
   let seq := b + 4 * s.rf b TRIG_CTRL_SEQ
   let ok (c : Nat) := s.cmpTrue u c (s.probeWord (s.cmpWord u c))
   let ext := s.on A.tgExt u && decide (s.rf b TRIG_CFG_EXT_EN = 1)
   let holds := condTrue (s.rf seq TRIG_SEQ_COND) (ok 0) (ok 1) ext
   let t := s.trigUnit k n u
   u < 32 → s.rf b TRIG_CTRL_STATE = 2 → s.trigFrom u ≤ n → s.on A.tgForce u = false → s.capWords u = [] →
   (t.rd A.tgExt u = 0 ∧ t.rd A.tgValid u = 1 ∧
     ∀ c < 2, t.rd A.tgPrev (2 * u + c) = s.probeWord (s.cmpWord u c) % 2 ^ 64) ∧
   (holds = false → t.rf b TRIG_CTRL_STATE = 2 ∧ t.rf b TRIG_CTRL_SEQ = s.rf b TRIG_CTRL_SEQ) ∧
   (holds = true → s.rd A.tgCount u + 1 < s.rf seq TRIG_SEQ_COUNT →
     t.rf b TRIG_CTRL_STATE = 2 ∧ t.rf b TRIG_CTRL_SEQ = s.rf b TRIG_CTRL_SEQ ∧ t.rd A.tgCount u = s.rd A.tgCount u + 1) ∧
   (holds = true → s.rf seq TRIG_SEQ_COUNT ≤ s.rd A.tgCount u + 1 →
     (s.rf seq TRIG_SEQ_FIRE = 0 → t.rf b TRIG_CTRL_STATE = 2 ∧ t.rf b TRIG_CTRL_SEQ = s.rf seq TRIG_SEQ_NEXT ∧
       t.rd A.tgCount u = 0) ∧
     (s.rf seq TRIG_SEQ_FIRE = 1 → s.rf b TRIG_CFG_STOP = 0 → n < 2 ^ 48 →
       t.rf b TRIG_CTRL_STATE = (if slice (s.rf b TRIG_POST_VALUE) 0 20 = 0 then 4 else 3) ∧ t.pair (b + 0x80) = n ∧
       (s.rf b TRIG_CFG_OUT_EN = 1 → t.rd A.tgOut u = 1 + s.rf b TRIG_CFG_OUT_PIN))))

/-- The code of the PAM4 rates corrects every error in one symbol of a codeword, and tells a codeword without error
(R296): a word is a codeword where its polynomial is 0 at α^0 and α^1. -/
def Obligations.OneSymbolErrors : Prop := ∀ c, c < 2 ^ 280 → rsAt c 0 = 0 → rsAt c 1 = 0 →
  rsDecode c = some (c, false) ∧
  ∀ i < 28, ∀ e, 0 < e → e < 2 ^ 10 → rsDecode (patch c (rsLo i) 10 (rsSym c i ^^^ e)) = some (c, true)

/-- A port that goes down (R319): it is down with no lane active, its lanes that were in use are FAILED, the event is
counted, and the port's own requests and receive stream are gone. A port that is down already stays as it is. What
keeps a port up and what takes it down (R300, R309, R317, R319, R321): a heartbeat is sent at each interval in ACTIVE,
any symbol that arrives counts as a sign of life, 8 µs without one take an ACTIVE port down, as do a lane that loses
block lock, the ninth NAK of one block in a row at an NRZ rate, and a relock after DORMANT that takes 400 µs. A NAK is
answered with a replay of the kept blocks of its lane from the named one on; which lane a NAK came on is a free value
(log 88), and which NAK is the ninth is the model's reading (log 89). A training step of a lane (R311 to R318): TRAIN
begins it at the given rate with the slip count at 0, without locks and with the preset of the rate; a bit slip moves
the word boundary; header lock, then block lock, from which on CAPS is sent once per superframe; the peer's CAPS ends
it in ACTIVE; at a rate that the port's ACTIVE lanes do not have, the step has succeeded and the lane waits, which is
the model's choice (log 164). A step of 10 ms without end fails: at the lowest rate the lane is ABSENT, at another
every lane of the port trains again at its previous rate, with LAST_REQ 3 and the port's event (the slip count, and
when TIMEOUT clears, are the model's reading, logs 93, 94). Commands without the physical function's rights are DENIED. -/
def Obligations.LinkTrainingAndLiveness : Prop :=
  (∀ (s : State) (port : Fin 16),
   let p : Nat := port
   let t := s.portDown p
   (s.portUp p = false → t = s) ∧
   (s.portUp p = true →
     t.rf (PT p) PORT_STATUS_UP = 0 ∧ t.rf (PT p) PORT_STATUS_ACTIVE = 0 ∧ t.rf (PT p) PORT_STATUS_PSTATE = 0 ∧
     t.rf (PT p) PORT_ERR_DOWN = min 255 (s.rf (PT p) PORT_ERR_DOWN + 1) ∧
     (∀ l < 4, 1 ≤ s.laneSt p l → s.laneSt p l ≤ 4 → t.laneSt p l = 6 ∧ t.rf (LN p l) LANE_STATUS_BLK_LOCK = 0) ∧
     t.rd A.ptReq p = 0 ∧ t.rd A.ptSwitch p = 0 ∧ (∀ b ∈ t.rxBlocks, b.port ≠ p) ∧ ∀ f ∈ t.rxFrames, f.port ≠ p)) ∧
  (∀ (s : State) (port : Fin 16) (lane : Fin 4) (block : BitVec 24),
   let p : Nat := port
   let l : Nat := lane
   let active := s.rf (PT p) PORT_STATUS_PSTATE = 0
   let heard := s.wr A.ptSeen p s.mono
   let n := if s.rd A.ptNakBlk p = 1 + block.toNat then s.rd A.ptNakCnt p + 1 else 1
   let late := ∃ i ∈ s.lanes p, s.on A.lnRelock (4 * p + i) = true ∧ s.rd A.lnSince (4 * p + i) + 400000 ≤ s.mono
   s.clocked = true →
   (s.portUp p = true → active → exec (.heartbeatInterval port) s = .next { s with symOut := s.symOut ++ [⟨p, none, .heartbeat⟩] }) ∧
   (s.portUp p = false ∨ ¬ active → exec (.heartbeatInterval port) s = .next s) ∧
   exec (.heartbeat port) s = .next heard ∧
   (active → s.rd A.ptSeen p + 8000 ≤ s.mono → exec (.symbolSilenceTimeout port) s = .next (s.portDown p)) ∧
   (¬ active ∨ s.mono < s.rd A.ptSeen p + 8000 → exec (.symbolSilenceTimeout port) s = .next s) ∧
   (s.rf (LN p l) LANE_STATUS_BLK_LOCK = 1 → exec (.blockLockLoss port lane) s =
     .next (((s.cnt (LN p l) LANE_ERR_LOCK_LOSS 1).wf (LN p l) LANE_STATUS_BLK_LOCK 0).portDown p)) ∧
   (s.portUp p = true → s.rf (PT p) PORT_STATUS_RATE < 3 →
     (n ≤ 8 → ∃ m < 4, let again := s.keptFrom p m block.toNat
       exec (.nak port block) s = .next (State.cnt { (heard.wr A.ptNakBlk p (1 + block.toNat)).wr A.ptNakCnt p n with
         freeCtr := s.freeCtr + 1, txQueue := again ++ s.txQueue, txKept := s.txKept.filter fun b => ¬ again.contains b }
         (PT p) PORT_ERR_REPLAYS again.length)) ∧
     (8 < n → exec (.nak port block) s = .next (State.portDown { (heard.wr A.ptNakBlk p (1 + block.toNat)).wr A.ptNakCnt p n with
       freeCtr := s.freeCtr + 1 } p))) ∧
   (s.portUp p = false ∨ 3 ≤ s.rf (PT p) PORT_STATUS_RATE →
     exec (.nak port block) s = .next { heard with freeCtr := s.freeCtr + 1 }) ∧
   (late → exec (.dormantRelockTimeout port) s = .next (s.portDown p)) ∧
   (¬ late → exec (.dormantRelockTimeout port) s = .next s)) ∧
  (∀ (s : State) (who : Who) (port : Fin 16) (lane : Fin 4) (val : Word)
     (caps : BitVec 56),
   let p : Nat := port
   let l : Nat := lane
   let b := LN p l
   let x := 4 * p + l
   let rate := slice val.toNat 0 3
   let training := s.rf b LANE_STATUS_STATE = 1
   let v := caps.toNat
   let done := s.rf b LANE_STATUS_BLK_LOCK = 1 ∧ s.rf b LANE_STATUS_CAPS_VALID = 1
   (s.ServingDom who (p / 2) domLink →
     (s.pfRights who = false → exec (.laneTrain who port lane val) s = .next (s.ans 1 0) ∧
       exec (.linkBitslip who port lane) s = .next (s.ans 1 0)) ∧
     (s.pfRights who = true →
       (val.getLsbD 3 = true → rate ≤ 4 → Completes (exec (.laneTrain who port lane val) s) fun t =>
         t.rf b LANE_STATUS_STATE = 1 ∧ t.rf b LANE_STATUS_RATE = rate ∧ t.rf b LANE_STATUS_SLIPS = 0 ∧
         t.rf b LANE_STATUS_HDR_LOCK = 0 ∧ t.rf b LANE_STATUS_BLK_LOCK = 0 ∧ t.rf b LANE_STATUS_CAPS_VALID = 0 ∧
         t.rf b LANE_STATUS_TIMEOUT = 0 ∧ t.reg (b + oLANE_FIR) = firPreset rate ∧ t.rf b LANE_CTRL_RATE = rate ∧
         t.rsp = ⟨0, 0, 0⟩ ∧ t.mem = s.mem) ∧
       (val.getLsbD 3 = false → exec (.laneTrain who port lane val) s =
         .next ((s.wf b LANE_CTRL_RATE val.toNat).ans 0 0)) ∧
       Completes (exec (.linkBitslip who port lane) s) fun t =>
         t.rf b LANE_STATUS_SLIPS = (s.rf b LANE_STATUS_SLIPS + 1) % 2 ^ 6 ∧ t.rsp = ⟨0, 0, 0⟩ ∧ t.mem = s.mem)) ∧
   (s.clocked = true →
     (training → exec (.headerLock port lane) s =
       .next (((s.wf b LANE_STATUS_HDR_LOCK 1).wf b LANE_STATUS_SIG_DET 1).wf b LANE_STATUS_CDR_LOCK 1)) ∧
     (training → s.rf b LANE_STATUS_HDR_LOCK = 1 → s.rf b LANE_STATUS_BLK_LOCK = 0 → s.on A.lnRelock x = false →
       Completes (exec (.blockLock port lane) s) fun t => t.rf b LANE_STATUS_BLK_LOCK = 1 ∧ t.rd A.lnSlot x = 1 ∧
         t.symOut = s.symOut ∧ t.mem = s.mem) ∧
     (s.rf b LANE_STATUS_BLK_LOCK = 1 → s.rf b LANE_STATUS_CAPS_VALID = 0 → s.symOut.any (capsWaits p l) = false →
       s.capsDue p l = { s with symOut := s.symOut ++ [⟨p, some l, .caps (s.capsOf p l)⟩] }) ∧
     (s.rf b LANE_STATUS_CAPS_VALID = 1 → s.capsDue p l = s) ∧
     (training → s.rf b LANE_STATUS_BLK_LOCK = 1 → s.rf b LANE_STATUS_CAPS_VALID = 0 → s.rateFits p l = true →
       Completes (exec (.caps port lane caps) s) fun t => t.rf b LANE_STATUS_STATE = 2 ∧ t.rf b LANE_STATUS_CAPS_VALID = 1 ∧
         t.rf b LANE_CAPS_MAX_RATE = slice v 53 3 ∧ t.rf b LANE_CAPS_PORT = slice v 49 4 ∧
         t.rf b LANE_CAPS_LANE = slice v 47 2 ∧ t.rf b LANE_CAPS_KEYSTONE = slice v 46 1 ∧
         t.rf b LANE_CAPS_ADDR = slice v 34 12 ∧ t.rf b LANE_CAPS_ADDR_VALID = slice v 33 1 ∧
         (l ∈ s.lanes p → t.portUp p = true ∧ (t.rf (PT p) PORT_STATUS_ACTIVE).testBit l = true) ∧ t.rd A.ptSeen p = s.mono) ∧
     (training → s.rf b LANE_STATUS_BLK_LOCK = 1 → s.rf b LANE_STATUS_CAPS_VALID = 0 → s.rateFits p l = false →
       Completes (exec (.caps port lane caps) s) fun t => t.rf b LANE_STATUS_STATE = 1 ∧ t.rf b LANE_STATUS_CAPS_VALID = 1 ∧
         t.rf b LANE_STATUS_TIMEOUT = 0 ∧ t.rf b LANE_CAPS_MAX_RATE = slice v 53 3 ∧ t.portUp p = s.portUp p) ∧
     (training → s.on A.lnRelock x = false → ¬ done → s.rd A.lnSince x + 10000000 ≤ s.mono →
       (s.rf b LANE_STATUS_RATE = 0 → Completes (exec (.trainingTimeout port lane) s) fun t =>
         t.rf b LANE_STATUS_STATE = 5 ∧ t.rf b LANE_STATUS_TIMEOUT = 1 ∧ t.mem = s.mem) ∧
       (s.rf b LANE_STATUS_RATE ≠ 0 → l ∈ s.lanes p → Completes (exec (.trainingTimeout port lane) s)
         fun t => (∀ i ∈ s.lanes p, t.rf (LN p i) LANE_STATUS_STATE = 1 ∧
           t.rf (LN p i) LANE_STATUS_RATE = s.rd A.lnPrev (4 * p + i)) ∧ t.rf b LANE_STATUS_TIMEOUT = 1 ∧
           t.rf (PT p) PORT_STATUS_LAST_REQ = 3 ∧ (t.reg (oEVT_STATUS + 4 * (0x5A0 / 32))).testBit p = true)) ∧
     (¬ training ∨ done ∨ s.mono < s.rd A.lnSince x + 10000000 → exec (.trainingTimeout port lane) s = .next s) ∧
     (s.rf b LANE_STATUS_STATE = 5 → s.rd A.lnSince x + 1000000 * s.rf 0 LINK_POLL_PRESENCE_POLL_MS ≤ s.mono →
       exec (.presencePoll port lane false) s = .next ((s.wf b LANE_STATUS_SIG_DET 0).wr A.lnSince x s.mono) ∧
       exec (.presencePoll port lane true) s = .next ((((s.wf b LANE_STATUS_SIG_DET 1).wr A.lnSince x s.mono).wf b
         LANE_STATUS_STATE 0).raise (0x5A0 + p)))))

/-- The rate and the power state of a port (R316, R321, R322): a request is sent to the peer; the peer refuses a rate
above its MAX_RATE, or while a lane is not ACTIVE, and a power state while a running partition needs the port; a rate
that is agreed on begins a training step of every lane; a port wakes with CHECK, its QUIET lanes ACTIVE, its DORMANT
ones in a relock, until whose end it shows DORMANT. What ACTIVE, RATE and UP follow, and the reserved power state, are
the model's reading (logs 95, 96). A block that arrives on a lane with block lock (R296 to R301): at an NRZ rate one
with a wrong CRC is counted, and a NAK names it; one with the right CRC, and at a PAM4 rate one that decodes, is taken:
the MARKER begins a superframe, any other block takes its slot, a SYMBOLS block's symbols are performed and a mortar
block's bits join the port's stream. At a PAM4 rate one that does not decode takes the port down. Without block lock
nothing is taken. That NAK and discard are tracked for each lane, and the CRC's bit order, are the model's reading
(logs 86, 87). -/
def Obligations.LinkRatesAndBlocks : Prop :=
  (∀ (s : State) (who : Who) (port : Fin 16) (val : Word) (rate : BitVec 3)
     (st : BitVec 2),
   let p : Nat := port
   let d := PT p
   let r := slice val.toNat 0 3
   let ps := slice val.toNat 4 2
   let heard := s.wr A.ptSeen p s.mono
   let no := s.rf d PORT_CFG_MAX_RATE < rate.toNat ∨ ∃ l ∈ s.lanes p, s.laneSt p l ≠ 2
   let send (u : State) (y : Sym) : State := { u with symOut := s.symOut ++ [⟨p, none, y⟩] }
   (s.ServingDom who (p / 2) domLink →
     (s.pfRights who = false → exec (.rateReqSend who port val) s = .next (s.ans 1 0) ∧
       exec (.pstateRequest who port val) s = .next (s.ans 1 0)) ∧
     (s.pfRights who = true → s.portUp p = true →
       exec (.rateReqSend who port val) s =
         .next ((send ((s.wf d PORT_STATUS_LAST_REQ 0).wr A.ptReq p (1 + r)) (.rateReq r)).ans 0 0) ∧
       (ps = 1 ∨ ps = 2 → s.portNeeded p = true → exec (.pstateRequest who port val) s =
         .next ((s.wf d PORT_STATUS_LAST_REQ 4).ans 0 0)) ∧
       (ps = 1 ∨ ps = 2 → s.portNeeded p = false → exec (.pstateRequest who port val) s =
         .next ((send (s.wr A.ptPs p (9 + ps)) (.pstate ps)).ans 0 0)) ∧
       (ps = 3 → exec (.pstateRequest who port val) s = .next (s.ans 0 0)) ∧
       (ps = 0 → exec (.pstateRequest who port val) s = .next ((s.wakePort p).ans 0 0)))) ∧
   (s.clocked = true → s.portUp p = true →
     (no → exec (.rateReq port rate) s = .next (send heard (.rateAck rate.toNat true))) ∧
     (¬ no → exec (.rateReq port rate) s = .next ((send heard (.rateAck rate.toNat false)).wr A.ptSwitch p (1 + rate.toNat))) ∧
     (s.rd A.ptReq p = 1 + rate.toNat →
       exec (.rateAck port rate true) s = .next ((heard.wr A.ptReq p 0).wf d PORT_STATUS_LAST_REQ 2) ∧
       exec (.rateAck port rate false) s =
         .next (((heard.wr A.ptReq p 0).wf d PORT_STATUS_LAST_REQ 1).wr A.ptSwitch p (1 + rate.toNat))) ∧
     (s.rd A.ptReq p ≠ 1 + rate.toNat → ∀ refused, exec (.rateAck port rate refused) s = .next heard) ∧
     (s.rd A.ptSwitch p ≠ 0 → Completes (exec (.rateSwitch port) s) fun t => t.rd A.ptSwitch p = 0 ∧
       ∀ l ∈ s.lanes p, t.laneSt p l = 1 ∧ t.rf (LN p l) LANE_STATUS_RATE = (s.rd A.ptSwitch p - 1) % 8) ∧
     (st.toNat = 1 ∨ st.toNat = 2 →
       (s.portNeeded p = true → exec (.pstate port st) s = .next (send heard (.pstate 0))) ∧
       (s.portNeeded p = false → exec (.pstate port st) s = .next (heard.wr A.ptPs p (1 + st.toNat)))) ∧
     (st.toNat = 0 → 8 ≤ s.rd A.ptPs p → exec (.pstate port st) s =
       .next ((heard.wr A.ptPs p 0).wf d PORT_STATUS_LAST_REQ 4)) ∧
     (st.toNat = 0 ∧ s.rd A.ptPs p < 8 ∨ st.toNat = 3 → exec (.pstate port st) s = .next heard) ∧
     (s.rf d PORT_STATUS_PSTATE = 0 → exec (.portWake port) s = .next s) ∧
     (s.rf d PORT_STATUS_PSTATE = 1 → s.lanes p ≠ [] → (∀ l ∈ s.lanes p, s.laneSt p l = 3) → Completes (exec (.portWake port) s) fun t =>
       t.rf d PORT_STATUS_PSTATE = 0 ∧ t.portUp p = true ∧ (∀ l ∈ s.lanes p, t.laneSt p l = 2) ∧ t.rd A.ptSeen p = s.mono ∧
       ((∀ k < 32, s.stoppable k = false) → ∃ c, t.symOut = s.symOut ++ [⟨p, none, .check c⟩])) ∧
     (s.rf d PORT_STATUS_PSTATE = 2 → s.lanes p ≠ [] → (∀ l ∈ s.lanes p, s.laneSt p l = 4) →
       (∀ l ∈ s.lanes p, s.on A.lnRelock (4 * p + l) = false) →
       Completes (exec (.portWake port) s) fun t => t.rf d PORT_STATUS_PSTATE = 2 ∧ t.portUp p = true ∧
         ∀ l ∈ s.lanes p, t.laneSt p l = 1 ∧ t.on A.lnRelock (4 * p + l) = true ∧ t.rd A.lnSince (4 * p + l) = s.mono))) ∧
  (∀ (s : State) (port : Fin 16) (lane : Fin 4) (bits : BitVec 280),
   let p : Nat := port
   let b := LN p lane
   let x := 4 * p + lane
   let c := bits.toNat % 2 ^ 257
   let slot := s.rd A.lnSlot x
   let no := (s.rd A.lnSeq x + slot / 25) % 2 ^ 16 * 25 + slot % 25
   let marker := c.testBit 256 = true ∧ slice c 248 8 = 1
   let nrz := s.rf b LANE_STATUS_RATE < 3
   let go := exec (.skinkBlock port lane bits false) s
   s.clocked = true →
   (s.rf b LANE_STATUS_BLK_LOCK = 0 → go = .next s) ∧
   (s.rf b LANE_STATUS_BLK_LOCK = 1 →
     (nrz → s.rd A.lnNak x = 0 → blockCrc c ≠ slice c 0 32 → go =
       .next { (((s.cnt b LANE_ERR_CORRECTED 1).wr A.lnNak x (1 + no)).wr A.lnFails x 0) with
         symOut := s.symOut ++ [⟨p, some lane.val, .nak no⟩] }) ∧
     (nrz → s.rd A.lnNak x = 0 → blockCrc c = slice c 0 32 → marker → s.rd A.ptPs p = 0 → go =
       .next ((((s.wr A.lnNak x 0).wr A.lnFails x 0).wr A.lnSeq x (slice c 232 16)).wr A.lnSlot x 1)) ∧
     (nrz → s.rd A.lnNak x = 0 → blockCrc c = slice c 0 32 → c.testBit 256 = false → ∀ u : State,
       u = ((s.wr A.lnNak x 0).wr A.lnFails x 0).wr A.lnSlot x (s.rd A.lnSlot x + 1) →
       (serviceSlot (s.rf b LANE_STATUS_RATE) (s.rd A.lnSlot x) = false → go = .next (u.mortarBlock port lane (s.rd A.lnSlot x) c)) ∧
       (serviceSlot (s.rf b LANE_STATUS_RATE) (s.rd A.lnSlot x) = true →
         (slice c 248 8 = 2 → go = .next (u.symbols port lane c)) ∧
         (slice c 248 8 ≠ 2 → slice c 248 8 ≠ 3 → go = .next u))) ∧
     (¬ nrz → rsDecode bits.toNat = none → go = .next ((s.cnt b LANE_ERR_UNCORR 1).portDown p)) ∧
     (¬ nrz → ∀ w fixed, rsDecode bits.toNat = some (w, fixed) → slice (w % 2 ^ 257) 256 1 = 1 → slice (w % 2 ^ 257) 248 8 = 1 →
       s.rd A.ptPs p = 0 → go =
         .next (((if fixed then s.cnt b LANE_ERR_CORRECTED 1 else s).wr A.lnSeq x (slice (w % 2 ^ 257) 232 16)).wr A.lnSlot x
           1))))

/-- The search for addresses (R323, R325 to R328): only a keystone starts one, from IDLE or DONE, with a new epoch, and
not while one of its partitions steps; each device takes the next number as its provisional address and passes the
search on, the tail answers with the count, and a device past number 4095 with an overflow; a second keystone and a
stepping partition abort it; the keystone commits, and a device commits its provisional address of that epoch. A
disturbance starts the search anew, at most three times, then it fails with 2. The states a start needs, a keystone
without a port 1 as its own tail, and when RESULT shows and the tree clears are the model's reading (logs 99, 100,
101). -/
def Obligations.AddressSearch : Prop := ∀ (s : State) (who : Who) (epoch : BitVec 8) (next n : BitVec 13) (reason : BitVec 4)
    (overflow : Bool),
  let e := epoch.toNat
  let a := next.toNat % 4096
  let now := s.rf 0 CHAIN_STATUS_EPOCH
  let key := s.rf 0 CHAIN_STATUS_KEYSTONE = 1
  let k := s.rf 0 ENUM_STATUS_KSTATE
  let heard (p : Nat) : State := s.wr A.ptSeen p s.mono
  let fwd (p q : Nat) (y : Sym) : State := { heard p with symOut := s.symOut ++ [⟨q, none, y⟩] }
  let searches (t : State) (restarts : Nat) : Prop := t.rf 0 CHAIN_STATUS_EPOCH = (now + 1) % 256 ∧ t.rf 0 ENUM_STATUS_KSTATE = 1 ∧
    t.rf 0 ENUM_STATUS_RESTARTS = restarts ∧ t.rd A.enAt 0 = s.mono ∧
    t.symOut = s.symOut ++ [⟨1, none, .search ((now + 1) % 256) 1⟩] ∧ t.mem = s.mem
  let fails (t : State) (r : Nat) : Prop := t.rf 0 ENUM_STATUS_KSTATE = 0 ∧ t.rf 0 ENUM_STATUS_RESULT = r ∧ t.symOut = s.symOut
  let disturbed (t : State) : Prop :=
    (s.rf 0 ENUM_STATUS_RESTARTS < 3 → searches t (s.rf 0 ENUM_STATUS_RESTARTS + 1)) ∧
    (3 ≤ s.rf 0 ENUM_STATUS_RESTARTS → fails t 2)
  (s.Serving who →
    (s.pfRights who = false → exec (.enumStart who) s = .next (s.ans 1 0)) ∧
    (s.pfRights who = true →
      (¬ key → exec (.enumStart who) s = .next ((s.wf 0 ENUM_STATUS_RESULT 6).ans 0 0)) ∧
      (key → k = 0 ∨ k = 5 → s.anyStepping = true → Completes (exec (.enumStart who) s) fun t => fails t 4) ∧
      (key → k = 0 ∨ k = 5 → s.anyStepping = false → s.portUp 1 = true → Completes (exec (.enumStart who) s) fun t =>
        searches t 0 ∧ t.rf 0 ENUM_STATUS_RESULT = 0 ∧ t.rsp = ⟨0, 0, 0⟩) ∧
      (key → k = 0 ∨ k = 5 → s.anyStepping = false → s.portUp 1 = false → Completes (exec (.enumStart who) s) fun t =>
        t.rf 0 ENUM_STATUS_KSTATE = 3 ∧ t.rf 0 ENUM_STATUS_COUNT = 1 ∧ t.rf 0 CHAIN_STATUS_ADDR = 0 ∧
        t.rf 0 CHAIN_STATUS_ADDR_VALID = 1))) ∧
  (s.clocked = true → s.rf 0 BOOT_STATUS_STAGE ≠ 5 → s.portUp 0 = true →
    (key → Completes (exec (.search epoch next) s) fun t => t.symOut = s.symOut ++ [⟨0, none, .abort e 2⟩] ∧ t.mem = s.mem) ∧
    (¬ key → s.anyStepping = true → Completes (exec (.search epoch next) s) fun t =>
      t.symOut = s.symOut ++ [⟨0, none, .abort e 3⟩] ∧ t.mem = s.mem) ∧
    (¬ key → s.anyStepping = false → Completes (exec (.search epoch next) s) fun t =>
      t.rf 0 CHAIN_STATUS_EPOCH = e ∧ t.rf 0 CHAIN_STATUS_ESTATE = 1 ∧ t.rd A.enProv 0 = a + 2 ^ 12 * e + 2 ^ 20 ∧
      t.on A.enTail 0 = !s.portUp 1 ∧ t.mem = s.mem ∧
      t.symOut = s.symOut ++ [if s.portUp 1 then (if a = 4095 then ⟨0, none, .count e 4096 true⟩ else ⟨1, none, .search e (a + 1)⟩)
        else ⟨0, none, .count e (a + 1) false⟩])) ∧
  (s.clocked = true →
    (¬ key → s.portUp 0 = true → exec (.count epoch n overflow) s = .next (fwd 1 0 (.count e n.toNat overflow)) ∧
      exec (.commitAck epoch) s = .next (fwd 1 0 (.commitAck e)) ∧
      (reason.toNat ≠ 1 ∨ e ≠ now ∨ (s.rf 0 BOOT_STATUS_STAGE ≠ 4 ∧ s.rf 0 BOOT_STATUS_STAGE ≠ 5) →
        exec (.abort epoch reason) s = .next (fwd 1 0 (.abort e reason.toNat)))) ∧
    (key → e = now → k = 1 →
      exec (.count epoch n true) s = .next (((heard 1).wf 0 ENUM_STATUS_RESULT 3).wf 0 ENUM_STATUS_KSTATE 0) ∧
      (s.portUp 1 = true → Completes (exec (.count epoch n false) s) fun t => t.rf 0 ENUM_STATUS_KSTATE = 2 ∧
        t.rf 0 CHAIN_STATUS_ADDR = 0 ∧ t.rf 0 CHAIN_STATUS_ADDR_VALID = 1 ∧ t.rd A.enCount 0 = n.toNat ∧
        ⟨1, none, .commit e n.toNat⟩ ∈ t.symOut) ∧
      (reason.toNat = 1 → s.portUp 1 = true → Completes (exec (.abort epoch reason) s) disturbed) ∧
      (reason.toNat = 2 → Completes (exec (.abort epoch reason) s) fun t => fails t 5) ∧
      (reason.toNat = 3 → Completes (exec (.abort epoch reason) s) fun t => fails t 4)) ∧
    (key → e ≠ now → exec (.count epoch n overflow) s = .next (heard 1) ∧ exec (.commitAck epoch) s = .next (heard 1) ∧
      exec (.abort epoch reason) s = .next (heard 1)) ∧
    (key → k = 1 → s.portUp 1 = true → s.rd A.enAt 0 + 1000000 * s.rf 0 ENUM_CTRL_TIMEOUT_MS ≤ s.mono →
      Completes (exec .enumCountTimeout s) disturbed) ∧
    (¬ key ∨ k ≠ 1 ∨ s.mono < s.rd A.enAt 0 + 1000000 * s.rf 0 ENUM_CTRL_TIMEOUT_MS →
      exec .enumCountTimeout s = .next s) ∧
    (¬ key → s.portUp 0 = true → s.portUp 1 = true → (s.rd A.enProv 0).testBit 20 = true → slice (s.rd A.enProv 0) 12 8 = e →
      Completes (exec (.commit epoch n) s) fun t => t.rf 0 CHAIN_STATUS_ADDR = slice (s.rd A.enProv 0) 0 12 ∧
        t.rf 0 CHAIN_STATUS_ADDR_VALID = 1 ∧ t.rf 0 CHAIN_STATUS_ESTATE = 2 ∧ t.rd A.enCount 0 = n.toNat ∧
        t.rd A.enProv 0 = 0 ∧ ⟨1, none, .commit e n.toNat⟩ ∈ t.symOut ∧
        (s.on A.enTail 0 = true → ⟨0, none, .commitAck e⟩ ∈ t.symOut)) ∧
    (key → e = now → k = 2 → Completes (exec (.commitAck epoch) s) fun t => t.rf 0 ENUM_STATUS_KSTATE = 3 ∧
      t.rf 0 ENUM_STATUS_COUNT = s.rd A.enCount 0 ∧ t.rf 0 CHAIN_TREE_ROOT = 1 ∧ t.rd A.trAt 0 = s.mono ∧
      ∀ p < 16, s.portUp p = true → ⟨p, none, .tree e 0 0⟩ ∈ t.symOut))

/-- The tree and the plumb bus (R329, R330): a neighbour's address is kept; the first TREE of an epoch opens the
window, in which the lowest hop count, then the lowest sender, wins; at its close the device answers its parent and
sends TREE on; a TREE_ACK makes the port a child, which is sent the combined states; after its phase the keystone
starts the token, and who holds it listens to the bus: without SYNC it leads, else it takes the lowest free position,
or has none; then it passes the token on, the tail back to the keystone. The epoch of a TREE (log 102) and the frames
of the bus (log 140) are the model's. -/
def Obligations.TreeAndBus : Prop := ∀ (s : State) (port : Fin 16) (addr sender : BitVec 12) (peer : BitVec 4)
    (epoch hop : BitVec 8) (passed : BitVec 13) (present : BitVec 16),
  let p : Nat := port
  let e := epoch.toNat
  let now := s.rf 0 CHAIN_STATUS_EPOCH
  let key := s.rf 0 CHAIN_STATUS_KEYSTONE = 1
  let heard (p : Nat) : State := s.wr A.ptSeen p s.mono
  let v := p + 2 ^ 4 * sender.toNat + 2 ^ 16 * hop.toNat
  let best := s.rd A.trBest 0
  let parent := slice best 0 4
  s.clocked = true →
  exec (.neighbor port addr peer) s = .next ((((heard p).wf (PT p) PORT_STATUS_PEER_ADDR addr.toNat).wf (PT p)
    PORT_STATUS_PEER_VALID 1).wf (PT p) PORT_STATUS_PEER_PORT peer.toNat) ∧
  (¬ key → e = now → s.rd A.trClosed 0 ≠ 1 + e →
    (s.on A.trOpen 0 = false → exec (.tree port epoch hop sender) s =
      .next ((((heard p).wr A.trOpen 0 1).wr A.trAt 0 s.mono).wr A.trBest 0 v)) ∧
    (s.on A.trOpen 0 = true → v / 16 < best / 16 → exec (.tree port epoch hop sender) s =
      .next ((heard p).wr A.trBest 0 v)) ∧
    (s.on A.trOpen 0 = true → best / 16 ≤ v / 16 → exec (.tree port epoch hop sender) s = .next (heard p))) ∧
  (key ∨ e ≠ now ∨ s.rd A.trClosed 0 = 1 + e → exec (.tree port epoch hop sender) s = .next (heard p)) ∧
  (s.on A.trOpen 0 = true → s.rd A.trAt 0 + 50000 ≤ s.mono → Completes (exec .treeWindowClose s) fun t =>
    t.rf 0 CHAIN_TREE_PARENT = parent ∧ t.rf 0 CHAIN_TREE_DEPTH = (slice best 16 8 + 1) % 2 ^ CHAIN_TREE_DEPTH.w ∧
    t.rf 0 CHAIN_TREE_VALID = 1 ∧ t.rf 0 CHAIN_TREE_ROOT = 0 ∧ t.on A.trOpen 0 = false ∧ t.rd A.trClosed 0 = 1 + now ∧
    (s.portUp parent = true → ⟨parent, none, .treeAck now s.chainAddr⟩ ∈ t.symOut) ∧
    (∀ q < 16, q ≠ parent → s.portUp q = true → ⟨q, none, .tree now ((slice best 16 8 + 1) % 256) s.chainAddr⟩ ∈ t.symOut)) ∧
  (s.on A.trOpen 0 = false ∨ s.mono < s.rd A.trAt 0 + 50000 → exec .treeWindowClose s = .next s) ∧
  (e = now → Completes (exec (.treeAck port epoch sender) s) fun t =>
    t.rf 0 CHAIN_TREE_CHILDREN = s.rf 0 CHAIN_TREE_CHILDREN ||| 2 ^ p ∧ t.rd A.ptSeen p = s.mono ∧ t.mem = s.mem ∧
    (s.portUp p = true → ∀ pid, s.rd A.plumbDown pid ≠ 0 → ⟨p, none, .plumbDown pid (s.rd A.plumbDown pid)⟩ ∈ t.symOut)) ∧
  (e ≠ now → exec (.treeAck port epoch sender) s = .next (heard p)) ∧
  (key → s.rf 0 ENUM_STATUS_KSTATE = 3 → s.rd A.trAt 0 + 1000000 ≤ s.mono → exec .treePhaseEnd s =
    .next (((s.wf 0 CHAIN_TREE_VALID 1).plumbBegin.wf 0 ENUM_STATUS_KSTATE 4).wr A.busTok 0 1)) ∧
  (¬ key → e = now → p = 0 → exec (.busToken port epoch passed) s = .next ((heard 0).wr A.busTok 0 (1 + passed.toNat))) ∧
  (¬ key → e = now → p = 1 → s.portUp 0 = true → exec (.busToken port epoch passed) s =
    .next { heard 1 with symOut := s.symOut ++ [⟨0, none, .busToken e passed.toNat⟩] }) ∧
  (key → e = now → p = 1 → s.rf 0 ENUM_STATUS_KSTATE = 4 → exec (.busToken port epoch passed) s =
    .next ((((heard 1).wf 0 ENUM_STATUS_KSTATE 5).wf 0 ENUM_STATUS_RESULT 1).raise 0x5B9)) ∧
  (s.rd A.busTok 0 = 0 → ∀ sync, exec (.busListenEnd sync present) s = .next s) ∧
  (s.rd A.busTok 0 ≠ 0 → s.portUp 1 = true →
    let token : SymOut := ⟨1, none, .busToken now (s.rd A.busTok 0)⟩
    (Completes (exec (.busListenEnd false present) s) fun t => t.rf 0 PLUMB_BUS_STATUS_LEAD = 1 ∧
      t.rf 0 PLUMB_BUS_STATUS_BUS_POS = 0 ∧ t.rf 0 PLUMB_BUS_STATUS_PRESENT = 1 ∧ t.rf 0 CHAIN_STATUS_NOBUS = 0 ∧
      t.rd A.busTok 0 = 0 ∧ t.symOut = s.symOut ++ [token]) ∧
    (∀ i < 16, present.getLsbD i = false → (∀ j < i, present.getLsbD j = true) →
      Completes (exec (.busListenEnd true present) s) fun t => t.rf 0 PLUMB_BUS_STATUS_LEAD = 0 ∧
        t.rf 0 PLUMB_BUS_STATUS_BUS_POS = i ∧ t.rf 0 PLUMB_BUS_STATUS_PRESENT = present.toNat ||| 2 ^ i ∧
        t.rf 0 CHAIN_STATUS_NOBUS = 0 ∧ t.symOut = s.symOut ++ [token]) ∧
    (present = BitVec.allOnes 16 → Completes (exec (.busListenEnd true present) s) fun t => t.rf 0 CHAIN_STATUS_NOBUS = 1 ∧
      t.symOut = s.symOut ++ [token])) ∧
  (s.rd A.busTok 0 ≠ 0 → s.portUp 1 = false → key → ∀ sync, Completes (exec (.busListenEnd sync present) s) fun t =>
    t.rf 0 ENUM_STATUS_KSTATE = 5 ∧ t.rf 0 ENUM_STATUS_RESULT = 1)

/-- Resets and loss of power (R333, R361, R435, R436, R438). Power-on and RESET_N clear every partition and HBM and run
the boot ROM, which ends in RECOVERY for a BLANK and in HALTED for a SCRAP device; fuses stay, and with RESET_N also
TIME_NS, MONO_NS, TIME_INC, the key RAM, the sealing key and, with no epoch open, the vault. A warm reset keeps HBM,
soft repairs, the chain address, the ownership and the level and restarts at stage FIRMWARE, but not from HALTED or
RECOVERY; one asked for in a level change waits. OFF keeps the key RAM only while VBAT holds it. That the boot ROM and
the firmware run within the reset is the model's choice (log 67). -/
def Obligations.Resets : Prop := ∀ (s : State) (who : Who), s.Canon →
  let scrap := s.rd A.fuseLc 4 = 0xFF
  let blank := ∀ g, 1 ≤ g → g ≤ 4 → s.rd A.fuseLc g = 0
  let whole := ∀ g, 1 ≤ g → g ≤ 4 → s.rd A.fuseLc g = 0 ∨ s.rd A.fuseLc g = 0xFF
  let booted (t : State) (cause : Nat) : Prop := t.rf 0 RESET_CAUSE_LAST = cause ∧ (∀ k, t.rd A.pState k = 0) ∧ t.mem = [] ∧
    t.packets = [] ∧ t.causes = [] ∧ (cause = 1 ∨ s.rd A.refGone 0 = 0 → t.clocked = true) ∧ t.rf 0 PL_STATUS_LEVEL = 3 ∧
    (∀ i, t.rd A.fuseRoot i = s.rd A.fuseRoot i ∧ t.rd A.fuseRevoke i = s.rd A.fuseRevoke i ∧
      t.rd A.fuseKek i = s.rd A.fuseKek i) ∧
    (scrap → t.rf 0 BOOT_STATUS_STAGE = 9) ∧ (blank → t.rf 0 BOOT_STATUS_STAGE = 8)
  let epochs := ∃ k < 32, s.on A.epOpen k = true
  let unfused (r : Repair) : Repair := { r with fused := false }
  (Completes (exec .powerOnReset s) fun t => booted t 1 ∧ t.pair oTIME_NS_LO = 0 ∧ t.pair oMONO_NS_LO = 0 ∧
    t.rd A.meterSeq 0 = 0 ∧ t.vault = [] ∧ (whole → t.rd A.keyRam 0 = s.rd A.keyRam 0)) ∧
  (s.powered = true → ¬ epochs → s.closed = [] → Completes (exec .resetN s) fun t => booted t 2 ∧ t.pair oTIME_NS_LO = s.pair oTIME_NS_LO ∧
    t.pair oMONO_NS_LO = s.pair oMONO_NS_LO ∧ t.timeInc = s.timeInc ∧ t.rd A.meterSeq 0 = s.rd A.meterSeq 0 ∧
    t.rf 0 TAMPER_STATUS_SEEN = s.rf 0 TAMPER_STATUS_SEEN ∧
    (whole → t.rd A.keyRam 0 = s.rd A.keyRam 0 ∧ t.vault = s.vault)) ∧
  (s.powered = false → exec .resetN s = .next s) ∧
  (s.Serving who →
    (s.pfRights who = false → exec (.warmReset who) s = .next (s.ans 1 0)) ∧
    (s.pfRights who = true → s.rd A.plPhase 0 ≠ 0 → exec (.warmReset who) s = .next ((s.wr A.warmWait 0 1).ans 0 0)) ∧
    (s.pfRights who = true → s.rd A.plPhase 0 = 0 → ¬ epochs → s.closed = [] → Completes (exec (.warmReset who) s) fun t =>
      t.rf 0 RESET_CAUSE_LAST = 3 ∧ t.rf 0 BOOT_STATUS_STAGE = (if s.stage = 8 ∨ s.stage = 9 then s.stage else 3) ∧ (∀ k, t.rd A.pState k = 0) ∧ t.mem = s.mem ∧
      t.repairs.map unfused = s.repairs.map unfused ∧ t.vault = s.vault ∧ t.packets = [] ∧ t.chainAddr = s.chainAddr ∧
      t.rf 0 PL_STATUS_LEVEL = s.rf 0 PL_STATUS_LEVEL ∧ t.pair oTIME_NS_LO = s.pair oTIME_NS_LO ∧
      (∀ i, t.rd A.own i = s.rd A.own i) ∧ (∀ p < 16, t.portUp p = false) ∧ t.rsp = ⟨0, 0, 0⟩)) ∧
  (exec .off s = .next (State.wr { (if s.on A.vbat 0 then s else s.wipeKeyRam).drop A.padLatch (fun _ => true) with
    held := [], resumed := [] } A.pwMode 0 3)) ∧
  (Completes (exec .vbatLoss s) fun t => t.rd A.vbat 0 = 0 ∧ t.mem = s.mem ∧
    (s.powered = true → t.rd A.keyRam 0 = s.rd A.keyRam 0 ∧ t.rd A.keyRamOk 0 = s.rd A.keyRamOk 0) ∧
    (s.powered = false → t.rd A.keyRam 0 = 0 ∧ t.rd A.keyRamOk 0 = 0))

/-- The image stage and the loads of software (R345 to R352). A header that passes starts the stream and is sent on;
one that fails stops it, and the keystone without an NVMe drive streams an empty container; the end mark is sent on
and, with every section of the device loaded, makes it CONFIGURED; DONE then makes it RUNNING with its boot event.
LOAD_CTRL works only once the firmware stage is over, RECOVERY_CTRL only in RECOVERY; each shows the check that failed,
which for a container that HBM does not return whole is HASH, the model's choice (log 189). After the last failure of
the stream no other begins (R347). The boundaries of the stages within a command and the slot that a section takes are
the model's choice (logs 68, 77, 78, 151, 153). What AUTOSTART starts is not covered. A PARTITION section of the image
stream (R165, R341, R344, R346), the next one of the table that passed: one for a device further down is sent on; one
for this device that verifies and that the load accepts puts its partition in place, IDLE at emulated cycle 0, with the
values of the image header, and is counted; one that fails changes the load's and the boot's status alone. -/
def Obligations.ImageStageAndLoads : Prop :=
  (∀ (s : State) (who : Who) (hdr : List Byte),
   let stage := s.rf 0 BOOT_STATUS_STAGE
   let u := s.wf 0 BOOT_STATUS_STAGE 5
   let fw := ((contSectionList s.staged).filter (·.kind = 1)).flatMap fun x => (s.openSection x false).2
   let begun (t : State) (b : List Byte) (want : Nat) : Prop := t.rf 0 BOOT_STATUS_STAGE = 5 ∧ t.on A.strmOn 0 = true ∧
     t.rd A.strmWant 0 = want ∧ t.rd A.strmGot 0 = 0 ∧ t.rd A.strmBad 0 = s.rd A.strmBad 0 ∧ t.on A.strmEnd 0 = false ∧
     t.strmHdr = b ∧ t.out = s.out ++ [.imageHeader b]
   (s.clocked = true →
     (stage < 3 ∨ 5 < stage ∨ s.on A.strmOver 0 = true → exec (.imageStream hdr) s = .next s) ∧
     (3 ≤ stage → stage ≤ 5 → s.on A.strmOver 0 = false → s.isKeystone = false →
       (hdr = [] → Completes (exec (.imageStream hdr) s) fun t => begun t [] 0) ∧
       (hdr ≠ [] → u.checkContainer hdr 2 = 0 → Completes (exec (.imageStream hdr) s) fun t =>
         begun t (hdr.take (contHdrBytes hdr)) (u.sectionsHere hdr % 2 ^ A.strmWant.width) ∧
         t.rf 0 SVN_STATUS_RUN_IMAGE_SVN = contSvn hdr % 2 ^ SVN_STATUS_RUN_IMAGE_SVN.w) ∧
       (hdr ≠ [] → u.checkContainer hdr 2 ≠ 0 → exec (.imageStream hdr) s =
         .next ((u.bootFail (u.checkContainer hdr 2)).wr A.strmOn 0 0))) ∧
     (3 ≤ stage → stage ≤ 5 → s.on A.strmOver 0 = false → s.isKeystone = true → s.on A.nvmeThere 0 = false →
       Completes (exec (.imageStream hdr) s) fun t => t.rd A.strmWant 0 = 0 ∧ t.rd A.strmGot 0 = 0 ∧ t.on A.strmEnd 0 = true ∧
         t.rf 0 BOOT_STATUS_STAGE = (if s.on A.strmBad 0 then 5 else 6) ∧ t.out = s.out ++ [.imageHeader [], .imageEnd] ∧
         (s.rf 0 BOOT_STATUS_RESULT = 0 → t.rf 0 BOOT_STATUS_RESULT = 11)) ∧
     (s.on A.strmOn 0 = false ∨ s.on A.strmEnd 0 = true ∨ stage ≠ 5 → exec .endMark s = .next s) ∧
     (s.on A.strmOn 0 = true → s.on A.strmEnd 0 = false → stage = 5 →
       let v := State.wr { s with out := s.out ++ [.imageEnd] } A.strmEnd 0 1
       (s.rd A.strmGot 0 = s.rd A.strmWant 0 → s.on A.strmBad 0 = false →
         exec .endMark s = .next ((v.wf 0 BOOT_STATUS_CONFIGURED 1).wf 0 BOOT_STATUS_STAGE 6)) ∧
       (s.rd A.strmGot 0 ≠ s.rd A.strmWant 0 ∨ s.on A.strmBad 0 = true → exec .endMark s = .next v)) ∧
     (s.rf 0 BOOT_STATUS_CONFIGURED = 0 → exec .doneRise s = .next s) ∧
     (s.rf 0 BOOT_STATUS_CONFIGURED = 1 → stage ≠ 6 → exec .doneRise s = .next (s.wf 0 BOOT_STATUS_DONE_IN 1)) ∧
     (s.rf 0 BOOT_STATUS_CONFIGURED = 1 → stage = 6 → (∀ k < 32, s.on A.autoStart k = false) → exec .doneRise s =
       .next ((((s.wf 0 BOOT_STATUS_DONE_IN 1).wf 0 BOOT_STATUS_STAGE 7).wr A.doneHigh 0 1).raise 0x5BA)) ∧
     (stage = 7 → exec .doneFall s = .next (((s.wf 0 BOOT_STATUS_DONE_IN 0).wr A.doneHigh 0 0).raise 0x5BA)) ∧
     (stage ≠ 7 → exec .doneFall s = .next (s.wf 0 BOOT_STATUS_DONE_IN 0))) ∧
   (s.Serving who →
     (s.pfRights who = false → exec (.loadGo who) s = .next (s.ans 1 0) ∧ exec (.recoveryGo who) s = .next (s.ans 1 0)) ∧
     (s.pfRights who = true →
       (s.firmwareDone = false → exec (.loadGo who) s = .next (s.ans 0 0)) ∧
       (s.firmwareDone = true → ∀ b bad u1, s.baseContainer = (b, bad, u1) →
         (bad = true → exec (.loadGo who) s = .next ((u1.wf 0 LOAD_CTRL_RESULT 7).ans 0 0)) ∧
         (∀ r, r ≠ 0 → bad = false → u1.checkContainer b 2 = r →
           exec (.loadGo who) s = .next ((u1.wf 0 LOAD_CTRL_RESULT r).ans 0 0)) ∧
         (bad = false → u1.checkContainer b 2 = 0 → (∀ x ∈ contSectionList b, x.target ≠ u1.chainAddr) →
           exec (.loadGo who) s = .next (((u1.noteImage b).wf 0 LOAD_CTRL_RESULT 0).ans 0 0))) ∧
       (stage ≠ 8 → exec (.recoveryGo who) s = .next (s.ans 0 0)) ∧
       (stage = 8 →
         (∀ r, r ≠ 0 → s.checkBoot s.staged = r → exec (.recoveryGo who) s =
           .next ((((if s.checkContainer s.staged 1 = 0 then s.drop A.stageByte fun _ => true else s).wf 0
             RECOVERY_CTRL_RESULT r).bootFail r).ans 0 0)) ∧
         (s.checkBoot s.staged = 0 → fw ≠ [] → fw.length ≤ 2 ^ 20 → Completes (exec (.recoveryGo who) s) fun t =>
           t.rf 0 RECOVERY_CTRL_RESULT = 0 ∧ t.rf 0 BOOT_STATUS_RECOVERED = 1 ∧ t.rf 0 BOOT_STATUS_STAGE = 3 ∧
           (∀ c < 256, t.on A.coreUp c = true) ∧ t.mem = s.mem ∧ (∀ i, t.rd A.stageByte i = 0) ∧ (∀ i, t.rd A.slotByte i = s.rd A.slotByte i)))))) ∧
  (∀ (s : State) (sec : Section) (b : List Byte),
   let pid := slice sec.flags 8 8
   s.clocked = true → s.on A.strmOn 0 = true → s.on A.strmEnd 0 = false → s.stage = 5 →
   ∀ i, s.nextEntry = some i →
   let v := s.wr A.strmNext 0 (i + 1)
   (s.isNext sec i = false → exec (.partitionSection sec) s = .next s) ∧
   (s.isNext sec i = true → s.chainAddr < sec.target →
     exec (.partitionSection sec) s = .next { v with out := s.out ++ [.imageSection sec] }) ∧
   (s.isNext sec i = true → sec.target = s.chainAddr →
     (∀ r, r ≠ 0 → v.openSection sec true = (r, b) →
       exec (.partitionSection sec) s = .next ((v.wr A.strmBad 0 1).bootFail r)) ∧
     (v.openSection sec true = (0, b) →
       (∀ r, r ≠ 0 → v.loadCheck b pid (firstIx 32 fun k => ¬ v.loaded k) = r → exec (.partitionSection sec) s =
         .next (((v.wf 0 IMAGE_LOAD_STATUS_RESULT r).wr A.strmBad 0 1).bootFail 10)) ∧
       (∀ k, firstIx 32 (fun k => ¬ v.loaded k) = some k → v.loadCheck b pid (some k) = 0 →
         Completes (exec (.partitionSection sec) s) fun t =>
           t.rd A.pPid k = pid ∧ t.rd A.pState k = 1 ∧ t.rd A.pCycle k = 0 ∧ t.rd A.pDepth k = imgDepth b ∧
           t.rd A.esLen k = imgEseqLen b ∧ t.rd A.esIdx k = imgEseqStart b ∧ t.rf 0 IMAGE_LOAD_STATUS_RESULT = 0 ∧
           t.rf 0 IMAGE_LOAD_STATUS_SLOT = k ∧ t.rd A.gatePull k = 2 ∧
           t.rf (P k) HOLD_LIMIT_LIMIT_US = clampLimit (leAt b 0x14 4) ∧
           t.rd A.strmGot 0 = min (2 ^ 14 - 1) (s.rd A.strmGot 0 + 1)))))

/-- The update commands (R353, R355, R363): the first refusal shows in RESULT and nothing else changes: DENIED under
UPDATE_LOCK for all but the boot controller, NO_NVME, ACTIVE_SLOT, TRIAL, SIZE, NOT_VERIFIED. WRITE copies the
container into the slot, which is then not verified; VERIFY shows its check; ACTIVATE writes the other boot record with
CONF = 0 and TRIAL = 3; CONFIRM one with CONF = 1 and TRIAL = 0, and advances the fused counter, never above 64. A
HALTED boot controller does nothing (R333). What WRITE does with bytes that HBM does not return as OK is the model's
choice (log 189). -/
def Obligations.UpdateCommands : Prop := ∀ (s : State) (who : Who) (target slot : Bool),
  let x := bit target
  let n := 2 * x + bit slot
  let r := s.recordInForce
  let res (u : State) (c : Nat) : Res := .next ((u.wf 0 UPDATE_CTRL_RESULT c).ans 0 0)
  let b := s.baseContainer.1
  let u1 := s.baseContainer.2.2
  let three : List Instr := [.updateWrite who target slot, .updateVerify who target slot, .activate who target slot]
  s.Serving who →
  (s.pfRights who = false → (∀ c ∈ three, exec c s = .next (s.ans 1 0)) ∧ exec (.confirm who target) s = .next (s.ans 1 0)) ∧
  (s.pfRights who = true → s.stage = 9 → (∀ c ∈ three, exec c s = .next (s.ans 0 0)) ∧
    exec (.confirm who target) s = .next (s.ans 0 0)) ∧
  (s.pfRights who = true → s.stage ≠ 9 → s.rf 0 SEC_LOCK_UPDATE_LOCK = 1 → who ≠ .boot →
    (∀ c ∈ three, exec c s = res s 2) ∧ exec (.confirm who target) s = res s 2) ∧
  (s.pfRights who = true → s.stage ≠ 9 → s.rf 0 SEC_LOCK_UPDATE_LOCK = 0 ∨ who = .boot →
    (target = true → s.on A.nvmeThere 0 = false → (∀ c ∈ three, exec c s = res s 6) ∧
      exec (.confirm who target) s =
        res (s.wr A.fuseSvn 1 (max (s.rd A.fuseSvn 1) (min 64 (s.rf 0 SVN_STATUS_RUN_IMAGE_SVN)))) 0) ∧
    (target = false ∨ s.on A.nvmeThere 0 = true →
      (r.active.getD x 0 = bit slot → exec (.updateWrite who target slot) s = res s 3) ∧
      (r.active.getD x 0 ≠ bit slot → r.conf.getD x 0 = 0 → exec (.updateWrite who target slot) s = res s 4) ∧
      (r.active.getD x 0 ≠ bit slot → r.conf.getD x 0 ≠ 0 →
        (u1.slotSize target < b.length → exec (.updateWrite who target slot) s = res u1 7) ∧
        (b.length ≤ u1.slotSize target → Completes (exec (.updateWrite who target slot) s) fun t =>
          t.rf 0 UPDATE_CTRL_RESULT = 0 ∧ t.rsp = ⟨0, 0, 0⟩ ∧ t.on A.slotVerified n = false ∧
          (∀ i < b.length, t.rd A.slotByte (2 ^ 40 * n + i) = (b.getD i 0).toNat) ∧
          (∀ j, j < 2 ^ 40 * n ∨ 2 ^ 40 * n + b.length ≤ j → t.rd A.slotByte j = s.rd A.slotByte j) ∧ t.mem = u1.mem)) ∧
      (∀ v, v = (if target then s.checkContainer (s.slotContainer n) 2 else s.checkBoot (s.slotContainer n)) →
        (v = 0 → exec (.updateVerify who target slot) s =
          res ((s.wf 0 UPDATE_CTRL_CHECK 0).wr A.slotVerified n 1) 0) ∧
        (v ≠ 0 → exec (.updateVerify who target slot) s = res (s.wf 0 UPDATE_CTRL_CHECK v) 8)) ∧
      (s.on A.slotVerified n = false → exec (.activate who target slot) s = res s 5) ∧
      (s.on A.slotVerified n = true → exec (.activate who target slot) s =
        res (s.wr A.bootRec (1 - r.copy) (BootRec.pack ⟨r.copy, r.seq + 1, r.active.set x (bit slot), r.conf.set x 0,
          r.trial.set x 3⟩)) 0) ∧
      exec (.confirm who target) s =
        res ((s.wr A.bootRec (1 - r.copy) (BootRec.pack ⟨r.copy, r.seq + 1, r.active, r.conf.set x 1, r.trial.set x 0⟩)).wr
          A.fuseSvn x (max (s.rd A.fuseSvn x) (min 64 (contSvn (s.slotBytes (2 * x + r.active.getD x 0) 0x100))))) 0))

/-- Life cycle, key RAM and tamper (R356, R357, R359, R361 to R363): only the boot controller commands the first two. A
GO that is not performed changes nothing but RESULT (LOCKED also counts a violation); a transition blows the fuses up
to the target, wipes the keys and halts. LOAD stores the key with its check value, once. A tamper source that is
enabled wipes the keys and the instruction memories and halts, and an entry to a sleep that is in progress is abandoned
(R432); in OFF, with VBAT, sources 1 and 2 wipe the key RAM. How the fuses give the state, and what a tamper does
first, are the model's reading (logs 69, 71, 72, 75). -/
def Obligations.LifeCycleAndKeys : Prop := ∀ (s : State) (who : Who) (target : BitVec 3) (x : Fin 4),
  let g := target.toNat
  let key := (List.range 8).foldl (fun v i => v + 2 ^ (32 * i) * s.reg (oKEYRAM_DATA + 4 * i)) 0
  let violated (u : State) (off : Nat) : State :=
    ((u.cnt 0 LOCK_VIOLATION_COUNT 1).wr A.reg oLOCK_VIOLATION_ADDR off).raise 0x5BB
  let wiped (t : State) : Prop := t.rd A.keyRam 0 = 0 ∧ t.rd A.keyRamOk 0 = 0 ∧ t.rd A.sealKey 0 = 0 ∧ t.vault = []
  (s.Serving who →
    (who ≠ .boot → exec (.lcTransition who target) s = .next (s.ans 1 0) ∧ exec (.keyramLoad who) s = .next (s.ans 1 0) ∧
      exec (.keyramWipe who) s = .next (s.ans 1 0)) ∧
    (s.rf 0 SEC_LOCK_LC_LOCK = 1 → exec (.lcTransition .boot target) s =
      .next ((violated (s.wf 0 LC_CTRL_RESULT 4) oLC_CTRL).ans 0 0)) ∧
    (s.rf 0 SEC_LOCK_LC_LOCK = 0 →
      (g ≤ s.lc ∨ 4 < g → exec (.lcTransition .boot target) s = .next ((s.wf 0 LC_CTRL_RESULT 2).ans 0 0)) ∧
      (s.lc < g → g ≤ 4 →
        (s.allIdle = false → exec (.lcTransition .boot target) s = .next ((s.wf 0 LC_CTRL_RESULT 3).ans 0 0)) ∧
        (s.allIdle = true → Completes (exec (.lcTransition .boot target) s) fun t =>
          t.rf 0 LC_CTRL_RESULT = 1 ∧ t.rf 0 BOOT_STATUS_STAGE = 9 ∧ wiped t ∧ t.lc = s.lc ∧
          (∀ i, t.rd A.fuseLc i = if 1 ≤ i ∧ i ≤ g then 0xFF else s.rd A.fuseLc i) ∧
          (t.rd A.fuseFlags 0).testBit 1 = ((s.rd A.fuseFlags 0).testBit 1 || decide (3 ≤ g)) ∧ t.mem = s.mem ∧
          t.rsp = ⟨0, 0, 0⟩))) ∧
    (s.on A.keyRamOk 0 = true → exec (.keyramLoad .boot) s = .next ((violated s oKEYRAM_CTRL).ans 0 0)) ∧
    (s.on A.keyRamOk 0 = false → s.mayLoadKey = false → exec (.keyramLoad .boot) s = .next (s.ans 0 0)) ∧
    (s.on A.keyRamOk 0 = false → s.mayLoadKey = true → Completes (exec (.keyramLoad .boot) s) fun t =>
      t.rd A.keyRam 0 = key % 2 ^ A.keyRam.width ∧ t.on A.keyRamOk 0 = true ∧
      t.reg oKEYRAM_KCV = Config.kcv key % 2 ^ A.reg.width ∧ (∀ i < 8, t.reg (oKEYRAM_DATA + 4 * i) = 0) ∧ t.mem = s.mem) ∧
    exec (.keyramWipe .boot) s = .next ((((s.wr A.keyRam 0 0).wr A.keyRamOk 0 0).wr A.reg oKEYRAM_KCV 0).ans 0 0)) ∧
  ((s.rf 0 TAMPER_CFG_EN).testBit x = false → exec (.tamperDetect x) s = .next s) ∧
  ((s.rf 0 TAMPER_CFG_EN).testBit x = true →
    (s.powered = false → x.val < 2 → s.on A.vbat 0 = true → Completes (exec (.tamperDetect x) s) fun t =>
      t.rd A.keyRam 0 = 0 ∧ t.rd A.keyRamOk 0 = 0 ∧ t.rf 0 TAMPER_STATUS_OFF_EVENT = 1 ∧ t.vault = s.vault) ∧
    (s.powered = false → 2 ≤ x.val ∨ s.on A.vbat 0 = false → exec (.tamperDetect x) s = .next s) ∧
    (s.powered = true → s.rd A.pwMode 0 ≠ 2 → Completes (exec (.tamperDetect x) s) fun t => wiped t ∧
      (s.rf 0 PWR_CTRL_BUSY = 1 → t.rf 0 PWR_CTRL_BUSY = 0 ∧ t.rf 0 PWR_STATUS_STATE = 0 ∧ t.rf 0 PWR_STATUS_PHASE = 0 ∧
        t.rf 0 PWR_CTRL_RESULT = 7 ∧ t.held = [] ∧ t.aonSave = [] ∧ t.saveArea = [] ∧ t.on A.pcieDown 0 = false) ∧
      t.rf 0 BOOT_STATUS_STAGE = 9 ∧ ∀ i, t.rd A.imem i = 0 ∧ t.rd A.wimem i = 0 ∧ t.rd A.pimem i = 0))

/-- Setting and keeping the time (R364, R367 to R372, R382, R384): the registers of time are the boot controller's and
the physical function's. TIME_SET loads TIME_NS and clears its fraction, and a step below the S of an open epoch is
kept; TIME_INC takes only 9 or 10 as its integer part. A PPS edge is accepted in the three cases of R368, sets TIME_NS
to its second and ends HOLDOVER, SLEPT and UNSYNCED; any other is counted. The alternate source has edges only where
its signal has a pin, and without REFCLK no edge is sampled (log 167). TIME and CHECK as R370 and R371 give. -/
def Obligations.TimeKeeping : Prop := ∀ (s : State) (who : Who) (hi : Word) (port : Fin 16) (hops : BitVec 4)
    (sec t48 : BitVec 48),
  let second := 1000000000
  let now := s.timeNs
  let given (lo other : Nat) : Nat := if (s.rd A.heldLo lo).testBit 32 then s.rd A.heldLo lo % 2 ^ 32 else other
  let synced (u : State) : State := ((u.wf 0 TIME_STATUS_HOLDOVER 0).wf 0 TIME_STATUS_SLEPT 0).wf 0 TIME_STATUS_UNSYNCED 0
  let e := s.mono - s.rd A.ppsRef 0
  let k := (e + second / 2) / second
  let inWindow := 1 ≤ k ∧ k ≤ 16 ∧ k * second ≤ e + k * 100000 ∧ e ≤ k * second + k * 100000
  let accepted (t : State) (k : Nat) : Prop := t.timeNs = (s.pair oPPS_SEC_LO + (k - 1)) * second % 2 ^ 64 ∧
    t.rf 0 TIME_FRAC_VALUE = 0 ∧ t.pair oPPS_SEC_LO = (s.pair oPPS_SEC_LO + (k - 1) + 1) % 2 ^ 64 ∧
    t.rf 0 TIME_STATUS_HOLDOVER = 0 ∧ t.rf 0 TIME_STATUS_SLEPT = 0 ∧ t.rf 0 TIME_STATUS_UNSYNCED = 0 ∧
    t.rf 0 TIME_STATUS_PPS_MISSED = min 255 (s.rf 0 TIME_STATUS_PPS_MISSED + (k - 1)) ∧ t.rd A.ppsRef 0 = s.mono ∧
    t.mono = s.mono ∧ t.mem = s.mem
  let heard := (s.wr A.ptSeen port s.mono).wr A.msgRef 0 s.mono
  let ports := s.treePorts.filter fun p => some p ≠ some port.val
  let d := (t48.toNat + 2 ^ 48 - now % 2 ^ 48) % 2 ^ 48
  let far := s.rf 0 TIME_CTRL_TIME_GUARD_US * 1000 < min d (2 ^ 48 - d)
  (s.Serving who →
    (s.pfRights who = false → exec (.timeSet who hi) s = .next (s.ans 1 0) ∧
      exec (.timeIncWrite who hi) s = .next (s.ans 1 0) ∧ exec (.synced who) s = .next (s.ans 1 0)) ∧
    (s.pfRights who = true →
      (∀ v, v = given oTIME_SET_LO (s.rd A.lastLo oTIME_SET_LO) + 2 ^ 32 * hi.toNat →
        Completes (exec (.timeSet who hi) s) fun t => t.timeNs = v ∧ t.rf 0 TIME_FRAC_VALUE = 0 ∧ t.mono = s.mono ∧
          t.rsp = ⟨0, 0, 0⟩ ∧ t.mem = s.mem ∧
          ∀ j < 32, (s.on A.epOpen j = true → s.on A.epReg j = false → v < s.rd A.epS j → v < now →
              t.on A.epReg j = true ∧ t.rd A.epBefore j = now ∧ t.rd A.epAfter j = v) ∧
            (s.on A.epOpen j = false ∨ s.on A.epReg j = true ∨ s.rd A.epS j ≤ v ∨ now ≤ v →
              t.on A.epReg j = s.on A.epReg j ∧ t.rd A.epBefore j = s.rd A.epBefore j)) ∧
      (slice hi.toNat 0 4 = 9 ∨ slice hi.toNat 0 4 = 10 → exec (.timeIncWrite who hi) s =
        .next ((((s.wr A.heldLo oTIME_INC_LO 0).wr A.reg oTIME_INC_LO (given oTIME_INC_LO (s.reg oTIME_INC_LO))).wr A.reg
          oTIME_INC_HI (slice hi.toNat 0 4)).ans 0 0)) ∧
      (slice hi.toNat 0 4 ≠ 9 → slice hi.toNat 0 4 ≠ 10 → exec (.timeIncWrite who hi) s =
        .next ((s.wr A.heldLo oTIME_INC_LO 0).ans 0 0)) ∧
      exec (.synced who) s = .next ((synced s).ans 0 0))) ∧
  (s.powered = true →
    (s.rf 0 TIME_CTRL_PPS_EN = 0 ∨ s.on A.refGone 0 = true ∨ s.rf 0 TIME_CTRL_PPS_SRC = 1 ∧ s.sigHeard 0x3C = false → exec .ppsEdge s = .next s) ∧
    (s.rf 0 TIME_CTRL_PPS_EN = 1 → s.on A.refGone 0 = false → s.rf 0 TIME_CTRL_PPS_SRC = 0 ∨ s.sigHeard 0x3C = true →
      (s.on A.ppsSeen 0 = false → Completes (exec .ppsEdge s) fun t => accepted t 1 ∧ t.reg oPPS_PERIOD = s.reg oPPS_PERIOD) ∧
      (s.on A.ppsSeen 0 = true →
        (inWindow → Completes (exec .ppsEdge s) fun t => accepted t k ∧
          t.reg oPPS_PERIOD = (now + 2 ^ 64 - s.rd A.ppsTime 0) % 2 ^ 64 / k % 2 ^ 32) ∧
        (¬ inWindow → 33 * second ≤ 2 * e → Completes (exec .ppsEdge s) fun t => accepted t k ∧
          t.rf 0 TIME_STATUS_RESYNC = 1 ∧ t.reg oPPS_PERIOD = s.reg oPPS_PERIOD) ∧
        (¬ inWindow → 2 * e < 33 * second → exec .ppsEdge s = .next (s.cnt 0 TIME_STATUS_PPS_BAD 1)))) ∧
    exec .ppsHoldoverTimeout s = .next (if s.rf 0 TIME_CTRL_PPS_EN = 1 ∧ 11 * second ≤ 10 * e then
      s.wf 0 TIME_STATUS_HOLDOVER 1 else s) ∧
    exec .timeMsgTimeout s = .next (if s.rf 0 TIME_CTRL_MSG_EXPECT = 1 ∧ 3 * second ≤ s.mono - s.rd A.msgRef 0 then
      s.wf 0 TIME_STATUS_HOLDOVER 1 else s) ∧
    (now / second ≤ s.rd A.tmSec 0 → exec .timeSecond s = .next s) ∧
    (s.rd A.tmSec 0 < now / second →
      (s.rf 0 TIME_CTRL_MASTER = 0 → exec .timeSecond s = .next (s.wr A.tmSec 0 (now / second))) ∧
      (s.rf 0 TIME_CTRL_MASTER = 1 → (∀ p ∈ s.treePorts, s.portUp p = true) → exec .timeSecond s = .next
        { s.wr A.tmSec 0 (now / second) with
          symOut := s.symOut ++ s.treePorts.map fun p => ⟨p, none, .time 0 (now / second % 2 ^ 48)⟩ }))) ∧
  (s.clocked = true →
    (s.rf 0 TIME_CTRL_MASTER = 1 → exec (.time port hops sec) s = .next (heard.wf 0 TIME_STATUS_CONFLICT 1)) ∧
    (s.rf 0 TIME_CTRL_MASTER = 0 → s.on A.tmGot sec.toNat = true → exec (.time port hops sec) s = .next heard) ∧
    (s.rf 0 TIME_CTRL_MASTER = 0 → s.on A.tmGot sec.toNat = false → hops.toNat < 15 → (∀ p ∈ ports, s.portUp p = true) →
      exec (.time port hops sec) s = .next (((State.wr { heard.wr A.tmGot sec.toNat 1 with
        symOut := s.symOut ++ ports.map fun p => ⟨p, none, .time (hops.toNat + 1) sec.toNat⟩ } A.reg oTIME_MSG_LO sec.toNat).wr
          A.reg oTIME_MSG_HI (slice sec.toNat 32 16 + 2 ^ 16 * port.val + 2 ^ 20 * hops.toNat)).raise 0x5BC)) ∧
    (¬ far ∨ s.rf 0 TIME_STATUS_SLEPT = 0 → exec (.check port t48) s = .next (s.wr A.ptSeen port s.mono)) ∧
    (far → s.rf 0 TIME_STATUS_SLEPT = 1 → Completes (exec (.check port t48) s) fun t => t.rf 0 TIME_STATUS_UNSYNCED = 1 ∧
      (∀ i < 16, s.rd A.lnState i = 1 → t.rd A.lnState i = 0 ∧ t.rd A.lnResult i = 5) ∧
      (∀ i < 16, s.rd A.lnState i ≠ 1 → t.rd A.lnState i = s.rd A.lnState i ∧ t.rd A.lnResult i = s.rd A.lnResult i)))

/-- Timed launches (R373 to R378, R384). ARM shows the first refusal, BUSY, FIELD, LATE or UNSYNCED, and changes
nothing, or arms the slot; on a slot of another partition it shows DENIED. An armed slot fires once TIME_NS has reached
its time: in plumb mode 0 it takes GO at its own launch cycle, else it sends FIRED toward the root and waits. The root
counts FIRED and, with the last member, sends GO with the largest launch cycle; GO goes on to every child. While the
dies have no clock a slot that names a partition waits, and a COMMIT of the device is done, but for SLUMBER (log 185).
A COMMIT of a shadow that has overflowed shows OVERFLOW (R469). Refusals and launches without agreement are the model's
reading (logs 56, 57, 58). -/
def Obligations.TimedLaunches : Prop := ∀ (s : State) (who : Who) (val : Word) (slot port : Fin 16) (pid : BitVec 8)
    (tag : BitVec 4) (membersM1 : BitVec 12) (cyc : BitVec 28) (c k : Nat),
  let i := s.lnSlot
  let j : Nat := slot
  let cfg := s.rd A.lnCfg j
  let due := s.rd A.lnState j = 1 ∧ s.rd A.lnTime j ≤ s.timeNs
  let heard := s.wr A.ptSeen port s.mono
  let n := s.launchCycle k
  let fired := ((s.wr A.lnState j 2).wr A.lnGo j 0).wr A.lnCycle j n
  let ended (u : State) (i r : Nat) : State := ((u.wr A.lnState i 0).wr A.lnGo i 0).wr A.lnResult i r
  let count := ((s.fired.find? fun f => f.pid = pid.toNat ∧ f.tag = tag.toNat).map (·.count)).getD 0 + 1
  let rest := s.fired.filter fun f => ¬ (f.pid = pid.toNat ∧ f.tag = tag.toNat)
  let down (u : State) (x : Nat) : State :=
    { u with symOut := s.symOut ++ s.treeChildren.map fun p => ⟨p, none, .go pid.toNat tag.toNat x⟩ }
  let twin (i c : Nat) : Prop := ∃ j < 16, j ≠ i ∧ s.rd A.lnState j ≠ 0 ∧ slice (s.rd A.lnCfg j) 3 1 = 0 ∧
    slice (s.rd A.lnCfg j) 4 8 = slice c 4 8 ∧ slice (s.rd A.lnCfg j) 12 4 = slice c 12 4
  (s.Serving who →
    (s.lnFields who (patch val.toNat 28 2 1) = none → exec (.launchArm who val) s = .next (s.ans 1 0)) ∧
    (s.lnFields who (patch val.toNat 28 2 1) = some c →
      (s.lnMine who i = false → exec (.launchArm who val) s = .next ((s.wr A.lnResult i 7).ans 1 0)) ∧
      (s.lnMine who i = true →
        (∀ r, r ≠ 0 → s.armLaunch i c = r → exec (.launchArm who val) s = .next ((s.wr A.lnResult i r).ans 0 0)) ∧
        (s.armLaunch i c = 0 → exec (.launchArm who val) s =
          .next (((((s.wr A.lnCfg i c).wr A.lnState i 1).wr A.lnGo i 0).wr A.lnResult i 0).ans 0 0)))) ∧
    (s.rd A.lnState i ≠ 0 ∨ slice c 3 1 = 0 ∧ twin i c → s.armLaunch i c = 2) ∧
    (s.rd A.lnState i = 0 → slice c 3 1 = 1 ∨ ¬ twin i c →
      (5 ≤ slice c 0 3 ∨ slice c 3 1 = 1 ∧ slice c 0 3 ≠ 4 ∨ slice c 3 1 = 0 ∧ s.slotOfPid (slice c 4 8) = none →
        s.armLaunch i c = 3) ∧
      (slice c 0 3 ≤ 4 → slice c 3 1 = 1 ∧ slice c 0 3 = 4 ∨ slice c 3 1 = 0 ∧ s.slotOfPid (slice c 4 8) ≠ none →
        s.armLaunch i c = if s.rd A.lnTime i < s.timeNs then 4 else if s.rf 0 TIME_STATUS_UNSYNCED = 1 then 5 else 0)) ∧
    (s.lnFields who (patch (s.rd A.lnCfg i) 28 2 2) = none → exec (.launchDisarm who) s = .next (s.ans 1 0)) ∧
    (s.lnFields who (patch (s.rd A.lnCfg i) 28 2 2) = some c → s.lnMine who i = true → exec (.launchDisarm who) s =
      .next (((if s.rd A.lnState i ≠ 0 then ended s i 6 else s).wr A.lnCfg i c).ans 0 0))) ∧
  (s.clocked = true →
    (¬ due → exec (.launchFire slot) s = .next s) ∧
    (due → slice cfg 3 1 = 1 → s.rd A.shState devShadow ≠ 1 → exec (.launchFire slot) s = .next (ended s j 1)) ∧
    (due → slice cfg 3 1 = 1 → s.rd A.shState devShadow = 1 → s.on A.shOver devShadow = true →
      Completes (exec (.launchFire slot) s) fun t => t.rd A.shState devShadow = 0 ∧ t.rd A.shResult devShadow = 4 ∧
        t.rd A.lnState j = 0 ∧ t.rd A.lnResult j = 1 ∧ ∀ o, t.reg o = s.reg o) ∧
    (due → slice cfg 3 1 = 0 → s.slotOfPid (slice cfg 4 8) = none → exec (.launchFire slot) s = .next (ended s j 6)) ∧
    (due → slice cfg 3 1 = 0 → s.slotOfPid (slice cfg 4 8) = some k →
      (s.plumbMode k ≠ 0 → ∀ p, s.treeParent = some p → s.portUp p = true → exec (.launchFire slot) s = .next
        { fired with symOut := s.symOut ++ [⟨p, none, .fired (slice cfg 4 8) (slice cfg 12 4) (slice cfg 16 12) (n % 2 ^ 28)⟩] }) ∧
      (s.plumbMode k = 0 → s.rd A.pState k = 2 ∨ s.rd A.pState k = 3 →
        (slice cfg 0 3 = 1 ∨ slice cfg 0 3 = 3 ∨ slice cfg 0 3 = 4 → exec (.launchFire slot) s =
          .next (((fired.wr A.lnGo j 1).wr A.lnCycle j n).wr A.lnState j 2)) ∧
        (slice cfg 0 3 = 0 → exec (.launchFire slot) s = .next (ended fired j 6)))) ∧
    (∀ p, s.treeParent = some p → s.portUp p = true → exec (.fired port pid tag membersM1 cyc) s = .next
      { heard with symOut := s.symOut ++ [⟨p, none, .fired pid.toNat tag.toNat membersM1.toNat cyc.toNat⟩] }) ∧
    (s.treeParent = none → s.rf 0 CHAIN_TREE_VALID = 1 → ∀ latest, latest =
        max (((s.fired.find? fun f => f.pid = pid.toNat ∧ f.tag = tag.toNat).map (·.latest)).getD 0)
          (nearest 28 (match s.slotOfPid pid.toNat with
            | some k => s.rd A.pCycle k
            | none => match s.fired.find? fun f => f.pid = pid.toNat ∧ f.tag = tag.toNat with
              | some f => f.latest
              | none => cyc.toNat) cyc.toNat) →
      (count < membersM1.toNat + 1 → exec (.fired port pid tag membersM1 cyc) s = .next
        { heard with fired := rest ++ [⟨pid.toNat, tag.toNat, count, membersM1.toNat + 1, latest⟩] }) ∧
      (membersM1.toNat + 1 ≤ count → (∀ p ∈ s.treeChildren, s.portUp p = true) → exec (.fired port pid tag membersM1 cyc) s =
        .next ((down { heard with fired := rest } (latest % 2 ^ 28)).goHere pid.toNat tag.toNat (latest % 2 ^ 28)))) ∧
    (s.treeParent = some port.val → (∀ p ∈ s.treeChildren, s.portUp p = true) → exec (.go port pid tag cyc) s =
      .next ((down heard cyc.toNat).goHere pid.toNat tag.toNat cyc.toNat)) ∧
    (s.treeParent ≠ some port.val → exec (.go port pid tag cyc) s = .next heard)) ∧
  (s.powered = true → s.clocked = false →
    (¬ due ∨ s.on A.refGone 0 = true ∨ slice cfg 3 1 = 0 → exec (.launchFire slot) s = .next s) ∧
    (due → s.on A.refGone 0 = false → slice cfg 3 1 = 1 → s.rd A.pwMode 0 = 2 ∨ s.rd A.shState devShadow ≠ 1 →
      exec (.launchFire slot) s = .next (ended s j 1)))

/-- Metering (R379 to R384): the device epoch closes once its length has passed; with no partition epoch open, only the
new one begins. Sealing the record of a slot, outside SLUMBER, keeps it in the vault, which holds the last 1024, under
the next sequence number, with the code of the sealing key, and 0 without one; its meters restart at 0. An export
pushes every record of the vault, as records of the device, which is the model's reading (log 62). -/
def Obligations.Metering : Prop := ∀ (s : State) (who : Who) (k : Nat) (short : Bool),
  let key := s.rd A.sealKey 0
  let keyed : Bool := slice key 256 1 = 1
  let ws : List Nat := [s.rd A.pPid k + 2 ^ 8 * s.chainAddr + 2 ^ 20 * s.rd A.epReg k + 2 ^ 21 * bit short + 2 ^ 22 * bit (!keyed),
    s.rd A.meterSeq 0, s.powerId, s.rd A.epS k, s.timeNs, s.rd A.epMono k, s.mono, s.pair (P k + oMETER_CYCLES_LO),
    s.pair (P k + oMETER_CELL_STEPS_LO), s.pair (P k + oMETER_HOLD_NS_LO), s.pair (P k + oMETER_REC_BYTES_LO),
    s.rd A.epBefore k, s.rd A.epAfter k]
  let mac := if keyed then Config.sealRecord (slice key 0 256) ws else 0
  let len := (if s.rd A.devLen 0 = 0 then 3600 else s.rd A.devLen 0) * 1000000000
  let due := len - s.rd A.devS 0 % len ≤ s.mono - s.rd A.devMono 0
  (s.powered = true →
    (¬ due → exec .epochClose s = .next s) ∧
    (due → (∀ k < 32, s.on A.epOpen k = false) → exec .epochClose s = .next (((s.wr A.devS 0 s.timeNs).wr A.devMono 0
      s.mono).wr A.devLen 0 (s.rf 0 METER_CFG_EPOCH_S)))) ∧
  (k < 32 → s.rd A.pwMode 0 ≠ 2 →
    let t := s.sealRec k short
    t.vault = (s.vault ++ [ws ++ (List.range 6).map fun i => slice mac (64 * i) 64]).drop (s.vault.length + 1 - 1024) ∧
    t.pair (P k + oMETER_CYCLES_LO) = 0 ∧ t.pair (P k + oMETER_CELL_STEPS_LO) = 0 ∧ t.pair (P k + oMETER_HOLD_NS_LO) = 0 ∧
    t.pair (P k + oMETER_REC_BYTES_LO) = 0 ∧ t.rd A.meterSeq 0 = (s.rd A.meterSeq 0 + 1) % 2 ^ 64 ∧ t.mem = s.mem) ∧
  (s.Serving who →
    (s.pfRights who = false → exec (.meterExport who) s = .next (s.ans 1 0)) ∧
    (s.pfRights who = true → exec (.meterExport who) s =
      .next (State.ans (s.vault.foldl (fun u r => u.pushRecord (u.rf 0 METER_CFG_LOG_QUEUE) none r) s) 0 0)))

/-- The clocks (R364 to R366, R395, R396, R417): a TCLK tick adds TIME_INC to TIME_NS and 10 ns to MONO_NS, and
advances the hold time of every HELD partition and the timer of every request that does not pause; without REFCLK the
RC oscillator drives the time, with HOLDOVER and RC set, and the dies stand still until a reset. -/
def Obligations.Clocks : Prop := ∀ (s : State),
  let frac (n : Nat) : Nat := s.timeNs * 2 ^ 32 + s.rf 0 TIME_FRAC_VALUE + n
  let period := 30517 * 2 ^ 32 + 2483027968
  let monoFrac (n : Nat) : Nat := s.mono * 2 ^ 32 + s.rd A.monoFrac 0 + n
  let passed (t : State) (n m : Nat) : Prop := t.timeNs = frac n / 2 ^ 32 % 2 ^ 64 ∧ t.rf 0 TIME_FRAC_VALUE = frac n % 2 ^ 32 ∧
    t.mono = monoFrac m / 2 ^ 32 % 2 ^ 64 ∧ t.mem = s.mem
  s.powered = true →
  (s.on A.refGone 0 = true → exec .tclkTick s = .next s ∧ Completes (exec .rcOscillatorTick s) fun t =>
    passed t period period ∧ t.rf 0 TIME_STATUS_HOLDOVER = 1 ∧ t.rf 0 TIME_STATUS_RC = 1 ∧ t.outst = s.outst) ∧
  (s.on A.refGone 0 = false → exec .rcOscillatorTick s = .next s ∧
    (s.clocked = true → Completes (exec .tclkTick s) fun t => passed t s.timeInc (10 * 2 ^ 32) ∧
      t.outst = s.outst.map (fun o => if o.paused then { o with pauseTicks := o.pauseTicks + 1 }
        else { o with elapsed := o.elapsed + 1 }) ∧
      (∀ k < 32, s.rd A.pState k = 3 → t.rd A.holdTimer k = (s.rd A.holdTimer k + 1) % 2 ^ A.holdTimer.width) ∧
      (∀ k, t.rd A.pState k = s.rd A.pState k ∧ t.rd A.pCycle k = s.rd A.pCycle k)) ∧
    (s.clocked = false → Completes (exec .tclkTick s) fun t => passed t s.timeInc (10 * 2 ^ 32) ∧ t.outst = s.outst ∧
      ∀ k, t.rd A.holdTimer k = s.rd A.holdTimer k)) ∧
  exec .refclkLost s = .next (((s.wr A.refDead 0 1).wr A.refGone 0 1).wf 0 PWR_STATUS_REFCLK_LOST 1) ∧
  exec .refclkReturn s = .next ((s.wr A.refGone 0 0).wf 0 TIME_STATUS_RC 0)

/-- The initiator side of the control network (R385 to R388, R391, R394 to R396, R399). A request that matches no route
entry answers NO_ROUTE at once, one that cannot be reached LINK_DOWN (which port a path leaves by is free, log 108);
one without a free buffer waits for it with its timer running, and one that is sent to another device leaves as a
packet. A register request of more than 4 bytes goes out part by part, the first status that is not OK deciding. Only
the response that names tag and generation answers; others are counted. A request whose limit has passed answers
TIMEOUT, but not while it pauses for a wake, for at most 40 µs; its late response frees the buffer at the target. A
request carries the identity of its NI's agent. Entries are read and written as R399 says (logs 106, 109, 147, 148). A
request of an initiator of this device whose NI's table has no entry for it answers NO_ROUTE and is counted (R388); so
does one to another die whose bridge has none (R389). Before firmware or software has written an entry, requests are
delivered as they are, which is the model's choice (log 147). -/
def Obligations.ControlNetwork : Prop :=
  (∀ (s : State) (die : Fin 8) (ni : Fin 64) (tag : Fin 32) (write : Bool)
     (size : AccSize) (addr : BitVec 52) (data : BitVec 512) (gen : BitVec 2) (status mask : BitVec 4) (o : Outst) (who : Who)
     (off : BitVec 39),
   let d := D die
   let a := addr.toNat
   let x := tagIx die ni tag
   let send := exec (.requestSend die ni tag write size addr data) s
   let noted (u : State) (e n a st : Nat) : State :=
     (u.wr A.reg (D e + oCN_ERR_ADDR_LO) (a + 2 ^ 52 * n + 2 ^ 58 * st)).wr A.reg (D e + oCN_ERR_ADDR_LO + 4)
       ((a + 2 ^ 52 * n + 2 ^ 58 * st) / 2 ^ 32)
   let failed (u : State) (a st : Nat) : State := (noted u die ni a st).ans st 0
   let dropped : State := { s with outst := s.outst.erase o }
   let at_ := o.addr + o.done
   let last := o.size ≤ o.done + o.step
   let first (st : Nat) : Nat := if o.st = 0 then st else o.st
   let got (v : Nat) : Nat := o.got + 2 ^ (8 * o.done) * v
   let answered (u : State) (st m v : Nat) : Res :=
     .next (if o.far = 0 then { u with rsp := ⟨first st, got v, m⟩ } else u.farPart (o.far - 1) o.lo (first st) (got v))
   let follows (t u : State) (st v : Nat) : Prop := t.outst = u.outst ++ [{ o with
     gen := (s.rd A.cnGen x + if u.on A.cnStale x then 1 else 0) % 2 ^ A.cnGen.width, done := o.done + o.step, st := first st,
     got := got v, sent := u.bufferFree die ni (at_ + o.step), dead := false, elapsed := 0, paused := false, pauseTicks := 0 }]
   let timedOut : State := if o.sent = true then
       { s with outst := s.outst.map fun y => if y = o then { o with dead := true } else y } else dropped
   let netted (o : Outst) (u : State) : State :=
     if slice o.addr 40 12 = s.chainAddr then u else { u with netOut := u.netOut ++ [⟨bit o.write + 2 ^ 2 *
       (if o.step = 4 then 0 else if o.step = 8 then 1 else if o.step = 32 then 2 else 3) + 2 ^ 4 * o.tag + 2 ^ 9 * o.gen +
       2 ^ 11 * o.ni + 2 ^ 17 * o.die + 2 ^ 20 * s.chainAddr + 2 ^ 32 * o.idkind + 2 ^ 34 * o.pid + 2 ^ 64 * (o.addr + o.done),
       if o.write then slice o.data (8 * o.done) (8 * o.step) else 0⟩] }
   let step := if slice a 39 1 = 0 ∧ slice a 0 39 < 0x1000000000 then min 4 (szBytes size) else szBytes size
   let far := slice a 40 12
   let goes (t : State) : Prop := t.on A.cnStale x = false ∧ t.rsp = s.rsp ∧ t.mem = s.mem ∧ ∃ kind pid, ∃ y : Outst,
     y = ⟨die, ni, tag, (s.rd A.cnGen x + if s.on A.cnStale x then 1 else 0) % 2 ^ A.cnGen.width, a, write, szBytes size, step,
       data.toNat, 0, 0, 0, 0, 0, kind, pid, s.bufferFree die ni a, false, 0, false, 0⟩ ∧ t.outst = s.outst ++ [y] ∧
     t.netOut = (if y.sent then netted y s else s).netOut ∧
     (ni.val = 41 ∨ ni.val = 46 → kind = 0 ∧ pid = 0) ∧ (ni.val = 44 → kind = 2 ∧ pid = 0) ∧
     ∀ c : Fin 32, c.val = ni.val → (s.stamp (.core die c) = .pf → kind = 0) ∧ ∀ p, s.stamp (.core die c) = .part p → kind = 1 ∧ pid = p
   let cut (t : State) : Prop := { t with freeCtr := s.freeCtr } = failed s a 6
   let limit (a : Nat) : Nat := if slice a 40 12 = s.chainAddr then s.rf d CN_TIMEOUT_LOCAL_10NS
     else 100 * s.rf d CN_TIMEOUT_BRIDGED_US
   let r := routeIx die (s.rf d CN_ROUTE_LOC_NI) (s.rf d CN_ROUTE_LOC_ENTRY)
   let bad (w : Bool) : Prop := initiatorNi die (s.rf d CN_ROUTE_LOC_NI) = false ∨
     w = true ∧ (s.rf d CN_ROUTE_PATH_HOPS = 0 ∨ 9 < s.rf d CN_ROUTE_PATH_HOPS)
   let p := off.toNat
   (s.clocked = true →
     (initiatorNi die ni = false → send = .next s) ∧
     (initiatorNi die ni = true → s.outstOf die ni tag = some o →
       (o.sent = true ∨ s.bufferFree die ni at_ = false → send = .next s) ∧
       (o.sent = false → s.bufferFree die ni at_ = true → send = .next (netted o
         { s with outst := s.outst.map fun y => if y = o then { o with sent := true } else y }))) ∧
     (initiatorNi die ni = true → s.outstOf die ni tag = none →
       (∀ e n, s.noRoute die ni a = some (e, n) → Completes send fun t =>
         { t with freeCtr := s.freeCtr } = (noted (s.cnt (D e) CN_ERR_NO_ROUTE 1) e n a 5).ans 5 0) ∧
       (s.noRoute die ni a = none →
         (far ≠ s.chainAddr → s.rd A.enCount 0 ≤ far ∨ (∀ p < 16, s.portUp p = false) → Completes send cut) ∧
         (far = s.chainAddr ∨ far < s.rd A.enCount 0 ∧ (∀ p < 16, s.portUp p = true) → Completes send goes) ∧
         (far ≠ s.chainAddr → far < s.rd A.enCount 0 → (∃ p < 16, s.portUp p = true) → (∃ p < 16, s.portUp p = false) →
           Completes send fun t => cut t ∨ goes t))) ∧
     (s.outstOf die ni tag = some o → o.sent = true → o.gen = gen.toNat →
       (last →
         (status.toNat ≠ 6 → exec (.cnResponse die ni tag gen status ⟨mask, data⟩) s =
           answered dropped.releaseHeld status.toNat mask.toNat data.toNat) ∧
         (status.toNat = 6 → exec (.cnResponse die ni tag gen status ⟨mask, data⟩) s =
           answered (failed dropped.releaseHeld at_ 6) 6 0 0)) ∧
       (¬ last → status.toNat ≠ 6 → Completes (exec (.cnResponse die ni tag gen status ⟨mask, data⟩) s) fun t =>
         follows t dropped.releaseHeld status.toNat data.toNat ∧ t.rsp = s.rsp)) ∧
     ((∀ o, s.outstOf die ni tag = some o → o.sent = false ∨ o.gen ≠ gen.toNat) →
       exec (.cnResponse die ni tag gen status ⟨mask, data⟩) s = .next (State.cnt (match s.outst.find? fun o =>
           o.die = die.val ∧ o.ni = ni.val ∧ o.tag = tag.val ∧ o.gen = gen.toNat ∧ o.dead = true with
         | some o => { s with outst := s.outst.erase o }
         | none => s) d CN_ERR_LATE_RSP 1).releaseHeld) ∧
     (s.outstOf die ni tag = none → exec (.requestTimeout die ni tag) s = .next s) ∧
     (s.outstOf die ni tag = some o →
       (o.paused = true ∨ o.elapsed < limit o.addr → exec (.requestTimeout die ni tag) s = .next s) ∧
       (o.paused = false → limit o.addr ≤ o.elapsed →
         let u := ((timedOut.wr A.cnStale x 1).cnt d CN_ERR_TIMEOUTS 1).releaseHeld
         (last → exec (.requestTimeout die ni tag) s = answered (failed u at_ 4) 4 0 0) ∧
         (¬ last → Completes (exec (.requestTimeout die ni tag) s) fun t => follows t u 4 0 ∧ t.rsp = ⟨4, 0, 0⟩))) ∧
     exec (.wakeNotice die ni tag) s = .next { s with
       outst := s.outst.map fun y => if y.die = die.val ∧ y.ni = ni.val ∧ y.tag = tag.val ∧ y.dead = false ∧ y.sent = true ∧
         y.pauseTicks < 4000 then { y with paused := true } else y } ∧
     exec (.wakePauseExpiry die ni tag) s = .next { s with
       outst := s.outst.map fun y => if y.die = die.val ∧ y.ni = ni.val ∧ y.tag = tag.val ∧ y.dead = false ∧ y.paused = true ∧
         4000 ≤ y.pauseTicks then { y with paused := false } else y }) ∧
   (s.Serving who →
     (s.pfRights who = false → exec (.routeEntryRead who die) s = .next ((s.wf d CN_ROUTE_CMD_RESULT 2).ans 1 0) ∧
       exec (.routeEntryWrite who die) s = .next ((s.wf d CN_ROUTE_CMD_RESULT 2).ans 1 0)) ∧
     (s.pfRights who = true →
       (bad false → exec (.routeEntryRead who die) s = .next ((s.wf d CN_ROUTE_CMD_RESULT 3).ans 0 0)) ∧
       (bad true → exec (.routeEntryWrite who die) s = .next ((s.wf d CN_ROUTE_CMD_RESULT 3).ans 0 0)) ∧
       (¬ bad false → Completes (exec (.routeEntryRead who die) s) fun t =>
         (s.on A.cnFw 0 = false ∨ s.on A.cnSet r = true → t.reg (d + oCN_ROUTE_MATCH) = s.rd A.cnMatch r ∧
           t.reg (d + oCN_ROUTE_MASK) = s.rd A.cnMask r ∧ t.reg (d + oCN_ROUTE_PATH) = s.rd A.cnPath r) ∧ t.rf d CN_ROUTE_CMD_RESULT = 0 ∧ t.rsp = ⟨0, 0, 0⟩) ∧
       (¬ bad true → exec (.routeEntryWrite who die) s = .next ((((((s.wf d CN_ROUTE_CMD_RESULT 0).wr A.cnMatch r
         (s.reg (d + oCN_ROUTE_MATCH))).wr A.cnMask r (s.reg (d + oCN_ROUTE_MASK))).wr A.cnPath r
           (s.reg (d + oCN_ROUTE_PATH))).wr A.cnSet r 1).ans 0 0))) ∧
     (bayWindow p = none →
       (p % 4 = 0 → s.domOfReq false false p data.toNat 4 = none → exec (.cnRequest who false false off .b4 data) s =
         .next ((s.readReg who p).ans (s.readReg who p).rsp.status ((s.readReg who p).rsp.data % 2 ^ 32))) ∧
       (p % 4 = 0 → s.domOfReq true false p data.toNat 4 = none → ∀ u, u = s.writeReg who p (data.toNat % 2 ^ 32) →
           exec (.cnRequest who true false off .b4 data) s = .next (u.ans u.rsp.status 0)) ∧
       (p % 8 = 0 → s.domOfReq true false p data.toNat 8 = none → ∀ u, u = s.writeReg who p (data.toNat % 2 ^ 32) → ∀ v,
           v = u.writeReg who (p + 4) (slice data.toNat 32 32) → exec (.cnRequest who true false off .b8 data) s =
             .next (v.ans (if u.rsp.status = 0 then v.rsp.status else u.rsp.status) 0))))) ∧
  (∀ (s : State) (who : Who) (off : Nat) (val : Word) (write space : Bool)
     (o : BitVec 39) (size : AccSize) (data : BitVec 512) (hint : BitVec 2) (slot : Fin 32) (die : Fin 8) (place b : Nat),
   let ni : Nat × Nat := match who with
     | .boot => (0, 44)
     | .core d c => (d, c)
     | .net p _ _ => (p / 2, 43)
     | _ => (0, 45)
   let a := 2 ^ 40 * s.chainAddr + place
   let none_ (d n : Nat) : Prop := ∀ e < 64, s.routeMatch (routeIx d n e) a = false
   s.clocked = true → s.entering = false → off < csrBase → s.on A.cnFw 0 = true ∨ (∃ e, s.rd A.cnMatch e ≠ 0) →
   s.Awake who → s.accepts who = true → (∀ h ∈ s.held, whoNi h.who ≠ whoNi who) → s.resumed = [] →
   ∀ at_ : Nat × Nat, none_ ni.1 ni.2 ∧ at_ = ni ∨
     ¬ none_ ni.1 ni.2 ∧ targetDie a = b ∧ b ≠ ni.1 ∧ none_ b 42 ∧ slice a 40 12 = s.chainAddr ∧ at_ = (b, 42) →
   let word := a + 2 ^ 52 * at_.2 + 2 ^ 58 * 5
   ∀ c ∈ ([.registerWrite who off val, .rcRead who off, .cnRequest who write space o size data,
     .hbmRequest who write o size data hint, .start who slot, .bedAccRead who die] : List Instr),
   c.place = some place → exec c s = .next ((((s.cnt (D at_.1) CN_ERR_NO_ROUTE 1).wr A.reg (D at_.1 + oCN_ERR_ADDR_LO) word).wr
     A.reg (D at_.1 + oCN_ERR_ADDR_LO + 4) (word / 2 ^ 32)).ans 5 0))

/-- Requests to HBM (R397, R398, R401, R404, R408, R415): beyond the last byte or outside what the identity may reach
DENIED; else a request of 4, 8, 32 or 64 bytes, at its address aligned down, reads or writes those bytes,
little-endian, and the line's error decides OK, a counted correction or UE, which also stops a partial write. An
invalidation takes a line out of an L2, its modified data into memory, which a DEGRADED stack does not take (R411). A
core's access reads and modifies the line in the L2 of its die, which first takes one that it does not hold, where its
identity reaches the line; else it is DENIED (R393). The L2's make is the model's choice (log 31). What the requests of
a lost or saved line give is not covered. -/
def Obligations.HbmRequests : Prop := ∀ (s : State) (who : Who) (write : Bool) (addr : BitVec 39) (size : AccSize)
    (data : BitVec 512) (hint : BitVec 2) (die : Fin 8) (core : Fin 32) (line : BitVec 33) (e : L2Line),
  let n := match size with
    | .b4 => 4
    | .b8 => 8
    | .b32 => 32
    | .b64 => 64
  let a := addr.toNat / n * n
  let v := data.toNat % 2 ^ (8 * n)
  let d := D (hbmDie a)
  let err := s.rd A.hbmErr (a / 64)
  let direct := ∀ x y, who ≠ .core x y
  let go := exec (.hbmRequest who write addr size data hint) s
  (s.Serving who → hbmBytes ≤ addr.toNat → go = .next (s.ans 1 0)) ∧
  (s.ServingDom who (hbmDie addr.toNat) domMem → addr.toNat < hbmBytes →
    exec (.cnRequest who write true addr size data) s = go ∧
    (direct → s.reachesHbm (s.stamp who) a = false → go = .next (s.ans 1 0)) ∧
    (direct → s.reachesHbm (s.stamp who) a = true →
      (∀ x ∈ s.l2, x.line = a / 64 → write = false ∧ x.modified = false) →
      (s.rf d HBM_STATUS_DEGRADED = 1 → write = true → go = .next (s.ans 3 0)) ∧
      (s.rf d HBM_STATUS_DEGRADED = 1 → write = false → go = .next (s.ans 3 (s.bytes a n))) ∧
      (s.rf d HBM_STATUS_DEGRADED = 0 → s.lineOpen a = false →
        (write = false → err = 0 → go = .next (s.ans 0 (s.bytes a n))) ∧
        (write = false → err = 1 → go =
          .next (((s.cnt d HBM_ECC_COUNT_CE 1).wr A.hbmErr (a / 64) 0).ans 0 (s.bytes a n))) ∧
        (write = false → err = 2 → go = .next ((s.noteUe a).ans 3 (s.bytes a n))) ∧
        (write = true → err = 2 → n < 64 → go = .next ((s.noteUe a).ans 3 0)) ∧
        (write = true → err = 0 ∨ n = 64 → go = .next (((s.wr A.hbmErr (a / 64) 0).putBytes a v n).ans 0 0)))) ∧
    (who = .core die core → s.reachesHbm (s.stamp who) a = false → go = .next (s.ans 1 0)) ∧
    (who = .core die core → s.reachesHbm (s.stamp who) a = true → s.l2Find die (a / 64) = none → write = false →
      (∀ x ∈ s.l2, x.line = a / 64 → x.modified = false) → (s.l2.filter fun x => x.die = die.val).length < 131072 →
      s.rf d HBM_STATUS_DEGRADED = 0 → s.lineOpen a = false → err = 0 → ∀ w, w = s.bytes (64 * (a / 64)) 64 →
        go = .next (State.ans { s with l2 := s.l2 ++ [⟨die, a / 64, false, w⟩] } 0 (slice w (8 * (a % 64)) (8 * n)))) ∧
    (who = .core die core → s.reachesHbm (s.stamp who) a = true → s.l2Find die (a / 64) = some e →
      (write = false → go = .next (s.ans 0 (slice e.data (8 * (a % 64)) (8 * n)))) ∧
      (write = true → go = .next (State.ans { s with l2 := (s.l2.filter fun x => ¬ x.line = a / 64) ++
        [⟨die, a / 64, true, patch e.data (8 * (a % 64)) (8 * n) v⟩] } 0 0)))) ∧
  (s.clocked = true →
    (s.l2Find die line.toNat = none → exec (.snoopInvalidation die line) s = .next s) ∧
    (s.l2Find die line.toNat = some e → ∀ u : State,
      u = { s with l2 := s.l2.filter fun x => ¬ (x.die = die.val ∧ x.line = line.toNat) } →
      (e.modified = false → exec (.snoopInvalidation die line) s = .next u) ∧
      (e.modified = true → ∀ l, l = 64 * line.toNat →
        (s.rf (D (hbmDie l)) HBM_STATUS_DEGRADED = 1 → exec (.snoopInvalidation die line) s = .next u) ∧
        (s.rf (D (hbmDie l)) HBM_STATUS_DEGRADED = 0 → exec (.snoopInvalidation die line) s =
          .next (State.putBytes (if s.lineOpen l = true then (u.wr A.hbmErr line.toNat 0).wr A.hbmKnown line.toNat 1
            else u.wr A.hbmErr line.toNat 0) l e.data 64)))))

/-- The upkeep of HBM and its ownership table (R403, R404, R408 to R412, R414, R415): the scrubber takes the next line,
a correctable one is corrected and counted, an uncorrectable one counted and recorded; after training every line of the
stack reads 0; an entry of the table is written and read by the physical function and the boot controller alone. A
pseudo-channel is retrained when it is the next and RETRAIN_MS have passed, or when its stack has moved by 10 °C since
its own last time, one at a time (log 110). What an access of the table answers and which errors are recorded are the
model's reading (logs 109, 111). -/
def Obligations.HbmUpkeep : Prop := ∀ (s : State) (who : Who) (die : Fin 8) (pc : Fin 32) (bank : Fin 64)
    (tempC : BitVec 8) (repairs : BitVec 6) (unrepairable : Bool) (val : Word),
  let d := D die
  let n : Nat := die
  let x := s.rd A.scrubAt n
  let line := 0xC00000000 / 64 * n + x
  let next := s.wr A.scrubAt n ((x + 1) % (0xC00000000 / 64))
  let g := s.rf d HBM_OWN_SEL_GRANULE
  let temp := s.rf d HBM_STATUS_TEMP_C
  let due : Prop := s.rf d HBM_CFG_RETRAIN_MS ≠ 0 ∧ pc.val = (s.rf d HBM_STATUS_LAST_PC + 1) % 32 ∧
      s.rd A.pcAt n + 1000000 * s.rf d HBM_CFG_RETRAIN_MS ≤ s.pair oMONO_NS_LO ∨
    10 ≤ ((BitVec.ofNat 8 temp).toInt - (BitVec.ofNat 8 (s.rd A.pcTemp (32 * n + pc))).toInt).natAbs
  let sel (u : State) : State := if s.rf d HBM_OWN_SEL_AUTOINC = 1 then u.wf d HBM_OWN_SEL_GRANULE (g + 1) else u
  (s.clocked = true →
    (s.rf d HBM_CFG_SCRUB_H = 0 ∨ s.rf d HBM_STATUS_TRAINED = 0 ∨ s.domOn n domMem = false →
      exec (.patrolScrub die) s = .next s) ∧
    (s.rf d HBM_CFG_SCRUB_H ≠ 0 → s.rf d HBM_STATUS_TRAINED = 1 → s.domOn n domMem = true → s.lineLost (64 * line) = false →
      (s.rd A.hbmErr line = 0 → exec (.patrolScrub die) s = .next next) ∧
      (s.rd A.hbmErr line = 1 → exec (.patrolScrub die) s = .next (next.noteCe (64 * line))) ∧
      (2 ≤ s.rd A.hbmErr line → exec (.patrolScrub die) s = .next (next.noteUe (64 * line)))) ∧
    exec (.bankRefresh die pc bank tempC) s = .next ((s.wf d HBM_STATUS_TEMP_C tempC.toNat).wf d HBM_STATUS_HOT
      (if 85 < tempC.toInt then 1 else 0)) ∧
    (s.rf d HBM_STATUS_TRAINED = 0 ∨ s.rf d HBM_STATUS_RETRAINING = 1 ∨ ¬ due → exec (.pseudoChannelRetrain die pc) s = .next s) ∧
    (s.rf d HBM_STATUS_TRAINED = 1 → s.rf d HBM_STATUS_RETRAINING = 0 → due → exec (.pseudoChannelRetrain die pc) s =
      .next ((((s.wf d HBM_STATUS_LAST_PC pc).wf d HBM_STATUS_RETRAINING 1).wr A.pcAt n (s.pair oMONO_NS_LO)).wr A.pcTemp
        (32 * n + pc) temp)) ∧
    (Completes (exec (.hbmTraining die) s) fun t => t.on A.hbmTrn n = true ∧ t.rf d HBM_STATUS_TRAINED = 0 ∧
      t.rf d HBM_STATUS_DEGRADED = 0 ∧ t.rf d HBM_STATUS_REPAIRS = 0 ∧ t.mem = s.mem) ∧
    (s.on A.hbmTrn n = false → exec (.hbmTrainingDone die repairs unrepairable) s = .next s) ∧
    (s.on A.hbmTrn n = true → Completes (exec (.hbmTrainingDone die repairs unrepairable) s) fun t =>
      t.rf d HBM_STATUS_TRAINED = 1 ∧ t.rf d HBM_STATUS_REPAIRS = repairs.toNat ∧
      (unrepairable = true → t.rf d HBM_STATUS_DEGRADED = 1) ∧
      (unrepairable = false → t.rf d HBM_STATUS_DEGRADED = s.rf d HBM_STATUS_DEGRADED) ∧
      (∀ a, t.byte a = if hbmDie a = n then 0 else s.byte a) ∧
      (∀ l, hbmDie (64 * l) = n → t.rd A.hbmErr l = 0) ∧ (∀ g, t.rd A.own g = s.rd A.own g)) ∧
    exec (.zeroFillDone die) s = .next (s.wf d HBM_STATUS_FILLING 0)) ∧
  (s.Serving who →
    (s.pfRights who = false → exec (.ownershipEntryWrite who die val) s = .next ((s.wf d HBM_OWN_SEL_RESULT 1).ans 1 0) ∧
      exec (.ownershipEntryRead who die) s = .next ((s.wf d HBM_OWN_SEL_RESULT 1).ans 1 0)) ∧
    (s.pfRights who = true →
      (24576 ≤ g → exec (.ownershipEntryWrite who die val) s = .next (((sel s).wf d HBM_OWN_SEL_RESULT 2).ans 0 0) ∧
        exec (.ownershipEntryRead who die) s = .next (((sel s).wf d HBM_OWN_SEL_RESULT 2).ans 0 0)) ∧
      (g < 24576 →
        exec (.ownershipEntryWrite who die val) s =
          .next ((((sel s).wf d HBM_OWN_SEL_RESULT 0).wr A.own (24576 * n + g) (slice val.toNat 0 9)).ans 0 0) ∧
        exec (.ownershipEntryRead who die) s =
          .next (((sel s).wf d HBM_OWN_SEL_RESULT 0).ans 0 (s.rd A.own (24576 * n + g))))))

/-- Performance levels (R418 to R421, R438): the first refusal of R419 shows in RESULT and changes nothing else; a
change pulls HOLD with cause 6 in every stepping partition, waits until all have frozen, raises the supply before a
faster level and asks for a lower one after a slower one, and ends with its RESULT and without the cause. A voltage
that is not acknowledged within 1 ms ends it with 6. A warm reset that waited for the end is not covered. The order of
the refusals, and what counts as frozen, are the model's reading (logs 125, 126). -/
def Obligations.PerformanceLevels : Prop := ∀ (s : State) (who : Who) (target : BitVec 2),
  let t := target.toNat
  let level := s.rf 0 PL_STATUS_LEVEL
  let next := s.rf 0 PL_STATUS_PENDING
  let mv (l : Nat) : Nat := if l = 0 then 850 else if l = 1 then 750 else if l = 2 then 680 else 620
  let asks (u : State) (l : Nat) : State := (u.wf 0 PL_STATUS_VOLT_REQ 1).wf 0 PL_STATUS_VOLT_MV (mv l)
  let go := exec (.plChangeRequest who target) s
  let res (r : Nat) : Res := .next ((s.wf 0 PL_CTRL_RESULT r).ans 0 0)
  let low := ∃ k < 32, s.loaded k = true ∧ t < s.rd A.pMinPl k
  let short := ∃ k < 32, s.stoppable k = true ∧ (s.wf 0 PL_STATUS_LEVEL t).capacityShort k = true
  let ended (u : State) (r : Nat) : Prop := u.rf 0 PL_CTRL_BUSY = 0 ∧ u.rf 0 PL_CTRL_RESULT = r ∧ u.rd A.plPhase 0 = 0 ∧
    (∀ k < 32, u.hasCause k 6 = false) ∧ u.mem = s.mem
  (s.Serving who →
    (s.pfRights who = false → go = .next ((s.wf 0 PL_CTRL_RESULT 2).ans 1 0) ∧ exec (.voltDone who) s = .next (s.ans 1 0)) ∧
    (s.pfRights who = true →
      (s.rf 0 PWR_CTRL_BUSY = 1 ∨ s.rf 0 PWR_STATUS_STATE ≠ 0 → go = res 5) ∧
      (s.rf 0 PWR_CTRL_BUSY = 0 → s.rf 0 PWR_STATUS_STATE = 0 →
        (s.rd A.plPhase 0 ≠ 0 → go = res 1) ∧
        (s.rd A.plPhase 0 = 0 →
          (t = level → go = res 0) ∧
          (t ≠ level → low → go = res 3) ∧
          (t ≠ level → ¬ low → short → go = res 4) ∧
          (t ≠ level → ¬ low → ¬ short → Completes go fun u => u.rf 0 PL_CTRL_BUSY = 1 ∧ u.rf 0 PL_CTRL_RESULT = 0 ∧
            u.rf 0 PL_STATUS_PENDING = t ∧ u.rf 0 PL_STATUS_LEVEL = level ∧ u.rd A.plPhase 0 = 1 ∧
            (∀ k < 32, s.stoppable k = true → u.hasCause k 6 = true) ∧ u.rsp = ⟨0, 0, 0⟩ ∧ u.mem = s.mem))) ∧
      (s.rf 0 PL_STATUS_VOLT_REQ = 0 → exec (.voltDone who) s = .next (s.ans 0 0)) ∧
      (s.rf 0 PL_STATUS_VOLT_REQ = 1 →
        (s.rd A.plPhase 0 = 2 → exec (.voltDone who) s = .next (((s.wf 0 PL_STATUS_VOLT_REQ 0).wr A.plPhase 0 3).ans 0 0)) ∧
        (s.rd A.plPhase 0 ≠ 2 → exec (.voltDone who) s = .next ((s.wf 0 PL_STATUS_VOLT_REQ 0).ans 0 0))))) ∧
  (s.clocked = true →
    (s.rd A.plPhase 0 ≠ 1 ∨ (∃ k < 32, s.rd A.pState k = 2) → exec .plChangeFrozen s = .next s) ∧
    (s.rd A.plPhase 0 = 1 → (∀ k < 32, s.rd A.pState k ≠ 2) → s.flight = [] →
      (next < level → exec .plChangeFrozen s =
        .next ((((asks s next).raise 0x5BD).wr A.plPhase 0 2).wr A.voltAt 0 s.mono)) ∧
      (level ≤ next → exec .plChangeFrozen s = .next (s.wr A.plPhase 0 3))) ∧
    (s.rd A.plPhase 0 = 2 → s.rd A.voltAt 0 + 1000000 ≤ s.mono → s.on A.warmWait 0 = false →
      Completes (exec .voltageTimeout s) fun u => ended u 6 ∧ u.rf 0 PL_STATUS_VOLT_REQ = 0 ∧
        u.rf 0 PL_STATUS_VOLT_MV = mv level ∧ u.rf 0 PL_STATUS_LEVEL = level) ∧
    (s.rd A.plPhase 0 ≠ 2 ∨ s.mono < s.rd A.voltAt 0 + 1000000 → exec .voltageTimeout s = .next s) ∧
    (s.rd A.plPhase 0 ≠ 3 → exec .pllRelock s = .next s) ∧
    (s.rd A.plPhase 0 = 3 → s.on A.warmWait 0 = false → Completes (exec .pllRelock s) fun u => ended u 0 ∧
      u.rf 0 PL_STATUS_LEVEL = next ∧
      (level < next → u.rf 0 PL_STATUS_VOLT_REQ = 1 ∧ u.rf 0 PL_STATUS_VOLT_MV = mv next) ∧
      (next ≤ level → u.rf 0 PL_STATUS_VOLT_REQ = s.rf 0 PL_STATUS_VOLT_REQ)))

/-- Power domains (R422 to R424): DOMAIN_CTRL is the physical function's and the boot controller's, and acts on domain
after domain: one that is needed stays on, with DOMAIN_REFUSED; another goes off and its contents are gone; one that is
asked back wakes, and is up when its power-up ends. That a write acts on one domain after another, and which stores
stand in a domain, are the model's reading (logs 127, 128). -/
def Obligations.PowerDomains : Prop := ∀ (s : State) (who : Who) (val : Word) (die : Fin 8) (dom : Fin 3),
  let i := 4 * die.val + dom
  let bitTo (u : State) (b : Nat) : State := u.wr A.reg oDOMAIN_CTRL (patch (u.reg oDOMAIN_CTRL) i 1 b)
  let ask := s.domAsk val.toNat die dom
  (s.Serving who →
    (s.pfRights who = false → exec (.domainCtrlWrite who val) s = .next (s.ans 1 0)) ∧
    (s.pfRights who = true → exec (.domainCtrlWrite who val) s = .next (State.ans ((List.range 8).foldl (fun u d =>
      (List.range 3).foldl (fun u x => u.domAsk val.toNat d x) u) s) 0 0))) ∧
  (val.getLsbD i = true →
    (s.domOn die dom = false → ask = bitTo s 1) ∧
    (s.domOn die dom = true → s.domNeeded die dom = true → ask = s.wf 0 PWR_STATUS_DOMAIN_REFUSED 1) ∧
    (s.domOn die dom = true → s.domNeeded die dom = false → ask.domOn die dom = false ∧
      (ask.reg oDOMAIN_CTRL).testBit i = true ∧
      (∀ j, (dom = 0 → j / (512 * 4096) = die → ask.rd A.hist j = 0) ∧ (dom = 0 → j / (512 * 65536) = die → ask.rd A.imem j = 0) ∧
        (dom = 1 → j / (131072 * 16) = die → ask.rd A.bay j = 0) ∧ (dom = 2 → j / (512 * 512) = die → ask.rd (A.mTab 5) j = 0)) ∧
      (dom ≠ 1 → ask.mem = s.mem))) ∧
  (val.getLsbD i = false →
    (s.domOn die dom = true → ask = bitTo s 0) ∧
    (s.domOn die dom = false → ask = (bitTo s 0).wr A.domWake i 1)) ∧
  (s.clocked = true →
    (s.on A.domWake i = false → exec (.domainPowerUp die dom) s = .next s) ∧
    (s.on A.domWake i = true → Completes (exec (.domainPowerUp die dom) s) fun t => t.domOn die dom = true ∧
      t.on A.domWake i = false ∧ (∀ j, j ≠ i → (t.reg oDOMAIN_STATUS).testBit j = (s.reg oDOMAIN_STATUS).testBit j) ∧
      t.mem = s.mem))

/-- Entry to PARK and SLUMBER (R425 to R432): a request shows the first refusal, 1, 4 or 5, and changes nothing else,
or begins DRAIN (3, LINK, needs a partition that is RUN or HELD, which 1 refuses before it: log 130). CANCEL, past
DRAIN, is held as a wake with source SOFTWARE; before, there is nothing for it to do (log 130). A wake that is pending,
or a drain beyond its limit, abandons the entry with RESULT 7 or 6: the device is in RUN, and what was held is
performed next. When all is drained PARK is entered, and SLUMBER goes on through its phases, each of which a pending
wake ends (logs 116, 131). -/
def Obligations.SleepEntries : Prop := ∀ (s : State) (who : Who) (val : Word),
  let v := val.toNat
  let begun (t : State) (st : Nat) : Prop := t.rf 0 PWR_CTRL_BUSY = 1 ∧ t.rf 0 PWR_STATUS_STATE = st ∧
    t.rf 0 PWR_STATUS_PHASE = 1 ∧ t.rf 0 PWR_CTRL_RESULT = 0 ∧ t.rd A.pwWake 0 = 0 ∧ t.rd A.drainAt 0 = s.mono ∧
    t.rf 0 PWR_CTRL_SAVE_EN = slice v 2 1 ∧ t.rf 0 PWR_CTRL_DRAIN_US = max 1 (slice v 16 16) ∧
    t.rsp = ⟨0, 0, 0⟩ ∧ t.mem = s.mem
  let busy := s.anyStepping = true ∨ s.rd A.plPhase 0 ≠ 0 ∨ s.rf 0 PWR_CTRL_BUSY = 1 ∨ s.rf 0 PWR_STATUS_STATE ≠ 0
  let refused (r : Nat) : Res := .next ((s.wf 0 PWR_CTRL_RESULT r).ans 0 0)
  let awake (t : State) (r : Nat) : Prop := t.rf 0 PWR_CTRL_BUSY = 0 ∧ t.rf 0 PWR_STATUS_STATE = 0 ∧
    t.rf 0 PWR_STATUS_PHASE = 0 ∧ t.rf 0 PWR_CTRL_RESULT = r ∧ t.rd A.pwWake 0 = 0 ∧ t.clocked = true ∧ t.saveArea = [] ∧
    t.aonSave = [] ∧ t.mem = s.mem ∧ t.held = [] ∧ t.pending = s.held.map (·.cmd) ++ s.pending
  let entry := s.rf 0 PWR_CTRL_BUSY = 1
  let phase := s.rf 0 PWR_STATUS_PHASE
  let quiet := (∀ c < 256, s.rd A.coreTask c = 0) ∧ (∀ o ∈ s.outst, o.dead = true) ∧
    (s.rf 0 PWR_STATUS_STATE = 1 ∨ ∀ x ∈ s.listed A.tagOut, False)
  let late := s.rd A.drainAt 0 + 1000 * s.rf 0 PWR_CTRL_DRAIN_US ≤ s.mono
  (s.Serving who →
    (s.pfRights who = false → exec (.park who val) s = .next ((s.wf 0 PWR_CTRL_RESULT 2).ans 1 0) ∧
      exec (.slumber who val) s = .next ((s.wf 0 PWR_CTRL_RESULT 2).ans 1 0) ∧ exec (.cancel who) s = .next (s.ans 1 0)) ∧
    (s.pfRights who = true →
      (busy → exec (.park who val) s = refused 1 ∧ exec (.slumber who val) s = refused 1) ∧
      (¬ busy → Completes (exec (.park who val) s) fun t => begun t 1) ∧
      (¬ busy → ∀ r, r = s.saveCheck (slice v 2 1 = 1) →
        (r ≠ 0 → exec (.slumber who val) s = refused r) ∧
        (r = 0 → Completes (exec (.slumber who val) s) fun t => begun t 2)) ∧
      exec (.cancel who) s = .next (s.ans 0 0))) ∧
  (s.clocked = true → s.entering = true → s.Awake who → s.resumed = [] → s.actAs = none →
    ∀ u : State, u = { s with held := s.held ++ [⟨who, s.stamp who, 39, .cancel who, true, 0, 0, false⟩] } →
    exec (.cancel who) s = .next (if s.rd A.pwWake 0 = 0 then u.wr A.pwWake 0 6 else u)) ∧
  (s.clocked = true →
    (¬ entry ∨ phase ≠ 1 ∨ ¬ quiet → exec .drainEnd s = .next s) ∧
    (entry → phase = 1 → quiet →
      (s.rd A.pwWake 0 ≠ 0 → Completes (exec .drainEnd s) fun t => awake t 7) ∧
      (s.rd A.pwWake 0 = 0 → s.rf 0 PWR_STATUS_STATE = 1 → Completes (exec .drainEnd s) fun t => t.rd A.pwMode 0 = 1 ∧
        t.rf 0 PWR_CTRL_BUSY = 0 ∧ t.rf 0 PWR_CTRL_RESULT = 0 ∧ (∀ b < 8, t.rf (D b) GP_BANK_HELD = 1) ∧ t.mem = s.mem) ∧
      (s.rd A.pwWake 0 = 0 → s.rf 0 PWR_STATUS_STATE = 2 → exec .drainEnd s = .next (s.wf 0 PWR_STATUS_PHASE 2))) ∧
    (entry → phase = 1 → late → Completes (exec .drainTimeout s) fun t => awake t 6) ∧
    (¬ entry ∨ phase ≠ 1 ∨ ¬ late → exec .drainTimeout s = .next s) ∧
    (¬ entry ∨ s.rf 0 PWR_STATUS_STATE ≠ 2 → exec .entryPhaseEnd s = .next s) ∧
    (entry → s.rf 0 PWR_STATUS_STATE = 2 →
      (s.rd A.pwWake 0 ≠ 0 → 2 ≤ phase → phase ≤ 4 → Completes (exec .entryPhaseEnd s) fun t => awake t 7 ∧
        t.on A.pcieDown 0 = false) ∧
      (s.rd A.pwWake 0 = 0 →
        (phase = 2 → s.rf 0 PWR_CTRL_SAVE_EN = 0 → exec .entryPhaseEnd s = .next (s.wf 0 PWR_STATUS_PHASE 3)) ∧
        (phase = 3 → Completes (exec .entryPhaseEnd s) fun t => t.rf 0 PWR_STATUS_PHASE = 4 ∧ t.mem = s.mem ∧
          t.aonSave = s.arr.filter (fun e => savedRegs (e.1 % 512) (e.1 / 512))) ∧
        (phase = 4 → Completes (exec .entryPhaseEnd s) fun t => t.rf 0 PWR_STATUS_PHASE = 5 ∧ t.on A.pcieDown 0 = true ∧
          t.mem = s.mem) ∧
        (phase = 5 → s.l2 = [] → Completes (exec .entryPhaseEnd s) fun t => t.rd A.pwMode 0 = 2 ∧ t.rf 0 PWR_CTRL_BUSY = 0 ∧
          t.rf 0 PWR_CTRL_RESULT = 0 ∧ t.rf 0 TIME_STATUS_SLEPT = 1 ∧ (∀ b < 8, t.rf (D b) GP_BANK_HELD = 1) ∧
          t.mem = s.mem))))

/-- Wakes (R431 to R434, R453): a source that is enabled ends PARK, with every unit as it was, the pads that the entry
latched released and the requests that were held performed next, or SLUMBER, unless a tamper has ended it; LAST_WAKE
shows it. In an entry it becomes pending, and in RUN it is nothing. The bits of LAST_WAKE and what a wake restores are
the model's reading (logs 128, 130, 156). -/
def Obligations.Wakes : Prop := ∀ (s : State) (pin : Fin 256) (port : Fin 16),
  let n : Nat := pin
  let cfg := s.reg (D (n / 32) + oGP_CFG + 4 * (n % 32))
  let enPin := s.rf 0 WAKE_CFG_PIN_EN = 1 ∧ slice cfg 6 1 = 1 ∧ 1 ≤ slice cfg 3 3 ∧ slice cfg 3 3 ≤ 5
  let enLink := (s.rf 0 WAKE_CFG_PORTS).testBit port = true
  let enTimer := s.rf 0 WAKE_CFG_TIMER_EN = 1 ∧ s.pair oWAKE_TIME_LO ≤ s.timeNs
  let enPcie := s.rf 0 WAKE_CFG_PCIE_EN = 1
  let wakes (c : Instr) (en : Prop) (src ix : Nat) : Prop :=
    (¬ en → exec c s = .next s) ∧
    (en → s.rd A.pwMode 0 = 1 → Completes (exec c s) fun t => t.rd A.pwMode 0 = 0 ∧ t.rd A.pwWake 0 = 0 ∧
      t.reg oLAST_WAKE = src + 2 ^ 4 + 2 ^ 9 * ix ∧ t.mem = s.mem ∧
      (∀ b < 8, t.rf (D b) GP_BANK_HELD = if s.on A.padPark b then 0 else s.rf (D b) GP_BANK_HELD) ∧
      t.held = [] ∧ (s.entering = false → t.pending = s.held.map (·.cmd) ++ s.pending) ∧
      ∀ k, t.rd A.pState k = s.rd A.pState k ∧ t.rd A.pCycle k = s.rd A.pCycle k) ∧
    (en → s.rd A.pwMode 0 = 0 → s.rf 0 PWR_CTRL_BUSY = 0 → exec c s = .next s) ∧
    (en → s.rd A.pwMode 0 = 0 → s.rf 0 PWR_CTRL_BUSY = 1 → s.rd A.pwWake 0 = 0 →
      exec c s = .next (s.wr A.pwWake 0 (src + 2 ^ 4 * ix))) ∧
    (en → s.rd A.pwMode 0 = 0 → s.rf 0 PWR_CTRL_BUSY = 1 → s.rd A.pwWake 0 ≠ 0 → exec c s = .next s)
  let slumber (c : Instr) (en : Prop) (src ix : Nat) : Prop :=
    (en → s.rd A.pwMode 0 = 2 → s.on A.pwDead 0 = true → exec c s = .next s) ∧
    (en → s.rd A.pwMode 0 = 2 → s.on A.pwDead 0 = false → s.aonSave = [] → s.saveArea = [] →
      (∀ d < 8, s.rf (D d) HBM_RETAIN_PC = 0xFFFFFFFF) → s.rf 0 PWR_CTRL_SAVE_EN = 1 → Completes (exec c s) fun t =>
        t.rd A.pwMode 0 = 0 ∧ t.rd A.pwWake 0 = 0 ∧ t.reg oLAST_WAKE = src + 2 ^ 5 + 2 ^ 9 * ix ∧
        t.rf 0 PWR_STATUS_STATE = 3 ∧ t.rf 0 PWR_STATUS_RESTORING = 1 ∧ t.mem = s.mem ∧ t.vault = s.vault)
  s.powered = true → s.Canon →
  wakes (.wakePin pin) enPin 1 pin ∧ slumber (.wakePin pin) enPin 1 pin ∧
  wakes (.wakeLink port) enLink 2 port ∧ slumber (.wakeLink port) enLink 2 port ∧
  wakes .wakeTimer enTimer 3 0 ∧ slumber .wakeTimer enTimer 3 0 ∧
  wakes .wakePcie enPcie 4 0 ∧ slumber .wakePcie enPcie 4 0 ∧
  wakes .wakeNet (s.rf 0 WAKE_CFG_NET_EN = 1 ∧ s.rd A.pwMode 0 ≠ 2) 5 0 ∧
  (s.clocked = true →
    (s.rf 0 PWR_STATUS_RESTORING = 0 → exec .designRestoreDone s = .next s) ∧
    (s.rf 0 PWR_STATUS_RESTORING = 1 → Completes (exec .designRestoreDone s) fun t =>
      t.rf 0 PWR_STATUS_RESTORING = 0 ∧ t.rf 0 PWR_STATUS_STATE = 0 ∧ t.mem = s.mem))

/-- The general pins (R440 to R443, R447 to R455, R479): writes of their registers are those of the physical function's
rights, of GP_TGT0 and GP_TGT1 the physical function's alone, with BUSY, CONFINE and RANGE in that order. A write of a
route or of PERIPH_EN notes a conflict of signals. GP_OUT_SET, CLR and TGL change the bits written as 1. A sample shows
in GP_IN, and one that meets INT_MODE sets the pin's bit and raises its event; a level that comes without clocks waits
for them; without its rail a bank's pins read low. In OFF a pad is high-impedance, with no pull. What writes of this
chapter may act, the levels of pins without clocks and the pads of peripherals are the model's reading (logs 79, 81,
82). -/
def Obligations.GeneralPins : Prop := ∀ (s : State) (who : Who) (val : Word) (pin : Fin 256) (second : Bool) (bank : Fin 8)
    (level present v33 : Bool),
  let v := val.toNat
  let p : Nat := pin
  let b := D (p / 32)
  let o := s.rf (D bank) GP_OUT_VALUE
  let out (x : Nat) : Res := .next ((s.wf (D bank) GP_OUT_VALUE x).ans 0 0)
  let e := s.rf 0 ROUTE_SEL_ENTRY
  let routed := if e < 96 then s.wr A.route e (slice v 0 16) else s
  let enabled := s.wr A.reg oPERIPH_EN (slice v 0 13)
  let claimed (c : Instr) (u : State) : Prop :=
    ((∀ x ∈ u.activeRoutes, sigConflict u.activeRoutes x.sig = false) → exec c s = .next (u.ans 0 0)) ∧
    ((∃ x ∈ u.activeRoutes, sigConflict u.activeRoutes x.sig = true) → Completes (exec c s) fun t =>
      t.rf 0 PIN_STATUS_PIN_CONFLICT = 1 ∧ t.rsp = ⟨0, 0, 0⟩ ∧ t.activeRoutes = u.activeRoutes ∧
      ∃ x ∈ u.activeRoutes, sigConflict u.activeRoutes x.sig = true ∧ t.rf 0 PIN_STATUS_CONFLICT_SIG = x.sig)
  let n := bit second
  let place (pin n : Nat) : Nat := D (pin / 32) + (if n = 0 then oGP_TGT0 else oGP_TGT1) + 4 * (pin % 32)
  let old := s.reg (place p n)
  let other := s.reg (place p (1 - n))
  let en (x : Nat) : Prop := slice x 0 1 = 1
  let dir (x : Nat) : Prop := slice x 1 1 = 1
  let wall (x : Nat) : Nat := 16 * slice x 28 3 + slice x 2 4
  let taken (x : Nat) : Prop := en x ∧ ∃ k, s.slotOfWall (wall x) = some k ∧ s.rd A.pState k ≠ 1
  let busy := taken old ∨ taken v
  let confined := en v ∧ en other ∧ s.slotOfWall (wall v) ≠ s.slotOfWall (wall other)
  let range := n = 1 ∧ dir v ∨ n = 0 ∧ dir v ∧ en other ∨ n = 1 ∧ en v ∧ dir other ∨
    dir v ∧ slice v 18 1 = 0 ∧ 255 < slice v 19 5 + 32 * slice v 24 4
  let tgt (r : Nat) : Prop := exec (.gpTgtWrite .pf pin second val) s = .next ((s.wf b GP_BANK_RESULT r).ans 0 0)
  let new : Bool := level && s.rf b GP_BANK_VDDIO_OK = 1
  let was := (s.rf b GP_IN_LEVEL).testBit (p % 32)
  let met : Bool := match slice (s.reg (b + oGP_CFG + 4 * (p % 32))) 3 3 with
    | 1 => !was && new
    | 2 => was && !new
    | 3 => was != new
    | 4 => new
    | 5 => !new
    | _ => false
  let sampled := s.wf b GP_IN_LEVEL (patch (s.rf b GP_IN_LEVEL) (p % 32) 1 (bit new))
  let pending := s.rf b GP_INT_STATUS_PENDING
  (s.Serving who →
    (s.pfRights who = false → ∀ c ∈ [Instr.routeDataWrite who val, .periphEnWrite who val, .gpOutSet who bank val,
      .gpOutClr who bank val, .gpOutTgl who bank val, .release who bank], exec c s = .next (s.ans 1 0)) ∧
    (s.pfRights who = true → claimed (.routeDataWrite who val) routed ∧ claimed (.periphEnWrite who val) enabled ∧
      exec (.gpOutSet who bank val) s = out (o ||| v) ∧
      exec (.gpOutClr who bank val) s = out (o &&& (0xFFFFFFFF ^^^ v)) ∧
      exec (.gpOutTgl who bank val) s = out (o ^^^ v) ∧
      Completes (exec (.release who bank) s) fun t => t.rf (D bank) GP_BANK_HELD = 0 ∧ t.rsp = ⟨0, 0, 0⟩ ∧ t.mem = s.mem ∧
        ∀ i, t.rd A.padLatch i = if i / 32 = bank.val then 0 else s.rd A.padLatch i) ∧
    (who ≠ .pf → exec (.gpTgtWrite who pin second val) s = .next (s.ans 1 0)) ∧
    (busy → tgt 1) ∧ (¬ busy → confined → tgt 2) ∧ (¬ busy → ¬ confined → range → tgt 3) ∧
    (¬ busy → ¬ confined → ¬ range → Completes (exec (.gpTgtWrite .pf pin second val) s) fun t =>
      t.reg (place p n) = slice v 0 31 ∧ t.rf b GP_BANK_RESULT = 0 ∧ t.reg (place p (1 - n)) = other ∧ t.rsp = ⟨0, 0, 0⟩ ∧
      t.rd A.tgtOut p = (if n = 0 then 0 else s.rd A.tgtOut p) ∧ t.mem = s.mem)) ∧
  ((s.powered = false → s.pad p = (0, s)) ∧
    (s.clocked = false → exec (.gpInterrupt pin level) s = .next (s.wr A.pinNow p (2 + bit level))) ∧
    (s.clocked = true → met = true → pending.testBit (p % 32) = false → exec (.gpInterrupt pin level) s =
      .next (((sampled.wf b GP_INT_STATUS_PENDING (pending ||| 2 ^ (p % 32))).raise p).wr A.pinNow p 0)) ∧
    (s.clocked = true → met = false ∨ pending.testBit (p % 32) = true → exec (.gpInterrupt pin level) s =
      .next (sampled.wr A.pinNow p 0)) ∧
    (present = true → exec (.vddioChange bank present v33) s =
      .next ((s.wf (D bank) GP_BANK_VDDIO_OK 1).wf (D bank) GP_BANK_VDDIO_33 (if v33 then 1 else 0))) ∧
    (present = false → Completes (exec (.vddioChange bank present v33) s) fun t => t.rf (D bank) GP_BANK_VDDIO_OK = 0 ∧
      t.rf (D bank) GP_BANK_VDDIO_33 = 0 ∧ (s.clocked = true → t.rf (D bank) GP_IN_LEVEL = 0) ∧ t.mem = s.mem))

/-- The serial peripherals (R444, R445): the queue that feeds one is empty, and the queue that it fills is full, unless
it is an enabled stream queue. A UART sends the low byte of a word while CTS allows it, and a byte without room is
dropped and counted; an I2C command and an SPI transfer take one word and give one, and begin only with room for it;
after a lost arbitration or a timeout, in whose read the byte is open (a free value, log 9), words are discarded up to
one with STOP. An input without a pin rests at its default (R442; what that gives a transfer is read from it, log 169). -/
def Obligations.SerialPeripherals : Prop := ∀ (s : State) (u : Fin 2) (k : Fin 4) (byte : Byte) (framing brk nack lost : Bool)
    (miso : Word) (w : Nat) (t : State) (x : Nat) (p : QPacket),
  let tq (x : Nat) : Nat := s.rf (4 * x) PERIPH_CFG_TXQ
  let rq (x : Nat) : Nat := s.rf (4 * x) PERIPH_CFG_RXQ
  let stream (q : Nat) : Prop := s.qEn q = true ∧ s.qClass q = 0
  let un : Nat := u
  let i : Nat := 2 + k
  let j : Nat := 6 + k
  let sends := s.periphOn un = true ∧ (s.periphMode un = false ∨ s.sigLevel (4 * un + 3) false = false)
  let got := byte.toNat + 2 ^ 8 * bit framing + 2 ^ 9 * bit brk
  let drop := if un = 0 then PERIPH_ERR_UART0_DROP else PERIPH_ERR_UART1_DROP
  let room (x : Nat) : Prop := stream (rq x) ∧ s.qFits (rq x) 1 = true
  let runs := s.periphOn i = true ∧ room i ∧ s.on A.i2cSkip k = false
  let data := if slice w 10 1 = 1 then byte.toNat else slice w 0 8
  let after (r : Nat) : State := let y := (t.rxPush i r).2; { y with out := y.out ++ [.i2c k w] }
  (¬ stream (tq x) → s.txPop x = (none, s)) ∧
  (stream (tq x) → s.on A.qPtrBad (tq x) = false → (s.packets.find? fun p => p.queue = tq x ∧ p.readable) = some p →
    p.words = [w] → w < 2 ^ 64 → s.txPop x = (some w, s.afterPop (tq x) p)) ∧
  (¬ stream (rq x) → s.rxPush x w = (false, s)) ∧
  (room x → s.on A.qPtrBad (rq x) = false → s.qOpen (rq x) (110 + x) ≠ none ∨ s.qOpens (rq x) < 8 →
    s.rxPush x w = (true, s.afterPush (rq x) (110 + x) w true)) ∧
  (s.clocked = true →
    (¬ sends → exec (.uartTransmit u) s = .next s) ∧
    (sends → s.txPop un = (none, t) → exec (.uartTransmit u) s = .next t) ∧
    (sends → s.txPop un = (some w, t) → exec (.uartTransmit u) s = .next { t with out := t.out ++ [.uart un (w % 256)] }) ∧
    (s.periphOn un = false ∨ s.sigWired (4 * un + 1) = false → exec (.uartReceive u byte framing brk) s = .next s) ∧
    (s.periphOn un = true → s.sigWired (4 * un + 1) = true →
      (s.rxPush un got = (true, t) → exec (.uartReceive u byte framing brk) s = .next t) ∧
      (s.rxPush un got = (false, t) → exec (.uartReceive u byte framing brk) s = .next (t.cnt 0 drop 1))) ∧
    (s.on A.i2cSkip k = false → s.periphOn i = false ∨ ¬ room i → exec (.i2cCommand k byte nack lost) s = .next s) ∧
    (runs →
      (s.txPop i = (none, t) → exec (.i2cCommand k byte nack lost) s = .next t) ∧
      (s.txPop i = (some w, t) →
        (s.sigWired (9 + 2 * k) = false → exec (.i2cCommand k byte nack lost) s =
          .next (after ((if slice w 10 1 = 1 then 0xFF else slice w 0 8) + 2 ^ 8))) ∧
        (s.sigWired (9 + 2 * k) = true → exec (.i2cCommand k byte nack false) s = .next (after (data + 2 ^ 8 * bit nack))) ∧
        (s.sigWired (9 + 2 * k) = true → exec (.i2cCommand k byte nack true) s =
          .next (((after (data + 2 ^ 8 * bit nack + 2 ^ 9)).wr A.i2cSkip k 1).i2cDiscard k
            ((after (data + 2 ^ 8 * bit nack + 2 ^ 9)).packets.length + 1))) ∧
        (s.periphMode i = true → s.sigWired (8 + 2 * k) = true → slice w 10 1 = 0 → exec (.smbusTimeout k) s =
          .next (((after (slice w 0 8 + 2 ^ 10)).wr A.i2cSkip k 1).i2cDiscard k
            ((after (slice w 0 8 + 2 ^ 10)).packets.length + 1))))) ∧
    (s.periphMode i = false ∨ s.sigWired (8 + 2 * k) = false → exec (.smbusTimeout k) s = .next s) ∧
    (s.periphOn j = false ∨ ¬ room j → exec (.spiTransfer k miso) s = .next s) ∧
    (s.periphOn j = true → room j →
      (s.txPop j = (none, t) → exec (.spiTransfer k miso) s = .next t) ∧
      (s.txPop j = (some w, t) → exec (.spiTransfer k miso) s =
        (let y := (t.rxPush j (if t.sigWired (0x12 + 7 * k) then miso.toNat % 2 ^ (slice w 32 5 + 1) else 0)).2
         .next { y with out := y.out ++ [.spi k w] }))))

/-- Accesses of the PCIe functions (R352, R458 to R463): one that is not of whole 4-byte words completes as an
Unsupported Request and is counted (log 118). A word of BAR0 is the register's, or the function's MSI-X table's; BAR2
reaches HBM in MODE 0, and in RECOVERY, for the physical function alone (log 123), the staging area. A read completes
with status and data; a status that is not OK is counted in HOST_ERR and its address kept. With the link gone down for
SLUMBER nothing arrives (log 122). PERST# and a function-level reset clear the host state of every function, or of one. -/
def Obligations.HostAccesses : Prop := ∀ (s : State) (func : Fin 33) (write part : Bool) (off : BitVec 27) (off2 : BitVec 39)
    (dwords : Nat) (data : BitVec 512),
  let f : Nat := func
  let who := whoOf func
  let o := off.toNat
  let o2 := off2.toNat
  let w := data.toNat % 2 ^ 32
  let noted (u : State) (bar2 o st : Nat) : State :=
    let fld := if st = 1 then HOST_ERR_DENIED else if st = 3 then HOST_ERR_UE else if 4 ≤ st ∧ st ≤ 6 then HOST_ERR_ABORT
      else HOST_ERR_OTHER
    let e := u.rd A.hostErr f
    (u.wr A.hostErr f (patch e fld.lo fld.w (min (2 ^ fld.w - 1) (slice e fld.lo fld.w + 1)))).wr A.hostErrAddr f
      (slice o 0 32 + 2 ^ 32 * (slice o 32 7 + 2 ^ 7 * bar2 + 2 ^ 8 * (if st = 16 then 0 else st) + 2 ^ 12 * bit write))
  let shown (u : State) : Nat := if u.rsp.status = 0 ∨ u.rsp.status = 3 then u.rsp.data % 2 ^ 32 else 0
  let replied (u : State) (bar2 o : Nat) : State :=
    let n := if u.rsp.status = 0 then u else noted u bar2 o u.rsp.status
    if write then n.ans u.rsp.status 0 else
      { n.ans u.rsp.status (shown u) with out := u.out ++ [.completion f u.rsp.status (shown u)] }
  let clear (t : State) (f : Nat) : Prop := t.rd A.hostBar2 f = 0 ∧ t.rd A.hostDm f = 0 ∧ t.rd A.hostErr f = 0 ∧
    t.rd A.hostErrAddr f = 0 ∧ t.rd A.funcMask f = 0 ∧ ∀ v < 1024, t.rd A.vecOpen (1024 * f + v) = 0 ∧
      t.rd A.vecPend (1024 * f + v) = 0 ∧ t.rd A.vecMsg (1024 * f + v) = 0
  (s.on A.pcieDown 0 = true ∨ (s.rf 0 BOOT_STATUS_STAGE = 8 ∧ f ≠ 0) →
    exec (.bar0Access func write off dwords data part) s = .next s ∧
    exec (.bar2Access func write off2 dwords data) s = .next s) ∧
  (s.on A.pcieDown 0 = false → (s.rf 0 BOOT_STATUS_STAGE = 8 → f = 0) → s.Serving who →
    (part = true ∨ o % 4 ≠ 0 → exec (.bar0Access func write off dwords data part) s = .next
      (if write then noted s 0 o 16 else { (noted s 0 o 16).ans 16 0 with out := s.out ++ [.completion f 16 0] })) ∧
    (o % 4 = 0 → o < 0x4800000 → s.domOf o (if write then some (slice data.toNat 0 32) else none) = none →
      ∀ u, u = (if write then s.writeReg who o w else s.readReg who o) →
      exec (.bar0Access func write off 1 data false) s = .next (replied u 0 o)) ∧
    (∀ v, v < (if f = 0 then 1024 else 32) → o = 0x4800000 + 16 * v + 12 →
      (write = false → exec (.bar0Access func write off 1 data false) s = .next
        { s.ans 0 (1 - s.rd A.vecOpen (1024 * f + v)) with
          out := s.out ++ [.completion f 0 (1 - s.rd A.vecOpen (1024 * f + v))] }) ∧
      (write = true → data.getLsbD 0 = true → exec (.bar0Access func write off 1 data false) s =
        .next ((s.wr A.vecOpen (1024 * f + v) 0).ans 0 0))) ∧
    (s.rf 0 BOOT_STATUS_STAGE ≠ 8 → slice (s.rd A.hostBar2 f) 0 2 = 0 → slice (s.rd A.hostBar2 f) 2 12 = s.chainAddr →
      o2 % 4 = 0 → o2 < hbmBytes → s.domOn (hbmDie o2) domMem = true →
      ∀ u, u = s.request who write true o2 .b4 w →
      exec (.bar2Access func write off2 4 data) s = .next (replied u 1 o2)) ∧
    (s.rf 0 BOOT_STATUS_STAGE = 8 →
      (write = true → Completes (exec (.bar2Access func write off2 dwords data) s) fun t => t.rsp = ⟨0, 0, 0⟩ ∧
        (∀ i, t.rd A.stageByte i = if o2 ≤ i ∧ i < o2 + min dwords 64 ∧ i < 0x400000 then slice data.toNat (8 * (i - o2)) 8
          else s.rd A.stageByte i) ∧ t.mem = s.mem))) ∧
  (s.powered = true →
    ((∀ q, s.on A.qPtrBad q = false) → s.rd A.pwMode 0 ≠ 2 → Completes (exec .perst s) fun t => (∀ f < 33, clear t f) ∧
      t.packets = s.packets.filter (fun p => ¬ (p.producer < 33 ∧ ¬ p.closed)) ∧ t.mem = s.mem ∧
      ∀ k, t.rd A.pState k = s.rd A.pState k) ∧
    (s.on A.pcieDown 0 = true → exec (.functionLevelReset func) s = .next s) ∧
    ((∀ q, s.on A.qPtrBad q = false) → s.on A.pcieDown 0 = false → Completes (exec (.functionLevelReset func) s) fun t => clear t f ∧
      (∀ g, g ≠ f → t.rd A.hostBar2 g = s.rd A.hostBar2 g ∧ t.rd A.hostErr g = s.rd A.hostErr g) ∧
      t.packets = s.packets.filter (fun p => ¬ (p.producer = f ∧ ¬ p.closed)) ∧ t.mem = s.mem))

/-- Configuration transactions (R166, R181, R466 to R470): BEGIN opens a shadow that is NONE; an RWT write goes to an
open shadow, is applied at once without one and refused with 2 while it is pending; a reload outside a transaction with
6; COMMIT applies the device's shadow and that of an idle partition at once, makes another PENDING, and with overflow
applies nothing; ABORT discards it. A staging write takes effect with its HI half. DEBUG changes only while every
partition is IDLE or STOPPED, and for the physical function alone; the answer to others (log 27) and a COMMIT of an
empty slot (log 55) are the model's reading. -/
def Obligations.ConfigurationTransactions : Prop := ∀ (s : State) (who : Who) (device : Bool) (slot : Fin 32) (val : Word),
  let k : Nat := slot
  let x := if device then 32 else k
  let may := if device then s.pfRights who else s.maySlot who k
  let st := s.rd A.shState x
  let mine := s.shadow.filter fun w => w.slot = x
  let dropped : State := (State.wr { s with shadow := s.shadow.filter fun w => w.slot ≠ x } A.shState x 0).wr A.shOver x 0
  let denied : Res := .next (if device then (s.wr A.shResult x 8).ans 0 0 else (s.wr A.shResult x 8).ans 1 0)
  let res (u : State) (r : Nat) : Res := .next ((u.wr A.shResult x r).ans 0 0)
  let begin_ := exec (.cfgtxBegin who device slot) s
  let commit := exec (.cfgtxCommit who device slot) s
  let v := val.toNat
  let put (off v : Nat) : Res := exec (.rwtWrite who (P k + off) (BitVec.ofNat 32 v)) s
  let fault := P k + oFAULT_CFG
  let rest := s.shadow.filter fun w => ¬ (w.slot = k ∧ w.off = fault ∧ w.sel = 0)
  let e := s.rf (P k) ESEQ_SEL_ENTRY
  let lo := P k + oESEQ_DATA_LO
  let given := if (s.rd A.heldLo lo).testBit 32 then s.rd A.heldLo lo % 2 ^ 32 else s.rd A.esStage (4096 * k + e) % 2 ^ 32
  s.Serving who →
  (may = false → begin_ = denied ∧ commit = denied ∧ exec (.cfgtxAbort who device slot) s = denied) ∧
  (may = true →
    (st = 0 → begin_ = res (dropped.wr A.shState x 1) 0 ∧ commit = res s 3) ∧
    (st = 1 → begin_ = res s 1 ∧
      (s.on A.shOver x = true → commit = res dropped 4) ∧
      (s.on A.shOver x = false →
        (device = false → s.rd A.pState k ≠ 1 → s.rd A.pState k ≠ 4 → commit = res (s.wr A.shState x 2) 0) ∧
        (device = true ∨ s.rd A.pState k = 1 ∨ s.rd A.pState k = 4 → Completes commit fun t => t.rd A.shState x = 0 ∧
          t.shadow = s.shadow.filter (fun w => w.slot ≠ x) ∧ t.rsp = ⟨0, 0, 0⟩ ∧
          (mine = [] → t.rd A.shResult x = 0) ∧
          (∀ w, device = true → mine = [w] → w.off = oEVT_ROUTE_FLAG → t.rd A.evtFlag w.sel = w.val % 2 ^ A.evtFlag.width ∧
            t.rd A.shResult x = 0)))) ∧
    (2 ≤ st → begin_ = res s st ∧ commit = res s 2) ∧
    exec (.cfgtxAbort who device slot) s = res dropped 0) ∧
  (s.maySlot who k = false → put oFAULT_CFG v = .next (s.ans 1 0) ∧ exec (.eseqStagingWrite who slot val) s = .next (s.ans 1 0)) ∧
  (s.maySlot who k = true →
    (s.rd A.shState k = 0 → put oFAULT_CFG v =
      .next ((s.wr A.reg fault (slice v 0 3 + 2 ^ 4 * slice v 4 3 + 2 ^ 8 * slice v 8 7)).ans 0 0)) ∧
    (s.rd A.shState k = 1 →
      (rest.length ≠ s.shadow.length ∨ (s.shadow.filter fun w => w.slot = k).length < 256 → put oFAULT_CFG v =
        .next (State.ans { s with shadow := rest ++ [⟨k, fault, 0, v⟩] } 0 0)) ∧
      (rest.length = s.shadow.length → 256 ≤ (s.shadow.filter fun w => w.slot = k).length → put oFAULT_CFG v =
        .next ((s.wr A.shOver k 1).ans 0 0))) ∧
    (s.rd A.shState k = 2 → put oFAULT_CFG v = .next ((s.wr A.shResult k 2).ans 0 0) ∧
      exec (.eseqStagingWrite who slot val) s = .next ((s.wr A.shResult k 2).ans 0 0)) ∧
    (s.rd A.shState k = 0 → val.getLsbD 31 = true → put oESEQ_RELOAD v = .next ((s.wr A.shResult k 6).ans 0 0)) ∧
    (s.rd A.shState k ≠ 2 → ∀ u : State, u = (s.wr A.heldLo lo 0).wr A.esStage (4096 * k + e) (given + 2 ^ 32 * v) →
      exec (.eseqStagingWrite who slot val) s = .next (State.ans
        (if s.rf (P k) ESEQ_SEL_AUTOINC = 1 then u.wf (P k) ESEQ_SEL_ENTRY (e + 1) else u) 0 0))) ∧
  (s.pfRights who = false → exec (.debugCtrlWrite who val) s = .next (s.ans 0 0)) ∧
  (s.pfRights who = true →
    (v % 2 = s.rf 0 DEBUG_CTRL_DEBUG → exec (.debugCtrlWrite who val) s = .next (s.ans 0 0)) ∧
    (v % 2 ≠ s.rf 0 DEBUG_CTRL_DEBUG → s.allIdle = false → exec (.debugCtrlWrite who val) s =
      .next ((s.wf 0 DEBUG_CTRL_REFUSED 1).ans 0 0)) ∧
    (v % 2 ≠ s.rf 0 DEBUG_CTRL_DEBUG → s.allIdle = true → exec (.debugCtrlWrite who val) s =
      .next ((((s.wf 0 DEBUG_CTRL_DEBUG (v % 2)).wf 0 DEBUG_CTRL_ACTIVE (v % 2)).wf 0 DEBUG_CTRL_REFUSED 0).ans 0 0)))

/-- Events (R226, R227, R471 to R474): raising a source sets its EVT_STATUS bit, and the flag and vector that it is
routed to; EVT_SW raises a software source for its owner or the physical function; a route is written only with its
rights, for a source and vector that exist and a virtual function whose partition owns the source, checked in that
order, which is the model's reading (log 54). The raises of one tick send one message, unless the vector is masked,
which then waits until it is unmasked. -/
def Obligations.EventsAndVectors : Prop := ∀ (s : State) (who : Who) (val : Word) (func : Fin 34) (vector : Fin 1024)
    (src : Nat),
  let v := val.toNat
  let o := oEVT_STATUS + 4 * (src / 32)
  let seen := s.wr A.reg o (s.reg o ||| 2 ^ (src % 32))
  let i := 1024 * func.val + vector
  let masked (u : State) : Prop := func.val ≠ 33 ∧ (u.rd A.vecOpen i = 0 ∨ u.on A.funcMask func = true)
  let sent (u : State) : State := { u with out := u.out ++ [.msix func vector] }
  let opened := s.wr A.vecOpen i 1
  let task := 512 * slice (s.rd A.evtFlag src) 1 3 + slice (s.rd A.evtFlag src) 4 9
  let flags := s.rd A.tFlags task ||| 2 ^ slice (s.rd A.evtFlag src) 13 5
  let mine := s.evtOwner src = none ∨ slice (s.rd A.tCfgNow task) 16 1 = 1 ∨
    s.evtOwner src = some (slice (s.rd A.tCfgNow task) 8 8)
  let vf := slice (s.rd A.evtVec src) 1 6
  let sw := 0x5C0 + v % 64
  let src0 := s.rf 0 EVT_SEL_SOURCE
  let f := slice v 1 6
  let res (r : Nat) : Res := .next ((s.wf 0 EVT_SEL_RESULT r).ans 0 0)
  let route (off : Nat) : Res := exec (.evtRouteWrite who off val) s
  let illegal := 34 ≤ f ∨ 1 ≤ f ∧ f ≤ 32 ∧ 32 ≤ slice v 7 10
  let foreign := v % 2 = 1 ∧ 1 ≤ f ∧ f ≤ 32 ∧ (s.evtOwner src0 = none ∨ s.loaded (f - 1) = false ∨
    s.evtOwner src0 ≠ some (s.rd A.pPid (f - 1)))
  (slice (s.rd A.evtFlag src) 0 1 = 0 → slice (s.rd A.evtVec src) 0 1 = 0 → s.raise src = seen) ∧
  (slice (s.rd A.evtFlag src) 0 1 = 0 → slice (s.rd A.evtVec src) 0 1 = 1 → slice (s.rd A.evtVec src) 1 6 = 0 →
    s.rd A.funcOff 0 = 0 → s.raise src = seen.wr A.vecRaised (slice (s.rd A.evtVec src) 7 10) 1) ∧
  (src < 1536 → slice (s.rd A.evtFlag src) 0 1 = 0 → slice (s.rd A.evtVec src) 0 1 = 1 → 1 ≤ vf → vf ≤ 32 → s.raise src =
    if s.rd A.funcOff vf = 0 ∧ s.loaded (vf - 1) = true ∧ s.evtOwner src = some (s.rd A.pPid (vf - 1)) then
      seen.wr A.vecRaised (1024 * vf + slice (s.rd A.evtVec src) 7 10) 1
    else seen.cnt 0 EVT_DROP_DROPS 1) ∧
  (src < 1536 → slice (s.rd A.evtFlag src) 0 1 = 1 → slice (s.rd A.evtVec src) 0 1 = 0 →
    (mine → s.rd A.tState task = 1 → taskMet (s.rd A.tMaskNow task) (slice (s.rd A.tTimeoutNow task) 24 1) flags = true →
      (s.raise src).rd A.tFlags task = flags ∧ (s.raise src).rd A.tState task = 2) ∧
    (mine → s.rd A.tState task ≠ 1 ∨ taskMet (s.rd A.tMaskNow task) (slice (s.rd A.tTimeoutNow task) 24 1) flags = false →
      s.raise src = seen.wr A.tFlags task flags) ∧
    (¬ mine → s.raise src = seen.cnt (D (slice (s.rd A.evtFlag src) 1 3)) DISP_XPART_DROP_DROPS 1)) ∧
  (s.Serving who →
    (s.pfRights who = true ∨ (∃ pid, s.evtOwner sw = some pid ∧ s.stamp who = .part pid) →
      exec (.evtSw who val) s = .next ((s.raise sw).ans 0 0)) ∧
    (s.pfRights who = false → (∀ pid, s.evtOwner sw = some pid → s.stamp who ≠ .part pid) →
      exec (.evtSw who val) s = .next (s.ans 1 0)) ∧
    (s.pfRights who = false → ∀ off ∈ [oEVT_ROUTE_FLAG, oEVT_ROUTE_VEC, oEVT_INFO], route off = res 1) ∧
    (s.pfRights who = true →
      (1536 ≤ src0 → ∀ off ∈ [oEVT_ROUTE_FLAG, oEVT_ROUTE_VEC, oEVT_INFO], route off = res 2) ∧
      (src0 < 1536 →
        (illegal → route oEVT_ROUTE_VEC = res 2) ∧
        (¬ illegal → foreign → route oEVT_ROUTE_VEC = res 3) ∧
        (s.rd A.shState 32 = 0 →
          route oEVT_ROUTE_FLAG = .next (((s.wf 0 EVT_SEL_RESULT 0).wr A.evtFlag src0 v).ans 0 0) ∧
          (¬ illegal → ¬ foreign →
            route oEVT_ROUTE_VEC = .next (((s.wf 0 EVT_SEL_RESULT 0).wr A.evtVec src0 v).ans 0 0))) ∧
        (src0 < 0x5C0 → route oEVT_INFO = res 0) ∧
        (0x5C0 ≤ src0 → route oEVT_INFO =
          .next (((s.wf 0 EVT_SEL_RESULT 0).wr A.evtSwOwn (src0 - 0x5C0) (slice v 0 9)).ans 0 0))))) ∧
  (s.clocked = true →
    (s.on A.vecRaised i = false → exec (.vectorMessage func vector) s = .next s) ∧
    (s.on A.vecRaised i = true →
      (masked s → exec (.vectorMessage func vector) s = .next ((s.wr A.vecRaised i 0).wr A.vecPend i 1)) ∧
      (¬ masked s → exec (.vectorMessage func vector) s = .next (sent (s.wr A.vecRaised i 0)))) ∧
    (s.on A.vecPend i = true → ¬ masked opened → exec (.vectorUnmask func vector) s =
      .next (sent (opened.wr A.vecPend i 0))) ∧
    (s.on A.vecPend i = false ∨ masked opened → exec (.vectorUnmask func vector) s = .next opened))

/-- Fault records (R172, R174, R177, R239): the first 64 of a die and partition in an emulated cycle go to the
partition's log queue as four words, counted and numbered; later ones are only counted as suppressed; one that no log
queue takes is counted as dropped. Those of an evaluation step in progress wait for its end (R178, log 137).
FAULT_STATUS keeps the first fault. -/
def Obligations.FaultRecords : Prop := ∀ (s : State) (k code cyc step act detail origin : Nat) (l : Loc),
  let t := s.recordNow k code l cyc step act detail
  let c := 32 * l.die + k
  let pid := s.rd A.pPid k
  let q := 128 * s.rf (P k) FAULT_CFG_LOG_DIE + s.rf (P k) FAULT_CFG_LOG_QUEUE
  let word0 := code + 2 ^ 8 * pid + 2 ^ 16 * s.chainAddr + 2 ^ 28 * l.die + 2 ^ 32 * l.wall + 2 ^ 36 * l.course +
    2 ^ 40 * l.bed + 2 ^ 44 * l.cell + 2 ^ 48 * l.level + 2 ^ 51 + 2 ^ 52 * act + 2 ^ 56 * s.rd A.recSeq k
  let takes := s.qEn q = true ∧ s.qClass q = 2 ∧ (s.qOwner q = none ∨ s.qOwner q = some pid)
  let first := s.firstFault k code origin
  k < 32 → l.die < 8 →
  (s.evaluating k = true → cyc = s.posCycle k → step = s.posStep k → s.record k code l cyc step act detail =
    { s with stepRecs := s.stepRecs ++ [⟨k, code, l, cyc, step, act, detail⟩] }) ∧
  (s.evaluating k = false → s.record k code l cyc step act detail = t) ∧
  (s.rd A.recCnt c < 64 → s.on A.qPtrBad q = false →
    t.rd A.recCnt c = s.rd A.recCnt c + 1 ∧ t.rd A.recSeq k = (s.rd A.recSeq k + 1) % 2 ^ A.recSeq.width ∧
    t.rf (P k) FAULT_COUNT_RECORDS = min (2 ^ FAULT_COUNT_RECORDS.w - 1) (s.rf (P k) FAULT_COUNT_RECORDS + 1) ∧
    (takes → s.qFits q 4 = true → t.packets = s.packets ++ [⟨q, deviceProducer, [word0 % 2 ^ 64, (cyc + 2 ^ 48 * step) % 2 ^ 64,
      s.timeNs % 2 ^ 64, detail % 2 ^ 64], true, false, false⟩]) ∧
    (¬ takes → t.packets = s.packets ∧ t.rf (D (q / 128)) QUEUE_DIE_STATUS_REC_DROP =
      min (2 ^ QUEUE_DIE_STATUS_REC_DROP.w - 1) (s.rf (D (q / 128)) QUEUE_DIE_STATUS_REC_DROP + 1))) ∧
  (64 ≤ s.rd A.recCnt c → t = s.cnt (P k) FAULT_COUNT_SUPPRESSED 1) ∧
  (s.rf (P k) FAULT_STATUS_VALID = 1 → first = s) ∧
  (s.rf (P k) FAULT_STATUS_VALID = 0 → first.rf (P k) FAULT_STATUS_FIRST_CODE = code % 2 ^ FAULT_STATUS_FIRST_CODE.w ∧
    first.rf (P k) FAULT_STATUS_VALID = 1 ∧ first.rf (P k) FAULT_STATUS_FIRST_FROM = origin % 2 ^ FAULT_STATUS_FIRST_FROM.w)
end

