-- ==== Sys2Proof/Laws/Sparse.lean ====
section
/-! SUPPORT. The laws of sparse stores: a read after a write, and the canonical form. -/

namespace Sys2Proof.Machine

variable {α : Type}

/-! ### Reads after writes -/

theorem Sparse.get_put (d : α) (m : List (Nat × α)) (k j : Nat) (v : α) :
    Sparse.get d (Sparse.put m k v) j = if k = j then v else Sparse.get d m j := by
  induction m with
  | nil => simp [Sparse.put, Sparse.get]
  | cons p r ih =>
    obtain ⟨i, w⟩ := p
    simp only [Sparse.put]
    split
    · simp only [Sparse.get]
    · split
      · rename_i h
        subst h
        simp only [Sparse.get]
        split <;> rfl
      · rename_i h
        simp only [Sparse.get, ih]
        by_cases hij : i = j
        · subst hij; simp [h]
        · simp [hij]

theorem Sparse.get_del (d : α) (m : List (Nat × α)) (k j : Nat) :
    Sparse.get d (Sparse.del m k) j = if k = j then d else Sparse.get d m j := by
  induction m with
  | nil => simp [Sparse.del, Sparse.get]
  | cons p r ih =>
    obtain ⟨i, w⟩ := p
    simp only [Sparse.del]
    split
    · rename_i h
      subst h
      simp only [ih, Sparse.get]
      split <;> rfl
    · rename_i h
      simp only [Sparse.get, ih]
      by_cases hij : i = j
      · subst hij; simp [Ne.symm h]
      · simp [hij]

/-- A read after a write: of the key written, the value; of another, as before. -/
theorem Sparse.get_set [DecidableEq α] (d : α) (m : List (Nat × α)) (k j : Nat) (v e : α) (he : k = j → e = d) :
    Sparse.get e (Sparse.set d m k v) j = if k = j then v else Sparse.get e m j := by
  unfold Sparse.set
  split
  · rename_i h
    rw [Sparse.get_del]
    split
    · rename_i hk; rw [h, he hk]
    · rfl
  · exact Sparse.get_put e m k j v

theorem Sparse.get_filter (d : α) (m : List (Nat × α)) (p : Nat → Bool) (j : Nat) :
    Sparse.get d (m.filter fun e => p e.1) j = if p j then Sparse.get d m j else d := by
  induction m with
  | nil => simp [Sparse.get]
  | cons e r ih =>
    obtain ⟨i, w⟩ := e
    by_cases hi : p i
    · simp only [List.filter, hi, Sparse.get, ih]
      by_cases hij : i = j
      · subst hij; simp [hi]
      · simp [hij]
    · simp only [List.filter, hi, ih, Sparse.get]
      by_cases hij : i = j
      · subst hij; simp [hi]
      · simp [hij]

/-! ### The canonical form -/

/-- Keys rise strictly and all lie above `lo`. -/
theorem Sparse.rising_cons (j : Nat) (v : α) (r : List (Nat × α)) :
    Sparse.rising ((j, v) :: r) = true ↔ (∀ p ∈ r, j < p.1) ∧ Sparse.rising r = true := by
  induction r generalizing j v with
  | nil => simp [Sparse.rising]
  | cons p r ih =>
    obtain ⟨k, w⟩ := p
    simp only [Sparse.rising, Bool.and_eq_true, decide_eq_true_eq, ih k w, List.mem_cons, forall_eq_or_imp]
    constructor
    · rintro ⟨h, h1, h2⟩
      exact ⟨⟨h, fun p hp => Nat.lt_trans h (h1 p hp)⟩, h1, h2⟩
    · rintro ⟨⟨h, _⟩, h1, h2⟩
      exact ⟨h, h1, h2⟩

theorem Sparse.put_mem (m : List (Nat × α)) (k : Nat) (v : α) (p : Nat × α) (h : p ∈ Sparse.put m k v) :
    p = (k, v) ∨ p ∈ m := by
  induction m with
  | nil => simp [Sparse.put] at h; exact .inl h
  | cons q r ih =>
    obtain ⟨i, w⟩ := q
    simp only [Sparse.put] at h
    split at h
    · rcases List.mem_cons.1 h with h | h
      · exact .inl h
      · exact .inr h
    · split at h
      · rcases List.mem_cons.1 h with h | h
        · exact .inl h
        · exact .inr (List.mem_cons_of_mem _ h)
      · simp only [List.mem_cons] at h ⊢
        rcases h with h | h
        · exact .inr (.inl h)
        · rcases ih h with h | h
          · exact .inl h
          · exact .inr (.inr h)

theorem Sparse.rising_put (m : List (Nat × α)) (k : Nat) (v : α) (h : Sparse.rising m = true) :
    Sparse.rising (Sparse.put m k v) = true := by
  induction m with
  | nil => rfl
  | cons q r ih =>
    obtain ⟨i, w⟩ := q
    obtain ⟨h1, h2⟩ := (Sparse.rising_cons i w r).1 h
    simp only [Sparse.put]
    split
    · rename_i hk
      refine (Sparse.rising_cons _ _ _).2 ⟨fun p hp => ?_, h⟩
      rcases List.mem_cons.1 hp with rfl | hp
      · exact hk
      · exact Nat.lt_trans hk (h1 p hp)
    · split
      · rename_i hk
        subst hk
        exact (Sparse.rising_cons _ _ _).2 ⟨h1, h2⟩
      · rename_i hk hk'
        refine (Sparse.rising_cons _ _ _).2 ⟨fun p hp => ?_, ih h2⟩
        rcases Sparse.put_mem r k v p hp with rfl | hp
        · simp only; omega
        · exact h1 p hp

theorem Sparse.del_eq_filter (m : List (Nat × α)) (k : Nat) : Sparse.del m k = m.filter fun p => p.1 ≠ k := by
  induction m with
  | nil => rfl
  | cons q r ih =>
    obtain ⟨i, w⟩ := q
    simp only [Sparse.del, ih]
    by_cases h : i = k <;> simp [h]

theorem Sparse.rising_filter (m : List (Nat × α)) (p : Nat × α → Bool) (h : Sparse.rising m = true) :
    Sparse.rising (m.filter p) = true := by
  induction m with
  | nil => rfl
  | cons q r ih =>
    obtain ⟨i, w⟩ := q
    obtain ⟨h1, h2⟩ := (Sparse.rising_cons i w r).1 h
    by_cases hp : p (i, w)
    · simp only [List.filter, hp]
      exact (Sparse.rising_cons _ _ _).2 ⟨fun x hx => h1 x (List.mem_filter.1 hx).1, ih h2⟩
    · simp only [List.filter, hp]
      exact ih h2

/-- Dropping entries keeps the canonical form. -/
theorem Sparse.wf_filter [DecidableEq α] (d : Nat → α) (m : List (Nat × α)) (p : Nat × α → Bool) (h : Sparse.wf d m = true) :
    Sparse.wf d (m.filter p) = true := by
  simp only [Sparse.wf, Bool.and_eq_true, List.all_eq_true, decide_eq_true_eq] at h ⊢
  exact ⟨Sparse.rising_filter m p h.1, fun x hx => h.2 x (List.mem_filter.1 hx).1⟩

/-- A write keeps the canonical form. -/
theorem Sparse.wf_set [DecidableEq α] (d : Nat → α) (m : List (Nat × α)) (k : Nat) (v : α) (h : Sparse.wf d m = true) :
    Sparse.wf d (Sparse.set (d k) m k v) = true := by
  unfold Sparse.set
  split
  · rw [Sparse.del_eq_filter]
    exact Sparse.wf_filter d m _ h
  · rename_i hv
    simp only [Sparse.wf, Bool.and_eq_true, List.all_eq_true, decide_eq_true_eq] at h ⊢
    refine ⟨Sparse.rising_put m k v h.1, fun x hx => ?_⟩
    rcases Sparse.put_mem m k v x hx with rfl | hx
    · exact hv
    · exact h.2 x hx

/-- Stores in canonical form that read alike are equal data. -/
theorem Sparse.ext [DecidableEq α] (d : Nat → α) (m n : List (Nat × α)) (hm : Sparse.wf d m = true) (hn : Sparse.wf d n = true)
    (h : ∀ k, Sparse.get (d k) m k = Sparse.get (d k) n k) : m = n := by
  have none_above : ∀ (l : List (Nat × α)) (k : Nat), (∀ p ∈ l, k < p.1) → Sparse.get (d k) l k = d k := by
    intro l k hl
    induction l with
    | nil => rfl
    | cons q r ih =>
      obtain ⟨i, w⟩ := q
      have hi : k < i := hl (i, w) (List.mem_cons_self ..)
      simp only [Sparse.get, if_neg (Nat.ne_of_gt hi)]
      exact ih fun p hp => hl p (List.mem_cons_of_mem _ hp)
  have parts : ∀ (i : Nat) (w : α) (r : List (Nat × α)), Sparse.wf d ((i, w) :: r) = true →
      (∀ p ∈ r, i < p.1) ∧ w ≠ d i ∧ Sparse.wf d r = true := by
    intro i w r hw
    simp only [Sparse.wf, Bool.and_eq_true, List.all_cons, decide_eq_true_eq] at hw
    obtain ⟨h1, h2⟩ := (Sparse.rising_cons i w r).1 hw.1
    exact ⟨h1, hw.2.1, by simp only [Sparse.wf, Bool.and_eq_true]; exact ⟨h2, hw.2.2⟩⟩
  induction m generalizing n with
  | nil =>
    cases n with
    | nil => rfl
    | cons q r =>
      obtain ⟨i, w⟩ := q
      have := h i
      simp only [Sparse.get, if_true] at this
      exact absurd this.symm (parts i w r hn).2.1
  | cons q r ih =>
    obtain ⟨i, w⟩ := q
    obtain ⟨a1, a2, a3⟩ := parts i w r hm
    cases n with
    | nil =>
      have := h i
      simp only [Sparse.get, if_true] at this
      exact absurd this a2
    | cons q' r' =>
      obtain ⟨j, x⟩ := q'
      obtain ⟨b1, b2, b3⟩ := parts j x r' hn
      have hij : i = j := by
        rcases Nat.lt_trichotomy i j with hl | hl | hl
        · have := h i
          rw [none_above ((j, x) :: r') i (by
            intro p hp
            rcases List.mem_cons.1 hp with rfl | hp
            · exact hl
            · exact Nat.lt_trans hl (b1 p hp))] at this
          simp only [Sparse.get, if_true] at this
          exact absurd this a2
        · exact hl
        · have := h j
          rw [none_above ((i, w) :: r) j (by
            intro p hp
            rcases List.mem_cons.1 hp with rfl | hp
            · exact hl
            · exact Nat.lt_trans hl (a1 p hp))] at this
          simp only [Sparse.get, if_true] at this
          exact absurd this.symm b2
      subst hij
      have hw := h i
      simp only [Sparse.get, if_true] at hw
      subst hw
      have hr : r = r' := by
        refine ih r' a3 b3 fun k => ?_
        by_cases hk : i = k
        · subst hk
          rw [none_above r i a1, none_above r' i b1]
        · have := h k
          simp only [Sparse.get, if_neg hk] at this
          exact this
      rw [hr]

end Sys2Proof.Machine
end

