-- ==== Sys2Proof/Laws/State.lean ====
section
/-! SUPPORT. The laws of the state: one lemma a field for every update, reads of the sparse store after a write, and the
arithmetic of register fields. -/

namespace Sys2Proof.Machine

/-! ### Bit fields -/

theorem slice_lt (v lo w : Nat) : slice v lo w < 2 ^ w := Nat.mod_lt _ (Nat.two_pow_pos w)

theorem slice_zero (lo w : Nat) : slice 0 lo w = 0 := by simp [slice]

theorem slice_mod (v n lo w : Nat) (h : lo + w ≤ n) : slice (v % 2 ^ n) lo w = slice v lo w := by
  obtain ⟨k, rfl⟩ := Nat.exists_eq_add_of_le h
  have e : v % 2 ^ (lo + w + k) / 2 ^ lo = (v / 2 ^ lo) % 2 ^ (w + k) := by
    rw [Nat.add_assoc, Nat.pow_add, Nat.mod_mul_right_div_self]
  show v % 2 ^ (lo + w + k) / 2 ^ lo % 2 ^ w = _
  rw [e, Nat.pow_add, Nat.mod_mul_right_mod]

theorem patch_low (v lo w x : Nat) : patch v lo w x % 2 ^ lo = v % 2 ^ lo := by
  simp only [patch, Nat.pow_add, Nat.mul_assoc, Nat.add_mul_mod_self_left, Nat.mod_mod]

theorem patch_div (v lo w x : Nat) : patch v lo w x / 2 ^ lo = x % 2 ^ w + 2 ^ w * (v / 2 ^ (lo + w)) := by
  have hp : 0 < 2 ^ lo := Nat.two_pow_pos lo
  have hl : v % 2 ^ lo < 2 ^ lo := Nat.mod_lt _ hp
  have e : patch v lo w x = v % 2 ^ lo + 2 ^ lo * (x % 2 ^ w + 2 ^ w * (v / 2 ^ (lo + w))) := by
    simp only [patch, Nat.pow_add]; rw [Nat.mul_add, Nat.mul_assoc, Nat.add_assoc]
  rw [e, Nat.add_mul_div_left _ _ hp, Nat.div_eq_of_lt hl, Nat.zero_add]

/-- A field reads as the value written to it. -/
theorem slice_patch_same (v lo w x : Nat) : slice (patch v lo w x) lo w = x % 2 ^ w := by
  show patch v lo w x / 2 ^ lo % 2 ^ w = _
  rw [patch_div, Nat.add_mul_mod_self_left, Nat.mod_mod]

theorem patch_high (v lo w x : Nat) : patch v lo w x / 2 ^ (lo + w) = v / 2 ^ (lo + w) := by
  rw [Nat.pow_add, ← Nat.div_div_eq_div_mul, patch_div, Nat.add_mul_div_left _ _ (Nat.two_pow_pos w),
    Nat.div_eq_of_lt (Nat.mod_lt _ (Nat.two_pow_pos w)), Nat.zero_add, Nat.pow_add]

/-- A field beside the one written reads as before. -/
theorem slice_patch_ne (v lo w x lo' w' : Nat) (h : lo' + w' ≤ lo ∨ lo + w ≤ lo') :
    slice (patch v lo w x) lo' w' = slice v lo' w' := by
  rcases h with h | h
  · rw [← slice_mod (patch v lo w x) lo lo' w' h, patch_low, slice_mod _ _ _ _ h]
  · obtain ⟨k, rfl⟩ := Nat.exists_eq_add_of_le h
    simp only [slice]
    rw [Nat.pow_add, ← Nat.div_div_eq_div_mul, ← Nat.div_div_eq_div_mul]
    have := patch_high v lo w x
    simp only [patch] at this ⊢
    rw [this]

theorem patch_lt (v lo w x n : Nat) (hv : v < 2 ^ n) (h : lo + w ≤ n) : patch v lo w x < 2 ^ n := by
  obtain ⟨k, rfl⟩ := Nat.exists_eq_add_of_le h
  have h1 : v / 2 ^ (lo + w) < 2 ^ k := by
    rw [Nat.div_lt_iff_lt_mul (Nat.two_pow_pos _), ← Nat.pow_add, Nat.add_comm k]; exact hv
  have h2 : patch v lo w x / 2 ^ (lo + w) < 2 ^ k := by rw [patch_high]; exact h1
  rw [Nat.div_lt_iff_lt_mul (Nat.two_pow_pos _), ← Nat.pow_add, Nat.add_comm k] at h2
  exact h2

/-! ### Codes and widths of the arrays -/

@[simp] theorem A.reg_code : A.reg.code = 0 := rfl
@[simp] theorem A.hiLatch_code : A.hiLatch.code = 1 := rfl
@[simp] theorem A.heldLo_code : A.heldLo.code = 2 := rfl
@[simp] theorem A.lastLo_code : A.lastLo.code = 3 := rfl
@[simp] theorem A.err_code : A.err.code = 4 := rfl
@[simp] theorem A.imem_code : A.imem.code = 5 := rfl
@[simp] theorem A.hist_code : A.hist.code = 6 := rfl
@[simp] theorem A.wflag_code : A.wflag.code = 7 := rfl
@[simp] theorem A.state_code : A.state.code = 8 := rfl
@[simp] theorem A.shadow_code : A.shadow.code = 9 := rfl
@[simp] theorem A.init_code : A.init.code = 10 := rfl
@[simp] theorem A.land_code : A.land.code = 11 := rfl
@[simp] theorem A.landErr_code : A.landErr.code = 56 := rfl
@[simp] theorem A.landP_code : A.landP.code = 12 := rfl
@[simp] theorem A.port_code : A.port.code = 13 := rfl
@[simp] theorem A.portP_code : A.portP.code = 14 := rfl
@[simp] theorem A.portPErr_code : A.portPErr.code = 25 := rfl
@[simp] theorem A.portDue_code : A.portDue.code = 15 := rfl
@[simp] theorem A.wimem_code : A.wimem.code = 16 := rfl
@[simp] theorem A.pimem_code : A.pimem.code = 17 := rfl
@[simp] theorem A.slotR_code : A.slotR.code = 18 := rfl
@[simp] theorem A.gen_code : A.gen.code = 19 := rfl
@[simp] theorem A.tagOut_code : A.tagOut.code = 20 := rfl
@[simp] theorem A.probe_code : A.probe.code = 21 := rfl
@[simp] theorem A.hzHist_code : A.hzHist.code = 22 := rfl
@[simp] theorem A.hzFlag_code : A.hzFlag.code = 23 := rfl
@[simp] theorem A.hzShadow_code : A.hzShadow.code = 24 := rfl
@[simp] theorem A.pState_code : A.pState.code = 30 := rfl
@[simp] theorem A.pPid_code : A.pPid.code = 31 := rfl
@[simp] theorem A.pDepth_code : A.pDepth.code = 32 := rfl
@[simp] theorem A.pCycle_code : A.pCycle.code = 33 := rfl
@[simp] theorem A.pStep_code : A.pStep.code = 34 := rfl
@[simp] theorem A.pImage_code : A.pImage.code = 35 := rfl
@[simp] theorem A.pFrozen_code : A.pFrozen.code = 36 := rfl
@[simp] theorem A.pGate_code : A.pGate.code = 37 := rfl
@[simp] theorem A.pRound_code : A.pRound.code = 38 := rfl
@[simp] theorem A.pBegun_code : A.pBegun.code = 39 := rfl
@[simp] theorem A.esTab_code : A.esTab.code = 40 := rfl
@[simp] theorem A.esLen_code : A.esLen.code = 41 := rfl
@[simp] theorem A.esIdx_code : A.esIdx.code = 42 := rfl
@[simp] theorem A.esStart_code : A.esStart.code = 43 := rfl
@[simp] theorem A.esStage_code : A.esStage.code = 44 := rfl
@[simp] theorem A.esReloaded_code : A.esReloaded.code = 45 := rfl
@[simp] theorem A.pMinPl_code : A.pMinPl.code = 46 := rfl
@[simp] theorem A.recSeq_code : A.recSeq.code = 47 := rfl
@[simp] theorem A.recCnt_code : A.recCnt.code = 48 := rfl
@[simp] theorem A.holdTimer_code : A.holdTimer.code = 49 := rfl
@[simp] theorem A.gateTimer_code : A.gateTimer.code = 50 := rfl
@[simp] theorem A.limitNow_code : A.limitNow.code = 51 := rfl
@[simp] theorem A.gateRel_code : A.gateRel.code = 74 := rfl
@[simp] theorem A.gateMax_code : A.gateMax.code = 84 := rfl
@[simp] theorem A.gatePull_code : A.gatePull.code = 52 := rfl
@[simp] theorem A.pLimit_code : A.pLimit.code = 53 := rfl
@[simp] theorem A.pImm_code : A.pImm.code = 54 := rfl
@[simp] theorem A.remoteHold_code : A.remoteHold.code = 55 := rfl
@[simp] theorem A.stepFresh_code : A.stepFresh.code = 57 := rfl
@[simp] theorem A.heldStep_code : A.heldStep.code = 69 := rfl
@[simp] theorem A.wallOwner_code : A.wallOwner.code = 58 := rfl
@[simp] theorem A.devSeq_code : A.devSeq.code = 59 := rfl
@[simp] theorem A.pMembers_code : A.pMembers.code = 60 := rfl
@[simp] theorem A.pLaunchWait_code : A.pLaunchWait.code = 61 := rfl
@[simp] theorem A.plumbDown_code : A.plumbDown.code = 62 := rfl
@[simp] theorem A.plumbUp_code : A.plumbUp.code = 63 := rfl
@[simp] theorem A.plumbSent_code : A.plumbSent.code = 64 := rfl
@[simp] theorem A.plumbForce_code : A.plumbForce.code = 86 := rfl
@[simp] theorem A.pWalls_code : A.pWalls.code = 65 := rfl
@[simp] theorem A.esLoad_code : A.esLoad.code = 66 := rfl
@[simp] theorem A.esLoadLen_code : A.esLoadLen.code = 67 := rfl
@[simp] theorem A.pStartWait_code : A.pStartWait.code = 68 := rfl
@[simp] theorem A.shState_code : A.shState.code = 70 := rfl
@[simp] theorem A.shOver_code : A.shOver.code = 71 := rfl
@[simp] theorem A.shResult_code : A.shResult.code = 72 := rfl
@[simp] theorem A.evtFlag_code : A.evtFlag.code = 75 := rfl
@[simp] theorem A.evtVec_code : A.evtVec.code = 76 := rfl
@[simp] theorem A.evtSwOwn_code : A.evtSwOwn.code = 77 := rfl
@[simp] theorem A.vecRaised_code : A.vecRaised.code = 78 := rfl
@[simp] theorem A.vecPend_code : A.vecPend.code = 79 := rfl
@[simp] theorem A.vecOpen_code : A.vecOpen.code = 80 := rfl
@[simp] theorem A.vecMsg_code : A.vecMsg.code = 81 := rfl
@[simp] theorem A.funcOff_code : A.funcOff.code = 82 := rfl
@[simp] theorem A.funcMask_code : A.funcMask.code = 83 := rfl
@[simp] theorem A.jctl_code : A.jctl.code = 90 := rfl
@[simp] theorem A.jwait_code : A.jwait.code = 91 := rfl
@[simp] theorem A.jqsel_code : A.jqsel.code = 92 := rfl
@[simp] theorem A.jnext_code : A.jnext.code = 93 := rfl
@[simp] theorem A.jarg_code : A.jarg.code = 94 := rfl
@[simp] theorem A.jqstat_code : A.jqstat.code = 95 := rfl
@[simp] theorem A.jrstat_code : A.jrstat.code = 96 := rfl
@[simp] theorem A.coreIdle_code : A.coreIdle.code = 97 := rfl
@[simp] theorem A.coreTask_code : A.coreTask.code = 98 := rfl
@[simp] theorem A.coreBind_code : A.coreBind.code = 99 := rfl
@[simp] theorem A.coreBindNew_code : A.coreBindNew.code = 100 := rfl
@[simp] theorem A.coreBusyT_code : A.coreBusyT.code = 101 := rfl
@[simp] theorem A.coreIdleT_code : A.coreIdleT.code = 102 := rfl
@[simp] theorem A.coreUp_code : A.coreUp.code = 103 := rfl
@[simp] theorem A.coreLow_code : A.coreLow.code = 108 := rfl
@[simp] theorem A.corePrev_code : A.corePrev.code = 109 := rfl
@[simp] theorem A.coreCause_code : A.coreCause.code = 135 := rfl
@[simp] theorem A.jrspLeft_code : A.jrspLeft.code = 104 := rfl
@[simp] theorem A.jrspSent_code : A.jrspSent.code = 105 := rfl
@[simp] theorem A.tCfg_code : A.tCfg.code = 110 := rfl
@[simp] theorem A.tMask_code : A.tMask.code = 111 := rfl
@[simp] theorem A.tTimeout_code : A.tTimeout.code = 112 := rfl
@[simp] theorem A.tArg_code : A.tArg.code = 113 := rfl
@[simp] theorem A.tState_code : A.tState.code = 114 := rfl
@[simp] theorem A.tCore_code : A.tCore.code = 115 := rfl
@[simp] theorem A.tLastTmo_code : A.tLastTmo.code = 116 := rfl
@[simp] theorem A.tCount_code : A.tCount.code = 117 := rfl
@[simp] theorem A.tHist_code : A.tHist.code = 118 := rfl
@[simp] theorem A.tWaitMax_code : A.tWaitMax.code = 119 := rfl
@[simp] theorem A.tFlags_code : A.tFlags.code = 120 := rfl
@[simp] theorem A.tTmo_code : A.tTmo.code = 121 := rfl
@[simp] theorem A.tSince_code : A.tSince.code = 122 := rfl
@[simp] theorem A.tReadyAt_code : A.tReadyAt.code = 123 := rfl
@[simp] theorem A.tMaskNow_code : A.tMaskNow.code = 124 := rfl
@[simp] theorem A.tTimeoutNow_code : A.tTimeoutNow.code = 125 := rfl
@[simp] theorem A.tCfgNow_code : A.tCfgNow.code = 136 := rfl
@[simp] theorem A.tArgNow_code : A.tArgNow.code = 137 := rfl
@[simp] theorem A.tOrder_code : A.tOrder.code = 126 := rfl
@[simp] theorem A.tOrderCtr_code : A.tOrderCtr.code = 127 := rfl
@[simp] theorem A.tFreeAtEnd_code : A.tFreeAtEnd.code = 128 := rfl
@[simp] theorem A.epoch_code : A.epoch.code = 130 := rfl
@[simp] theorem A.staleCnt_code : A.staleCnt.code = 131 := rfl
@[simp] theorem A.staleWhy_code : A.staleWhy.code = 132 := rfl
@[simp] theorem A.calls_code : A.calls.code = 133 := rfl
@[simp] theorem A.qAcc_code : A.qAcc.code = 143 := rfl
@[simp] theorem A.qHiLatch_code : A.qHiLatch.code = 144 := rfl
@[simp] theorem A.qHeld_code : A.qHeld.code = 145 := rfl
@[simp] theorem A.qLastLo_code : A.qLastLo.code = 146 := rfl
@[simp] theorem A.qPtrBad_code : A.qPtrBad.code = 147 := rfl
@[simp] theorem A.linkDone_code : A.linkDone.code = 73 := rfl
@[simp] theorem A.recPktSeq_code : A.recPktSeq.code = 190 := rfl
@[simp] theorem A.recMute_code : A.recMute.code = 191 := rfl
@[simp] theorem A.recSnapReq_code : A.recSnapReq.code = 192 := rfl
@[simp] theorem A.recWant_code : A.recWant.code = 193 := rfl
@[simp] theorem A.recPostLeft_code : A.recPostLeft.code = 194 := rfl
@[simp] theorem A.feedSeq_code : A.feedSeq.code = 195 := rfl
@[simp] theorem A.feedAt_code : A.feedAt.code = 88 := rfl
@[simp] theorem A.feedLost_code : A.feedLost.code = 26 := rfl
@[simp] theorem A.recBack_code : A.recBack.code = 87 := rfl
@[simp] theorem A.mapWall_code : A.mapWall.code = 196 := rfl
@[simp] theorem A.mapUnit_code : A.mapUnit.code = 197 := rfl
@[simp] theorem A.mapWords_code : A.mapWords.code = 232 := rfl
@[simp] theorem A.feedMark_code : A.feedMark.code = 198 := rfl
@[simp] theorem A.dumpDue_code : A.dumpDue.code = 199 := rfl
@[simp] theorem A.hbmErr_code : A.hbmErr.code = 200 := rfl
@[simp] theorem A.own_code : A.own.code = 201 := rfl
@[simp] theorem A.hbmLost_code : A.hbmLost.code = 202 := rfl
@[simp] theorem A.hbmKnown_code : A.hbmKnown.code = 203 := rfl
@[simp] theorem A.mmeSerial_code : A.mmeSerial.code = 204 := rfl
@[simp] theorem A.fenceAt_code : A.fenceAt.code = 205 := rfl
@[simp] theorem A.fencePid_code : A.fencePid.code = 206 := rfl
@[simp] theorem A.bay_code : A.bay.code = 210 := rfl
@[simp] theorem A.bayBit_code : A.bayBit.code = 107 := rfl
@[simp] theorem A.newtBuf_code : A.newtBuf.code = 89 := rfl
@[simp] theorem A.bayAt_code : A.bayAt.code = 211 := rfl
@[simp] theorem A.tgtOut_code : A.tgtOut.code = 235 := rfl
@[simp] theorem A.pinNow_code : A.pinNow.code = 142 := rfl
@[simp] theorem A.padLatch_code : A.padLatch.code = 236 := rfl
@[simp] theorem A.route_code : A.route.code = 237 := rfl
@[simp] theorem A.i2cSkip_code : A.i2cSkip.code = 238 := rfl
@[simp] theorem A.accRes_code : A.accRes.code = 230 := rfl
@[simp] theorem A.tgCount_code : A.tgCount.code = 220 := rfl
@[simp] theorem A.tgExt_code : A.tgExt.code = 221 := rfl
@[simp] theorem A.tgValid_code : A.tgValid.code = 222 := rfl
@[simp] theorem A.tgPrev_code : A.tgPrev.code = 223 := rfl
@[simp] theorem A.tgFill_code : A.tgFill.code = 224 := rfl
@[simp] theorem A.tgNext_code : A.tgNext.code = 225 := rfl
@[simp] theorem A.tgForce_code : A.tgForce.code = 226 := rfl
@[simp] theorem A.tgOut_code : A.tgOut.code = 227 := rfl
@[simp] theorem A.capt_code : A.capt.code = 228 := rfl
@[simp] theorem A.pmap_code : A.pmap.code = 229 := rfl
@[simp] theorem A.newtEnd_code : A.newtEnd.code = 270 := rfl
@[simp] theorem A.newtNext_code : A.newtNext.code = 271 := rfl
@[simp] theorem A.newtReq_code : A.newtReq.code = 272 := rfl
@[simp] theorem A.lnTime_code : A.lnTime.code = 240 := rfl
@[simp] theorem A.lnCfg_code : A.lnCfg.code = 241 := rfl
@[simp] theorem A.lnState_code : A.lnState.code = 242 := rfl
@[simp] theorem A.lnResult_code : A.lnResult.code = 243 := rfl
@[simp] theorem A.lnCycle_code : A.lnCycle.code = 244 := rfl
@[simp] theorem A.lnGo_code : A.lnGo.code = 245 := rfl
@[simp] theorem A.lnHold_code : A.lnHold.code = 246 := rfl
@[simp] theorem A.ppsRef_code : A.ppsRef.code = 247 := rfl
@[simp] theorem A.ppsSeen_code : A.ppsSeen.code = 248 := rfl
@[simp] theorem A.ppsTime_code : A.ppsTime.code = 249 := rfl
@[simp] theorem A.msgRef_code : A.msgRef.code = 250 := rfl
@[simp] theorem A.tmSec_code : A.tmSec.code = 251 := rfl
@[simp] theorem A.tmGot_code : A.tmGot.code = 252 := rfl
@[simp] theorem A.monoFrac_code : A.monoFrac.code = 253 := rfl
@[simp] theorem A.devS_code : A.devS.code = 254 := rfl
@[simp] theorem A.devMono_code : A.devMono.code = 255 := rfl
@[simp] theorem A.devLen_code : A.devLen.code = 256 := rfl
@[simp] theorem A.epOpen_code : A.epOpen.code = 257 := rfl
@[simp] theorem A.epS_code : A.epS.code = 258 := rfl
@[simp] theorem A.epMono_code : A.epMono.code = 259 := rfl
@[simp] theorem A.epReg_code : A.epReg.code = 260 := rfl
@[simp] theorem A.epBefore_code : A.epBefore.code = 261 := rfl
@[simp] theorem A.epAfter_code : A.epAfter.code = 262 := rfl
@[simp] theorem A.meterSeq_code : A.meterSeq.code = 263 := rfl
@[simp] theorem A.sealKey_code : A.sealKey.code = 264 := rfl
@[simp] theorem A.powerIx_code : A.powerIx.code = 265 := rfl
@[simp] theorem A.fuseLc_code : A.fuseLc.code = 280 := rfl
@[simp] theorem A.fuseRoot_code : A.fuseRoot.code = 281 := rfl
@[simp] theorem A.fuseRevoke_code : A.fuseRevoke.code = 282 := rfl
@[simp] theorem A.fuseKek_code : A.fuseKek.code = 283 := rfl
@[simp] theorem A.fuseTamper_code : A.fuseTamper.code = 284 := rfl
@[simp] theorem A.fuseFlags_code : A.fuseFlags.code = 285 := rfl
@[simp] theorem A.fuseSvn_code : A.fuseSvn.code = 286 := rfl
@[simp] theorem A.keyRam_code : A.keyRam.code = 287 := rfl
@[simp] theorem A.keyRamOk_code : A.keyRamOk.code = 288 := rfl
@[simp] theorem A.bootRec_code : A.bootRec.code = 289 := rfl
@[simp] theorem A.slotByte_code : A.slotByte.code = 290 := rfl
@[simp] theorem A.norThere_code : A.norThere.code = 291 := rfl
@[simp] theorem A.nvmeThere_code : A.nvmeThere.code = 292 := rfl
@[simp] theorem A.nvmeBlock_code : A.nvmeBlock.code = 293 := rfl
@[simp] theorem A.chainParams_code : A.chainParams.code = 294 := rfl
@[simp] theorem A.keyPolicy_code : A.keyPolicy.code = 295 := rfl
@[simp] theorem A.slotVerified_code : A.slotVerified.code = 296 := rfl
@[simp] theorem A.stageByte_code : A.stageByte.code = 297 := rfl
@[simp] theorem A.autoStart_code : A.autoStart.code = 298 := rfl
@[simp] theorem A.fromStream_code : A.fromStream.code = 299 := rfl
@[simp] theorem A.strmOn_code : A.strmOn.code = 300 := rfl
@[simp] theorem A.strmWant_code : A.strmWant.code = 301 := rfl
@[simp] theorem A.strmGot_code : A.strmGot.code = 302 := rfl
@[simp] theorem A.strmBad_code : A.strmBad.code = 303 := rfl
@[simp] theorem A.strmEnd_code : A.strmEnd.code = 304 := rfl
@[simp] theorem A.strmNext_code : A.strmNext.code = 129 := rfl
@[simp] theorem A.imgPick_code : A.imgPick.code = 134 := rfl
@[simp] theorem A.bootRam_code : A.bootRam.code = 106 := rfl
@[simp] theorem A.strmTries_code : A.strmTries.code = 305 := rfl
@[simp] theorem A.doneHigh_code : A.doneHigh.code = 306 := rfl
@[simp] theorem A.keystonePin_code : A.keystonePin.code = 307 := rfl
@[simp] theorem A.wlSet_code : A.wlSet.code = 308 := rfl
@[simp] theorem A.containerId_code : A.containerId.code = 309 := rfl
@[simp] theorem A.vbat_code : A.vbat.code = 310 := rfl
@[simp] theorem A.pwMode_code : A.pwMode.code = 311 := rfl
@[simp] theorem A.refDead_code : A.refDead.code = 312 := rfl
@[simp] theorem A.pwWake_code : A.pwWake.code = 313 := rfl
@[simp] theorem A.pwDead_code : A.pwDead.code = 314 := rfl
@[simp] theorem A.warmWait_code : A.warmWait.code = 315 := rfl
@[simp] theorem A.drainAt_code : A.drainAt.code = 316 := rfl
@[simp] theorem A.voltAt_code : A.voltAt.code = 317 := rfl
@[simp] theorem A.plPhase_code : A.plPhase.code = 318 := rfl
@[simp] theorem A.ptSeen_code : A.ptSeen.code = 319 := rfl
@[simp] theorem A.ptReq_code : A.ptReq.code = 320 := rfl
@[simp] theorem A.ptSwitch_code : A.ptSwitch.code = 321 := rfl
@[simp] theorem A.ptPs_code : A.ptPs.code = 322 := rfl
@[simp] theorem A.lnPrev_code : A.lnPrev.code = 323 := rfl
@[simp] theorem A.lnSince_code : A.lnSince.code = 324 := rfl
@[simp] theorem A.lnRelock_code : A.lnRelock.code = 325 := rfl
@[simp] theorem A.lnSlot_code : A.lnSlot.code = 326 := rfl
@[simp] theorem A.lnSeq_code : A.lnSeq.code = 327 := rfl
@[simp] theorem A.lnNak_code : A.lnNak.code = 328 := rfl
@[simp] theorem A.lnFails_code : A.lnFails.code = 329 := rfl
@[simp] theorem A.lnTap_code : A.lnTap.code = 330 := rfl
@[simp] theorem A.ptNakBlk_code : A.ptNakBlk.code = 331 := rfl
@[simp] theorem A.ptNakCnt_code : A.ptNakCnt.code = 332 := rfl
@[simp] theorem A.lnTx_code : A.lnTx.code = 138 := rfl
@[simp] theorem A.lnTxSlot_code : A.lnTxSlot.code = 139 := rfl
@[simp] theorem A.lnTxSeq_code : A.lnTxSeq.code = 140 := rfl
@[simp] theorem A.enProv_code : A.enProv.code = 334 := rfl
@[simp] theorem A.kEpoch_code : A.kEpoch.code = 27 := rfl
@[simp] theorem A.strmOver_code : A.strmOver.code = 28 := rfl
@[simp] theorem A.enTail_code : A.enTail.code = 335 := rfl
@[simp] theorem A.enAt_code : A.enAt.code = 336 := rfl
@[simp] theorem A.trAt_code : A.trAt.code = 340 := rfl
@[simp] theorem A.enCount_code : A.enCount.code = 337 := rfl
@[simp] theorem A.trOpen_code : A.trOpen.code = 338 := rfl
@[simp] theorem A.trBest_code : A.trBest.code = 339 := rfl
@[simp] theorem A.trClosed_code : A.trClosed.code = 341 := rfl
@[simp] theorem A.busTok_code : A.busTok.code = 342 := rfl
@[simp] theorem A.busSlots_code : A.busSlots.code = 85 := rfl
@[simp] theorem A.domWake_code : A.domWake.code = 343 := rfl
@[simp] theorem A.refGone_code : A.refGone.code = 357 := rfl
@[simp] theorem A.saveMade_code : A.saveMade.code = 344 := rfl
@[simp] theorem A.sleepPs_code : A.sleepPs.code = 151 := rfl
@[simp] theorem A.padPark_code : A.padPark.code = 152 := rfl
@[simp] theorem A.cnMatch_code : A.cnMatch.code = 345 := rfl
@[simp] theorem A.cnMask_code : A.cnMask.code = 351 := rfl
@[simp] theorem A.pcAt_code : A.pcAt.code = 149 := rfl
@[simp] theorem A.pcTemp_code : A.pcTemp.code = 150 := rfl
@[simp] theorem A.cnSet_code : A.cnSet.code = 29 := rfl
@[simp] theorem A.cnFw_code : A.cnFw.code = 148 := rfl
@[simp] theorem A.cnPath_code : A.cnPath.code = 352 := rfl
@[simp] theorem A.scrubAt_code : A.scrubAt.code = 358 := rfl
@[simp] theorem A.hbmTrn_code : A.hbmTrn.code = 359 := rfl
@[simp] theorem A.pcieDown_code : A.pcieDown.code = 346 := rfl
@[simp] theorem A.hostBar2_code : A.hostBar2.code = 347 := rfl
@[simp] theorem A.hostDm_code : A.hostDm.code = 348 := rfl
@[simp] theorem A.hostErr_code : A.hostErr.code = 349 := rfl
@[simp] theorem A.hostErrAddr_code : A.hostErrAddr.code = 350 := rfl
@[simp] theorem A.hostErrLatch_code : A.hostErrLatch.code = 353 := rfl
@[simp] theorem A.cnGen_code : A.cnGen.code = 354 := rfl
@[simp] theorem A.cnStale_code : A.cnStale.code = 355 := rfl
@[simp] theorem A.reg_width : A.reg.width = 32 := rfl
@[simp] theorem A.hiLatch_width : A.hiLatch.width = 33 := rfl
@[simp] theorem A.heldLo_width : A.heldLo.width = 33 := rfl
@[simp] theorem A.lastLo_width : A.lastLo.width = 32 := rfl
@[simp] theorem A.err_width : A.err.width = 2 := rfl
@[simp] theorem A.imem_width : A.imem.width = 96 := rfl
@[simp] theorem A.hist_width : A.hist.width = 16 := rfl
@[simp] theorem A.wflag_width : A.wflag.width = 4 := rfl
@[simp] theorem A.state_width : A.state.width = 16 := rfl
@[simp] theorem A.shadow_width : A.shadow.width = 16 := rfl
@[simp] theorem A.init_width : A.init.width = 16 := rfl
@[simp] theorem A.land_width : A.land.width = 16 := rfl
@[simp] theorem A.landErr_width : A.landErr.width = 16 := rfl
@[simp] theorem A.landP_width : A.landP.width = 16 := rfl
@[simp] theorem A.port_width : A.port.width = 64 := rfl
@[simp] theorem A.portP_width : A.portP.width = 16 := rfl
@[simp] theorem A.portPErr_width : A.portPErr.width = 16 := rfl
@[simp] theorem A.portDue_width : A.portDue.width = 11 := rfl
@[simp] theorem A.wimem_width : A.wimem.width = 48 := rfl
@[simp] theorem A.pimem_width : A.pimem.width = 64 := rfl
@[simp] theorem A.slotR_width : A.slotR.width = 16 := rfl
@[simp] theorem A.gen_width : A.gen.width = 4 := rfl
@[simp] theorem A.tagOut_width : A.tagOut.width = 1 := rfl
@[simp] theorem A.probe_width : A.probe.width = 1 := rfl
@[simp] theorem A.hzHist_width : A.hzHist.width = 48 := rfl
@[simp] theorem A.hzFlag_width : A.hzFlag.width = 3 := rfl
@[simp] theorem A.hzShadow_width : A.hzShadow.width = 10 := rfl
@[simp] theorem A.pState_width : A.pState.width = 3 := rfl
@[simp] theorem A.pPid_width : A.pPid.width = 8 := rfl
@[simp] theorem A.pDepth_width : A.pDepth.width = 10 := rfl
@[simp] theorem A.pCycle_width : A.pCycle.width = 48 := rfl
@[simp] theorem A.pStep_width : A.pStep.width = 10 := rfl
@[simp] theorem A.pImage_width : A.pImage.width = 64 := rfl
@[simp] theorem A.pFrozen_width : A.pFrozen.width = 1 := rfl
@[simp] theorem A.pGate_width : A.pGate.width = 1 := rfl
@[simp] theorem A.pRound_width : A.pRound.width = 7 := rfl
@[simp] theorem A.pBegun_width : A.pBegun.width = 1 := rfl
@[simp] theorem A.esTab_width : A.esTab.width = 64 := rfl
@[simp] theorem A.esLen_width : A.esLen.width = 13 := rfl
@[simp] theorem A.esIdx_width : A.esIdx.width = 12 := rfl
@[simp] theorem A.esStart_width : A.esStart.width = 12 := rfl
@[simp] theorem A.esStage_width : A.esStage.width = 64 := rfl
@[simp] theorem A.esReloaded_width : A.esReloaded.width = 1 := rfl
@[simp] theorem A.pMinPl_width : A.pMinPl.width = 2 := rfl
@[simp] theorem A.recSeq_width : A.recSeq.width = 8 := rfl
@[simp] theorem A.recCnt_width : A.recCnt.width = 7 := rfl
@[simp] theorem A.holdTimer_width : A.holdTimer.width = 64 := rfl
@[simp] theorem A.gateTimer_width : A.gateTimer.width = 64 := rfl
@[simp] theorem A.limitNow_width : A.limitNow.width = 32 := rfl
@[simp] theorem A.gateRel_width : A.gateRel.width = 65 := rfl
@[simp] theorem A.gateMax_width : A.gateMax.width = 64 := rfl
@[simp] theorem A.gatePull_width : A.gatePull.width = 3 := rfl
@[simp] theorem A.pLimit_width : A.pLimit.width = 1 := rfl
@[simp] theorem A.pImm_width : A.pImm.width = 1 := rfl
@[simp] theorem A.remoteHold_width : A.remoteHold.width = 1 := rfl
@[simp] theorem A.stepFresh_width : A.stepFresh.width = 1 := rfl
@[simp] theorem A.heldStep_width : A.heldStep.width = 10 := rfl
@[simp] theorem A.wallOwner_width : A.wallOwner.width = 6 := rfl
@[simp] theorem A.devSeq_width : A.devSeq.width = 8 := rfl
@[simp] theorem A.pMembers_width : A.pMembers.width = 13 := rfl
@[simp] theorem A.pLaunchWait_width : A.pLaunchWait.width = 1 := rfl
@[simp] theorem A.plumbDown_width : A.plumbDown.width = 4 := rfl
@[simp] theorem A.plumbUp_width : A.plumbUp.width = 4 := rfl
@[simp] theorem A.plumbSent_width : A.plumbSent.width = 4 := rfl
@[simp] theorem A.plumbForce_width : A.plumbForce.width = 4 := rfl
@[simp] theorem A.pWalls_width : A.pWalls.width = 8 := rfl
@[simp] theorem A.esLoad_width : A.esLoad.width = 64 := rfl
@[simp] theorem A.esLoadLen_width : A.esLoadLen.width = 13 := rfl
@[simp] theorem A.pStartWait_width : A.pStartWait.width = 1 := rfl
@[simp] theorem A.shState_width : A.shState.width = 2 := rfl
@[simp] theorem A.shOver_width : A.shOver.width = 1 := rfl
@[simp] theorem A.shResult_width : A.shResult.width = 4 := rfl
@[simp] theorem A.evtFlag_width : A.evtFlag.width = 18 := rfl
@[simp] theorem A.evtVec_width : A.evtVec.width = 17 := rfl
@[simp] theorem A.evtSwOwn_width : A.evtSwOwn.width = 9 := rfl
@[simp] theorem A.vecRaised_width : A.vecRaised.width = 1 := rfl
@[simp] theorem A.vecPend_width : A.vecPend.width = 1 := rfl
@[simp] theorem A.vecOpen_width : A.vecOpen.width = 1 := rfl
@[simp] theorem A.vecMsg_width : A.vecMsg.width = 96 := rfl
@[simp] theorem A.funcOff_width : A.funcOff.width = 1 := rfl
@[simp] theorem A.funcMask_width : A.funcMask.width = 1 := rfl
@[simp] theorem A.jctl_width : A.jctl.width = 1 := rfl
@[simp] theorem A.jwait_width : A.jwait.width = 64 := rfl
@[simp] theorem A.jqsel_width : A.jqsel.width = 7 := rfl
@[simp] theorem A.jnext_width : A.jnext.width = 64 := rfl
@[simp] theorem A.jarg_width : A.jarg.width = 64 := rfl
@[simp] theorem A.jqstat_width : A.jqstat.width = 4 := rfl
@[simp] theorem A.jrstat_width : A.jrstat.width = 3 := rfl
@[simp] theorem A.coreIdle_width : A.coreIdle.width = 1 := rfl
@[simp] theorem A.coreTask_width : A.coreTask.width = 13 := rfl
@[simp] theorem A.coreBind_width : A.coreBind.width = 12 := rfl
@[simp] theorem A.coreBindNew_width : A.coreBindNew.width = 13 := rfl
@[simp] theorem A.coreBusyT_width : A.coreBusyT.width = 64 := rfl
@[simp] theorem A.coreIdleT_width : A.coreIdleT.width = 64 := rfl
@[simp] theorem A.coreUp_width : A.coreUp.width = 1 := rfl
@[simp] theorem A.coreLow_width : A.coreLow.width = 2 := rfl
@[simp] theorem A.corePrev_width : A.corePrev.width = 2 := rfl
@[simp] theorem A.coreCause_width : A.coreCause.width = 64 := rfl
@[simp] theorem A.jrspLeft_width : A.jrspLeft.width = 4 := rfl
@[simp] theorem A.jrspSent_width : A.jrspSent.width = 1 := rfl
@[simp] theorem A.tCfg_width : A.tCfg.width = 17 := rfl
@[simp] theorem A.tMask_width : A.tMask.width = 32 := rfl
@[simp] theorem A.tTimeout_width : A.tTimeout.width = 25 := rfl
@[simp] theorem A.tArg_width : A.tArg.width = 64 := rfl
@[simp] theorem A.tState_width : A.tState.width = 2 := rfl
@[simp] theorem A.tCore_width : A.tCore.width = 5 := rfl
@[simp] theorem A.tLastTmo_width : A.tLastTmo.width = 1 := rfl
@[simp] theorem A.tCount_width : A.tCount.width = 24 := rfl
@[simp] theorem A.tHist_width : A.tHist.width = 16 := rfl
@[simp] theorem A.tWaitMax_width : A.tWaitMax.width = 32 := rfl
@[simp] theorem A.tFlags_width : A.tFlags.width = 32 := rfl
@[simp] theorem A.tTmo_width : A.tTmo.width = 1 := rfl
@[simp] theorem A.tSince_width : A.tSince.width = 64 := rfl
@[simp] theorem A.tReadyAt_width : A.tReadyAt.width = 64 := rfl
@[simp] theorem A.tMaskNow_width : A.tMaskNow.width = 32 := rfl
@[simp] theorem A.tTimeoutNow_width : A.tTimeoutNow.width = 25 := rfl
@[simp] theorem A.tCfgNow_width : A.tCfgNow.width = 17 := rfl
@[simp] theorem A.tArgNow_width : A.tArgNow.width = 64 := rfl
@[simp] theorem A.tOrder_width : A.tOrder.width = 64 := rfl
@[simp] theorem A.tOrderCtr_width : A.tOrderCtr.width = 64 := rfl
@[simp] theorem A.tFreeAtEnd_width : A.tFreeAtEnd.width = 1 := rfl
@[simp] theorem A.epoch_width : A.epoch.width = 6 := rfl
@[simp] theorem A.staleCnt_width : A.staleCnt.width = 16 := rfl
@[simp] theorem A.staleWhy_width : A.staleWhy.width = 2 := rfl
@[simp] theorem A.calls_width : A.calls.width = 32 := rfl
@[simp] theorem A.qAcc_width : A.qAcc.width = 5 := rfl
@[simp] theorem A.qHiLatch_width : A.qHiLatch.width = 33 := rfl
@[simp] theorem A.qHeld_width : A.qHeld.width = 33 := rfl
@[simp] theorem A.qLastLo_width : A.qLastLo.width = 32 := rfl
@[simp] theorem A.qPtrBad_width : A.qPtrBad.width = 1 := rfl
@[simp] theorem A.linkDone_width : A.linkDone.width = 1 := rfl
@[simp] theorem A.recPktSeq_width : A.recPktSeq.width = 32 := rfl
@[simp] theorem A.recMute_width : A.recMute.width = 1 := rfl
@[simp] theorem A.recSnapReq_width : A.recSnapReq.width = 3 := rfl
@[simp] theorem A.recWant_width : A.recWant.width = 4 := rfl
@[simp] theorem A.recPostLeft_width : A.recPostLeft.width = 33 := rfl
@[simp] theorem A.feedSeq_width : A.feedSeq.width = 33 := rfl
@[simp] theorem A.feedAt_width : A.feedAt.width = 36 := rfl
@[simp] theorem A.feedLost_width : A.feedLost.width = 1 := rfl
@[simp] theorem A.recBack_width : A.recBack.width = 8 := rfl
@[simp] theorem A.mapWall_width : A.mapWall.width = 8 := rfl
@[simp] theorem A.mapUnit_width : A.mapUnit.width = 6 := rfl
@[simp] theorem A.mapWords_width : A.mapWords.width = 32 := rfl
@[simp] theorem A.feedMark_width : A.feedMark.width = 48 := rfl
@[simp] theorem A.dumpDue_width : A.dumpDue.width = 1 := rfl
@[simp] theorem A.hbmErr_width : A.hbmErr.width = 2 := rfl
@[simp] theorem A.own_width : A.own.width = 9 := rfl
@[simp] theorem A.hbmLost_width : A.hbmLost.width = 32 := rfl
@[simp] theorem A.hbmKnown_width : A.hbmKnown.width = 1 := rfl
@[simp] theorem A.mmeSerial_width : A.mmeSerial.width = 64 := rfl
@[simp] theorem A.fenceAt_width : A.fenceAt.width = 64 := rfl
@[simp] theorem A.fencePid_width : A.fencePid.width = 8 := rfl
@[simp] theorem A.bay_width : A.bay.width = 64 := rfl
@[simp] theorem A.bayBit_width : A.bayBit.width = 7 := rfl
@[simp] theorem A.newtBuf_width : A.newtBuf.width = 64 := rfl
@[simp] theorem A.bayAt_width : A.bayAt.width = 12 := rfl
@[simp] theorem A.tgtOut_width : A.tgtOut.width = 2 := rfl
@[simp] theorem A.pinNow_width : A.pinNow.width = 2 := rfl
@[simp] theorem A.padLatch_width : A.padLatch.width = 5 := rfl
@[simp] theorem A.route_width : A.route.width = 16 := rfl
@[simp] theorem A.i2cSkip_width : A.i2cSkip.width = 1 := rfl
@[simp] theorem A.accRes_width : A.accRes.width = 3 := rfl
@[simp] theorem A.tgCount_width : A.tgCount.width = 16 := rfl
@[simp] theorem A.tgExt_width : A.tgExt.width = 1 := rfl
@[simp] theorem A.tgValid_width : A.tgValid.width = 1 := rfl
@[simp] theorem A.tgPrev_width : A.tgPrev.width = 64 := rfl
@[simp] theorem A.tgFill_width : A.tgFill.width = 32 := rfl
@[simp] theorem A.tgNext_width : A.tgNext.width = 32 := rfl
@[simp] theorem A.tgForce_width : A.tgForce.width = 1 := rfl
@[simp] theorem A.tgOut_width : A.tgOut.width = 4 := rfl
@[simp] theorem A.capt_width : A.capt.width = 64 := rfl
@[simp] theorem A.pmap_width : A.pmap.width = 17 := rfl
@[simp] theorem A.newtEnd_width : A.newtEnd.width = 65 := rfl
@[simp] theorem A.newtNext_width : A.newtNext.width = 13 := rfl
@[simp] theorem A.newtReq_width : A.newtReq.width = 25 := rfl
@[simp] theorem A.lnTime_width : A.lnTime.width = 64 := rfl
@[simp] theorem A.lnCfg_width : A.lnCfg.width = 28 := rfl
@[simp] theorem A.lnState_width : A.lnState.width = 2 := rfl
@[simp] theorem A.lnResult_width : A.lnResult.width = 4 := rfl
@[simp] theorem A.lnCycle_width : A.lnCycle.width = 48 := rfl
@[simp] theorem A.lnGo_width : A.lnGo.width = 1 := rfl
@[simp] theorem A.lnHold_width : A.lnHold.width = 1 := rfl
@[simp] theorem A.ppsRef_width : A.ppsRef.width = 64 := rfl
@[simp] theorem A.ppsSeen_width : A.ppsSeen.width = 1 := rfl
@[simp] theorem A.ppsTime_width : A.ppsTime.width = 64 := rfl
@[simp] theorem A.msgRef_width : A.msgRef.width = 64 := rfl
@[simp] theorem A.tmSec_width : A.tmSec.width = 64 := rfl
@[simp] theorem A.tmGot_width : A.tmGot.width = 1 := rfl
@[simp] theorem A.monoFrac_width : A.monoFrac.width = 32 := rfl
@[simp] theorem A.devS_width : A.devS.width = 64 := rfl
@[simp] theorem A.devMono_width : A.devMono.width = 64 := rfl
@[simp] theorem A.devLen_width : A.devLen.width = 17 := rfl
@[simp] theorem A.epOpen_width : A.epOpen.width = 1 := rfl
@[simp] theorem A.epS_width : A.epS.width = 64 := rfl
@[simp] theorem A.epMono_width : A.epMono.width = 64 := rfl
@[simp] theorem A.epReg_width : A.epReg.width = 1 := rfl
@[simp] theorem A.epBefore_width : A.epBefore.width = 64 := rfl
@[simp] theorem A.epAfter_width : A.epAfter.width = 64 := rfl
@[simp] theorem A.meterSeq_width : A.meterSeq.width = 64 := rfl
@[simp] theorem A.sealKey_width : A.sealKey.width = 257 := rfl
@[simp] theorem A.powerIx_width : A.powerIx.width = 64 := rfl
@[simp] theorem A.fuseLc_width : A.fuseLc.width = 8 := rfl
@[simp] theorem A.fuseRoot_width : A.fuseRoot.width = 384 := rfl
@[simp] theorem A.fuseRevoke_width : A.fuseRevoke.width = 4 := rfl
@[simp] theorem A.fuseKek_width : A.fuseKek.width = 256 := rfl
@[simp] theorem A.fuseTamper_width : A.fuseTamper.width = 5 := rfl
@[simp] theorem A.fuseFlags_width : A.fuseFlags.width = 3 := rfl
@[simp] theorem A.fuseSvn_width : A.fuseSvn.width = 7 := rfl
@[simp] theorem A.keyRam_width : A.keyRam.width = 256 := rfl
@[simp] theorem A.keyRamOk_width : A.keyRamOk.width = 1 := rfl
@[simp] theorem A.bootRec_width : A.bootRec.width = 512 := rfl
@[simp] theorem A.slotByte_width : A.slotByte.width = 8 := rfl
@[simp] theorem A.norThere_width : A.norThere.width = 1 := rfl
@[simp] theorem A.nvmeThere_width : A.nvmeThere.width = 1 := rfl
@[simp] theorem A.nvmeBlock_width : A.nvmeBlock.width = 13 := rfl
@[simp] theorem A.chainParams_width : A.chainParams.width = 512 := rfl
@[simp] theorem A.keyPolicy_width : A.keyPolicy.width = 128 := rfl
@[simp] theorem A.slotVerified_width : A.slotVerified.width = 1 := rfl
@[simp] theorem A.stageByte_width : A.stageByte.width = 8 := rfl
@[simp] theorem A.autoStart_width : A.autoStart.width = 1 := rfl
@[simp] theorem A.fromStream_width : A.fromStream.width = 1 := rfl
@[simp] theorem A.strmOn_width : A.strmOn.width = 1 := rfl
@[simp] theorem A.strmWant_width : A.strmWant.width = 14 := rfl
@[simp] theorem A.strmGot_width : A.strmGot.width = 14 := rfl
@[simp] theorem A.strmBad_width : A.strmBad.width = 1 := rfl
@[simp] theorem A.strmEnd_width : A.strmEnd.width = 1 := rfl
@[simp] theorem A.strmNext_width : A.strmNext.width = 14 := rfl
@[simp] theorem A.imgPick_width : A.imgPick.width = 2 := rfl
@[simp] theorem A.bootRam_width : A.bootRam.width = 8 := rfl
@[simp] theorem A.strmTries_width : A.strmTries.width = 3 := rfl
@[simp] theorem A.doneHigh_width : A.doneHigh.width = 1 := rfl
@[simp] theorem A.keystonePin_width : A.keystonePin.width = 1 := rfl
@[simp] theorem A.wlSet_width : A.wlSet.width = 32 := rfl
@[simp] theorem A.containerId_width : A.containerId.width = 64 := rfl
@[simp] theorem A.vbat_width : A.vbat.width = 1 := rfl
@[simp] theorem A.pwMode_width : A.pwMode.width = 2 := rfl
@[simp] theorem A.refDead_width : A.refDead.width = 1 := rfl
@[simp] theorem A.pwWake_width : A.pwWake.width = 12 := rfl
@[simp] theorem A.pwDead_width : A.pwDead.width = 1 := rfl
@[simp] theorem A.warmWait_width : A.warmWait.width = 1 := rfl
@[simp] theorem A.drainAt_width : A.drainAt.width = 64 := rfl
@[simp] theorem A.voltAt_width : A.voltAt.width = 64 := rfl
@[simp] theorem A.plPhase_width : A.plPhase.width = 2 := rfl
@[simp] theorem A.ptSeen_width : A.ptSeen.width = 64 := rfl
@[simp] theorem A.ptReq_width : A.ptReq.width = 4 := rfl
@[simp] theorem A.ptSwitch_width : A.ptSwitch.width = 4 := rfl
@[simp] theorem A.ptPs_width : A.ptPs.width = 4 := rfl
@[simp] theorem A.lnPrev_width : A.lnPrev.width = 3 := rfl
@[simp] theorem A.lnSince_width : A.lnSince.width = 64 := rfl
@[simp] theorem A.lnRelock_width : A.lnRelock.width = 1 := rfl
@[simp] theorem A.lnSlot_width : A.lnSlot.width = 6 := rfl
@[simp] theorem A.lnSeq_width : A.lnSeq.width = 16 := rfl
@[simp] theorem A.lnNak_width : A.lnNak.width = 25 := rfl
@[simp] theorem A.lnFails_width : A.lnFails.width = 4 := rfl
@[simp] theorem A.lnTap_width : A.lnTap.width = 8 := rfl
@[simp] theorem A.ptNakBlk_width : A.ptNakBlk.width = 25 := rfl
@[simp] theorem A.ptNakCnt_width : A.ptNakCnt.width = 4 := rfl
@[simp] theorem A.lnTx_width : A.lnTx.width = 3 := rfl
@[simp] theorem A.lnTxSlot_width : A.lnTxSlot.width = 6 := rfl
@[simp] theorem A.lnTxSeq_width : A.lnTxSeq.width = 16 := rfl
@[simp] theorem A.enProv_width : A.enProv.width = 21 := rfl
@[simp] theorem A.kEpoch_width : A.kEpoch.width = 9 := rfl
@[simp] theorem A.strmOver_width : A.strmOver.width = 1 := rfl
@[simp] theorem A.enTail_width : A.enTail.width = 1 := rfl
@[simp] theorem A.enAt_width : A.enAt.width = 64 := rfl
@[simp] theorem A.trAt_width : A.trAt.width = 64 := rfl
@[simp] theorem A.enCount_width : A.enCount.width = 13 := rfl
@[simp] theorem A.trOpen_width : A.trOpen.width = 1 := rfl
@[simp] theorem A.trBest_width : A.trBest.width = 24 := rfl
@[simp] theorem A.trClosed_width : A.trClosed.width = 9 := rfl
@[simp] theorem A.busTok_width : A.busTok.width = 14 := rfl
@[simp] theorem A.busSlots_width : A.busSlots.width = 84 := rfl
@[simp] theorem A.domWake_width : A.domWake.width = 1 := rfl
@[simp] theorem A.refGone_width : A.refGone.width = 1 := rfl
@[simp] theorem A.saveMade_width : A.saveMade.width = 7 := rfl
@[simp] theorem A.sleepPs_width : A.sleepPs.width = 1 := rfl
@[simp] theorem A.padPark_width : A.padPark.width = 1 := rfl
@[simp] theorem A.cnMatch_width : A.cnMatch.width = 32 := rfl
@[simp] theorem A.cnMask_width : A.cnMask.width = 19 := rfl
@[simp] theorem A.pcAt_width : A.pcAt.width = 64 := rfl
@[simp] theorem A.pcTemp_width : A.pcTemp.width = 8 := rfl
@[simp] theorem A.cnSet_width : A.cnSet.width = 1 := rfl
@[simp] theorem A.cnFw_width : A.cnFw.width = 1 := rfl
@[simp] theorem A.cnPath_width : A.cnPath.width = 31 := rfl
@[simp] theorem A.scrubAt_width : A.scrubAt.width = 30 := rfl
@[simp] theorem A.hbmTrn_width : A.hbmTrn.width = 1 := rfl
@[simp] theorem A.pcieDown_width : A.pcieDown.width = 1 := rfl
@[simp] theorem A.hostBar2_width : A.hostBar2.width = 22 := rfl
@[simp] theorem A.hostDm_width : A.hostDm.width = 13 := rfl
@[simp] theorem A.hostErr_width : A.hostErr.width = 32 := rfl
@[simp] theorem A.hostErrAddr_width : A.hostErrAddr.width = 64 := rfl
@[simp] theorem A.hostErrLatch_width : A.hostErrLatch.width = 33 := rfl
@[simp] theorem A.cnGen_width : A.cnGen.width = 2 := rfl
@[simp] theorem A.cnStale_width : A.cnStale.width = 1 := rfl

/-! ### Reads of the store after a write -/

theorem Arr.key_inj (a b : Arr) (i j : Nat) (ha : a.code < 512) (hb : b.code < 512) :
    a.key i = b.key j ↔ a.code = b.code ∧ i = j := by
  simp only [Arr.key]; omega

/-- A read after a write of the same entry. -/
@[simp] theorem State.rd_wr_same (s : State) (a : Arr) (i v : Nat) : (s.wr a i v).rd a i = v % 2 ^ a.width := by
  simp only [State.rd, State.wr]
  rw [Sparse.get_set _ _ _ _ _ _ fun _ => rfl, if_pos rfl, Nat.mod_mod]

/-- An entry has the width of its array. -/
theorem State.rd_lt (s : State) (a : Arr) (i : Nat) : s.rd a i < 2 ^ a.width := Nat.mod_lt _ (Nat.two_pow_pos _)

theorem State.rd_mod (s : State) (a : Arr) (i : Nat) : s.rd a i % 2 ^ a.width = s.rd a i := Nat.mod_mod _ _

theorem State.reg_lt (s : State) (o : Nat) : s.reg o < 2 ^ 32 := s.rd_lt A.reg o

/-- A read of another entry after a write. -/
theorem State.rd_wr_key (s : State) (a b : Arr) (i j v : Nat) (h : ¬ a.key i = b.key j) :
    (s.wr a i v).rd b j = s.rd b j := by
  simp only [State.rd, State.wr]
  rw [Sparse.get_set _ _ _ _ _ _ fun h' => absurd h' h, if_neg h]

/-- A read of another array after a write. -/
@[simp] theorem State.rd_wr_arr (s : State) (a b : Arr) (i j v : Nat) (h : ¬ a.code % 512 = b.code % 512) :
    (s.wr a i v).rd b j = s.rd b j :=
  s.rd_wr_key a b i j v fun e => h (by simp only [Arr.key] at e; omega)

/-- A read of another entry of the array after a write. -/
theorem State.rd_wr_ix (s : State) (a : Arr) (i j v : Nat) (h : ¬ i = j) : (s.wr a i v).rd a j = s.rd a j :=
  s.rd_wr_key a a i j v fun e => h (by simp only [Arr.key] at e; omega)

theorem State.rd_wr (s : State) (a b : Arr) (i j v : Nat) (ha : a.code < 512) (hb : b.code < 512)
    (hw : a.code = b.code → a.width = b.width) :
    (s.wr a i v).rd b j = if a.code = b.code ∧ i = j then v % 2 ^ a.width else s.rd b j := by
  split
  · rename_i h
    have e : b.key j = a.key i := ((Arr.key_inj a b i j ha hb).2 h).symm
    simp only [State.rd, e, State.wr]
    rw [Sparse.get_set _ _ _ _ _ _ fun _ => rfl, if_pos rfl, hw h.1, Nat.mod_mod]
  · rename_i h
    exact s.rd_wr_key a b i j v fun e => h ((Arr.key_inj a b i j ha hb).1 e)

/-- A write changes the key it writes and no other. -/
theorem State.wr_sameBut (s : State) (a : Arr) (i v : Nat) : s.SameBut (s.wr a i v) (· = a.key i) := by
  intro k hk
  simp only [State.wr]
  rw [Sparse.get_set _ _ _ _ _ _ fun h' => absurd h'.symm hk, if_neg fun h' => hk h'.symm]

theorem State.sameBut_refl (s : State) (K : Nat → Prop) : s.SameBut s K := fun _ _ => rfl

theorem State.sameBut_trans (s t u : State) (K : Nat → Prop) (h : s.SameBut t K) (h' : t.SameBut u K) : s.SameBut u K :=
  fun k hk => (h' k hk).trans (h k hk)

theorem State.sameBut_mono (s t : State) (K L : Nat → Prop) (h : s.SameBut t K) (hl : ∀ k, K k → L k) : s.SameBut t L :=
  fun k hk => h k fun hk' => hk (hl k hk')

/-- A chain of updates: the last writes one key. -/
theorem State.wr_sameBut_trans (s t : State) (K : Nat → Prop) (a : Arr) (i v : Nat) (h : s.SameBut t K) (hk : K (a.key i)) :
    s.SameBut (t.wr a i v) K :=
  s.sameBut_trans t _ K h (t.sameBut_mono _ _ K (t.wr_sameBut a i v) fun _ e => e ▸ hk)

/-! ### Register fields -/

/-- A field of a register reads as written. -/
theorem State.rf_wf_same (s : State) (b : Nat) (f : Fld) (v : Nat) (h : f.lo + f.w ≤ 32) :
    (s.wf b f v).rf b f = v % 2 ^ f.w := by
  simp only [State.rf, State.wf, State.reg, State.rd_wr_same]
  rw [show A.reg.width = 32 from rfl, slice_mod _ _ _ _ h, slice_patch_same]

/-- A field of another register reads as before. -/
theorem State.rf_wf_reg (s : State) (b b' : Nat) (f f' : Fld) (v : Nat) (h : ¬ b + f.off = b' + f'.off) :
    (s.wf b f v).rf b' f' = s.rf b' f' := by
  simp only [State.rf, State.wf, State.reg]
  rw [s.rd_wr_ix _ _ _ _ h]

/-- Another field of the same register reads as before. -/
theorem State.rf_wf_bits (s : State) (b : Nat) (f f' : Fld) (v : Nat) (ho : f.off = f'.off)
    (h : f'.lo + f'.w ≤ f.lo ∨ f.lo + f.w ≤ f'.lo) (h' : f'.lo + f'.w ≤ 32) :
    (s.wf b f v).rf b f' = s.rf b f' := by
  simp only [State.rf, State.wf, State.reg, ← ho, State.rd_wr_same]
  rw [show A.reg.width = 32 from rfl, slice_mod _ _ _ _ h', slice_patch_ne _ _ _ _ _ _ h]

@[simp] theorem State.rd_wf (s : State) (a : Arr) (b : Nat) (f : Fld) (v i : Nat) (h : ¬ a.code % 512 = 0) :
    (s.wf b f v).rd a i = s.rd a i :=
  s.rd_wr_arr A.reg a _ i _ (by simpa using Ne.symm h)

theorem State.reg_wf (s : State) (b : Nat) (f : Fld) (v o : Nat) (h : ¬ b + f.off = o) : (s.wf b f v).reg o = s.reg o :=
  s.rd_wr_ix A.reg _ _ _ h

@[simp] theorem State.reg_wr (s : State) (a : Arr) (i v o : Nat) (h : ¬ a.code % 512 = 0) :
    (s.wr a i v).reg o = s.reg o :=
  s.rd_wr_arr a A.reg i o v (by simpa using h)

@[simp] theorem State.rf_wr (s : State) (a : Arr) (i v b : Nat) (f : Fld) (h : ¬ a.code % 512 = 0) :
    (s.wr a i v).rf b f = s.rf b f := by
  simp only [State.rf, s.reg_wr a i v _ h]

theorem State.rf_lt (s : State) (b : Nat) (f : Fld) : s.rf b f < 2 ^ f.w := slice_lt _ _ _

/-! ### Fields of the state after an update -/
@[simp] theorem State.mem_wr (s : State) (a : Arr) (i v : Nat) : (s.wr a i v).mem = s.mem := rfl
@[simp] theorem State.issued_wr (s : State) (a : Arr) (i v : Nat) : (s.wr a i v).issued = s.issued := rfl
@[simp] theorem State.histPend_wr (s : State) (a : Arr) (i v : Nat) : (s.wr a i v).histPend = s.histPend := rfl
@[simp] theorem State.flight_wr (s : State) (a : Arr) (i v : Nat) : (s.wr a i v).flight = s.flight := rfl
@[simp] theorem State.late_wr (s : State) (a : Arr) (i v : Nat) : (s.wr a i v).late = s.late := rfl
@[simp] theorem State.causes_wr (s : State) (a : Arr) (i v : Nat) : (s.wr a i v).causes = s.causes := rfl
@[simp] theorem State.stops_wr (s : State) (a : Arr) (i v : Nat) : (s.wr a i v).stops = s.stops := rfl
@[simp] theorem State.accWait_wr (s : State) (a : Arr) (i v : Nat) : (s.wr a i v).accWait = s.accWait := rfl
@[simp] theorem State.stepRecs_wr (s : State) (a : Arr) (i v : Nat) : (s.wr a i v).stepRecs = s.stepRecs := rfl
@[simp] theorem State.bayReq_wr (s : State) (a : Arr) (i v : Nat) : (s.wr a i v).bayReq = s.bayReq := rfl
@[simp] theorem State.bayRet_wr (s : State) (a : Arr) (i v : Nat) : (s.wr a i v).bayRet = s.bayRet := rfl
@[simp] theorem State.bayDone_wr (s : State) (a : Arr) (i v : Nat) : (s.wr a i v).bayDone = s.bayDone := rfl
@[simp] theorem State.mme_wr (s : State) (a : Arr) (i v : Nat) : (s.wr a i v).mme = s.mme := rfl
@[simp] theorem State.waitPages_wr (s : State) (a : Arr) (i v : Nat) : (s.wr a i v).waitPages = s.waitPages := rfl
@[simp] theorem State.tcache_wr (s : State) (a : Arr) (i v : Nat) : (s.wr a i v).tcache = s.tcache := rfl
@[simp] theorem State.portalRec_wr (s : State) (a : Arr) (i v : Nat) : (s.wr a i v).portalRec = s.portalRec := rfl
@[simp] theorem State.portalMsg_wr (s : State) (a : Arr) (i v : Nat) : (s.wr a i v).portalMsg = s.portalMsg := rfl
@[simp] theorem State.jrspBuf_wr (s : State) (a : Arr) (i v : Nat) : (s.wr a i v).jrspBuf = s.jrspBuf := rfl
@[simp] theorem State.packets_wr (s : State) (a : Arr) (i v : Nat) : (s.wr a i v).packets = s.packets := rfl
@[simp] theorem State.shadow_wr (s : State) (a : Arr) (i v : Nat) : (s.wr a i v).shadow = s.shadow := rfl
@[simp] theorem State.members_wr (s : State) (a : Arr) (i v : Nat) : (s.wr a i v).members = s.members := rfl
@[simp] theorem State.recLog_wr (s : State) (a : Arr) (i v : Nat) : (s.wr a i v).recLog = s.recLog := rfl
@[simp] theorem State.snaps_wr (s : State) (a : Arr) (i v : Nat) : (s.wr a i v).snaps = s.snaps := rfl
@[simp] theorem State.startLines_wr (s : State) (a : Arr) (i v : Nat) : (s.wr a i v).startLines = s.startLines := rfl
@[simp] theorem State.symOut_wr (s : State) (a : Arr) (i v : Nat) : (s.wr a i v).symOut = s.symOut := rfl
@[simp] theorem State.frameOut_wr (s : State) (a : Arr) (i v : Nat) : (s.wr a i v).frameOut = s.frameOut := rfl
@[simp] theorem State.txRest_wr (s : State) (a : Arr) (i v : Nat) : (s.wr a i v).txRest = s.txRest := rfl
@[simp] theorem State.txQueue_wr (s : State) (a : Arr) (i v : Nat) : (s.wr a i v).txQueue = s.txQueue := rfl
@[simp] theorem State.txKept_wr (s : State) (a : Arr) (i v : Nat) : (s.wr a i v).txKept = s.txKept := rfl
@[simp] theorem State.lineOut_wr (s : State) (a : Arr) (i v : Nat) : (s.wr a i v).lineOut = s.lineOut := rfl
@[simp] theorem State.rxBlocks_wr (s : State) (a : Arr) (i v : Nat) : (s.wr a i v).rxBlocks = s.rxBlocks := rfl
@[simp] theorem State.rxFrames_wr (s : State) (a : Arr) (i v : Nat) : (s.wr a i v).rxFrames = s.rxFrames := rfl
@[simp] theorem State.fired_wr (s : State) (a : Arr) (i v : Nat) : (s.wr a i v).fired = s.fired := rfl
@[simp] theorem State.vault_wr (s : State) (a : Arr) (i v : Nat) : (s.wr a i v).vault = s.vault := rfl
@[simp] theorem State.closed_wr (s : State) (a : Arr) (i v : Nat) : (s.wr a i v).closed = s.closed := rfl
@[simp] theorem State.strmHdr_wr (s : State) (a : Arr) (i v : Nat) : (s.wr a i v).strmHdr = s.strmHdr := rfl
@[simp] theorem State.outst_wr (s : State) (a : Arr) (i v : Nat) : (s.wr a i v).outst = s.outst := rfl
@[simp] theorem State.l2_wr (s : State) (a : Arr) (i v : Nat) : (s.wr a i v).l2 = s.l2 := rfl
@[simp] theorem State.repairs_wr (s : State) (a : Arr) (i v : Nat) : (s.wr a i v).repairs = s.repairs := rfl
@[simp] theorem State.corrLog_wr (s : State) (a : Arr) (i v : Nat) : (s.wr a i v).corrLog = s.corrLog := rfl
@[simp] theorem State.aonSave_wr (s : State) (a : Arr) (i v : Nat) : (s.wr a i v).aonSave = s.aonSave := rfl
@[simp] theorem State.saveArea_wr (s : State) (a : Arr) (i v : Nat) : (s.wr a i v).saveArea = s.saveArea := rfl
@[simp] theorem State.out_wr (s : State) (a : Arr) (i v : Nat) : (s.wr a i v).out = s.out := rfl
@[simp] theorem State.rsp_wr (s : State) (a : Arr) (i v : Nat) : (s.wr a i v).rsp = s.rsp := rfl
@[simp] theorem State.freeCtr_wr (s : State) (a : Arr) (i v : Nat) : (s.wr a i v).freeCtr = s.freeCtr := rfl
@[simp] theorem State.farReqs_wr (s : State) (a : Arr) (i v : Nat) : (s.wr a i v).farReqs = s.farReqs := rfl
@[simp] theorem State.netOut_wr (s : State) (a : Arr) (i v : Nat) : (s.wr a i v).netOut = s.netOut := rfl
@[simp] theorem State.held_wr (s : State) (a : Arr) (i v : Nat) : (s.wr a i v).held = s.held := rfl
@[simp] theorem State.resumed_wr (s : State) (a : Arr) (i v : Nat) : (s.wr a i v).resumed = s.resumed := rfl
@[simp] theorem State.actAs_wr (s : State) (a : Arr) (i v : Nat) : (s.wr a i v).actAs = s.actAs := rfl
@[simp] theorem State.pending_wr (s : State) (a : Arr) (i v : Nat) : (s.wr a i v).pending = s.pending := rfl
@[simp] theorem State.mem_wf (s : State) (b : Nat) (f : Fld) (v : Nat) : (s.wf b f v).mem = s.mem := rfl
@[simp] theorem State.issued_wf (s : State) (b : Nat) (f : Fld) (v : Nat) : (s.wf b f v).issued = s.issued := rfl
@[simp] theorem State.histPend_wf (s : State) (b : Nat) (f : Fld) (v : Nat) :
    (s.wf b f v).histPend = s.histPend := rfl
@[simp] theorem State.flight_wf (s : State) (b : Nat) (f : Fld) (v : Nat) : (s.wf b f v).flight = s.flight := rfl
@[simp] theorem State.late_wf (s : State) (b : Nat) (f : Fld) (v : Nat) : (s.wf b f v).late = s.late := rfl
@[simp] theorem State.causes_wf (s : State) (b : Nat) (f : Fld) (v : Nat) : (s.wf b f v).causes = s.causes := rfl
@[simp] theorem State.stops_wf (s : State) (b : Nat) (f : Fld) (v : Nat) : (s.wf b f v).stops = s.stops := rfl
@[simp] theorem State.accWait_wf (s : State) (b : Nat) (f : Fld) (v : Nat) : (s.wf b f v).accWait = s.accWait := rfl
@[simp] theorem State.stepRecs_wf (s : State) (b : Nat) (f : Fld) (v : Nat) :
    (s.wf b f v).stepRecs = s.stepRecs := rfl
@[simp] theorem State.bayReq_wf (s : State) (b : Nat) (f : Fld) (v : Nat) : (s.wf b f v).bayReq = s.bayReq := rfl
@[simp] theorem State.bayRet_wf (s : State) (b : Nat) (f : Fld) (v : Nat) : (s.wf b f v).bayRet = s.bayRet := rfl
@[simp] theorem State.bayDone_wf (s : State) (b : Nat) (f : Fld) (v : Nat) : (s.wf b f v).bayDone = s.bayDone := rfl
@[simp] theorem State.mme_wf (s : State) (b : Nat) (f : Fld) (v : Nat) : (s.wf b f v).mme = s.mme := rfl
@[simp] theorem State.waitPages_wf (s : State) (b : Nat) (f : Fld) (v : Nat) :
    (s.wf b f v).waitPages = s.waitPages := rfl
@[simp] theorem State.tcache_wf (s : State) (b : Nat) (f : Fld) (v : Nat) : (s.wf b f v).tcache = s.tcache := rfl
@[simp] theorem State.portalRec_wf (s : State) (b : Nat) (f : Fld) (v : Nat) :
    (s.wf b f v).portalRec = s.portalRec := rfl
@[simp] theorem State.portalMsg_wf (s : State) (b : Nat) (f : Fld) (v : Nat) :
    (s.wf b f v).portalMsg = s.portalMsg := rfl
@[simp] theorem State.jrspBuf_wf (s : State) (b : Nat) (f : Fld) (v : Nat) : (s.wf b f v).jrspBuf = s.jrspBuf := rfl
@[simp] theorem State.packets_wf (s : State) (b : Nat) (f : Fld) (v : Nat) : (s.wf b f v).packets = s.packets := rfl
@[simp] theorem State.shadow_wf (s : State) (b : Nat) (f : Fld) (v : Nat) : (s.wf b f v).shadow = s.shadow := rfl
@[simp] theorem State.members_wf (s : State) (b : Nat) (f : Fld) (v : Nat) : (s.wf b f v).members = s.members := rfl
@[simp] theorem State.recLog_wf (s : State) (b : Nat) (f : Fld) (v : Nat) : (s.wf b f v).recLog = s.recLog := rfl
@[simp] theorem State.snaps_wf (s : State) (b : Nat) (f : Fld) (v : Nat) : (s.wf b f v).snaps = s.snaps := rfl
@[simp] theorem State.startLines_wf (s : State) (b : Nat) (f : Fld) (v : Nat) :
    (s.wf b f v).startLines = s.startLines := rfl
@[simp] theorem State.symOut_wf (s : State) (b : Nat) (f : Fld) (v : Nat) : (s.wf b f v).symOut = s.symOut := rfl
@[simp] theorem State.frameOut_wf (s : State) (b : Nat) (f : Fld) (v : Nat) :
    (s.wf b f v).frameOut = s.frameOut := rfl
@[simp] theorem State.txRest_wf (s : State) (b : Nat) (f : Fld) (v : Nat) : (s.wf b f v).txRest = s.txRest := rfl
@[simp] theorem State.txQueue_wf (s : State) (b : Nat) (f : Fld) (v : Nat) : (s.wf b f v).txQueue = s.txQueue := rfl
@[simp] theorem State.txKept_wf (s : State) (b : Nat) (f : Fld) (v : Nat) : (s.wf b f v).txKept = s.txKept := rfl
@[simp] theorem State.lineOut_wf (s : State) (b : Nat) (f : Fld) (v : Nat) : (s.wf b f v).lineOut = s.lineOut := rfl
@[simp] theorem State.rxBlocks_wf (s : State) (b : Nat) (f : Fld) (v : Nat) :
    (s.wf b f v).rxBlocks = s.rxBlocks := rfl
@[simp] theorem State.rxFrames_wf (s : State) (b : Nat) (f : Fld) (v : Nat) :
    (s.wf b f v).rxFrames = s.rxFrames := rfl
@[simp] theorem State.fired_wf (s : State) (b : Nat) (f : Fld) (v : Nat) : (s.wf b f v).fired = s.fired := rfl
@[simp] theorem State.vault_wf (s : State) (b : Nat) (f : Fld) (v : Nat) : (s.wf b f v).vault = s.vault := rfl
@[simp] theorem State.closed_wf (s : State) (b : Nat) (f : Fld) (v : Nat) : (s.wf b f v).closed = s.closed := rfl
@[simp] theorem State.strmHdr_wf (s : State) (b : Nat) (f : Fld) (v : Nat) : (s.wf b f v).strmHdr = s.strmHdr := rfl
@[simp] theorem State.outst_wf (s : State) (b : Nat) (f : Fld) (v : Nat) : (s.wf b f v).outst = s.outst := rfl
@[simp] theorem State.l2_wf (s : State) (b : Nat) (f : Fld) (v : Nat) : (s.wf b f v).l2 = s.l2 := rfl
@[simp] theorem State.repairs_wf (s : State) (b : Nat) (f : Fld) (v : Nat) : (s.wf b f v).repairs = s.repairs := rfl
@[simp] theorem State.corrLog_wf (s : State) (b : Nat) (f : Fld) (v : Nat) : (s.wf b f v).corrLog = s.corrLog := rfl
@[simp] theorem State.aonSave_wf (s : State) (b : Nat) (f : Fld) (v : Nat) : (s.wf b f v).aonSave = s.aonSave := rfl
@[simp] theorem State.saveArea_wf (s : State) (b : Nat) (f : Fld) (v : Nat) :
    (s.wf b f v).saveArea = s.saveArea := rfl
@[simp] theorem State.out_wf (s : State) (b : Nat) (f : Fld) (v : Nat) : (s.wf b f v).out = s.out := rfl
@[simp] theorem State.rsp_wf (s : State) (b : Nat) (f : Fld) (v : Nat) : (s.wf b f v).rsp = s.rsp := rfl
@[simp] theorem State.freeCtr_wf (s : State) (b : Nat) (f : Fld) (v : Nat) : (s.wf b f v).freeCtr = s.freeCtr := rfl
@[simp] theorem State.farReqs_wf (s : State) (b : Nat) (f : Fld) (v : Nat) : (s.wf b f v).farReqs = s.farReqs := rfl
@[simp] theorem State.netOut_wf (s : State) (b : Nat) (f : Fld) (v : Nat) : (s.wf b f v).netOut = s.netOut := rfl
@[simp] theorem State.held_wf (s : State) (b : Nat) (f : Fld) (v : Nat) : (s.wf b f v).held = s.held := rfl
@[simp] theorem State.resumed_wf (s : State) (b : Nat) (f : Fld) (v : Nat) : (s.wf b f v).resumed = s.resumed := rfl
@[simp] theorem State.actAs_wf (s : State) (b : Nat) (f : Fld) (v : Nat) : (s.wf b f v).actAs = s.actAs := rfl
@[simp] theorem State.pending_wf (s : State) (b : Nat) (f : Fld) (v : Nat) : (s.wf b f v).pending = s.pending := rfl
@[simp] theorem State.mem_wrE (s : State) (a : Arr) (i v : Nat) : (s.wrE a i v).mem = s.mem := rfl
@[simp] theorem State.issued_wrE (s : State) (a : Arr) (i v : Nat) : (s.wrE a i v).issued = s.issued := rfl
@[simp] theorem State.histPend_wrE (s : State) (a : Arr) (i v : Nat) : (s.wrE a i v).histPend = s.histPend := rfl
@[simp] theorem State.flight_wrE (s : State) (a : Arr) (i v : Nat) : (s.wrE a i v).flight = s.flight := rfl
@[simp] theorem State.late_wrE (s : State) (a : Arr) (i v : Nat) : (s.wrE a i v).late = s.late := rfl
@[simp] theorem State.causes_wrE (s : State) (a : Arr) (i v : Nat) : (s.wrE a i v).causes = s.causes := rfl
@[simp] theorem State.stops_wrE (s : State) (a : Arr) (i v : Nat) : (s.wrE a i v).stops = s.stops := rfl
@[simp] theorem State.accWait_wrE (s : State) (a : Arr) (i v : Nat) : (s.wrE a i v).accWait = s.accWait := rfl
@[simp] theorem State.stepRecs_wrE (s : State) (a : Arr) (i v : Nat) : (s.wrE a i v).stepRecs = s.stepRecs := rfl
@[simp] theorem State.bayReq_wrE (s : State) (a : Arr) (i v : Nat) : (s.wrE a i v).bayReq = s.bayReq := rfl
@[simp] theorem State.bayRet_wrE (s : State) (a : Arr) (i v : Nat) : (s.wrE a i v).bayRet = s.bayRet := rfl
@[simp] theorem State.bayDone_wrE (s : State) (a : Arr) (i v : Nat) : (s.wrE a i v).bayDone = s.bayDone := rfl
@[simp] theorem State.mme_wrE (s : State) (a : Arr) (i v : Nat) : (s.wrE a i v).mme = s.mme := rfl
@[simp] theorem State.waitPages_wrE (s : State) (a : Arr) (i v : Nat) : (s.wrE a i v).waitPages = s.waitPages := rfl
@[simp] theorem State.tcache_wrE (s : State) (a : Arr) (i v : Nat) : (s.wrE a i v).tcache = s.tcache := rfl
@[simp] theorem State.portalRec_wrE (s : State) (a : Arr) (i v : Nat) : (s.wrE a i v).portalRec = s.portalRec := rfl
@[simp] theorem State.portalMsg_wrE (s : State) (a : Arr) (i v : Nat) : (s.wrE a i v).portalMsg = s.portalMsg := rfl
@[simp] theorem State.jrspBuf_wrE (s : State) (a : Arr) (i v : Nat) : (s.wrE a i v).jrspBuf = s.jrspBuf := rfl
@[simp] theorem State.packets_wrE (s : State) (a : Arr) (i v : Nat) : (s.wrE a i v).packets = s.packets := rfl
@[simp] theorem State.shadow_wrE (s : State) (a : Arr) (i v : Nat) : (s.wrE a i v).shadow = s.shadow := rfl
@[simp] theorem State.members_wrE (s : State) (a : Arr) (i v : Nat) : (s.wrE a i v).members = s.members := rfl
@[simp] theorem State.recLog_wrE (s : State) (a : Arr) (i v : Nat) : (s.wrE a i v).recLog = s.recLog := rfl
@[simp] theorem State.snaps_wrE (s : State) (a : Arr) (i v : Nat) : (s.wrE a i v).snaps = s.snaps := rfl
@[simp] theorem State.startLines_wrE (s : State) (a : Arr) (i v : Nat) :
    (s.wrE a i v).startLines = s.startLines := rfl
@[simp] theorem State.symOut_wrE (s : State) (a : Arr) (i v : Nat) : (s.wrE a i v).symOut = s.symOut := rfl
@[simp] theorem State.frameOut_wrE (s : State) (a : Arr) (i v : Nat) : (s.wrE a i v).frameOut = s.frameOut := rfl
@[simp] theorem State.txRest_wrE (s : State) (a : Arr) (i v : Nat) : (s.wrE a i v).txRest = s.txRest := rfl
@[simp] theorem State.txQueue_wrE (s : State) (a : Arr) (i v : Nat) : (s.wrE a i v).txQueue = s.txQueue := rfl
@[simp] theorem State.txKept_wrE (s : State) (a : Arr) (i v : Nat) : (s.wrE a i v).txKept = s.txKept := rfl
@[simp] theorem State.lineOut_wrE (s : State) (a : Arr) (i v : Nat) : (s.wrE a i v).lineOut = s.lineOut := rfl
@[simp] theorem State.rxBlocks_wrE (s : State) (a : Arr) (i v : Nat) : (s.wrE a i v).rxBlocks = s.rxBlocks := rfl
@[simp] theorem State.rxFrames_wrE (s : State) (a : Arr) (i v : Nat) : (s.wrE a i v).rxFrames = s.rxFrames := rfl
@[simp] theorem State.fired_wrE (s : State) (a : Arr) (i v : Nat) : (s.wrE a i v).fired = s.fired := rfl
@[simp] theorem State.vault_wrE (s : State) (a : Arr) (i v : Nat) : (s.wrE a i v).vault = s.vault := rfl
@[simp] theorem State.closed_wrE (s : State) (a : Arr) (i v : Nat) : (s.wrE a i v).closed = s.closed := rfl
@[simp] theorem State.strmHdr_wrE (s : State) (a : Arr) (i v : Nat) : (s.wrE a i v).strmHdr = s.strmHdr := rfl
@[simp] theorem State.outst_wrE (s : State) (a : Arr) (i v : Nat) : (s.wrE a i v).outst = s.outst := rfl
@[simp] theorem State.l2_wrE (s : State) (a : Arr) (i v : Nat) : (s.wrE a i v).l2 = s.l2 := rfl
@[simp] theorem State.repairs_wrE (s : State) (a : Arr) (i v : Nat) : (s.wrE a i v).repairs = s.repairs := rfl
@[simp] theorem State.corrLog_wrE (s : State) (a : Arr) (i v : Nat) : (s.wrE a i v).corrLog = s.corrLog := rfl
@[simp] theorem State.aonSave_wrE (s : State) (a : Arr) (i v : Nat) : (s.wrE a i v).aonSave = s.aonSave := rfl
@[simp] theorem State.saveArea_wrE (s : State) (a : Arr) (i v : Nat) : (s.wrE a i v).saveArea = s.saveArea := rfl
@[simp] theorem State.out_wrE (s : State) (a : Arr) (i v : Nat) : (s.wrE a i v).out = s.out := rfl
@[simp] theorem State.rsp_wrE (s : State) (a : Arr) (i v : Nat) : (s.wrE a i v).rsp = s.rsp := rfl
@[simp] theorem State.freeCtr_wrE (s : State) (a : Arr) (i v : Nat) : (s.wrE a i v).freeCtr = s.freeCtr := rfl
@[simp] theorem State.farReqs_wrE (s : State) (a : Arr) (i v : Nat) : (s.wrE a i v).farReqs = s.farReqs := rfl
@[simp] theorem State.netOut_wrE (s : State) (a : Arr) (i v : Nat) : (s.wrE a i v).netOut = s.netOut := rfl
@[simp] theorem State.held_wrE (s : State) (a : Arr) (i v : Nat) : (s.wrE a i v).held = s.held := rfl
@[simp] theorem State.resumed_wrE (s : State) (a : Arr) (i v : Nat) : (s.wrE a i v).resumed = s.resumed := rfl
@[simp] theorem State.actAs_wrE (s : State) (a : Arr) (i v : Nat) : (s.wrE a i v).actAs = s.actAs := rfl
@[simp] theorem State.pending_wrE (s : State) (a : Arr) (i v : Nat) : (s.wrE a i v).pending = s.pending := rfl
@[simp] theorem State.mem_cnt (s : State) (b : Nat) (f : Fld) (n : Nat) : (s.cnt b f n).mem = s.mem := rfl
@[simp] theorem State.issued_cnt (s : State) (b : Nat) (f : Fld) (n : Nat) : (s.cnt b f n).issued = s.issued := rfl
@[simp] theorem State.histPend_cnt (s : State) (b : Nat) (f : Fld) (n : Nat) :
    (s.cnt b f n).histPend = s.histPend := rfl
@[simp] theorem State.flight_cnt (s : State) (b : Nat) (f : Fld) (n : Nat) : (s.cnt b f n).flight = s.flight := rfl
@[simp] theorem State.late_cnt (s : State) (b : Nat) (f : Fld) (n : Nat) : (s.cnt b f n).late = s.late := rfl
@[simp] theorem State.causes_cnt (s : State) (b : Nat) (f : Fld) (n : Nat) : (s.cnt b f n).causes = s.causes := rfl
@[simp] theorem State.stops_cnt (s : State) (b : Nat) (f : Fld) (n : Nat) : (s.cnt b f n).stops = s.stops := rfl
@[simp] theorem State.accWait_cnt (s : State) (b : Nat) (f : Fld) (n : Nat) : (s.cnt b f n).accWait = s.accWait := rfl
@[simp] theorem State.stepRecs_cnt (s : State) (b : Nat) (f : Fld) (n : Nat) :
    (s.cnt b f n).stepRecs = s.stepRecs := rfl
@[simp] theorem State.bayReq_cnt (s : State) (b : Nat) (f : Fld) (n : Nat) : (s.cnt b f n).bayReq = s.bayReq := rfl
@[simp] theorem State.bayRet_cnt (s : State) (b : Nat) (f : Fld) (n : Nat) : (s.cnt b f n).bayRet = s.bayRet := rfl
@[simp] theorem State.bayDone_cnt (s : State) (b : Nat) (f : Fld) (n : Nat) : (s.cnt b f n).bayDone = s.bayDone := rfl
@[simp] theorem State.mme_cnt (s : State) (b : Nat) (f : Fld) (n : Nat) : (s.cnt b f n).mme = s.mme := rfl
@[simp] theorem State.waitPages_cnt (s : State) (b : Nat) (f : Fld) (n : Nat) :
    (s.cnt b f n).waitPages = s.waitPages := rfl
@[simp] theorem State.tcache_cnt (s : State) (b : Nat) (f : Fld) (n : Nat) : (s.cnt b f n).tcache = s.tcache := rfl
@[simp] theorem State.portalRec_cnt (s : State) (b : Nat) (f : Fld) (n : Nat) :
    (s.cnt b f n).portalRec = s.portalRec := rfl
@[simp] theorem State.portalMsg_cnt (s : State) (b : Nat) (f : Fld) (n : Nat) :
    (s.cnt b f n).portalMsg = s.portalMsg := rfl
@[simp] theorem State.jrspBuf_cnt (s : State) (b : Nat) (f : Fld) (n : Nat) : (s.cnt b f n).jrspBuf = s.jrspBuf := rfl
@[simp] theorem State.packets_cnt (s : State) (b : Nat) (f : Fld) (n : Nat) : (s.cnt b f n).packets = s.packets := rfl
@[simp] theorem State.shadow_cnt (s : State) (b : Nat) (f : Fld) (n : Nat) : (s.cnt b f n).shadow = s.shadow := rfl
@[simp] theorem State.members_cnt (s : State) (b : Nat) (f : Fld) (n : Nat) : (s.cnt b f n).members = s.members := rfl
@[simp] theorem State.recLog_cnt (s : State) (b : Nat) (f : Fld) (n : Nat) : (s.cnt b f n).recLog = s.recLog := rfl
@[simp] theorem State.snaps_cnt (s : State) (b : Nat) (f : Fld) (n : Nat) : (s.cnt b f n).snaps = s.snaps := rfl
@[simp] theorem State.startLines_cnt (s : State) (b : Nat) (f : Fld) (n : Nat) :
    (s.cnt b f n).startLines = s.startLines := rfl
@[simp] theorem State.symOut_cnt (s : State) (b : Nat) (f : Fld) (n : Nat) : (s.cnt b f n).symOut = s.symOut := rfl
@[simp] theorem State.frameOut_cnt (s : State) (b : Nat) (f : Fld) (n : Nat) :
    (s.cnt b f n).frameOut = s.frameOut := rfl
@[simp] theorem State.txRest_cnt (s : State) (b : Nat) (f : Fld) (n : Nat) : (s.cnt b f n).txRest = s.txRest := rfl
@[simp] theorem State.txQueue_cnt (s : State) (b : Nat) (f : Fld) (n : Nat) : (s.cnt b f n).txQueue = s.txQueue := rfl
@[simp] theorem State.txKept_cnt (s : State) (b : Nat) (f : Fld) (n : Nat) : (s.cnt b f n).txKept = s.txKept := rfl
@[simp] theorem State.lineOut_cnt (s : State) (b : Nat) (f : Fld) (n : Nat) : (s.cnt b f n).lineOut = s.lineOut := rfl
@[simp] theorem State.rxBlocks_cnt (s : State) (b : Nat) (f : Fld) (n : Nat) :
    (s.cnt b f n).rxBlocks = s.rxBlocks := rfl
@[simp] theorem State.rxFrames_cnt (s : State) (b : Nat) (f : Fld) (n : Nat) :
    (s.cnt b f n).rxFrames = s.rxFrames := rfl
@[simp] theorem State.fired_cnt (s : State) (b : Nat) (f : Fld) (n : Nat) : (s.cnt b f n).fired = s.fired := rfl
@[simp] theorem State.vault_cnt (s : State) (b : Nat) (f : Fld) (n : Nat) : (s.cnt b f n).vault = s.vault := rfl
@[simp] theorem State.closed_cnt (s : State) (b : Nat) (f : Fld) (n : Nat) : (s.cnt b f n).closed = s.closed := rfl
@[simp] theorem State.strmHdr_cnt (s : State) (b : Nat) (f : Fld) (n : Nat) : (s.cnt b f n).strmHdr = s.strmHdr := rfl
@[simp] theorem State.outst_cnt (s : State) (b : Nat) (f : Fld) (n : Nat) : (s.cnt b f n).outst = s.outst := rfl
@[simp] theorem State.l2_cnt (s : State) (b : Nat) (f : Fld) (n : Nat) : (s.cnt b f n).l2 = s.l2 := rfl
@[simp] theorem State.repairs_cnt (s : State) (b : Nat) (f : Fld) (n : Nat) : (s.cnt b f n).repairs = s.repairs := rfl
@[simp] theorem State.corrLog_cnt (s : State) (b : Nat) (f : Fld) (n : Nat) : (s.cnt b f n).corrLog = s.corrLog := rfl
@[simp] theorem State.aonSave_cnt (s : State) (b : Nat) (f : Fld) (n : Nat) : (s.cnt b f n).aonSave = s.aonSave := rfl
@[simp] theorem State.saveArea_cnt (s : State) (b : Nat) (f : Fld) (n : Nat) :
    (s.cnt b f n).saveArea = s.saveArea := rfl
@[simp] theorem State.out_cnt (s : State) (b : Nat) (f : Fld) (n : Nat) : (s.cnt b f n).out = s.out := rfl
@[simp] theorem State.rsp_cnt (s : State) (b : Nat) (f : Fld) (n : Nat) : (s.cnt b f n).rsp = s.rsp := rfl
@[simp] theorem State.freeCtr_cnt (s : State) (b : Nat) (f : Fld) (n : Nat) : (s.cnt b f n).freeCtr = s.freeCtr := rfl
@[simp] theorem State.farReqs_cnt (s : State) (b : Nat) (f : Fld) (n : Nat) : (s.cnt b f n).farReqs = s.farReqs := rfl
@[simp] theorem State.netOut_cnt (s : State) (b : Nat) (f : Fld) (n : Nat) : (s.cnt b f n).netOut = s.netOut := rfl
@[simp] theorem State.held_cnt (s : State) (b : Nat) (f : Fld) (n : Nat) : (s.cnt b f n).held = s.held := rfl
@[simp] theorem State.resumed_cnt (s : State) (b : Nat) (f : Fld) (n : Nat) : (s.cnt b f n).resumed = s.resumed := rfl
@[simp] theorem State.actAs_cnt (s : State) (b : Nat) (f : Fld) (n : Nat) : (s.cnt b f n).actAs = s.actAs := rfl
@[simp] theorem State.pending_cnt (s : State) (b : Nat) (f : Fld) (n : Nat) : (s.cnt b f n).pending = s.pending := rfl
@[simp] theorem State.mem_orf (s : State) (b : Nat) (f : Fld) (m : Nat) : (s.orf b f m).mem = s.mem := rfl
@[simp] theorem State.issued_orf (s : State) (b : Nat) (f : Fld) (m : Nat) : (s.orf b f m).issued = s.issued := rfl
@[simp] theorem State.histPend_orf (s : State) (b : Nat) (f : Fld) (m : Nat) :
    (s.orf b f m).histPend = s.histPend := rfl
@[simp] theorem State.flight_orf (s : State) (b : Nat) (f : Fld) (m : Nat) : (s.orf b f m).flight = s.flight := rfl
@[simp] theorem State.late_orf (s : State) (b : Nat) (f : Fld) (m : Nat) : (s.orf b f m).late = s.late := rfl
@[simp] theorem State.causes_orf (s : State) (b : Nat) (f : Fld) (m : Nat) : (s.orf b f m).causes = s.causes := rfl
@[simp] theorem State.stops_orf (s : State) (b : Nat) (f : Fld) (m : Nat) : (s.orf b f m).stops = s.stops := rfl
@[simp] theorem State.accWait_orf (s : State) (b : Nat) (f : Fld) (m : Nat) : (s.orf b f m).accWait = s.accWait := rfl
@[simp] theorem State.stepRecs_orf (s : State) (b : Nat) (f : Fld) (m : Nat) :
    (s.orf b f m).stepRecs = s.stepRecs := rfl
@[simp] theorem State.bayReq_orf (s : State) (b : Nat) (f : Fld) (m : Nat) : (s.orf b f m).bayReq = s.bayReq := rfl
@[simp] theorem State.bayRet_orf (s : State) (b : Nat) (f : Fld) (m : Nat) : (s.orf b f m).bayRet = s.bayRet := rfl
@[simp] theorem State.bayDone_orf (s : State) (b : Nat) (f : Fld) (m : Nat) : (s.orf b f m).bayDone = s.bayDone := rfl
@[simp] theorem State.mme_orf (s : State) (b : Nat) (f : Fld) (m : Nat) : (s.orf b f m).mme = s.mme := rfl
@[simp] theorem State.waitPages_orf (s : State) (b : Nat) (f : Fld) (m : Nat) :
    (s.orf b f m).waitPages = s.waitPages := rfl
@[simp] theorem State.tcache_orf (s : State) (b : Nat) (f : Fld) (m : Nat) : (s.orf b f m).tcache = s.tcache := rfl
@[simp] theorem State.portalRec_orf (s : State) (b : Nat) (f : Fld) (m : Nat) :
    (s.orf b f m).portalRec = s.portalRec := rfl
@[simp] theorem State.portalMsg_orf (s : State) (b : Nat) (f : Fld) (m : Nat) :
    (s.orf b f m).portalMsg = s.portalMsg := rfl
@[simp] theorem State.jrspBuf_orf (s : State) (b : Nat) (f : Fld) (m : Nat) : (s.orf b f m).jrspBuf = s.jrspBuf := rfl
@[simp] theorem State.packets_orf (s : State) (b : Nat) (f : Fld) (m : Nat) : (s.orf b f m).packets = s.packets := rfl
@[simp] theorem State.shadow_orf (s : State) (b : Nat) (f : Fld) (m : Nat) : (s.orf b f m).shadow = s.shadow := rfl
@[simp] theorem State.members_orf (s : State) (b : Nat) (f : Fld) (m : Nat) : (s.orf b f m).members = s.members := rfl
@[simp] theorem State.recLog_orf (s : State) (b : Nat) (f : Fld) (m : Nat) : (s.orf b f m).recLog = s.recLog := rfl
@[simp] theorem State.snaps_orf (s : State) (b : Nat) (f : Fld) (m : Nat) : (s.orf b f m).snaps = s.snaps := rfl
@[simp] theorem State.startLines_orf (s : State) (b : Nat) (f : Fld) (m : Nat) :
    (s.orf b f m).startLines = s.startLines := rfl
@[simp] theorem State.symOut_orf (s : State) (b : Nat) (f : Fld) (m : Nat) : (s.orf b f m).symOut = s.symOut := rfl
@[simp] theorem State.frameOut_orf (s : State) (b : Nat) (f : Fld) (m : Nat) :
    (s.orf b f m).frameOut = s.frameOut := rfl
@[simp] theorem State.txRest_orf (s : State) (b : Nat) (f : Fld) (m : Nat) : (s.orf b f m).txRest = s.txRest := rfl
@[simp] theorem State.txQueue_orf (s : State) (b : Nat) (f : Fld) (m : Nat) : (s.orf b f m).txQueue = s.txQueue := rfl
@[simp] theorem State.txKept_orf (s : State) (b : Nat) (f : Fld) (m : Nat) : (s.orf b f m).txKept = s.txKept := rfl
@[simp] theorem State.lineOut_orf (s : State) (b : Nat) (f : Fld) (m : Nat) : (s.orf b f m).lineOut = s.lineOut := rfl
@[simp] theorem State.rxBlocks_orf (s : State) (b : Nat) (f : Fld) (m : Nat) :
    (s.orf b f m).rxBlocks = s.rxBlocks := rfl
@[simp] theorem State.rxFrames_orf (s : State) (b : Nat) (f : Fld) (m : Nat) :
    (s.orf b f m).rxFrames = s.rxFrames := rfl
@[simp] theorem State.fired_orf (s : State) (b : Nat) (f : Fld) (m : Nat) : (s.orf b f m).fired = s.fired := rfl
@[simp] theorem State.vault_orf (s : State) (b : Nat) (f : Fld) (m : Nat) : (s.orf b f m).vault = s.vault := rfl
@[simp] theorem State.closed_orf (s : State) (b : Nat) (f : Fld) (m : Nat) : (s.orf b f m).closed = s.closed := rfl
@[simp] theorem State.strmHdr_orf (s : State) (b : Nat) (f : Fld) (m : Nat) : (s.orf b f m).strmHdr = s.strmHdr := rfl
@[simp] theorem State.outst_orf (s : State) (b : Nat) (f : Fld) (m : Nat) : (s.orf b f m).outst = s.outst := rfl
@[simp] theorem State.l2_orf (s : State) (b : Nat) (f : Fld) (m : Nat) : (s.orf b f m).l2 = s.l2 := rfl
@[simp] theorem State.repairs_orf (s : State) (b : Nat) (f : Fld) (m : Nat) : (s.orf b f m).repairs = s.repairs := rfl
@[simp] theorem State.corrLog_orf (s : State) (b : Nat) (f : Fld) (m : Nat) : (s.orf b f m).corrLog = s.corrLog := rfl
@[simp] theorem State.aonSave_orf (s : State) (b : Nat) (f : Fld) (m : Nat) : (s.orf b f m).aonSave = s.aonSave := rfl
@[simp] theorem State.saveArea_orf (s : State) (b : Nat) (f : Fld) (m : Nat) :
    (s.orf b f m).saveArea = s.saveArea := rfl
@[simp] theorem State.out_orf (s : State) (b : Nat) (f : Fld) (m : Nat) : (s.orf b f m).out = s.out := rfl
@[simp] theorem State.rsp_orf (s : State) (b : Nat) (f : Fld) (m : Nat) : (s.orf b f m).rsp = s.rsp := rfl
@[simp] theorem State.freeCtr_orf (s : State) (b : Nat) (f : Fld) (m : Nat) : (s.orf b f m).freeCtr = s.freeCtr := rfl
@[simp] theorem State.farReqs_orf (s : State) (b : Nat) (f : Fld) (m : Nat) : (s.orf b f m).farReqs = s.farReqs := rfl
@[simp] theorem State.netOut_orf (s : State) (b : Nat) (f : Fld) (m : Nat) : (s.orf b f m).netOut = s.netOut := rfl
@[simp] theorem State.held_orf (s : State) (b : Nat) (f : Fld) (m : Nat) : (s.orf b f m).held = s.held := rfl
@[simp] theorem State.resumed_orf (s : State) (b : Nat) (f : Fld) (m : Nat) : (s.orf b f m).resumed = s.resumed := rfl
@[simp] theorem State.actAs_orf (s : State) (b : Nat) (f : Fld) (m : Nat) : (s.orf b f m).actAs = s.actAs := rfl
@[simp] theorem State.pending_orf (s : State) (b : Nat) (f : Fld) (m : Nat) : (s.orf b f m).pending = s.pending := rfl
@[simp] theorem State.mem_setPair (s : State) (o v : Nat) : (s.setPair o v).mem = s.mem := rfl
@[simp] theorem State.issued_setPair (s : State) (o v : Nat) : (s.setPair o v).issued = s.issued := rfl
@[simp] theorem State.histPend_setPair (s : State) (o v : Nat) : (s.setPair o v).histPend = s.histPend := rfl
@[simp] theorem State.flight_setPair (s : State) (o v : Nat) : (s.setPair o v).flight = s.flight := rfl
@[simp] theorem State.late_setPair (s : State) (o v : Nat) : (s.setPair o v).late = s.late := rfl
@[simp] theorem State.causes_setPair (s : State) (o v : Nat) : (s.setPair o v).causes = s.causes := rfl
@[simp] theorem State.stops_setPair (s : State) (o v : Nat) : (s.setPair o v).stops = s.stops := rfl
@[simp] theorem State.accWait_setPair (s : State) (o v : Nat) : (s.setPair o v).accWait = s.accWait := rfl
@[simp] theorem State.stepRecs_setPair (s : State) (o v : Nat) : (s.setPair o v).stepRecs = s.stepRecs := rfl
@[simp] theorem State.bayReq_setPair (s : State) (o v : Nat) : (s.setPair o v).bayReq = s.bayReq := rfl
@[simp] theorem State.bayRet_setPair (s : State) (o v : Nat) : (s.setPair o v).bayRet = s.bayRet := rfl
@[simp] theorem State.bayDone_setPair (s : State) (o v : Nat) : (s.setPair o v).bayDone = s.bayDone := rfl
@[simp] theorem State.mme_setPair (s : State) (o v : Nat) : (s.setPair o v).mme = s.mme := rfl
@[simp] theorem State.waitPages_setPair (s : State) (o v : Nat) : (s.setPair o v).waitPages = s.waitPages := rfl
@[simp] theorem State.tcache_setPair (s : State) (o v : Nat) : (s.setPair o v).tcache = s.tcache := rfl
@[simp] theorem State.portalRec_setPair (s : State) (o v : Nat) : (s.setPair o v).portalRec = s.portalRec := rfl
@[simp] theorem State.portalMsg_setPair (s : State) (o v : Nat) : (s.setPair o v).portalMsg = s.portalMsg := rfl
@[simp] theorem State.jrspBuf_setPair (s : State) (o v : Nat) : (s.setPair o v).jrspBuf = s.jrspBuf := rfl
@[simp] theorem State.packets_setPair (s : State) (o v : Nat) : (s.setPair o v).packets = s.packets := rfl
@[simp] theorem State.shadow_setPair (s : State) (o v : Nat) : (s.setPair o v).shadow = s.shadow := rfl
@[simp] theorem State.members_setPair (s : State) (o v : Nat) : (s.setPair o v).members = s.members := rfl
@[simp] theorem State.recLog_setPair (s : State) (o v : Nat) : (s.setPair o v).recLog = s.recLog := rfl
@[simp] theorem State.snaps_setPair (s : State) (o v : Nat) : (s.setPair o v).snaps = s.snaps := rfl
@[simp] theorem State.startLines_setPair (s : State) (o v : Nat) : (s.setPair o v).startLines = s.startLines := rfl
@[simp] theorem State.symOut_setPair (s : State) (o v : Nat) : (s.setPair o v).symOut = s.symOut := rfl
@[simp] theorem State.frameOut_setPair (s : State) (o v : Nat) : (s.setPair o v).frameOut = s.frameOut := rfl
@[simp] theorem State.txRest_setPair (s : State) (o v : Nat) : (s.setPair o v).txRest = s.txRest := rfl
@[simp] theorem State.txQueue_setPair (s : State) (o v : Nat) : (s.setPair o v).txQueue = s.txQueue := rfl
@[simp] theorem State.txKept_setPair (s : State) (o v : Nat) : (s.setPair o v).txKept = s.txKept := rfl
@[simp] theorem State.lineOut_setPair (s : State) (o v : Nat) : (s.setPair o v).lineOut = s.lineOut := rfl
@[simp] theorem State.rxBlocks_setPair (s : State) (o v : Nat) : (s.setPair o v).rxBlocks = s.rxBlocks := rfl
@[simp] theorem State.rxFrames_setPair (s : State) (o v : Nat) : (s.setPair o v).rxFrames = s.rxFrames := rfl
@[simp] theorem State.fired_setPair (s : State) (o v : Nat) : (s.setPair o v).fired = s.fired := rfl
@[simp] theorem State.vault_setPair (s : State) (o v : Nat) : (s.setPair o v).vault = s.vault := rfl
@[simp] theorem State.closed_setPair (s : State) (o v : Nat) : (s.setPair o v).closed = s.closed := rfl
@[simp] theorem State.strmHdr_setPair (s : State) (o v : Nat) : (s.setPair o v).strmHdr = s.strmHdr := rfl
@[simp] theorem State.outst_setPair (s : State) (o v : Nat) : (s.setPair o v).outst = s.outst := rfl
@[simp] theorem State.l2_setPair (s : State) (o v : Nat) : (s.setPair o v).l2 = s.l2 := rfl
@[simp] theorem State.repairs_setPair (s : State) (o v : Nat) : (s.setPair o v).repairs = s.repairs := rfl
@[simp] theorem State.corrLog_setPair (s : State) (o v : Nat) : (s.setPair o v).corrLog = s.corrLog := rfl
@[simp] theorem State.aonSave_setPair (s : State) (o v : Nat) : (s.setPair o v).aonSave = s.aonSave := rfl
@[simp] theorem State.saveArea_setPair (s : State) (o v : Nat) : (s.setPair o v).saveArea = s.saveArea := rfl
@[simp] theorem State.out_setPair (s : State) (o v : Nat) : (s.setPair o v).out = s.out := rfl
@[simp] theorem State.rsp_setPair (s : State) (o v : Nat) : (s.setPair o v).rsp = s.rsp := rfl
@[simp] theorem State.freeCtr_setPair (s : State) (o v : Nat) : (s.setPair o v).freeCtr = s.freeCtr := rfl
@[simp] theorem State.farReqs_setPair (s : State) (o v : Nat) : (s.setPair o v).farReqs = s.farReqs := rfl
@[simp] theorem State.netOut_setPair (s : State) (o v : Nat) : (s.setPair o v).netOut = s.netOut := rfl
@[simp] theorem State.held_setPair (s : State) (o v : Nat) : (s.setPair o v).held = s.held := rfl
@[simp] theorem State.resumed_setPair (s : State) (o v : Nat) : (s.setPair o v).resumed = s.resumed := rfl
@[simp] theorem State.actAs_setPair (s : State) (o v : Nat) : (s.setPair o v).actAs = s.actAs := rfl
@[simp] theorem State.pending_setPair (s : State) (o v : Nat) : (s.setPair o v).pending = s.pending := rfl
@[simp] theorem State.mem_drop (s : State) (a : Arr) (p : Nat → Bool) : (s.drop a p).mem = s.mem := rfl
@[simp] theorem State.issued_drop (s : State) (a : Arr) (p : Nat → Bool) : (s.drop a p).issued = s.issued := rfl
@[simp] theorem State.histPend_drop (s : State) (a : Arr) (p : Nat → Bool) : (s.drop a p).histPend = s.histPend := rfl
@[simp] theorem State.flight_drop (s : State) (a : Arr) (p : Nat → Bool) : (s.drop a p).flight = s.flight := rfl
@[simp] theorem State.late_drop (s : State) (a : Arr) (p : Nat → Bool) : (s.drop a p).late = s.late := rfl
@[simp] theorem State.causes_drop (s : State) (a : Arr) (p : Nat → Bool) : (s.drop a p).causes = s.causes := rfl
@[simp] theorem State.stops_drop (s : State) (a : Arr) (p : Nat → Bool) : (s.drop a p).stops = s.stops := rfl
@[simp] theorem State.accWait_drop (s : State) (a : Arr) (p : Nat → Bool) : (s.drop a p).accWait = s.accWait := rfl
@[simp] theorem State.stepRecs_drop (s : State) (a : Arr) (p : Nat → Bool) : (s.drop a p).stepRecs = s.stepRecs := rfl
@[simp] theorem State.bayReq_drop (s : State) (a : Arr) (p : Nat → Bool) : (s.drop a p).bayReq = s.bayReq := rfl
@[simp] theorem State.bayRet_drop (s : State) (a : Arr) (p : Nat → Bool) : (s.drop a p).bayRet = s.bayRet := rfl
@[simp] theorem State.bayDone_drop (s : State) (a : Arr) (p : Nat → Bool) : (s.drop a p).bayDone = s.bayDone := rfl
@[simp] theorem State.mme_drop (s : State) (a : Arr) (p : Nat → Bool) : (s.drop a p).mme = s.mme := rfl
@[simp] theorem State.waitPages_drop (s : State) (a : Arr) (p : Nat → Bool) :
    (s.drop a p).waitPages = s.waitPages := rfl
@[simp] theorem State.tcache_drop (s : State) (a : Arr) (p : Nat → Bool) : (s.drop a p).tcache = s.tcache := rfl
@[simp] theorem State.portalRec_drop (s : State) (a : Arr) (p : Nat → Bool) :
    (s.drop a p).portalRec = s.portalRec := rfl
@[simp] theorem State.portalMsg_drop (s : State) (a : Arr) (p : Nat → Bool) :
    (s.drop a p).portalMsg = s.portalMsg := rfl
@[simp] theorem State.jrspBuf_drop (s : State) (a : Arr) (p : Nat → Bool) : (s.drop a p).jrspBuf = s.jrspBuf := rfl
@[simp] theorem State.packets_drop (s : State) (a : Arr) (p : Nat → Bool) : (s.drop a p).packets = s.packets := rfl
@[simp] theorem State.shadow_drop (s : State) (a : Arr) (p : Nat → Bool) : (s.drop a p).shadow = s.shadow := rfl
@[simp] theorem State.members_drop (s : State) (a : Arr) (p : Nat → Bool) : (s.drop a p).members = s.members := rfl
@[simp] theorem State.recLog_drop (s : State) (a : Arr) (p : Nat → Bool) : (s.drop a p).recLog = s.recLog := rfl
@[simp] theorem State.snaps_drop (s : State) (a : Arr) (p : Nat → Bool) : (s.drop a p).snaps = s.snaps := rfl
@[simp] theorem State.startLines_drop (s : State) (a : Arr) (p : Nat → Bool) :
    (s.drop a p).startLines = s.startLines := rfl
@[simp] theorem State.symOut_drop (s : State) (a : Arr) (p : Nat → Bool) : (s.drop a p).symOut = s.symOut := rfl
@[simp] theorem State.frameOut_drop (s : State) (a : Arr) (p : Nat → Bool) : (s.drop a p).frameOut = s.frameOut := rfl
@[simp] theorem State.txRest_drop (s : State) (a : Arr) (p : Nat → Bool) : (s.drop a p).txRest = s.txRest := rfl
@[simp] theorem State.txQueue_drop (s : State) (a : Arr) (p : Nat → Bool) : (s.drop a p).txQueue = s.txQueue := rfl
@[simp] theorem State.txKept_drop (s : State) (a : Arr) (p : Nat → Bool) : (s.drop a p).txKept = s.txKept := rfl
@[simp] theorem State.lineOut_drop (s : State) (a : Arr) (p : Nat → Bool) : (s.drop a p).lineOut = s.lineOut := rfl
@[simp] theorem State.rxBlocks_drop (s : State) (a : Arr) (p : Nat → Bool) : (s.drop a p).rxBlocks = s.rxBlocks := rfl
@[simp] theorem State.rxFrames_drop (s : State) (a : Arr) (p : Nat → Bool) : (s.drop a p).rxFrames = s.rxFrames := rfl
@[simp] theorem State.fired_drop (s : State) (a : Arr) (p : Nat → Bool) : (s.drop a p).fired = s.fired := rfl
@[simp] theorem State.vault_drop (s : State) (a : Arr) (p : Nat → Bool) : (s.drop a p).vault = s.vault := rfl
@[simp] theorem State.closed_drop (s : State) (a : Arr) (p : Nat → Bool) : (s.drop a p).closed = s.closed := rfl
@[simp] theorem State.strmHdr_drop (s : State) (a : Arr) (p : Nat → Bool) : (s.drop a p).strmHdr = s.strmHdr := rfl
@[simp] theorem State.outst_drop (s : State) (a : Arr) (p : Nat → Bool) : (s.drop a p).outst = s.outst := rfl
@[simp] theorem State.l2_drop (s : State) (a : Arr) (p : Nat → Bool) : (s.drop a p).l2 = s.l2 := rfl
@[simp] theorem State.repairs_drop (s : State) (a : Arr) (p : Nat → Bool) : (s.drop a p).repairs = s.repairs := rfl
@[simp] theorem State.corrLog_drop (s : State) (a : Arr) (p : Nat → Bool) : (s.drop a p).corrLog = s.corrLog := rfl
@[simp] theorem State.aonSave_drop (s : State) (a : Arr) (p : Nat → Bool) : (s.drop a p).aonSave = s.aonSave := rfl
@[simp] theorem State.saveArea_drop (s : State) (a : Arr) (p : Nat → Bool) : (s.drop a p).saveArea = s.saveArea := rfl
@[simp] theorem State.out_drop (s : State) (a : Arr) (p : Nat → Bool) : (s.drop a p).out = s.out := rfl
@[simp] theorem State.rsp_drop (s : State) (a : Arr) (p : Nat → Bool) : (s.drop a p).rsp = s.rsp := rfl
@[simp] theorem State.freeCtr_drop (s : State) (a : Arr) (p : Nat → Bool) : (s.drop a p).freeCtr = s.freeCtr := rfl
@[simp] theorem State.farReqs_drop (s : State) (a : Arr) (p : Nat → Bool) : (s.drop a p).farReqs = s.farReqs := rfl
@[simp] theorem State.netOut_drop (s : State) (a : Arr) (p : Nat → Bool) : (s.drop a p).netOut = s.netOut := rfl
@[simp] theorem State.held_drop (s : State) (a : Arr) (p : Nat → Bool) : (s.drop a p).held = s.held := rfl
@[simp] theorem State.resumed_drop (s : State) (a : Arr) (p : Nat → Bool) : (s.drop a p).resumed = s.resumed := rfl
@[simp] theorem State.actAs_drop (s : State) (a : Arr) (p : Nat → Bool) : (s.drop a p).actAs = s.actAs := rfl
@[simp] theorem State.pending_drop (s : State) (a : Arr) (p : Nat → Bool) : (s.drop a p).pending = s.pending := rfl
@[simp] theorem State.mem_sat (s : State) (a : Arr) (i n : Nat) : (s.sat a i n).mem = s.mem := rfl
@[simp] theorem State.issued_sat (s : State) (a : Arr) (i n : Nat) : (s.sat a i n).issued = s.issued := rfl
@[simp] theorem State.histPend_sat (s : State) (a : Arr) (i n : Nat) : (s.sat a i n).histPend = s.histPend := rfl
@[simp] theorem State.flight_sat (s : State) (a : Arr) (i n : Nat) : (s.sat a i n).flight = s.flight := rfl
@[simp] theorem State.late_sat (s : State) (a : Arr) (i n : Nat) : (s.sat a i n).late = s.late := rfl
@[simp] theorem State.causes_sat (s : State) (a : Arr) (i n : Nat) : (s.sat a i n).causes = s.causes := rfl
@[simp] theorem State.stops_sat (s : State) (a : Arr) (i n : Nat) : (s.sat a i n).stops = s.stops := rfl
@[simp] theorem State.accWait_sat (s : State) (a : Arr) (i n : Nat) : (s.sat a i n).accWait = s.accWait := rfl
@[simp] theorem State.stepRecs_sat (s : State) (a : Arr) (i n : Nat) : (s.sat a i n).stepRecs = s.stepRecs := rfl
@[simp] theorem State.bayReq_sat (s : State) (a : Arr) (i n : Nat) : (s.sat a i n).bayReq = s.bayReq := rfl
@[simp] theorem State.bayRet_sat (s : State) (a : Arr) (i n : Nat) : (s.sat a i n).bayRet = s.bayRet := rfl
@[simp] theorem State.bayDone_sat (s : State) (a : Arr) (i n : Nat) : (s.sat a i n).bayDone = s.bayDone := rfl
@[simp] theorem State.mme_sat (s : State) (a : Arr) (i n : Nat) : (s.sat a i n).mme = s.mme := rfl
@[simp] theorem State.waitPages_sat (s : State) (a : Arr) (i n : Nat) : (s.sat a i n).waitPages = s.waitPages := rfl
@[simp] theorem State.tcache_sat (s : State) (a : Arr) (i n : Nat) : (s.sat a i n).tcache = s.tcache := rfl
@[simp] theorem State.portalRec_sat (s : State) (a : Arr) (i n : Nat) : (s.sat a i n).portalRec = s.portalRec := rfl
@[simp] theorem State.portalMsg_sat (s : State) (a : Arr) (i n : Nat) : (s.sat a i n).portalMsg = s.portalMsg := rfl
@[simp] theorem State.jrspBuf_sat (s : State) (a : Arr) (i n : Nat) : (s.sat a i n).jrspBuf = s.jrspBuf := rfl
@[simp] theorem State.packets_sat (s : State) (a : Arr) (i n : Nat) : (s.sat a i n).packets = s.packets := rfl
@[simp] theorem State.shadow_sat (s : State) (a : Arr) (i n : Nat) : (s.sat a i n).shadow = s.shadow := rfl
@[simp] theorem State.members_sat (s : State) (a : Arr) (i n : Nat) : (s.sat a i n).members = s.members := rfl
@[simp] theorem State.recLog_sat (s : State) (a : Arr) (i n : Nat) : (s.sat a i n).recLog = s.recLog := rfl
@[simp] theorem State.snaps_sat (s : State) (a : Arr) (i n : Nat) : (s.sat a i n).snaps = s.snaps := rfl
@[simp] theorem State.startLines_sat (s : State) (a : Arr) (i n : Nat) :
    (s.sat a i n).startLines = s.startLines := rfl
@[simp] theorem State.symOut_sat (s : State) (a : Arr) (i n : Nat) : (s.sat a i n).symOut = s.symOut := rfl
@[simp] theorem State.frameOut_sat (s : State) (a : Arr) (i n : Nat) : (s.sat a i n).frameOut = s.frameOut := rfl
@[simp] theorem State.txRest_sat (s : State) (a : Arr) (i n : Nat) : (s.sat a i n).txRest = s.txRest := rfl
@[simp] theorem State.txQueue_sat (s : State) (a : Arr) (i n : Nat) : (s.sat a i n).txQueue = s.txQueue := rfl
@[simp] theorem State.txKept_sat (s : State) (a : Arr) (i n : Nat) : (s.sat a i n).txKept = s.txKept := rfl
@[simp] theorem State.lineOut_sat (s : State) (a : Arr) (i n : Nat) : (s.sat a i n).lineOut = s.lineOut := rfl
@[simp] theorem State.rxBlocks_sat (s : State) (a : Arr) (i n : Nat) : (s.sat a i n).rxBlocks = s.rxBlocks := rfl
@[simp] theorem State.rxFrames_sat (s : State) (a : Arr) (i n : Nat) : (s.sat a i n).rxFrames = s.rxFrames := rfl
@[simp] theorem State.fired_sat (s : State) (a : Arr) (i n : Nat) : (s.sat a i n).fired = s.fired := rfl
@[simp] theorem State.vault_sat (s : State) (a : Arr) (i n : Nat) : (s.sat a i n).vault = s.vault := rfl
@[simp] theorem State.closed_sat (s : State) (a : Arr) (i n : Nat) : (s.sat a i n).closed = s.closed := rfl
@[simp] theorem State.strmHdr_sat (s : State) (a : Arr) (i n : Nat) : (s.sat a i n).strmHdr = s.strmHdr := rfl
@[simp] theorem State.outst_sat (s : State) (a : Arr) (i n : Nat) : (s.sat a i n).outst = s.outst := rfl
@[simp] theorem State.l2_sat (s : State) (a : Arr) (i n : Nat) : (s.sat a i n).l2 = s.l2 := rfl
@[simp] theorem State.repairs_sat (s : State) (a : Arr) (i n : Nat) : (s.sat a i n).repairs = s.repairs := rfl
@[simp] theorem State.corrLog_sat (s : State) (a : Arr) (i n : Nat) : (s.sat a i n).corrLog = s.corrLog := rfl
@[simp] theorem State.aonSave_sat (s : State) (a : Arr) (i n : Nat) : (s.sat a i n).aonSave = s.aonSave := rfl
@[simp] theorem State.saveArea_sat (s : State) (a : Arr) (i n : Nat) : (s.sat a i n).saveArea = s.saveArea := rfl
@[simp] theorem State.out_sat (s : State) (a : Arr) (i n : Nat) : (s.sat a i n).out = s.out := rfl
@[simp] theorem State.rsp_sat (s : State) (a : Arr) (i n : Nat) : (s.sat a i n).rsp = s.rsp := rfl
@[simp] theorem State.freeCtr_sat (s : State) (a : Arr) (i n : Nat) : (s.sat a i n).freeCtr = s.freeCtr := rfl
@[simp] theorem State.farReqs_sat (s : State) (a : Arr) (i n : Nat) : (s.sat a i n).farReqs = s.farReqs := rfl
@[simp] theorem State.netOut_sat (s : State) (a : Arr) (i n : Nat) : (s.sat a i n).netOut = s.netOut := rfl
@[simp] theorem State.held_sat (s : State) (a : Arr) (i n : Nat) : (s.sat a i n).held = s.held := rfl
@[simp] theorem State.resumed_sat (s : State) (a : Arr) (i n : Nat) : (s.sat a i n).resumed = s.resumed := rfl
@[simp] theorem State.actAs_sat (s : State) (a : Arr) (i n : Nat) : (s.sat a i n).actAs = s.actAs := rfl
@[simp] theorem State.pending_sat (s : State) (a : Arr) (i n : Nat) : (s.sat a i n).pending = s.pending := rfl
@[simp] theorem State.arr_ans (s : State) (st d : Nat) : (s.ans st d).arr = s.arr := rfl
@[simp] theorem State.mem_ans (s : State) (st d : Nat) : (s.ans st d).mem = s.mem := rfl
@[simp] theorem State.issued_ans (s : State) (st d : Nat) : (s.ans st d).issued = s.issued := rfl
@[simp] theorem State.histPend_ans (s : State) (st d : Nat) : (s.ans st d).histPend = s.histPend := rfl
@[simp] theorem State.flight_ans (s : State) (st d : Nat) : (s.ans st d).flight = s.flight := rfl
@[simp] theorem State.late_ans (s : State) (st d : Nat) : (s.ans st d).late = s.late := rfl
@[simp] theorem State.causes_ans (s : State) (st d : Nat) : (s.ans st d).causes = s.causes := rfl
@[simp] theorem State.stops_ans (s : State) (st d : Nat) : (s.ans st d).stops = s.stops := rfl
@[simp] theorem State.accWait_ans (s : State) (st d : Nat) : (s.ans st d).accWait = s.accWait := rfl
@[simp] theorem State.stepRecs_ans (s : State) (st d : Nat) : (s.ans st d).stepRecs = s.stepRecs := rfl
@[simp] theorem State.bayReq_ans (s : State) (st d : Nat) : (s.ans st d).bayReq = s.bayReq := rfl
@[simp] theorem State.bayRet_ans (s : State) (st d : Nat) : (s.ans st d).bayRet = s.bayRet := rfl
@[simp] theorem State.bayDone_ans (s : State) (st d : Nat) : (s.ans st d).bayDone = s.bayDone := rfl
@[simp] theorem State.mme_ans (s : State) (st d : Nat) : (s.ans st d).mme = s.mme := rfl
@[simp] theorem State.waitPages_ans (s : State) (st d : Nat) : (s.ans st d).waitPages = s.waitPages := rfl
@[simp] theorem State.tcache_ans (s : State) (st d : Nat) : (s.ans st d).tcache = s.tcache := rfl
@[simp] theorem State.portalRec_ans (s : State) (st d : Nat) : (s.ans st d).portalRec = s.portalRec := rfl
@[simp] theorem State.portalMsg_ans (s : State) (st d : Nat) : (s.ans st d).portalMsg = s.portalMsg := rfl
@[simp] theorem State.jrspBuf_ans (s : State) (st d : Nat) : (s.ans st d).jrspBuf = s.jrspBuf := rfl
@[simp] theorem State.packets_ans (s : State) (st d : Nat) : (s.ans st d).packets = s.packets := rfl
@[simp] theorem State.shadow_ans (s : State) (st d : Nat) : (s.ans st d).shadow = s.shadow := rfl
@[simp] theorem State.members_ans (s : State) (st d : Nat) : (s.ans st d).members = s.members := rfl
@[simp] theorem State.recLog_ans (s : State) (st d : Nat) : (s.ans st d).recLog = s.recLog := rfl
@[simp] theorem State.snaps_ans (s : State) (st d : Nat) : (s.ans st d).snaps = s.snaps := rfl
@[simp] theorem State.startLines_ans (s : State) (st d : Nat) : (s.ans st d).startLines = s.startLines := rfl
@[simp] theorem State.symOut_ans (s : State) (st d : Nat) : (s.ans st d).symOut = s.symOut := rfl
@[simp] theorem State.frameOut_ans (s : State) (st d : Nat) : (s.ans st d).frameOut = s.frameOut := rfl
@[simp] theorem State.txRest_ans (s : State) (st d : Nat) : (s.ans st d).txRest = s.txRest := rfl
@[simp] theorem State.txQueue_ans (s : State) (st d : Nat) : (s.ans st d).txQueue = s.txQueue := rfl
@[simp] theorem State.txKept_ans (s : State) (st d : Nat) : (s.ans st d).txKept = s.txKept := rfl
@[simp] theorem State.lineOut_ans (s : State) (st d : Nat) : (s.ans st d).lineOut = s.lineOut := rfl
@[simp] theorem State.rxBlocks_ans (s : State) (st d : Nat) : (s.ans st d).rxBlocks = s.rxBlocks := rfl
@[simp] theorem State.rxFrames_ans (s : State) (st d : Nat) : (s.ans st d).rxFrames = s.rxFrames := rfl
@[simp] theorem State.fired_ans (s : State) (st d : Nat) : (s.ans st d).fired = s.fired := rfl
@[simp] theorem State.vault_ans (s : State) (st d : Nat) : (s.ans st d).vault = s.vault := rfl
@[simp] theorem State.closed_ans (s : State) (st d : Nat) : (s.ans st d).closed = s.closed := rfl
@[simp] theorem State.strmHdr_ans (s : State) (st d : Nat) : (s.ans st d).strmHdr = s.strmHdr := rfl
@[simp] theorem State.outst_ans (s : State) (st d : Nat) : (s.ans st d).outst = s.outst := rfl
@[simp] theorem State.l2_ans (s : State) (st d : Nat) : (s.ans st d).l2 = s.l2 := rfl
@[simp] theorem State.repairs_ans (s : State) (st d : Nat) : (s.ans st d).repairs = s.repairs := rfl
@[simp] theorem State.corrLog_ans (s : State) (st d : Nat) : (s.ans st d).corrLog = s.corrLog := rfl
@[simp] theorem State.aonSave_ans (s : State) (st d : Nat) : (s.ans st d).aonSave = s.aonSave := rfl
@[simp] theorem State.saveArea_ans (s : State) (st d : Nat) : (s.ans st d).saveArea = s.saveArea := rfl
@[simp] theorem State.out_ans (s : State) (st d : Nat) : (s.ans st d).out = s.out := rfl
@[simp] theorem State.freeCtr_ans (s : State) (st d : Nat) : (s.ans st d).freeCtr = s.freeCtr := rfl
@[simp] theorem State.farReqs_ans (s : State) (st d : Nat) : (s.ans st d).farReqs = s.farReqs := rfl
@[simp] theorem State.netOut_ans (s : State) (st d : Nat) : (s.ans st d).netOut = s.netOut := rfl
@[simp] theorem State.held_ans (s : State) (st d : Nat) : (s.ans st d).held = s.held := rfl
@[simp] theorem State.resumed_ans (s : State) (st d : Nat) : (s.ans st d).resumed = s.resumed := rfl
@[simp] theorem State.actAs_ans (s : State) (st d : Nat) : (s.ans st d).actAs = s.actAs := rfl
@[simp] theorem State.pending_ans (s : State) (st d : Nat) : (s.ans st d).pending = s.pending := rfl
@[simp] theorem State.rd_ans (s : State) (st d : Nat) (a : Arr) (i : Nat) : (s.ans st d).rd a i = s.rd a i := rfl
@[simp] theorem State.reg_ans (s : State) (st d : Nat) (o : Nat) : (s.ans st d).reg o = s.reg o := rfl
@[simp] theorem State.rf_ans (s : State) (st d : Nat) (b : Nat) (f : Fld) : (s.ans st d).rf b f = s.rf b f := rfl
@[simp] theorem State.arr_okay (s : State) : (s.okay).arr = s.arr := rfl
@[simp] theorem State.mem_okay (s : State) : (s.okay).mem = s.mem := rfl
@[simp] theorem State.issued_okay (s : State) : (s.okay).issued = s.issued := rfl
@[simp] theorem State.histPend_okay (s : State) : (s.okay).histPend = s.histPend := rfl
@[simp] theorem State.flight_okay (s : State) : (s.okay).flight = s.flight := rfl
@[simp] theorem State.late_okay (s : State) : (s.okay).late = s.late := rfl
@[simp] theorem State.causes_okay (s : State) : (s.okay).causes = s.causes := rfl
@[simp] theorem State.stops_okay (s : State) : (s.okay).stops = s.stops := rfl
@[simp] theorem State.accWait_okay (s : State) : (s.okay).accWait = s.accWait := rfl
@[simp] theorem State.stepRecs_okay (s : State) : (s.okay).stepRecs = s.stepRecs := rfl
@[simp] theorem State.bayReq_okay (s : State) : (s.okay).bayReq = s.bayReq := rfl
@[simp] theorem State.bayRet_okay (s : State) : (s.okay).bayRet = s.bayRet := rfl
@[simp] theorem State.bayDone_okay (s : State) : (s.okay).bayDone = s.bayDone := rfl
@[simp] theorem State.mme_okay (s : State) : (s.okay).mme = s.mme := rfl
@[simp] theorem State.waitPages_okay (s : State) : (s.okay).waitPages = s.waitPages := rfl
@[simp] theorem State.tcache_okay (s : State) : (s.okay).tcache = s.tcache := rfl
@[simp] theorem State.portalRec_okay (s : State) : (s.okay).portalRec = s.portalRec := rfl
@[simp] theorem State.portalMsg_okay (s : State) : (s.okay).portalMsg = s.portalMsg := rfl
@[simp] theorem State.jrspBuf_okay (s : State) : (s.okay).jrspBuf = s.jrspBuf := rfl
@[simp] theorem State.packets_okay (s : State) : (s.okay).packets = s.packets := rfl
@[simp] theorem State.shadow_okay (s : State) : (s.okay).shadow = s.shadow := rfl
@[simp] theorem State.members_okay (s : State) : (s.okay).members = s.members := rfl
@[simp] theorem State.recLog_okay (s : State) : (s.okay).recLog = s.recLog := rfl
@[simp] theorem State.snaps_okay (s : State) : (s.okay).snaps = s.snaps := rfl
@[simp] theorem State.startLines_okay (s : State) : (s.okay).startLines = s.startLines := rfl
@[simp] theorem State.symOut_okay (s : State) : (s.okay).symOut = s.symOut := rfl
@[simp] theorem State.frameOut_okay (s : State) : (s.okay).frameOut = s.frameOut := rfl
@[simp] theorem State.txRest_okay (s : State) : (s.okay).txRest = s.txRest := rfl
@[simp] theorem State.txQueue_okay (s : State) : (s.okay).txQueue = s.txQueue := rfl
@[simp] theorem State.txKept_okay (s : State) : (s.okay).txKept = s.txKept := rfl
@[simp] theorem State.lineOut_okay (s : State) : (s.okay).lineOut = s.lineOut := rfl
@[simp] theorem State.rxBlocks_okay (s : State) : (s.okay).rxBlocks = s.rxBlocks := rfl
@[simp] theorem State.rxFrames_okay (s : State) : (s.okay).rxFrames = s.rxFrames := rfl
@[simp] theorem State.fired_okay (s : State) : (s.okay).fired = s.fired := rfl
@[simp] theorem State.vault_okay (s : State) : (s.okay).vault = s.vault := rfl
@[simp] theorem State.closed_okay (s : State) : (s.okay).closed = s.closed := rfl
@[simp] theorem State.strmHdr_okay (s : State) : (s.okay).strmHdr = s.strmHdr := rfl
@[simp] theorem State.outst_okay (s : State) : (s.okay).outst = s.outst := rfl
@[simp] theorem State.l2_okay (s : State) : (s.okay).l2 = s.l2 := rfl
@[simp] theorem State.repairs_okay (s : State) : (s.okay).repairs = s.repairs := rfl
@[simp] theorem State.corrLog_okay (s : State) : (s.okay).corrLog = s.corrLog := rfl
@[simp] theorem State.aonSave_okay (s : State) : (s.okay).aonSave = s.aonSave := rfl
@[simp] theorem State.saveArea_okay (s : State) : (s.okay).saveArea = s.saveArea := rfl
@[simp] theorem State.out_okay (s : State) : (s.okay).out = s.out := rfl
@[simp] theorem State.freeCtr_okay (s : State) : (s.okay).freeCtr = s.freeCtr := rfl
@[simp] theorem State.farReqs_okay (s : State) : (s.okay).farReqs = s.farReqs := rfl
@[simp] theorem State.netOut_okay (s : State) : (s.okay).netOut = s.netOut := rfl
@[simp] theorem State.held_okay (s : State) : (s.okay).held = s.held := rfl
@[simp] theorem State.resumed_okay (s : State) : (s.okay).resumed = s.resumed := rfl
@[simp] theorem State.actAs_okay (s : State) : (s.okay).actAs = s.actAs := rfl
@[simp] theorem State.pending_okay (s : State) : (s.okay).pending = s.pending := rfl
@[simp] theorem State.rd_okay (s : State) (a : Arr) (i : Nat) : (s.okay).rd a i = s.rd a i := rfl
@[simp] theorem State.reg_okay (s : State) (o : Nat) : (s.okay).reg o = s.reg o := rfl
@[simp] theorem State.rf_okay (s : State) (b : Nat) (f : Fld) : (s.okay).rf b f = s.rf b f := rfl
@[simp] theorem State.arr_deny (s : State) : (s.deny).arr = s.arr := rfl
@[simp] theorem State.mem_deny (s : State) : (s.deny).mem = s.mem := rfl
@[simp] theorem State.issued_deny (s : State) : (s.deny).issued = s.issued := rfl
@[simp] theorem State.histPend_deny (s : State) : (s.deny).histPend = s.histPend := rfl
@[simp] theorem State.flight_deny (s : State) : (s.deny).flight = s.flight := rfl
@[simp] theorem State.late_deny (s : State) : (s.deny).late = s.late := rfl
@[simp] theorem State.causes_deny (s : State) : (s.deny).causes = s.causes := rfl
@[simp] theorem State.stops_deny (s : State) : (s.deny).stops = s.stops := rfl
@[simp] theorem State.accWait_deny (s : State) : (s.deny).accWait = s.accWait := rfl
@[simp] theorem State.stepRecs_deny (s : State) : (s.deny).stepRecs = s.stepRecs := rfl
@[simp] theorem State.bayReq_deny (s : State) : (s.deny).bayReq = s.bayReq := rfl
@[simp] theorem State.bayRet_deny (s : State) : (s.deny).bayRet = s.bayRet := rfl
@[simp] theorem State.bayDone_deny (s : State) : (s.deny).bayDone = s.bayDone := rfl
@[simp] theorem State.mme_deny (s : State) : (s.deny).mme = s.mme := rfl
@[simp] theorem State.waitPages_deny (s : State) : (s.deny).waitPages = s.waitPages := rfl
@[simp] theorem State.tcache_deny (s : State) : (s.deny).tcache = s.tcache := rfl
@[simp] theorem State.portalRec_deny (s : State) : (s.deny).portalRec = s.portalRec := rfl
@[simp] theorem State.portalMsg_deny (s : State) : (s.deny).portalMsg = s.portalMsg := rfl
@[simp] theorem State.jrspBuf_deny (s : State) : (s.deny).jrspBuf = s.jrspBuf := rfl
@[simp] theorem State.packets_deny (s : State) : (s.deny).packets = s.packets := rfl
@[simp] theorem State.shadow_deny (s : State) : (s.deny).shadow = s.shadow := rfl
@[simp] theorem State.members_deny (s : State) : (s.deny).members = s.members := rfl
@[simp] theorem State.recLog_deny (s : State) : (s.deny).recLog = s.recLog := rfl
@[simp] theorem State.snaps_deny (s : State) : (s.deny).snaps = s.snaps := rfl
@[simp] theorem State.startLines_deny (s : State) : (s.deny).startLines = s.startLines := rfl
@[simp] theorem State.symOut_deny (s : State) : (s.deny).symOut = s.symOut := rfl
@[simp] theorem State.frameOut_deny (s : State) : (s.deny).frameOut = s.frameOut := rfl
@[simp] theorem State.txRest_deny (s : State) : (s.deny).txRest = s.txRest := rfl
@[simp] theorem State.txQueue_deny (s : State) : (s.deny).txQueue = s.txQueue := rfl
@[simp] theorem State.txKept_deny (s : State) : (s.deny).txKept = s.txKept := rfl
@[simp] theorem State.lineOut_deny (s : State) : (s.deny).lineOut = s.lineOut := rfl
@[simp] theorem State.rxBlocks_deny (s : State) : (s.deny).rxBlocks = s.rxBlocks := rfl
@[simp] theorem State.rxFrames_deny (s : State) : (s.deny).rxFrames = s.rxFrames := rfl
@[simp] theorem State.fired_deny (s : State) : (s.deny).fired = s.fired := rfl
@[simp] theorem State.vault_deny (s : State) : (s.deny).vault = s.vault := rfl
@[simp] theorem State.closed_deny (s : State) : (s.deny).closed = s.closed := rfl
@[simp] theorem State.strmHdr_deny (s : State) : (s.deny).strmHdr = s.strmHdr := rfl
@[simp] theorem State.outst_deny (s : State) : (s.deny).outst = s.outst := rfl
@[simp] theorem State.l2_deny (s : State) : (s.deny).l2 = s.l2 := rfl
@[simp] theorem State.repairs_deny (s : State) : (s.deny).repairs = s.repairs := rfl
@[simp] theorem State.corrLog_deny (s : State) : (s.deny).corrLog = s.corrLog := rfl
@[simp] theorem State.aonSave_deny (s : State) : (s.deny).aonSave = s.aonSave := rfl
@[simp] theorem State.saveArea_deny (s : State) : (s.deny).saveArea = s.saveArea := rfl
@[simp] theorem State.out_deny (s : State) : (s.deny).out = s.out := rfl
@[simp] theorem State.freeCtr_deny (s : State) : (s.deny).freeCtr = s.freeCtr := rfl
@[simp] theorem State.farReqs_deny (s : State) : (s.deny).farReqs = s.farReqs := rfl
@[simp] theorem State.netOut_deny (s : State) : (s.deny).netOut = s.netOut := rfl
@[simp] theorem State.held_deny (s : State) : (s.deny).held = s.held := rfl
@[simp] theorem State.resumed_deny (s : State) : (s.deny).resumed = s.resumed := rfl
@[simp] theorem State.actAs_deny (s : State) : (s.deny).actAs = s.actAs := rfl
@[simp] theorem State.pending_deny (s : State) : (s.deny).pending = s.pending := rfl
@[simp] theorem State.rd_deny (s : State) (a : Arr) (i : Nat) : (s.deny).rd a i = s.rd a i := rfl
@[simp] theorem State.reg_deny (s : State) (o : Nat) : (s.deny).reg o = s.reg o := rfl
@[simp] theorem State.rf_deny (s : State) (b : Nat) (f : Fld) : (s.deny).rf b f = s.rf b f := rfl
@[simp] theorem State.rsp_ans (s : State) (st d : Nat) : (s.ans st d).rsp = ⟨st, d, 0⟩ := rfl
@[simp] theorem State.rsp_okay (s : State) : s.okay.rsp = ⟨0, 0, 0⟩ := rfl
@[simp] theorem State.rsp_deny (s : State) : s.deny.rsp = ⟨1, 0, 0⟩ := rfl

/-- An update that leaves the store alone leaves its reads alone. -/
@[simp] theorem State.rd_update (s : State) (a : Arr) (i : Nat) {x0} {x1} {x2} {x3} {x4} {x5} {x6} {x7} {x8} {x9} {x10} {x11} {x12} {x13} {x14} {x15} {x16} {x17} {x18} {x19} {x20} {x21} {x22} {x23} {x24} {x25} {x26} {x27} {x28} {x29} {x30} {x31} {x32} {x33} {x34} {x35} {x36} {x37} {x38} {x39} {x40} {x41} {x42} {x43} {x44} {x45} {x46} {x47} {x48} {x49} {x50} :
    State.rd ⟨s.arr, x0, x1, x2, x3, x4, x5, x6, x7, x8, x9, x10, x11, x12, x13, x14, x15, x16, x17, x18, x19, x20, x21, x22, x23, x24, x25, x26, x27, x28, x29, x30, x31, x32, x33, x34, x35, x36, x37, x38, x39, x40, x41, x42, x43, x44, x45, x46, x47, x48, x49, x50⟩ a i = s.rd a i := rfl
@[simp] theorem State.reg_update (s : State) (o : Nat) {x0} {x1} {x2} {x3} {x4} {x5} {x6} {x7} {x8} {x9} {x10} {x11} {x12} {x13} {x14} {x15} {x16} {x17} {x18} {x19} {x20} {x21} {x22} {x23} {x24} {x25} {x26} {x27} {x28} {x29} {x30} {x31} {x32} {x33} {x34} {x35} {x36} {x37} {x38} {x39} {x40} {x41} {x42} {x43} {x44} {x45} {x46} {x47} {x48} {x49} {x50} :
    State.reg ⟨s.arr, x0, x1, x2, x3, x4, x5, x6, x7, x8, x9, x10, x11, x12, x13, x14, x15, x16, x17, x18, x19, x20, x21, x22, x23, x24, x25, x26, x27, x28, x29, x30, x31, x32, x33, x34, x35, x36, x37, x38, x39, x40, x41, x42, x43, x44, x45, x46, x47, x48, x49, x50⟩ o = s.reg o := rfl
@[simp] theorem State.rf_update (s : State) (b : Nat) (f : Fld) {x0} {x1} {x2} {x3} {x4} {x5} {x6} {x7} {x8} {x9} {x10} {x11} {x12} {x13} {x14} {x15} {x16} {x17} {x18} {x19} {x20} {x21} {x22} {x23} {x24} {x25} {x26} {x27} {x28} {x29} {x30} {x31} {x32} {x33} {x34} {x35} {x36} {x37} {x38} {x39} {x40} {x41} {x42} {x43} {x44} {x45} {x46} {x47} {x48} {x49} {x50} :
    State.rf ⟨s.arr, x0, x1, x2, x3, x4, x5, x6, x7, x8, x9, x10, x11, x12, x13, x14, x15, x16, x17, x18, x19, x20, x21, x22, x23, x24, x25, x26, x27, x28, x29, x30, x31, x32, x33, x34, x35, x36, x37, x38, x39, x40, x41, x42, x43, x44, x45, x46, x47, x48, x49, x50⟩ b f = s.rf b f := rfl

end Sys2Proof.Machine
end

