-- ==== Sys2Proof/Laws/Canon.lean ====
section
/-! SUPPORT. The canonical form of the stores under the basic updates. -/

namespace Sys2Proof.Machine

/-- A next state, if there is one, is canonical. -/
def Res.Canon (o : Res) : Prop := ∀ t, o = .next t → t.Canon

theorem canon_next {t : State} (h : t.Canon) : Res.Canon (.next t) := by
  intro u e; cases e; exact h

theorem canon_ite {c : Prop} [Decidable c] {a b : State} (ha : a.Canon) (hb : b.Canon) : State.Canon (if c then a else b) := by
  split
  · exact ha
  · exact hb

theorem canon_resIte {c : Prop} [Decidable c] {a b : Res} (ha : Res.Canon a) (hb : Res.Canon b) :
    Res.Canon (if c then a else b) := by
  split
  · exact ha
  · exact hb

/-- The second component of a pair that an equation names. -/
theorem canon_snd {α : Type} {p : α × State} {a : α} {s : State} (e : p = (a, s)) (h : p.2.Canon) : s.Canon := by
  subst e; exact h

theorem canon_fst {α : Type} {p : State × α} {a : α} {s : State} (e : p = (s, a)) (h : p.1.Canon) : s.Canon := by
  subst e; exact h

theorem canon_snd2 {α β : Type} {p : α × β × State} {a : α} {b : β} {s : State} (e : p = (a, b, s)) (h : p.2.2.Canon) :
    s.Canon := by
  subst e; exact h

theorem canon_snd3 {α β γ : Type} {p : α × β × γ × State} {a : α} {b : β} {c : γ} {s : State} (e : p = (a, b, c, s))
    (h : p.2.2.2.Canon) : s.Canon := by
  subst e; exact h

theorem canon_outcome {o : Res} {t : State} (e : o = .next t) (h : Res.Canon o) : t.Canon := h t e

theorem canon_id {s : State} (h : s.Canon) : (id s).Canon := h

theorem canon_cut {P Q : Prop} (hp : P) (hq : P → Q) : Q := hq hp

theorem canon_foldl {α : Type} {f : State → α → State} {l : List α} {s : State} (hs : s.Canon)
    (hf : ∀ (s : State) (x : α), s.Canon → (f s x).Canon) : (l.foldl f s).Canon := by
  induction l generalizing s with
  | nil => exact hs
  | cons x r ih => exact ih (hf s x hs)

theorem canon_foldl_fst {α β : Type} {f : State × β → α → State × β} {l : List α} {p : State × β} (hs : p.1.Canon)
    (hf : ∀ (p : State × β) (x : α), p.1.Canon → (f p x).1.Canon) : (l.foldl f p).1.Canon := by
  induction l generalizing p with
  | nil => exact hs
  | cons x r ih => exact ih (hf p x hs)

theorem canon_foldl_snd {α β : Type} {f : β × State → α → β × State} {l : List α} {p : β × State} (hs : p.2.Canon)
    (hf : ∀ (p : β × State) (x : α), p.2.Canon → (f p x).2.Canon) : (l.foldl f p).2.Canon := by
  induction l generalizing p with
  | nil => exact hs
  | cons x r ih => exact ih (hf p x hs)

/-- An update that leaves the stores alone. -/
theorem canon_update {s : State}
    {x0} {x1} {x2} {x3} {x4} {x5} {x6} {x7} {x8} {x9} {x10} {x11} {x12} {x13} {x14} {x15} {x16} {x17} {x18}
    {x19} {x20} {x21} {x22} {x23} {x24} {x25} {x26} {x27} {x28} {x29} {x30} {x31} {x32} {x33} {x34} {x35} {x36}
    {x37} {x38} {x39} {x40} {x41} {x42} {x43} {x44} {x45} {x46} {x47} {x48} {x49} :
    State.Canon ⟨s.arr, s.mem,
      x0, x1, x2, x3, x4, x5, x6, x7, x8, x9, x10, x11, x12, x13, x14, x15, x16, x17, x18, x19, x20, x21, x22,
      x23, x24, x25, x26, x27, x28, x29, x30, x31, x32, x33, x34, x35, x36, x37, x38, x39, x40, x41, x42, x43,
      x44, x45, x46, x47, x48, x49⟩ ↔ s.Canon := Iff.rfl

theorem State.wr_canon {s : State} {a : Arr} {i v : Nat} (h : s.Canon) : (s.wr a i v).Canon :=
  ⟨Sparse.wf_set dflt s.arr (a.key i) _ h.1, h.2⟩

theorem State.drop_canon {s : State} {a : Arr} {p : Nat → Bool} (h : s.Canon) : (s.drop a p).Canon :=
  ⟨Sparse.wf_filter dflt s.arr _ h.1, h.2⟩

/-- Dropping entries of the store. -/
theorem canon_arrFilter {s t : State} {p : Nat × Nat → Bool} (ha : t.arr = s.arr.filter p) (hm : t.mem = s.mem)
    (h : s.Canon) : t.Canon :=
  ⟨ha ▸ Sparse.wf_filter dflt s.arr p h.1, hm ▸ h.2⟩

/-- Dropping bytes of the memory. -/
theorem canon_memFilter {s t : State} {p : Host.Cell → Bool} (ha : t.arr = s.arr) (hm : t.mem = s.mem.filter p)
    (h : s.Canon) : t.Canon :=
  ⟨ha ▸ h.1, hm ▸ Sparse.wf_filter (fun _ => memDflt) s.mem p h.2⟩

theorem State.putByte_canon {s : State} {a : Nat} {b : Byte} (h : s.Canon) : (s.putByte a b).Canon :=
  ⟨h.1, Sparse.wf_set (fun _ => memDflt) s.mem a b h.2⟩

theorem State.putBack_canon {s : State} {l : Store} (h : s.Canon) : (s.putBack l).Canon := by
  unfold State.putBack
  exact canon_foldl h fun s e hs => ⟨Sparse.wf_set dflt s.arr e.1 e.2 hs.1, hs.2⟩

theorem State.newtScrub_canon {s : State} {d : Nat} (h : s.Canon) : (s.newtScrub d).Canon := by
  unfold State.newtScrub
  exact canon_arrFilter rfl rfl h

end Sys2Proof.Machine
end

