-- ==== Sys2Proof/Laws/CanonShared.lean ====
section
/-! SUPPORT. Every operation keeps the canonical form of the stores (`State.Canon`): the shared operations. -/

namespace Sys2Proof.Machine

open Reg

/-! ### Arr -/

theorem State.wrE_canon {s : State} {a : Arr} {i v : Nat} (hs : s.Canon) : State.Canon (s.wrE a i v) := by
  unfold State.wrE
  with_reducible repeat' first | assumption | apply State.wr_canon

theorem State.wrLand_canon {s : State} {i mask v : Nat} (hs : s.Canon) : State.Canon (s.wrLand i mask v) := by
  unfold State.wrLand
  with_reducible repeat' first | assumption | apply State.wr_canon

theorem State.wrPres_canon {s : State} {i mask v : Nat} (hs : s.Canon) : State.Canon (s.wrPres i mask v) := by
  unfold State.wrPres
  with_reducible repeat' first | assumption | apply State.wr_canon

theorem State.sat_canon {s : State} {a : Arr} {i n : Nat} (hs : s.Canon) : State.Canon (s.sat a i n) := by
  unfold State.sat
  with_reducible repeat' first | assumption | apply State.wr_canon

theorem State.each_canon {s : State} {n : Nat} {f : State → Nat → State} (hs : s.Canon)
    (hf : ∀ y0 : State, y0.Canon → ∀ y1 : Nat, State.Canon (f y0 y1)) : State.Canon (s.each n f) := by
  unfold State.each
  with_reducible repeat' first | assumption | intro _ | apply hf | apply canon_foldl

theorem State.wf_canon {s : State} {base : Nat} {f : Fld} {v : Nat} (hs : s.Canon) : State.Canon (s.wf base f v) :=
    by
  unfold State.wf
  with_reducible repeat' first | assumption | apply State.wr_canon

theorem State.cnt_canon {s : State} {base : Nat} {f : Fld} {n : Nat} (hs : s.Canon) : State.Canon (s.cnt base f n)
    := by
  unfold State.cnt
  with_reducible repeat' first | assumption | apply State.wf_canon

theorem State.orf_canon {s : State} {base : Nat} {f : Fld} {m : Nat} (hs : s.Canon) : State.Canon (s.orf base f m)
    := by
  unfold State.orf
  with_reducible repeat' first | assumption | apply State.wf_canon

theorem State.setPair_canon {s : State} {off v : Nat} (hs : s.Canon) : State.Canon (s.setPair off v) := by
  unfold State.setPair
  with_reducible repeat' first | assumption | apply State.wr_canon

/-! ### Ops -/

theorem State.ans_canon {s : State} {status data : Nat} (hs : s.Canon) : State.Canon (s.ans status data) := by
  unfold State.ans
  repeat' first
    | with_reducible assumption | simp only [canon_update]

theorem State.okay_canon {s : State} (hs : s.Canon) : State.Canon (s.okay) := by
  unfold State.okay
  with_reducible repeat' first | assumption | apply State.ans_canon

theorem State.deny_canon {s : State} (hs : s.Canon) : State.Canon (s.deny) := by
  unfold State.deny
  with_reducible repeat' first | assumption | apply State.ans_canon

theorem State.cnRecord_canon {s : State} {die ni addr status : Nat} (hs : s.Canon) : State.Canon (s.cnRecord die ni
    addr status) := by
  unfold State.cnRecord
  repeat' first
    | with_reducible assumption | with_reducible apply State.setPair_canon | with_reducible apply canon_ite | split
    | simp only [canon_update]

theorem State.cnErr_canon {s : State} {die ni addr status : Nat} (hs : s.Canon) : State.Canon (s.cnErr die ni addr
    status) := by
  unfold State.cnErr
  repeat' first
    | with_reducible assumption | with_reducible apply State.cnRecord_canon | with_reducible apply State.ans_canon
    | with_reducible apply canon_ite | split | simp only [canon_update]

theorem State.noteNoRoute_canon {s : State} {x : Nat × Nat} {addr status : Nat} (hs : s.Canon) : State.Canon
    (s.noteNoRoute x addr status) := by
  unfold State.noteNoRoute
  repeat' first
    | with_reducible assumption | with_reducible apply State.cnt_canon | with_reducible apply State.cnRecord_canon
    | with_reducible apply canon_ite | split | simp only [canon_update]

theorem State.answerNoRoute_canon {s : State} {x : Nat × Nat} {addr : Nat} (hs : s.Canon) : State.Canon
    (s.answerNoRoute x addr) := by
  unfold State.answerNoRoute
  repeat' first
    | with_reducible assumption | with_reducible apply State.noteNoRoute_canon
    | with_reducible apply State.ans_canon | with_reducible apply canon_ite | split | simp only [canon_update]

theorem State.live_canon {s : State} {f : State → Res} (hs : s.Canon)
    (hf : ∀ y0 : State, y0.Canon → Res.Canon (f y0)) : Res.Canon (s.live f) := by
  unfold State.live
  with_reducible repeat' first | assumption | apply hf | apply canon_next | apply canon_resIte

theorem State.aon_canon {s : State} {f : State → Res} (hs : s.Canon)
    (hf : ∀ y0 : State, y0.Canon → Res.Canon (f y0)) : Res.Canon (s.aon f) := by
  unfold State.aon
  with_reducible repeat' first | assumption | apply hf | apply canon_next | apply canon_resIte

theorem State.wakePend_canon {s : State} {source index : Nat} (hs : s.Canon) : State.Canon (s.wakePend source index)
    := by
  unfold State.wakePend
  with_reducible repeat' first | assumption | apply State.wr_canon | apply canon_ite

theorem State.coreRuns_canon {s : State} {who : Who} (hs : s.Canon) : State.Canon (s.coreRuns who) := by
  unfold State.coreRuns
  repeat' first
    | with_reducible assumption | with_reducible apply State.wr_canon | with_reducible apply canon_ite | split
    | simp only [canon_update]

theorem State.hold_canon {s : State} {who : Who} {c : Instr} {wakes : Bool} (hs : s.Canon) : State.Canon (s.hold who
    c wakes) := by
  unfold State.hold
  repeat' first
    | with_reducible assumption | with_reducible apply canon_ite | split | simp only [canon_update]

theorem State.holdReq_canon {s : State} {who : Who} {c : Instr} {source : Nat} (hs : s.Canon) : State.Canon
    (s.holdReq who c source) := by
  unfold State.holdReq
  repeat' first
    | with_reducible assumption | with_reducible apply State.hold_canon | with_reducible apply State.wakePend_canon
    | with_reducible apply canon_ite | split | simp only [canon_update]

theorem State.performed_canon {s : State} {h : HeldReq} {r : Rsp} {out : List Out} (hs : s.Canon) : State.Canon
    (s.performed h r out) := by
  unfold State.performed
  repeat' first
    | with_reducible assumption | (intro _) | with_reducible apply State.drop_canon
    | with_reducible apply State.cnt_canon | with_reducible apply canon_ite | split | simp only [canon_update]

theorem State.perform_canon {s : State} {c : Instr} {f : State → Res} (hs : s.Canon)
    (hf : ∀ y0 : State, y0.Canon → Res.Canon (f y0)) : Res.Canon (s.perform c f) := by
  unfold State.perform
  split
  · exact hf _ hs
  · rename_i h _
    have hr := hf { s with resumed := s.resumed.erase h, actAs := some h } (canon_update.2 hs)
    split
    · rename_i t ht
      rw [ht] at hr
      exact canon_next (State.performed_canon (hr t rfl))
    · exact hr

theorem State.accessAs_canon {s : State} {who : Who} {c : Instr} {source : Nat} {f : State → Res} (hs : s.Canon)
    (hf : ∀ y0 : State, y0.Canon → Res.Canon (f y0)) : Res.Canon (s.accessAs who c source f) := by
  unfold State.accessAs
  refine State.perform_canon hs fun s hs => ?_
  repeat' first
    | with_reducible assumption | with_reducible apply hf | with_reducible apply State.coreRuns_canon
    | with_reducible apply State.hold_canon | with_reducible apply State.cnt_canon
    | with_reducible apply State.answerNoRoute_canon
    | with_reducible apply State.holdReq_canon | with_reducible apply canon_next | split

theorem State.access_canon {s : State} {who : Who} {c : Instr} {f : State → Res} (hs : s.Canon)
    (hf : ∀ y0 : State, y0.Canon → Res.Canon (f y0)) : Res.Canon (s.access who c f) := by
  unfold State.access
  with_reducible repeat' first | assumption | apply State.accessAs_canon

theorem State.releaseHeld_canon {s : State} (hs : s.Canon) : State.Canon (s.releaseHeld) := by
  unfold State.releaseHeld
  repeat' first
    | with_reducible assumption | with_reducible apply canon_ite | split | simp only [canon_update]

theorem State.domUp_canon {s : State} {die dom : Nat} (hs : s.Canon) : State.Canon (s.domUp die dom) := by
  unfold State.domUp
  with_reducible repeat' first | assumption | apply State.releaseHeld_canon | apply State.wr_canon

theorem State.free_canon {s : State} {w : Nat} (hs : s.Canon) : State.Canon (s.free w).2 := by
  unfold State.free
  repeat' first
    | with_reducible assumption | simp only [canon_update]

theorem State.free_eq_canon {s t : State} {w v : Nat} (h : s.free w = (v, t)) (hs : s.Canon) : t.Canon := by
  have := State.free_canon (w := w) hs
  rwa [h] at this

theorem State.wakeNotice_canon {s : State} {who : Who} (hs : s.Canon) : State.Canon (s.wakeNotice who) := by
  unfold State.wakeNotice
  repeat' first
    | with_reducible assumption | with_reducible apply State.free_canon | with_reducible apply canon_ite | split | (apply State.free_eq_canon <;> assumption)
    | simp only [canon_update]

theorem State.accessDom_canon {s : State} {who : Who} {die dom : Nat} {c : Instr} {f : State → Res} (hs : s.Canon)
    (hf : ∀ y0 : State, y0.Canon → Res.Canon (f y0)) : Res.Canon (s.accessDom who die dom c f) := by
  unfold State.accessDom
  repeat' first
    | with_reducible apply State.wakeNotice_canon | with_reducible apply State.hold_canon
    | with_reducible apply canon_ite
    | with_reducible assumption | with_reducible intro _ | with_reducible apply hf
    | with_reducible apply State.access_canon | with_reducible apply State.wr_canon
    | with_reducible apply canon_next | with_reducible apply canon_resIte | simp only [canon_update]

theorem State.bayWr_canon {s : State} {wall a v : Nat} (hs : s.Canon) : State.Canon (s.bayWr wall a v) := by
  unfold State.bayWr
  repeat' first
    | with_reducible assumption
    | (extract_lets +onlyGivenNames x; refine canon_cut (P := State.Canon x) ?_ ?_ <;> first | (clear_value x; intro _) | subst x)
    | with_reducible apply State.wrE_canon | split

theorem State.heard_canon {s : State} {p : Nat} (hs : s.Canon) : State.Canon (s.heard p) := by
  unfold State.heard
  with_reducible repeat' first | assumption | apply State.wr_canon

theorem State.sendSym_canon {s : State} {p : Nat} {y : Sym} (hs : s.Canon) : State.Canon (s.sendSym p y) := by
  unfold State.sendSym
  repeat' first
    | with_reducible assumption | with_reducible apply canon_ite | simp only [canon_update]

theorem State.sendTree_canon {s : State} {except : Option Nat} {y : Sym} (hs : s.Canon) : State.Canon
    (s.sendTree except y) := by
  unfold State.sendTree
  with_reducible repeat' first | assumption | intro _ | apply State.sendSym_canon | apply canon_foldl

theorem State.taskReady_canon {s : State} {t tmo : Nat} (hs : s.Canon) : State.Canon (s.taskReady t tmo) := by
  unfold State.taskReady
  with_reducible repeat' first | assumption | apply State.wr_canon

theorem State.taskCheck_canon {s : State} {t : Nat} (hs : s.Canon) : State.Canon (s.taskCheck t) := by
  unfold State.taskCheck
  with_reducible repeat' first | assumption | apply State.taskReady_canon | apply canon_ite

theorem State.taskWait_canon {s : State} {t : Nat} (hs : s.Canon) : State.Canon (s.taskWait t) := by
  unfold State.taskWait
  with_reducible repeat' first | assumption | apply State.wr_canon | apply State.taskCheck_canon

theorem State.setFlag_canon {s : State} {t f : Nat} (hs : s.Canon) : State.Canon (s.setFlag t f) := by
  unfold State.setFlag
  with_reducible repeat' first | assumption | apply State.taskCheck_canon | apply State.wr_canon

theorem State.routeFlag_canon {s : State} {owner : Option Nat} {v : Nat} (hs : s.Canon) : State.Canon
    (s.routeFlag owner v) := by
  unfold State.routeFlag
  with_reducible repeat' first | assumption | apply State.setFlag_canon | apply State.cnt_canon | apply canon_ite

theorem State.routeVec_canon {s : State} {owner : Option Nat} {v : Nat} (hs : s.Canon) : State.Canon
    (s.routeVec owner v) := by
  unfold State.routeVec
  with_reducible repeat' first | assumption | apply State.wr_canon | apply State.cnt_canon | apply canon_ite

theorem State.raise_canon {s : State} {src : Nat} (hs : s.Canon) : State.Canon (s.raise src) := by
  unfold State.raise
  with_reducible repeat' first
    | assumption | apply State.wr_canon | apply State.routeVec_canon | apply State.routeFlag_canon

theorem State.qMark_canon {s : State} {q : Nat} (hs : s.Canon) : State.Canon (s.qMark q) := by
  unfold State.qMark
  with_reducible repeat' first | assumption | apply State.wf_canon

theorem State.qFlushed_canon {s : State} {q : Nat} (hs : s.Canon) : State.Canon (s.qFlushed q) := by
  unfold State.qFlushed
  repeat' first
    | with_reducible assumption | (intro _) | with_reducible apply State.qMark_canon
    | with_reducible apply State.wf_canon | with_reducible apply canon_ite | split | simp only [canon_update]

theorem State.qDiscard_canon {s : State} {q : Nat} (hs : s.Canon) : State.Canon (s.qDiscard q) := by
  unfold State.qDiscard
  repeat' first
    | with_reducible apply State.qFlushed_canon
    | with_reducible assumption | with_reducible apply State.cnt_canon | simp only [canon_update]

theorem State.qMakeRoom_canon {s : State} {q n a : Nat} (hs : s.Canon) : State.Canon (s.qMakeRoom q n a) := by
  induction a generalizing s with
  | zero => exact hs
  | succ m ih =>
    unfold State.qMakeRoom
    exact canon_ite hs (ih (State.qDiscard_canon hs))

theorem State.qAppend_canon {s : State} {q producer : Nat} {words : List Nat} (hs : s.Canon) : State.Canon
    (s.qAppend q producer words) := by
  unfold State.qAppend
  repeat' first
    | with_reducible assumption | simp only [canon_update]

theorem State.qEmpty_canon {s : State} {q : Nat} (hs : s.Canon) : State.Canon (s.qEmpty q) := by
  unfold State.qEmpty
  repeat' first
    | with_reducible assumption | with_reducible apply State.wf_canon | with_reducible apply State.qMark_canon
    | simp only [canon_update]

theorem State.putRecord_canon {s : State} {check : State → State} {q : Nat} {pid : Option Nat} {words : List Nat}
    (hs : s.Canon) (hcheck : ∀ y0 : State, y0.Canon → State.Canon (check y0)) : State.Canon
    (s.putRecord check q pid words) := by
  unfold State.putRecord
  with_reducible repeat' first
    | assumption | apply hcheck | apply State.cnt_canon | apply State.qMakeRoom_canon | apply State.qAppend_canon
    | apply canon_ite

theorem State.partRecordBy_canon {push : Push} {s : State} {k code : Nat} {l : Loc} {cyc step action detail : Nat}
    (hpush : ∀ y0 : State, y0.Canon → ∀ y1 : Nat, ∀ y2 : Option Nat, ∀ y3 : List Nat, State.Canon (push y0 y1 y2 y3))
    (hs : s.Canon) : State.Canon (State.partRecordBy push s k code l cyc step action detail) := by
  unfold State.partRecordBy
  exact canon_ite (State.cnt_canon (State.wr_canon (State.wr_canon (hpush _ hs _ _ _)))) (State.cnt_canon hs)

theorem State.devRecordBy_canon {push : Push} {s : State} {code : Nat} {l : Loc} {action detail : Nat}
    (hpush : ∀ y0 : State, y0.Canon → ∀ y1 : Nat, ∀ y2 : Option Nat, ∀ y3 : List Nat, State.Canon (push y0 y1 y2 y3))
    (hs : s.Canon) : State.Canon (State.devRecordBy push s code l action detail) := by
  unfold State.devRecordBy
  exact State.raise_canon (State.wr_canon (hpush _ hs _ _ _))

theorem State.recEvent_canon {s : State} {k src : Nat} (hs : s.Canon) : State.Canon (s.recEvent k src) := by
  unfold State.recEvent
  with_reducible repeat' first | assumption | apply State.wr_canon | apply canon_ite

theorem State.recordBy_canon {push : Push} {s : State} {k code : Nat} {l : Loc} {cyc step action detail : Nat}
    (hpush : ∀ y0 : State, y0.Canon → ∀ y1 : Nat, ∀ y2 : Option Nat, ∀ y3 : List Nat, State.Canon (push y0 y1 y2 y3))
    (hs : s.Canon) : State.Canon (State.recordBy push s k code l cyc step action detail) := by
  unfold State.recordBy
  with_reducible repeat' first
    | assumption | apply State.partRecordBy_canon | apply State.recEvent_canon | apply canon_ite

theorem State.firstFault_canon {s : State} {k code from_ : Nat} (hs : s.Canon) : State.Canon
    (s.firstFault k code from_) := by
  unfold State.firstFault
  with_reducible repeat' first | assumption | apply State.wf_canon | apply canon_ite

theorem State.ptrFault_canon {push : Push} {s : State} {q : Nat}
    (hpush : ∀ y0 : State, y0.Canon → ∀ y1 : Nat, ∀ y2 : Option Nat, ∀ y3 : List Nat, State.Canon (push y0 y1 y2 y3))
    (hs : s.Canon) : State.Canon (State.ptrFault push s q) := by
  unfold State.ptrFault
  repeat' first
    | with_reducible assumption
    | (extract_lets +onlyGivenNames x; refine canon_cut (P := State.Canon x) ?_ ?_ <;> first | (clear_value x; intro _) | subst x)
    | with_reducible apply State.cnt_canon | with_reducible apply State.wr_canon
    | with_reducible apply State.qEmpty_canon | with_reducible apply State.recordBy_canon
    | with_reducible apply State.raise_canon | with_reducible apply State.firstFault_canon
    | with_reducible apply State.devRecordBy_canon | split

theorem State.pushRecordN_canon {a : Nat} {z1 : State} {z2 : Nat} {z3 : Option Nat} {z4 : List Nat} (hz1 : z1.Canon)
    : State.Canon (State.pushRecordN a z1 z2 z3 z4) := by
  induction a generalizing z1 z2 z3 z4 with
  | zero => exact State.putRecord_canon hz1 fun s h => h
  | succ n ih =>
    exact State.putRecord_canon hz1 fun s h => canon_ite (State.ptrFault_canon (fun y0 h y1 y2 y3 => ih h) h) h

theorem State.pushRecord_canon {s : State} {q : Nat} {pid : Option Nat} {words : List Nat} (hs : s.Canon) :
    State.Canon (s.pushRecord q pid words) := by
  unfold State.pushRecord
  exact State.pushRecordN_canon hs

theorem State.devRecord_canon {s : State} {code : Nat} {l : Loc} {action detail : Nat} (hs : s.Canon) : State.Canon
    (s.devRecord code l action detail) := by
  unfold State.devRecord
  with_reducible repeat' first | assumption | intro _ | apply State.devRecordBy_canon | apply State.pushRecord_canon

theorem State.qCheck_canon {s : State} {q : Nat} (hs : s.Canon) : State.Canon (s.qCheck q) := by
  unfold State.qCheck
  with_reducible repeat' first
    | assumption | intro _ | apply State.ptrFault_canon | apply State.pushRecord_canon | apply canon_ite

theorem State.qDeliver_canon {s : State} {q : Nat} {words : List Nat} (hs : s.Canon) : State.Canon
    (s.qDeliver q words) := by
  unfold State.qDeliver
  with_reducible repeat' first | assumption | apply State.qAppend_canon | apply State.qCheck_canon

theorem State.plumbSync_canon {s : State} {pid : Nat} (hs : s.Canon) : State.Canon (s.plumbSync pid) := by
  unfold State.plumbSync
  repeat' first
    | with_reducible assumption | with_reducible intro _
    | (extract_lets +onlyGivenNames x; refine canon_cut (P := State.Canon x) ?_ ?_ <;> first | (clear_value x; intro _) | subst x)
    | (extract_lets +onlyGivenNames x; clear_value x) | with_reducible apply State.wr_canon
    | with_reducible apply State.sendSym_canon | with_reducible apply canon_foldl | split

theorem State.plumbClear_canon {s : State} (hs : s.Canon) : State.Canon (s.plumbClear) := by
  unfold State.plumbClear
  with_reducible repeat' first | assumption | intro _ | apply State.drop_canon | apply canon_foldl

theorem State.plumbBegin_canon {s : State} (hs : s.Canon) : State.Canon (s.plumbBegin) := by
  unfold State.plumbBegin
  with_reducible repeat' first | assumption | intro _ | apply State.each_canon | apply State.plumbSync_canon

theorem State.pullsChanged_canon {s : State} {k : Nat} (hs : s.Canon) : State.Canon (s.pullsChanged k) := by
  unfold State.pullsChanged
  with_reducible repeat' first | assumption | apply State.plumbSync_canon | apply canon_ite

theorem State.addCause_canon {s : State} {k c : Nat} (hs : s.Canon) : State.Canon (s.addCause k c) := by
  unfold State.addCause
  repeat' first
    | with_reducible assumption | with_reducible apply State.pullsChanged_canon | with_reducible apply canon_ite
    | simp only [canon_update]

theorem State.dropCause_canon {s : State} {k c : Nat} (hs : s.Canon) : State.Canon (s.dropCause k c) := by
  unfold State.dropCause
  repeat' first
    | with_reducible assumption | with_reducible apply State.pullsChanged_canon | with_reducible apply canon_ite
    | simp only [canon_update]

theorem State.enterHeld_canon {s : State} {k : Nat} (hs : s.Canon) : State.Canon (s.enterHeld k) := by
  unfold State.enterHeld
  with_reducible repeat' first | assumption | apply State.cnt_canon | apply State.wr_canon

theorem State.dropLate_canon {s : State} {k : Nat} (hs : s.Canon) : State.Canon (s.dropLate k) := by
  unfold State.dropLate
  repeat' first
    | with_reducible assumption | with_reducible apply State.dropCause_canon | simp only [canon_update]

theorem State.takeLo_canon {s : State} {lo cur : Nat} (hs : s.Canon) : State.Canon (s.takeLo lo cur).2 := by
  unfold State.takeLo
  with_reducible repeat' first | assumption | apply State.wr_canon

/-! ### RecOps -/

theorem State.setRecHead_canon {s : State} {k v : Nat} (hs : s.Canon) : State.Canon (s.setRecHead k v) := by
  unfold State.setRecHead
  with_reducible repeat' first | assumption | apply State.setPair_canon

theorem State.setRecTail_canon {s : State} {k v : Nat} (hs : s.Canon) : State.Canon (s.setRecTail k v) := by
  unfold State.setRecTail
  with_reducible repeat' first | assumption | apply State.setPair_canon

theorem State.snapFlags_canon {s : State} {k : Nat} (hs : s.Canon) : State.Canon (s.snapFlags k) := by
  unfold State.snapFlags
  with_reducible repeat' first | assumption | apply State.wf_canon

theorem State.snapAbandon_canon {s : State} {k : Nat} (hs : s.Canon) : State.Canon (s.snapAbandon k) := by
  unfold State.snapAbandon
  repeat' first
    | with_reducible assumption | with_reducible apply State.snapFlags_canon | simp only [canon_update]

theorem State.feedPassed_canon {s : State} {k n : Nat} (hs : s.Canon) : State.Canon (s.feedPassed k n) := by
  unfold State.feedPassed
  repeat' first
    | with_reducible assumption | (intro _) | with_reducible apply State.each_canon
    | with_reducible apply State.wr_canon | with_reducible apply canon_ite | split | simp only [canon_update]

theorem State.freeRegion_canon {s : State} {k n : Nat} (hs : s.Canon) : State.Canon (s.freeRegion k n) := by
  unfold State.freeRegion
  repeat' first
    | with_reducible apply State.feedPassed_canon
    | with_reducible assumption | with_reducible apply State.setRecTail_canon | with_reducible apply State.wr_canon
    | with_reducible apply canon_ite | simp only [canon_update]

theorem State.snapLost_canon {s : State} {k : Nat} (hs : s.Canon) : State.Canon (s.snapLost k) := by
  unfold State.snapLost
  repeat' first
    | with_reducible assumption | with_reducible apply State.snapFlags_canon | simp only [canon_update]

theorem State.recRoom_canon {s : State} {k n a : Nat} (hs : s.Canon) : State.Canon (s.recRoom k n a) := by
  induction a generalizing s with
  | zero => exact hs
  | succ m ih =>
    unfold State.recRoom
    extract_lets last s1 s2
    have h1 : s1.Canon := State.cnt_canon (State.freeRegion_canon hs)
    have h2 : s2.Canon := State.snapLost_canon (State.raise_canon h1)
    exact canon_ite hs (canon_ite (State.wr_canon h2) (ih h2))

theorem State.snapClosed_canon {s : State} {k c : Nat} (hs : s.Canon) : State.Canon (s.snapClosed k c) := by
  unfold State.snapClosed
  repeat' first
    | with_reducible assumption | with_reducible apply State.setPair_canon | with_reducible apply State.wr_canon
    | split | simp only [canon_update]

theorem State.snapPlaced_canon {s : State} {p : RecPkt} {off : Nat} (hs : s.Canon) : State.Canon
    (s.snapPlaced p off) := by
  unfold State.snapPlaced
  repeat' first
    | with_reducible assumption | with_reducible apply State.snapClosed_canon | with_reducible apply canon_ite
    | simp only [canon_update]

theorem State.recPlace_canon {s : State} {p : RecPkt} (hs : s.Canon) : State.Canon (s.recPlace p) := by
  unfold State.recPlace
  repeat' first
    | with_reducible assumption | with_reducible apply State.snapPlaced_canon
    | with_reducible apply State.setPair_canon | with_reducible apply State.setRecHead_canon
    | with_reducible apply State.wr_canon | simp only [canon_update]

theorem State.recUnplace_canon {s : State} {k : Nat} {l : List RecPkt} (hs : s.Canon) : State.Canon
    (s.recUnplace k l) := by
  unfold State.recUnplace
  repeat' first
    | with_reducible assumption | with_reducible apply State.setPair_canon
    | with_reducible apply State.setRecHead_canon | with_reducible apply State.wr_canon | split
    | simp only [canon_update]

theorem State.recPut_canon {s : State} {p : RecPkt} (hs : s.Canon) : State.Canon (s.recPut p) := by
  unfold State.recPut
  with_reducible repeat' first
    | assumption | apply State.recPlace_canon | apply State.recUnplace_canon | apply canon_foldl | apply canon_ite

theorem State.backlogHold_canon {s : State} {k die : Nat} (hs : s.Canon) : State.Canon (s.backlogHold k die) := by
  unfold State.backlogHold
  with_reducible repeat' first
    | assumption | apply State.wr_canon | apply State.addCause_canon | apply State.raise_canon
    | apply State.wf_canon | apply canon_ite

theorem State.recBacklog_canon {s : State} {die : Nat} (hs : s.Canon) : State.Canon (s.recBacklog die) := by
  unfold State.recBacklog
  with_reducible repeat' first
    | assumption | intro _ | apply State.each_canon | apply State.backlogHold_canon | apply canon_ite

theorem State.recAlloc_canon {s : State} {k die typ cyc step phase : Nat} {body : List Nat} (hs : s.Canon) :
    State.Canon (s.recAlloc k die typ cyc step phase body) := by
  unfold State.recAlloc
  repeat' first
    | with_reducible assumption | (intro _) | with_reducible apply State.recRoom_canon
    | with_reducible apply State.wf_canon | with_reducible apply State.raise_canon
    | with_reducible apply State.addCause_canon | with_reducible apply State.recPut_canon
    | with_reducible apply canon_ite | split | simp only [canon_update]

theorem State.recPacket_canon {s : State} {k die typ cyc step phase : Nat} {body : List Nat} (hs : s.Canon) :
    State.Canon (s.recPacket k die typ cyc step phase body) := by
  unfold State.recPacket
  repeat' first
    | with_reducible apply State.recAlloc_canon
    | with_reducible assumption | with_reducible apply State.recBacklog_canon | with_reducible apply canon_ite
    | split | simp only [canon_update]

theorem State.recPump_canon {s : State} {k a : Nat} (hs : s.Canon) : State.Canon (s.recPump k a) := by
  induction a generalizing s with
  | zero => exact hs
  | succ m ih =>
    unfold State.recPump
    split
    · exact State.wf_canon hs
    · refine canon_ite hs (ih (State.recBacklog_canon (State.recPut_canon ?_)))
      exact canon_update.2 hs

theorem State.logInput_canon {s : State} {k die typ : Nat} {body : List Nat} (hs : s.Canon) : State.Canon
    (s.logInput k die typ body) := by
  unfold State.logInput
  with_reducible repeat' first | assumption | apply State.recPacket_canon | apply canon_ite

theorem State.cowAs_canon {s : State} {k die key v : Nat} (hs : s.Canon) : State.Canon (s.cowAs k die key v) := by
  unfold State.cowAs
  repeat' first
    | with_reducible assumption | with_reducible apply canon_ite | simp only [canon_update]

theorem State.cow_canon {s : State} {k die : Nat} {a : Arr} {i : Nat} (hs : s.Canon) : State.Canon (s.cow k die a i)
    := by
  unfold State.cow
  with_reducible repeat' first | assumption | apply State.cowAs_canon

theorem State.cowBay_canon {s : State} {k wall a : Nat} (hs : s.Canon) : State.Canon (s.cowBay k wall a) := by
  unfold State.cowBay
  with_reducible repeat' first | assumption | apply State.cowAs_canon

/-! ### Shadow -/

theorem State.shResult_canon {s : State} {k r : Nat} (hs : s.Canon) : State.Canon (s.shResult k r) := by
  unfold State.shResult
  with_reducible repeat' first | assumption | apply State.wr_canon

theorem State.shDrop_canon {s : State} {k : Nat} (hs : s.Canon) : State.Canon (s.shDrop k) := by
  unfold State.shDrop
  repeat' first
    | with_reducible assumption | with_reducible apply State.wr_canon | simp only [canon_update]

theorem State.shCancel_canon {s : State} {k : Nat} (hs : s.Canon) : State.Canon (s.shCancel k) := by
  unfold State.shCancel
  with_reducible repeat' first | assumption | apply State.shResult_canon | apply State.shDrop_canon | apply canon_ite

theorem State.esReload_canon {s : State} {k len start : Nat} (hs : s.Canon) : State.Canon (s.esReload k len start)
    := by
  unfold State.esReload
  with_reducible repeat' first
    | assumption | intro _ | apply State.each_canon | apply State.wrE_canon | apply State.wr_canon
    | apply State.logInput_canon

theorem State.shApply_canon {s : State} {k : Nat} {w : ShadowWrite} (hs : s.Canon) : State.Canon (s.shApply k w).1
    := by
  unfold State.shApply
  repeat' first
    | with_reducible assumption
    | (extract_lets +onlyGivenNames x; refine canon_cut (P := State.Canon x) ?_ ?_ <;> first | (clear_value x; intro _) | subst x)
    | (extract_lets +onlyGivenNames x; clear_value x) | with_reducible apply State.wr_canon
    | with_reducible apply State.wf_canon | with_reducible apply State.esReload_canon | split

theorem State.shCommit_canon {s : State} {k : Nat} (hs : s.Canon) : State.Canon (s.shCommit k) := by
  unfold State.shCommit
  with_reducible repeat' first
    | assumption | intro _ | apply State.shApply_canon | apply State.shResult_canon | apply State.shDrop_canon
    | apply canon_foldl_fst

theorem State.shadowSettle_canon {s : State} {k : Nat} (hs : s.Canon) : State.Canon (s.shadowSettle k) := by
  unfold State.shadowSettle
  with_reducible repeat' first | assumption | apply State.wr_canon | apply State.shCommit_canon | apply canon_ite

theorem State.shBegin_canon {s : State} {k : Nat} (hs : s.Canon) : State.Canon (s.shBegin k).2 := by
  unfold State.shBegin
  repeat' first
    | with_reducible assumption | with_reducible apply State.wr_canon | with_reducible apply State.shDrop_canon
    | split

theorem State.shDoCommit_canon {s : State} {k : Nat} (hs : s.Canon) : State.Canon (s.shDoCommit k).2 := by
  unfold State.shDoCommit
  repeat' first
    | with_reducible assumption
    | (extract_lets +onlyGivenNames x; refine canon_cut (P := State.Canon x) ?_ ?_ <;> first | (clear_value x; intro _) | subst x)
    | with_reducible apply State.shDrop_canon | with_reducible apply State.wr_canon
    | with_reducible apply State.shCommit_canon | split

theorem State.shAbort_canon {s : State} {k : Nat} (hs : s.Canon) : State.Canon (s.shAbort k) := by
  unfold State.shAbort
  with_reducible repeat' first | assumption | apply State.shDrop_canon

theorem State.shHold_canon {s : State} {k off sel val : Nat} (hs : s.Canon) : State.Canon (s.shHold k off sel val)
    := by
  unfold State.shHold
  repeat' first
    | with_reducible assumption | with_reducible apply State.wr_canon | with_reducible apply canon_ite
    | simp only [canon_update]

/-! ### LaunchOps -/

theorem State.lnEnd_canon {s : State} {i r : Nat} (hs : s.Canon) : State.Canon (s.lnEnd i r) := by
  unfold State.lnEnd
  with_reducible repeat' first | assumption | apply State.wr_canon

theorem State.lnCancel_canon {s : State} {k : Nat} (hs : s.Canon) : State.Canon (s.lnCancel k) := by
  unfold State.lnCancel
  with_reducible repeat' first | assumption | intro _ | apply State.lnEnd_canon | apply canon_foldl

theorem State.launchPend_canon {s : State} {k : Nat} (hs : s.Canon) : State.Canon (s.launchPend k) := by
  unfold State.launchPend
  with_reducible repeat' first | assumption | intro _ | apply State.wr_canon | apply canon_foldl | apply canon_ite

theorem State.softSettle_canon {s : State} {k : Nat} (hs : s.Canon) : State.Canon (s.softSettle k) := by
  unfold State.softSettle
  with_reducible repeat' first
    | assumption | apply State.addCause_canon | apply State.dropCause_canon | apply canon_ite

theorem State.lnCommit_canon {s : State} {k : Nat} (hs : s.Canon) : State.Canon (s.lnCommit k) := by
  unfold State.lnCommit
  with_reducible repeat' first
    | apply State.shResult_canon
    | assumption | apply State.shDoCommit_canon | apply canon_ite

theorem State.lnPerform_canon {s : State} {k i : Nat} (hs : s.Canon) : State.Canon (s.lnPerform k i) := by
  unfold State.lnPerform
  repeat' first
    | with_reducible assumption | with_reducible apply State.softSettle_canon | with_reducible apply State.wr_canon
    | with_reducible apply State.shResult_canon | with_reducible apply State.shDrop_canon
    | with_reducible apply State.shCommit_canon | with_reducible apply State.lnEnd_canon | split

theorem State.launchStep_canon {s : State} {k n : Nat} (hs : s.Canon) : State.Canon (s.launchStep k n) := by
  unfold State.launchStep
  with_reducible repeat' first | assumption | intro _ | apply State.lnPerform_canon | apply canon_foldl

/-! ### Stops -/

theorem State.recordNow_canon {s : State} {k code : Nat} {l : Loc} {cyc step action detail : Nat} (hs : s.Canon) :
    State.Canon (s.recordNow k code l cyc step action detail) := by
  unfold State.recordNow
  with_reducible repeat' first | assumption | intro _ | apply State.recordBy_canon | apply State.pushRecord_canon

theorem State.flushRecs_canon {s : State} {k : Nat} (hs : s.Canon) : State.Canon (s.flushRecs k) := by
  unfold State.flushRecs
  repeat' first
    | with_reducible assumption | with_reducible intro _ | with_reducible apply State.recordNow_canon
    | with_reducible apply canon_foldl | simp only [canon_update]

theorem State.record_canon {s : State} {k code : Nat} {l : Loc} {cyc step action detail : Nat} (hs : s.Canon) :
    State.Canon (s.record k code l cyc step action detail) := by
  unfold State.record
  repeat' first
    | with_reducible assumption | with_reducible apply State.recordNow_canon | with_reducible apply canon_ite
    | simp only [canon_update]

theorem State.enterStopped_canon {s : State} {k : Nat} {immediate : Bool} {step : Nat} (hs : s.Canon) : State.Canon
    (s.enterStopped k immediate step) := by
  unfold State.enterStopped
  repeat' first
    | with_reducible assumption | with_reducible apply State.wr_canon | with_reducible apply State.dropLate_canon
    | with_reducible apply State.flushRecs_canon | with_reducible apply State.wf_canon
    | with_reducible apply State.launchPend_canon | with_reducible apply State.shadowSettle_canon
    | with_reducible apply State.raise_canon | simp only [canon_update]

theorem State.stopImmediate_canon {s : State} {k : Nat} (hs : s.Canon) : State.Canon (s.stopImmediate k) := by
  unfold State.stopImmediate
  with_reducible repeat' first | assumption | apply State.enterStopped_canon | apply State.wr_canon | apply canon_ite

theorem State.addStop_canon {s : State} {z1 : PendStop} (hs : s.Canon) : State.Canon (s.addStop z1) := by
  unfold State.addStop
  repeat' first
    | with_reducible assumption | simp only [canon_update]

theorem State.sendNotice_canon {s : State} {k code : Nat} {imm : Bool} {cyc : Nat} (hs : s.Canon) : State.Canon
    (s.sendNotice k code imm cyc) := by
  unfold State.sendNotice
  with_reducible repeat' first | assumption | apply State.sendTree_canon | apply canon_ite

theorem State.act_canon {s : State} {k code act : Nat} (hs : s.Canon) : State.Canon (s.act k code act) := by
  unfold State.act
  with_reducible repeat' first
    | assumption | apply State.addStop_canon | apply State.stopImmediate_canon | apply State.sendNotice_canon
    | apply canon_ite

theorem State.faultAt_canon {s : State} {k code : Nat} {l : Loc} {cls : FClass} {cyc step detail : Nat}
    (hs : s.Canon) : State.Canon (s.faultAt k code l cls cyc step detail) := by
  unfold State.faultAt
  with_reducible repeat' first
    | assumption | apply State.record_canon | apply State.firstFault_canon | apply State.raise_canon
    | apply State.act_canon

theorem State.fault_canon {s : State} {k code : Nat} {l : Loc} {cls : FClass} {detail : Nat} (hs : s.Canon) :
    State.Canon (s.fault k code l cls detail) := by
  unfold State.fault
  with_reducible repeat' first | assumption | apply State.faultAt_canon

theorem State.unitFault_canon {s : State} {wall code : Nat} {l : Loc} {cls : FClass} {detail : Nat} (hs : s.Canon) :
    State.Canon (s.unitFault wall code l cls detail) := by
  unfold State.unitFault
  repeat' first
    | with_reducible assumption | with_reducible apply State.fault_canon
    | with_reducible apply State.devRecord_canon | split

/-! ### Operands -/

theorem State.putHist_canon {s : State} {bed step mask row : Nat} {flags : Option Nat} {lag : Nat} (hs : s.Canon) :
    State.Canon (s.putHist bed step mask row flags lag) := by
  unfold State.putHist
  repeat' first
    | with_reducible assumption | simp only [canon_update]

theorem State.flushOne_canon {s : State} {p : HistPend} (hs : s.Canon) : State.Canon (s.flushOne p) := by
  unfold State.flushOne
  repeat' first
    | with_reducible assumption | with_reducible apply State.wrE_canon | split

theorem State.flushHist_canon {s : State} {k : Nat} (hs : s.Canon) : State.Canon (s.flushHist k) := by
  unfold State.flushHist
  repeat' first
    | with_reducible assumption | with_reducible apply State.flushOne_canon | with_reducible apply canon_foldl
    | simp only [canon_update]

theorem State.countCe_canon {s : State} {die : Nat} {a : Arr} {i : Nat} (hs : s.Canon) : State.Canon
    (s.countCe die a i) := by
  unfold State.countCe
  with_reducible repeat' first | assumption | apply State.cnt_canon | apply canon_ite

theorem State.selCe_canon {s : State} {k bed sel : Nat} (hs : s.Canon) : State.Canon (s.selCe k bed sel) := by
  unfold State.selCe
  repeat' first
    | with_reducible assumption | with_reducible apply State.countCe_canon | split

theorem State.wopCe_canon {s : State} {bed f : Nat} (hs : s.Canon) : State.Canon (s.wopCe bed f) := by
  unfold State.wopCe
  with_reducible repeat' first | assumption | apply State.countCe_canon | apply canon_ite

theorem State.frozenCe_canon {s : State} {k t : Nat} (hs : s.Canon) : State.Canon (s.frozenCe k t) := by
  unfold State.frozenCe
  with_reducible repeat' first
    | assumption | intro _ | apply State.cnt_canon | apply State.selCe_canon | apply State.wopCe_canon
    | apply State.countCe_canon | apply canon_foldl | apply canon_ite

theorem State.freeze_canon {s : State} {k t : Nat} {items : List LateItem} (hs : s.Canon) : State.Canon
    (s.freeze k t items) := by
  unfold State.freeze
  repeat' first
    | with_reducible assumption | with_reducible apply State.frozenCe_canon
    | with_reducible apply State.addCause_canon | with_reducible apply State.enterHeld_canon
    | with_reducible apply State.wr_canon | with_reducible apply canon_ite | simp only [canon_update]

theorem State.releaseSvc_canon {s : State} (hs : s.Canon) : State.Canon (s.releaseSvc) := by
  unfold State.releaseSvc
  repeat' first
    | with_reducible apply State.releaseHeld_canon
    | with_reducible assumption | (intro _) | with_reducible apply canon_ite | split | simp only [canon_update]

theorem State.recSettle_canon {s : State} {k : Nat} (hs : s.Canon) : State.Canon (s.recSettle k) := by
  unfold State.recSettle
  with_reducible repeat' first
    | apply State.releaseSvc_canon
    | assumption | apply State.dropCause_canon | apply canon_ite

theorem State.refreshLate_canon {s : State} {k : Nat} (hs : s.Canon) : State.Canon (s.refreshLate k) := by
  unfold State.refreshLate
  repeat' first
    | with_reducible assumption | with_reducible apply State.dropCause_canon
    | with_reducible apply State.recSettle_canon | with_reducible apply canon_ite | simp only [canon_update]

theorem State.landBit_canon {s : State} {bed bank lane step : Nat} {v : Bool} (hs : s.Canon) : State.Canon
    (s.landBit bed bank lane step v) := by
  unfold State.landBit
  repeat' first
    | with_reducible assumption
    | (extract_lets +onlyGivenNames x; refine canon_cut (P := State.Canon x) ?_ ?_ <;> first | (clear_value x; intro _) | subst x)
    | (extract_lets +onlyGivenNames x; clear_value x) | with_reducible apply State.wrLand_canon
    | with_reducible apply State.wr_canon | with_reducible apply State.refreshLate_canon | split

theorem State.putLine_canon {s : State} {bed bank line data due : Nat} (hs : s.Canon) : State.Canon
    (s.putLine bed bank line data due) := by
  unfold State.putLine
  repeat' first
    | with_reducible apply State.wrPres_canon
    | with_reducible assumption
    | (extract_lets +onlyGivenNames x; refine canon_cut (P := State.Canon x) ?_ ?_ <;> first
    | (clear_value x; intro _) | subst x)
    | (extract_lets +onlyGivenNames x; clear_value x) | with_reducible apply State.wr_canon
    | with_reducible apply State.wrE_canon | with_reducible apply State.refreshLate_canon | split

theorem State.deliver_canon {s : State} {bed bank line n data due : Nat} (hs : s.Canon) : State.Canon
    (s.deliver bed bank line n data due) := by
  unfold State.deliver
  with_reducible repeat' first
    | assumption | intro _ | apply State.each_canon | apply State.putLine_canon | apply canon_ite

theorem State.noteRead_canon {s : State} {k t : Nat} {a : Arr} {i : Nat} {l : Loc} {detail : Nat} (hs : s.Canon) :
    State.Canon (s.noteRead k t a i l detail) := by
  unfold State.noteRead
  repeat' first
    | with_reducible assumption | with_reducible apply State.cnt_canon | with_reducible apply State.faultAt_canon
    | split

theorem State.noteBad_canon {s : State} {k t : Nat} {bad : Bool} {l : Loc} {detail : Nat} (hs : s.Canon) :
    State.Canon (s.noteBad k t bad l detail) := by
  unfold State.noteBad
  with_reducible repeat' first | assumption | apply State.faultAt_canon | apply canon_ite

theorem State.noteHist_canon {s : State} {k t bed step g : Nat} (hs : s.Canon) : State.Canon
    (s.noteHist k t bed step g) := by
  unfold State.noteHist
  with_reducible repeat' first | assumption | apply State.noteBad_canon

theorem State.noteFlags_canon {s : State} {k t bed step : Nat} (hs : s.Canon) : State.Canon
    (s.noteFlags k t bed step) := by
  unfold State.noteFlags
  with_reducible repeat' first | assumption | apply State.noteBad_canon

theorem State.noteState_canon {s : State} {k t bed a : Nat} (hs : s.Canon) : State.Canon (s.noteState k t bed a) :=
    by
  unfold State.noteState
  with_reducible repeat' first | assumption | apply State.noteRead_canon

theorem State.noteLand_canon {s : State} {k t bed bank step lanes : Nat} (hs : s.Canon) : State.Canon
    (s.noteLand k t bed bank step lanes) := by
  unfold State.noteLand
  with_reducible repeat' first | assumption | apply State.noteBad_canon

theorem State.notePort_canon {s : State} {k t bed bank line : Nat} (hs : s.Canon) : State.Canon
    (s.notePort k t bed bank line) := by
  unfold State.notePort
  with_reducible repeat' first | assumption | apply State.noteRead_canon | apply State.noteBad_canon

theorem State.noteSel_canon {s : State} {k bed t sel : Nat} (hs : s.Canon) : State.Canon (s.noteSel k bed t sel) :=
    by
  unfold State.noteSel
  repeat' first
    | with_reducible assumption | (extract_lets +onlyGivenNames x; clear_value x)
    | with_reducible apply State.noteHist_canon | with_reducible apply State.noteState_canon
    | with_reducible apply State.noteLand_canon | with_reducible apply State.notePort_canon
    | with_reducible apply State.faultAt_canon | with_reducible apply State.noteFlags_canon | split

theorem State.noteWop_canon {s : State} {k bed t f : Nat} (hs : s.Canon) : State.Canon (s.noteWop k bed t f) := by
  unfold State.noteWop
  repeat' first
    | with_reducible assumption | with_reducible apply State.noteHist_canon
    | with_reducible apply State.noteLand_canon | with_reducible apply State.noteState_canon | split

theorem State.hzHistRead_canon {s : State} {k bed step g t r cells : Nat} {row : Bool} {l : Loc} (hs : s.Canon) :
    State.Canon (s.hzHistRead k bed step g t r cells row l) := by
  unfold State.hzHistRead
  repeat' first
    | with_reducible assumption | (extract_lets +onlyGivenNames x; clear_value x)
    | with_reducible apply State.faultAt_canon | split

theorem State.hzFlagRead_canon {s : State} {k bed step f t r : Nat} {l : Loc} (hs : s.Canon) : State.Canon
    (s.hzFlagRead k bed step f t r l) := by
  unfold State.hzFlagRead
  with_reducible repeat' first | assumption | apply State.faultAt_canon | apply canon_ite

theorem State.hzLandRead_canon {s : State} {k bank lstep t r lanes : Nat} {row : Bool} {l : Loc} (hs : s.Canon) :
    State.Canon (s.hzLandRead k bank lstep t r lanes row l) := by
  unfold State.hzLandRead
  with_reducible repeat' first | assumption | apply State.faultAt_canon | apply canon_ite

theorem State.hzPortRead_canon {s : State} {k bed bank line t r : Nat} {l : Loc} (hs : s.Canon) : State.Canon
    (s.hzPortRead k bed bank line t r l) := by
  unfold State.hzPortRead
  with_reducible repeat' first | assumption | apply State.faultAt_canon | apply canon_ite

theorem State.hzSel_canon {s : State} {k cell t sel : Nat} (hs : s.Canon) : State.Canon (s.hzSel k cell t sel) := by
  unfold State.hzSel
  repeat' first
    | with_reducible assumption | with_reducible apply State.hzHistRead_canon
    | with_reducible apply State.hzLandRead_canon | with_reducible apply State.hzPortRead_canon
    | with_reducible apply State.hzFlagRead_canon | split

theorem State.hzWop_canon {s : State} {k bed t f : Nat} (hs : s.Canon) : State.Canon (s.hzWop k bed t f) := by
  unfold State.hzWop
  repeat' first
    | with_reducible assumption | with_reducible apply State.hzHistRead_canon
    | with_reducible apply State.hzLandRead_canon | split

theorem State.hzMark_canon {s : State} {bed step mask lag : Nat} (hs : s.Canon) : State.Canon
    (s.hzMark bed step mask lag) := by
  unfold State.hzMark
  with_reducible repeat' first | assumption | apply State.wr_canon | apply canon_ite

/-! ### Access -/

theorem State.bedStore_canon {s : State} {a : BedAcc} {data pres : Nat} {setP clrP : Bool} (hs : s.Canon) :
    State.Canon (s.bedStore a data pres setP clrP) := by
  unfold State.bedStore
  repeat' first
    | with_reducible apply State.wrPres_canon
    | with_reducible assumption | with_reducible apply State.cow_canon | with_reducible apply State.wrLand_canon
    | with_reducible apply State.wrE_canon | with_reducible apply State.wr_canon | split | simp only [canon_update]

theorem State.logStore_canon {s : State} {a : BedAcc} {loc ix data pres : Nat} {setP clrP : Bool} (hs : s.Canon) :
    State.Canon (s.logStore a loc ix data pres setP clrP) := by
  unfold State.logStore
  repeat' first
    | with_reducible assumption | with_reducible apply State.logInput_canon | split

theorem State.setBedData_canon {s : State} {die v : Nat} (hs : s.Canon) : State.Canon (s.setBedData die v) := by
  unfold State.setBedData
  with_reducible repeat' first | assumption | apply State.setPair_canon

theorem State.accBegin_canon {s : State} {die port r : Nat} (hs : s.Canon) : State.Canon (s.accBegin die port r) :=
    by
  unfold State.accBegin
  with_reducible repeat' first | assumption | apply State.wr_canon

theorem State.accRead_canon {s : State} {die : Nat} {arr : Arr} {i : Nat} (hs : s.Canon) : State.Canon
    (s.accRead die arr i).2 := by
  unfold State.accRead
  repeat' first
    | with_reducible assumption | with_reducible apply State.cnt_canon | split

theorem State.bedRead_canon {s : State} {die : Nat} {a : BedAcc} (hs : s.Canon) : State.Canon (s.bedRead die a).2 :=
    by
  unfold State.bedRead
  repeat' first
    | with_reducible assumption | with_reducible apply State.accRead_canon | split

theorem State.bedPerform_canon {s : State} {who : Who} {die : Nat} {write setP clrP : Bool} (hs : s.Canon) :
    State.Canon (s.bedPerform who die write setP clrP) := by
  unfold State.bedPerform
  with_reducible repeat' first
    | assumption | apply State.accBegin_canon | apply State.bedStore_canon | apply State.logStore_canon
    | apply State.wf_canon | apply State.bedRead_canon | apply State.setBedData_canon | apply canon_ite

theorem State.accHold_canon {s : State} {who : Who} {die port : Nat} {write setP clrP : Bool} (hs : s.Canon) :
    State.Canon (s.accHold who die port write setP clrP) := by
  unfold State.accHold
  repeat' first
    | with_reducible assumption | simp only [canon_update]

theorem State.bedAccess_canon {s : State} {who : Who} {die : Nat} {write setP clrP : Bool} (hs : s.Canon) :
    State.Canon (s.bedAccess who die write setP clrP) := by
  unfold State.bedAccess
  with_reducible repeat' first
    | assumption | apply State.wf_canon | apply State.accHold_canon | apply State.bedPerform_canon | apply canon_ite

theorem State.accDone_canon {s : State} {die port : Nat} {busy result : Fld} (hs : s.Canon) : State.Canon
    (s.accDone die port busy result) := by
  unfold State.accDone
  with_reducible repeat' first | assumption | apply State.wr_canon | apply State.wf_canon | apply canon_ite

theorem State.accDrop_canon {s : State} {die port : Nat} (hs : s.Canon) : State.Canon (s.accDrop die port) := by
  unfold State.accDrop
  repeat' first
    | with_reducible assumption | simp only [canon_update]

theorem State.bedComplete_canon {s : State} {die : Nat} (hs : s.Canon) : State.Canon (s.bedComplete die) := by
  unfold State.bedComplete
  repeat' first
    | with_reducible assumption | with_reducible apply State.accDone_canon
    | with_reducible apply State.bedPerform_canon | with_reducible apply State.accDrop_canon | split

theorem execBedAccRead_canon {who : Who} {die : Fin 8} {s : State} (hs : s.Canon) : Res.Canon
    (execBedAccRead who die s) := by
  unfold execBedAccRead
  with_reducible repeat' first
    | assumption | intro _ | apply State.accessDom_canon | apply State.okay_canon | apply State.bedAccess_canon
    | apply canon_next

theorem execBedAccWrite_canon {who : Who} {die : Fin 8} {setPres clrPres : Bool} {s : State} (hs : s.Canon) :
    Res.Canon (execBedAccWrite who die setPres clrPres s) := by
  unfold execBedAccWrite
  with_reducible repeat' first
    | assumption | intro _ | apply State.accessDom_canon | apply State.okay_canon | apply State.bedAccess_canon
    | apply canon_next

theorem execBedAccDone_canon {die : Fin 8} {s : State} (hs : s.Canon) : Res.Canon (execBedAccDone die s) := by
  unfold execBedAccDone
  with_reducible repeat' first
    | assumption | intro _ | apply State.live_canon | apply State.bedComplete_canon | apply canon_next

theorem State.wuPerform_canon {s : State} {who : Who} {die : Nat} {write : Bool} (hs : s.Canon) : State.Canon
    (s.wuPerform who die write) := by
  unfold State.wuPerform
  with_reducible repeat' first
    | assumption | apply State.accBegin_canon | apply State.wrE_canon | apply State.accRead_canon
    | apply State.wf_canon | apply canon_ite

theorem State.wuAccess_canon {s : State} {who : Who} {die : Nat} {write : Bool} (hs : s.Canon) : State.Canon
    (s.wuAccess who die write) := by
  unfold State.wuAccess
  with_reducible repeat' first
    | assumption | apply State.wf_canon | apply State.accHold_canon | apply State.wuPerform_canon | apply canon_ite

theorem State.wuComplete_canon {s : State} {die : Nat} (hs : s.Canon) : State.Canon (s.wuComplete die) := by
  unfold State.wuComplete
  repeat' first
    | with_reducible assumption | with_reducible apply State.accDone_canon
    | with_reducible apply State.wuPerform_canon | with_reducible apply State.accDrop_canon | split

theorem execWuAccRead_canon {who : Who} {die : Fin 8} {s : State} (hs : s.Canon) : Res.Canon
    (execWuAccRead who die s) := by
  unfold execWuAccRead
  with_reducible repeat' first
    | assumption | intro _ | apply State.accessDom_canon | apply State.okay_canon | apply State.wuAccess_canon
    | apply canon_next

theorem execWuAccWrite_canon {who : Who} {die : Fin 8} {s : State} (hs : s.Canon) : Res.Canon
    (execWuAccWrite who die s) := by
  unfold execWuAccWrite
  with_reducible repeat' first
    | assumption | intro _ | apply State.accessDom_canon | apply State.okay_canon | apply State.wuAccess_canon
    | apply canon_next

theorem execWuAccDone_canon {die : Fin 8} {s : State} (hs : s.Canon) : Res.Canon (execWuAccDone die s) := by
  unfold execWuAccDone
  with_reducible repeat' first
    | assumption | intro _ | apply State.live_canon | apply State.wuComplete_canon | apply canon_next

/-! ### Mem -/

theorem State.putBytes_canon {s : State} {a v z1 : Nat} (hs : s.Canon) : State.Canon (s.putBytes a v z1) := by
  fun_induction s.putBytes a v z1
  all_goals with_reducible repeat' first | apply_assumption | apply State.putByte_canon

theorem State.writeBack_canon {s : State} {line data : Nat} (hs : s.Canon) : State.Canon (s.writeBack line data) :=
    by
  unfold State.writeBack
  repeat' first
    | with_reducible assumption | with_reducible apply State.wr_canon | with_reducible apply State.putBytes_canon
    | with_reducible apply canon_ite | split | simp only [canon_update]

theorem State.l2Drop_canon {s : State} {die line : Nat} (hs : s.Canon) : State.Canon (s.l2Drop die line) := by
  unfold State.l2Drop
  repeat' first
    | with_reducible assumption | (intro _) | with_reducible apply State.writeBack_canon
    | with_reducible apply canon_ite | split | simp only [canon_update]

theorem State.snoopRead_canon {s : State} {line : Nat} (hs : s.Canon) : State.Canon (s.snoopRead line) := by
  unfold State.snoopRead
  repeat' first
    | with_reducible assumption | (intro _) | with_reducible apply State.l2Drop_canon
    | with_reducible apply canon_ite | with_reducible apply canon_foldl | split | simp only [canon_update]

theorem State.snoop_canon {s : State} {line : Nat} (hs : s.Canon) : State.Canon (s.snoop line) := by
  unfold State.snoop
  repeat' first
    | with_reducible assumption | (intro _) | with_reducible apply State.l2Drop_canon
    | with_reducible apply canon_ite | with_reducible apply canon_foldl | split | simp only [canon_update]

theorem State.noteUe_canon {s : State} {a : Nat} (hs : s.Canon) : State.Canon (s.noteUe a) := by
  unfold State.noteUe
  with_reducible repeat' first
    | assumption | apply State.raise_canon | apply State.setPair_canon | apply State.cnt_canon

theorem State.wakeMem_canon {s : State} {a : Nat} (hs : s.Canon) : State.Canon (s.wakeMem a) := by
  unfold State.wakeMem
  with_reducible repeat' first | assumption | apply State.domUp_canon | apply canon_ite

theorem State.noteCe_canon {s : State} {a : Nat} (hs : s.Canon) : State.Canon (s.noteCe a) := by
  unfold State.noteCe
  with_reducible repeat' first | assumption | apply State.wr_canon | apply State.cnt_canon

theorem State.hbmRead_canon {s : State} {a n : Nat} (hs : s.Canon) : State.Canon (s.hbmRead a n).st := by
  have h0 := State.snoopRead_canon (line := a / 64) (State.wakeMem_canon (a := a) hs)
  unfold State.hbmRead
  dsimp only
  repeat' first
    | with_reducible assumption | with_reducible apply State.free_canon | with_reducible apply State.noteCe_canon
    | with_reducible apply State.noteUe_canon | split

theorem State.hbmWrite_canon {s : State} {a n v : Nat} (hs : s.Canon) : State.Canon (s.hbmWrite a n v).st := by
  unfold State.hbmWrite
  repeat' first
    | with_reducible assumption
    | (extract_lets +onlyGivenNames x; refine canon_cut (P := State.Canon x) ?_ ?_ <;> first | (clear_value x; intro _) | subst x)
    | with_reducible apply State.snoop_canon | with_reducible apply State.wakeMem_canon
    | with_reducible apply State.noteUe_canon | with_reducible apply State.noteCe_canon
    | with_reducible apply State.wr_canon | with_reducible apply State.free_canon
    | with_reducible apply State.putBytes_canon | split

theorem State.hbmAccess_canon {s : State} {w : Stamp} {write : Bool} {a n v : Nat} (hs : s.Canon) : State.Canon
    (s.hbmAccess w write a n v).st := by
  unfold State.hbmAccess
  repeat' first
    | with_reducible assumption | with_reducible apply State.hbmWrite_canon
    | with_reducible apply State.hbmRead_canon | split

theorem State.niAccess_canon {s : State} {die ni : Nat} {w : Stamp} {write : Bool} {a n v : Nat} (hs : s.Canon) :
    State.Canon (s.niAccess die ni w write a n v).st := by
  unfold State.niAccess
  dsimp only
  split
  · exact State.hbmAccess_canon hs
  · exact State.noteNoRoute_canon hs

theorem State.linkDown_canon {s : State} {addr : Nat} (hs : s.Canon) : State.Canon (s.linkDown addr).2 := by
  unfold State.linkDown
  repeat' first
    | with_reducible assumption | with_reducible apply State.free_canon | split

end Sys2Proof.Machine
end

