-- ==== Sys2Proof/Laws/CanonCells.lean ====
section
/-! SUPPORT. Every operation keeps the canonical form of the stores (`State.Canon`): cells, word units, port units, bays and the mortar. -/

namespace Sys2Proof.Machine

open Reg

/-! ### Cells -/

theorem State.mark_canon {s : State} {kind place : Nat} (hs : s.Canon) : State.Canon (s.mark kind place) := by
  unfold State.mark
  repeat' first
    | with_reducible assumption | simp only [canon_update]

theorem State.unit_canon {s : State} {kind place wall : Nat} {f : Nat → Nat → State} (hs : s.Canon)
    (hf : ∀ y0 : Nat, ∀ y1 : Nat, State.Canon (f y0 y1)) : State.Canon (s.unit kind place wall f) := by
  unfold State.unit
  repeat' first
    | with_reducible assumption | with_reducible apply hf | split

theorem State.voted_canon {s : State} {k t : Nat} {go : State} (hs : s.Canon) (hgo : go.Canon) : State.Canon
    (s.voted k t go) := by
  unfold State.voted
  repeat' first
    | with_reducible assumption | with_reducible apply State.freeze_canon | split

theorem State.noteImem_canon {s : State} {k c t : Nat} (hs : s.Canon) : State.Canon (s.noteImem k c t) := by
  unfold State.noteImem
  repeat' first
    | with_reducible assumption | with_reducible apply State.cnt_canon | with_reducible apply State.faultAt_canon
    | split

theorem State.cellHist_canon {s : State} {c t r : Nat} (hs : s.Canon) : State.Canon (s.cellHist c t r) := by
  unfold State.cellHist
  with_reducible repeat' first | assumption | apply State.hzMark_canon | apply State.putHist_canon

theorem State.cellIssue_canon {s : State} {c : CellLoc} {p : Nat → Bool} {f : Nat → Nat → Nat → State → State}
    (hs : s.Canon) (hf : ∀ y0 : Nat, ∀ y1 : Nat, ∀ y2 : Nat, ∀ y3 : State, y3.Canon → State.Canon (f y0 y1 y2 y3)) :
    State.Canon (s.cellIssue c p f) := by
  unfold State.cellIssue
  with_reducible repeat' first
    | assumption | intro _ | apply hf | apply State.unit_canon | apply State.voted_canon
    | apply State.noteImem_canon | apply State.mark_canon | apply canon_ite

theorem State.cellNop_canon {s : State} {c t : Nat} (hs : s.Canon) : State.Canon (s.cellNop c t) := by
  unfold State.cellNop
  with_reducible repeat' first | assumption | apply State.cellHist_canon

theorem execNop_canon {c : CellLoc} {s : State} (hs : s.Canon) : Res.Canon (execNop c s) := by
  unfold execNop
  with_reducible repeat' first
    | assumption | intro _ | apply State.live_canon | apply State.cellIssue_canon | apply State.cellNop_canon
    | apply canon_next

theorem State.putShadow_canon {s : State} {k c a t r : Nat} (hs : s.Canon) : State.Canon (s.putShadow k c a t r) :=
    by
  unfold State.putShadow
  with_reducible repeat' first
    | assumption | apply State.faultAt_canon | apply State.wr_canon | apply State.wrE_canon | apply canon_ite

theorem State.cellEval_canon {s : State} {k c t w : Nat} {isAssert : Bool} (hs : s.Canon) : State.Canon
    (s.cellEval k c t w isAssert) := by
  unfold State.cellEval
  repeat' first
    | with_reducible assumption | with_reducible intro _
    | (extract_lets +onlyGivenNames x; refine canon_cut (P := State.Canon x) ?_ ?_ <;> first | (clear_value x; intro _) | subst x)
    | (extract_lets +onlyGivenNames x; clear_value x) | with_reducible apply State.cellHist_canon
    | with_reducible apply State.faultAt_canon | with_reducible apply State.hzSel_canon
    | with_reducible apply State.noteSel_canon | with_reducible apply State.putShadow_canon
    | with_reducible apply State.wr_canon | with_reducible apply canon_foldl | split

theorem execEval_canon {c : CellLoc} {s : State} (hs : s.Canon) : Res.Canon (execEval c s) := by
  unfold execEval
  with_reducible repeat' first
    | assumption | intro _ | apply State.live_canon | apply State.cellIssue_canon | apply State.cellEval_canon
    | apply canon_next

theorem execAssert_canon {c : CellLoc} {s : State} (hs : s.Canon) : Res.Canon (execAssert c s) := by
  unfold execAssert
  with_reducible repeat' first
    | assumption | intro _ | apply State.live_canon | apply State.cellIssue_canon | apply State.cellEval_canon
    | apply canon_next

theorem State.cellReserved_canon {s : State} {k c t w : Nat} (hs : s.Canon) : State.Canon (s.cellReserved k c t w)
    := by
  unfold State.cellReserved
  with_reducible repeat' first | assumption | apply State.cellHist_canon | apply State.faultAt_canon

theorem execCellOpReserved_canon {c : CellLoc} {s : State} (hs : s.Canon) : Res.Canon (execCellOpReserved c s) := by
  unfold execCellOpReserved
  with_reducible repeat' first
    | assumption | intro _ | apply State.live_canon | apply State.cellIssue_canon | apply State.cellReserved_canon
    | apply canon_next

theorem State.zeroCells_canon {s : State} {bed t mask lag : Nat} (hs : s.Canon) : State.Canon
    (s.zeroCells bed t mask lag) := by
  unfold State.zeroCells
  with_reducible repeat' first | assumption | apply State.hzMark_canon | apply State.putHist_canon

theorem State.yieldMismatch_canon {s : State} {k bed t op : Nat} (hs : s.Canon) : State.Canon
    (s.yieldMismatch k bed t op) := by
  unfold State.yieldMismatch
  with_reducible repeat' first | assumption | apply State.zeroCells_canon | apply State.faultAt_canon

theorem State.wordStoreError_canon {s : State} {k bed t : Nat} (hs : s.Canon) : State.Canon
    (s.wordStoreError k bed t) := by
  unfold State.wordStoreError
  with_reducible repeat' first | assumption | apply State.zeroCells_canon | apply State.faultAt_canon

theorem State.cellYield_canon {s : State} {k bed t : Nat} (hs : s.Canon) : State.Canon (s.cellYield k bed t) := by
  unfold State.cellYield
  with_reducible repeat' first
    | assumption | apply State.wordStoreError_canon | apply State.mark_canon | apply State.yieldMismatch_canon
    | apply canon_ite

theorem execYield_canon {c : CellLoc} {s : State} (hs : s.Canon) : Res.Canon (execYield c s) := by
  unfold execYield
  with_reducible repeat' first
    | assumption | intro _ | apply State.live_canon | apply State.cellIssue_canon | apply State.cellYield_canon
    | apply canon_next

theorem State.cellRun_canon {s : State} {k c t w : Nat} (hs : s.Canon) : State.Canon (s.cellRun k c t w) := by
  unfold State.cellRun
  repeat' first
    | with_reducible assumption | with_reducible apply State.cellNop_canon
    | with_reducible apply State.cellEval_canon | with_reducible apply State.cellYield_canon
    | with_reducible apply State.cellReserved_canon | split

/-! ### Ports -/

theorem State.zeroLines_canon {s : State} {k u w : Nat} (hs : s.Canon) : State.Canon (s.zeroLines k u w) := by
  unfold State.zeroLines
  with_reducible repeat' first | assumption | apply State.deliver_canon

theorem State.notePimem_canon {s : State} {k u t : Nat} (hs : s.Canon) : State.Canon (s.notePimem k u t) := by
  unfold State.notePimem
  repeat' first
    | with_reducible assumption | with_reducible apply State.cnt_canon | with_reducible apply State.faultAt_canon
    | split

theorem State.portIssue_canon {s : State} {c : CourseLoc} {p : Nat → Bool} {f : Nat → Nat → Nat → State → State}
    (hs : s.Canon) (hf : ∀ y0 : Nat, ∀ y1 : Nat, ∀ y2 : Nat, ∀ y3 : State, y3.Canon → State.Canon (f y0 y1 y2 y3)) :
    State.Canon (s.portIssue c p f) := by
  unfold State.portIssue
  with_reducible repeat' first
    | assumption | intro _ | apply hf | apply State.unit_canon | apply State.voted_canon
    | apply State.notePimem_canon | apply State.mark_canon | apply canon_ite

theorem execPnop_canon {c : CourseLoc} {s : State} (hs : s.Canon) : Res.Canon (execPnop c s) := by
  unfold execPnop
  with_reducible repeat' first
    | assumption | intro _ | apply State.live_canon | apply State.portIssue_canon | apply canon_next

theorem State.portFieldFault_canon {s : State} {k u t w reason : Nat} (hs : s.Canon) : State.Canon
    (s.portFieldFault k u t w reason) := by
  unfold State.portFieldFault
  with_reducible repeat' first | assumption | apply State.faultAt_canon

theorem State.gatherRow_canon {s : State} {k u t w : Nat} (hs : s.Canon) : State.Canon (s.gatherRow k u t w) := by
  unfold State.gatherRow
  repeat' first
    | with_reducible assumption | with_reducible apply State.hzHistRead_canon
    | with_reducible apply State.noteHist_canon | with_reducible apply State.hzLandRead_canon
    | with_reducible apply State.noteLand_canon | with_reducible apply State.noteState_canon
    | with_reducible apply State.wr_canon | with_reducible apply canon_ite | split

theorem State.runGather_canon {s : State} {k u t w : Nat} (hs : s.Canon) : State.Canon (s.runGather k u t w) := by
  unfold State.runGather
  repeat' first
    | with_reducible assumption | with_reducible apply State.portFieldFault_canon
    | with_reducible apply State.gatherRow_canon | split

theorem execGather_canon {c : CourseLoc} {s : State} (hs : s.Canon) : Res.Canon (execGather c s) := by
  unfold execGather
  with_reducible repeat' first
    | assumption | intro _ | apply State.live_canon | apply State.portIssue_canon | apply State.runGather_canon
    | apply canon_next

theorem State.runGatheri_canon {s : State} {u w : Nat} (hs : s.Canon) : State.Canon (s.runGatheri u w) := by
  unfold State.runGatheri
  with_reducible repeat' first | assumption | apply State.wr_canon

theorem execGatheri_canon {c : CourseLoc} {s : State} (hs : s.Canon) : Res.Canon (execGatheri c s) := by
  unfold execGatheri
  with_reducible repeat' first
    | assumption | intro _ | apply State.live_canon | apply State.portIssue_canon | apply State.runGatheri_canon
    | apply canon_next

theorem State.issueRun_canon {s : State} {k u t w addrSlots : Nat} {tagged : Bool} {f : Nat → State → State}
    (hs : s.Canon) (hf : ∀ y0 : Nat, ∀ y1 : State, y1.Canon → State.Canon (f y0 y1)) : State.Canon
    (s.issueRun k u t w addrSlots tagged f) := by
  unfold State.issueRun
  repeat' first
    | with_reducible assumption | (extract_lets +onlyGivenNames x; clear_value x) | with_reducible apply hf
    | with_reducible apply State.zeroLines_canon | with_reducible apply State.portFieldFault_canon
    | with_reducible apply State.faultAt_canon | split

theorem State.bayRequest_canon {s : State} {k u t w addr : Nat} {write : Bool} (hs : s.Canon) : State.Canon
    (s.bayRequest k u t w addr write) := by
  unfold State.bayRequest
  repeat' first
    | with_reducible assumption | simp only [canon_update]

theorem State.runBayrd_canon {s : State} {k u t w : Nat} (hs : s.Canon) : State.Canon (s.runBayrd k u t w) := by
  unfold State.runBayrd
  with_reducible repeat' first | assumption | intro _ | apply State.issueRun_canon | apply State.bayRequest_canon

theorem State.runBaywr_canon {s : State} {k u t w : Nat} (hs : s.Canon) : State.Canon (s.runBaywr k u t w) := by
  unfold State.runBaywr
  with_reducible repeat' first | assumption | intro _ | apply State.issueRun_canon | apply State.bayRequest_canon

theorem execBayrd_canon {c : CourseLoc} {s : State} (hs : s.Canon) : Res.Canon (execBayrd c s) := by
  unfold execBayrd
  with_reducible repeat' first
    | assumption | intro _ | apply State.live_canon | apply State.portIssue_canon | apply State.runBayrd_canon
    | apply canon_next

theorem execBaywr_canon {c : CourseLoc} {s : State} (hs : s.Canon) : Res.Canon (execBaywr c s) := by
  unfold execBaywr
  with_reducible repeat' first
    | assumption | intro _ | apply State.live_canon | apply State.portIssue_canon | apply State.runBaywr_canon
    | apply canon_next

theorem State.sendMme_canon {s : State} {k u t w addr : Nat} {kind : MmeKind} (hs : s.Canon) : State.Canon
    (s.sendMme k u t w addr kind) := by
  unfold State.sendMme
  repeat' first
    | with_reducible assumption | with_reducible apply State.wr_canon | with_reducible apply canon_ite
    | simp only [canon_update]

theorem State.runMrd_canon {s : State} {k u t w : Nat} (hs : s.Canon) : State.Canon (s.runMrd k u t w) := by
  unfold State.runMrd
  with_reducible repeat' first | assumption | intro _ | apply State.issueRun_canon | apply State.sendMme_canon

theorem State.runMwr_canon {s : State} {k u t w : Nat} (hs : s.Canon) : State.Canon (s.runMwr k u t w) := by
  unfold State.runMwr
  with_reducible repeat' first | assumption | intro _ | apply State.issueRun_canon | apply State.sendMme_canon

theorem State.runMgath_canon {s : State} {k u t w : Nat} (hs : s.Canon) : State.Canon (s.runMgath k u t w) := by
  unfold State.runMgath
  with_reducible repeat' first | assumption | intro _ | apply State.issueRun_canon | apply State.sendMme_canon

theorem execMrd_canon {c : CourseLoc} {s : State} (hs : s.Canon) : Res.Canon (execMrd c s) := by
  unfold execMrd
  with_reducible repeat' first
    | assumption | intro _ | apply State.live_canon | apply State.portIssue_canon | apply State.runMrd_canon
    | apply canon_next

theorem execMwr_canon {c : CourseLoc} {s : State} (hs : s.Canon) : Res.Canon (execMwr c s) := by
  unfold execMwr
  with_reducible repeat' first
    | assumption | intro _ | apply State.live_canon | apply State.portIssue_canon | apply State.runMwr_canon
    | apply canon_next

theorem execMgath_canon {c : CourseLoc} {s : State} (hs : s.Canon) : Res.Canon (execMgath c s) := by
  unfold execMgath
  with_reducible repeat' first
    | assumption | intro _ | apply State.live_canon | apply State.portIssue_canon | apply State.runMgath_canon
    | apply canon_next

theorem State.portalSend_canon {s : State} {k u q : Nat} {words : List Nat} (hs : s.Canon) : State.Canon
    (s.portalSend k u q words) := by
  unfold State.portalSend
  repeat' first
    | with_reducible assumption | with_reducible apply State.wr_canon | with_reducible apply State.qDeliver_canon
    | with_reducible apply State.addCause_canon | with_reducible apply canon_ite | simp only [canon_update]

theorem State.runCall_canon {s : State} {k u t w : Nat} (hs : s.Canon) : State.Canon (s.runCall k u t w) := by
  unfold State.runCall
  with_reducible repeat' first
    | assumption | intro _ | apply State.issueRun_canon | apply State.portalSend_canon | apply canon_ite

theorem State.runCallr_canon {s : State} {k u t w : Nat} (hs : s.Canon) : State.Canon (s.runCallr k u t w) := by
  unfold State.runCallr
  repeat' first
    | with_reducible assumption | with_reducible intro _ | with_reducible apply State.issueRun_canon
    | with_reducible apply State.wr_canon | with_reducible apply State.portalSend_canon
    | with_reducible apply canon_ite | simp only [canon_update]

theorem execCall_canon {c : CourseLoc} {s : State} (hs : s.Canon) : Res.Canon (execCall c s) := by
  unfold execCall
  with_reducible repeat' first
    | assumption | intro _ | apply State.live_canon | apply State.portIssue_canon | apply State.runCall_canon
    | apply canon_next

theorem execCallr_canon {c : CourseLoc} {s : State} (hs : s.Canon) : Res.Canon (execCallr c s) := by
  unfold execCallr
  with_reducible repeat' first
    | assumption | intro _ | apply State.live_canon | apply State.portIssue_canon | apply State.runCallr_canon
    | apply canon_next

theorem State.portReserved_canon {s : State} {k u t w : Nat} (hs : s.Canon) : State.Canon (s.portReserved k u t w)
    := by
  unfold State.portReserved
  with_reducible repeat' first | assumption | apply State.faultAt_canon

theorem execPortOpReserved_canon {c : CourseLoc} {s : State} (hs : s.Canon) : Res.Canon (execPortOpReserved c s) :=
    by
  unfold execPortOpReserved
  with_reducible repeat' first
    | assumption | intro _ | apply State.live_canon | apply State.portIssue_canon | apply State.portReserved_canon
    | apply canon_next

theorem State.portRun_canon {s : State} {k u t w : Nat} (hs : s.Canon) : State.Canon (s.portRun k u t w) := by
  unfold State.portRun
  repeat' first
    | with_reducible assumption | with_reducible apply State.runGather_canon
    | with_reducible apply State.runGatheri_canon | with_reducible apply State.runBayrd_canon
    | with_reducible apply State.runBaywr_canon | with_reducible apply State.runMrd_canon
    | with_reducible apply State.runMwr_canon | with_reducible apply State.runMgath_canon
    | with_reducible apply State.runCall_canon | with_reducible apply State.runCallr_canon
    | with_reducible apply State.portReserved_canon | split

/-! ### Bays -/

theorem State.noteCorr_canon {s : State} {wall a : Nat} (hs : s.Canon) : State.Canon (s.noteCorr wall a) := by
  unfold State.noteCorr
  repeat' first
    | with_reducible assumption | simp only [canon_update]

theorem State.noteBayErr_canon {s : State} {wall a e : Nat} (hs : s.Canon) : State.Canon (s.noteBayErr wall a e) :=
    by
  unfold State.noteBayErr
  repeat' first
    | with_reducible assumption | with_reducible apply State.noteCorr_canon | with_reducible apply State.cnt_canon
    | split

theorem State.noteBay_canon {s : State} {wall a : Nat} (hs : s.Canon) : State.Canon (s.noteBay wall a) := by
  unfold State.noteBay
  with_reducible repeat' first | assumption | apply State.noteBayErr_canon

theorem State.bayUe_canon {s : State} {r : BayReq} (hs : s.Canon) : State.Canon (s.bayUe r) := by
  unfold State.bayUe
  with_reducible repeat' first | assumption | apply State.unitFault_canon

theorem State.bayDutRead_canon {s : State} {r : BayReq} (hs : s.Canon) : State.Canon (s.bayDutRead r) := by
  unfold State.bayDutRead
  repeat' first
    | with_reducible assumption | with_reducible apply State.noteBay_canon | with_reducible apply State.bayUe_canon
    | with_reducible apply canon_ite | simp only [canon_update]

theorem State.bayDutWrite_canon {s : State} {wall : Nat} {ws : List BayReq} (hs : s.Canon) : State.Canon
    (s.bayDutWrite wall ws) := by
  unfold State.bayDutWrite
  split
  · exact hs
  · rename_i r rest
    extract_lets old oldErr m s1 s2 s3
    have h1 : s1.Canon := by
      subst s1
      split
      · exact hs
      · exact State.unitFault_canon hs
    have h2 : s2.Canon := canon_ite (State.noteBay_canon h1) h1
    have h3 : s3.Canon := State.bayWr_canon (State.cowBay_canon h2)
    exact canon_ite (State.bayUe_canon h2) (canon_update.2 h3)

theorem State.bayGroup_canon {s : State} {wall : Nat} {now : List BayReq} (hs : s.Canon) : State.Canon
    (s.bayGroup wall now) := by
  unfold State.bayGroup
  repeat' first
    | with_reducible assumption | with_reducible intro _ | with_reducible apply State.addCause_canon
    | with_reducible apply State.bayDutRead_canon | with_reducible apply State.bayDutWrite_canon
    | with_reducible apply canon_foldl | with_reducible apply canon_ite | simp only [canon_update]

theorem State.bayGroups_canon {s : State} {wall : Nat} {a : List (Nat × Nat)} (hs : s.Canon) : State.Canon
    (s.bayGroups wall a) := by
  induction a generalizing s with
  | nil => exact hs
  | cons p l ih =>
    unfold State.bayGroups
    extract_lets now t
    have ht : t.Canon := State.bayGroup_canon hs
    exact canon_ite ht (ih ht)

theorem State.bayStep_canon {s : State} {wall : Nat} (hs : s.Canon) : State.Canon (s.bayStep wall) := by
  unfold State.bayStep
  with_reducible repeat' first | assumption | apply State.bayGroups_canon

theorem execBayDutStep_canon {w : WallLoc} {s : State} (hs : s.Canon) : Res.Canon (execBayDutStep w s) := by
  unfold execBayDutStep
  with_reducible repeat' first
    | assumption | intro _ | apply State.live_canon | apply State.bayStep_canon | apply canon_next

theorem State.bayDeliver_canon {s : State} {u : Nat} (hs : s.Canon) : State.Canon (s.bayDeliver u) := by
  unfold State.bayDeliver
  repeat' first
    | with_reducible assumption | with_reducible apply State.putLine_canon | split | simp only [canon_update]

theorem execBayrdDelivery_canon {u : CourseLoc} {s : State} (hs : s.Canon) : Res.Canon (execBayrdDelivery u s) := by
  unfold execBayrdDelivery
  with_reducible repeat' first
    | assumption | intro _ | apply State.live_canon | apply State.bayDeliver_canon | apply canon_next

theorem State.bayReadWords_canon {s : State} {wall a z1 : Nat} (hs : s.Canon) : State.Canon
    (s.bayReadWords wall a z1).2.2 := by
  fun_induction s.bayReadWords wall a z1
  all_goals with_reducible repeat' first
    | apply_assumption | apply State.noteBayErr_canon | refine canon_snd2 (by assumption) ?_

theorem State.bayServiceRead_canon {s : State} {who : Who} {wall off : Nat} {size : AccSize} (hs : s.Canon) :
    State.Canon (s.bayServiceRead who wall off size) := by
  unfold State.bayServiceRead
  with_reducible repeat' first
    | assumption | apply State.bayStep_canon | apply State.deny_canon | apply State.bayReadWords_canon
    | apply State.ans_canon | apply canon_ite

theorem State.bayWriteWord_canon {s : State} {wall off : Nat} {size : AccSize} {data : Nat}
    {acc : State × Nat × Nat} {i : Nat} (_hs : s.Canon) (hacc : acc.1.Canon) : State.Canon
    (s.bayWriteWord wall off size data acc i).1 := by
  unfold State.bayWriteWord
  repeat' first
    | with_reducible assumption
    | (extract_lets +onlyGivenNames x; refine canon_cut (P := State.Canon x) ?_ ?_ <;> first | (clear_value x; intro _) | subst x)
    | (extract_lets +onlyGivenNames x; clear_value x) | with_reducible apply State.noteBay_canon
    | with_reducible apply State.cowBay_canon | with_reducible apply State.bayWr_canon | split

theorem State.logSvc_canon {s : State} {wall off : Nat} {size : AccSize} {data mask : Nat} (hs : s.Canon) :
    State.Canon (s.logSvc wall off size data mask) := by
  unfold State.logSvc
  repeat' first
    | with_reducible assumption | with_reducible apply State.recPacket_canon | split

theorem State.bayServiceWrite_canon {s : State} {who : Who} {wall off : Nat} {size : AccSize} {data : Nat}
    (hs : s.Canon) : State.Canon (s.bayServiceWrite who wall off size data) := by
  unfold State.bayServiceWrite
  repeat' first
    | with_reducible apply State.hold_canon
    | with_reducible assumption | with_reducible intro _ | with_reducible apply State.bayStep_canon
    | with_reducible apply State.deny_canon | with_reducible apply State.addCause_canon
    | with_reducible apply State.bayWriteWord_canon | with_reducible apply State.logSvc_canon
    | with_reducible apply canon_foldl_fst | with_reducible apply canon_ite | simp only [canon_update]

theorem execBayServiceRead_canon {who : Who} {w : WallLoc} {off : Fin 1048576} {size : AccSize} {s : State}
    (hs : s.Canon) : Res.Canon (execBayServiceRead who w off size s) := by
  unfold execBayServiceRead
  with_reducible repeat' first
    | assumption | intro _ | apply State.accessDom_canon | apply State.bayServiceRead_canon | apply canon_next

theorem execBayServiceWrite_canon {who : Who} {w : WallLoc} {off : Fin 1048576} {size : AccSize} {data : BitVec 256}
    {s : State} (hs : s.Canon) : Res.Canon (execBayServiceWrite who w off size data s) := by
  unfold execBayServiceWrite
  with_reducible repeat' first
    | assumption | intro _ | apply State.accessDom_canon | apply State.bayServiceWrite_canon | apply canon_next

/-! ### MortarOps -/

theorem State.mortarPerform_canon {s : State} {k kind lane step : Nat} {f : Nat → State} (hs : s.Canon)
    (hf : ∀ y0 : Nat, State.Canon (f y0)) : State.Canon (s.mortarPerform k kind lane step f) := by
  unfold State.mortarPerform
  with_reducible repeat' first | assumption | apply hf | apply State.fault_canon | apply canon_ite

/-! ### Mme -/

theorem State.engAccess_canon {s : State} {eng pid : Nat} {write : Bool} {a n v : Nat} (hs : s.Canon) :
    State.Canon (s.engAccess eng pid write a n v).st := by
  unfold State.engAccess
  exact State.niAccess_canon hs

theorem State.mapRead_canon {s : State} {eng pid a : Nat} (hs : s.Canon) : State.Canon (s.mapRead eng pid a).st := by
  unfold State.mapRead
  exact State.engAccess_canon hs

theorem State.tcPut_canon {s : State} {e : TcEntry} (hs : s.Canon) : State.Canon (s.tcPut e) := by
  unfold State.tcPut
  repeat' first
    | with_reducible assumption | simp only [canon_update]

theorem State.tcLoad_canon {s : State} {eng pid a at_ entry : Nat} {write : Bool} (hs : s.Canon) : State.Canon
    (s.tcLoad eng pid a at_ entry write).2 := by
  unfold State.tcLoad
  extract_lets e s1
  have h1 : s1.Canon := canon_ite hs (State.engAccess_canon hs)
  exact State.tcPut_canon h1

theorem State.frameOwned_canon {s : State} {pid entry : Nat} (hs : s.Canon) : State.Canon (s.frameOwned pid entry).2
    := by
  unfold State.frameOwned
  repeat' first
    | with_reducible assumption | with_reducible apply State.free_canon | split

theorem State.walkEntry_canon {s : State} {eng pid a at_ : Nat} {write : Bool} (hs : s.Canon) : State.Canon
    (s.walkEntry eng pid a at_ write).2 := by
  unfold State.walkEntry
  extract_lets r
  have c : r.st.Canon := State.mapRead_canon hs
  clear_value r
  split
  · exact c
  · split
    · exact c
    · split
      · split
        rename_i h
        have c2 := canon_snd h (State.frameOwned_canon c)
        split
        · exact c2
        · exact State.tcLoad_canon c2
      · exact c

theorem State.walkMap_canon {s : State} {eng k pid a : Nat} {write : Bool} (hs : s.Canon) : State.Canon
    (s.walkMap eng k pid a write).2 := by
  unfold State.walkMap
  split
  · exact hs
  · extract_lets r
    have c : r.st.Canon := State.mapRead_canon hs
    clear_value r
    split
    · exact c
    · split
      · exact c
      · exact State.walkEntry_canon c

theorem State.tcDirty_canon {s : State} {eng k pid a entry : Nat} (hs : s.Canon) : State.Canon
    (s.tcDirty eng k pid a entry) := by
  unfold State.tcDirty
  split
  · exact hs
  · split
    · exact hs
    · extract_lets r1 at_ r2
      have h1 : r1.st.Canon := State.mapRead_canon hs
      have h2 : r2.st.Canon := State.mapRead_canon h1
      exact canon_ite h1 (canon_ite h2 (State.tcPut_canon (State.engAccess_canon h2)))

theorem State.translate_canon {s : State} {eng k pid a : Nat} {write : Bool} (hs : s.Canon) : State.Canon
    (s.translate eng k pid a write).2 := by
  unfold State.translate
  repeat' first
    | with_reducible assumption | with_reducible apply State.walkMap_canon
    | with_reducible apply State.frameOwned_canon | with_reducible apply State.tcDirty_canon
    | with_reducible refine canon_snd (by assumption) ?_ | split | simp only [canon_update]

theorem State.remoteFrame_canon {s : State} {eng addr n : Nat} (hs : s.Canon) : State.Canon
    (s.remoteFrame eng addr n).2.2 := by
  have hd := State.linkDown_canon (addr := addr) hs
  unfold State.remoteFrame
  dsimp only
  repeat' first
    | with_reducible assumption | with_reducible apply State.noteNoRoute_canon
    | with_reducible apply State.cnRecord_canon | with_reducible apply State.cnt_canon
    | with_reducible apply State.free_canon | split

theorem State.ownFrame_canon {s : State} {eng pid h n v : Nat} {write : Bool} (hs : s.Canon) : State.Canon
    (s.ownFrame eng pid h n v write).2.2 := by
  unfold State.ownFrame
  exact State.engAccess_canon (s := s) hs

theorem State.frameAccess_canon {s : State} {eng pid entry a n v : Nat} {write : Bool} (hs : s.Canon) : State.Canon
    (s.frameAccess eng pid entry a n v write).2.2 := by
  unfold State.frameAccess
  dsimp only
  split
  · exact State.remoteFrame_canon hs
  · exact State.ownFrame_canon hs

theorem State.setReq_canon {s : State} {r : MmeReq} (hs : s.Canon) : State.Canon (s.setReq r) := by
  unfold State.setReq
  repeat' first
    | with_reducible assumption | simp only [canon_update]

theorem State.dropReq_canon {s : State} {r : MmeReq} (hs : s.Canon) : State.Canon (s.dropReq r) := by
  unfold State.dropReq
  repeat' first
    | with_reducible assumption | simp only [canon_update]

theorem State.mmeFault_canon {s : State} {r : MmeReq} {sub a : Nat} (hs : s.Canon) : State.Canon
    (s.mmeFault r sub a) := by
  unfold State.mmeFault
  with_reducible repeat' first | assumption | apply State.unitFault_canon

theorem State.reqFail_canon {s : State} {r : MmeReq} {sub a : Nat} (hs : s.Canon) : State.Canon (s.reqFail r sub a)
    := by
  unfold State.reqFail
  with_reducible repeat' first
    | assumption | apply State.mmeFault_canon | apply State.dropReq_canon | apply State.setReq_canon
    | apply canon_ite

theorem State.psSend_canon {s : State} {w : WaitPage} (hs : s.Canon) : State.Canon (s.psSend w) := by
  unfold State.psSend
  repeat' first
    | with_reducible assumption | with_reducible apply State.qDeliver_canon | split | simp only [canon_update]

theorem State.park_canon {s : State} {r : MmeReq} (hs : s.Canon) : State.Canon (s.park r) := by
  unfold State.park
  extract_lets aa no
  clear_value aa no
  exact State.setReq_canon (State.engAccess_canon (State.engAccess_canon (canon_update.2 (canon_update.2 hs))))

theorem State.reqWait_canon {s : State} {r : MmeReq} {a : Nat} (hs : s.Canon) : State.Canon (s.reqWait r a) := by
  unfold State.reqWait
  repeat' first
    | with_reducible assumption | with_reducible apply State.reqFail_canon
    | with_reducible apply State.setReq_canon | with_reducible apply State.park_canon
    | with_reducible apply State.psSend_canon | with_reducible apply canon_ite | simp only [canon_update]

theorem State.gatherFrom_canon {s : State} {r : MmeReq} {a : Nat} (hs : s.Canon) : State.Canon (s.gatherFrom r a) :=
    by
  induction a generalizing s r with
  | zero => exact State.setReq_canon hs
  | succ m ih =>
    unfold State.gatherFrom
    extract_lets aa
    clear_value aa
    split
    rename_i t s1 h1
    have c1 : s1.Canon := canon_snd h1 (State.translate_canon hs)
    split
    · exact State.reqFail_canon c1
    · exact State.reqWait_canon c1
    · split
      rename_i sub d s2 h2
      have c2 : s2.Canon := canon_snd2 h2 (State.frameAccess_canon c1)
      exact canon_ite (State.reqFail_canon c2) (ih c2)

theorem State.plainReq_canon {s : State} {r : MmeReq} (hs : s.Canon) : State.Canon (s.plainReq r) := by
  unfold State.plainReq
  repeat' first
    | with_reducible assumption | (extract_lets +onlyGivenNames x; clear_value x)
    | with_reducible apply State.translate_canon | with_reducible apply State.reqFail_canon
    | with_reducible apply State.reqWait_canon | with_reducible apply State.frameAccess_canon
    | with_reducible apply State.dropReq_canon | with_reducible apply State.setReq_canon
    | with_reducible apply canon_ite | with_reducible refine canon_snd (by assumption) ?_ | split

theorem State.walkReq_canon {s : State} {r : MmeReq} (hs : s.Canon) : State.Canon (s.walkReq r) := by
  unfold State.walkReq
  with_reducible repeat' first
    | assumption | apply State.gatherFrom_canon | apply State.plainReq_canon | apply canon_ite

theorem execMmeWalk_canon {die : Fin 8} {engine : Fin 4} {req : Nat} {s : State} (hs : s.Canon) : Res.Canon
    (execMmeWalk die engine req s) := by
  unfold execMmeWalk
  repeat' first
    | with_reducible assumption | with_reducible intro _ | with_reducible apply State.live_canon
    | with_reducible apply State.walkReq_canon | with_reducible apply canon_next | split

theorem execMmePageEntryFree_canon {die : Fin 8} {engine : Fin 4} {s : State} (hs : s.Canon) : Res.Canon
    (execMmePageEntryFree die engine s) := by
  unfold execMmePageEntryFree
  repeat' first
    | with_reducible assumption | with_reducible intro _ | with_reducible apply State.live_canon
    | with_reducible apply State.walkReq_canon | with_reducible apply canon_next | split

theorem execPageServiceMessageWritten_canon {die : Fin 8} {engine : Fin 4} {s : State} (hs : s.Canon) : Res.Canon
    (execPageServiceMessageWritten die engine s) := by
  unfold execPageServiceMessageWritten
  repeat' first
    | with_reducible assumption | with_reducible intro _ | with_reducible apply State.live_canon
    | with_reducible apply State.psSend_canon | with_reducible apply canon_next | split

theorem State.psDone_canon {s : State} {pid pg : Nat} (hs : s.Canon) : State.Canon (s.psDone pid pg) := by
  unfold State.psDone
  repeat' first
    | with_reducible assumption | with_reducible intro _ | with_reducible apply State.setReq_canon
    | with_reducible apply State.walkReq_canon | with_reducible apply canon_foldl | with_reducible apply canon_ite
    | simp only [canon_update]

theorem State.psFail_canon {s : State} {pid pg : Nat} (hs : s.Canon) : State.Canon (s.psFail pid pg) := by
  unfold State.psFail
  repeat' first
    | with_reducible assumption | with_reducible intro _ | with_reducible apply State.reqFail_canon
    | with_reducible apply canon_foldl | simp only [canon_update]

theorem State.psWrite_canon {s : State} {who : Who} {slot page : Nat} {fail : Bool} (hs : s.Canon) : State.Canon
    (s.psWrite who slot page fail) := by
  unfold State.psWrite
  with_reducible repeat' first
    | assumption | apply State.deny_canon | apply State.okay_canon | apply State.psFail_canon
    | apply State.psDone_canon | apply canon_ite

theorem execMemPsDone_canon {who : Who} {slot : Fin 32} {page : BitVec 31} {s : State} (hs : s.Canon) : Res.Canon
    (execMemPsDone who slot page s) := by
  unfold execMemPsDone
  with_reducible repeat' first
    | assumption | intro _ | apply State.access_canon | apply State.psWrite_canon | apply canon_next

theorem execMemPsFail_canon {who : Who} {slot : Fin 32} {page : BitVec 31} {s : State} (hs : s.Canon) : Res.Canon
    (execMemPsFail who slot page s) := by
  unfold execMemPsFail
  with_reducible repeat' first
    | assumption | intro _ | apply State.access_canon | apply State.psWrite_canon | apply canon_next

theorem State.tagFree_canon {s : State} {u tag : Nat} (hs : s.Canon) : State.Canon (s.tagFree u tag) := by
  unfold State.tagFree
  repeat' first
    | with_reducible assumption | with_reducible apply State.wr_canon | simp only [canon_update]

theorem State.mmeDeliver_canon {s : State} {r : MmeReq} (hs : s.Canon) : State.Canon (s.mmeDeliver r) := by
  unfold State.mmeDeliver
  repeat' first
    | with_reducible assumption | with_reducible apply State.logInput_canon
    | with_reducible apply State.deliver_canon | with_reducible apply State.dropReq_canon
    | with_reducible apply State.tagFree_canon | with_reducible apply State.mmeFault_canon | split

theorem execMmeDelivery_canon {die : Fin 8} {engine : Fin 4} {req : Nat} {s : State} (hs : s.Canon) : Res.Canon
    (execMmeDelivery die engine req s) := by
  unfold execMmeDelivery
  repeat' first
    | with_reducible assumption | with_reducible intro _ | with_reducible apply State.live_canon
    | with_reducible apply State.mmeDeliver_canon | with_reducible apply canon_next | split

theorem State.tcInvWrite_canon {s : State} {who : Who} {die v : Nat} (hs : s.Canon) : State.Canon
    (s.tcInvWrite who die v) := by
  unfold State.tcInvWrite
  repeat' first
    | with_reducible assumption | with_reducible apply State.deny_canon | with_reducible apply State.wf_canon
    | with_reducible apply State.okay_canon | split | simp only [canon_update]

theorem execMemTcInv_canon {who : Who} {die : Fin 8} {val : Word} {s : State} (hs : s.Canon) : Res.Canon
    (execMemTcInv who die val s) := by
  unfold execMemTcInv
  with_reducible repeat' first
    | assumption | intro _ | apply State.access_canon | apply State.tcInvWrite_canon | apply canon_next

theorem execMemTcInvDone_canon {die : Fin 8} {s : State} (hs : s.Canon) : Res.Canon (execMemTcInvDone die s) := by
  unfold execMemTcInvDone
  with_reducible repeat' first
    | assumption | intro _ | apply State.live_canon | apply State.wf_canon | apply canon_next

theorem State.fenceWrite_canon {s : State} {who : Who} {die engine v : Nat} (hs : s.Canon) : State.Canon
    (s.fenceWrite who die engine v) := by
  unfold State.fenceWrite
  repeat' first
    | with_reducible assumption | with_reducible apply State.deny_canon | with_reducible apply State.wf_canon
    | with_reducible apply State.okay_canon | with_reducible apply State.wr_canon | split

theorem execMmeFence_canon {who : Who} {die : Fin 8} {engine : Fin 4} {val : Word} {s : State} (hs : s.Canon) :
    Res.Canon (execMmeFence who die engine val s) := by
  unfold execMmeFence
  with_reducible repeat' first
    | assumption | intro _ | apply State.access_canon | apply State.fenceWrite_canon | apply canon_next

theorem execMmeFenceDone_canon {die : Fin 8} {engine : Fin 4} {s : State} (hs : s.Canon) : Res.Canon
    (execMmeFenceDone die engine s) := by
  unfold execMmeFenceDone
  with_reducible repeat' first
    | assumption | intro _ | apply State.live_canon | apply State.wf_canon | apply canon_next | apply canon_ite

/-! ### Trigger -/

theorem State.capNext_canon {s : State} {u j : Nat} (hs : s.Canon) : State.Canon (s.capNext u j) := by
  unfold State.capNext
  with_reducible repeat' first | assumption | apply State.wr_canon

theorem State.capWrite_canon {s : State} {u n : Nat} {fired : Bool} (hs : s.Canon) : State.Canon
    (s.capWrite u n fired) := by
  unfold State.capWrite
  with_reducible repeat' first
    | assumption | intro _ | apply State.wr_canon | apply State.capNext_canon | apply canon_foldl | apply canon_ite

theorem State.trigFire_canon {s : State} {k u n : Nat} {cr : Option Nat} {ext forced : Bool} (hs : s.Canon) :
    State.Canon (s.trigFire k u n cr ext forced) := by
  unfold State.trigFire
  with_reducible repeat' first
    | assumption | apply State.pushRecord_canon | apply State.setPair_canon | apply State.wr_canon
    | apply State.recEvent_canon | apply State.raise_canon | apply State.act_canon | apply canon_ite

theorem State.trigTo_canon {s : State} {u st : Nat} (hs : s.Canon) : State.Canon (s.trigTo u st) := by
  unfold State.trigTo
  with_reducible repeat' first | assumption | apply State.wf_canon

theorem State.trigArmed_canon {s : State} {u : Nat} (hs : s.Canon) : State.Canon (s.trigArmed u) := by
  unfold State.trigArmed
  with_reducible repeat' first | assumption | apply State.wr_canon | apply State.wf_canon | apply State.trigTo_canon

theorem State.seqStep_canon {s : State} {u : Nat} {c0 c1 ext : Bool} (hs : s.Canon) : State.Canon
    (s.seqStep u c0 c1 ext).1 := by
  unfold State.seqStep
  repeat' first
    | with_reducible assumption | (extract_lets +onlyGivenNames x; clear_value x)
    | with_reducible apply State.wr_canon | with_reducible apply State.wf_canon | split

theorem State.trigUnit_canon {s : State} {k n u : Nat} (hs : s.Canon) : State.Canon (s.trigUnit k n u) := by
  unfold State.trigUnit
  repeat' first
    | with_reducible assumption | with_reducible apply State.seqStep_canon
    | with_reducible apply State.trigFire_canon | with_reducible apply State.capWrite_canon
    | with_reducible apply State.wr_canon | with_reducible apply State.trigArmed_canon
    | with_reducible apply State.trigTo_canon | with_reducible apply canon_ite | split

theorem State.trigSample_canon {s : State} {k n : Nat} (hs : s.Canon) : State.Canon (s.trigSample k n) := by
  unfold State.trigSample
  with_reducible repeat' first
    | assumption | intro _ | apply State.trigUnit_canon | apply State.drop_canon | apply canon_foldl

theorem State.trigReset_canon {s : State} {k : Nat} (hs : s.Canon) : State.Canon (s.trigReset k) := by
  unfold State.trigReset
  with_reducible repeat' first
    | assumption | intro _ | apply State.wr_canon | apply State.trigTo_canon | apply canon_foldl

theorem State.trigResult_canon {s : State} {u r : Nat} (hs : s.Canon) : State.Canon (s.trigResult u r) := by
  unfold State.trigResult
  with_reducible repeat' first | assumption | apply State.wf_canon

theorem State.logTrig_canon {s : State} {u cmd : Nat} (hs : s.Canon) : State.Canon (s.logTrig u cmd) := by
  unfold State.logTrig
  repeat' first
    | with_reducible assumption | with_reducible apply State.logInput_canon | split

theorem State.doArm_canon {s : State} {u : Nat} (hs : s.Canon) : State.Canon (s.doArm u) := by
  unfold State.doArm
  with_reducible repeat' first
    | assumption | apply State.wr_canon | apply State.capNext_canon | apply State.trigArmed_canon
    | apply State.trigTo_canon | apply canon_ite

theorem State.doDisarm_canon {s : State} {u : Nat} (hs : s.Canon) : State.Canon (s.doDisarm u) := by
  unfold State.doDisarm
  with_reducible repeat' first | assumption | apply State.wr_canon | apply State.trigTo_canon

theorem State.trigCmd_canon {s : State} {who : Who} {u cmd : Nat} (hs : s.Canon) : State.Canon (s.trigCmd who u cmd)
    := by
  unfold State.trigCmd
  repeat' first
    | with_reducible assumption | with_reducible apply State.deny_canon
    | with_reducible apply State.trigResult_canon | with_reducible apply State.okay_canon
    | with_reducible apply State.doArm_canon | with_reducible apply State.logTrig_canon
    | with_reducible apply State.doDisarm_canon | with_reducible apply State.wr_canon | split

theorem execTrigArm_canon {who : Who} {die : Fin 8} {unit : Fin 4} {s : State} (hs : s.Canon) : Res.Canon
    (execTrigArm who die unit s) := by
  unfold execTrigArm
  with_reducible repeat' first
    | assumption | intro _ | apply State.accessDom_canon | apply State.trigCmd_canon | apply canon_next

theorem execTrigDisarm_canon {who : Who} {die : Fin 8} {unit : Fin 4} {s : State} (hs : s.Canon) : Res.Canon
    (execTrigDisarm who die unit s) := by
  unfold execTrigDisarm
  with_reducible repeat' first
    | assumption | intro _ | apply State.accessDom_canon | apply State.trigCmd_canon | apply canon_next

theorem execTrigForce_canon {who : Who} {die : Fin 8} {unit : Fin 4} {s : State} (hs : s.Canon) : Res.Canon
    (execTrigForce who die unit s) := by
  unfold execTrigForce
  with_reducible repeat' first
    | assumption | intro _ | apply State.accessDom_canon | apply State.trigCmd_canon | apply canon_next

theorem State.extEdge_canon {s : State} {i : Nat} (hs : s.Canon) : State.Canon (s.extEdge i) := by
  unfold State.extEdge
  with_reducible repeat' first
    | assumption | intro _ | apply State.each_canon | apply State.wr_canon | apply canon_ite

theorem State.mapAdvance_canon {s : State} {die : Nat} (hs : s.Canon) : State.Canon (s.mapAdvance die) := by
  unfold State.mapAdvance
  with_reducible repeat' first | assumption | apply State.wf_canon | apply canon_ite

theorem State.probeMapWrite_canon {s : State} {who : Who} {die v : Nat} (hs : s.Canon) : State.Canon
    (s.probeMapWrite who die v) := by
  unfold State.probeMapWrite
  with_reducible repeat' first
    | assumption | apply State.deny_canon | apply State.wf_canon | apply State.okay_canon
    | apply State.mapAdvance_canon | apply State.wr_canon | apply canon_ite

theorem execProbeMapWrite_canon {who : Who} {die : Fin 8} {val : Word} {s : State} (hs : s.Canon) : Res.Canon
    (execProbeMapWrite who die val s) := by
  unfold execProbeMapWrite
  with_reducible repeat' first
    | assumption | intro _ | apply State.accessDom_canon | apply State.probeMapWrite_canon | apply canon_next

theorem State.probeMapRead_canon {s : State} {who : Who} {die : Nat} (hs : s.Canon) : State.Canon
    (s.probeMapRead who die) := by
  unfold State.probeMapRead
  with_reducible repeat' first
    | assumption | apply State.ans_canon | apply State.mapAdvance_canon | apply State.wf_canon
    | apply State.deny_canon | apply canon_ite

theorem execProbeMapRead_canon {who : Who} {die : Fin 8} {s : State} (hs : s.Canon) : Res.Canon
    (execProbeMapRead who die s) := by
  unfold execProbeMapRead
  with_reducible repeat' first
    | assumption | intro _ | apply State.accessDom_canon | apply State.probeMapRead_canon | apply canon_next

/-! ### Recorder -/

theorem State.pktToHbm_canon {s : State} {p : RecPkt} (hs : s.Canon) : State.Canon (s.pktToHbm p) := by
  unfold State.pktToHbm
  exact canon_foldl hs fun s x h => State.niAccess_canon h

theorem State.pktOut_canon {s : State} {p : RecPkt} (hs : s.Canon) : State.Canon (s.pktOut p) := by
  unfold State.pktOut
  repeat' first
    | with_reducible assumption | (intro _) | with_reducible apply State.pktToHbm_canon
    | with_reducible apply canon_ite | split | simp only [canon_update]

theorem State.recThrough_canon {s : State} {k die cyc step : Nat} {body : List Nat} (hs : s.Canon) : State.Canon
    (s.recThrough k die cyc step body) := by
  unfold State.recThrough
  repeat' first
    | with_reducible assumption | with_reducible apply State.recAlloc_canon
    | with_reducible apply State.pktOut_canon | with_reducible apply canon_ite | split | simp only

theorem State.snapData_canon {s : State} {k die n desc : Nat} {body : List Nat} (hs : s.Canon) : State.Canon
    (s.snapData k die n desc body) := by
  unfold State.snapData
  with_reducible repeat' first | assumption | apply State.recPacket_canon

theorem State.snapEseq_canon {s : State} {k n : Nat} (hs : s.Canon) : State.Canon (s.snapEseq k n) := by
  unfold State.snapEseq
  with_reducible repeat' first | assumption | intro _ | apply State.snapData_canon | apply canon_foldl

theorem State.snapPorts_canon {s : State} {k n die : Nat} (hs : s.Canon) : State.Canon (s.snapPorts k n die) := by
  unfold State.snapPorts
  with_reducible repeat' first
    | assumption | intro _ | apply State.snapData_canon | apply State.notePort_canon | apply canon_foldl

theorem State.snapLandChecks_canon {s : State} {k w par : Nat} (hs : s.Canon) : State.Canon
    (s.snapLandChecks k w par) := by
  unfold State.snapLandChecks
  with_reducible repeat' first
    | assumption | intro _ | apply State.noteLand_canon | apply canon_foldl | apply canon_ite

theorem State.snapLands_canon {s : State} {k n die : Nat} (hs : s.Canon) : State.Canon (s.snapLands k n die) := by
  unfold State.snapLands
  with_reducible repeat' first
    | assumption | intro _ | apply State.snapData_canon | apply State.snapLandChecks_canon | apply canon_foldl

theorem State.snapTrigs_canon {s : State} {k n die : Nat} (hs : s.Canon) : State.Canon (s.snapTrigs k n die) := by
  unfold State.snapTrigs
  with_reducible repeat' first | assumption | intro _ | apply State.snapData_canon | apply canon_foldl

theorem State.snapBegin_canon {s : State} {k n reason : Nat} (hs : s.Canon) : State.Canon (s.snapBegin k n reason)
    := by
  unfold State.snapBegin
  repeat' first
    | with_reducible assumption | with_reducible intro _ | with_reducible apply State.recPacket_canon
    | with_reducible apply State.snapEseq_canon | with_reducible apply State.snapFlags_canon
    | with_reducible apply State.each_canon | with_reducible apply State.snapTrigs_canon
    | with_reducible apply State.snapLands_canon | with_reducible apply State.snapPorts_canon
    | with_reducible apply canon_ite | simp only [canon_update]

theorem State.cowGone_canon {s : State} {k c : Nat} {r : CowRow} (hs : s.Canon) : State.Canon (s.cowGone k c r) :=
    by
  unfold State.cowGone
  repeat' first
    | with_reducible assumption | (intro _) | with_reducible apply canon_ite | split | simp only [canon_update]

theorem State.cowDrain_canon {s : State} {x : SnapRun} {n : Nat} (hs : s.Canon) : State.Canon (s.cowDrain x n) := by
  unfold State.cowDrain
  repeat' first
    | with_reducible assumption | (intro _) | with_reducible apply State.cowGone_canon
    | with_reducible apply State.recPacket_canon | with_reducible apply canon_ite | with_reducible apply canon_foldl
    | split | simp only [canon_update]

theorem execCowBufferDrained_canon {slot : Fin 32} {rows : Nat} {s : State} (hs : s.Canon) : Res.Canon
    (execCowBufferDrained slot rows s) := by
  unfold execCowBufferDrained
  repeat' first
    | with_reducible assumption | with_reducible intro _ | with_reducible apply State.live_canon
    | with_reducible apply State.recSettle_canon | with_reducible apply State.cowDrain_canon
    | with_reducible apply canon_next | split

theorem State.snapChecks_canon {s : State} {z1 : SnapRun} {w : Nat} (hs : s.Canon) : State.Canon (s.snapChecks z1 w)
    := by
  unfold State.snapChecks
  with_reducible repeat' first
    | assumption | intro _ | apply State.noteState_canon | apply State.noteBayErr_canon | apply canon_foldl
    | apply canon_ite

theorem State.snapRun_canon {s : State} {x : SnapRun} {die desc : Nat} {body : List Nat} (hs : s.Canon) :
    State.Canon (s.snapRun x die desc body) := by
  unfold State.snapRun
  repeat' first
    | with_reducible assumption | with_reducible apply State.recThrough_canon | with_reducible apply canon_ite
    | split | simp only [canon_update]

theorem State.snapWall_canon {s : State} {z1 : SnapRun} {w : Nat} (hs : s.Canon) : State.Canon (s.snapWall z1 w) :=
    by
  unfold State.snapWall
  with_reducible repeat' first
    | apply State.snapRun_canon
    | assumption | intro _ | apply State.snapChecks_canon | apply State.each_canon | apply State.snapData_canon
    | apply canon_foldl

theorem State.snapCopy_canon {s : State} {z1 : SnapRun} (hs : s.Canon) : State.Canon (s.snapCopy z1) := by
  unfold State.snapCopy
  repeat' first
    | with_reducible apply State.recThrough_canon
    | with_reducible assumption | with_reducible intro _ | with_reducible apply State.cowDrain_canon
    | with_reducible apply State.snapWall_canon | with_reducible apply State.recSettle_canon
    | with_reducible apply State.snapFlags_canon | with_reducible apply canon_foldl | simp only [canon_update]

theorem State.snapFinish_canon {s : State} {z1 : SnapRun} (hs : s.Canon) : State.Canon (s.snapFinish z1) := by
  unfold State.snapFinish
  repeat' first
    | with_reducible assumption | with_reducible apply State.recPacket_canon
    | with_reducible apply State.snapFlags_canon | simp only [canon_update]

theorem execSnapEnd_canon {slot : Fin 32} {s : State} (hs : s.Canon) : Res.Canon (execSnapEnd slot s) := by
  unfold execSnapEnd
  repeat' first
    | with_reducible assumption | with_reducible intro _ | with_reducible apply State.live_canon
    | with_reducible apply State.snapCopy_canon | with_reducible apply State.snapFinish_canon
    | with_reducible apply State.snapFlags_canon | with_reducible apply canon_next | split

theorem State.recTo_canon {s : State} {k st : Nat} (hs : s.Canon) : State.Canon (s.recTo k st) := by
  unfold State.recTo
  with_reducible repeat' first | assumption | apply State.raise_canon | apply State.wf_canon | apply canon_ite

theorem State.recMark_canon {s : State} {k n : Nat} (hs : s.Canon) : State.Canon (s.recMark k n) := by
  unfold State.recMark
  with_reducible repeat' first | assumption | apply State.recPacket_canon

theorem State.snapDue_canon {s : State} {k n : Nat} {entered muted : Bool} (hs : s.Canon) : State.Canon
    (s.snapDue k n entered muted) := by
  unfold State.snapDue
  with_reducible repeat' first
    | assumption | apply State.wr_canon | apply State.cnt_canon | apply State.snapBegin_canon | apply canon_ite

theorem State.recBoundary_canon {s : State} {k n : Nat} (hs : s.Canon) : State.Canon (s.recBoundary k n) := by
  unfold State.recBoundary
  with_reducible repeat' first
    | assumption | apply State.wr_canon | apply State.recMark_canon | apply State.recTo_canon
    | apply State.snapAbandon_canon | apply State.snapDue_canon | apply canon_ite

theorem State.recResult_canon {s : State} {k r : Nat} (hs : s.Canon) : State.Canon (s.recResult k r) := by
  unfold State.recResult
  with_reducible repeat' first | assumption | apply State.wf_canon

theorem State.recCmd_canon {s : State} {who : Who} {k r : Nat} {f : State → State} (hs : s.Canon)
    (hf : ∀ y0 : State, y0.Canon → State.Canon (f y0)) : State.Canon (s.recCmd who k r f) := by
  unfold State.recCmd
  with_reducible repeat' first
    | assumption | apply hf | apply State.deny_canon | apply State.recResult_canon | apply State.okay_canon
    | apply canon_ite

theorem State.recAsk_canon {s : State} {k c : Nat} (hs : s.Canon) : State.Canon (s.recAsk k c) := by
  unfold State.recAsk
  with_reducible repeat' first | assumption | apply State.wr_canon

theorem execRecArm_canon {who : Who} {slot : Fin 32} {s : State} (hs : s.Canon) : Res.Canon (execRecArm who slot s)
    := by
  unfold execRecArm
  with_reducible repeat' first
    | assumption | intro _ | apply State.access_canon | apply State.recCmd_canon | apply State.recAsk_canon
    | apply canon_next

theorem execRecStart_canon {who : Who} {slot : Fin 32} {s : State} (hs : s.Canon) : Res.Canon
    (execRecStart who slot s) := by
  unfold execRecStart
  with_reducible repeat' first
    | assumption | intro _ | apply State.access_canon | apply State.recCmd_canon | apply State.recAsk_canon
    | apply canon_next

theorem execRecStop_canon {who : Who} {slot : Fin 32} {s : State} (hs : s.Canon) : Res.Canon
    (execRecStop who slot s) := by
  unfold execRecStop
  with_reducible repeat' first
    | assumption | intro _ | apply State.access_canon | apply State.recCmd_canon | apply State.recAsk_canon
    | apply canon_next

theorem State.recOff_canon {s : State} {k : Nat} (hs : s.Canon) : State.Canon (s.recOff k) := by
  unfold State.recOff
  repeat' first
    | with_reducible assumption | with_reducible apply State.snapAbandon_canon
    | with_reducible apply State.wr_canon | with_reducible apply State.recTo_canon
    | with_reducible apply State.recSettle_canon | with_reducible apply State.wf_canon | simp only [canon_update]

theorem execRecOff_canon {who : Who} {slot : Fin 32} {s : State} (hs : s.Canon) : Res.Canon (execRecOff who slot s)
    := by
  unfold execRecOff
  with_reducible repeat' first
    | assumption | intro _ | apply State.access_canon | apply State.recCmd_canon | apply State.recOff_canon
    | apply canon_next

theorem execRecSnap_canon {who : Who} {slot : Fin 32} {s : State} (hs : s.Canon) : Res.Canon
    (execRecSnap who slot s) := by
  unfold execRecSnap
  with_reducible repeat' first
    | assumption | intro _ | apply State.access_canon | apply State.recCmd_canon | apply State.wr_canon
    | apply canon_next

theorem State.regionWrite_canon {s : State} {who : Who} {k v : Nat} (hs : s.Canon) : State.Canon
    (s.regionWrite who k v) := by
  unfold State.regionWrite
  repeat' first
    | with_reducible assumption | with_reducible apply State.deny_canon | with_reducible apply State.okay_canon
    | with_reducible apply State.recResult_canon | with_reducible apply State.wf_canon
    | with_reducible apply State.wr_canon | with_reducible apply State.setRecTail_canon
    | with_reducible apply State.setRecHead_canon | with_reducible apply canon_ite | simp only [canon_update]

theorem execRecRegionWrite_canon {who : Who} {slot : Fin 32} {val : Word} {s : State} (hs : s.Canon) : Res.Canon
    (execRecRegionWrite who slot val s) := by
  unfold execRecRegionWrite
  with_reducible repeat' first
    | assumption | intro _ | apply State.access_canon | apply State.regionWrite_canon | apply canon_next

theorem State.backlogSettle_canon {s : State} {k : Nat} (hs : s.Canon) : State.Canon (s.backlogSettle k) := by
  unfold State.backlogSettle
  with_reducible repeat' first
    | assumption | apply State.wr_canon | apply State.recSettle_canon | apply State.wf_canon | apply canon_ite

theorem State.bufDrain_canon {s : State} {die n : Nat} (hs : s.Canon) : State.Canon (s.bufDrain die n) := by
  unfold State.bufDrain
  repeat' first
    | with_reducible assumption | (intro _) | with_reducible apply State.pktOut_canon
    | with_reducible apply State.each_canon | with_reducible apply State.backlogSettle_canon
    | with_reducible apply canon_ite | with_reducible apply canon_foldl | split | simp only [canon_update]

theorem execRecorderBufferDrained_canon {die : Fin 8} {packets : Nat} {s : State} (hs : s.Canon) : Res.Canon
    (execRecorderBufferDrained die packets s) := by
  unfold execRecorderBufferDrained
  with_reducible repeat' first
    | assumption | intro _ | apply State.live_canon | apply State.bufDrain_canon | apply canon_next

theorem State.setMaps_canon {s : State} {k src : Nat} {b : RecPkt} (hs : s.Canon) : State.Canon (s.setMaps k src b)
    := by
  unfold State.setMaps
  repeat' first
    | with_reducible assumption | with_reducible intro _
    | (extract_lets +onlyGivenNames x; refine canon_cut (P := State.Canon x) ?_ ?_ <;> first | (clear_value x; intro _) | subst x)
    | (extract_lets +onlyGivenNames x; clear_value x) | with_reducible apply State.drop_canon
    | with_reducible apply State.each_canon | with_reducible apply State.wr_canon
    | with_reducible apply canon_foldl | split

theorem State.loadTrig_canon {s : State} {k u srcMask : Nat} {regs : List Nat} {arm : Nat} (hs : s.Canon) :
    State.Canon (s.loadTrig k u srcMask regs arm) := by
  unfold State.loadTrig
  with_reducible repeat' first
    | assumption | intro _ | apply State.setPair_canon | apply State.wr_canon | apply State.each_canon
    | apply State.wf_canon | apply canon_foldl

theorem State.restoreTrig_canon {s : State} {k u : Nat} {ws : List Nat} (hs : s.Canon) : State.Canon
    (s.restoreTrig k u ws) := by
  unfold State.restoreTrig
  with_reducible repeat' first
    | assumption | apply State.loadTrig_canon | apply State.wf_canon | apply State.trigTo_canon
    | apply State.wr_canon | apply State.capNext_canon

theorem State.restorePkt_canon {s : State} {k c : Nat} {p : RecPkt} (hs : s.Canon) : State.Canon
    (s.restorePkt k c p) := by
  unfold State.restorePkt
  repeat' first
    | with_reducible assumption | with_reducible intro _ | with_reducible apply State.each_canon
    | with_reducible apply State.wrE_canon | with_reducible apply State.bayWr_canon
    | with_reducible apply State.putLine_canon | with_reducible apply State.restoreTrig_canon | split
    | simp only [canon_update]

theorem State.clearPresence_canon {s : State} {k : Nat} (hs : s.Canon) : State.Canon (s.clearPresence k) := by
  unfold State.clearPresence
  with_reducible repeat' first | assumption | apply State.drop_canon

theorem State.clearPorts_canon {s : State} {k : Nat} (hs : s.Canon) : State.Canon (s.clearPorts k) := by
  unfold State.clearPorts
  repeat' first
    | with_reducible assumption | with_reducible apply State.drop_canon | simp only [canon_update]

theorem State.bumpEpochs_canon {s : State} {k : Nat} (hs : s.Canon) : State.Canon (s.bumpEpochs k) := by
  unfold State.bumpEpochs
  repeat' first
    | with_reducible assumption | with_reducible intro _ | with_reducible apply State.wr_canon
    | with_reducible apply State.dropCause_canon | with_reducible apply canon_foldl | simp only [canon_update]

theorem State.regionRead_canon {s : State} {k die off n : Nat} (hs : s.Canon) : State.Canon (s.regionRead k die off n) := by
  unfold State.regionRead
  exact canon_foldl hs fun s x h => State.niAccess_canon h

theorem State.pktRead_canon {s : State} {p : RecPkt} (hs : s.Canon) : State.Canon (s.pktRead p) := by
  unfold State.pktRead
  repeat' first
    | with_reducible assumption | with_reducible apply State.regionRead_canon | with_reducible apply canon_ite
    | split | simp only [canon_update]

theorem State.doRestore_canon {s : State} {k src : Nat} {b : RecPkt} (hs : s.Canon) : State.Canon
    (s.doRestore k src b) := by
  unfold State.doRestore
  repeat' first
    | with_reducible apply State.pktRead_canon | with_reducible apply canon_ite
    | with_reducible assumption | with_reducible intro _ | with_reducible apply State.setMaps_canon
    | with_reducible apply State.trigReset_canon | with_reducible apply State.bumpEpochs_canon
    | with_reducible apply State.clearPorts_canon | with_reducible apply State.clearPresence_canon
    | with_reducible apply State.lnCancel_canon | with_reducible apply State.wr_canon
    | with_reducible apply State.restorePkt_canon | with_reducible apply State.pullsChanged_canon
    | with_reducible apply State.wf_canon | with_reducible apply canon_foldl | simp only [canon_update]

theorem execRestore_canon {who : Who} {slot : Fin 32} {s : State} (hs : s.Canon) : Res.Canon
    (execRestore who slot s) := by
  unfold execRestore
  repeat' first
    | with_reducible assumption | with_reducible intro _ | with_reducible apply State.access_canon
    | with_reducible apply State.recCmd_canon | with_reducible apply State.doRestore_canon
    | with_reducible apply canon_next | split

theorem State.writeStartLines_canon {s : State} {k : Nat} (hs : s.Canon) : State.Canon (s.writeStartLines k) := by
  unfold State.writeStartLines
  repeat' first
    | with_reducible assumption | with_reducible intro _ | with_reducible apply State.putLine_canon
    | with_reducible apply State.wr_canon | with_reducible apply State.wrLand_canon
    | with_reducible apply canon_foldl | with_reducible apply canon_ite | simp only [canon_update]

theorem State.feedOverrun_canon {s : State} {k : Nat} (hs : s.Canon) : State.Canon (s.feedOverrun k) := by
  unfold State.feedOverrun
  with_reducible repeat' first
    | assumption | apply State.act_canon | apply State.wr_canon | apply State.wf_canon | apply canon_ite

theorem State.feedPkt_canon {s : State} {k : Nat} {p : RecPkt} (hs : s.Canon) : State.Canon (s.feedPkt k p) := by
  unfold State.feedPkt
  repeat' first
    | with_reducible assumption | with_reducible intro _
    | (extract_lets +onlyGivenNames x; refine canon_cut (P := State.Canon x) ?_ ?_ <;> first | (clear_value x; intro _) | subst x)
    | (extract_lets +onlyGivenNames x; clear_value x) | with_reducible apply State.wr_canon
    | with_reducible apply State.each_canon | with_reducible apply State.landBit_canon
    | with_reducible apply State.putLine_canon | with_reducible apply State.tagFree_canon
    | with_reducible apply State.unitFault_canon | with_reducible apply State.wrE_canon
    | with_reducible apply State.bayStep_canon | with_reducible apply State.bayWr_canon
    | with_reducible apply State.bedStore_canon | with_reducible apply State.doArm_canon
    | with_reducible apply State.loadTrig_canon | with_reducible apply State.doDisarm_canon
    | with_reducible apply canon_foldl | split

theorem State.feedEnd_canon {s : State} {k : Nat} (hs : s.Canon) : State.Canon (s.feedEnd k) := by
  unfold State.feedEnd
  with_reducible repeat' first
    | assumption | apply State.wr_canon | apply State.wf_canon | apply State.addStop_canon | apply State.raise_canon
    | apply canon_ite

theorem State.feedOne_canon {s : State} {k : Nat} (hs : s.Canon) : State.Canon (s.feedOne k) := by
  unfold State.feedOne
  repeat' first
    | with_reducible apply State.pktRead_canon | with_reducible apply canon_ite
    | with_reducible assumption
    | (extract_lets +onlyGivenNames x; refine canon_cut (P := State.Canon x) ?_ ?_ <;> first
    | (clear_value x; intro _) | subst x)
    | with_reducible apply State.wr_canon | with_reducible apply State.feedPkt_canon
    | with_reducible apply State.feedEnd_canon | with_reducible apply State.feedOverrun_canon | split

theorem execFeedPacket_canon {slot : Fin 32} {s : State} (hs : s.Canon) : Res.Canon (execFeedPacket slot s) := by
  unfold execFeedPacket
  with_reducible repeat' first
    | assumption | intro _ | apply State.live_canon | apply State.feedOne_canon | apply canon_next

theorem State.feedUpTo_canon {s : State} {k n t a : Nat} (hs : s.Canon) : State.Canon (s.feedUpTo k n t a) := by
  fun_induction s.feedUpTo k n t a
  all_goals with_reducible repeat' first
    | apply_assumption | apply State.feedOverrun_canon | apply State.feedOne_canon

theorem State.tailWrite_canon {s : State} {who : Who} {k hi : Nat} (hs : s.Canon) : State.Canon
    (s.tailWrite who k hi) := by
  unfold State.tailWrite
  with_reducible repeat' first
    | assumption | intro _ | apply State.deny_canon | apply State.takeLo_canon | apply State.okay_canon
    | apply State.recSettle_canon | apply State.recPump_canon | apply State.freeRegion_canon
    | apply State.each_canon | apply State.feedOverrun_canon | apply canon_ite

theorem execRecTailWrite_canon {who : Who} {slot : Fin 32} {hi : Word} {s : State} (hs : s.Canon) : Res.Canon
    (execRecTailWrite who slot hi s) := by
  unfold execRecTailWrite
  with_reducible repeat' first
    | assumption | intro _ | apply State.access_canon | apply State.tailWrite_canon | apply canon_next

theorem State.dumpCopy_canon {s : State} {k w t : Nat} (hs : s.Canon) : State.Canon (s.dumpCopy k w t) := by
  unfold State.dumpCopy
  with_reducible repeat' first
    | assumption | apply State.recPacket_canon | apply State.recSettle_canon | apply State.wr_canon
    | apply canon_ite

theorem execDumpRowCopy_canon {slot : Fin 32} {w : WallLoc} {step : Fin 512} {s : State} (hs : s.Canon) : Res.Canon
    (execDumpRowCopy slot w step s) := by
  unfold execDumpRowCopy
  with_reducible repeat' first
    | assumption | intro _ | apply State.live_canon | apply State.dumpCopy_canon | apply canon_next

theorem State.dumpMark_canon {s : State} {k n t : Nat} (hs : s.Canon) : State.Canon (s.dumpMark k n t) := by
  unfold State.dumpMark
  with_reducible repeat' first | assumption | intro _ | apply State.wr_canon | apply canon_foldl | apply canon_ite

/-! ### Mortar -/

theorem State.passBit_canon {s : State} {b : FlightBit} {out : Nat} {n : Node} {due : Nat} (hs : s.Canon) :
    State.Canon (s.passBit b out n due) := by
  unfold State.passBit
  repeat' first
    | with_reducible assumption | simp only [canon_update]

theorem State.sendBit_canon {s : State} {k bed lane t : Nat} {v : Bool} (hs : s.Canon) : State.Canon
    (s.sendBit k bed lane t v) := by
  unfold State.sendBit
  repeat' first
    | with_reducible assumption | simp only [canon_update]

theorem State.lanePerform_canon {s : State} {bed lane : Nat} {relay : Bool} {f : Nat → Nat → Nat → State → State}
    (hs : s.Canon) (hf : ∀ y0 : Nat, ∀ y1 : Nat, ∀ y2 : Nat, ∀ y3 : State, y3.Canon → State.Canon (f y0 y1 y2 y3)) :
    State.Canon (s.lanePerform bed lane relay f) := by
  unfold State.lanePerform
  with_reducible repeat' first
    | assumption | intro _ | apply hf | apply State.unit_canon | apply State.voted_canon
    | apply State.mortarPerform_canon | apply State.mark_canon | apply canon_ite

theorem State.runSend_canon {s : State} {k bed lane t e : Nat} (hs : s.Canon) : State.Canon
    (s.runSend k bed lane t e) := by
  unfold State.runSend
  with_reducible repeat' first
    | assumption | apply State.noteHist_canon | apply State.sendBit_canon | apply State.hzHistRead_canon

theorem execLaneSend_canon {b : BedLoc} {lane : Fin 16} {s : State} (hs : s.Canon) : Res.Canon
    (execLaneSend b lane s) := by
  unfold execLaneSend
  with_reducible repeat' first
    | assumption | intro _ | apply State.live_canon | apply State.lanePerform_canon | apply State.runSend_canon
    | apply canon_next

theorem State.runRelay_canon {s : State} {k bed lane t e : Nat} (hs : s.Canon) : State.Canon
    (s.runRelay k bed lane t e) := by
  unfold State.runRelay
  with_reducible repeat' first
    | assumption | apply State.noteLand_canon | apply State.sendBit_canon | apply State.hzLandRead_canon

theorem execLaneRelay_canon {b : BedLoc} {lane : Fin 16} {s : State} (hs : s.Canon) : Res.Canon
    (execLaneRelay b lane s) := by
  unfold execLaneRelay
  with_reducible repeat' first
    | assumption | intro _ | apply State.live_canon | apply State.lanePerform_canon | apply State.runRelay_canon
    | apply canon_next

theorem State.switchLane_canon {s : State} {kind lane step : Nat} (hs : s.Canon) : State.Canon
    (s.switchLane kind lane step) := by
  unfold State.switchLane
  repeat' first
    | with_reducible assumption | with_reducible intro _ | with_reducible apply State.mortarPerform_canon
    | with_reducible apply State.passBit_canon | split

theorem State.switchStep_canon {s : State} {sw : SwitchLoc} {out step : Nat} (hs : s.Canon) : State.Canon
    (s.switchStep sw out step) := by
  unfold State.switchStep
  with_reducible repeat' first | assumption | apply State.switchLane_canon | apply canon_ite

theorem execSwitchEntry_canon {sw : SwitchLoc} {out : Fin 5120} {step : Fin 512} {s : State} (hs : s.Canon) :
    Res.Canon (execSwitchEntry sw out step s) := by
  unfold execSwitchEntry
  with_reducible repeat' first
    | assumption | intro _ | apply State.live_canon | apply State.switchStep_canon | apply canon_next

theorem State.moduleLane_canon {s : State} {lane step : Nat} (hs : s.Canon) : State.Canon (s.moduleLane lane step)
    := by
  unfold State.moduleLane
  repeat' first
    | with_reducible assumption | with_reducible intro _ | with_reducible apply State.mortarPerform_canon
    | with_reducible apply State.passBit_canon | split

theorem State.moduleStep_canon {s : State} {die m pos step : Nat} (hs : s.Canon) : State.Canon
    (s.moduleStep die m pos step) := by
  unfold State.moduleStep
  with_reducible repeat' first | assumption | apply State.moduleLane_canon

theorem execModuleEntry_canon {die : Fin 8} {module : Fin 4} {pos step : Fin 512} {s : State} (hs : s.Canon) :
    Res.Canon (execModuleEntry die module pos step s) := by
  unfold execModuleEntry
  with_reducible repeat' first
    | assumption | intro _ | apply State.live_canon | apply State.moduleStep_canon | apply canon_next

theorem State.moduleReceive_canon {s : State} {die m step : Nat} {crcOk : Bool} (hs : s.Canon) : State.Canon
    (s.moduleReceive die m step crcOk) := by
  unfold State.moduleReceive
  repeat' first
    | with_reducible assumption | with_reducible intro _ | with_reducible apply State.fault_canon
    | with_reducible apply canon_foldl | with_reducible apply canon_ite | simp only [canon_update]

theorem execModuleTransferReceive_canon {die : Fin 8} {module : Fin 4} {step : Fin 512} {crcOk : Bool} {s : State}
    (hs : s.Canon) : Res.Canon (execModuleTransferReceive die module step crcOk s) := by
  unfold execModuleTransferReceive
  with_reducible repeat' first
    | assumption | intro _ | apply State.live_canon | apply State.moduleReceive_canon | apply canon_next

theorem State.takeLane_canon {k die step : Nat} {acc : List Bool × Bool × State} {lane : Nat} (hacc : acc.2.2.Canon)
    : State.Canon (State.takeLane k die step acc lane).2.2 := by
  unfold State.takeLane
  repeat' first
    | with_reducible assumption | split | simp only [canon_update]

theorem State.linkSend_canon {s : State} {port k step : Nat} (hs : s.Canon) : State.Canon (s.linkSend port k step)
    := by
  unfold State.linkSend
  extract_lets lanes key bad any
  clear_value lanes key bad any
  refine canon_ite hs ?_
  extract_lets
  have fold : ∀ (l : List Nat) (p : List Bool × Bool × State), p.2.2.Canon →
      (l.foldl (State.takeLane k (port / 2) step) p).2.2.Canon := by
    intro l
    induction l with
    | nil => exact fun p h => h
    | cons x r ih => exact fun p h => ih _ (State.takeLane_canon h)
  split
  rename_i pay took t h
  have ht : t.Canon := canon_snd2 h (fold lanes ([], false, s) hs)
  clear h
  extract_lets t1 t2
  have h1 : t1.Canon := State.wr_canon ht
  have h2 : t2.Canon := canon_ite (canon_update.2 h1) h1
  exact canon_ite hs (canon_ite h2 (canon_foldl h2 fun s x h => State.mortarPerform_canon h fun _ => h))

theorem execLinkSendEntry_canon {port : Fin 16} {slot : Fin 32} {step : Fin 512} {s : State} (hs : s.Canon) :
    Res.Canon (execLinkSendEntry port slot step s) := by
  unfold execLinkSendEntry
  with_reducible repeat' first
    | assumption | intro _ | apply State.live_canon | apply State.linkSend_canon | apply canon_next

theorem State.linkLand_canon {s : State} {bed bank lane step : Nat} {v : Bool} (hs : s.Canon) : State.Canon
    (s.linkLand bed bank lane step v).2 := by
  unfold State.linkLand
  repeat' first
    | with_reducible assumption | (extract_lets +onlyGivenNames x; clear_value x)
    | with_reducible apply State.cnt_canon | with_reducible apply State.mark_canon
    | with_reducible apply State.landBit_canon | split

theorem State.frameBit_canon {port k par step : Nat} {acc : List (Nat × Nat × Nat × Bool) × State} {z1 : Nat × Bool}
    (hacc : acc.2.Canon) : State.Canon (State.frameBit port k par step acc z1).2 := by
  unfold State.frameBit
  repeat' first
    | with_reducible assumption | with_reducible intro _ | (extract_lets +onlyGivenNames x; clear_value x)
    | with_reducible apply State.mortarPerform_canon | with_reducible apply State.free_canon
    | with_reducible apply State.fault_canon | with_reducible apply State.linkLand_canon
    | with_reducible apply canon_ite | split | simp only [canon_update]

theorem State.frameIn_canon {s : State} {port hdr : Nat} {payload : List Bool} (hs : s.Canon) : State.Canon
    (s.frameIn port hdr payload) := by
  unfold State.frameIn
  repeat' first
    | with_reducible assumption | with_reducible apply State.cnt_canon | with_reducible apply State.frameBit_canon
    | with_reducible apply State.logInput_canon | with_reducible apply canon_foldl_snd
    | with_reducible apply canon_ite | split

theorem State.landInternal_canon {s : State} {bed lane l : Nat} {b : FlightBit} (hs : s.Canon) : State.Canon
    (s.landInternal bed lane l b) := by
  unfold State.landInternal
  repeat' first
    | with_reducible assumption | with_reducible apply State.cnt_canon | with_reducible apply State.mark_canon
    | with_reducible apply State.landBit_canon | with_reducible apply canon_ite | simp only [canon_update]

theorem State.landFlight_canon {s : State} {b : FlightBit} (hs : s.Canon) : State.Canon (s.landFlight b) := by
  unfold State.landFlight
  repeat' first
    | with_reducible assumption | with_reducible apply State.linkLand_canon
    | with_reducible apply State.logInput_canon | with_reducible apply State.landInternal_canon
    | with_reducible apply canon_ite | split | simp only [canon_update]

theorem State.landingWrite_canon {s : State} {bed lane l : Nat} (hs : s.Canon) : State.Canon
    (s.landingWrite bed lane l) := by
  unfold State.landingWrite
  repeat' first
    | with_reducible assumption | with_reducible apply State.landFlight_canon | split

theorem execLandingWrite_canon {b : BedLoc} {lane : Fin 16} {step : Fin 512} {s : State} (hs : s.Canon) : Res.Canon
    (execLandingWrite b lane step s) := by
  unfold execLandingWrite
  with_reducible repeat' first
    | assumption | intro _ | apply State.live_canon | apply State.landingWrite_canon | apply canon_next

theorem State.stray_canon {s : State} {b : FlightBit} (hs : s.Canon) : State.Canon (s.stray b) := by
  unfold State.stray
  extract_lets f
  have hf : ∀ a b c, (f a b c).Canon := fun a b c => State.fault_canon hs
  split
  · exact hf _ _ _
  · exact hf _ _ _
  · exact hf _ _ _
  · exact hf _ _ _
  · exact hs

theorem State.flightStep_canon {s : State} {k t : Nat} (hs : s.Canon) : State.Canon (s.flightStep k t) := by
  unfold State.flightStep
  repeat' first
    | with_reducible assumption | with_reducible apply State.stray_canon | with_reducible apply canon_foldl
    | with_reducible apply canon_ite | simp only [canon_update]

theorem State.flightClear_canon {s : State} {k : Nat} (hs : s.Canon) : State.Canon (s.flightClear k) := by
  unfold State.flightClear
  repeat' first
    | with_reducible assumption | simp only [canon_update]

theorem State.putLaneCfg_canon {s : State} {kind lane v : Nat} (hs : s.Canon) : State.Canon
    (s.putLaneCfg kind lane v) := by
  unfold State.putLaneCfg
  with_reducible repeat' first | assumption | apply State.wr_canon | apply canon_ite

theorem State.mortarAccess_canon {s : State} {who : Who} {die : Nat} {write : Bool} (hs : s.Canon) : State.Canon
    (s.mortarAccess who die write) := by
  unfold State.mortarAccess
  repeat' first
    | with_reducible assumption
    | (extract_lets +onlyGivenNames x; refine canon_cut (P := State.Canon x) ?_ ?_ <;> first | (clear_value x; intro _) | subst x)
    | (extract_lets +onlyGivenNames x; clear_value x) | with_reducible apply State.wf_canon
    | with_reducible apply State.accBegin_canon | with_reducible apply State.putLaneCfg_canon
    | with_reducible apply State.wrE_canon | split

theorem execMortarAccRead_canon {who : Who} {die : Fin 8} {s : State} (hs : s.Canon) : Res.Canon
    (execMortarAccRead who die s) := by
  unfold execMortarAccRead
  with_reducible repeat' first
    | assumption | intro _ | apply State.accessDom_canon | apply State.okay_canon | apply State.mortarAccess_canon
    | apply canon_next

theorem execMortarAccWrite_canon {who : Who} {die : Fin 8} {s : State} (hs : s.Canon) : Res.Canon
    (execMortarAccWrite who die s) := by
  unfold execMortarAccWrite
  with_reducible repeat' first
    | assumption | intro _ | apply State.accessDom_canon | apply State.okay_canon | apply State.mortarAccess_canon
    | apply canon_next

theorem execLaneCfgWrite_canon {who : Who} {die : Fin 8} {s : State} (hs : s.Canon) : Res.Canon
    (execLaneCfgWrite who die s) := by
  unfold execLaneCfgWrite
  with_reducible repeat' first
    | assumption | intro _ | apply State.accessDom_canon | apply State.okay_canon | apply State.mortarAccess_canon
    | apply canon_next | apply canon_ite

theorem execMortarAccDone_canon {die : Fin 8} {s : State} (hs : s.Canon) : Res.Canon (execMortarAccDone die s) := by
  unfold execMortarAccDone
  with_reducible repeat' first
    | assumption | intro _ | apply State.live_canon | apply State.accDone_canon | apply canon_next

/-! ### Words -/

theorem State.wordWrite_canon {s : State} {bed t w : Nat} {r : WRes} {flagsToo : Bool} (hs : s.Canon) : State.Canon
    (s.wordWrite bed t w r flagsToo) := by
  unfold State.wordWrite
  with_reducible repeat' first
    | assumption | apply State.hzMark_canon | apply State.putHist_canon | apply State.wr_canon | apply canon_ite

theorem State.wordOperate_canon {s : State} {k bed t w : Nat} {f : WFun} (hs : s.Canon) : State.Canon
    (s.wordOperate k bed t w f) := by
  unfold State.wordOperate
  with_reducible repeat' first
    | assumption | intro _ | apply State.hzWop_canon | apply State.noteWop_canon | apply State.hzFlagRead_canon
    | apply State.noteFlags_canon | apply State.hzHistRead_canon | apply State.noteHist_canon
    | apply State.wordWrite_canon | apply canon_foldl | apply canon_ite

theorem State.noteWimem_canon {s : State} {bed t : Nat} (hs : s.Canon) : State.Canon (s.noteWimem bed t) := by
  unfold State.noteWimem
  with_reducible repeat' first | assumption | apply State.cnt_canon | apply canon_ite

theorem State.wordRun_canon {s : State} {k bed t w : Nat} {f : WFun} (hs : s.Canon) : State.Canon
    (s.wordRun k bed t w f) := by
  unfold State.wordRun
  repeat' first
    | with_reducible assumption | (extract_lets +onlyGivenNames x; clear_value x)
    | with_reducible apply State.yieldMismatch_canon | with_reducible apply State.wordWrite_canon
    | with_reducible apply State.faultAt_canon | with_reducible apply State.wordOperate_canon | split

theorem State.wordIssue_canon {s : State} {b : BedLoc} {p : Nat → Bool} {f : WFun} (hs : s.Canon) : State.Canon
    (s.wordIssue b p f) := by
  unfold State.wordIssue
  with_reducible repeat' first
    | assumption | intro _ | apply State.unit_canon | apply State.voted_canon | apply State.wordStoreError_canon
    | apply State.mark_canon | apply State.wordRun_canon | apply State.noteWimem_canon | apply canon_ite

theorem execPass_canon {b : BedLoc} {s : State} (hs : s.Canon) : Res.Canon (execPass b s) := by
  unfold execPass
  with_reducible repeat' first
    | assumption | intro _ | apply State.live_canon | apply State.wordIssue_canon | apply canon_next

theorem execNeg_canon {b : BedLoc} {s : State} (hs : s.Canon) : Res.Canon (execNeg b s) := by
  unfold execNeg
  with_reducible repeat' first
    | assumption | intro _ | apply State.live_canon | apply State.wordIssue_canon | apply canon_next

theorem execPopc_canon {b : BedLoc} {s : State} (hs : s.Canon) : Res.Canon (execPopc b s) := by
  unfold execPopc
  with_reducible repeat' first
    | assumption | intro _ | apply State.live_canon | apply State.wordIssue_canon | apply canon_next

theorem execClz_canon {b : BedLoc} {s : State} (hs : s.Canon) : Res.Canon (execClz b s) := by
  unfold execClz
  with_reducible repeat' first
    | assumption | intro _ | apply State.live_canon | apply State.wordIssue_canon | apply canon_next

theorem execAdd_canon {b : BedLoc} {s : State} (hs : s.Canon) : Res.Canon (execAdd b s) := by
  unfold execAdd
  with_reducible repeat' first
    | assumption | intro _ | apply State.live_canon | apply State.wordIssue_canon | apply canon_next

theorem execAddc_canon {b : BedLoc} {s : State} (hs : s.Canon) : Res.Canon (execAddc b s) := by
  unfold execAddc
  with_reducible repeat' first
    | assumption | intro _ | apply State.live_canon | apply State.wordIssue_canon | apply canon_next

theorem execSub_canon {b : BedLoc} {s : State} (hs : s.Canon) : Res.Canon (execSub b s) := by
  unfold execSub
  with_reducible repeat' first
    | assumption | intro _ | apply State.live_canon | apply State.wordIssue_canon | apply canon_next

theorem execSubc_canon {b : BedLoc} {s : State} (hs : s.Canon) : Res.Canon (execSubc b s) := by
  unfold execSubc
  with_reducible repeat' first
    | assumption | intro _ | apply State.live_canon | apply State.wordIssue_canon | apply canon_next

theorem execAnd_canon {b : BedLoc} {s : State} (hs : s.Canon) : Res.Canon (execAnd b s) := by
  unfold execAnd
  with_reducible repeat' first
    | assumption | intro _ | apply State.live_canon | apply State.wordIssue_canon | apply canon_next

theorem execOr_canon {b : BedLoc} {s : State} (hs : s.Canon) : Res.Canon (execOr b s) := by
  unfold execOr
  with_reducible repeat' first
    | assumption | intro _ | apply State.live_canon | apply State.wordIssue_canon | apply canon_next

theorem execXor_canon {b : BedLoc} {s : State} (hs : s.Canon) : Res.Canon (execXor b s) := by
  unfold execXor
  with_reducible repeat' first
    | assumption | intro _ | apply State.live_canon | apply State.wordIssue_canon | apply canon_next

theorem execAndn_canon {b : BedLoc} {s : State} (hs : s.Canon) : Res.Canon (execAndn b s) := by
  unfold execAndn
  with_reducible repeat' first
    | assumption | intro _ | apply State.live_canon | apply State.wordIssue_canon | apply canon_next

theorem execShl_canon {b : BedLoc} {s : State} (hs : s.Canon) : Res.Canon (execShl b s) := by
  unfold execShl
  with_reducible repeat' first
    | assumption | intro _ | apply State.live_canon | apply State.wordIssue_canon | apply canon_next

theorem execShr_canon {b : BedLoc} {s : State} (hs : s.Canon) : Res.Canon (execShr b s) := by
  unfold execShr
  with_reducible repeat' first
    | assumption | intro _ | apply State.live_canon | apply State.wordIssue_canon | apply canon_next

theorem execSar_canon {b : BedLoc} {s : State} (hs : s.Canon) : Res.Canon (execSar b s) := by
  unfold execSar
  with_reducible repeat' first
    | assumption | intro _ | apply State.live_canon | apply State.wordIssue_canon | apply canon_next

theorem execRol_canon {b : BedLoc} {s : State} (hs : s.Canon) : Res.Canon (execRol b s) := by
  unfold execRol
  with_reducible repeat' first
    | assumption | intro _ | apply State.live_canon | apply State.wordIssue_canon | apply canon_next

theorem execMull_canon {b : BedLoc} {s : State} (hs : s.Canon) : Res.Canon (execMull b s) := by
  unfold execMull
  with_reducible repeat' first
    | assumption | intro _ | apply State.live_canon | apply State.wordIssue_canon | apply canon_next

theorem execMulhu_canon {b : BedLoc} {s : State} (hs : s.Canon) : Res.Canon (execMulhu b s) := by
  unfold execMulhu
  with_reducible repeat' first
    | assumption | intro _ | apply State.live_canon | apply State.wordIssue_canon | apply canon_next

theorem execMulhs_canon {b : BedLoc} {s : State} (hs : s.Canon) : Res.Canon (execMulhs b s) := by
  unfold execMulhs
  with_reducible repeat' first
    | assumption | intro _ | apply State.live_canon | apply State.wordIssue_canon | apply canon_next

theorem execCmpeq_canon {b : BedLoc} {s : State} (hs : s.Canon) : Res.Canon (execCmpeq b s) := by
  unfold execCmpeq
  with_reducible repeat' first
    | assumption | intro _ | apply State.live_canon | apply State.wordIssue_canon | apply canon_next

theorem execCmpltu_canon {b : BedLoc} {s : State} (hs : s.Canon) : Res.Canon (execCmpltu b s) := by
  unfold execCmpltu
  with_reducible repeat' first
    | assumption | intro _ | apply State.live_canon | apply State.wordIssue_canon | apply canon_next

theorem execCmplts_canon {b : BedLoc} {s : State} (hs : s.Canon) : Res.Canon (execCmplts b s) := by
  unfold execCmplts
  with_reducible repeat' first
    | assumption | intro _ | apply State.live_canon | apply State.wordIssue_canon | apply canon_next

theorem execMinu_canon {b : BedLoc} {s : State} (hs : s.Canon) : Res.Canon (execMinu b s) := by
  unfold execMinu
  with_reducible repeat' first
    | assumption | intro _ | apply State.live_canon | apply State.wordIssue_canon | apply canon_next

theorem execMins_canon {b : BedLoc} {s : State} (hs : s.Canon) : Res.Canon (execMins b s) := by
  unfold execMins
  with_reducible repeat' first
    | assumption | intro _ | apply State.live_canon | apply State.wordIssue_canon | apply canon_next

theorem execMaxu_canon {b : BedLoc} {s : State} (hs : s.Canon) : Res.Canon (execMaxu b s) := by
  unfold execMaxu
  with_reducible repeat' first
    | assumption | intro _ | apply State.live_canon | apply State.wordIssue_canon | apply canon_next

theorem execMaxs_canon {b : BedLoc} {s : State} (hs : s.Canon) : Res.Canon (execMaxs b s) := by
  unfold execMaxs
  with_reducible repeat' first
    | assumption | intro _ | apply State.live_canon | apply State.wordIssue_canon | apply canon_next

theorem execSel_canon {b : BedLoc} {s : State} (hs : s.Canon) : Res.Canon (execSel b s) := by
  unfold execSel
  with_reducible repeat' first
    | assumption | intro _ | apply State.live_canon | apply State.wordIssue_canon | apply canon_next

theorem execWordOpReserved_canon {b : BedLoc} {s : State} (hs : s.Canon) : Res.Canon (execWordOpReserved b s) := by
  unfold execWordOpReserved
  with_reducible repeat' first
    | assumption | intro _ | apply State.live_canon | apply State.wordIssue_canon | apply canon_next

/-! ### Period -/

theorem State.cellRest_canon {s : State} {k t c : Nat} (hs : s.Canon) : State.Canon (s.cellRest k t c) := by
  unfold State.cellRest
  with_reducible repeat' first
    | assumption | apply State.cellRun_canon | apply State.noteImem_canon | apply State.mark_canon | apply canon_ite

theorem State.nopsRest_canon {s : State} {t bed : Nat} (hs : s.Canon) : State.Canon (s.nopsRest t bed) := by
  unfold State.nopsRest
  with_reducible repeat' first | assumption | apply State.zeroCells_canon | apply canon_ite

theorem State.wordRest_canon {s : State} {k t bed : Nat} (hs : s.Canon) : State.Canon (s.wordRest k t bed) := by
  unfold State.wordRest
  with_reducible repeat' first
    | assumption | apply State.wordStoreError_canon | apply State.mark_canon | apply State.wordRun_canon
    | apply State.noteWimem_canon | apply canon_ite

theorem State.portRest_canon {s : State} {k t u : Nat} (hs : s.Canon) : State.Canon (s.portRest k t u) := by
  unfold State.portRest
  with_reducible repeat' first
    | assumption | apply State.portRun_canon | apply State.notePimem_canon | apply State.mark_canon
    | apply canon_ite

theorem State.laneRest_canon {s : State} {k t l : Nat} (hs : s.Canon) : State.Canon (s.laneRest k t l) := by
  unfold State.laneRest
  with_reducible repeat' first
    | assumption | intro _ | apply State.mortarPerform_canon | apply State.mark_canon | apply State.runRelay_canon
    | apply State.runSend_canon | apply canon_ite

theorem State.issueRest_canon {s : State} {k t : Nat} (hs : s.Canon) : State.Canon (s.issueRest k t) := by
  unfold State.issueRest
  with_reducible repeat' first
    | assumption | intro _ | apply State.cellRest_canon | apply State.each_canon | apply State.nopsRest_canon
    | apply State.wordRest_canon | apply State.portRest_canon | apply State.laneRest_canon | apply canon_foldl

theorem State.wiresRest_canon {s : State} {k t : Nat} (hs : s.Canon) : State.Canon (s.wiresRest k t) := by
  unfold State.wiresRest
  repeat' first
    | with_reducible assumption | simp only [canon_update]

theorem State.stagesRest_canon {s : State} {k t : Nat} (hs : s.Canon) : State.Canon (s.stagesRest k t) := by
  unfold State.stagesRest
  with_reducible repeat' first
    | assumption | intro _ | apply State.wiresRest_canon | apply State.switchLane_canon
    | apply State.moduleLane_canon | apply State.linkSend_canon | apply State.landFlight_canon | apply canon_foldl

theorem State.crossRest_canon {s : State} {k : Nat} (hs : s.Canon) : State.Canon (s.crossRest k) := by
  unfold State.crossRest
  repeat' first
    | with_reducible assumption | with_reducible apply State.landFlight_canon | with_reducible apply canon_foldl
    | simp only [canon_update]

theorem State.baysRest_canon {s : State} {k : Nat} (hs : s.Canon) : State.Canon (s.baysRest k) := by
  unfold State.baysRest
  with_reducible repeat' first
    | assumption | intro _ | apply State.bayStep_canon | apply State.bayDeliver_canon | apply canon_foldl

theorem State.periodRest_canon {s : State} {k : Nat} (hs : s.Canon) : State.Canon (s.periodRest k) := by
  unfold State.periodRest
  with_reducible repeat' first
    | assumption | apply State.crossRest_canon | apply State.baysRest_canon | apply State.stagesRest_canon
    | apply State.issueRest_canon | apply State.wr_canon | apply State.flightStep_canon | apply canon_ite

theorem State.commitRest_canon {s : State} {k : Nat} (hs : s.Canon) : State.Canon (s.commitRest k) := by
  unfold State.commitRest
  repeat' first
    | with_reducible assumption | with_reducible apply State.crossRest_canon
    | with_reducible apply State.baysRest_canon | simp only [canon_update]

end Sys2Proof.Machine
end

