-- ==== Sys2Proof/Laws/CanonPart.lean ====
section
/-! SUPPORT. Every operation keeps the canonical form of the stores (`State.Canon`): pins, time, partitions, loading and events. -/

namespace Sys2Proof.Machine

open Reg

/-! ### Pins -/

theorem execTriggerInputEdge_canon {input : Fin 8} {s : State} (hs : s.Canon) : Res.Canon
    (execTriggerInputEdge input s) := by
  unfold execTriggerInputEdge
  with_reducible repeat' first
    | assumption | intro _ | apply State.live_canon | apply State.extEdge_canon | apply canon_next | apply canon_ite

theorem State.claims_canon {s : State} (hs : s.Canon) : State.Canon (s.claims) := by
  unfold State.claims
  repeat' first
    | with_reducible assumption | (extract_lets +onlyGivenNames x; clear_value x)
    | with_reducible apply State.wf_canon | split

theorem State.pinGuard_canon {s : State} {who : Who} {f : State → State} (hs : s.Canon)
    (hf : ∀ y0 : State, y0.Canon → State.Canon (f y0)) : State.Canon (s.pinGuard who f) := by
  unfold State.pinGuard
  with_reducible repeat' first
    | assumption | apply hf | apply State.okay_canon | apply State.deny_canon | apply canon_ite

theorem State.routeData_canon {s : State} {v : Nat} (hs : s.Canon) : State.Canon (s.routeData v) := by
  unfold State.routeData
  with_reducible repeat' first | assumption | apply State.claims_canon | apply State.wr_canon | apply canon_ite

theorem execRouteDataWrite_canon {who : Who} {val : Word} {s : State} (hs : s.Canon) : Res.Canon
    (execRouteDataWrite who val s) := by
  unfold execRouteDataWrite
  with_reducible repeat' first
    | assumption | intro _ | apply State.access_canon | apply State.pinGuard_canon | apply State.routeData_canon
    | apply canon_next

theorem State.periphEn_canon {s : State} {v : Nat} (hs : s.Canon) : State.Canon (s.periphEn v) := by
  unfold State.periphEn
  with_reducible repeat' first | assumption | apply State.claims_canon | apply State.wr_canon

theorem execPeriphEnWrite_canon {who : Who} {val : Word} {s : State} (hs : s.Canon) : Res.Canon
    (execPeriphEnWrite who val s) := by
  unfold execPeriphEnWrite
  with_reducible repeat' first
    | assumption | intro _ | apply State.access_canon | apply State.pinGuard_canon | apply State.periphEn_canon
    | apply canon_next

theorem State.lostPin_canon {s : State} {pin : Nat} (hs : s.Canon) : State.Canon (s.lostPin pin) := by
  unfold State.lostPin
  with_reducible repeat' first | assumption | apply State.wf_canon

theorem State.tgtDrive_canon {s : State} {k : Nat} (hs : s.Canon) : State.Canon (s.tgtDrive k) := by
  unfold State.tgtDrive
  with_reducible repeat' first
    | assumption | intro _ | apply State.each_canon | apply State.lostPin_canon | apply State.wr_canon
    | apply canon_ite

theorem State.tgtLine_canon {s : State} {k n : Nat} {l : List TgtIn} {bed line : Nat} (hs : s.Canon) : State.Canon
    (s.tgtLine k n l bed line) := by
  unfold State.tgtLine
  repeat' first
    | with_reducible assumption | with_reducible apply State.free_canon | with_reducible apply State.putLine_canon
    | with_reducible apply State.logInput_canon | split

theorem State.tgtSample_canon {s : State} {k n : Nat} (hs : s.Canon) : State.Canon (s.tgtSample k n) := by
  unfold State.tgtSample
  with_reducible repeat' first
    | assumption | intro _ | apply State.lostPin_canon | apply State.tgtLine_canon | apply canon_foldl
    | apply canon_ite

theorem State.gpTgtWrite_canon {s : State} {who : Who} {pin n v : Nat} (hs : s.Canon) : State.Canon
    (s.gpTgtWrite who pin n v) := by
  unfold State.gpTgtWrite
  with_reducible repeat' first
    | assumption | apply State.deny_canon | apply State.wf_canon | apply State.okay_canon | apply State.wr_canon
    | apply canon_ite

theorem execGpTgtWrite_canon {who : Who} {pin : Fin 256} {second : Bool} {val : Word} {s : State} (hs : s.Canon) :
    Res.Canon (execGpTgtWrite who pin second val s) := by
  unfold execGpTgtWrite
  with_reducible repeat' first
    | assumption | intro _ | apply State.access_canon | apply State.gpTgtWrite_canon | apply canon_next

theorem State.gpOut_canon {s : State} {who : Who} {bank : Nat} {f : Nat → Nat} (hs : s.Canon) : State.Canon
    (s.gpOut who bank f) := by
  unfold State.gpOut
  with_reducible repeat' first | assumption | intro _ | apply State.pinGuard_canon | apply State.wf_canon

theorem execGpOutSet_canon {who : Who} {bank : Fin 8} {val : Word} {s : State} (hs : s.Canon) : Res.Canon
    (execGpOutSet who bank val s) := by
  unfold execGpOutSet
  with_reducible repeat' first
    | assumption | intro _ | apply State.access_canon | apply State.gpOut_canon | apply canon_next

theorem execGpOutClr_canon {who : Who} {bank : Fin 8} {val : Word} {s : State} (hs : s.Canon) : Res.Canon
    (execGpOutClr who bank val s) := by
  unfold execGpOutClr
  with_reducible repeat' first
    | assumption | intro _ | apply State.access_canon | apply State.gpOut_canon | apply canon_next

theorem execGpOutTgl_canon {who : Who} {bank : Fin 8} {val : Word} {s : State} (hs : s.Canon) : Res.Canon
    (execGpOutTgl who bank val s) := by
  unfold execGpOutTgl
  with_reducible repeat' first
    | assumption | intro _ | apply State.access_canon | apply State.gpOut_canon | apply canon_next

theorem State.gpSample_canon {s : State} {pin : Nat} {level : Bool} (hs : s.Canon) : State.Canon
    (s.gpSample pin level) := by
  unfold State.gpSample
  with_reducible repeat' first
    | assumption | apply State.wf_canon | apply State.raise_canon | apply State.orf_canon | apply canon_ite

theorem State.gpLevel_canon {s : State} {pin : Nat} {level : Bool} (hs : s.Canon) : State.Canon
    (s.gpLevel pin level) := by
  unfold State.gpLevel
  with_reducible repeat' first | assumption | apply State.wr_canon | apply State.gpSample_canon | apply canon_ite

theorem State.gpResume_canon {s : State} (hs : s.Canon) : State.Canon (s.gpResume) := by
  unfold State.gpResume
  with_reducible repeat' first
    | assumption | intro _ | apply State.gpSample_canon | apply State.drop_canon | apply canon_foldl

theorem execGpInterrupt_canon {pin : Fin 256} {level : Bool} {s : State} (hs : s.Canon) : Res.Canon
    (execGpInterrupt pin level s) := by
  unfold execGpInterrupt
  with_reducible repeat' first
    | assumption | intro _ | apply State.aon_canon | apply State.gpLevel_canon | apply canon_next

theorem State.gpTick_canon {s : State} (hs : s.Canon) : State.Canon (s.gpTick) := by
  unfold State.gpTick
  with_reducible repeat' first
    | assumption | intro _ | apply State.each_canon | apply State.gpResume_canon | apply State.gpSample_canon
    | apply canon_ite

theorem State.pinDrive_canon {s : State} {pin : Nat} (hs : s.Canon) : State.Canon (s.pinDrive pin).2 := by
  unfold State.pinDrive
  repeat' first
    | with_reducible assumption
    | (extract_lets +onlyGivenNames x; refine canon_cut (P := State.Canon x.2) ?_ ?_ <;> first | (clear_value x; intro _) | subst x)
    | (extract_lets +onlyGivenNames x; clear_value x) | with_reducible apply State.free_canon | split

theorem State.pad_canon {s : State} {pin : Nat} (hs : s.Canon) : State.Canon (s.pad pin).2 := by
  have hd := State.pinDrive_canon (pin := pin) hs
  unfold State.pad
  dsimp only
  repeat' first
    | with_reducible assumption | split

theorem State.latchPads_canon {s : State} (hs : s.Canon) : State.Canon (s.latchPads) := by
  unfold State.latchPads
  repeat' first
    | with_reducible assumption | (intro _) | with_reducible apply State.each_canon
    | with_reducible apply State.pad_canon | with_reducible apply State.wr_canon
    | with_reducible apply State.wf_canon | with_reducible apply canon_ite | split | simp only [canon_update]

theorem State.releaseBank_canon {s : State} {b : Nat} (hs : s.Canon) : State.Canon (s.releaseBank b) := by
  unfold State.releaseBank
  with_reducible repeat' first
    | apply State.wr_canon
    | assumption | apply State.wf_canon | apply State.drop_canon

theorem execRelease_canon {who : Who} {bank : Fin 8} {s : State} (hs : s.Canon) : Res.Canon (execRelease who bank s)
    := by
  unfold execRelease
  with_reducible repeat' first
    | assumption | intro _ | apply State.access_canon | apply State.pinGuard_canon | apply State.releaseBank_canon
    | apply canon_next

theorem State.padsOut_canon {s : State} (hs : s.Canon) : State.Canon (s.padsOut) := by
  unfold State.padsOut
  repeat' first
    | with_reducible assumption | (intro _) | with_reducible apply State.each_canon
    | with_reducible apply State.releaseBank_canon | with_reducible apply canon_ite | split
    | simp only [canon_update]

theorem State.vddio_canon {s : State} {b : Nat} {present v33 : Bool} (hs : s.Canon) : State.Canon
    (s.vddio b present v33) := by
  unfold State.vddio
  with_reducible repeat' first
    | assumption | intro _ | apply State.wf_canon | apply State.each_canon | apply State.gpLevel_canon
    | apply canon_ite

theorem execVddioChange_canon {bank : Fin 8} {present v33 : Bool} {s : State} (hs : s.Canon) : Res.Canon
    (execVddioChange bank present v33 s) := by
  unfold execVddioChange
  with_reducible repeat' first
    | assumption | intro _ | apply State.aon_canon | apply State.vddio_canon | apply canon_next

/-! ### Time -/

theorem State.timeGuard_canon {s : State} {who : Who} {f : State → State} (hs : s.Canon)
    (hf : ∀ y0 : State, y0.Canon → State.Canon (f y0)) : State.Canon (s.timeGuard who f) := by
  unfold State.timeGuard
  with_reducible repeat' first
    | assumption | apply hf | apply State.okay_canon | apply State.deny_canon | apply canon_ite

theorem State.noteRegression_canon {s : State} {before after : Nat} (hs : s.Canon) : State.Canon
    (s.noteRegression before after) := by
  unfold State.noteRegression
  with_reducible repeat' first
    | assumption | intro _ | apply State.each_canon | apply State.wr_canon | apply canon_ite

theorem State.setTime_canon {s : State} {v : Nat} (hs : s.Canon) : State.Canon (s.setTime v) := by
  unfold State.setTime
  with_reducible repeat' first
    | assumption | apply State.noteRegression_canon | apply State.wf_canon | apply State.setPair_canon
    | apply State.wr_canon | apply canon_ite

theorem State.advanceTime_canon {s : State} {f : Nat} (hs : s.Canon) : State.Canon (s.advanceTime f) := by
  unfold State.advanceTime
  with_reducible repeat' first
    | apply State.wr_canon | apply canon_ite
    | assumption | apply State.wf_canon | apply State.setPair_canon

theorem State.advanceMono_canon {s : State} {f : Nat} (hs : s.Canon) : State.Canon (s.advanceMono f) := by
  unfold State.advanceMono
  with_reducible repeat' first | assumption | apply State.wr_canon | apply State.setPair_canon

theorem execTimeSet_canon {who : Who} {hi : Word} {s : State} (hs : s.Canon) : Res.Canon (execTimeSet who hi s) :=
    by
  unfold execTimeSet
  with_reducible repeat' first
    | assumption | intro _ | apply State.access_canon | apply State.timeGuard_canon | apply State.takeLo_canon
    | apply State.setTime_canon | apply canon_next

theorem State.writeTimeInc_canon {s : State} {hi : Nat} (hs : s.Canon) : State.Canon (s.writeTimeInc hi) := by
  unfold State.writeTimeInc
  with_reducible repeat' first | assumption | apply State.takeLo_canon | apply State.wr_canon | apply canon_ite

theorem execTimeIncWrite_canon {who : Who} {hi : Word} {s : State} (hs : s.Canon) : Res.Canon
    (execTimeIncWrite who hi s) := by
  unfold execTimeIncWrite
  with_reducible repeat' first
    | assumption | intro _ | apply State.access_canon | apply State.timeGuard_canon | apply State.writeTimeInc_canon
    | apply canon_next

theorem State.inSync_canon {s : State} (hs : s.Canon) : State.Canon (s.inSync) := by
  unfold State.inSync
  with_reducible repeat' first | assumption | apply State.wf_canon

theorem State.setUnsynced_canon {s : State} (hs : s.Canon) : State.Canon (s.setUnsynced) := by
  unfold State.setUnsynced
  with_reducible repeat' first
    | assumption | intro _ | apply State.each_canon | apply State.wf_canon | apply State.lnEnd_canon
    | apply canon_ite

theorem State.ppsAccept_canon {s : State} {k : Nat} {period : Bool} (hs : s.Canon) : State.Canon
    (s.ppsAccept k period) := by
  unfold State.ppsAccept
  with_reducible repeat' first
    | assumption | apply State.wf_canon | apply State.cnt_canon | apply State.setTime_canon
    | apply State.inSync_canon | apply State.setPair_canon | apply State.wr_canon | apply canon_ite

theorem State.pps_canon {s : State} (hs : s.Canon) : State.Canon (s.pps) := by
  unfold State.pps
  with_reducible repeat' first
    | assumption | apply State.ppsAccept_canon | apply State.wf_canon | apply State.cnt_canon | apply canon_ite

theorem execPpsEdge_canon {s : State} (hs : s.Canon) : Res.Canon (execPpsEdge s) := by
  unfold execPpsEdge
  with_reducible repeat' first
    | assumption | intro _ | apply State.aon_canon | apply State.pps_canon | apply canon_next

theorem execPpsHoldoverTimeout_canon {s : State} (hs : s.Canon) : Res.Canon (execPpsHoldoverTimeout s) := by
  unfold execPpsHoldoverTimeout
  with_reducible repeat' first
    | assumption | intro _ | apply State.aon_canon | apply State.wf_canon | apply canon_next | apply canon_ite

theorem execTimeMsgTimeout_canon {s : State} (hs : s.Canon) : Res.Canon (execTimeMsgTimeout s) := by
  unfold execTimeMsgTimeout
  with_reducible repeat' first
    | assumption | intro _ | apply State.aon_canon | apply State.wf_canon | apply canon_next | apply canon_ite

theorem execSynced_canon {who : Who} {s : State} (hs : s.Canon) : Res.Canon (execSynced who s) := by
  unfold execSynced
  with_reducible repeat' first
    | assumption | intro _ | apply State.access_canon | apply State.timeGuard_canon | apply State.inSync_canon
    | apply canon_next

theorem State.timeCtrl_canon {s : State} {v : Nat} (hs : s.Canon) : State.Canon (s.timeCtrl v) := by
  unfold State.timeCtrl
  with_reducible repeat' first | assumption | apply State.wr_canon | apply State.inSync_canon | apply canon_ite

theorem execTimeSecond_canon {s : State} (hs : s.Canon) : Res.Canon (execTimeSecond s) := by
  unfold execTimeSecond
  with_reducible repeat' first
    | assumption | intro _ | apply State.aon_canon | apply State.wr_canon | apply State.sendTree_canon
    | apply canon_next | apply canon_ite

theorem State.timeSym_canon {s : State} {port hops sec : Nat} (hs : s.Canon) : State.Canon (s.timeSym port hops sec)
    := by
  unfold State.timeSym
  repeat' first
    | with_reducible assumption
    | (extract_lets +onlyGivenNames x; refine canon_cut (P := State.Canon x) ?_ ?_ <;> first | (clear_value x; intro _) | subst x)
    | with_reducible apply State.wr_canon | with_reducible apply State.wf_canon
    | with_reducible apply State.free_canon | with_reducible apply State.sendTree_canon
    | with_reducible apply State.raise_canon | split

theorem execTime_canon {port : Fin 16} {hops : BitVec 4} {sec : BitVec 48} {s : State} (hs : s.Canon) : Res.Canon
    (execTime port hops sec s) := by
  unfold execTime
  with_reducible repeat' first
    | assumption | intro _ | apply State.live_canon | apply State.heard_canon | apply State.timeSym_canon
    | apply canon_next

theorem State.checkSym_canon {s : State} {t : Nat} (hs : s.Canon) : State.Canon (s.checkSym t) := by
  unfold State.checkSym
  with_reducible repeat' first | assumption | apply State.setUnsynced_canon | apply canon_ite

theorem execCheck_canon {port : Fin 16} {t : BitVec 48} {s : State} (hs : s.Canon) : Res.Canon (execCheck port t s)
    := by
  unfold execCheck
  with_reducible repeat' first
    | assumption | intro _ | apply State.live_canon | apply State.heard_canon | apply State.checkSym_canon
    | apply canon_next

theorem State.meter_canon {s : State} {k off n : Nat} (hs : s.Canon) : State.Canon (s.meter k off n) := by
  unfold State.meter
  with_reducible repeat' first | assumption | apply State.setPair_canon

theorem State.epochOpen_canon {s : State} {k : Nat} (hs : s.Canon) : State.Canon (s.epochOpen k) := by
  unfold State.epochOpen
  with_reducible repeat' first | assumption | apply State.wr_canon

theorem State.sealWords_canon {s : State} {ws : List Nat} (hs : s.Canon) : State.Canon (s.sealWords ws) := by
  unfold State.sealWords
  repeat' first
    | with_reducible assumption | with_reducible apply State.wr_canon | with_reducible apply State.pushRecord_canon
    | simp only [canon_update]

theorem State.sealClosed_canon {s : State} (hs : s.Canon) : State.Canon (s.sealClosed) := by
  unfold State.sealClosed
  repeat' first
    | with_reducible assumption | with_reducible apply State.sealWords_canon | with_reducible apply canon_foldl
    | simp only [canon_update]

theorem State.sealRec_canon {s : State} {k : Nat} {short : Bool} (hs : s.Canon) : State.Canon (s.sealRec k short) :=
    by
  unfold State.sealRec
  repeat' first
    | with_reducible assumption | with_reducible apply State.sealWords_canon
    | with_reducible apply State.setPair_canon | with_reducible apply canon_ite | simp only [canon_update]

theorem State.epochShort_canon {s : State} {k : Nat} (hs : s.Canon) : State.Canon (s.epochShort k) := by
  unfold State.epochShort
  with_reducible repeat' first | assumption | apply State.wr_canon | apply State.sealRec_canon | apply canon_ite

theorem State.closeEpoch_canon {s : State} (hs : s.Canon) : State.Canon (s.closeEpoch) := by
  unfold State.closeEpoch
  with_reducible repeat' first
    | assumption | intro _ | apply State.each_canon | apply State.epochOpen_canon | apply State.sealRec_canon
    | apply State.wr_canon | apply canon_ite

theorem execEpochClose_canon {s : State} (hs : s.Canon) : Res.Canon (execEpochClose s) := by
  unfold execEpochClose
  with_reducible repeat' first
    | assumption | intro _ | apply State.aon_canon | apply State.closeEpoch_canon | apply canon_next
    | apply canon_ite

theorem State.exportVault_canon {s : State} (hs : s.Canon) : State.Canon (s.exportVault) := by
  unfold State.exportVault
  with_reducible repeat' first | assumption | intro _ | apply State.pushRecord_canon | apply canon_foldl

theorem execMeterExport_canon {who : Who} {s : State} (hs : s.Canon) : Res.Canon (execMeterExport who s) := by
  unfold execMeterExport
  with_reducible repeat' first
    | assumption | intro _ | apply State.access_canon | apply State.timeGuard_canon | apply State.exportVault_canon
    | apply canon_next

theorem State.meterCfg_canon {s : State} {v : Nat} (hs : s.Canon) : State.Canon (s.meterCfg v) := by
  unfold State.meterCfg
  with_reducible repeat' first | assumption | apply State.wr_canon | apply State.exportVault_canon | apply canon_ite

/-! ### Part -/

theorem State.beginStep_canon {s : State} {k : Nat} (hs : s.Canon) : State.Canon (s.beginStep k) := by
  unfold State.beginStep
  repeat' first
    | with_reducible assumption
    | (extract_lets +onlyGivenNames x; refine canon_cut (P := State.Canon x) ?_ ?_ <;> first | (clear_value x; intro _) | subst x)
    | (extract_lets +onlyGivenNames x; clear_value x) | with_reducible apply State.feedUpTo_canon
    | with_reducible apply State.enterHeld_canon | with_reducible apply State.wr_canon
    | with_reducible apply State.addCause_canon | with_reducible apply State.freeze_canon | split

theorem State.stepDone_canon {s : State} {k : Nat} (hs : s.Canon) : State.Canon (s.stepDone k) := by
  unfold State.stepDone
  with_reducible repeat' first
    | assumption | apply State.wr_canon | apply State.flightStep_canon | apply State.dumpMark_canon
    | apply State.flushRecs_canon | apply State.enterStopped_canon | apply State.enterHeld_canon
    | apply State.beginStep_canon | apply canon_ite

theorem State.holdNow_canon {s : State} {k : Nat} (hs : s.Canon) : State.Canon (s.holdNow k) := by
  unfold State.holdNow
  with_reducible repeat' first | assumption | apply State.enterHeld_canon | apply State.wr_canon | apply canon_ite

theorem State.endStep_canon {s : State} {k : Nat} (hs : s.Canon) : State.Canon (s.endStep k) := by
  unfold State.endStep
  with_reducible repeat' first
    | apply State.feedOverrun_canon
    | assumption | apply State.stepDone_canon | apply State.holdNow_canon | apply State.wr_canon | apply canon_ite

theorem State.busFrame_canon {s : State} (hs : s.Canon) : State.Canon (s.busFrame) := by
  unfold State.busFrame
  with_reducible repeat' first | assumption | apply State.wr_canon | apply State.wf_canon | apply canon_ite

theorem State.tick_canon {s : State} (hs : s.Canon) : State.Canon (s.tick) := by
  unfold State.tick
  repeat' first
    | with_reducible assumption | with_reducible intro _ | with_reducible apply State.each_canon
    | with_reducible apply State.periodRest_canon | with_reducible apply State.busFrame_canon
    | with_reducible apply State.feedOverrun_canon | with_reducible apply State.endStep_canon
    | with_reducible apply canon_ite | simp only [canon_update]

theorem execHoldObserved_canon {slot : Fin 32} {others : BitVec 4} {s : State} (hs : s.Canon) : Res.Canon
    (execHoldObserved slot others s) := by
  unfold execHoldObserved
  with_reducible repeat' first
    | assumption | intro _ | apply State.live_canon | apply State.holdNow_canon | apply State.wr_canon
    | apply canon_next | apply canon_ite

theorem State.resume_canon {s : State} {k : Nat} (hs : s.Canon) : State.Canon (s.resume k) := by
  unfold State.resume
  with_reducible repeat' first | assumption | apply State.wr_canon | apply State.beginStep_canon | apply canon_ite

theorem execHoldRelease_canon {slot : Fin 32} {others : BitVec 4} {s : State} (hs : s.Canon) : Res.Canon
    (execHoldRelease slot others s) := by
  unfold execHoldRelease
  with_reducible repeat' first
    | apply State.wr_canon
    | assumption | intro _ | apply State.live_canon | apply State.resume_canon | apply canon_next | apply canon_ite

theorem State.resolveStops_canon {s : State} {k n : Nat} (hs : s.Canon) : State.Canon (s.resolveStops k n) := by
  unfold State.resolveStops
  repeat' first
    | with_reducible assumption | with_reducible intro _ | with_reducible apply State.sendNotice_canon
    | with_reducible apply canon_foldl | simp only [canon_update]

theorem State.noteShadows_canon {s : State} {k : Nat} (hs : s.Canon) : State.Canon (s.noteShadows k) := by
  unfold State.noteShadows
  with_reducible repeat' first
    | assumption | intro _ | apply State.noteRead_canon | apply canon_foldl | apply canon_ite

theorem State.applyShadow_canon {s : State} {k : Nat} (hs : s.Canon) : State.Canon (s.applyShadow k) := by
  unfold State.applyShadow
  with_reducible repeat' first
    | assumption | intro _ | apply State.noteShadows_canon | apply State.noteState_canon | apply State.wrE_canon
    | apply State.cow_canon | apply canon_foldl | apply canon_ite

theorem State.esAdvance_canon {s : State} {k : Nat} (hs : s.Canon) : State.Canon (s.esAdvance k) := by
  unfold State.esAdvance
  with_reducible repeat' first | assumption | apply State.wr_canon | apply canon_ite

theorem State.clearBanks_canon {s : State} {k n : Nat} (hs : s.Canon) : State.Canon (s.clearBanks k n) := by
  unfold State.clearBanks
  with_reducible repeat' first | assumption | apply State.drop_canon

theorem State.countCycle_canon {s : State} {k n : Nat} (hs : s.Canon) : State.Canon (s.countCycle k n) := by
  unfold State.countCycle
  with_reducible repeat' first
    | assumption | apply State.wr_canon | apply State.addStop_canon | apply State.record_canon
    | apply State.sendNotice_canon | apply State.raise_canon | apply State.firstFault_canon | apply canon_ite

theorem State.commitAct_canon {s : State} {k n j : Nat} (hs : s.Canon) : State.Canon (s.commitAct k n j) := by
  unfold State.commitAct
  repeat' first
    | with_reducible assumption | with_reducible apply State.flightClear_canon
    | with_reducible apply State.flushHist_canon | with_reducible apply State.trigSample_canon
    | with_reducible apply State.resolveStops_canon | with_reducible apply State.applyShadow_canon
    | with_reducible apply State.tgtDrive_canon | with_reducible apply State.tgtSample_canon
    | with_reducible apply State.launchStep_canon | with_reducible apply State.shCommit_canon
    | with_reducible apply State.esAdvance_canon | with_reducible apply State.recBoundary_canon
    | with_reducible apply State.clearBanks_canon | with_reducible apply State.meter_canon
    | with_reducible apply State.countCycle_canon | split

theorem State.gateWait_canon {s : State} {k : Nat} (hs : s.Canon) : State.Canon (s.gateWait k) := by
  unfold State.gateWait
  with_reducible repeat' first | assumption | apply State.wr_canon

theorem State.cycleEnd_canon {s : State} {k n : Nat} (hs : s.Canon) : State.Canon (s.cycleEnd k n) := by
  unfold State.cycleEnd
  with_reducible repeat' first
    | assumption | apply State.enterStopped_canon | apply State.gateWait_canon | apply State.wr_canon
    | apply State.enterHeld_canon | apply canon_ite

theorem State.launchHold_canon {s : State} {k : Nat} (hs : s.Canon) : State.Canon (s.launchHold k) := by
  unfold State.launchHold
  with_reducible repeat' first | assumption | apply State.gateWait_canon | apply State.wr_canon | apply canon_ite

theorem State.commitRun_canon {s : State} {k n a : Nat} (hs : s.Canon) : State.Canon (s.commitRun k n a) := by
  induction a generalizing s with
  | zero => exact hs
  | succ m ih =>
    unfold State.commitRun
    extract_lets d t s0 s1 s2
    have h0 : s0.Canon := State.commitRest_canon hs
    have h1 : s1.Canon := canon_ite (State.feedUpTo_canon h0) h0
    have h2 : s2.Canon := State.commitAct_canon (State.wr_canon h1)
    clear_value s2
    exact canon_ite (State.enterHeld_canon (State.wr_canon (State.addCause_canon h1)))
      (canon_ite (State.launchHold_canon h1)
        (canon_ite h2 (canon_ite (State.enterStopped_canon h2) (canon_ite (State.cycleEnd_canon h2)
          (canon_ite (State.enterHeld_canon (State.wr_canon h2)) (ih (State.wr_canon h2)))))))

theorem execEndOfCycleCommit_canon {slot : Fin 32} {s : State} (hs : s.Canon) : Res.Canon
    (execEndOfCycleCommit slot s) := by
  unfold execEndOfCycleCommit
  with_reducible repeat' first
    | assumption | intro _ | apply State.live_canon | apply State.commitRun_canon | apply canon_next
    | apply canon_ite

theorem State.gateMeasure_canon {s : State} {k r : Nat} (hs : s.Canon) : State.Canon (s.gateMeasure k r) := by
  unfold State.gateMeasure
  with_reducible repeat' first | assumption | apply State.wr_canon | apply State.wf_canon | apply canon_ite

theorem State.cycleBegin_canon {s : State} {k : Nat} (hs : s.Canon) : State.Canon (s.cycleBegin k) := by
  unfold State.cycleBegin
  with_reducible repeat' first
    | assumption | apply State.wr_canon | apply State.pullsChanged_canon | apply State.drop_canon
    | apply State.beginStep_canon | apply State.gateMeasure_canon

theorem execCycleBegin_canon {slot : Fin 32} {others : BitVec 4} {s : State} (hs : s.Canon) : Res.Canon
    (execCycleBegin slot others s) := by
  unfold execCycleBegin
  with_reducible repeat' first
    | assumption | intro _ | apply State.live_canon | apply State.cycleBegin_canon | apply canon_next
    | apply canon_ite

theorem State.gateRound_canon {s : State} {k r : Nat} (hs : s.Canon) : State.Canon (s.gateRound k r) := by
  unfold State.gateRound
  with_reducible repeat' first
    | assumption | apply State.gateMeasure_canon | apply State.pullsChanged_canon | apply State.wr_canon
    | apply State.gateWait_canon

theorem execGateRound_canon {slot : Fin 32} {others : BitVec 4} {s : State} (hs : s.Canon) : Res.Canon
    (execGateRound slot others s) := by
  unfold execGateRound
  with_reducible repeat' first
    | assumption | intro _ | apply State.live_canon | apply State.gateRound_canon | apply canon_next
    | apply canon_ite

theorem clearFaultStatus_canon {s : State} {k : Nat} (hs : s.Canon) : State.Canon (clearFaultStatus s k) := by
  unfold clearFaultStatus
  with_reducible repeat' first | assumption | apply State.wr_canon

theorem State.doStart_canon {s : State} {k : Nat} (hs : s.Canon) : State.Canon (s.doStart k) := by
  unfold State.doStart
  with_reducible repeat' first
    | assumption | apply clearFaultStatus_canon | apply State.wr_canon | apply State.gateWait_canon
    | apply State.writeStartLines_canon | apply State.addCause_canon | apply State.enterHeld_canon | apply canon_ite

theorem State.startNow_canon {s : State} {k : Nat} (hs : s.Canon) : State.Canon (s.startNow k) := by
  unfold State.startNow
  with_reducible repeat' first | assumption | apply State.wr_canon | apply State.doStart_canon | apply canon_ite

theorem State.cmdResult_canon {s : State} {k r : Nat} (hs : s.Canon) : State.Canon (s.cmdResult k r) := by
  unfold State.cmdResult
  with_reducible repeat' first
    | assumption | apply State.wf_canon | apply State.deny_canon | apply State.okay_canon | apply canon_ite

theorem State.startCmd_canon {s : State} {who : Who} {k : Nat} (hs : s.Canon) : State.Canon (s.startCmd who k) := by
  unfold State.startCmd
  with_reducible repeat' first
    | assumption | apply State.cmdResult_canon | apply State.startNow_canon | apply canon_ite

theorem execStart_canon {who : Who} {slot : Fin 32} {s : State} (hs : s.Canon) : Res.Canon (execStart who slot s) :=
    by
  unfold execStart
  with_reducible repeat' first
    | assumption | intro _ | apply State.accessAs_canon | apply State.startCmd_canon | apply canon_next

theorem State.stopCmd_canon {s : State} {who : Who} {k : Nat} {imm : Bool} (hs : s.Canon) : State.Canon
    (s.stopCmd who k imm) := by
  unfold State.stopCmd
  with_reducible repeat' first | assumption | apply State.cmdResult_canon | apply State.act_canon | apply canon_ite

theorem execStop_canon {who : Who} {slot : Fin 32} {s : State} (hs : s.Canon) : Res.Canon (execStop who slot s) :=
    by
  unfold execStop
  with_reducible repeat' first
    | assumption | intro _ | apply State.access_canon | apply State.stopCmd_canon | apply canon_next

theorem execStopNow_canon {who : Who} {slot : Fin 32} {s : State} (hs : s.Canon) : Res.Canon
    (execStopNow who slot s) := by
  unfold execStopNow
  with_reducible repeat' first
    | assumption | intro _ | apply State.access_canon | apply State.stopCmd_canon | apply canon_next

theorem State.stopNoticeIn_canon {s : State} {port pid code : Nat} {imm : Bool} {dev cyc : Nat} (hs : s.Canon) :
    State.Canon (s.stopNoticeIn port pid code imm dev cyc) := by
  unfold State.stopNoticeIn
  repeat' first
    | with_reducible assumption
    | (extract_lets +onlyGivenNames x; refine canon_cut (P := State.Canon x) ?_ ?_ <;> first | (clear_value x; intro _) | subst x)
    | (extract_lets +onlyGivenNames x; clear_value x) | with_reducible apply State.sendTree_canon
    | with_reducible apply State.record_canon | with_reducible apply State.raise_canon
    | with_reducible apply State.firstFault_canon | with_reducible apply State.stopImmediate_canon
    | with_reducible apply State.enterStopped_canon | with_reducible apply State.addStop_canon | split

theorem execStopNotice_canon {port : Fin 16} {pid code : BitVec 8} {imm : Bool} {dev : BitVec 12} {cyc : BitVec 27}
    {s : State} (hs : s.Canon) : Res.Canon (execStopNotice port pid code imm dev cyc s) := by
  unfold execStopNotice
  with_reducible repeat' first
    | assumption | intro _ | apply State.live_canon | apply State.heard_canon | apply State.stopNoticeIn_canon
    | apply canon_next

theorem State.swhold_canon {s : State} {k v : Nat} (hs : s.Canon) : State.Canon (s.swhold k v) := by
  unfold State.swhold
  with_reducible repeat' first
    | assumption | apply State.holdNow_canon | apply State.softSettle_canon | apply State.wf_canon

theorem execSwholdWrite_canon {who : Who} {slot : Fin 32} {val : Word} {s : State} (hs : s.Canon) : Res.Canon
    (execSwholdWrite who slot val s) := by
  unfold execSwholdWrite
  with_reducible repeat' first
    | assumption | intro _ | apply State.access_canon | apply State.okay_canon | apply State.swhold_canon
    | apply State.deny_canon | apply canon_next | apply canon_ite

theorem State.timedOut_canon {s : State} {k : Nat} (hs : s.Canon) : State.Canon (s.timedOut k) := by
  unfold State.timedOut
  with_reducible repeat' first
    | assumption | apply State.pullsChanged_canon | apply State.wr_canon | apply State.addCause_canon

theorem State.holdTimeout_canon {s : State} {k : Nat} (hs : s.Canon) : State.Canon (s.holdTimeout k) := by
  unfold State.holdTimeout
  with_reducible repeat' first | assumption | apply State.timedOut_canon | apply State.fault_canon

theorem execHoldTimeout_canon {slot : Fin 32} {s : State} (hs : s.Canon) : Res.Canon (execHoldTimeout slot s) := by
  unfold execHoldTimeout
  with_reducible repeat' first
    | assumption | intro _ | apply State.live_canon | apply State.holdTimeout_canon | apply canon_next
    | apply canon_ite

theorem execGateTimeout_canon {slot : Fin 32} {s : State} (hs : s.Canon) : Res.Canon (execGateTimeout slot s) := by
  unfold execGateTimeout
  with_reducible repeat' first
    | assumption | intro _ | apply State.live_canon | apply State.timedOut_canon | apply State.fault_canon
    | apply canon_next | apply canon_ite

theorem execPlumbUp_canon {port : Fin 16} {pid : BitVec 8} {st : BitVec 4} {s : State} (hs : s.Canon) : Res.Canon
    (execPlumbUp port pid st s) := by
  unfold execPlumbUp
  with_reducible repeat' first
    | assumption | intro _ | apply State.live_canon | apply State.heard_canon | apply State.plumbSync_canon
    | apply State.wr_canon | apply canon_next | apply canon_ite

theorem execPlumbDown_canon {port : Fin 16} {pid : BitVec 8} {st : BitVec 4} {s : State} (hs : s.Canon) : Res.Canon
    (execPlumbDown port pid st s) := by
  unfold execPlumbDown
  with_reducible repeat' first
    | assumption | intro _ | apply State.live_canon | apply State.heard_canon | apply State.sendSym_canon
    | apply State.wr_canon | apply canon_next | apply canon_foldl | apply canon_ite

theorem State.freezeAt_canon {s : State} {k t : Nat} (hs : s.Canon) : State.Canon (s.freezeAt k t) := by
  unfold State.freezeAt
  with_reducible repeat' first | assumption | apply State.wr_canon | apply canon_ite

theorem State.severSlot_canon {s : State} {k lost reason port : Nat} {relayed : Bool} {detector : Nat}
    (hs : s.Canon) : State.Canon (s.severSlot k lost reason port relayed detector) := by
  unfold State.severSlot
  repeat' first
    | with_reducible assumption | with_reducible apply State.wr_canon | with_reducible apply State.record_canon
    | with_reducible apply State.raise_canon | with_reducible apply State.firstFault_canon
    | with_reducible apply State.flushRecs_canon | with_reducible apply State.pullsChanged_canon
    | with_reducible apply State.lnCancel_canon | with_reducible apply State.dropLate_canon
    | with_reducible apply State.freezeAt_canon | with_reducible apply canon_ite | simp only [canon_update]

theorem State.loseMember_canon {s : State} {k lost reason port : Nat} {except : Option Nat} (hs : s.Canon) :
    State.Canon (s.loseMember k lost reason port except) := by
  unfold State.loseMember
  with_reducible repeat' first | assumption | apply State.severSlot_canon | apply State.sendTree_canon

theorem execRollCallLoss_canon {slot : Fin 32} {pos : Fin 16} {s : State} (hs : s.Canon) : Res.Canon
    (execRollCallLoss slot pos s) := by
  unfold execRollCallLoss
  with_reducible repeat' first
    | assumption | intro _ | apply State.live_canon | apply State.loseMember_canon | apply State.wf_canon
    | apply canon_next | apply canon_ite

theorem execSever_canon {port : Fin 16} {pid : BitVec 8} {lost : BitVec 12} {reason : BitVec 2}
    {detector : BitVec 12} {s : State} (hs : s.Canon) : Res.Canon (execSever port pid lost reason detector s) := by
  unfold execSever
  repeat' first
    | with_reducible assumption | with_reducible intro _ | with_reducible apply State.live_canon
    | with_reducible apply State.heard_canon | with_reducible apply State.sendTree_canon
    | with_reducible apply State.severSlot_canon | with_reducible apply canon_next | split

theorem State.resetTasks_canon {s : State} {pid : Nat} (hs : s.Canon) : State.Canon (s.resetTasks pid) := by
  unfold State.resetTasks
  with_reducible repeat' first
    | assumption | intro _ | apply State.taskWait_canon | apply State.drop_canon | apply canon_foldl
    | apply canon_ite

theorem State.clearStores_canon {s : State} {k : Nat} (hs : s.Canon) : State.Canon (s.clearStores k) := by
  unfold State.clearStores
  repeat' first
    | with_reducible assumption | with_reducible intro _ | with_reducible apply State.drop_canon
    | with_reducible apply State.wrE_canon | with_reducible apply State.bumpEpochs_canon
    | with_reducible apply State.clearPorts_canon | with_reducible apply State.clearPresence_canon
    | with_reducible apply canon_foldl | with_reducible apply canon_ite | simp only [canon_update]

theorem State.clearFlight_canon {s : State} {k : Nat} (hs : s.Canon) : State.Canon (s.clearFlight k) := by
  unfold State.clearFlight
  repeat' first
    | with_reducible assumption | simp only [canon_update]

theorem State.clearSlot_canon {s : State} {k : Nat} (hs : s.Canon) : State.Canon (s.clearSlot k) := by
  unfold State.clearSlot
  with_reducible repeat' first
    | assumption | intro _ | apply State.wr_canon | apply State.drop_canon | apply canon_foldl

theorem State.resetPart_canon {s : State} {k : Nat} (hs : s.Canon) : State.Canon (s.resetPart k) := by
  unfold State.resetPart
  with_reducible repeat' first
    | assumption | intro _ | apply State.shCancel_canon | apply State.stopImmediate_canon
    | apply State.enterStopped_canon | apply State.resetTasks_canon | apply State.lnCancel_canon
    | apply State.clearFlight_canon | apply State.trigReset_canon | apply State.recOff_canon
    | apply State.clearSlot_canon | apply State.clearStores_canon | apply State.each_canon | apply State.wrE_canon
    | apply State.wr_canon | apply State.setPair_canon | apply State.wf_canon | apply clearFaultStatus_canon
    | apply State.pullsChanged_canon | apply State.softSettle_canon | apply canon_ite

theorem execPartReset_canon {who : Who} {slot : Fin 32} {s : State} (hs : s.Canon) : Res.Canon
    (execPartReset who slot s) := by
  unfold execPartReset
  with_reducible repeat' first
    | assumption | intro _ | apply State.accessAs_canon | apply State.okay_canon | apply State.resetPart_canon
    | apply State.deny_canon | apply canon_next | apply canon_ite

theorem State.debugWrite_canon {s : State} {v : Nat} (hs : s.Canon) : State.Canon (s.debugWrite v) := by
  unfold State.debugWrite
  with_reducible repeat' first | assumption | apply State.wf_canon | apply canon_ite

theorem State.debugCtrl_canon {s : State} {who : Who} {v : Nat} (hs : s.Canon) : State.Canon (s.debugCtrl who v) :=
    by
  unfold State.debugCtrl
  with_reducible repeat' first | assumption | apply State.okay_canon | apply State.debugWrite_canon | apply canon_ite

theorem execDebugCtrlWrite_canon {who : Who} {val : Word} {s : State} (hs : s.Canon) : Res.Canon
    (execDebugCtrlWrite who val s) := by
  unfold execDebugCtrlWrite
  with_reducible repeat' first
    | assumption | intro _ | apply State.access_canon | apply State.debugCtrl_canon | apply canon_next

/-! ### Load -/

theorem State.bootFail_canon {s : State} {r : Nat} (hs : s.Canon) : State.Canon (s.bootFail r) := by
  unfold State.bootFail
  with_reducible repeat' first | assumption | apply State.wf_canon | apply canon_ite

theorem State.putRec_canon {s : State} {k pid : Nat} {r : LoadRec} (hs : s.Canon) : State.Canon (s.putRec k pid r)
    := by
  unfold State.putRec
  repeat' first
    | with_reducible assumption | with_reducible intro _ | with_reducible apply State.wrE_canon
    | with_reducible apply State.wr_canon | with_reducible apply State.bayWr_canon
    | with_reducible apply State.putLaneCfg_canon | with_reducible apply canon_foldl | split

theorem State.recDomain_canon {s : State} {r : LoadRec} (hs : s.Canon) : State.Canon (s.recDomain r) := by
  unfold State.recDomain
  repeat' first
    | with_reducible assumption | with_reducible apply State.domUp_canon | with_reducible apply canon_ite | split
    | simp only [canon_update]

theorem State.placeImage_canon {s : State} {k pid : Nat} {b : List Byte} {recs : List LoadRec} (hs : s.Canon) :
    State.Canon (s.placeImage k pid b recs) := by
  unfold State.placeImage
  repeat' first
    | with_reducible apply State.recDomain_canon
    | with_reducible assumption | with_reducible intro _ | with_reducible apply State.wr_canon
    | with_reducible apply State.domUp_canon | with_reducible apply State.drop_canon
    | with_reducible apply State.putRec_canon | with_reducible apply canon_foldl | simp only [canon_update]

theorem State.resetBlock_canon {s : State} {k : Nat} (hs : s.Canon) : State.Canon (s.resetBlock k) := by
  unfold State.resetBlock
  with_reducible repeat' first | assumption | intro _ | apply State.drop_canon | apply canon_foldl

theorem State.install_canon {s : State} {k pid : Nat} {b : List Byte} {recs : List LoadRec} {auto stream : Bool}
    (hs : s.Canon) : State.Canon (s.install k pid b recs auto stream) := by
  unfold State.install
  with_reducible repeat' first
    | assumption | intro _ | apply State.epochShort_canon | apply State.shCancel_canon
    | apply State.placeImage_canon | apply State.resetTasks_canon | apply State.lnCancel_canon
    | apply State.clearFlight_canon | apply State.trigReset_canon | apply State.recOff_canon
    | apply State.clearSlot_canon | apply State.clearStores_canon | apply State.drop_canon
    | apply State.resetBlock_canon | apply State.wr_canon | apply State.each_canon | apply State.wrE_canon
    | apply State.wf_canon | apply State.pullsChanged_canon | apply State.epochOpen_canon

theorem State.loadImage_canon {s : State} {b : List Byte} {pid : Nat} {auto stream : Bool} (hs : s.Canon) :
    State.Canon (s.loadImage b pid auto stream).2 := by
  unfold State.loadImage
  repeat' first
    | with_reducible assumption | (extract_lets +onlyGivenNames x; clear_value x)
    | with_reducible apply State.wf_canon | with_reducible apply State.install_canon | split

theorem State.loadSection_canon {s : State} {sec : Section} {stream : Bool} (hs : s.Canon) : State.Canon
    (s.loadSection sec stream).2 := by
  unfold State.loadSection
  repeat' first
    | with_reducible assumption
    | (extract_lets +onlyGivenNames x; refine canon_cut (P := State.Canon x.2) ?_ ?_ <;> first | (clear_value x; intro _) | subst x)
    | (extract_lets +onlyGivenNames x; clear_value x) | with_reducible apply State.loadImage_canon | split

theorem State.freeSlot_canon {s : State} {k : Nat} (hs : s.Canon) : State.Canon (s.freeSlot k) := by
  unfold State.freeSlot
  repeat' first
    | with_reducible assumption | with_reducible intro _ | with_reducible apply State.lnCancel_canon
    | with_reducible apply State.epochShort_canon | with_reducible apply State.shCancel_canon
    | with_reducible apply State.clearFlight_canon | with_reducible apply State.trigReset_canon
    | with_reducible apply State.recOff_canon | with_reducible apply State.wr_canon
    | with_reducible apply State.clearSlot_canon | with_reducible apply State.drop_canon
    | with_reducible apply State.pullsChanged_canon | with_reducible apply canon_foldl | simp only [canon_update]

/-! ### Newt -/

theorem State.toPhase_canon {s : State} {d p : Nat} (hs : s.Canon) : State.Canon (s.toPhase d p) := by
  unfold State.toPhase
  with_reducible repeat' first | assumption | apply State.wf_canon

theorem State.mapSpare_canon {s : State} {d : Nat} {j : Judged} (hs : s.Canon) : State.Canon (s.mapSpare d j) := by
  unfold State.mapSpare
  repeat' first
    | with_reducible assumption | with_reducible apply canon_ite | simp only [canon_update]

theorem State.countRepairs_canon {s : State} {d : Nat} (hs : s.Canon) : State.Canon (s.countRepairs d) := by
  unfold State.countRepairs
  with_reducible repeat' first | assumption | apply State.wf_canon

theorem State.newtRecord_canon {s : State} {d verdict repair spare : Nat} {z1 : NewtCell} (hs : s.Canon) :
    State.Canon (s.newtRecord d verdict repair spare z1) := by
  unfold State.newtRecord
  with_reducible repeat' first | assumption | apply State.pushRecord_canon

theorem State.newtRepair_canon {s : State} {d verdict : Nat} {js : List Judged} (hs : s.Canon) : State.Canon
    (s.newtRepair d verdict js) := by
  unfold State.newtRepair
  with_reducible repeat' first
    | assumption | intro _ | apply State.mapSpare_canon | apply State.newtRecord_canon | apply canon_foldl

theorem State.newtPin_canon {s : State} {d : Nat} {z1 : NewtCell} (hs : s.Canon) : State.Canon (s.newtPin d z1) :=
    by
  unfold State.newtPin
  with_reducible repeat' first
    | assumption | apply State.newtRecord_canon | apply State.raise_canon | apply State.wf_canon
    | apply State.toPhase_canon

theorem State.newtUsed_canon {s : State} {d verdict : Nat} {js : List Judged} (hs : s.Canon) : State.Canon
    (s.newtUsed d verdict js) := by
  unfold State.newtUsed
  repeat' first
    | with_reducible assumption | simp only [canon_update]

theorem State.newtJudge_canon {s : State} {d : Nat} {fails : List NewtCell} (hs : s.Canon) : State.Canon
    (s.newtJudge d fails) := by
  unfold State.newtJudge
  repeat' first
    | with_reducible assumption | with_reducible apply State.newtPin_canon
    | with_reducible apply State.toPhase_canon | with_reducible apply State.newtRepair_canon
    | with_reducible apply State.newtUsed_canon | split | simp only

theorem execNewtMarchEnd_canon {die : Fin 8} {fails : List MarchFail} {s : State} (hs : s.Canon) : Res.Canon
    (execNewtMarchEnd die fails s) := by
  unfold execNewtMarchEnd
  with_reducible repeat' first
    | assumption | intro _ | apply State.live_canon | apply State.newtJudge_canon | apply canon_next
    | apply canon_ite

theorem State.newtBegin_canon {s : State} {d i : Nat} (hs : s.Canon) : State.Canon (s.newtBegin d i) := by
  unfold State.newtBegin
  with_reducible repeat' first | assumption | apply State.wf_canon | apply State.toPhase_canon

theorem State.repairsActive_canon {s : State} {d : Nat} {column : Bool} (hs : s.Canon) : State.Canon
    (s.repairsActive d column) := by
  unfold State.repairsActive
  repeat' first
    | with_reducible assumption | with_reducible apply State.countRepairs_canon | simp only [canon_update]

theorem State.newtRepaired_canon {s : State} {d : Nat} (hs : s.Canon) : State.Canon (s.newtRepaired d) := by
  unfold State.newtRepaired
  with_reducible repeat' first
    | assumption | apply State.toPhase_canon | apply State.repairsActive_canon | apply canon_ite

theorem State.newtStart_canon {s : State} {d : Nat} (hs : s.Canon) : State.Canon (s.newtStart d) := by
  unfold State.newtStart
  repeat' first
    | with_reducible assumption
    | (extract_lets +onlyGivenNames x; refine canon_cut (P := State.Canon x) ?_ ?_ <;> first | (clear_value x; intro _) | subst x)
    | (extract_lets +onlyGivenNames x; clear_value x) | with_reducible apply State.newtBegin_canon
    | with_reducible apply State.wr_canon | split

theorem execNewtRegionStart_canon {die : Fin 8} {s : State} (hs : s.Canon) : Res.Canon (execNewtRegionStart die s)
    := by
  unfold execNewtRegionStart
  with_reducible repeat' first
    | assumption | intro _ | apply State.live_canon | apply State.newtStart_canon | apply canon_next

theorem State.newtSaved_canon {s : State} {d : Nat} (hs : s.Canon) : State.Canon (s.newtSaved d) := by
  unfold State.newtSaved
  with_reducible repeat' first
    | assumption | intro _ | apply State.each_canon | apply State.wr_canon | apply State.toPhase_canon
    | apply canon_ite

theorem execNewtSaveEnd_canon {die : Fin 8} {s : State} (hs : s.Canon) : Res.Canon (execNewtSaveEnd die s) := by
  unfold execNewtSaveEnd
  with_reducible repeat' first
    | assumption | intro _ | apply State.live_canon | apply State.newtSaved_canon | apply canon_next
    | apply canon_ite

theorem State.newtFilled_canon {s : State} {d : Nat} (hs : s.Canon) : State.Canon (s.newtFilled d) := by
  unfold State.newtFilled
  exact State.toPhase_canon (State.repairsActive_canon (canon_arrFilter rfl rfl hs))

theorem execNewtFillEnd_canon {die : Fin 8} {s : State} (hs : s.Canon) : Res.Canon (execNewtFillEnd die s) := by
  unfold execNewtFillEnd
  with_reducible repeat' first
    | assumption | intro _ | apply State.live_canon | apply State.newtRepaired_canon | apply State.newtFilled_canon
    | apply canon_next | apply canon_ite

theorem State.newtCopyBack_canon {s : State} {d : Nat} (hs : s.Canon) : State.Canon (s.newtCopyBack d) := by
  unfold State.newtCopyBack
  with_reducible repeat' first
    | assumption | intro _ | apply State.each_canon | apply State.wr_canon | apply State.newtScrub_canon
    | apply canon_ite

theorem State.newtSettle_canon {s : State} {d : Nat} (hs : s.Canon) : State.Canon (s.newtSettle d) := by
  unfold State.newtSettle
  with_reducible repeat' first | assumption | apply State.newtCopyBack_canon | apply canon_ite

theorem State.newtTested_canon {s : State} {d : Nat} (hs : s.Canon) : State.Canon (s.newtTested d) := by
  unfold State.newtTested
  repeat' first
    | with_reducible assumption | with_reducible apply canon_ite | simp only [canon_update]

theorem State.waitedStarts_canon {s : State} (hs : s.Canon) : State.Canon (s.waitedStarts) := by
  unfold State.waitedStarts
  with_reducible repeat' first
    | assumption | intro _ | apply State.each_canon | apply State.doStart_canon | apply State.wr_canon
    | apply canon_ite

theorem State.newtDone_canon {s : State} {d : Nat} (hs : s.Canon) : State.Canon (s.newtDone d) := by
  unfold State.newtDone
  with_reducible repeat' first
    | assumption | apply State.waitedStarts_canon | apply State.wr_canon | apply State.toPhase_canon

theorem execNewtRestoreEnd_canon {die : Fin 8} {s : State} (hs : s.Canon) : Res.Canon (execNewtRestoreEnd die s) :=
    by
  unfold execNewtRestoreEnd
  with_reducible repeat' first
    | assumption | intro _ | apply State.live_canon | apply State.newtRepaired_canon | apply State.newtDone_canon
    | apply State.newtTested_canon | apply State.newtCopyBack_canon | apply canon_next | apply canon_ite

theorem State.newtRequest_canon {s : State} {who : Who} {d v : Nat} (hs : s.Canon) : State.Canon
    (s.newtRequest who d v) := by
  unfold State.newtRequest
  with_reducible repeat' first
    | assumption | apply State.deny_canon | apply State.wf_canon | apply State.okay_canon | apply State.wr_canon
    | apply canon_ite

theorem execNewtReq_canon {who : Who} {die : Fin 8} {val : Word} {s : State} (hs : s.Canon) : Res.Canon
    (execNewtReq who die val s) := by
  unfold execNewtReq
  with_reducible repeat' first
    | assumption | intro _ | apply State.access_canon | apply State.newtRequest_canon | apply canon_next

theorem State.newtUnpin_canon {s : State} {d : Nat} (hs : s.Canon) : State.Canon (s.newtUnpin d) := by
  unfold State.newtUnpin
  with_reducible repeat' first
    | assumption | apply State.newtDone_canon | apply State.wf_canon | apply State.newtCopyBack_canon
    | apply canon_ite

theorem execUnpin_canon {who : Who} {die : Fin 8} {s : State} (hs : s.Canon) : Res.Canon (execUnpin who die s) := by
  unfold execUnpin
  with_reducible repeat' first
    | assumption | intro _ | apply State.access_canon | apply State.okay_canon | apply State.newtUnpin_canon
    | apply State.deny_canon | apply canon_next | apply canon_ite

/-! ### Events -/

theorem State.txDeny_canon {s : State} {k : Nat} (hs : s.Canon) : State.Canon (s.txDeny k) := by
  unfold State.txDeny
  with_reducible repeat' first
    | assumption | apply State.shResult_canon | apply State.okay_canon | apply State.deny_canon | apply canon_ite

theorem State.txWrite_canon {s : State} {who : Who} {k : Nat} {f : State → Nat × State} (hs : s.Canon)
    (hf : ∀ y0 : State, y0.Canon → State.Canon (f y0).2) : State.Canon (s.txWrite who k f) := by
  unfold State.txWrite
  with_reducible repeat' first
    | assumption | apply hf | apply State.txDeny_canon | apply State.okay_canon | apply State.shResult_canon
    | apply canon_ite

theorem execCfgtxBegin_canon {who : Who} {device : Bool} {slot : Fin 32} {s : State} (hs : s.Canon) : Res.Canon
    (execCfgtxBegin who device slot s) := by
  unfold execCfgtxBegin
  with_reducible repeat' first
    | assumption | intro _ | apply State.access_canon | apply State.txWrite_canon | apply State.shBegin_canon
    | apply canon_next

theorem execCfgtxCommit_canon {who : Who} {device : Bool} {slot : Fin 32} {s : State} (hs : s.Canon) : Res.Canon
    (execCfgtxCommit who device slot s) := by
  unfold execCfgtxCommit
  with_reducible repeat' first
    | assumption | intro _ | apply State.access_canon | apply State.txWrite_canon | apply State.shDoCommit_canon
    | apply canon_next

theorem execCfgtxAbort_canon {who : Who} {device : Bool} {slot : Fin 32} {s : State} (hs : s.Canon) : Res.Canon
    (execCfgtxAbort who device slot s) := by
  unfold execCfgtxAbort
  with_reducible repeat' first
    | assumption | intro _ | apply State.access_canon | apply State.txWrite_canon | apply State.shAbort_canon
    | apply canon_next

theorem State.cfgtxWrite_canon {s : State} {who : Who} {k v : Nat} (hs : s.Canon) : State.Canon
    (s.cfgtxWrite who k v) := by
  unfold State.cfgtxWrite
  extract_lets one r1 r2 r3
  have h : ∀ on a (f : State → Nat × State), State.Canon a.2 → (∀ s : State, s.Canon → State.Canon (f s).2) →
      (one on a f).2.Canon := by
    intro on a f ha hf
    simp only [one]
    split
    · exact ha
    · exact hf _ ha
  clear_value one
  have h1 : r1.2.Canon := h _ _ _ hs fun s h => State.shBegin_canon h
  clear_value r1
  have h2 : r2.2.Canon := h _ _ _ h1 fun s h => State.shDoCommit_canon h
  clear_value r2
  have h3 : r3.2.Canon := h _ _ _ h2 fun s h => State.shAbort_canon h
  clear_value r3
  exact canon_ite (State.txDeny_canon hs) (State.okay_canon (canon_ite hs (State.shResult_canon h3)))

theorem State.rwtPut_canon {s : State} {k off sel v : Nat} (hs : s.Canon) : State.Canon (s.rwtPut k off sel v) := by
  unfold State.rwtPut
  repeat' first
    | with_reducible assumption | with_reducible apply State.shHold_canon
    | with_reducible apply State.shResult_canon | with_reducible apply State.shApply_canon | split

theorem State.routeWrite_canon {s : State} {who : Who} {off v : Nat} (hs : s.Canon) : State.Canon
    (s.routeWrite who off v) := by
  unfold State.routeWrite
  with_reducible repeat' first
    | assumption | apply State.wf_canon | apply State.okay_canon | apply State.rwtPut_canon | apply canon_ite

theorem State.infoWrite_canon {s : State} {who : Who} {v : Nat} (hs : s.Canon) : State.Canon (s.infoWrite who v) :=
    by
  unfold State.infoWrite
  with_reducible repeat' first
    | assumption | apply State.wf_canon | apply State.okay_canon | apply State.wr_canon | apply canon_ite

theorem State.esReloadWrite_canon {s : State} {k v : Nat} (hs : s.Canon) : State.Canon (s.esReloadWrite k v) := by
  unfold State.esReloadWrite
  with_reducible repeat' first | assumption | apply State.shResult_canon | apply State.rwtPut_canon | apply canon_ite

theorem State.rwtPart_canon {s : State} {who : Who} {k off v : Nat} (hs : s.Canon) : State.Canon
    (s.rwtPart who k off v) := by
  unfold State.rwtPart
  with_reducible repeat' first
    | assumption | apply State.deny_canon | apply State.okay_canon | apply State.esReloadWrite_canon
    | apply State.rwtPut_canon | apply canon_ite

theorem State.rwtWrite_canon {s : State} {who : Who} {off v : Nat} (hs : s.Canon) : State.Canon
    (s.rwtWrite who off v) := by
  unfold State.rwtWrite
  with_reducible repeat' first
    | assumption | apply State.routeWrite_canon | apply State.rwtPart_canon | apply State.okay_canon
    | apply canon_ite

theorem execRwtWrite_canon {who : Who} {off : Nat} {val : Word} {s : State} (hs : s.Canon) : Res.Canon
    (execRwtWrite who off val s) := by
  unfold execRwtWrite
  with_reducible repeat' first
    | assumption | intro _ | apply State.access_canon | apply State.rwtWrite_canon | apply canon_next

theorem execEvtRouteWrite_canon {who : Who} {off : Nat} {val : Word} {s : State} (hs : s.Canon) : Res.Canon
    (execEvtRouteWrite who off val s) := by
  unfold execEvtRouteWrite
  with_reducible repeat' first
    | assumption | intro _ | apply State.access_canon | apply State.infoWrite_canon | apply State.routeWrite_canon
    | apply State.okay_canon | apply canon_next | apply canon_ite

theorem State.stageWrite_canon {s : State} {who : Who} {k hi : Nat} (hs : s.Canon) : State.Canon
    (s.stageWrite who k hi) := by
  unfold State.stageWrite
  with_reducible repeat' first
    | assumption | apply State.deny_canon | apply State.okay_canon | apply State.shResult_canon
    | apply State.takeLo_canon | apply State.wr_canon | apply State.wf_canon | apply canon_ite

theorem execEseqStagingWrite_canon {who : Who} {slot : Fin 32} {hi : Word} {s : State} (hs : s.Canon) : Res.Canon
    (execEseqStagingWrite who slot hi s) := by
  unfold execEseqStagingWrite
  with_reducible repeat' first
    | assumption | intro _ | apply State.access_canon | apply State.stageWrite_canon | apply canon_next

theorem State.evtSw_canon {s : State} {who : Who} {v : Nat} (hs : s.Canon) : State.Canon (s.evtSw who v) := by
  unfold State.evtSw
  with_reducible repeat' first
    | assumption | apply State.okay_canon | apply State.raise_canon | apply State.deny_canon | apply canon_ite

theorem execEvtSw_canon {who : Who} {val : Word} {s : State} (hs : s.Canon) : Res.Canon (execEvtSw who val s) := by
  unfold execEvtSw
  with_reducible repeat' first
    | assumption | intro _ | apply State.access_canon | apply State.evtSw_canon | apply canon_next

theorem State.sendVec_canon {s : State} {f v : Nat} (hs : s.Canon) : State.Canon (s.sendVec f v) := by
  unfold State.sendVec
  repeat' first
    | with_reducible assumption | simp only [canon_update]

theorem State.vecMessage_canon {s : State} {f v : Nat} (hs : s.Canon) : State.Canon (s.vecMessage f v) := by
  unfold State.vecMessage
  with_reducible repeat' first | assumption | apply State.wr_canon | apply State.sendVec_canon | apply canon_ite

theorem execVectorMessage_canon {func : Fin 34} {vector : Fin 1024} {s : State} (hs : s.Canon) : Res.Canon
    (execVectorMessage func vector s) := by
  unfold execVectorMessage
  with_reducible repeat' first
    | assumption | intro _ | apply State.live_canon | apply State.vecMessage_canon | apply canon_next

theorem State.vecUnmask_canon {s : State} {f v : Nat} (hs : s.Canon) : State.Canon (s.vecUnmask f v) := by
  unfold State.vecUnmask
  with_reducible repeat' first | assumption | apply State.wr_canon | apply State.sendVec_canon | apply canon_ite

theorem execVectorUnmask_canon {func : Fin 34} {vector : Fin 1024} {s : State} (hs : s.Canon) : Res.Canon
    (execVectorUnmask func vector s) := by
  unfold execVectorUnmask
  with_reducible repeat' first
    | assumption | intro _ | apply State.live_canon | apply State.vecUnmask_canon | apply canon_next

theorem State.flushVectors_canon {s : State} (hs : s.Canon) : State.Canon (s.flushVectors) := by
  unfold State.flushVectors
  with_reducible repeat' first | assumption | intro _ | apply State.vecMessage_canon | apply canon_foldl

end Sys2Proof.Machine
end

