-- ==== Sys2Proof/Laws/CanonBoot.lean ====
section
/-! SUPPORT. Every operation keeps the canonical form of the stores (`State.Canon`): boot, links, enumeration, launches, queues and peripherals. -/

namespace Sys2Proof.Machine

open Reg

/-! ### Boot -/

theorem State.writeRecord_canon {s : State} {r : BootRec} (hs : s.Canon) : State.Canon (s.writeRecord r) := by
  unfold State.writeRecord
  with_reducible repeat' first | assumption | apply State.wr_canon

theorem State.chooseSlot_canon {s : State} {z1 : Nat} (hs : s.Canon) : State.Canon (s.chooseSlot z1).2.2.2 := by
  unfold State.chooseSlot
  repeat' first
    | with_reducible assumption | (extract_lets +onlyGivenNames x; clear_value x)
    | with_reducible apply State.writeRecord_canon | split

theorem State.wipeStaging_canon {s : State} (hs : s.Canon) : State.Canon (s.wipeStaging) := by
  unfold State.wipeStaging
  with_reducible repeat' first | assumption | apply State.drop_canon

theorem State.stageContainer_canon {s : State} {b : List Byte} (hs : s.Canon) : State.Canon (s.stageContainer b) :=
    by
  unfold State.stageContainer
  with_reducible repeat' first
    | assumption | intro _ | apply State.wr_canon | apply State.wipeStaging_canon | apply canon_foldl

theorem State.checkStaged_canon {s : State} {b : List Byte} (hs : s.Canon) : State.Canon (s.checkStaged b).2 := by
  unfold State.checkStaged
  with_reducible repeat' first | assumption | apply State.wipeStaging_canon | apply canon_ite

theorem State.setStage_canon {s : State} {n : Nat} (hs : s.Canon) : State.Canon (s.setStage n) := by
  unfold State.setStage
  with_reducible repeat' first | assumption | apply State.wf_canon

theorem State.advanceSvn_canon {s : State} {typ svn : Nat} (hs : s.Canon) : State.Canon (s.advanceSvn typ svn) := by
  unfold State.advanceSvn
  with_reducible repeat' first | assumption | apply State.wr_canon

theorem State.deriveSeal_canon {s : State} (hs : s.Canon) : State.Canon (s.deriveSeal) := by
  unfold State.deriveSeal
  with_reducible repeat' first | assumption | apply State.wr_canon

theorem State.firmware_canon {s : State} (hs : s.Canon) : State.Canon (s.firmware) := by
  unfold State.firmware
  with_reducible repeat' first
    | apply State.drop_canon
    | assumption | intro _ | apply State.each_canon | apply State.wf_canon | apply State.setStage_canon
    | apply State.wr_canon

theorem State.putFirmware_canon {s : State} {fw : List Byte} (hs : s.Canon) : State.Canon (s.putFirmware fw) := by
  unfold State.putFirmware
  with_reducible repeat' first
    | assumption | intro _ | apply State.wr_canon | apply State.drop_canon | apply canon_foldl

theorem State.runBoot_canon {s : State} {b : List Byte} (hs : s.Canon) : State.Canon (s.runBoot b) := by
  unfold State.runBoot
  repeat' first
    | with_reducible assumption | with_reducible intro _
    | (extract_lets +onlyGivenNames x; refine canon_cut (P := State.Canon x) ?_ ?_ <;> first | (clear_value x; intro _) | subst x)
    | (extract_lets +onlyGivenNames x; clear_value x) | with_reducible apply State.wr_canon
    | with_reducible apply State.wf_canon | with_reducible apply State.setStage_canon
    | with_reducible apply State.firmware_canon | with_reducible apply State.putFirmware_canon
    | with_reducible apply canon_foldl | split

theorem State.wipeKeyRam_canon {s : State} (hs : s.Canon) : State.Canon (s.wipeKeyRam) := by
  unfold State.wipeKeyRam
  with_reducible repeat' first | assumption | apply State.wr_canon

theorem State.wipeVault_canon {s : State} (hs : s.Canon) : State.Canon (s.wipeVault) := by
  unfold State.wipeVault
  repeat' first
    | with_reducible assumption | with_reducible apply State.wr_canon | simp only [canon_update]

theorem State.completeLc_canon {s : State} (hs : s.Canon) : State.Canon (s.completeLc) := by
  unfold State.completeLc
  with_reducible repeat' first
    | assumption | intro _ | apply State.wf_canon | apply State.wr_canon | apply State.wipeVault_canon
    | apply State.wipeKeyRam_canon | apply canon_foldl | apply canon_ite

theorem State.bootFrom_canon {s : State} {slot : Nat} {b : List Byte} (hs : s.Canon) : State.Canon
    (s.bootFrom slot b) := by
  unfold State.bootFrom
  with_reducible repeat' first | assumption | apply State.runBoot_canon | apply State.wf_canon

theorem State.enterRecovery_canon {s : State} (hs : s.Canon) : State.Canon (s.enterRecovery) := by
  unfold State.enterRecovery
  with_reducible repeat' first | assumption | apply State.setStage_canon

theorem State.bootVerify_canon {s : State} (hs : s.Canon) : State.Canon (s.bootVerify) := by
  unfold State.bootVerify
  with_reducible repeat' first
    | assumption | apply State.enterRecovery_canon | apply State.bootFail_canon | apply State.setStage_canon
    | apply State.chooseSlot_canon | apply State.wf_canon | apply State.checkStaged_canon
    | apply State.stageContainer_canon | apply State.bootFrom_canon | apply State.advanceSvn_canon | apply canon_ite

theorem State.bootRom_canon {s : State} (hs : s.Canon) : State.Canon (s.bootRom) := by
  unfold State.bootRom
  with_reducible repeat' first
    | assumption | apply State.completeLc_canon | apply State.setStage_canon | apply State.deriveSeal_canon
    | apply State.wf_canon | apply State.wr_canon | apply State.enterRecovery_canon | apply State.bootVerify_canon
    | apply canon_ite

theorem State.clearTo_canon {s : State} {keep : Nat → Nat → Bool} (hs : s.Canon) : State.Canon (s.clearTo keep) :=
    by
  unfold State.clearTo
  refine State.each_canon ?_ fun t h b => State.wf_canon (State.wf_canon h)
  exact ⟨Sparse.wf_filter dflt s.arr _ hs.1, rfl⟩

theorem State.strap_canon {s : State} (hs : s.Canon) : State.Canon (s.strap) := by
  unfold State.strap
  with_reducible repeat' first | assumption | apply State.wf_canon

theorem State.powerOn_canon {s : State} (hs : s.Canon) : State.Canon (s.powerOn) := by
  unfold State.powerOn
  repeat' first
    | with_reducible apply State.gpResume_canon
    | with_reducible assumption | with_reducible apply State.clearTo_canon | with_reducible apply State.wf_canon
    | with_reducible apply State.wr_canon | with_reducible apply State.bootRom_canon
    | with_reducible apply State.strap_canon | with_reducible apply canon_ite | simp only [canon_update]

theorem execPowerOnReset_canon {s : State} (hs : s.Canon) : Res.Canon (execPowerOnReset s) := by
  unfold execPowerOnReset
  with_reducible repeat' first | assumption | apply State.powerOn_canon | apply canon_next

theorem State.closeAllShort_canon {s : State} (hs : s.Canon) : State.Canon (s.closeAllShort) := by
  unfold State.closeAllShort
  with_reducible repeat' first
    | assumption | intro _ | apply State.each_canon | apply State.sealClosed_canon | apply State.epochShort_canon

theorem State.resetDev_canon {s : State} (hs : s.Canon) : State.Canon (s.resetDev) := by
  unfold State.resetDev
  repeat' first
    | with_reducible apply State.gpResume_canon
    | with_reducible assumption | with_reducible apply State.closeAllShort_canon
    | with_reducible apply State.clearTo_canon | with_reducible apply State.wf_canon
    | with_reducible apply State.bootRom_canon | with_reducible apply State.strap_canon | simp only [canon_update]

theorem execResetN_canon {s : State} (hs : s.Canon) : Res.Canon (execResetN s) := by
  unfold execResetN
  with_reducible repeat' first
    | assumption | intro _ | apply State.aon_canon | apply State.resetDev_canon | apply canon_next

theorem State.fuseRepairs_canon {s : State} (hs : s.Canon) : State.Canon (s.fuseRepairs) := by
  unfold State.fuseRepairs
  repeat' first
    | with_reducible assumption | with_reducible intro _ | with_reducible apply State.free_canon
    | with_reducible apply State.each_canon | with_reducible apply State.countRepairs_canon
    | with_reducible apply canon_ite | simp only [canon_update]

theorem State.warm_canon {s : State} (hs : s.Canon) : State.Canon (s.warm) := by
  unfold State.warm
  extract_lets s1 src t t1 t2
  have h1 : s1.Canon := State.each_canon (State.closeAllShort_canon hs) fun _ h _ => State.newtSettle_canon h
  clear_value s1
  have h2 : src.Canon := State.clearTo_canon h1
  clear_value src
  have ht : t.Canon := ⟨h2.1, h1.2⟩
  clear_value t
  have h3 : t1.Canon := State.wf_canon (State.wf_canon (State.wf_canon ht))
  clear_value t1
  have h4 : t2.Canon := State.strap_canon (State.wf_canon h3)
  exact canon_ite (State.each_canon h4 fun _ h _ => State.countRepairs_canon h) (State.fuseRepairs_canon (State.firmware_canon h4))

theorem State.warmAsk_canon {s : State} {who : Who} (hs : s.Canon) : State.Canon (s.warmAsk who) := by
  unfold State.warmAsk
  with_reducible repeat' first
    | assumption | apply State.deny_canon | apply State.okay_canon | apply State.wr_canon | apply State.warm_canon
    | apply canon_ite

theorem execWarmReset_canon {who : Who} {s : State} (hs : s.Canon) : Res.Canon (execWarmReset who s) := by
  unfold execWarmReset
  with_reducible repeat' first
    | assumption | intro _ | apply State.access_canon | apply State.warmAsk_canon | apply canon_next

theorem State.goOff_canon {s : State} (hs : s.Canon) : State.Canon (s.goOff) := by
  unfold State.goOff
  repeat' first
    | with_reducible apply State.drop_canon
    | with_reducible assumption | with_reducible apply State.wipeKeyRam_canon | with_reducible apply State.wr_canon
    | with_reducible apply canon_ite | simp only [canon_update]

theorem execOff_canon {s : State} (hs : s.Canon) : Res.Canon (execOff s) := by
  unfold execOff
  with_reducible repeat' first | assumption | apply State.goOff_canon | apply canon_next

theorem execVbatLoss_canon {s : State} (hs : s.Canon) : Res.Canon (execVbatLoss s) := by
  unfold execVbatLoss
  with_reducible repeat' first
    | assumption | apply State.wr_canon | apply State.wipeKeyRam_canon | apply canon_next | apply canon_ite

theorem State.streamOn_canon {s : State} {b : List Byte} {want : Nat} (hs : s.Canon) : State.Canon
    (s.streamOn b want) := by
  unfold State.streamOn
  repeat' first
    | with_reducible assumption | with_reducible apply State.wr_canon | simp only [canon_update]

theorem State.streamSection_canon {s : State} {sec : Section} (hs : s.Canon) : State.Canon (s.streamSection sec) :=
    by
  unfold State.streamSection
  repeat' first
    | with_reducible assumption | with_reducible apply State.wr_canon
    | with_reducible apply State.loadSection_canon | with_reducible apply State.sat_canon
    | with_reducible apply State.bootFail_canon | split | simp only [canon_update]

theorem execPartitionSection_canon {sec : Section} {s : State} (hs : s.Canon) : Res.Canon
    (execPartitionSection sec s) := by
  unfold execPartitionSection
  with_reducible repeat' first
    | assumption | intro _ | apply State.live_canon | apply State.streamSection_canon | apply canon_next

theorem State.endMark_canon {s : State} (hs : s.Canon) : State.Canon (s.endMark) := by
  unfold State.endMark
  repeat' first
    | with_reducible assumption | with_reducible apply State.wr_canon | with_reducible apply State.setStage_canon
    | with_reducible apply State.wf_canon | with_reducible apply canon_ite | simp only [canon_update]

theorem execEndMark_canon {s : State} (hs : s.Canon) : Res.Canon (execEndMark s) := by
  unfold execEndMark
  with_reducible repeat' first
    | assumption | intro _ | apply State.live_canon | apply State.endMark_canon | apply canon_next

theorem State.streamWhole_canon {s : State} {b : List Byte} (hs : s.Canon) : State.Canon (s.streamWhole b) := by
  unfold State.streamWhole
  with_reducible repeat' first
    | assumption | apply State.endMark_canon | apply State.streamSection_canon | apply State.streamOn_canon
    | apply canon_foldl

theorem State.noteImage_canon {s : State} {b : List Byte} (hs : s.Canon) : State.Canon (s.noteImage b) := by
  unfold State.noteImage
  with_reducible repeat' first | assumption | apply State.wr_canon | apply State.wf_canon

theorem State.imgSlot_canon {s : State} (hs : s.Canon) : State.Canon (s.imgSlot).2 := by
  unfold State.imgSlot
  repeat' first
    | with_reducible assumption
    | (extract_lets +onlyGivenNames x; refine canon_cut (P := State.Canon x.2.2.2) ?_ ?_ <;> first | (clear_value x; intro _) | subst x)
    | (extract_lets +onlyGivenNames x; clear_value x) | with_reducible apply State.chooseSlot_canon
    | with_reducible apply State.wr_canon | with_reducible apply State.wf_canon
    | with_reducible apply State.orf_canon | split

theorem State.keystoneStream_canon {s : State} (hs : s.Canon) : State.Canon (s.keystoneStream) := by
  unfold State.keystoneStream
  refine canon_ite (State.streamWhole_canon (State.bootFail_canon hs)) ?_
  split
  rename_i slot s1 h
  have h1 : s1.Canon := canon_snd h (State.imgSlot_canon hs)
  extract_lets go b r s2 b2
  have hg : ∀ s k b, State.Canon s → (go s k b).Canon := fun s k b h =>
    State.streamWhole_canon (State.noteImage_canon (State.wf_canon h))
  have h2 : s2.Canon := State.wf_canon (State.bootFail_canon h1)
  exact canon_ite (hg _ _ _ (canon_ite (State.advanceSvn_canon h1) h1))
    (canon_ite (hg _ _ _ h2) (State.streamWhole_canon h2))

theorem State.imageStream_canon {s : State} {b : List Byte} (hs : s.Canon) : State.Canon (s.imageStream b) := by
  unfold State.imageStream
  with_reducible repeat' first
    | assumption | apply State.setStage_canon | apply State.keystoneStream_canon | apply State.streamOn_canon
    | apply State.noteImage_canon | apply State.wr_canon | apply State.bootFail_canon | apply canon_ite

theorem execImageStream_canon {hdr : List Byte} {s : State} (hs : s.Canon) : Res.Canon (execImageStream hdr s) := by
  unfold execImageStream
  with_reducible repeat' first
    | assumption | intro _ | apply State.live_canon | apply State.imageStream_canon | apply canon_next

theorem State.abandonStream_canon {s : State} (hs : s.Canon) : State.Canon (s.abandonStream) := by
  unfold State.abandonStream
  with_reducible repeat' first
    | apply State.wf_canon
    | assumption | intro _ | apply State.each_canon | apply State.freeSlot_canon | apply State.wr_canon
    | apply State.setStage_canon | apply State.sat_canon | apply State.bootFail_canon | apply canon_ite

theorem State.doneRise_canon {s : State} (hs : s.Canon) : State.Canon (s.doneRise) := by
  unfold State.doneRise
  with_reducible repeat' first
    | assumption | intro _ | apply State.wf_canon | apply State.raise_canon | apply State.wr_canon
    | apply State.setStage_canon | apply State.each_canon | apply State.startNow_canon | apply canon_ite

theorem execDoneRise_canon {s : State} (hs : s.Canon) : Res.Canon (execDoneRise s) := by
  unfold execDoneRise
  with_reducible repeat' first
    | assumption | intro _ | apply State.live_canon | apply State.doneRise_canon | apply canon_next

theorem State.doneFall_canon {s : State} (hs : s.Canon) : State.Canon (s.doneFall) := by
  unfold State.doneFall
  with_reducible repeat' first
    | assumption | apply State.wf_canon | apply State.raise_canon | apply State.wr_canon | apply canon_ite

theorem execDoneFall_canon {s : State} (hs : s.Canon) : Res.Canon (execDoneFall s) := by
  unfold execDoneFall
  with_reducible repeat' first
    | assumption | intro _ | apply State.live_canon | apply State.doneFall_canon | apply canon_next

theorem State.loadAll_canon {s : State} {a : List Section} (hs : s.Canon) : State.Canon (s.loadAll a).2 := by
  induction a generalizing s with
  | nil => exact hs
  | cons x r ih =>
    unfold State.loadAll
    split
    · exact ih hs
    · extract_lets y
      have hy : y.2.Canon := State.loadSection_canon hs
      split
      · exact ih hy
      · exact hy

theorem State.hbmList_canon {s : State} {a n : Nat} (hs : s.Canon) : State.Canon (s.hbmList a n).2.2 := by
  unfold State.hbmList
  refine List.foldlRecOn (motive := fun x : List Byte × Bool × State => x.2.2.Canon) _ _ hs ?_
  intro x hx i _
  exact State.niAccess_canon hx

theorem State.baseContainer_canon {s : State} (hs : s.Canon) : State.Canon (s.baseContainer).2.2 :=
  State.hbmList_canon (State.hbmList_canon hs)

theorem State.loadGo_canon {s : State} (hs : s.Canon) : State.Canon (s.loadGo) := by
  have h1 := State.baseContainer_canon hs
  unfold State.loadGo
  dsimp only
  with_reducible repeat' first
    | assumption | apply State.wf_canon | apply State.loadAll_canon | apply State.noteImage_canon | apply canon_ite

theorem State.loadCtrl_canon {s : State} {who : Who} (hs : s.Canon) : State.Canon (s.loadCtrl who) := by
  unfold State.loadCtrl
  with_reducible repeat' first
    | assumption | apply State.deny_canon | apply State.okay_canon | apply State.loadGo_canon | apply canon_ite

theorem execLoadGo_canon {who : Who} {s : State} (hs : s.Canon) : Res.Canon (execLoadGo who s) := by
  unfold execLoadGo
  with_reducible repeat' first
    | assumption | intro _ | apply State.access_canon | apply State.loadCtrl_canon | apply canon_next

theorem State.recoveryGo_canon {s : State} (hs : s.Canon) : State.Canon (s.recoveryGo) := by
  unfold State.recoveryGo
  with_reducible repeat' first
    | assumption | apply State.checkStaged_canon | apply State.wf_canon | apply State.runBoot_canon
    | apply State.bootFail_canon | apply canon_ite

theorem State.recoveryCtrl_canon {s : State} {who : Who} (hs : s.Canon) : State.Canon (s.recoveryCtrl who) := by
  unfold State.recoveryCtrl
  with_reducible repeat' first
    | assumption | apply State.deny_canon | apply State.okay_canon | apply State.recoveryGo_canon | apply canon_ite

theorem execRecoveryGo_canon {who : Who} {s : State} (hs : s.Canon) : Res.Canon (execRecoveryGo who s) := by
  unfold execRecoveryGo
  with_reducible repeat' first
    | assumption | intro _ | apply State.access_canon | apply State.recoveryCtrl_canon | apply canon_next

theorem State.updateCmd_canon {s : State} {who : Who} {target confirm : Bool} {f : State → Nat × State}
    (hs : s.Canon) (hf : ∀ y0 : State, y0.Canon → State.Canon (f y0).2) : State.Canon
    (s.updateCmd who target confirm f) := by
  unfold State.updateCmd
  repeat' first
    | with_reducible assumption | with_reducible apply hf | with_reducible apply State.deny_canon
    | with_reducible apply State.okay_canon | with_reducible apply State.wf_canon | split

theorem State.updateWrite_canon {s : State} {target slot : Bool} (hs : s.Canon) : State.Canon
    (s.updateWrite target slot).2 := by
  have h1 := State.baseContainer_canon hs
  unfold State.updateWrite
  dsimp only
  repeat' first
    | with_reducible assumption | with_reducible intro _ | with_reducible apply State.wr_canon
    | with_reducible apply canon_foldl | split

theorem execUpdateWrite_canon {who : Who} {target slot : Bool} {s : State} (hs : s.Canon) : Res.Canon
    (execUpdateWrite who target slot s) := by
  unfold execUpdateWrite
  with_reducible repeat' first
    | assumption | intro _ | apply State.access_canon | apply State.updateCmd_canon | apply State.updateWrite_canon
    | apply canon_next

theorem State.updateVerify_canon {s : State} {target slot : Bool} (hs : s.Canon) : State.Canon
    (s.updateVerify target slot).2 := by
  unfold State.updateVerify
  repeat' first
    | with_reducible assumption
    | (extract_lets +onlyGivenNames x; refine canon_cut (P := State.Canon x) ?_ ?_ <;> first | (clear_value x; intro _) | subst x)
    | (extract_lets +onlyGivenNames x; clear_value x) | with_reducible apply State.wf_canon
    | with_reducible apply State.wr_canon | split

theorem execUpdateVerify_canon {who : Who} {target slot : Bool} {s : State} (hs : s.Canon) : Res.Canon
    (execUpdateVerify who target slot s) := by
  unfold execUpdateVerify
  with_reducible repeat' first
    | assumption | intro _ | apply State.access_canon | apply State.updateCmd_canon | apply State.updateVerify_canon
    | apply canon_next

theorem State.activate_canon {s : State} {target slot : Bool} (hs : s.Canon) : State.Canon
    (s.activate target slot).2 := by
  unfold State.activate
  repeat' first
    | with_reducible assumption | with_reducible apply State.writeRecord_canon | split

theorem execActivate_canon {who : Who} {target slot : Bool} {s : State} (hs : s.Canon) : Res.Canon
    (execActivate who target slot s) := by
  unfold execActivate
  with_reducible repeat' first
    | assumption | intro _ | apply State.access_canon | apply State.updateCmd_canon | apply State.activate_canon
    | apply canon_next

theorem State.confirm_canon {s : State} {target : Bool} (hs : s.Canon) : State.Canon (s.confirm target).2 := by
  unfold State.confirm
  repeat' first
    | with_reducible assumption | with_reducible apply State.advanceSvn_canon
    | with_reducible apply State.writeRecord_canon | split

theorem execConfirm_canon {who : Who} {target : Bool} {s : State} (hs : s.Canon) : Res.Canon
    (execConfirm who target s) := by
  unfold execConfirm
  with_reducible repeat' first
    | assumption | intro _ | apply State.access_canon | apply State.updateCmd_canon | apply State.confirm_canon
    | apply canon_next

theorem State.violation_canon {s : State} {off : Nat} (hs : s.Canon) : State.Canon (s.violation off) := by
  unfold State.violation
  with_reducible repeat' first | assumption | apply State.raise_canon | apply State.wr_canon | apply State.cnt_canon

theorem State.lcIdle_canon {s : State} (hs : s.Canon) : State.Canon (s.lcIdle) := by
  unfold State.lcIdle
  with_reducible repeat' first | assumption | apply State.violation_canon | apply canon_ite

theorem State.lcGo_canon {s : State} {target : Nat} (hs : s.Canon) : State.Canon (s.lcGo target) := by
  unfold State.lcGo
  with_reducible repeat' first
    | assumption | intro _ | apply State.violation_canon | apply State.wf_canon | apply State.wr_canon
    | apply State.wipeVault_canon | apply State.wipeKeyRam_canon | apply State.setStage_canon | apply canon_foldl
    | apply canon_ite

theorem State.bootOnly_canon {s : State} {who : Who} {f : State → State} (hs : s.Canon)
    (hf : ∀ y0 : State, y0.Canon → State.Canon (f y0)) : State.Canon (s.bootOnly who f) := by
  unfold State.bootOnly
  with_reducible repeat' first
    | assumption | apply hf | apply State.okay_canon | apply State.deny_canon | apply canon_ite

theorem execLcTransition_canon {who : Who} {target : BitVec 3} {s : State} (hs : s.Canon) : Res.Canon
    (execLcTransition who target s) := by
  unfold execLcTransition
  with_reducible repeat' first
    | assumption | intro _ | apply State.access_canon | apply State.bootOnly_canon | apply State.lcGo_canon
    | apply canon_next

theorem State.zeroise_canon {s : State} (hs : s.Canon) : State.Canon (s.zeroise) := by
  unfold State.zeroise
  with_reducible repeat' first | assumption | apply State.drop_canon

theorem State.tamperFull_canon {s : State} {source : Nat} (hs : s.Canon) : State.Canon (s.tamperFull source) := by
  unfold State.tamperFull
  with_reducible repeat' first
    | assumption | intro _ | apply State.devRecord_canon | apply State.each_canon | apply State.stopImmediate_canon
    | apply State.setStage_canon | apply State.zeroise_canon | apply State.wipeVault_canon
    | apply State.wipeKeyRam_canon | apply canon_ite

theorem State.keyLoad_canon {s : State} (hs : s.Canon) : State.Canon (s.keyLoad) := by
  unfold State.keyLoad
  with_reducible repeat' first
    | assumption | intro _ | apply State.violation_canon | apply State.wr_canon | apply State.each_canon
    | apply canon_ite

theorem execKeyramLoad_canon {who : Who} {s : State} (hs : s.Canon) : Res.Canon (execKeyramLoad who s) := by
  unfold execKeyramLoad
  with_reducible repeat' first
    | assumption | intro _ | apply State.access_canon | apply State.bootOnly_canon | apply State.keyLoad_canon
    | apply canon_next

theorem execKeyramWipe_canon {who : Who} {s : State} (hs : s.Canon) : Res.Canon (execKeyramWipe who s) := by
  unfold execKeyramWipe
  with_reducible repeat' first
    | assumption | intro _ | apply State.access_canon | apply State.bootOnly_canon | apply State.wipeKeyRam_canon
    | apply canon_next

/-! ### Links -/

theorem State.sendAll_canon {s : State} {ps : List Nat} {y : Nat → Sym} (hs : s.Canon) : State.Canon
    (s.sendAll ps y) := by
  unfold State.sendAll
  with_reducible repeat' first | assumption | intro _ | apply State.sendSym_canon | apply canon_foldl

theorem State.kStop_canon {s : State} {result : Nat} (hs : s.Canon) : State.Canon (s.kStop result) := by
  unfold State.kStop
  with_reducible repeat' first | assumption | apply State.wf_canon

theorem State.commitAddr_canon {s : State} {a : Nat} (hs : s.Canon) : State.Canon (s.commitAddr a) := by
  unfold State.commitAddr
  with_reducible repeat' first
    | assumption | apply State.wf_canon | apply State.plumbClear_canon | apply State.wr_canon

theorem State.sendNeighbors_canon {s : State} (hs : s.Canon) : State.Canon (s.sendNeighbors) := by
  unfold State.sendNeighbors
  with_reducible repeat' first | assumption | apply State.sendAll_canon

theorem State.kAck_canon {s : State} (hs : s.Canon) : State.Canon (s.kAck) := by
  unfold State.kAck
  with_reducible repeat' first | assumption | apply State.wf_canon | apply State.wr_canon | apply State.sendAll_canon

theorem State.kCommit_canon {s : State} {n : Nat} (hs : s.Canon) : State.Canon (s.kCommit n) := by
  unfold State.kCommit
  with_reducible repeat' first
    | assumption | apply State.commitAddr_canon | apply State.wf_canon | apply State.wr_canon
    | apply State.sendNeighbors_canon | apply State.sendSym_canon | apply State.kAck_canon | apply canon_ite

theorem State.kSearch_canon {s : State} (hs : s.Canon) : State.Canon (s.kSearch) := by
  unfold State.kSearch
  with_reducible repeat' first
    | assumption | apply State.wr_canon | apply State.wf_canon | apply State.sendSym_canon
    | apply State.kCommit_canon | apply canon_ite

theorem State.nextEpoch_canon {s : State} (hs : s.Canon) : State.Canon (s.nextEpoch) := by
  unfold State.nextEpoch
  with_reducible repeat' first
    | apply State.wr_canon
    | assumption | apply State.wf_canon

theorem State.kStart_canon {s : State} (hs : s.Canon) : State.Canon (s.kStart) := by
  unfold State.kStart
  with_reducible repeat' first
    | assumption | apply State.nextEpoch_canon | apply State.wf_canon | apply State.kStop_canon
    | apply State.kSearch_canon | apply canon_ite

theorem State.disturb_canon {s : State} (hs : s.Canon) : State.Canon (s.disturb) := by
  unfold State.disturb
  with_reducible repeat' first
    | assumption | apply State.kSearch_canon | apply State.nextEpoch_canon | apply State.wf_canon
    | apply State.kStop_canon | apply canon_ite

theorem State.portChanged_canon {s : State} {p : Nat} (hs : s.Canon) : State.Canon (s.portChanged p) := by
  unfold State.portChanged
  with_reducible repeat' first
    | assumption | apply State.raise_canon | apply State.orf_canon | apply State.sendSym_canon
    | apply State.disturb_canon | apply canon_ite

theorem State.clearRx_canon {s : State} {p : Nat} (hs : s.Canon) : State.Canon (s.clearRx p) := by
  unfold State.clearRx
  repeat' first
    | with_reducible assumption | simp only [canon_update]

theorem State.clearTx_canon {s : State} {p : Nat} (hs : s.Canon) : State.Canon (s.clearTx p) := by
  unfold State.clearTx
  repeat' first
    | with_reducible assumption | simp only [canon_update]

theorem State.treeLink_canon {s : State} {p k : Nat} (hs : s.Canon) : State.Canon (s.treeLink p k).2 := by
  unfold State.treeLink
  repeat' first
    | with_reducible assumption | with_reducible apply State.free_canon | split

theorem State.loseForeign_canon {s : State} {p pid : Nat} {free : Bool} (hs : s.Canon) : State.Canon
    (s.loseForeign p pid free) := by
  unfold State.loseForeign
  extract_lets both
  with_reducible repeat' first
    | assumption | apply State.sendTree_canon | apply State.plumbSync_canon | apply State.wr_canon | apply canon_ite

theorem State.loseOver_canon {s : State} {p : Nat} (hs : s.Canon) : State.Canon (s.loseOver p) := by
  unfold State.loseOver
  with_reducible repeat' first
    | assumption | intro _ | apply State.each_canon | apply State.treeLink_canon | apply State.loseMember_canon
    | apply State.loseForeign_canon | apply State.free_canon | apply canon_ite

theorem State.capacityFell_canon {s : State} {p : Nat} (hs : s.Canon) : State.Canon (s.capacityFell p) := by
  unfold State.capacityFell
  with_reducible repeat' first
    | assumption | intro _ | apply State.each_canon | apply State.loseMember_canon | apply canon_ite

theorem State.loadRetry_canon {s : State} (hs : s.Canon) : State.Canon (s.loadRetry) := by
  unfold State.loadRetry
  with_reducible repeat' first
    | assumption | apply State.abandonStream_canon | apply State.kStart_canon | apply canon_ite

theorem State.portLost_canon {s : State} {p : Nat} (hs : s.Canon) : State.Canon (s.portLost p) := by
  unfold State.portLost
  with_reducible repeat' first
    | assumption | apply State.portChanged_canon | apply State.loseOver_canon | apply State.clearTx_canon
    | apply State.loadRetry_canon | apply canon_ite

theorem State.portSync_canon {s : State} {p : Nat} (hs : s.Canon) : State.Canon (s.portSync p) := by
  unfold State.portSync
  repeat' first
    | with_reducible assumption
    | (extract_lets +onlyGivenNames x; refine canon_cut (P := State.Canon x) ?_ ?_ <;> first | (clear_value x; intro _) | subst x)
    | (extract_lets +onlyGivenNames x; clear_value x) | with_reducible apply State.wf_canon
    | with_reducible apply State.capacityFell_canon | with_reducible apply State.portChanged_canon
    | with_reducible apply State.heard_canon | with_reducible apply State.clearRx_canon
    | with_reducible apply State.portLost_canon | split

theorem State.failLane_canon {s : State} {p l : Nat} (hs : s.Canon) : State.Canon (s.failLane p l) := by
  unfold State.failLane
  with_reducible repeat' first | assumption | apply State.wf_canon | apply State.wr_canon | apply canon_ite

theorem State.portDown_canon {s : State} {p : Nat} (hs : s.Canon) : State.Canon (s.portDown p) := by
  unfold State.portDown
  with_reducible repeat' first
    | assumption | intro _ | apply State.each_canon | apply State.failLane_canon | apply State.wf_canon
    | apply State.clearRx_canon | apply State.wr_canon | apply State.cnt_canon | apply State.portLost_canon
    | apply State.raise_canon | apply canon_ite

theorem State.streamError_canon {s : State} {p : Nat} (hs : s.Canon) : State.Canon (s.streamError p) := by
  unfold State.streamError
  with_reducible repeat' first | assumption | apply State.portDown_canon | apply State.cnt_canon

theorem execMortarFrame_canon {port : Fin 16} {hdr : BitVec 24} {payload : List Bool} {s : State} (hs : s.Canon) :
    Res.Canon (execMortarFrame port hdr payload s) := by
  unfold execMortarFrame
  with_reducible repeat' first
    | assumption | intro _ | apply State.live_canon | apply State.streamError_canon | apply State.frameIn_canon
    | apply canon_next | apply canon_ite

theorem execSymbolSilenceTimeout_canon {port : Fin 16} {s : State} (hs : s.Canon) : Res.Canon
    (execSymbolSilenceTimeout port s) := by
  unfold execSymbolSilenceTimeout
  with_reducible repeat' first
    | assumption | intro _ | apply State.live_canon | apply State.portDown_canon | apply canon_next
    | apply canon_ite

theorem execHeartbeatInterval_canon {port : Fin 16} {s : State} (hs : s.Canon) : Res.Canon
    (execHeartbeatInterval port s) := by
  unfold execHeartbeatInterval
  with_reducible repeat' first
    | assumption | intro _ | apply State.live_canon | apply State.sendSym_canon | apply canon_next | apply canon_ite

theorem execHeartbeat_canon {port : Fin 16} {s : State} (hs : s.Canon) : Res.Canon (execHeartbeat port s) := by
  unfold execHeartbeat
  with_reducible repeat' first
    | assumption | intro _ | apply State.live_canon | apply State.heard_canon | apply canon_next

theorem execBlockLockLoss_canon {port : Fin 16} {lane : Fin 4} {s : State} (hs : s.Canon) : Res.Canon
    (execBlockLockLoss port lane s) := by
  unfold execBlockLockLoss
  with_reducible repeat' first
    | assumption | intro _ | apply State.live_canon | apply State.portDown_canon | apply State.wf_canon
    | apply State.cnt_canon | apply canon_next | apply canon_ite

theorem State.replay_canon {s : State} {p l n : Nat} (hs : s.Canon) : State.Canon (s.replay p l n) := by
  unfold State.replay
  repeat' first
    | with_reducible assumption | with_reducible apply State.cnt_canon | simp only [canon_update]

theorem State.nakIn_canon {s : State} {p l block : Nat} (hs : s.Canon) : State.Canon (s.nakIn p l block) := by
  unfold State.nakIn
  with_reducible repeat' first
    | assumption | apply State.wr_canon | apply State.portDown_canon | apply State.replay_canon | apply canon_ite

theorem execNak_canon {port : Fin 16} {block : BitVec 24} {s : State} (hs : s.Canon) : Res.Canon
    (execNak port block s) := by
  unfold execNak
  with_reducible repeat' first
    | assumption | intro _ | apply State.live_canon | apply State.free_canon | apply State.heard_canon
    | apply State.nakIn_canon | apply canon_next

theorem State.adapt_canon {s : State} {p l : Nat} {step : Bool} (hs : s.Canon) : State.Canon (s.adapt p l step) :=
    by
  unfold State.adapt
  with_reducible repeat' first
    | assumption | intro _ | apply State.free_canon | apply State.wf_canon | apply State.each_canon
    | apply State.wr_canon | apply canon_ite

theorem State.track_canon {s : State} {p l : Nat} (hs : s.Canon) : State.Canon (s.track p l) := by
  unfold State.track
  with_reducible repeat' first | assumption | apply State.adapt_canon | apply canon_ite

theorem State.train_canon {s : State} {p l rate : Nat} {back : Bool} (hs : s.Canon) : State.Canon
    (s.train p l rate back) := by
  unfold State.train
  repeat' first
    | with_reducible assumption | with_reducible apply State.wf_canon | with_reducible apply State.wr_canon
    | with_reducible apply State.free_canon | with_reducible apply State.adapt_canon
    | with_reducible apply canon_ite | simp only [canon_update]

theorem State.laneCtrl_canon {s : State} {p l v : Nat} (hs : s.Canon) : State.Canon (s.laneCtrl p l v) := by
  unfold State.laneCtrl
  with_reducible repeat' first
    | assumption | apply State.wf_canon | apply State.portSync_canon | apply State.train_canon | apply canon_ite

theorem execLaneTrain_canon {who : Who} {port : Fin 16} {lane : Fin 4} {val : Word} {s : State} (hs : s.Canon) :
    Res.Canon (execLaneTrain who port lane val s) := by
  unfold execLaneTrain
  with_reducible repeat' first
    | assumption | intro _ | apply State.accessDom_canon | apply State.okay_canon | apply State.laneCtrl_canon
    | apply State.deny_canon | apply canon_next | apply canon_ite

theorem State.trainFail_canon {s : State} {p l : Nat} (hs : s.Canon) : State.Canon (s.trainFail p l) := by
  unfold State.trainFail
  with_reducible repeat' first
    | assumption | intro _ | apply State.wf_canon | apply State.portSync_canon | apply State.wr_canon
    | apply State.raise_canon | apply State.train_canon | apply canon_foldl | apply canon_ite

theorem execTrainingTimeout_canon {port : Fin 16} {lane : Fin 4} {s : State} (hs : s.Canon) : Res.Canon
    (execTrainingTimeout port lane s) := by
  unfold execTrainingTimeout
  with_reducible repeat' first
    | assumption | intro _ | apply State.live_canon | apply State.trainFail_canon | apply canon_next
    | apply canon_ite

theorem State.bitslip_canon {s : State} {p l : Nat} (hs : s.Canon) : State.Canon (s.bitslip p l) := by
  unfold State.bitslip
  with_reducible repeat' first | assumption | apply State.wf_canon | apply canon_ite

theorem execLinkBitslip_canon {who : Who} {port : Fin 16} {lane : Fin 4} {s : State} (hs : s.Canon) : Res.Canon
    (execLinkBitslip who port lane s) := by
  unfold execLinkBitslip
  with_reducible repeat' first
    | assumption | intro _ | apply State.accessDom_canon | apply State.okay_canon | apply State.bitslip_canon
    | apply State.deny_canon | apply canon_next | apply canon_ite

theorem execHeaderLock_canon {port : Fin 16} {lane : Fin 4} {s : State} (hs : s.Canon) : Res.Canon
    (execHeaderLock port lane s) := by
  unfold execHeaderLock
  with_reducible repeat' first
    | assumption | intro _ | apply State.live_canon | apply State.wf_canon | apply canon_next | apply canon_ite

theorem State.relocked_canon {s : State} {p l : Nat} (hs : s.Canon) : State.Canon (s.relocked p l) := by
  unfold State.relocked
  with_reducible repeat' first
    | assumption | apply State.wf_canon | apply State.wr_canon | apply State.heard_canon
    | apply State.portSync_canon | apply canon_ite

theorem State.lockSeq_canon {s : State} {p l : Nat} (hs : s.Canon) : State.Canon (s.lockSeq p l).2 := by
  unfold State.lockSeq
  repeat' first
    | with_reducible assumption | with_reducible apply State.free_canon | split

theorem State.blockLocked_canon {s : State} {p l : Nat} (hs : s.Canon) : State.Canon (s.blockLocked p l) := by
  unfold State.blockLocked
  with_reducible repeat' first
    | assumption | apply State.lockSeq_canon | apply State.wr_canon | apply State.wf_canon
    | apply State.relocked_canon | apply canon_ite

theorem execBlockLock_canon {port : Fin 16} {lane : Fin 4} {s : State} (hs : s.Canon) : Res.Canon
    (execBlockLock port lane s) := by
  unfold execBlockLock
  with_reducible repeat' first
    | assumption | intro _ | apply State.live_canon | apply State.blockLocked_canon | apply canon_next

theorem State.capsIn_canon {s : State} {p l c : Nat} (hs : s.Canon) : State.Canon (s.capsIn p l c) := by
  unfold State.capsIn
  with_reducible repeat' first
    | assumption | apply State.portDown_canon | apply State.wf_canon | apply State.wr_canon
    | apply State.portSync_canon | apply canon_ite

theorem execCaps_canon {port : Fin 16} {lane : Fin 4} {content : BitVec 56} {s : State} (hs : s.Canon) : Res.Canon
    (execCaps port lane content s) := by
  unfold execCaps
  with_reducible repeat' first
    | assumption | intro _ | apply State.live_canon | apply State.capsIn_canon | apply State.heard_canon
    | apply canon_next

theorem execPresencePoll_canon {port : Fin 16} {lane : Fin 4} {signal : Bool} {s : State} (hs : s.Canon) : Res.Canon
    (execPresencePoll port lane signal s) := by
  unfold execPresencePoll
  with_reducible repeat' first
    | assumption | intro _ | apply State.live_canon | apply State.wr_canon | apply State.wf_canon
    | apply State.raise_canon | apply canon_next | apply canon_ite

theorem State.rateAsk_canon {s : State} {p rate : Nat} (hs : s.Canon) : State.Canon (s.rateAsk p rate) := by
  unfold State.rateAsk
  with_reducible repeat' first | assumption | apply State.sendSym_canon | apply State.wr_canon | apply State.wf_canon

theorem execRateReqSend_canon {who : Who} {port : Fin 16} {val : Word} {s : State} (hs : s.Canon) : Res.Canon
    (execRateReqSend who port val s) := by
  unfold execRateReqSend
  with_reducible repeat' first
    | assumption | intro _ | apply State.accessDom_canon | apply State.okay_canon | apply State.rateAsk_canon
    | apply State.deny_canon | apply canon_next | apply canon_ite

theorem State.rateAsked_canon {s : State} {p rate : Nat} (hs : s.Canon) : State.Canon (s.rateAsked p rate) := by
  unfold State.rateAsked
  with_reducible repeat' first | assumption | apply State.sendSym_canon | apply State.wr_canon | apply canon_ite

theorem execRateReq_canon {port : Fin 16} {rate : BitVec 3} {s : State} (hs : s.Canon) : Res.Canon
    (execRateReq port rate s) := by
  unfold execRateReq
  with_reducible repeat' first
    | assumption | intro _ | apply State.live_canon | apply State.rateAsked_canon | apply State.heard_canon
    | apply canon_next

theorem State.rateAnswer_canon {s : State} {p rate : Nat} {refused : Bool} (hs : s.Canon) : State.Canon
    (s.rateAnswer p rate refused) := by
  unfold State.rateAnswer
  with_reducible repeat' first | assumption | apply State.wr_canon | apply State.wf_canon | apply canon_ite

theorem execRateAck_canon {port : Fin 16} {rate : BitVec 3} {refused : Bool} {s : State} (hs : s.Canon) : Res.Canon
    (execRateAck port rate refused s) := by
  unfold execRateAck
  with_reducible repeat' first
    | assumption | intro _ | apply State.live_canon | apply State.rateAnswer_canon | apply State.heard_canon
    | apply canon_next

theorem execRateSwitch_canon {port : Fin 16} {s : State} (hs : s.Canon) : Res.Canon (execRateSwitch port s) := by
  unfold execRateSwitch
  with_reducible repeat' first
    | assumption | intro _ | apply State.live_canon | apply State.portSync_canon | apply State.train_canon
    | apply State.wr_canon | apply canon_next | apply canon_foldl | apply canon_ite

theorem State.lanesTo_canon {s : State} {p frm dst : Nat} (hs : s.Canon) : State.Canon (s.lanesTo p frm dst) := by
  unfold State.lanesTo
  with_reducible repeat' first | assumption | intro _ | apply State.wf_canon | apply canon_foldl | apply canon_ite

theorem State.enterPs_canon {s : State} {p : Nat} (hs : s.Canon) : State.Canon (s.enterPs p) := by
  unfold State.enterPs
  with_reducible repeat' first
    | assumption | intro _ | apply State.lanesTo_canon | apply State.wf_canon | apply State.wr_canon
    | apply State.portSync_canon | apply canon_foldl | apply canon_ite

theorem State.wakePort_canon {s : State} {p : Nat} (hs : s.Canon) : State.Canon (s.wakePort p) := by
  unfold State.wakePort
  with_reducible repeat' first
    | assumption | intro _ | apply State.lanesTo_canon | apply State.wf_canon | apply State.wr_canon
    | apply State.sendSym_canon | apply State.heard_canon | apply State.portSync_canon | apply canon_foldl
    | apply canon_ite

theorem State.psAsk_canon {s : State} {p st : Nat} (hs : s.Canon) : State.Canon (s.psAsk p st) := by
  unfold State.psAsk
  with_reducible repeat' first
    | assumption | apply State.wakePort_canon | apply State.wf_canon | apply State.sendSym_canon
    | apply State.wr_canon | apply canon_ite

theorem execPstateRequest_canon {who : Who} {port : Fin 16} {val : Word} {s : State} (hs : s.Canon) : Res.Canon
    (execPstateRequest who port val s) := by
  unfold execPstateRequest
  with_reducible repeat' first
    | assumption | intro _ | apply State.accessDom_canon | apply State.okay_canon | apply State.psAsk_canon
    | apply State.deny_canon | apply canon_next | apply canon_ite

theorem State.psAsked_canon {s : State} {p st : Nat} (hs : s.Canon) : State.Canon (s.psAsked p st) := by
  unfold State.psAsked
  with_reducible repeat' first
    | assumption | apply State.wf_canon | apply State.wr_canon | apply State.sendSym_canon | apply canon_ite

theorem execPstate_canon {port : Fin 16} {st : BitVec 2} {s : State} (hs : s.Canon) : Res.Canon
    (execPstate port st s) := by
  unfold execPstate
  with_reducible repeat' first
    | assumption | intro _ | apply State.live_canon | apply State.psAsked_canon | apply State.heard_canon
    | apply canon_next

theorem execPortWake_canon {port : Fin 16} {s : State} (hs : s.Canon) : Res.Canon (execPortWake port s) := by
  unfold execPortWake
  with_reducible repeat' first
    | assumption | intro _ | apply State.live_canon | apply State.wakePort_canon | apply canon_next

theorem execDormantRelockTimeout_canon {port : Fin 16} {s : State} (hs : s.Canon) : Res.Canon
    (execDormantRelockTimeout port s) := by
  unfold execDormantRelockTimeout
  with_reducible repeat' first
    | assumption | intro _ | apply State.live_canon | apply State.portDown_canon | apply canon_next
    | apply canon_ite

/-! ### Enum -/

theorem State.chainStage_canon {s : State} (hs : s.Canon) : State.Canon (s.chainStage) := by
  unfold State.chainStage
  with_reducible repeat' first | assumption | apply State.setStage_canon | apply canon_ite

theorem State.enumAsk_canon {s : State} (hs : s.Canon) : State.Canon (s.enumAsk) := by
  unfold State.enumAsk
  with_reducible repeat' first
    | assumption | apply State.wf_canon | apply State.kStart_canon | apply State.chainStage_canon | apply canon_ite

theorem execEnumStart_canon {who : Who} {s : State} (hs : s.Canon) : Res.Canon (execEnumStart who s) := by
  unfold execEnumStart
  with_reducible repeat' first
    | assumption | intro _ | apply State.access_canon | apply State.okay_canon | apply State.enumAsk_canon
    | apply State.deny_canon | apply canon_next | apply canon_ite

theorem State.chainBegin_canon {s : State} (hs : s.Canon) : State.Canon (s.chainBegin) := by
  unfold State.chainBegin
  with_reducible repeat' first
    | assumption | apply State.free_canon | apply State.enumAsk_canon | apply State.chainStage_canon
    | apply canon_ite

theorem State.takeProv_canon {s : State} {e a : Nat} (hs : s.Canon) : State.Canon (s.takeProv e a) := by
  unfold State.takeProv
  with_reducible repeat' first
    | assumption | apply State.wf_canon | apply State.wr_canon | apply State.sendSym_canon | apply canon_ite

theorem State.searchIn_canon {s : State} {e a : Nat} (hs : s.Canon) : State.Canon (s.searchIn e a) := by
  unfold State.searchIn
  with_reducible repeat' first
    | apply State.wr_canon
    | assumption | apply State.abandonStream_canon | apply State.wf_canon | apply State.chainStage_canon
    | apply State.sendSym_canon | apply State.takeProv_canon | apply canon_ite

theorem execSearch_canon {epoch : BitVec 8} {next : BitVec 13} {s : State} (hs : s.Canon) : Res.Canon
    (execSearch epoch next s) := by
  unfold execSearch
  with_reducible repeat' first
    | assumption | intro _ | apply State.live_canon | apply State.searchIn_canon | apply State.heard_canon
    | apply canon_next

theorem State.countIn_canon {s : State} {e n : Nat} {overflow : Bool} (hs : s.Canon) : State.Canon
    (s.countIn e n overflow) := by
  unfold State.countIn
  with_reducible repeat' first
    | assumption | apply State.sendSym_canon | apply State.kStop_canon | apply State.kCommit_canon | apply canon_ite

theorem execCount_canon {epoch : BitVec 8} {n : BitVec 13} {overflow : Bool} {s : State} (hs : s.Canon) : Res.Canon
    (execCount epoch n overflow s) := by
  unfold execCount
  with_reducible repeat' first
    | assumption | intro _ | apply State.live_canon | apply State.countIn_canon | apply State.heard_canon
    | apply canon_next

theorem State.commitIn_canon {s : State} {e n : Nat} (hs : s.Canon) : State.Canon (s.commitIn e n) := by
  unfold State.commitIn
  with_reducible repeat' first
    | assumption | apply State.sendSym_canon | apply State.commitAddr_canon | apply State.wr_canon
    | apply State.sendNeighbors_canon | apply canon_ite

theorem execCommit_canon {epoch : BitVec 8} {n : BitVec 13} {s : State} (hs : s.Canon) : Res.Canon
    (execCommit epoch n s) := by
  unfold execCommit
  with_reducible repeat' first
    | assumption | intro _ | apply State.live_canon | apply State.commitIn_canon | apply State.heard_canon
    | apply canon_next

theorem State.commitAckIn_canon {s : State} {e : Nat} (hs : s.Canon) : State.Canon (s.commitAckIn e) := by
  unfold State.commitAckIn
  with_reducible repeat' first | assumption | apply State.sendSym_canon | apply State.kAck_canon | apply canon_ite

theorem execCommitAck_canon {epoch : BitVec 8} {s : State} (hs : s.Canon) : Res.Canon (execCommitAck epoch s) := by
  unfold execCommitAck
  with_reducible repeat' first
    | assumption | intro _ | apply State.live_canon | apply State.commitAckIn_canon | apply State.heard_canon
    | apply canon_next

theorem State.lossBelow_canon {s : State} {f : State → State} (hs : s.Canon)
    (hf : ∀ y0 : State, y0.Canon → State.Canon (f y0)) : State.Canon (s.lossBelow f) := by
  unfold State.lossBelow
  with_reducible repeat' first | assumption | apply hf | apply State.free_canon | apply canon_ite

theorem State.abortIn_canon {s : State} {e reason : Nat} (hs : s.Canon) : State.Canon (s.abortIn e reason) := by
  unfold State.abortIn
  repeat' first
    | with_reducible assumption | with_reducible apply State.sendSym_canon
    | with_reducible apply State.lossBelow_canon | with_reducible apply State.abandonStream_canon
    | with_reducible apply State.disturb_canon | with_reducible apply State.loadRetry_canon
    | with_reducible apply State.kStop_canon | split

theorem execAbort_canon {epoch : BitVec 8} {reason : BitVec 4} {s : State} (hs : s.Canon) : Res.Canon
    (execAbort epoch reason s) := by
  unfold execAbort
  with_reducible repeat' first
    | assumption | intro _ | apply State.live_canon | apply State.abortIn_canon | apply State.heard_canon
    | apply canon_next

theorem execEnumCountTimeout_canon {s : State} (hs : s.Canon) : Res.Canon (execEnumCountTimeout s) := by
  unfold execEnumCountTimeout
  with_reducible repeat' first
    | assumption | intro _ | apply State.live_canon | apply State.disturb_canon | apply canon_next | apply canon_ite

theorem execNeighbor_canon {port : Fin 16} {addr : BitVec 12} {peer : BitVec 4} {s : State} (hs : s.Canon) :
    Res.Canon (execNeighbor port addr peer s) := by
  unfold execNeighbor
  with_reducible repeat' first
    | assumption | intro _ | apply State.live_canon | apply State.wf_canon | apply State.heard_canon
    | apply canon_next

theorem State.treeIn_canon {s : State} {p e hop sender : Nat} (hs : s.Canon) : State.Canon (s.treeIn p e hop sender)
    := by
  unfold State.treeIn
  with_reducible repeat' first | assumption | apply State.wr_canon | apply canon_ite

theorem execTree_canon {port : Fin 16} {epoch hop : BitVec 8} {sender : BitVec 12} {s : State} (hs : s.Canon) :
    Res.Canon (execTree port epoch hop sender s) := by
  unfold execTree
  with_reducible repeat' first
    | assumption | intro _ | apply State.live_canon | apply State.treeIn_canon | apply State.heard_canon
    | apply canon_next

theorem State.treeClose_canon {s : State} (hs : s.Canon) : State.Canon (s.treeClose) := by
  unfold State.treeClose
  with_reducible repeat' first
    | assumption | apply State.wr_canon | apply State.wf_canon | apply State.sendSym_canon
    | apply State.plumbBegin_canon | apply State.sendAll_canon

theorem execTreeWindowClose_canon {s : State} (hs : s.Canon) : Res.Canon (execTreeWindowClose s) := by
  unfold execTreeWindowClose
  with_reducible repeat' first
    | assumption | intro _ | apply State.live_canon | apply State.treeClose_canon | apply canon_next
    | apply canon_ite

theorem State.plumbToChild_canon {s : State} {p : Nat} (hs : s.Canon) : State.Canon (s.plumbToChild p) := by
  unfold State.plumbToChild
  with_reducible repeat' first | assumption | intro _ | apply State.sendSym_canon | apply canon_foldl

theorem execTreeAck_canon {port : Fin 16} {epoch : BitVec 8} {_child : BitVec 12} {s : State} (hs : s.Canon) :
    Res.Canon (execTreeAck port epoch _child s) := by
  unfold execTreeAck
  with_reducible repeat' first
    | assumption | intro _ | apply State.live_canon | apply State.heard_canon | apply State.plumbToChild_canon
    | apply State.orf_canon | apply canon_next | apply canon_ite

theorem execTreePhaseEnd_canon {s : State} (hs : s.Canon) : Res.Canon (execTreePhaseEnd s) := by
  unfold execTreePhaseEnd
  with_reducible repeat' first
    | assumption | intro _ | apply State.live_canon | apply State.wr_canon | apply State.wf_canon
    | apply State.plumbBegin_canon | apply canon_next | apply canon_ite

theorem State.kDone_canon {s : State} (hs : s.Canon) : State.Canon (s.kDone) := by
  unfold State.kDone
  with_reducible repeat' first | assumption | apply State.raise_canon | apply State.wf_canon

theorem State.tokenIn_canon {s : State} {p e passed : Nat} (hs : s.Canon) : State.Canon (s.tokenIn p e passed) := by
  unfold State.tokenIn
  with_reducible repeat' first
    | assumption | apply State.kDone_canon | apply State.sendSym_canon | apply State.wr_canon | apply canon_ite

theorem execBusToken_canon {port : Fin 16} {epoch : BitVec 8} {passed : BitVec 13} {s : State} (hs : s.Canon) :
    Res.Canon (execBusToken port epoch passed s) := by
  unfold execBusToken
  with_reducible repeat' first
    | assumption | intro _ | apply State.live_canon | apply State.tokenIn_canon | apply State.heard_canon
    | apply canon_next

theorem State.takeBus_canon {s : State} {sync : Bool} {present : Nat} (hs : s.Canon) : State.Canon
    (s.takeBus sync present) := by
  unfold State.takeBus
  repeat' first
    | with_reducible assumption
    | (extract_lets +onlyGivenNames x; refine canon_cut (P := State.Canon x) ?_ ?_ <;> first | (clear_value x; intro _) | subst x)
    | (extract_lets +onlyGivenNames x; clear_value x) | with_reducible apply State.wf_canon | split

theorem State.passToken_canon {s : State} (hs : s.Canon) : State.Canon (s.passToken) := by
  unfold State.passToken
  with_reducible repeat' first
    | assumption | apply State.wr_canon | apply State.sendSym_canon | apply State.kDone_canon | apply canon_ite

theorem execBusListenEnd_canon {sync : Bool} {present : BitVec 16} {s : State} (hs : s.Canon) : Res.Canon
    (execBusListenEnd sync present s) := by
  unfold execBusListenEnd
  with_reducible repeat' first
    | assumption | intro _ | apply State.live_canon | apply State.passToken_canon | apply State.takeBus_canon
    | apply canon_next | apply canon_ite

/-! ### Launch -/

theorem State.tlCfg_canon {s : State} {who : Who} {v : Nat} (hs : s.Canon) : State.Canon (s.tlCfg who v) := by
  unfold State.tlCfg
  repeat' first
    | with_reducible assumption
    | (extract_lets +onlyGivenNames x; refine canon_cut (P := State.Canon x) ?_ ?_ <;> first | (clear_value x; intro _) | subst x)
    | (extract_lets +onlyGivenNames x; clear_value x) | with_reducible apply State.deny_canon
    | with_reducible apply State.wr_canon | with_reducible apply State.okay_canon
    | with_reducible apply State.lnEnd_canon | split

theorem execLaunchArm_canon {who : Who} {val : Word} {s : State} (hs : s.Canon) : Res.Canon
    (execLaunchArm who val s) := by
  unfold execLaunchArm
  with_reducible repeat' first
    | assumption | intro _ | apply State.access_canon | apply State.tlCfg_canon | apply canon_next

theorem execLaunchDisarm_canon {who : Who} {s : State} (hs : s.Canon) : Res.Canon (execLaunchDisarm who s) := by
  unfold execLaunchDisarm
  with_reducible repeat' first
    | assumption | intro _ | apply State.access_canon | apply State.tlCfg_canon | apply canon_next

theorem State.lnGoAt_canon {s : State} {i n : Nat} (hs : s.Canon) : State.Canon (s.lnGoAt i n) := by
  unfold State.lnGoAt
  repeat' first
    | with_reducible assumption | (extract_lets +onlyGivenNames x; clear_value x)
    | with_reducible apply State.lnEnd_canon | with_reducible apply State.recEvent_canon
    | with_reducible apply State.startNow_canon | with_reducible apply State.lnCommit_canon
    | with_reducible apply State.softSettle_canon | with_reducible apply State.wr_canon
    | with_reducible apply canon_ite | split

theorem State.goHere_canon {s : State} {pid tag cyc28 : Nat} (hs : s.Canon) : State.Canon (s.goHere pid tag cyc28)
    := by
  unfold State.goHere
  with_reducible repeat' first | assumption | intro _ | apply State.lnGoAt_canon | apply canon_foldl | apply canon_ite

theorem State.goOut_canon {s : State} {pid tag cyc : Nat} (hs : s.Canon) : State.Canon (s.goOut pid tag cyc) := by
  unfold State.goOut
  with_reducible repeat' first
    | assumption | intro _ | apply State.goHere_canon | apply State.sendSym_canon | apply canon_foldl

theorem State.countFired_canon {s : State} {pid tag members cyc : Nat} (hs : s.Canon) : State.Canon
    (s.countFired pid tag members cyc) := by
  unfold State.countFired
  repeat' first
    | with_reducible assumption | with_reducible apply State.goOut_canon | with_reducible apply canon_ite
    | simp only [canon_update]

theorem State.firedUp_canon {s : State} {pid tag membersM1 cyc : Nat} (hs : s.Canon) : State.Canon
    (s.firedUp pid tag membersM1 cyc) := by
  unfold State.firedUp
  repeat' first
    | with_reducible assumption | with_reducible apply State.sendSym_canon
    | with_reducible apply State.countFired_canon | split

theorem State.lnFire_canon {s : State} {i : Nat} (hs : s.Canon) : State.Canon (s.lnFire i) := by
  unfold State.lnFire
  repeat' first
    | with_reducible apply State.lnCommit_canon | with_reducible apply canon_ite
    | with_reducible assumption
    | (extract_lets +onlyGivenNames x; refine canon_cut (P := State.Canon x) ?_ ?_ <;> first
    | (clear_value x; intro _) | subst x)
    | (extract_lets +onlyGivenNames x; clear_value x) | with_reducible apply State.lnEnd_canon
    | with_reducible apply State.shDoCommit_canon | with_reducible apply State.wr_canon
    | with_reducible apply State.lnGoAt_canon | with_reducible apply State.firedUp_canon | split

theorem execLaunchFire_canon {slot : Fin 16} {s : State} (hs : s.Canon) : Res.Canon (execLaunchFire slot s) := by
  unfold execLaunchFire
  with_reducible repeat' first
    | assumption | intro _ | apply State.aon_canon | apply State.lnFire_canon | apply canon_next | apply canon_ite

theorem execFired_canon {port : Fin 16} {pid : BitVec 8} {tag : BitVec 4} {membersM1 : BitVec 12} {cyc : BitVec 28}
    {s : State} (hs : s.Canon) : Res.Canon (execFired port pid tag membersM1 cyc s) := by
  unfold execFired
  with_reducible repeat' first
    | assumption | intro _ | apply State.live_canon | apply State.heard_canon | apply State.firedUp_canon
    | apply canon_next

theorem execGo_canon {port : Fin 16} {pid : BitVec 8} {tag : BitVec 4} {cyc : BitVec 28} {s : State} (hs : s.Canon)
    : Res.Canon (execGo port pid tag cyc s) := by
  unfold execGo
  with_reducible repeat' first
    | assumption | intro _ | apply State.live_canon | apply State.heard_canon | apply State.goOut_canon
    | apply canon_next | apply canon_ite

/-! ### Skink -/

theorem State.after_canon {s : State} {f : State → Res} (hs : s.Canon)
    (hf : ∀ y0 : State, y0.Canon → Res.Canon (f y0)) : State.Canon (s.after f) := by
  unfold State.after
  repeat' first
    | with_reducible assumption | with_reducible apply hf | with_reducible refine canon_outcome (by assumption) ?_
    | split

theorem State.symIn_canon {s : State} {p : Fin 16} {l : Fin 4} {y : Nat} (hs : s.Canon) : State.Canon
    (s.symIn p l y) := by
  unfold State.symIn
  repeat' first
    | with_reducible assumption | (extract_lets +onlyGivenNames x; clear_value x)
    | with_reducible apply State.after_canon | with_reducible apply execHeartbeat_canon
    | with_reducible apply execPlumbUp_canon | with_reducible apply execPlumbDown_canon
    | with_reducible apply execSever_canon | with_reducible apply execStopNotice_canon
    | with_reducible apply execCaps_canon | with_reducible apply execRateReq_canon
    | with_reducible apply execRateAck_canon | with_reducible apply State.nakIn_canon
    | with_reducible apply State.heard_canon | with_reducible apply execNeighbor_canon
    | with_reducible apply execPstate_canon | with_reducible apply execSearch_canon
    | with_reducible apply execCount_canon | with_reducible apply execCommit_canon
    | with_reducible apply execCommitAck_canon | with_reducible apply execAbort_canon
    | with_reducible apply execTree_canon | with_reducible apply execTreeAck_canon
    | with_reducible apply execBusToken_canon | with_reducible apply execTime_canon
    | with_reducible apply execCheck_canon | with_reducible apply execFired_canon
    | with_reducible apply execGo_canon | split

theorem State.symbols_canon {s : State} {p : Fin 16} {l : Fin 4} {b : Nat} (hs : s.Canon) : State.Canon
    (s.symbols p l b) := by
  unfold State.symbols
  with_reducible repeat' first | assumption | intro _ | apply State.symIn_canon | apply canon_foldl

theorem State.setRxOpen_canon {s : State} {p : Nat} {c : Option (Nat × List Bool)} (hs : s.Canon) : State.Canon
    (s.setRxOpen p c) := by
  unfold State.setRxOpen
  repeat' first
    | with_reducible assumption | simp only [canon_update]

theorem State.streamFrame_canon {s : State} {p : Fin 16} {bits : List Bool} (hs : s.Canon) : State.Canon
    (s.streamFrame p bits) := by
  unfold State.streamFrame
  with_reducible repeat' first | assumption | apply State.after_canon | apply execMortarFrame_canon | apply canon_ite

theorem State.streamTake_canon {s : State} {p : Fin 16} {b : RxBlock} (hs : s.Canon) : State.Canon
    (s.streamTake p b) := by
  unfold State.streamTake
  repeat' first
    | with_reducible assumption | with_reducible intro _ | with_reducible apply State.streamFrame_canon
    | with_reducible apply State.setRxOpen_canon | with_reducible apply State.streamError_canon
    | with_reducible apply canon_foldl | with_reducible apply canon_ite | simp only [canon_update]

theorem State.streamRun_canon {s : State} {p : Fin 16} {a : Nat} (hs : s.Canon) : State.Canon (s.streamRun p a) :=
    by
  fun_induction s.streamRun p a
  all_goals repeat' first
    | with_reducible intro _ | with_reducible apply_assumption | with_reducible apply State.streamTake_canon
    | with_reducible apply canon_foldl | split

theorem State.mortarBlock_canon {s : State} {p : Fin 16} {l : Fin 4} {slot b : Nat} (hs : s.Canon) : State.Canon
    (s.mortarBlock p l slot b) := by
  unfold State.mortarBlock
  repeat' first
    | with_reducible assumption | with_reducible apply State.streamRun_canon | with_reducible apply canon_ite
    | simp only [canon_update]

theorem State.blockIn_canon {s : State} {p : Fin 16} {l : Fin 4} {b : Nat} (hs : s.Canon) : State.Canon
    (s.blockIn p l b) := by
  unfold State.blockIn
  with_reducible repeat' first
    | assumption | apply State.enterPs_canon | apply State.wr_canon | apply State.mortarBlock_canon
    | apply State.symbols_canon | apply State.cnt_canon | apply canon_ite

theorem State.nrzBlock_canon {s : State} {p : Fin 16} {l : Fin 4} {b : Nat} {replay : Bool} (hs : s.Canon) :
    State.Canon (s.nrzBlock p l b replay) := by
  unfold State.nrzBlock
  repeat' first
    | with_reducible assumption | with_reducible apply State.blockIn_canon | with_reducible apply State.wr_canon
    | with_reducible apply State.cnt_canon | with_reducible apply State.portDown_canon
    | with_reducible apply canon_ite | simp only [canon_update]

theorem State.pamBlock_canon {s : State} {p : Fin 16} {l : Fin 4} {c : Nat} (hs : s.Canon) : State.Canon
    (s.pamBlock p l c) := by
  unfold State.pamBlock
  repeat' first
    | with_reducible assumption | with_reducible apply State.portDown_canon | with_reducible apply State.cnt_canon
    | with_reducible apply State.blockIn_canon | split

theorem execSkinkBlock_canon {port : Fin 16} {lane : Fin 4} {bits : BitVec 280} {replay : Bool} {s : State}
    (hs : s.Canon) : Res.Canon (execSkinkBlock port lane bits replay s) := by
  unfold execSkinkBlock
  with_reducible repeat' first
    | assumption | intro _ | apply State.live_canon | apply State.nrzBlock_canon | apply State.pamBlock_canon
    | apply canon_next | apply canon_ite

/-! ### Queues -/

theorem State.qFlushNow_canon {s : State} {q : Nat} (hs : s.Canon) : State.Canon (s.qFlushNow q) := by
  unfold State.qFlushNow
  repeat' first
    | with_reducible apply State.qFlushed_canon
    | with_reducible assumption | with_reducible apply State.qCheck_canon | with_reducible apply State.wf_canon
    | with_reducible apply State.qMark_canon | with_reducible apply canon_ite | simp only [canon_update]

theorem State.qRoom_canon {s : State} {q : Nat} (hs : s.Canon) : State.Canon (s.qRoom q) := by
  unfold State.qRoom
  with_reducible repeat' first | assumption | apply State.qMakeRoom_canon | apply canon_ite

theorem State.qPush_canon {s : State} {q producer word : Nat} {last : Bool} (hs : s.Canon) : State.Canon
    (s.qPush q producer word last).2 := by
  unfold State.qPush
  split
  · exact hs
  · split
    · exact hs
    · split
      · exact hs
      · extract_lets s1 mine ws closed p rest
        have h1 : s1.Canon := State.qRoom_canon (State.qCheck_canon hs)
        split
        · exact h1
        · exact canon_update.2 h1

theorem State.qWord_canon {s : State} {q w : Nat} (hs : s.Canon) : State.Canon (s.qWord q w) := by
  unfold State.qWord
  with_reducible repeat' first | assumption | apply State.cnt_canon | apply canon_ite

theorem State.qTake_canon {s : State} {q : Nat} (hs : s.Canon) : State.Canon (s.qTake q).2 := by
  unfold State.qTake
  repeat' first
    | with_reducible assumption | with_reducible apply State.qMark_canon
    | with_reducible apply State.qFlushNow_canon | with_reducible apply State.qWord_canon | split
    | simp only [canon_update]

theorem State.qPop_canon {s : State} {q : Nat} (hs : s.Canon) : State.Canon (s.qPop q).2 := by
  unfold State.qPop
  repeat' first
    | with_reducible assumption | with_reducible apply State.qTake_canon | with_reducible apply State.qCheck_canon
    | split

theorem State.qReadable_canon {s : State} {q : Nat} (hs : s.Canon) : State.Canon (s.qReadable q) := by
  unfold State.qReadable
  repeat' first
    | with_reducible assumption | with_reducible apply State.raise_canon | with_reducible apply canon_ite
    | simp only [canon_update]

theorem execPacketReadable_canon {die : Fin 8} {q : Fin 128} {s : State} (hs : s.Canon) : Res.Canon
    (execPacketReadable die q s) := by
  unfold execPacketReadable
  with_reducible repeat' first
    | assumption | intro _ | apply State.live_canon | apply State.qReadable_canon | apply canon_next

theorem State.qCfgWrite_canon {s : State} {who : Who} {q v : Nat} (hs : s.Canon) : State.Canon (s.qCfgWrite who q v)
    := by
  unfold State.qCfgWrite
  with_reducible repeat' first
    | assumption | apply State.deny_canon | apply State.okay_canon | apply State.wf_canon | apply State.wr_canon
    | apply canon_ite

theorem execQueueCfgWrite_canon {who : Who} {die : Fin 8} {q : Fin 128} {val : Word} {s : State} (hs : s.Canon) :
    Res.Canon (execQueueCfgWrite who die q val s) := by
  unfold execQueueCfgWrite
  with_reducible repeat' first
    | assumption | intro _ | apply State.access_canon | apply State.qCfgWrite_canon | apply canon_next

theorem State.qEnable_canon {s : State} {q : Nat} (hs : s.Canon) : State.Canon (s.qEnable q) := by
  unfold State.qEnable
  with_reducible repeat' first | assumption | apply State.wf_canon | apply canon_ite

theorem State.qDisable_canon {s : State} {q : Nat} (hs : s.Canon) : State.Canon (s.qDisable q) := by
  unfold State.qDisable
  with_reducible repeat' first
    | assumption | apply State.wf_canon | apply State.qEmpty_canon | apply State.qCheck_canon | apply canon_ite

theorem execQueueEnable_canon {who : Who} {die : Fin 8} {q : Fin 128} {s : State} (hs : s.Canon) : Res.Canon
    (execQueueEnable who die q s) := by
  unfold execQueueEnable
  with_reducible repeat' first
    | assumption | intro _ | apply State.access_canon | apply State.okay_canon | apply State.qEnable_canon
    | apply State.deny_canon | apply canon_next | apply canon_ite

theorem execQueueDisable_canon {who : Who} {die : Fin 8} {q : Fin 128} {s : State} (hs : s.Canon) : Res.Canon
    (execQueueDisable who die q s) := by
  unfold execQueueDisable
  with_reducible repeat' first
    | assumption | intro _ | apply State.access_canon | apply State.okay_canon | apply State.qDisable_canon
    | apply State.deny_canon | apply canon_next | apply canon_ite

theorem State.qFlush_canon {s : State} {q : Nat} (hs : s.Canon) : State.Canon (s.qFlush q) := by
  unfold State.qFlush
  with_reducible repeat' first | assumption | apply State.qFlushNow_canon | apply State.wf_canon

theorem execFlush_canon {who : Who} {die : Fin 8} {q : Fin 128} {s : State} (hs : s.Canon) : Res.Canon
    (execFlush who die q s) := by
  unfold execFlush
  with_reducible repeat' first
    | assumption | intro _ | apply State.access_canon | apply State.okay_canon | apply State.qFlush_canon
    | apply State.deny_canon | apply canon_next | apply canon_ite

theorem State.qReset_canon {s : State} {q : Nat} (hs : s.Canon) : State.Canon (s.qReset q) := by
  unfold State.qReset
  with_reducible repeat' first | assumption | apply State.qCheck_canon | apply State.qEmpty_canon | apply canon_ite

theorem execQueueReset_canon {who : Who} {die : Fin 8} {q : Fin 128} {s : State} (hs : s.Canon) : Res.Canon
    (execQueueReset who die q s) := by
  unfold execQueueReset
  with_reducible repeat' first
    | assumption | intro _ | apply State.access_canon | apply State.okay_canon | apply State.qReset_canon
    | apply State.deny_canon | apply canon_next | apply canon_ite

theorem State.qCtrlWrite_canon {s : State} {who : Who} {q v : Nat} (hs : s.Canon) : State.Canon
    (s.qCtrlWrite who q v) := by
  unfold State.qCtrlWrite
  with_reducible repeat' first
    | assumption | apply State.deny_canon | apply State.qEnable_canon | apply State.qDisable_canon
    | apply State.wf_canon | apply State.qReset_canon | apply State.okay_canon | apply State.qFlush_canon
    | apply canon_ite

theorem State.accBit_canon {s : State} {who : Who} {q b v : Nat} (hs : s.Canon) : State.Canon (s.accBit who q b v)
    := by
  unfold State.accBit
  with_reducible repeat' first | assumption | apply State.wr_canon

theorem State.hostPop_canon {s : State} {who : Who} {q : Nat} (hs : s.Canon) : State.Canon (s.hostPop who q) := by
  unfold State.hostPop
  with_reducible repeat' first
    | assumption | apply State.deny_canon | apply State.accBit_canon | apply State.qPop_canon
    | apply State.ans_canon | apply State.wr_canon | apply canon_ite

theorem execQueuePop_canon {who : Who} {die : Fin 8} {q : Fin 128} {s : State} (hs : s.Canon) : Res.Canon
    (execQueuePop who die q s) := by
  unfold execQueuePop
  with_reducible repeat' first
    | assumption | intro _ | apply State.access_canon | apply State.hostPop_canon | apply canon_next

theorem State.hostPush_canon {s : State} {who : Who} {q hi : Nat} (hs : s.Canon) : State.Canon (s.hostPush who q hi)
    := by
  unfold State.hostPush
  with_reducible repeat' first
    | assumption | apply State.wr_canon | apply State.deny_canon | apply State.accBit_canon
    | apply State.qPush_canon | apply State.okay_canon | apply canon_ite

theorem execQueuePush_canon {who : Who} {die : Fin 8} {q : Fin 128} {hi : Word} {s : State} (hs : s.Canon) :
    Res.Canon (execQueuePush who die q hi s) := by
  unfold execQueuePush
  with_reducible repeat' first
    | assumption | intro _ | apply State.access_canon | apply State.hostPush_canon | apply canon_next

theorem State.qHoldLo_canon {s : State} {who : Who} {q lo : Nat} (hs : s.Canon) : State.Canon (s.qHoldLo who q lo)
    := by
  unfold State.qHoldLo
  with_reducible repeat' first | assumption | apply State.okay_canon | apply State.wr_canon

theorem State.qReadHi_canon {s : State} {who : Who} {q : Nat} (hs : s.Canon) : State.Canon (s.qReadHi who q) := by
  unfold State.qReadHi
  with_reducible repeat' first | assumption | apply State.ans_canon | apply State.wr_canon | apply canon_ite

theorem State.dropOpen_canon {s : State} {producer : Nat} (hs : s.Canon) : State.Canon (s.dropOpen producer) := by
  unfold State.dropOpen
  repeat' first
    | with_reducible assumption | with_reducible intro _ | with_reducible apply State.qCheck_canon
    | with_reducible apply canon_foldl | simp only [canon_update]

/-! ### Periph -/

theorem State.txPop_canon {s : State} {z1 : Nat} (hs : s.Canon) : State.Canon (s.txPop z1).2 := by
  unfold State.txPop
  repeat' first
    | with_reducible assumption | with_reducible apply State.qPop_canon | split

theorem State.rxPush_canon {s : State} {z1 w : Nat} (hs : s.Canon) : State.Canon (s.rxPush z1 w).2 := by
  unfold State.rxPush
  repeat' first
    | with_reducible assumption | with_reducible apply State.qPush_canon | split

theorem State.uartSend_canon {s : State} {u : Nat} (hs : s.Canon) : State.Canon (s.uartSend u) := by
  unfold State.uartSend
  repeat' first
    | with_reducible assumption | with_reducible apply State.txPop_canon
    | with_reducible refine canon_snd (by assumption) ?_ | split | simp only [canon_update]

theorem execUartTransmit_canon {u : Fin 2} {s : State} (hs : s.Canon) : Res.Canon (execUartTransmit u s) := by
  unfold execUartTransmit
  with_reducible repeat' first
    | assumption | intro _ | apply State.live_canon | apply State.uartSend_canon | apply canon_next

theorem State.uartTake_canon {s : State} {u byte : Nat} {framing brk : Bool} (hs : s.Canon) : State.Canon
    (s.uartTake u byte framing brk) := by
  unfold State.uartTake
  with_reducible repeat' first | assumption | apply State.rxPush_canon | apply State.cnt_canon | apply canon_ite

theorem execUartReceive_canon {u : Fin 2} {byte : Byte} {framing brk : Bool} {s : State} (hs : s.Canon) : Res.Canon
    (execUartReceive u byte framing brk s) := by
  unfold execUartReceive
  with_reducible repeat' first
    | assumption | intro _ | apply State.live_canon | apply State.uartTake_canon | apply canon_ite | apply canon_next

theorem State.i2cDiscard_canon {s : State} {k a : Nat} (hs : s.Canon) : State.Canon (s.i2cDiscard k a) := by
  induction a generalizing s with
  | zero => exact hs
  | succ m ih =>
    unfold State.i2cDiscard
    split
    · split
      · rename_i h
        have c := canon_snd h (State.txPop_canon hs)
        exact canon_ite (State.wr_canon c) (ih c)
      · rename_i h
        exact canon_snd h (State.txPop_canon hs)
    · exact hs

theorem State.i2cRun_canon {s : State} {k : Nat} {lost : Bool} {f : Nat → State → Nat × State} (hs : s.Canon)
    (hf : ∀ y0 : Nat, ∀ y1 : State, y1.Canon → State.Canon (f y0 y1).2) : State.Canon (s.i2cRun k lost f) := by
  unfold State.i2cRun
  repeat' first
    | with_reducible assumption | with_reducible apply hf | with_reducible apply State.i2cDiscard_canon
    | with_reducible apply State.txPop_canon | with_reducible apply State.rxPush_canon
    | with_reducible apply State.wr_canon | with_reducible refine canon_snd (by assumption) ?_ | split
    | simp only [canon_update]

theorem execI2cCommand_canon {k : Fin 4} {byteIn : Byte} {nack arbLost : Bool} {s : State} (hs : s.Canon) :
    Res.Canon (execI2cCommand k byteIn nack arbLost s) := by
  unfold execI2cCommand
  with_reducible repeat' first
    | assumption | intro _ | apply State.live_canon | apply State.i2cRun_canon | apply canon_next

theorem execSmbusTimeout_canon {k : Fin 4} {s : State} (hs : s.Canon) : Res.Canon (execSmbusTimeout k s) := by
  unfold execSmbusTimeout
  repeat' first
    | with_reducible assumption | with_reducible intro _ | with_reducible apply State.live_canon
    | with_reducible apply State.i2cRun_canon | with_reducible apply State.free_canon
    | with_reducible apply canon_next | with_reducible refine canon_snd (by assumption) ?_ | split

theorem execSpiTransfer_canon {k : Fin 4} {miso : Word} {s : State} (hs : s.Canon) : Res.Canon
    (execSpiTransfer k miso s) := by
  unfold execSpiTransfer
  repeat' first
    | with_reducible assumption | with_reducible intro _ | with_reducible apply State.live_canon
    | with_reducible apply State.txPop_canon | with_reducible apply State.rxPush_canon
    | with_reducible apply canon_next | with_reducible refine canon_snd (by assumption) ?_ | split
    | simp only [canon_update]

/-! ### HostOps -/

theorem State.funcReset_canon {s : State} {f : Nat} (hs : s.Canon) : State.Canon (s.funcReset f) := by
  unfold State.funcReset
  repeat' first
    | with_reducible assumption | with_reducible intro _ | with_reducible apply State.drop_canon
    | with_reducible apply State.wr_canon | with_reducible apply State.dropOpen_canon
    | with_reducible apply canon_foldl | simp only [canon_update]

theorem State.endpointReset_canon {s : State} (hs : s.Canon) : State.Canon (s.endpointReset) := by
  unfold State.endpointReset
  with_reducible repeat' first | assumption | intro _ | apply State.each_canon | apply State.funcReset_canon

/-! ### Transmit -/

theorem State.takeSyms_canon {s : State} {p l a : Nat} (hs : s.Canon) : State.Canon (s.takeSyms p l a).2 := by
  fun_induction s.takeSyms p l a
  all_goals with_reducible repeat' first | apply_assumption | refine canon_snd (by assumption) ?_

theorem State.serviceBlock_canon {s : State} {p l : Nat} (hs : s.Canon) : State.Canon (s.serviceBlock p l).2 := by
  unfold State.serviceBlock
  repeat' first
    | with_reducible assumption | with_reducible apply State.takeSyms_canon | with_reducible apply State.free_canon
    | with_reducible apply State.wr_canon | with_reducible refine canon_snd (by assumption) ?_ | split
    | simp only [canon_update]

theorem State.mortarOut_canon {s : State} {p l rate : Nat} (hs : s.Canon) : State.Canon (s.mortarOut p l rate).2 :=
    by
  unfold State.mortarOut
  repeat' first
    | with_reducible assumption | split | simp only [canon_update]

theorem State.alignBlocks_canon {s : State} {p l : Nat} (hs : s.Canon) : State.Canon (s.alignBlocks p l) := by
  unfold State.alignBlocks
  repeat' first
    | with_reducible assumption | (intro _) | with_reducible apply State.wr_canon | with_reducible apply canon_ite
    | split | simp only [canon_update]

theorem State.firstBlock_canon {s : State} {p l : Nat} (hs : s.Canon) : State.Canon (s.firstBlock p l) := by
  unfold State.firstBlock
  repeat' first
    | with_reducible apply State.alignBlocks_canon
    | with_reducible assumption | with_reducible apply State.wr_canon | split

theorem State.capsDue_canon {s : State} {p l : Nat} (hs : s.Canon) : State.Canon (s.capsDue p l) := by
  unfold State.capsDue
  repeat' first
    | with_reducible assumption | with_reducible apply canon_ite | simp only [canon_update]

theorem State.formBlock_canon {s : State} {p l : Nat} (hs : s.Canon) : State.Canon (s.formBlock p l) := by
  unfold State.formBlock
  repeat' first
    | with_reducible assumption | with_reducible apply State.capsDue_canon
    | with_reducible apply State.serviceBlock_canon | with_reducible apply State.mortarOut_canon
    | with_reducible apply State.wr_canon | with_reducible apply canon_ite | split | simp only [canon_update]

theorem State.formBlocks_canon {s : State} {p : Nat} (hs : s.Canon) : State.Canon (s.formBlocks p) := by
  unfold State.formBlocks
  dsimp only
  with_reducible repeat' first | assumption | intro _ | apply State.formBlock_canon | apply canon_ite | apply canon_foldl

theorem State.emit_canon {s : State} {p l : Nat} {w : LineWord} (hs : s.Canon) : State.Canon (s.emit p l w) := by
  unfold State.emit
  repeat' first
    | with_reducible assumption | simp only [canon_update]

theorem State.sendBlock_canon {s : State} {p l : Nat} (hs : s.Canon) : State.Canon (s.sendBlock p l) := by
  unfold State.sendBlock
  repeat' first
    | with_reducible assumption | with_reducible apply State.emit_canon | split | simp only [canon_update]

theorem State.sendTraining_canon {s : State} {p l : Nat} (hs : s.Canon) : State.Canon (s.sendTraining p l) := by
  unfold State.sendTraining
  with_reducible repeat' first
    | assumption | apply State.wr_canon | apply State.emit_canon | apply State.firstBlock_canon
    | apply State.free_canon | apply canon_ite

theorem State.laneOut_canon {s : State} {p l : Nat} (hs : s.Canon) : State.Canon (s.laneOut p l) := by
  unfold State.laneOut
  with_reducible repeat' first
    | assumption | apply State.sendBlock_canon | apply State.sendTraining_canon | apply State.emit_canon
    | apply canon_ite

theorem State.transmit_canon {s : State} (hs : s.Canon) : State.Canon (s.transmit) := by
  unfold State.transmit
  repeat' first
    | with_reducible assumption | with_reducible intro _ | with_reducible apply State.each_canon
    | with_reducible apply State.laneOut_canon | with_reducible apply State.formBlocks_canon
    | with_reducible apply canon_foldl | with_reducible apply canon_ite | simp only [canon_update]

end Sys2Proof.Machine
end

