-- ==== Sys2Proof/Laws/CanonDevice.lean ====
section
/-! SUPPORT. Every operation keeps the canonical form of the stores (`State.Canon`): power, Newt, cores, HBM and the control network. -/

namespace Sys2Proof.Machine

open Reg

/-! ### Power -/

theorem State.voltReq_canon {s : State} {t : Nat} (hs : s.Canon) : State.Canon (s.voltReq t) := by
  unfold State.voltReq
  with_reducible repeat' first | assumption | apply State.wf_canon

theorem State.plAsk_canon {s : State} {who : Who} {t : Nat} (hs : s.Canon) : State.Canon (s.plAsk who t) := by
  unfold State.plAsk
  with_reducible repeat' first
    | assumption | intro _ | apply State.wf_canon | apply State.deny_canon | apply State.okay_canon
    | apply State.wr_canon | apply State.addCause_canon | apply canon_foldl | apply canon_ite

theorem execPlChangeRequest_canon {who : Who} {target : BitVec 2} {s : State} (hs : s.Canon) : Res.Canon
    (execPlChangeRequest who target s) := by
  unfold execPlChangeRequest
  with_reducible repeat' first
    | assumption | intro _ | apply State.access_canon | apply State.plAsk_canon | apply canon_next

theorem execPlChangeFrozen_canon {s : State} (hs : s.Canon) : Res.Canon (execPlChangeFrozen s) := by
  unfold execPlChangeFrozen
  with_reducible repeat' first
    | assumption | intro _ | apply State.live_canon | apply State.wr_canon | apply State.raise_canon
    | apply State.voltReq_canon | apply canon_next | apply canon_ite

theorem State.plEnd_canon {s : State} {result : Nat} (hs : s.Canon) : State.Canon (s.plEnd result) := by
  unfold State.plEnd
  with_reducible repeat' first
    | assumption | intro _ | apply State.wr_canon | apply State.wf_canon | apply State.each_canon
    | apply State.dropCause_canon | apply State.capacityFell_canon | apply State.warm_canon | apply canon_ite

theorem State.voltAck_canon {s : State} (hs : s.Canon) : State.Canon (s.voltAck) := by
  unfold State.voltAck
  with_reducible repeat' first | assumption | apply State.wf_canon | apply State.wr_canon | apply canon_ite

theorem execVoltDone_canon {who : Who} {s : State} (hs : s.Canon) : Res.Canon (execVoltDone who s) := by
  unfold execVoltDone
  with_reducible repeat' first
    | assumption | intro _ | apply State.access_canon | apply State.okay_canon | apply State.voltAck_canon
    | apply State.deny_canon | apply canon_next | apply canon_ite

theorem execVoltageTimeout_canon {s : State} (hs : s.Canon) : Res.Canon (execVoltageTimeout s) := by
  unfold execVoltageTimeout
  with_reducible repeat' first
    | assumption | intro _ | apply State.live_canon | apply State.plEnd_canon | apply State.wf_canon
    | apply canon_next | apply canon_ite

theorem execPllRelock_canon {s : State} (hs : s.Canon) : Res.Canon (execPllRelock s) := by
  unfold execPllRelock
  with_reducible repeat' first
    | assumption | intro _ | apply State.live_canon | apply State.plEnd_canon | apply State.wf_canon
    | apply State.voltReq_canon | apply canon_next | apply canon_ite

theorem execRefclkLost_canon {s : State} (hs : s.Canon) : Res.Canon (execRefclkLost s) := by
  unfold execRefclkLost
  with_reducible repeat' first
    | assumption | intro _ | apply State.aon_canon | apply State.wf_canon | apply State.wr_canon | apply canon_next

theorem State.domOff_canon {s : State} {die dom : Nat} (hs : s.Canon) : State.Canon (s.domOff die dom) := by
  unfold State.domOff
  with_reducible repeat' first
    | assumption | intro _ | apply State.snoop_canon | apply State.drop_canon | apply State.wr_canon
    | apply canon_foldl | apply canon_ite

theorem State.domAsk_canon {s : State} {v die dom : Nat} (hs : s.Canon) : State.Canon (s.domAsk v die dom) := by
  unfold State.domAsk
  with_reducible repeat' first
    | assumption | apply State.wr_canon | apply State.wf_canon | apply State.domOff_canon | apply canon_ite

theorem State.domWrite_canon {s : State} {v : Nat} (hs : s.Canon) : State.Canon (s.domWrite v) := by
  unfold State.domWrite
  with_reducible repeat' first | assumption | intro _ | apply State.each_canon | apply State.domAsk_canon

theorem execDomainCtrlWrite_canon {who : Who} {val : Word} {s : State} (hs : s.Canon) : Res.Canon
    (execDomainCtrlWrite who val s) := by
  unfold execDomainCtrlWrite
  with_reducible repeat' first
    | assumption | intro _ | apply State.access_canon | apply State.okay_canon | apply State.domWrite_canon
    | apply State.deny_canon | apply canon_next | apply canon_ite

theorem execDomainPowerUp_canon {die : Fin 8} {dom : Fin 3} {s : State} (hs : s.Canon) : Res.Canon
    (execDomainPowerUp die dom s) := by
  unfold execDomainPowerUp
  with_reducible repeat' first
    | assumption | intro _ | apply State.live_canon | apply State.domUp_canon | apply canon_next | apply canon_ite

theorem State.sleepBegin_canon {s : State} {slumber : Bool} (hs : s.Canon) : State.Canon (s.sleepBegin slumber) :=
    by
  unfold State.sleepBegin
  with_reducible repeat' first
    | apply State.drop_canon | apply canon_ite
    | assumption | apply State.wf_canon | apply State.wr_canon

theorem State.pwrFields_canon {s : State} {v : Nat} (hs : s.Canon) : State.Canon (s.pwrFields v) := by
  unfold State.pwrFields
  with_reducible repeat' first | assumption | apply State.wf_canon

theorem State.sleepAsk_canon {s : State} {slumber : Bool} {v : Nat} (hs : s.Canon) : State.Canon
    (s.sleepAsk slumber v) := by
  unfold State.sleepAsk
  with_reducible repeat' first
    | assumption | apply State.pwrFields_canon | apply State.wf_canon | apply State.sleepBegin_canon
    | apply canon_ite

theorem State.denySleep_canon {s : State} (hs : s.Canon) : State.Canon (s.denySleep) := by
  unfold State.denySleep
  with_reducible repeat' first | assumption | apply State.deny_canon | apply State.wf_canon

theorem execPark_canon {who : Who} {val : Word} {s : State} (hs : s.Canon) : Res.Canon (execPark who val s) := by
  unfold execPark
  with_reducible repeat' first
    | assumption | intro _ | apply State.access_canon | apply State.okay_canon | apply State.sleepAsk_canon
    | apply State.denySleep_canon | apply canon_next | apply canon_ite

theorem execSlumber_canon {who : Who} {val : Word} {s : State} (hs : s.Canon) : Res.Canon (execSlumber who val s) :=
    by
  unfold execSlumber
  with_reducible repeat' first
    | assumption | intro _ | apply State.access_canon | apply State.okay_canon | apply State.sleepAsk_canon
    | apply State.denySleep_canon | apply canon_next | apply canon_ite

theorem execCancel_canon {who : Who} {s : State} (hs : s.Canon) : Res.Canon (execCancel who s) := by
  unfold execCancel
  with_reducible repeat' first
    | assumption | intro _ | apply State.accessAs_canon | apply State.okay_canon
    | apply State.deny_canon | apply canon_next | apply canon_ite

theorem State.dropEntry_canon {s : State} (hs : s.Canon) : State.Canon (s.dropEntry) := by
  unfold State.dropEntry
  with_reducible repeat' first | assumption | apply State.wf_canon

theorem State.portsBack_canon {s : State} (hs : s.Canon) : State.Canon (s.portsBack) := by
  unfold State.portsBack
  with_reducible repeat' first
    | assumption | intro _ | apply State.drop_canon | apply State.each_canon | apply State.wakePort_canon
    | apply canon_ite

theorem State.undoEntry_canon {s : State} {result : Nat} (hs : s.Canon) : State.Canon (s.undoEntry result) := by
  unfold State.undoEntry
  repeat' first
    | with_reducible assumption | with_reducible apply State.portsBack_canon | with_reducible apply State.wr_canon
    | with_reducible apply State.wf_canon | with_reducible apply State.releaseHeld_canon
    | with_reducible apply State.dropEntry_canon | simp only [canon_update]

theorem State.abandon_canon {s : State} {point result : Nat} (hs : s.Canon) : State.Canon (s.abandon point result)
    := by
  unfold State.abandon
  with_reducible repeat' first | assumption | apply State.wr_canon | apply State.undoEntry_canon

theorem State.tamper_canon {s : State} {z1 : Nat} (hs : s.Canon) : State.Canon (s.tamper z1) := by
  unfold State.tamper
  extract_lets s1 src
  have h1 : s1.Canon := State.orf_canon hs
  have h2 : src.Canon := State.wr_canon (State.wipeVault_canon (State.wipeKeyRam_canon h1))
  exact canon_ite hs (canon_ite (canon_ite (State.wf_canon (State.wipeKeyRam_canon hs)) hs)
    (canon_ite ⟨h2.1, rfl⟩ (State.tamperFull_canon (canon_ite (State.undoEntry_canon h1) h1))))

theorem execTamperDetect_canon {source : Fin 4} {s : State} (hs : s.Canon) : Res.Canon (execTamperDetect source s)
    := by
  unfold execTamperDetect
  with_reducible repeat' first | assumption | apply State.tamper_canon | apply canon_next

theorem State.portTo_canon {s : State} {p st : Nat} (hs : s.Canon) : State.Canon (s.portTo p st) := by
  unfold State.portTo
  with_reducible repeat' first
    | assumption | apply State.wakePort_canon | apply State.enterPs_canon | apply State.wr_canon
    | apply State.sendSym_canon | apply canon_ite

theorem State.portsTo_canon {s : State} {st : Nat} (hs : s.Canon) : State.Canon (s.portsTo st) := by
  unfold State.portsTo
  with_reducible repeat' first | assumption | intro _ | apply State.each_canon | apply State.portTo_canon

theorem State.parkNow_canon {s : State} (hs : s.Canon) : State.Canon (s.parkNow) := by
  unfold State.parkNow
  with_reducible repeat' first
    | assumption | apply State.wr_canon | apply State.wf_canon | apply State.dropEntry_canon
    | apply State.latchPads_canon | apply State.portsTo_canon

theorem execDrainEnd_canon {s : State} (hs : s.Canon) : Res.Canon (execDrainEnd s) := by
  unfold execDrainEnd
  with_reducible repeat' first
    | assumption | intro _ | apply State.live_canon | apply State.abandon_canon | apply State.parkNow_canon
    | apply State.wf_canon | apply canon_next | apply canon_ite

theorem execDrainTimeout_canon {s : State} (hs : s.Canon) : Res.Canon (execDrainTimeout s) := by
  unfold execDrainTimeout
  with_reducible repeat' first
    | assumption | intro _ | apply State.live_canon | apply State.abandon_canon | apply canon_next | apply canon_ite

theorem State.saveDesign_canon {s : State} (hs : s.Canon) : State.Canon (s.saveDesign) := by
  unfold State.saveDesign
  repeat' first
    | with_reducible assumption | with_reducible intro _ | with_reducible apply State.each_canon
    | with_reducible apply State.newtSettle_canon | with_reducible apply State.drop_canon
    | with_reducible apply State.wr_canon | with_reducible apply canon_ite | simp only [canon_update]

theorem State.saveRegs_canon {s : State} (hs : s.Canon) : State.Canon (s.saveRegs) := by
  unfold State.saveRegs
  repeat' first
    | with_reducible assumption | simp only [canon_update]

theorem State.hbmWake_canon {s : State} {die kept : Nat} (hs : s.Canon) : State.Canon (s.hbmWake die kept) := by
  unfold State.hbmWake
  extract_lets lost s1 gone t u
  have h1 : s1.Canon := State.wf_canon (State.wf_canon (State.wf_canon hs))
  clear_value s1
  have ht : t.Canon := canon_memFilter (s := s1) rfl rfl h1
  have hu : u.Canon := State.drop_canon (State.drop_canon ht)
  exact canon_ite h1 (canon_ite (State.wf_canon (State.wr_canon hu)) (State.wr_canon (State.drop_canon h1)))

theorem State.noteWake_canon {s : State} {source frm index : Nat} (hs : s.Canon) : State.Canon
    (s.noteWake source frm index) := by
  unfold State.noteWake
  with_reducible repeat' first | assumption | apply State.wr_canon

theorem State.leavePark_canon {s : State} {source index : Nat} (hs : s.Canon) : State.Canon
    (s.leavePark source index) := by
  unfold State.leavePark
  with_reducible repeat' first
    | apply State.portsBack_canon | apply State.padsOut_canon
    | assumption | intro _ | apply State.each_canon | apply State.noteWake_canon | apply State.wr_canon
    | apply State.wakePort_canon | apply State.releaseHeld_canon | apply State.releaseBank_canon

theorem State.copyState_canon {s : State} (hs : s.Canon) : State.Canon (s.copyState) := by
  unfold State.copyState
  with_reducible repeat' first | assumption | intro _ | apply State.wr_canon | apply canon_foldl

theorem State.wakeDone_canon {s : State} (hs : s.Canon) : State.Canon (s.wakeDone) := by
  unfold State.wakeDone
  with_reducible repeat' first
    | assumption | intro _ | apply State.each_canon | apply State.copyState_canon | apply State.bumpEpochs_canon
    | apply State.clearPorts_canon | apply State.taskWait_canon | apply State.sealClosed_canon
    | apply State.wakePort_canon | apply State.releaseHeld_canon | apply State.raise_canon | apply State.wf_canon
    | apply canon_foldl | apply canon_ite

theorem State.leaveSlumber_canon {s : State} {source index : Nat} (hs : s.Canon) : State.Canon
    (s.leaveSlumber source index) := by
  unfold State.leaveSlumber
  extract_lets t0 t1 t2 t3 t4 t5 t6 t7
  have h0 : t0.Canon := State.clearTo_canon hs
  clear_value t0
  have h1 : t1.Canon := ⟨h0.1, hs.2⟩
  clear_value t1
  have h2 : t2.Canon := State.each_canon h1 fun t h d => State.hbmWake_canon h
  clear_value t2
  have h3 : t3.Canon := State.wr_canon (State.strap_canon (State.putBack_canon h2))
  clear_value t3
  have h4 : t4.Canon := State.each_canon (State.putBack_canon h3) fun t h b => State.wf_canon h
  clear_value t4
  have h5 : t5.Canon := State.each_canon h4 fun t h d => State.wr_canon (State.wr_canon h)
  clear_value t5
  have h6 : t6.Canon := State.wr_canon h5
  clear_value t6
  have h7 : t7.Canon := State.wf_canon (State.noteWake_canon (State.wr_canon h6))
  exact canon_ite (State.wf_canon h7) (State.wakeDone_canon h7)

theorem execDesignRestoreDone_canon {s : State} (hs : s.Canon) : Res.Canon (execDesignRestoreDone s) := by
  unfold execDesignRestoreDone
  with_reducible repeat' first
    | assumption | intro _ | apply State.live_canon | apply State.wakeDone_canon | apply canon_next
    | apply canon_ite

theorem State.wake_canon {s : State} {source index : Nat} (hs : s.Canon) : State.Canon (s.wake source index) := by
  unfold State.wake
  repeat' first
    | with_reducible assumption | with_reducible apply State.leavePark_canon
    | with_reducible apply State.leaveSlumber_canon | with_reducible apply State.wakePend_canon | split

theorem State.slumberNow_canon {s : State} (hs : s.Canon) : State.Canon (s.slumberNow) := by
  unfold State.slumberNow
  with_reducible repeat' first
    | apply State.endpointReset_canon
    | assumption | intro _ | apply State.snoop_canon | apply State.wr_canon | apply State.wf_canon
    | apply State.dropEntry_canon | apply State.latchPads_canon | apply State.wake_canon | apply canon_foldl
    | apply canon_ite

theorem State.abortPoint_canon {s : State} {point next : Nat} (hs : s.Canon) : State.Canon (s.abortPoint point next)
    := by
  unfold State.abortPoint
  with_reducible repeat' first | assumption | apply State.abandon_canon | apply State.wf_canon | apply canon_ite

theorem execEntryPhaseEnd_canon {s : State} (hs : s.Canon) : Res.Canon (execEntryPhaseEnd s) := by
  unfold execEntryPhaseEnd
  repeat' first
    | with_reducible assumption | with_reducible intro _ | with_reducible apply State.live_canon
    | with_reducible apply State.abortPoint_canon | with_reducible apply State.saveDesign_canon
    | with_reducible apply State.saveRegs_canon | with_reducible apply State.endpointReset_canon
    | with_reducible apply State.wr_canon | with_reducible apply State.portsTo_canon
    | with_reducible apply State.slumberNow_canon | with_reducible apply canon_next | split

theorem execWakePin_canon {pin : Fin 256} {s : State} (hs : s.Canon) : Res.Canon (execWakePin pin s) := by
  unfold execWakePin
  with_reducible repeat' first
    | assumption | intro _ | apply State.aon_canon | apply State.wake_canon | apply canon_next | apply canon_ite

theorem execWakeLink_canon {port : Fin 16} {s : State} (hs : s.Canon) : Res.Canon (execWakeLink port s) := by
  unfold execWakeLink
  with_reducible repeat' first
    | assumption | intro _ | apply State.aon_canon | apply State.wake_canon | apply canon_next | apply canon_ite

theorem execWakeTimer_canon {s : State} (hs : s.Canon) : Res.Canon (execWakeTimer s) := by
  unfold execWakeTimer
  with_reducible repeat' first
    | assumption | intro _ | apply State.aon_canon | apply State.wake_canon | apply canon_next | apply canon_ite

theorem execWakePcie_canon {s : State} (hs : s.Canon) : Res.Canon (execWakePcie s) := by
  unfold execWakePcie
  with_reducible repeat' first
    | assumption | intro _ | apply State.aon_canon | apply State.wake_canon | apply canon_next | apply canon_ite

theorem execWakeNet_canon {s : State} (hs : s.Canon) : Res.Canon (execWakeNet s) := by
  unfold execWakeNet
  with_reducible repeat' first
    | assumption | intro _ | apply State.aon_canon | apply State.wake_canon | apply canon_next | apply canon_ite

theorem State.parkWoken_canon {s : State} (hs : s.Canon) : State.Canon (s.parkWoken) := by
  unfold State.parkWoken
  with_reducible repeat' first | assumption | apply State.leavePark_canon | apply canon_ite

/-! ### Cores -/

theorem State.coreIllegal_canon {s : State} {c : Nat} (hs : s.Canon) : State.Canon (s.coreIllegal c) := by
  unfold State.coreIllegal
  with_reducible repeat' first | assumption | apply State.wr_canon

theorem State.coreDoes_canon {s : State} {c : Nat} {f : State → State} (hs : s.Canon)
    (hf : ∀ y0 : State, y0.Canon → State.Canon (f y0)) : State.Canon (s.coreDoes c f) := by
  unfold State.coreDoes
  with_reducible repeat' first
    | assumption | apply hf | apply State.wr_canon | apply State.coreIllegal_canon | apply canon_ite

theorem State.taskFree_canon {s : State} {t : Nat} (hs : s.Canon) : State.Canon (s.taskFree t) := by
  unfold State.taskFree
  with_reducible repeat' first | assumption | apply State.wr_canon

theorem State.bindNow_canon {s : State} {c : Nat} (hs : s.Canon) : State.Canon (s.bindNow c) := by
  unfold State.bindNow
  with_reducible repeat' first | assumption | apply State.wr_canon | apply canon_ite

theorem State.applyJwait_canon {s : State} {t w : Nat} (hs : s.Canon) : State.Canon (s.applyJwait t w) := by
  unfold State.applyJwait
  with_reducible repeat' first | assumption | apply State.wr_canon

theorem State.workEnd_canon {s : State} {c : Nat} {free : Bool} (hs : s.Canon) : State.Canon (s.workEnd c free) :=
    by
  unfold State.workEnd
  repeat' first
    | with_reducible assumption | with_reducible apply State.wr_canon | with_reducible apply State.taskFree_canon
    | with_reducible apply State.taskWait_canon | with_reducible apply State.applyJwait_canon
    | with_reducible apply State.bindNow_canon | split

theorem execJnext_canon {die : Fin 8} {core : Fin 32} {s : State} (hs : s.Canon) : Res.Canon (execJnext die core s)
    := by
  unfold execJnext
  with_reducible repeat' first
    | assumption | intro _ | apply State.live_canon | apply State.coreDoes_canon | apply State.wr_canon
    | apply State.workEnd_canon | apply canon_next

theorem execJdone_canon {die : Fin 8} {core : Fin 32} {val : BitVec 64} {s : State} (hs : s.Canon) : Res.Canon
    (execJdone die core val s) := by
  unfold execJdone
  with_reducible repeat' first
    | assumption | intro _ | apply State.live_canon | apply State.coreDoes_canon | apply State.workEnd_canon
    | apply canon_next

theorem State.corePop_canon {s : State} {die : Fin 8} {core : Fin 32} (hs : s.Canon) : State.Canon
    (s.corePop die core) := by
  unfold State.corePop
  with_reducible repeat' first
    | assumption | apply State.okay_canon | apply State.wr_canon | apply State.qPop_canon | apply State.ans_canon
    | apply canon_ite

theorem execJqdataPop_canon {die : Fin 8} {core : Fin 32} {s : State} (hs : s.Canon) : Res.Canon
    (execJqdataPop die core s) := by
  unfold execJqdataPop
  with_reducible repeat' first
    | assumption | intro _ | apply State.live_canon | apply State.coreDoes_canon | apply State.corePop_canon
    | apply canon_next

theorem State.corePush_canon {s : State} {die : Fin 8} {core : Fin 32} {w : Nat} {last : Bool} (hs : s.Canon) :
    State.Canon (s.corePush die core w last) := by
  unfold State.corePush
  with_reducible repeat' first | assumption | apply State.wr_canon | apply State.qPush_canon | apply canon_ite

theorem execJqdataPush_canon {die : Fin 8} {core : Fin 32} {val : BitVec 64} {s : State} (hs : s.Canon) : Res.Canon
    (execJqdataPush die core val s) := by
  unfold execJqdataPush
  with_reducible repeat' first
    | assumption | intro _ | apply State.live_canon | apply State.coreDoes_canon | apply State.corePush_canon
    | apply canon_next

theorem execJqend_canon {die : Fin 8} {core : Fin 32} {val : BitVec 64} {s : State} (hs : s.Canon) : Res.Canon
    (execJqend die core val s) := by
  unfold execJqend
  with_reducible repeat' first
    | assumption | intro _ | apply State.live_canon | apply State.coreDoes_canon | apply State.corePush_canon
    | apply canon_next

theorem State.jrsp_canon {s : State} {c w : Nat} (hs : s.Canon) : State.Canon (s.jrsp c w) := by
  unfold State.jrsp
  repeat' first
    | with_reducible assumption | with_reducible apply State.wr_canon | with_reducible apply canon_ite
    | simp only [canon_update]

theorem execJrsp_canon {die : Fin 8} {core : Fin 32} {val : BitVec 64} {s : State} (hs : s.Canon) : Res.Canon
    (execJrsp die core val s) := by
  unfold execJrsp
  with_reducible repeat' first
    | assumption | intro _ | apply State.live_canon | apply State.coreDoes_canon | apply State.jrsp_canon
    | apply canon_next

theorem State.rspEnd_canon {s : State} {c r : Nat} (hs : s.Canon) : State.Canon (s.rspEnd c r) := by
  unfold State.rspEnd
  repeat' first
    | with_reducible assumption | with_reducible apply State.wr_canon | simp only [canon_update]

theorem State.staleRsp_canon {s : State} {c w reason : Nat} (hs : s.Canon) : State.Canon (s.staleRsp c w reason) :=
    by
  unfold State.staleRsp
  with_reducible repeat' first | assumption | apply State.rspEnd_canon | apply State.wr_canon | apply State.sat_canon

theorem State.rspDeliver_canon {s : State} {c k data : Nat} {r : PortalRec} (hs : s.Canon) : State.Canon
    (s.rspDeliver c k data r) := by
  unfold State.rspDeliver
  repeat' first
    | with_reducible assumption | with_reducible apply State.logInput_canon
    | with_reducible apply State.rspEnd_canon | with_reducible apply State.tagFree_canon
    | with_reducible apply State.deliver_canon | simp only [canon_update]

theorem State.portalRsp_canon {s : State} {die : Fin 8} {core : Fin 32} (hs : s.Canon) : State.Canon
    (s.portalRsp die core) := by
  unfold State.portalRsp
  repeat' first
    | with_reducible assumption | (extract_lets +onlyGivenNames x; clear_value x)
    | with_reducible apply State.rspEnd_canon | with_reducible apply State.rspDeliver_canon
    | with_reducible apply State.staleRsp_canon | split

theorem execPortalResponse_canon {die : Fin 8} {core : Fin 32} {s : State} (hs : s.Canon) : Res.Canon
    (execPortalResponse die core s) := by
  unfold execPortalResponse
  with_reducible repeat' first
    | assumption | intro _ | apply State.live_canon | apply State.portalRsp_canon | apply canon_next

theorem State.portalWrite_canon {s : State} {u : Nat} (hs : s.Canon) : State.Canon (s.portalWrite u) := by
  unfold State.portalWrite
  repeat' first
    | with_reducible assumption | with_reducible apply State.wr_canon | with_reducible apply State.qDeliver_canon
    | with_reducible apply State.dropCause_canon | split | simp only [canon_update]

theorem execPortalMessageWritten_canon {u : CourseLoc} {s : State} (hs : s.Canon) : Res.Canon
    (execPortalMessageWritten u s) := by
  unfold execPortalMessageWritten
  with_reducible repeat' first
    | assumption | intro _ | apply State.live_canon | apply State.portalWrite_canon | apply canon_next

theorem State.taskExpire_canon {s : State} {t : Nat} (hs : s.Canon) : State.Canon (s.taskExpire t) := by
  unfold State.taskExpire
  with_reducible repeat' first | assumption | apply State.taskReady_canon | apply canon_ite

theorem execTaskTimeout_canon {die : Fin 8} {task : Fin 512} {s : State} (hs : s.Canon) : Res.Canon
    (execTaskTimeout die task s) := by
  unfold execTaskTimeout
  with_reducible repeat' first
    | assumption | intro _ | apply State.live_canon | apply State.taskExpire_canon | apply canon_next

theorem State.dispatchTo_canon {s : State} {c t : Nat} (hs : s.Canon) : State.Canon (s.dispatchTo c t) := by
  unfold State.dispatchTo
  with_reducible repeat' first | assumption | apply State.wr_canon | apply State.sat_canon

theorem State.dispatch_canon {s : State} {die : Nat} (hs : s.Canon) : State.Canon (s.dispatch die) := by
  unfold State.dispatch
  repeat' first
    | with_reducible assumption | with_reducible apply State.dispatchTo_canon | split

theorem execDispatch_canon {die : Fin 8} {s : State} (hs : s.Canon) : Res.Canon (execDispatch die s) := by
  unfold execDispatch
  with_reducible repeat' first
    | assumption | intro _ | apply State.live_canon | apply State.dispatch_canon | apply canon_next

theorem State.taskGuard_canon {s : State} {who : Who} {t : Nat} {f : State → State} (hs : s.Canon)
    (hf : ∀ y0 : State, y0.Canon → State.Canon (f y0)) : State.Canon (s.taskGuard who t f) := by
  unfold State.taskGuard
  with_reducible repeat' first
    | assumption | apply hf | apply State.okay_canon | apply State.deny_canon | apply canon_ite

theorem execDispFlagSet_canon {who : Who} {die : Fin 8} {task : Fin 512} {flag : Fin 32} {s : State} (hs : s.Canon)
    : Res.Canon (execDispFlagSet who die task flag s) := by
  unfold execDispFlagSet
  with_reducible repeat' first
    | assumption | intro _ | apply State.access_canon | apply State.taskGuard_canon | apply State.setFlag_canon
    | apply canon_next

theorem State.clearFlag_canon {s : State} {t f : Nat} (hs : s.Canon) : State.Canon (s.clearFlag t f) := by
  unfold State.clearFlag
  with_reducible repeat' first | assumption | apply State.wr_canon

theorem execDispFlagClear_canon {who : Who} {die : Fin 8} {task : Fin 512} {flag : Fin 32} {s : State}
    (hs : s.Canon) : Res.Canon (execDispFlagClear who die task flag s) := by
  unfold execDispFlagClear
  with_reducible repeat' first
    | assumption | intro _ | apply State.access_canon | apply State.taskGuard_canon | apply State.clearFlag_canon
    | apply canon_next

theorem State.taskPut_canon {s : State} {t : Nat} {a now : Arr} {v : Nat} (hs : s.Canon) : State.Canon
    (s.taskPut t a now v) := by
  unfold State.taskPut
  with_reducible repeat' first | assumption | apply State.wr_canon | apply canon_ite

theorem State.taskCfg_canon {s : State} {t v : Nat} (hs : s.Canon) : State.Canon (s.taskCfg t v) := by
  unfold State.taskCfg
  repeat' first
    | with_reducible assumption
    | (extract_lets +onlyGivenNames x; refine canon_cut (P := State.Canon x) ?_ ?_ <;> first | (clear_value x; intro _) | subst x)
    | with_reducible apply State.taskPut_canon | with_reducible apply State.taskWait_canon
    | with_reducible apply State.wr_canon | with_reducible apply State.taskFree_canon | split

theorem State.taskCfgWrite_canon {s : State} {who : Who} {die v : Nat} (hs : s.Canon) : State.Canon
    (s.taskCfgWrite who die v) := by
  unfold State.taskCfgWrite
  with_reducible repeat' first
    | assumption | apply State.okay_canon | apply State.taskCfg_canon | apply State.deny_canon | apply canon_ite

theorem execTaskCfgWrite_canon {who : Who} {die : Fin 8} {val : Word} {s : State} (hs : s.Canon) : Res.Canon
    (execTaskCfgWrite who die val s) := by
  unfold execTaskCfgWrite
  with_reducible repeat' first
    | assumption | intro _ | apply State.access_canon | apply State.taskCfgWrite_canon | apply canon_next

theorem State.histClear_canon {s : State} {t : Nat} (hs : s.Canon) : State.Canon (s.histClear t) := by
  unfold State.histClear
  with_reducible repeat' first | assumption | apply State.wr_canon | apply State.drop_canon

theorem execTaskHistClear_canon {who : Who} {die : Fin 8} {s : State} (hs : s.Canon) : Res.Canon
    (execTaskHistClear who die s) := by
  unfold execTaskHistClear
  with_reducible repeat' first
    | assumption | intro _ | apply State.access_canon | apply State.taskGuard_canon | apply State.histClear_canon
    | apply canon_next

theorem State.taskSet_canon {s : State} {t : Nat} {a now : Arr} {v : Nat} (hs : s.Canon) : State.Canon
    (s.taskSet t a now v) := by
  unfold State.taskSet
  with_reducible repeat' first
    | assumption | apply State.wr_canon | apply State.taskExpire_canon | apply State.taskCheck_canon
    | apply canon_ite

theorem State.coreReset_canon {s : State} {c : Nat} (hs : s.Canon) : State.Canon (s.coreReset c) := by
  unfold State.coreReset
  repeat' first
    | with_reducible assumption | with_reducible intro _ | with_reducible apply State.dropOpen_canon
    | with_reducible apply State.workEnd_canon | with_reducible apply State.wr_canon
    | with_reducible apply canon_foldl | with_reducible apply canon_ite | simp only [canon_update]

theorem State.coreBindTo_canon {s : State} {c v : Nat} (hs : s.Canon) : State.Canon (s.coreBindTo c v) := by
  unfold State.coreBindTo
  with_reducible repeat' first | assumption | apply State.wr_canon | apply canon_ite

theorem State.coreBindWrite_canon {s : State} {who : Who} {c v : Nat} (hs : s.Canon) : State.Canon
    (s.coreBindWrite who c v) := by
  unfold State.coreBindWrite
  with_reducible repeat' first
    | assumption | apply State.deny_canon | apply State.coreBindTo_canon | apply State.okay_canon
    | apply State.coreReset_canon | apply canon_ite

theorem execCoreBindWrite_canon {who : Who} {die : Fin 8} {core : Fin 32} {val : Word} {s : State} (hs : s.Canon) :
    Res.Canon (execCoreBindWrite who die core val s) := by
  unfold execCoreBindWrite
  with_reducible repeat' first
    | assumption | intro _ | apply State.access_canon | apply State.coreBindWrite_canon | apply canon_next

theorem execCoreReset_canon {who : Who} {die : Fin 8} {core : Fin 32} {s : State} (hs : s.Canon) : Res.Canon
    (execCoreReset who die core s) := by
  unfold execCoreReset
  with_reducible repeat' first
    | assumption | intro _ | apply State.access_canon | apply State.okay_canon | apply State.coreReset_canon
    | apply State.deny_canon | apply canon_next | apply canon_ite

/-! ### Hbm -/

theorem State.l2Put_canon {s : State} {e : L2Line} (hs : s.Canon) : State.Canon (s.l2Put e) := by
  unfold State.l2Put
  repeat' first
    | with_reducible apply State.l2Drop_canon | with_reducible apply canon_ite
    | with_reducible assumption | with_reducible apply State.snoop_canon | split | simp only [canon_update]

theorem State.l2Fetch_canon {s : State} {w : Stamp} {die line : Nat} (hs : s.Canon) : State.Canon
    (s.l2Fetch w die line).2.2 := by
  unfold State.l2Fetch
  repeat' first
    | with_reducible apply canon_ite
    | with_reducible assumption
    | (extract_lets +onlyGivenNames x; refine canon_cut (P := State.Canon x.st) ?_ ?_ <;> first
    | (clear_value x; intro _) | subst x)
    | with_reducible apply State.hbmAccess_canon | with_reducible apply State.l2Put_canon | split

theorem State.coreLoad_canon {s : State} {w : Stamp} {die a n : Nat} (hs : s.Canon) : State.Canon
    (s.coreLoad w die a n).st := by
  unfold State.coreLoad
  with_reducible repeat' first | assumption | apply State.l2Fetch_canon

theorem State.coreStore_canon {s : State} {w : Stamp} {die a n v : Nat} (hs : s.Canon) : State.Canon
    (s.coreStore w die a n v).st := by
  unfold State.coreStore
  repeat' first
    | with_reducible assumption | with_reducible apply State.l2Fetch_canon
    | with_reducible refine canon_snd2 (by assumption) ?_ | split | simp only [canon_update]

theorem State.hbmReq_canon {s : State} {who : Who} {write : Bool} {a n v : Nat} (hs : s.Canon) : State.Canon
    (s.hbmReq who write a n v).st := by
  unfold State.hbmReq
  repeat' first
    | with_reducible assumption | (extract_lets +onlyGivenNames x; clear_value x)
    | with_reducible apply State.coreStore_canon | with_reducible apply State.coreLoad_canon
    | with_reducible apply State.hbmAccess_canon | split

theorem HbmAns.answer_canon {r : HbmAns} {write : Bool} (hr : r.st.Canon) : State.Canon (r.answer write) := by
  unfold HbmAns.answer
  with_reducible repeat' first | assumption | apply State.ans_canon

theorem execHbmRequest_canon {who : Who} {write : Bool} {addr : BitVec 39} {size : AccSize} {data : BitVec 512}
    {hint : BitVec 2} {s : State} (hs : s.Canon) : Res.Canon (execHbmRequest who write addr size data hint s) := by
  unfold execHbmRequest
  with_reducible repeat' first
    | assumption | intro _ | apply State.access_canon | apply State.deny_canon | apply State.accessDom_canon
    | apply HbmAns.answer_canon | apply State.hbmReq_canon | apply canon_next | apply canon_resIte

theorem execSnoopInvalidation_canon {die : Fin 8} {line : BitVec 33} {s : State} (hs : s.Canon) : Res.Canon
    (execSnoopInvalidation die line s) := by
  unfold execSnoopInvalidation
  repeat' first
    | with_reducible apply State.l2Drop_canon
    | with_reducible assumption | with_reducible intro _ | with_reducible apply State.live_canon
    | with_reducible apply State.putBytes_canon | with_reducible apply canon_next | split
    | simp only [canon_update]

theorem State.scrub_canon {s : State} {die : Nat} (hs : s.Canon) : State.Canon (s.scrub die) := by
  unfold State.scrub
  repeat' first
    | with_reducible assumption
    | (extract_lets +onlyGivenNames x; refine canon_cut (P := State.Canon x) ?_ ?_ <;> first | (clear_value x; intro _) | subst x)
    | (extract_lets +onlyGivenNames x; clear_value x) | with_reducible apply State.wr_canon
    | with_reducible apply State.free_canon | with_reducible apply State.noteCe_canon
    | with_reducible apply State.noteUe_canon | with_reducible refine canon_snd (by assumption) ?_ | split

theorem execPatrolScrub_canon {die : Fin 8} {s : State} (hs : s.Canon) : Res.Canon (execPatrolScrub die s) := by
  unfold execPatrolScrub
  with_reducible repeat' first
    | assumption | intro _ | apply State.live_canon | apply State.scrub_canon | apply canon_next | apply canon_ite

theorem execBankRefresh_canon {die : Fin 8} {_pc : Fin 32} {_bank : Fin 64} {tempC : BitVec 8} {s : State}
    (hs : s.Canon) : Res.Canon (execBankRefresh die _pc _bank tempC s) := by
  unfold execBankRefresh
  with_reducible repeat' first
    | assumption | intro _ | apply State.live_canon | apply State.wf_canon | apply canon_next

theorem State.retrain_canon {s : State} {die pc : Nat} (hs : s.Canon) : State.Canon (s.retrain die pc) := by
  unfold State.retrain
  repeat' first
    | with_reducible assumption | with_reducible apply State.wf_canon | with_reducible apply State.wr_canon
    | with_reducible apply canon_ite | split | simp only [canon_update]

theorem State.retrainTick_canon {s : State} {die : Nat} (hs : s.Canon) : State.Canon (s.retrainTick die) := by
  unfold State.retrainTick
  repeat' first
    | with_reducible assumption | with_reducible apply State.free_canon | with_reducible apply State.wf_canon
    | with_reducible apply canon_ite | split | simp only [canon_update]

theorem execPseudoChannelRetrain_canon {die : Fin 8} {pc : Fin 32} {s : State} (hs : s.Canon) : Res.Canon
    (execPseudoChannelRetrain die pc s) := by
  unfold execPseudoChannelRetrain
  with_reducible repeat' first
    | assumption | intro _ | apply State.live_canon | apply State.retrain_canon | apply canon_next

theorem execHbmTraining_canon {die : Fin 8} {s : State} (hs : s.Canon) : Res.Canon (execHbmTraining die s) := by
  unfold execHbmTraining
  with_reducible repeat' first
    | assumption | intro _ | apply State.live_canon | apply State.wf_canon | apply State.wr_canon | apply canon_next

theorem State.trained_canon {s : State} {die repairs : Nat} {unrepairable : Bool} (hs : s.Canon) : State.Canon
    (s.trained die repairs unrepairable) := by
  unfold State.trained
  extract_lets mine s1 s2 s3 s4
  have h1 : s1.Canon := canon_memFilter (s := s) rfl rfl hs
  clear_value s1
  have h2 : s2.Canon := State.wr_canon (State.wr_canon (State.wr_canon (State.drop_canon (State.drop_canon h1))))
  clear_value s2
  have h3 : s3.Canon := State.wf_canon (State.wf_canon h2)
  clear_value s3
  have h4 : s4.Canon := State.each_canon (State.wr_canon h3) fun t h pc => State.wr_canon h
  clear_value s4
  exact canon_ite (State.raise_canon (State.wf_canon h4)) h4

theorem execHbmTrainingDone_canon {die : Fin 8} {repairs : BitVec 6} {unrepairable : Bool} {s : State}
    (hs : s.Canon) : Res.Canon (execHbmTrainingDone die repairs unrepairable s) := by
  unfold execHbmTrainingDone
  with_reducible repeat' first
    | assumption | intro _ | apply State.live_canon | apply State.trained_canon | apply canon_next | apply canon_ite

theorem execZeroFillDone_canon {die : Fin 8} {s : State} (hs : s.Canon) : Res.Canon (execZeroFillDone die s) := by
  unfold execZeroFillDone
  with_reducible repeat' first
    | assumption | intro _ | apply State.live_canon | apply State.wf_canon | apply canon_next

theorem State.ownAccess_canon {s : State} {who : Who} {die : Nat} {f : State → Nat → State} (hs : s.Canon)
    (hf : ∀ y0 : State, y0.Canon → ∀ y1 : Nat, State.Canon (f y0 y1)) : State.Canon (s.ownAccess who die f) := by
  unfold State.ownAccess
  with_reducible repeat' first
    | assumption | apply hf | apply State.deny_canon | apply State.wf_canon | apply State.okay_canon
    | apply canon_ite

theorem State.ownWrite_canon {s : State} {who : Who} {die v : Nat} (hs : s.Canon) : State.Canon
    (s.ownWrite who die v) := by
  unfold State.ownWrite
  with_reducible repeat' first
    | assumption | intro _ | apply State.ownAccess_canon | apply State.okay_canon | apply State.wr_canon

theorem State.ownRead_canon {s : State} {who : Who} {die : Nat} (hs : s.Canon) : State.Canon (s.ownRead who die) :=
    by
  unfold State.ownRead
  with_reducible repeat' first | assumption | intro _ | apply State.ownAccess_canon | apply State.ans_canon

theorem execOwnershipEntryWrite_canon {who : Who} {die : Fin 8} {val : Word} {s : State} (hs : s.Canon) : Res.Canon
    (execOwnershipEntryWrite who die val s) := by
  unfold execOwnershipEntryWrite
  with_reducible repeat' first
    | assumption | intro _ | apply State.access_canon | apply State.ownWrite_canon | apply canon_next

theorem execOwnershipEntryRead_canon {who : Who} {die : Fin 8} {s : State} (hs : s.Canon) : Res.Canon
    (execOwnershipEntryRead who die s) := by
  unfold execOwnershipEntryRead
  with_reducible repeat' first
    | assumption | intro _ | apply State.access_canon | apply State.ownRead_canon | apply canon_next

/-! ### Net -/

theorem State.routeEntry_canon {s : State} {who : Who} {die : Nat} {write : Bool} (hs : s.Canon) : State.Canon
    (s.routeEntry who die write) := by
  unfold State.routeEntry
  with_reducible repeat' first
    | assumption | apply State.deny_canon | apply State.wf_canon | apply State.okay_canon | apply State.wr_canon
    | apply canon_ite

theorem execRouteEntryRead_canon {who : Who} {die : Fin 8} {s : State} (hs : s.Canon) : Res.Canon
    (execRouteEntryRead who die s) := by
  unfold execRouteEntryRead
  with_reducible repeat' first
    | assumption | intro _ | apply State.access_canon | apply State.routeEntry_canon | apply canon_next

theorem execRouteEntryWrite_canon {who : Who} {die : Fin 8} {s : State} (hs : s.Canon) : Res.Canon
    (execRouteEntryWrite who die s) := by
  unfold execRouteEntryWrite
  with_reducible repeat' first
    | assumption | intro _ | apply State.access_canon | apply State.routeEntry_canon | apply canon_next

theorem State.hostError_canon {s : State} {f : Nat} {write : Bool} {bar2 off status : Nat} (hs : s.Canon) :
    State.Canon (s.hostError f write bar2 off status) := by
  unfold State.hostError
  with_reducible repeat' first | assumption | apply State.wr_canon

theorem State.noteStatus_canon {s : State} {f : Nat} {write : Bool} {bar2 off status : Nat} (hs : s.Canon) :
    State.Canon (s.noteStatus f write bar2 off status) := by
  unfold State.noteStatus
  with_reducible repeat' first | assumption | apply State.hostError_canon | apply canon_ite

theorem State.complete_canon {s : State} {f : Nat} {write : Bool} {status data : Nat} (hs : s.Canon) : State.Canon
    (s.complete f write status data) := by
  unfold State.complete
  repeat' first
    | with_reducible assumption | with_reducible apply State.ans_canon | with_reducible apply canon_ite
    | simp only [canon_update]

theorem State.outstDrop_canon {s : State} {o : Outst} (hs : s.Canon) : State.Canon (s.outstDrop o) := by
  unfold State.outstDrop
  repeat' first
    | with_reducible assumption | simp only [canon_update]

theorem State.nextGen_canon {s : State} {z1 : Nat} (hs : s.Canon) : State.Canon (s.nextGen z1) := by
  unfold State.nextGen
  with_reducible repeat' first | assumption | apply State.wr_canon | apply canon_ite

theorem State.stampCode_canon {s : State} {a : Stamp} (hs : s.Canon) : State.Canon (s.stampCode a).2 := by
  unfold State.stampCode
  repeat' first
    | with_reducible assumption | with_reducible apply State.free_canon | split

theorem State.niStamp_canon {s : State} {die ni : Nat} (hs : s.Canon) : State.Canon (s.niStamp die ni).2 := by
  unfold State.niStamp
  repeat' first
    | with_reducible assumption | with_reducible apply State.stampCode_canon
    | with_reducible apply State.free_canon | with_reducible refine canon_snd (by assumption) ?_ | split

theorem State.netPacket_canon {s : State} {o : Outst} (hs : s.Canon) : State.Canon (s.netPacket o) := by
  unfold State.netPacket
  repeat' first
    | with_reducible assumption | with_reducible apply canon_ite | split | simp only [canon_update]

theorem State.outstSend_canon {s : State} {o : Outst} (hs : s.Canon) : State.Canon (s.outstSend o) := by
  unfold State.outstSend
  repeat' first
    | with_reducible assumption | with_reducible apply State.nextGen_canon
    | with_reducible apply State.netPacket_canon | with_reducible apply canon_ite | split | simp only [canon_update]

theorem State.farPart_canon {s : State} {id bit status data : Nat} (hs : s.Canon) : State.Canon (s.farPart id bit
    status data) := by
  unfold State.farPart
  repeat' first
    | with_reducible assumption | (intro _) | with_reducible apply State.noteStatus_canon
    | with_reducible apply State.complete_canon | with_reducible apply canon_ite | split | simp only [canon_update]

theorem State.notSent_canon {s : State} {far bit : Nat} (hs : s.Canon) : State.Canon (s.notSent far bit) := by
  unfold State.notSent
  repeat' first
    | with_reducible assumption | with_reducible apply State.farPart_canon | with_reducible apply canon_ite | split
    | simp only [canon_update]

theorem State.cnSendAs_canon {s : State} {die ni tag : Nat} {id : Nat × Nat} {write : Bool} {size addr data far bit
    : Nat} (hs : s.Canon) : State.Canon (s.cnSendAs die ni tag id write size addr data far bit) := by
  unfold State.cnSendAs
  repeat' first
    | with_reducible assumption | (intro _) | with_reducible apply State.netPacket_canon
    | with_reducible apply State.answerNoRoute_canon | with_reducible apply State.notSent_canon
    | with_reducible apply State.linkDown_canon | with_reducible apply State.cnErr_canon
    | with_reducible apply State.outstSend_canon | with_reducible apply canon_ite | split | simp only [canon_update]

theorem State.cnSend_canon {s : State} {die ni tag : Nat} {write : Bool} {size addr data : Nat} (hs : s.Canon) :
    State.Canon (s.cnSend die ni tag write size addr data) := by
  unfold State.cnSend
  exact canon_ite (State.cnSendAs_canon (State.niStamp_canon hs)) (State.cnSendAs_canon hs)

theorem execRequestSend_canon {die : Fin 8} {ni : Fin 64} {tag : Fin 32} {write : Bool} {size : AccSize}
    {addr : BitVec 52} {data : BitVec 512} {s : State} (hs : s.Canon) : Res.Canon
    (execRequestSend die ni tag write size addr data s) := by
  unfold execRequestSend
  with_reducible repeat' first
    | assumption | intro _ | apply State.live_canon | apply State.cnSend_canon | apply canon_next

theorem State.lateResp_canon {s : State} {die ni tag gen : Nat} (hs : s.Canon) : State.Canon
    (s.lateResp die ni tag gen) := by
  unfold State.lateResp
  repeat' first
    | with_reducible assumption | with_reducible apply State.outstDrop_canon
    | with_reducible apply State.releaseHeld_canon | with_reducible apply State.cnt_canon | split

theorem State.answered_canon {s : State} {o : Outst} {status mask data : Nat} (hs : s.Canon) : State.Canon
    (s.answered o status mask data) := by
  unfold State.answered
  repeat' first
    | with_reducible assumption | with_reducible apply State.outstSend_canon
    | with_reducible apply State.farPart_canon | with_reducible apply canon_ite | split | simp only [canon_update]

theorem State.cnResp_canon {s : State} {die ni tag gen status mask data : Nat} (hs : s.Canon) : State.Canon
    (s.cnResp die ni tag gen status mask data) := by
  unfold State.cnResp
  repeat' first
    | with_reducible apply State.answered_canon | with_reducible apply canon_ite
    | with_reducible assumption | with_reducible apply State.releaseHeld_canon
    | with_reducible apply State.outstDrop_canon | with_reducible apply State.cnErr_canon
    | with_reducible apply State.lateResp_canon | split | simp only [canon_update]

theorem execCnResponse_canon {die : Fin 8} {ni : Fin 64} {tag : Fin 32} {gen : BitVec 2} {status : BitVec 4}
    {body : RespBody} {s : State} (hs : s.Canon) : Res.Canon (execCnResponse die ni tag gen status body s) :=
    by
  unfold execCnResponse
  with_reducible repeat' first
    | assumption | intro _ | apply State.live_canon | apply State.cnResp_canon | apply canon_next

theorem State.cnTimeout_canon {s : State} {die ni tag : Nat} (hs : s.Canon) : State.Canon (s.cnTimeout die ni tag)
    := by
  unfold State.cnTimeout
  repeat' first
    | with_reducible apply State.answered_canon | with_reducible apply canon_ite
    | with_reducible assumption | with_reducible apply State.outstDrop_canon
    | with_reducible apply State.cnErr_canon | with_reducible apply State.releaseHeld_canon
    | with_reducible apply State.cnt_canon | with_reducible apply State.wr_canon | split | simp only [canon_update]

theorem execRequestTimeout_canon {die : Fin 8} {ni : Fin 64} {tag : Fin 32} {s : State} (hs : s.Canon) : Res.Canon
    (execRequestTimeout die ni tag s) := by
  unfold execRequestTimeout
  with_reducible repeat' first
    | assumption | intro _ | apply State.live_canon | apply State.cnTimeout_canon | apply canon_next

theorem State.setPause_canon {s : State} {die ni tag : Nat} {p : Outst → Bool} {v : Bool} (hs : s.Canon) :
    State.Canon (s.setPause die ni tag p v) := by
  unfold State.setPause
  repeat' first
    | with_reducible assumption | simp only [canon_update]

theorem execWakeNotice_canon {die : Fin 8} {ni : Fin 64} {tag : Fin 32} {s : State} (hs : s.Canon) : Res.Canon
    (execWakeNotice die ni tag s) := by
  unfold execWakeNotice
  with_reducible repeat' first
    | assumption | intro _ | apply State.live_canon | apply State.setPause_canon | apply canon_next

theorem execWakePauseExpiry_canon {die : Fin 8} {ni : Fin 64} {tag : Fin 32} {s : State} (hs : s.Canon) : Res.Canon
    (execWakePauseExpiry die ni tag s) := by
  unfold execWakePauseExpiry
  with_reducible repeat' first
    | assumption | intro _ | apply State.live_canon | apply State.setPause_canon | apply canon_next

end Sys2Proof.Machine
end

