-- ==== Sys2Proof/Laws/CanonBus.lean ====
section
/-! SUPPORT. Every operation keeps the canonical form of the stores (`State.Canon`): registers, the clock, the host interface and the dispatch. -/

namespace Sys2Proof.Machine

open Reg

/-! ### BusRead -/

theorem State.clearRc_canon {s : State} {who : Who} {p : Place} {off : Nat} (hs : s.Canon) : State.Canon
    (s.clearRc who p off) := by
  unfold State.clearRc
  repeat' first
    | with_reducible assumption | (extract_lets +onlyGivenNames x; clear_value x)
    | with_reducible apply State.wr_canon | split

theorem State.readPlain_canon {s : State} {who : Who} {p : Place} {off : Nat} (hs : s.Canon) : State.Canon
    (s.readPlain who p off) := by
  unfold State.readPlain
  with_reducible repeat' first
    | assumption | apply State.ans_canon | apply State.wr_canon | apply State.clearRc_canon | apply canon_ite

theorem State.tamperLive_canon {s : State} (hs : s.Canon) : State.Canon (s.tamperLive) := by
  unfold State.tamperLive
  repeat' first
    | with_reducible assumption | with_reducible apply State.free_canon | with_reducible apply State.wf_canon
    | with_reducible apply canon_ite | split | simp only [canon_update]

theorem State.readReg_canon {s : State} {who : Who} {off : Nat} (hs : s.Canon) : State.Canon (s.readReg who off) :=
    by
  unfold State.readReg
  repeat' first
    | with_reducible apply State.tamperLive_canon
    | with_reducible assumption | with_reducible apply State.ans_canon | with_reducible apply State.deny_canon
    | with_reducible apply State.hostPop_canon | with_reducible apply State.qReadHi_canon
    | with_reducible apply State.probeMapRead_canon | with_reducible apply State.ownRead_canon
    | with_reducible apply State.readPlain_canon | with_reducible apply State.track_canon
    | with_reducible apply canon_ite | split

/-! ### BusWrite -/

theorem State.putFields_canon {s : State} {p : Place} {off v : Nat} (hs : s.Canon) : State.Canon
    (s.putFields p off v) := by
  unfold State.putFields
  with_reducible repeat' first | assumption | apply State.wr_canon

theorem State.putLocked_canon {s : State} {p : Place} {off v : Nat} (hs : s.Canon) : State.Canon
    (s.putLocked p off v) := by
  unfold State.putLocked
  with_reducible repeat' first | assumption | apply State.violation_canon | apply State.wr_canon | apply canon_ite

theorem State.putReg_canon {s : State} {p : Place} {off v : Nat} (hs : s.Canon) : State.Canon (s.putReg p off v) :=
    by
  unfold State.putReg
  with_reducible repeat' first | assumption | apply State.putLocked_canon | apply State.putFields_canon

theorem State.holdLo_canon {s : State} {off v : Nat} (hs : s.Canon) : State.Canon (s.holdLo off v) := by
  unfold State.holdLo
  with_reducible repeat' first | assumption | apply State.wr_canon

theorem State.putPair_canon {s : State} {p : Place} {off v : Nat} (hs : s.Canon) : State.Canon (s.putPair p off v)
    := by
  unfold State.putPair
  with_reducible repeat' first
    | assumption | apply State.holdLo_canon | apply State.takeLo_canon | apply State.wr_canon | apply canon_ite

theorem State.putAny_canon {s : State} {p : Place} {off v : Nat} (hs : s.Canon) : State.Canon (s.putAny p off v) :=
    by
  unfold State.putAny
  with_reducible repeat' first | assumption | apply State.putPair_canon | apply State.putReg_canon | apply canon_ite

theorem State.pfWrite_canon {s : State} {who : Who} {f : State → State} (hs : s.Canon)
    (hf : ∀ y0 : State, y0.Canon → State.Canon (f y0)) : State.Canon (s.pfWrite who f) := by
  unfold State.pfWrite
  with_reducible repeat' first
    | assumption | apply hf | apply State.okay_canon | apply State.deny_canon | apply canon_ite

theorem State.partCmd_canon {s : State} {who : Who} {k v : Nat} (hs : s.Canon) : State.Canon (s.partCmd who k v) :=
    by
  unfold State.partCmd
  repeat' first
    | with_reducible assumption | with_reducible apply State.startCmd_canon
    | with_reducible apply State.stopCmd_canon | with_reducible apply State.okay_canon | split

theorem State.partResetWrite_canon {s : State} {who : Who} {k v : Nat} (hs : s.Canon) : State.Canon
    (s.partResetWrite who k v) := by
  unfold State.partResetWrite
  with_reducible repeat' first
    | assumption | apply State.deny_canon | apply State.okay_canon | apply State.resetPart_canon | apply canon_ite

theorem State.plumbCfg_canon {s : State} {who : Who} {p : Place} {off v : Nat} (hs : s.Canon) : State.Canon
    (s.plumbCfg who p off v) := by
  unfold State.plumbCfg
  with_reducible repeat' first
    | assumption | apply State.deny_canon | apply State.okay_canon | apply State.plumbSync_canon
    | apply State.putReg_canon | apply canon_ite

theorem State.recCtrl_canon {s : State} {who : Who} {k v : Nat} (hs : s.Canon) : State.Canon (s.recCtrl who k v) :=
    by
  unfold State.recCtrl
  repeat' first
    | with_reducible assumption | with_reducible intro _ | with_reducible apply State.recCmd_canon
    | with_reducible apply State.recAsk_canon | with_reducible apply State.recOff_canon
    | with_reducible apply State.wr_canon | with_reducible apply State.doRestore_canon
    | with_reducible apply State.okay_canon | split

theorem State.recCfg_canon {s : State} {p : Place} {off v : Nat} (hs : s.Canon) : State.Canon (s.recCfg p off v) :=
    by
  unfold State.recCfg
  with_reducible repeat' first
    | assumption | apply State.okay_canon | apply State.recResult_canon | apply State.putReg_canon
    | apply State.wf_canon | apply canon_ite

theorem State.recReplay_canon {s : State} {who : Who} {p : Place} {off v : Nat} (hs : s.Canon) : State.Canon
    (s.recReplay who p off v) := by
  unfold State.recReplay
  with_reducible repeat' first
    | assumption | apply State.okay_canon | apply State.recResult_canon | apply State.putReg_canon | apply canon_ite

theorem State.writePart_canon {s : State} {who : Who} {p : Place} {off v : Nat} (hs : s.Canon) : State.Canon
    (s.writePart who p off v) := by
  unfold State.writePart
  with_reducible repeat' first
    | assumption | apply State.partResetWrite_canon | apply State.txDeny_canon | apply State.partCmd_canon
    | apply State.deny_canon | apply State.cfgtxWrite_canon | apply State.rwtPart_canon | apply State.okay_canon
    | apply State.shResult_canon | apply State.holdLo_canon | apply State.stageWrite_canon
    | apply State.swhold_canon | apply State.wf_canon | apply State.plumbCfg_canon | apply State.psWrite_canon
    | apply State.recCtrl_canon | apply State.recCfg_canon | apply State.regionWrite_canon
    | apply State.recReplay_canon | apply State.tailWrite_canon | apply State.putAny_canon | apply canon_ite

theorem State.enumCtrl_canon {s : State} {v : Nat} (hs : s.Canon) : State.Canon (s.enumCtrl v) := by
  unfold State.enumCtrl
  with_reducible repeat' first | assumption | apply State.wf_canon | apply State.enumAsk_canon | apply canon_ite

theorem State.writeChain_canon {s : State} {p : Place} {off v : Nat} (hs : s.Canon) : State.Canon
    (s.writeChain p off v) := by
  unfold State.writeChain
  with_reducible repeat' first
    | assumption | apply State.enumCtrl_canon | apply State.wf_canon | apply State.putAny_canon | apply canon_ite

theorem State.updateCtrl_canon {s : State} {who : Who} {v : Nat} (hs : s.Canon) : State.Canon (s.updateCtrl who v)
    := by
  unfold State.updateCtrl
  repeat' first
    | with_reducible assumption | with_reducible intro _ | with_reducible apply State.updateCmd_canon
    | with_reducible apply State.updateWrite_canon | with_reducible apply State.updateVerify_canon
    | with_reducible apply State.activate_canon | with_reducible apply State.confirm_canon
    | with_reducible apply State.pfWrite_canon | with_reducible apply canon_id | split

theorem State.keyramCtrl_canon {s : State} {v : Nat} (hs : s.Canon) : State.Canon (s.keyramCtrl v) := by
  unfold State.keyramCtrl
  with_reducible repeat' first
    | assumption | apply State.keyLoad_canon | apply State.wipeKeyRam_canon | apply canon_ite

theorem State.keyramData_canon {s : State} {off v : Nat} (hs : s.Canon) : State.Canon (s.keyramData off v) := by
  unfold State.keyramData
  with_reducible repeat' first | assumption | apply State.violation_canon | apply State.wr_canon | apply canon_ite

theorem State.writeBoot_canon {s : State} {who : Who} {p : Place} {off v : Nat} (hs : s.Canon) : State.Canon
    (s.writeBoot who p off v) := by
  unfold State.writeBoot
  with_reducible repeat' first
    | assumption | intro _ | apply State.updateCtrl_canon | apply State.loadCtrl_canon | apply State.pfWrite_canon
    | apply State.recoveryCtrl_canon | apply State.bootOnly_canon | apply State.lcGo_canon
    | apply State.lcIdle_canon | apply State.putReg_canon | apply State.keyramCtrl_canon
    | apply State.keyramData_canon | apply State.putAny_canon | apply canon_ite | apply canon_id

theorem State.tlTime_canon {s : State} {hi : Nat} (hs : s.Canon) : State.Canon (s.tlTime hi) := by
  unfold State.tlTime
  with_reducible repeat' first | assumption | apply State.takeLo_canon | apply State.wr_canon

theorem State.writeTime_canon {s : State} {who : Who} {p : Place} {off v : Nat} (hs : s.Canon) : State.Canon
    (s.writeTime who p off v) := by
  unfold State.writeTime
  with_reducible repeat' first
    | assumption | apply State.okay_canon | apply State.wr_canon | apply State.deny_canon | apply State.holdLo_canon
    | apply State.tlTime_canon | apply State.tlCfg_canon | apply State.takeLo_canon | apply State.setTime_canon
    | apply State.writeTimeInc_canon | apply State.timeCtrl_canon | apply State.meterCfg_canon
    | apply State.putAny_canon | apply canon_ite

theorem State.plCtrl_canon {s : State} {who : Who} {v : Nat} (hs : s.Canon) : State.Canon (s.plCtrl who v) := by
  unfold State.plCtrl
  repeat' first
    | with_reducible assumption | with_reducible apply State.plAsk_canon | with_reducible apply State.pfWrite_canon
    | with_reducible apply State.voltAck_canon | with_reducible apply canon_ite | with_reducible apply canon_id
    | simp only [canon_update]

theorem State.pwrCtrl_canon {s : State} {who : Who} {v : Nat} (hs : s.Canon) : State.Canon (s.pwrCtrl who v) := by
  unfold State.pwrCtrl
  repeat' first
    | with_reducible assumption | with_reducible apply State.denySleep_canon
    | with_reducible apply State.deny_canon | with_reducible apply State.okay_canon
    | with_reducible apply State.sleepAsk_canon
    | with_reducible apply State.pwrFields_canon | split

theorem State.writePower_canon {s : State} {who : Who} {p : Place} {off v : Nat} (hs : s.Canon) : State.Canon
    (s.writePower who p off v) := by
  unfold State.writePower
  with_reducible repeat' first
    | assumption | intro _ | apply State.plCtrl_canon | apply State.pwrCtrl_canon | apply State.warmAsk_canon
    | apply State.pfWrite_canon | apply State.domWrite_canon | apply State.putAny_canon | apply canon_ite
    | apply canon_id

theorem State.periphCfg_canon {s : State} {p : Place} {off v : Nat} (hs : s.Canon) : State.Canon
    (s.periphCfg p off v) := by
  unfold State.periphCfg
  with_reducible repeat' first | assumption | apply State.putFields_canon

theorem State.writePins_canon {s : State} {p : Place} {off v : Nat} (hs : s.Canon) : State.Canon
    (s.writePins p off v) := by
  unfold State.writePins
  with_reducible repeat' first
    | assumption | apply State.routeData_canon | apply State.periphEn_canon | apply State.periphCfg_canon
    | apply State.putAny_canon | apply canon_ite

theorem State.writeHost_canon {s : State} {who : Who} {o v : Nat} (hs : s.Canon) : State.Canon (s.writeHost who o v)
    := by
  unfold State.writeHost
  repeat' first
    | with_reducible assumption | with_reducible apply State.wr_canon | split

theorem State.writeDev_canon {s : State} {who : Who} {p : Place} {off v : Nat} (hs : s.Canon) : State.Canon
    (s.writeDev who p off v) := by
  unfold State.writeDev
  with_reducible repeat' first
    | assumption | intro _ | apply State.debugCtrl_canon | apply State.pfWrite_canon | apply State.writeChain_canon
    | apply State.writeBoot_canon | apply State.writeTime_canon | apply State.writePower_canon
    | apply State.writePins_canon | apply State.okay_canon | apply State.writeHost_canon
    | apply State.cfgtxWrite_canon | apply State.infoWrite_canon | apply State.routeWrite_canon
    | apply State.evtSw_canon | apply State.putFields_canon | apply State.putAny_canon | apply canon_ite

theorem State.flagWrite_canon {s : State} {who : Who} {d v : Nat} (hs : s.Canon) : State.Canon (s.flagWrite who d v)
    := by
  unfold State.flagWrite
  with_reducible repeat' first
    | assumption | intro _ | apply State.taskGuard_canon | apply State.clearFlag_canon | apply State.setFlag_canon
    | apply canon_ite

theorem State.taskSelWrite_canon {s : State} {who : Who} {d v : Nat} (hs : s.Canon) : State.Canon
    (s.taskSelWrite who d v) := by
  unfold State.taskSelWrite
  with_reducible repeat' first
    | assumption | intro _ | apply State.taskGuard_canon | apply State.histClear_canon | apply State.wf_canon
    | apply State.okay_canon | apply canon_ite

theorem State.taskArg_canon {s : State} {d hi : Nat} (hs : s.Canon) : State.Canon (s.taskArg d hi) := by
  unfold State.taskArg
  with_reducible repeat' first | assumption | apply State.takeLo_canon | apply State.taskPut_canon

theorem State.writeTask_canon {s : State} {who : Who} {d off o v : Nat} (hs : s.Canon) : State.Canon
    (s.writeTask who d off o v) := by
  unfold State.writeTask
  with_reducible repeat' first
    | assumption | intro _ | apply State.taskCfgWrite_canon | apply State.taskGuard_canon
    | apply State.taskSet_canon | apply State.holdLo_canon | apply State.taskArg_canon | apply canon_ite

theorem State.wordCfg_canon {s : State} {who : Who} {p : Place} {off v : Nat} (hs : s.Canon) : State.Canon
    (s.wordCfg who p off v) := by
  unfold State.wordCfg
  with_reducible repeat' first
    | assumption | apply State.deny_canon | apply State.okay_canon | apply State.wf_canon | apply State.putReg_canon
    | apply canon_ite

theorem State.writeBank_canon {s : State} {p : Place} {off v : Nat} (hs : s.Canon) : State.Canon
    (s.writeBank p off v) := by
  unfold State.writeBank
  with_reducible repeat' first
    | assumption | apply State.putReg_canon | apply State.wf_canon | apply State.releaseBank_canon
    | apply State.putAny_canon | apply canon_ite

theorem State.hbmCfg_canon {s : State} {p : Place} {off v : Nat} (hs : s.Canon) : State.Canon (s.hbmCfg p off v) :=
    by
  unfold State.hbmCfg
  with_reducible repeat' first | assumption | apply State.putReg_canon

theorem State.cnTimeoutCfg_canon {s : State} {d v : Nat} (hs : s.Canon) : State.Canon (s.cnTimeoutCfg d v) := by
  unfold State.cnTimeoutCfg
  with_reducible repeat' first | assumption | apply State.wf_canon

theorem State.newtCtrl_canon {s : State} {p : Place} {off v : Nat} (hs : s.Canon) : State.Canon (s.newtCtrl p off v)
    := by
  unfold State.newtCtrl
  with_reducible repeat' first | assumption | apply State.putReg_canon | apply State.newtUnpin_canon | apply canon_ite

theorem State.writeDie_canon {s : State} {who : Who} {p : Place} {off v : Nat} (hs : s.Canon) : State.Canon
    (s.writeDie who p off v) := by
  unfold State.writeDie
  with_reducible repeat' first
    | assumption | intro _ | apply State.okay_canon | apply State.bedAccess_canon | apply State.wuAccess_canon
    | apply State.mortarAccess_canon | apply State.pfWrite_canon | apply State.newtCtrl_canon
    | apply State.newtRequest_canon | apply State.tcInvWrite_canon | apply State.fenceWrite_canon
    | apply State.deny_canon | apply State.coreBindWrite_canon | apply State.putReg_canon
    | apply State.flagWrite_canon | apply State.taskSelWrite_canon | apply State.writeTask_canon
    | apply State.wordCfg_canon | apply State.probeMapWrite_canon | apply State.routeEntry_canon
    | apply State.cnTimeoutCfg_canon | apply State.hbmCfg_canon | apply State.ownWrite_canon
    | apply State.gpTgtWrite_canon | apply State.writeBank_canon | apply State.putAny_canon | apply canon_ite
    | apply canon_id

theorem State.writeQueue_canon {s : State} {who : Who} {p : Place} {off v : Nat} (hs : s.Canon) : State.Canon
    (s.writeQueue who p off v) := by
  unfold State.writeQueue
  with_reducible repeat' first
    | assumption | apply State.qCfgWrite_canon | apply State.qCtrlWrite_canon | apply State.okay_canon
    | apply State.putReg_canon | apply State.deny_canon | apply State.accBit_canon | apply State.qHoldLo_canon
    | apply State.hostPush_canon | apply canon_ite

theorem State.writeTrig_canon {s : State} {who : Who} {p : Place} {off v : Nat} (hs : s.Canon) : State.Canon
    (s.writeTrig who p off v) := by
  unfold State.writeTrig
  with_reducible repeat' first
    | assumption | apply State.deny_canon | apply State.okay_canon | apply State.trigCmd_canon
    | apply State.trigResult_canon | apply State.putAny_canon | apply canon_ite

theorem State.laneJoins_canon {s : State} {p l : Nat} (hs : s.Canon) : State.Canon (s.laneJoins p l) := by
  unfold State.laneJoins
  repeat' first
    | with_reducible assumption | with_reducible apply State.orf_canon | with_reducible apply State.wf_canon
    | with_reducible apply State.alignBlocks_canon | with_reducible apply canon_ite | split
    | simp only [canon_update]

theorem State.portCfg_canon {s : State} {p v : Nat} (hs : s.Canon) : State.Canon (s.portCfg p v) := by
  unfold State.portCfg
  with_reducible repeat' first
    | apply canon_foldl | intro _
    | apply State.laneJoins_canon
    | assumption | apply State.portSync_canon | apply State.wf_canon

theorem State.portCmd_canon {s : State} {p v : Nat} (hs : s.Canon) : State.Canon (s.portCmd p v) := by
  unfold State.portCmd
  with_reducible repeat' first | assumption | apply State.rateAsk_canon | apply State.psAsk_canon | apply canon_ite

theorem State.writePort_canon {s : State} {p : Place} {off v : Nat} (hs : s.Canon) : State.Canon
    (s.writePort p off v) := by
  unfold State.writePort
  with_reducible repeat' first
    | assumption | apply State.portCfg_canon | apply State.portCmd_canon | apply State.putAny_canon
    | apply canon_ite

theorem State.laneFir_canon {s : State} {p : Place} {off v : Nat} (hs : s.Canon) : State.Canon (s.laneFir p off v)
    := by
  unfold State.laneFir
  with_reducible repeat' first | assumption | apply State.wf_canon | apply State.putReg_canon | apply canon_ite

theorem State.laneRx_canon {s : State} {p : Place} {off v : Nat} (hs : s.Canon) : State.Canon (s.laneRx p off v) :=
    by
  unfold State.laneRx
  with_reducible repeat' first | assumption | apply State.track_canon | apply State.putReg_canon

theorem State.writeLane_canon {s : State} {p : Place} {off v : Nat} (hs : s.Canon) : State.Canon
    (s.writeLane p off v) := by
  unfold State.writeLane
  with_reducible repeat' first
    | assumption | apply State.laneCtrl_canon | apply State.laneFir_canon | apply State.laneRx_canon
    | apply State.bitslip_canon | apply State.putAny_canon | apply canon_ite

theorem State.writeReg_canon {s : State} {who : Who} {off v : Nat} (hs : s.Canon) : State.Canon
    (s.writeReg who off v) := by
  unfold State.writeReg
  repeat' first
    | with_reducible assumption | with_reducible intro _ | with_reducible apply State.okay_canon
    | with_reducible apply State.writePart_canon | with_reducible apply State.writeDev_canon
    | with_reducible apply State.writeDie_canon | with_reducible apply State.writeQueue_canon
    | with_reducible apply State.writeTrig_canon | with_reducible apply State.pfWrite_canon
    | with_reducible apply State.writePort_canon | with_reducible apply State.writeLane_canon | split

/-! ### Bus -/

theorem State.accessIn_canon {s : State} {who : Who} {dom : Option (Nat × Nat)} {source : Nat} {c : Instr}
    {f : State → Res} (hs : s.Canon) (hf : ∀ y0 : State, y0.Canon → Res.Canon (f y0)) : Res.Canon
    (s.accessIn who dom source c f) := by
  unfold State.accessIn
  repeat' first
    | with_reducible assumption | with_reducible apply State.accessAs_canon
    | with_reducible apply State.accessDom_canon | split

theorem State.csrWrite_canon {s : State} {c n : Nat} {hi : Bool} {v : Nat} (hs : s.Canon) : State.Canon
    (s.csrWrite c n hi v) := by
  unfold State.csrWrite
  with_reducible repeat' first | assumption | apply State.coreIllegal_canon | apply State.wr_canon | apply canon_ite

theorem State.csrRead_canon {s : State} {c n : Nat} {hi : Bool} (hs : s.Canon) : State.Canon (s.csrRead c n hi) :=
    by
  unfold State.csrRead
  with_reducible repeat' first
    | assumption | apply State.coreIllegal_canon | apply State.free_canon | apply State.ans_canon | apply canon_ite

theorem State.csrAccess_canon {s : State} {who : Who} {f : State → Nat → State} (hs : s.Canon)
    (hf : ∀ y0 : State, y0.Canon → ∀ y1 : Nat, State.Canon (f y0 y1)) : Res.Canon (s.csrAccess who f) := by
  unfold State.csrAccess
  repeat' first
    | with_reducible assumption | with_reducible intro _ | with_reducible apply hf
    | with_reducible apply State.live_canon | with_reducible apply State.coreDoes_canon
    | with_reducible apply canon_next | split

theorem State.busRead_canon {s : State} {who : Who} {off : Nat} {c : Instr} (hs : s.Canon) : Res.Canon
    (s.busRead who off c) := by
  unfold State.busRead
  repeat' first
    | with_reducible assumption | with_reducible intro _ | with_reducible apply State.csrAccess_canon
    | with_reducible apply State.csrRead_canon | with_reducible apply State.accessIn_canon
    | with_reducible apply State.readReg_canon | with_reducible apply canon_next | split

theorem State.busWrite_canon {s : State} {who : Who} {off v : Nat} {c : Instr} (hs : s.Canon) : Res.Canon
    (s.busWrite who off v c) := by
  unfold State.busWrite
  repeat' first
    | with_reducible assumption | with_reducible intro _ | with_reducible apply State.csrAccess_canon
    | with_reducible apply State.csrWrite_canon | with_reducible apply State.accessIn_canon
    | with_reducible apply State.writeReg_canon | with_reducible apply canon_next | split

theorem execRegisterWrite_canon {who : Who} {off : Nat} {val : Word} {s : State} (hs : s.Canon) : Res.Canon
    (execRegisterWrite who off val s) := by
  unfold execRegisterWrite
  with_reducible repeat' first | assumption | apply State.busWrite_canon

theorem execRcRead_canon {who : Who} {off : Nat} {s : State} (hs : s.Canon) : Res.Canon (execRcRead who off s) := by
  unfold execRcRead
  with_reducible repeat' first | assumption | apply State.busRead_canon

theorem execLohiLoRead_canon {who : Who} {off : Nat} {s : State} (hs : s.Canon) : Res.Canon
    (execLohiLoRead who off s) := by
  unfold execLohiLoRead
  with_reducible repeat' first | assumption | apply State.busRead_canon

theorem execLohiLoWrite_canon {who : Who} {off : Nat} {val : Word} {s : State} (hs : s.Canon) : Res.Canon
    (execLohiLoWrite who off val s) := by
  unfold execLohiLoWrite
  with_reducible repeat' first | assumption | apply State.busWrite_canon

theorem execLohiHiWrite_canon {who : Who} {off : Nat} {val : Word} {s : State} (hs : s.Canon) : Res.Canon
    (execLohiHiWrite who off val s) := by
  unfold execLohiHiWrite
  with_reducible repeat' first | assumption | apply State.busWrite_canon

theorem State.regParts_canon {s : State} {who : Who} {write : Bool} {off v st data k a : Nat} (hs : s.Canon) :
    State.Canon (s.regParts who write off v st data k a) := by
  fun_induction s.regParts who write off v st data k a
  all_goals with_reducible repeat' first
    | apply_assumption | apply State.writeReg_canon | apply State.readReg_canon | apply canon_ite

theorem State.regAccess_canon {s : State} {who : Who} {write : Bool} {off n v : Nat} (hs : s.Canon) : State.Canon
    (s.regAccess who write off n v) := by
  unfold State.regAccess
  with_reducible repeat' first | assumption | apply State.regParts_canon

theorem State.bayAccess_canon {s : State} {who : Who} {write : Bool} {die o : Nat} {size : AccSize} {v : Nat}
    (hs : s.Canon) : State.Canon (s.bayAccess who write die o size v) := by
  unfold State.bayAccess
  with_reducible repeat' first
    | assumption | apply State.bayServiceWrite_canon | apply State.bayServiceRead_canon | apply canon_ite

theorem State.request_canon {s : State} {who : Who} {write space : Bool} {off : Nat} {size : AccSize} {v : Nat}
    (hs : s.Canon) : State.Canon (s.request who write space off size v) := by
  unfold State.request
  repeat' first
    | with_reducible assumption | with_reducible apply HbmAns.answer_canon
    | with_reducible apply State.hbmReq_canon | with_reducible apply State.bayAccess_canon
    | with_reducible apply State.regAccess_canon | split

theorem execCnRequest_canon {who : Who} {write space : Bool} {off : BitVec 39} {size : AccSize} {data : BitVec 512}
    {s : State} (hs : s.Canon) : Res.Canon (execCnRequest who write space off size data s) := by
  unfold execCnRequest
  with_reducible repeat' first
    | assumption | intro _ | apply State.accessIn_canon | apply State.request_canon | apply canon_next

/-! ### Clock -/

theorem State.pairInc_canon {s : State} {off : Nat} (hs : s.Canon) : State.Canon (s.pairInc off) := by
  unfold State.pairInc
  with_reducible repeat' first | assumption | apply State.setPair_canon

theorem State.holdTick_canon {s : State} {k : Nat} (hs : s.Canon) : State.Canon (s.holdTick k) := by
  unfold State.holdTick
  with_reducible repeat' first
    | assumption | apply State.meter_canon | apply State.pairInc_canon | apply State.wr_canon | apply canon_ite

theorem State.coreTick_canon {s : State} {c : Nat} (hs : s.Canon) : State.Canon (s.coreTick c) := by
  unfold State.coreTick
  with_reducible repeat' first | assumption | apply State.wr_canon | apply canon_ite

theorem State.heldExpired_canon {s : State} {h : HeldReq} (hs : s.Canon) : State.Canon (s.heldExpired h) := by
  unfold State.heldExpired
  repeat' first
    | with_reducible assumption | with_reducible apply State.cnt_canon | with_reducible apply State.cnErr_canon
    | with_reducible apply State.noteStatus_canon | with_reducible apply State.complete_canon
    | with_reducible apply canon_ite | split | simp only [canon_update]

theorem State.heldTicks_canon {s : State} (hs : s.Canon) : State.Canon (s.heldTicks) := by
  unfold State.heldTicks
  repeat' first
    | with_reducible assumption | (intro _) | with_reducible apply State.heldExpired_canon
    | with_reducible apply canon_ite | with_reducible apply canon_foldl | split | simp only [canon_update]

theorem State.dieTick_canon {s : State} (hs : s.Canon) : State.Canon (s.dieTick) := by
  unfold State.dieTick
  repeat' first
    | with_reducible apply State.heldTicks_canon | with_reducible apply State.retrainTick_canon
    | with_reducible assumption | with_reducible intro _ | with_reducible apply State.each_canon
    | with_reducible apply State.holdTick_canon | with_reducible apply State.coreTick_canon
    | with_reducible apply State.gpTick_canon | simp only [canon_update]

theorem State.tclk_canon {s : State} (hs : s.Canon) : State.Canon (s.tclk) := by
  unfold State.tclk
  with_reducible repeat' first
    | assumption | apply State.advanceMono_canon | apply State.advanceTime_canon | apply State.flushVectors_canon
    | apply State.dieTick_canon | apply canon_ite

theorem execTclkTick_canon {s : State} (hs : s.Canon) : Res.Canon (execTclkTick s) := by
  unfold execTclkTick
  with_reducible repeat' first
    | assumption | intro _ | apply State.aon_canon | apply State.tclk_canon | apply canon_next

theorem execRcOscillatorTick_canon {s : State} (hs : s.Canon) : Res.Canon (execRcOscillatorTick s) := by
  unfold execRcOscillatorTick
  with_reducible repeat' first
    | assumption | intro _ | apply State.aon_canon | apply State.wf_canon | apply State.advanceMono_canon
    | apply State.advanceTime_canon | apply canon_next | apply canon_ite

theorem execRefclkReturn_canon {s : State} (hs : s.Canon) : Res.Canon (execRefclkReturn s) := by
  unfold execRefclkReturn
  with_reducible repeat' first
    | assumption | intro _ | apply State.aon_canon | apply State.wf_canon | apply State.wr_canon | apply canon_next

/-! ### Host -/

theorem State.msixWrite_canon {s : State} {f o z1 : Nat} (hs : s.Canon) : State.Canon (s.msixWrite f o z1) := by
  unfold State.msixWrite
  repeat' first
    | with_reducible assumption | (extract_lets +onlyGivenNames x; clear_value x)
    | with_reducible apply State.wr_canon | with_reducible apply State.vecUnmask_canon | split

theorem State.hostRouted_canon {s : State} {a : Nat} {f : State → State} (hs : s.Canon)
    (hf : ∀ y0 : State, y0.Canon → State.Canon (f y0)) : State.Canon (s.hostRouted a f) := by
  unfold State.hostRouted
  repeat' first
    | with_reducible assumption | (extract_lets +onlyGivenNames x; clear_value x) | with_reducible apply hf
    | with_reducible apply State.answerNoRoute_canon | split

theorem State.bar0Word_canon {s : State} {f : Fin 33} {write : Bool} {off v : Nat} (hs : s.Canon) : State.Canon
    (s.bar0Word f write off v) := by
  unfold State.bar0Word
  with_reducible repeat' first
    | assumption | intro _ | apply State.okay_canon | apply State.msixWrite_canon | apply State.ans_canon
    | apply State.hostRouted_canon | apply State.writeReg_canon | apply State.readReg_canon | apply canon_ite

theorem State.bar0Words_canon {s : State} {f : Fin 33} {write : Bool} {off v st data k a : Nat} (hs : s.Canon) :
    State.Canon (s.bar0Words f write off v st data k a) := by
  fun_induction s.bar0Words f write off v st data k a
  all_goals with_reducible repeat' first | apply_assumption | apply State.bar0Word_canon

theorem State.partialBE_canon {s : State} {f : Nat} {write : Bool} {off : Nat} (hs : s.Canon) : State.Canon
    (s.partialBE f write off) := by
  unfold State.partialBE
  repeat' first
    | with_reducible assumption | with_reducible apply State.hostError_canon | with_reducible apply State.ans_canon
    | with_reducible apply canon_ite | simp only [canon_update]

theorem State.bar0_canon {s : State} {f : Fin 33} {write : Bool} {off n v : Nat} (hs : s.Canon) : State.Canon
    (s.bar0 f write off n v) := by
  unfold State.bar0
  with_reducible repeat' first
    | assumption | apply State.bar0Words_canon | apply State.complete_canon | apply State.noteStatus_canon

theorem execBar0Access_canon {func : Fin 33} {write : Bool} {off : BitVec 27} {dwords : Nat} {data : BitVec 512}
    {partialBE : Bool} {s : State} (hs : s.Canon) : Res.Canon
    (execBar0Access func write off dwords data partialBE s) := by
  unfold execBar0Access
  with_reducible repeat' first
    | assumption | intro _ | apply State.access_canon | apply State.partialBE_canon | apply State.accessIn_canon
    | apply State.bar0_canon | apply canon_next | apply canon_resIte

theorem State.designAccess_canon {s : State} {f : Nat} {write : Bool} {o n v : Nat} (hs : s.Canon) : State.Canon
    (s.designAccess f write o n v) := by
  unfold State.designAccess
  repeat' first
    | with_reducible assumption | (extract_lets +onlyGivenNames x; clear_value x)
    | with_reducible apply State.deny_canon | with_reducible apply State.translate_canon
    | with_reducible apply State.frameAccess_canon | with_reducible apply State.ans_canon
    | with_reducible refine canon_snd (by assumption) ?_ | split

theorem State.remoteAddr_canon {s : State} {mode o : Nat} (hs : s.Canon) : State.Canon (s.remoteAddr mode o).2 := by
  unfold State.remoteAddr
  repeat' first
    | with_reducible assumption | with_reducible apply State.free_canon | split

theorem State.bar2Remote_canon {s : State} {f : Fin 33} {write : Bool} {o n v id bit : Nat} (hs : s.Canon) :
    State.Canon (s.bar2Remote f write o n v id bit) := by
  unfold State.bar2Remote
  repeat' first
    | with_reducible assumption | with_reducible refine canon_snd (by assumption) ?_ | (intro _) | with_reducible apply State.remoteAddr_canon
    | with_reducible apply State.stampCode_canon | with_reducible apply State.cnSendAs_canon
    | with_reducible apply canon_ite | split | simp only [canon_update]

theorem State.bar2Piece_canon {s : State} {f : Fin 33} {write : Bool} {o : Nat} {size : AccSize} {v : Nat}
    (hs : s.Canon) : State.Canon (s.bar2Piece f write o size v) := by
  unfold State.bar2Piece
  repeat' first
    | with_reducible apply State.ans_canon
    | with_reducible assumption | with_reducible intro _ | (extract_lets +onlyGivenNames x; clear_value x)
    | with_reducible apply State.bar2Remote_canon | with_reducible apply State.hostRouted_canon
    | with_reducible apply State.request_canon | with_reducible apply State.designAccess_canon | split

theorem State.bar2Pieces_canon {s : State} {f : Fin 33} {write : Bool} {base v st data o n a : Nat} (hs : s.Canon) :
    State.Canon (s.bar2Pieces f write base v st data o n a) := by
  induction a generalizing s st data o n with
  | zero => exact State.ans_canon hs
  | succ m ih =>
    unfold State.bar2Pieces
    exact canon_ite (State.ans_canon hs) (ih (State.noteStatus_canon (State.bar2Piece_canon hs)))

theorem State.stageWriteBytes_canon {s : State} {o v a : Nat} (hs : s.Canon) : State.Canon (s.stageWriteBytes o v a)
    := by
  fun_induction s.stageWriteBytes o v a
  all_goals with_reducible repeat' first | apply_assumption | apply State.wr_canon | apply canon_ite

theorem State.bar2Stage_canon {s : State} {write : Bool} {o n v : Nat} (hs : s.Canon) : State.Canon
    (s.bar2Stage write o n v) := by
  unfold State.bar2Stage
  with_reducible repeat' first
    | assumption | apply State.okay_canon | apply State.stageWriteBytes_canon | apply State.complete_canon
    | apply canon_ite

theorem State.bar2Far_canon {s : State} {f : Fin 33} {write : Bool} {base v o n : Nat} (hs : s.Canon) : State.Canon
    (s.bar2Far f write base v o n) := by
  unfold State.bar2Far
  repeat' first
    | with_reducible assumption | (intro _) | with_reducible apply State.complete_canon
    | with_reducible apply State.bar2Remote_canon | with_reducible apply canon_ite
    | with_reducible apply canon_foldl | split | simp only [canon_update]

theorem State.bar2_canon {s : State} {f : Fin 33} {write : Bool} {off n v : Nat} (hs : s.Canon) : State.Canon
    (s.bar2 f write off n v) := by
  unfold State.bar2
  with_reducible repeat' first
    | apply State.bar2Far_canon
    | assumption | apply State.bar2Stage_canon | apply State.bar2Pieces_canon | apply State.complete_canon
    | apply canon_ite

theorem execBar2Access_canon {func : Fin 33} {write : Bool} {off : BitVec 39} {bytes : Nat} {data : BitVec 512}
    {s : State} (hs : s.Canon) : Res.Canon (execBar2Access func write off bytes data s) := by
  unfold execBar2Access
  repeat' first
    | with_reducible apply State.hold_canon
    | with_reducible assumption | with_reducible intro _ | with_reducible apply State.accessIn_canon
    | with_reducible apply State.bar2_canon | with_reducible apply canon_next | with_reducible apply canon_ite
    | with_reducible apply canon_resIte | simp only [canon_update]

theorem State.perst_canon {s : State} (hs : s.Canon) : State.Canon (s.perst) := by
  unfold State.perst
  with_reducible repeat' first
    | assumption | apply State.wake_canon | apply State.wr_canon | apply State.endpointReset_canon | apply canon_ite

theorem execPerst_canon {s : State} (hs : s.Canon) : Res.Canon (execPerst s) := by
  unfold execPerst
  with_reducible repeat' first
    | assumption | intro _ | apply State.aon_canon | apply State.perst_canon | apply canon_next

theorem execFunctionLevelReset_canon {func : Fin 33} {s : State} (hs : s.Canon) : Res.Canon
    (execFunctionLevelReset func s) := by
  unfold execFunctionLevelReset
  with_reducible repeat' first
    | assumption | intro _ | apply State.aon_canon | apply State.funcReset_canon | apply canon_next
    | apply canon_ite

/-! ### Block -/

theorem State.period_canon {s : State} (hs : s.Canon) : State.Canon (s.period) := by
  unfold State.period
  with_reducible repeat' first
    | assumption | intro _ | apply State.tick_canon | apply State.parkWoken_canon | apply State.transmit_canon
    | apply State.chainBegin_canon | apply State.each_canon | apply State.newtRepaired_canon | apply canon_ite

/-! ### Dispatch -/

theorem exec_canon {i : Instr} {s : State} (hs : s.Canon) : Res.Canon (exec i s) := by
  cases i with
  | registerWrite who off val => exact @execRegisterWrite_canon who off val s hs
  | rcRead who off => exact @execRcRead_canon who off s hs
  | lohiLoRead who off => exact @execLohiLoRead_canon who off s hs
  | lohiLoWrite who off val => exact @execLohiLoWrite_canon who off val s hs
  | lohiHiWrite who off val => exact @execLohiHiWrite_canon who off val s hs
  | bayDutStep w => exact @execBayDutStep_canon w s hs
  | bayrdDelivery u => exact @execBayrdDelivery_canon u s hs
  | bayServiceRead who w off size => exact @execBayServiceRead_canon who w off size s hs
  | bayServiceWrite who w off size data => exact @execBayServiceWrite_canon who w off size data s hs
  | endOfCycleCommit slot => exact @execEndOfCycleCommit_canon slot s hs
  | cycleBegin slot others => exact @execCycleBegin_canon slot others s hs
  | gateRound slot others => exact @execGateRound_canon slot others s hs
  | start who slot => exact @execStart_canon who slot s hs
  | stop who slot => exact @execStop_canon who slot s hs
  | stopNow who slot => exact @execStopNow_canon who slot s hs
  | partReset who slot => exact @execPartReset_canon who slot s hs
  | swholdWrite who slot val => exact @execSwholdWrite_canon who slot val s hs
  | holdObserved slot others => exact @execHoldObserved_canon slot others s hs
  | holdRelease slot others => exact @execHoldRelease_canon slot others s hs
  | holdTimeout slot => exact @execHoldTimeout_canon slot s hs
  | gateTimeout slot => exact @execGateTimeout_canon slot s hs
  | plumbUp port pid st => exact @execPlumbUp_canon port pid st s hs
  | plumbDown port pid st => exact @execPlumbDown_canon port pid st s hs
  | rollCallLoss slot pos => exact @execRollCallLoss_canon slot pos s hs
  | sever port pid lost reason detector => exact @execSever_canon port pid lost reason detector s hs
  | stopNotice port pid code imm dev cyc => exact @execStopNotice_canon port pid code imm dev cyc s hs
  | debugCtrlWrite who val => exact @execDebugCtrlWrite_canon who val s hs
  | partitionSection sec => exact @execPartitionSection_canon sec s hs
  | bedAccRead who die => exact @execBedAccRead_canon who die s hs
  | bedAccWrite who die setPres clrPres => exact @execBedAccWrite_canon who die setPres clrPres s hs
  | bedAccDone die => exact @execBedAccDone_canon die s hs
  | wuAccRead who die => exact @execWuAccRead_canon who die s hs
  | wuAccWrite who die => exact @execWuAccWrite_canon who die s hs
  | wuAccDone die => exact @execWuAccDone_canon die s hs
  | mortarAccRead who die => exact @execMortarAccRead_canon who die s hs
  | mortarAccWrite who die => exact @execMortarAccWrite_canon who die s hs
  | laneCfgWrite who die => exact @execLaneCfgWrite_canon who die s hs
  | mortarAccDone die => exact @execMortarAccDone_canon die s hs
  | laneSend b lane => exact @execLaneSend_canon b lane s hs
  | laneRelay b lane => exact @execLaneRelay_canon b lane s hs
  | switchEntry sw out step => exact @execSwitchEntry_canon sw out step s hs
  | moduleEntry die module pos step => exact @execModuleEntry_canon die module pos step s hs
  | moduleTransferReceive die module step crcOk => exact @execModuleTransferReceive_canon die module step crcOk s hs
  | linkSendEntry port slot step => exact @execLinkSendEntry_canon port slot step s hs
  | mortarFrame port hdr payload => exact @execMortarFrame_canon port hdr payload s hs
  | landingWrite b lane step => exact @execLandingWrite_canon b lane step s hs
  | mmeWalk die engine req => exact @execMmeWalk_canon die engine req s hs
  | mmePageEntryFree die engine => exact @execMmePageEntryFree_canon die engine s hs
  | pageServiceMessageWritten die engine => exact @execPageServiceMessageWritten_canon die engine s hs
  | memPsDone who slot page => exact @execMemPsDone_canon who slot page s hs
  | memPsFail who slot page => exact @execMemPsFail_canon who slot page s hs
  | mmeDelivery die engine req => exact @execMmeDelivery_canon die engine req s hs
  | memTcInv who die val => exact @execMemTcInv_canon who die val s hs
  | memTcInvDone die => exact @execMemTcInvDone_canon die s hs
  | mmeFence who die engine val => exact @execMmeFence_canon who die engine val s hs
  | mmeFenceDone die engine => exact @execMmeFenceDone_canon die engine s hs
  | newtRegionStart die => exact @execNewtRegionStart_canon die s hs
  | newtSaveEnd die => exact @execNewtSaveEnd_canon die s hs
  | newtMarchEnd die fails => exact @execNewtMarchEnd_canon die fails s hs
  | newtFillEnd die => exact @execNewtFillEnd_canon die s hs
  | newtRestoreEnd die => exact @execNewtRestoreEnd_canon die s hs
  | newtReq who die val => exact @execNewtReq_canon who die val s hs
  | unpin who die => exact @execUnpin_canon who die s hs
  | jnext die core => exact @execJnext_canon die core s hs
  | jdone die core val => exact @execJdone_canon die core val s hs
  | jqdataPop die core => exact @execJqdataPop_canon die core s hs
  | jqdataPush die core val => exact @execJqdataPush_canon die core val s hs
  | jqend die core val => exact @execJqend_canon die core val s hs
  | jrsp die core val => exact @execJrsp_canon die core val s hs
  | portalMessageWritten u => exact @execPortalMessageWritten_canon u s hs
  | portalResponse die core => exact @execPortalResponse_canon die core s hs
  | taskTimeout die task => exact @execTaskTimeout_canon die task s hs
  | dispatch die => exact @execDispatch_canon die s hs
  | dispFlagSet who die task flag => exact @execDispFlagSet_canon who die task flag s hs
  | dispFlagClear who die task flag => exact @execDispFlagClear_canon who die task flag s hs
  | taskCfgWrite who die val => exact @execTaskCfgWrite_canon who die val s hs
  | taskHistClear who die => exact @execTaskHistClear_canon who die s hs
  | coreBindWrite who die core val => exact @execCoreBindWrite_canon who die core val s hs
  | coreReset who die core => exact @execCoreReset_canon who die core s hs
  | queueCfgWrite who die q val => exact @execQueueCfgWrite_canon who die q val s hs
  | queueEnable who die q => exact @execQueueEnable_canon who die q s hs
  | queueDisable who die q => exact @execQueueDisable_canon who die q s hs
  | flush who die q => exact @execFlush_canon who die q s hs
  | queueReset who die q => exact @execQueueReset_canon who die q s hs
  | queuePop who die q => exact @execQueuePop_canon who die q s hs
  | queuePush who die q hi => exact @execQueuePush_canon who die q hi s hs
  | packetReadable die q => exact @execPacketReadable_canon die q s hs
  | recArm who slot => exact @execRecArm_canon who slot s hs
  | recStart who slot => exact @execRecStart_canon who slot s hs
  | recStop who slot => exact @execRecStop_canon who slot s hs
  | recOff who slot => exact @execRecOff_canon who slot s hs
  | recSnap who slot => exact @execRecSnap_canon who slot s hs
  | restore who slot => exact @execRestore_canon who slot s hs
  | recRegionWrite who slot val => exact @execRecRegionWrite_canon who slot val s hs
  | recTailWrite who slot hi => exact @execRecTailWrite_canon who slot hi s hs
  | snapEnd slot => exact @execSnapEnd_canon slot s hs
  | recorderBufferDrained die packets => exact @execRecorderBufferDrained_canon die packets s hs
  | feedPacket slot => exact @execFeedPacket_canon slot s hs
  | dumpRowCopy slot w step => exact @execDumpRowCopy_canon slot w step s hs
  | trigArm who die unit => exact @execTrigArm_canon who die unit s hs
  | trigDisarm who die unit => exact @execTrigDisarm_canon who die unit s hs
  | trigForce who die unit => exact @execTrigForce_canon who die unit s hs
  | triggerInputEdge input => exact @execTriggerInputEdge_canon input s hs
  | probeMapWrite who die val => exact @execProbeMapWrite_canon who die val s hs
  | probeMapRead who die => exact @execProbeMapRead_canon who die s hs
  | skinkBlock port lane bits replay => exact @execSkinkBlock_canon port lane bits replay s hs
  | symbolSilenceTimeout port => exact @execSymbolSilenceTimeout_canon port s hs
  | nak port block => exact @execNak_canon port block s hs
  | heartbeatInterval port => exact @execHeartbeatInterval_canon port s hs
  | heartbeat port => exact @execHeartbeat_canon port s hs
  | laneTrain who port lane val => exact @execLaneTrain_canon who port lane val s hs
  | trainingTimeout port lane => exact @execTrainingTimeout_canon port lane s hs
  | linkBitslip who port lane => exact @execLinkBitslip_canon who port lane s hs
  | headerLock port lane => exact @execHeaderLock_canon port lane s hs
  | blockLock port lane => exact @execBlockLock_canon port lane s hs
  | caps port lane content => exact @execCaps_canon port lane content s hs
  | presencePoll port lane signal => exact @execPresencePoll_canon port lane signal s hs
  | rateReqSend who port val => exact @execRateReqSend_canon who port val s hs
  | rateReq port rate => exact @execRateReq_canon port rate s hs
  | rateAck port rate refused => exact @execRateAck_canon port rate refused s hs
  | rateSwitch port => exact @execRateSwitch_canon port s hs
  | pstateRequest who port val => exact @execPstateRequest_canon who port val s hs
  | pstate port st => exact @execPstate_canon port st s hs
  | portWake port => exact @execPortWake_canon port s hs
  | dormantRelockTimeout port => exact @execDormantRelockTimeout_canon port s hs
  | enumStart who => exact @execEnumStart_canon who s hs
  | search epoch next => exact @execSearch_canon epoch next s hs
  | count epoch n overflow => exact @execCount_canon epoch n overflow s hs
  | commit epoch n => exact @execCommit_canon epoch n s hs
  | commitAck epoch => exact @execCommitAck_canon epoch s hs
  | abort epoch reason => exact @execAbort_canon epoch reason s hs
  | enumCountTimeout => exact @execEnumCountTimeout_canon s hs
  | neighbor port addr peer => exact @execNeighbor_canon port addr peer s hs
  | tree port epoch hop sender => exact @execTree_canon port epoch hop sender s hs
  | treeWindowClose => exact @execTreeWindowClose_canon s hs
  | treeAck port epoch child => exact @execTreeAck_canon port epoch child s hs
  | treePhaseEnd => exact @execTreePhaseEnd_canon s hs
  | busToken port epoch passed => exact @execBusToken_canon port epoch passed s hs
  | busListenEnd sync present => exact @execBusListenEnd_canon sync present s hs
  | powerOnReset => exact @execPowerOnReset_canon s hs
  | resetN => exact @execResetN_canon s hs
  | warmReset who => exact @execWarmReset_canon who s hs
  | imageStream hdr => exact @execImageStream_canon hdr s hs
  | endMark => exact @execEndMark_canon s hs
  | doneRise => exact @execDoneRise_canon s hs
  | doneFall => exact @execDoneFall_canon s hs
  | loadGo who => exact @execLoadGo_canon who s hs
  | recoveryGo who => exact @execRecoveryGo_canon who s hs
  | updateWrite who target slot => exact @execUpdateWrite_canon who target slot s hs
  | updateVerify who target slot => exact @execUpdateVerify_canon who target slot s hs
  | activate who target slot => exact @execActivate_canon who target slot s hs
  | confirm who target => exact @execConfirm_canon who target s hs
  | lcTransition who target => exact @execLcTransition_canon who target s hs
  | tamperDetect source => exact @execTamperDetect_canon source s hs
  | keyramLoad who => exact @execKeyramLoad_canon who s hs
  | keyramWipe who => exact @execKeyramWipe_canon who s hs
  | vbatLoss => exact @execVbatLoss_canon s hs
  | timeSet who hi => exact @execTimeSet_canon who hi s hs
  | timeIncWrite who hi => exact @execTimeIncWrite_canon who hi s hs
  | ppsEdge => exact @execPpsEdge_canon s hs
  | ppsHoldoverTimeout => exact @execPpsHoldoverTimeout_canon s hs
  | timeMsgTimeout => exact @execTimeMsgTimeout_canon s hs
  | synced who => exact @execSynced_canon who s hs
  | timeSecond => exact @execTimeSecond_canon s hs
  | time port hops sec => exact @execTime_canon port hops sec s hs
  | check port t => exact @execCheck_canon port t s hs
  | launchArm who val => exact @execLaunchArm_canon who val s hs
  | launchDisarm who => exact @execLaunchDisarm_canon who s hs
  | launchFire slot => exact @execLaunchFire_canon slot s hs
  | fired port pid tag membersM1 cyc => exact @execFired_canon port pid tag membersM1 cyc s hs
  | go port pid tag cyc => exact @execGo_canon port pid tag cyc s hs
  | epochClose => exact @execEpochClose_canon s hs
  | meterExport who => exact @execMeterExport_canon who s hs
  | requestSend die ni tag write size addr data => exact @execRequestSend_canon die ni tag write size addr data s hs
  | cnRequest who write space off size data => exact @execCnRequest_canon who write space off size data s hs
  | cnResponse die ni tag gen status body => exact @execCnResponse_canon die ni tag gen status body s hs
  | requestTimeout die ni tag => exact @execRequestTimeout_canon die ni tag s hs
  | wakeNotice die ni tag => exact @execWakeNotice_canon die ni tag s hs
  | wakePauseExpiry die ni tag => exact @execWakePauseExpiry_canon die ni tag s hs
  | snoopInvalidation die line => exact @execSnoopInvalidation_canon die line s hs
  | routeEntryRead who die => exact @execRouteEntryRead_canon who die s hs
  | routeEntryWrite who die => exact @execRouteEntryWrite_canon who die s hs
  | hbmRequest who write addr size data hint => exact @execHbmRequest_canon who write addr size data hint s hs
  | patrolScrub die => exact @execPatrolScrub_canon die s hs
  | bankRefresh die pc bank tempC => exact @execBankRefresh_canon die pc bank tempC s hs
  | pseudoChannelRetrain die pc => exact @execPseudoChannelRetrain_canon die pc s hs
  | hbmTraining die => exact @execHbmTraining_canon die s hs
  | hbmTrainingDone die repairs unrepairable => exact @execHbmTrainingDone_canon die repairs unrepairable s hs
  | ownershipEntryWrite who die val => exact @execOwnershipEntryWrite_canon who die val s hs
  | ownershipEntryRead who die => exact @execOwnershipEntryRead_canon who die s hs
  | plChangeRequest who target => exact @execPlChangeRequest_canon who target s hs
  | plChangeFrozen => exact @execPlChangeFrozen_canon s hs
  | voltDone who => exact @execVoltDone_canon who s hs
  | voltageTimeout => exact @execVoltageTimeout_canon s hs
  | pllRelock => exact @execPllRelock_canon s hs
  | refclkLost => exact @execRefclkLost_canon s hs
  | domainCtrlWrite who val => exact @execDomainCtrlWrite_canon who val s hs
  | domainPowerUp die dom => exact @execDomainPowerUp_canon die dom s hs
  | park who val => exact @execPark_canon who val s hs
  | slumber who val => exact @execSlumber_canon who val s hs
  | cancel who => exact @execCancel_canon who s hs
  | drainEnd => exact @execDrainEnd_canon s hs
  | drainTimeout => exact @execDrainTimeout_canon s hs
  | entryPhaseEnd => exact @execEntryPhaseEnd_canon s hs
  | wakePin pin => exact @execWakePin_canon pin s hs
  | wakeLink port => exact @execWakeLink_canon port s hs
  | wakeTimer => exact @execWakeTimer_canon s hs
  | wakePcie => exact @execWakePcie_canon s hs
  | wakeNet => exact @execWakeNet_canon s hs
  | designRestoreDone => exact @execDesignRestoreDone_canon s hs
  | off => exact @execOff_canon s hs
  | routeDataWrite who val => exact @execRouteDataWrite_canon who val s hs
  | periphEnWrite who val => exact @execPeriphEnWrite_canon who val s hs
  | uartTransmit u => exact @execUartTransmit_canon u s hs
  | uartReceive u byte framing brk => exact @execUartReceive_canon u byte framing brk s hs
  | i2cCommand k byteIn nack arbLost => exact @execI2cCommand_canon k byteIn nack arbLost s hs
  | smbusTimeout k => exact @execSmbusTimeout_canon k s hs
  | spiTransfer k miso => exact @execSpiTransfer_canon k miso s hs
  | gpTgtWrite who pin second val => exact @execGpTgtWrite_canon who pin second val s hs
  | gpOutSet who bank val => exact @execGpOutSet_canon who bank val s hs
  | gpOutClr who bank val => exact @execGpOutClr_canon who bank val s hs
  | gpOutTgl who bank val => exact @execGpOutTgl_canon who bank val s hs
  | gpInterrupt pin level => exact @execGpInterrupt_canon pin level s hs
  | release who bank => exact @execRelease_canon who bank s hs
  | bar0Access func write off dwords data partialBE => exact @execBar0Access_canon func write off dwords data partialBE s hs
  | bar2Access func write off bytes data => exact @execBar2Access_canon func write off bytes data s hs
  | perst => exact @execPerst_canon s hs
  | functionLevelReset func => exact @execFunctionLevelReset_canon func s hs
  | cfgtxBegin who device slot => exact @execCfgtxBegin_canon who device slot s hs
  | cfgtxCommit who device slot => exact @execCfgtxCommit_canon who device slot s hs
  | cfgtxAbort who device slot => exact @execCfgtxAbort_canon who device slot s hs
  | rwtWrite who off val => exact @execRwtWrite_canon who off val s hs
  | eseqStagingWrite who slot hi => exact @execEseqStagingWrite_canon who slot hi s hs
  | evtSw who val => exact @execEvtSw_canon who val s hs
  | evtRouteWrite who off val => exact @execEvtRouteWrite_canon who off val s hs
  | vectorMessage func vector => exact @execVectorMessage_canon func vector s hs
  | vectorUnmask func vector => exact @execVectorUnmask_canon func vector s hs
  | blockLockLoss port lane => exact @execBlockLockLoss_canon port lane s hs
  | tclkTick => exact @execTclkTick_canon s hs
  | rcOscillatorTick => exact @execRcOscillatorTick_canon s hs
  | refclkReturn => exact @execRefclkReturn_canon s hs
  | cowBufferDrained slot rows => exact @execCowBufferDrained_canon slot rows s hs
  | zeroFillDone die => exact @execZeroFillDone_canon die s hs
  | vddioChange bank present v33 => exact @execVddioChange_canon bank present v33 s hs
  | nop c => exact @execNop_canon c s hs
  | eval c => exact @execEval_canon c s hs
  | assert c => exact @execAssert_canon c s hs
  | yield c => exact @execYield_canon c s hs
  | cellOpReserved c => exact @execCellOpReserved_canon c s hs
  | pass b => exact @execPass_canon b s hs
  | neg b => exact @execNeg_canon b s hs
  | popc b => exact @execPopc_canon b s hs
  | clz b => exact @execClz_canon b s hs
  | add b => exact @execAdd_canon b s hs
  | addc b => exact @execAddc_canon b s hs
  | sub b => exact @execSub_canon b s hs
  | subc b => exact @execSubc_canon b s hs
  | and b => exact @execAnd_canon b s hs
  | or b => exact @execOr_canon b s hs
  | xor b => exact @execXor_canon b s hs
  | andn b => exact @execAndn_canon b s hs
  | shl b => exact @execShl_canon b s hs
  | shr b => exact @execShr_canon b s hs
  | sar b => exact @execSar_canon b s hs
  | rol b => exact @execRol_canon b s hs
  | mull b => exact @execMull_canon b s hs
  | mulhu b => exact @execMulhu_canon b s hs
  | mulhs b => exact @execMulhs_canon b s hs
  | cmpeq b => exact @execCmpeq_canon b s hs
  | cmpltu b => exact @execCmpltu_canon b s hs
  | cmplts b => exact @execCmplts_canon b s hs
  | minu b => exact @execMinu_canon b s hs
  | mins b => exact @execMins_canon b s hs
  | maxu b => exact @execMaxu_canon b s hs
  | maxs b => exact @execMaxs_canon b s hs
  | sel b => exact @execSel_canon b s hs
  | wordOpReserved b => exact @execWordOpReserved_canon b s hs
  | pnop u => exact @execPnop_canon u s hs
  | gather u => exact @execGather_canon u s hs
  | gatheri u => exact @execGatheri_canon u s hs
  | bayrd u => exact @execBayrd_canon u s hs
  | baywr u => exact @execBaywr_canon u s hs
  | mrd u => exact @execMrd_canon u s hs
  | mwr u => exact @execMwr_canon u s hs
  | mgath u => exact @execMgath_canon u s hs
  | call u => exact @execCall_canon u s hs
  | callr u => exact @execCallr_canon u s hs
  | portOpReserved u => exact @execPortOpReserved_canon u s hs

end Sys2Proof.Machine
end

