-- ==== Sys2Proof/Laws/Units.lean ====
section
/-! SUPPORT. What the shared operations of the units do, said once: when an access or a command is served, and how an
instruction of a word unit, a cell or a port unit runs when nothing disturbs it. -/

namespace Sys2Proof.Machine

open Reg

theorem off_clocked {s : State} (hp : s.powered = false) : s.clocked = false := by
  simp only [State.powered, State.clocked] at *
  simp_all

theorem off_mode {s : State} (hp : s.powered = false) : s.rd A.pwMode 0 = 3 := by simpa [State.powered] using hp

theorem off_live {s : State} (hp : s.powered = false) (f) : s.live f = .next s := by simp [State.live, off_clocked hp]

theorem off_aon {s : State} (hp : s.powered = false) (f) : s.aon f = .next s := by simp [State.aon, hp]

theorem perform_fresh {s : State} (h : s.resumed = []) (c : Instr) (f : State → Res) : s.perform c f = f s := by
  simp [State.perform, h]

theorem off_accessAs {s : State} (hp : s.powered = false) (hr : s.resumed = []) (a b c f) :
    s.accessAs a b c f = .next s := by
  rw [State.accessAs, perform_fresh hr]
  simp [off_clocked hp, off_mode hp]

theorem off_access {s : State} (hp : s.powered = false) (hr : s.resumed = []) (w c f) : s.access w c f = .next s :=
  off_accessAs hp hr ..

theorem off_accessDom {s : State} (hp : s.powered = false) (hr : s.resumed = []) (w d x c f) :
    s.accessDom w d x c f = .next s := off_access hp hr ..

theorem off_accessIn {s : State} (hp : s.powered = false) (hr : s.resumed = []) (w d x c f) :
    s.accessIn w d x c f = .next s := by
  unfold State.accessIn
  split
  · exact off_accessAs hp hr ..
  · exact off_accessDom hp hr ..

theorem off_csr {s : State} (hp : s.powered = false) (w f) : s.csrAccess w f = .next s := by
  unfold State.csrAccess
  split
  · exact off_live hp _
  · rfl

theorem off_busRead {s : State} (hp : s.powered = false) (hr : s.resumed = []) (w o c) : s.busRead w o c = .next s := by
  unfold State.busRead
  split
  · exact off_csr hp ..
  · exact off_accessIn hp hr ..

theorem off_busWrite {s : State} (hp : s.powered = false) (hr : s.resumed = []) (w o v c) :
    s.busWrite w o v c = .next s := by
  unfold State.busWrite
  split
  · exact off_csr hp ..
  · exact off_accessIn hp hr ..

theorem State.live_on {s : State} (h : s.clocked = true) (f : State → Res) : s.live f = f s := by simp [State.live, h]

theorem noteWop_sound {s : State} {k bed t f : Nat} (h : s.WopSound k bed f) : s.noteWop k bed t f = s := by
  unfold State.WopSound at h
  unfold State.noteWop State.noteHist State.noteLand State.noteState State.noteRead State.noteBad
  split at h <;> simp_all

theorem hzWop_quiet {s : State} {k bed t f : Nat} (h : s.debug = false) : s.hzWop k bed t f = s := by
  unfold State.hzWop State.hzHistRead State.hzLandRead
  split <;> simp_all

theorem foldl_noop {α β : Type} (f : β → α → β) (l : List α) (s : β) (h : ∀ x ∈ l, f s x = s) : l.foldl f s = s := by
  induction l with
  | nil => rfl
  | cons x r ih => simp only [List.foldl_cons, h x (by simp)]; exact ih fun y hy => h y (by simp [hy])

theorem wordWrite_quiet {s : State} {bed t w : Nat} {r : WRes} {b : Bool} (h : s.debug = false) :
    s.wordWrite bed t w r b = s.putHist bed t 0xFFFF r.row.toNat (if b ∧ slice w 41 1 = 1 then some r.flags else none)
      (if 0x20 ≤ wop w ∧ wop w ≤ 0x22 then 2 else 1) := by
  have h2 : ∀ x r f l, (s.putHist bed t x r f l).debug = s.debug := fun _ _ _ _ => rfl
  simp [State.wordWrite, State.hzMark, h, h2]

/-- One word instruction, undisturbed. -/
theorem wordIssue_ready {s : State} {b : BedLoc} {k t op : Nat} {p : Nat → Bool} {f : WFun} {n : Nat}
    (h : s.WordReady b k t op) (hp : p op = true) (hn : wopUses op = some n) :
    s.wordIssue b p f =
      let w := s.wWord b t
      let v := (wopFields w).map (s.wopnd k (bedIx b) t ·)
      let r := f (BitVec.ofNat 16 (v.getD 0 0)) (BitVec.ofNat 16 (v.getD 1 0))
        (slice (s.partFlags (s.rd A.pDepth k) (bedIx b) (slice w 0 9) lagCell t) 0 1 = 1)
        (slice (s.partRow (s.rd A.pDepth k) (bedIx b) (2 * slice w 0 8) lagCell t) (slice w 8 4) 1 = 1)
      s.wordDone b t (if 0x20 ≤ op ∧ op ≤ 0x22 then 2 else 1) r.row r.c r.v := by
  obtain ⟨⟨hc, ha, ht, hv⟩, hcode, hy, hl, hw, ho, hcar, hcond, hq⟩ := h
  have hcode' : wop (s.rd A.wimem (512 * bedIx b + t)) = op := hcode
  have hl' : wopBad (s.rd A.wimem (512 * bedIx b + t)) = none := hl
  have hm : (s.mark 1 (bedIx b)).noteWimem (bedIx b) t = s.mark 1 (bedIx b) := by
    have : (s.mark 1 (bedIx b)).errOf A.wimem (512 * bedIx b + t) = 0 := hw
    simp [State.noteWimem, this]
  have hmy : (s.mark 1 (bedIx b)).yields (bedIx b) t = 0xFFFF := hy
  simp only [State.wordIssue, State.wordRun, State.unit, ha, ht, hw, hcode', hp, State.voted, hv, hm, hmy, hn, hl']
  simp only [Bool.false_eq_true, if_false, not_true_eq_false, ne_eq, reduceCtorEq]
  have hq' : (s.mark 1 (bedIx b)).debug = false := hq
  unfold State.wordOperate
  have h1 : (wopFields (s.rd A.wimem (512 * bedIx b + t))).foldl
      (fun s x => (s.noteWop k (bedIx b) t x).hzWop k (bedIx b) t x) (s.mark 1 (bedIx b)) = s.mark 1 (bedIx b) := by
    apply foldl_noop
    intro x hx
    rw [noteWop_sound (s := s.mark 1 (bedIx b)) (ho x hx), hzWop_quiet hq']
  simp only [h1, hcode']
  have h2 : (if op = 9 ∨ op = 11 then ((s.mark 1 (bedIx b)).noteFlags k t (bedIx b) (slice (s.rd A.wimem (512 * bedIx b + t)) 0 9)).hzFlagRead k (bedIx b)
      (slice (s.rd A.wimem (512 * bedIx b + t)) 0 9) 0 t 2 (Loc.ofBed (bedIx b)) else s.mark 1 (bedIx b)) = s.mark 1 (bedIx b) := by
    split
    · rename_i h
      have : (s.mark 1 (bedIx b)).errOf A.wflag (512 * bedIx b + slice (s.rd A.wimem (512 * bedIx b + t)) 0 9) = 0 := hcar h
      simp only [State.noteFlags, State.noteBad, this, State.hzFlagRead]
      simp [hq']
    · rfl
  have h3 : (if op = 56 then ((s.mark 1 (bedIx b)).noteHist k t (bedIx b) (2 * slice (s.rd A.wimem (512 * bedIx b + t)) 0 8) lagCell).hzHistRead k (bedIx b)
      (2 * slice (s.rd A.wimem (512 * bedIx b + t)) 0 8) lagCell t 3 (2 ^ slice (s.rd A.wimem (512 * bedIx b + t)) 8 4) false (Loc.ofBed (bedIx b)) else s.mark 1 (bedIx b)) = s.mark 1 (bedIx b) := by
    split
    · rename_i h
      have : (s.mark 1 (bedIx b)).errOf A.hist (512 * bedIx b + 2 * slice (s.rd A.wimem (512 * bedIx b + t)) 0 8) = 0 := hcond h
      simp only [State.noteHist, State.noteBad, this, State.hzHistRead]
      simp [hq']
    · rfl
  rw [h2, h3, wordWrite_quiet hq', hcode']
  simp only [State.wordDone, State.putHist, WRes.flags, true_and]
  rfl

/-- A request finds its route (R388). -/
theorem routeless_none {s : State} (h : s.Routed) (who : Who) (c : Instr) : s.routeless who c = none := by
  unfold State.routeless
  cases c.place with
  | none => rfl
  | some o => exact congrArg (Option.map fun x => (x, 2 ^ 40 * s.chainAddr + o)) (h _ _ o)

theorem coreRuns_awake {s : State} {who : Who} (h : s.Awake who) : s.coreRuns who = s := by
  cases who with
  | core d k => exact if_neg (by rw [show s.on A.coreIdle (32 * d + k) = false from h]; decide)
  | _ => rfl

theorem waitsBehind_none {s : State} {who : Who} (h : ∀ x ∈ s.held, whoNi x.who ≠ whoNi who) (c : Instr) :
    s.waitsBehind who c = false := by
  unfold State.waitsBehind
  rw [List.any_eq_false.2 fun x hx => by simp [h x hx]]
  simp

theorem accessAs_on {s : State} {who : Who} (h : s.Serving who) (c : Instr) (n : Nat) (f : State → Res) :
    s.accessAs who c n f = f s := by
  rw [State.accessAs, perform_fresh h.done]
  simp [h.clocked, h.outside, h.accepted, waitsBehind_none h.first, routeless_none h.routed, coreRuns_awake h.awake]

theorem access_on {s : State} {who : Who} (h : s.Serving who) (c : Instr) (f : State → Res) : s.access who c f = f s :=
  accessAs_on h c 0 f

theorem accessDom_on {s : State} {who : Who} {die dom : Nat} (h : s.ServingDom who die dom) (c : Instr)
    (f : State → Res) : s.accessDom who die dom c f = f s := by
  obtain ⟨h1, h2⟩ := h
  rw [State.accessDom, access_on h1, if_pos h2]

theorem wopFields_two {w op : Nat} (h : wop w = op) (hn : wopUses op = some 2) :
    wopFields w = [slice w 26 14, slice w 12 14] := by simp [wopFields, h, hn]

theorem wopFields_one {w op : Nat} (h : wop w = op) (hn : wopUses op = some 1) :
    wopFields w = [slice w 26 14] := by simp [wopFields, h, hn]

theorem word_two {s : State} {b : BedLoc} {k t op : Nat} {p : Nat → Bool} {f : WFun}
    (h : s.WordReady b k t op) (hp : p op = true) (hn : wopUses op = some 2) :
    s.wordIssue b p f =
      let r := f (s.wA b k t) (s.wB b k t) (s.wCarry b k t) (s.wCond b k t)
      s.wordDone b t (if 0x20 ≤ op ∧ op ≤ 0x22 then 2 else 1) r.row r.c r.v := by
  rw [wordIssue_ready h hp hn]; simp only [wopFields_two h.code hn]; rfl

theorem word_one {s : State} {b : BedLoc} {k t op : Nat} {p : Nat → Bool} {f : WFun}
    (h : s.WordReady b k t op) (hp : p op = true) (hn : wopUses op = some 1) :
    s.wordIssue b p f =
      let r := f (s.wA b k t) 0 (s.wCarry b k t) (s.wCond b k t)
      s.wordDone b t (if 0x20 ≤ op ∧ op ≤ 0x22 then 2 else 1) r.row r.c r.v := by
  rw [wordIssue_ready h hp hn]; simp only [wopFields_one h.code hn]; rfl

theorem minu_eq (x y : Row) : (if x.ult y then x else y) = BitVec.ofNat 16 (min x.toNat y.toNat) := by
  simp only [BitVec.ult, decide_eq_true_eq]; split
  · rw [min_eq_left (by omega)]; simp
  · rw [min_eq_right (by omega)]; simp

theorem maxu_eq (x y : Row) : (if x.ult y then y else x) = BitVec.ofNat 16 (max x.toNat y.toNat) := by
  simp only [BitVec.ult, decide_eq_true_eq]; split
  · rw [max_eq_right (by omega)]; simp
  · rw [max_eq_left (by omega)]; simp

theorem mins_eq (x y : Row) : (if x.slt y then x else y) = BitVec.ofInt 16 (min x.toInt y.toInt) := by
  simp only [BitVec.slt, decide_eq_true_eq]; split
  · rw [min_eq_left (by omega)]; simp
  · rw [min_eq_right (by omega)]; simp

theorem maxs_eq (x y : Row) : (if x.slt y then y else x) = BitVec.ofInt 16 (max x.toInt y.toInt) := by
  simp only [BitVec.slt, decide_eq_true_eq]; split
  · rw [max_eq_right (by omega)]; simp
  · rw [max_eq_left (by omega)]; simp

theorem cellWord_eq {s : State} {c : CellLoc} {k t op : Nat} (h : s.CellReady c k t op) :
    s.cellWord (cellIx c) t = s.cWord c t := by simp [State.cellWord, h.word, State.cWord]

theorem cellIssue_ready {s : State} {c : CellLoc} {k t op : Nat} {p : Nat → Bool} {f : Nat → Nat → Nat → State → State}
    (h : s.CellReady c k t op) (hp : p op = true) :
    s.cellIssue c p f = f k t (s.cWord c t) { s with issued := s.issued ++ [(0, cellIx c)] } := by
  have hw := cellWord_eq h
  obtain ⟨⟨hc, ha, ht, hv⟩, hcode, hwd, hq⟩ := h
  have hm : (s.mark 0 (cellIx c)).noteImem k (cellIx c) t = s.mark 0 (cellIx c) := by
    have : (s.mark 0 (cellIx c)).errOf A.imem (512 * cellIx c + t) = 0 := hwd
    simp [State.noteImem, this]
  simp only [State.cellIssue, State.unit, ha, ht, hw, hcode, hp, State.voted, hv, hm]
  rfl

theorem cellIx_div (c : CellLoc) : cellIx c / 16 = bedIx c.toBedLoc ∧ cellIx c % 16 = c.cell := by
  have := c.cell.isLt; unfold cellIx; omega

theorem cellHist_quiet {s : State} {c : CellLoc} {t r : Nat} (h : s.debug = false) :
    s.cellHist (cellIx c) t r = { s with histPend := s.histPend ++ [⟨bedIx c.toBedLoc, t, 2 ^ (c.cell : Nat), if r = 1 then 2 ^ (c.cell : Nat) else 0, none, 0⟩] } := by
  have h2 : ∀ x r f l, (s.putHist (bedIx c.toBedLoc) t x r f l).debug = s.debug := fun _ _ _ _ => rfl
  simp only [State.cellHist, (cellIx_div c).1, (cellIx_div c).2, State.hzMark, h2, h]
  rfl

theorem noteSel_sound {s : State} {k bed t sel : Nat} (h : s.SelSound k bed sel) : s.noteSel k bed t sel = s := by
  unfold State.SelSound at h
  unfold State.noteSel State.noteHist State.noteLand State.noteState State.noteFlags State.notePort State.noteRead State.noteBad
  split at h <;> simp_all

theorem hzSel_quiet {s : State} {k c t sel : Nat} (h : s.debug = false) : s.hzSel k c t sel = s := by
  unfold State.hzSel State.hzHistRead State.hzLandRead State.hzPortRead State.hzFlagRead
  split <;> simp_all

theorem slice_one (w i : Nat) : slice w i 1 = (w.testBit i).toNat := by
  simp [slice, Nat.testBit, Nat.shiftRight_eq_div_pow, Nat.one_and_eq_mod_two]
  rcases Nat.mod_two_eq_zero_or_one (w / 2 ^ i) with h | h <;> simp [h]

theorem cellSels_mem {w sel : Nat} (h : sel ∈ cellSels w) : ∃ o < 4, sel = slice w (16 * o) 16 := by
  simp only [cellSels, List.mem_cons, List.not_mem_nil, or_false] at h
  rcases h with h | h | h | h
  · exact ⟨0, by omega, h⟩
  · exact ⟨1, by omega, h⟩
  · exact ⟨2, by omega, h⟩
  · exact ⟨3, by omega, h⟩

theorem firstReserved_none {w : Nat} (h : ∀ o < 4, selReserved (slice w (16 * o) 16) = false) : firstReserved w = none := by
  simp only [firstReserved, List.find?_eq_none]
  intro x hx
  have := (List.mem_zipIdx hx).2.2
  obtain ⟨o, ho, hs⟩ := cellSels_mem (w := w) (sel := x.1) (by rw [this]; exact List.getElem_mem _)
  rw [hs, h o ho]; simp

theorem ttResult_eq (w a b c d : Nat) : ttResult w a b c d = bit ((w.testBit (64 + (a + 2 * b + 4 * c +
    if w.testBit 90 then 0 else 8 * d))) ^^ w.testBit 89) := by
  unfold ttResult
  simp only [slice_one]
  have : (8 * if (w.testBit 90).toNat = 1 then 0 else d) = (if w.testBit 90 then 0 else 8 * d) := by
    cases w.testBit 90 <;> simp
  rw [this]
  cases w.testBit 89 <;> cases w.testBit (64 + (a + 2 * b + 4 * c + if w.testBit 90 then 0 else 8 * d)) <;> simp [bit]

theorem operand_le (s : State) (k bed t sel : Nat) : s.operand k bed t sel ≤ 1 := by
  have hs : ∀ v i, slice v i 1 ≤ 1 := fun v i => by simp only [slice]; omega
  unfold State.operand
  dsimp only
  split <;> try exact hs _ _
  · unfold State.constant
    split; · omega
    split; · omega
    split; · simp [bit]; split <;> omega
    split; · omega
    exact hs _ _
  · omega

theorem cellEval_sound {s : State} {c : CellLoc} {k t : Nat} {a : Bool} (hs : s.CellSound c k t) (hq : s.debug = false) :
    ({ s with issued := s.issued ++ [(0, cellIx c)] } : State).cellEval k (cellIx c) t (s.cWord c t) a =
      if a = true ∧ s.cResult c k t = true then (s.evalDone c k t).faultAt k 0x01 (Loc.ofCell (cellIx c)) .a (s.rd A.pCycle k) t 0
      else s.evalDone c k t := by
  unfold State.cellEval
  rw [firstReserved_none fun o ho => (hs o ho).1]
  have hfold : ∀ u : State, u = { s with issued := s.issued ++ [(0, cellIx c)] } → (cellSels (s.cWord c t)).foldl (fun u sel => (u.noteSel k (cellIx c / 16) t sel).hzSel k (cellIx c) t sel) u = u := by
    intro u hu
    apply foldl_noop
    intro x hx
    obtain ⟨o, ho, rfl⟩ := cellSels_mem hx
    rw [noteSel_sound, hzSel_quiet]
    · rw [hu]; exact hq
    · rw [hu, (cellIx_div c).1]; exact (hs o ho).2
  simp only [hfold _ rfl]
  have hr : ttResult (s.cWord c t) (((cellSels (s.cWord c t)).map (({ s with issued := s.issued ++ [(0, cellIx c)] } : State).operand k (cellIx c / 16) t ·)).getD 0 0)
      (((cellSels (s.cWord c t)).map (({ s with issued := s.issued ++ [(0, cellIx c)] } : State).operand k (cellIx c / 16) t ·)).getD 1 0)
      (((cellSels (s.cWord c t)).map (({ s with issued := s.issued ++ [(0, cellIx c)] } : State).operand k (cellIx c / 16) t ·)).getD 2 0)
      (((cellSels (s.cWord c t)).map (({ s with issued := s.issued ++ [(0, cellIx c)] } : State).operand k (cellIx c / 16) t ·)).getD 3 0) = bit (s.cResult c k t) := by
    rw [ttResult_eq _ _ _ _ _, (cellIx_div c).1]; rfl
  rw [hr, cellHist_quiet (by exact hq)]
  have hd : (((cellSels (s.cWord c t)).map (({ s with issued := s.issued ++ [(0, cellIx c)] } : State).operand k (cellIx c / 16) t ·)).getD 3 0) = s.cOp c k t 3 := by
    rw [(cellIx_div c).1]; rfl
  rw [hd]
  have hps : ∀ u : State, u.debug = false → ∀ r, u.putShadow k (cellIx c) (slice (s.cWord c t) 80 8) t r = u.wrE A.shadow (256 * bedIx c.toBedLoc + slice (s.cWord c t) 80 8) (patch (u.rd A.shadow (256 * bedIx c.toBedLoc + slice (s.cWord c t) 80 8)) c.cell 1 r) := by
    intro u hu r
    simp [State.putShadow, hu, (cellIx_div c).1, (cellIx_div c).2]
  simp only [slice_one]
  have hb : ∀ b : Bool, (b.toNat = 1) = (b = true) := by intro b; cases b <;> simp
  have hb0 : ∀ b : Bool, (b.toNat = 0) = (b = false) := by intro b; cases b <;> simp
  simp only [hb, hb0]
  have hbit : ∀ b : Bool, (bit b = 1) = (b = true) := by intro b; cases b <;> simp [bit]
  simp only [hbit]
  rw [hps _ (by exact hq)]
  have hcyc : (s.evalDone c k t).rd A.pCycle k = s.rd A.pCycle k := by
    unfold State.evalDone
    dsimp only
    split <;> split <;> (try simp only [State.wrE]) <;> (repeat rw [State.rd_wr_arr _ _ _ _ _ _ (by decide)]) <;> rfl
  rw [← hcyc]
  rfl

theorem firstReserved_some {w o : Nat} (ho : o < 4) (h : selReserved (slice w (16 * o) 16) = true)
    (hl : ∀ j < o, selReserved (slice w (16 * j) 16) = false) : firstReserved w = some (slice w (16 * o) 16, o) := by
  have e : (cellSels w).zipIdx = [(slice w (16*0) 16, 0), (slice w (16*1) 16, 1), (slice w (16*2) 16, 2), (slice w (16*3) 16, 3)] := rfl
  have cases : o = 0 ∨ o = 1 ∨ o = 2 ∨ o = 3 := by omega
  rw [firstReserved, e]
  rcases cases with rfl | rfl | rfl | rfl
  · simp only [List.find?_cons, h]
  · simp only [List.find?_cons, h, hl 0 (by omega)]
  · simp only [List.find?_cons, h, hl 0 (by omega), hl 1 (by omega)]
  · simp only [List.find?_cons, h, hl 0 (by omega), hl 1 (by omega), hl 2 (by omega)]

theorem portIssue_ready {s : State} {u : CourseLoc} {k t pop : Nat} {p : Nat → Bool} {f : Nat → Nat → Nat → State → State}
    (h : s.PortReady u k t pop) (hp : p pop = true) :
    s.portIssue u p f = f k t (s.pWord u t) (s.mark 2 (courseIx u)) := by
  obtain ⟨⟨hc, ha, ht, hv⟩, hcode, hwd⟩ := h
  have hw : s.portWord (courseIx u) t = s.pWord u t := by simp [State.portWord, hwd, State.pWord]
  have hm : (s.mark 2 (courseIx u)).notePimem k (courseIx u) t = s.mark 2 (courseIx u) := by
    have : (s.mark 2 (courseIx u)).errOf A.pimem (512 * courseIx u + t) = 0 := hwd
    simp [State.notePimem, this]
  simp only [State.portIssue, State.unit, ha, ht, hw, hcode, hp, State.voted, hv, hm]
  rfl

theorem mark_slotField (s : State) (a b u i n : Nat) : (s.mark a b).slotField u i n = s.slotField u i n := by
  induction n generalizing i with
  | zero => rfl
  | succ n ih => simp only [State.slotField, ih]; rfl

theorem issueRun_ready {s : State} {u : CourseLoc} {k t pop n : Nat} {tg : Bool} {f : Nat → State → State}
    (h : s.PortReady u k t pop) :
    (s.mark 2 (courseIx u)).issueRun k (courseIx u) t (s.pWord u t) n tg f =
      match issueBad pop (s.pWord u t) with
      | some r => ((s.mark 2 (courseIx u)).faultAt k 0x16 (Loc.ofCourse (courseIx u)) .e (s.rd A.pCycle k) t
          (pop + 2 ^ 8 * r)).zeroLines k (courseIx u) (s.pWord u t)
      | none =>
        if slice (s.pAddr u t n) (16 * n - 1) 1 = 0 then (s.mark 2 (courseIx u)).zeroLines k (courseIx u) (s.pWord u t)
        else if tg ∧ s.on A.tagOut (128 * courseIx u + slice (s.pWord u t) 18 7) then
          ((s.mark 2 (courseIx u)).faultAt k 0x17 (Loc.ofCourse (courseIx u)) .e (s.rd A.pCycle k) t
            (slice (s.pWord u t) 18 7 + 2 ^ 8 * pop)).zeroLines k (courseIx u) (s.pWord u t)
        else f (s.pAddr u t n) (s.mark 2 (courseIx u)) := by
  simp only [State.issueRun, State.portFieldFault, h.code, mark_slotField]
  rfl

theorem issueRun_sends {s : State} {u : CourseLoc} {k t pop n : Nat} {tg : Bool} {f : Nat → State → State}
    (h : s.PortSends u k t pop n) (htg : tg = true → pop = 0x10 ∨ pop = 0x12 ∨ pop = 0x19) :
    (s.mark 2 (courseIx u)).issueRun k (courseIx u) t (s.pWord u t) n tg f = f (s.pAddr u t n) (s.mark 2 (courseIx u)) := by
  rw [issueRun_ready h.ready, h.legal]
  have := h.guard
  rw [← State.pAddr] at this
  simp only [this]
  cases tg
  · simp
  · simp [h.tag (htg rfl)]

theorem div_mul_eq (a b : Nat) : a / b * b = a - a % b := by
  have := Nat.div_add_mod a b
  rw [Nat.mul_comm] at this
  omega

theorem slice_at_zero (v w : Nat) : slice v 0 w = v % 2 ^ w := by simp [slice]

theorem mark_issueData (s : State) (a b u i : Nat) : (s.mark a b).issueData u i = s.issueData u i := mark_slotField _ _ _ _ _ _

theorem wr_replaying {s : State} {a : Arr} {i v k : Nat} (h : a.code % 512 ≠ 0) : (s.wr a i v).replaying k = s.replaying k := by
  simp only [State.replaying, State.rf_wr _ _ _ _ _ _ h]

theorem portalSend_takes {s : State} {k u q : Nat} {ws : List Nat} (h1 : s.qEn q = true) (h2 : s.qClass q = 1)
    (h3 : s.qOwner q = some (s.rd A.pPid k)) (h4 : s.qUsed q + ws.length ≤ s.qWords q) (hp : s.on A.qPtrBad q = false) :
    s.portalSend k u q ws = State.wr { s with packets := s.packets ++ [⟨q, deviceProducer, ws.map (slice · 0 64), true, false, false⟩] }
      A.calls (u / 16) (s.rd A.calls (u / 16) + 1) := by
  simp only [State.portalSend, State.portalQueueOk, State.qFits, State.qDeliver, State.qCheck, h1, h2, h3, h4, hp]
  simp
  rfl

theorem portalSend_waits {s : State} {k u q : Nat} {ws : List Nat}
    (h : ¬ (s.qEn q = true ∧ s.qClass q = 1 ∧ s.qOwner q = some (s.rd A.pPid k) ∧ s.qUsed q + ws.length ≤ s.qWords q)) :
    s.portalSend k u q ws = State.addCause { s with portalMsg := s.portalMsg ++ [⟨k, u, q, ws⟩] } k 4 := by
  unfold State.portalSend
  have : ¬ (s.portalQueueOk q (s.rd A.pPid k) ∧ s.qFits q ws.length) := by
    intro ⟨h1, h2⟩; simp only [State.portalQueueOk, State.qFits, decide_eq_true_eq] at h1 h2; exact h ⟨h1.1, h1.2.1, h1.2.2, h2⟩
  rw [if_neg this]

theorem callMessage_call (s : State) (u k t w cw : Nat) (a b : Nat) : (s.mark a b).callMessage k u t w cw 0 false =
    (slice cw 0 12 + 2 ^ 23 * (u % 16) + 2 ^ 27 * (u / 16 % 16) + 2 ^ 31 * (u / 256) + 2 ^ 34 * s.rd A.pPid k +
    2 ^ 43 * slice w 16 2 + 2 ^ 56 * slice w 44 4) :: (s.rd A.pCycle k + 2 ^ 48 * t + 2 ^ 58 * s.rd A.epoch (u / 16)) ::
    (List.range (((lenBits (slice w 44 4)).getD 0 + 63) / 64)).map fun j => slice (s.issueData u w) (64 * j) 64 := by
  simp only [State.callMessage, mark_issueData]
  simp [bit]
  exact ⟨rfl, rfl⟩

theorem queue_congr {v s : State} {q : Nat} (hrd : ∀ (a : Arr) i, a.code % 512 ≠ 19 → a.code % 512 ≠ 20 → v.rd a i = s.rd a i)
    (hp : v.packets = s.packets) : v.qEn q = s.qEn q ∧ v.qClass q = s.qClass q ∧ v.qOwner q = s.qOwner q ∧ v.qUsed q = s.qUsed q ∧
    v.qWords q = s.qWords q ∧ v.on A.qPtrBad q = s.on A.qPtrBad q := by
  have h0 := fun i => hrd A.reg i (by decide) (by decide)
  have h1 := fun i => hrd A.qPtrBad i (by decide) (by decide)
  have hrf : ∀ b f, v.rf b f = s.rf b f := fun b f => by simp only [State.rf, State.reg, h0]
  refine ⟨?_, ?_, ?_, ?_, ?_, ?_⟩
  · unfold State.qEn; rw [hrf]
  · unfold State.qClass; rw [hrf]
  · unfold State.qOwner; rw [hrf, hrf]
  · unfold State.qUsed State.qPackets; rw [hp]
  · unfold State.qWords; rw [hrf]
  · unfold State.on; rw [h1]

theorem slotField_same {v s : State} (h : ∀ i, v.rd A.slotR i = s.rd A.slotR i) (u i n : Nat) : v.slotField u i n = s.slotField u i n := by
  induction n generalizing i with
  | zero => rfl
  | succ n ih => simp only [State.slotField, State.slotReg, ih, h]

theorem bayStep_idle {s : State} {wall : Nat} (h : s.BayIdle wall) : s.bayStep wall = s := by
  have h1 : s.bayReq.filter (s.bayReqDue wall) = [] := h.1
  unfold State.bayStep
  rw [h1]
  rfl

theorem cmdResult_eq (s : State) (k r : Nat) : s.cmdResult k r = s.cmdAnswer k r := by
  simp only [State.cmdResult, State.cmdAnswer]; split <;> rfl

end Sys2Proof.Machine
end

