-- ==== Sys2Proof/WellFormed.lean ====
section
/-! DEFINITION. Well-formed commands: what an operand must be beyond its type. A command that is not well formed names no
event of the block; `exec` still answers it. -/

namespace Sys2Proof

/-- Offset of a 4-byte register: aligned, in BAR0 (R460), or, for a core, a half of one of the 4,096 CSRs that stand above
BAR0 (R215). -/
def offWf (who : Who) (off : Nat) : Bool :=
  off % 4 = 0 && (off < 0x8000000 || match who with
    | .core _ _ => decide (off < 0x8008000)
    | _ => false)

/-- Outputs of a switch (R110). -/
def SwitchLoc.outputs : SwitchLoc → Nat
  | .course _ => 320
  | .wall _ => 1280
  | .die _ => 5120

/-- Bytes of an access size (R386). -/
def AccSize.bytes : AccSize → Nat
  | .b4 => 4
  | .b8 => 8
  | .b32 => 32
  | .b64 => 64

/-- Widths of the fields of a section's table entry (R339). -/
def Section.wf (s : Section) : Bool :=
  s.kind < 2 ^ 16 && s.target < 2 ^ 16 && s.flags < 2 ^ 32 && s.iv < 2 ^ 96 && s.tag < 2 ^ 128 && s.wrapped < 2 ^ 320 &&
    s.hash < 2 ^ 384 && s.aad < 2 ^ 320

/-- What each operand must be. -/
def Instr.wf : Instr → Bool
  | .registerWrite who o _ => offWf who o
  | .rcRead who o => offWf who o
  | .lohiLoRead who o => offWf who o
  | .lohiLoWrite who o _ => offWf who o
  | .lohiHiWrite who o _ => offWf who o && decide (4 ≤ o)
  | .bayServiceRead _ _ o size => o.val % size.bytes = 0
  | .bayServiceWrite _ _ o size _ => o.val % size.bytes = 0
  | .partitionSection sec => sec.wf
  | .switchEntry sw out _ => out.val < sw.outputs
  | .requestSend _ _ _ _ size addr _ => addr.toNat % size.bytes = 0
  | .cnRequest _ _ _ o size _ => o.toNat % size.bytes = 0
  | .hbmRequest _ _ addr size _ _ => addr.toNat % size.bytes = 0
  | .bar0Access _ _ o dwords _ be => be || (o.toNat % 4 = 0 && 1 ≤ dwords && dwords ≤ 16)
  | .bar2Access _ _ o bytes _ => o.toNat % 4 = 0 && bytes % 4 = 0 && 4 ≤ bytes && bytes ≤ 64
  | .rwtWrite who o _ => offWf who o
  | .evtRouteWrite who o _ => offWf who o
  | .imageStream hdr => hdr.isEmpty || decide (0x100 ≤ hdr.length)   -- none: the empty container (R345)
  | _ => true

end Sys2Proof
end

