-- ==== Sys2Proof/Tests/Slice0.lean ====
section
/-! SUPPORT. Tests of the model: ill-formed commands are refused by `Instr.wf`, single steps on small states, and for
each obligation with hypotheses a state and operands that meet them. -/

open Sys2Proof Sys2Proof.Machine Sys2Proof.Machine.Reg

namespace Sys2Proof.Tests

-- one theorem at a time: each evaluates a state
set_option Elab.async false

/-! ### A device to stand on -/

/-- The reset state with some entries of its arrays. -/
def st (l : List (Arr × Nat × Nat)) : State := l.foldl (fun s x => s.wr x.1 x.2.1 x.2.2) State.reset

/-- Some fields of registers of a state. -/
def flds (l : List (Nat × Fld × Nat)) (s : State) : State := l.foldl (fun s x => s.wf x.1 x.2.1 x.2.2) s

/-- Before firmware has set a route every request is delivered. -/
theorem routed_of {s : State} (h : s.rd A.cnFw 0 = 0) (r : (s.listed A.cnMatch).isEmpty = true) : s.Routed := by
  intro die ni a
  simp [State.noRoute, State.on, h, r]

/-- The device runs, and nothing waits. -/
def serves (s : State) : Bool :=
  s.clocked ∧ s.entering = false ∧ s.rd A.cnFw 0 = 0 ∧ (s.listed A.cnMatch).isEmpty ∧ s.held = [] ∧ s.resumed = []

theorem serving_of {s : State} (h : serves s = true) : s.Serving .pf := by
  obtain ⟨h, e, f, r, w, d⟩ := of_decide_eq_true h
  exact ⟨h, e, routed_of f r, trivial, rfl, by simp [w], d⟩

theorem servingDom_of {s : State} {die dom : Nat} (h : serves s = true) (d : s.domOn die dom = true) :
    s.ServingDom .pf die dom := ⟨serving_of h, d⟩

def bed0 : BedLoc := ⟨⟨⟨0, 0⟩, 0⟩, 0⟩
def cell0 : CellLoc := ⟨bed0, 0⟩
def course0 : CourseLoc := ⟨⟨0, 0⟩, 0⟩
def wall0 : WallLoc := ⟨0, 0⟩

/-- Slot 0 of partition 1 runs in the last step of a frame of 8 and owns wall 0. -/
def runs : List (Arr × Nat × Nat) :=
  [(A.wallOwner, 0, 1), (A.pState, 0, 2), (A.pPid, 0, 1), (A.pBegun, 0, 1), (A.pDepth, 0, 8), (A.pStep, 0, 7)]

/-- The 16 cells of bed 0 yield at step 7, where its word unit holds `w`. -/
def wordAt (w : Nat) : State :=
  st (runs ++ (A.wimem, 7, w) :: (List.range 16).map fun c => (A.imem, 512 * c + 7, 3 * 2 ^ 92))

/-- The state after a command. -/
def after (c : Instr) (s : State) : State := match exec c s with
  | .next t => t
  | _ => s

theorem get_absent {d : Nat} : ∀ (m : List (Nat × Nat)) (k : Nat), (∀ e ∈ m, e.1 ≠ k) → Sparse.get d m k = d
  | [], _, _ => rfl
  | (j, v) :: r, k, h => by
    have h1 : j ≠ k := h (j, v) (by simp)
    have h2 := get_absent (d := d) r k fun e he => h e (by simp [he])
    simp [Sparse.get, h1, h2]

/-- Every entry of an array that lists none reads 0, where the array has no other reset contents. -/
theorem rd_absent {s : State} {a : Arr} (hc : a.code < 512 ∧ a.code ≠ A.reg.code ∧ a.code ≠ A.evtVec.code)
    (h : (s.arr.all fun e => decide (e.1 % 512 ≠ a.code)) = true) (i : Nat) : s.rd a i = 0 := by
  have hk : a.key i % 512 = a.code := by simp only [Arr.key]; omega
  have hd : dflt (a.key i) = 0 := by simp only [dflt, hk]; rw [if_neg hc.2.1, if_neg hc.2.2]
  rw [State.rd, get_absent, hd]; · simp
  intro e he hek
  have := List.all_eq_true.mp h e he
  simp only [decide_eq_true_eq] at this
  exact this (by rw [hek, hk])

/-- Without a stored error no entry of any store has one. -/
theorem errOf_absent {s : State} (h : (s.arr.all fun e => decide (e.1 % 512 ≠ A.err.code)) = true) (a : Arr) (i : Nat) :
    s.errOf a i = 0 := rd_absent (by decide) h _

/-! ### Word, cell and port instructions -/

def wordOps : List Nat := [0x01, 0x02, 0x03, 0x04, 0x08, 0x09, 0x0A, 0x0B, 0x10, 0x11, 0x12, 0x13, 0x18, 0x19, 0x1A, 0x1B,
  0x20, 0x21, 0x22, 0x28, 0x29, 0x2A, 0x30, 0x31, 0x32, 0x33, 0x38]

/-- Opcode `op`, WFE = 1, A an immediate, B history row 3, X = 5. -/
def aluWord (op : Nat) : Nat := 2 ^ 42 * op + 2 ^ 41 + 2 ^ 26 * 0x3FFF + 2 ^ 12 * 3 + 5

/-- O6, O7: every listed word instruction is ready somewhere. -/
theorem test_word_ready : ∀ op ∈ wordOps, (wordAt (aluWord op)).WordReady bed0 0 7 op := fun op h =>
  { issue := ⟨(by decide : ∀ op ∈ wordOps, (wordAt (aluWord op)).clocked = true) op h,
      (by decide : ∀ op ∈ wordOps, (wordAt (aluWord op)).active 0 = some (0, 7)) op h, rfl,
      (by decide : ∀ op ∈ wordOps, (wordAt (aluWord op)).votes 0 7 = []) op h⟩
    code := (by decide : ∀ op ∈ wordOps, wop ((wordAt (aluWord op)).wWord bed0 7) = op) op h
    yields := (by decide : ∀ op ∈ wordOps, (wordAt (aluWord op)).yields 0 7 = 0xFFFF) op h
    legal := (by decide : ∀ op ∈ wordOps, wopBad ((wordAt (aluWord op)).wWord bed0 7) = none) op h
    word := (by decide : ∀ op ∈ wordOps, (wordAt (aluWord op)).errOf A.wimem 7 = 0) op h
    operands := by
      intro f hf
      have hf : f = 0x3FFF ∨ f = 3 :=
        (by decide : ∀ op ∈ wordOps, ∀ f ∈ wopFields ((wordAt (aluWord op)).wWord bed0 7), f = 0x3FFF ∨ f = 3) op h f hf
      rcases hf with rfl | rfl
      · trivial
      · exact (by decide : ∀ op ∈ wordOps, (wordAt (aluWord op)).errOf A.hist 3 = 0) op h
    carry := fun _ => (by decide : ∀ op ∈ wordOps, (wordAt (aluWord op)).errOf A.wflag (512 * bedIx bed0 +
      slice ((wordAt (aluWord op)).wWord bed0 7) 0 9) = 0) op h
    cond := fun _ => (by decide : ∀ op ∈ wordOps, (wordAt (aluWord op)).errOf A.hist (512 * bedIx bed0 +
      2 * slice ((wordAt (aluWord op)).wWord bed0 7) 0 8) = 0) op h
    quiet := (by decide : ∀ op ∈ wordOps, (wordAt (aluWord op)).debug = false) op h }

/-- An unlisted opcode, a reserved field (bit 40), cells that do not all yield, a word that cannot be corrected (O7). -/
def wordFaulty (w e : Nat) : State := (wordAt w).wr A.err (A.wimem.key 7) e

theorem test_word_faults_ready :
    (wordFaulty (2 ^ 42 * 0x3F) 0).MayIssue 1 0 0 0 7 ∧ (wordFaulty (2 ^ 42 * 0x3F) 0).yields 0 7 = 0xFFFF ∧
    wopUses (wop ((wordFaulty (2 ^ 42 * 0x3F) 0).wWord bed0 7)) = none ∧
    (wordFaulty (2 ^ 42 + 2 ^ 40) 0).MayIssue 1 0 0 0 7 ∧ wopBad ((wordFaulty (2 ^ 42 + 2 ^ 40) 0).wWord bed0 7) = some 0 ∧
    (wordFaulty (2 ^ 42 + 2 ^ 40) 0).errOf A.wimem 7 = 0 ∧ (wordFaulty (2 ^ 42) 2).MayIssue 1 0 0 0 7 ∧
    (wordFaulty (2 ^ 42) 2).errOf A.wimem 7 = 2 ∧ (st (runs ++ [(A.wimem, 7, 2 ^ 42)])).MayIssue 1 0 0 0 7 ∧
    (st (runs ++ [(A.wimem, 7, 2 ^ 42)])).yields 0 7 ≠ 0xFFFF :=
  ⟨⟨by decide, by decide, by decide, by decide⟩, by decide, by decide, ⟨by decide, by decide, by decide, by decide⟩,
    by decide, by decide, ⟨by decide, by decide, by decide, by decide⟩, by decide,
    ⟨by decide, by decide, by decide, by decide⟩, by decide⟩

/-- R97: -32768 + -1 = 32767 with carry and overflow; R96: Z and N are clear. -/
theorem test_add_overflow : (after (.add bed0) ((wordAt (2 ^ 42 * 8 + 2 ^ 41 + 2 ^ 26 * 0x3FFF + 2 ^ 12 * 0x2000)).wr A.state 0
    0x8000)).histPend = [⟨0, 7, 0xFFFF, 0x7FFF, some 3, 1⟩] := by decide

/-- R97: 3 - 3 = 0 without borrow: C = Z = 1. -/
theorem test_sub_zero : (after (.sub bed0) (wordAt (2 ^ 42 * 0xA + 2 ^ 41 + 2 ^ 26 * 0x3003 + 2 ^ 12 * 0x3003))).histPend =
    [⟨0, 7, 0xFFFF, 0, some 9, 1⟩] := by decide

/-- R95: the high half of -1 times -1 is 0. -/
theorem test_mulhs_negative : (after (.mulhs bed0) (wordAt (2 ^ 42 * 0x22 + 2 ^ 26 * 0x3FFF + 2 ^ 12 * 0x3FFF))).histPend =
    [⟨0, 7, 0xFFFF, 0, none, 2⟩] := by decide

/-- R95: a shift by 17 gives 0, an arithmetic one the sign. -/
theorem test_shr_long : (after (.shr bed0) (wordAt (2 ^ 42 * 0x19 + 2 ^ 26 * 0x3FFF + 2 ^ 12 * 0x3011))).histPend =
    [⟨0, 7, 0xFFFF, 0, none, 1⟩] := by decide
theorem test_sar_long : (after (.sar bed0) (wordAt (2 ^ 42 * 0x1A + 2 ^ 26 * 0x3FFF + 2 ^ 12 * 0x3011))).histPend =
    [⟨0, 7, 0xFFFF, 0xFFFF, none, 1⟩] := by decide

/-- R98: the count of leading zeros of 0 is 16, of 0x7FF it is 5. -/
theorem test_clz : (after (.clz bed0) (wordAt (2 ^ 42 * 4 + 2 ^ 26 * 0x3000))).histPend = [⟨0, 7, 0xFFFF, 16, none, 1⟩] ∧
    (after (.clz bed0) (wordAt (2 ^ 42 * 4 + 2 ^ 26 * 0x37FF))).histPend = [⟨0, 7, 0xFFFF, 5, none, 1⟩] := by decide

/-- Cell 0 holds `w` at step 7. -/
def cellAt (w : Nat) : State := st (runs ++ [(A.imem, 7, w)])

/-- The words of the cell tests: opcode `op`, operands the constants 1, 0, 1 and history bit 5. -/
def cellWord (op : Nat) : Nat := 2 ^ 92 * op + 2 ^ 48 * 5 + 2 ^ 32 * 0x8001 + 2 ^ 16 * 0x8000 + 0x8001

/-- O8: each opcode is ready somewhere, its operands sound, with r = 0 and with r = 1. -/
theorem test_cell_ready : ∀ op ∈ List.range 16, (cellAt (cellWord op)).CellReady cell0 0 7 op := fun op h =>
  { issue := ⟨(by decide : ∀ op ∈ List.range 16, (cellAt (cellWord op)).clocked = true) op h,
      (by decide : ∀ op ∈ List.range 16, (cellAt (cellWord op)).active 0 = some (0, 7)) op h, rfl,
      (by decide : ∀ op ∈ List.range 16, (cellAt (cellWord op)).votes 0 7 = []) op h⟩
    code := (by decide : ∀ op ∈ List.range 16, slice ((cellAt (cellWord op)).cWord cell0 7) 92 4 = op) op h
    word := (by decide : ∀ op ∈ List.range 16, (cellAt (cellWord op)).errOf A.imem 7 = 0) op h
    quiet := (by decide : ∀ op ∈ List.range 16, (cellAt (cellWord op)).debug = false) op h }

theorem test_cell_sound : (cellAt (cellWord 2)).CellSound cell0 0 7 ∧ (cellAt (cellWord 2 + 2 ^ 89)).CellSound cell0 0 7 ∧
    (cellAt (cellWord 2)).cResult cell0 0 7 = false ∧ (cellAt (cellWord 2 + 2 ^ 89)).cResult cell0 0 7 = true := by
  refine ⟨?_, ?_, by decide, by decide⟩
  all_goals
    intro o ho
    match o, ho with
    | 0, _ => exact ⟨by decide, fun h => absurd h (by decide)⟩
    | 1, _ => exact ⟨by decide, fun h => absurd h (by decide)⟩
    | 2, _ => exact ⟨by decide, fun h => absurd h (by decide)⟩
    | 3, _ => exact ⟨by decide, (by decide : State.errOf (cellAt _) A.hist 5 = 0)⟩

/-- O8: a word that cannot be corrected; a reserved selector at A and at D; a YIELD beside a WNOP and beside a word. -/
theorem test_cell_faults_ready :
    ((cellAt 0).wr A.err (A.imem.key 7) 2).MayIssue 0 0 0 0 7 ∧ ((cellAt 0).wr A.err (A.imem.key 7) 2).errOf A.imem 7 = 2 ∧
    (cellAt (2 ^ 92 + 0xC000)).CellReady cell0 0 7 1 ∧ selReserved (slice ((cellAt (2 ^ 92 + 0xC000)).cWord cell0 7) 0 16) = true ∧
    (cellAt (2 ^ 93 + 2 ^ 48 * 0x7400)).CellReady cell0 0 7 2 ∧
    selReserved (slice ((cellAt (2 ^ 93 + 2 ^ 48 * 0x7400)).cWord cell0 7) 48 16) = true ∧
    (∀ j < 3, selReserved (slice ((cellAt (2 ^ 93 + 2 ^ 48 * 0x7400)).cWord cell0 7) (16 * j) 16) = false) ∧
    (cellAt (3 * 2 ^ 92)).marked 1 0 = false ∧ wop ((cellAt (3 * 2 ^ 92)).wWord bed0 7) = 0 ∧
    wop ((wordAt (2 ^ 42)).wWord bed0 7) ≠ 0 ∧ (wordAt (2 ^ 42)).CellReady cell0 0 7 3 :=
  ⟨⟨by decide, by decide, by decide, by decide⟩, by decide, ⟨⟨by decide, by decide, by decide, by decide⟩, by decide, by decide,
    by decide⟩, by decide, ⟨⟨by decide, by decide, by decide, by decide⟩, by decide, by decide, by decide⟩, by decide,
    by decide, by decide, by decide, by decide, ⟨⟨by decide, by decide, by decide, by decide⟩, by decide, by decide, by decide⟩⟩

/-- R58: index {D, C, B, A} = 0101 selects bit 5 of TT; R33: the bit goes to history entry 7. -/
theorem test_eval_bit : (after (.eval cell0) (cellAt (cellWord 1 + 2 ^ (64 + 5)))).histPend = [⟨0, 7, 1, 1, none, 0⟩] ∧
    (after (.eval cell0) (cellAt (cellWord 1 + 2 ^ (64 + 6)))).histPend = [⟨0, 7, 1, 0, none, 0⟩] := by decide

/-- R64: an assertion with r = 1 raises fault 0x01. -/
theorem test_assert_raises : (after (.assert cell0) (cellAt (cellWord 2 + 2 ^ 89))).rf (P 0) FAULT_STATUS_FIRST_CODE = 1 := by
  decide

/-- The port unit of course 0 holds `w` at step 7, and its slot registers 0 to 3 hold the guard bits. -/
def portAt (w : Nat) : State :=
  st (runs ++ [(A.pimem, 7, w), (A.slotR, 0, 0x8008), (A.slotR, 1, 0x8000), (A.slotR, 2, 0x8000), (A.slotR, 3, 0x8000),
    (A.landP, 0, 0xFFFF)])

/-- O9, O10: each operation is ready, LEN 7 for MGATH and CALLs, else 1. -/
def portOps : List (Nat × Nat × Nat) := [(0x08, 2, 1), (0x09, 2, 4), (0x10, 4, 11), (0x11, 4, 1), (0x12, 4, 7), (0x18, 2, 0),
  (0x19, 2, 11)]

def portWord (x : Nat × Nat × Nat) : Nat := 2 ^ 58 * x.1 + 2 ^ 44 * x.2.2

theorem test_port_sends : ∀ x ∈ portOps, (portAt (portWord x)).PortSends course0 0 7 x.1 x.2.1 := fun x h =>
  { ready :=
    { issue := ⟨(by decide : ∀ x ∈ portOps, (portAt (portWord x)).clocked = true) x h,
        (by decide : ∀ x ∈ portOps, (portAt (portWord x)).active 0 = some (0, 7)) x h, rfl,
        (by decide : ∀ x ∈ portOps, (portAt (portWord x)).votes 0 7 = []) x h⟩
      code := (by decide : ∀ x ∈ portOps, slice ((portAt (portWord x)).pWord course0 7) 58 6 = x.1) x h
      word := (by decide : ∀ x ∈ portOps, (portAt (portWord x)).errOf A.pimem 7 = 0) x h }
    legal := (by decide : ∀ x ∈ portOps, issueBad x.1 ((portAt (portWord x)).pWord course0 7) = none) x h
    guard := (by decide : ∀ x ∈ portOps, slice ((portAt (portWord x)).slotField (courseIx course0)
      (slice ((portAt (portWord x)).pWord course0 7) 53 5) x.2.1) (16 * x.2.1 - 1) 1 = 1) x h
    tag := fun _ => (by decide : ∀ x ∈ portOps, (portAt (portWord x)).on A.tagOut (128 * courseIx course0 +
      slice ((portAt (portWord x)).pWord course0 7) 18 7) = false) x h }

/-- O9: PNOP, GATHERI, GATHER from each space, a guard bit of 0, a reserved length, a tag in use, an unlisted opcode. -/
theorem test_port_ready : ∀ w ∈ [0, 2 ^ 58, 2 ^ 58 + 2 ^ 38, 2 ^ 58 + 2 ^ 39 + 2 ^ 36, 2 ^ 59, 2 ^ 62 + 2 ^ 53 * 4 + 2 ^ 44,
    2 ^ 62 + 2 ^ 44, 2 ^ 62, 2 ^ 58 * 0x3F],
    (portAt w).PortReady course0 0 7 (slice w 58 6) ∧ (portAt w).errOf A.hist 0 = 0 ∧ (portAt w).debug = false ∧
      (portAt w).rd A.landErr 0 &&& 0xFFFF = 0 ∧ (portAt w).errOf A.state 0 = 0 := fun w h =>
  ⟨⟨⟨(by decide : ∀ w ∈ _, (portAt w).clocked = true) w h,
      (by decide : ∀ w ∈ _, (portAt w).active 0 = some (0, 7)) w h, rfl,
      (by decide : ∀ w ∈ _, (portAt w).votes 0 7 = []) w h⟩,
      (by decide : ∀ w ∈ _, slice ((portAt w).pWord course0 7) 58 6 = slice w 58 6) w h,
      (by decide : ∀ w ∈ _, (portAt w).errOf A.pimem 7 = 0) w h⟩,
    (by decide : ∀ w ∈ _, (portAt w).errOf A.hist 0 = 0 ∧ (portAt w).debug = false ∧
      (portAt w).rd A.landErr 0 &&& 0xFFFF = 0 ∧ (portAt w).errOf A.state 0 = 0) w h⟩

theorem test_port_issue_corners :
    issueBad 0x10 (2 ^ 62 + 2 ^ 53 * 4 + 2 ^ 44) = none ∧
    slice ((portAt (2 ^ 62 + 2 ^ 53 * 4 + 2 ^ 44)).pAddr course0 7 4) 63 1 = 0 ∧ issueBad 0x10 (2 ^ 62) = some 3 ∧
    ((portAt (2 ^ 62 + 2 ^ 44)).wr A.tagOut 0 1).on A.tagOut 0 = true ∧
    slice (((portAt (2 ^ 62 + 2 ^ 44)).wr A.tagOut 0 1).pAddr course0 7 4) 63 1 = 1 ∧ popListed 0x3F = false ∧
    (portAt 0).replaying 0 = false ∧ (flds [(P 0, REC_REPLAY_REPLAY, 1)] (portAt 0)).replaying 0 = true := by decide

/-- O10: a queue that takes the message of a CALL, and one that does not. -/
def callQueue (s : State) : State := flds [(Q 0, QUEUE_CTRL_EN, 1), (Q 0, QUEUE_CFG_CLASS, 1), (Q 0, QUEUE_CFG_OWNER, 1)] s

theorem test_call_queue : (callQueue (portAt 0)).qEn 0 = true ∧ (callQueue (portAt 0)).qClass 0 = 1 ∧
    (callQueue (portAt 0)).qOwner 0 = some ((callQueue (portAt 0)).rd A.pPid 0) ∧
    (callQueue (portAt 0)).qUsed 0 + 2 + 8 ≤ (callQueue (portAt 0)).qWords 0 ∧
    (callQueue (portAt 0)).on A.qPtrBad 0 = false ∧ (portAt 0).qEn 0 = false := by decide

/-- R71: GATHERI puts IMM into its slot register. -/
theorem test_gatheri : (after (.gatheri course0) (portAt (2 ^ 59 + 2 ^ 40 * 31 + 0xABCD))).rd A.slotR 31 = 0xABCD := by decide

/-- R79: a BAYRD of LEN 1 hands its request to the bay. -/
theorem test_bayrd : ((after (.bayrd course0) (portAt (portWord (0x08, 2, 1)))).bayReq.map fun r => (r.addr, r.len, r.write)) =
    [(0x8008, 16, false)] := by decide

/-! ### Bays, partition commands, gates, holds, plumb -/

/-- Course 0 has issued, in the step before, a read of word 5 of the bay and a write of its top word, and waits for a line. -/
def bayBusy : State :=
  { st runs with
    bayReq := [⟨0, 0, 0, 6, false, 5, 16, 0, 0, 0, 0, 0⟩, ⟨0, 0, 0, 6, true, 0x1FFFF, 64, 2 ^ 64 - 1, 0, 0, 0, 0⟩]
    bayRet := [⟨0, 1, 0, 0, 0, 0, 0, 7, 0⟩, ⟨0, 0, 0, 2, 15, 15, 3, 9, 0x7FF⟩] }

theorem newtServes_idle {s : State} {wall : Nat} (h : s.rf (D (wall / 16)) NEWT_STATUS_PHASE = 0) (a : Nat) :
    s.newtServes wall a = none := by simp [State.newtServes, h]

/-- O11: a read and a write are due together; the second line is the oldest of its port unit. -/
theorem test_bay_ready : bayBusy.clocked = true ∧ bayBusy.snaps = [] ∧ (bayBusy.bayDue 0).length = 2 ∧
    (∀ r ∈ bayBusy.bayDue 0, bayBusy.errOf A.bay (bayKey 0 r.addr) = 0) ∧
    (∀ r ∈ bayBusy.bayDue 0, ∀ x ∈ bayBusy.bayDue 0, r.cyc = x.cyc ∧ r.step = x.step) ∧
    ((bayBusy.bayDue 0).filter (·.write)).Pairwise (fun a b => bayKey 0 a.addr ≠ bayKey 0 b.addr) ∧
    bayBusy.bayRetDue 0 ⟨0, 1, 0, 0, 0, 0, 0, 7, 0⟩ = false ∧
    bayBusy.bayRetDue 0 ⟨0, 0, 0, 2, 15, 15, 3, 9, 0x7FF⟩ = true := by decide

theorem test_bay_newt : ∀ a, bayBusy.newtServes 0 a = none := newtServes_idle (by decide)

theorem test_bay_service_ready : State.reset.ServingDom .pf 0 domMem ∧ State.reset.BayIdle 0 ∧
    (∀ a, State.reset.newtServes 0 a = none) ∧ bayAccOk 0xFFFFF .b8 = false ∧ bayAccOk 0 .b64 = false ∧
    bayAccOk 0xFFFF8 .b8 = true ∧ State.reset.mayWall .pf 0 = true ∧ State.reset.errOf A.bay 0 = 0 ∧
    State.reset.slotOfWall 0 = none :=
  ⟨servingDom_of (by decide) (by decide), ⟨by decide, by decide⟩, newtServes_idle (by decide),
    by decide⟩

/-- R183: the read returns the word, the write lands in the low bits. -/
theorem test_bay_step : (after (.bayDutStep wall0) (bayBusy.wr A.bay 5 0x12345)).bayRet.map (·.data) = [7, 9, 0x2345] ∧
    (after (.bayDutStep wall0) bayBusy).rd A.bay 0x1FFFF = 2 ^ 64 - 1 := by decide

/-- R189: a service write of 4 bytes at offset 4 merges into the upper half of word 0. -/
theorem test_bay_service_write : (after (.bayServiceWrite .pf wall0 4 .b4 0xAABBCCDD) (State.reset.wr A.bay 0 0x11)).rd A.bay 0 =
    0xAABBCCDD00000011 := by decide

/-- A loaded slot 0 of partition 1 in state `x`. -/
def slotIn (x : Nat) : State := st [(A.pState, 0, x), (A.pPid, 0, 1), (A.pDepth, 0, 8)]

/-- O12: each case of a start that is refused, in the order in which RESULT shows them. -/
theorem test_start_refusals : State.reset.Serving .pf ∧ (slotIn 1).maySlot (.vf 1) 0 = false ∧ (slotIn 1).maySlot (.vf 0) 0 = true ∧
    (slotIn 4).maySlot .pf 0 = true ∧ (flds [(P 0, FAULT_STATUS_IMMEDIATE, 1)] (slotIn 4)).rf (P 0) FAULT_STATUS_IMMEDIATE = 1 ∧
    ((slotIn 4).wr A.pLimit 0 1).on A.pLimit 0 = true ∧ (flds [(P 0, PLUMB_CFG_MODE, 3)] (slotIn 1)).plumbBad 0 = true ∧
    (slotIn 1).plumbBad 0 = false ∧ (slotIn 1).startCheck 0 = 0 := by
  exact ⟨serving_of (by decide), by decide⟩

/-- Slot 0 uses more positions of link 0 than its capacity. -/
def shortSlot : State := (slotIn 1).wr (A.mTab 5) 0 0x8000

theorem test_start_accepts : (slotIn 1).Serving .pf ∧ (((slotIn 1).wallsOf 0).any fun w => (slotIn 1).newtOnBeds w) = false ∧
    (slotIn 1).startLines = [] ∧ (slotIn 1).holdSeen 0 = false ∧ (slotIn 1).rd A.plPhase 0 = 0 ∧
    ((slotIn 2).wr A.pBegun 0 1).preFirst 0 = false ∧ (slotIn 2).on A.pGate 0 = false ∧ (slotIn 2).on A.pLaunchWait 0 = false ∧
    (slotIn 2).rd A.pMembers 0 ≤ 1 :=
  ⟨serving_of (by decide), by decide⟩

/-- R465: a start of a running partition is refused with STATE; a reset by another initiator is DENIED. -/
theorem test_start : (after (.start .pf 0) (slotIn 2)).rf (P 0) PART_CMD_RESULT = 1 := by decide
theorem test_reset_part : (after (.partReset (.vf 3) 0) (slotIn 2)).rsp.status = 1 := by decide

/-- O13: a member waits at the gate, in a gate round, and at step D+12. -/
def gated : State := (slotIn 2).wr A.pGate 0 1
def inCommit : State := ((slotIn 2).wr A.pBegun 0 1).wr A.pStep 0 20

theorem test_gate_ready : gated.clocked = true ∧ gated.holdSeen 0 = false ∧ gated.replaying 0 = false ∧
    (gated.combined 0 0).testBit (1 + (0 + 1) % 3) = false ∧ gated.rd A.pState 0 = 2 ∧
    ((flds [(P 0, PLUMB_CFG_MODE, 1)] gated).combined 0 4).testBit (1 + (0 + 1) % 3) = true ∧
    ((flds [(P 0, PLUMB_CFG_MODE, 1)] gated).combined 0 1).testBit (1 + (0 + 2 + 64) % 3) = false ∧
    ((flds [(P 0, PLUMB_CFG_MODE, 1)] gated).combined 0 2).testBit (1 + (0 + 2 + 1) % 3) = true := by decide

theorem test_commit_ready : inCommit.clocked = true ∧ inCommit.committing 0 = true ∧
    inCommit.rd A.pStep 0 = inCommit.rd A.pDepth 0 + 12 ∧ inCommit.replaying 0 = false ∧ inCommit.on A.pImm 0 = false ∧
    (inCommit.stops.filter fun x => x.slot = 0) = [] ∧ inCommit.bayReq = [] ∧ inCommit.flight = [] ∧
    inCommit.on A.esReloaded 0 = false ∧ inCommit.rd A.esIdx 0 + 1 < 2 ^ 12 := by decide

theorem test_commit_sound : ∀ i, (st runs).errOf A.shadow i = 0 := errOf_absent (by decide) _

/-- R14: the commit counts the emulated cycle. -/
theorem test_commit : (after (.endOfCycleCommit 0) inCommit).rd A.pCycle 0 = 1 := by decide

/-- O14: HOLD observed in a step and at the gate, a hold that ends, timers at their limit and one below it. -/
theorem test_hold_ready : ((flds [(P 0, PLUMB_CFG_MODE, 1)] (st runs)).combined 0 1).testBit 0 = true ∧
    (flds [(P 0, PLUMB_CFG_MODE, 1)] (st runs)).evaluating 0 = true ∧ gated.on A.pGate 0 = true ∧
    ((flds [(P 0, PLUMB_CFG_MODE, 1)] gated).combined 0 1).testBit 0 = true := by decide

def held : State := (slotIn 3).wr A.limitNow 0 2

theorem test_hold_ends : held.rd A.pState 0 = 3 ∧ (held.causes.any fun c => c.1 = 0) = false ∧ (held.combined 0 0).testBit 0 = false ∧
    held.replaying 0 = false ∧ held.preFirst 0 = true ∧ (held.wr A.pBegun 0 1).preFirst 0 = false ∧ held.on A.pGate 0 = false ∧
    (slotIn 2).gateWaiting 0 = true ∧ held.rd A.holdTimer 0 < held.rd A.limitNow 0 * 100 ∧
    (held.wr A.holdTimer 0 199).rd A.holdTimer 0 < held.rd A.limitNow 0 * 100 ∧
    held.rd A.limitNow 0 * 100 ≤ (held.wr A.holdTimer 0 200).rd A.holdTimer 0 := by decide

/-- R153: the limit raises HOLD_TIMEOUT (0x31). -/
theorem test_hold_timeout : (after (.holdTimeout 0) (held.wr A.holdTimer 0 200)).rf (P 0) FAULT_STATUS_FIRST_CODE = 0x31 ∧
    after (.holdTimeout 0) (held.wr A.holdTimer 0 199) = held.wr A.holdTimer 0 199 := by decide

/-- O15: a device below the root with a child at port 1, its parent at port 0. -/
def inTree : State := flds [(0, CHAIN_TREE_VALID, 1), (0, CHAIN_TREE_CHILDREN, 2), (0, CHAIN_TREE_PARENT, 0)] (st runs)

theorem test_tree_ready : inTree.treeParent = some 0 ∧ inTree.treeChildren = [1] ∧ inTree.treeChildren.contains 1 = true ∧
    (inTree.rf 0 CHAIN_TREE_CHILDREN).testBit 2 = false ∧ inTree.treeParent ≠ some 2 ∧
    (flds [(P 0, PLUMB_CFG_MODE, 1)] (st (runs ++ [(A.pMembers, 0, 2)]))).plumbMode 0 = 1 ∧
    1 < (st (runs ++ [(A.pMembers, 0, 2)])).rd A.pMembers 0 ∧ (st runs).loaded 0 = true ∧
    (15 : Nat) ≠ (st runs).rf 0 PLUMB_BUS_STATUS_BUS_POS := by decide

/-- R158: a member named by SEVER is SEVERED. -/
theorem test_sever : (after (.sever 0 1 3 0 4) inTree).rd A.pState 0 = 5 := by decide

/-! ### Registers, access ports, the mortar -/

/-- O16: a serving device; initiators with and without the right; unassigned offsets outside and inside a block. -/
theorem test_register_ready : State.reset.Serving .pf ∧ State.reset.pfRights .pf = true ∧ State.reset.pfRights (.vf 31) = false ∧
    placeOf 0x120000 = none ∧ placeOf 0x7FFFFC = none ∧ (placeOf (D 0 + 0xA68)).any (·.assigned) = false ∧
    (placeOf (D 0 + 0xA68)).isSome = true ∧ State.reset.domOf (D 0 + 0xA68) none = none ∧
    State.reset.domOf (D 0 + 0xA68) (some 1) = none ∧ D 0 + 0xA68 < csrBase ∧ (slotIn 1).Serving .pf ∧
    (slotIn 1).maySlot (.vf 0) 0 = true :=
  ⟨serving_of (by decide), by decide, by decide, by decide, by decide, by decide, by decide, by decide,
    by decide, by decide, serving_of (by decide), by decide⟩

/-- R11: a write of HI takes the held LO with it. -/
theorem test_pair_write : (after (.lohiHiWrite .pf (P 0 + oREC_DUMP_FROM_HI) 0x12345)
    (after (.lohiLoWrite .pf (P 0 + oREC_DUMP_FROM_LO) 7) (slotIn 1))).pair (P 0 + oREC_DUMP_FROM_LO) = 2 ^ 32 * 0x2345 + 7 := by
  decide

/-- R9: an RC read clears. -/
theorem test_rc_read : (after (.rcRead .pf (D 0 + oBAY_ECC_COUNT)) (State.reset.wr A.reg (D 0 + oBAY_ECC_COUNT) 5)).reg
    (D 0 + oBAY_ECC_COUNT) = 0 ∧
    (after (.rcRead .pf (D 0 + oBAY_ECC_COUNT)) (State.reset.wr A.reg (D 0 + oBAY_ECC_COUNT) 5)).rsp.data = 5 := by decide

/-- The access port of die 0 names store `st`, index `ix`. -/
def atStore (st ix : Nat) : State := flds [(D 0, BED_ACC_LOC_STORE, st)] (State.reset.wr A.reg (D 0 + oBED_ACC_INDEX) ix)
def accOf (s : State) : BedAcc := bedAccOf 0 (s.reg (D 0 + oBED_ACC_LOC)) (s.reg (D 0 + oBED_ACC_INDEX))

theorem atStore_serves : (atStore 0 0).ServingDom .pf 0 domFab ∧ (atStore 3 511).ServingDom .pf 0 domFab :=
  ⟨servingDom_of (by decide) (by decide), servingDom_of (by decide) (by decide)⟩

/-- O17: each store at the top of its range is served. -/
theorem test_bed_access_ready : ∀ x ∈ [(0, 511), (1, 511), (2, 255), (3, 0x1000 + 511), (4, 0x3000 + 15), (5, 511), (6, 511)],
    (atStore x.1 x.2).rf (D 0) BED_ACC_STATUS_BUSYACC = 0 ∧ (atStore x.1 x.2).newtOnBed (accOf (atStore x.1 x.2)).bed = false ∧
    (accOf (atStore x.1 x.2)).badAddress = false ∧ (accOf (atStore x.1 x.2)).store = x.1 ∧ (atStore x.1 x.2).mayWall .pf 0 = true ∧
    (atStore x.1 x.2).wallServes 0 true = true ∧ (atStore x.1 x.2).rd A.landErr (accOf (atStore x.1 x.2)).place.2 = 0 ∧
    (atStore x.1 x.2).errOf (accOf (atStore x.1 x.2)).place.1 (accOf (atStore x.1 x.2)).place.2 = 0 := by decide

/-- O18: addresses past each range, an initiator without the right, a wall whose partition runs, both flag commands. -/
theorem test_bed_access_refused : (∀ x ∈ [(7, 0), (2, 256), (3, 0x2000), (4, 16)], (accOf (atStore x.1 x.2)).badAddress = true) ∧
    (atStore 0 0).mayWall (.vf 0) 0 = false ∧ (st runs).mayWall (.vf 0) 0 = true ∧ (st runs).wallServes 0 false = false ∧
    (st runs).wallServes 0 true = false ∧ ((slotIn 4).wr A.wallOwner 0 1).wallServes 0 true = false ∧
    ((slotIn 4).wr A.wallOwner 0 1).wallServes 0 false = true := by decide

/-- O18: a bed under test; accesses that complete. -/
theorem test_bed_access_newt :
    (flds [(D 0, NEWT_STATUS_PHASE, 2), (D 0, NEWT_STATUS_KIND, 1)] (atStore 0 0)).newtOnBed 0 = true ∧
    (flds [(D 0, BED_ACC_STATUS_BUSYACC, 1)] State.reset).rf (D 0) BED_ACC_STATUS_BUSYACC = 1 ∧
    (flds [(D 0, WU_ACC_STATUS_BUSYACC, 1)] State.reset).rf (D 0) WU_ACC_STATUS_BUSYACC = 1 ∧
    (flds [(D 0, MORTAR_ACC_STATUS_BUSYACC, 1)] State.reset).rf (D 0) MORTAR_ACC_STATUS_BUSYACC = 1 ∧
    (∀ x ∈ State.reset.accWait, x.1 ≠ 3 * 0 ∧ x.1 ≠ 3 * 0 + 1) := by decide

/-- O17: the word-unit port and the mortar port, a table entry and a LANE_CFG. -/
theorem test_word_access_ready : State.reset.rf (D 0) WU_ACC_STATUS_BUSYACC = 0 ∧ State.reset.newtOnBed 0 = false ∧
    State.reset.errOf A.wimem 0 = 0 ∧ State.reset.domOn 0 domLink = true ∧ State.reset.rf (D 0) MORTAR_ACC_STATUS_BUSYACC = 0 ∧
    mortarPlace 0 (State.reset.reg (D 0 + oMORTAR_ACC_LOC)) = some (0, 0, false) ∧ State.reset.mayLane .pf 0 0 = true ∧
    State.reset.laneServes 0 0 false = true ∧ State.reset.mortarBad 0 0 0 = false ∧
    State.reset.mortarCheck .pf 0 0 false 0 = 0 ∧ mortarPlace 7 (2 ^ 25 * 7 + 2 ^ 29 * 5 + 511) = some (5, 4095, true) ∧
    State.reset.mortarCheck .pf 5 511 true 0 = 0 ∧
    (flds [(D 0, MORTAR_ACC_LOC_TABLE, 7)] State.reset).rf (D 0) MORTAR_ACC_LOC_TABLE = 7 := by decide

/-- R106: a served write stores the 48-bit word. -/
theorem test_word_access : (after (.wuAccWrite .pf 0) (flds [(D 0, WU_ACC_DATA0_DATA, 0xFFFFFFFF), (D 0, WU_ACC_DATA1_DATA, 0x8001)]
    State.reset)).rd A.wimem 0 = 0x8001FFFFFFFF := by decide

/-- Lane 0 of bed 0 sends history bit 5 of row 3, or relays it from the landing store, at step 7. -/
def laneAt (src : Nat) : State :=
  st (runs ++ [(A.mTab 0, 7, 0x8000 + 2 ^ 14 * src + 2 ^ 9 * 5 + 3), (A.landP, 3, 0xFFFF), (A.land, 3, 0x20)])

/-- O19: both sources; an entry with EN = 0. -/
theorem test_lane_ready : (laneAt 0).MayIssue 3 0 0 0 7 ∧ (laneAt 1).MayIssue 3 0 0 0 7 ∧ (st runs).MayIssue 3 0 0 0 7 ∧
    (∀ x ∈ [0, 1], (laneAt x).mortarBad 0 0 7 = false ∧ (laneAt x).debug = false ∧ mEn 0 ((laneAt x).rd (A.mTab 0) 7) = true ∧
      ((laneAt x).rd (A.mTab 0) 7).testBit 14 = decide (x = 1) ∧ (laneAt x).errOf A.hist 3 = 0 ∧
      (laneAt x).rd A.landErr (landKey 0 0 3) &&& 2 ^ 5 = 0) ∧ mEn 0 ((st runs).rd (A.mTab 0) 7) = false :=
  ⟨⟨by decide, by decide, by decide, by decide⟩, ⟨by decide, by decide, by decide, by decide⟩,
    ⟨by decide, by decide, by decide, by decide⟩, by decide⟩

/-- R107: the relayed bit is on its way to the course switch, two steps later. -/
theorem test_lane_relay : ((after (.laneRelay bed0 0) (laneAt 1)).flight.map fun b => (b.due, b.val)) = [(9, true)] := by decide

/-- A bit waits at input 0 of the switches of wall 0 and its course, its die, and at a module; partition 1 owns the lanes. -/
def carrying : State :=
  { st (runs ++ [(A.mTab 1, 7, 0x8000), (A.mTab 2, 7, 0x8000), (A.mTab 3, 7, 0x8000), (A.mTab 4, 7, 0x8000),
      (A.mOwn 3, 0, 0x101), (A.mOwn 4, 0, 0x101)]) with
    flight := [⟨0, 0, swIn 1 0 0, 7, true, []⟩, ⟨0, 0, swIn 2 0 0, 7, true, []⟩, ⟨0, 0, swIn 3 0 0, 7, true, []⟩,
      ⟨0, 0, .source 0 0, 7, true, []⟩] }

theorem test_switch_ready : (∀ kind ∈ [1, 2, 3], carrying.laneSlot kind 0 = some 0 ∧ carrying.mortarBad kind 0 7 = false ∧
    mEn kind (carrying.rd (A.mTab kind) 7) = true ∧ (carrying.bitAt 0 (swIn kind 0 0) 7 0).isSome = true) ∧
    carrying.stageRuns 0 7 = true ∧ carrying.laneSlot 4 0 = some 0 ∧ mEn 4 (carrying.rd (A.mTab 4) 7) = true ∧
    (carrying.bitAt 0 (.source 0 0) 7 0).isSome = true ∧ (st runs).bitAt 0 (swIn 1 0 0) 7 0 = none ∧
    mEn 1 ((st runs).rd (A.mTab 1) 7) = false := by decide

/-- R110: a course switch hands the bit on, one step later. -/
theorem test_switch : ((after (.switchEntry (.course course0) 0 7) carrying).flight.map (·.due)) = [7, 7, 7, 7, 8] := by decide

/-- O20: a port with a send entry of partition 1 at step 7, and receive entries at step 3. -/
def linked : State :=
  st (runs ++ [(A.mTab 5, 7, 0x8000), (A.mOwn 5, 0, 0x101), (A.mTab 6, 3, 2 ^ 31 + 2), (A.mOwn 6, 0, 0x101)])

theorem linked_lanes : linked.portLanes 5 0 1 = [0] ∧ linked.portLanes 6 0 1 = [0] := by
  constructor <;> decide

theorem test_link_ready : linked.loaded 0 = true ∧ linked.rd A.pState 0 = 2 ∧ linked.stageRuns 0 7 = true ∧
    linked.mortarBad 5 0 7 = false ∧ linked.liveLinks 0 = true ∧ linked.on A.linkDone 7 = false ∧
    (flds [(PT 0, PORT_STATUS_UP, 1)] linked).portUp 0 = true ∧ mEn 5 (linked.rd (A.mTab 5) 7) = true ∧
    (∀ f ∈ linked.frameOut, f.port = 0 → f.fresh = true → slice f.hdr 12 8 ≤ 1) ∧
    (flds [(P 0, REC_REPLAY_REPLAY, 1)] linked).liveLinks 0 = false ∧ linked.slotOfPid 1 = some 0 ∧ linked.slotOfPid 2 = none ∧
    linked.stoppable 0 = true ∧ (slotIn 1).stoppable 0 = false ∧ linked.mortarBad 6 0 3 = false ∧
    (linked.rd (A.mTab 6) 3).testBit 31 = true ∧ slice (linked.rd (A.mTab 6) 3) 0 9 < linked.rd A.pDepth 0 ∧
    linked.marked 10 (16 * landKey 0 0 2) = false ∧ (linked.mark 10 (16 * landKey 0 0 2)).marked 10 (16 * landKey 0 0 2) = true := by
  decide

/-- R129: a bit received for bed 0 lands in the bank of PAR. -/
theorem test_frame_lands : (after (.mortarFrame 0 (BitVec.ofNat 24 (0xA * 2 ^ 20 + 2 ^ 12 + 2 ^ 11 + 4 * 3)) [true]) linked).rd A.land
    (landKey 0 1 2) = 1 := by decide

/-- O20: bits that are due at bed 0, over the mortar and over a link. -/
def landing (n : Node) (due : Nat) : State := { st runs with flight := [⟨0, 1, n, due, true, []⟩] }

theorem test_landing_ready :
    (landing (.bedIn 0 15 2) 7).landingDue 0 15 2 = some ⟨0, 1, .bedIn 0 15 2, 7, true, []⟩ ∧
    (landing (.linkIn 0 15 2 0 3) 0).landingDue 0 15 2 = some ⟨0, 1, .linkIn 0 15 2 0 3, 0, true, []⟩ ∧
    (st runs).landingDue 0 15 2 = none ∧ (2 : Nat) < (st runs).rd A.pDepth 0 ∧ (st runs).recording 0 = false := by decide

/-! ### Memory model, Newt, cores, queues -/

/-- Request 0 of engine 0 on a page of partition 1: a read, a write or a gather of kind `kd` in phase `ph`, with the map
present and the granule of frame 0 owned. -/
def asked (kd : MmeKind) (ph : MmePhase) (more : List TcEntry) : State :=
  let s := flds [(P 0, MEM_MAP_BASE_VALID, 1)] (st (runs ++ [(A.own, 0, 0x101)]))
  { s with mme := [⟨0, 0, 1, 0, kd, 5, 0, 0x40, 64, 0, 0, 0, 0, 0, 0, 0, true, 0, 0, ph⟩], tcache := more }

def theReq (kd : MmeKind) (ph : MmePhase) : MmeReq := ⟨0, 0, 1, 0, kd, 5, 0, 0x40, 64, 0, 0, 0, 0, 0, 0, 0, true, 0, 0, ph⟩

/-- O21: a fresh read and write without a map and with cached entries that are invalid, read-only and resident; gathers; reads
that are ready or have failed. -/
theorem test_walk_ready : (∀ kd ∈ [MmeKind.read, .write, .gather], ∀ ph ∈ [MmePhase.fresh, .ready, .failed 5 0x40],
      (asked kd ph []).findReq 0 0 = some (theReq kd ph) ∧ (asked kd ph []).behind (theReq kd ph) = false) ∧
    (asked .read .fresh []).mapBase 0 ≠ none ∧ (st runs).mapBase 0 = none ∧
    (∀ e ∈ [0, 3, 2 ^ 2 + 3, 2 ^ 3 + 2 ^ 2 + 3], (asked .read .fresh [⟨0, 1, 0, e⟩]).tcache.find? (fun x =>
      x.engine = 0 ∧ x.pid = 1 ∧ x.page = slice 0x40 21 31) = some ⟨0, 1, 0, e⟩) ∧
    slice 15 8 12 = (asked .read .fresh []).chainAddr ∧ (asked .read .fresh []).granuleOwner 0x40 = some 1 ∧
    (st runs).granuleOwner 0x40 = none ∧ (st runs).recording 0 = false := by decide

theorem test_walk_access : ((asked .read .fresh []).hbmAccess (.part 1) false 0x40 8 0).status = 0 ∧
    ((asked .write .fresh []).hbmAccess (.part 1) true 0x40 8 0).status = 0 ∧
    (((asked .read .fresh []).wr A.hbmErr 1 2).hbmAccess (.part 1) false 0x40 8 0).status = 3 := by decide

/-- Entries of a page map at address 0: level 1 names a table at 0x40000, whose first entry is `e`. -/
def mapped (e : Nat) : State := ((asked .read .fresh []).putBytes 0 (1 + 2 ^ 18) 8).putBytes 0x40000 e 8

/-- O22: a level-1 entry that is absent and one that is valid; level-2 entries that are invalid, not resident and resident. -/
theorem test_map_absent : ((asked .read .fresh []).hbmAccess (.part 1) false 0 8 0).data.testBit 0 = false := by decide
theorem test_map_ready : ((mapped 3).hbmAccess (.part 1) false 0 8 0).data = 1 + 2 ^ 18 ∧
    (∀ e ∈ [0, 1, 3, 7], (((mapped e).hbmAccess (.part 1) false 0 8 0).st.hbmAccess (.part 1) false 0x40000 8 0).data = e) ∧
    ((mapped 3).hbmAccess (.part 1) false 0 8 0).status = 0 ∧
    ((mapped 3).hbmAccess (.part 2) false 0 8 0).status = 1 := by decide

/-- O22: a page that is not resident, new, known, and with no entry free. -/
def missing : State := asked .read .fresh [⟨0, 1, 0, 1⟩]

theorem test_paging_ready : engineOf 0 = 0 ∧ missing.translate 0 0 1 0x40 false = (.absent, missing) ∧
    (missing.waitPages.any fun w => w.engine = 0 ∧ w.pid = 1 ∧ w.page = 0) = false ∧ missing.waitPages.length < 64 ∧
    ((asked .read .waitEntry []).mme.find? fun x => engineOf x.course = 0 ∧ x.phase = .waitEntry) =
      some (theReq .read .waitEntry) := by decide

/-- O22: a page whose message waits, with and without a queue that takes it. -/
def pageWaits : State :=
  { flds [(Q 0, QUEUE_CTRL_EN, 1), (Q 0, QUEUE_CFG_CLASS, 1), (Q 0, QUEUE_CFG_OWNER, 1)] (asked .read (.waitPage 0) []) with
    waitPages := [⟨0, 1, 0, false, 0x40, false⟩] }

def full0 : State := { pageWaits with packets := (List.replicate 8 ⟨0, 1, List.replicate 64 0, true, true, false⟩) }

theorem test_page_message_ready :
    (pageWaits.waitPages.find? fun w => w.engine = 0 ∧ ¬ w.sent) = some ⟨0, 1, 0, false, 0x40, false⟩ ∧
    pageWaits.slotOfPid 1 = some 0 ∧ pageWaits.psQueue 0 = 0 ∧ pageWaits.portalQueueOk 0 1 = true ∧
    pageWaits.qFits 0 2 = true ∧ pageWaits.on A.qPtrBad 0 = false ∧
    (∀ r ∈ pageWaits.mme.filter (waitsOn 1 0), r.kind ≠ .write) ∧ (pageWaits.mme.filter (waitsOn 1 0)).length = 1 := by decide

theorem test_page_message_full : full0.qFits 0 2 = false := by decide

theorem pageWaits_serves : pageWaits.Serving .pf := serving_of (by decide)

/-- R204: the host's answer lets the read walk again. -/
theorem test_ps_done : (after (.memPsDone .pf 0 0) pageWaits).mme.map (·.phase) = [.fresh] := by decide

/-- O23: an initiator with a partition, the physical function, and one with neither; earlier writes performed or not. -/
theorem test_fence_ready : (slotIn 1).Serving .pf ∧ (slotIn 1).pfRights .pf = true ∧ (slotIn 1).pfRights (.vf 0) = false ∧
    (slotIn 1).stamp (.vf 0) = .part 1 ∧ (∀ p, (slotIn 1).stamp (.vf 1) ≠ .part p) ∧
    (∀ x ∈ ((asked .write .fresh []).wr A.fencePid 0 1).mme, (((asked .write .fresh []).wr A.fencePid 0 1).rd A.fenceAt 0 ≤
      x.serial)) ∧
    (∀ x ∈ (((asked .write .fresh []).wr A.fencePid 0 1).wr A.fenceAt 0 1).mme, x.serial <
      (((asked .write .fresh []).wr A.fencePid 0 1).wr A.fenceAt 0 1).rd A.fenceAt 0) := by
  refine ⟨serving_of (by decide), by decide, by decide, by decide, ?_, by decide, by decide⟩
  intro p h
  have : (slotIn 1).stamp (.vf 1) = .nobody := by decide
  rw [this] at h
  exact nomatch h

/-- O24: MARCH of a bay region; four spares used and three; patterns of each kind. -/
def march : State := flds [(D 0, NEWT_STATUS_PHASE, 2)] State.reset

def spareRow (i : Nat) : Repair := ⟨0, 0, 0, 0, false, i, i, true, false⟩

theorem test_march_ready : march.rf (D 0) NEWT_STATUS_PHASE = 2 ∧ march.rf (D 0) NEWT_STATUS_KIND = 0 ∧ march.corrLog = [] ∧
    (∀ x ∈ [(⟨0, 0, 0⟩ : NewtCell), ⟨31, 15, 63⟩], x.row / 32 = march.rf (D 0) NEWT_STATUS_UNIT % 16) ∧
    [(⟨0, 0, 0⟩ : NewtCell), ⟨31, 15, 63⟩].Nodup ∧
    (State.unitRepairs { march with repairs := [spareRow 0, spareRow 1, spareRow 2, spareRow 3] } 0 false).length = 4 ∧
    (State.unitRepairs { march with repairs := [spareRow 0, spareRow 1, spareRow 2] } 0 false).length < 4 ∧
    (march.unitRepairs 0 true).length ≤ 4 := by decide

/-- R193: the verdicts of the decision table on failures by hand. -/
theorem test_verdict_word : newtVerdict false [⟨3, 1, 7⟩, ⟨3, 2, 9⟩] [] [] = (4, some [⟨4, ⟨3, 1, 7⟩, 1⟩]) := by decide
theorem test_verdict_sense : newtVerdict false [⟨3, 1, 7⟩, ⟨4, 1, 7⟩] [] [] = (3, some [⟨3, ⟨3, 1, 7⟩, 2⟩]) := by decide

def pinned : State := flds [(D 0, NEWT_STATUS_PHASE, 6), (D 0, NEWT_STATUS_PINNED, 1)] State.reset

theorem test_unpin_ready : pinned.Serving .pf ∧ pinned.pfRights .pf = true ∧ pinned.rf (D 0) NEWT_STATUS_PHASE = 6 ∧
    (∀ k < 32, pinned.on A.pStartWait k = false) :=
  ⟨serving_of (by decide), by decide, by decide, by decide⟩

/-- O25: a requested unit and the sweep's next; SAVE of each kind; FILL and RESTORE. -/
theorem sweep_first {s : State} {d i : Nat} (hi : i < 8192) (h : s.sweepTakes d i = true) : s.sweepFrom d i = some i := by
  unfold State.sweepFrom
  rw [show (8192 : Nat) = 8191 + 1 from rfl, List.range_succ_eq_map, List.map_cons, List.find?_cons_of_pos]
  · simp [Nat.mod_eq_of_lt hi]
  · simpa [Nat.mod_eq_of_lt hi] using h

theorem test_newt_start_ready : State.reset.rf (D 0) NEWT_STATUS_PHASE = 0 ∧ State.reset.newtRested 0 = true ∧
    1 ≤ (State.reset.wr A.newtReq 0 (2 ^ 16 + 4096)).rd A.newtReq 0 % 2 ^ 16 ∧
    (State.reset.wr A.newtReq 0 (2 ^ 16 + 4096)).rd A.newtReq 0 % 2 ^ 16 - 1 < 4096 ∧
    (State.reset.wr A.newtReq 0 (2 ^ 16 + 4096)).rd A.newtReq 0 < 2 ^ 17 ∧ State.reset.rd A.newtReq 0 = 0 ∧
    State.reset.rd A.newtNext 0 = 0 := by decide

theorem test_newt_sweep_ready : State.reset.sweepFrom 0 0 = some 0 := sweep_first (by decide) (by decide)

theorem test_newt_phases_ready : (flds [(D 0, NEWT_STATUS_PHASE, 1)] State.reset).rf (D 0) NEWT_STATUS_PHASE = 1 ∧
    (flds [(D 0, NEWT_STATUS_PHASE, 1), (D 0, NEWT_STATUS_KIND, 1)] State.reset).rf (D 0) NEWT_STATUS_KIND = 1 ∧
    (flds [(D 0, NEWT_STATUS_PHASE, 3)] State.reset).rf (D 0) NEWT_STATUS_PHASE = 3 ∧
    (flds [(D 0, NEWT_STATUS_PHASE, 4)] State.reset).rf (D 0) NEWT_STATUS_PHASE = 4 ∧
    (flds [(D 0, NEWT_STATUS_PHASE, 5)] State.reset).rf (D 0) NEWT_STATUS_PHASE = 5 ∧ State.reset.repairs = [] ∧
    (∀ k < 32, State.reset.on A.pStartWait k = false) := by decide

theorem test_canon_ready : State.reset.Canon := ⟨by decide, by decide⟩

/-- R195: the wall of a running partition is BUSY, a pinned die PINNED. -/
theorem test_newt_req : (after (.newtReq .pf 0 1) (st runs)).rf (D 0) NEWT_REQ_RESULT = 1 ∧
    (after (.newtReq .pf 0 1) pinned).rf (D 0) NEWT_REQ_RESULT = 3 ∧
    (after (.newtReq (.vf 0) 0 1) State.reset).rf (D 0) NEWT_REQ_RESULT = 2 := by decide

/-- O26: a core that is up, alone or with task 0 as its item, in machine mode or below. -/
def coreOn (l : List (Arr × Nat × Nat)) : State := st ((A.coreUp, 0, 1) :: l)

theorem test_core_ready : (coreOn []).on A.coreUp 0 = true ∧ (coreOn []).rd A.coreLow 0 = 0 ∧ (coreOn []).rd A.coreTask 0 = 0 ∧
    State.reset.on A.coreUp 0 = false ∧ (coreOn [(A.coreLow, 0, 1)]).rd A.coreLow 0 ≠ 0 ∧ (coreOn [(A.coreLow, 0, 1)]).rd A.jctl 0 = 0 ∧
    (coreOn [(A.coreTask, 0, 512)]).rd A.coreTask 0 = 511 + 1 ∧ (coreOn [(A.coreTask, 0, 512)]).on A.tFreeAtEnd 511 = false ∧
    (coreOn [(A.coreTask, 0, 512), (A.tFreeAtEnd, 511, 1)]).on A.tFreeAtEnd 511 = true ∧
    (coreOn [(A.coreTask, 0, 512)]).rd A.coreBind 0 ≠ 0x101 := by decide

theorem test_core_serves : (coreOn []).Serving .pf ∧ ∀ q, (coreOn []).on A.qPtrBad q = false :=
  ⟨serving_of (by decide), fun q => by simp [State.on, rd_absent (s := coreOn []) (a := A.qPtrBad)
    (by decide) (by decide) q]⟩

/-- R216: JNEXT of a core without an item makes it idle; R215: below machine mode, without LOWER, it is illegal. -/
theorem test_jnext : (after (.jnext 0 0) (coreOn [])).on A.coreIdle 0 = true ∧
    (after (.jnext 0 0) (coreOn [(A.coreLow, 0, 1)])).rd A.coreCause 0 = 2 := by decide

/-- O27: a response being assembled and one that is complete, with each outcome of its check. -/
def respSent (w1 : Nat) (r : List PortalRec) : State :=
  { st (runs ++ [(A.coreUp, 0, 1), (A.jrspSent, 0, 1)]) with jrspBuf := [(0, 2 ^ 34), (0, w1)], portalRec := r }

theorem test_response_ready : (coreOn []).on A.jrspSent 0 = false ∧ (coreOn []).rd A.jrspLeft 0 = 0 ∧
    (coreOn [(A.jrspLeft, 0, 2)]).rd A.jrspLeft 0 = 2 ∧ (coreOn [(A.jrspLeft, 0, 1)]).rd A.jrspLeft 0 = 1 ∧
    (respSent 0 []).on A.jrspSent 0 = true ∧ (respSent 0 []).rspCheck (.core 0 0) (2 ^ 34) 0 0 = 2 ∧
    (respSent 0 []).rspCheck (.core 0 0) (2 ^ 35) 0 0 = 4 ∧ (respSent 0 []).rspCheck (.core 0 0) (2 ^ 34) (2 ^ 58) 0 = 3 ∧
    (respSent 0 [⟨0, 0, 1, 0, 0, 0, 0, 1, 0, 0, 0⟩]).rspCheck (.core 0 0) (2 ^ 34 + 2 ^ 42) 0 0 = 1 ∧
    (respSent 0 [⟨0, 0, 0, 0, 0, 0, 0, 1, 0, 0, 0⟩]).rspCheck (.core 0 0) (2 ^ 34 + 2 ^ 42) 0 0 = 0 ∧
    (respSent 0 []).slotOfWall 0 = some 0 ∧ (respSent 0 []).recording 0 = false := by decide

/-- O27: a portal's message that waits, with a queue that takes it and without. -/
def portalWaits : State := { callQueue (st runs) with portalMsg := [⟨0, 0, 0, [1, 2]⟩] }

theorem test_portal_ready : (portalWaits.portalMsg.find? fun m => m.course = 0) = some ⟨0, 0, 0, [1, 2]⟩ ∧
    portalWaits.portalQueueOk 0 1 = true ∧ portalWaits.qFits 0 2 = true ∧ portalWaits.on A.qPtrBad 0 = false ∧
    (∀ x ∈ portalWaits.portalMsg.erase ⟨0, 0, 0, [1, 2]⟩, x.slot ≠ 0) ∧ (st runs).portalQueueOk 0 1 = false := by decide

/-- O28: an idle core and a READY task; a wait at its timeout and one ns before; rights and states of a slot. -/
def ready0 : State := coreOn [(A.coreIdle, 0, 1), (A.tState, 0, 2), (A.tCfg, 0, 1 + 2 ^ 16), (A.tCfgNow, 0, 1 + 2 ^ 16)]
def waits0 (us : Nat) : State := st [(A.tState, 0, 1), (A.tTimeoutNow, 0, us), (A.tMaskNow, 0, 1), (A.reg, oMONO_NS_LO, 1000)]

theorem test_task_ready : (waits0 1).rd A.tState 0 = 1 ∧ slice ((waits0 1).rd A.tTimeoutNow 0) 0 24 * 1000 ≤ (waits0 1).mono ∧
    (waits0 2).mono < slice ((waits0 2).rd A.tTimeoutNow 0) 0 24 * 1000 ∧ State.reset.mayTask .pf 0 = true ∧
    State.reset.mayTask (.vf 0) 0 = false ∧ taskMet ((waits0 1).rd A.tMaskNow 0) 0 1 = true ∧
    taskMet ((waits0 1).rd A.tMaskNow 0) 0 2 = false ∧ ready0.rf 0 PWR_CTRL_BUSY = 0 := by decide

/-- R226: a flag that meets the wait makes the task READY. -/
theorem test_flag_set : (after (.dispFlagSet .pf 0 0 0) (waits0 1)).rd A.tState 0 = 2 ∧
    (after (.dispFlagSet .pf 0 0 1) (waits0 1)).rd A.tState 0 = 1 := by decide

/-- O29: queues with a word to pop; one that takes a push, a disabled one, and one of a core's. -/
def queued (l : List QPacket) : State :=
  { flds [(Q 0, QUEUE_CTRL_EN, 1), (Q 0, QUEUE_CFG_CLASS, 1)] (coreOn []) with packets := l }

theorem test_queue_ready : (queued []).mayQueue .pf 0 = true ∧ (queued []).mayQueue (.vf 0) 0 = false ∧
    (queued []).mayQueue (.core 0 0) 0 = true ∧ ((queued []).wr A.coreBind 0 0x102).mayQueue (.core 0 0) 0 = false ∧
    (queued []).packets.find? (fun p => p.queue = 0 ∧ p.readable) = none ∧
    (queued [⟨0, 1, [5, 6], true, true, false⟩]).packets.find? (fun p => p.queue = 0 ∧ p.readable) =
      some ⟨0, 1, [5, 6], true, true, false⟩ ∧
    (queued []).qEn 0 = true ∧ (queued []).on A.qPtrBad 0 = false ∧ (queued []).qClass 0 ≠ 2 ∧ (queued []).qFits 0 1 = true ∧
    (queued []).qOpens 0 < 8 ∧ (coreOn []).qEn 0 = false ∧ (queued []).qOpen 0 3 = none ∧
    8 ≤ (queued ((List.range 8).map fun i => ⟨0, i, [1], false, false, false⟩)).qOpens 0 := by decide

/-- R237: a pop takes the oldest word; R217: a core sees EOP with the last. -/
theorem test_pop : (after (.queuePop .pf 0 0) (queued [⟨0, 1, [5, 6], true, true, false⟩])).rsp.data = 5 ∧
    (after (.jqdataPop 0 0) (queued [⟨0, 1, [6], true, true, true⟩])).rd A.jqstat 0 = 4 := by decide

/-- O30: a closed packet that is not readable, in a queue of single words and in another; setup in each case. -/
theorem test_packet_ready : (∃ x ∈ (queued [⟨0, 1, [5], true, false, false⟩]).packets, x.queue = 0 ∧ x.closed = true ∧
      x.readable = false) ∧ (queued []).rf (Q 0) QUEUE_CTRL_EV_EN = 0 ∧
    (flds [(Q 0, QUEUE_CTRL_EV_EN, 1)] (queued [])).rf (Q 0) QUEUE_CTRL_EV_EN = 1 ∧ State.reset.qClass 0 = 0 ∧
    (flds [(Q 0, QUEUE_LEVEL_LEVEL, 1)] State.reset).rf (Q 0) QUEUE_LEVEL_LEVEL = 1 ∧ State.reset.qDepth 0 = 0 ∧
    1023 < (flds [(Q 0, QUEUE_CFG_BASE, 1023), (Q 0, QUEUE_CFG_SIZE, 1)] State.reset).rf (Q 0) QUEUE_CFG_BASE +
      (flds [(Q 0, QUEUE_CFG_BASE, 1023), (Q 0, QUEUE_CFG_SIZE, 1)] State.reset).rf (Q 0) QUEUE_CFG_SIZE ∧
    State.reset.mayCtrl .pf 0 = true ∧ State.reset.mayCtrl (.vf 0) 0 = false ∧ State.reset.pfRights (.vf 0) = false ∧
    (queued [⟨0, 1, [5], true, true, true⟩]).packets.any (fun p => p.queue = 0 ∧ p.popped) = true := by decide

/-! ### Recorder, trigger, links, enumeration -/

/-- An IDLE slot with wall 0 and a complete recorded snapshot of 4 words of geometry. -/
def recorded (depth : Nat) : State :=
  { (slotIn 1).wr A.wallOwner 0 1 with
    recLog := [⟨0, 0, 2, 0, 0, 4, 0, 0, [0, depth, 1, 0, 0], 56, true, false⟩, ⟨0, 56, 4, 0, 1, 4, 0, 0, [0, 0], 32, true, false⟩] }

/-- O31: each case of the commands of REC_CTRL. -/
theorem test_rec_ready : (slotIn 1).rf (P 0) REC_REGION_VALID ≠ 1 ∧
    (flds [(P 0, REC_REGION_VALID, 1)] (slotIn 1)).rf (P 0) REC_REGION_VALID = 1 ∧ (slotIn 1).replaying 0 = false ∧
    (flds [(P 0, REC_REPLAY_REPLAY, 1)] (slotIn 1)).replaying 0 = true ∧ (slotIn 1).rf (P 0) REC_CTRL_STATE < 2 ∧
    2 ≤ (flds [(P 0, REC_CTRL_STATE, 2)] (slotIn 1)).rf (P 0) REC_CTRL_STATE ∧ (slotIn 1).pfRights (.vf 0) = false ∧
    (slotIn 1).completeSnap 0 0 = none ∧ ((recorded 8).completeSnap 0 0).map (·.cyc) = some 4 ∧
    (((recorded 8).completeSnap 0 0).map ((recorded 8).geometryBad 0 0)) = some false ∧
    (((recorded 9).completeSnap 0 0).map ((recorded 9).geometryBad 0 0)) = some true := by decide

theorem test_region_foreign : (slotIn 1).ownsRegion 1 0 1 = false :=
  List.all_eq_false.mpr ⟨0, List.mem_range.mpr (by decide), by decide⟩

theorem get_found {d k v : Nat} : ∀ (m : List (Nat × Nat)), (∀ e ∈ m, e.1 = k → e.2 = v) → (∃ e ∈ m, e.1 = k) →
    Sparse.get d m k = v
  | [], _, h => by simp at h
  | (j, w) :: r, a, h => by
    by_cases hj : j = k
    · simpa [Sparse.get, hj] using a (j, w) (by simp) hj
    · have h2 : ∃ e ∈ r, e.1 = k := by
        obtain ⟨e, he, hk⟩ := h
        rcases List.mem_cons.mp he with rfl | he
        · exact absurd hk hj
        · exact ⟨e, he, hk⟩
      simpa [Sparse.get, hj] using get_found r (fun e he => a e (by simp [he])) h2

/-- An IDLE slot of partition 1, which owns the first GiB of HBM. -/
def owner1 : State :=
  { State.reset with arr := [(A.pState.key 0, 1), (A.pPid.key 0, 1)] ++ (List.range 512).map fun i => (A.own.key i, 0x101) }

theorem test_region_owned : owner1.ownsRegion 1 0 1 = true ∧ owner1.rd A.pState 0 = 1 ∧ owner1.rd A.pPid 0 = 1 ∧
    owner1.rf (P 0) REC_CTRL_STATE = 0 := by
  have own : ∀ i < 512, owner1.rd A.own i = 0x101 := fun i hi => by
    have : Sparse.get (dflt (A.own.key i)) owner1.arr (A.own.key i) = 0x101 := by
      refine get_found _ ?_ ⟨(A.own.key i, 0x101), ?_, rfl⟩
      · intro e he hk
        simp only [owner1, List.mem_append, List.mem_cons, List.not_mem_nil, or_false, List.mem_map] at he
        rcases he with (rfl | rfl) | ⟨j, -, rfl⟩
        · simp [Arr.key, A.pState, A.own] at hk
        · simp [Arr.key, A.pPid, A.own] at hk
        · rfl
      · exact List.mem_append_right _ (List.mem_map.mpr ⟨i, List.mem_range.mpr hi, rfl⟩)
    rw [State.rd, this]; rfl
  have regs : ∀ k : Nat, k % 512 = A.reg.code → Sparse.get (dflt k) owner1.arr k = dflt k := fun k hk => by
    refine get_absent _ _ fun e he => ?_
    simp only [owner1, List.mem_append, List.mem_cons, List.not_mem_nil, or_false, List.mem_map] at he
    rcases he with (rfl | rfl) | ⟨j, -, rfl⟩ <;> simp [Arr.key, A.pState, A.pPid, A.own, A.reg] at hk ⊢ <;> omega
  refine ⟨?_, ?_, ?_, ?_⟩
  · simp only [State.ownsRegion, List.all_eq_true, List.mem_range, decide_eq_true_eq]
    intro i hi
    rw [State.granuleOwner, show (0 * 2 ^ 30 + i * 2 ^ 21) / 0x200000 = i by omega, own i (by omega)]
    rfl
  · rfl
  · rfl
  · rw [State.rf, State.reg, State.rd, regs _ (by decide)]
    decide

/-- O32: an empty recording whose region has room, one that a packet would cross, and one that is full. -/
def recAt (head : Nat) (log : List RecPkt) : State := { flds [(P 0, REC_HEAD_LO_OFFSET, head)] (slotIn 2) with recLog := log }

def pkt (typ bytes cyc : Nat) (body : List Nat) (buffered : Bool) : RecPkt := ⟨0, 0, typ, 0, 0, cyc, 0, 0, body, bytes, buffered, false⟩

theorem test_packet_place_ready : (recAt 0 []).rf (P 0) REC_CFG_MODE ≠ 1 ∧ (recAt 0 []).rd A.recMute 0 = 0 ∧
    (recAt 0 []).rd A.recPktSeq 0 + 2 < 2 ^ 32 ∧ (recAt 0 []).kept 0 = [] ∧ (recAt 0 []).recHead 0 + 32 ≤ (recAt 0 []).regionBytes 0 ∧
    (recAt (2 ^ 30 - 8) []).regionBytes 0 < (recAt (2 ^ 30 - 8) []).recHead 0 + 32 ∧
    (recAt (2 ^ 30 - 8) []).recHead 0 ≤ (recAt (2 ^ 30 - 8) []).regionBytes 0 ∧
    (recAt 0 [pkt 5 (2 ^ 30) 0 [] false]).regionBytes 0 < (recAt 0 [pkt 5 (2 ^ 30) 0 [] false]).regionUsed 0 + 32 ∧
    (recAt 0 [pkt 5 (2 ^ 30) 0 [] false]).regionUsed 0 = 2 ^ 30 ∧
    (∀ p ∈ (recAt 0 [pkt 5 (2 ^ 30) 0 [] false]).recLog, p.slot = 0 → p.waiting = false) ∧
    (∀ p, ((recAt 0 [pkt 5 (2 ^ 30) 0 [] false]).kept 0).getLast? = some p → p.typ ≠ 0) := by
  refine ⟨by decide, by decide, by decide, by decide, by decide, by decide, by decide, by decide, by decide, by decide, ?_⟩
  intro p h
  have : (recAt 0 [pkt 5 (2 ^ 30) 0 [] false]).kept 0 = [pkt 5 (2 ^ 30) 0 [] false] := by decide
  rw [this] at h
  cases h
  decide

/-- O32: a buffered packet, a snapshot being copied, one that is complete, a row that a dump awaits before and after its
writes. -/
def snapping (copied : Bool) : State :=
  { recAt 0 [pkt 2 64 7 [] false] with snaps := [⟨0, 7, copied, [], [], 0, false⟩] }

def dumping (step : Nat) : State := st (runs ++ [(A.dumpDue, 3, 1), (A.pStep, 0, step)])

theorem test_engines_ready : ((recAt 0 [pkt 2 64 7 [] true]).recLog.find? fun p => p.die = 0 ∧ p.buffered) =
      some (pkt 2 64 7 [] true) ∧ (slotIn 2).snapOf 0 = none ∧ (snapping false).snapOf 0 = some ⟨0, 7, false, [], [], 0, false⟩ ∧
    (snapping true).snapOf 0 = none ∧
    ((snapping true).snaps.find? fun x => x.slot = 0 ∧ x.copied ∧ ¬ x.ended ∧ x.owed = []) = some ⟨0, 7, true, [], [], 0, false⟩ ∧
    pkt 2 64 7 [] false ∈ (snapping true).kept 0 ∧ (snapping true).regionUsed 0 + 32 ≤ (snapping true).regionBytes 0 ∧
    (dumping 4).slotOfWall 0 = some 0 ∧ (dumping 4).on A.dumpDue 3 = true ∧ 3 < (dumping 4).rd A.pStep 0 ∧
    (dumping 6).rd A.pStep 0 < 3 + 4 ∧ 3 + 4 ≤ (dumping 7).rd A.pStep 0 ∧ (dumping 3).rd A.pStep 0 ≤ 3 ∧
    (st runs).on A.dumpDue 3 = false := by decide

/-- O32: a replay that feeds a CYCLE mark, a line whose time has and has not come, its end, and a packet that is gone. -/
def fed (p : RecPkt) (seq last at_ : Nat) : State :=
  { flds [(P 0, REC_REPLAY_REPLAY, 1)] (st (runs ++ [(A.feedSeq, 0, seq), (A.recPktSeq, 0, last), (A.feedAt, 0, at_),
      (A.mapWall, 0, 1)])) with recLog := [p] }

theorem test_feed_ready : (fed (pkt 1 16 0 [] true) 1 5 0).feedNext 0 = some (pkt 1 16 0 [] true) ∧
    (fed (pkt 1 16 0 [] true) 1 5 0).feedable 0 (pkt 1 16 0 [] true) = true ∧
    (fed (pkt 0xA 32 0 [0, 9] true) 1 5 0).feedNext 0 = some (pkt 0xA 32 0 [0, 9] true) ∧
    (fed (pkt 0xA 32 0 [0, 9] true) 1 5 0).feedable 0 (pkt 0xA 32 0 [0, 9] true) = true ∧
    (fed (pkt 0xA 32 0 [0, 9] true) 1 5 0).wallFor 0 0 = some 0 ∧
    (fed (pkt 0xA 32 9 [0, 9] true) 1 5 0).feedable 0 (pkt 0xA 32 9 [0, 9] true) = false ∧
    (fed (pkt 1 16 0 [] true) 6 5 0).feedDone 0 = true ∧ (fed (pkt 1 16 0 [] true) 1 5 64).feedNext 0 = none ∧
    (fed (pkt 1 16 0 [] true) 1 5 64).srcSlot 0 = 0 ∧ (fed (pkt 1 16 0 [] true) 1 5 0).stoppable 0 = true := by decide

/-- R268: a fed line stands in the port store of the next emulated cycle. -/
theorem test_feed_line : (after (.feedPacket 0) (fed (pkt 0xA 32 0 [0, 9] true) 1 5 0)).rd A.port (portKey 0 1 0) = 9 := by decide

/-- O33: a unit of partition 1 that ARM takes, with and without captured words; each refusal. -/
def unit0 (l : List (Nat × Fld × Nat)) : State :=
  flds ([(TU 0, TRIG_CFG_OWNED, 1), (TU 0, TRIG_CFG_OWNER, 1), (TU 0, TRIG_CAP_CFG_SIZE_M1, 1)] ++ l) (st runs)

theorem test_arm_ready : (unit0 []).ServingDom .pf 0 domFab ∧ (unit0 []).armCheck 0 = 0 ∧
    (unit0 [(TU 0, TRIG_CTRL_STATE, 1)]).armCheck 0 = 5 ∧ (st runs).armCheck 0 = 4 ∧ (st runs).unitOwner 0 = none ∧
    (unit0 [(TU 0, TRIG_SEQ_COND, 9)]).armCheck 0 = 6 ∧
    (unit0 [(wordBase 0, PROBE_WORD_CFG_OWNED, 1), (wordBase 0, PROBE_WORD_CFG_OWNER, 1), (TU 0, TRIG_CAP_MASK_VALUE, 1),
      (TU 0, TRIG_PRE_VALUE, 256), (TU 0, TRIG_POST_VALUE, 255)]).armCheck 0 = 0 ∧
    (unit0 [(wordBase 0, PROBE_WORD_CFG_OWNED, 1), (wordBase 0, PROBE_WORD_CFG_OWNER, 1), (TU 0, TRIG_CAP_MASK_VALUE, 1),
      (TU 0, TRIG_PRE_VALUE, 256), (TU 0, TRIG_POST_VALUE, 256)]).armCheck 0 = 2 ∧
    (unit0 []).mayUnit (.vf 0) 0 = true ∧ (unit0 []).mayUnit (.vf 1) 0 = false ∧ (unit0 []).recording 0 = false ∧
    ((unit0 []).unitOwner 0).bind (unit0 []).slotOfPid = some 0 ∧
    (unit0 [(TU 0, TRIG_CTRL_STATE, 2)]).rf (TU 0) TRIG_CTRL_STATE = 2 :=
  ⟨servingDom_of (by decide) (by decide), by decide, by decide, by decide, by decide, by decide, by decide,
    by decide, by decide, by decide, by decide, by decide, by decide⟩

/-- R282: ARM with PRE = 0 is ARMED at once. -/
theorem test_arm : (after (.trigArm (.vf 0) 0 0) (unit0 [])).rf (TU 0) TRIG_CTRL_STATE = 2 := by decide

/-- O34: an input with its pin; the probe map's cases; an ARMED unit whose condition holds, at its COUNT and below it. -/
def inputPin : State := flds [(0, PERIPH_EN_TRIGIN, 1), (D 0, GP_BANK_VDDIO_OK, 1)] (st [(A.route, 0, 2 ^ 15 + 0x2C)])

theorem test_input_ready : inputPin.sigHeard 0x2C = true ∧ State.reset.sigHeard 0x2C = false := by decide

theorem test_probe_ready : (unit0 []).wordFree 0 0 = true ∧
    (unit0 [(TU 0, TRIG_CTRL_STATE, 1), (TU 0, TRIG_CAP_MASK_VALUE, 1)]).wordFree 0 0 = false ∧
    (flds [(wordBase 0, PROBE_WORD_CFG_OWNED, 1), (wordBase 0, PROBE_WORD_CFG_OWNER, 1)] (st runs)).wordOwner 0 = some 1 ∧
    (st runs).wallOf 0 1 = true ∧ (st runs).wallOf 1 1 = false ∧ (st runs).isOwner (.vf 0) (some 1) = true ∧
    (st runs).isOwner (.vf 0) none = false := by decide

def armed (count fire : Nat) : State :=
  unit0 [(TU 0, TRIG_CTRL_STATE, 2), (TU 0, TRIG_SEQ_COND, 8), (TU 0, TRIG_SEQ_COUNT, count), (TU 0, TRIG_SEQ_FIRE, fire)]

theorem test_sample_ready : (armed 1 1).rf (TU 0) TRIG_CTRL_STATE = 2 ∧ (armed 1 1).trigFrom 0 ≤ 0 ∧ (armed 1 1).on A.tgForce 0 = false ∧
    (armed 1 1).capWords 0 = [] ∧ condTrue ((armed 1 1).rf (TU 0) TRIG_SEQ_COND) true true false = true ∧
    (armed 1 1).rf (TU 0) TRIG_SEQ_COUNT ≤ (armed 1 1).rd A.tgCount 0 + 1 ∧ (armed 1 1).rf (TU 0) TRIG_SEQ_FIRE = 1 ∧
    (armed 1 1).rf (TU 0) TRIG_CFG_STOP = 0 ∧ (armed 1 0).rf (TU 0) TRIG_SEQ_FIRE = 0 ∧
    (armed 2 1).rd A.tgCount 0 + 1 < (armed 2 1).rf (TU 0) TRIG_SEQ_COUNT ∧
    condTrue ((unit0 [(TU 0, TRIG_CTRL_STATE, 2)]).rf (TU 0) TRIG_SEQ_COND) true true true = false := by decide

/-- O35: codewords, the zero word among them, and one that is none. -/
theorem test_codeword : rsAt 0 0 = 0 ∧ rsAt 0 1 = 0 ∧ rsAt 1 0 ≠ 0 := by decide +kernel

/-- R296: one wrong symbol is corrected. -/
theorem test_symbol_corrected : rsDecode (5 * 2 ^ 20) = some (0, true) := by decide +kernel

/-- O36: port 0 with two lanes, up, with lane 0 in state `x`. -/
def port0 (x : Nat) (l : List (Nat × Fld × Nat)) (t : Nat) : State :=
  (flds ([(PT 0, PORT_STATUS_UP, 1), (PT 0, PORT_CFG_LANE_EN, 3), (LN 0 0, LANE_STATUS_STATE, x), (LN 0 1, LANE_STATUS_STATE, x)] ++ l)
    State.reset).wr A.reg oMONO_NS_LO t

theorem test_skink_port_ready : (port0 2 [] 0).portUp 0 = true ∧ State.reset.portUp 0 = false ∧ (port0 2 [] 0).rf (PT 0) PORT_STATUS_PSTATE = 0 ∧
    (port0 2 [(PT 0, PORT_STATUS_PSTATE, 1)] 0).rf (PT 0) PORT_STATUS_PSTATE = 1 ∧
    (port0 2 [] 8000).rd A.ptSeen 0 + 8000 ≤ (port0 2 [] 8000).mono ∧ (port0 2 [] 7999).mono < (port0 2 [] 7999).rd A.ptSeen 0 + 8000 ∧
    (port0 2 [(LN 0 0, LANE_STATUS_BLK_LOCK, 1)] 0).rf (LN 0 0) LANE_STATUS_BLK_LOCK = 1 ∧ (port0 2 [] 0).rf (PT 0) PORT_STATUS_RATE < 3 ∧
    3 ≤ (port0 2 [(PT 0, PORT_STATUS_RATE, 3)] 0).rf (PT 0) PORT_STATUS_RATE ∧ (port0 2 [] 0).lanes 0 = [0, 1] ∧
    ((port0 1 [] 400000).wr A.lnRelock 0 1).on A.lnRelock 0 = true ∧ (port0 1 [] 400000).rd A.lnSince 0 + 400000 ≤ (port0 1 [] 400000).mono ∧
    8 < (((port0 2 [] 0).wr A.ptNakBlk 0 8).wr A.ptNakCnt 0 8).rd A.ptNakCnt 0 + 1 := by decide

theorem test_training_ready : (port0 1 [] 0).ServingDom .pf 0 domLink ∧ (port0 1 [] 0).rf (LN 0 0) LANE_STATUS_STATE = 1 ∧
    (port0 1 [(LN 0 0, LANE_STATUS_HDR_LOCK, 1)] 0).rf (LN 0 0) LANE_STATUS_HDR_LOCK = 1 ∧ (port0 1 [] 0).on A.lnRelock 0 = false ∧
    (port0 1 [(LN 0 0, LANE_STATUS_CAPS_VALID, 1)] 0).rf (LN 0 0) LANE_STATUS_CAPS_VALID = 1 ∧
    (port0 1 [(LN 0 0, LANE_STATUS_BLK_LOCK, 1)] 0).rateFits 0 0 = true ∧ (port0 1 [] 0).symOut.any (capsWaits 0 0) = false ∧
    (port0 1 [] 10000000).rd A.lnSince 0 + 10000000 ≤ (port0 1 [] 10000000).mono ∧
    (port0 1 [] 9999999).mono < (port0 1 [] 9999999).rd A.lnSince 0 + 10000000 ∧ (port0 1 [] 0).rf (LN 0 0) LANE_STATUS_RATE = 0 ∧
    (port0 1 [(LN 0 0, LANE_STATUS_RATE, 2)] 0).rf (LN 0 0) LANE_STATUS_RATE ≠ 0 ∧ (port0 5 [] 0).rf (LN 0 0) LANE_STATUS_STATE = 5 ∧
    (flds [(0, LINK_POLL_PRESENCE_POLL_MS, 1)] (port0 5 [] 1000000)).rd A.lnSince 0 + 1000000 *
      (flds [(0, LINK_POLL_PRESENCE_POLL_MS, 1)] (port0 5 [] 1000000)).rf 0 LINK_POLL_PRESENCE_POLL_MS ≤
      (flds [(0, LINK_POLL_PRESENCE_POLL_MS, 1)] (port0 5 [] 1000000)).mono :=
  ⟨servingDom_of (by decide) (by decide), by decide⟩

/-- R317: a training step that fails at rate 0 leaves the lane ABSENT. -/
theorem test_training_timeout : (after (.trainingTimeout 0 0) (port0 1 [] 10000000)).laneSt 0 0 = 5 := by decide +kernel

/-- O37: rates that the peer takes or refuses; answers that are awaited; power states; blocks. -/
theorem test_rate_ready : (∀ k < 32, (port0 3 [] 0).stoppable k = false) ∧
    (flds [(P 0, PLUMB_CFG_MODE, 2), (PT 0, PORT_STATUS_UP, 1)] inTree).portNeeded 0 = true ∧ ((port0 2 [] 0).wr A.ptReq 0 3).rd A.ptReq 0 = 1 + 2 ∧ ((port0 2 [] 0).wr A.ptSwitch 0 3).rd A.ptSwitch 0 ≠ 0 ∧
    (port0 2 [(PT 0, PORT_CFG_MAX_RATE, 4)] 0).rf (PT 0) PORT_CFG_MAX_RATE = 4 ∧
    (∀ l ∈ (port0 2 [] 0).lanes 0, (port0 2 [] 0).laneSt 0 l = 2) ∧ (port0 2 [] 0).portNeeded 0 = false ∧
    8 ≤ ((port0 2 [] 0).wr A.ptPs 0 9).rd A.ptPs 0 ∧
    (∀ l ∈ (port0 3 [(PT 0, PORT_STATUS_PSTATE, 1)] 0).lanes 0, (port0 3 [(PT 0, PORT_STATUS_PSTATE, 1)] 0).laneSt 0 l = 3) ∧
    (∀ l ∈ (port0 4 [(PT 0, PORT_STATUS_PSTATE, 2)] 0).lanes 0, (port0 4 [(PT 0, PORT_STATUS_PSTATE, 2)] 0).laneSt 0 l = 4) := by
  refine ⟨?_, ?_, ?_, ?_, ?_, ?_, ?_, ?_, ?_, ?_⟩
  all_goals decide

/-- A MARKER of superframe 0x1234 with its CRC, the same with a wrong one, a filler. -/
def markerBlock : Nat := 2 ^ 256 + 2 ^ 248 + 2 ^ 232 * 0x1234

theorem test_block_crc : blockCrc (markerBlock + blockCrc markerBlock) = slice (markerBlock + blockCrc markerBlock) 0 32 ∧
    blockCrc markerBlock ≠ slice markerBlock 0 32 := by decide +kernel

theorem test_block_ready : serviceSlot 0 0 = true ∨ serviceSlot 0 1 = true ∨ serviceSlot 0 24 = true := by decide
theorem test_block_slots : serviceSlot 0 1 = false ∨ serviceSlot 0 2 = false ∨ serviceSlot 0 3 = false := by decide

/-- O38: a keystone in each state, and a device below it. -/
def chain (key k : Nat) (l : List (Nat × Fld × Nat)) : State :=
  flds ([(0, CHAIN_STATUS_KEYSTONE, key), (0, ENUM_STATUS_KSTATE, k), (PT 0, PORT_STATUS_UP, 1), (PT 1, PORT_STATUS_UP, 1)] ++ l)
    State.reset

theorem test_search_ready : (chain 1 0 []).Serving .pf ∧ (chain 1 0 []).rf 0 CHAIN_STATUS_KEYSTONE = 1 ∧
    (chain 0 0 []).rf 0 CHAIN_STATUS_KEYSTONE ≠ 1 ∧ (chain 1 5 []).rf 0 ENUM_STATUS_KSTATE = 5 ∧ (chain 1 0 []).anyStepping = false ∧
    (st runs).anyStepping = true ∧ (chain 1 0 []).portUp 1 = true ∧ State.reset.portUp 1 = false ∧ (chain 0 0 []).portUp 0 = true ∧
    (chain 1 1 []).rf 0 BOOT_STATUS_STAGE ≠ 5 ∧ (chain 1 1 []).rd A.enAt 0 + 1000000 * (chain 1 1 []).rf 0 ENUM_CTRL_TIMEOUT_MS ≤
      (((chain 1 1 []).wr A.reg oMONO_NS_LO (2 ^ 32 - 1)).wr A.reg oMONO_NS_HI 1).mono ∧
    ((chain 0 0 []).wr A.enProv 0 (2 ^ 20 + 2 ^ 12 * 7 + 3)).rd A.enProv 0 = 2 ^ 20 + 2 ^ 12 * 7 + 3 ∧
    ((chain 0 0 []).wr A.enTail 0 1).on A.enTail 0 = true ∧ (chain 1 1 [(0, ENUM_STATUS_RESTARTS, 3)]).rf 0 ENUM_STATUS_RESTARTS = 3 :=
  ⟨serving_of (by decide), by decide⟩

/-- R325: a device takes number 5 and passes the search on with 6. -/
theorem test_search : (after (.search 3 5) (chain 0 0 [])).symOut.map (·.sym) = [.search 3 6] := by decide

/-- O39: the window open and closed, at 50 us and below; the tree phase and the bus token. -/
theorem test_tree_window_ready : ((chain 0 0 []).wr A.trOpen 0 1).on A.trOpen 0 = true ∧ (chain 0 0 []).on A.trOpen 0 = false ∧
    ((chain 0 0 []).wr A.reg oMONO_NS_LO 50000).rd A.trAt 0 + 50000 ≤ ((chain 0 0 []).wr A.reg oMONO_NS_LO 50000).mono ∧
    ((chain 0 0 []).wr A.reg oMONO_NS_LO 49999).mono < (chain 0 0 []).rd A.trAt 0 + 50000 ∧ (chain 0 0 []).rd A.trClosed 0 ≠ 1 + 0 ∧
    (chain 1 3 []).rf 0 ENUM_STATUS_KSTATE = 3 ∧ (chain 1 4 []).rf 0 ENUM_STATUS_KSTATE = 4 ∧
    ((chain 0 0 []).wr A.busTok 0 2).rd A.busTok 0 ≠ 0 ∧ (chain 0 0 []).rd A.busTok 0 = 0 ∧
    ((chain 0 0 []).wr A.trBest 0 (2 ^ 16 * 3)).rd A.trBest 0 / 16 = 2 ^ 12 * 3 := by decide

/-- R329: the lower hop count wins. -/
theorem test_tree_better : (after (.tree 2 0 1 9) (((chain 0 0 []).wr A.trOpen 0 1).wr A.trBest 0 (2 ^ 16 * 3))).rd A.trBest 0 =
    2 + 2 ^ 4 * 9 + 2 ^ 16 := by decide

/-! ### Resets, boot, images, update, keys -/

/-- A state with some further entries of its arrays. -/
def ents (l : List (Arr × Nat × Nat)) (s : State) : State := l.foldl (fun s x => s.wr x.1 x.2.1 x.2.2) s

/-- The state after reset in boot stage `x`. -/
def atStage (x : Nat) (l : List (Nat × Fld × Nat)) : State := flds ((0, BOOT_STATUS_STAGE, x) :: l) State.reset

/-- O40: a canonical device that is BLANK, one that is SCRAP, one in OFF, one in a level change. -/
def lcFuses (l : List (Arr × Nat × Nat)) : State := st ((A.fuseLc, 4, 0xFF) :: l)

theorem test_reset_ready : (lcFuses []).Canon ∧ (lcFuses []).rd A.fuseLc 4 = 0xFF ∧
    (∀ g, 1 ≤ g → g ≤ 4 → State.reset.rd A.fuseLc g = 0) ∧
    (∀ g, 1 ≤ g → g ≤ 4 → (lcFuses []).rd A.fuseLc g = 0 ∨ (lcFuses []).rd A.fuseLc g = 0xFF) ∧
    (lcFuses []).powered = true ∧ (∀ k < 32, (lcFuses []).on A.epOpen k = false) ∧ (lcFuses []).closed = [] ∧
    (lcFuses [(A.pwMode, 0, 3)]).powered = false ∧ (lcFuses [(A.pwMode, 0, 3)]).Canon ∧ (lcFuses []).Serving .pf ∧
    (lcFuses []).pfRights (.vf 0) = false ∧ (lcFuses []).pfRights .pf = true ∧ (lcFuses []).rd A.plPhase 0 = 0 ∧
    (lcFuses [(A.plPhase, 0, 2)]).rd A.plPhase 0 ≠ 0 := by
  refine ⟨⟨by decide, by decide⟩, by decide, ?_, ?_, by decide, by decide, by decide, by decide, ⟨by decide, by decide⟩,
    serving_of (by decide), by decide, by decide, by decide, by decide⟩
  all_goals
    intro g h1 h2
    have : g = 1 ∨ g = 2 ∨ g = 3 ∨ g = 4 := by omega
    rcases this with rfl | rfl | rfl | rfl <;> decide

/-- R357: a SCRAP device is HALTED after a reset. -/
theorem test_scrap : (atStage 9 []).rf 0 BOOT_STATUS_STAGE = 9 := by decide

/-- A TYPE 2 container with one PARTITION section for address `t`, `len` bytes long, KEY_SLOT 0, ENC 0. -/
def hdrOf (t len : Byte) : List Byte :=
  [0x44, 0x45, 0x38, 0x43, 2, 0, 1, 0, 0, 2, 0, 0, 1, 0, 0, 0, 0, 0, 0, 0, 2, 0, 0, 0, len, 2, 0, 0, 0, 0, 0, 0] ++
  List.replicate 0xE0 0 ++
  [0x10, 0, t, 0, 0, 1, 0, 0, 0, 2, 0, 0, 0, 0, 0, 0, len, 0, 0, 0, 0, 0, 0, 0] ++ List.replicate 0xE8 0

/-- A device in LC 1 in the image stage. -/
def imaging : State := atStage 5 [(0, SEC_STATUS_LC, 1)]

/-- O41: a header that passes where its key and signature do, and one that fails. -/
theorem test_header_format : contFormatBad (hdrOf 0 88) 2 = false ∧ contFormatBad [0] 2 = true := by decide +kernel

theorem test_header_passes (hk : Config.sha384 (((hdrOf 0 88).drop 0x40).take 96) = 0) (hs : contSigned (hdrOf 0 88) = true) :
    imaging.checkContainer (hdrOf 0 88) 2 = 0 := by
  have hr : imaging.rd A.fuseRoot (contKeySlot (hdrOf 0 88)) = 0 := by decide +kernel
  have hv : (imaging.rd A.fuseRevoke 0).testBit (contKeySlot (hdrOf 0 88)) = false := by decide
  have hl : imaging.lc = 1 := by decide
  have hm : (leAt (hdrOf 0 88) 0x14 1).testBit 1 = true := by decide
  have hn : ¬ contSvn (hdrOf 0 88) < imaging.svn 2 := by decide
  simp only [State.checkContainer, test_header_format.1, hk, hr, hv, hs, hl, hm, hn, lcAllows]
  decide

theorem test_header_fails : imaging.checkContainer [0] 2 ≠ 0 := by decide

/-- O41: the stages; the keystone and another device; the stream on, ended, complete, incomplete, bad; DONE. -/
def streaming (want got bad : Nat) (l : List (Arr × Nat × Nat)) : State :=
  ents ([(A.strmOn, 0, 1), (A.strmWant, 0, want), (A.strmGot, 0, got), (A.strmBad, 0, bad)] ++ l) imaging

theorem test_image_stage_ready : (atStage 2 []).rf 0 BOOT_STATUS_STAGE < 3 ∧ (atStage 3 []).rf 0 BOOT_STATUS_STAGE = 3 ∧
    imaging.rf 0 BOOT_STATUS_STAGE = 5 ∧ 5 < (atStage 6 []).rf 0 BOOT_STATUS_STAGE ∧ imaging.clocked = true ∧
    imaging.isKeystone = false ∧ (atStage 5 [(0, CHAIN_STATUS_KEYSTONE, 1)]).isKeystone = true ∧
    (atStage 5 [(0, CHAIN_STATUS_KEYSTONE, 1)]).on A.nvmeThere 0 = false ∧ imaging.rf 0 BOOT_STATUS_RESULT = 0 ∧
    imaging.on A.strmOn 0 = false ∧ (streaming 1 1 0 []).on A.strmOn 0 = true ∧ (streaming 1 1 0 []).on A.strmEnd 0 = false ∧
    (streaming 1 1 0 [(A.strmEnd, 0, 1)]).on A.strmEnd 0 = true ∧
    (streaming 1 1 0 []).rd A.strmGot 0 = (streaming 1 1 0 []).rd A.strmWant 0 ∧ (streaming 1 1 0 []).on A.strmBad 0 = false ∧
    (streaming 1 0 0 []).rd A.strmGot 0 ≠ (streaming 1 0 0 []).rd A.strmWant 0 ∧ (streaming 1 1 1 []).on A.strmBad 0 = true := by
  decide

theorem test_done_ready : imaging.rf 0 BOOT_STATUS_CONFIGURED = 0 ∧
    (atStage 6 [(0, BOOT_STATUS_CONFIGURED, 1)]).rf 0 BOOT_STATUS_CONFIGURED = 1 ∧
    (∀ k < 32, (atStage 6 [(0, BOOT_STATUS_CONFIGURED, 1)]).on A.autoStart k = false) ∧
    (atStage 7 []).rf 0 BOOT_STATUS_STAGE = 7 := by decide

/-- R348: with its one section loaded the device is CONFIGURED at the end mark; with none it is not. -/
theorem test_end_mark : (after .endMark (streaming 1 1 0 [])).rf 0 BOOT_STATUS_CONFIGURED = 1 ∧
    (after .endMark (streaming 1 0 0 [])).rf 0 BOOT_STATUS_CONFIGURED = 0 := by decide

/-- O41: LOAD_CTRL with an empty container in HBM before and after the firmware stage, RECOVERY_CTRL in and out of
RECOVERY. -/
theorem test_load_ready : imaging.Serving .pf ∧ imaging.pfRights (.vf 0) = false ∧ imaging.pfRights .pf = true ∧
    imaging.firmwareDone = true ∧ (atStage 2 []).firmwareDone = false ∧ (atStage 8 []).rf 0 BOOT_STATUS_STAGE = 8 ∧
    imaging.baseContainer.2.1 = false ∧ imaging.baseContainer.2.2.checkContainer imaging.baseContainer.1 2 = 2 ∧ (atStage 8 []).checkBoot (atStage 8 []).staged = 2 :=
  ⟨serving_of (by decide), by decide +kernel⟩

/-- A container in HBM at LOAD_BASE. -/
def inHbm (b : List Byte) : State := { imaging with mem := (b.zipIdx.filter (·.1 ≠ 0)).map fun x => (x.2, x.1) }

theorem test_base_container : (inHbm (hdrOf 1 0)).baseContainer.1 = hdrOf 1 0 ∧ (inHbm (hdrOf 1 0)).baseContainer.2.1 = false ∧
    (∀ x ∈ contSectionList (hdrOf 1 0), x.target ≠ imaging.chainAddr) := by decide +kernel

/-- A TYPE 1 container with one FIRMWARE section of `len` bytes, in the staging area of a BLANK device in RECOVERY. -/
def fwBytes : List Byte := [0x44, 0x45, 0x38, 0x43, 1, 0, 1, 0, 0, 2, 0, 0, 1, 0, 0, 0, 0, 0, 0, 0, 1, 0, 0, 0, 1, 2, 0, 0, 0, 0, 0, 0] ++
  List.replicate 0xE0 0 ++
  [1, 0, 0, 0, 0, 0, 0, 0, 0, 2, 0, 0, 0, 0, 0, 0, 1, 0, 0, 0, 0, 0, 0, 0] ++ List.replicate 0xE8 0 ++ [0x13]

def recovering : State := ents (((fwBytes.zipIdx.filter (·.1 ≠ 0))).map fun x => (A.stageByte, x.2, x.1.toNat)) (atStage 8 [])

theorem test_staged : recovering.staged = fwBytes ∧ contFormatBad fwBytes 1 = false ∧ recovering.lc = 0 ∧
    contSectionList fwBytes = [⟨1, 0, 0, false, 0, 0, 0, 0, beAt fwBytes 0x100 0x28, [0x13]⟩] ∧
    (recovering.rd A.fuseRevoke 0).testBit (contKeySlot fwBytes) = false ∧ (leAt fwBytes 0x14 1).testBit 0 = true ∧
    contEnc fwBytes = 0 ∧ ¬ contSvn fwBytes < recovering.svn 1 ∧ recovering.rf 0 BOOT_STATUS_STAGE = 8 ∧
    recovering.pfRights .pf = true := by decide +kernel

theorem test_recovery_serving : recovering.Serving .pf := serving_of (by decide +kernel)

theorem test_boot_passes (hs : contSigned fwBytes = true) (hh : Config.sha384 [0x13] = 0) :
    recovering.checkBoot recovering.staged = 0 ∧
      ((contSectionList recovering.staged).filter (·.kind = 1)).flatMap (fun x => (recovering.openSection x false).2) = [0x13] := by
  obtain ⟨st, ft, lc, sl, rv, lm, en, sv, -, -⟩ := test_staged
  have c : recovering.checkContainer fwBytes 1 = 0 := by
    simp only [State.checkContainer, ft, lc, rv, hs, lm, en, sv, lcAllows]; decide
  have hh2 : Config.sha384 [19#8] = 0 := hh
  rw [st, sl]
  simp [State.checkBoot, c, sl, State.openSection, hh2, bootOk]

/-! #### A PARTITION section -/

/-- An image of depth 64 for wall 0 of the device at address 0, one step in its edge sequence, MIN_PL 0. -/
def imageBytes : List Byte := [0x44, 0x45, 0x38, 0x49, 1, 0, 0x40, 0, 0, 0, 64, 0, 1, 0, 0, 0, 1, 0, 0, 0, 0, 0, 0, 0] ++
  List.replicate 16 0 ++ [0x40, 0, 0, 0] ++ List.replicate 20 0 ++
  [0, 0, 0, 0, 0, 0, 0, 0, 1, 0, 0, 0, 0, 0, 0, 0, 0, 0, 0, 0, 0, 0, 0, 0]

/-- The section that carries it as partition 1, with the hash that its header gives it. -/
def section0 (b : List Byte) : Section :=
  ⟨0x10, 0, 0x100, false, 0, 0, 0, 0, beAt (hdrOf 0 88) 0x100 0x28, b⟩

/-- The stream of its header, for the device at `t`. -/
def streamed (t : Byte) : State := { streaming 1 0 0 [] with strmHdr := hdrOf t 88 }

theorem test_section_ready : (streamed 0).clocked = true ∧ (streamed 0).stage = 5 ∧ (streamed 0).nextEntry = some 0 ∧
    (streamed 0).isNext (section0 imageBytes) 0 = true ∧ (streamed 0).isNext (section0 []) 0 = false ∧
    (section0 imageBytes).target = (streamed 0).chainAddr ∧ (streamed 1).nextEntry = some 0 ∧
    (streamed 1).isNext (sectionAt (hdrOf 1 88 ++ imageBytes) 0) 0 = true ∧
    (streamed 1).chainAddr < (sectionAt (hdrOf 1 88 ++ imageBytes) 0).target := by decide +kernel

/-- The state that opens it. -/
def opening : State := (streamed 0).wr A.strmNext 0 1

theorem test_section_opens (h : Config.sha384 imageBytes = 0) : opening.openSection (section0 imageBytes) true = (0, imageBytes) := by
  have p : (opening.rd A.keyPolicy 0).testBit 2 = false := by decide +kernel
  have e : (section0 imageBytes).body = imageBytes ∧ (section0 imageBytes).enc = false ∧ (section0 imageBytes).hash = 0 :=
    ⟨rfl, rfl, rfl⟩
  simp [State.openSection, p, e.1, e.2.1, e.2.2, h, bootOk]

theorem test_section_fails (h : Config.sha384 imageBytes ≠ 0) : opening.openSection (section0 imageBytes) true = (7, []) := by
  have p : (opening.rd A.keyPolicy 0).testBit 2 = false := by decide +kernel
  have e : (section0 imageBytes).body = imageBytes ∧ (section0 imageBytes).enc = false ∧ (section0 imageBytes).hash = 0 :=
    ⟨rfl, rfl, rfl⟩
  simp [State.openSection, p, e.1, e.2.1, e.2.2, h, bootHash]

/-- The load accepts it in slot 0, and refuses one byte. -/
theorem test_image_accepted : firstIx 32 (fun k => ¬ opening.loaded k) = some 0 ∧ opening.loadCheck imageBytes 1 (some 0) = 0 ∧
    opening.loadCheck [0] 1 (some 0) = 1 := by decide +kernel

/-- O42: the update commands with and without rights, the lock, a drive; the active slot and the other; a record on trial. -/
def onTrial : State := st [(A.bootRec, 0, BootRec.pack ⟨0, 1, [0, 0], [0, 0], [3, 3]⟩)]

theorem test_update_ready : State.reset.pfRights (.vf 0) = false ∧ State.reset.pfRights .pf = true ∧
    (flds [(0, SEC_LOCK_UPDATE_LOCK, 1)] State.reset).rf 0 SEC_LOCK_UPDATE_LOCK = 1 ∧ State.reset.on A.nvmeThere 0 = false ∧
    (st [(A.nvmeThere, 0, 1)]).on A.nvmeThere 0 = true ∧ State.reset.recordInForce.active.getD 0 0 = bit false ∧
    State.reset.recordInForce.active.getD 0 0 ≠ bit true ∧ State.reset.recordInForce.conf.getD 0 0 ≠ 0 ∧
    onTrial.recordInForce.conf.getD 0 0 = 0 ∧ onTrial.recordInForce.active.getD 0 0 ≠ bit true ∧
    State.reset.baseContainer.1.length ≤ State.reset.slotSize false ∧
    ((inHbm (hdrOf 1 0)).wr A.nvmeThere 0 1).slotSize true < ((inHbm (hdrOf 1 0)).wr A.nvmeThere 0 1).baseContainer.1.length ∧
    State.reset.on A.slotVerified 1 = false ∧ (st [(A.slotVerified, 1, 1)]).on A.slotVerified 1 = true ∧
    State.reset.checkBoot (State.reset.slotContainer 1) ≠ 0 := by decide +kernel

theorem test_update_serving : State.reset.Serving .pf ∧ onTrial.Serving .pf :=
  ⟨serving_of (by decide), serving_of (by decide +kernel)⟩

/-- R353: WRITE of the active slot is refused; ACTIVATE of a verified slot is not. -/
theorem test_update : (after (.updateWrite .pf false false) State.reset).rf 0 UPDATE_CTRL_RESULT = 3 ∧
    (after (.activate .pf false true) (st [(A.slotVerified, 1, 1)])).rf 0 UPDATE_CTRL_RESULT = 0 := by decide +kernel

/-- O43: the life cycle's grounds, LOAD's, a tamper source that is enabled, with the device powered, in OFF, with VBAT. -/
theorem test_life_cycle_ready : (flds [(0, SEC_LOCK_LC_LOCK, 1)] State.reset).rf 0 SEC_LOCK_LC_LOCK = 1 ∧
    State.reset.rf 0 SEC_LOCK_LC_LOCK = 0 ∧ State.reset.lc = 0 ∧ State.reset.allIdle = true ∧ (st runs).allIdle = false ∧
    (st [(A.keyRamOk, 0, 1)]).on A.keyRamOk 0 = true ∧ State.reset.on A.keyRamOk 0 = false ∧ State.reset.mayLoadKey = true ∧
    (flds [(0, SEC_STATUS_LC, 3)] State.reset).mayLoadKey = false ∧ (State.reset.rf 0 TAMPER_CFG_EN).testBit 1 = false ∧
    ((flds [(0, TAMPER_CFG_EN, 2)] State.reset).rf 0 TAMPER_CFG_EN).testBit 1 = true ∧ State.reset.powered = true ∧
    State.reset.rd A.pwMode 0 ≠ 2 ∧
    (flds [(0, TAMPER_CFG_EN, 15)] (st [(A.pwMode, 0, 3), (A.vbat, 0, 1)])).powered = false ∧
    ((flds [(0, TAMPER_CFG_EN, 15)] (st [(A.pwMode, 0, 3), (A.vbat, 0, 1)])).rf 0 TAMPER_CFG_EN).testBit 2 = true ∧
    (flds [(0, TAMPER_CFG_EN, 15)] (st [(A.pwMode, 0, 3), (A.vbat, 0, 1)])).on A.vbat 0 = true ∧
    (flds [(0, TAMPER_CFG_EN, 15)] (st [(A.pwMode, 0, 3), (A.vbat, 0, 0)])).on A.vbat 0 = false := by decide

/-- R356: a transition to target 3 from state 0 blows the fuses up to it; to 0 it is refused. -/
theorem test_life_cycle : (after (.lcTransition .boot 3) State.reset).rd A.fuseLc 3 = 0xFF ∧
    (after (.lcTransition .boot 3) State.reset).rd A.fuseLc 4 = 0 ∧ (after (.lcTransition .boot 0) State.reset).rf 0 LC_CTRL_RESULT = 2 := by
  decide +kernel

/-- R359: a tamper event wipes an instruction memory. -/
theorem test_tamper : (after (.tamperDetect 1) (flds [(0, TAMPER_CFG_EN, 2)] (st [(A.imem, 7, 5)]))).rd A.imem 7 = 0 := by
  decide +kernel

/-- O42: the same container in boot slot 1 passes VERIFY. -/
def slotted : State := ents (((fwBytes.zipIdx.filter (·.1 ≠ 0))).map fun x => (A.slotByte, 2 ^ 40 + x.2, x.1.toNat)) State.reset

theorem test_slotted : slotted.slotContainer 1 = fwBytes ∧ slotted.lc = 0 ∧ (slotted.rd A.fuseRevoke 0).testBit (contKeySlot fwBytes) = false ∧
    ¬ contSvn fwBytes < slotted.svn 1 := by decide +kernel

theorem test_verify_passes (hs : contSigned fwBytes = true) (hh : Config.sha384 [0x13] = 0) :
    slotted.checkBoot (slotted.slotContainer 1) = 0 := by
  obtain ⟨-, ft, -, sl, -, lm, en, -⟩ := test_staged
  obtain ⟨sc, lc, rv, sv⟩ := test_slotted
  have c : slotted.checkContainer fwBytes 1 = 0 := by
    simp only [State.checkContainer, ft, lc, rv, hs, lm, en, sv, lcAllows]; decide
  have hh2 : Config.sha384 [19#8] = 0 := hh
  rw [sc]
  simp [State.checkBoot, c, sl, State.openSection, hh2, bootOk]
/-! ### Time, launches, metering, clocks -/

/-- A state at TIME_NS `t` and MONO_NS `m`. -/
def clk (t m : Nat) (s : State) : State := (s.setPair oTIME_NS_LO t).setPair oMONO_NS_LO m

/-- O44: an open epoch whose S lies above and below the time that TIME_SET loads. -/
theorem test_time_set_ready : ((clk 100 0 (st [(A.epOpen, 3, 1), (A.epS, 3, 60)]))).on A.epOpen 3 = true ∧
    (clk 100 0 (st [(A.epOpen, 3, 1), (A.epS, 3, 60)])).on A.epReg 3 = false ∧
    (clk 100 0 (st [(A.epOpen, 3, 1), (A.epS, 3, 60)])).timeNs = 100 ∧
    (clk 100 0 (st [(A.epOpen, 3, 1), (A.epS, 3, 60)])).rd A.epS 3 = 60 ∧
    (clk 100 0 (st [(A.heldLo, oTIME_SET_LO, 2 ^ 32 + 59)])).rd A.heldLo oTIME_SET_LO = 2 ^ 32 + 59 ∧
    slice (9#32).toNat 0 4 = 9 ∧ slice (8#32).toNat 0 4 ≠ 9 ∧ slice (8#32).toNat 0 4 ≠ 10 := by decide

/-- R382: the first step below S is kept, one to S is not. -/
theorem test_regression :
    (after (.timeSet .pf 0) (clk 100 0 (st [(A.epOpen, 3, 1), (A.epS, 3, 60), (A.heldLo, oTIME_SET_LO, 2 ^ 32 + 59)]))).on A.epReg 3 = true ∧
    (after (.timeSet .pf 0) (clk 100 0 (st [(A.epOpen, 3, 1), (A.epS, 3, 60), (A.heldLo, oTIME_SET_LO, 2 ^ 32 + 60)]))).on A.epReg 3 = false := by
  decide +kernel

/-- O44: PPS off, on, from the alternate signal with and without its pin; the first edge, one `e` ns after an edge. -/
def ppsOn (src seen e : Nat) : State :=
  flds [(0, TIME_CTRL_PPS_EN, 1), (0, TIME_CTRL_PPS_SRC, src)] (clk 0 e (st [(A.ppsSeen, 0, seen)]))

/-- Signal 0x3C on pin 0 of bank 0, which has its rail. -/
def altPps : State := flds [(0, PERIPH_EN_PPS_ALT, 1), (D 0, GP_BANK_VDDIO_OK, 1)] ((ppsOn 1 0 0).wr A.route 0 (2 ^ 15 + 0x3C))

theorem test_pps_source_ready : State.reset.powered = true ∧ State.reset.rf 0 TIME_CTRL_PPS_EN = 0 ∧ (ppsOn 0 0 0).rf 0 TIME_CTRL_PPS_EN = 1 ∧
    (ppsOn 0 0 0).rf 0 TIME_CTRL_PPS_SRC = 0 ∧ (ppsOn 1 0 0).rf 0 TIME_CTRL_PPS_SRC = 1 ∧ (ppsOn 1 0 0).sigHeard 0x3C = false ∧
    altPps.sigHeard 0x3C = true := by decide +kernel

/-- The window of R368 at its two ends and one ns beyond, for one second and for 16; 16.5 s and below. -/
def inWindow (e : Nat) : Bool :=
  let k := (e + 500000000) / 1000000000
  1 ≤ k ∧ k ≤ 16 ∧ k * 1000000000 ≤ e + k * 100000 ∧ e ≤ k * 1000000000 + k * 100000

theorem test_pps_window : inWindow 999900000 = true ∧ inWindow 999899999 = false ∧ inWindow 1000100000 = true ∧
    inWindow 1000100001 = false ∧ inWindow 16001600000 = true ∧ inWindow 16001600001 = false ∧
    33 * 1000000000 ≤ 2 * 16500000000 ∧ inWindow 16500000000 = false ∧ 2 * 16499999999 < 33 * 1000000000 ∧
    inWindow 16499999999 = false ∧ (ppsOn 0 1 999900000).mono = 999900000 ∧ (ppsOn 0 1 16500000000).mono = 16500000000 ∧
    (ppsOn 0 0 0).on A.ppsSeen 0 = false ∧ (ppsOn 0 1 0).on A.ppsSeen 0 = true := by decide +kernel

/-- R368: an edge 1 ns outside the window is a bad one, and one at its end is not. -/
theorem test_pps : (after .ppsEdge (ppsOn 0 1 999899999)).rf 0 TIME_STATUS_PPS_BAD = 1 ∧
    (after .ppsEdge (ppsOn 0 1 999900000)).rf 0 TIME_STATUS_PPS_BAD = 0 := by decide +kernel

/-- O44: a second that has come for the master and for another; TIME of a second new and known; CHECK far off after a sleep. -/
theorem test_time_symbols_ready : (clk 1000000000 0 State.reset).timeNs / 1000000000 = 1 ∧ State.reset.rd A.tmSec 0 = 0 ∧
    (flds [(0, TIME_CTRL_MASTER, 1)] State.reset).rf 0 TIME_CTRL_MASTER = 1 ∧ State.reset.rf 0 TIME_CTRL_MASTER = 0 ∧
    (∀ p ∈ State.reset.treePorts, State.reset.portUp p = true) ∧
    (∀ p ∈ (State.reset.treePorts.filter fun p => some p ≠ some 1), State.reset.portUp p = true) ∧
    (chain 0 0 [(0, CHAIN_TREE_VALID, 1), (0, CHAIN_TREE_PARENT, 0)]).treePorts = [0] ∧
    (chain 0 0 [(0, CHAIN_TREE_VALID, 1), (0, CHAIN_TREE_PARENT, 0)]).portUp 0 = true ∧
    State.reset.clocked = true ∧ State.reset.on A.tmGot 5 = false ∧ (st [(A.tmGot, 5, 1)]).on A.tmGot 5 = true ∧
    (flds [(0, TIME_STATUS_SLEPT, 1), (0, TIME_CTRL_TIME_GUARD_US, 1)] State.reset).rf 0 TIME_STATUS_SLEPT = 1 ∧
    (flds [(0, TIME_STATUS_SLEPT, 1), (0, TIME_CTRL_TIME_GUARD_US, 1)] State.reset).rf 0 TIME_CTRL_TIME_GUARD_US * 1000 < min 1001 (2 ^ 48 - 1001) ∧
    ¬ (flds [(0, TIME_STATUS_SLEPT, 1), (0, TIME_CTRL_TIME_GUARD_US, 1)] State.reset).rf 0 TIME_CTRL_TIME_GUARD_US * 1000 < min 1000 (2 ^ 48 - 1000) := by
  decide

/-- R371: CHECK 1001 ns off with a guard of 1 us leaves the device UNSYNCED and cancels an armed launch; 1000 ns off does not. -/
theorem test_check :
    (after (.check 0 1001) (flds [(0, TIME_STATUS_SLEPT, 1), (0, TIME_CTRL_TIME_GUARD_US, 1)] (st [(A.lnState, 2, 1)]))).rd A.lnResult 2 = 5 ∧
    (after (.check 0 1000) (flds [(0, TIME_STATUS_SLEPT, 1), (0, TIME_CTRL_TIME_GUARD_US, 1)] (st [(A.lnState, 2, 1)]))).rd A.lnState 2 = 1 := by
  decide

/-! #### Timed launches -/

/-- Slot 0 of partition 1 runs, at launch slot `i` with state `x`, configuration `c` and time `t`. -/
def launching (x c t : Nat) (l : List (Arr × Nat × Nat)) : State :=
  st (runs ++ [(A.lnState, 0, x), (A.lnCfg, 0, c), (A.lnTime, 0, t)] ++ l)

/-- TL_CFG for partition 1: ACTION `a`, TAG 2, one member. -/
def lnFor (a : Nat) : Nat := a + 2 ^ 4 + 2 ^ 12 * 2

/-- O45: each ground of ARM. -/
theorem test_arm_launch_ready : (launching 0 0 0 []).lnSlot = 0 ∧ (launching 0 0 0 []).lnFields .pf (lnFor 1) = some (lnFor 1) ∧
    (launching 0 0 0 []).lnFields (.vf 1) (lnFor 1) = none ∧ (launching 0 0 0 []).lnFields (.vf 0) (lnFor 1) = some (lnFor 1) ∧
    (launching 1 (lnFor 1 + 2 ^ 5) 0 []).lnMine (.vf 0) 0 = false ∧ (launching 0 0 0 []).lnMine (.vf 0) 0 = true ∧
    (launching 0 0 0 []).armLaunch 0 (lnFor 1) = 0 ∧ (launching 1 0 0 []).armLaunch 0 (lnFor 1) = 2 ∧
    (launching 0 0 0 [(A.lnState, 1, 1), (A.lnCfg, 1, lnFor 4)]).armLaunch 0 (lnFor 1) = 2 ∧
    (launching 0 0 0 []).armLaunch 0 (lnFor 5) = 3 ∧ (launching 0 0 0 []).armLaunch 0 (lnFor 4) = 0 ∧
    (launching 0 0 0 []).armLaunch 0 (2 ^ 3 + 3) = 3 ∧ (launching 0 0 0 []).armLaunch 0 (2 ^ 3 + 4) = 0 ∧
    (launching 0 0 0 []).armLaunch 0 (1 + 2 ^ 4 * 9) = 3 ∧ (clk 1 0 (launching 0 0 0 [])).armLaunch 0 (lnFor 1) = 4 ∧
    (clk 1 0 (launching 0 0 1 [])).armLaunch 0 (lnFor 1) = 0 ∧
    (flds [(0, TIME_STATUS_UNSYNCED, 1)] (launching 0 0 0 [])).armLaunch 0 (lnFor 1) = 5 := by decide

theorem test_launch_serving : (launching 0 0 0 []).Serving .pf := serving_of (by decide)

/-- O45: ARM and DISARM as TL_CFG writes them. -/
theorem test_arm_fields_ready : (launching 0 0 0 []).lnFields .pf (patch (2#32).toNat 28 2 1) = some 2 ∧
    (launching 0 0 0 []).lnFields (.vf 1) (patch (2#32).toNat 28 2 1) = none ∧
    (launching 1 (lnFor 1) 0 []).lnFields .pf (patch ((launching 1 (lnFor 1) 0 []).rd A.lnCfg 0) 28 2 2) = some (lnFor 1) := by decide

/-- O45: a launch that is due and one that is not; without a partition, with an open shadow; its partition absent, in plumb
mode 0 and 2; its actions. -/
theorem test_fire_ready : (launching 1 (lnFor 1) 5 []).rd A.lnState 0 = 1 ∧ (clk 5 0 (launching 1 (lnFor 1) 5 [])).timeNs = 5 ∧
    (clk 4 0 (launching 1 (lnFor 1) 5 [])).timeNs = 4 ∧ slice ((launching 1 (2 ^ 3 + 4) 5 []).rd A.lnCfg 0) 3 1 = 1 ∧
    (launching 1 0 0 []).rd A.shState devShadow ≠ 1 ∧ (launching 1 0 0 []).slotOfPid 7 = none ∧
    (launching 1 (lnFor 1) 0 []).slotOfPid (slice (lnFor 1) 4 8) = some 0 ∧ (launching 1 0 0 []).plumbMode 0 = 0 ∧
    (launching 1 0 0 []).rd A.pState 0 = 2 ∧ slice ((launching 1 (lnFor 0) 0 []).rd A.lnCfg 0) 0 3 = 0 ∧
    slice ((launching 1 (lnFor 4) 0 []).rd A.lnCfg 0) 0 3 = 4 := by decide

def leaf : State :=
  flds [(PT 0, PORT_STATUS_UP, 1), (PT 1, PORT_STATUS_UP, 1), (0, CHAIN_TREE_VALID, 1), (0, CHAIN_TREE_PARENT, 1),
    (0, CHAIN_TREE_CHILDREN, 1), (P 0, PLUMB_CFG_MODE, 2)] (launching 1 (lnFor 1) 0 [])

def root : State := chain 0 0 [(0, CHAIN_TREE_VALID, 1), (0, CHAIN_TREE_ROOT, 1), (0, CHAIN_TREE_CHILDREN, 1)]

theorem test_go_tree_ready : leaf.treeParent = some 1 ∧ leaf.rd A.lnState 0 = 1 ∧ leaf.rd A.lnTime 0 ≤ leaf.timeNs ∧
    leaf.slotOfPid 1 = some 0 ∧ leaf.rd A.lnCfg 0 = lnFor 1 ∧ leaf.clocked = true ∧ leaf.portUp 1 = true ∧ leaf.plumbMode 0 ≠ 0 ∧ (∀ p ∈ leaf.treeChildren, leaf.portUp p = true) ∧
    leaf.treeChildren = [0] ∧ root.treeParent = none ∧ root.rf 0 CHAIN_TREE_VALID = 1 ∧ (∀ p ∈ root.treeChildren, root.portUp p = true) ∧
    ([⟨1, 2, 1, 3, 0⟩].find? fun f : FiredCount => f.pid = 1 ∧ f.tag = 2) = some ⟨1, 2, 1, 3, 0⟩ := by decide

/-- R375: the second FIRED of three is counted, of two it sends GO. -/
theorem test_fired : (after (.fired 0 1 2 2 0) { root with fired := [⟨1, 2, 1, 3, 0⟩] }).fired = [⟨1, 2, 2, 3, 0⟩] ∧
    (after (.fired 0 1 2 1 5) { root with fired := [⟨1, 2, 1, 2, 0⟩] }).symOut.map (·.sym) = [.go 1 2 5] := by decide +kernel

/-! #### Metering and clocks -/

/-- O46: an epoch of 3600 s that ends, and one ns before; a slot outside SLUMBER. -/
theorem test_epoch_ready : (clk 0 3600000000000 State.reset).powered = true ∧ (clk 0 3600000000000 State.reset).rd A.devLen 0 = 0 ∧
    3600 * 1000000000 - (clk 0 3600000000000 State.reset).rd A.devS 0 % (3600 * 1000000000) ≤
      (clk 0 3600000000000 State.reset).mono - (clk 0 3600000000000 State.reset).rd A.devMono 0 ∧
    (clk 0 3599999999999 State.reset).mono = 3599999999999 ∧ (∀ k < 32, State.reset.on A.epOpen k = false) ∧
    State.reset.rd A.pwMode 0 ≠ 2 := by decide

/-- R383: without a sealing key a record carries NOKEY and the code 0; the sequence number goes up. -/
theorem test_seal : ((st [(A.pPid, 2, 5)]).sealRec 2 true).vault.map (fun r => (slice (r.headD 0) 0 8, slice (r.headD 0) 21 2, r.drop 13)) =
    [(5, 3, [0, 0, 0, 0, 0, 0])] ∧ ((st [(A.pPid, 2, 5)]).sealRec 2 true).rd A.meterSeq 0 = 1 := by decide +kernel

/-- O47: REFCLK there and gone, the clocks stopped by it, a HELD partition. -/
theorem test_clocks_ready : (st [(A.refGone, 0, 1)]).on A.refGone 0 = true ∧ State.reset.on A.refGone 0 = false ∧ State.reset.clocked = true ∧
    (st [(A.refDead, 0, 1)]).clocked = false ∧ (st [(A.refDead, 0, 1)]).powered = true ∧ (st [(A.pState, 1, 3)]).rd A.pState 1 = 3 := by decide

/-- R364, R366: a tick adds 10 ns, a period of the RC oscillator 30517 ns and a fraction. -/
theorem test_ticks : (after .tclkTick (clk 0 7 State.reset)).mono = 17 ∧
    (after .rcOscillatorTick (clk 0 7 (st [(A.refGone, 0, 1)]))).mono = 30524 := by decide +kernel
/-! ### Control network, HBM, power -/

/-- A request of NI `ni` of die 0 with tag 0. -/
def outs (ni : Nat) (addr : Nat) (sent paused : Bool) (elapsed pauseTicks : Nat) : Outst :=
  ⟨0, ni, 0, 0, addr, false, 4, 4, 0, 0, 0, 0, 0, 0, 0, 0, sent, false, elapsed, paused, pauseTicks⟩

def asking (l : List Outst) : State := { State.reset with outst := l }

/-- O48: an NI that sends and one that does not; a tag in use, sent, paused, due; a free buffer and none; a route. -/
theorem test_network_ready : initiatorNi 0 5 = true ∧ initiatorNi 0 36 = false ∧ initiatorNi 1 44 = false ∧ initiatorNi 0 46 = true ∧
    (asking []).outstOf 0 5 0 = none ∧ (asking [outs 5 0 true false 0 0]).outstOf 0 5 0 = some (outs 5 0 true false 0 0) ∧
    (asking [outs 5 0 false false 0 0]).outstOf 0 5 0 = some (outs 5 0 false false 0 0) ∧
    (asking [outs 5 0 false false 0 0]).bufferFree 0 5 0 = true ∧
    (asking [{ outs 5 0 true false 0 0 with tag := 1 }, { outs 5 0 true false 0 0 with tag := 2 }, outs 5 0 false false 0 0]).bufferFree 0 5 0 = false ∧
    (∀ e < 64, (asking []).routeMatch (routeIx 0 5 e) 0 = false) ∧
    (st [(A.cnMatch, routeIx 0 5 63, 2 ^ 31)]).routeMatch (routeIx 0 5 63) 0 = true ∧
    ((st [(A.cnMatch, routeIx 0 5 63, 2 ^ 31)]).linkDown 0).1 = false ∧ ((st [(A.cnMatch, routeIx 0 5 63, 2 ^ 31)]).linkDown (2 ^ 40)).1 = true ∧
    (st [(A.cnMatch, routeIx 0 5 63, 2 ^ 31 + 2 ^ 20)]).routeMatch (routeIx 0 5 63) (2 ^ 40) = true ∧ (asking []).clocked = true ∧
    (asking [outs 5 0 true true 0 0]).outstOf 0 5 0 = some (outs 5 0 true true 0 0) ∧
    (asking []).rf (D 0) CN_TIMEOUT_LOCAL_10NS ≤ (outs 5 0 true false ((asking []).rf (D 0) CN_TIMEOUT_LOCAL_10NS) 0).elapsed := by decide

/-- O48: a response that names tag and generation, and one of another generation. -/
theorem test_response : (after (.cnResponse 0 5 0 0 0 ⟨0, 9⟩) (asking [outs 5 0 true false 0 0])).rsp = ⟨0, 9, 0⟩ ∧
    (after (.cnResponse 0 5 0 1 0 ⟨0, 9⟩) (asking [outs 5 0 true false 0 0])).rf (D 0) CN_ERR_LATE_RSP = 1 := by decide +kernel

/-- R394: a request without a route answers NO_ROUTE, once a table has an entry. -/
theorem test_no_route : (after (.requestSend 0 46 0 false .b4 0 0) (st [(A.cnMatch, routeIx 3 9 0, 2 ^ 31)])).rsp.status = 5 := by decide +kernel

/-- O48: an entry of a route table with and without its grounds. -/
theorem test_route_entry_ready : State.reset.pfRights (.vf 0) = false ∧ State.reset.pfRights .pf = true ∧
    initiatorNi 0 ((flds [(D 0, CN_ROUTE_LOC_NI, 36)] State.reset).rf (D 0) CN_ROUTE_LOC_NI) = false ∧
    initiatorNi 0 (State.reset.rf (D 0) CN_ROUTE_LOC_NI) = true ∧ State.reset.rf (D 0) CN_ROUTE_PATH_HOPS = 0 ∧
    (flds [(D 0, CN_ROUTE_PATH_HOPS, 10)] State.reset).rf (D 0) CN_ROUTE_PATH_HOPS = 10 ∧
    (flds [(D 0, CN_ROUTE_PATH_HOPS, 9)] State.reset).rf (D 0) CN_ROUTE_PATH_HOPS = 9 := by decide

/-- O48: a register in no domain, one in a domain. -/
theorem test_register_access_ready : bayWindow 0 = none ∧ bayWindow 0x1000000000 ≠ none ∧ State.reset.domOf 0 none = none ∧
    State.reset.domOf 0 (some 1) = none ∧ State.reset.domOf (D 0 + oBED_ACC_CMD) (some 1) ≠ none := by decide

/-- O48: a table with one entry, for another NI, and the place of each command. -/
def tabled : State := st [(A.cnMatch, routeIx 3 9 0, 2 ^ 31)]

theorem test_no_route_ready : tabled.clocked = true ∧ tabled.entering = false ∧ tabled.rd A.cnMatch (routeIx 3 9 0) ≠ 0 ∧
    (∀ e < 64, tabled.routeMatch (routeIx 0 45 e) 0 = false) ∧ (∀ e < 64, tabled.routeMatch (routeIx 0 44 e) 0 = false) ∧
    (∀ e < 64, tabled.routeMatch (routeIx 2 7 e) 0 = false) ∧ (0 : Nat) < csrBase ∧
    (Instr.registerWrite .pf 0 0).place = some 0 ∧ (Instr.rcRead .pf 0).place = some 0 ∧
    (Instr.cnRequest .pf false false 0 .b4 0).place = some 0 ∧ (Instr.hbmRequest .pf false 0 .b4 0 0).place = some (2 ^ 39) ∧
    (Instr.start .pf 0).place = some (Off.part 0 oPART_CMD) ∧ (Instr.bedAccRead .pf 0).place = some (Off.die 0 oBED_ACC_CMD) := by decide

/-! #### HBM -/

theorem test_hbm_ready : State.reset.ServingDom .pf (hbmDie 0) domMem ∧ State.reset.ServingDom .pf (hbmDie (hbmBytes - 1)) domMem ∧
    State.reset.reachesHbm (State.reset.stamp .pf) 0 = true ∧ State.reset.reachesHbm (State.reset.stamp (.vf 0)) 0 = false ∧
    hbmBytes ≤ (BitVec.ofNat 39 hbmBytes).toNat ∧ State.reset.rf (D 0) HBM_STATUS_DEGRADED = 0 ∧
    (flds [(D 0, HBM_STATUS_DEGRADED, 1)] State.reset).rf (D 0) HBM_STATUS_DEGRADED = 1 ∧ State.reset.lineOpen 0 = false ∧
    (st [(A.hbmErr, 0, 1)]).rd A.hbmErr 0 = 1 ∧ (st [(A.hbmErr, 0, 2)]).rd A.hbmErr 0 = 2 ∧
    ({ State.reset with l2 := [⟨0, 0, true, 7⟩] } : State).l2Find 0 0 = some ⟨0, 0, true, 7⟩ ∧ State.reset.l2Find 0 0 = none :=
  ⟨servingDom_of (by decide) (by decide), servingDom_of (by decide) (by decide),
    by decide⟩

/-- R401: a write of 8 bytes is little-endian. -/
theorem test_hbm_write : (after (.hbmRequest .pf true 8 .b8 0x0102 0) State.reset).byte 8 = 2 ∧
    (after (.hbmRequest .pf true 8 .b8 0x0102 0) State.reset).byte 9 = 1 := by decide +kernel

/-- O50: the scrubber off and on over a clean, a correctable and an uncorrectable line; a training; the table's end. -/
def scrubs (x : Nat) : State := flds [(D 0, HBM_CFG_SCRUB_H, 1), (D 0, HBM_STATUS_TRAINED, 1)] (st [(A.hbmErr, 0, x)])

theorem test_upkeep_ready : State.reset.rf (D 0) HBM_STATUS_TRAINED = 0 ∧ (scrubs 0).rf (D 0) HBM_CFG_SCRUB_H ≠ 0 ∧
    (scrubs 0).rf (D 0) HBM_STATUS_TRAINED = 1 ∧ (scrubs 0).domOn 0 domMem = true ∧ (scrubs 0).lineLost 0 = false ∧
    (scrubs 0).rd A.hbmErr 0 = 0 ∧ (scrubs 1).rd A.hbmErr 0 = 1 ∧ 2 ≤ (scrubs 2).rd A.hbmErr 0 ∧ State.reset.on A.hbmTrn 0 = false ∧
    (st [(A.hbmTrn, 0, 1)]).on A.hbmTrn 0 = true ∧ (flds [(D 0, HBM_OWN_SEL_GRANULE, 24576)] State.reset).rf (D 0) HBM_OWN_SEL_GRANULE = 24576 ∧
    (flds [(D 0, HBM_OWN_SEL_GRANULE, 24575)] State.reset).rf (D 0) HBM_OWN_SEL_GRANULE = 24575 := by decide

/-- R408: the scrubber corrects and counts a correctable line. -/
theorem test_scrub : (after (.patrolScrub 0) (scrubs 1)).rd A.hbmErr 0 = 0 ∧
    (after (.patrolScrub 0) (scrubs 1)).rf (D 0) HBM_ECC_COUNT_CE = 1 := by decide +kernel

/-! #### Levels and domains -/

/-- O51: slot 0 needs level `m`; the phases of a change. -/
def levelled (m phase mono : Nat) (l : List (Nat × Fld × Nat)) : State :=
  flds l (clk 0 mono (st [(A.pState, 0, 1), (A.pMinPl, 0, m), (A.plPhase, 0, phase)]))

theorem test_level_ready : (levelled 0 0 0 []).Serving .pf ∧ (levelled 0 0 0 [(0, PWR_CTRL_BUSY, 1)]).rf 0 PWR_CTRL_BUSY = 1 ∧
    (levelled 0 0 0 []).rf 0 PWR_CTRL_BUSY = 0 ∧ (levelled 0 0 0 []).rf 0 PWR_STATUS_STATE = 0 ∧ (levelled 0 1 0 []).rd A.plPhase 0 = 1 ∧
    (levelled 0 0 0 []).rf 0 PL_STATUS_LEVEL = 3 ∧ (levelled 2 0 0 []).loaded 0 = true ∧ (1 : Nat) < (levelled 2 0 0 []).rd A.pMinPl 0 ∧
    ¬ ((2 : Nat) < (levelled 2 0 0 []).rd A.pMinPl 0) ∧ (∀ k < 32, (levelled 2 0 0 []).stoppable k = false) ∧
    (∀ k < 32, ¬ ((levelled 2 0 0 []).loaded k = true ∧ 2 < (levelled 2 0 0 []).rd A.pMinPl k)) ∧
    (levelled 0 2 0 [(0, PL_STATUS_VOLT_REQ, 1)]).rf 0 PL_STATUS_VOLT_REQ = 1 ∧ (levelled 0 0 0 []).rf 0 PL_STATUS_VOLT_REQ = 0 ∧
    (∀ k < 32, (levelled 0 1 0 []).rd A.pState k ≠ 2) ∧ (levelled 0 1 0 []).flight = [] ∧
    (levelled 0 1 0 []).rf 0 PL_STATUS_PENDING < (levelled 0 1 0 []).rf 0 PL_STATUS_LEVEL ∧
    (levelled 0 1 0 [(0, PL_STATUS_PENDING, 3)]).rf 0 PL_STATUS_LEVEL ≤ (levelled 0 1 0 [(0, PL_STATUS_PENDING, 3)]).rf 0 PL_STATUS_PENDING ∧
    (levelled 0 2 1000000 []).rd A.voltAt 0 + 1000000 ≤ (levelled 0 2 1000000 []).mono ∧
    (levelled 0 2 999999 []).mono < (levelled 0 2 999999 []).rd A.voltAt 0 + 1000000 ∧ (levelled 0 2 0 []).on A.warmWait 0 = false ∧
    (levelled 0 3 0 []).rd A.plPhase 0 = 3 ∧ (st runs).rd A.pState 0 = 2 :=
  ⟨serving_of (by decide), by decide⟩

/-- R419: a level below a partition's MIN_PL is refused, its own is not. -/
theorem test_level : (after (.plChangeRequest .pf 1) (levelled 2 0 0 [])).rf 0 PL_CTRL_RESULT = 3 ∧
    (after (.plChangeRequest .pf 2) (levelled 2 0 0 [])).rf 0 PL_CTRL_BUSY = 1 := by decide +kernel

/-- O52: a domain that is on and needed, on and not, off; asked off, asked on; its wake. -/
theorem test_domain_ready : State.reset.domOn 7 2 = true ∧ State.reset.domNeeded 7 2 = false ∧ (st [(A.wallOwner, 112, 1)]).domNeeded 7 0 = true ∧
    ((flds [] State.reset).wr A.reg oDOMAIN_STATUS 0).domOn 7 2 = false ∧ (st [(A.domWake, 30, 1)]).on A.domWake 30 = true ∧
    State.reset.on A.domWake 30 = false ∧ (0x40000000#32).getLsbD 30 = true ∧ (0#32).getLsbD 30 = false := by decide

/-- R422: a domain that is needed stays on. -/
theorem test_domain : ((st [(A.wallOwner, 0, 1)]).domAsk 1 0 0).domOn 0 0 = true ∧
    ((st [(A.wallOwner, 0, 1)]).domAsk 1 0 0).rf 0 PWR_STATUS_DOMAIN_REFUSED = 1 := by decide +kernel
/-- O51: an outbound lane entry of a running partition that its port, which is down, does not carry. -/
def short : State := st (runs ++ [(A.mTab 5, 0, 2 ^ 15), (A.mOwn 5, 0, 2 ^ 8 + 1)])

theorem test_capacity_ready : short.stoppable 0 = true ∧ (short.wf 0 PL_STATUS_LEVEL 1).capacityShort 0 = true ∧
    short.loaded 0 = true ∧ (∀ k < 32, ¬ (short.loaded k = true ∧ 1 < short.rd A.pMinPl k)) := by decide

/-! ### Sleep, wakes, pins, serial peripherals -/

/-- O53: an entry to sleep in state `x` and phase `p`, with wake `w` pending, at MONO_NS `m`. -/
def sleeping (x p w m : Nat) (l : List (Nat × Fld × Nat)) : State :=
  flds ([(0, PWR_CTRL_BUSY, 1), (0, PWR_STATUS_STATE, x), (0, PWR_STATUS_PHASE, p), (0, PWR_CTRL_DRAIN_US, 1)] ++ l)
    (clk 0 m (st [(A.pwWake, 0, w)]))

/-- Every pseudo-channel is retained. -/
def retained : List (Arr × Nat × Nat) := (List.range 8).map fun d => (A.reg, D d + HBM_RETAIN_PC.off, 0xFFFFFFFF)

theorem test_sleep_ready : (slotIn 2).anyStepping = true ∧ State.reset.anyStepping = false ∧ State.reset.rd A.plPhase 0 = 0 ∧
    State.reset.rf 0 PWR_CTRL_BUSY ≠ 1 ∧ State.reset.rf 0 PWR_STATUS_STATE = 0 ∧ State.reset.saveCheck false = 0 ∧
    (st [(A.wallOwner, 0, 1)]).saveCheck false = 5 ∧
    (flds [(0, SLUMBER_SAVE_VALID, 1), (0, SLUMBER_SAVE_OFFSET_GIB, 48)] State.reset).saveCheck true = 5 ∧
    (flds [(0, SLUMBER_SAVE_VALID, 1)] State.reset).saveCheck true = 4 ∧
    (flds [(0, SLUMBER_SAVE_VALID, 1), (0, SLUMBER_SAVE_OFFSET_GIB, 47)] (st retained)).saveCheck true = 0 ∧ (sleeping 1 1 0 0 []).rf 0 PWR_CTRL_BUSY = 1 ∧ (sleeping 1 1 0 0 []).rd A.pwWake 0 = 0 ∧
    (sleeping 1 1 6 0 []).rd A.pwWake 0 ≠ 0 := by decide +kernel

theorem test_drain_ready : (sleeping 1 1 0 1000 []).clocked = true ∧ (sleeping 1 1 0 1000 []).rf 0 PWR_STATUS_PHASE = 1 ∧
    (∀ c < 256, (sleeping 1 1 0 1000 []).rd A.coreTask c = 0) ∧ (∀ o ∈ (sleeping 1 1 0 1000 []).outst, o.dead = true) ∧
    (sleeping 1 1 0 1000 []).rf 0 PWR_STATUS_STATE = 1 ∧ (sleeping 2 1 0 1000 []).rf 0 PWR_STATUS_STATE = 2 ∧
    (sleeping 2 1 0 1000 []).listed A.tagOut = [] ∧
    (sleeping 1 1 0 1000 []).rd A.drainAt 0 + 1000 * (sleeping 1 1 0 1000 []).rf 0 PWR_CTRL_DRAIN_US ≤ (sleeping 1 1 0 1000 []).mono ∧
    ¬ (sleeping 1 1 0 999 []).rd A.drainAt 0 + 1000 * (sleeping 1 1 0 999 []).rf 0 PWR_CTRL_DRAIN_US ≤ (sleeping 1 1 0 999 []).mono := by
  decide +kernel

theorem test_phase_ready : (sleeping 2 2 0 0 []).rf 0 PWR_STATUS_PHASE = 2 ∧ (sleeping 2 2 0 0 []).rf 0 PWR_CTRL_SAVE_EN = 0 ∧
    (sleeping 2 3 0 0 []).rf 0 PWR_STATUS_PHASE = 3 ∧ (sleeping 2 4 0 0 []).rf 0 PWR_STATUS_PHASE = 4 ∧
    (sleeping 2 5 0 0 []).rf 0 PWR_STATUS_PHASE = 5 ∧ (sleeping 2 5 0 0 []).l2 = [] ∧ (sleeping 2 4 6 0 []).rd A.pwWake 0 ≠ 0 := by decide

/-- R427: a drain beyond DRAIN_US is abandoned with RESULT 6, at the limit and not before. -/
theorem test_drain : (after .drainTimeout (sleeping 1 1 0 1000 [])).rf 0 PWR_CTRL_RESULT = 6 ∧
    (after .drainTimeout (sleeping 1 1 0 999 [])).rf 0 PWR_STATUS_PHASE = 1 := by decide +kernel

/-- O54: each source enabled and not, in PARK, SLUMBER, RUN and an entry. -/
def wakeable (mode dead : Nat) : State :=
  flds [(0, WAKE_CFG_PORTS, 2 ^ 15), (0, WAKE_CFG_TIMER_EN, 1), (0, WAKE_CFG_NET_EN, 1), (0, PWR_CTRL_SAVE_EN, 1)]
    (st ([(A.pwMode, 0, mode), (A.pwDead, 0, dead), (A.reg, D 7 + oGP_CFG + 4 * 31, 2 ^ 6 + 2 ^ 3 * 5)] ++ retained))

theorem test_wake_ready : (wakeable 1 0).powered = true ∧ (wakeable 1 0).rf 0 WAKE_CFG_PIN_EN = 1 ∧
    slice ((wakeable 1 0).reg (D 7 + oGP_CFG + 4 * 31)) 6 1 = 1 ∧ slice ((wakeable 1 0).reg (D 7 + oGP_CFG + 4 * 31)) 3 3 = 5 ∧
    slice ((wakeable 1 0).reg (D 7 + oGP_CFG + 4 * 30)) 6 1 = 0 ∧ ((wakeable 1 0).rf 0 WAKE_CFG_PORTS).testBit 15 = true ∧
    ((wakeable 1 0).rf 0 WAKE_CFG_PORTS).testBit 14 = false ∧ (wakeable 1 0).rf 0 WAKE_CFG_TIMER_EN = 1 ∧
    (wakeable 1 0).pair oWAKE_TIME_LO ≤ (wakeable 1 0).timeNs ∧ (wakeable 1 0).rf 0 WAKE_CFG_PCIE_EN = 1 ∧
    (wakeable 1 0).rf 0 WAKE_CFG_NET_EN = 1 ∧ (wakeable 1 0).rd A.pwMode 0 = 1 ∧ (wakeable 2 1).on A.pwDead 0 = true ∧
    (wakeable 2 0).on A.pwDead 0 = false ∧ (wakeable 2 0).rd A.pwMode 0 = 2 ∧ (wakeable 2 0).aonSave = [] ∧ (wakeable 2 0).saveArea = [] ∧
    (∀ d < 8, (wakeable 2 0).rf (D d) HBM_RETAIN_PC = 0xFFFFFFFF) ∧ (wakeable 2 0).rf 0 PWR_CTRL_SAVE_EN = 1 ∧
    (wakeable 0 0).rd A.pwMode 0 = 0 ∧ (wakeable 0 0).rf 0 PWR_CTRL_BUSY = 0 ∧ (flds [(0, WAKE_CFG_PIN_EN, 0)] State.reset).rf 0 WAKE_CFG_PIN_EN ≠ 1 ∧
    (flds [(0, WAKE_CFG_PCIE_EN, 0)] State.reset).rf 0 WAKE_CFG_PCIE_EN ≠ 1 ∧ (flds [(0, PWR_STATUS_RESTORING, 1)] State.reset).rf 0 PWR_STATUS_RESTORING = 1 ∧
    (flds [(0, PWR_CTRL_BUSY, 1)] (wakeable 0 0)).rf 0 PWR_CTRL_BUSY = 1 ∧ (wakeable 0 0).rd A.pwWake 0 = 0 ∧
    ((wakeable 0 0).wr A.pwWake 0 6).rd A.pwWake 0 ≠ 0 := by decide +kernel

theorem test_wake_canon : (wakeable 1 0).Canon ∧ (wakeable 2 0).Canon ∧ (wakeable 2 1).Canon ∧ (wakeable 0 0).Canon := by
  refine ⟨⟨?_, ?_⟩, ⟨?_, ?_⟩, ⟨?_, ?_⟩, ⟨?_, ?_⟩⟩
  all_goals decide +kernel

/-- R433: the pin wakes a parked device, and LAST_WAKE shows it. -/
theorem test_wake : (after (.wakePin 255) (wakeable 1 0)).reg oLAST_WAKE = 1 + 2 ^ 4 + 2 ^ 9 * 255 ∧
    (after (.wakePin 254) (wakeable 1 0)).rd A.pwMode 0 = 1 := by decide +kernel

/-- O55: routes without and with a conflict; a bank with its rail; the grounds of GP_TGT0 and GP_TGT1. -/
def twoPins : State := flds [(0, ROUTE_SEL_ENTRY, 1)] ((st [(A.route, 0, 2 ^ 15 + 2 ^ 7 * 3 + 1)]).wr A.reg oPERIPH_EN 1)

theorem test_route_ready : (∀ x ∈ State.reset.activeRoutes, sigConflict State.reset.activeRoutes x.sig = false) ∧
    (∃ x ∈ (twoPins.wr A.route 1 (2 ^ 15 + 2 ^ 7 * 4 + 1)).activeRoutes, sigConflict (twoPins.wr A.route 1 (2 ^ 15 + 2 ^ 7 * 4 + 1)).activeRoutes x.sig = true) ∧
    (∀ x ∈ (twoPins.wr A.route 1 (2 ^ 15 + 2 ^ 7 * 3 + 1)).activeRoutes, sigConflict (twoPins.wr A.route 1 (2 ^ 15 + 2 ^ 7 * 3 + 1)).activeRoutes x.sig = false) ∧
    twoPins.rf 0 ROUTE_SEL_ENTRY < 96 ∧ (flds [(0, ROUTE_SEL_ENTRY, 96)] State.reset).rf 0 ROUTE_SEL_ENTRY = 96 := by decide +kernel

/-- R442: a second pin of an input is a conflict. -/
theorem test_route_conflict : (after (.routeDataWrite .pf 0x8201) twoPins).rf 0 PIN_STATUS_PIN_CONFLICT = 1 ∧
    (after (.routeDataWrite .pf 0x8181) twoPins).rf 0 PIN_STATUS_PIN_CONFLICT = 0 := by decide +kernel

def bound (x : Nat) (tgt0 tgt1 : Nat) : State :=
  st [(A.wallOwner, 0, 1), (A.pState, 0, x), (A.reg, D 0 + oGP_TGT0, tgt0), (A.reg, D 0 + oGP_TGT1, tgt1)]

theorem test_binding_ready : (bound 2 0 0).slotOfWall 0 = some 0 ∧ (bound 2 0 0).rd A.pState 0 ≠ 1 ∧ (bound 1 0 0).rd A.pState 0 = 1 ∧
    slice 1 0 1 = 1 ∧ slice 1 2 4 = 0 ∧ (bound 1 0 (1 + 4 * 5)).reg (D 0 + oGP_TGT1) = 1 + 4 * 5 ∧
    (bound 1 0 0).slotOfWall 0 ≠ (bound 1 0 0).slotOfWall 5 ∧ slice 3 1 1 = 1 ∧ slice 2 0 1 = 0 ∧
    255 < slice (2 ^ 24 * 8) 19 5 + 32 * slice (2 ^ 24 * 8) 24 4 ∧ ¬ 255 < slice (2 ^ 24 * 8 - 1) 19 5 + 32 * slice (2 ^ 24 * 8 - 1) 24 4 := by
  decide

/-- R448: BUSY before CONFINE before RANGE, and a binding that is taken. -/
theorem test_binding : (after (.gpTgtWrite .pf 0 true 3) (bound 2 0 0)).rf (D 0) GP_BANK_RESULT = 1 ∧
    (after (.gpTgtWrite .pf 0 false 1) (bound 1 0 (1 + 4 * 5))).rf (D 0) GP_BANK_RESULT = 2 ∧
    (after (.gpTgtWrite .pf 0 true 3) (bound 1 0 0)).rf (D 0) GP_BANK_RESULT = 3 ∧
    (after (.gpTgtWrite .pf 0 false 1) (bound 1 0 0)).reg (D 0 + oGP_TGT0) = 1 := by decide +kernel

/-- O55: an interrupt that is met and not, pending and not, with the clocks and without. -/
def railed (mode : Nat) : State := flds [(D 0, GP_BANK_VDDIO_OK, 1)] (st [(A.reg, D 0 + oGP_CFG, 2 ^ 3 * mode)])

theorem test_interrupt_ready : (railed 1).rf (D 0) GP_BANK_VDDIO_OK = 1 ∧ slice ((railed 1).reg (D 0 + oGP_CFG)) 3 3 = 1 ∧
    slice ((railed 2).reg (D 0 + oGP_CFG)) 3 3 = 2 ∧ ((railed 1).rf (D 0) GP_IN_LEVEL).testBit 0 = false ∧
    ((railed 1).rf (D 0) GP_INT_STATUS_PENDING).testBit 0 = false ∧ (railed 1).clocked = true ∧ ((railed 1).wr A.pwMode 0 1).clocked = false ∧
    ((railed 1).wr A.pwMode 0 1).powered = true := by decide

/-- R451: a rising edge in mode 1 raises the pin's interrupt, in mode 2 it does not. -/
theorem test_interrupt : (after (.gpInterrupt 0 true) (railed 1)).rf (D 0) GP_INT_STATUS_PENDING = 1 ∧
    (after (.gpInterrupt 0 true) (railed 2)).rf (D 0) GP_INT_STATUS_PENDING = 0 := by decide +kernel
/-! ### Serial peripherals, host, configuration, events, fault records -/

/-- O56: every peripheral is enabled; its queues are queue 0 of die 0, an enabled stream queue, with `l` in it; `r` in
route entry 0. -/
def periphs (r : Nat) (l : List QPacket) : State :=
  { flds [(Q 0, QUEUE_CTRL_EN, 1)] (st [(A.reg, oPERIPH_EN, 0x1FFF), (A.route, 0, r)]) with packets := l }

def wordIn (w : Nat) : QPacket := ⟨0, 3, [w], true, true, false⟩

theorem test_serial_queues_ready : (periphs 0 []).qEn 0 = true ∧ (periphs 0 []).qClass 0 = 0 ∧ State.reset.qEn 0 = false ∧
    (periphs 0 []).on A.qPtrBad 0 = false ∧ ((periphs 0 [wordIn 9]).packets.find? fun p => p.queue = 0 ∧ p.readable) = some (wordIn 9) ∧
    (periphs 0 []).qFits 0 1 = true ∧ (periphs 0 []).qOpens 0 < 8 ∧ ((periphs 0 [wordIn 9]).txPop 0).1 = some 9 ∧
    ((periphs 0 []).txPop 0).1 = none ∧ ((periphs 0 []).rxPush 0 9).1 = true ∧ (State.reset.rxPush 0 9).1 = false ∧
    (periphs 0 [⟨0, 3, List.replicate 512 0, true, true, false⟩]).qFits 0 1 = false := by decide +kernel

theorem test_serial_ready : (periphs 0 []).periphOn 0 = true ∧ (periphs 0 []).periphMode 0 = false ∧ State.reset.periphOn 0 = false ∧
    (flds [(0, PERIPH_CFG_MODE, 1)] (periphs 0 [])).periphMode 0 = true ∧
    (periphs 0 []).sigLevel 3 false = false ∧ (periphs 0 []).sigWired 1 = false ∧ (periphs (2 ^ 15 + 1) []).sigWired 1 = true ∧
    (periphs 0 []).sigWired 9 = false ∧ (periphs (2 ^ 15 + 9) []).sigWired 9 = true ∧ (periphs (2 ^ 15 + 8) []).sigWired 8 = true ∧
    (flds [(8, PERIPH_CFG_MODE, 1)] (periphs 0 [])).periphMode 2 = true ∧ (periphs 0 []).on A.i2cSkip 0 = false ∧
    (periphs 0 []).periphOn 9 = true := by decide +kernel

/-- R444: a UART sends the low byte of a word; with FLOW and CTS high it sends none. -/
theorem test_uart : (after (.uartTransmit 0) (periphs 0 [wordIn 0x1A5])).out = [.uart 0 0xA5] ∧
    (after (.uartTransmit 0) (flds [(0, PERIPH_CFG_MODE, 1), (D 0, GP_IN_LEVEL, 1)] (periphs (2 ^ 15 + 3) [wordIn 0x1A5]))).out = [] := by
  decide +kernel

/-- R444: an SPI transfer without a pin for MISO gives 0. -/
theorem test_spi : ((after (.spiTransfer 0 0xFF) (periphs 0 [wordIn (2 ^ 32 * 7 + 3)])).packets.map (·.words)) = [[0]] := by decide +kernel

/-- O57: the endpoint without link, in RECOVERY for another function; whole words of registers in no domain; BAR2. -/
theorem test_host_ready : (st [(A.pcieDown, 0, 1)]).on A.pcieDown 0 = true ∧ State.reset.on A.pcieDown 0 = false ∧
    (atStage 8 []).rf 0 BOOT_STATUS_STAGE = 8 ∧ State.reset.rf 0 BOOT_STATUS_STAGE ≠ 8 ∧ State.reset.domOf 0 none = none ∧
    slice (State.reset.rd A.hostBar2 0) 0 2 = 0 ∧ slice (State.reset.rd A.hostBar2 0) 2 12 = State.reset.chainAddr ∧
    State.reset.domOn (hbmDie 0) domMem = true ∧ 0x4800000 + 16 * 1023 + 12 < 2 ^ 27 ∧ (∀ q ∈ State.reset.arr, q.1 % 512 ≠ A.qPtrBad.code) ∧
    State.reset.rd A.pwMode 0 ≠ 2 := by decide

theorem test_no_pointer_fault : ∀ q, State.reset.on A.qPtrBad q = false := fun q => by
  have : State.reset.rd A.qPtrBad q = 0 := rd_absent (by decide) (by decide) q
  simp [State.on, this]

theorem test_recovery_serves : (atStage 8 []).Serving .pf ∧ State.reset.Serving .pf :=
  ⟨serving_of (by decide), serving_of (by decide)⟩

/-- R461: a read of part of a word is an Unsupported Request; with the link down nothing comes back. -/
theorem test_bar0 : (after (.bar0Access 0 false 2 1 0 false) State.reset).out = [.completion 0 16 0] ∧
    (after (.bar0Access 0 false 2 1 0 false) (st [(A.pcieDown, 0, 1)])).out = [] := by decide +kernel

/-- O58: a shadow of slot 0 in state `x`, with overflow `o`, over the slot in state `p`. -/
def shadowed (x o p : Nat) (l : List ShadowWrite) : State :=
  { st [(A.pState, 0, p), (A.pPid, 0, 1), (A.shState, 0, x), (A.shOver, 0, o), (A.shState, 32, x), (A.shOver, 32, o)] with shadow := l }

theorem test_shadow_ready : (shadowed 0 0 1 []).maySlot (.vf 1) 0 = false ∧ (shadowed 0 0 1 []).maySlot (.vf 0) 0 = true ∧
    (shadowed 0 0 1 []).rd A.shState 0 = 0 ∧ (shadowed 1 0 1 []).rd A.shState 32 = 1 ∧ 2 ≤ (shadowed 2 0 1 []).rd A.shState 0 ∧
    (shadowed 1 1 1 []).on A.shOver 0 = true ∧ (shadowed 1 0 1 []).on A.shOver 0 = false ∧ (shadowed 1 0 2 []).rd A.pState 0 ≠ 1 ∧
    (shadowed 1 0 2 []).rd A.pState 0 ≠ 4 ∧ (shadowed 1 0 4 []).rd A.pState 0 = 4 ∧
    ((shadowed 1 0 1 [⟨32, oEVT_ROUTE_FLAG, 3, 5⟩]).shadow.filter fun w => w.slot = 32) = [⟨32, oEVT_ROUTE_FLAG, 3, 5⟩] ∧
    (((shadowed 1 0 1 (List.replicate 256 ⟨0, 0, 0, 0⟩)).shadow.filter fun w => w.slot = 0).length = 256) ∧
    ((shadowed 1 0 1 (List.replicate 255 ⟨0, 0, 0, 0⟩)).shadow.filter fun w => w.slot = 0).length < 256 ∧
    ((shadowed 1 0 1 (List.replicate 256 ⟨0, P 0 + oFAULT_CFG, 0, 0⟩)).shadow.filter fun w => ¬ (w.slot = 0 ∧ w.off = P 0 + oFAULT_CFG ∧ w.sel = 0)).length ≠ 256 ∧
    (0x80000000#32).getLsbD 31 = true ∧ ((st [(A.heldLo, P 0 + oESEQ_DATA_LO, 2 ^ 32 + 7)]).rd A.heldLo (P 0 + oESEQ_DATA_LO)).testBit 32 = true ∧
    (flds [(P 0, ESEQ_SEL_AUTOINC, 1)] State.reset).rf (P 0) ESEQ_SEL_AUTOINC = 1 ∧ State.reset.rf 0 DEBUG_CTRL_DEBUG = 0 ∧
    (shadowed 0 0 2 []).allIdle = false ∧ (shadowed 0 0 4 []).allIdle = true := by decide +kernel

theorem test_shadow_serving : (shadowed 1 0 1 []).Serving .pf := serving_of (by decide)

/-- R467: COMMIT of a running slot is pending, of one that overflowed it discards. -/
theorem test_shadow_commit : (after (.cfgtxCommit .pf false 0) (shadowed 1 0 2 [])).rd A.shState 0 = 2 ∧
    (after (.cfgtxCommit .pf false 0) (shadowed 1 1 2 [])).rd A.shResult 0 = 4 := by decide +kernel

/-- R166: DEBUG does not change while a partition runs. -/
theorem test_debug : (after (.debugCtrlWrite .pf 1) (shadowed 0 0 2 [])).rf 0 DEBUG_CTRL_REFUSED = 1 ∧
    (after (.debugCtrlWrite .pf 1) (shadowed 0 0 4 [])).rf 0 DEBUG_CTRL_DEBUG = 1 := by decide +kernel

/-- O59: a source with and without a vector; a software source's owner; EVT_SEL at its limits; a vector raised, masked,
pending. -/
def sources (sel : Nat) (l : List (Arr × Nat × Nat)) : State := flds [(0, EVT_SEL_SOURCE, sel)] (st ([(A.pState, 0, 1), (A.pPid, 0, 1)] ++ l))

theorem test_event_ready : slice (State.reset.rd A.evtFlag 7) 0 1 = 0 ∧ slice ((st [(A.evtVec, 7, 1)]).rd A.evtVec 7) 0 1 = 1 ∧
    slice ((st [(A.evtVec, 7, 0)]).rd A.evtVec 7) 0 1 = 0 ∧ slice ((st [(A.evtVec, 7, 1)]).rd A.evtVec 7) 1 6 = 0 ∧
    State.reset.rd A.funcOff 0 = 0 ∧ (sources 0 [(A.evtSwOwn, 3, 0x101)]).evtOwner (0x5C0 + 3) = some 1 ∧
    (sources 0 []).stamp (.vf 0) = .part 1 ∧ (sources 0 []).evtOwner (0x5C0 + 4) = none ∧ (sources 0 []).stamp (.vf 1) = .nobody ∧
    (sources 1535 []).rf 0 EVT_SEL_SOURCE = 1535 ∧ (sources 1536 []).rf 0 EVT_SEL_SOURCE = 1536 ∧
    slice (2 * 34) 1 6 = 34 ∧ slice (2 * 1 + 2 ^ 7 * 32) 7 10 = 32 ∧ (sources 0x5C3 []).loaded 0 = true ∧ (sources 0x5C3 []).evtOwner 0x5C3 = none ∧
    (sources 0x5C3 [(A.evtSwOwn, 3, 0x101)]).rd A.pPid 0 = 1 ∧ (sources 0 []).rd A.shState 32 = 0 := by decide +kernel

theorem test_vector_ready : (st [(A.vecRaised, 1024 * 33, 1)]).on A.vecRaised (1024 * 33) = true ∧ State.reset.on A.vecRaised 5 = false ∧
    State.reset.rd A.vecOpen 5 = 0 ∧ (st [(A.vecOpen, 5, 1)]).rd A.vecOpen 5 ≠ 0 ∧ (st [(A.funcMask, 0, 1)]).on A.funcMask 0 = true ∧
    (st [(A.vecPend, 5, 1)]).on A.vecPend 5 = true := by decide

/-- R473: a raised vector that is masked waits, and goes out when it is unmasked. -/
theorem test_vector : (after (.vectorMessage 0 5) (st [(A.vecRaised, 5, 1)])).on A.vecPend 5 = true ∧
    (after (.vectorUnmask 0 5) (st [(A.vecPend, 5, 1)])).out = [.msix 0 5] := by decide +kernel

/-- O60: a slot that evaluates a step and one at its end; the 64th record and the 65th; a log queue that takes a record. -/
def logging (n : Nat) : State :=
  flds [(P 0, FAULT_CFG_LOG_QUEUE, 2), (Q 2, QUEUE_CTRL_EN, 1), (Q 2, QUEUE_CFG_CLASS, 2), (Q 2, QUEUE_CFG_OWNER, 1)]
    (st (runs ++ [(A.recCnt, 0, n)]))

theorem test_record_ready : (st runs).evaluating 0 = true ∧ (st runs).posCycle 0 = 0 ∧ (st runs).posStep 0 = 7 ∧
    (slotIn 1).evaluating 0 = false ∧ (logging 63).rd A.recCnt 0 < 64 ∧ (logging 64).rd A.recCnt 0 = 64 ∧
    (logging 63).on A.qPtrBad 2 = false ∧ (logging 63).qEn 2 = true ∧ (logging 63).qClass 2 = 2 ∧ (logging 63).qOwner 2 = some 1 ∧
    (logging 63).qFits 2 4 = true ∧ (st runs).qEn 0 = false ∧ (logging 63).rd A.pPid 0 = 1 ∧
    (flds [(P 0, FAULT_STATUS_VALID, 1)] State.reset).rf (P 0) FAULT_STATUS_VALID = 1 ∧ State.reset.rf (P 0) FAULT_STATUS_VALID = 0 := by
  decide +kernel

/-- R174: the 64th record of an emulated cycle is pushed, the 65th is not. -/
theorem test_record : ((logging 63).recordNow 0 5 Loc.device 0 0 0 0).packets.length = 1 ∧
    ((logging 64).recordNow 0 5 Loc.device 0 0 0 0).packets = [] := by decide +kernel
/-! ### Well-formed commands -/

def sectionBad (kind target flags iv tag wrapped hash aad : Nat) : Section :=
  ⟨kind, target, flags, false, iv, tag, wrapped, hash, aad, []⟩

/-- An offset that is not aligned, or beyond BAR0 for another initiator than a core, or beyond the CSRs. -/
theorem test_wf_offset : (Instr.registerWrite .pf 2 0).wf = false ∧ (Instr.registerWrite .pf 0x8000000 0).wf = false ∧
    (Instr.registerWrite (.core 0 0) 0x8008000 0).wf = false ∧ (Instr.registerWrite (.core 0 0) 0x8000000 0).wf = true ∧
    (Instr.registerWrite .pf 0x7FFFFFC 0).wf = true ∧ (Instr.rcRead .pf 1).wf = false ∧ (Instr.lohiLoRead .pf 3).wf = false ∧
    (Instr.lohiLoWrite .pf 2 0).wf = false ∧ (Instr.lohiHiWrite .pf 6 0).wf = false ∧ (Instr.lohiHiWrite .pf 0 0).wf = false ∧
    (Instr.lohiHiWrite .pf 4 0).wf = true ∧ (Instr.rwtWrite .pf 1 0).wf = false ∧ (Instr.evtRouteWrite .pf 5 0).wf = false := by decide

theorem test_wf_bay : (Instr.bayServiceRead .pf wall0 4 .b8).wf = false ∧ (Instr.bayServiceRead .pf wall0 4 .b4).wf = true ∧
    (Instr.bayServiceWrite .pf wall0 32 .b64 0).wf = false ∧ (Instr.bayServiceWrite .pf wall0 32 .b32 0).wf = true := by decide

theorem test_wf_section : (Instr.partitionSection (sectionBad 65536 0 0 0 0 0 0 0)).wf = false ∧
    (Instr.partitionSection (sectionBad 0 65536 0 0 0 0 0 0)).wf = false ∧
    (Instr.partitionSection (sectionBad 0 0 (2 ^ 32) 0 0 0 0 0)).wf = false ∧
    (Instr.partitionSection (sectionBad 0 0 0 (2 ^ 96) 0 0 0 0)).wf = false ∧
    (Instr.partitionSection (sectionBad 0 0 0 0 (2 ^ 128) 0 0 0)).wf = false ∧
    (Instr.partitionSection (sectionBad 0 0 0 0 0 (2 ^ 320) 0 0)).wf = false ∧
    (Instr.partitionSection (sectionBad 0 0 0 0 0 0 (2 ^ 384) 0)).wf = false ∧
    (Instr.partitionSection (sectionBad 0 0 0 0 0 0 0 (2 ^ 320))).wf = false ∧
    (Instr.partitionSection (sectionBad 65535 65535 (2 ^ 32 - 1) (2 ^ 96 - 1) 0 0 0 0)).wf = true := by decide +kernel

theorem test_wf_network : (Instr.requestSend 0 0 0 false .b8 4 0).wf = false ∧ (Instr.requestSend 0 0 0 false .b4 4 0).wf = true ∧
    (Instr.cnRequest .pf false false 16 .b32 0).wf = false ∧ (Instr.cnRequest .pf false false 32 .b32 0).wf = true ∧
    (Instr.hbmRequest .pf false 32 .b64 0 0).wf = false ∧ (Instr.hbmRequest .pf false 64 .b64 0 0).wf = true := by decide

theorem test_wf_host : (Instr.bar0Access 0 false 2 1 0 false).wf = false ∧ (Instr.bar0Access 0 false 0 0 0 false).wf = false ∧
    (Instr.bar0Access 0 false 0 17 0 false).wf = false ∧ (Instr.bar0Access 0 false 0 16 0 false).wf = true ∧
    (Instr.bar0Access 0 false 2 0 0 true).wf = true ∧ (Instr.bar2Access 0 false 1 4 0).wf = false ∧
    (Instr.bar2Access 0 false 0 6 0).wf = false ∧ (Instr.bar2Access 0 false 0 0 0).wf = false ∧
    (Instr.bar2Access 0 false 0 68 0).wf = false ∧ (Instr.bar2Access 0 false 0 64 0).wf = true := by decide

theorem test_wf_header : (Instr.imageStream [0]).wf = false ∧ (Instr.imageStream []).wf = true ∧
    (Instr.imageStream (List.replicate 255 0)).wf = false ∧ (Instr.imageStream (List.replicate 256 0)).wf = true := by decide +kernel

theorem test_wf_switch : (Instr.switchEntry (.course course0) 320 0).wf = false ∧ (Instr.switchEntry (.course course0) 319 0).wf = true ∧
    (Instr.switchEntry (.wall wall0) 1280 0).wf = false ∧ (Instr.switchEntry (.wall wall0) 1279 0).wf = true ∧
    (Instr.switchEntry (.die 0) 5119 0).wf = true := by decide
/-! ### Witnesses of the wider statements -/

/-- O4: a parked device, one in SLUMBER and one without REFCLK; a command of a unit and a request. -/
theorem test_clockless_ready : (st [(A.pwMode, 0, 1)]).clocked = false ∧ (st [(A.pwMode, 0, 1)]).refOk = true ∧
    (st [(A.pwMode, 0, 2)]).clocked = false ∧ (st [(A.pwMode, 0, 1), (A.refDead, 0, 1)]).refOk = false ∧
    unitCommand (.tclkTick) = false ∧ unitCommand (.eval cell0) = true ∧ sender (.stop .pf 0) = some .pf ∧
    (st [(A.pwMode, 0, 1)]).resumed = [] ∧ (st [(A.pwMode, 0, 1)]).entering = false ∧ (st [(A.pwMode, 0, 1)]).actAs = none ∧
    (st [(A.pwMode, 0, 1)]).Awake .pf := ⟨by decide, by decide, by decide, by decide, rfl, rfl, rfl, rfl, by decide, rfl, trivial⟩

/-- R427: PARK holds a request. -/
theorem test_park_holds : ((after (.stop .pf 0) (st [(A.pwMode, 0, 1)])).held.map (·.who)) = [.pf] ∧
    after (.stop .pf 0) (st [(A.pwMode, 0, 2)]) = st [(A.pwMode, 0, 2)] := by decide

/-- O8: a cell, a word unit and a port that read a row of landings that has not arrived. -/
def lateCell : State := cellAt (2 ^ 92 + 2 * 2 ^ 13 + 3)
def lateWord : State := (wordAt (2 ^ 42 + 2 ^ 26 * 0x1003))
def latePort : State := (portAt (2 ^ 58 + 2 ^ 38 + 2 ^ 45 * 3))
def lateLine : State := cellAt (2 ^ 92 + 3 * 2 ^ 13)

theorem test_late_ready : lateCell.votes 0 7 ≠ [] ∧ lateWord.votes 0 7 ≠ [] ∧ latePort.votes 0 7 ≠ [] ∧ lateLine.votes 0 7 ≠ [] ∧
    lateCell.replaying 0 = false ∧ lateCell.clocked = true ∧ lateCell.active 0 = some (0, 7) ∧ lateCell.marked 0 0 = false ∧
    lateCell.slotOfBed 0 = some 0 ∧ lateCell.errOf A.imem 7 ≠ 2 ∧ selSpace (slice (lateCell.cWord cell0 7) 0 16) = 2 ∧
    selSpace (slice (lateLine.cWord cell0 7) 0 16) = 3 ∧ (wopFields (lateWord.wWord bed0 7)).length = 1 ∧
    lateWord.yields 0 7 = 0xFFFF ∧ wopBad (lateWord.wWord bed0 7) = none ∧ latePort.slotOfCourse 0 = some 0 ∧
    gatherBad (latePort.pWord course0 7) = none := by decide

/-- R137: a late item freezes the step, with the cause of a landing or of a port line. -/
theorem test_late_holds : (after (.eval cell0) lateCell).causes = [(0, 1)] ∧ (after (.eval cell0) lateLine).causes = [(0, 2)] ∧
    (after (.eval cell0) lateCell).rd A.pState 0 = 3 := by decide

/-- O9: a word of a port unit that cannot be corrected. -/
theorem test_port_word_bad : ((portAt 0).wr A.err (A.pimem.key 7) 2).MayIssue 2 0 0 0 7 ∧
    ((portAt 0).wr A.err (A.pimem.key 7) 2).errOf A.pimem 7 = 2 := ⟨⟨by decide, by decide, by decide, by decide⟩, by decide⟩

/-- O8: the same late item beside every kind of unit, and a word without an operation. -/
theorem test_late_beside : (latePort.wr A.imem 7 (5 * 2 ^ 92)).votes 0 7 ≠ [] ∧
    slice ((latePort.wr A.imem 7 (5 * 2 ^ 92)).cellWord 0 7) 92 4 = 5 ∧ (latePort.wr A.wimem 7 (2 ^ 42 * 0x3F)).votes 0 7 ≠ [] ∧
    wop ((latePort.wr A.wimem 7 (2 ^ 42 * 0x3F)).wWord bed0 7) = 0x3F ∧ (lateCell.wr A.pimem 7 (2 ^ 58 * 0x3F)).votes 0 7 ≠ [] ∧
    popListed (slice ((lateCell.wr A.pimem 7 (2 ^ 58 * 0x3F)).portWord 0 7) 58 6) = false := by decide

/-- O14: a partition that is STOPPED, with HOLD pulled on its bus and not. -/
def idleOnBus : State := flds [(P 0, PLUMB_CFG_MODE, 1)] ((slotIn 4).wr A.pMembers 0 2)

theorem test_hold_noted : (idleOnBus.combined 0 1).testBit 0 = true ∧ (idleOnBus.combined 0 0).testBit 0 = false ∧
    idleOnBus.loaded 0 = true ∧ idleOnBus.rd A.pState 0 ≠ 2 ∧ idleOnBus.rd A.pState 0 ≠ 3 ∧ (slotIn 2).rd A.pState 0 = 2 ∧
    (after (.holdObserved 0 1) idleOnBus).rd A.remoteHold 0 = 1 := by decide

/-- O15: a member in RUN, in HELD, in IDLE and in SEVERED, at the gate and before it; a bus; a PID that no slot has. -/
theorem test_losses_ready : (slotIn 2).slotOfPid 1 = some 0 ∧ (slotIn 3).slotOfPid 1 = some 0 ∧ (slotIn 5).slotOfPid 1 = some 0 ∧
    (slotIn 1).slotOfPid 1 = some 0 ∧ (slotIn 2).slotOfPid 9 = none ∧ (slotIn 2).rf (P 0) FAULT_STATUS_VALID = 0 ∧
    idleOnBus.plumbMode 0 = 1 ∧ 1 < idleOnBus.rd A.pMembers 0 ∧ (15 : Nat) ≠ idleOnBus.rf 0 PLUMB_BUS_STATUS_BUS_POS ∧
    (slotIn 2).plumbMode 0 ≠ 1 ∧ ((gated.wr A.pBegun 0 1).on A.pGate 0 = true) ∧ (gated.wr A.pBegun 0 1).rd A.pBegun 0 = 1 ∧
    max (nearest 27 ((gated.wr A.pBegun 0 1).posCycle 0) 0) ((gated.wr A.pBegun 0 1).posCycle 0) = (gated.wr A.pBegun 0 1).posCycle 0 ∧
    (st runs).on A.pGate 0 = false ∧ (st runs).rd A.pBegun 0 ≠ 0 ∧ (st runs).on A.pLaunchWait 0 = false ∧
    (slotIn 2).rd A.pBegun 0 = 0 := by decide

/-- R157, R158: the record of a loss by roll call: the position, reason 2 and the own address. -/
theorem test_roll_call : (after (.rollCallLoss 0 3) (flds [(0, CHAIN_STATUS_ADDR, 5)] idleOnBus)).reg (P 0 + oSEVER_INFO) =
    3 + 2 ^ 12 * 2 + 2 ^ 19 * 5 := by decide +kernel

/-- R173: a notice that names a member is recorded with the code and the sender's address. -/
theorem test_stop_notice : (after (.stopNotice 0 1 7 true 9 0) (st runs)).rf (P 0) FAULT_STATUS_FIRST_FROM = 9 ∧
    (after (.stopNotice 0 1 7 true 9 0) (st runs)).rd A.pImm 0 = 1 := by decide

/-- O16: SEC_LOCK and TAMPER_CFG before and after their first write. -/
theorem test_write_once_ready : State.reset.rd A.wlSet oSEC_LOCK = 0 ∧ (State.reset.wr A.wlSet oSEC_LOCK 7).rd A.wlSet oSEC_LOCK ≠ 0 ∧
    State.reset.pfRights .boot = true ∧ State.reset.pfRights .pf = true := by decide

/-- R362: the second write of SEC_LOCK sets nothing and is counted. -/
theorem test_lock_violation :
    (after (.registerWrite .pf oSEC_LOCK 2) (after (.registerWrite .pf oSEC_LOCK 1) State.reset)).reg oSEC_LOCK % 8 = 1 ∧
    (after (.registerWrite .pf oSEC_LOCK 2) (after (.registerWrite .pf oSEC_LOCK 1) State.reset)).rf 0 LOCK_VIOLATION_COUNT = 1 := by
  decide

/-- O18: the word unit's port by a foreign initiator, on a wall that runs, and while Newt has the bed. -/
theorem test_word_refusals_ready : (slotIn 2).rf (D 0) WU_ACC_STATUS_BUSYACC = 0 ∧ ((slotIn 2).wr A.wallOwner 0 1).mayWall (.vf 3) 0 = false ∧
    ((slotIn 2).wr A.wallOwner 0 1).mayWall .pf 0 = true ∧ ((slotIn 2).wr A.wallOwner 0 1).wallServes 0 false = false ∧
    ((slotIn 2).wr A.wallOwner 0 1).wallServes 0 true = false ∧ (slotIn 2).newtOnBed 0 = false := by decide

/-- O11: the four words of a group, of an unassigned wall and of one whose recorder is off. -/
theorem test_bay_group_ready : (∀ j < 4, State.reset.newtServes 0 j = none) ∧ (∀ j < 4, State.reset.errOf A.bay (bayKey 0 j) = 0) ∧
    ((slotIn 1).wr A.wallOwner 0 1).slotOfWall 0 = some 0 ∧ ((slotIn 1).wr A.wallOwner 0 1).recording 0 = false ∧
    ((slotIn 1).wr A.wallOwner 0 1).snapOf 0 = none ∧ ((slotIn 1).wr A.wallOwner 0 1).mayWall (.vf 3) 0 = false := by decide

/-- R189: a 32-byte read takes four words. -/
theorem test_bay_group : (after (.bayServiceRead .pf wall0 32 .b32) ((State.reset.wr A.bay 4 1).wr A.bay 7 2)).rsp.data =
    1 + 2 ^ 192 * 2 := by decide

/-- O19: a module whose lanes two partitions own. -/
def shared : State := { st (runs ++ [(A.pState, 1, 2), (A.pPid, 1, 2), (A.pBegun, 1, 1), (A.pDepth, 1, 8)] ++
  [(A.mOwn 4, 2048 * neighborDie 0 0 + 512 * backModule 0, 0x101), (A.mOwn 4, 2048 * neighborDie 0 0 + 512 * backModule 0 + 1, 0x102)])
    with flight := [] }

theorem test_module_shared : ((List.range 32).filter fun k => (List.range 512).any fun p =>
    decide (shared.laneSlot 4 (2048 * neighborDie 0 0 + 512 * backModule 0 + p) = some k)) = [0, 1] ∧ shared.stoppable 0 = true ∧
    shared.stoppable 1 = true := by decide +kernel

/-- R123: a module transfer with a bad CRC stops every owner of its lanes. -/
theorem test_module_crc : (after (.moduleTransferReceive 0 0 7 false) shared).rd A.pImm 0 = 1 ∧
    (after (.moduleTransferReceive 0 0 7 false) shared).rd A.pImm 1 = 1 := by decide +kernel
/-- O18: the mortar's port at each table, one that has no place, one of another partition, one that runs. -/
def mortarAt (table : Nat) (data : Nat) (l : List (Arr × Nat × Nat)) : State :=
  flds [(D 0, MORTAR_ACC_LOC_TABLE, table), (D 0, MORTAR_ACC_DATA_DATA, data)] (st ([(A.pState, 0, 1), (A.pPid, 0, 1), (A.wallOwner, 0, 1)] ++ l))

theorem test_mortar_refusals_ready : (mortarAt 0 0 []).rf (D 0) MORTAR_ACC_STATUS_BUSYACC = 0 ∧
    mortarPlace 0 ((mortarAt 8 0 []).reg (D 0 + oMORTAR_ACC_LOC)) = none ∧
    mortarPlace 0 ((mortarAt 1 0 []).reg (D 0 + oMORTAR_ACC_LOC)) = some (1, 0, false) ∧
    (mortarAt 1 0 []).mayLane (.vf 3) 1 0 = false ∧ (mortarAt 1 0 []).mayLane .pf 1 0 = true ∧
    (mortarAt 1 0 [(A.pState, 0, 2)]).laneServes 1 0 true = false ∧ (mortarAt 1 0 []).laneServes 1 0 true = true ∧
    (mortarAt 1 0 []).laneServes 1 0 false = true ∧
    decide (slice (2 ^ 13) 13 2 ≠ 0 ∨ 320 ≤ slice (2 ^ 13) 0 13) = true ∧ (mortarAt 1 0 []).laneOwner 1 0 = some 1 ∧
    mEn 1 0x8000 = true := by decide +kernel

/-- O20: a send entry whose lane carries a bit that has not been sent, and one where all have. -/
def sending (taken : List Nat) (l : List (Nat × Fld × Nat)) : State :=
  { flds l linked with flight := [⟨0, 0, .source 0 0, 7, true, taken⟩] }

theorem test_link_bits_ready : ((sending [] []).bitFor 0 (.source 0 0) 7).isSome = true ∧
    ((sending [] []).bitFor 0 (.source 0 0) 7).any (fun b => decide (linkTaker 0 ∉ b.taken)) = true ∧
    ((sending [linkTaker 0] []).bitFor 0 (.source 0 0) 7).any (fun b => decide (linkTaker 0 ∉ b.taken)) = false ∧
    (sending [] []).stoppable 0 = true ∧ (sending [] []).on A.linkDone 7 = false ∧
    ((linked.wr A.linkDone 7 1).on A.linkDone 7) = true := by decide +kernel

/-- O32: a packet whose HBM the partition owns; a row in the copy-on-write buffer, with room in the die's buffer. -/
def inRegion : State := owner1
def thePkt : RecPkt := ⟨0, 0, 1, 0, 5, 7, 18, 0, [9], 24, true, false⟩

theorem test_layout_ready : thePkt.bytes = 8 * ([1, 2] ++ thePkt.body).length ∧ inRegion.l2 = [] ∧
    (∀ j < 3, inRegion.noRoute 0 40 (2 ^ 40 * inRegion.chainAddr + 2 ^ 39 + 8 * j) = none ∧
      inRegion.rf (D (hbmDie (8 * j))) HBM_STATUS_DEGRADED = 0 ∧ inRegion.lineOpen (8 * j) = false ∧
      inRegion.rd A.hbmErr (8 * j / 64) = 0 ∧ inRegion.domOn (hbmDie (8 * j)) domMem = true) := by decide +kernel

/-- R257: the first word of a packet. -/
theorem test_layout : ((st [(A.own, 0, 0x101), (A.pPid, 0, 1)]).pktToHbm thePkt).bytes 0 8 = 1 + 2 ^ 8 + 2 ^ 16 * 3 + 2 ^ 32 * 5 ∧
    ((st [(A.own, 0, 0x101), (A.pPid, 0, 1)]).pktToHbm thePkt).bytes 16 8 = 9 := by decide +kernel

def cowRow : CowRow := ⟨A.state.key (65536 + 4096 * 2 + 256 * 3 + 9), 7, 0, 1, 2, false⟩
def cowing : State := { slotIn 2 with snaps := [⟨0, 8, false, [cowRow], [], 0, false⟩] }

theorem test_cow_ready : cowing.snapOf 0 = some ⟨0, 8, false, [cowRow], [], 0, false⟩ ∧ cowing.bufBytes 0 + 32 ≤ 256 * 1024 ∧
    (([cowRow] : List CowRow).filter fun y => y.drained = false) = [cowRow] := by decide +kernel

/-- R258: the descriptor of a saved row, wall 1, course 2, bed 0, row 3 of 9. -/
theorem test_cow : ((after (.cowBufferDrained 0 1) cowing).recLog.map (·.body)) =
    [[2 ^ 4 + 2 ^ 8 * 2 + 2 ^ 16 + 2 ^ 18 * (256 * 3 + 9) + 2 ^ 36, 7]] := by decide +kernel

/-- O32: the feed of each packet type, of a slot whose walls and units stand for themselves. -/
def feeding (l : List (Arr × Nat × Nat)) : State := st (runs ++ [(A.mapWall, 0, 1), (A.mapUnit, 0, 1)] ++ l)

theorem test_fed_ready : (feeding []).wallFor 0 0 = some 0 ∧ (feeding []).unitFor 0 0 = some 0 ∧
    (feeding []).rf (P 0) REC_REPLAY_LIVE_LINKS = 0 ∧ (flds [(P 0, REC_REPLAY_LIVE_LINKS, 1)] (feeding [])).rf (P 0) REC_REPLAY_LIVE_LINKS = 1 := by
  decide +kernel

/-- R258: a landing, two lines of a port and a table. -/
theorem test_fed : ((feeding []).feedPkt 0 ⟨0, 0, 8, 0, 0, 7, 0, 0, [0, 2 ^ 32 * 5 + 2 ^ 16 * 3 + 1], 32, true, false⟩).rd A.land (landKey 0 0 5) = 1 ∧
    ((feeding []).feedPkt 0 ⟨0, 0, 9, 0, 0, 7, 0, 0, [2 ^ 20 * 2 + 2 ^ 16 * 3, 6, 70, 80], 48, true, false⟩).rd A.port (portKey 0 2 4) = 80 ∧
    ((feeding []).feedPkt 0 ⟨0, 0, 0xB, 0, 0, 7, 0, 0, [2 + 2 ^ 13, 4, 5], 40, true, false⟩).rd A.esTab 1 = 5 := by decide +kernel

/-- O33: the grounds CONFINE, FIELD, OVERLAP and SHORT, each alone. -/
theorem test_arm_grounds : (st runs).unitOwner 0 = none ∧ (unit0 []).unitOwner 0 = some 1 ∧
    (9 ≤ (unit0 [(TU 0, TRIG_SEQ_COND, 9)]).rf (TU 0) TRIG_SEQ_COND) ∧
    (after (.trigArm .pf 0 0) (unit0 [(TU 1, TRIG_CTRL_STATE, 2), (TU 1, TRIG_CAP_CFG_SIZE_M1, 1)])).rf (TU 0) TRIG_CTRL_RESULT = 3 ∧
    (unit0 []).capWords 0 = [] := by decide +kernel

/-- O36: a lane that has block lock and the peer's capabilities at another rate than the port's; one that falls back. -/
def lateLane (l : List (Nat × Fld × Nat)) : State := flds ([(LN 0 0, LANE_STATUS_STATE, 1), (LN 0 0, LANE_STATUS_BLK_LOCK, 1)] ++ l) State.reset

theorem test_lane_waits : (lateLane []).rf (LN 0 0) LANE_STATUS_BLK_LOCK = 1 ∧ (lateLane []).rf (LN 0 0) LANE_STATUS_CAPS_VALID = 0 ∧
    (lateLane [(LN 0 0, LANE_STATUS_CAPS_VALID, 1)]).rf (LN 0 0) LANE_STATUS_CAPS_VALID = 1 := by decide +kernel

/-- O45: a device without its clocks, with a launch without a partition that is due, and with REFCLK gone. -/
theorem test_fire_asleep : ((launching 1 (2 ^ 3 + 4) 0 [(A.pwMode, 0, 2)]).powered = true) ∧ (launching 1 (2 ^ 3 + 4) 0 [(A.pwMode, 0, 2)]).clocked = false ∧
    (launching 1 (2 ^ 3 + 4) 0 [(A.refGone, 0, 1)]).on A.refGone 0 = true ∧ (launching 1 (2 ^ 3 + 4) 0 [(A.shState, devShadow, 1), (A.shOver, devShadow, 1)]).on A.shOver devShadow = true ∧
    (after (.launchFire 0) (launching 1 (2 ^ 3 + 4) 0 [(A.pwMode, 0, 2)])).rd A.lnState 0 = 0 := by decide +kernel

/-- O48: a request with several parts, one that is for another device, and a route of the firmware. -/
def parted : Outst := { outs 5 0 true false 0 0 with size := 8, step := 4 }

theorem test_parts_ready : (asking [parted]).outstOf 0 5 0 = some parted ∧ ¬ parted.size ≤ parted.done + parted.step ∧
    tabled.noRoute 0 46 0 = some (0, 46) ∧ State.reset.noRoute 0 46 0 = none ∧
    (st [(A.enCount, 0, 2)]).rd A.enCount 0 = 2 ∧ (∀ p < 16, State.reset.portUp p = false) ∧
    (∀ p < 16, ((List.range 16).foldl (fun s p => s.wf (PT p) PORT_STATUS_UP 1) (st [(A.enCount, 0, 2)])).portUp p = true) := by decide +kernel

/-- R387: after the answer to the first part the second one follows. -/
theorem test_second_part : ((after (.cnResponse 0 5 0 0 0 ⟨0, 9⟩) (asking [parted])).outst.map fun o => (o.done, o.got)) = [(4, 9)] := by
  decide +kernel

/-- O48: a request whose die has no route on from NI 42. -/
theorem test_no_onward_route : (∀ e < 64, (st [(A.cnMatch, routeIx 0 45 0, 2 ^ 31)]).routeMatch (routeIx 1 42 e) (2 ^ 22) = false) ∧
    (st [(A.cnMatch, routeIx 0 45 0, 2 ^ 31)]).routeMatch (routeIx 0 45 0) 0 = true := by decide +kernel

/-- O49: a core of partition 1 and a granule of partition 1, a clean line of another die. -/
theorem test_core_line_ready : (st [(A.own, 0, 0x101), (A.coreBind, 0, 0x101)]).reachesHbm ((st [(A.own, 0, 0x101), (A.coreBind, 0, 0x101)]).stamp (.core 0 0)) 0 = true ∧
    (st [(A.own, 0, 0x102), (A.coreBind, 0, 0x101)]).reachesHbm ((st [(A.own, 0, 0x102), (A.coreBind, 0, 0x101)]).stamp (.core 0 0)) 0 = false := by
  decide +kernel

/-- O50: a pseudo-channel that is next and due, one whose stack has moved by 10 °C, and neither. -/
def stack (ms temp : Nat) (l : List (Arr × Nat × Nat)) : State :=
  flds [(D 0, HBM_STATUS_TRAINED, 1), (D 0, HBM_CFG_RETRAIN_MS, ms), (D 0, HBM_STATUS_TEMP_C, temp)] (clk 0 5000000 (st l))

theorem test_retrain_ready : (stack 5 0 []).rf (D 0) HBM_CFG_RETRAIN_MS ≠ 0 ∧ (1 : Nat) = ((stack 5 0 []).rf (D 0) HBM_STATUS_LAST_PC + 1) % 32 ∧
    (stack 5 0 []).rd A.pcAt 0 + 1000000 * (stack 5 0 []).rf (D 0) HBM_CFG_RETRAIN_MS ≤ (stack 5 0 []).pair oMONO_NS_LO ∧
    10 ≤ ((BitVec.ofNat 8 ((stack 0 10 []).rf (D 0) HBM_STATUS_TEMP_C)).toInt - (BitVec.ofNat 8 0).toInt).natAbs ∧
    after (.pseudoChannelRetrain 0 1) (stack 0 9 []) = stack 0 9 [] := by decide +kernel

/-- O53: an entry past DRAIN, in which CANCEL is held. -/
theorem test_cancel_held : (sleeping 2 2 0 0 []).entering = true ∧ (sleeping 2 2 0 0 []).resumed = [] ∧ (sleeping 2 2 0 0 []).actAs = none ∧
    (after (.cancel .pf) (sleeping 2 2 0 0 [])).rd A.pwWake 0 = 6 := by decide +kernel

/-- O59: a vector of a VF that is there and of one that is not; a flag route whose task waits for it, and one that is another's. -/
theorem test_routed_ready : slice ((st [(A.evtVec, 0x500, 1 + 2)]).rd A.evtVec 0x500) 1 6 = 1 ∧ (sources 0 []).loaded 0 = true ∧
    (sources 0 []).evtOwner 0x500 = some ((sources 0 []).rd A.pPid 0) ∧ slice ((sources 0 [(A.evtFlag, 7, 1)]).rd A.evtFlag 7) 0 1 = 1 ∧
    (sources 0 [(A.tState, 0, 1), (A.tMaskNow, 0, 1)]).rd A.tState 0 = 1 ∧
    taskMet ((sources 0 [(A.tState, 0, 1), (A.tMaskNow, 0, 1)]).rd A.tMaskNow 0) 0 (2 ^ 0) = true ∧ (sources 0 []).evtOwner 0x5BB = none ∧
    (sources 0 [(A.tState, 0, 1), (A.tMaskNow, 0, 1), (A.evtFlag, 0x5BB, 1)]).rd A.evtFlag 0x5BB = 1 := by decide +kernel

/-- R472: the routed flag wakes its task. -/
theorem test_routed_flag : ((sources 0 [(A.tState, 0, 1), (A.tMaskNow, 0, 1), (A.evtFlag, 0x5BB, 1)]).raise 0x5BB).rd A.tState 0 = 2 := by
  decide +kernel

/-- The devices of these witnesses serve the physical function, and a core that is not stalled. -/
theorem test_serving_more : (mortarAt 1 0 []).Serving .pf ∧ ((slotIn 2).wr A.wallOwner 0 1).ServingDom .pf 0 domFab ∧
    ((slotIn 1).wr A.wallOwner 0 1).ServingDom .pf 0 domMem ∧ (mortarAt 1 0 []).domOn 0 domLink = true ∧
    (st [(A.own, 0, 0x101), (A.coreBind, 0, 0x101)]).ServingDom (.core 0 0) 0 domMem := by
  refine ⟨serving_of (by decide +kernel), servingDom_of (by decide) (by decide), servingDom_of (by decide) (by decide), by decide, ?_, by decide⟩
  exact ⟨by decide, by decide, routed_of (by decide) (by decide), (by decide : State.on _ A.coreIdle 0 = false), rfl,
    by decide, rfl⟩

end Sys2Proof.Tests
end

/-! SUPPORT and CERTIFICATE. Cell instructions and late items (O8): what a freeze of a step leaves unchanged, how every unit
meets a late item, which items are votes, and the cell instructions at their own place and step. -/

namespace Sys2Proof.Machine

open Reg

/-! ### What a freeze leaves unchanged (R48, R137) -/

/-- `v` differs from `s` in the arrays of `codes` and in the symbols that wait to be sent, and in nothing else. -/
structure State.Beside (codes : List Nat) (s v : State) : Prop where
  rest : v = { s with arr := v.arr, symOut := v.symOut }
  arrays : ∀ (a : Arr) (i : Nat), a.code % 512 ∉ codes → v.rd a i = s.rd a i

theorem State.Beside.refl (codes : List Nat) (s : State) : s.Beside codes s := ⟨rfl, fun _ _ _ => rfl⟩

theorem State.Beside.trans {codes : List Nat} {s u v : State} (h : s.Beside codes u) (h' : u.Beside codes v) :
    s.Beside codes v where
  rest := by rw [h'.rest, h.rest]
  arrays a i ha := (h'.arrays a i ha).trans (h.arrays a i ha)

theorem State.Beside.mono {codes more : List Nat} {s v : State} (h : s.Beside codes v) (hm : codes ⊆ more) :
    s.Beside more v := ⟨h.rest, fun a i ha => h.arrays a i fun hc => ha (hm hc)⟩

/-- The state with other late items and hold causes. -/
def State.withHold (s : State) (l : List LateItem) (c : List (Nat × Nat)) : State := { s with late := l, causes := c }

theorem State.Beside.withHold {codes : List Nat} {s v : State} (h : s.Beside codes v) (l : List LateItem)
    (c : List (Nat × Nat)) : State.Beside codes (s.withHold l c) (v.withHold l c) where
  rest := by rw [State.withHold, h.rest]; rfl
  arrays := h.arrays

theorem beside_wr {codes : List Nat} {s v : State} {a : Arr} (h : s.Beside codes v) (ha : a.code % 512 ∈ codes)
    (i x : Nat) : s.Beside codes (v.wr a i x) :=
  h.trans ⟨rfl, fun _ _ hb => State.rd_wr_arr _ _ _ _ _ _ fun e => hb (e ▸ ha)⟩

theorem beside_foldl {α : Type} {codes : List Nat} {f : State → α → State} (hf : ∀ (u : State) x, u.Beside codes (f u x))
    (l : List α) (s : State) : s.Beside codes (l.foldl f s) := by
  induction l generalizing s with
  | nil => exact .refl ..
  | cons x r ih => exact (hf s x).trans (ih _)

theorem beside_ite {codes : List Nat} {p : Prop} [Decidable p] {s u v : State} (hu : s.Beside codes u)
    (hv : s.Beside codes v) : s.Beside codes (if p then u else v) := by
  split
  · exact hu
  · exact hv

theorem State.Beside.replaying_eq {codes : List Nat} {s v : State} (h : s.Beside codes v) (h0 : 0 ∉ codes) (k : Nat) :
    v.replaying k = s.replaying k := by
  have e : v.rf (P k) REC_REPLAY_REPLAY = s.rf (P k) REC_REPLAY_REPLAY := by
    simp only [State.rf, State.reg, h.arrays A.reg _ h0]
  rw [State.replaying, e, State.replaying]

/-! ### The plumb's side of a hold cause -/

/-- The arrays of the plumb states that a device has sent (R150). -/
def plumbCodes : List Nat := [62, 64]

theorem sendSym_beside (codes : List Nat) (s : State) (p : Nat) (y : Sym) : s.Beside codes (s.sendSym p y) :=
  beside_ite ⟨rfl, fun _ _ _ => rfl⟩ (.refl ..)

theorem plumbSync_beside (s : State) (pid : Nat) : s.Beside plumbCodes (s.plumbSync pid) := by
  unfold State.plumbSync
  dsimp only
  split
  · exact .refl ..
  · have sent := beside_wr (.refl plumbCodes s) (a := A.plumbSent) (by decide) pid (s.plumbMine pid)
    split
    · exact sent.trans (sendSym_beside ..)
    · exact (beside_wr sent (a := A.plumbDown) (by decide) _ _).trans (beside_foldl (fun u p => sendSym_beside _ u p _) _ _)

theorem pullsChanged_beside (s : State) (k : Nat) : s.Beside plumbCodes (s.pullsChanged k) :=
  beside_ite (plumbSync_beside ..) (.refl ..)

/-- Hold cause `c` of slot `k` becomes present where `p` holds. -/
def State.causeIf (s : State) (p : Bool) (k c : Nat) : State := if p then s.addCause k c else s

theorem addCause_beside (s : State) (k c : Nat) :
    State.Beside plumbCodes { s with causes := (s.addCause k c).causes } (s.addCause k c) := by
  unfold State.addCause
  split
  · exact .refl ..
  · have h := pullsChanged_beside { s with causes := s.causes ++ [(k, c)] } k
    rw [congrArg State.causes h.rest]
    exact h

theorem causeIf_beside (s : State) (p : Bool) (k c : Nat) :
    State.Beside plumbCodes { s with causes := (s.causeIf p k c).causes } (s.causeIf p k c) := by
  unfold State.causeIf
  split
  · exact addCause_beside ..
  · exact .refl ..

theorem addCause_causes (s : State) (k c : Nat) (h : ¬ s.hasCause k c = true) :
    (s.addCause k c).causes = s.causes ++ [(k, c)] := by
  rw [State.addCause, if_neg h]
  exact congrArg State.causes (pullsChanged_beside _ k).rest

theorem addCause_hasCause (s : State) (k c j d : Nat) :
    (s.addCause k c).hasCause j d = (s.hasCause j d || decide ((j, d) = (k, c))) := by
  by_cases h : s.hasCause k c = true
  · rw [State.addCause, if_pos h]
    by_cases e : (j, d) = (k, c)
    · obtain ⟨rfl, rfl⟩ := Prod.mk.inj e
      simp [h]
    · simp [e]
  · rw [State.hasCause, addCause_causes s k c h, List.contains_append]
    simp [State.hasCause]

theorem causeIf_hasCause (s : State) (p : Bool) (k c j d : Nat) :
    (s.causeIf p k c).hasCause j d = (s.hasCause j d || p && decide ((j, d) = (k, c))) := by
  cases p
  · simp [State.causeIf]
  · simp [State.causeIf, addCause_hasCause]

theorem causeIf_late (s : State) (p : Bool) (k c : Nat) : (s.causeIf p k c).late = s.late :=
  (congrArg State.late (causeIf_beside s p k c).rest :)

theorem causeIf_replaying (s : State) (p : Bool) (k c j : Nat) : (s.causeIf p k c).replaying j = s.replaying j :=
  (causeIf_beside s p k c).replaying_eq (by decide) j

/-! ### The counts of corrected errors (R170) -/

/-- `v` differs from `s` in registers alone, and replays the same slots. -/
def State.Counts (s v : State) : Prop := s.Beside [A.reg.code] v ∧ ∀ k, v.replaying k = s.replaying k

theorem State.Counts.refl (s : State) : s.Counts s := ⟨.refl .., fun _ => rfl⟩

theorem State.Counts.trans {s u v : State} (h : s.Counts u) (h' : u.Counts v) : s.Counts v :=
  ⟨h.1.trans h'.1, fun k => (h'.2 k).trans (h.2 k)⟩

theorem counts_foldl {α : Type} {f : State → α → State} (hf : ∀ (u : State) x, u.Counts (f u x)) (l : List α) (s : State) :
    s.Counts (l.foldl f s) := by
  induction l generalizing s with
  | nil => exact .refl s
  | cons x r ih => exact (hf s x).trans (ih _)

theorem counts_ite {p : Prop} [Decidable p] {s u v : State} (hu : s.Counts u) (hv : s.Counts v) :
    s.Counts (if p then u else v) := by
  split
  · exact hu
  · exact hv

/-- A counter of a die is no register of a partition: their offsets differ within 4 KiB. -/
theorem counts_cnt (s : State) (d : Nat) {f : Fld} (hf : f.off = 0x40024) (n : Nat) : s.Counts (s.cnt (D d) f n) := by
  refine ⟨beside_wr (.refl ..) (by decide) _ _, fun k => ?_⟩
  unfold State.replaying State.cnt
  rw [State.rf_wf_reg]
  simp only [hf, D, P, Off.die, Off.part, REC_REPLAY_REPLAY]
  omega

theorem countCe_counts (s : State) (die : Nat) (a : Arr) (i : Nat) : s.Counts (s.countCe die a i) :=
  counts_ite (counts_cnt s die rfl 1) (.refl s)

theorem selCe_counts (s : State) (k bed sel : Nat) : s.Counts (s.selCe k bed sel) := by
  unfold State.selCe
  dsimp only
  split
  · exact countCe_counts ..
  · exact countCe_counts ..
  · exact .refl s

theorem wopCe_counts (s : State) (bed f : Nat) : s.Counts (s.wopCe bed f) :=
  counts_ite (countCe_counts ..) (.refl s)

theorem frozenCe_counts (s : State) (k t : Nat) : s.Counts (s.frozenCe k t) := by
  unfold State.frozenCe
  refine (counts_foldl (fun u x => ?_) _ s).trans (counts_foldl (fun u x => ?_) _ _)
  · exact counts_ite (counts_cnt u x.1 rfl 1) (.refl u)
  · refine counts_ite (.refl u) (counts_ite (counts_ite ?_ (.refl u)) (counts_ite (counts_ite ?_ (.refl u))
      (counts_ite (counts_ite ?_ (.refl u)) (.refl u))))
    · exact counts_foldl (fun u sel => selCe_counts u k _ sel) _ u
    · exact counts_foldl (fun u f => wopCe_counts u _ f) _ u
    · exact countCe_counts ..

/-! ### The freeze of a step (R48, R137, R144) -/

/-- The arrays that a freeze writes: registers, the plumb states sent, and the slot's state, frozen step and hold timer. -/
def heldCodes : List Nat := [0, 62, 64, 30, 36, 49, 51, 69]

theorem enterHeld_beside (s : State) (k : Nat) : s.Beside heldCodes (s.enterHeld k) := by
  refine beside_wr (beside_wr (beside_wr (beside_wr (beside_wr (.refl ..) ?_ _ _) ?_ _ _) ?_ _ _) ?_ _ _) ?_ _ _ <;> decide

theorem enterHeld_pState (s : State) (k : Nat) : (s.enterHeld k).rd A.pState k = 3 := by
  simp [State.enterHeld, State.cnt]

theorem enterHeld_holdTimer (s : State) (k : Nat) : (s.enterHeld k).rd A.holdTimer k = 0 := by
  simp [State.enterHeld]

theorem enterHeld_pFrozen (s : State) (k : Nat) : (s.enterHeld k).rd A.pFrozen k = s.rd A.pFrozen k := by
  simp [State.enterHeld, State.cnt]

theorem enterHeld_hasCause (s : State) (k j d : Nat) : (s.enterHeld k).hasCause j d = s.hasCause j d := rfl

/-- What a freeze of slot `k` on `items` has done before the slot is HELD: the items kept, cause 1 for a landing and
cause 2 for a port line (R136). -/
def State.lateCauses (s : State) (k t : Nat) (items : List LateItem) : State :=
  (State.causeIf { s.frozenCe k t with late := s.late ++ items } (items.any fun x => x.kind ≠ 1) k 1).causeIf
    (items.any fun x => x.kind = 1) k 2

/-- Outside a replay no item waits for the feed. -/
theorem fedItem_live {s : State} {k : Nat} (h : s.replaying k = false) (i : LateItem) : s.fedItem k i = false := by
  simp [State.fedItem, h]

theorem fedItem_split_live {s : State} {k : Nat} (h : s.replaying k = false) (p : LateItem → Prop) [DecidablePred p] :
    (fun i => decide (p i ∧ ¬ s.fedItem k i = true)) = fun i => decide (p i) := by
  funext i
  simp [fedItem_live h]

/-- A freeze outside a replay. -/
theorem freeze_live {s : State} {k : Nat} (h : s.replaying k = false) (t : Nat) (items : List LateItem) :
    s.freeze k t items = ((s.lateCauses k t items).wr A.pFrozen k 1).enterHeld k := by
  have live : State.replaying { s.frozenCe k t with late := s.late ++ items } k = false :=
    ((frozenCe_counts s k t).2 k).trans h
  unfold State.freeze State.lateCauses
  generalize ({ s.frozenCe k t with late := s.late ++ items } : State) = u at live ⊢
  have live1 : (u.causeIf (items.any fun x => x.kind ≠ 1) k 1).replaying k = false := (causeIf_replaying ..).trans live
  dsimp only
  have fed : ¬ items.any (u.fedItem k) = true := by simp [fedItem_live live]
  rw [if_neg fed, fedItem_split_live live]
  unfold State.causeIf at live1 ⊢
  rw [fedItem_split_live live1]

theorem lateCauses_beside (s : State) (k t : Nat) (items l : List LateItem) (c : List (Nat × Nat)) :
    State.Beside heldCodes (s.withHold l c) ((s.lateCauses k t items).withHold l c) := by
  have plumb : plumbCodes ⊆ heldCodes := by decide
  have counted : State.Beside heldCodes (s.withHold l c) ((s.frozenCe k t).withHold l c) :=
    ((frozenCe_counts s k t).1.mono (by decide)).withHold l c
  refine counted.trans ?_
  unfold State.lateCauses
  generalize s.frozenCe k t = u
  have landing := ((causeIf_beside { u with late := s.late ++ items } (items.any fun x => x.kind ≠ 1) k 1).mono
    plumb).withHold l c
  have port := ((causeIf_beside (State.causeIf { u with late := s.late ++ items } (items.any fun x => x.kind ≠ 1) k 1)
    (items.any fun x => x.kind = 1) k 2).mono plumb).withHold l c
  exact landing.trans port

/-- Beside the late items and the hold causes, a freeze changes the arrays of `heldCodes` alone. -/
theorem freeze_beside {s : State} {k : Nat} (h : s.replaying k = false) (t : Nat) (items l : List LateItem)
    (c : List (Nat × Nat)) : State.Beside heldCodes (s.withHold l c) ((s.freeze k t items).withHold l c) := by
  refine (lateCauses_beside s k t items l c).trans ?_
  rw [freeze_live h]
  exact ((beside_wr (.refl heldCodes _) (a := A.pFrozen) (by decide) k 1).trans (enterHeld_beside _ k)).withHold l c

theorem freeze_late {s : State} {k : Nat} (h : s.replaying k = false) (t : Nat) (items : List LateItem) :
    (s.freeze k t items).late = s.late ++ items := by
  rw [freeze_live h]
  exact (causeIf_late ..).trans (causeIf_late ..)

theorem freeze_hasCause {s : State} {k : Nat} (h : s.replaying k = false) (t : Nat) (items : List LateItem) (j d : Nat) :
    (s.freeze k t items).hasCause j d = (s.hasCause j d || (items.any fun x => x.kind ≠ 1) && decide ((j, d) = (k, 1)) ||
      (items.any fun x => x.kind = 1) && decide ((j, d) = (k, 2))) := by
  have counted : State.hasCause { s.frozenCe k t with late := s.late ++ items } j d = s.hasCause j d :=
    (congrArg (fun u => State.hasCause u j d) (frozenCe_counts s k t).1.rest :)
  rw [freeze_live h, enterHeld_hasCause, ← counted, ← causeIf_hasCause, ← causeIf_hasCause]
  rfl

/-- The unit state that a held step leaves alone (R48): positions, histories, shadows, slots, tags, stores and flags. -/
def heldArrays : List Arr := [A.pStep, A.pCycle, A.hist, A.wflag, A.shadow, A.state, A.probe, A.slotR, A.tagOut, A.gen,
  A.port, A.portP, A.land, A.landP]

/-- `v` is `s` held at its present step on `items`: HELD and frozen, the items kept with their causes, and nothing
written, sent or issued (R48, R137). -/
def State.HeldOn (s v : State) (k : Nat) (items : List LateItem) : Prop :=
  v.rd A.pState k = 3 ∧ v.rd A.pFrozen k = 1 ∧ v.rd A.holdTimer k = 0 ∧ v.late = s.late ++ items ∧
  (∀ a ∈ heldArrays, ∀ j, v.rd a j = s.rd a j) ∧
  v.histPend = s.histPend ∧ v.issued = s.issued ∧ v.bayReq = s.bayReq ∧ v.mme = s.mme ∧ v.portalMsg = s.portalMsg ∧
  v.portalRec = s.portalRec ∧ v.flight = s.flight ∧ v.packets = s.packets ∧ v.mem = s.mem ∧
  v.hasCause k 1 = (s.hasCause k 1 || items.any fun x => x.kind ≠ 1) ∧
  v.hasCause k 2 = (s.hasCause k 2 || items.any fun x => x.kind = 1) ∧
  (∀ j d, (j, d) ≠ (k, 1) → (j, d) ≠ (k, 2) → v.hasCause j d = s.hasCause j d)

theorem heldArrays_codes {a : Arr} (ha : a ∈ heldArrays) : a.code % 512 ∉ heldCodes := by
  simp only [heldArrays, List.mem_cons, List.not_mem_nil, or_false] at ha
  rcases ha with rfl | rfl | rfl | rfl | rfl | rfl | rfl | rfl | rfl | rfl | rfl | rfl | rfl | rfl <;> decide

/-- What stays where a state differs in the arrays of `heldCodes`, the symbols to be sent, the late items and the causes. -/
theorem State.Beside.kept {s v : State} {l : List LateItem} {c : List (Nat × Nat)}
    (h : State.Beside heldCodes (s.withHold l c) (v.withHold l c)) :
    (∀ a ∈ heldArrays, ∀ j, v.rd a j = s.rd a j) ∧ v.histPend = s.histPend ∧ v.issued = s.issued ∧ v.bayReq = s.bayReq ∧
    v.mme = s.mme ∧ v.portalMsg = s.portalMsg ∧ v.portalRec = s.portalRec ∧ v.flight = s.flight ∧ v.packets = s.packets ∧
    v.mem = s.mem := by
  obtain ⟨rest, arrays⟩ := h
  exact ⟨fun a ha j => arrays a j (heldArrays_codes ha), (congrArg State.histPend rest :), (congrArg State.issued rest :),
    (congrArg State.bayReq rest :), (congrArg State.mme rest :), (congrArg State.portalMsg rest :),
    (congrArg State.portalRec rest :), (congrArg State.flight rest :), (congrArg State.packets rest :),
    (congrArg State.mem rest :)⟩

theorem freeze_heldOn {s : State} {k : Nat} (h : s.replaying k = false) (t : Nat) (items : List LateItem) :
    s.HeldOn (s.freeze k t items) k items := by
  obtain ⟨arrays, hist, issued, bay, mme, msg, recs, flight, packets, mem⟩ := (freeze_beside h t items [] []).kept
  refine ⟨?_, ?_, ?_, freeze_late h t items, arrays, hist, issued, bay, mme, msg, recs, flight, packets, mem, ?_, ?_,
    fun j d h1 h2 => ?_⟩
  · rw [freeze_live h, enterHeld_pState]
  · rw [freeze_live h, enterHeld_pFrozen, State.rd_wr_same]
    rfl
  · rw [freeze_live h, enterHeld_holdTimer]
  · simp [freeze_hasCause h]
  · simp [freeze_hasCause h]
  · simp only [freeze_hasCause h, decide_eq_false h1, decide_eq_false h2, Bool.and_false, Bool.or_false]

/-! ### A unit in a step with a late item (R137) -/

/-- The step is frozen, whatever the unit would have done. -/
theorem voted_late {s : State} {k t : Nat} (h : s.votes k t ≠ []) (go : State) :
    s.voted k t go = s.freeze k t (s.votes k t) := by
  unfold State.voted
  split
  · exact absurd ‹_› h
  · rfl

/-- The turn of a unit that has not issued in the step its partition performs. -/
theorem unit_turn {s : State} {kind place wall k t : Nat} (ha : s.active wall = some (k, t))
    (hm : s.marked kind place = false) (f : Nat → Nat → State) : s.unit kind place wall f = f k t := by
  simp [State.unit, ha, hm]

theorem cellIssue_late {s : State} {c : CellLoc} {k t : Nat} {p : Nat → Bool} {f : Nat → Nat → Nat → State → State}
    (ha : s.active (wallIx c.toWallLoc) = some (k, t)) (hm : s.marked 0 (cellIx c) = false) (hv : s.votes k t ≠ [])
    (hp : p (slice (s.cellWord (cellIx c) t) 92 4) = true) : s.cellIssue c p f = s.freeze k t (s.votes k t) := by
  rw [State.cellIssue, unit_turn ha hm, if_pos hp, voted_late hv]

theorem wordIssue_late {s : State} {b : BedLoc} {k t : Nat} {p : Nat → Bool} {f : WFun}
    (ha : s.active (wallIx b.toWallLoc) = some (k, t)) (hm : s.marked 1 (bedIx b) = false) (hv : s.votes k t ≠ [])
    (hp : p (wop (s.wWord b t)) = true ∨ s.errOf A.wimem (512 * bedIx b + t) = 2) :
    s.wordIssue b p f = s.freeze k t (s.votes k t) := by
  rw [State.wordIssue, unit_turn ha hm]
  by_cases bad : s.errOf A.wimem (512 * bedIx b + t) = 2
  · rw [if_pos bad, voted_late hv]
  · have hp : p (wop (s.rd A.wimem (512 * bedIx b + t))) = true := hp.resolve_right bad
    rw [if_neg bad, if_neg (not_not_intro hp), voted_late hv]

theorem portIssue_late {s : State} {u : CourseLoc} {k t : Nat} {p : Nat → Bool} {f : Nat → Nat → Nat → State → State}
    (ha : s.active (wallIx u.toWallLoc) = some (k, t)) (hm : s.marked 2 (courseIx u) = false) (hv : s.votes k t ≠ [])
    (hp : p (slice (s.portWord (courseIx u) t) 58 6) = true) : s.portIssue u p f = s.freeze k t (s.votes k t) := by
  rw [State.portIssue, unit_turn ha hm, if_pos hp, voted_late hv]

/-! ### The instructions of the units as issues -/

/-- What a unit does while its clock runs (R417). -/
theorem live_next {s : State} (hc : s.clocked = true) (g : State → State) : s.live (fun s => .next (g s)) = .next (g s) :=
  State.live_on hc _

theorem exec_cellOp {s : State} {c : CellLoc} {o : Nat × Instr} (hc : s.clocked = true) (h : CellOp c o) :
    ∃ f, exec o.2 s = .next (s.cellIssue c (· = o.1) f) := by
  simp only [CellOp, List.mem_cons, List.not_mem_nil, or_false] at h
  rcases h with rfl | rfl | rfl | rfl <;> exact ⟨_, live_next hc fun s => s.cellIssue c _ _⟩

theorem exec_wordOp {s : State} {b : BedLoc} {o : Nat × Instr} (hc : s.clocked = true) (h : WordOp b o) :
    ∃ f, exec o.2 s = .next (s.wordIssue b (· = o.1) f) := by
  simp only [WordOp, List.mem_cons, List.not_mem_nil, or_false] at h
  rcases h with rfl | rfl | rfl | rfl | rfl | rfl | rfl | rfl | rfl | rfl | rfl | rfl | rfl | rfl | rfl | rfl | rfl | rfl |
    rfl | rfl | rfl | rfl | rfl | rfl | rfl | rfl | rfl <;> exact ⟨_, live_next hc fun s => s.wordIssue b _ _⟩

theorem exec_portOp {s : State} {u : CourseLoc} {o : Nat × Instr} (hc : s.clocked = true) (h : PortOp u o) :
    ∃ f, exec o.2 s = .next (s.portIssue u (· = o.1) f) := by
  simp only [PortOp, List.mem_cons, List.not_mem_nil, or_false] at h
  rcases h with rfl | rfl | rfl | rfl | rfl | rfl | rfl | rfl | rfl | rfl <;> exact ⟨_, live_next hc fun s => s.portIssue u _ _⟩

/-! ### The late items of a step (R48, R62, R72, R90) -/

theorem Sparse.mem_of_get {α : Type} {d : α} {m : List (Nat × α)} {k : Nat} (h : Sparse.get d m k ≠ d) :
    (k, Sparse.get d m k) ∈ m := by
  induction m with
  | nil => exact absurd rfl h
  | cons e r ih =>
    obtain ⟨j, v⟩ := e
    simp only [Sparse.get] at h ⊢
    split at h
    · subst j; simp
    · rename_i hj
      rw [if_neg hj]
      exact List.mem_cons_of_mem _ (ih h)

theorem key_code {a : Arr} (ha : a.code < 512) (i : Nat) : a.key i % 512 = a.code := by
  simp only [Arr.key]; omega

theorem key_index {a : Arr} (ha : a.code < 512) (i : Nat) : a.key i / 512 = i := by
  simp only [Arr.key]; omega

/-- An entry of an instruction memory that is not 0 is listed in the store. -/
theorem listed_of_rd {s : State} {a : Arr} {i : Nat} (ha : a.code < 512) (h0 : a.code ≠ 0) (h76 : a.code ≠ 76)
    (h : s.rd a i ≠ 0) : ∃ v, (a.key i, v) ∈ s.arr ∧ v % 2 ^ a.width = s.rd a i := by
  have hd : dflt (a.key i) = 0 := by simp [dflt, key_code ha, h0, h76]
  refine ⟨_, Sparse.mem_of_get (d := 0) fun hz => h ?_, ?_⟩
  · simp [State.rd, hd, hz]
  · simp [State.rd, hd]

/-- A mask of lanes or lines with a flag clear is late. -/
theorem flags_missing {m f : Nat} (hm : m < 2 ^ 16) (h : f &&& m ≠ m) : m &&& (0xFFFF ^^^ f) ≠ 0 := by
  intro hz
  refine h (Nat.eq_of_testBit_eq fun i => ?_)
  have bit := congrArg (Nat.testBit · i) hz
  by_cases hi : i < 16
  · have full : Nat.testBit 0xFFFF i = true := by
      rw [show (0xFFFF : Nat) = 2 ^ 16 - 1 from rfl, Nat.testBit_two_pow_sub_one, decide_eq_true hi]
    simp only [Nat.testBit_and, Nat.testBit_xor, full, Nat.zero_testBit] at bit ⊢
    revert bit
    cases m.testBit i <;> cases f.testBit i <;> simp
  · have above : m.testBit i = false :=
      Nat.testBit_lt_two_pow (Nat.lt_of_lt_of_le hm (Nat.pow_le_pow_right (by decide) (Nat.le_of_not_lt hi)))
    rw [Nat.testBit_and, above, Bool.and_false]

theorem cellSels_mod (v : Nat) : cellSels (v % 2 ^ 96) = cellSels v := by
  simp only [cellSels, slice_mod v 96 0 16 (by decide), slice_mod v 96 16 16 (by decide), slice_mod v 96 32 16 (by decide),
    slice_mod v 96 48 16 (by decide)]

theorem wopFields_mod (v : Nat) : wopFields (v % 2 ^ 48) = wopFields v := by
  simp only [wopFields, wop, slice_mod v 48 42 6 (by decide), slice_mod v 48 26 14 (by decide),
    slice_mod v 48 12 14 (by decide)]

theorem wopBad_mod (v : Nat) : wopBad (v % 2 ^ 48) = wopBad v := by
  rw [wopBad, wopFields_mod, slice_mod v 48 40 1 (by decide)]
  rfl

theorem gatherLate_mod (s : State) (k u t v : Nat) : s.gatherLate k u t (v % 2 ^ 64) = s.gatherLate k u t v := by
  simp only [State.gatherLate, gatherBad, gatherBed, slice_mod v 64 38 2 (by decide), slice_mod v 64 36 2 (by decide),
    slice_mod v 64 54 4 (by decide), slice_mod v 64 32 4 (by decide), slice_mod v 64 45 9 (by decide)] <;> rfl

/-- What instruction `v` of step `t` adds to the votes of slot `k`: that of a cell, a word unit or a port unit at `place`,
in the memory with this code. -/
def State.unitVotes (s : State) (k t code place v : Nat) : List LateItem :=
  if code = A.imem.code then
    if s.slotOfBed (place / 16) = some k ∧ (slice v 92 4 = 1 ∨ slice v 92 4 = 2) ∧ ¬ (cellSels v).any selReserved then
      s.cellLate k place t v
    else []
  else if code = A.wimem.code then
    if s.slotOfBed place = some k ∧ s.yields place t = 0xFFFF ∧ wopBad v = none then s.wordLate k place t v else []
  else if code = A.pimem.code then
    if s.slotOfCourse place = some k ∧ slice v 58 6 = 1 then s.gatherLate k place t v else []
  else []

/-- The votes of a slot hold those of each instruction of the step that can be read. -/
theorem unitVotes_sub_votes {s : State} {k t v place : Nat} {a : Arr} (ha : a ∈ [A.imem, A.wimem, A.pimem]) (ht : t < 512)
    (he : s.errOf a (512 * place + t) ≠ 2) (hm : (a.key (512 * place + t), v) ∈ s.arr) :
    s.unitVotes k t a.code place v ⊆ s.votes k t := by
  intro x hx
  have hplace : (512 * place + t) / 512 = place := by omega
  have hstep : (512 * place + t) % 512 = t := by omega
  have hcode : a.code < 512 := by
    simp only [List.mem_cons, List.not_mem_nil, or_false] at ha
    rcases ha with rfl | rfl | rfl <;> decide
  refine List.mem_flatten.2 ⟨_, List.mem_map.2 ⟨_, hm, rfl⟩, ?_⟩
  have good : ¬ (t ≠ t ∨ s.errOf ⟨a.code, 96⟩ (512 * place + t) = 2) := not_or.2 ⟨fun h => h rfl, he⟩
  dsimp only
  rw [key_index hcode, key_code hcode, hplace, hstep, if_neg good]
  simp only [List.mem_cons, List.not_mem_nil, or_false] at ha
  rcases ha with rfl | rfl | rfl <;> exact hx

/-- The late operands of a cell are votes of its slot. -/
theorem cellLate_votes {s : State} {k t cell : Nat} (ht : t < 512) (hk : s.slotOfBed (cell / 16) = some k)
    (he : s.errOf A.imem (512 * cell + t) ≠ 2)
    (hop : slice (s.rd A.imem (512 * cell + t)) 92 4 = 1 ∨ slice (s.rd A.imem (512 * cell + t)) 92 4 = 2)
    (hr : ¬ (cellSels (s.rd A.imem (512 * cell + t))).any selReserved) :
    s.cellLate k cell t (s.rd A.imem (512 * cell + t)) ⊆ s.votes k t := by
  have hn : s.rd A.imem (512 * cell + t) ≠ 0 := fun h => by simp [h, slice_zero] at hop
  obtain ⟨v, hm, hv⟩ := listed_of_rd (by decide) (by decide) (by decide) hn
  rw [← hv, A.imem_width] at hop hr ⊢
  rw [slice_mod v 96 92 4 (by decide)] at hop
  rw [cellSels_mod] at hr
  rw [State.cellLate, cellSels_mod, ← State.cellLate]
  have sub := unitVotes_sub_votes (k := k) (by simp) ht he hm
  rwa [State.unitVotes, if_pos rfl, if_pos ⟨hk, hop, hr⟩] at sub

/-- The late operands of a word instruction are votes of its slot. -/
theorem wordLate_votes {s : State} {k t bed : Nat} (ht : t < 512) (hk : s.slotOfBed bed = some k)
    (he : s.errOf A.wimem (512 * bed + t) ≠ 2) (hy : s.yields bed t = 0xFFFF)
    (hr : wopBad (s.rd A.wimem (512 * bed + t)) = none) :
    s.wordLate k bed t (s.rd A.wimem (512 * bed + t)) ⊆ s.votes k t := by
  by_cases hn : s.rd A.wimem (512 * bed + t) = 0
  · rw [hn]
    exact List.nil_subset _
  obtain ⟨v, hm, hv⟩ := listed_of_rd (by decide) (by decide) (by decide) hn
  rw [← hv, A.wimem_width] at hr ⊢
  rw [wopBad_mod] at hr
  rw [State.wordLate, wopFields_mod, ← State.wordLate]
  have sub := unitVotes_sub_votes (k := k) (by simp) ht he hm
  rwa [State.unitVotes, if_neg (by decide), if_pos rfl, if_pos ⟨hk, hy, hr⟩] at sub

/-- The late read of a GATHER is a vote of its slot. -/
theorem gatherLate_votes {s : State} {k t u : Nat} (ht : t < 512) (hk : s.slotOfCourse u = some k)
    (he : s.errOf A.pimem (512 * u + t) ≠ 2) (hop : slice (s.rd A.pimem (512 * u + t)) 58 6 = 1) :
    s.gatherLate k u t (s.rd A.pimem (512 * u + t)) ⊆ s.votes k t := by
  have hn : s.rd A.pimem (512 * u + t) ≠ 0 := fun h => by simp [h, slice_zero] at hop
  obtain ⟨v, hm, hv⟩ := listed_of_rd (by decide) (by decide) (by decide) hn
  rw [← hv, A.pimem_width] at hop ⊢
  rw [slice_mod v 64 58 6 (by decide)] at hop
  rw [gatherLate_mod]
  have sub := unitVotes_sub_votes (k := k) (by simp) ht he hm
  rwa [State.unitVotes, if_neg (by decide), if_neg (by decide), if_pos rfl, if_pos ⟨hk, hop⟩] at sub

/-- A landing item is late where a flag that it needs is clear. -/
theorem isLate_land {s : State} {i : LateItem} (hk : i.kind ≠ 1) (hn : i.need < 2 ^ 16)
    (h : s.rd A.landP (landKey i.bed i.bank i.landStep) &&& i.need ≠ i.need) : s.isLate i = true := by
  rw [State.isLate, State.lateNeed, if_neg hk]
  exact decide_eq_true (flags_missing hn h)

/-- A port line is late where its flag is clear. -/
theorem isLate_port {s : State} {i : LateItem} {line : Nat} (hk : i.kind = 1) (hl : line < 16) (hn : i.need = 2 ^ line)
    (h : (s.rd A.portP (4 * i.bed + i.bank)).testBit line = false) : s.isLate i = true := by
  rw [State.isLate, State.lateNeed, if_pos hk, hn]
  refine decide_eq_true (flags_missing (Nat.pow_lt_pow_right (by decide) hl) fun same => ?_)
  have bit := congrArg (Nat.testBit · line) same
  simp [Nat.testBit_and, h] at bit

theorem slice_of_selIx {sel lo w : Nat} (h : lo + w ≤ 13) : slice (selIx sel) lo w = slice sel lo w := by
  rw [selIx, slice_at_zero, slice_mod sel 13 lo w h]

theorem two_pow_lane_lt (v lo : Nat) : 2 ^ slice v lo 4 < 2 ^ 16 := Nat.pow_lt_pow_right (by decide) (slice_lt v lo 4)

theorem selLate_sub_cellLate (s : State) (k cell t w : Nat) {o : Nat} (ho : o < 4) :
    s.selLate k (cell / 16) (cell % 16) o t (slice w (16 * o) 16) ⊆ s.cellLate k cell t w := by
  intro x hx
  refine List.mem_flatten.2 ⟨_, List.mem_map.2 ⟨(slice w (16 * o) 16, o), ?_, rfl⟩, hx⟩
  have cases : o = 0 ∨ o = 1 ∨ o = 2 ∨ o = 3 := by omega
  rcases cases with rfl | rfl | rfl | rfl <;> simp [cellSels]

theorem selLate_land {s : State} {k bed cell o t sel : Nat} (hs : selSpace sel = 2)
    (hl : s.rd A.landP (landKey bed (s.rd A.pCycle k % 2) (slice sel 0 9)) &&& 2 ^ slice sel 9 4 ≠ 2 ^ slice sel 9 4) :
    ⟨k, bed, 0, cell, o, 2 ^ slice sel 9 4, slice sel 0 9, s.rd A.pCycle k % 2, t⟩ ∈ s.selLate k bed cell o t sel := by
  simp only [State.selLate, hs, slice_of_selIx (sel := sel) (lo := 0) (w := 9) (by decide),
    slice_of_selIx (sel := sel) (lo := 9) (w := 4) (by decide)]
  exact List.mem_filter.2 ⟨List.mem_singleton.2 rfl, isLate_land (by simp) (two_pow_lane_lt ..) hl⟩

theorem selLate_port {s : State} {k bed cell o t sel : Nat} (hs : selSpace sel = 3)
    (hl : (s.rd A.portP (4 * bed + s.rd A.pCycle k % 4)).testBit (slice sel 6 4) = false) :
    ⟨k, bed, 1, cell, o, 2 ^ slice sel 6 4, 0, s.rd A.pCycle k % 4, t⟩ ∈ s.selLate k bed cell o t sel := by
  simp only [State.selLate, hs, slice_of_selIx (sel := sel) (lo := 6) (w := 4) (by decide)]
  exact List.mem_filter.2 ⟨List.mem_singleton.2 rfl, isLate_port rfl (slice_lt sel 6 4) rfl hl⟩

theorem wopFields_get {w o : Nat} (ho : o < (wopFields w).length) : (wopFields w)[o] = slice w (26 - 14 * o) 14 := by
  have short : o < 2 := Nat.lt_of_lt_of_le ho (by simp [wopFields])
  simp only [wopFields, List.getElem_take]
  have cases : o = 0 ∨ o = 1 := by omega
  rcases cases with rfl | rfl <;> rfl

theorem wordLate_land {s : State} {k bed t w o : Nat} (ho : o < (wopFields w).length)
    (hs : slice (slice w (26 - 14 * o) 14) 12 2 = 1)
    (hl : s.rd A.landP (landKey bed (s.rd A.pCycle k % 2) (slice (slice w (26 - 14 * o) 14) 0 9)) &&& 0xFFFF ≠ 0xFFFF) :
    ⟨k, bed, 2, 0, o, 0xFFFF, slice (slice w (26 - 14 * o) 14) 0 9, s.rd A.pCycle k % 2, t⟩ ∈ s.wordLate k bed t w := by
  refine List.mem_filter.2 ⟨List.mem_filterMap.2 ⟨(slice w (26 - 14 * o) 14, o), ?_, if_pos hs⟩,
    isLate_land (by simp) (by simp) hl⟩
  rw [List.mk_mem_zipIdx_iff_getElem?, List.getElem?_eq_getElem ho, wopFields_get ho]

theorem gatherLate_land {s : State} {k u t w : Nat} (hb : gatherBad w = none) (hs : slice w 38 2 = 1)
    (hl : s.rd A.landP (landKey (gatherBed u w) (s.rd A.pCycle k % 2) (slice w 45 9)) &&&
      (if slice w 36 2 = 0 then 0xFFFF else 2 ^ slice w 32 4) ≠ (if slice w 36 2 = 0 then 0xFFFF else 2 ^ slice w 32 4)) :
    ⟨k, gatherBed u w, 3, 0, 0, if slice w 36 2 = 0 then 0xFFFF else 2 ^ slice w 32 4, slice w 45 9, s.rd A.pCycle k % 2, t⟩ ∈
      s.gatherLate k u t w := by
  rw [State.gatherLate, if_pos ⟨hb, hs⟩]
  refine List.mem_filter.2 ⟨List.mem_singleton.2 rfl, isLate_land (by simp) ?_ hl⟩
  dsimp only
  split
  · decide
  · exact two_pow_lane_lt ..

/-! ### Cell instructions at their own place and step -/

theorem cellSels_legal {w : Nat} (h : ∀ o < 4, selReserved (slice w (16 * o) 16) = false) :
    ¬ (cellSels w).any selReserved = true := by
  rw [List.any_eq_true]
  rintro ⟨sel, hm, hr⟩
  obtain ⟨o, ho, rfl⟩ := cellSels_mem hm
  exact absurd hr (by rw [h o ho]; decide)

/-- Without a late item, a word that cannot be corrected is a NOP with STORE_ERROR (R51). -/
theorem nop_storeError {s : State} {c : CellLoc} {k t : Nat} (h : s.MayIssue 0 (cellIx c) (wallIx c.toWallLoc) k t)
    (he : s.errOf A.imem (512 * cellIx c + t) = 2) : s.cellIssue c (· = 0) (fun _ t _ s => s.cellNop (cellIx c) t) =
      ((s.mark 0 (cellIx c)).faultAt k 0x20 (Loc.ofCell (cellIx c)) .e (s.rd A.pCycle k) t
        (storeDetail 0 t 0 0 0)).cellHist (cellIx c) t 0 := by
  have hw : s.cellWord (cellIx c) t = 0 := if_pos he
  have noted : (s.mark 0 (cellIx c)).noteImem k (cellIx c) t = (s.mark 0 (cellIx c)).faultAt k 0x20
      (Loc.ofCell (cellIx c)) .e (s.rd A.pCycle k) t (storeDetail 0 t 0 0 0) := by
    have he : (s.mark 0 (cellIx c)).errOf A.imem (512 * cellIx c + t) = 2 := he
    rw [State.noteImem, he]
    rfl
  rw [State.cellIssue, unit_turn h.active h.turn, hw]
  dsimp only
  rw [slice_zero, if_pos (decide_eq_true rfl), State.voted, h.onTime, noted]
  rfl

theorem cellEval_reserved {s : State} {c : CellLoc} {k t o : Nat} {a : Bool} (ho : o < 4)
    (hr : selReserved (slice (s.cWord c t) (16 * o) 16) = true)
    (hl : ∀ j < o, selReserved (slice (s.cWord c t) (16 * j) 16) = false) (u : State) :
    u.cellEval k (cellIx c) t (s.cWord c t) a = (u.faultAt k 0x11 (Loc.ofCell (cellIx c)) .e (u.rd A.pCycle k) t
      (slice (s.cWord c t) (16 * o) 16 + 2 ^ 16 * o)).cellHist (cellIx c) t 0 := by
  rw [State.cellEval, firstReserved_some ho hr hl]

theorem evalTurn_sound {s : State} {c : CellLoc} {k t : Nat} {a : Bool} (hs : s.CellSound c k t) (hq : s.debug = false) :
    (s.mark 0 (cellIx c)).cellEval k (cellIx c) t (s.cWord c t) a = if a = true ∧ s.cResult c k t = true then
      (s.evalDone c k t).faultAt k 0x01 (Loc.ofCell (cellIx c)) .a (s.rd A.pCycle k) t 0 else s.evalDone c k t :=
  cellEval_sound hs hq

theorem cellYield_waits {s : State} {k bed t : Nat} (he : s.errOf A.wimem (512 * bed + t) ≠ 2)
    (hw : wop (s.rd A.wimem (512 * bed + t)) ≠ 0) : s.cellYield k bed t = s := by
  rw [State.cellYield, if_neg he, if_neg hw, ite_self]

theorem cellYield_mismatch {s : State} {k bed t : Nat} (hm : s.marked 1 bed = false)
    (he : s.errOf A.wimem (512 * bed + t) ≠ 2) (hw : wop (s.rd A.wimem (512 * bed + t)) = 0) :
    s.cellYield k bed t = (s.mark 1 bed).yieldMismatch k bed t 0 := by
  rw [State.cellYield, if_neg (by simp [hm]), if_neg he, if_pos hw]

/-- A cell that issues undisturbed has taken its turn. -/
theorem cellIssue_turn {s : State} {c : CellLoc} {k t op : Nat} {p : Nat → Bool} {f : Nat → Nat → Nat → State → State}
    (h : s.CellReady c k t op) (hp : p op = true) : s.cellIssue c p f = f k t (s.cWord c t) (s.mark 0 (cellIx c)) :=
  cellIssue_ready h hp

theorem mark_cell_marked {s : State} {i bed : Nat} : (s.mark 0 i).marked 1 bed = s.marked 1 bed := by
  simp [State.marked, State.mark]

theorem exec_nop {s : State} (hc : s.clocked = true) (c : CellLoc) :
    exec (.nop c) s = .next (s.cellIssue c (· = 0) fun _ t _ s => s.cellNop (cellIx c) t) :=
  live_next hc fun s => s.cellIssue c _ _

theorem exec_eval {s : State} (hc : s.clocked = true) (c : CellLoc) :
    exec (.eval c) s = .next (s.cellIssue c (· = 1) fun k t w s => s.cellEval k (cellIx c) t w false) :=
  live_next hc fun s => s.cellIssue c _ _

theorem exec_assert {s : State} (hc : s.clocked = true) (c : CellLoc) :
    exec (.assert c) s = .next (s.cellIssue c (· = 2) fun k t w s => s.cellEval k (cellIx c) t w true) :=
  live_next hc fun s => s.cellIssue c _ _

theorem exec_yield {s : State} (hc : s.clocked = true) (c : CellLoc) :
    exec (.yield c) s = .next (s.cellIssue c (· = 3) fun k t _ s => s.cellYield k (bedIx c.toBedLoc) t) :=
  live_next hc fun s => s.cellIssue c _ _

theorem exec_cellOpReserved {s : State} (hc : s.clocked = true) (c : CellLoc) :
    exec (.cellOpReserved c) s = .next (s.cellIssue c (4 ≤ ·) fun k t w s => s.cellReserved k (cellIx c) t w) :=
  live_next hc fun s => s.cellIssue c _ _

theorem exec_portOpReserved {s : State} (hc : s.clocked = true) (u : CourseLoc) :
    exec (.portOpReserved u) s =
      .next (s.portIssue u (fun p => ¬ popListed p) fun k t w s => s.portReserved k (courseIx u) t w) :=
  live_next hc fun s => s.portIssue u _ _

/-- NOP writes 0 into its history entry (R57). -/
theorem nop_ready {s : State} {c : CellLoc} {k t : Nat} (h : s.CellReady c k t 0) :
    exec (.nop c) s = .next (s.cellDone c t false) := by
  rw [exec_nop h.issue.clocked, cellIssue_turn h (decide_eq_true rfl), State.cellNop,
    cellHist_quiet (s := s.mark 0 (cellIx c)) h.quiet]
  rfl

theorem eval_ready {s : State} {c : CellLoc} {k t : Nat} (h : s.CellReady c k t 1) (hs : s.CellSound c k t) :
    exec (.eval c) s = .next (s.evalDone c k t) := by
  rw [exec_eval h.issue.clocked, cellIssue_turn h (decide_eq_true rfl), evalTurn_sound hs h.quiet]
  rfl

/-- ASSERT does all that EVAL does, and raises the assertion where r = 1 (R64). -/
theorem assert_ready {s : State} {c : CellLoc} {k t : Nat} (h : s.CellReady c k t 2) (hs : s.CellSound c k t) :
    exec (.assert c) s = .next (if s.cResult c k t then
      (s.evalDone c k t).faultAt k 0x01 (Loc.ofCell (cellIx c)) .a (s.rd A.pCycle k) t 0 else s.evalDone c k t) := by
  rw [exec_assert h.issue.clocked, cellIssue_turn h (decide_eq_true rfl), evalTurn_sound hs h.quiet]
  simp only [true_and]

/-- A YIELD whose word instruction issues changes nothing (R59). -/
theorem yield_ready {s : State} {c : CellLoc} {k t : Nat} (h : s.CellReady c k t 3)
    (he : s.errOf A.wimem (512 * bedIx c.toBedLoc + t) ≠ 2) (hw : wop (s.wWord c.toBedLoc t) ≠ 0) :
    exec (.yield c) s = .next (s.mark 0 (cellIx c)) := by
  rw [exec_yield h.issue.clocked, cellIssue_turn h (decide_eq_true rfl),
    cellYield_waits (s := s.mark 0 (cellIx c)) he hw]

/-- A frozen step completes, held on the votes. -/
theorem completes_heldOn {s : State} {k t : Nat} {i : Instr} {u : State} (hr : s.replaying k = false)
    (he : exec i s = .next u) (hu : u = s.freeze k t (s.votes k t)) :
    Completes (exec i s) fun v => s.HeldOn v k (s.votes k t) :=
  ⟨_, he.trans (congrArg _ hu), freeze_heldOn hr t _⟩

/-- Settles O8: each instruction is its issue (`exec_nop` and its like), which runs undisturbed (`cellIssue_turn`), raises
its fault, or, in a step with a late item, freezes the step (`freeze_heldOn`). -/
theorem cellInstructions : Obligations.CellInstructions := by
  unfold Obligations.CellInstructions
  refine ⟨fun s c k t => ⟨nop_ready, eval_ready, fun h hs hr => ?_, yield_ready⟩,
    fun s c k t => ⟨fun h he => ?_, fun op hop h => ?_, fun o ho hr hl => ⟨fun h => ?_, fun h => ?_⟩, fun h hs hr => ?_,
      fun h hm he hw => ?_⟩,
    fun s c b u k t hc hr ht => ⟨fun hv => ⟨fun o ho hop ha hm => ?_, fun hop ha hm => ?_, fun o ho hop ha hm => ?_,
      fun o ho hop ha hm => ?_, fun hop ha hm => ?_⟩, fun o ho hk he hop hl => ⟨fun hs hm => ?_, fun hs hm => ?_⟩,
      fun o ho hk he hy hb hs hm => ?_, fun hk he hop hb hs hm => ?_⟩⟩
  -- ASSERT with r = 0, then the faults at a cell's own place and step
  · rw [assert_ready h hs, if_neg (by simp [hr])]
  · rw [exec_nop h.clocked, nop_storeError h he]
    rfl
  · rw [exec_cellOpReserved h.issue.clocked, cellIssue_turn h (decide_eq_true hop), State.cellReserved, h.code]
    rfl
  · rw [exec_eval h.issue.clocked, cellIssue_turn h (decide_eq_true rfl), cellEval_reserved ho hr hl]
    rfl
  · rw [exec_assert h.issue.clocked, cellIssue_turn h (decide_eq_true rfl), cellEval_reserved ho hr hl]
    rfl
  · rw [assert_ready h hs, if_pos hr]
  · rw [exec_yield h.issue.clocked, cellIssue_turn h (decide_eq_true rfl),
      cellYield_mismatch (s := s.mark 0 (cellIx c)) (mark_cell_marked.trans hm) he hw]
    rfl
  -- every unit of the slot freezes the step
  · obtain ⟨f, he⟩ := exec_cellOp hc ho
    exact completes_heldOn hr he (cellIssue_late ha hm hv (decide_eq_true hop))
  · exact completes_heldOn hr (exec_cellOpReserved hc c) (cellIssue_late ha hm hv (decide_eq_true hop))
  · obtain ⟨f, he⟩ := exec_wordOp hc ho
    exact completes_heldOn hr he (wordIssue_late ha hm hv (hop.imp_left decide_eq_true))
  · obtain ⟨f, he⟩ := exec_portOp hc ho
    exact completes_heldOn hr he (portIssue_late ha hm hv (decide_eq_true hop))
  · exact completes_heldOn hr (exec_portOpReserved hc u) (portIssue_late ha hm hv (by simp [hop]))
  -- a read whose flag is clear is an item: of a cell, a word unit, a GATHER
  · have sub := cellLate_votes ht ((cellIx_div c).1 ▸ hk) he hop (cellSels_legal hl)
    rw [← (cellIx_div c).1] at hm ⊢
    exact sub (selLate_sub_cellLate s k _ t _ ho (selLate_land hs (of_decide_eq_true hm)))
  · have sub := cellLate_votes ht ((cellIx_div c).1 ▸ hk) he hop (cellSels_legal hl)
    rw [← (cellIx_div c).1] at hm ⊢
    exact sub (selLate_sub_cellLate s k _ t _ ho (selLate_port hs hm))
  · exact wordLate_votes ht hk he hy hb (wordLate_land ho hs (of_decide_eq_true hm))
  · exact gatherLate_votes ht hk he hop (gatherLate_land hb hs (of_decide_eq_true hm))

end Sys2Proof.Machine

/-! SUPPORT and CERTIFICATE. Sums, products and comparisons of the word unit (O6): a word instruction that nothing
disturbs writes the result of its operation, and what each operation of R95 and R97 answers in integers. -/

namespace Sys2Proof.Machine

/-! ### An undisturbed word instruction as the result of its operation -/

/-- How long after its issue a word operation writes: a multiply takes one step more (R50). -/
def wopLag (op : Nat) : Nat := if 0x20 ≤ op ∧ op ≤ 0x22 then 2 else 1

/-- An operation of A and B whose result is known writes that result. -/
theorem wordTwo_done {s : State} {b : BedLoc} {k t op : Nat} {i : Instr} {f : WFun} {r : Row} {c v : Bool}
    (h : s.WordReady b k t op) (he : exec i s = s.live fun s => .next (s.wordIssue b (· = op) f))
    (hn : wopUses op = some 2) (hf : f (s.wA b k t) (s.wB b k t) (s.wCarry b k t) (s.wCond b k t) = ⟨r, c, v⟩) :
    exec i s = .next (s.wordDone b t (wopLag op) r c v) := by
  rw [he, State.live_on h.issue.clocked, word_two h (decide_eq_true rfl) hn, hf]
  rfl

/-- An operation of A alone whose result is known writes that result. -/
theorem wordOne_done {s : State} {b : BedLoc} {k t op : Nat} {i : Instr} {f : WFun} {r : Row} {c v : Bool}
    (h : s.WordReady b k t op) (he : exec i s = s.live fun s => .next (s.wordIssue b (· = op) f))
    (hn : wopUses op = some 1) (hf : f (s.wA b k t) 0 (s.wCarry b k t) (s.wCond b k t) = ⟨r, c, v⟩) :
    exec i s = .next (s.wordDone b t (wopLag op) r c v) := by
  rw [he, State.live_on h.issue.clocked, word_one h (decide_eq_true rfl) hn, hf]
  rfl

/-! ### Sums and differences (R95, R97) -/

/-- The carry-in as a row. -/
def carryRow (c : Bool) : Row := if c then 1 else 0

theorem carryRow_toNat (c : Bool) : (carryRow c).toNat = bit c := by cases c <;> rfl

theorem ofNat_sum_carry (x y : Row) (c : Bool) :
    BitVec.ofNat 16 (x.toNat + y.toNat + bit c) = x + y + carryRow c := by
  rw [← carryRow_toNat, BitVec.ofNat_add, BitVec.ofNat_add]
  simp only [BitVec.ofNat_toNat, BitVec.setWidth_eq]

/-- A + not B + cin is A - B less the borrow: not B is -B - 1 in two's complement. -/
theorem add_not_carry (x y : Row) (c : Bool) : x + ~~~y + carryRow c = x - y - (1 - carryRow c) := by
  have hn : ~~~y = -y - 1 := BitVec.not_eq_neg_add y
  rw [hn]
  ring

theorem wAdd_eq (x y : Row) (c : Bool) :
    wAdd x y c = ⟨x + y + carryRow c, 2 ^ 16 ≤ x.toNat + y.toNat + (carryRow c).toNat,
      x.msb = y.msb ∧ (x + y + carryRow c).msb ≠ x.msb⟩ := by
  rw [wAdd, ofNat_sum_carry, carryRow_toNat]

theorem wAdd_false_eq (x y : Row) :
    wAdd x y false = ⟨x + y, 2 ^ 16 ≤ x.toNat + y.toNat, x.msb = y.msb ∧ (x + y).msb ≠ x.msb⟩ := by
  have h := wAdd_eq x y false
  simp only [carryRow_toNat] at h
  rwa [show carryRow false = 0 from rfl, add_zero] at h

/-- No borrow leaves bit 15 exactly when B < A + cin. -/
theorem carry_of_not (x y : Row) (n : Nat) : 2 ^ 16 ≤ x.toNat + (~~~y).toNat + n ↔ y.toNat < x.toNat + n := by
  rw [BitVec.toNat_not]
  omega

theorem wSub_eq (x y : Row) (c : Bool) :
    wSub x y c = ⟨x - y - (1 - carryRow c), y.toNat < x.toNat + (carryRow c).toNat,
      x.msb ≠ y.msb ∧ (x - y - (1 - carryRow c)).msb ≠ x.msb⟩ := by
  simp only [wSub, ofNat_sum_carry, add_not_carry, carry_of_not, carryRow_toNat]

theorem wSub_true_eq (x y : Row) :
    wSub x y true = ⟨x - y, y.toNat ≤ x.toNat, x.msb ≠ y.msb ∧ (x - y).msb ≠ x.msb⟩ := by
  have h := wSub_eq x y true
  simpa only [show (1 : Row) - carryRow true = 0 from rfl, sub_zero, carryRow_toNat,
    show bit true = 1 from rfl, Nat.lt_succ_iff] using h

theorem wNeg_eq (x : Row) : wNeg x = ⟨0 - x, x = 0, x = 0x8000⟩ := by rw [wNeg, zero_sub]

/-! ### Products, comparisons, minima and maxima (R95) -/

theorem wMull_eq (x y : Row) : wMull x y = plain (BitVec.ofInt 16 (x.toInt * y.toInt)) := by
  rw [wMull, BitVec.ofInt_mul, BitVec.ofInt_toInt, BitVec.ofInt_toInt]

theorem wTest_decide (p : Prop) [Decidable p] : wTest (decide p) = plain (if p then 1 else 0) := by
  simp only [wTest, decide_eq_true_eq]

/-- Settles O6: each instruction writes what its operation answers (`wordOne_done`, `wordTwo_done`); for differences that
turns on `add_not_carry` and `carry_of_not`. -/
theorem sumsProductsComparisons : Obligations.SumsProductsComparisons := by
  unfold Obligations.SumsProductsComparisons
  refine ⟨fun s b k t => ⟨fun h => ?neg, fun h => ?add, fun h => ?addc, fun h => ?sub, fun h => ?subc⟩,
    fun s b k t => ⟨fun h => ?mull, fun h => ?mulhu, fun h => ?mulhs, fun h => ?cmpeq, fun h => ?cmpltu, fun h => ?cmplts,
      fun h => ?minu, fun h => ?mins, fun h => ?maxu, fun h => ?maxs⟩⟩
  case neg => exact wordOne_done h rfl rfl (wNeg_eq _)
  case add => exact wordTwo_done h rfl rfl (wAdd_false_eq ..)
  case addc => exact wordTwo_done h rfl rfl (wAdd_eq ..)
  case sub => exact wordTwo_done h rfl rfl (wSub_true_eq ..)
  case subc => exact wordTwo_done h rfl rfl (wSub_eq ..)
  case mull => exact wordTwo_done h rfl rfl (wMull_eq ..)
  case mulhu => exact wordTwo_done h rfl rfl rfl
  case mulhs => exact wordTwo_done h rfl rfl rfl
  case cmpeq => exact wordTwo_done h rfl rfl (wTest_decide _)
  case cmpltu => exact wordTwo_done h rfl rfl (wTest_decide _)
  case cmplts => exact wordTwo_done h rfl rfl (wTest_decide _)
  case minu => exact wordTwo_done h rfl rfl (congrArg plain (minu_eq ..))
  case mins => exact wordTwo_done h rfl rfl (congrArg plain (mins_eq ..))
  case maxu => exact wordTwo_done h rfl rfl (congrArg plain (maxu_eq ..))
  case maxs => exact wordTwo_done h rfl rfl (congrArg plain (maxs_eq ..))

end Sys2Proof.Machine

namespace Sys2Proof.Machine
open Reg
/-! SUPPORT and CERTIFICATE. The step, and a device without clocks or without power (O1 to O5). -/

/-- Settles O3: a step is a command (`exec_canon`) or a period (`State.period_canon`). -/
theorem stepKeepsCanonicalForm : Obligations.StepKeepsCanonicalForm := by
  unfold Obligations.StepKeepsCanonicalForm
  intro s t hs h
  unfold step at h
  split at h
  next =>
    obtain rfl := Host.Outcome.next.inj h
    exact State.period_canon hs
  next => exact exec_canon (canon_update.2 hs) t h

/-- Without clocks, and outside PARK, a period changes nothing. -/
theorem period_stopped {s : State} (hc : s.clocked = false) (hm : s.rd A.pwMode 0 ≠ 1) : s.period = s := by
  have awake : s.parkWoken = s := by simp [State.parkWoken, hm]
  have still : s.tick = s := by simp [State.tick, hc]
  rw [State.period, awake, still, hc]
  rfl

/-- Settles O2. -/
theorem stepRunsTheFront : Obligations.StepRunsTheFront := by
  unfold Obligations.StepRunsTheFront
  intro s
  have period : s.pending = [] → step s = .next s.period := fun h => by rw [step, h]
  exact ⟨fun c r h => by rw [step, h], period, fun h hc hm => by rw [period h, period_stopped hc hm]⟩

/-- After reset an array without reset values of its own reads 0. -/
theorem reset_rd {a : Arr} (ha : a.code < 512) (hr : a.code ≠ A.reg.code) (hv : a.code ≠ A.evtVec.code) (i : Nat) :
    State.reset.rd a i = 0 := by
  have code : a.key i % 512 = a.code := by simp only [Arr.key]; omega
  have unlisted : dflt (a.key i) = 0 := by rw [dflt, code, if_neg hr, if_neg hv]
  simp [State.rd, State.reset, Sparse.get, unlisted]

/-- Settles O1. -/
theorem resetState : Obligations.ResetState := by
  unfold Obligations.ResetState
  exact ⟨⟨by decide, by decide⟩, rfl, by decide, reset_rd (by decide) (by decide) (by decide), by decide, by decide, by decide,
    by decide, by decide, reset_rd (by decide) (by decide) (by decide), rfl, rfl, rfl⟩

/-- A command of a unit does nothing without the clocks of the dies. -/
theorem exec_unit {c : Instr} (h : unitCommand c = true) (s : State) : ∃ f, exec c s = s.live f := by
  cases c <;> cases h <;> unfold exec <;> exact ⟨_, rfl⟩

theorem access_accessAs (s : State) (who : Who) (c : Instr) (f : State → Res) :
    ∃ n g, s.access who c f = s.accessAs who c n g := ⟨_, _, rfl⟩

theorem accessDom_accessAs (s : State) (who : Who) (die dom : Nat) (c : Instr) (f : State → Res) :
    ∃ n g, s.accessDom who die dom c f = s.accessAs who c n g :=
  access_accessAs ..

theorem accessIn_accessAs (s : State) (who : Who) (dom : Option (Nat × Nat)) (n : Nat) (c : Instr) (f : State → Res) :
    ∃ m g, s.accessIn who dom n c f = s.accessAs who c m g := by
  cases dom with
  | none => exact ⟨_, _, rfl⟩
  | some _ => exact accessDom_accessAs ..

theorem busRead_accessAs {off : Nat} (h : csrOf off = none) (s : State) (who : Who) (c : Instr) :
    ∃ m g, s.busRead who off c = s.accessAs who c m g := by
  simp only [State.busRead, h]
  exact accessIn_accessAs ..

theorem busWrite_accessAs {off : Nat} (h : csrOf off = none) (s : State) (who : Who) (v : Nat) (c : Instr) :
    ∃ m g, s.busWrite who off v c = s.accessAs who c m g := by
  simp only [State.busWrite, h]
  exact accessIn_accessAs ..

theorem sender_reg {off : Nat} {x who : Who} (h : (if csrOf off = none then some x else none) = some who) :
    csrOf off = none ∧ x = who := by
  split at h
  next hn => exact ⟨hn, Option.some.inj h⟩
  next => cases h

theorem exec_request {c : Instr} {who : Who} (h : sender c = some who) (s : State) :
    ∃ n f, exec c s = s.accessAs who c n f := by
  cases c
  case registerWrite =>
    obtain ⟨hn, rfl⟩ := sender_reg h
    exact busWrite_accessAs hn ..
  case lohiLoWrite =>
    obtain ⟨hn, rfl⟩ := sender_reg h
    exact busWrite_accessAs hn ..
  case lohiHiWrite =>
    obtain ⟨hn, rfl⟩ := sender_reg h
    exact busWrite_accessAs hn ..
  case rcRead =>
    obtain ⟨hn, rfl⟩ := sender_reg h
    exact busRead_accessAs hn ..
  case lohiLoRead =>
    obtain ⟨hn, rfl⟩ := sender_reg h
    exact busRead_accessAs hn ..
  case cnRequest =>
    cases h
    exact accessIn_accessAs ..
  case bayServiceRead | bayServiceWrite | bedAccRead | bedAccWrite | wuAccRead | wuAccWrite | mortarAccRead | mortarAccWrite
    | laneCfgWrite | trigArm | trigDisarm | trigForce | probeMapWrite | probeMapRead | laneTrain | linkBitslip | rateReqSend
    | pstateRequest =>
    cases h
    unfold exec
    exact accessDom_accessAs ..
  case start | partReset | cancel =>
    cases h
    unfold exec
    exact ⟨_, _, rfl⟩
  all_goals
    cases h <;> unfold exec <;> exact access_accessAs ..

/-- Without clocks, and neither in PARK nor in an entry, a request gets no answer. -/
theorem accessAs_dead {s : State} (hr : s.resumed = []) (hc : s.clocked = false) (hp : s.rd A.pwMode 0 ≠ 1 ∨ s.refOk = false)
    (who : Who) (c : Instr) (n : Nat) (f : State → Res) : s.accessAs who c n f = .next s := by
  have dead : ¬ (s.rd A.pwMode 0 ≤ 1 ∧ s.refOk = true) := by
    rintro ⟨hm, ho⟩
    rcases hp with hp | hp
    · have run : s.rd A.pwMode 0 = 0 := by omega
      simp [State.clocked, run, ho] at hc
    · simp [hp] at ho
  rw [State.accessAs, perform_fresh hr]
  simp only [hc, Bool.false_eq_true, false_and, if_false, if_neg dead]

/-- PARK holds a request (R427). -/
theorem accessAs_parked {s : State} {who : Who} (hr : s.resumed = []) (he : s.entering = false) (ha : s.Awake who)
    (hp : s.rd A.pwMode 0 = 1) (ho : s.refOk = true) (c : Instr) (n : Nat) (f : State → Res) :
    s.accessAs who c n f = .next (s.holdReq who c (s.wakeSource (isPcie who))) := by
  have parked : s.clocked = false := by simp [State.clocked, hp]
  rw [State.accessAs, perform_fresh hr]
  simp [parked, hp, ho, he, coreRuns_awake ha]

theorem hold_held (s : State) (who : Who) (c : Instr) (w : Bool) :
    ∃ h, s.hold who c w = { s with held := s.held ++ [h] } ∧ h.cmd = c ∧ (s.actAs = none → h.who = who) := by
  unfold State.hold
  cases s.actAs with
  | none => exact ⟨_, rfl, rfl, fun _ => rfl⟩
  | some h => exact ⟨_, rfl, rfl, fun e => nomatch e⟩

theorem wakePend_rd_ne (s : State) (n i : Nat) {x : Arr} (hx : x.code < 512) (hn : x.code ≠ A.pwWake.code) (j : Nat) :
    (s.wakePend n i).rd x j = s.rd x j := by
  unfold State.wakePend
  split
  · exact State.rd_wr_arr _ _ _ _ _ _ (by simp only [A.pwWake_code] at hn ⊢; omega)
  · rfl

theorem wakePend_rd_wake {s : State} {n : Nat} (hn : n < 2 ^ 12) :
    (s.wakePend n 0).rd A.pwWake 0 = if s.rd A.pwWake 0 = 0 then n else s.rd A.pwWake 0 := by
  unfold State.wakePend
  split
  · rw [State.rd_wr_same]
    exact Nat.mod_eq_of_lt hn
  · rfl

theorem wakeSource_le (s : State) (p : Bool) : s.wakeSource p ≤ 5 := by
  unfold State.wakeSource
  repeat' split
  all_goals decide

/-- What a held request leaves: itself at the end of the line, and a wake from source `n`, if none is pending. -/
theorem holdReq_frame (s : State) (who : Who) (c : Instr) {n : Nat} (hn : n ≤ 5) :
    let t := s.holdReq who c n
    (∃ h, t.held = s.held ++ [h] ∧ h.cmd = c ∧ (s.actAs = none → h.who = who)) ∧
    (t.rd A.pwWake 0 = if s.rd A.pwWake 0 = 0 then n else s.rd A.pwWake 0) ∧
    (∀ x : Arr, x.code < 512 → x.code ≠ A.pwWake.code → ∀ j, t.rd x j = s.rd x j) ∧ t.mem = s.mem ∧ t.rsp = s.rsp := by
  obtain ⟨h, eq, hcmd, hwho⟩ := hold_held s who c true
  unfold State.holdReq
  rw [eq]
  by_cases h0 : n = 0
  · subst h0
    refine ⟨⟨h, rfl, hcmd, hwho⟩, ?_, fun _ _ _ _ => rfl, rfl, rfl⟩
    simp
  · simp only [if_neg h0]
    refine ⟨⟨h, ?_, hcmd, hwho⟩, wakePend_rd_wake (by omega), fun x hx hne j => wakePend_rd_ne _ _ _ hx hne j, ?_, ?_⟩
    all_goals
      unfold State.wakePend
      split <;> rfl

/-- Settles O4: a unit's command is `live` (`exec_unit`); a request is an access (`exec_request`), which a parked device
holds (`accessAs_parked`) and one without clocks for another reason does not answer (`accessAs_dead`). -/
theorem clocklessDevice : Obligations.ClocklessDevice := by
  unfold Obligations.ClocklessDevice
  intro s c who hc
  refine ⟨fun hu => ?_, fun hs hr he ha => ?_⟩
  · obtain ⟨f, hf⟩ := exec_unit hu s
    rw [hf, State.live, if_neg (by simp [hc])]
  · obtain ⟨n, f, hf⟩ := exec_request hs s
    rw [hf]
    refine ⟨fun ⟨hp, ho⟩ => ?_, fun hp => accessAs_dead hr hc hp ..⟩
    exact ⟨_, accessAs_parked hr he ha hp ho c n f, rfl, holdReq_frame s who c (wakeSource_le ..)⟩

/-- Settles O5: units and requests as in `exec_unit` and `exec_request`; the rest stands on the island, but for a core's
access of a CSR of its own. -/
theorem offIsInert : Obligations.OffIsInert := by
  unfold Obligations.OffIsInert
  intro s c hp hr hpor hoff hvbat htamper hgp hvddio
  by_cases hu : unitCommand c = true
  · obtain ⟨f, hf⟩ := exec_unit hu s
    rw [hf, off_live hp]
  cases hs : sender c with
  | some who =>
    obtain ⟨n, f, hf⟩ := exec_request hs s
    rw [hf, off_accessAs hp hr]
  | none =>
    have rest : (unitCommand c || (sender c).isSome) = false := by simp [hu, hs]
    cases c
    case registerWrite | lohiLoWrite | lohiHiWrite => exact off_busWrite hp hr ..
    case rcRead | lohiLoRead => exact off_busRead hp hr ..
    case hbmRequest =>
      unfold exec execHbmRequest
      dsimp only
      split
      · exact off_access hp hr ..
      · exact off_accessDom hp hr ..
    case bar0Access =>
      unfold exec execBar0Access
      dsimp only
      split
      · rfl
      · split
        · exact off_access hp hr ..
        · exact off_accessIn hp hr ..
    case bar2Access =>
      unfold exec execBar2Access
      dsimp only
      split
      · rfl
      · exact off_accessIn hp hr ..
    case powerOnReset => exact absurd rfl hpor
    case off => exact absurd rfl hoff
    case vbatLoss => exact absurd rfl hvbat
    case tamperDetect x => exact absurd rfl (htamper x)
    case gpInterrupt p l => exact absurd rfl (hgp p l)
    case vddioChange b o v => exact absurd rfl (hvddio b o v)
    case ppsEdge | ppsHoldoverTimeout | timeMsgTimeout | timeSecond | epochClose | resetN | launchFire | refclkLost | wakePin
      | wakeLink | wakeTimer | wakePcie | wakeNet | tclkTick | rcOscillatorTick | refclkReturn | perst | functionLevelReset =>
      unfold exec
      exact off_aon hp _
    all_goals cases rest

end Sys2Proof.Machine

/-! SUPPORT and CERTIFICATE. Rows without arithmetic, shifts, counts and the faults of word instructions (O7). -/

namespace Sys2Proof.Machine

/-! ### Shifts and counts (R95, R98) -/

theorem wShl_eq (x y : Row) : wShl x y = plain (if 16 ≤ y.toNat then 0 else x <<< y.toNat) := by
  rw [wShl]
  split
  next h => rw [BitVec.shiftLeft_eq_zero h]; rfl
  next => rfl

theorem wShr_eq (x y : Row) : wShr x y = plain (if 16 ≤ y.toNat then 0 else x >>> y.toNat) := by
  rw [wShr]
  split
  next h => rw [BitVec.ushiftRight_eq_zero h]; rfl
  next => rfl

theorem sshiftRight_all {x : Row} {n : Nat} (h : 16 ≤ n) : x.sshiftRight n = if x.msb then BitVec.allOnes 16 else 0 := by
  ext i hi
  have out : ¬ n + i < 16 := by omega
  rw [BitVec.getElem_sshiftRight, dif_neg out]
  cases x.msb
  · simp
  · exact (BitVec.getElem_allOnes _ hi).symm

theorem wSar_eq (x y : Row) :
    wSar x y = plain (if 16 ≤ y.toNat then (if x.msb then 0xFFFF else 0) else x.sshiftRight y.toNat) := by
  refine congrArg plain ?_
  by_cases h : 16 ≤ y.toNat
  · rw [if_pos h, sshiftRight_all h]
    rfl
  · rw [if_neg h]

theorem wRol_eq (x y : Row) : wRol x y = plain (x <<< (y.toNat % 16) ||| x >>> (16 - y.toNat % 16)) := by
  rw [wRol, BitVec.rotateLeft_def, Nat.mod_mod]

theorem popcount_eq_sum (x : Row) : popcount x = ((List.range 16).map fun i => bit (x.getLsbD i)).sum := by
  rw [popcount]
  induction List.range 16 with
  | nil => rfl
  | cons i r ih => cases h : x.getLsbD i <;> simp [List.filter, h, ih, bit, Nat.add_comm]

theorem leadingZeros_spec (x : Row) : leadingZeros x ≤ 16 ∧ (∀ i < leadingZeros x, x.getLsbD (15 - i) = false) ∧
    (leadingZeros x < 16 → x.getLsbD (15 - leadingZeros x) = true) := by
  rw [leadingZeros]
  cases h : (List.range 16).find? fun i => x.getLsbD (15 - i) with
  | none =>
    rw [List.find?_range_eq_none] at h
    simpa using h
  | some n =>
    obtain ⟨hn, hr, hl⟩ := List.find?_range_eq_some.1 h
    have : n < 16 := List.mem_range.1 hr
    exact ⟨by simp; omega, by simpa using hl, fun _ => hn⟩

/-! ### Word instructions that do not operate (R92, R95, R103 to R105) -/

theorem wordOp_listed {b : BedLoc} {p : Nat × Instr} (h : WordOp b p) : wopUses p.1 ≠ none := by
  have codes : ∀ n ∈ [0x01, 0x02, 0x03, 0x04, 0x08, 0x09, 0x0A, 0x0B, 0x10, 0x11, 0x12, 0x13, 0x18, 0x19, 0x1A, 0x1B, 0x20,
      0x21, 0x22, 0x28, 0x29, 0x2A, 0x30, 0x31, 0x32, 0x33, 0x38], wopUses n ≠ none := by decide
  exact codes p.1 (List.mem_map_of_mem (f := Prod.fst) h)

variable {s : State} {b : BedLoc} {k t : Nat} {p : Nat → Bool} {f : WFun}

/-- A word instruction whose word is intact, undisturbed. -/
theorem wordIssue_intact (h : s.MayIssue 1 (bedIx b) (wallIx b.toWallLoc) k t)
    (he : s.errOf A.wimem (512 * bedIx b + t) = 0) (hp : p (wop (s.wWord b t)) = true) :
    s.wordIssue b p f = (s.mark 1 (bedIx b)).wordRun k (bedIx b) t (s.wWord b t) f := by
  have noted : (s.mark 1 (bedIx b)).noteWimem (bedIx b) t = s.mark 1 (bedIx b) := by
    rw [State.noteWimem, if_neg]
    exact fun h1 => absurd (h1.symm.trans he) (by decide)
  have hp' : ¬ ¬ p (wop (s.rd A.wimem (512 * bedIx b + t))) = true := not_not.2 hp
  rw [State.wordIssue, unit_turn h.active h.turn]
  dsimp only
  rw [if_neg (by simp [he]), if_neg hp', State.voted, h.onTime, noted]
  rfl

/-- A word that cannot be corrected, whatever its opcode is. -/
theorem wordIssue_storeError (h : s.MayIssue 1 (bedIx b) (wallIx b.toWallLoc) k t)
    (he : s.errOf A.wimem (512 * bedIx b + t) = 2) :
    s.wordIssue b p f = (s.mark 1 (bedIx b)).wordStoreError k (bedIx b) t := by
  rw [State.wordIssue, unit_turn h.active h.turn]
  dsimp only
  rw [if_pos he, State.voted, h.onTime]

theorem wordRun_mismatch {bed w : Nat} (hy : s.yields bed t ≠ 0xFFFF) :
    s.wordRun k bed t w f = s.yieldMismatch k bed t (wop w) := if_pos hy

theorem wordRun_unlisted {bed w : Nat} (hy : s.yields bed t = 0xFFFF) (hn : wopUses (wop w) = none) :
    s.wordRun k bed t w f =
      (s.faultAt k 0x13 (Loc.ofBed bed) .e (s.rd A.pCycle k) t (wop w)).wordWrite bed t w (plain 0) false := by
  rw [State.wordRun]
  simp only [hy, hn, ne_eq, not_true_eq_false, if_false, if_true]

theorem wordRun_reserved {bed w x : Nat} (hy : s.yields bed t = 0xFFFF) (hn : wopUses (wop w) ≠ none) (hx : wopBad w = some x) :
    s.wordRun k bed t w f =
      (s.faultAt k 0x14 (Loc.ofBed bed) .e (s.rd A.pCycle k) t (wop w + 2 ^ 6 * x)).wordWrite bed t w (plain 0) false := by
  rw [State.wordRun]
  simp only [hy, hn, hx, ne_eq, not_true_eq_false, if_false]

/-- Settles O7: what undisturbed operations answer (`wordOne_done`, `wordTwo_done`), and the branches of `State.wordRun`. -/
theorem logicShiftsCounts : Obligations.LogicShiftsCounts := by
  unfold Obligations.LogicShiftsCounts
  refine ⟨fun s b k t => ⟨fun h => ?pass, fun h => ?and, fun h => ?or, fun h => ?xor, fun h => ?andn, fun h => ?sel⟩,
    fun s b k t => ⟨fun h => ?shl, fun h => ?shr, fun h => ?sar, fun h => ?rol, fun h => ?popc, fun h => ?clz⟩,
    fun s b k t => ?faults⟩
  case pass => exact wordOne_done h rfl rfl rfl
  case and => exact wordTwo_done h rfl rfl rfl
  case or => exact wordTwo_done h rfl rfl rfl
  case xor => exact wordTwo_done h rfl rfl rfl
  case andn => exact wordTwo_done h rfl rfl rfl
  case sel => exact wordTwo_done h rfl rfl rfl
  case shl => exact wordTwo_done h rfl rfl (wShl_eq ..)
  case shr => exact wordTwo_done h rfl rfl (wShr_eq ..)
  case sar => exact wordTwo_done h rfl rfl (wSar_eq ..)
  case rol => exact wordTwo_done h rfl rfl (wRol_eq ..)
  case popc => exact wordOne_done h rfl rfl (congrArg (fun n => plain (BitVec.ofNat 16 n)) (popcount_eq_sum _))
  case clz =>
    obtain ⟨hle, hzero, hone⟩ := leadingZeros_spec (s.wA b k t)
    exact ⟨_, hle, hzero, hone, wordOne_done h rfl rfl rfl⟩
  case faults =>
    intro bed w u listed zero fault h
    refine ⟨fun he hy h0 hn => ?_, fun p hp => ?_⟩
    · rw [show exec (.wordOpReserved b) s = .next (s.wordIssue b _ _) from live_next h.clocked fun s => s.wordIssue b _ _,
        wordIssue_intact h he (decide_eq_true ⟨h0, hn⟩), wordRun_unlisted (s := s.mark 1 (bedIx b)) hy hn]
      rfl
    · have op : WordOp b p := hp
      obtain ⟨f, hf⟩ := exec_wordOp h.clocked op
      refine ⟨fun he hw => ⟨fun x hy hx => ?_, fun hy => ?_⟩, fun he => ?_⟩
      · rw [hf, wordIssue_intact h he (decide_eq_true hw), wordRun_reserved (s := s.mark 1 (bedIx b)) hy (hw ▸ wordOp_listed op) hx, ← hw]
        rfl
      · rw [hf, wordIssue_intact h he (decide_eq_true hw), wordRun_mismatch (s := s.mark 1 (bedIx b)) hy, ← hw]
        rfl
      · rw [hf, wordIssue_storeError h he]
        rfl

end Sys2Proof.Machine

/-! SUPPORT. Frames: what the shared operations leave alone. A raise of an event, a fault record, the recorder, a stop leave
every array alone whose code their list does not name; events and records also the registers below 0x1000, which are those
of time, power and the boot, and every field of the state but the lists that a record, an event or an answer goes to. -/

namespace Sys2Proof.Machine

open Reg

/-! ### Arrays -/

/-- `t` reads like `s` in every array whose code `codes` does not list. -/
structure State.Only (codes : List Nat) (s t : State) : Prop where
  reads : ∀ (a : Arr) (i : Nat), a.code % 512 ∉ codes → t.rd a i = s.rd a i

/-- Every code of one list is in another. -/
theorem listed_mem {codes more : List Nat} (h : codes.all more.contains = true) {x : Nat} (hx : x ∈ codes) : x ∈ more :=
  List.contains_iff_mem.1 (List.all_eq_true.1 h x hx)

theorem listed_self (codes : List Nat) : codes.all codes.contains = true :=
  List.all_eq_true.2 fun _ h => List.contains_iff_mem.2 h

section only
variable {codes more : List Nat} {s t u : State}

theorem State.Only.refl (codes : List Nat) (s : State) : s.Only codes s := ⟨fun _ _ _ => rfl⟩

/-- An array that the list does not name. -/
theorem State.Only.rd (h : s.Only codes t) (a : Arr) (i : Nat) (ha : codes.contains (a.code % 512) = false) :
    t.rd a i = s.rd a i := h.reads a i fun hm => Bool.eq_false_iff.1 ha (List.contains_iff_mem.2 hm)

/-- One operation more, which writes what `codes` lists. -/
theorem State.Only.step (h : s.Only more t) (h' : t.Only codes u) (hc : codes.all more.contains = true) : s.Only more u :=
  ⟨fun a i ha => (h'.reads a i fun hm => ha (listed_mem hc hm)).trans (h.reads a i ha)⟩

theorem State.Only.mono (h : s.Only codes t) (hc : codes.all more.contains = true) : s.Only more t :=
  (State.Only.refl more s).step h hc

theorem State.Only.wr {a : Arr} (h : s.Only codes t) (i v : Nat) (ha : codes.contains (a.code % 512) = true) :
    s.Only codes (t.wr a i v) :=
  ⟨fun _ j hb => (State.rd_wr_arr _ _ _ _ _ _ fun e => hb (e ▸ List.contains_iff_mem.1 ha)).trans (h.reads _ j hb)⟩

theorem State.Only.wf (h : s.Only codes t) (b : Nat) (f : Fld) (v : Nat) (ha : codes.contains 0 = true) :
    s.Only codes (t.wf b f v) := h.wr (a := A.reg) _ _ ha

theorem State.Only.cnt (h : s.Only codes t) (b : Nat) (f : Fld) (n : Nat) (ha : codes.contains 0 = true) :
    s.Only codes (t.cnt b f n) := h.wf _ _ _ ha

theorem State.Only.setPair (h : s.Only codes t) (o v : Nat) (ha : codes.contains 0 = true) :
    s.Only codes (t.setPair o v) :=
  (h.wr (a := A.reg) _ _ ha).wr (a := A.reg) _ _ ha

theorem State.Only.wrE {a : Arr} (h : s.Only codes t) (i v : Nat) (ha : codes.contains (a.code % 512) = true)
    (he : codes.contains 4 = true) : s.Only codes (t.wrE a i v) :=
  (h.wr _ _ ha).wr (a := A.err) _ _ he

theorem State.Only.ite {p : Prop} [Decidable p] (ht : s.Only codes t) (hu : s.Only codes u) :
    s.Only codes (if p then t else u) := by
  split
  · exact ht
  · exact hu

/-- A change of anything but the store. -/
theorem State.Only.update (h : s.Only codes t) (e : u.arr = t.arr) :
    s.Only codes u := ⟨fun a i ha => (by simp only [State.rd, e] : u.rd a i = t.rd a i).trans (h.reads a i ha)⟩

theorem only_foldl {α : Type} {f : State → α → State} (hf : ∀ (u : State) x, u.Only codes (f u x))
    (l : List α) (s : State) : s.Only codes (l.foldl f s) := by
  induction l generalizing s with
  | nil => exact .refl ..
  | cons x r ih => exact (hf s x).step (ih _) (listed_self _)

theorem only_each {f : State → Nat → State} (hf : ∀ (u : State) x, u.Only codes (f u x)) (n : Nat)
    (s : State) : s.Only codes (s.each n f) := only_foldl hf _ s

end only

/-! ### The registers of the device and the fields beside the arrays -/

/-- The state without its arrays, its packets and records, its answers and its outputs. -/
def State.core (s : State) : State :=
  { s with arr := [], packets := [], stepRecs := [], symOut := [], out := [], rsp := ⟨0, 0, 0⟩, freeCtr := 0,
           causes := [], late := [], recLog := [], snaps := [] }

theorem core_wr (s : State) (a : Arr) (i v : Nat) : (s.wr a i v).core = s.core := rfl
theorem core_wf (s : State) (b : Nat) (f : Fld) (v : Nat) : (s.wf b f v).core = s.core := core_wr ..
theorem core_setPair (s : State) (o v : Nat) : (s.setPair o v).core = s.core := (core_wr ..).trans (core_wr ..)

theorem mem_of_core {s t : State} (h : t.core = s.core) : t.mem = s.mem := (congrArg State.mem h : t.core.mem = s.core.mem)
theorem vault_of_core {s t : State} (h : t.core = s.core) : t.vault = s.vault := (congrArg State.vault h : t.core.vault = s.core.vault)
theorem shadow_of_core {s t : State} (h : t.core = s.core) : t.shadow = s.shadow := (congrArg State.shadow h : t.core.shadow = s.core.shadow)
theorem outst_of_core {s t : State} (h : t.core = s.core) : t.outst = s.outst := (congrArg State.outst h : t.core.outst = s.core.outst)

/-- `t` agrees with `s` in the arrays that `codes` does not list, in the registers below 0x1000, and beside the arrays. -/
structure State.Calm (codes : List Nat) (s t : State) : Prop where
  only : s.Only codes t
  low : ∀ i < 0x1000, t.rd A.reg i = s.rd A.reg i
  core : t.core = s.core

section calm
variable {codes more : List Nat} {s t u : State}

theorem State.Calm.refl (codes : List Nat) (s : State) : s.Calm codes s := ⟨.refl .., fun _ _ => rfl, rfl⟩

theorem State.Calm.step (h : s.Calm more t) (h' : t.Calm codes u) (hc : codes.all more.contains = true) : s.Calm more u :=
  ⟨h.only.step h'.only hc, fun i hi => (h'.low i hi).trans (h.low i hi), h'.core.trans h.core⟩

theorem State.Calm.mono (h : s.Calm codes t) (hc : codes.all more.contains = true) : s.Calm more t :=
  (State.Calm.refl more s).step h hc

/-- A write of an array of units. -/
theorem State.Calm.wr {a : Arr} (h : s.Calm codes t) (i v : Nat) (ha : codes.contains (a.code % 512) = true)
    (hr : a.code % 512 ≠ 0) : s.Calm codes (t.wr a i v) :=
  ⟨h.only.wr i v ha, fun j hj => (State.rd_wr_arr _ _ _ _ _ _ hr).trans (h.low j hj), h.core⟩

/-- A write of a register at or above 0x1000. -/
theorem State.Calm.reg (h : s.Calm codes t) {i : Nat} (v : Nat) (hi : 0x1000 ≤ i) (ha : codes.contains 0 = true) :
    s.Calm codes (t.wr A.reg i v) :=
  ⟨h.only.wr (a := A.reg) i v ha, fun j hj => (State.rd_wr_ix _ _ _ _ _ (by omega)).trans (h.low j hj), h.core⟩

theorem State.Calm.wf (h : s.Calm codes t) {b : Nat} (f : Fld) (v : Nat) (hb : 0x1000 ≤ b) (ha : codes.contains 0 = true) :
    s.Calm codes (t.wf b f v) := h.reg _ (hb.trans (Nat.le_add_right ..)) ha

theorem State.Calm.cnt (h : s.Calm codes t) {b : Nat} (f : Fld) (n : Nat) (hb : 0x1000 ≤ b) (ha : codes.contains 0 = true) :
    s.Calm codes (t.cnt b f n) := h.wf _ _ hb ha

theorem State.Calm.wrE {a : Arr} (h : s.Calm codes t) (i v : Nat) (ha : codes.contains (a.code % 512) = true)
    (hr : a.code % 512 ≠ 0) (he : codes.contains 4 = true) : s.Calm codes (t.wrE a i v) :=
  (h.wr _ _ ha hr).wr (a := A.err) _ _ he (by decide)

theorem State.Calm.setPair (h : s.Calm codes t) {o : Nat} (v : Nat) (ho : 0x1000 ≤ o) (ha : codes.contains 0 = true) :
    s.Calm codes (t.setPair o v) := (h.reg _ ho ha).reg _ (by omega) ha

theorem State.Calm.ite {p : Prop} [Decidable p] (ht : s.Calm codes t) (hu : s.Calm codes u) :
    s.Calm codes (if p then t else u) := by
  split
  · exact ht
  · exact hu

/-- A change of what `core` leaves out, but for the arrays. -/
theorem State.Calm.update (h : s.Calm codes t) (e : u.arr = t.arr) (hc : u.core = t.core) : s.Calm codes u :=
  ⟨h.only.update e, fun i hi => (by simp only [State.rd, e] : u.rd A.reg i = t.rd A.reg i).trans (h.low i hi), hc.trans h.core⟩

/-- Another record of what has been written. -/
theorem State.Calm.recLog (h : s.Calm codes t) (l : List RecPkt) : s.Calm codes { t with recLog := l } := h.update rfl rfl

theorem calm_foldl {α : Type} {f : State → α → State} (hf : ∀ (u : State) x, u.Calm codes (f u x))
    (l : List α) (s : State) : s.Calm codes (l.foldl f s) := by
  induction l generalizing s with
  | nil => exact .refl ..
  | cons x r ih => exact (hf s x).step (ih _) (listed_self _)

theorem calm_each {f : State → Nat → State} (hf : ∀ (u : State) x, u.Calm codes (f u x)) (n : Nat)
    (s : State) : s.Calm codes (s.each n f) := calm_foldl hf _ s

/-- A field of two words below 0x1000. -/
theorem State.Calm.pair (h : s.Calm codes t) {o : Nat} (ho : o < 0xFFC) : t.pair o = s.pair o := by
  simp only [State.pair, State.reg, h.low o (by omega), h.low (o + 4) (by omega)]

theorem State.Calm.rf (h : s.Calm codes t) {f : Fld} (hf : f.off < 0x1000) : t.rf 0 f = s.rf 0 f := by
  simp only [State.rf, State.reg, h.low (0 + f.off) (by omega)]

theorem State.Calm.timeNs (h : s.Calm codes t) : t.timeNs = s.timeNs := h.pair (by decide)
theorem State.Calm.monoNs (h : s.Calm codes t) : t.mono = s.mono := h.pair (by decide)
theorem State.Calm.mem (h : s.Calm codes t) : t.mem = s.mem := mem_of_core h.core
theorem State.Calm.vault (h : s.Calm codes t) : t.vault = s.vault := vault_of_core h.core
theorem State.Calm.shadow (h : s.Calm codes t) : t.shadow = s.shadow := shadow_of_core h.core
theorem State.Calm.outst (h : s.Calm codes t) : t.outst = s.outst := outst_of_core h.core

end calm

/-! ### The blocks of registers -/

theorem die_base (d o : Nat) : 0x1000 ≤ Off.die d o := by unfold Off.die; omega
theorem D_base (d : Nat) : 0x1000 ≤ D d := die_base d 0
theorem P_base (k : Nat) : 0x1000 ≤ P k := by unfold P Off.part; omega
theorem part_base (k o : Nat) : 0x1000 ≤ P k + o := (P_base k).trans (Nat.le_add_right ..)
theorem Q_base (q : Nat) : 0x1000 ≤ Q q := die_base ..
theorem PT_base (p : Nat) : 0x1000 ≤ PT p := die_base ..

/-! ### Events (R226, R227, R471 to R473) -/

/-- Registers, vectors raised, and the state, flags, order and readiness of the tasks. -/
def raiseCodes : List Nat := [0, 78, 114, 120, 121, 123, 126, 127]

theorem taskCheck_calm (s : State) (t : Nat) : s.Calm raiseCodes (s.taskCheck t) :=
  (((((State.Calm.refl _ s).wr _ _ rfl (by decide)).wr _ _ rfl (by decide)).wr _ _ rfl (by decide) |>.wr _ _ rfl (by decide)).wr _ _ rfl (by decide)).ite (.refl ..)

theorem routeFlag_calm (s : State) (o : Option Nat) (v : Nat) : s.Calm raiseCodes (s.routeFlag o v) := by
  unfold State.routeFlag
  dsimp only
  exact (State.Calm.refl ..).ite (.ite (((State.Calm.refl ..).wr _ _ rfl (by decide)).step (taskCheck_calm ..) rfl) ((State.Calm.refl ..).cnt _ _ (D_base _) rfl))

theorem routeVec_calm (s : State) (o : Option Nat) (v : Nat) : s.Calm raiseCodes (s.routeVec o v) :=
  (State.Calm.refl ..).ite (.ite ((State.Calm.refl ..).wr _ _ rfl (by decide)) ((State.Calm.refl ..).reg _ (by decide) rfl))

theorem raise_calm (s : State) (src : Nat) : s.Calm raiseCodes (s.raise src) :=
  (((State.Calm.refl _ s).reg _ (by simp only [oEVT_STATUS]; omega) rfl).step (routeFlag_calm ..) rfl).step (routeVec_calm ..) rfl

/-! ### Queues and records (R177, R237 to R246) -/

/-- Registers, and what an event writes, and the counts and numbers of the records, and the pointers of a queue. -/
def recordCodes : List Nat := [47, 48, 59, 147, 193] ++ raiseCodes

theorem qMark_calm (s : State) (q : Nat) : s.Calm [0] (s.qMark q) := (State.Calm.refl ..).wf _ _ (Q_base q) rfl

theorem qFlushed_calm (s : State) (q : Nat) : s.Calm [0] (s.qFlushed q) :=
  (((qMark_calm s q).update (by rfl) (by rfl)).wf _ _ (Q_base q) rfl).ite (.refl ..)

theorem qDiscard_calm (s : State) (q : Nat) : s.Calm [0] (s.qDiscard q) :=
  (((State.Calm.refl _ s).cnt _ _ (Q_base q) rfl).update (by rfl) (by rfl)).step (qFlushed_calm ..) rfl

theorem qMakeRoom_calm (s : State) (q n fuel : Nat) : s.Calm [0] (s.qMakeRoom q n fuel) := by
  induction fuel generalizing s with
  | zero => exact .refl ..
  | succ fuel ih => exact (State.Calm.refl ..).ite ((qDiscard_calm ..).step (ih _) rfl)

theorem qEmpty_calm (s : State) (q : Nat) : s.Calm [0] (s.qEmpty q) := ((qMark_calm s q).update (by rfl) (by rfl)).wf _ _ (Q_base q) rfl

theorem qAppend_calm (s : State) (q p : Nat) (w : List Nat) : s.Calm [] (s.qAppend q p w) := (State.Calm.refl ..).update (by rfl) (by rfl)

theorem putRecord_calm {s : State} {check : State → State} (hc : ∀ u : State, u.Calm recordCodes (check u)) (q : Nat)
    (pid : Option Nat) (w : List Nat) : s.Calm recordCodes (s.putRecord check q pid w) := by
  unfold State.putRecord
  dsimp only
  refine ((State.Calm.refl ..).cnt _ _ (D_base _) rfl).ite ?_
  have room : s.Calm recordCodes (State.qMakeRoom (if s.qTakes q w.length then check s else s) q w.length
      (if s.qTakes q w.length then check s else s).packets.length) :=
    ((hc s).ite (.refl ..)).step (qMakeRoom_calm ..) rfl
  exact (room.step (qAppend_calm ..) rfl).ite (room.cnt _ _ (Q_base q) rfl)

/-- What pushes a record is calm. -/
def PushCalm (push : Push) : Prop := ∀ (s : State) (q : Nat) (pid : Option Nat) (w : List Nat), s.Calm recordCodes (push s q pid w)

theorem recEvent_calm (s : State) (k src : Nat) : s.Calm recordCodes (s.recEvent k src) := by
  have start : s.Calm recordCodes (if s.rf (P k) REC_CFG_START_SRC = src then s.wr A.recWant k (s.rd A.recWant k ||| 4) else s) :=
    ((State.Calm.refl ..).wr _ _ rfl (by decide)).ite (.refl ..)
  exact (start.wr _ _ rfl (by decide)).ite start

theorem partRecordBy_calm {push : Push} (hp : PushCalm push) (s : State) (k code : Nat) (l : Loc) (cyc step action detail : Nat) :
    s.Calm recordCodes (s.partRecordBy push k code l cyc step action detail) :=
  ((((hp s _ _ _).wr _ _ rfl (by decide)).wr _ _ rfl (by decide)).cnt _ _ (P_base k) rfl).ite ((State.Calm.refl ..).cnt _ _ (P_base k) rfl)

theorem devRecordBy_calm {push : Push} (hp : PushCalm push) (s : State) (code : Nat) (l : Loc) (action detail : Nat) :
    s.Calm recordCodes (s.devRecordBy push code l action detail) := ((hp s _ _ _).wr _ _ rfl (by decide)).step (raise_calm ..) rfl

theorem recordBy_calm {push : Push} (hp : PushCalm push) (s : State) (k code : Nat) (l : Loc) (cyc step action detail : Nat) :
    s.Calm recordCodes (s.recordBy push k code l cyc step action detail) := by
  have told := partRecordBy_calm hp s k code l cyc step action detail
  exact (told.step (recEvent_calm ..) rfl).ite ((told.step (recEvent_calm ..) rfl).ite told)

theorem firstFault_calm (s : State) (k code src : Nat) : s.Calm [0] (s.firstFault k code src) :=
  (State.Calm.refl ..).ite ((((State.Calm.refl ..).wf _ _ (P_base k) rfl).wf _ _ (P_base k) rfl).wf _ _ (P_base k) rfl)

theorem ptrFault_calm {push : Push} (hp : PushCalm push) (s : State) (q : Nat) : s.Calm recordCodes (s.ptrFault push q) := by
  have empty : s.Calm recordCodes (((s.qEmpty q).wr A.qPtrBad q 0).cnt (Q q) QUEUE_HWM_PTR_FAULTS 1) :=
    (((qEmpty_calm s q).mono rfl).wr _ _ rfl (by decide)).cnt _ _ (Q_base q) rfl
  unfold State.ptrFault
  dsimp only
  split
  · exact ((empty.step (recordBy_calm hp ..) rfl).step (firstFault_calm ..) rfl).step (raise_calm ..) rfl
  · exact empty.step (devRecordBy_calm hp ..) rfl

theorem pushRecordN_calm (n : Nat) : PushCalm (State.pushRecordN n) := by
  induction n with
  | zero => exact fun s q pid w => putRecord_calm (fun u => .refl ..) ..
  | succ n ih => exact fun s q pid w => putRecord_calm (fun u => (ptrFault_calm ih u q).ite (.refl ..)) ..

theorem pushRecord_calm : PushCalm State.pushRecord := pushRecordN_calm 4

theorem recordNow_calm (s : State) (k code : Nat) (l : Loc) (cyc step action detail : Nat) :
    s.Calm recordCodes (s.recordNow k code l cyc step action detail) := recordBy_calm pushRecord_calm ..

theorem record_calm (s : State) (k code : Nat) (l : Loc) (cyc step action detail : Nat) :
    s.Calm recordCodes (s.record k code l cyc step action detail) := ((State.Calm.refl ..).update (by rfl) (by rfl)).ite (recordNow_calm ..)

theorem flushRecs_calm (s : State) (k : Nat) : s.Calm recordCodes (s.flushRecs k) :=
  ((State.Calm.refl _ s).update (by rfl) (by rfl)).step (calm_foldl (fun u r => recordNow_calm ..) _ _) rfl

theorem devRecord_calm (s : State) (code : Nat) (l : Loc) (action detail : Nat) :
    s.Calm recordCodes (s.devRecord code l action detail) := devRecordBy_calm pushRecord_calm ..

theorem qCheck_calm (s : State) (q : Nat) : s.Calm recordCodes (s.qCheck q) := (ptrFault_calm pushRecord_calm s q).ite (.refl ..)

theorem qDeliver_calm (s : State) (q : Nat) (w : List Nat) : s.Calm recordCodes (s.qDeliver q w) :=
  (qCheck_calm s q).step (qAppend_calm ..) rfl

/-! ### Holds and the plumb (R136, R150) -/

/-- What leaves everything but the arrays of `codes` and the symbols to send alone. -/
theorem State.Beside.calm {codes : List Nat} {s t : State} (h : s.Beside codes t) (h0 : codes.contains 0 = false) : s.Calm codes t :=
  ⟨⟨h.arrays⟩, fun i _ => State.Only.rd ⟨h.arrays⟩ A.reg i h0, by rw [h.rest]; rfl⟩

theorem pullsChanged_calm (s : State) (k : Nat) : s.Calm plumbCodes (s.pullsChanged k) := (pullsChanged_beside s k).calm rfl

theorem addCause_calm (s : State) (k c : Nat) : s.Calm plumbCodes (s.addCause k c) :=
  (State.Calm.refl ..).ite (((State.Calm.refl _ s).update (by rfl) (by rfl)).step (pullsChanged_calm ..) rfl)

theorem dropCause_calm (s : State) (k c : Nat) : s.Calm plumbCodes (s.dropCause k c) :=
  (((State.Calm.refl _ s).update (by rfl) (by rfl)).step (pullsChanged_calm ..) rfl).ite (.refl ..)

theorem dropLate_calm (s : State) (k : Nat) : s.Calm plumbCodes (s.dropLate k) :=
  (((State.Calm.refl _ s).update (by rfl) (by rfl)).step (dropCause_calm ..) rfl).step (dropCause_calm ..) rfl

theorem sendSym_calm (s : State) (p : Nat) (y : Sym) : s.Calm [] (s.sendSym p y) := ((State.Calm.refl ..).update (by rfl) (by rfl)).ite (.refl ..)

theorem sendTree_calm (s : State) (e : Option Nat) (y : Sym) : s.Calm [] (s.sendTree e y) :=
  calm_foldl (fun _ _ => sendSym_calm ..) _ _

theorem sendNotice_calm (s : State) (k code : Nat) (imm : Bool) (cyc : Nat) : s.Calm [] (s.sendNotice k code imm cyc) :=
  (sendTree_calm ..).ite (.refl ..)

/-! ### The recorder (R252 to R263) -/

/-- What an event writes, and the marks of a feed that is overrun, of a mute recorder, of the next packet's number and of a
full write buffer, and the plumb. -/
def recorderCodes : List Nat := [26, 62, 64, 87, 190, 191] ++ raiseCodes

theorem snapFlags_calm (s : State) (k : Nat) : s.Calm [0] (s.snapFlags k) := ((State.Calm.refl ..).wf _ _ (P_base _) rfl).wf _ _ (P_base _) rfl

theorem feedPassed_calm (s : State) (k n : Nat) : s.Calm [26] (s.feedPassed k n) :=
  calm_each (fun _ _ => ((State.Calm.refl ..).wr _ _ rfl (by decide)).ite (.refl ..)) ..

theorem freeRegion_calm (s : State) (k n : Nat) : s.Calm recorderCodes (s.freeRegion k n) := by
  have freed : s.Calm recorderCodes (State.setRecTail { s.feedPassed k n with recLog := dropBytes k n (s.feedPassed k n).recLog } k
      (((s.feedPassed k n).recTail k + n) % (s.feedPassed k n).regionBytes k)) := (((feedPassed_calm s k n).mono rfl).update (by rfl) (by rfl)).setPair _ (part_base ..) rfl
  exact freed.ite (freed.reg _ (part_base ..) rfl)

theorem snapLost_calm (s : State) (k : Nat) : s.Calm [0] (s.snapLost k) := ((State.Calm.refl _ s).update (by rfl) (by rfl)).step (snapFlags_calm ..) rfl

theorem recRoom_calm (s : State) (k n fuel : Nat) : s.Calm recorderCodes (s.recRoom k n fuel) := by
  induction fuel generalizing s with
  | zero => exact .refl ..
  | succ fuel ih =>
    unfold State.recRoom
    dsimp only
    have lost (m : Nat) : s.Calm recorderCodes ((((s.freeRegion k m).cnt (P k) REC_LOSS_SEG_LOST 1).raise (0x560 + k)).snapLost k) :=
      (((freeRegion_calm s k m).cnt _ _ (P_base _) rfl).step (raise_calm ..) rfl).step (snapLost_calm ..) rfl
    exact (State.Calm.refl ..).ite (((lost _).wr _ _ rfl (by decide)).ite ((lost _).step (ih _) rfl))

theorem snapClosed_calm (s : State) (k c : Nat) : s.Calm [0] (s.snapClosed k c) := by
  unfold State.snapClosed
  dsimp only
  have base : s.Calm [0] { s with snaps := s.snaps.filter fun x => ¬ (x.slot = k ∧ x.cyc = c) } := (State.Calm.refl ..).update (by rfl) (by rfl)
  split
  · exact base
  · exact (((base.reg _ (part_base ..) rfl).reg _ (part_base ..) rfl).setPair _ (part_base ..) rfl).ite base

theorem snapPlaced_calm (s : State) (p : RecPkt) (off : Nat) : s.Calm [0] (s.snapPlaced p off) :=
  ((State.Calm.refl _ s).update (by rfl) (by rfl)).ite ((snapClosed_calm ..).ite (.refl ..))

theorem recPlace_calm (s : State) (p : RecPkt) : s.Calm recorderCodes (s.recPlace p) := by
  unfold State.recPlace
  dsimp only
  refine State.Calm.setPair (State.Calm.wr ?_ _ _ rfl (by decide)) _ (part_base ..) rfl
  exact (((snapPlaced_calm ..).mono rfl).setPair _ (part_base ..) rfl).recLog _

theorem recUnplace_calm (s : State) (k : Nat) (l : List RecPkt) : s.Calm recorderCodes (s.recUnplace k l) := by
  unfold State.recUnplace
  split
  · exact .refl ..
  · exact ((((State.Calm.refl _ s).setPair _ (part_base ..) rfl).recLog _).wr _ _ rfl (by decide)).setPair _ (part_base ..) rfl

theorem recPut_calm (s : State) (p : RecPkt) : s.Calm recorderCodes (s.recPut p) := by
  have put : s.Calm recorderCodes (((s.recAfter p).filter (·.typ ≠ 0)).foldl State.recPlace
      ((s.recUnplace p.slot (s.recAfter p)).recPlace p)) :=
    ((recUnplace_calm ..).step (recPlace_calm ..) rfl).step (calm_foldl recPlace_calm ..) rfl
  exact (recPlace_calm ..).ite put

theorem backlogHold_calm (s : State) (k die : Nat) : s.Calm recorderCodes (s.backlogHold k die) := by
  unfold State.backlogHold
  have marked := (State.Calm.refl recorderCodes s).wr (a := A.recBack) k (s.rd A.recBack k ||| 2 ^ die) rfl (by decide)
  exact (State.Calm.refl ..).ite ((marked.ite ((marked.wf _ _ (P_base _) rfl).step (raise_calm ..) rfl)).step (addCause_calm ..) rfl)

theorem recBacklog_calm (s : State) (die : Nat) : s.Calm recorderCodes (s.recBacklog die) :=
  (calm_each (fun _ _ => (backlogHold_calm ..).ite (.refl ..)) ..).ite (.refl ..)

theorem recAlloc_calm (s : State) (k die typ cyc step phase : Nat) (body : List Nat) :
    s.Calm recorderCodes (s.recAlloc k die typ cyc step phase body) := by
  unfold State.recAlloc
  dsimp only
  generalize hu : (if s.rf (P k) REC_CFG_MODE = 1 then s.recRoom k (s.recNeed k (8 * (2 + body.length))) (s.recLog.length + 1)
    else s) = u
  have room : s.Calm recorderCodes u := hu ▸ (recRoom_calm ..).ite (.refl ..)
  have full := room.ite (p := u.rf (P k) REC_STATUS_FULL = 1) ((room.wf REC_STATUS_FULL 1 (P_base k) rfl).step (raise_calm _ (0x560 + k)) rfl)
  exact room.ite (((full.update (by rfl) (by rfl)).step (addCause_calm ..) rfl).ite (room.step (recPut_calm ..) rfl))

theorem recPacket_calm (s : State) (k die typ cyc step phase : Nat) (body : List Nat) :
    s.Calm recorderCodes (s.recPacket k die typ cyc step phase body) := (recAlloc_calm ..).step (recBacklog_calm ..) rfl

theorem logInput_calm (s : State) (k die typ : Nat) (body : List Nat) : s.Calm recorderCodes (s.logInput k die typ body) :=
  (recPacket_calm ..).ite (.refl ..)

/-! ### Stops (R171, R181) -/

/-- What a configuration shadow writes, with the input that a reload of the edge sequencer logs. -/
def shadowCodes : List Nat := [4, 40, 41, 42, 45, 70, 71, 72, 75, 76] ++ recorderCodes

theorem esReload_calm (s : State) (k len start : Nat) : s.Calm shadowCodes (s.esReload k len start) := by
  have table : s.Calm shadowCodes (s.each len fun s i => s.wrE A.esTab (4096 * k + i) (s.rd A.esStage (4096 * k + i))) :=
    calm_each (fun u i => (State.Calm.refl ..).wrE _ _ rfl (by decide) rfl) ..
  exact (((table.wr _ _ rfl (by decide)).wr _ _ rfl (by decide)).wr _ _ rfl (by decide)).step (logInput_calm ..) rfl

theorem shApply_calm (s : State) (k : Nat) (w : ShadowWrite) : s.Calm shadowCodes (s.shApply k w).1 := by
  have fields := (((State.Calm.refl shadowCodes s).wf ESEQ_RELOAD_LEN (slice w.val 0 13) (P_base k) rfl).wf ESEQ_RELOAD_START
    (slice w.val 13 12) (P_base k) rfl).wf ESEQ_RELOAD_GO (slice w.val 31 1) (P_base k) rfl
  unfold State.shApply
  dsimp only
  split
  · exact (State.Calm.refl ..).wr _ _ rfl (by decide)
  split
  · exact (State.Calm.refl ..).wr _ _ rfl (by decide)
  split
  · split
    · exact fields
    split
    · exact fields
    · exact fields.step (esReload_calm ..) rfl
  split
  next h => exact (State.Calm.refl ..).reg _ (h ▸ part_base ..) rfl
  next => exact .refl ..

theorem shDrop_only (s : State) (k : Nat) : s.Only shadowCodes (s.shDrop k) :=
  (((State.Only.refl _ s).update (by rfl)).wr _ _ rfl).wr _ _ rfl

theorem shCommit_only (s : State) (k : Nat) : s.Only shadowCodes (s.shCommit k) := by
  have all (l : List ShadowWrite) (x : State × Bool) (h : s.Only shadowCodes x.1) : s.Only shadowCodes
      (l.foldl (fun (a : State × Bool) w => let x := a.1.shApply k w; (x.1, a.2 || x.2)) x).1 := by
    induction l generalizing x with
    | nil => exact h
    | cons w r ih => exact ih _ (h.step (shApply_calm ..).only rfl)
  exact ((all _ (s, false) (.refl ..)).step (shDrop_only ..) rfl).wr _ _ rfl

theorem shadowSettle_only (s : State) (k : Nat) : s.Only shadowCodes (s.shadowSettle k) :=
  ((shCommit_only s k).wr _ _ rfl).ite (.refl ..)

theorem launchPend_only (s : State) (k : Nat) : s.Only [242] (s.launchPend k) :=
  only_foldl (fun _ _ => ((State.Only.refl ..).wr _ _ rfl).ite (.refl ..)) _ _

theorem enterStopped_pState (s : State) (k : Nat) (imm : Bool) (step : Nat) : (s.enterStopped k imm step).rd A.pState k = 4 := by
  unfold State.enterStopped
  dsimp only
  rw [(launchPend_only _ k).rd A.pState _ rfl, (shadowSettle_only _ k).rd A.pState _ rfl, (raise_calm _ (0x540 + k)).only.rd A.pState _ rfl]
  simp

/-- Under an immediate stop a partition in RUN stops, or does so when its step completes (R171). -/
theorem stopImmediate_run {s : State} {k : Nat} (h : s.rd A.pState k = 2) :
    (s.stopImmediate k).rd A.pState k = 4 ∨ (s.stopImmediate k).rd A.pImm k = 1 := by
  unfold State.stopImmediate
  simp only [h, if_true]
  split
  · exact .inl (enterStopped_pState ..)
  · exact .inr (State.rd_wr_same ..)

/-- A fault of class I of a partition in RUN stops it immediately. -/
theorem faultAt_immediate {s : State} {k : Nat} (h : s.rd A.pState k = 2) (code : Nat) (l : Loc) (cyc step detail : Nat) :
    (s.faultAt k code l .i cyc step detail).rd A.pState k = 4 ∨ (s.faultAt k code l .i cyc step detail).rd A.pImm k = 1 := by
  have runs : s.stoppable k = true := by simp [State.stoppable, h]
  unfold State.faultAt
  dsimp only
  simp only [runs, if_true, State.actionOf]
  generalize hu : (((s.record k code l cyc step 2 detail).firstFault k code
    (s.record k code l cyc step 2 detail).chainAddr).raise (if code = 1 then 0x520 + k else 0x500 + k)) = u
  have raised : s.Only recordCodes u := hu ▸ ((record_calm ..).only.step (firstFault_calm ..).only rfl).step (raise_calm ..).only rfl
  have run : u.rd A.pState k = 2 := (raised.rd _ _ rfl).trans h
  rw [State.act, if_neg (by simp [State.stoppable, run]), if_neg (by decide), if_pos rfl]
  exact stopImmediate_run (((sendNotice_calm ..).only.rd _ _ rfl).trans run)

end Sys2Proof.Machine

/-! SUPPORT and CERTIFICATE. Port units: slot operations, operations that issue nothing (O9), and what they issue (O10). -/

namespace Sys2Proof.Machine

open Reg

/-- A partition whose units issue is in RUN. -/
theorem active_run {s : State} {wall k t : Nat} (h : s.active wall = some (k, t)) : s.rd A.pState k = 2 := by
  unfold State.active at h
  split at h
  · cases h
  · split at h
    next run =>
      obtain ⟨rfl, -⟩ := Prod.mk.inj (Option.some.inj h)
      exact run.1
    next => cases h

/-! ### Slot operations (R70 to R72) -/

/-- What a GATHER reads as its row, from a store without an error there. -/
def State.GatherReads (s : State) (k u t w row : Nat) : Prop :=
  let bed := gatherBed u w
  let lanes := if slice w 36 2 = 0 then 0xFFFF else 2 ^ slice w 32 4
  (slice w 38 2 = 0 ∧ s.errOf A.hist (512 * bed + slice w 45 9) = 0 ∧
    row = s.partRow (s.rd A.pDepth k) bed (slice w 45 9) lagGather t) ∨
  (slice w 38 2 = 1 ∧ s.rd A.landErr (landKey bed (s.rd A.pCycle k % 2) (slice w 45 9)) &&& lanes = 0 ∧
    row = s.rd A.land (landKey bed (s.rd A.pCycle k % 2) (slice w 45 9))) ∨
  (slice w 38 2 = 2 ∧ s.errOf A.state (256 * bed + slice w 45 8) = 0 ∧ row = s.rd A.state (256 * bed + slice w 45 8))

theorem noteHist_sound {s : State} {k t bed step g : Nat} (h : s.errOf A.hist (512 * bed + step) = 0) :
    s.noteHist k t bed step g = s := by
  simp [State.noteHist, State.noteBad, h]

theorem noteLand_sound {s : State} {k t bed bank step lanes : Nat}
    (h : s.rd A.landErr (landKey bed bank step) &&& lanes = 0) : s.noteLand k t bed bank step lanes = s := by
  simp [State.noteLand, State.noteBad, h]

theorem noteState_sound {s : State} {k t bed a : Nat} (h : s.errOf A.state (256 * bed + a) = 0) :
    s.noteState k t bed a = s := by
  simp [State.noteState, State.noteRead, h]

theorem hzHistRead_quiet {s : State} {k bed step g t r cells : Nat} {row : Bool} {l : Loc} (h : s.debug = false) :
    s.hzHistRead k bed step g t r cells row l = s := if_pos (by simp [h])

theorem hzLandRead_quiet {s : State} {k bank lstep t r lanes : Nat} {row : Bool} {l : Loc} (h : s.debug = false) :
    s.hzLandRead k bank lstep t r lanes row l = s := if_neg (by simp [h])

theorem slice_low_mod (w lo m n : Nat) (h : n ≤ m) : slice w lo m % 2 ^ n = slice w lo n :=
  Nat.mod_mod_of_dvd _ (Nat.pow_dvd_pow 2 h)

theorem gatherRow_quiet {s : State} {k u t w row : Nat} (hr : s.GatherReads k u t w row) (hq : s.debug = false) :
    s.gatherRow k u t w = if slice w 36 2 = 0 then s.wr A.slotR (32 * u + slice w 40 5) row
      else s.wr A.slotR (32 * u + slice w 40 5)
        (patch (s.rd A.slotR (32 * u + slice w 40 5)) (slice w 28 4) 1 (slice row (slice w 32 4) 1)) := by
  have low : slice w 45 9 % 256 = slice w 45 8 := slice_low_mod w 45 9 8 (by decide)
  unfold State.gatherRow
  rcases hr with ⟨hs, he, rfl⟩ | ⟨hs, he, rfl⟩ | ⟨hs, he, rfl⟩
  · simp only [hs, noteHist_sound he, hzHistRead_quiet hq]
  · simp only [hs, noteLand_sound he, hzLandRead_quiet hq]
  · simp only [hs, low, noteState_sound he]

theorem gather_ready {s : State} {u : CourseLoc} {k t row : Nat} (h : s.PortReady u k t 1) (hm : slice (s.pWord u t) 36 2 < 2)
    (hr : s.GatherReads k (courseIx u) t (s.pWord u t) row) :
    exec (.gather u) s = .next ((s.mark 2 (courseIx u)).gatherRow k (courseIx u) t (s.pWord u t)) := by
  have listed : gatherBad (s.pWord u t) = none := by
    rw [gatherBad, if_neg, if_neg (by omega)]
    rcases hr with ⟨hs, -⟩ | ⟨hs, -⟩ | ⟨hs, -⟩ <;> omega
  rw [show exec (.gather u) s = .next (s.portIssue u _ _) from live_next h.issue.clocked fun s => s.portIssue u _ _,
    portIssue_ready h (decide_eq_true rfl), State.runGather, listed]

/-! ### Operations that issue nothing (R76, R80, R86, R87) -/

/-- The issue operations: instruction, opcode, address slots. -/
def IssueOp (u : CourseLoc) (o : Instr × Nat × Nat) : Prop := o ∈ [(.bayrd u, 0x08, 2), (.baywr u, 0x09, 2), (.mrd u, 0x10, 4),
  (.mwr u, 0x11, 4), (.mgath u, 0x12, 4), (.call u, 0x18, 2), (.callr u, 0x19, 2)]

/-- An issue operation runs its frame, with the tag's check where it takes a tag. -/
theorem issueOp_run {s : State} {u : CourseLoc} {k t : Nat} {o : Instr × Nat × Nat} (ho : IssueOp u o)
    (h : s.PortReady u k t o.2.1) : ∃ tg f, (o.2.1 = 0x10 ∨ o.2.1 = 0x12 ∨ o.2.1 = 0x19 → tg = true) ∧
      exec o.1 s = .next ((s.mark 2 (courseIx u)).issueRun k (courseIx u) t (s.pWord u t) o.2.2 tg f) := by
  have run (p : Nat → Bool) (g : Nat → Nat → Nat → State → State) (hp : p o.2.1 = true)
      (he : exec o.1 s = s.live fun s => .next (s.portIssue u p g)) :
      exec o.1 s = .next (g k t (s.pWord u t) (s.mark 2 (courseIx u))) := by
    rw [he, live_next h.issue.clocked fun s => s.portIssue u p g, portIssue_ready h hp]
  simp only [IssueOp, List.mem_cons, List.not_mem_nil, or_false] at ho
  rcases ho with rfl | rfl | rfl | rfl | rfl | rfl | rfl
  · exact ⟨false, _, fun h => by simp at h, run _ _ (decide_eq_true rfl) rfl⟩
  · exact ⟨false, _, fun h => by simp at h, run _ _ (decide_eq_true rfl) rfl⟩
  · exact ⟨true, _, fun _ => rfl, run _ _ (decide_eq_true rfl) rfl⟩
  · exact ⟨false, _, fun h => by simp at h, run _ _ (decide_eq_true rfl) rfl⟩
  · exact ⟨true, _, fun _ => rfl, run _ _ (decide_eq_true rfl) rfl⟩
  · exact ⟨false, _, fun h => by simp at h, run _ _ (decide_eq_true rfl) rfl⟩
  · exact ⟨true, _, fun _ => rfl, run _ _ (decide_eq_true rfl) rfl⟩

/-- A word that cannot be corrected is a PNOP with STORE_ERROR, whose class is I (R86). -/
theorem pnop_storeError {s : State} {u : CourseLoc} {k t : Nat} (h : s.MayIssue 2 (courseIx u) (wallIx u.toWallLoc) k t)
    (he : s.errOf A.pimem (512 * courseIx u + t) = 2) : exec (.pnop u) s = .next ((s.mark 2 (courseIx u)).faultAt k 0x20
      (Loc.ofCourse (courseIx u)) .i (s.rd A.pCycle k) t (storeDetail 8 t 0 0 0)) := by
  have word : s.portWord (courseIx u) t = 0 := if_pos he
  have noted : (s.mark 2 (courseIx u)).notePimem k (courseIx u) t = (s.mark 2 (courseIx u)).faultAt k 0x20
      (Loc.ofCourse (courseIx u)) .i (s.rd A.pCycle k) t (storeDetail 8 t 0 0 0) := by
    have he' : (s.mark 2 (courseIx u)).errOf A.pimem (512 * courseIx u + t) = 2 := he
    rw [State.notePimem, he']
    rfl
  rw [show exec (.pnop u) s = .next (s.portIssue u _ _) from live_next h.clocked fun s => s.portIssue u _ _, State.portIssue,
    unit_turn h.active h.turn, word]
  dsimp only
  rw [slice_zero, if_pos (decide_eq_true rfl), State.voted, h.onTime, noted]

/-- Settles O9. -/
theorem portSlotOperations : Obligations.PortSlotOperations := by
  unfold Obligations.PortSlotOperations
  refine ⟨fun s u k t => ⟨fun h => ?pnop, fun h => ?gatheri, fun row hr hq h => ⟨fun hm => ?whole, fun hm => ?single⟩⟩,
    fun s u k t => ⟨fun o ho h hb hg => ?guard, fun o ho r h hb => ?field, fun o ho htag h hb hg ht => ?tag,
      fun pop hl h => ?unlisted, fun h he => ?storeError⟩⟩
  case pnop =>
    rw [show exec (.pnop u) s = .next (s.portIssue u _ _) from live_next h.issue.clocked fun s => s.portIssue u _ _,
      portIssue_ready h (decide_eq_true rfl)]
  case gatheri =>
    rw [show exec (.gatheri u) s = .next (s.portIssue u _ _) from live_next h.issue.clocked fun s => s.portIssue u _ _,
      portIssue_ready h (decide_eq_true rfl)]
    rfl
  case whole => rw [gather_ready h (by omega) hr, gatherRow_quiet (s := s.mark 2 (courseIx u)) hr hq, if_pos hm]
  case single =>
    rw [gather_ready h (by omega) hr, gatherRow_quiet (s := s.mark 2 (courseIx u)) hr hq, if_neg (by omega)]
    rfl
  case guard =>
    obtain ⟨tg, f, -, he⟩ := issueOp_run ho h
    rw [he, issueRun_ready h, hb]
    exact congrArg _ (if_pos hg)
  case field =>
    obtain ⟨tg, f, -, he⟩ := issueOp_run ho h
    rw [he, issueRun_ready h, hb]
  case tag =>
    obtain ⟨tg, f, tagged, he⟩ := issueOp_run ho h
    rw [he, issueRun_ready h, hb]
    dsimp only
    rw [if_neg (by omega), if_pos ⟨tagged htag, ht⟩]
  case unlisted =>
    rw [exec_portOpReserved h.issue.clocked, portIssue_ready h (by simp [hl]), State.portReserved, h.code]
    rfl
  case storeError =>
    exact ⟨_, pnop_storeError h he, rfl, faultAt_immediate (s := s.mark 2 (courseIx u)) (active_run h.active) ..⟩

end Sys2Proof.Machine

/-! SUPPORT and CERTIFICATE. Port units: requests to bays and memory models, and calls (O10). -/

namespace Sys2Proof.Machine

open Reg

section issues
variable {s : State} {u : CourseLoc} {k t pop n : Nat}

/-- An issue operation that sends: what its frame does with the address. -/
theorem exec_sends {i : Instr} {p : Nat → Bool} {tg : Bool} {f : Nat → Nat → Nat → Nat → State → State} (h : s.PortSends u k t pop n)
    (hp : p pop = true) (htg : tg = true → pop = 0x10 ∨ pop = 0x12 ∨ pop = 0x19)
    (he : exec i s = s.live fun s =>
      .next (s.portIssue u p fun k t w s => s.issueRun k (courseIx u) t w n tg (f k t w))) :
    exec i s = .next (f k t (s.pWord u t) (s.pAddr u t n) (s.mark 2 (courseIx u))) := by
  rw [he, live_next h.ready.issue.clocked fun s => s.portIssue u p _, portIssue_ready h.ready hp, issueRun_sends h htg]

/-! ### Requests to bays and memory models (R74 to R80, R183, R199) -/

theorem bayRequest_mark (write : Bool) : (s.mark 2 (courseIx u)).bayRequest k (courseIx u) t (s.pWord u t) (s.pAddr u t 2) write =
    { s.mark 2 (courseIx u) with bayReq := s.bayReq ++ [s.pBayReq u k t write] } := by
  simp only [State.bayRequest, State.pBayReq, mark_issueData, slice_at_zero]
  rfl

/-- The address that goes to an engine: aligned to 4 bytes for a gather, else to the request's size. -/
def mmeAlign (kind : MmeKind) (bytes a : Nat) : Nat :=
  match kind with
  | .gather => a - a % 4
  | _ => a - a % pow2ceil bytes

theorem sendMme_addr (kind : MmeKind) (bytes addr : Nat) :
    (match kind with
    | .gather => slice addr 0 52 / 4 * 4
    | _ => slice addr 0 52 / pow2ceil bytes * pow2ceil bytes) = mmeAlign kind bytes (addr % 2 ^ 52) := by
  cases kind <;> simp only [mmeAlign, div_mul_eq, slice_at_zero]

/-- The tag of a request, which a write does not make outstanding (R80). -/
def State.takeTag (s : State) (kind : MmeKind) (tag : Nat) : State := if kind = .write then s else s.wr A.tagOut tag 1

theorem takeTag_replaying (kind : MmeKind) (tag : Nat) : (s.takeTag kind tag).replaying k = s.replaying k := by
  cases kind
  · exact wr_replaying (by decide)
  · rfl
  · exact wr_replaying (by decide)

theorem sendMme_eq (v : State) (i w addr : Nat) (kind : MmeKind) : v.sendMme k i t w addr kind =
    let l := (lenBits (slice w 44 4)).getD 0
    let r : MmeReq := ⟨v.rd A.mmeSerial (engineOf i), k, v.rd A.pPid k, i, kind, slice w 18 7, slice w 16 2,
      mmeAlign kind (l / 8) (addr % 2 ^ 52), l, v.issueData i w, dueBed i w, slice w 36 4, v.dueBank k w, dueOf w, v.rd A.pCycle k, t,
      decide (kind ≠ .write), 0, 0, .fresh⟩
    let v := v.takeTag kind (128 * i + slice w 18 7)
    if v.replaying k then v
    else State.wr { v with mme := v.mme ++ [r] } A.mmeSerial (engineOf i) (v.rd A.mmeSerial (engineOf i) + 1) := by
  dsimp only
  rw [← sendMme_addr]
  rfl

theorem sendMme_replay (addr : Nat) (kind : MmeKind) (hr : s.replaying k = true) :
    (s.mark 2 (courseIx u)).sendMme k (courseIx u) t (s.pWord u t) addr kind =
      (s.mark 2 (courseIx u)).takeTag kind (128 * courseIx u + slice (s.pWord u t) 18 7) := by
  have replays : ((s.mark 2 (courseIx u)).takeTag kind (128 * courseIx u + slice (s.pWord u t) 18 7)).replaying k = true :=
    (takeTag_replaying ..).trans hr
  rw [sendMme_eq]
  dsimp only
  rw [replays, if_pos rfl]

theorem sendMme_live (addr : Nat) (kind : MmeKind) (hr : s.replaying k = false) :
    (s.mark 2 (courseIx u)).sendMme k (courseIx u) t (s.pWord u t) addr kind =
      State.wr { (s.mark 2 (courseIx u)).takeTag kind (128 * courseIx u + slice (s.pWord u t) 18 7) with
        mme := s.mme ++ [s.pMmeReq u k t kind (mmeAlign kind (s.pBits u t / 8) (addr % 2 ^ 52))] }
        A.mmeSerial (engineOf (courseIx u)) (s.rd A.mmeSerial (engineOf (courseIx u)) + 1) := by
  have live : ((s.mark 2 (courseIx u)).takeTag kind (128 * courseIx u + slice (s.pWord u t) 18 7)).replaying k = false :=
    (takeTag_replaying ..).trans hr
  rw [sendMme_eq]
  dsimp only
  rw [live, if_neg Bool.false_ne_true, mark_issueData]
  cases kind
  · rw [State.takeTag, if_neg (by decide), State.rd_wr_arr _ _ _ _ _ _ (by decide)]
    rfl
  · rfl
  · rw [State.takeTag, if_neg (by decide), State.rd_wr_arr _ _ _ _ _ _ (by decide)]
    rfl

/-! ### Calls (R81, R218 to R221) -/

/-- The message of a call reads the slots, the partition, the position and the epoch. -/
theorem callMessage_congr {v : State} (h : s.Only [19, 20] v) (i t w cw gen : Nat) (rsp : Bool) :
    v.callMessage k i t w cw gen rsp = s.callMessage k i t w cw gen rsp := by
  have data : v.issueData i w = s.issueData i w := slotField_same (fun j => h.rd A.slotR j rfl) ..
  simp only [State.callMessage, data, h.rd A.pPid _ rfl, h.rd A.pCycle _ rfl, h.rd A.epoch _ rfl]

/-- The message of R220 has two words and the data. -/
theorem callMessage_length (i t w cw gen : Nat) (rsp : Bool) :
    (s.callMessage k i t w cw gen rsp).length = 2 + ((lenBits (slice w 44 4)).getD 0 + 63) / 64 := by
  simp only [State.callMessage, List.length_cons, List.length_map, List.length_range]
  omega

/-- The message of a CALLR: its generation, its tag, the due position and the response flag beside what that of a CALL holds. -/
theorem callMessage_callr (i w cw gen : Nat) : s.callMessage k i t w cw gen true =
    (slice cw 0 12 + 2 ^ 23 * (i % 16) + 2 ^ 27 * (i / 16 % 16) + 2 ^ 31 * (i / 256) + 2 ^ 34 * s.rd A.pPid k +
      2 ^ 43 * slice w 16 2 + 2 ^ 56 * slice w 44 4 + 2 ^ 12 * gen + 2 ^ 16 * slice w 18 7 + 2 ^ 42 + 2 ^ 45 * slice w 25 9 +
      2 ^ 54 * slice w 34 2) :: (s.rd A.pCycle k + 2 ^ 48 * t + 2 ^ 58 * s.rd A.epoch (i / 16)) ::
    (List.range (((lenBits (slice w 44 4)).getD 0 + 63) / 64)).map fun j => slice (s.issueData i w) (64 * j) 64 := by
  simp only [State.callMessage, if_true, bit]
  congr 1
  ring

/-- The queue takes a message of `n` words of the partition of slot `k` (R219). -/
def State.callTakes (s : State) (q k n : Nat) : Prop :=
  s.qEn q = true ∧ s.qClass q = 1 ∧ s.qOwner q = some (s.rd A.pPid k) ∧ s.qUsed q + n ≤ s.qWords q

theorem callTakes_congr {v : State} (h : s.Only [19, 20] v) (hp : v.packets = s.packets) (q m : Nat) :
    (v.callTakes q k m ↔ s.callTakes q k m) ∧ v.on A.qPtrBad q = s.on A.qPtrBad q := by
  obtain ⟨hen, hclass, howner, hused, hwords, hbad⟩ :=
    queue_congr (q := q) (fun a i h1 h2 => h.reads a i (by simp [h1, h2])) hp
  simp only [State.callTakes, hen, hclass, howner, hused, hwords, h.rd A.pPid _ rfl, hbad, and_self]

/-- A portal with what a call leaves beside its message. -/
theorem portalSend_call {v : State} (h : s.Only [19, 20] v) (hp : v.packets = s.packets) {q : Nat} {ws : List Nat}
    (ht : s.callTakes q k ws.length) (hb : s.on A.qPtrBad q = false) :
    v.portalSend k (courseIx u) q ws = State.wr { v with packets := s.packets ++
      [⟨q, deviceProducer, ws.map (slice · 0 64), true, false, false⟩] } A.calls (courseIx u / 16) (s.rd A.calls (courseIx u / 16) + 1) := by
  obtain ⟨takes, bad⟩ := callTakes_congr (k := k) h hp q ws.length
  obtain ⟨hen, hclass, howner, hfits⟩ := takes.2 ht
  rw [portalSend_takes hen hclass howner hfits (bad.trans hb), hp, h.rd A.calls _ rfl]

theorem portalSend_call_waits {v : State} (h : s.Only [19, 20] v) (hp : v.packets = s.packets) {q : Nat} {ws : List Nat}
    (ht : ¬ s.callTakes q k ws.length) : v.portalSend k (courseIx u) q ws =
      State.addCause { v with portalMsg := v.portalMsg ++ [⟨k, courseIx u, q, ws⟩] } k 4 :=
  portalSend_waits fun hv => ht ((callTakes_congr h hp q ws.length).1.1 hv)

/-- A CALL sends its message (R218). -/
theorem exec_call (h : s.PortSends u k t 0x18 2) (hr : s.replaying k = false) :
    exec (.call u) s = .next ((s.mark 2 (courseIx u)).portalSend k (courseIx u)
      (128 * (courseIx u / 256) + slice (s.pAddr u t 2) 16 7) (s.callMessage k (courseIx u) t (s.pWord u t) (s.pAddr u t 2) 0 false)) := by
  have marked : s.Only [19, 20] (s.mark 2 (courseIx u)) := (State.Only.refl _ s).update (by rfl)
  rw [exec_sends h (decide_eq_true rfl) (by simp) rfl, callMessage_congr marked]
  exact congrArg _ (if_neg (Bool.eq_false_iff.1 hr))

/-- The generation of the tag of a CALLR (R81). -/
def State.callrGen (s : State) (u : CourseLoc) (t : Nat) : Nat :=
  (s.rd A.gen (128 * courseIx u + slice (s.pWord u t) 18 7) + 1) % 16

/-- What a CALLR leaves beside its message: the generation, the tag taken, the record (R81, R221). -/
def State.callrTaken (s : State) (u : CourseLoc) (k t : Nat) : State :=
  let i := courseIx u
  let w := s.pWord u t
  let tag := 128 * i + slice w 18 7
  { ((s.mark 2 i).wr A.gen tag (s.callrGen u t)).wr A.tagOut tag 1 with
    portalRec := s.portalRec ++ [⟨i, slice w 18 7, slice (s.pAddr u t 2) 0 12, s.callrGen u t, s.rd A.epoch (i / 16),
      16 * i + slice w 40 4, slice w 36 4, 2 ^ slice w 16 2, (s.rd A.pCycle k + slice w 34 2) % 4,
      slice w 25 9 + 2 ^ 9 * slice w 34 2, s.rd A.pCycle k⟩] }

theorem callrTaken_only : s.Only [19, 20] (s.callrTaken u k t) :=
  ((((State.Only.refl _ s).update (u := s.mark 2 (courseIx u)) (by rfl)).wr (a := A.gen) _ _ rfl).wr (a := A.tagOut) _ _ rfl).update (by rfl)

theorem exec_callr (h : s.PortSends u k t 0x19 2) (hr : s.replaying k = false) :
    exec (.callr u) s = .next ((s.callrTaken u k t).portalSend k (courseIx u)
      (128 * (courseIx u / 256) + slice (s.pAddr u t 2) 16 7)
      (s.callMessage k (courseIx u) t (s.pWord u t) (s.pAddr u t 2) (s.callrGen u t) true)) := by
  have live : ¬ (((s.mark 2 (courseIx u)).wr A.gen (128 * courseIx u + slice (s.pWord u t) 18 7) (s.callrGen u t)).wr A.tagOut
      (128 * courseIx u + slice (s.pWord u t) 18 7) 1).replaying k = true := by
    rw [wr_replaying (by decide), wr_replaying (by decide)]
    exact Bool.eq_false_iff.1 hr
  have cycle := (callrTaken_only (s := s) (u := u) (k := k) (t := t)).rd A.pCycle k rfl
  have epoch := (callrTaken_only (s := s) (u := u) (k := k) (t := t)).rd A.epoch (courseIx u / 16) rfl
  rw [exec_sends h (decide_eq_true rfl) (by simp) rfl, ← callMessage_congr callrTaken_only]
  refine congrArg _ ((if_neg live).trans ?_)
  rw [State.callrTaken, ← cycle, ← epoch]
  rfl

end issues

/-- Settles O10. -/
theorem portIssues : Obligations.PortIssues := by
  unfold Obligations.PortIssues
  refine ⟨fun s u k t => ⟨fun h => ?bayrd, fun h => ?baywr, fun hr => ⟨fun h => ?mrd, fun h => ?mwr, fun h => ?mgath⟩,
    fun hr => ⟨fun h => ?mrdReplay, fun h => ?mwrReplay, fun h => ?mgathReplay⟩⟩, fun s u k t => ?calls⟩
  case bayrd => rw [exec_sends h (decide_eq_true rfl) (by simp) rfl, bayRequest_mark]
  case baywr => rw [exec_sends h (decide_eq_true rfl) (by simp) rfl, bayRequest_mark]
  case mrd =>
    rw [exec_sends h (decide_eq_true rfl) (by simp) rfl, sendMme_live _ _ hr]
    rfl
  case mwr =>
    rw [exec_sends h (decide_eq_true rfl) (by simp) rfl, sendMme_live _ _ hr]
    rfl
  case mgath =>
    rw [exec_sends h (decide_eq_true rfl) (by simp) rfl, sendMme_live _ _ hr]
    rfl
  case mrdReplay =>
    rw [exec_sends h (decide_eq_true rfl) (by simp) rfl, sendMme_replay _ _ hr]
    rfl
  case mwrReplay =>
    rw [exec_sends h (decide_eq_true rfl) (by simp) rfl, sendMme_replay _ _ hr]
    rfl
  case mgathReplay =>
    rw [exec_sends h (decide_eq_true rfl) (by simp) rfl, sendMme_replay _ _ hr]
    rfl
  case calls =>
    intro w i cw q n data word1 word0 gen word0r sent waiting v vr takes hr
    have length (gen : Nat) (rsp : Bool) : (s.callMessage k i t w cw gen rsp).length = 2 + n := callMessage_length ..
    have fits (gen : Nat) (rsp : Bool) : takes ↔ s.callTakes q k (s.callMessage k i t w cw gen rsp).length := by
      rw [length, State.callTakes, ← Nat.add_assoc]
    have message : s.callMessage k i t w cw 0 false = word0 :: word1 :: data :=
      (callMessage_congr ((State.Only.refl _ s).update (by rfl)) ..).symm.trans (callMessage_call s i k t w cw 2 i)
    refine ⟨fun h => ⟨fun ht hb => ?sent, fun ht => ?waits⟩, fun h => ⟨fun ht hb => ?sentR, fun ht => ?waitsR⟩⟩
    case sent =>
      rw [exec_call h hr, portalSend_call (v := s.mark 2 i) ((State.Only.refl _ s).update (by rfl)) rfl ((fits 0 false).1 ht) hb,
        message]
    case waits =>
      rw [exec_call h hr, portalSend_call_waits (v := s.mark 2 i) ((State.Only.refl _ s).update (by rfl)) rfl fun hf => ht ((fits 0 false).2 hf),
        message]
      rfl
    case sentR =>
      rw [exec_callr h hr, portalSend_call (v := s.callrTaken u k t) callrTaken_only rfl ((fits _ true).1 ht) hb, callMessage_callr]
      rfl
    case waitsR =>
      rw [exec_callr h hr, portalSend_call_waits (v := s.callrTaken u k t) callrTaken_only rfl fun hf => ht ((fits _ true).2 hf), callMessage_callr]
      rfl

end Sys2Proof.Machine

/-! SUPPORT and CERTIFICATE. Invalidations and fences (chapter 8, R202, R209, R211). -/

namespace Sys2Proof.Machine

open Reg

/-- A request that is served runs its command (R396). -/
theorem access_next {s : State} {who : Who} (h : s.Serving who) (c : Instr) (g : State → State) :
    s.access who c (fun s => .next (g s)) = .next (g s) := access_on h ..

/-- A request to a power domain that is up runs its command. -/
theorem accessDom_next {s : State} {who : Who} {die dom : Nat} (h : s.ServingDom who die dom) (c : Instr) (g : State → State) :
    s.accessDom who die dom c (fun s => .next (g s)) = .next (g s) := accessDom_on h ..

/-- With power the always-on domain acts (R435). -/
theorem aon_next {s : State} (h : s.powered = true) (g : State → State) : s.aon (fun s => .next (g s)) = .next (g s) :=
  if_pos h

section fences
variable {s : State} {who : Who} {pid v : Nat}

/-- Whom a write of one of these registers acts for (R211). -/
theorem actsFor_of (h : s.pfRights who = true ∧ pid = slice v 0 8 ∨ s.pfRights who = false ∧ s.stamp who = .part pid) :
    s.actsFor who (slice v 0 8) = some pid := by
  unfold State.actsFor
  rcases h with ⟨hr, rfl⟩ | ⟨hr, hs⟩
  · rw [if_pos hr]
  · rw [if_neg (Bool.eq_false_iff.1 hr), hs]

/-- An initiator with no partition's rights and without the physical function's acts for none. -/
theorem actsFor_none {n : Nat} (hr : s.pfRights who = false) (hs : ∀ p, s.stamp who ≠ .part p) : s.actsFor who n = none := by
  unfold State.actsFor
  rw [if_neg (Bool.eq_false_iff.1 hr)]
  split
  next p hp => exact absurd hp (hs p)
  next => rfl

theorem tcInvWrite_of {die : Nat} (h : s.actsFor who (slice v 0 8) = some pid) :
    s.tcInvWrite who die v = if v.testBit 8 then State.ans (State.wf { s.wf (D die) MEM_TC_INV_CMD_PID (slice v 0 8) with
        tcache := s.tcache.filter fun x => ¬ (x.engine / 4 = die ∧ x.pid = pid ∧
          (s.rf (D die) MEM_TC_INV_PAGE_ALL = 1 ∨ x.page = s.rf (D die) MEM_TC_INV_PAGE_PAGE)) } (D die) MEM_TC_INV_CMD_DONE 0) 0 0
      else (s.wf (D die) MEM_TC_INV_CMD_PID (slice v 0 8)).ans 0 0 := by
  have all : (s.wf (D die) MEM_TC_INV_CMD_PID (slice v 0 8)).rf (D die) MEM_TC_INV_PAGE_ALL = s.rf (D die) MEM_TC_INV_PAGE_ALL :=
    State.rf_wf_reg _ _ _ _ _ _ (by simp [MEM_TC_INV_CMD_PID, MEM_TC_INV_PAGE_ALL])
  have page : (s.wf (D die) MEM_TC_INV_CMD_PID (slice v 0 8)).rf (D die) MEM_TC_INV_PAGE_PAGE = s.rf (D die) MEM_TC_INV_PAGE_PAGE :=
    State.rf_wf_reg _ _ _ _ _ _ (by simp [MEM_TC_INV_CMD_PID, MEM_TC_INV_PAGE_PAGE])
  simp only [State.tcInvWrite, h, slice_one]
  cases v.testBit 8
  · rfl
  · rw [if_neg (by decide), all, page]
    rfl

/-- What MME_FENCE_DONE does (R209). -/
def State.fenceDone (s : State) (die engine : Nat) : State :=
  let e := 4 * die + engine
  if s.mme.any fun x => engineOf x.course = e ∧ x.pid = s.rd A.fencePid e ∧ x.kind = .write ∧ x.serial < s.rd A.fenceAt e then s
  else s.wf (fenceBase die engine) MME_FENCE_DONE 1

theorem fenceWrite_of {die engine : Nat} (h : s.actsFor who (slice v 0 8) = some pid) :
    s.fenceWrite who die engine v = if v.testBit 8 then
      (((((s.wf (D die + 4 * engine) MME_FENCE_PID (slice v 0 8)).wr A.fenceAt (4 * die + engine)
        (s.rd A.mmeSerial (4 * die + engine))).wr A.fencePid (4 * die + engine) pid).wf (D die + 4 * engine) MME_FENCE_DONE 0).ans 0 0)
      else (s.wf (D die + 4 * engine) MME_FENCE_PID (slice v 0 8)).ans 0 0 := by
  simp only [State.fenceWrite, h, slice_one]
  cases v.testBit 8
  · rfl
  · rw [if_neg (by decide), State.rd_wf _ _ _ _ _ _ (by decide)]
    rfl

end fences

/-- Settles O23. -/
theorem invalidationsAndFences : Obligations.InvalidationsAndFences := by
  unfold Obligations.InvalidationsAndFences
  intro s who die engine val pid d v e b
  have inv (h : s.Serving who) : exec (.memTcInv who die val) s = .next (s.tcInvWrite who die v) := access_next h _ fun s => s.tcInvWrite who die v
  have fence (h : s.Serving who) : exec (.mmeFence who die engine val) s = .next (s.fenceWrite who die engine v) :=
    access_next h _ fun s => s.fenceWrite who die engine v
  have done (hc : s.clocked = true) : exec (.mmeFenceDone die engine) s = .next (s.fenceDone die engine) :=
    live_next hc fun s => s.fenceDone die engine
  refine ⟨fun h hp => ⟨fun hv => ?_, fun hv => ?_, fun hv => ⟨?_, ?_⟩⟩, fun h hr hs => ⟨?_, ?_⟩, fun hc => ⟨?_, fun hw => ?_, fun x hx hd hp hk hlt => ?_⟩⟩
  · rw [inv h, tcInvWrite_of (actsFor_of hp), if_pos hv]
  · rw [fence h, fenceWrite_of (actsFor_of hp), if_pos hv]
  · rw [inv h, tcInvWrite_of (actsFor_of hp), if_neg (Bool.eq_false_iff.1 hv)]
  · rw [fence h, fenceWrite_of (actsFor_of hp), if_neg (Bool.eq_false_iff.1 hv)]
  · rw [inv h]
    simp only [State.tcInvWrite, actsFor_none hr hs]
    rfl
  · rw [fence h]
    simp only [State.fenceWrite, actsFor_none hr hs]
    rfl
  · exact live_next hc fun s => s.wf d MEM_TC_INV_CMD_DONE 1
  · refine (done hc).trans (congrArg _ (if_neg ?_))
    simp only [List.any_eq_true, decide_eq_true_eq, not_exists, not_and]
    exact fun x hx he hp hk => not_lt.2 (hw x hx he hp hk)
  · refine (done hc).trans (congrArg _ (if_pos ?_))
    simp only [List.any_eq_true, decide_eq_true_eq]
    exact ⟨x, hx, hd, hp, hk, hlt⟩

end Sys2Proof.Machine

/-! SUPPORT and CERTIFICATE. Registers of two words; metering (chapter 15, R379 to R384). -/

namespace Sys2Proof.Machine

open Reg

/-! ### Registers of two words -/

/-- A register of two words holds 64 bits. -/
theorem pair_setPair_same (s : State) (o v : Nat) : (s.setPair o v).pair o = v % 2 ^ 64 := by
  have low : (s.setPair o v).reg o = v % 2 ^ 32 := (State.rd_wr_ix _ _ _ _ _ (by omega)).trans (State.rd_wr_same ..)
  have high : (s.setPair o v).reg (o + 4) = v / 2 ^ 32 % 2 ^ 32 := State.rd_wr_same ..
  rw [State.pair, low, high]
  omega

theorem reg_setPair_ne (s : State) {o i : Nat} (v : Nat) (h : i ≠ o) (h' : i ≠ o + 4) : (s.setPair o v).reg i = s.reg i :=
  (State.rd_wr_ix _ _ _ _ _ (Ne.symm h')).trans (State.rd_wr_ix _ _ _ _ _ (Ne.symm h))

theorem pair_setPair_ne (s : State) {o p : Nat} (v : Nat) (h : p + 8 ≤ o ∨ o + 8 ≤ p) : (s.setPair o v).pair p = s.pair p := by
  rw [State.pair, reg_setPair_ne _ _ (by omega) (by omega), reg_setPair_ne _ _ (by omega) (by omega)]
  rfl

theorem rd_setPair (s : State) {a : Arr} (i o v : Nat) (h : ¬ A.reg.code % 512 = a.code % 512) :
    (s.setPair o v).rd a i = s.rd a i :=
  (State.rd_wr_arr _ _ _ _ _ _ h).trans (State.rd_wr_arr _ _ _ _ _ _ h)

/-! ### Metering -/

section metering
variable {s : State} {k : Nat} {short : Bool}

/-- The words of the record of R380, with NOKEY and the number. -/
def State.recordWords (s : State) (k : Nat) (short : Bool) : List Nat :=
  [s.rd A.pPid k + 2 ^ 8 * s.chainAddr + 2 ^ 20 * s.rd A.epReg k + 2 ^ 21 * bit short +
      2 ^ 22 * bit (decide (slice (s.rd A.sealKey 0) 256 1 = 0)),
    s.rd A.meterSeq 0, s.powerId, s.rd A.epS k, s.timeNs, s.rd A.epMono k, s.mono, s.pair (P k + oMETER_CYCLES_LO),
    s.pair (P k + oMETER_CELL_STEPS_LO), s.pair (P k + oMETER_HOLD_NS_LO), s.pair (P k + oMETER_REC_BYTES_LO),
    s.rd A.epBefore k, s.rd A.epAfter k]

/-- The authentication code of a record: 0 without a key. -/
def State.recordMac (s : State) (ws : List Nat) : Nat :=
  if slice (s.rd A.sealKey 0) 256 1 = 0 then 0 else Config.sealRecord (slice (s.rd A.sealKey 0) 0 256) ws

/-- The record as it is kept (R380, R383). -/
def State.sealedRecord (s : State) (k : Nat) (short : Bool) : List Nat :=
  s.recordWords k short ++ (List.range 6).map fun i => slice (s.recordMac (s.recordWords k short)) (64 * i) 64

/-- A sealed record is in the vault before it goes to the log queue. -/
def State.vaulted (s : State) (k : Nat) (short : Bool) : State :=
  { s.wr A.meterSeq 0 (s.rd A.meterSeq 0 + 1) with
    vault := (s.vault ++ [s.sealedRecord k short]).drop (s.vault.length + 1 - 1024) }

theorem sealWords_epoch : s.sealWords (s.epochWords k short) =
    (s.vaulted k short).pushRecord (sealQueue (s.vaulted k short)) none (s.sealedRecord k short) := rfl

/-- The meters of a slot at the start of an epoch. -/
def State.metersCleared (s : State) (k : Nat) : State :=
  (((s.setPair (P k + oMETER_CYCLES_LO) 0).setPair (P k + oMETER_CELL_STEPS_LO) 0).setPair (P k + oMETER_HOLD_NS_LO) 0).setPair
    (P k + oMETER_REC_BYTES_LO) 0

theorem sealRec_awake (h : s.rd A.pwMode 0 ≠ 2) : s.sealRec k short = (s.sealWords (s.epochWords k short)).metersCleared k := by
  rw [State.sealRec, if_neg h]
  rfl

/-- The four meters restart at 0, and nothing else is written. -/
theorem metersCleared_pairs (s : State) (k : Nat) :
    (s.metersCleared k).pair (P k + oMETER_CYCLES_LO) = 0 ∧ (s.metersCleared k).pair (P k + oMETER_CELL_STEPS_LO) = 0 ∧
    (s.metersCleared k).pair (P k + oMETER_HOLD_NS_LO) = 0 ∧ (s.metersCleared k).pair (P k + oMETER_REC_BYTES_LO) = 0 := by
  have apart {a b : Nat} (h : a + 8 ≤ b ∨ b + 8 ≤ a) : P k + a + 8 ≤ P k + b ∨ P k + b + 8 ≤ P k + a := by omega
  refine ⟨?_, ?_, ?_, pair_setPair_same ..⟩
  · rw [State.metersCleared, pair_setPair_ne _ _ (apart (by decide)), pair_setPair_ne _ _ (apart (by decide)),
      pair_setPair_ne _ _ (apart (by decide)), pair_setPair_same, Nat.zero_mod]
  · rw [State.metersCleared, pair_setPair_ne _ _ (apart (by decide)), pair_setPair_ne _ _ (apart (by decide)), pair_setPair_same, Nat.zero_mod]
  · rw [State.metersCleared, pair_setPair_ne _ _ (apart (by decide)), pair_setPair_same, Nat.zero_mod]

theorem metersCleared_mem (s : State) (k : Nat) : (s.metersCleared k).mem = s.mem := by
  rw [State.metersCleared]
  exact (((State.mem_setPair ..).trans (State.mem_setPair ..)).trans (State.mem_setPair ..)).trans (State.mem_setPair ..)

theorem metersCleared_vault (s : State) (k : Nat) : (s.metersCleared k).vault = s.vault := by
  rw [State.metersCleared]
  exact (((State.vault_setPair ..).trans (State.vault_setPair ..)).trans (State.vault_setPair ..)).trans (State.vault_setPair ..)

theorem metersCleared_seq (s : State) (k : Nat) : (s.metersCleared k).rd A.meterSeq 0 = s.rd A.meterSeq 0 := by
  rw [State.metersCleared, rd_setPair _ _ _ _ (by decide), rd_setPair _ _ _ _ (by decide), rd_setPair _ _ _ _ (by decide),
    rd_setPair _ _ _ _ (by decide)]

/-- Sealing pushes a record to the log queue, beside the vault and the number. -/
theorem sealWords_calm : (s.vaulted k short).Calm recordCodes (s.sealWords (s.epochWords k short)) := by
  rw [sealWords_epoch]
  exact pushRecord_calm ..

theorem sealWords_seq : (s.sealWords (s.epochWords k short)).rd A.meterSeq 0 = (s.rd A.meterSeq 0 + 1) % 2 ^ 64 := by
  rw [(sealWords_calm (s := s) (k := k) (short := short)).only.rd A.meterSeq 0 rfl]
  have number : (s.vaulted k short).rd A.meterSeq 0 = (s.wr A.meterSeq 0 (s.rd A.meterSeq 0 + 1)).rd A.meterSeq 0 := by
    rw [State.vaulted, State.rd_update]
  rw [number, State.rd_wr_same, A.meterSeq_width]

theorem sealWords_vault : (s.sealWords (s.epochWords k short)).vault =
    (s.vault ++ [s.sealedRecord k short]).drop (s.vault.length + 1 - 1024) := by
  rw [(sealWords_calm (s := s) (k := k) (short := short)).vault, State.vaulted]

theorem sealWords_mem : (s.sealWords (s.epochWords k short)).mem = s.mem := (sealWords_calm (s := s) (k := k) (short := short)).mem

/-- Whether the device holds a sealing key, as one bit says it. -/
theorem keyed_bit (key : Nat) : decide (slice key 256 1 = 0) = !decide (slice key 256 1 = 1) := by
  have bound : slice key 256 1 < 2 := Nat.mod_lt _ (by decide)
  rcases Nat.lt_succ_iff_lt_or_eq.1 bound with h | h
  · simp [Nat.lt_one_iff.1 h]
  · simp [h]

end metering

/-- Settles O46. -/
theorem metering : Obligations.Metering := by
  unfold Obligations.Metering
  intro s who k short key keyed ws mac len due
  have dueIff : s.epochDue = true ↔ due := decide_eq_true_iff
  refine ⟨fun hp => ⟨fun hd => ?notDue, fun hd ho => ?closes⟩, fun _ hm => ?seals, fun h => ⟨fun hr => ?denied, fun hr => ?exports⟩⟩
  case notDue =>
    rw [show exec .epochClose s = .next (if s.epochDue then s.closeEpoch else s) from aon_next hp fun s => if s.epochDue then s.closeEpoch else s,
      if_neg (by rwa [dueIff])]
  case closes =>
    have none_open : s.each 32 (fun s k => if s.on A.epOpen k then (s.sealRec k false).epochOpen k else s) = s :=
      foldl_noop _ _ _ fun k hk => if_neg (by simp [ho k (List.mem_range.1 hk)])
    rw [show exec .epochClose s = .next (if s.epochDue then s.closeEpoch else s) from aon_next hp fun s => if s.epochDue then s.closeEpoch else s,
      if_pos (by rwa [dueIff]), State.closeEpoch, none_open]
  case seals =>
    have words : ws = s.recordWords k short := by
      simp only [ws, State.recordWords, keyed_bit]
      rfl
    have code : mac = s.recordMac ws := by
      have bound : slice key 256 1 < 2 := Nat.mod_lt _ (by decide)
      simp only [mac, State.recordMac, keyed, decide_eq_true_eq]
      split
      next one => rw [if_neg (by rw [show s.rd A.sealKey 0 = key from rfl, one]; decide)]
      next none => rw [if_pos (Nat.lt_one_iff.1 (Nat.lt_of_le_of_ne (Nat.le_of_lt_succ bound) none))]
    rw [code, words]
    intro t
    have sealed : t = (s.sealWords (s.epochWords k short)).metersCleared k := sealRec_awake hm
    obtain ⟨cycles, steps, hold, bytes⟩ := metersCleared_pairs (s.sealWords (s.epochWords k short)) k
    rw [sealed]
    refine ⟨?_, cycles, steps, hold, bytes, (metersCleared_seq ..).trans sealWords_seq, (metersCleared_mem ..).trans sealWords_mem⟩
    rw [metersCleared_vault, sealWords_vault, State.sealedRecord]
  case denied =>
    exact (access_next h _ fun s => s.timeGuard who State.exportVault).trans (congrArg _ (if_neg (by simp [hr])))
  case exports =>
    exact (access_next h _ fun s => s.timeGuard who State.exportVault).trans (congrArg _ (if_pos hr))

end Sys2Proof.Machine

/-! SUPPORT and CERTIFICATE. The clocks (chapters 15, 16 and 18, R364 to R366, R395, R396, R417). -/

namespace Sys2Proof.Machine

open Reg

/-! ### Frames of a TCLK tick -/

theorem get_filter {α : Type} (d : α) (p : Nat × α → Bool) (k : Nat) (hp : ∀ v, p (k, v) = true) (l : List (Nat × α)) :
    Sparse.get d (l.filter p) k = Sparse.get d l k := by
  induction l with
  | nil => rfl
  | cons e r ih =>
    obtain ⟨j, v⟩ := e
    by_cases hj : j = k
    · rw [List.filter_cons_of_pos (hj ▸ hp v), Sparse.get, Sparse.get, if_pos hj, if_pos hj]
    · by_cases he : p (j, v) = true
      · rw [List.filter_cons_of_pos he, Sparse.get, Sparse.get, if_neg hj, if_neg hj, ih]
      · rw [List.filter_cons_of_neg he, Sparse.get, if_neg hj, ih]

/-- Bringing one array back to its reset values leaves the others. -/
theorem rd_drop (s : State) {a b : Arr} (p : Nat → Bool) (i : Nat) (h : b.code % 512 ≠ a.code) : (s.drop a p).rd b i = s.rd b i := by
  have code : b.key i % 512 = b.code % 512 := by simp only [Arr.key]; omega
  rw [State.rd, State.rd, State.drop, get_filter _ _ _ fun v => ?_]
  simp only [code, h, false_and, not_false_eq_true, decide_true]

theorem State.Calm.drop {codes : List Nat} {s t : State} (h : s.Calm codes t) (a : Arr) (p : Nat → Bool)
    (ha : codes.contains a.code = true) (hr : a.code ≠ 0) : s.Calm codes (t.drop a p) :=
  ⟨⟨fun b i hb => (rd_drop t p i fun e => hb (by rw [e]; exact List.contains_iff_mem.1 ha)).trans (h.only.reads b i hb)⟩,
    fun i hi => (rd_drop t p i (Ne.symm hr)).trans (h.low i hi), h.core⟩

theorem vecMessage_calm (s : State) (f v : Nat) : s.Calm [78, 79] (s.vecMessage f v) := by
  have taken := (State.Calm.refl [78, 79] s).wr (a := A.vecRaised) (vecIx f v) 0 rfl (by decide)
  exact ((taken.wr _ _ rfl (by decide)).ite (taken.update (by rfl) (by rfl))).ite (.refl ..)

theorem flushVectors_calm (s : State) : s.Calm [78, 79] s.flushVectors := calm_foldl (fun _ _ => vecMessage_calm ..) ..

/-- Registers, timers and counts of holds and gates, of cores, and what a sample of a pin and its event write. -/
def tickCodes : List Nat := [49, 50, 79, 101, 102, 142, 349, 350] ++ raiseCodes

theorem holdTick_calm (s : State) (k : Nat) : s.Calm [0, 49, 50] (s.holdTick k) := by
  have block (o : Nat) : 0x1000 ≤ P k + o := (P_base k).trans (Nat.le_add_right ..)
  exact ((((State.Calm.refl ..).wr _ _ rfl (by decide)).setPair _ (block _) rfl).setPair _ (block _) rfl).ite
    ((((State.Calm.refl ..).wr _ _ rfl (by decide)).setPair _ (block _) rfl).ite (.refl ..))

theorem coreTick_calm (s : State) (c : Nat) : s.Calm [101, 102] (s.coreTick c) :=
  ((State.Calm.refl ..).wr _ _ rfl (by decide)).ite (((State.Calm.refl ..).wr _ _ rfl (by decide)).ite (.refl ..))

theorem noteStatus_calm (s : State) (f : Nat) (w : Bool) (b o st : Nat) : s.Calm [349, 350] (s.noteStatus f w b o st) :=
  (State.Calm.refl ..).ite (((State.Calm.refl ..).wr _ _ rfl (by decide)).wr _ _ rfl (by decide))

theorem complete_calm (s : State) (f : Nat) (w : Bool) (st d : Nat) : s.Calm [] (s.complete f w st d) :=
  ((State.Calm.refl ..).update (by rfl) (by rfl)).ite ((State.Calm.refl ..).update (by rfl) (by rfl))

theorem cnErr_calm (s : State) (die ni a st : Nat) : s.Calm [0] (s.cnErr die ni a st) :=
  ((State.Calm.refl ..).setPair _ (die_base ..) rfl).update (by rfl) (by rfl)

theorem heldExpired_calm (s : State) (h : HeldReq) : s.Calm [0, 349, 350] (s.heldExpired h) := by
  have counted := ((State.Calm.refl [0, 349, 350] s).cnt CN_ERR_TIMEOUTS 1 (D_base (whoNi h.who).1) rfl).step
    (cnErr_calm _ (whoNi h.who).1 (whoNi h.who).2 (2 ^ 40 * s.chainAddr + (h.cmd.place).getD 0) 4) rfl
  unfold State.heldExpired
  dsimp only
  split
  · exact (counted.step (noteStatus_calm ..) rfl).step (complete_calm ..) rfl
  · exact (counted.step (noteStatus_calm ..) rfl).step (complete_calm ..) rfl
  · exact counted

/-- The state without the requests that wait. -/
def State.unheld (s : State) : State := { s with held := [] }

theorem rd_unheld (s : State) (a : Arr) (i : Nat) : s.unheld.rd a i = s.rd a i := rfl

theorem State.Calm.unheld {codes : List Nat} {s t : State} (h : s.Calm codes t) : s.unheld.Calm codes t.unheld :=
  ⟨⟨h.only.reads⟩, h.low, congrArg State.unheld h.core⟩

theorem heldTicks_calm (s : State) : s.unheld.Calm [0, 349, 350] s.heldTicks.unheld := by
  have expired (l r : List HeldReq) : s.unheld.Calm [0, 349, 350] (r.foldl State.heldExpired { s with held := l }).unheld :=
    (calm_foldl (fun _ _ => heldExpired_calm ..) r { s with held := l }).unheld
  exact expired ..

theorem retrainTick_calm (s : State) (die : Nat) : s.Calm [0] (s.retrainTick die) := by
  have taken : s.Calm [0] (s.free 1).2 := (State.Calm.refl ..).update (by rfl) (by rfl)
  exact (State.Calm.refl ..).ite ((taken.wf _ _ (D_base die) rfl).ite taken)

theorem gpSample_calm (s : State) (pin : Nat) (l : Bool) : s.Calm raiseCodes (s.gpSample pin l) := by
  unfold State.gpSample
  dsimp only
  generalize patch _ _ _ _ = level
  have shown := (State.Calm.refl raiseCodes s).wf GP_IN_LEVEL level (D_base (pin / 32)) rfl
  exact ((shown.wf _ _ (D_base (pin / 32)) rfl).step (raise_calm ..) rfl).ite shown

theorem gpTick_calm (s : State) : s.Calm (142 :: raiseCodes) s.gpTick := by
  have resumed : s.Calm (142 :: raiseCodes) s.gpResume := by
    have sampled : s.Calm (142 :: raiseCodes) ((s.listed A.pinNow).foldl (fun u x => u.gpSample x.1 (x.2 = 3)) s) :=
      (calm_foldl (fun _ _ => gpSample_calm ..) ..).mono rfl
    unfold State.gpResume
    exact sampled.drop A.pinNow (fun _ => true) rfl (by decide)
  exact resumed.step (calm_each (fun _ _ => (gpSample_calm ..).ite (.refl ..)) ..) rfl

/-- A tick, but for its holds. -/
def State.tickRest (s : State) : State := ((s.each 256 State.coreTick).heldTicks.each 8 State.retrainTick).gpTick

theorem tickRest_calm (s : State) : s.unheld.Calm ([79, 101, 102, 142, 349, 350] ++ raiseCodes) s.tickRest.unheld :=
  ((((calm_each coreTick_calm 256 s).unheld.mono rfl).step (heldTicks_calm _) rfl).step (calm_each retrainTick_calm 8 _).unheld
    rfl).step (gpTick_calm _).unheld rfl

theorem dieTick_eq (s : State) : s.dieTick = { (s.each 32 State.holdTick).tickRest with
    outst := ((((s.each 32 State.holdTick).each 256 State.coreTick).heldTicks).each 8 State.retrainTick).outst.map outstTick } := rfl

/-! ### Folds over units -/

/-- What the turns of the other units leave alone. -/
theorem foldl_keeps {α β : Type} {obs : State → β} {f : State → α → State} {l : List α}
    (h : ∀ (u : State), ∀ x ∈ l, obs (f u x) = obs u) (s : State) : obs (l.foldl f s) = obs s := by
  induction l generalizing s with
  | nil => rfl
  | cons x r ih => exact (ih (fun u y hy => h u y (List.mem_cons_of_mem x hy)) _).trans (h s x List.mem_cons_self)

/-- What only the turn of one unit changes, its turn alone decides. -/
theorem foldl_at {α β : Type} {obs : State → β} {f : State → α → State} {k : α}
    (h : ∀ (u : State) x, x ≠ k → obs (f u x) = obs u) {l : List α} (hk : k ∈ l) (hl : l.Nodup) (s : State) :
    ∃ u, obs u = obs s ∧ obs (l.foldl f s) = obs (f u k) := by
  induction l generalizing s with
  | nil => cases hk
  | cons x r ih =>
    obtain ⟨hx, hr⟩ := List.nodup_cons.1 hl
    by_cases hxk : x = k
    · subst hxk
      exact ⟨s, rfl, foldl_keeps (fun u y hy => h u y fun e => hx (e ▸ hy)) _⟩
    · obtain ⟨u, hu, hf⟩ := ih ((List.mem_cons.1 hk).resolve_left (Ne.symm hxk)) hr (f s x)
      exact ⟨u, hu.trans (h s x hxk), hf⟩

theorem each_at {β : Type} {obs : State → β} {f : State → Nat → State} {n k : Nat} (hk : k < n)
    (h : ∀ (u : State) j, j ≠ k → obs (f u j) = obs u) (s : State) : ∃ u, obs u = obs s ∧ obs (s.each n f) = obs (f u k) :=
  foldl_at h (List.mem_range.2 hk) List.nodup_range s

/-! ### Holds (R144) -/

theorem holdTick_held {s : State} {k : Nat} (h : s.rd A.pState k = 3) :
    (s.holdTick k).rd A.holdTimer k = (s.rd A.holdTimer k + 1) % 2 ^ A.holdTimer.width := by
  rw [State.holdTick, if_pos h, State.meter, rd_setPair _ _ _ _ (by decide), State.pairInc, rd_setPair _ _ _ _ (by decide),
    State.rd_wr_same]

theorem holdTick_other (s : State) {j k : Nat} (h : j ≠ k) : (s.holdTick j).rd A.holdTimer k = s.rd A.holdTimer k := by
  unfold State.holdTick
  split
  · rw [State.meter, rd_setPair _ _ _ _ (by decide), State.pairInc, rd_setPair _ _ _ _ (by decide), State.rd_wr_ix _ _ _ _ _ h]
  split
  · rw [State.pairInc, rd_setPair _ _ _ _ (by decide), State.rd_wr_arr _ _ _ _ _ _ (by decide)]
  · rfl

theorem holds_tick {s : State} {k : Nat} (hk : k < 32) (h : s.rd A.pState k = 3) :
    (s.each 32 State.holdTick).rd A.holdTimer k = (s.rd A.holdTimer k + 1) % 2 ^ A.holdTimer.width := by
  obtain ⟨u, hu, ht⟩ := each_at (obs := fun u => (u.rd A.pState k, u.rd A.holdTimer k)) hk
    (fun u j hj => Prod.ext ((holdTick_calm u j).only.rd A.pState k rfl) (holdTick_other u hj)) s
  obtain ⟨state, timer⟩ := Prod.mk.inj hu
  rw [(Prod.mk.inj ht).2, holdTick_held (state.trans h), timer]

/-! ### The tick -/

/-- TIME_NS and MONO_NS have moved on by `n` and `m`, in units of 2^-32 ns, and nothing of the store behind (R364, R366). -/
def State.Passed (s t : State) (n m : Nat) : Prop :=
  t.timeNs = (s.timeNs * 2 ^ 32 + s.rf 0 TIME_FRAC_VALUE + n) / 2 ^ 32 % 2 ^ 64 ∧
  t.rf 0 TIME_FRAC_VALUE = (s.timeNs * 2 ^ 32 + s.rf 0 TIME_FRAC_VALUE + n) % 2 ^ 32 ∧
  t.mono = (s.mono * 2 ^ 32 + s.rd A.monoFrac 0 + m) / 2 ^ 32 % 2 ^ 64 ∧ t.mem = s.mem

theorem State.Calm.frac {codes : List Nat} {s t : State} (h : s.Calm codes t) : t.rf 0 TIME_FRAC_VALUE = s.rf 0 TIME_FRAC_VALUE :=
  h.rf (by decide)

/-- Calm operations before and after leave the time as it passes. -/
theorem State.Passed.before {codes : List Nat} {s u t : State} {n m : Nat} (hu : s.Calm codes u) (hc : codes.contains 253 = false)
    (h : u.Passed t n m) : s.Passed t n m := by
  unfold State.Passed at h ⊢
  rwa [hu.timeNs, hu.frac, hu.monoNs, hu.only.rd A.monoFrac 0 hc, hu.mem] at h

theorem State.Passed.after {codes : List Nat} {s u t : State} {n m : Nat} (h : s.Passed u n m) (ht : u.Calm codes t) :
    s.Passed t n m := by
  unfold State.Passed at h ⊢
  rwa [ht.timeNs, ht.frac, ht.monoNs, ht.mem]

/-- A register beside the array that is written. -/
theorem pair_wr (s : State) {a : Arr} (i v o : Nat) (h : ¬ a.code % 512 = 0) : (s.wr a i v).pair o = s.pair o := by
  rw [State.pair, State.reg_wr _ _ _ _ _ h, State.reg_wr _ _ _ _ _ h, State.pair]

theorem pair_wf (s : State) (b : Nat) (f : Fld) (v : Nat) {o : Nat} (h : b + f.off ≠ o) (h' : b + f.off ≠ o + 4) :
    (s.wf b f v).pair o = s.pair o := by
  rw [State.pair, State.reg_wf _ _ _ _ _ h, State.reg_wf _ _ _ _ _ h', State.pair]

theorem rf_wr (s : State) {a : Arr} (i v b : Nat) (f : Fld) (h : ¬ a.code % 512 = 0) : (s.wr a i v).rf b f = s.rf b f := by
  rw [State.rf, State.reg_wr _ _ _ _ _ h, State.rf]

theorem rf_setPair (s : State) {o : Nat} (v b : Nat) (f : Fld) (h : b + f.off ≠ o) (h' : b + f.off ≠ o + 4) :
    (s.setPair o v).rf b f = s.rf b f := by
  rw [State.rf, reg_setPair_ne _ _ h h', State.rf]

section advance
variable {s : State} {n m : Nat}

theorem advanceTime_timeNs : (s.advanceTime n).timeNs = (s.timeNs * 2 ^ 32 + s.rf 0 TIME_FRAC_VALUE + n) / 2 ^ 32 % 2 ^ 64 := by
  unfold State.advanceTime
  dsimp only
  split
  · rw [State.timeNs, pair_wr _ _ _ _ (by decide), pair_wf _ _ _ _ (by decide) (by decide), pair_setPair_same, Nat.mod_mod]
  · rw [State.timeNs, pair_wf _ _ _ _ (by decide) (by decide), pair_setPair_same, Nat.mod_mod]

theorem advanceTime_frac :
    (s.advanceTime n).rf 0 TIME_FRAC_VALUE = (s.timeNs * 2 ^ 32 + s.rf 0 TIME_FRAC_VALUE + n) % 2 ^ 32 := by
  unfold State.advanceTime
  dsimp only
  split
  · rw [rf_wr _ _ _ _ _ (by decide)]
    exact State.rf_wf_same _ _ _ _ (by decide)
  · exact State.rf_wf_same _ _ _ _ (by decide)

theorem advanceTime_mono : (s.advanceTime n).mono = s.mono := by
  unfold State.advanceTime
  dsimp only
  split
  · rw [State.mono, pair_wr _ _ _ _ (by decide), pair_wf _ _ _ _ (by decide) (by decide), pair_setPair_ne _ _ (by decide), State.mono]
  · rw [State.mono, pair_wf _ _ _ _ (by decide) (by decide), pair_setPair_ne _ _ (by decide), State.mono]

theorem advanceTime_only : s.Only [0, 251] (s.advanceTime n) :=
  (((((State.Only.refl ..).setPair _ _ rfl).wf _ _ _ rfl).wr _ _ rfl).ite (((State.Only.refl ..).setPair _ _ rfl).wf _ _ _ rfl))

theorem advanceTime_core : (s.advanceTime n).core = s.core := by
  unfold State.advanceTime
  dsimp only
  split
  · exact ((core_wr ..).trans (core_wf ..)).trans (core_setPair ..)
  · exact (core_wf ..).trans (core_setPair ..)

theorem advanceMono_core : (s.advanceMono m).core = s.core := (core_wr ..).trans (core_setPair ..)

theorem advanceMono_only : s.Only [0, 253] (s.advanceMono m) := ((State.Only.refl ..).setPair _ _ rfl).wr _ _ rfl

theorem advanceMono_mono : (s.advanceMono m).mono = (s.mono * 2 ^ 32 + s.rd A.monoFrac 0 + m) / 2 ^ 32 % 2 ^ 64 := by
  rw [State.advanceMono, State.mono, pair_wr _ _ _ _ (by decide), pair_setPair_same, Nat.mod_mod, State.mono]

theorem advanceMono_timeNs : (s.advanceMono m).timeNs = s.timeNs := by
  rw [State.advanceMono, State.timeNs, pair_wr _ _ _ _ (by decide), pair_setPair_ne _ _ (by decide), State.timeNs]

theorem advanceMono_frac : (s.advanceMono m).rf 0 TIME_FRAC_VALUE = s.rf 0 TIME_FRAC_VALUE := by
  rw [State.advanceMono, rf_wr _ _ _ _ _ (by decide), rf_setPair _ _ _ _ (by decide) (by decide)]

/-- The time of a tick. -/
def State.timeTick (s : State) (n m : Nat) : State := (s.advanceTime n).advanceMono m

theorem timeTick_only : s.Only [0, 251, 253] (s.timeTick n m) := (advanceTime_only.mono rfl).step advanceMono_only rfl

theorem timeTick_core : (s.timeTick n m).core = s.core := advanceMono_core.trans advanceTime_core

theorem timeTick_passed : s.Passed (s.timeTick n m) n m := by
  refine ⟨?_, ?_, ?_, mem_of_core timeTick_core⟩
  · rw [State.timeTick, advanceMono_timeNs, advanceTime_timeNs]
  · rw [State.timeTick, advanceMono_frac, advanceTime_frac]
  · rw [State.timeTick, advanceMono_mono, advanceTime_mono, advanceTime_only.rd A.monoFrac 0 rfl]

theorem timeTick_outst : (s.timeTick n m).outst = s.outst := outst_of_core timeTick_core

end advance

/-- A field of TIME_STATUS is none of the registers of the time. -/
theorem Passed_status {s t : State} {n m : Nat} (h : s.Passed t n m) (v : Nat) {f : Fld} (hf : f.off = 0xB28) :
    s.Passed (t.wf 0 f v) n m := by
  have apart {o : Nat} (h : o ≠ 0xB28) : 0 + f.off ≠ o := by omega
  unfold State.Passed at h ⊢
  rwa [State.timeNs, pair_wf _ _ _ _ (apart (by decide)) (apart (by decide)), State.mono,
    pair_wf _ _ _ _ (apart (by decide)) (apart (by decide)), State.rf_wf_reg _ _ _ _ _ _ (apart (by decide)), State.mem_wf]

theorem State.Calm.timeInc {codes : List Nat} {s t : State} (h : s.Calm codes t) : t.timeInc = s.timeInc := by
  simp only [State.timeInc, State.reg, h.low oTIME_INC_LO (by decide), h.low oTIME_INC_HI (by decide)]

theorem State.Passed.unheld {s t : State} {n m : Nat} : s.Passed t.unheld n m ↔ s.Passed t n m := .rfl

theorem State.Passed.outst {s t : State} {n m : Nat} (h : s.Passed t n m) (l : List Outst) : s.Passed { t with outst := l } n m := h

theorem clocked_only {codes : List Nat} {s t : State} (h : s.Only codes t) (hm : codes.contains (A.pwMode.code % 512) = false)
    (hd : codes.contains (A.refDead.code % 512) = false) (hg : codes.contains (A.refGone.code % 512) = false) :
    t.clocked = s.clocked := by
  rw [State.clocked, State.clocked, State.refOk, State.refOk, h.rd A.pwMode 0 hm, h.rd A.refDead 0 hd, h.rd A.refGone 0 hg]

section dies
variable (s : State)

/-- What the dies do in a tick leaves the time and the partitions. -/
theorem dieTick_passed {u : State} {n m : Nat} (h : u.Passed s n m) : u.Passed s.dieTick n m := by
  rw [dieTick_eq]
  exact (State.Passed.unheld.1 ((State.Passed.unheld.2 (h.after (calm_each holdTick_calm 32 s))).after (tickRest_calm _))).outst _

theorem dieTick_rd {a : Arr} (i : Nat) (ha : tickCodes.contains (a.code % 512) = false) : s.dieTick.rd a i = s.rd a i := by
  rw [dieTick_eq, State.rd_update]
  exact ((((calm_each holdTick_calm 32 s).unheld.mono rfl).step (tickRest_calm _) rfl : s.unheld.Calm tickCodes _).only.rd a i ha)

theorem dieTick_outst : s.dieTick.outst = s.outst.map outstTick := by
  rw [dieTick_eq]
  exact congrArg (List.map outstTick) ((((((calm_each holdTick_calm 32 s).unheld.mono rfl).step
    (calm_each coreTick_calm 256 _).unheld rfl).step (heldTicks_calm _) rfl).step (calm_each retrainTick_calm 8 _).unheld rfl :
      s.unheld.Calm tickCodes _).outst)

theorem dieTick_held {k : Nat} (hk : k < 32) (h : s.rd A.pState k = 3) :
    s.dieTick.rd A.holdTimer k = (s.rd A.holdTimer k + 1) % 2 ^ A.holdTimer.width := by
  have rest := (tickRest_calm (s.each 32 State.holdTick)).only.rd A.holdTimer k rfl
  rw [rd_unheld, rd_unheld] at rest
  rw [dieTick_eq, State.rd_update, rest, holds_tick hk h]

end dies

/-- TCLK with the clocks running: the vectors' messages, the time, and the dies. -/
theorem tclk_clocked {s : State} (hg : s.on A.refGone 0 = false) (hc : s.clocked = true) :
    s.tclk = (s.flushVectors.timeTick s.timeInc (10 * 2 ^ 32)).dieTick := by
  have still : (s.flushVectors.timeTick s.timeInc (10 * 2 ^ 32)).clocked = true :=
    (clocked_only timeTick_only rfl rfl rfl).trans ((clocked_only (flushVectors_calm s).only rfl rfl rfl).trans hc)
  rw [State.timeTick] at still ⊢
  simp only [State.tclk, hg, hc, Bool.false_eq_true, if_false, if_true, still]

/-- TCLK without the clocks of the dies: the time alone. -/
theorem tclk_dead {s : State} (hg : s.on A.refGone 0 = false) (hc : s.clocked = false) :
    s.tclk = s.timeTick s.timeInc (10 * 2 ^ 32) := by
  have still : (s.timeTick s.timeInc (10 * 2 ^ 32)).clocked = false := (clocked_only timeTick_only rfl rfl rfl).trans hc
  rw [State.timeTick] at still ⊢
  simp only [State.tclk, hg, hc, Bool.false_eq_true, if_false, still]

/-- Settles O47. -/
theorem clocks : Obligations.Clocks := by
  unfold Obligations.Clocks
  intro s frac period monoFrac passed hp
  have tick : exec .tclkTick s = .next s.tclk := aon_next hp State.tclk
  have rc : exec .rcOscillatorTick s = .next (if s.on A.refGone 0 then
      ((s.timeTick rcPeriod rcPeriod).wf 0 TIME_STATUS_HOLDOVER 1).wf 0 TIME_STATUS_RC 1 else s) :=
    aon_next hp fun s => if s.on A.refGone 0 then
      ((s.timeTick rcPeriod rcPeriod).wf 0 TIME_STATUS_HOLDOVER 1).wf 0 TIME_STATUS_RC 1 else s
  refine ⟨fun hg => ⟨?_, ?_⟩, fun hg => ⟨?_, fun hc => ?running, fun hc => ?still⟩, aon_next hp fun s => ((s.wr A.refDead 0 1).wr A.refGone 0 1).wf 0 PWR_STATUS_REFCLK_LOST 1,
    aon_next hp fun s => (s.wr A.refGone 0 0).wf 0 TIME_STATUS_RC 0⟩
  · rw [tick, State.tclk, if_pos hg]
  · rw [rc, if_pos hg]
    refine ⟨_, rfl, Passed_status (Passed_status timeTick_passed 1 rfl) 1 rfl, ?_, ?_, ?_⟩
    · exact (State.rf_wf_bits _ _ TIME_STATUS_RC TIME_STATUS_HOLDOVER _ rfl (by decide) (by decide)).trans (State.rf_wf_same _ _ _ _ (by decide))
    · exact State.rf_wf_same _ _ _ _ (by decide)
    · rw [State.outst_wf, State.outst_wf, timeTick_outst]
  · rw [rc, if_neg (Bool.eq_false_iff.1 hg)]
  case running =>
    have flushed := flushVectors_calm s
    rw [tick, tclk_clocked hg hc]
    refine ⟨_, rfl, (dieTick_passed _ timeTick_passed).before flushed rfl, ?_, fun k hk h3 => ?_, fun k => ⟨?_, ?_⟩⟩
    · rw [dieTick_outst, timeTick_outst, flushed.outst]
      exact List.map_congr_left fun o _ => by cases h : o.paused <;> simp [outstTick, h]
    · have state : (s.flushVectors.timeTick s.timeInc (10 * 2 ^ 32)).rd A.pState k = s.rd A.pState k :=
        (timeTick_only.rd A.pState k rfl).trans (flushed.only.rd A.pState k rfl)
      rw [dieTick_held _ hk (state.trans h3), timeTick_only.rd A.holdTimer k rfl, flushed.only.rd A.holdTimer k rfl]
    · rw [dieTick_rd _ _ rfl, timeTick_only.rd A.pState k rfl, flushed.only.rd A.pState k rfl]
    · rw [dieTick_rd _ _ rfl, timeTick_only.rd A.pCycle k rfl, flushed.only.rd A.pCycle k rfl]
  case still =>
    rw [tick, tclk_dead hg hc]
    exact ⟨_, rfl, timeTick_passed, timeTick_outst, fun k => timeTick_only.rd A.holdTimer k rfl⟩

end Sys2Proof.Machine

/-! CERTIFICATE. Fault records (chapter 7, R174, R260). -/

namespace Sys2Proof.Machine

open Reg

/-- A partition whose records of die 0 are all told, and whose recorder starts on an assertion. -/
def suppressedAssertion : State := (State.reset.wr A.recCnt 0 64).wf (P 0) REC_CFG_START_SRC 1

/-- Refutes O60: an assertion (code 1) that is suppressed is still an event of the recorder (R260), so that more than its
count changes where REC_CFG names assertions as the start event. -/
theorem not_faultRecords : ¬ Obligations.FaultRecords := by
  unfold Obligations.FaultRecords
  intro h
  obtain ⟨-, -, -, suppressed, -⟩ := h suppressedAssertion 0 1 0 0 0 0 0 ⟨0, 0, 0, 0, 0, 0⟩ (by decide) (by decide)
  have event := congrArg (fun t => t.rd A.recWant 0) (suppressed (by decide))
  exact absurd event (by decide)

end Sys2Proof.Machine

/-! SUPPORT and CERTIFICATE. Power domains (chapter 18, R422 to R424). -/

namespace Sys2Proof.Machine

open Reg

/-! ### Bits of a register -/

theorem testBit_slice (v i : Nat) : v.testBit i = decide (slice v i 1 = 1) := by
  rw [slice_one]
  cases v.testBit i <;> rfl

theorem testBit_patch_same (v i x : Nat) : (patch v i 1 x).testBit i = decide (x % 2 = 1) := by
  rw [testBit_slice, slice_patch_same, pow_one]

theorem testBit_patch_ne (v x : Nat) {i j : Nat} (h : j ≠ i) : (patch v i 1 x).testBit j = v.testBit j := by
  rw [testBit_slice, slice_patch_ne _ _ _ _ _ _ (by omega), ← testBit_slice]

/-- A bit of a register after it was set or cleared. -/
theorem reg_patch_same (s : State) {o i : Nat} (v x : Nat) (hi : i < 32) :
    ((s.wr A.reg o (patch v i 1 x)).reg o).testBit i = decide (x % 2 = 1) := by
  rw [show (s.wr A.reg o (patch v i 1 x)).reg o = patch v i 1 x % 2 ^ 32 from State.rd_wr_same .., Nat.testBit_mod_two_pow,
    decide_eq_true hi, Bool.true_and, testBit_patch_same]

/-- The other bits of a register in which one was set or cleared. -/
theorem reg_patch_ne (s : State) {o i j : Nat} (x : Nat) (hj : j ≠ i) :
    ((s.wr A.reg o (patch (s.reg o) i 1 x)).reg o).testBit j = (s.reg o).testBit j := by
  rw [show (s.wr A.reg o (patch (s.reg o) i 1 x)).reg o = patch (s.reg o) i 1 x % 2 ^ 32 from State.rd_wr_same ..,
    Nat.testBit_mod_two_pow, testBit_patch_ne _ _ hj]
  by_cases h : j < 32
  · rw [decide_eq_true h, Bool.true_and]
  · have high : (s.reg o).testBit j = false :=
      Nat.testBit_lt_two_pow (lt_of_lt_of_le (State.rd_lt s A.reg o) (Nat.pow_le_pow_right (by decide) (not_lt.1 h)))
    rw [decide_eq_false h, Bool.false_and, high]

/-! ### Contents that go -/

theorem get_filter_out {α : Type} (d : α) (p : Nat × α → Bool) (k : Nat) (hp : ∀ v, p (k, v) = false) (l : List (Nat × α)) :
    Sparse.get d (l.filter p) k = d := by
  induction l with
  | nil => rfl
  | cons e r ih =>
    by_cases he : p e = true
    · have other : e.1 ≠ k := by
        rintro rfl
        exact Bool.false_ne_true ((hp e.2).symm.trans he)
      rw [List.filter_cons_of_pos he, Sparse.get, if_neg other, ih]
    · rw [List.filter_cons_of_neg he, ih]

/-- An entry of the array that is brought back reads its reset value, every other entry what it did. -/
theorem rd_drop_eq (s : State) (a : Arr) {b : Arr} (hb : b.code < 512) (p : Nat → Bool) (i : Nat) :
    (s.drop a p).rd b i = if b.code = a.code ∧ p i = true then dflt (b.key i) % 2 ^ b.width else s.rd b i := by
  have code : b.key i % 512 = b.code := by simp only [Arr.key]; omega
  have place : b.key i / 512 = i := by simp only [Arr.key]; omega
  rw [State.rd, State.drop]
  split
  next h => rw [get_filter_out _ _ _ fun v => by simp only [code, place, h, and_self, not_true_eq_false, decide_false]]
  next h => rw [get_filter _ _ _ fun v => by simp only [code, place, h, not_false_eq_true, decide_true], State.rd]

/-- An array whose entries are 0 at reset. -/
def Arr.Plain (a : Arr) : Prop := a.code < 512 ∧ a.code ≠ A.reg.code ∧ a.code ≠ A.evtVec.code

theorem dflt_plain {a : Arr} (h : a.Plain) (i : Nat) : dflt (a.key i) = 0 := by
  obtain ⟨hc, hr, hv⟩ := h
  have code : a.key i % 512 = a.code := by simp only [Arr.key]; omega
  rw [dflt, code, if_neg hr, if_neg hv]

/-- What a domain loses, array by array (R423). -/
def State.loses (s : State) (die : Nat) (x : Arr × Nat) : State :=
  (s.drop x.1 fun i => i / x.2 = die).drop A.err fun i => i % 512 = x.1.code ∧ i / 512 / x.2 = die

theorem loses_zero {s : State} {a : Arr} (ha : a.Plain) {i : Nat} (h : s.rd a i = 0) (die : Nat) (x : Arr × Nat) :
    (s.loses die x).rd a i = 0 := by
  rw [State.loses, rd_drop_eq _ _ ha.1, rd_drop_eq _ _ ha.1, dflt_plain ha, Nat.zero_mod, h, ite_self, ite_self]

theorem loses_own {s : State} {a : Arr} (ha : a.Plain) {i n die : Nat} (h : i / n = die) : (s.loses die (a, n)).rd a i = 0 := by
  rw [State.loses, rd_drop_eq _ _ ha.1, rd_drop_eq _ _ ha.1, dflt_plain ha, Nat.zero_mod,
    if_pos (⟨rfl, decide_eq_true h⟩ : a.code = a.code ∧ decide (i / n = die) = true), ite_self]

theorem domArrays_lost {s : State} {a : Arr} (ha : a.Plain) {i n die : Nat} {l : List (Arr × Nat)} (hl : (a, n) ∈ l) (h : i / n = die) :
    (l.foldl (State.loses · die) s).rd a i = 0 := by
  have rest (l : List (Arr × Nat)) (u : State) (hu : u.rd a i = 0) : (l.foldl (State.loses · die) u).rd a i = 0 := by
    induction l generalizing u with
    | nil => exact hu
    | cons x r ih => exact ih _ (loses_zero ha hu die x)
  induction l generalizing s with
  | nil => cases hl
  | cons x r ih =>
    rcases List.mem_cons.1 hl with rfl | hr
    · exact rest r _ (loses_own ha h)
    · exact ih hr

theorem loses_mem (l : List (Arr × Nat)) (die : Nat) (s : State) : (l.foldl (State.loses · die) s).mem = s.mem :=
  foldl_keeps (obs := State.mem) (f := (State.loses · die)) (fun _ _ _ => rfl) s

/-- A domain without its contents. -/
def State.unitsLost (s : State) (die dom : Nat) : State :=
  ((domArrays dom).foldl (State.loses · die) s).drop A.reg fun o =>
    Off.die die 0 ≤ o ∧ o < Off.die die 0x800000 ∧ domReg dom (o - Off.die die 0)

/-- A domain that goes off, after its lines have left the L2s: what it holds is lost, its bits are 0. -/
theorem domOff_eq (s : State) (die dom : Nat) : ∃ u : State, (dom ≠ 1 → u = s) ∧
    s.domOff die dom = ((u.unitsLost die dom).wr A.reg oDOMAIN_STATUS
        (patch ((u.unitsLost die dom).reg oDOMAIN_STATUS) (4 * die + dom) 1 0)).wr A.domWake (4 * die + dom) 0 :=
  ⟨_, fun h => if_neg h, rfl⟩

/-- A domain that was asked off: its units' state is lost, its bit of DOMAIN_STATUS is 0 (R423). -/
theorem domOff_lost (s : State) {a : Arr} (ha : a.Plain) (hw : a.code ≠ A.domWake.code) {i n die dom : Nat}
    (hl : (a, n) ∈ domArrays dom) (h : i / n = die) : (s.domOff die dom).rd a i = 0 := by
  have hc := ha.1
  have hr := ha.2.1
  obtain ⟨u, -, hu⟩ := domOff_eq s die dom
  rw [hu, State.rd_wr_arr _ _ _ _ _ _ (by simp only [A.domWake_code] at hw ⊢; omega),
    State.rd_wr_arr _ _ _ _ _ _ (by simp only [A.reg_code] at hr ⊢; omega), State.unitsLost, rd_drop_eq _ _ hc, if_neg fun hd => hr hd.1,
    domArrays_lost ha hl h]

theorem domOff_status (s : State) {die dom : Nat} (hd : 4 * die + dom < 32) : (s.domOff die dom).domOn die dom = false := by
  obtain ⟨u, -, hu⟩ := domOff_eq s die dom
  rw [hu, State.domOn, State.reg_wr _ _ _ _ _ (by decide), reg_patch_same _ _ _ hd]
  rfl

theorem domOff_mem (s : State) {die dom : Nat} (hd : dom ≠ 1) : (s.domOff die dom).mem = s.mem := by
  obtain ⟨u, keeps, hu⟩ := domOff_eq s die dom
  rw [hu, keeps hd, State.mem_wr, State.mem_wr, State.unitsLost, State.mem_drop, loses_mem]

theorem rd_releaseHeld (s : State) (a : Arr) (i : Nat) : s.releaseHeld.rd a i = s.rd a i := by
  unfold State.releaseHeld
  split
  · rfl
  · exact State.rd_update ..

theorem mem_releaseHeld (s : State) : s.releaseHeld.mem = s.mem := by
  unfold State.releaseHeld
  split <;> rfl

/-- A domain that has powered up: its bit shows, and it waits for nothing. -/
theorem domUp_reads (s : State) (die dom : Nat) :
    (s.domUp die dom).reg oDOMAIN_STATUS =
      (s.wr A.reg oDOMAIN_STATUS (patch (s.reg oDOMAIN_STATUS) (4 * die + dom) 1 1)).reg oDOMAIN_STATUS ∧
    (s.domUp die dom).rd A.domWake (4 * die + dom) = 0 ∧ (s.domUp die dom).mem = s.mem := by
  unfold State.domUp
  exact ⟨(rd_releaseHeld ..).trans (State.reg_wr _ _ _ _ _ (by decide)), (rd_releaseHeld ..).trans (State.rd_wr_same ..),
    (mem_releaseHeld _).trans ((State.mem_wr ..).trans (State.mem_wr ..))⟩

/-- Settles O52. -/
theorem powerDomains : Obligations.PowerDomains := by
  unfold Obligations.PowerDomains
  intro s who val die dom i bitTo ask
  have hi : i < 32 := by omega
  have asked : ask = s.domAsk val.toNat die dom := rfl
  clear_value ask
  have shown (u : State) (v : Nat) : (u.wr A.reg oDOMAIN_CTRL v).domOn die dom = u.domOn die dom := by
    rw [State.domOn, State.domOn]
    exact congrArg (Nat.testBit · _) (State.rd_wr_ix _ _ _ _ _ (by decide))
  refine ⟨fun h => ⟨fun hr => ?_, fun hr => ?_⟩, fun hv => ⟨fun ho => ?_, fun ho hn => ?_, fun ho hn => ?_⟩, fun hv => ⟨fun ho => ?_, fun ho => ?_⟩,
    fun hc => ⟨fun hw => ?_, fun hw => ?_⟩⟩
  · exact (access_next h _ fun s => if s.pfRights who then (s.domWrite val.toNat).okay else s.deny).trans (congrArg _ (if_neg (by simp [hr])))
  · exact (access_next h _ fun s => if s.pfRights who then (s.domWrite val.toNat).okay else s.deny).trans (congrArg _ (if_pos hr))
  · exact asked.trans (by rw [State.domAsk, if_pos (show val.toNat.testBit (4 * die.val + dom.val) = true from hv), if_pos (by simp [ho])])
  · exact asked.trans (by rw [State.domAsk, if_pos (show val.toNat.testBit (4 * die.val + dom.val) = true from hv), if_neg (by simp [ho]), if_pos hn])
  · have off : ask = (s.domOff die dom).wr A.reg oDOMAIN_CTRL (patch (s.reg oDOMAIN_CTRL) i 1 1) :=
      asked.trans (by rw [State.domAsk, if_pos (show val.toNat.testBit (4 * die.val + dom.val) = true from hv), if_neg (by simp [ho]), if_neg (by simp [hn])])
    -- the clause's `j` is one of the first eight entries, and its divisor is 0 there: they belong to die 0
    have first {j n : Fin 8} {m : Nat} (hn : n = 0) (hm : 8 ≤ m) (h : j / n = die) : j.val / m = die := by
      rw [← h, hn, Fin.div_val, Fin.val_zero, Nat.div_zero, Nat.div_eq_of_lt (by omega)]
    have lost {a : Arr} (ha : a.Plain) (hw : a.code ≠ A.domWake.code) {j n : Nat} (hl : (a, n) ∈ domArrays dom) (h : j / n = die) :
        ask.rd a j = 0 := by
      rw [off, State.rd_wr_arr _ _ _ _ _ _ (by have := ha.1; have := ha.2.1; simp only [A.reg_code] at this ⊢; omega), domOff_lost s ha hw hl h]
    refine ⟨?_, ?_, fun j => ⟨?_, ?_, ?_, ?_⟩, fun hd => ?_⟩
    · rw [off, shown, domOff_status s hi]
    · rw [off, reg_patch_same _ _ _ hi]
      rfl
    · rintro rfl h
      exact lost ⟨by decide, by decide, by decide⟩ (by decide) (n := 512 * 4096) (by simp [domArrays]) (first (by decide) (by decide) h)
    · rintro rfl h
      exact lost ⟨by decide, by decide, by decide⟩ (by decide) (n := 512 * 65536) (by simp [domArrays]) (first (by decide) (by decide) h)
    · rintro rfl h
      exact lost ⟨by decide, by decide, by decide⟩ (by decide) (n := 131072 * 16) (by simp [domArrays]) (first (by decide) (by decide) h)
    · rintro rfl h
      exact lost ⟨by decide, by decide, by decide⟩ (by decide) (n := 512 * 512) (by simp [domArrays]) (first (by decide) (by decide) h)
    · rw [off, State.mem_wr, domOff_mem s fun h => hd (Fin.ext h)]
  · exact asked.trans (by rw [State.domAsk, if_neg (Bool.eq_false_iff.1 (show val.toNat.testBit (4 * die.val + dom.val) = false from hv))]; exact if_pos ((shown ..).trans ho))
  · exact asked.trans (by rw [State.domAsk, if_neg (Bool.eq_false_iff.1 (show val.toNat.testBit (4 * die.val + dom.val) = false from hv))]; exact if_neg (by rw [shown, ho]; decide))
  · exact (live_next hc fun s => if s.on A.domWake i then s.domUp die dom else s).trans (congrArg _ (if_neg (Bool.eq_false_iff.1 hw)))
  · refine ⟨s.domUp die dom, (live_next hc fun s => if s.on A.domWake i then s.domUp die dom else s).trans (congrArg _ (if_pos hw)), ?_⟩
    obtain ⟨regs, wakes, mem⟩ := domUp_reads s die dom
    refine ⟨?_, ?_, fun j hj => ?_, mem⟩
    · rw [State.domOn, regs, reg_patch_same _ _ _ hi]
      rfl
    · rw [State.on, wakes]
      rfl
    · rw [regs, reg_patch_ne _ _ hj]

end Sys2Proof.Machine

/-! SUPPORT and CERTIFICATE. Events and vectors (chapter 20, R471 to R474; chapter 10, R226, R227). -/

namespace Sys2Proof.Machine

open Reg

section raising
variable {s : State} {src : Nat}

/-- Owners stand in the windows of the dies and beside the registers. -/
theorem evtOwner_congr {t : State} (h : s.Only [0] t) (hd : ∀ o, 0x800000 ≤ o → t.reg o = s.reg o) : t.evtOwner src = s.evtOwner src := by
  have fld {b : Nat} (hb : 0x800000 ≤ b) (f : Fld) : t.rf b f = s.rf b f := by rw [State.rf, State.rf, hd _ (by omega)]
  have queue (q : Nat) : t.qOwner q = s.qOwner q := by
    have base : 0x800000 ≤ Q q := by unfold Q Off.queue Off.die; omega
    rw [State.qOwner, State.qOwner, fld base, fld base]
  have wall (w : Nat) : t.slotOfWall w = s.slotOfWall w := by
    rw [State.slotOfWall, State.slotOfWall, h.rd A.wallOwner _ rfl]
  have pin : t.pinOwner src = s.pinOwner src := by
    have tgt (n : Nat) : t.gpTgt src n = s.gpTgt src n := hd _ (by unfold Off.die; omega)
    have pids : (fun k => t.rd A.pPid k) = fun k => s.rd A.pPid k := funext fun k => h.rd A.pPid k rfl
    simp only [State.pinOwner, tgt, wall, pids]
  have trig (n c : Nat) : 0x800000 ≤ Off.trig n c 0 := by unfold Off.trig Off.die; omega
  have loaded (k : Nat) : t.loaded k = s.loaded k := by rw [State.loaded, State.loaded, h.rd A.pState k rfl]
  simp only [State.evtOwner, queue, pin, loaded, h.rd A.pPid _ rfl, h.rd A.evtSwOwn _ rfl, fld (trig _ _)]

/-- EVT_STATUS shows the source (R472). -/
def State.seen (s : State) (src : Nat) : State :=
  s.wr A.reg (oEVT_STATUS + 4 * (src / 32)) (s.reg (oEVT_STATUS + 4 * (src / 32)) ||| 2 ^ (src % 32))

theorem seen_only : s.Only [0] (s.seen src) := (State.Only.refl ..).wr _ _ rfl

theorem seen_owner (h : src < 1536) : (s.seen src).evtOwner src = s.evtOwner src :=
  evtOwner_congr seen_only fun o ho => State.rd_wr_ix _ _ _ _ _ (by simp only [oEVT_STATUS]; omega)

/-- A raise shows the source, sets its flag and signals its vector. -/
theorem raise_eq : s.raise src =
    ((s.seen src).routeFlag ((s.seen src).evtOwner src) (s.rd A.evtFlag src)).routeVec ((s.seen src).evtOwner src) (s.rd A.evtVec src) := by
  rw [← seen_only.rd A.evtVec src rfl, ← seen_only.rd A.evtFlag src rfl]
  rfl

theorem routeFlag_off {o : Option Nat} {v : Nat} (h : slice v 0 1 = 0) : s.routeFlag o v = s := if_pos h

theorem routeVec_off {o : Option Nat} {v : Nat} (h : slice v 0 1 = 0) : s.routeVec o v = s := if_pos h

/-- The vector of the physical function. -/
theorem routeVec_pf {o : Option Nat} {v : Nat} (h : slice v 0 1 = 1) (hf : slice v 1 6 = 0) (hp : s.rd A.funcOff 0 = 0) :
    s.routeVec o v = s.wr A.vecRaised (slice v 7 10) 1 := by
  simp [State.routeVec, h, hf, hp]

/-- The vector of a virtual function: dropped where its partition does not own the source. -/
theorem routeVec_vf {o : Option Nat} {v : Nat} (h : slice v 0 1 = 1) (h1 : 1 ≤ slice v 1 6) (h32 : slice v 1 6 ≤ 32) :
    s.routeVec o v = if s.rd A.funcOff (slice v 1 6) = 0 ∧ s.loaded (slice v 1 6 - 1) = true ∧
        o = some (s.rd A.pPid (slice v 1 6 - 1)) then s.wr A.vecRaised (1024 * slice v 1 6 + slice v 7 10) 1
      else s.cnt 0 EVT_DROP_DROPS 1 := by
  have pf : slice v 1 6 ≠ 0 := by omega
  have boot : slice v 1 6 ≠ 33 := by omega
  rw [State.routeVec, if_neg (by rw [h]; decide)]
  simp only [pf, boot, if_false, false_or]

/-- The flag of a task. -/
theorem routeFlag_on {o : Option Nat} {v : Nat} (h : slice v 0 1 = 1) : s.routeFlag o v =
    if o = none ∨ slice (s.rd A.tCfgNow (512 * slice v 1 3 + slice v 4 9)) 16 1 = 1 ∨
        o = some (slice (s.rd A.tCfgNow (512 * slice v 1 3 + slice v 4 9)) 8 8) then
      s.setFlag (512 * slice v 1 3 + slice v 4 9) (slice v 13 5)
    else s.cnt (D (slice v 1 3)) DISP_XPART_DROP_DROPS 1 := if_neg (by rw [h]; decide)

theorem taskReady_reads (u : State) (t n : Nat) :
    (u.taskReady t n).rd A.tFlags t = u.rd A.tFlags t ∧ (u.taskReady t n).rd A.tState t = 2 := by
  have rest : (u.wr A.tState t 2).Only [121, 123, 126, 127] (u.taskReady t n) :=
    ((((State.Only.refl ..).wr _ _ rfl).wr _ _ rfl).wr _ _ rfl).wr _ _ rfl
  exact ⟨(rest.rd A.tFlags t rfl).trans (State.rd_wr_arr _ _ _ _ _ _ (by decide)), (rest.rd A.tState t rfl).trans (State.rd_wr_same ..)⟩

/-- A task with one flag more. -/
def State.flagged (s : State) (t f : Nat) : State := s.wr A.tFlags t (s.rd A.tFlags t ||| 2 ^ f)

theorem flagged_flags {t f : Nat} (hf : f < 32) : (s.flagged t f).rd A.tFlags t = s.rd A.tFlags t ||| 2 ^ f :=
  (State.rd_wr_same ..).trans (Nat.mod_eq_of_lt (Nat.or_lt_two_pow (State.rd_lt s A.tFlags t) (Nat.pow_lt_pow_right (by decide) hf)))

/-- A flag that is set: the task becomes READY where it waits and its condition holds (R228). -/
theorem setFlag_eq {t f : Nat} (hf : f < 32) : s.setFlag t f =
    if s.rd A.tState t = 1 ∧
        taskMet (s.rd A.tMaskNow t) (slice (s.rd A.tTimeoutNow t) 24 1) (s.rd A.tFlags t ||| 2 ^ f) = true then
      (s.flagged t f).taskReady t 0 else s.flagged t f := by
  have same : s.Only [120] (s.flagged t f) := (State.Only.refl ..).wr _ _ rfl
  rw [← flagged_flags hf, ← same.rd A.tState t rfl, ← same.rd A.tMaskNow t rfl, ← same.rd A.tTimeoutNow t rfl]
  rfl

end raising

/-! ### Routes (R474) -/

section routes
variable {s : State} {who : Who} {v : Nat}

/-- A route write that is refused shows why. -/
theorem routeWrite_refused {off : Nat} (h : s.routeCheck who (off = oEVT_ROUTE_VEC) (s.rf 0 EVT_SEL_SOURCE) v ≠ 0) :
    s.routeWrite who off v =
      (s.wf 0 EVT_SEL_RESULT (s.routeCheck who (off = oEVT_ROUTE_VEC) (s.rf 0 EVT_SEL_SOURCE) v)).ans 0 0 := by
  rw [State.routeWrite, if_neg h]
  rfl

/-- A route write without a transaction takes effect at once (R467). -/
theorem routeWrite_applied {off : Nat} (h : s.routeCheck who (off = oEVT_ROUTE_VEC) (s.rf 0 EVT_SEL_SOURCE) v = 0)
    (hs : s.rd A.shState 32 = 0) : s.routeWrite who off v =
      ((s.wf 0 EVT_SEL_RESULT 0).shApply 32 ⟨32, off, s.rf 0 EVT_SEL_SOURCE, v⟩).1.ans 0 0 := by
  have none_open : (s.wf 0 EVT_SEL_RESULT 0).rd A.shState 32 = 0 := (State.rd_wf _ _ _ _ _ _ (by decide)).trans hs
  rw [State.routeWrite, h, if_pos rfl, State.rwtPut, devShadow, none_open]
  rfl

theorem shApply_flag (u : State) (sel : Nat) : (u.shApply 32 ⟨32, oEVT_ROUTE_FLAG, sel, v⟩).1 = u.wr A.evtFlag sel v := by
  rw [State.shApply, if_pos ⟨rfl, rfl⟩]

theorem shApply_vec (u : State) (sel : Nat) : (u.shApply 32 ⟨32, oEVT_ROUTE_VEC, sel, v⟩).1 = u.wr A.evtVec sel v := by
  rw [State.shApply, if_neg fun h => absurd h.1 (by decide : oEVT_ROUTE_VEC ≠ oEVT_ROUTE_FLAG), if_pos ⟨rfl, rfl⟩]

theorem routeCheck_denied {vec : Bool} {src : Nat} (h : s.pfRights who = false) : s.routeCheck who vec src v = 1 := by
  simp [State.routeCheck, h]

theorem routeCheck_source {vec : Bool} {src : Nat} (h : s.pfRights who = true) (hs : 1536 ≤ src) : s.routeCheck who vec src v = 2 := by
  simp [State.routeCheck, h, eventSources, hs]

theorem routeCheck_flag {src : Nat} (h : s.pfRights who = true) (hs : src < 1536) : s.routeCheck who false src v = 0 := by
  simp [State.routeCheck, h, eventSources, hs]

/-- A vector that does not exist. -/
theorem routeCheck_vector {src : Nat} (h : s.pfRights who = true) (hs : src < 1536)
    (hv : 34 ≤ slice v 1 6 ∨ 1 ≤ slice v 1 6 ∧ slice v 1 6 ≤ 32 ∧ 32 ≤ slice v 7 10) : s.routeCheck who true src v = 2 := by
  rw [State.routeCheck, if_neg (by simp [h]), if_neg (by simp only [eventSources]; omega), if_pos ⟨rfl, hv⟩]

/-- Whether a vector of a virtual function may be signalled by a source. -/
theorem routeCheck_owner {src : Nat} (h : s.pfRights who = true) (hs : src < 1536)
    (hv : ¬ (34 ≤ slice v 1 6 ∨ 1 ≤ slice v 1 6 ∧ slice v 1 6 ≤ 32 ∧ 32 ≤ slice v 7 10)) : s.routeCheck who true src v =
      if v % 2 = 1 ∧ 1 ≤ slice v 1 6 ∧ slice v 1 6 ≤ 32 ∧ (s.evtOwner src = none ∨ s.loaded (slice v 1 6 - 1) = false ∨
        s.evtOwner src ≠ some (s.rd A.pPid (slice v 1 6 - 1))) then 3 else 0 := by
  rw [State.routeCheck, if_neg (by simp [h]), if_neg (by simp only [eventSources]; omega), if_neg fun h => hv h.2]
  by_cases vf : v % 2 = 1 ∧ 1 ≤ slice v 1 6 ∧ slice v 1 6 ≤ 32
  · obtain ⟨hen, h1, h32⟩ := vf
    rw [if_pos ⟨rfl, (slice_at_zero ..).trans hen, h1, h32⟩]
    cases ho : s.evtOwner src with
    | none => simp [hen, h1, h32]
    | some pid =>
      by_cases hk : s.loaded (slice v 1 6 - 1) = true ∧ s.rd A.pPid (slice v 1 6 - 1) = pid
      · obtain ⟨hl, rfl⟩ := hk
        simp [hl]
      · have foreign : s.loaded (slice v 1 6 - 1) = false ∨ some pid ≠ some (s.rd A.pPid (slice v 1 6 - 1)) := by
          by_contra hn
          simp only [not_or, Bool.not_eq_false, not_not] at hn
          exact hk ⟨hn.1, (Option.some.inj hn.2).symm⟩
        simp only [if_neg hk]
        exact (if_pos ⟨hen, h1, h32, .inr foreign⟩).symm
  · rw [if_neg fun hn => vf ⟨(slice_at_zero ..).symm.trans hn.2.1, hn.2.2⟩, if_neg fun hn => vf ⟨hn.1, hn.2.1, hn.2.2.1⟩]

/-- RESULT of a write of EVT_INFO (R474). -/
def State.infoCheck (s : State) (who : Who) : Nat :=
  if s.pfRights who = false then 1 else if 1536 ≤ s.rf 0 EVT_SEL_SOURCE then 2 else 0

theorem infoWrite_eq : s.infoWrite who v =
    if s.infoCheck who = 0 ∧ 0x5C0 ≤ s.rf 0 EVT_SEL_SOURCE then
      ((s.wf 0 EVT_SEL_RESULT (s.infoCheck who)).wr A.evtSwOwn (s.rf 0 EVT_SEL_SOURCE - 0x5C0) (slice v 0 9)).ans 0 0
    else (s.wf 0 EVT_SEL_RESULT (s.infoCheck who)).ans 0 0 := by
  have check : (if ¬ s.pfRights who = true then 1 else if eventSources ≤ s.rf 0 EVT_SEL_SOURCE then 2 else 0) = s.infoCheck who := by
    unfold State.infoCheck eventSources
    exact if_congr (Bool.not_eq_true _ ▸ Iff.rfl) rfl rfl
  rw [State.infoWrite, check, State.okay, apply_ite (State.ans · 0 0)]

theorem infoWrite_refused {r : Nat} (h : s.infoCheck who = r) (hr : r ≠ 0) :
    s.infoWrite who v = (s.wf 0 EVT_SEL_RESULT r).ans 0 0 := by
  rw [infoWrite_eq, h, if_neg fun hn => hr hn.1]

theorem infoCheck_ok (h : s.pfRights who = true) (hs : s.rf 0 EVT_SEL_SOURCE < 1536) : s.infoCheck who = 0 := by
  rw [State.infoCheck, if_neg (by rw [h]; decide), if_neg (not_le.2 hs)]

end routes

/-- The message of a vector. -/
theorem vecMasked_iff (s : State) (f v : Nat) : s.vecMasked f v = true ↔
    f ≠ 33 ∧ (s.rd A.vecOpen (1024 * f + v) = 0 ∨ s.on A.funcMask f = true) := decide_eq_true_iff

/-- Settles O59. -/
theorem eventsAndVectors : Obligations.EventsAndVectors := by
  unfold Obligations.EventsAndVectors
  intro s who val func vector src v o seen i masked sent opened task flags mine vf sw src0 f res route illegal foreign
  have below (w lo : Nat) : slice w lo 5 < 32 := Nat.mod_lt _ (by decide)
  have shown : s.seen src = seen := rfl
  have keeps {a : Arr} (j : Nat) (ha : [0].contains (a.code % 512) = false) : seen.rd a j = s.rd a j :=
    (seen_only (s := s) (src := src)).rd a j ha
  have fits : (seen.wr A.tFlags task flags).rd A.tFlags task = flags :=
    (State.rd_wr_same ..).trans (Nat.mod_eq_of_lt (Nat.or_lt_two_pow (State.rd_lt s A.tFlags task) (Nat.pow_lt_pow_right (by decide) (below ..))))
  have cfg : seen.rd A.tCfgNow task = s.rd A.tCfgNow task := keeps task rfl
  have flag : seen.setFlag task (slice (s.rd A.evtFlag src) 13 5) = if s.rd A.tState task = 1 ∧
      taskMet (s.rd A.tMaskNow task) (slice (s.rd A.tTimeoutNow task) 24 1) flags = true then (seen.wr A.tFlags task flags).taskReady task 0
      else seen.wr A.tFlags task flags := by
    rw [setFlag_eq (below ..), State.flagged, keeps (a := A.tState) task rfl, keeps (a := A.tMaskNow) task rfl,
      keeps (a := A.tTimeoutNow) task rfl, keeps (a := A.tFlags) task rfl]
  have raiseBy (h : s.Serving who) : exec (.evtSw who val) s = .next (if s.pfRights who = true ∨ s.isOwner who (s.evtOwner sw) = true then
      (s.raise sw).ans 0 0 else s.ans 1 0) := by
    have low : 0x5C0 + slice v 0 6 = sw := congrArg _ (slice_at_zero ..)
    rw [show exec (.evtSw who val) s = .next (s.evtSw who v) from access_next h _ fun s => s.evtSw who v, State.evtSw, low]
    rfl
  have flagRoute (h : s.Serving who) : route oEVT_ROUTE_FLAG = .next (s.routeWrite who oEVT_ROUTE_FLAG v) :=
    access_next h _ fun s => s.routeWrite who oEVT_ROUTE_FLAG v
  have vecRoute (h : s.Serving who) : route oEVT_ROUTE_VEC = .next (s.routeWrite who oEVT_ROUTE_VEC v) :=
    access_next h _ fun s => s.routeWrite who oEVT_ROUTE_VEC v
  have info (h : s.Serving who) : route oEVT_INFO = .next (s.infoWrite who v) := access_next h _ fun s => s.infoWrite who v
  have message (hc : s.clocked = true) : exec (.vectorMessage func vector) s = .next (s.vecMessage func vector) :=
    live_next hc fun s => s.vecMessage func vector
  have unmask (hc : s.clocked = true) : exec (.vectorUnmask func vector) s = .next (s.vecUnmask func vector) :=
    live_next hc fun s => s.vecUnmask func vector
  refine ⟨fun hF hV => ?quiet, fun hF hV h0 hp => ?pf, fun hs hF hV h1 h32 => ?vf, fun hs hF hV => ⟨fun hm h1 hmet => ?ready, fun hm hn => ?set, fun hm => ?dropped⟩,
    fun h => ⟨fun hr => ?raised, fun hr ho => ?notRaised, fun hr off ho => ?routeDenied, fun hr => ⟨fun hs off ho => ?noSource, fun hs => ⟨fun hi => ?noVector, fun hi hf => ?foreigner,
      fun h0 => ⟨?flagRoute, fun hi hf => ?vecRoute⟩, fun hn => ?noField, fun hn => ?owner⟩⟩⟩,
    fun hc => ⟨fun hv => ?quietVec, fun hv => ⟨fun hm => ?pends, fun hm => ?sends⟩, fun hp hm => ?unmasks, fun hp => ?opens⟩⟩
  case quiet => rw [raise_eq, routeFlag_off hF, routeVec_off hV, shown]
  case pf =>
    rw [raise_eq, routeFlag_off hF, shown, routeVec_pf hV h0 ((keeps 0 rfl).trans hp)]
  case vf =>
    have held (k : Nat) : seen.loaded k = s.loaded k := by rw [State.loaded, State.loaded, keeps k rfl]
    rw [raise_eq, routeFlag_off hF, seen_owner hs, shown, routeVec_vf hV h1 h32, held, keeps (a := A.funcOff) _ rfl, keeps (a := A.pPid) _ rfl]
  case ready =>
    rw [raise_eq, routeVec_off hV, seen_owner hs, shown, routeFlag_on hF, cfg, if_pos hm, flag, if_pos ⟨h1, hmet⟩]
    obtain ⟨kept, ready⟩ := taskReady_reads (seen.wr A.tFlags task flags) task 0
    exact ⟨kept.trans fits, ready⟩
  case set =>
    rw [raise_eq, routeVec_off hV, seen_owner hs, shown, routeFlag_on hF, cfg, if_pos hm, flag, if_neg fun hw => hn.elim (absurd hw.1)
      fun hf => Bool.false_ne_true (hf.symm.trans hw.2)]
  case dropped => rw [raise_eq, routeVec_off hV, seen_owner hs, shown, routeFlag_on hF, cfg, if_neg hm]
  case raised =>
    refine (raiseBy h).trans (congrArg _ (if_pos ?_))
    exact hr.imp id fun ⟨pid, ho, hw⟩ => by rw [State.isOwner, ho]; exact decide_eq_true hw
  case notRaised =>
    refine (raiseBy h).trans (congrArg _ (if_neg ?_))
    rintro (hp | hp)
    · exact Bool.false_ne_true (hr.symm.trans hp)
    · rw [State.isOwner, Option.any_eq_true] at hp
      obtain ⟨pid, hs, hw⟩ := hp
      exact ho pid hs (of_decide_eq_true hw)
  case routeDenied =>
    simp only [List.mem_cons, List.not_mem_nil, or_false] at ho
    rcases ho with rfl | rfl | rfl
    · rw [flagRoute h, routeWrite_refused (by rw [routeCheck_denied hr]; decide), routeCheck_denied hr]
    · rw [vecRoute h, routeWrite_refused (by rw [routeCheck_denied hr]; decide), routeCheck_denied hr]
    · rw [info h, infoWrite_refused (if_pos hr) (by decide)]
  case noSource =>
    simp only [List.mem_cons, List.not_mem_nil, or_false] at ho
    rcases ho with rfl | rfl | rfl
    · rw [flagRoute h, routeWrite_refused (by rw [routeCheck_source hr hs]; decide), routeCheck_source hr hs]
    · rw [vecRoute h, routeWrite_refused (by rw [routeCheck_source hr hs]; decide), routeCheck_source hr hs]
    · rw [info h, infoWrite_refused (r := 2) (by rw [State.infoCheck, if_neg (by rw [hr]; decide), if_pos hs]) (by decide)]
  case noVector =>
    rw [vecRoute h, routeWrite_refused (by rw [decide_eq_true rfl, routeCheck_vector hr hs hi]; decide), decide_eq_true rfl, routeCheck_vector hr hs hi]
  case foreigner =>
    have check : s.routeCheck who true src0 v = 3 := (routeCheck_owner hr hs hi).trans (if_pos hf)
    rw [vecRoute h, routeWrite_refused (by rw [decide_eq_true rfl, check]; decide), decide_eq_true rfl, check]
  case flagRoute =>
    rw [flagRoute h, routeWrite_applied (routeCheck_flag hr hs) h0, shApply_flag]
  case vecRoute =>
    have check : s.routeCheck who true src0 v = 0 := (routeCheck_owner hr hs hi).trans (if_neg hf)
    rw [vecRoute h, routeWrite_applied check h0, shApply_vec]
  case noField => rw [info h, infoWrite_eq, infoCheck_ok hr hs, if_neg fun hi => absurd hi.2 (not_le.2 hn)]
  case owner => rw [info h, infoWrite_eq, infoCheck_ok hr hs, if_pos ⟨rfl, hn⟩]
  case quietVec => exact (message hc).trans (congrArg _ (if_neg (Bool.eq_false_iff.1 hv)))
  case pends =>
    have same : (s.wr A.vecRaised i 0).vecMasked func vector = true := (vecMasked_iff ..).2 (by
      rwa [State.rd_wr_arr _ _ _ _ _ _ (by decide), State.on, State.rd_wr_arr _ _ _ _ _ _ (by decide)])
    exact (message hc).trans (congrArg _ ((if_pos hv).trans (if_pos same)))
  case sends =>
    have same : ¬ (s.wr A.vecRaised i 0).vecMasked func vector = true := fun hn => hm (by
      rw [vecMasked_iff, State.rd_wr_arr _ _ _ _ _ _ (by decide), State.on, State.rd_wr_arr _ _ _ _ _ _ (by decide)] at hn
      exact hn)
    exact (message hc).trans (congrArg _ ((if_pos hv).trans (if_neg same)))
  case unmasks =>
    have waits : opened.on A.vecPend i = true := by rwa [State.on, State.rd_wr_arr _ _ _ _ _ _ (by decide)]
    exact (unmask hc).trans (congrArg _ (if_pos ⟨waits, fun hn => hm ((vecMasked_iff ..).1 hn)⟩))
  case opens =>
    refine (unmask hc).trans (congrArg _ (if_neg ?_))
    rintro ⟨hw, hn⟩
    have waits : s.on A.vecPend i = true := by
      rwa [State.on, State.rd_wr_arr _ _ _ _ _ _ (by decide)] at hw
    exact hp.elim (fun hf => Bool.false_ne_true (hf.symm.trans waits)) fun hm => hn ((vecMasked_iff ..).2 hm)

end Sys2Proof.Machine

/-! SUPPORT and CERTIFICATE. Configuration transactions (chapter 20, R466 to R470). -/

namespace Sys2Proof.Machine

open Reg

section shadows
variable {s : State} {who : Who} {x : Nat}

/-- A shadow that is applied is gone. -/
theorem shCommit_shadow (s : State) (x : Nat) : (s.shCommit x).shadow = s.shadow.filter fun w => w.slot ≠ x := by
  have kept (l : List ShadowWrite) (a : State × Bool) :
      (l.foldl (fun (a : State × Bool) w => let r := a.1.shApply x w; (r.1, a.2 || r.2)) a).1.shadow = a.1.shadow := by
    induction l generalizing a with
    | nil => rfl
    | cons w r ih => exact (ih _).trans (shApply_calm a.1 x w).shadow
  exact congrArg (List.filter _) (kept (s.shWrites x) (s, false))

theorem shCommit_state (s : State) (x : Nat) : (s.shCommit x).rd A.shState x = 0 := by
  unfold State.shCommit State.shResult State.shDrop
  rw [State.rd_wr_arr _ _ _ _ _ _ (by decide), State.rd_wr_arr _ _ _ _ _ _ (by decide), State.rd_wr_same, Nat.zero_mod]

/-- What is discarded with a shadow is its own. -/
theorem shDrop_reads (u : State) (y : Nat) {a : Arr} {i : Nat} (h : [70, 71, 72].contains (a.code % 512) = false) :
    ((u.shDrop y).shResult y 0).rd a i = u.rd a i := by
  have only : u.Only [70, 71, 72] ((u.shDrop y).shResult y 0) :=
    ((((State.Only.refl ..).update (by rfl)).wr _ _ rfl).wr _ _ rfl).wr _ _ rfl
  exact only.rd a i h

theorem shCommit_none (h : s.shadow.filter (fun w => w.slot = x) = []) : s.shCommit x = (s.shDrop x).shResult x 0 := by
  rw [State.shCommit, State.shWrites, h]
  rfl

theorem shCommit_one {w : ShadowWrite} (h : s.shadow.filter (fun w => w.slot = x) = [w]) :
    s.shCommit x = ((s.shApply x w).1.shDrop x).shResult x (if (s.shApply x w).2 then 7 else 0) := by
  rw [State.shCommit, State.shWrites, h]
  simp only [List.foldl_cons, List.foldl_nil, Bool.false_or]

/-- A write of CFGTX by an initiator with the right shows the command's result. -/
theorem txWrite_may {f : State → Nat × State} (h : s.mayTx who x = true) :
    s.txWrite who x f = ((f s).2.wr A.shResult x (f s).1).ans 0 0 := if_neg (by rw [h]; decide)

theorem txWrite_denied {f : State → Nat × State} (h : s.mayTx who x = false) : s.txWrite who x f = s.txDeny x :=
  if_pos (by rw [h]; decide)

theorem txDeny_dev : s.txDeny 32 = (s.wr A.shResult 32 8).ans 0 0 := by
  rw [State.txDeny, if_pos (show 32 = devShadow from rfl)]
  rfl

theorem txDeny_slot (h : x ≠ 32) : s.txDeny x = (s.wr A.shResult x 8).ans 1 0 := by
  rw [State.txDeny, if_neg (show x ≠ devShadow from h)]
  rfl

/-- A committed write of a source's flag route. -/
theorem shApply_route {w : ShadowWrite} (hx : x = 32) (ho : w.off = oEVT_ROUTE_FLAG) : s.shApply x w = (s.wr A.evtFlag w.sel w.val, false) := by
  rw [State.shApply, if_pos ⟨ho, hx⟩]

theorem shBegin_none (h : s.rd A.shState x = 0) : s.shBegin x = (0, (s.shDrop x).wr A.shState x 1) := by
  rw [State.shBegin, h]
  rfl

theorem shBegin_some {n : Nat} (h : s.rd A.shState x = n + 1) : s.shBegin x = (n + 1, s) := by
  rw [State.shBegin, h]
  rfl

theorem shDoCommit_none (h : s.rd A.shState x = 0) : s.shDoCommit x = (3, s) := by
  rw [State.shDoCommit, h]
  rfl

theorem shDoCommit_pending {n : Nat} (h : s.rd A.shState x = n + 2) : s.shDoCommit x = (2, s) := by
  rw [State.shDoCommit, h]
  rfl

/-- COMMIT of an open shadow (R468, R469). -/
theorem shDoCommit_open (h : s.rd A.shState x = 1) : s.shDoCommit x =
    if s.on A.shOver x then (4, s.shDrop x)
    else if (s.wr A.shState x 2).shAtOnce x then
      ((((s.wr A.shState x 2).shCommit x).wr A.esReloaded x 0).rd A.shResult x, ((s.wr A.shState x 2).shCommit x).wr A.esReloaded x 0)
    else (0, s.wr A.shState x 2) := by
  rw [State.shDoCommit, h]
  rfl

theorem shAtOnce_wr (v : Nat) : (s.wr A.shState x v).shAtOnce x = true ↔ x = 32 ∨ s.rd A.pState x = 1 ∨ s.rd A.pState x = 4 := by
  rw [State.shAtOnce, State.rd_wr_arr _ _ _ _ _ _ (by decide)]
  exact decide_eq_true_iff

end shadows

/-! ### RWT writes of a partition's block (R467) -/

section rwt
variable {s : State} {who : Who} {k off v : Nat}

/-- A write of a register of slot `k`'s block reaches it. -/
theorem rwtWrite_part (hk : k < 32) (ho : off < 0x1000) : s.rwtWrite who (P k + off) v = s.rwtPart who k off v := by
  have place : P k + off = 0x100000 + 0x1000 * k + off := by simp only [P, Off.part]; omega
  have slot : (P k + off - 0x100000) / 0x1000 = k := by omega
  have reg : (P k + off) % 0x1000 = off := by omega
  rw [State.rwtWrite, if_neg (by simp only [oEVT_ROUTE_FLAG, oEVT_ROUTE_VEC]; omega), if_pos (by omega), slot, reg]

theorem rwtPart_denied (h : s.maySlot who k = false) : s.rwtPart who k off v = s.ans 1 0 := if_pos (by rw [h]; decide)

theorem rwtPart_fault (h : s.maySlot who k = true) :
    s.rwtPart who k oFAULT_CFG v = (s.rwtPut k (P k + oFAULT_CFG) 0 v).ans 0 0 := by
  rw [State.rwtPart, if_neg (by rw [h]; decide), if_neg (by decide), if_pos rfl]
  rfl

theorem rwtPart_reload (h : s.maySlot who k = true) : s.rwtPart who k oESEQ_RELOAD v = (s.esReloadWrite k v).ans 0 0 := by
  rw [State.rwtPart, if_neg (by rw [h]; decide), if_pos rfl]
  rfl

theorem rwtPut_open (h : s.rd A.shState k = 1) {sel : Nat} : s.rwtPut k off sel v = s.shHold k off sel v := by
  rw [State.rwtPut, h]
  rfl

theorem rwtPut_pending (h : s.rd A.shState k = 2) {sel : Nat} : s.rwtPut k off sel v = s.wr A.shResult k 2 := by
  rw [State.rwtPut, h]
  rfl

theorem rwtPut_fault (hk : k < 32) (h : s.rd A.shState k = 0) : s.rwtPut k (P k + oFAULT_CFG) 0 v =
    s.wr A.reg (P k + oFAULT_CFG) (slice v 0 3 + 2 ^ 4 * slice v 4 3 + 2 ^ 8 * slice v 8 7) := by
  have other : k ≠ devShadow := by unfold devShadow; omega
  have reload : P k + oFAULT_CFG ≠ P k + oESEQ_RELOAD := by simp [oFAULT_CFG, oESEQ_RELOAD]
  rw [State.rwtPut, h]
  show (s.shApply k ⟨k, P k + oFAULT_CFG, 0, v⟩).1 = _
  rw [State.shApply, if_neg fun h => other h.2, if_neg fun h => other h.2, if_neg reload, if_pos rfl]

end rwt

/-- The lower half that a write of HI completes (R11). -/
theorem takeLo_eq (s : State) (lo cur : Nat) : s.takeLo lo cur =
    (if (s.rd A.heldLo lo).testBit 32 then s.rd A.heldLo lo % 2 ^ 32 else cur, s.wr A.heldLo lo 0) := by
  rw [State.takeLo, slice_at_zero, testBit_slice]
  simp only [decide_eq_true_eq]

/-- Settles O58. -/
theorem configurationTransactions : Obligations.ConfigurationTransactions := by
  unfold Obligations.ConfigurationTransactions
  intro s who device slot val k x may st mine dropped denied res begin_ commit v put fault rest e lo given h
  have hx : shadowIx device slot = x := by cases device <;> rfl
  have mayTx : s.mayTx who x = may := by
    cases device
    · exact if_neg (by simp [x, devShadow]; omega)
    · exact if_pos rfl
  have begins : begin_ = .next (s.txWrite who x fun s => s.shBegin x) :=
    (access_next h _ fun s => s.txWrite who (shadowIx device slot) fun s => s.shBegin (shadowIx device slot)).trans (by rw [hx])
  have commits : commit = .next (s.txWrite who x fun s => s.shDoCommit x) :=
    (access_next h _ fun s => s.txWrite who (shadowIx device slot) fun s => s.shDoCommit (shadowIx device slot)).trans (by rw [hx])
  have aborts : exec (.cfgtxAbort who device slot) s = .next (s.txWrite who x fun s => (0, s.shAbort x)) :=
    (access_next h _ fun s => s.txWrite who (shadowIx device slot) fun s => (0, s.shAbort (shadowIx device slot))).trans (by rw [hx])
  have writes (off : Nat) (ho : off < 0x1000) : put off v = .next (s.rwtPart who k off v) := by
    show exec (.rwtWrite who (P k + off) (BitVec.ofNat 32 v)) s = _
    have value : (BitVec.ofNat 32 v).toNat = v := (BitVec.toNat_ofNat ..).trans (Nat.mod_eq_of_lt val.isLt)
    refine (access_next h _ fun s => s.rwtWrite who (P k + off) (BitVec.ofNat 32 v).toNat).trans ?_
    rw [value, rwtWrite_part slot.isLt ho]
  have stages : exec (.eseqStagingWrite who slot val) s = .next (s.stageWrite who k v) := access_next h _ fun s => s.stageWrite who k v
  have debugs : exec (.debugCtrlWrite who val) s = .next (s.debugCtrl who v) := access_next h _ fun s => s.debugCtrl who v
  have low : slice v 0 1 = v % 2 := slice_at_zero v 1
  have top (hg : val.getLsbD 31 = true) : slice v 31 1 = 1 := (slice_one ..).trans (congrArg Bool.toNat hg)
  refine ⟨fun hm => ?denied, fun hm => ⟨fun h0 => ⟨?begin, ?commitNone⟩, fun h1 => ⟨?beginOpen, fun ho => ?overflow, fun ho => ⟨fun hd hn1 hn4 => ?pending, fun hi => ?applied⟩⟩,
    fun h2 => ?pendingOnes, ?abort⟩, fun hm => ⟨?putDenied, ?stageDenied⟩, fun hm => ⟨fun h0 => ?putNow, fun h1 => ⟨fun hf => ?held, fun hl hf => ?full⟩, fun h2 => ⟨?putPending, ?stagePending⟩,
    fun h0 hg => ?reload, fun h2 u hu => ?stage⟩, fun hr => ?debugOther, fun hr => ⟨fun hv => ?debugSame, fun hv hi => ?debugRefused, fun hv hi => ?debugChanged⟩⟩
  case denied =>
    have deny : s.txDeny x = if device then (s.wr A.shResult x 8).ans 0 0 else (s.wr A.shResult x 8).ans 1 0 := by
      cases device
      · exact txDeny_slot (by simp [x]; omega)
      · exact txDeny_dev
    rw [begins, commits, aborts, txWrite_denied (mayTx.trans hm), txWrite_denied (mayTx.trans hm), txWrite_denied (mayTx.trans hm), deny]
    exact ⟨rfl, rfl, rfl⟩
  case begin => rw [begins, txWrite_may (mayTx.trans hm), shBegin_none h0]; rfl
  case commitNone => rw [commits, txWrite_may (mayTx.trans hm), shDoCommit_none h0]
  case beginOpen => rw [begins, txWrite_may (mayTx.trans hm), shBegin_some (n := 0) h1]
  case overflow =>
    rw [commits, txWrite_may (mayTx.trans hm), shDoCommit_open h1, if_pos ho]
    rfl
  case pending =>
    have later : ¬ (s.wr A.shState x 2).shAtOnce x = true := by
      rw [shAtOnce_wr]
      subst hd
      rintro (hx | hx | hx)
      · exact absurd hx (by simp [x]; omega)
      · exact hn1 hx
      · exact hn4 hx
    rw [commits, txWrite_may (mayTx.trans hm), shDoCommit_open h1, if_neg (by rw [ho]; decide), if_neg later]
  case applied =>
    have once : (s.wr A.shState x 2).shAtOnce x = true := (shAtOnce_wr 2).2 (by
      cases device
      · exact .inr (hi.resolve_left Bool.false_ne_true)
      · exact .inl rfl)
    rw [commits, txWrite_may (mayTx.trans hm), shDoCommit_open h1, if_neg (by rw [ho]; decide), if_pos once]
    have result (r : Nat) (hr : ((s.wr A.shState x 2).shCommit x).rd A.shResult x = r) :
        (((((s.wr A.shState x 2).shCommit x).wr A.esReloaded x 0).wr A.shResult x
          ((((s.wr A.shState x 2).shCommit x).wr A.esReloaded x 0).rd A.shResult x)).ans 0 0).rd A.shResult x = r := by
      rw [State.rd_ans, State.rd_wr_same, State.rd_wr_arr _ _ _ _ _ _ (by decide), hr, ← hr]
      exact Nat.mod_eq_of_lt (State.rd_lt ..)
    refine ⟨_, rfl, ?_, ?_, rfl, fun hn => result 0 ?_, fun w hd hw hroute => ⟨?_, result 0 ?_⟩⟩
    · rw [State.rd_ans, State.rd_wr_arr _ _ _ _ _ _ (by decide), State.rd_wr_arr _ _ _ _ _ _ (by decide), shCommit_state]
    · rw [State.shadow_ans, State.shadow_wr, State.shadow_wr, shCommit_shadow, State.shadow_wr]
    · rw [shCommit_none (s := s.wr A.shState x 2) hn]
      exact State.rd_wr_same ..
    · rw [State.rd_ans, State.rd_wr_arr _ _ _ _ _ _ (by decide), State.rd_wr_arr _ _ _ _ _ _ (by decide),
        shCommit_one (s := s.wr A.shState x 2) hw, shApply_route (if_pos hd) hroute]
      exact (shDrop_reads _ x rfl).trans (State.rd_wr_same ..)
    · rw [shCommit_one (s := s.wr A.shState x 2) hw, shApply_route (if_pos hd) hroute]
      exact State.rd_wr_same ..
  case pendingOnes =>
    obtain ⟨n, hn⟩ := Nat.exists_eq_add_of_le' h2
    rw [begins, commits, txWrite_may (mayTx.trans hm), txWrite_may (mayTx.trans hm), shBegin_some (n := n + 1) hn, shDoCommit_pending hn, hn]
    exact ⟨rfl, rfl⟩
  case abort =>
    rw [aborts, txWrite_may (mayTx.trans hm)]
    rfl
  case putDenied => rw [writes _ (by decide), rwtPart_denied hm]
  case stageDenied => rw [stages, State.stageWrite, if_pos (by rw [hm]; decide)]; rfl
  case putNow => rw [writes _ (by decide), rwtPart_fault hm, rwtPut_fault slot.isLt h0]
  case held =>
    rw [writes _ (by decide), rwtPart_fault hm, rwtPut_open h1, State.shHold, if_neg fun hn => hf.elim (fun hl => hl hn.1) fun hl => absurd hn.2 (not_le.2 hl)]
  case full =>
    rw [writes _ (by decide), rwtPart_fault hm, rwtPut_open h1, State.shHold, if_pos ⟨hl, hf⟩]
  case putPending => rw [writes _ (by decide), rwtPart_fault hm, rwtPut_pending h2]
  case stagePending =>
    rw [stages, State.stageWrite, if_neg (by rw [hm]; decide), if_pos h2]
    rfl
  case reload =>
    rw [writes _ (by decide), rwtPart_reload hm, State.esReloadWrite, if_pos ⟨h0, top hg⟩]
    rfl
  case stage =>
    rw [stages, State.stageWrite, if_neg (by rw [hm]; decide), if_neg h2]
    dsimp only
    rw [takeLo_eq]
    have auto : u.rf (P k) ESEQ_SEL_AUTOINC = s.rf (P k) ESEQ_SEL_AUTOINC := by
      rw [hu, rf_wr _ _ _ _ _ (by decide), rf_wr _ _ _ _ _ (by decide)]
    dsimp only
    rw [← hu, auto]
    rfl
  case debugOther => rw [debugs, State.debugCtrl, if_neg (by rw [hr]; decide)]; rfl
  case debugSame => rw [debugs, State.debugCtrl, if_pos hr, State.debugWrite, low, if_pos hv]; rfl
  case debugRefused => rw [debugs, State.debugCtrl, if_pos hr, State.debugWrite, low, if_neg hv, if_pos (by rw [hi]; decide)]; rfl
  case debugChanged => rw [debugs, State.debugCtrl, if_pos hr, State.debugWrite, low, if_neg hv, if_neg (by rw [hi]; decide)]; rfl

end Sys2Proof.Machine

/-! SUPPORT. Frames of the accesses of HBM: which arrays they write (chapters 16 and 17, R393, R398, R401, R404, R408). -/

namespace Sys2Proof.Machine

open Reg

/-- Registers, the power-up of a domain, the errors of lines, and what an event writes. -/
def hbmCodes : List Nat := [A.domWake.code, A.hbmErr.code, A.hbmKnown.code] ++ raiseCodes

section hbm
variable (s : State)

theorem putBytes_only (a v n : Nat) : s.Only [] (s.putBytes a v n) := by
  induction n generalizing s a v with
  | zero => exact .refl ..
  | succ n ih => exact ((State.Only.refl _ s).update (u := s.putByte a (BitVec.ofNat 8 v)) (by rfl)).step (ih ..) rfl

theorem writeBack_only (line data : Nat) : s.Only hbmCodes (s.writeBack line data) := by
  have clean := (State.Only.refl hbmCodes s).wr (a := A.hbmErr) line 0 rfl
  exact (State.Only.refl ..).ite (((clean.wr _ _ rfl).ite clean).step (putBytes_only ..) rfl)

theorem l2Drop_only (die line : Nat) : s.Only hbmCodes (s.l2Drop die line) := by
  unfold State.l2Drop
  split
  · exact .refl ..
  · have dropped := (State.Only.refl hbmCodes s).update (u := { s with l2 := s.l2.filter fun x => ¬ (x.die = die ∧ x.line = line) }) (by rfl)
    exact (dropped.step (writeBack_only ..) rfl).ite dropped

theorem snoop_only (line : Nat) : s.Only hbmCodes (s.snoop line) := only_foldl (fun _ _ => l2Drop_only ..) ..

theorem snoopRead_only (line : Nat) : s.Only hbmCodes (s.snoopRead line) := only_foldl (fun _ _ => l2Drop_only ..) ..

theorem releaseHeld_only : s.Only [] s.releaseHeld := (State.Only.refl ..).ite ((State.Only.refl ..).update (by rfl))

theorem domUp_only (die dom : Nat) : s.Only hbmCodes (s.domUp die dom) :=
  (((State.Only.refl ..).wr (a := A.reg) _ _ rfl).wr _ _ rfl).step (releaseHeld_only _) rfl

theorem wakeMem_only (a : Nat) : s.Only hbmCodes (s.wakeMem a) := (State.Only.refl ..).ite (domUp_only ..)

theorem noteUe_only (a : Nat) : s.Only hbmCodes (s.noteUe a) :=
  (((State.Only.refl ..).cnt _ _ _ rfl).setPair _ _ rfl).step (raise_calm ..).only rfl

theorem noteCe_only (a : Nat) : s.Only hbmCodes (s.noteCe a) := ((State.Only.refl ..).cnt _ _ _ rfl).wr _ _ rfl

theorem free_only (w : Nat) : s.Only [] (s.free w).2 := (State.Only.refl ..).update (by rfl)

theorem hbmRead_only (a n : Nat) : s.Only hbmCodes (s.hbmRead a n).st := by
  have woken : s.Only hbmCodes ((s.wakeMem a).snoopRead (a / 64)) := (wakeMem_only s a).step (snoopRead_only ..) rfl
  have opened : s.Only hbmCodes (((s.wakeMem a).snoopRead (a / 64)).free (8 * n)).2 := woken.step (free_only ..) rfl
  have told : s.Only hbmCodes ((((s.wakeMem a).snoopRead (a / 64)).free (8 * n)).2.free 1).2 := opened.step (free_only ..) rfl
  unfold State.hbmRead
  dsimp only
  split
  · exact woken
  split
  · exact (told.step (noteUe_only ..) rfl).ite told
  split
  · exact opened
  split
  · exact woken
  · exact woken.step (noteCe_only ..) rfl
  · exact woken.step (noteUe_only ..) rfl

theorem hbmWrite_only (a n v : Nat) : s.Only hbmCodes (s.hbmWrite a n v).st := by
  have woken : s.Only hbmCodes ((s.wakeMem a).snoop (a / 64)) := (wakeMem_only s a).step (snoop_only ..) rfl
  unfold State.hbmWrite
  generalize (s.wakeMem a).snoop (a / 64) = u at woken
  dsimp only
  split
  · exact woken
  split
  · exact woken.step (noteUe_only ..) rfl
  · generalize hw : (if n < 64 ∧ u.rd A.hbmErr (a / 64) = 1 then u.noteCe a else u.wr A.hbmErr (a / 64) 0) = w
    have mended : s.Only hbmCodes w := hw ▸ (woken.step (noteCe_only ..) rfl).ite (woken.wr _ _ rfl)
    exact (((((mended.step (free_only w 512) rfl).step (putBytes_only ..) rfl).wr _ _ rfl).ite mended).step (putBytes_only ..) rfl)

theorem hbmAccess_only (who : Stamp) (write : Bool) (a n v : Nat) : s.Only hbmCodes (s.hbmAccess who write a n v).st := by
  unfold State.hbmAccess
  repeat' split
  · exact .refl ..
  · exact .refl ..
  · exact hbmWrite_only ..
  · exact hbmRead_only ..

theorem noteNoRoute_only (x : Nat × Nat) (addr status : Nat) : s.Only hbmCodes (s.noteNoRoute x addr status) :=
  ((State.Only.refl ..).cnt _ _ _ rfl).setPair _ _ rfl

theorem niAccess_only (die ni : Nat) (who : Stamp) (write : Bool) (a n v : Nat) :
    s.Only hbmCodes (s.niAccess die ni who write a n v).st := by
  unfold State.niAccess
  dsimp only
  split
  · exact hbmAccess_only ..
  · exact noteNoRoute_only ..

/-- One line of what the boot controller reads. -/
def hbmLine (a : Nat) (x : List Byte × Bool × State) (i : Nat) : List Byte × Bool × State :=
  let r := x.2.2.niAccess 0 44 .boot false (64 * (a / 64 + i)) 64 0
  (x.1 ++ (List.range 64).map fun j => BitVec.ofNat 8 (slice r.data (8 * j) 8), x.2.1 || r.status ≠ 0, r.st)

/-- What the boot controller's reads of HBM leave. -/
theorem hbmList_only (a n : Nat) : s.Only hbmCodes (s.hbmList a n).2.2 := by
  have lines (l : List Nat) (x : List Byte × Bool × State) : x.2.2.Only hbmCodes (l.foldl (hbmLine a) x).2.2 := by
    induction l generalizing x with
    | nil => exact .refl ..
    | cons i r ih =>
      have line : x.2.2.Only hbmCodes (hbmLine a x i).2.2 := niAccess_only ..
      exact line.step (ih (hbmLine a x i)) (listed_self _)
  exact lines _ ([], false, s)

theorem baseContainer_only : s.Only hbmCodes s.baseContainer.2.2 := (hbmList_only ..).step (hbmList_only ..) rfl

end hbm

end Sys2Proof.Machine

/-! SUPPORT and CERTIFICATE. The update commands (chapter 14, R353, R355). -/

namespace Sys2Proof.Machine

open Reg

/-! ### A store that is filled from a list -/

/-- The bytes of a list, written from a place of an array on. -/
def State.fill (s : State) (a : Arr) (o : Nat) (l : List (Byte × Nat)) : State :=
  l.foldl (fun s x => s.wr a (o + x.2) x.1.toNat) s

theorem fill_other (s : State) (a : Arr) (o : Nat) (l : List (Byte × Nat)) (j : Nat) (h : ∀ x ∈ l, o + x.2 ≠ j) :
    (s.fill a o l).rd a j = s.rd a j :=
  foldl_keeps (obs := fun u => u.rd a j) (fun _ x hx => State.rd_wr_ix _ _ _ _ _ (h x hx)) s

theorem fill_at (s : State) {a : Arr} (ha : 8 ≤ a.width) (o n : Nat) (b : List Byte) (i : Nat) (hi : i < b.length) :
    (s.fill a o (b.zipIdx n)).rd a (o + (n + i)) = (b.getD i 0).toNat := by
  induction b generalizing s n i with
  | nil => cases hi
  | cons x r ih =>
    rw [List.zipIdx_cons]
    cases i with
    | zero =>
      have later : ∀ y ∈ r.zipIdx (n + 1), o + y.2 ≠ o + (n + 0) := fun y hy => by
        have := (List.mem_zipIdx hy).1
        omega
      have byte : x.toNat < 2 ^ a.width := lt_of_lt_of_le x.isLt (Nat.pow_le_pow_right (by decide) ha)
      exact (fill_other (s.wr a (o + n) x.toNat) a o _ _ later).trans ((State.rd_wr_same ..).trans (Nat.mod_eq_of_lt byte))
    | succ i =>
      have step := ih (s.wr a (o + n) x.toNat) (n + 1) i (by simpa using hi)
      rw [show n + (i + 1) = n + 1 + i by omega]
      exact step

theorem fill_only {codes : List Nat} (s : State) (a : Arr) (o : Nat) (l : List (Byte × Nat)) (ha : codes.contains (a.code % 512) = true) :
    s.Only codes (s.fill a o l) := only_foldl (fun _ _ => (State.Only.refl ..).wr _ _ ha) ..

theorem fill_mem (s : State) (a : Arr) (o : Nat) (l : List (Byte × Nat)) : (s.fill a o l).mem = s.mem :=
  foldl_keeps (obs := State.mem) (f := fun s (x : Byte × Nat) => s.wr a (o + x.2) x.1.toNat) (fun _ _ _ => rfl) s

/-! ### The commands -/

section commands
variable {s : State} {who : Who} {target confirm : Bool} {f : State → Nat × State}

theorem updateCmd_denied (h : s.pfRights who = false) : s.updateCmd who target confirm f = s.ans 1 0 := if_pos (by rw [h]; decide)

theorem updateCmd_halted (h : s.pfRights who = true) (hs : s.stage = 9) : s.updateCmd who target confirm f = s.ans 0 0 := by
  rw [State.updateCmd, if_neg (by rw [h]; decide), if_pos (show s.stage = stageHalted from hs)]
  rfl

/-- A command of a running boot controller shows its result. -/
theorem updateCmd_runs (h : s.pfRights who = true) (hs : s.stage ≠ 9) {r : Nat × State}
    (hr : (if s.rf 0 SEC_LOCK_UPDATE_LOCK = 1 ∧ who ≠ .boot then (2, s)
      else if target = true ∧ ¬ confirm = true ∧ ¬ s.on A.nvmeThere 0 = true then (6, s) else f s) = r) :
    s.updateCmd who target confirm f = (r.2.wf 0 UPDATE_CTRL_RESULT r.1).ans 0 0 := by
  rw [State.updateCmd, if_neg (by rw [h]; decide), if_neg (show s.stage ≠ stageHalted from hs), hr]
  rfl

theorem updateCmd_locked (h : s.pfRights who = true) (hs : s.stage ≠ 9) (hl : s.rf 0 SEC_LOCK_UPDATE_LOCK = 1) (hw : who ≠ .boot) :
    s.updateCmd who target confirm f = (s.wf 0 UPDATE_CTRL_RESULT 2).ans 0 0 := updateCmd_runs h hs (if_pos ⟨hl, hw⟩)

/-- Whoever the lock lets command. -/
def State.unlocked (s : State) (who : Who) : Prop := s.rf 0 SEC_LOCK_UPDATE_LOCK = 0 ∨ who = .boot

theorem unlocked_not (h : s.unlocked who) : ¬ (s.rf 0 SEC_LOCK_UPDATE_LOCK = 1 ∧ who ≠ .boot) := fun ⟨hl, hw⟩ =>
  h.elim (fun h0 => absurd (h0.symm.trans hl) (by decide)) hw

theorem updateCmd_nvme (h : s.pfRights who = true) (hs : s.stage ≠ 9) (hl : s.unlocked who) (ht : target = true)
    (hn : s.on A.nvmeThere 0 = false) : s.updateCmd who target false f = (s.wf 0 UPDATE_CTRL_RESULT 6).ans 0 0 :=
  updateCmd_runs h hs ((if_neg (unlocked_not hl)).trans (if_pos ⟨ht, by decide, by rw [hn]; decide⟩))

theorem updateCmd_done (h : s.pfRights who = true) (hs : s.stage ≠ 9) (hl : s.unlocked who)
    (ht : confirm = true ∨ target = false ∨ s.on A.nvmeThere 0 = true) :
    s.updateCmd who target confirm f = ((f s).2.wf 0 UPDATE_CTRL_RESULT (f s).1).ans 0 0 :=
  updateCmd_runs h hs ((if_neg (unlocked_not hl)).trans (if_neg fun ⟨h1, h2, h3⟩ =>
    ht.elim h2 fun h => h.elim (fun h0 => Bool.false_ne_true (h0.symm.trans h1)) h3))

end commands

/-- Settles O42. -/
theorem updateCommands : Obligations.UpdateCommands := by
  unfold Obligations.UpdateCommands
  intro s who target slot x n r res b u1 three h
  have write : exec (.updateWrite who target slot) s = .next (s.updateCmd who target false fun s => s.updateWrite target slot) :=
    access_next h _ fun s => s.updateCmd who target false fun s => s.updateWrite target slot
  have verify : exec (.updateVerify who target slot) s = .next (s.updateCmd who target false fun s => s.updateVerify target slot) :=
    access_next h _ fun s => s.updateCmd who target false fun s => s.updateVerify target slot
  have activate : exec (.activate who target slot) s = .next (s.updateCmd who target false fun s => s.activate target slot) :=
    access_next h _ fun s => s.updateCmd who target false fun s => s.activate target slot
  have confirm : exec (.confirm who target) s = .next (s.updateCmd who target true fun s => s.confirm target) :=
    access_next h _ fun s => s.updateCmd who target true fun s => s.confirm target
  have all {t : State} (ht : ∀ f, s.updateCmd who target false f = t) : ∀ c ∈ three, exec c s = .next t := by
    intro c hc
    simp only [three, List.mem_cons, List.not_mem_nil, or_false] at hc
    rcases hc with rfl | rfl | rfl
    · rw [write, ht]
    · rw [verify, ht]
    · rw [activate, ht]
  refine ⟨fun hr => ⟨all fun f => updateCmd_denied hr, ?_⟩, fun hr hs => ⟨all fun f => updateCmd_halted hr hs, ?_⟩,
    fun hr hs hl hw => ⟨all fun f => updateCmd_locked hr hs hl hw, ?_⟩, fun hr hs hl => ⟨fun ht hn => ⟨all fun f => updateCmd_nvme hr hs hl ht hn, ?_⟩, fun ht => ?_⟩⟩
  · rw [confirm, updateCmd_denied hr]
  · rw [confirm, updateCmd_halted hr hs]
  · rw [confirm, updateCmd_locked hr hs hl hw]
  · have svn : s.confirm target = (0, s.wr A.fuseSvn 1 (max (s.rd A.fuseSvn 1) (min 64 (s.rf 0 SVN_STATUS_RUN_IMAGE_SVN)))) :=
      if_pos ⟨ht, by rw [hn]; decide⟩
    rw [confirm, updateCmd_done hr hs hl (.inl rfl), svn]
  · have there : ¬ (target = true ∧ ¬ s.on A.nvmeThere 0 = true) := fun ⟨h1, h2⟩ =>
      ht.elim (fun h0 => Bool.false_ne_true (h0.symm.trans h1)) h2
    rw [write, verify, activate, confirm, updateCmd_done hr hs hl (.inr ht), updateCmd_done hr hs hl (.inr ht),
      updateCmd_done hr hs hl (.inr ht), updateCmd_done hr hs hl (.inl rfl)]
    refine ⟨fun ha => ?_, fun ha hc => ?_, fun ha hc => ⟨fun hb => ?_, fun hb => ?_⟩, fun v hv => ⟨fun h0 => ?_, fun h0 => ?_⟩, fun hv => ?_, fun hv => ?_, ?_⟩
    · rw [State.updateWrite, if_pos ha]
    · rw [State.updateWrite, if_neg ha, if_pos hc]
    · have large : s.updateWrite target slot = (7, u1) := (if_neg ha).trans ((if_neg hc).trans (if_pos hb))
      rw [large]
    · have copied : s.updateWrite target slot = (0, (u1.fill A.slotByte (2 ^ 40 * n) b.zipIdx).wr A.slotVerified n 0) :=
        (if_neg ha).trans ((if_neg hc).trans (if_neg (not_lt.2 hb)))
      rw [copied]
      have apart {j : Nat} (hj : j < 2 ^ 40 * n ∨ 2 ^ 40 * n + b.length ≤ j) : ∀ x ∈ b.zipIdx, 2 ^ 40 * n + x.2 ≠ j := fun x hx => by
        have := (List.mem_zipIdx hx).2.1
        omega
      refine ⟨_, rfl, (State.rf_ans ..).trans (State.rf_wf_same _ _ _ _ (by decide)), State.rsp_ans .., ?_, fun i hi => ?_, fun j hj => ?_, ?_⟩
      · rw [State.on, State.rd_ans, State.rd_wf _ _ _ _ _ _ (by decide), State.rd_wr_same]
        rfl
      · rw [State.rd_ans, State.rd_wf _ _ _ _ _ _ (by decide), State.rd_wr_arr _ _ _ _ _ _ (by decide)]
        exact (congrArg (fun k => (u1.fill A.slotByte (2 ^ 40 * n) b.zipIdx).rd A.slotByte (2 ^ 40 * n + k)) (Nat.zero_add i).symm).trans
          (fill_at u1 (by decide) _ 0 b i hi)
      · rw [State.rd_ans, State.rd_wf _ _ _ _ _ _ (by decide), State.rd_wr_arr _ _ _ _ _ _ (by decide),
          fill_other _ _ _ _ _ (apart hj)]
        exact (baseContainer_only s).rd A.slotByte j rfl
      · rw [State.mem_ans, State.mem_wf, State.mem_wr, fill_mem]
    · have good : s.updateVerify target slot = (0, (s.wf 0 UPDATE_CTRL_CHECK v).wr A.slotVerified n 1) := by
        rw [State.updateVerify, hv]
        exact if_pos (hv.symm.trans h0)
      rw [good, h0]
    · have bad : s.updateVerify target slot = (8, s.wf 0 UPDATE_CTRL_CHECK v) := by
        rw [State.updateVerify, hv]
        exact if_neg fun hn => h0 (hv.trans hn)
      rw [bad]
    · rw [State.activate, if_pos (by rw [show s.on A.slotVerified (slotOf target slot) = false from hv]; decide)]
    · have stored : s.activate target slot = (0, s.wr A.bootRec (1 - r.copy) (BootRec.pack ⟨r.copy, r.seq + 1,
          r.active.set x (bit slot), r.conf.set x 0, r.trial.set x 3⟩)) :=
        if_neg (by rw [show s.on A.slotVerified (slotOf target slot) = true from hv]; decide)
      rw [stored]
    · have confirmed : s.confirm target = (0, (s.wr A.bootRec (1 - r.copy) (BootRec.pack ⟨r.copy, r.seq + 1, r.active,
          r.conf.set x 1, r.trial.set x 0⟩)).advanceSvn (x + 1) (contSvn (s.slotBytes (2 * x + r.active.getD x 0) 0x100))) :=
        if_neg there
      rw [confirmed, State.advanceSvn, State.svn, Nat.add_sub_cancel, State.rd_wr_arr _ _ _ _ _ _ (by decide)]

end Sys2Proof.Machine

/-! CERTIFICATE. Life cycle, key RAM and tamper (chapter 14, R356 to R363). -/

namespace Sys2Proof.Machine

open Reg

/-- A device in which a request of the boot controller waits at the NI of the device window. -/
def bootWaits : State :=
  { State.reset with held := [⟨.boot, .pf, requestNi (.lcTransition .boot 0), .lcTransition .boot 0, false, 0, 0, false⟩] }

/-- Before firmware or software has set a route, every request is delivered (R388). -/
theorem routed_unset {s : State} (hf : s.rd A.cnFw 0 = 0) (hm : (s.listed A.cnMatch).isEmpty = true) : s.Routed := fun _ _ _ =>
  if_pos ⟨by rw [State.on, hf]; decide, hm⟩

/-- The requests of the physical function are served all the same: its NI is another (R385). -/
theorem bootWaits_serves : bootWaits.Serving .pf where
  clocked := by decide
  outside := by decide
  routed := routed_unset (by decide) (by decide)
  awake := trivial
  accepted := rfl
  first := by decide
  done := rfl

/-- Refutes O43: its clauses about the boot controller's commands assume that the requests of the initiator `who` are served,
and `who` may be another. Where a request of the boot controller's NI still waits, a GO of LC_CTRL waits behind it (R390) and is
not answered, though the requests of the physical function are served. -/
theorem not_lifeCycleAndKeys : ¬ Obligations.LifeCycleAndKeys := by
  unfold Obligations.LifeCycleAndKeys
  intro h
  obtain ⟨served, -⟩ := h bootWaits .pf 0 0
  obtain ⟨-, -, go, -⟩ := served bootWaits_serves
  obtain ⟨refused, -⟩ := go (by decide)
  have waits : exec (.lcTransition .boot 0) bootWaits = .next (bootWaits.hold .boot (.lcTransition .boot 0) false) := by rfl
  have same := waits.symm.trans (refused (.inl (by decide)))
  have length := congrArg (fun t : State => t.held.length) (Host.Outcome.next.inj same)
  exact absurd length (by decide)

end Sys2Proof.Machine

/-! SUPPORT and CERTIFICATE. Bays: DUT accesses, delivery of lines, service accesses (chapter 8, R183 to R190). -/

namespace Sys2Proof.Machine

open Reg

/-! ### Words of a bay that Newt does not serve -/

section plain
variable {s : State} {wall a : Nat}

theorem bayRd_plain (h : s.newtServes wall a = none) : s.bayRd wall a = s.rd A.bay (bayKey wall a) := by
  rw [State.bayRd, h]

theorem bayErr_plain (h : s.newtServes wall a = none) : s.bayErr wall a = s.errOf A.bay (bayKey wall a) := by
  rw [State.bayErr, h]

theorem bayWr_plain (h : s.newtServes wall a = none) (v : Nat) : s.bayWr wall a v = s.wrE A.bay (bayKey wall a) v := by
  rw [State.bayWr, h]

theorem noteBay_intact (h : s.newtServes wall a = none) (he : s.errOf A.bay (bayKey wall a) = 0) : s.noteBay wall a = s := by
  rw [State.noteBay, bayErr_plain h, he]
  rfl

theorem cowNeeds_idle {k : Nat} (h : s.snapOf k = none) (key : Nat) : s.cowNeeds k key = false := by
  rw [State.cowNeeds, h]

theorem cowBay_idle {k : Nat} (h : s.snapOf k = none) : s.cowBay k wall a = s :=
  if_neg (by rw [cowNeeds_idle h]; decide)

theorem snapOf_none (h : s.snaps = []) (k : Nat) : s.snapOf k = none := by rw [State.snapOf, h]; rfl

end plain

/-! ### The requests of one step (R183) -/

/-- The key of a request's word. -/
abbrev BayReq.key (r : BayReq) (wall : Nat) : Nat := bayKey wall r.addr

/-- What a request's read sends to the port store. -/
def State.bayReturn (s : State) (wall : Nat) (r : BayReq) : BayRet :=
  ⟨r.slot, r.course, r.cyc, r.step, r.bed, r.line, r.bank, s.rd A.bay (r.key wall) % 2 ^ r.len, r.due⟩

/-- The word of a request is intact, and Newt does not serve it. -/
structure State.BayWord (s : State) (wall : Nat) (r : BayReq) : Prop where
  mine : r.course / 16 = wall
  plain : s.newtServes wall r.addr = none
  intact : s.errOf A.bay (r.key wall) = 0

theorem bayDutRead_word {s : State} {wall : Nat} {r : BayReq} (h : s.BayWord wall r) : s.bayDutRead r =
    { s with bayRet := s.bayRet ++ [s.bayReturn wall r], bayDone := s.bayDone ++ [⟨wall, r.addr, false, s.rd A.bay (r.key wall), 0⟩] } := by
  obtain ⟨hw, hp, he⟩ := h
  have intact : s.bayErr wall r.addr = 0 := (bayErr_plain hp).trans he
  subst hw
  rw [State.bayDutRead, intact, noteBay_intact hp he, bayRd_plain hp]
  rfl

/-- The reads of a step find the words as they stand. -/
theorem bayReads (wall : Nat) (l : List BayReq) (s : State) (h : ∀ r ∈ l, s.BayWord wall r) :
    ∃ d, l.foldl State.bayDutRead s = { s with bayRet := s.bayRet ++ l.map (s.bayReturn wall), bayDone := d } := by
  induction l generalizing s with
  | nil => exact ⟨s.bayDone, by rw [List.map_nil, List.append_nil]; rfl⟩
  | cons r l ih =>
    rw [List.foldl_cons, bayDutRead_word (h r List.mem_cons_self)]
    obtain ⟨d, hd⟩ := ih { s with
        bayRet := s.bayRet ++ [s.bayReturn wall r]
        bayDone := s.bayDone ++ [⟨wall, r.addr, false, s.rd A.bay (r.key wall), 0⟩] } fun x hx => by
      obtain ⟨hw, hp, he⟩ := h x (List.mem_cons_of_mem _ hx)
      exact ⟨hw, hp, he⟩
    refine ⟨d, hd.trans ?_⟩
    rw [List.append_assoc, List.map_cons]
    rfl

/-- What the writes of a step leave: `l` the requests that have been performed. -/
structure State.BayWrote (s t : State) (wall : Nat) (l : List BayReq) : Prop where
  words : ∀ r ∈ l, t.rd A.bay (r.key wall) = patch (s.rd A.bay (r.key wall)) 0 r.len r.data % 2 ^ 64
  others : ∀ j, (∀ r ∈ l, r.key wall ≠ j) → t.rd A.bay j = s.rd A.bay j
  intact : ∀ i, s.rd A.err i = 0 → t.rd A.err i = 0
  only : s.Only [A.bay.code, A.err.code] t
  snaps : t.snaps = s.snaps
  bayReq : t.bayReq = s.bayReq
  bayRet : t.bayRet = s.bayRet
  mem : t.mem = s.mem
  packets : t.packets = s.packets
  histPend : t.histPend = s.histPend

theorem newtServes_congr {s t : State} (h : ∀ i, t.rd A.reg i = s.rd A.reg i) (wall a : Nat) :
    t.newtServes wall a = s.newtServes wall a := by
  have field (b : Nat) (f : Fld) : t.rf b f = s.rf b f := by rw [State.rf, State.reg, h, ← State.reg, ← State.rf]
  simp only [State.newtServes, field]

theorem bayDutWrite_word {s : State} {wall : Nat} {r : BayReq} (h : s.BayWord wall r) (hs : s.snaps = []) :
    s.bayDutWrite wall [r] = { s.wrE A.bay (r.key wall) (patch (s.rd A.bay (r.key wall)) 0 r.len r.data) with
      bayDone := s.bayDone ++ [⟨wall, r.addr, true, s.rd A.bay (r.key wall), 0⟩] } := by
  obtain ⟨hw, hp, he⟩ := h
  have intact : s.bayErr wall r.addr = 0 := (bayErr_plain hp).trans he
  simp only [State.bayDutWrite, intact, noteBay_intact hp he, ite_self, cowBay_idle (snapOf_none hs _), bayRd_plain hp, bayWr_plain hp]
  rw [if_neg (by omega)]
  rfl

theorem bayWrote_nil (s : State) (wall : Nat) : s.BayWrote s wall [] where
  words := by simp
  others _ _ := rfl
  intact _ h := h
  only := .refl ..
  snaps := rfl
  bayReq := rfl
  bayRet := rfl
  mem := rfl
  packets := rfl
  histPend := rfl

theorem wrE_mem (s : State) (a : Arr) (i v : Nat) : (s.wrE a i v).mem = s.mem := rfl

theorem wrE_packets (s : State) (a : Arr) (i v : Nat) : (s.wrE a i v).packets = s.packets := rfl

theorem wrE_snaps (s : State) (a : Arr) (i v : Nat) : (s.wrE a i v).snaps = s.snaps := rfl

theorem wrE_bayReq (s : State) (a : Arr) (i v : Nat) : (s.wrE a i v).bayReq = s.bayReq := rfl

theorem wrE_bayRet (s : State) (a : Arr) (i v : Nat) : (s.wrE a i v).bayRet = s.bayRet := rfl

theorem wrE_histPend (s : State) (a : Arr) (i v : Nat) : (s.wrE a i v).histPend = s.histPend := rfl

theorem bayWrote_one {s : State} {wall : Nat} {r : BayReq} (h : s.BayWord wall r) (hs : s.snaps = []) :
    s.BayWrote (s.bayDutWrite wall [r]) wall [r] := by
  rw [bayDutWrite_word h hs]
  exact {
    words := by
      simp only [List.mem_singleton, forall_eq]
      rw [State.rd_update, State.wrE, State.rd_wr_arr _ _ _ _ _ _ (by decide), State.rd_wr_same]
      rfl
    others := fun j hj => by
      rw [State.rd_update, State.wrE, State.rd_wr_arr _ _ _ _ _ _ (by decide), State.rd_wr_ix _ _ _ _ _ (hj r List.mem_cons_self)]
    intact := fun i hi => by
      rw [State.rd_update, State.wrE]
      by_cases he : A.bay.key (r.key wall) = i
      · rw [he, State.rd_wr_same, Nat.zero_mod]
      · rw [State.rd_wr_ix _ _ _ _ _ he, State.rd_wr_arr _ _ _ _ _ _ (by decide), hi]
    only := ((State.Only.refl _ s).wrE (a := A.bay) (r.key wall) _ rfl rfl).update rfl
    snaps := wrE_snaps ..
    bayReq := wrE_bayReq ..
    bayRet := wrE_bayRet ..
    mem := wrE_mem ..
    packets := wrE_packets ..
    histPend := wrE_histPend .. }

theorem bayWrote_cons {s t u : State} {wall : Nat} {r : BayReq} {l : List BayReq} (h : s.BayWrote t wall [r]) (h' : t.BayWrote u wall l)
    (hr : ∀ x ∈ l, r.key wall ≠ x.key wall) : s.BayWrote u wall (r :: l) where
  words x hx := by
    rcases List.mem_cons.1 hx with rfl | hl
    · rw [h'.others _ fun y hy => (hr y hy).symm, h.words x List.mem_cons_self]
    · rw [h'.words x hl, h.others _ (by simpa using hr x hl)]
  others j hj := (h'.others j fun y hy => hj y (List.mem_cons_of_mem _ hy)).trans (h.others j (by simpa using hj r List.mem_cons_self))
  intact i hi := h'.intact i (h.intact i hi)
  only := h.only.step h'.only rfl
  snaps := h'.snaps.trans h.snaps
  bayReq := h'.bayReq.trans h.bayReq
  bayRet := h'.bayRet.trans h.bayRet
  mem := h'.mem.trans h.mem
  packets := h'.packets.trans h.packets
  histPend := h'.histPend.trans h.histPend

/-- The writes of a step, each of a word of its own. -/
theorem bayWrites (wall : Nat) (l : List BayReq) (hl : l.Pairwise fun a b => a.key wall ≠ b.key wall) (s : State)
    (h : ∀ r ∈ l, s.BayWord wall r) (hs : s.snaps = []) :
    s.BayWrote (l.foldl (fun u r => u.bayDutWrite wall [r]) s) wall l := by
  induction l generalizing s with
  | nil => exact bayWrote_nil ..
  | cons r l ih =>
    have one := bayWrote_one (h r List.mem_cons_self) hs
    obtain ⟨hr, hl⟩ := List.pairwise_cons.1 hl
    refine bayWrote_cons one (ih hl _ (fun x hx => ?_) (one.snaps.trans hs)) hr
    obtain ⟨hw, hp, he⟩ := h x (List.mem_cons_of_mem _ hx)
    exact ⟨hw, (newtServes_congr (fun i => one.only.rd A.reg i rfl) ..).trans hp, one.intact _ he⟩

/-! ### The step's list of requests -/

theorem eraseDups_nodup {α : Type} [BEq α] [LawfulBEq α] {l : List α} (h : l.Nodup) : l.eraseDups = l := by
  induction l with
  | nil => rfl
  | cons x r ih =>
    obtain ⟨hx, hr⟩ := List.nodup_cons.1 h
    rw [List.eraseDups_cons, List.filter_eq_self.2 fun y hy => ?_, ih hr]
    rw [Bool.not_eq_true', beq_eq_false_iff_ne]
    rintro rfl
    exact hx hy

theorem eraseDups_same {α : Type} [BEq α] [LawfulBEq α] {x : α} {l : List α} (h : ∀ y ∈ l, y = x) (hl : l ≠ []) : l.eraseDups = [x] := by
  cases l with
  | nil => exact absurd rfl hl
  | cons y r =>
    obtain ⟨rfl, hr⟩ := List.forall_mem_cons.1 h
    rw [List.eraseDups_cons, List.filter_eq_nil_iff.2 fun z hz => by simp [hr z hz]]
    rfl

/-- Of a list whose images differ, one element has its own image. -/
theorem filter_own {α β : Type} [DecidableEq β] (f : α → β) {l : List α} (h : l.Pairwise fun a b => f a ≠ f b) {x : α} (hx : x ∈ l) :
    l.filter (fun y => decide (f y = f x)) = [x] := by
  induction l with
  | nil => cases hx
  | cons y r ih =>
    obtain ⟨hy, hr⟩ := List.pairwise_cons.1 h
    rcases List.mem_cons.1 hx with rfl | hx
    · rw [List.filter_cons_of_pos (by simp), List.filter_eq_nil_iff.2 fun z hz => by simpa using (hy z hz).symm]
    · rw [List.filter_cons_of_neg (by simpa using hy x hx), ih hr hx]

theorem mem_sortCourse {l : List BayReq} {r : BayReq} : r ∈ sortCourse l ↔ r ∈ l := by
  simp only [sortCourse, List.mem_flatMap, List.mem_range, List.mem_filter, decide_eq_true_eq]
  exact ⟨fun ⟨_, _, h, _⟩ => h, fun h => ⟨r.course % 16, Nat.mod_lt _ (by decide), h, rfl⟩⟩

/-- Requests that differ in a respect differ in it in course order too. -/
theorem byCourse_apart {f : BayReq → Nat} {l : List BayReq} (h : l.Pairwise fun a b => f a ≠ f b) {cs : List Nat} (hc : cs.Nodup) :
    (cs.flatMap fun c => l.filter fun r => r.course % 16 = c).Pairwise fun a b => f a ≠ f b := by
  have differ : Std.Symm fun a b : BayReq => f a ≠ f b := ⟨fun _ _ => Ne.symm⟩
  rw [List.pairwise_flatMap]
  refine ⟨fun c _ => h.filter _, hc.imp fun {c d} hcd x hx y hy => ?_⟩
  obtain ⟨hx, hxc⟩ := List.mem_filter.1 hx
  obtain ⟨hy, hyc⟩ := List.mem_filter.1 hy
  refine h.forall hx hy fun e => hcd ?_
  rw [← of_decide_eq_true hxc, ← of_decide_eq_true hyc, e]

/-- Writes of different words stay so in course order. -/
theorem sortCourse_writes (wall : Nat) {l : List BayReq} (h : (l.filter (·.write)).Pairwise fun a b => a.key wall ≠ b.key wall) :
    ((sortCourse l).filter (·.write)).Pairwise fun a b => a.key wall ≠ b.key wall := by
  have swap (c : Nat) : (l.filter fun r => r.course % 16 = c).filter (·.write) =
      (l.filter (·.write)).filter fun r => r.course % 16 = c := by
    rw [List.filter_filter, List.filter_filter]
    exact List.filter_congr fun _ _ => Bool.and_comm ..
  rw [sortCourse, List.filter_flatMap, funext swap]
  exact byCourse_apart (f := (·.key wall)) h List.nodup_range

section group
variable {s : State} {wall : Nat} {now : List BayReq}

/-- The requests of one step, of words of their own. -/
structure State.BayStep (s : State) (wall : Nat) (now : List BayReq) : Prop where
  words : ∀ r ∈ now, s.BayWord wall r
  apart : (now.filter (·.write)).Pairwise fun a b => a.key wall ≠ b.key wall
  snaps : s.snaps = []

/-- The state after a step's reads. -/
def State.bayRead (s : State) (wall : Nat) (now : List BayReq) (done : List BayDone) : State :=
  { s with bayReq := s.bayReq.filter fun r => ¬ now.contains r
           bayRet := s.bayRet ++ (now.filter fun r => ¬ r.write).map (s.bayReturn wall)
           bayDone := done }

theorem bayGroup_step (h : s.BayStep wall now) : ∃ done, s.bayGroup wall now =
    (now.filter (·.write)).foldl (fun u r => u.bayDutWrite wall [r]) (s.bayRead wall now done) := by
  obtain ⟨words, apart, snaps⟩ := h
  have addrs : (now.filter (·.write)).Pairwise fun a b => a.addr ≠ b.addr :=
    apart.imp fun h e => h (by rw [BayReq.key, BayReq.key, e])
  have fresh : ((now.filter (·.write)).filter fun r => s.cowNeeds r.slot (A.bay.key (bayKey wall r.addr))).length = 0 := by
    rw [List.length_eq_zero_iff, List.filter_eq_nil_iff]
    exact fun r _ => by rw [cowNeeds_idle (snapOf_none snaps _)]; decide
  obtain ⟨d, hd⟩ := bayReads wall (now.filter fun r => ¬ r.write) { s with bayReq := s.bayReq.filter fun r => ¬ now.contains r } fun r hr => by
    obtain ⟨hw, hp, he⟩ := words r (List.mem_filter.1 hr).1
    exact ⟨hw, hp, he⟩
  refine ⟨d, ?_⟩
  unfold State.bayGroup
  dsimp only
  rw [if_neg (fun h => h.1 fresh), hd, eraseDups_nodup (List.pairwise_map.2 addrs), List.foldl_map]
  exact List.foldl_ext _ _ _ fun u r hr => by rw [filter_own _ addrs hr]

theorem bayGroup_wrote (h : s.BayStep wall now) : ∃ done,
    (s.bayRead wall now done).BayWrote (s.bayGroup wall now) wall (now.filter (·.write)) := by
  obtain ⟨d, hd⟩ := bayGroup_step h
  refine ⟨d, hd ▸ bayWrites wall _ h.apart _ (fun r hr => ?_) h.snaps⟩
  obtain ⟨hw, hp, he⟩ := h.words r (List.mem_filter.1 hr).1
  exact ⟨hw, hp, he⟩

/-- The requests of a step, in any order, with the same step (R83). -/
structure State.BayTurn (s : State) (wall : Nat) : Prop where
  plain : ∀ a, s.newtServes wall a = none
  intact : ∀ r ∈ s.bayDue wall, s.errOf A.bay (r.key wall) = 0
  same : ∀ r ∈ s.bayDue wall, ∀ x ∈ s.bayDue wall, r.cyc = x.cyc ∧ r.step = x.step
  apart : ((s.bayDue wall).filter (·.write)).Pairwise fun a b => a.key wall ≠ b.key wall
  snaps : s.snaps = []

theorem bayReqDue_mine {r : BayReq} (h : s.bayReqDue wall r = true) : r.course / 16 = wall := (of_decide_eq_true h).1

theorem bayStep_wrote (h : s.BayTurn wall) : ∃ now done, (∀ r, r ∈ now ↔ r ∈ s.bayDue wall) ∧
    (s.bayRead wall now done).BayWrote (s.bayStep wall) wall (now.filter (·.write)) := by
  obtain ⟨plain, intact, same, apart, snaps⟩ := h
  by_cases hd : s.bayDue wall = []
  · refine ⟨[], s.bayDone, fun r => by rw [hd], ?_⟩
    have still : s.bayRead wall [] s.bayDone = s := by
      simp only [State.bayRead, List.contains_nil, Bool.false_eq_true, not_false_eq_true, decide_true, List.filter_true, List.filter_nil,
        List.map_nil, List.append_nil]
    have none : s.bayStep wall = s := by
      rw [State.bayStep, show s.bayReq.filter (s.bayReqDue wall) = [] from hd]
      rfl
    rw [none, still]
    exact bayWrote_nil ..
  · obtain ⟨x, hx⟩ := List.exists_mem_of_ne_nil _ hd
    have steps : ((s.bayDue wall).map fun r => (r.cyc, r.step)).eraseDups = [(x.cyc, x.step)] := by
      refine eraseDups_same (fun y hy => ?_) fun e => hd (List.map_eq_nil_iff.1 e)
      obtain ⟨r, hr, rfl⟩ := List.mem_map.1 hy
      obtain ⟨hc, ht⟩ := same r hr x hx
      rw [hc, ht]
    have all : s.bayReq.filter (fun r => s.bayReqDue wall r ∧ (r.cyc, r.step) = (x.cyc, x.step)) = s.bayDue wall := by
      refine List.filter_congr fun r hr => ?_
      by_cases hb : s.bayReqDue wall r = true
      · obtain ⟨hc, ht⟩ := same r (List.mem_filter.2 ⟨hr, hb⟩) x hx
        simp only [hb, hc, ht, and_self, decide_true]
      · simp only [hb, false_and, decide_false, Bool.false_eq_true]
    have one : s.bayStep wall = s.bayGroup wall (sortCourse (s.bayDue wall)) := by
      rw [State.bayStep, show s.bayReq.filter (s.bayReqDue wall) = s.bayDue wall from rfl, steps, State.bayGroups]
      rw [all]
      split <;> rfl
    have turn : s.BayStep wall (sortCourse (s.bayDue wall)) := ⟨fun r hr =>
      ⟨bayReqDue_mine (List.mem_filter.1 (mem_sortCourse.1 hr)).2, plain _, intact r (mem_sortCourse.1 hr)⟩, sortCourse_writes wall apart, snaps⟩
    obtain ⟨done, hw⟩ := bayGroup_wrote turn
    exact ⟨_, done, fun r => mem_sortCourse, one ▸ hw⟩

theorem bayStep_requests (h : s.BayTurn wall) : (s.bayStep wall).bayReq = s.bayReq.filter (fun r => ¬ s.bayReqDue wall r) ∧
    (∀ r ∈ s.bayDue wall, r.write = false → s.bayReturn wall r ∈ (s.bayStep wall).bayRet) ∧
    (∀ r ∈ s.bayDue wall, r.write = true →
      (s.bayStep wall).rd A.bay (r.key wall) = patch (s.rd A.bay (r.key wall)) 0 r.len r.data % 2 ^ 64) ∧
    (∀ j, (∀ r ∈ s.bayDue wall, r.write = true → r.key wall ≠ j) → (s.bayStep wall).rd A.bay j = s.rd A.bay j) ∧
    (s.bayStep wall).mem = s.mem ∧ (s.bayStep wall).packets = s.packets ∧ (s.bayStep wall).histPend = s.histPend := by
  obtain ⟨now, done, hn, hw⟩ := bayStep_wrote h
  have mine (r : BayReq) : r ∈ now.filter (·.write) ↔ r ∈ s.bayDue wall ∧ r.write = true := by rw [List.mem_filter, hn]
  refine ⟨?_, fun r hr hwr => ?_, fun r hr hwr => hw.words r ((mine r).2 ⟨hr, hwr⟩),
    fun j hj => hw.others j fun r hr => hj r ((mine r).1 hr).1 ((mine r).1 hr).2, hw.mem, hw.packets, hw.histPend⟩
  · rw [hw.bayReq]
    refine List.filter_congr fun r hr => ?_
    have contained : now.contains r = s.bayReqDue wall r := by
      rw [Bool.eq_iff_iff, List.contains_iff_mem, hn]
      exact ⟨fun h => (List.mem_filter.1 h).2, fun h => List.mem_filter.2 ⟨hr, h⟩⟩
    rw [contained]
  · rw [hw.bayRet]
    exact List.mem_append_right _ (List.mem_map_of_mem (List.mem_filter.2 ⟨(hn r).2 hr, by rw [hwr]; decide⟩))

end group

/-! ### Delivery of lines (R45, R50) -/

/-- What the check of late items leaves: the arrays but for the pulls, and the bays. -/
structure State.Settled (s t : State) : Prop where
  only : s.Only plumbCodes t
  mem : t.mem = s.mem
  bayReq : t.bayReq = s.bayReq
  bayRet : t.bayRet = s.bayRet

theorem State.Settled.trans {s t u : State} (h : s.Settled t) (h' : t.Settled u) : s.Settled u :=
  ⟨h.only.step h'.only rfl, h'.mem.trans h.mem, h'.bayReq.trans h.bayReq, h'.bayRet.trans h.bayRet⟩

theorem State.Calm.settled {s t : State} (h : s.Calm plumbCodes t) : s.Settled t :=
  ⟨h.only, h.mem, (congrArg State.bayReq h.core : t.core.bayReq = s.core.bayReq), (congrArg State.bayRet h.core : t.core.bayRet = s.core.bayRet)⟩

theorem releaseHeld_settled (s : State) : s.Settled s.releaseHeld := by
  unfold State.releaseHeld
  split
  · exact ⟨.refl .., rfl, rfl, rfl⟩
  · exact ⟨⟨fun _ _ _ => rfl⟩, rfl, rfl, rfl⟩

theorem recSettle_settled (s : State) (k : Nat) : s.Settled (s.recSettle k) := by
  unfold State.recSettle State.releaseSvc
  split
  · exact (State.Calm.refl ..).settled
  split
  · exact (dropCause_calm ..).settled.trans (releaseHeld_settled _)
  · exact (dropCause_calm ..).settled

/-- The check of late items, but for what ends with it in a replay. -/
def State.lateLeft (s : State) (k : Nat) : State :=
  let s := { s with late := s.late.filter fun i => i.slot ≠ k ∨ s.isLate i }
  let s := if s.late.any fun i => i.slot = k ∧ i.kind ≠ 1 ∧ ¬ s.fedItem k i then s else s.dropCause k 1
  if s.late.any fun i => i.slot = k ∧ i.kind = 1 ∧ ¬ s.fedItem k i then s else s.dropCause k 2

theorem lateLeft_calm (s : State) (k : Nat) : s.Calm plumbCodes (s.lateLeft k) := by
  have dropped (p : LateItem → Bool) : s.Calm plumbCodes { s with late := s.late.filter p } := (State.Calm.refl ..).update rfl rfl
  have first (p : LateItem → Bool) (q : Prop) [Decidable q] : s.Calm plumbCodes (if q then { s with late := s.late.filter p }
      else State.dropCause { s with late := s.late.filter p } k 1) := (dropped p).ite ((dropped p).step (dropCause_calm ..) rfl)
  exact (first ..).ite ((first ..).step (dropCause_calm ..) rfl)

theorem refreshLate_settled (s : State) (k : Nat) : s.Settled (s.refreshLate k) := by
  have eq : s.refreshLate k = if (s.lateLeft k).replaying k then (s.lateLeft k).recSettle k else s.lateLeft k := rfl
  rw [eq]
  split
  · exact (lateLeft_calm ..).settled.trans (recSettle_settled ..)
  · exact (lateLeft_calm ..).settled

/-- A line that is written, with its flag and its due step, before late items are looked at. -/
def State.lineIn (s : State) (bed bank line data due : Nat) : State :=
  ((s.wrE A.port (portKey bed bank line) data).wr A.portDue (portKey bed bank line) due).wrPres (4 * bed + bank) (2 ^ line) (2 ^ line)

theorem putLine_settled (s : State) (bed bank line data due : Nat) :
    (s.lineIn bed bank line data due).Settled (s.putLine bed bank line data due) := by
  have eq : s.putLine bed bank line data due = match (s.lineIn bed bank line data due).slotOfBed bed with
    | some k => (s.lineIn bed bank line data due).refreshLate k
    | none => s.lineIn bed bank line data due := rfl
  rw [eq]
  split
  · exact refreshLate_settled ..
  · exact (State.Calm.refl ..).settled

theorem wrPres_bit (s : State) (i line : Nat) {j : Nat} (hj : j < 16) :
    ((s.wrPres i (2 ^ line) (2 ^ line)).rd A.portP i).testBit j = ((s.rd A.portP i).testBit j || decide (j = line)) := by
  have wide : j < A.portP.width := hj
  have ones : (0xFFFF : Nat).testBit j = true := by
    rw [show (0xFFFF : Nat) = 2 ^ 16 - 1 from rfl, Nat.testBit_two_pow_sub_one, decide_eq_true hj]
  rw [State.wrPres, State.rd_wr_arr _ _ _ _ _ _ (by decide), State.rd_wr_same, Nat.testBit_mod_two_pow, decide_eq_true wide, Bool.true_and,
    Nat.testBit_or, Nat.testBit_and, Nat.testBit_xor, Nat.testBit_and, Nat.testBit_two_pow, ones]
  by_cases h : j = line
  · subst h
    simp
  · simp [h, Ne.symm h]

theorem lineIn_reads (s : State) (bed bank line data due : Nat) :
    (s.lineIn bed bank line data due).rd A.port (portKey bed bank line) = data % 2 ^ 64 ∧
    (s.lineIn bed bank line data due).rd A.portDue (portKey bed bank line) = due % 2 ^ 11 ∧
    (∀ j, j ≠ portKey bed bank line → (s.lineIn bed bank line data due).rd A.port j = s.rd A.port j) ∧
    (∀ i < 16, ((s.lineIn bed bank line data due).rd A.portP (4 * bed + bank)).testBit i =
      ((s.rd A.portP (4 * bed + bank)).testBit i || decide (i = line))) := by
  have pres (u : State) : u.Only [A.portP.code, A.portPErr.code] (u.wrPres (4 * bed + bank) (2 ^ line) (2 ^ line)) :=
    ((State.Only.refl ..).wr _ _ rfl).wr _ _ rfl
  refine ⟨?_, ?_, fun j hj => ?_, fun i hi => ?_⟩
  · rw [State.lineIn, (pres _).rd A.port _ rfl, State.rd_wr_arr _ _ _ _ _ _ (by decide), State.wrE, State.rd_wr_arr _ _ _ _ _ _ (by decide),
      State.rd_wr_same]
    rfl
  · rw [State.lineIn, (pres _).rd A.portDue _ rfl, State.rd_wr_same]
    rfl
  · rw [State.lineIn, (pres _).rd A.port _ rfl, State.rd_wr_arr _ _ _ _ _ _ (by decide), State.wrE, State.rd_wr_arr _ _ _ _ _ _ (by decide),
      State.rd_wr_ix _ _ _ _ _ hj.symm]
  · rw [State.lineIn, wrPres_bit _ _ _ hi, State.rd_wr_arr _ _ _ _ _ _ (by decide), State.wrE, State.rd_wr_arr _ _ _ _ _ _ (by decide),
      State.rd_wr_arr _ _ _ _ _ _ (by decide)]

theorem bayDeliver_first {s : State} {u : Nat} {r : BayRet} {before after : List BayRet} (h : s.bayRet = before ++ r :: after)
    (hb : ∀ x ∈ before, s.bayRetDue u x = false) (hr : s.bayRetDue u r = true) (hn : r ∉ before) :
    s.bayDeliver u = State.putLine { s with bayRet := before ++ after } r.bed r.bank r.line r.data r.due := by
  have found : s.bayRet.find? (s.bayRetDue u) = some r := by
    rw [h, List.find?_append, List.find?_eq_none.2 fun x hx => by rw [hb x hx]; decide, List.find?_cons_of_pos hr]
    rfl
  rw [State.bayDeliver, found]
  dsimp only
  rw [h, List.erase_append_right _ hn, List.erase_cons_head]

/-! ### Service accesses (R187 to R190) -/

section service
variable {s t : State} {wall off : Nat} {size : AccSize}

theorem dutWrote_idle (h : s.BayIdle wall) (a : Nat) : s.dutWrote wall a = none := by
  rw [State.dutWrote, h.2]
  rfl

/-- A word that no test by Newt serves and that holds no error. -/
structure State.BayIntact (s : State) (wall a : Nat) : Prop where
  plain : s.newtServes wall a = none
  intact : s.errOf A.bay (bayKey wall a) = 0

theorem bayReadWords_cons (hi : s.BayIdle wall) {a : Nat} (h : s.BayIntact wall a) (n : Nat) : s.bayReadWords wall a (n + 1) =
    (s.rd A.bay (bayKey wall a) + 2 ^ 64 * (s.bayReadWords wall (a + 1) n).1, (s.bayReadWords wall (a + 1) n).2.1,
      (s.bayReadWords wall (a + 1) n).2.2) := by
  have none : s.noteBayErr wall a 0 = s := rfl
  simp only [State.bayReadWords, dutWrote_idle hi, Option.getD_none, bayRd_plain h.plain, bayErr_plain h.plain, h.intact, none]
  rfl

theorem bayRead_refused {who : Who} (hi : s.BayIdle wall) (h : bayAccOk off size = false ∨ s.mayWall who wall = false) :
    s.bayServiceRead who wall off size = s.ans 1 0 := by
  rw [State.bayServiceRead, bayStep_idle hi]
  exact if_pos (h.imp (fun h => by rw [h]; decide) fun h => by rw [h]; decide)

theorem bayWrite_refused {who : Who} {data : Nat} (hi : s.BayIdle wall) (h : bayAccOk off size = false ∨ s.mayWall who wall = false) :
    s.bayServiceWrite who wall off size data = s.ans 1 0 := by
  rw [State.bayServiceWrite, bayStep_idle hi]
  exact if_pos (h.imp (fun h => by rw [h]; decide) fun h => by rw [h]; decide)

theorem bayRead_served {who : Who} (hi : s.BayIdle wall) (ho : bayAccOk off size = true) (hw : s.mayWall who wall = true) {v : Nat}
    (hr : s.bayReadWords wall (off / 8) ((accBytes size + 7) / 8) = (v, false, s)) :
    s.bayServiceRead who wall off size = s.ans 0 (if size = .b4 then slice v (8 * (off % 8)) 32 else v) := by
  rw [State.bayServiceRead, bayStep_idle hi]
  dsimp only
  rw [if_neg (by rw [ho, hw]; decide), hr]
  rfl

/-- No write of the wall's words is saved or logged. -/
structure State.BayFree (s : State) (wall : Nat) : Prop where
  snap : ∀ k, s.slotOfWall wall = some k → s.snapOf k = none
  mute : ∀ k, s.slotOfWall wall = some k → s.recording k = false

theorem BayFree.of_only (h : s.BayFree wall) (ho : s.Only [A.bay.code, A.err.code] t) (hs : t.snaps = s.snaps) : t.BayFree wall := by
  have owner : t.slotOfWall wall = s.slotOfWall wall := by
    rw [State.slotOfWall, State.slotOfWall, ho.rd A.wallOwner _ rfl]
  have field (b : Nat) (f : Fld) : t.rf b f = s.rf b f := by
    rw [State.rf, State.reg, ho.rd A.reg _ rfl, ← State.reg, ← State.rf]
  refine ⟨fun k hk => ?_, fun k hk => ?_⟩
  · rw [State.snapOf, hs]
    exact h.snap k (owner ▸ hk)
  · rw [State.recording, State.recState, State.replaying, field, field, ho.rd A.recMute _ rfl]
    exact h.mute k (owner ▸ hk)

theorem bayWriteWord_stored {data i v col ue : Nat} (hi : s.BayIdle wall) (ht : t.newtServes wall (off / 8 + i) = none)
    (he : size = .b4 → t.errOf A.bay (bayKey wall (off / 8 + i)) = 0) (hf : t.BayFree wall)
    (hm : t.bayMerge wall (off / 8 + i) off size (slice data (64 * i) 64) = some v) :
    s.bayWriteWord wall off size data (t, col, ue) i = (t.wrE A.bay (bayKey wall (off / 8 + i)) v, col, ue) := by
  have saved : (match t.slotOfWall wall with
      | some k => t.cowBay k wall (off / 8 + i)
      | none => t) = t := by
    split
    next k hk => exact cowBay_idle (hf.snap k hk)
    next => rfl
  have noted : (if size = .b4 then t.noteBay wall (off / 8 + i) else t) = t := by
    split
    next h => exact noteBay_intact ht (he h)
    next => rfl
  simp only [State.bayWriteWord, dutWrote_idle hi, Option.isSome_none, Bool.false_eq_true, if_false, hm, noted]
  rw [← bayWr_plain ht]
  exact congrArg (fun u : State => (u.bayWr wall (off / 8 + i) v, col, ue)) saved

theorem logSvc_mute {data mask : Nat} (h : ∀ k, s.slotOfWall wall = some k → s.recording k = false) :
    s.logSvc wall off size data mask = s := by
  unfold State.logSvc
  split
  next => rfl
  next k hk => exact if_pos (.inl (by rw [h k hk]; decide))

theorem bayWrite_served {who : Who} {data : Nat} (hi : s.BayIdle wall) (ho : bayAccOk off size = true) (hw : s.mayWall who wall = true)
    (hf : s.BayFree wall) (ht : t.BayFree wall)
    (hr : (List.range ((accBytes size + 7) / 8)).foldl (s.bayWriteWord wall off size data) (s, 0, 0) = (t, 0, 0)) :
    s.bayServiceWrite who wall off size data = t.ans 0 0 := by
  have room : ¬ ((s.slotOfWall wall).isSome ∧ ((List.range ((accBytes size + 7) / 8)).filter fun i =>
      s.cowNeeds ((s.slotOfWall wall).getD 0) (A.bay.key (bayKey wall (off / 8 + i)))).length ≠ 0 ∧ s.cowFull (wall / 16)
        ((List.range ((accBytes size + 7) / 8)).filter fun i =>
          s.cowNeeds ((s.slotOfWall wall).getD 0) (A.bay.key (bayKey wall (off / 8 + i)))).length = true) := by
    rintro ⟨owned, fresh, -⟩
    obtain ⟨k, hk⟩ := Option.isSome_iff_exists.1 owned
    refine fresh (List.length_eq_zero_iff.2 (List.filter_eq_nil_iff.2 fun i _ => ?_))
    rw [hk, Option.getD_some, cowNeeds_idle (hf.snap k hk)]
    decide
  rw [State.bayServiceWrite, bayStep_idle hi]
  dsimp only
  rw [if_neg (by rw [ho, hw]; decide), if_neg room, hr]
  dsimp only
  rw [logSvc_mute ht.mute]
  rfl

theorem wrE_only (s : State) (i v : Nat) : s.Only [A.bay.code, A.err.code] (s.wrE A.bay i v) := (State.Only.refl ..).wrE _ _ rfl rfl

theorem newtServes_wrE (s : State) (wall a i v : Nat) : (s.wrE A.bay i v).newtServes wall a = s.newtServes wall a :=
  newtServes_congr (fun i => (wrE_only ..).rd A.reg i rfl) ..

/-- A write of one word. -/
theorem bayWrites_one {data v : Nat} (hi : s.BayIdle wall) (hn : (accBytes size + 7) / 8 = 1) (ht : s.newtServes wall (off / 8) = none)
    (he : size = .b4 → s.errOf A.bay (bayKey wall (off / 8)) = 0) (hf : s.BayFree wall)
    (hm : s.bayMerge wall (off / 8) off size (slice data 0 64) = some v) :
    (List.range ((accBytes size + 7) / 8)).foldl (s.bayWriteWord wall off size data) (s, 0, 0) =
      (s.wrE A.bay (bayKey wall (off / 8)) v, 0, 0) := by
  rw [hn]
  exact bayWriteWord_stored (i := 0) hi ht he hf hm

/-- The four words of an access of 32 bytes. -/
def State.bayQuad (s : State) (i : Nat → Nat) (data : Nat) : State :=
  (((s.wrE A.bay (i 0) (slice data 0 64)).wrE A.bay (i 1) (slice data 64 64)).wrE A.bay (i 2) (slice data 128 64)).wrE A.bay (i 3)
    (slice data 192 64)

theorem wrE_bay_same (s : State) (i v : Nat) : (s.wrE A.bay i v).rd A.bay i = v % 2 ^ 64 := by
  rw [State.wrE, State.rd_wr_arr _ _ _ _ _ _ (by decide), State.rd_wr_same]
  rfl

theorem wrE_bay_ne (s : State) {i j : Nat} (v : Nat) (h : i ≠ j) : (s.wrE A.bay i v).rd A.bay j = s.rd A.bay j := by
  rw [State.wrE, State.rd_wr_arr _ _ _ _ _ _ (by decide), State.rd_wr_ix _ _ _ _ _ h]

theorem bayQuad_words (s : State) {i : Nat → Nat} (data : Nat) (hi : ∀ x < 4, ∀ y < 4, x ≠ y → i x ≠ i y) :
    (∀ j < 4, (s.bayQuad i data).rd A.bay (i j) = slice data (64 * j) 64) ∧
    (∀ x, (∀ j < 4, x ≠ i j) → (s.bayQuad i data).rd A.bay x = s.rd A.bay x) := by
  have narrow (o : Nat) : slice data o 64 % 2 ^ 64 = slice data o 64 := Nat.mod_mod _ _
  refine ⟨fun j hj => ?_, fun x hx => ?_⟩
  · have cases : j = 0 ∨ j = 1 ∨ j = 2 ∨ j = 3 := by omega
    rcases cases with rfl | rfl | rfl | rfl
    · rw [State.bayQuad, wrE_bay_ne _ _ (hi 3 (by decide) 0 (by decide) (by decide)), wrE_bay_ne _ _ (hi 2 (by decide) 0 (by decide) (by decide)),
        wrE_bay_ne _ _ (hi 1 (by decide) 0 (by decide) (by decide)), wrE_bay_same, narrow]
    · rw [State.bayQuad, wrE_bay_ne _ _ (hi 3 (by decide) 1 (by decide) (by decide)), wrE_bay_ne _ _ (hi 2 (by decide) 1 (by decide) (by decide)),
        wrE_bay_same, narrow]
    · rw [State.bayQuad, wrE_bay_ne _ _ (hi 3 (by decide) 2 (by decide) (by decide)), wrE_bay_same, narrow]
    · rw [State.bayQuad, wrE_bay_same, narrow]
  · rw [State.bayQuad, wrE_bay_ne _ _ (hx 3 (by decide)).symm, wrE_bay_ne _ _ (hx 2 (by decide)).symm, wrE_bay_ne _ _ (hx 1 (by decide)).symm,
      wrE_bay_ne _ _ (hx 0 (by decide)).symm]

theorem bayQuad_only (s : State) (i : Nat → Nat) (data : Nat) : s.Only [A.bay.code, A.err.code] (s.bayQuad i data) :=
  ((((State.Only.refl ..).wrE _ _ rfl rfl).wrE _ _ rfl rfl).wrE _ _ rfl rfl).wrE _ _ rfl rfl

theorem bayQuad_beside (s : State) (i : Nat → Nat) (data : Nat) : (s.bayQuad i data).mem = s.mem ∧
    (s.bayQuad i data).packets = s.packets ∧ (s.bayQuad i data).snaps = s.snaps := by
  rw [State.bayQuad]
  exact ⟨by rw [wrE_mem, wrE_mem, wrE_mem, wrE_mem], by rw [wrE_packets, wrE_packets, wrE_packets, wrE_packets],
    by rw [wrE_snaps, wrE_snaps, wrE_snaps, wrE_snaps]⟩

theorem bayWrites_quad {data : Nat} (hi : s.BayIdle wall) (hw : ∀ j < 4, s.newtServes wall (off / 8 + j) = none) (hf : s.BayFree wall) :
    (List.range ((accBytes .b32 + 7) / 8)).foldl (s.bayWriteWord wall off .b32 data) (s, 0, 0) = (s.bayQuad (fun j => bayKey wall (off / 8 + j)) data, 0, 0) := by
  have merged (u : State) (a v : Nat) : u.bayMerge wall a off .b32 v = some v := rfl
  have free {u : State} {i v : Nat} (h : u.BayFree wall) : (u.wrE A.bay i v).BayFree wall := BayFree.of_only h (wrE_only ..) rfl
  rw [show List.range ((accBytes .b32 + 7) / 8) = [0, 1, 2, 3] from rfl]
  simp only [List.foldl_cons, List.foldl_nil]
  have b32 {u : State} {i : Nat} (h : AccSize.b32 = .b4) : u.errOf A.bay i = 0 := nomatch h
  have plain {u : State} {j i v : Nat} (h : u.newtServes wall j = none) : (u.wrE A.bay i v).newtServes wall j = none :=
    (newtServes_wrE ..).trans h
  rw [bayWriteWord_stored hi (hw 0 (by decide)) b32 hf (merged ..),
    bayWriteWord_stored hi (plain (hw 1 (by decide))) b32 (free hf) (merged ..),
    bayWriteWord_stored hi (plain (plain (hw 2 (by decide)))) b32 (free (free hf)) (merged ..),
    bayWriteWord_stored hi (plain (plain (plain (hw 3 (by decide))))) b32 (free (free (free hf))) (merged ..)]
  rfl

end service

theorem patch_mod (v lo : Nat) {w n : Nat} (h : w ≤ n) (x : Nat) : patch v lo w (x % 2 ^ n) = patch v lo w x := by
  rw [patch, Nat.mod_mod_of_dvd _ (Nat.pow_dvd_pow 2 h)]

theorem bayKey_apart {wall a x y : Nat} (hx : x < 4) (hy : y < 4) (hxy : x ≠ y) :
    bayKey wall (a + x) ≠ bayKey wall (a + y) := by
  unfold bayKey
  omega

/-- Settles O11: the requests of a step through its reads and the writes word by word; a delivery through the line that it
writes; service accesses through the words that they read or write. -/
theorem bayAccesses : Obligations.BayAccesses := by
  unfold Obligations.BayAccesses
  refine ⟨fun s w => ?_, fun s u r before after hc hb hbe hr hn => ?_, fun s who w off data => ?_⟩
  · intro due key hc hs he hn hsame hapart
    exact ⟨_, live_next hc fun s => s.bayStep (wallIx w), bayStep_requests ⟨hn, he, hsame, hapart, hs⟩⟩
  · refine ⟨_, live_next hc fun s => s.bayDeliver (courseIx u), ?_⟩
    rw [bayDeliver_first hb hbe hr hn]
    have settled := putLine_settled { s with bayRet := before ++ after } r.bed r.bank r.line r.data r.due
    obtain ⟨line, due, others, flags⟩ := lineIn_reads { s with bayRet := before ++ after } r.bed r.bank r.line r.data r.due
    exact ⟨settled.bayRet, (settled.only.rd A.port _ rfl).trans line, (settled.only.rd A.portDue _ rfl).trans due,
      fun j hj => (settled.only.rd A.port j rfl).trans (others j hj),
      fun i hi => (congrArg (·.testBit i) (settled.only.rd A.portP _ rfl)).trans (flags i hi), settled.mem, settled.bayReq⟩
  · intro o i old key quad hs hi hn
    have read (size : AccSize) : exec (.bayServiceRead who w off size) s = .next (s.bayServiceRead who (wallIx w) off size) :=
      accessDom_next hs _ fun s => s.bayServiceRead who (wallIx w) off size
    have write (size : AccSize) : exec (.bayServiceWrite who w off size data) s =
        .next (s.bayServiceWrite who (wallIx w) off size data.toNat) :=
      accessDom_next hs _ fun s => s.bayServiceWrite who (wallIx w) off size data.toNat
    have aligned {size : AccSize} (hb : size ≠ .b64) (h : o % accBytes size = 0) : bayAccOk o size = true := decide_eq_true ⟨hb, h⟩
    have first (he : s.errOf A.bay i = 0) : s.BayIntact (wallIx w) (o / 8) := ⟨hn 0 (by decide), he⟩
    refine ⟨fun size h => ⟨(read size).trans (congrArg _ (bayRead_refused hi h)), (write size).trans (congrArg _ (bayWrite_refused hi h))⟩,
      fun hw he => ⟨fun h8 => ?_, fun h4 => ?_, fun h32 he4 => ?_, fun hf => ⟨fun h32 => ?_, fun h8 => ?_, fun h4 => ?_⟩⟩⟩
    · have words : s.bayReadWords (wallIx w) (o / 8) ((accBytes .b8 + 7) / 8) = (old, false, s) :=
        (bayReadWords_cons hi (first he) 0).trans (by rw [State.bayReadWords]; rfl)
      exact (read .b8).trans (congrArg _ (bayRead_served hi (aligned (size := .b8) (by decide) h8) hw words))
    · have words : s.bayReadWords (wallIx w) (o / 8) ((accBytes .b4 + 7) / 8) = (old, false, s) :=
        (bayReadWords_cons hi (first he) 0).trans (by rw [State.bayReadWords]; rfl)
      exact (read .b4).trans (congrArg _ (bayRead_served hi (aligned (size := .b4) (by decide) h4) hw words))
    · have word (j : Nat) (hj : j < 4) : s.BayIntact (wallIx w) (o / 8 + j) := ⟨hn j hj, he4 j hj⟩
      have words : s.bayReadWords (wallIx w) (o / 8) ((accBytes .b32 + 7) / 8) = (quad, false, s) := by
        rw [show (accBytes .b32 + 7) / 8 = 4 from rfl, bayReadWords_cons hi (first he), bayReadWords_cons hi (word 1 (by decide)),
          bayReadWords_cons hi (word 2 (by decide)), bayReadWords_cons hi (word 3 (by decide)), State.bayReadWords]
        refine congrArg (·, false, s) ?_
        show _ = 0 + 2 ^ 0 * s.rd A.bay (key 0) + 2 ^ 64 * s.rd A.bay (key 1) + 2 ^ 128 * s.rd A.bay (key 2) + 2 ^ 192 * s.rd A.bay (key 3)
        show s.rd A.bay (key 0) + 2 ^ 64 * (s.rd A.bay (key 1) + 2 ^ 64 * (s.rd A.bay (key 2) + 2 ^ 64 * (s.rd A.bay (key 3) + 2 ^ 64 * 0))) = _
        ring
      exact (read .b32).trans (congrArg _ (bayRead_served hi (aligned (size := .b32) (by decide) h32) hw words))
    · have free : s.BayFree (wallIx w) := ⟨fun k hk => (hf k hk).2, fun k hk => (hf k hk).1⟩
      have stored : _ = (s.bayQuad key data.toNat, 0, 0) := bayWrites_quad hi hn free
      obtain ⟨mem, packets, snaps⟩ := bayQuad_beside s key data.toNat
      obtain ⟨quads, others⟩ := bayQuad_words s (i := key) data.toNat fun x hx y hy h => bayKey_apart hx hy h
      have served := bayWrite_served hi (aligned (size := .b32) (by decide) h32) hw free
        (BayFree.of_only free (bayQuad_only s key data.toNat) snaps) stored
      refine ⟨_, (write .b32).trans (congrArg _ served), fun j hj => ?_, State.rsp_ans .., fun x hx => ?_, ?_, ?_⟩
      · rw [State.rd_ans, quads j hj]
      · rw [State.rd_ans, others x hx]
      · rw [State.ans, mem]
      · rw [State.ans, packets]
    · have free : s.BayFree (wallIx w) := ⟨fun k hk => (hf k hk).2, fun k hk => (hf k hk).1⟩
      have stored := bayWrites_one (size := .b8) (data := data.toNat) hi rfl (hn 0 (by decide)) nofun free rfl
      exact (write .b8).trans (congrArg _ (bayWrite_served hi (aligned (size := .b8) (by decide) h8) hw free
        (BayFree.of_only free (wrE_only ..) rfl) stored))
    · have free : s.BayFree (wallIx w) := ⟨fun k hk => (hf k hk).2, fun k hk => (hf k hk).1⟩
      have plain : s.newtServes (wallIx w) (o / 8) = none := hn 0 (by decide)
      have merged : s.bayMerge (wallIx w) (o / 8) o .b4 (slice data.toNat 0 64) = some (patch old (8 * (o % 8)) 32 data.toNat) := by
        rw [State.bayMerge, if_pos rfl, bayErr_plain plain, if_neg (by rw [(first he).intact]; decide), bayRd_plain plain, slice_at_zero, patch_mod _ _ (by decide)]
      have stored := bayWrites_one hi rfl plain (fun _ => he) free merged
      exact (write .b4).trans (congrArg _ (bayWrite_served hi (aligned (size := .b4) (by decide) h4) hw free
        (BayFree.of_only free (wrE_only ..) rfl) stored))

end Sys2Proof.Machine

/-! SUPPORT and CERTIFICATE. Partition commands (chapters 6, 18, 20, R27, R149, R436, R437, R465, R494). -/

namespace Sys2Proof.Machine

open Reg

/-! ### Hold causes that go -/

theorem State.Beside.causes {codes : List Nat} {s v : State} (h : s.Beside codes v) : v.causes = s.causes := (congrArg State.causes h.rest :)

theorem State.Beside.mem {codes : List Nat} {s v : State} (h : s.Beside codes v) : v.mem = s.mem := (congrArg State.mem h.rest :)

theorem State.Beside.startLines {codes : List Nat} {s v : State} (h : s.Beside codes v) : v.startLines = s.startLines :=
  (congrArg State.startLines h.rest :)

theorem dropCause_hasCause (s : State) (k c j d : Nat) :
    (s.dropCause k c).hasCause j d = (s.hasCause j d && decide ((j, d) ≠ (k, c))) := by
  by_cases h : s.hasCause k c = true
  · have causes : (s.dropCause k c).causes = s.causes.filter (· ≠ (k, c)) := by
      rw [State.dropCause, if_pos h]
      exact congrArg State.causes (pullsChanged_beside _ k).rest
    rw [State.hasCause, causes, Bool.eq_iff_iff, List.contains_iff_mem, List.mem_filter, Bool.and_eq_true, State.hasCause,
      List.contains_iff_mem]
  · rw [State.dropCause, if_neg h]
    by_cases e : (j, d) = (k, c)
    · obtain ⟨rfl, rfl⟩ := Prod.mk.inj e
      simp [h]
    · simp [e]

/-- The causes of slot `k` after its SOFTWARE cause has followed SWHOLD and the HOLD launches (R136). -/
theorem softSettle_hasCause (s : State) (k : Nat) (h : ∀ c, s.hasCause k c = false) (c : Nat) :
    (s.softSettle k).hasCause k c = true ↔ c = 5 ∧ (s.rf (P k) HOLD_CTRL_SWHOLD = 1 ∨ s.on A.lnHold k = true) := by
  unfold State.softSettle
  split
  next hs => rw [addCause_hasCause, h, Bool.false_or, decide_eq_true_iff, Prod.mk.injEq]; simp [hs]
  next hs => rw [dropCause_hasCause, h, Bool.false_and]; simp [hs]

theorem softSettle_calm (s : State) (k : Nat) : s.Calm plumbCodes (s.softSettle k) := (addCause_calm ..).ite (dropCause_calm ..)

/-! ### Starts and stops -/

section starts
variable {s : State} {who : Who} {k : Nat}

theorem startCmd_denied (h : s.maySlot who k = false) : s.startCmd who k = s.cmdAnswer k 4 := by
  simp [State.startCmd, h, cmdResult_eq]

theorem startCmd_refused (h : s.maySlot who k = true) {r : Nat} (hr : s.startCheck k = r) (h0 : r ≠ 0) :
    s.startCmd who k = s.cmdAnswer k r := by
  simp [State.startCmd, h, hr, h0, cmdResult_eq]

theorem startCmd_taken (h : s.maySlot who k = true) (hr : s.startCheck k = 0) : s.startCmd who k = (s.startNow k).cmdAnswer k 0 := by
  simp [State.startCmd, h, hr, cmdResult_eq]

theorem stopCmd_denied (h : s.maySlot who k = false) (imm : Bool) : s.stopCmd who k imm = s.cmdAnswer k 4 := by
  simp [State.stopCmd, h, cmdResult_eq]

theorem stopCmd_refused (h : s.maySlot who k = true) (hs : s.stoppable k = false) (imm : Bool) : s.stopCmd who k imm = s.cmdAnswer k 1 := by
  simp [State.stopCmd, h, hs, cmdResult_eq]

theorem stopCmd_taken (h : s.maySlot who k = true) (hs : s.stoppable k = true) (imm : Bool) :
    s.stopCmd who k imm = (s.act k 0 (if imm then 2 else 1)).cmdAnswer k 0 := by
  simp [State.stopCmd, h, hs, cmdResult_eq]

theorem stoppable_iff : s.stoppable k = true ↔ s.rd A.pState k = 2 ∨ s.rd A.pState k = 3 := decide_eq_true_iff

theorem act_stop (hs : s.stoppable k = true) (code : Nat) :
    s.act k code 1 = { s with stops := s.stops ++ [⟨k, s.stopCycle k, code, true⟩] } := by
  rw [State.act, if_neg (by rw [hs]; decide), if_pos rfl]
  rfl

theorem act_immediate (hs : s.stoppable k = true) (hm : s.rd A.pMembers k ≤ 1) (code : Nat) : s.act k code 2 = s.stopImmediate k := by
  rw [State.act, if_neg (by rw [hs]; decide), if_neg (by decide), if_pos rfl, State.sendNotice, if_neg (by omega)]

theorem stopImmediate_later (hr : s.rd A.pState k = 2) (hf : s.preFirst k = false) (hg : s.on A.pGate k = false)
    (hl : s.on A.pLaunchWait k = false) : s.stopImmediate k = s.wr A.pImm k 1 := by
  rw [State.stopImmediate, if_neg (by simp [hr, hf, hg, hl]), if_pos hr]

/-! ### The refusals of a start, in their order (R465) -/

theorem startCheck_state (h : s.rd A.pState k ≠ 1 ∧ s.rd A.pState k ≠ 4) : s.startCheck k = 1 := if_pos (by omega)

/-- The partition is in a state that a start may leave. -/
def State.startable (s : State) (k : Nat) : Prop :=
  s.rd A.pState k = 1 ∨ s.rd A.pState k = 4 ∧ s.rf (P k) FAULT_STATUS_IMMEDIATE ≠ 1 ∧ s.on A.pLimit k = false

theorem startCheck_immediate (h : s.rd A.pState k = 4) (hi : s.rf (P k) FAULT_STATUS_IMMEDIATE = 1) : s.startCheck k = 5 := by
  rw [State.startCheck]
  rw [if_neg (not_not.2 (.inr h)), if_pos ⟨h, hi⟩]

theorem startCheck_limit (h : s.rd A.pState k = 4) (hi : s.rf (P k) FAULT_STATUS_IMMEDIATE ≠ 1) (hl : s.on A.pLimit k = true) :
    s.startCheck k = 6 := by
  rw [State.startCheck]
  rw [if_neg (not_not.2 (.inr h)), if_neg fun e => hi e.2, if_pos ⟨h, hl⟩]

theorem startCheck_startable (h : s.startable k) :
    s.startCheck k = if s.plumbBad k then 3 else if s.capacityShort k then 2 else 0 := by
  rw [State.startCheck]
  rcases h with h | ⟨h, hi, hl⟩
  · rw [if_neg (not_not.2 (.inl h)), if_neg (by omega), if_neg (by omega)]
  · rw [if_neg (not_not.2 (.inr h)), if_neg fun e => hi e.2, if_neg fun e => by rw [hl] at e; exact Bool.false_ne_true e.2]

end starts

/-! ### A start that is not refused (R27, R149) -/

/-- What a start writes of its slot. -/
def State.begun (s : State) (k : Nat) : State :=
  let t := (((((clearFaultStatus s k).wr A.pState k 2).wr A.pBegun k 0).wr A.pGate k 0).wr A.pFrozen k 0).wr A.pStep k 0
  (((t.wr A.pRound k (if s.rd A.pState k = 1 then 1 else 0)).gateWait k).wr A.gateRel k 0).wr A.gateMax k 0

/-- What a start writes in the arrays. -/
def beginCodes : List Nat := [A.reg.code, A.pState.code, A.pBegun.code, A.pGate.code, A.pFrozen.code, A.pStep.code, A.pRound.code,
  A.gateTimer.code, A.limitNow.code, A.gateRel.code, A.gateMax.code]

theorem begun_beside (s : State) (k : Nat) : s.Beside beginCodes (s.begun k) := by
  have start : s.Beside beginCodes
      (((((clearFaultStatus s k).wr A.pState k 2).wr A.pBegun k 0).wr A.pGate k 0).wr A.pFrozen k 0 |>.wr A.pStep k 0) := beside_wr (beside_wr (beside_wr (beside_wr (beside_wr (beside_wr (.refl beginCodes s) (a := A.reg) (by decide) _ _)
    (a := A.pState) (by decide) _ _) (a := A.pBegun) (by decide) _ _) (a := A.pGate) (by decide) _ _) (a := A.pFrozen) (by decide) _ _)
    (a := A.pStep) (by decide) _ _
  exact beside_wr (beside_wr (beside_wr (beside_wr (beside_wr start (a := A.pRound) (by decide) _ _) (a := A.gateTimer) (by decide) _ _)
    (a := A.limitNow) (by decide) _ _) (a := A.gateRel) (by decide) _ _) (a := A.gateMax) (by decide) _ _

/-- The units of the gate that a start writes after its step and its round. -/
def gateCodes : List Nat := [A.gateTimer.code, A.limitNow.code, A.gateRel.code, A.gateMax.code]

theorem gateStart_only (s : State) (k : Nat) : s.Only gateCodes (((s.gateWait k).wr A.gateRel k 0).wr A.gateMax k 0) :=
  ((((State.Only.refl ..).wr _ _ rfl).wr _ _ rfl).wr _ _ rfl).wr _ _ rfl

theorem begun_reads (s : State) (k : Nat) : (s.begun k).rd A.pState k = 2 ∧ (s.begun k).rd A.pStep k = 0 ∧ (s.begun k).rd A.pBegun k = 0 ∧
    (s.begun k).rd A.pGate k = 0 ∧ (s.begun k).rd A.pRound k = (if s.rd A.pState k = 1 then 1 else 0) ∧
    (s.begun k).reg (P k + oFAULT_STATUS) = 0 := by
  unfold State.begun
  dsimp only
  refine ⟨?_, ?_, ?_, ?_, ?_, ?_⟩
  · rw [(gateStart_only ..).rd A.pState _ rfl]
    simp [A.pState]
  · rw [(gateStart_only ..).rd A.pStep _ rfl]
    simp
  · rw [(gateStart_only ..).rd A.pBegun _ rfl]
    simp
  · rw [(gateStart_only ..).rd A.pGate _ rfl]
    simp
  · rw [(gateStart_only ..).rd A.pRound _ rfl]
    split <;> simp [A.pRound]
  · rw [State.reg, (gateStart_only ..).rd A.reg _ rfl]
    simp [clearFaultStatus]

/-- A start with the power-level change at rest, no hold and no line to write. -/
theorem doStart_begun {s : State} {k : Nat} (hl : s.startLines = []) (hh : s.holdSeen k = false) (hp : s.rd A.plPhase 0 = 0) :
    s.doStart k = { s.begun k with startLines := [] } := by
  have beside := begun_beside s k
  have causes : (s.begun k).causes = s.causes := beside.causes
  have lines : (s.begun k).startLines = s.startLines := beside.startLines
  have written : (s.begun k).writeStartLines k = { s.begun k with startLines := [] } := by
    rw [State.writeStartLines, lines, hl]
    rfl
  have level : State.rd { s.begun k with startLines := [] } A.plPhase 0 = 0 := by
    rw [State.rd_update, beside.arrays A.plPhase 0 (by decide), hp]
  have seen : State.holdSeen { s.begun k with startLines := [] } k = false := by
    rw [State.holdSeen, State.on, State.rd_update, beside.arrays A.remoteHold k (by decide), causes]
    exact hh
  have eq : s.doStart k = (let t := (s.begun k).writeStartLines k
      let t := if t.rd A.plPhase 0 = 0 then t else t.addCause k 6
      if t.holdSeen k then t.enterHeld k else t) := rfl
  rw [eq, written]
  dsimp only
  rw [if_pos level, if_neg (by rw [seen]; decide)]

/-! ### Partition reset (R436, R437, R494) -/

/-- The arrays of a slot's own bookkeeping that its reset clears. -/
def slotArrays : List Arr := [A.pCycle, A.pStep, A.pFrozen, A.pGate, A.pRound, A.pBegun, A.pLimit, A.pImm, A.remoteHold, A.pLaunchWait,
  A.pStartWait, A.esReloaded, A.recSeq, A.holdTimer, A.gateTimer, A.gateRel, A.gateMax, A.lnHold, A.feedSeq, A.stepFresh, A.heldStep, A.recBack]

theorem zeroed_stays (l : List Arr) {a : Arr} {k : Nat} {s : State} (h : s.rd a k = 0) : (l.foldl (fun s b => s.wr b k 0) s).rd a k = 0 := by
  induction l generalizing s with
  | nil => exact h
  | cons b r ih =>
    refine ih ?_
    by_cases hb : b.key k = a.key k
    · simp only [State.rd, State.wr]
      rw [Sparse.get_set _ _ _ _ _ _ fun h => by rw [h], if_pos hb, Nat.zero_mod, Nat.zero_mod]
    · rw [State.rd_wr_key _ _ _ _ _ _ hb, h]

theorem zeroed_reads {l : List Arr} {a : Arr} (ha : a ∈ l) (k : Nat) (s : State) : (l.foldl (fun s b => s.wr b k 0) s).rd a k = 0 := by
  induction l generalizing s with
  | nil => cases ha
  | cons b r ih =>
    rcases List.mem_cons.1 ha with rfl | ha
    · exact zeroed_stays r (by rw [State.rd_wr_same, Nat.zero_mod])
    · exact ih ha _

theorem clearSlot_reads {a : Arr} (ha : a ∈ slotArrays) (s : State) (k : Nat) : (s.clearSlot k).rd a k = 0 := zeroed_reads ha k _

theorem sameCauses_foldl {α : Type} {f : State → α → State} (h : ∀ (u : State) x, (f u x).causes = u.causes) (l : List α) (s : State) :
    (l.foldl f s).causes = s.causes := foldl_keeps (obs := State.causes) (fun u x _ => h u x) s

theorem clearSlot_causes (s : State) (k : Nat) : (s.clearSlot k).causes = s.causes :=
  sameCauses_foldl (fun u a => State.causes_wr u a k 0) slotArrays _

theorem clearFlight_causes (s : State) (k c : Nat) : (s.clearFlight k).hasCause k c = false := by
  rw [State.hasCause, Bool.eq_false_iff]
  intro h
  have := (List.mem_filter.1 (List.contains_iff_mem.1 h)).2
  exact absurd rfl (of_decide_eq_true this)

theorem dropCause_absent {s : State} {k c : Nat} (h : s.hasCause k c = false) : s.dropCause k c = s := if_neg (by rw [h]; decide)

theorem bumpEpochs_causes {s : State} {k : Nat} (h : s.hasCause k 4 = false) : (s.bumpEpochs k).causes = s.causes := by
  have epochs : ((s.wallsOf k).foldl (fun s w => s.wr A.epoch w (s.rd A.epoch w + 1)) s).causes = s.causes :=
    sameCauses_foldl (fun u w => State.causes_wr u A.epoch w _) _ _
  rw [State.bumpEpochs, dropCause_absent]
  · exact epochs
  · rw [State.hasCause, ← h, State.hasCause]
    exact congrArg (List.contains · (k, 4)) epochs

/-- The state rows and shadows of the beds `mine`, at their initial values. -/
def State.rowsBack (s : State) (mine : Nat → Bool) : State :=
  let s := ((s.drop A.state fun i => mine (i / 256)).drop A.shadow fun i => mine (i / 256)).drop A.err fun key =>
    (key % 512 = A.state.code ∨ key % 512 = A.shadow.code) ∧ mine (key / 512 / 256)
  (s.listed A.init).foldl (fun s (i, v) => if mine (i / 256) then (s.wrE A.state i v).wrE A.shadow i v else s) s

/-- The histories, flags and probes of the beds `mine`, and the slot's presence flags and port units, cleared. -/
def State.unitsBack (s : State) (mine : Nat → Bool) (k : Nat) : State :=
  let s := (s.drop A.hist fun i => mine (i / 512)).drop A.wflag fun i => mine (i / 512)
  let s := (s.drop A.err fun key =>
    (key % 512 = A.hist.code ∨ key % 512 = A.wflag.code) ∧ mine (key / 512 / 512)).drop A.probe fun c => mine (c / 16)
  let s := { s with histPend := s.histPend.filter fun p => ¬ mine p.bed }
  (s.clearPresence k).clearPorts k

/-- The stores of a slot's walls, but for the portals. -/
def State.storesBack (s : State) (k : Nat) : State :=
  (s.rowsBack fun b => s.slotOfBed b = some k).unitsBack (fun b => s.slotOfBed b = some k) k

theorem clearStores_eq (s : State) (k : Nat) : s.clearStores k = (s.storesBack k).bumpEpochs k := rfl

theorem rowsBack_causes (s : State) (mine : Nat → Bool) : (s.rowsBack mine).causes = s.causes :=
  sameCauses_foldl (f := fun (s : State) (x : Nat × Nat) => if mine (x.1 / 256) then (s.wrE A.state x.1 x.2).wrE A.shadow x.1 x.2 else s)
    (fun u x => by split <;> rfl) _ _

theorem unitsBack_causes (s : State) (mine : Nat → Bool) (k : Nat) : (s.unitsBack mine k).causes = s.causes := rfl

theorem storesBack_causes (s : State) (k : Nat) : (s.storesBack k).causes = s.causes :=
  (unitsBack_causes ..).trans (rowsBack_causes ..)

/-- No hold cause of the slot is left once its flight and its stores are cleared. -/
theorem cleared_causes (s : State) (k c : Nat) : (((s.clearFlight k).clearStores k).clearSlot k).hasCause k c = false := by
  have stores : ((s.clearFlight k).storesBack k).causes = (s.clearFlight k).causes := storesBack_causes ..
  have portal : ((s.clearFlight k).storesBack k).hasCause k 4 = false := by
    rw [State.hasCause, stores]
    exact clearFlight_causes s k 4
  rw [State.hasCause, clearSlot_causes, clearStores_eq, bumpEpochs_causes portal, stores]
  exact clearFlight_causes s k c

/-- The edge sequencer's table and index, as the image gives them. -/
def State.tableBack (s : State) (k : Nat) : State :=
  let s := s.each (s.rd A.esLoadLen k) fun s i => s.wrE A.esTab (4096 * k + i) (s.rd A.esLoad (4096 * k + i))
  (s.wr A.esLen k (s.rd A.esLoadLen k)).wr A.esIdx k (s.rd A.esStart k)

theorem tableBack_only (s : State) (k : Nat) : s.Only [A.esTab.code, A.err.code, A.esLen.code, A.esIdx.code] (s.tableBack k) :=
  (((only_each (fun _ _ => (State.Only.refl ..).wrE (a := A.esTab) _ _ rfl rfl) _ s).wr (a := A.esLen) _ _ rfl).wr (a := A.esIdx) _ _ rfl)

theorem tableBack_causes (s : State) (k : Nat) : (s.tableBack k).causes = s.causes :=
  (State.causes_wr ..).trans ((State.causes_wr ..).trans (sameCauses_foldl (f := fun s i =>
    s.wrE A.esTab (4096 * k + i) (s.rd A.esLoad (4096 * k + i))) (fun _ _ => rfl) _ s))

/-- The registers of a slot at its reset. -/
def State.regsBack (s : State) (k : Nat) : State :=
  let s := (s.setPair (P k + oHOLD_TIME_LO) 0).setPair (P k + oGATE_WAIT_LO) 0
  let s := ((s.wf (P k) HOLD_COUNT_COUNT 0).wr A.reg (P k + oSEVER_INFO) 0).wf (P k) REC_STATUS_BACKLOG 0
  (clearFaultStatus s k).wr A.reg (P k + oFAULT_COUNT) 0

theorem regsBack_beside (s : State) (k : Nat) : s.Beside [A.reg.code] (s.regsBack k) := by
  have pair (u : State) (o : Nat) : u.Beside [A.reg.code] (u.setPair o 0) :=
    beside_wr (beside_wr (.refl _ u) (a := A.reg) (by decide) _ _) (a := A.reg) (by decide) _ _
  have counts (u : State) : u.Beside [A.reg.code] (((u.wf (P k) HOLD_COUNT_COUNT 0).wr A.reg (P k + oSEVER_INFO) 0).wf (P k)
      REC_STATUS_BACKLOG 0) :=
    beside_wr (beside_wr (beside_wr (.refl _ u) (a := A.reg) (by decide) _ _) (a := A.reg) (by decide) _ _) (a := A.reg) (by decide) _ _
  exact beside_wr (beside_wr (((pair s _).trans (pair _ _)).trans (counts _)) (a := A.reg) (by decide) _ _) (a := A.reg) (by decide) _ _

theorem regsBack_reads (s : State) (k : Nat) : (s.regsBack k).reg (P k + oFAULT_STATUS) = 0 ∧ (s.regsBack k).reg (P k + oFAULT_COUNT) = 0 ∧
    (s.regsBack k).reg (P k + oSEVER_INFO) = 0 ∧ (s.regsBack k).pair (P k + oHOLD_TIME_LO) = 0 ∧
    (s.regsBack k).pair (P k + oGATE_WAIT_LO) = 0 ∧ (s.regsBack k).rf (P k) HOLD_COUNT_COUNT = 0 := by
  have rest (u : State) (o : Nat) (h : P k + oFAULT_STATUS ≠ o) (h' : P k + oFAULT_COUNT ≠ o) (h'' : P k + REC_STATUS_BACKLOG.off ≠ o) :
      ((clearFaultStatus (u.wf (P k) REC_STATUS_BACKLOG 0) k).wr A.reg (P k + oFAULT_COUNT) 0).reg o = u.reg o :=
    (State.rd_wr_ix _ _ _ _ _ h').trans ((State.rd_wr_ix _ _ _ _ _ h).trans (State.rd_wr_ix _ _ _ _ _ h''))
  have off {x y : Nat} (h : x ≠ y) : P k + x ≠ P k + y := by omega
  have counted (u : State) (o : Nat) (h : P k + HOLD_COUNT_COUNT.off ≠ o) (h' : P k + oSEVER_INFO ≠ o) :
      ((u.wf (P k) HOLD_COUNT_COUNT 0).wr A.reg (P k + oSEVER_INFO) 0).reg o = u.reg o :=
    (State.rd_wr_ix _ _ _ _ _ h').trans (State.rd_wr_ix _ _ _ _ _ h)
  have time {x : Nat} (h1 : oFAULT_STATUS ≠ x) (h2 : oFAULT_COUNT ≠ x) (h3 : REC_STATUS_BACKLOG.off ≠ x) (h4 : HOLD_COUNT_COUNT.off ≠ x)
      (h5 : oSEVER_INFO ≠ x) : (s.regsBack k).reg (P k + x) =
        ((s.setPair (P k + oHOLD_TIME_LO) 0).setPair (P k + oGATE_WAIT_LO) 0).reg (P k + x) :=
    (rest _ _ (off h1) (off h2) (off h3)).trans (counted _ _ (off h4) (off h5))
  have pairs {x : Nat} (hx : x ∈ [oHOLD_TIME_LO, oGATE_WAIT_LO]) : (s.regsBack k).pair (P k + x) =
      ((s.setPair (P k + oHOLD_TIME_LO) 0).setPair (P k + oGATE_WAIT_LO) 0).pair (P k + x) := by
    simp only [List.mem_cons, List.not_mem_nil, or_false] at hx
    rw [State.pair, Nat.add_assoc]
    rcases hx with rfl | rfl
    · rw [time (by decide) (by decide) (by decide) (by decide) (by decide), time (by decide) (by decide) (by decide) (by decide) (by decide),
        ← Nat.add_assoc, ← State.pair]
    · rw [time (by decide) (by decide) (by decide) (by decide) (by decide), time (by decide) (by decide) (by decide) (by decide) (by decide),
        ← Nat.add_assoc, ← State.pair]
  refine ⟨?_, ?_, ?_, ?_, ?_, ?_⟩
  · exact (State.rd_wr_ix _ _ _ _ _ (off (by decide))).trans ((State.rd_wr_same ..).trans (Nat.zero_mod _))
  · exact (State.rd_wr_same ..).trans (Nat.zero_mod _)
  · exact (rest _ _ (off (by decide)) (off (by decide)) (off (by decide))).trans ((State.rd_wr_same ..).trans (Nat.zero_mod _))
  · rw [pairs (.head _), pair_setPair_ne _ _ (by simp only [oHOLD_TIME_LO, oGATE_WAIT_LO]; omega), pair_setPair_same, Nat.zero_mod]
  · rw [pairs (.tail _ (.head _)), pair_setPair_same, Nat.zero_mod]
  · have kept : (s.regsBack k).reg (P k + HOLD_COUNT_COUNT.off) =
        (((s.setPair (P k + oHOLD_TIME_LO) 0).setPair (P k + oGATE_WAIT_LO) 0).wf (P k) HOLD_COUNT_COUNT 0).reg
          (P k + HOLD_COUNT_COUNT.off) :=
      (rest _ _ (off (by decide)) (off (by decide)) (off (by decide))).trans (State.rd_wr_ix _ _ _ _ _ (off (by decide)))
    rw [State.rf, kept, ← State.rf, State.rf_wf_same _ _ _ _ (by decide), Nat.zero_mod]

/-- The reset of a slot, from its walls' stores on. -/
def State.slotReset (s : State) (k : Nat) : State :=
  (((((s.clearFlight k).clearStores k).clearSlot k).tableBack k).regsBack k |>.wr A.pState k 1).wr A.gatePull k (idlePull 0)

theorem resetPart_eq (s : State) (k : Nat) : ∃ u : State, s.resetPart k = ((u.slotReset k).softSettle k).pullsChanged k := ⟨_, rfl⟩

section reset
variable (u : State) (k : Nat)

/-- The reset of a slot's stores and bookkeeping. -/
def State.slotCleared : State := (((u.clearFlight k).clearStores k).clearSlot k).tableBack k

theorem slotReset_eq : u.slotReset k = (((u.slotCleared k).regsBack k).wr A.pState k 1).wr A.gatePull k (idlePull 0) := rfl

theorem slotReset_beside : (u.slotCleared k).Beside [A.reg.code, A.pState.code, A.gatePull.code] (u.slotReset k) :=
  beside_wr (beside_wr ((regsBack_beside ..).mono (by decide)) (a := A.pState) (by decide) _ _) (a := A.gatePull) (by decide) _ _

theorem slotReset_causes (c : Nat) : (u.slotReset k).hasCause k c = false := by
  rw [State.hasCause, (slotReset_beside u k).causes, State.slotCleared]
  exact (congrArg (List.contains · (k, c)) (tableBack_causes ..)).trans (cleared_causes u k c)

/-- The bookkeeping that a reset clears. -/
theorem slotReset_zero {a : Arr} (ha : a ∈ slotArrays) (h : a.code % 512 ∉ [A.reg.code, A.pState.code, A.gatePull.code])
    (h' : [A.esTab.code, A.err.code, A.esLen.code, A.esIdx.code].contains (a.code % 512) = false) : (u.slotReset k).rd a k = 0 := by
  rw [(slotReset_beside u k).arrays a k h, State.slotCleared, (tableBack_only _ k).rd a k h']
  exact clearSlot_reads ha _ k

theorem slotReset_pState : (u.slotReset k).rd A.pState k = 1 := by
  rw [slotReset_eq, State.rd_wr_arr _ _ _ _ _ _ (by decide), State.rd_wr_same]
  rfl

theorem slotReset_gatePull : (u.slotReset k).rd A.gatePull k = 2 := by
  rw [slotReset_eq, State.rd_wr_same]
  rfl

theorem slotReset_reg (o : Nat) : (u.slotReset k).reg o = ((u.slotCleared k).regsBack k).reg o := by
  rw [slotReset_eq, State.reg_wr _ _ _ _ _ (by decide), State.reg_wr _ _ _ _ _ (by decide)]

end reset

theorem resetPart_done (s : State) (k : Nat) : ∃ v : State, v.Calm plumbCodes (s.resetPart k) ∧ ∃ u : State, v = u.slotReset k ∧
    ∀ c, (s.resetPart k).hasCause k c = true ↔ c = 5 ∧ v.rf (P k) HOLD_CTRL_SWHOLD = 1 := by
  obtain ⟨u, hu⟩ := resetPart_eq s k
  refine ⟨_, hu ▸ (softSettle_calm ..).step (pullsChanged_calm ..) rfl, u, rfl, fun c => ?_⟩
  have free : (u.slotReset k).on A.lnHold k = false := by
    rw [State.on, slotReset_zero u k (by simp [slotArrays]) (by decide) rfl]
    rfl
  rw [hu, State.hasCause, (pullsChanged_beside _ k).causes]
  exact (softSettle_hasCause _ k (slotReset_causes u k) c).trans (by rw [free]; simp)

/-- Settles O12: refusals and starts by the first case that applies; a reset through what it clears of the slot. -/
theorem partitionCommands : Obligations.PartitionCommands := by
  unfold Obligations.PartitionCommands
  refine ⟨fun s who slot => ?_, fun s who slot => ?_, fun s who slot => ?_⟩
  · intro k st startable h
    have start : exec (.start who slot) s = .next (s.startCmd who k) := 
      accessAs_on h (.start who slot) 6 fun s => .next (s.startCmd who k)
    have stop : exec (.stop who slot) s = .next (s.stopCmd who k false) := access_next h _ fun s => s.stopCmd who k false
    have stopNow : exec (.stopNow who slot) s = .next (s.stopCmd who k true) := access_next h _ fun s => s.stopCmd who k true
    rw [start, stop, stopNow]
    refine ⟨fun hm => ⟨congrArg _ (startCmd_denied hm), congrArg _ (stopCmd_denied hm _), congrArg _ (stopCmd_denied hm _)⟩,
      fun hm => ⟨fun hs => congrArg _ (startCmd_refused hm (startCheck_state hs) (by decide)),
        fun ⟨hs, hi⟩ => congrArg _ (startCmd_refused hm (startCheck_immediate hs hi) (by decide)),
        fun ⟨hs, hi, hl⟩ => congrArg _ (startCmd_refused hm (startCheck_limit hs hi hl) (by decide)),
        fun ⟨hs, hp⟩ => congrArg _ (startCmd_refused hm ((startCheck_startable hs).trans (by rw [if_pos hp])) (by decide)),
        fun ⟨hs, hp, hc⟩ => congrArg _ (startCmd_refused hm ((startCheck_startable hs).trans (by rw [if_neg (by rw [hp]; decide), if_pos hc]))
          (by decide)),
        fun ⟨h2, h3⟩ => ?_⟩⟩
    have idle : s.stoppable k = false := Bool.eq_false_iff.2 fun e => (stoppable_iff.1 e).elim h2 h3
    exact ⟨congrArg _ (stopCmd_refused hm idle _), congrArg _ (stopCmd_refused hm idle _)⟩
  · intro k h hm
    refine ⟨fun hc hn hl hh hp => ?_, fun hs => ?_, fun hs hf hg hw hmem => ?_⟩
    · have begin : s.startNow k = { s.begun k with startLines := [] } :=
        (if_neg (by rw [hn]; decide)).trans (doStart_begun hl hh hp)
      refine ⟨_, (accessAs_on h (.start who slot) 6 fun s => .next (s.startCmd who k)).trans
        (congrArg Host.Outcome.next (startCmd_taken hm hc)), ?_⟩
      rw [begin]
      have beside := begun_beside s k
      have kept {a : Arr} (ha : a.code % 512 ≠ 0) : (State.cmdAnswer { s.begun k with startLines := [] } k 0).rd a k = (s.begun k).rd a k := by
        rw [State.cmdAnswer, State.rd_ans, State.rd_wf _ _ _ _ _ _ ha, State.rd_update]
      obtain ⟨state, step, first, gate, round, status⟩ := begun_reads s k
      refine ⟨(kept (by decide)).trans state, ?_, ?_, (kept (by decide)).trans step, (kept (by decide)).trans first,
        (kept (by decide)).trans gate, (kept (by decide)).trans round,
        (kept (by decide)).trans (beside.arrays A.pCycle k (by decide)), State.rsp_ans .., ?_, ?_⟩
      · rw [State.cmdAnswer, State.reg_ans, State.reg_wf _ _ _ _ _ (fun e => absurd (Nat.add_left_cancel e) (by decide)),
          State.reg, State.rd_update, ← State.reg, status]
      · rw [State.cmdAnswer, State.rf_ans, State.rf_wf_same _ _ _ _ (by decide), Nat.zero_mod]
      · rw [State.cmdAnswer, State.causes_ans, State.causes_wf, beside.causes]
      · rw [State.cmdAnswer, State.mem_ans, State.mem_wf, beside.mem]
    · exact (access_next h _ fun s => s.stopCmd who k false).trans (congrArg _ ((stopCmd_taken hm (stoppable_iff.2 hs) false).trans
        (congrArg (State.cmdAnswer · k 0) (act_stop (stoppable_iff.2 hs) 0))))
    · have taken := (stopCmd_taken hm (stoppable_iff.2 (.inl hs)) true).trans
        (congrArg (State.cmdAnswer · k 0) ((act_immediate (stoppable_iff.2 (.inl hs)) hmem 0).trans (stopImmediate_later hs hf hg hw)))
      exact (access_next h _ fun s => s.stopCmd who k true).trans (congrArg _ taken)
  · intro k may h
    have reset : exec (.partReset who slot) s = .next (if may then (if s.loaded k then s.resetPart k else s).okay else s.deny) := by
      rw [show exec (.partReset who slot) s = execPartReset who slot s from rfl, execPartReset, accessAs_on h]
    refine ⟨fun hm => reset.trans (congrArg _ (if_neg (by rw [hm]; decide))), fun hm hl =>
      ⟨_, reset.trans (congrArg _ ((if_pos hm).trans (congrArg State.okay (if_pos hl)))), ?_⟩⟩
    obtain ⟨v, calm, u, rfl, causes⟩ := resetPart_done s k
    have kept {a : Arr} (ha : plumbCodes.contains (a.code % 512) = false) : ((s.resetPart k).ans 0 0).rd a k = (u.slotReset k).rd a k :=
      (State.rd_ans ..).trans (calm.only.rd a k ha)
    have reg (o : Nat) : ((s.resetPart k).ans 0 0).reg o = ((u.slotCleared k).regsBack k).reg o :=
      (State.rd_ans ..).trans ((calm.only.rd A.reg o rfl).trans (slotReset_reg u k o))
    have pair (o : Nat) : ((s.resetPart k).ans 0 0).pair o = ((u.slotCleared k).regsBack k).pair o := by rw [State.pair, reg, reg, ← State.pair]
    have field (f : Fld) : ((s.resetPart k).ans 0 0).rf (P k) f = ((u.slotCleared k).regsBack k).rf (P k) f := by
      rw [State.rf, reg, ← State.rf]
    have zero {a : Arr} (ha : a ∈ slotArrays) (h1 : a.code % 512 ∉ [A.reg.code, A.pState.code, A.gatePull.code])
        (h2 : [A.esTab.code, A.err.code, A.esLen.code, A.esIdx.code].contains (a.code % 512) = false)
        (h3 : plumbCodes.contains (a.code % 512) = false) : ((s.resetPart k).ans 0 0).rd a k = 0 :=
      (kept h3).trans (slotReset_zero u k ha h1 h2)
    obtain ⟨status, count, sever, hold, gate, holds⟩ := regsBack_reads (u.slotCleared k) k
    refine ⟨State.rsp_ans .., (kept rfl).trans (slotReset_pState u k), zero (by simp [slotArrays]) (by decide) rfl rfl,
      zero (by simp [slotArrays]) (by decide) rfl rfl, zero (by simp [slotArrays]) (by decide) rfl rfl, (reg _).trans status,
      (reg _).trans count, (reg _).trans sever, (pair _).trans hold, (pair _).trans gate, (field _).trans holds,
      (kept rfl).trans (slotReset_gatePull u k), fun c => (causes c).trans ?_⟩
    rw [State.okay, field, State.rf, State.rf, slotReset_reg]

end Sys2Proof.Machine

/-! SUPPORT and CERTIFICATE. The gate and the commit of an emulated cycle (chapters 1, 6, R14, R17, R21, R28, R47, R149). -/

namespace Sys2Proof.Machine

open Reg

/-! ### The begin of a step -/

/-- What `v` keeps of `s` where a step may have been frozen. -/
structure State.FreezeKept (s v : State) : Prop where
  arrays : ∀ (a : Arr) (i : Nat), a.code % 512 ∉ heldCodes → v.rd a i = s.rd a i
  mem : v.mem = s.mem

theorem rd_withHold (s : State) (l : List LateItem) (c : List (Nat × Nat)) (a : Arr) (i : Nat) : (s.withHold l c).rd a i = s.rd a i := rfl

theorem freeze_kept {s : State} {k : Nat} (h : s.replaying k = false) (t : Nat) (items : List LateItem) :
    s.FreezeKept (s.freeze k t items) := by
  have frozen := freeze_beside h t items [] []
  obtain ⟨-, -, -, -, -, -, -, -, -, mem⟩ := frozen.kept
  refine ⟨fun a i ha => ?_, mem⟩
  have read := frozen.arrays a i ha
  rwa [rd_withHold, rd_withHold] at read

theorem dumpHold_kept (s : State) (k : Nat) : s.FreezeKept (((s.addCause k 3).wr A.pFrozen k 1).enterHeld k) := by
  have cause := (addCause_beside s k 3).mono (show plumbCodes ⊆ heldCodes by decide)
  have frozen := (beside_wr (.refl heldCodes (s.addCause k 3)) (a := A.pFrozen) (by decide) k 1).trans (enterHeld_beside _ k)
  exact ⟨fun a i ha => (frozen.arrays a i ha).trans (cause.arrays a i ha), frozen.mem.trans cause.mem⟩

theorem beginStep_kept {s : State} {k : Nat} (h : s.replaying k = false) : s.FreezeKept (s.beginStep k) := by
  have eq : s.beginStep k = if s.dumpBlocks k (s.rd A.pStep k) then ((s.addCause k 3).wr A.pFrozen k 1).enterHeld k
      else match s.votes k (s.rd A.pStep k) with
        | [] => s
        | items => s.freeze k (s.rd A.pStep k) items := by
    rw [State.beginStep, h]
    rfl
  rw [eq]
  split
  · exact dumpHold_kept s k
  split
  · exact ⟨fun _ _ _ => rfl, rfl⟩
  · exact freeze_kept h ..

/-! ### The gate (R149) -/

theorem gateMeasure_beside (s : State) (k r : Nat) : s.Beside [A.gateRel.code, A.gateMax.code, A.reg.code] (s.gateMeasure k r) := by
  have measured (m : Nat) : s.Beside [A.gateRel.code, A.gateMax.code, A.reg.code] ((s.wr A.gateRel k 0).wr A.gateMax k m) :=
    beside_wr (beside_wr (.refl _ s) (a := A.gateRel) (by decide) _ _) (a := A.gateMax) (by decide) _ _
  exact beside_ite (.refl ..) (beside_ite (measured _) (beside_wr (beside_wr (measured _) (a := A.gateMax) (by decide) _ _)
    (a := A.reg) (by decide) _ _))

theorem gateMeasure_rf (s : State) (k r : Nat) {f : Fld} (hf : GATE_SPAN_SPAN_NS.off ≠ f.off) : (s.gateMeasure k r).rf (P k) f = s.rf (P k) f := by
  have other (u : State) (v : Nat) : (u.wf (P k) GATE_SPAN_SPAN_NS v).rf (P k) f = u.rf (P k) f := State.rf_wf_reg _ _ _ _ _ _ (by omega)
  unfold State.gateMeasure
  dsimp only
  split
  · rfl
  split
  · rw [rf_wr _ _ _ _ _ (by decide), rf_wr _ _ _ _ _ (by decide)]
  · rw [other, rf_wr _ _ _ _ _ (by decide), rf_wr _ _ _ _ _ (by decide), rf_wr _ _ _ _ _ (by decide)]

/-- What a member does at the gate before step 0, but for the measure of the round (R149). -/
def State.gatePassed (s : State) (k : Nat) : State :=
  let s' := (((s.wr A.pGate k 0).wr A.pBegun k 1).wr A.pStep k 0).wr A.pFrozen k 0
  (s'.wr A.gatePull k (2 ^ (s.rd A.pCycle k % 3))).pullsChanged k

/-- What is kept for each emulated cycle starts again (R168, R174). -/
def State.cycleFresh (s : State) (k : Nat) : State :=
  let s := s.drop A.recCnt fun i => i % 32 = k
  let s := (s.drop A.hzHist fun i => s.slotOfBed (i / 512) = some k).drop A.hzFlag fun i => s.slotOfBed (i / 512) = some k
  let s := s.drop A.hzShadow fun i => s.slotOfBed (i / 256 / 16) = some k
  s.drop A.linkDone fun i => i / 512 % 32 = k

theorem cycleBegin_eq (s : State) (k : Nat) : s.cycleBegin k = (((s.gatePassed k).cycleFresh k).gateMeasure k 64).beginStep k := rfl

/-- The arrays that start again with an emulated cycle. -/
def freshCodes : List Nat := [A.recCnt.code, A.hzHist.code, A.hzFlag.code, A.hzShadow.code, A.linkDone.code]

theorem cycleFresh_rd (s : State) (k : Nat) {a : Arr} (ha : a.code % 512 ∉ freshCodes) (i : Nat) : (s.cycleFresh k).rd a i = s.rd a i := by
  simp only [freshCodes, List.mem_cons, List.not_mem_nil, or_false, not_or] at ha
  obtain ⟨h1, h2, h3, h4, h5⟩ := ha
  rw [State.cycleFresh, rd_drop _ _ _ h5, rd_drop _ _ _ h4, rd_drop _ _ _ h3, rd_drop _ _ _ h2, rd_drop _ _ _ h1]

theorem cycleFresh_recCnt (s : State) {k : Nat} (hk : k < 32) (d : Nat) : (s.cycleFresh k).rd A.recCnt (32 * d + k) = 0 := by
  rw [State.cycleFresh, rd_drop _ _ _ (by decide), rd_drop _ _ _ (by decide), rd_drop _ _ _ (by decide), rd_drop _ _ _ (by decide),
    rd_drop_eq _ _ (by decide), if_pos ⟨rfl, decide_eq_true (by omega)⟩, dflt_plain (by unfold Arr.Plain; decide), Nat.zero_mod]

theorem gatePassed_reads (s : State) (k : Nat) : (s.gatePassed k).rd A.gatePull k = 2 ^ (s.rd A.pCycle k % 3) ∧
    (s.gatePassed k).rd A.pGate k = 0 ∧ (s.gatePassed k).rd A.pStep k = 0 ∧ (s.gatePassed k).rd A.pBegun k = 1 ∧
    (s.gatePassed k).rd A.pCycle k = s.rd A.pCycle k ∧ (s.gatePassed k).mem = s.mem ∧ ∀ f, (s.gatePassed k).rf (P k) f = s.rf (P k) f := by
  have phase : 2 ^ (s.rd A.pCycle k % 3) % 2 ^ A.gatePull.width = 2 ^ (s.rd A.pCycle k % 3) :=
    Nat.mod_eq_of_lt (Nat.pow_lt_pow_right (by decide) (Nat.mod_lt _ (by decide)))
  unfold State.gatePassed
  dsimp only
  have plumb (u : State) := pullsChanged_beside u k
  refine ⟨?_, ?_, ?_, ?_, ?_, ?_, fun f => ?_⟩
  · rw [(plumb _).arrays A.gatePull k (by decide), State.rd_wr_same, phase]
  · rw [(plumb _).arrays A.pGate k (by decide)]
    simp
  · rw [(plumb _).arrays A.pStep k (by decide)]
    simp
  · rw [(plumb _).arrays A.pBegun k (by decide)]
    simp [A.pBegun]
  · rw [(plumb _).arrays A.pCycle k (by decide)]
    simp
  · rw [(plumb _).mem, State.mem_wr, State.mem_wr, State.mem_wr, State.mem_wr, State.mem_wr]
  · rw [State.rf, State.reg, (plumb _).arrays A.reg _ (by decide), ← State.reg, State.reg_wr _ _ _ _ _ (by decide),
      State.reg_wr _ _ _ _ _ (by decide), State.reg_wr _ _ _ _ _ (by decide), State.reg_wr _ _ _ _ _ (by decide),
      State.reg_wr _ _ _ _ _ (by decide), ← State.rf]

theorem cycleBegin_reads {s : State} {k : Nat} (hk : k < 32) (hr : s.replaying k = false) :
    (s.cycleBegin k).rd A.gatePull k = 2 ^ (s.rd A.pCycle k % 3) ∧ (s.cycleBegin k).rd A.pGate k = 0 ∧ (s.cycleBegin k).rd A.pStep k = 0 ∧
    (s.cycleBegin k).rd A.pBegun k = 1 ∧ (s.cycleBegin k).rd A.pCycle k = s.rd A.pCycle k ∧
    (∀ d, (s.cycleBegin k).rd A.recCnt (32 * d + k) = 0) ∧ (s.cycleBegin k).mem = s.mem := by
  obtain ⟨pull, gate, step, first, cycle, mem, regs⟩ := gatePassed_reads s k
  have measured := gateMeasure_beside ((s.gatePassed k).cycleFresh k) k 64
  have live : (((s.gatePassed k).cycleFresh k).gateMeasure k 64).replaying k = false := by
    rw [State.replaying, gateMeasure_rf _ _ _ (by decide), State.rf, State.reg, cycleFresh_rd _ _ (by decide), ← State.reg, ← State.rf, regs]
    exact hr
  have kept := beginStep_kept live
  have read {a : Arr} (h1 : a.code % 512 ∉ heldCodes) (h2 : a.code % 512 ∉ [A.gateRel.code, A.gateMax.code, A.reg.code]) (i : Nat) :
      (s.cycleBegin k).rd a i = ((s.gatePassed k).cycleFresh k).rd a i := by
    rw [cycleBegin_eq, kept.arrays a i h1, measured.arrays a i h2]
  have slot {a : Arr} (h1 : a.code % 512 ∉ heldCodes) (h2 : a.code % 512 ∉ [A.gateRel.code, A.gateMax.code, A.reg.code])
      (h3 : a.code % 512 ∉ freshCodes) : (s.cycleBegin k).rd a k = (s.gatePassed k).rd a k := (read h1 h2 k).trans (cycleFresh_rd _ _ h3 k)
  exact ⟨(slot (by decide) (by decide) (by decide)).trans pull, (slot (by decide) (by decide) (by decide)).trans gate,
    (slot (by decide) (by decide) (by decide)).trans step, (slot (by decide) (by decide) (by decide)).trans first,
    (slot (by decide) (by decide) (by decide)).trans cycle,
    fun d => (read (by decide) (by decide) _).trans (cycleFresh_recCnt _ hk d), by
      rw [cycleBegin_eq, kept.mem, measured.mem]
      exact mem⟩

theorem gateRound_reads (s : State) {k r : Nat} (hr : r < 128) : (s.gateRound k r).rd A.gatePull k = 2 ^ ((s.rd A.pCycle k + 1 + r) % 3) ∧
    (s.gateRound k r).rd A.pRound k = (if r < 64 then r + 1 else 0) ∧ (s.gateRound k r).rd A.pCycle k = s.rd A.pCycle k ∧
    (s.gateRound k r).mem = s.mem := by
  have measured := gateMeasure_beside s k (r - 1)
  have plumb (u : State) := pullsChanged_beside u k
  have phase : 2 ^ ((s.rd A.pCycle k + 1 + r) % 3) % 2 ^ A.gatePull.width = 2 ^ ((s.rd A.pCycle k + 1 + r) % 3) :=
    Nat.mod_eq_of_lt (Nat.pow_lt_pow_right (by decide) (Nat.mod_lt _ (by decide)))
  unfold State.gateRound State.gateWait
  dsimp only
  refine ⟨?_, ?_, ?_, ?_⟩
  · rw [State.rd_wr_arr _ _ _ _ _ _ (by decide), State.rd_wr_arr _ _ _ _ _ _ (by decide), State.rd_wr_arr _ _ _ _ _ _ (by decide),
      State.rd_wr_arr _ _ _ _ _ _ (by decide), (plumb _).arrays A.gatePull k (by decide), State.rd_wr_same, phase]
  · rw [State.rd_wr_arr _ _ _ _ _ _ (by decide), State.rd_wr_arr _ _ _ _ _ _ (by decide), State.rd_wr_arr _ _ _ _ _ _ (by decide),
      State.rd_wr_same]
    exact Nat.mod_eq_of_lt (by split <;> simp only [A.pRound] <;> omega)
  · rw [State.rd_wr_arr _ _ _ _ _ _ (by decide), State.rd_wr_arr _ _ _ _ _ _ (by decide), State.rd_wr_arr _ _ _ _ _ _ (by decide),
      State.rd_wr_arr _ _ _ _ _ _ (by decide), (plumb _).arrays A.pCycle k (by decide), State.rd_wr_arr _ _ _ _ _ _ (by decide),
      measured.arrays A.pCycle k (by decide)]
  · rw [State.mem_wr, State.mem_wr, State.mem_wr, State.mem_wr, (plumb _).mem, State.mem_wr, measured.mem]

/-! ### The last steps of a commit (R14, R28) -/

/-- Nothing of the slot is on its way to a bay, to a port store or to a landing, and it neither replays nor stops. -/
structure State.Quiescent (s : State) (k : Nat) : Prop where
  bayReq : s.bayReq = []
  bayRet : s.bayRet = []
  flight : ∀ b ∈ s.flight, b.slot ≠ k
  live : s.replaying k = false
  run : s.rd A.pState k = 2
  immediate : s.on A.pImm k = false
  free : s.holdSeen k = false
  stops : (s.stops.filter fun x => x.slot = k) = []

/-- `v` is `s` but for the arrays of `codes`, the symbols to be sent and what the bays did in the step. -/
def State.Within (codes : List Nat) (s v : State) : Prop := State.Beside codes { s with bayDone := v.bayDone } v

section within
variable {codes : List Nat} {s u v : State}

theorem State.Within.refl (codes : List Nat) (s : State) (d : List BayDone) : s.Within codes { s with bayDone := d } :=
  State.Beside.refl ..

theorem State.Within.step (h : s.Within codes u) (h' : u.Beside codes v) : s.Within codes v := by
  have same : v.bayDone = u.bayDone := (congrArg State.bayDone h'.rest :)
  rw [State.Within, same]
  exact State.Beside.trans h h'

theorem State.Within.rd (h : s.Within codes v) (a : Arr) (i : Nat) (ha : a.code % 512 ∉ codes) : v.rd a i = s.rd a i := h.arrays a i ha

theorem State.Within.trans (h : s.Within codes u) (h' : u.Within codes v) : s.Within codes v where
  rest := by
    have e := h'.rest
    rw [e, h.rest]
  arrays a i ha := (h'.rd a i ha).trans (h.rd a i ha)

end within

theorem bayStep_none {s : State} (h : s.bayReq = []) (wall : Nat) : s.bayStep wall = s := by
  rw [State.bayStep, h]
  rfl

theorem commitRest_quiet {s : State} {k : Nat} (h : s.Quiescent k) : ∃ d, s.commitRest k = { s with bayDone := d } := by
  have bays : s.baysRest k = s := by
    rw [State.baysRest, foldl_noop _ _ _ fun w _ => bayStep_none h.bayReq w, h.bayRet]
    rfl
  have none : (s.flight.filter fun b => b.slot = k ∧ b.crossed) = [] :=
    List.filter_eq_nil_iff.2 fun b hb e => h.flight b hb (of_decide_eq_true e).1
  have stay : s.flight.map (fun b => if b.slot = k then b.nearer else b) = s.flight := by
    refine (List.map_congr_left fun b hb => ?_).trans (List.map_id _)
    exact if_neg (h.flight b hb)
  have cross : s.crossRest k = s := by
    rw [State.crossRest, none, List.foldl_nil, stay]
  refine ⟨s.bayDone.filter fun x => s.slotOfWall x.wall ≠ some k, ?_⟩
  rw [State.commitRest, bays, cross]

/-- The arrays that the last steps of a commit write. -/
def commitCodes : List Nat := [A.pLaunchWait.code, A.pStep.code, A.pCycle.code, A.pGate.code, A.gateTimer.code, A.limitNow.code]

theorem State.Quiescent.within {s v : State} {k : Nat} (h : s.Quiescent k) (hv : s.Within commitCodes v) : v.Quiescent k := by
  have rest := hv.rest
  have causes : v.causes = s.causes := (congrArg State.causes rest :)
  have stops : v.stops = s.stops := (congrArg State.stops rest :)
  have flight : v.flight = s.flight := (congrArg State.flight rest :)
  exact {
    bayReq := (congrArg State.bayReq rest :).trans h.bayReq
    bayRet := (congrArg State.bayRet rest :).trans h.bayRet
    flight := flight ▸ h.flight
    live := by
      rw [State.replaying, State.rf, State.reg, hv.rd A.reg _ (by decide)]
      exact h.live
    run := (hv.rd A.pState k (by decide)).trans h.run
    immediate := by
      rw [State.on, hv.rd A.pImm k (by decide)]
      exact h.immediate
    free := by
      rw [State.holdSeen, State.on, hv.rd A.remoteHold k (by decide), causes]
      exact h.free
    stops := stops ▸ h.stops }

/-- A commit step outside a replay, past those that may wait. -/
theorem commitRun_eq {s : State} {k n : Nat} (hr : (s.commitRest k).replaying k = false) (ht : s.rd A.pDepth k + 6 < s.rd A.pStep k)
    (fuel : Nat) : s.commitRun k n (fuel + 1) =
      let t := s.rd A.pStep k
      let u := ((s.commitRest k).wr A.pLaunchWait k 0).commitAct k n (t - s.rd A.pDepth k)
      if u.rd A.pState k ≠ 2 then u
      else if u.on A.pImm k then u.enterStopped k true t
      else if s.rd A.pDepth k + 15 ≤ t then u.cycleEnd k n
      else if u.holdSeen k then (u.wr A.stepFresh k 1).enterHeld k
      else (u.wr A.pStep k (t + 1)).commitRun k n fuel := by
  have h3 : ¬ (s.rd A.pStep k = s.rd A.pDepth k + 3 ∧ (s.commitRest k).cowBlocks k = true) := by omega
  have h6 : ¬ (s.rd A.pStep k = s.rd A.pDepth k + 6 ∧ (s.commitRest k).lnWaiting k = true) := by omega
  rw [State.commitRun]
  dsimp only
  rw [hr, if_neg Bool.false_ne_true, if_neg h3, if_neg h6]

theorem commitRest_within {s : State} {k : Nat} (hq : s.Quiescent k) : s.Within commitCodes ((s.commitRest k).wr A.pLaunchWait k 0) := by
  obtain ⟨d, hd⟩ := commitRest_quiet hq
  rw [hd]
  exact State.Within.step (.refl _ s d) (beside_wr (.refl ..) (a := A.pLaunchWait) (by decide) k 0)

theorem commitRest_live {s : State} {k : Nat} (hq : s.Quiescent k) : (s.commitRest k).replaying k = false := by
  obtain ⟨d, hd⟩ := commitRest_quiet hq
  rw [hd]
  exact hq.live

/-- A late commit step that neither holds nor stops the partition. -/
theorem commitRun_step {s : State} {k n j : Nat} (hq : s.Quiescent k) (ht : s.rd A.pStep k = s.rd A.pDepth k + j) (hj : 6 < j) (hl : j < 15)
    (hact : ∀ u : State, u.Beside commitCodes (u.commitAct k n j)) (fuel : Nat) : s.commitRun k n (fuel + 1) =
      ((((s.commitRest k).wr A.pLaunchWait k 0).commitAct k n j).wr A.pStep k (s.rd A.pStep k + 1)).commitRun k n fuel := by
  have after := hq.within ((commitRest_within hq).step (hact _))
  rw [commitRun_eq (commitRest_live hq) (by omega)]
  dsimp only
  rw [show s.rd A.pStep k - s.rd A.pDepth k = j by omega, if_neg (not_not.2 after.run), if_neg (by rw [after.immediate]; decide), if_neg (by omega), if_neg (by rw [after.free]; decide)]

/-- Step D + 15, without a stop: the partition waits at the gate. -/
theorem commitRun_last {s : State} {k n : Nat} (hq : s.Quiescent k) (ht : s.rd A.pStep k = s.rd A.pDepth k + 15) (fuel : Nat) :
    s.commitRun k n (fuel + 1) = (((s.commitRest k).wr A.pLaunchWait k 0).wr A.pGate k 1).gateWait k := by
  have done := commitRest_within hq
  have after := hq.within done
  have waits : s.Within commitCodes ((((s.commitRest k).wr A.pLaunchWait k 0).wr A.pGate k 1).gateWait k) :=
    done.step (beside_wr (beside_wr (beside_wr (.refl ..) (a := A.pGate) (by decide) _ _) (a := A.gateTimer) (by decide) _ _)
      (a := A.limitNow) (by decide) _ _)
  have none : (((s.commitRest k).wr A.pLaunchWait k 0).stops.filter fun x => x.slot = k ∧ x.cyc ≤ n) = [] := by
    refine List.filter_eq_nil_iff.2 fun x hx e => ?_
    exact List.filter_eq_nil_iff.1 after.stops x hx (decide_eq_true (of_decide_eq_true e).1)
  have rest (u : State) : u.commitAct k n 15 = u := rfl
  rw [commitRun_eq (commitRest_live hq) (by omega)]
  dsimp only
  rw [show s.rd A.pStep k - s.rd A.pDepth k = 15 by omega, rest, if_neg (not_not.2 after.run), if_neg (by rw [after.immediate]; decide), if_pos (by omega), State.cycleEnd]
  dsimp only
  rw [none, if_neg (not_not.2 rfl), if_neg (by rw [(hq.within waits).free]; decide)]

/-- `v` has come from `s` to commit step D + j, with the counter at `c`. -/
structure State.CommitAt (s v : State) (k c j : Nat) : Prop where
  within : s.Within commitCodes v
  step : v.rd A.pStep k = s.rd A.pDepth k + j
  cycle : v.rd A.pCycle k = c

theorem step_next {s : State} {k j : Nat} (h : s.rd A.pDepth k ≤ 512) (hj : j < 15) (u : State) (t : Nat) (ht : t = s.rd A.pDepth k + j) :
    (u.wr A.pStep k (t + 1)).rd A.pStep k = s.rd A.pDepth k + (j + 1) := by
  rw [State.rd_wr_same, Nat.mod_eq_of_lt (by simp only [A.pStep]; omega), ht, Nat.add_assoc]

/-- A commit step whose action writes nothing. -/
theorem State.CommitAt.next {s v : State} {k c n j : Nat} (hq : s.Quiescent k) (hd : s.rd A.pDepth k ≤ 512) (h : s.CommitAt v k c j) (hj : 12 < j)
    (hl : j < 15) (fuel : Nat) : ∃ w, v.commitRun k n (fuel + 1) = w.commitRun k n fuel ∧ s.CommitAt w k c (j + 1) := by
  have depth : v.rd A.pDepth k = s.rd A.pDepth k := h.within.rd A.pDepth k (by decide)
  have nothing (u : State) : u.commitAct k n j = u := by
    rcases (by omega : j = 13 ∨ j = 14) with rfl | rfl <;> rfl
  have quiet := hq.within h.within
  have done := commitRest_within quiet
  refine ⟨_, commitRun_step quiet (h.step.trans (by rw [depth])) (by omega) hl (fun u => by rw [nothing]; exact .refl ..) fuel, ?_⟩
  rw [nothing]
  exact ⟨h.within.trans (done.step (beside_wr (.refl ..) (a := A.pStep) (by decide) _ _)), step_next hd hl _ _ h.step, by
    obtain ⟨d, hr⟩ := commitRest_quiet quiet
    rw [hr, State.rd_wr_arr _ _ _ _ _ _ (by decide), State.rd_wr_arr _ _ _ _ _ _ (by decide), State.rd_update, h.cycle]⟩

/-- The steps D + 12 to D + 15 of a commit, below the counter's limit (R28). -/
theorem commitRun_counts {s : State} {k n : Nat} (hq : s.Quiescent k) (ht : s.rd A.pStep k = s.rd A.pDepth k + 12) (hd : s.rd A.pDepth k ≤ 512)
    (hn : n + 1 < 2 ^ 48) (fuel : Nat) : ∃ v, s.CommitAt v k (n + 1) 15 ∧ s.commitRun k n (fuel + 4) =
      (((v.commitRest k).wr A.pLaunchWait k 0).wr A.pGate k 1).gateWait k := by
  have counted (u : State) : u.commitAct k n 12 = u.wr A.pCycle k (n + 1) := if_pos hn
  have first : s.CommitAt ((((s.commitRest k).wr A.pLaunchWait k 0).wr A.pCycle k (n + 1)).wr A.pStep k (s.rd A.pStep k + 1)) k (n + 1) 13 :=
    ⟨(commitRest_within hq).step (beside_wr (beside_wr (.refl ..) (a := A.pCycle) (by decide) _ _) (a := A.pStep) (by decide) _ _),
      step_next hd (by decide) _ _ ht, by
        rw [State.rd_wr_arr _ _ _ _ _ _ (by decide), State.rd_wr_same]
        exact Nat.mod_eq_of_lt hn⟩
  have one := commitRun_step hq ht (by decide) (by decide) (fun u => by
    rw [counted]
    exact beside_wr (.refl ..) (a := A.pCycle) (by decide) _ _) (fuel + 3)
  rw [counted] at one
  obtain ⟨v, hv, atV⟩ := first.next hq hd (by decide) (by decide) (n := n) (fuel + 2)
  obtain ⟨w, hw, atW⟩ := atV.next hq hd (by decide) (by decide) (n := n) (fuel + 1)
  have depth : w.rd A.pDepth k = s.rd A.pDepth k := atW.within.rd A.pDepth k (by decide)
  exact ⟨w, atW, one.trans (hv.trans (hw.trans (commitRun_last (hq.within atW.within) (atW.step.trans (by rw [depth])) fuel)))⟩

/-- The gate after a commit. -/
theorem commitEnd_reads {s v : State} {k c : Nat} (hq : s.Quiescent k) (h : s.CommitAt v k c 15) :
    let t := (((v.commitRest k).wr A.pLaunchWait k 0).wr A.pGate k 1).gateWait k
    s.Within commitCodes t ∧ t.rd A.pGate k = 1 ∧ t.rd A.pStep k = s.rd A.pDepth k + 15 ∧ t.rd A.pCycle k = c ∧ t.rd A.gateTimer k = 0 := by
  obtain ⟨d, hd⟩ := commitRest_quiet (hq.within h.within)
  have done := commitRest_within (hq.within h.within)
  dsimp only
  refine ⟨h.within.trans (done.step (beside_wr (beside_wr (beside_wr (.refl ..) (a := A.pGate) (by decide) _ _) (a := A.gateTimer)
    (by decide) _ _) (a := A.limitNow) (by decide) _ _)), ?_, ?_, ?_, ?_⟩
  · rw [State.gateWait, State.rd_wr_arr _ _ _ _ _ _ (by decide), State.rd_wr_arr _ _ _ _ _ _ (by decide), State.rd_wr_same]
    rfl
  · rw [State.gateWait, State.rd_wr_arr _ _ _ _ _ _ (by decide), State.rd_wr_arr _ _ _ _ _ _ (by decide),
      State.rd_wr_arr _ _ _ _ _ _ (by decide), State.rd_wr_arr _ _ _ _ _ _ (by decide), hd, State.rd_update, h.step]
  · rw [State.gateWait, State.rd_wr_arr _ _ _ _ _ _ (by decide), State.rd_wr_arr _ _ _ _ _ _ (by decide),
      State.rd_wr_arr _ _ _ _ _ _ (by decide), State.rd_wr_arr _ _ _ _ _ _ (by decide), hd, State.rd_update, h.cycle]
  · rw [State.gateWait, State.rd_wr_arr _ _ _ _ _ _ (by decide), State.rd_wr_same, Nat.zero_mod]

/-! ### State rows (R17) -/

theorem get_absent {α : Type} (d : α) (l : List (Nat × α)) {k : Nat} (h : ∀ e ∈ l, e.1 ≠ k) : Sparse.get d l k = d := by
  induction l with
  | nil => rfl
  | cons e r ih => rw [Sparse.get, if_neg (h e List.mem_cons_self), ih fun x hx => h x (List.mem_cons_of_mem _ hx)]

/-- An entry that does not read 0 is listed. -/
theorem rd_listed {s : State} {a : Arr} (ha : a.Plain) {i : Nat} (h : s.rd a i ≠ 0) : ∃ e ∈ s.arr, e.1 = a.key i := by
  by_contra none
  refine h ?_
  rw [State.rd, get_absent _ _ fun e he hk => none ⟨e, he, hk⟩, dflt_plain ha, Nat.zero_mod]

section commit
variable {s : State} {k : Nat}

theorem noteShadows_intact (h : ∀ i, s.errOf A.shadow i = 0) : s.noteShadows k = s := by
  refine foldl_noop _ _ _ fun x _ => ?_
  dsimp only
  split
  · rw [State.noteRead, h]
    rfl
  · rfl

/-- A row that takes its shadow. -/
def State.rowTaken (s : State) (i : Nat) : State := s.wrE A.state i (s.rd A.shadow i)

theorem rowTaken_only (s : State) (i : Nat) : s.Only [A.state.code, A.err.code] (s.rowTaken i) := (State.Only.refl ..).wrE _ _ rfl rfl

theorem rowTaken_intact (h : ∀ i, s.errOf A.shadow i = 0) (i j : Nat) : (s.rowTaken i).errOf A.shadow j = 0 := by
  rw [State.errOf, State.rowTaken, State.wrE]
  by_cases he : A.state.key i = A.shadow.key j
  · rw [he, State.rd_wr_same, Nat.zero_mod]
  · rw [State.rd_wr_ix _ _ _ _ _ he, State.rd_wr_arr _ _ _ _ _ _ (by decide)]
    exact h j

/-- The rows of a list take their shadows. -/
theorem rowsTaken_reads (l : List Nat) (s : State) :
    s.Only [A.state.code, A.err.code] (l.foldl State.rowTaken s) ∧ ∀ i, (l.foldl State.rowTaken s).rd A.state i =
      if i ∈ l then s.rd A.shadow i else s.rd A.state i := by
  induction l generalizing s with
  | nil => exact ⟨.refl .., fun i => by simp⟩
  | cons x r ih =>
    obtain ⟨only, reads⟩ := ih (s.rowTaken x)
    have one := rowTaken_only s x
    refine ⟨one.step only rfl, fun i => ?_⟩
    rw [List.foldl_cons, reads i, one.rd A.shadow i rfl]
    have written : (s.rowTaken x).rd A.state i = if i = x then s.rd A.shadow i else s.rd A.state i := by
      rw [State.rowTaken, State.wrE, State.rd_wr_arr _ _ _ _ _ _ (by decide)]
      by_cases hx : i = x
      · rw [if_pos hx, hx, State.rd_wr_same]
        exact Nat.mod_eq_of_lt (s.rd_lt A.shadow x)
      · rw [if_neg hx, State.rd_wr_ix _ _ _ _ _ (Ne.symm hx)]
    rw [written]
    by_cases hr : i ∈ r
    · rw [if_pos hr, if_pos (List.mem_cons_of_mem _ hr)]
    · by_cases hx : i = x
      · rw [if_neg hr, if_pos hx, if_pos (hx ▸ List.mem_cons_self)]
      · rw [if_neg hr, if_neg hx, if_neg (fun h => (List.mem_cons.1 h).elim hx hr)]

theorem applyShadow_intact (h : ∀ i, s.errOf A.shadow i = 0) (hs : s.snaps = []) :
    s.applyShadow k = (s.dirtyRows k).foldl State.rowTaken s := by
  have fold (l : List Nat) (u : State) (hu : ∀ i, u.errOf A.shadow i = 0) (hus : u.snaps = []) : l.foldl (fun s i =>
      let v := s.rd A.shadow i
      let s := if s.cowNeeds k (A.state.key i) then s.noteState k (s.posStep k) (i / 256) (i % 256) else s
      let s := (s.cow k (i / 256 / 4096) A.state i).wrE A.state i v
      if s.errOf A.shadow i = 1 then s.wrE A.shadow i v else s) u = l.foldl State.rowTaken u := by
    induction l generalizing u with
    | nil => rfl
    | cons x r ih =>
      have none := cowNeeds_idle (snapOf_none hus k) (A.state.key x)
      have taken : u.cow k (x / 256 / 4096) A.state x = u := if_neg (by rw [none]; decide)
      have intact := rowTaken_intact hu x
      rw [List.foldl_cons, List.foldl_cons]
      dsimp only
      rw [none, if_neg Bool.false_ne_true, taken, ← State.rowTaken, if_neg (by rw [intact]; decide)]
      exact ih _ intact hus
  rw [State.applyShadow, noteShadows_intact h]
  exact fold _ _ h hs

theorem mem_dirtyRows (i : Nat) : i ∈ s.dirtyRows k ↔ s.slotOfBed (i / 256) = some k ∧ s.rowDirty i = true := by
  unfold State.dirtyRows
  rw [List.mem_filter, decide_eq_true_eq, List.mem_eraseDups, List.mem_filterMap]
  refine ⟨fun h => h.2, fun h => ⟨?_, h⟩⟩
  have row {a : Arr} (ha : a.code = A.state.code ∨ a.code = A.shadow.code) (hr : s.rd a i ≠ 0) : ∃ e ∈ s.arr, e.1 = i * 512 + a.code :=
    rd_listed (by rcases ha with ha | ha <;> rw [Arr.Plain, ha] <;> decide) hr
  have error {a : Arr} (hr : s.errOf a i ≠ 0) : ∃ e ∈ s.arr, e.1 = (i * 512 + a.code) * 512 + 4 :=
    rd_listed (a := A.err) (by unfold Arr.Plain; decide) hr
  have listed {a : Arr} (ha : a.code = 8 ∨ a.code = 9) {e : Nat × Nat} (he : e.1 = i * 512 + a.code) :
      (if e.1 % 512 = A.state.code ∨ e.1 % 512 = A.shadow.code then some (e.1 / 512)
        else if e.1 % 512 = A.err.code ∧ (e.1 / 512 % 512 = A.state.code ∨ e.1 / 512 % 512 = A.shadow.code) then some (e.1 / 512 / 512)
        else none) = some i := by
    rw [if_pos (by simp only [A.state, A.shadow]; omega)]
    congr 1
    omega
  have erred {a : Arr} (ha : a.code = 8 ∨ a.code = 9) {e : Nat × Nat} (he : e.1 = (i * 512 + a.code) * 512 + 4) :
      (if e.1 % 512 = A.state.code ∨ e.1 % 512 = A.shadow.code then some (e.1 / 512)
        else if e.1 % 512 = A.err.code ∧ (e.1 / 512 % 512 = A.state.code ∨ e.1 / 512 % 512 = A.shadow.code) then some (e.1 / 512 / 512)
        else none) = some i := by
    rw [if_neg (by simp only [A.state, A.shadow]; omega), if_pos (by simp only [A.state, A.shadow, A.err]; omega)]
    congr 1
    omega
  rcases of_decide_eq_true h.2 with differ | differ | differ
  · by_cases hz : s.rd A.state i = 0
    · obtain ⟨e, he, hk⟩ := row (.inr rfl) fun h0 => differ (h0.trans hz.symm)
      exact ⟨e, he, listed (a := A.shadow) (.inr rfl) hk⟩
    · obtain ⟨e, he, hk⟩ := row (.inl rfl) hz
      exact ⟨e, he, listed (a := A.state) (.inl rfl) hk⟩
  · obtain ⟨e, he, hk⟩ := error differ
    exact ⟨e, he, erred (a := A.state) (.inl rfl) hk⟩
  · obtain ⟨e, he, hk⟩ := error (a := A.shadow) (by rw [differ]; decide)
    exact ⟨e, he, erred (a := A.shadow) (.inr rfl) hk⟩

/-- The commit of the state rows (R17). -/
theorem applyShadow_rows (h : ∀ i, s.errOf A.shadow i = 0) (hs : s.snaps = []) (i : Nat) :
    (s.slotOfBed (i / 256) = some k → (s.applyShadow k).rd A.state i = s.rd A.shadow i) ∧
    (s.slotOfBed (i / 256) ≠ some k → (s.applyShadow k).rd A.state i = s.rd A.state i) ∧ (s.applyShadow k).rd A.hist i = s.rd A.hist i := by
  obtain ⟨only, reads⟩ := rowsTaken_reads (s.dirtyRows k) s
  rw [applyShadow_intact h hs]
  refine ⟨fun hi => ?_, fun hi => ?_, only.rd A.hist i rfl⟩
  · rw [reads]
    split
    next => rfl
    next hn =>
      have clean : ¬ s.rowDirty i = true := fun hd => hn ((mem_dirtyRows i).2 ⟨hi, hd⟩)
      by_contra differ
      exact clean (decide_eq_true (.inl (Ne.symm differ)))
  · rw [reads, if_neg fun hm => hi ((mem_dirtyRows i).1 hm).1]

theorem esAdvance_index (h : s.on A.esReloaded k = false) (hi : s.rd A.esIdx k + 1 < 2 ^ 12) :
    (s.esAdvance k).rd A.esIdx k = if s.rd A.esLen k ≤ s.rd A.esIdx k + 1 then 0 else s.rd A.esIdx k + 1 := by
  rw [State.esAdvance, if_neg (by rw [h]; decide), State.rd_wr_same]
  refine Nat.mod_eq_of_lt ?_
  split
  · decide
  · exact hi

theorem clearBanks_landP (n i : Nat) : (s.clearBanks k n).rd A.landP i =
    if i / 512 % 2 = n % 2 ∧ s.slotOfBed (i / 1024) = some k then 0 else s.rd A.landP i := by
  have plain : A.landP.Plain := by unfold Arr.Plain; decide
  rw [State.clearBanks, rd_drop _ _ _ (by decide), rd_drop _ _ _ (by decide), rd_drop_eq _ _ (by decide), dflt_plain plain, Nat.zero_mod]
  simp only [true_and, decide_eq_true_eq]

theorem clearBanks_portP (n i : Nat) : (s.clearBanks k n).rd A.portP i =
    if i % 4 = n % 4 ∧ s.slotOfBed (i / 4) = some k then 0 else s.rd A.portP i := by
  have plain : A.portP.Plain := by unfold Arr.Plain; decide
  rw [State.clearBanks, rd_drop _ _ _ (by decide), rd_drop_eq _ _ (by decide), dflt_plain plain, Nat.zero_mod, rd_drop _ _ _ (by decide)]
  simp only [true_and, decide_eq_true_eq]

end commit

section commands
variable {s : State} (hc : s.clocked = true) (slot : Fin 32) (others : BitVec 4)
include hc

theorem exec_cycleBegin : exec (.cycleBegin slot others) s = .next (if (s.rd A.pState slot = 2 ∧
    (s.on A.pGate slot ∨ (s.preFirst slot ∧ s.rd A.pRound slot = 0 ∧ ¬ s.on A.pStartWait slot))) ∧ ¬ s.holdSeen slot ∧
      ¬ (s.combined slot others.toNat).testBit (gateBit (s.rd A.pCycle slot + 1)) then s.cycleBegin slot else s) := if_pos hc

theorem exec_gateRound : exec (.gateRound slot others) s = .next (if s.rd A.pState slot = 2 ∧ 1 ≤ s.rd A.pRound slot ∧
    ¬ s.holdSeen slot ∧ ¬ (s.combined slot others.toNat).testBit (gateBit (s.rd A.pCycle slot + 2 + s.rd A.pRound slot)) then
      s.gateRound slot (s.rd A.pRound slot) else s) := if_pos hc

theorem exec_endOfCycleCommit : exec (.endOfCycleCommit slot) s =
    .next (if s.committing slot then s.commitRun slot (s.commitCycle slot) 16 else s) := if_pos hc

end commands

/-- Settles O13: the gate through what passing it writes; a commit step by step to the gate; its actions at D + 3, D + 7, D + 9. -/
theorem gateAndCommit : Obligations.GateAndCommit := by
  unfold Obligations.GateAndCommit
  refine ⟨fun s slot others => ?_, fun s slot => ?_, fun s k n => ⟨fun h hs i => applyShadow_rows h hs i, esAdvance_index, clearBanks_landP n,
    clearBanks_portP n⟩⟩
  · intro k c r hc hp hh hr
    have begin := exec_cycleBegin hc slot others
    have round := exec_gateRound hc slot others
    refine ⟨fun hg => ⟨fun hb => ?_, fun hb => ?_⟩, fun h1 => ⟨fun hb => ?_, fun hb => ?_⟩⟩
    · exact begin.trans (congrArg _ (if_neg fun e => e.2.2 hb))
    · refine ⟨_, begin.trans (congrArg _ (if_pos ⟨⟨hp, .inl hg⟩, by rw [hh]; decide, by rw [gateBit, hb]; decide⟩)), ?_⟩
      exact cycleBegin_reads slot.isLt hr
    · exact round.trans (congrArg _ (if_neg fun e => e.2.2.2 hb))
    · refine ⟨_, round.trans (congrArg _ (if_pos ⟨hp, h1, by rw [hh]; decide, by rw [gateBit, hb]; decide⟩)), ?_⟩
      obtain ⟨pull, next, cycle, mem⟩ := gateRound_reads s (k := k) (s.rd_lt A.pRound k)
      exact ⟨pull, fun h => next.trans (if_pos h), fun h => next.trans (if_neg (by omega)), cycle, mem⟩
  · intro k n hc hcm ht hd hr hi hs hn hb hret hf
    have commit := exec_endOfCycleCommit hc slot
    have now : s.commitCycle k = n := if_neg (by rw [ht]; omega)
    obtain ⟨hrun, -, -, -, -, hfree⟩ := of_decide_eq_true hcm
    have quiet : s.Quiescent k := ⟨hb, hret, hf, hr, hrun, hi, Bool.eq_false_iff.2 hfree, hs⟩
    obtain ⟨v, atV, done⟩ := commitRun_counts quiet ht hd hn 12
    refine ⟨_, commit.trans (congrArg _ ((if_pos hcm).trans ((congrArg (s.commitRun k · 16) now).trans done))), ?_⟩
    obtain ⟨within, gate, step, cycle, timer⟩ := commitEnd_reads quiet atV
    exact ⟨cycle, gate, (within.rd A.pState k (by decide)).trans hrun, step, timer, fun i => within.rd A.reg i (by decide),
      fun i => within.rd A.state i (by decide), (congrArg State.mem within.rest :), (congrArg State.packets within.rest :)⟩

end Sys2Proof.Machine

/-! CERTIFICATE. The plumb tree, lost members and stop notices (chapter 6, R150, R157, R173). -/

namespace Sys2Proof.Machine

open Reg

/-- Partition 1 is IDLE in slot 0, and the pointer copies of its log queue differ (R246). -/
def badLogQueue : State :=
  (((((State.reset.wr A.pState 0 1).wr A.pPid 0 1).wf (Q 0) QUEUE_CFG_CLASS 2).wf (Q 0) QUEUE_CFG_OWNER 1).wf (Q 0) QUEUE_CTRL_EN 1).wr
    A.qPtrBad 0 1

/-- Refutes O15: the record of a stop notice is pushed before FAULT_STATUS takes the notice's code; where the pointer copies of the
partition's log queue differ, that push is itself a fault of the partition (0x41, R246), and FAULT_STATUS keeps it as the first. -/
theorem not_plumbAndLosses : ¬ Obligations.PlumbAndLosses := by
  unfold Obligations.PlumbAndLosses
  intro h
  obtain ⟨-, h⟩ := h
  obtain ⟨-, -, -, -, notice⟩ := h badLogQueue 0 0 0 1 5 0 0 0 0 false 0 (by decide)
  obtain ⟨-, first, -⟩ := notice (by decide)
  obtain ⟨code, -, -⟩ := first (by decide)
  exact absurd code (by decide +kernel)

end Sys2Proof.Machine

/-! SUPPORT and CERTIFICATE. Holds (chapter 6, R136 to R140, R153, R154). -/

namespace Sys2Proof.Machine

open Reg

section commands
variable {s : State} (hc : s.clocked = true) (slot : Fin 32) (others : BitVec 4)
include hc

theorem exec_holdObserved : exec (.holdObserved slot others) s = .next (if s.loaded slot ∧ (s.combined slot others.toNat).testBit 0 then
    (s.wr A.remoteHold slot 1).holdNow slot else s) := if_pos hc

theorem exec_holdRelease : exec (.holdRelease slot others) s = .next (if s.rd A.pState slot = 3 ∧
    ¬ (s.causes.any fun c => c.1 = slot.val) ∧ ¬ (s.combined slot others.toNat).testBit 0 then s.resume slot
    else if ¬ s.stoppable slot ∧ ¬ (s.combined slot others.toNat).testBit 0 then s.wr A.remoteHold slot 0 else s) := if_pos hc

theorem exec_holdTimeout : exec (.holdTimeout slot) s =
    .next (if s.rd A.pState slot = 3 ∧ s.atLimit slot A.holdTimer then s.holdTimeout slot else s) := if_pos hc

theorem exec_gateTimeout : exec (.gateTimeout slot) s = .next (if s.gateWaiting slot ∧ s.atLimit slot A.gateTimer then
    (s.fault slot 0x32 Loc.device .i 0).timedOut slot else s) := if_pos hc

end commands

section holds
variable {s : State} {k : Nat}

theorem loaded_of {n : Nat} (h : s.rd A.pState k = n) (hn : n ≠ 0) : s.loaded k = true := decide_eq_true (by rw [h]; exact hn)

theorem holdNow_off (h : s.rd A.pState k ≠ 2) : s.holdNow k = s := if_pos (.inl h)

theorem holdNow_evaluating (h : s.evaluating k = true) : s.holdNow k = s := by
  obtain ⟨-, first, gate, -, step⟩ := of_decide_eq_true h
  unfold State.holdNow
  split
  · rfl
  · rw [if_neg fun e => e.elim first gate, if_neg (by omega)]

theorem holdNow_gate (hp : s.rd A.pState k = 2) (hh : s.holdSeen k = true) (hg : s.on A.pGate k = true) : s.holdNow k = s.enterHeld k := by
  rw [State.holdNow, if_neg (by rw [hp, hh]; decide), if_pos (.inr hg)]

theorem evaluating_congr {u : State} (h : ∀ a ∈ [A.pState, A.pBegun, A.pGate, A.pFrozen, A.pStep, A.pDepth], u.rd a k = s.rd a k) :
    u.evaluating k = s.evaluating k := by
  refine decide_eq_decide.2 ?_
  rw [State.preFirst, State.preFirst, State.on, State.on, State.on, State.on, h A.pState (by simp), h A.pBegun (by simp),
    h A.pGate (by simp), h A.pFrozen (by simp), h A.pStep (by simp), h A.pDepth (by simp)]

theorem evaluating_observed (v : Nat) : (s.wr A.remoteHold k v).evaluating k = s.evaluating k :=
  evaluating_congr fun a ha => State.rd_wr_arr _ _ _ _ _ _ (by
    simp only [List.mem_cons, List.not_mem_nil, or_false] at ha
    rcases ha with rfl | rfl | rfl | rfl | rfl | rfl <;> decide)

theorem holdSeen_observed : (s.wr A.remoteHold k 1).holdSeen k = true := by
  refine decide_eq_true (.inr ?_)
  rw [State.on, State.rd_wr_same]
  rfl

/-- RUN to HELD, its counts (R144). -/
theorem enterHeld_count : (s.enterHeld k).rf (P k) HOLD_COUNT_COUNT = min 0xFFFFFFFF (s.rf (P k) HOLD_COUNT_COUNT + 1) := by
  rw [State.enterHeld]
  rw [rf_wr _ _ _ _ _ (by decide), rf_wr _ _ _ _ _ (by decide), rf_wr _ _ _ _ _ (by decide), State.cnt, State.rf_wf_same _ _ _ _ (by decide),
    rf_wr _ _ _ _ _ (by decide)]
  exact Nat.mod_eq_of_lt (lt_of_le_of_lt (Nat.min_le_left ..) (by decide))

theorem enterHeld_rf (s : State) (k : Nat) {f : Fld} (h : HOLD_COUNT_COUNT.off ≠ f.off) : (s.enterHeld k).rf (P k) f = s.rf (P k) f := by
  rw [State.enterHeld]
  rw [rf_wr _ _ _ _ _ (by decide), rf_wr _ _ _ _ _ (by decide), rf_wr _ _ _ _ _ (by decide), State.cnt,
    State.rf_wf_reg _ _ _ _ _ _ (by omega), rf_wr _ _ _ _ _ (by decide)]

/-! ### The end of a hold (R140) -/

theorem resume_waits (h : s.preFirst k = true ∨ s.on A.pGate k = true) : s.resume k = (s.wr A.pState k 2).wr A.remoteHold k 0 := by
  have read {a : Arr} (h1 : ¬ A.pState.code % 512 = a.code % 512) (h2 : ¬ A.remoteHold.code % 512 = a.code % 512) (i : Nat) :
      ((s.wr A.pState k 2).wr A.remoteHold k 0).rd a i = s.rd a i := by
    rw [State.rd_wr_arr _ _ _ _ _ _ h2, State.rd_wr_arr _ _ _ _ _ _ h1]
  refine if_pos ?_
  rw [State.preFirst, State.on, read (by decide) (by decide), read (by decide) (by decide)]
  exact h

/-- The state that a hold ends in, at the step that comes next. -/
def State.resumed' (s : State) (k : Nat) : State :=
  ((((s.wr A.pState k 2).wr A.remoteHold k 0)).wr A.pStep k (if s.on A.pFrozen k then s.rd A.pStep k else s.rd A.pStep k + 1)).wr
    A.pFrozen k 0

theorem steps_or_rests {u : State} {p : Prop} [Decidable p] (hr : u.replaying k = false) :
    u.FreezeKept (if p then u.beginStep k else u) := by
  split
  · exact beginStep_kept hr
  · exact ⟨fun _ _ _ => rfl, rfl⟩

theorem resume_steps (hf : s.preFirst k = false) (hg : s.on A.pGate k = false) (hr : s.replaying k = false) :
    (s.resumed' k).FreezeKept (s.resume k) := by
  have read {a : Arr} (h1 : ¬ A.pState.code % 512 = a.code % 512) (h2 : ¬ A.remoteHold.code % 512 = a.code % 512) (i : Nat) :
      ((s.wr A.pState k 2).wr A.remoteHold k 0).rd a i = s.rd a i := by
    rw [State.rd_wr_arr _ _ _ _ _ _ h2, State.rd_wr_arr _ _ _ _ _ _ h1]
  have waits : ¬ (((s.wr A.pState k 2).wr A.remoteHold k 0).preFirst k = true ∨ ((s.wr A.pState k 2).wr A.remoteHold k 0).on A.pGate k = true) := by
    rw [State.preFirst, State.on, read (by decide) (by decide), read (by decide) (by decide)]
    exact fun e => e.elim (by rw [show decide (s.rd A.pBegun k = 0) = false from hf]; decide)
      (by rw [show decide (s.rd A.pGate k = 1) = false from hg]; decide)
  have frozen : ((s.wr A.pState k 2).wr A.remoteHold k 0).on A.pFrozen k = s.on A.pFrozen k := by
    rw [State.on, read (by decide) (by decide), ← State.on]
  have live : (s.resumed' k).replaying k = false := by
    rw [State.resumed', State.replaying, rf_wr _ _ _ _ _ (by decide), rf_wr _ _ _ _ _ (by decide), rf_wr _ _ _ _ _ (by decide),
      rf_wr _ _ _ _ _ (by decide)]
    exact hr
  unfold State.resume
  rw [if_neg waits, frozen, read (by decide) (by decide)]
  exact steps_or_rests live

/-! ### A write of HOLD_CTRL (R136) -/

theorem softSettle_own (s : State) (k : Nat) :
    (s.softSettle k).hasCause k 5 = true ↔ s.rf (P k) HOLD_CTRL_SWHOLD = 1 ∨ s.on A.lnHold k = true := by
  unfold State.softSettle
  split
  next h => rw [addCause_hasCause]; simp [h]
  next h => rw [dropCause_hasCause]; simp [h]

theorem softSettle_other (s : State) (k : Nat) {j c : Nat} (h : (j, c) ≠ (k, 5)) :
    (s.softSettle k).hasCause j c = s.hasCause j c := by
  unfold State.softSettle
  split
  · rw [addCause_hasCause, decide_eq_false h, Bool.or_false]
  · rw [dropCause_hasCause, decide_eq_true h, Bool.and_true]

theorem holdNow_hasCause (s : State) (k j c : Nat) : (s.holdNow k).hasCause j c = s.hasCause j c := by
  unfold State.holdNow
  split
  · rfl
  split
  · exact enterHeld_hasCause ..
  split
  · exact enterHeld_hasCause ..
  · rfl

theorem holdNow_rf (s : State) (k : Nat) {f : Fld} (h : HOLD_COUNT_COUNT.off ≠ f.off) : (s.holdNow k).rf (P k) f = s.rf (P k) f := by
  unfold State.holdNow
  split
  · rfl
  split
  · exact enterHeld_rf s k h
  split
  · rw [enterHeld_rf _ k h, rf_wr _ _ _ _ _ (by decide)]
  · rfl

theorem swhold_set (s : State) (k v : Nat) : (s.wf (P k) HOLD_CTRL_SWHOLD (slice v 0 1)).rf (P k) HOLD_CTRL_SWHOLD = v % 2 := by
  rw [State.rf_wf_same _ _ _ _ (by decide), slice, pow_zero, Nat.div_one]
  exact Nat.mod_mod _ 2

theorem swhold_rf (s : State) (k v : Nat) : (s.swhold k v).rf (P k) HOLD_CTRL_SWHOLD = v % 2 := by
  rw [State.swhold, holdNow_rf _ _ (by decide), State.rf, State.reg,
    (softSettle_calm (s.wf (P k) HOLD_CTRL_SWHOLD (slice v 0 1)) k).only.rd A.reg _ rfl]
  exact swhold_set ..

theorem swhold_hasCause (s : State) (k v : Nat) : (s.swhold k v).hasCause k 5 = true ↔ v % 2 = 1 ∨ s.on A.lnHold k = true := by
  rw [State.swhold, holdNow_hasCause, softSettle_own, swhold_set, State.on, State.rd_wf _ _ _ _ _ _ (by decide), ← State.on]

theorem swhold_other (s : State) (k v : Nat) {j c : Nat} (h : (j, c) ≠ (k, 5)) : (s.swhold k v).hasCause j c = s.hasCause j c := by
  rw [State.swhold, holdNow_hasCause, softSettle_other _ _ h]
  rfl

/-! ### Timeouts (R153, R154) -/

theorem timedOut_hasCause (s : State) (k : Nat) : (s.timedOut k).hasCause k 7 = true := by
  rw [State.timedOut, State.hasCause, (pullsChanged_beside _ k).causes]
  exact (addCause_hasCause s k 7 k 7).trans (by simp)

theorem timedOut_gatePull (s : State) (k : Nat) : (s.timedOut k).rd A.gatePull k = 7 := by
  rw [State.timedOut, (pullsChanged_beside _ k).arrays _ _ (by decide), State.rd_wr_same]
  rfl

end holds

/-- Settles O14: each command as one equation of `exec`, and what a hold, its end and a timeout leave in the slot. -/
theorem holdsAndTimeouts : Obligations.HoldsAndTimeouts := by
  unfold Obligations.HoldsAndTimeouts
  refine ⟨fun s slot others who val => ?_, fun s slot => ?_⟩
  · intro k pulled hc
    rw [exec_holdObserved hc slot others, exec_holdRelease hc slot others]
    refine ⟨fun h2 hp he => ?_, fun h2 hp hg => ?_, fun h3 hn hp hr => ?_, fun h2 => ?_, fun h2 h3 => ⟨?_, fun hl hp => ?_⟩,
      fun h => ⟨fun hm => ?_, fun hm => ?_⟩⟩
    · rw [if_pos ⟨loaded_of h2 (by decide), hp⟩, holdNow_evaluating (by rw [evaluating_observed]; exact he)]
    · rw [if_pos ⟨loaded_of h2 (by decide), hp⟩, holdNow_gate (k := k) (by rw [State.rd_wr_arr _ _ _ _ _ _ (by decide)]; exact h2)
        holdSeen_observed (by rw [State.on, State.rd_wr_arr _ _ _ _ _ _ (by decide)]; exact hg)]
      have kept := enterHeld_beside (s.wr A.remoteHold k 1) k
      refine ⟨_, rfl, enterHeld_pState _ k, ?_, enterHeld_holdTimer _ k, ?_, ?_⟩
      · rw [kept.arrays _ _ (by decide), State.rd_wr_same]
        rfl
      · rw [kept.arrays _ _ (by decide), State.rd_wr_arr _ _ _ _ _ _ (by decide)]
      · rw [enterHeld_count, rf_wr _ _ _ _ _ (by decide)]
    · rw [if_pos ⟨h3, by rw [hn]; decide, by rw [show (s.combined slot others.toNat).testBit 0 = false from hp]; decide⟩]
      by_cases hw : s.preFirst k = true ∨ s.on A.pGate k = true
      · rw [resume_waits hw]
        refine ⟨_, rfl, ?_, rfl, fun _ => ⟨?_, ?_⟩, fun hf hg => absurd hw (by rw [hf, hg]; decide)⟩
        · rw [State.rd_wr_same]
          rfl
        · rw [State.rd_wr_arr _ _ _ _ _ _ (by decide), State.rd_wr_same]
          rfl
        · rw [State.rd_wr_arr _ _ _ _ _ _ (by decide), State.rd_wr_arr _ _ _ _ _ _ (by decide)]
      · obtain ⟨hf, hg⟩ := not_or.1 hw
        have kept := resume_steps (eq_false_of_ne_true hf) (eq_false_of_ne_true hg) hr
        refine ⟨_, rfl, ?_, kept.mem, fun e => absurd e hw, fun _ _ lt => ?_⟩
        · rw [kept.arrays _ _ (by decide), State.resumed', State.rd_wr_arr _ _ _ _ _ _ (by decide),
            State.rd_wr_arr _ _ _ _ _ _ (by decide), State.rd_wr_same]
          rfl
        · rw [kept.arrays _ _ (by decide), State.resumed', State.rd_wr_arr _ _ _ _ _ _ (by decide), State.rd_wr_same]
          refine Nat.mod_eq_of_lt (?_ : _ < 2 ^ 10)
          split
          · omega
          · exact lt
    · rw [if_neg fun e => absurd (h2.symm.trans e.1) (by decide), if_neg fun e => e.1 (stoppable_iff.2 (.inl h2))]
    · have stopped : ¬ s.stoppable k = true := by
        rw [stoppable_iff]
        tauto
      rw [if_neg fun e => h3 e.1]
      by_cases hp : pulled = true
      · rw [if_neg fun e => e.2 hp, if_pos hp]
      · rw [if_pos ⟨stopped, hp⟩, if_neg hp]
    · rw [if_pos ⟨hl, hp⟩, holdNow_off (by rw [State.rd_wr_arr _ _ _ _ _ _ (by decide)]; exact h2)]
    · rw [show exec (.swholdWrite who slot val) s = _ from access_next h _
        fun s => if s.maySlot who slot then (s.swhold slot val.toNat).okay else s.deny, if_neg (by rw [hm]; decide)]
      rfl
    · rw [show exec (.swholdWrite who slot val) s = _ from access_next h _
        fun s => if s.maySlot who slot then (s.swhold slot val.toNat).okay else s.deny, if_pos hm]
      exact ⟨_, rfl, swhold_rf s k _, rfl, swhold_hasCause s k _, fun j c e => swhold_other s k _ e⟩
  · intro k hc
    rw [exec_holdTimeout hc slot, exec_gateTimeout hc slot]
    refine ⟨fun h3 => ⟨fun lt => ?_, fun le => ?_⟩, fun hw => ⟨fun lt => ?_, fun le => ?_⟩⟩
    · rw [if_neg fun e => absurd (of_decide_eq_true e.2) (Nat.not_le.2 lt)]
    · rw [if_pos ⟨h3, decide_eq_true le⟩]
      exact ⟨_, rfl, rfl, timedOut_hasCause _ k, timedOut_gatePull _ k⟩
    · rw [if_neg fun e => absurd (of_decide_eq_true e.2) (Nat.not_le.2 lt)]
    · rw [if_pos ⟨hw, decide_eq_true le⟩]
      exact ⟨_, rfl, rfl, timedOut_hasCause _ k, timedOut_gatePull _ k⟩

end Sys2Proof.Machine

/-! SUPPORT and CERTIFICATE. Registers (chapter 0, R9 to R11): the access types of fields, locks, pairs, and the accesses of
one register as commands. -/

namespace Sys2Proof.Machine

open Reg

/-! ### Fields (R9) -/

/-- Two fields of one register share no bit. -/
def Fld.Apart (f g : Fld) : Prop := f.lo + f.w ≤ g.lo ∨ g.lo + g.w ≤ f.lo

/-- No two fields of a list share a bit of one register. -/
def apartIn : List Fld → Bool
  | [] => true
  | f :: r => r.all (fun g => !Nat.beq f.off g.off || Nat.ble (f.lo + f.w) g.lo || Nat.ble (g.lo + g.w) f.lo) && apartIn r

theorem pairwise_of_apartIn {l : List Fld} (h : apartIn l = true) : l.Pairwise fun f g => f.off = g.off → f.Apart g := by
  induction l with
  | nil => exact .nil
  | cons f r ih =>
    obtain ⟨first, rest⟩ := Bool.and_eq_true_iff.1 h
    refine .cons (fun g hg e => ?_) (ih rest)
    have := List.all_eq_true.1 first g hg
    simpa [e, Nat.ble_eq, Nat.beq_eq, Fld.Apart] using this

theorem flds_pairwise (w : Win) : w.flds.Pairwise fun f g => f.off = g.off → f.Apart g :=
  pairwise_of_apartIn (by cases w <;> decide +kernel)

theorem flds_within (w : Win) : ∀ f ∈ w.flds, f.lo + f.w ≤ 32 := by
  have all : (w.flds.all fun f => Nat.ble (f.lo + f.w) 32) = true := by cases w <;> decide +kernel
  exact fun f hf => Nat.le_of_ble_eq_true (List.all_eq_true.1 all f hf)

theorem place_flds_apart (p : Place) : p.flds.Pairwise Fld.Apart :=
  ((flds_pairwise p.win).filter _).imp_of_mem fun hf hg h =>
    h ((of_decide_eq_true (List.mem_filter.1 hf).2).trans (of_decide_eq_true (List.mem_filter.1 hg).2).symm)

theorem place_flds_within (p : Place) : ∀ f ∈ p.flds, f.lo + f.w ≤ 32 := fun f hf => flds_within p.win f (List.mem_filter.1 hf).1

/-- What a write of `v` leaves in a field of the register that held `cur`. -/
def Fld.written (f : Fld) (v cur : Nat) : Nat :=
  match f.acc with
  | .rw => slice v f.lo f.w
  | .w1c => slice cur f.lo f.w &&& ((2 ^ f.w - 1) ^^^ slice v f.lo f.w)
  | .w1s => slice cur f.lo f.w ||| slice v f.lo f.w
  | _ => slice cur f.lo f.w

theorem written_lt (f : Fld) (v cur : Nat) : f.written v cur < 2 ^ f.w := by
  unfold Fld.written
  split
  · exact slice_lt ..
  · exact lt_of_le_of_lt Nat.and_le_left (slice_lt ..)
  · exact Nat.or_lt_two_pow (slice_lt ..) (slice_lt ..)
  · exact slice_lt ..

theorem put_same (f : Fld) (v cur : Nat) : slice (f.put v cur) f.lo f.w = f.written v cur := by
  have lt := written_lt f v cur
  unfold Fld.put Fld.written at *
  split at lt <;> simp_all only [slice_patch_same, Nat.mod_eq_of_lt]

theorem put_slice_ne (f : Fld) (v cur : Nat) {lo w : Nat} (h : lo + w ≤ f.lo ∨ f.lo + f.w ≤ lo) :
    slice (f.put v cur) lo w = slice cur lo w := by
  unfold Fld.put
  split
  · exact slice_patch_ne _ _ _ _ _ _ h
  · exact slice_patch_ne _ _ _ _ _ _ h
  · exact slice_patch_ne _ _ _ _ _ _ h
  · rfl

theorem put_lt (f : Fld) (v : Nat) {cur : Nat} (hf : f.lo + f.w ≤ 32) (h : cur < 2 ^ 32) : f.put v cur < 2 ^ 32 := by
  unfold Fld.put
  split
  · exact patch_lt _ _ _ _ _ h hf
  · exact patch_lt _ _ _ _ _ h hf
  · exact patch_lt _ _ _ _ _ h hf
  · exact h

/-- A write of the fields of `l`. -/
def putAll (l : List Fld) (v cur : Nat) : Nat := l.foldl (fun cur f => f.put v cur) cur

theorem putAll_slice_ne {l : List Fld} (v : Nat) {lo w : Nat} (h : ∀ f ∈ l, lo + w ≤ f.lo ∨ f.lo + f.w ≤ lo) (cur : Nat) :
    slice (putAll l v cur) lo w = slice cur lo w := by
  induction l generalizing cur with
  | nil => rfl
  | cons f r ih =>
    exact (ih (fun g hg => h g (List.mem_cons_of_mem _ hg)) _).trans (put_slice_ne f v cur (h f List.mem_cons_self))

theorem written_congr (f : Fld) (v : Nat) {cur cur' : Nat} (h : slice cur' f.lo f.w = slice cur f.lo f.w) :
    f.written v cur' = f.written v cur := by simp only [Fld.written, h]

theorem putAll_same {l : List Fld} (hl : l.Pairwise Fld.Apart) (v cur : Nat) {f : Fld} (hf : f ∈ l) :
    slice (putAll l v cur) f.lo f.w = f.written v cur := by
  induction l generalizing cur with
  | nil => cases hf
  | cons g r ih =>
    obtain ⟨apart, rest⟩ := List.pairwise_cons.1 hl
    rcases List.mem_cons.1 hf with rfl | hr
    · exact (putAll_slice_ne v (fun h hh => apart h hh) _).trans (put_same f v cur)
    · exact (ih rest _ hr).trans (written_congr f v (put_slice_ne g v cur (apart f hr).symm))

theorem putAll_lt {l : List Fld} (v : Nat) (h : ∀ f ∈ l, f.lo + f.w ≤ 32) {cur : Nat} (hc : cur < 2 ^ 32) : putAll l v cur < 2 ^ 32 := by
  induction l generalizing cur with
  | nil => exact hc
  | cons f r ih =>
    exact ih (fun g hg => h g (List.mem_cons_of_mem _ hg)) (put_lt f v (h f List.mem_cons_self) hc)

section fields
variable (s : State) (p : Place) (off v : Nat)

theorem putFields_same : (s.putFields p off v).reg off = putAll p.flds v (s.reg off) :=
  (State.rd_wr_same ..).trans (Nat.mod_eq_of_lt (putAll_lt v (place_flds_within p) (State.rd_lt s A.reg off)))

theorem putFields_ne {o : Nat} (h : o ≠ off) : (s.putFields p off v).reg o = s.reg o := State.rd_wr_ix _ _ _ _ _ h.symm

theorem putFields_written {f : Fld} (hf : f ∈ p.flds) : slice ((s.putFields p off v).reg off) f.lo f.w = f.written v (s.reg off) := by
  rw [putFields_same, putAll_same (place_flds_apart p) v _ hf]

theorem putFields_reserved {i : Nat} (h : ∀ f ∈ p.flds, ¬ (f.lo ≤ i ∧ i < f.lo + f.w)) :
    ((s.putFields p off v).reg off).testBit i = (s.reg off).testBit i := by
  rw [putFields_same, testBit_slice, testBit_slice (s.reg off), putAll_slice_ne v (fun f hf => by have := h f hf; omega)]

end fields

/-! ### Events that a raise leaves up (R472) -/

theorem routeFlag_low (s : State) (o : Option Nat) (v : Nat) {r : Nat} (hr : r < 0x800000) : (s.routeFlag o v).reg r = s.reg r := by
  have check (t : Nat) : (s.setFlag t (slice v 13 5)).reg r = s.reg r := by
    have set : (s.wr A.tFlags t (s.rd A.tFlags t ||| 2 ^ slice v 13 5)).Only [114, 121, 123, 126, 127] (s.setFlag t (slice v 13 5)) :=
      (((((State.Only.refl ..).wr _ _ rfl).wr _ _ rfl).wr _ _ rfl |>.wr _ _ rfl).wr _ _ rfl).ite (.refl ..)
    exact (set.rd A.reg r rfl).trans (State.rd_wr_arr _ _ _ _ _ _ (by decide))
  unfold State.routeFlag
  dsimp only
  split
  · rfl
  split
  · exact check _
  · exact State.rd_wr_ix _ _ _ _ _ (by unfold D Off.die; omega)

theorem routeVec_status (s : State) (o : Option Nat) (v : Nat) {r : Nat} (hr : r ≠ oEVT_DROP) : (s.routeVec o v).reg r = s.reg r := by
  unfold State.routeVec
  dsimp only
  split
  · rfl
  split
  · exact State.rd_wr_arr _ _ _ _ _ _ (by decide)
  · exact State.rd_wr_ix _ _ _ _ _ (by simpa [EVT_DROP_DROPS, oEVT_DROP] using hr.symm)

/-- A raise changes no register below the windows of the dies but its EVT_STATUS and the drop counter. -/
theorem raise_reg (s : State) {src r : Nat} (hr : r < 0x800000) (hd : r ≠ oEVT_DROP) : (s.raise src).reg r = (s.seen src).reg r := by
  rw [raise_eq, routeVec_status _ _ _ hd, routeFlag_low _ _ _ hr]

/-- The event of source `src` is up. -/
def State.up (s : State) (src : Nat) : Bool := (s.reg (oEVT_STATUS + 4 * (src / 32))).testBit (src % 32)

theorem raise_up (s : State) {src j : Nat} (h : j < 1536) : (s.raise src).up j = (s.up j || decide (j = src)) := by
  rw [State.up, raise_reg s (by simp only [oEVT_STATUS]; omega) (by simp only [oEVT_STATUS, oEVT_DROP]; omega), State.seen]
  by_cases e : j / 32 = src / 32
  · have fits : s.reg (oEVT_STATUS + 4 * (src / 32)) ||| 2 ^ (src % 32) < 2 ^ A.reg.width :=
      Nat.or_lt_two_pow (State.rd_lt s A.reg _) (Nat.pow_lt_pow_right (by decide) (Nat.mod_lt src (by decide)))
    rw [e, show State.reg (s.wr A.reg (oEVT_STATUS + 4 * (src / 32)) _) _ = _ from State.rd_wr_same .., Nat.mod_eq_of_lt fits,
      Nat.testBit_or, Nat.testBit_two_pow, State.up, e]
    congr 1
    rw [decide_eq_decide]
    omega
  · rw [show State.reg (s.wr A.reg (oEVT_STATUS + 4 * (src / 32)) _) _ = _ from State.rd_wr_ix _ _ _ _ _ (by omega), decide_eq_false (by rintro rfl; exact e rfl),
      Bool.or_false]
    rfl

/-! ### Accesses of one register -/

theorem placeOf_dev {o : Nat} (h : o < 0x100000) : placeOf o = some ⟨.dev, 0, o⟩ := if_pos h

theorem placeOf_part {k o : Nat} (hk : k < 32) (ho : o < 0x1000) : placeOf (P k + o) = some ⟨.part, k, o⟩ := by
  have at_ : P k + o = 0x100000 + 0x1000 * k + o := by simp only [P, Off.part]; omega
  have slot : (P k + o - 0x100000) / 0x1000 = k := by omega
  have reg : (P k + o) % 0x1000 = o := by omega
  rw [placeOf, if_neg (by omega), if_pos (by omega), slot, reg]

/-- A register of a die's window below the queues'. -/
theorem placeOf_die {d o : Nat} (hd : d < 8) (ho : o < 0x40800) : placeOf (D d + o) = some ⟨.die, d, o⟩ := by
  have at_ : D d + o = 0x800000 * (d + 1) + o := by simp only [D, Off.die]; omega
  have die : (D d + o) / 0x800000 - 1 = d := by omega
  have reg : (D d + o) % 0x800000 = o := by omega
  rw [placeOf, if_neg (by omega), if_neg (by omega), if_neg (by omega), if_pos (by omega), die, reg]
  exact if_pos ho

section accesses
variable {s : State} {who : Who} {off : Nat} {val : Word}

theorem exec_registerWrite : exec (.registerWrite who off val) s = s.busWrite who off val.toNat (.registerWrite who off val) := rfl
theorem exec_rcRead : exec (.rcRead who off) s = s.busRead who off (.rcRead who off) := rfl
theorem exec_lohiLoWrite : exec (.lohiLoWrite who off val) s = s.busWrite who off val.toNat (.lohiLoWrite who off val) := rfl
theorem exec_lohiHiWrite : exec (.lohiHiWrite who off val) s = s.busWrite who off val.toNat (.lohiHiWrite who off val) := rfl
theorem exec_lohiLoRead : exec (.lohiLoRead who off) s = s.busRead who off (.lohiLoRead who off) := rfl

theorem bus_read (h : s.Serving who) (ho : off < csrBase) (hd : s.domOf off none = none) (c : Instr) :
    s.busRead who off c = .next (s.readReg who off) := by
  rw [State.busRead, csrOf, if_neg (Nat.not_le.2 ho)]
  show s.accessIn who (s.domOf off none) 0 c _ = _
  rw [hd]
  exact accessAs_on h c 0 fun s => .next (s.readReg who off)

theorem bus_write (h : s.Serving who) (ho : off < csrBase) {v : Nat} (hd : s.domOf off (some v) = none) (c : Instr) :
    s.busWrite who off v c = .next (s.writeReg who off v) := by
  rw [State.busWrite, csrOf, if_neg (Nat.not_le.2 ho)]
  show s.accessIn who (s.domOf off (some v)) _ c _ = _
  rw [hd]
  exact accessAs_on h c _ fun s => .next (s.writeReg who off v)

theorem domOf_none (h : placeOf off = none) (w : Option Nat) : s.domOf off w = none := by
  rw [State.domOf, h]

/-- Registers of the device and of the partitions need no power domain. -/
theorem domOf_base {p : Place} (h : placeOf off = some p) (hw : p.win = .dev ∨ p.win = .part) (w : Option Nat) : s.domOf off w = none := by
  have go : s.domOfGo p = none := if_pos (by rcases hw with e | e <;> rw [e] <;> decide)
  have dom : domOfPlace p = none := by unfold domOfPlace; rcases hw with e | e <;> rw [e]
  rw [State.domOf, h]
  cases w with
  | none => simp [dom]
  | some v => simp [dom, go]

/-- A read of a partition's register by one that may act on it. -/
theorem readReg_part {k o : Nat} (hk : k < 32) (ho : o < 0x1000) (ha : (Place.mk .part k o).assigned = true)
    (hm : s.maySlot who k = true) : s.readReg who (P k + o) = s.readPlain who ⟨.part, k, o⟩ (P k + o) := by
  have may : s.mayRead who ⟨.part, k, o⟩ = true := hm
  simp [State.readReg, placeOf_part hk ho, ha, may, Place.chainReg]

theorem writeReg_part {k o v : Nat} (hk : k < 32) (ho : o < 0x1000) (ha : (Place.mk .part k o).assigned = true) :
    s.writeReg who (P k + o) v = s.writePart who ⟨.part, k, o⟩ (P k + o) v := by
  simp [State.writeReg, placeOf_part hk ho, ha]

theorem writeReg_dev {o v : Nat} (ho : o < 0x100000) (ha : (Place.mk .dev 0 o).assigned = true) :
    s.writeReg who o v = s.writeDev who ⟨.dev, 0, o⟩ o v := by
  simp [State.writeReg, placeOf_dev ho, ha]

/-! ### Unassigned offsets (R10) -/

theorem readReg_unassigned (h : placeOf off = none ∨ ∃ p, placeOf off = some p ∧ p.assigned = false) : s.readReg who off = s.ans 0 0 := by
  rcases h with h | ⟨p, h, ha⟩
  · simp [State.readReg, h]
  · simp [State.readReg, h, ha]

theorem writeReg_unassigned (h : placeOf off = none ∨ ∃ p, placeOf off = some p ∧ p.assigned = false) (v : Nat) :
    s.writeReg who off v = s.ans 0 0 := by
  rcases h with h | ⟨p, h, ha⟩
  · simp [State.writeReg, h, State.okay]
  · simp [State.writeReg, h, ha, State.okay]

/-! ### WAKE_CFG and BAY_ECC_COUNT -/

theorem pfWrite_may {f : State → State} (h : s.pfRights who = true) : s.pfWrite who f = (f s).ans 0 0 := if_pos h

theorem pfWrite_denied {f : State → State} (h : s.pfRights who = false) : s.pfWrite who f = s.ans 1 0 := if_neg (by rw [h]; decide)

/-- A register with neither a pair's half nor a field of type WL. -/
theorem putAny_plain {p : Place} (h : (p.isLo || p.isHi) = false) (hm : p.mask (· = .wl) = 0) (v : Nat) :
    s.putAny p off v = s.putFields p off v := by
  rw [State.putAny, if_neg (by simpa using h), State.putReg, State.putLocked, if_pos hm]

theorem writeReg_wakeCfg (v : Nat) : s.writeReg who oWAKE_CFG v =
    s.pfWrite who fun s => s.putFields ⟨.dev, 0, oWAKE_CFG⟩ oWAKE_CFG v := by
  rw [writeReg_dev (by decide) (by decide +kernel)]
  show s.pfWrite who (fun s => s.putAny ⟨.dev, 0, oWAKE_CFG⟩ oWAKE_CFG v) = _
  exact congrArg (s.pfWrite who) (funext fun s => putAny_plain (by decide +kernel) (by decide +kernel) v)

theorem bayEcc_mask (d : Fin 8) : (Place.mk .die d oBAY_ECC_COUNT).mask (· = .rc) = 0xFFFFFFFF ∧
    (Place.mk .die d oBAY_ECC_COUNT).mask (· ≠ .wo) = 0xFFFFFFFF := by
  revert d; decide +kernel

theorem reg_full (s : State) (o : Nat) : s.reg o &&& 0xFFFFFFFF = s.reg o := by
  rw [show 0xFFFFFFFF = 2 ^ 32 - 1 from rfl, Nat.and_two_pow_sub_one_eq_mod]
  exact Nat.mod_eq_of_lt (State.rd_lt s A.reg o)

theorem clearBits_all (v : Nat) : clearBits v 0xFFFFFFFF = 0 := Nat.and_zero v

theorem bayEcc_first : Win.first .die oBAY_ECC_COUNT = (oBAY_ECC_COUNT, 0) := by decide +kernel

theorem bayEcc_mayRead (d : Nat) : s.mayRead who ⟨.die, d, oBAY_ECC_COUNT⟩ = true := by
  show s.mayReadDie who ⟨.die, d, oBAY_ECC_COUNT⟩ = true
  unfold State.mayReadDie
  simp only [bayEcc_first]
  simp [oBAY_ECC_COUNT, oPORTAL_STATUS, oPORTAL_OUT, oPORTAL_STALE, oPORTAL_CALLS, oCORE_BIND, oCORE_BUSY_LO, oDISP_STATUS,
    oDISP_XPART_DROP, oTASK_CFG, oTASK_FLAGS, oPROBE_WORD_CFG]

theorem bayEcc_shown (d : Fin 8) : s.shown who ⟨.die, d, oBAY_ECC_COUNT⟩ (D d + oBAY_ECC_COUNT) = s.reg (D d + oBAY_ECC_COUNT) := by
  rw [State.shown, (bayEcc_mask d).2, reg_full]
  show s.dieShown d ⟨.die, d, oBAY_ECC_COUNT⟩ _ = _
  unfold State.dieShown
  simp only [bayEcc_first]
  simp [oBAY_ECC_COUNT, oPORTAL_STATUS, oPORTAL_OUT, oPORTAL_STALE, oPORTAL_CALLS, oCORE_BIND, oCORE_BUSY_LO, oCORE_BUSY_HI,
    oCORE_IDLE_LO, oCORE_IDLE_HI, oDISP_STATUS, oTASK_CFG, oTASK_WAIT, oTASK_TIMEOUT, oTASK_ARG_LO, oTASK_ARG_HI, oTASK_STATE,
    oTASK_HIST, oTASK_WAITMAX, oTASK_FLAGS]

theorem bayEcc_clear (d : Fin 8) : s.clearRc who ⟨.die, d, oBAY_ECC_COUNT⟩ (D d + oBAY_ECC_COUNT) = s.wr A.reg (D d + oBAY_ECC_COUNT) 0 := by
  unfold State.clearRc
  simp only [bayEcc_first, (bayEcc_mask d).1, clearBits_all]
  simp [oBAY_ECC_COUNT, oPORTAL_STALE]

theorem readReg_bayEcc (d : Fin 8) : s.readReg who (D d + oBAY_ECC_COUNT) =
    (s.wr A.reg (D d + oBAY_ECC_COUNT) 0).ans 0 (s.reg (D d + oBAY_ECC_COUNT)) := by
  have assigned : (Place.mk .die d oBAY_ECC_COUNT).assigned = true := by revert d; decide +kernel
  have single : (Place.mk .die d oBAY_ECC_COUNT).isLo = false ∧ (Place.mk .die d oBAY_ECC_COUNT).isHi = false := by
    revert d; decide +kernel
  rw [State.readReg, placeOf_die d.isLt (by decide)]
  simp only [assigned, bayEcc_mayRead, Place.chainReg, State.readPlain, single, bayEcc_shown, bayEcc_clear]
  simp [oBAY_ECC_COUNT, oPROBE_MAP_DATA, oHBM_OWN_DATA]

/-! ### Locks (R362) -/

/-- The first write of a register all of whose fields are of type WL. -/
theorem putLocked_first {p : Place} {m : Nat} (h : p.mask (· = .wl) = m) (h0 : m ≠ 0) (hs : s.rd A.wlSet off = 0) (v : Nat) :
    s.putLocked p off v = (s.wr A.reg off (clearBits (s.reg off) m ||| (v &&& m))).wr A.wlSet off m := by
  rw [State.putLocked, h, if_neg h0, if_neg (by rw [hs]; decide)]

theorem putLocked_again {p : Place} {m : Nat} (h : p.mask (· = .wl) = m) (h0 : m ≠ 0) (hs : s.rd A.wlSet off ≠ 0) (v : Nat) :
    s.putLocked p off v = s.violation off := by
  rw [State.putLocked, h, if_neg h0, if_pos hs]

theorem clearBits_or_testBit (v w : Nat) {m i : Nat} (h : i < 32) :
    (clearBits v m ||| (w &&& m)).testBit i = if m.testBit i then w.testBit i else v.testBit i := by
  rw [clearBits, Nat.testBit_or, Nat.testBit_and, Nat.testBit_and, Nat.testBit_xor, show 0xFFFFFFFF = 2 ^ 32 - 1 from rfl,
    Nat.testBit_two_pow_sub_one, decide_eq_true h]
  cases m.testBit i <;> simp

theorem mask_lt {m i : Nat} (hm : m < 2 ^ 32) (h : m.testBit i = true) : i < 32 := by
  by_contra hi
  rw [Nat.testBit_lt_two_pow (lt_of_lt_of_le hm (Nat.pow_le_pow_right (by decide) (not_lt.1 hi)))] at h
  cases h

/-- What the first write of a locked register leaves in it. -/
theorem locked_reads {m v : Nat} (hm : m < 2 ^ 32) :
    let t := (s.wr A.reg off (clearBits (s.reg off) m ||| (v &&& m))).wr A.wlSet off m
    t.reg off &&& m = v &&& m ∧ (∀ i, m.testBit i = false → (t.reg off).testBit i = (s.reg off).testBit i) ∧
      t.rd A.wlSet off = m % 2 ^ A.wlSet.width ∧ (∀ o, o ≠ off → t.reg o = s.reg o) := by
  intro t
  have bits {i : Nat} : (t.reg off).testBit i = (decide (i < 32) && (clearBits (s.reg off) m ||| (v &&& m)).testBit i) := by
    rw [show t.reg off = _ % 2 ^ 32 from (State.rd_wr_arr _ _ _ _ _ _ (by decide)).trans (State.rd_wr_same ..), Nat.testBit_mod_two_pow]
  refine ⟨Nat.eq_of_testBit_eq fun i => ?_, fun i hi => ?_, State.rd_wr_same .., fun o ho => ?_⟩
  · rw [Nat.testBit_and, Nat.testBit_and, bits]
    cases hb : m.testBit i
    · simp
    · rw [decide_eq_true (mask_lt hm hb), clearBits_or_testBit _ _ (mask_lt hm hb), hb]
      rfl
  · rw [bits]
    by_cases h : i < 32
    · rw [decide_eq_true h, clearBits_or_testBit _ _ h, hi]
      rfl
    · have low : s.reg off < 2 ^ 32 := State.rd_lt ..
      rw [decide_eq_false h, Nat.testBit_lt_two_pow (lt_of_lt_of_le low (Nat.pow_le_pow_right (by decide) (not_lt.1 h)))]
      rfl
  · exact (State.rd_wr_arr _ _ _ _ _ _ (by decide)).trans (State.rd_wr_ix _ _ _ _ _ ho.symm)

/-- A register of type WL alone: none of its fields takes a plain write. -/
theorem putFields_none {p : Place} (h : ∀ f ∈ p.flds, f.acc = .wl) (v : Nat) : s.putFields p off v = s.wr A.reg off (s.reg off) := by
  have none_ : ∀ l : List Fld, (∀ f ∈ l, f.acc = .wl) → ∀ cur, l.foldl (fun cur f => f.put v cur) cur = cur := by
    intro l
    induction l with
    | nil => exact fun _ _ => rfl
    | cons f r ih =>
      intro hl cur
      rw [List.foldl_cons, ih fun g hg => hl g (List.mem_cons_of_mem _ hg), Fld.put, hl f List.mem_cons_self]
  rw [State.putFields, none_ _ h]

/-- A register that is written what it holds. -/
theorem reg_rewrite (s : State) (off o : Nat) : (s.wr A.reg off (s.reg off)).reg o = s.reg o := by
  by_cases h : o = off
  · rw [h]
    exact (State.rd_wr_same ..).trans (Nat.mod_eq_of_lt (State.rd_lt ..))
  · exact State.rd_wr_ix _ _ _ _ _ (Ne.symm h)

/-- SEC_LOCK and TAMPER_CFG: their fields, all of type WL. -/
def lockRegs : List (Nat × Nat) := [(oSEC_LOCK, 7), (oTAMPER_CFG, 31)]

theorem lockRegs_fields : ∀ x ∈ lockRegs, x.1 < 0x100000 ∧ (Place.mk .dev 0 x.1).assigned = true ∧ (∀ f ∈ (Place.mk .dev 0 x.1).flds, f.acc = .wl) ∧
    (Place.mk .dev 0 x.1).mask (· = .wl) = x.2 ∧ ((Place.mk .dev 0 x.1).isLo || (Place.mk .dev 0 x.1).isHi) = false ∧
    x.2 % 2 ^ A.wlSet.width = x.2 ∧ x.2 ≠ 0 ∧ x.2 < 2 ^ 32 := by decide +kernel

theorem writeReg_lock {x : Nat × Nat} (hx : x ∈ lockRegs) (hw : x.1 = oTAMPER_CFG → who = .boot) (hp : s.pfRights who = true) (v : Nat) :
    s.writeReg who x.1 v = (s.putReg ⟨.dev, 0, x.1⟩ x.1 v).ans 0 0 := by
  obtain ⟨dev, assigned, -, -, single, -⟩ := lockRegs_fields x hx
  rw [writeReg_dev dev assigned]
  simp only [lockRegs, List.mem_cons, List.not_mem_nil, or_false] at hx
  rcases hx with rfl | rfl
  · show s.pfWrite who (fun s => s.putAny ⟨.dev, 0, oSEC_LOCK⟩ oSEC_LOCK v) = _
    rw [pfWrite_may hp, State.putAny, if_neg (by rw [Bool.or_eq_false_iff] at single; rw [single.1, single.2]; decide)]
  · rw [hw rfl]
    rfl

/-- The first write of a lock register. -/
theorem lock_first {x : Nat × Nat} (hx : x ∈ lockRegs) (hs : s.rd A.wlSet x.1 = 0) (v : Nat) :
    let t := s.putReg ⟨.dev, 0, x.1⟩ x.1 v
    t.reg x.1 &&& x.2 = v &&& x.2 ∧ (∀ i, x.2.testBit i = false → (t.reg x.1).testBit i = (s.reg x.1).testBit i) ∧
      t.rd A.wlSet x.1 = x.2 ∧ (∀ o, o ≠ x.1 → t.reg o = s.reg o) := by
  obtain ⟨-, -, locks, mask, -, wide, some_, low⟩ := lockRegs_fields x hx
  obtain ⟨set, kept, flag, others⟩ := locked_reads (s := s.wr A.reg x.1 (s.reg x.1)) (off := x.1) (v := v) low
  intro t
  have eq : t = _ := (congrArg (fun u => State.putLocked u ⟨.dev, 0, x.1⟩ x.1 v) (putFields_none locks v)).trans
    (putLocked_first mask some_ ((State.rd_wr_arr _ _ _ _ _ _ (by decide)).trans hs) v)
  rw [eq]
  exact ⟨set, fun i hi => (kept i hi).trans (by rw [reg_rewrite]), flag.trans wide, fun o ho => (others o ho).trans (reg_rewrite ..)⟩

/-- A write that R362 refuses. -/
theorem violation_reads (s : State) (off : Nat) {o : Nat} (ho : o < 0x1000) (h1 : o ≠ oLOCK_VIOLATION) (h2 : o ≠ oLOCK_VIOLATION_ADDR) :
    (s.violation off).reg o = s.reg o := by
  have raised : (s.violation off).reg o = ((s.cnt 0 LOCK_VIOLATION_COUNT 1).wr A.reg oLOCK_VIOLATION_ADDR off).reg o :=
    (raise_calm _ 0x5BB).low o ho
  rw [raised]
  exact (State.rd_wr_ix _ _ _ _ _ h2.symm).trans (State.rd_wr_ix _ _ _ _ _ (by simpa [LOCK_VIOLATION_COUNT, oLOCK_VIOLATION] using h1.symm))

theorem violation_counts (s : State) (off : Nat) :
    (s.violation off).rf 0 LOCK_VIOLATION_COUNT = min 0xFFFF (s.rf 0 LOCK_VIOLATION_COUNT + 1) := by
  have raised : (s.violation off).rf 0 LOCK_VIOLATION_COUNT =
      ((s.cnt 0 LOCK_VIOLATION_COUNT 1).wr A.reg oLOCK_VIOLATION_ADDR off).rf 0 LOCK_VIOLATION_COUNT :=
    (raise_calm _ 0x5BB).rf (by decide)
  rw [raised, State.rf, show State.reg (State.wr _ A.reg oLOCK_VIOLATION_ADDR off) (0 + LOCK_VIOLATION_COUNT.off) = _ from
    State.rd_wr_ix _ _ _ _ _ (by decide)]
  exact (State.rf_wf_same _ _ _ _ (by decide)).trans (Nat.mod_eq_of_lt (lt_of_le_of_lt (Nat.min_le_left ..) (by decide)))

theorem violation_addr (s : State) {off : Nat} (h : off < 2 ^ 32) : (s.violation off).reg oLOCK_VIOLATION_ADDR = off := by
  have raised : (s.violation off).reg oLOCK_VIOLATION_ADDR =
      ((s.cnt 0 LOCK_VIOLATION_COUNT 1).wr A.reg oLOCK_VIOLATION_ADDR off).reg oLOCK_VIOLATION_ADDR :=
    (raise_calm _ 0x5BB).low _ (by decide)
  rw [raised]
  exact (State.rd_wr_same ..).trans (Nat.mod_eq_of_lt h)

theorem violation_up (s : State) (off : Nat) : (s.violation off).up 0x5BB = true := by
  rw [State.violation, raise_up _ (by decide)]
  simp

/-- A later write of a lock register is a violation. -/
theorem lock_again {x : Nat × Nat} (hx : x ∈ lockRegs) (hs : s.rd A.wlSet x.1 ≠ 0) (v : Nat) :
    s.putReg ⟨.dev, 0, x.1⟩ x.1 v = (s.wr A.reg x.1 (s.reg x.1)).violation x.1 := by
  obtain ⟨-, -, locks, mask, -, -, some_, -⟩ := lockRegs_fields x hx
  exact (congrArg (fun u => State.putLocked u ⟨.dev, 0, x.1⟩ x.1 v) (putFields_none locks v)).trans
    (putLocked_again mask some_ (fun e => hs ((State.rd_wr_arr _ _ _ _ _ _ (by decide)).symm.trans e)) v)

/-! ### The pairs REC_DUMP_FROM and REC_DUMP_TO (R11) -/

def dumpPairs : List Nat := [oREC_DUMP_FROM_LO, oREC_DUMP_TO_LO]

theorem dumpPairs_places : ∀ o ∈ dumpPairs, o + 4 < 0x1000 ∧ ∀ k : Fin 32, (Place.mk .part k o).assigned = true ∧
    (Place.mk .part k (o + 4)).assigned = true ∧ (Place.mk .part k o).isLo = true ∧ (Place.mk .part k (o + 4)).isLo = false ∧
    (Place.mk .part k (o + 4)).isHi = true ∧ (Place.mk .part k o).writable = true ∧ (Place.mk .part k (o + 4)).writable = true ∧
    (Place.mk .part k o).pairBits = (0xFFFFFFFF, 0xFFFF) ∧ (Place.mk .part k o).mask (· ≠ .wo) = 0xFFFFFFFF ∧
    (Place.mk .part k (o + 4)).mask (· ≠ .wo) = 0xFFFFFFFF := by decide +kernel

/-- Registers of a partition's block that have an operation of their own. -/
def partOps : List Nat := [oPART_RESET, oPART_CMD, oCFGTX, oESEQ_RELOAD, oFAULT_CFG, oESEQ_DATA_LO, oESEQ_DATA_HI, oHOLD_CTRL, oHOLD_LIMIT,
  oPLUMB_CFG, oMEM_PS_DONE, oREC_CTRL, oREC_CFG, oREC_POST, oREC_REGION, oREC_REPLAY, oREC_TAIL_HI]

theorem writePart_plain {k o : Nat} (h : partOps.contains o = false) (hm : s.maySlot who k = true) (off v : Nat) :
    s.writePart who ⟨.part, k, o⟩ off v = (s.putAny ⟨.part, k, o⟩ off v).ans 0 0 := by
  simp only [partOps, List.contains_eq_mem, List.mem_cons, List.not_mem_nil, or_false, decide_eq_false_iff_not, not_or] at h
  obtain ⟨h1, h2, h3, h4, h5, h6, h7, h8, h9, h10, h11, h12, h13, h14, h15, h16, h17⟩ := h
  simp only [State.writePart, h1, h2, h3, h4, h5, h6, h7, h8, h9, h10, h11, h12, h13, h14, h15, h16, h17, hm, if_false, or_self,
    not_true_eq_false]
  rfl

/-- Registers of a partition's block that show the state of the slot. -/
def partViews : List Nat := [oPART_STATUS, oPART_CYCLE_LO, oPART_CYCLE_HI, oPART_IMAGE_ID_LO, oPART_IMAGE_ID_HI, oCFGTX, oESEQ_DATA_LO,
  oESEQ_DATA_HI, oHOLD_STATUS, oHOLD_ITEM_LOC, oHOLD_ITEM_IDX, oREC_STATUS]

theorem shown_part {k o : Nat} (h : partViews.contains o = false) (hm : (Place.mk .part k o).mask (· ≠ .wo) = 0xFFFFFFFF) (off : Nat) :
    s.shown who ⟨.part, k, o⟩ off = s.reg off := by
  simp only [partViews, List.contains_eq_mem, List.mem_cons, List.not_mem_nil, or_false, decide_eq_false_iff_not, not_or] at h
  obtain ⟨h1, h2, h3, h4, h5, h6, h7, h8, h9, h10, h11, h12⟩ := h
  rw [State.shown, hm, reg_full]
  simp only [State.partShown, h1, h2, h3, h4, h5, h6, h7, h8, h9, h10, h11, h12, if_false]

theorem dumpPairs_plain : ∀ o ∈ dumpPairs, partOps.contains o = false ∧ partOps.contains (o + 4) = false ∧
    partViews.contains o = false ∧ partViews.contains (o + 4) = false := by decide +kernel

theorem domOf_bayEcc (d : Fin 8) : s.domOf (D d + oBAY_ECC_COUNT) none = none := by
  rw [State.domOf, placeOf_die d.isLt (by decide)]
  rfl

theorem read_bayEcc (h : s.Serving who) (d : Fin 8) : exec (.rcRead who (D d + oBAY_ECC_COUNT)) s =
    .next ((s.wr A.reg (D d + oBAY_ECC_COUNT) 0).ans 0 (s.reg (D d + oBAY_ECC_COUNT))) := by
  have low : D d + oBAY_ECC_COUNT < csrBase := by
    have := d.isLt
    simp only [csrBase, D, Off.die, oBAY_ECC_COUNT]
    omega
  rw [exec_rcRead, bus_read h low (domOf_bayEcc d), readReg_bayEcc]

/-- The lock registers lie apart from those of the violations. -/
theorem lockRegs_apart : ∀ x ∈ lockRegs, x.1 < 0x1000 ∧ x.1 ≠ oLOCK_VIOLATION_ADDR ∧ x.1 ≠ oLOCK_VIOLATION ∧ x.1 < 2 ^ 32 := by decide

/-- A write of an RWT register of a partition's block does what an RWT write does. -/
theorem rwt_write (h : s.Serving who) {k o : Nat} (hk : k < 32) (ho : o = oESEQ_RELOAD ∨ o = oFAULT_CFG) (v : Word) :
    exec (.registerWrite who (P k + o) v) s = .next (s.rwtWrite who (P k + o) v.toNat) := by
  have low : o < 0x1000 := by rcases ho with rfl | rfl <;> decide
  have assigned : (Place.mk .part k o).assigned = true := by
    rcases ho with rfl | rfl
    · exact (by decide +kernel : ∀ k : Fin 32, (Place.mk .part k oESEQ_RELOAD).assigned = true) ⟨k, hk⟩
    · exact (by decide +kernel : ∀ k : Fin 32, (Place.mk .part k oFAULT_CFG).assigned = true) ⟨k, hk⟩
  have other : o ≠ oPART_RESET ∧ o ≠ oPART_CMD ∧ o ≠ oCFGTX := by rcases ho with rfl | rfl <;> decide
  have base : P k + o < csrBase := by
    simp only [csrBase, P, Off.part]
    omega
  rw [exec_registerWrite, bus_write h base (domOf_base (placeOf_part hk low) (.inr rfl) _), writeReg_part hk low assigned, rwtWrite_part hk low]
  cases hm : s.maySlot who k
  · rw [rwtPart_denied hm]
    simp [State.writePart, other, hm, State.deny]
  · simp [State.writePart, other, hm, ho]

section pairs
variable {k o : Nat} (hk : k < 32) (ho : o ∈ dumpPairs) (hm : s.maySlot who k = true)
include hk ho hm

theorem writeReg_dumpLo (v : Nat) : s.writeReg who (P k + o) v = (s.holdLo (P k + o) v).ans 0 0 := by
  obtain ⟨low, places⟩ := dumpPairs_places o ho
  obtain ⟨assigned, -, lo, -, -, writable, -⟩ := places ⟨k, hk⟩
  obtain ⟨plain, -⟩ := dumpPairs_plain o ho
  rw [writeReg_part hk (by omega) assigned, writePart_plain plain hm, State.putAny, if_pos (.inl lo), State.putPair,
    if_neg (by rw [writable]; decide), if_pos lo]

theorem writeReg_dumpHi (v : Nat) : s.writeReg who (P k + (o + 4)) v =
    (((s.wr A.heldLo (P k + o) 0).wr A.reg (P k + o)
      (if (s.rd A.heldLo (P k + o)).testBit 32 then s.rd A.heldLo (P k + o) % 2 ^ 32 else s.reg (P k + o))).wr A.reg (P k + (o + 4))
        (v % 2 ^ 16)).ans 0 0 := by
  obtain ⟨low, places⟩ := dumpPairs_places o ho
  obtain ⟨-, assigned, -, noLo, hi, -, writable, bits, -⟩ := places ⟨k, hk⟩
  obtain ⟨-, plain, -⟩ := dumpPairs_plain o ho
  have back : P k + (o + 4) - 4 = P k + o := by omega
  have bits' : (Place.mk .part k (o + 4)).loHalf.pairBits = (0xFFFFFFFF, 0xFFFF) := bits
  have full : (if (s.rd A.heldLo (P k + o)).testBit 32 then s.rd A.heldLo (P k + o) % 2 ^ 32 else s.reg (P k + o)) &&& 0xFFFFFFFF =
      if (s.rd A.heldLo (P k + o)).testBit 32 then s.rd A.heldLo (P k + o) % 2 ^ 32 else s.reg (P k + o) := by
    rw [show 0xFFFFFFFF = 2 ^ 32 - 1 from rfl, Nat.and_two_pow_sub_one_eq_mod]
    split
    · exact Nat.mod_mod ..
    · exact Nat.mod_eq_of_lt (State.rd_lt s A.reg _)
  rw [writeReg_part hk low assigned, writePart_plain plain hm, State.putAny, if_pos (.inr hi), State.putPair,
    if_neg (by rw [writable]; decide), if_neg (by rw [noLo]; decide), back, takeLo_eq, bits']
  dsimp only
  rw [full, show v &&& 0xFFFF = v % 2 ^ 16 from Nat.and_two_pow_sub_one_eq_mod v 16]

theorem readReg_dumpLo : s.readReg who (P k + o) = (s.wr A.hiLatch (P k + o) (2 ^ 32 + s.reg (P k + (o + 4)))).ans 0 (s.reg (P k + o)) := by
  obtain ⟨low, places⟩ := dumpPairs_places o ho
  obtain ⟨assigned, -, lo, -, -, -, -, -, mask, maskHi⟩ := places ⟨k, hk⟩
  obtain ⟨-, -, view, viewHi⟩ := dumpPairs_plain o ho
  rw [readReg_part hk (by omega) assigned hm, State.readPlain, if_pos lo, Nat.add_assoc]
  show (s.wr A.hiLatch (P k + o) (2 ^ 32 + s.shown who ⟨.part, k, o + 4⟩ _)).ans 0 _ = _
  rw [shown_part view mask, shown_part viewHi maskHi]

theorem readReg_dumpHi : s.readReg who (P k + (o + 4)) =
    if (s.rd A.hiLatch (P k + o)).testBit 32 then (s.wr A.hiLatch (P k + o) 0).ans 0 (s.rd A.hiLatch (P k + o) % 2 ^ 32)
    else s.ans 0 (s.reg (P k + (o + 4))) := by
  obtain ⟨low, places⟩ := dumpPairs_places o ho
  obtain ⟨-, assigned, -, noLo, hi, -, -, -, -, maskHi⟩ := places ⟨k, hk⟩
  obtain ⟨-, -, -, viewHi⟩ := dumpPairs_plain o ho
  have back : P k + (o + 4) - 4 = P k + o := by omega
  rw [readReg_part hk low assigned hm, State.readPlain, if_neg (by rw [noLo]; decide), if_pos hi, back]
  show (if slice (s.rd A.hiLatch (P k + o)) 32 1 = 1 then (s.wr A.hiLatch (P k + o) 0).ans 0 (slice (s.rd A.hiLatch (P k + o)) 0 32)
    else s.ans 0 _) = _
  rw [shown_part viewHi maskHi, slice_at_zero, testBit_slice]
  simp only [decide_eq_true_eq]

end pairs

end accesses

/-- Settles O16: fields through what a write leaves in each of them, and accesses through the place of the register. -/
theorem registerWritesAndReads : Obligations.RegisterWritesAndReads := by
  unfold Obligations.RegisterWritesAndReads
  refine ⟨fun s p off v => ?_, ?_, ?_⟩
  · exact ⟨fun f hf => putFields_written s p off v hf, fun i _ hi => putFields_reserved s p off v hi, fun o ho => putFields_ne s p off v ho⟩
  · intro s who die off val b h
    have dev {o : Nat} (ho : o < 0x100000) : exec (.registerWrite who o val) s = .next (s.writeReg who o val.toNat) :=
      bus_write h (by simp only [csrBase]; omega) (domOf_base (placeOf_dev ho) (.inl rfl) _) _
    refine ⟨fun hp => ?_, fun hp => ?_, ?_, fun ho hu => ?_, fun x hx hw hp => ⟨fun hs => ?_, fun hs => ?_⟩, fun k hk o ho => ?_⟩
    · rw [dev (by decide), writeReg_wakeCfg, pfWrite_may hp]
    · rw [dev (by decide), writeReg_wakeCfg, pfWrite_denied hp]
    · exact read_bayEcc h die
    · have free : (placeOf off = none ∨ ∃ p, placeOf off = some p ∧ p.assigned = false) ∧ s.domOf off none = none ∧
          s.domOf off (some val.toNat) = none := by
        rcases hu with hu | ⟨hu, hr, hw⟩
        · exact ⟨.inl hu, domOf_none hu _, domOf_none hu _⟩
        · exact ⟨.inr hu, hr, hw⟩
      obtain ⟨unassigned, hr, hw⟩ := free
      rw [exec_rcRead, exec_registerWrite, bus_read h ho hr, bus_write h ho hw, readReg_unassigned unassigned, writeReg_unassigned unassigned]
      exact ⟨rfl, rfl⟩
    · obtain ⟨set, kept, flag, others⟩ := lock_first hx hs val.toNat
      rw [dev (lockRegs_fields x hx).1, writeReg_lock hx hw hp]
      refine ⟨_, rfl, ?_⟩
      simp only [State.reg_ans, State.rd_ans]
      exact ⟨set, kept, flag, others, rfl⟩
    · obtain ⟨low, addr, count, place⟩ := lockRegs_apart x hx
      have kept := violation_reads (s.wr A.reg x.1 (s.reg x.1)) x.1 low count addr
      have counted := violation_counts (s.wr A.reg x.1 (s.reg x.1)) x.1
      rw [dev (lockRegs_fields x hx).1, writeReg_lock hx hw hp, lock_again hx hs]
      refine ⟨_, rfl, kept.trans (reg_rewrite ..), counted.trans ?_, violation_addr _ place, violation_up .., rfl⟩
      rw [State.rf, reg_rewrite, ← State.rf]
    · rw [show exec (.rwtWrite who o val) s = .next (s.rwtWrite who o val.toNat) from access_next h _ fun s => s.rwtWrite who o val.toNat]
      simp only [List.mem_cons, List.not_mem_nil, or_false] at ho
      rcases ho with rfl | rfl
      · exact rwt_write h hk (.inr rfl) _
      · exact rwt_write h hk (.inl rfl) _
  · intro s who slot val h hm lo hlo
    obtain ⟨o, ho, rfl⟩ : ∃ o ∈ dumpPairs, lo = P slot + o := by simpa [dumpPairs] using hlo
    have low := (dumpPairs_places o ho).1
    have base {x : Nat} (hx : x < 0x1000) : P slot + x < csrBase := by
      have := slot.isLt
      simp only [csrBase, P, Off.part]
      omega
    have reads {x : Nat} (hx : x < 0x1000) (c : Instr) : s.busRead who (P slot + x) c = .next (s.readReg who (P slot + x)) :=
      bus_read h (base hx) (domOf_base (placeOf_part slot.isLt hx) (.inr rfl) _) c
    have writes {x : Nat} (hx : x < 0x1000) (c : Instr) : s.busWrite who (P slot + x) val.toNat c = .next (s.writeReg who (P slot + x) val.toNat) :=
      bus_write h (base hx) (domOf_base (placeOf_part slot.isLt hx) (.inr rfl) _) c
    rw [Nat.add_assoc, exec_lohiLoWrite, exec_lohiHiWrite, exec_lohiLoRead, exec_rcRead, writes (by omega), writes low, reads (by omega),
      reads low, writeReg_dumpLo slot.isLt ho hm, writeReg_dumpHi slot.isLt ho hm, readReg_dumpLo slot.isLt ho hm,
      readReg_dumpHi slot.isLt ho hm]
    exact ⟨rfl, rfl, rfl, rfl⟩

end Sys2Proof.Machine

/-! SUPPORT and CERTIFICATE. The code of the PAM4 rates (chapter 13, R296): multiplication by α is linear, so that the two
syndromes of a word with one wrong symbol are that of its error, and distinct places give distinct syndromes. -/

namespace Sys2Proof.Machine

/-! ### Multiplication by α -/

/-- What the top bit of an element adds when the element is multiplied by α. -/
def gfCarry (v : Nat) : Nat := if v.testBit 9 then 0x409 else 0

theorem gfStep_eq {v : Nat} (h : v < 2 ^ 10) : gfStep v = v <<< 1 ^^^ gfCarry v := by
  have top : v.testBit 9 = decide (512 ≤ v) := by
    rw [Nat.testBit_eq_decide_div_mod_eq, decide_eq_decide]
    omega
  rw [gfStep, gfCarry, top, Nat.shiftLeft_eq, Nat.mul_comm v]
  by_cases hv : 512 ≤ v
  · simp [hv]
  · simp [hv]

theorem gfCarry_xor (v w : Nat) : gfCarry (v ^^^ w) = gfCarry v ^^^ gfCarry w := by
  rw [gfCarry, gfCarry, gfCarry, Nat.testBit_xor]
  cases v.testBit 9 <;> cases w.testBit 9 <;> rfl

theorem gfStep_lt : ∀ v < 2 ^ 10, gfStep v < 2 ^ 10 := by
  have all : ((List.range 1024).all fun v => Nat.blt (gfStep v) 1024) = true := by decide +kernel
  exact fun v hv => Nat.le_of_ble_eq_true (List.all_eq_true.1 all v (List.mem_range.2 hv))

theorem gfStep_xor {v w : Nat} (hv : v < 2 ^ 10) (hw : w < 2 ^ 10) : gfStep (v ^^^ w) = gfStep v ^^^ gfStep w := by
  rw [gfStep_eq hv, gfStep_eq hw, gfStep_eq (Nat.xor_lt_two_pow hv hw), gfCarry_xor, Nat.shiftLeft_xor_distrib]
  ac_rfl

theorem gfShift_lt {v : Nat} (h : v < 2 ^ 10) (n : Nat) : gfShift v n < 2 ^ 10 := by
  induction n with
  | zero => exact h
  | succ n ih => exact gfStep_lt _ ih

theorem gfShift_xor {v w : Nat} (hv : v < 2 ^ 10) (hw : w < 2 ^ 10) (n : Nat) :
    gfShift (v ^^^ w) n = gfShift v n ^^^ gfShift w n := by
  induction n with
  | zero => rfl
  | succ n ih => rw [gfShift, ih, gfStep_xor (gfShift_lt hv n) (gfShift_lt hw n)]; rfl

theorem gfShift_add (v m n : Nat) : gfShift v (m + n) = gfShift (gfShift v m) n := by
  induction n with
  | zero => rfl
  | succ n ih => exact congrArg gfStep ih

theorem gfShift_zero (n : Nat) : gfShift 0 n = 0 := by
  induction n with
  | zero => rfl
  | succ n ih => rw [gfShift, ih]; rfl

/-- Division by α. -/
def gfBack (v : Nat) : Nat := if v.testBit 0 then (v ^^^ 0x409) / 2 else v / 2

theorem gfBack_step : ∀ v < 2 ^ 10, gfBack (gfStep v) = v := by
  have all : ((List.range 1024).all fun v => Nat.beq (gfBack (gfStep v)) v) = true := by decide +kernel
  exact fun v hv => Nat.eq_of_beq_eq_true (List.all_eq_true.1 all v (List.mem_range.2 hv))

theorem gfShift_injective {v w : Nat} (hv : v < 2 ^ 10) (hw : w < 2 ^ 10) (n : Nat) (h : gfShift v n = gfShift w n) : v = w := by
  induction n with
  | zero => exact h
  | succ n ih =>
    have steps : gfStep (gfShift v n) = gfStep (gfShift w n) := h
    refine ih ?_
    rw [← gfBack_step _ (gfShift_lt hv n), steps, gfBack_step _ (gfShift_lt hw n)]

/-- The order of α is above 27. -/
theorem gfShift_moves : ∀ e < 2 ^ 10, 0 < e → ∀ d < 27, gfShift e (d + 1) ≠ e := by
  have all : ((List.range 1024).all fun e => Nat.beq e 0 || (List.range 27).all fun d => !Nat.beq (gfShift e (d + 1)) e) = true := by
    decide +kernel
  intro e he pos d hd eq
  have some_ := List.all_eq_true.1 all e (List.mem_range.2 he)
  rw [Bool.or_eq_true, Nat.beq_eq] at some_
  have moves := List.all_eq_true.1 (some_.resolve_left (Nat.ne_of_gt pos)) d (List.mem_range.2 hd)
  rw [eq, show Nat.beq e e = true from Nat.beq_refl e] at moves
  cases moves

theorem gfShift_places {e i j : Nat} (he : e < 2 ^ 10) (pos : 0 < e) (hi : i < 28) (hj : j < 28) (h : gfShift e i = gfShift e j) : i = j := by
  have below {m n : Nat} (hn : n < 28) (lt : m < n) : gfShift e n ≠ gfShift e m := fun eq =>
    gfShift_moves e he pos (n - m - 1) (by omega) (gfShift_injective (gfShift_lt he _) he m (by
      rw [← gfShift_add, show n - m - 1 + 1 + m = n by omega, eq]))
  rcases Nat.lt_trichotomy i j with lt | eq | lt
  · exact absurd h.symm (below hj lt)
  · exact eq
  · exact absurd h (below hi lt)

/-! ### Syndromes -/

/-- The symbols of `f` below place `n` at α^j, after those that gave `v`. -/
def horner (j : Nat) (f : Nat → Nat) (n v : Nat) : Nat := ((List.range n).reverse).foldl (fun v i => gfShift v j ^^^ f i) v

theorem horner_succ (j : Nat) (f : Nat → Nat) (n v : Nat) : horner j f (n + 1) v = horner j f n (gfShift v j ^^^ f n) := by
  rw [horner, List.range_succ, List.reverse_append]
  rfl

theorem horner_xor (j : Nat) {f : Nat → Nat} (hf : ∀ i, f i < 2 ^ 10) (n : Nat) {v w : Nat} (hv : v < 2 ^ 10) (hw : w < 2 ^ 10) :
    horner j f n (v ^^^ w) = horner j f n v ^^^ gfShift w (j * n) := by
  induction n generalizing v w with
  | zero => rfl
  | succ n ih =>
    have next := Nat.xor_lt_two_pow (gfShift_lt hv j) (hf n)
    rw [horner_succ, horner_succ, gfShift_xor hv hw, Nat.mul_succ, Nat.add_comm, gfShift_add, ← ih next (gfShift_lt hw j)]
    congr 1
    ac_rfl

/-- One symbol that is wrong by `e`. -/
theorem horner_error (j : Nat) {f g : Nat → Nat} (hf : ∀ i, f i < 2 ^ 10) {i e : Nat} (he : e < 2 ^ 10) (hi : g i = f i ^^^ e)
    (n : Nat) (hg : ∀ k < n, k ≠ i → g k = f k) (hn : i < n) {v : Nat} (hv : v < 2 ^ 10) :
    horner j g n v = horner j f n v ^^^ gfShift e (j * i) := by
  have same (m : Nat) (hm : m ≤ i) (v : Nat) : horner j g m v = horner j f m v := by
    induction m generalizing v with
    | zero => rfl
    | succ m ih => rw [horner_succ, horner_succ, hg m (by omega) (by omega), ih (by omega)]
  induction n generalizing v with
  | zero => omega
  | succ n ih =>
    rw [horner_succ, horner_succ]
    rcases Nat.lt_or_ge i n with lt | ge
    · rw [hg n (by omega) (by omega), ih (fun k hk => hg k (by omega)) lt (Nat.xor_lt_two_pow (gfShift_lt hv j) (hf n))]
    · obtain rfl : i = n := by omega
      rw [same i le_rfl, hi, ← Nat.xor_assoc, horner_xor j hf i (Nat.xor_lt_two_pow (gfShift_lt hv j) (hf i)) he]

theorem rsAt_eq (c j : Nat) : rsAt c j = horner j (rsSym c) 28 0 := rfl

theorem rsSym_eq (c i : Nat) : rsSym c i = slice c (rsLo i) 10 := by
  rw [rsSym, rsLo]
  split <;> rfl

theorem rsSym_lt (c i : Nat) : rsSym c i < 2 ^ 10 := by
  rw [rsSym_eq]
  exact slice_lt ..

/-! ### Correction -/

section correction
variable {c i e : Nat} (he : e < 2 ^ 10)
include he

theorem rsSym_wrong : rsSym (patch c (rsLo i) 10 (rsSym c i ^^^ e)) i = rsSym c i ^^^ e := by
  rw [rsSym_eq, slice_patch_same]
  exact Nat.mod_eq_of_lt (Nat.xor_lt_two_pow (rsSym_lt c i) he)

theorem rsAt_wrong (hi : i < 28) (j : Nat) : rsAt (patch c (rsLo i) 10 (rsSym c i ^^^ e)) j = rsAt c j ^^^ gfShift e (j * i) := by
  have others (k : Nat) (hk : k < 28) (hne : k ≠ i) : rsSym (patch c (rsLo i) 10 (rsSym c i ^^^ e)) k = rsSym c k := by
    rw [rsSym_eq, rsSym_eq c k]
    refine slice_patch_ne _ _ _ _ _ _ ?_
    simp only [rsLo]
    split <;> split <;> omega
  exact horner_error j (rsSym_lt c) he (rsSym_wrong he) 28 others hi (by decide)

end correction

/-- A field that gets its first value back. -/
theorem patch_patch (c lo w x : Nat) : patch (patch c lo w x) lo w (slice c lo w) = c := by
  have high : c / 2 ^ lo = slice c lo w + 2 ^ w * (c / 2 ^ (lo + w)) := by
    rw [slice, Nat.pow_add, ← Nat.div_div_eq_div_mul, Nat.mod_add_div]
  conv_rhs => rw [← Nat.mod_add_div c (2 ^ lo), high]
  rw [patch.eq_1 (patch c lo w x), patch_low, patch_high, Nat.mod_eq_of_lt (slice_lt c lo w), Nat.pow_add, Nat.mul_add,
    Nat.mul_assoc, Nat.add_assoc]

theorem firstIx_only {n i : Nat} {p : Nat → Bool} (hi : i < n) (h : p i = true) (only : ∀ j < n, p j = true → j = i) : firstIx n p = some i := by
  refine List.find?_range_eq_some.2 ⟨h, List.mem_range.2 hi, fun j hj => ?_⟩
  cases hp : p j
  · rfl
  · exact absurd (only j (hj.trans hi) hp) (Nat.ne_of_lt hj)

/-- Settles O35: a wrong symbol's error is the first syndrome, and its place the power of α between the two. -/
theorem oneSymbolErrors : Obligations.OneSymbolErrors := by
  unfold Obligations.OneSymbolErrors
  intro c _ h0 h1
  refine ⟨by simp [rsDecode, h0, h1], fun i hi e pos he => ?_⟩
  have s0 : rsAt (patch c (rsLo i) 10 (rsSym c i ^^^ e)) 0 = e := by
    rw [rsAt_wrong he hi, h0, Nat.zero_xor, Nat.zero_mul, gfShift]
  have s1 : rsAt (patch c (rsLo i) 10 (rsSym c i ^^^ e)) 1 = gfShift e i := by
    rw [rsAt_wrong he hi, h1, Nat.zero_xor, Nat.one_mul]
  have place : firstIx 28 (fun k => decide (gfShift e k = gfShift e i)) = some i :=
    firstIx_only hi (decide_eq_true rfl) fun j hj eq => gfShift_places he pos hj hi (of_decide_eq_true eq)
  rw [rsDecode, s0, s1, if_neg fun h => Nat.ne_of_gt pos h.1, if_neg (Nat.ne_of_gt pos), place, Option.map_some, rsSym_wrong he,
    Nat.xor_assoc, Nat.xor_self, Nat.xor_zero, rsSym_eq, patch_patch]

end Sys2Proof.Machine

/-! SUPPORT and CERTIFICATE. Commands to the trigger units (chapter 12, R282, R283, R291). -/

namespace Sys2Proof.Machine

open Reg

section commands
variable {s : State} {u : Nat}

/-! ### What a command leaves as it was -/

theorem TU_base (u : Nat) : 0x800000 ≤ TU u := by
  simp only [TU, Off.trig, Off.die]
  omega

theorem slotOfPid_lt {pid k : Nat} (h : s.slotOfPid pid = some k) : k < 32 := by
  unfold State.slotOfPid firstIx at h
  exact List.mem_range.1 (List.mem_of_find?_eq_some h)

/-- A field of a register in which another was written. -/
theorem rf_wf_apart (v : State) (b : Nat) {f g : Fld} (x : Nat) (h : f.off = g.off ∧ (g.lo + g.w ≤ f.lo ∨ f.lo + f.w ≤ g.lo) ∧ g.lo + g.w ≤ 32) :
    (v.wf b f x).rf b g = v.rf b g := State.rf_wf_bits _ _ _ _ _ h.1 h.2.1 h.2.2

/-- A write of a unit's TRIG_CTRL changes no other field. -/
theorem trigCtrl_rf (s : State) (u : Nat) {f : Fld} (v b : Nat) {g : Fld} (hf : f.off = oTRIG_CTRL) (h : b + g.off ≠ TU u + oTRIG_CTRL) :
    (s.wf (TU u) f v).rf b g = s.rf b g := State.rf_wf_reg _ _ _ _ _ _ (by rw [hf]; exact h.symm)

theorem trigResult_rf (s : State) (u r b : Nat) {g : Fld} (h : b + g.off ≠ TU u + oTRIG_CTRL) : (s.trigResult u r).rf b g = s.rf b g := by
  rw [State.trigResult, trigCtrl_rf _ _ _ _ rfl h, trigCtrl_rf _ _ _ _ rfl h]

theorem trigResult_state (s : State) (u r : Nat) : (s.trigResult u r).rf (TU u) TRIG_CTRL_STATE = s.rf (TU u) TRIG_CTRL_STATE := by
  have apart (v : State) (f : Fld) (x : Nat) (h : f.off = oTRIG_CTRL) (h' : 5 ≤ f.lo) :
      (v.wf (TU u) f x).rf (TU u) TRIG_CTRL_STATE = v.rf (TU u) TRIG_CTRL_STATE :=
    State.rf_wf_bits _ _ _ _ _ h (.inl h') (by decide)
  exact (apart _ _ _ rfl (by decide)).trans (apart _ _ _ rfl (by decide))

theorem trigResult_owner (s : State) (u r : Nat) : (s.trigResult u r).unitOwner u = s.unitOwner u := by
  have apart (f : Fld) (h : f.off = oTRIG_CFG) : TU u + f.off ≠ TU u + oTRIG_CTRL := by
    rw [h]
    simp [oTRIG_CFG, oTRIG_CTRL]
  rw [State.unitOwner, trigResult_rf _ _ _ _ (apart _ rfl), trigResult_rf _ _ _ _ (apart _ rfl), ← State.unitOwner]

theorem trigResult_rd (s : State) (u r : Nat) (a : Arr) (i : Nat) (h : ¬ a.code % 512 = 0) : (s.trigResult u r).rd a i = s.rd a i := by
  rw [State.trigResult, State.rd_wf _ _ _ _ _ _ h, State.rd_wf _ _ _ _ _ _ h]

theorem trigResult_slotOfPid (s : State) (u r pid : Nat) : (s.trigResult u r).slotOfPid pid = s.slotOfPid pid := by
  refine congrArg (firstIx 32) (funext fun k => decide_eq_decide.2 ?_)
  rw [State.loaded, State.loaded, trigResult_rd _ _ _ _ _ (by decide), trigResult_rd _ _ _ _ _ (by decide)]

theorem trigResult_recording (s : State) (u r : Nat) {k : Nat} (hk : k < 32) : (s.trigResult u r).recording k = s.recording k := by
  have regs (f : Fld) (hf : f.off < 0x1000) : (s.trigResult u r).rf (P k) f = s.rf (P k) f := by
    refine trigResult_rf _ _ _ _ ?_
    have := TU_base u
    simp only [P, Off.part]
    omega
  refine decide_eq_decide.2 ?_
  rw [State.recState, State.recState, State.replaying, State.replaying, regs _ (by decide), regs _ (by decide),
    trigResult_rd _ _ _ _ _ (by decide)]

/-- No partition whose recording is on owns the unit. -/
def State.quietUnit (s : State) (u : Nat) : Prop := ∀ k, (s.unitOwner u).bind s.slotOfPid = some k → s.recording k = false

/-- A command to a unit that no recorded partition owns leaves no packet. -/
theorem logTrig_quiet (h : s.quietUnit u) (r cmd : Nat) : (s.trigResult u r).logTrig u cmd = s.trigResult u r := by
  have owner : ((s.trigResult u r).unitOwner u).bind (s.trigResult u r).slotOfPid = (s.unitOwner u).bind s.slotOfPid := by
    rw [trigResult_owner]
    exact congrArg _ (funext fun pid => trigResult_slotOfPid s u r pid)
  unfold State.logTrig
  rw [owner]
  split
  · rfl
  next k hk =>
    obtain ⟨pid, -, hp⟩ := Option.bind_eq_some_iff.1 hk
    rw [State.logInput, if_neg (by rw [trigResult_recording _ _ _ (slotOfPid_lt hp), h k hk]; decide)]

/-! ### The refusals of ARM (R283) -/

theorem unitIdle_iff : s.unitIdle u = true ↔ s.rf (TU u) TRIG_CTRL_STATE = 0 ∨ s.rf (TU u) TRIG_CTRL_STATE = 4 := decide_eq_true_iff

theorem unitUses_iff {w : Nat} (hw : w < 32) : s.unitUses u w = true ↔ (s.rf (TU u) TRIG_CAP_MASK_VALUE).testBit w = true ∨
    ∃ c < 2, s.rf (cmpBase u c) TRIG_CMP_CFG_KIND ≠ 0 ∧ s.rf (cmpBase u c) TRIG_CMP_CFG_WORD = w := by
  have captured : (s.capWords u).contains w = true ↔ (s.rf (TU u) TRIG_CAP_MASK_VALUE).testBit w = true := by
    simp [State.capWords, hw]
  rw [State.unitUses, decide_eq_true_iff, captured]
  constructor
  · rintro (h | h | h)
    · exact .inl h
    · exact .inr ⟨0, by decide, h⟩
    · exact .inr ⟨1, by decide, h⟩
  · rintro (h | ⟨c, hc, h⟩)
    · exact .inl h
    · rcases (by omega : c = 0 ∨ c = 1) with rfl | rfl
      · exact .inr (.inl h)
      · exact .inr (.inr h)

theorem trigFieldBad_iff : s.trigFieldBad u = true ↔
    (∃ c < 2, 6 ≤ s.rf (cmpBase u c) TRIG_CMP_CFG_KIND ∨ s.rf (cmpBase u c) TRIG_CMP_CFG_DIR = 3) ∨
    (∃ i < 8, 9 ≤ s.rf (TU u + 4 * i) TRIG_SEQ_COND) ∨ 1024 < s.rf (TU u) TRIG_CAP_CFG_BASE + s.rf (TU u) TRIG_CAP_CFG_SIZE_M1 + 1 := by
  simp [State.trigFieldBad]

/-- The unit has no owner, or uses a word that is not its owner's. -/
def State.foreign (s : State) (u : Nat) : Prop := s.unitOwner u = none ∨
  (List.range 32).any (fun w => s.unitUses u w ∧ s.wordOwner (32 * (u / 4) + w) ≠ s.unitOwner u) = true

/-- Its area meets one of another unit of the die that is not IDLE. -/
def State.meets (s : State) (u : Nat) : Prop := (List.range 4).any (fun j =>
  4 * (u / 4) + j ≠ u ∧ s.rf (TU (4 * (u / 4) + j)) TRIG_CTRL_STATE ≠ 0 ∧ s.areasMeet u (4 * (u / 4) + j)) = true

/-- PRE, the sample and POST exceed its area. -/
def State.short (s : State) (u : Nat) : Prop := s.capWords u ≠ [] ∧
  s.capN u < slice (s.rf (TU u) TRIG_PRE_VALUE) 0 20 + slice (s.rf (TU u) TRIG_POST_VALUE) 0 20 + 1

theorem armCheck_busy (h : s.unitIdle u = false) : s.armCheck u = 5 := if_pos (by rw [h]; decide)

section idle
variable (h : s.unitIdle u = true)
include h

theorem armCheck_foreign (hf : s.foreign u) : s.armCheck u = 4 := by
  rw [State.armCheck, if_neg (by rw [h]; decide)]
  exact if_pos hf

theorem armCheck_field (hf : ¬ s.foreign u) (hb : s.trigFieldBad u = true) : s.armCheck u = 6 := by
  rw [State.armCheck, if_neg (by rw [h]; decide)]
  exact (if_neg hf).trans (if_pos hb)

theorem armCheck_meets (hf : ¬ s.foreign u) (hb : ¬ s.trigFieldBad u = true) (hm : s.meets u) : s.armCheck u = 3 := by
  rw [State.armCheck, if_neg (by rw [h]; decide)]
  exact (if_neg hf).trans ((if_neg hb).trans (if_pos hm))

theorem armCheck_short (hf : ¬ s.foreign u) (hb : ¬ s.trigFieldBad u = true) (hm : ¬ s.meets u) (hs : s.short u) : s.armCheck u = 2 := by
  rw [State.armCheck, if_neg (by rw [h]; decide)]
  exact (if_neg hf).trans ((if_neg hb).trans ((if_neg hm).trans (if_pos hs)))

theorem armCheck_good (hf : ¬ s.foreign u) (hb : ¬ s.trigFieldBad u = true) (hm : ¬ s.meets u) (hs : ¬ s.short u) : s.armCheck u = 0 := by
  rw [State.armCheck, if_neg (by rw [h]; decide)]
  exact (if_neg hf).trans ((if_neg hb).trans ((if_neg hm).trans (if_neg hs)))

end idle

/-! ### What a command leaves -/

section may
variable {who : Who} (hm : s.mayUnit who u = true)
include hm

theorem trigCmd_refused {r : Nat} (hr : s.armCheck u = r) (h0 : r ≠ 0) :
    s.trigCmd who u 1 = ((s.wf (TU u) TRIG_CTRL_RESULT r).wf (TU u) TRIG_CTRL_REFUSED 1).ans 0 0 := by
  simp [State.trigCmd, hm, hr, h0, State.trigResult, State.okay, bit]

theorem trigCmd_arm (hq : s.quietUnit u) (hr : s.armCheck u = 0) : s.trigCmd who u 1 = ((s.trigResult u 0).doArm u).ans 0 0 := by
  simp [State.trigCmd, hm, hr, logTrig_quiet hq, State.okay]

theorem trigCmd_disarm (hq : s.quietUnit u) : s.trigCmd who u 2 = ((s.trigResult u 0).doDisarm u).ans 0 0 := by
  simp [State.trigCmd, hm, logTrig_quiet hq, State.okay]

theorem trigCmd_unforced (h : s.rf (TU u) TRIG_CTRL_STATE ≠ 2) :
    s.trigCmd who u 3 = ((s.wf (TU u) TRIG_CTRL_RESULT 5).wf (TU u) TRIG_CTRL_REFUSED 1).ans 0 0 := by
  simp [State.trigCmd, hm, h, State.trigResult, State.okay, bit]

theorem trigCmd_force (hq : s.quietUnit u) (h : s.rf (TU u) TRIG_CTRL_STATE = 2) :
    s.trigCmd who u 3 = (((s.wf (TU u) TRIG_CTRL_RESULT 0).wf (TU u) TRIG_CTRL_REFUSED 0).wr A.tgForce u 1).ans 0 0 := by
  simp [State.trigCmd, hm, h, logTrig_quiet hq, State.okay]
  rfl

end may

/-! ### What ARM leaves -/

theorem trigTo_state (s : State) (u n : Nat) : (s.trigTo u n).rf (TU u) TRIG_CTRL_STATE = n % 8 := State.rf_wf_same _ _ _ _ (by decide)

theorem trigTo_result (s : State) (u n : Nat) : (s.trigTo u n).rf (TU u) TRIG_CTRL_RESULT = s.rf (TU u) TRIG_CTRL_RESULT :=
  rf_wf_apart s (TU u) (f := TRIG_CTRL_STATE) (g := TRIG_CTRL_RESULT) n (by decide)

theorem trigArmed_rf (s : State) (u : Nat) (f : Fld) :
    (s.trigArmed u).rf (TU u) f = ((s.trigTo u 2).wf (TU u) TRIG_CTRL_SEQ 0).rf (TU u) f := rf_wr _ _ _ _ _ (by decide)

theorem trigArmed_state (s : State) (u : Nat) : (s.trigArmed u).rf (TU u) TRIG_CTRL_STATE = 2 := by
  rw [trigArmed_rf, rf_wf_apart (s.trigTo u 2) (TU u) (f := TRIG_CTRL_SEQ) (g := TRIG_CTRL_STATE) 0 (by decide), trigTo_state]

theorem trigArmed_result (s : State) (u : Nat) : (s.trigArmed u).rf (TU u) TRIG_CTRL_RESULT = s.rf (TU u) TRIG_CTRL_RESULT := by
  rw [trigArmed_rf, rf_wf_apart (s.trigTo u 2) (TU u) (f := TRIG_CTRL_SEQ) (g := TRIG_CTRL_RESULT) 0 (by decide), trigTo_result]

theorem trigArmed_seq (s : State) (u : Nat) : (s.trigArmed u).rf (TU u) TRIG_CTRL_SEQ = 0 := by
  rw [trigArmed_rf, State.rf_wf_same _ _ _ _ (by decide), Nat.zero_mod]

theorem trigArmed_count (s : State) (u : Nat) : (s.trigArmed u).rd A.tgCount u = 0 := (State.rd_wr_same ..).trans (Nat.zero_mod _)

/-- The capture and the sequencer of a unit begin anew. -/
def State.rearmed (s : State) (u : Nat) : State := ((((s.wr A.tgValid u 0).wr A.tgFill u 0).capNext u 0).wr A.tgOut u 0).wr A.tgForce u 0

theorem doArm_eq (s : State) (u : Nat) : s.doArm u =
    if slice ((s.rearmed u).rf (TU u) TRIG_PRE_VALUE) 0 20 = 0 then (s.rearmed u).trigArmed u else (s.rearmed u).trigTo u 1 := rfl

theorem rearmed_rf (s : State) (u : Nat) {f : Fld} (h : f.off ≠ 0x9C) : (s.rearmed u).rf (TU u) f = s.rf (TU u) f := by
  rw [State.rearmed, State.capNext, rf_wr _ _ _ _ _ (by decide), rf_wr _ _ _ _ _ (by decide)]
  have head (v : State) (x : Nat) : (v.wr A.reg (TU u + 0x9C) x).rf (TU u) f = v.rf (TU u) f := by
    rw [State.rf, State.reg, State.rd_wr_ix _ _ _ _ _ (by omega)]
    rfl
  rw [head, rf_wr _ _ _ _ _ (by decide), rf_wr _ _ _ _ _ (by decide), rf_wr _ _ _ _ _ (by decide)]

/-- Arrays of the units that ARM clears. -/
def armArrays : List Arr := [A.tgFill, A.tgNext, A.tgValid, A.tgOut, A.tgForce]

theorem rearmed_zero (s : State) (u : Nat) : ∀ a ∈ armArrays, (s.rearmed u).rd a u = 0 := by
  intro a ha
  simp only [armArrays, List.mem_cons, List.not_mem_nil, or_false] at ha
  rcases ha with rfl | rfl | rfl | rfl | rfl <;> simp [State.rearmed, State.capNext]

theorem doArm_only (s : State) (u : Nat) : (s.rearmed u).Only [A.reg.code, A.tgCount.code] (s.doArm u) := by
  rw [doArm_eq]
  exact ((((State.Only.refl ..).wf _ _ _ rfl).wf _ _ _ rfl).wr _ _ rfl).ite ((State.Only.refl ..).wf _ _ _ rfl)

theorem doArm_zero (s : State) (u : Nat) {a : Arr} (ha : a ∈ armArrays) : (s.doArm u).rd a u = 0 := by
  have other : ∀ a ∈ armArrays, [A.reg.code, A.tgCount.code].contains (a.code % 512) = false := by decide
  exact ((doArm_only s u).rd a u (other a ha)).trans (rearmed_zero s u a ha)

theorem doArm_reads (s : State) (u : Nat) :
    (s.doArm u).rf (TU u) TRIG_CTRL_STATE = (if slice (s.rf (TU u) TRIG_PRE_VALUE) 0 20 = 0 then 2 else 1) ∧
    (s.doArm u).rf (TU u) TRIG_CTRL_RESULT = s.rf (TU u) TRIG_CTRL_RESULT ∧
    (slice (s.rf (TU u) TRIG_PRE_VALUE) 0 20 = 0 → (s.doArm u).rf (TU u) TRIG_CTRL_SEQ = 0 ∧ (s.doArm u).rd A.tgCount u = 0) := by
  rw [doArm_eq, rearmed_rf s u (by decide)]
  by_cases h : slice (s.rf (TU u) TRIG_PRE_VALUE) 0 20 = 0
  · rw [if_pos h, if_pos h]
    exact ⟨trigArmed_state _ u, (trigArmed_result _ u).trans (rearmed_rf s u (f := TRIG_CTRL_RESULT) (by decide)),
      fun _ => ⟨trigArmed_seq _ u, trigArmed_count _ u⟩⟩
  · rw [if_neg h, if_neg h]
    exact ⟨trigTo_state _ u 1, (trigTo_result _ u 1).trans (rearmed_rf s u (f := TRIG_CTRL_RESULT) (by decide)), fun e => absurd e h⟩

theorem trigResult_result (s : State) (u : Nat) {r : Nat} (hr : r < 8) : (s.trigResult u r).rf (TU u) TRIG_CTRL_RESULT = r := by
  rw [State.trigResult, rf_wf_apart (s.wf (TU u) TRIG_CTRL_RESULT r) (TU u) (f := TRIG_CTRL_REFUSED) (g := TRIG_CTRL_RESULT) _ (by decide),
    State.rf_wf_same _ _ _ _ (by decide)]
  exact Nat.mod_eq_of_lt hr

/-- ARM writes arrays alone: registers, and those of the units. -/
def armCodes : List Nat := (A.reg :: A.tgCount :: armArrays).map fun a => a.code % 512

theorem rearmed_beside (s : State) (u : Nat) : s.Beside armCodes (s.rearmed u) := by
  refine beside_wr (beside_wr (beside_wr (beside_wr (beside_wr (beside_wr (.refl ..) ?_ _ _) ?_ _ _) ?_ _ _) ?_ _ _) ?_ _ _) ?_ _ _ <;> decide

theorem doArm_beside (s : State) (u : Nat) : s.Beside armCodes (s.doArm u) := by
  rw [doArm_eq]
  refine (rearmed_beside s u).trans (beside_ite (beside_wr (beside_wr (beside_wr (.refl ..) ?_ _ _) ?_ _ _) ?_ _ _) (beside_wr (.refl ..) ?_ _ _)) <;>
    decide

theorem trigCmd_denied {who : Who} (hm : s.mayUnit who u = false) (cmd : Nat) : s.trigCmd who u cmd = s.ans 1 0 := by
  simp [State.trigCmd, hm, State.deny]

end commands

/-- Settles O33: the refusals in the order of the rule, and an accepted command through what it leaves of the unit. -/
theorem triggerCommands : Obligations.TriggerCommands := by
  unfold Obligations.TriggerCommands
  intro s who die unit u st pre post refused uses top confine field overlap short quiet h
  have arm : exec (.trigArm who die unit) s = .next (s.trigCmd who u 1) := accessDom_next h _ fun s => s.trigCmd who u 1
  have disarm : exec (.trigDisarm who die unit) s = .next (s.trigCmd who u 2) := accessDom_next h _ fun s => s.trigCmd who u 2
  have force : exec (.trigForce who die unit) s = .next (s.trigCmd who u 3) := accessDom_next h _ fun s => s.trigCmd who u 3
  have die_ : u / 4 = die := by omega
  have confines : confine ↔ s.foreign u := by
    rw [State.foreign, List.any_eq_true]
    refine or_congr_right ⟨fun ⟨w, hw, hu, hne⟩ => ⟨w, List.mem_range.2 hw, ?_⟩, fun ⟨w, hw, he⟩ => ?_⟩
    · exact decide_eq_true ⟨(unitUses_iff hw).2 hu, by rw [die_]; exact hne⟩
    · obtain ⟨hu, hne⟩ := of_decide_eq_true he
      exact ⟨w, List.mem_range.1 hw, (unitUses_iff (List.mem_range.1 hw)).1 hu, by rw [die_] at hne; exact hne⟩
  have fields : field ↔ s.trigFieldBad u = true := trigFieldBad_iff.symm
  have overlaps : overlap ↔ s.meets u := by
    rw [State.meets, List.any_eq_true, die_]
    refine ⟨fun ⟨j, hj, hne, hs, h1, h2⟩ => ⟨j, List.mem_range.2 hj, ?_⟩, fun ⟨j, hj, he⟩ => ?_⟩
    · exact decide_eq_true ⟨hne, hs, decide_eq_true ⟨h1, h2⟩⟩
    · obtain ⟨hne, hs, hm⟩ := of_decide_eq_true he
      obtain ⟨h1, h2⟩ := of_decide_eq_true hm
      exact ⟨j, List.mem_range.1 hj, hne, hs, h1, h2⟩
  rw [arm, disarm, force]
  refine ⟨fun hm => ⟨?_, ?_, ?_⟩, fun hm => ⟨fun h0 h4 => ?_, fun hi => ?_, fun hq => ?_, fun h2 => ?_, fun h2 hq => ?_⟩⟩
  · rw [trigCmd_denied hm]
  · rw [trigCmd_denied hm]
  · rw [trigCmd_denied hm]
  · rw [trigCmd_refused hm (armCheck_busy (eq_false_of_ne_true fun e => (unitIdle_iff.1 e).elim h0 h4)) (by decide)]
  · have idle := unitIdle_iff.2 hi
    rw [confines, fields, overlaps]
    refine ⟨fun hf => ?_, fun hf hb => ?_, fun hf hb ho => ?_, fun hf hb ho hs => ?_, fun hf hb ho hs hq => ?_⟩
    · rw [trigCmd_refused hm (armCheck_foreign idle hf) (by decide)]
    · rw [trigCmd_refused hm (armCheck_field idle hf hb) (by decide)]
    · rw [trigCmd_refused hm (armCheck_meets idle hf hb ho) (by decide)]
    · rw [trigCmd_refused hm (armCheck_short idle hf hb ho hs) (by decide)]
    · have before : (s.trigResult u 0).rf (TU u) TRIG_PRE_VALUE = s.rf (TU u) TRIG_PRE_VALUE :=
        trigResult_rf _ _ _ _ (by simp [TRIG_PRE_VALUE, oTRIG_CTRL])
      obtain ⟨state, result, sequence⟩ := doArm_reads (s.trigResult u 0) u
      rw [before] at state sequence
      rw [trigCmd_arm hm hq (armCheck_good idle hf hb ho hs)]
      refine ⟨_, rfl, ?_⟩
      simp only [State.rf_ans, State.rd_ans]
      exact ⟨state, result.trans (trigResult_result s u (by decide)), sequence, doArm_zero _ u (by simp [armArrays]), doArm_zero _ u (by simp [armArrays]),
        doArm_zero _ u (by simp [armArrays]), doArm_zero _ u (by simp [armArrays]), doArm_zero _ u (by simp [armArrays]), rfl,
        (doArm_beside (s.trigResult u 0) u).mem⟩
  · rw [trigCmd_disarm hm hq]
    refine ⟨_, rfl, ?_, ?_, ?_, rfl, rfl⟩
    · rw [State.rf_ans, State.doDisarm, rf_wr _ _ _ _ _ (by decide), rf_wr _ _ _ _ _ (by decide), trigTo_state]
    · rw [State.rd_ans, State.doDisarm, State.rd_wr_arr _ _ _ _ _ _ (by decide), State.rd_wr_same]
      rfl
    · rw [State.rd_ans, State.doDisarm, State.rd_wr_same]
      rfl
  · rw [trigCmd_unforced hm h2]
  · rw [trigCmd_force hm hq h2]

end Sys2Proof.Machine

/-! SUPPORT and CERTIFICATE. Trigger inputs, the probe map and samples (chapter 12, R276 to R285, R290, R291): which registers
events and records write, and what a sample leaves of an ARMED unit. -/

namespace Sys2Proof.Machine

open Reg

/-! ### Registers that events and records write (R172, R177, R237, R472) -/

/-- A register that an event, a record or a queue may write: those of the device from EVT_STATUS on and of the partitions, and
of the dies' queues and dispatchers. -/
def evtReg (o : Nat) : Bool :=
  decide ((0x1000 ≤ o ∧ o < 0x800000) ∨ (0x800000 ≤ o ∧ 0x40700 ≤ o % 0x800000 ∧ o % 0x800000 < 0x42C00))

/-- `t` reads every other register as `s` does. -/
structure State.EvtKept (s t : State) : Prop where
  reads : ∀ o, evtReg o = false → t.reg o = s.reg o

section kept
variable {s t u : State}

theorem State.EvtKept.refl (s : State) : s.EvtKept s := ⟨fun _ _ => rfl⟩

theorem State.EvtKept.trans (h : s.EvtKept t) (h' : t.EvtKept u) : s.EvtKept u :=
  ⟨fun o ho => (h'.reads o ho).trans (h.reads o ho)⟩

theorem State.EvtKept.wr (h : s.EvtKept t) {a : Arr} (ha : ¬ a.code % 512 = 0) (i v : Nat) : s.EvtKept (t.wr a i v) :=
  ⟨fun o ho => (State.reg_wr _ _ _ _ _ ha).trans (h.reads o ho)⟩

theorem State.EvtKept.reg (h : s.EvtKept t) {r : Nat} (hr : evtReg r = true) (v : Nat) : s.EvtKept (t.wr A.reg r v) :=
  ⟨fun o ho => (State.rd_wr_ix _ _ _ _ _ fun e => Bool.false_ne_true (ho.symm.trans ((congrArg evtReg e.symm).trans hr))).trans (h.reads o ho)⟩

theorem State.EvtKept.ite {p : Prop} [Decidable p] (ht : s.EvtKept t) (hu : s.EvtKept u) : s.EvtKept (if p then t else u) := by
  split
  · exact ht
  · exact hu

theorem evtReg_part {k x : Nat} (hk : k < 32) (hx : x < 0x1000) : evtReg (P k + x) = true := by
  refine decide_eq_true ?_
  simp only [P, Off.part]
  omega

theorem evtReg_queue (q : Nat) {x : Nat} (hx : x < 0x40) : evtReg (Q q + x) = true := by
  refine decide_eq_true ?_
  simp only [Q, Off.queue, Off.die]
  omega

theorem evtReg_die (d : Nat) {x : Nat} (h : 0x40700 ≤ x ∧ x < 0x42C00) : evtReg (D d + x) = true := by
  refine decide_eq_true ?_
  simp only [D, Off.die]
  omega

theorem setFlag_only (s : State) (t f : Nat) : s.Only [114, 120, 121, 123, 126, 127] (s.setFlag t f) := by
  have set : (s.wr A.tFlags t (s.rd A.tFlags t ||| 2 ^ f)).Only [114, 121, 123, 126, 127] (s.setFlag t f) :=
    (((((State.Only.refl ..).wr _ _ rfl).wr _ _ rfl).wr _ _ rfl |>.wr _ _ rfl).wr _ _ rfl).ite (.refl ..)
  exact ((State.Only.refl ..).wr _ _ rfl).step set rfl

theorem routeFlag_evt (s : State) (o : Option Nat) (v : Nat) : s.EvtKept (s.routeFlag o v) := by
  have check (t f : Nat) : s.EvtKept (s.setFlag t f) := ⟨fun o _ => (setFlag_only s t f).rd A.reg o rfl⟩
  unfold State.routeFlag
  dsimp only
  exact (State.EvtKept.refl s).ite ((check _ _).ite ((State.EvtKept.refl s).reg (evtReg_die _ (by decide)) _))

theorem routeVec_evt (s : State) (o : Option Nat) (v : Nat) : s.EvtKept (s.routeVec o v) :=
  (State.EvtKept.refl s).ite (((State.EvtKept.refl s).wr (by decide) _ _).ite ((State.EvtKept.refl s).reg (by decide) _))

theorem raise_evt (s : State) {src : Nat} (h : src < 1536) : s.EvtKept (s.raise src) := by
  have status : evtReg (oEVT_STATUS + 4 * (src / 32)) = true := by
    refine decide_eq_true ?_
    simp only [oEVT_STATUS]
    omega
  exact ((State.EvtKept.refl s).reg status _).trans ((routeFlag_evt ..).trans (routeVec_evt ..))

theorem qMark_evt (s : State) (q : Nat) : s.EvtKept (s.qMark q) := (State.EvtKept.refl s).reg (evtReg_queue q (by decide)) _

/-- Other packets. -/
theorem State.EvtKept.packets (h : s.EvtKept t) (p : List QPacket) : s.EvtKept { t with packets := p } := ⟨h.reads⟩

theorem qFlushed_evt (s : State) (q : Nat) : s.EvtKept (s.qFlushed q) :=
  (((qMark_evt s q).packets _).reg (evtReg_queue q (by decide)) _).ite (.refl s)

theorem qDiscard_evt (s : State) (q : Nat) : s.EvtKept (s.qDiscard q) :=
  (((State.EvtKept.refl s).reg (evtReg_queue q (by decide)) _).packets _).trans (qFlushed_evt ..)

theorem qMakeRoom_evt (s : State) (q n fuel : Nat) : s.EvtKept (s.qMakeRoom q n fuel) := by
  induction fuel generalizing s with
  | zero => exact .refl s
  | succ fuel ih => exact (State.EvtKept.refl s).ite ((qDiscard_evt s q).trans (ih _))

theorem qEmpty_evt (s : State) (q : Nat) : s.EvtKept (s.qEmpty q) :=
  ((qMark_evt s q).packets _).reg (evtReg_queue q (by decide)) _

theorem putRecord_evt {check : State → State} (hc : ∀ u : State, u.EvtKept (check u)) (s : State) (q : Nat) (pid : Option Nat) (w : List Nat) :
    s.EvtKept (s.putRecord check q pid w) := by
  unfold State.putRecord
  dsimp only
  have room : s.EvtKept (State.qMakeRoom (if s.qTakes q w.length then check s else s) q w.length
      (if s.qTakes q w.length then check s else s).packets.length) := ((hc s).ite (.refl s)).trans (qMakeRoom_evt ..)
  exact ((State.EvtKept.refl s).reg (evtReg_die _ (by decide)) _).ite ((room.packets _).ite (room.reg (evtReg_queue q (by decide)) _))

/-- A push that keeps the other registers. -/
def PushEvt (push : Push) : Prop := ∀ (s : State) (q : Nat) (pid : Option Nat) (w : List Nat), s.EvtKept (push s q pid w)

theorem recEvent_evt (s : State) (k src : Nat) : s.EvtKept (s.recEvent k src) := by
  have start : s.EvtKept (if s.rf (P k) REC_CFG_START_SRC = src then s.wr A.recWant k (s.rd A.recWant k ||| 4) else s) :=
    ((State.EvtKept.refl s).wr (by decide) _ _).ite (.refl s)
  exact (start.wr (by decide) _ _).ite start

theorem recordBy_evt {push : Push} (hp : PushEvt push) (s : State) {k : Nat} (hk : k < 32) (code : Nat) (l : Loc) (cyc step action detail : Nat) :
    s.EvtKept (s.recordBy push k code l cyc step action detail) := by
  have told : s.EvtKept (s.partRecordBy push k code l cyc step action detail) :=
    ((((hp s _ _ _).wr (by decide) _ _).wr (by decide) _ _).reg (evtReg_part hk (by decide)) _).ite
      ((State.EvtKept.refl s).reg (evtReg_part hk (by decide)) _)
  exact (told.trans (recEvent_evt ..)).ite ((told.trans (recEvent_evt ..)).ite told)

theorem firstFault_evt (s : State) {k : Nat} (hk : k < 32) (code src : Nat) : s.EvtKept (s.firstFault k code src) :=
  (State.EvtKept.refl s).ite ((((State.EvtKept.refl s).reg (evtReg_part hk (by decide)) _).reg (evtReg_part hk (by decide)) _).reg
    (evtReg_part hk (by decide)) _)

theorem ptrFault_evt {push : Push} (hp : PushEvt push) (s : State) (q : Nat) : s.EvtKept (s.ptrFault push q) := by
  have empty : s.EvtKept (((s.qEmpty q).wr A.qPtrBad q 0).cnt (Q q) QUEUE_HWM_PTR_FAULTS 1) :=
    ((qEmpty_evt s q).wr (by decide) _ _).reg (evtReg_queue q (by decide)) _
  unfold State.ptrFault
  dsimp only
  split
  next k h =>
    obtain ⟨pid, -, hp'⟩ := Option.bind_eq_some_iff.1 h
    have hk := slotOfPid_lt hp'
    exact ((empty.trans (recordBy_evt hp _ hk ..)).trans (firstFault_evt _ hk ..)).trans (raise_evt _ (by omega))
  next => exact empty.trans (((hp _ _ _ _).wr (by decide) _ _).trans (raise_evt _ (by decide)))

theorem pushRecordN_evt (n : Nat) : PushEvt (State.pushRecordN n) := by
  induction n with
  | zero => exact fun s q pid w => putRecord_evt (fun u => .refl u) ..
  | succ n ih => exact fun s q pid w => putRecord_evt (fun u => (ptrFault_evt ih u q).ite (.refl u)) ..

theorem pushRecord_evt : PushEvt State.pushRecord := pushRecordN_evt 4

/-- The registers of a trigger unit are none of these. -/
theorem evtReg_unit (u : Nat) {x : Nat} (hx : x < 0x100) : evtReg (TU u + x) = false := by
  refine decide_eq_false ?_
  simp only [TU, Off.trig, Off.die]
  omega

theorem State.EvtKept.unit (h : s.EvtKept t) (u : Nat) {f : Fld} (hf : f.off < 0x100) : t.rf (TU u) f = s.rf (TU u) f := by
  rw [State.rf, State.rf, h.reads _ (evtReg_unit u hf)]

end kept

/-! ### Trigger inputs (R281, R290) -/

section edge
variable {s : State} {i u : Nat}

/-- Unit `u` latches an edge on input `i`. -/
def State.latches (s : State) (i u : Nat) : Prop := s.rf (TU u) TRIG_CFG_EXT_EN = 1 ∧ s.rf (TU u) TRIG_CFG_EXT_IN = i

theorem extEdge_only (s : State) (i : Nat) : s.Only [A.tgExt.code] (s.extEdge i) :=
  only_each (fun _ j => ((State.Only.refl ..).wr (a := A.tgExt) j 1 rfl).ite (.refl ..)) 32 s

theorem extEdge_mem (s : State) (i : Nat) : (s.extEdge i).mem = s.mem :=
  foldl_keeps (obs := State.mem) (l := List.range 32)
    (f := fun s u => if s.rf (TU u) TRIG_CFG_EXT_EN = 1 ∧ s.rf (TU u) TRIG_CFG_EXT_IN = i then s.wr A.tgExt u 1 else s)
    (fun u j _ => by split <;> rfl) s

/-- The edge sets the latch of the units that select the input, and of no other. -/
theorem extEdge_latch (hu : u < 32) : (s.extEdge i).rd A.tgExt u =
    if s.rf (TU u) TRIG_CFG_EXT_EN = 1 ∧ s.rf (TU u) TRIG_CFG_EXT_IN = i then 1 else s.rd A.tgExt u := by
  obtain ⟨v, hv, ht⟩ := each_at
    (f := fun s u => if s.rf (TU u) TRIG_CFG_EXT_EN = 1 ∧ s.rf (TU u) TRIG_CFG_EXT_IN = i then s.wr A.tgExt u 1 else s)
    (obs := fun v => (v.rf (TU u) TRIG_CFG_EXT_EN, v.rf (TU u) TRIG_CFG_EXT_IN, v.rd A.tgExt u)) hu
    (fun w j hj => by
      split
      · rw [rf_wr _ _ _ _ _ (by decide), rf_wr _ _ _ _ _ (by decide), State.rd_wr_ix _ _ _ _ _ hj]
      · rfl) s
  simp only [Prod.mk.injEq] at hv ht
  obtain ⟨en, which, latch⟩ := hv
  refine ht.2.2.trans ?_
  rw [en, which]
  split
  · rw [State.rd_wr_same]
    rfl
  · exact latch

end edge

/-! ### The probe map (R276, R277, R291) -/

section probes
variable {s : State} {who : Who} {die v : Nat}

theorem probeResult_rf (s : State) (d r : Nat) {f : Fld} (h : f = PROBE_MAP_SEL_WORD ∨ f = PROBE_MAP_SEL_SLOT ∨ f = PROBE_MAP_SEL_AUTOINC) :
    (s.wf (D d) PROBE_MAP_SEL_RESULT r).rf (D d) f = s.rf (D d) f := by
  rcases h with rfl | rfl | rfl
  · exact rf_wf_apart s (D d) (f := PROBE_MAP_SEL_RESULT) (g := PROBE_MAP_SEL_WORD) r (by decide)
  · exact rf_wf_apart s (D d) (f := PROBE_MAP_SEL_RESULT) (g := PROBE_MAP_SEL_SLOT) r (by decide)
  · exact rf_wf_apart s (D d) (f := PROBE_MAP_SEL_RESULT) (g := PROBE_MAP_SEL_AUTOINC) r (by decide)

/-- SLOT after an access (R277). -/
def State.slotNext (s : State) (d : Nat) (u : State) : State :=
  if s.rf (D d) PROBE_MAP_SEL_AUTOINC = 1 then u.wf (D d) PROBE_MAP_SEL_SLOT (s.rf (D d) PROBE_MAP_SEL_SLOT + 1) else u

theorem mapAdvance_eq {u : State} (h : ∀ f, f = PROBE_MAP_SEL_SLOT ∨ f = PROBE_MAP_SEL_AUTOINC → u.rf (D die) f = s.rf (D die) f) :
    u.mapAdvance die = s.slotNext die u := by
  rw [State.mapAdvance, h _ (.inr rfl), h _ (.inl rfl), State.slotNext]

theorem mapIx_result (r : Nat) : (s.wf (D die) PROBE_MAP_SEL_RESULT r).mapIx die = s.mapIx die := by
  rw [State.mapIx, probeResult_rf s die r (.inl rfl), probeResult_rf s die r (.inr (.inl rfl)), ← State.mapIx]

/-- A write of an entry that is refused with `r`. -/
def State.probeRefused (s : State) (die r : Nat) : State := s.slotNext die (s.wf (D die) PROBE_MAP_SEL_RESULT r)

/-- The cell that an entry names lies on a wall of the word's owner. -/
def State.probeMine (s : State) (die v : Nat) : Bool :=
  (s.wordOwner (32 * die + s.rf (D die) PROBE_MAP_SEL_WORD)).any (s.wallOf (16 * die + slice v 12 4))

theorem probeMapWrite_denied (h : s.pfRights who = false) : s.probeMapWrite who die v = s.ans 1 0 := if_pos (by rw [h]; decide)

/-- RESULT of a write of an entry. -/
def State.probeCheck (s : State) (die v : Nat) : Nat :=
  if ¬ s.wordFree die (s.rf (D die) PROBE_MAP_SEL_WORD) then 3 else if slice v 16 1 = 1 ∧ ¬ s.probeMine die v then 2 else 0

theorem probeMapWrite_eq (h : s.pfRights who = true) : s.probeMapWrite who die v =
    ((if s.probeCheck die v = 0 then (s.wf (D die) PROBE_MAP_SEL_RESULT (s.probeCheck die v)).wr A.pmap
        ((s.wf (D die) PROBE_MAP_SEL_RESULT (s.probeCheck die v)).mapIx die) (slice v 0 17)
      else s.wf (D die) PROBE_MAP_SEL_RESULT (s.probeCheck die v)).mapAdvance die).ans 0 0 := if_neg (by rw [h]; decide)

theorem probeMapWrite_refused (h : s.pfRights who = true) {r : Nat} (hr : s.probeCheck die v = r) (h0 : r ≠ 0) :
    s.probeMapWrite who die v = (s.probeRefused die r).ans 0 0 := by
  rw [probeMapWrite_eq h, hr, if_neg h0, mapAdvance_eq fun f hf => probeResult_rf s die r (.inr hf)]
  rfl

theorem probeMapWrite_done (h : s.pfRights who = true) (hr : s.probeCheck die v = 0) : s.probeMapWrite who die v =
    (s.slotNext die ((s.wf (D die) PROBE_MAP_SEL_RESULT 0).wr A.pmap (s.mapIx die) (slice v 0 17))).ans 0 0 := by
  rw [probeMapWrite_eq h, hr, if_pos rfl, mapIx_result,
    mapAdvance_eq fun f hf => (rf_wr _ _ _ _ _ (by decide)).trans (probeResult_rf s die 0 (.inr hf))]

theorem probeMapRead_may (h : s.pfRights who = true ∨ s.isOwner who (s.wordOwner (32 * die + s.rf (D die) PROBE_MAP_SEL_WORD)) = true) :
    s.probeMapRead who die = (s.probeRefused die 0).ans 0 (s.rd A.pmap (s.mapIx die)) := by
  rw [State.probeMapRead, if_pos h, mapAdvance_eq fun f hf => probeResult_rf s die 0 (.inr hf)]
  rfl

theorem probeMapRead_denied (h : s.pfRights who = false) (ho : s.isOwner who (s.wordOwner (32 * die + s.rf (D die) PROBE_MAP_SEL_WORD)) = false) :
    s.probeMapRead who die = s.ans 1 0 := by
  rw [State.probeMapRead, if_neg (by rw [h, ho]; decide)]
  rfl

end probes

/-! ### A fire (R284, R285, R288) -/

section fire
variable {s : State} {u : Nat}

/-- The record of a fire. -/
def State.fireLogged (s : State) (u : Nat) (w : List Nat) : State :=
  if s.rf (TU u) TRIG_CFG_LOG_EN = 1 then
    s.pushRecord (128 * (u / 4) + s.rf (TU u) TRIG_CFG_LOG_QUEUE) (some (s.rf (TU u) TRIG_CFG_OWNER)) w
  else s

/-- The registers of a fire. -/
def State.fireShown (s : State) (u n place v : Nat) : State :=
  (((s.setPair (TU u + 0x80) n).setPair (TU u + 0x88) place).setPair (TU u + 0x90) s.timeNs).wr A.reg (TU u + 0x98) v

/-- The output of a fire. -/
def State.fireDriven (s : State) (u : Nat) : State :=
  if s.rf (TU u) TRIG_CFG_OUT_EN = 1 then s.wr A.tgOut u (1 + s.rf (TU u) TRIG_CFG_OUT_PIN) else s

/-- What a fire does before it stops a partition. -/
def State.fireTold (s : State) (k u n place v : Nat) (w : List Nat) : State :=
  ((((s.fireLogged u w).fireShown u n place v).fireDriven u).raise (0x580 + u)).recEvent k (0x20 + u)

theorem trigFire_eq (s : State) (k u n : Nat) (cr : Option Nat) (ext forced : Bool) : ∃ place v w,
    s.trigFire k u n cr ext forced = if (s.fireTold k u n place v w).rf (TU u) TRIG_CFG_STOP = 1 then (s.fireTold k u n place v w).act k 0 1
      else s.fireTold k u n place v w := ⟨_, _, _, rfl⟩

theorem fireLogged_evt (s : State) (u : Nat) (w : List Nat) : s.EvtKept (s.fireLogged u w) := (pushRecord_evt ..).ite (.refl s)

theorem fireShown_rf (s : State) (u n place v : Nat) {f : Fld} (h : f.off < 0x80) : (s.fireShown u n place v).rf (TU u) f = s.rf (TU u) f := by
  rw [State.fireShown, State.rf, State.reg, State.rd_wr_ix _ _ _ _ _ (by omega), ← State.reg, ← State.rf, rf_setPair _ _ _ _ (by omega) (by omega),
    rf_setPair _ _ _ _ (by omega) (by omega), rf_setPair _ _ _ _ (by omega) (by omega)]

theorem fireShown_cycle (s : State) (u n place v : Nat) : (s.fireShown u n place v).pair (TU u + 0x80) = n % 2 ^ 64 := by
  have last (x : State) : (x.wr A.reg (TU u + 0x98) v).pair (TU u + 0x80) = x.pair (TU u + 0x80) := by
    rw [State.pair, State.reg, State.reg, State.rd_wr_ix _ _ _ _ _ (by omega), State.rd_wr_ix _ _ _ _ _ (by omega)]
    rfl
  rw [State.fireShown, last, pair_setPair_ne _ _ (.inl (by omega)), pair_setPair_ne _ _ (.inl (by omega)), pair_setPair_same]

theorem fireDriven_evt (s : State) (u : Nat) : s.EvtKept (s.fireDriven u) := ((State.EvtKept.refl s).wr (by decide) _ _).ite (.refl s)

section told
variable (k n place v : Nat) (w : List Nat)

/-- The last events of a fire. -/
theorem fireTold_evt (hu : u < 32) : (((s.fireLogged u w).fireShown u n place v)).EvtKept (s.fireTold k u n place v w) :=
  (fireDriven_evt ..).trans ((raise_evt _ (by omega)).trans (recEvent_evt ..))

theorem fireTold_rf (hu : u < 32) {f : Fld} (h : f.off < 0x80) : (s.fireTold k u n place v w).rf (TU u) f = s.rf (TU u) f := by
  rw [(fireTold_evt k n place v w hu).unit u (by omega), fireShown_rf _ _ _ _ _ h, (fireLogged_evt s u w).unit u (by omega)]

theorem fireTold_cycle (hu : u < 32) : (s.fireTold k u n place v w).pair (TU u + 0x80) = n % 2 ^ 64 := by
  have kept := (fireTold_evt (s := s) k n place v w hu).reads
  rw [State.pair, kept _ (evtReg_unit u (by decide)), Nat.add_assoc, kept _ (evtReg_unit u (by decide)), ← Nat.add_assoc, ← State.pair]
  exact fireShown_cycle ..

theorem fireTold_out (h : s.rf (TU u) TRIG_CFG_OUT_EN = 1) : (s.fireTold k u n place v w).rd A.tgOut u = 1 + s.rf (TU u) TRIG_CFG_OUT_PIN := by
  have before {f : Fld} (hf : f.off < 0x80) : ((s.fireLogged u w).fireShown u n place v).rf (TU u) f = s.rf (TU u) f := by
    rw [fireShown_rf _ _ _ _ _ hf, (fireLogged_evt s u w).unit u (by omega)]
  have fits : s.rf (TU u) TRIG_CFG_OUT_PIN < 2 ^ 3 := slice_lt ..
  rw [State.fireTold, (recEvent_calm _ _ _).only.rd A.tgOut u rfl, (raise_calm _ _).only.rd A.tgOut u rfl, State.fireDriven,
    before (by decide), if_pos h, State.rd_wr_same, before (by decide)]
  exact Nat.mod_eq_of_lt (show _ < 2 ^ 4 by omega)

end told

end fire

/-! ### A sample of an ARMED unit (R279, R280) -/

section sample
variable {s : State} {k n u : Nat}

/-- The values of the comparators' words, which the next sample compares with. -/
def State.sampled (s : State) (u v0 v1 : Nat) : State :=
  (((s.wr A.tgPrev (2 * u) v0).wr A.tgPrev (2 * u + 1) v1).wr A.tgValid u 1).wr A.tgExt u 0

theorem sampled_reads (s : State) (u v0 v1 : Nat) : (s.sampled u v0 v1).rd A.tgExt u = 0 ∧ (s.sampled u v0 v1).rd A.tgValid u = 1 ∧
    (s.sampled u v0 v1).rd A.tgPrev (2 * u) = v0 % 2 ^ 64 ∧ (s.sampled u v0 v1).rd A.tgPrev (2 * u + 1) = v1 % 2 ^ 64 := by
  refine ⟨State.rd_wr_same .., ?_, ?_, ?_⟩
  · rw [State.sampled, State.rd_wr_arr _ _ _ _ _ _ (by decide)]
    exact State.rd_wr_same ..
  · rw [State.sampled, State.rd_wr_arr _ _ _ _ _ _ (by decide), State.rd_wr_arr _ _ _ _ _ _ (by decide), State.rd_wr_ix _ _ _ _ _ (by omega)]
    exact State.rd_wr_same ..
  · rw [State.sampled, State.rd_wr_arr _ _ _ _ _ _ (by decide), State.rd_wr_arr _ _ _ _ _ _ (by decide)]
    exact State.rd_wr_same ..

theorem sampled_rd (s : State) (u v0 v1 : Nat) {a : Arr} (i : Nat) (h : [A.tgPrev.code, A.tgValid.code, A.tgExt.code].contains (a.code % 512) = false) :
    (s.sampled u v0 v1).rd a i = s.rd a i :=
  State.Only.rd (codes := [A.tgPrev.code, A.tgValid.code, A.tgExt.code])
    (((((State.Only.refl ..).wr _ _ rfl).wr _ _ rfl).wr _ _ rfl).wr _ _ rfl) a i h

theorem sampled_rf (s : State) (u v0 v1 b : Nat) (f : Fld) : (s.sampled u v0 v1).rf b f = s.rf b f := by
  rw [State.rf, State.reg, sampled_rd _ _ _ _ _ rfl]
  rfl

theorem sampled_pair (s : State) (u v0 v1 o : Nat) : (s.sampled u v0 v1).pair o = s.pair o := by
  rw [State.pair, State.reg, State.reg, sampled_rd _ _ _ _ _ rfl, sampled_rd _ _ _ _ _ rfl]
  rfl

/-- Whether comparator `c` is true for its word now. -/
def State.cmpNow (s : State) (u c : Nat) : Bool := s.cmpTrue u c (s.probeWord (s.cmpWord u c))

/-- The EXT input of a unit's conditions. -/
def State.extNow (s : State) (u : Nat) : Bool := s.on A.tgExt u && decide (s.rf (TU u) TRIG_CFG_EXT_EN = 1)

/-- What the sequencer of an ARMED unit does in a sample. -/
def State.seqNow (s : State) (u : Nat) : State × Bool × Nat := s.seqStep u (s.cmpNow u 0) (s.cmpNow u 1) (s.extNow u)

/-- The values of a unit's words in a sample. -/
def State.valNow (s : State) (u c : Nat) : Nat := s.probeWord (s.cmpWord u c)

/-- A capture unit without words captures nothing. -/
theorem capWrite_none {fired : Bool} (h : s.capWords u = []) : s.capWrite u n fired = s := if_pos (.inl h)

/-- A unit that has fired is in POST, or DONE. -/
def State.firedTo (s : State) (u : Nat) : State :=
  if slice (s.rf (TU u) TRIG_POST_VALUE) 0 20 = 0 then s.trigTo u 4 else (s.trigTo u 3).wr A.tgFill u 0

section armed
variable (h2 : s.rf (TU u) TRIG_CTRL_STATE = 2) (hn : s.trigFrom u ≤ n) (hf : s.on A.tgForce u = false)
include h2 hn hf

theorem trigUnit_rests {q : State} {c : Nat} (hq : s.seqNow u = (q, false, c)) :
    s.trigUnit k n u = ((q.capWrite u n false).wr A.tgForce u 0).sampled u (s.valNow u 0) (s.valNow u 1) := by
  have starts : ¬ (s.rf (TU u) TRIG_CTRL_STATE = 0 ∨ s.rf (TU u) TRIG_CTRL_STATE = 4 ∨ n < s.trigFrom u) := by omega
  simp only [State.seqNow, State.cmpNow, State.extNow] at hq
  rw [State.trigUnit, if_neg starts]
  simp [h2, hf, hq, State.sampled, State.valNow]

theorem trigUnit_fires {q : State} {c : Nat} (hq : s.seqNow u = (q, true, c)) : s.trigUnit k n u =
    (((q.trigFire k u n (q.crossing u c (s.valNow u 0) (s.valNow u 1) (s.cmpNow u 0) (s.cmpNow u 1)) (condHasExt c) false).capWrite
      u n true).wr A.tgForce u 0 |>.firedTo u).sampled u (s.valNow u 0) (s.valNow u 1) := by
  have starts : ¬ (s.rf (TU u) TRIG_CTRL_STATE = 0 ∨ s.rf (TU u) TRIG_CTRL_STATE = 4 ∨ n < s.trigFrom u) := by omega
  simp only [State.seqNow, State.cmpNow, State.extNow] at hq
  rw [State.trigUnit, if_neg starts]
  simp [h2, hf, hq, State.sampled, State.valNow, State.cmpNow, State.firedTo]

end armed

/-! ### The sequencer (R280) -/

/-- The register of the sequencer's state. -/
def State.seqBase (s : State) (u : Nat) : Nat := TU u + 4 * s.rf (TU u) TRIG_CTRL_SEQ

/-- The condition of the sequencer's state holds. -/
def State.condNow (s : State) (u : Nat) : Bool := condTrue (s.rf (s.seqBase u) TRIG_SEQ_COND) (s.cmpNow u 0) (s.cmpNow u 1) (s.extNow u)

theorem seqNow_stays (h : s.condNow u = false) : ∃ c, s.seqNow u = (s, false, c) :=
  ⟨_, if_pos (Bool.eq_false_iff.1 h)⟩

section holds
variable (h : s.condNow u = true)
include h

theorem seqNow_counts (hc : s.rd A.tgCount u + 1 < s.rf (s.seqBase u) TRIG_SEQ_COUNT) :
    ∃ c, s.seqNow u = (s.wr A.tgCount u (s.rd A.tgCount u + 1), false, c) :=
  ⟨_, (if_neg (not_not.2 h)).trans (if_pos (lt_of_lt_of_le hc (Nat.le_max_right ..)))⟩

theorem seqNow_goes (hc : s.rf (s.seqBase u) TRIG_SEQ_COUNT ≤ s.rd A.tgCount u + 1) (hf : s.rf (s.seqBase u) TRIG_SEQ_FIRE = 0) :
    ∃ c, s.seqNow u = ((s.wf (TU u) TRIG_CTRL_SEQ (s.rf (s.seqBase u) TRIG_SEQ_NEXT)).wr A.tgCount u 0, false, c) :=
  ⟨_, (if_neg (not_not.2 h)).trans
    ((if_neg (Nat.not_lt.2 (Nat.max_le.2 ⟨Nat.le_add_left .., hc⟩))).trans (if_neg fun e => absurd (hf.symm.trans e) (by decide)))⟩

theorem seqNow_fires (hc : s.rf (s.seqBase u) TRIG_SEQ_COUNT ≤ s.rd A.tgCount u + 1) (hf : s.rf (s.seqBase u) TRIG_SEQ_FIRE = 1) :
    ∃ c, s.seqNow u = (s, true, c) :=
  ⟨_, (if_neg (not_not.2 h)).trans
    ((if_neg (Nat.not_lt.2 (Nat.max_le.2 ⟨Nat.le_add_left .., hc⟩))).trans (if_pos hf))⟩

end holds

theorem capWords_congr {t : State} (h : t.rf (TU u) TRIG_CAP_MASK_VALUE = s.rf (TU u) TRIG_CAP_MASK_VALUE) : t.capWords u = s.capWords u := by
  rw [State.capWords, h, State.capWords]

/-- What is left of a fire where no stop follows and nothing is captured. -/
theorem trigFire_told (hs : s.rf (TU u) TRIG_CFG_STOP = 0) (hu : u < 32) (cr : Option Nat) (ext forced : Bool) : ∃ place v w,
    s.trigFire k u n cr ext forced = s.fireTold k u n place v w := by
  obtain ⟨place, v, w, eq⟩ := trigFire_eq s k u n cr ext forced
  exact ⟨place, v, w, eq.trans (if_neg (by rw [fireTold_rf _ _ _ _ _ hu (by decide), hs]; decide))⟩

theorem firedTo_state (s : State) (u : Nat) :
    (s.firedTo u).rf (TU u) TRIG_CTRL_STATE = if slice (s.rf (TU u) TRIG_POST_VALUE) 0 20 = 0 then 4 else 3 := by
  unfold State.firedTo
  split
  · exact trigTo_state ..
  · exact (rf_wr _ _ _ _ _ (by decide)).trans (trigTo_state ..)

theorem firedTo_cycle (s : State) (u : Nat) : (s.firedTo u).pair (TU u + 0x80) = s.pair (TU u + 0x80) := by
  have kept (m : Nat) : (s.trigTo u m).pair (TU u + 0x80) = s.pair (TU u + 0x80) :=
    pair_wf _ _ _ _ (by simp [TRIG_CTRL_STATE]) (by simp [TRIG_CTRL_STATE])
  unfold State.firedTo
  split
  · exact kept 4
  · exact (pair_wr _ _ _ _ (by decide)).trans (kept 3)

theorem firedTo_out (s : State) (u : Nat) : (s.firedTo u).rd A.tgOut u = s.rd A.tgOut u := by
  have kept (m : Nat) : (s.trigTo u m).rd A.tgOut u = s.rd A.tgOut u := State.rd_wf _ _ _ _ _ _ (by decide)
  unfold State.firedTo
  split
  · exact kept 4
  · exact (State.rd_wr_arr _ _ _ _ _ _ (by decide)).trans (kept 3)

end sample

/-- Settles O34: inputs through the units that select them, the map through RESULT, a sample through what its sequencer does. -/
theorem triggerSampling : Obligations.TriggerSampling := by
  unfold Obligations.TriggerSampling
  refine ⟨fun s input hc => ?_, fun s who die val => ?_, fun s k n unit => ?_⟩
  · have edge : exec (.triggerInputEdge input) s = .next (if s.sigHeard (0x2C + input) then s.extEdge input else s) := if_pos hc
    rw [edge]
    refine ⟨fun h => ?_, fun h => ?_⟩
    · rw [if_neg (by rw [h]; decide)]
    · rw [if_pos h]
      refine ⟨_, rfl, fun u hu => extEdge_latch hu, fun x hx hne j => (extEdge_only s input).rd x j ?_, extEdge_mem s input⟩
      rw [Nat.mod_eq_of_lt hx]
      simpa using hne
  · intro d n v word i next mine done h
    have write : exec (.probeMapWrite who die val) s = .next (s.probeMapWrite who n v) := accessDom_next h _ fun s => s.probeMapWrite who n v
    have read : exec (.probeMapRead who die) s = .next (s.probeMapRead who n) := accessDom_next h _ fun s => s.probeMapRead who n
    rw [write, read]
    refine ⟨fun hp => ?_, fun hp => ⟨fun hw => ?_, fun hw h16 hm => ?_, fun hw hm => ?_⟩, fun hp => ?_, fun hp ho => ?_⟩
    · rw [probeMapWrite_denied hp]
    · have check : s.probeCheck n v = 3 := if_pos (by rw [show s.wordFree n _ = false from hw]; decide)
      rw [probeMapWrite_refused hp check (by decide)]
      rfl
    · have bit : slice v 16 1 = 1 := by rw [testBit_slice] at h16; exact of_decide_eq_true h16
      have check : s.probeCheck n v = 2 := (if_neg (not_not.2 hw)).trans (if_pos ⟨bit, Bool.eq_false_iff.1 hm⟩)
      rw [probeMapWrite_refused hp check (by decide)]
      rfl
    · have check : s.probeCheck n v = 0 := by
        refine (if_neg (not_not.2 hw)).trans (if_neg fun e => ?_)
        rcases hm with h16 | hm
        · rw [testBit_slice, decide_eq_false_iff_not] at h16
          exact h16 e.1
        · exact e.2 hm
      rw [probeMapWrite_done hp check]
      rfl
    · rw [probeMapRead_may hp]
      rfl
    · rw [probeMapRead_denied hp ho]
  · intro u b seq ok ext holds t hu h2 hn hf hw
    have sampled : ∃ x : State, t = x.sampled u (s.valNow u 0) (s.valNow u 1) := by
      rcases hq : s.seqNow u with ⟨q, fires, c⟩
      cases fires
      · exact ⟨_, trigUnit_rests h2 hn hf hq⟩
      · exact ⟨_, trigUnit_fires h2 hn hf hq⟩
    have rests {q : State} {c : Nat} (hq : s.seqNow u = (q, false, c)) (hm : q.rf b TRIG_CAP_MASK_VALUE = s.rf b TRIG_CAP_MASK_VALUE) :
        t = (q.wr A.tgForce u 0).sampled u (s.valNow u 0) (s.valNow u 1) := by
      rw [← capWrite_none (s := q) (n := n) (fired := false) ((capWords_congr hm).trans hw)]
      exact trigUnit_rests h2 hn hf hq
    refine ⟨?_, fun hh => ?_, fun hh hc => ?_, fun hh hc => ⟨fun h0 => ?_, fun h1 hs hlt => ?_⟩⟩
    · obtain ⟨x, hx⟩ := sampled
      obtain ⟨ext0, valid, first, second⟩ := sampled_reads x u (s.valNow u 0) (s.valNow u 1)
      rw [hx]
      refine ⟨ext0, valid, fun c hc => ?_⟩
      rcases (by omega : c = 0 ∨ c = 1) with rfl | rfl
      · exact first
      · exact second
    · obtain ⟨c, hq⟩ := seqNow_stays hh
      rw [rests hq rfl, sampled_rf, sampled_rf, rf_wr _ _ _ _ _ (by decide), rf_wr _ _ _ _ _ (by decide)]
      exact ⟨h2, rfl⟩
    · obtain ⟨c, hq⟩ := seqNow_counts hh hc
      have fits : s.rd A.tgCount u + 1 < 2 ^ A.tgCount.width := hc.trans (slice_lt _ 4 16)
      rw [rests hq (rf_wr _ _ _ _ _ (by decide)), sampled_rf, sampled_rf, rf_wr _ _ _ _ _ (by decide), rf_wr _ _ _ _ _ (by decide),
        rf_wr _ _ _ _ _ (by decide), rf_wr _ _ _ _ _ (by decide), sampled_rd _ _ _ _ _ rfl, State.rd_wr_arr _ _ _ _ _ _ (by decide),
        State.rd_wr_same, Nat.mod_eq_of_lt fits]
      exact ⟨h2, rfl, rfl⟩
    · obtain ⟨c, hq⟩ := seqNow_goes hh hc h0
      have mask : ((s.wf (TU u) TRIG_CTRL_SEQ (s.rf (s.seqBase u) TRIG_SEQ_NEXT)).wr A.tgCount u 0).rf b TRIG_CAP_MASK_VALUE =
          s.rf b TRIG_CAP_MASK_VALUE :=
        (rf_wr _ _ _ _ _ (by decide)).trans (State.rf_wf_reg _ _ _ _ _ _ (by simp [b, TRIG_CTRL_SEQ, TRIG_CAP_MASK_VALUE]))
      have state := rf_wf_apart s (TU u) (f := TRIG_CTRL_SEQ) (g := TRIG_CTRL_STATE) (s.rf (s.seqBase u) TRIG_SEQ_NEXT) (by decide)
      have next : (s.wf (TU u) TRIG_CTRL_SEQ (s.rf (s.seqBase u) TRIG_SEQ_NEXT)).rf (TU u) TRIG_CTRL_SEQ = s.rf (s.seqBase u) TRIG_SEQ_NEXT :=
        (State.rf_wf_same _ _ _ _ (by decide)).trans (Nat.mod_eq_of_lt (slice_lt _ 20 3))
      rw [rests hq mask, sampled_rf, sampled_rf, rf_wr _ _ _ _ _ (by decide), rf_wr _ _ _ _ _ (by decide), rf_wr _ _ _ _ _ (by decide),
        rf_wr _ _ _ _ _ (by decide), sampled_rd _ _ _ _ _ rfl, State.rd_wr_arr _ _ _ _ _ _ (by decide), State.rd_wr_same]
      exact ⟨state.trans h2, next, rfl⟩
    · obtain ⟨c, hq⟩ := seqNow_fires hh hc h1
      obtain ⟨place, v, w, told⟩ := trigFire_told (k := k) (n := n) hs hu (s.crossing u c (s.valNow u 0) (s.valNow u 1) (s.cmpNow u 0) (s.cmpNow u 1))
        (condHasExt c) false
      have kept {f : Fld} (hf : f.off < 0x80) := fireTold_rf (s := s) k n place v w hu hf
      have eq : t = (((s.fireTold k u n place v w).wr A.tgForce u 0).firedTo u).sampled u (s.valNow u 0) (s.valNow u 1) := by
        rw [← capWrite_none (s := s.fireTold k u n place v w) (n := n) (fired := true) ((capWords_congr (kept (by decide))).trans hw), ← told]
        exact trigUnit_fires h2 hn hf hq
      rw [eq, sampled_rf, sampled_pair, sampled_rd _ _ _ _ _ rfl, firedTo_state, firedTo_cycle, firedTo_out, rf_wr _ _ _ _ _ (by decide),
        pair_wr _ _ _ _ (by decide), State.rd_wr_arr _ _ _ _ _ _ (by decide), kept (by decide)]
      exact ⟨rfl, (fireTold_cycle k n place v w hu).trans (Nat.mod_eq_of_lt (hlt.trans (by decide))), fun ho => fireTold_out k n place v w ho⟩

end Sys2Proof.Machine

/-! CERTIFICATE. The phases of a test by Newt (chapter 8, R191, R197, R198). -/

namespace Sys2Proof.Machine

open Reg

/-- FILL of a bay column on die 0. The error entry of the column's word 0 is listed as 5: A.err has 2 bits, so that it reads 1,
correctable. -/
def wideErrorInFill : State :=
  { (State.reset.wf (D 0) NEWT_STATUS_PHASE 4) with
    arr := (A.err.key (A.bay.key 0), 5) :: (State.reset.wf (D 0) NEWT_STATUS_PHASE 4).arr
    repairs := [⟨0, 0, 0, 0, true, 0, 0, false, false⟩] }

/-- Refutes O25: FILL takes out the error entries that are listed as 1, and not those whose value reads 1 in the array's width. -/
theorem not_newtPhases : ¬ Obligations.NewtPhases := by
  unfold Obligations.NewtPhases
  intro h
  obtain ⟨phases, -⟩ := h
  obtain ⟨-, -, fill, -⟩ := phases wideErrorInFill 0 (by decide +kernel) ⟨by decide +kernel, rfl⟩
  obtain ⟨t, ht, -, -, -, errors, -⟩ := fill (.inr ⟨by decide +kernel, by decide⟩)
  have fixed := errors (by decide +kernel) 0
  have left : (match exec (.newtFillEnd 0) wideErrorInFill with | .next t => t.errOf A.bay 0 | _ => 0) = 1 := by decide +kernel
  rw [ht] at left
  have column : wideErrorInFill.errOf A.bay 0 = 1 ∧ wideErrorInFill.inFill (0 : Fin 8).val 0 = true := by decide +kernel
  rw [if_pos column] at fixed
  exact absurd (fixed.symm.trans left) (by decide)

end Sys2Proof.Machine

/-! SUPPORT and CERTIFICATE. Newt's verdicts (chapter 8, R193, R194, R196): the decision table, the spares that a verdict takes, and
the end of MARCH and of a pin. -/

namespace Sys2Proof.Machine

open Reg

/-! ### The decision table (R193, R194) -/

section table
variable {cr : Bool} {log own : List NewtCell} {x : NewtCell}

theorem newtVerdict_judged {f : List NewtCell} {j : Judged} (h0 : f ≠ []) (h : judgeGroup cr log f = some j) :
    newtVerdict cr f own log = (j.verdict, some [j]) := by
  cases f with
  | nil => exact absurd rfl h0
  | cons x r => simp only [newtVerdict, h]

theorem judge_single_sense (h : ∃ e ∈ log, e.col = x.col ∧ e.bitNo = x.bitNo ∧ e.row ≠ x.row) : judgeGroup cr log [x] = some ⟨3, x, 2⟩ := by
  have found : log.any (fun e => decide (e.col = x.col ∧ e.bitNo = x.bitNo ∧ e.row ≠ x.row)) = true := by
    obtain ⟨e, he, hx⟩ := h
    exact List.any_eq_true.2 ⟨e, he, decide_eq_true hx⟩
  simp only [judgeGroup, List.any_nil, Bool.false_eq_true, and_false, if_false, List.isEmpty_nil, if_true, found]
  rfl

theorem judge_single_cell (h : ∀ e ∈ log, e.col = x.col → e.bitNo = x.bitNo → e.row = x.row) :
    judgeGroup cr log [x] = some ⟨2, x, if cr then 1 else 0⟩ := by
  have none_ : log.any (fun e => decide (e.col = x.col ∧ e.bitNo = x.bitNo ∧ e.row ≠ x.row)) = false :=
    List.any_eq_false.2 fun e he => by
      rw [decide_eq_true_iff]
      exact fun ⟨hc, hb, hr⟩ => hr (h e he hc hb)
  simp only [judgeGroup, List.any_nil, Bool.false_eq_true, and_false, if_false, List.isEmpty_nil, if_true, none_]
  rfl

/-- Failures on one column and bit over rows. -/
theorem judge_column {r : List NewtCell} (hs : ∀ z ∈ r, z.col = x.col ∧ z.bitNo = x.bitNo) (hr : ∃ z ∈ r, z.row ≠ x.row) :
    judgeGroup cr log (x :: r) = some ⟨3, x, 2⟩ := by
  have same : r.all (fun y => decide (y.col = x.col ∧ y.bitNo = x.bitNo)) = true := List.all_eq_true.2 fun z hz => decide_eq_true (hs z hz)
  have rows : r.any (fun y => decide (y.row ≠ x.row)) = true := by
    obtain ⟨z, hz, hx⟩ := hr
    exact List.any_eq_true.2 ⟨z, hz, decide_eq_true hx⟩
  exact if_pos ⟨same, rows⟩

/-- Failures in one row over columns. -/
theorem judge_row {r : List NewtCell} (hs : ∀ z ∈ r, z.row = x.row) (hc : ∃ z ∈ r, z.col ≠ x.col) :
    judgeGroup cr log (x :: r) = some ⟨4, x, 1⟩ := by
  have rows : r.any (fun y => decide (y.row ≠ x.row)) = false :=
    List.any_eq_false.2 fun z hz => by
      rw [decide_eq_true_iff]
      exact fun hn => hn (hs z hz)
  have same : r.all (fun y => decide (y.row = x.row)) = true := List.all_eq_true.2 fun z hz => decide_eq_true (hs z hz)
  have columns : r.any (fun y => decide (y.col ≠ x.col)) = true := by
    obtain ⟨z, hz, hx⟩ := hc
    exact List.any_eq_true.2 ⟨z, hz, decide_eq_true hx⟩
  have some_ : r.isEmpty = false := by
    obtain ⟨z, hz, -⟩ := hc
    exact List.isEmpty_eq_false_iff.2 (List.ne_nil_of_mem hz)
  refine (if_neg fun h => Bool.false_ne_true (rows.symm.trans h.2)).trans ((if_neg (by rw [some_]; decide)).trans (if_pos ⟨same, columns⟩))

end table

/-! ### Spares and records -/

section repair
variable {s : State} {d : Nat}

theorem newtRecord_repairs (s : State) (d v r sp : Nat) (x : NewtCell) : (s.newtRecord d v r sp x).repairs = s.repairs :=
  (congrArg State.repairs (pushRecord_calm s _ _ _).core :)

theorem newtUsed_empty (h : s.corrLog = []) (v : Nat) (js : List Judged) : s.newtUsed d v js = s := by
  rw [State.newtUsed, h]
  show { s with corrLog := [] } = s
  rw [← h]

/-- A pinned region (R194). -/
theorem newtPin_reads (s : State) (hd : d < 8) (x : NewtCell) : (s.newtPin d x).rf (D d) NEWT_STATUS_PHASE = 6 ∧
    (s.newtPin d x).rf (D d) NEWT_STATUS_PINNED = 1 ∧ (s.newtPin d x).repairs = s.repairs := by
  have raised {f : Fld} (h : f.off = oNEWT_STATUS) : (s.newtPin d x).rf (D d) f =
      (((s.newtRecord d vUnrepaired 3 0 x).toPhase d 6).wf (D d) NEWT_STATUS_PINNED 1).rf (D d) f := by
    have other : evtReg (D d + f.off) = false := by
      rw [h]
      refine decide_eq_false ?_
      simp only [D, Off.die, oNEWT_STATUS]
      omega
    exact congrArg (fun v => slice v f.lo f.w) ((raise_evt _ (by omega)).reads _ other)
  refine ⟨?_, ?_, ?_⟩
  · rw [raised rfl, rf_wf_apart _ (D d) (f := NEWT_STATUS_PINNED) (g := NEWT_STATUS_PHASE) 1 (by decide), State.toPhase,
      State.rf_wf_same _ _ _ _ (by decide)]
    rfl
  · rw [raised rfl, State.rf_wf_same _ _ _ _ (by decide)]
    rfl
  · exact (congrArg State.repairs (raise_calm _ _).core :).trans (newtRecord_repairs s d _ _ _ x)

/-- The repair that a judged group takes (R194). -/
theorem mapSpare_adds {j : Judged} (h : j.repair ≠ 0) : ∃ r : Repair, (s.mapSpare d j).repairs = s.repairs ++ [r] ∧ r.die = d ∧
    r.column = decide (j.repair = 2) ∧ (j.repair ≠ 2 → r.place = j.at_.row) ∧ r.active = false := by
  rw [State.mapSpare, if_neg h]
  exact ⟨_, rfl, rfl, rfl, fun h2 => if_neg (by simpa using h2), rfl⟩

theorem newtRepair_none (s : State) (d v : Nat) : s.newtRepair d v [] = s := rfl

theorem newtRepair_one {j : Judged} (h : j.repair ≠ 0) (v : Nat) : (s.newtRepair d v [j]).repairs = (s.mapSpare d j).repairs := by
  have only : recorded [j] = [j] := by simp [recorded, h]
  rw [State.newtRepair, only]
  exact newtRecord_repairs ..

/-! ### The end of MARCH -/

/-- The verdict on a region without logged corrections. -/
def State.verdictOn (s : State) (d : Nat) (f : List NewtCell) : Nat × Option (List Judged) :=
  newtVerdict (s.rf (D d) NEWT_CTRL_CELL_REPAIR = 1) f [] []

/-- A verdict needs more spares than are left. -/
def State.sparesLack (s : State) (d : Nat) (js : List Judged) : Prop :=
  spares < (s.unitRepairs d false).length + (js.filter (·.repair = 1)).length ∨
    spares < (s.unitRepairs d true).length + (js.filter (·.repair = 2)).length

section judge
variable {f : List NewtCell} (hl : s.corrLog = []) (hf : ∀ x ∈ f, x.row / 32 = s.newtUnit d % 16) (hn : f.Nodup)
include hl hf hn

theorem newtJudge_plain : s.newtJudge d f = match (s.verdictOn d f).2 with
    | none => s.newtPin d (f.headD ⟨0, 0, 0⟩)
    | some js => if spares < (s.unitRepairs d false).length + (js.filter (·.repair = 1)).length ∨
          spares < (s.unitRepairs d true).length + (js.filter (·.repair = 2)).length then s.newtPin d (f.headD ⟨0, 0, 0⟩)
        else ((s.newtUsed d (s.verdictOn d f).1 js).newtRepair d (s.verdictOn d f).1 js).toPhase d 3 := by
  have here : (f.filter fun x => decide (¬ s.newtKind d = 0 ∨ x.row / 32 = s.newtUnit d % 16)).eraseDups = f := by
    rw [List.filter_eq_self.2 fun x hx => decide_eq_true (.inr (hf x hx)), eraseDups_nodup hn]
  unfold State.newtJudge State.verdictOn
  dsimp only
  rw [here, hl]
  rfl

theorem newtJudge_pins (h : (s.verdictOn d f).2 = none) : ∃ x, s.newtJudge d f = s.newtPin d x := by
  rw [newtJudge_plain hl hf hn, h]
  exact ⟨_, rfl⟩

theorem newtJudge_lacks {js : List Judged} (h : (s.verdictOn d f).2 = some js) (hs : s.sparesLack d js) : ∃ x, s.newtJudge d f = s.newtPin d x := by
  rw [newtJudge_plain hl hf hn, h]
  exact ⟨_, if_pos hs⟩

theorem newtJudge_repairs {js : List Judged} (h : (s.verdictOn d f).2 = some js) (hs : ¬ s.sparesLack d js) :
    s.newtJudge d f = (s.newtRepair d (s.verdictOn d f).1 js).toPhase d 3 := by
  rw [newtJudge_plain hl hf hn, h]
  refine (if_neg hs).trans ?_
  rw [newtUsed_empty hl]

end judge

theorem toPhase_phase (s : State) (d p : Nat) (h : p < 8) : (s.toPhase d p).rf (D d) NEWT_STATUS_PHASE = p :=
  (State.rf_wf_same _ _ _ _ (by decide)).trans (Nat.mod_eq_of_lt h)

end repair

/-! ### The end of a pin -/

section unpin
variable {s : State} {d : Nat}

/-- Error entries alone go with a scrub of the bed memories. -/
theorem newtScrub_rd (s : State) (d : Nat) {a : Arr} (h : a.code % 512 ≠ A.err.code) (i : Nat) : (s.newtScrub d).rd a i = s.rd a i := by
  have code : a.key i % 512 = a.code % 512 := by simp only [Arr.key]; omega
  rw [State.rd, State.rd, State.newtScrub, get_filter _ _ _ fun v => ?_]
  exact decide_eq_true fun e => h (code.symm.trans e.1)

theorem newtCopyBack_only (s : State) (d : Nat) {a : Arr} (h : a.code % 512 ≠ A.err.code) (h' : a.code % 512 ≠ A.bay.code) (i : Nat) :
    (s.newtCopyBack d).rd a i = s.rd a i := by
  have only : ∀ u : State, u.Only [A.err.code, A.bay.code] (u.each 512 fun s i => (s.wr A.bay (bayKey (s.newtWall d) (512 * s.newtUnit d + i))
      (s.rd A.newtBuf (512 * d + i))).wr A.err (A.bay.key (bayKey (s.newtWall d) (512 * s.newtUnit d + i))) (s.errOf A.newtBuf (512 * d + i))) :=
    fun u => only_each (fun _ _ => ((State.Only.refl ..).wr _ _ rfl).wr _ _ rfl) 512 u
  unfold State.newtCopyBack
  split
  · exact (only s).rd a i (by simpa using ⟨h, h'⟩)
  · exact newtScrub_rd s d h i

/-- Without a start that waits, none is performed (R198). -/
theorem waitedStarts_none (h : ∀ k < 32, s.on A.pStartWait k = false) : s.waitedStarts = s :=
  foldl_noop _ _ _ (fun k hk => if_neg fun e => Bool.false_ne_true ((h k (List.mem_range.1 hk)).symm.trans e.1))

theorem newtDone_reads (h : ∀ k < 32, s.on A.pStartWait k = false) :
    (s.newtDone d).rf (D d) NEWT_STATUS_PHASE = 0 ∧ (s.newtDone d).rf (D d) NEWT_STATUS_PINNED = s.rf (D d) NEWT_STATUS_PINNED := by
  have none_ : ∀ k < 32, State.on ((s.toPhase d 0).wr A.newtEnd d (s.mono + 1)) A.pStartWait k = false := fun k hk => by
    rw [State.on, State.rd_wr_arr _ _ _ _ _ _ (by decide), State.toPhase, State.rd_wf _ _ _ _ _ _ (by decide)]
    exact h k hk
  rw [State.newtDone, waitedStarts_none none_, rf_wr _ _ _ _ _ (by decide), rf_wr _ _ _ _ _ (by decide)]
  exact ⟨toPhase_phase s d 0 (by decide), rf_wf_apart s (D d) (f := NEWT_STATUS_PHASE) (g := NEWT_STATUS_PINNED) 0 (by decide)⟩

/-- The end of a pin (R194). -/
theorem newtUnpin_reads (hp : s.newtPhase d = 6) (h : ∀ k < 32, s.on A.pStartWait k = false) :
    (s.newtUnpin d).rf (D d) NEWT_STATUS_PHASE = 0 ∧ (s.newtUnpin d).rf (D d) NEWT_STATUS_PINNED = 0 := by
  have none_ : ∀ k < 32, State.on ((s.newtCopyBack d).wf (D d) NEWT_STATUS_PINNED 0) A.pStartWait k = false := fun k hk => by
    rw [State.on, State.rd_wf _ _ _ _ _ _ (by decide), newtCopyBack_only _ _ (by decide) (by decide)]
    exact h k hk
  obtain ⟨phase, pinned⟩ := newtDone_reads (d := d) none_
  rw [State.newtUnpin, if_pos hp]
  exact ⟨phase, pinned.trans ((State.rf_wf_same _ _ _ _ (by decide)).trans (Nat.zero_mod _))⟩

end unpin

/-- Settles O24: the table by the shape of the pattern, the end of MARCH by the spares that its verdict needs. -/
theorem newtVerdicts : Obligations.NewtVerdicts := by
  unfold Obligations.NewtVerdicts
  refine ⟨fun cr own log rest x y => ⟨rfl, rfl, fun h => ?_, fun h => ?_, fun hs hr => ?_, fun hs hc => ?_⟩, fun s die fails => ?_⟩
  · exact newtVerdict_judged (by simp) (judge_single_sense h)
  · exact newtVerdict_judged (by simp) (judge_single_cell h)
  · exact newtVerdict_judged (by simp) (judge_column hs hr)
  · exact newtVerdict_judged (by simp) (judge_row hs hc)
  · intro d f v rowsUsed colsUsed pinned hc hp _ hl hf hn hr4 hc4
    have march : exec (.newtMarchEnd die fails) s = .next (s.newtJudge die f) := (if_pos hc).trans (congrArg Host.Outcome.next (if_pos hp))
    have pins (x : NewtCell) : Completes (.next (s.newtPin die x)) pinned := ⟨_, rfl, newtPin_reads s die.isLt x⟩
    have lacks {j : Judged} (hj : v.2 = some [j]) (hs : s.sparesLack die [j]) : Completes (exec (.newtMarchEnd die fails) s) pinned := by
      obtain ⟨x, hx⟩ := newtJudge_lacks hl hf hn hj hs
      rw [march, hx]
      exact pins x
    have repairs {j : Judged} (hj : v.2 = some [j]) (h0 : j.repair ≠ 0) (hs : ¬ s.sparesLack die [j]) :
        Completes (exec (.newtMarchEnd die fails) s) fun t => t.rf d NEWT_STATUS_PHASE = 3 ∧ ∃ r : Repair, t.repairs = s.repairs ++ [r] ∧
          r.die = die ∧ r.column = decide (j.repair = 2) ∧ (j.repair ≠ 2 → r.place = j.at_.row) ∧ r.active = false := by
      obtain ⟨r, hr, rest⟩ := mapSpare_adds (s := s) (d := die) h0
      rw [march, newtJudge_repairs hl hf hn hj hs]
      exact ⟨_, rfl, toPhase_phase _ _ 3 (by decide), r, (newtRepair_one h0 _).trans hr, rest⟩
    refine ⟨fun h0 => ?_, fun hv => ?_, fun j hj => ⟨fun h1 h4 => ?_, fun h2 h4 => ?_, fun h1 h4 => ?_, fun h2 h4 => ?_⟩,
      fun u who h hm hp6 hw => ?_⟩
    · have none_ : v.2 = some [] := by simp only [v, h0]; rfl
      have enough : ¬ s.sparesLack die [] := fun e => e.elim (Nat.not_lt.2 hr4) (Nat.not_lt.2 hc4)
      rw [march, newtJudge_repairs hl hf hn none_ enough, newtRepair_none]
      exact ⟨_, rfl, toPhase_phase s die 3 (by decide), rfl⟩
    · obtain ⟨x, hx⟩ := newtJudge_pins hl hf hn hv
      rw [march, hx]
      exact pins x
    · exact lacks hj (.inl (by simp [h1, spares, rowsUsed] at h4 ⊢; omega))
    · exact lacks hj (.inr (by simp [h2, spares, colsUsed] at h4 ⊢; omega))
    · have enough : ¬ s.sparesLack die [j] := by
        simp [State.sparesLack, h1, spares, rowsUsed, colsUsed] at h4 hc4 ⊢
        omega
      obtain ⟨t, ht, phase, r, hr, hd, hcol, place, act⟩ := repairs hj (by omega) enough
      exact ⟨t, ht, phase, r, hr, hd, hcol.trans (decide_eq_false (by omega)), place (by omega), act⟩
    · have enough : ¬ s.sparesLack die [j] := by
        simp [State.sparesLack, h2, spares, rowsUsed, colsUsed] at h4 hr4 ⊢
        omega
      obtain ⟨t, ht, phase, r, hr, hd, hcol, -, act⟩ := repairs hj (by omega) enough
      exact ⟨t, ht, phase, r, hr, hd, hcol.trans (decide_eq_true h2), act⟩
    · have unpin : exec (.unpin who die) u = .next (u.newtUnpin die).okay :=
        (access_next h _ fun s => if s.pfRights who then (s.newtUnpin die).okay else s.deny).trans (congrArg Host.Outcome.next (if_pos hm))
      obtain ⟨phase, unpinned⟩ := newtUnpin_reads (s := u) (d := die) hp6 hw
      rw [unpin]
      exact ⟨_, rfl, phase, unpinned, rfl⟩

end Sys2Proof.Machine

/-! SUPPORT and CERTIFICATE. Work items, bindings and resets of the transactor cores (chapter 9, R214 to R216, R231, R232). -/

namespace Sys2Proof.Machine

open Reg

section work
variable {s : State} {c t : Nat}

/-! ### An access by a core (R212, R215) -/

theorem coreDoes_down (h : s.on A.coreUp c = false) (f : State → State) : s.coreDoes c f = s := if_pos (by rw [h]; decide)

theorem coreDoes_illegal (h : s.on A.coreUp c = true) (hl : s.rd A.coreLow c ≠ 0) (hj : s.rd A.jctl c = 0) (f : State → State) :
    s.coreDoes c f = (((s.wr A.coreIdle c 0).wr A.corePrev c (s.rd A.coreLow c)).wr A.coreLow c 0).wr A.coreCause c 2 := by
  have low : (s.wr A.coreIdle c 0).rd A.coreLow c = s.rd A.coreLow c := State.rd_wr_arr _ _ _ _ _ _ (by decide)
  have lower : (s.wr A.coreIdle c 0).rd A.jctl c = s.rd A.jctl c := State.rd_wr_arr _ _ _ _ _ _ (by decide)
  rw [State.coreDoes, if_neg (not_not.2 h)]
  refine (if_pos ⟨low.trans_ne hl, lower.trans hj⟩).trans ?_
  rw [State.coreIllegal, low]

theorem coreDoes_legal (h : s.on A.coreUp c = true) (hl : s.rd A.coreLow c = 0 ∨ s.rd A.jctl c ≠ 0) (f : State → State) :
    s.coreDoes c f = f (s.wr A.coreIdle c 0) := by
  have low : (s.wr A.coreIdle c 0).rd A.coreLow c = s.rd A.coreLow c := State.rd_wr_arr _ _ _ _ _ _ (by decide)
  have lower : (s.wr A.coreIdle c 0).rd A.jctl c = s.rd A.jctl c := State.rd_wr_arr _ _ _ _ _ _ (by decide)
  rw [State.coreDoes, if_neg (not_not.2 h)]
  exact if_neg fun e => hl.elim (fun h0 => e.1 (low.trans h0)) fun h0 => h0 (lower.symm.trans e.2)

/-! ### The end of a work item (R231) -/

/-- Core `c` without its work item. -/
def State.itemEnded (s : State) (c : Nat) : State := s.wr A.coreTask c 0

/-- The slot of a task that has ended waits again, with JWAIT's settings where JWAIT was written. -/
def State.itemAgain (s : State) (c t : Nat) : State :=
  (if (s.rd A.jwait c).testBit 33 then
    ((s.itemEnded c).wr A.tMask t (slice (s.rd A.jwait c) 0 32)).wr A.tTimeout t (slice (s.rd A.jwait c) 40 24 + 2 ^ 24 * slice (s.rd A.jwait c) 32 1)
   else s.itemEnded c).taskWait t

/-- TASK_CFG of a slot that becomes FREE. -/
def State.freeCfg (s : State) (t : Nat) : Nat := patch (s.rd A.tCfg t) 0 1 0

/-- The slot of a task that has ended is FREE. -/
def State.itemFreed (s : State) (c t : Nat) : State :=
  State.wr (((((s.itemEnded c).wr A.tState t 0).wr A.tFlags t 0).wr A.tCfg t (s.freeCfg t)).wr A.tCfgNow t (s.freeCfg t)) A.tFreeAtEnd t 0

/-- The core takes the binding that is pending in `s`. -/
def State.bindFrom (s : State) (c : Nat) (u : State) : State :=
  if (s.rd A.coreBindNew c).testBit 12 then (u.wr A.coreBind c (slice (s.rd A.coreBindNew c) 0 12)).wr A.coreBindNew c 0 else u

/-- The arrays of the tasks, and the task of a core. -/
def itemCodes : List Nat := [98, 110, 111, 112, 114, 120, 121, 122, 123, 124, 125, 126, 127, 128, 136, 137]

theorem taskCheck_only (s : State) (t : Nat) : s.Only itemCodes (s.taskCheck t) :=
  ((((((State.Only.refl ..).wr _ _ rfl).wr _ _ rfl).wr _ _ rfl).wr _ _ rfl).wr _ _ rfl).ite (.refl ..)

theorem taskWait_only (s : State) (t : Nat) : s.Only itemCodes (s.taskWait t) :=
  ((((((((State.Only.refl ..).wr _ _ rfl).wr _ _ rfl).wr _ _ rfl).wr _ _ rfl).wr _ _ rfl).wr _ _ rfl)).step (taskCheck_only ..) rfl

theorem itemFreed_only (s : State) (c t : Nat) : s.Only itemCodes (s.itemFreed c t) :=
  ((((((State.Only.refl ..).wr _ _ rfl).wr _ _ rfl).wr _ _ rfl).wr _ _ rfl).wr _ _ rfl).wr _ _ rfl

theorem itemAgain_only (s : State) (c t : Nat) : s.Only itemCodes (s.itemAgain c t) := by
  have ended : s.Only itemCodes (s.itemEnded c) := (State.Only.refl ..).wr _ _ rfl
  exact (((ended.wr _ _ rfl).wr _ _ rfl).ite ended).step (taskWait_only ..) rfl

theorem bindNow_from {u : State} (h : u.rd A.coreBindNew c = s.rd A.coreBindNew c) : u.bindNow c = s.bindFrom c u := by
  rw [State.bindNow, h, State.bindFrom, testBit_slice]
  simp only [decide_eq_true_eq]

theorem workEnd_idle (h : s.rd A.coreTask c = 0) (free : Bool) : s.workEnd c free = s := by
  rw [State.workEnd, h]

section item
variable (h : s.rd A.coreTask c = t + 1)
include h

theorem workEnd_freed {free : Bool} (hf : free = true ∨ s.on A.tFreeAtEnd t = true) : s.workEnd c free = s.bindFrom c (s.itemFreed c t) := by
  have cond : free = true ∨ (s.itemEnded c).on A.tFreeAtEnd t = true :=
    hf.imp_right fun e => (congrArg (fun v => decide (v = 1)) (State.rd_wr_arr _ _ _ _ _ _ (by decide))).trans e
  have cfg : (s.itemEnded c).rd A.tCfg t = s.rd A.tCfg t := State.rd_wr_arr _ _ _ _ _ _ (by decide)
  rw [← bindNow_from ((itemFreed_only s c t).rd A.coreBindNew c rfl), State.workEnd, h]
  refine congrArg (fun u : State => u.bindNow c) ((if_pos cond).trans ?_)
  rw [State.itemFreed, State.freeCfg, ← cfg]
  rfl

theorem workEnd_again {free : Bool} (hf : free = false) (ht : s.on A.tFreeAtEnd t = false) : s.workEnd c free = s.bindFrom c (s.itemAgain c t) := by
  have cond : ¬ (free = true ∨ (s.itemEnded c).on A.tFreeAtEnd t = true) := by
    rw [hf, State.on, State.itemEnded, State.rd_wr_arr _ _ _ _ _ _ (by decide), ← State.on, ht]
    decide
  have wait : (s.itemEnded c).rd A.jwait c = s.rd A.jwait c := State.rd_wr_arr _ _ _ _ _ _ (by decide)
  rw [← bindNow_from ((itemAgain_only s c t).rd A.coreBindNew c rfl), State.workEnd, h]
  refine congrArg (fun u : State => u.bindNow c) ((if_neg cond).trans ?_)
  rw [State.itemAgain, testBit_slice, ← wait]
  simp only [decide_eq_true_eq]
  rfl

end item

/-! ### Resets (R232, R244) -/

/-- Without queues whose pointer copies differ, discarding open packets touches packets alone. -/
theorem dropOpen_sound (h : ∀ q, s.on A.qPtrBad q = false) (p : Nat) :
    s.dropOpen p = { s with packets := s.packets.filter fun x => ¬ (x.producer = p ∧ ¬ x.closed) } := by
  have checks : (s.packets.filter fun x => decide (x.producer = p ∧ ¬ x.closed = true)).foldl (fun s x => s.qCheck x.queue) s = s :=
    foldl_noop _ _ _ fun x _ => if_neg (by rw [h]; decide)
  unfold State.dropOpen
  dsimp only
  rw [checks]

/-- The arrays of a core that a reset clears. -/
def coreArrays : List Arr := [A.jctl, A.jwait, A.jqsel, A.jnext, A.jarg, A.jqstat, A.coreIdle, A.coreLow, A.corePrev, A.coreCause]

/-- Core `c` as a reset leaves its own registers. -/
def State.coreCleared (s : State) (c : Nat) : State := coreArrays.foldl (fun s a => s.wr a c 0) s

theorem coreCleared_zero (s : State) (c : Nat) {a : Arr} (h : a ∈ coreArrays) : (s.coreCleared c).rd a c = 0 := zeroed_reads h c s

theorem coreCleared_only (s : State) (c : Nat) : s.Only [90, 91, 92, 93, 94, 95, 97, 108, 109, 135] (s.coreCleared c) :=
  ((((((((((State.Only.refl ..).wr _ _ rfl).wr _ _ rfl).wr _ _ rfl).wr _ _ rfl).wr _ _ rfl).wr _ _ rfl).wr _ _ rfl).wr _ _ rfl).wr _ _ rfl).wr _ _ rfl

/-- A response in assembly is discarded, a complete one stays. -/
def State.rspDropped (s : State) (c : Nat) : State :=
  if s.on A.jrspSent c then s
  else (State.wr { s with jrspBuf := s.jrspBuf.filter fun (x : Nat × Nat) => x.1 ≠ c } A.jrspLeft c 0).wr A.jrstat c 0

theorem rspDropped_keeps {β : Type} (obs : State → β) (hb : ∀ (u : State) l, obs { u with jrspBuf := l } = obs u)
    (hw : ∀ (u : State) a i v, obs (u.wr a i v) = obs u) (s : State) (c : Nat) : obs (s.rspDropped c) = obs s := by
  unfold State.rspDropped
  split
  · rfl
  · rw [hw, hw, hb]

theorem rspDropped_only (s : State) (c : Nat) : s.Only [96, 104] (s.rspDropped c) :=
  (State.Only.refl ..).ite ((((State.Only.refl [96, 104] s).update (by rfl)).wr _ _ rfl).wr _ _ rfl)

theorem coreCleared_keeps {β : Type} (obs : State → β) (hw : ∀ (u : State) a i v, obs (u.wr a i v) = obs u) (s : State) (c : Nat) :
    obs (s.coreCleared c) = obs s := foldl_keeps (fun u a _ => hw u a c 0) s

/-- The reset of a core without a work item. -/
theorem coreReset_idle (h : s.rd A.coreTask c = 0) :
    s.coreReset c = ((s.dropOpen (coreProducer c)).rspDropped c).coreCleared c := by
  rw [State.coreReset, workEnd_idle h]
  rfl

theorem packets_ans (s : State) (a b : Nat) : (s.ans a b).packets = s.packets := rfl

theorem mem_ans (s : State) (a b : Nat) : (s.ans a b).mem = s.mem := rfl

theorem coreReset_denied {who : Who} {s : State} {die : Fin 8} {core : Fin 32} (h : s.Serving who) (hp : s.pfRights who = false) :
    exec (.coreReset who die core) s = .next (s.ans 1 0) :=
  (access_next h _ fun s => if s.pfRights who then (s.coreReset (coreIx die core)).okay else s.deny).trans
    (congrArg _ (if_neg (by rw [hp]; decide)))

theorem exec_coreReset {who : Who} {s : State} {die : Fin 8} {core : Fin 32} (h : s.Serving who) (hp : s.pfRights who = true) :
    exec (.coreReset who die core) s = .next ((s.coreReset (coreIx die core)).ans 0 0) :=
  (access_next h _ fun s => if s.pfRights who then (s.coreReset (coreIx die core)).okay else s.deny).trans
    (congrArg _ (if_pos hp))

theorem coreBindWrite_denied {who : Who} (hp : s.pfRights who = false) (v : Nat) : s.coreBindWrite who c v = s.ans 1 0 :=
  if_pos (by rw [hp]; decide)

theorem coreBindWrite_allowed {who : Who} (hp : s.pfRights who = true) {v : Nat} (hv : v.testBit 15 = false) :
    s.coreBindWrite who c v = (s.coreBindTo c (slice v 0 12)).ans 0 0 := by
  have noReset : ¬ slice v 15 1 = 1 := by rw [testBit_slice, decide_eq_false_iff_not] at hv; exact hv
  rw [State.coreBindWrite, if_neg (not_not.2 hp)]
  exact congrArg State.okay (if_neg noReset)

theorem coreBindTo_now (h : s.rd A.coreTask c = 0) (v : Nat) : s.coreBindTo c v = (s.wr A.coreBind c v).wr A.coreBindNew c 0 := if_pos h

theorem coreBindTo_later (h : s.rd A.coreTask c ≠ 0) {v : Nat} (hv : s.rd A.coreBind c ≠ v) :
    s.coreBindTo c v = s.wr A.coreBindNew c (v + 2 ^ 12) := (if_neg h).trans (if_neg hv)

theorem exec_coreBindWrite {who : Who} {s : State} {die : Fin 8} {core : Fin 32} {val : Word} (h : s.Serving who) :
    exec (.coreBindWrite who die core val) s = .next (s.coreBindWrite who (coreIx die core) val.toNat) :=
  access_next h _ fun s => s.coreBindWrite who (coreIx die core) val.toNat

theorem exec_jnext {s : State} {die : Fin 8} {core : Fin 32} (hc : s.clocked = true) :
    exec (.jnext die core) s = .next (s.coreDoes (coreIx die core) fun s =>
      (s.workEnd (coreIx die core) false).wr A.coreIdle (coreIx die core) 1) := if_pos hc

theorem exec_jdone {s : State} {die : Fin 8} {core : Fin 32} {val : BitVec 64} (hc : s.clocked = true) :
    exec (.jdone die core val) s = .next (s.coreDoes (coreIx die core) fun s => s.workEnd (coreIx die core) (val.getLsbD 0)) := if_pos hc

/-- What a reset of an idle core leaves. -/
theorem coreReset_leaves (h : s.rd A.coreTask c = 0) (hq : ∀ q, s.on A.qPtrBad q = false) :
    (s.coreReset c).packets = s.packets.filter (fun p => ¬ (p.producer = 1000 + c ∧ ¬ p.closed)) ∧ (s.coreReset c).mem = s.mem ∧
    s.Only [90, 91, 92, 93, 94, 95, 96, 97, 104, 108, 109, 135] (s.coreReset c) := by
  rw [coreReset_idle h, dropOpen_sound hq]
  refine ⟨?_, ?_, ?_⟩
  · rw [coreCleared_keeps State.packets fun _ _ _ _ => rfl, rspDropped_keeps State.packets (fun _ _ => rfl) fun _ _ _ _ => rfl]
    rfl
  · rw [coreCleared_keeps State.mem fun _ _ _ _ => rfl, rspDropped_keeps State.mem (fun _ _ => rfl) fun _ _ _ _ => rfl]
  · exact (((State.Only.refl _ s).update (by rfl)).step (rspDropped_only ..) (by decide)).step (coreCleared_only ..) (by decide)

theorem coreReset_zero (h : s.rd A.coreTask c = 0) {a : Arr} (ha : a ∈ coreArrays) : (s.coreReset c).rd a c = 0 := by
  rw [coreReset_idle h, coreCleared_zero _ _ ha]

/-! ### The same from the state in which the core has executed the access -/

/-- Core `c` that does not stall. -/
def State.woken (s : State) (c : Nat) : State := s.wr A.coreIdle c 0

theorem woken_rd {a : Arr} (ha : A.coreIdle.code % 512 ≠ a.code % 512) (i : Nat) : (s.woken c).rd a i = s.rd a i := State.rd_wr_arr _ _ _ _ _ _ ha

theorem woken_on {a : Arr} (ha : A.coreIdle.code % 512 ≠ a.code % 512) (i : Nat) : (s.woken c).on a i = s.on a i :=
  congrArg (fun x => decide (x = 1)) (woken_rd ha i)

theorem woken_idle (h : s.rd A.coreTask c = 0) (free : Bool) : (s.woken c).workEnd c free = s.woken c :=
  workEnd_idle ((woken_rd (by decide) c).trans h) free

theorem woken_freed (h : s.rd A.coreTask c = t + 1) {free : Bool} (hf : free = true ∨ s.on A.tFreeAtEnd t = true) :
    (s.woken c).workEnd c free = s.bindFrom c (State.wr (((((s.woken c).itemEnded c).wr A.tState t 0).wr A.tFlags t 0).wr A.tCfg t (s.freeCfg t)
      |>.wr A.tCfgNow t (s.freeCfg t)) A.tFreeAtEnd t 0) := by
  rw [workEnd_freed ((woken_rd (by decide) c).trans h) (hf.imp_right (woken_on (by decide) t).trans), State.bindFrom, woken_rd (by decide),
    State.itemFreed, State.freeCfg, woken_rd (by decide)]
  rfl

theorem woken_again (h : s.rd A.coreTask c = t + 1) {free : Bool} (hf : free = false) (ht : s.on A.tFreeAtEnd t = false) :
    (s.woken c).workEnd c free = s.bindFrom c (
    (if (s.rd A.jwait c).testBit 33 then
      (((s.woken c).itemEnded c).wr A.tMask t (slice (s.rd A.jwait c) 0 32)).wr A.tTimeout t (slice (s.rd A.jwait c) 40 24 + 2 ^ 24 * slice (s.rd A.jwait c) 32 1)
     else (s.woken c).itemEnded c).taskWait t) := by
  rw [workEnd_again ((woken_rd (by decide) c).trans h) hf ((woken_on (by decide) t).trans ht), State.bindFrom, woken_rd (by decide),
    State.itemAgain, woken_rd (by decide)]
  rfl

end work

/-- Settles O26: each case of an access by a core, of the end of its work item, of its binding and of its reset, by the rule for that operation. -/
theorem coreWork : Obligations.CoreWork := by
  refine ⟨fun s die core val t hc => ?_, fun s who die core val h => ?_⟩
  · rw [exec_jnext hc, exec_jdone hc]
    refine ⟨fun down => ⟨congrArg _ (coreDoes_down down _), congrArg _ (coreDoes_down down _)⟩, fun up low lower x hx => ?_, fun up legal => ?_⟩
    · rcases List.mem_cons.1 hx with rfl | hx
      · exact (exec_jnext hc).trans (congrArg _ (coreDoes_illegal up low lower _))
      · obtain rfl := List.mem_singleton.1 hx
        exact (exec_jdone hc).trans (congrArg _ (coreDoes_illegal up low lower _))
    · rw [coreDoes_legal up legal, coreDoes_legal up legal]
      let thenIdle (u : State) : Res := .next (u.wr A.coreIdle (coreIx die core) 1)
      exact ⟨fun idle => ⟨congrArg thenIdle (woken_idle idle _), congrArg _ (woken_idle idle _)⟩,
        fun item stays => ⟨congrArg thenIdle (woken_again item rfl stays), fun hv => congrArg _ (woken_again item hv stays), fun hv => congrArg _ (woken_freed item (.inl hv))⟩,
        fun item goes => ⟨congrArg thenIdle (woken_freed item (.inr goes)), congrArg _ (woken_freed item (.inr goes))⟩⟩
  · refine ⟨fun hp => ⟨(exec_coreBindWrite h).trans (congrArg _ (coreBindWrite_denied hp _)), coreReset_denied h hp⟩, fun hp hv => ⟨fun idle => ?_, fun busy hb => ?_⟩,
      fun hp idle hq => ⟨_, exec_coreReset h hp, ?_⟩⟩
    · rw [exec_coreBindWrite h, coreBindWrite_allowed hp hv, coreBindTo_now idle]
    · rw [exec_coreBindWrite h, coreBindWrite_allowed hp hv, coreBindTo_later busy hb]
    · obtain ⟨packets, mem, only⟩ := coreReset_leaves idle hq
      simp only [State.rd_ans, State.reg_ans, packets_ans, mem_ans]
      refine ⟨packets, coreReset_zero idle (by simp [coreArrays]), coreReset_zero idle (by simp [coreArrays]), coreReset_zero idle (by simp [coreArrays]), coreReset_zero idle (by simp [coreArrays]),
        coreReset_zero idle (by simp [coreArrays]), only.rd A.coreBind _ rfl, fun o => only.rd A.reg o rfl, mem, rfl⟩

end Sys2Proof.Machine

/-! SUPPORT and CERTIFICATE. Call responses and the messages of portals (chapter 9, R218, R219, R222 to R224). -/

namespace Sys2Proof.Machine

open Reg

/-! ### Responses at the core (R222) -/

section response
variable {s : State} {c w n : Nat}

theorem jrsp_sent (h : s.on A.jrspSent c = true) : s.jrsp c w = s := if_pos h

theorem jrsp_format (h : s.on A.jrspSent c = false) (hl : s.rd A.jrspLeft c = 0) (hn : 8 < slice w 60 4) : s.jrsp c w = s.wr A.jrstat c 6 := by
  rw [State.jrsp, if_neg (ne_true_of_eq_false h), if_pos hl]
  exact if_pos hn

theorem jrsp_header (h : s.on A.jrspSent c = false) (hl : s.rd A.jrspLeft c = 0) (hn : slice w 60 4 ≤ 8) :
    s.jrsp c w = (State.wr { s with jrspBuf := (s.jrspBuf.filter fun x => x.1 ≠ c) ++ [(c, w)] } A.jrspLeft c (slice w 60 4 + 1)).wr
      A.jrstat c (patch (s.rd A.jrstat c) 0 1 1) := by
  rw [State.jrsp, if_neg (ne_true_of_eq_false h), if_pos hl]
  exact if_neg (Nat.not_lt.2 hn)

theorem jrsp_word (h : s.on A.jrspSent c = false) (hl : 2 ≤ s.rd A.jrspLeft c) :
    s.jrsp c w = State.wr { s with jrspBuf := s.jrspBuf ++ [(c, w)] } A.jrspLeft c (s.rd A.jrspLeft c - 1) := by
  rw [State.jrsp, if_neg (ne_true_of_eq_false h), if_neg (by omega)]
  exact if_neg (by omega)

theorem jrsp_last (h : s.on A.jrspSent c = false) (hl : s.rd A.jrspLeft c = 1) :
    s.jrsp c w = (State.wr { s with jrspBuf := s.jrspBuf ++ [(c, w)] } A.jrspLeft c 0).wr A.jrspSent c 1 := by
  rw [State.jrsp, if_neg (ne_true_of_eq_false h), hl]
  rfl

end response

/-! ### Responses at the portal (R223, R224) -/

section portal
variable {s : State} {die : Fin 8} {core : Fin 32}

/-- The first word of the response of a core. -/
def State.rspWord (s : State) (c i : Nat) : Nat := (s.rspWords c).getD i 0

/-- The wall that the first word of a response names. -/
def rspWall (w0 : Nat) : Nat := 16 * slice w0 31 3 + slice w0 27 4

/-- The data words of the response of a core. -/
def State.rspData (s : State) (c : Nat) : Nat := ((s.rspWords c).drop 2).foldr (fun x v => x + 2 ^ 64 * v) 0

/-- What the portal finds about the response of a core. -/
def State.rspFound (s : State) (die : Fin 8) (core : Fin 32) : Nat :=
  s.rspCheck (.core die core) (s.rspWord (coreIx die core) 0) (s.rspWord (coreIx die core) 1) (rspWall (s.rspWord (coreIx die core) 0))

theorem portalRsp_none (h : s.on A.jrspSent (coreIx die core) = false) : s.portalRsp die core = s := if_pos (by rw [h]; decide)

section complete
variable (h : s.on A.jrspSent (coreIx die core) = true)
include h

theorem portalRsp_denied (hc : s.rspFound die core = 4) : s.portalRsp die core = s.rspEnd (coreIx die core) 2 := by
  rw [State.portalRsp, if_neg (not_not.2 h)]
  simp only [State.rspFound, State.rspWord, rspWall] at hc
  simp only [hc]
  rfl

theorem portalRsp_stale (hc : s.rspFound die core = 1 ∨ s.rspFound die core = 2 ∨ s.rspFound die core = 3) :
    s.portalRsp die core = s.staleRsp (coreIx die core) (rspWall (s.rspWord (coreIx die core) 0)) (s.rspFound die core) := by
  rw [State.portalRsp, if_neg (not_not.2 h)]
  simp only [State.rspFound, State.rspWord, rspWall] at hc ⊢
  rcases hc with hc | hc | hc <;> simp only [hc]

theorem portalRsp_delivered (hc : s.rspFound die core = 0) {r : PortalRec} {k w0 wall : Nat} (hw : (s.rspWords (coreIx die core)).getD 0 0 = w0)
    (hwall : 16 * slice w0 31 3 + slice w0 27 4 = wall)
    (hr : (s.portalRec.find? fun r => r.course = 16 * wall + slice w0 23 4 ∧ r.tag = slice w0 16 7) = some r)
    (hk : s.slotOfWall wall = some k) (quiet : s.recording k = false) :
    s.portalRsp die core = s.rspDeliver (coreIx die core) k (s.rspData (coreIx die core)) r := by
  have room (d n : Nat) : s.bufFull k d n = false := by simp [State.bufFull, quiet]
  subst hw hwall
  rw [State.portalRsp, if_neg (not_not.2 h)]
  dsimp only [State.rspFound, State.rspWord, rspWall] at hc
  simp only [hc, hk]
  rw [hr]
  exact if_neg (by rw [room]; decide)

end complete

theorem rspDeliver_quiet {k : Nat} (quiet : s.recording k = false) (c data : Nat) (r : PortalRec) :
    s.rspDeliver c k data r =
      ((State.deliver { s with portalRec := s.portalRec.erase r } r.bed r.bank r.line r.lines data r.due).tagFree r.course r.tag).rspEnd c 0 := by
  have unlogged (die typ : Nat) (body : List Nat) : s.logInput k die typ body = s := if_neg (by rw [quiet]; decide)
  rw [State.rspDeliver, unlogged]
  rfl

end portal

/-! ### Messages that wait (R218, R219) -/

section message
variable {s : State} {u : Nat} {m : PortalMsg}

/-- The queue of a message takes it. -/
def State.msgTakes (s : State) (m : PortalMsg) : Prop :=
  s.portalQueueOk m.queue (s.rd A.pPid m.slot) = true ∧ s.qFits m.queue m.words.length = true

/-- A waiting message of course `u` is written. -/
def State.msgSent (s : State) (u : Nat) (m : PortalMsg) : State :=
  State.wr { s with
    packets := s.packets ++ [⟨m.queue, deviceProducer, m.words.map (slice · 0 64), true, false, false⟩]
    portalMsg := s.portalMsg.erase m } A.calls (u / 16) (s.rd A.calls (u / 16) + 1)

variable (h : (s.portalMsg.find? fun m => m.course = u) = some m)
include h

theorem portalWrite_waits (ht : ¬ s.msgTakes m) : s.portalWrite u = s := by
  rw [State.portalWrite, h]
  exact if_neg ht

theorem portalWrite_sent (ht : s.msgTakes m) (hq : s.on A.qPtrBad m.queue = false) :
    s.portalWrite u = if (s.msgSent u m).portalMsg.any fun x => x.slot = m.slot then s.msgSent u m else (s.msgSent u m).dropCause m.slot 4 := by
  have sound : s.qCheck m.queue = s := if_neg (by rw [hq]; decide)
  rw [State.portalWrite, h]
  refine (if_pos ht).trans ?_
  rw [State.qDeliver, sound]
  rfl

end message

/-- Settles O27: a word of a response by the words still to come, a response at the portal by what its checks find, a
waiting message by whether its queue takes it. -/
theorem portalsAndResponses : Obligations.PortalsAndResponses := by
  refine ⟨fun s die core val hc up legal => ⟨fun open_ => ?_, fun sent => ?_⟩, fun s u m hc hm => ⟨fun ht => ?_, fun ht hq => ⟨?_, ?_⟩⟩⟩
  · have core_ : exec (.jrsp die core val) s = .next (s.woken (coreIx die core) |>.jrsp (coreIx die core) val.toNat) :=
      (if_pos hc).trans (congrArg _ (coreDoes_legal up legal _))
    have left : (s.woken (coreIx die core)).rd A.jrspLeft (coreIx die core) = s.rd A.jrspLeft (coreIx die core) := woken_rd (by decide) _
    have stat : (s.woken (coreIx die core)).rd A.jrstat (coreIx die core) = s.rd A.jrstat (coreIx die core) := woken_rd (by decide) _
    have still := (woken_on (s := s) (c := coreIx die core) (a := A.jrspSent) (by decide) (coreIx die core)).trans open_
    refine ⟨fun hl hn => ?_, fun hl hn => ?_, fun hl => ?_, fun hl => ?_, ?_⟩
    · exact core_.trans (congrArg _ (jrsp_format still (left.trans hl) hn))
    · rw [core_, jrsp_header still (left.trans hl) hn, stat]
      rfl
    · rw [core_, jrsp_word still (left.symm ▸ hl), left]
      rfl
    · rw [core_, jrsp_last still (left.trans hl)]
      rfl
    · exact (if_pos hc).trans (congrArg _ (portalRsp_none open_))
  · have portal : exec (.portalResponse die core) s = .next (s.portalRsp die core) := if_pos hc
    rw [portal]
    refine ⟨?_, fun found => congrArg _ (portalRsp_denied sent found), fun found => congrArg _ (portalRsp_stale sent found), fun r k found hr hk quiet => ?_⟩
    · exact (if_pos hc).trans (congrArg _ ((coreDoes_legal up legal _).trans (jrsp_sent ((woken_on (by decide) _).trans sent))))
    · rw [portalRsp_delivered sent found rfl rfl hr hk quiet, rspDeliver_quiet quiet]
      rfl
  · exact (if_pos hc).trans (congrArg _ (portalWrite_waits hm ht))
  · rintro ⟨x, hx, hs⟩
    refine (if_pos hc).trans (congrArg _ ((portalWrite_sent hm ht hq).trans (if_pos ?_)))
    exact List.any_eq_true.2 ⟨x, hx, decide_eq_true hs⟩
  · intro others
    refine (if_pos hc).trans (congrArg _ ((portalWrite_sent hm ht hq).trans (if_neg ?_)))
    intro any
    obtain ⟨x, hx, hs⟩ := List.any_eq_true.1 any
    exact others x hx (of_decide_eq_true hs)

end Sys2Proof.Machine

/-! SUPPORT and CERTIFICATE. The dispatcher and its registers (chapter 9, R216, R225 to R234). -/

namespace Sys2Proof.Machine

open Reg

/-! ### The pick (R229) -/

section pick
variable {s : State} {die c t : Nat}

/-- A fold that keeps what it has or takes the element at hand ends with the start or an element. -/
theorem foldl_picks {α : Type} {f : Option α → α → Option α} (hf : ∀ b x, f b x = b ∨ f b x = some x) (l : List α) (b : Option α) :
    l.foldl f b = b ∨ ∃ x ∈ l, l.foldl f b = some x := by
  induction l generalizing b with
  | nil => exact .inl rfl
  | cons x r ih =>
    rw [List.foldl_cons]
    rcases ih (f b x) with h | ⟨y, hy, h⟩
    · exact (hf b x).imp h.trans fun e => ⟨x, List.mem_cons_self, h.trans e⟩
    · exact .inr ⟨y, List.mem_cons_of_mem _ hy, h⟩

/-- The better one of two tasks for core `c`. -/
def State.better (s : State) (c : Nat) (best : Option Nat) (t : Nat) : Option Nat :=
  if s.rd A.tState t = 2 ∧ s.keyMatches c t then
    match best with
    | none => some t
    | some u => if s.goesFirst t u then some t else some u
  else best

theorem better_either (s : State) (c : Nat) (best : Option Nat) (t : Nat) : s.better c best t = best ∨ s.better c best t = some t := by
  unfold State.better
  split
  · cases best with
    | none => exact .inr rfl
    | some u => exact (ite_eq_or_eq (s.goesFirst t u = true) (some t) (some u)).symm
  · exact .inl rfl

theorem taskFor_lt (h : s.taskFor c = some t) : ∃ i < 512, t = 512 * (c / 32) + i := by
  rcases foldl_picks (better_either s c) ((List.range 512).map fun i => 512 * (c / 32) + i) none with hn | ⟨x, hx, hs⟩
  · exact nomatch h.symm.trans hn
  · obtain ⟨i, hi, e⟩ := List.mem_map.1 hx
    exact ⟨i, List.mem_range.1 hi, (Option.some.inj (h.symm.trans hs)).trans e.symm⟩

theorem pick_lt (h : s.pick die = some (c, t)) : t / 512 = die := by
  obtain ⟨l, x, r, hl, hx, -⟩ := List.findSome?_eq_some_iff.1 h
  have hx' : x ∈ (List.range 32).map fun i => 32 * die + i := hl ▸ List.mem_append_right _ List.mem_cons_self
  obtain ⟨i, hi, rfl⟩ := List.mem_map.1 hx'
  have hi := List.mem_range.1 hi
  split at hx
  · obtain ⟨u, hu, e⟩ := Option.map_eq_some_iff.1 hx
    cases e
    obtain ⟨j, hj, rfl⟩ := taskFor_lt hu
    omega
  · cases hx

end pick

/-! ### A dispatch (R216, R230, R233) -/

section dispatch
variable {s : State} {die c t : Nat}

theorem dispatch_idle (h : s.rf 0 PWR_CTRL_BUSY = 1 ∨ s.pick die = none) : s.dispatch die = s := by
  rw [State.dispatch]
  split
  · rfl
  · next hb => rw [h.resolve_left hb]

theorem dispatch_gives (hb : s.rf 0 PWR_CTRL_BUSY = 0) (hp : s.pick die = some (c, t)) : s.dispatch die = s.dispatchTo c t := by
  rw [State.dispatch, if_neg (by rw [hb]; decide), hp]

/-- The work item that JNEXT shows. -/
def State.item (s : State) (t : Nat) : Nat :=
  t % 512 + 2 ^ 9 * s.rd A.tTmo t + 2 ^ 10 * slice (s.rd A.tCfgNow t) 1 4 + 2 ^ 14 * slice (s.rd A.tCfgNow t) 5 3 + 2 ^ 32 * s.rd A.tFlags t

/-- The settings that JWAIT shows. -/
def State.itemWait (s : State) (t : Nat) : Nat :=
  s.rd A.tMask t + 2 ^ 32 * slice (s.rd A.tTimeout t) 24 1 + 2 ^ 40 * slice (s.rd A.tTimeout t) 0 24

theorem item_lt (s : State) (t : Nat) : s.item t < 2 ^ 64 := by
  have tmo : s.rd A.tTmo t < 2 ^ 1 := State.rd_lt ..
  have flags : s.rd A.tFlags t < 2 ^ 32 := State.rd_lt ..
  have prio : slice (s.rd A.tCfgNow t) 1 4 < 2 ^ 4 := slice_lt ..
  have pool : slice (s.rd A.tCfgNow t) 5 3 < 2 ^ 3 := slice_lt ..
  unfold State.item
  omega

theorem itemWait_lt (s : State) (t : Nat) : s.itemWait t < 2 ^ 64 := by
  have mask : s.rd A.tMask t < 2 ^ 32 := State.rd_lt ..
  have mode : slice (s.rd A.tTimeout t) 24 1 < 2 ^ 1 := slice_lt ..
  have us : slice (s.rd A.tTimeout t) 0 24 < 2 ^ 24 := slice_lt ..
  unfold State.itemWait
  omega

theorem flagsLeft_lt (s : State) (t : Nat) (m : Nat) : s.rd A.tFlags t &&& m < 2 ^ 32 :=
  Nat.lt_of_le_of_lt Nat.and_le_left (State.rd_lt ..)

/-- The item as the core and the task hold it. -/
theorem dispatchTo_item (s : State) (c t : Nat) (ht : t < 4096) :
    (s.dispatchTo c t).rd A.coreTask c = t + 1 ∧ (s.dispatchTo c t).rd A.coreIdle c = 0 ∧ (s.dispatchTo c t).rd A.tState t = 3 ∧
    (s.dispatchTo c t).rd A.tCore t = c % 32 ∧ (s.dispatchTo c t).rd A.jnext c = s.item t ∧ (s.dispatchTo c t).rd A.jwait c = s.itemWait t ∧
    (s.dispatchTo c t).rd A.jarg c = s.rd A.tArgNow t ∧
    (s.dispatchTo c t).rd A.tFlags t = s.rd A.tFlags t &&& (0xFFFFFFFF ^^^ s.rd A.tMaskNow t) := by
  have task : (t + 1) % 2 ^ 13 = t + 1 := Nat.mod_eq_of_lt (by omega)
  have core : c % 32 % 2 ^ 5 = c % 32 := Nat.mod_eq_of_lt (by omega)
  have item := Nat.mod_eq_of_lt (item_lt s t)
  have wait := Nat.mod_eq_of_lt (itemWait_lt s t)
  have arg : s.rd A.tArgNow t % 2 ^ 64 = s.rd A.tArgNow t := Nat.mod_eq_of_lt (State.rd_lt ..)
  have flags := Nat.mod_eq_of_lt (flagsLeft_lt s t (0xFFFFFFFF ^^^ s.rd A.tMaskNow t))
  simp only [State.item, State.itemWait] at item wait ⊢
  simp (disch := decide) only [State.dispatchTo, State.sat, State.rd_wr_arr, State.rd_wr_same]
  exact ⟨task, rfl, rfl, core, item, wait, arg, flags⟩

theorem dispatchTo_others (s : State) (c : Nat) {t y : Nat} (h : y ≠ t) :
    (s.dispatchTo c t).rd A.tState y = s.rd A.tState y ∧ (s.dispatchTo c t).rd A.tFlags y = s.rd A.tFlags y := by
  constructor <;> simp (disch := first | decide | exact h.symm) only [State.dispatchTo, State.sat, State.rd_wr_arr, State.rd_wr_ix]

/-- The arrays that a dispatch writes. -/
def dispatchCodes : List Nat := [91, 93, 94, 97, 98, 114, 115, 116, 117, 118, 119, 120]

theorem dispatchTo_only (s : State) (c t : Nat) : s.Only dispatchCodes (s.dispatchTo c t) :=
  ((((((((((((State.Only.refl ..).wr _ _ rfl).wr _ _ rfl).wr _ _ rfl).wr _ _ rfl).wr _ _ rfl).wr _ _ rfl).wr _ _ rfl).wr _ _ rfl).wr _ _ rfl).wr
    _ _ rfl).wr _ _ rfl).wr _ _ rfl

theorem dispatchTo_mem (s : State) (c t : Nat) : (s.dispatchTo c t).mem = s.mem := by
  simp only [State.dispatchTo, State.sat, State.wr]

end dispatch

/-! ### Timeouts (R228) -/

section timeout
variable {s : State} {t : Nat}

theorem taskExpire_waits (h : s.rd A.tState t ≠ 1 ∨ slice (s.rd A.tTimeoutNow t) 0 24 = 0 ∨
    s.mono - s.rd A.tSince t < slice (s.rd A.tTimeoutNow t) 0 24 * 1000) : s.taskExpire t = s := by
  refine if_neg fun ⟨waits, timed, late⟩ => ?_
  rcases h with h | h | h
  · exact h waits
  · exact timed h
  · exact Nat.not_lt.2 late h

theorem taskExpire_over (hw : s.rd A.tState t = 1) (ht : slice (s.rd A.tTimeoutNow t) 0 24 ≠ 0)
    (ho : slice (s.rd A.tTimeoutNow t) 0 24 * 1000 ≤ s.mono - s.rd A.tSince t) : s.taskExpire t = s.taskReady t 1 := if_pos ⟨hw, ht, ho⟩

theorem taskReady_times (s : State) (t tmo : Nat) :
    (s.taskReady t tmo).rd A.tTmo t = tmo % 2 ∧ (s.taskReady t tmo).rd A.tReadyAt t = s.mono % 2 ^ 64 := by
  simp (disch := decide) only [State.taskReady, State.rd_wr_arr, State.rd_wr_same]
  exact ⟨rfl, rfl⟩

end timeout

/-! ### Registers (R225, R226, R231, R233, R234) -/

section registers
variable {s : State} {who : Who} {t : Nat}

theorem taskGuard_may (h : s.mayTask who t = true) (f : State → State) : s.taskGuard who t f = (f s).ans 0 0 := if_pos h

theorem taskGuard_denied (h : s.mayTask who t = false) (f : State → State) : s.taskGuard who t f = s.ans 1 0 := if_neg (ne_true_of_eq_false h)

/-- The wait condition in force of task `t` is met once its flag `f` is set. -/
def State.waitMet (s : State) (t f : Nat) : Bool :=
  taskMet (s.rd A.tMaskNow t) (slice (s.rd A.tTimeoutNow t) 24 1) ((s.flagged t f).rd A.tFlags t)

theorem setFlag_readies {f : Nat} (hf : f < 32) (waits : s.rd A.tState t = 1) (met : s.waitMet t f = true) :
    s.setFlag t f = (s.flagged t f).taskReady t 0 := by
  rw [State.waitMet, flagged_flags hf] at met
  rw [setFlag_eq hf, if_pos ⟨waits, met⟩]

theorem setFlag_stays {f : Nat} (hf : f < 32) (h : s.rd A.tState t ≠ 1 ∨ s.waitMet t f = false) : s.setFlag t f = s.flagged t f := by
  rw [State.waitMet, flagged_flags hf] at h
  rw [setFlag_eq hf, if_neg fun ⟨waits, met⟩ => h.elim (fun h => h waits) fun h => Bool.false_ne_true (h.symm.trans met)]

/-- The initiator may write TASK_CFG of slot `t` (R234). -/
def State.mayCfg (s : State) (who : Who) (t v : Nat) : Prop :=
  s.pfRights who = true ∨ s.mayTask who t = true ∧ slice v 8 9 = slice (s.rd A.tCfg t) 8 9

theorem taskCfgWrite_denied {die v : Nat} (h : ¬ s.mayCfg who (s.taskSel die) v) : s.taskCfgWrite who die v = s.ans 1 0 := if_neg h

theorem taskCfgWrite_may {die v : Nat} (h : s.mayCfg who (s.taskSel die) v) : s.taskCfgWrite who die v = (s.taskCfg (s.taskSel die) v).ans 0 0 :=
  if_pos h

section cfg
variable {v : Nat}

theorem taskPut_now (h : s.rd A.tState t ≤ 1) (v : Nat) : s.taskPut t A.tCfg A.tCfgNow v = (s.wr A.tCfg t v).wr A.tCfgNow t v := by
  rw [State.taskPut, State.rd_wr_arr _ _ _ _ _ _ (by decide)]
  exact if_pos h

theorem taskPut_later (h : 1 < s.rd A.tState t) (v : Nat) : s.taskPut t A.tCfg A.tCfgNow v = s.wr A.tCfg t v := by
  rw [State.taskPut, State.rd_wr_arr _ _ _ _ _ _ (by decide)]
  exact if_neg (Nat.not_le.2 h)

theorem taskPut_only (s : State) (t v : Nat) : s.Only [110, 136] (s.taskPut t A.tCfg A.tCfgNow v) :=
  (((State.Only.refl ..).wr _ _ rfl).wr _ _ rfl).ite ((State.Only.refl ..).wr _ _ rfl)

theorem taskPut_cfg (s : State) (t v : Nat) : (s.taskPut t A.tCfg A.tCfgNow v).rd A.tCfg t = v % 2 ^ 17 := by
  rw [State.taskPut]
  split
  · rw [State.rd_wr_arr _ _ _ _ _ _ (by decide), State.rd_wr_same]
    rfl
  · exact State.rd_wr_same ..

theorem slice_bit_one (h : v.testBit 0 = true) : slice v 0 1 = 1 := by rwa [testBit_slice, decide_eq_true_eq] at h

theorem slice_bit_zero (h : v.testBit 0 = false) : slice v 0 1 = 0 := by
  rw [testBit_slice, decide_eq_false_iff_not] at h
  have := slice_lt v 0 1
  omega

theorem taskCfg_enabled (hs : s.rd A.tState t = 0) (hv : v.testBit 0 = true) :
    s.taskCfg t v = ((((s.wr A.tCfg t (slice v 0 17)).wr A.tCfgNow t (slice v 0 17)).wr A.tFlags t 0).taskWait t) := by
  rw [State.taskCfg, (taskPut_only ..).rd A.tState t rfl, hs, slice_bit_one hv, taskPut_now (by omega)]
  rfl

theorem taskCfg_running (hs : s.rd A.tState t = 3) : s.taskCfg t v = (s.wr A.tCfg t (slice v 0 17)).wr A.tFreeAtEnd t (1 - slice v 0 1) := by
  rw [State.taskCfg, (taskPut_only ..).rd A.tState t rfl, hs, taskPut_later (by omega)]
  rfl

theorem taskCfg_freed (hs : s.rd A.tState t = 1 ∨ s.rd A.tState t = 2) (hv : v.testBit 0 = false) :
    s.taskCfg t v = ((((((if s.rd A.tState t = 1 then (s.wr A.tCfg t (slice v 0 17)).wr A.tCfgNow t (slice v 0 17) else s.wr A.tCfg t (slice v 0 17)).wr
      A.tState t 0).wr A.tFlags t 0).wr A.tCfg t (patch (slice v 0 17) 0 1 0)).wr A.tCfgNow t (patch (slice v 0 17) 0 1 0))) := by
  have cfg : (s.taskPut t A.tCfg A.tCfgNow (slice v 0 17)).rd A.tCfg t = slice v 0 17 :=
    (taskPut_cfg ..).trans (Nat.mod_eq_of_lt (slice_lt ..))
  have free : s.taskCfg t v = (s.taskPut t A.tCfg A.tCfgNow (slice v 0 17)).taskFree t := by
    rw [State.taskCfg, (taskPut_only ..).rd A.tState t rfl, slice_bit_zero hv]
    rcases hs with hs | hs <;> rw [hs] <;> rfl
  rw [free, State.taskFree, cfg]
  rcases hs with hs | hs
  · rw [if_pos hs, taskPut_now (by omega)]
  · rw [if_neg (by omega), taskPut_later (by omega)]

end cfg

end registers

/-- Settles O28: a dispatch gives the pick's task to its core, a timeout makes a task READY, and each register's write is
its rule for the state that the slot is in. -/
theorem dispatcher : Obligations.Dispatcher := by
  refine ⟨fun s die task c t hc => ⟨fun h => (if_pos hc).trans (congrArg _ (dispatch_idle h)), fun hb hp => ?_, fun hw ht ho => ?_,
    fun h => (if_pos hc).trans (congrArg _ (taskExpire_waits h))⟩, fun s who die task flag val h => ?_⟩
  · have ht : t < 4096 := by
      have := pick_lt hp
      omega
    obtain ⟨coreTask, idle, state, core, item, wait, arg, flags⟩ := dispatchTo_item s c t ht
    refine ⟨_, (if_pos hc).trans (congrArg _ (dispatch_gives hb hp)), ?_⟩
    exact ⟨coreTask, idle, state, core, item, wait, arg, flags,
      fun y hy => dispatchTo_others s c hy, fun o => (dispatchTo_only s c t).rd A.reg o rfl, dispatchTo_mem s c t⟩
  · exact ⟨_, (if_pos hc).trans (congrArg _ (taskExpire_over hw ht ho)), (taskReady_reads ..).2, (taskReady_times ..).1, (taskReady_times ..).2,
      (taskReady_reads ..).1⟩
  · have set_ : exec (.dispFlagSet who die task flag) s = .next (s.taskGuard who (taskIx die task) fun s => s.setFlag (taskIx die task) flag) :=
      access_next h _ fun s => s.taskGuard who (taskIx die task) fun s => s.setFlag (taskIx die task) flag
    have clear_ : exec (.dispFlagClear who die task flag) s = .next (s.taskGuard who (taskIx die task) fun s => s.clearFlag (taskIx die task) flag) :=
      access_next h _ fun s => s.taskGuard who (taskIx die task) fun s => s.clearFlag (taskIx die task) flag
    have cfg : exec (.taskCfgWrite who die val) s = .next (s.taskCfgWrite who die val.toNat) :=
      access_next h _ fun s => s.taskCfgWrite who die val.toNat
    have hist : exec (.taskHistClear who die) s = .next (s.taskGuard who (s.taskSel die) fun s => s.histClear (s.taskSel die)) :=
      access_next h _ fun s => s.taskGuard who (s.taskSel die) fun s => s.histClear (s.taskSel die)
    rw [set_, clear_, cfg, hist]
    refine ⟨fun no => ⟨congrArg _ (taskGuard_denied no _), congrArg _ (taskGuard_denied no _)⟩, fun may => ⟨fun waits met => ?_, fun unmet => ?_, ?_⟩,
      fun no => congrArg _ (taskCfgWrite_denied no), fun may => ⟨fun st en => ?_, fun st en => ?_, fun st => ?_⟩,
      fun no => congrArg _ (taskGuard_denied no _), fun may => congrArg _ (taskGuard_may may _)⟩
    · exact congrArg _ ((taskGuard_may may _).trans (congrArg (·.ans 0 0) (setFlag_readies flag.2 waits met)))
    · exact congrArg _ ((taskGuard_may may _).trans (congrArg (·.ans 0 0) (setFlag_stays flag.2 unmet)))
    · exact congrArg _ (taskGuard_may may _)
    · exact congrArg _ ((taskCfgWrite_may may).trans (congrArg (·.ans 0 0) (taskCfg_enabled st en)))
    · exact congrArg _ ((taskCfgWrite_may may).trans (congrArg (·.ans 0 0) (taskCfg_freed st en)))
    · exact congrArg _ ((taskCfgWrite_may may).trans (congrArg (·.ans 0 0) (taskCfg_running st)))

end Sys2Proof.Machine

/-! SUPPORT and CERTIFICATE. Pops from queues and pushes to them (chapter 10, R217, R237 to R241, R249). -/

namespace Sys2Proof.Machine

open Reg

/-! ### What a queue's data accesses look at -/

/-- `u` has the queues and the rights of `s`. -/
structure State.SameQueues (s u : State) : Prop where
  packets : u.packets = s.packets
  reg : ∀ o, u.reg o = s.reg o
  ptrBad : ∀ q, u.on A.qPtrBad q = s.on A.qPtrBad q
  stamp : ∀ who, u.stamp who = s.stamp who

/-- A write of an array that neither queues nor rights look at. -/
theorem sameQueues_only {s u : State} {codes : List Nat} (h : s.Only codes u) (hp : u.packets = s.packets) (ha : u.actAs = s.actAs)
    (hc : (codes.any [0, 30, 31, 99, 147].contains) = false) : s.SameQueues u := by
  have keep (a : Arr) (hm : [0, 30, 31, 99, 147].contains (a.code % 512) = true) (i : Nat) : u.rd a i = s.rd a i :=
    h.reads a i fun hl => Bool.false_ne_true (hc.symm.trans (List.any_eq_true.2 ⟨_, hl, hm⟩))
  refine ⟨hp, keep A.reg rfl, fun q => congrArg (fun x => decide (x = 1)) (keep A.qPtrBad rfl q), fun who => ?_⟩
  have of : u.stampOf who = s.stampOf who := by
    have loaded (k : Nat) : u.loaded k = s.loaded k := by rw [State.loaded, keep A.pState rfl, State.loaded]
    cases who <;> simp only [State.stampOf, loaded, keep A.pPid rfl, keep A.coreBind rfl]
  rw [State.stamp, State.stamp, ha, of]

theorem sameQueues_wr (s : State) {a : Arr} (i v : Nat) (ha : [0, 30, 31, 99, 147].contains (a.code % 512) = false) : s.SameQueues (s.wr a i v) :=
  sameQueues_only (codes := [a.code % 512]) ((State.Only.refl ..).wr _ _ (by simp)) rfl rfl (by rw [List.any_cons, ha]; rfl)

section same
variable {s u : State} (h : s.SameQueues u)
include h

theorem State.SameQueues.rf (b : Nat) (f : Fld) : u.rf b f = s.rf b f := by rw [State.rf, State.rf, h.reg]

theorem State.SameQueues.qEn (q : Nat) : u.qEn q = s.qEn q := by rw [State.qEn, h.rf, State.qEn]

theorem State.SameQueues.qClass (q : Nat) : u.qClass q = s.qClass q := by rw [State.qClass, h.rf, State.qClass]

theorem State.SameQueues.qPackets (q : Nat) : u.qPackets q = s.qPackets q := by rw [State.qPackets, h.packets, State.qPackets]

theorem State.SameQueues.qFits (q n : Nat) : u.qFits q n = s.qFits q n := by
  rw [State.qFits, State.qUsed, State.qWords, h.rf, h.qPackets, State.qFits, State.qUsed, State.qWords]

theorem State.SameQueues.qOpen (q p : Nat) : u.qOpen q p = s.qOpen q p := by rw [State.qOpen, h.packets, State.qOpen]

theorem State.SameQueues.qOpens (q : Nat) : u.qOpens q = s.qOpens q := by rw [State.qOpens, h.qPackets, State.qOpens]

theorem State.SameQueues.mayQueue (who : Who) (q : Nat) : u.mayQueue who q = s.mayQueue who q := by
  rw [State.mayQueue, State.mayQueue, State.pfRights, State.pfRights, State.isOwner, State.isOwner, State.qOwner, State.qOwner]
  simp only [h.rf, h.stamp]

end same

/-! ### Pops (R237, R241) -/

section pop
variable {s : State} {q : Nat} {p : QPacket}

/-- The oldest readable packet of a queue. -/
def State.qFirst (s : State) (q : Nat) : Option QPacket := s.packets.find? fun p => p.queue = q ∧ p.readable

theorem qPop_empty (h : s.qFirst q = none) : s.qPop q = (none, s) := if_pos (by rw [State.qFirst] at h; rw [h]; rfl)

/-- A word without an error in its check bits counts nothing (R247). -/
theorem qWord_intact {w : Nat} (hw : w < 2 ^ 64) (s : State) (q : Nat) : s.qWord q w = s := by
  have intact : slice w 64 2 = 0 := by rw [slice, Nat.div_eq_of_lt hw, Nat.zero_mod]
  rw [State.qWord, intact]
  rfl

theorem qPop_word (h : s.qFirst q = some p) (hq : s.on A.qPtrBad q = false) {w : Nat} {rest : List Nat} (hp : p.words = w :: rest) (hw : w < 2 ^ 64) :
    s.qPop q = (some (w, decide (rest = [])), s.afterPop q p) := by
  have sound : s.qCheck q = s := if_neg (by rw [hq]; decide)
  have word : slice w 0 64 = w := by rw [slice_at_zero, Nat.mod_eq_of_lt hw]
  rw [State.qFirst] at h
  rw [State.qPop, h]
  refine (if_neg Bool.false_ne_true).trans ?_
  rw [sound, State.qTake, h, State.afterPop]
  simp only [hp]
  cases rest with
  | nil => simp only [word, qWord_intact hw, decide_true]; rfl
  | cons x r => simp only [word, qWord_intact hw, reduceCtorEq, decide_false]; rfl

end pop

/-! ### Pushes (R238 to R240) -/

section push
variable {s : State} {q producer : Nat}

/-- A queue that refuses a word of a producer as FULL. -/
def State.qFull (s : State) (q producer : Nat) : Prop :=
  s.qEn q = false ∨ s.qOpen q producer = none ∧ 8 ≤ s.qOpens q ∨ s.qClass q ≠ 2 ∧ s.qFits q 1 = false

/-- A queue, other than a log queue, that takes a word of a producer. -/
def State.qTakesWord (s : State) (q producer : Nat) : Prop :=
  s.qEn q = true ∧ s.on A.qPtrBad q = false ∧ s.qClass q ≠ 2 ∧ s.qFits q 1 = true ∧ (s.qOpen q producer ≠ none ∨ s.qOpens q < 8)

theorem qTakes_fits (h : s.qClass q ≠ 2) (n : Nat) : s.qTakes q n = s.qFits q n := by
  rw [State.qTakes, if_neg h]
  simp

theorem qPush_full (h : s.qFull q producer) (w : Nat) (last : Bool) : s.qPush q producer w last = (false, s) := by
  rw [State.qPush]
  split
  · rfl
  next en =>
  split
  · rfl
  next slots =>
  refine if_pos ?_
  rcases h with h | ⟨none_, eight⟩ | ⟨cls, room⟩
  · exact absurd (by rw [h]; decide) en
  · exact absurd ⟨by rw [none_]; rfl, eight⟩ slots
  · rw [qTakes_fits cls, room]
    decide

theorem qPush_takes (h : s.qTakesWord q producer) (w : Nat) (last : Bool) : s.qPush q producer w last = (true, s.afterPush q producer w last) := by
  obtain ⟨en, hq, cls, room, slot⟩ := h
  have sound : s.qCheck q = s := if_neg (by rw [hq]; decide)
  have slots : ¬ ((s.qOpen q producer).isNone = true ∧ 8 ≤ s.qOpens q) := fun ⟨hn, h8⟩ =>
    slot.elim (fun h => h (Option.isNone_iff_eq_none.1 hn)) fun h => Nat.not_le.2 h h8
  rw [State.qPush, if_neg (not_not.2 en), if_neg slots, if_neg (by rw [qTakes_fits cls, room]; decide)]
  simp only [sound, State.qRoom, if_neg cls, room]
  rfl

end push

/-! ### Data accesses of a core (R217) -/

section core
variable {s : State} {die : Fin 8} {core : Fin 32} {p : QPacket} {w : Nat} {rest : List Nat}

theorem corePop_denied (h : s.mayQueue (.core die core) (s.coreQueue die core) = false) :
    s.corePop die core = (s.wr A.jqstat (coreIx die core) 8).ans 0 0 := if_pos (by rw [h]; decide)

theorem corePop_empty (h : s.mayQueue (.core die core) (s.coreQueue die core) = true) (he : s.qFirst (s.coreQueue die core) = none) :
    s.corePop die core = (s.wr A.jqstat (coreIx die core) 1).ans 0 0 := by
  simp only [State.corePop, h, not_true, if_false, qPop_empty he]
  rfl

theorem corePop_word (h : s.mayQueue (.core die core) (s.coreQueue die core) = true) (hf : s.qFirst (s.coreQueue die core) = some p)
    (hq : s.on A.qPtrBad (s.coreQueue die core) = false) (hp : p.words = w :: rest) (hw : w < 2 ^ 64) :
    s.corePop die core = ((s.afterPop (s.coreQueue die core) p).wr A.jqstat (coreIx die core) (if rest = [] then 4 else 0)).ans 0 w := by
  simp only [State.corePop, h, not_true, if_false, qPop_word hf hq hp hw]
  cases rest <;> rfl

theorem corePush_denied (h : s.mayQueue (.core die core) (s.coreQueue die core) = false) (last : Bool) :
    s.corePush die core w last = s.wr A.jqstat (coreIx die core) 8 := if_pos (by rw [h]; decide)

theorem corePush_full (h : s.mayQueue (.core die core) (s.coreQueue die core) = true)
    (hf : s.qFull (s.coreQueue die core) (coreProducer (coreIx die core))) (last : Bool) :
    s.corePush die core w last = s.wr A.jqstat (coreIx die core) 2 := by
  simp only [State.corePush, h, not_true, if_false, qPush_full hf]
  rfl

theorem corePush_takes (h : s.mayQueue (.core die core) (s.coreQueue die core) = true)
    (ht : s.qTakesWord (s.coreQueue die core) (coreProducer (coreIx die core))) (last : Bool) :
    s.corePush die core w last = (s.afterPush (s.coreQueue die core) (coreProducer (coreIx die core)) w last).wr A.jqstat (coreIx die core) 0 := by
  simp only [State.corePush, h, not_true, if_false, qPush_takes ht]
  rfl

end core

/-! ### Data accesses of a function (R249) -/

section host
variable {s : State} {who : Who} {q hi : Nat} {p : QPacket} {w : Nat} {rest : List Nat}

/-- A function's QUEUE_ACC after a pop that it may make. -/
def State.popAcc (s : State) (who : Who) (q : Nat) (empty eop : Bool) : State :=
  ((s.accBit who q 1 (bit empty)).accBit who q 3 (bit eop)).accBit who q 4 0

theorem hostPop_denied (h : s.mayQueue who q = false) : s.hostPop who q = (s.accBit who q 4 1).ans 1 0 := if_pos (by rw [h]; decide)

theorem hostPop_empty (h : s.mayQueue who q = true) (he : s.qFirst q = none) :
    s.hostPop who q = ((s.popAcc who q true false).wr A.qHiLatch (accIx who q) (2 ^ 32)).ans 0 0 := by
  simp only [State.hostPop, h, not_true, if_false, qPop_empty he]
  rfl

theorem hostPop_word (h : s.mayQueue who q = true) (hf : s.qFirst q = some p) (hq : s.on A.qPtrBad q = false) (hp : p.words = w :: rest)
    (hw : w < 2 ^ 64) : s.hostPop who q = (((s.afterPop q p).popAcc who q false (decide (rest = []))).wr A.qHiLatch (accIx who q)
      (2 ^ 32 + w / 2 ^ 32)).ans 0 (w % 2 ^ 32) := by
  have low : slice w 0 32 = w % 2 ^ 32 := slice_at_zero ..
  have high : slice w 32 32 = w / 2 ^ 32 := Nat.mod_eq_of_lt (by omega)
  simp only [State.hostPop, h, not_true, if_false, qPop_word hf hq hp hw, Option.map_some, Option.getD_some, low, high]
  rfl

/-- The lower half of a word that a write of its upper half pushes: the one held, or the last one. -/
def State.heldLo (s : State) (i : Nat) : Nat := if (s.rd A.qHeld i).testBit 32 then s.rd A.qHeld i % 2 ^ 32 else s.rd A.qLastLo i

/-- The held lower half is consumed. -/
def State.loTaken (s : State) (i : Nat) : State := s.wr A.qHeld i 0

theorem loTaken_same (s : State) (i : Nat) : s.SameQueues (s.loTaken i) := sameQueues_wr _ _ _ rfl

theorem hostPush_denied (h : s.mayQueue who q = false) : s.hostPush who q hi = ((s.loTaken (accIx who q)).accBit who q 4 1).ans 1 0 :=
  if_pos (ne_true_of_eq_false (((loTaken_same s (accIx who q)).mayQueue who q).trans h))

theorem hostPush_may (h : s.mayQueue who q = true) {r : Bool × State}
    (hr : (s.loTaken (accIx who q)).qPush q (whoProducer who) (s.heldLo (accIx who q) + 2 ^ 32 * hi) ((s.rd A.qAcc (accIx who q)).testBit 0) = r) :
    s.hostPush who q hi = (if r.1 then ((r.2.accBit who q 2 (bit (¬ r.1))).accBit who q 4 0).accBit who q 0 0
      else (r.2.accBit who q 2 (bit (¬ r.1))).accBit who q 4 0).ans 0 0 := by
  have acc : (s.loTaken (accIx who q)).rd A.qAcc (accIx who q) = s.rd A.qAcc (accIx who q) := State.rd_wr_arr _ _ _ _ _ _ (by decide)
  have close : decide (slice ((s.loTaken (accIx who q)).rd A.qAcc (accIx who q)) 0 1 = 1) = (s.rd A.qAcc (accIx who q)).testBit 0 := by
    rw [acc, testBit_slice]
  have lo : (if slice (s.rd A.qHeld (accIx who q)) 32 1 = 1 then slice (s.rd A.qHeld (accIx who q)) 0 32 else s.rd A.qLastLo (accIx who q)) =
      s.heldLo (accIx who q) := by
    rw [State.heldLo, testBit_slice, slice_at_zero]
    simp only [decide_eq_true_eq]
  refine (if_neg (not_not.2 ((loTaken_same s (accIx who q)).mayQueue who q |>.trans h))).trans ?_
  rw [← hr, ← close, ← lo]
  rfl

theorem hostPush_full (h : s.mayQueue who q = true) (hf : (s.loTaken (accIx who q)).qFull q (whoProducer who)) :
    s.hostPush who q hi = (((s.loTaken (accIx who q)).accBit who q 2 1).accBit who q 4 0).ans 0 0 := by
  rw [hostPush_may h (qPush_full hf _ _)]
  rfl

theorem hostPush_takes (h : s.mayQueue who q = true) (ht : (s.loTaken (accIx who q)).qTakesWord q (whoProducer who)) :
    s.hostPush who q hi = (((((s.loTaken (accIx who q)).afterPush q (whoProducer who) (s.heldLo (accIx who q) + 2 ^ 32 * hi)
      ((s.rd A.qAcc (accIx who q)).testBit 0)).accBit who q 2 0).accBit who q 4 0).accBit who q 0 0).ans 0 0 := by
  rw [hostPush_may h (qPush_takes ht _ _)]
  rfl

end host

/-! ### The accesses as commands -/

theorem woken_same (s : State) (c : Nat) : s.SameQueues (s.woken c) := sameQueues_wr _ _ _ rfl

section congr
variable {s u : State} (h : s.SameQueues u)
include h

theorem State.SameQueues.qFirst (q : Nat) : u.qFirst q = s.qFirst q := by rw [State.qFirst, h.packets, State.qFirst]

theorem State.SameQueues.qFull {q p : Nat} (hf : s.qFull q p) : u.qFull q p := by
  rwa [State.qFull, h.qEn, h.qOpen, h.qOpens, h.qClass, h.qFits]

theorem State.SameQueues.qTakesWord {q p : Nat} (ht : s.qTakesWord q p) : u.qTakesWord q p := by
  rwa [State.qTakesWord, h.qEn, h.ptrBad, h.qOpen, h.qOpens, h.qClass, h.qFits]

end congr

/-- Settles O29: a pop by the oldest readable packet, a push by whether the queue takes the word, and then what a core and
a function see of either. -/
theorem queuePopsAndPushes : Obligations.QueuePopsAndPushes := by
  refine ⟨fun s who die core q p w rest => ⟨fun hc up legal => ?_, fun hs => ?_⟩, fun s who die core q val hi => ⟨fun hc up legal => ?_, fun hs => ?_⟩⟩
  · have same := woken_same s (coreIx die core)
    have queue : (s.woken (coreIx die core)).coreQueue die core = 128 * die + s.rd A.jqsel (coreIx die core) :=
      congrArg (128 * die.val + ·) (woken_rd (by decide) _)
    have run : exec (.jqdataPop die core) s = .next ((s.woken (coreIx die core)).corePop die core) :=
      (if_pos hc).trans (congrArg _ (coreDoes_legal up legal _))
    rw [run, ← queue, ← same.mayQueue]
    refine ⟨fun no => congrArg _ (corePop_denied no), fun may => ⟨fun he => ?_, fun hf hq hp hw => ?_⟩⟩
    · exact congrArg _ (corePop_empty may ((same.qFirst _).trans he))
    · exact congrArg _ (corePop_word may ((same.qFirst _).trans hf) ((same.ptrBad _).trans hq) hp hw)
  · have run : exec (.queuePop who die q) s = .next (s.hostPop who (128 * die + q)) := access_next hs _ fun s => s.hostPop who (128 * die + q)
    rw [run]
    exact ⟨fun no => congrArg _ (hostPop_denied no), fun may => ⟨fun he => congrArg _ (hostPop_empty may he),
      fun hf hq hp hw => congrArg _ (hostPop_word may hf hq hp hw)⟩⟩
  · have same := woken_same s (coreIx die core)
    have queue : (s.woken (coreIx die core)).coreQueue die core = 128 * die + s.rd A.jqsel (coreIx die core) :=
      congrArg (128 * die.val + ·) (woken_rd (by decide) _)
    have run : exec (.jqdataPush die core val) s = .next ((s.woken (coreIx die core)).corePush die core val.toNat false) :=
      (if_pos hc).trans (congrArg _ (coreDoes_legal up legal _))
    have close : exec (.jqend die core val) s = .next ((s.woken (coreIx die core)).corePush die core val.toNat true) :=
      (if_pos hc).trans (congrArg _ (coreDoes_legal up legal _))
    rw [run, close, ← queue, ← same.mayQueue]
    exact ⟨fun no => ⟨congrArg _ (corePush_denied no _), congrArg _ (corePush_denied no _)⟩, fun may =>
      ⟨fun full => ⟨congrArg _ (corePush_full may (same.qFull full) _), congrArg _ (corePush_full may (same.qFull full) _)⟩,
       fun takes => ⟨congrArg _ (corePush_takes may (same.qTakesWord takes) _), congrArg _ (corePush_takes may (same.qTakesWord takes) _)⟩⟩⟩
  · have run : exec (.queuePush who die q hi) s = .next (s.hostPush who (128 * die + q) hi.toNat) :=
      access_next hs _ fun s => s.hostPush who (128 * die + q) hi.toNat
    have same := loTaken_same s (accIx who (128 * die + q))
    rw [run]
    exact ⟨fun no => congrArg _ (hostPush_denied no), fun may => ⟨fun full => congrArg _ (hostPush_full may (same.qFull full)),
      fun takes => congrArg _ (hostPush_takes may (same.qTakesWord takes))⟩⟩

end Sys2Proof.Machine

/-! SUPPORT and CERTIFICATE. How packets become readable, and the configuration of queues (chapter 10, R235 to R237, R241 to R245, R492). -/

namespace Sys2Proof.Machine

open Reg

/-! ### Packets become readable (R237, R241) -/

section readable
variable {s : State} {q : Nat} {p : QPacket} {l r : List QPacket}

/-- A closed packet of queue `q` that is not readable yet. -/
def closedIn (q : Nat) (x : QPacket) : Prop := x.queue = q ∧ x.closed = true ∧ x.readable = false

theorem closedIn_decide (q : Nat) (x : QPacket) : decide (x.queue = q ∧ x.closed = true ∧ ¬ x.readable = true) = true ↔ closedIn q x := by
  simp [closedIn]

theorem mapFirst_split {f : QPacket → QPacket} {c : QPacket → Bool} (hp : c p = true) (hl : ∀ x ∈ l, ¬ c x = true) :
    mapFirst c f (l ++ p :: r) = l ++ f p :: r := by
  induction l with
  | nil => exact if_pos hp
  | cons x l ih =>
    exact (if_neg (hl x List.mem_cons_self)).trans (congrArg (x :: ·) (ih fun y hy => hl y (List.mem_cons_of_mem _ hy)))

theorem qReadable_none (h : ∀ x ∈ s.packets, ¬ closedIn q x) : s.qReadable q = s := by
  refine if_pos fun any => ?_
  obtain ⟨x, hx, hc⟩ := List.any_eq_true.1 any
  exact h x hx ((closedIn_decide q x).1 hc)

/-- Queue `q` fires its event when a packet becomes readable that turns `s` into `t`. -/
def State.qFires (s t : State) (q : Nat) : Prop :=
  s.qClass q = 0 → s.rf (Q q) QUEUE_LEVEL_LEVEL ≠ 0 ∧ s.qDepth q < s.rf (Q q) QUEUE_LEVEL_LEVEL ∧ s.rf (Q q) QUEUE_LEVEL_LEVEL ≤ t.qDepth q

/-- Packet `p` becomes readable between the packets `l` and `r`. -/
def State.opened (s : State) (l : List QPacket) (p : QPacket) (r : List QPacket) : State := { s with packets := l ++ { p with readable := true } :: r }

section first
variable (hs : s.packets = l ++ p :: r) (hp : closedIn q p) (hl : ∀ x ∈ l, ¬ closedIn q x)
include hs hp hl

theorem qReadable_first : s.qReadable q = if s.rf (Q q) QUEUE_CTRL_EV_EN = 1 ∧ (if s.qClass q = 0 then
    s.rf (Q q) QUEUE_LEVEL_LEVEL ≠ 0 ∧ s.qDepth q < s.rf (Q q) QUEUE_LEVEL_LEVEL ∧ s.rf (Q q) QUEUE_LEVEL_LEVEL ≤ (s.opened l p r).qDepth q else True)
    then (s.opened l p r).raise (0x100 + q) else s.opened l p r := by
  have ready := (closedIn_decide q p).2 hp
  have any : (s.packets.any fun p => decide (p.queue = q ∧ p.closed = true ∧ ¬ p.readable = true)) = true :=
    List.any_eq_true.2 ⟨p, by rw [hs]; exact List.mem_append_right _ List.mem_cons_self, ready⟩
  have first : mapFirst (fun p => decide (p.queue = q ∧ p.closed = true ∧ ¬ p.readable = true)) (fun p => { p with readable := true }) s.packets =
      l ++ { p with readable := true } :: r := by
    rw [hs]
    exact mapFirst_split ready fun x hx hc => hl x hx ((closedIn_decide q x).1 hc)
  refine (if_neg (not_not.2 any)).trans ?_
  rw [State.opened, ← first]
  rfl

theorem qReadable_fires (hv : s.rf (Q q) QUEUE_CTRL_EV_EN = 1) (hf : s.qClass q ≠ 0 ∨ s.rf (Q q) QUEUE_LEVEL_LEVEL ≠ 0 ∧
    s.qDepth q < s.rf (Q q) QUEUE_LEVEL_LEVEL ∧ s.rf (Q q) QUEUE_LEVEL_LEVEL ≤ (s.opened l p r).qDepth q) :
    s.qReadable q = (s.opened l p r).raise (0x100 + q) := by
  rw [qReadable_first hs hp hl]
  refine if_pos ⟨hv, ?_⟩
  split
  · next single => exact hf.resolve_left (not_not.2 single)
  · trivial

theorem qReadable_quiet (h : s.rf (Q q) QUEUE_CTRL_EV_EN = 0 ∨ s.qClass q = 0 ∧ (s.rf (Q q) QUEUE_LEVEL_LEVEL = 0 ∨
    s.rf (Q q) QUEUE_LEVEL_LEVEL ≤ s.qDepth q ∨ (s.opened l p r).qDepth q < s.rf (Q q) QUEUE_LEVEL_LEVEL)) :
    s.qReadable q = s.opened l p r := by
  rw [qReadable_first hs hp hl]
  refine if_neg fun ⟨enabled, fires⟩ => ?_
  rcases h with h | ⟨single, h⟩
  · omega
  · rw [if_pos single] at fires
    omega

end first

end readable

/-! ### Configuration (R235, R236, R242, R243, R245, R492) -/

section setup
variable {s : State} {who : Who} {q v : Nat}

theorem qCfgWrite_denied (h : s.pfRights who = false) : s.qCfgWrite who q v = s.ans 1 0 := if_pos (ne_true_of_eq_false h)

theorem qCfgWrite_enabled (h : s.pfRights who = true) (he : s.qEn q = true) : s.qCfgWrite who q v = (s.wf (Q q) QUEUE_CTRL_CFG_ERR 1).ans 0 0 :=
  (if_neg (not_not.2 h)).trans (if_pos he)

theorem qCfgWrite_taken (h : s.pfRights who = true) (he : s.qEn q = false) :
    s.qCfgWrite who q v = ((s.wr A.reg (Q q) (patch v 3 1 0)).wf (Q q) QUEUE_CTRL_CFG_ERR 0).ans 0 0 :=
  (if_neg (not_not.2 h)).trans (if_neg (ne_true_of_eq_false he))

/-- The space of two queues overlaps (R235). -/
def State.qOverlaps (s : State) (q o : Nat) : Prop :=
  s.qEn o = true ∧ s.rf (Q o) QUEUE_CFG_BASE ≤ s.rf (Q q) QUEUE_CFG_BASE + s.rf (Q q) QUEUE_CFG_SIZE ∧
    s.rf (Q q) QUEUE_CFG_BASE ≤ s.rf (Q o) QUEUE_CFG_BASE + s.rf (Q o) QUEUE_CFG_SIZE

theorem qEnableBad_iff {die : Nat} (hd : q / 128 = die) : s.qEnableBad q = true ↔ 1023 < s.rf (Q q) QUEUE_CFG_BASE + s.rf (Q q) QUEUE_CFG_SIZE ∨
    s.qClass q = 3 ∨ ∃ o < 128, 128 * die + o ≠ q ∧ s.qOverlaps q (128 * die + o) := by
  unfold State.qEnableBad State.qSpan
  simp only [decide_eq_true_eq, List.any_eq_true, List.mem_range, State.qOverlaps, hd, Nat.lt_succ_iff]
  refine or_congr (by omega) (or_congr_right (exists_congr fun o => and_congr_right fun _ => and_congr_right fun _ => and_congr_right fun _ => and_comm))

theorem qEnable_again (h : s.qEn q = true) : s.qEnable q = s := if_pos h

theorem qEnable_bad (h : s.qEn q = false) (hb : s.qEnableBad q = true) : s.qEnable q = s.wf (Q q) QUEUE_CTRL_ERR 1 :=
  (if_neg (ne_true_of_eq_false h)).trans (if_pos hb)

theorem qEnable_good (h : s.qEn q = false) (hb : ¬ s.qEnableBad q = true) :
    s.qEnable q = (s.wf (Q q) QUEUE_CTRL_EN 1).wf (Q q) QUEUE_CTRL_ERR 0 := (if_neg (ne_true_of_eq_false h)).trans (if_neg hb)

theorem qDisable_again (h : s.qEn q = false) : s.qDisable q = s := if_neg (ne_true_of_eq_false h)

theorem qCheck_sound (h : s.on A.qPtrBad q = false) : s.qCheck q = s := if_neg (ne_true_of_eq_false h)

theorem qDisable_done (h : s.qEn q = true) (hq : s.on A.qPtrBad q = false) : s.qDisable q = (s.qEmpty q).wf (Q q) QUEUE_CTRL_EN 0 := by
  rw [State.qDisable, if_pos h, qCheck_sound hq]

theorem qReset_done (hq : s.on A.qPtrBad q = false) : s.qReset q = s.qEmpty q := if_neg (ne_true_of_eq_false hq)

/-- A flush that has been asked for. -/
def State.flushAsked (s : State) (q : Nat) : State := s.wf (Q q) QUEUE_CTRL_FLUSH_PENDING 1

theorem qFlush_waits (h : ∃ p ∈ s.packets, p.queue = q ∧ p.popped = true) : s.qFlush q = s.flushAsked q := by
  obtain ⟨p, hp, hq, hpop⟩ := h
  refine if_neg fun hn => hn.2 ?_
  exact List.any_eq_true.2 ⟨p, List.mem_filter.2 ⟨hp, decide_eq_true hq⟩, hpop⟩

theorem flushAsked_pending (s : State) (q : Nat) : (s.flushAsked q).rf (Q q) QUEUE_CTRL_FLUSH_PENDING = 1 :=
  State.rf_wf_same s (Q q) QUEUE_CTRL_FLUSH_PENDING 1 (by decide)

theorem qFlush_now (h : ∀ p ∈ s.packets, p.queue = q → p.popped = false) (hq : s.on A.qPtrBad q = false) :
    s.qFlush q = State.wf { (s.flushAsked q).qMark q with packets := s.packets.filter fun p => ¬ (p.queue = q ∧ p.closed) } (Q q)
      QUEUE_CTRL_FLUSH_PENDING 0 := by
  have boundary : ¬ (s.flushAsked q).qWithin q = true := fun within => by
    obtain ⟨p, hp, hpop⟩ := List.any_eq_true.1 within
    obtain ⟨hp, hpq⟩ := List.mem_filter.1 hp
    exact Bool.false_ne_true ((h p hp (of_decide_eq_true hpq)).symm.trans hpop)
  have sound : (s.flushAsked q).qCheck q = s.flushAsked q := qCheck_sound (congrArg (fun x => decide (x = 1)) (State.rd_wf _ _ _ _ _ _ (by decide)) |>.trans hq)
  rw [State.qFlush, ← State.flushAsked, State.qFlushNow, if_pos ⟨flushAsked_pending s q, boundary⟩, sound, State.qFlushed,
    if_pos ⟨flushAsked_pending s q, boundary⟩]
  rfl

/-- Queue `q` without its closed packets. -/
def State.flushedNow (s : State) (q : Nat) : State :=
  State.wf { (s.flushAsked q).qMark q with packets := s.packets.filter fun p => ¬ (p.queue = q ∧ p.closed) } (Q q) QUEUE_CTRL_FLUSH_PENDING 0

theorem flushedNow_packets (s : State) (q : Nat) : (s.flushedNow q).packets = s.packets.filter fun p => ¬ (p.queue = q ∧ p.closed) := rfl

theorem flushedNow_mem (s : State) (q : Nat) : (s.flushedNow q).mem = s.mem := rfl

theorem flushedNow_pending (s : State) (q : Nat) : (s.flushedNow q).rf (Q q) QUEUE_CTRL_FLUSH_PENDING = 0 := State.rf_wf_same _ _ _ _ (by decide)

theorem flushedNow_only (s : State) (q : Nat) : s.Only [0] (s.flushedNow q) := by
  have marked : s.Only [0] ((s.flushAsked q).qMark q) := ((State.Only.refl ..).wf _ _ _ rfl).wf _ _ _ rfl
  exact (marked.update (u := { (s.flushAsked q).qMark q with packets := s.packets.filter fun p => ¬ (p.queue = q ∧ p.closed) }) (by rfl)).wf _ _ _ rfl

/-! ### The writes as commands -/

section commands
variable {die : Fin 8} {q : Fin 128} (h : s.Serving who)
include h

theorem exec_queueEnable : exec (.queueEnable who die q) s = .next (if s.pfRights who then (s.qEnable (128 * die + q)).ans 0 0 else s.ans 1 0) :=
  access_next h _ fun s => if s.pfRights who then (s.qEnable (128 * die + q)).okay else s.deny

theorem exec_queueDisable : exec (.queueDisable who die q) s = .next (if s.pfRights who then (s.qDisable (128 * die + q)).ans 0 0 else s.ans 1 0) :=
  access_next h _ fun s => if s.pfRights who then (s.qDisable (128 * die + q)).okay else s.deny

theorem exec_flush : exec (.flush who die q) s = .next (if s.mayCtrl who (128 * die + q) then (s.qFlush (128 * die + q)).ans 0 0 else s.ans 1 0) :=
  access_next h _ fun s => if s.mayCtrl who (128 * die + q) then (s.qFlush (128 * die + q)).okay else s.deny

theorem exec_queueReset : exec (.queueReset who die q) s = .next (if s.mayCtrl who (128 * die + q) then (s.qReset (128 * die + q)).ans 0 0 else s.ans 1 0) :=
  access_next h _ fun s => if s.mayCtrl who (128 * die + q) then (s.qReset (128 * die + q)).okay else s.deny

end commands

end setup

/-- Settles O30: the first closed packet of a queue becomes readable, and each write of a queue's configuration is its rule
for the queue's state. -/
theorem queuePacketsAndSetup : Obligations.QueuePacketsAndSetup := by
  refine ⟨fun s die q p l r hc => ⟨fun none_ => (if_pos hc).trans (congrArg _ (qReadable_none none_)), fun hs hp hl => ⟨fun hv => ?_, fun hv hf => ?_, fun single hn => ?_⟩⟩,
    fun s who die q val h => ?_⟩
  · exact (if_pos hc).trans (congrArg _ (qReadable_quiet hs hp hl (.inl hv)))
  · exact (if_pos hc).trans (congrArg _ (qReadable_fires hs hp hl hv hf))
  · exact (if_pos hc).trans (congrArg _ (qReadable_quiet hs hp hl (.inr ⟨single, hn⟩)))
  · have cfg : exec (.queueCfgWrite who die q val) s = .next (s.qCfgWrite who (128 * die + q) val.toNat) :=
      access_next h _ fun s => s.qCfgWrite who (128 * die + q) val.toNat
    have ofDie : (128 * die.val + q.val) / 128 = die.val := by omega
    rw [cfg, exec_queueEnable h, exec_queueDisable h, exec_flush h, exec_queueReset h]
    refine ⟨fun no => ?_, fun may => ⟨fun en => ?_, fun off => ?_⟩, fun no => ?_, fun may => ⟨fun sound => ?_, fun within => ?_, fun boundary sound => ?_⟩⟩
    · rw [qCfgWrite_denied no, no]
      exact ⟨rfl, rfl, rfl⟩
    · rw [qCfgWrite_enabled may en, qEnable_again en, may]
      exact ⟨rfl, rfl, fun sound => congrArg (fun u : State => (.next (u.ans 0 0) : Res)) (qDisable_done en sound)⟩
    · rw [qCfgWrite_taken may off, qDisable_again off, may]
      exact ⟨rfl, fun bad => congrArg (fun u : State => (.next (u.ans 0 0) : Res)) (qEnable_bad off ((qEnableBad_iff ofDie).2 bad)),
        fun good => congrArg (fun u : State => (.next (u.ans 0 0) : Res)) (qEnable_good off fun bad => good ((qEnableBad_iff ofDie).1 bad)), rfl⟩
    · rw [no]
      exact ⟨rfl, rfl⟩
    · rw [may, qReset_done sound]
      rfl
    · rw [may, qFlush_waits within]
      rfl
    · rw [may, qFlush_now boundary sound]
      refine ⟨(s.flushedNow (128 * die + q)).ans 0 0, rfl, ?_⟩
      simp only [packets_ans, mem_ans, State.rf_ans, State.rd_ans]
      exact ⟨flushedNow_packets .., flushedNow_pending .., rfl, flushedNow_mem .., fun x hx hr j =>
        (flushedNow_only s (128 * die + q)).reads x j fun hm => hr ((Nat.mod_eq_of_lt hx).symm.trans (List.mem_singleton.1 hm))⟩

end Sys2Proof.Machine

/-! SUPPORT and CERTIFICATE. Commands of the recorder, and its region (chapter 11, R250, R260, R262, R265, R464). -/

namespace Sys2Proof.Machine

open Reg

/-! ### What a restore leaves alone -/

/-- What a restore sets itself and nothing that it calls writes: the slot's state, owner and cycle, the owner of its walls,
its edge sequencer, the presence flags of its landing stores. -/
def sparedCodes : List Nat := [12, 30, 31, 33, 41, 42, 58]

/-- `t` reads these arrays, and the registers of the partitions, as `s` does. -/
structure State.Spared (s t : State) : Prop where
  arrays : ∀ (a : Arr) (i : Nat), sparedCodes.contains (a.code % 512) = true → t.rd a i = s.rd a i
  part : ∀ r, 0x100000 ≤ r → r < 0x800000 → t.reg r = s.reg r

section spared
variable {s t u : State}

theorem State.Spared.refl (s : State) : s.Spared s := ⟨fun _ _ _ => rfl, fun _ _ _ => rfl⟩

theorem State.Spared.trans (h : s.Spared t) (h' : t.Spared u) : s.Spared u :=
  ⟨fun a i ha => (h'.arrays a i ha).trans (h.arrays a i ha), fun r h1 h2 => (h'.part r h1 h2).trans (h.part r h1 h2)⟩

theorem State.Spared.wr (h : s.Spared t) {a : Arr} (i v : Nat) (ha : sparedCodes.contains (a.code % 512) = false) (h0 : ¬ a.code % 512 = 0) :
    s.Spared (t.wr a i v) := by
  refine ⟨fun b j hb => (State.rd_wr_arr _ _ _ _ _ _ fun e => ?_).trans (h.arrays b j hb), fun r h1 h2 => (State.reg_wr _ _ _ _ _ h0).trans (h.part r h1 h2)⟩
  rw [e] at ha
  exact Bool.false_ne_true (ha.symm.trans hb)

theorem State.Spared.reg (h : s.Spared t) {r : Nat} (hr : r < 0x100000 ∨ 0x800000 ≤ r) (v : Nat) : s.Spared (t.wr A.reg r v) := by
  refine ⟨fun b j hb => (State.rd_wr_arr _ _ _ _ _ _ fun e => ?_).trans (h.arrays b j hb),
    fun o h1 h2 => (State.rd_wr_ix _ _ _ _ _ (by omega)).trans (h.part o h1 h2)⟩
  rw [← e] at hb
  exact absurd hb (by decide)

theorem State.Spared.ite {p : Prop} [Decidable p] (ht : s.Spared t) (hu : s.Spared u) : s.Spared (if p then t else u) := by
  split
  · exact ht
  · exact hu

theorem State.Spared.update (h : s.Spared t) (e : u.arr = t.arr) : s.Spared u := by
  have same (a : Arr) (i : Nat) : u.rd a i = t.rd a i := by simp only [State.rd, e]
  exact ⟨fun a i ha => (same a i).trans (h.arrays a i ha), fun r h1 h2 => (same A.reg r).trans (h.part r h1 h2)⟩

theorem spared_foldl {α : Type} {f : State → α → State} (hf : ∀ (u : State) x, u.Spared (f u x)) (l : List α) (s : State) : s.Spared (l.foldl f s) := by
  induction l generalizing s with
  | nil => exact .refl s
  | cons x r ih => exact (hf s x).trans (ih _)

theorem spared_each {f : State → Nat → State} (hf : ∀ (u : State) x, u.Spared (f u x)) (n : Nat) (s : State) : s.Spared (s.each n f) :=
  spared_foldl hf _ s

/-- A change of arrays that are none of these. -/
theorem State.Only.spared {codes : List Nat} (h : s.Only codes t) (hc : (codes.any fun c => c = 0 ∨ sparedCodes.contains c) = false) : s.Spared t := by
  have apart (c : Nat) (hm : codes.contains c = true) : ¬ (c = 0 ∨ sparedCodes.contains c = true) := fun bad =>
    Bool.false_ne_true (hc.symm.trans (List.any_eq_true.2 ⟨c, List.contains_iff_mem.1 hm, decide_eq_true bad⟩))
  refine ⟨fun a i ha => h.reads a i fun hm => apart _ (List.contains_iff_mem.2 hm) (.inr ha), fun r _ _ => h.reads A.reg r fun hm => apart 0 (List.contains_iff_mem.2 hm) (.inl rfl)⟩

theorem State.Spared.drop (h : s.Spared t) (a : Arr) (p : Nat → Bool) (ha : sparedCodes.contains a.code = false) (h0 : a.code ≠ 0) : s.Spared (t.drop a p) := by
  refine ⟨fun b j hb => (rd_drop _ _ _ fun e => ?_).trans (h.arrays b j hb), fun r h1 h2 => (rd_drop t (b := A.reg) p r fun e => h0 e.symm).trans (h.part r h1 h2)⟩
  rw [e] at hb
  exact Bool.false_ne_true (ha.symm.trans hb)

theorem raise_spared (s : State) {src : Nat} (h : src < 1536) : s.Spared (s.raise src) := by
  refine ⟨fun a i ha => (raise_calm s src).only.reads a i fun hm => ?_, fun r h1 h2 => (raise_reg s h2 ?_).trans (State.rd_wr_ix _ _ _ _ _ ?_)⟩
  · have no : (raiseCodes.any sparedCodes.contains) = false := rfl
    exact Bool.false_ne_true (no.symm.trans (List.any_eq_true.2 ⟨_, hm, ha⟩))
  · simp only [oEVT_DROP]
    omega
  · simp only [oEVT_STATUS]
    omega

end spared

/-! ### Reads of HBM (R393, R398, R408) -/

section reads
variable (s : State)

theorem die_reg (d : Nat) {x : Nat} : D d + x < 0x100000 ∨ 0x800000 ≤ D d + x := by
  simp only [D, Off.die]
  omega

theorem State.Spared.die {s t : State} (h : s.Spared t) (d : Nat) (f : Fld) (v : Nat) : s.Spared (t.wf (D d) f v) := h.reg (die_reg d) _

theorem State.Spared.pair {s t : State} (h : s.Spared t) {r : Nat} (hr : r + 4 < 0x100000 ∨ 0x800000 ≤ r) (v : Nat) : s.Spared (t.setPair r v) :=
  (h.reg (by omega) _).reg (by omega) _

theorem putBytes_spared (a v n : Nat) : s.Spared (s.putBytes a v n) := (putBytes_only s a v n).spared rfl

theorem l2Drop_spared (die line : Nat) : s.Spared (s.l2Drop die line) := by
  unfold State.l2Drop
  split
  · exact .refl s
  · have dropped : s.Spared { s with l2 := s.l2.filter fun x => ¬ (x.die = die ∧ x.line = line) } := (State.Spared.refl s).update (by rfl)
    have clean := (State.Spared.refl { s with l2 := s.l2.filter fun x => ¬ (x.die = die ∧ x.line = line) }).wr (a := A.hbmErr) line 0 rfl (by decide)
    exact (dropped.trans ((State.Spared.refl _).ite (((clean.wr _ _ rfl (by decide)).ite clean).trans (putBytes_spared ..)))).ite dropped

theorem snoopRead_spared (line : Nat) : s.Spared (s.snoopRead line) := spared_foldl (fun _ _ => l2Drop_spared ..) ..

theorem wakeMem_spared (a : Nat) : s.Spared (s.wakeMem a) :=
  (State.Spared.refl s).ite ((((State.Spared.refl s).reg (.inl (by decide)) _).wr _ _ rfl (by decide)).trans ((releaseHeld_only _).spared rfl))

theorem noteUe_spared (a : Nat) : s.Spared (s.noteUe a) :=
  (((State.Spared.refl s).die _ _ _).pair (by simp only [D, Off.die, oHBM_ERR_ADDR_LO]; omega) _).trans (raise_spared _ (by decide))

theorem noteCe_spared (a : Nat) : s.Spared (s.noteCe a) := ((State.Spared.refl s).die _ _ _).wr _ _ rfl (by decide)

theorem free_spared (w : Nat) : s.Spared (s.free w).2 := (free_only s w).spared rfl

theorem hbmRead_spared (a n : Nat) : s.Spared (s.hbmRead a n).st := by
  have woken : s.Spared ((s.wakeMem a).snoopRead (a / 64)) := (wakeMem_spared s a).trans (snoopRead_spared ..)
  have opened : s.Spared (((s.wakeMem a).snoopRead (a / 64)).free (8 * n)).2 := woken.trans (free_spared ..)
  have told : s.Spared ((((s.wakeMem a).snoopRead (a / 64)).free (8 * n)).2.free 1).2 := opened.trans (free_spared ..)
  unfold State.hbmRead
  dsimp only
  split
  · exact woken
  split
  · exact (told.trans (noteUe_spared ..)).ite told
  split
  · exact opened
  split
  · exact woken
  · exact woken.trans (noteCe_spared ..)
  · exact woken.trans (noteUe_spared ..)

theorem niRead_spared (die ni : Nat) (w : Stamp) (a n v : Nat) : s.Spared (s.niAccess die ni w false a n v).st := by
  have denied (x : Nat) : s.Spared (HbmAns.mk x 0 s).st := .refl s
  unfold State.niAccess State.hbmAccess
  dsimp only
  split
  · split
    · exact .refl s
    split
    · exact .refl s
    · exact hbmRead_spared s a n
  · exact ((State.Spared.refl s).die _ _ _).pair (by simp only [Off.die, oCN_ERR_ADDR_LO]; omega) _

theorem pktRead_spared (p : RecPkt) : s.Spared (s.pktRead p) :=
  (State.Spared.refl s).ite (spared_foldl (fun u _ => niRead_spared u ..) _ s)

end reads

/-! ### The parts of a restore (R265, R266) -/

section parts
variable (s : State)

theorem recSettle_spared (k : Nat) : s.Spared (s.recSettle k) := (recSettle_settled s k).only.spared rfl

theorem putLine_spared (bed bank line data due : Nat) : s.Spared (s.putLine bed bank line data due) := by
  have line_ : s.Spared (s.lineIn bed bank line data due) :=
    ((((((State.Spared.refl s).wr _ _ rfl (by decide)).wr _ _ rfl (by decide)).wr _ _ rfl (by decide)).wr _ _ rfl (by decide)).wr _ _ rfl (by decide))
  exact line_.trans ((putLine_settled ..).only.spared rfl)

theorem wrE_spared {s t : State} (h : s.Spared t) {a : Arr} (i v : Nat) (ha : sparedCodes.contains (a.code % 512) = false) (h0 : ¬ a.code % 512 = 0) :
    s.Spared (t.wrE a i v) := (h.wr i v ha h0).wr _ _ rfl (by decide)

theorem bayWr_spared (wall a v : Nat) : s.Spared (s.bayWr wall a v) := by
  unfold State.bayWr
  split
  · have buf := wrE_spared (.refl s) (a := A.newtBuf) (by assumption) v rfl (by decide)
    exact (wrE_spared buf _ _ rfl (by decide)).ite buf
  · exact wrE_spared (.refl s) _ _ rfl (by decide)

theorem lnCancel_spared (k : Nat) : s.Spared (s.lnCancel k) :=
  spared_foldl (fun u i => (((State.Spared.refl u).wr _ _ rfl (by decide)).wr _ _ rfl (by decide)).wr _ _ rfl (by decide)) _ s

theorem clearPorts_spared (k : Nat) : s.Spared (s.clearPorts k) := by
  unfold State.clearPorts
  refine State.Spared.drop (State.Spared.drop (State.Spared.drop ?_ A.slotR _ rfl (by decide)) A.tagOut _ rfl (by decide)) A.gen _ rfl (by decide)
  exact (State.Spared.refl s).update (by rfl)

theorem bumpEpochs_spared (k : Nat) : s.Spared (s.bumpEpochs k) := by
  have bumped := spared_foldl (f := fun s w => s.wr A.epoch w (s.rd A.epoch w + 1)) (fun u w => (State.Spared.refl u).wr _ _ rfl (by decide)) (s.wallsOf k) s
  exact (bumped.update (by rfl)).trans ((dropCause_calm ..).only.spared rfl)

theorem unit_reg (u : Nat) {x : Nat} : TU u + x < 0x100000 ∨ 0x800000 ≤ TU u + x := by
  simp only [TU, Off.trig, Off.die]
  omega

theorem State.Spared.unit {s t : State} (h : s.Spared t) (u : Nat) (f : Fld) (v : Nat) : s.Spared (t.wf (TU u) f v) := h.reg (unit_reg u) _

theorem trigReset_spared (k : Nat) : s.Spared (s.trigReset k) :=
  spared_foldl (fun u i => ((((((State.Spared.refl u).unit _ _ _).wr _ _ rfl (by decide)).wr _ _ rfl (by decide)).wr _ _ rfl (by decide)).wr
    _ _ rfl (by decide)).wr _ _ rfl (by decide)) _ s

theorem setMaps_spared (k src : Nat) (b : RecPkt) : s.Spared (s.setMaps k src b) := by
  have cleared := (((State.Spared.refl s).drop A.mapWall (fun i => i / 128 = k) rfl (by decide)).drop A.mapUnit (fun i => i / 32 = k) rfl (by decide)).drop
    A.mapWords (fun i => i / 8 = k) rfl (by decide)
  refine cleared.trans (spared_each (fun u d => ?_) 8 _)
  have walls (l : List (Nat × Nat)) : u.Spared (l.foldl (fun s x => s.wr A.mapWall (128 * k + x.1) (x.2 + 1)) u) :=
    spared_foldl (fun v x => (State.Spared.refl v).wr _ _ rfl (by decide)) l u
  have units (w : State) (l : List ((Nat × List Nat) × Nat)) : w.Spared (l.foldl (fun s x => s.wr A.mapUnit (32 * k + x.1.1) (x.2 + 1)) w) :=
    spared_foldl (fun v x => (State.Spared.refl v).wr _ _ rfl (by decide)) l w
  dsimp only
  split
  · exact (walls _).trans (units ..)
  · exact ((walls _).trans (units ..)).wr _ _ rfl (by decide)

theorem loadTrig_spared (k u srcMask : Nat) (regs : List Nat) (arm : Nat) : s.Spared (s.loadTrig k u srcMask regs arm) := by
  have loaded := spared_foldl (f := fun s (x : Nat × Nat) => s.setPair (TU u + 8 * x.2) x.1)
    (fun v x => (State.Spared.refl v).pair (by simp only [TU, Off.trig, Off.die]; omega) _) regs.zipIdx s
  have owned := loaded.reg (r := TU u) (unit_reg (x := 0) u)
  have words (w : State) (m : Nat) : w.Spared (w.each 2 fun s c => s.wf (cmpBase u c) TRIG_CMP_CFG_WORD (mapBit srcMask m (s.rf (cmpBase u c) TRIG_CMP_CFG_WORD))) :=
    spared_each (fun v c => (State.Spared.refl v).reg (by simp only [cmpBase, TU, Off.trig, Off.die]; omega) _) 2 w
  exact (((owned _).trans (words ..)).unit _ _ _).pair (by simp only [TU, Off.trig, Off.die]; omega) _

theorem restoreTrig_spared (k u : Nat) (ws : List Nat) : s.Spared (s.restoreTrig k u ws) :=
  (((((((((loadTrig_spared ..).unit _ _ _).unit _ _ _).wr _ _ rfl (by decide)).wr _ _ rfl (by decide)).wr _ _ rfl (by decide)).wr _ _ rfl (by decide)).wr
    _ _ rfl (by decide)).wr _ _ rfl (by decide)).wr _ _ rfl (by decide) |>.reg (unit_reg u) _

theorem restorePkt_spared (k c : Nat) (p : RecPkt) : s.Spared (s.restorePkt k c p) := by
  unfold State.restorePkt
  dsimp only
  split
  · exact spared_each (fun u i => wrE_spared (wrE_spared (.refl u) _ _ rfl (by decide)) _ _ rfl (by decide)) _ s
  · exact spared_each (fun u i => bayWr_spared ..) _ s
  · exact spared_each (fun u i => wrE_spared (.refl u) _ _ rfl (by decide)) _ s
  · exact (putLine_spared ..).ite ((State.Spared.refl s).update (by rfl))
  · exact (State.Spared.refl s).update (by rfl)
  · split
    · exact restoreTrig_spared ..
    · exact .refl s
  · exact .refl s

end parts

/-! ### A restore (R265, R266) -/

section restore
variable (s : State) (k : Nat)

theorem slotOfBed_spared {s t : State} (h : s.Spared t) (b : Nat) : t.slotOfBed b = s.slotOfBed b := by
  rw [State.slotOfBed, State.slotOfWall, h.arrays A.wallOwner _ rfl, State.slotOfBed, State.slotOfWall]

theorem clearPresence_landP (i : Nat) (h : s.slotOfBed (i / 1024) = some k) : (s.clearPresence k).rd A.landP i = 0 := by
  rw [State.clearPresence, rd_drop _ _ _ (by decide), rd_drop _ _ _ (by decide), rd_drop_eq _ _ (by decide), if_pos ⟨rfl, decide_eq_true h⟩,
    dflt_plain ⟨by decide, by decide, by decide⟩, Nat.zero_mod]

theorem clearPresence_reads {a : Arr} (i : Nat) (ha : ¬ a.code % 512 = 12 ∧ ¬ a.code % 512 = A.portP.code ∧ ¬ a.code % 512 = A.portPErr.code) :
    (s.clearPresence k).rd a i = s.rd a i := by
  rw [State.clearPresence, rd_drop _ _ _ ha.2.2, rd_drop _ _ _ ha.2.1, rd_drop _ _ _ ha.1]

/-- A restore up to where the presence flags of the slot are clear. -/
def State.restoreOpen (src : Nat) (b : RecPkt) : State :=
  ((((s.segmentData src b.off).filter (·.typ = 3)).foldl State.pktRead (s.pktRead b)).setMaps k src b).lnCancel k

theorem restoreOpen_spared (src : Nat) (b : RecPkt) : s.Spared (s.restoreOpen k src b) :=
  (((pktRead_spared s b).trans (spared_foldl (fun u p => pktRead_spared u p) _ _)).trans (setMaps_spared ..)).trans (lnCancel_spared ..)

/-- What a restore clears after that. -/
def State.restoreClear : State :=
  let t := (((s.clearPresence k).clearPorts k).bumpEpochs k).trigReset k
  { t with startLines := t.startLines.filter fun x => x.1 ≠ k }

theorem restoreClear_spared : (s.clearPresence k).Spared (s.restoreClear k) :=
  (((clearPorts_spared ..).trans (bumpEpochs_spared ..)).trans (trigReset_spared ..)).update (by rfl)

/-- The restored position of the slot. -/
def State.restoreAt (b : RecPkt) : State :=
  ((s.wr A.esLen k (slice (b.body.getD 4 0) 0 13)).wr A.esIdx k (slice (b.body.getD 4 0) 13 12)).wr A.pCycle k (b.cyc + 1)

/-- The data of a restore, and its pulls. -/
def State.restoreData (b : RecPkt) (data : List RecPkt) : State :=
  (State.wr (data.foldl (fun s p => s.restorePkt k (b.cyc + 1) p) s) A.gatePull k (idlePull (b.cyc + 1))).pullsChanged k

theorem restoreData_spared (b : RecPkt) (data : List RecPkt) : s.Spared (s.restoreData k b data) :=
  ((spared_foldl (fun u p => restorePkt_spared ..) data s).wr _ _ rfl (by decide)).trans ((pullsChanged_calm ..).only.spared rfl)

/-- The feed from a restore on. -/
def State.restoreFeed (src : Nat) (b : RecPkt) : State :=
  let s := (s.wf (P k) REC_STATUS_REPLAY_END 0).wf (P k) REC_STATUS_REPLAYING (bit (s.replaying k))
  let s := s.wr A.feedLost k 0
  (s.wr A.feedSeq k (if s.replaying k then 1 + (b.seq + 1) % 2 ^ 32 else 0)).wr A.feedAt k ((b.off + b.bytes) % s.regionBytes src)

theorem doRestore_eq (src : Nat) (b : RecPkt) : s.doRestore k src b =
    ((((s.restoreOpen k src b).restoreClear k).restoreAt k b).restoreData k b ((s.segmentData src b.off).filter (·.typ = 3))).restoreFeed k src b := rfl

theorem restoreFeed_only (src : Nat) (b : RecPkt) : s.Only [0, A.feedLost.code, A.feedSeq.code, A.feedAt.code] (s.restoreFeed k src b) :=
  (((((State.Only.refl ..).wf _ _ _ rfl).wf _ _ _ rfl).wr _ _ rfl).wr _ _ rfl).wr _ _ rfl

theorem restoreFeed_regs (src : Nat) (b : RecPkt) : (s.restoreFeed k src b).rf (P k) REC_STATUS_REPLAYING = (if s.replaying k then 1 else 0) ∧
    (s.restoreFeed k src b).rf (P k) REC_CTRL_RESULT = s.rf (P k) REC_CTRL_RESULT := by
  constructor
  · simp only [State.restoreFeed, rf_wr _ _ _ _ _ (show ¬ A.feedAt.code % 512 = 0 by decide), rf_wr _ _ _ _ _ (show ¬ A.feedSeq.code % 512 = 0 by decide),
      rf_wr _ _ _ _ _ (show ¬ A.feedLost.code % 512 = 0 by decide), State.rf_wf_same _ _ _ _ (show REC_STATUS_REPLAYING.lo + REC_STATUS_REPLAYING.w ≤ 32 by decide)]
    cases s.replaying k <;> rfl
  · simp only [State.restoreFeed, rf_wr _ _ _ _ _ (show ¬ A.feedAt.code % 512 = 0 by decide), rf_wr _ _ _ _ _ (show ¬ A.feedSeq.code % 512 = 0 by decide),
      rf_wr _ _ _ _ _ (show ¬ A.feedLost.code % 512 = 0 by decide)]
    rw [State.rf_wf_reg _ _ _ _ _ _ (by simp [REC_STATUS_REPLAYING, REC_CTRL_RESULT]), State.rf_wf_reg _ _ _ _ _ _ (by simp [REC_STATUS_REPLAY_END, REC_CTRL_RESULT])]

/-- What a restore leaves of the slot: its position and sequencer as the snapshot gives them, its landing flags clear. -/
theorem doRestore_leaves (src : Nat) (b : RecPkt) :
    (s.doRestore k src b).rd A.pCycle k = (b.cyc + 1) % 2 ^ 48 ∧ (s.doRestore k src b).rd A.esIdx k = slice (b.body.getD 4 0) 13 12 ∧
    (s.doRestore k src b).rd A.esLen k = slice (b.body.getD 4 0) 0 13 ∧ (s.doRestore k src b).rd A.pState k = s.rd A.pState k ∧
    (∀ i, s.slotOfBed (i / 1024) = some k → (s.doRestore k src b).rd A.landP i = 0) := by
  have opened := restoreOpen_spared s k src b
  have cleared := restoreClear_spared (s.restoreOpen k src b) k
  have data (u : State) := restoreData_spared u k b ((s.segmentData src b.off).filter (·.typ = 3))
  have feed (u : State) := restoreFeed_only u k src b
  rw [doRestore_eq]
  refine ⟨?_, ?_, ?_, ?_, fun i hi => ?_⟩
  · rw [(feed _).rd A.pCycle k rfl, (data _).arrays A.pCycle k rfl, State.restoreAt, State.rd_wr_same]
    rfl
  · rw [(feed _).rd A.esIdx k rfl, (data _).arrays A.esIdx k rfl, State.restoreAt, State.rd_wr_arr _ _ _ _ _ _ (by decide), State.rd_wr_same]
    exact Nat.mod_eq_of_lt (slice_lt ..)
  · rw [(feed _).rd A.esLen k rfl, (data _).arrays A.esLen k rfl, State.restoreAt, State.rd_wr_arr _ _ _ _ _ _ (by decide),
      State.rd_wr_arr _ _ _ _ _ _ (by decide), State.rd_wr_same]
    exact Nat.mod_eq_of_lt (slice_lt ..)
  · rw [(feed _).rd A.pState k rfl, (data _).arrays A.pState k rfl, State.restoreAt, State.rd_wr_arr _ _ _ _ _ _ (by decide),
      State.rd_wr_arr _ _ _ _ _ _ (by decide), State.rd_wr_arr _ _ _ _ _ _ (by decide), cleared.arrays A.pState k rfl,
      clearPresence_reads _ _ _ (by decide), opened.arrays A.pState k rfl]
  · rw [(feed _).rd A.landP i rfl, (data _).arrays A.landP i rfl, State.restoreAt, State.rd_wr_arr _ _ _ _ _ _ (by decide),
      State.rd_wr_arr _ _ _ _ _ _ (by decide), State.rd_wr_arr _ _ _ _ _ _ (by decide), cleared.arrays A.landP i rfl]
    exact clearPresence_landP _ _ _ ((slotOfBed_spared opened _).trans hi)

theorem doRestore_regs (hk : k < 32) (src : Nat) (b : RecPkt) :
    (s.doRestore k src b).rf (P k) REC_STATUS_REPLAYING = (if s.replaying k then 1 else 0) ∧
    (s.doRestore k src b).rf (P k) REC_CTRL_RESULT = s.rf (P k) REC_CTRL_RESULT := by
  have data (u : State) := restoreData_spared u k b ((s.segmentData src b.off).filter (·.typ = 3))
  have part : ∀ x < 0x1000, (((((s.restoreOpen k src b).restoreClear k).restoreAt k b).restoreData k b ((s.segmentData src b.off).filter (·.typ = 3)))).reg
      (P k + x) = s.reg (P k + x) := fun x hx => by
    have low : 0x100000 ≤ P k + x := by simp only [P, Off.part]; omega
    have high : P k + x < 0x800000 := by simp only [P, Off.part]; omega
    rw [(data _).part _ low high, State.restoreAt, State.reg_wr _ _ _ _ _ (by decide), State.reg_wr _ _ _ _ _ (by decide), State.reg_wr _ _ _ _ _ (by decide),
      (restoreClear_spared _ k).part _ low high]
    exact (clearPresence_reads _ _ _ (by decide)).trans ((restoreOpen_spared s k src b).part _ low high)
  obtain ⟨replaying, result⟩ := restoreFeed_regs ((((s.restoreOpen k src b).restoreClear k).restoreAt k b).restoreData k b
    ((s.segmentData src b.off).filter (·.typ = 3))) k src b
  have field (f : Fld) (hf : f.off < 0x1000) : (((((s.restoreOpen k src b).restoreClear k).restoreAt k b).restoreData k b
      ((s.segmentData src b.off).filter (·.typ = 3)))).rf (P k) f = s.rf (P k) f := by rw [State.rf, part _ hf, State.rf]
  rw [doRestore_eq, replaying, result, State.replaying, field _ (by decide), field _ (by decide)]
  exact ⟨rfl, rfl⟩

end restore

/-! ### Commands (R250, R260, R464) -/

section commands
variable {s : State} {who : Who} {k : Nat}

theorem recResult_eq (s : State) (k r : Nat) :
    s.recResult k r = (s.wf (P k) REC_CTRL_RESULT r).wf (P k) REC_CTRL_REFUSED (if r = 0 then 0 else 1) := by
  rw [State.recResult]
  by_cases h : r = 0
  · rw [h]
    rfl
  · rw [if_neg h, decide_eq_true h]
    rfl

theorem recCmd_denied (h : s.maySlot who k = false) (r : Nat) (f : State → State) : s.recCmd who k r f = s.ans 1 0 := if_pos (ne_true_of_eq_false h)

theorem recCmd_done (h : s.maySlot who k = true) (f : State → State) : s.recCmd who k 0 f = (f (s.recResult k 0)).ans 0 0 := if_neg (not_not.2 h)

theorem recCmd_refused (h : s.maySlot who k = true) {r : Nat} (hr : r ≠ 0) (f : State → State) :
    s.recCmd who k r f = ((s.wf (P k) REC_CTRL_RESULT r).wf (P k) REC_CTRL_REFUSED (if r = 0 then 0 else 1)).ans 0 0 := by
  rw [← recResult_eq, State.recCmd, if_neg (not_not.2 h)]
  exact congrArg State.okay (if_neg hr)

theorem recReady_region (h : ¬ s.rf (P k) REC_REGION_VALID = 1) : s.recReady k = 1 := by
  have lt : s.rf (P k) REC_REGION_VALID < 2 ^ 1 := slice_lt ..
  exact if_pos (by omega)

theorem recReady_replaying (h : s.rf (P k) REC_REGION_VALID = 1) (hr : s.replaying k = true) : s.recReady k = 4 := by
  rw [State.recReady, if_neg (by omega), if_pos hr]

theorem recReady_ok (h : s.rf (P k) REC_REGION_VALID = 1) (hr : s.replaying k = false) : s.recReady k = 0 := by
  rw [State.recReady, if_neg (by omega), if_neg (ne_true_of_eq_false hr)]

theorem recResult_rd (s : State) (k r : Nat) {a : Arr} (ha : ¬ a.code % 512 = 0) (i : Nat) : (s.recResult k r).rd a i = s.rd a i := by
  rw [State.recResult, State.rd_wf _ _ _ _ _ _ ha, State.rd_wf _ _ _ _ _ _ ha]

theorem recResult_value (s : State) (k : Nat) {r : Nat} (hr : r < 8) : (s.recResult k r).rf (P k) REC_CTRL_RESULT = r := by
  rw [State.recResult, rf_wf_apart _ (P k) _ (by decide), State.rf_wf_same _ _ _ _ (by decide)]
  exact Nat.mod_eq_of_lt hr

theorem recResult_replaying (s : State) (k r : Nat) : (s.recResult k r).replaying k = s.replaying k := by
  rw [State.replaying, State.recResult, State.rf_wf_reg _ _ _ _ _ _ (by simp [REC_CTRL_REFUSED, REC_REPLAY_REPLAY]),
    State.rf_wf_reg _ _ _ _ _ _ (by simp [REC_CTRL_RESULT, REC_REPLAY_REPLAY]), State.replaying]

theorem recResult_slotOfBed (s : State) (k r b : Nat) : (s.recResult k r).slotOfBed b = s.slotOfBed b := by
  rw [State.slotOfBed, State.slotOfWall, recResult_rd _ _ _ (by decide), State.slotOfBed, State.slotOfWall]

theorem recCmd_asks (h : s.maySlot who k = true) (c : Nat) : s.recCmd who k 0 (fun s => s.recAsk k c) =
    (((s.wf (P k) REC_CTRL_RESULT 0).wf (P k) REC_CTRL_REFUSED (if 0 = 0 then 0 else 1)).wr A.recWant k (patch (s.rd A.recWant k) 0 2 c)).ans 0 0 := by
  rw [← recResult_eq, recCmd_done h, State.recAsk, recResult_rd _ _ _ (by decide)]

/-! ### OFF (R260) -/

theorem snaps_ans (s : State) (a b : Nat) : (s.ans a b).snaps = s.snaps := rfl

theorem recHead_ans (s : State) (a b k : Nat) : (s.ans a b).recHead k = s.recHead k := rfl

theorem recTail_ans (s : State) (a b k : Nat) : (s.ans a b).recTail k = s.recTail k := rfl

theorem recLog_ans (s : State) (a b : Nat) : (s.ans a b).recLog = s.recLog := rfl

/-- A raise keeps what no write of an array changes. -/
theorem raise_keeps {β : Type} (obs : State → β) (hw : ∀ (u : State) a i v, obs (u.wr a i v) = obs u) (s : State) (src : Nat) :
    obs (s.raise src) = obs s := by
  have check (u : State) (t : Nat) : obs (u.taskCheck t) = obs u := by
    unfold State.taskCheck State.taskReady
    split
    · simp only [hw]
    · rfl
  have flag (u : State) (o : Option Nat) (v : Nat) : obs (u.routeFlag o v) = obs u := by
    unfold State.routeFlag State.setFlag State.cnt State.wf
    dsimp only
    split
    · rfl
    split
    · rw [check, hw]
    · rw [hw]
  have vec (u : State) (o : Option Nat) (v : Nat) : obs (u.routeVec o v) = obs u := by
    unfold State.routeVec State.cnt State.wf
    dsimp only
    split
    · rfl
    split
    · rw [hw]
    · rw [hw]
  unfold State.raise
  rw [vec, flag, hw]

/-- What `recSettle` keeps of the recorder. -/
theorem recSettle_logs (s : State) (k : Nat) : (s.recSettle k).snaps = s.snaps ∧ (s.recSettle k).recLog = s.recLog := by
  have dropped : (s.dropCause k 3).snaps = s.snaps ∧ (s.dropCause k 3).recLog = s.recLog := by
    unfold State.dropCause
    split
    · have rest := (pullsChanged_beside { s with causes := s.causes.filter (· ≠ (k, 3)) } k).rest
      exact ⟨(congrArg State.snaps rest :), (congrArg State.recLog rest :)⟩
    · exact ⟨rfl, rfl⟩
  unfold State.recSettle State.releaseSvc State.releaseHeld
  split
  · exact ⟨rfl, rfl⟩
  split
  · split
    · exact dropped
    · exact dropped
  · exact dropped

/-- A field of a partition's register that a write of another field leaves alone. -/
theorem part_apart (u : State) (k : Nat) {f g : Fld} (v : Nat)
    (h : f.off ≠ g.off ∨ (f.off = g.off ∧ (g.lo + g.w ≤ f.lo ∨ f.lo + f.w ≤ g.lo) ∧ g.lo + g.w ≤ 32)) : (u.wf (P k) f v).rf (P k) g = u.rf (P k) g :=
  h.elim (fun h => State.rf_wf_reg _ _ _ _ _ _ fun e => h (Nat.add_left_cancel e)) fun h => rf_wf_apart u (P k) v h

/-- The recorder without snapshots in progress and packets that wait. -/
def State.recEmptied (s : State) (k : Nat) : State := State.snapAbandon { s with recLog := s.recLog.filter fun p => ¬ (p.slot = k ∧ p.waiting) } k

theorem recEmptied_snapping (s : State) (k : Nat) : (s.recEmptied k).rf (P k) REC_STATUS_SNAPPING = 0 := by
  have none_ : ((s.snaps.filter fun x => x.slot ≠ k).any fun x => x.slot = k ∧ ¬ x.copied) = false := by
    rw [List.any_eq_false]
    intro x hx he
    exact of_decide_eq_true (List.mem_filter.1 hx).2 (of_decide_eq_true he).1
  rw [State.recEmptied, State.snapAbandon, State.snapFlags, part_apart _ _ _ (by decide), State.rf_wf_same _ _ _ _ (by decide), none_]
  rfl

theorem recTo_part (u : State) (hk : k < 32) (st : Nat) {f : Fld} (hf : f.off < 0x1000)
    (h : REC_CTRL_STATE.off ≠ f.off ∨ (REC_CTRL_STATE.off = f.off ∧ (f.lo + f.w ≤ REC_CTRL_STATE.lo ∨ REC_CTRL_STATE.lo + REC_CTRL_STATE.w ≤ f.lo) ∧ f.lo + f.w ≤ 32)) :
    (u.recTo k st).rf (P k) f = u.rf (P k) f := by
  unfold State.recTo
  split
  · rfl
  · rw [State.rf, (raise_spared _ (by omega)).part _ (by simp only [P, Off.part]; omega) (by simp only [P, Off.part]; omega)]
    exact part_apart u k st h

theorem recTo_off (u : State) (hk : k < 32) : (u.recTo k 0).rf (P k) REC_CTRL_STATE = 0 := by
  unfold State.recTo
  split
  next h => exact h
  next h =>
    rw [State.rf, (raise_spared _ (by omega)).part _ (by simp only [P, Off.part]; omega) (by simp only [P, Off.part, REC_CTRL_STATE]; omega)]
    exact State.rf_wf_same _ _ _ _ (by decide)

theorem recTo_keeps {β : Type} (obs : State → β) (hw : ∀ (u : State) a i v, obs (u.wr a i v) = obs u) (u : State) (k st : Nat) :
    obs (u.recTo k st) = obs u := by
  unfold State.recTo State.wf
  split
  · rfl
  · rw [raise_keeps obs hw, hw]

/-- OFF before what it settles: nothing is asked for, and nothing is full. -/
def State.recStopped (s : State) (k : Nat) : State := (((((s.recEmptied k).recTo k 0).wr A.recWant k 0).wr A.recSnapReq k 0).wf (P k) REC_STATUS_FULL 0)

theorem recOff_eq (s : State) (k : Nat) : s.recOff k = (s.recStopped k).recSettle k := rfl

theorem recOff_leaves (s : State) (hk : k < 32) :
    (s.recOff k).rf (P k) REC_CTRL_STATE = 0 ∧ (s.recOff k).rd A.recWant k = 0 ∧ (s.recOff k).rf (P k) REC_CTRL_RESULT = s.rf (P k) REC_CTRL_RESULT ∧
    (s.recOff k).rf (P k) REC_STATUS_FULL = 0 ∧ (s.recOff k).rf (P k) REC_STATUS_SNAPPING = 0 ∧
    (s.recOff k).snaps = s.snaps.filter (fun x => x.slot ≠ k) ∧ (s.recOff k).recLog = s.recLog.filter (fun p => ¬ (p.slot = k ∧ p.waiting)) ∧
    (s.recOff k).mem = s.mem := by
  have field (f : Fld) : (s.recOff k).rf (P k) f = (s.recStopped k).rf (P k) f := by
    rw [recOff_eq, State.rf, State.reg, (recSettle_settled _ k).only.rd A.reg _ rfl]
    rfl
  have before (f : Fld) (h : REC_STATUS_FULL.off ≠ f.off ∨ (REC_STATUS_FULL.off = f.off ∧ (f.lo + f.w ≤ REC_STATUS_FULL.lo ∨
      REC_STATUS_FULL.lo + REC_STATUS_FULL.w ≤ f.lo) ∧ f.lo + f.w ≤ 32)) : (s.recStopped k).rf (P k) f = ((s.recEmptied k).recTo k 0).rf (P k) f := by
    rw [State.recStopped, part_apart _ _ _ h, rf_wr _ _ _ _ _ (by decide), rf_wr _ _ _ _ _ (by decide)]
  refine ⟨?_, ?_, ?_, ?_, ?_, ?_, ?_, ?_⟩
  · rw [field, before _ (by decide), recTo_off _ hk]
  · rw [recOff_eq, (recSettle_settled _ k).only.rd A.recWant k rfl, State.recStopped, State.rd_wf _ _ _ _ _ _ (by decide),
      State.rd_wr_arr _ _ _ _ _ _ (by decide), State.rd_wr_same, Nat.zero_mod]
  · rw [field, before _ (by decide), recTo_part _ hk _ (by decide) (by decide), State.recEmptied, State.snapAbandon, State.snapFlags,
      part_apart _ _ _ (by decide), part_apart _ _ _ (by decide)]
    rfl
  · rw [field, State.recStopped, State.rf_wf_same _ _ _ _ (by decide), Nat.zero_mod]
  · rw [field, before _ (by decide), recTo_part _ hk _ (by decide) (by decide), recEmptied_snapping]
  · rw [recOff_eq, (recSettle_logs _ k).1]
    exact recTo_keeps State.snaps (fun _ _ _ _ => rfl) (s.recEmptied k) k 0
  · rw [recOff_eq, (recSettle_logs _ k).2]
    exact recTo_keeps State.recLog (fun _ _ _ _ => rfl) (s.recEmptied k) k 0
  · rw [recOff_eq, (recSettle_settled _ k).mem]
    exact recTo_keeps State.mem (fun _ _ _ _ => rfl) (s.recEmptied k) k 0

/-! ### RESTORE (R265) -/

/-- A restore that is accepted. -/
def State.restoreTaken (u : State) (k : Nat) (b : Option RecPkt) : State :=
  match b with
  | some b => u.doRestore k (u.srcSlot k) b
  | none => u

/-- The offset of REC_POS. -/
def State.recPosAt (s : State) (k : Nat) : Nat := s.reg (P k + oREC_POS_LO) + 2 ^ 32 * slice (s.reg (P k + oREC_POS_HI)) 0 4

theorem restoreCheck_busy (h : s.rd A.pState k ≠ 1) : s.restoreCheck k = (4, none) := if_pos h

theorem restoreCheck_none (h : s.rd A.pState k = 1) (hn : s.completeSnap (s.srcSlot k) (s.recPosAt k) = none) : s.restoreCheck k = (3, none) := by
  rw [State.recPosAt] at hn
  rw [State.restoreCheck, if_neg (not_not.2 h), hn]

theorem restoreCheck_bad (h : s.rd A.pState k = 1) {b : RecPkt} (hb : s.completeSnap (s.srcSlot k) (s.recPosAt k) = some b)
    (hg : s.geometryBad k (s.srcSlot k) b = true) : s.restoreCheck k = (2, none) := by
  rw [State.recPosAt] at hb
  rw [State.restoreCheck, if_neg (not_not.2 h), hb]
  exact if_pos hg

theorem restoreCheck_ok (h : s.rd A.pState k = 1) {b : RecPkt} (hb : s.completeSnap (s.srcSlot k) (s.recPosAt k) = some b)
    (hg : s.geometryBad k (s.srcSlot k) b = false) : s.restoreCheck k = (0, some b) := by
  rw [State.recPosAt] at hb
  rw [State.restoreCheck, if_neg (not_not.2 h), hb]
  exact if_neg (ne_true_of_eq_false hg)

/-! ### The region (R250, R262) -/

theorem regionWrite_denied (h : s.maySlot who k = false) (v : Nat) : s.regionWrite who k v = s.ans 1 0 := if_pos (ne_true_of_eq_false h)

section region
variable (h : s.maySlot who k = true)
include h

theorem regionWrite_foreign (hp : s.pfRights who = false) (v : Nat) : s.regionWrite who k v = (s.recResult k 5).ans 0 0 :=
  (if_neg (not_not.2 h)).trans (if_pos (ne_true_of_eq_false hp))

theorem regionWrite_busy (hp : s.pfRights who = true) (hb : s.rf (P k) REC_CTRL_STATE ≠ 0 ∨ s.rd A.pState k ≠ 1) (v : Nat) :
    s.regionWrite who k v = (s.recResult k 4).ans 0 0 :=
  (if_neg (not_not.2 h)).trans ((if_neg (not_not.2 hp)).trans (if_pos hb))

end region

/-- REC_REGION as a write leaves it. -/
def State.regionSet (s : State) (k v : Nat) (ok : Bool) : State :=
  (((s.wf (P k) REC_REGION_BASE (slice v 0 9)).wf (P k) REC_REGION_SIZE (slice v 16 6)).wf (P k) REC_REGION_VALID (bit ok))

/-- An empty recording at the start of the region. -/
def State.recFresh (s : State) (k : Nat) : State :=
  let t := ((State.setRecHead { s with recLog := s.recLog.filter fun p => p.slot ≠ k } k 0).setRecTail k 0).wr A.recPktSeq k 0
  t.wr A.reg (P k + oREC_SNAP_HI) (slice (t.reg (P k + oREC_SNAP_HI)) 0 31)

section valid
variable {v : Nat} (h : s.maySlot who k = true) (hp : s.pfRights who = true) (hs : s.rf (P k) REC_CTRL_STATE = 0) (hi : s.rd A.pState k = 1) (hv : v.testBit 31 = true)
include h hp hs hi hv

theorem regionWrite_owned (ho : s.ownsRegion (s.rd A.pPid k) (slice v 0 9) (slice v 16 6 + 1) = true) :
    s.regionWrite who k v = (((s.recResult k 0).regionSet k v true).recFresh k).ans 0 0 := by
  have bit31 : slice v 31 1 = 1 := of_decide_eq_true ((testBit_slice ..).symm.trans hv)
  rw [State.regionWrite, if_neg (not_not.2 h), if_neg (not_not.2 hp), if_neg (by rw [State.recState, hs, hi]; decide)]
  simp only [bit31, ho, and_self, not_true, and_false, if_false, if_true]
  rfl

theorem regionWrite_invalid (ho : s.ownsRegion (s.rd A.pPid k) (slice v 0 9) (slice v 16 6 + 1) = false) :
    s.regionWrite who k v = ((s.recResult k 1).regionSet k v false).ans 0 0 := by
  have bit31 : slice v 31 1 = 1 := of_decide_eq_true ((testBit_slice ..).symm.trans hv)
  rw [State.regionWrite, if_neg (not_not.2 h), if_neg (not_not.2 hp), if_neg (by rw [State.recState, hs, hi]; decide)]
  simp only [bit31, ho, Bool.false_eq_true, and_false, not_false_eq_true, and_self, if_false, if_true]
  rfl

end valid

theorem regionSet_reads (u : State) (k v : Nat) (ok : Bool) : (u.regionSet k v ok).rf (P k) REC_REGION_BASE = slice v 0 9 ∧
    (u.regionSet k v ok).rf (P k) REC_REGION_SIZE = slice v 16 6 ∧ (u.regionSet k v ok).rf (P k) REC_REGION_VALID = bit ok := by
  refine ⟨?_, ?_, ?_⟩
  · rw [State.regionSet, part_apart _ _ _ (by decide), part_apart _ _ _ (by decide), State.rf_wf_same _ _ _ _ (by decide)]
    exact Nat.mod_eq_of_lt (slice_lt ..)
  · rw [State.regionSet, part_apart _ _ _ (by decide), State.rf_wf_same _ _ _ _ (by decide)]
    exact Nat.mod_eq_of_lt (slice_lt ..)
  · rw [State.regionSet, State.rf_wf_same _ _ _ _ (by decide)]
    cases ok <;> rfl

theorem regionSet_result (u : State) (k v : Nat) (ok : Bool) : (u.regionSet k v ok).rf (P k) REC_CTRL_RESULT = u.rf (P k) REC_CTRL_RESULT := by
  rw [State.regionSet, part_apart _ _ _ (by decide), part_apart _ _ _ (by decide), part_apart _ _ _ (by decide)]

theorem recFresh_region (u : State) (k : Nat) {f : Fld} (hf : f.off = oREC_REGION) : (u.recFresh k).rf (P k) f = u.rf (P k) f := by
  have apart (x : Nat) (hx : x ≠ oREC_REGION) : P k + f.off ≠ P k + x := fun e => hx ((Nat.add_left_cancel e).symm.trans hf)
  rw [State.recFresh, State.rf, State.reg, State.rd_wr_ix _ _ _ _ _ (apart _ (by decide)).symm, State.rd_wr_arr _ _ _ _ _ _ (by decide)]
  exact congrArg (slice · f.lo f.w) ((reg_setPair_ne _ _ (apart oREC_TAIL_LO (by decide)) (apart oREC_TAIL_HI (by decide))).trans
    (reg_setPair_ne _ _ (apart oREC_HEAD_LO (by decide)) (apart oREC_HEAD_HI (by decide))))

theorem setPair_zero (u : State) (o : Nat) : (u.setPair o (0 % 2 ^ 36)).reg o = 0 ∧ (u.setPair o (0 % 2 ^ 36)).reg (o + 4) = 0 := by
  constructor
  · exact (State.rd_wr_ix _ _ _ _ _ (by omega)).trans (State.rd_wr_same ..)
  · exact State.rd_wr_same ..

theorem recFresh_offsets (u : State) (k : Nat) : (u.recFresh k).recHead k = 0 ∧ (u.recFresh k).recTail k = 0 ∧ (u.recFresh k).rd A.recPktSeq k = 0 := by
  have snap (x : Nat) (hx : x ≠ oREC_SNAP_HI) : (u.recFresh k).reg (P k + x) =
      ((State.setRecHead { u with recLog := u.recLog.filter fun p => p.slot ≠ k } k 0).setRecTail k 0).reg (P k + x) := by
    rw [State.recFresh, State.reg, State.rd_wr_ix _ _ _ _ _ (fun e => hx (Nat.add_left_cancel e).symm), State.rd_wr_arr _ _ _ _ _ _ (by decide), State.reg]
  have tail := setPair_zero (State.setRecHead { u with recLog := u.recLog.filter fun p => p.slot ≠ k } k 0) (P k + oREC_TAIL_LO)
  have head := setPair_zero { u with recLog := u.recLog.filter fun p => p.slot ≠ k } (P k + oREC_HEAD_LO)
  refine ⟨?_, ?_, ?_⟩
  · have lo := (reg_setPair_ne (State.setRecHead { u with recLog := u.recLog.filter fun p => p.slot ≠ k } k 0) (o := P k + oREC_TAIL_LO) (i := P k + oREC_HEAD_LO)
      (0 % 2 ^ 36) (by simp [oREC_HEAD_LO, oREC_TAIL_LO]) (by simp only [oREC_HEAD_LO, oREC_TAIL_LO]; omega)).trans head.1
    have hi := (reg_setPair_ne (State.setRecHead { u with recLog := u.recLog.filter fun p => p.slot ≠ k } k 0) (o := P k + oREC_TAIL_LO) (i := P k + oREC_HEAD_HI)
      (0 % 2 ^ 36) (by simp [oREC_HEAD_HI, oREC_TAIL_LO]) (by simp only [oREC_HEAD_HI, oREC_TAIL_LO]; omega)).trans head.2
    rw [State.recHead, snap _ (by decide), snap _ (by decide), State.setRecTail, lo, hi]
    rfl
  · rw [State.recTail, snap _ (by decide), snap _ (by decide)]
    exact (congrArg₂ (fun x y => x + 2 ^ 32 * slice y 0 4) tail.1 tail.2).trans rfl
  · rw [State.recFresh, State.rd_wr_arr _ _ _ _ _ _ (by decide), State.rd_wr_same, Nat.zero_mod]

theorem recLog_wr (s : State) (a : Arr) (i v : Nat) : (s.wr a i v).recLog = s.recLog := rfl

theorem mem_wr (s : State) (a : Arr) (i v : Nat) : (s.wr a i v).mem = s.mem := rfl

theorem recResult_logs (s : State) (k r : Nat) : (s.recResult k r).recLog = s.recLog ∧ (s.recResult k r).mem = s.mem := by
  simp only [State.recResult, State.wf, recLog_wr, mem_wr, and_self]

theorem regionSet_logs (s : State) (k v : Nat) (ok : Bool) : (s.regionSet k v ok).recLog = s.recLog ∧ (s.regionSet k v ok).mem = s.mem := by
  simp only [State.regionSet, State.wf, recLog_wr, mem_wr, and_self]

theorem recFresh_keeps {β : Type} (obs : State → β) (hw : ∀ (u : State) a i v, obs (u.wr a i v) = obs u) (s : State) (k : Nat) :
    obs (s.recFresh k) = obs { s with recLog := s.recLog.filter fun p => p.slot ≠ k } := by
  simp only [State.recFresh, State.setRecHead, State.setRecTail, State.setPair, hw]

theorem recFresh_logs (s : State) (k : Nat) : (s.recFresh k).recLog = s.recLog.filter (fun p => p.slot ≠ k) ∧ (s.recFresh k).mem = s.mem :=
  ⟨recFresh_keeps State.recLog (fun _ _ _ _ => rfl) s k, recFresh_keeps State.mem (fun _ _ _ _ => rfl) s k⟩

/-! ### REC_TAIL (R262) -/

theorem tailWrite_denied (h : s.maySlot who k = false) (v : Nat) : s.tailWrite who k v = s.ans 1 0 := if_pos (ne_true_of_eq_false h)

/-- The lower half of REC_TAIL that its write takes. -/
def State.tailLo (s : State) (k : Nat) : Nat :=
  if (s.rd A.heldLo (P k + oREC_TAIL_LO)).testBit 32 then s.rd A.heldLo (P k + oREC_TAIL_LO) % 2 ^ 32 else s.reg (P k + oREC_TAIL_LO)

/-- The lower half that was held is taken. -/
def State.tailTaken (s : State) (k : Nat) : State := s.wr A.heldLo (P k + oREC_TAIL_LO) 0

/-- `off` is a place to which REC_TAIL may go. -/
def State.tailKnown (s : State) (k off : Nat) : Prop := (∃ p ∈ s.recLog, p.slot = k ∧ p.waiting = false ∧ p.off = off) ∨ off = s.recHead k

theorem tailKnown_iff (off : Nat) : ((s.kept k).any (fun p => decide (p.off = off)) = true ∨ off = s.recHead k) ↔ s.tailKnown k off := by
  simp [State.tailKnown, State.kept, and_assoc]

theorem tailTaken_recHead (s : State) (k : Nat) : (s.tailTaken k).recHead k = s.recHead k := by
  rw [State.recHead, State.tailTaken, State.reg_wr _ _ _ _ _ (by decide), State.reg_wr _ _ _ _ _ (by decide), State.recHead]

theorem tailTaken_recTail (s : State) (k : Nat) : (s.tailTaken k).recTail k = s.recTail k := by
  rw [State.recTail, State.tailTaken, State.reg_wr _ _ _ _ _ (by decide), State.reg_wr _ _ _ _ _ (by decide), State.recTail]

theorem tailTaken_mode (s : State) (k : Nat) : (s.tailTaken k).rf (P k) REC_CFG_MODE = s.rf (P k) REC_CFG_MODE := rf_wr _ _ _ _ _ (by decide)

/-- REC_TAIL goes to `off`. -/
def State.tailTo (s : State) (k off : Nat) : State :=
  (((s.tailTaken k).freeRegion k (if off = s.recTail k then 0 else bytesBefore off (s.kept k))).recPump k (s.recLog.length + 1)).recSettle k

theorem tailWrite_eq (h : s.maySlot who k = true) (v : Nat) : s.tailWrite who k v =
    if s.rf (P k) REC_CFG_MODE = 1 ∨ ¬ ((s.kept k).any (fun p => decide (p.off = s.tailLo k + 2 ^ 32 * slice v 0 4)) = true ∨
      s.tailLo k + 2 ^ 32 * slice v 0 4 = s.recHead k) then (s.tailTaken k).ans 0 0
    else ((s.tailTo k (s.tailLo k + 2 ^ 32 * slice v 0 4)).each 32 State.feedOverrun).ans 0 0 := by
  rw [State.tailTo, ← tailTaken_recTail, ← tailTaken_recHead, ← tailTaken_mode]
  unfold State.tailWrite
  rw [if_neg (not_not.2 h), takeLo_eq]
  rfl

end commands

/-- Settles O31: each command of REC_CTRL and each write of the region by its refusals; a restore, OFF and a new region by
what they leave. -/
theorem recorderCommands : Obligations.RecorderCommands := by
  refine ⟨fun s who k h => ?_, fun s who k val h => ?_⟩
  · have arm : exec (.recArm who k) s = .next (s.recCmd who k (s.recReady k) fun s => s.recAsk k 1) := access_next h _ fun s => s.recCmd who k (s.recReady k) fun s => s.recAsk k 1
    have start : exec (.recStart who k) s = .next (s.recCmd who k (s.recReady k) fun s => s.recAsk k 2) := access_next h _ fun s => s.recCmd who k (s.recReady k) fun s => s.recAsk k 2
    have stop : exec (.recStop who k) s = .next (s.recCmd who k 0 fun s => s.recAsk k 3) := access_next h _ fun s => s.recCmd who k 0 fun s => s.recAsk k 3
    have off : exec (.recOff who k) s = .next (s.recCmd who k 0 fun s => s.recOff k) := access_next h _ fun s => s.recCmd who k 0 fun s => s.recOff k
    have snap : exec (.recSnap who k) s = .next (s.recCmd who k (if 2 ≤ s.recState k then 0 else 4) fun s => s.wr A.recSnapReq k 4) :=
      access_next h _ fun s => s.recCmd who k (if 2 ≤ s.recState k then 0 else 4) fun s => s.wr A.recSnapReq k 4
    have restore : exec (.restore who k) s = .next (s.recCmd who k (s.restoreCheck k).1 fun u => u.restoreTaken k (s.restoreCheck k).2) := access_next h _ fun s =>
      s.recCmd who k (s.restoreCheck k).1 fun u => u.restoreTaken k (s.restoreCheck k).2
    refine ⟨fun no c hc => ?_, fun may => ⟨fun invalid => ?_, fun valid busy => ?_, fun valid free => ?_, ?_, fun on => ?_, fun off_ => ?_, ?_, fun st => ?_, fun idle => ⟨fun none_ => ?_, fun b hb => ⟨fun bad => ?_, fun good => ?_⟩⟩⟩⟩
    · have denied (r : Nat) (f : State → State) : (.next (s.recCmd who k r f) : Res) = .next (s.ans 1 0) := congrArg _ (recCmd_denied no r f)
      simp only [List.mem_cons, List.not_mem_nil, or_false] at hc
      rcases hc with rfl | rfl | rfl | rfl | rfl | rfl
      · exact arm.trans (denied ..)
      · exact start.trans (denied ..)
      · exact stop.trans (denied ..)
      · exact off.trans (denied ..)
      · exact snap.trans (denied ..)
      · exact restore.trans (denied ..)
    · rw [arm, start, recReady_region invalid]
      exact ⟨congrArg _ (recCmd_refused may (by decide) _), congrArg _ (recCmd_refused may (by decide) _)⟩
    · rw [arm, start, recReady_replaying valid busy]
      exact ⟨congrArg _ (recCmd_refused may (by decide) _), congrArg _ (recCmd_refused may (by decide) _)⟩
    · rw [arm, start, recReady_ok valid free]
      exact ⟨congrArg _ (recCmd_asks may _), congrArg _ (recCmd_asks may _)⟩
    · exact stop.trans (congrArg _ (recCmd_asks may _))
    · rw [snap, State.recState, if_pos on]
      exact congrArg _ (recCmd_done may _)
    · rw [snap, State.recState, if_neg (Nat.not_le.2 off_)]
      exact congrArg _ (recCmd_refused may (by decide) _)
    · refine ⟨_, off.trans (congrArg _ (recCmd_done may _)), ?_⟩
      have leaves := recOff_leaves (s.recResult k 0) k.2
      simp only [State.rf_ans, State.rd_ans, mem_ans, snaps_ans, recLog_ans]
      rw [recResult_value _ _ (by decide)] at leaves
      exact ⟨leaves.1, leaves.2.1, leaves.2.2.1, leaves.2.2.2.1, leaves.2.2.2.2.1, leaves.2.2.2.2.2.1, leaves.2.2.2.2.2.2.1, leaves.2.2.2.2.2.2.2, rfl⟩
    · rw [restore, restoreCheck_busy st]
      exact congrArg _ (recCmd_refused may (by decide) _)
    · rw [restore, restoreCheck_none idle none_]
      exact congrArg _ (recCmd_refused may (by decide) _)
    · rw [restore, restoreCheck_bad idle hb bad]
      exact congrArg _ (recCmd_refused may (by decide) _)
    · have taken : exec (.restore who k) s = .next (((s.recResult k 0).doRestore k ((s.recResult k 0).srcSlot k) b).ans 0 0) := by
        rw [restore, restoreCheck_ok idle hb good]
        exact congrArg _ (recCmd_done may _)
      obtain ⟨cycle, ix, len, state, flags⟩ := doRestore_leaves (s.recResult k 0) k ((s.recResult k 0).srcSlot k) b
      obtain ⟨replaying, result⟩ := doRestore_regs (s.recResult k 0) k k.2 ((s.recResult k 0).srcSlot k) b
      refine ⟨_, taken, ?_⟩
      simp only [State.rf_ans, State.rd_ans]
      exact ⟨cycle, ix, len, state.trans ((recResult_rd _ _ _ (by decide) _).trans idle), result.trans (recResult_value _ _ (by decide)),
        fun i hi => flags i ((recResult_slotOfBed _ _ _ _).trans hi), replaying.trans (by rw [recResult_replaying]), rfl⟩
  · have region : exec (.recRegionWrite who k val) s = .next (s.regionWrite who k val.toNat) := access_next h _ fun s => s.regionWrite who k val.toNat
    have tail : exec (.recTailWrite who k val) s = .next (s.tailWrite who k val.toNat) := access_next h _ fun s => s.tailWrite who k val.toNat
    rw [region, tail]
    refine ⟨fun no => ⟨congrArg _ (regionWrite_denied no _), congrArg _ (tailWrite_denied no _)⟩, fun may => ⟨fun hp => congrArg _ (regionWrite_foreign may hp _),
      fun hp hb => congrArg _ (regionWrite_busy may hp hb _), fun hp hs hi hv => ⟨fun owned => ?_, fun foreign => ?_⟩, fun stays => ?_, fun mode known => ?_⟩⟩
    · obtain ⟨base, size, valid⟩ := regionSet_reads (s.recResult k 0) k val.toNat true
      obtain ⟨head, tail_, seq⟩ := recFresh_offsets ((s.recResult k 0).regionSet k val.toNat true) k
      have keep {f : Fld} (hf : f.off = oREC_REGION) := recFresh_region ((s.recResult k 0).regionSet k val.toNat true) k hf
      refine ⟨_, congrArg _ (regionWrite_owned may hp hs hi hv owned), ?_⟩
      simp only [State.rf_ans, State.rd_ans, mem_ans, recLog_ans, recHead_ans, recTail_ans]
      exact ⟨(keep (f := REC_REGION_BASE) rfl).trans base, (keep (f := REC_REGION_SIZE) rfl).trans size, (keep (f := REC_REGION_VALID) rfl).trans valid,
        head, tail_, seq, (recFresh_logs _ _).1.trans (by rw [(regionSet_logs ..).1, (recResult_logs ..).1]),
        (recFresh_logs _ _).2.trans ((regionSet_logs ..).2.trans (recResult_logs ..).2)⟩
    · refine ⟨_, congrArg _ (regionWrite_invalid may hp hs hi hv foreign), ?_⟩
      simp only [State.rf_ans, recLog_ans]
      exact ⟨(regionSet_reads _ _ _ _).2.2, (regionSet_result _ _ _ _).trans (recResult_value _ _ (by decide)), (regionSet_logs ..).1.trans (recResult_logs ..).1⟩
    · rw [tailWrite_eq may]
      refine congrArg _ (if_pos (stays.imp_right fun unknown known => unknown ((tailKnown_iff _).1 known)))
    · rw [tailWrite_eq may]
      exact congrArg _ (if_neg fun bad => bad.elim mode fun unknown => unknown ((tailKnown_iff _).2 known))

end Sys2Proof.Machine

/-! CERTIFICATE. Packets of a recording (chapter 11, R252, R272). -/

namespace Sys2Proof.Machine

open Reg

/-- The DUMP packet of a row of die 1, alone in the region of slot 0. -/
def dumpedRow : RecPkt := ⟨0, 0, 0xE, 1, 0, 5, 3, 0, [], 16, true, false⟩

/-- A recording that holds this packet. -/
def recordingWithDump : State := { (State.reset.wf (P 0) REC_HEAD_LO_OFFSET 16).wr A.recPktSeq 0 1 with recLog := [dumpedRow] }

/-- Refutes O32: a DUMP packet of die 0 takes its place before one of die 1 at the same position (R252); the statement asks
for the order of dies of inputs alone, so that it puts the new packet last. -/
theorem not_recordingAndReplay : ¬ Obligations.RecordingAndReplay := by
  unfold Obligations.RecordingAndReplay
  intro h
  have kept : (recordingWithDump.kept 0).getLast? = some dumpedRow := by decide +kernel
  have placed := h.1 recordingWithDump 0 0 0xE 5 3 0 [] (by decide +kernel) (by decide +kernel) (by decide +kernel) (by decide +kernel) (by decide) fun p hp => by
    obtain rfl := Option.some.inj (kept.symm.trans hp)
    exact ⟨by decide, fun input => absurd input (by decide)⟩
  have last := (placed.1 (by decide +kernel) (by decide +kernel)).1
  have first : (recordingWithDump.recPacket 0 0 0xE 5 3 0 []).recLog.head? ≠ some dumpedRow := by decide +kernel
  exact first (by rw [last]; rfl)

end Sys2Proof.Machine

/-! CERTIFICATE. The search for addresses (chapter 13, R323 to R328). -/

namespace Sys2Proof.Machine

open Reg

/-- A keystone in its search of epoch 0, to which a second keystone has sent SEARCH with epoch 5 (R326): CHAIN_STATUS shows the
epoch of the SEARCH, and A.kEpoch keeps that of the keystone's own search. -/
def keystoneOfOtherEpoch : State :=
  (((State.reset.wf 0 CHAIN_STATUS_KEYSTONE 1).wf 0 ENUM_STATUS_KSTATE 1).wf 0 CHAIN_STATUS_EPOCH 5).wr A.kEpoch 0 1

/-- Refutes O38: a keystone compares the epoch of COUNT with that of its own search, and not with CHAIN_STATUS.EPOCH. -/
theorem not_addressSearch : ¬ Obligations.AddressSearch := by
  unfold Obligations.AddressSearch
  intro h
  obtain ⟨-, -, search⟩ := h keystoneOfOtherEpoch .boot 5 0 0 0 true
  obtain ⟨-, own, -⟩ := search (by decide +kernel)
  obtain ⟨overflow, -⟩ := own (by decide +kernel) (by decide +kernel) (by decide +kernel)
  have ignored : (match exec (.count 5 0 true) keystoneOfOtherEpoch with | .next t => t.rf 0 ENUM_STATUS_RESULT | _ => 3) = 0 := by
    decide +kernel
  rw [overflow] at ignored
  exact absurd ignored (by decide +kernel)

end Sys2Proof.Machine

/-! CERTIFICATE. The tree and the plumb bus (chapter 13, R329, R330). -/

namespace Sys2Proof.Machine

open Reg

/-- A keystone in its bus phase, of epoch 0, that has seen a SEARCH of epoch 5 (R326). -/
def busPhaseOfOtherEpoch : State :=
  (((State.reset.wf 0 CHAIN_STATUS_KEYSTONE 1).wf 0 ENUM_STATUS_KSTATE 4).wf 0 CHAIN_STATUS_EPOCH 5).wr A.kEpoch 0 1

/-- Refutes O39: a keystone compares the epoch of BUS_TOKEN with that of its own search, and not with CHAIN_STATUS.EPOCH. -/
theorem not_treeAndBus : ¬ Obligations.TreeAndBus := by
  unfold Obligations.TreeAndBus
  intro h
  obtain ⟨-, -, -, -, -, -, -, -, -, -, back, -⟩ := h busPhaseOfOtherEpoch 1 0 0 0 5 0 0 0 (by decide +kernel)
  have done := back (by decide +kernel) (by decide +kernel) rfl (by decide +kernel)
  have ignored : (match exec (.busToken 1 5 0) busPhaseOfOtherEpoch with
      | .next t => t.rf 0 ENUM_STATUS_KSTATE | _ => 5) = 4 := by decide +kernel
  rw [done] at ignored
  exact absurd ignored (by decide +kernel)

end Sys2Proof.Machine

/-! CERTIFICATE. Wakes (chapter 18, R431 to R434). -/

namespace Sys2Proof.Machine

open Reg

/-- A parked device that holds a request, with PWR_CTRL.BUSY set and PWR_STATUS.PHASE past DRAIN, and an enabled timer that
is due. -/
def parkedInEntry : State :=
  { (((State.reset.wr A.pwMode 0 1).wf 0 PWR_CTRL_BUSY 1).wf 0 PWR_STATUS_PHASE 2).wf 0 WAKE_CFG_TIMER_EN 1 with
    held := [⟨.boot, .boot, 39, .cancel .boot, true, 0, 0, false⟩] }

/-- Refutes O54: a wake from PARK releases what is held unless PWR_CTRL.BUSY and PWR_STATUS.PHASE show an entry past DRAIN, which
the statement does not exclude where it says that nothing is held any more. -/
theorem not_wakes : ¬ Obligations.Wakes := by
  unfold Obligations.Wakes
  intro h
  obtain ⟨-, -, -, -, ⟨-, timer, -⟩, -⟩ := h parkedInEntry 0 0 (by decide +kernel) ⟨by decide +kernel, by decide +kernel⟩
  obtain ⟨t, ht, -, -, -, -, -, released, -⟩ := timer ⟨by decide +kernel, by decide +kernel⟩ (by decide +kernel)
  have kept : (match exec .wakeTimer parkedInEntry with | .next t => t.held.length | _ => 0) = 1 := by decide +kernel
  rw [ht] at kept
  have none : t.held.length = 0 := congrArg List.length released
  exact absurd (none.symm.trans kept) (by decide)

end Sys2Proof.Machine

/-! CERTIFICATE. The general pins (chapter 19, R448). -/

namespace Sys2Proof.Machine

open Reg

/-- A device that serves the boot controller, while a write of GP_TGT0 of the physical function waits; GP_BANK of die 0 shows
RESULT 3 of an earlier write. -/
def pinWriteWaits : State :=
  { State.reset.wf (D 0) GP_BANK_RESULT 3 with
    held := [⟨.pf, .pf, requestNi (.gpTgtWrite .pf 0 false 0), .gpTgtWrite .pf 0 false 0, false, 0, 0, false⟩] }

/-- Refutes O55: what the statement says of a GP_TGT write of the physical function it says of a device that serves any initiator;
where a request of the physical function waits, the write waits behind it. -/
theorem not_generalPins : ¬ Obligations.GeneralPins := by
  unfold Obligations.GeneralPins
  intro h
  obtain ⟨writes, -⟩ := h pinWriteWaits .boot 0 0 false 0 false false false
  obtain ⟨-, -, -, -, -, -, taken⟩ := writes
    { clocked := by decide +kernel, outside := by decide +kernel, routed := routed_unset (by decide +kernel) (by decide +kernel), awake := trivial,
      accepted := by decide +kernel, first := by decide +kernel, done := by decide +kernel }
  obtain ⟨t, ht, -, ok, -⟩ := taken (by decide +kernel) (by decide +kernel) (by decide +kernel)
  have waits : (match exec (.gpTgtWrite .pf 0 false 0) pinWriteWaits with | .next t => t.rf (D 0) GP_BANK_RESULT | _ => 0) = 3 := by
    decide +kernel
  rw [ht] at waits
  exact absurd (ok.symm.trans waits) (by decide)

end Sys2Proof.Machine

/-! SUPPORT and CERTIFICATE. Symbols that a device sends, and timed launches (chapters 13 and 15, R373 to R378). -/

namespace Sys2Proof.Machine

open Reg

/-! ### Symbols that ports send (R308) -/

theorem sendSym_up {s : State} {p : Nat} (h : s.portUp p = true) (y : Sym) :
    s.sendSym p y = { s with symOut := s.symOut ++ [⟨p, none, y⟩] } := if_pos h

/-- The symbols that ports which are up send go out in the order of the ports. -/
theorem sendSyms_up (y : Nat → Sym) (l : List Nat) (s : State) (h : ∀ p ∈ l, s.portUp p = true) :
    l.foldl (fun s p => s.sendSym p (y p)) s = { s with symOut := s.symOut ++ l.map fun p => ⟨p, none, y p⟩ } := by
  induction l generalizing s with
  | nil => rw [List.foldl_nil, List.map_nil, List.append_nil]
  | cons p r ih =>
    rw [List.foldl_cons, sendSym_up (h p (.head _)), ih { s with symOut := s.symOut ++ [⟨p, none, y p⟩] } fun q hq => h q (.tail _ hq),
      List.append_assoc, List.singleton_append, List.map_cons]

/-! ### Arming -/

section arming
variable {s : State} {who : Who} {i c v : Nat}

/-- An ARM or a DISARM of an initiator that may write no TL_CFG. -/
theorem tlCfg_denied (h : s.lnFields who v = none) : s.tlCfg who v = s.ans 1 0 := by
  simp only [State.tlCfg, h]
  rfl

theorem tlCfg_foreign (hf : s.lnFields who v = some c) (hm : s.lnMine who s.lnSlot = false) (hc : slice v 28 2 = 1) :
    s.tlCfg who v = (s.wr A.lnResult s.lnSlot 7).ans 1 0 := by
  simp only [State.tlCfg, hf, hm, hc]
  rfl

theorem tlCfg_arm (hf : s.lnFields who v = some c) (hm : s.lnMine who s.lnSlot = true) (hc : slice v 28 2 = 1) :
    s.tlCfg who v = (if s.armLaunch s.lnSlot c = 0 then (((s.wr A.lnCfg s.lnSlot c).wr A.lnState s.lnSlot 1).wr A.lnGo s.lnSlot 0).wr
      A.lnResult s.lnSlot 0 else s.wr A.lnResult s.lnSlot (s.armLaunch s.lnSlot c)).ans 0 0 := by
  simp only [State.tlCfg, hf, hm, hc]
  rfl

theorem tlCfg_disarm (hf : s.lnFields who v = some c) (hm : s.lnMine who s.lnSlot = true) (hc : slice v 28 2 = 2) :
    s.tlCfg who v = ((if s.rd A.lnState s.lnSlot ≠ 0 then s.lnEnd s.lnSlot 6 else s).wr A.lnCfg s.lnSlot c).ans 0 0 := by
  simp only [State.tlCfg, hf, hm, hc]
  rfl

/-- Another slot that has not completed holds a launch of the same partition with the same TAG. -/
def State.lnTwin (s : State) (i c : Nat) : Prop := ∃ j < 16, j ≠ i ∧ s.rd A.lnState j ≠ 0 ∧ slice (s.rd A.lnCfg j) 3 1 = 0 ∧
  slice (s.rd A.lnCfg j) 4 8 = slice c 4 8 ∧ slice (s.rd A.lnCfg j) 12 4 = slice c 12 4

theorem lnNoPid_iff : lnNoPid c = true ↔ slice c 3 1 = 1 := decide_eq_true_iff

theorem lnNoPid_not : ¬ lnNoPid c = true ↔ slice c 3 1 = 0 := by
  have := slice_lt c 3 1
  rw [lnNoPid_iff]
  omega

theorem lnTwin_iff : ((List.range 16).any fun j => decide (j ≠ i ∧ s.rd A.lnState j ≠ 0 ∧ ¬ lnNoPid c = true ∧
    ¬ lnNoPid (s.rd A.lnCfg j) = true ∧ lnPid (s.rd A.lnCfg j) = lnPid c ∧ lnTag (s.rd A.lnCfg j) = lnTag c)) = true ↔
    slice c 3 1 = 0 ∧ s.lnTwin i c := by
  simp only [List.any_eq_true, List.mem_range, decide_eq_true_eq, lnNoPid_not]
  exact ⟨fun ⟨j, hj, hne, hs, hc, hp, hrest⟩ => ⟨hc, j, hj, hne, hs, hp, hrest⟩,
    fun ⟨hc, j, hj, hne, hs, hp, hrest⟩ => ⟨j, hj, hne, hs, hc, hp, hrest⟩⟩

theorem armLaunch_busy (h : s.rd A.lnState i ≠ 0 ∨ slice c 3 1 = 0 ∧ s.lnTwin i c) : s.armLaunch i c = 2 :=
  if_pos (h.imp_right lnTwin_iff.2)

/-- An ARM of a free slot without a twin is judged by its fields, its time and the synchronisation (R373). -/
theorem armLaunch_free (hs : s.rd A.lnState i = 0) (ht : slice c 3 1 = 1 ∨ ¬ s.lnTwin i c) : s.armLaunch i c =
    if 5 ≤ lnAction c ∨ (lnNoPid c = true ∧ lnAction c ≠ 4) ∨ (¬ lnNoPid c = true ∧ (s.slotOfPid (lnPid c)).isNone = true) then 3
    else if s.rd A.lnTime i < s.timeNs then 4 else if s.rf 0 TIME_STATUS_UNSYNCED = 1 then 5 else 0 :=
  if_neg fun h => h.elim (fun h => h hs) fun h => by
    obtain ⟨hc, twin⟩ := lnTwin_iff.1 h
    exact ht.elim (fun h1 => absurd (hc.symm.trans h1) (by decide)) fun h => h twin

theorem armLaunch_field (hs : s.rd A.lnState i = 0) (ht : slice c 3 1 = 1 ∨ ¬ s.lnTwin i c)
    (h : 5 ≤ slice c 0 3 ∨ slice c 3 1 = 1 ∧ slice c 0 3 ≠ 4 ∨ slice c 3 1 = 0 ∧ s.slotOfPid (slice c 4 8) = none) :
    s.armLaunch i c = 3 :=
  (armLaunch_free hs ht).trans (if_pos (h.imp_right fun h => h.imp (fun ⟨h1, h2⟩ => ⟨lnNoPid_iff.2 h1, h2⟩)
    fun ⟨h1, h2⟩ => ⟨lnNoPid_not.2 h1, Option.isNone_iff_eq_none.2 h2⟩))

theorem armLaunch_valid (hs : s.rd A.lnState i = 0) (ht : slice c 3 1 = 1 ∨ ¬ s.lnTwin i c) (ha : slice c 0 3 ≤ 4)
    (h : slice c 3 1 = 1 ∧ slice c 0 3 = 4 ∨ slice c 3 1 = 0 ∧ s.slotOfPid (slice c 4 8) ≠ none) :
    s.armLaunch i c = if s.rd A.lnTime i < s.timeNs then 4 else if s.rf 0 TIME_STATUS_UNSYNCED = 1 then 5 else 0 := by
  refine (armLaunch_free hs ht).trans (if_neg ?_)
  rw [lnNoPid_not, lnNoPid_iff, Option.isNone_iff_eq_none]
  rintro (h5 | ⟨h1, h4⟩ | ⟨h0, hn⟩)
  · exact absurd (show 5 ≤ slice c 0 3 from h5) (by omega)
  · exact h.elim (fun h => h4 h.2) fun h => absurd (h.1.symm.trans h1) (by decide)
  · exact h.elim (fun h => absurd (h0.symm.trans h.1) (by decide)) fun h => h.2 hn

end arming

/-! ### Firing -/

theorem powered_of_clocked {s : State} (h : s.clocked = true) : s.powered = true ∧ s.on A.refGone 0 = false := by
  simp only [State.clocked, State.refOk, Bool.decide_and, Bool.and_eq_true, decide_eq_true_eq] at h
  obtain ⟨hm, -, hg⟩ := h
  simp only [State.powered, State.on, hm, hg]
  decide

theorem run_of_clocked {s : State} (h : s.clocked = true) : ¬ s.rd A.pwMode 0 = 2 := by
  simp only [State.clocked, Bool.decide_and, Bool.and_eq_true, decide_eq_true_eq] at h
  omega

section firing

/-- A unit of AON that does nothing leaves a device with and without power as it is. -/
theorem aon_noop {s : State} {g : State → Res} (h : s.powered = true → g s = .next s) : s.aon g = .next s := by
  unfold State.aon
  split
  · exact h ‹_›
  · rfl

variable {s : State} {i k n : Nat}

/-- A slot that is armed and whose time has come. -/
def State.lnDue (s : State) (i : Nat) : Prop := s.rd A.lnState i = 1 ∧ s.rd A.lnTime i ≤ s.timeNs

/-- A slot fires where it is due, REFCLK runs, and it is the device's or the dies have a clock. -/
def State.lnFires (s : State) (slot : Nat) : Prop := s.lnDue slot ∧ s.on A.refGone 0 = false ∧
    (s.clocked = true ∨ slice (s.rd A.lnCfg slot) 3 1 = 1)

theorem launchFire_waits {slot : Fin 16} (h : ¬ s.lnFires slot) : exec (.launchFire slot) s = .next s :=
  aon_noop (g := fun s => .next (if s.rd A.lnState slot = 1 ∧ s.rd A.lnTime slot ≤ s.timeNs ∧ ¬ s.on A.refGone 0 ∧
      (s.clocked ∨ lnNoPid (s.rd A.lnCfg slot)) then s.lnFire slot else s)) fun _ => congrArg Host.Outcome.next
    (if_neg fun ⟨h1, h2, h3, h4⟩ => h ⟨⟨h1, h2⟩, eq_false_of_ne_true h3, h4.imp_right lnNoPid_iff.1⟩)

theorem launchFire_due {slot : Fin 16} (hp : s.powered = true) (h : s.lnFires slot) :
    exec (.launchFire slot) s = .next (s.lnFire slot) :=
  (if_pos hp).trans (congrArg Host.Outcome.next (if_pos ⟨h.1.1, h.1.2, ne_true_of_eq_false h.2.1, h.2.2.imp_right lnNoPid_iff.2⟩))

/-- A device COMMIT fires (R374, R468). -/
theorem lnFire_device (h : slice (s.rd A.lnCfg i) 3 1 = 1) :
    s.lnFire i = (if s.rd A.pwMode 0 = 2 then s else s.lnCommit devShadow).lnEnd i 1 := if_pos (lnNoPid_iff.2 h)

theorem lnCommit_closed (h : s.rd A.shState k ≠ 1) : s.lnCommit k = s := if_neg h

theorem lnCommit_overflow (h : s.rd A.shState k = 1) (ho : s.on A.shOver k = true) : s.lnCommit k = (s.shDrop k).shResult k 4 := by
  have commit : s.shDoCommit k = (4, s.shDrop k) := by
    simp only [State.shDoCommit, h, ho, if_true]
  rw [State.lnCommit, if_pos h, commit]
  rfl

theorem lnFire_nobody (h : slice (s.rd A.lnCfg i) 3 1 = 0) (hk : s.slotOfPid (slice (s.rd A.lnCfg i) 4 8) = none) :
    s.lnFire i = s.lnEnd i 6 := by
  rw [State.lnFire, if_neg (lnNoPid_not.2 h), show s.slotOfPid (lnPid (s.rd A.lnCfg i)) = none from hk]

/-- The slot with the launch cycle at which it fired. -/
def State.lnFired (s : State) (i n : Nat) : State := ((s.wr A.lnState i 2).wr A.lnGo i 0).wr A.lnCycle i n

theorem lnFire_partition (h : slice (s.rd A.lnCfg i) 3 1 = 0) (hk : s.slotOfPid (slice (s.rd A.lnCfg i) 4 8) = some k) :
    s.lnFire i = if (s.lnFired i (s.launchCycle k)).rf (P k) PLUMB_CFG_MODE = 0 then
      (s.lnFired i (s.launchCycle k)).lnGoAt i (s.launchCycle k)
    else (s.lnFired i (s.launchCycle k)).firedUp (lnPid (s.rd A.lnCfg i)) (lnTag (s.rd A.lnCfg i)) (lnMembers (s.rd A.lnCfg i) - 1)
      (s.launchCycle k) := by
  rw [State.lnFire, if_neg (lnNoPid_not.2 h), show s.slotOfPid (lnPid (s.rd A.lnCfg i)) = some k from hk]
  rfl

theorem lnFired_only (s : State) (i n : Nat) : s.Only [A.lnState.code, A.lnGo.code, A.lnCycle.code] (s.lnFired i n) :=
  (((State.Only.refl ..).wr _ _ rfl).wr _ _ rfl).wr _ _ rfl

/-- GO of a partition that steps: the action waits for its cycle, but for START, which is of no use to it (R376, R377). -/
theorem lnGoAt_stepping {c : Nat} (hc : s.rd A.lnCfg i = c) (hk : s.slotOfPid (slice c 4 8) = some k)
    (hs : s.rd A.pState k = 2 ∨ s.rd A.pState k = 3) :
    (slice c 0 3 = 1 ∨ slice c 0 3 = 3 ∨ slice c 0 3 = 4 → s.lnGoAt i n = ((s.wr A.lnGo i 1).wr A.lnCycle i n).wr A.lnState i 2) ∧
    (slice c 0 3 = 0 → s.lnGoAt i n = s.lnEnd i 6) := by
  have h1 : ¬ s.rd A.pState k = 1 := by omega
  have h4 : ¬ s.rd A.pState k = 4 := by omega
  simp only [State.lnGoAt, hc, show s.slotOfPid (lnPid c) = some k from hk, h1, h4, false_and, or_self, if_false]
  constructor
  · rintro (h | h | h) <;> simp only [lnAction, h]
  · intro h
    simp only [lnAction, h]

end firing

theorem lnEnd_only (s : State) (i r : Nat) : s.Only [A.lnState.code, A.lnGo.code, A.lnResult.code] (s.lnEnd i r) :=
  (((State.Only.refl ..).wr _ _ rfl).wr _ _ rfl).wr _ _ rfl

theorem lnEnd_state (s : State) (i r : Nat) : (s.lnEnd i r).rd A.lnState i = 0 := by
  have only : ((s.wr A.lnState i 0).Only [A.lnGo.code, A.lnResult.code] (s.lnEnd i r)) := ((State.Only.refl ..).wr _ _ rfl).wr _ _ rfl
  exact (only.rd _ _ rfl).trans (State.rd_wr_same ..)

/-- What a shadow that has overflowed shows: it is gone, with RESULT OVERFLOW (R469). -/
theorem overflow_shows (s : State) (k : Nat) : ((s.shDrop k).shResult k 4).rd A.shState k = 0 ∧
    ((s.shDrop k).shResult k 4).rd A.shResult k = 4 := by
  refine ⟨?_, State.rd_wr_same ..⟩
  have only : (State.wr { s with shadow := s.shadow.filter fun w => w.slot ≠ k } A.shState k 0).Only
      [A.shOver.code, A.shResult.code] ((s.shDrop k).shResult k 4) := ((State.Only.refl ..).wr _ _ rfl).wr _ _ rfl
  exact (only.rd _ _ rfl).trans (State.rd_wr_same ..)

theorem overflow_reg (s : State) (k o : Nat) : ((s.shDrop k).shResult k 4).reg o = s.reg o :=
  (State.reg_wr _ _ _ _ _ (by decide)).trans ((State.reg_wr _ _ _ _ _ (by decide)).trans (State.reg_wr _ _ _ _ _ (by decide)))

theorem lnEnd_reg (s : State) (i r o : Nat) : (s.lnEnd i r).reg o = s.reg o :=
  (State.reg_wr _ _ _ _ _ (by decide)).trans ((State.reg_wr _ _ _ _ _ (by decide)).trans (State.reg_wr _ _ _ _ _ (by decide)))

theorem lnCommit_shows {s : State} {i k : Nat} {t : State} (h : s.rd A.shState k = 1) (ho : s.on A.shOver k = true) (ht : t = (s.lnCommit k).lnEnd i 1) :
    t.rd A.shState k = 0 ∧ t.rd A.shResult k = 4 ∧ t.rd A.lnState i = 0 ∧ t.rd A.lnResult i = 1 ∧ ∀ o, t.reg o = s.reg o := by
  rw [lnCommit_overflow h ho] at ht
  subst ht
  obtain ⟨state, result⟩ := overflow_shows s k
  have only := lnEnd_only ((s.shDrop k).shResult k 4) i 1
  exact ⟨(only.rd _ _ rfl).trans state, (only.rd _ _ rfl).trans result, lnEnd_state .., State.rd_wr_same ..,
    fun o => (lnEnd_reg ..).trans (overflow_reg ..)⟩

/-! ### FIRED and GO on the tree (R375 to R377) -/

section tree

/-- The registers that arrays alone have changed beside. -/
theorem State.Only.regs {codes : List Nat} {s t : State} (h : s.Only codes t) (h0 : codes.contains 0 = false) (b : Nat) (f : Fld) :
    t.rf b f = s.rf b f := by
  rw [State.rf, State.reg, h.rd A.reg _ h0, State.rf, State.reg]

theorem State.Only.treeParent {codes : List Nat} {s t : State} (h : s.Only codes t) (h0 : codes.contains 0 = false) :
    t.treeParent = s.treeParent := by
  simp only [State.treeParent, h.regs h0]

theorem State.Only.treeChildren {codes : List Nat} {s t : State} (h : s.Only codes t) (h0 : codes.contains 0 = false) :
    t.treeChildren = s.treeChildren := by
  simp only [State.treeChildren, h.regs h0]

theorem State.Only.portUp {codes : List Nat} {s t : State} (h : s.Only codes t) (h0 : codes.contains 0 = false) (p : Nat) :
    t.portUp p = s.portUp p := by
  simp only [State.portUp, h.regs h0]

theorem State.Only.slotOfPid {codes : List Nat} {s t : State} (h : s.Only codes t)
    (hs : codes.contains (A.pState.code % 512) = false) (hp : codes.contains (A.pPid.code % 512) = false) (pid : Nat) :
    t.slotOfPid pid = s.slotOfPid pid := by
  refine congrArg (firstIx 32) (funext fun k => ?_)
  rw [State.loaded, h.rd A.pState _ hs, h.rd A.pPid _ hp, State.loaded]

theorem heard_only (s : State) (p : Nat) : s.Only [A.ptSeen.code] (s.heard p) := (State.Only.refl ..).wr _ _ rfl

variable {s : State} {pid tag m cyc p : Nat}

theorem firedUp_parent (h : s.treeParent = some p) (hu : s.portUp p = true) : s.firedUp pid tag m cyc =
    { s with symOut := s.symOut ++ [⟨p, none, .fired pid tag m (cyc % 2 ^ 28)⟩] } := by
  rw [State.firedUp, h]
  exact sendSym_up hu _

theorem firedUp_root (h : s.treeParent = none) (hv : s.rf 0 CHAIN_TREE_VALID = 1) (hc : cyc < 2 ^ 28) :
    s.firedUp pid tag m cyc = s.countFired pid tag (m + 1) cyc := by
  rw [State.firedUp, h, Nat.mod_eq_of_lt hc]
  exact if_pos hv

theorem goOut_up {codes : List Nat} {t : State} (ht : s.Only codes t) (h0 : codes.contains 0 = false)
    (h : ∀ p ∈ s.treeChildren, s.portUp p = true) : t.goOut pid tag cyc =
    State.goHere { t with symOut := t.symOut ++ s.treeChildren.map fun p => ⟨p, none, .go pid tag (cyc % 2 ^ 28)⟩ } pid tag (cyc % 2 ^ 28) := by
  have up : ∀ p ∈ s.treeChildren, t.portUp p = true := fun p hp => (ht.portUp h0 p).trans (h p hp)
  rw [State.goOut, ht.treeChildren h0, sendSyms_up _ _ _ up]

/-- The emulated cycle that the root takes for the current one of a partition. -/
def State.rootCycle (s : State) (pid tag cyc : Nat) : Nat :=
  match s.slotOfPid pid with
  | some k => s.rd A.pCycle k
  | none => match s.fired.find? fun f => f.pid = pid ∧ f.tag = tag with
    | some f => f.latest
    | none => cyc

theorem rootCycle_heard (s : State) (p pid tag cyc : Nat) : (s.heard p).rootCycle pid tag cyc = s.rootCycle pid tag cyc := by
  rw [State.rootCycle, (heard_only s p).slotOfPid rfl rfl, State.rootCycle]
  cases s.slotOfPid pid with
  | some k => exact (heard_only s p).rd A.pCycle k rfl
  | none => rfl

/-- The root counts the members that have fired and sends GO with the last (R375, R376). -/
theorem countFired_below {members : Nat} {cur latest : Nat} (hcur : cur = s.rootCycle pid tag cyc)
    (hl : latest = max (((s.fired.find? fun f => f.pid = pid ∧ f.tag = tag).map (·.latest)).getD 0) (nearest 28 cur cyc)) :
    s.countFired pid tag members cyc =
      if members ≤ ((s.fired.find? fun f => f.pid = pid ∧ f.tag = tag).map (·.count)).getD 0 + 1 then
        State.goOut { s with fired := s.fired.filter fun f => ¬ (f.pid = pid ∧ f.tag = tag) } pid tag latest
      else { s with fired := (s.fired.filter fun f => ¬ (f.pid = pid ∧ f.tag = tag)) ++
        [⟨pid, tag, ((s.fired.find? fun f => f.pid = pid ∧ f.tag = tag).map (·.count)).getD 0 + 1, members, latest⟩] } := by
  subst hl
  subst hcur
  rfl

variable {port : Fin 16} {pid8 : BitVec 8} {tag4 : BitVec 4} {membersM1 : BitVec 12} {cyc28 : BitVec 28}

theorem fired_next (h : s.clocked = true) : exec (.fired port pid8 tag4 membersM1 cyc28) s =
    .next ((s.heard port).firedUp pid8.toNat tag4.toNat membersM1.toNat cyc28.toNat) :=
  live_next h fun s => (s.heard port).firedUp pid8.toNat tag4.toNat membersM1.toNat cyc28.toNat

theorem fired_counted (h : s.clocked = true) (htp : s.treeParent = none) (hv : s.rf 0 CHAIN_TREE_VALID = 1) :
    exec (.fired port pid8 tag4 membersM1 cyc28) s =
      .next ((s.heard port).countFired pid8.toNat tag4.toNat (membersM1.toNat + 1) cyc28.toNat) :=
  (fired_next h).trans (congrArg _ (firedUp_root (((heard_only s port).treeParent rfl).trans htp)
    (((heard_only s port).regs rfl ..).trans hv) cyc28.isLt))

theorem fired_passed (h : s.clocked = true) (htp : s.treeParent = some p) (hu : s.portUp p = true) :
    exec (.fired port pid8 tag4 membersM1 cyc28) s = .next { s.wr A.ptSeen port s.mono with
      symOut := s.symOut ++ [⟨p, none, .fired pid8.toNat tag4.toNat membersM1.toNat cyc28.toNat⟩] } := by
  refine (fired_next h).trans (congrArg _ ((firedUp_parent (((heard_only s port).treeParent rfl).trans htp)
    (((heard_only s port).portUp rfl p).trans hu)).trans ?_))
  rw [Nat.mod_eq_of_lt cyc28.isLt]
  rfl

theorem go_next (h : s.clocked = true) : exec (.go port pid8 tag4 cyc28) s =
    .next (if (s.heard port).treeParent = some port.val then (s.heard port).goOut pid8.toNat tag4.toNat cyc28.toNat else s.heard port) :=
  live_next h fun s => if (s.heard port).treeParent = some port.val then
    (s.heard port).goOut pid8.toNat tag4.toNat cyc28.toNat else s.heard port

theorem go_passed (h : s.clocked = true) (htp : s.treeParent = some port.val) (hu : ∀ p ∈ s.treeChildren, s.portUp p = true) :
    exec (.go port pid8 tag4 cyc28) s = .next (State.goHere { s.wr A.ptSeen port s.mono with
      symOut := s.symOut ++ s.treeChildren.map fun p => ⟨p, none, .go pid8.toNat tag4.toNat cyc28.toNat⟩ }
      pid8.toNat tag4.toNat cyc28.toNat) := by
  refine (go_next h).trans (congrArg _ ((if_pos (((heard_only s port).treeParent rfl).trans htp)).trans ((goOut_up (heard_only s port) rfl hu).trans ?_)))
  rw [Nat.mod_eq_of_lt cyc28.isLt]
  rfl

end tree

/-- Settles O45: each command is its unit's operation, which the lemmas above give case by case. -/
theorem timedLaunches : Obligations.TimedLaunches := by
  unfold Obligations.TimedLaunches
  intro s who val slot port pid tag membersM1 cyc c k
  have arm : slice (patch val.toNat 28 2 1) 28 2 = 1 := slice_patch_same ..
  have disarm : slice (patch (s.rd A.lnCfg s.lnSlot) 28 2 2) 28 2 = 2 := slice_patch_same ..
  refine ⟨fun h => ?_, fun h => ?_, fun hp hc => ?_⟩
  · have launchArm : exec (.launchArm who val) s = .next (s.tlCfg who (patch val.toNat 28 2 1)) :=
      access_next h _ fun s => s.tlCfg who (patch val.toNat 28 2 1)
    have launchDisarm : exec (.launchDisarm who) s = .next (s.tlCfg who (patch (s.rd A.lnCfg s.lnSlot) 28 2 2)) :=
      access_next h _ fun s => s.tlCfg who (patch (s.rd A.lnCfg s.lnSlot) 28 2 2)
    refine ⟨fun hn => launchArm.trans (congrArg _ (tlCfg_denied hn)), fun hf => ⟨fun hm => ?_, fun hm => ⟨fun r h0 hr => ?_, fun hr => ?_⟩⟩,
      armLaunch_busy, fun hs ht => ⟨armLaunch_field hs ht, armLaunch_valid hs ht⟩,
      fun hn => launchDisarm.trans (congrArg _ (tlCfg_denied hn)), fun hf hm => launchDisarm.trans (congrArg _ (tlCfg_disarm hf hm disarm))⟩
    · exact launchArm.trans (congrArg _ (tlCfg_foreign hf hm arm))
    · refine launchArm.trans (congrArg _ ((tlCfg_arm hf hm arm).trans ?_))
      rw [if_neg (hr ▸ h0), hr]
    · refine launchArm.trans (congrArg _ ((tlCfg_arm hf hm arm).trans ?_))
      rw [if_pos hr]
  · obtain ⟨hp, hr⟩ := powered_of_clocked h
    have fire (hd : s.lnDue slot) := launchFire_due hp ⟨hd, hr, .inl h⟩
    have fired (hd : s.lnDue slot) (hn : slice (s.rd A.lnCfg slot) 3 1 = 0) (hk) :=
      (fire hd).trans (congrArg _ (lnFire_partition (k := k) hn hk))
    refine ⟨fun hd => launchFire_waits fun hw => hd hw.1, fun hd hn hsh => ?_, fun hd hn hsh ho => ?_, fun hd hn hk => ?_,
      fun hd hn hk => ⟨fun hm p htp hu => ?_, fun hm hst => ?_⟩, fun p htp hu => ?_, fun htp hv latest hl => ⟨fun hb => ?_, fun hb hup => ?_⟩,
      fun htp hup => ?_, fun htp => ?_⟩
    · refine (fire hd).trans (congrArg _ ((lnFire_device hn).trans ?_))
      rw [lnCommit_closed hsh, ite_self]
      rfl
    · have device := (fire hd).trans (congrArg _ ((lnFire_device hn).trans (congrArg (State.lnEnd · slot 1) (if_neg (run_of_clocked h)))))
      exact ⟨_, device, lnCommit_shows hsh ho rfl⟩
    · exact (fire hd).trans (congrArg _ (lnFire_nobody hn hk))
    · have mode : ¬ (s.lnFired slot (s.launchCycle k)).rf (P k) PLUMB_CFG_MODE = 0 := fun h =>
        hm (((lnFired_only ..).regs rfl ..).symm.trans h)
      exact (fired hd hn hk).trans (congrArg _ ((if_neg mode).trans
        (firedUp_parent (((lnFired_only ..).treeParent rfl).trans htp) (((lnFired_only ..).portUp rfl p).trans hu))))
    · have fired := (fired hd hn hk).trans (congrArg _ (if_pos (((lnFired_only ..).regs rfl ..).trans hm)))
      have only := lnFired_only s slot (s.launchCycle k)
      obtain ⟨waits, none⟩ := lnGoAt_stepping (s := s.lnFired slot (s.launchCycle k)) (n := s.launchCycle k) (k := k) (only.rd A.lnCfg slot rfl)
        ((only.slotOfPid rfl rfl _).trans hk) (by rwa [only.rd A.pState k rfl])
      exact ⟨fun ha => fired.trans (congrArg _ (waits ha)), fun ha => fired.trans (congrArg _ (none ha))⟩
    · exact fired_passed h htp hu
    · exact (fired_counted h htp hv).trans (congrArg _ ((countFired_below (s := s.heard port) (rootCycle_heard ..).symm hl).trans (if_neg (Nat.not_le.2 hb))))
    · exact (fired_counted h htp hv).trans (congrArg _ ((countFired_below (s := s.heard port) (rootCycle_heard ..).symm hl).trans ((if_pos hb).trans
        (goOut_up ((heard_only s port).update (by rfl)) rfl hup))))
    · exact go_passed h htp hup
    · exact (go_next h).trans (congrArg _ (if_neg fun h => htp (((heard_only s port).treeParent rfl).symm.trans h)))
  · refine ⟨fun hw => launchFire_waits fun ⟨hd, hr, hk⟩ => ?_, fun hd hr hn hsh => ?_⟩
    · rcases hw with hw | hw | hw
      · exact hw hd
      · exact absurd (hr.symm.trans hw) (by decide)
      · exact hk.elim (fun hk => absurd (hc.symm.trans hk) (by decide)) fun hk => absurd (hw.symm.trans hk) (by decide)
    · refine (launchFire_due hp ⟨hd, hr, .inr hn⟩).trans (congrArg _ ((lnFire_device hn).trans (congrArg (State.lnEnd · slot 1) ?_)))
      split
      · rfl
      · exact lnCommit_closed (hsh.resolve_left ‹_›)

end Sys2Proof.Machine

/-! SUPPORT and CERTIFICATE. Setting and keeping the time (chapter 15, R364 to R372). -/

namespace Sys2Proof.Machine

open Reg

/-! ### Registers that an operation leaves alone -/

/-- `t` shows every register that `os` does not list as `s` does. -/
structure State.RegsBut (os : List Nat) (s t : State) : Prop where
  reads : ∀ o, os.contains o = false → t.reg o = s.reg o

section regs
variable {os more : List Nat} {s t u : State}

theorem State.RegsBut.refl (os : List Nat) (s : State) : s.RegsBut os s := ⟨fun _ _ => rfl⟩

theorem State.RegsBut.wr {a : Arr} (h : s.RegsBut os t) (i v : Nat) (ha : ¬ a.code % 512 = 0) : s.RegsBut os (t.wr a i v) :=
  ⟨fun o ho => (State.reg_wr _ _ _ _ _ ha).trans (h.reads o ho)⟩

theorem State.RegsBut.put (h : s.RegsBut os t) {i : Nat} (v : Nat) (hi : os.contains i = true) : s.RegsBut os (t.wr A.reg i v) :=
  ⟨fun o ho => (State.rd_wr_ix _ _ _ _ _ fun e : i = o => absurd ((e ▸ ho : os.contains i = false).symm.trans hi) (by decide)).trans
    (h.reads o ho)⟩

theorem State.RegsBut.wf (h : s.RegsBut os t) (f : Fld) (v : Nat) (hf : os.contains (0 + f.off) = true) : s.RegsBut os (t.wf 0 f v) :=
  h.put _ hf

theorem State.RegsBut.setPair (h : s.RegsBut os t) {o : Nat} (v : Nat) (h0 : os.contains o = true) (h4 : os.contains (o + 4) = true) :
    s.RegsBut os (t.setPair o v) := (h.put _ h0).put _ h4

theorem State.RegsBut.ite {p : Prop} [Decidable p] (ht : s.RegsBut os t) (hu : s.RegsBut os u) : s.RegsBut os (if p then t else u) := by
  split
  · exact ht
  · exact hu

theorem State.RegsBut.step (h : s.RegsBut os t) (h' : t.RegsBut os u) : s.RegsBut os u :=
  ⟨fun o ho => (h'.reads o ho).trans (h.reads o ho)⟩

theorem State.RegsBut.mono (h : s.RegsBut os t) (hc : os.all more.contains = true) : s.RegsBut more t :=
  ⟨fun o ho => h.reads o (Bool.eq_false_iff.2 fun hm => absurd (ho.symm.trans
    (List.contains_iff_mem.2 (listed_mem hc (List.contains_iff_mem.1 hm)))) (by decide))⟩

theorem State.RegsBut.of_only {codes : List Nat} (h : s.Only codes t) (h0 : codes.contains 0 = false) : s.RegsBut [] t :=
  ⟨fun o _ => h.rd A.reg o h0⟩

theorem State.RegsBut.rf (h : s.RegsBut os t) (f : Fld) (hf : os.contains (0 + f.off) = false) : t.rf 0 f = s.rf 0 f := by
  rw [State.rf, h.reads _ hf, State.rf]

theorem State.RegsBut.pair (h : s.RegsBut os t) {o : Nat} (h0 : os.contains o = false) (h4 : os.contains (o + 4) = false) :
    t.pair o = s.pair o := by
  rw [State.pair, h.reads _ h0, h.reads _ h4, State.pair]

theorem State.RegsBut.mono_ns (h : s.RegsBut os t) (h0 : os.contains oMONO_NS_LO = false) (h4 : os.contains (oMONO_NS_LO + 4) = false) :
    t.mono = s.mono := h.pair h0 h4

theorem pair_lt (s : State) (o : Nat) : s.pair o < 2 ^ 64 := by
  have lo : s.reg o < 2 ^ 32 := State.rd_lt ..
  have hi : s.reg (o + 4) < 2 ^ 32 := State.rd_lt ..
  rw [State.pair]
  omega

end regs

/-- A read of another entry of any array. -/
theorem rd_wr_beside {a b : Arr} (ha : a.code < 512) (hb : b.code < 512) {i j : Nat} (h : i ≠ j) (s : State) (v : Nat) :
    (s.wr a i v).rd b j = s.rd b j :=
  s.rd_wr_key a b i j v fun e => h (by simp only [Arr.key] at e; omega)

/-! ### Setting TIME_NS (R367, R382) -/

/-- A step below the S of an epoch that is open, the first in it. -/
def State.regresses (s : State) (k before after : Nat) : Prop :=
  s.on A.epOpen k = true ∧ after < s.rd A.epS k ∧ after < before ∧ ¬ s.on A.epReg k = true

section setting
variable {s : State} {v k : Nat}

/-- The step is kept with the epoch of slot `k`. -/
def State.regression (s : State) (before after k : Nat) : State :=
  if s.on A.epOpen k ∧ after < s.rd A.epS k ∧ after < before ∧ ¬ s.on A.epReg k then
    ((s.wr A.epReg k 1).wr A.epBefore k before).wr A.epAfter k after
  else s

/-- What `regression` reads and writes of slot `k`. -/
def State.epochOf (k : Nat) (s : State) : Nat × Nat × Nat × Nat × Nat :=
  (s.rd A.epOpen k, s.rd A.epS k, s.rd A.epReg k, s.rd A.epBefore k, s.rd A.epAfter k)

theorem regression_other {b a j : Nat} (hj : j ≠ k) : (s.regression b a j).epochOf k = s.epochOf k := by
  unfold State.regression
  split
  · have past {a b : Arr} (ha : a.code < 512) (hb : b.code < 512) (s : State) (v : Nat) : (s.wr a j v).rd b k = s.rd b k :=
      rd_wr_beside ha hb hj s v
    have kept {c : Arr} (hb : c.code < 512) := ((past (a := A.epAfter) (by decide) hb _ a).trans
      (past (a := A.epBefore) (by decide) hb _ b)).trans (past (a := A.epReg) (by decide) hb s 1)
    rw [State.epochOf, kept (by decide), kept (by decide), kept (by decide), kept (by decide), kept (by decide), State.epochOf]
  · rfl

theorem regression_hit {b a : Nat} (hb : b < 2 ^ 64) (ha : a < 2 ^ 64) (h : s.regresses k b a) :
    (s.regression b a k).rd A.epReg k = 1 ∧ (s.regression b a k).rd A.epBefore k = b ∧ (s.regression b a k).rd A.epAfter k = a := by
  have hit : s.regression b a k = ((s.wr A.epReg k 1).wr A.epBefore k b).wr A.epAfter k a := if_pos h
  rw [hit]
  refine ⟨?_, ?_, ?_⟩
  · rw [State.rd_wr_arr _ _ _ _ _ _ (by decide), State.rd_wr_arr _ _ _ _ _ _ (by decide), State.rd_wr_same]
    rfl
  · rw [State.rd_wr_arr _ _ _ _ _ _ (by decide), State.rd_wr_same]
    exact Nat.mod_eq_of_lt hb
  · rw [State.rd_wr_same]
    exact Nat.mod_eq_of_lt ha

theorem noteRegression_only (s : State) (b a : Nat) : s.Only [260, 261, 262] (s.noteRegression b a) :=
  only_each (fun _ _ => (((((State.Only.refl ..).wr _ _ rfl).wr _ _ rfl).wr _ _ rfl)).ite (.refl ..)) 32 s

/-- What is kept of a step of the time with the epoch of slot `k` (R382). -/
theorem noteRegression_at {b a : Nat} (hk : k < 32) (hb : b < 2 ^ 64) (ha : a < 2 ^ 64) :
    (s.regresses k b a → (s.noteRegression b a).on A.epReg k = true ∧ (s.noteRegression b a).rd A.epBefore k = b ∧
      (s.noteRegression b a).rd A.epAfter k = a) ∧
    (¬ s.regresses k b a → (s.noteRegression b a).on A.epReg k = s.on A.epReg k ∧
      (s.noteRegression b a).rd A.epBefore k = s.rd A.epBefore k) := by
  obtain ⟨u, hu, ht⟩ := each_at (obs := State.epochOf k) (f := fun s j => s.regression b a j) hk
    (fun u j hj => regression_other hj) s
  obtain ⟨open_, start, reg, before, after⟩ : u.rd A.epOpen k = s.rd A.epOpen k ∧ u.rd A.epS k = s.rd A.epS k ∧
    u.rd A.epReg k = s.rd A.epReg k ∧ u.rd A.epBefore k = s.rd A.epBefore k ∧ u.rd A.epAfter k = s.rd A.epAfter k := by
    simpa only [State.epochOf, Prod.mk.injEq] using hu
  obtain ⟨-, -, reg', before', after'⟩ : _ ∧ _ ∧ (s.noteRegression b a).rd A.epReg k = (u.regression b a k).rd A.epReg k ∧
    (s.noteRegression b a).rd A.epBefore k = (u.regression b a k).rd A.epBefore k ∧
    (s.noteRegression b a).rd A.epAfter k = (u.regression b a k).rd A.epAfter k := by
    have ht : (s.noteRegression b a).epochOf k = (u.regression b a k).epochOf k := ht
    simpa only [State.epochOf, Prod.mk.injEq] using ht
  have same : u.regresses k b a ↔ s.regresses k b a := by
    simp only [State.regresses, State.on, open_, start, reg]
  refine ⟨fun h => ?_, fun h => ?_⟩
  · obtain ⟨r, b', a'⟩ := regression_hit hb ha (same.2 h)
    exact ⟨decide_eq_true (reg'.trans r), before'.trans b', after'.trans a'⟩
  · have miss : u.regression b a k = u := if_neg (mt same.1 h)
    rw [miss] at reg' before'
    exact ⟨by rw [State.on, State.on, reg', reg], before'.trans before⟩

/-- The registers that setting the time writes. -/
def timeRegs : List Nat := [0xB00, 0xB04, 0xB08]

theorem setTime_regs (s : State) (v : Nat) : s.RegsBut timeRegs (s.setTime v) := by
  have note : s.RegsBut timeRegs (s.noteRegression s.timeNs (v % 2 ^ 64)) :=
    (State.RegsBut.of_only (noteRegression_only ..) rfl).mono rfl
  have set := (note.setPair (o := oTIME_NS_LO) (v % 2 ^ 64) rfl rfl).wf TIME_FRAC_VALUE 0 rfl
  exact (set.wr _ _ (by decide)).ite set

theorem setTime_only (s : State) (v : Nat) : s.Only [0, 251, 260, 261, 262] (s.setTime v) :=
  have set := (((noteRegression_only s s.timeNs (v % 2 ^ 64)).mono rfl).setPair oTIME_NS_LO (v % 2 ^ 64) rfl).wf 0 TIME_FRAC_VALUE 0 rfl
  (set.wr _ _ rfl).ite set

theorem setTime_timeNs (s : State) (v : Nat) : (s.setTime v).timeNs = v % 2 ^ 64 := by
  unfold State.setTime
  dsimp only
  split
  · rw [State.timeNs, pair_wr _ _ _ _ (by decide), pair_wf _ _ _ _ (by decide) (by decide), pair_setPair_same, Nat.mod_mod]
  · rw [State.timeNs, pair_wf _ _ _ _ (by decide) (by decide), pair_setPair_same, Nat.mod_mod]

theorem setTime_frac (s : State) (v : Nat) : (s.setTime v).rf 0 TIME_FRAC_VALUE = 0 := by
  unfold State.setTime
  dsimp only
  split
  · rw [rf_wr _ _ _ _ _ (by decide)]
    exact State.rf_wf_same _ _ _ _ (by decide)
  · exact State.rf_wf_same _ _ _ _ (by decide)

theorem setTime_core (s : State) (v : Nat) : (s.setTime v).core = s.core := by
  have note : (s.noteRegression s.timeNs (v % 2 ^ 64)).core = s.core := foldl_keeps (obs := State.core) (fun u k _ => by
    split
    · exact ((core_wr ..).trans (core_wr ..)).trans (core_wr ..)
    · rfl) ..
  unfold State.setTime
  dsimp only
  split
  · exact (((core_wr ..).trans (core_wf ..)).trans (core_setPair ..)).trans note
  · exact ((core_wf ..).trans (core_setPair ..)).trans note

end setting

/-! ### PPS edges (R368) -/

section pps

theorem reg_wf_whole (s : State) (v : Nat) : (s.wf 0 PPS_PERIOD_NS v).reg oPPS_PERIOD = v % 2 ^ 32 := by
  have whole : (s.wf 0 PPS_PERIOD_NS v).rf 0 PPS_PERIOD_NS = (s.wf 0 PPS_PERIOD_NS v).reg oPPS_PERIOD :=
    (slice_at_zero ..).trans (Nat.mod_eq_of_lt (State.rd_lt ..))
  exact whole.symm.trans (State.rf_wf_same _ _ _ _ (by decide))

variable {s : State} {k : Nat}

/-- What the model and the statements show of an edge that is accepted for `k` seconds. -/
structure State.PpsAccepted (s t : State) (k : Nat) : Prop where
  time : t.timeNs = (s.pair oPPS_SEC_LO + (k - 1)) * second % 2 ^ 64
  frac : t.rf 0 TIME_FRAC_VALUE = 0
  sec : t.pair oPPS_SEC_LO = (s.pair oPPS_SEC_LO + (k - 1) + 1) % 2 ^ 64
  holdover : t.rf 0 TIME_STATUS_HOLDOVER = 0
  slept : t.rf 0 TIME_STATUS_SLEPT = 0
  unsynced : t.rf 0 TIME_STATUS_UNSYNCED = 0
  missed : t.rf 0 TIME_STATUS_PPS_MISSED = min 255 (s.rf 0 TIME_STATUS_PPS_MISSED + (k - 1))
  ref : t.rd A.ppsRef 0 = s.mono
  mono : t.mono = s.mono
  mem : t.mem = s.mem

theorem State.PpsAccepted.conj {t : State} (h : s.PpsAccepted t k) :
    t.timeNs = (s.pair oPPS_SEC_LO + (k - 1)) * second % 2 ^ 64 ∧ t.rf 0 TIME_FRAC_VALUE = 0 ∧
    t.pair oPPS_SEC_LO = (s.pair oPPS_SEC_LO + (k - 1) + 1) % 2 ^ 64 ∧ t.rf 0 TIME_STATUS_HOLDOVER = 0 ∧
    t.rf 0 TIME_STATUS_SLEPT = 0 ∧ t.rf 0 TIME_STATUS_UNSYNCED = 0 ∧
    t.rf 0 TIME_STATUS_PPS_MISSED = min 255 (s.rf 0 TIME_STATUS_PPS_MISSED + (k - 1)) ∧ t.rd A.ppsRef 0 = s.mono ∧
    t.mono = s.mono ∧ t.mem = s.mem := by
  obtain ⟨time, frac, sec, holdover, slept, unsynced, missed, ref, mono, mem⟩ := h
  exact ⟨time, frac, sec, holdover, slept, unsynced, missed, ref, mono, mem⟩

theorem inSync_regs (s : State) : s.RegsBut [0xB28] s.inSync :=
  (((State.RegsBut.refl ..).wf TIME_STATUS_HOLDOVER 0 rfl).wf TIME_STATUS_SLEPT 0 rfl).wf TIME_STATUS_UNSYNCED 0 rfl

theorem inSync_clear (s : State) : s.inSync.rf 0 TIME_STATUS_HOLDOVER = 0 ∧ s.inSync.rf 0 TIME_STATUS_SLEPT = 0 ∧
    s.inSync.rf 0 TIME_STATUS_UNSYNCED = 0 := by
  refine ⟨?_, ?_, ?_⟩
  · exact (rf_wf_apart _ _ _ (by decide)).trans ((rf_wf_apart _ _ _ (by decide)).trans (State.rf_wf_same _ _ _ _ (by decide)))
  · exact (rf_wf_apart _ _ _ (by decide)).trans (State.rf_wf_same _ _ _ _ (by decide))
  · exact State.rf_wf_same _ _ _ _ (by decide)

theorem inSync_missed (s : State) : s.inSync.rf 0 TIME_STATUS_PPS_MISSED = s.rf 0 TIME_STATUS_PPS_MISSED :=
  (rf_wf_apart _ _ _ (by decide)).trans ((rf_wf_apart _ _ _ (by decide)).trans (rf_wf_apart _ _ _ (by decide)))

theorem inSync_resync (s : State) : s.inSync.rf 0 TIME_STATUS_RESYNC = s.rf 0 TIME_STATUS_RESYNC :=
  (rf_wf_apart _ _ _ (by decide)).trans ((rf_wf_apart _ _ _ (by decide)).trans (rf_wf_apart _ _ _ (by decide)))

theorem inSync_core (s : State) : s.inSync.core = s.core := ((core_wf ..).trans (core_wf ..)).trans (core_wf ..)

/-- The seconds that the edge sets, and the next ones. -/
def State.ppsSet (s : State) (n : Nat) : State := ((s.setTime (n * second)).setPair oPPS_SEC_LO ((n + 1) % 2 ^ 64)).inSync

theorem ppsSet_regs (s : State) (n : Nat) : s.RegsBut ([0xB1C, 0xB20, 0xB28] ++ timeRegs) (s.ppsSet n) :=
  ((((setTime_regs ..).mono rfl).setPair _ rfl rfl).step ((inSync_regs _).mono rfl))

theorem ppsSet_core (s : State) (n : Nat) : (s.ppsSet n).core = s.core :=
  (inSync_core _).trans ((core_setPair ..).trans (setTime_core ..))

theorem ppsSet_time (s : State) (n : Nat) : (s.ppsSet n).timeNs = n * second % 2 ^ 64 :=
  ((inSync_regs _).pair (by decide) (by decide)).trans ((pair_setPair_ne _ _ (by decide)).trans (setTime_timeNs ..))

theorem ppsSet_frac (s : State) (n : Nat) : (s.ppsSet n).rf 0 TIME_FRAC_VALUE = 0 :=
  ((inSync_regs _).rf _ (by decide)).trans ((rf_setPair _ _ _ _ (by decide) (by decide)).trans (setTime_frac ..))

theorem ppsSet_sec (s : State) (n : Nat) : (s.ppsSet n).pair oPPS_SEC_LO = (n + 1) % 2 ^ 64 :=
  ((inSync_regs _).pair (by decide) (by decide)).trans ((pair_setPair_same ..).trans (Nat.mod_mod ..))

/-- TIME_STATUS's fields that the synchronisation leaves. -/
theorem ppsSet_status {f : Fld} (hf : f.off = 0xB28) (h : (s : State) → s.inSync.rf 0 f = s.rf 0 f) (s : State) (n : Nat) :
    (s.ppsSet n).rf 0 f = s.rf 0 f := by
  have time : (s.setTime (n * second)).rf 0 f = s.rf 0 f := (setTime_regs ..).rf f (by rw [hf]; decide)
  exact (h _).trans ((rf_setPair _ _ _ _ (by rw [hf]; decide) (by rw [hf]; decide)).trans time)

/-- What an accepted edge sets beside PPS_PERIOD. -/
def State.ppsTaken (s : State) (k : Nat) : State :=
  let u := (s.cnt 0 TIME_STATUS_PPS_MISSED (k - 1)).ppsSet (s.pair oPPS_SEC_LO + (k - 1))
  ((u.wr A.ppsRef 0 u.mono).wr A.ppsSeen 0 1).wr A.ppsTime 0 ((s.pair oPPS_SEC_LO + (k - 1)) * second)

theorem ppsAccept_plain (s : State) (k : Nat) : s.ppsAccept k false = s.ppsTaken k := rfl

theorem ppsAccept_period (s : State) (k : Nat) : s.ppsAccept k true =
    (s.wf 0 PPS_PERIOD_NS ((s.timeNs + 2 ^ 64 - s.rd A.ppsTime 0) % 2 ^ 64 / k)).ppsTaken k := rfl

/-- What three arrays of the time keep of a state. -/
theorem ppsMarks_regs (u : State) (a b c : Nat) :
    u.RegsBut [] (((u.wr A.ppsRef 0 a).wr A.ppsSeen 0 b).wr A.ppsTime 0 c) :=
  (((State.RegsBut.refl ..).wr _ _ (by decide)).wr _ _ (by decide)).wr _ _ (by decide)

theorem cntMissed_regs (s : State) (n : Nat) : s.RegsBut [0xB28] (s.cnt 0 TIME_STATUS_PPS_MISSED n) :=
  (State.RegsBut.refl ..).wf _ _ rfl

theorem ppsTaken_regs (s : State) (k : Nat) : s.RegsBut ([0xB1C, 0xB20, 0xB28] ++ timeRegs) (s.ppsTaken k) :=
  (((cntMissed_regs ..).mono rfl).step (ppsSet_regs ..)).step ((ppsMarks_regs ..).mono rfl)

theorem ppsTaken_accepted (s : State) (k : Nat) : s.PpsAccepted (s.ppsTaken k) k := by
  have marks (u : State) (a b c : Nat) := ppsMarks_regs u a b c
  have counted := cntMissed_regs s (k - 1)
  have mono := ((counted.mono rfl).step (ppsSet_regs _ (s.pair oPPS_SEC_LO + (k - 1)))).mono_ns rfl rfl
  refine ⟨?_, ?_, ?_, ?_, ?_, ?_, ?_, ?_, ?_, ?_⟩
  · exact ((marks ..).pair rfl rfl).trans (ppsSet_time ..)
  · exact ((marks ..).rf _ rfl).trans (ppsSet_frac ..)
  · exact ((marks ..).pair rfl rfl).trans (ppsSet_sec ..)
  · exact ((marks ..).rf _ rfl).trans (inSync_clear _).1
  · exact ((marks ..).rf _ rfl).trans (inSync_clear _).2.1
  · exact ((marks ..).rf _ rfl).trans (inSync_clear _).2.2
  · refine ((marks ..).rf _ rfl).trans ((ppsSet_status rfl inSync_missed ..).trans ((State.rf_wf_same _ _ _ _ (by decide)).trans ?_))
    exact Nat.mod_eq_of_lt (by show min 255 _ < 256; omega)
  · refine (State.rd_wr_arr _ _ _ _ _ _ (by decide)).trans ((State.rd_wr_arr _ _ _ _ _ _ (by decide)).trans ((State.rd_wr_same ..).trans ?_))
    exact (Nat.mod_eq_of_lt (pair_lt ..)).trans mono
  · exact (ppsTaken_regs s k).mono_ns rfl rfl
  · exact mem_of_core (((core_wr ..).trans (core_wr ..)).trans ((core_wr ..).trans ((ppsSet_core ..).trans (core_wf ..))))

theorem ppsTaken_resync (s : State) (k : Nat) : (s.ppsTaken k).rf 0 TIME_STATUS_RESYNC = s.rf 0 TIME_STATUS_RESYNC :=
  ((ppsMarks_regs ..).rf _ rfl).trans ((ppsSet_status rfl inSync_resync ..).trans (rf_wf_apart _ _ _ (by decide)))

/-- A write of another register before the edge. -/
theorem State.PpsAccepted.before {u t : State} (hp : u.pair oPPS_SEC_LO = s.pair oPPS_SEC_LO) (hn : u.mono = s.mono)
    (hm : u.rf 0 TIME_STATUS_PPS_MISSED = s.rf 0 TIME_STATUS_PPS_MISSED) (hs : u.mem = s.mem) (h : u.PpsAccepted t k) :
    s.PpsAccepted t k where
  time := hp ▸ h.time
  frac := h.frac
  sec := hp ▸ h.sec
  holdover := h.holdover
  slept := h.slept
  unsynced := h.unsynced
  missed := hm ▸ h.missed
  ref := h.ref.trans hn
  mono := h.mono.trans hn
  mem := h.mem.trans hs

theorem accept_period (s : State) (k : Nat) : s.PpsAccepted (s.ppsAccept k true) k ∧
    (s.ppsAccept k true).reg oPPS_PERIOD = (s.timeNs + 2 ^ 64 - s.rd A.ppsTime 0) % 2 ^ 64 / k % 2 ^ 32 := by
  have other : s.RegsBut [oPPS_PERIOD] (s.wf 0 PPS_PERIOD_NS ((s.timeNs + 2 ^ 64 - s.rd A.ppsTime 0) % 2 ^ 64 / k)) :=
    (State.RegsBut.refl ..).wf _ _ rfl
  rw [ppsAccept_period]
  refine ⟨(ppsTaken_accepted _ k).before (other.pair rfl rfl) (other.mono_ns rfl rfl) (other.rf _ rfl) (mem_of_core (core_wf ..)), ?_⟩
  exact ((ppsTaken_regs _ k).reads _ rfl).trans (reg_wf_whole ..)

theorem accept_resync (s : State) (k : Nat) : s.PpsAccepted ((s.wf 0 TIME_STATUS_RESYNC 1).ppsAccept k false) k ∧
    ((s.wf 0 TIME_STATUS_RESYNC 1).ppsAccept k false).rf 0 TIME_STATUS_RESYNC = 1 ∧
    ((s.wf 0 TIME_STATUS_RESYNC 1).ppsAccept k false).reg oPPS_PERIOD = s.reg oPPS_PERIOD := by
  have other : s.RegsBut [0xB28] (s.wf 0 TIME_STATUS_RESYNC 1) := (State.RegsBut.refl ..).wf _ _ rfl
  rw [ppsAccept_plain]
  exact ⟨(ppsTaken_accepted _ k).before (other.pair rfl rfl) (other.mono_ns rfl rfl) (rf_wf_apart _ _ _ (by decide))
    (mem_of_core (core_wf ..)), (ppsTaken_resync ..).trans (State.rf_wf_same _ _ _ _ (by decide)),
    ((ppsTaken_regs _ k).reads _ rfl).trans (other.reads _ rfl)⟩

/-- An edge of the selected source that is not sampled (R368, R442). -/
theorem pps_ignored (h : s.rf 0 TIME_CTRL_PPS_EN = 0 ∨ s.on A.refGone 0 = true ∨ s.rf 0 TIME_CTRL_PPS_SRC = 1 ∧ s.sigHeard 0x3C = false) :
    s.pps = s :=
  if_pos (h.imp_right fun h => h.imp_right fun ⟨h1, h2⟩ => ⟨h1, ne_true_of_eq_false h2⟩)

theorem pps_sampled (he : s.rf 0 TIME_CTRL_PPS_EN = 1) (hr : s.on A.refGone 0 = false)
    (hs : s.rf 0 TIME_CTRL_PPS_SRC = 0 ∨ s.sigHeard 0x3C = true) (hk : k = (s.mono - s.rd A.ppsRef 0 + second / 2) / second) : s.pps =
    if s.on A.ppsSeen 0 = false then s.ppsAccept 1 false
    else if 1 ≤ k ∧ k ≤ 16 ∧ k * second ≤ s.mono - s.rd A.ppsRef 0 + k * 100000 ∧ s.mono - s.rd A.ppsRef 0 ≤ k * second + k * 100000 then
      s.ppsAccept k true
    else if 33 * second ≤ 2 * (s.mono - s.rd A.ppsRef 0) then (s.wf 0 TIME_STATUS_RESYNC 1).ppsAccept k false
    else s.cnt 0 TIME_STATUS_PPS_BAD 1 := by
  subst hk
  refine (if_neg ?_).trans (if_congr (by rw [Bool.not_eq_true]) rfl rfl)
  rintro (h | h | ⟨h1, h2⟩)
  · omega
  · exact absurd (hr.symm.trans h) (by decide)
  · exact hs.elim (fun h => by omega) h2

end pps

/-! ### TIME and CHECK (R370, R371) -/

section symbols
variable {s t : State} {codes : List Nat}

theorem sendTree_up (ht : s.Only codes t) (h0 : codes.contains 0 = false) (except : Option Nat) (y : Sym)
    (h : ∀ p ∈ s.treePorts.filter fun p => some p ≠ except, s.portUp p = true) : t.sendTree except y =
    { t with symOut := t.symOut ++ (s.treePorts.filter fun p => some p ≠ except).map fun p => ⟨p, none, y⟩ } := by
  have ports : t.treePorts = s.treePorts := by rw [State.treePorts, ht.treeParent h0, ht.treeChildren h0, State.treePorts]
  rw [State.sendTree, ports]
  exact sendSyms_up (fun _ => y) _ _ fun p hp => (ht.portUp h0 p).trans (h p hp)

theorem filter_every (l : List Nat) : (l.filter fun p => some p ≠ none) = l := List.filter_eq_self.2 fun _ _ => rfl

theorem timeSecond_sends (hm : s.rf 0 TIME_CTRL_MASTER = 1) (n : Nat) (h : ∀ p ∈ s.treePorts, s.portUp p = true) :
    (if (s.wr A.tmSec 0 n).rf 0 TIME_CTRL_MASTER = 1 then (s.wr A.tmSec 0 n).sendTree none (.time 0 (n % 2 ^ 48)) else s.wr A.tmSec 0 n) =
    { s.wr A.tmSec 0 n with symOut := s.symOut ++ s.treePorts.map fun p => ⟨p, none, .time 0 (n % 2 ^ 48)⟩ } := by
  have only : s.Only [A.tmSec.code] (s.wr A.tmSec 0 n) := (State.Only.refl ..).wr _ _ rfl
  refine (if_pos ((only.regs rfl ..).trans hm)).trans ((sendTree_up only rfl none _ ?_).trans ?_)
  · rwa [filter_every]
  · rw [filter_every]
    rfl

/-- A TIME message before it is looked at. -/
def State.timeHeard (s : State) (port : Nat) : State := (s.wr A.ptSeen port s.mono).wr A.msgRef 0 s.mono

theorem timeHeard_only (s : State) (port : Nat) : s.Only [A.ptSeen.code, A.msgRef.code] (s.timeHeard port) :=
  ((State.Only.refl ..).wr _ _ rfl).wr _ _ rfl

theorem heard_timeHeard (s : State) (port : Nat) : (s.heard port).wr A.msgRef 0 (s.heard port).mono = s.timeHeard port := by
  rw [(State.RegsBut.of_only (heard_only s port) rfl).mono_ns rfl rfl]
  rfl

variable {port hops sec : Nat}

theorem timeSym_master (h : s.rf 0 TIME_CTRL_MASTER = 1) :
    (s.heard port).timeSym port hops sec = (s.timeHeard port).wf 0 TIME_STATUS_CONFLICT 1 := by
  rw [State.timeSym, heard_timeHeard]
  exact if_pos (((timeHeard_only ..).regs rfl ..).trans h)

theorem timeSym_known (h : s.rf 0 TIME_CTRL_MASTER = 0) (hg : s.on A.tmGot sec = true) :
    (s.heard port).timeSym port hops sec = s.timeHeard port := by
  rw [State.timeSym, heard_timeHeard]
  have only := timeHeard_only s port
  refine (if_neg fun h1 => absurd (h.symm.trans ((only.regs rfl ..).symm.trans h1)) (by decide)).trans (if_pos ?_)
  rwa [State.on, only.rd A.tmGot sec rfl]

theorem timeSym_new (h : s.rf 0 TIME_CTRL_MASTER = 0) (hg : s.on A.tmGot sec = false) (hh : hops < 15)
    (hp : ∀ p ∈ s.treePorts.filter fun p => some p ≠ some port, s.portUp p = true) :
    (s.heard port).timeSym port hops sec = ((State.wr { (s.timeHeard port).wr A.tmGot sec 1 with
      symOut := s.symOut ++ (s.treePorts.filter fun p => some p ≠ some port).map fun p => ⟨p, none, .time (hops + 1) sec⟩ }
        A.reg oTIME_MSG_LO sec).wr A.reg oTIME_MSG_HI (slice sec 32 16 + 2 ^ 16 * port + 2 ^ 20 * hops)).raise 0x5BC := by
  have only := timeHeard_only s port
  have fresh : (s.timeHeard port).on A.tmGot sec = false := by rwa [State.on, only.rd A.tmGot sec rfl]
  have got : s.Only [A.ptSeen.code, A.msgRef.code, A.tmGot.code] ((s.timeHeard port).wr A.tmGot sec 1) := (only.mono rfl).wr _ _ rfl
  rw [State.timeSym, heard_timeHeard]
  refine (if_neg fun h1 => absurd (h.symm.trans ((only.regs rfl ..).symm.trans h1)) (by decide)).trans ?_
  rw [if_neg (ne_true_of_eq_false fresh)]
  dsimp only
  rw [if_neg (by omega), sendTree_up got rfl (some port) _ hp]
  rfl

/-- The time of a CHECK is further off than the guard allows (R371). -/
def State.strays (s : State) (sec : Nat) : Prop := s.rf 0 TIME_CTRL_TIME_GUARD_US * 1000 <
  min ((sec + 2 ^ 48 - s.timeNs % 2 ^ 48) % 2 ^ 48) (2 ^ 48 - (sec + 2 ^ 48 - s.timeNs % 2 ^ 48) % 2 ^ 48)

theorem heard_strays : (s.heard port).strays sec ↔ s.strays sec := by
  have time : (s.heard port).timeNs = s.timeNs := (State.RegsBut.of_only (heard_only s port) rfl).pair rfl rfl
  rw [State.strays, time, (heard_only s port).regs rfl, State.strays]

theorem checkSym_calm (h : ¬ s.strays sec ∨ s.rf 0 TIME_STATUS_SLEPT = 0) : (s.heard port).checkSym sec = s.heard port := by
  refine if_neg fun ⟨hg, hs⟩ => h.elim (fun h => h (heard_strays.1 hg)) fun h => ?_
  exact absurd (h.symm.trans (((heard_only s port).regs rfl ..).symm.trans hs)) (by decide)

theorem checkSym_far (hg : s.strays sec) (hs : s.rf 0 TIME_STATUS_SLEPT = 1) : (s.heard port).checkSym sec = (s.heard port).setUnsynced :=
  if_pos ⟨heard_strays.2 hg, ((heard_only s port).regs rfl ..).trans hs⟩

/-- UNSYNCED cancels what is armed of a slot. -/
def State.unarm (s : State) (i : Nat) : State := if s.rd A.lnState i = 1 then s.lnEnd i 5 else s

/-- What a launch slot shows of its state. -/
def State.launchOf (i : Nat) (s : State) : Nat × Nat := (s.rd A.lnState i, s.rd A.lnResult i)

theorem unarm_other {i j : Nat} (hj : j ≠ i) (s : State) : (s.unarm j).launchOf i = s.launchOf i := by
  unfold State.unarm
  split
  · have kept {c : Arr} (hc : c.code < 512) : (s.lnEnd j 5).rd c i = s.rd c i :=
      (rd_wr_beside (by decide) hc hj ..).trans ((rd_wr_beside (by decide) hc hj ..).trans (rd_wr_beside (by decide) hc hj ..))
    rw [State.launchOf, kept (by decide), kept (by decide), State.launchOf]
  · rfl

theorem setUnsynced_status (s : State) : s.setUnsynced.rf 0 TIME_STATUS_UNSYNCED = 1 := by
  have only : (s.wf 0 TIME_STATUS_UNSYNCED 1).Only [A.lnState.code, A.lnGo.code, A.lnResult.code] s.setUnsynced :=
    only_each (f := State.unarm) (fun u i => (lnEnd_only u i 5).ite (.refl ..)) 16 _
  exact (only.regs rfl ..).trans (State.rf_wf_same _ _ _ _ (by decide))

theorem setUnsynced_launch {i : Nat} (hi : i < 16) (s : State) : s.setUnsynced.launchOf i =
    if s.rd A.lnState i = 1 then (0, 5) else s.launchOf i := by
  obtain ⟨u, hu, ht⟩ := each_at (obs := State.launchOf i) (f := State.unarm) hi (fun u j hj => unarm_other hj u) (s.wf 0 TIME_STATUS_UNSYNCED 1)
  have flag : (s.wf 0 TIME_STATUS_UNSYNCED 1).launchOf i = s.launchOf i := by
    rw [State.launchOf, State.rd_wf _ _ _ _ _ _ (by decide), State.rd_wf _ _ _ _ _ _ (by decide), State.launchOf]
  have state : u.rd A.lnState i = s.rd A.lnState i := (Prod.mk.inj (hu.trans flag)).1
  refine Eq.trans ht ?_
  rw [State.unarm, state]
  split
  · exact Prod.ext (lnEnd_state ..) (State.rd_wr_same ..)
  · exact hu.trans flag

theorem timeSecond_eq (hp : s.powered = true) : exec .timeSecond s = .next (if s.rd A.tmSec 0 < s.timeNs / second then
    if (s.wr A.tmSec 0 (s.timeNs / second)).rf 0 TIME_CTRL_MASTER = 1 then
      (s.wr A.tmSec 0 (s.timeNs / second)).sendTree none (.time 0 (s.timeNs / second % 2 ^ 48)) else s.wr A.tmSec 0 (s.timeNs / second)
    else s) := if_pos hp

theorem time_eq {port : Fin 16} {hops : BitVec 4} {sec : BitVec 48} (hc : s.clocked = true) :
    exec (.time port hops sec) s = .next ((s.heard port).timeSym port hops.toNat sec.toNat) :=
  live_next hc fun s => (s.heard port).timeSym port hops.toNat sec.toNat

theorem check_eq {port : Fin 16} {sec : BitVec 48} (hc : s.clocked = true) :
    exec (.check port sec) s = .next ((s.heard port).checkSym sec.toNat) :=
  live_next hc fun s => (s.heard port).checkSym sec.toNat

end symbols

/-! ### The registers of time (R384) -/

section writes
variable {s : State} {who : Who} {hi : Word}

theorem timeSet_eq (h : s.Serving who) : exec (.timeSet who hi) s = .next (s.timeGuard who fun s =>
    (s.wr A.heldLo oTIME_SET_LO 0).setTime
      ((if (s.rd A.heldLo oTIME_SET_LO).testBit 32 then s.rd A.heldLo oTIME_SET_LO % 2 ^ 32 else s.rd A.lastLo oTIME_SET_LO) +
        2 ^ 32 * hi.toNat)) := by
  refine (access_next h _ fun s => s.timeGuard who fun s => (s.takeLo oTIME_SET_LO (s.rd A.lastLo oTIME_SET_LO)).2.setTime
    ((s.takeLo oTIME_SET_LO (s.rd A.lastLo oTIME_SET_LO)).1 + 2 ^ 32 * hi.toNat)).trans ?_
  simp only [takeLo_eq]

theorem timeIncWrite_eq (h : s.Serving who) : exec (.timeIncWrite who hi) s = .next (s.timeGuard who fun s =>
    if slice hi.toNat 0 4 = 9 ∨ slice hi.toNat 0 4 = 10 then
      ((s.wr A.heldLo oTIME_INC_LO 0).wr A.reg oTIME_INC_LO
        (if (s.rd A.heldLo oTIME_INC_LO).testBit 32 then s.rd A.heldLo oTIME_INC_LO % 2 ^ 32 else s.reg oTIME_INC_LO)).wr
        A.reg oTIME_INC_HI (slice hi.toNat 0 4)
    else s.wr A.heldLo oTIME_INC_LO 0) := by
  refine (access_next h _ fun s => s.timeGuard who fun s => s.writeTimeInc hi.toNat).trans ?_
  simp only [State.writeTimeInc, takeLo_eq]

theorem synced_eq (h : s.Serving who) : exec (.synced who) s = .next (s.timeGuard who State.inSync) :=
  access_next h _ fun s => s.timeGuard who State.inSync

theorem timeGuard_denied (h : s.pfRights who = false) (f : State → State) : s.timeGuard who f = s.ans 1 0 :=
  if_neg (ne_true_of_eq_false h)

theorem timeGuard_okay (h : s.pfRights who = true) (f : State → State) : s.timeGuard who f = (f s).ans 0 0 := if_pos h

theorem regresses_wr {i v k b a : Nat} : (s.wr A.heldLo i v).regresses k b a ↔ s.regresses k b a := by
  rw [State.regresses, State.on, State.on, State.rd_wr_arr _ _ _ _ _ _ (by decide), State.rd_wr_arr _ _ _ _ _ _ (by decide),
    State.rd_wr_arr _ _ _ _ _ _ (by decide)]
  rfl

theorem setTime_epochs (u : State) {v k : Nat} (hk : k < 32) (hv : v < 2 ^ 64) :
    (u.regresses k u.timeNs v → (u.setTime v).on A.epReg k = true ∧ (u.setTime v).rd A.epBefore k = u.timeNs ∧
      (u.setTime v).rd A.epAfter k = v) ∧
    (¬ u.regresses k u.timeNs v → (u.setTime v).on A.epReg k = u.on A.epReg k ∧
      (u.setTime v).rd A.epBefore k = u.rd A.epBefore k) := by
  have only : (u.noteRegression u.timeNs (v % 2 ^ 64)).Only [0, 251] (u.setTime v) :=
    have set := ((State.Only.refl ..).setPair oTIME_NS_LO (v % 2 ^ 64) rfl).wf 0 TIME_FRAC_VALUE 0 rfl
    (set.wr _ _ rfl).ite set
  rw [Nat.mod_eq_of_lt hv] at only
  rw [State.on, only.rd A.epReg k rfl, only.rd A.epBefore k rfl, only.rd A.epAfter k rfl]
  exact noteRegression_at hk (pair_lt ..) hv

theorem heldLo_lt (s : State) (o : Nat) (a : Arr) (ha : a.width = 32) :
    (if (s.rd A.heldLo o).testBit 32 then s.rd A.heldLo o % 2 ^ 32 else s.rd a o) < 2 ^ 32 := by
  split
  · exact Nat.mod_lt _ (by decide)
  · exact ha ▸ State.rd_lt s a o

theorem halves_lt {lo high : Nat} (hl : lo < 2 ^ 32) (hh : high < 2 ^ 32) : lo + 2 ^ 32 * high < 2 ^ 64 := by omega

/-- The writer's new time, and what becomes of the epochs (R367, R382). -/
theorem timeSet_shows {v : Nat} (hv : v < 2 ^ 64) {t : State} (ht : t = ((s.wr A.heldLo oTIME_SET_LO 0).setTime v).ans 0 0) :
    t.timeNs = v ∧ t.rf 0 TIME_FRAC_VALUE = 0 ∧ t.mono = s.mono ∧ t.rsp = ⟨0, 0, 0⟩ ∧ t.mem = s.mem ∧
      ∀ j < 32, (s.on A.epOpen j = true → s.on A.epReg j = false → v < s.rd A.epS j → v < s.timeNs →
          t.on A.epReg j = true ∧ t.rd A.epBefore j = s.timeNs ∧ t.rd A.epAfter j = v) ∧
        (s.on A.epOpen j = false ∨ s.on A.epReg j = true ∨ s.rd A.epS j ≤ v ∨ s.timeNs ≤ v →
          t.on A.epReg j = s.on A.epReg j ∧ t.rd A.epBefore j = s.rd A.epBefore j) := by
  have taken : s.RegsBut [] (s.wr A.heldLo oTIME_SET_LO 0) := (State.RegsBut.refl ..).wr _ _ (by decide)
  have now : (s.wr A.heldLo oTIME_SET_LO 0).timeNs = s.timeNs := taken.pair rfl rfl
  have same (a : Arr) (j : Nat) (ha : ¬ A.heldLo.code % 512 = a.code % 512) : (s.wr A.heldLo oTIME_SET_LO 0).rd a j = s.rd a j :=
    State.rd_wr_arr _ _ _ _ _ _ ha
  subst ht
  have answered (u : State) : u.RegsBut [] (u.ans 0 0) := ⟨fun _ _ => State.reg_ans ..⟩
  refine ⟨?_, ?_, ?_, rfl, ?_, fun j hj => ?_⟩
  · exact ((answered _).pair rfl rfl).trans ((setTime_timeNs ..).trans (Nat.mod_eq_of_lt hv))
  · exact ((answered _).rf _ rfl).trans (setTime_frac ..)
  · exact ((answered _).mono_ns rfl rfl).trans (((setTime_regs ..).mono_ns rfl rfl).trans (taken.mono_ns rfl rfl))
  · exact mem_of_core ((setTime_core ..).trans (core_wr ..))
  · obtain ⟨kept, left⟩ := setTime_epochs (s.wr A.heldLo oTIME_SET_LO 0) hj hv
    rw [regresses_wr, now] at kept left
    have marked : (s.wr A.heldLo oTIME_SET_LO 0).on A.epReg j = s.on A.epReg j := by
      rw [State.on, same A.epReg j (by decide), State.on]
    rw [marked, same A.epBefore j (by decide)] at left
    refine ⟨fun ho hn hs hb => kept ⟨ho, hs, hb, ne_true_of_eq_false hn⟩, fun h => left ?_⟩
    rintro ⟨ho, hs, hb, hn⟩
    rcases h with h | h | h | h
    · exact absurd (h.symm.trans ho) (by decide)
    · exact hn h
    · exact absurd h (Nat.not_le.2 hs)
    · exact absurd h (Nat.not_le.2 hb)

end writes

/-- Settles O44: the registers of time, the PPS edges, and the symbols of the tree one after another. -/
theorem timeKeeping : Obligations.TimeKeeping := by
  unfold Obligations.TimeKeeping
  intro s who hi port hops sec t48
  refine ⟨fun h => ⟨fun hr => ?_, fun hr => ⟨fun v hv => ?_, fun h9 => ?_, fun h9 h10 => ?_, ?_⟩⟩, fun hp => ⟨fun hi => ?_, fun he hg hs => ⟨fun hf => ?_, fun hf => ?_⟩,
    ?_, ?_, fun hn => ?_, fun hn => ⟨fun hm => ?_, fun hm hu => ?_⟩⟩, fun hc => ⟨fun hm => ?_, fun hm hg => ?_, fun hm hg hh hu => ?_, fun hf => ?_, fun hf hs => ?_⟩⟩
  · exact ⟨(timeSet_eq h).trans (congrArg _ (timeGuard_denied hr _)), (timeIncWrite_eq h).trans (congrArg _ (timeGuard_denied hr _)),
      (synced_eq h).trans (congrArg _ (timeGuard_denied hr _))⟩
  · have hlt : v < 2 ^ 64 := lt_of_eq_of_lt hv (halves_lt (heldLo_lt s oTIME_SET_LO A.lastLo rfl) hi.isLt)
    refine ⟨_, (timeSet_eq h).trans (congrArg _ ((timeGuard_okay hr _).trans (congrArg (State.ans · 0 0)
      (congrArg (State.setTime _) hv.symm)))), timeSet_shows hlt rfl⟩
  · exact (timeIncWrite_eq h).trans (congrArg _ ((timeGuard_okay hr _).trans (congrArg (State.ans · 0 0) (if_pos h9))))
  · exact (timeIncWrite_eq h).trans (congrArg _ ((timeGuard_okay hr _).trans (congrArg (State.ans · 0 0) (if_neg fun h => h.elim h9 h10))))
  · exact (synced_eq h).trans (congrArg _ (timeGuard_okay hr _))
  · exact (aon_next hp State.pps).trans (congrArg _ (pps_ignored hi))
  · refine ⟨_, (aon_next hp State.pps).trans (congrArg _ ((pps_sampled he hg hs rfl).trans (if_pos hf))), ?_⟩
    exact ⟨(ppsTaken_accepted s 1).conj, (ppsTaken_regs s 1).reads _ rfl⟩
  · have sampled := (aon_next hp State.pps).trans (congrArg _ ((pps_sampled he hg hs rfl).trans (if_neg (ne_false_of_eq_true hf))))
    refine ⟨fun hw => ?_, fun hw h33 => ?_, fun hw h33 => ?_⟩
    · obtain ⟨accepted, period⟩ := accept_period s ((s.mono - s.rd A.ppsRef 0 + second / 2) / second)
      exact ⟨_, sampled.trans (congrArg _ (if_pos hw)), accepted.conj, period⟩
    · obtain ⟨accepted, resync, period⟩ := accept_resync s ((s.mono - s.rd A.ppsRef 0 + second / 2) / second)
      exact ⟨_, sampled.trans (congrArg _ ((if_neg hw).trans (if_pos h33))), accepted.conj, resync, period⟩
    · exact sampled.trans (congrArg _ ((if_neg hw).trans (if_neg (Nat.not_le.2 h33))))
  · exact aon_next hp fun s => if s.rf 0 TIME_CTRL_PPS_EN = 1 ∧ 11 * second ≤ 10 * (s.mono - s.rd A.ppsRef 0) then
      s.wf 0 TIME_STATUS_HOLDOVER 1 else s
  · exact aon_next hp fun s => if s.rf 0 TIME_CTRL_MSG_EXPECT = 1 ∧ 3 * second ≤ s.mono - s.rd A.msgRef 0 then
      s.wf 0 TIME_STATUS_HOLDOVER 1 else s
  · exact (timeSecond_eq hp).trans (congrArg _ (if_neg (Nat.not_lt.2 hn)))
  · refine (timeSecond_eq hp).trans (congrArg _ ((if_pos hn).trans (if_neg fun h1 => ?_)))
    exact absurd (hm.symm.trans ((rf_wr _ _ _ _ _ (by decide)).symm.trans h1)) (by decide)
  · exact (timeSecond_eq hp).trans (congrArg _ ((if_pos hn).trans (timeSecond_sends hm _ hu)))
  · exact (time_eq hc).trans (congrArg _ (timeSym_master hm))
  · exact (time_eq hc).trans (congrArg _ (timeSym_known hm hg))
  · exact (time_eq hc).trans (congrArg _ (timeSym_new hm hg hh hu))
  · exact (check_eq hc).trans (congrArg _ (checkSym_calm hf))
  · refine ⟨_, (check_eq hc).trans (congrArg _ (checkSym_far hf hs)), setUnsynced_status _, fun i hi ha => ?_, fun i hi ha => ?_⟩
    · have shown := (setUnsynced_launch hi (s.heard port)).trans (if_pos (((heard_only s port).rd A.lnState i rfl).trans ha))
      exact Prod.mk.inj shown
    · have shown := (setUnsynced_launch hi (s.heard port)).trans (if_neg (by rwa [(heard_only s port).rd A.lnState i rfl]))
      obtain ⟨state, result⟩ := Prod.mk.inj shown
      exact ⟨state.trans ((heard_only s port).rd A.lnState i rfl), result.trans ((heard_only s port).rd A.lnResult i rfl)⟩

end Sys2Proof.Machine

/-! SUPPORT and CERTIFICATE. The upkeep of HBM and its ownership table (chapter 17, R403, R409 to R415). -/

namespace Sys2Proof.Machine

open Reg

theorem State.Only.drop {codes : List Nat} {s t : State} (h : s.Only codes t) (a : Arr) (p : Nat → Bool) (ha : codes.contains a.code = true) : s.Only codes (t.drop a p) :=
  ⟨fun b i hb => (rd_drop t p i fun e : b.code % 512 = a.code => hb (e ▸ List.contains_iff_mem.1 ha)).trans (h.reads b i hb)⟩

section scrub
variable {s : State} {d : Nat}

theorem lineLost_only {codes : List Nat} {t : State} (h : s.Only codes t) (hl : codes.contains (A.hbmLost.code % 512) = false)
    (hk : codes.contains (A.hbmKnown.code % 512) = false) (hp : ∀ a, t.pseudoChannel a = s.pseudoChannel a) (a : Nat) :
    t.lineLost a = s.lineLost a := by
  rw [State.lineLost, h.rd A.hbmLost _ hl, h.rd A.hbmKnown _ hk, hp, State.lineLost]

/-- The line that the scrubber takes (R409). -/
def State.scrubLine (s : State) (die : Nat) : Nat := stackBytes / 64 * die + s.rd A.scrubAt die

/-- The scrubber has moved on. -/
def State.scrubNext (s : State) (die : Nat) : State := s.wr A.scrubAt die ((s.rd A.scrubAt die + 1) % (stackBytes / 64))

/-- What becomes of a line with the error state that the scrubber reads. -/
def scrubFound (a : Nat) (x : Nat × State) : State :=
  match x.1 with
  | 0 => x.2
  | 1 => x.2.noteCe a
  | _ => x.2.noteUe a

theorem scrub_eq (h : s.lineLost (64 * s.scrubLine d) = false) : s.scrub d =
    match s.rd A.hbmErr (s.scrubLine d) with
    | 0 => s.scrubNext d
    | 1 => (s.scrubNext d).noteCe (64 * s.scrubLine d)
    | _ => (s.scrubNext d).noteUe (64 * s.scrubLine d) := by
  have only : s.Only [A.scrubAt.code] (s.scrubNext d) := (State.Only.refl ..).wr _ _ rfl
  have lost : ¬ (s.scrubNext d).lineLost (64 * s.scrubLine d) = true :=
    ne_true_of_eq_false ((lineLost_only only rfl rfl (fun a => by rw [State.pseudoChannel, only.regs rfl, State.pseudoChannel]) _).trans h)
  have err : (s.scrubNext d).rd A.hbmErr (s.scrubLine d) = s.rd A.hbmErr (s.scrubLine d) := only.rd _ _ rfl
  rw [← err]
  exact congrArg (scrubFound (64 * s.scrubLine d)) (if_neg lost)

theorem patrolScrub_idle {die : Fin 8} (hc : s.clocked = true) (h : s.rf (D die) HBM_CFG_SCRUB_H = 0 ∨
    s.rf (D die) HBM_STATUS_TRAINED = 0 ∨ s.domOn die domMem = false) : exec (.patrolScrub die) s = .next s :=
  (live_next hc fun s => if s.rf (D die) HBM_CFG_SCRUB_H = 0 ∨ s.rf (D die) HBM_STATUS_TRAINED = 0 ∨ ¬ s.domOn die domMem then s
    else s.scrub die).trans (congrArg _ (if_pos (h.imp_right fun h => h.imp_right ne_true_of_eq_false)))

theorem patrolScrub_next {die : Fin 8} (hc : s.clocked = true) (h1 : s.rf (D die) HBM_CFG_SCRUB_H ≠ 0)
    (h2 : s.rf (D die) HBM_STATUS_TRAINED = 1) (h3 : s.domOn die domMem = true) : exec (.patrolScrub die) s = .next (s.scrub die) :=
  (live_next hc fun s => if s.rf (D die) HBM_CFG_SCRUB_H = 0 ∨ s.rf (D die) HBM_STATUS_TRAINED = 0 ∨ ¬ s.domOn die domMem then s
    else s.scrub die).trans (congrArg _ (if_neg fun h => h.elim h1 fun h => h.elim (fun h => by omega) fun h => h h3))

end scrub

/-! ### Training (R411, R414) -/

section training
variable {s : State} {d n : Nat}

/-- The line is in the stack of die `d`. -/
def onStack (d line : Nat) : Bool := hbmDie (64 * line) = d

/-- The stack reads 0. -/
def State.zeroed (s : State) (d : Nat) : State :=
  { s with mem := s.mem.filter fun c => hbmDie c.1 ≠ d, l2 := s.l2.filter fun e => ¬ onStack d e.line }

/-- No line of the stack has an error. -/
def State.sound (s : State) (d : Nat) : State := (s.zeroed d).drop A.hbmErr (onStack d)

/-- Nor is any of its lines lost or saved. -/
def State.cleared (s : State) (d : Nat) : State :=
  ((((s.sound d).drop A.hbmKnown (onStack d)).wr A.hbmLost d 0).wr A.saveMade d 0).wr A.hbmTrn d 0

/-- The status of the controller of a stack that is trained. -/
def State.inService (s : State) (d n : Nat) : State :=
  ((s.cleared d).wf (D d) HBM_STATUS_TRAINED 1).wf (D d) HBM_STATUS_REPAIRS n

/-- A stack whose training has ended, and no pseudo-channel is found beyond repair. -/
def State.repaired (s : State) (d n : Nat) : State :=
  ((s.inService d n).wr A.pcAt d (s.inService d n).mono).each 32 fun s pc => s.wr A.pcTemp (32 * d + pc) (s.rf (D d) HBM_STATUS_TEMP_C)

theorem trained_eq (s : State) (d n : Nat) (b : Bool) :
    s.trained d n b = if b then ((s.repaired d n).wf (D d) HBM_STATUS_DEGRADED 1).raise 0x5BF else s.repaired d n := rfl

theorem sound_only (s : State) (d : Nat) : s.Only [A.hbmErr.code] (s.sound d) :=
  ((State.Only.refl _ s).update (u := s.zeroed d) (by rfl)).drop A.hbmErr _ rfl

theorem cleared_sound (s : State) (d : Nat) :
    (s.sound d).Only [A.hbmKnown.code, A.hbmLost.code, A.saveMade.code, A.hbmTrn.code] (s.cleared d) :=
  ((((State.Only.refl _ (s.sound d)).drop A.hbmKnown (onStack d) rfl).wr (a := A.hbmLost) d 0 rfl).wr (a := A.saveMade) d 0 rfl).wr
    (a := A.hbmTrn) d 0 rfl

theorem cleared_only (s : State) (d : Nat) :
    s.Only [A.hbmErr.code, A.hbmKnown.code, A.hbmLost.code, A.saveMade.code, A.hbmTrn.code] (s.cleared d) :=
  ((sound_only s d).mono rfl).step (cleared_sound s d) rfl

theorem cleared_err (s : State) {d l : Nat} (h : hbmDie (64 * l) = d) : (s.cleared d).rd A.hbmErr l = 0 := by
  refine ((cleared_sound s d).rd A.hbmErr l rfl).trans ((rd_drop_eq (s.zeroed d) A.hbmErr (by decide) (onStack d) l).trans ?_)
  rw [if_pos ⟨rfl, decide_eq_true h⟩, dflt_plain ⟨by decide, by decide, by decide⟩]
  rfl

theorem inService_only (s : State) (d n : Nat) : (s.cleared d).Only [0] (s.inService d n) :=
  ((State.Only.refl _ (s.cleared d)).wf (D d) HBM_STATUS_TRAINED 1 rfl).wf (D d) HBM_STATUS_REPAIRS n rfl

theorem repaired_only (s : State) (d n : Nat) : (s.inService d n).Only [A.pcAt.code, A.pcTemp.code] (s.repaired d n) :=
  ((State.Only.refl _ (s.inService d n)).wr (a := A.pcAt) d _ rfl).step
    (only_each (codes := [A.pcTemp.code]) (fun _ _ => (State.Only.refl ..).wr _ _ rfl) 32 _) rfl

theorem cleared_mem (s : State) (d : Nat) : (s.cleared d).mem = s.mem.filter fun c => hbmDie c.1 ≠ d :=
  mem_of_core ((core_wr ..).trans ((core_wr ..).trans (core_wr ..)))

theorem repaired_mem (s : State) (d n : Nat) : (s.repaired d n).mem = s.mem.filter fun c => hbmDie c.1 ≠ d := by
  have fold : (s.repaired d n).mem = ((s.inService d n).wr A.pcAt d (s.inService d n).mono).mem :=
    foldl_keeps (obs := State.mem) (fun _ _ _ => mem_of_core (core_wr ..)) _
  exact fold.trans ((mem_of_core ((core_wr ..).trans ((core_wf ..).trans (core_wf ..)))).trans (cleared_mem s d))

/-- A byte of a stack that has been trained reads 0, any other as before. -/
theorem byte_trained {t : State} (hm : t.mem = s.mem.filter fun c => hbmDie c.1 ≠ d) (a : Nat) :
    t.byte a = if hbmDie a = d then 0 else s.byte a := by
  rw [State.byte, hm]
  split
  case isTrue h => exact get_filter_out _ _ _ (fun v => by simp only [h, ne_eq, not_true_eq_false, decide_false]) _
  case isFalse h => exact get_filter _ _ _ (fun v => by simp only [ne_eq, h, not_false_eq_true, decide_true]) _

/-- What training leaves (R411, R414). -/
structure State.Trained (s t : State) (d n : Nat) (b : Bool) : Prop where
  trained : t.rf (D d) HBM_STATUS_TRAINED = 1
  repairs : t.rf (D d) HBM_STATUS_REPAIRS = n
  degraded : t.rf (D d) HBM_STATUS_DEGRADED = if b then 1 else s.rf (D d) HBM_STATUS_DEGRADED
  mem : t.mem = s.mem.filter fun c => hbmDie c.1 ≠ d
  err : ∀ l, hbmDie (64 * l) = d → t.rd A.hbmErr l = 0
  own : ∀ g, t.rd A.own g = s.rd A.own g

theorem repaired_trained (s : State) (d : Nat) {n : Nat} (hn : n < 64) : s.Trained (s.repaired d n) d n false where
  trained := ((repaired_only ..).regs rfl ..).trans ((rf_wf_apart _ _ _ (by decide)).trans (State.rf_wf_same _ _ _ _ (by decide)))
  repairs := ((repaired_only ..).regs rfl ..).trans ((State.rf_wf_same _ _ _ _ (by decide)).trans (Nat.mod_eq_of_lt hn))
  degraded := ((repaired_only ..).regs rfl ..).trans ((rf_wf_apart _ _ _ (by decide)).trans ((rf_wf_apart _ _ _ (by decide)).trans
    ((cleared_only ..).regs rfl ..)))
  mem := repaired_mem ..
  err l hl := ((repaired_only ..).rd _ _ rfl).trans (((inService_only ..).rd _ _ rfl).trans (cleared_err _ hl))
  own g := ((repaired_only ..).rd _ _ rfl).trans (((inService_only ..).rd _ _ rfl).trans ((cleared_only ..).rd _ _ rfl))

theorem status_raise (u : State) (d : Nat) {f : Fld} (hf : f.off = 0x46008) : (u.raise 0x5BF).rf (D d) f = u.rf (D d) f := by
  have free : evtReg (D d + f.off) = false := by
    rw [hf, evtReg, decide_eq_false_iff_not, D, Off.die]
    omega
  rw [State.rf, (raise_evt u (by decide)).reads _ free, State.rf]

theorem trained_trained (s : State) (d : Nat) {n : Nat} (hn : n < 64) (b : Bool) : s.Trained (s.trained d n b) d n b := by
  have plain := repaired_trained s d hn
  rw [trained_eq]
  cases b with
  | false => exact plain
  | true =>
    have raised := raise_calm ((s.repaired d n).wf (D d) HBM_STATUS_DEGRADED 1) 0x5BF
    exact ⟨(status_raise _ _ rfl).trans ((rf_wf_apart _ _ _ (by decide)).trans plain.trained),
      (status_raise _ _ rfl).trans ((rf_wf_apart _ _ _ (by decide)).trans plain.repairs),
      (status_raise _ _ rfl).trans (State.rf_wf_same _ _ _ _ (by decide)),
      raised.mem.trans ((mem_of_core (core_wf ..)).trans plain.mem),
      fun l hl => (raised.only.rd _ _ rfl).trans ((State.rd_wf _ _ _ _ _ _ (by decide)).trans (plain.err l hl)),
      fun g => (raised.only.rd _ _ rfl).trans ((State.rd_wf _ _ _ _ _ _ (by decide)).trans (plain.own g))⟩

/-- The status while a stack is trained (R411). -/
theorem training_shows (s : State) (d : Nat) : ∀ t, t = (((s.wr A.hbmTrn d 1).wf (D d) HBM_STATUS_TRAINED 0).wf (D d)
    HBM_STATUS_DEGRADED 0).wf (D d) HBM_STATUS_REPAIRS 0 → t.on A.hbmTrn d = true ∧ t.rf (D d) HBM_STATUS_TRAINED = 0 ∧
      t.rf (D d) HBM_STATUS_DEGRADED = 0 ∧ t.rf (D d) HBM_STATUS_REPAIRS = 0 ∧ t.mem = s.mem := by
  rintro _ rfl
  have only := (((State.Only.refl [0] (s.wr A.hbmTrn d 1)).wf (D d) HBM_STATUS_TRAINED 0 rfl).wf (D d)
    HBM_STATUS_DEGRADED 0 rfl).wf (D d) HBM_STATUS_REPAIRS 0 rfl
  exact ⟨decide_eq_true ((only.rd A.hbmTrn d rfl).trans (State.rd_wr_same ..)),
    (rf_wf_apart _ _ _ (by decide)).trans ((rf_wf_apart _ _ _ (by decide)).trans (State.rf_wf_same _ _ _ _ (by decide))),
    (rf_wf_apart _ _ _ (by decide)).trans (State.rf_wf_same _ _ _ _ (by decide)), State.rf_wf_same _ _ _ _ (by decide),
    mem_of_core ((core_wf ..).trans ((core_wf ..).trans ((core_wf ..).trans (core_wr ..))))⟩

end training

/-! ### Retraining (R412) -/

section retraining
variable {s : State} {d pc : Nat}

theorem retrainDue_iff : s.retrainDue d pc = true ↔
    (s.rf (D d) HBM_CFG_RETRAIN_MS ≠ 0 ∧ pc = (s.rf (D d) HBM_STATUS_LAST_PC + 1) % 32 ∧
      s.rd A.pcAt d + 1000000 * s.rf (D d) HBM_CFG_RETRAIN_MS ≤ s.mono) ∨
    10 ≤ tempMoved (s.rf (D d) HBM_STATUS_TEMP_C) (s.rd A.pcTemp (32 * d + pc)) := decide_eq_true_iff

theorem retrain_waits (h : s.rf (D d) HBM_STATUS_TRAINED = 0 ∨ s.rf (D d) HBM_STATUS_RETRAINING = 1 ∨ ¬ s.retrainDue d pc = true) :
    s.retrain d pc = s := if_pos h

theorem retrain_due (h1 : s.rf (D d) HBM_STATUS_TRAINED = 1) (h2 : s.rf (D d) HBM_STATUS_RETRAINING = 0) (h3 : s.retrainDue d pc = true) :
    s.retrain d pc = (((s.wf (D d) HBM_STATUS_LAST_PC pc).wf (D d) HBM_STATUS_RETRAINING 1).wr A.pcAt d s.mono).wr A.pcTemp
      (32 * d + pc) (s.rf (D d) HBM_STATUS_TEMP_C) := by
  have apart : ∀ o, o < 0x1000 → ((s.wf (D d) HBM_STATUS_LAST_PC pc).wf (D d) HBM_STATUS_RETRAINING 1).reg o = s.reg o := fun o ho => by
    have base := D_base d
    rw [State.reg_wf _ _ _ _ _ (by omega), State.reg_wf _ _ _ _ _ (by omega)]
  have mono : ((s.wf (D d) HBM_STATUS_LAST_PC pc).wf (D d) HBM_STATUS_RETRAINING 1).mono = s.mono := by
    rw [State.mono, State.pair, apart _ (by decide), apart _ (by decide), State.mono, State.pair]
  refine (if_neg (by rw [h1, h2]; exact fun h => h.elim (by decide) fun h => h.elim (by decide) fun h => h h3)).trans ?_
  rw [mono, rf_wf_apart _ _ _ (by decide), rf_wf_apart _ _ _ (by decide)]

end retraining

/-! ### The ownership table (R403, R404, R415) -/

section table
variable {s : State} {who : Who} {d : Nat} {f : State → Nat → State}

/-- HBM_OWN_SEL after an access. -/
def State.ownNext (s : State) (d : Nat) : State :=
  if s.rf (D d) HBM_OWN_SEL_AUTOINC = 1 then s.wf (D d) HBM_OWN_SEL_GRANULE (s.rf (D d) HBM_OWN_SEL_GRANULE + 1) else s

theorem ownAccess_denied (h : s.pfRights who = false) : s.ownAccess who d f = (s.wf (D d) HBM_OWN_SEL_RESULT 1).ans 1 0 :=
  if_pos (ne_true_of_eq_false h)

theorem ownAccess_beyond (h : s.pfRights who = true) (hg : 24576 ≤ s.rf (D d) HBM_OWN_SEL_GRANULE) :
    s.ownAccess who d f = ((s.ownNext d).wf (D d) HBM_OWN_SEL_RESULT 2).ans 0 0 :=
  (if_neg fun hn => hn h).trans (if_pos hg)

theorem ownAccess_within (h : s.pfRights who = true) (hg : s.rf (D d) HBM_OWN_SEL_GRANULE < 24576) :
    s.ownAccess who d f = f ((s.ownNext d).wf (D d) HBM_OWN_SEL_RESULT 0) (24576 * d + s.rf (D d) HBM_OWN_SEL_GRANULE) :=
  (if_neg fun hn => hn h).trans (if_neg (Nat.not_le.2 hg))

theorem ownNext_rd (s : State) (d g : Nat) : ((s.ownNext d).wf (D d) HBM_OWN_SEL_RESULT 0).rd A.own g = s.rd A.own g := by
  have next : s.Only [0] (s.ownNext d) := by
    unfold State.ownNext
    split
    · exact (State.Only.refl _ s).wf _ _ _ rfl
    · exact .refl _ s
  exact (next.wf (D d) HBM_OWN_SEL_RESULT 0 rfl).rd A.own g rfl

end table

/-- Settles O50: the scrubber, training, retraining and the ownership table in turn. -/
theorem hbmUpkeep : Obligations.HbmUpkeep := by
  unfold Obligations.HbmUpkeep
  intro s who die pc bank tempC repairs unrepairable val
  refine ⟨fun hc => ⟨patrolScrub_idle hc, fun h1 h2 h3 hl => ?_, ?_, fun h => ?_, fun h1 h2 h3 => ?_, ?_, fun h => ?_, fun h => ?_, ?_⟩,
    fun h => ?_⟩
  · have next := (patrolScrub_next hc h1 h2 h3).trans (congrArg _ (scrub_eq hl))
    refine ⟨fun he => ?_, fun he => ?_, fun he => ?_⟩
    · exact next.trans (congrArg _ (by rw [show s.rd A.hbmErr (s.scrubLine die) = 0 from he]; rfl))
    · exact next.trans (congrArg _ (by rw [show s.rd A.hbmErr (s.scrubLine die) = 1 from he]; rfl))
    · refine next.trans (congrArg _ ?_)
      have two : s.rd A.hbmErr (s.scrubLine die) ≠ 0 ∧ s.rd A.hbmErr (s.scrubLine die) ≠ 1 := by
        have : 2 ≤ s.rd A.hbmErr (s.scrubLine die) := he
        omega
      split
      · exact absurd ‹_› two.1
      · exact absurd ‹_› two.2
      · rfl
  · refine (live_next hc fun s => (s.wf (D die) HBM_STATUS_TEMP_C tempC.toNat).wf (D die) HBM_STATUS_HOT (bit (85 < tempC.toInt))).trans ?_
    simp only [bit, decide_eq_true_eq]
  · exact (live_next hc fun s => s.retrain die pc).trans (congrArg _ (retrain_waits (h.imp_right fun h => h.imp_right (mt retrainDue_iff.1))))
  · exact (live_next hc fun s => s.retrain die pc).trans (congrArg _ (retrain_due h1 h2 (retrainDue_iff.2 h3)))
  · refine ⟨_, live_next hc fun s => (((s.wr A.hbmTrn die 1).wf (D die) HBM_STATUS_TRAINED 0).wf (D die) HBM_STATUS_DEGRADED 0).wf
      (D die) HBM_STATUS_REPAIRS 0, ?_⟩
    exact training_shows s die _ rfl
  · exact (live_next hc fun s => if s.on A.hbmTrn die then s.trained die repairs.toNat unrepairable else s).trans
      (congrArg _ (if_neg (ne_true_of_eq_false h)))
  · obtain ⟨trained, repaired, degraded, mem, err, own⟩ := trained_trained s die repairs.isLt unrepairable
    refine ⟨_, (live_next hc fun s => if s.on A.hbmTrn die then s.trained die repairs.toNat unrepairable else s).trans
      (congrArg _ (if_pos h)), trained, repaired, fun hu => ?_, fun hu => ?_, byte_trained mem, err, own⟩
    · exact degraded.trans (if_pos hu)
    · exact degraded.trans (if_neg (ne_true_of_eq_false hu))
  · exact live_next hc fun s => s.wf (D die) HBM_STATUS_FILLING 0
  · have write : exec (.ownershipEntryWrite who die val) s = .next (s.ownWrite who die val.toNat) :=
      access_next h _ fun s => s.ownWrite who die val.toNat
    have read : exec (.ownershipEntryRead who die) s = .next (s.ownRead who die) := access_next h _ fun s => s.ownRead who die
    refine ⟨fun hr => ⟨write.trans (congrArg _ (ownAccess_denied hr)), read.trans (congrArg _ (ownAccess_denied hr))⟩, fun hr =>
      ⟨fun hg => ⟨write.trans (congrArg _ (ownAccess_beyond hr hg)), read.trans (congrArg _ (ownAccess_beyond hr hg))⟩, fun hg =>
      ⟨write.trans (congrArg _ (ownAccess_within hr hg)), read.trans (congrArg _ ((ownAccess_within hr hg).trans ?_))⟩⟩⟩
    rw [ownNext_rd]
    rfl

end Sys2Proof.Machine

/-! SUPPORT and CERTIFICATE. Requests to HBM and the L2 (chapter 17, R397, R398, R401 to R408). -/

namespace Sys2Proof.Machine

open Reg

/-! ### Lines and stacks -/

section lines
variable {s : State} {a n : Nat}

theorem szBytes_cases (z : AccSize) : szBytes z = 4 ∨ szBytes z = 8 ∨ szBytes z = 32 ∨ szBytes z = 64 := by
  cases z
  · exact .inl rfl
  · exact .inr (.inl rfl)
  · exact .inr (.inr (.inl rfl))
  · exact .inr (.inr (.inr rfl))

theorem aligned_le (a n : Nat) : a / n * n ≤ a := Nat.div_mul_le_self ..

/-- An access stays in its stack. -/
theorem hbmDie_aligned (z : AccSize) (a : Nat) : hbmDie (a / szBytes z * szBytes z) = hbmDie a := by
  unfold hbmDie stackBytes
  rcases szBytes_cases z with h | h | h | h <;> rw [h] <;> omega

/-- The first byte of a line stands in the line. -/
theorem line_first (a : Nat) : 64 * (a / 64) / 64 = a / 64 := by omega

theorem hbmDie_line (a : Nat) : hbmDie (64 * (a / 64)) = hbmDie a := by
  unfold hbmDie stackBytes
  omega

theorem reachesHbm_line (s : State) (w : Stamp) (a : Nat) : s.reachesHbm w (64 * (a / 64)) = s.reachesHbm w a := by
  have granule : 64 * (a / 64) / 0x200000 = a / 0x200000 := by omega
  cases w with
  | part pid => rw [State.reachesHbm, State.granuleOwner, granule, State.reachesHbm, State.granuleOwner]
  | _ => rfl

theorem pseudoChannel_line (s : State) (a : Nat) : s.pseudoChannel (64 * (a / 64)) = s.pseudoChannel a := by
  unfold State.pseudoChannel stackBytes
  dsimp only
  have low : 64 * (a / 64) % 0xC00000000 / 2 ^ 8 = a % 0xC00000000 / 2 ^ 8 := by omega
  have half : 64 * (a / 64) % 0xC00000000 / 0x180000000 = a % 0xC00000000 / 0x180000000 := by omega
  have within : 64 * (a / 64) % 0xC00000000 % 0x180000000 / 2 ^ 8 = a % 0xC00000000 % 0x180000000 / 2 ^ 8 := by omega
  rw [hbmDie_line, slice, slice, slice, slice, low, half, within]

theorem lineOpen_line (s : State) (a : Nat) : s.lineOpen (64 * (a / 64)) = s.lineOpen a := by
  have area : 64 * (a / 64) % stackBytes / 2 ^ 30 = a % stackBytes / 2 ^ 30 := by unfold stackBytes; omega
  rw [State.lineOpen, State.lineLost, State.lineSaved, pseudoChannel_line, hbmDie_line, line_first, area,
    State.lineOpen, State.lineLost, State.lineSaved]

theorem lineOpen_err (s : State) (i v a : Nat) : (s.wr A.hbmErr i v).lineOpen a = s.lineOpen a := by
  have only : s.Only [A.hbmErr.code] (s.wr A.hbmErr i v) := (State.Only.refl ..).wr _ _ rfl
  rw [State.lineOpen, lineLost_only only rfl rfl (fun a => by rw [State.pseudoChannel, only.regs rfl, State.pseudoChannel]),
    State.lineSaved, only.rd A.saveMade _ rfl, only.rd A.hbmKnown _ rfl, State.lineOpen, State.lineSaved]

/-- Of a line without open contents neither the loss nor the save counts. -/
theorem lineOpen_false (h : s.lineOpen a = false) : s.lineLost a = false ∧ s.lineSaved a = false := by
  simpa only [State.lineOpen, decide_eq_false_iff_not, not_or, Bool.not_eq_true] using h

end lines

/-! ### A read or a write of a line that no L2 holds modified -/

section access
variable {s : State} {a n v : Nat} {w : Stamp}

theorem wakeMem_up (h : s.domOn (hbmDie a) domMem = true) : s.wakeMem a = s := if_pos h

theorem snoopRead_clean {line : Nat} (h : ∀ x ∈ s.l2, x.line = line → x.modified = false) : s.snoopRead line = s := by
  have none : (s.l2.filter fun e => e.line = line ∧ e.modified) = [] :=
    List.filter_eq_nil_iff.2 fun x hx hm => by
      obtain ⟨hl, hm⟩ := of_decide_eq_true hm
      exact absurd ((h x hx hl).symm.trans hm) (by decide)
  rw [State.snoopRead, none, List.foldl_nil]

theorem snoop_absent {line : Nat} (h : ∀ x ∈ s.l2, x.line ≠ line) : s.snoop line = s := by
  have none : (s.l2.filter (·.line = line)) = [] := List.filter_eq_nil_iff.2 fun x hx hm => h x hx (of_decide_eq_true hm)
  rw [State.snoop, none, List.foldl_nil]

/-- A read that needs nothing of the caches. -/
theorem hbmRead_clean (hd : s.domOn (hbmDie a) domMem = true) (h : ∀ x ∈ s.l2, x.line = a / 64 → x.modified = false) :
    (s.rf (D (hbmDie a)) HBM_STATUS_DEGRADED = 1 → s.hbmRead a n = ⟨3, s.bytes a n, s⟩) ∧
    (s.rf (D (hbmDie a)) HBM_STATUS_DEGRADED = 0 → s.lineOpen a = false →
      (s.rd A.hbmErr (a / 64) = 0 → s.hbmRead a n = ⟨0, s.bytes a n, s⟩) ∧
      (s.rd A.hbmErr (a / 64) = 1 → s.hbmRead a n = ⟨0, s.bytes a n, s.noteCe a⟩) ∧
      (s.rd A.hbmErr (a / 64) = 2 → s.hbmRead a n = ⟨3, s.bytes a n, s.noteUe a⟩)) := by
  rw [State.hbmRead, wakeMem_up hd, snoopRead_clean h]
  refine ⟨fun hg => if_pos hg, fun hg ho => ?_⟩
  obtain ⟨lost, saved⟩ := lineOpen_false ho
  dsimp only
  rw [if_neg (by omega), if_neg (ne_true_of_eq_false lost), if_neg (ne_true_of_eq_false saved)]
  exact ⟨fun h => by simp only [h], fun h => by simp only [h], fun h => by simp only [h]⟩

theorem hbmWrite_absent (hd : s.domOn (hbmDie a) domMem = true) (h : ∀ x ∈ s.l2, x.line ≠ a / 64) :
    (s.rf (D (hbmDie a)) HBM_STATUS_DEGRADED = 1 → s.hbmWrite a n v = ⟨3, 0, s⟩) ∧
    (s.rf (D (hbmDie a)) HBM_STATUS_DEGRADED = 0 → s.lineOpen a = false →
      (s.rd A.hbmErr (a / 64) = 2 → n < 64 → s.hbmWrite a n v = ⟨3, 0, s.noteUe a⟩) ∧
      (s.rd A.hbmErr (a / 64) = 0 ∨ n = 64 → s.hbmWrite a n v = ⟨0, 0, (s.wr A.hbmErr (a / 64) 0).putBytes a v n⟩)) := by
  rw [State.hbmWrite, wakeMem_up hd, snoop_absent h]
  refine ⟨fun hg => if_pos hg, fun hg ho => ?_⟩
  dsimp only
  rw [if_neg (by omega)]
  refine ⟨fun he hn => if_pos ⟨hn, he⟩, fun he => ?_⟩
  have shut : ¬ (s.wr A.hbmErr (a / 64) 0).lineOpen a = true := ne_true_of_eq_false ((lineOpen_err ..).trans ho)
  have correct : ¬ (n < 64 ∧ s.rd A.hbmErr (a / 64) = 1) := by omega
  rw [if_neg (by omega), if_neg correct, if_neg shut]

theorem hbmAccess_foreign (ha : a < hbmBytes) (h : s.reachesHbm w a = false) (write : Bool) : s.hbmAccess w write a n v = ⟨1, 0, s⟩ :=
  (if_neg (Nat.not_le.2 ha)).trans (if_pos (ne_true_of_eq_false h))

theorem hbmAccess_own (ha : a < hbmBytes) (h : s.reachesHbm w a = true) (write : Bool) :
    s.hbmAccess w write a n v = if write then s.hbmWrite a n v else s.hbmRead a n :=
  (if_neg (Nat.not_le.2 ha)).trans (if_neg fun hn => hn h)

end access

/-! ### The L2 of a die (R397, R398) -/

section cache
variable {s : State} {a n v die : Nat} {w : Stamp} {e : L2Line}

theorem l2Fetch_foreign (h : s.reachesHbm w a = false) : s.l2Fetch w die (a / 64) = (1, 0, s) :=
  if_pos (by rw [reachesHbm_line, h]; decide)

theorem l2Fetch_held (h : s.reachesHbm w a = true) (he : s.l2Find die (a / 64) = some e) : s.l2Fetch w die (a / 64) = (0, e.data, s) := by
  rw [State.l2Fetch, if_neg (by rw [reachesHbm_line, h]; decide), he]

/-- An L2 that is not full takes the line. -/
theorem l2Put_room {x : L2Line} (h : (s.l2.filter fun y => y.die = x.die).length < 131072) : s.l2Put x = { s with l2 := s.l2 ++ [x] } := by
  unfold State.l2Put
  dsimp only
  split
  · rw [if_neg (by unfold l2Lines; omega)]
  · rfl

theorem l2Fetch_missing (ha : a < hbmBytes) (hr : s.reachesHbm w a = true) (hm : s.l2Find die (a / 64) = none)
    (hd : s.domOn (hbmDie a) domMem = true) (h : ∀ x ∈ s.l2, x.line = a / 64 → x.modified = false)
    (hl : (s.l2.filter fun x => x.die = die).length < 131072) (hg : s.rf (D (hbmDie a)) HBM_STATUS_DEGRADED = 0)
    (ho : s.lineOpen a = false) (he : s.rd A.hbmErr (a / 64) = 0) : s.l2Fetch w die (a / 64) =
    (0, s.bytes (64 * (a / 64)) 64, { s with l2 := s.l2 ++ [⟨die, a / 64, false, s.bytes (64 * (a / 64)) 64⟩] }) := by
  have reach : s.reachesHbm w (64 * (a / 64)) = true := (reachesHbm_line ..).trans hr
  have read : s.hbmRead (64 * (a / 64)) 64 = ⟨0, s.bytes (64 * (a / 64)) 64, s⟩ :=
    ((hbmRead_clean (by rwa [hbmDie_line]) (by rwa [line_first])).2 (by rwa [hbmDie_line]) ((lineOpen_line ..).trans ho)).1
      (by rwa [line_first])
  have fetched : s.hbmAccess w false (64 * (a / 64)) 64 0 = ⟨0, s.bytes (64 * (a / 64)) 64, s⟩ :=
    (hbmAccess_own (by omega) reach false).trans read
  rw [State.l2Fetch, if_neg (fun hn => hn reach), hm]
  dsimp only
  rw [fetched]
  dsimp only
  rw [if_pos rfl, l2Put_room hl]

theorem coreLoad_eq {r d : Nat} {u : State} (h : s.l2Fetch w die (a / 64) = (r, d, u)) :
    s.coreLoad w die a n = ⟨r, slice d (8 * (a % 64)) (8 * n), u⟩ := by
  rw [State.coreLoad, h]

theorem coreStore_eq {r d : Nat} {u : State} (h : s.l2Fetch w die (a / 64) = (r, d, u)) : s.coreStore w die a n v =
    if r ≠ 0 then ⟨r, 0, u⟩ else ⟨0, 0, { u with l2 := (u.l2.filter fun e => ¬ e.line = a / 64) ++
      [⟨die, a / 64, true, patch d (8 * (a % 64)) (8 * n) v⟩] }⟩ := by
  rw [State.coreStore, h]

/-- An invalidation of a line that the L2 holds: modified data go to memory, where the stack takes them (R398, R411). -/
theorem l2Drop_held {line : Nat} {u : State} (he : s.l2Find die line = some e)
    (hu : u = { s with l2 := s.l2.filter fun x => ¬ (x.die = die ∧ x.line = line) }) :
    s.l2Drop die line = if e.modified then u.writeBack line e.data else u := by
  rw [State.l2Drop, show (s.l2.find? fun e => e.die = die ∧ e.line = line) = some e from he, hu]

theorem l2Drop_absent {line : Nat} (he : s.l2Find die line = none) : s.l2Drop die line = s := by
  rw [State.l2Drop, show (s.l2.find? fun e => e.die = die ∧ e.line = line) = none from he]

theorem writeBack_takes {line d : Nat} (hg : s.rf (D (hbmDie (64 * line))) HBM_STATUS_DEGRADED = 0) : s.writeBack line d =
    State.putBytes (if s.lineOpen (64 * line) = true then (s.wr A.hbmErr line 0).wr A.hbmKnown line 1 else s.wr A.hbmErr line 0)
      (64 * line) d 64 := by
  rw [State.writeBack]
  dsimp only
  rw [if_neg (by omega), lineOpen_err]

end cache

/-! ### Requests -/

section requests
variable {s : State} {who : Who} {write : Bool} {addr : BitVec 39} {z : AccSize} {data : BitVec 512} {hint : BitVec 2}

theorem hbmRequest_beyond (h : s.Serving who) (ha : hbmBytes ≤ addr.toNat) :
    exec (.hbmRequest who write addr z data hint) s = .next (s.ans 1 0) :=
  (if_pos ha).trans (access_next h _ State.deny)

/-- The answer of a request, its value cut to its size. -/
def State.hbmAnswer (s : State) (who : Who) (write : Bool) (addr : BitVec 39) (z : AccSize) (data : BitVec 512) : State :=
  (s.hbmReq who write addr.toNat (szBytes z) (data.toNat % 2 ^ (8 * szBytes z))).answer write

theorem hbmRequest_next (h : s.ServingDom who (hbmDie addr.toNat) domMem) (ha : addr.toNat < hbmBytes) :
    exec (.hbmRequest who write addr z data hint) s = .next (s.hbmAnswer who write addr z data) :=
  (if_neg (Nat.not_le.2 ha)).trans (accessDom_next h _ fun s => s.hbmAnswer who write addr z data)

theorem cnRequest_next (h : s.ServingDom who (hbmDie addr.toNat) domMem) (ha : addr.toNat < hbmBytes) :
    exec (.cnRequest who write true addr z data) s = .next (s.hbmAnswer who write addr z data) := by
  have dom : s.domOfReq write true addr.toNat data.toNat (szBytes z) = some (hbmDie addr.toNat, domMem) := if_pos ha
  show s.accessIn who (s.domOfReq write true addr.toNat data.toNat (szBytes z)) _ _ _ = _
  rw [dom]
  exact accessDom_next h _ fun s => s.request who write true addr.toNat z data.toNat

theorem answer_denied (s : State) (d : Nat) (write : Bool) : (⟨1, d, s⟩ : HbmAns).answer write = s.ans 1 0 :=
  congrArg (s.ans 1) (if_pos (.inr rfl))

theorem answer_write (s : State) (r d : Nat) : (⟨r, d, s⟩ : HbmAns).answer true = s.ans r 0 := congrArg (s.ans r) (if_pos (.inl rfl))

theorem answer_read {r : Nat} (h : r ≠ 1) (s : State) (d : Nat) : (⟨r, d, s⟩ : HbmAns).answer false = s.ans r d :=
  congrArg (s.ans r) (if_neg fun hr => hr.elim (by decide) h)

theorem hbmReq_direct (hw : ∀ x y, who ≠ .core x y) {a n v : Nat} (ha : a < hbmBytes) :
    s.hbmReq who write a n v = s.hbmAccess (s.stamp who) write (a / n * n) n v := by
  have within : ¬ hbmBytes ≤ a / n * n := Nat.not_le.2 (lt_of_le_of_lt (aligned_le a n) ha)
  cases who with
  | core x y => exact absurd rfl (hw x y)
  | _ => exact if_neg within

theorem hbmReq_core {die : Fin 8} {core : Fin 32} {a n v : Nat} (ha : a < hbmBytes) : s.hbmReq (.core die core) write a n v =
    if write then s.coreStore (s.stamp (.core die core)) die (a / n * n) n v
    else s.coreLoad (s.stamp (.core die core)) die (a / n * n) n :=
  if_neg (Nat.not_le.2 (lt_of_le_of_lt (aligned_le a n) ha))

end requests

/-- Settles O49: a request is one access of the stack, or of the L2 of the core's die. -/
theorem hbmRequests : Obligations.HbmRequests := by
  unfold Obligations.HbmRequests
  intro s who write addr z data hint die core line e n a v d err direct go
  have hn : n = szBytes z := rfl
  refine ⟨hbmRequest_beyond, fun h ha => ?_, fun hc => ⟨fun he => ?_, fun he u hu => ?_⟩⟩
  · have next : go = .next ((s.hbmReq who write addr.toNat n v).answer write) := hbmRequest_next h ha
    have within : a < hbmBytes := lt_of_le_of_lt (aligned_le ..) ha
    have up : s.domOn (hbmDie a) domMem = true := (congrArg (s.domOn · domMem) (hbmDie_aligned z addr.toNat)).trans h.2
    have through (hw : direct) : go = .next ((s.hbmAccess (s.stamp who) write a n v).answer write) :=
      next.trans (congrArg _ (congrArg (HbmAns.answer · write) (hbmReq_direct hw ha)))
    refine ⟨(cnRequest_next h ha).trans (hbmRequest_next h ha).symm, fun hw hr => ?_, fun hw hr hx => ?_, fun hw hr => ?_,
      fun hw hr hm hf hx hl hg ho he w hv => ?_, fun hw hr hf => ?_⟩
    · exact (through hw).trans (congrArg _ ((congrArg (HbmAns.answer · write) (hbmAccess_foreign within hr write)).trans (answer_denied ..)))
    · have own := (through hw).trans (congrArg _ (congrArg (HbmAns.answer · write) (hbmAccess_own within hr write)))
      have clean : ∀ x ∈ s.l2, x.line = a / 64 → x.modified = false := fun x hm hl => (hx x hm hl).2
      have absent (ht : write = true) : ∀ x ∈ s.l2, x.line ≠ a / 64 := fun x hm hl => absurd ((hx x hm hl).1.symm.trans ht) (by decide)
      obtain ⟨readBad, readGood⟩ := hbmRead_clean (n := n) up clean
      have reads (ht : write = false) : go = .next ((s.hbmRead a n).answer false) := own.trans (by rw [ht]; rfl)
      have writes (ht : write = true) : go = .next ((s.hbmWrite a n v).answer true) := own.trans (by rw [ht]; rfl)
      have answers {r : HbmAns} (hr : s.hbmRead a n = r) : (s.hbmRead a n).answer false = r.answer false := congrArg (HbmAns.answer · false) hr
      have stored (ht : write = true) {r : HbmAns} (hr : s.hbmWrite a n v = r) : go = .next (r.answer true) :=
        (writes ht).trans (congrArg _ (congrArg (HbmAns.answer · true) hr))
      refine ⟨fun hg ht => ?_, fun hg ht => ?_, fun hg ho => ⟨fun ht he => ?_, fun ht he => ?_, fun ht he => ?_, fun ht he hn => ?_, fun ht he => ?_⟩⟩
      · exact (stored ht ((hbmWrite_absent up (absent ht)).1 hg)).trans (congrArg _ (answer_write ..))
      · exact (reads ht).trans (congrArg _ ((answers (readBad hg)).trans (answer_read (by decide) ..)))
      · exact (reads ht).trans (congrArg _ ((answers ((readGood hg ho).1 he)).trans (answer_read (by decide) ..)))
      · exact (reads ht).trans (congrArg _ ((answers ((readGood hg ho).2.1 he)).trans (answer_read (by decide) ..)))
      · exact (reads ht).trans (congrArg _ ((answers ((readGood hg ho).2.2 he)).trans (answer_read (by decide) ..)))
      · exact (stored ht (((hbmWrite_absent up (absent ht)).2 hg ho).1 he hn)).trans (congrArg _ (answer_write ..))
      · exact (stored ht (((hbmWrite_absent up (absent ht)).2 hg ho).2 he)).trans (congrArg _ (answer_write ..))
    · subst hw
      have cached := next.trans (congrArg _ (congrArg (HbmAns.answer · write) (hbmReq_core ha)))
      refine cached.trans (congrArg _ ?_)
      cases write with
      | true => exact (congrArg (HbmAns.answer · true) ((coreStore_eq (l2Fetch_foreign hr)).trans (if_pos (by decide)))).trans (answer_denied ..)
      | false => exact (congrArg (HbmAns.answer · false) (coreLoad_eq (l2Fetch_foreign hr))).trans (answer_denied ..)
    · subst hw
      have fetched := l2Fetch_missing within hr hm up hx hl hg ho he
      have cached := next.trans (congrArg _ (congrArg (HbmAns.answer · write) (hbmReq_core ha)))
      have loads := (congrArg (HbmAns.answer · false) (coreLoad_eq (n := n) fetched)).trans (answer_read (by decide) ..)
      refine cached.trans (congrArg _ ?_)
      rw [hf, hv]
      exact loads
    · subst hw
      have fetched := l2Fetch_held hr hf
      have cached := next.trans (congrArg _ (congrArg (HbmAns.answer · write) (hbmReq_core ha)))
      refine ⟨fun ht => ?_, fun ht => ?_⟩
      · subst ht
        exact cached.trans (congrArg _ ((congrArg (HbmAns.answer · false) (coreLoad_eq fetched)).trans (answer_read (by decide) ..)))
      · subst ht
        exact cached.trans (congrArg _ ((congrArg (HbmAns.answer · true) ((coreStore_eq fetched).trans (if_neg (by decide)))).trans
          (answer_write ..)))
  · exact (live_next hc fun s => s.l2Drop die line.toNat).trans (congrArg _ (l2Drop_absent he))
  · have dropped := (live_next hc fun s => s.l2Drop die line.toNat).trans (congrArg _ (l2Drop_held he hu))
    subst hu
    refine ⟨fun hm => dropped.trans (congrArg _ (if_neg (ne_true_of_eq_false hm))), fun hm l hl => ?_⟩
    subst hl
    refine ⟨fun hg => ?_, fun hg => ?_⟩
    · exact dropped.trans (congrArg _ ((if_pos hm).trans (if_pos hg)))
    · exact dropped.trans (congrArg _ ((if_pos hm).trans (writeBack_takes hg)))

end Sys2Proof.Machine

/-! SUPPORT and CERTIFICATE. The control network: requests, responses, timers and routes (chapter 16, R385 to R399). -/

namespace Sys2Proof.Machine

open Reg

/-! ### What a request sends (R386, R395) -/

section sending
variable {s t : State} {o : Outst} {x a : Nat}

theorem nextGen_only (s : State) (x : Nat) : s.Only [A.cnGen.code, A.cnStale.code] (s.nextGen x) := by
  unfold State.nextGen
  split
  · exact ((State.Only.refl _ s).wr _ _ rfl).wr _ _ rfl
  · exact .refl _ s

theorem nextGen_core (s : State) (x : Nat) : (s.nextGen x).core = s.core := by
  unfold State.nextGen
  split
  · exact (core_wr ..).trans (core_wr ..)
  · rfl

theorem nextGen_rsp (s : State) (x : Nat) : (s.nextGen x).rsp = s.rsp := by
  unfold State.nextGen
  split <;> rfl

theorem nextGen_gen (s : State) (x : Nat) :
    (s.nextGen x).rd A.cnGen x = (s.rd A.cnGen x + if s.on A.cnStale x then 1 else 0) % 2 ^ A.cnGen.width := by
  unfold State.nextGen
  split
  · rw [State.rd_wr_arr _ _ _ _ _ _ (by decide), State.rd_wr_same]
  · exact (State.rd_mod ..).symm

theorem nextGen_stale (s : State) (x : Nat) : (s.nextGen x).on A.cnStale x = false := by
  unfold State.nextGen
  split
  case isTrue h => exact decide_eq_false (by rw [State.rd_wr_same]; decide)
  case isFalse h => exact eq_false_of_ne_true h

/-- The request as it is outstanding once it, or its next part, has its buffer or waits for one. -/
def State.nextOf (s : State) (o : Outst) : Outst :=
  { o with gen := (s.rd A.cnGen (tagIx o.die o.ni o.tag) + if s.on A.cnStale (tagIx o.die o.ni o.tag) then 1 else 0) % 2 ^ A.cnGen.width,
           sent := s.bufferFree o.die o.ni o.at_ }

/-- The state with the request outstanding. -/
def State.queued (s : State) (o : Outst) : State := { s.nextGen (tagIx o.die o.ni o.tag) with outst := s.outst ++ [s.nextOf o] }

theorem State.Only.chainAddr {codes : List Nat} (h : s.Only codes t) (h0 : codes.contains 0 = false) : t.chainAddr = s.chainAddr :=
  h.regs h0 ..

theorem outstSend_eq (s : State) (o : Outst) :
    s.outstSend o = if (s.nextOf o).sent then (s.queued o).netPacket (s.nextOf o) else s.queued o := by
  have only := nextGen_only s (tagIx o.die o.ni o.tag)
  have outst := outst_of_core (nextGen_core s (tagIx o.die o.ni o.tag))
  have free : (s.nextGen (tagIx o.die o.ni o.tag)).bufferFree o.die o.ni o.at_ = s.bufferFree o.die o.ni o.at_ := by
    rw [State.bufferFree, only.chainAddr rfl, outst, State.bufferFree]
  unfold State.outstSend State.queued State.nextOf
  dsimp only
  rw [free, nextGen_gen, outst]

theorem netPacket_arr (s : State) (o : Outst) : ∃ l, s.netPacket o = { s with netOut := l } := by
  unfold State.netPacket
  split
  · exact ⟨s.netOut, rfl⟩
  · exact ⟨_, rfl⟩

theorem on_netOut (s : State) (l : List NetPkt) (a : Arr) (i : Nat) : State.on { s with netOut := l } a i = s.on a i := rfl

theorem netPacket_netOut {codes : List Nat} (h : s.Only codes t) (h0 : codes.contains 0 = false) (hn : t.netOut = s.netOut) (o : Outst) :
    (t.netPacket o).netOut = (s.netPacket o).netOut := by
  unfold State.netPacket
  rw [h.chainAddr h0]
  split
  · exact hn
  · rw [hn]

/-- What stands once a request, or its next part, is outstanding. -/
structure State.Sends (s t : State) (o : Outst) : Prop where
  outst : t.outst = s.outst ++ [s.nextOf o]
  stale : t.on A.cnStale (tagIx o.die o.ni o.tag) = false
  rsp : t.rsp = s.rsp
  mem : t.mem = s.mem
  net : t.netOut = (if (s.nextOf o).sent then s.netPacket (s.nextOf o) else s).netOut

theorem outstSend_sends (s : State) (o : Outst) : s.Sends (s.outstSend o) o := by
  have core := nextGen_core s (tagIx o.die o.ni o.tag)
  have only : s.Only [A.cnGen.code, A.cnStale.code] (s.queued o) := (nextGen_only s (tagIx o.die o.ni o.tag)).update (by rfl)
  rw [outstSend_eq]
  obtain ⟨l, hl⟩ := netPacket_arr (s.queued o) (s.nextOf o)
  have net : (s.queued o).netOut = s.netOut := (congrArg State.netOut core : (s.nextGen _).core.netOut = s.core.netOut)
  have mem : (s.queued o).mem = s.mem := (mem_of_core core : (s.nextGen _).mem = s.mem)
  have stale : (s.queued o).on A.cnStale (tagIx o.die o.ni o.tag) = false := nextGen_stale ..
  refine ⟨?_, ?_, ?_, ?_, ?_⟩
  · split
    · rw [hl]; rfl
    · rfl
  · split
    · rw [hl, on_netOut]; exact stale
    · exact stale
  · split
    · rw [hl]; exact nextGen_rsp ..
    · exact nextGen_rsp ..
  · split
    · rw [hl]; exact mem
    · exact mem
  · split
    · exact netPacket_netOut only rfl net _
    · exact net

end sending

/-! ### Free values and errors -/

/-- `t` is `s` after values that are free have been taken (log 9). -/
def State.Freed (s t : State) : Prop := ∃ c, t = { s with freeCtr := c }

section freed
variable {s t : State}

theorem State.Freed.refl (s : State) : s.Freed s := ⟨s.freeCtr, rfl⟩

theorem free_freed (s : State) (w : Nat) : s.Freed (s.free w).2 := ⟨_, rfl⟩

theorem State.Freed.only (h : s.Freed t) : s.Only [] t := by
  obtain ⟨c, rfl⟩ := h
  exact (State.Only.refl _ s).update (by rfl)

theorem State.Freed.trans {u : State} (h : s.Freed t) (h' : t.Freed u) : s.Freed u := by
  obtain ⟨c, rfl⟩ := h
  obtain ⟨d, rfl⟩ := h'
  exact ⟨d, rfl⟩

theorem stampCode_freed (s : State) (p : Stamp) : s.Freed (s.stampCode p).2 := by
  cases p with
  | nobody => exact free_freed s 8
  | _ => exact .refl s

theorem niStamp_freed (s : State) (die ni : Nat) : s.Freed (s.niStamp die ni).2 := by
  unfold State.niStamp
  split
  · exact stampCode_freed ..
  split
  · exact free_freed s 8
  split
  · dsimp only
    split
    · exact (free_freed s 2).trans (free_freed _ 8)
    · exact free_freed s 2
  · exact .refl s

theorem niStamp_fixed (s : State) (die : Nat) {ni : Nat} (h : ni = 41 ∨ ni = 46) : (s.niStamp die ni).1 = (0, 0) := by
  rcases h with rfl | rfl <;> rfl

theorem niStamp_boot (s : State) (die : Nat) : (s.niStamp die 44).1 = (2, 0) := rfl

theorem niStamp_core (s : State) (die : Fin 8) (c : Fin 32) :
    s.niStamp die c = s.stampCode (s.stamp (.core die c)) := by
  have hd : (⟨die.val % 8, by omega⟩ : Fin 8) = die := Fin.ext (Nat.mod_eq_of_lt die.isLt)
  have hc : (⟨c.val % 32, by omega⟩ : Fin 32) = c := Fin.ext (Nat.mod_eq_of_lt c.isLt)
  rw [State.niStamp, if_pos c.isLt, hd, hc]

theorem linkDown_freed (s : State) (a : Nat) : s.Freed (s.linkDown a).2 := by
  unfold State.linkDown
  split
  · exact .refl s
  split
  · exact .refl s
  split
  · exact .refl s
  · exact free_freed s 1

theorem linkDown_down {a : Nat} (hf : slice a 40 12 ≠ s.chainAddr)
    (h : s.rd A.enCount 0 ≤ slice a 40 12 ∨ ∀ p < 16, s.portUp p = false) : s.linkDown a = (true, s) := by
  refine (if_neg hf).trans (if_pos (h.imp_right fun hp hany => ?_))
  obtain ⟨p, hm, hu⟩ := List.any_eq_true.1 hany
  exact absurd ((hp p (List.mem_range.1 hm)).symm.trans hu) (by decide)

theorem linkDown_up {a : Nat} (h : slice a 40 12 = s.chainAddr ∨ slice a 40 12 < s.rd A.enCount 0 ∧ ∀ p < 16, s.portUp p = true) :
    s.linkDown a = (false, s) := by
  rcases h with h | ⟨hc, hp⟩
  · exact if_pos h
  · have all : ((List.range 16).all fun p => s.portUp p) = true := List.all_eq_true.2 fun p hm => hp p (List.mem_range.1 hm)
    have any : ((List.range 16).any fun p => s.portUp p) = true := List.any_eq_true.2 ⟨0, List.mem_range.2 (by decide), hp 0 (by decide)⟩
    by_cases hf : slice a 40 12 = s.chainAddr
    · exact if_pos hf
    · exact (if_neg hf).trans ((if_neg fun h => h.elim (Nat.not_le.2 hc) fun h => h any).trans (if_pos all))

theorem cnt_freeCtr (s : State) (c b : Nat) (f : Fld) (n : Nat) :
    State.cnt { s with freeCtr := c } b f n = { s.cnt b f n with freeCtr := c } := rfl

theorem cnt_keeps (s : State) (b : Nat) (f : Fld) (n : Nat) : (s.cnt b f n).freeCtr = s.freeCtr := rfl

theorem record_freeCtr (u : State) (c e n a st r : Nat) :
    { ((State.cnRecord { u with freeCtr := c } e n a st).ans r 0 : State) with freeCtr := u.freeCtr } = (u.cnRecord e n a st).ans r 0 := rfl

theorem cnRecord_eq (s : State) (e n a st : Nat) : s.cnRecord e n a st =
    (s.wr A.reg (D e + oCN_ERR_ADDR_LO) (a + 2 ^ 52 * n + 2 ^ 58 * st)).wr A.reg (D e + oCN_ERR_ADDR_LO + 4)
      ((a + 2 ^ 52 * n + 2 ^ 58 * st) / 2 ^ 32) := rfl

theorem answerNoRoute_record (s : State) (e n a : Nat) : s.answerNoRoute (e, n) a =
    ((s.cnt (D e) CN_ERR_NO_ROUTE 1).cnRecord e n a 5).ans 5 0 := rfl

theorem answerNoRoute_eq (s : State) (e n a : Nat) : s.answerNoRoute (e, n) a =
    (((s.cnt (D e) CN_ERR_NO_ROUTE 1).wr A.reg (D e + oCN_ERR_ADDR_LO) (a + 2 ^ 52 * n + 2 ^ 58 * 5)).wr A.reg
      (D e + oCN_ERR_ADDR_LO + 4) ((a + 2 ^ 52 * n + 2 ^ 58 * 5) / 2 ^ 32)).ans 5 0 := by
  rw [answerNoRoute_record, cnRecord_eq]

theorem cnErr_eq (s : State) (e n a st : Nat) : s.cnErr e n a st =
    ((s.wr A.reg (D e + oCN_ERR_ADDR_LO) (a + 2 ^ 52 * n + 2 ^ 58 * st)).wr A.reg (D e + oCN_ERR_ADDR_LO + 4)
      ((a + 2 ^ 52 * n + 2 ^ 58 * st) / 2 ^ 32)).ans st 0 := rfl

theorem cnErr_outst (s : State) (e n a st : Nat) : (s.cnErr e n a st).outst = s.outst := rfl

theorem freed_down (hu : s.Freed t) {a : Nat} (hf : slice a 40 12 ≠ s.chainAddr)
    (h : s.rd A.enCount 0 ≤ slice a 40 12 ∨ ∀ p < 16, s.portUp p = false) : (t.linkDown a).1 = true := by
  obtain ⟨c, rfl⟩ := hu
  exact congrArg Prod.fst (linkDown_down (s := { s with freeCtr := c }) hf h)

theorem freed_up (hu : s.Freed t) {a : Nat}
    (h : slice a 40 12 = s.chainAddr ∨ slice a 40 12 < s.rd A.enCount 0 ∧ ∀ p < 16, s.portUp p = true) : (t.linkDown a).1 = false := by
  obtain ⟨c, rfl⟩ := hu
  exact congrArg Prod.fst (linkDown_up (s := { s with freeCtr := c }) h)

theorem cnErr_freed (h : s.Freed t) (e n a st : Nat) : { t.cnErr e n a st with freeCtr := s.freeCtr } = s.cnErr e n a st := by
  obtain ⟨c, rfl⟩ := h
  rfl

theorem answerNoRoute_freed (h : s.Freed t) (x : Nat × Nat) (a : Nat) :
    { t.answerNoRoute x a with freeCtr := s.freeCtr } = s.answerNoRoute x a := by
  obtain ⟨c, rfl⟩ := h
  obtain ⟨e, n⟩ := x
  rw [answerNoRoute_record, answerNoRoute_record, cnt_freeCtr, ← cnt_keeps s (D e) CN_ERR_NO_ROUTE 1]
  exact record_freeCtr ..

end freed

/-! ### REQUEST_SEND (R388, R391, R395) -/

section requests
variable {s t u : State} {die ni tag size a data : Nat} {write : Bool} {o : Outst} {id : Nat × Nat}

/-- A request as it is first outstanding. -/
def freshOutst (die ni tag : Nat) (id : Nat × Nat) (write : Bool) (size a data : Nat) : Outst :=
  { die := die, ni := ni, tag := tag, gen := 0, addr := a, write := write, size := size, step := partBytes size a, data := data, done := 0,
    st := 0, got := 0, far := 0, lo := 0, idkind := id.1, pid := id.2, sent := false, dead := false, elapsed := 0, paused := false,
    pauseTicks := 0 }

/-- A request of a free tag, with the identity that the NI writes. -/
def State.sendNew (u : State) (die ni tag : Nat) (id : Nat × Nat) (write : Bool) (size a data : Nat) : State :=
  match u.noRoute die ni a with
  | some x => u.answerNoRoute x a
  | none => if (u.linkDown a).1 then (u.linkDown a).2.cnErr die ni a 6
      else (u.linkDown a).2.outstSend (freshOutst die ni tag id write size a data)

theorem cnSend_other (h : initiatorNi die ni = false) : s.cnSend die ni tag write size a data = s := by
  rw [State.cnSend, if_neg (by rw [h]; exact fun h => Bool.false_ne_true h.1), State.cnSendAs, if_pos (by rw [h]; decide)]

theorem cnSend_outst (h : initiatorNi die ni = true) (ho : s.outstOf die ni tag = some o) : s.cnSend die ni tag write size a data =
    if o.sent = true ∨ ¬ s.bufferFree die ni o.at_ = true then s
    else State.netPacket { s with outst := s.outst.map fun x => if x = o then { o with sent := true } else x } o := by
  rw [State.cnSend, ho, if_neg (fun h => Bool.false_ne_true h.2), State.cnSendAs, if_neg (by rw [h]; decide), ho]

theorem cnSendAs_new (h : initiatorNi die ni = true) (ho : u.outstOf die ni tag = none) :
    u.cnSendAs die ni tag id write size a data 0 0 = u.sendNew die ni tag id write size a data := by
  rw [State.cnSendAs, if_neg (by rw [h]; decide), ho, State.sendNew]
  dsimp only
  cases u.noRoute die ni a with
  | some x => exact if_pos rfl
  | none =>
    dsimp only
    split
    · exact if_pos rfl
    · rfl

theorem State.Freed.outstOf (h : s.Freed u) (die ni tag : Nat) : u.outstOf die ni tag = s.outstOf die ni tag := by
  obtain ⟨c, rfl⟩ := h
  rfl

theorem cnSend_new (h : initiatorNi die ni = true) (ho : s.outstOf die ni tag = none) : s.cnSend die ni tag write size a data =
    (s.niStamp die ni).2.sendNew die ni tag (s.niStamp die ni).1 write size a data := by
  rw [State.cnSend, ho, if_pos ⟨h, rfl⟩]
  exact cnSendAs_new h (((niStamp_freed ..).outstOf ..).trans ho)

theorem State.Freed.noRoute (h : s.Freed u) (die ni a : Nat) : u.noRoute die ni a = s.noRoute die ni a := by
  obtain ⟨c, rfl⟩ := h
  rfl

theorem State.Freed.sends (h : s.Freed u) (ht : u.Sends t o) : s.Sends t o := by
  have only := h.only
  have net := netPacket_netOut only rfl (by obtain ⟨c, rfl⟩ := h; rfl)
  have next : u.nextOf o = s.nextOf o := by obtain ⟨c, rfl⟩ := h; rfl
  obtain ⟨outst, stale, rsp, mem, netOut⟩ := ht
  rw [next] at outst netOut
  refine ⟨outst.trans ?_, stale, rsp.trans ?_, mem.trans ?_, netOut.trans ?_⟩
  · obtain ⟨c, rfl⟩ := h; rfl
  · obtain ⟨c, rfl⟩ := h; rfl
  · obtain ⟨c, rfl⟩ := h; rfl
  · split
    · exact net _
    · obtain ⟨c, rfl⟩ := h; rfl

theorem sendNew_noRoute (hu : s.Freed u) {x : Nat × Nat} (h : s.noRoute die ni a = some x) :
    { u.sendNew die ni tag id write size a data with freeCtr := s.freeCtr } = s.answerNoRoute x a := by
  rw [State.sendNew, hu.noRoute, h]
  exact answerNoRoute_freed hu x a

theorem sendNew_down (hu : s.Freed u) (h : s.noRoute die ni a = none) (hl : (u.linkDown a).1 = true) :
    { u.sendNew die ni tag id write size a data with freeCtr := s.freeCtr } = s.cnErr die ni a 6 := by
  rw [State.sendNew, hu.noRoute, h, hl]
  exact cnErr_freed (hu.trans (linkDown_freed ..)) ..

theorem sendNew_goes (hu : s.Freed u) (h : s.noRoute die ni a = none) (hl : (u.linkDown a).1 = false) :
    s.Sends (u.sendNew die ni tag id write size a data) (freshOutst die ni tag id write size a data) := by
  rw [State.sendNew, hu.noRoute, h, hl]
  exact (hu.trans (linkDown_freed ..)).sends (outstSend_sends ..)

/-- What the statement shows of a request that goes out, and the identity that it carries (R392). -/
theorem sends_fresh {die : Fin 8} {ni : Fin 64} (h : s.Sends t (freshOutst die ni tag (s.niStamp die ni).1 write size a data)) :
    t.on A.cnStale (tagIx die ni tag) = false ∧ t.rsp = s.rsp ∧ t.mem = s.mem ∧ ∃ kind pid, ∃ y : Outst,
     y = ⟨die, ni, tag, (s.rd A.cnGen (tagIx die ni tag) + if s.on A.cnStale (tagIx die ni tag) then 1 else 0) % 2 ^ A.cnGen.width, a, write,
       size, partBytes size a, data, 0, 0, 0, 0, 0, kind, pid, s.bufferFree die ni a, false, 0, false, 0⟩ ∧ t.outst = s.outst ++ [y] ∧
     t.netOut = (if y.sent then s.netPacket y else s).netOut ∧
     (ni.val = 41 ∨ ni.val = 46 → kind = 0 ∧ pid = 0) ∧ (ni.val = 44 → kind = 2 ∧ pid = 0) ∧
     ∀ c : Fin 32, c.val = ni.val → (s.stamp (.core die c) = .pf → kind = 0) ∧ ∀ p, s.stamp (.core die c) = .part p → kind = 1 ∧ pid = p := by
  obtain ⟨outst, stale, rsp, mem, net⟩ := h
  refine ⟨stale, rsp, mem, (s.niStamp die ni).1.1, (s.niStamp die ni).1.2, _, rfl, outst, net, fun hn => ?_, fun hn => ?_, fun c hc => ?_⟩
  · rw [niStamp_fixed s die hn]
    exact ⟨rfl, rfl⟩
  · rw [hn, niStamp_boot]
    exact ⟨rfl, rfl⟩
  · rw [← hc, niStamp_core]
    refine ⟨fun hs => ?_, fun p hs => ?_⟩
    · rw [hs]
      rfl
    · rw [hs]
      exact ⟨rfl, rfl⟩

end requests

/-! ### Responses and timeouts (R387, R395) -/

section responses
variable {s t : State} {die ni tag gen st m v : Nat} {o : Outst}

/-- The request that answers to a tag is of that tag. -/
theorem outstOf_tag (h : s.outstOf die ni tag = some o) : o.die = die ∧ o.ni = ni ∧ o.tag = tag ∧ o.dead = false := by
  have found := List.find?_some h
  obtain ⟨hd, hn, ht, hl⟩ := of_decide_eq_true found
  exact ⟨hd, hn, ht, eq_false_of_ne_true hl⟩

theorem cnResp_late (h : ∀ o, s.outstOf die ni tag = some o → o.sent = false ∨ o.gen ≠ gen) :
    s.cnResp die ni tag gen st m v = s.lateResp die ni tag gen := by
  rw [State.cnResp]
  cases ho : s.outstOf die ni tag with
  | none => rfl
  | some o => exact if_neg fun ⟨hs, hg⟩ => (h o ho).elim (fun h => absurd (h.symm.trans hs) (by decide)) fun h => h hg

theorem cnResp_named (ho : s.outstOf die ni tag = some o) (hs : o.sent = true) (hg : o.gen = gen) : s.cnResp die ni tag gen st m v =
    if st = 6 then ((s.outstDrop o).releaseHeld.cnErr die ni o.at_ 6).answered o 6 0 0
    else (s.outstDrop o).releaseHeld.answered o st m v := by
  rw [State.cnResp, ho]
  exact if_pos ⟨hs, hg⟩

/-- The status and the data of a request with one part more. -/
def Outst.firstSt (o : Outst) (st : Nat) : Nat := if o.st = 0 then st else o.st

theorem answered_last (h : o.size ≤ o.done + o.step) : s.answered o st m v =
    if o.far = 0 then { s with rsp := ⟨o.firstSt st, o.got + 2 ^ (8 * o.done) * v, m⟩ }
    else s.farPart (o.far - 1) o.lo (o.firstSt st) (o.got + 2 ^ (8 * o.done) * v) := by
  refine (if_neg (by omega)).trans ?_
  by_cases hf : o.far = 0
  · exact (if_neg (not_not_intro hf)).trans (if_pos hf).symm
  · exact (if_pos hf).trans (if_neg hf).symm

/-- The next part of a request. -/
def Outst.part (o : Outst) (st v : Nat) : Outst :=
  { o with done := o.done + o.step, st := o.firstSt st, got := o.got + 2 ^ (8 * o.done) * v, dead := false, elapsed := 0, paused := false,
           pauseTicks := 0 }

theorem answered_more (h : ¬ o.size ≤ o.done + o.step) : s.Sends (s.answered o st m v) (o.part st v) := by
  have more : s.answered o st m v = s.outstSend (o.part st v) := if_pos (by omega)
  rw [more]
  exact outstSend_sends ..

theorem cnTimeout_waits (h : o.paused = true ∨ o.elapsed < s.cnLimit die o.addr) (ho : s.outstOf die ni tag = some o) :
    s.cnTimeout die ni tag = s := by
  rw [State.cnTimeout, ho]
  exact if_pos h

theorem releaseHeld_rsp (s : State) : s.releaseHeld.rsp = s.rsp := by
  unfold State.releaseHeld
  split <;> rfl

/-- The state in which a request has timed out. -/
def State.timedOutAt (s : State) (die ni tag : Nat) (o : Outst) : State :=
  (((if o.sent = true then { s with outst := s.outst.map fun x => if x = o then { o with dead := true } else x }
    else { s with outst := s.outst.erase o } : State).wr A.cnStale (tagIx die ni tag) 1).cnt (D die) CN_ERR_TIMEOUTS 1).releaseHeld

theorem timedOutAt_only (s : State) (die ni tag : Nat) (o : Outst) : s.Only [0, A.cnStale.code] (s.timedOutAt die ni tag o) := by
  have dead : s.Only [0, A.cnStale.code] (if o.sent = true then { s with outst := s.outst.map fun x => if x = o then { o with dead := true } else x }
      else { s with outst := s.outst.erase o } : State) := by
    split
    · exact (State.Only.refl _ s).update (by rfl)
    · exact (State.Only.refl _ s).update (by rfl)
  exact ((dead.wr (a := A.cnStale) _ _ rfl).cnt (D die) CN_ERR_TIMEOUTS 1 rfl).step (releaseHeld_only _) rfl

theorem cnTimeout_due (hp : o.paused = false) (he : s.cnLimit die o.addr ≤ o.elapsed) (ho : s.outstOf die ni tag = some o) :
    s.cnTimeout die ni tag = ((s.timedOutAt die ni tag o).cnErr die ni o.at_ 4).answered o 4 0 0 := by
  rw [State.cnTimeout, ho]
  exact if_neg fun h => h.elim (fun h => absurd (hp.symm.trans h) (by decide)) (Nat.not_lt.2 he)

theorem cnTimeout_none (ho : s.outstOf die ni tag = none) : s.cnTimeout die ni tag = s := by
  rw [State.cnTimeout, ho]

theorem setPause_eq (p : Outst → Bool) (q : Outst → Prop) [DecidablePred q] (b : Bool)
    (hq : ∀ o : Outst, (o.die = die ∧ o.ni = ni ∧ o.tag = tag ∧ ¬ o.dead = true ∧ p o = true) ↔ q o) :
    s.setPause die ni tag p b = { s with outst := s.outst.map fun o => if q o then { o with paused := b } else o } := by
  have same (l : List Outst) : (l.map fun o => if o.die = die ∧ o.ni = ni ∧ o.tag = tag ∧ ¬ o.dead = true ∧ p o = true then { o with paused := b }
      else o) = l.map fun o => if q o then { o with paused := b } else o :=
    List.map_congr_left fun o _ => if_congr (hq o) rfl rfl
  rw [State.setPause, same]

/-- The next part of a request that a tag names. -/
theorem nextOf_part {u : State} (ho : s.outstOf die ni tag = some o)
    (hg : u.rd A.cnGen (tagIx die ni tag) = s.rd A.cnGen (tagIx die ni tag)) : u.nextOf (o.part st v) = { o with
      gen := (s.rd A.cnGen (tagIx die ni tag) + if u.on A.cnStale (tagIx die ni tag) then 1 else 0) % 2 ^ A.cnGen.width,
      done := o.done + o.step, st := o.firstSt st, got := o.got + 2 ^ (8 * o.done) * v,
      sent := u.bufferFree die ni (o.addr + o.done + o.step), dead := false, elapsed := 0, paused := false, pauseTicks := 0 } := by
  obtain ⟨hd, hn, ht, -⟩ := outstOf_tag ho
  unfold State.nextOf Outst.part Outst.at_
  dsimp only
  rw [hd, hn, ht, hg, ← Nat.add_assoc]

theorem cnErr_next (u : State) (e n a st : Nat) (o : Outst) : (u.cnErr e n a st).nextOf o = u.nextOf o := by
  have away {x : Nat} (hx : x < 0x1000) (y : Nat) : D e + y ≠ x := by
    have := D_base e
    omega
  have regs (x : Nat) (hx : x < 0x1000) : (u.cnErr e n a st).reg x = u.reg x := by
    rw [State.cnErr, cnRecord_eq, State.reg_ans]
    exact (State.rd_wr_ix _ _ _ _ _ (by have := away hx oCN_ERR_ADDR_LO; have := away hx (oCN_ERR_ADDR_LO + 4); omega)).trans
      (State.rd_wr_ix _ _ _ _ _ (away hx _))
  have only : u.Only [0] (u.cnErr e n a st) :=
    (((State.Only.refl [0] u).wr (a := A.reg) _ _ rfl).wr (a := A.reg) _ _ rfl).update (by rfl)
  have chain : (u.cnErr e n a st).chainAddr = u.chainAddr := by
    rw [State.chainAddr, State.rf, regs _ (by decide), State.chainAddr, State.rf]
  have outst : (u.cnErr e n a st).outst = u.outst := rfl
  rw [State.nextOf, only.rd A.cnGen _ rfl, State.on, only.rd A.cnStale _ rfl, State.bufferFree, chain, outst, State.nextOf, State.on,
    State.bufferFree]

end responses

/-! ### Route tables (R399) -/

section routes
variable {s : State} {who : Who} {d : Nat}

/-- An entry that the table does not have, or a path that it does not take (R399). -/
def State.routeBad (s : State) (d : Nat) (write : Bool) : Prop := initiatorNi d (s.rf (D d) CN_ROUTE_LOC_NI) = false ∨
  write = true ∧ (s.rf (D d) CN_ROUTE_PATH_HOPS = 0 ∨ 9 < s.rf (D d) CN_ROUTE_PATH_HOPS)

theorem routeEntry_denied (h : s.pfRights who = false) (write : Bool) :
    s.routeEntry who d write = (s.wf (D d) CN_ROUTE_CMD_RESULT 2).ans 1 0 := if_pos (ne_true_of_eq_false h)

theorem routeEntry_bad (h : s.pfRights who = true) {write : Bool} (hb : s.routeBad d write) :
    s.routeEntry who d write = (s.wf (D d) CN_ROUTE_CMD_RESULT 3).ans 0 0 :=
  (if_neg fun hn => hn h).trans (if_pos (hb.imp_left ne_true_of_eq_false))

/-- The entry that CN_ROUTE_LOC names. -/
def State.routeAt (s : State) (d : Nat) : Nat := routeIx d (s.rf (D d) CN_ROUTE_LOC_NI) (s.rf (D d) CN_ROUTE_LOC_ENTRY)

/-- The registers that show an entry. -/
def State.routeShown (s : State) (d x : Nat) : State :=
  ((s.wr A.reg (D d + oCN_ROUTE_MATCH) (s.routeMatchReg x)).wr A.reg (D d + oCN_ROUTE_MASK) (s.routeMaskReg x)).wr A.reg
    (D d + oCN_ROUTE_PATH) (s.routePathReg x)

theorem routeEntry_good (h : s.pfRights who = true) {write : Bool} (hb : ¬ s.routeBad d write) : s.routeEntry who d write =
    if write then ((((((s.wf (D d) CN_ROUTE_CMD_RESULT 0).wr A.cnMatch (s.routeAt d) ((s.wf (D d) CN_ROUTE_CMD_RESULT 0).reg (D d + oCN_ROUTE_MATCH))).wr
      A.cnMask (s.routeAt d) ((s.wf (D d) CN_ROUTE_CMD_RESULT 0).reg (D d + oCN_ROUTE_MASK))).wr A.cnPath (s.routeAt d)
        ((s.wf (D d) CN_ROUTE_CMD_RESULT 0).reg (D d + oCN_ROUTE_PATH))).wr A.cnSet (s.routeAt d) 1).ans 0 0)
    else ((s.wf (D d) CN_ROUTE_CMD_RESULT 0).routeShown d (s.routeAt d)).ans 0 0 :=
  (if_neg fun hn => hn h).trans (if_neg fun hx => hb (hx.imp_left eq_false_of_ne_true))

theorem routeResult_reg (s : State) (d v : Nat) {o : Nat} (h : CN_ROUTE_CMD_RESULT.off ≠ o) :
    (s.wf (D d) CN_ROUTE_CMD_RESULT v).reg (D d + o) = s.reg (D d + o) := State.reg_wf _ _ _ _ _ (by omega)

/-- An entry that the firmware has not written shows as software wrote it (R389). -/
theorem routeShown_shows (s : State) (d x : Nat) (h : s.on A.cnFw 0 = false ∨ s.on A.cnSet x = true) :
    (s.routeShown d x).reg (D d + oCN_ROUTE_MATCH) = s.rd A.cnMatch x ∧ (s.routeShown d x).reg (D d + oCN_ROUTE_MASK) = s.rd A.cnMask x ∧
      (s.routeShown d x).reg (D d + oCN_ROUTE_PATH) = s.rd A.cnPath x := by
  have soft : ¬ s.routeByFw x = true := by
    rw [State.routeByFw, decide_eq_true_eq]
    rintro ⟨hf, hs⟩
    exact h.elim (fun h => absurd (h.symm.trans hf) (by decide)) hs
  have fits {v w : Nat} (hv : v < 2 ^ w) (hw : w ≤ 32) : v % 2 ^ 32 = v := Nat.mod_eq_of_lt (lt_of_lt_of_le hv (Nat.pow_le_pow_right (by decide) hw))
  rw [State.routeShown, State.routeMatchReg, State.routeMaskReg, State.routePathReg, if_neg soft, if_neg soft, if_neg soft]
  refine ⟨?_, ?_, ?_⟩
  · exact (State.rd_wr_ix _ _ _ _ _ (by unfold oCN_ROUTE_PATH oCN_ROUTE_MATCH; omega)).trans ((State.rd_wr_ix _ _ _ _ _
      (by unfold oCN_ROUTE_MASK oCN_ROUTE_MATCH; omega)).trans ((State.rd_wr_same ..).trans (fits (State.rd_lt s A.cnMatch x) (by decide))))
  · exact (State.rd_wr_ix _ _ _ _ _ (by unfold oCN_ROUTE_PATH oCN_ROUTE_MASK; omega)).trans ((State.rd_wr_same ..).trans
      (fits (State.rd_lt s A.cnMask x) (by decide)))
  · exact (State.rd_wr_same ..).trans (fits (State.rd_lt s A.cnPath x) (by decide))

theorem routeShown_result (s : State) (d x : Nat) : (s.routeShown d x).rf (D d) CN_ROUTE_CMD_RESULT = s.rf (D d) CN_ROUTE_CMD_RESULT := by
  have kept : (s.routeShown d x).reg (D d + CN_ROUTE_CMD_RESULT.off) = s.reg (D d + CN_ROUTE_CMD_RESULT.off) := by
    have away {o : Nat} (h : o ≠ CN_ROUTE_CMD_RESULT.off) (u : State) (v : Nat) :
        (u.wr A.reg (D d + o) v).reg (D d + CN_ROUTE_CMD_RESULT.off) = u.reg (D d + CN_ROUTE_CMD_RESULT.off) :=
      State.rd_wr_ix _ _ _ _ _ (by omega)
    exact (away (by decide) _ _).trans ((away (by decide) _ _).trans (away (by decide) _ _))
  rw [State.rf, kept, State.rf]

/-- An NI's table has no entry for a request. -/
def State.lacksRoute (s : State) (d n a : Nat) : Prop := ∀ e < 64, s.routeMatch (routeIx d n e) a = false

theorem routeOf_none {d n a : Nat} : (s.routeOf d n a).isNone = true ↔ s.lacksRoute d n a := by
  rw [State.routeOf, firstIx, Option.isNone_iff_eq_none, List.find?_eq_none]
  simp only [List.mem_range, Bool.not_eq_true]
  rfl

/-- A route table in which an entry is written is listed. -/
theorem listed_of_entry {e : Nat} (h : s.rd A.cnMatch e ≠ 0) : ¬ (s.listed A.cnMatch).isEmpty = true := by
  intro hl
  have none : (s.arr.filter fun x => x.1 % 512 = A.cnMatch.code) = [] := List.map_eq_nil_iff.1 (List.isEmpty_iff.1 hl)
  have code : A.cnMatch.key e % 512 = A.cnMatch.code := show (e * 512 + 345) % 512 = 345 by omega
  have same := get_filter (dflt (A.cnMatch.key e)) (fun x : Nat × Nat => decide (x.1 % 512 = A.cnMatch.code)) (A.cnMatch.key e)
    (fun v => decide_eq_true code) s.arr
  rw [show (s.arr.filter fun x : Nat × Nat => decide (x.1 % 512 = A.cnMatch.code)) = [] from none] at same
  have zero : dflt (A.cnMatch.key e) = 0 := dflt_plain ⟨by decide, by decide, by decide⟩ e
  exact h (by rw [State.rd, ← same, Sparse.get, zero]; rfl)

theorem noRoute_at {ni : Nat × Nat} {a : Nat} {at_ : Nat × Nat} (hw : s.on A.cnFw 0 = true ∨ ∃ e, s.rd A.cnMatch e ≠ 0)
    (h : s.lacksRoute ni.1 ni.2 a ∧ at_ = ni ∨ ¬ s.lacksRoute ni.1 ni.2 a ∧ targetDie a ≠ ni.1 ∧ s.lacksRoute (targetDie a) 42 a ∧
      slice a 40 12 = s.chainAddr ∧ at_ = (targetDie a, 42)) : s.noRoute ni.1 ni.2 a = some at_ := by
  have written : ¬ (¬ s.on A.cnFw 0 = true ∧ (s.listed A.cnMatch).isEmpty = true) := fun ⟨hf, hl⟩ =>
    hw.elim hf fun ⟨e, he⟩ => listed_of_entry he hl
  refine (if_neg written).trans ?_
  rcases h with ⟨hn, rfl⟩ | ⟨hn, hd, hb, hc, rfl⟩
  · exact if_pos (routeOf_none.2 hn)
  · exact (if_neg (mt routeOf_none.1 hn)).trans (if_pos ⟨hc, hd, routeOf_none.2 hb⟩)

/-- A request that reaches its NI and finds no route there (R388). -/
structure State.Unrouted (s : State) (who : Who) (place : Nat) (at_ : Nat × Nat) : Prop where
  clocked : s.clocked = true
  outside : s.entering = false
  awake : s.Awake who
  accepted : s.accepts who = true
  first : ∀ h ∈ s.held, whoNi h.who ≠ whoNi who
  done : s.resumed = []
  lacks : s.noRoute (whoNi who).1 (whoNi who).2 (2 ^ 40 * s.chainAddr + place) = some at_

theorem unrouted_accessAs {place : Nat} {at_ : Nat × Nat} (h : s.Unrouted who place at_) {c : Instr} (hc : c.place = some place) (n : Nat)
    (f : State → Res) : s.accessAs who c n f = .next (s.answerNoRoute at_ (2 ^ 40 * s.chainAddr + place)) := by
  have lacks : s.routeless who c = some (at_, 2 ^ 40 * s.chainAddr + place) := by
    rw [State.routeless, hc]
    exact congrArg (Option.map fun x => (x, 2 ^ 40 * s.chainAddr + place)) h.lacks
  rw [State.accessAs, perform_fresh h.done, if_pos ⟨h.clocked, by rw [h.outside]; decide⟩, if_neg (by rw [h.accepted]; decide),
    if_neg (by rw [waitsBehind_none h.first]; decide), lacks, coreRuns_awake h.awake]

theorem unrouted_accessDom {place : Nat} {at_ : Nat × Nat} (h : s.Unrouted who place at_) {c : Instr} (hc : c.place = some place)
    (die dom : Nat) (f : State → Res) : s.accessDom who die dom c f = .next (s.answerNoRoute at_ (2 ^ 40 * s.chainAddr + place)) := by
  unfold State.accessDom State.access
  exact unrouted_accessAs h hc 0 _

theorem unrouted_accessIn {place : Nat} {at_ : Nat × Nat} (h : s.Unrouted who place at_) {c : Instr} (hc : c.place = some place)
    (dom : Option (Nat × Nat)) (n : Nat) (f : State → Res) :
    s.accessIn who dom n c f = .next (s.answerNoRoute at_ (2 ^ 40 * s.chainAddr + place)) := by
  cases dom with
  | none => exact unrouted_accessAs h hc n f
  | some d =>
    exact unrouted_accessDom h hc d.1 d.2 f

/-- What a request without a route answers, whatever it is for. -/
theorem unrouted_exec {place : Nat} {at_ : Nat × Nat} (h : s.Unrouted who place at_) {off : Nat} (ho : off < csrBase) {val : Word}
    {write space : Bool} {o : BitVec 39} {size : AccSize} {data : BitVec 512} {hint : BitVec 2} {slot : Fin 32} {die : Fin 8} {c : Instr}
    (hm : c ∈ ([.registerWrite who off val, .rcRead who off, .cnRequest who write space o size data,
      .hbmRequest who write o size data hint, .start who slot, .bedAccRead who die] : List Instr)) (hc : c.place = some place) :
    exec c s = .next (s.answerNoRoute at_ (2 ^ 40 * s.chainAddr + place)) := by
  have csr : csrOf off = none := if_neg (Nat.not_le.2 ho)
  simp only [List.mem_cons, List.not_mem_nil, or_false] at hm
  rcases hm with rfl | rfl | rfl | rfl | rfl | rfl
  · show s.busWrite who off val.toNat _ = _
    rw [State.busWrite, csr]
    exact unrouted_accessIn h hc ..
  · show s.busRead who off _ = _
    rw [State.busRead, csr]
    exact unrouted_accessIn h hc ..
  · exact unrouted_accessIn h hc ..
  · by_cases ha : hbmBytes ≤ o.toNat
    · exact (if_pos ha).trans (unrouted_accessAs h hc 0 _)
    · exact (if_neg ha).trans (unrouted_accessDom h hc ..)
  · exact unrouted_accessAs h hc 6 fun s => .next (s.startCmd who slot)
  · exact unrouted_accessDom h hc die domFab fun s => .next (s.bedAccess who die false false false).okay

end routes

/-! ### Requests in register space (R387) -/

section registers
variable {s : State} {who : Who} {off : BitVec 39} {data : BitVec 512}

theorem cnRequest_registers {write : Bool} {size : AccSize} (h : s.Serving who) (hb : bayWindow off.toNat = none)
    (ha : off.toNat % szBytes size = 0) (hd : s.domOfReq write false off.toNat data.toNat (szBytes size) = none) :
    exec (.cnRequest who write false off size data) s = .next (s.regAccess who write off.toNat (szBytes size) data.toNat) := by
  show s.accessIn who (s.domOfReq write false off.toNat data.toNat (szBytes size)) _ _ _ = _
  rw [hd]
  refine (accessAs_on h _ _ fun s => .next (s.request who write false off.toNat size data.toNat)).trans (congrArg _ ?_)
  unfold State.request
  dsimp only
  rw [hb, if_neg (by decide), Nat.div_mul_cancel (Nat.dvd_of_mod_eq_zero ha)]

theorem regAccess_read4 (s : State) (who : Who) (p v : Nat) : s.regAccess who false p 4 v =
    (s.readReg who p).ans (s.readReg who p).rsp.status ((s.readReg who p).rsp.data % 2 ^ 32) := by
  show (s.readReg who p).ans (s.readReg who p).rsp.status (0 + 2 ^ (32 * 0) * slice (s.readReg who p).rsp.data 0 32) = _
  rw [slice_at_zero, Nat.mul_zero, Nat.pow_zero, Nat.one_mul, Nat.zero_add]

theorem regAccess_write4 (s : State) (who : Who) (p v : Nat) : s.regAccess who true p 4 v =
    (s.writeReg who p (v % 2 ^ 32)).ans (s.writeReg who p (v % 2 ^ 32)).rsp.status 0 := by
  show (s.writeReg who p (slice v (32 * 0) 32)).ans (s.writeReg who p (slice v (32 * 0) 32)).rsp.status 0 = _
  rw [Nat.mul_zero, slice_at_zero]

theorem regAccess_write8 (s : State) (who : Who) (p v : Nat) : s.regAccess who true p 8 v =
    ((s.writeReg who p (v % 2 ^ 32)).writeReg who (p + 4) (slice v 32 32)).ans
      (if (s.writeReg who p (v % 2 ^ 32)).rsp.status = 0 then
        ((s.writeReg who p (v % 2 ^ 32)).writeReg who (p + 4) (slice v 32 32)).rsp.status
      else (s.writeReg who p (v % 2 ^ 32)).rsp.status) 0 := by
  show ((s.writeReg who p (slice v (32 * 0) 32)).writeReg who (p + 4) (slice v (32 * 1) 32)).ans
      (if (s.writeReg who p (slice v (32 * 0) 32)).rsp.status = 0 then
        ((s.writeReg who p (slice v (32 * 0) 32)).writeReg who (p + 4) (slice v (32 * 1) 32)).rsp.status
      else (s.writeReg who p (slice v (32 * 0) 32)).rsp.status) 0 = _
  rw [Nat.mul_zero, slice_at_zero]

end registers

section commands
variable {s : State} {who : Who} {die : Fin 8} {ni : Fin 64} {tag : Fin 32} {write : Bool} {size : AccSize} {addr : BitVec 52}
  {data : BitVec 512} {gen : BitVec 2} {status mask : BitVec 4}

theorem requestSend_next (hc : s.clocked = true) : exec (.requestSend die ni tag write size addr data) s =
    .next (s.cnSend die ni tag write (szBytes size) addr.toNat data.toNat) :=
  live_next hc fun s => s.cnSend die ni tag write (szBytes size) addr.toNat data.toNat

theorem cnResponse_next (hc : s.clocked = true) : exec (.cnResponse die ni tag gen status ⟨mask, data⟩) s =
    .next (s.cnResp die ni tag gen.toNat status.toNat mask.toNat data.toNat) :=
  live_next hc fun s => s.cnResp die ni tag gen.toNat status.toNat mask.toNat data.toNat

theorem requestTimeout_next (hc : s.clocked = true) : exec (.requestTimeout die ni tag) s = .next (s.cnTimeout die ni tag) :=
  live_next hc fun s => s.cnTimeout die ni tag

theorem routeRead_next (h : s.Serving who) : exec (.routeEntryRead who die) s = .next (s.routeEntry who die false) :=
  access_next h _ fun s => s.routeEntry who die false

theorem routeWrite_next (h : s.Serving who) : exec (.routeEntryWrite who die) s = .next (s.routeEntry who die true) :=
  access_next h _ fun s => s.routeEntry who die true

end commands

/-- Settles O48: a request goes out, waits or answers by its route and its buffers; what comes back is matched with it. -/
theorem controlNetwork : Obligations.ControlNetwork := by
  unfold Obligations.ControlNetwork
  refine ⟨?_, ?_⟩
  · intro s die ni tag write size addr data gen status mask o who off
    refine ⟨fun hc => ?_, fun h => ?_⟩
    · have send := requestSend_next (die := die) (ni := ni) (tag := tag) (write := write) (size := size) (addr := addr) (data := data) hc
      have response := cnResponse_next (die := die) (ni := ni) (tag := tag) (gen := gen) (status := status) (mask := mask) (data := data) hc
      have timeout := requestTimeout_next (die := die) (ni := ni) (tag := tag) hc
      refine ⟨fun hi => ?_, fun hi ho => ⟨fun hw => ?_, fun hs hf => ?_⟩, fun hi ho => ⟨fun e n hn => ?_, fun hn => ⟨fun hf hd => ?_, fun hf => ?_, fun hf hcnt hup hdn => ?_⟩⟩,
        fun ho hs hg => ⟨fun hl => ⟨fun h6 => ?_, fun h6 => ?_⟩, fun hl h6 => ?_⟩, fun hl => ?_, fun ho => ?_, fun ho => ⟨fun hw => ?_, fun hp he => ⟨fun hl => ?_, fun hl => ?_⟩⟩, ?_, ?_⟩
      · exact send.trans (congrArg _ (cnSend_other hi))
      · exact send.trans (congrArg _ ((cnSend_outst hi ho).trans (if_pos (hw.imp_right ne_true_of_eq_false))))
      · refine send.trans (congrArg _ ((cnSend_outst hi ho).trans (if_neg fun h => ?_)))
        exact h.elim (fun h => absurd (hs.symm.trans h) (by decide)) fun h => h hf
      · refine ⟨_, send.trans (congrArg _ (cnSend_new hi ho)), ?_⟩
        exact (sendNew_noRoute (niStamp_freed ..) hn).trans (answerNoRoute_eq ..)
      · refine ⟨_, send.trans (congrArg _ (cnSend_new hi ho)), ?_⟩
        exact (sendNew_down (niStamp_freed ..) hn (freed_down (niStamp_freed ..) hf hd)).trans (cnErr_eq ..)
      · refine ⟨_, send.trans (congrArg _ (cnSend_new hi ho)), ?_⟩
        exact sends_fresh (sendNew_goes (niStamp_freed ..) hn (freed_up (niStamp_freed ..) hf))
      · refine ⟨_, send.trans (congrArg _ (cnSend_new hi ho)), ?_⟩
        cases hl : ((s.niStamp die ni).2.linkDown addr.toNat).1 with
        | true => exact .inl ((sendNew_down (niStamp_freed ..) hn hl).trans (cnErr_eq ..))
        | false => exact .inr (sends_fresh (sendNew_goes (niStamp_freed ..) hn hl))
      · exact response.trans (congrArg _ ((cnResp_named ho hs hg).trans ((if_neg h6).trans (answered_last hl))))
      · have refused := response.trans (congrArg _ ((cnResp_named ho hs hg).trans (if_pos h6)))
        rw [cnErr_eq] at refused
        exact refused.trans (congrArg _ (answered_last hl))
      · have only : s.Only [] (s.outstDrop o).releaseHeld := ((State.Only.refl [] s).update (u := s.outstDrop o) (by rfl)).step (releaseHeld_only _) rfl
        have sends := answered_more (s := (s.outstDrop o).releaseHeld) (st := status.toNat) (m := mask.toNat) (v := data.toNat) hl
        refine ⟨_, response.trans (congrArg _ ((cnResp_named ho hs hg).trans (if_neg h6))), ?_, ?_⟩
        · exact sends.outst.trans (congrArg (_ ++ [·]) (nextOf_part ho (only.rd _ _ rfl)))
        · exact sends.rsp.trans (releaseHeld_rsp _)
      · exact response.trans (congrArg _ (cnResp_late hl))
      · exact timeout.trans (congrArg _ (cnTimeout_none ho))
      · exact timeout.trans (congrArg _ (cnTimeout_waits hw ho))
      · have late := timeout.trans (congrArg _ (cnTimeout_due hp he ho))
        rw [cnErr_eq] at late
        exact late.trans (congrArg _ (answered_last hl))
      · have sends := answered_more (s := (s.timedOutAt die ni tag o).cnErr die ni o.at_ 4) (st := 4) (m := 0) (v := 0) hl
        have gen := (timedOutAt_only s die ni tag o).rd A.cnGen (tagIx die ni tag) rfl
        refine ⟨_, timeout.trans (congrArg _ (cnTimeout_due hp he ho)), ?_, sends.rsp⟩
        have out := sends.outst
        rw [cnErr_outst, cnErr_next, nextOf_part ho gen] at out
        exact out
      · refine (live_next hc fun s => s.setPause die ni tag (fun o => o.sent ∧ o.pauseTicks < pauseLimit) true).trans (congrArg _ ?_)
        exact setPause_eq _ (fun y => y.die = die.val ∧ y.ni = ni.val ∧ y.tag = tag.val ∧ y.dead = false ∧ y.sent = true ∧ y.pauseTicks < 4000) true
          fun o => by rw [Bool.not_eq_true, decide_eq_true_eq, pauseLimit]
      · refine (live_next hc fun s => s.setPause die ni tag (fun o => o.paused ∧ pauseLimit ≤ o.pauseTicks) false).trans (congrArg _ ?_)
        exact setPause_eq _ (fun y => y.die = die.val ∧ y.ni = ni.val ∧ y.tag = tag.val ∧ y.dead = false ∧ y.paused = true ∧ 4000 ≤ y.pauseTicks) false
          fun o => by rw [Bool.not_eq_true, decide_eq_true_eq, pauseLimit]
    · refine ⟨fun hr => ⟨?_, ?_⟩, fun hr => ⟨fun hb => ?_, fun hb => ?_, fun hb => ?_, fun hb => ?_⟩,
        fun hb => ⟨fun ha hd => ?_, fun ha hd u hu => ?_, fun ha hd u hu v hv => ?_⟩⟩
      · exact (routeRead_next h).trans (congrArg _ (routeEntry_denied hr _))
      · exact (routeWrite_next h).trans (congrArg _ (routeEntry_denied hr _))
      · exact (routeRead_next h).trans (congrArg _ (routeEntry_bad hr hb))
      · exact (routeWrite_next h).trans (congrArg _ (routeEntry_bad hr hb))
      · refine ⟨_, (routeRead_next h).trans (congrArg _ ((routeEntry_good hr hb).trans (if_neg Bool.false_ne_true))), fun hs => ?_, ?_, rfl⟩
        · have kept (a : Arr) (i : Nat) (ha : ¬ a.code % 512 = 0) : (s.wf (D die) CN_ROUTE_CMD_RESULT 0).rd a i = s.rd a i :=
            State.rd_wf _ _ _ _ _ _ ha
          have shown := routeShown_shows (s.wf (D die) CN_ROUTE_CMD_RESULT 0) die (s.routeAt die)
            (by rwa [State.on, State.on, kept A.cnFw 0 (by decide), kept A.cnSet _ (by decide)])
          rw [kept A.cnMatch _ (by decide), kept A.cnMask _ (by decide), kept A.cnPath _ (by decide)] at shown
          rw [State.reg_ans, State.reg_ans, State.reg_ans]
          exact shown
        · exact (State.rf_ans ..).trans ((routeShown_result ..).trans (State.rf_wf_same _ _ _ _ (by decide)))
      · refine (routeWrite_next h).trans (congrArg _ ((routeEntry_good hr hb).trans ?_))
        rw [routeResult_reg _ _ _ (by decide), routeResult_reg _ _ _ (by decide), routeResult_reg _ _ _ (by decide)]
        rfl
      · exact (cnRequest_registers (size := .b4) h hb ha hd).trans (congrArg _ (regAccess_read4 ..))
      · subst hu
        exact (cnRequest_registers (size := .b4) h hb ha hd).trans (congrArg _ (regAccess_write4 ..))
      · subst hv
        subst hu
        exact (cnRequest_registers (size := .b8) h hb ha hd).trans (congrArg _ (regAccess_write8 ..))
  · intro s who off val write space o size data hint slot die place b ni a none_ hc hout ho hw hawake hacc hfirst hdone at_ hat word c hm hp
    have lacks : s.noRoute (whoNi who).1 (whoNi who).2 (2 ^ 40 * s.chainAddr + place) = some at_ := by
      refine noRoute_at hw (hat.imp_right ?_)
      rintro ⟨hn, rfl, hb, hl, hch, ha⟩
      exact ⟨hn, hb, hl, hch, ha⟩
    obtain ⟨e, n⟩ := at_
    exact (unrouted_exec ⟨hc, hout, hawake, hacc, hfirst, hdone, lacks⟩ ho hm hp).trans (congrArg _ (answerNoRoute_eq ..))

end Sys2Proof.Machine

/-! SUPPORT and CERTIFICATE. Memory-model engines: requests, gathers, deliveries (chapter 08, R199 to R207). -/

namespace Sys2Proof.Machine

open Reg

/-! ### Translation through the cache (R199 to R201) -/

section translation
variable {s t : State} {eng k pid a x sub : Nat} {write : Bool} {e : TcEntry} {r : MmeReq}

theorem slice_one_iff {v i : Nat} : slice v i 1 = 1 ↔ v.testBit i = true := by
  rw [slice_one]
  cases v.testBit i <;> decide

theorem slice_zero_iff {v i : Nat} : slice v i 1 = 0 ↔ v.testBit i = false := by
  rw [slice_one]
  cases v.testBit i <;> decide

theorem entryCheck_invalid (h : x.testBit 0 = false) : entryCheck x write = .bad 1 := if_pos (slice_zero_iff.2 h)

theorem entryCheck_readOnly (h0 : x.testBit 0 = true) (h2 : x.testBit 2 = false) : entryCheck x true = .bad 2 :=
  (if_neg (by rw [slice_one_iff.2 h0]; decide)).trans (if_pos ⟨rfl, slice_zero_iff.2 h2⟩)

/-- A valid entry whose page may be written where the access writes. -/
theorem entryCheck_valid (h0 : x.testBit 0 = true) (hw : write = false ∨ x.testBit 2 = true) :
    entryCheck x write = if x.testBit 1 = true then .frame x else .absent := by
  have writes : ¬ (write = true ∧ slice x 2 1 = 0) := fun ⟨ht, h2⟩ => hw.elim (fun hf => absurd (hf.symm.trans ht) (by decide))
    fun h => absurd ((slice_zero_iff.1 h2).symm.trans h) (by decide)
  refine (if_neg (by rw [slice_one_iff.2 h0]; decide)).trans ((if_neg writes).trans ?_)
  cases h1 : x.testBit 1 with
  | false => exact if_pos (slice_zero_iff.2 h1)
  | true => exact if_neg (by rw [slice_one_iff.2 h1]; decide)

theorem frameOwned_own (h : slice x 8 12 = s.chainAddr) : s.frameOwned pid x = (decide (s.granuleOwner (frameBase x) = some pid), s) :=
  if_neg (not_not_intro h)

theorem translate_unmapped (h : s.mapBase k = none) : s.translate eng k pid a write = (.bad 1, s) := if_pos h

section hit
variable (hm : s.mapBase k ≠ none) (he : (s.tcache.find? fun x => x.engine = eng ∧ x.pid = pid ∧ x.page = pageOf a) = some e)
include hm he

theorem translate_hit : s.translate eng k pid a write =
    match entryCheck e.entry write with
    | .frame x =>
      if (s.frameOwned pid x).1 then (.frame x, if write then (s.frameOwned pid x).2.tcDirty eng k pid a x else (s.frameOwned pid x).2)
      else State.walkMap { (s.frameOwned pid x).2 with tcache := (s.frameOwned pid x).2.tcache.filter (· ≠ e) } eng k pid a write
    | t => (t, s) := by
  rw [State.translate, if_neg hm, he] <;> rfl

theorem translate_bad (h : entryCheck e.entry write = .bad sub) : s.translate eng k pid a write = (.bad sub, s) := by
  rw [translate_hit hm he, h]

theorem translate_foreign (h : entryCheck e.entry write = .frame e.entry) (hc : slice e.entry 8 12 = s.chainAddr)
    (ho : s.granuleOwner (frameBase e.entry) ≠ some pid) : s.translate eng k pid a write =
    State.walkMap { s with tcache := s.tcache.filter (· ≠ e) } eng k pid a write := by
  rw [translate_hit hm he, h]
  dsimp only
  rw [frameOwned_own hc]
  exact if_neg (ne_true_of_eq_false (decide_eq_false ho))

theorem translate_own (h : entryCheck e.entry write = .frame e.entry) (hc : slice e.entry 8 12 = s.chainAddr)
    (ho : s.granuleOwner (frameBase e.entry) = some pid) (hd : write = false ∨ e.entry.testBit 3 = true) :
    s.translate eng k pid a write = (.frame e.entry, s) := by
  rw [translate_hit hm he, h]
  dsimp only
  rw [frameOwned_own hc]
  refine (if_pos (decide_eq_true ho)).trans (congrArg _ ?_)
  rcases hd with rfl | hd
  · rfl
  · cases write with
    | false => rfl
    | true => exact if_pos (slice_one_iff.2 hd)

end hit

/-- Of a page, every address lies in the granule of its frame. -/
theorem frameBase_granule (s : State) (x a : Nat) : s.granuleOwner (frameBase x + a % 2 ^ 21) = s.granuleOwner (frameBase x) := by
  have same : (slice x 21 18 * 2 ^ 21 + a % 2 ^ 21) / 0x200000 = slice x 21 18 * 2 ^ 21 / 0x200000 := by omega
  rw [State.granuleOwner, frameBase, same, State.granuleOwner]

theorem frameAccess_own {n v : Nat} {q : HbmAns} (hc : slice x 8 12 = s.chainAddr)
    (hq : q = s.engAccess eng pid write (frameBase x + a % 2 ^ 21) n v) :
    s.frameAccess eng pid x a n v write = (match q.status with | 0 => 0 | 3 => 5 | _ => 1, q.data, q.st) := by
  rw [State.frameAccess, if_neg (not_not_intro hc), hq]
  rfl

/-- An engine's access goes out from its NI (R388). -/
theorem engAccess_routed {die : Fin 8} {engine : Fin 4} {n v : Nat} (he : eng = 4 * die.val + engine) :
    (s.noRoute die (32 + engine) (2 ^ 40 * s.chainAddr + 2 ^ 39 + a) = none →
      s.engAccess eng pid write a n v = s.hbmAccess (.part pid) write a n v) ∧
    (∀ x, s.noRoute die (32 + engine) (2 ^ 40 * s.chainAddr + 2 ^ 39 + a) = some x →
      s.engAccess eng pid write a n v = ⟨5, 0, s.noteNoRoute x (2 ^ 40 * s.chainAddr + 2 ^ 39 + a) 5⟩) := by
  have hd : eng / 4 = die := by have := engine.isLt; omega
  have hn : eng % 4 = engine := by have := engine.isLt; omega
  rw [State.engAccess, State.niAccess, hd, hn]
  refine ⟨fun h => ?_, fun x h => ?_⟩
  · rw [h]
  · rw [h]

end translation

/-! ### A read or a write, and a gather (R206, R207) -/

section performing
variable {s t : State} {r : MmeReq} {sub e : Nat}

theorem reqFail_read (h : r.kind ≠ .write) (sub a : Nat) : s.reqFail r sub a = s.setReq { r with phase := .failed sub a } := if_neg h

theorem reqFail_write (h : r.kind = .write) (sub a : Nat) : s.reqFail r sub a = (s.dropReq r).mmeFault r sub a := if_pos h

theorem plainReq_bad (h : s.translate (engineOf r.course) r.slot r.pid r.addr (decide (r.kind = .write)) = (.bad sub, t)) :
    s.plainReq r = t.reqFail r sub r.addr := by
  rw [State.plainReq, h]

theorem plainReq_absent (h : s.translate (engineOf r.course) r.slot r.pid r.addr (decide (r.kind = .write)) = (.absent, t)) :
    s.plainReq r = t.reqWait r r.addr := by
  rw [State.plainReq, h]

theorem plainReq_frame {d : Nat} {u : State}
    (h : s.translate (engineOf r.course) r.slot r.pid r.addr (decide (r.kind = .write)) = (.frame e, t))
    (hf : t.frameAccess (engineOf r.course) r.pid e r.addr (r.len / 8) r.data (decide (r.kind = .write)) = (sub, d, u)) : s.plainReq r =
    if r.kind = .write then (if sub = 0 then u.dropReq r else u.reqFail r sub r.addr)
    else if sub = 0 then u.setReq { r with acc := d, phase := .ready } else u.reqFail { r with acc := d } sub r.addr := by
  rw [State.plainReq, h]
  dsimp only
  rw [hf]

theorem gatherFrom_bad {fuel : Nat} (h : s.translate (engineOf r.course) r.slot r.pid (elemAddr r r.done) false = (.bad sub, t)) :
    s.gatherFrom r (fuel + 1) = t.reqFail r sub (elemAddr r r.done) := by
  rw [State.gatherFrom, h]

theorem gatherFrom_absent {fuel : Nat} (h : s.translate (engineOf r.course) r.slot r.pid (elemAddr r r.done) false = (.absent, t)) :
    s.gatherFrom r (fuel + 1) = t.reqWait r (elemAddr r r.done) := by
  rw [State.gatherFrom, h]

theorem gatherFrom_frame {fuel d : Nat} {u : State}
    (h : s.translate (engineOf r.course) r.slot r.pid (elemAddr r r.done) false = (.frame e, t))
    (hf : t.frameAccess (engineOf r.course) r.pid e (elemAddr r r.done) 4 0 false = (sub, d, u)) : s.gatherFrom r (fuel + 1) =
    if sub ≠ 0 then u.reqFail r sub (elemAddr r r.done)
    else u.gatherFrom { r with acc := r.acc + 2 ^ (32 * r.done) * d, done := r.done + 1 } fuel := by
  rw [State.gatherFrom, h]
  dsimp only
  rw [hf]

variable {die : Fin 8} {engine : Fin 4} {req : Nat}

theorem mmeWalk_next (hc : s.clocked = true) (hf : s.findReq (4 * die + engine) req = some r) (hp : r.phase = .fresh)
    (hb : s.behind r = false) : exec (.mmeWalk die engine req) s = .next (s.walkReq r) := by
  change execMmeWalk die engine req s = _
  rw [execMmeWalk, State.live_on hc, hf]
  exact congrArg _ (if_pos ⟨hp, ne_true_of_eq_false hb⟩)

theorem walkReq_plain (h : r.kind ≠ .gather) : s.walkReq r = s.plainReq r := if_neg h

theorem walkReq_gather (h : r.kind = .gather) : s.walkReq r = s.gatherFrom r (16 - r.done) := if_pos h

theorem findReq_engine (hf : s.findReq (4 * die + engine) req = some r) : engineOf r.course = 4 * die.val + engine := by
  have found := List.find?_some hf
  exact (of_decide_eq_true found).1

end performing

/-! ### Deliveries (R78, R80, R206) -/

section delivery
variable {s : State} {r : MmeReq}

/-- A delivery that no recorder logs. -/
def State.delivered (s : State) (r : MmeReq) : State :=
  ((s.dropReq r).deliver r.bed r.bank r.line (mmeLines r) (mmeData r) r.due).tagFree r.course r.tag

theorem mmeDeliver_quiet (h : s.recording r.slot = false) (ht : r.tagged = true) : s.mmeDeliver r =
    match r.phase with
    | .failed sub a => (s.delivered r).mmeFault r sub a
    | _ => s.delivered r := by
  have quiet (d n : Nat) (l : List Nat) : s.logInput r.slot d n l = s := if_neg (ne_true_of_eq_false h)
  rw [State.mmeDeliver, quiet, if_pos ht]
  cases r.phase <;> rfl

theorem bufFull_quiet (h : s.recording r.slot = false) (d n : Nat) : s.bufFull r.slot d n = false :=
  decide_eq_false fun hf => Bool.false_ne_true (h.symm.trans hf.1)

theorem mmeDelivery_next {die : Fin 8} {engine : Fin 4} {req : Nat} (hc : s.clocked = true) (hf : s.findReq (4 * die + engine) req = some r)
    (hk : r.kind ≠ .write) (h : s.recording r.slot = false) (hp : r.phase = .ready ∨ ∃ sub a, r.phase = .failed sub a) :
    exec (.mmeDelivery die engine req) s = .next (s.mmeDeliver r) := by
  change execMmeDelivery die engine req s = _
  rw [execMmeDelivery, State.live_on hc, hf]
  refine congrArg _ ?_
  dsimp only
  cases hr : r.kind with
  | write => exact absurd hr hk
  | read =>
    rcases hp with hp | ⟨sub, a, hp⟩
    · rw [hp]
      exact if_neg (ne_true_of_eq_false (bufFull_quiet h ..))
    · rw [hp]
      exact if_neg (ne_true_of_eq_false (bufFull_quiet h ..))
  | gather =>
    rcases hp with hp | ⟨sub, a, hp⟩
    · rw [hp]
      exact if_neg (ne_true_of_eq_false (bufFull_quiet h ..))
    · rw [hp]
      exact if_neg (ne_true_of_eq_false (bufFull_quiet h ..))

/-- The data of a delivery that failed. -/
theorem mmeData_failed {sub a : Nat} (h : r.phase = .failed sub a) :
    mmeData r = if sub = 5 ∨ r.kind = .gather then r.acc else 0 := by
  rw [mmeData, h]
  by_cases h5 : sub = 5
  · subst h5
    exact (if_pos (Or.inl rfl)).symm
  · rw [if_congr (or_iff_right h5) rfl rfl]
    split
    · next hs => exact absurd (MmePhase.failed.inj hs).1 h5
    · rfl
    · next _ hs => exact absurd rfl (hs sub a)

theorem mmeData_ready (h : r.phase = .ready) : mmeData r = r.acc := by
  rw [mmeData, h]

end delivery

/-- Settles O21: the branches of the translation, of a walk's step and of a delivery, each followed to its outcome. -/
theorem memoryModelRequests : Obligations.MemoryModelRequests := by
  refine ⟨?_, ?_, ?_⟩
  · intro s die engine req r e eng h act failed hc hf hp hb hk
    have heng := findReq_engine hf
    have go := mmeWalk_next hc hf hp hb
    rw [walkReq_plain hk] at go
    have reads (hr : r.kind = .read) : r.kind ≠ .write := by rw [hr]; decide
    have base : s.granuleOwner h = s.granuleOwner (frameBase e.entry) := frameBase_granule ..
    refine ⟨fun t write a n v => engAccess_routed heng, fun hm hr => ?_, fun hm he => ⟨fun h0 hr => ?_, fun h0 h2 hw => ?_,
      fun h0 h1 hown => ⟨fun ho hr sub t hwalk => ?_, fun ho x hx => ⟨fun hs hr => ?_, fun hs hr => ?_, fun hs hw h2 h3 => ?_⟩⟩⟩⟩
    · refine go.trans (congrArg _ ?_)
      rw [plainReq_bad (translate_unmapped hm), reqFail_read (reads hr)]
    · refine go.trans (congrArg _ ?_)
      rw [plainReq_bad (translate_bad hm he (entryCheck_invalid h0)), reqFail_read (reads hr)]
    · have bad := entryCheck_readOnly h0 h2
      refine go.trans (congrArg _ ?_)
      rw [plainReq_bad (translate_bad hm he (by rw [hw]; exact bad)), reqFail_write hw]
    · have frame := (entryCheck_valid (write := false) h0 (.inl rfl)).trans (if_pos h1)
      have foreign := (translate_foreign hm he frame hown (base ▸ ho)).trans hwalk
      refine go.trans (congrArg _ ?_)
      rw [plainReq_bad (by rw [hr]; exact foreign), reqFail_read (reads hr)]
    · have frame := (entryCheck_valid (write := false) h0 (.inl rfl)).trans (if_pos h1)
      have own := translate_own hm he frame hown (base ▸ ho) (.inl rfl)
      refine go.trans (congrArg _ ?_)
      rw [plainReq_frame (by rw [hr]; exact own) (frameAccess_own hown hx), if_neg (reads hr), hs]
      rfl
    · have frame := (entryCheck_valid (write := false) h0 (.inl rfl)).trans (if_pos h1)
      have own := translate_own hm he frame hown (base ▸ ho) (.inl rfl)
      refine go.trans (congrArg _ ?_)
      rw [plainReq_frame (by rw [hr]; exact own) (frameAccess_own hown hx), if_neg (reads hr), hs]
      exact (if_neg (by decide)).trans (reqFail_read (r := { r with acc := x.data }) (reads hr) ..)
    · have frame := (entryCheck_valid (write := true) h0 (.inr h2)).trans (if_pos h1)
      have own := translate_own hm he frame hown (base ▸ ho) (.inr h3)
      refine go.trans (congrArg _ ?_)
      rw [plainReq_frame (by rw [hw]; exact own) (frameAccess_own hown hx), if_pos hw, hs]
      rfl
  · intro s r fuel e s1 a tr hk
    have hw : r.kind ≠ .write := by rw [hk]; decide
    refine ⟨rfl, fun sub h => ?_, fun h => gatherFrom_absent h, fun h sub d s2 hf => ⟨fun hs => ?_, fun hs => ?_⟩,
      fun die engine req hc hf hp hb => ?_⟩
    · rw [gatherFrom_bad h, reqFail_read hw]
      rfl
    · rw [gatherFrom_frame h hf]
      exact if_neg (not_not_intro hs)
    · rw [gatherFrom_frame h hf, reqFail_read hw]
      exact if_pos hs
    · rw [mmeWalk_next hc hf hp hb, walkReq_gather hk]
  · intro s die engine req r n done hc hf hk ht hq
    refine ⟨fun hp => ?_, fun sub a hp => ?_⟩
    · rw [mmeDelivery_next hc hf hk hq (.inl hp), mmeDeliver_quiet hq ht, hp]
      dsimp only
      rw [State.delivered, mmeData_ready hp]
      rfl
    · rw [mmeDelivery_next hc hf hk hq (.inr ⟨sub, a, hp⟩), mmeDeliver_quiet hq ht, hp]
      dsimp only
      rw [State.delivered, mmeData_failed hp]
      rfl

end Sys2Proof.Machine

/-! SUPPORT and CERTIFICATE. Memory-model engines: the walk of the page map, and paging (chapter 08, R199, R203 to R205). -/

namespace Sys2Proof.Machine

open Reg

/-! ### A read of HBM leaves the device's address and the ownership table -/

section chain
variable {s t u : State}

/-- `t` has the chain address and the ownership table of `s`. -/
structure State.SameOwner (s t : State) : Prop where
  chain : ∀ r, r = oCHAIN_STATUS → t.reg r = s.reg r
  own : ∀ i, t.rd A.own i = s.rd A.own i

theorem State.SameOwner.refl (s : State) : s.SameOwner s := ⟨fun _ _ => rfl, fun _ => rfl⟩

theorem State.SameOwner.trans (h : s.SameOwner t) (h' : t.SameOwner u) : s.SameOwner u :=
  ⟨fun r hr => (h'.chain r hr).trans (h.chain r hr), fun i => (h'.own i).trans (h.own i)⟩

theorem State.SameOwner.reg (h : s.SameOwner t) {r : Nat} (hr : r ≠ oCHAIN_STATUS) (v : Nat) : s.SameOwner (t.wr A.reg r v) :=
  ⟨fun o ho => (State.rd_wr_ix _ _ _ _ _ fun e => hr (e.trans ho)).trans (h.chain o ho),
    fun i => (State.rd_wr_arr _ _ _ _ _ _ (by decide)).trans (h.own i)⟩

theorem State.SameOwner.only {codes : List Nat} (h : s.SameOwner t) (h' : t.Only codes u) (h0 : codes.contains 0 = false)
    (ho : codes.contains A.own.code = false) : s.SameOwner u :=
  h.trans ⟨fun r _ => h'.rd A.reg r h0, fun i => h'.rd A.own i ho⟩

theorem State.SameOwner.ite {p : Prop} [Decidable p] (ht : s.SameOwner t) (hu : s.SameOwner u) : s.SameOwner (if p then t else u) := by
  split
  · exact ht
  · exact hu

theorem sameOwner_foldl {α : Type} {f : State → α → State} (hf : ∀ (u : State) x, u.SameOwner (f u x)) (l : List α) (s : State) : s.SameOwner (l.foldl f s) := by
  induction l generalizing s with
  | nil => exact .refl s
  | cons x r ih => exact (hf s x).trans (ih _)

theorem State.SameOwner.owner (h : s.SameOwner t) (a : Nat) : t.granuleOwner a = s.granuleOwner a := by
  rw [State.granuleOwner, h.own, State.granuleOwner]

theorem State.SameOwner.addr (h : s.SameOwner t) : t.chainAddr = s.chainAddr := congrArg (slice · 0 12) (h.chain _ rfl)

theorem State.SameOwner.die (h : s.SameOwner t) (d : Nat) {f : Fld} (v : Nat) : s.SameOwner (t.wf (D d) f v) :=
  h.reg (by simp only [D, Off.die, oCHAIN_STATUS]; omega) _

variable (s)

theorem noteCe_sameOwner (a : Nat) : s.SameOwner (s.noteCe a) :=
  ((State.SameOwner.refl s).die _ _).only ((State.Only.refl [A.hbmErr.code] _).wr _ _ rfl) rfl rfl

theorem raise_sameOwner (src : Nat) : s.SameOwner (s.raise src) := by
  refine ⟨fun r hr => (raise_calm s src).low r ?_, fun i => (raise_calm s src).only.rd A.own i rfl⟩
  rw [hr]
  decide

theorem noteUe_sameOwner (a : Nat) : s.SameOwner (s.noteUe a) := by
  have counted := (State.SameOwner.refl s).die (hbmDie a) (f := HBM_ECC_COUNT_UE) (min (2 ^ HBM_ECC_COUNT_UE.w - 1) (s.rf (D (hbmDie a)) HBM_ECC_COUNT_UE + 1))
  have low := counted.reg (r := D (hbmDie a) + oHBM_ERR_ADDR_LO) (by simp only [D, Off.die, oCHAIN_STATUS]; omega) (a / 64 * 64 + 2 ^ 63)
  exact (low.reg (by simp only [D, Off.die, oCHAIN_STATUS]; omega) _).trans (raise_sameOwner ..)

theorem wakeMem_sameOwner (a : Nat) : s.SameOwner (s.wakeMem a) :=
  (State.SameOwner.refl s).ite ((((State.SameOwner.refl s).reg (by decide) _).only ((State.Only.refl [A.domWake.code] _).wr _ _ rfl) rfl rfl).only
    (releaseHeld_only _) rfl rfl)

theorem l2Drop_sameOwner (die line : Nat) : s.SameOwner (s.l2Drop die line) := by
  have only : s.Only [A.hbmErr.code, A.hbmKnown.code] (s.l2Drop die line) := by
    unfold State.l2Drop
    split
    · exact .refl ..
    · have dropped : s.Only [A.hbmErr.code, A.hbmKnown.code] { s with l2 := s.l2.filter fun x => ¬ (x.die = die ∧ x.line = line) } := (State.Only.refl _ s).update (by rfl)
      have clean := dropped.wr (a := A.hbmErr) line 0 rfl
      exact (dropped.ite ((((clean.wr _ _ rfl).ite clean).step (putBytes_only ..) rfl))).ite dropped
  exact (State.SameOwner.refl s).only only rfl rfl

theorem hbmRead_sameOwner (a n : Nat) : s.SameOwner (s.hbmRead a n).st := by
  have woken : s.SameOwner ((s.wakeMem a).snoopRead (a / 64)) := (wakeMem_sameOwner s a).trans (sameOwner_foldl (fun _ _ => l2Drop_sameOwner ..) ..)
  have opened : s.SameOwner (((s.wakeMem a).snoopRead (a / 64)).free (8 * n)).2 := woken.only (free_only ..) rfl rfl
  have told : s.SameOwner ((((s.wakeMem a).snoopRead (a / 64)).free (8 * n)).2.free 1).2 := opened.only (free_only ..) rfl rfl
  unfold State.hbmRead
  dsimp only
  split
  · exact woken
  split
  · exact (told.trans (noteUe_sameOwner ..)).ite told
  split
  · exact opened
  split
  · exact woken
  · exact woken.trans (noteCe_sameOwner ..)
  · exact woken.trans (noteUe_sameOwner ..)

/-- A read of HBM that an engine's NI carries. -/
theorem engRead_sameOwner (eng pid a n v : Nat) : s.SameOwner (s.engAccess eng pid false a n v).st := by
  unfold State.engAccess State.niAccess State.hbmAccess
  dsimp only
  split
  · split
    · exact .refl s
    split
    · exact .refl s
    · exact hbmRead_sameOwner s a n
  · have counted (d v : Nat) : s.SameOwner (s.wf (Off.die d 0) CN_ERR_NO_ROUTE v) :=
      (State.SameOwner.refl s).reg (by simp only [CN_ERR_NO_ROUTE, Off.die, oCHAIN_STATUS]; omega) _
    exact ((counted _ _).reg (by simp only [Off.die, oCN_ERR_ADDR_LO, oCHAIN_STATUS]; omega) _).reg
      (by simp only [Off.die, oCN_ERR_ADDR_LO, oCHAIN_STATUS]; omega) _

end chain

/-! ### The walk of the page map (R199, R200) -/

section walk
variable {s : State} {eng k pid a base at_ : Nat} {write : Bool} {r : HbmAns}

theorem walkEntry_unread (hr : r = s.engAccess eng pid false at_ 8 0) (h : r.status = 3) : s.walkEntry eng pid a at_ write = (.bad 4, r.st) := by
  rw [State.walkEntry, State.mapRead, ← hr]
  exact if_pos h

theorem walkEntry_refused (hr : r = s.engAccess eng pid false at_ 8 0) (h3 : r.status ≠ 3) (h : r.status ≠ 0) :
    s.walkEntry eng pid a at_ write = (.bad 1, r.st) := by
  rw [State.walkEntry, State.mapRead, ← hr]
  exact (if_neg h3).trans (if_pos h)

/-- A level-2 entry that has been read. -/
theorem walkEntry_read (hr : r = s.engAccess eng pid false at_ 8 0) (h : r.status = 0) : s.walkEntry eng pid a at_ write =
    match entryCheck r.data write with
    | .frame e =>
      if ¬ (r.st.frameOwned pid e).1 = true then (.bad 1, (r.st.frameOwned pid e).2)
      else (.frame ((r.st.frameOwned pid e).2.tcLoad eng pid a at_ e write).1, ((r.st.frameOwned pid e).2.tcLoad eng pid a at_ e write).2)
    | t => (t, r.st) := by
  rw [State.walkEntry, State.mapRead, ← hr]
  exact (if_neg (by rw [h]; decide)).trans (if_neg (not_not_intro h))

theorem walkMap_based (hm : s.mapBase k = some base) (hr : r = s.engAccess eng pid false (base + 8 * slice a 36 16) 8 0) :
    s.walkMap eng k pid a write =
    if r.status = 3 then (.bad 4, r.st)
    else if r.status ≠ 0 ∨ slice r.data 0 1 = 0 then (.bad 1, r.st)
    else r.st.walkEntry eng pid a (l2Addr r.data a) write := by
  rw [State.walkMap, hm]
  dsimp only
  rw [State.mapRead, ← hr]

theorem walkMap_valid (hm : s.mapBase k = some base) (hr : r = s.engAccess eng pid false (base + 8 * slice a 36 16) 8 0) (h : r.status = 0)
    (h0 : r.data.testBit 0 = true) : s.walkMap eng k pid a write = r.st.walkEntry eng pid a (l2Addr r.data a) write :=
  (walkMap_based hm hr).trans ((if_neg (by rw [h]; decide)).trans (if_neg fun bad => bad.elim (fun n => n h) fun z =>
    Bool.false_ne_true ((slice_zero_iff.1 z).symm.trans h0)))

end walk

/-! ### Waiting on a page (R203 to R205) -/

section waiting
variable {s : State} {r : MmeReq} {a : Nat}

/-- The engine waits on the page of `a` for the partition of `r` already. -/
def State.pageKnown (s : State) (r : MmeReq) (a : Nat) : Bool :=
  s.waitPages.any fun w => w.engine = engineOf r.course ∧ w.pid = r.pid ∧ w.page = pageOf a

/-- A read that meets a page that is not resident. -/
theorem reqWait_read (hr : r.kind = .read) : s.reqWait r a =
    if ¬ s.pageKnown r a = true ∧ 64 ≤ (s.waitPages.filter (·.engine = engineOf r.course)).length then s.setReq { r with phase := .waitEntry }
    else if s.pageKnown r a = true then s.setReq { r with phase := .waitPage (pageOf a) }
    else State.psSend { s.setReq { r with phase := .waitPage (pageOf a) } with
      waitPages := s.waitPages ++ [⟨engineOf r.course, r.pid, pageOf a, false, a, false⟩] } ⟨engineOf r.course, r.pid, pageOf a, false, a, false⟩ := by
  have hw : ¬ r.kind = .write := by rw [hr]; decide
  rw [State.reqWait, if_neg fun h => hw h.1, if_neg hw, decide_eq_false hw]
  rfl

/-- The engine writes the page-service message of a page whose queue takes it. -/
theorem psSend_takes {w : WaitPage} {k : Nat} (hs : ¬ w.sent = true) (hp : s.slotOfPid w.pid = some k)
    (hq : s.portalQueueOk (s.psQueue k) w.pid = true) (hf : s.qFits (s.psQueue k) 2 = true) (hb : s.on A.qPtrBad (s.psQueue k) = false) :
    s.psSend w = State.qAppend { s with waitPages := s.waitPages.map fun x => if x = w then { x with sent := true } else x }
      (s.psQueue k) deviceProducer (s.psMessage w) := by
  rw [State.psSend, hp]
  dsimp only
  rw [if_pos ⟨hs, hq, hf⟩]
  exact congrArg (State.qAppend · (s.psQueue k) deviceProducer (s.psMessage w)) (if_neg (ne_true_of_eq_false hb))

theorem psSend_full {w : WaitPage} {k : Nat} (hp : s.slotOfPid w.pid = some k) (hf : s.qFits (s.psQueue k) 2 = false) : s.psSend w = s := by
  rw [State.psSend, hp]
  exact if_neg fun h => Bool.false_ne_true (hf.symm.trans h.2.2)

end waiting

/-! ### The host's answer (R204) -/

section answer
variable {s : State} {pid pg : Nat}

/-- The engines no longer wait on the page. -/
def State.pageGone (s : State) (pid pg : Nat) : State := { s with waitPages := s.waitPages.filter fun w => ¬ (w.pid = pid ∧ w.page = pg) }

theorem parkOrder_none {l : List MmeReq} (h : ∀ r ∈ l, r.kind ≠ .write) : parkOrder (l.filter (·.kind = .write)) = [] := by
  rw [List.filter_eq_nil_iff.2 fun r hr => by rw [decide_eq_true_eq]; exact h r hr]
  rfl

theorem psDone_reads (h : ∀ r ∈ s.mme.filter (waitsOn pid pg), r.kind ≠ .write) : s.psDone pid pg =
    (s.mme.filter (waitsOn pid pg)).foldl (fun t r => t.setReq { r with phase := .fresh }) (s.pageGone pid pg) := by
  rw [State.psDone]
  dsimp only
  rw [parkOrder_none h]
  rfl

theorem psFail_reads (h : ∀ r ∈ s.mme.filter (waitsOn pid pg), r.kind ≠ .write) : s.psFail pid pg =
    (s.mme.filter (waitsOn pid pg)).foldl
      (fun t r => t.setReq { r with phase := .failed 3 (if r.kind = .gather then elemAddr r r.done else r.addr) }) (s.pageGone pid pg) :=
  List.foldl_ext _ _ _ fun _ r hr => reqFail_read (h r hr) ..

theorem exec_psDone {who : Who} {slot : Fin 32} {page : BitVec 31} (h : s.Serving who) :
    exec (.memPsDone who slot page) s = .next (s.psWrite who slot page.toNat false) := access_next h _ fun s => s.psWrite who slot page.toNat false

theorem exec_psFail {who : Who} {slot : Fin 32} {page : BitVec 31} (h : s.Serving who) :
    exec (.memPsFail who slot page) s = .next (s.psWrite who slot page.toNat true) := access_next h _ fun s => s.psWrite who slot page.toNat true

theorem psWrite_denied {who : Who} {slot page : Nat} (h : s.maySlot who slot = false) (fail : Bool) : s.psWrite who slot page fail = s.ans 1 0 :=
  if_pos (ne_true_of_eq_false h)

theorem psWrite_okay {who : Who} {slot page : Nat} (h : s.maySlot who slot = true) (hl : s.loaded slot = true) (fail : Bool) :
    s.psWrite who slot page fail = State.okay (if fail = true then s.psFail (s.rd A.pPid slot) page else s.psDone (s.rd A.pPid slot) page) :=
  (if_neg (not_not_intro h)).trans (congrArg State.okay (if_neg (not_not_intro hl)))

end answer

/-- Settles O22: the branches of a walk; what a waiting read does; a page-service message and its answer. -/
theorem memoryModelPaging : Obligations.MemoryModelPaging := by
  refine ⟨?_, ?_, ?_⟩
  · intro s eng k pid a base write hm r1 hr1
    have walk := walkMap_based (write := write) hm hr1
    refine ⟨fun h => walk.trans (if_pos h), fun h3 h => walk.trans ((if_neg h3).trans (if_pos (h.imp id slice_zero_iff.2))), fun h h0 r2 hr2 => ?_⟩
    have walk := walkMap_valid (write := write) hm hr1 h h0
    have kept : s.SameOwner r2.st := (hr1 ▸ engRead_sameOwner s ..).trans (hr2 ▸ engRead_sameOwner r1.st ..)
    refine ⟨fun h => walk.trans (walkEntry_unread hr2 h), fun h3 h => ?_, fun h2 v2 => ?_⟩
    · by_cases hz : r2.status = 0
      · have v := h.resolve_left (not_not_intro hz)
        refine (walk.trans (walkEntry_read hr2 hz)).trans ?_
        rw [entryCheck_invalid v]
      · exact walk.trans (walkEntry_refused hr2 h3 hz)
    · have walk := walk.trans (walkEntry_read hr2 h2)
      refine ⟨fun hw hr => ?_, fun hw hp => ?_, fun hw hp hc ho => ?_, fun hw hp hc ho => ?_⟩
      · rw [walk, hw, entryCheck_readOnly v2 hr]
      · have absent : entryCheck r2.data write = .absent := (entryCheck_valid v2 hw).trans (if_neg (ne_true_of_eq_false hp))
        rw [walk, absent]
      · have frame : entryCheck r2.data write = .frame r2.data := (entryCheck_valid v2 hw).trans (if_pos hp)
        have owned := frameOwned_own (pid := pid) (hc.trans kept.addr.symm)
        rw [walk, frame]
        dsimp only
        rw [owned, kept.owner]
        exact if_pos fun h => ho (of_decide_eq_true h)
      · have frame : entryCheck r2.data write = .frame r2.data := (entryCheck_valid v2 hw).trans (if_pos hp)
        have owned := frameOwned_own (pid := pid) (hc.trans kept.addr.symm)
        rw [walk, frame]
        dsimp only
        rw [owned, kept.owner]
        exact if_neg (not_not_intro (decide_eq_true ho))
  · intro s die engine r eng pg known taken waiting w all hc heng hr hw
    have hw' : decide (r.kind = .write) = false := by rw [hr]; rfl
    have plain : s.walkReq r = s.reqWait r r.addr := by
      rw [walkReq_plain (by rw [hr]; decide), plainReq_absent (by rw [hw', heng]; exact hw)]
    have wait := plain.trans (reqWait_read hr)
    have known_eq : s.pageKnown r r.addr = known := by rw [State.pageKnown, heng]; rfl
    have taken_eq : (s.waitPages.filter (·.engine = engineOf r.course)).length = taken := by rw [heng]
    rw [known_eq, taken_eq, heng] at wait
    have all_of (o : Res) (ho : o = .next (s.walkReq r)) : all o := by
      refine ⟨fun h => ?_, fun h hl => ?_⟩
      · exact ho.trans (congrArg _ (wait.trans ((if_neg fun hn => hn.1 h).trans (if_pos h))))
      · exact ho.trans (congrArg _ (wait.trans ((if_neg fun hn => absurd hn.2 (by omega)).trans (if_neg (ne_true_of_eq_false h)))))
    refine ⟨fun req hq hp hb => ⟨all_of _ (mmeWalk_next hc hq hp hb), fun h hf => ?_⟩, fun hq => ?_⟩
    · exact (mmeWalk_next hc hq hp hb).trans (congrArg _ (wait.trans (if_pos ⟨ne_true_of_eq_false h, hf⟩)))
    · have free : exec (.mmePageEntryFree die engine) s = .next (if taken < 64 then s.walkReq r else s) := by
        change execMmePageEntryFree die engine s = _
        rw [execMmePageEntryFree, State.live_on hc]
        dsimp only
        rw [hq]
      exact ⟨fun hf => all_of _ (free.trans (congrArg _ (if_pos hf))), fun hf => free.trans (congrArg _ (if_neg (Nat.not_lt.2 hf)))⟩
  · intro s die engine who slot page w k pid pg waiting at_ rest
    refine ⟨fun hc hw hp hq => ⟨fun hf hb => ?_, fun hf => ?_⟩, fun hs => ⟨fun hm => ?_, fun hm hl hn => ⟨?_, ?_⟩⟩⟩
    · have unsent := List.find?_some hw
      have unsent := (of_decide_eq_true unsent).2
      change execPageServiceMessageWritten die engine s = _
      rw [execPageServiceMessageWritten, State.live_on hc, hw]
      exact congrArg _ (psSend_takes unsent hp hq hf hb)
    · change execPageServiceMessageWritten die engine s = _
      rw [execPageServiceMessageWritten, State.live_on hc, hw]
      exact congrArg _ (psSend_full hp hf)
    · exact ⟨(exec_psDone hs).trans (congrArg _ (psWrite_denied hm _)), (exec_psFail hs).trans (congrArg _ (psWrite_denied hm _))⟩
    · refine (exec_psDone hs).trans (congrArg _ ((psWrite_okay hm hl _).trans ?_))
      exact congrArg State.okay (psDone_reads hn)
    · refine (exec_psFail hs).trans (congrArg _ ((psWrite_okay hm hl _).trans ?_))
      exact congrArg State.okay (psFail_reads hn)


end Sys2Proof.Machine

/-! SUPPORT and CERTIFICATE. The serial peripherals (chapter 19, R444, R445). -/

namespace Sys2Proof.Machine

open Reg

section periph
variable {s t : State} {x k w : Nat} {p : QPacket}

/-! ### The queues of a peripheral -/

theorem streamQ_iff {q : Nat} : s.streamQ q = true ↔ s.qEn q = true ∧ s.qClass q = 0 := decide_eq_true_iff

theorem rxRoom_iff : s.rxRoom x = true ↔ (s.qEn (s.rxq x) = true ∧ s.qClass (s.rxq x) = 0) ∧ s.qFits (s.rxq x) 1 = true :=
  decide_eq_true_iff.trans (and_congr_left' streamQ_iff)

theorem txPop_closed (h : ¬ s.streamQ (s.txq x) = true) : s.txPop x = (none, s) := if_neg h

theorem txPop_word (h : s.streamQ (s.txq x) = true) (hq : s.on A.qPtrBad (s.txq x) = false) (hf : s.qFirst (s.txq x) = some p)
    (hp : p.words = [w]) (hw : w < 2 ^ 64) : s.txPop x = (some w, s.afterPop (s.txq x) p) := by
  rw [State.txPop, if_pos h, qPop_word hf hq hp hw]
  rfl

theorem rxPush_closed (h : ¬ s.streamQ (s.rxq x) = true) : s.rxPush x w = (false, s) := if_neg h

theorem rxPush_room (h : s.rxRoom x = true) (hq : s.on A.qPtrBad (s.rxq x) = false) (ho : s.qOpen (s.rxq x) (110 + x) ≠ none ∨ s.qOpens (s.rxq x) < 8) :
    s.rxPush x w = (true, s.afterPush (s.rxq x) (110 + x) w true) := by
  obtain ⟨⟨en, cls⟩, fits⟩ := rxRoom_iff.1 h
  rw [State.rxPush, if_pos (streamQ_iff.2 ⟨en, cls⟩)]
  exact qPush_takes ⟨en, hq, by rw [cls]; decide, fits, ho⟩ ..

/-! ### UARTs -/

theorem uartMaySend_iff {u : Nat} : s.uartMaySend u = true ↔ s.periphOn u = true ∧ (s.periphMode u = false ∨ s.sigLevel (4 * u + 3) false = false) := by
  rw [State.uartMaySend, decide_eq_true_iff, not_and_or, Bool.not_eq_true, Bool.not_eq_true]

theorem exec_uartTransmit {u : Fin 2} (hc : s.clocked = true) : exec (.uartTransmit u) s = .next (s.uartSend u) :=
  live_next hc fun s => s.uartSend u

theorem uartSend_none {u : Nat} (h : s.uartMaySend u = true) (ht : s.txPop u = (none, t)) : s.uartSend u = t := by
  rw [State.uartSend, if_pos h, ht]

theorem uartSend_word {u : Nat} (h : s.uartMaySend u = true) (ht : s.txPop u = (some w, t)) :
    s.uartSend u = { t with out := t.out ++ [.uart u (w % 256)] } := by
  rw [State.uartSend, if_pos h, ht]

theorem exec_uartReceive {u : Fin 2} {byte : Byte} {framing brk : Bool} (hc : s.clocked = true) : exec (.uartReceive u byte framing brk) s =
    .next (if s.sigWired (4 * u + 1) then s.uartTake u byte.toNat framing brk else s) :=
  live_next hc fun s => if s.sigWired (4 * u + 1) then s.uartTake u byte.toNat framing brk else s

theorem uartTake_off {u byte : Nat} {framing brk : Bool} (h : s.periphOn u = false) : s.uartTake u byte framing brk = s :=
  if_pos (ne_true_of_eq_false h)

theorem uartTake_on {u byte : Nat} {framing brk ok : Bool} (h : s.periphOn u = true)
    (hr : s.rxPush u (byte + 2 ^ 8 * bit framing + 2 ^ 9 * bit brk) = (ok, t)) : s.uartTake u byte framing brk =
    if ok then t else t.cnt 0 (if u = 0 then PERIPH_ERR_UART0_DROP else PERIPH_ERR_UART1_DROP) 1 := by
  rw [State.uartTake, if_neg (not_not_intro h), hr]

/-! ### I2C controllers -/

variable {lost : Bool} {f : Nat → State → Nat × State}

theorem i2cDiscard_idle (h : s.on A.i2cSkip k = false) (fuel : Nat) : s.i2cDiscard k fuel = s := by
  cases fuel with
  | zero => rfl
  | succ n => exact if_neg (ne_true_of_eq_false h)

/-- A controller that discards nothing. -/
theorem i2cRun_fresh (h : s.on A.i2cSkip k = false) : s.i2cRun k lost f =
    if ¬ (s.periphOn (2 + k) = true ∧ s.rxRoom (2 + k) = true) ∨ s.on A.i2cSkip k = true then s
    else match s.txPop (2 + k) with
      | (none, s) => s
      | (some w, s) =>
        let y := ((f w s).2.rxPush (2 + k) (f w s).1).2
        let z : State := { y with out := y.out ++ [.i2c k w] }
        if lost then (z.wr A.i2cSkip k 1).i2cDiscard k (z.packets.length + 1) else z := by
  rw [State.i2cRun, i2cDiscard_idle h, ite_self] <;> rfl

theorem i2cRun_waits (h : s.on A.i2cSkip k = false) (hn : s.periphOn (2 + k) = false ∨ s.rxRoom (2 + k) = false) : s.i2cRun k lost f = s :=
  (i2cRun_fresh h).trans (if_pos (.inl fun ⟨ho, hr⟩ => hn.elim (fun e => Bool.false_ne_true (e.symm.trans ho)) fun e => Bool.false_ne_true (e.symm.trans hr)))

section runs
variable (h : s.on A.i2cSkip k = false) (ho : s.periphOn (2 + k) = true) (hr : s.rxRoom (2 + k) = true)
include h ho hr

theorem i2cRun_none (ht : s.txPop (2 + k) = (none, t)) : s.i2cRun k lost f = t := by
  rw [i2cRun_fresh h, if_neg fun bad => bad.elim (fun n => n ⟨ho, hr⟩) (ne_true_of_eq_false h), ht]

/-- The state after a command whose answer is `r`. -/
def State.i2cDone (t : State) (k w r : Nat) : State := { (t.rxPush (2 + k) r).2 with out := (t.rxPush (2 + k) r).2.out ++ [.i2c k w] }

theorem i2cRun_word (ht : s.txPop (2 + k) = (some w, t)) {r : Nat} {v : State} (hf : f w t = (r, v)) : s.i2cRun k lost f =
    if lost then ((v.i2cDone k w r).wr A.i2cSkip k 1).i2cDiscard k ((v.i2cDone k w r).packets.length + 1) else v.i2cDone k w r := by
  rw [i2cRun_fresh h, if_neg fun bad => bad.elim (fun n => n ⟨ho, hr⟩) (ne_true_of_eq_false h), ht]
  dsimp only
  rw [hf]
  rfl

end runs

/-- The answer of an I2C command (R444, R442). -/
def i2cAnswer (byte : Nat) (nack lost sda : Bool) (w : Nat) : Nat :=
  (if slice w 10 1 = 1 then (if sda then byte else 0xFF) else slice w 0 8) + 2 ^ 8 * bit (nack || !sda) + 2 ^ 9 * bit lost

/-- The answer of a command that SDA carries. -/
theorem i2cAnswer_wired (b : Nat) (nack lost : Bool) (w : Nat) :
    i2cAnswer b nack lost true w = (if slice w 10 1 = 1 then b else slice w 0 8) + 2 ^ 8 * bit nack + 2 ^ 9 * bit lost := by
  rw [i2cAnswer, Bool.not_true, Bool.or_false, if_pos rfl]

theorem exec_i2cCommand {k : Fin 4} {byte : Byte} {nack arb : Bool} (hc : s.clocked = true) : exec (.i2cCommand k byte nack arb) s =
    .next (s.i2cRun k (arb && s.sigWired (9 + 2 * k)) fun w t =>
      (i2cAnswer byte.toNat nack (arb && s.sigWired (9 + 2 * k)) (s.sigWired (9 + 2 * k)) w, t)) :=
  live_next hc fun s => s.i2cRun k (arb && s.sigWired (9 + 2 * k)) fun w t =>
      (i2cAnswer byte.toNat nack (arb && s.sigWired (9 + 2 * k)) (s.sigWired (9 + 2 * k)) w, t)

/-- The answer of a transfer that times out. -/
def i2cTimeout (w : Nat) (t : State) : Nat × State :=
  ((if slice w 10 1 = 1 then t.free 8 else (slice w 0 8, t)).1 + 2 ^ 10, (if slice w 10 1 = 1 then t.free 8 else (slice w 0 8, t)).2)

theorem exec_smbusTimeout {k : Fin 4} (hc : s.clocked = true) : exec (.smbusTimeout k) s =
    .next (if s.periphMode (2 + k) ∧ s.sigWired (8 + 2 * k) then s.i2cRun k true i2cTimeout else s) :=
  live_next hc fun s => if s.periphMode (2 + k) ∧ s.sigWired (8 + 2 * k) then s.i2cRun k true i2cTimeout else s

section commands
variable {k : Fin 4} {byte : Byte} {nack : Bool} (hc : s.clocked = true) (h : s.on A.i2cSkip k = false) (ho : s.periphOn (2 + k) = true)
  (hr : s.rxRoom (2 + k) = true) (ht : s.txPop (2 + k) = (some w, t))
include hc h ho hr ht

theorem i2c_word {arb lost sda : Bool} (hw : s.sigWired (9 + 2 * k) = sda) (hl : (arb && sda) = lost) : exec (.i2cCommand k byte nack arb) s =
    .next (if lost then ((t.i2cDone k w (i2cAnswer byte.toNat nack lost sda w)).wr A.i2cSkip k 1).i2cDiscard k
      ((t.i2cDone k w (i2cAnswer byte.toNat nack lost sda w)).packets.length + 1) else t.i2cDone k w (i2cAnswer byte.toNat nack lost sda w)) := by
  rw [exec_i2cCommand hc, hw, hl]
  exact congrArg _ (i2cRun_word h ho hr ht rfl)

theorem i2c_unwired {arb : Bool} (hw : s.sigWired (9 + 2 * k) = false) : exec (.i2cCommand k byte nack arb) s =
    .next (t.i2cDone k w ((if slice w 10 1 = 1 then 0xFF else slice w 0 8) + 2 ^ 8)) := by
  have answer : i2cAnswer byte.toNat nack false false w = (if slice w 10 1 = 1 then 0xFF else slice w 0 8) + 2 ^ 8 := by
    simp [i2cAnswer, bit]
  rw [i2c_word hc h ho hr ht hw (Bool.and_false _), answer]
  rfl

theorem i2c_kept (hw : s.sigWired (9 + 2 * k) = true) : exec (.i2cCommand k byte nack false) s =
    .next (t.i2cDone k w ((if slice w 10 1 = 1 then byte.toNat else slice w 0 8) + 2 ^ 8 * bit nack)) := by
  have none : 2 ^ 9 * bit false = 0 := rfl
  rw [i2c_word hc h ho hr ht hw (Bool.false_and _), i2cAnswer_wired, none, Nat.add_zero]
  rfl

theorem i2c_lost (hw : s.sigWired (9 + 2 * k) = true) : exec (.i2cCommand k byte nack true) s =
    .next (((t.i2cDone k w ((if slice w 10 1 = 1 then byte.toNat else slice w 0 8) + 2 ^ 8 * bit nack + 2 ^ 9)).wr A.i2cSkip k 1).i2cDiscard k
      ((t.i2cDone k w ((if slice w 10 1 = 1 then byte.toNat else slice w 0 8) + 2 ^ 8 * bit nack + 2 ^ 9)).packets.length + 1)) := by
  have one : 2 ^ 9 * bit true = 2 ^ 9 := rfl
  rw [i2c_word hc h ho hr ht hw (Bool.and_true _), i2cAnswer_wired, one, if_pos rfl]

theorem smbus_lost (hm : s.periphMode (2 + k) = true) (hw : s.sigWired (8 + 2 * k) = true) (h10 : slice w 10 1 = 0) : exec (.smbusTimeout k) s =
    .next (((t.i2cDone k w (slice w 0 8 + 2 ^ 10)).wr A.i2cSkip k 1).i2cDiscard k ((t.i2cDone k w (slice w 0 8 + 2 ^ 10)).packets.length + 1)) := by
  have answer : i2cTimeout w t = (slice w 0 8 + 2 ^ 10, t) := by
    rw [i2cTimeout, if_neg (by rw [h10]; decide)]
  rw [exec_smbusTimeout hc, if_pos ⟨hm, hw⟩, i2cRun_word h ho hr ht answer, if_pos rfl]

end commands

/-! ### SPI controllers -/

/-- The state after a transfer that answers `r`. -/
def State.spiDone (t : State) (k w r : Nat) : State := { (t.rxPush (6 + k) r).2 with out := (t.rxPush (6 + k) r).2.out ++ [.spi k w] }

theorem exec_spiTransfer {k : Fin 4} {miso : Word} (hc : s.clocked = true) : exec (.spiTransfer k miso) s =
    .next (if s.periphOn (6 + k) ∧ s.rxRoom (6 + k) then
      match s.txPop (6 + k) with
      | (none, s) => s
      | (some w, s) => s.spiDone k w (if s.sigWired (0x12 + 7 * k) then miso.toNat % 2 ^ (slice w 32 5 + 1) else 0)
    else s) :=
  live_next hc fun s => if s.periphOn (6 + k) ∧ s.rxRoom (6 + k) then
      match s.txPop (6 + k) with
      | (none, s) => s
      | (some w, s) => s.spiDone k w (if s.sigWired (0x12 + 7 * k) then miso.toNat % 2 ^ (slice w 32 5 + 1) else 0)
    else s

theorem spi_none {k : Fin 4} {miso : Word} (hc : s.clocked = true) (ho : s.periphOn (6 + k) = true) (hr : s.rxRoom (6 + k) = true)
    (ht : s.txPop (6 + k) = (none, t)) : exec (.spiTransfer k miso) s = .next t := by
  rw [exec_spiTransfer hc, if_pos ⟨ho, hr⟩, ht]

theorem spi_word {k : Fin 4} {miso : Word} (hc : s.clocked = true) (ho : s.periphOn (6 + k) = true) (hr : s.rxRoom (6 + k) = true)
    (ht : s.txPop (6 + k) = (some w, t)) : exec (.spiTransfer k miso) s =
    .next (t.spiDone k w (if t.sigWired (0x12 + 7 * k) then miso.toNat % 2 ^ (slice w 32 5 + 1) else 0)) := by
  rw [exec_spiTransfer hc, if_pos ⟨ho, hr⟩, ht]

end periph

/-- Settles O56: each command's condition, its word from TXQ and its answer into RXQ. -/
theorem serialPeripherals : Obligations.SerialPeripherals := by
  intro s u k byte framing brk nack lost miso w t x p tq rq stream un i j sends got drop room runs data after
  have room_iff (x : Nat) : s.rxRoom x = true ↔ room x := by
    rw [rxRoom_iff]
    rfl
  have shut {x : Nat} (h : ¬ room x) : s.rxRoom x = false := Bool.eq_false_iff.2 fun hr => h ((room_iff x).1 hr)
  have sends_iff : s.uartMaySend un = true ↔ sends := uartMaySend_iff
  refine ⟨fun h => txPop_closed fun hs => h (streamQ_iff.1 hs), fun hs hq hf hp hw => txPop_word (streamQ_iff.2 hs) hq hf hp hw,
    fun h => rxPush_closed fun hs => h (streamQ_iff.1 hs), fun hr hq ho => rxPush_room ((room_iff x).2 hr) hq ho, fun hc => ?_⟩
  have receive := exec_uartReceive (s := s) (u := u) (byte := byte) (framing := framing) (brk := brk) hc
  have timeout := exec_smbusTimeout (s := s) (k := k) hc
  refine ⟨fun h => (exec_uartTransmit hc).trans (congrArg _ (if_neg fun hs => h (sends_iff.1 hs))),
    fun h ht => (exec_uartTransmit hc).trans (congrArg _ (uartSend_none (sends_iff.2 h) ht)),
    fun h ht => (exec_uartTransmit hc).trans (congrArg _ (uartSend_word (sends_iff.2 h) ht)), fun h => ?_,
    fun ho hw => ⟨fun hr => ?_, fun hr => ?_⟩, fun hs h => ?_, fun ⟨ho, hr, hs⟩ => ⟨fun ht => ?_, fun ht => ⟨fun hw => ?_, fun hw => ?_, fun hw => ?_,
      fun hm hw h10 => ?_⟩⟩, fun h => ?_, fun h => ?_, fun ho hr => ⟨fun ht => spi_none hc ho ((room_iff j).2 hr) ht, fun ht => spi_word hc ho ((room_iff j).2 hr) ht⟩⟩
  · refine receive.trans (congrArg _ ?_)
    rcases h with h | h
    · rw [uartTake_off h, ite_self]
    · exact if_neg (ne_true_of_eq_false h)
  · exact receive.trans (congrArg _ ((if_pos hw).trans (uartTake_on ho hr)))
  · exact receive.trans (congrArg _ ((if_pos hw).trans (uartTake_on ho hr)))
  · exact (exec_i2cCommand hc).trans (congrArg _ (i2cRun_waits hs (h.imp id shut)))
  · exact (exec_i2cCommand hc).trans (congrArg _ (i2cRun_none hs ho ((room_iff i).2 hr) ht))
  · exact i2c_unwired hc hs ho ((room_iff i).2 hr) ht hw
  · exact i2c_kept hc hs ho ((room_iff i).2 hr) ht hw
  · exact i2c_lost hc hs ho ((room_iff i).2 hr) ht hw
  · exact smbus_lost hc hs ho ((room_iff i).2 hr) ht hm hw h10
  · exact timeout.trans (congrArg _ (if_neg fun ⟨hm, hw⟩ => h.elim (fun e => Bool.false_ne_true (e.symm.trans hm)) fun e => Bool.false_ne_true (e.symm.trans hw)))
  · exact (exec_spiTransfer hc).trans (congrArg _ (if_neg fun ⟨ho, hr⟩ => h.elim (fun e => Bool.false_ne_true (e.symm.trans ho)) fun e => e ((room_iff j).1 hr)))

end Sys2Proof.Machine

/-! SUPPORT and CERTIFICATE. Accesses of the PCIe functions, and their resets (chapter 20, R352, R458 to R463). -/

namespace Sys2Proof.Machine

open Reg

/-! ### Resets of a function's host state (R459) -/

section reset
variable {s : State} {f : Nat}

/-- The tables of a function's vectors and of its queue accesses, and its registers. -/
def vecArrays : List Arr := [A.vecRaised, A.vecPend, A.vecOpen, A.vecMsg]
def accArrays : List Arr := [A.qAcc, A.qHiLatch, A.qHeld, A.qLastLo]
def hostArrays : List Arr := [A.funcMask, A.hostBar2, A.hostDm, A.hostErr, A.hostErrAddr, A.hostErrLatch]

/-- The registers and tables of function `f` as a reset leaves them. -/
def State.hostCleared (s : State) (f : Nat) : State :=
  hostArrays.foldl (fun s a => s.wr a f 0) (accArrays.foldl (fun s a => s.drop a fun i => i % 64 = f)
    (vecArrays.foldl (fun s a => s.drop a fun i => i / 1024 = f) s))

/-- And without its requests to other devices. -/
def State.hostGone (s : State) (f : Nat) : State := { s.hostCleared f with farReqs := (s.hostCleared f).farReqs.filter (·.func ≠ f) }

theorem funcReset_eq (s : State) (f : Nat) : s.funcReset f = (s.hostGone f).dropOpen f := rfl

theorem hostGone_rd (s : State) (f : Nat) (a : Arr) (i : Nat) : (s.hostGone f).rd a i = (s.hostCleared f).rd a i := by
  unfold State.hostGone
  generalize s.hostCleared f = u
  rfl

/-- What neither a write nor a drop of an array changes. -/
theorem hostCleared_keeps {β : Type} (obs : State → β) (hw : ∀ (u : State) a i v, obs (u.wr a i v) = obs u)
    (hd : ∀ (u : State) a p, obs (u.drop a p) = obs u) (s : State) (f : Nat) : obs (s.hostCleared f) = obs s := by
  have vec := foldl_keeps (obs := obs) (f := fun s a => s.drop a fun i => i / 1024 = f) (l := vecArrays) (fun u a _ => hd ..) s
  have acc := foldl_keeps (obs := obs) (f := fun s a => s.drop a fun i => i % 64 = f) (l := accArrays) (fun u a _ => hd ..)
    (vecArrays.foldl (fun s a => s.drop a fun i => i / 1024 = f) s)
  exact ((foldl_keeps (obs := obs) (l := hostArrays) (fun u a _ => hw ..) _).trans acc).trans vec

theorem hostGone_packets (s : State) (f : Nat) : (s.hostGone f).packets = s.packets := by
  rw [← hostCleared_keeps State.packets (fun _ _ _ _ => rfl) (fun _ _ _ => rfl) s f]
  unfold State.hostGone
  generalize s.hostCleared f = u
  rfl

theorem hostGone_mem (s : State) (f : Nat) : (s.hostGone f).mem = s.mem := by
  rw [← hostCleared_keeps State.mem (fun _ _ _ _ => rfl) (fun _ _ _ => rfl) s f]
  unfold State.hostGone
  generalize s.hostCleared f = u
  rfl

section lists
variable {a : Arr} {l : List Arr} {p : Nat → Bool} {i j : Nat} {codes : List Nat} {t : State}

theorem State.Only.drops (h : s.Only codes t) (hl : ∀ a ∈ l, codes.contains a.code = true) (p : Nat → Bool) :
    s.Only codes (l.foldl (fun s a => s.drop a p) t) := by
  induction l generalizing t with
  | nil => exact h
  | cons x r ih => exact ih (h.drop _ _ (hl x List.mem_cons_self)) fun a ha => hl a (List.mem_cons_of_mem x ha)

theorem State.Only.writes (h : s.Only codes t) (hl : ∀ a ∈ l, codes.contains (a.code % 512) = true) (i : Nat) :
    s.Only codes (l.foldl (fun s a => s.wr a i 0) t) := by
  induction l generalizing t with
  | nil => exact h
  | cons x r ih => exact ih (h.wr _ _ (hl x List.mem_cons_self)) fun a ha => hl a (List.mem_cons_of_mem x ha)

theorem drops_beside (ha : a.code < 512) (hp : p i = false) (s : State) : (l.foldl (fun s a => s.drop a p) s).rd a i = s.rd a i :=
  foldl_keeps (obs := fun u => u.rd a i) (fun u x _ => by rw [rd_drop_eq _ _ ha, if_neg fun h => Bool.false_ne_true (hp.symm.trans h.2)]) s

theorem drops_zero (ha : a.Plain) (hp : p i = true) (hl : a ∈ l) (s : State) : (l.foldl (fun s a => s.drop a p) s).rd a i = 0 := by
  have rest (l : List Arr) (u : State) (hu : u.rd a i = 0) : (l.foldl (fun s a => s.drop a p) u).rd a i = 0 := by
    induction l generalizing u with
    | nil => exact hu
    | cons x r ih => exact ih _ (by rw [rd_drop_eq _ _ ha.1, dflt_plain ha, Nat.zero_mod, hu, ite_self])
  induction l generalizing s with
  | nil => cases hl
  | cons x r ih =>
    rcases List.mem_cons.1 hl with rfl | hr
    · exact rest r _ (by rw [rd_drop_eq _ _ ha.1, dflt_plain ha, Nat.zero_mod, if_pos ⟨rfl, hp⟩])
    · exact ih hr _

theorem writes_beside (ha : a.code < 512) (hl : ∀ x ∈ l, x.code < 512) (h : i ≠ j) (s : State) : (l.foldl (fun s a => s.wr a i 0) s).rd a j = s.rd a j :=
  foldl_keeps (obs := fun u => u.rd a j) (fun u x hx => State.rd_wr_key _ _ _ _ _ _ fun e => by
    have := hl x hx
    simp only [Arr.key] at e
    omega) s

end lists

theorem hostCleared_only (s : State) (f : Nat) : s.Only ((vecArrays ++ accArrays ++ hostArrays).map Arr.code) (s.hostCleared f) :=
  (((State.Only.refl ..).drops (by decide) _).drops (by decide) _).writes (by decide) _

theorem hostCleared_host {a : Arr} (ha : a ∈ hostArrays) (g : Nat) : (s.hostCleared f).rd a g = if g = f then 0 else s.rd a g := by
  have code : ∀ x ∈ hostArrays, x.code < 512 ∧ ((vecArrays ++ accArrays).map Arr.code).contains (x.code % 512) = false := by decide
  split
  · next h =>
    subst h
    exact zeroed_reads ha g _
  · next h =>
    exact (writes_beside (code a ha).1 (fun x hx => (code x hx).1) (fun e => h e.symm) _).trans
      ((((State.Only.refl ((vecArrays ++ accArrays).map Arr.code) s).drops (by decide) _).drops (by decide) _).rd a g (code a ha).2)

theorem hostCleared_vec {a : Arr} (ha : a ∈ vecArrays) (i : Nat) : (s.hostCleared f).rd a i = if i / 1024 = f then 0 else s.rd a i := by
  have plain : ∀ x ∈ vecArrays, (x.code < 512 ∧ x.code ≠ A.reg.code ∧ x.code ≠ A.evtVec.code) ∧ ((accArrays ++ hostArrays).map Arr.code).contains (x.code % 512) = false := by decide
  have later := (((State.Only.refl ((accArrays ++ hostArrays).map Arr.code) (vecArrays.foldl (fun s a => s.drop a fun i => i / 1024 = f) s)).drops
    (l := accArrays) (by decide) fun i => i % 64 = f).writes (l := hostArrays) (by decide) f).rd a i (plain a ha).2
  refine later.trans ?_
  split
  · next h => exact drops_zero (plain a ha).1 (decide_eq_true h) ha s
  · next h => exact drops_beside (plain a ha).1.1 (decide_eq_false h) s

/-- Discarding packets leaves the rest, but for what a pointer fault of their queues records. -/
theorem dropOpen_calm (s : State) (p : Nat) : s.Calm recordCodes (s.dropOpen p) := by
  have checked (l : List QPacket) : s.Calm recordCodes (l.foldl (fun s x => s.qCheck x.queue) s) := by
    refine calm_foldl ?_ l s
    intro u x
    exact qCheck_calm u x.queue
  exact (checked _).update (by rfl) (by rfl)

theorem funcReset_reads {a : Arr} (ha : recordCodes.contains (a.code % 512) = false) (i : Nat) : (s.funcReset f).rd a i = (s.hostCleared f).rd a i := by
  rw [funcReset_eq, ← hostGone_rd]
  exact (dropOpen_calm (s.hostGone f) f).only.rd a i ha

theorem funcReset_host {a : Arr} (ha : a ∈ hostArrays) (g : Nat) : (s.funcReset f).rd a g = if g = f then 0 else s.rd a g := by
  have code : ∀ x ∈ hostArrays, recordCodes.contains (x.code % 512) = false := by decide
  rw [funcReset_reads (code a ha), hostCleared_host ha]

theorem funcReset_vec {a : Arr} (ha : a ∈ [A.vecPend, A.vecOpen, A.vecMsg]) (i : Nat) :
    (s.funcReset f).rd a i = if i / 1024 = f then 0 else s.rd a i := by
  have code : ∀ x ∈ [A.vecPend, A.vecOpen, A.vecMsg], recordCodes.contains (x.code % 512) = false := by decide
  rw [funcReset_reads (code a ha), hostCleared_vec (List.mem_cons_of_mem _ ha)]

theorem funcReset_mem (s : State) (f : Nat) : (s.funcReset f).mem = s.mem := by
  rw [funcReset_eq]
  exact (dropOpen_calm (s.hostGone f) f).mem.trans (hostGone_mem s f)

theorem hostGone_ptrBad (hq : ∀ q, s.on A.qPtrBad q = false) (q : Nat) : (s.hostGone f).on A.qPtrBad q = false := by
  have kept : (s.hostGone f).rd A.qPtrBad q = s.rd A.qPtrBad q := (hostGone_rd ..).trans ((hostCleared_only s f).rd _ q (by decide))
  rw [State.on, kept]
  exact hq q

theorem packets_set (u : State) (l : List QPacket) : ({ u with packets := l } : State).packets = l := rfl

theorem packets_set_rd (u : State) (l : List QPacket) (a : Arr) (i : Nat) : ({ u with packets := l } : State).rd a i = u.rd a i := rfl

/-- A reset where no queue's pointer copies differ. -/
theorem funcReset_sound (hq : ∀ q, s.on A.qPtrBad q = false) : s.funcReset f =
    { s.hostGone f with packets := (s.hostGone f).packets.filter fun x => ¬ (x.producer = f ∧ ¬ x.closed) } := by
  rw [funcReset_eq, dropOpen_sound fun q => hostGone_ptrBad hq q]

theorem funcReset_packets (hq : ∀ q, s.on A.qPtrBad q = false) :
    (s.funcReset f).packets = s.packets.filter fun x => ¬ (x.producer = f ∧ ¬ x.closed) := by
  rw [funcReset_sound hq, packets_set, hostGone_packets]

theorem funcReset_ptrBad (hq : ∀ q, s.on A.qPtrBad q = false) (q : Nat) : (s.funcReset f).on A.qPtrBad q = false := by
  have kept : (s.funcReset f).rd A.qPtrBad q = (s.hostGone f).rd A.qPtrBad q :=
    (congrArg (fun u : State => u.rd A.qPtrBad q) (funcReset_sound hq)).trans (packets_set_rd ..)
  rw [State.on, kept]
  exact hostGone_ptrBad hq q

/-- `t` holds the reset state of function `f`. -/
structure State.HostClear (t : State) (f : Nat) : Prop where
  host : ∀ a ∈ hostArrays, t.rd a f = 0
  vec : ∀ a ∈ [A.vecPend, A.vecOpen, A.vecMsg], ∀ i, i / 1024 = f → t.rd a i = 0

theorem funcReset_clear (s : State) (f : Nat) : (s.funcReset f).HostClear f :=
  ⟨fun _ ha => (funcReset_host ha f).trans (if_pos rfl), fun _ ha _ hi => (funcReset_vec ha _).trans (if_pos hi)⟩

theorem endpointReset_clear (s : State) (hf : f < 33) : s.endpointReset.HostClear f := by
  refine ⟨fun a ha => ?_, fun a ha i hi => ?_⟩
  · obtain ⟨u, -, h⟩ := each_at (obs := fun t => t.rd a f) (f := State.funcReset) hf (fun u g hg => (funcReset_host ha f).trans (if_neg fun e => hg e.symm)) s
    exact h.trans ((funcReset_clear u f).host a ha)
  · obtain ⟨u, -, h⟩ := each_at (obs := fun t => t.rd a i) (f := State.funcReset) hf
      (fun u g hg => (funcReset_vec ha i).trans (if_neg fun e => hg (e.symm.trans hi))) s
    exact h.trans ((funcReset_clear u f).vec a ha i hi)

theorem endpointReset_packets (hq : ∀ q, s.on A.qPtrBad q = false) :
    s.endpointReset.packets = s.packets.filter fun p => ¬ (p.producer < 33 ∧ ¬ p.closed) := by
  have upTo (n : Nat) : (∀ q, (s.each n State.funcReset).on A.qPtrBad q = false) ∧
      (s.each n State.funcReset).packets = s.packets.filter fun p => ¬ (p.producer < n ∧ ¬ p.closed) := by
    induction n with
    | zero =>
      refine ⟨hq, ?_⟩
      exact (List.filter_eq_self.2 fun p _ => decide_eq_true fun h => Nat.not_lt_zero _ h.1).symm
    | succ n ih =>
      have step : s.each (n + 1) State.funcReset = (s.each n State.funcReset).funcReset n := by
        rw [State.each, List.range_succ, List.foldl_append]
        rfl
      obtain ⟨sound, packets⟩ := ih
      rw [step]
      refine ⟨funcReset_ptrBad sound, ?_⟩
      rw [funcReset_packets sound, packets, List.filter_filter]
      refine List.filter_congr fun p _ => ?_
      cases p.closed with
      | true => simp
      | false =>
        rw [← Bool.decide_and, decide_eq_decide]
        simp only [Bool.false_eq_true, not_false_eq_true, and_true]
        omega
  exact (upTo 33).2

theorem endpointReset_mem (s : State) : s.endpointReset.mem = s.mem :=
  foldl_keeps (obs := State.mem) (f := State.funcReset) (fun u f _ => funcReset_mem u f) s

theorem endpointReset_rd {a : Arr} (ha : recordCodes.contains (a.code % 512) = false)
    (hb : ((vecArrays ++ accArrays ++ hostArrays).map Arr.code).contains (a.code % 512) = false) (i : Nat) : s.endpointReset.rd a i = s.rd a i :=
  foldl_keeps (obs := fun t => t.rd a i) (f := State.funcReset) (fun u f _ => (funcReset_reads ha i).trans ((hostCleared_only u f).rd a i hb)) s

end reset

end Sys2Proof.Machine

/-! SUPPORT and CERTIFICATE. Accesses of BAR0 and BAR2 (chapter 20, R352, R460 to R463). -/

namespace Sys2Proof.Machine

open Reg

section completion
variable {s u : State} {f : Nat} {write : Bool} {bar2 o st d : Nat}

/-- The status and the data of an answer reach the function; what is not OK is counted. -/
def State.replied (u : State) (f : Nat) (write : Bool) (bar2 o st d : Nat) : State :=
  if write then (u.noteStatus f write bar2 o st).ans st d
  else { (u.noteStatus f write bar2 o st).ans st d with out := u.out ++ [.completion f st d] }

theorem complete_of {w : State} (h : w.out = u.out) (a b : Nat) : State.complete (w.ans a b) f write st d =
    if write then w.ans st (if st = 0 ∨ st = 3 then d else 0)
    else { w.ans st (if st = 0 ∨ st = 3 then d else 0) with out := u.out ++ [.completion f st (if st = 0 ∨ st = 3 then d else 0)] } := by
  rw [← h]
  rfl

theorem noteStatus_out (u : State) : (u.noteStatus f write bar2 o st).out = u.out := by
  unfold State.noteStatus
  split <;> rfl

theorem noteStatus_ans (u : State) (a b : Nat) : (u.ans a b).noteStatus f write bar2 o st = (u.noteStatus f write bar2 o st).ans a b := by
  unfold State.noteStatus
  split <;> rfl

/-- What an answer showed before does not matter. -/
theorem complete_ans (a b : Nat) : State.complete ((u.noteStatus f write bar2 o st).ans a b) f write st d =
    u.replied f write bar2 o st (if st = 0 ∨ st = 3 then d else 0) := complete_of (noteStatus_out u) a b

theorem complete_noted (a b : Nat) : State.complete ((u.ans a b).noteStatus f write bar2 o st) f write st d =
    u.replied f write bar2 o st (if st = 0 ∨ st = 3 then d else 0) := by
  rw [noteStatus_ans, complete_ans]

end completion

/-! ### Accesses of BAR0 (R460 to R462) -/

section bar0
variable {s u : State} {func : Fin 33} {write part : Bool} {off : BitVec 27} {dwords : Nat} {data : BitVec 512}

theorem endpointOff_iff {f : Nat} : s.endpointOff f = true ↔ s.on A.pcieDown 0 = true ∨ (s.rf 0 BOOT_STATUS_STAGE = 8 ∧ f ≠ 0) := decide_eq_true_iff

theorem exec_bar0_off (h : s.endpointOff func = true) : exec (.bar0Access func write off dwords data part) s = .next s := if_pos h

theorem exec_bar0_partial (h : s.endpointOff func = false) (hs : s.Serving (whoOf func)) (hp : part = true ∨ off.toNat % 4 ≠ 0) :
    exec (.bar0Access func write off dwords data part) s = .next (s.partialBE func write off.toNat) :=
  (if_neg (ne_true_of_eq_false h)).trans ((if_pos hp).trans (access_next hs _ fun s => s.partialBE func write off.toNat))

theorem domOfWords_one {o v : Nat} (hd : s.domOf o (if write then some (slice v 0 32) else none) = none) : s.domOfWords write o v 1 = none := by
  have one (x : Nat) : slice v (32 * 0) 32 = slice v 0 32 := rfl
  rw [State.domOfWords, List.range_one, List.findSome?_cons, List.findSome?_nil]
  simp only [Nat.mul_zero, Nat.add_zero, hd]

/-- A request of one whole word. -/
theorem exec_bar0_word (h : s.endpointOff func = false) (hs : s.Serving (whoOf func)) (ho : off.toNat % 4 = 0)
    (hd : s.domOf off.toNat (if write then some (slice data.toNat 0 32) else none) = none) :
    exec (.bar0Access func write off 1 data false) s = .next (s.bar0 func write off.toNat 1 data.toNat) := by
  have aligned : off.toNat / 4 * 4 = off.toNat := by omega
  have up : s.domOfWords write (off.toNat / 4 * 4) data.toNat (min 1 16) = none := by
    rw [aligned]
    exact domOfWords_one hd
  have run : exec (.bar0Access func write off 1 data false) s = s.accessIn (whoOf func) (s.domOfWords write (off.toNat / 4 * 4) data.toNat (min 1 16))
      (if write then wakeOfWords (off.toNat / 4 * 4) data.toNat (min 1 16) else 0) (.bar0Access func write off 1 data false)
      fun s => .next (s.bar0 func write (off.toNat / 4 * 4) (min 1 16) data.toNat) :=
    (if_neg (ne_true_of_eq_false h)).trans (if_neg fun bad => bad.elim Bool.false_ne_true fun n => n ho)
  rw [run, up, aligned]
  exact accessAs_on hs _ _ fun s => .next (s.bar0 func write off.toNat 1 data.toNat)

/-- A word's answer, as the function sees it (R461, R462). -/
theorem bar0_one {f : Fin 33} {o v : Nat} (hu : u = s.bar0Word f write o (slice v 0 32)) : s.bar0 f write o 1 v =
    u.replied f write 0 o u.rsp.status (if u.rsp.status = 0 ∨ u.rsp.status = 3 then (if write then 0 else slice u.rsp.data 0 32) else 0) := by
  have words : s.bar0Words f write o v 0 0 0 1 = u.ans u.rsp.status (if write then 0 else slice u.rsp.data 0 32) := by
    rw [hu]
    cases write with
    | true => rfl
    | false =>
      show State.ans _ _ (0 + 2 ^ (32 * 0) * _) = _
      rw [Nat.zero_add, Nat.mul_zero, Nat.pow_zero, Nat.one_mul]
      rfl
  rw [State.bar0, words]
  exact complete_noted ..

/-- A word outside the tables is the register's. -/
theorem bar0Word_register {f : Fin 33} {o v : Nat} (hr : s.Routed) (h : o < 0x4800000) :
    s.bar0Word f write o v = if write then s.writeReg (whoOf f) o v else s.readReg (whoOf f) o := by
  rw [State.bar0Word, if_neg (fun h' => by omega), if_neg (fun h' => by omega), State.hostRouted, hr]

/-- The vector control word of a vector. -/
theorem bar0Word_control {f : Fin 33} {x v : Nat} (h : v < vectorsOf f) (hv : v < 1024) : s.bar0Word f write (0x4800000 + 16 * v + 12) x =
    if write then State.okay (if x.testBit 0 then s.wr A.vecOpen (vecIx f v) 0 else s.vecUnmask f v) else s.ans 0 (1 - s.rd A.vecOpen (vecIx f v)) := by
  have at_ : 0x4800000 + 16 * v + 12 - 0x4800000 = 16 * v + 12 := by omega
  have vec : (16 * v + 12) / 16 = v := by omega
  have word : (16 * v + 12) / 4 % 4 = 3 := by omega
  rw [State.bar0Word, if_pos (by omega), at_, State.msixWrite, State.msixRead, vec, word, if_neg (Nat.not_le.2 h), if_neg (Nat.not_le.2 h)] <;> rfl

theorem placeOf_tables {o : Nat} (h : 0x4800000 ≤ o) : placeOf o = none := by
  rw [placeOf, if_neg (by omega), if_neg (by omega), if_neg (by omega), if_neg (by omega)]

theorem domOf_tables {o : Nat} (h : 0x4800000 ≤ o) (x : Option Nat) : s.domOf o x = none := by
  rw [State.domOf, placeOf_tables h]

end bar0

/-! ### Accesses of BAR2 (R352, R463) -/

section bar2
variable {s u : State} {func : Fin 33} {write : Bool} {off : BitVec 39} {bytes : Nat} {data : BitVec 512}

theorem exec_bar2_off (h : s.endpointOff func = true) : exec (.bar2Access func write off bytes data) s = .next s := if_pos h

theorem exec_bar2_on (h : s.endpointOff func = false) : exec (.bar2Access func write off bytes data) s =
    s.accessIn (whoOf func) (s.domOfBar2 func write off.toNat data.toNat (min bytes 64))
      (if write ∧ s.bar2Mode func = 1 then wakeOfWords off.toNat data.toNat (min bytes 64 / 4) else 0) (.bar2Access func write off bytes data)
      fun s => .next (if s.bar2Waits func off.toNat (min bytes 64) then s.hold (whoOf func) (.bar2Access func write off bytes data) false
        else s.bar2 func write off.toNat (min bytes 64) data.toNat) := if_neg (ne_true_of_eq_false h)

/-- In RECOVERY the staging area answers. -/
theorem exec_bar2_stage (h : s.endpointOff func = false) (hs : s.Serving (whoOf func)) (hb : s.rf 0 BOOT_STATUS_STAGE = 8) :
    exec (.bar2Access func write off bytes data) s = .next (s.bar2Stage write off.toNat (min bytes 64) data.toNat) := by
  have up : s.domOfBar2 func write off.toNat data.toNat (min bytes 64) = none := if_pos (.inr hb)
  have free : s.bar2Waits func off.toNat (min bytes 64) = false := decide_eq_false fun hw => hw.2.1 hb
  rw [exec_bar2_on h, up]
  refine (accessAs_on hs _ _ fun s => .next (if s.bar2Waits func off.toNat (min bytes 64) then s.hold (whoOf func) (.bar2Access func write off bytes data) false
        else s.bar2 func write off.toNat (min bytes 64) data.toNat)).trans ?_
  exact congrArg _ ((if_neg (ne_true_of_eq_false free)).trans (if_pos hb))

/-- A word of HBM on this device. -/
theorem exec_bar2_word (h : s.endpointOff func = false) (hs : s.Serving (whoOf func)) (hb : s.rf 0 BOOT_STATUS_STAGE ≠ 8)
    (hm : s.bar2Mode func = 0) (hd : s.bar2Device func = s.chainAddr) (ho : off.toNat < hbmBytes) (hu : s.domOn (hbmDie off.toNat) domMem = true) :
    exec (.bar2Access func write off 4 data) s = .next (s.bar2 func write off.toNat 4 data.toNat) := by
  have up : s.domOfBar2 func write off.toNat data.toNat (min 4 64) = some (hbmDie off.toNat, domMem) := by
    rw [State.domOfBar2, if_neg fun bad => bad.elim (fun n => n hd) hb, hm]
    exact (if_pos rfl).trans (if_pos ho)
  have free : s.bar2Waits func off.toNat (min 4 64) = false := decide_eq_false fun hw => hw.1 hd
  rw [exec_bar2_on h, up]
  refine (accessDom_on ⟨hs, hu⟩ _ fun s => .next (if s.bar2Waits func off.toNat (min 4 64) then s.hold (whoOf func) (.bar2Access func write off 4 data) false
        else s.bar2 func write off.toNat (min 4 64) data.toNat)).trans ?_
  exact congrArg _ (if_neg (ne_true_of_eq_false free))

/-- Four bytes are one access. -/
theorem pieceSize_word (lim o : Nat) : pieceSize lim o 4 = .b4 := by
  have small (b : Nat) (h : 4 < b) : ¬ decide (b ≤ lim ∧ b ≤ 4 ∧ o % b = 0) = true := fun fits => by
    have := (of_decide_eq_true fits).2.1
    omega
  exact (if_neg (small 64 (by decide))).trans ((if_neg (small 32 (by decide))).trans (if_neg (small 8 (by decide))))

theorem bar2_one {f : Fin 33} {o v : Nat} (hb : s.rf 0 BOOT_STATUS_STAGE ≠ 8) (hm : s.bar2Mode f = 0) (hd : s.bar2Device f = s.chainAddr)
    (hr : s.Routed) (ho : o % 4 = 0) (hu : u = s.request (whoOf f) write true o .b4 (slice v 0 32)) : s.bar2 f write o 4 v =
    u.replied f write 1 o u.rsp.status (if u.rsp.status = 0 ∨ u.rsp.status = 3 then (if write then 0 else u.rsp.data % 2 ^ 32) else 0) := by
  have first : (o + 3) / 4 * 4 = o := by omega
  have last : (o + 4) / 4 * 4 - o = 4 := by omega
  have piece : s.bar2Piece f write o .b4 (slice v 0 32) = u := by
    rw [hu, State.bar2Piece, hm, State.hostRouted, hr] <;> rfl
  have pieces : s.bar2Pieces f write o v 0 0 o 4 16 =
      (u.noteStatus f write 1 o u.rsp.status).ans u.rsp.status (if write then 0 else u.rsp.data % 2 ^ 32) := by
    rw [State.bar2Pieces, if_neg (by decide), pieceSize_word, Nat.sub_self, Nat.mul_zero]
    dsimp only
    rw [show 8 * szBytes .b4 = 32 from rfl, piece]
    cases write with
    | true => rfl
    | false => rw [if_neg Bool.false_ne_true, Nat.pow_zero, Nat.one_mul, Nat.zero_add]; rfl
  refine (if_neg hb).trans ?_
  dsimp only
  rw [first, last, if_neg (not_not_intro hd), pieces]
  exact complete_ans ..

theorem stageWriteBytes_mem (o v n : Nat) : (s.stageWriteBytes o v n).mem = s.mem := by
  induction n generalizing s o v with
  | zero => rfl
  | succ n ih =>
    refine (ih (s := if o < 0x400000 then s.wr A.stageByte o (v % 256) else s) _ _).trans ?_
    split <;> rfl

theorem stageWriteBytes_reads (o v n i : Nat) : (s.stageWriteBytes o v n).rd A.stageByte i =
    if o ≤ i ∧ i < o + n ∧ i < 0x400000 then slice v (8 * (i - o)) 8 else s.rd A.stageByte i := by
  induction n generalizing s o v with
  | zero => exact (if_neg (by omega)).symm
  | succ n ih =>
    refine (ih (s := if o < 0x400000 then s.wr A.stageByte o (v % 256) else s) (o + 1) (v / 256)).trans ?_
    have low (h : o < 0x400000) : (if o < 0x400000 then s.wr A.stageByte o (v % 256) else s).rd A.stageByte o = slice v 0 8 := by
      rw [if_pos h, State.rd_wr_same, slice_at_zero]
      exact Nat.mod_mod ..
    have other (h : o ≠ i ∨ ¬ o < 0x400000) : (if o < 0x400000 then s.wr A.stageByte o (v % 256) else s).rd A.stageByte i = s.rd A.stageByte i := by
      split
      · next lt => exact State.rd_wr_ix _ _ _ _ _ (h.resolve_right (not_not_intro lt))
      · rfl
    by_cases hi : i = o
    · subst hi
      rw [if_neg (by omega)]
      by_cases lt : i < 0x400000
      · rw [low lt, if_pos (by omega), Nat.sub_self, Nat.mul_zero]
      · rw [other (.inr lt), if_neg (by omega)]
    · rw [other (.inl fun e => hi e.symm)]
      by_cases h : o + 1 ≤ i ∧ i < o + 1 + n ∧ i < 0x400000
      · obtain ⟨j, rfl⟩ : ∃ j, i = o + 1 + j := ⟨i - (o + 1), by omega⟩
        have up : 8 * (o + 1 + j - o) = 8 + 8 * j := by omega
        rw [if_pos h, if_pos (by omega), up, Nat.add_sub_cancel_left, slice, slice, Nat.pow_add, ← Nat.div_div_eq_div_mul]
      · rw [if_neg h, if_neg (by omega)]

end bar2

theorem packets_wr (u : State) (a : Arr) (i v : Nat) : (u.wr a i v).packets = u.packets := rfl

/-- Settles O57: each access through the endpoint to its answer, and the endpoint's two resets. -/
theorem hostAccesses : Obligations.HostAccesses := by
  intro s func write part off off2 dwords data f who o o2 w noted shown replied clear
  have told (u : State) (b o st : Nat) : u.hostError f write b o st = noted u b o st := by
    unfold State.hostError errField urStatus
    simp only [noted]
  have reply (u : State) (b o : Nat) : State.replied u f write b o u.rsp.status
      (if u.rsp.status = 0 ∨ u.rsp.status = 3 then (if write then 0 else u.rsp.data % 2 ^ 32) else 0) = replied u b o := by
    have seen : (if u.rsp.status = 0 ∨ u.rsp.status = 3 then (if write then 0 else u.rsp.data % 2 ^ 32) else 0) = if write then 0 else shown u := by
      cases write with
      | true => exact ite_self _
      | false => rfl
    have counts : u.noteStatus f write b o u.rsp.status = if u.rsp.status = 0 then u else noted u b o u.rsp.status := by
      rw [← told]
      rfl
    rw [seen, State.replied, counts]
    cases write with
    | true => rfl
    | false => rfl
  have cleared {t : State} {g : Nat} (h : t.HostClear g) : clear t g :=
    ⟨h.host A.hostBar2 (by simp [hostArrays]), h.host A.hostDm (by simp [hostArrays]), h.host A.hostErr (by simp [hostArrays]),
      h.host A.hostErrAddr (by simp [hostArrays]), h.host A.funcMask (by simp [hostArrays]), fun v hv =>
      ⟨h.vec A.vecOpen (by simp) _ (by omega), h.vec A.vecPend (by simp) _ (by omega), h.vec A.vecMsg (by simp) _ (by omega)⟩⟩
  refine ⟨fun h => ?_, fun hp hf hs => ?_, fun hp => ⟨fun hq hm => ?_, fun hd => ?_, fun hq hd => ?_⟩⟩
  · have off := endpointOff_iff.2 h
    exact ⟨exec_bar0_off off, exec_bar2_off off⟩
  · have on : s.endpointOff func = false := Bool.eq_false_iff.2 fun h => (endpointOff_iff.1 h).elim
      (fun down => Bool.false_ne_true (hp.symm.trans down)) fun ⟨hb, hn⟩ => hn (hf hb)
    refine ⟨fun h => ?_, fun ho hlt hd u hu => ?_, fun v hv ho => ⟨fun hw => ?_, fun hw hb => ?_⟩, fun hb hm hd ho hlt hu u hr => ?_, fun hb hw => ?_⟩
    · refine (exec_bar0_partial on hs h).trans (congrArg _ ?_)
      have out : (noted s 0 o 16).out = s.out := rfl
      rw [← out, ← told]
      rfl
    · refine (exec_bar0_word on hs ho hd).trans (congrArg _ ?_)
      have word : u = s.bar0Word func write o (slice data.toNat 0 32) := by
        rw [bar0Word_register hs.routed hlt, hu, slice_at_zero]
      refine (bar0_one word).trans ?_
      rw [slice_at_zero]
      exact reply u 0 o
    · have place : s.domOf o (if write then some (slice data.toNat 0 32) else none) = none := domOf_tables (by omega) _
      have vec : v < 1024 := by split at hv <;> omega
      refine (exec_bar0_word on hs (by show o % 4 = 0; omega) place).trans (congrArg _ ?_)
      have word : s.ans 0 (1 - s.rd A.vecOpen (1024 * f + v)) = s.bar0Word func write o (slice data.toNat 0 32) := by
        rw [ho, bar0Word_control hv vec, hw]
        rfl
      have small : (1 - s.rd A.vecOpen (1024 * f + v)) % 2 ^ 32 = 1 - s.rd A.vecOpen (1024 * f + v) := Nat.mod_eq_of_lt (by omega)
      refine (bar0_one word).trans ?_
      rw [hw, slice_at_zero, State.rsp_ans]
      dsimp only
      rw [small]
      rfl
    · have place : s.domOf o (if write then some (slice data.toNat 0 32) else none) = none := domOf_tables (by omega) _
      have vec : v < 1024 := by split at hv <;> omega
      refine (exec_bar0_word on hs (by show o % 4 = 0; omega) place).trans (congrArg _ ?_)
      have masked : (slice data.toNat 0 32).testBit 0 = true := by
        rw [slice_at_zero, Nat.testBit_mod_two_pow]
        exact Bool.and_eq_true_iff.2 ⟨rfl, hb⟩
      have word : (s.wr A.vecOpen (1024 * f + v) 0).ans 0 0 = s.bar0Word func write o (slice data.toNat 0 32) := by
        rw [ho, bar0Word_control hv vec, hw, masked]
        rfl
      refine (bar0_one word).trans ?_
      rw [hw]
      rfl
    · refine (exec_bar2_word on hs hb hm hd hlt hu).trans (congrArg _ ?_)
      have request : u = s.request (whoOf func) write true o2 .b4 (slice data.toNat 0 32) := by
        rw [hr, slice_at_zero]
      exact (bar2_one hb hm hd hs.routed ho request).trans (reply u 1 o2)
    · refine ⟨_, exec_bar2_stage on hs hb, ?_⟩
      have staged : s.bar2Stage write off2.toNat (min dwords 64) data.toNat = (s.stageWriteBytes o2 data.toNat (min dwords 64)).ans 0 0 := if_pos hw
      rw [staged]
      refine ⟨rfl, fun i => ?_, ?_⟩
      · rw [State.rd_ans]
        exact stageWriteBytes_reads ..
      · rw [mem_ans]
        exact stageWriteBytes_mem ..
  · refine ⟨_, aon_next hp State.perst, ?_⟩
    have reset : s.perst = s.endpointReset.wr A.pcieDown 0 0 := if_neg hm
    rw [reset]
    have keep (a : Arr) (ha : A.pcieDown.code % 512 ≠ a.code % 512) (i : Nat) :
        (s.endpointReset.wr A.pcieDown 0 0).rd a i = s.endpointReset.rd a i := State.rd_wr_arr _ _ _ _ _ _ ha
    refine ⟨fun g hg => ?_, (packets_wr ..).trans (endpointReset_packets hq), (mem_wr ..).trans (endpointReset_mem s), fun k => ?_⟩
    · have was := endpointReset_clear s hg
      have code : ∀ a ∈ hostArrays ++ [A.vecPend, A.vecOpen, A.vecMsg], A.pcieDown.code % 512 ≠ a.code % 512 := by decide
      exact cleared ⟨fun a ha => (keep a (code a (List.mem_append_left _ ha)) g).trans (was.host a ha),
        fun a ha i hi => (keep a (code a (List.mem_append_right _ ha)) i).trans (was.vec a ha i hi)⟩
    · exact (keep A.pState (by decide) k).trans (endpointReset_rd (by decide) (by decide) k)
  · exact (aon_next hp fun s => if s.on A.pcieDown 0 then s else s.funcReset func).trans (congrArg _ (if_pos hd))
  · have run : exec (.functionLevelReset func) s = .next (s.funcReset func) :=
      (aon_next hp fun s => if s.on A.pcieDown 0 then s else s.funcReset func).trans (congrArg _ (if_neg (ne_true_of_eq_false hd)))
    refine ⟨_, run, cleared (funcReset_clear s f), fun g hg => ⟨?_, ?_⟩, funcReset_packets hq, funcReset_mem s f⟩
    · exact (funcReset_host (a := A.hostBar2) (by simp [hostArrays]) g).trans (if_neg hg)
    · exact (funcReset_host (a := A.hostErr) (by simp [hostArrays]) g).trans (if_neg hg)

end Sys2Proof.Machine

/-! SUPPORT. Access ports: what they look at, and the bed and the word-unit port (chapters 02 and 04, R53 to R56, R106, R491). -/

namespace Sys2Proof.Machine

open Reg

/-! ### What decides an initiator's rights -/

/-- `t` has the partitions, the owners of walls and lanes, and the initiators' identities of `s`. -/
structure State.SameRights (s t : State) : Prop where
  state : ∀ k, t.rd A.pState k = s.rd A.pState k
  pid : ∀ k, t.rd A.pPid k = s.rd A.pPid k
  bind : ∀ c, t.rd A.coreBind c = s.rd A.coreBind c
  wall : ∀ w, t.rd A.wallOwner w = s.rd A.wallOwner w
  acts : t.actAs = s.actAs

section rights
variable {s t : State}

theorem State.Only.sameRights {codes : List Nat} (h : s.Only codes t) (ha : t.actAs = s.actAs)
    (hc : ([A.pState, A.pPid, A.coreBind, A.wallOwner].any fun a => codes.contains (a.code % 512)) = false) : s.SameRights t := by
  have keep (a : Arr) (hm : a ∈ [A.pState, A.pPid, A.coreBind, A.wallOwner]) (i : Nat) : t.rd a i = s.rd a i :=
    h.rd a i (Bool.eq_false_iff.2 fun e => Bool.false_ne_true (hc.symm.trans (List.any_eq_true.2 ⟨a, hm, e⟩)))
  exact ⟨keep _ (by simp), keep _ (by simp), keep _ (by simp), keep _ (by simp), ha⟩

variable (h : s.SameRights t)
include h

theorem State.SameRights.loaded (k : Nat) : t.loaded k = s.loaded k := by rw [State.loaded, h.state, State.loaded]

theorem State.SameRights.stamp (who : Who) : t.stamp who = s.stamp who := by
  have of : t.stampOf who = s.stampOf who := by
    cases who <;> simp only [State.stampOf, h.loaded, h.pid, h.bind]
  rw [State.stamp, State.stamp, h.acts, of]

theorem State.SameRights.pfRights (who : Who) : t.pfRights who = s.pfRights who := by rw [State.pfRights, h.stamp, State.pfRights]

theorem State.SameRights.mayPid (who : Who) (pid : Nat) : t.mayPid who pid = s.mayPid who pid := by
  rw [State.mayPid, h.pfRights, h.stamp, State.mayPid]

theorem State.SameRights.maySlot (who : Who) (k : Nat) : t.maySlot who k = s.maySlot who k := by
  rw [State.maySlot, h.pfRights, h.loaded, h.stamp, h.pid, State.maySlot]

theorem State.SameRights.slotOfWall (w : Nat) : t.slotOfWall w = s.slotOfWall w := by rw [State.slotOfWall, h.wall, State.slotOfWall]

theorem State.SameRights.slotOfBed (b : Nat) : t.slotOfBed b = s.slotOfBed b := h.slotOfWall _

theorem State.SameRights.slotOfPid (pid : Nat) : t.slotOfPid pid = s.slotOfPid pid := by
  unfold State.slotOfPid
  exact congrArg (firstIx 32) (funext fun k => by rw [h.loaded, h.pid])

theorem State.SameRights.mayWall (who : Who) (w : Nat) : t.mayWall who w = s.mayWall who w := by
  unfold State.mayWall
  rw [h.slotOfWall]
  cases s.slotOfWall w with
  | none => exact h.pfRights who
  | some k => exact h.maySlot who k

theorem State.SameRights.wallServes (w : Nat) (idle : Bool) : t.wallServes w idle = s.wallServes w idle := by
  unfold State.wallServes
  rw [h.slotOfWall]
  cases s.slotOfWall w with
  | none => rfl
  | some k => simp only [h.state]

theorem State.SameRights.accCheck (who : Who) (bad : Bool) (w : Nat) (idle : Bool) : t.accCheck who bad w idle = s.accCheck who bad w idle := by
  rw [State.accCheck, h.mayWall, h.wallServes, State.accCheck]

end rights

/-! ### The check before an access (R491) -/

section check
variable {s : State} {who : Who} {bad idle : Bool} {wall : Nat}

theorem accCheck_address : s.accCheck who true wall idle = 3 := if_pos rfl

theorem accCheck_denied (h : s.mayWall who wall = false) : s.accCheck who false wall idle = 2 :=
  (if_neg Bool.false_ne_true).trans (if_pos (ne_true_of_eq_false h))

theorem accCheck_busy (h : s.mayWall who wall = true) (hs : s.wallServes wall idle = false) : s.accCheck who false wall idle = 1 :=
  (if_neg Bool.false_ne_true).trans ((if_neg (not_not_intro h)).trans (if_pos (ne_true_of_eq_false hs)))

theorem accCheck_served (h : s.mayWall who wall = true) (hs : s.wallServes wall idle = true) : s.accCheck who false wall idle = 0 :=
  (if_neg Bool.false_ne_true).trans ((if_neg (not_not_intro h)).trans (if_neg (not_not_intro hs)))

end check

/-! ### A port that is busy -/

/-- The BUSYACC fields of a die's access ports. -/
def busyFields : List Fld := [BED_ACC_STATUS_BUSYACC, WU_ACC_STATUS_BUSYACC, MORTAR_ACC_STATUS_BUSYACC]

section busy
variable {s : State} {die : Nat} {f : Fld}

theorem busy_only (s : State) (die : Nat) (f : Fld) : s.Only [0] (s.wf (D die) f 1) := (State.Only.refl ..).wf _ _ _ rfl

theorem busy_rights (s : State) (die : Nat) (f : Fld) : s.SameRights (s.wf (D die) f 1) := (busy_only s die f).sameRights rfl rfl

/-- Other registers of dies. -/
theorem busy_reg (hf : f ∈ busyFields) {d o : Nat} (ho : o < 0x800000) (hn : ∀ x ∈ busyFields, x.off ≠ o) : (s.wf (D die) f 1).reg (D d + o) = s.reg (D d + o) := by
  refine State.reg_wf _ _ _ _ _ ?_
  have := hn f hf
  have low : f.off < 0x800000 := (by decide : ∀ x ∈ busyFields, x.off < 0x800000) f hf
  simp only [D, Off.die]
  omega

theorem busy_rf (hf : f ∈ busyFields) {d : Nat} {x : Fld} (ho : x.off < 0x800000) (hn : ∀ y ∈ busyFields, y.off ≠ x.off) :
    (s.wf (D die) f 1).rf (D d) x = s.rf (D d) x := congrArg (slice · x.lo x.w) (busy_reg hf ho hn)

theorem busy_newt (hf : f ∈ busyFields) (bed : Nat) : (s.wf (D die) f 1).newtOnBed bed = s.newtOnBed bed := by
  rw [State.newtOnBed, State.newtOnBeds, busy_rf hf (by decide) (by decide), busy_rf hf (by decide) (by decide), busy_rf hf (by decide) (by decide),
    busy_rf hf (by decide) (by decide), State.newtOnBed, State.newtOnBeds]

/-- GO of a port that is busy. -/
theorem bedAccess_busy {who : Who} {write setP clrP : Bool} (h : s.rf (D die) BED_ACC_STATUS_BUSYACC = 1) :
    s.bedAccess who die write setP clrP = s := if_pos h

theorem wuAccess_busy {who : Who} {write : Bool} (h : s.rf (D die) WU_ACC_STATUS_BUSYACC = 1) : s.wuAccess who die write = s := if_pos h

theorem mortarAccess_busy {who : Who} {write : Bool} (h : s.rf (D die) MORTAR_ACC_STATUS_BUSYACC = 1) : s.mortarAccess who die write = s := if_pos h

end busy

/-! ### The bed access port -/

section bed
variable {s : State} {who : Who} {die : Nat} {write setP clrP : Bool}

/-- The bed access port with BUSYACC set. -/
def State.bedBusy (s : State) (die : Nat) : State := s.wf (D die) BED_ACC_STATUS_BUSYACC 1

theorem bedBusy_now (s : State) (die : Nat) : (s.bedBusy die).bedAccNow die = s.bedAccNow die := by
  rw [State.bedAccNow, State.bedBusy, busy_reg (by decide) (by decide) (by decide), busy_reg (by decide) (by decide) (by decide), State.bedAccNow]

theorem bedAccess_held (h : s.rf (D die) BED_ACC_STATUS_BUSYACC = 0) (hn : s.newtOnBed (s.bedAccNow die).bed = true) :
    s.bedAccess who die write setP clrP = (s.bedBusy die).accHold who die 0 write setP clrP := by
  refine (if_neg (by rw [h]; decide)).trans (if_pos ?_)
  rw [← State.bedBusy, bedBusy_now]
  exact (busy_newt (by decide) _).trans hn

theorem bedAccess_now (h : s.rf (D die) BED_ACC_STATUS_BUSYACC = 0) (hn : s.newtOnBed (s.bedAccNow die).bed = false) :
    s.bedAccess who die write setP clrP = (s.bedBusy die).bedPerform who die write setP clrP := by
  refine (if_neg (by rw [h]; decide)).trans (if_neg ?_)
  rw [← State.bedBusy, bedBusy_now]
  exact ne_true_of_eq_false ((busy_newt (by decide) _).trans hn)

/-- RESULT of an access before its data (R491). -/
def State.bedResult (s : State) (who : Who) (die : Nat) (write setP clrP : Bool) : Nat :=
  let a := s.bedAccNow die
  let r := s.accCheck who a.badAddress (a.bed / 256) (write && decide (a.store = 0 ∨ a.store = 6))
  if r = 0 ∧ write ∧ setP ∧ clrP then 3 else r

theorem bedPerform_refused (h : s.bedResult who die write setP clrP ≠ 0) :
    s.bedPerform who die write setP clrP = s.wr A.accRes (3 * die) (s.bedResult who die write setP clrP) := if_pos h

theorem bedBusy_result : (s.bedBusy die).bedResult who die write setP clrP = s.bedResult who die write setP clrP := by
  have same : s.SameRights (s.bedBusy die) := busy_rights ..
  rw [State.bedResult, bedBusy_now, same.accCheck, State.bedResult]

/-- An access that is refused changes nothing but RESULT. -/
theorem bedAccess_refused {r : Nat} (h : s.rf (D die) BED_ACC_STATUS_BUSYACC = 0) (hn : s.newtOnBed (s.bedAccNow die).bed = false)
    (hr : s.bedResult who die write setP clrP = r) (h0 : r ≠ 0) :
    s.bedAccess who die write setP clrP = (s.bedBusy die).wr A.accRes (3 * die) r := by
  rw [bedAccess_now h hn, bedPerform_refused (by rw [bedBusy_result, hr]; exact h0), bedBusy_result, hr]

theorem exec_bedAccRead {die : Fin 8} (h : s.ServingDom who die domFab) : exec (.bedAccRead who die) s = .next ((s.bedAccess who die false false false).ans 0 0) :=
  accessDom_next h _ fun s => (s.bedAccess who die false false false).okay

theorem exec_bedAccWrite {die : Fin 8} (h : s.ServingDom who die domFab) :
    exec (.bedAccWrite who die setP clrP) s = .next ((s.bedAccess who die true setP clrP).ans 0 0) :=
  accessDom_next h _ fun s => (s.bedAccess who die true setP clrP).okay

end bed

/-! ### The word-unit access port (R106) -/

section wu
variable {s : State} {who : Who} {die : Nat} {write : Bool}

/-- The word-unit access port with BUSYACC set. -/
def State.wuBusy (s : State) (die : Nat) : State := s.wf (D die) WU_ACC_STATUS_BUSYACC 1

theorem wuBusy_bed (s : State) (die : Nat) : (s.wuBusy die).wuBed die = s.wuBed die := by
  rw [State.wuBed, State.wuBusy, busy_rf (by decide) (by decide) (by decide), busy_rf (by decide) (by decide) (by decide),
    busy_rf (by decide) (by decide) (by decide), State.wuBed]

theorem wuAccess_held (h : s.rf (D die) WU_ACC_STATUS_BUSYACC = 0) (hn : s.newtOnBed (s.wuBed die) = true) :
    s.wuAccess who die write = (s.wuBusy die).accHold who die 1 write false false := by
  refine (if_neg (by rw [h]; decide)).trans (if_pos ?_)
  rw [← State.wuBusy, wuBusy_bed]
  exact (busy_newt (by decide) _).trans hn

theorem wuAccess_now (h : s.rf (D die) WU_ACC_STATUS_BUSYACC = 0) (hn : s.newtOnBed (s.wuBed die) = false) :
    s.wuAccess who die write = (s.wuBusy die).wuPerform who die write := by
  refine (if_neg (by rw [h]; decide)).trans (if_neg ?_)
  rw [← State.wuBusy, wuBusy_bed]
  exact ne_true_of_eq_false ((busy_newt (by decide) _).trans hn)

theorem wuPerform_refused (h : s.accCheck who false (s.wuBed die / 256) write ≠ 0) :
    s.wuPerform who die write = s.wr A.accRes (3 * die + 1) (s.accCheck who false (s.wuBed die / 256) write) := if_pos h

theorem wuAccess_refused {r : Nat} (h : s.rf (D die) WU_ACC_STATUS_BUSYACC = 0) (hn : s.newtOnBed (s.wuBed die) = false)
    (hr : s.accCheck who false (s.wuBed die / 256) write = r) (h0 : r ≠ 0) : s.wuAccess who die write = (s.wuBusy die).wr A.accRes (3 * die + 1) r := by
  have same : (s.wuBusy die).accCheck who false ((s.wuBusy die).wuBed die / 256) write = r := by
    rw [wuBusy_bed, State.wuBusy, (busy_rights s die WU_ACC_STATUS_BUSYACC).accCheck, hr]
  rw [wuAccess_now h hn, wuPerform_refused (by rw [same]; exact h0), same]

theorem exec_wuAccRead {die : Fin 8} (h : s.ServingDom who die domFab) : exec (.wuAccRead who die) s = .next ((s.wuAccess who die false).ans 0 0) :=
  accessDom_next h _ fun s => (s.wuAccess who die false).okay

theorem exec_wuAccWrite {die : Fin 8} (h : s.ServingDom who die domFab) : exec (.wuAccWrite who die) s = .next ((s.wuAccess who die true).ans 0 0) :=
  accessDom_next h _ fun s => (s.wuAccess who die true).okay

end wu

/-! ### Completion (R56) -/

section done
variable {s : State} {die port : Nat} {busy result : Fld}

/-- An access completes: RESULT shows. -/
theorem accDone_shows (hb : s.rf (D die) busy = 1) (ho : busy.off = result.off) (hl : result.lo = busy.lo + busy.w) (hw : result.w = 3)
    (h32 : result.lo + result.w ≤ 32) : (s.accDone die port busy result).rf (D die) result = s.rd A.accRes (3 * die + port) ∧
      (s.accDone die port busy result).rf (D die) busy = 0 := by
  have done : s.accDone die port busy result =
      ((s.wf (D die) result (s.rd A.accRes (3 * die + port))).wf (D die) busy 0).wr A.accRes (3 * die + port) 0 := if_neg (by rw [hb]; decide)
  have small : s.rd A.accRes (3 * die + port) % 2 ^ result.w = s.rd A.accRes (3 * die + port) := by
    rw [hw]
    exact Nat.mod_eq_of_lt (State.rd_lt ..)
  rw [done]
  refine ⟨?_, ?_⟩
  · rw [State.rf_wr _ _ _ _ _ _ (by decide), State.rf_wf_bits _ _ _ _ _ ho (.inr hl.ge) h32, State.rf_wf_same _ _ _ _ h32, small]
  · rw [State.rf_wr _ _ _ _ _ _ (by decide), State.rf_wf_same _ _ _ _ (by omega), Nat.zero_mod]

theorem bedComplete_free (h : ∀ x ∈ s.accWait, x.1 ≠ 3 * die) :
    s.bedComplete die = s.accDone die 0 BED_ACC_STATUS_BUSYACC BED_ACC_STATUS_RESULT := by
  have none : s.accHeld die 0 = none := List.find?_eq_none.2 fun x hx e => h x hx (of_decide_eq_true e)
  rw [State.bedComplete, none]

theorem wuComplete_free (h : ∀ x ∈ s.accWait, x.1 ≠ 3 * die + 1) :
    s.wuComplete die = s.accDone die 1 WU_ACC_STATUS_BUSYACC WU_ACC_STATUS_RESULT := by
  have none : s.accHeld die 1 = none := List.find?_eq_none.2 fun x hx e => h x hx (of_decide_eq_true e)
  rw [State.wuComplete, none]

end done

end Sys2Proof.Machine

/-! SUPPORT and CERTIFICATE. The mortar's access port, and the refusals of the access ports (chapters 02, 04 and 05, R54, R107, R118, R135, R491). -/

namespace Sys2Proof.Machine

open Reg

/-! ### Lists of entries beside a write -/

section sparse
variable {k v d : Nat} {p : Nat × Nat → Bool}

theorem filter_put (hp : ∀ w, p (k, w) = false) (m : List (Nat × Nat)) : (Sparse.put m k v).filter p = m.filter p := by
  induction m with
  | nil => rw [Sparse.put, List.filter_cons_of_neg (ne_true_of_eq_false (hp v))]
  | cons x r ih =>
    obtain ⟨j, w⟩ := x
    rw [Sparse.put]
    split
    · rw [List.filter_cons_of_neg (ne_true_of_eq_false (hp v))]
    split
    · next e =>
      subst e
      rw [List.filter_cons_of_neg (ne_true_of_eq_false (hp v)), List.filter_cons_of_neg (ne_true_of_eq_false (hp w))]
    · rw [List.filter_cons, List.filter_cons, ih]

theorem filter_del (hp : ∀ w, p (k, w) = false) (m : List (Nat × Nat)) : (Sparse.del m k).filter p = m.filter p := by
  induction m with
  | nil => rfl
  | cons x r ih =>
    obtain ⟨j, w⟩ := x
    rw [Sparse.del]
    split
    · next e =>
      subst e
      rw [ih, List.filter_cons_of_neg (ne_true_of_eq_false (hp w))]
    · rw [List.filter_cons, List.filter_cons, ih]

theorem filter_set (hp : ∀ w, p (k, w) = false) (m : List (Nat × Nat)) : (Sparse.set d m k v).filter p = m.filter p := by
  rw [Sparse.set]
  split
  · exact filter_del hp m
  · exact filter_put hp m

end sparse

/-! ### Lanes and their owners (R117, R118) -/

/-- `t` has the rights, the tables and the owners of lanes of `s`. -/
structure State.SameLanes (s t : State) : Prop extends s.SameRights t where
  own : ∀ kind < 7, ∀ lane, t.rd (A.mOwn kind) lane = s.rd (A.mOwn kind) lane
  entries : ∀ kind < 7, t.tableEntries kind = s.tableEntries kind

theorem tableEntries_wr (s : State) {a : Arr} (i v : Nat) {kind : Nat} (h : a.code % 512 ≠ (A.mTab kind).code) :
    (s.wr a i v).tableEntries kind = s.tableEntries kind := by
  have other (w : Nat) : decide ((a.key i, w).1 % 512 = (A.mTab kind).code ∧ mEn kind (a.key i, w).2 = true) = false := decide_eq_false fun e => h (by
    have := e.1
    simp only [Arr.key] at this
    omega)
  rw [State.tableEntries, State.tableEntries]
  exact congrArg (List.map _) (filter_set other s.arr)

section lanes
variable {s t : State}

theorem State.SameLanes.refl (s : State) : s.SameLanes s := ⟨⟨fun _ => rfl, fun _ => rfl, fun _ => rfl, fun _ => rfl, rfl⟩, fun _ _ _ => rfl, fun _ _ => rfl⟩

theorem State.SameLanes.symm (h : s.SameLanes t) : t.SameLanes s :=
  ⟨⟨fun k => (h.state k).symm, fun k => (h.pid k).symm, fun k => (h.bind k).symm, fun k => (h.wall k).symm, h.acts.symm⟩,
    fun kind hk lane => (h.own kind hk lane).symm, fun kind hk => (h.entries kind hk).symm⟩

theorem State.SameLanes.trans {u : State} (h : s.SameLanes t) (h' : t.SameLanes u) : s.SameLanes u :=
  ⟨⟨fun k => (h'.state k).trans (h.state k), fun k => (h'.pid k).trans (h.pid k), fun k => (h'.bind k).trans (h.bind k),
    fun k => (h'.wall k).trans (h.wall k), h'.acts.trans h.acts⟩,
    fun kind hk lane => (h'.own kind hk lane).trans (h.own kind hk lane), fun kind hk => (h'.entries kind hk).trans (h.entries kind hk)⟩

/-- A write of an array that neither rights nor tables nor owners look at. -/
theorem State.SameLanes.wr (h : s.SameLanes t) {a : Arr} (i v : Nat) (ha : [30, 31, 58, 99].contains (a.code % 512) = false)
    (hl : a.code % 512 < 150 ∨ 157 ≤ a.code % 512 ∧ a.code % 512 < 170 ∨ 177 ≤ a.code % 512) : s.SameLanes (t.wr a i v) := by
  have keep (b : Arr) (hb : [30, 31, 58, 99].contains (b.code % 512) = true) (j : Nat) : (t.wr a i v).rd b j = t.rd b j :=
    State.rd_wr_arr _ _ _ _ _ _ fun e => Bool.false_ne_true (ha.symm.trans (e ▸ hb))
  refine ⟨⟨fun k => (keep _ rfl k).trans (h.state k), fun k => (keep _ rfl k).trans (h.pid k), fun k => (keep _ rfl k).trans (h.bind k),
    fun k => (keep _ rfl k).trans (h.wall k), h.acts⟩, fun kind hk lane => (State.rd_wr_arr _ _ _ _ _ _ ?_).trans (h.own kind hk lane),
    fun kind hk => (tableEntries_wr _ _ _ ?_).trans (h.entries kind hk)⟩
  · simp only [A.mOwn]
    omega
  · simp only [A.mTab]
    omega

/-- The same owner given to a lane in both. -/
theorem State.SameLanes.own_wr (h : s.SameLanes t) {kind : Nat} (hk : kind < 7) (lane v : Nat) :
    (s.wr (A.mOwn kind) lane v).SameLanes (t.wr (A.mOwn kind) lane v) := by
  have keep (u : State) (b : Arr) (hb : b.code = 30 ∨ b.code = 31 ∨ b.code = 58 ∨ b.code = 99) (j : Nat) : (u.wr (A.mOwn kind) lane v).rd b j = u.rd b j :=
    State.rd_wr_arr _ _ _ _ _ _ (by simp only [A.mOwn]; omega)
  have tabs (u : State) {x : Nat} (hx : x < 7) : (u.wr (A.mOwn kind) lane v).tableEntries x = u.tableEntries x :=
    tableEntries_wr _ _ _ (by simp only [A.mOwn, A.mTab]; omega)
  refine ⟨⟨fun k => ?_, fun k => ?_, fun k => ?_, fun k => ?_, h.acts⟩, fun x hx l => ?_, fun x hx => ?_⟩
  · rw [keep t A.pState (by decide), keep s A.pState (by decide), h.state]
  · rw [keep t A.pPid (by decide), keep s A.pPid (by decide), h.pid]
  · rw [keep t A.coreBind (by decide), keep s A.coreBind (by decide), h.bind]
  · rw [keep t A.wallOwner (by decide), keep s A.wallOwner (by decide), h.wall]
  · by_cases e : x = kind ∧ l = lane
    · obtain ⟨rfl, rfl⟩ := e
      rw [State.rd_wr_same, State.rd_wr_same]
    · have apart : ¬ (A.mOwn kind).key lane = (A.mOwn x).key l := fun k => e (by simp only [Arr.key, A.mOwn] at k; omega)
      rw [State.rd_wr_key _ _ _ _ _ _ apart, State.rd_wr_key _ _ _ _ _ _ apart, h.own x hx]
  · rw [tabs t hx, tabs s hx, h.entries x hx]

/-- BUSYACC set. -/
theorem busy_lanes (s : State) (die : Nat) (f : Fld) : s.SameLanes (s.wf (D die) f 1) := (State.SameLanes.refl s).wr _ _ rfl (.inl (by decide))

section same
variable (h : s.SameLanes t) {kind : Nat} (hk : kind < 7)
include h hk

theorem State.SameLanes.laneOwner (lane : Nat) : t.laneOwner kind lane = s.laneOwner kind lane := by
  rw [State.laneOwner, h.slotOfWall, h.own kind hk, State.laneOwner, funext h.pid]

theorem State.SameLanes.laneSlot (lane : Nat) : t.laneSlot kind lane = s.laneSlot kind lane := by
  rw [State.laneSlot, h.laneOwner hk, funext h.slotOfPid, State.laneSlot]

theorem State.SameLanes.mayLane (who : Who) (lane : Nat) : t.mayLane who kind lane = s.mayLane who kind lane := by
  unfold State.mayLane
  rw [h.laneOwner hk]
  cases s.laneOwner kind lane with
  | none => exact h.pfRights who
  | some pid => exact h.mayPid who pid

theorem State.SameLanes.laneServes (lane : Nat) (write : Bool) : t.laneServes kind lane write = s.laneServes kind lane write := by
  unfold State.laneServes
  rw [h.laneSlot hk]
  cases s.laneSlot kind lane with
  | none => rfl
  | some k => simp only [h.state]

end same

/-- An entry selects lanes of tables. -/
theorem selectedLane_kind {kind lane e : Nat} {x : Nat × Nat} (h : selectedLane kind lane e = some x) : x.1 < 7 := by
  have source (d n : Nat) : (sourceLane d n).1 < 7 := by
    unfold sourceLane
    split
    · exact (by decide : 3 < 7)
    · exact (by decide : 4 < 7)
  unfold selectedLane at h
  dsimp only at h
  split at h
  · split at h
    · cases h
    · cases h
      exact (by decide : 3 < 7)
  · split at h
    · cases h
      exact (by decide : 2 < 7)
    · cases h
      exact (by decide : 4 < 7)
  · cases h
    exact source ..
  · cases h
    exact source ..
  · cases h

theorem State.SameLanes.entryConfined (h : s.SameLanes t) {kind : Nat} (hk : kind < 7) (lane e : Nat) :
    t.entryConfined kind lane e = s.entryConfined kind lane e := by
  unfold State.entryConfined
  rw [h.laneOwner hk]
  cases s.laneOwner kind lane with
  | none => rfl
  | some pid =>
    dsimp only
    rw [h.slotOfWall, funext h.pid]
    cases hx : selectedLane kind lane e with
    | none => rfl
    | some x => simp only [h.laneOwner (selectedLane_kind hx)]

theorem State.SameLanes.laneConfined (h : s.SameLanes t) {kind : Nat} (hk : kind < 7) (lane : Nat) : t.laneConfined kind lane = s.laneConfined kind lane := by
  have all (j : Nat) (hj : j ∈ [2, 3, 4, 5]) : ((t.tableEntries j).all fun x => selectedLane j x.1 x.2.2 ≠ some (kind, lane) ∨ t.entryConfined j x.1 x.2.2) =
      (s.tableEntries j).all fun x => selectedLane j x.1 x.2.2 ≠ some (kind, lane) ∨ s.entryConfined j x.1 x.2.2 := by
    have lt : j < 7 := (by decide : ∀ j ∈ [2, 3, 4, 5], j < 7) j hj
    rw [h.entries j lt]
    simp only [h.entryConfined lt]
  have users : ([2, 3, 4, 5].all fun j => (t.tableEntries j).all fun x => selectedLane j x.1 x.2.2 ≠ some (kind, lane) ∨ t.entryConfined j x.1 x.2.2) =
      [2, 3, 4, 5].all fun j => (s.tableEntries j).all fun x => selectedLane j x.1 x.2.2 ≠ some (kind, lane) ∨ s.entryConfined j x.1 x.2.2 := by
    simp only [List.all_cons, List.all_nil, all 2 (by simp), all 3 (by simp), all 4 (by simp), all 5 (by simp)]
  rw [State.laneConfined, State.laneConfined, users, h.entries kind hk]
  simp only [h.entryConfined hk]

/-- MREG of a lane in place. -/
theorem mreg_lanes (s : State) (kind lane v : Nat) : s.SameLanes (if kind < 4 then s.wr (A.mReg kind) lane v else s) := by
  split
  · next lt =>
    have code : (A.mReg kind).code % 512 = 160 + kind := Nat.mod_eq_of_lt (by simp only [A.mReg]; omega)
    have apart : [30, 31, 58, 99].contains ((A.mReg kind).code % 512) = false := by
      rw [code]
      simp only [List.contains_eq_mem, List.mem_cons, List.not_mem_nil, or_false, decide_eq_false_iff_not]
      omega
    exact (State.SameLanes.refl s).wr _ _ apart (by rw [code]; omega)
  · exact .refl s

/-- A LANE_CFG value in place in both. -/
theorem State.SameLanes.putLaneCfg (h : s.SameLanes t) {kind : Nat} (hk : kind < 7) (lane v : Nat) :
    (s.putLaneCfg kind lane v).SameLanes (t.putLaneCfg kind lane v) := by
  have both := ((mreg_lanes s kind lane (slice v 0 1)).symm.trans h).trans (mreg_lanes t kind lane (slice v 0 1))
  unfold State.putLaneCfg
  dsimp only
  split
  · exact both.own_wr hk lane _
  · exact both

theorem State.SameLanes.mortarCheck (h : s.SameLanes t) {kind : Nat} (hk : kind < 7) (who : Who) (lane : Nat) (cfg : Bool) (v : Nat) :
    t.mortarCheck who kind lane cfg v = s.mortarCheck who kind lane cfg v := by
  rw [State.mortarCheck, State.mortarCheck, h.mayLane hk, h.own kind hk, h.pfRights, h.laneServes hk, (h.putLaneCfg hk lane v).laneConfined hk,
    h.entryConfined hk]

end lanes

/-! ### The mortar access port (R107, R135) -/

section port
variable {s : State} {who : Who} {die kind lane : Nat} {cfg : Bool}

theorem mortarPlace_kind {loc : Nat} (h : mortarPlace die loc = some (kind, lane, cfg)) : kind < 7 ∧ cfg = decide (slice loc 25 4 = 7) := by
  have three : slice loc 29 3 < 2 ^ 3 := slice_lt ..
  by_cases no : 7 < slice loc 25 4 ∨ (if slice loc 25 4 = 7 then slice loc 29 3 else slice loc 25 4) = 7
  · have nowhere : mortarPlace die loc = none := if_pos no
    exact absurd (nowhere.symm.trans h) (by simp)
  · obtain ⟨l, -, he⟩ := Option.map_eq_some_iff.1 ((if_neg no).symm.trans h)
    obtain ⟨hk, hc⟩ := Prod.mk.inj he
    obtain ⟨-, hc⟩ := Prod.mk.inj hc
    refine ⟨?_, hc.symm⟩
    split at no <;> split at hk <;> omega

/-- The mortar access port with BUSYACC set. -/
def State.mortarBusy (s : State) (die : Nat) : State := s.wf (D die) MORTAR_ACC_STATUS_BUSYACC 1

/-- What a write of the port carries. -/
def State.mortarValue (s : State) (die kind : Nat) (cfg : Bool) : Nat :=
  if cfg = true ∨ kind = 6 then s.rf (D die) MORTAR_ACC_DATA_DATA else s.rf (D die) MORTAR_ACC_DATA_DATA % 2 ^ 16

theorem mortarAccess_nowhere (h : s.rf (D die) MORTAR_ACC_STATUS_BUSYACC = 0) (hp : mortarPlace die (s.reg (D die + oMORTAR_ACC_LOC)) = none) (write : Bool) :
    s.mortarAccess who die write = (s.mortarBusy die).wr A.accRes (3 * die + 2) 3 := by
  refine (if_neg (by rw [h]; decide)).trans ?_
  rw [busy_reg (by decide) (by decide) (by decide), hp]
  rfl

theorem mortarAccess_write (h : s.rf (D die) MORTAR_ACC_STATUS_BUSYACC = 0)
    (hp : mortarPlace die (s.reg (D die + oMORTAR_ACC_LOC)) = some (kind, lane, cfg)) {v r : Nat} (hv : s.mortarValue die kind cfg = v)
    (hr : s.mortarCheck who kind lane cfg v = r) : s.mortarAccess who die true =
    (if r ≠ 0 then s.mortarBusy die else if cfg then (s.mortarBusy die).putLaneCfg kind lane v
      else (s.mortarBusy die).wrE (A.mTab kind) (512 * lane + s.rf (D die) MORTAR_ACC_INDEX_STEP) v).wr A.accRes (3 * die + 2) r := by
  refine (if_neg (by rw [h]; decide)).trans ?_
  have value : (if cfg = true ∨ kind = 6 then (s.mortarBusy die).rf (D die) MORTAR_ACC_DATA_DATA
      else (s.mortarBusy die).rf (D die) MORTAR_ACC_DATA_DATA % 2 ^ 16) = v := by
    rw [State.mortarBusy, busy_rf (by decide) (by decide) (by decide)]
    exact hv
  have check : (s.mortarBusy die).mortarCheck who kind lane cfg v = r := ((busy_lanes ..).mortarCheck (mortarPlace_kind hp).1 ..).trans hr
  rw [busy_reg (by decide) (by decide) (by decide), hp]
  dsimp only
  rw [if_pos rfl, ← State.mortarBusy, value, check]
  rfl

theorem mortarAccess_read (h : s.rf (D die) MORTAR_ACC_STATUS_BUSYACC = 0)
    (hp : mortarPlace die (s.reg (D die + oMORTAR_ACC_LOC)) = some (kind, lane, cfg)) : s.mortarAccess who die false =
    if ¬ s.mayLane who kind lane = true then (s.mortarBusy die).wr A.accRes (3 * die + 2) 2
    else if ¬ s.laneServes kind lane false = true then (s.mortarBusy die).wr A.accRes (3 * die + 2) 1
    else if cfg then ((s.mortarBusy die).wf (D die) MORTAR_ACC_DATA_DATA ((s.mortarBusy die).laneCfg kind lane)).wr A.accRes (3 * die + 2) 0
    else ((s.mortarBusy die).wf (D die) MORTAR_ACC_DATA_DATA
      ((s.mortarBusy die).rd (A.mTab kind) (512 * lane + s.rf (D die) MORTAR_ACC_INDEX_STEP))).wr A.accRes (3 * die + 2)
        (if (s.mortarBusy die).mortarBad kind lane (s.rf (D die) MORTAR_ACC_INDEX_STEP) then 5 else 0) := by
  have lanes : s.SameLanes (s.mortarBusy die) := busy_lanes ..
  have lt := (mortarPlace_kind hp).1
  refine (if_neg (by rw [h]; decide)).trans ?_
  rw [busy_reg (by decide) (by decide) (by decide), hp]
  dsimp only
  rw [if_neg Bool.false_ne_true, ← State.mortarBusy, lanes.mayLane lt, lanes.laneServes lt]
  rfl

/-- Both domains of the mortar's tables are up. -/
theorem mortarDom_up (hf : s.domOn die domFab = true) (hl : s.domOn die domLink = true) (x : Nat) : s.domOn die (mortarDom x) = true := by
  unfold mortarDom
  split
  · exact hl
  · exact hf

theorem exec_mortarAccRead {die : Fin 8} (hs : s.Serving who) (hf : s.domOn die domFab = true) (hl : s.domOn die domLink = true) :
    exec (.mortarAccRead who die) s = .next ((s.mortarAccess who die false).ans 0 0) :=
  accessDom_next ⟨hs, mortarDom_up hf hl _⟩ _ fun s => (s.mortarAccess who die false).okay

theorem exec_mortarAccWrite {die : Fin 8} (hs : s.Serving who) (hf : s.domOn die domFab = true) (hl : s.domOn die domLink = true) :
    exec (.mortarAccWrite who die) s = .next ((s.mortarAccess who die true).ans 0 0) :=
  accessDom_next ⟨hs, mortarDom_up hf hl _⟩ _ fun s => (s.mortarAccess who die true).okay

theorem exec_laneCfgWrite {die : Fin 8} (hs : s.Serving who) (hf : s.domOn die domFab = true) (hl : s.domOn die domLink = true)
    (ht : s.rf (D die) MORTAR_ACC_LOC_TABLE = 7) : exec (.laneCfgWrite who die) s = .next ((s.mortarAccess who die true).ans 0 0) :=
  (accessDom_next ⟨hs, mortarDom_up hf hl _⟩ _ fun s => if s.rf (D die) MORTAR_ACC_LOC_TABLE = 7 then (s.mortarAccess who die true).okay else s).trans
    (congrArg _ (if_pos ht))

end port

end Sys2Proof.Machine

/-! CERTIFICATE. The refusals of the access ports (chapters 02, 04 and 05, R53, R54, R56, R106, R118, R135, R198, R491). -/

namespace Sys2Proof.Machine

open Reg

section mortar
variable {s : State} {who : Who} {kind lane v : Nat}

/-! ### The refusals of a write of the mortar's port, in the order of R491 -/

theorem mortarCheck_denied {cfg : Bool} (h : s.mayLane who kind lane = false) : s.mortarCheck who kind lane cfg v = 2 :=
  if_pos (.inl (ne_true_of_eq_false h))

theorem mortarCheck_entry (hm : s.mayLane who kind lane = true) : s.mortarCheck who kind lane false v =
    if ¬ s.laneServes kind lane true = true then 1 else if entryBad kind lane v = true then 3
    else if ¬ s.entryConfined kind lane v = true then 6 else 0 := by
  simp only [State.mortarCheck, hm, Bool.false_eq_true, false_and, not_true, or_self, if_false]
  rfl

/-- Of a lane that keeps its owner, or whose owner the initiator may change. -/
theorem mortarCheck_cfg (hm : s.mayLane who kind lane = true) (hp : s.pfRights who = true) : s.mortarCheck who kind lane true v =
    if ¬ s.laneServes kind lane true = true then 1 else if slice v 1 7 ≠ 0 ∨ slice v 19 13 ≠ 0 then 3
    else if 3 ≤ kind ∧ ¬ (s.putLaneCfg kind lane v).laneConfined kind lane = true then 6 else 0 := by
  simp only [State.mortarCheck, hm, hp, not_true, and_false, or_self, if_false, if_true]
  rfl

theorem mortarCheck_owner (h3 : 3 ≤ kind) (hv : slice v 8 9 ≠ s.rd (A.mOwn kind) lane)
    (hp : s.pfRights who = false) : s.mortarCheck who kind lane true v = 2 :=
  if_pos (.inr ⟨⟨rfl, h3, hv⟩, ne_true_of_eq_false hp⟩)

/-! ### Entries that reach another partition (R118) -/

/-- The lane, or the wall, that an entry reaches is another partition's than `pid`. -/
def State.reachesForeign (s : State) (kind lane e pid : Nat) : Bool :=
  if kind = 6 then (s.slotOfWall (recvWall e)).all fun k => decide (s.rd A.pPid k ≠ pid)
  else (selectedLane kind lane e).any fun x => decide (s.laneOwner x.1 x.2 ≠ some pid)

theorem entryConfined_foreign {e pid : Nat} (ho : s.laneOwner kind lane = some pid) (he : mEn kind e = true)
    (hf : s.reachesForeign kind lane e pid = true) : s.entryConfined kind lane e = false := by
  rw [State.entryConfined, ho]
  dsimp only
  rw [if_neg (not_not_intro he)]
  rw [State.reachesForeign] at hf
  split
  · next h6 =>
    rw [if_pos h6] at hf
    cases hw : s.slotOfWall (recvWall e) with
    | none => rfl
    | some k =>
      rw [hw] at hf
      exact decide_eq_false (of_decide_eq_true hf)
  · next h6 =>
    rw [if_neg h6] at hf
    cases hx : selectedLane kind lane e with
    | none =>
      rw [hx] at hf
      cases hf
    | some x =>
      rw [hx] at hf
      exact decide_eq_false (of_decide_eq_true hf)

/-- An entry of the lane, or one that selects it, would reach another partition. -/
theorem laneConfined_broken (hb : (∃ x ∈ s.tableEntries kind, x.1 = lane ∧ s.entryConfined kind lane x.2.2 = false) ∨
    ∃ j ∈ [2, 3, 4, 5], ∃ x ∈ s.tableEntries j, selectedLane j x.1 x.2.2 = some (kind, lane) ∧ s.entryConfined j x.1 x.2.2 = false) :
    s.laneConfined kind lane = false := by
  refine decide_eq_false fun ⟨own, users⟩ => ?_
  rcases hb with ⟨x, hx, hl, hc⟩ | ⟨j, hj, x, hx, hl, hc⟩
  · have ok := of_decide_eq_true (List.all_eq_true.1 own x hx)
    exact ok.elim (fun n => n hl) fun t => Bool.false_ne_true (hc.symm.trans t)
  · have ok := of_decide_eq_true (List.all_eq_true.1 (List.all_eq_true.1 users j hj) x hx)
    exact ok.elim (fun n => n hl) fun t => Bool.false_ne_true (hc.symm.trans t)

/-- The owner alone decides. -/
theorem laneConfined_owned (hk : kind < 7) (h3 : 3 ≤ kind) :
    (s.putLaneCfg kind lane v).laneConfined kind lane = (s.wr (A.mOwn kind) lane (slice v 8 9)).laneConfined kind lane := by
  have put : s.putLaneCfg kind lane v = (if kind < 4 then s.wr (A.mReg kind) lane (slice v 0 1) else s).wr (A.mOwn kind) lane (slice v 8 9) := if_pos h3
  rw [put]
  exact ((mreg_lanes s kind lane (slice v 0 1)).own_wr hk lane _).laneConfined hk lane

end mortar

/-- Settles O18: the refusals in the order of R491, port by port. -/
theorem accessPortRefusals : Obligations.AccessPortRefusals := by
  refine ⟨?_, ?_⟩
  · intro s who die setP clrP d a wall refused wbed refusedW waitingW
    have read {r : Nat} (h : s.accCheck who a.badAddress wall false = r) : s.bedResult who die false false false = r :=
      (if_neg fun bad => Bool.false_ne_true bad.2.1).trans h
    have other {r : Nat} (h : s.accCheck who a.badAddress wall (true && decide (a.store = 0 ∨ a.store = 6)) = r) (h0 : r ≠ 0) :
        s.bedResult who die true setP clrP = r := (if_neg fun bad => h0 (h.symm.trans bad.1)).trans h
    have both {r : Nat} (hs : s.ServingDom who die domFab) (hb : s.rf d BED_ACC_STATUS_BUSYACC = 0) (hn : s.newtOnBed a.bed = false)
        (h : ∀ idle, s.accCheck who a.badAddress wall idle = r) (h0 : r ≠ 0) :
        exec (.bedAccRead who die) s = .next (refused r) ∧ exec (.bedAccWrite who die setP clrP) s = .next (refused r) :=
      ⟨(exec_bedAccRead hs).trans (congrArg _ (congrArg (State.ans · 0 0) (bedAccess_refused hb hn (read (h _)) h0))),
        (exec_bedAccWrite hs).trans (congrArg _ (congrArg (State.ans · 0 0) (bedAccess_refused hb hn (other (h _) h0) h0)))⟩
    refine ⟨fun hs => ⟨fun hb => ?_, fun hb => ?_, fun hb hn => ⟨fun ha => ?_, fun ha hm => ?_, fun ha hm => ⟨fun hw => ?_, fun hw => ?_, fun hw hp hc => ?_⟩⟩⟩,
      fun hs hb hn => ?_, fun hs hb => ⟨fun hn => ?_, fun hn hm => ?_, fun hn hm => ⟨fun hw => ?_, fun hw => ?_⟩⟩, fun hc hx => ⟨fun hb => ?_, fun hb => ?_, fun hb => ?_⟩⟩
    · rw [exec_bedAccRead hs, exec_bedAccWrite hs, bedAccess_busy hb, bedAccess_busy hb]
      exact ⟨rfl, rfl⟩
    · rw [exec_wuAccRead hs, exec_wuAccWrite hs, wuAccess_busy hb, wuAccess_busy hb]
      exact ⟨rfl, rfl⟩
    · exact both hs hb hn (fun write => by rw [ha]; exact accCheck_address) (by decide)
    · exact both hs hb hn (fun write => by rw [ha]; exact accCheck_denied hm) (by decide)
    · refine (exec_bedAccRead hs).trans (congrArg _ (congrArg (State.ans · 0 0) (bedAccess_refused hb hn (r := 1) ?_ (by decide))))
      exact read (by rw [ha]; exact accCheck_busy hm hw)
    · refine (exec_bedAccWrite hs).trans (congrArg _ (congrArg (State.ans · 0 0) (bedAccess_refused hb hn (r := 1) ?_ (by decide))))
      exact other (by rw [ha]; exact accCheck_busy hm hw) (by decide)
    · refine (exec_bedAccWrite hs).trans (congrArg _ (congrArg (State.ans · 0 0) (bedAccess_refused hb hn (r := 3) ?_ (by decide))))
      have served : s.accCheck who a.badAddress wall (true && decide (a.store = 0 ∨ a.store = 6)) = 0 := by
        rw [ha]
        exact accCheck_served hm hw
      exact if_pos ⟨served, rfl, hp, hc⟩
    · rw [exec_bedAccRead hs, exec_bedAccWrite hs, bedAccess_held hb hn, bedAccess_held hb hn]
      exact ⟨rfl, rfl⟩
    · rw [exec_wuAccRead hs, exec_wuAccWrite hs, wuAccess_held hb hn, wuAccess_held hb hn]
      exact ⟨rfl, rfl⟩
    · rw [exec_wuAccRead hs, exec_wuAccWrite hs, wuAccess_refused hb hn (accCheck_denied hm) (by decide), wuAccess_refused hb hn (accCheck_denied hm) (by decide)]
      exact ⟨rfl, rfl⟩
    · rw [exec_wuAccRead hs, wuAccess_refused hb hn (accCheck_busy hm hw) (by decide)]
      rfl
    · rw [exec_wuAccWrite hs, wuAccess_refused hb hn (accCheck_busy hm hw) (by decide)]
      rfl
    · refine ⟨_, live_next hc fun s => s.bedComplete die, ?_⟩
      rw [bedComplete_free fun x h => (hx x h).1]
      exact accDone_shows hb rfl rfl rfl (by decide)
    · refine ⟨_, live_next hc fun s => s.wuComplete die, ?_⟩
      rw [wuComplete_free fun x h => (hx x h).2]
      exact accDone_shows hb rfl rfl rfl (by decide)
    · exact ⟨_, live_next hc fun s => s.accDone die 2 MORTAR_ACC_STATUS_BUSYACC MORTAR_ACC_STATUS_RESULT, accDone_shows hb rfl rfl rfl (by decide)⟩
  · intro s who die kind lane cfg d data place step entry done reserved foreign owned moves hs hf hl
    have value : s.mortarValue die kind false = entry := if_congr (or_iff_right Bool.false_ne_true) rfl rfl
    have cfgValue : s.mortarValue die kind true = data := if_pos (.inl rfl)
    have refused {r : Nat} (hb : s.rf d MORTAR_ACC_STATUS_BUSYACC = 0) (hp : place = some (kind, lane, cfg))
        (hr : s.mortarCheck who kind lane cfg (s.mortarValue die kind cfg) = r) (h0 : r ≠ 0) :
        s.mortarAccess who die true = (s.mortarBusy die).wr A.accRes (3 * die + 2) r := by
      rw [mortarAccess_write hb hp rfl hr, if_pos h0]
    have refuse {r : Nat} (hb : s.rf d MORTAR_ACC_STATUS_BUSYACC = 0) (hp : place = some (kind, lane, cfg))
        (hr : s.mortarCheck who kind lane cfg (s.mortarValue die kind cfg) = r) (h0 : r ≠ 0) : exec (.mortarAccWrite who die) s = done r :=
      (exec_mortarAccWrite hs hf hl).trans (congrArg _ (congrArg (State.ans · 0 0) (refused hb hp hr h0)))
    have refuseCfg {r : Nat} (hb : s.rf d MORTAR_ACC_STATUS_BUSYACC = 0) (hp : place = some (kind, lane, cfg)) (ht : s.rf d MORTAR_ACC_LOC_TABLE = 7)
        (hr : s.mortarCheck who kind lane cfg (s.mortarValue die kind cfg) = r) (h0 : r ≠ 0) : exec (.laneCfgWrite who die) s = done r :=
      (exec_laneCfgWrite hs hf hl ht).trans (congrArg _ (congrArg (State.ans · 0 0) (refused hb hp hr h0)))
    refine ⟨fun hb => ?_, fun hb => ⟨fun hp => ?_, fun hp hm => ?_, fun hp hm => ⟨fun hv => ?_, fun hc hv hbad => ?_, fun hc hv => ?_, fun hc hv => ⟨fun hr => ?_,
      fun pid hr ho he hfor => ?_⟩, fun hc ht => ⟨fun hmv hpf => ?_, fun hmv hpf => ⟨fun hv => ?_, fun hv => ⟨fun hd => ?_, fun hd1 hd2 hbr => ?_⟩⟩⟩⟩⟩⟩
    · rw [exec_mortarAccRead hs hf hl, exec_mortarAccWrite hs hf hl, mortarAccess_busy hb, mortarAccess_busy hb]
      exact ⟨rfl, rfl⟩
    · rw [exec_mortarAccRead hs hf hl, exec_mortarAccWrite hs hf hl, mortarAccess_nowhere hb hp, mortarAccess_nowhere hb hp]
      exact ⟨rfl, rfl⟩
    · refine ⟨?_, refuse hb hp (mortarCheck_denied hm) (by decide)⟩
      rw [exec_mortarAccRead hs hf hl, mortarAccess_read hb hp, if_pos (ne_true_of_eq_false hm)]
      rfl
    · rw [exec_mortarAccRead hs hf hl, mortarAccess_read hb hp, if_neg (not_not_intro hm), if_pos (ne_true_of_eq_false hv)]
      rfl
    · refine ⟨_, exec_mortarAccRead hs hf hl, ?_⟩
      have bad : (s.mortarBusy die).mortarBad kind lane step = true := by
        have kept : (s.mortarBusy die).rd A.err ((A.mTab kind).key (512 * lane + step)) = s.rd A.err ((A.mTab kind).key (512 * lane + step)) :=
          (busy_only ..).rd _ _ rfl
        rw [State.mortarBad, State.errOf, kept]
        exact hbad
      rw [mortarAccess_read hb hp, if_neg (not_not_intro hm), if_neg (not_not_intro hv), hc, if_neg Bool.false_ne_true, if_pos bad]
      exact (State.rd_ans ..).trans (State.rd_wr_same ..)
    · exact refuse hb hp (by rw [hc, mortarCheck_entry hm, if_pos (ne_true_of_eq_false hv)]) (by decide)
    · have bad : entryBad kind lane (s.mortarValue die kind cfg) = true := by
        rw [hc, value]
        exact hr
      exact refuse hb hp (by rw [hc] at bad ⊢; rw [mortarCheck_entry hm, if_neg (not_not_intro hv), if_pos bad]) (by decide)
    · have sound : entryBad kind lane (s.mortarValue die kind cfg) = false := by
        rw [hc, value]
        exact hr
      have open_ : s.entryConfined kind lane (s.mortarValue die kind cfg) = false := by
        rw [hc, value]
        exact entryConfined_foreign ho he hfor
      refine refuse hb hp ?_ (by decide)
      rw [hc] at sound open_ ⊢
      rw [mortarCheck_entry hm, if_neg (not_not_intro hv), if_neg (ne_true_of_eq_false sound), if_pos (ne_true_of_eq_false open_)]
    · exact refuseCfg hb hp ht (by rw [hc, cfgValue]; exact mortarCheck_owner hmv.1 hmv.2 hpf) (by decide)
    · exact refuseCfg hb hp ht (by rw [hc, mortarCheck_cfg hm hpf, if_pos (ne_true_of_eq_false hv)]) (by decide)
    · exact refuseCfg hb hp ht (by rw [hc, cfgValue, mortarCheck_cfg hm hpf, if_neg (not_not_intro hv), if_pos hd]) (by decide)
    · have broken : (s.putLaneCfg kind lane data).laneConfined kind lane = false := by
        rw [laneConfined_owned (mortarPlace_kind hp).1 hmv.1]
        refine laneConfined_broken ?_
        have tabs {j : Nat} (hj : j < 7) : owned.tableEntries j = s.tableEntries j :=
          tableEntries_wr _ _ _ (by have := (mortarPlace_kind hp).1; simp only [A.mOwn, A.mTab]; omega)
        rcases hbr with ⟨x, hx, h⟩ | ⟨j, hj, x, hx, h⟩
        · exact .inl ⟨x, by rw [tabs (mortarPlace_kind hp).1]; exact hx, h⟩
        · exact .inr ⟨j, hj, x, by rw [tabs ((by decide : ∀ j ∈ [2, 3, 4, 5], j < 7) j hj)]; exact hx, h⟩
      exact refuseCfg hb hp ht (by
        rw [hc, cfgValue, mortarCheck_cfg hm hpf, if_neg (not_not_intro hv), if_neg fun bad => bad.elim (fun n => n hd1) fun n => n hd2,
          if_pos ⟨hmv.1, ne_true_of_eq_false broken⟩]) (by decide)

end Sys2Proof.Machine

/-! SUPPORT. What logging an input leaves of the registers of the dies (chapter 11, R252 to R263). -/

namespace Sys2Proof.Machine

open Reg

section log
variable {s t : State} {k : Nat}

/-- A register of a partition's block, for every slot that a wall can name. -/
theorem evtReg_slot (hk : k < 64) {x : Nat} (hx : x < 0x1000) : evtReg (P k + x) = true := by
  refine decide_eq_true ?_
  simp only [P, Off.part]
  omega

theorem slotOfWall_lt {w : Nat} (h : s.slotOfWall w = some k) : k < 64 := by
  have lt := State.rd_lt s A.wallOwner w
  rw [State.slotOfWall] at h
  split at h
  · cases h
  · cases h
    exact Nat.lt_of_le_of_lt (Nat.sub_le ..) lt

/-- Other registers do not depend on what is no array. -/
theorem State.EvtKept.update {u : State} (h : s.EvtKept t) (e : u.arr = t.arr) : s.EvtKept u :=
  ⟨fun o ho => (by simp only [State.reg, State.rd, e] : u.reg o = t.reg o).trans (h.reads o ho)⟩

theorem State.Only.evtKept {codes : List Nat} (h : s.Only codes t) (h0 : codes.contains 0 = false) : s.EvtKept t := ⟨fun o _ => h.rd A.reg o h0⟩

theorem evtKept_foldl {α : Type} {f : State → α → State} {l : List α} (hf : ∀ (u : State), ∀ x ∈ l, u.EvtKept (f u x)) (s : State) : s.EvtKept (l.foldl f s) := by
  induction l generalizing s with
  | nil => exact .refl s
  | cons x r ih => exact (hf s x List.mem_cons_self).trans (ih (fun u y hy => hf u y (List.mem_cons_of_mem x hy)) _)

section slot
variable (hk : k < 64)
include hk

theorem State.EvtKept.part (h : s.EvtKept t) {x : Nat} (hx : x < 0x1000) (v : Nat) : s.EvtKept (t.wr A.reg (P k + x) v) := h.reg (evtReg_slot hk hx) v

theorem State.EvtKept.partPair (h : s.EvtKept t) {x : Nat} (hx : x + 4 < 0x1000) (v : Nat) : s.EvtKept (t.setPair (P k + x) v) :=
  (h.part hk (by omega) v).reg (evtReg_slot hk hx) _

theorem State.EvtKept.partField (h : s.EvtKept t) (f : Fld) (hx : f.off < 0x1000) (v : Nat) : s.EvtKept (t.wf (P k) f v) := h.reg (evtReg_slot hk hx) _

theorem snapFlags_evt (s : State) : s.EvtKept (s.snapFlags k) := ((State.EvtKept.refl s).part hk (by decide) _).part hk (by decide) _

theorem snapLost_evt (s : State) : s.EvtKept (s.snapLost k) := by
  refine State.EvtKept.trans ?_ (snapFlags_evt hk _)
  exact (State.EvtKept.refl s).update (by rfl)

theorem freeRegion_evt (s : State) (n : Nat) : s.EvtKept (s.freeRegion k n) := by
  have passed : s.EvtKept (s.feedPassed k n) := (feedPassed_calm s k n).only.evtKept rfl
  have freed : s.EvtKept (State.setRecTail { s.feedPassed k n with recLog := dropBytes k n (s.feedPassed k n).recLog } k
      (((s.feedPassed k n).recTail k + n) % (s.feedPassed k n).regionBytes k)) := (passed.update (by rfl)).partPair hk (by decide) _
  exact freed.ite (freed.part hk (by decide) _)

theorem recRoom_evt (s : State) (n fuel : Nat) : s.EvtKept (s.recRoom k n fuel) := by
  induction fuel generalizing s with
  | zero => exact .refl s
  | succ fuel ih =>
    unfold State.recRoom
    dsimp only
    have lost (m : Nat) : s.EvtKept ((((s.freeRegion k m).cnt (P k) REC_LOSS_SEG_LOST 1).raise (0x560 + k)).snapLost k) :=
      (((freeRegion_evt hk s m).part hk (by decide) _).trans (raise_evt _ (by omega))).trans (snapLost_evt hk _)
    exact (State.EvtKept.refl s).ite (((lost _).wr (by decide) _ _).ite ((lost _).trans (ih _)))

theorem snapClosed_evt (s : State) (c : Nat) : s.EvtKept (s.snapClosed k c) := by
  unfold State.snapClosed
  dsimp only
  have base : s.EvtKept { s with snaps := s.snaps.filter fun x => ¬ (x.slot = k ∧ x.cyc = c) } := (State.EvtKept.refl s).update (by rfl)
  split
  · exact base
  · exact (((base.part hk (by decide) _).part hk (by decide) _).partPair hk (by decide) _).ite base

theorem recUnplace_evt (s : State) (l : List RecPkt) : s.EvtKept (s.recUnplace k l) := by
  unfold State.recUnplace
  split
  · exact .refl s
  · exact (State.EvtKept.wr (((State.EvtKept.refl s).partPair hk (x := oMETER_REC_BYTES_LO) (by decide) _).update (by rfl)) (by decide) _ _).partPair hk
      (x := oREC_HEAD_LO) (by decide) _

end slot

theorem recPlace_evt (s : State) (p : RecPkt) (hk : p.slot < 64) : s.EvtKept (s.recPlace p) := by
  have placed (off : Nat) : s.EvtKept (s.snapPlaced p off) :=
    ((State.EvtKept.refl s).update (by rfl)).ite ((snapClosed_evt hk s _).ite (.refl s))
  unfold State.recPlace
  dsimp only
  exact ((((placed _).partPair hk (x := oMETER_REC_BYTES_LO) (by decide) _).update (by rfl)).wr (by decide) _ _).partPair hk (x := oREC_HEAD_LO)
    (by decide) _

theorem recAfter_slot {p x : RecPkt} (h : x ∈ s.recAfter p) : x.slot = p.slot := by
  have kept : x ∈ s.kept p.slot := by
    have tail := List.mem_reverse.1 ((List.dropWhile_sublist _).mem h)
    exact List.mem_reverse.1 ((List.takeWhile_sublist _).mem tail)
  exact (of_decide_eq_true (List.mem_filter.1 kept).2).1

theorem recPut_evt (s : State) (p : RecPkt) (hk : p.slot < 64) : s.EvtKept (s.recPut p) := by
  have put : s.EvtKept (((s.recAfter p).filter (·.typ ≠ 0)).foldl State.recPlace ((s.recUnplace p.slot (s.recAfter p)).recPlace p)) :=
    ((recUnplace_evt hk s _).trans (recPlace_evt _ p hk)).trans (evtKept_foldl (fun u x hx =>
      recPlace_evt u x (by rw [recAfter_slot (List.mem_filter.1 hx).1]; exact hk)) _)
  exact (recPlace_evt s p hk).ite put

theorem addCause_evt (s : State) (k c : Nat) : s.EvtKept (s.addCause k c) := (addCause_calm s k c).only.evtKept rfl

theorem backlogHold_evt (hk : k < 64) (s : State) (die : Nat) : s.EvtKept (s.backlogHold k die) := by
  have marked := (State.EvtKept.refl s).wr (a := A.recBack) (by decide) k (s.rd A.recBack k ||| 2 ^ die)
  exact (State.EvtKept.refl s).ite ((marked.ite ((marked.part hk (by decide) _).trans (raise_evt _ (by omega)))).trans (addCause_evt ..))

theorem recBacklog_evt (s : State) (die : Nat) : s.EvtKept (s.recBacklog die) := by
  have each : s.EvtKept (s.each 32 fun s k => if s.recLog.any fun p => p.slot = k ∧ p.die = die ∧ p.inBuf then s.backlogHold k die else s) :=
    evtKept_foldl (fun u k hk => (backlogHold_evt (by have := List.mem_range.1 hk; omega) u die).ite (.refl u)) s
  exact each.ite (.refl s)

theorem recAlloc_evt (hk : k < 64) (s : State) (die typ cyc step phase : Nat) (body : List Nat) : s.EvtKept (s.recAlloc k die typ cyc step phase body) := by
  unfold State.recAlloc
  dsimp only
  generalize hu : (if s.rf (P k) REC_CFG_MODE = 1 then s.recRoom k (s.recNeed k (8 * (2 + body.length))) (s.recLog.length + 1)
    else s) = u
  have room : s.EvtKept u := hu ▸ (recRoom_evt hk ..).ite (.refl s)
  have full := room.ite (p := u.rf (P k) REC_STATUS_FULL = 1) ((room.partField hk REC_STATUS_FULL (by decide) 1).trans (raise_evt _ (src := 0x560 + k) (by omega)))
  exact room.ite (((full.update (by rfl)).trans (addCause_evt ..)).ite (room.trans (recPut_evt _ _ hk)))

theorem logInput_evt (hk : k < 64) (s : State) (die typ : Nat) (body : List Nat) : s.EvtKept (s.logInput k die typ body) :=
  ((recAlloc_evt hk ..).trans (recBacklog_evt ..)).ite (.refl s)

end log

end Sys2Proof.Machine

/-! SUPPORT and CERTIFICATE. What a served access of an access port reads and writes (chapters 02, 04 and 05, R53 to R55, R106, R107, R117, R135). -/

namespace Sys2Proof.Machine

open Reg

/-! ### A software write of a bed's store (R55) -/

section store
variable {s t : State} {a : BedAcc} {data pres : Nat} {setP clrP : Bool}

/-- The stores that the bed access port reaches. -/
def bedArrays : List Arr := [A.imem, A.hist, A.state, A.land, A.port, A.wflag, A.pimem]

theorem place_mem (a : BedAcc) : a.place.1 ∈ bedArrays := by
  unfold BedAcc.place
  split <;> simp [bedArrays]

theorem wrE_same (s : State) (x : Arr) (i v : Nat) (hx : x.code % 512 ≠ A.err.code) : (s.wrE x i v).rd x i = v % 2 ^ x.width :=
  (State.rd_wr_arr _ _ _ _ _ _ (fun e => hx e.symm)).trans (State.rd_wr_same ..)

theorem wrE_beside (s : State) (x : Arr) {i j : Nat} (v : Nat) (hx : x.code % 512 ≠ A.err.code) (h : i ≠ j) : (s.wrE x i v).rd x j = s.rd x j :=
  (State.rd_wr_arr _ _ _ _ _ _ (fun e => hx e.symm)).trans (State.rd_wr_ix _ _ _ _ _ h)

theorem wrE_other (s : State) {x y : Arr} (i v j : Nat) (hx : ¬ x.code % 512 = y.code % 512) (hy : ¬ A.err.code % 512 = y.code % 512) :
    (s.wrE x i v).rd y j = s.rd y j := (State.rd_wr_arr _ _ _ _ _ _ hy).trans (State.rd_wr_arr _ _ _ _ _ _ hx)

theorem wrE_sound (s : State) (x : Arr) (i v : Nat) : (s.wrE x i v).errOf x i = 0 := State.rd_wr_same ..

/-- Without the pending writes of the history entry. -/
def State.histForgot (s : State) (a : BedAcc) : State :=
  if a.store = 1 ∨ a.store = 5 then { s with histPend := s.histPend.filter fun p => ¬ (p.bed = a.bed ∧ p.step = a.index) } else s

/-- The row that a snapshot saves first. -/
def State.stateSaved (s : State) (a : BedAcc) : State :=
  match s.slotOfBed a.bed with
  | some k => s.cow k (a.bed / 4096) A.state a.place.2
  | none => s

theorem histForgot_rd (x : Arr) (i : Nat) : (s.histForgot a).rd x i = s.rd x i := by
  unfold State.histForgot
  split <;> rfl

theorem stateSaved_rd (x : Arr) (i : Nat) : (s.stateSaved a).rd x i = s.rd x i := by
  unfold State.stateSaved State.cow State.cowAs
  split
  · split <;> rfl
  · rfl

/-- Flags after a write with SET or CLR. -/
def accFlags (setP clrP : Bool) (flags pres : Nat) : Nat := if setP then flags ||| pres else if clrP then flags &&& (0xFFFF ^^^ pres) else flags

theorem bedStore_plain (h2 : a.store ≠ 2) (h3 : a.store ≠ 3) (h4 : a.store ≠ 4) :
    s.bedStore a data pres setP clrP = (s.histForgot a).wrE a.place.1 a.place.2 data := by
  refine (if_neg h3).trans ((if_neg fun e => h4 e.1).trans ((if_neg h4).trans ((if_neg h2).trans ((if_neg h3).trans ?_))))
  have plain : (match (s.histForgot a).slotOfBed a.bed with
    | some k => if a.store = 2 then (s.histForgot a).cow k (a.bed / 4096) A.state a.place.2 else s.histForgot a
    | none => s.histForgot a) = s.histForgot a := by
    cases (s.histForgot a).slotOfBed a.bed with
    | none => rfl
    | some k => exact if_neg h2
  exact congrArg (State.wrE · a.place.1 a.place.2 data) plain

theorem bedStore_state (h : a.store = 2) : s.bedStore a data pres setP clrP = ((s.stateSaved a).wrE A.state a.place.2 data).wrE A.shadow a.place.2 data := by
  obtain ⟨store, course, bed, cell, index, bank⟩ := a
  cases h
  rfl

theorem bedStore_land (h : a.store = 3) : s.bedStore a data pres setP clrP =
    (s.wrLand a.place.2 0xFFFF data).wr A.landP a.place.2 (accFlags setP clrP ((s.wrLand a.place.2 0xFFFF data).rd A.landP a.place.2) pres) := by
  obtain ⟨store, course, bed, cell, index, bank⟩ := a
  cases h
  have plain : (match s.slotOfBed bed with
    | some k => if 3 = 2 then s.cow k (bed / 4096) A.state (landKey bed bank index) else s
    | none => s) = s := by cases s.slotOfBed bed <;> rfl
  exact congrArg (fun u : State => (u.wrLand (landKey bed bank index) 0xFFFF data).wr A.landP (landKey bed bank index)
    (accFlags setP clrP ((u.wrLand (landKey bed bank index) 0xFFFF data).rd A.landP (landKey bed bank index)) pres)) plain

/-- Flags of a line of the port store after a write. -/
def State.portFlagged (t : State) (a : BedAcc) (pres : Nat) (setP clrP : Bool) : State :=
  if a.store = 4 ∧ (setP ∨ clrP) ∧ pres % 2 = 1 then
    t.wrPres (4 * a.bed + a.bank) (2 ^ a.index) (2 ^ a.index * (accFlags setP clrP (t.bedFlags a) pres % 2))
  else t

theorem bedStore_port (h : a.store = 4) : s.bedStore a data pres setP clrP =
    ((s.wrE A.port a.place.2 data).wr A.portDue a.place.2 0).portFlagged a pres setP clrP := by
  obtain ⟨store, course, bed, cell, index, bank⟩ := a
  cases h
  have plain : (match s.slotOfBed bed with
    | some k => if 4 = 2 then s.cow k (bed / 4096) A.state (portKey bed bank index) else s
    | none => s) = s := by cases s.slotOfBed bed <;> rfl
  exact congrArg (fun u : State => ((u.wrE A.port (portKey bed bank index) data).wr A.portDue (portKey bed bank index) 0).portFlagged
      ⟨4, course, bed, cell, index, bank⟩ pres setP clrP) plain

/-- What a software write of a store can write. -/
def storeCodes : List Nat := [4, 5, 6, 7, 8, 9, 11, 12, 13, 14, 15, 17, 25, 56]

theorem bedArrays_codes : ∀ x ∈ bedArrays, storeCodes.contains (x.code % 512) = true ∧ x.code % 512 ≠ A.err.code := by decide

theorem portFlagged_only (t : State) (a : BedAcc) (pres : Nat) (setP clrP : Bool) : t.Only [14, 25] (t.portFlagged a pres setP clrP) :=
  State.Only.ite (((State.Only.refl ..).wr _ _ rfl).wr _ _ rfl) (.refl ..)

theorem bedStore_only (s : State) (a : BedAcc) (data pres : Nat) (setP clrP : Bool) :
    s.Only storeCodes (s.bedStore a data pres setP clrP) := by
  have forgot : s.Only storeCodes (s.histForgot a) := ⟨fun _ _ _ => histForgot_rd ..⟩
  have saved : s.Only storeCodes (s.stateSaved a) := ⟨fun _ _ _ => stateSaved_rd ..⟩
  by_cases h2 : a.store = 2
  · rw [bedStore_state h2]
    exact (saved.wrE _ _ rfl rfl).wrE _ _ rfl rfl
  by_cases h3 : a.store = 3
  · rw [bedStore_land h3]
    exact (((State.Only.refl ..).wr _ _ rfl).wr _ _ rfl).wr _ _ rfl
  by_cases h4 : a.store = 4
  · rw [bedStore_port h4]
    exact (((State.Only.refl storeCodes s).wrE _ _ rfl rfl).wr _ _ rfl).step (portFlagged_only ..) rfl
  · rw [bedStore_plain h2 h3 h4]
    exact forgot.wrE _ _ (bedArrays_codes _ (place_mem a)).1 rfl

theorem place_state (h : a.store = 2) : a.place.1 = A.state := by simp only [BedAcc.place, h]
theorem place_land (h : a.store = 3) : a.place.1 = A.land := by simp only [BedAcc.place, h]
theorem place_port (h : a.store = 4) : a.place.1 = A.port := by simp only [BedAcc.place, h]

/-- All lanes of a row at once. -/
theorem row_written (v w : Nat) : (v &&& (0xFFFF ^^^ 0xFFFF)) ||| (w &&& 0xFFFF) = w % 2 ^ 16 := by
  rw [Nat.xor_self, Nat.and_zero, Nat.zero_or, show 0xFFFF = 2 ^ 16 - 1 from rfl, Nat.and_two_pow_sub_one_eq_mod]

/-- The entry holds the data, its check bits are right, and no other entry of the store changes. -/
structure Stored (s u : State) (a : BedAcc) (data : Nat) : Prop where
  data : u.rd a.place.1 a.place.2 = data % 2 ^ a.place.1.width
  sound : if a.store = 3 then u.rd A.landErr a.place.2 = 0 else u.errOf a.place.1 a.place.2 = 0
  beside : ∀ j, j ≠ a.place.2 → u.rd a.place.1 j = s.rd a.place.1 j

theorem bedStore_stored : Stored s (s.bedStore a data pres setP clrP) a data := by
  have off := (bedArrays_codes _ (place_mem a)).2
  by_cases h2 : a.store = 2
  · rw [bedStore_state h2]
    have same {j : Nat} : ((((s.stateSaved a).wrE A.state a.place.2 data).wrE A.shadow a.place.2 data).rd A.state j) =
        ((s.stateSaved a).wrE A.state a.place.2 data).rd A.state j := wrE_other _ _ _ _ (by decide) (by decide)
    refine ⟨?_, ?_, fun j hj => ?_⟩
    · rw [place_state h2, same, wrE_same _ _ _ _ (by decide)]
    · rw [if_neg (by rw [h2]; decide), place_state h2]
      refine (State.rd_wr_ix _ _ _ _ _ ?_).trans ((State.rd_wr_arr _ _ _ _ _ _ (by decide)).trans (wrE_sound ..))
      simp only [Arr.key, A.state, A.shadow]
      omega
    · rw [place_state h2, same, wrE_beside _ _ _ (by decide) (Ne.symm hj), stateSaved_rd]
  by_cases h3 : a.store = 3
  · rw [bedStore_land h3]
    refine ⟨?_, ?_, fun j hj => ?_⟩
    · rw [place_land h3, State.rd_wr_arr _ _ _ _ _ _ (by decide), State.wrLand, State.rd_wr_arr _ _ _ _ _ _ (by decide), State.rd_wr_same,
        row_written]
      exact Nat.mod_mod ..
    · rw [if_pos h3, State.rd_wr_arr _ _ _ _ _ _ (by decide), State.wrLand, State.rd_wr_same, Nat.xor_self, Nat.and_zero, Nat.zero_mod]
    · rw [place_land h3, State.rd_wr_arr _ _ _ _ _ _ (by decide), State.wrLand, State.rd_wr_arr _ _ _ _ _ _ (by decide),
        State.rd_wr_ix _ _ _ _ _ (Ne.symm hj)]
  by_cases h4 : a.store = 4
  · rw [bedStore_port h4]
    have flags {x : Arr} (j : Nat) (hx : [14, 25].contains (x.code % 512) = false) (hd : ¬ A.portDue.code % 512 = x.code % 512) :
        (((s.wrE A.port a.place.2 data).wr A.portDue a.place.2 0).portFlagged a pres setP clrP).rd x j = (s.wrE A.port a.place.2 data).rd x j :=
      ((portFlagged_only ..).rd x j hx).trans (State.rd_wr_arr _ _ _ _ _ _ hd)
    refine ⟨?_, ?_, fun j hj => ?_⟩
    · rw [place_port h4, flags _ rfl (by decide), wrE_same _ _ _ _ (by decide)]
    · rw [if_neg h3, place_port h4, State.errOf, flags _ rfl (by decide)]
      exact wrE_sound ..
    · rw [place_port h4, flags _ rfl (by decide), wrE_beside _ _ _ (by decide) (Ne.symm hj)]
  · rw [bedStore_plain h2 h3 h4]
    refine ⟨wrE_same _ _ _ _ off, ?_, fun j hj => (wrE_beside _ _ _ off (Ne.symm hj)).trans (histForgot_rd ..)⟩
    rw [if_neg h3]
    exact wrE_sound ..

theorem bedStore_shadow (h : a.store = 2) : (s.bedStore a data pres setP clrP).rd A.shadow a.place.2 = data % 2 ^ 16 := by
  rw [bedStore_state h]
  exact wrE_same _ _ _ _ (by decide)

theorem bedStore_flags (h : a.store = 3) : (s.bedStore a data pres setP clrP).rd A.landP a.place.2 =
    accFlags setP clrP (s.rd A.landP a.place.2) pres % 2 ^ 16 := by
  rw [bedStore_land h, State.rd_wr_same, State.wrLand, State.rd_wr_arr _ _ _ _ _ _ (by decide), State.rd_wr_arr _ _ _ _ _ _ (by decide)]
  rfl

end store

/-! ### The bed access port -/

section bed
variable {s : State} {who : Who} {die : Nat} {setP clrP : Bool}

theorem logStore_calm (s : State) (a : BedAcc) (loc ix data pres : Nat) (setP clrP : Bool) :
    s.Calm recorderCodes (s.logStore a loc ix data pres setP clrP) := by
  unfold State.logStore
  split
  · exact .refl ..
  · split
    · exact logInput_calm ..
    · exact .refl ..

theorem logStore_evt (s : State) (a : BedAcc) (loc ix data pres : Nat) (setP clrP : Bool) : s.EvtKept (s.logStore a loc ix data pres setP clrP) := by
  unfold State.logStore
  split
  · exact .refl ..
  next k hk =>
    split
    · exact logInput_evt (slotOfWall_lt hk) ..
    · exact .refl ..

theorem bedBusy_data (s : State) (die : Nat) : (s.bedBusy die).bedData die = s.bedData die := by
  have same (o : Nat) (ho : o < 0x800000) (hn : ∀ x ∈ busyFields, x.off ≠ o) : (s.bedBusy die).reg (D die + o) = s.reg (D die + o) :=
    busy_reg (by decide) ho hn
  simp only [State.bedData, State.pair, Nat.add_assoc]
  rw [same _ (by decide) (by decide), same _ (by decide) (by decide), same _ (by decide) (by decide), same _ (by decide) (by decide)]

/-- What a served write of a bed's store leaves, before BUSYACC. -/
def State.bedWrote (s : State) (die : Nat) (setP clrP : Bool) : State :=
  ((s.bedBusy die).logStore (s.bedAccNow die) (s.reg (D die + oBED_ACC_LOC)) (s.reg (D die + oBED_ACC_INDEX)) (s.bedData die)
    (s.rf (D die) BED_ACC_PRES_PRES) setP clrP).bedStore (s.bedAccNow die) (s.bedData die) (s.rf (D die) BED_ACC_PRES_PRES) setP clrP

theorem bedAccess_written (h : s.rf (D die) BED_ACC_STATUS_BUSYACC = 0) (hn : s.newtOnBed (s.bedAccNow die).bed = false)
    (hr : s.bedResult who die true setP clrP = 0) :
    s.bedAccess who die true setP clrP = (s.bedWrote die setP clrP).wr A.accRes (3 * die) 0 := by
  rw [bedAccess_now h hn]
  refine (if_neg (not_not.2 (bedBusy_result.trans hr))).trans ((if_pos rfl).trans ?_)
  have regs (o : Nat) (ho : o < 0x800000) (hn : ∀ x ∈ busyFields, x.off ≠ o) : (s.bedBusy die).reg (D die + o) = s.reg (D die + o) :=
    busy_reg (by decide) ho hn
  have pres : (s.bedBusy die).rf (D die) BED_ACC_PRES_PRES = s.rf (D die) BED_ACC_PRES_PRES := busy_rf (by decide) (by decide) (by decide)
  rw [bedBusy_now, regs _ (by decide) (by decide), regs _ (by decide) (by decide), bedBusy_data, pres]
  rfl

theorem bedArrays_reg : ∀ x ∈ bedArrays, [0].contains (x.code % 512) = false := by decide

/-- The stores lie apart from what the log and RESULT write. -/
theorem bedArrays_log : ∀ x ∈ bedArrays, ¬ A.accRes.code % 512 = x.code % 512 ∧ recorderCodes.contains (x.code % 512) = false ∧
    ¬ A.reg.code % 512 = x.code % 512 := by decide

theorem bedWrote_rd (x : Arr) (j : Nat) (hx : recorderCodes.contains (x.code % 512) = false) (hr : ¬ A.reg.code % 512 = x.code % 512) :
    ((s.bedBusy die).logStore (s.bedAccNow die) (s.reg (D die + oBED_ACC_LOC)) (s.reg (D die + oBED_ACC_INDEX)) (s.bedData die)
    (s.rf (D die) BED_ACC_PRES_PRES) setP clrP).rd x j = s.rd x j :=
  ((logStore_calm ..).only.rd x j hx).trans (State.rd_wr_arr _ _ _ _ _ _ hr)

theorem accStatus_plain : ∀ die : Fin 8, evtReg (D die + 0x4000C) = false := by decide

theorem bedWrote_busy (hd : die < 8) : (s.bedWrote die setP clrP).rf (D die) BED_ACC_STATUS_BUSYACC = 1 := by
  have logged : (s.bedWrote die setP clrP).reg (D die + 0x4000C) = (s.bedBusy die).reg (D die + 0x4000C) :=
    ((bedStore_only ..).rd A.reg _ rfl).trans ((logStore_evt ..).reads _ (accStatus_plain ⟨die, hd⟩))
  exact (congrArg (slice · 0 1) logged).trans (State.rf_wf_same _ _ _ _ (by decide))

theorem bedWrote_stored : Stored s (s.bedWrote die setP clrP) (s.bedAccNow die) (s.bedData die) := by
  have w := @bedStore_stored ((s.bedBusy die).logStore (s.bedAccNow die) (s.reg (D die + oBED_ACC_LOC)) (s.reg (D die + oBED_ACC_INDEX)) (s.bedData die)
    (s.rf (D die) BED_ACC_PRES_PRES) setP clrP) (s.bedAccNow die) (s.bedData die) (s.rf (D die) BED_ACC_PRES_PRES) setP clrP
  obtain ⟨_, apart⟩ := bedArrays_log _ (place_mem (s.bedAccNow die))
  exact ⟨w.data, w.sound, fun j hj => (w.beside j hj).trans (bedWrote_rd _ _ apart.1 apart.2)⟩

/-- A served write of the bed access port (R53 to R55). -/
theorem bedAccWrite_serves {die : Fin 8} (h : s.ServingDom who die domFab) (hb : s.rf (D die) BED_ACC_STATUS_BUSYACC = 0)
    (hn : s.newtOnBed (s.bedAccNow die).bed = false) (hr : s.bedResult who die true setP clrP = 0) :
    ∃ t, exec (.bedAccWrite who die setP clrP) s = .next t ∧ t.rf (D die) BED_ACC_STATUS_BUSYACC = 1 ∧ t.rd A.accRes (3 * die) = 0 ∧
      Stored s t (s.bedAccNow die) (s.bedData die) ∧
      ((s.bedAccNow die).store = 2 → t.rd A.shadow (s.bedAccNow die).place.2 = s.bedData die % 2 ^ 16) ∧
      ((s.bedAccNow die).store = 3 → t.rd A.landP (s.bedAccNow die).place.2 =
        accFlags setP clrP (s.rd A.landP (s.bedAccNow die).place.2) (s.rf (D die) BED_ACC_PRES_PRES) % 2 ^ 16) := by
  have same (x : Arr) (j : Nat) (hx : ¬ A.accRes.code % 512 = x.code % 512) :
      (((s.bedWrote die setP clrP).wr A.accRes (3 * die) 0).ans 0 0).rd x j = (s.bedWrote die setP clrP).rd x j :=
    (State.rd_ans ..).trans (State.rd_wr_arr _ _ _ _ _ _ hx)
  have w : Stored s (s.bedWrote die setP clrP) (s.bedAccNow die) (s.bedData die) := bedWrote_stored
  have place := (bedArrays_log _ (place_mem (s.bedAccNow die))).1
  refine ⟨_, exec_bedAccWrite h, ?_⟩
  rw [bedAccess_written hb hn hr]
  refine ⟨?_, (State.rd_ans ..).trans (State.rd_wr_same ..), ⟨(same _ _ place).trans w.data, ?_, fun j hj => (same _ _ place).trans (w.beside j hj)⟩,
    fun h2 => (same _ _ (by decide)).trans (bedStore_shadow h2), fun h3 => (same _ _ (by decide)).trans ((bedStore_flags h3).trans ?_)⟩
  · exact (congrArg (slice · 0 1) (same A.reg _ (by decide))).trans (bedWrote_busy die.isLt)
  · have sound := w.sound
    by_cases h3 : (s.bedAccNow die).store = 3
    · rw [if_pos h3] at sound ⊢
      exact (same _ _ (by decide)).trans sound
    · rw [if_neg h3] at sound ⊢
      exact (same _ _ (by decide)).trans sound
  · rw [bedWrote_rd _ _ rfl (by decide)]

/-- A state with the value and the flags of a read in the port's registers. -/
def State.bedShown (u : State) (a : BedAcc) (die v p : Nat) : State :=
  (if a.store = 3 ∨ a.store = 4 then u.wf (D die) BED_ACC_PRES_PRES p else u).setBedData die v

theorem bedShown_only (u : State) (a : BedAcc) (die v p : Nat) : u.Only [0] (u.bedShown a die v p) :=
  ((State.Only.ite ((State.Only.refl ..).wf _ _ _ rfl) (.refl ..)).setPair _ _ rfl).setPair _ _ rfl

theorem bedShown_data (u : State) (a : BedAcc) (die v p : Nat) : (u.bedShown a die v p).bedData die = v % 2 ^ 128 := by
  rw [State.bedData, State.bedShown, State.setBedData, pair_setPair_ne _ _ (.inl (by omega)), pair_setPair_same, pair_setPair_same]
  omega

theorem bedShown_reg (u : State) (a : BedAcc) (die v p : Nat) (o : Nat) (ho : o < 0x40010 ∨ 0x40020 < o) :
    (u.bedShown a die v p).reg (D die + o) = u.reg (D die + o) := by
  rw [State.bedShown, State.setBedData, reg_setPair_ne _ _ (by simp only [oBED_ACC_DATA]; omega) (by simp only [oBED_ACC_DATA]; omega),
    reg_setPair_ne _ _ (by simp only [oBED_ACC_DATA]; omega) (by simp only [oBED_ACC_DATA]; omega)]
  split
  · exact State.rd_wr_ix _ _ _ _ _ (by simp only [BED_ACC_PRES_PRES]; omega)
  · rfl

theorem bedShown_flags (u : State) {a : BedAcc} (ha : a.store = 3 ∨ a.store = 4) (die v p : Nat) (hp : p < 2 ^ 16) :
    (u.bedShown a die v p).rf (D die) BED_ACC_PRES_PRES = p := by
  rw [State.bedShown, State.setBedData, if_pos ha, rf_setPair _ _ _ _ (by simp only [oBED_ACC_DATA, BED_ACC_PRES_PRES]; omega)
    (by simp only [oBED_ACC_DATA, BED_ACC_PRES_PRES]; omega), rf_setPair _ _ _ _ (by simp only [oBED_ACC_DATA, BED_ACC_PRES_PRES]; omega)
    (by simp only [oBED_ACC_DATA, BED_ACC_PRES_PRES]; omega), State.rf_wf_same _ _ _ _ (by decide)]
  exact Nat.mod_eq_of_lt hp

theorem bedFlags_lt (s : State) (a : BedAcc) : s.bedFlags a < 2 ^ 16 := by
  unfold State.bedFlags
  split
  · exact State.rd_lt ..
  · exact Nat.lt_of_lt_of_le (slice_lt ..) (by decide)

theorem bedBusy_rd (x : Arr) (i : Nat) (hx : ([0].contains (x.code % 512)) = false) : (s.bedBusy die).rd x i = s.rd x i :=
  (busy_only s die BED_ACC_STATUS_BUSYACC).rd x i hx

theorem bedBusy_value (a : BedAcc) : (s.bedBusy die).bedValue a = s.bedValue a := by
  have owner : (s.bedBusy die).slotOfBed a.bed = s.slotOfBed a.bed := (busy_rights ..).slotOfBed _
  have soft : (s.bedBusy die).softStep a.bed = s.softStep a.bed := by
    unfold State.softStep State.doneStep
    rw [owner]
    cases s.slotOfBed a.bed with
    | none => rfl
    | some k => exact congrArg₂ (· - ·) (bedBusy_rd A.pStep k rfl) (bedBusy_rd A.pFrozen k rfl)
  have seen (t : Nat) : (s.bedBusy die).histSeen a.bed a.index lagSoft t = s.histSeen a.bed a.index lagSoft t := rfl
  unfold State.bedValue State.histRow State.flagEntry
  dsimp only
  rw [soft, seen, bedBusy_rd A.hist _ rfl, bedBusy_rd A.wflag _ rfl, bedBusy_rd a.place.1 _ (bedArrays_reg _ (place_mem a))]

theorem bedBusy_flags (a : BedAcc) : (s.bedBusy die).bedFlags a = s.bedFlags a := by
  rw [State.bedFlags, bedBusy_rd A.landP _ rfl, bedBusy_rd A.portP _ rfl, State.bedFlags]

/-- Without a stored error a read answers OK and counts nothing. -/
theorem bedRead_sound {u : State} {a : BedAcc} (he : if a.store = 3 then u.rd A.landErr a.place.2 = 0 else u.errOf a.place.1 a.place.2 = 0)
    (hp : a.store = 4 → (u.rd A.portPErr (4 * a.bed + a.bank)).testBit a.index = false) (die : Nat) : u.bedRead die a = (0, u) := by
  unfold State.bedRead State.accRead
  dsimp only
  split
  next h => rw [if_neg (by rw [h]; decide)] at he; rw [if_pos (.inl he)]; rfl
  next h => rw [if_neg (by rw [h]; decide)] at he; rw [if_pos (.inl he)]; rfl
  next h => rw [if_pos h] at he; rw [if_pos he]; rfl
  next h => rw [if_neg (by rw [h]; decide)] at he; rw [if_pos (ne_true_of_eq_false (hp h)), he]; rfl
  next h => rw [if_neg ‹_›] at he; rw [he]; rfl

theorem bedAccess_shown (h : s.rf (D die) BED_ACC_STATUS_BUSYACC = 0) (hn : s.newtOnBed (s.bedAccNow die).bed = false)
    (hr : s.bedResult who die false setP clrP = 0)
    (he : if (s.bedAccNow die).store = 3 then s.rd A.landErr (s.bedAccNow die).place.2 = 0
      else s.errOf (s.bedAccNow die).place.1 (s.bedAccNow die).place.2 = 0)
    (hp : (s.bedAccNow die).store = 4 → (s.rd A.portPErr (4 * (s.bedAccNow die).bed + (s.bedAccNow die).bank)).testBit (s.bedAccNow die).index = false) :
    s.bedAccess who die false setP clrP =
      ((s.bedBusy die).bedShown (s.bedAccNow die) die (s.bedValue (s.bedAccNow die)) (s.bedFlags (s.bedAccNow die))).wr A.accRes (3 * die) 0 := by
  rw [bedAccess_now h hn]
  refine (if_neg (not_not.2 (bedBusy_result.trans hr))).trans ((if_neg Bool.false_ne_true).trans ?_)
  rw [bedBusy_now, bedBusy_value, bedBusy_flags]
  generalize s.bedAccNow die = a at he hp ⊢
  have only : s.Only [0] (if a.store = 3 ∨ a.store = 4 then (s.bedBusy die).wf (D die) BED_ACC_PRES_PRES (s.bedFlags a) else s.bedBusy die) :=
    State.Only.ite ((busy_only ..).wf _ _ _ rfl) (busy_only ..)
  have sound := @bedRead_sound (if a.store = 3 ∨ a.store = 4 then (s.bedBusy die).wf (D die) BED_ACC_PRES_PRES (s.bedFlags a) else s.bedBusy die) a
    (by simpa only [State.errOf, only.rd A.landErr _ rfl, only.rd A.err _ rfl] using he) (by rwa [only.rd A.portPErr _ rfl]) die
  dsimp only
  rw [sound]
  rfl

/-- A served read of the bed access port (R53 to R55). -/
theorem bedAccRead_serves {die : Fin 8} (h : s.ServingDom who die domFab) (hb : s.rf (D die) BED_ACC_STATUS_BUSYACC = 0)
    (hn : s.newtOnBed (s.bedAccNow die).bed = false) (hr : s.bedResult who die false false false = 0)
    (he : if (s.bedAccNow die).store = 3 then s.rd A.landErr (s.bedAccNow die).place.2 = 0
      else s.errOf (s.bedAccNow die).place.1 (s.bedAccNow die).place.2 = 0)
    (hp : (s.bedAccNow die).store = 4 → (s.rd A.portPErr (4 * (s.bedAccNow die).bed + (s.bedAccNow die).bank)).testBit (s.bedAccNow die).index = false) :
    ∃ t, exec (.bedAccRead who die) s = .next t ∧ t.rf (D die) BED_ACC_STATUS_BUSYACC = 1 ∧ t.rd A.accRes (3 * die) = 0 ∧
      t.bedData die = s.bedValue (s.bedAccNow die) % 2 ^ 128 ∧
      ((s.bedAccNow die).store = 3 ∨ (s.bedAccNow die).store = 4 → t.rf (D die) BED_ACC_PRES_PRES = s.bedFlags (s.bedAccNow die)) ∧
      s.Only [0, 230] t ∧ t.mem = s.mem := by
  refine ⟨_, exec_bedAccRead h, ?_⟩
  rw [bedAccess_shown hb hn hr he hp]
  generalize s.bedAccNow die = a
  have shown : s.Only [0] ((s.bedBusy die).bedShown a die (s.bedValue a) (s.bedFlags a)) := (busy_only ..).step (bedShown_only ..) rfl
  generalize hu : (s.bedBusy die).bedShown a die (s.bedValue a) (s.bedFlags a) = u at shown ⊢
  have kept : u.Only [230] ((u.wr A.accRes (3 * die) 0).ans 0 0) := ((State.Only.refl ..).wr _ _ rfl).update rfl
  have regs (r : Nat) : ((u.wr A.accRes (3 * die) 0).ans 0 0).reg r = u.reg r := kept.rd A.reg r rfl
  have data : ((u.wr A.accRes (3 * die) 0).ans 0 0).bedData die = u.bedData die := by simp only [State.bedData, State.pair, regs]
  refine ⟨?_, (State.rd_ans ..).trans (State.rd_wr_same ..), ?_, fun h3 => ?_, (shown.mono rfl).step kept rfl, ?_⟩
  · rw [State.rf, regs, ← hu, bedShown_reg _ _ _ _ _ _ (.inl (by decide))]
    exact State.rf_wf_same _ _ _ _ (by decide)
  · rw [data, ← hu, bedShown_data]
  · rw [State.rf, regs, ← hu]
    exact bedShown_flags _ h3 _ _ _ (bedFlags_lt ..)
  · rw [mem_ans, mem_wr, ← hu, State.bedShown, State.setBedData, State.mem_setPair, State.mem_setPair]
    split <;> rfl

end bed

theorem resulted_only {s u : State} (h : s.Only [0] u) (port r : Nat) : s.Only [0, 230] ((u.wr A.accRes port r).ans 0 0) :=
  ((h.mono (more := [0, 230]) rfl).wr _ _ rfl).update rfl

/-! ### The word-unit access port -/

section wu
variable {s : State} {who : Who} {die : Nat}

/-- The entry of the word-unit memory that the port's registers name. -/
def State.wuEntry (s : State) (die : Nat) : Nat := 512 * s.wuBed die + s.rf (D die) WU_ACC_LOC_INDEX

theorem wuBusy_entry (s : State) (die : Nat) : (s.wuBusy die).wuEntry die = s.wuEntry die := by
  rw [State.wuEntry, wuBusy_bed, State.wuBusy, busy_rf (by decide) (by decide) (by decide), State.wuEntry]

theorem wuBusy_check (h : s.mayWall who (s.wuBed die / 256) = true) {write : Bool} (hs : s.wallServes (s.wuBed die / 256) write = true) :
    (s.wuBusy die).accCheck who false ((s.wuBusy die).wuBed die / 256) write = 0 := by
  rw [wuBusy_bed, State.wuBusy, (busy_rights s die WU_ACC_STATUS_BUSYACC).accCheck]
  exact accCheck_served h hs

theorem wuAccess_written (h : s.rf (D die) WU_ACC_STATUS_BUSYACC = 0) (hn : s.newtOnBed (s.wuBed die) = false)
    (hm : s.mayWall who (s.wuBed die / 256) = true) (hs : s.wallServes (s.wuBed die / 256) true = true) :
    s.wuAccess who die true = ((s.wuBusy die).wrE A.wimem (s.wuEntry die)
      (s.rf (D die) WU_ACC_DATA0_DATA + 2 ^ 32 * s.rf (D die) WU_ACC_DATA1_DATA)).wr A.accRes (3 * die + 1) 0 := by
  have low : (s.wuBusy die).rf (D die) WU_ACC_DATA0_DATA = s.rf (D die) WU_ACC_DATA0_DATA := busy_rf (by decide) (by decide) (by decide)
  have high : (s.wuBusy die).rf (D die) WU_ACC_DATA1_DATA = s.rf (D die) WU_ACC_DATA1_DATA := busy_rf (by decide) (by decide) (by decide)
  rw [wuAccess_now h hn, ← wuBusy_entry, ← low, ← high]
  exact (if_neg (not_not.2 (wuBusy_check hm hs))).trans (if_pos rfl)

/-- The word in the port's data registers. -/
def State.wuShown (u : State) (die v : Nat) : State := (u.wf (D die) WU_ACC_DATA0_DATA v).wf (D die) WU_ACC_DATA1_DATA (v / 2 ^ 32)

theorem wuAccess_shown (h : s.rf (D die) WU_ACC_STATUS_BUSYACC = 0) (hn : s.newtOnBed (s.wuBed die) = false)
    (hm : s.mayWall who (s.wuBed die / 256) = true) (hs : s.wallServes (s.wuBed die / 256) false = true)
    (he : s.errOf A.wimem (s.wuEntry die) = 0) :
    s.wuAccess who die false = ((s.wuBusy die).wuShown die (s.rd A.wimem (s.wuEntry die))).wr A.accRes (3 * die + 1) 0 := by
  have only : s.Only [0] (s.wuBusy die) := busy_only ..
  have read : (s.wuBusy die).accRead die A.wimem ((s.wuBusy die).wuEntry die) = (0, s.wuBusy die) := by
    rw [State.accRead, State.errOf, wuBusy_entry, only.rd A.err _ rfl, ← State.errOf, he]
    rfl
  rw [wuAccess_now h hn]
  refine (if_neg (not_not.2 (wuBusy_check hm hs))).trans ((if_neg Bool.false_ne_true).trans ?_)
  change (((Prod.snd ((s.wuBusy die).accRead die A.wimem ((s.wuBusy die).wuEntry die))).wuShown die
    ((s.wuBusy die).rd A.wimem ((s.wuBusy die).wuEntry die))).wr A.accRes (3 * die + 1)
      (Prod.fst ((s.wuBusy die).accRead die A.wimem ((s.wuBusy die).wuEntry die)))) = _
  rw [read, wuBusy_entry, only.rd A.wimem _ rfl]

theorem wuAccRead_serves {die : Fin 8} (h : s.ServingDom who die domFab) (hb : s.rf (D die) WU_ACC_STATUS_BUSYACC = 0)
    (hn : s.newtOnBed (s.wuBed die) = false) (hm : s.mayWall who (s.wuBed die / 256) = true)
    (hs : s.wallServes (s.wuBed die / 256) false = true) (he : s.errOf A.wimem (s.wuEntry die) = 0) :
    ∃ t, exec (.wuAccRead who die) s = .next t ∧ t.rf (D die) WU_ACC_DATA0_DATA = s.rd A.wimem (s.wuEntry die) % 2 ^ 32 ∧
      t.rf (D die) WU_ACC_DATA1_DATA = s.rd A.wimem (s.wuEntry die) / 2 ^ 32 ∧ t.rf (D die) WU_ACC_STATUS_BUSYACC = 1 ∧
      t.rd A.accRes (3 * die + 1) = 0 ∧ s.Only [0, 230] t ∧ t.mem = s.mem := by
  refine ⟨_, exec_wuAccRead h, ?_⟩
  rw [wuAccess_shown hb hn hm hs he]
  have wide : s.rd A.wimem (s.wuEntry die) < 2 ^ 48 := State.rd_lt ..
  generalize s.rd A.wimem (s.wuEntry die) = v at wide ⊢
  have apart {x y : Nat} (h : x ≠ y) : ¬ D die + x = D die + y := fun e => h (Nat.add_left_cancel e)
  refine ⟨?_, ?_, ?_, (State.rd_ans ..).trans (State.rd_wr_same ..), ?_, ?_⟩
  · rw [State.rf_ans, rf_wr _ _ _ _ _ (by decide), State.wuShown, State.rf_wf_reg _ _ _ _ _ _ (apart (by decide)), State.rf_wf_same _ _ _ _ (by decide)]
    rfl
  · rw [State.rf_ans, rf_wr _ _ _ _ _ (by decide), State.wuShown, State.rf_wf_same _ _ _ _ (by decide)]
    exact Nat.mod_eq_of_lt (Nat.div_lt_of_lt_mul wide)
  · rw [State.rf_ans, rf_wr _ _ _ _ _ (by decide), State.wuShown, State.rf_wf_reg _ _ _ _ _ _ (apart (by decide)),
      State.rf_wf_reg _ _ _ _ _ _ (apart (by decide))]
    exact State.rf_wf_same _ _ _ _ (by decide)
  · exact resulted_only (((busy_only s die WU_ACC_STATUS_BUSYACC).wf _ _ _ rfl).wf _ _ _ rfl) _ _
  · rw [mem_ans, mem_wr, State.wuShown, State.mem_wf, State.mem_wf, State.wuBusy, State.mem_wf]

end wu

/-! ### The mortar access port -/

section mortar
variable {s : State} {who : Who} {die : Fin 8} {kind lane : Nat} {cfg : Bool}

theorem mortarAccRead_serves (hs : s.Serving who) (hf : s.domOn die domFab = true) (hl : s.domOn die domLink = true)
    (hb : s.rf (D die) MORTAR_ACC_STATUS_BUSYACC = 0) (hp : mortarPlace die (s.reg (D die + oMORTAR_ACC_LOC)) = some (kind, lane, cfg))
    (hm : s.mayLane who kind lane = true) (hv : s.laneServes kind lane false = true)
    (hok : s.mortarBad kind lane (s.rf (D die) MORTAR_ACC_INDEX_STEP) = false) :
    ∃ t, exec (.mortarAccRead who die) s = .next t ∧
      t.rf (D die) MORTAR_ACC_DATA_DATA =
        (if cfg then s.laneCfg kind lane else s.rd (A.mTab kind) (512 * lane + s.rf (D die) MORTAR_ACC_INDEX_STEP)) % 2 ^ 32 ∧
      t.rf (D die) MORTAR_ACC_STATUS_BUSYACC = 1 ∧ t.rd A.accRes (3 * die + 2) = 0 ∧ s.Only [0, 230] t ∧ t.mem = s.mem := by
  have lt := (mortarPlace_kind hp).1
  have busy : s.Only [0] (s.mortarBusy die) := busy_only ..
  have lanes : s.SameLanes (s.mortarBusy die) := busy_lanes ..
  have bad : (s.mortarBusy die).mortarBad kind lane (s.rf (D die) MORTAR_ACC_INDEX_STEP) = false := by
    rw [← hok, State.mortarBad, State.mortarBad, State.errOf, busy.rd A.err _ rfl, State.errOf]
  have table : (s.mortarBusy die).rd (A.mTab kind) (512 * lane + s.rf (D die) MORTAR_ACC_INDEX_STEP) =
      s.rd (A.mTab kind) (512 * lane + s.rf (D die) MORTAR_ACC_INDEX_STEP) :=
    State.rd_wr_arr _ _ _ _ _ _ (by simp only [A.mTab, A.reg_code]; omega)
  have same (a : Arr) (ha : ¬ A.reg.code % 512 = a.code % 512) : (s.mortarBusy die).rd a lane = s.rd a lane := State.rd_wr_arr _ _ _ _ _ _ ha
  have shown : (s.mortarBusy die).laneCfg kind lane = s.laneCfg kind lane := by
    unfold State.laneCfg
    rw [lanes.laneOwner lt, same _ (by simp only [A.mReg, A.reg_code]; omega), same _ (by simp only [A.mOwn, A.reg_code]; omega),
      same _ (by simp only [A.mClass, A.reg_code]; omega)]
  have value : s.mortarAccess who die false = ((s.mortarBusy die).wf (D die) MORTAR_ACC_DATA_DATA
      (if cfg then s.laneCfg kind lane else s.rd (A.mTab kind) (512 * lane + s.rf (D die) MORTAR_ACC_INDEX_STEP))).wr A.accRes (3 * die + 2) 0 := by
    rw [mortarAccess_read hb hp, if_neg (not_not.2 hm), if_neg (not_not.2 hv), bad, table, shown]
    cases cfg <;> rfl
  refine ⟨_, exec_mortarAccRead hs hf hl, ?_⟩
  rw [value]
  refine ⟨?_, ?_, (State.rd_ans ..).trans (State.rd_wr_same ..), resulted_only (busy.wf _ _ _ rfl) _ _, ?_⟩
  · rw [State.rf_ans, rf_wr _ _ _ _ _ (by decide), State.rf_wf_same _ _ _ _ (by decide)]
    rfl
  · rw [State.rf_ans, rf_wr _ _ _ _ _ (by decide), State.rf_wf_reg _ _ _ _ _ _ (fun e => absurd (Nat.add_left_cancel e) (by decide))]
    exact State.rf_wf_same _ _ _ _ (by decide)
  · rw [mem_ans, mem_wr, State.mem_wf, State.mortarBusy, State.mem_wf]

end mortar

/-- What an access that writes registers and RESULT alone leaves. -/
theorem shown_beside {s t : State} (h : s.Only [0, 230] t) (x : Arr) (hx : x.code < 512) (h0 : x.code ≠ A.reg.code) (hr : x.code ≠ A.accRes.code)
    (j : Nat) : t.rd x j = s.rd x j :=
  h.rd x j (by
    rw [Nat.mod_eq_of_lt hx]
    simp only [A.reg_code, A.accRes] at h0 hr
    simp [h0, hr])

/-- Settles O17: a served access reads or writes the one entry that its registers name. -/
theorem accessPortTransfers : Obligations.AccessPortTransfers := by
  refine ⟨?_, ?_, ?_⟩
  · intro s who die setP clrP a arr i wall hs hb hn ha hm
    refine ⟨fun hv he hp => ?_, fun hv hc => ?_⟩
    · have result : s.bedResult who die false false false = 0 := by
        have check : s.accCheck who a.badAddress (a.bed / 256) false = 0 := by rw [ha]; exact accCheck_served hm hv
        exact (if_neg (by simp)).trans check
      obtain ⟨t, he, h1, h2, h3, h4, h5, h6⟩ := bedAccRead_serves hs hb hn result he hp
      exact ⟨t, he, h1, h2, h3, h4, shown_beside h5, h6⟩
    · have result : s.bedResult who die true setP clrP = 0 := by
        have check : s.accCheck who a.badAddress (a.bed / 256) (decide (a.store = 0 ∨ a.store = 6)) = 0 := by
          rw [ha]; exact accCheck_served hm hv
        exact (if_neg fun h => hc h.2.2).trans check
      have flags : s.rd A.landP i < 2 ^ 16 := State.rd_lt ..
      have pres : s.rf (D die) BED_ACC_PRES_PRES < 2 ^ 16 := slice_lt ..
      obtain ⟨t, he, h1, h2, stored, h3, h4⟩ := bedAccWrite_serves hs hb hn result
      refine ⟨t, he, h1, h2, stored.data, stored.sound, stored.beside, h3, fun land => ⟨fun set => ?_, fun clr => ?_, fun set clr => ?_⟩⟩
      · exact (h4 land).trans ((congrArg (· % 2 ^ 16) (if_pos set)).trans (Nat.mod_eq_of_lt (Nat.or_lt_two_pow flags pres)))
      · have keep : setP = false := Bool.eq_false_iff.2 fun set => hc ⟨set, clr⟩
        exact (h4 land).trans ((congrArg (· % 2 ^ 16) ((if_neg (ne_true_of_eq_false keep)).trans (if_pos clr))).trans
          (Nat.mod_eq_of_lt (Nat.lt_of_le_of_lt Nat.and_le_left flags)))
      · exact (h4 land).trans ((congrArg (· % 2 ^ 16) ((if_neg (ne_true_of_eq_false set)).trans (if_neg (ne_true_of_eq_false clr)))).trans
          (Nat.mod_eq_of_lt flags))
  · intro s who die d bed i hs hb hn hm
    refine ⟨fun hv he => ?_, fun hv => ?_⟩
    · obtain ⟨t, he, h1, h2, h3, h4, h5, h6⟩ := wuAccRead_serves hs hb hn hm hv he
      exact ⟨t, he, h1, h2, h3, h4, shown_beside h5, h6⟩
    · exact (exec_wuAccWrite hs).trans (congrArg (fun u : State => (.next (u.ans 0 0) : Res)) (wuAccess_written hb hn hm hv))
  · intro s who die kind lane cfg d step v hs hf hl hb hp hm
    refine ⟨fun hv hok => ?_, fun hcheck => ⟨fun hc => ?_, fun ht hc w hw => ?_⟩⟩
    · obtain ⟨t, he, h1, h2, h3, h4, h5⟩ := mortarAccRead_serves hs hf hl hb hp hm hv hok
      exact ⟨t, he, h1, h2, h3, shown_beside h4, h5⟩
    · rw [exec_mortarAccWrite hs hf hl, mortarAccess_write hb hp (v := v) rfl hcheck, if_neg (not_not.2 rfl), if_neg (ne_true_of_eq_false hc)]
      rfl
    · rw [exec_laneCfgWrite hs hf hl ht, mortarAccess_write hb hp (v := v) rfl hcheck, if_neg (not_not.2 rfl), if_pos hc, State.putLaneCfg, hw]
      rfl

end Sys2Proof.Machine

/-! CERTIFICATE. The mortar carries bits: lanes, switches and modules (chapter 05, R107 to R116, R122, R123). -/

namespace Sys2Proof.Machine

open Reg

/-! ### Outbound lanes -/

section lanes
variable {s : State} {bed lane k t : Nat} {relay : Bool} {f : Nat → Nat → Nat → State → State}

theorem lanePerform_idle (h : s.MayIssue 3 (16 * bed + lane) (bed / 256) k t) (hb : s.mortarBad 0 (16 * bed + lane) t = false)
    (he : ¬ (mEn 0 (s.rd (A.mTab 0) (512 * (16 * bed + lane) + t)) = true ∧ (s.rd (A.mTab 0) (512 * (16 * bed + lane) + t)).testBit 14 = relay)) :
    s.lanePerform bed lane relay f = s := by
  rw [State.lanePerform, unit_turn h.active h.turn]
  dsimp only
  rw [hb, if_neg Bool.false_ne_true, if_neg he]

theorem lanePerform_runs (h : s.MayIssue 3 (16 * bed + lane) (bed / 256) k t) (hb : s.mortarBad 0 (16 * bed + lane) t = false)
    (he : mEn 0 (s.rd (A.mTab 0) (512 * (16 * bed + lane) + t)) = true ∧ (s.rd (A.mTab 0) (512 * (16 * bed + lane) + t)).testBit 14 = relay) :
    s.lanePerform bed lane relay f = f k t (s.rd (A.mTab 0) (512 * (16 * bed + lane) + t)) (s.mark 3 (16 * bed + lane)) := by
  rw [State.lanePerform, unit_turn h.active h.turn]
  dsimp only
  rw [hb, if_neg Bool.false_ne_true, if_pos he, State.voted, h.onTime]

/-- An intact history bit goes onto its segment. -/
theorem runSend_intact (hd : s.debug = false) {e : Nat} (he : s.errOf A.hist (512 * bed + slice e 0 9) = 0) :
    s.runSend k bed lane t e = s.sendBit k bed lane t ((s.partRow (s.rd A.pDepth k) bed (slice e 0 9) lagLane t).testBit (slice e 9 4)) := by
  unfold State.runSend State.noteHist State.noteBad
  dsimp only
  rw [if_neg (by simp [he]), State.hzHistRead, if_pos (by rw [hd]; decide)]

/-- An intact landing bit goes onto its segment. -/
theorem runRelay_intact (hd : s.debug = false) {e : Nat}
    (he : s.rd A.landErr (landKey bed (s.rd A.pCycle k % 2) (slice e 0 9)) &&& 2 ^ slice e 9 4 = 0) :
    s.runRelay k bed lane t e = s.sendBit k bed lane t ((s.rd A.land (landKey bed (s.rd A.pCycle k % 2) (slice e 0 9))).testBit (slice e 9 4)) := by
  unfold State.runRelay State.noteLand State.noteBad
  dsimp only
  rw [if_neg (by simp [he]), State.hzLandRead, if_neg (by rw [hd]; simp)]

theorem mark_rd (s : State) (a b : Nat) (x : Arr) (i : Nat) : (s.mark a b).rd x i = s.rd x i := rfl

theorem mark_debug (s : State) (a b : Nat) : (s.mark a b).debug = s.debug := rfl

theorem mark_errOf (s : State) (a b : Nat) (x : Arr) (i : Nat) : (s.mark a b).errOf x i = s.errOf x i := rfl

theorem mark_partRow (s : State) (a b d bed step g t : Nat) : (s.mark a b).partRow d bed step g t = s.partRow d bed step g t := rfl

/-- A unit's mark and a bit on its segment. -/
def State.laneSent (s : State) (k bed lane t : Nat) (v : Bool) : State := { s.mark 3 (16 * bed + lane) with
  flight := s.flight ++ [⟨k, s.rd A.pCycle k % 2, .courseIn (bed / 16) (16 * (bed % 16) + lane), t + 2 + s.rd (A.mReg 0) (16 * bed + lane), v, []⟩] }

theorem sendBit_marked (v : Bool) : (s.mark 3 (16 * bed + lane)).sendBit k bed lane t v = s.laneSent k bed lane t v := rfl

theorem runSend_marked (hd : s.debug = false) {e : Nat} (he : s.errOf A.hist (512 * bed + slice e 0 9) = 0) :
    (s.mark 3 (16 * bed + lane)).runSend k bed lane t e =
      s.laneSent k bed lane t ((s.partRow (s.rd A.pDepth k) bed (slice e 0 9) lagLane t).testBit (slice e 9 4)) := by
  rw [runSend_intact ((mark_debug ..).trans hd) ((mark_errOf ..).trans he), sendBit_marked, mark_rd, mark_partRow]

theorem runRelay_marked (hd : s.debug = false) {e : Nat}
    (he : s.rd A.landErr (landKey bed (s.rd A.pCycle k % 2) (slice e 0 9)) &&& 2 ^ slice e 9 4 = 0) :
    (s.mark 3 (16 * bed + lane)).runRelay k bed lane t e =
      s.laneSent k bed lane t ((s.rd A.land (landKey bed (s.rd A.pCycle k % 2) (slice e 0 9))).testBit (slice e 9 4)) := by
  rw [runRelay_intact ((mark_debug ..).trans hd) he, sendBit_marked, mark_rd, mark_rd]

end lanes

/-! ### Switches and modules -/

section switches
variable {s : State} {k step : Nat}

theorem switch_place {sw : SwitchLoc} {out : Nat} (hw : out < swWidth sw) :
    (swWidth sw * swIx sw + out) / swOuts (swKind sw) = swIx sw ∧ (swWidth sw * swIx sw + out) % swOuts (swKind sw) = out := by
  have outs : swOuts (swKind sw) = swWidth sw := by cases sw <;> rfl
  rw [outs, Nat.mul_add_div (Nat.zero_lt_of_lt hw), Nat.div_eq_of_lt hw, Nat.add_zero, Nat.mul_add_mod, Nat.mod_eq_of_lt hw]
  exact ⟨rfl, rfl⟩

section switch
variable {sw : SwitchLoc} {out lane e : Nat} (hlane : lane = swWidth sw * swIx sw + out) (hent : e = s.rd (A.mTab (swKind sw)) (512 * lane + step))
  (hw : out < swWidth sw) (hl : s.laneSlot (swKind sw) lane = some k) (hr : s.stageRuns k step = true) (hb : s.mortarBad (swKind sw) lane step = false)
include hlane hent hw hl hr hb

theorem switchStep_idle (h : mEn (swKind sw) e = false ∨ s.bitAt k (swIn (swKind sw) (swIx sw) (slice e 0 13)) step out = none) :
    s.switchStep sw out step = s := by
  obtain ⟨hx, ho⟩ := hlane ▸ switch_place hw
  rw [State.switchStep, if_neg (Nat.not_le.2 hw), ← hlane, State.switchLane, hx, ho, hl]
  dsimp only
  rw [if_neg (not_not.2 hr), State.mortarPerform, hb, if_neg Bool.false_ne_true, ← hent]
  rcases h with h | h
  · rw [h, if_pos Bool.false_ne_true]
  · rw [h]
    exact ite_self _

theorem switchStep_carries {b : FlightBit} (h : mEn (swKind sw) e = true)
    (hbit : s.bitAt k (swIn (swKind sw) (swIx sw) (slice e 0 13)) step out = some b) :
    s.switchStep sw out step = s.passBit b out (swOut (swKind sw) (swIx sw) out (step + swDelay (swKind sw) + s.rd (A.mReg (swKind sw)) lane))
      (step + swDelay (swKind sw) + s.rd (A.mReg (swKind sw)) lane) := by
  obtain ⟨hx, ho⟩ := hlane ▸ switch_place hw
  rw [State.switchStep, if_neg (Nat.not_le.2 hw), ← hlane, State.switchLane, hx, ho, hl]
  dsimp only
  rw [if_neg (not_not.2 hr), State.mortarPerform, hb, if_neg Bool.false_ne_true, ← hent, if_neg (not_not.2 h), hbit]

end switch

section module
variable {die m pos lane e : Nat} (hlane : lane = 2048 * die + 512 * m + pos) (hent : e = s.rd (A.mTab 4) (512 * lane + step))
  (hm : m < 4) (hp : pos < 512) (hl : s.laneSlot 4 lane = some k) (hr : s.stageRuns k step = true) (hb : s.mortarBad 4 lane step = false)
include hlane hent hm hp hl hr hb

theorem moduleStep_idle (h : mEn 4 e = false ∨ s.bitAt k (.source die (slice e 0 11)) step (512 * m + pos) = none) :
    s.moduleStep die m pos step = s := by
  have hd : lane / 2048 = die := by omega
  have ho : lane % 2048 = 512 * m + pos := by omega
  rw [State.moduleStep, ← hlane, State.moduleLane, hd, ho, hl]
  dsimp only
  rw [if_neg (not_not.2 hr), State.mortarPerform, hb, if_neg Bool.false_ne_true, ← hent]
  rcases h with h | h
  · rw [h, if_pos Bool.false_ne_true]
  · rw [h]
    exact ite_self _

theorem moduleStep_carries {b : FlightBit} (h : mEn 4 e = true) (hbit : s.bitAt k (.source die (slice e 0 11)) step (512 * m + pos) = some b) :
    s.moduleStep die m pos step = s.passBit b (512 * m + pos) (.wire (neighborDie die m) (backModule m) pos) (step + 9) := by
  have hd : lane / 2048 = die := by omega
  have ho : lane % 2048 = 512 * m + pos := by omega
  rw [State.moduleStep, ← hlane, State.moduleLane, hd, ho, hl]
  dsimp only
  rw [if_neg (not_not.2 hr), State.mortarPerform, hb, if_neg Bool.false_ne_true, ← hent, if_neg (not_not.2 h), hbit,
    show (512 * m + pos) / 512 = m by omega, show (512 * m + pos) % 512 = pos by omega]
  rfl

end module

end switches

/-! ### Transfers -/

section transfer
variable {s : State} {k : Nat}

/-- A stop of one partition leaves the others' states, and what is on its way. -/
structure State.OneStopped (k : Nat) (s t : State) : Prop where
  state : ∀ x, x ≠ k → t.rd A.pState x = s.rd A.pState x
  imm : ∀ x, x ≠ k → t.rd A.pImm x = s.rd A.pImm x
  flight : t.flight = s.flight

theorem flight_of_core {s t : State} (h : t.core = s.core) : t.flight = s.flight := (congrArg State.flight h : t.core.flight = s.core.flight)

theorem flight_wr (s : State) (a : Arr) (i v : Nat) : (s.wr a i v).flight = s.flight := rfl

theorem shCommit_flight (s : State) (k : Nat) : (s.shCommit k).flight = s.flight := by
  have all (l : List ShadowWrite) (x : State × Bool) :
      (l.foldl (fun (a : State × Bool) w => let x := a.1.shApply k w; (x.1, a.2 || x.2)) x).1.flight = x.1.flight := by
    induction l generalizing x with
    | nil => rfl
    | cons w r ih => exact (ih _).trans (flight_of_core (shApply_calm ..).core)
  exact all _ (s, false)

theorem enterStopped_flight (s : State) (k : Nat) (imm : Bool) (step : Nat) : (s.enterStopped k imm step).flight = s.flight := by
  have pend (u : State) : (u.launchPend k).flight = u.flight := by
    refine foldl_keeps (obs := State.flight) (fun v i _ => ?_) _
    split <;> rfl
  have settle (u : State) : (u.shadowSettle k).flight = u.flight := by
    unfold State.shadowSettle
    split
    · exact (flight_wr ..).trans (shCommit_flight u k)
    · rfl
  unfold State.enterStopped
  dsimp only
  rw [pend, settle, flight_of_core (raise_calm ..).core]
  exact (flight_of_core (dropLate_calm ..).core).trans (flight_of_core (flushRecs_calm ..).core)

theorem enterStopped_one (s : State) (k : Nat) (imm : Bool) (step : Nat) : State.OneStopped k s (s.enterStopped k imm step) := by
  have before (a : Arr) (x : Nat) (ha : recordCodes.contains (a.code % 512) = false) (hp : plumbCodes.contains (a.code % 512) = false) :
      ((s.flushRecs k).dropLate k).rd a x = s.rd a x := ((dropLate_calm ..).only.rd a x hp).trans ((flushRecs_calm ..).only.rd a x ha)
  have after (u : State) (a : Arr) (x : Nat) (h1 : [242].contains (a.code % 512) = false) (h2 : shadowCodes.contains (a.code % 512) = false)
      (h3 : raiseCodes.contains (a.code % 512) = false) (h4 : [0, A.remoteHold.code].contains (a.code % 512) = false) :
      (((((({ u with stops := u.stops.filter fun x => x.slot ≠ k }.wf (P k) FAULT_STATUS_IMMEDIATE (bit imm)).wf (P k) FAULT_STATUS_STOP_STEP step).wr
        A.remoteHold k 0).raise (0x540 + k)).shadowSettle k).launchPend k).rd a x = u.rd a x :=
    ((launchPend_only ..).rd a x h1).trans (((shadowSettle_only ..).rd a x h2).trans (((raise_calm ..).only.rd a x h3).trans
      (((((State.Only.refl [0, A.remoteHold.code] u).update (by rfl)).wf _ _ _ rfl).wf _ _ _ rfl |>.wr _ _ rfl).rd a x h4)))
  refine ⟨fun x hx => (after _ A.pState x rfl rfl rfl rfl).trans ?_, fun x hx => (after _ A.pImm x rfl rfl rfl rfl).trans ?_, enterStopped_flight ..⟩
  · rw [State.rd_wr_arr _ _ _ _ _ _ (by decide), State.rd_wr_ix _ _ _ _ _ (Ne.symm hx), before A.pState x rfl rfl]
  · rw [State.rd_wr_ix _ _ _ _ _ (Ne.symm hx), State.rd_wr_arr _ _ _ _ _ _ (by decide), before A.pImm x rfl rfl]

theorem stopImmediate_one (s : State) (k : Nat) : State.OneStopped k s (s.stopImmediate k) := by
  unfold State.stopImmediate
  split
  · exact enterStopped_one ..
  · split
    · exact ⟨fun x _ => State.rd_wr_arr _ _ _ _ _ _ (by decide), fun x hx => State.rd_wr_ix _ _ _ _ _ (Ne.symm hx), rfl⟩
    · exact ⟨fun _ _ => rfl, fun _ _ => rfl, rfl⟩

/-- The state of a fault of class I before its stop. -/
theorem fault_immediate (h : s.stoppable k = true) (code : Nat) (l : Loc) (detail : Nat) :
    ∃ u, s.Calm recordCodes u ∧ s.fault k code l .i detail = u.stopImmediate k := by
  unfold State.fault State.faultAt
  dsimp only
  simp only [h, if_true, State.actionOf]
  generalize hu : (((s.record k code l (s.posCycle k) (s.posStep k) 2 detail).firstFault k code
    (s.record k code l (s.posCycle k) (s.posStep k) 2 detail).chainAddr).raise (if code = 1 then 0x520 + k else 0x500 + k)) = u
  have raised : s.Calm recordCodes u := hu ▸ ((record_calm ..).step (firstFault_calm ..) rfl).step (raise_calm ..) rfl
  have run : u.stoppable k = true := by rw [State.stoppable, raised.only.rd A.pState _ rfl]; exact h
  rw [State.act, if_neg (by rw [run]; decide), if_neg (by decide), if_pos rfl]
  exact ⟨_, raised.step (sendNotice_calm ..) rfl, rfl⟩

theorem fault_one (h : s.stoppable k = true) (code : Nat) (l : Loc) (detail : Nat) : State.OneStopped k s (s.fault k code l .i detail) := by
  obtain ⟨u, calm, he⟩ := fault_immediate h code l detail
  have one := stopImmediate_one u k
  rw [he]
  exact ⟨fun x hx => (one.state x hx).trans (calm.only.rd A.pState x rfl), fun x hx => (one.imm x hx).trans (calm.only.rd A.pImm x rfl),
    one.flight.trans (flight_of_core calm.core)⟩

/-- A partition that has stopped, or stops when its step completes. -/
def State.halting (s : State) (k : Nat) : Prop := s.rd A.pState k = 4 ∨ s.rd A.pImm k = 1

theorem fault_halting (h : s.stoppable k = true) (code : Nat) (l : Loc) (detail : Nat) : (s.fault k code l .i detail).halting k := by
  obtain ⟨u, calm, he⟩ := fault_immediate h code l detail
  have run := stoppable_iff.1 h
  rw [← calm.only.rd A.pState k rfl] at run
  rw [he]
  rcases run with run | held
  · exact stopImmediate_run run
  · refine .inl ?_
    rw [State.stopImmediate, if_pos (.inl held)]
    exact enterStopped_pState ..

/-- The stops of the owners, one after another. -/
def State.crcStops (code : Nat) (l : Loc) (detail : Nat) (v : State) (k : Nat) : State := if v.stoppable k then v.fault k code l .i detail else v

theorem crcStops_one (v : State) (k code : Nat) (l : Loc) (detail : Nat) : State.OneStopped k v (State.crcStops code l detail v k) := by
  unfold State.crcStops
  split
  · exact fault_one ‹_› ..
  · exact ⟨fun _ _ => rfl, fun _ _ => rfl, rfl⟩

theorem crcStops_flight (code : Nat) (l : Loc) (detail : Nat) (owners : List Nat) (v : State) :
    (owners.foldl (State.crcStops code l detail) v).flight = v.flight :=
  foldl_keeps (obs := State.flight) (fun u x _ => (crcStops_one u x ..).flight) v

theorem crcStops_halts (code : Nat) (l : Loc) (detail : Nat) {owners : List Nat} (nd : owners.Nodup) {v : State} (hm : k ∈ owners)
    (hs : v.stoppable k = true) : (owners.foldl (State.crcStops code l detail) v).halting k := by
  induction owners generalizing v with
  | nil => exact absurd hm List.not_mem_nil
  | cons x r ih =>
    obtain ⟨hx, hr⟩ := List.nodup_cons.1 nd
    have one := crcStops_one v x code l detail
    by_cases e : k = x
    · subst e
      have rest : ∀ {a : Arr}, (∀ (u : State), ∀ y ∈ r, (State.crcStops code l detail u y).rd a k = u.rd a k) →
          (r.foldl (State.crcStops code l detail) (State.crcStops code l detail v k)).rd a k = (State.crcStops code l detail v k).rd a k :=
        fun {a} h => foldl_keeps (obs := fun u => u.rd a k) h _
      have first : (State.crcStops code l detail v k).halting k := by
        rw [State.crcStops, if_pos hs]
        exact fault_halting hs ..
      have ne {y : Nat} (hy : y ∈ r) : k ≠ y := fun e => hx (e ▸ hy)
      exact first.imp (fun f => (rest fun u y hy => (crcStops_one u y ..).state k (ne hy)).trans f)
        (fun f => (rest fun u y hy => (crcStops_one u y ..).imm k (ne hy)).trans f)
    · refine ih hr ((List.mem_cons.1 hm).resolve_left e) ?_
      rw [State.stoppable, one.state k e]
      exact hs

theorem landWire_arrived {die m step : Nat} {b : FlightBit} : (if s.arrives die m step b then landWire b else b) =
    (match b.node with
    | .wire _ _ p =>
      if s.arrives die m step b then
        if p < 256 then { b with node := .dieIn die (4096 + 256 * m + p) }
        else { b with node := .source die (1024 + 256 * m + (p - 256)), due := b.due + 11 }
      else b
    | _ => b) := by
  obtain ⟨slot, par, node, due, val, taken⟩ := b
  cases node with
  | wire d x p =>
    dsimp only
    split
    next h =>
      obtain ⟨rfl, rfl, -⟩ := of_decide_eq_true h
      rfl
    next => rfl
  | _ => exact if_neg Bool.false_ne_true

end transfer

/-- Settles O19: an enabled entry hands its bit to the stage that the mortar's timing names. -/
theorem mortarCarries : Obligations.MortarCarries := by
  refine ⟨?_, ?_, ?_⟩
  · intro s b lane k t bed l e step n sent h hb hd
    refine ⟨fun he hs hok => ?_, fun he hs hok => ?_, fun he => ⟨?_, ?_⟩⟩
    · refine (live_next h.clocked fun s => s.lanePerform (bedIx b) lane false fun k t e s => s.runSend k (bedIx b) lane t e).trans (congrArg _ ?_)
      rw [lanePerform_runs h hb ⟨he, hs⟩]
      exact runSend_marked hd hok
    · refine (live_next h.clocked fun s => s.lanePerform (bedIx b) lane true fun k t e s => s.runRelay k (bedIx b) lane t e).trans (congrArg _ ?_)
      rw [lanePerform_runs h hb ⟨he, hs⟩]
      exact runRelay_marked hd hok
    · exact (live_next h.clocked fun s => s.lanePerform (bedIx b) lane false fun k t e s => s.runSend k (bedIx b) lane t e).trans
        (congrArg _ (lanePerform_idle h hb fun on => Bool.false_ne_true (he.symm.trans on.1)))
    · exact (live_next h.clocked fun s => s.lanePerform (bedIx b) lane true fun k t e s => s.runRelay k (bedIx b) lane t e).trans
        (congrArg _ (lanePerform_idle h hb fun on => Bool.false_ne_true (he.symm.trans on.1)))
  · intro s step k b hc
    refine ⟨?_, ?_⟩
    · intro sw out kind lane e u hw hl hr hb
      refine ⟨fun he hbit => ?_, fun h => ?_⟩
      · exact (live_next hc fun s => s.switchStep sw out step).trans (congrArg _ (switchStep_carries rfl rfl hw hl hr hb he hbit))
      · exact (live_next hc fun s => s.switchStep sw out step).trans (congrArg _ (switchStep_idle rfl rfl hw hl hr hb h))
    · intro die module pos m lane e hl hr hb
      refine ⟨fun he hbit => ?_, fun h => ?_⟩
      · exact (live_next hc fun s => s.moduleStep die module pos step).trans
          (congrArg _ (moduleStep_carries rfl rfl module.isLt pos.isLt hl hr hb he hbit))
      · exact (live_next hc fun s => s.moduleStep die module pos step).trans
          (congrArg _ (moduleStep_idle rfl rfl module.isLt pos.isLt hl hr hb h))
  · intro s die module step m owners hc
    have lost : exec (.moduleTransferReceive die module step false) s = .next (owners.foldl
        (State.crcStops 0x23 (Loc.ofDie die) (m + 2 ^ 2 * step.val)) { s with flight := s.flight.filter fun b => ¬ s.arrives die m step b }) :=
      live_next hc fun s => s.moduleReceive die module step false
    refine ⟨(live_next hc fun s => s.moduleReceive die module step true).trans (congrArg _ ?_), lost, fun k hk hs => ⟨_, lost, fun b hb => ?_, ?_⟩⟩
    · refine congrArg (fun l => { s with flight := l }) (List.map_congr_left fun b _ => ?_)
      exact landWire_arrived
    · rw [crcStops_flight] at hb
      exact Bool.eq_false_iff.2 (of_decide_eq_true (List.mem_filter.1 hb).2)
    · exact crcStops_halts _ _ _ ((List.nodup_range).filter _) hk hs

end Sys2Proof.Machine

/-! CERTIFICATE. Link frames and landings of the mortar (chapter 05, R116, R127 to R131, R304, R306). -/

namespace Sys2Proof.Machine

open Reg

/-! ### A frame of a partition's step -/

/-- `g` changes of a bit in flight at most its takers, and none of the lanes of `rest`. -/
def KeepsBits (rest : List Nat) (g : FlightBit → FlightBit) : Prop := ∀ x, (g x).slot = x.slot ∧ (g x).node = x.node ∧ (g x).due = x.due ∧
  (g x).val = x.val ∧ ∀ l ∈ rest, (linkTaker l ∈ (g x).taken ↔ linkTaker l ∈ x.taken)

/-- The state with the bits in flight changed one by one. -/
def State.tookBits (s : State) (g : FlightBit → FlightBit) : State := { s with flight := s.flight.map g }

/-- The bit that the send entry of a position selects. -/
def State.sentBit (s : State) (k die step l : Nat) : Option FlightBit :=
  if mEn 5 (s.rd (A.mTab 5) (512 * l + step)) then s.bitFor k (.source die (slice (s.rd (A.mTab 5) (512 * l + step)) 0 11)) step else none

section frames
variable {s : State} {k die step : Nat} {rest : List Nat} {g : FlightBit → FlightBit}

theorem tookBits_rd (s : State) (g : FlightBit → FlightBit) (a : Arr) (i : Nat) : (s.tookBits g).rd a i = s.rd a i := rfl

theorem tookBits_bad (s : State) (g : FlightBit → FlightBit) (kind lane step : Nat) :
    (s.tookBits g).mortarBad kind lane step = s.mortarBad kind lane step := rfl

theorem bitFor_took (hg : KeepsBits rest g) (n : Node) (due : Nat) : (s.tookBits g).bitFor k n due = (s.bitFor k n due).map g := by
  unfold State.bitFor State.tookBits
  dsimp only
  rw [List.find?_map]
  congr 2
  funext x
  obtain ⟨h1, h2, h3, -, -⟩ := hg x
  simp only [Function.comp_apply, h1, h2, h3]

theorem keepsBits_id : KeepsBits rest id := fun _ => ⟨rfl, rfl, rfl, rfl, fun _ _ => .rfl⟩

/-- One more position takes the bit `b`. -/
def takeBit (b : FlightBit) (l : Nat) (x : FlightBit) : FlightBit := if x = b then { b with taken := b.taken ++ [linkTaker l] } else x

theorem keepsBits_take {l : Nat} (hl : l ∉ rest) (hg : KeepsBits (l :: rest) g) (b : FlightBit) : KeepsBits rest (takeBit b l ∘ g) := by
  intro x
  obtain ⟨h1, h2, h3, h4, h5⟩ := hg x
  have rests : ∀ y ∈ rest, (linkTaker y ∈ (g x).taken ↔ linkTaker y ∈ x.taken) := fun y hy => h5 y (List.mem_cons_of_mem _ hy)
  rw [Function.comp_apply, takeBit]
  split
  next e =>
    rw [e] at h1 h2 h3 h4 rests
    refine ⟨h1, h2, h3, h4, fun y hy => ?_⟩
    have ne : linkTaker y ≠ linkTaker l := fun e => hl (Nat.add_left_cancel e ▸ hy)
    rw [List.mem_append, List.mem_singleton, or_iff_left ne]
    exact rests y hy
  next => exact ⟨h1, h2, h3, h4, rests⟩

/-- A position that has a bit which it has not taken. -/
def State.hasNew (s : State) (k die step l : Nat) : Bool := (s.sentBit k die step l).any fun b => decide (linkTaker l ∉ b.taken)

/-- The bit of a position in the payload. -/
def State.sentVal (s : State) (k die step l : Nat) : Bool := ((s.sentBit k die step l).map (·.val)).getD false

theorem takeLane_took {l : Nat} (hl : l ∉ rest) (hg : KeepsBits (l :: rest) g) (hb : s.mortarBad 5 l step = false) (pay : List Bool) (took : Bool) :
    ∃ g', KeepsBits rest g' ∧ State.takeLane k die step (pay, took, s.tookBits g) l =
      (pay ++ [s.sentVal k die step l], took || s.hasNew k die step l, s.tookBits g') := by
  have fewer : KeepsBits rest g := fun x => let ⟨h1, h2, h3, h4, h5⟩ := hg x; ⟨h1, h2, h3, h4, fun y hy => h5 y (List.mem_cons_of_mem _ hy)⟩
  unfold State.takeLane State.sentVal State.hasNew State.sentBit
  dsimp only
  rw [tookBits_rd, tookBits_bad, hb, bitFor_took hg]
  by_cases he : mEn 5 (s.rd (A.mTab 5) (512 * l + step)) = true
  · rw [if_neg (by simp [he]), if_pos he]
    cases hf : s.bitFor k (.source die (slice (s.rd (A.mTab 5) (512 * l + step)) 0 11)) step with
    | none => exact ⟨g, fewer, by simp⟩
    | some b =>
      obtain ⟨-, -, -, val, taken⟩ := hg b
      have same := taken l List.mem_cons_self
      by_cases ht : linkTaker l ∈ b.taken
      · refine ⟨g, fewer, ?_⟩
        simp [same.2 ht, ht, val]
      · refine ⟨takeBit (g b) l ∘ g, keepsBits_take hl hg _, ?_⟩
        simp [mt same.1 ht, ht, val, State.tookBits, takeBit]
  · rw [if_pos (.inl he), if_neg he]
    exact ⟨g, fewer, by simp⟩

theorem takeLanes_took {lanes : List Nat} (nd : lanes.Nodup) (hb : ∀ l ∈ lanes, s.mortarBad 5 l step = false) (hg : KeepsBits lanes g)
    (pay : List Bool) (took : Bool) : ∃ g', lanes.foldl (State.takeLane k die step) (pay, took, s.tookBits g) =
      (pay ++ lanes.map (s.sentVal k die step), took || lanes.any (s.hasNew k die step), s.tookBits g') := by
  induction lanes generalizing g pay took with
  | nil => exact ⟨g, by simp⟩
  | cons l r ih =>
    obtain ⟨hl, hr⟩ := List.nodup_cons.1 nd
    obtain ⟨g1, hg1, he⟩ := takeLane_took (k := k) (die := die) hl hg (hb l List.mem_cons_self) pay took
    obtain ⟨g2, h2⟩ := ih hr (fun y hy => hb y (List.mem_cons_of_mem _ hy)) hg1 (pay ++ [s.sentVal k die step l]) (took || s.hasNew k die step l)
    refine ⟨g2, ?_⟩
    rw [List.foldl_cons, he, h2, List.append_assoc, Bool.or_assoc]
    rfl

theorem portLanes_nodup (s : State) (kind port pid : Nat) : (s.portLanes kind port pid).Nodup :=
  (List.nodup_range.map fun _ _ e => Nat.add_left_cancel e).filter _

/-- A frame goes behind those of lower partition IDs. -/
theorem frameInsert_last {f : FrameOut} {l : List FrameOut}
    (h : ∀ x ∈ l, x.port = f.port → x.fresh = true → slice x.hdr 12 8 ≤ slice f.hdr 12 8) : frameInsert f l = l ++ [f] := by
  induction l with
  | nil => rfl
  | cons x r ih =>
    have first := h x List.mem_cons_self
    rw [frameInsert, if_neg fun ⟨hp, hf, hlt⟩ => absurd (first hp hf) (Nat.not_le.2 hlt), ih fun y hy => h y (List.mem_cons_of_mem _ hy)]
    rfl

theorem frameHdr_pid {pid par step : Nat} (h1 : par < 2) (h2 : step < 512) : slice (frameHdr pid par step) 12 8 = slice pid 0 8 := by
  unfold slice frameHdr
  omega

/-- The frame of a step. -/
def State.stepFrame (s : State) (port k step : Nat) : FrameOut :=
  ⟨port, frameHdr (s.rd A.pPid k) (s.rd A.pCycle k % 2) step, (s.portLanes 5 port (s.rd A.pPid k)).map (s.sentVal k (port / 2) step), true⟩

/-- What a port's send entries leave. -/
def State.linkSent (s : State) (port k step : Nat) (g : FlightBit → FlightBit) (frame : Bool) : State :=
  let t := (s.tookBits g).wr A.linkDone (512 * (32 * port + k) + step) 1
  if frame then { t with frameOut := frameInsert (s.stepFrame port k step) t.frameOut } else t

variable {port : Nat}

/-- The frame is due, or a position has a bit that it has not taken. -/
def State.frameDue (s : State) (port k step : Nat) : Prop := s.rd A.pState k = 2 ∧ s.on A.linkDone (512 * (32 * port + k) + step) = false

theorem linkSend_dead (h : s.liveLinks k = false) : s.linkSend port k step = s := if_pos (.inr (.inr (by rw [h]; decide)))

theorem linkSend_idle (hl : s.loaded k = true) (hr : s.stageRuns k step = true) (hv : s.liveLinks k = true)
    (hs : s.stoppable k = true) (hb : ∀ l ∈ s.portLanes 5 port (s.rd A.pPid k), s.mortarBad 5 l step = false) (hd : ¬ s.frameDue port k step)
    (hm : (s.portLanes 5 port (s.rd A.pPid k)).any (s.hasNew k (port / 2) step) = false) : s.linkSend port k step = s := by
  have idle : s.rd A.pState k = 3 ∨ s.on A.linkDone (512 * (32 * port + k) + step) = true := by
    rcases stoppable_iff.1 hs with h2 | h3
    · exact .inr (Bool.eq_true_of_not_eq_false fun h => hd ⟨h2, h⟩)
    · exact .inl h3
  obtain ⟨g, hg⟩ := takeLanes_took (k := k) (die := port / 2) (portLanes_nodup ..) hb keepsBits_id [] false
  have start : s.tookBits id = s := by rw [State.tookBits, List.map_id]
  rw [start] at hg
  rw [State.linkSend]
  dsimp only
  rw [if_neg (by simp [hl, hr, hv]), hg]
  dsimp only
  rw [hm, if_pos ⟨decide_eq_true idle, by decide⟩]

theorem linkSend_sends (hl : s.loaded k = true) (hr : s.stageRuns k step = true) (hv : s.liveLinks k = true)
    (hb : ∀ l ∈ s.portLanes 5 port (s.rd A.pPid k), s.mortarBad 5 l step = false)
    (hd : s.frameDue port k step ∨ (s.portLanes 5 port (s.rd A.pPid k)).any (s.hasNew k (port / 2) step) = true) (hu : s.portUp port = true) :
    ∃ g, s.linkSend port k step = s.linkSent port k step g
      ((s.portLanes 5 port (s.rd A.pPid k)).any fun l => mEn 5 (s.rd (A.mTab 5) (512 * l + step))) := by
  obtain ⟨g, hg⟩ := takeLanes_took (k := k) (die := port / 2) (portLanes_nodup ..) hb keepsBits_id [] false
  have start : s.tookBits id = s := by rw [State.tookBits, List.map_id]
  rw [start] at hg
  have sound : ((s.portLanes 5 port (s.rd A.pPid k)).filter fun l => s.mortarBad 5 l step) = [] :=
    List.filter_eq_nil_iff.2 fun l hl => ne_true_of_eq_false (hb l hl)
  have listens : ((s.portLanes 5 port (s.rd A.pPid k)).any fun l => decide (mEn 5 (s.rd (A.mTab 5) (512 * l + step)) = true ∧ ¬ s.mortarBad 5 l step = true)) =
      (s.portLanes 5 port (s.rd A.pPid k)).any fun l => mEn 5 (s.rd (A.mTab 5) (512 * l + step)) := by
    rw [Bool.eq_iff_iff, List.any_eq_true, List.any_eq_true]
    exact exists_congr fun l => and_congr_right fun hl => by simp [hb l hl]
  refine ⟨g, ?_⟩
  rw [State.linkSend]
  dsimp only
  rw [if_neg (by simp [hl, hr, hv]), hg]
  dsimp only
  have goes : ¬ (decide (s.rd A.pState k = 3 ∨ s.on A.linkDone (512 * (32 * port + k) + step) = true) = true ∧
      ¬ (false || (s.portLanes 5 port (s.rd A.pPid k)).any (s.hasNew k (port / 2) step)) = true) := by
    rintro ⟨idle, none⟩
    rcases hd with ⟨h2, hn⟩ | hm
    · rcases of_decide_eq_true idle with h3 | hdone
      · omega
      · exact Bool.false_ne_true (hn.symm.trans hdone)
    · exact none hm
  rw [if_neg goes, listens, sound, hu, List.foldl_nil, ite_self, State.linkSent]
  cases (s.portLanes 5 port (s.rd A.pPid k)).any fun l => mEn 5 (s.rd (A.mTab 5) (512 * l + step)) <;> rfl

theorem linkSent_done (s : State) (port k step : Nat) (g : FlightBit → FlightBit) (frame : Bool) :
    (s.linkSent port k step g frame).on A.linkDone (512 * (32 * port + k) + step) = true ∧ (s.linkSent port k step g frame).mem = s.mem ∧
    s.Only [A.linkDone.code] (s.linkSent port k step g frame) := by
  have wrote : s.Only [A.linkDone.code] ((s.tookBits g).wr A.linkDone (512 * (32 * port + k) + step) 1) :=
    ((State.Only.refl [A.linkDone.code] s).update (by rfl)).wr _ _ rfl
  have done : ((s.tookBits g).wr A.linkDone (512 * (32 * port + k) + step) 1).on A.linkDone (512 * (32 * port + k) + step) = true := by
    rw [State.on, State.rd_wr_same]
    rfl
  cases frame
  · exact ⟨done, rfl, wrote⟩
  · exact ⟨done, rfl, wrote.update (by rfl)⟩

end frames

/-! ### A frame from a link (R128 to R131) -/

section receive
variable {s : State} {port k par step lane : Nat} {v : Bool} {hdr : Nat} {payload : List Bool}

theorem frameIn_drop (hh : slice hdr 20 4 = 0xA) (h : ∀ k, s.slotOfPid (slice hdr 12 8) = some k → s.stoppable k = false ∨
      s.portLanes 6 port (slice hdr 12 8) = [] ∨ (s.portLanes 6 port (slice hdr 12 8)).length ≠ payload.length) :
    s.frameIn port hdr payload = s.cnt (D (port / 2)) MORTAR_DISCARD_COUNT_FRAME_DROP 1 := by
  rw [State.frameIn]
  dsimp only
  rw [if_neg (not_not.2 hh)]
  cases hk : s.slotOfPid (slice hdr 12 8) with
  | none => rfl
  | some k => exact if_pos ((h k hk).imp_left (by simp [·]))

section slot
variable (hh : slice hdr 20 4 = 0xA) (hk : s.slotOfPid (slice hdr 12 8) = some k) (hs : s.stoppable k = true)
  (hl : s.portLanes 6 port (slice hdr 12 8) ≠ []) (hn : (s.portLanes 6 port (slice hdr 12 8)).length = payload.length)
include hh hk hs hl hn

theorem frameIn_ignored (h : s.liveLinks k = false ∨ s.rd A.pDepth k ≤ slice hdr 2 9) : s.frameIn port hdr payload = s := by
  rw [State.frameIn]
  dsimp only
  rw [if_neg (not_not.2 hh), hk]
  dsimp only
  rw [if_neg (by simp [hs, hl, hn]), if_pos (h.imp_left (by simp [·]))]

theorem frameIn_lands (hv : s.liveLinks k = true) (hd : slice hdr 2 9 < s.rd A.pDepth k) {r : List (Nat × Nat × Nat × Bool) × State}
    (hr : ((s.portLanes 6 port (slice hdr 12 8)).zip payload).foldl (State.frameBit port k (slice hdr 11 1) (slice hdr 2 9)) ([], s) = r) :
    s.frameIn port hdr payload = if r.1 = [] then r.2 else r.2.logInput k (port / 2) 0x8 ((port + 2 ^ 4 * slice hdr 2 9) :: frameWords (slice hdr 11 1) r.1) := by
  rw [State.frameIn]
  dsimp only
  rw [if_neg (not_not.2 hh), hk]
  dsimp only
  rw [if_neg (by simp [hs, hl, hn]), if_neg (by simp [hv, hd]), hr]

end slot

/-! One bit of a frame. -/

section bit
variable {e : Nat} (hent : e = s.rd (A.mTab 6) (512 * lane + step)) (hb : s.mortarBad 6 lane step = false)
include hent hb

theorem frameBit_off (he : e.testBit 31 = false) (hd : s.debug = false) : State.frameBit port k par step ([], s) (lane, v) = ([], s) := by
  rw [State.frameBit]
  dsimp only
  rw [hb, if_neg Bool.false_ne_true, ← hent, mEn, if_pos rfl, he, if_pos Bool.false_ne_true, hd, if_pos Bool.false_ne_true]

variable (he : e.testBit 31 = true)
include he

theorem frameBit_on : State.frameBit port k par step ([], s) (lane, v) =
    if s.rd A.pDepth k ≤ slice e 0 9 then ([], s)
    else if slice e 28 3 = port / 2 then
      (if (s.linkLand (recvBed e) par (slice e 12 4) (slice e 0 9) v).1 then [(recvBed e, slice e 12 4, slice e 0 9, v)] else [],
        (s.linkLand (recvBed e) par (slice e 12 4) (slice e 0 9) v).2)
    else ([], { s with flight := s.flight ++ [⟨k, par, .linkIn (recvBed e) (slice e 12 4) (slice e 0 9) port step, 9, v, []⟩] }) := by
  rw [State.frameBit]
  dsimp only
  rw [hb, if_neg Bool.false_ne_true, ← hent, mEn, if_pos rfl, if_neg (not_not.2 he)]
  rfl

end bit

theorem recvBed_eq (e : Nat) : recvBed e = 4096 * slice e 28 3 + 256 * slice e 24 4 + 16 * slice e 20 4 + slice e 16 4 := by
  unfold recvBed recvWall
  omega

end receive

/-! ### Landings -/

section landings
variable {s : State} {bed bank lane step : Nat}

theorem refreshLate_flight (s : State) (k : Nat) : (s.refreshLate k).flight = s.flight := by
  have eq : s.refreshLate k = if (s.lateLeft k).replaying k then (s.lateLeft k).recSettle k else s.lateLeft k := rfl
  have left : (s.lateLeft k).flight = s.flight := flight_of_core (lateLeft_calm ..).core
  have settle (u : State) : (u.recSettle k).flight = u.flight := by
    unfold State.recSettle State.releaseSvc State.releaseHeld
    have drop : (u.dropCause k 3).flight = u.flight := flight_of_core (dropCause_calm ..).core
    split
    · rfl
    split
    · split <;> exact drop
    · exact drop
  rw [eq]
  split
  · exact (settle _).trans left
  · exact left

/-- A row with a lane's bit written. -/
theorem row_patched (r : Nat) (hr : r < 2 ^ 16) (hl : lane < 16) (v : Bool) :
    ((r &&& (0xFFFF ^^^ 2 ^ lane)) ||| (2 ^ lane * bit v &&& 2 ^ lane)) % 2 ^ 16 = patch r lane 1 (bit v) := by
  have bits : 2 ^ lane * bit v &&& 2 ^ lane = 2 ^ lane * bit v := by cases v <;> simp [bit]
  refine Nat.eq_of_testBit_eq fun j => ?_
  rw [bits, Nat.testBit_mod_two_pow, Nat.testBit_or, Nat.testBit_and, Nat.testBit_xor, show 0xFFFF = 2 ^ 16 - 1 from rfl, Nat.testBit_two_pow_sub_one]
  by_cases e : j = lane
  · subst e
    rw [testBit_patch_same, Nat.testBit_two_pow_self, decide_eq_true hl]
    cases v <;> simp [bit]
  · have none : (2 ^ lane * bit v).testBit j = false := by
      cases v
      · exact Nat.zero_testBit j
      · exact (congrArg (Nat.testBit · j) (Nat.mul_one _)).trans (Nat.testBit_two_pow_of_ne (Ne.symm e))
    rw [testBit_patch_ne _ _ e, none, Nat.testBit_two_pow_of_ne (Ne.symm e), Bool.or_false, Bool.xor_false]
    by_cases h : j < 16
    · simp [h]
    · rw [decide_eq_false h, Bool.false_and, Nat.testBit_lt_two_pow (Nat.lt_of_lt_of_le hr (Nat.pow_le_pow_right (by decide) (Nat.not_lt.1 h)))]

/-- A row and its flag after a landing. -/
structure Landed (s t : State) (key lane : Nat) (v : Bool) : Prop where
  row : t.rd A.land key = patch (s.rd A.land key) lane 1 (bit v)
  flag : t.rd A.landP key = s.rd A.landP key ||| 2 ^ lane
  beside : ∀ i, i ≠ key → t.rd A.land i = s.rd A.land i ∧ t.rd A.landP i = s.rd A.landP i
  flight : t.flight = s.flight
  reg : ∀ r, t.reg r = s.reg r
  mute : ∀ i, t.rd A.recMute i = s.rd A.recMute i

theorem landBit_landed (s : State) (bed bank step : Nat) (hl : lane < 16) (v : Bool) : Landed s (s.landBit bed bank lane step v) (landKey bed bank step) lane v := by
  generalize hkey : landKey bed bank step = key
  generalize hw : (s.wrLand key (2 ^ lane) (2 ^ lane * bit v)).wr A.landP key ((s.wrLand key (2 ^ lane) (2 ^ lane * bit v)).rd A.landP key ||| 2 ^ lane) = w
  have wrote : s.Only [A.land.code, A.landErr.code, A.landP.code] w :=
    hw ▸ ((((State.Only.refl _ s).wr _ _ rfl).wr _ _ rfl).wr _ _ rfl)
  have flight : w.flight = s.flight := hw ▸ rfl
  have refreshed : w.Only plumbCodes (s.landBit bed bank lane step v) ∧ (s.landBit bed bank lane step v).flight = w.flight := by
    have eq : s.landBit bed bank lane step v = match w.slotOfBed bed with
      | some k => w.refreshLate k
      | none => w := by rw [← hw, ← hkey]; rfl
    rw [eq]
    split
    · exact ⟨(refreshLate_settled ..).only, refreshLate_flight ..⟩
    · exact ⟨.refl .., rfl⟩
  obtain ⟨only, kept⟩ := refreshed
  have flagBefore (i : Nat) : (s.wrLand key (2 ^ lane) (2 ^ lane * bit v)).rd A.landP i = s.rd A.landP i := by
    rw [State.wrLand, State.rd_wr_arr _ _ _ _ _ _ (by decide), State.rd_wr_arr _ _ _ _ _ _ (by decide)]
  refine ⟨?_, ?_, fun i hi => ⟨?_, ?_⟩, kept.trans flight, fun r => (only.rd A.reg r rfl).trans (wrote.rd A.reg r rfl),
    fun i => (only.rd A.recMute i rfl).trans (wrote.rd A.recMute i rfl)⟩
  · rw [only.rd A.land _ rfl, ← hw, State.rd_wr_arr _ _ _ _ _ _ (by decide), State.wrLand, State.rd_wr_arr _ _ _ _ _ _ (by decide), State.rd_wr_same]
    exact row_patched _ (State.rd_lt ..) hl v
  · rw [only.rd A.landP _ rfl, ← hw, State.rd_wr_same, flagBefore]
    exact Nat.mod_eq_of_lt (Nat.or_lt_two_pow (State.rd_lt ..) (Nat.pow_lt_pow_right (by decide) hl))
  · rw [only.rd A.land _ rfl, ← hw, State.rd_wr_arr _ _ _ _ _ _ (by decide), State.wrLand, State.rd_wr_arr _ _ _ _ _ _ (by decide),
      State.rd_wr_ix _ _ _ _ _ (Ne.symm hi)]
  · rw [only.rd A.landP _ rfl, ← hw, State.rd_wr_ix _ _ _ _ _ (Ne.symm hi), flagBefore]

theorem Landed.recording {t : State} {key : Nat} {v : Bool} (h : Landed s t key lane v) (k : Nat) : t.recording k = s.recording k := by
  have field (b : Nat) (f : Fld) : t.rf b f = s.rf b f := by rw [State.rf, h.reg, State.rf]
  have state : t.recState k = s.recState k := field ..
  have replay : t.replaying k = s.replaying k := by rw [State.replaying, field, State.replaying]
  rw [State.recording, state, replay, h.mute, State.recording]

theorem linkLand_discards {lane : Nat} {v : Bool} (h : s.marked 10 (16 * landKey bed bank step + lane) = true) :
    s.linkLand bed bank lane step v = (false, s.cnt (D (bed / 4096)) MORTAR_DISCARD_COUNT_LAND_CONFLICT 1) := if_pos h

theorem linkLand_lands {lane : Nat} {v : Bool} (h : s.marked 10 (16 * landKey bed bank step + lane) = false) :
    s.linkLand bed bank lane step v = (true, (s.landBit bed bank lane step v).mark 11 (16 * landKey bed bank step + lane)) :=
  if_neg (ne_true_of_eq_false h)

/-- An internal landing (R39, R47, R129, R131). -/
theorem landingWrite_internal {x : FlightBit} (hd : s.landingDue bed lane step = some x) (hx : x.node = .bedIn bed lane step)
    (hs : step < s.rd A.pDepth x.slot) : s.landingWrite bed lane step =
      ((if s.marked 11 (16 * landKey bed x.par step + lane) then
          State.cnt { s with flight := s.flight.erase x } (D (bed / 4096)) MORTAR_DISCARD_COUNT_LAND_CONFLICT 1
        else { s with flight := s.flight.erase x }).landBit bed x.par lane step x.val).mark 10 (16 * landKey bed x.par step + lane) := by
  rw [State.landingWrite, hd]
  dsimp only
  rw [State.landFlight, hx]
  dsimp only
  exact if_neg (Nat.not_le.2 hs)

/-- A link landing (R129, R131). -/
theorem landingWrite_link {x : FlightBit} {port frame : Nat} (hd : s.landingDue bed lane step = some x) (hx : x.node = .linkIn bed lane step port frame) :
    s.landingWrite bed lane step = if s.marked 10 (16 * landKey bed x.par step + lane) then
        State.cnt { s with flight := s.flight.erase x } (D (bed / 4096)) MORTAR_DISCARD_COUNT_LAND_CONFLICT 1
      else ((State.landBit { s with flight := s.flight.erase x } bed x.par lane step x.val).mark 11 (16 * landKey bed x.par step + lane)).logInput x.slot
        (bed / 4096) 0x8 ((port + 2 ^ 4 * frame) :: frameWords x.par [(bed, lane, step, x.val)]) := by
  rw [State.landingWrite, hd]
  dsimp only
  rw [State.landFlight, hx]
  dsimp only
  by_cases hm : s.marked 10 (16 * landKey bed x.par step + lane) = true
  · have discards := linkLand_discards (s := { s with flight := s.flight.erase x }) (v := x.val) hm
    rw [if_pos hm, discards]
    rfl
  · have lands := linkLand_lands (s := { s with flight := s.flight.erase x }) (v := x.val) (Bool.eq_false_iff.2 hm)
    rw [if_neg hm, lands]
    rfl

theorem mark_recording (s : State) (a b k : Nat) : (s.mark a b).recording k = s.recording k := rfl

theorem logInput_silent {u : State} {k : Nat} (h : u.recording k = false) (die typ : Nat) (body : List Nat) : u.logInput k die typ body = u :=
  if_neg (ne_true_of_eq_false h)

end landings

/-- Settles O20: a port frames the bits of a step; a frame's bits and the internal landings reach the landing stores. -/
theorem mortarFramesAndLandings : Obligations.MortarFramesAndLandings := by
  refine ⟨?_, ?_, ?_⟩
  · intro s port slot step k pid lanes e en sent more key due same hc hs hr hb
    have sends := live_next (s := s) hc fun s => s.linkSend port slot step
    have loaded : s.loaded slot = true := (stoppable_iff.1 hs).elim (loaded_of · (by decide)) (loaded_of · (by decide))
    refine ⟨fun h => sends.trans (congrArg _ ?_), fun hv h hu => ?_⟩
    · rcases hv : s.liveLinks slot with _ | _
      · exact linkSend_dead hv
      · obtain ⟨hd, hm⟩ := h.resolve_left (by rw [hv]; decide)
        exact linkSend_idle loaded hr hv hs hb hd hm
    · obtain ⟨g, hg⟩ := linkSend_sends loaded hr hv hb h hu
      obtain ⟨done, mem, only⟩ := linkSent_done s port slot step g (lanes.any en)
      have marked : same (s.linkSent port slot step g (lanes.any en)) := ⟨done, mem, fun a ha hn i => only.rd a i (by
        have apart : a.code ≠ 73 := hn
        rw [Nat.mod_eq_of_lt ha]
        simp [apart])⟩
      refine ⟨fun hen hf => ⟨_, sends.trans (congrArg _ hg), marked, ?_⟩, fun hen => ⟨_, sends.trans (congrArg _ hg), marked, ?_⟩⟩
      · rw [hen]
        have pid8 : slice (s.stepFrame port slot step).hdr 12 8 = slice pid 0 8 := frameHdr_pid (Nat.mod_lt _ (by decide)) step.isLt
        refine (frameInsert_last fun f hm hp hfr => ?_).trans ?_
        · rw [pid8]
          exact hf f hm hp hfr
        · refine congrArg (s.frameOut ++ [·]) ?_
          have hdr : frameHdr pid (s.rd A.pCycle k % 2) step = 0xA * 2 ^ 20 + pid * 2 ^ 12 + s.rd A.pCycle k % 2 * 2 ^ 11 + step * 2 ^ 2 := by
            unfold frameHdr
            omega
          exact congrArg (fun h => (⟨port, h, lanes.map (s.sentVal slot (port / 2) step), true⟩ : FrameOut)) hdr
      · rw [hen]
        rfl
  · intro s port hdr payload pid par step lanes drop hc
    have receives := live_next (s := s) hc fun s => if slice hdr.toNat 20 4 ≠ 0xA ∨ 256 < payload.length then s.streamError port
      else s.frameIn port hdr.toNat payload
    refine ⟨fun h => receives.trans (congrArg _ (if_pos h)), fun hh hp => ?_⟩
    have takes : exec (.mortarFrame port hdr payload) s = .next (s.frameIn port hdr.toNat payload) :=
      receives.trans (congrArg _ (if_neg (by rintro (h | h) <;> omega)))
    refine ⟨fun h => takes.trans (congrArg _ (frameIn_drop hh fun k hk => ?_)), fun k hk => ⟨fun hs => ?_, fun hs hl hn h => ?_, ?_, ?_⟩⟩
    · exact .inr (h.resolve_left (by rw [hk]; exact Option.some_ne_none k))
    · refine takes.trans (congrArg _ (frameIn_drop hh fun k' hk' => .inl ?_))
      rw [← Option.some.inj (hk.symm.trans hk')]
      exact hs
    · exact takes.trans (congrArg _ (frameIn_ignored hh hk hs hl hn h))
    · intro hs hl hn hv hd r
      have lands := frameIn_lands hh hk hs hl hn hv hd (r := r) rfl
      refine ⟨fun h => takes.trans (congrArg _ (lands.trans ?_)), fun h => takes.trans (congrArg _ (lands.trans (if_neg h)))⟩
      split
      · rfl
      · exact logInput_silent (h.resolve_left ‹_›) ..
    · intro lane v e bed j place hb
      have on := @frameBit_on s port k par step lane v e rfl hb
      rw [recvBed_eq] at on
      refine ⟨fun he hd => frameBit_off rfl hb he hd, fun he hd => (on he).trans (if_pos hd), fun he hd hx hm => ?_, fun he hd hx hm => ?_, fun he hd hx => ?_⟩
      · refine (on he).trans ((if_neg (Nat.not_le.2 hd)).trans ((if_pos hx).trans ?_))
        rw [linkLand_lands hm]
        rfl
      · refine (on he).trans ((if_neg (Nat.not_le.2 hd)).trans ((if_pos hx).trans ?_))
        rw [linkLand_discards hm]
        rfl
      · exact (on he).trans ((if_neg (Nat.not_le.2 hd)).trans (if_neg hx))
  · intro s b lane step x bed key place hc
    have writes := live_next (s := s) hc fun s => s.landingWrite (bedIx b) lane step
    refine ⟨fun h => writes.trans (congrArg _ ?_), fun h => ⟨fun hx hd => ⟨_, writes.trans (congrArg _ (landingWrite_internal h hx hd)), ?_⟩,
      fun port frame hx hr => ⟨fun hm => writes.trans (congrArg _ ((landingWrite_link h hx).trans (if_pos hm))),
        fun hm => ?_⟩⟩⟩
    · rw [State.landingWrite, h]
    · generalize hw : (if s.marked 11 (16 * landKey (bedIx b) x.par step + lane) then
          State.cnt { s with flight := s.flight.erase x } (D (bedIx b / 4096)) MORTAR_DISCARD_COUNT_LAND_CONFLICT 1
        else { s with flight := s.flight.erase x }) = w
      have only : s.Only [0] w := hw ▸ State.Only.ite (((State.Only.refl [0] s).update (by rfl)).cnt _ _ _ rfl) ((State.Only.refl ..).update (by rfl))
      have flight : w.flight = s.flight.erase x := by rw [← hw]; split <;> rfl
      have landed := landBit_landed w (bedIx b) x.par step lane.isLt x.val
      refine ⟨?_, ?_, landed.flight.trans flight, fun i hi => ⟨?_, ?_⟩, fun hm => ?_⟩
      · exact landed.row.trans (by rw [only.rd A.land _ rfl])
      · exact landed.flag.trans (by rw [only.rd A.landP _ rfl])
      · exact (landed.beside i hi).1.trans (only.rd A.land _ rfl)
      · exact (landed.beside i hi).2.trans (only.rd A.landP _ rfl)
      · refine (congrArg (slice · 16 16) (landed.reg _)).trans ?_
        rw [← hw, if_pos hm]
        refine (State.rf_wf_same _ _ _ _ (by decide)).trans (Nat.mod_eq_of_lt ?_)
        exact Nat.lt_of_le_of_lt (Nat.min_le_left ..) (by decide)
    · have link := landingWrite_link h hx
      rw [if_neg (ne_true_of_eq_false hm)] at link
      generalize hu : { s with flight := s.flight.erase x } = u at link
      have base (a : Arr) (i : Nat) : u.rd a i = s.rd a i := hu ▸ rfl
      have silent : u.recording x.slot = false := by rw [← hu]; exact hr
      have flight : u.flight = s.flight.erase x := by rw [← hu]
      have landed := landBit_landed u (bedIx b) x.par step lane.isLt x.val
      have lands := link.trans (logInput_silent ((mark_recording ..).trans ((landed.recording x.slot).trans silent)) ..)
      refine ⟨_, writes.trans (congrArg _ lands), ?_, ?_, landed.flight.trans flight⟩
      · exact landed.row.trans (by rw [base])
      · exact landed.flag.trans (by rw [base])

end Sys2Proof.Machine

/-! SUPPORT. What the loss of a port, of a member and of a stream of images leaves alone (chapters 06, 13 and 14, R157, R319, R347). -/

namespace Sys2Proof.Machine

open Reg

/-! ### The frame -/

/-- Arrays of the links, of the levels and of sleep, which nothing that a lost port stops writes. -/
def linkCodes : List Nat := [138, 139, 140, 319, 320, 321, 322, 323, 324, 325, 326, 327, 328, 329, 330, 331, 332,
  311, 312, 313, 315, 316, 317, 318, 346, 357, 151]

/-- The event status registers. -/
def statusReg (r : Nat) : Bool := decide (0x1100 ≤ r ∧ r < 0x11C0)

/-- Registers that such a loss may write: events, partitions, queues, dispatchers, trigger units, and the enumeration and
boot state of the device. -/
def looseReg (r : Nat) : Bool :=
  decide ((0x1000 ≤ r ∧ r < 0x800000) ∨ (0x800000 ≤ r ∧ 0x40700 ≤ r % 0x800000 ∧ r % 0x800000 < 0x44000)) || [0x900, 0x908, 0x90C, 0x910, 0xA00].contains r

/-- `t` after such a loss in `s`: the links, the levels and sleep, HBM and what has been received are as before; events have
only been raised, hold causes only gone, and what was held is held or next. -/
structure State.LinkStill (s t : State) : Prop where
  arrays : ∀ (a : Arr) (i : Nat), linkCodes.contains (a.code % 512) = true → t.rd a i = s.rd a i
  regs : ∀ r, looseReg r = false → t.reg r = s.reg r
  events : ∀ j < 1536, s.up j = true → t.up j = true
  causes : ∀ c ∈ t.causes, c ∈ s.causes
  fields : (t.mem, t.rxBlocks, t.rxFrames, t.saveArea, t.aonSave) = (s.mem, s.rxBlocks, s.rxFrames, s.saveArea, s.aonSave)
  queue : t.held.map (·.cmd) ++ t.pending = s.held.map (·.cmd) ++ s.pending

section frame
variable {s t u : State}

theorem State.LinkStill.refl (s : State) : s.LinkStill s := ⟨fun _ _ _ => rfl, fun _ _ => rfl, fun _ _ h => h, fun _ h => h, rfl, rfl⟩

theorem State.LinkStill.trans (h : s.LinkStill t) (h' : t.LinkStill u) : s.LinkStill u :=
  ⟨fun a i ha => (h'.arrays a i ha).trans (h.arrays a i ha), fun r hr => (h'.regs r hr).trans (h.regs r hr),
    fun j hj hs => h'.events j hj (h.events j hj hs), fun c hc => h.causes c (h'.causes c hc), h'.fields.trans h.fields, h'.queue.trans h.queue⟩

theorem State.LinkStill.wr (h : s.LinkStill t) {a : Arr} (ha : linkCodes.contains (a.code % 512) = false) (h0 : ¬ a.code % 512 = 0) (i v : Nat) :
    s.LinkStill (t.wr a i v) := by
  refine h.trans ⟨fun b j hb => State.rd_wr_arr _ _ _ _ _ _ fun e => ?_, fun r _ => State.reg_wr _ _ _ _ _ h0, fun j _ hs => ?_, fun _ h => h, rfl, rfl⟩
  · rw [e] at ha
    exact Bool.false_ne_true (ha.symm.trans hb)
  · rwa [State.up, State.reg_wr _ _ _ _ _ h0]

theorem loose_of {r : Nat} (h : (0x1000 ≤ r ∧ r < 0x800000) ∨ (0x800000 ≤ r ∧ 0x40700 ≤ r % 0x800000 ∧ r % 0x800000 < 0x44000)) :
    looseReg r = true := by
  rw [looseReg, decide_eq_true h, Bool.true_or]

theorem status_of {j : Nat} (h : j < 1536) : statusReg (oEVT_STATUS + 4 * (j / 32)) = true := decide_eq_true (by
  simp only [oEVT_STATUS]
  omega)

theorem State.LinkStill.reg (h : s.LinkStill t) {r : Nat} (hr : looseReg r = true) (hs : statusReg r = false) (v : Nat) :
    s.LinkStill (t.wr A.reg r v) := by
  refine h.trans ⟨fun b j hb => State.rd_wr_arr _ _ _ _ _ _ fun e => ?_, fun o ho => State.rd_wr_ix _ _ _ _ _ fun e => ?_, fun j hj up => ?_, fun _ h => h, rfl, rfl⟩
  · rw [← e] at hb
    exact absurd hb (by decide)
  · rw [e] at hr
    exact Bool.false_ne_true (ho.symm.trans hr)
  · have ne : r ≠ oEVT_STATUS + 4 * (j / 32) := fun e => Bool.false_ne_true (hs.symm.trans (e ▸ status_of hj))
    have kept : (t.wr A.reg r v).reg (oEVT_STATUS + 4 * (j / 32)) = t.reg (oEVT_STATUS + 4 * (j / 32)) := State.rd_wr_ix _ _ _ _ _ ne
    rwa [State.up, kept]

/-- A field of a low register. -/
theorem State.LinkStill.low (h : s.LinkStill t) (f : Fld) (v : Nat) (hr : [0x900, 0x908, 0x90C, 0x910, 0xA00].contains f.off = true) :
    s.LinkStill (t.wf 0 f v) := by
  have loose : looseReg (0 + f.off) = true := by
    rw [Nat.zero_add, looseReg, hr, Bool.or_true]
  have plain : statusReg (0 + f.off) = false := by
    rw [Nat.zero_add]
    refine decide_eq_false fun e => ?_
    have cases := List.contains_iff_mem.1 hr
    simp only [List.mem_cons, List.not_mem_nil, or_false] at cases
    omega
  exact h.reg loose plain _

theorem loose_part {k x : Nat} (hk : k < 32) (hx : x < 0x1000) : looseReg (P k + x) = true ∧ statusReg (P k + x) = false := by
  simp only [P, Off.part]
  exact ⟨loose_of (by omega), decide_eq_false (by omega)⟩

theorem loose_die (d : Nat) {x : Nat} (h : 0x40700 ≤ x ∧ x < 0x44000) : looseReg (D d + x) = true ∧ statusReg (D d + x) = false := by
  simp only [D, Off.die]
  exact ⟨loose_of (by omega), decide_eq_false (by omega)⟩

theorem loose_queue (q : Nat) {x : Nat} (hx : x < 0x40) : looseReg (Q q + x) = true ∧ statusReg (Q q + x) = false := by
  simp only [Q, Off.queue, Off.die]
  exact ⟨loose_of (by omega), decide_eq_false (by omega)⟩

theorem State.LinkStill.part (h : s.LinkStill t) {k x : Nat} (hk : k < 32) (hx : x < 0x1000) (v : Nat) : s.LinkStill (t.wr A.reg (P k + x) v) :=
  h.reg (loose_part hk hx).1 (loose_part hk hx).2 v

theorem State.LinkStill.die (h : s.LinkStill t) (d : Nat) {x : Nat} (hx : 0x40700 ≤ x ∧ x < 0x44000) (v : Nat) : s.LinkStill (t.wr A.reg (D d + x) v) :=
  h.reg (loose_die d hx).1 (loose_die d hx).2 v

theorem State.LinkStill.qreg (h : s.LinkStill t) (q : Nat) {x : Nat} (hx : x < 0x40) (v : Nat) : s.LinkStill (t.wr A.reg (Q q + x) v) :=
  h.reg (loose_queue q hx).1 (loose_queue q hx).2 v

/-- A change of anything else. -/
theorem State.LinkStill.update (h : s.LinkStill t) (e : u.arr = t.arr) (hc : ∀ c ∈ u.causes, c ∈ t.causes)
    (hf : (u.mem, u.rxBlocks, u.rxFrames, u.saveArea, u.aonSave) = (t.mem, t.rxBlocks, t.rxFrames, t.saveArea, t.aonSave))
    (hq : u.held.map (·.cmd) ++ u.pending = t.held.map (·.cmd) ++ t.pending) : s.LinkStill u := by
  have same (a : Arr) (i : Nat) : u.rd a i = t.rd a i := by simp only [State.rd, e]
  exact h.trans ⟨fun a i _ => same a i, fun r _ => same A.reg r, fun j _ hs => (congrArg (Nat.testBit · (j % 32)) (same A.reg _)).trans hs, hc, hf, hq⟩

theorem State.LinkStill.ite {p : Prop} [Decidable p] (ht : s.LinkStill t) (hu : s.LinkStill u) : s.LinkStill (if p then t else u) := by
  split
  · exact ht
  · exact hu

theorem still_foldl {α : Type} {f : State → α → State} {l : List α} (hf : ∀ (u : State), ∀ x ∈ l, u.LinkStill (f u x)) (s : State) :
    s.LinkStill (l.foldl f s) := by
  induction l generalizing s with
  | nil => exact .refl s
  | cons x r ih => exact (hf s x List.mem_cons_self).trans (ih (fun u y hy => hf u y (List.mem_cons_of_mem x hy)) _)

theorem still_each {f : State → Nat → State} {n : Nat} (hf : ∀ (u : State), ∀ x < n, u.LinkStill (f u x)) (s : State) : s.LinkStill (s.each n f) :=
  still_foldl (fun u x hx => hf u x (List.mem_range.1 hx)) s

/-- Other arrays than these, and nothing else. -/
theorem State.Only.still {codes : List Nat} (h : s.Only codes t) (hc : (codes.any fun c => c = 0 ∨ linkCodes.contains c) = false)
    (hca : t.causes = s.causes) (hf : (t.mem, t.rxBlocks, t.rxFrames, t.saveArea, t.aonSave) = (s.mem, s.rxBlocks, s.rxFrames, s.saveArea, s.aonSave))
    (hq : t.held.map (·.cmd) ++ t.pending = s.held.map (·.cmd) ++ s.pending) : s.LinkStill t := by
  have apart (c : Nat) (hm : codes.contains c = true) : ¬ (c = 0 ∨ linkCodes.contains c = true) := fun bad =>
    Bool.false_ne_true (hc.symm.trans (List.any_eq_true.2 ⟨c, List.contains_iff_mem.1 hm, decide_eq_true bad⟩))
  have regs (r : Nat) : t.reg r = s.reg r := h.reads A.reg r fun hm => apart 0 (List.contains_iff_mem.2 hm) (.inl rfl)
  exact ⟨fun a i ha => h.reads a i fun hm => apart _ (List.contains_iff_mem.2 hm) (.inr ha), fun r _ => regs r,
    fun j _ hs => (congrArg (Nat.testBit · (j % 32)) (regs _)).trans hs, fun c hcm => hca ▸ hcm, hf, hq⟩

/-- Symbols and arrays of the plumb. -/
theorem State.Beside.still {codes : List Nat} (h : s.Beside codes t) (hc : (codes.any fun c => c = 0 ∨ linkCodes.contains c) = false) : s.LinkStill t :=
  State.Only.still ⟨h.arrays⟩ hc (by rw [h.rest]) (by rw [h.rest]) (by rw [h.rest])

theorem State.LinkStill.drop (h : s.LinkStill t) {a : Arr} (hc : ([a.code].any fun c => c = 0 ∨ linkCodes.contains c) = false) (p : Nat → Bool) :
    s.LinkStill (t.drop a p) :=
  h.trans (State.Only.still (codes := [a.code]) ((State.Only.refl ..).drop _ _ (by simp)) hc rfl rfl rfl)

theorem setFlag_still (s : State) (t f : Nat) : s.LinkStill (s.setFlag t f) := by
  have flag : s.LinkStill (s.wr A.tFlags t (s.rd A.tFlags t ||| 2 ^ f)) := (State.LinkStill.refl s).wr rfl (by decide) _ _
  exact State.LinkStill.ite (((((flag.wr rfl (by decide) _ _).wr rfl (by decide) _ _).wr rfl (by decide) _ _).wr rfl (by decide) _ _).wr rfl
    (by decide) _ _) flag

theorem routeFlag_still (s : State) (o : Option Nat) (v : Nat) : s.LinkStill (s.routeFlag o v) :=
  (State.LinkStill.refl s).ite ((setFlag_still ..).ite ((State.LinkStill.refl s).die _ (by decide) _))

theorem routeVec_still (s : State) (o : Option Nat) (v : Nat) : s.LinkStill (s.routeVec o v) :=
  (State.LinkStill.refl s).ite (((State.LinkStill.refl s).wr rfl (by decide) _ _).ite ((State.LinkStill.refl s).reg (by decide) (by decide) _))

/-- A source's status bit, before its routes. -/
theorem statusSet_still (s : State) {src : Nat} (h : src < 1536) :
    s.LinkStill (s.wr A.reg (oEVT_STATUS + 4 * (src / 32)) (s.reg (oEVT_STATUS + 4 * (src / 32)) ||| 2 ^ (src % 32))) := by
  have loose : looseReg (oEVT_STATUS + 4 * (src / 32)) = true := loose_of (by simp only [oEVT_STATUS]; omega)
  refine ⟨fun b j hb => State.rd_wr_arr _ _ _ _ _ _ fun e => ?_, fun o ho => State.rd_wr_ix _ _ _ _ _ fun e => ?_, fun j hj up => ?_, fun _ h => h, rfl, rfl⟩
  · rw [← e] at hb
    exact absurd hb (by decide)
  · rw [e] at loose
    exact Bool.false_ne_true (ho.symm.trans loose)
  · by_cases e : oEVT_STATUS + 4 * (src / 32) = oEVT_STATUS + 4 * (j / 32)
    · have same : (s.wr A.reg (oEVT_STATUS + 4 * (src / 32)) (s.reg (oEVT_STATUS + 4 * (src / 32)) ||| 2 ^ (src % 32))).reg (oEVT_STATUS + 4 * (j / 32)) =
          (s.reg (oEVT_STATUS + 4 * (j / 32)) ||| 2 ^ (src % 32)) % 2 ^ 32 := by
        rw [e]
        exact State.rd_wr_same ..
      rw [State.up] at up
      rw [State.up, same, Nat.testBit_mod_two_pow, Nat.testBit_or, up, decide_eq_true (Nat.mod_lt _ (by decide))]
      rfl
    · have kept : (s.wr A.reg (oEVT_STATUS + 4 * (src / 32)) (s.reg (oEVT_STATUS + 4 * (src / 32)) ||| 2 ^ (src % 32))).reg (oEVT_STATUS + 4 * (j / 32)) =
          s.reg (oEVT_STATUS + 4 * (j / 32)) := State.rd_wr_ix _ _ _ _ _ e
      rwa [State.up, kept]

theorem raise_still (s : State) {src : Nat} (h : src < 1536) : s.LinkStill (s.raise src) :=
  (statusSet_still s h).trans ((routeFlag_still ..).trans (routeVec_still ..))

/-! ### Records (R172, R177, R237, R246) -/

theorem State.LinkStill.packets (h : s.LinkStill t) (p : List QPacket) : s.LinkStill { t with packets := p } := h.update rfl (fun _ h => h) rfl rfl

theorem State.LinkStill.stepRecs (h : s.LinkStill t) (l : List StepRec) : s.LinkStill { t with stepRecs := l } := h.update rfl (fun _ h => h) rfl rfl

theorem State.LinkStill.symOut (h : s.LinkStill t) (l : List SymOut) : s.LinkStill { t with symOut := l } := h.update rfl (fun _ h => h) rfl rfl

theorem State.LinkStill.late (h : s.LinkStill t) (l : List LateItem) : s.LinkStill { t with late := l } := h.update rfl (fun _ h => h) rfl rfl

theorem State.LinkStill.stops (h : s.LinkStill t) (l : List PendStop) : s.LinkStill { t with stops := l } := h.update rfl (fun _ h => h) rfl rfl

theorem State.LinkStill.members (h : s.LinkStill t) (l : List Member) : s.LinkStill { t with members := l } := h.update rfl (fun _ h => h) rfl rfl

theorem State.LinkStill.fewerCauses (h : s.LinkStill t) (p : Nat × Nat → Bool) : s.LinkStill { t with causes := t.causes.filter p } :=
  h.update rfl (fun _ hc => (List.mem_filter.1 hc).1) rfl rfl

theorem qMark_still (s : State) (q : Nat) : s.LinkStill (s.qMark q) := (State.LinkStill.refl s).qreg q (by decide) _

theorem qFlushed_still (s : State) (q : Nat) : s.LinkStill (s.qFlushed q) := (((qMark_still s q).packets _).qreg q (by decide) _).ite (.refl s)

theorem qDiscard_still (s : State) (q : Nat) : s.LinkStill (s.qDiscard q) :=
  (((State.LinkStill.refl s).qreg q (by decide) _).packets _).trans (qFlushed_still ..)

theorem qMakeRoom_still (s : State) (q n fuel : Nat) : s.LinkStill (s.qMakeRoom q n fuel) := by
  induction fuel generalizing s with
  | zero => exact .refl s
  | succ fuel ih => exact (State.LinkStill.refl s).ite ((qDiscard_still s q).trans (ih _))

theorem qEmpty_still (s : State) (q : Nat) : s.LinkStill (s.qEmpty q) := ((qMark_still s q).packets _).qreg q (by decide) _

theorem putRecord_still {check : State → State} (hc : ∀ u : State, u.LinkStill (check u)) (s : State) (q : Nat) (pid : Option Nat) (w : List Nat) :
    s.LinkStill (s.putRecord check q pid w) := by
  unfold State.putRecord
  dsimp only
  have room : s.LinkStill (State.qMakeRoom (if s.qTakes q w.length then check s else s) q w.length
      (if s.qTakes q w.length then check s else s).packets.length) := ((hc s).ite (.refl s)).trans (qMakeRoom_still ..)
  exact ((State.LinkStill.refl s).die _ (by decide) _).ite ((room.packets _).ite (room.qreg q (by decide) _))

/-- A push that keeps the links. -/
def PushStill (push : Push) : Prop := ∀ (s : State) (q : Nat) (pid : Option Nat) (w : List Nat), s.LinkStill (push s q pid w)

theorem recEvent_still (s : State) (k src : Nat) : s.LinkStill (s.recEvent k src) := by
  have start : s.LinkStill (if s.rf (P k) REC_CFG_START_SRC = src then s.wr A.recWant k (s.rd A.recWant k ||| 4) else s) :=
    ((State.LinkStill.refl s).wr rfl (by decide) _ _).ite (.refl s)
  exact (start.wr rfl (by decide) _ _).ite start

theorem recordBy_still {push : Push} (hp : PushStill push) (s : State) {k : Nat} (hk : k < 32) (code : Nat) (l : Loc) (cyc step action detail : Nat) :
    s.LinkStill (s.recordBy push k code l cyc step action detail) := by
  have told : s.LinkStill (s.partRecordBy push k code l cyc step action detail) :=
    ((((hp s _ _ _).wr rfl (by decide) _ _).wr rfl (by decide) _ _).part hk (by decide) _).ite ((State.LinkStill.refl s).part hk (by decide) _)
  exact (told.trans (recEvent_still ..)).ite ((told.trans (recEvent_still ..)).ite told)

theorem firstFault_still (s : State) {k : Nat} (hk : k < 32) (code src : Nat) : s.LinkStill (s.firstFault k code src) :=
  (State.LinkStill.refl s).ite ((((State.LinkStill.refl s).part hk (by decide) _).part hk (by decide) _).part hk (by decide) _)

theorem ptrFault_still {push : Push} (hp : PushStill push) (s : State) (q : Nat) : s.LinkStill (s.ptrFault push q) := by
  have empty : s.LinkStill (((s.qEmpty q).wr A.qPtrBad q 0).cnt (Q q) QUEUE_HWM_PTR_FAULTS 1) :=
    ((qEmpty_still s q).wr rfl (by decide) _ _).qreg q (by decide) _
  unfold State.ptrFault
  dsimp only
  split
  next k h =>
    obtain ⟨pid, -, hp'⟩ := Option.bind_eq_some_iff.1 h
    have hk := slotOfPid_lt hp'
    exact ((empty.trans (recordBy_still hp _ hk ..)).trans (firstFault_still _ hk ..)).trans (raise_still _ (by omega))
  next => exact empty.trans (((hp _ _ _ _).wr rfl (by decide) _ _).trans (raise_still _ (by decide)))

theorem pushRecordN_still (n : Nat) : PushStill (State.pushRecordN n) := by
  induction n with
  | zero => exact fun s q pid w => putRecord_still (fun u => .refl u) ..
  | succ n ih => exact fun s q pid w => putRecord_still (fun u => (ptrFault_still ih u q).ite (.refl u)) ..

theorem pushRecord_still : PushStill State.pushRecord := pushRecordN_still 4

theorem record_still (s : State) {k : Nat} (hk : k < 32) (code : Nat) (l : Loc) (cyc step action detail : Nat) :
    s.LinkStill (s.record k code l cyc step action detail) :=
  ((State.LinkStill.refl s).stepRecs _).ite (recordBy_still pushRecord_still s hk ..)

theorem flushRecs_still (s : State) {k : Nat} (hk : k < 32) : s.LinkStill (s.flushRecs k) :=
  ((State.LinkStill.refl s).stepRecs _).trans
    (still_foldl (fun u _ _ => recordBy_still pushRecord_still u hk ..) _)

/-! ### A member or a link of a partition is lost (R126, R156 to R158) -/

theorem sendSym_still (s : State) (p : Nat) (y : Sym) : s.LinkStill (s.sendSym p y) :=
  ((State.LinkStill.refl s).symOut _).ite (.refl s)

theorem sendTree_still (s : State) (e : Option Nat) (y : Sym) : s.LinkStill (s.sendTree e y) := still_foldl (fun u p _ => sendSym_still u p y) s

theorem pullsChanged_still (s : State) (k : Nat) : s.LinkStill (s.pullsChanged k) := (pullsChanged_beside s k).still rfl

theorem dropCause_still (s : State) (k c : Nat) : s.LinkStill (s.dropCause k c) :=
  (((State.LinkStill.refl s).fewerCauses _).trans (pullsChanged_still ..)).ite (.refl s)

theorem dropLate_still (s : State) (k : Nat) : s.LinkStill (s.dropLate k) :=
  (((State.LinkStill.refl s).late _).trans
    (dropCause_still ..)).trans (dropCause_still ..)

theorem freezeAt_still (s : State) (k t : Nat) : s.LinkStill (s.freezeAt k t) := by
  have waits : s.LinkStill ((s.wr A.pStartWait k 0).wr A.pImm k 0) := ((State.LinkStill.refl s).wr rfl (by decide) _ _).wr rfl (by decide) _ _
  exact waits.ite ((waits.wr rfl (by decide) _ _).wr rfl (by decide) _ _)

theorem lnCancel_still (s : State) (k : Nat) : s.LinkStill (s.lnCancel k) :=
  still_foldl (fun u i _ => (((State.LinkStill.refl u).wr rfl (by decide) _ _).wr rfl (by decide) _ _).wr rfl (by decide) _ _) s

theorem told_still (s : State) {k : Nat} (hk : k < 32) (code : Nat) (l : Loc) (cyc step action detail c : Nat) :
    s.LinkStill ((((s.record k code l cyc step action detail).firstFault k code c).raise (0x500 + k)).raise (0x540 + k)) :=
  (((record_still s hk ..).trans (firstFault_still _ hk ..)).trans (raise_still _ (by omega))).trans (raise_still _ (by omega))

theorem severSlot_still (s : State) {k : Nat} (hk : k < 32) (lost reason port : Nat) (relayed : Bool) (detector : Nat) :
    s.LinkStill (s.severSlot k lost reason port relayed detector) := by
  unfold State.severSlot
  split
  · exact .refl s
  · exact ((((((((State.LinkStill.refl s).part hk (by decide) _).trans (told_still _ hk ..)).trans (flushRecs_still _ hk)).stops _).trans
      (freezeAt_still ..)).trans (dropLate_still ..)).wr rfl (by decide) _ _ |>.trans (lnCancel_still ..)).trans (pullsChanged_still ..)

theorem loseMember_still (s : State) {k : Nat} (hk : k < 32) (lost reason port : Nat) (except : Option Nat) :
    s.LinkStill (s.loseMember k lost reason port except) := (sendTree_still ..).trans (severSlot_still _ hk ..)

theorem free_still (s : State) (w : Nat) : s.LinkStill (s.free w).2 := (State.LinkStill.refl s).update rfl (fun _ h => h) rfl rfl

theorem treeLink_still (s : State) (p k : Nat) : s.LinkStill (s.treeLink p k).2 := by
  unfold State.treeLink
  split
  · exact .refl s
  · split
    · exact .refl s
    · exact free_still s 1

theorem loseForeign_still (s : State) (p pid : Nat) (free : Bool) : s.LinkStill (s.loseForeign p pid free) := by
  unfold State.loseForeign
  dsimp only
  exact (State.LinkStill.refl s).ite ((((State.LinkStill.refl s).wr rfl (by decide) _ _).trans ((plumbSync_beside ..).still rfl)).trans (sendTree_still ..))

theorem loseOver_still (s : State) (p : Nat) : s.LinkStill (s.loseOver p) := by
  have slots : s.LinkStill (s.each 32 fun u k =>
      if ¬ u.loaded k then u
      else if (u.treeLink p k).1 then (u.treeLink p k).2.loseMember k (s.rf (PT p) PORT_STATUS_PEER_ADDR) 1 p (some p)
      else if (u.treeLink p k).2.onPort p k then (u.treeLink p k).2.loseMember k (s.rf (PT p) PORT_STATUS_PEER_ADDR) 3 p (some p)
      else (u.treeLink p k).2) := by
    refine still_each (fun u k hk => ?_) s
    have tree := treeLink_still u p k
    exact (State.LinkStill.refl u).ite ((tree.trans (loseMember_still _ hk ..)).ite ((tree.trans (loseMember_still _ hk ..)).ite tree))
  unfold State.loseOver
  dsimp only
  split
  · exact (slots.trans (free_still _ 256)).trans (still_each (fun u _ _ => (State.LinkStill.refl u).ite (loseForeign_still ..)) _)
  · exact slots

theorem capacityFell_still (s : State) (p : Nat) : s.LinkStill (s.capacityFell p) :=
  still_each (fun u _ hk => (loseMember_still u hk ..).ite (.refl u)) s

theorem clearTx_still (s : State) (p : Nat) : s.LinkStill (s.clearTx p) := (State.LinkStill.refl s).update rfl (fun _ h => h) rfl rfl

/-! ### A slot gives up its image (R347) -/

theorem shCancel_still (s : State) (k : Nat) : s.LinkStill (s.shCancel k) := by
  have dropped : s.LinkStill { s with shadow := s.shadow.filter fun w => w.slot ≠ k } := (State.LinkStill.refl s).update rfl (fun _ h => h) rfl rfl
  exact (State.LinkStill.refl s).ite (((dropped.wr rfl (by decide) _ _).wr rfl (by decide) _ _).wr rfl (by decide) _ _)

theorem State.LinkStill.partPair (h : s.LinkStill t) {k x : Nat} (hk : k < 32) (hx : x + 4 < 0x1000) (v : Nat) : s.LinkStill (t.setPair (P k + x) v) :=
  (h.part hk (Nat.lt_of_le_of_lt (Nat.le_add_right ..) hx) _).part hk hx _

theorem sealWords_still (s : State) (ws : List Nat) : s.LinkStill (s.sealWords ws) := by
  have numbered (n : Nat) (l : List (List Nat)) : s.LinkStill { s.wr A.meterSeq 0 n with vault := l } :=
    ((State.LinkStill.refl s).wr rfl (by decide) _ _).update rfl (fun _ h => h) rfl rfl
  exact (numbered _ _).trans (pushRecord_still ..)

theorem epochShort_still (s : State) {k : Nat} (hk : k < 32) : s.LinkStill (s.epochShort k) := by
  have closed (l : List (List Nat)) : s.LinkStill { s with closed := l } := (State.LinkStill.refl s).update rfl (fun _ h => h) rfl rfl
  exact ((((((((closed _).ite (sealWords_still ..)).partPair hk (by decide) _).partPair hk (by decide) _).partPair hk (by decide) _).partPair hk
    (by decide) _)).wr rfl (by decide) _ _).ite (.refl s)

theorem releaseHeld_still (s : State) : s.LinkStill s.releaseHeld := by
  unfold State.releaseHeld
  split
  · exact .refl s
  · exact (State.LinkStill.refl s).update rfl (fun _ h => h) rfl rfl

theorem recSettle_still (s : State) (k : Nat) : s.LinkStill (s.recSettle k) := by
  have gone := dropCause_still s k 3
  exact (State.LinkStill.refl s).ite ((gone.trans (releaseHeld_still _)).ite gone)

theorem recTo_still (s : State) {k : Nat} (hk : k < 32) (st : Nat) : s.LinkStill (s.recTo k st) :=
  (State.LinkStill.refl s).ite (((State.LinkStill.refl s).part hk (by decide) _).trans (raise_still _ (by omega)))

theorem recOff_still (s : State) {k : Nat} (hk : k < 32) : s.LinkStill (s.recOff k) := by
  have log : s.LinkStill { s with recLog := s.recLog.filter fun p => ¬ (p.slot = k ∧ p.waiting) } :=
    (State.LinkStill.refl s).update rfl (fun _ h => h) rfl rfl
  have snaps (u : State) : u.LinkStill (u.snapAbandon k) := by
    have dropped : u.LinkStill { u with snaps := u.snaps.filter fun x => x.slot ≠ k } := (State.LinkStill.refl u).update rfl (fun _ h => h) rfl rfl
    exact (dropped.part hk (by decide) _).part hk (by decide) _
  exact ((((log.trans (snaps _)).trans (recTo_still _ hk 0)).wr rfl (by decide) _ _).wr rfl (by decide) _ _ |>.part hk (by decide) _).trans (recSettle_still ..)

theorem trigReset_still (s : State) (k : Nat) : s.LinkStill (s.trigReset k) := by
  refine still_foldl (fun u x _ => ?_) s
  have loose : looseReg (TU x + TRIG_CTRL_STATE.off) = true ∧ statusReg (TU x + TRIG_CTRL_STATE.off) = false := by
    simp only [TU, Off.trig, Off.die, TRIG_CTRL_STATE]
    exact ⟨loose_of (by omega), decide_eq_false (by omega)⟩
  exact (((((((State.LinkStill.refl u).reg loose.1 loose.2 _).wr rfl (by decide) _ _).wr rfl (by decide) _ _).wr rfl (by decide) _ _)).wr rfl
    (by decide) _ _).wr rfl (by decide) _ _

theorem clearFlight_still (s : State) (k : Nat) : s.LinkStill (s.clearFlight k) :=
  (State.LinkStill.refl s).update rfl (fun _ hc => (List.mem_filter.1 hc).1) rfl rfl

/-- Entry `k` of each array of a list returns to 0. -/
theorem zeroed_still {l : List Arr} (hl : (l.all fun a => !linkCodes.contains (a.code % 512) && decide (a.code % 512 ≠ 0)) = true) (k : Nat) (s : State) :
    s.LinkStill (l.foldl (fun s a => s.wr a k 0) s) := by
  refine still_foldl (fun u a ha => ?_) s
  have ok := List.all_eq_true.1 hl a ha
  rw [Bool.and_eq_true, Bool.not_eq_true'] at ok
  exact (State.LinkStill.refl u).wr ok.1 (of_decide_eq_true ok.2) _ _

theorem clearSlot_still (s : State) (k : Nat) : s.LinkStill (s.clearSlot k) :=
  (((State.LinkStill.refl s).drop (by decide) _).drop (by decide) _).trans (zeroed_still (by decide) k _)

theorem freeSlot_still (s : State) {k : Nat} (hk : k < 32) : s.LinkStill (s.freeSlot k) := by
  have ok : ∀ kind ∈ [3, 4, 5, 6], ([(A.mOwn kind).code].any fun c => c = 0 ∨ linkCodes.contains c) = false := by decide
  have own (u : State) (pid : Nat) : u.LinkStill ([3, 4, 5, 6].foldl (fun s kind => s.drop (A.mOwn kind) fun l => s.rd (A.mOwn kind) l = pid + 2 ^ 8) u) :=
    still_foldl (fun v kind hm => (State.LinkStill.refl v).drop (ok kind hm) _) u
  unfold State.freeSlot
  dsimp only
  refine State.LinkStill.trans (State.LinkStill.members (State.LinkStill.trans (State.LinkStill.drop ?_ (by decide) _) (own _ _)) _) (zeroed_still (by decide) k _)
  exact (((((((shCancel_still s k).trans (epochShort_still _ hk)).trans (lnCancel_still _ k)).trans (recOff_still _ hk)).trans
    (trigReset_still _ k)).trans (clearFlight_still _ k)).trans (clearSlot_still _ k)).wr rfl (by decide) k 0 |>.trans (pullsChanged_still _ k)

theorem abandonStream_still (s : State) : s.LinkStill s.abandonStream := by
  have freed : s.LinkStill (s.each 32 fun s k => if s.on A.fromStream k then s.freeSlot k else s) :=
    still_each (fun u k hk => (freeSlot_still u hk).ite (.refl u)) s
  have ended := (freed.wr (a := A.strmOn) rfl (by decide) 0 0).wr (a := A.strmEnd) rfl (by decide) 0 0
  exact ((ended.low _ _ rfl).ite (((ended.wr rfl (by decide) _ _).low _ _ rfl).ite ((ended.low _ _ rfl).wr rfl (by decide) _ _))).ite (.refl s)

/-! ### The search for addresses begins anew (R323 to R328, R347) -/

theorem sendAll_still (s : State) (ps : List Nat) (y : Nat → Sym) : s.LinkStill (s.sendAll ps y) := still_foldl (fun u p _ => sendSym_still u p (y p)) s

theorem commitAddr_still (s : State) (a : Nat) : s.LinkStill (s.commitAddr a) := by
  have shown := (((((((State.LinkStill.refl s).low CHAIN_STATUS_ADDR a rfl).low CHAIN_STATUS_ADDR_VALID 1 rfl).low CHAIN_STATUS_ESTATE 2 rfl).reg (r := oCHAIN_TREE)
    (by decide) (by decide) 0).wr (a := A.trOpen) rfl (by decide) 0 0).wr (a := A.trClosed) rfl (by decide) 0 0)
  have ok : ∀ a ∈ [A.plumbUp, A.plumbDown, A.plumbSent, A.plumbForce], ([a.code].any fun c => c = 0 ∨ linkCodes.contains c) = false := by decide
  unfold State.commitAddr State.plumbClear
  dsimp only
  exact shown.trans (still_foldl (fun u a hm => (State.LinkStill.refl u).drop (ok a hm) _) _)

theorem kAck_still (s : State) : s.LinkStill s.kAck :=
  ((((((State.LinkStill.refl s).low _ _ rfl).low _ _ rfl).low _ _ rfl).wr rfl (by decide) _ _)).trans (sendAll_still ..)

theorem sendNeighbors_still (s : State) : s.LinkStill s.sendNeighbors := sendAll_still ..

theorem kCommit_still (s : State) (n : Nat) : s.LinkStill (s.kCommit n) := by
  generalize hu : ((s.wr A.enCount 0 n).wf 0 ENUM_STATUS_KSTATE 2).commitAddr 0 = u
  have sent : s.LinkStill (u.sendSym 1 (.commit u.epochNow n)).sendNeighbors := by
    rw [← hu]
    exact (((((State.LinkStill.refl s).wr rfl (by decide) _ _).low _ _ rfl).trans (commitAddr_still ..)).trans (sendSym_still ..)).trans (sendNeighbors_still _)
  unfold State.kCommit
  dsimp only
  rw [hu]
  exact sent.ite (sent.trans (kAck_still _))

theorem kSearch_still (s : State) : s.LinkStill s.kSearch := by
  have begun := ((State.LinkStill.refl s).low ENUM_STATUS_KSTATE 1 rfl).wr (a := A.enAt) rfl (by decide) 0 s.mono
  exact (begun.trans (sendSym_still ..)).ite (begun.trans (kCommit_still ..))

theorem nextEpoch_still (s : State) : s.LinkStill s.nextEpoch := ((State.LinkStill.refl s).low _ _ rfl).wr rfl (by decide) _ _

theorem kStop_still (s : State) (r : Nat) : s.LinkStill (s.kStop r) := ((State.LinkStill.refl s).low _ _ rfl).low _ _ rfl

theorem kStart_still (s : State) : s.LinkStill s.kStart := by
  have begun := (((State.LinkStill.refl s).low ENUM_STATUS_RESTARTS 0 rfl).low ENUM_STATUS_RESULT 0 rfl).trans (nextEpoch_still _)
  exact (begun.trans (kStop_still ..)).ite (begun.trans (kSearch_still _))

theorem disturb_still (s : State) : s.LinkStill s.disturb :=
  (State.LinkStill.refl s).ite (((((State.LinkStill.refl s).low _ _ rfl).trans (nextEpoch_still _)).trans (kSearch_still _)).ite (kStop_still ..))

theorem portChanged_still (s : State) (p : Nat) : s.LinkStill (s.portChanged p) := by
  have told : s.LinkStill (if s.searching then s else (s.orf 0 TOPO_EVENT_CHANGED (2 ^ p)).raise 0x5B8) :=
    (State.LinkStill.refl s).ite (((State.LinkStill.refl s).low _ _ rfl).trans (raise_still _ (by decide)))
  unfold State.portChanged
  dsimp only
  exact ((told.trans (sendSym_still ..)).trans (disturb_still _)).ite (told.trans (sendSym_still ..))

theorem loadRetry_still (s : State) : s.LinkStill s.loadRetry := by
  have gone := abandonStream_still s
  exact ((gone.trans (kStart_still _)).ite gone).ite (.refl s)

theorem portLost_still (s : State) (p : Nat) : s.LinkStill (s.portLost p) := by
  have lost := ((clearTx_still s p).trans (loseOver_still _ p)).trans (portChanged_still _ p)
  exact (lost.trans (loadRetry_still _)).ite lost

end frame

end Sys2Proof.Machine

/-! SUPPORT. What a link port shows after a change of its lanes (chapter 13, R293, R319). -/

namespace Sys2Proof.Machine

open Reg

/-! ### Registers of ports and lanes -/

/-- Fields of one block apart from each other, in registers of 32 bits. -/
def Fld.apart (f g : Fld) : Bool := decide (f.off ≠ g.off ∨ ((g.lo + g.w ≤ f.lo ∨ f.lo + f.w ≤ g.lo) ∧ g.lo + g.w ≤ 32))

theorem rf_wf_other (s : State) (b v : Nat) {f g : Fld} (h : f.apart g = true) : (s.wf b f v).rf b g = s.rf b g := by
  by_cases e : f.off = g.off
  · obtain ne | fits := of_decide_eq_true h
    · exact absurd e ne
    · exact rf_wf_apart s b v ⟨e, fits⟩
  · exact State.rf_wf_reg _ _ _ _ _ _ fun bad => e (Nat.add_left_cancel bad)

theorem rf_cnt_other (s : State) (b n : Nat) {f g : Fld} (h : f.apart g = true) : (s.cnt b f n).rf b g = s.rf b g := rf_wf_other _ _ _ h

theorem port_firm (p : Nat) {x : Nat} (hx : x < 0x400) : looseReg (PT p + x) = false := by
  have low : [0x900, 0x908, 0x90C, 0x910, 0xA00].contains (PT p + x) = false := by
    simp only [PT, Off.port, Off.die, List.contains_eq_mem, List.mem_cons, List.not_mem_nil, or_false, decide_eq_false_iff_not]
    omega
  rw [looseReg, low, Bool.or_false]
  refine decide_eq_false ?_
  simp only [PT, Off.port, Off.die]
  omega

theorem lane_port (p l : Nat) : LN p l = PT p + (0x100 + 0x40 * l) := by
  simp only [LN, Off.lane, PT, Off.port, Off.die]
  omega

theorem lane_firm (p : Nat) {l x : Nat} (hl : l < 4) (hx : x < 0x40) : looseReg (LN p l + x) = false := by
  rw [lane_port, Nat.add_assoc]
  exact port_firm p (by omega)

theorem port_apart {p q : Nat} (h : p ≠ q) {x y : Nat} (hx : x < 0x400) (hy : y < 0x400) : PT p + x ≠ PT q + y := by
  simp only [PT, Off.port, Off.die]
  omega

/-- Registers of a port are none of its lanes. -/
theorem port_lane (p l : Nat) {x : Nat} (y : Nat) (hx : x < 0x100) : PT p + x ≠ LN p l + y := by
  rw [lane_port]
  omega

theorem lane_lane (p : Nat) {l m : Nat} (h : l ≠ m) {x y : Nat} (hx : x < 0x40) (hy : y < 0x40) : LN p l + x ≠ LN p m + y := by
  rw [lane_port, lane_port]
  omega

section fields
variable {f g : Fld}

theorem rf_wf_port_lane (s : State) (p l v : Nat) (hf : f.off < 0x100) : (s.wf (PT p) f v).rf (LN p l) g = s.rf (LN p l) g :=
  State.rf_wf_reg _ _ _ _ _ _ (port_lane p l _ hf)

theorem rf_wf_lane_port (s : State) (p l v : Nat) (hg : g.off < 0x100) : (s.wf (LN p l) f v).rf (PT p) g = s.rf (PT p) g :=
  State.rf_wf_reg _ _ _ _ _ _ (port_lane p l _ hg).symm

theorem rf_wf_lane_lane (s : State) (p v : Nat) {l m : Nat} (h : l ≠ m) (hf : f.off < 0x40) (hg : g.off < 0x40) :
    (s.wf (LN p l) f v).rf (LN p m) g = s.rf (LN p m) g := State.rf_wf_reg _ _ _ _ _ _ (lane_lane p h hf hg)

end fields

theorem lanes_lt {s : State} {p l : Nat} (h : l ∈ s.lanes p) : l < 4 := List.mem_range.1 (List.mem_filter.1 h).1

theorem lanes_of_cfg {s t : State} {p : Nat} (h : t.reg (PT p) = s.reg (PT p)) : t.lanes p = s.lanes p := by
  simp only [State.lanes, State.rf]
  exact congrArg (fun v => (List.range 4).filter (slice v _ _).testBit) h

section still
variable {s t : State} (h : s.LinkStill t)
include h

theorem State.LinkStill.lane (p : Nat) {l : Nat} (hl : l < 4) {f : Fld} (hf : f.off < 0x40) : t.rf (LN p l) f = s.rf (LN p l) f :=
  congrArg (fun v => slice v f.lo f.w) (h.regs _ (lane_firm p hl hf))

theorem State.LinkStill.port (p : Nat) {f : Fld} (hf : f.off < 0x400) : t.rf (PT p) f = s.rf (PT p) f :=
  congrArg (fun v => slice v f.lo f.w) (h.regs _ (port_firm p hf))

theorem State.LinkStill.mem : t.mem = s.mem := congrArg (·.1) h.fields

theorem State.LinkStill.rxBlocks : t.rxBlocks = s.rxBlocks := congrArg (·.2.1) h.fields

theorem State.LinkStill.rxFrames : t.rxFrames = s.rxFrames := congrArg (·.2.2.1) h.fields

theorem State.LinkStill.areas : (t.saveArea, t.aonSave) = (s.saveArea, s.aonSave) := congrArg (·.2.2.2) h.fields

end still

/-! ### ACTIVE, RATE and UP follow the lanes -/

/-- A lane of the port is ACTIVE, QUIET or DORMANT, or relocks. -/
def State.laneUp (s : State) (p : Nat) : Bool :=
  (s.lanes p).any fun l => (lnActive ≤ s.laneSt p l ∧ s.laneSt p l ≤ lnDormant) ∨ s.on A.lnRelock (4 * p + l)

/-- Bits of the ACTIVE lanes of a port. -/
def State.activeBits (s : State) (p : Nat) : Nat := ((s.activeLanes p).map (2 ^ ·)).sum

/-- ACTIVE and RATE as the lanes give them. -/
def State.ratesShown (s : State) (p : Nat) : State :=
  let t := s.wf (PT p) PORT_STATUS_ACTIVE (s.activeBits p)
  match s.activeLanes p with
  | l :: _ => t.wf (PT p) PORT_STATUS_RATE (t.rf (LN p l) LANE_STATUS_RATE)
  | [] => t

/-- What a port of this device shows in `t` once its lanes have changed in `s`; everything else of the links, and of sleep, is as before. -/
structure State.Synced (p : Nat) (s t : State) : Prop where
  active : t.rf (PT p) PORT_STATUS_ACTIVE = s.activeBits p % 16
  up : t.portUp p = s.laneUp p
  seen : t.rd A.ptSeen p = s.rd A.ptSeen p ∨ t.rd A.ptSeen p = s.mono
  fields : ∀ f : Fld, f.off = oPORT_STATUS → 8 ≤ f.lo → f.lo + f.w ≤ 32 → t.rf (PT p) f = s.rf (PT p) f
  regs : ∀ r, looseReg r = false → r ≠ PT p + oPORT_STATUS → t.reg r = s.reg r
  arrays : ∀ (a : Arr) (i : Nat), linkCodes.contains (a.code % 512) = true → a.code % 512 ≠ 319 → t.rd a i = s.rd a i
  events : ∀ j < 1536, s.up j = true → t.up j = true
  causes : ∀ c ∈ t.causes, c ∈ s.causes
  stores : (t.mem, t.saveArea, t.aonSave) = (s.mem, s.saveArea, s.aonSave)
  queue : t.held.map (·.cmd) ++ t.pending = s.held.map (·.cmd) ++ s.pending

/-- Writes of PORT_STATUS below its PEER fields change no event. -/
theorem up_wf_status (s : State) (p : Nat) {f : Fld} (v : Nat) {j : Nat} (hj : j < 1536) (hf : f.off = oPORT_STATUS) :
    (s.wf (PT p) f v).up j = s.up j := by
  have ne : ¬ PT p + f.off = oEVT_STATUS + 4 * (j / 32) := by
    rw [hf]
    simp only [PT, Off.port, Off.die, oPORT_STATUS, oEVT_STATUS]
    omega
  rw [State.up, State.up, State.reg_wf _ _ _ _ _ ne]

section synced
variable {s t u : State} {p : Nat}

/-- `u` is `s` but for the lower fields of a port's status and when the port was heard. -/
structure State.StatusOnly (p : Nat) (s u : State) : Prop where
  seen : u.rd A.ptSeen p = s.rd A.ptSeen p ∨ u.rd A.ptSeen p = s.mono
  fields : ∀ f : Fld, f.off = oPORT_STATUS → 8 ≤ f.lo → f.lo + f.w ≤ 32 → u.rf (PT p) f = s.rf (PT p) f
  regs : ∀ r, r ≠ PT p + oPORT_STATUS → u.reg r = s.reg r
  arrays : ∀ (a : Arr) (i : Nat), a.code % 512 ≠ 0 → a.code % 512 ≠ 319 → u.rd a i = s.rd a i
  rest : (u.causes, u.mem, u.saveArea, u.aonSave, u.held, u.pending) = (s.causes, s.mem, s.saveArea, s.aonSave, s.held, s.pending)

theorem State.StatusOnly.refl : s.StatusOnly p s := ⟨.inl rfl, fun _ _ _ _ => rfl, fun _ _ => rfl, fun _ _ _ _ => rfl, rfl⟩

theorem State.StatusOnly.wf (h : s.StatusOnly p u) {f : Fld} (hf : f.off = oPORT_STATUS) (hw : f.lo + f.w ≤ 8) (v : Nat) :
    s.StatusOnly p (u.wf (PT p) f v) where
  seen := by
    rw [State.rd_wf _ _ _ _ _ _ (by decide)]
    exact h.seen
  fields g ho hl hi := (State.rf_wf_bits _ _ _ _ _ (hf.trans ho.symm) (.inr (hw.trans hl)) hi).trans (h.fields g ho hl hi)
  regs r hr := (State.reg_wf _ _ _ _ _ (by rw [hf]; exact hr.symm)).trans (h.regs r hr)
  arrays a i h0 hs := (State.rd_wf _ _ _ _ _ _ h0).trans (h.arrays a i h0 hs)
  rest := h.rest

theorem State.StatusOnly.mono_ns (h : s.StatusOnly p u) : u.mono = s.mono := by
  have low (o : Nat) (ho : o < 0x1000) : u.reg o = s.reg o := h.regs o (by
    simp only [PT, Off.port, Off.die, oPORT_STATUS]
    omega)
  simp only [State.mono, State.pair, low oMONO_NS_LO (by decide), low (oMONO_NS_LO + 4) (by decide)]

theorem State.StatusOnly.heard (h : s.StatusOnly p u) : s.StatusOnly p (u.heard p) where
  seen := .inr (by
    rw [State.heard, State.rd_wr_same, h.mono_ns]
    exact Nat.mod_eq_of_lt (pair_lt s _))
  fields g ho hl hi := (State.rf_wr _ _ _ _ _ _ (by decide)).trans (h.fields g ho hl hi)
  regs r hr := (State.reg_wr _ _ _ _ _ (by decide)).trans (h.regs r hr)
  arrays a i h0 hs := (State.rd_wr_arr _ _ _ _ _ _ (by exact fun e => hs e.symm)).trans (h.arrays a i h0 hs)
  rest := h.rest

theorem State.StatusOnly.clearRx (h : s.StatusOnly p u) : s.StatusOnly p (u.clearRx p) := ⟨h.seen, h.fields, h.regs, h.arrays, h.rest⟩

theorem ratesShown_status : s.StatusOnly p (s.ratesShown p) := by
  have shown : s.StatusOnly p (s.wf (PT p) PORT_STATUS_ACTIVE (s.activeBits p)) := State.StatusOnly.refl.wf rfl (by decide) _
  unfold State.ratesShown
  dsimp only
  split
  · exact shown.wf rfl (by decide) _
  · exact shown

theorem ratesShown_active : (s.ratesShown p).rf (PT p) PORT_STATUS_ACTIVE = s.activeBits p % 16 := by
  have shown : (s.wf (PT p) PORT_STATUS_ACTIVE (s.activeBits p)).rf (PT p) PORT_STATUS_ACTIVE = s.activeBits p % 16 :=
    State.rf_wf_same _ _ _ _ (by decide)
  unfold State.ratesShown
  dsimp only
  split
  · exact (rf_wf_other _ _ _ (by decide)).trans shown
  · exact shown

theorem ratesShown_up : (s.ratesShown p).portUp p = s.portUp p := by
  have shown : (s.wf (PT p) PORT_STATUS_ACTIVE (s.activeBits p)).rf (PT p) PORT_STATUS_UP = s.rf (PT p) PORT_STATUS_UP := rf_wf_other _ _ _ (by decide)
  refine congrArg (fun v : Nat => decide (v = 1)) ?_
  unfold State.ratesShown
  dsimp only
  split
  · exact (rf_wf_other _ _ _ (by decide)).trans shown
  · exact shown

/-- What follows a change of the status keeps what it shows. -/
theorem State.StatusOnly.synced (h : s.StatusOnly p u) (ha : u.rf (PT p) PORT_STATUS_ACTIVE = s.activeBits p % 16) (hu : u.portUp p = s.laneUp p)
    (ht : u.LinkStill t) : State.Synced p s t := by
  obtain ⟨seen, fields, regs, arrays, rest⟩ := h
  simp only [Prod.mk.injEq] at rest
  obtain ⟨hca, hme, hsa, hao, hhe, hpe⟩ := rest
  have heard : t.rd A.ptSeen p = u.rd A.ptSeen p := ht.arrays _ _ (by decide)
  have same (f : Fld) (hf : f.off = oPORT_STATUS) : t.rf (PT p) f = u.rf (PT p) f := ht.port p (by rw [hf]; decide)
  exact {
    active := (same _ rfl).trans ha
    up := (congrArg (fun v : Nat => decide (v = 1)) (same PORT_STATUS_UP rfl)).trans hu
    seen := by rw [heard]; exact seen
    fields := fun f ho hl hi => (same f ho).trans (fields f ho hl hi)
    regs := fun r hr hne => (ht.regs r hr).trans (regs r hne)
    arrays := fun a i hc hs => (ht.arrays a i hc).trans (arrays a i (fun e => absurd (e ▸ hc) (by decide)) hs)
    events := fun j hj on => ht.events j hj (by
      have ne : oEVT_STATUS + 4 * (j / 32) ≠ PT p + oPORT_STATUS := by
        simp only [PT, Off.port, Off.die, oPORT_STATUS, oEVT_STATUS]
        omega
      rwa [State.up, regs _ ne])
    causes := fun c hc => hca ▸ ht.causes c hc
    stores := by rw [ht.mem, hme, Prod.mk.injEq, ht.areas, hsa, hao]; exact ⟨rfl, rfl⟩
    queue := by rw [ht.queue, hhe, hpe] }

/-- A port shows its lanes, and what follows a change of UP. -/
theorem portSync_eq (s : State) (p : Nat) : s.portSync p =
    if s.laneUp p = (s.ratesShown p).portUp p then (s.ratesShown p).capacityFell p
    else if s.laneUp p then ((((s.ratesShown p).wf (PT p) PORT_STATUS_UP (bit (s.laneUp p))).clearRx p).heard p).portChanged p
    else (((s.ratesShown p).wf (PT p) PORT_STATUS_UP (bit (s.laneUp p))).clearRx p).portLost p := rfl

theorem portSync_same (h : s.laneUp p = s.portUp p) : s.portSync p = (s.ratesShown p).capacityFell p := by
  rw [portSync_eq, ratesShown_up, if_pos h]

theorem portSync_rises (h : s.laneUp p = true) (hp : s.portUp p = false) :
    s.portSync p = ((((s.ratesShown p).wf (PT p) PORT_STATUS_UP (bit true)).clearRx p).heard p).portChanged p := by
  rw [portSync_eq, ratesShown_up, h, hp, if_neg (by decide), if_pos rfl]

theorem portSync_falls (h : s.laneUp p = false) (hp : s.portUp p = true) :
    s.portSync p = (((s.ratesShown p).wf (PT p) PORT_STATUS_UP (bit false)).clearRx p).portLost p := by
  rw [portSync_eq, ratesShown_up, h, hp, if_neg (by decide), if_neg (by decide)]

theorem upShown_active (v : Nat) : ((s.ratesShown p).wf (PT p) PORT_STATUS_UP v).rf (PT p) PORT_STATUS_ACTIVE = s.activeBits p % 16 :=
  (rf_wf_other _ _ _ (by decide)).trans ratesShown_active

theorem upShown_up (b : Bool) : ((s.ratesShown p).wf (PT p) PORT_STATUS_UP (bit b)).portUp p = b := by
  refine (congrArg (fun v : Nat => decide (v = 1)) (State.rf_wf_same _ _ _ _ (by decide))).trans ?_
  cases b <;> rfl

theorem portSync_synced (s : State) (p : Nat) : State.Synced p s (s.portSync p) := by
  have status : s.StatusOnly p (s.ratesShown p) := ratesShown_status
  by_cases e : s.laneUp p = s.portUp p
  · rw [portSync_same e]
    exact status.synced ratesShown_active (ratesShown_up.trans e.symm) (capacityFell_still ..)
  · cases hl : s.laneUp p
    · have hp : s.portUp p = true := by
        cases h : s.portUp p
        · exact absurd (hl.trans h.symm) e
        · rfl
      rw [portSync_falls hl hp]
      exact (status.wf rfl (by decide) _).clearRx.synced (upShown_active _) ((upShown_up false).trans hl.symm) (portLost_still ..)
    · have hp : s.portUp p = false := by
        cases h : s.portUp p
        · rfl
        · exact absurd (hl.trans h.symm) e
      rw [portSync_rises hl hp]
      refine (status.wf rfl (by decide) _).clearRx.heard.synced ?_ ?_ (portChanged_still ..)
      · exact (State.rf_wr _ _ _ _ _ _ (by decide)).trans (upShown_active _)
      · exact (congrArg (fun v : Nat => decide (v = 1)) (State.rf_wr _ _ _ _ _ _ (by decide))).trans ((upShown_up true).trans hl.symm)

theorem State.Synced.lane (h : State.Synced p s t) {l : Nat} (hl : l < 4) {f : Fld} (hf : f.off < 0x40) : t.rf (LN p l) f = s.rf (LN p l) f :=
  congrArg (fun v => slice v f.lo f.w) (h.regs _ (lane_firm p hl hf) (port_lane p l f.off (by decide)).symm)

theorem State.Synced.mem (h : State.Synced p s t) : t.mem = s.mem := congrArg (·.1) h.stores

end synced

end Sys2Proof.Machine

/-! SUPPORT and CERTIFICATE. Lanes of a link port: what their training, and a port that goes down, change (chapter 13, R309 to R319). -/

namespace Sys2Proof.Machine

open Reg

/-! ### The frame of an operation on one lane -/

/-- Arrays that hold something for each lane: at `4 p + l`, and the taps. -/
def laneCodes : List Nat := [138, 323, 324, 325, 326, 327, 328, 329, 330]

/-- `t` is `s` but for the lane `l` of port `p`, the rate that the port shows, what waits to be sent and free values. -/
structure State.LaneOnly (p l : Nat) (s t : State) : Prop where
  regs : ∀ r, r < LN p l ∨ LN p l + 0x40 ≤ r → r ≠ PT p + oPORT_STATUS → t.reg r = s.reg r
  status : ∀ f : Fld, f.off = oPORT_STATUS → PORT_STATUS_RATE.apart f = true → t.rf (PT p) f = s.rf (PT p) f
  arrays : ∀ (a : Arr) (i : Nat), a.code % 512 ≠ 0 → laneCodes.contains (a.code % 512) = false ∨ (a.code < 512 ∧ a.code ≠ 330 ∧ i ≠ 4 * p + l) →
    t.rd a i = s.rd a i
  rest : (t.causes, t.mem, t.saveArea, t.aonSave, t.held, t.pending, t.rxBlocks, t.rxFrames) =
    (s.causes, s.mem, s.saveArea, s.aonSave, s.held, s.pending, s.rxBlocks, s.rxFrames)
  symOut : t.symOut = s.symOut

section lane
variable {s t u : State} {p l : Nat}

theorem State.LaneOnly.refl : s.LaneOnly p l s := ⟨fun _ _ _ => rfl, fun _ _ _ => rfl, fun _ _ _ _ => rfl, rfl, rfl⟩

theorem State.LaneOnly.trans (h : s.LaneOnly p l t) (h' : t.LaneOnly p l u) : s.LaneOnly p l u :=
  ⟨fun r hr hn => (h'.regs r hr hn).trans (h.regs r hr hn), fun f ho ha => (h'.status f ho ha).trans (h.status f ho ha),
    fun a i h0 ha => (h'.arrays a i h0 ha).trans (h.arrays a i h0 ha), h'.rest.trans h.rest, h'.symOut.trans h.symOut⟩

theorem State.LaneOnly.reg (h : s.LaneOnly p l t) {x : Nat} (hx : x < 0x40) (v : Nat) : s.LaneOnly p l (t.wr A.reg (LN p l + x) v) :=
  h.trans ⟨fun _ hr _ => State.rd_wr_ix _ _ _ _ _ (by omega),
    fun f ho _ => congrArg (fun v => slice v f.lo f.w) (State.rd_wr_ix _ _ _ _ _ (port_lane p l x (by rw [ho]; decide)).symm),
    fun _ _ h0 _ => State.rd_wr_arr _ _ _ _ _ _ fun e => h0 e.symm, rfl, rfl⟩

theorem State.LaneOnly.wf (h : s.LaneOnly p l t) (f : Fld) (hf : f.off < 0x40) (v : Nat) : s.LaneOnly p l (t.wf (LN p l) f v) := h.reg hf _

theorem State.LaneOnly.cnt (h : s.LaneOnly p l t) (f : Fld) (hf : f.off < 0x40) (n : Nat) : s.LaneOnly p l (t.cnt (LN p l) f n) := h.reg hf _

theorem State.LaneOnly.rate (h : s.LaneOnly p l t) (v : Nat) : s.LaneOnly p l (t.wf (PT p) PORT_STATUS_RATE v) :=
  h.trans ⟨fun _ _ hn => State.reg_wf _ _ _ _ _ fun e => hn e.symm, fun _ _ ha => rf_wf_other _ _ _ ha,
    fun _ _ h0 _ => State.rd_wf _ _ _ _ _ _ h0, rfl, rfl⟩

theorem State.LaneOnly.wr (h : s.LaneOnly p l t) {a : Arr} (ha : laneCodes.contains a.code = true) (i : Nat) (hi : a.code = 330 ∨ i = 4 * p + l)
    (v : Nat) : s.LaneOnly p l (t.wr a i v) := by
  have small : ∀ c ∈ laneCodes, c < 512 ∧ c ≠ 0 := by decide
  obtain ⟨lt, ne⟩ := small a.code (List.contains_iff_mem.1 ha)
  have h0 : ¬ a.code % 512 = 0 := by omega
  refine h.trans ⟨fun _ _ _ => State.reg_wr _ _ _ _ _ h0, fun _ _ _ => State.rf_wr _ _ _ _ _ _ h0, fun b j _ hb => ?_, rfl, rfl⟩
  refine State.rd_wr_key _ _ _ _ _ _ fun e => ?_
  simp only [Arr.key] at e
  obtain none | ⟨low, tap, other⟩ := hb
  · have code : b.code % 512 = a.code := by omega
    rw [code, ha] at none
    cases none
  · have same : b.code = a.code ∧ i = j := by omega
    exact hi.elim (fun x => tap (same.1.trans x)) fun x => other (same.2 ▸ x)

theorem State.LaneOnly.update (h : s.LaneOnly p l t) (e : u.arr = t.arr)
    (hr : (u.causes, u.mem, u.saveArea, u.aonSave, u.held, u.pending, u.rxBlocks, u.rxFrames) =
      (t.causes, t.mem, t.saveArea, t.aonSave, t.held, t.pending, t.rxBlocks, t.rxFrames)) (hy : u.symOut = t.symOut) : s.LaneOnly p l u := by
  have same (a : Arr) (i : Nat) : u.rd a i = t.rd a i := by simp only [State.rd, e]
  exact h.trans ⟨fun r _ _ => same A.reg r, fun f _ _ => congrArg (fun v => slice v f.lo f.w) (same A.reg _), fun a i _ _ => same a i, hr, hy⟩

theorem State.LaneOnly.free (h : s.LaneOnly p l t) : s.LaneOnly p l { t with freeCtr := t.freeCtr + 1 } := h.update rfl rfl rfl

theorem State.LaneOnly.ite {c : Prop} [Decidable c] (ht : s.LaneOnly p l t) (hu : s.LaneOnly p l u) : s.LaneOnly p l (if c then t else u) := by
  split
  · exact ht
  · exact hu

theorem State.LaneOnly.other (h : s.LaneOnly p l t) {m : Nat} (hm : m ≠ l) {f : Fld} (hf : f.off < 0x40) :
    t.rf (LN p m) f = s.rf (LN p m) f := by
  refine congrArg (fun v => slice v f.lo f.w) (h.regs _ ?_ (port_lane p m f.off (by decide)).symm)
  rw [lane_port, lane_port]
  omega

theorem State.LaneOnly.port (h : s.LaneOnly p l t) {f : Fld} (hf : f.off < 0x100) (ha : PORT_STATUS_RATE.apart f = true) : t.rf (PT p) f = s.rf (PT p) f := by
  by_cases e : f.off = oPORT_STATUS
  · exact h.status f e ha
  · refine congrArg (fun v => slice v f.lo f.w) (h.regs _ (.inl ?_) fun bad => e (Nat.add_left_cancel bad))
    rw [lane_port]
    omega

theorem State.LaneOnly.lanes (h : s.LaneOnly p l t) : t.lanes p = s.lanes p := by
  rw [State.lanes, h.port (by decide) (by decide), State.lanes]

theorem State.LaneOnly.low (h : s.LaneOnly p l t) {r : Nat} (hr : r < 0x800000) : t.reg r = s.reg r := by
  have far : r < PT p := by
    simp only [PT, Off.port, Off.die]
    omega
  exact h.regs r (.inl (by rw [lane_port]; omega)) (by omega)

theorem State.LaneOnly.mono_ns (h : s.LaneOnly p l t) : t.mono = s.mono := by
  simp only [State.mono, State.pair, h.low (show oMONO_NS_LO < 0x800000 by decide), h.low (show oMONO_NS_LO + 4 < 0x800000 by decide)]

/-! ### A lane enters FAILED -/

theorem failLane_only (s : State) (p l : Nat) : s.LaneOnly p l (s.failLane p l) :=
  State.LaneOnly.refl.ite ((((((((State.LaneOnly.refl.wf LANE_STATUS_STATE (by decide) lnFailed).wf LANE_STATUS_HDR_LOCK (by decide) 0).wf
    LANE_STATUS_BLK_LOCK (by decide) 0).wf LANE_STATUS_CAPS_VALID (by decide) 0).wr (a := A.lnRelock) (by decide) _ (.inr rfl) 0).wr
    (a := A.lnNak) (by decide) _ (.inr rfl) 0).wr (a := A.lnFails) (by decide) _ (.inr rfl) 0))

/-- A lane in use fails, and loses its lock. -/
theorem failLane_failed (h1 : 1 ≤ s.laneSt p l) (h4 : s.laneSt p l ≤ 4) :
    (s.failLane p l).laneSt p l = 6 ∧ (s.failLane p l).rf (LN p l) LANE_STATUS_BLK_LOCK = 0 := by
  unfold State.failLane State.laneSt at *
  have used : ¬ (s.rf (LN p l) LANE_STATUS_STATE = lnOff ∨ lnAbsent ≤ s.rf (LN p l) LANE_STATUS_STATE) := by
    simp only [lnOff, lnAbsent]
    omega
  dsimp only
  rw [if_neg used]
  simp only [State.rf_wr _ A.lnRelock _ _ _ _ (by decide), State.rf_wr _ A.lnNak _ _ _ _ (by decide), State.rf_wr _ A.lnFails _ _ _ _ (by decide)]
  constructor
  · rw [rf_wf_other _ _ _ (by decide), rf_wf_other _ _ _ (by decide), rf_wf_other _ _ _ (by decide)]
    exact State.rf_wf_same _ _ _ _ (by decide)
  · rw [rf_wf_other _ _ _ (by decide)]
    exact State.rf_wf_same _ _ _ _ (by decide)

/-- The turn of every lane of a fold is its own. -/
theorem lanes_at {β : Type} {f : State → Nat → State} {ls : List Nat} {m : Nat} (obs : State → β) (only : ∀ (u : State) j, u.LaneOnly p j (f u j))
    (hobs : ∀ {u v : State} {j : Nat}, j ≠ m → u.LaneOnly p j v → obs v = obs u) (hm : m ∈ ls) (hn : ls.Nodup) (s : State) :
    ∃ u, obs u = obs s ∧ obs (ls.foldl f s) = obs (f u m) := foldl_at (fun u j hj => hobs hj (only u j)) hm hn s

theorem lanes_nodup (s : State) (p : Nat) : (s.lanes p).Nodup := List.nodup_range.filter _

end lane

/-- What a fold of operations on lanes of one port changes: nothing beside them. -/
structure State.LanesOnly (p : Nat) (s t : State) : Prop where
  regs : ∀ r, r < PT p + 0x100 ∨ PT p + 0x200 ≤ r → r ≠ PT p + oPORT_STATUS → t.reg r = s.reg r
  status : ∀ f : Fld, f.off = oPORT_STATUS → PORT_STATUS_RATE.apart f = true → t.rf (PT p) f = s.rf (PT p) f
  arrays : ∀ (a : Arr) (i : Nat), a.code % 512 ≠ 0 → laneCodes.contains (a.code % 512) = false → t.rd a i = s.rd a i
  rest : (t.causes, t.mem, t.saveArea, t.aonSave, t.held, t.pending, t.rxBlocks, t.rxFrames) =
    (s.causes, s.mem, s.saveArea, s.aonSave, s.held, s.pending, s.rxBlocks, s.rxFrames)
  symOut : t.symOut = s.symOut

section lanes
variable {s t u : State} {p l : Nat}

theorem State.LanesOnly.refl : s.LanesOnly p s := ⟨fun _ _ _ => rfl, fun _ _ _ => rfl, fun _ _ _ _ => rfl, rfl, rfl⟩

theorem State.LanesOnly.trans (h : s.LanesOnly p t) (h' : t.LanesOnly p u) : s.LanesOnly p u :=
  ⟨fun r hr hn => (h'.regs r hr hn).trans (h.regs r hr hn), fun f ho ha => (h'.status f ho ha).trans (h.status f ho ha),
    fun a i h0 ha => (h'.arrays a i h0 ha).trans (h.arrays a i h0 ha), h'.rest.trans h.rest, h'.symOut.trans h.symOut⟩

theorem State.LaneOnly.all (h : s.LaneOnly p l t) (hl : l < 4) : s.LanesOnly p t :=
  ⟨fun r hr hn => h.regs r (by rw [lane_port]; omega) hn, h.status, fun a i h0 ha => h.arrays a i h0 (.inl ha), h.rest, h.symOut⟩

theorem lanes_foldl {f : State → Nat → State} {ls : List Nat} (hls : ∀ l ∈ ls, l < 4) (only : ∀ (u : State) j, u.LaneOnly p j (f u j)) (s : State) :
    s.LanesOnly p (ls.foldl f s) := by
  induction ls generalizing s with
  | nil => exact .refl
  | cons l r ih => exact ((only s l).all (hls l (.head _))).trans (ih (fun m hm => hls m (.tail _ hm)) _)

theorem State.LanesOnly.port (h : s.LanesOnly p t) {f : Fld} (hf : f.off < 0x100) (ha : PORT_STATUS_RATE.apart f = true) : t.rf (PT p) f = s.rf (PT p) f := by
  by_cases e : f.off = oPORT_STATUS
  · exact h.status f e ha
  · exact congrArg (fun v => slice v f.lo f.w) (h.regs _ (.inl (by omega)) fun bad => e (Nat.add_left_cancel bad))

theorem State.LanesOnly.lanes (h : s.LanesOnly p t) : t.lanes p = s.lanes p := by
  rw [State.lanes, h.port (by decide) (by decide), State.lanes]

end lanes

/-! ### A port goes down (R319) -/

/-- The port's own state is gone; what follows is to come. -/
def State.portCleared (s : State) (p : Nat) : State :=
  let s := s.each 4 fun s l => s.failLane p l
  let s := ((s.wf (PT p) PORT_STATUS_UP 0).wf (PT p) PORT_STATUS_ACTIVE 0).wf (PT p) PORT_STATUS_PSTATE 0
  let s := (((s.wr A.ptReq p 0).wr A.ptSwitch p 0).wr A.ptPs p 0).clearRx p
  ((s.wr A.ptNakBlk p 0).wr A.ptNakCnt p 0).cnt (PT p) PORT_ERR_DOWN 1

section down
variable {s : State} {p : Nat}

theorem rf_clearRx (s : State) (p b : Nat) (f : Fld) : (s.clearRx p).rf b f = s.rf b f := rfl

theorem rd_clearRx (s : State) (p : Nat) (a : Arr) (i : Nat) : (s.clearRx p).rd a i = s.rd a i := rfl

theorem portDown_idle (h : s.portUp p = false) : s.portDown p = s := if_pos (by rw [h]; decide)

theorem portDown_up (h : s.portUp p = true) : s.portDown p = ((s.portCleared p).raise (0x5A0 + p)).portLost p := if_neg (by rw [h]; decide)

/-- After the lanes have failed, before the port's own registers: the writes of a port that goes down in order. -/
theorem portCleared_fields (s : State) (p : Nat) : (s.portCleared p).rf (PT p) PORT_STATUS_UP = 0 ∧ (s.portCleared p).rf (PT p) PORT_STATUS_ACTIVE = 0 ∧
    (s.portCleared p).rf (PT p) PORT_STATUS_PSTATE = 0 ∧
    (s.portCleared p).rf (PT p) PORT_ERR_DOWN = min 255 (s.rf (PT p) PORT_ERR_DOWN + 1) := by
  have fell : s.LanesOnly p (s.each 4 fun s l => s.failLane p l) := lanes_foldl (fun l h => List.mem_range.1 h) (failLane_only · p) s
  unfold State.portCleared
  generalize s.each 4 (fun s l => s.failLane p l) = v at fell ⊢
  dsimp only
  generalize hw : ((v.wf (PT p) PORT_STATUS_UP 0).wf (PT p) PORT_STATUS_ACTIVE 0).wf (PT p) PORT_STATUS_PSTATE 0 = w
  have kept (f : Fld) : (((((w.wr A.ptReq p 0).wr A.ptSwitch p 0).wr A.ptPs p 0).clearRx p).wr A.ptNakBlk p 0 |>.wr A.ptNakCnt p 0).rf (PT p) f =
      w.rf (PT p) f := by
    rw [State.rf_wr _ _ _ _ _ _ (by decide), State.rf_wr _ _ _ _ _ _ (by decide), rf_clearRx, State.rf_wr _ _ _ _ _ _ (by decide), State.rf_wr _ _ _ _ _ _ (by decide), State.rf_wr _ _ _ _ _ _ (by decide)]
  refine ⟨?_, ?_, ?_, ?_⟩
  · rw [rf_cnt_other _ _ _ (by decide), kept, ← hw, rf_wf_other _ _ _ (by decide), rf_wf_other _ _ _ (by decide)]
    exact State.rf_wf_same _ _ _ _ (by decide)
  · rw [rf_cnt_other _ _ _ (by decide), kept, ← hw, rf_wf_other _ _ _ (by decide)]
    exact State.rf_wf_same _ _ _ _ (by decide)
  · rw [rf_cnt_other _ _ _ (by decide), kept, ← hw]
    exact State.rf_wf_same _ _ _ _ (by decide)
  · have before : w.rf (PT p) PORT_ERR_DOWN = s.rf (PT p) PORT_ERR_DOWN := by
      rw [← hw, rf_wf_other _ _ _ (by decide), rf_wf_other _ _ _ (by decide), rf_wf_other _ _ _ (by decide)]
      exact fell.port (by decide) (by decide)
    rw [State.cnt, State.rf_wf_same _ _ _ _ (by decide), kept, before]
    exact Nat.mod_eq_of_lt (Nat.lt_of_le_of_lt (Nat.min_le_left ..) (by decide))

theorem portCleared_lane (s : State) (p : Nat) {l : Nat} (f : Fld) : (s.portCleared p).rf (LN p l) f = (s.each 4 fun s l => s.failLane p l).rf (LN p l) f := by
  unfold State.portCleared
  generalize s.each 4 (fun s l => s.failLane p l) = v
  dsimp only
  rw [State.cnt, rf_wf_port_lane _ _ _ _ (by decide), State.rf_wr _ _ _ _ _ _ (by decide), State.rf_wr _ _ _ _ _ _ (by decide), rf_clearRx,
    State.rf_wr _ _ _ _ _ _ (by decide), State.rf_wr _ _ _ _ _ _ (by decide), State.rf_wr _ _ _ _ _ _ (by decide),
    rf_wf_port_lane _ _ _ _ (by decide), rf_wf_port_lane _ _ _ _ (by decide), rf_wf_port_lane _ _ _ _ (by decide)]

theorem portCleared_failed {l : Nat} (hl : l < 4) (h1 : 1 ≤ s.laneSt p l) (h4 : s.laneSt p l ≤ 4) :
    (s.portCleared p).laneSt p l = 6 ∧ (s.portCleared p).rf (LN p l) LANE_STATUS_BLK_LOCK = 0 := by
  obtain ⟨u, same, at_turn⟩ := lanes_at (fun v : State => (v.laneSt p l, v.rf (LN p l) LANE_STATUS_BLK_LOCK)) (failLane_only · p)
    (fun hj h => Prod.ext (h.other hj.symm (by decide)) (h.other hj.symm (by decide))) (List.mem_range.2 hl) List.nodup_range s
  simp only [Prod.mk.injEq] at same at_turn
  rw [← same.1] at h1 h4
  obtain ⟨failed, unlocked⟩ := failLane_failed h1 h4
  exact ⟨(portCleared_lane s p _).trans (at_turn.1.trans failed), (portCleared_lane s p _).trans (at_turn.2.trans unlocked)⟩

theorem portCleared_requests (s : State) (p : Nat) : (s.portCleared p).rd A.ptReq p = 0 ∧ (s.portCleared p).rd A.ptSwitch p = 0 := by
  unfold State.portCleared
  generalize s.each 4 (fun s l => s.failLane p l) = v
  dsimp only
  constructor
  · rw [State.cnt, State.rd_wf _ _ _ _ _ _ (by decide), State.rd_wr_arr _ _ _ _ _ _ (by decide), State.rd_wr_arr _ _ _ _ _ _ (by decide),
      rd_clearRx, State.rd_wr_arr _ _ _ _ _ _ (by decide), State.rd_wr_arr _ _ _ _ _ _ (by decide)]
    exact State.rd_wr_same ..
  · rw [State.cnt, State.rd_wf _ _ _ _ _ _ (by decide), State.rd_wr_arr _ _ _ _ _ _ (by decide), State.rd_wr_arr _ _ _ _ _ _ (by decide),
      rd_clearRx, State.rd_wr_arr _ _ _ _ _ _ (by decide)]
    exact State.rd_wr_same ..

theorem portCleared_stream (s : State) (p : Nat) : (∀ b ∈ (s.portCleared p).rxBlocks, b.port ≠ p) ∧ ∀ f ∈ (s.portCleared p).rxFrames, f.port ≠ p :=
  ⟨fun _ hb => of_decide_eq_true (List.mem_filter.1 hb).2, fun _ hf => of_decide_eq_true (List.mem_filter.1 hf).2⟩

/-- What a port that goes down leaves (R319). -/
theorem portDown_fell (h : s.portUp p = true) (hp : p < 16) : (s.portCleared p).LinkStill (s.portDown p) := by
  rw [portDown_up h]
  exact (raise_still _ (by omega)).trans (portLost_still ..)

end down

end Sys2Proof.Machine

/-! SUPPORT. Training steps of lanes (chapter 13, R311 to R318). -/

namespace Sys2Proof.Machine

open Reg

section train
variable {s t u : State} {p l : Nat}

/-! ### What a training step changes -/

theorem adapt_only (s : State) (p l : Nat) (step : Bool) : s.LaneOnly p l (s.adapt p l step) := by
  have taps (v : State) : v.LaneOnly p l (v.each 12 fun s t => (s.free 8).2.wr A.lnTap (16 * (4 * p + l) + t) (s.free 8).1) := by
    have fold : ∀ (ts : List Nat) (w : State), w.LaneOnly p l (ts.foldl (fun s t => (s.free 8).2.wr A.lnTap (16 * (4 * p + l) + t) (s.free 8).1) w) := by
      intro ts
      induction ts with
      | nil => exact fun w => State.LaneOnly.refl
      | cons t r ih =>
        intro w
        have one : w.LaneOnly p l ((w.free 8).2.wr A.lnTap (16 * (4 * p + l) + t) (w.free 8).1) :=
          (State.LaneOnly.refl.free).wr (a := A.lnTap) (by decide) _ (.inl rfl) _
        exact one.trans (ih _)
    exact fold _ v
  have ctle : s.LaneOnly p l (if s.rf (LN p l) LANE_RX_CTLE_AUTO = 1 then (s.free 5).2.wf (LN p l) LANE_RX_CTLE (s.free 5).1 else s) :=
    ((State.LaneOnly.refl.free).wf _ (by decide) _).ite .refl
  exact (ctle.trans (taps _)).ite ctle

/-- The rates and the timeout of a step that is no return to an earlier one. -/
def State.rateKept (s : State) (p l : Nat) (back : Bool) : State :=
  if back then s else (s.wr A.lnPrev (4 * p + l) (s.rf (LN p l) LANE_STATUS_RATE)).wf (LN p l) LANE_STATUS_TIMEOUT 0

/-- The lane's registers as a training step sets them. -/
def State.laneBegun (s : State) (p l rate : Nat) : State :=
  let b := LN p l
  let s := (((s.wf b LANE_STATUS_STATE lnTrain).wf b LANE_STATUS_RATE rate).wf b LANE_STATUS_SLIPS 0).wf b LANE_STATUS_HDR_LOCK 0
  ((s.wf b LANE_STATUS_BLK_LOCK 0).wf b LANE_STATUS_CAPS_VALID 0).wr A.reg (b + oLANE_FIR) (firPreset rate)

/-- What the lane receives is open. -/
def State.laneDeaf (s : State) (p l : Nat) : State :=
  let (d, s) := s.free 2
  (s.wf (LN p l) LANE_STATUS_SIG_DET d).wf (LN p l) LANE_STATUS_CDR_LOCK (d / 2)

/-- The time of the step, and no replay or relock. -/
def State.laneTimed (s : State) (x : Nat) : State := (((s.wr A.lnSince x s.mono).wr A.lnRelock x 0).wr A.lnNak x 0).wr A.lnFails x 0

/-- Nothing waits to be sent on the lane. -/
def State.laneUnsent (s : State) (p l : Nat) : State :=
  let s : State := { s with txQueue := s.txQueue.filter fun b => ¬ (b.port = p ∧ b.lane = l)
                            txKept := s.txKept.filter fun b => ¬ (b.port = p ∧ b.lane = l) }
  s.wr A.lnTx (4 * p + l) 0

/-- The rate that the port shows while none of its lanes is ACTIVE. -/
def State.rateShown (s : State) (p rate : Nat) : State :=
  if (s.lanes p).any fun m => s.laneSt p m = lnActive then s else s.wf (PT p) PORT_STATUS_RATE rate

theorem train_eq (s : State) (p l rate : Nat) (back : Bool) :
    s.train p l rate back = (((((((s.rateKept p l back).laneBegun p l rate).laneDeaf p l).laneTimed (4 * p + l)).laneUnsent p l).rateShown p rate).adapt p l true) := rfl

theorem rateKept_only (s : State) (p l : Nat) (back : Bool) : s.LaneOnly p l (s.rateKept p l back) :=
  State.LaneOnly.refl.ite ((State.LaneOnly.refl.wr (a := A.lnPrev) (by decide) _ (.inr rfl) _).wf _ (by decide) _)

theorem laneBegun_only (s : State) (p l rate : Nat) : s.LaneOnly p l (s.laneBegun p l rate) :=
  ((((((State.LaneOnly.refl.wf _ (by decide) _).wf _ (by decide) _).wf _ (by decide) _).wf _ (by decide) _).wf _ (by decide) _).wf _ (by decide) _).reg
    (by decide) _

theorem laneDeaf_only (s : State) (p l : Nat) : s.LaneOnly p l (s.laneDeaf p l) := (State.LaneOnly.refl.free.wf _ (by decide) _).wf _ (by decide) _

theorem laneTimed_only (s : State) (p l : Nat) : s.LaneOnly p l (s.laneTimed (4 * p + l)) :=
  (((State.LaneOnly.refl.wr (a := A.lnSince) (by decide) _ (.inr rfl) s.mono).wr (a := A.lnRelock) (by decide) _ (.inr rfl) 0).wr (a := A.lnNak)
    (by decide) _ (.inr rfl) 0).wr (a := A.lnFails) (by decide) _ (.inr rfl) 0

theorem laneUnsent_only (s : State) (p l : Nat) : s.LaneOnly p l (s.laneUnsent p l) := by
  have unsent (q : List TxBlock) (k : List TxBlock) : s.LaneOnly p l { s with txQueue := q, txKept := k } := State.LaneOnly.refl.update rfl rfl rfl
  exact (unsent _ _).wr (a := A.lnTx) (by decide) _ (.inr rfl) 0

theorem rateShown_only (s : State) (p l rate : Nat) : s.LaneOnly p l (s.rateShown p rate) := State.LaneOnly.refl.ite (State.LaneOnly.refl.rate rate)

theorem train_only (s : State) (p l rate : Nat) (back : Bool) : s.LaneOnly p l (s.train p l rate back) :=
  ((((((rateKept_only ..).trans (laneBegun_only ..)).trans (laneDeaf_only ..)).trans (laneTimed_only ..)).trans (laneUnsent_only ..)).trans
    (rateShown_only ..)).trans (adapt_only ..)

/-! ### The lane's registers after its step has begun -/

theorem rf_free (s : State) (w b : Nat) (f : Fld) : (s.free w).2.rf b f = s.rf b f := rfl

theorem adapt_lane (s : State) (p l : Nat) (step : Bool) {f : Fld} (hf : LANE_RX_CTLE.apart f = true) : (s.adapt p l step).rf (LN p l) f = s.rf (LN p l) f := by
  have ctle : (if s.rf (LN p l) LANE_RX_CTLE_AUTO = 1 then (s.free 5).2.wf (LN p l) LANE_RX_CTLE (s.free 5).1 else s).rf (LN p l) f = s.rf (LN p l) f := by
    split
    · exact (rf_wf_other _ _ _ hf).trans (rf_free s 5 _ _)
    · rfl
  have taps (v : State) : (v.each 12 fun s t => (s.free 8).2.wr A.lnTap (16 * (4 * p + l) + t) (s.free 8).1).rf (LN p l) f = v.rf (LN p l) f :=
    foldl_keeps (obs := fun v => v.rf (LN p l) f) (fun w t _ => (State.rf_wr _ A.lnTap _ _ _ _ (by decide)).trans (rf_free w 8 _ _)) v
  unfold State.adapt
  dsimp only
  generalize (if s.rf (LN p l) LANE_RX_CTLE_AUTO = 1 then (s.free 5).2.wf (LN p l) LANE_RX_CTLE (s.free 5).1 else s) = v at ctle ⊢
  split
  · exact (taps _).trans ctle
  · exact ctle

theorem laneDeaf_lane (s : State) (p l : Nat) {f : Fld} (h1 : LANE_STATUS_SIG_DET.apart f = true) (h2 : LANE_STATUS_CDR_LOCK.apart f = true) :
    (s.laneDeaf p l).rf (LN p l) f = s.rf (LN p l) f := (rf_wf_other _ _ _ h2).trans ((rf_wf_other _ _ _ h1).trans (rf_free s 2 _ _))

theorem laneTimed_rf (s : State) (x b : Nat) (f : Fld) : (s.laneTimed x).rf b f = s.rf b f := by
  unfold State.laneTimed
  rw [State.rf_wr _ _ _ _ _ _ (by decide), State.rf_wr _ _ _ _ _ _ (by decide), State.rf_wr _ _ _ _ _ _ (by decide), State.rf_wr _ _ _ _ _ _ (by decide)]

theorem laneUnsent_rf (s : State) (p l b : Nat) (f : Fld) : (s.laneUnsent p l).rf b f = s.rf b f := State.rf_wr _ A.lnTx _ _ _ _ (by decide)

theorem rateShown_lane (s : State) (p l rate : Nat) (f : Fld) : (s.rateShown p rate).rf (LN p l) f = s.rf (LN p l) f := by
  unfold State.rateShown
  split
  · rfl
  · exact rf_wf_port_lane _ _ _ _ (by decide)

/-- A field of the lane beside what it receives is as the step's beginning sets it. -/
theorem train_lane (s : State) (p l rate : Nat) (back : Bool) {f : Fld} (h1 : LANE_STATUS_SIG_DET.apart f = true)
    (h2 : LANE_STATUS_CDR_LOCK.apart f = true) (h3 : LANE_RX_CTLE.apart f = true) :
    (s.train p l rate back).rf (LN p l) f = ((s.rateKept p l back).laneBegun p l rate).rf (LN p l) f := by
  rw [train_eq, adapt_lane _ _ _ _ h3, rateShown_lane, laneUnsent_rf, laneTimed_rf, laneDeaf_lane _ _ _ h1 h2]

/-- The lane trains at the rate, without a lock, from slip count 0 and with the preset of the rate. -/
theorem laneBegun_reads (s : State) (p l rate : Nat) : (s.laneBegun p l rate).rf (LN p l) LANE_STATUS_STATE = 1 ∧
    (s.laneBegun p l rate).rf (LN p l) LANE_STATUS_RATE = rate % 8 ∧ (s.laneBegun p l rate).rf (LN p l) LANE_STATUS_SLIPS = 0 ∧
    (s.laneBegun p l rate).rf (LN p l) LANE_STATUS_HDR_LOCK = 0 ∧ (s.laneBegun p l rate).rf (LN p l) LANE_STATUS_BLK_LOCK = 0 ∧
    (s.laneBegun p l rate).rf (LN p l) LANE_STATUS_CAPS_VALID = 0 ∧
    (s.laneBegun p l rate).rf (LN p l) LANE_STATUS_TIMEOUT = s.rf (LN p l) LANE_STATUS_TIMEOUT ∧
    (s.laneBegun p l rate).rf (LN p l) LANE_CTRL_RATE = s.rf (LN p l) LANE_CTRL_RATE := by
  have fir (v : State) (x : Nat) (f : Fld) (hf : f.off ≠ oLANE_FIR) : (v.wr A.reg (LN p l + oLANE_FIR) x).rf (LN p l) f = v.rf (LN p l) f :=
    congrArg (fun v => slice v f.lo f.w) (State.rd_wr_ix _ _ _ _ _ fun e => hf (Nat.add_left_cancel e).symm)
  unfold State.laneBegun
  dsimp only
  refine ⟨?_, ?_, ?_, ?_, ?_, ?_, ?_, ?_⟩ <;> rw [fir _ _ _ (by decide)]
  · rw [rf_wf_other _ _ _ (by decide), rf_wf_other _ _ _ (by decide), rf_wf_other _ _ _ (by decide), rf_wf_other _ _ _ (by decide),
      rf_wf_other _ _ _ (by decide)]
    exact State.rf_wf_same _ _ _ _ (by decide)
  · rw [rf_wf_other _ _ _ (by decide), rf_wf_other _ _ _ (by decide), rf_wf_other _ _ _ (by decide), rf_wf_other _ _ _ (by decide)]
    exact State.rf_wf_same _ _ _ _ (by decide)
  · rw [rf_wf_other _ _ _ (by decide), rf_wf_other _ _ _ (by decide), rf_wf_other _ _ _ (by decide)]
    exact State.rf_wf_same _ _ _ _ (by decide)
  · rw [rf_wf_other _ _ _ (by decide), rf_wf_other _ _ _ (by decide)]
    exact State.rf_wf_same _ _ _ _ (by decide)
  · rw [rf_wf_other _ _ _ (by decide)]
    exact State.rf_wf_same _ _ _ _ (by decide)
  · exact State.rf_wf_same _ _ _ _ (by decide)
  · rw [rf_wf_other _ _ _ (by decide), rf_wf_other _ _ _ (by decide), rf_wf_other _ _ _ (by decide), rf_wf_other _ _ _ (by decide),
      rf_wf_other _ _ _ (by decide), rf_wf_other _ _ _ (by decide)]
  · rw [rf_wf_other _ _ _ (by decide), rf_wf_other _ _ _ (by decide), rf_wf_other _ _ _ (by decide), rf_wf_other _ _ _ (by decide),
      rf_wf_other _ _ _ (by decide), rf_wf_other _ _ _ (by decide)]

theorem firPreset_lt (rate : Nat) : firPreset rate < 2 ^ 32 := by
  unfold firPreset
  split <;> decide

theorem laneBegun_fir (s : State) (p l rate : Nat) : (s.laneBegun p l rate).reg (LN p l + oLANE_FIR) = firPreset rate :=
  (State.rd_wr_same ..).trans (Nat.mod_eq_of_lt (firPreset_lt rate))

theorem train_fir (s : State) (p l rate : Nat) (back : Bool) : (s.train p l rate back).reg (LN p l + oLANE_FIR) = firPreset rate := by
  have whole (v : State) : v.reg (LN p l + oLANE_FIR) = v.rf (LN p l) ⟨oLANE_FIR, 0, 32, .rw⟩ := ((slice_at_zero _ _).trans (State.rd_mod v A.reg _)).symm
  rw [whole, train_lane _ _ _ _ _ (by decide) (by decide) (by decide), ← whole, laneBegun_fir]

theorem rateKept_back (s : State) (p l : Nat) : s.rateKept p l true = s := rfl

theorem rateKept_timeout (s : State) (p l : Nat) : (s.rateKept p l false).rf (LN p l) LANE_STATUS_TIMEOUT = 0 := State.rf_wf_same _ _ _ _ (by decide)

theorem rateKept_ctrl (s : State) (p l : Nat) (back : Bool) : (s.rateKept p l back).rf (LN p l) LANE_CTRL_RATE = s.rf (LN p l) LANE_CTRL_RATE := by
  cases back
  · exact (rf_wf_other _ _ _ (by decide)).trans (State.rf_wr _ A.lnPrev _ _ _ _ (by decide))
  · rfl

/-- A lane's part of a step that every lane of a port begins. -/
theorem trains_at {g : State → Nat → Nat} {back : Bool} {m : Nat} (hm : m ∈ s.lanes p)
    (hg : ∀ {u v : State} {j : Nat}, j ≠ m → u.LaneOnly p j v → g v m = g u m) :
    ((s.lanes p).foldl (fun s l => s.train p l (g s l) back) s).rf (LN p m) LANE_STATUS_STATE = 1 ∧
    ((s.lanes p).foldl (fun s l => s.train p l (g s l) back) s).rf (LN p m) LANE_STATUS_RATE = g s m % 8 ∧
    ((s.lanes p).foldl (fun s l => s.train p l (g s l) back) s).rf (LN p m) LANE_STATUS_TIMEOUT =
      if back then s.rf (LN p m) LANE_STATUS_TIMEOUT else 0 := by
  obtain ⟨u, same, atTurn⟩ := lanes_at (fun v : State => (v.rf (LN p m) LANE_STATUS_STATE, v.rf (LN p m) LANE_STATUS_RATE,
      v.rf (LN p m) LANE_STATUS_TIMEOUT, g v m)) (fun (u : State) j => train_only u p j (g u j) back)
    (fun hj h => by simp only [h.other hj.symm (show LANE_STATUS_STATE.off < 0x40 by decide), h.other hj.symm (show LANE_STATUS_RATE.off < 0x40 by decide),
      h.other hj.symm (show LANE_STATUS_TIMEOUT.off < 0x40 by decide), hg hj h]) hm (lanes_nodup s p) s
  simp only [Prod.mk.injEq] at same atTurn
  obtain ⟨-, -, timeout, rate⟩ := same
  obtain ⟨atState, atRate, atTimeout, -⟩ := atTurn
  obtain ⟨begun, begunRate, -, -, -, -, begunTimeout, -⟩ := laneBegun_reads (u.rateKept p m back) p m (g u m)
  refine ⟨atState.trans ?_, atRate.trans ?_, atTimeout.trans ?_⟩
  · rw [train_lane _ _ _ _ _ (by decide) (by decide) (by decide), begun]
  · rw [train_lane _ _ _ _ _ (by decide) (by decide) (by decide), begunRate, rate]
  · rw [train_lane _ _ _ _ _ (by decide) (by decide) (by decide), begunTimeout]
    cases back
    · exact rateKept_timeout u p m
    · exact timeout

end train

end Sys2Proof.Machine

/-! CERTIFICATE. Link ports: training, liveness and ports that go down (chapter 13, R300, R309 to R319). -/

namespace Sys2Proof.Machine

open Reg

section down
variable {s : State} {p : Nat}

/-- What a port that was up shows once it is down (R319). -/
theorem portDown_reads (h : s.portUp p = true) (hp : p < 16) :
    (s.portDown p).rf (PT p) PORT_STATUS_UP = 0 ∧ (s.portDown p).rf (PT p) PORT_STATUS_ACTIVE = 0 ∧ (s.portDown p).rf (PT p) PORT_STATUS_PSTATE = 0 ∧
    (s.portDown p).rf (PT p) PORT_ERR_DOWN = min 255 (s.rf (PT p) PORT_ERR_DOWN + 1) ∧
    (∀ l < 4, 1 ≤ s.laneSt p l → s.laneSt p l ≤ 4 →
      (s.portDown p).laneSt p l = 6 ∧ (s.portDown p).rf (LN p l) LANE_STATUS_BLK_LOCK = 0) ∧
    (s.portDown p).rd A.ptReq p = 0 ∧ (s.portDown p).rd A.ptSwitch p = 0 ∧ (∀ b ∈ (s.portDown p).rxBlocks, b.port ≠ p) ∧
    ∀ f ∈ (s.portDown p).rxFrames, f.port ≠ p := by
  have fell := portDown_fell h hp
  obtain ⟨up, active, pstate, down⟩ := portCleared_fields s p
  obtain ⟨req, switch⟩ := portCleared_requests s p
  obtain ⟨blocks, frames⟩ := portCleared_stream s p
  refine ⟨(fell.port p (by decide)).trans up, (fell.port p (by decide)).trans active, (fell.port p (by decide)).trans pstate,
    (fell.port p (by decide)).trans down, fun l hl h1 h4 => ?_, (fell.arrays _ _ (by decide)).trans req, (fell.arrays _ _ (by decide)).trans switch,
    fun b hb => blocks b (fell.rxBlocks ▸ hb), fun f hf => frames f (fell.rxFrames ▸ hf)⟩
  obtain ⟨failed, unlocked⟩ := portCleared_failed hl h1 h4
  exact ⟨(fell.lane p hl (by decide)).trans failed, (fell.lane p hl (by decide)).trans unlocked⟩

end down

/-! ### What keeps a port up and what takes it down (R300, R319, R321) -/

section liveness
variable {s : State} (hc : s.clocked = true) (port : Fin 16)
include hc

theorem exec_heartbeatInterval_active (h : s.portUp port = true) (ha : s.rf (PT port) PORT_STATUS_PSTATE = 0) :
    exec (.heartbeatInterval port) s = .next { s with symOut := s.symOut ++ [⟨port, none, .heartbeat⟩] } :=
  (live_next hc _).trans (congrArg Host.Outcome.next ((if_pos ha).trans (sendSym_up h _)))

theorem exec_heartbeatInterval_idle (h : s.portUp port = false ∨ ¬ s.rf (PT port) PORT_STATUS_PSTATE = 0) : exec (.heartbeatInterval port) s = .next s := by
  refine (live_next hc _).trans (congrArg Host.Outcome.next ?_)
  by_cases ha : s.rf (PT port) PORT_STATUS_PSTATE = 0
  · exact (if_pos ha).trans (if_neg (by rw [h.resolve_right fun n => n ha]; decide))
  · exact if_neg ha

theorem exec_silenceTimeout : exec (.symbolSilenceTimeout port) s =
    .next (if s.rf (PT port) PORT_STATUS_PSTATE = 0 ∧ s.rd A.ptSeen port + 8000 ≤ s.mono then s.portDown port else s) :=
  live_next hc fun s => if s.rf (PT port) PORT_STATUS_PSTATE = 0 ∧ s.rd A.ptSeen port + 8000 ≤ s.mono then s.portDown port else s

theorem exec_lockLoss (lane : Fin 4) (h : s.rf (LN port lane) LANE_STATUS_BLK_LOCK = 1) : exec (.blockLockLoss port lane) s =
    .next (((s.cnt (LN port lane) LANE_ERR_LOCK_LOSS 1).wf (LN port lane) LANE_STATUS_BLK_LOCK 0).portDown port) := by
  refine (live_next hc fun s => if s.rf (LN port lane) LANE_STATUS_BLK_LOCK = 0 then s
    else ((s.cnt (LN port lane) LANE_ERR_LOCK_LOSS 1).wf (LN port lane) LANE_STATUS_BLK_LOCK 0).portDown port).trans ?_
  rw [if_neg (by rw [h]; decide)]

/-- The state of a port whose NAK for block `block` has come, with `n` of them in a row. -/
def State.nakCounted (s : State) (p block n : Nat) : State :=
  { ((s.wr A.ptSeen p s.mono).wr A.ptNakBlk p (1 + block)).wr A.ptNakCnt p n with freeCtr := s.freeCtr + 1 }

/-- NAKs of a block in a row, with this one. -/
def State.naks (s : State) (p block : Nat) : Nat := if s.rd A.ptNakBlk p = 1 + block then s.rd A.ptNakCnt p + 1 else 1

omit hc in
theorem heard_naks (s : State) (p block w : Nat) : ((s.heard p).free w).2.naks p block = s.naks p block := by
  have blk : ((s.heard p).free w).2.rd A.ptNakBlk p = s.rd A.ptNakBlk p := State.rd_wr_arr _ A.ptSeen _ _ _ _ (by decide)
  have cnt : ((s.heard p).free w).2.rd A.ptNakCnt p = s.rd A.ptNakCnt p := State.rd_wr_arr _ A.ptSeen _ _ _ _ (by decide)
  rw [State.naks, blk, cnt, State.naks]

omit hc in
theorem heard_port (s : State) (p w : Nat) (f : Fld) : ((s.heard p).free w).2.rf (PT p) f = s.rf (PT p) f :=
  (rf_free ..).trans (State.rf_wr _ A.ptSeen _ _ _ _ (by decide))

omit hc in
theorem heard_up (s : State) (p w : Nat) : ((s.heard p).free w).2.portUp p = s.portUp p := by rw [State.portUp, heard_port, State.portUp]

omit hc in
/-- What a NAK does on the lane that it came on. -/
theorem nakIn_eq (s : State) (p l block : Nat) : s.nakIn p l block =
    if ¬ s.portUp p ∨ 3 ≤ s.rf (PT p) PORT_STATUS_RATE then s
    else if 8 < s.naks p block then ((s.wr A.ptNakBlk p (1 + block)).wr A.ptNakCnt p (s.naks p block)).portDown p
    else ((s.wr A.ptNakBlk p (1 + block)).wr A.ptNakCnt p (s.naks p block)).replay p l block := rfl

theorem exec_nak (block : BitVec 24) : exec (.nak port block) s =
    .next (((s.heard port).free 2).2.nakIn port ((s.heard port).free 2).1 block.toNat) := live_next hc fun s => ((s.heard port).free 2).2.nakIn port ((s.heard port).free 2).1 block.toNat

theorem exec_nak_replay (block : BitVec 24) (h : s.portUp port = true) (hr : s.rf (PT port) PORT_STATUS_RATE < 3) (hn : s.naks port block.toNat ≤ 8) :
    ∃ m < 4, exec (.nak port block) s = .next (State.cnt
      { ((s.wr A.ptSeen port s.mono).wr A.ptNakBlk port (1 + block.toNat)).wr A.ptNakCnt port (s.naks port block.toNat) with
      freeCtr := s.freeCtr + 1, txQueue := s.keptFrom port m block.toNat ++ s.txQueue, txKept := s.txKept.filter fun b => ¬ (s.keptFrom port m block.toNat).contains b }
      (PT port) PORT_ERR_REPLAYS (s.keptFrom port m block.toNat).length) := by
  refine ⟨((s.heard port).free 2).1, Nat.mod_lt _ (by decide), (exec_nak hc port block).trans (congrArg Host.Outcome.next ?_)⟩
  rw [nakIn_eq, heard_up, heard_port, heard_naks, if_neg (by rw [h]; simp only [not_true, false_or]; omega), if_neg (Nat.not_lt.2 hn)]
  rfl

theorem exec_nak_ninth (block : BitVec 24) (h : s.portUp port = true) (hr : s.rf (PT port) PORT_STATUS_RATE < 3) (hn : 8 < s.naks port block.toNat) :
    exec (.nak port block) s = .next ((s.nakCounted port block.toNat (s.naks port block.toNat)).portDown port) := by
  refine (exec_nak hc port block).trans (congrArg Host.Outcome.next ?_)
  rw [nakIn_eq, heard_up, heard_port, heard_naks, if_neg (by rw [h]; simp only [not_true, false_or]; omega), if_pos hn]
  rfl

theorem exec_nak_ignored (block : BitVec 24) (h : s.portUp port = false ∨ 3 ≤ s.rf (PT port) PORT_STATUS_RATE) :
    exec (.nak port block) s = .next { s.wr A.ptSeen port s.mono with freeCtr := s.freeCtr + 1 } := by
  refine (exec_nak hc port block).trans (congrArg Host.Outcome.next ?_)
  rw [nakIn_eq, heard_up, heard_port, if_pos (h.imp_left fun e => by rw [e]; decide)]
  rfl

theorem exec_relockTimeout : exec (.dormantRelockTimeout port) s =
    .next (if (s.lanes port).any fun l => s.on A.lnRelock (4 * port + l) ∧ s.rd A.lnSince (4 * port + l) + 400000 ≤ s.mono then s.portDown port else s) :=
  live_next hc fun s => if (s.lanes port).any fun l => s.on A.lnRelock (4 * port + l) ∧ s.rd A.lnSince (4 * port + l) + 400000 ≤ s.mono then s.portDown port else s

omit hc in
theorem relock_late : ((s.lanes port).any fun l => s.on A.lnRelock (4 * port + l) ∧ s.rd A.lnSince (4 * port + l) + 400000 ≤ s.mono) = true ↔
    ∃ i ∈ s.lanes port, s.on A.lnRelock (4 * port + i) = true ∧ s.rd A.lnSince (4 * port + i) + 400000 ≤ s.mono := by
  simp only [List.any_eq_true, decide_eq_true_eq]

end liveness

end Sys2Proof.Machine

/-! CERTIFICATE. Training steps of lanes, and the obligation on training and liveness (chapter 13, R309 to R319). -/

namespace Sys2Proof.Machine

open Reg

section frames
variable {s t : State} {p l : Nat}

theorem State.LaneOnly.mem (h : s.LaneOnly p l t) : t.mem = s.mem := congrArg (·.2.1) h.rest

theorem State.LaneOnly.up (h : s.LaneOnly p l t) {j : Nat} (hj : j < 1536) : t.up j = s.up j := by
  rw [State.up, h.low (by simp only [oEVT_STATUS]; omega), State.up]

theorem State.LaneOnly.portUp (h : s.LaneOnly p l t) : t.portUp p = s.portUp p := by rw [State.portUp, h.port (by decide) (by decide), State.portUp]

theorem State.LanesOnly.up (h : s.LanesOnly p t) {j : Nat} (hj : j < 1536) : t.up j = s.up j := by
  have low : oEVT_STATUS + 4 * (j / 32) < PT p := by
    simp only [PT, Off.port, Off.die, oEVT_STATUS]
    omega
  rw [State.up, h.regs _ (.inl (by omega)) (by omega), State.up]

end frames

/-! ### LANE_TRAIN and LINK_BITSLIP (R311, R312) -/

section commands
variable {s : State} {who : Who} {port : Fin 16} (lane : Fin 4)

theorem exec_laneTrain (hs : s.ServingDom who (port / 2) domLink) (val : Word) : exec (.laneTrain who port lane val) s =
    .next (if s.pfRights who then (s.laneCtrl port lane val.toNat).okay else s.deny) :=
  accessDom_next hs _ fun s => if s.pfRights who then (s.laneCtrl port lane val.toNat).okay else s.deny

theorem exec_linkBitslip (hs : s.ServingDom who (port / 2) domLink) : exec (.linkBitslip who port lane) s =
    .next (if s.pfRights who then (s.bitslip port lane).okay else s.deny) :=
  accessDom_next hs _ fun s => if s.pfRights who then (s.bitslip port lane).okay else s.deny

theorem exec_laneTrain_stored (hs : s.ServingDom who (port / 2) domLink) (hp : s.pfRights who = true) (val : Word) (h : val.getLsbD 3 = false) :
    exec (.laneTrain who port lane val) s = .next ((s.wf (LN port lane) LANE_CTRL_RATE val.toNat).ans 0 0) := by
  have off : ¬ (slice val.toNat 3 1 = 1 ∧ slice val.toNat 0 3 ≤ 4) := fun ⟨on, _⟩ => Bool.false_ne_true (h.symm.trans (slice_one_iff.1 on))
  rw [exec_laneTrain lane hs, if_pos hp, State.laneCtrl, if_neg off, State.okay]

/-- A training step that LANE_CTRL begins (R311). -/
theorem exec_laneTrain_begun (hs : s.ServingDom who (port / 2) domLink) (hp : s.pfRights who = true) (val : Word) (h : val.getLsbD 3 = true)
    (hr : slice val.toNat 0 3 ≤ 4) : Completes (exec (.laneTrain who port lane val) s) fun t =>
      t.rf (LN port lane) LANE_STATUS_STATE = 1 ∧ t.rf (LN port lane) LANE_STATUS_RATE = slice val.toNat 0 3 ∧ t.rf (LN port lane) LANE_STATUS_SLIPS = 0 ∧
      t.rf (LN port lane) LANE_STATUS_HDR_LOCK = 0 ∧ t.rf (LN port lane) LANE_STATUS_BLK_LOCK = 0 ∧ t.rf (LN port lane) LANE_STATUS_CAPS_VALID = 0 ∧
      t.rf (LN port lane) LANE_STATUS_TIMEOUT = 0 ∧ t.reg (LN port lane + oLANE_FIR) = firPreset (slice val.toNat 0 3) ∧
      t.rf (LN port lane) LANE_CTRL_RATE = slice val.toNat 0 3 ∧ t.rsp = ⟨0, 0, 0⟩ ∧ t.mem = s.mem := by
  have on : slice val.toNat 3 1 = 1 ∧ slice val.toNat 0 3 ≤ 4 := ⟨slice_one_iff.2 h, hr⟩
  generalize hw : s.wf (LN port lane) LANE_CTRL_RATE val.toNat = w
  have stored : w.rf (LN port lane) LANE_CTRL_RATE = slice val.toNat 0 3 := by
    rw [← hw, State.rf_wf_same _ _ _ _ (by decide)]
    exact (slice_at_zero _ _).symm
  have set : s.LaneOnly port lane w := hw ▸ State.LaneOnly.refl.wf _ (by decide) _
  refine ⟨_, (exec_laneTrain lane hs val).trans (congrArg Host.Outcome.next ((if_pos hp).trans (congrArg State.okay ((if_pos on).trans
    (congrArg (fun v : State => (v.train port lane (slice val.toNat 0 3) false).portSync port) hw))))), ?_⟩
  have sync := portSync_synced (w.train port lane (slice val.toNat 0 3) false) port
  have reads {f : Fld} (hf : f.off < 0x40) (h1 : LANE_STATUS_SIG_DET.apart f = true) (h2 : LANE_STATUS_CDR_LOCK.apart f = true)
      (h3 : LANE_RX_CTLE.apart f = true) : (((w.train port lane (slice val.toNat 0 3) false).portSync port).okay).rf (LN port lane) f =
        ((w.rateKept port lane false).laneBegun port lane (slice val.toNat 0 3)).rf (LN port lane) f :=
    (sync.lane lane.isLt hf).trans (train_lane _ _ _ _ _ h1 h2 h3)
  obtain ⟨state, rate, slips, hdr, blk, caps, timeout, ctrl⟩ := laneBegun_reads (w.rateKept port lane false) port lane (slice val.toNat 0 3)
  refine ⟨(reads (by decide) (by decide) (by decide) (by decide)).trans state, (reads (by decide) (by decide) (by decide) (by decide)).trans (rate.trans ?_),
    (reads (by decide) (by decide) (by decide) (by decide)).trans slips, (reads (by decide) (by decide) (by decide) (by decide)).trans hdr,
    (reads (by decide) (by decide) (by decide) (by decide)).trans blk, (reads (by decide) (by decide) (by decide) (by decide)).trans caps,
    (reads (by decide) (by decide) (by decide) (by decide)).trans (timeout.trans (rateKept_timeout ..)), ?_,
    (reads (by decide) (by decide) (by decide) (by decide)).trans (ctrl.trans ((rateKept_ctrl ..).trans stored)), rfl, ?_⟩
  · exact Nat.mod_eq_of_lt (by omega)
  · exact (sync.regs _ (lane_firm _ lane.isLt (by decide)) (port_lane port lane oLANE_FIR (by decide)).symm).trans (train_fir ..)
  · exact (mem_ans ..).trans (sync.mem.trans ((train_only ..).mem.trans set.mem))

theorem exec_linkBitslip_slipped (hs : s.ServingDom who (port / 2) domLink) (hp : s.pfRights who = true) :
    Completes (exec (.linkBitslip who port lane) s) fun t =>
      t.rf (LN port lane) LANE_STATUS_SLIPS = (s.rf (LN port lane) LANE_STATUS_SLIPS + 1) % 2 ^ 6 ∧ t.rsp = ⟨0, 0, 0⟩ ∧ t.mem = s.mem := by
  refine ⟨_, (exec_linkBitslip lane hs).trans (congrArg Host.Outcome.next (if_pos hp)), ?_, rfl, ?_⟩
  · refine (show State.rf (State.okay _) _ _ = State.rf _ _ _ from rfl).trans ?_
    unfold State.bitslip
    dsimp only
    split
    · exact (rf_wf_other _ _ _ (by decide)).trans (State.rf_wf_same _ _ _ _ (by decide))
    · exact State.rf_wf_same _ _ _ _ (by decide)
  · refine (mem_ans ..).trans ?_
    unfold State.bitslip
    dsimp only
    split
    · rfl
    · rfl

end commands

end Sys2Proof.Machine

/-! CERTIFICATE. Locks, CAPS and timeouts of training steps (chapter 13, R309, R313 to R318). -/

namespace Sys2Proof.Machine

open Reg

section steps
variable {s : State} (port : Fin 16) (lane : Fin 4)

theorem exec_headerLock (hc : s.clocked = true) (h : s.rf (LN port lane) LANE_STATUS_STATE = 1) : exec (.headerLock port lane) s =
    .next (((s.wf (LN port lane) LANE_STATUS_HDR_LOCK 1).wf (LN port lane) LANE_STATUS_SIG_DET 1).wf (LN port lane) LANE_STATUS_CDR_LOCK 1) :=
  (live_next hc fun s => if s.laneSt port lane = lnTrain then
    ((s.wf (LN port lane) LANE_STATUS_HDR_LOCK 1).wf (LN port lane) LANE_STATUS_SIG_DET 1).wf (LN port lane) LANE_STATUS_CDR_LOCK 1 else s).trans
    (congrArg Host.Outcome.next (if_pos h))

/-- The superframe number at block lock is another lane's, or a free value. -/
theorem lockSeq_state (s : State) (p l : Nat) : (s.lockSeq p l).2 = s ∨ (s.lockSeq p l).2 = (s.free 16).2 := by
  unfold State.lockSeq
  split
  · exact .inl rfl
  · exact .inr rfl

theorem exec_blockLock_locked (hc : s.clocked = true) (ht : s.rf (LN port lane) LANE_STATUS_STATE = 1) (hh : s.rf (LN port lane) LANE_STATUS_HDR_LOCK = 1)
    (hb : s.rf (LN port lane) LANE_STATUS_BLK_LOCK = 0) (hr : s.on A.lnRelock (4 * port + lane) = false) :
    Completes (exec (.blockLock port lane) s) fun t => t.rf (LN port lane) LANE_STATUS_BLK_LOCK = 1 ∧ t.rd A.lnSlot (4 * port + lane) = 1 ∧
      t.symOut = s.symOut ∧ t.mem = s.mem := by
  have begins : ¬ (s.laneSt port lane ≠ lnTrain ∨ s.rf (LN port lane) LANE_STATUS_HDR_LOCK = 0 ∨ s.rf (LN port lane) LANE_STATUS_BLK_LOCK = 1) := by
    rw [State.laneSt, ht, hh, hb]
    decide
  let u := (s.lockSeq port lane).2
  let w := ((u.wf (LN port lane) LANE_STATUS_BLK_LOCK 1).wr A.lnSlot (4 * port + lane) 1).wr A.lnSeq (4 * port + lane) (s.lockSeq port lane).1
  have relock : w.rd A.lnRelock (4 * port + lane) = s.rd A.lnRelock (4 * port + lane) := by
    have same : u.rd A.lnRelock (4 * port + lane) = s.rd A.lnRelock (4 * port + lane) := by
      obtain e | e := lockSeq_state s port lane
      · exact congrArg (fun v : State => v.rd A.lnRelock (4 * port + lane)) e
      · exact (congrArg (fun v : State => v.rd A.lnRelock (4 * port + lane)) e).trans rfl
    rw [State.rd_wr_arr _ _ _ _ _ _ (by decide), State.rd_wr_arr _ _ _ _ _ _ (by decide), State.rd_wf _ _ _ _ _ _ (by decide), same]
  have waits : ¬ w.on A.lnRelock (4 * port + lane) = true := by
    rw [State.on, relock]
    exact Bool.eq_false_iff.1 hr
  refine ⟨w, (live_next hc fun s => s.blockLocked port lane).trans (congrArg Host.Outcome.next ((if_neg begins).trans (if_neg waits))), ?_, ?_, ?_, ?_⟩
  · rw [State.rf_wr _ _ _ _ _ _ (by decide), State.rf_wr _ _ _ _ _ _ (by decide)]
    exact State.rf_wf_same _ _ _ _ (by decide)
  · rw [State.rd_wr_arr _ _ _ _ _ _ (by decide)]
    exact State.rd_wr_same ..
  · exact (lockSeq_state s port lane).elim (congrArg State.symOut) (congrArg State.symOut)
  · exact (lockSeq_state s port lane).elim (congrArg State.mem) (congrArg State.mem)

theorem capsDue_sent (hb : s.rf (LN port lane) LANE_STATUS_BLK_LOCK = 1) (hv : s.rf (LN port lane) LANE_STATUS_CAPS_VALID = 0)
    (hw : s.symOut.any (capsWaits port lane) = false) :
    s.capsDue port lane = { s with symOut := s.symOut ++ [⟨port, some lane.val, .caps (s.capsOf port lane)⟩] } :=
  if_neg (by rw [hb, hv, hw]; decide)

theorem capsDue_over (hv : s.rf (LN port lane) LANE_STATUS_CAPS_VALID = 1) : s.capsDue port lane = s := if_pos (.inr (.inl hv))

/-! ### The peer's CAPS (R309, R313) -/

/-- LANE_CAPS as the content of CAPS gives it. -/
def capsWord (c : Nat) : Nat :=
  slice c 53 3 + 2 ^ 3 * slice c 49 4 + 2 ^ 7 * slice c 47 2 + 2 ^ 9 * slice c 46 1 + 2 ^ 10 * slice c 34 12 + 2 ^ 22 * slice c 33 1

theorem capsWord_fields (c : Nat) : slice (capsWord c) 0 3 = slice c 53 3 ∧ slice (capsWord c) 3 4 = slice c 49 4 ∧ slice (capsWord c) 7 2 = slice c 47 2 ∧
    slice (capsWord c) 9 1 = slice c 46 1 ∧ slice (capsWord c) 10 12 = slice c 34 12 ∧ slice (capsWord c) 22 1 = slice c 33 1 ∧ capsWord c < 2 ^ 32 := by
  have rate : slice c 53 3 < 8 := slice_lt ..
  have port : slice c 49 4 < 16 := slice_lt ..
  have lane : slice c 47 2 < 4 := slice_lt ..
  have key : slice c 46 1 < 2 := slice_lt ..
  have addr : slice c 34 12 < 4096 := slice_lt ..
  have valid : slice c 33 1 < 2 := slice_lt ..
  unfold capsWord
  generalize slice c 53 3 = a, slice c 49 4 = b, slice c 47 2 = d, slice c 46 1 = e, slice c 34 12 = f, slice c 33 1 = g at *
  simp only [slice]
  refine ⟨?_, ?_, ?_, ?_, ?_, ?_, ?_⟩ <;> omega

/-- The lane with the peer's CAPS. -/
def State.capsShown (s : State) (p l c : Nat) : State := (s.wr A.reg (LN p l + oLANE_CAPS) (capsWord c)).wf (LN p l) LANE_STATUS_CAPS_VALID 1

theorem capsShown_only (s : State) (p l c : Nat) : s.LaneOnly p l (s.capsShown p l c) := (State.LaneOnly.refl.reg (by decide) _).wf _ (by decide) _

theorem capsShown_lane (s : State) (p l c : Nat) {f : Fld} (hf : f.off ≠ oLANE_CAPS) (ha : LANE_STATUS_CAPS_VALID.apart f = true) :
    (s.capsShown p l c).rf (LN p l) f = s.rf (LN p l) f :=
  (rf_wf_other _ _ _ ha).trans (congrArg (fun v => slice v f.lo f.w) (State.rd_wr_ix _ _ _ _ _ fun e => hf (Nat.add_left_cancel e).symm))

theorem capsShown_caps (s : State) (p l c : Nat) {f : Fld} (hf : f.off = oLANE_CAPS) : (s.capsShown p l c).rf (LN p l) f = slice (capsWord c) f.lo f.w := by
  obtain ⟨-, -, -, -, -, -, lt⟩ := capsWord_fields c
  have whole : (s.wr A.reg (LN p l + oLANE_CAPS) (capsWord c)).reg (LN p l + oLANE_CAPS) = capsWord c := (State.rd_wr_same ..).trans (Nat.mod_eq_of_lt lt)
  refine (State.rf_wf_reg _ _ _ _ _ _ (by rw [hf]; simp only [LANE_STATUS_CAPS_VALID, oLANE_CAPS]; omega)).trans ?_
  exact congrArg (fun v => slice v f.lo f.w) (by rw [hf]; exact whole)

/-- The lane's step has succeeded: TIMEOUT is clear. -/
def State.capsTaken (s : State) (p l c : Nat) : State := (s.capsShown p l c).wf (LN p l) LANE_STATUS_TIMEOUT 0

theorem capsTaken_only (s : State) (p l c : Nat) : s.LaneOnly p l (s.capsTaken p l c) := (capsShown_only ..).wf _ (by decide) _

/-- A lane fits its port's rate by the states and rates of the lanes alone. -/
theorem rateFits_of {s t : State} {p l : Nat} (hl : t.lanes p = s.lanes p) (hs : ∀ m, t.laneSt p m = s.laneSt p m)
    (hr : ∀ m, t.rf (LN p m) LANE_STATUS_RATE = s.rf (LN p m) LANE_STATUS_RATE) : t.rateFits p l = s.rateFits p l := by
  unfold State.rateFits
  simp only [hl, hs, hr]

theorem capsTaken_lane (s : State) (p l m c : Nat) {f : Fld} (hf : f.off = oLANE_STATUS) (hv : LANE_STATUS_CAPS_VALID.apart f = true)
    (ht : LANE_STATUS_TIMEOUT.apart f = true) : (s.capsTaken p l c).rf (LN p m) f = s.rf (LN p m) f := by
  by_cases e : m = l
  · rw [e]
    exact (rf_wf_other _ _ _ ht).trans (capsShown_lane _ _ _ _ (by rw [hf]; decide) hv)
  · exact (capsTaken_only ..).other e (by rw [hf]; decide)

theorem capsTaken_fits (s : State) (p l c : Nat) : (s.capsTaken p l c).rateFits p l = s.rateFits p l :=
  rateFits_of (capsTaken_only ..).lanes (fun m => capsTaken_lane s p l m c rfl (by decide) (by decide))
    fun m => capsTaken_lane s p l m c rfl (by decide) (by decide)

/-- CAPS at the end of a training step. -/
theorem capsIn_training (ht : s.rf (LN port lane) LANE_STATUS_STATE = 1) (hb : s.rf (LN port lane) LANE_STATUS_BLK_LOCK = 1)
    (hv : s.rf (LN port lane) LANE_STATUS_CAPS_VALID = 0) (c : Nat) : s.capsIn port lane c =
      if s.rateFits port lane then ((s.capsTaken port lane c).wf (LN port lane) LANE_STATUS_STATE lnActive).portSync port
      else s.capsTaken port lane c := by
  have trains : ¬ (s.capsShown port lane c).laneSt port lane ≠ lnTrain := by
    rw [State.laneSt, capsShown_lane _ _ _ _ (by decide) (by decide), ht]
    decide
  refine (if_neg (by rw [hb]; decide)).trans ((if_neg fun bad => ?_).trans ((if_neg trains).trans ?_))
  · exact absurd (bad.1.symm.trans hv) (by decide)
  · rw [← capsTaken_fits s port lane c]
    rfl

theorem exec_caps (hc : s.clocked = true) (caps : BitVec 56) : exec (.caps port lane caps) s = .next ((s.heard port).capsIn port lane caps.toNat) :=
  live_next hc fun s => (s.heard port).capsIn port lane caps.toNat

/-- Bits of a sum over distinct lanes. -/
theorem laneBits_test (q : Nat → Bool) {l : Nat} (hl : l < 4) : (((((List.range 4).filter q).map (2 ^ ·)).sum) % 16).testBit l = q l := by
  have four : List.range 4 = [0, 1, 2, 3] := rfl
  have cases : l = 0 ∨ l = 1 ∨ l = 2 ∨ l = 3 := by omega
  rw [four]
  cases h0 : q 0 <;> cases h1 : q 1 <;> cases h2 : q 2 <;> cases h3 : q 3 <;>
    simp only [List.filter_cons, h0, h1, h2, h3, if_true, List.filter_nil, Bool.false_eq_true, if_false] <;>
    rcases cases with rfl | rfl | rfl | rfl <;> simp only [h0, h1, h2, h3] <;> rfl

/-- An ACTIVE lane of the port shows in ACTIVE, and keeps the port up. -/
theorem active_shown {s : State} {p l : Nat} (hl : l ∈ s.lanes p) (ha : s.laneSt p l = 2) : (s.activeBits p % 16).testBit l = true ∧ s.laneUp p = true := by
  constructor
  · unfold State.activeBits State.activeLanes State.lanes
    rw [List.filter_filter, laneBits_test _ (lanes_lt hl), Bool.and_eq_true]
    exact ⟨decide_eq_true ha, (List.mem_filter.1 hl).2⟩
  · exact List.any_eq_true.2 ⟨l, hl, decide_eq_true (.inl (by rw [ha]; decide))⟩

section heard
variable (hc : s.clocked = true) (ht : s.rf (LN port lane) LANE_STATUS_STATE = 1) (hb : s.rf (LN port lane) LANE_STATUS_BLK_LOCK = 1)
  (hv : s.rf (LN port lane) LANE_STATUS_CAPS_VALID = 0) (caps : BitVec 56)
include hc ht hb hv

theorem exec_caps_joins (hf : s.rateFits port lane = true) : Completes (exec (.caps port lane caps) s) fun t =>
    t.rf (LN port lane) LANE_STATUS_STATE = 2 ∧ t.rf (LN port lane) LANE_STATUS_CAPS_VALID = 1 ∧
    t.rf (LN port lane) LANE_CAPS_MAX_RATE = slice caps.toNat 53 3 ∧ t.rf (LN port lane) LANE_CAPS_PORT = slice caps.toNat 49 4 ∧
    t.rf (LN port lane) LANE_CAPS_LANE = slice caps.toNat 47 2 ∧ t.rf (LN port lane) LANE_CAPS_KEYSTONE = slice caps.toNat 46 1 ∧
    t.rf (LN port lane) LANE_CAPS_ADDR = slice caps.toNat 34 12 ∧ t.rf (LN port lane) LANE_CAPS_ADDR_VALID = slice caps.toNat 33 1 ∧
    (lane.val ∈ s.lanes port → t.portUp port = true ∧ (t.rf (PT port) PORT_STATUS_ACTIVE).testBit lane = true) ∧ t.rd A.ptSeen port = s.mono := by
  have kept (m : Nat) (f : Fld) : (s.heard port).rf m f = s.rf m f := State.rf_wr _ A.ptSeen _ _ _ _ (by decide)
  have fits : (s.heard port).rateFits port lane = true :=
    (rateFits_of (lanes_of_cfg (State.reg_wr _ A.ptSeen _ _ _ (by decide))) (fun m => kept _ _) fun m => kept _ _).trans hf
  generalize hw : ((s.heard port).capsTaken port lane caps.toNat).wf (LN port lane) LANE_STATUS_STATE lnActive = w
  have only : (s.heard port).LaneOnly port lane w := hw ▸ (capsTaken_only ..).wf _ (by decide) _
  have sync := portSync_synced w port
  refine ⟨_, (exec_caps port lane hc caps).trans (congrArg Host.Outcome.next (((capsIn_training port lane ((kept _ _).trans ht) ((kept _ _).trans hb)
    ((kept _ _).trans hv) _).trans (if_pos fits)).trans (congrArg (State.portSync · port) hw))), ?_⟩
  have fields {f : Fld} (hf : f.off = oLANE_CAPS) : (w.portSync port).rf (LN port lane) f = slice (capsWord caps.toNat) f.lo f.w := by
    rw [sync.lane lane.isLt (by rw [hf]; decide), ← hw, State.rf_wf_reg _ _ _ _ _ _ (by rw [hf]; simp only [LANE_STATUS_STATE, oLANE_CAPS]; omega), State.capsTaken,
      State.rf_wf_reg _ _ _ _ _ _ (by rw [hf]; simp only [LANE_STATUS_TIMEOUT, oLANE_CAPS]; omega), capsShown_caps _ _ _ _ hf]
  obtain ⟨rate, prt, ln, key, addr, valid, -⟩ := capsWord_fields caps.toNat
  have active : w.laneSt port lane = 2 := by
    rw [← hw]
    exact State.rf_wf_same _ _ _ _ (by decide)
  refine ⟨(sync.lane lane.isLt (by decide)).trans active, ?_, (fields rfl).trans rate, (fields rfl).trans prt, (fields rfl).trans ln, (fields rfl).trans key,
    (fields rfl).trans addr, (fields rfl).trans valid, fun hl => ?_, ?_⟩
  · rw [sync.lane lane.isLt (by decide), ← hw, rf_wf_other _ _ _ (by decide), State.capsTaken, rf_wf_other _ _ _ (by decide)]
    exact State.rf_wf_same _ _ _ _ (by decide)
  · have mem : lane.val ∈ w.lanes port := by
      rw [only.lanes, lanes_of_cfg (t := s.heard port) (s := s) (State.reg_wr _ A.ptSeen _ _ _ (by decide))]
      exact hl
    obtain ⟨shown, up⟩ := active_shown mem active
    exact ⟨sync.up.trans up, by rw [sync.active]; exact shown⟩
  · have mono : (s.heard port).mono = s.mono := pair_wr s _ _ _ (by decide)
    have seen : w.rd A.ptSeen port = s.mono := by
      rw [only.arrays A.ptSeen port (by decide) (.inl (by decide)), State.heard, State.rd_wr_same]
      exact Nat.mod_eq_of_lt (pair_lt s _)
    obtain same | now := sync.seen
    · exact same.trans seen
    · rw [now, only.mono_ns, mono]

theorem exec_caps_waits (hf : s.rateFits port lane = false) : Completes (exec (.caps port lane caps) s) fun t =>
    t.rf (LN port lane) LANE_STATUS_STATE = 1 ∧ t.rf (LN port lane) LANE_STATUS_CAPS_VALID = 1 ∧ t.rf (LN port lane) LANE_STATUS_TIMEOUT = 0 ∧
    t.rf (LN port lane) LANE_CAPS_MAX_RATE = slice caps.toNat 53 3 ∧ t.portUp port = s.portUp port := by
  have kept (m : Nat) (f : Fld) : (s.heard port).rf m f = s.rf m f := State.rf_wr _ A.ptSeen _ _ _ _ (by decide)
  have fits : (s.heard port).rateFits port lane = false :=
    (rateFits_of (lanes_of_cfg (State.reg_wr _ A.ptSeen _ _ _ (by decide))) (fun m => kept _ _) fun m => kept _ _).trans hf
  refine ⟨_, (exec_caps port lane hc caps).trans (congrArg Host.Outcome.next ((capsIn_training port lane ((kept _ _).trans ht) ((kept _ _).trans hb)
    ((kept _ _).trans hv) _).trans (if_neg (Bool.eq_false_iff.1 fits)))), ?_, ?_, State.rf_wf_same _ _ _ _ (by decide), ?_, ?_⟩
  · exact (capsTaken_lane _ _ _ _ _ rfl (by decide) (by decide)).trans ((kept _ _).trans ht)
  · exact (rf_wf_other _ _ _ (by decide)).trans (State.rf_wf_same _ _ _ _ (by decide))
  · exact (rf_wf_other _ _ _ (by decide)).trans ((capsShown_caps _ _ _ _ rfl).trans (capsWord_fields _).1)
  · rw [(capsTaken_only ..).portUp, State.portUp, kept, State.portUp]

end heard

end steps

end Sys2Proof.Machine

/-! CERTIFICATE. Steps that fail, presence polls, and the obligation on training and liveness of links (chapter 13, R309 to R319). -/

namespace Sys2Proof.Machine

open Reg

section timeouts
variable {s : State} (port : Fin 16) (lane : Fin 4)

/-- The step of a lane has lasted too long (R317). -/
def State.stepOver (s : State) (p l : Nat) : Prop :=
  s.laneSt p l = lnTrain ∧ ¬ s.on A.lnRelock (4 * p + l) = true ∧ ¬ s.trained1 p l = true ∧ s.rd A.lnSince (4 * p + l) + 10000000 ≤ s.mono

theorem exec_trainingTimeout_over (hc : s.clocked = true) (h : s.stepOver port lane) : exec (.trainingTimeout port lane) s = .next (s.trainFail port lane) := by
  refine (live_next hc fun s => if s.laneSt port lane = lnTrain ∧ ¬ s.on A.lnRelock (4 * port.val + lane) ∧ ¬ s.trained1 port lane ∧
    s.rd A.lnSince (4 * port.val + lane) + 10000000 ≤ s.mono then s.trainFail port lane else s).trans ?_
  obtain ⟨train, relock, done, late⟩ := h
  rw [if_pos ⟨train, relock, done, late⟩]

theorem exec_trainingTimeout_early (hc : s.clocked = true) (h : ¬ s.stepOver port lane) : exec (.trainingTimeout port lane) s = .next s := by
  refine (live_next hc fun s => if s.laneSt port lane = lnTrain ∧ ¬ s.on A.lnRelock (4 * port.val + lane) ∧ ¬ s.trained1 port lane ∧
    s.rd A.lnSince (4 * port.val + lane) + 10000000 ≤ s.mono then s.trainFail port lane else s).trans ?_
  rw [if_neg fun ⟨train, relock, done, late⟩ => h ⟨train, relock, done, late⟩]

/-- At the lowest rate a step that fails leaves the lane ABSENT (R318). -/
theorem trainFail_absent (h : s.rf (LN port lane) LANE_STATUS_RATE = 0) :
    (s.trainFail port lane).rf (LN port lane) LANE_STATUS_STATE = 5 ∧ (s.trainFail port lane).rf (LN port lane) LANE_STATUS_TIMEOUT = 1 ∧
    (s.trainFail port lane).mem = s.mem := by
  generalize hw : ((s.wf (LN port lane) LANE_STATUS_TIMEOUT 1).wf (LN port lane) LANE_STATUS_STATE lnAbsent).wr A.lnSince (4 * port + lane)
    (s.wf (LN port lane) LANE_STATUS_TIMEOUT 1).mono = w
  have rate : (s.wf (LN port lane) LANE_STATUS_TIMEOUT 1).rf (LN port lane) LANE_STATUS_RATE = 0 := (rf_wf_other _ _ _ (by decide)).trans h
  have fails : s.trainFail port lane = w.portSync port := (if_pos rate).trans (congrArg (State.portSync · port) hw)
  have only : s.LaneOnly port lane w := hw ▸ ((State.LaneOnly.refl.wf _ (by decide) _).wf _ (by decide) _).wr (a := A.lnSince) (by decide) _ (.inr rfl) _
  have sync := portSync_synced w port
  rw [fails]
  refine ⟨(sync.lane lane.isLt (by decide)).trans ?_, (sync.lane lane.isLt (by decide)).trans ?_, sync.mem.trans only.mem⟩
  · rw [← hw, State.rf_wr _ A.lnSince _ _ _ _ (by decide)]
    exact State.rf_wf_same _ _ _ _ (by decide)
  · rw [← hw, State.rf_wr _ A.lnSince _ _ _ _ (by decide), rf_wf_other _ _ _ (by decide)]
    exact State.rf_wf_same _ _ _ _ (by decide)

/-- At another rate every lane of the port trains again at its previous one (R317). -/
theorem trainFail_again (h : s.rf (LN port lane) LANE_STATUS_RATE ≠ 0) (hl : lane.val ∈ s.lanes port) :
    (∀ i ∈ s.lanes port, (s.trainFail port lane).rf (LN port i) LANE_STATUS_STATE = 1 ∧
      (s.trainFail port lane).rf (LN port i) LANE_STATUS_RATE = s.rd A.lnPrev (4 * port + i)) ∧
    (s.trainFail port lane).rf (LN port lane) LANE_STATUS_TIMEOUT = 1 ∧ (s.trainFail port lane).rf (PT port) PORT_STATUS_LAST_REQ = 3 ∧
    ((s.trainFail port lane).reg (oEVT_STATUS + 4 * (0x5A0 / 32))).testBit port = true := by
  have lt : port.val < 16 := port.isLt
  let v := (s.wf (LN port lane) LANE_STATUS_TIMEOUT 1).wf (PT port) PORT_STATUS_LAST_REQ 3
  let r := v.raise (0x5A0 + port)
  let w := (r.lanes port).foldl (fun s l => s.train port l (s.rd A.lnPrev (4 * port + l)) true) r
  have rate : (s.wf (LN port lane) LANE_STATUS_TIMEOUT 1).rf (LN port lane) LANE_STATUS_RATE ≠ 0 := by
    rw [rf_wf_other _ _ _ (by decide)]
    exact h
  have fails : s.trainFail port lane = w.portSync port := if_neg rate
  have raised : v.LinkStill r := raise_still _ (by omega)
  have again : r.LanesOnly port w := lanes_foldl (fun l hl => lanes_lt hl) (fun u j => train_only u port j _ true) r
  have sync := portSync_synced w port
  have ports : r.lanes port = s.lanes port := by
    rw [State.lanes, raised.port port (by decide), rf_wf_other _ _ _ (by decide), rf_wf_lane_port _ _ _ _ (by decide), State.lanes]
  have prev (i : Nat) : r.rd A.lnPrev i = s.rd A.lnPrev i := by
    rw [raised.arrays A.lnPrev i (by decide), State.rd_wf _ _ _ _ _ _ (by decide), State.rd_wf _ _ _ _ _ _ (by decide)]
  have turns {i : Nat} (hi : i ∈ s.lanes port) := trains_at (s := r) (p := port) (g := fun s l => s.rd A.lnPrev (4 * port + l)) (back := true) (m := i)
    (by rw [ports]; exact hi) fun {u v j} hj only => only.arrays A.lnPrev _ (by decide) (.inr ⟨by decide, by decide, by omega⟩)
  rw [fails]
  refine ⟨fun i hi => ?_, ?_, ?_, ?_⟩
  · obtain ⟨state, rates, -⟩ := turns hi
    refine ⟨(sync.lane (lanes_lt hi) (by decide)).trans state, (sync.lane (lanes_lt hi) (by decide)).trans (rates.trans ?_)⟩
    rw [prev]
    exact Nat.mod_eq_of_lt (State.rd_lt ..)
  · obtain ⟨-, -, timeout⟩ := turns hl
    rw [if_pos rfl, raised.lane port lane.isLt (by decide), rf_wf_port_lane _ _ _ _ (by decide), State.rf_wf_same _ _ _ _ (by decide)] at timeout
    exact (sync.lane lane.isLt (by decide)).trans timeout
  · rw [sync.fields _ rfl (by decide) (by decide), again.port (by decide) (by decide), raised.port port (by decide)]
    exact State.rf_wf_same _ _ _ _ (by decide)
  · have shown : (w.portSync port).up (0x5A0 + port) = true := by
      refine sync.events _ (by omega) ((again.up (by omega)).trans ?_)
      rw [raise_up _ (by omega), decide_eq_true rfl, Bool.or_true]
    rw [State.up, show (0x5A0 + port.val) / 32 = 0x5A0 / 32 by omega, show (0x5A0 + port.val) % 32 = port by omega] at shown
    exact shown

theorem exec_presencePoll (hc : s.clocked = true) (signal : Bool) (h : s.rf (LN port lane) LANE_STATUS_STATE = 5)
    (hl : s.rd A.lnSince (4 * port + lane) + 1000000 * s.rf 0 LINK_POLL_PRESENCE_POLL_MS ≤ s.mono) : exec (.presencePoll port lane signal) s =
    .next (if signal then ((((s.wf (LN port lane) LANE_STATUS_SIG_DET (bit signal)).wr A.lnSince (4 * port + lane) s.mono).wf (LN port lane)
        LANE_STATUS_STATE lnOff).raise (0x5A0 + port))
      else (s.wf (LN port lane) LANE_STATUS_SIG_DET (bit signal)).wr A.lnSince (4 * port + lane) s.mono) := by
  refine (live_next hc fun s => if s.laneSt port lane = lnAbsent ∧ s.rd A.lnSince (4 * port.val + lane) + 1000000 * s.rf 0 LINK_POLL_PRESENCE_POLL_MS ≤ s.mono then
      (if signal then ((((s.wf (LN port lane) LANE_STATUS_SIG_DET (bit signal)).wr A.lnSince (4 * port + lane) s.mono).wf (LN port lane)
        LANE_STATUS_STATE lnOff).raise (0x5A0 + port))
      else (s.wf (LN port lane) LANE_STATUS_SIG_DET (bit signal)).wr A.lnSince (4 * port + lane) s.mono) else s).trans ?_
  rw [if_pos ⟨h, hl⟩]

end timeouts

/-- Settles O36: each clause is what one operation of a port or of a lane does; what a change of UP sets off keeps the links' own registers. -/
theorem linkTrainingAndLiveness : Obligations.LinkTrainingAndLiveness := by
  refine ⟨?_, ?_, ?_⟩
  · intro s port p t
    exact ⟨portDown_idle, fun h => portDown_reads h port.isLt⟩
  · intro s port lane block p l active heard n late hc
    refine ⟨fun h ha => exec_heartbeatInterval_active hc port h ha, exec_heartbeatInterval_idle hc port, live_next hc fun s => s.heard port,
      fun ha hl => ?_, fun h => ?_, exec_lockLoss hc port lane, fun h hr => ⟨exec_nak_replay hc port block h hr, exec_nak_ninth hc port block h hr⟩,
      exec_nak_ignored hc port block, fun h => ?_, fun h => ?_⟩
    · rw [exec_silenceTimeout hc, if_pos ⟨ha, hl⟩]
    · rw [exec_silenceTimeout hc, if_neg fun ⟨ha, hl⟩ => h.elim (fun no => no ha) fun lt => absurd hl (Nat.not_le.2 lt)]
    · rw [exec_relockTimeout hc, if_pos (relock_late port |>.2 h)]
    · rw [exec_relockTimeout hc, if_neg fun bad => h (relock_late port |>.1 bad)]
  · intro s who port lane val caps p l b x rate training v done
    refine ⟨fun hs => ⟨fun hp => ⟨?_, ?_⟩, fun hp => ⟨exec_laneTrain_begun lane hs hp val, exec_laneTrain_stored lane hs hp val,
      exec_linkBitslip_slipped lane hs hp⟩⟩, fun hc => ⟨exec_headerLock port lane hc, exec_blockLock_locked port lane hc, capsDue_sent port lane,
      capsDue_over port lane, fun ht hb hv => exec_caps_joins port lane hc ht hb hv caps, fun ht hb hv => exec_caps_waits port lane hc ht hb hv caps,
      fun ht hr hd hl => ?_, fun h => exec_trainingTimeout_early port lane hc fun ⟨ht, hr, hd, hl⟩ => ?_, fun h hl => ⟨?_, ?_⟩⟩⟩
    · rw [exec_laneTrain lane hs, if_neg (Bool.eq_false_iff.1 hp), State.deny]
    · rw [exec_linkBitslip lane hs, if_neg (Bool.eq_false_iff.1 hp), State.deny]
    · have fails := exec_trainingTimeout_over port lane hc ⟨ht, Bool.eq_false_iff.1 hr, fun bad => hd (of_decide_eq_true bad), hl⟩
      exact ⟨fun h => ⟨_, fails, trainFail_absent port lane h⟩, fun h hm => ⟨_, fails, trainFail_again port lane h hm⟩⟩
    · obtain no | yes | early := h
      · exact no ht
      · exact hd (decide_eq_true yes)
      · exact absurd hl (Nat.not_le.2 early)
    · exact exec_presencePoll port lane hc false h hl
    · exact exec_presencePoll port lane hc true h hl

end Sys2Proof.Machine

/-! CERTIFICATE. Rates and power states of link ports, and the blocks that arrive (chapter 13, R296 to R301, R316, R321, R322). -/

namespace Sys2Proof.Machine

open Reg

/-! ### Requests of rates and power states (R316, R321) -/

section requests
variable {s : State} {who : Who} {port : Fin 16}

theorem exec_rateReqSend (hs : s.ServingDom who (port / 2) domLink) (val : Word) : exec (.rateReqSend who port val) s =
    .next (if s.pfRights who then (s.rateAsk port (slice val.toNat 0 3)).okay else s.deny) :=
  accessDom_next hs _ fun s => if s.pfRights who then (s.rateAsk port (slice val.toNat 0 3)).okay else s.deny

theorem exec_pstateRequest (hs : s.ServingDom who (port / 2) domLink) (val : Word) : exec (.pstateRequest who port val) s =
    .next (if s.pfRights who then (s.psAsk port (slice val.toNat 4 2)).okay else s.deny) :=
  accessDom_next hs _ fun s => if s.pfRights who then (s.psAsk port (slice val.toNat 4 2)).okay else s.deny

/-- A request of a rate goes out on a port that is up. -/
theorem rateAsk_sent {p : Nat} (h : s.portUp p = true) (rate : Nat) : s.rateAsk p rate =
    { (s.wf (PT p) PORT_STATUS_LAST_REQ 0).wr A.ptReq p (1 + rate) with symOut := s.symOut ++ [⟨p, none, .rateReq rate⟩] } := by
  have up : ((s.wf (PT p) PORT_STATUS_LAST_REQ 0).wr A.ptReq p (1 + rate)).portUp p = true := by
    rw [State.portUp, State.rf_wr _ A.ptReq _ _ _ _ (by decide), rf_wf_other _ _ _ (by decide)]
    exact h
  exact sendSym_up up _

theorem psAsk_wake (s : State) (p : Nat) : s.psAsk p 0 = s.wakePort p := if_pos rfl

theorem psAsk_reserved (s : State) (p : Nat) : s.psAsk p 3 = s := (if_neg (by decide)).trans (if_pos (.inl rfl))

theorem psAsk_sleep {p st : Nat} (h : s.portUp p = true) (hst : st = 1 ∨ st = 2) : s.psAsk p st =
    if s.portNeeded p then s.wf (PT p) PORT_STATUS_LAST_REQ 4 else (s.wr A.ptPs p (9 + st)).sendSym p (.pstate st) := by
  refine (if_neg (by omega)).trans (if_neg fun bad => ?_)
  obtain bad | bad := bad
  · omega
  · exact bad h

theorem psAsk_refused {p st : Nat} (h : s.portUp p = true) (hst : st = 1 ∨ st = 2) (hn : s.portNeeded p = true) :
    s.psAsk p st = s.wf (PT p) PORT_STATUS_LAST_REQ 4 := (psAsk_sleep h hst).trans (if_pos hn)

theorem psAsk_sent {p st : Nat} (h : s.portUp p = true) (hst : st = 1 ∨ st = 2) (hn : s.portNeeded p = false) :
    s.psAsk p st = { s.wr A.ptPs p (9 + st) with symOut := s.symOut ++ [⟨p, none, .pstate st⟩] } := by
  refine (psAsk_sleep h hst).trans ((if_neg (Bool.eq_false_iff.1 hn)).trans (sendSym_up ?_ _))
  rw [State.portUp, State.rf_wr _ A.ptPs _ _ _ _ (by decide)]
  exact h

end requests

/-! ### What the peer asks and answers -/

section peer
variable {s : State}

theorem heard_rf (s : State) (p b : Nat) (f : Fld) : (s.heard p).rf b f = s.rf b f := State.rf_wr _ A.ptSeen _ _ _ _ (by decide)

theorem heard_rd (s : State) (p : Nat) {a : Arr} (i : Nat) (h : ¬ A.ptSeen.code % 512 = a.code % 512) : (s.heard p).rd a i = s.rd a i :=
  State.rd_wr_arr _ _ _ _ _ _ h

theorem heard_portUp (s : State) (p q : Nat) : (s.heard p).portUp q = s.portUp q := congrArg (fun v : Nat => decide (v = 1)) (heard_rf ..)

/-- The rate is above MAX_RATE, or a lane of the port is not ACTIVE (R316). -/
def State.rateRefused (s : State) (p rate : Nat) : Bool := s.rf (PT p) PORT_CFG_MAX_RATE < rate ∨ (s.lanes p).any fun l => s.laneSt p l ≠ lnActive

theorem rateRefused_iff (p rate : Nat) : s.rateRefused p rate = true ↔ s.rf (PT p) PORT_CFG_MAX_RATE < rate ∨ ∃ l ∈ s.lanes p, s.laneSt p l ≠ 2 := by
  exact decide_eq_true_iff.trans (or_congr .rfl (List.any_eq_true.trans (exists_congr fun l => and_congr_right fun _ => decide_eq_true_iff)))

theorem heard_rateRefused (p rate : Nat) : (s.heard p).rateRefused p rate = s.rateRefused p rate := by
  rw [Bool.eq_iff_iff, rateRefused_iff, rateRefused_iff]
  simp only [State.lanes, State.laneSt, heard_rf]

theorem rateAsked_eq (s : State) (p rate : Nat) : s.rateAsked p rate =
    if s.rateRefused p rate then s.sendSym p (.rateAck rate (s.rateRefused p rate))
    else (s.sendSym p (.rateAck rate (s.rateRefused p rate))).wr A.ptSwitch p (1 + rate) := rfl

variable (port : Fin 16) (hc : s.clocked = true) (h : s.portUp port = true)
include hc h

theorem exec_rateReq_refused (rate : BitVec 3) (hn : s.rateRefused port rate.toNat = true) : exec (.rateReq port rate) s =
    .next { s.wr A.ptSeen port s.mono with symOut := s.symOut ++ [⟨port, none, .rateAck rate.toNat true⟩] } := by
  refine (live_next hc fun s => (s.heard port).rateAsked port rate.toNat).trans (congrArg Host.Outcome.next ?_)
  rw [rateAsked_eq, heard_rateRefused, hn, if_pos rfl]
  exact sendSym_up ((heard_portUp ..).trans h) _

theorem exec_rateReq_taken (rate : BitVec 3) (hn : s.rateRefused port rate.toNat = false) : exec (.rateReq port rate) s =
    .next (State.wr { s.wr A.ptSeen port s.mono with symOut := s.symOut ++ [⟨port, none, .rateAck rate.toNat false⟩] } A.ptSwitch port (1 + rate.toNat)) := by
  refine (live_next hc fun s => (s.heard port).rateAsked port rate.toNat).trans (congrArg Host.Outcome.next ?_)
  rw [rateAsked_eq, heard_rateRefused, hn, if_neg (by decide)]
  exact congrArg (fun v : State => v.wr A.ptSwitch port (1 + rate.toNat)) (sendSym_up ((heard_portUp ..).trans h) _)

omit h in
theorem exec_rateAck (rate : BitVec 3) (hr : s.rd A.ptReq port = 1 + rate.toNat) (refused : Bool) : exec (.rateAck port rate refused) s =
    .next (if refused then ((s.wr A.ptSeen port s.mono).wr A.ptReq port 0).wf (PT port) PORT_STATUS_LAST_REQ 2
      else (((s.wr A.ptSeen port s.mono).wr A.ptReq port 0).wf (PT port) PORT_STATUS_LAST_REQ 1).wr A.ptSwitch port (1 + rate.toNat)) := by
  refine (live_next hc fun s => (s.heard port).rateAnswer port rate.toNat refused).trans (congrArg Host.Outcome.next (if_neg fun ne => ne ?_))
  rw [heard_rd _ _ _ (by decide)]
  exact hr

omit h in
theorem exec_rateAck_ignored (rate : BitVec 3) (hr : s.rd A.ptReq port ≠ 1 + rate.toNat) (refused : Bool) :
    exec (.rateAck port rate refused) s = .next (s.wr A.ptSeen port s.mono) := by
  refine (live_next hc fun s => (s.heard port).rateAnswer port rate.toNat refused).trans (congrArg Host.Outcome.next (if_pos ?_))
  rw [heard_rd _ _ _ (by decide)]
  exact hr

omit hc h in
/-- Whether a partition needs a port does not depend on when it was heard. -/
theorem heard_portNeeded (s : State) (p q : Nat) : (s.heard p).portNeeded q = s.portNeeded q := by
  have same : s.SameLanes (s.heard p) := (State.SameLanes.refl s).wr _ _ rfl (.inr (.inr (by decide)))
  have stop (k : Nat) : (s.heard p).stoppable k = s.stoppable k := by
    rw [State.stoppable, heard_rd _ _ _ (by decide), State.stoppable]
  have tree : (s.heard p).treePorts = s.treePorts := by
    simp only [State.treePorts, State.treeParent, State.treeChildren, heard_rf]
  have mode (k : Nat) : (s.heard p).treeMode k = s.treeMode k := by rw [State.treeMode, State.plumbMode, heard_rf, State.treeMode, State.plumbMode]
  have owned {kind : Nat} (hk : kind < 7) (pid : Nat) : (s.heard p).portLanes kind q pid = s.portLanes kind q pid := by
    simp only [State.portLanes, same.laneOwner hk]
  have carries (k : Nat) : (s.heard p).onPort q k = s.onPort q k := by
    rw [State.onPort, heard_rd _ _ _ (by decide), owned (by decide), owned (by decide), State.onPort]
  have members (k : Nat) : (s.heard p).rd A.pMembers k = s.rd A.pMembers k := heard_rd _ _ _ (by decide)
  simp only [State.portNeeded, stop, tree, mode, carries, members]

theorem exec_pstate_asked (st : BitVec 2) (hst : st.toNat = 1 ∨ st.toNat = 2) : exec (.pstate port st) s =
    .next (if s.portNeeded port then { s.wr A.ptSeen port s.mono with symOut := s.symOut ++ [⟨port, none, .pstate 0⟩] }
      else (s.wr A.ptSeen port s.mono).wr A.ptPs port (1 + st.toNat)) := by
  refine (live_next hc fun s => (s.heard port).psAsked port st.toNat).trans (congrArg Host.Outcome.next ((if_neg (by omega)).trans ((if_neg (by omega)).trans ?_)))
  rw [heard_portNeeded, sendSym_up ((heard_portUp ..).trans h)]
  rfl

omit h in
theorem exec_pstate_refusal (st : BitVec 2) (hst : st.toNat = 0) (hp : 8 ≤ s.rd A.ptPs port) : exec (.pstate port st) s =
    .next (((s.wr A.ptSeen port s.mono).wr A.ptPs port 0).wf (PT port) PORT_STATUS_LAST_REQ 4) := by
  refine (live_next hc fun s => (s.heard port).psAsked port st.toNat).trans (congrArg Host.Outcome.next ((if_pos hst).trans (if_pos ?_)))
  rw [heard_rd _ _ _ (by decide)]
  exact hp

omit h in
theorem exec_pstate_ignored (st : BitVec 2) (hst : st.toNat = 0 ∧ s.rd A.ptPs port < 8 ∨ st.toNat = 3) : exec (.pstate port st) s =
    .next (s.wr A.ptSeen port s.mono) := by
  refine (live_next hc fun s => (s.heard port).psAsked port st.toNat).trans (congrArg Host.Outcome.next ?_)
  obtain ⟨zero, low⟩ | three := hst
  · refine (if_pos zero).trans (if_neg ?_)
    rw [heard_rd _ _ _ (by decide)]
    exact Nat.not_le.2 low
  · exact (if_neg (by omega)).trans (if_pos three)

end peer

/-! ### A change of rate, and a wake -/

section changes
variable {s : State} (port : Fin 16)

/-- Every lane begins a training step at the rate agreed on. -/
def State.ratesSwitched (s : State) (p : Nat) : State :=
  (s.lanes p).foldl (fun u l => u.train p l (s.rd A.ptSwitch p - 1) false) (s.wr A.ptSwitch p 0)

theorem exec_rateSwitch_eq (hc : s.clocked = true) : exec (.rateSwitch port) s =
    .next (if s.rd A.ptSwitch port = 0 then s else (s.ratesSwitched port).portSync port) :=
  live_next hc fun s => if s.rd A.ptSwitch port = 0 then s else (s.ratesSwitched port).portSync port

theorem exec_rateSwitch (hc : s.clocked = true) (hr : s.rd A.ptSwitch port ≠ 0) : Completes (exec (.rateSwitch port) s) fun t =>
    t.rd A.ptSwitch port = 0 ∧ ∀ l ∈ s.lanes port, t.laneSt port l = 1 ∧ t.rf (LN port l) LANE_STATUS_RATE = (s.rd A.ptSwitch port - 1) % 8 := by
  let v := s.wr A.ptSwitch port 0
  have lanes : v.lanes port = s.lanes port := lanes_of_cfg (State.reg_wr _ A.ptSwitch _ _ _ (by decide))
  have only : v.LanesOnly port (s.ratesSwitched port) := lanes_foldl (fun l hl => lanes_lt hl) (fun u j => train_only u port j _ false) v
  have sync := portSync_synced (s.ratesSwitched port) port
  refine ⟨_, (exec_rateSwitch_eq port hc).trans (congrArg Host.Outcome.next (if_neg hr)), ?_, fun l hl => ?_⟩
  · rw [sync.arrays _ _ (by decide) (by decide), only.arrays _ _ (by decide) (by decide)]
    exact State.rd_wr_same ..
  · obtain ⟨state, rate, -⟩ := trains_at (s := v) (p := port) (g := fun _ _ => s.rd A.ptSwitch port - 1) (back := false) (m := l) (by rw [lanes]; exact hl)
      fun _ _ => rfl
    rw [lanes] at state rate
    exact ⟨(sync.lane (lanes_lt hl) (by decide)).trans state, (sync.lane (lanes_lt hl) (by decide)).trans rate⟩

theorem wakePort_active {p : Nat} (h : s.rf (PT p) PORT_STATUS_PSTATE = 0) : s.wakePort p = s := if_pos (.inl h)

/-- The port's CHECK after a wake. -/
def State.wokenPort (s : State) (p : Nat) : State := ((s.portSync p).heard p).sendSym p s.checkNow

theorem wakePort_quiet {p : Nat} (h : s.rf (PT p) PORT_STATUS_PSTATE = 1) :
    s.wakePort p = (((s.wf (PT p) PORT_STATUS_PSTATE 0).lanesTo p lnQuiet lnActive).wokenPort p) := by
  refine (if_neg fun bad => ?_).trans (congrArg (State.wokenPort · p) (if_pos h))
  rw [h] at bad
  omega

/-- A DORMANT lane relocks. -/
def State.laneRelocks (p : Nat) (s : State) (l : Nat) : State :=
  if s.laneSt p l = lnDormant then ((s.wr A.lnRelock (4 * p + l) 1).wr A.lnSince (4 * p + l) s.mono).wf (LN p l) LANE_STATUS_STATE lnTrain else s

theorem wakePort_dormant {p : Nat} (h : s.rf (PT p) PORT_STATUS_PSTATE = 2) (hr : ∀ l ∈ s.lanes p, s.on A.lnRelock (4 * p + l) = false) :
    s.wakePort p = (((s.lanes p).foldl (State.laneRelocks p) s).wokenPort p) := by
  refine (if_neg fun bad => ?_).trans (congrArg (State.wokenPort · p) (if_neg (by rw [h]; decide)))
  obtain zero | ⟨-, relock⟩ := bad
  · rw [h] at zero
    cases zero
  · obtain ⟨l, hl, on⟩ := List.any_eq_true.1 relock
    exact Bool.false_ne_true ((hr l hl).symm.trans on)

theorem laneTo_only (p frm dst : Nat) (s : State) (l : Nat) :
    s.LaneOnly p l (if s.laneSt p l = frm then s.wf (LN p l) LANE_STATUS_STATE dst else s) := (State.LaneOnly.refl.wf _ (by decide) _).ite .refl

theorem lanesTo_only (s : State) (p frm dst : Nat) : s.LanesOnly p (s.lanesTo p frm dst) :=
  lanes_foldl (fun _ hl => lanes_lt hl) (laneTo_only p frm dst) s

/-- Every lane of the port that was in the one state is in the other. -/
theorem lanesTo_at {p frm dst l : Nat} (hl : l ∈ s.lanes p) (h : s.laneSt p l = frm) (hd : dst < 8) : (s.lanesTo p frm dst).laneSt p l = dst := by
  obtain ⟨u, same, atTurn⟩ := lanes_at (fun v : State => v.laneSt p l) (laneTo_only p frm dst)
    (fun hj only => only.other hj.symm (by decide)) hl (lanes_nodup s p) s
  refine atTurn.trans ?_
  rw [if_pos (same.trans h)]
  exact (State.rf_wf_same _ _ _ _ (by decide)).trans (Nat.mod_eq_of_lt hd)

theorem laneRelocks_only (p : Nat) (s : State) (l : Nat) : s.LaneOnly p l (s.laneRelocks p l) :=
  (((State.LaneOnly.refl.wr (a := A.lnRelock) (by decide) _ (.inr rfl) _).wr (a := A.lnSince) (by decide) _ (.inr rfl) _).wf _ (by decide) _).ite .refl

theorem laneRelocks_at {p l : Nat} (hl : l ∈ s.lanes p) (h : s.laneSt p l = 4) :
    ((s.lanes p).foldl (State.laneRelocks p) s).laneSt p l = 1 ∧ ((s.lanes p).foldl (State.laneRelocks p) s).rd A.lnRelock (4 * p + l) = 1 ∧
    ((s.lanes p).foldl (State.laneRelocks p) s).rd A.lnSince (4 * p + l) = s.mono := by
  have kept (u : State) (j : Nat) : (u.laneRelocks p j).mono = u.mono := (laneRelocks_only p u j).mono_ns
  obtain ⟨u, same, atTurn⟩ := lanes_at (fun v : State => (v.laneSt p l, v.rd A.lnRelock (4 * p + l), v.rd A.lnSince (4 * p + l), v.mono))
    (laneRelocks_only p) (fun hj only => Prod.ext (only.other hj.symm (by decide)) (Prod.ext
      (only.arrays A.lnRelock _ (by decide) (.inr ⟨by decide, by decide, by omega⟩))
      (Prod.ext (only.arrays A.lnSince _ (by decide) (.inr ⟨by decide, by decide, by omega⟩)) only.mono_ns))) hl (lanes_nodup s p) s
  simp only [Prod.mk.injEq] at same atTurn
  obtain ⟨state, -, -, mono⟩ := same
  obtain ⟨toState, toRelock, toSince, -⟩ := atTurn
  have turn : u.laneRelocks p l = ((u.wr A.lnRelock (4 * p + l) 1).wr A.lnSince (4 * p + l) u.mono).wf (LN p l) LANE_STATUS_STATE lnTrain :=
    if_pos (state.trans h)
  refine ⟨toState.trans ?_, toRelock.trans ?_, toSince.trans ?_⟩ <;> rw [turn]
  · exact State.rf_wf_same _ _ _ _ (by decide)
  · rw [State.rd_wf _ _ _ _ _ _ (by decide), State.rd_wr_arr _ _ _ _ _ _ (by decide)]
    exact State.rd_wr_same ..
  · rw [State.rd_wf _ _ _ _ _ _ (by decide), State.rd_wr_same, mono]
    exact Nat.mod_eq_of_lt (pair_lt s _)

/-! ### What a woken port shows -/

theorem wokenPort_sent (h : s.laneUp port = true) : s.wokenPort port =
    { (s.portSync port).heard port with symOut := (s.portSync port).symOut ++ [⟨port, none, s.checkNow⟩] } :=
  sendSym_up ((heard_portUp ..).trans ((portSync_synced s port).up.trans h)) _

theorem wokenPort_port (h : s.laneUp port = true) (f : Fld) : (s.wokenPort port).rf (PT port) f = (s.portSync port).rf (PT port) f := by
  rw [wokenPort_sent port h]
  exact heard_rf ..

theorem wokenPort_lane (h : s.laneUp port = true) {l : Nat} (hl : l < 4) : (s.wokenPort port).laneSt port l = s.laneSt port l := by
  rw [wokenPort_sent port h]
  exact (heard_rf ..).trans ((portSync_synced s port).lane hl (by decide))

theorem wokenPort_up (h : s.laneUp port = true) : (s.wokenPort port).portUp port = true := by
  rw [State.portUp, wokenPort_port port h]
  exact (portSync_synced s port).up.trans h

theorem wokenPort_pstate (h : s.laneUp port = true) : (s.wokenPort port).rf (PT port) PORT_STATUS_PSTATE = s.rf (PT port) PORT_STATUS_PSTATE :=
  (wokenPort_port port h _).trans ((portSync_synced s port).fields _ rfl (by decide) (by decide))

theorem wokenPort_rd (h : s.laneUp port = true) {a : Arr} (i : Nat) (ha : linkCodes.contains (a.code % 512) = true) (hs : a.code % 512 ≠ 319) :
    (s.wokenPort port).rd a i = s.rd a i := by
  rw [wokenPort_sent port h]
  exact (heard_rd _ _ _ fun e => hs e.symm).trans ((portSync_synced s port).arrays _ _ ha hs)

theorem portSync_mono (s : State) (p : Nat) : (s.portSync p).mono = s.mono := by
  have low (o : Nat) (ho : o < 0x800000) (hl : looseReg o = false) : (s.portSync p).reg o = s.reg o := (portSync_synced s p).regs o hl (by
    simp only [PT, Off.port, Off.die]
    omega)
  simp only [State.mono, State.pair, low oMONO_NS_LO (by decide) (by decide), low (oMONO_NS_LO + 4) (by decide) (by decide)]

theorem wokenPort_seen (h : s.laneUp port = true) : (s.wokenPort port).rd A.ptSeen port = s.mono := by
  rw [wokenPort_sent port h]
  refine (State.rd_wr_same ..).trans ?_
  rw [portSync_mono]
  exact Nat.mod_eq_of_lt (pair_lt s _)

/-- Without a partition that can stop, no member is lost. -/
theorem capacityFell_calm {s : State} (p : Nat) (h : ∀ k < 32, s.stoppable k = false) : s.capacityFell p = s := by
  refine foldl_noop _ _ _ fun k hk => if_neg fun bad => ?_
  obtain ⟨stops, -⟩ := bad
  exact Bool.false_ne_true ((h k (List.mem_range.1 hk)).symm.trans stops)

theorem ratesShown_symOut (s : State) (p : Nat) : (s.ratesShown p).symOut = s.symOut := by
  unfold State.ratesShown
  dsimp only
  split
  · rfl
  · rfl

theorem portSync_silent (hu : s.laneUp port = s.portUp port) (h : ∀ k < 32, s.stoppable k = false) : (s.portSync port).symOut = s.symOut := by
  have calm (k : Nat) (hk : k < 32) : (s.ratesShown port).stoppable k = false := by
    rw [State.stoppable, (ratesShown_status (s := s)).arrays A.pState k (by decide) (by decide)]
    exact h k hk
  rw [portSync_same hu, capacityFell_calm _ calm, ratesShown_symOut]

theorem laneUp_of {p l : Nat} (hl : l ∈ s.lanes p) (h : 2 ≤ s.laneSt p l ∧ s.laneSt p l ≤ 4 ∨ s.rd A.lnRelock (4 * p + l) = 1) : s.laneUp p = true :=
  List.any_eq_true.2 ⟨l, hl, decide_eq_true (h.imp_right fun e => decide_eq_true e)⟩

/-- A port that leaves QUIET (R321, R371). -/
theorem exec_portWake_quiet (hc : s.clocked = true) (hu : s.portUp port = true) (h : s.rf (PT port) PORT_STATUS_PSTATE = 1) (hn : s.lanes port ≠ [])
    (hl : ∀ l ∈ s.lanes port, s.laneSt port l = 3) : Completes (exec (.portWake port) s) fun t =>
      t.rf (PT port) PORT_STATUS_PSTATE = 0 ∧ t.portUp port = true ∧ (∀ l ∈ s.lanes port, t.laneSt port l = 2) ∧ t.rd A.ptSeen port = s.mono ∧
      ((∀ k < 32, s.stoppable k = false) → ∃ c, t.symOut = s.symOut ++ [⟨port, none, .check c⟩]) := by
  let v := s.wf (PT port) PORT_STATUS_PSTATE 0
  let w := v.lanesTo port lnQuiet lnActive
  have lanes : v.lanes port = s.lanes port := by rw [State.lanes, rf_wf_other _ _ _ (by decide), State.lanes]
  have only : v.LanesOnly port w := lanesTo_only ..
  have active (l : Nat) (h : l ∈ s.lanes port) : w.laneSt port l = 2 :=
    lanesTo_at (s := v) (by rw [lanes]; exact h) ((rf_wf_port_lane _ _ _ _ (by decide)).trans (hl l h)) (by decide)
  obtain ⟨l, rest, some⟩ := List.exists_cons_of_ne_nil hn
  have first : l ∈ s.lanes port := some ▸ .head _
  have up : w.laneUp port = true :=
    laneUp_of (by rw [only.lanes, lanes]; exact first) (.inl (by rw [active l first]; decide))
  have mono : w.mono = s.mono := by
    have low (o : Nat) (ho : o < 0x1000) : w.reg o = s.reg o := by
      have far : o < PT port := by
        simp only [PT, Off.port, Off.die]
        omega
      rw [only.regs o (.inl (by omega)) (by omega), State.reg_wf _ _ _ _ _ (by omega)]
    simp only [State.mono, State.pair, low oMONO_NS_LO (by decide), low (oMONO_NS_LO + 4) (by decide)]
  refine ⟨w.wokenPort port, (live_next hc fun s => s.wakePort port).trans (congrArg Host.Outcome.next (wakePort_quiet h)), ?_, wokenPort_up port up,
    fun l hm => (wokenPort_lane port up (lanes_lt hm)).trans (active l hm), (wokenPort_seen port up).trans mono, fun none => ?_⟩
  · rw [wokenPort_pstate port up, only.port (by decide) (by decide)]
    exact State.rf_wf_same _ _ _ _ (by decide)
  · have stays : w.laneUp port = w.portUp port := by
      rw [up, State.portUp, only.port (by decide) (by decide), rf_wf_other _ _ _ (by decide)]
      exact hu.symm
    have calm (k : Nat) (hk : k < 32) : w.stoppable k = false := by
      rw [State.stoppable, only.arrays A.pState k (by decide) (by decide), State.rd_wf _ _ _ _ _ _ (by decide)]
      exact none k hk
    refine ⟨w.timeNs % 2 ^ 48, ?_⟩
    rw [wokenPort_sent port up]
    exact congrArg (· ++ [⟨port.val, .none, w.checkNow⟩]) ((portSync_silent port stays calm).trans only.symOut)

/-- A port that leaves DORMANT relocks (R321). -/
theorem exec_portWake_dormant (hc : s.clocked = true) (h : s.rf (PT port) PORT_STATUS_PSTATE = 2) (hn : s.lanes port ≠ [])
    (hl : ∀ l ∈ s.lanes port, s.laneSt port l = 4) (hr : ∀ l ∈ s.lanes port, s.on A.lnRelock (4 * port + l) = false) :
    Completes (exec (.portWake port) s) fun t => t.rf (PT port) PORT_STATUS_PSTATE = 2 ∧ t.portUp port = true ∧
      ∀ l ∈ s.lanes port, t.laneSt port l = 1 ∧ t.on A.lnRelock (4 * port + l) = true ∧ t.rd A.lnSince (4 * port + l) = s.mono := by
  let w := (s.lanes port).foldl (State.laneRelocks port) s
  have only : s.LanesOnly port w := lanes_foldl (fun _ hl => lanes_lt hl) (laneRelocks_only port) s
  obtain ⟨l, rest, some⟩ := List.exists_cons_of_ne_nil hn
  have first : l ∈ s.lanes port := some ▸ .head _
  have up : w.laneUp port = true :=
    laneUp_of (by rw [only.lanes]; exact first) (.inr (laneRelocks_at first (hl l first)).2.1)
  refine ⟨w.wokenPort port, (live_next hc fun s => s.wakePort port).trans (congrArg Host.Outcome.next (wakePort_dormant h hr)), ?_, wokenPort_up port up,
    fun l hm => ?_⟩
  · rw [wokenPort_pstate port up, only.port (by decide) (by decide)]
    exact h
  · obtain ⟨state, relock, since⟩ := laneRelocks_at hm (hl l hm)
    refine ⟨(wokenPort_lane port up (lanes_lt hm)).trans state, decide_eq_true ?_, (wokenPort_rd port up _ (by decide) (by decide)).trans since⟩
    exact (wokenPort_rd port up _ (by decide) (by decide)).trans relock

end changes

end Sys2Proof.Machine

/-! CERTIFICATE. Blocks that arrive on a lane, and the obligation on rates and blocks of links (chapter 13, R296 to R301). -/

namespace Sys2Proof.Machine

open Reg

section blocks
variable {s : State} (port : Fin 16) (lane : Fin 4)

theorem exec_skinkBlock (hc : s.clocked = true) (bits : BitVec 280) (replay : Bool) : exec (.skinkBlock port lane bits replay) s =
    .next (if s.rf (LN port lane) LANE_STATUS_BLK_LOCK = 0 then s
      else if s.rf (LN port lane) LANE_STATUS_RATE < 3 then s.nrzBlock port lane (bits.toNat % 2 ^ 257) replay
      else s.pamBlock port lane bits.toNat) :=
  live_next hc fun s => if s.rf (LN port lane) LANE_STATUS_BLK_LOCK = 0 then s
    else if s.rf (LN port lane) LANE_STATUS_RATE < 3 then s.nrzBlock port lane (bits.toNat % 2 ^ 257) replay
    else s.pamBlock port lane bits.toNat

theorem exec_skinkBlock_nrz (hc : s.clocked = true) (hb : s.rf (LN port lane) LANE_STATUS_BLK_LOCK = 1) (hr : s.rf (LN port lane) LANE_STATUS_RATE < 3)
    (bits : BitVec 280) : exec (.skinkBlock port lane bits false) s = .next (s.nrzBlock port lane (bits.toNat % 2 ^ 257) false) := by
  rw [exec_skinkBlock port lane hc, if_neg (by rw [hb]; decide), if_pos hr]

theorem exec_skinkBlock_pam (hc : s.clocked = true) (hb : s.rf (LN port lane) LANE_STATUS_BLK_LOCK = 1) (hr : ¬ s.rf (LN port lane) LANE_STATUS_RATE < 3)
    (bits : BitVec 280) : exec (.skinkBlock port lane bits false) s = .next (s.pamBlock port lane bits.toNat) := by
  rw [exec_skinkBlock port lane hc, if_neg (by rw [hb]; decide), if_neg hr]

/-- Without a replay that is awaited, a block whose CRC is wrong is counted, and a NAK names it. -/
theorem nrzBlock_wrong (hn : s.rd A.lnNak (4 * port + lane) = 0) {c : Nat} (h : blockCrc c ≠ slice c 0 32) : s.nrzBlock port lane c false =
    { (((s.cnt (LN port lane) LANE_ERR_CORRECTED 1).wr A.lnNak (4 * port + lane) (1 + s.blockNo (4 * port + lane))).wr A.lnFails (4 * port + lane) 0) with
      symOut := s.symOut ++ [⟨port, some lane.val, .nak (s.blockNo (4 * port + lane))⟩] } := by
  refine (if_neg fun bad => bad.1 hn).trans ((if_neg h).trans ?_)
  dsimp only
  rw [if_pos hn, if_pos hn, if_neg (by decide)]
  rfl

theorem nrzBlock_right (hn : s.rd A.lnNak (4 * port + lane) = 0) {c : Nat} (h : blockCrc c = slice c 0 32) : s.nrzBlock port lane c false =
    ((s.wr A.lnNak (4 * port + lane) 0).wr A.lnFails (4 * port + lane) 0).blockIn port lane c :=
  (if_neg fun bad => bad.1 hn).trans (if_pos h)

/-- A MARKER begins a superframe. -/
theorem blockIn_marker {c : Nat} (hk : slice c 256 1 = 1) (hm : slice c 248 8 = 1) (hp : s.rd A.ptPs port = 0) : s.blockIn port lane c =
    (s.wr A.lnSeq (4 * port + lane) (slice c 232 16)).wr A.lnSlot (4 * port + lane) 1 := by
  refine (if_pos hk).trans ((if_pos hm).trans (if_pos ?_))
  rw [State.rd_wr_arr _ _ _ _ _ _ (by decide), State.rd_wr_arr _ _ _ _ _ _ (by decide), hp]

/-- A block that is no MARKER takes its slot. -/
theorem blockIn_slot {c : Nat} (hk : slice c 256 1 = 0) : s.blockIn port lane c =
    if ¬ serviceSlot (s.rf (LN port lane) LANE_STATUS_RATE) (s.rd A.lnSlot (4 * port + lane)) then
      (s.wr A.lnSlot (4 * port + lane) (s.rd A.lnSlot (4 * port + lane) + 1)).mortarBlock port lane (s.rd A.lnSlot (4 * port + lane)) c
    else if slice c 248 8 = 2 then (s.wr A.lnSlot (4 * port + lane) (s.rd A.lnSlot (4 * port + lane) + 1)).symbols port lane c
    else if slice c 248 8 = 3 ∧ (s.wr A.lnSlot (4 * port + lane) (s.rd A.lnSlot (4 * port + lane) + 1)).rf (PT port) PORT_STATUS_PEER_VALID = 0 then
      (s.wr A.lnSlot (4 * port + lane) (s.rd A.lnSlot (4 * port + lane) + 1)).cnt (D (port / 2)) CN_ERR_BRIDGE_DROP 1
    else s.wr A.lnSlot (4 * port + lane) (s.rd A.lnSlot (4 * port + lane) + 1) := if_neg (by rw [hk]; decide)

/-- The block that comes in order on a lane: no NAK of it waits. -/
def State.laneSound (s : State) (x : Nat) : State := (s.wr A.lnNak x 0).wr A.lnFails x 0

theorem laneSound_rd (s : State) (x i : Nat) {a : Arr} (h : ¬ A.lnNak.code % 512 = a.code % 512) (h' : ¬ A.lnFails.code % 512 = a.code % 512) :
    (s.laneSound x).rd a i = s.rd a i := (State.rd_wr_arr _ _ _ _ _ _ h').trans (State.rd_wr_arr _ _ _ _ _ _ h)

theorem laneSound_rf (s : State) (x b : Nat) (f : Fld) : (s.laneSound x).rf b f = s.rf b f :=
  (State.rf_wr _ A.lnFails _ _ _ _ (by decide)).trans (State.rf_wr _ A.lnNak _ _ _ _ (by decide))

/-- A block other than a MARKER in the lane's next slot, `u` the state with that slot passed. -/
theorem blockIn_sound {c : Nat} (hk : slice c 256 1 = 0) {u : State}
    (hu : u = (s.laneSound (4 * port + lane)).wr A.lnSlot (4 * port + lane) (s.rd A.lnSlot (4 * port + lane) + 1)) :
    (s.laneSound (4 * port + lane)).blockIn port lane c =
      if ¬ serviceSlot (s.rf (LN port lane) LANE_STATUS_RATE) (s.rd A.lnSlot (4 * port + lane)) then
        u.mortarBlock port lane (s.rd A.lnSlot (4 * port + lane)) c
      else if slice c 248 8 = 2 then u.symbols port lane c
      else if slice c 248 8 = 3 ∧ u.rf (PT port) PORT_STATUS_PEER_VALID = 0 then u.cnt (D (port / 2)) CN_ERR_BRIDGE_DROP 1
      else u := by
  rw [hu, blockIn_slot port lane hk, laneSound_rd _ _ _ (by decide) (by decide), laneSound_rf]

theorem pamBlock_wrong {c : Nat} (h : rsDecode c = none) : s.pamBlock port lane c = (s.cnt (LN port lane) LANE_ERR_UNCORR 1).portDown port := by
  rw [State.pamBlock, h]

theorem pamBlock_decoded {c w : Nat} {fixed : Bool} (h : rsDecode c = some (w, fixed)) : s.pamBlock port lane c =
    (if fixed then s.cnt (LN port lane) LANE_ERR_CORRECTED 1 else s).blockIn port lane (w % 2 ^ 257) := by
  rw [State.pamBlock, h]

end blocks

/-- Settles O37: each clause is the equation of one operation; what the ports and lanes show after a change of UP is said once, by `portSync_synced`. -/
theorem linkRatesAndBlocks : Obligations.LinkRatesAndBlocks := by
  refine ⟨?_, ?_⟩
  · intro s who port val rate st p d r ps heard no send
    refine ⟨fun hs => ⟨fun hp => ⟨?_, ?_⟩, fun hp hu => ⟨?_, fun h hn => ?_, fun h hn => ?_, fun h => ?_, fun h => ?_⟩⟩, fun hc hu => ⟨fun h => ?_, fun h => ?_,
      fun h => ⟨exec_rateAck port hc rate h true, exec_rateAck port hc rate h false⟩, exec_rateAck_ignored port hc rate, exec_rateSwitch port hc,
      fun h => ⟨fun hn => ?_, fun hn => ?_⟩, exec_pstate_refusal port hc st, exec_pstate_ignored port hc st, fun h => ?_, exec_portWake_quiet port hc hu,
      exec_portWake_dormant port hc⟩⟩
    · rw [exec_rateReqSend hs, if_neg (Bool.eq_false_iff.1 hp), State.deny]
    · rw [exec_pstateRequest hs, if_neg (Bool.eq_false_iff.1 hp), State.deny]
    · rw [exec_rateReqSend hs, if_pos hp, rateAsk_sent hu, State.okay]
    · rw [exec_pstateRequest hs, if_pos hp, psAsk_refused hu h hn, State.okay]
    · rw [exec_pstateRequest hs, if_pos hp, psAsk_sent hu h hn, State.okay]
    · rw [exec_pstateRequest hs, if_pos hp, show slice val.toNat 4 2 = 3 from h, psAsk_reserved, State.okay]
    · rw [exec_pstateRequest hs, if_pos hp, show slice val.toNat 4 2 = 0 from h, psAsk_wake, State.okay]
    · exact exec_rateReq_refused port hc hu rate (rateRefused_iff (s := s) _ _ |>.2 h)
    · exact exec_rateReq_taken port hc hu rate (Bool.eq_false_iff.2 fun bad => h (rateRefused_iff (s := s) _ _ |>.1 bad))
    · rw [exec_pstate_asked port hc hu st h, if_pos hn]
    · rw [exec_pstate_asked port hc hu st h, if_neg (Bool.eq_false_iff.1 hn)]
    · exact (live_next hc fun s => s.wakePort port).trans (congrArg Host.Outcome.next (wakePort_active h))
  · intro s port lane bits p b x c slot no marker nrz go hc
    refine ⟨fun h => (exec_skinkBlock port lane hc bits false).trans (congrArg Host.Outcome.next (if_pos h)), fun hb => ⟨fun hr hn h => ?_,
      fun hr hn h hm hp => ?_, fun hr hn h hk u hu => ⟨fun hs => ?_, fun hs => ⟨fun hk2 => ?_, fun h2 h3 => ?_⟩⟩, fun hr h => ?_, fun hr w fixed h hk hm hp => ?_⟩⟩
    · exact (exec_skinkBlock_nrz port lane hc hb hr bits).trans (congrArg Host.Outcome.next (nrzBlock_wrong port lane hn h))
    · refine (exec_skinkBlock_nrz port lane hc hb hr bits).trans (congrArg Host.Outcome.next ((nrzBlock_right port lane hn h).trans ?_))
      exact blockIn_marker port lane (slice_one_iff.2 hm.1) hm.2 ((laneSound_rd s _ _ (by decide) (by decide)).trans hp)
    · refine (exec_skinkBlock_nrz port lane hc hb hr bits).trans (congrArg Host.Outcome.next ((nrzBlock_right port lane hn h).trans ?_))
      exact (blockIn_sound port lane (slice_zero_iff.2 hk) hu).trans (if_pos (Bool.eq_false_iff.1 hs))
    · refine (exec_skinkBlock_nrz port lane hc hb hr bits).trans (congrArg Host.Outcome.next ((nrzBlock_right port lane hn h).trans ?_))
      exact (blockIn_sound port lane (slice_zero_iff.2 hk) hu).trans ((if_neg (not_not_intro hs)).trans (if_pos hk2))
    · refine (exec_skinkBlock_nrz port lane hc hb hr bits).trans (congrArg Host.Outcome.next ((nrzBlock_right port lane hn h).trans ?_))
      exact (blockIn_sound port lane (slice_zero_iff.2 hk) hu).trans ((if_neg (not_not_intro hs)).trans ((if_neg h2).trans (if_neg fun bad => h3 bad.1)))
    · exact (exec_skinkBlock_pam port lane hc hb hr bits).trans (congrArg Host.Outcome.next (pamBlock_wrong port lane h))
    · refine (exec_skinkBlock_pam port lane hc hb hr bits).trans (congrArg Host.Outcome.next ((pamBlock_decoded port lane h).trans ?_))
      refine blockIn_marker port lane hk hm ?_
      split
      · exact (State.rd_wf _ _ _ _ _ _ (by decide)).trans hp
      · exact hp

end Sys2Proof.Machine

/-! CERTIFICATE. Performance levels (chapter 18, R418 to R421). -/

namespace Sys2Proof.Machine

open Reg

/-! ### Requests (R418, R419) -/

/-- Supply of a level, as a chain of cases. -/
theorem levelMv_eq (l : Nat) : levelMv l = if l = 0 then 850 else if l = 1 then 750 else if l = 2 then 680 else 620 := by
  match l with
  | 0 => rfl
  | 1 => rfl
  | 2 => rfl
  | n + 3 => rfl

theorem levelMv_lt (l : Nat) : levelMv l < 2 ^ 12 := by
  rw [levelMv_eq]
  split
  · decide
  · split
    · decide
    · split <;> decide

theorem mem_stepping {s : State} {k : Nat} : k ∈ s.stepping ↔ k < 32 ∧ s.stoppable k = true := List.mem_filter.trans (and_congr_left fun _ => List.mem_range)

section request
variable {s : State} {who : Who}

theorem exec_plChangeRequest (hs : s.Serving who) (target : BitVec 2) : exec (.plChangeRequest who target) s = .next (s.plAsk who target.toNat) :=
  access_next hs _ fun s => s.plAsk who target.toNat

theorem exec_voltDone (hs : s.Serving who) : exec (.voltDone who) s = .next (if s.pfRights who then s.voltAck.okay else s.deny) :=
  access_next hs _ fun s => if s.pfRights who then s.voltAck.okay else s.deny

theorem plAsk_denied (h : s.pfRights who = false) (t : Nat) : s.plAsk who t = (s.wf 0 PL_CTRL_RESULT 2).ans 1 0 := by
  have check : s.plCheck who t = 2 := if_pos (Bool.eq_false_iff.1 h)
  unfold State.plAsk
  dsimp only
  rw [check, if_pos rfl, State.deny]

theorem resulted_level (r : Nat) : (s.wf 0 PL_CTRL_RESULT r).level = s.level := rf_wf_other _ _ _ (by decide)

/-- A request that is refused, or that asks for the level at hand. -/
theorem plAsk_shown {t r : Nat} (h : s.plCheck who t = r) (h2 : r ≠ 2) (hr : r ≠ 0 ∨ t = s.level) : s.plAsk who t = (s.wf 0 PL_CTRL_RESULT r).ans 0 0 := by
  unfold State.plAsk
  dsimp only
  rw [h, if_neg h2, resulted_level, if_pos hr, State.okay]

/-- The refusals of R419 in their order, for an initiator with the physical function's rights. -/
theorem plCheck_asleep (hp : s.pfRights who = true) (h : s.rf 0 PWR_CTRL_BUSY = 1 ∨ s.rf 0 PWR_STATUS_STATE ≠ 0) (t : Nat) : s.plCheck who t = 5 :=
  (if_neg (not_not_intro hp)).trans (if_pos h)

theorem plCheck_awake (hp : s.pfRights who = true) (hb : s.rf 0 PWR_CTRL_BUSY = 0) (hs : s.rf 0 PWR_STATUS_STATE = 0) (t : Nat) : s.plCheck who t =
    if s.rd A.plPhase 0 ≠ 0 then 1 else if t = s.level then 0
    else if (List.range 32).any fun k => s.loaded k ∧ t < s.rd A.pMinPl k then 3
    else if s.stepping.any fun k => (s.wf 0 PL_STATUS_LEVEL t).capacityShort k then 4 else 0 := by
  refine (if_neg (not_not_intro hp)).trans (if_neg fun bad => ?_)
  rw [hb, hs] at bad
  omega

variable {t : Nat}

theorem plLow_iff : ((List.range 32).any fun k => s.loaded k ∧ t < s.rd A.pMinPl k) = true ↔ ∃ k < 32, s.loaded k = true ∧ t < s.rd A.pMinPl k := by
  rw [List.any_eq_true]
  exact exists_congr fun k => and_congr List.mem_range decide_eq_true_iff

theorem plShort_iff : (s.stepping.any fun k => (s.wf 0 PL_STATUS_LEVEL t).capacityShort k) = true ↔
    ∃ k < 32, s.stoppable k = true ∧ (s.wf 0 PL_STATUS_LEVEL t).capacityShort k = true := by
  rw [List.any_eq_true]
  exact exists_congr fun k => (and_congr_left fun _ => mem_stepping).trans and_assoc

/-! ### A change begins (R420) -/

theorem causes6_calm (l : List Nat) (s : State) : s.Calm plumbCodes (l.foldl (fun s k => s.addCause k 6) s) := by
  refine calm_foldl ?_ l s
  intro u k
  exact addCause_calm ..

theorem causes6_has {l : List Nat} {k : Nat} (h : k ∈ l ∨ s.hasCause k 6 = true) : (l.foldl (fun s k => s.addCause k 6) s).hasCause k 6 = true := by
  induction l generalizing s with
  | nil => exact h.resolve_left List.not_mem_nil
  | cons j r ih =>
    refine ih ?_
    rw [addCause_hasCause, Bool.or_eq_true, decide_eq_true_iff, Prod.mk.injEq]
    obtain mem | has := h
    · obtain rfl | rest := List.mem_cons.1 mem
      · exact .inr (.inr ⟨rfl, rfl⟩)
      · exact .inl rest
    · exact .inr (.inl has)

/-- The registers and the phase of a change that begins. -/
def State.plBegun (s : State) (t : Nat) : State := (((s.wf 0 PL_CTRL_RESULT 0).wf 0 PL_CTRL_BUSY 1).wf 0 PL_STATUS_PENDING t).wr A.plPhase 0 1

theorem plBegun_stoppable (k : Nat) : (s.plBegun t).stoppable k = s.stoppable k := by
  have same : (s.plBegun t).rd A.pState k = s.rd A.pState k := by
    rw [State.plBegun, State.rd_wr_arr _ _ _ _ _ _ (by decide), State.rd_wf _ _ _ _ _ _ (by decide), State.rd_wf _ _ _ _ _ _ (by decide),
      State.rd_wf _ _ _ _ _ _ (by decide)]
  rw [State.stoppable, same, State.stoppable]

theorem plAsk_begins (h : s.plCheck who t = 0) (ht : t ≠ s.level) : s.plAsk who t =
    ((s.plBegun t).stepping.foldl (fun s k => s.addCause k 6) (s.plBegun t)).okay := by
  unfold State.plAsk
  dsimp only
  rw [h, if_neg (by decide), resulted_level, if_neg fun bad => bad.elim (fun no => no rfl) ht]
  rfl

theorem plAsk_begun (h : s.plCheck who t = 0) (ht : t ≠ s.level) (h4 : t < 4) :
    (s.plAsk who t).rf 0 PL_CTRL_BUSY = 1 ∧ (s.plAsk who t).rf 0 PL_CTRL_RESULT = 0 ∧ (s.plAsk who t).rf 0 PL_STATUS_PENDING = t ∧
    (s.plAsk who t).rf 0 PL_STATUS_LEVEL = s.rf 0 PL_STATUS_LEVEL ∧ (s.plAsk who t).rd A.plPhase 0 = 1 ∧
    (∀ k < 32, s.stoppable k = true → (s.plAsk who t).hasCause k 6 = true) ∧ (s.plAsk who t).rsp = ⟨0, 0, 0⟩ ∧ (s.plAsk who t).mem = s.mem := by
  rw [plAsk_begins h ht]
  have calm := causes6_calm (s.plBegun t).stepping (s.plBegun t)
  have low (f : Fld) (hf : f.off < 0x1000) : ((s.plBegun t).stepping.foldl (fun s k => s.addCause k 6) (s.plBegun t)).okay.rf 0 f = (s.plBegun t).rf 0 f :=
    congrArg (fun v => slice v f.lo f.w) (calm.low (0 + f.off) (by omega))
  have regs (f : Fld) : (s.plBegun t).rf 0 f = (((s.wf 0 PL_CTRL_RESULT 0).wf 0 PL_CTRL_BUSY 1).wf 0 PL_STATUS_PENDING t).rf 0 f :=
    State.rf_wr _ A.plPhase _ _ _ _ (by decide)
  refine ⟨?_, ?_, ?_, ?_, ?_, fun k hk hs => ?_, rfl, ?_⟩
  · rw [low _ (by decide), regs, rf_wf_other _ _ _ (by decide)]
    exact State.rf_wf_same _ _ _ _ (by decide)
  · rw [low _ (by decide), regs, rf_wf_other _ _ _ (by decide), rf_wf_other _ _ _ (by decide)]
    exact State.rf_wf_same _ _ _ _ (by decide)
  · rw [low _ (by decide), regs, State.rf_wf_same _ _ _ _ (by decide)]
    exact Nat.mod_eq_of_lt h4
  · rw [low _ (by decide), regs, rf_wf_other _ _ _ (by decide), rf_wf_other _ _ _ (by decide), rf_wf_other _ _ _ (by decide)]
  · exact (calm.only.rd A.plPhase 0 (by decide)).trans (State.rd_wr_same ..)
  · exact causes6_has (.inl (mem_stepping.2 ⟨hk, (plBegun_stoppable k).trans hs⟩))
  · exact (mem_ans ..).trans (mem_of_core calm.core)

/-! ### VOLT_DONE -/

theorem voltAck_none (h : s.rf 0 PL_STATUS_VOLT_REQ = 0) : s.voltAck = s := if_pos h

theorem voltAck_taken (h : s.rf 0 PL_STATUS_VOLT_REQ = 1) : s.voltAck =
    if s.rd A.plPhase 0 = 2 then (s.wf 0 PL_STATUS_VOLT_REQ 0).wr A.plPhase 0 3 else s.wf 0 PL_STATUS_VOLT_REQ 0 := by
  refine (if_neg (by rw [h]; decide)).trans ?_
  dsimp only
  rw [State.rd_wf _ _ _ _ _ _ (by decide)]

end request

/-! ### The steps of a change (R420) -/

section steps
variable {s : State}

theorem exec_plChangeFrozen (hc : s.clocked = true) : exec .plChangeFrozen s =
    .next (if s.rd A.plPhase 0 ≠ 1 ∨ ¬ s.plFrozen then s
      else if s.rf 0 PL_STATUS_PENDING < s.level then
        (((s.voltReq (s.rf 0 PL_STATUS_PENDING)).raise evtPower).wr A.plPhase 0 2).wr A.voltAt 0 s.mono
      else s.wr A.plPhase 0 3) :=
  live_next hc fun s => if s.rd A.plPhase 0 ≠ 1 ∨ ¬ s.plFrozen then s
    else if s.rf 0 PL_STATUS_PENDING < s.level then
      (((s.voltReq (s.rf 0 PL_STATUS_PENDING)).raise evtPower).wr A.plPhase 0 2).wr A.voltAt 0 s.mono
    else s.wr A.plPhase 0 3

theorem voltReq_eq (l : Nat) : s.voltReq l =
    (s.wf 0 PL_STATUS_VOLT_REQ 1).wf 0 PL_STATUS_VOLT_MV (if l = 0 then 850 else if l = 1 then 750 else if l = 2 then 680 else 620) := by
  rw [State.voltReq, levelMv_eq]

theorem plFrozen_running {k : Nat} (hk : k < 32) (h : s.rd A.pState k = 2) : ¬ s.plFrozen = true := fun bad => by
  obtain ⟨all, -⟩ := of_decide_eq_true bad
  have held := of_decide_eq_true (List.all_eq_true.1 all k (mem_stepping.2 ⟨hk, decide_eq_true (.inl h)⟩))
  rw [h] at held
  cases held

theorem plFrozen_all (h : ∀ k < 32, s.rd A.pState k ≠ 2) (hf : s.flight = []) : s.plFrozen = true := by
  refine decide_eq_true ⟨List.all_eq_true.2 fun k hk => decide_eq_true ?_, ?_⟩
  · obtain ⟨lt, stops⟩ := mem_stepping.1 hk
    exact (of_decide_eq_true stops).resolve_left (h k lt)
  · rw [hf]
    exact Bool.false_ne_true

/-! ### A change ends -/

theorem State.LinkStill.hasCause {t : State} (h : s.LinkStill t) {k c : Nat} (has : t.hasCause k c = true) : s.hasCause k c = true :=
  List.contains_iff_mem.2 (h.causes _ (List.contains_iff_mem.1 has))


theorem dropCauses_still (s : State) : s.LinkStill (s.each 32 fun s k => s.dropCause k 6) := still_each (fun u k _ => dropCause_still u k 6) s

theorem dropCauses_gone {l : List Nat} {k : Nat} (h : k ∈ l ∨ s.hasCause k 6 = false) : (l.foldl (fun s k => s.dropCause k 6) s).hasCause k 6 = false := by
  induction l generalizing s with
  | nil => exact h.resolve_left List.not_mem_nil
  | cons j r ih =>
    refine ih ?_
    obtain mem | none := h
    · obtain rfl | rest := List.mem_cons.1 mem
      · refine .inr ?_
        rw [dropCause_hasCause, decide_eq_false (not_not_intro rfl), Bool.and_false]
      · exact .inl rest
    · refine .inr ?_
      rw [dropCause_hasCause, none, Bool.false_and]

/-- The registers and the phase of a change that has ended with `r`. -/
def State.plOver (s : State) (r : Nat) : State := ((s.wf 0 PL_CTRL_BUSY 0).wf 0 PL_CTRL_RESULT r).wr A.plPhase 0 0

/-- A change that no warm reset waits for: what it leaves as it was, and that no partition is held for it any more. -/
theorem plEnd_still (h : s.on A.warmWait 0 = false) (r : Nat) : (s.plOver r).LinkStill (s.plEnd r) ∧ ∀ k < 32, (s.plEnd r).hasCause k 6 = false := by
  generalize hv : ((s.plOver r).each 32 fun s k => s.dropCause k 6) = v
  have dropped : (s.plOver r).LinkStill v := hv ▸ dropCauses_still _
  have fell : v.LinkStill (v.each 16 State.capacityFell) := still_each (fun u p _ => capacityFell_still u p) v
  have waits : (v.each 16 State.capacityFell).on A.warmWait 0 = false := by
    rw [State.on, (dropped.trans fell).arrays A.warmWait 0 (by decide), State.plOver, State.rd_wr_arr _ _ _ _ _ _ (by decide),
      State.rd_wf _ _ _ _ _ _ (by decide), State.rd_wf _ _ _ _ _ _ (by decide)]
    exact h
  have ends : s.plEnd r = v.each 16 State.capacityFell := by
    unfold State.plEnd
    dsimp only
    rw [State.plOver] at hv
    rw [hv, if_neg (Bool.eq_false_iff.1 waits)]
  rw [ends]
  refine ⟨dropped.trans fell, fun k hk => Bool.eq_false_iff.2 fun has => ?_⟩
  have gone : v.hasCause k 6 = false := by
    rw [← hv]
    exact dropCauses_gone (l := List.range 32) (.inl (List.mem_range.2 hk))
  exact Bool.false_ne_true (gone.symm.trans (fell.hasCause has))

theorem State.LinkStill.device {t : State} (h : s.LinkStill t) {f : Fld} (hf : looseReg (0 + f.off) = false) : t.rf 0 f = s.rf 0 f :=
  congrArg (fun v => slice v f.lo f.w) (h.regs _ hf)

theorem plEnd_ended (h : s.on A.warmWait 0 = false) {r : Nat} (hr : r < 8) : (s.plEnd r).rf 0 PL_CTRL_BUSY = 0 ∧ (s.plEnd r).rf 0 PL_CTRL_RESULT = r ∧
    (s.plEnd r).rd A.plPhase 0 = 0 ∧ (∀ k < 32, (s.plEnd r).hasCause k 6 = false) ∧ (s.plEnd r).mem = s.mem := by
  obtain ⟨still, gone⟩ := plEnd_still h r
  have regs (f : Fld) : (s.plOver r).rf 0 f = ((s.wf 0 PL_CTRL_BUSY 0).wf 0 PL_CTRL_RESULT r).rf 0 f := State.rf_wr _ A.plPhase _ _ _ _ (by decide)
  refine ⟨?_, ?_, ?_, gone, still.mem⟩
  · rw [still.device (by decide), regs, rf_wf_other _ _ _ (by decide)]
    exact State.rf_wf_same _ _ _ _ (by decide)
  · rw [still.device (by decide), regs, State.rf_wf_same _ _ _ _ (by decide)]
    exact Nat.mod_eq_of_lt hr
  · exact (still.arrays _ _ (by decide)).trans (State.rd_wr_same ..)

/-- The end of a change leaves PL_STATUS as it is. -/
theorem plEnd_status (h : s.on A.warmWait 0 = false) (r : Nat) {f : Fld} (hf : looseReg (0 + f.off) = false) (hb : PL_CTRL_BUSY.apart f = true)
    (hr : PL_CTRL_RESULT.apart f = true) : (s.plEnd r).rf 0 f = s.rf 0 f := by
  rw [(plEnd_still h r).1.device hf, State.plOver, State.rf_wr _ A.plPhase _ _ _ _ (by decide), rf_wf_other _ _ _ hr, rf_wf_other _ _ _ hb]

theorem exec_voltageTimeout (hc : s.clocked = true) : exec .voltageTimeout s =
    .next (if s.rd A.plPhase 0 = 2 ∧ s.rd A.voltAt 0 + 1000000 ≤ s.mono then
      ((s.wf 0 PL_STATUS_VOLT_REQ 0).wf 0 PL_STATUS_VOLT_MV (levelMv s.level)).plEnd 6 else s) :=
  live_next hc fun s => if s.rd A.plPhase 0 = 2 ∧ s.rd A.voltAt 0 + 1000000 ≤ s.mono then
    ((s.wf 0 PL_STATUS_VOLT_REQ 0).wf 0 PL_STATUS_VOLT_MV (levelMv s.level)).plEnd 6 else s

/-- The supply of the level in force is asked for again, without an answer (R420). -/
theorem voltageTimeout_reads (h : s.on A.warmWait 0 = false) {t : State}
    (ht : t = ((s.wf 0 PL_STATUS_VOLT_REQ 0).wf 0 PL_STATUS_VOLT_MV (levelMv s.level)).plEnd 6) :
    (t.rf 0 PL_CTRL_BUSY = 0 ∧ t.rf 0 PL_CTRL_RESULT = 6 ∧ t.rd A.plPhase 0 = 0 ∧ (∀ k < 32, t.hasCause k 6 = false) ∧ t.mem = s.mem) ∧
    t.rf 0 PL_STATUS_VOLT_REQ = 0 ∧ t.rf 0 PL_STATUS_VOLT_MV = levelMv s.level ∧ t.rf 0 PL_STATUS_LEVEL = s.level := by
  have waits : ((s.wf 0 PL_STATUS_VOLT_REQ 0).wf 0 PL_STATUS_VOLT_MV (levelMv s.level)).on A.warmWait 0 = false := by
    rw [State.on, State.rd_wf _ _ _ _ _ _ (by decide), State.rd_wf _ _ _ _ _ _ (by decide)]
    exact h
  obtain ⟨busy, result, phase, causes, mem⟩ := plEnd_ended waits (show 6 < 8 by decide)
  rw [ht]
  refine ⟨⟨busy, result, phase, causes, mem⟩, ?_, ?_, ?_⟩
  · rw [plEnd_status waits _ (by decide) (by decide) (by decide), rf_wf_other _ _ _ (by decide)]
    exact State.rf_wf_same _ _ _ _ (by decide)
  · rw [plEnd_status waits _ (by decide) (by decide) (by decide), State.rf_wf_same _ _ _ _ (by decide)]
    exact Nat.mod_eq_of_lt (levelMv_lt _)
  · rw [plEnd_status waits _ (by decide) (by decide) (by decide), rf_wf_other _ _ _ (by decide), rf_wf_other _ _ _ (by decide), State.level]

/-- The level that the PLLs have locked to, with a lower supply asked for after a slower one. -/
def State.plLocked (s : State) : State :=
  (if s.level < s.rf 0 PL_STATUS_PENDING then s.voltReq (s.rf 0 PL_STATUS_PENDING) else s).wf 0 PL_STATUS_LEVEL (s.rf 0 PL_STATUS_PENDING)

theorem exec_pllRelock (hc : s.clocked = true) : exec .pllRelock s = .next (if s.rd A.plPhase 0 ≠ 3 then s else s.plLocked.plEnd 0) :=
  live_next hc fun s => if s.rd A.plPhase 0 ≠ 3 then s else s.plLocked.plEnd 0

theorem plLocked_slower (h : s.level < s.rf 0 PL_STATUS_PENDING) : s.plLocked =
    (s.voltReq (s.rf 0 PL_STATUS_PENDING)).wf 0 PL_STATUS_LEVEL (s.rf 0 PL_STATUS_PENDING) := by rw [State.plLocked, if_pos h]

theorem plLocked_faster (h : ¬ s.level < s.rf 0 PL_STATUS_PENDING) : s.plLocked = s.wf 0 PL_STATUS_LEVEL (s.rf 0 PL_STATUS_PENDING) := by
  rw [State.plLocked, if_neg h]

theorem plLocked_waits (h : s.on A.warmWait 0 = false) : s.plLocked.on A.warmWait 0 = false := by
  rw [State.on, State.plLocked, State.rd_wf _ _ _ _ _ _ (by decide)]
  split
  · rw [State.voltReq, State.rd_wf _ _ _ _ _ _ (by decide), State.rd_wf _ _ _ _ _ _ (by decide)]
    exact h
  · exact h

theorem plLocked_mem : s.plLocked.mem = s.mem := by
  rw [State.plLocked]
  split <;> rfl

theorem pllRelock_reads (h : s.on A.warmWait 0 = false) : 
    ((s.plLocked.plEnd 0).rf 0 PL_CTRL_BUSY = 0 ∧ (s.plLocked.plEnd 0).rf 0 PL_CTRL_RESULT = 0 ∧ (s.plLocked.plEnd 0).rd A.plPhase 0 = 0 ∧
      (∀ k < 32, (s.plLocked.plEnd 0).hasCause k 6 = false) ∧ (s.plLocked.plEnd 0).mem = s.mem) ∧
    (s.plLocked.plEnd 0).rf 0 PL_STATUS_LEVEL = s.rf 0 PL_STATUS_PENDING ∧
    (s.level < s.rf 0 PL_STATUS_PENDING →
      (s.plLocked.plEnd 0).rf 0 PL_STATUS_VOLT_REQ = 1 ∧ (s.plLocked.plEnd 0).rf 0 PL_STATUS_VOLT_MV = levelMv (s.rf 0 PL_STATUS_PENDING)) ∧
    (s.rf 0 PL_STATUS_PENDING ≤ s.level → (s.plLocked.plEnd 0).rf 0 PL_STATUS_VOLT_REQ = s.rf 0 PL_STATUS_VOLT_REQ) := by
  have waits := plLocked_waits h
  obtain ⟨busy, result, phase, causes, mem⟩ := plEnd_ended waits (show 0 < 8 by decide)
  refine ⟨⟨busy, result, phase, causes, mem.trans plLocked_mem⟩, ?_, fun hl => ⟨?_, ?_⟩, fun hl => ?_⟩
  · rw [plEnd_status waits _ (by decide) (by decide) (by decide), State.plLocked, State.rf_wf_same _ _ _ _ (by decide)]
    exact Nat.mod_eq_of_lt (slice_lt ..)
  · rw [plEnd_status waits _ (by decide) (by decide) (by decide), plLocked_slower hl, rf_wf_other _ _ _ (by decide), State.voltReq, rf_wf_other _ _ _ (by decide)]
    exact State.rf_wf_same _ _ _ _ (by decide)
  · rw [plEnd_status waits _ (by decide) (by decide) (by decide), plLocked_slower hl, rf_wf_other _ _ _ (by decide), State.voltReq,
      State.rf_wf_same _ _ _ _ (by decide)]
    exact Nat.mod_eq_of_lt (levelMv_lt _)
  · rw [plEnd_status waits _ (by decide) (by decide) (by decide), plLocked_faster (Nat.not_lt.2 hl), rf_wf_other _ _ _ (by decide)]

end steps

/-- Settles O51: the request by the order of its refusals, the steps by their equations, and the end of a change by what it keeps. -/
theorem performanceLevels : Obligations.PerformanceLevels := by
  intro s who target t level next mv asks go res low short ended
  have supply : levelMv = mv := funext levelMv_eq
  have check (hp : s.pfRights who = true) (hb : s.rf 0 PWR_CTRL_BUSY = 0) (hst : s.rf 0 PWR_STATUS_STATE = 0) (h : s.rd A.plPhase 0 = 0) :=
    (plCheck_awake hp hb hst t).trans (if_neg (not_not_intro h))
  refine ⟨fun hs => ⟨fun hp => ⟨?_, ?_⟩, fun hp => ⟨fun h => ?_, fun hb hst => ⟨fun h => ?_, fun h => ⟨fun ht => ?_, fun ht hl => ?_, fun ht hl hsh => ?_,
    fun ht hl hsh => ?_⟩⟩, fun h => ?_, fun h => ⟨fun h2 => ?_, fun h2 => ?_⟩⟩⟩,
    fun hc => ⟨fun h => ?_, fun h1 hn hf => ⟨fun hl => ?_, fun hl => ?_⟩, fun h2 hl hw => ?_, fun h => ?_, fun h => ?_, fun h hw => ?_⟩⟩
  · exact (exec_plChangeRequest hs target).trans (congrArg Host.Outcome.next (plAsk_denied hp _))
  · rw [exec_voltDone hs, if_neg (Bool.eq_false_iff.1 hp), State.deny]
  · exact (exec_plChangeRequest hs target).trans (congrArg Host.Outcome.next (plAsk_shown (plCheck_asleep hp h _) (by decide) (.inl (by decide))))
  · exact (exec_plChangeRequest hs target).trans (congrArg Host.Outcome.next (plAsk_shown ((plCheck_awake hp hb hst _).trans (if_pos h)) (by decide)
      (.inl (by decide))))
  · exact (exec_plChangeRequest hs target).trans (congrArg Host.Outcome.next (plAsk_shown ((check hp hb hst h).trans (if_pos ht)) (by decide) (.inr ht)))
  · exact (exec_plChangeRequest hs target).trans (congrArg Host.Outcome.next (plAsk_shown ((check hp hb hst h).trans ((if_neg ht).trans (if_pos (plLow_iff.2 hl))))
      (by decide) (.inl (by decide))))
  · exact (exec_plChangeRequest hs target).trans (congrArg Host.Outcome.next (plAsk_shown ((check hp hb hst h).trans ((if_neg ht).trans ((if_neg fun bad =>
      hl (plLow_iff.1 bad)).trans (if_pos (plShort_iff.2 hsh))))) (by decide) (.inl (by decide))))
  · exact ⟨_, exec_plChangeRequest hs target, plAsk_begun ((check hp hb hst h).trans ((if_neg ht).trans ((if_neg fun bad => hl (plLow_iff.1 bad)).trans
      (if_neg fun bad => hsh (plShort_iff.1 bad))))) ht target.isLt⟩
  · rw [exec_voltDone hs, if_pos hp, voltAck_none h, State.okay]
  · rw [exec_voltDone hs, if_pos hp, voltAck_taken h, if_pos h2, State.okay]
  · rw [exec_voltDone hs, if_pos hp, voltAck_taken h, if_neg h2, State.okay]
  · refine (exec_plChangeFrozen hc).trans (congrArg Host.Outcome.next (if_pos (h.imp_right ?_)))
    rintro ⟨k, hk, runs⟩
    exact plFrozen_running hk runs
  · refine (exec_plChangeFrozen hc).trans (congrArg Host.Outcome.next ((if_neg fun bad => bad.elim (fun no => no h1) fun no => no (plFrozen_all hn hf)).trans
      ((if_pos hl).trans ?_)))
    rw [voltReq_eq]
    rfl
  · exact (exec_plChangeFrozen hc).trans (congrArg Host.Outcome.next ((if_neg fun bad => bad.elim (fun no => no h1) fun no => no (plFrozen_all hn hf)).trans
      (if_neg (Nat.not_lt.2 hl))))
  · exact ⟨_, (exec_voltageTimeout hc).trans (congrArg Host.Outcome.next (if_pos ⟨h2, hl⟩)), supply ▸ voltageTimeout_reads hw rfl⟩
  · exact (exec_voltageTimeout hc).trans (congrArg Host.Outcome.next (if_neg fun ⟨h2, hl⟩ => h.elim (fun no => no h2) fun lt => absurd hl (Nat.not_le.2 lt)))
  · exact (exec_pllRelock hc).trans (congrArg Host.Outcome.next (if_pos h))
  · exact ⟨_, (exec_pllRelock hc).trans (congrArg Host.Outcome.next (if_neg (not_not_intro h))), supply ▸ pllRelock_reads hw⟩

end Sys2Proof.Machine

/-! SUPPORT. What the power states of ports leave alone of a sleep (chapters 13 and 18, R321, R371, R427, R431). -/

namespace Sys2Proof.Machine

open Reg

/-! ### The frame -/

/-- Arrays that tell how the device sleeps, and why it wakes. -/
def sleepCodes : List Nat := [311, 312, 313, 315, 316, 318, 346, 357]

/-- `t` agrees with `s` in how the device sleeps, in the registers of its own that a lost port does not write, in HBM and the
save areas; what was held is held or next. -/
structure State.SleepStill (s t : State) : Prop where
  arrays : ∀ (a : Arr) (i : Nat), sleepCodes.contains (a.code % 512) = true → t.rd a i = s.rd a i
  regs : ∀ r < 0x1000, looseReg r = false → t.reg r = s.reg r
  stores : (t.mem, t.saveArea, t.aonSave) = (s.mem, s.saveArea, s.aonSave)
  queue : t.held.map (·.cmd) ++ t.pending = s.held.map (·.cmd) ++ s.pending

section frame
variable {s t u : State} {p l : Nat}

theorem State.SleepStill.refl (s : State) : s.SleepStill s := ⟨fun _ _ _ => rfl, fun _ _ _ => rfl, rfl, rfl⟩

theorem State.SleepStill.trans (h : s.SleepStill t) (h' : t.SleepStill u) : s.SleepStill u :=
  ⟨fun a i ha => (h'.arrays a i ha).trans (h.arrays a i ha), fun r hr hl => (h'.regs r hr hl).trans (h.regs r hr hl), h'.stores.trans h.stores,
    h'.queue.trans h.queue⟩

theorem port_far (p : Nat) {r x : Nat} (h : r < 0x1000) : r ≠ PT p + x := by
  simp only [PT, Off.port, Off.die]
  omega

theorem State.Synced.sleep (h : State.Synced p s t) : s.SleepStill t :=
  ⟨fun a i ha => h.arrays a i (List.contains_iff_mem.2 (by
      have sub : ∀ c ∈ sleepCodes, c ∈ linkCodes := by decide
      exact sub _ (List.contains_iff_mem.1 ha))) fun e => absurd (e ▸ ha) (by decide),
    fun r hr hl => h.regs r hl (port_far p hr), h.stores, h.queue⟩

theorem State.LanesOnly.sleep (h : s.LanesOnly p t) : s.SleepStill t := by
  have none : ∀ c ∈ sleepCodes, laneCodes.contains c = false ∧ c ≠ 0 := by decide
  have rest := h.rest
  simp only [Prod.mk.injEq] at rest
  obtain ⟨-, mem, area, aon, held, pending, -⟩ := rest
  refine ⟨fun a i ha => h.arrays a i (none _ (List.contains_iff_mem.1 ha)).2 (none _ (List.contains_iff_mem.1 ha)).1,
    fun r hr _ => h.regs r (.inl ?_) (port_far p hr), by rw [mem, area, aon], by rw [held, pending]⟩
  simp only [PT, Off.port, Off.die]
  omega

theorem State.SleepStill.wr (h : s.SleepStill t) {a : Arr} (ha : sleepCodes.contains (a.code % 512) = false) (h0 : a.code % 512 ≠ 0) (i v : Nat) :
    s.SleepStill (t.wr a i v) :=
  h.trans ⟨fun _ _ hb => State.rd_wr_arr _ _ _ _ _ _ fun e => Bool.false_ne_true (ha.symm.trans (e ▸ hb)), fun _ _ _ => State.reg_wr _ _ _ _ _ h0, rfl, rfl⟩

/-- A register beyond the device's own. -/
theorem State.SleepStill.far (h : s.SleepStill t) {r : Nat} (hr : 0x1000 ≤ r) (v : Nat) : s.SleepStill (t.wr A.reg r v) :=
  h.trans ⟨fun _ _ hb => State.rd_wr_arr _ _ _ _ _ _ fun e => absurd (e ▸ hb : sleepCodes.contains (A.reg.code % 512) = true) (by decide),
    fun o ho _ => State.rd_wr_ix _ _ _ _ _ (by omega), rfl, rfl⟩

theorem State.SleepStill.port (h : s.SleepStill t) (p : Nat) (f : Fld) (v : Nat) : s.SleepStill (t.wf (PT p) f v) :=
  h.far (by
    simp only [PT, Off.port, Off.die]
    omega) _

theorem State.SleepStill.die (h : s.SleepStill t) (d : Nat) (f : Fld) (v : Nat) : s.SleepStill (t.wf (D d) f v) :=
  h.far (by
    simp only [D, Off.die]
    omega) _

theorem State.SleepStill.update (h : s.SleepStill t) (e : u.arr = t.arr) (hs : (u.mem, u.saveArea, u.aonSave) = (t.mem, t.saveArea, t.aonSave))
    (hq : (u.held, u.pending) = (t.held, t.pending)) : s.SleepStill u := by
  have same (a : Arr) (i : Nat) : u.rd a i = t.rd a i := by simp only [State.rd, e]
  simp only [Prod.mk.injEq] at hq
  exact h.trans ⟨fun a i _ => same a i, fun r _ _ => same A.reg r, hs, by rw [hq.1, hq.2]⟩

theorem State.SleepStill.drop (h : s.SleepStill t) {a : Arr} (hc : ([a.code].any fun c => c = 0 ∨ sleepCodes.contains c) = false) (q : Nat → Bool) :
    s.SleepStill (t.drop a q) := by
  have only : t.Only [a.code] (t.drop a q) := (State.Only.refl ..).drop _ _ (by simp)
  have apart (c : Nat) (hm : [a.code].contains c = true) : ¬ (c = 0 ∨ sleepCodes.contains c = true) := fun bad =>
    Bool.false_ne_true (hc.symm.trans (List.any_eq_true.2 ⟨c, List.contains_iff_mem.1 hm, decide_eq_true bad⟩))
  exact h.trans ⟨fun b j hb => only.reads b j fun hm => apart _ (List.contains_iff_mem.2 hm) (.inr hb),
    fun r _ _ => only.reads A.reg r fun hm => apart 0 (List.contains_iff_mem.2 hm) (.inl rfl), rfl, rfl⟩

theorem State.SleepStill.ite {c : Prop} [Decidable c] (ht : s.SleepStill t) (hu : s.SleepStill u) : s.SleepStill (if c then t else u) := by
  split
  · exact ht
  · exact hu

theorem sleep_foldl {α : Type} {f : State → α → State} (hf : ∀ (u : State) x, u.SleepStill (f u x)) (l : List α) (s : State) : s.SleepStill (l.foldl f s) := by
  induction l generalizing s with
  | nil => exact .refl s
  | cons x r ih => exact (hf s x).trans (ih _)

theorem sendSym_sleep (s : State) (p : Nat) (y : Sym) : s.SleepStill (s.sendSym p y) := by
  have sent (l : List SymOut) : s.SleepStill { s with symOut := l } := (State.SleepStill.refl s).update rfl rfl rfl
  exact (sent _).ite (.refl s)

end frame

/-! ### Ports that change their power state -/

section ports
variable (s : State) (p : Nat)

theorem wokenPort_sleep : s.SleepStill (s.wokenPort p) :=
  ((portSync_synced s p).sleep.trans ((State.SleepStill.refl _).wr (a := A.ptSeen) (by decide) (by decide) _ _)).trans (sendSym_sleep ..)

/-- A wake of a port: nothing to do, or the lanes change and CHECK is sent. -/
theorem wakePort_eq : s.wakePort p =
    if s.rf (PT p) PORT_STATUS_PSTATE = 0 ∨ (s.rf (PT p) PORT_STATUS_PSTATE = 2 ∧ (s.lanes p).any fun l => s.on A.lnRelock (4 * p + l)) then s
    else (if s.rf (PT p) PORT_STATUS_PSTATE = 1 then (s.wf (PT p) PORT_STATUS_PSTATE 0).lanesTo p lnQuiet lnActive
      else (s.lanes p).foldl (State.laneRelocks p) s).wokenPort p := rfl

theorem wakePort_sleep : s.SleepStill (s.wakePort p) := by
  have quiet := ((State.SleepStill.refl s).port p PORT_STATUS_PSTATE 0).trans (lanesTo_only _ p lnQuiet lnActive).sleep
  have dormant : s.SleepStill ((s.lanes p).foldl (State.laneRelocks p) s) := (lanes_foldl (fun _ hl => lanes_lt hl) (laneRelocks_only p) s).sleep
  rw [wakePort_eq]
  exact (State.SleepStill.refl s).ite ((quiet.ite dormant).trans (wokenPort_sleep ..))

/-- A lane that goes DORMANT loses its locks. -/
def State.laneDozes (p : Nat) (s : State) (l : Nat) : State :=
  ((s.wf (LN p l) LANE_STATUS_CDR_LOCK 0).wf (LN p l) LANE_STATUS_HDR_LOCK 0).wf (LN p l) LANE_STATUS_BLK_LOCK 0

theorem laneDozes_only (p : Nat) (s : State) (l : Nat) : s.LaneOnly p l (s.laneDozes p l) :=
  ((State.LaneOnly.refl.wf _ (by decide) _).wf _ (by decide) _).wf _ (by decide) _

/-- The lanes of a port that enters power state `st`. -/
def State.lanesDown (s : State) (p st : Nat) : State :=
  let s := ((s.wr A.ptPs p 0).wf (PT p) PORT_STATUS_PSTATE st).lanesTo p lnActive (st + 2)
  if st = 2 then (s.lanes p).foldl (State.laneDozes p) s else s

theorem lanesDown_sleep (st : Nat) : s.SleepStill (s.lanesDown p st) := by
  have lanes := ((((State.SleepStill.refl s).wr (a := A.ptPs) (by decide) (by decide) p 0).port p PORT_STATUS_PSTATE st).trans
    (lanesTo_only _ p lnActive (st + 2)).sleep)
  exact (lanes.trans (lanes_foldl (fun _ hl => lanes_lt hl) (laneDozes_only p) _).sleep).ite lanes

theorem enterPs_eq : s.enterPs p = if s.rd A.ptPs p % 8 = 0 then s else (s.lanesDown p (s.rd A.ptPs p % 8 - 1)).portSync p := rfl

theorem enterPs_sleep : s.SleepStill (s.enterPs p) := by
  rw [enterPs_eq]
  exact (State.SleepStill.refl s).ite ((lanesDown_sleep ..).trans (portSync_synced ..).sleep)

theorem portTo_sleep (st : Nat) : s.SleepStill (s.portTo p st) := by
  have woken : s.SleepStill (if s.rf (PT p) PORT_STATUS_PSTATE = 1 ∧ st = 2 then s.wakePort p else s) := (wakePort_sleep s p).ite (.refl s)
  unfold State.portTo
  generalize (if s.rf (PT p) PORT_STATUS_PSTATE = 1 ∧ st = 2 then s.wakePort p else s) = u at woken ⊢
  exact ((((woken.trans (sendSym_sleep ..)).wr (by decide) (by decide) _ _).trans (enterPs_sleep ..)).wr (by decide) (by decide) _ _).ite woken

theorem portsTo_sleep (st : Nat) : s.SleepStill (s.portsTo st) := sleep_foldl (fun u p => portTo_sleep u p st) _ s

theorem portsBack_sleep : s.SleepStill s.portsBack :=
  (sleep_foldl (fun u p => (wakePort_sleep u p).ite (.refl u)) _ s).drop (by decide) _

end ports

end Sys2Proof.Machine

/-! CERTIFICATE. Entry to PARK and SLUMBER (chapter 18, R425 to R432). -/

namespace Sys2Proof.Machine

open Reg

section frame
variable {s t : State}

theorem State.SleepStill.low (h : s.SleepStill t) {f : Fld} (hf : f.off < 0x1000) (hl : looseReg (0 + f.off) = false) : t.rf 0 f = s.rf 0 f :=
  congrArg (fun v => slice v f.lo f.w) (h.regs _ (by omega) hl)

theorem State.SleepStill.mem (h : s.SleepStill t) : t.mem = s.mem := congrArg (·.1) h.stores

theorem clocked_of (hm : t.rd A.pwMode 0 = s.rd A.pwMode 0) (hd : t.rd A.refDead 0 = s.rd A.refDead 0) (hg : t.rd A.refGone 0 = s.rd A.refGone 0) :
    t.clocked = s.clocked := by
  rw [State.clocked, State.refOk, hm, hd, hg, State.clocked, State.refOk]

theorem State.SleepStill.clocked (h : s.SleepStill t) : t.clocked = s.clocked :=
  clocked_of (h.arrays _ _ (by decide)) (h.arrays _ _ (by decide)) (h.arrays _ _ (by decide))

end frame

/-! ### An entry that is abandoned (R431) -/

/-- The state of a device that is in RUN again, with the requests that were held before next. -/
structure State.AwakeAgain (s t : State) (r : Nat) : Prop where
  busy : t.rf 0 PWR_CTRL_BUSY = 0
  state : t.rf 0 PWR_STATUS_STATE = 0
  phase : t.rf 0 PWR_STATUS_PHASE = 0
  result : t.rf 0 PWR_CTRL_RESULT = r
  wake : t.rd A.pwWake 0 = 0
  clocked : t.clocked = s.clocked
  saveArea : t.saveArea = []
  aonSave : t.aonSave = []
  mem : t.mem = s.mem
  held : t.held = []
  pending : t.pending = s.held.map (·.cmd) ++ s.pending
  up : t.rd A.pcieDown 0 = 0

/-- What the undoing of an entry writes once its ports are back. -/
def State.entryGone (s : State) (result : Nat) : State :=
  (((s.wr A.pcieDown 0 0).wf 0 PWR_CTRL_RESULT result).wr A.pwWake 0 0).dropEntry

theorem undoEntry_eq (s : State) (result : Nat) :
    s.undoEntry result = (State.entryGone { s.portsBack with saveArea := [], aonSave := [] } result).releaseHeld := rfl

section abandon
variable {s t : State}

theorem entryGone_fields (s : State) {r : Nat} (h : r < 16) : (s.entryGone r).rf 0 PWR_CTRL_BUSY = 0 ∧ (s.entryGone r).rf 0 PWR_STATUS_STATE = 0 ∧
    (s.entryGone r).rf 0 PWR_STATUS_PHASE = 0 ∧ (s.entryGone r).rf 0 PWR_CTRL_RESULT = r ∧ (s.entryGone r).rd A.pwWake 0 = 0 ∧
    (s.entryGone r).rd A.pcieDown 0 = 0 := by
  unfold State.entryGone State.dropEntry
  refine ⟨?_, ?_, ?_, ?_, ?_, ?_⟩
  · rw [rf_wf_other _ _ _ (by decide), rf_wf_other _ _ _ (by decide)]
    exact State.rf_wf_same _ _ _ _ (by decide)
  · rw [rf_wf_other _ _ _ (by decide)]
    exact State.rf_wf_same _ _ _ _ (by decide)
  · exact State.rf_wf_same _ _ _ _ (by decide)
  · rw [rf_wf_other _ _ _ (by decide), rf_wf_other _ _ _ (by decide), rf_wf_other _ _ _ (by decide), State.rf_wr _ A.pwWake _ _ _ _ (by decide),
      State.rf_wf_same _ _ _ _ (by decide)]
    exact Nat.mod_eq_of_lt h
  · rw [State.rd_wf _ _ _ _ _ _ (by decide), State.rd_wf _ _ _ _ _ _ (by decide), State.rd_wf _ _ _ _ _ _ (by decide)]
    exact State.rd_wr_same ..
  · rw [State.rd_wf _ _ _ _ _ _ (by decide), State.rd_wf _ _ _ _ _ _ (by decide), State.rd_wf _ _ _ _ _ _ (by decide),
      State.rd_wr_arr _ _ _ _ _ _ (by decide), State.rd_wf _ _ _ _ _ _ (by decide)]
    exact State.rd_wr_same ..

theorem entryGone_rd (s : State) (r : Nat) {a : Arr} (h : ¬ a.code % 512 = 0) (hd : ¬ A.pcieDown.code % 512 = a.code % 512)
    (hw : ¬ A.pwWake.code % 512 = a.code % 512) (i : Nat) : (s.entryGone r).rd a i = s.rd a i := by
  unfold State.entryGone State.dropEntry
  rw [State.rd_wf _ _ _ _ _ _ h, State.rd_wf _ _ _ _ _ _ h, State.rd_wf _ _ _ _ _ _ h, State.rd_wr_arr _ _ _ _ _ _ hw, State.rd_wf _ _ _ _ _ _ h,
    State.rd_wr_arr _ _ _ _ _ _ hd]

/-- Outside an entry what was held is next. -/
theorem releaseHeld_out (h : s.entering = false) :
    s.releaseHeld = { s with held := [], resumed := s.held ++ s.resumed, pending := s.held.map (·.cmd) ++ s.pending } :=
  if_neg (Bool.eq_false_iff.1 h)

theorem entering_idle (h : s.rf 0 PWR_CTRL_BUSY = 0) : s.entering = false := decide_eq_false fun bad => by
  rw [h] at bad
  exact absurd bad.1 (by decide)

theorem releaseHeld_rd (s : State) (a : Arr) (i : Nat) : s.releaseHeld.rd a i = s.rd a i := by
  unfold State.releaseHeld
  split <;> rfl

theorem undoEntry_awake (s : State) {r : Nat} (h : r < 16) : s.AwakeAgain (s.undoEntry r) r := by
  rw [undoEntry_eq]
  have back := portsBack_sleep s
  generalize s.portsBack = w at back ⊢
  generalize hu : ({ w with saveArea := [], aonSave := [] } : State) = u
  obtain ⟨busy, state, phase, result, wake, up⟩ := entryGone_fields u h
  have out := releaseHeld_out (entering_idle busy)
  have rd (a : Arr) (i : Nat) := releaseHeld_rd (u.entryGone r) a i
  have rf (f : Fld) : (u.entryGone r).releaseHeld.rf 0 f = (u.entryGone r).rf 0 f := congrArg (fun v => slice v f.lo f.w) (rd A.reg _)
  have before (a : Arr) (i : Nat) : u.rd a i = w.rd a i := by
    rw [← hu]
    rfl
  have kept {a : Arr} (ha : sleepCodes.contains (a.code % 512) = true) (h0 : ¬ a.code % 512 = 0) (hd : ¬ A.pcieDown.code % 512 = a.code % 512)
      (hw : ¬ A.pwWake.code % 512 = a.code % 512) : (u.entryGone r).releaseHeld.rd a 0 = s.rd a 0 := by
    rw [rd, entryGone_rd u r h0 hd hw, before, back.arrays a 0 ha]
  exact {
    busy := (rf _).trans busy
    state := (rf _).trans state
    phase := (rf _).trans phase
    result := (rf _).trans result
    wake := (rd _ _).trans wake
    clocked := clocked_of (kept (by decide) (by decide) (by decide) (by decide)) (kept (by decide) (by decide) (by decide) (by decide))
      (kept (by decide) (by decide) (by decide) (by decide))
    saveArea := by
      rw [out, ← hu]
      rfl
    aonSave := by
      rw [out, ← hu]
      rfl
    mem := by
      rw [out, ← hu]
      exact back.mem
    held := by rw [out]
    pending := by
      rw [out, ← hu]
      exact back.queue
    up := (rd _ _).trans up }

/-- An entry that a wake or the limit of its drain ends. -/
theorem abandon_awake (s : State) (point : Nat) {r : Nat} (h : r < 16) : s.AwakeAgain (s.abandon point r) r := by
  obtain ⟨busy, state, phase, result, wake, clocked, saveArea, aonSave, mem, held, pending, up⟩ := undoEntry_awake s h
  generalize hv : slice (s.rd A.pwWake 0) 0 4 + 2 ^ 4 * 3 + 2 ^ 6 * point + 2 ^ 9 * slice (s.rd A.pwWake 0) 4 8 = v
  have wakes : s.abandon point r = (s.undoEntry r).wr A.reg oLAST_WAKE v := by
    rw [← hv]
    rfl
  have rf (f : Fld) (hf : f.off ≠ oLAST_WAKE) : ((s.undoEntry r).wr A.reg oLAST_WAKE v).rf 0 f = (s.undoEntry r).rf 0 f :=
    congrArg (fun v => slice v f.lo f.w) (State.rd_wr_ix _ _ _ _ _ fun e => hf (by omega))
  have rd (a : Arr) (i : Nat) (ha : ¬ A.reg.code % 512 = a.code % 512) : ((s.undoEntry r).wr A.reg oLAST_WAKE v).rd a i = (s.undoEntry r).rd a i :=
    State.rd_wr_arr _ _ _ _ _ _ ha
  rw [wakes]
  exact ⟨(rf _ (by decide)).trans busy, (rf _ (by decide)).trans state, (rf _ (by decide)).trans phase, (rf _ (by decide)).trans result,
    (rd _ _ (by decide)).trans wake, (clocked_of (rd _ _ (by decide)) (rd _ _ (by decide)) (rd _ _ (by decide))).trans clocked,
    saveArea, aonSave, mem, held, pending, (rd _ _ (by decide)).trans up⟩

/-- The same, seen from a state before, of which only the sleep's own state is as it was. -/
theorem State.AwakeAgain.before {u : State} {r : Nat} (h : u.AwakeAgain t r) (hc : u.clocked = s.clocked) (hm : u.mem = s.mem)
    (hq : u.held.map (·.cmd) ++ u.pending = s.held.map (·.cmd) ++ s.pending) : s.AwakeAgain t r :=
  ⟨h.busy, h.state, h.phase, h.result, h.wake, h.clocked.trans hc, h.saveArea, h.aonSave, h.mem.trans hm, h.held, h.pending.trans hq, h.up⟩

end abandon

end Sys2Proof.Machine

/-! CERTIFICATE. Requests of a sleep, the phases of its entry, and the obligation on sleep entries (chapter 18, R425 to R432). -/

namespace Sys2Proof.Machine

open Reg

/-! ### Requests (R425, R428) -/

section requests
variable {s : State} {who : Who}

theorem exec_park (hs : s.Serving who) (val : Word) : exec (.park who val) s =
    .next (if s.pfRights who then (s.sleepAsk false val.toNat).okay else s.denySleep) :=
  access_next hs _ fun s => if s.pfRights who then (s.sleepAsk false val.toNat).okay else s.denySleep

theorem exec_slumber (hs : s.Serving who) (val : Word) : exec (.slumber who val) s =
    .next (if s.pfRights who then (s.sleepAsk true val.toNat).okay else s.denySleep) :=
  access_next hs _ fun s => if s.pfRights who then (s.sleepAsk true val.toNat).okay else s.denySleep

theorem exec_cancel (hs : s.Serving who) : exec (.cancel who) s = .next (if s.pfRights who then s.okay else s.deny) :=
  accessAs_on hs (.cancel who) 6 fun s => .next (if s.pfRights who then s.okay else s.deny)

/-- The device cannot begin to sleep (R425). -/
def State.sleepBusy (s : State) : Prop :=
  s.anyStepping = true ∨ s.rd A.plPhase 0 ≠ 0 ∨ s.rf 0 PWR_CTRL_BUSY = 1 ∨ s.rf 0 PWR_STATUS_STATE ≠ 0

theorem sleepCheck_busy (h : s.sleepBusy) (slumber en : Bool) : s.sleepCheck slumber en = 1 := if_pos h

theorem sleepCheck_park (h : ¬ s.sleepBusy) (en : Bool) : s.sleepCheck false en = 0 := (if_neg h).trans (if_pos (by decide))

/-- No port is needed while no partition can stop, so that a SLUMBER request is never refused with LINK (log 130). -/
theorem portNeeded_still (h : ¬ s.anyStepping = true) (p : Nat) : s.portNeeded p = false := by
  refine Bool.eq_false_iff.2 fun bad => h ?_
  obtain ⟨k, hk, stops⟩ := List.any_eq_true.1 bad
  exact List.any_eq_true.2 ⟨k, hk, (of_decide_eq_true stops).1⟩

theorem sleepCheck_slumber (h : ¬ s.sleepBusy) (en : Bool) : s.sleepCheck true en = s.saveCheck en := by
  refine (if_neg h).trans ((if_neg (by decide)).trans (if_neg fun bad => ?_))
  obtain ⟨p, -, needed⟩ := List.any_eq_true.1 bad
  exact Bool.false_ne_true ((portNeeded_still (fun step => h (.inl step)) p).symm.trans needed)

theorem sleepAsk_refused {slumber : Bool} {v r : Nat} (h : s.sleepCheck slumber (slice v 2 1 = 1) = r) (hr : r ≠ 0) :
    s.sleepAsk slumber v = s.wf 0 PWR_CTRL_RESULT r := by
  unfold State.sleepAsk
  dsimp only
  rw [h, if_neg hr]

theorem sleepAsk_taken {slumber : Bool} {v : Nat} (h : s.sleepCheck slumber (slice v 2 1 = 1) = 0) :
    s.sleepAsk slumber v = ((s.wf 0 PWR_CTRL_RESULT 0).pwrFields v).sleepBegin slumber := by
  unfold State.sleepAsk
  dsimp only
  rw [h, if_pos rfl]

/-- The registers of an entry whose DRAIN begins. -/
def State.drainShown (s : State) (slumber : Bool) (v : Nat) : State :=
  ((((s.wf 0 PWR_CTRL_RESULT 0).pwrFields v).wf 0 PWR_CTRL_BUSY 1).wf 0 PWR_STATUS_STATE (if slumber then 2 else 1)).wf 0 PWR_STATUS_PHASE 1

theorem drainShown_fields (s : State) (slumber : Bool) (v : Nat) : (s.drainShown slumber v).rf 0 PWR_CTRL_BUSY = 1 ∧
    (s.drainShown slumber v).rf 0 PWR_STATUS_STATE = (if slumber then 2 else 1) ∧ (s.drainShown slumber v).rf 0 PWR_STATUS_PHASE = 1 ∧
    (s.drainShown slumber v).rf 0 PWR_CTRL_RESULT = 0 ∧ (s.drainShown slumber v).rf 0 PWR_CTRL_SAVE_EN = slice v 2 1 ∧
    (s.drainShown slumber v).rf 0 PWR_CTRL_DRAIN_US = max 1 (slice v 16 16) := by
  unfold State.drainShown State.pwrFields
  refine ⟨?_, ?_, ?_, ?_, ?_, ?_⟩
  · rw [rf_wf_other _ _ _ (by decide), rf_wf_other _ _ _ (by decide)]
    exact State.rf_wf_same _ _ _ _ (by decide)
  · rw [rf_wf_other _ _ _ (by decide), State.rf_wf_same _ _ _ _ (by decide)]
    cases slumber <;> rfl
  · exact State.rf_wf_same _ _ _ _ (by decide)
  · rw [rf_wf_other _ _ _ (by decide), rf_wf_other _ _ _ (by decide), rf_wf_other _ _ _ (by decide), rf_wf_other _ _ _ (by decide), rf_wf_other _ _ _ (by decide)]
    exact State.rf_wf_same _ _ _ _ (by decide)
  · rw [rf_wf_other _ _ _ (by decide), rf_wf_other _ _ _ (by decide), rf_wf_other _ _ _ (by decide), rf_wf_other _ _ _ (by decide),
      State.rf_wf_same _ _ _ _ (by decide)]
    exact Nat.mod_eq_of_lt (slice_lt ..)
  · have fits : slice v 16 16 < 2 ^ 16 := slice_lt ..
    rw [rf_wf_other _ _ _ (by decide), rf_wf_other _ _ _ (by decide), rf_wf_other _ _ _ (by decide), State.rf_wf_same _ _ _ _ (by decide)]
    exact Nat.mod_eq_of_lt (Nat.max_lt.2 ⟨by decide, fits⟩)

theorem sleepBegin_eq (s : State) (slumber : Bool) (v : Nat) : ((s.wf 0 PWR_CTRL_RESULT 0).pwrFields v).sleepBegin slumber =
    (((s.drainShown slumber v).wr A.pwWake 0 0).drop A.sleepPs fun _ => true).wr A.drainAt 0 (s.drainShown slumber v).mono := rfl

theorem rf_drop (s : State) {a : Arr} (p : Nat → Bool) (b : Nat) (f : Fld) (h : A.reg.code % 512 ≠ a.code) : (s.drop a p).rf b f = s.rf b f := by
  rw [State.rf, State.reg, rd_drop s p _ h, State.rf, State.reg]

/-- What a device shows whose DRAIN has begun, `st` the sleep that it enters. -/
theorem sleepBegin_reads (s : State) (slumber : Bool) (v : Nat) {t : State} (ht : t = ((s.wf 0 PWR_CTRL_RESULT 0).pwrFields v).sleepBegin slumber) :
    t.rf 0 PWR_CTRL_BUSY = 1 ∧ t.rf 0 PWR_STATUS_STATE = (if slumber then 2 else 1) ∧ t.rf 0 PWR_STATUS_PHASE = 1 ∧ t.rf 0 PWR_CTRL_RESULT = 0 ∧
    t.rd A.pwWake 0 = 0 ∧ t.rd A.drainAt 0 = s.mono ∧ t.rf 0 PWR_CTRL_SAVE_EN = slice v 2 1 ∧ t.rf 0 PWR_CTRL_DRAIN_US = max 1 (slice v 16 16) ∧
    t.mem = s.mem := by
  rw [ht, sleepBegin_eq]
  obtain ⟨busy, state, phase, result, save, drain⟩ := drainShown_fields s slumber v
  have shown : s.RegsBut [oPWR_CTRL, oPWR_STATUS] (s.drainShown slumber v) :=
    ((((((State.RegsBut.refl ..).wf PWR_CTRL_RESULT 0 rfl).wf PWR_CTRL_SAVE_EN _ rfl).wf PWR_CTRL_DRAIN_US _ rfl).wf PWR_CTRL_BUSY 1 rfl).wf
      PWR_STATUS_STATE _ rfl).wf PWR_STATUS_PHASE 1 rfl
  have mem : (s.drainShown slumber v).mem = s.mem := rfl
  generalize s.drainShown slumber v = u at *
  have rf (f : Fld) : (((u.wr A.pwWake 0 0).drop A.sleepPs fun _ => true).wr A.drainAt 0 u.mono).rf 0 f = u.rf 0 f := by
    rw [State.rf_wr _ A.drainAt _ _ _ _ (by decide), rf_drop _ _ _ _ (by decide), State.rf_wr _ A.pwWake _ _ _ _ (by decide)]
  refine ⟨(rf _).trans busy, (rf _).trans state, (rf _).trans phase, (rf _).trans result, ?_, ?_, (rf _).trans save, (rf _).trans drain, mem⟩
  · rw [State.rd_wr_arr _ _ _ _ _ _ (by decide), rd_drop _ _ _ (by decide)]
    exact State.rd_wr_same ..
  · rw [State.rd_wr_same, shown.mono_ns (by decide) (by decide)]
    exact Nat.mod_eq_of_lt (pair_lt s _)

end requests

end Sys2Proof.Machine

/-! CERTIFICATE. The phases of an entry to PARK or SLUMBER, and the obligation on sleep entries (chapter 18, R426 to R432). -/

namespace Sys2Proof.Machine

open Reg

/-! ### CANCEL past DRAIN (R432) -/

section cancel
variable {s : State} {who : Who}

theorem exec_cancel_held (hc : s.clocked = true) (he : s.entering = true) (ha : s.Awake who) (hr : s.resumed = []) (hn : s.actAs = none) {u : State}
    (hu : u = { s with held := s.held ++ [⟨who, s.stamp who, 39, .cancel who, true, 0, 0, false⟩] }) :
    exec (.cancel who) s = .next (if s.rd A.pwWake 0 = 0 then u.wr A.pwWake 0 6 else u) := by
  obtain ⟨runs, ref⟩ := of_decide_eq_true hc
  have held : s.hold who (.cancel who) true = u := by
    rw [hu, State.hold, hn]
    rfl
  have request : exec (.cancel who) s = s.accessAs who (.cancel who) 6 fun s => .next (if s.pfRights who then s.okay else s.deny) := rfl
  have waits : u.rd A.pwWake 0 = s.rd A.pwWake 0 := by
    rw [hu]
    rfl
  rw [request, State.accessAs, perform_fresh hr, if_neg fun bad => bad.2 he, if_pos ⟨by rw [runs]; decide, ref⟩, if_pos ⟨he, by decide⟩, coreRuns_awake ha,
    State.holdReq, held, if_neg (by decide), State.wakePend, waits]
  rfl

end cancel

/-! ### Pads latch (R452) -/

section pads
variable (s : State)

theorem pinDrive_sleep (pin : Nat) : s.SleepStill (s.pinDrive pin).2 := by
  have free : s.SleepStill (s.free 1).2 := (State.SleepStill.refl s).update rfl rfl rfl
  unfold State.pinDrive
  dsimp only
  split
  · exact .refl s
  · split
    next g _ =>
      split
      · exact .refl s
      · split
        · exact free
        · split
          · exact .refl s
          · exact free
    next =>
      split
      · exact .refl s
      · split
        · exact .refl s
        · split <;> exact .refl s

theorem pad_sleep (pin : Nat) : s.SleepStill (s.pad pin).2 := by
  unfold State.pad
  dsimp only
  split
  · exact .refl s
  · split
    · exact .refl s
    · exact pinDrive_sleep s pin

/-- The bank's pads are held, by PARK where they were not before. -/
def State.bankLatched (s : State) (b : Nat) : State :=
  if s.rf (D b) GP_BANK_HELD = 1 then s else (s.wf (D b) GP_BANK_HELD 1).wr A.padPark b 1

/-- Every pad that is not held yet shows what its latch holds. -/
def State.padsLatched (s : State) : State :=
  s.each 256 fun s pin => if s.rf (D (pin / 32)) GP_BANK_HELD = 1 then s else (s.pad pin).2.wr A.padLatch pin (s.pad pin).1

theorem latchPads_eq : s.latchPads = s.padsLatched.each 8 State.bankLatched := rfl

theorem padsLatched_sleep : s.SleepStill s.padsLatched :=
  sleep_foldl (fun u pin => (State.SleepStill.refl u).ite ((pad_sleep u pin).wr (a := A.padLatch) (by decide) (by decide) _ _)) _ s

theorem bankLatched_sleep (b : Nat) : s.SleepStill (s.bankLatched b) :=
  (State.SleepStill.refl s).ite (((State.SleepStill.refl s).die b GP_BANK_HELD 1).wr (a := A.padPark) (by decide) (by decide) _ _)

theorem latchPads_sleep : s.SleepStill s.latchPads := by
  rw [latchPads_eq]
  exact (padsLatched_sleep s).trans (sleep_foldl bankLatched_sleep _ _)

theorem bankLatched_held (b : Nat) : (s.bankLatched b).rf (D b) GP_BANK_HELD = 1 := by
  unfold State.bankLatched
  split
  next h => exact h
  next => exact (State.rf_wr _ A.padPark _ _ _ _ (by decide)).trans (State.rf_wf_same _ _ _ _ (by decide))

theorem bankLatched_other {a b : Nat} (h : a ≠ b) : (s.bankLatched a).rf (D b) GP_BANK_HELD = s.rf (D b) GP_BANK_HELD := by
  unfold State.bankLatched
  split
  · rfl
  · rw [State.rf_wr _ A.padPark _ _ _ _ (by decide)]
    exact State.rf_wf_reg _ _ _ _ _ _ (by simp only [D, Off.die]; omega)

theorem latchPads_held {b : Nat} (hb : b < 8) : s.latchPads.rf (D b) GP_BANK_HELD = 1 := by
  obtain ⟨u, -, held⟩ := each_at (obs := fun v => v.rf (D b) GP_BANK_HELD) (f := State.bankLatched) hb (fun u a ha => bankLatched_other u ha) s.padsLatched
  rw [latchPads_eq]
  exact held.trans (bankLatched_held u b)

end pads

/-! ### The end of DRAIN -/

section drain
variable {s : State}

/-- Everything is drained (R426). -/
def State.Quiet (s : State) : Prop :=
  (∀ c < 256, s.rd A.coreTask c = 0) ∧ (∀ o ∈ s.outst, o.dead = true) ∧ (s.rf 0 PWR_STATUS_STATE = 1 ∨ ∀ x ∈ s.listed A.tagOut, False)

theorem drained_iff : s.drained = true ↔ s.Quiet := by
  have none : (s.listed A.tagOut).isEmpty = true ↔ ∀ x ∈ s.listed A.tagOut, False := by
    rw [List.isEmpty_iff]
    exact List.eq_nil_iff_forall_not_mem
  refine decide_eq_true_iff.trans (and_congr ?_ (and_congr List.all_eq_true (or_congr .rfl none)))
  exact List.all_eq_true.trans (forall_congr' fun c => imp_congr List.mem_range decide_eq_true_iff)

theorem exec_drainEnd (hc : s.clocked = true) : exec .drainEnd s =
    .next (if s.rf 0 PWR_CTRL_BUSY = 0 ∨ s.rf 0 PWR_STATUS_PHASE ≠ 1 ∨ ¬ s.drained then s
      else if s.rd A.pwWake 0 ≠ 0 then s.abandon 2 7
      else if s.rf 0 PWR_STATUS_STATE = 1 then s.parkNow
      else s.wf 0 PWR_STATUS_PHASE 2) :=
  live_next hc fun s => if s.rf 0 PWR_CTRL_BUSY = 0 ∨ s.rf 0 PWR_STATUS_PHASE ≠ 1 ∨ ¬ s.drained then s
    else if s.rd A.pwWake 0 ≠ 0 then s.abandon 2 7
    else if s.rf 0 PWR_STATUS_STATE = 1 then s.parkNow
    else s.wf 0 PWR_STATUS_PHASE 2

theorem busy_zero (h : ¬ s.rf 0 PWR_CTRL_BUSY = 1) : s.rf 0 PWR_CTRL_BUSY = 0 := by
  have bit : s.rf 0 PWR_CTRL_BUSY < 2 := slice_lt ..
  omega

theorem exec_drainEnd_waits (hc : s.clocked = true) (h : ¬ s.rf 0 PWR_CTRL_BUSY = 1 ∨ s.rf 0 PWR_STATUS_PHASE ≠ 1 ∨ ¬ s.Quiet) : exec .drainEnd s = .next s := by
  rw [exec_drainEnd hc, if_pos]
  exact h.imp busy_zero (Or.imp_right fun no yes => no (drained_iff.1 yes))

theorem exec_drainEnd_over (hc : s.clocked = true) (hb : s.rf 0 PWR_CTRL_BUSY = 1) (hp : s.rf 0 PWR_STATUS_PHASE = 1) (hq : s.Quiet) : exec .drainEnd s =
    .next (if s.rd A.pwWake 0 ≠ 0 then s.abandon 2 7 else if s.rf 0 PWR_STATUS_STATE = 1 then s.parkNow else s.wf 0 PWR_STATUS_PHASE 2) := by
  rw [exec_drainEnd hc, if_neg]
  rintro (zero | other | open_)
  · rw [hb] at zero
    cases zero
  · exact other hp
  · exact open_ (drained_iff.2 hq)

/-- The device sleeps in mode `m`, after DRAIN. -/
def State.asleep (s : State) (m : Nat) : State := ((s.dropEntry.wf 0 PWR_CTRL_RESULT 0).wr A.pwMode 0 m).wr A.busSlots 0 0

theorem asleep_reads (s : State) {m : Nat} (h : m < 4) : (s.asleep m).rd A.pwMode 0 = m ∧ (s.asleep m).rf 0 PWR_CTRL_BUSY = 0 ∧
    (s.asleep m).rf 0 PWR_CTRL_RESULT = 0 := by
  unfold State.asleep State.dropEntry
  refine ⟨?_, ?_, ?_⟩
  · rw [State.rd_wr_arr _ _ _ _ _ _ (by decide), State.rd_wr_same]
    exact Nat.mod_eq_of_lt h
  · rw [State.rf_wr _ A.busSlots _ _ _ _ (by decide), State.rf_wr _ A.pwMode _ _ _ _ (by decide), rf_wf_other _ _ _ (by decide), rf_wf_other _ _ _ (by decide),
      rf_wf_other _ _ _ (by decide)]
    exact State.rf_wf_same _ _ _ _ (by decide)
  · rw [State.rf_wr _ A.busSlots _ _ _ _ (by decide), State.rf_wr _ A.pwMode _ _ _ _ (by decide)]
    exact State.rf_wf_same _ _ _ _ (by decide)

theorem asleep_far (s : State) (m b : Nat) {f : Fld} (h : 0x1000 ≤ b + f.off) : (s.asleep m).rf b f = s.rf b f := by
  have far (v : State) (g : Fld) (x : Nat) (hg : g.off < 0x1000) : (v.wf 0 g x).rf b f = v.rf b f := State.rf_wf_reg _ _ _ _ _ _ (by omega)
  unfold State.asleep State.dropEntry
  rw [State.rf_wr _ A.busSlots _ _ _ _ (by decide), State.rf_wr _ A.pwMode _ _ _ _ (by decide), far _ _ _ (by decide), far _ _ _ (by decide),
    far _ _ _ (by decide), far _ _ _ (by decide)]

theorem parkNow_eq (s : State) : s.parkNow = ((s.portsTo 1).latchPads).asleep 1 := rfl

theorem parkNow_reads (s : State) : s.parkNow.rd A.pwMode 0 = 1 ∧ s.parkNow.rf 0 PWR_CTRL_BUSY = 0 ∧ s.parkNow.rf 0 PWR_CTRL_RESULT = 0 ∧
    (∀ b < 8, s.parkNow.rf (D b) GP_BANK_HELD = 1) ∧ s.parkNow.mem = s.mem := by
  rw [parkNow_eq]
  have still := (portsTo_sleep s 1).trans (latchPads_sleep _)
  have held (b : Nat) (hb : b < 8) := latchPads_held (s.portsTo 1) hb
  generalize (s.portsTo 1).latchPads = u at still held ⊢
  obtain ⟨mode, busy, result⟩ := asleep_reads u (show 1 < 4 by decide)
  exact ⟨mode, busy, result, fun b hb => (asleep_far u 1 _ (by simp only [D, Off.die]; omega)).trans (held b hb), still.mem⟩

theorem exec_drainTimeout (hc : s.clocked = true) : exec .drainTimeout s =
    .next (if s.rf 0 PWR_CTRL_BUSY = 1 ∧ s.rf 0 PWR_STATUS_PHASE = 1 ∧ s.rd A.drainAt 0 + 1000 * s.rf 0 PWR_CTRL_DRAIN_US ≤ s.mono then s.abandon 2 6
      else s) :=
  live_next hc fun s => if s.rf 0 PWR_CTRL_BUSY = 1 ∧ s.rf 0 PWR_STATUS_PHASE = 1 ∧ s.rd A.drainAt 0 + 1000 * s.rf 0 PWR_CTRL_DRAIN_US ≤ s.mono then
    s.abandon 2 6 else s

end drain

end Sys2Proof.Machine

/-! CERTIFICATE. The phases of SLUMBER and the obligation on sleep entries (chapter 18, R428 to R432). -/

namespace Sys2Proof.Machine

open Reg

section phases
variable {s : State}

theorem exec_entryPhaseEnd_none (hc : s.clocked = true) (h : ¬ s.rf 0 PWR_CTRL_BUSY = 1 ∨ s.rf 0 PWR_STATUS_STATE ≠ 2) : exec .entryPhaseEnd s = .next s := by
  show execEntryPhaseEnd s = _
  rw [execEntryPhaseEnd, State.live_on hc, if_pos (h.imp_left busy_zero)]

/-- A SLUMBER entry is in progress. -/
def State.slumbering (s : State) : Prop := s.rf 0 PWR_CTRL_BUSY = 1 ∧ s.rf 0 PWR_STATUS_STATE = 2

theorem slumbering_open (h : s.slumbering) : ¬ (s.rf 0 PWR_CTRL_BUSY = 0 ∨ s.rf 0 PWR_STATUS_STATE ≠ 2) := by
  obtain ⟨busy, state⟩ := h
  rintro (zero | other)
  · rw [busy] at zero
    cases zero
  · exact other state

section step
variable (hc : s.clocked = true) (h : s.slumbering)
include hc h

theorem exec_entryPhaseEnd_design (hp : s.rf 0 PWR_STATUS_PHASE = 2) : exec .entryPhaseEnd s = .next (s.saveDesign.abortPoint 3 3) := by
  show execEntryPhaseEnd s = _
  rw [execEntryPhaseEnd, State.live_on hc, if_neg (slumbering_open h), hp]
  rfl

theorem exec_entryPhaseEnd_regs (hp : s.rf 0 PWR_STATUS_PHASE = 3) : exec .entryPhaseEnd s = .next (s.saveRegs.abortPoint 4 4) := by
  show execEntryPhaseEnd s = _
  rw [execEntryPhaseEnd, State.live_on hc, if_neg (slumbering_open h), hp]
  rfl

theorem exec_entryPhaseEnd_links (hp : s.rf 0 PWR_STATUS_PHASE = 4) :
    exec .entryPhaseEnd s = .next (((s.portsTo 2).wr A.pcieDown 0 1).abortPoint 5 5) := by
  show execEntryPhaseEnd s = _
  rw [execEntryPhaseEnd, State.live_on hc, if_neg (slumbering_open h), hp]
  rfl

theorem exec_entryPhaseEnd_commit (hp : s.rf 0 PWR_STATUS_PHASE = 5) : exec .entryPhaseEnd s = .next s.slumberNow := by
  show execEntryPhaseEnd s = _
  rw [execEntryPhaseEnd, State.live_on hc, if_neg (slumbering_open h), hp]
  rfl

end step

theorem abortPoint_wake (h : s.rd A.pwWake 0 ≠ 0) (point next : Nat) : s.abortPoint point next = s.abandon point 7 := if_pos h

theorem abortPoint_next (h : s.rd A.pwWake 0 = 0) (point next : Nat) : s.abortPoint point next = s.wf 0 PWR_STATUS_PHASE next := if_neg (not_not_intro h)

/-! ### What the phases keep -/

theorem newtSettle_sleep (s : State) (d : Nat) : s.SleepStill (s.newtSettle d) := by
  unfold State.newtSettle
  split
  next h =>
    obtain ⟨-, -, kind⟩ := h
    rw [State.newtCopyBack, if_pos kind]
    exact sleep_foldl (fun u i => ((State.SleepStill.refl u).wr (a := A.bay) (by decide) (by decide) _ _).wr (a := A.err) (by decide) (by decide) _ _) _ s
  next => exact .refl s

/-- SAVE_DESIGN changes nothing of the sleep itself but the save area. -/
theorem saveDesign_area (s : State) : ∃ (u : State) (area : Store), s.SleepStill u ∧ s.saveDesign = { u with saveArea := area } := by
  unfold State.saveDesign
  split
  · exact ⟨s, s.saveArea, .refl s, rfl⟩
  · have settled : s.SleepStill (s.each 8 State.newtSettle) := sleep_foldl newtSettle_sleep _ s
    exact ⟨_, _, (settled.drop (by decide) _).trans (sleep_foldl (fun u d => (State.SleepStill.refl u).wr (by decide) (by decide) _ _) _ _), rfl⟩

theorem saveDesign_none (h : s.rf 0 PWR_CTRL_SAVE_EN = 0) : s.saveDesign = s := if_pos h

/-- The always-on save memory alone changes in SAVE_REGS. -/
theorem saveRegs_rd (s : State) (a : Arr) (i : Nat) : s.saveRegs.rd a i = s.rd a i := rfl

/-- Ports go DORMANT, and the PCIe link goes down. -/
def State.linksDown (s : State) : State := (s.portsTo 2).wr A.pcieDown 0 1

theorem linksDown_wake (s : State) : s.linksDown.rd A.pwWake 0 = s.rd A.pwWake 0 :=
  (State.rd_wr_arr _ _ _ _ _ _ (by decide)).trans ((portsTo_sleep s 2).arrays _ _ (by decide))

/-- A wake that is pending ends an entry after SAVE_DESIGN, SAVE_REGS and LINKS. -/
theorem exec_entryPhaseEnd_wake (hc : s.clocked = true) (h : s.slumbering) (hw : s.rd A.pwWake 0 ≠ 0) (h2 : 2 ≤ s.rf 0 PWR_STATUS_PHASE)
    (h4 : s.rf 0 PWR_STATUS_PHASE ≤ 4) : ∃ t, exec .entryPhaseEnd s = .next t ∧ s.AwakeAgain t 7 := by
  have cases : s.rf 0 PWR_STATUS_PHASE = 2 ∨ s.rf 0 PWR_STATUS_PHASE = 3 ∨ s.rf 0 PWR_STATUS_PHASE = 4 := by omega
  obtain two | three | four := cases
  · obtain ⟨u, area, still, saved⟩ := saveDesign_area s
    have rd (a : Arr) (i : Nat) : State.rd { u with saveArea := area } a i = u.rd a i := rfl
    have clocks : State.clocked { u with saveArea := area } = u.clocked := clocked_of (rd _ _) (rd _ _) (rd _ _)
    have wakes : s.saveDesign.rd A.pwWake 0 ≠ 0 := by
      rw [saved, rd, still.arrays A.pwWake 0 (by decide)]
      exact hw
    refine ⟨_, (exec_entryPhaseEnd_design hc h two).trans (congrArg Host.Outcome.next (abortPoint_wake wakes 3 3)), ?_⟩
    rw [saved]
    have woken := abandon_awake { u with saveArea := area } 3 (show 7 < 16 by decide)
    exact woken.before (clocks.trans still.clocked) still.mem still.queue
  · exact ⟨_, (exec_entryPhaseEnd_regs hc h three).trans (congrArg Host.Outcome.next (abortPoint_wake (s := s.saveRegs) (by rw [saveRegs_rd]; exact hw) 4 4)),
      (abandon_awake s.saveRegs 4 (by decide)).before rfl rfl rfl⟩
  · have still := portsTo_sleep s 2
    have rd {a : Arr} (ha : ¬ A.pcieDown.code % 512 = a.code % 512) : s.linksDown.rd a 0 = (s.portsTo 2).rd a 0 := State.rd_wr_arr _ _ _ _ _ _ ha
    refine ⟨_, (exec_entryPhaseEnd_links hc h four).trans (congrArg Host.Outcome.next (abortPoint_wake (s := s.linksDown) ?_ 5 5)),
      (abandon_awake s.linksDown 5 (by decide)).before ((clocked_of (rd (by decide)) (rd (by decide)) (rd (by decide))).trans still.clocked) still.mem still.queue⟩
    rw [linksDown_wake]
    exact hw

/-! ### COMMIT (R430) -/

/-- The device in SLUMBER: pads latched, time slept over. -/
def State.committed (s : State) : State := (s.latchPads.wf 0 TIME_STATUS_SLEPT 1).asleep 2

theorem slumberNow_eq (h : s.l2 = []) (hw : s.endpointReset.committed.rd A.pwWake 0 = 0) : s.slumberNow = s.endpointReset.committed := by
  unfold State.slumberNow
  dsimp only
  rw [h, List.foldl_nil]
  exact if_pos hw

theorem committed_reads (s : State) : s.committed.rd A.pwMode 0 = 2 ∧ s.committed.rf 0 PWR_CTRL_BUSY = 0 ∧ s.committed.rf 0 PWR_CTRL_RESULT = 0 ∧
    s.committed.rf 0 TIME_STATUS_SLEPT = 1 ∧ (∀ b < 8, s.committed.rf (D b) GP_BANK_HELD = 1) ∧ s.committed.mem = s.mem ∧
    s.committed.rd A.pwWake 0 = s.rd A.pwWake 0 := by
  have still := latchPads_sleep s
  have held (b : Nat) (hb : b < 8) := latchPads_held s hb
  unfold State.committed
  generalize s.latchPads = u at still held ⊢
  obtain ⟨mode, busy, result⟩ := asleep_reads (u.wf 0 TIME_STATUS_SLEPT 1) (show 2 < 4 by decide)
  refine ⟨mode, busy, result, ?_, fun b hb => ?_, still.mem, ?_⟩
  · unfold State.asleep State.dropEntry
    rw [State.rf_wr _ A.busSlots _ _ _ _ (by decide), State.rf_wr _ A.pwMode _ _ _ _ (by decide), rf_wf_other _ _ _ (by decide), rf_wf_other _ _ _ (by decide),
      rf_wf_other _ _ _ (by decide), rf_wf_other _ _ _ (by decide)]
    exact State.rf_wf_same _ _ _ _ (by decide)
  · rw [asleep_far _ _ _ (by simp only [D, Off.die]; omega), State.rf_wf_reg _ _ _ _ _ _ (by simp only [D, Off.die, TIME_STATUS_SLEPT]; omega)]
    exact held b hb
  · unfold State.asleep State.dropEntry
    rw [State.rd_wr_arr _ _ _ _ _ _ (by decide), State.rd_wr_arr _ _ _ _ _ _ (by decide), State.rd_wf _ _ _ _ _ _ (by decide),
      State.rd_wf _ _ _ _ _ _ (by decide), State.rd_wf _ _ _ _ _ _ (by decide), State.rd_wf _ _ _ _ _ _ (by decide), State.rd_wf _ _ _ _ _ _ (by decide)]
    exact still.arrays _ _ (by decide)

end phases

/-- Settles O53: requests by the order of their refusals, each phase by its equation, and an entry that ends by `abandon_awake`. -/
theorem sleepEntries : Obligations.SleepEntries := by
  intro s who val v begun busy refused awake entry phase quiet late
  have again {t : State} {r : Nat} (hc : s.clocked = true) (h : s.AwakeAgain t r) : awake t r :=
    ⟨h.busy, h.state, h.phase, h.result, h.wake, h.clocked.trans hc, h.saveArea, h.aonSave, h.mem, h.held, h.pending⟩
  have begins (slumber : Bool) {t : State} (ht : t = ((s.wf 0 PWR_CTRL_RESULT 0).pwrFields v).sleepBegin slumber) :
      begun t.okay (if slumber then 2 else 1) := by
    obtain ⟨b, st, ph, re, wa, dr, sa, us, me⟩ := sleepBegin_reads s slumber v ht
    exact ⟨b, st, ph, re, wa, dr, sa, us, rfl, me⟩
  refine ⟨fun hs => ⟨fun hp => ⟨?_, ?_, ?_⟩, fun hp => ⟨fun h => ⟨?_, ?_⟩, fun h => ?_, fun h r hr => ⟨fun h0 => ?_, fun h0 => ?_⟩, ?_⟩⟩,
    fun hc he ha hr hn u hu => exec_cancel_held hc he ha hr hn hu, fun hc => ⟨exec_drainEnd_waits hc, fun hb hp hq => ⟨fun hw => ?_, fun hw h1 => ?_, fun hw h2 => ?_⟩,
      fun hb hp hl => ?_, fun h => ?_, exec_entryPhaseEnd_none hc, fun hb h2 => ⟨fun hw hlo hhi => ?_, fun hw => ⟨fun hp he => ?_, fun hp => ?_, fun hp => ?_,
      fun hp hl => ?_⟩⟩⟩⟩
  · rw [exec_park hs, if_neg (Bool.eq_false_iff.1 hp), State.denySleep, State.deny]
  · rw [exec_slumber hs, if_neg (Bool.eq_false_iff.1 hp), State.denySleep, State.deny]
  · rw [exec_cancel hs, if_neg (Bool.eq_false_iff.1 hp), State.deny]
  · rw [exec_park hs, if_pos hp, sleepAsk_refused (sleepCheck_busy h _ _) (by decide), State.okay]
  · rw [exec_slumber hs, if_pos hp, sleepAsk_refused (sleepCheck_busy h _ _) (by decide), State.okay]
  · refine ⟨_, (exec_park hs val).trans (congrArg Host.Outcome.next ((if_pos hp).trans (congrArg State.okay (sleepAsk_taken (sleepCheck_park h _))))), begins false rfl⟩
  · rw [exec_slumber hs, if_pos hp, sleepAsk_refused ((sleepCheck_slumber h _).trans hr.symm) h0, State.okay]
  · exact ⟨_, (exec_slumber hs val).trans (congrArg Host.Outcome.next ((if_pos hp).trans (congrArg State.okay
      (sleepAsk_taken ((sleepCheck_slumber h _).trans (hr.symm.trans h0)))))), begins true rfl⟩
  · rw [exec_cancel hs, if_pos hp, State.okay]
  · exact ⟨_, (exec_drainEnd_over hc hb hp hq).trans (congrArg Host.Outcome.next (if_pos hw)), again hc (abandon_awake s 2 (by decide))⟩
  · exact ⟨_, (exec_drainEnd_over hc hb hp hq).trans (congrArg Host.Outcome.next ((if_neg (not_not_intro hw)).trans (if_pos h1))), parkNow_reads s⟩
  · exact (exec_drainEnd_over hc hb hp hq).trans (congrArg Host.Outcome.next ((if_neg (not_not_intro hw)).trans (if_neg (by rw [h2]; decide))))
  · exact ⟨_, (exec_drainTimeout hc).trans (congrArg Host.Outcome.next (if_pos ⟨hb, hp, hl⟩)), again hc (abandon_awake s 2 (by decide))⟩
  · exact (exec_drainTimeout hc).trans (congrArg Host.Outcome.next (if_neg fun ⟨hb, hp, hl⟩ => h.elim (fun no => no hb) fun h => h.elim (fun no => no hp) fun no => no hl))
  · obtain ⟨t, ran, woken⟩ := exec_entryPhaseEnd_wake hc ⟨hb, h2⟩ hw hlo hhi
    exact ⟨t, ran, again hc woken, decide_eq_false (by rw [woken.up]; decide)⟩
  · rw [exec_entryPhaseEnd_design hc ⟨hb, h2⟩ hp, saveDesign_none he, abortPoint_next hw]
  · exact ⟨_, (exec_entryPhaseEnd_regs hc ⟨hb, h2⟩ hp).trans (congrArg Host.Outcome.next (abortPoint_next ((saveRegs_rd s _ _).trans hw) 4 4)), State.rf_wf_same _ _ _ _ (by decide), rfl, rfl⟩
  · refine ⟨_, (exec_entryPhaseEnd_links hc ⟨hb, h2⟩ hp).trans (congrArg Host.Outcome.next (abortPoint_next (s := s.linksDown) ((linksDown_wake s).trans hw) 5 5)),
      State.rf_wf_same _ _ _ _ (by decide), decide_eq_true ?_, (portsTo_sleep s 2).mem⟩
    exact (State.rd_wf _ _ _ _ _ _ (by decide)).trans (State.rd_wr_same ..)
  · obtain ⟨mode, b, re, slept, held, mem, wake⟩ := committed_reads s.endpointReset
    have none : s.endpointReset.rd A.pwWake 0 = s.rd A.pwWake 0 := endpointReset_rd (by decide) (by decide) 0
    exact ⟨_, (exec_entryPhaseEnd_commit hc ⟨hb, h2⟩ hp).trans (congrArg Host.Outcome.next (slumberNow_eq hl (wake.trans (none.trans hw)))), mode, b, re, slept, held,
      mem.trans (endpointReset_mem s)⟩

end Sys2Proof.Machine

/-! SUPPORT. What the boot ROM, the firmware and the samples after a reset leave as it was (chapters 14, 18 and 19, R332 to R337, R389). -/

namespace Sys2Proof.Machine

open Reg

/-! ### The frame -/

/-- `t` is `s` but for the arrays that `codes` lists and, of the device's own registers, those at `regs`. -/
structure State.BootKept (codes regs : List Nat) (s t : State) : Prop where
  only : s.Only codes t
  low : ∀ r < 0x1000, regs.contains r = false → t.reg r = s.reg r
  rest : t = { s with arr := t.arr }

section frame
variable {codes regs : List Nat} {s t u : State}

theorem State.BootKept.refl (codes regs : List Nat) (s : State) : s.BootKept codes regs s := ⟨.refl .., fun _ _ _ => rfl, rfl⟩

theorem State.BootKept.trans (h : s.BootKept codes regs t) (h' : t.BootKept codes regs u) : s.BootKept codes regs u :=
  ⟨h.only.step h'.only (listed_self _), fun r hr hl => (h'.low r hr hl).trans (h.low r hr hl),
    h'.rest.trans (congrArg (fun v : State => { v with arr := u.arr }) h.rest)⟩

theorem State.BootKept.more {codes' regs' : List Nat} (h : s.BootKept codes regs t) (hc : codes.all codes'.contains = true)
    (hr : regs.all regs'.contains = true) : s.BootKept codes' regs' t :=
  ⟨h.only.mono hc, fun r lt hl => h.low r lt (Bool.eq_false_iff.2 fun bad =>
    Bool.false_ne_true (hl.symm.trans (List.all_eq_true.1 hr r (List.contains_iff_mem.1 bad)))), h.rest⟩

theorem State.BootKept.wr (h : s.BootKept codes regs t) {a : Arr} (hc : codes.contains (a.code % 512) = true) (h0 : a.code % 512 ≠ 0) (i v : Nat) :
    s.BootKept codes regs (t.wr a i v) :=
  h.trans ⟨(State.Only.refl ..).wr _ _ hc, fun _ _ _ => State.reg_wr _ _ _ _ _ h0, rfl⟩

theorem State.BootKept.reg (h : s.BootKept codes regs t) (hc : codes.contains 0 = true) {r : Nat} (hr : regs.contains r = true ∨ 0x1000 ≤ r) (v : Nat) :
    s.BootKept codes regs (t.wr A.reg r v) := by
  refine h.trans ⟨(State.Only.refl ..).wr _ _ hc, fun o ho hl => State.rd_wr_ix _ _ _ _ _ fun e => ?_, rfl⟩
  obtain listed | far := hr
  · exact Bool.false_ne_true (hl.symm.trans (e ▸ listed))
  · omega

theorem State.BootKept.wf (h : s.BootKept codes regs t) (hc : codes.contains 0 = true) {b : Nat} {f : Fld} (hr : regs.contains (b + f.off) = true ∨ 0x1000 ≤ b + f.off)
    (v : Nat) : s.BootKept codes regs (t.wf b f v) := h.reg hc hr _

theorem State.BootKept.drop (h : s.BootKept codes regs t) {a : Arr} (hc : codes.contains a.code = true) (h0 : A.reg.code % 512 ≠ a.code) (p : Nat → Bool) :
    s.BootKept codes regs (t.drop a p) :=
  h.trans ⟨(State.Only.refl ..).drop _ _ hc, fun r _ _ => rd_drop t p r h0, rfl⟩

theorem State.BootKept.ite {c : Prop} [Decidable c] (ht : s.BootKept codes regs t) (hu : s.BootKept codes regs u) : s.BootKept codes regs (if c then t else u) := by
  split
  · exact ht
  · exact hu

theorem boot_foldl {α : Type} {f : State → α → State} (hf : ∀ (u : State) x, u.BootKept codes regs (f u x)) (l : List α) (s : State) :
    s.BootKept codes regs (l.foldl f s) := by
  induction l generalizing s with
  | nil => exact .refl ..
  | cons x r ih => exact (hf s x).trans (ih _)

theorem boot_each {f : State → Nat → State} (hf : ∀ (u : State) x, u.BootKept codes regs (f u x)) (n : Nat) (s : State) :
    s.BootKept codes regs (s.each n f) := boot_foldl hf _ s

theorem State.BootKept.rf (h : s.BootKept codes regs t) {f : Fld} (hf : f.off < 0x1000) (hl : regs.contains (0 + f.off) = false) : t.rf 0 f = s.rf 0 f :=
  congrArg (fun v => slice v f.lo f.w) (h.low _ (by omega) hl)

theorem State.BootKept.pair (h : s.BootKept codes regs t) {o : Nat} (ho : o + 4 < 0x1000) (hl : regs.contains o = false) (h4 : regs.contains (o + 4) = false) :
    t.pair o = s.pair o := by
  rw [State.pair, h.low o (by omega) hl, h.low (o + 4) ho h4, State.pair]

end frame

/-! ### Samples of pins -/

theorem taskReady_kept (s : State) (t r : Nat) : s.BootKept raiseCodes [] (s.taskReady t r) :=
  (((((State.BootKept.refl ..).wr rfl (by decide) _ _).wr rfl (by decide) _ _).wr rfl (by decide) _ _).wr rfl (by decide) _ _).wr rfl (by decide) _ _

theorem setFlag_kept (s : State) (t f : Nat) : s.BootKept raiseCodes [] (s.setFlag t f) := by
  have flag := (State.BootKept.refl raiseCodes [] s).wr (a := A.tFlags) rfl (by decide) t (s.rd A.tFlags t ||| 2 ^ f)
  exact (flag.trans (taskReady_kept ..)).ite flag

theorem routeFlag_kept (s : State) (o : Option Nat) (v : Nat) : s.BootKept raiseCodes [] (s.routeFlag o v) := by
  have dropped (d : Nat) := (State.BootKept.refl raiseCodes [] s).wf (b := D d) (f := DISP_XPART_DROP_DROPS) rfl (.inr (by simp only [D, Off.die]; omega))
  exact (State.BootKept.refl ..).ite ((setFlag_kept ..).ite (dropped _ _))

theorem routeVec_kept (s : State) (o : Option Nat) (v : Nat) : s.BootKept raiseCodes [] (s.routeVec o v) := by
  have dropped := (State.BootKept.refl raiseCodes [] s).wf (b := 0) (f := EVT_DROP_DROPS) rfl (.inr (by decide))
  exact (State.BootKept.refl ..).ite (((State.BootKept.refl ..).wr rfl (by decide) _ _).ite (dropped _))

theorem raise_kept (s : State) (src : Nat) : s.BootKept raiseCodes [] (s.raise src) :=
  (((State.BootKept.refl raiseCodes [] s).reg rfl (.inr (by simp only [oEVT_STATUS]; omega)) _).trans (routeFlag_kept ..)).trans (routeVec_kept ..)

theorem gpSample_kept (s : State) (pin : Nat) (l : Bool) : s.BootKept raiseCodes [] (s.gpSample pin l) := by
  have far (f : Fld) : [].contains (D (pin / 32) + f.off) = true ∨ 0x1000 ≤ D (pin / 32) + f.off := .inr (by simp only [D, Off.die]; omega)
  unfold State.gpSample
  dsimp only
  generalize patch _ _ _ _ = level
  have shown := (State.BootKept.refl raiseCodes [] s).wf (f := GP_IN_LEVEL) rfl (far _) level
  exact ((shown.wf rfl (far _) _).trans (raise_kept ..)).ite shown

theorem gpResume_kept (s : State) : s.BootKept (142 :: raiseCodes) [] s.gpResume := by
  have one (u : State) (x : Nat × Nat) : u.BootKept (142 :: raiseCodes) [] (u.gpSample x.1 (x.2 = 3)) :=
    (gpSample_kept u x.1 (decide (x.2 = 3))).more (by decide) (by decide)
  have sampled := boot_foldl one (s.listed A.pinNow) s
  exact sampled.trans ((State.BootKept.refl (142 :: raiseCodes) [] _).drop (a := A.pinNow) (by decide) (by decide) fun _ => true)

/-! ### The boot ROM (R333, R337) -/

/-- Arrays that a boot container's parameters and the firmware write. -/
def fwCodes : List Nat := [A.reg.code, A.chainParams.code, A.keyPolicy.code, A.containerId.code, A.bootRam.code, A.cnSet.code, A.cnMatch.code, A.cnMask.code,
  A.cnPath.code, A.cnFw.code, A.coreUp.code]

/-- Arrays that the boot ROM and the firmware write, beside the fuses of the life cycle and the keys. -/
def romCodes : List Nat := fwCodes ++ [A.sealKey.code, A.wlSet.code, A.bootRec.code, A.stageByte.code, A.fuseSvn.code]

/-- Registers of the device that they write. -/
def romRegs : List Nat := [oBOOT_STATUS, oSEC_STATUS, oSVN_STATUS, oTAMPER_CFG]

section rom
variable (s : State)

theorem setStage_kept (n : Nat) : s.BootKept romCodes romRegs (s.setStage n) := (State.BootKept.refl ..).wf rfl (.inl rfl) n

theorem bootFail_kept (r : Nat) : s.BootKept romCodes romRegs (s.bootFail r) := ((State.BootKept.refl ..).wf rfl (.inl rfl) r).ite (.refl ..)

/-- The firmware's link parameters for a port. -/
def State.portConfigured (cp : Nat) (s : State) (p : Nat) : State :=
  (s.wf (PT p) PORT_CFG_MAX_RATE (slice cp (8 * p) 8)).wf (PT p) PORT_CFG_LANE_EN (slice cp (128 + 8 * p) 4)

/-- The route tables as firmware leaves them. -/
def State.routesWritten (s : State) : State :=
  ((((s.drop A.cnSet fun _ => true).drop A.cnMatch fun _ => true).drop A.cnMask fun _ => true).drop A.cnPath fun _ => true).wr A.cnFw 0 1

/-- The links, the routes and the cores as firmware leaves them. -/
def State.firmwareSet (s : State) : State := ((s.each 16 (State.portConfigured (s.rd A.chainParams 0))).routesWritten).each 256 fun s c => s.wr A.coreUp c 1

theorem firmware_eq : s.firmware = s.firmwareSet.setStage 3 := rfl

theorem portConfigured_kept (cp p : Nat) : s.BootKept fwCodes [] (s.portConfigured cp p) := by
  have far (f : Fld) : 0x1000 ≤ PT p + f.off := by
    simp only [PT, Off.port, Off.die]
    omega
  exact ((State.BootKept.refl ..).wf rfl (.inr (far _)) _).wf rfl (.inr (far _)) _

theorem routesWritten_kept : s.BootKept fwCodes [] s.routesWritten :=
  (((((State.BootKept.refl ..).drop (a := A.cnSet) rfl (by decide) _).drop (a := A.cnMatch) rfl (by decide) _).drop (a := A.cnMask) rfl (by decide) _).drop
    (a := A.cnPath) rfl (by decide) _).wr (a := A.cnFw) rfl (by decide) _ _

theorem firmwareSet_kept : s.BootKept fwCodes [] s.firmwareSet := by
  have up : ∀ u : State, u.BootKept fwCodes [] (u.each 256 fun s c => s.wr A.coreUp c 1) :=
    boot_each (fun v c => (State.BootKept.refl ..).wr (a := A.coreUp) rfl (by decide) c 1) 256
  exact ((boot_each (fun u p => portConfigured_kept u _ p) 16 s).trans (routesWritten_kept _)).trans (up _)

theorem firmware_kept : s.BootKept romCodes romRegs s.firmware := ((firmwareSet_kept s).more (by decide) rfl).trans (setStage_kept ..)

theorem putFirmware_kept (fw : List Byte) : s.BootKept fwCodes [] (s.putFirmware fw) := by
  have put : ∀ (l : List (Byte × Nat)) (u : State), u.BootKept fwCodes [] (l.foldl (fun s x => s.wr A.bootRam x.2 x.1.toNat) u) :=
    boot_foldl fun u x => (State.BootKept.refl ..).wr (a := A.bootRam) (by decide) (by decide) x.2 x.1.toNat
  have cleared : s.BootKept fwCodes [] (s.drop A.bootRam fun _ => true) := (State.BootKept.refl ..).drop (by decide) (by decide) _
  exact cleared.trans (put _ _)

/-- What a section of a boot container sets. -/
def State.applySection (s : State) (x : Section) : State :=
  match x.kind with
  | 2 => s.wr A.chainParams 0 (leAt (s.openSection x false).2 0 64)
  | 3 => s.wr A.keyPolicy 0 (leAt (s.openSection x false).2 0 16)
  | _ => s

/-- A boot container's parameters, policy, version and name. -/
def State.containerApplied (s : State) (b : List Byte) : State :=
  (((contSectionList b).foldl State.applySection ((s.wr A.chainParams 0 0).wr A.keyPolicy 0 0)).wf 0 SVN_STATUS_RUN_BOOT_SVN (contSvn b)).wr
    A.containerId 0 (leAt b 0x20 8)

/-- The firmware that a container holds, as `s` opens it. -/
def State.firmwareOf (s : State) (b : List Byte) : List Byte :=
  ((contSectionList b).filter (·.kind = 1)).flatMap fun x => (s.openSection x false).2

theorem runBoot_eq (b : List Byte) : s.runBoot b =
    if ((s.containerApplied b).firmwareOf b).isEmpty ∨ bootRamBytes < ((s.containerApplied b).firmwareOf b).length then (s.containerApplied b).setStage stageHalted
    else ((s.containerApplied b).putFirmware ((s.containerApplied b).firmwareOf b)).firmware := rfl

theorem applySection_kept (x : Section) : s.BootKept fwCodes [] (s.applySection x) := by
  unfold State.applySection
  split
  · exact (State.BootKept.refl ..).wr rfl (by decide) _ _
  · exact (State.BootKept.refl ..).wr rfl (by decide) _ _
  · exact .refl ..

theorem containerApplied_kept (b : List Byte) : s.BootKept fwCodes [oSVN_STATUS] (s.containerApplied b) := by
  have cleared : s.BootKept fwCodes [oSVN_STATUS] ((s.wr A.chainParams 0 0).wr A.keyPolicy 0 0) :=
    ((State.BootKept.refl ..).wr (a := A.chainParams) rfl (by decide) 0 0).wr (a := A.keyPolicy) rfl (by decide) 0 0
  exact ((cleared.trans (boot_foldl (fun u x => (applySection_kept u x).more (listed_self _) rfl) _ _)).wf rfl (.inl rfl) _).wr (a := A.containerId) rfl (by decide) _ _

theorem runBoot_kept (b : List Byte) : s.BootKept romCodes romRegs (s.runBoot b) := by
  have applied := (containerApplied_kept s b).more (codes' := romCodes) (regs' := romRegs) (by decide) (by decide)
  rw [runBoot_eq]
  exact (applied.trans (setStage_kept ..)).ite ((applied.trans ((putFirmware_kept ..).more (by decide) rfl)).trans (firmware_kept _))

theorem stageByte_dropped (p : Nat → Bool) : s.BootKept romCodes romRegs (s.drop A.stageByte p) := (State.BootKept.refl ..).drop (by decide) (by decide) _

theorem stageContainer_kept (b : List Byte) : s.BootKept romCodes romRegs (s.stageContainer b) := by
  have put : ∀ (l : List (Byte × Nat)) (u : State), u.BootKept romCodes romRegs (l.foldl (fun s x => s.wr A.stageByte x.2 x.1.toNat) u) :=
    boot_foldl fun u x => (State.BootKept.refl ..).wr (a := A.stageByte) (by decide) (by decide) x.2 x.1.toNat
  exact (stageByte_dropped ..).trans (put _ _)

theorem checkStaged_kept (b : List Byte) : s.BootKept romCodes romRegs (s.checkStaged b).2 := (stageByte_dropped ..).ite (.refl ..)

theorem writeRecord_kept (r : BootRec) : s.BootKept romCodes romRegs (s.writeRecord r) := (State.BootKept.refl ..).wr (a := A.bootRec) rfl (by decide) _ _

theorem chooseSlot_kept (x : Nat) : s.BootKept romCodes romRegs (s.chooseSlot x).2.2.2 := by
  unfold State.chooseSlot
  dsimp only
  split
  · exact .refl ..
  · split <;> exact writeRecord_kept ..

theorem advanceSvn_kept (x n : Nat) : s.BootKept romCodes romRegs (s.advanceSvn x n) := (State.BootKept.refl ..).wr (a := A.fuseSvn) rfl (by decide) _ _

theorem bootFrom_kept (slot : Nat) (b : List Byte) : s.BootKept romCodes romRegs (s.bootFrom slot b) :=
  ((State.BootKept.refl ..).wf rfl (.inl rfl) _).trans (runBoot_kept ..)

/-- A container that has been staged and checked. -/
theorem staged_kept (b : List Byte) : s.BootKept romCodes romRegs
    (if (s.stageContainer b).checkContainer b 1 = bootOk then (s.stageContainer b).wipeStaging else s.stageContainer b) :=
  ((stageContainer_kept s b).trans (stageByte_dropped ..)).ite (stageContainer_kept ..)

/-- The chosen slot shows in BOOT_STATUS. -/
theorem slotShown_kept (c : Nat × Bool × Bool × State) (h : s.BootKept romCodes romRegs c.2.2.2) : s.BootKept romCodes romRegs
    ((c.2.2.2.wf 0 BOOT_STATUS_REVERTED (bit c.2.1)).wf 0 BOOT_STATUS_BOOT_TRIAL (bit c.2.2.1)) := (h.wf rfl (.inl rfl) _).wf rfl (.inl rfl) _

theorem fellBack_kept (r : Nat) : s.BootKept romCodes romRegs ((s.bootFail r).wf 0 BOOT_STATUS_FALLBACK 1) := (bootFail_kept ..).wf rfl (.inl rfl) 1

theorem bootVerify_kept : s.BootKept romCodes romRegs s.bootVerify := by
  unfold State.bootVerify State.checkStaged State.enterRecovery
  dsimp only
  have chosen := slotShown_kept s _ ((setStage_kept s 2).trans (chooseSlot_kept (s.setStage 2) 0))
  generalize (s.setStage 2).chooseSlot 0 = c at chosen ⊢
  generalize (c.2.2.2.wf 0 BOOT_STATUS_REVERTED (bit c.2.1)).wf 0 BOOT_STATUS_BOOT_TRIAL (bit c.2.2.1) = u at chosen ⊢
  have first := chosen.trans (staged_kept u (u.slotContainer c.1))
  generalize (if (u.stageContainer (u.slotContainer c.1)).checkContainer (u.slotContainer c.1) 1 = bootOk then _ else _) = v at first ⊢
  generalize (u.stageContainer (u.slotContainer c.1)).checkBoot _ = r
  have fell := first.trans (fellBack_kept v r)
  generalize (v.bootFail r).wf 0 BOOT_STATUS_FALLBACK 1 = w at fell ⊢
  have second := fell.trans (staged_kept w (w.slotContainer (1 - c.1)))
  exact (((setStage_kept ..).trans (bootFail_kept ..)).trans (setStage_kept ..)).ite
    ((((first.trans (advanceSvn_kept ..)).ite first).trans (bootFrom_kept ..)).ite ((second.trans (bootFrom_kept ..)).ite (second.trans (setStage_kept ..))))

/-- The boot ROM, once the life cycle is complete. -/
def State.romAfter (s : State) : State :=
  let u := (s.wf 0 SEC_STATUS_LC s.fusedLc).deriveSeal
  let v := if s.fusedLc = 2 then (u.wr A.reg oTAMPER_CFG (u.rd A.fuseTamper 0)).wr A.wlSet oTAMPER_CFG 0x1F else u
  if s.fusedLc = 4 then v.setStage stageHalted else if s.fusedLc = 0 then v.enterRecovery else v.bootVerify

theorem bootRom_eq : s.bootRom = (s.setStage 0).completeLc.romAfter := rfl

theorem romAfter_kept : s.BootKept romCodes romRegs s.romAfter := by
  have sealed : s.BootKept romCodes romRegs (s.wf 0 SEC_STATUS_LC s.fusedLc).deriveSeal :=
    ((State.BootKept.refl ..).wf rfl (.inl rfl) _).wr (a := A.sealKey) rfl (by decide) _ _
  have monitored := (((sealed.reg (r := oTAMPER_CFG) rfl (.inl rfl) ((s.wf 0 SEC_STATUS_LC s.fusedLc).deriveSeal.rd A.fuseTamper 0)).wr (a := A.wlSet) rfl (by decide) oTAMPER_CFG 0x1F).ite (c := s.fusedLc = 2) sealed)
  exact (monitored.trans (setStage_kept ..)).ite ((monitored.trans (setStage_kept ..)).ite (monitored.trans (bootVerify_kept _)))

end rom

end Sys2Proof.Machine

/-! SUPPORT. Resets: what they clear, what they keep, and the end of the boot ROM (chapters 14 and 18, R333, R357, R436). -/

namespace Sys2Proof.Machine

open Reg

/-! ### The life cycle at boot (R356, R357) -/

/-- One bit of the life cycle: burned to its end where it is burned in part. -/
def State.burned (s : State) (g : Nat) : State :=
  if s.rd A.fuseLc g ≠ 0 ∧ s.rd A.fuseLc g ≠ 0xFF then (s.wipeKeyRam.wipeVault.wr A.fuseLc g 0xFF).wf 0 SEC_STATUS_LC_COMPLETED 1 else s

theorem completeLc_eq (s : State) : s.completeLc = [1, 2, 3, 4].foldl State.burned s := rfl

/-- No bit of the life cycle is burned in part. -/
def State.lcWhole (s : State) : Prop := ∀ g, 1 ≤ g → g ≤ 4 → s.rd A.fuseLc g = 0 ∨ s.rd A.fuseLc g = 0xFF

theorem completeLc_whole {s : State} (h : s.lcWhole) : s.completeLc = s := by
  rw [completeLc_eq]
  refine foldl_noop _ _ _ fun g hg => if_neg ?_
  rintro ⟨some, part⟩
  have range : 1 ≤ g ∧ g ≤ 4 := (by decide : ∀ x ∈ [1, 2, 3, 4], 1 ≤ x ∧ x ≤ 4) g hg
  exact (h g range.1 range.2).elim some part

/-- Arrays and registers that the end of a transition writes. -/
def lcCodes : List Nat := [A.reg.code, A.fuseLc.code, A.keyRam.code, A.keyRamOk.code, A.sealKey.code]
def lcRegs : List Nat := [oSEC_STATUS, oKEYRAM_KCV]

theorem foldl_preserves {α : Type} {P : State → Prop} {f : State → α → State} (h : ∀ u x, P u → P (f u x)) (l : List α) {s : State} (hs : P s) :
    P (l.foldl f s) := by
  induction l generalizing s with
  | nil => exact hs
  | cons x r ih => exact ih (h s x hs)

/-- `t` is `s` but for the arrays that `codes` lists, the device's own registers at `regs`, and lists that no statement about a reset reads. -/
structure State.ResetKept (codes regs : List Nat) (s t : State) : Prop where
  only : s.Only codes t
  low : ∀ r < 0x1000, regs.contains r = false → t.reg r = s.reg r
  lists : (t.mem, t.packets, t.causes) = (s.mem, s.packets, s.causes)

section frame
variable {codes regs : List Nat} {s t u : State}

theorem State.BootKept.reset (h : s.BootKept codes regs t) : s.ResetKept codes regs t :=
  ⟨h.only, h.low, (congrArg (fun v : State => (v.mem, v.packets, v.causes)) h.rest).trans rfl⟩

theorem State.BootKept.vault (h : s.BootKept codes regs t) : t.vault = s.vault := (congrArg (fun v : State => v.vault) h.rest).trans rfl

theorem State.ResetKept.refl (codes regs : List Nat) (s : State) : s.ResetKept codes regs s := (State.BootKept.refl codes regs s).reset

theorem State.ResetKept.trans (h : s.ResetKept codes regs t) (h' : t.ResetKept codes regs u) : s.ResetKept codes regs u :=
  ⟨h.only.step h'.only (listed_self _), fun r hr hl => (h'.low r hr hl).trans (h.low r hr hl), h'.lists.trans h.lists⟩

theorem State.ResetKept.more {codes' regs' : List Nat} (h : s.ResetKept codes regs t) (hc : codes.all codes'.contains = true)
    (hr : regs.all regs'.contains = true) : s.ResetKept codes' regs' t :=
  ⟨h.only.mono hc, fun r lt hl => h.low r lt (Bool.eq_false_iff.2 fun bad =>
    Bool.false_ne_true (hl.symm.trans (List.all_eq_true.1 hr r (List.contains_iff_mem.1 bad)))), h.lists⟩

/-- A change of the lists that no part of a reset reads. -/
theorem State.ResetKept.update (h : s.ResetKept codes regs t) (ha : u.arr = t.arr) (hl : (u.mem, u.packets, u.causes) = (t.mem, t.packets, t.causes)) :
    s.ResetKept codes regs u := by
  have reads (a : Arr) (i : Nat) : u.rd a i = t.rd a i := by simp only [State.rd, ha]
  exact ⟨h.only.update ha, fun r hr hc => (reads A.reg r).trans (h.low r hr hc), hl.trans h.lists⟩

theorem State.ResetKept.rf (h : s.ResetKept codes regs t) {f : Fld} (hf : f.off < 0x1000) (hl : regs.contains (0 + f.off) = false) : t.rf 0 f = s.rf 0 f :=
  congrArg (fun v => slice v f.lo f.w) (h.low _ (by omega) hl)

theorem State.ResetKept.pair (h : s.ResetKept codes regs t) {o : Nat} (ho : o + 4 < 0x1000) (hl : regs.contains o = false) (h4 : regs.contains (o + 4) = false) :
    t.pair o = s.pair o := by
  rw [State.pair, h.low o (by omega) hl, h.low (o + 4) ho h4, State.pair]

end frame

theorem wipeKeyRam_kept (s : State) : s.BootKept lcCodes lcRegs s.wipeKeyRam :=
  (((State.BootKept.refl ..).wr (a := A.keyRam) (by decide) (by decide) 0 0).wr (a := A.keyRamOk) (by decide) (by decide) 0 0).reg (by decide) (.inl (by decide)) 0

theorem wipeVault_kept (s : State) : s.ResetKept lcCodes lcRegs s.wipeVault := by
  have unsealed := ((State.BootKept.refl lcCodes lcRegs s).wr (a := A.sealKey) (by decide) (by decide) 0 0).reset
  unfold State.wipeVault
  generalize s.wr A.sealKey 0 0 = u at unsealed ⊢
  exact unsealed.update rfl rfl

theorem burned_kept (s : State) (g : Nat) : s.ResetKept lcCodes lcRegs (s.burned g) := by
  have shown (u : State) : u.BootKept lcCodes lcRegs ((u.wr A.fuseLc g 0xFF).wf 0 SEC_STATUS_LC_COMPLETED 1) :=
    ((State.BootKept.refl ..).wr (a := A.fuseLc) (by decide) (by decide) g 0xFF).wf (by decide) (.inl (by decide)) 1
  unfold State.burned
  split
  · exact ((wipeKeyRam_kept s).reset.trans (wipeVault_kept _)).trans (shown _).reset
  · exact .refl ..

theorem completeLc_kept (s : State) : s.ResetKept lcCodes lcRegs s.completeLc :=
  foldl_preserves (P := s.ResetKept lcCodes lcRegs) (fun u g h => h.trans (burned_kept u g)) [1, 2, 3, 4] (.refl ..)

theorem completeLc_novault {s : State} (h : s.vault = []) : s.completeLc.vault = [] := by
  refine foldl_preserves (P := fun u => u.vault = []) (f := State.burned) (fun u g hu => ?_) [1, 2, 3, 4] h
  unfold State.burned
  split
  · rfl
  · exact hu

/-- A bit that is burned stays so. -/
theorem completeLc_burned {s : State} {b : Nat} (h : s.rd A.fuseLc b = 0xFF) : s.completeLc.rd A.fuseLc b = 0xFF := by
  refine foldl_preserves (P := fun u => u.rd A.fuseLc b = 0xFF) (f := State.burned) (fun u g hu => ?_) [1, 2, 3, 4] h
  have apart (v : State) (hv : v.rd A.fuseLc b = 0xFF) : (v.wr A.fuseLc g 0xFF).rd A.fuseLc b = 0xFF := by
    by_cases e : g = b
    · rw [e, State.rd_wr_same]
      rfl
    · rw [State.rd_wr_ix _ _ _ _ _ e, hv]
  have wiped : u.wipeKeyRam.wipeVault.rd A.fuseLc b = 0xFF := by
    have kept : u.wipeKeyRam.wipeVault.rd A.fuseLc b = u.rd A.fuseLc b := by
      show (u.wipeKeyRam.wr A.sealKey 0 0).rd A.fuseLc b = _
      rw [State.rd_wr_arr _ _ _ _ _ _ (by decide), State.wipeKeyRam, State.rd_wr_arr _ _ _ _ _ _ (by decide), State.rd_wr_arr _ _ _ _ _ _ (by decide),
        State.rd_wr_arr _ _ _ _ _ _ (by decide)]
    rw [kept, hu]
  unfold State.burned
  split
  · rw [State.rd_wf _ _ _ _ _ _ (by decide)]
    exact apart _ wiped
  · exact hu

/-! ### The boot ROM (R333) -/

def bootCodes : List Nat := A.fuseLc.code :: A.keyRam.code :: A.keyRamOk.code :: romCodes
def bootRegs : List Nat := oKEYRAM_KCV :: romRegs

theorem bootRom_kept (s : State) : s.ResetKept bootCodes bootRegs s.bootRom :=
  ((((setStage_kept s 0).reset.more (by decide) (by decide)).trans ((completeLc_kept _).more (by decide) (by decide)))).trans
    ((romAfter_kept _).reset.more (by decide) (by decide))

theorem setStage_fuse (s : State) (n g : Nat) : (s.setStage n).rd A.fuseLc g = s.rd A.fuseLc g := State.rd_wf _ _ _ _ _ _ (by decide)

theorem setStage_whole {s : State} (h : s.lcWhole) (n : Nat) : (s.setStage n).lcWhole := fun g h1 h4 => by
  rw [setStage_fuse]
  exact h g h1 h4

theorem bootRom_whole {s : State} (h : s.lcWhole) : s.BootKept romCodes romRegs s.bootRom := by
  rw [bootRom_eq, completeLc_whole (setStage_whole h 0)]
  exact (setStage_kept ..).trans (romAfter_kept _)

theorem bootRom_novault {s : State} (h : s.vault = []) : s.bootRom.vault = [] :=
  (romAfter_kept _).vault.trans (completeLc_novault ((setStage_kept s 0).vault.trans h))

theorem stage_setStage (s : State) {n : Nat} (h : n < 16) : (s.setStage n).rf 0 BOOT_STATUS_STAGE = n := by
  rw [State.setStage, State.rf_wf_same _ _ _ _ (by decide)]
  exact Nat.mod_eq_of_lt h

theorem bootRom_scrap {s : State} (h : s.rd A.fuseLc 4 = 0xFF) : s.bootRom.rf 0 BOOT_STATUS_STAGE = 9 := by
  have scrap : ((s.setStage 0).completeLc).fusedLc = 4 := if_pos (completeLc_burned (by rw [setStage_fuse, h]))
  rw [bootRom_eq, State.romAfter, if_pos scrap]
  exact stage_setStage _ (by decide)

theorem bootRom_blank {s : State} (h : ∀ g, 1 ≤ g → g ≤ 4 → s.rd A.fuseLc g = 0) : s.bootRom.rf 0 BOOT_STATUS_STAGE = 8 := by
  have unburned (g : Nat) (h1 : 1 ≤ g) (h4 : g ≤ 4) : ¬ (s.setStage 0).rd A.fuseLc g = 0xFF := by
    rw [setStage_fuse, h g h1 h4]
    decide
  have blank : (s.setStage 0).fusedLc = 0 := by
    rw [State.fusedLc, if_neg (unburned 4 (by decide) (by decide)), if_neg (unburned 3 (by decide) (by decide)), if_neg (unburned 2 (by decide) (by decide)),
      if_neg (unburned 1 (by decide) (by decide))]
  rw [bootRom_eq, completeLc_whole (setStage_whole (fun g h1 h4 => .inl (h g h1 h4)) 0), State.romAfter, if_neg (by rw [blank]; decide), if_pos blank]
  exact stage_setStage _ (by decide)

/-! ### What a reset clears (R436) -/

/-- A reset keeps this entry. -/
def clearKeeps (keep : Nat → Nat → Bool) (code i : Nat) : Bool := keptAlways code ∨ keep code i ∨ (code = A.reg.code ∧ keptPins i)

/-- The state of reset, with what is kept. -/
def State.atReset (s : State) (keep : Nat → Nat → Bool) : State :=
  { State.reset with
    arr := s.arr.filter fun e => keptAlways (e.1 % 512) ∨ keep (e.1 % 512) (e.1 / 512) ∨ (e.1 % 512 = A.reg.code ∧ keptPins (e.1 / 512))
    repairs := s.repairs.filter (·.fused), out := s.out, rsp := s.rsp, freeCtr := s.freeCtr, pending := s.pending }

/-- The levels of the rails of a die show as they are. -/
def State.railsShown (s t : State) (b : Nat) : State :=
  (t.wf (D b) GP_BANK_VDDIO_OK (s.rf (D b) GP_BANK_VDDIO_OK)).wf (D b) GP_BANK_VDDIO_33 (s.rf (D b) GP_BANK_VDDIO_33)

theorem clearTo_eq (s : State) (keep : Nat → Nat → Bool) : s.clearTo keep = (s.atReset keep).each 8 s.railsShown := rfl

theorem clearTo_kept (s : State) (keep : Nat → Nat → Bool) : (s.atReset keep).BootKept [0] [] (s.clearTo keep) := by
  rw [clearTo_eq]
  refine boot_each (fun u b => ?_) 8 _
  have far (f : Fld) : [].contains (D b + f.off) = true ∨ 0x1000 ≤ D b + f.off := .inr (by simp only [D, Off.die]; omega)
  exact ((State.BootKept.refl [0] [] u).wf rfl (far _) _).wf rfl (far _) _

section atReset
variable (s : State) {keep : Nat → Nat → Bool} {a : Arr} (ha : a.code < 512) {i : Nat}
include ha

theorem atReset_rd (h : clearKeeps keep a.code i = true) : (s.atReset keep).rd a i = s.rd a i := by
  have code : a.key i % 512 = a.code := by simp only [Arr.key]; omega
  have place : a.key i / 512 = i := by simp only [Arr.key]; omega
  have listed := get_filter (dflt (a.key i)) (fun e : Nat × Nat => clearKeeps keep (e.1 % 512) (e.1 / 512)) (a.key i) (fun v => by
    show clearKeeps keep (a.key i % 512) (a.key i / 512) = true
    rw [code, place, h]) s.arr
  exact congrArg (· % 2 ^ a.width) listed

theorem atReset_gone (h : clearKeeps keep a.code i = false) : (s.atReset keep).rd a i = dflt (a.key i) % 2 ^ a.width := by
  have code : a.key i % 512 = a.code := by simp only [Arr.key]; omega
  have place : a.key i / 512 = i := by simp only [Arr.key]; omega
  have out := get_filter_out (dflt (a.key i)) (fun e : Nat × Nat => clearKeeps keep (e.1 % 512) (e.1 / 512)) (a.key i) (fun v => by
    show clearKeeps keep (a.key i % 512) (a.key i / 512) = false
    rw [code, place, h]) s.arr
  exact congrArg (· % 2 ^ a.width) out

end atReset

/-- An array that reads 0 at reset. -/
theorem atReset_zero (s : State) {keep : Nat → Nat → Bool} {a : Arr} (ha : a.Plain) {i : Nat} (h : clearKeeps keep a.code i = false) :
    (s.atReset keep).rd a i = 0 := by
  obtain ⟨lt, noReg, noVec⟩ := ha
  have code : a.key i % 512 = a.code := by simp only [Arr.key]; omega
  rw [atReset_gone s lt h, dflt, if_neg (by rw [code]; exact noReg), if_neg (by rw [code]; exact noVec), Nat.zero_mod]

/-- A register at its reset value. -/
theorem atReset_reg (s : State) {keep : Nat → Nat → Bool} {o : Nat} (h : clearKeeps keep 0 o = false) : (s.atReset keep).reg o = regReset o % 2 ^ 32 := by
  have code : A.reg.key o % 512 = A.reg.code := by simp only [Arr.key, A.reg]; omega
  have place : A.reg.key o / 512 = o := by simp only [Arr.key, A.reg]; omega
  have gone := atReset_gone s (a := A.reg) (by decide) h
  rw [dflt, if_pos code, place] at gone
  exact gone

end Sys2Proof.Machine

/-! SUPPORT. Power-on reset and RESET_N (chapter 18, R333, R436). -/

namespace Sys2Proof.Machine

open Reg

/-! ### The state before the boot ROM -/

/-- What a reset writes before the boot ROM runs. -/
def preCodes : List Nat := A.pinNow.code :: A.powerIx.code :: raiseCodes
def preRegs : List Nat := [oTAMPER_STATUS, oKEYRAM_KCV, oRESET_CAUSE, oCHAIN_STATUS, oMETER_CFG]

theorem strap_kept (s : State) : s.BootKept preCodes preRegs s.strap := (State.BootKept.refl ..).wf rfl (.inl rfl) _

theorem resumed_kept (s : State) (keep : Nat → Nat → Bool) : (s.atReset keep).BootKept preCodes preRegs (s.clearTo keep).gpResume :=
  ((clearTo_kept s keep).more rfl rfl).trans ((gpResume_kept _).more (by decide) rfl)

/-- The cause of a reset and the strap show. -/
def State.causeShown (s : State) (n : Nat) : State := (s.wf 0 RESET_CAUSE_LAST n).strap

theorem causeShown_kept (s : State) (n : Nat) : s.BootKept preCodes preRegs (s.causeShown n) :=
  ((State.BootKept.refl ..).wf rfl (.inl rfl) n).trans (strap_kept _)

theorem causeShown_cause (s : State) {n : Nat} (h : n < 4) : (s.causeShown n).rf 0 RESET_CAUSE_LAST = n := by
  rw [State.causeShown, State.strap, rf_wf_other _ _ _ (by decide), State.rf_wf_same _ _ _ _ (by decide)]
  exact Nat.mod_eq_of_lt h

/-- After power-on, before the boot ROM. -/
def State.poweredUp (s : State) : State :=
  let t := (s.clearTo fun _ _ => false).gpResume
  let t := (t.wr A.powerIx 0 t.freeCtr).wf 0 TAMPER_STATUS_OFF_EVENT (s.rf 0 TAMPER_STATUS_OFF_EVENT)
  if t.on A.keyRamOk 0 then t.wr A.reg oKEYRAM_KCV (Config.kcv (t.rd A.keyRam 0)) else t

theorem powerOn_eq (s : State) : s.powerOn = ({ s.poweredUp with freeCtr := s.poweredUp.freeCtr + 1 }.causeShown 1).bootRom := rfl

theorem poweredUp_kept (s : State) : (s.atReset fun _ _ => false).BootKept preCodes preRegs s.poweredUp := by
  have shown := ((resumed_kept s fun _ _ => false).wr (a := A.powerIx) (by decide) (by decide) 0 (s.clearTo fun _ _ => false).gpResume.freeCtr).wf
    (b := 0) (f := TAMPER_STATUS_OFF_EVENT) rfl (.inl rfl) (s.rf 0 TAMPER_STATUS_OFF_EVENT)
  exact (shown.reg (r := oKEYRAM_KCV) rfl (.inl rfl) _).ite shown

/-- After RESET_N, before the boot ROM. -/
def State.resetUp (s : State) : State :=
  let t := State.gpResume { s.clearTo keptResetN with vault := s.vault }
  ((t.wf 0 TAMPER_STATUS_SEEN (s.rf 0 TAMPER_STATUS_SEEN)).wf 0 TAMPER_STATUS_OFF_EVENT (s.rf 0 TAMPER_STATUS_OFF_EVENT)).wf 0 METER_CFG_EPOCH_S
    (s.rf 0 METER_CFG_EPOCH_S)

theorem resetDev_eq (s : State) : s.resetDev = (s.closeAllShort.resetUp.causeShown 2).bootRom := rfl

/-- The frame with another vault. -/
theorem State.BootKept.withVault {codes regs : List Nat} {s t : State} (h : s.BootKept codes regs t) (l : List (List Nat)) :
    State.BootKept codes regs { s with vault := l } { t with vault := l } :=
  ⟨⟨fun a i ha => h.only.reads a i ha⟩, fun r lt hl => h.low r lt hl, congrArg (fun v : State => { v with vault := l }) h.rest⟩

/-- With its vault, which no part of the reset before the boot ROM changes. -/
theorem resetUp_kept (s : State) : State.BootKept preCodes preRegs { s.atReset keptResetN with vault := s.vault } s.resetUp := by
  have clear := (clearTo_kept s keptResetN).more (codes' := preCodes) (regs' := preRegs) (by decide) (by decide)
  have cleared := clear.withVault s.vault
  have resumed := cleared.trans ((gpResume_kept { s.clearTo keptResetN with vault := s.vault }).more (codes' := preCodes) (regs' := preRegs) (by decide) (by decide))
  exact ((resumed.wf rfl (.inl rfl) _).wf rfl (.inl rfl) _).wf rfl (.inl rfl) _

theorem resetUp_seen (s : State) : s.resetUp.rf 0 TAMPER_STATUS_SEEN = s.rf 0 TAMPER_STATUS_SEEN := by
  rw [State.resetUp, rf_wf_other _ _ _ (by decide), rf_wf_other _ _ _ (by decide), State.rf_wf_same _ _ _ _ (by decide)]
  exact Nat.mod_eq_of_lt (slice_lt ..)

/-! ### Power-on reset and RESET_N (R436) -/

/-- How power-on reset and RESET_N leave the device. -/
def State.Booted (s : State) (t : State) (cause : Nat) : Prop :=
  t.rf 0 RESET_CAUSE_LAST = cause ∧ (∀ k, t.rd A.pState k = 0) ∧ t.mem = [] ∧
  t.packets = [] ∧ t.causes = [] ∧ (cause = 1 ∨ s.rd A.refGone 0 = 0 → t.clocked = true) ∧ t.rf 0 PL_STATUS_LEVEL = 3 ∧
  (∀ i, t.rd A.fuseRoot i = s.rd A.fuseRoot i ∧ t.rd A.fuseRevoke i = s.rd A.fuseRevoke i ∧ t.rd A.fuseKek i = s.rd A.fuseKek i) ∧
  (s.rd A.fuseLc 4 = 0xFF → t.rf 0 BOOT_STATUS_STAGE = 9) ∧ ((∀ g, 1 ≤ g → g ≤ 4 → s.rd A.fuseLc g = 0) → t.rf 0 BOOT_STATUS_STAGE = 8)

/-- What a reset that starts the boot ROM clears. -/
structure ClearsAll (keep : Nat → Nat → Bool) : Prop where
  parts : ∀ k, clearKeeps keep A.pState.code k = false
  mode : clearKeeps keep A.pwMode.code 0 = false
  dead : clearKeeps keep A.refDead.code 0 = false
  level : clearKeeps keep 0 0xC04 = false

theorem powerOn_clears : ClearsAll fun _ _ => false := ⟨fun _ => rfl, by decide, by decide, by decide⟩

theorem resetN_clears : ClearsAll keptResetN := ⟨fun _ => rfl, by decide, by decide, by decide⟩

/-- The boot ROM on a state that a reset has cleared. -/
theorem booted_of {s u : State} {keep : Nat → Nat → Bool} {cause : Nat} (hk : ClearsAll keep) (h : (s.atReset keep).ResetKept preCodes preRegs u)
    (hc : u.rf 0 RESET_CAUSE_LAST = cause) (hg : cause = 1 ∨ s.rd A.refGone 0 = 0 → (s.atReset keep).rd A.refGone 0 = 0) : s.Booted u.bootRom cause := by
  have booted := bootRom_kept u
  have array (a : Arr) (i : Nat) (h1 : preCodes.contains (a.code % 512) = false) (h2 : bootCodes.contains (a.code % 512) = false) :
      u.bootRom.rd a i = (s.atReset keep).rd a i := (booted.only.rd a i h2).trans (h.only.rd a i h1)
  have fuse (a : Arr) (i : Nat) (h1 : preCodes.contains (a.code % 512) = false) (h2 : bootCodes.contains (a.code % 512) = false) (lt : a.code < 512)
      (hf : keptAlways a.code = true) : u.bootRom.rd a i = s.rd a i :=
    (array a i h1 h2).trans (atReset_rd s lt (decide_eq_true (.inl hf)))
  have cycle (g : Nat) : u.rd A.fuseLc g = s.rd A.fuseLc g :=
    (h.only.rd _ _ (by decide)).trans (atReset_rd s (by decide) (decide_eq_true (.inl (by decide))))
  have lists := booted.lists.trans h.lists
  obtain ⟨mem, rest⟩ := Prod.mk.inj lists
  obtain ⟨packets, causes⟩ := Prod.mk.inj rest
  refine ⟨(booted.rf (by decide) (by decide)).trans hc, fun k => ?_, mem, packets, causes, fun hr => ?_, ?_, fun i => ⟨?_, ?_, ?_⟩, fun scrap => ?_, fun blank => ?_⟩
  · exact (array A.pState k (by decide) (by decide)).trans (atReset_zero s ⟨by decide, by decide, by decide⟩ (hk.parts k))
  · have mode := (array A.pwMode 0 (by decide) (by decide)).trans (atReset_zero s ⟨by decide, by decide, by decide⟩ hk.mode)
    have dead := (array A.refDead 0 (by decide) (by decide)).trans (atReset_zero s ⟨by decide, by decide, by decide⟩ hk.dead)
    have gone := (array A.refGone 0 (by decide) (by decide)).trans (hg hr)
    rw [State.clocked, State.refOk, mode, dead, gone]
    rfl
  · rw [booted.rf (by decide) (by decide), h.rf (by decide) (by decide)]
    exact congrArg (fun v => slice v 0 2) (atReset_reg s hk.level)
  · exact fuse A.fuseRoot i (by decide) (by decide) (by decide) (by decide)
  · exact fuse A.fuseRevoke i (by decide) (by decide) (by decide) (by decide)
  · exact fuse A.fuseKek i (by decide) (by decide) (by decide) (by decide)
  · exact bootRom_scrap ((cycle 4).trans scrap)
  · exact bootRom_blank fun g h1 h4 => (cycle g).trans (blank g h1 h4)

end Sys2Proof.Machine

/-! SUPPORT and CERTIFICATE. The warm reset, OFF and the loss of VBAT (chapter 18, R361, R435, R436, R438). Settles O40. -/

namespace Sys2Proof.Machine

open Reg

/-! ### Before a warm reset -/

theorem closeAllShort_none {s : State} (he : ¬ ∃ k < 32, s.on A.epOpen k = true) (hc : s.closed = []) : s.closeAllShort = s := by
  have short : s.each 32 (fun s k => s.epochShort k) = s :=
    foldl_noop _ _ _ fun k hk => if_neg fun on => he ⟨k, List.mem_range.1 hk, on⟩
  rw [State.closeAllShort, short, State.sealClosed, hc]
  exact (congrArg (fun l => { s with closed := l }) hc).symm.trans rfl

def bayCodes : List Nat := [A.bay.code, A.err.code]

theorem newtSettle_kept (s : State) (d : Nat) : s.BootKept bayCodes [] (s.newtSettle d) := by
  unfold State.newtSettle
  split
  next h =>
    obtain ⟨-, -, kind⟩ := h
    rw [State.newtCopyBack, if_pos kind]
    exact boot_each (fun u i => ((State.BootKept.refl bayCodes [] u).wr (a := A.bay) (by decide) (by decide) _ _).wr (a := A.err) (by decide) (by decide) _ _) 512 s
  next => exact .refl ..

/-- Tests that are in progress put back what they hold. -/
def State.settled (s : State) : State := s.each 8 State.newtSettle

theorem settled_kept (s : State) : s.BootKept bayCodes [] s.settled := boot_each newtSettle_kept 8 s

/-! ### The warm reset (R436) -/

/-- What a warm reset keeps. -/
def warmKeep (c i : Nat) : Bool := keptResetN c i || keptWarm c i

/-- What a warm reset starts from. -/
def State.warmBase (s : State) : State :=
  { s.clearTo warmKeep with vault := s.vault, mem := s.mem, repairs := s.repairs, corrLog := s.corrLog }

/-- A warm reset before its firmware. -/
def State.warmUp (s : State) : State :=
  (((s.warmBase.wf 0 PL_CTRL_BUSY 0).wf 0 PWR_CTRL_BUSY 0).wf 0 PWR_STATUS_STATE 0).causeShown 3

theorem warm_eq (s : State) : s.warm =
    if s.closeAllShort.settled.stage = stageHalted ∨ s.closeAllShort.settled.stage = stageRecovery then s.closeAllShort.settled.warmUp.each 8 State.countRepairs
    else s.closeAllShort.settled.warmUp.firmware.fuseRepairs := rfl

def warmRegs : List Nat := 0xC00 :: 0xC08 :: 0xC0C :: preRegs

theorem warmBase_lists (s : State) : (s.warmBase.mem, s.warmBase.vault, s.warmBase.repairs, s.warmBase.packets) = (s.mem, s.vault, s.repairs, (s.clearTo warmKeep).packets) := by
  unfold State.warmBase
  generalize s.clearTo warmKeep = u
  rfl

/-- What no part of a warm reset after the clearing changes. -/
theorem warmUp_kept (s : State) : s.warmBase.BootKept preCodes warmRegs s.warmUp :=
  ((((State.BootKept.refl ..).wf rfl (.inl rfl) _).wf rfl (.inl rfl) _).wf rfl (.inl rfl) _).trans ((causeShown_kept ..).more (by decide) (by decide))

theorem warmBase_rd (s : State) (a : Arr) (i : Nat) (ha : a.code % 512 ≠ 0) : s.warmBase.rd a i = (s.atReset warmKeep).rd a i :=
  (clearTo_kept s warmKeep).only.rd a i (Bool.eq_false_iff.2 fun h => ha (List.mem_singleton.1 (List.contains_iff_mem.1 h)))

theorem warmBase_low (s : State) {r : Nat} (h : r < 0x1000) (hk : clearKeeps warmKeep 0 r = true) : s.warmBase.reg r = s.reg r :=
  ((clearTo_kept s warmKeep).low r h rfl).trans (atReset_rd s (a := A.reg) (by decide) hk)

theorem warmBase_rf (s : State) {f : Fld} (h : f.off < 0x1000) (hk : clearKeeps warmKeep 0 (0 + f.off) = true) : s.warmBase.rf 0 f = s.rf 0 f :=
  congrArg (fun v => slice v f.lo f.w) (warmBase_low s (by omega) hk)

theorem warmUp_rf (s : State) {f : Fld} (h : f.off < 0x1000) (hk : clearKeeps warmKeep 0 (0 + f.off) = true) (hl : warmRegs.contains (0 + f.off) = false) :
    s.warmUp.rf 0 f = s.rf 0 f := ((warmUp_kept s).rf h hl).trans (warmBase_rf s h hk)

theorem warmUp_chain (s : State) : s.warmUp.chainAddr = s.chainAddr := by
  have base := warmBase_rf s (f := CHAIN_STATUS_ADDR) (by decide) (by decide)
  rw [State.chainAddr, State.warmUp, State.causeShown, State.strap, rf_wf_other _ _ _ (by decide), rf_wf_other _ _ _ (by decide),
    rf_wf_other _ _ _ (by decide), rf_wf_other _ _ _ (by decide), rf_wf_other _ _ _ (by decide), base, State.chainAddr]

/-! ### Repairs -/

/-- A repair without its fuses. -/
def Repair.unfused (r : Repair) : Repair := { r with fused := false }

/-- One repair more is written where its die's fuses have room. -/
def fuseNext (l : List Repair) (r : Repair) : List Repair :=
  l ++ [{ r with fused := r.fused || (r.active && decide ((l.filter fun x => x.die = r.die ∧ x.fused).length < 512)) }]

theorem fuseAll_unfused (l : List Repair) : (fuseAll l).map Repair.unfused = l.map Repair.unfused := by
  have next (l acc : List Repair) : (l.foldl fuseNext acc).map Repair.unfused = acc.map Repair.unfused ++ l.map Repair.unfused := by
    induction l generalizing acc with
    | nil => exact (List.append_nil _).symm
    | cons r rest ih =>
      have one : (fuseNext acc r).map Repair.unfused = acc.map Repair.unfused ++ [r.unfused] := List.map_append
      rw [List.foldl_cons, ih, one, List.append_assoc]
      rfl
  exact next l []

/-- How REPAIRS is counted and fuses are written. -/
structure State.FuseKept (s t : State) : Prop where
  kept : s.ResetKept [0] [] t
  vault : t.vault = s.vault
  repairs : t.repairs.map Repair.unfused = s.repairs.map Repair.unfused

theorem State.BootKept.fuse {s t : State} (h : s.BootKept [0] [] t) : s.FuseKept t :=
  ⟨h.reset, h.vault, congrArg (fun v : State => v.repairs.map Repair.unfused) h.rest |>.trans rfl⟩

theorem countRepairs_kept (s : State) (d : Nat) : s.BootKept [0] [] (s.countRepairs d) :=
  (State.BootKept.refl ..).wf rfl (.inr (by simp only [D, Off.die]; omega)) _

theorem fuseRepairs_kept (s : State) : s.FuseKept s.fuseRepairs := by
  have freed : s.FuseKept (s.free 1).2 := ⟨(State.ResetKept.refl ..).update rfl rfl, rfl, rfl⟩
  have fused : s.FuseKept (if (s.free 1).1 = 1 then { (s.free 1).2 with repairs := fuseAll (s.free 1).2.repairs } else (s.free 1).2) := by
    split
    · exact ⟨freed.kept.update rfl rfl, rfl, fuseAll_unfused _⟩
    · exact freed
  have counted := (boot_each countRepairs_kept 8
    (if (s.free 1).1 = 1 then { (s.free 1).2 with repairs := fuseAll (s.free 1).2.repairs } else (s.free 1).2)).fuse
  exact ⟨fused.kept.trans counted.kept, counted.vault.trans fused.vault, counted.repairs.trans fused.repairs⟩

/-! ### Ports that were up -/

section ports
variable (s : State) {p : Nat} (hp : p < 16)

/-- STATUS of a port. -/
def statusAt (p : Nat) : Nat := PT p + 4

theorem statusAt_far (p : Nat) : 0x1000 ≤ statusAt p := by
  simp only [statusAt, PT, Off.port, Off.die]
  omega

theorem wf_status {b : Nat} {f : Fld} (h : b + f.off < 0x1000) (v : Nat) : (s.wf b f v).reg (statusAt p) = s.reg (statusAt p) :=
  State.reg_wf _ _ _ _ _ (by have := statusAt_far p; omega)

theorem countRepairs_status (d : Nat) : (s.countRepairs d).reg (statusAt p) = s.reg (statusAt p) :=
  State.reg_wf _ _ _ _ _ (by simp only [statusAt, D, PT, Off.port, Off.die, NEWT_STATUS_REPAIRS]; omega)

theorem fuseRepairs_status : s.fuseRepairs.reg (statusAt p) = s.reg (statusAt p) := by
  have counted (u : State) : (u.each 8 State.countRepairs).reg (statusAt p) = u.reg (statusAt p) :=
    foldl_keeps (obs := fun v => v.reg (statusAt p)) (fun v d _ => countRepairs_status v d) u
  refine (counted _).trans ?_
  split <;> rfl

theorem portConfigured_status (cp q : Nat) : (s.portConfigured cp q).reg (statusAt p) = s.reg (statusAt p) := by
  have apart (f : Fld) (hf : f.off = 0) : PT q + f.off ≠ statusAt p := by
    simp only [statusAt, PT, Off.port, Off.die, hf]
    omega
  rw [State.portConfigured, State.reg_wf _ _ _ _ _ (apart _ rfl), State.reg_wf _ _ _ _ _ (apart _ rfl)]

theorem firmware_status : s.firmware.reg (statusAt p) = s.reg (statusAt p) := by
  have configured (u : State) (cp : Nat) : (u.each 16 (State.portConfigured cp)).reg (statusAt p) = u.reg (statusAt p) :=
    foldl_keeps (obs := fun v => v.reg (statusAt p)) (fun v q _ => portConfigured_status v cp q) u
  have released (u : State) : (u.each 256 fun s c => s.wr A.coreUp c 1).reg (statusAt p) = u.reg (statusAt p) :=
    foldl_keeps (obs := fun v => v.reg (statusAt p)) (fun v c _ => State.reg_wr _ _ _ _ _ (by decide)) u
  have routes (u : State) : u.routesWritten.reg (statusAt p) = u.reg (statusAt p) := by
    show (State.wr _ A.cnFw 0 1).reg _ = _
    rw [State.reg_wr _ _ _ _ _ (by decide)]
    exact (((rd_drop _ _ _ (by decide)).trans (rd_drop _ _ _ (by decide))).trans (rd_drop _ _ _ (by decide))).trans (rd_drop _ _ _ (by decide))
  rw [firmware_eq, State.setStage, wf_status _ (by decide), State.firmwareSet, released, routes, configured]

include hp in
theorem warmUp_down : slice (s.warmUp.reg (statusAt p)) 0 1 = 0 := by
  have rails : s.warmBase.reg (statusAt p) = (s.atReset warmKeep).reg (statusAt p) := by
    refine foldl_keeps (obs := fun v => v.reg (statusAt p)) (f := s.railsShown) (fun v b _ => ?_) (s.atReset warmKeep)
    have apart (f : Fld) (hf : f.off = 0x4709C) : D b + f.off ≠ statusAt p := by
      simp only [statusAt, D, PT, Off.port, Off.die, hf]
      omega
    rw [State.railsShown, State.reg_wf _ _ _ _ _ (apart _ rfl), State.reg_wf _ _ _ _ _ (apart _ rfl)]
  have up : s.warmUp.reg (statusAt p) = s.warmBase.reg (statusAt p) := by
    rw [State.warmUp, State.causeShown, State.strap, wf_status _ (by decide), wf_status _ (by decide), wf_status _ (by decide), wf_status _ (by decide),
      wf_status _ (by decide)]
  have gone : ∀ q < 16, clearKeeps warmKeep 0 (statusAt q) = false := by decide
  have down : ∀ q < 16, slice (regReset (statusAt q) % 2 ^ 32) 0 1 = 0 := by decide
  rw [up, rails, atReset_reg s (gone p hp), down p hp]

theorem portUp_down (h : slice (s.reg (statusAt p)) 0 1 = 0) : s.portUp p = false :=
  decide_eq_false fun up => absurd (h.symm.trans up) (by decide)

end ports

/-! ### What a warm reset gives -/

/-- How a warm reset leaves the device. -/
structure State.WarmDone (s t : State) : Prop where
  cause : t.rf 0 RESET_CAUSE_LAST = 3
  stage : t.rf 0 BOOT_STATUS_STAGE = (if s.stage = 8 ∨ s.stage = 9 then s.stage else 3)
  parts : ∀ k, t.rd A.pState k = 0
  mem : t.mem = s.mem
  repairs : t.repairs.map Repair.unfused = s.repairs.map Repair.unfused
  vault : t.vault = s.vault
  packets : t.packets = []
  chain : t.chainAddr = s.chainAddr
  level : t.rf 0 PL_STATUS_LEVEL = s.rf 0 PL_STATUS_LEVEL
  time : t.pair oTIME_NS_LO = s.pair oTIME_NS_LO
  owners : ∀ i, t.rd A.own i = s.rd A.own i
  ports : ∀ p < 16, t.portUp p = false

/-- What the firmware and the counts of the repairs keep of the state before them. -/
structure State.WarmKept (s t : State) : Prop where
  kept : s.ResetKept romCodes romRegs t
  vault : t.vault = s.vault
  repairs : t.repairs.map Repair.unfused = s.repairs.map Repair.unfused
  status : ∀ p, t.reg (statusAt p) = s.reg (statusAt p)

theorem counted_kept (s : State) : s.WarmKept (s.each 8 State.countRepairs) := by
  have counted := (boot_each countRepairs_kept 8 s).fuse
  exact ⟨counted.kept.more (by decide) rfl, counted.vault, counted.repairs, fun p =>
    foldl_keeps (obs := fun v => v.reg (statusAt p)) (fun v d _ => countRepairs_status v d) s⟩

theorem firmwareFused_kept (s : State) : s.WarmKept s.firmware.fuseRepairs := by
  have run := firmware_kept s
  have fused := fuseRepairs_kept s.firmware
  exact ⟨run.reset.trans (fused.kept.more (by decide) rfl), fused.vault.trans run.vault,
    fused.repairs.trans ((congrArg (fun v : State => v.repairs.map Repair.unfused) run.rest).trans rfl),
    fun p => (fuseRepairs_status _).trans (firmware_status s)⟩

/-- A reset after the tests have settled, but for the stage. -/
theorem warmKept_done {s t : State} (h : s.warmUp.WarmKept t) (hs : t.rf 0 BOOT_STATUS_STAGE = (if s.stage = 8 ∨ s.stage = 9 then s.stage else 3)) : s.WarmDone t := by
  have up := warmUp_kept s
  have array (a : Arr) (i : Nat) (h1 : romCodes.contains (a.code % 512) = false) (h2 : preCodes.contains (a.code % 512) = false) (h0 : a.code % 512 ≠ 0) :
      t.rd a i = (s.atReset warmKeep).rd a i := ((h.kept.only.rd a i h1).trans (up.only.rd a i h2)).trans (warmBase_rd s a i h0)
  obtain ⟨mem, rest⟩ := Prod.mk.inj (h.kept.lists.trans up.reset.lists)
  obtain ⟨packets, -⟩ := Prod.mk.inj rest
  obtain ⟨mem', rest'⟩ := Prod.mk.inj (warmBase_lists s)
  obtain ⟨vault', rest'⟩ := Prod.mk.inj rest'
  obtain ⟨repairs', packets'⟩ := Prod.mk.inj rest'
  have empty : (s.clearTo warmKeep).packets = [] := (congrArg (fun v : State => v.packets) (clearTo_kept s warmKeep).rest).trans rfl
  have upRepairs : s.warmUp.repairs = s.warmBase.repairs := (congrArg (fun v : State => v.repairs) up.rest).trans rfl
  constructor
  case cause => exact (h.kept.rf (by decide) (by decide)).trans (causeShown_cause _ (by decide))
  case stage => exact hs
  case parts => exact fun k => (array A.pState k (by decide) (by decide) (by decide)).trans (atReset_zero s ⟨by decide, by decide, by decide⟩ rfl)
  case mem => exact mem.trans mem'
  case repairs => exact h.repairs.trans (congrArg (List.map Repair.unfused) (upRepairs.trans repairs'))
  case vault => exact (h.vault.trans up.vault).trans vault'
  case packets => exact packets.trans (packets'.trans empty)
  case chain => exact (h.kept.rf (f := CHAIN_STATUS_ADDR) (by decide) (by decide)).trans (warmUp_chain s)
  case level => exact (h.kept.rf (by decide) (by decide)).trans (warmUp_rf s (by decide) (by decide) (by decide))
  case time =>
    rw [h.kept.pair (by decide) (by decide) (by decide), up.pair (by decide) (by decide) (by decide), State.pair, warmBase_low s (by decide) (by decide),
      warmBase_low s (by decide) (by decide), State.pair]
  case owners => exact fun i => (array A.own i (by decide) (by decide) (by decide)).trans (atReset_rd s (by decide) rfl)
  case ports => exact fun p hp => portUp_down t ((congrArg (fun v => slice v 0 1) (h.status p)).trans (warmUp_down s hp))

theorem warm_settled (s : State) : s.WarmDone (if s.stage = stageHalted ∨ s.stage = stageRecovery then s.warmUp.each 8 State.countRepairs
    else s.warmUp.firmware.fuseRepairs) := by
  split
  next h =>
    refine warmKept_done (counted_kept s.warmUp) ?_
    rw [if_pos (show s.stage = 8 ∨ s.stage = 9 from h.symm), (boot_each countRepairs_kept 8 s.warmUp).rf (by decide) rfl]
    exact warmUp_rf s (by decide) (by decide) (by decide)
  next h =>
    have fused := fuseRepairs_kept s.warmUp.firmware
    refine warmKept_done (firmwareFused_kept s.warmUp) ?_
    rw [if_neg (show ¬ (s.stage = 8 ∨ s.stage = 9) from fun bad => h bad.symm), fused.kept.rf (by decide) rfl, firmware_eq]
    exact stage_setStage _ (by decide)

/-- The tests' words are no part of what is kept. -/
theorem warm_done {s : State} (he : ¬ ∃ k < 32, s.on A.epOpen k = true) (hc : s.closed = []) : s.WarmDone s.warm := by
  have settled := settled_kept s
  have fields {α : Type} (f : State → α) (hf : f { s with arr := s.settled.arr } = f s) : f s.settled = f s := (congrArg f settled.rest).trans hf
  have stage : s.settled.stage = s.stage := settled.rf (f := BOOT_STATUS_STAGE) (by decide) rfl
  have done := warm_settled s.settled
  rw [warm_eq, closeAllShort_none he hc]
  exact { done with
    stage := done.stage.trans (by rw [stage])
    mem := done.mem.trans (fields (·.mem) rfl)
    repairs := done.repairs.trans (fields (·.repairs.map Repair.unfused) rfl)
    vault := done.vault.trans (fields (·.vault) rfl)
    chain := done.chain.trans (settled.rf (f := CHAIN_STATUS_ADDR) (by decide) rfl)
    level := done.level.trans (settled.rf (by decide) rfl)
    time := done.time.trans (settled.pair (by decide) rfl rfl)
    owners := fun i => (done.owners i).trans (settled.only.rd A.own i (by decide)) }

/-! ### The obligation -/

section commands
variable {s : State} {who : Who}

theorem powerOn_booted (s : State) : s.Booted s.powerOn 1 := by
  have up := poweredUp_kept s
  rw [powerOn_eq]
  generalize s.poweredUp = u at up ⊢
  have drawn : (s.atReset fun _ _ => false).ResetKept preCodes preRegs { u with freeCtr := u.freeCtr + 1 } := up.reset.update rfl rfl
  exact booted_of powerOn_clears (drawn.trans (causeShown_kept _ 1).reset) (causeShown_cause _ (by decide)) fun _ =>
    atReset_zero s ⟨by decide, by decide, by decide⟩ (by decide)

/-- What power-on keeps of the time, the meters and the key RAM. -/
theorem powerOn_rest (s : State) : s.powerOn.pair oTIME_NS_LO = 0 ∧ s.powerOn.pair oMONO_NS_LO = 0 ∧ s.powerOn.rd A.meterSeq 0 = 0 ∧ s.powerOn.vault = [] ∧
    (s.lcWhole → s.powerOn.rd A.keyRam 0 = s.rd A.keyRam 0) := by
  have up := poweredUp_kept s
  rw [powerOn_eq]
  generalize s.poweredUp = u at up ⊢
  have drawn : (s.atReset fun _ _ => false).ResetKept preCodes preRegs { u with freeCtr := u.freeCtr + 1 } := up.reset.update rfl rfl
  have shown := causeShown_kept { u with freeCtr := u.freeCtr + 1 } 1
  have before := drawn.trans shown.reset
  have booted := bootRom_kept ({ u with freeCtr := u.freeCtr + 1 }.causeShown 1)
  have time (o : Nat) (h1 : o + 4 < 0x1000) (hp : preRegs.contains o = false ∧ preRegs.contains (o + 4) = false)
      (hb : bootRegs.contains o = false ∧ bootRegs.contains (o + 4) = false) :
      (({ u with freeCtr := u.freeCtr + 1 } : State).causeShown 1).bootRom.pair o = (s.atReset fun _ _ => false).pair o :=
    (booted.pair h1 hb.1 hb.2).trans (before.pair h1 hp.1 hp.2)
  have fuse (g : Nat) : ({ u with freeCtr := u.freeCtr + 1 }.causeShown 1).rd A.fuseLc g = s.rd A.fuseLc g :=
    (before.only.rd _ _ (by decide)).trans (atReset_rd s (by decide) (decide_eq_true (.inl (by decide))))
  refine ⟨?_, ?_, ?_, bootRom_novault (shown.vault.trans (up.vault.trans rfl)), fun whole => ?_⟩
  · rw [time oTIME_NS_LO (by decide) (by decide) (by decide), State.pair, atReset_reg s (by decide), atReset_reg s (by decide)]
    decide
  · rw [time oMONO_NS_LO (by decide) (by decide) (by decide), State.pair, atReset_reg s (by decide), atReset_reg s (by decide)]
    decide
  · exact ((booted.only.rd A.meterSeq 0 (by decide)).trans (before.only.rd A.meterSeq 0 (by decide))).trans
      (atReset_zero s ⟨by decide, by decide, by decide⟩ (by decide))
  · have kept := bootRom_whole (s := { u with freeCtr := u.freeCtr + 1 }.causeShown 1) fun g h1 h4 => by
      rw [fuse]
      exact whole g h1 h4
    exact ((kept.only.rd A.keyRam 0 (by decide)).trans (before.only.rd A.keyRam 0 (by decide))).trans (atReset_rd s (by decide) (by decide))

/-- What RESET_N keeps, beside its vault, before the boot ROM. -/
theorem resetUp_before (s : State) : (s.atReset keptResetN).ResetKept preCodes preRegs (s.resetUp.causeShown 2) := by
  have up := (resetUp_kept s).trans (causeShown_kept _ 2)
  generalize s.resetUp.causeShown 2 = u at up ⊢
  generalize s.atReset keptResetN = v at up ⊢
  exact ⟨⟨fun a i ha => up.only.reads a i ha⟩, fun r lt hl => up.low r lt hl, up.reset.lists⟩

theorem resetDev_booted (he : ¬ ∃ k < 32, s.on A.epOpen k = true) (hc : s.closed = []) : s.Booted s.resetDev 2 := by
  rw [resetDev_eq, closeAllShort_none he hc]
  exact booted_of resetN_clears (resetUp_before s) (causeShown_cause _ (by decide)) fun h =>
    (atReset_rd s (by decide) (by decide)).trans (h.resolve_left (by decide))

theorem resetDev_rest (he : ¬ ∃ k < 32, s.on A.epOpen k = true) (hc : s.closed = []) :
    s.resetDev.pair oTIME_NS_LO = s.pair oTIME_NS_LO ∧ s.resetDev.pair oMONO_NS_LO = s.pair oMONO_NS_LO ∧ s.resetDev.timeInc = s.timeInc ∧
    s.resetDev.rd A.meterSeq 0 = s.rd A.meterSeq 0 ∧ s.resetDev.rf 0 TAMPER_STATUS_SEEN = s.rf 0 TAMPER_STATUS_SEEN ∧
    (s.lcWhole → s.resetDev.rd A.keyRam 0 = s.rd A.keyRam 0 ∧ s.resetDev.vault = s.vault) := by
  rw [resetDev_eq, closeAllShort_none he hc]
  have before := resetUp_before s
  have booted := bootRom_kept (s.resetUp.causeShown 2)
  have word (o : Nat) (h1 : o < 0x1000) (hp : preRegs.contains o = false) (hb : bootRegs.contains o = false) (hk : clearKeeps keptResetN 0 o = true) :
      (s.resetUp.causeShown 2).bootRom.reg o = s.reg o :=
    ((booted.low o h1 hb).trans (before.low o h1 hp)).trans (atReset_rd s (a := A.reg) (by decide) hk)
  have fuse (g : Nat) : (s.resetUp.causeShown 2).rd A.fuseLc g = s.rd A.fuseLc g :=
    (before.only.rd _ _ (by decide)).trans (atReset_rd s (by decide) (decide_eq_true (.inl (by decide))))
  refine ⟨?_, ?_, ?_, ?_, ?_, fun whole => ?_⟩
  · rw [State.pair, word _ (by decide) (by decide) (by decide) (by decide), word _ (by decide) (by decide) (by decide) (by decide), State.pair]
  · rw [State.pair, word _ (by decide) (by decide) (by decide) (by decide), word _ (by decide) (by decide) (by decide) (by decide), State.pair]
  · rw [State.timeInc, word _ (by decide) (by decide) (by decide) (by decide), word _ (by decide) (by decide) (by decide) (by decide), State.timeInc]
  · exact ((booted.only.rd A.meterSeq 0 (by decide)).trans (before.only.rd A.meterSeq 0 (by decide))).trans (atReset_rd s (by decide) (by decide))
  · rw [booted.rf (by decide) (by decide), State.causeShown, State.strap, rf_wf_other _ _ _ (by decide), rf_wf_other _ _ _ (by decide), resetUp_seen]
  · have kept := bootRom_whole (s := s.resetUp.causeShown 2) fun g h1 h4 => by
      rw [fuse]
      exact whole g h1 h4
    have vault : s.resetUp.vault = s.vault := (resetUp_kept s).vault
    exact ⟨((kept.only.rd A.keyRam 0 (by decide)).trans (before.only.rd A.keyRam 0 (by decide))).trans (atReset_rd s (by decide) (by decide)),
      (kept.vault.trans (causeShown_kept ..).vault).trans vault⟩

theorem vbatLoss_key (h : s.powered = true) : execVbatLoss s = .next (s.wr A.vbat 0 0) := by
  have on : (s.wr A.vbat 0 0).powered = true := by
    rw [State.powered, State.rd_wr_arr _ _ _ _ _ _ (by decide)]
    exact h
  exact congrArg Host.Outcome.next (if_pos on)

theorem vbatLoss_off (h : s.powered = false) : execVbatLoss s = .next (s.wr A.vbat 0 0).wipeKeyRam := by
  have off : ¬ (s.wr A.vbat 0 0).powered = true := by
    rw [State.powered, State.rd_wr_arr _ _ _ _ _ _ (by decide)]
    exact Bool.eq_false_iff.1 h
  exact congrArg Host.Outcome.next (if_neg off)

/-- What is left after the loss of VBAT. -/
theorem vbatLoss_done (s : State) : Completes (execVbatLoss s) fun t => t.rd A.vbat 0 = 0 ∧ t.mem = s.mem ∧
    (s.powered = true → t.rd A.keyRam 0 = s.rd A.keyRam 0 ∧ t.rd A.keyRamOk 0 = s.rd A.keyRamOk 0) ∧
    (s.powered = false → t.rd A.keyRam 0 = 0 ∧ t.rd A.keyRamOk 0 = 0) := by
  have gone : (s.wr A.vbat 0 0).rd A.vbat 0 = 0 := State.rd_wr_same ..
  by_cases h : s.powered = true
  · exact ⟨_, vbatLoss_key h, gone, rfl, fun _ => ⟨State.rd_wr_arr _ _ _ _ _ _ (by decide), State.rd_wr_arr _ _ _ _ _ _ (by decide)⟩,
      fun off => absurd (off.symm.trans h) Bool.false_ne_true⟩
  · have off := Bool.eq_false_iff.2 h
    have wiped := wipeKeyRam_kept (s.wr A.vbat 0 0)
    refine ⟨_, vbatLoss_off off, (wiped.only.rd A.vbat 0 (by decide)).trans gone, rfl, fun on => absurd on h, fun _ => ⟨?_, ?_⟩⟩
    · rw [State.wipeKeyRam, State.rd_wr_arr _ _ _ _ _ _ (by decide), State.rd_wr_arr _ _ _ _ _ _ (by decide), State.rd_wr_same]
      rfl
    · rw [State.wipeKeyRam, State.rd_wr_arr _ _ _ _ _ _ (by decide), State.rd_wr_same]
      rfl

theorem warmAsk_denied (h : s.pfRights who = false) : s.warmAsk who = s.ans 1 0 := if_pos (by rw [h]; decide)

theorem warmAsk_waits (h : s.pfRights who = true) (hl : s.rd A.plPhase 0 ≠ 0) : s.warmAsk who = (s.wr A.warmWait 0 1).ans 0 0 := by
  rw [State.warmAsk, if_neg (by rw [h]; decide), if_pos hl]
  rfl

theorem warmAsk_done (h : s.pfRights who = true) (hl : s.rd A.plPhase 0 = 0) : s.warmAsk who = s.warm.ans 0 0 := by
  rw [State.warmAsk, if_neg (by rw [h]; decide), if_neg (not_not_intro hl)]
  rfl

/-- The answer of a command changes nothing that a warm reset gives. -/
theorem State.WarmDone.answered {t : State} (h : s.WarmDone t) : s.WarmDone (t.ans 0 0) where
  cause := (State.rf_ans ..).trans h.cause
  stage := (State.rf_ans ..).trans h.stage
  parts k := (State.rd_ans ..).trans (h.parts k)
  mem := h.mem
  repairs := h.repairs
  vault := h.vault
  packets := h.packets
  chain := (State.rf_ans ..).trans h.chain
  level := (State.rf_ans ..).trans h.level
  time := h.time
  owners i := (State.rd_ans ..).trans (h.owners i)
  ports p hp := h.ports p hp

end commands

/-- Settles O40: the frames of the boot ROM, of the firmware and of the first samples say what of the cleared state remains, and a reset's clearing says for each
entry whether it is kept or reads its reset value. -/
theorem resets : Obligations.Resets := by
  unfold Obligations.Resets
  intro s who _
  refine ⟨?_, ?_, ?_, ?_, rfl, vbatLoss_done s⟩
  · exact ⟨_, rfl, powerOn_booted s, powerOn_rest s⟩
  · exact fun on he hc => ⟨_, aon_next on State.resetDev, resetDev_booted he hc, resetDev_rest he hc⟩
  · exact fun off => if_neg (by rw [off]; decide)
  · intro serves
    have asked : exec (.warmReset who) s = .next (s.warmAsk who) := access_next serves _ fun s => s.warmAsk who
    refine ⟨fun no => ?_, fun may busy => ?_, fun may idle he hc => ?_⟩
    · rw [asked, warmAsk_denied no]
    · rw [asked, warmAsk_waits may busy]
    · have done := (warm_done he hc).answered
      refine ⟨_, asked.trans (congrArg Host.Outcome.next (warmAsk_done may idle)), done.cause, done.stage, done.parts, done.mem, done.repairs, done.vault,
        done.packets, done.chain, done.level, done.time, done.owners, done.ports, ?_⟩
      exact State.rsp_okay _

end Sys2Proof.Machine

/-! SUPPORT. The image stage, LOAD_CTRL and RECOVERY_CTRL (chapter 14, R345 to R352). -/

namespace Sys2Proof.Machine

open Reg

/-! ### The stream begins (R345, R346) -/

section stream
variable {s : State} {hdr : List Byte}

theorem isKeystone_setStage (s : State) (n : Nat) : (s.setStage n).isKeystone = s.isKeystone := by
  rw [State.isKeystone, State.setStage, rf_wf_other _ _ _ (by decide), State.isKeystone]

theorem imageStream_ignored (h : s.stage < 3 ∨ 5 < s.stage ∨ s.on A.strmOver 0 = true) : s.imageStream hdr = s := if_pos h

/-- The stages in which a stream begins. -/
def State.streams (s : State) : Prop := 3 ≤ s.stage ∧ s.stage ≤ 5 ∧ s.on A.strmOver 0 = false

theorem streams_not (h : s.streams) : ¬ (s.stage < 3 ∨ 5 < s.stage ∨ s.on A.strmOver 0 = true) := by
  obtain ⟨low, high, open'⟩ := h
  rintro (bad | bad | bad)
  · omega
  · omega
  · exact Bool.false_ne_true (open'.symm.trans bad)

section begins
variable (h : s.streams) (hk : s.isKeystone = false)
include h hk

theorem imageStream_empty : s.imageStream [] = (s.setStage 5).streamOn [] 0 := by
  rw [State.imageStream, if_neg (streams_not h), if_neg (by rw [isKeystone_setStage, hk]; decide)]
  rfl

theorem imageStream_passed (hh : hdr ≠ []) (hc : (s.setStage 5).checkContainer hdr 2 = 0) :
    s.imageStream hdr = ((s.setStage 5).noteImage hdr).streamOn (hdr.take (contHdrBytes hdr)) ((s.setStage 5).sectionsHere hdr) := by
  rw [State.imageStream, if_neg (streams_not h), if_neg (by rw [isKeystone_setStage, hk]; decide),
    if_neg fun e => hh (List.isEmpty_iff.1 e)]
  exact if_pos hc

theorem imageStream_failed (hh : hdr ≠ []) (hc : (s.setStage 5).checkContainer hdr 2 ≠ 0) :
    s.imageStream hdr = ((s.setStage 5).bootFail ((s.setStage 5).checkContainer hdr 2)).wr A.strmOn 0 0 := by
  rw [State.imageStream, if_neg (streams_not h), if_neg (by rw [isKeystone_setStage, hk]; decide),
    if_neg fun e => hh (List.isEmpty_iff.1 e)]
  exact if_neg hc

end begins

theorem imageStream_keystone (h : s.streams) (hk : s.isKeystone = true) (hn : s.on A.nvmeThere 0 = false) :
    s.imageStream hdr = (((s.setStage 5).bootFail 11).streamOn [] 0).endMark := by
  have none : ¬ (s.setStage 5).on A.nvmeThere 0 = true := by
    rw [State.on, State.setStage, State.rd_wf _ _ _ _ _ _ (by decide)]
    exact Bool.eq_false_iff.1 hn
  rw [State.imageStream, if_neg (streams_not h), if_pos (by rw [isKeystone_setStage, hk]), State.keystoneStream, if_pos none]
  rfl

/-- A stream that has begun with header `b`, of which `want` sections are for this device. -/
structure State.Streaming (s t : State) (b : List Byte) (want : Nat) : Prop where
  on : t.on A.strmOn 0 = true
  want : t.rd A.strmWant 0 = want % 2 ^ 14
  got : t.rd A.strmGot 0 = 0
  bad : t.rd A.strmBad 0 = s.rd A.strmBad 0
  ended : t.on A.strmEnd 0 = false
  hdr : t.strmHdr = b
  out : t.out = s.out ++ [.imageHeader b]
  fields : ∀ f : Fld, t.rf 0 f = s.rf 0 f

theorem streamOn_begun (s : State) (b : List Byte) (want : Nat) : s.Streaming (s.streamOn b want) b want := by
  have later (u : State) (a : Arr) (ha : a.code % 512 ≠ A.strmNext.code) (he : a.code % 512 ≠ A.strmEnd.code) :
      ((u.wr A.strmNext 0 0).wr A.strmEnd 0 0).rd a 0 = u.rd a 0 := by
    rw [State.rd_wr_arr _ _ _ _ _ _ fun e => he (e.symm.trans rfl), State.rd_wr_arr _ _ _ _ _ _ fun e => ha (e.symm.trans rfl)]
  constructor
  case on =>
    refine decide_eq_true ((later _ A.strmOn (by decide) (by decide)).trans ?_)
    rw [State.rd_wr_arr _ _ _ _ _ _ (by decide), State.rd_wr_arr _ _ _ _ _ _ (by decide), State.rd_wr_same]
    rfl
  case want =>
    refine (later _ A.strmWant (by decide) (by decide)).trans ?_
    rw [State.rd_wr_arr _ _ _ _ _ _ (by decide), State.rd_wr_same]
    rfl
  case got =>
    refine (later _ A.strmGot (by decide) (by decide)).trans ?_
    rw [State.rd_wr_same]
    rfl
  case bad =>
    refine (later _ A.strmBad (by decide) (by decide)).trans ?_
    rw [State.rd_wr_arr _ _ _ _ _ _ (by decide), State.rd_wr_arr _ _ _ _ _ _ (by decide), State.rd_wr_arr _ _ _ _ _ _ (by decide)]
  case ended =>
    have closed : ((((((s.wr A.strmOn 0 1).wr A.strmWant 0 want).wr A.strmGot 0 0).wr A.strmNext 0 0).wr A.strmEnd 0 0)).rd A.strmEnd 0 = 0 := State.rd_wr_same ..
    exact decide_eq_false fun on => absurd (closed.symm.trans on) (by decide)
  case hdr => rfl
  case out => rfl
  case fields =>
    intro f
    show (((((s.wr A.strmOn 0 1).wr A.strmWant 0 want).wr A.strmGot 0 0).wr A.strmNext 0 0).wr A.strmEnd 0 0).rf 0 f = _
    rw [rf_wr _ _ _ _ _ (by decide), rf_wr _ _ _ _ _ (by decide), rf_wr _ _ _ _ _ (by decide), rf_wr _ _ _ _ _ (by decide), rf_wr _ _ _ _ _ (by decide)]

/-! ### The end mark (R348) -/

theorem endMark_none (h : s.on A.strmOn 0 = false ∨ s.on A.strmEnd 0 = true ∨ s.stage ≠ 5) : s.endMark = s := by
  refine if_pos ?_
  obtain off | rest := h
  · exact .inl (Bool.eq_false_iff.1 off)
  · exact .inr rest

/-- The end mark of a stream that is on is sent on. -/
def State.endSent (s : State) : State := State.wr { s with out := s.out ++ [.imageEnd] } A.strmEnd 0 1

theorem endSent_rd (s : State) (a : Arr) (ha : a.code % 512 ≠ A.strmEnd.code) : s.endSent.rd a 0 = s.rd a 0 :=
  State.rd_wr_arr _ _ _ _ _ _ fun e => ha (e.symm.trans rfl)

section mark
variable (h : s.on A.strmOn 0 = true) (he : s.on A.strmEnd 0 = false) (hs : s.stage = 5)
include h he hs

theorem endMark_eq : s.endMark = if s.endSent.rd A.strmGot 0 = s.endSent.rd A.strmWant 0 ∧ ¬ s.endSent.on A.strmBad 0 = true then
    (s.endSent.wf 0 BOOT_STATUS_CONFIGURED 1).setStage 6 else s.endSent := by
  refine if_neg ?_
  rintro (bad | bad | bad)
  · exact bad h
  · exact Bool.false_ne_true (he.symm.trans bad)
  · exact bad hs

theorem endMark_whole (hw : s.rd A.strmGot 0 = s.rd A.strmWant 0) (hb : s.on A.strmBad 0 = false) :
    s.endMark = (s.endSent.wf 0 BOOT_STATUS_CONFIGURED 1).setStage 6 := by
  rw [endMark_eq h he hs, State.on, endSent_rd s _ (by decide), endSent_rd s _ (by decide), endSent_rd s _ (by decide)]
  exact if_pos ⟨hw, Bool.eq_false_iff.1 hb⟩

theorem endMark_short (hw : s.rd A.strmGot 0 ≠ s.rd A.strmWant 0 ∨ s.on A.strmBad 0 = true) : s.endMark = s.endSent := by
  rw [endMark_eq h he hs, State.on, endSent_rd s _ (by decide), endSent_rd s _ (by decide), endSent_rd s _ (by decide)]
  exact if_neg fun ⟨same, good⟩ => hw.elim (· same) good

end mark

/-! ### DONE (R349, R350) -/

theorem doneRise_none (h : s.rf 0 BOOT_STATUS_CONFIGURED = 0) : s.doneRise = s := if_pos h

theorem stage_doneIn (s : State) (v : Nat) : (s.wf 0 BOOT_STATUS_DONE_IN v).stage = s.stage := by
  rw [State.stage, rf_wf_other _ _ _ (by decide), State.stage]

theorem configured_ne (h : s.rf 0 BOOT_STATUS_CONFIGURED = 1) : ¬ s.rf 0 BOOT_STATUS_CONFIGURED = 0 := by
  rw [h]
  decide

theorem doneRise_early (h : s.rf 0 BOOT_STATUS_CONFIGURED = 1) (hs : s.stage ≠ 6) : s.doneRise = s.wf 0 BOOT_STATUS_DONE_IN 1 := by
  rw [State.doneRise, if_neg (configured_ne h)]
  exact if_pos (by rwa [stage_doneIn])

theorem doneRise_runs (h : s.rf 0 BOOT_STATUS_CONFIGURED = 1) (hs : s.stage = 6) (ha : ∀ k < 32, s.on A.autoStart k = false) :
    s.doneRise = (((s.wf 0 BOOT_STATUS_DONE_IN 1).wf 0 BOOT_STATUS_STAGE 7).wr A.doneHigh 0 1).raise 0x5BA := by
  have kept (k : Nat) : ((((s.wf 0 BOOT_STATUS_DONE_IN 1).wf 0 BOOT_STATUS_STAGE 7).wr A.doneHigh 0 1).raise 0x5BA).on A.autoStart k = s.on A.autoStart k := by
    rw [State.on, (raise_kept ..).only.rd _ _ (by decide), State.rd_wr_arr _ _ _ _ _ _ (by decide), State.rd_wf _ _ _ _ _ _ (by decide),
      State.rd_wf _ _ _ _ _ _ (by decide), State.on]
  rw [State.doneRise, if_neg (configured_ne h)]
  refine (if_neg (by rw [stage_doneIn]; exact not_not_intro hs)).trans (foldl_noop _ _ _ fun k hk => if_neg ?_)
  rintro ⟨-, auto⟩
  exact Bool.false_ne_true ((ha k (List.mem_range.1 hk)).symm.trans ((kept k).symm.trans auto))

theorem doneFall_runs (hs : s.stage = 7) : s.doneFall = ((s.wf 0 BOOT_STATUS_DONE_IN 0).wr A.doneHigh 0 0).raise 0x5BA := if_pos (by rwa [stage_doneIn])

theorem doneFall_early (hs : s.stage ≠ 7) : s.doneFall = s.wf 0 BOOT_STATUS_DONE_IN 0 := if_neg (by rwa [stage_doneIn])

end stream

/-! ### LOAD_CTRL (R351) -/

section load
variable {s : State} {who : Who}

theorem loadCtrl_denied (h : s.pfRights who = false) : s.loadCtrl who = s.ans 1 0 := if_pos (by rw [h]; decide)

theorem loadCtrl_early (h : s.pfRights who = true) (hf : s.firmwareDone = false) : s.loadCtrl who = s.ans 0 0 := by
  rw [State.loadCtrl, if_neg (by rw [h]; decide), if_neg (by rw [hf]; decide)]
  rfl

theorem loadCtrl_goes (h : s.pfRights who = true) (hf : s.firmwareDone = true) : s.loadCtrl who = s.loadGo.ans 0 0 := by
  rw [State.loadCtrl, if_neg (by rw [h]; decide), if_pos hf]
  rfl

section go
variable {b : List Byte} {bad : Bool} {u : State} (hb : s.baseContainer = (b, bad, u))
include hb

theorem loadGo_cut (h : bad = true) : s.loadGo = u.wf 0 LOAD_CTRL_RESULT 7 := by
  rw [State.loadGo, hb, h]
  rfl

theorem loadGo_failed (h : bad = false) (hc : u.checkContainer b 2 ≠ 0) : s.loadGo = u.wf 0 LOAD_CTRL_RESULT (u.checkContainer b 2) := by
  rw [State.loadGo, hb, h]
  exact if_pos hc

theorem loadGo_loads (h : bad = false) (hc : u.checkContainer b 2 = 0) :
    s.loadGo = ((u.noteImage b).loadAll (contSectionList b)).2.wf 0 LOAD_CTRL_RESULT ((u.noteImage b).loadAll (contSectionList b)).1 := by
  rw [State.loadGo, hb, h]
  exact if_neg (not_not_intro hc)

end go

/-- No section of a list is for this device. -/
theorem loadAll_none {l : List Section} (h : ∀ x ∈ l, x.target ≠ s.chainAddr) : s.loadAll l = (0, s) := by
  induction l with
  | nil => rfl
  | cons x r ih =>
    rw [State.loadAll, if_pos (h x List.mem_cons_self)]
    exact ih fun y hy => h y (List.mem_cons_of_mem x hy)

theorem chainAddr_noteImage (s : State) (b : List Byte) : (s.noteImage b).chainAddr = s.chainAddr := by
  rw [State.chainAddr, State.noteImage, rf_wr _ _ _ _ _ (by decide), rf_wf_other _ _ _ (by decide), State.chainAddr]

/-! ### RECOVERY_CTRL (R352) -/

theorem recoveryCtrl_denied (h : s.pfRights who = false) : s.recoveryCtrl who = s.ans 1 0 := if_pos (by rw [h]; decide)

theorem recoveryCtrl_ignored (h : s.pfRights who = true) (hs : s.stage ≠ 8) : s.recoveryCtrl who = s.ans 0 0 := by
  rw [State.recoveryCtrl, if_neg (by rw [h]; decide), if_neg (show s.stage ≠ stageRecovery from hs)]
  rfl

theorem recoveryCtrl_goes (h : s.pfRights who = true) (hs : s.stage = 8) : s.recoveryCtrl who = s.recoveryGo.ans 0 0 := by
  rw [State.recoveryCtrl, if_neg (by rw [h]; decide), if_pos (show s.stage = stageRecovery from hs)]
  rfl

/-- The staging area after its container is checked. -/
def State.stageChecked (s : State) (b : List Byte) : State := if s.checkContainer b 1 = 0 then s.drop A.stageByte fun _ => true else s

theorem recoveryGo_eq : s.recoveryGo =
    if s.checkBoot s.staged = 0 then (((s.stageChecked s.staged).wf 0 RECOVERY_CTRL_RESULT (s.checkBoot s.staged)).wf 0 BOOT_STATUS_RECOVERED 1).runBoot s.staged
    else ((s.stageChecked s.staged).wf 0 RECOVERY_CTRL_RESULT (s.checkBoot s.staged)).bootFail (s.checkBoot s.staged) := by
  unfold State.recoveryGo State.checkStaged
  rfl

theorem recoveryGo_failed (h : s.checkBoot s.staged ≠ 0) :
    s.recoveryGo = ((s.stageChecked s.staged).wf 0 RECOVERY_CTRL_RESULT (s.checkBoot s.staged)).bootFail (s.checkBoot s.staged) := by
  rw [recoveryGo_eq, if_neg h]

theorem checkContainer_of_boot {b : List Byte} (h : s.checkBoot b = 0) : s.checkContainer b 1 = 0 := by
  by_contra bad
  rw [State.checkBoot, if_pos (show s.checkContainer b 1 ≠ bootOk from bad)] at h
  exact bad h

theorem recoveryGo_runs (h : s.checkBoot s.staged = 0) :
    s.recoveryGo = (((s.drop A.stageByte fun _ => true).wf 0 RECOVERY_CTRL_RESULT 0).wf 0 BOOT_STATUS_RECOVERED 1).runBoot s.staged := by
  rw [recoveryGo_eq, if_pos h, h, State.stageChecked, if_pos (checkContainer_of_boot h)]

end load

/-- A boot section's key: KEY_POLICY is not asked. -/
theorem kek_boot (s : State) (ram : Bool) : s.kek ram false =
    if ram then (if s.keyRamUsable then some (s.rd A.keyRam 0) else none) else if s.fuseKekUsable then some (s.rd A.fuseKek 0) else none := by
  cases ram <;> simp [State.kek]

/-- What opening a boot section reads. -/
theorem openSection_same {s t : State} (x : Section) (hf : t.rd A.fuseFlags 0 = s.rd A.fuseFlags 0) (hk : t.rd A.keyRam 0 = s.rd A.keyRam 0)
    (ho : t.rd A.keyRamOk 0 = s.rd A.keyRamOk 0) (he : t.rd A.fuseKek 0 = s.rd A.fuseKek 0) : t.openSection x false = s.openSection x false := by
  have kek (ram : Bool) : t.kek ram false = s.kek ram false := by
    rw [kek_boot, kek_boot, State.keyRamUsable, State.fuseKekUsable, State.on, hf, hk, ho, he]
    rfl
  have design (v : State) : ¬ (false = true ∧ (v.rd A.keyPolicy 0).testBit 2 = true) := fun bad => Bool.false_ne_true bad.1
  rw [State.openSection, kek, if_neg (design t), State.openSection, if_neg (design s)]

/-- The firmware of a container is the same after its parameters are set. -/
theorem firmwareOf_same {s t : State} (b : List Byte) (h : ∀ x, t.openSection x false = s.openSection x false) : t.firmwareOf b = s.firmwareOf b := by
  simp only [State.firmwareOf, h]

end Sys2Proof.Machine

/-! SUPPORT. What a recovery that passes gives, and the answers to the commands of the image stage (chapter 14, R345 to R352). -/

namespace Sys2Proof.Machine

open Reg

/-! ### The firmware starts (R333, R352) -/

section boot
variable {s : State} {b : List Byte}

/-- The firmware of a container as the boot controller's memory holds it. -/
theorem runBoot_starts (hf : s.firmwareOf b ≠ []) (hl : (s.firmwareOf b).length ≤ bootRamBytes) :
    s.runBoot b = ((s.containerApplied b).putFirmware (s.firmwareOf b)).firmware := by
  have applied := containerApplied_kept s b
  have same : (s.containerApplied b).firmwareOf b = s.firmwareOf b := firmwareOf_same b fun x =>
    openSection_same x (applied.only.rd _ _ (by decide)) (applied.only.rd _ _ (by decide)) (applied.only.rd _ _ (by decide)) (applied.only.rd _ _ (by decide))
  rw [runBoot_eq, same]
  refine if_neg ?_
  rintro (none | long)
  · exact hf (List.isEmpty_iff.1 none)
  · omega

/-- What is started. -/
theorem started_kept (s : State) (b : List Byte) (fw : List Byte) :
    s.BootKept fwCodes [oSVN_STATUS] (((s.containerApplied b).putFirmware fw).firmwareSet) :=
  ((containerApplied_kept s b).trans ((putFirmware_kept _ fw).more (by decide) rfl)).trans ((firmwareSet_kept _).more (by decide) rfl)

theorem firmware_cores (s : State) {c : Nat} (hc : c < 256) : s.firmware.on A.coreUp c = true := by
  obtain ⟨u, -, last⟩ := each_at (obs := fun v => v.rd A.coreUp c) (f := fun v c => v.wr A.coreUp c 1) hc
    (fun v j hj => State.rd_wr_ix _ _ _ _ _ hj) ((s.each 16 (State.portConfigured (s.rd A.chainParams 0))).routesWritten)
  rw [firmware_eq, State.setStage, State.on, State.rd_wf _ _ _ _ _ _ (by decide), State.firmwareSet]
  exact decide_eq_true (last.trans (State.rd_wr_same ..))

theorem drop_zero (s : State) {a : Arr} (ha : a.Plain) (i : Nat) : (s.drop a fun _ => true).rd a i = 0 := by
  obtain ⟨lt, noReg, noVec⟩ := ha
  have code : a.key i % 512 = a.code := by simp only [Arr.key]; omega
  rw [rd_drop_eq s a lt, if_pos ⟨rfl, rfl⟩, dflt, if_neg (by rw [code]; exact noReg), if_neg (by rw [code]; exact noVec), Nat.zero_mod]

/-- A boot container that passes in RECOVERY runs. -/
structure State.Recovered (s t : State) : Prop where
  result : t.rf 0 RECOVERY_CTRL_RESULT = 0
  shown : t.rf 0 BOOT_STATUS_RECOVERED = 1
  stage : t.rf 0 BOOT_STATUS_STAGE = 3
  cores : ∀ c < 256, t.on A.coreUp c = true
  mem : t.mem = s.mem
  staging : ∀ i, t.rd A.stageByte i = 0
  slots : ∀ i, t.rd A.slotByte i = s.rd A.slotByte i

/-- What a recovery starts from. -/
def State.recoveryShown (s : State) : State := ((s.drop A.stageByte fun _ => true).wf 0 RECOVERY_CTRL_RESULT 0).wf 0 BOOT_STATUS_RECOVERED 1

theorem recoveryShown_rd (s : State) {a : Arr} (hc : a.code % 512 ≠ A.stageByte.code) (h0 : a.code % 512 ≠ 0) (i : Nat) :
    s.recoveryShown.rd a i = s.rd a i := by
  rw [State.recoveryShown, State.rd_wf _ _ _ _ _ _ h0, State.rd_wf _ _ _ _ _ _ h0, rd_drop _ _ _ hc]

theorem recoveryGo_recovered (h : s.checkBoot s.staged = 0) (hf : s.firmwareOf s.staged ≠ []) (hl : (s.firmwareOf s.staged).length ≤ bootRamBytes) :
    s.Recovered s.recoveryGo := by
  have same : s.recoveryShown.firmwareOf s.staged = s.firmwareOf s.staged := firmwareOf_same _ fun x =>
    openSection_same x (recoveryShown_rd s (by decide) (by decide) 0) (recoveryShown_rd s (by decide) (by decide) 0)
      (recoveryShown_rd s (by decide) (by decide) 0) (recoveryShown_rd s (by decide) (by decide) 0)
  have runs : s.recoveryGo = ((s.recoveryShown.containerApplied s.staged).putFirmware (s.recoveryShown.firmwareOf s.staged)).firmware :=
    (recoveryGo_runs h).trans (runBoot_starts (s := s.recoveryShown) (by rwa [same]) (by rwa [same]))
  have started := started_kept s.recoveryShown s.staged (s.recoveryShown.firmwareOf s.staged)
  have cores (c : Nat) (hc : c < 256) : s.recoveryGo.on A.coreUp c = true := by
    rw [runs]
    exact firmware_cores _ hc
  rw [firmware_eq] at runs
  generalize ((s.recoveryShown.containerApplied s.staged).putFirmware (s.recoveryShown.firmwareOf s.staged)).firmwareSet = u at runs started
  have array {a : Arr} (h1 : fwCodes.contains (a.code % 512) = false) (h0 : a.code % 512 ≠ 0) (i : Nat) : s.recoveryGo.rd a i = s.recoveryShown.rd a i := by
    rw [runs, State.setStage, State.rd_wf _ _ _ _ _ _ h0, started.only.rd a i h1]
  constructor
  case result =>
    rw [runs, State.setStage, rf_wf_other _ _ _ (by decide), started.rf (by decide) (by decide), State.recoveryShown, rf_wf_other _ _ _ (by decide),
      State.rf_wf_same _ _ _ _ (by decide)]
    rfl
  case shown =>
    rw [runs, State.setStage, rf_wf_other _ _ _ (by decide), started.rf (by decide) (by decide), State.recoveryShown, State.rf_wf_same _ _ _ _ (by decide)]
    rfl
  case stage =>
    rw [runs]
    exact stage_setStage _ (by decide)
  case cores => exact cores
  case mem =>
    rw [runs]
    exact (congrArg (fun v : State => v.mem) started.rest).trans rfl
  case staging =>
    intro i
    rw [array (by decide) (by decide), State.recoveryShown, State.rd_wf _ _ _ _ _ _ (by decide), State.rd_wf _ _ _ _ _ _ (by decide),
      drop_zero s ⟨by decide, by decide, by decide⟩]
  case slots => exact fun i => (array (by decide) (by decide) i).trans (recoveryShown_rd s (by decide) (by decide) i)

/-- The answer to RECOVERY_CTRL changes none of this. -/
theorem State.Recovered.answered {t : State} (h : s.Recovered t) : s.Recovered (t.ans 0 0) where
  result := (State.rf_ans ..).trans h.result
  shown := (State.rf_ans ..).trans h.shown
  stage := (State.rf_ans ..).trans h.stage
  cores := h.cores
  mem := h.mem
  staging i := (State.rd_ans ..).trans (h.staging i)
  slots i := (State.rd_ans ..).trans (h.slots i)

end boot

/-! ### The commands of the image stage -/

section commands
variable {s : State} {who : Who} {hdr : List Byte}

/-- How a stream stands once it has begun. -/
def State.Begun (s : State) (t : State) (b : List Byte) (want : Nat) : Prop :=
  t.rf 0 BOOT_STATUS_STAGE = 5 ∧ t.on A.strmOn 0 = true ∧ t.rd A.strmWant 0 = want ∧ t.rd A.strmGot 0 = 0 ∧ t.rd A.strmBad 0 = s.rd A.strmBad 0 ∧
  t.on A.strmEnd 0 = false ∧ t.strmHdr = b ∧ t.out = s.out ++ [.imageHeader b]

theorem begun_of {u t : State} {b : List Byte} {want : Nat} (h : u.Streaming t b want) (hs : u.stage = 5) (hb : u.rd A.strmBad 0 = s.rd A.strmBad 0)
    (ho : u.out = s.out) : s.Begun t b (want % 2 ^ 14) :=
  ⟨(h.fields _).trans hs, h.on, h.want, h.got, h.bad.trans hb, h.ended, h.hdr, ho ▸ h.out⟩

theorem imageStream_empty_begun (h : s.streams) (hk : s.isKeystone = false) : s.Begun (s.imageStream []) [] 0 := by
  rw [imageStream_empty h hk]
  exact begun_of (streamOn_begun ..) (stage_setStage _ (by decide)) (State.rd_wf _ _ _ _ _ _ (by decide)) rfl

theorem imageStream_begun (h : s.streams) (hk : s.isKeystone = false) (hh : hdr ≠ []) (hc : (s.setStage 5).checkContainer hdr 2 = 0) :
    s.Begun (s.imageStream hdr) (hdr.take (contHdrBytes hdr)) ((s.setStage 5).sectionsHere hdr % 2 ^ 14) ∧
    (s.imageStream hdr).rf 0 SVN_STATUS_RUN_IMAGE_SVN = contSvn hdr % 2 ^ SVN_STATUS_RUN_IMAGE_SVN.w := by
  rw [imageStream_passed h hk hh hc]
  have streaming := streamOn_begun ((s.setStage 5).noteImage hdr) (hdr.take (contHdrBytes hdr)) ((s.setStage 5).sectionsHere hdr)
  have stage : ((s.setStage 5).noteImage hdr).stage = 5 := by
    rw [State.stage, State.noteImage, rf_wr _ _ _ _ _ (by decide), rf_wf_other _ _ _ (by decide)]
    exact stage_setStage _ (by decide)
  have bad : ((s.setStage 5).noteImage hdr).rd A.strmBad 0 = s.rd A.strmBad 0 := by
    rw [State.noteImage, State.rd_wr_arr _ _ _ _ _ _ (by decide), State.rd_wf _ _ _ _ _ _ (by decide), State.setStage, State.rd_wf _ _ _ _ _ _ (by decide)]
  refine ⟨begun_of streaming stage bad rfl, ?_⟩
  rw [streaming.fields, State.noteImage, rf_wr _ _ _ _ _ (by decide), State.rf_wf_same _ _ _ _ (by decide)]

/-- A keystone without a drive streams an empty container. -/
theorem imageStream_driveless (h : s.streams) (hk : s.isKeystone = true) (hn : s.on A.nvmeThere 0 = false) :
    (s.imageStream hdr).rd A.strmWant 0 = 0 ∧ (s.imageStream hdr).rd A.strmGot 0 = 0 ∧ (s.imageStream hdr).on A.strmEnd 0 = true ∧
    (s.imageStream hdr).rf 0 BOOT_STATUS_STAGE = (if s.on A.strmBad 0 then 5 else 6) ∧
    (s.imageStream hdr).out = s.out ++ [.imageHeader [], .imageEnd] ∧
    (s.rf 0 BOOT_STATUS_RESULT = 0 → (s.imageStream hdr).rf 0 BOOT_STATUS_RESULT = 11) := by
  have failed := (setStage_kept s 5).trans (bootFail_kept (s.setStage 5) 11)
  have result (hr : s.rf 0 BOOT_STATUS_RESULT = 0) : ((s.setStage 5).bootFail 11).rf 0 BOOT_STATUS_RESULT = 11 := by
    have clear : (s.setStage 5).rf 0 BOOT_STATUS_RESULT = 0 := by
      rw [State.setStage, rf_wf_other _ _ _ (by decide), hr]
    rw [State.bootFail, if_pos clear, State.rf_wf_same _ _ _ _ (by decide)]
    rfl
  have stage : ((s.setStage 5).bootFail 11).stage = 5 := by
    unfold State.bootFail
    split
    · rw [State.stage, rf_wf_other _ _ _ (by decide)]
      exact stage_setStage _ (by decide)
    · exact stage_setStage _ (by decide)
  have out : ((s.setStage 5).bootFail 11).out = s.out := (congrArg (fun v : State => v.out) failed.rest).trans rfl
  have bad := failed.only.rd A.strmBad 0 (by decide)
  rw [imageStream_keystone h hk hn]
  generalize (s.setStage 5).bootFail 11 = u at *
  have begun := streamOn_begun u [] 0
  generalize u.streamOn [] 0 = v at *
  have got : v.rd A.strmGot 0 = v.rd A.strmWant 0 := begun.got.trans begun.want.symm
  have five : v.stage = 5 := (begun.fields _).trans stage
  have sent : v.endSent.on A.strmEnd 0 = true := decide_eq_true (State.rd_wr_same ..)
  have shown (f : Fld) : v.endSent.rf 0 f = v.rf 0 f := rf_wr _ _ _ _ _ (by decide)
  have told : v.endSent.out = s.out ++ [.imageHeader [], .imageEnd] := by
    show v.out ++ [.imageEnd] = _
    rw [begun.out, out, List.append_assoc]
    rfl
  by_cases hb : s.on A.strmBad 0 = true
  · have faulty : v.on A.strmBad 0 = true := by
      rw [State.on, begun.bad, bad]
      exact hb
    rw [endMark_short begun.on begun.ended five (.inr faulty), if_pos hb]
    exact ⟨(endSent_rd v _ (by decide)).trans begun.want, (endSent_rd v _ (by decide)).trans begun.got, sent, (shown _).trans five, told, fun hr =>
      (shown _).trans ((begun.fields _).trans (result hr))⟩
  · have good : v.on A.strmBad 0 = false := by
      rw [State.on, begun.bad, bad]
      exact Bool.eq_false_iff.2 hb
    rw [endMark_whole begun.on begun.ended five got good, if_neg hb]
    have array (a : Arr) (ha : a.code % 512 ≠ 0) : ((v.endSent.wf 0 BOOT_STATUS_CONFIGURED 1).setStage 6).rd a 0 = v.endSent.rd a 0 := by
      rw [State.setStage, State.rd_wf _ _ _ _ _ _ ha, State.rd_wf _ _ _ _ _ _ ha]
    refine ⟨(array _ (by decide)).trans ((endSent_rd v _ (by decide)).trans begun.want), (array _ (by decide)).trans ((endSent_rd v _ (by decide)).trans begun.got),
      ?_, stage_setStage _ (by decide), told, fun hr => ?_⟩
    · rw [State.on, array _ (by decide)]
      exact sent
    · rw [State.setStage, rf_wf_other _ _ _ (by decide), rf_wf_other _ _ _ (by decide), shown, begun.fields, result hr]

end commands

end Sys2Proof.Machine

/-! SUPPORT. What the load of an image leaves alone (chapters 07 and 14, R118, R164, R165, R344, R494). -/

namespace Sys2Proof.Machine

open Reg

/-! ### The frame -/

/-- STATE and PID of the slots, and the count of the sections that the stream has brought. -/
def slotKept : List Nat := [A.pState.code, A.pPid.code, A.strmGot.code]

/-- `t` has the slots' states and IDs, and the count of sections, of `s`. -/
structure State.SlotStill (s t : State) : Prop where
  arrays : ∀ (a : Arr) (i : Nat), slotKept.contains (a.code % 512) = true → t.rd a i = s.rd a i

section frame
variable {s t u : State}

theorem State.SlotStill.refl (s : State) : s.SlotStill s := ⟨fun _ _ _ => rfl⟩

theorem State.SlotStill.trans (h : s.SlotStill t) (h' : t.SlotStill u) : s.SlotStill u := ⟨fun a i ha => (h'.arrays a i ha).trans (h.arrays a i ha)⟩

theorem State.Only.slotStill {codes : List Nat} (h : s.Only codes t) (hc : codes.any slotKept.contains = false) : s.SlotStill t :=
  ⟨fun a i ha => h.reads a i fun hm => Bool.false_ne_true (hc.symm.trans (List.any_eq_true.2 ⟨_, hm, ha⟩))⟩

theorem State.SlotStill.wr (h : s.SlotStill t) {a : Arr} (ha : slotKept.contains (a.code % 512) = false) (i v : Nat) : s.SlotStill (t.wr a i v) :=
  h.trans ⟨fun _ _ hb => State.rd_wr_arr _ _ _ _ _ _ fun e => Bool.false_ne_true (ha.symm.trans (e ▸ hb))⟩

theorem State.SlotStill.wrE (h : s.SlotStill t) {a : Arr} (ha : slotKept.contains (a.code % 512) = false) (i v : Nat) : s.SlotStill (t.wrE a i v) :=
  (h.wr ha _ _).wr (a := A.err) rfl _ _

theorem State.SlotStill.drop (h : s.SlotStill t) {a : Arr} (ha : slotKept.contains a.code = false) (p : Nat → Bool) : s.SlotStill (t.drop a p) :=
  h.trans (State.Only.slotStill (codes := [a.code]) ((State.Only.refl ..).drop _ _ (List.contains_iff_mem.2 List.mem_cons_self)) (by
    rw [List.any_cons, ha]
    rfl))

theorem State.SlotStill.update (h : s.SlotStill t) (e : u.arr = t.arr) : s.SlotStill u :=
  h.trans ⟨fun a i _ => by simp only [State.rd, e]⟩

theorem State.SlotStill.ite {p : Prop} [Decidable p] (ht : s.SlotStill t) (hu : s.SlotStill u) : s.SlotStill (if p then t else u) := by
  split
  · exact ht
  · exact hu

theorem slotStill_foldl {α : Type} {f : State → α → State} (hf : ∀ (u : State) x, u.SlotStill (f u x)) (l : List α) (s : State) :
    s.SlotStill (l.foldl f s) := by
  induction l generalizing s with
  | nil => exact .refl s
  | cons x r ih => exact (hf s x).trans (ih _)

end frame

/-! ### Domains and records (R344, R424) -/

section records
variable (s : State)

theorem releaseHeld_slotStill : s.SlotStill s.releaseHeld := by
  unfold State.releaseHeld
  split
  · exact .refl s
  · exact (State.SlotStill.refl s).update rfl

theorem domUp_slotStill (die dom : Nat) : s.SlotStill (s.domUp die dom) :=
  (((State.SlotStill.refl s).wr (a := A.reg) rfl _ _).wr (a := A.domWake) (by decide) _ _).trans (releaseHeld_slotStill _)

theorem bayWr_slotStill (wall a v : Nat) : s.SlotStill (s.bayWr wall a v) := by
  have bay (u : State) : u.SlotStill (u.wrE A.bay (bayKey wall a) v) := (State.SlotStill.refl u).wrE (by decide) _ _
  unfold State.bayWr
  split
  next j _ =>
    have buffered := (State.SlotStill.refl s).wrE (a := A.newtBuf) (by decide) j v
    exact (buffered.trans (bay _)).ite buffered
  next => exact bay s

/-- The tables' and lanes' arrays of a kind are none of these. -/
theorem tables_slotKept : ∀ kind < 7, slotKept.contains ((A.mTab kind).code % 512) = false ∧ slotKept.contains ((A.mReg kind).code % 512) = false ∧
    slotKept.contains ((A.mOwn kind).code % 512) = false := by decide

theorem lane_kind {r : LoadRec} {kind lane : Nat} (h : r.lane = some (kind, lane)) : kind < 7 := by
  unfold LoadRec.lane at h
  split at h
  · split at h
    next k l hp =>
      obtain ⟨rfl, -⟩ := Prod.mk.inj (Option.some.inj h)
      exact (mortarPlace_kind hp).1
    next => cases h
  · obtain ⟨⟨k, l, cfg⟩, hp, e⟩ := Option.map_eq_some_iff.1 h
    obtain ⟨rfl, -⟩ := Prod.mk.inj e
    exact (mortarPlace_kind hp).1

theorem putLaneCfg_slotStill {kind : Nat} (hk : kind < 7) (lane v : Nat) : s.SlotStill (s.putLaneCfg kind lane v) := by
  obtain ⟨-, mreg, own⟩ := tables_slotKept kind hk
  have first : s.SlotStill (if kind < 4 then s.wr (A.mReg kind) lane (slice v 0 1) else s) := ((State.SlotStill.refl s).wr mreg _ _).ite (.refl s)
  exact (first.wr own _ _).ite first

theorem putRec_slotStill (k pid : Nat) (r : LoadRec) : s.SlotStill (s.putRec k pid r) := by
  refine slotStill_foldl (fun u x => ?_) _ s
  dsimp only
  split
  · exact (State.SlotStill.refl u).wrE (by decide) _ _
  · exact (State.SlotStill.refl u).wrE (by decide) _ _
  · exact (State.SlotStill.refl u).wrE (by decide) _ _
  · exact (State.SlotStill.refl u).wr (by decide) _ _
  · exact bayWr_slotStill u _ _ _
  · split
    next kind lane h => exact (State.SlotStill.refl u).wrE (tables_slotKept kind (lane_kind h)).1 _ _
    next => exact .refl u
  · split
    next kind lane h => exact putLaneCfg_slotStill u (lane_kind h) _ _
    next => exact .refl u
  · exact (State.SlotStill.refl u).wr (by decide) _ _

theorem recDomain_slotStill (r : LoadRec) : s.SlotStill (s.recDomain r) := by
  unfold State.recDomain
  split
  · exact (State.SlotStill.refl s).ite (domUp_slotStill ..)
  · exact .refl s

end records

/-! ### The slot of the image -/

/-- The slot is the partition's, and IDLE. -/
def State.slotTaken (s : State) (k pid : Nat) (b : List Byte) : State :=
  (State.wr { s with members := (s.members.filter fun m => m.slot ≠ k) ++ imgMemberList b k } A.pPid k pid).wr A.pState k 1

theorem placeImage_slotStill (s : State) (k pid : Nat) (b : List Byte) (recs : List LoadRec) :
    (s.slotTaken k pid b).SlotStill (s.placeImage k pid b recs) := by
  have walls : ∀ (l : List Nat) (u : State), u.SlotStill (l.foldl (fun s w => ((s.wr A.wallOwner w (k + 1)).domUp (w / 16) domFab).domUp (w / 16) domMem) u) :=
    slotStill_foldl fun u w => (((State.SlotStill.refl u).wr (by decide) _ _).trans (domUp_slotStill ..)).trans (domUp_slotStill ..)
  have domains : ∀ (l : List LoadRec) (u : State), u.SlotStill (l.foldl State.recDomain u) := slotStill_foldl recDomain_slotStill
  have records : ∀ (l : List LoadRec) (u : State), u.SlotStill (l.foldl (fun s r => s.putRec k pid r) u) := slotStill_foldl fun u r => putRec_slotStill u k pid r
  exact ((((walls _ _).drop (by decide) _).drop (by decide) _).trans (domains _ _)).trans (records _ _)

theorem slotTaken_reads (s : State) (k : Nat) {pid : Nat} (hp : pid < 256) (b : List Byte) :
    (s.slotTaken k pid b).rd A.pPid k = pid ∧ (s.slotTaken k pid b).rd A.pState k = 1 ∧ (s.slotTaken k pid b).rd A.strmGot 0 = s.rd A.strmGot 0 := by
  unfold State.slotTaken
  refine ⟨?_, State.rd_wr_same .., ?_⟩
  · rw [State.rd_wr_arr _ _ _ _ _ _ (by decide), State.rd_wr_same]
    exact Nat.mod_eq_of_lt hp
  · rw [State.rd_wr_arr _ _ _ _ _ _ (by decide), State.rd_wr_arr _ _ _ _ _ _ (by decide)]
    rfl

/-! ### What was under way in the slot (R165, R381, R469) -/

section ends
variable (s : State) (k : Nat)

theorem shCancel_slotStill : s.SlotStill (s.shCancel k) := by
  have dropped : s.SlotStill { s with shadow := s.shadow.filter fun w => w.slot ≠ k } := (State.SlotStill.refl s).update rfl
  exact (State.SlotStill.refl s).ite (((dropped.wr (a := A.shState) (by decide) k 0).wr (a := A.shOver) (by decide) k 0).wr (a := A.shResult) (by decide) k 5)

theorem sealWords_slotStill (ws : List Nat) : s.SlotStill (s.sealWords ws) := by
  have numbered (n : Nat) (l : List (List Nat)) : s.SlotStill { s.wr A.meterSeq 0 n with vault := l } :=
    ((State.SlotStill.refl s).wr (a := A.meterSeq) (by decide) 0 n).update rfl
  exact (numbered _ _).trans ((pushRecord_calm ..).only.slotStill (by decide))

theorem setPair_slotStill (o v : Nat) : s.SlotStill (s.setPair o v) := ((State.SlotStill.refl s).wr (a := A.reg) rfl _ _).wr (a := A.reg) rfl _ _

theorem epochShort_slotStill : s.SlotStill (s.epochShort k) := by
  have closed (l : List (List Nat)) : s.SlotStill { s with closed := l } := (State.SlotStill.refl s).update rfl
  have restart (u : State) (a b c d : Nat) : u.SlotStill ((((u.setPair a 0).setPair b 0).setPair c 0).setPair d 0) :=
    (((setPair_slotStill u a 0).trans (setPair_slotStill ..)).trans (setPair_slotStill ..)).trans (setPair_slotStill ..)
  exact ((((closed _).ite (sealWords_slotStill ..)).trans (restart ..)).wr (a := A.epOpen) (by decide) k 0).ite (.refl s)

theorem lnCancel_slotStill : s.SlotStill (s.lnCancel k) := slotStill_foldl (fun u i => (lnEnd_only u i 6).slotStill (by decide)) _ s

theorem resetTasks_slotStill (pid : Nat) : s.SlotStill (s.resetTasks pid) := by
  have one (mine : Nat → Bool) (u : State) (x : Nat × Nat) : u.SlotStill (if x.2 = 2 ∧ mine x.1 then u.taskWait x.1 else u) :=
    ((taskWait_only u x.1).slotStill (by decide)).ite (.refl u)
  have cleared (mine : Nat → Bool) : s.SlotStill (s.drop A.tFlags mine) := (State.SlotStill.refl s).drop (by decide) _
  let mine (t : Nat) : Bool := slice (s.rd A.tCfgNow t) 16 1 = 0 ∧ slice (s.rd A.tCfgNow t) 8 8 = pid
  exact (cleared mine).trans (slotStill_foldl (one mine) (s.listed A.tState) (s.drop A.tFlags mine))

theorem dropCause_slotStill (c : Nat) : s.SlotStill (s.dropCause k c) := (dropCause_calm s k c).only.slotStill (by decide)

theorem recSettle_slotStill : s.SlotStill (s.recSettle k) := by
  have gone := dropCause_slotStill s k 3
  exact (State.SlotStill.refl s).ite ((gone.trans (releaseHeld_slotStill _)).ite gone)

theorem recTo_slotStill (st : Nat) : s.SlotStill (s.recTo k st) :=
  (State.SlotStill.refl s).ite (((State.SlotStill.refl s).wr (a := A.reg) rfl _ _).trans ((raise_calm ..).only.slotStill (by decide)))

theorem recOff_slotStill : s.SlotStill (s.recOff k) := by
  have emptied : s.SlotStill (s.recEmptied k) := by
    have log : s.SlotStill { s with recLog := s.recLog.filter fun p => ¬ (p.slot = k ∧ p.waiting) } := (State.SlotStill.refl s).update rfl
    have snaps (u : State) : u.SlotStill (u.snapAbandon k) := by
      have dropped : u.SlotStill { u with snaps := u.snaps.filter fun x => x.slot ≠ k } := (State.SlotStill.refl u).update rfl
      exact (dropped.wr (a := A.reg) rfl _ _).wr (a := A.reg) rfl _ _
    exact log.trans (snaps _)
  rw [recOff_eq]
  exact ((((emptied.trans (recTo_slotStill ..)).wr (a := A.recWant) (by decide) k 0).wr (a := A.recSnapReq) (by decide) k 0).wr (a := A.reg) rfl _ _).trans
    (recSettle_slotStill ..)

theorem trigReset_slotStill : s.SlotStill (s.trigReset k) :=
  slotStill_foldl (fun u x => (((((((State.SlotStill.refl u).wr (a := A.reg) rfl _ _).wr (a := A.tgValid) (by decide) x 0).wr (a := A.tgExt) (by decide) x 0).wr
    (a := A.tgForce) (by decide) x 0)).wr (a := A.tgPrev) (by decide) (2 * x) 0).wr (a := A.tgPrev) (by decide) (2 * x + 1) 0) _ s

theorem clearFlight_slotStill : s.SlotStill (s.clearFlight k) := (State.SlotStill.refl s).update rfl

theorem rowsBack_slotStill (mine : Nat → Bool) : s.SlotStill (s.rowsBack mine) := by
  have put : ∀ (l : List (Nat × Nat)) (u : State), u.SlotStill
      (l.foldl (fun s x => if mine (x.1 / 256) then (s.wrE A.state x.1 x.2).wrE A.shadow x.1 x.2 else s) u) :=
    slotStill_foldl fun u x => (((State.SlotStill.refl u).wrE (a := A.state) (by decide) x.1 x.2).wrE (a := A.shadow) (by decide) x.1 x.2).ite (.refl u)
  exact ((((State.SlotStill.refl s).drop (a := A.state) (by decide) _).drop (a := A.shadow) (by decide) _).drop (a := A.err) (by decide) _).trans (put _ _)

theorem clearPresence_slotStill : s.SlotStill (s.clearPresence k) := by
  unfold State.clearPresence
  exact (((State.SlotStill.refl s).drop (a := A.landP) (by decide) _).drop (a := A.portP) (by decide) _).drop (a := A.portPErr) (by decide) _

theorem clearPorts_slotStill : s.SlotStill (s.clearPorts k) := by
  have tags (l : List MmeReq) : s.SlotStill { s with mme := l } := (State.SlotStill.refl s).update rfl
  unfold State.clearPorts
  exact ((((tags _).drop (a := A.slotR) (by decide) _).drop (a := A.tagOut) (by decide) _).drop (a := A.gen) (by decide) _)

theorem unitsBack_slotStill (mine : Nat → Bool) : s.SlotStill (s.unitsBack mine k) := by
  have flags (p q r o : Nat → Bool) : s.SlotStill ((((s.drop A.hist p).drop A.wflag q).drop A.err r).drop A.probe o) :=
    ((((State.SlotStill.refl s).drop (by decide) p).drop (by decide) q).drop (by decide) r).drop (by decide) o
  have pending (u : State) (l : List HistPend) : u.SlotStill { u with histPend := l } := (State.SlotStill.refl u).update rfl
  unfold State.unitsBack
  exact (((flags _ _ _ _).trans (pending _ _)).trans (clearPresence_slotStill ..)).trans (clearPorts_slotStill ..)

theorem bumpEpochs_slotStill : s.SlotStill (s.bumpEpochs k) := by
  have epochs : ∀ (l : List Nat) (u : State), u.SlotStill (l.foldl (fun s w => s.wr A.epoch w (s.rd A.epoch w + 1)) u) :=
    slotStill_foldl fun u w => (State.SlotStill.refl u).wr (a := A.epoch) (by decide) _ _
  have gone (u : State) (l : List PortalRec) (m : List PortalMsg) : u.SlotStill { u with portalRec := l, portalMsg := m } := (State.SlotStill.refl u).update rfl
  unfold State.bumpEpochs
  exact ((epochs _ _).trans (gone _ _ _)).trans (dropCause_slotStill _ k 4)

theorem clearStores_slotStill : s.SlotStill (s.clearStores k) := by
  rw [clearStores_eq]
  exact ((rowsBack_slotStill ..).trans (unitsBack_slotStill ..)).trans (bumpEpochs_slotStill ..)

theorem clearSlot_slotStill : s.SlotStill (s.clearSlot k) := by
  have zeroed : ∀ (l : List Arr), (l.all fun a => !slotKept.contains (a.code % 512)) = true → ∀ u : State, u.SlotStill (l.foldl (fun s a => s.wr a k 0) u) := by
    intro l
    induction l with
    | nil => exact fun _ u => .refl u
    | cons a r ih =>
      intro h u
      obtain ⟨first, rest⟩ := Bool.and_eq_true_iff.1 (List.all_cons ▸ h)
      exact ((State.SlotStill.refl u).wr (by simpa using first) k 0).trans (ih rest _)
  exact (((State.SlotStill.refl s).drop (a := A.recCnt) (by decide) _).drop (a := A.linkDone) (by decide) _).trans (zeroed _ (by decide) _)

theorem resetBlock_slotStill : s.SlotStill (s.resetBlock k) := by
  unfold State.resetBlock
  simp only [List.foldl_cons, List.foldl_nil]
  exact ((((State.SlotStill.refl s).drop (a := A.reg) (by decide) _).drop (a := A.hiLatch) (by decide) _).drop (a := A.heldLo) (by decide) _).drop
    (a := A.lastLo) (by decide) _

end ends

end Sys2Proof.Machine

/-! SUPPORT and CERTIFICATE. The load of an image and the image stage (chapters 07 and 14, R165, R344 to R352). Settles O41. -/

namespace Sys2Proof.Machine

open Reg

/-! ### The image in place (R165) -/

/-- The slot with its tables in place and what was in it gone. -/
def State.slotFilled (s : State) (k pid : Nat) (b : List Byte) (recs : List LoadRec) : State :=
  let s := (s.shCancel k).epochShort k
  let s := s.placeImage k pid b recs
  let s := (s.lnCancel k).resetTasks pid
  let s := ((s.recOff k).trigReset k).clearFlight k
  let s := (s.clearStores k).clearSlot k
  (s.resetBlock k).drop A.esStage fun i => i / 4096 = k

/-- The values of the image header. -/
def State.headerSet (s : State) (k : Nat) (b : List Byte) : State :=
  let s := (s.wr A.pDepth k (imgDepth b)).wr A.pImage k (leAt b 0x20 8)
  let s := (s.wr A.pMinPl k (imgMinPl b)).wr A.pMembers k (imgMembers b)
  let s := ((s.wr A.esLoadLen k (imgEseqLen b)).wr A.esLen k (imgEseqLen b)).wr A.esStart k (imgEseqStart b)
  s.wr A.esIdx k (imgEseqStart b)

/-- The edge sequencer's table. -/
def State.tableSet (s : State) (k : Nat) (b : List Byte) : State :=
  s.each (imgEseqLen b) fun s i => s.wrE A.esTab (4096 * k + i) (s.rd A.esLoad (4096 * k + i))

/-- The limits of holds and faults. -/
def State.limitsSet (s : State) (k : Nat) (b : List Byte) : State :=
  (s.wf (P k) HOLD_LIMIT_LIMIT_US (clampLimit (leAt b 0x14 4))).wr A.reg (P k + oFAULT_CFG) (leAt b 0x18 4 &&& 0x7F77)

/-- The slot is ready to start. -/
def State.slotReady (s : State) (k : Nat) (b : List Byte) (auto stream : Bool) : State :=
  let s := (s.wr A.gatePull k (idlePull 0)).wr A.pWalls k (wallsIn (s.imgMask b)).length
  let s := (s.wr A.autoStart k (bit auto)).wr A.fromStream k (bit stream)
  (s.epochOpen k).pullsChanged k

theorem install_eq (s : State) (k pid : Nat) (b : List Byte) (recs : List LoadRec) (auto stream : Bool) : s.install k pid b recs auto stream =
    ((((s.slotFilled k pid b recs).headerSet k b).tableSet k b).limitsSet k b).slotReady k b auto stream := rfl

section steps
variable (s : State) (k : Nat) (b : List Byte)

def headerCodes : List Nat := [A.pDepth.code, A.pImage.code, A.pMinPl.code, A.pMembers.code, A.esLoadLen.code, A.esLen.code, A.esStart.code, A.esIdx.code]

theorem headerSet_only : s.Only headerCodes (s.headerSet k b) :=
  (((((((State.Only.refl ..).wr _ _ rfl).wr _ _ rfl).wr _ _ rfl).wr _ _ rfl).wr _ _ rfl).wr _ _ rfl).wr _ _ rfl |>.wr _ _ rfl

theorem tableSet_only : s.Only [A.esTab.code, A.err.code] (s.tableSet k b) :=
  only_each (fun u _ => (State.Only.refl _ u).wrE _ _ rfl rfl) _ s

theorem limitsSet_only : s.Only [0] (s.limitsSet k b) := ((State.Only.refl ..).wf _ _ _ rfl).wr (a := A.reg) _ _ rfl

/-- Arrays of the slot's gate, start and epoch, and of the plumb. -/
def readyCodes : List Nat := [A.gatePull.code, A.pWalls.code, A.autoStart.code, A.fromStream.code, A.epOpen.code, A.epS.code, A.epMono.code, A.epReg.code,
  A.epBefore.code, A.epAfter.code] ++ plumbCodes

/-- But for the gate's pull, which comes first. -/
theorem slotReady_pulled (auto stream : Bool) : (s.wr A.gatePull k (idlePull 0)).Only (readyCodes.erase A.gatePull.code) (s.slotReady k b auto stream) :=
  ((((((((((State.Only.refl ..).wr (a := A.pWalls) _ _ (by decide)).wr (a := A.autoStart) _ _ (by decide)).wr (a := A.fromStream) _ _ (by decide)).wr (a := A.epOpen)
    _ _ (by decide)).wr (a := A.epS) _ _ (by decide)).wr (a := A.epMono) _ _ (by decide)).wr (a := A.epReg) _ _ (by decide)).wr (a := A.epBefore) _ _
    (by decide)).wr (a := A.epAfter) _ _ (by decide)).step (pullsChanged_calm ..).only (by decide)

theorem slotReady_only (auto stream : Bool) : s.Only readyCodes (s.slotReady k b auto stream) :=
  ((State.Only.refl ..).wr (a := A.gatePull) _ _ (by decide)).step (slotReady_pulled s k b auto stream) (by decide)

theorem headerSet_reads (hd : imgDepth b < 2 ^ 10) (hl : imgEseqLen b < 2 ^ 13) (hs : imgEseqStart b < 2 ^ 12) :
    (s.headerSet k b).rd A.pDepth k = imgDepth b ∧ (s.headerSet k b).rd A.esLen k = imgEseqLen b ∧ (s.headerSet k b).rd A.esIdx k = imgEseqStart b := by
  refine ⟨?_, ?_, ?_⟩
  · have later : (s.wr A.pDepth k (imgDepth b)).Only (headerCodes.erase A.pDepth.code) (s.headerSet k b) :=
      ((((((((State.Only.refl ..).wr _ _ rfl).wr _ _ rfl).wr _ _ rfl).wr _ _ rfl).wr _ _ rfl).wr _ _ rfl).wr _ _ rfl)
    rw [later.rd _ _ (by decide), State.rd_wr_same]
    exact Nat.mod_eq_of_lt hd
  · unfold State.headerSet
    dsimp only
    rw [State.rd_wr_arr _ _ _ _ _ _ (by decide), State.rd_wr_arr _ _ _ _ _ _ (by decide), State.rd_wr_same]
    exact Nat.mod_eq_of_lt hl
  · unfold State.headerSet
    dsimp only
    rw [State.rd_wr_same]
    exact Nat.mod_eq_of_lt hs

theorem clampLimit_lt (v : Nat) : clampLimit v < 2 ^ 32 := by
  unfold clampLimit
  split
  · decide
  · have := Nat.min_le_right v 0xD693A400
    omega

theorem limitsSet_limit : (s.limitsSet k b).rf (P k) HOLD_LIMIT_LIMIT_US = clampLimit (leAt b 0x14 4) := by
  have other : (s.limitsSet k b).rf (P k) HOLD_LIMIT_LIMIT_US = (s.wf (P k) HOLD_LIMIT_LIMIT_US (clampLimit (leAt b 0x14 4))).rf (P k) HOLD_LIMIT_LIMIT_US :=
    congrArg (fun v => slice v HOLD_LIMIT_LIMIT_US.lo HOLD_LIMIT_LIMIT_US.w)
      (State.rd_wr_ix _ A.reg _ _ _ (by simp only [oFAULT_CFG, HOLD_LIMIT_LIMIT_US]; omega))
  rw [other, State.rf_wf_same _ _ _ _ (by decide)]
  exact Nat.mod_eq_of_lt (clampLimit_lt _)

theorem slotReady_pull (auto stream : Bool) : (s.slotReady k b auto stream).rd A.gatePull k = 2 := by
  rw [(slotReady_pulled s k b auto stream).rd _ _ (by decide), State.rd_wr_same]
  rfl

/-- Filling the slot keeps what it took, and the emulated cycle is 0. -/
theorem slotFilled_reads {pid : Nat} (hp : pid < 256) (recs : List LoadRec) : (s.slotFilled k pid b recs).rd A.pPid k = pid ∧
    (s.slotFilled k pid b recs).rd A.pState k = 1 ∧ (s.slotFilled k pid b recs).rd A.strmGot 0 = s.rd A.strmGot 0 ∧
    (s.slotFilled k pid b recs).rd A.pCycle k = 0 := by
  have ended := (shCancel_slotStill s k).trans (epochShort_slotStill _ k)
  have taken := slotTaken_reads ((s.shCancel k).epochShort k) k hp b
  have placed := placeImage_slotStill ((s.shCancel k).epochShort k) k pid b recs
  unfold State.slotFilled
  dsimp only
  generalize ((s.shCancel k).epochShort k).placeImage k pid b recs = u at placed ⊢
  have settled := (((((((lnCancel_slotStill u k).trans (resetTasks_slotStill _ pid)).trans (recOff_slotStill _ k)).trans (trigReset_slotStill _ k)).trans
    (clearFlight_slotStill _ k)).trans (clearStores_slotStill _ k)).trans (clearSlot_slotStill _ k)).trans (resetBlock_slotStill _ k)
  have cycle := clearSlot_reads (a := A.pCycle) (by decide) ((((((u.lnCancel k).resetTasks pid).recOff k).trigReset k).clearFlight k).clearStores k) k
  generalize ((((((u.lnCancel k).resetTasks pid).recOff k).trigReset k).clearFlight k).clearStores k).clearSlot k = v at settled cycle ⊢
  have all := placed.trans (settled.drop (a := A.esStage) (by decide) fun i => i / 4096 = k)
  obtain ⟨pid', state, got⟩ := taken
  refine ⟨(all.arrays _ _ (by decide)).trans pid', (all.arrays _ _ (by decide)).trans state,
    (all.arrays _ _ (by decide)).trans (got.trans (ended.arrays _ _ (by decide))), ?_⟩
  have block : (v.resetBlock k).rd A.pCycle k = v.rd A.pCycle k := by
    unfold State.resetBlock
    simp only [List.foldl_cons, List.foldl_nil]
    rw [rd_drop _ _ _ (by decide), rd_drop _ _ _ (by decide), rd_drop _ _ _ (by decide), rd_drop _ _ _ (by decide)]
  rw [rd_drop _ _ _ (by decide), block, cycle]

end steps

/-- What the load of an image gives. -/
structure State.Installed (s t : State) (k pid : Nat) (b : List Byte) : Prop where
  pid : t.rd A.pPid k = pid
  state : t.rd A.pState k = 1
  cycle : t.rd A.pCycle k = 0
  depth : t.rd A.pDepth k = imgDepth b
  length : t.rd A.esLen k = imgEseqLen b
  index : t.rd A.esIdx k = imgEseqStart b
  pull : t.rd A.gatePull k = 2
  limit : t.rf (P k) HOLD_LIMIT_LIMIT_US = clampLimit (leAt b 0x14 4)
  got : t.rd A.strmGot 0 = s.rd A.strmGot 0

theorem install_installed (s : State) (k : Nat) {pid : Nat} (hp : pid < 256) (b : List Byte) (recs : List LoadRec) (auto stream : Bool)
    (hd : imgDepth b < 2 ^ 10) (hl : imgEseqLen b < 2 ^ 13) (hs : imgEseqStart b < 2 ^ 12) : s.Installed (s.install k pid b recs auto stream) k pid b := by
  obtain ⟨pid', state, got, cycle⟩ := slotFilled_reads s k b hp recs
  rw [install_eq]
  generalize s.slotFilled k pid b recs = u at *
  have header := headerSet_only u k b
  obtain ⟨depth, length, index⟩ := headerSet_reads u k b hd hl hs
  generalize u.headerSet k b = v at *
  have table := tableSet_only v k b
  generalize v.tableSet k b = w at *
  have limits := limitsSet_only w k b
  have limit := limitsSet_limit w k b
  generalize w.limitsSet k b = x at *
  have ready := slotReady_only x k b auto stream
  have pull := slotReady_pull x k b auto stream
  generalize x.slotReady k b auto stream = t at *
  have late (a : Arr) (i : Nat) (h1 : readyCodes.contains (a.code % 512) = false) (h2 : [0].contains (a.code % 512) = false)
      (h3 : [A.esTab.code, A.err.code].contains (a.code % 512) = false) : t.rd a i = v.rd a i :=
    ((ready.rd a i h1).trans (limits.rd a i h2)).trans (table.rd a i h3)
  constructor
  case pid => exact (late _ _ (by decide) (by decide) (by decide)).trans ((header.rd _ _ (by decide)).trans pid')
  case state => exact (late _ _ (by decide) (by decide) (by decide)).trans ((header.rd _ _ (by decide)).trans state)
  case cycle => exact (late _ _ (by decide) (by decide) (by decide)).trans ((header.rd _ _ (by decide)).trans cycle)
  case depth => exact (late _ _ (by decide) (by decide) (by decide)).trans depth
  case length => exact (late _ _ (by decide) (by decide) (by decide)).trans length
  case index => exact (late _ _ (by decide) (by decide) (by decide)).trans index
  case pull => exact pull
  case limit => exact (congrArg (fun v => slice v HOLD_LIMIT_LIMIT_US.lo HOLD_LIMIT_LIMIT_US.w) (ready.rd A.reg _ (by decide))).trans limit
  case got => exact (late _ _ (by decide) (by decide) (by decide)).trans ((header.rd _ _ (by decide)).trans got)

/-! ### Loads that pass and loads that fail (R165) -/

section loads
variable {s : State} {b : List Byte} {pid k : Nat} {auto stream : Bool}

/-- The slot that a load takes. -/
def State.freeSlotIx (s : State) : Option Nat := firstIx 32 fun k => ¬ s.loaded k

theorem loadImage_failed (h : s.loadCheck b pid s.freeSlotIx ≠ 0) :
    s.loadImage b pid auto stream = (s.loadCheck b pid s.freeSlotIx, s.wf 0 IMAGE_LOAD_STATUS_RESULT (s.loadCheck b pid s.freeSlotIx)) := by
  unfold State.loadImage
  dsimp only
  split
  next bad _ _ => exact absurd bad h
  next => rfl

theorem loadImage_loads (hs : s.freeSlotIx = some k) (h : s.loadCheck b pid (some k) = 0) {recs : List LoadRec} (hr : imgRecs b = some recs) :
    s.loadImage b pid auto stream =
      (0, ((s.install k pid b recs auto stream).wf 0 IMAGE_LOAD_STATUS_RESULT 0).wf 0 IMAGE_LOAD_STATUS_SLOT k) := by
  have slot : (firstIx 32 fun k => ¬ s.loaded k) = some k := hs
  unfold State.loadImage
  simp only [slot, h, hr]

/-- A load that passes has records, and the geometry of this device. -/
theorem loadCheck_passed (h : s.loadCheck b pid (some k) = 0) : ∃ recs, imgRecs b = some recs ∧ s.imgGeometryBad b recs = false := by
  unfold State.loadCheck at h
  split at h
  next => cases h
  next recs hr =>
    refine ⟨recs, hr, Bool.eq_false_iff.2 fun bad => ?_⟩
    split at h
    · cases h
    · cases h

theorem geometry_bounds {recs : List LoadRec} (h : s.imgGeometryBad b recs = false) :
    imgDepth b < 2 ^ 10 ∧ imgEseqLen b < 2 ^ 13 ∧ imgEseqStart b < 2 ^ 12 := by
  have ok := of_decide_eq_false h
  simp only [not_or] at ok
  obtain ⟨-, depth, -, -, length, start, -⟩ := ok
  omega

/-! ### A PARTITION section of the stream (R341, R344, R346) -/

variable {sec : Section} {i : Nat}

section next
variable (hon : s.on A.strmOn 0 = true) (he : s.on A.strmEnd 0 = false) (hst : s.stage = 5) (hi : s.nextEntry = some i)
include hon he hst hi

theorem streamSection_eq : s.streamSection sec =
    if ¬ s.isNext sec i then s
    else if s.chainAddr < sec.target then { s.wr A.strmNext 0 (i + 1) with out := s.out ++ [.imageSection sec] }
    else if ((s.wr A.strmNext 0 (i + 1)).loadSection sec true).1 = bootOk then ((s.wr A.strmNext 0 (i + 1)).loadSection sec true).2.sat A.strmGot 0 1
    else (((s.wr A.strmNext 0 (i + 1)).loadSection sec true).2.wr A.strmBad 0 1).bootFail ((s.wr A.strmNext 0 (i + 1)).loadSection sec true).1 := by
  have open' : ¬ (¬ s.on A.strmOn 0 = true ∨ s.on A.strmEnd 0 = true ∨ s.stage ≠ 5) := by
    rintro (bad | bad | bad)
    · exact bad hon
    · exact Bool.false_ne_true (he.symm.trans bad)
    · exact bad hst
  have addr : (s.wr A.strmNext 0 (i + 1)).chainAddr = s.chainAddr := rf_wr _ _ _ _ _ (by decide)
  rw [State.streamSection, if_neg open', hi]
  dsimp only
  rw [addr]
  rfl

theorem streamSection_foreign (hn : s.isNext sec i = false) : s.streamSection sec = s := by
  rw [streamSection_eq hon he hst hi, if_pos (by rw [hn]; decide)]

theorem streamSection_onward (hn : s.isNext sec i = true) (ha : s.chainAddr < sec.target) :
    s.streamSection sec = { s.wr A.strmNext 0 (i + 1) with out := s.out ++ [.imageSection sec] } := by
  rw [streamSection_eq hon he hst hi, if_neg (by rw [hn]; decide), if_pos ha]

section here
variable (hn : s.isNext sec i = true) (ha : sec.target = s.chainAddr)
include hn ha

theorem streamSection_fails {r : Nat} {t : State} (hl : (s.wr A.strmNext 0 (i + 1)).loadSection sec true = (r, t)) (hr : r ≠ 0) :
    s.streamSection sec = (t.wr A.strmBad 0 1).bootFail r := by
  rw [streamSection_eq hon he hst hi, if_neg (by rw [hn]; decide), if_neg (by omega), hl]
  exact if_neg hr

theorem streamSection_loads {t : State} (hl : (s.wr A.strmNext 0 (i + 1)).loadSection sec true = (0, t)) :
    s.streamSection sec = t.sat A.strmGot 0 1 := by
  rw [streamSection_eq hon he hst hi, if_neg (by rw [hn]; decide), if_neg (by omega), hl]
  exact if_pos rfl

end here

end next

theorem loadSection_closed {r : Nat} (h : s.openSection sec true = (r, b)) (hr : r ≠ 0) : s.loadSection sec true = (r, s) := by
  rw [State.loadSection, h]
  exact if_pos hr

theorem loadSection_opened (h : s.openSection sec true = (0, b)) : s.loadSection sec true =
    (if (s.loadImage b (slice sec.flags 8 8) (true && sec.flags.testBit 1) true).1 = 0 then bootOk else bootLoad,
      (s.loadImage b (slice sec.flags 8 8) (true && sec.flags.testBit 1) true).2) := by
  rw [State.loadSection, h]
  exact if_neg (not_not_intro (rfl : bootOk = bootOk))

theorem loadSection_refused (h : s.openSection sec true = (0, b)) {r : Nat} (hc : s.loadCheck b (slice sec.flags 8 8) s.freeSlotIx = r) (hr : r ≠ 0) :
    s.loadSection sec true = (10, s.wf 0 IMAGE_LOAD_STATUS_RESULT r) := by
  rw [loadSection_opened h, loadImage_failed (by rwa [hc]), hc, if_neg hr]
  rfl

/-- The partition is in place, and the load's status shows it. -/
theorem loadSection_installed (h : s.openSection sec true = (0, b)) (hs : s.freeSlotIx = some k) (hc : s.loadCheck b (slice sec.flags 8 8) (some k) = 0) :
    ∃ t, s.loadSection sec true = (0, (t.wf 0 IMAGE_LOAD_STATUS_RESULT 0).wf 0 IMAGE_LOAD_STATUS_SLOT k) ∧ s.Installed t k (slice sec.flags 8 8) b := by
  obtain ⟨recs, hr, geometry⟩ := loadCheck_passed hc
  obtain ⟨depth, length, start⟩ := geometry_bounds geometry
  refine ⟨_, ?_, install_installed s k (slice_lt ..) b recs (true && sec.flags.testBit 1) true depth length start⟩
  rw [loadSection_opened h, loadImage_loads hs hc hr, if_pos rfl]
  rfl

theorem freeSlotIx_lt (h : s.freeSlotIx = some k) : k < 32 := by
  have found : (List.range 32).find? (fun k => ¬ s.loaded k) = some k := h
  exact List.mem_range.1 (List.mem_of_find?_eq_some found)

end loads

/-- A section of the stream that puts its partition in place. -/
theorem section_counted {s u t : State} {k pid : Nat} {b : List Byte} (hk : k < 32) (h : u.Installed t k pid b) (hg : u.rd A.strmGot 0 = s.rd A.strmGot 0) :
    let v := ((t.wf 0 IMAGE_LOAD_STATUS_RESULT 0).wf 0 IMAGE_LOAD_STATUS_SLOT k).sat A.strmGot 0 1
    v.rd A.pPid k = pid ∧ v.rd A.pState k = 1 ∧ v.rd A.pCycle k = 0 ∧ v.rd A.pDepth k = imgDepth b ∧ v.rd A.esLen k = imgEseqLen b ∧
    v.rd A.esIdx k = imgEseqStart b ∧ v.rf 0 IMAGE_LOAD_STATUS_RESULT = 0 ∧ v.rf 0 IMAGE_LOAD_STATUS_SLOT = k ∧ v.rd A.gatePull k = 2 ∧
    v.rf (P k) HOLD_LIMIT_LIMIT_US = clampLimit (leAt b 0x14 4) ∧ v.rd A.strmGot 0 = min (2 ^ 14 - 1) (s.rd A.strmGot 0 + 1) := by
  dsimp only
  have shown : t.Only [0] ((t.wf 0 IMAGE_LOAD_STATUS_RESULT 0).wf 0 IMAGE_LOAD_STATUS_SLOT k) := ((State.Only.refl ..).wf _ _ _ rfl).wf _ _ _ rfl
  have array (a : Arr) (h0 : [A.reg.code, A.strmGot.code].contains (a.code % 512) = false) :
      (((t.wf 0 IMAGE_LOAD_STATUS_RESULT 0).wf 0 IMAGE_LOAD_STATUS_SLOT k).sat A.strmGot 0 1).rd a k = t.rd a k :=
    ((shown.mono (more := [A.reg.code, A.strmGot.code]) (by decide)).wr (a := A.strmGot) 0 _ (by decide)).rd a k h0
  have field (x : Nat) (f : Fld) : (((t.wf 0 IMAGE_LOAD_STATUS_RESULT 0).wf 0 IMAGE_LOAD_STATUS_SLOT k).sat A.strmGot 0 1).rf x f =
      ((t.wf 0 IMAGE_LOAD_STATUS_RESULT 0).wf 0 IMAGE_LOAD_STATUS_SLOT k).rf x f := rf_wr _ _ _ _ _ (by decide)
  have far : P k + HOLD_LIMIT_LIMIT_US.off ≠ 0x818 := by
    simp only [P, Off.part]
    omega
  have limit : ((t.wf 0 IMAGE_LOAD_STATUS_RESULT 0).wf 0 IMAGE_LOAD_STATUS_SLOT k).rf (P k) HOLD_LIMIT_LIMIT_US = t.rf (P k) HOLD_LIMIT_LIMIT_US := by
    rw [State.rf, State.reg_wf _ _ _ _ _ (by exact fun e => far (e.symm.trans rfl)), State.reg_wf _ _ _ _ _ (by exact fun e => far (e.symm.trans rfl)), State.rf]
  refine ⟨(array _ (by decide)).trans h.pid, (array _ (by decide)).trans h.state, (array _ (by decide)).trans h.cycle, (array _ (by decide)).trans h.depth,
    (array _ (by decide)).trans h.length, (array _ (by decide)).trans h.index, ?_, ?_, (array _ (by decide)).trans h.pull,
    (field _ _).trans (limit.trans h.limit), ?_⟩
  · rw [field, rf_wf_other _ _ _ (by decide), State.rf_wf_same _ _ _ _ (by decide)]
    rfl
  · rw [field, State.rf_wf_same _ _ _ _ (by decide)]
    exact Nat.mod_eq_of_lt hk
  · rw [State.sat, State.rd_wr_same, shown.rd _ _ (by decide), h.got, hg]
    refine Nat.mod_eq_of_lt ?_
    have := Nat.min_le_left (2 ^ 14 - 1) (s.rd A.strmGot 0 + 1)
    exact Nat.lt_of_le_of_lt this (by decide)

/-! ### The obligation -/

/-- Settles O41: each command of the image stage is its function on a device whose clocks run, and the load of a section keeps its slot's new state and ID while it
clears what stood there. -/
theorem imageStageAndLoads : Obligations.ImageStageAndLoads := by
  unfold Obligations.ImageStageAndLoads
  refine ⟨fun s who hdr => ⟨fun hc => ?_, fun serves => ?_⟩, ?_⟩
  · have stream : exec (.imageStream hdr) s = .next (s.imageStream hdr) := live_next hc fun s => s.imageStream hdr
    have mark : exec .endMark s = .next s.endMark := live_next hc State.endMark
    have rise : exec .doneRise s = .next s.doneRise := live_next hc State.doneRise
    have fall : exec .doneFall s = .next s.doneFall := live_next hc State.doneFall
    refine ⟨fun h => ?_, fun low high over' hk => ⟨fun empty => ?_, fun hh hp => ?_, fun hh hp => ?_⟩, fun low high over' hk hn => ?_, fun h => ?_, fun hon he hst => ⟨fun hw hb => ?_,
      fun hw => ?_⟩, fun h => ?_, fun h hs => ?_, fun h hs ha => ?_, fun hs => ?_, fun hs => ?_⟩
    · rw [stream, imageStream_ignored h]
    · exact ⟨_, stream, empty ▸ imageStream_empty_begun ⟨low, high, over'⟩ hk⟩
    · obtain ⟨begun, svn⟩ := imageStream_begun ⟨low, high, over'⟩ hk hh hp
      exact ⟨_, stream, begun, svn⟩
    · rw [stream, imageStream_failed ⟨low, high, over'⟩ hk hh hp]
      rfl
    · exact ⟨_, stream, imageStream_driveless ⟨low, high, over'⟩ hk hn⟩
    · rw [mark, endMark_none h]
    · rw [mark, endMark_whole hon he hst hw hb]
      rfl
    · rw [mark, endMark_short hon he hst hw]
      rfl
    · rw [rise, doneRise_none h]
    · rw [rise, doneRise_early h hs]
    · rw [rise, doneRise_runs h hs ha]
    · rw [fall, doneFall_runs hs]
    · rw [fall, doneFall_early hs]
  · have load : exec (.loadGo who) s = .next (s.loadCtrl who) := access_next serves _ fun s => s.loadCtrl who
    have recover : exec (.recoveryGo who) s = .next (s.recoveryCtrl who) := access_next serves _ fun s => s.recoveryCtrl who
    refine ⟨fun no => ⟨?_, ?_⟩, fun may => ⟨fun early => ?_, fun done b bad u hb => ⟨fun cut => ?_, fun r hr whole hf => ?_, fun whole hp none => ?_⟩, fun hs => ?_,
      fun hs => ⟨fun r hr hf => ?_, fun hp hf hl => ?_⟩⟩⟩
    · rw [load, loadCtrl_denied no]
    · rw [recover, recoveryCtrl_denied no]
    · rw [load, loadCtrl_early may early]
    · rw [load, loadCtrl_goes may done, loadGo_cut hb cut]
    · rw [load, loadCtrl_goes may done, loadGo_failed hb whole (by rwa [hf]), hf]
    · rw [load, loadCtrl_goes may done, loadGo_loads hb whole hp, loadAll_none fun x hx => by rw [chainAddr_noteImage]; exact none x hx]
    · rw [recover, recoveryCtrl_ignored may hs]
    · rw [recover, recoveryCtrl_goes may hs, recoveryGo_failed (by rwa [hf]), hf]
      rfl
    · have done := (recoveryGo_recovered hp hf hl).answered
      exact ⟨_, recover.trans (congrArg Host.Outcome.next (recoveryCtrl_goes may hs)), done.result, done.shown, done.stage, done.cores, done.mem, done.staging,
        done.slots⟩
  · intro s sec b pid hc hon he hst i hi v
    have streamed : exec (.partitionSection sec) s = .next (s.streamSection sec) := live_next hc fun s => s.streamSection sec
    refine ⟨fun hn => ?_, fun hn ha => ?_, fun hn ha => ⟨fun r hr ho => ?_, fun ho => ⟨fun r hr hl => ?_, fun k hk hl => ?_⟩⟩⟩
    · rw [streamed, streamSection_foreign hon he hst hi hn]
    · rw [streamed, streamSection_onward hon he hst hi hn ha]
    · rw [streamed, streamSection_fails hon he hst hi hn ha (loadSection_closed ho hr) hr]
    · rw [streamed, streamSection_fails hon he hst hi hn ha (loadSection_refused ho hl hr) (by decide)]
    · obtain ⟨t, loaded, installed⟩ := loadSection_installed ho hk hl
      refine ⟨_, streamed.trans (congrArg Host.Outcome.next (streamSection_loads hon he hst hi hn ha loaded)), ?_⟩
      exact section_counted (freeSlotIx_lt hk) installed (State.rd_wr_arr _ _ _ _ _ _ (by decide))

end Sys2Proof.Machine
